-- ==== Sys2Proof/Word.lean ====
section
/-! DEFINITION. The word types of the part (R7, R8, R60) and the one container type for sparse data: a list of
(key, value) pairs with rising keys that lists no entry equal to what an unlisted key reads as. -/

namespace Sys2Proof

/-- A 32-bit register word (R7). -/
abbrev Word := BitVec 32

/-- A byte on a wire or in flash. -/
abbrev Byte := BitVec 8

/-- A 48-bit engine word: I memory, Y memory, X RAM, D registers (R51, R60). -/
abbrev DWord := BitVec 48

/-- A 64-bit position, velocity or time (R8, R9). -/
abbrev QWord := BitVec 64

/-- Sparse data by key: registers by BAR0 offset, memories by address, hidden state by axis, port or channel. -/
abbrev Sparse (α : Type) := List (Nat × α)

end Sys2Proof
end

