-- ==== Sys2Proof/Syntax.lean ====
section
/-! DEFINITION. The commands of the part: one constructor for each row of the table of operations and events
(opcode_table.json), with the operands that come from outside. -/

namespace Sys2Proof

/-- What the error correction found in the memory words an engine instruction read (R53): the number of words with a
corrected single-bit error, and whether a word had a double-bit error. -/
structure Ecc where
  fixed : Fin 4
  bad : Bool
  deriving DecidableEq, Repr

/-- Every word read without error. -/
def Ecc.clean : Ecc := ⟨0, false⟩

/-- One word with a corrected error. -/
def Ecc.corrected : Ecc := ⟨1, false⟩

/-- One word with a double-bit error. -/
def Ecc.double : Ecc := ⟨0, true⟩

/-- Bits of a trunk line (R249): how many, and the bits as one number, the first the most significant. -/
structure LineBits where
  len : Nat
  bits : Nat
  deriving DecidableEq, Repr

/-- Bits of the line at a trunk port. -/
structure PortLine where
  port : Fin 3
  line : LineBits
  deriving DecidableEq, Repr

/-- An edge at a pin (R128, R171, R172): the GT of the first sample at the new level, and the ns for which it stays. -/
structure PinEdge where
  at_ : QWord
  stable : Nat
  deriving DecidableEq, Repr

/-- A level at a pin (R200) and the ns for which it stays. -/
structure PinLevel where
  level : Bool
  stable : Nat
  deriving DecidableEq, Repr

/-- A Courier trunk frame as it reaches a port: the bits of its blocks on the line, after the 58 bits before its first
boundary (R250), and the GT of its first alignment word in units of 2^-8 ns (R255). Bad blocks that the receiver met since its
last command stand before it (R254). -/
structure TrunkFrame where
  port : Fin 3
  line : LineBits
  rx : Nat
  deriving DecidableEq, Repr

/-- A message of the die-to-die link (R290): sequence number, fields, CRC-16. -/
structure LinkMsg where
  seq : Nat
  body : List Nat
  crc : Nat
  deriving DecidableEq, Repr

/-- How a section is handed over (R290, R311): what arrives in place of each message where the link changes it, whether both
channels find the same CRC, and whether the configuration reads back as written. -/
structure SectLoad where
  link : List (Option LinkMsg)
  agree : Bool
  readBack : Bool
  deriving DecidableEq, Repr

/-- A CAN frame (R315, R326). -/
structure CanFrame where
  id : BitVec 29
  ide : Bool
  rtr : Bool
  fdf : Bool
  brs : Bool
  esi : Bool
  dlc : BitVec 4
  data : List Byte
  deriving DecidableEq, Repr

/-- How a frame of this controller left the bus (R325): an error with its code in LEC, `exempt` where ISO 11898-1 leaves the
transmitter's counter alone (no acknowledgement in an error-passive node, a stuff error in arbitration). -/
inductive CanTxHow where
  | success
  | lostArbitration
  | error (code : Fin 7) (exempt : Bool)
  deriving DecidableEq, Repr

/-- How far the flash has come with what a Parcel command has it do (R361, R373): all of it; a flash fault; or the command is
still running. -/
inductive FlashEnd where
  | good | fault | running
  deriving DecidableEq, Repr

/-- What a Parcel command finds at the flash (R361, R373): unless all goes well, so many operations are complete, and the next
one has come as far as `torn` says: what the first bytes of an erase hold, or the bits of the first bytes of a program operation
that are not programmed yet. -/
structure FlashRun where
  ending : FlashEnd
  steps : Nat
  torn : List Byte
  deriving DecidableEq, Repr

/-- A condition on the bus by which ISO 11898-1 moves the error counters (R315, R320): an error detected; one that the
standard exempts in a transmitter; a bit error within an error or overload flag, or dominant bits after one; an overload
condition, which is no error. -/
inductive CanErr where
  | detected | exempt | inFlag | overload
  deriving DecidableEq, Repr

/-- A memory that vendor debug reaches (R51, R157, R165, R412): the engines' I and Y memory, one engine's X RAM, the descriptors and
the Pawprint buffer of the Kennel, the supervisor core's memory. -/
inductive DebugMem where
  | program | coef | data (e : Fin 16) | descriptor | pawprint | supervisor
  deriving DecidableEq, Repr

/-- What a vendor session does (R412): nothing, stop or go on with a core (an engine by its number, 16 the Kennel, 17 the
supervisor core), read or write a word of memory. -/
inductive DebugAct where
  | none
  | halt (core : Fin 18)
  | resume (core : Fin 18)
  | read (m : DebugMem) (addr : BitVec 16)
  | write (m : DebugMem) (addr : BitVec 16) (v : BitVec 128)
  deriving DecidableEq, Repr

/-- A vendor debug instruction (R410, R412): its code, and what the session does with it, which is the vendor's to say. -/
structure DebugOp where
  code : BitVec 4
  act : DebugAct
  deriving DecidableEq, Repr

/-- The levels of the balls of the boundary-scan register, in the order of R398 (R411; log entry 156). -/
abbrev ScanWord := BitVec 154

/-- How HCS_N ended a QSPI frame (R335): on its last byte, before it, or with clocks after it. -/
inductive QspiEnd where
  | exact | early | extra
  deriving DecidableEq, Repr

/-- How a QSPI write frame ended (R334, R335): its clocks, and how many frames are held for execution before it. -/
structure QspiWriteEnd where
  held : Fin 3
  clocks : QspiEnd
  deriving DecidableEq, Repr

/-- What both Sheepdog channels observe in one safety cycle (R288, R297): the clock ratio A to B in thousandths of
nominal, the rails, the output readbacks of each channel, overload (current limiting of 20 ms or over-temperature),
VSO in mV, and whether the exchanged results differ. -/
structure DogObs where
  clockRatio : Nat
  railsGood : Bool
  soReadA : BitVec 4
  soReadB : BitVec 4
  overload : BitVec 4
  vsoMv : Nat
  differ : Bool
  deriving DecidableEq, Repr

/-- One command or event. Operands are what the outside brings; everything else is the part's own state. -/
inductive Instr where
  /-- BEAT_EDGE (R28): GT reaches beat edge k: BEAT_NUM becomes k, master inputs latch, loads and slack of beat k-1 are published, edge-bound tasks are released and head ports launch beat frames. -/
  | beatEdge
  /-- INPUT_DEADLINE (R34): At IDL every non-Disabled axis without an accepted in-slot is marked MISSING and releases no work for the beat. -/
  | inputDeadline
  /-- OUTPUT_PHASE (R41): At OPH fixed-phase outputs are latched, unfinished ones are repeated with STALE, unfinished level 0 to 3 instances are ended, shedding and axis states are evaluated and ADAPT tasks are released. -/
  | outputPhase
  /-- SHED_SUSPENSION_END (R45): OPH of the end beat of level A or B is reached and dispatch of the suspended levels resumes. -/
  | shedSuspensionEnd
  /-- STOP_END (R121): Stopping ends when the axis has been still for 8 accepted beats or AX_STOP_TIME beats have passed, leading to Held or Faulted. -/
  | stopEnd (a : Fin 128)
  /-- FRAME_CLOSE (R35): At FCL Leash reception ends, the acyclic window closes, the gear unit copies feedback, and each redundant segment's beat is judged and its path state evaluated. -/
  | frameClose
  /-- GT_STEP (R21): At a beat edge with no axis Enabled or Stopping, GT jumps, BEAT_NUM is rederived, GTSTEP is set and an entry is logged. -/
  | gtStep
  /-- BEAT_NUM_READ (R24): A read of BEAT_NUM snapshots BEAT_EDGE_LO and BEAT_EDGE_HI for the same edge. -/
  | beatNumRead
  /-- LOW_WORD_READ (R338): A read of the low word of a 64-bit register snapshots its high word for a later read. -/
  | lowWordRead (off : BitVec 20)
  /-- BEAT_MARGIN_WRITE (R38): Any write to BEAT_MARGIN sets MIN_SLACK to 0x3_FFFF and discards only published slacks. -/
  | beatMarginWrite (v : Word)
  /-- NOP (R80): Does nothing but make the parallel moves. -/
  | nop (e : Fin 16) (ecc : Ecc)
  /-- CMAC (R67): Adds the complex product of D[B] and D[C] to ACC[AC]. -/
  | cmac (e : Fin 16) (ecc : Ecc)
  /-- CMACC (R67): Adds the product of D[B] and the conjugate of D[C] to ACC[AC]. -/
  | cmacc (e : Fin 16) (ecc : Ecc)
  /-- CMSU (R67): Subtracts the complex product of D[B] and D[C] from ACC[AC]. -/
  | cmsu (e : Fin 16) (ecc : Ecc)
  /-- CMPY (R67): Sets ACC[AC] to the complex product, sets XA and lane mode. -/
  | cmpy (e : Fin 16) (ecc : Ecc)
  /-- DMAC (R67): Adds the lane-wise dual products to the accumulator halves. -/
  | dmac (e : Fin 16) (ecc : Ecc)
  /-- DMSU (R67): Subtracts the lane-wise dual products from the accumulator halves. -/
  | dmsu (e : Fin 16) (ecc : Ecc)
  /-- DMPY (R67): Sets the accumulator to the dual products, sets XA and lane mode. -/
  | dmpy (e : Fin 16) (ecc : Ecc)
  /-- PMAC (R67): Adds the paired product of D[B] and C.re to the paired accumulator. -/
  | pmac (e : Fin 16) (ecc : Ecc)
  /-- PMPY (R67): Sets the accumulator to the paired product, sets XA and paired mode. -/
  | pmpy (e : Fin 16) (ecc : Ecc)
  /-- ACLR (R67): Clears ACC[AC], sets XA from EX and EY and the mode from C[0]. -/
  | aclr (e : Fin 16) (ecc : Ecc)
  /-- RND (R72): Rounds each accumulator half convergently to exponent E[EY] into D[A]. -/
  | rnd (e : Fin 16) (ecc : Ecc)
  /-- PRND (R72): Rounds the paired accumulator half up to paired exponent E[EY] into D[A]. -/
  | prnd (e : Fin 16) (ecc : Ecc)
  /-- ADD (R73): Lane-wise saturating sum of D[B] and aligned D[C]. -/
  | add (e : Fin 16) (ecc : Ecc)
  /-- SUB (R73): Lane-wise saturating difference of D[B] and aligned D[C]. -/
  | sub (e : Fin 16) (ecc : Ecc)
  /-- MAX (R73): Lane-wise maximum of D[B] and aligned D[C]. -/
  | max (e : Fin 16) (ecc : Ecc)
  /-- MIN (R73): Lane-wise minimum of D[B] and aligned D[C]. -/
  | min (e : Fin 16) (ecc : Ecc)
  /-- CLMP (R80): Clamps D[B] lane-wise to plus or minus the aligned magnitude of D[C], setting LIM on a change. -/
  | clmp (e : Fin 16) (ecc : Ecc)
  /-- NEG (R65): Lane-wise saturating negation of D[B]. -/
  | neg (e : Fin 16) (ecc : Ecc)
  /-- ABS (R65): Lane-wise saturating absolute value of D[B]. -/
  | abs (e : Fin 16) (ecc : Ecc)
  /-- CONJ (R80): Writes the conjugate of D[B] to D[A]. -/
  | conj (e : Fin 16) (ecc : Ecc)
  /-- MOV (R80): Copies D[B] to D[A]. -/
  | mov (e : Fin 16) (ecc : Ecc)
  /-- SWP (R80): Writes D[B] with its lanes swapped to D[A]. -/
  | swp (e : Fin 16) (ecc : Ecc)
  /-- PADD (R73): Paired saturating sum of D[B] and aligned D[C]. -/
  | padd (e : Fin 16) (ecc : Ecc)
  /-- PADDW (R73): Paired sum modulo 2^48 without saturation. -/
  | paddw (e : Fin 16) (ecc : Ecc)
  /-- PSUB (R73): Paired saturating difference of D[B] and aligned D[C]. -/
  | psub (e : Fin 16) (ecc : Ecc)
  /-- PSUBW (R73): Paired difference modulo 2^48 without saturation. -/
  | psubw (e : Fin 16) (ecc : Ecc)
  /-- NSC (R64): Writes the smaller redundant sign count of the lanes of D[B] to D[A].re. -/
  | nsc (e : Fin 16) (ecc : Ecc)
  /-- NSCA (R64): Accumulates the minimum redundant sign count of D[B] into D[A].re. -/
  | nsca (e : Fin 16) (ecc : Ecc)
  /-- SHLV (R71): Shifts D[B] lane-wise by the signed count in C.re, rounding convergently on right shifts. -/
  | shlv (e : Fin 16) (ecc : Ecc)
  /-- PSHV (R71): Shifts the paired D[B] by the signed count in C.re, rounding half up on right shifts. -/
  | pshv (e : Fin 16) (ecc : Ecc)
  /-- ESUB (R74): Subtracts D[B].re from E[EX] with clamping and writes the amount applied to D[A]. -/
  | esub (e : Fin 16) (ecc : Ecc)
  /-- EFD (R80): Loads E[EX] from bits [7:0] of D[B].re. -/
  | efd (e : Fin 16) (ecc : Ecc)
  /-- DFE (R80): Writes E[EX] sign-extended into D[A].re and 0 into D[A].im. -/
  | dfe (e : Fin 16) (ecc : Ecc)
  /-- LDI (R80): Loads an immediate into one lane of D[A]. -/
  | ldi (e : Fin 16) (ecc : Ecc)
  /-- ELDI (R80): Loads an immediate into an exponent register. -/
  | eldi (e : Fin 16) (ecc : Ecc)
  /-- PSET (R80): Loads a pointer, base, length or step register from an immediate. -/
  | pset (e : Fin 16) (ecc : Ecc)
  /-- SHR (R81): Shifts D[B] lane-wise right by an immediate with convergent rounding. -/
  | shr (e : Fin 16) (ecc : Ecc)
  /-- PSHR (R81): Shifts the paired D[B] right by an immediate, rounding half up. -/
  | pshr (e : Fin 16) (ecc : Ecc)
  /-- LDA (R82): Loads from the task's axis record through the axis window in its owned cycle. -/
  | lda (e : Fin 16) (ecc : Ecc)
  /-- STA (R82): Stores to the task's axis record through the axis window, including ADD64 read-modify-write. -/
  | sta (e : Fin 16) (ecc : Ecc)
  /-- YST (R59): Queues D[A] for a Y address in the Y update queue or sets QF when the queue is full. -/
  | yst (e : Fin 16) (ecc : Ecc)
  /-- JMP (R83): Jumps to an immediate address, ending any loop whose body it leaves. -/
  | jmp (e : Fin 16) (ecc : Ecc)
  /-- JCC (R84): Jumps when the named condition holds. -/
  | jcc (e : Fin 16) (ecc : Ecc)
  /-- CALL (R83): Pushes the return address and jumps. -/
  | call (e : Fin 16) (ecc : Ecc)
  /-- RET (R83): Pops the return address, looping back if it is the word after a loop body. -/
  | ret (e : Fin 16) (ecc : Ecc)
  /-- LOOP (R83): Pushes a loop-stack entry that repeats the next body words a fixed number of times. -/
  | loop (e : Fin 16) (ecc : Ecc)
  /-- LOOPR (R83): Pushes a loop whose count is taken from D[B].re. -/
  | loopr (e : Fin 16) (ecc : Ecc)
  /-- DONE (R86): Ends the task, making its stored outputs fresh and handing sticky flags to the axis. -/
  | doneTask (e : Fin 16) (ecc : Ecc)
  /-- POST (R87): Asks the Kennel to release a POSTED descriptor with an argument, or sets QF when the posting queue is full. -/
  | post (e : Fin 16) (ecc : Ecc)
  /-- Y_UPDATE_PORT_WRITE (R59): The update port writes the head entry of the Y update queue into all four Y memories. -/
  | yUpdatePortWrite
  /-- PRECEDENCE_PORT_ACCEPT (R156): The Kennel takes the head of the first non-empty beat sequencer or Leash queue and makes its releases. -/
  | precedencePortAccept
  /-- SHARED_PORT_ACCEPT (R156): The Kennel takes the head of the next unblocked capture, host or engine queue round robin and makes its release. -/
  | sharedPortAccept
  /-- DISPATCH (R160): The Kennel places the most urgent placeable ready head on an idle engine. -/
  | dispatch
  /-- PREEMPT (R160): The Kennel pre-empts a less urgent task by bank swap to place a ready head. -/
  | preempt
  /-- ENGINE_END (R161): The Kennel processes one engine end per cycle, freeing the engine and resuming any held task. -/
  | engineEnd
  /-- PAWPRINT_DRAIN (R165): Entries of the trace queue are written into the Pawprint buffer. -/
  | pawprintDrain
  /-- PAWPRINT_STOP (R166): Capture stops after POSTCNT entries following the trigger or when a full buffer ends in MODE 1. -/
  | pawprintStop
  /-- PAWPRINT_CTL_WRITE (R166): A write of KNL_PP_CTL starts, restarts, reconfigures or stops trace capture. -/
  | pawprintCtlWrite (v : Word)
  /-- AXIS_REQ_WRITE (R123): A host write of AX_CTL.REQ requests hold or enable of the axis. -/
  | axisReqWrite (a : Fin 128) (req : BitVec 2)
  /-- AXIS_CLR (R123): A write of AX_CTL.CLR requests the clear of a Faulted axis at the next evaluation. -/
  | axisClr (a : Fin 128)
  /-- TRACKER_RESTART (R114): A write of AX_TRK_CTL.RESTART restarts the estimator from AX_NA_FREQ and clears OFF. -/
  | trackerRestart (a : Fin 128)
  /-- NA_FREQ_WRITE (R118): A host write of AX_NA_FREQ while frozen is applied by the tracker at its next run and logged as a move. -/
  | naFreqWrite (a : Fin 128) (v : Word)
  /-- QUADRATURE_EDGE (R128): A filtered A/B edge on a pulse input is counted, stamped, or flagged as a quadrature error. `ab` are the new levels. -/
  | quadratureEdge (n : Fin 2) (ab : BitVec 2) (e : PinEdge)
  /-- ANALOGUE_CONVERSION (R130): An analogue master input completes a conversion every 10,000 ns. -/
  | analogueConversion (n : Fin 2) (code : BitVec 16) (t : QWord)
  /-- GEAR_UNIT_RUN (R137): From edge + 500 ns the gear unit extrapolates the master, applies trim, gearing, limiter and homing for each declared axis. -/
  | gearUnitRun
  /-- MASTER_LOST (R135): After MHOLD consecutive late beats the master is lost and an internal master decelerates. -/
  | masterLost
  /-- ACK (R136): A write of MST_CTL.ACK while lost and halted sets ACKPEND. -/
  | ack
  /-- REBASE (R136): At the first edge with the required sample held, the master is rebased and LOST, HALTED and ACKPEND clear. -/
  | rebase
  /-- LS_MODE_WRITE (R138): A host write of AX_LS_CTL.MODE selects NONE, GEARED or HOST. -/
  | lsModeWrite (a : Fin 128) (mode : BitVec 2)
  /-- TRIMCLR (R141): A write of AX_LS_CTL.TRIMCLR clears AX_LS_TRIMPEND at the next edge. -/
  | trimclr (a : Fin 128)
  /-- ENGAGING_END (R144): ENGAGING clears after AX_LS_ENGMAX runs without lock. -/
  | engagingEnd (a : Fin 128)
  /-- HOME (R146): Starts homing of an Enabled HOST-mode axis by the configured method. -/
  | home (a : Fin 128) (user : BitVec 16)
  /-- MARK_CROSSING (R175): The mark signal crosses THR after falling below THR - HYS. -/
  | markCrossing (c : Fin 16)
  /-- FLOOD_HOLD_EXPIRY (R169): A flooding cause ends FHOLD ms after its test stops holding. -/
  | floodHoldExpiry (n : Fin 8) (cause : Fin 3)
  /-- RIPPLE_RECORD (R169): Every 2,000 samples the baseline is recorded for the ripple test. -/
  | rippleRecord
  /-- TRIGGER_EDGE (R171): A filtered edge on a digital trigger input triggers channels. -/
  | triggerEdge (n : Fin 16) (rising : Bool) (e : PinEdge)
  /-- XT_EDGE (R172): A filtered falling edge on a cross-trigger line triggers channels. -/
  | xtEdge (l : Fin 4) (e : PinEdge)
  /-- XT_PULSE_END (R172): A cross-trigger pulse driven by a channel ends after 100 ns. -/
  | xtPulseEnd (l : Fin 4)
  /-- SOFTWARE_TRIGGER (R174): A write of CAP_SWTRIG triggers the channels named. -/
  | softwareTrigger (mask : BitVec 16) (t : QWord)
  /-- WINDOW_END (R178): The last window sample is taken and the channel rearms or goes IDLE. -/
  | windowEnd (c : Fin 16)
  /-- RECORD_COMPLETE (R182): A record completes: positions, measurements, group decoding, correction, analysis post and header write. -/
  | recordComplete (c : Fin 16)
  /-- ARM (R178): A write of CAP_CH_c_CTL.ARM arms the channel. -/
  | arm (c : Fin 16) (single : Bool)
  /-- DISARM (R178): A write of CAP_CH_c_CTL.DISARM returns the channel to IDLE and discards an acquisition. -/
  | disarm (c : Fin 16)
  /-- FREESEQ_WRITE (R189): A write of CAP_CH_c_FREESEQ releases records below the value. -/
  | freeseqWrite (c : Fin 16) (v : Word)
  /-- STEP_CARRY (R192): The phase accumulator carries out of bit 47 and a step pulse is scheduled. -/
  | stepCarry (n : Fin 32)
  /-- STEP_PULSE_END (R193): STEP falls after PW clocks. -/
  | stepPulseEnd (n : Fin 32)
  /-- DIR_CHANGE (R195): DIR changes once STEP has been low for 10 clocks during a reversal. -/
  | dirChange (n : Fin 32)
  /-- ACCUMULATION_RESUME (R195): Accumulation resumes DSU clocks after the direction change. -/
  | accumulationResume (n : Fin 32)
  /-- LEAD_CARRY (R198): A group lead carry advances each member counter and steps members; the N-th carry completes the move. -/
  | leadCarry (g : Fin 8)
  /-- STEP_MOVE (R198): Starts a coordinated move of a step group. -/
  | stepMove (g : Fin 8) (d : List Word) (user : BitVec 16)
  /-- STEP_HOME (R200): Starts homing of one step channel. -/
  | stepHome (n : Fin 32) (user : BitVec 16)
  /-- HM_INPUT_CHANGE (R200): A home input level stable for 1 µs advances the step homing sequencer. -/
  | hmInputChange (n : Fin 32) (x : PinLevel)
  /-- STP_STOP (R201): A write of STP_n_CTL.STOP stops the channel at once. -/
  | stpStop (n : Fin 32)
  /-- GROUP_STOP (R201): A write of STP_GRP_g_CTL.STOP stops every channel of the group. -/
  | groupStop (g : Fin 8)
  /-- STEP_MODE_WRITE (R196): A host write of STP_n_MODE sets OFF or VEL. -/
  | stepModeWrite (n : Fin 32) (v : Word)
  /-- STEP_VEL_WRITE (R196): A host write of STP_n_VEL sets the velocity word for the next edge. -/
  | stepVelWrite (n : Fin 32) (v : QWord)
  /-- STEP_POS_WRITE (R202): A write of STP_n_POS sets the count and a write of the high word clears UNSURE. -/
  | stepPosWrite (n : Fin 32) (v : QWord)
  /-- IN_SLOT_ACCEPT (R221): A tail port accepts an in-slot, writes feedback and posts the axis's tasks, or rejects it and counts. -/
  | inSlotAccept (port : Fin 8) (slot : Fin 48) (hdr bytes : List Byte) (arrival : Nat)
  /-- BEAT_FRAME_END (R221): The end of a beat frame is received and checked, its FCS counted and T_path measured. -/
  | beatFrameEnd (port : Fin 8) (hdr body : List Byte) (fcs : Word) (tpath : Nat)
  /-- ACYCLIC_FRAME_SEND (R216): A head port sends a ROLL or MBX frame after the beat frame when it fits before FCL. -/
  | acyclicFrameSend (seg : Fin 4)
  /-- ROLL_FRAME_RETURN (R225): A returned ROLL frame is matched against declared nodes and the admission table is evaluated. -/
  | rollFrameReturn (seg : Fin 4) (hdr body : List Byte) (fcs : Word)
  /-- ADMISSION_EFFECTIVE (R225): At edge E an acknowledged admission takes effect and the node becomes ADMITTED. -/
  | admissionEffective (seg : Fin 4) (node : Fin 32)
  /-- ADMISSION_TIMEOUT (R225): No ACK by edge E returns the node to ABSENT with reason TIMEOUT. -/
  | admissionTimeout (seg : Fin 4) (node : Fin 32)
  /-- NODE_LOST (R225): No accepted in-slot for NLOSS beats, or two ROLL frames without a match, removes the node. -/
  | nodeLost (seg : Fin 4) (node : Fin 32)
  /-- MBX_FRAME_RETURN (R227): A returned MBX frame completes requests whose response carries their TAG. -/
  | mbxFrameReturn (seg : Fin 4) (hdr body : List Byte) (fcs : Word)
  /-- MAILBOX_TIMEOUT (R227): A request without a response after MBXTO x 16 beats completes TIMEOUT. -/
  | mailboxTimeout (seg : Fin 4) (node : Fin 32)
  /-- LEASH_MBX (R227): Queues a mailbox request to a node. -/
  | leashMbx (seg : Fin 4) (node : Fin 32) (code : BitVec 16) (data : List Byte) (user : BitVec 16)
  /-- LEASH_READMIT (R225): Returns a node to ABSENT and removes its axes from service. -/
  | leashReadmit (seg : Fin 4) (node : Fin 32) (user : BitVec 16)
  /-- RX_SYNC_CHANGE (R238): A Leash port gains or loses receive synchronisation. -/
  | rxSyncChange (port : Fin 8) (sync : Bool)
  /-- SGMII_SPEED_REPORT (R205): An SGMII partner reports its link and a report other than 1000 Mbit/s full duplex sets SPDERR. -/
  | sgmiiSpeedReport (port : Fin 8) (gigFull : Bool)
  /-- SCHED_WRITE (R215): A write of LSH_n_SCHED takes effect at the next beat edge. -/
  | schedWrite (seg : Fin 4) (v : Word)
  /-- SNAPSHOT_RESTORE (R242): The tail transmit section restores the snapshot and a bad CRC returns the segment to RING. -/
  | snapshotRestore (seg : Fin 4) (crcGood : Bool)
  /-- TWOLINE_LAUNCH (R243): At edge b + 3 both ends launch two-line frames. -/
  | twolineLaunch (seg : Fin 4)
  /-- LEASH_SWITCHBACK (R245): Starts the return of a two-line segment to ring running. -/
  | leashSwitchback (seg : Fin 4) (user : BitVec 16)
  /-- SWITCHBACK_END (R245): After 16 beats without a path failure the segment enters RING, or returns to TWOLINE on a failure. -/
  | switchbackEnd (seg : Fin 4)
  /-- LEASH_PROOF (R246): Starts the proof test of a redundant segment. -/
  | leashProof (seg : Fin 4) (user : BitVec 16)
  /-- PROOF_PHASE_END (R246): A proof-test phase ends after its settling and judged beats and the next phase starts or the test completes. -/
  | proofPhaseEnd (seg : Fin 4)
  /-- TRUNK_LOCK (R253): A hunting trunk receiver locks after three good boundaries. -/
  | trunkLock (x : PortLine)
  /-- TRUNK_LOCK_LOSS (R254): Three consecutive bad boundaries lose lock and discard a frame in progress. -/
  | trunkLockLoss (p : Fin 3) (line : LineBits)
  /-- IDLE_BLOCK_RECEIVED (R256): A received IDLE block updates the link delay measurement. -/
  | idleBlockReceived (p : Fin 3) (line : LineBits) (ns : Nat) (frac : Fin 256)
  /-- TRUNK_FRAME_FORWARD (R257): A received frame is forwarded out of the other used ports 320 ns later. -/
  | trunkFrameForward (p : Fin 3) (line : LineBits) (rx : Nat)
  /-- POSTMARK_RECEIVED (R269): An accepted Postmark corrects GT rate and offset and drives the trunk states. -/
  | postmarkReceived (f : TrunkFrame)
  /-- ST_FRAME_RECEIVED (R282): An accepted status frame updates SEEN, MINOR and write confirmation. -/
  | stFrameReceived (f : TrunkFrame)
  /-- MS_FRAME_RECEIVED (R276): An accepted master sample frame from the source part is held. -/
  | msFrameReceived (f : TrunkFrame)
  /-- TT_FRAME_RECEIVED (R277): An accepted trunk trigger frame delivers each record to the channels of its TT number. -/
  | ttFrameReceived (f : TrunkFrame)
  /-- HREQ_FRAME_RECEIVED (R282): A member handles the PW, RD and RESET records addressed to it. -/
  | hreqFrameReceived (f : TrunkFrame)
  /-- HRSP_FRAME_RECEIVED (R283): The lead handles WACK, RDR, DL and CMPL records of a member. -/
  | hrspFrameReceived (f : TrunkFrame)
  /-- POSTMARK_SEND (R268): The time master sends a Postmark in the PM slot. -/
  | postmarkSend
  /-- ST_SEND (R266): A part sends its status frame in its ST slot. -/
  | stSend (slot : Fin 128)
  /-- MS_SEND (R276): A sending part publishes master sample s in its MS slot. -/
  | msSend (slot : Fin 128)
  /-- TT_SEND (R277): A part sends up to 5 queued trunk triggers in its TT slot. -/
  | ttSend (slot : Fin 128)
  /-- HREQ_SEND (R281): The lead fills and sends an HREQ frame. -/
  | hreqSend (slot : Fin 128)
  /-- HRSP_SEND (R282): The named member sends WACK, RDR, DL and CMPL records in its HRSP slot. -/
  | hrspSend (slot : Fin 128)
  /-- TRUNK_CYCLE_START (R271): At each cycle start the trunk states are evaluated and the listen timer advances. -/
  | trunkCycleStart
  /-- LISTEN_TIMER_EXPIRY (R271): A ranked part's listen timer reaches 16 + 4 x rank and it contends with CS Postmarks. -/
  | listenTimerExpiry
  /-- TAKEOVER (R273): An eligible backup takes mastership after 3 x q cycles without a Postmark. -/
  | takeover
  /-- POSTMARK_LOSS (R271): 12 consecutive cycles without a Postmark return the part to LISTEN silent. -/
  | postmarkLoss
  /-- TRUNK_STOP_EFFECT (R275): A part enters STOPPED at the cycle start after the Postmark with STOPIN = 0. -/
  | trunkStopEffect
  /-- TRUNK_STOP (R275): Stops this part or, from the master, the whole trunk. -/
  | trunkStop (all : Bool) (user : BitVec 16)
  /-- TRUNK_START (R275): Rebuilds the trunk section and starts listening. -/
  | trunkStart (user : BitVec 16)
  /-- TRUNK_START_NOSYNC (R275): TRUNK_START completes NOSYNC after 1,000 cycles without reaching RUN. -/
  | trunkStartNosync
  /-- BAR2_POSTED_WRITE (R280): A host write to a member window is queued for the member or makes a dead letter. -/
  | bar2PostedWrite (member : Fin 64) (off : BitVec 20) (be : BitVec 4) (v : Word)
  /-- BAR2_READ (R278): A host read of a member window is sent after earlier writes and answered by an RDR. -/
  | bar2Read (member : Fin 64) (off : BitVec 20) (be : BitVec 4)
  /-- MEMBER_READ_TIMEOUT (R284): A member read unanswered within 40 µs completes with 0xFFFF_FFFF and sets RDTO. -/
  | memberReadTimeout
  /-- MEMBER_LOST (R285): A member without an ST frame for 4 cycles is lost and its writes become dead letters. -/
  | memberLost (m : Fin 64)
  /-- DEAD_LETTER_POP (R286): A read of CTR_DLQ_W3 removes the head dead-letter record. -/
  | deadLetterPop
  /-- SAFETY_CYCLE (R288): Both Sheepdog channels evaluate inputs, pairs, functions, island and outputs every 250 µs and exchange results. -/
  | safetyCycle (obs : DogObs)
  /-- SS1_TIMER_EXPIRY (R299): T_SS1 elapses and the function enters STO. -/
  | ss1TimerExpiry (f : Fin 8)
  /-- PAIR_DISCREPANCY (R295): A pair's discrepancy lasts longer than DISC and raises fault PAIR. -/
  | pairDiscrepancy (p : Fin 8)
  /-- TEST_PULSE_CHECKPOINT (R294): At a test-pulse checkpoint TP readbacks and inputs are tested for TPSUP, STUCKHI and XSHORT. -/
  | testPulseCheckpoint (k : Fin 8) (tpA tpB : BitVec 4) (siA siB siLaterA siLaterB : BitVec 16)
  /-- OUTPUT_SWITCH_TEST (R297): Once per second each channel briefly switches off its own switch of an on output and checks the readback. -/
  | outputSwitchTest (n : Fin 4) (chanB : Bool) (readsOff : Bool)
  /-- OUTPUT_OFF_TIMEOUT (R297): An output commanded off that does not read OFF within 10 ms raises fault OUTPUT. -/
  | outputOffTimeout (n : Fin 4)
  /-- DIAG_SELF_TEST (R303): The internal self-tests of the channels complete every 10 ms. -/
  | diagSelfTest (okA okB : Bool)
  /-- SRST_PRESS (R308): The trailing edge of an SRST press is judged accepted, ignored or disagreeing. -/
  | srstPress (usA usB : Nat)
  /-- SRST_HELD (R308): An SRST press reaching 3 s sets RHELD and logs reset held. -/
  | srstHeld
  /-- RELEASE_TEST_END (R310): The 40 ms release test ends and the island enters RUN or stays MUZZLED; the operands name the first supply and output that failed. -/
  | releaseTestEnd (tpBad switchBad : Option (Fin 4)) (selfGood : Bool)
  /-- HEARTBEAT (R306): The Sheepdog receives a heartbeat message from the supervisor core. -/
  | heartbeat
  /-- HEARTBEAT_WINDOW_END (R306): A 1 ms heartbeat window ends; two consecutive empty windows are fault CDIE. -/
  | heartbeatWindowEnd
  /-- SAFETY_SECTION_LOAD (R311): The Sheepdog accepts or refuses a safety section through the loading handshake. -/
  | safetySectionLoad (x : SectLoad)
  /-- SAFETY_WORD_HANDOVER (R301): Channel A hands SCMD and SOCODE for the next edge to the head ports, vetoed by channel B on disagreement. -/
  | safetyWordHandover
  /-- SS1_STO_MESSAGE (R302): The control die receives the SS1 flags and STO states of every axis. -/
  | ss1StoMessage
  /-- SS1_STO_MESSAGE_TIMEOUT (R302): No message in 2 safety cycles makes the control die treat STO as active for every axis. -/
  | ss1StoMessageTimeout
  /-- LSAFE_WATCHDOG (R307): No valid SICODE for SWDT beats on an admitted safety slot raises fault LSAFE. -/
  | lsafeWatchdog (seg : Fin 4) (slot : Fin 48)
  /-- SHEEPDOG_EVENT (R305): The Sheepdog sends an event to the supervisor core for the Logbook. -/
  | sheepdogEvent
  /-- CAN_FRAME_RECEIVED (R326): A frame received without error is filtered, stamped and stored in the receive FIFO or lost to overrun. -/
  | canFrameReceived (n : Fin 4) (f : CanFrame) (tSof : QWord)
  /-- CAN_TX_END (R325): A transmit buffer ends OK, ABORTED, BUSOFF or ONESHOT. -/
  | canTxEnd (n : Fin 4) (how : CanTxHow) (tSof : QWord) (delay : Option Nat)
  /-- CAN_BUS_ERROR (R320): A bus error changes the error counters and may take the controller to BUSOFF. -/
  | canBusError (n : Fin 4) (code : Fin 7) (transmitter : Bool) (what : CanErr)
  /-- PROTOCOL_EXCEPTION (R316): A recessive res bit after FDF with PXE = 1 is counted and the controller waits for 11 recessive bits. -/
  | protocolException (n : Fin 4)
  /-- CAN_SYNC_DONE (R320): 11 consecutive recessive bits in SYNC take the controller to ACTIVE or RESTRICTED. -/
  | canSyncDone (n : Fin 4)
  /-- CAN_RECOVERY_DONE (R320): 128 occurrences of 11 recessive bits in RECOVER return the controller to ACTIVE. -/
  | canRecoveryDone (n : Fin 4)
  /-- CAN_MODE_CHANGE_AT_IDLE (R320): A requested change between ACTIVE and RESTRICTED takes effect at the next bus idle. -/
  | canModeChangeAtIdle (n : Fin 4)
  /-- CAN_REQ_OFF (R320): A write of CAN_n_CTL.REQ = OFF breaks off any frame and ends pending requests. -/
  | canReqOff (n : Fin 4)
  /-- CAN_REQ_NORMAL (R320): A write of CAN_n_CTL.REQ = NORMAL starts synchronisation or leaves RESTRICTED. -/
  | canReqNormal (n : Fin 4)
  /-- CAN_REQ_RESTRICTED (R320): A write of CAN_n_CTL.REQ = RESTRICTED starts synchronisation or enters restricted operation. -/
  | canReqRestricted (n : Fin 4)
  /-- CAN_RECOVER (R320): A write of CAN_n_CTL.RECOVER starts bus-off recovery. -/
  | canRecover (n : Fin 4)
  /-- CAN_BIT_TIMING_WRITE (R318): A host write of CAN_n_NBT or CAN_n_DBT while OFF sets bit timing. -/
  | canBitTimingWrite (n : Fin 4) (data : Bool) (v : Word)
  /-- TXB_REQ (R323): A write of TXB_b_CTL.REQ requests transmission of the buffer. -/
  | txbReq (n : Fin 4) (b : Fin 3) (oneshot : Bool)
  /-- TXB_ABORT (R325): A write of TXB_b_CTL.ABORT aborts the buffer's request. -/
  | txbAbort (n : Fin 4) (b : Fin 3)
  /-- RXF_POP (R326): A write of CAN_n_RXF_POP removes the head entry of the receive FIFO. -/
  | rxfPop (n : Fin 4)
  /-- REGISTER_WRITE (R340): A host write to a register without a row of its own is judged and applied or rejected. -/
  | registerWrite (off : BitVec 20) (be : BitVec 4) (v : Word)
  /-- PCIE_MEMORY_REQUEST (R337): A PCIe memory request is performed as a series of 32-bit accesses at ascending addresses. -/
  | pcieMemoryRequest (write : Bool) (off : BitVec 20) (firstBe lastBe : BitVec 4) (data : List Word)
  /-- PCIE_CONFIG_REQUEST (R331): A configuration request is answered, or with retry status before the endpoint is ready. -/
  | pcieConfigRequest (dword : Fin 1024) (write : Option Word)
  /-- QSPI_WRITE_FRAME (R334): A QSPI write frame whose DCRC passes performs its word writes. -/
  | qspiWriteFrame (bytes : List Byte) (e : QspiWriteEnd)
  /-- QSPI_READ_FRAME (R334): A QSPI read frame performs its reads and returns READY and data. -/
  | qspiReadFrame (bytes : List Byte) (clocks : QspiEnd)
  /-- COMMAND_START (R347): A command of a serial queue starts when the one before it has completed, or completes ABORTED. -/
  | commandStart (q : Fin 4) (flash : FlashRun)
  /-- COMPLETION_WRITE (R354): A completion entry is written to the ring or FIFO when its queue order and room allow. -/
  | completionWrite
  /-- NOP_COMMAND (R348): Completes OK once every earlier command of its queue has completed. -/
  | nopCommand (q : Fin 4) (user : BitVec 16)
  /-- SHED_CLEAR (R49): At the next edge clears SHED_C and the stale history of every axis. -/
  | shedClear (user : BitVec 16)
  /-- RUN_JOB (R351): Posts a HOSTJOB instance to the Kennel and completes when it ends. -/
  | runJob (index : BitVec 10) (param : Word) (user : BitVec 16)
  /-- PARCEL_BEGIN (R372): Opens a write session, erases the bank and programs its record. -/
  | parcelBegin (len crc : Word) (user : BitVec 16) (flash : FlashRun)
  /-- PARCEL_DATA (R372): Programs image bytes of the open session. -/
  | parcelData (off : Word) (data : List Word) (user : BitVec 16) (flash : FlashRun)
  /-- PARCEL_COMMIT (R372): Reads back and checks the image and commits the bank, or loads it at once in host download. -/
  | parcelCommit (user : BitVec 16) (flash : FlashRun)
  /-- PARCEL_ABORT (R372): Closes the session leaving the bank uncommitted. -/
  | parcelAbort (user : BitVec 16)
  /-- FUSE_ARM (R413): Arms the DBGOFF burn and returns a random arm code. -/
  | fuseArm (fuse : BitVec 8) (user : BitVec 16)
  /-- FUSE_BURN (R413): Programs the DBGOFF fuse with a valid arm code. -/
  | fuseBurn (fuse : BitVec 8) (code : Word) (user : BitVec 16)
  /-- FUSE_BURN_DONE (R413): Fuse programming ends, the fuse is read back and the command completes OK or FAILED. -/
  | fuseBurnDone (blown : Bool)
  /-- FUSE_ARM_EXPIRY (R413): The arm becomes void 10 s after the FUSE_ARM completion is written. -/
  | fuseArmExpiry
  /-- RING_HEAD_WRITE (R354): A write of HST_CRING_HEAD consumes completion entries. -/
  | ringHeadWrite (v : Word)
  /-- RING_ENABLE_WRITE (R354): A write of HST_CRING_CTL.EN enables or disables the completion ring. -/
  | ringEnableWrite (en : Bool)
  /-- HST_CFIFO_POP (R355): A write of HST_CFIFO_POP removes the head completion entry. -/
  | hstCfifoPop
  /-- RESPONSE_SELECT (R350): A write of HST_RSP_SEL selects the mailbox response of a ticket. -/
  | responseSelect (ticket : BitVec 16)
  /-- VERSION_SELECT (R343): A write of HST_VER_SEL selects the interface version while no ticket is outstanding. -/
  | versionSelect (v : Word)
  /-- LOCK (R342): A write of 1 to HST_LOCK.LOCK locks the lock-class registers. -/
  | lock
  /-- IRQ_HOLDOFF_END (R357): The CMPL hold-off ends and entries written during it are signalled by one message. -/
  | irqHoldoffEnd
  /-- PERST (R394): PERST_N low resets the PCIe configuration space and link and disables the ring. -/
  | perst (low : Bool)
  /-- POWER_UP (R380): VIN rises above VON with EN high and the rails and crystal start. -/
  | powerUp (vinMv : Nat)
  /-- POWER_ON_RESET_RELEASE (R380): Release of the internal power-on reset samples the straps, sets GT to 0 and starts the loader. -/
  | powerOnResetRelease (straps : BitVec 16) (sref : Bool)
  /-- CRYSTAL_RETRY (R380): A crystal not qualified 50 ms after VON holds the control die in reset and is retried every 1 s. -/
  | crystalRetry (qualified : Bool)
  /-- LOADER_FINISH (R375): The Parcel loader finishes, applies the Parcel or runs unconfigured, and powers declared blocks. -/
  | loaderFinish
  /-- VIN_WARN (R381): VIN falls below VWARN: warning output, no new flash operation, counted and logged. -/
  | vinWarn (vinMv : Nat)
  /-- POWER_LOSS (R382): VIN below VBOR or above VOV switches SO and TP off, resets the control die and lets the rails fall. -/
  | powerLoss (vinMv : Nat)
  /-- NRESET (R390): nRESET low for at least 1 µs resets the control die alone. -/
  | nreset (lowNs : Nat)
  /-- PGOOD (R384): A powered domain losing power-good makes an internal reset of the control die. -/
  | pgood (dom : Fin 80)
  /-- SUPWDT (R392): The supervisor watchdog unserviced for 100 ms resets the control die. -/
  | supwdt
  /-- TJ_HIGH (R402): Tj reaching 110 °C sets TJHI and TJHIS and logs an entry. -/
  | tjHigh (tj : BitVec 16)
  /-- THERM (R402): Tj reaching 125 °C holds the control die in reset. -/
  | therm (tj : BitVec 16)
  /-- THERM_RECOVERY (R402): Tj falling to 105 °C releases the thermal reset and the part starts as from nRESET. -/
  | thermRecovery (tj : BitVec 16)
  /-- DOZE_REQUEST (R386): A write of PWR_CTL.MODE = Doze requests Doze when its conditions hold. -/
  | dozeRequest
  /-- DOZE_ENTRY (R386): At the next beat edge the part powers down blocks and enters Doze. -/
  | dozeEntry
  /-- RUN_REQUEST (R387): A write of PWR_CTL.MODE = Run in Doze starts the exit. -/
  | runRequest
  /-- DOZE_EXIT (R387): Domains are powered again, Parcel fields reapplied and MODE returns to Run. -/
  | dozeExit
  /-- HIBERNATE_REQUEST (R388): A write of PWR_CTL.MODE = Hibernate with the key requests Hibernate. -/
  | hibernateRequest (key : BitVec 16)
  /-- HIBERNATE_ENTRY (R388): 1 ms after an accepted write, or when EN falls, the part powers down into Hibernate. -/
  | hibernateEntry (enLow : Bool)
  /-- WAKE (R389): EN rising, or WAKE held high for 10 µs, wakes the part with a full power-up. -/
  | wake (byEn : Bool)
  /-- VINMIN_WRITE (R378): A write of PWR_VINMIN sets it to the present VIN. -/
  | vinminWrite (v : Word)
  /-- TJ_PEAK_WRITE (R402): A write of PWR_TJ sets the highest Tj to the present Tj. -/
  | tjPeakWrite (v : Word)
  /-- LOG_ENTRY_WRITE (R405): The head event of the write queue is written to the Logbook and SEQ advances. -/
  | logEntryWrite
  /-- LOG_TRIGGER_FREEZE (R407): After POST entries following a trigger the Logbook freezes. -/
  | logTriggerFreeze
  /-- FREEZE (R407): A write of LOG_CMD.FREEZE freezes the Logbook at once. -/
  | freeze
  /-- THAW (R407): A write of LOG_CMD.THAW resumes writing and rearms the trigger. -/
  | thaw
  /-- LOG_RD_IDX_WRITE (R403): A write of LOG_RD_IDX copies the whole entry into LOG_RD_W0 to W7. -/
  | logRdIdxWrite (idx : BitVec 12)
  /-- VENDOR_DEBUG_ATTACH (R412): A vendor debug session attaches, sets ATTACHED and is logged. -/
  | vendorDebugAttach
  /-- EXTEST (R411): Drives boundary-scan outputs in PROOF mode; acts as BYPASS otherwise. -/
  | extest
  /-- IDCODE (R410): Selects the IDCODE register, as Test-Logic-Reset does. -/
  | idcode
  /-- SAMPLE_PRELOAD (R410): Samples or preloads the boundary-scan register. -/
  | samplePreload (pins preload : ScanWord)
  /-- CLAMP (R411): Clamps outputs from the boundary register in PROOF mode; BYPASS otherwise. -/
  | clamp
  /-- HIGHZ (R411): Places outputs in high impedance in PROOF mode; BYPASS otherwise. -/
  | highz
  /-- VENDOR_DEBUG (R412): Vendor debug instructions give run control and memory access until DBGOFF is blown. -/
  | vendorDebug (op : DebugOp)
  /-- BYPASS (R410): Selects the one-bit bypass register: code 0xFF, and every code that the table of R410 leaves to BYPASS. -/
  | bypass
  /-- MARK_SAMPLE (R167): All eight mark inputs sample together every 50 ns, updating the baseline, history, flooding tests and any acquisition window. -/
  | markSample (uv : Vector Nat 8)
  /-- STEP_CLOCK (R192): On every 100 MHz clock each step channel adds |V| to its phase accumulator and its homing sequencer is evaluated. -/
  | stepClock
  /-- SAFE_INPUT_SAMPLE (R291): Each Sheepdog channel samples every safe input every 62.5 µs and applies the mask and 16-sample filter. -/
  | safeInputSample (siA siB : BitVec 16)
  /-- OFF_PULSE_START (R292): A test-pulse supply is switched off at its scheduled instant in the 20 ms test frame, starting the mask of its inputs. -/
  | offPulseStart (tp : Fin 4)
  /-- OFF_PULSE_END (R292): A test-pulse supply is switched on again 500 µs after its off-pulse began. -/
  | offPulseEnd (tp : Fin 4)
  /-- SRST_PRESS_BEGIN (R308): SRST changing from OFF to ON begins a press, whose duration is measured from here. -/
  | srstPressBegin
  /-- NRESET_RELEASE (R390): Release of nRESET samples the straps, restarts GT at 0, increments the boot epoch and begins the start of R375. -/
  | nresetRelease (straps : BitVec 16) (sref : Bool)
  /-- VIN_RECOVERY (R381): VIN rising back above VWARN plus hysteresis clears PWR_STAT.VWARN, releases VINWARN_N and allows flash operations and fuse commands again. -/
  | vinRecovery (vinMv : Nat)
  /-- CAN_TX_START (R324): At the instant a controller may start a frame it chooses the pending transmit buffer to offer and starts arbitration. -/
  | canTxStart (n : Fin 4)
  /-- VENDOR_DEBUG_DETACH (R412): A vendor debug session detaches and LOG_DBG.ATTACHED returns to 0. -/
  | vendorDebugDetach
  deriving DecidableEq, Repr

end Sys2Proof
end

