-- ==== Sys2Proof/Decode.lean ====
section
/-! DEFINITION. Decoding of a table word. The table of commands gives no row any bits: commands reach the part as bus
accesses, frames and events, not as words of one encoding. -/

namespace Sys2Proof

/-- The command that a word spells by the table's bits: none, since no row gives bits. -/
def decodeTableWord (_nbits _w : Nat) : Option Instr := none

end Sys2Proof
end

