-- ==== Sys2Proof/Config.lean ====
section
/-! DEFINITION. What an implementation fixes and the spec leaves open: constants with no body, so that no proof can see
a value. Each is named in the assumption log. -/

namespace Sys2Proof

/-- A fresh value the spec leaves open; the argument is the counter `State.fresh` (log entry 2). -/
opaque Config.freeValue : Nat → BitVec 64

/-- What the program at an I-memory ENTRY of an image is (R422; log entry 12): 0 an integrator program, 1 a vendor axis
task (its class says which), 2 the virtual master (R131), 3 + g the step-group profile of group g (R199). The first argument
of this and of the next constants names the image: it is `Boot.img`, the CRC-32 of the loaded PROGRAM and COEFF. -/
opaque Config.vendorRole : Nat → Nat → Nat

/-- The gain tables a Parcel holds (R101): one bit for each of the 32 (log entry 12). -/
opaque Config.gainTables : Nat → Nat

/-- Y address of the first entry of a gain table of an image (R101), and its number of entries N (log entry 12). -/
opaque Config.gainTableAt : Nat → Nat → Nat

/-- See `Config.gainTableAt`. -/
opaque Config.gainTableLen : Nat → Nat → Nat

/-- Y address of the three words of a filter of an axis (R104): filter 0 and 1 the sets of notch A, 2 notch B,
3 the low-pass; arguments image, axis, filter (log entry 12). -/
opaque Config.filterAt : Nat → Nat → Nat → Nat

/-- The frequency in Hz from which the Parcel's coefficients of a filter were formed (R103, R105), arguments as
`Config.filterAt`, 1 notch A, 2 notch B, 3 the low-pass (log entry 12). -/
opaque Config.filterHz : Nat → Nat → Nat → Rat

/-- Its numerator damping, of a notch (R103). -/
opaque Config.filterZz : Nat → Nat → Nat → Rat

/-- Its denominator damping, or the damping of the low-pass (R103). -/
opaque Config.filterZp : Nat → Nat → Nat → Rat

/-- The error of a coefficient of a notch A move in LSB, taken within -2 to 2 (R104): image, axis, new frequency register,
numerator and denominator damping registers, beat rate, number of the mantissa (log entry 12). -/
opaque Config.moveErr : Nat → Nat → Nat → Nat → Nat → Nat → Nat → Int

/-- A word of the stage-state area for the carried state of the stages (R422, R423): image, number of the word, the state
(log entry 12). -/
opaque Config.stageWord : Nat → Nat → List Int → Word

/-- A constant of the Parcel that a vendor program holds and no register shows: image, axis, then number
(R114: 0 rho, 1 lambda, 2 mu, 3 p_floor; log entry 12). -/
opaque Config.vendorConst : Nat → Nat → Nat → Rat

/-- Bytes of a transaction record whose TYPE this part does not know, by the record's first word (R267; log entry 121). -/
opaque Config.unknownRecLen : Nat → Nat

/-- Siraraden's JEDEC manufacturer identity, 11 bits (R410; log entry 13). -/
opaque Config.jedecId : BitVec 11

/-- Siraraden's PCI-SIG vendor identifier (R330; log entry 13). -/
opaque Config.pciVendorId : BitVec 16

/-- The dword of the configuration space where a capability starts: 0 power management, 1 MSI, 2 MSI-X, 3 PCI Express,
4 AER (R330; log entry 13). -/
opaque Config.pcieCap : Nat → Nat

/-- The GT in ns at which the loader starts to check the image, and at which it starts to load what it describes; the spec gives
about 85 to 300 ms for both (R375; log entry 154). -/
opaque Config.checkStart : Nat

/-- See `Config.checkStart`. -/
opaque Config.loadStart : Nat

/-- The domains that boundary scan needs, one bit for each, which R360 does not name (log entry 107). -/
opaque Config.scanDoms : Nat

end Sys2Proof
end

