-- ==== Sys2Proof/Machine/Bits.lean ====
section
/-! DEFINITION. Bit fields, sign extension, the roundings of R69, R70 and R125, byte order (R7) and the CRCs of the
part (R206, R207, R251, R290). -/

namespace Sys2Proof.Machine

/-- A register field: BAR0 offset of its register, lowest bit, width. -/
structure Fld where
  off : Nat
  lo : Nat
  w : Nat
  deriving DecidableEq, Repr

/-- Bits [lo + w - 1 : lo] of a number. -/
def bitsOf (x lo w : Nat) : Nat := (x >>> lo) % 2 ^ w

/-- A number with bits [lo + w - 1 : lo] replaced by `v` modulo 2^w. -/
def setBitsOf (x lo w v : Nat) : Nat :=
  x - (bitsOf x lo w <<< lo) + ((v % 2 ^ w) <<< lo)

/-- One bit of a number. -/
def bitOf (x i : Nat) : Bool := (x >>> i) % 2 == 1

/-- The two's-complement value of the low `w` bits. -/
def sext (w x : Nat) : Int :=
  let m := x % 2 ^ w
  if m < 2 ^ (w - 1) then (m : Int) else (m : Int) - 2 ^ w

/-- The `w`-bit two's-complement pattern of an integer. -/
def wrap (w : Nat) (i : Int) : Nat := (i % (2 ^ w : Int)).toNat

/-- The value of an integer kept modulo 2^w as signed (R125). -/
def wrapS (w : Nat) (i : Int) : Int := sext w (wrap w i)

/-- `1` for true, `0` for false. -/
def b2n (b : Bool) : Nat := if b then 1 else 0

/-- The smaller of two integers, and the larger. -/
def imin (a b : Int) : Int := if a ≤ b then a else b

/-- See `imin`. -/
def imax (a b : Int) : Int := if a ≤ b then b else a

/-- `x` limited to [lo, hi]. -/
def clampI (x lo hi : Int) : Int := if x < lo then lo else if hi < x then hi else x

/-- Absolute value as a natural number. -/
def iabs (x : Int) : Nat := x.natAbs

/-- sign(x), with sign(0) = 0 (R125). -/
def sgn (x : Int) : Int := if x < 0 then -1 else if x = 0 then 0 else 1

/-- rhu(n / d) := floor(n / d + 1/2), for d > 0 (R125). -/
def rhu (n d : Int) : Int := (2 * n + d) / (2 * d)

/-- rhu of a rational (R125). -/
def rhuQ (q : Rat) : Int := rhu q.num q.den

/-- Ceiling of n / d for d > 0. -/
def cdiv (n d : Nat) : Nat := (n + d - 1) / d

/-- One bit of the integer square root. -/
def isqrtStep : Nat → Nat → Nat → Nat
  | 0, _, r => r
  | i + 1, n, r =>
    let r' := r + 2 ^ i
    if r' * r' ≤ n then isqrtStep i n r' else isqrtStep i n r

/-- isqrt(x) := floor(sqrt x), for x below 2^192 (R125). -/
def isqrt (n : Nat) : Nat := isqrtStep 96 n 0

/-- 2π in units of 2^-96. -/
def twoPiFix : Int := 497805226624462170461043889244

/-- 2π to 2^-96, as the vendor laws use it (R109; log entry 12). -/
def twoPiQ : Rat := (twoPiFix : Rat) / 79228162514264337593543950336

/-- The square root of a number below 2^32, to 2^-80 (R109, R110; log entry 12). -/
def sqrtQ (q : Rat) : Rat := ((isqrt (q * 1461501637330902918203684832716283019655932542976).floor.toNat : Nat) : Rat) /
  1208925819614629174706176

/-- The remaining terms of a sine or cosine series in units of 2^-96: terms left, number of the term reached, that term,
square of the angle. -/
def seriesFix : Nat → Nat → Int → Int → Int
  | 0, _, _, _ => 0
  | n + 1, k, t, y2 => t + seriesFix n (k + 2) (-(t * y2 / 79228162514264337593543950336) / ((k + 1) * (k + 2) : Nat)) y2

/-- An angle in turns as an angle from -π to π in units of 2^-96. -/
def angleFix (t : Rat) : Int :=
  let x := t - t.floor
  let x := if 1 / 2 < x then x - 1 else x
  (x * (twoPiFix : Rat)).floor

/-- The cosine of an angle in turns, to 2^-80 (R109, R111, R114; log entry 12). -/
def cosTurn (t : Rat) : Rat :=
  let y := angleFix t
  (seriesFix 30 0 79228162514264337593543950336 (y * y / 79228162514264337593543950336) : Rat) / 79228162514264337593543950336

/-- The sine of an angle in turns, to 2^-80 (R109, R111; log entry 12). -/
def sinTurn (t : Rat) : Rat :=
  let y := angleFix t
  (seriesFix 30 1 y (y * y / 79228162514264337593543950336) : Rat) / 79228162514264337593543950336

/-- Bisection for the angle in turns of a cosine. -/
def acosStep : Nat → Rat → Rat → Rat → Rat
  | 0, _, lo, _ => lo
  | n + 1, c, lo, hi =>
    let mid := (lo + hi) / 2
    if c < cosTurn mid then acosStep n c mid hi else acosStep n c lo mid

/-- acos(c) / 2π, from 0 to 1/2, to 2^-80 (R114; log entry 12). -/
def acosTurn (c : Rat) : Rat := acosStep 80 c 0 (1 / 2)

/-- Convergent rounding of a rational (R69). -/
def convQ (x : Rat) : Int :=
  let q := x.floor
  let r := x - q
  if 1 / 2 < r ∨ (r = 1 / 2 ∧ q % 2 = 1) then q + 1 else q

/-- 2^e. -/
def pow2Q (e : Int) : Rat := if 0 ≤ e then ((2 ^ e.toNat : Nat) : Rat) else 1 / ((2 ^ (-e).toNat : Nat) : Rat)

/-- Convergent right shift of R69 by s, before saturation. -/
def convShr (a : Int) (s : Nat) : Int :=
  if s = 0 then a else
  let q := a / (2 ^ s : Int)
  let r := a - q * 2 ^ s
  let half : Int := 2 ^ (s - 1)
  if half < r then q + 1 else if r = half ∧ q % 2 = 1 then q + 1 else q

/-- Half-up right shift of R70 by s, before saturation. -/
def halfUpShr (a : Int) (s : Nat) : Int :=
  if s = 0 then a else (a + 2 ^ (s - 1)) / (2 ^ s : Int)

/-- Little-endian number of a byte list (R7). -/
def leNat : List Byte → Nat
  | [] => 0
  | b :: bs => b.toNat + 256 * leNat bs

/-- The `n` low bytes of a number, least significant first (R7). -/
def leBytes : Nat → Nat → List Byte
  | 0, _ => []
  | n + 1, x => BitVec.ofNat 8 x :: leBytes n (x / 256)

/-- `n` bytes of a list from position `i`, as a little-endian number; bytes beyond the end read 0. -/
def leAt (bs : List Byte) (i n : Nat) : Nat := leNat ((bs.drop i).take n)

/-- `n` bytes of a list from position `i`. -/
def slice (bs : List Byte) (i n : Nat) : List Byte := (bs.drop i).take n

/-- A list of `n` zero bytes. -/
def zeros (n : Nat) : List Byte := List.replicate n 0

/-- `bs` cut or filled with zero bytes to length `n`. -/
def padTo (n : Nat) (bs : List Byte) : List Byte := (bs ++ zeros (n - bs.length)).take n

/-- One step of a CRC fed most significant bit first (R207): width, polynomial, register, bit. -/
def crcBit (w poly c : Nat) (b : Bool) : Nat :=
  let top := bitOf c (w - 1)
  let c' := (c * 2) % 2 ^ w
  if top != b then c' ^^^ poly else c'

/-- The bits of a byte, most significant first. -/
def msbBits (b : Byte) : List Bool :=
  [bitOf b.toNat 7, bitOf b.toNat 6, bitOf b.toNat 5, bitOf b.toNat 4,
   bitOf b.toNat 3, bitOf b.toNat 2, bitOf b.toNat 1, bitOf b.toNat 0]

/-- A CRC of R207: not reflected, no final XOR. -/
def crcMsb (w poly init : Nat) (bs : List Byte) : Nat :=
  bs.foldl (fun c b => (msbBits b).foldl (crcBit w poly) c) init

/-- HCRC, and SCRC of L2 in-slots (R207). -/
def crc1021 (bs : List Byte) : Nat := crcMsb 16 0x1021 0xFFFF bs

/-- SCRC8 of L1 in-slots and the CRC-8 of the QSPI frames (R207, R333). -/
def crc07 (bs : List Byte) : Nat := crcMsb 8 0x07 0xFF bs

/-- SOCODE (R207). -/
def crcSo (bs : List Byte) : Nat := crcMsb 16 0x8BB7 0xFFFF bs

/-- SICODE (R207). -/
def crcSi (bs : List Byte) : Nat := crcMsb 16 0x8BB7 0x0000 bs

/-- The CRC-8 of trunk block headers, over bits [23:0], bit 23 first (R251). -/
def crc2F (h : Nat) : Nat := crcMsb 8 0x2F 0xFF (leBytes 3 h).reverse

/-- One bit of the reflected CRC-32. -/
def crc32Bit (c : Nat) : Nat :=
  if c % 2 = 1 then (c / 2) ^^^ 0xEDB88320 else c / 2

/-- One byte of the reflected CRC-32. -/
def crc32Byte (c : Nat) (b : Byte) : Nat :=
  crc32Bit (crc32Bit (crc32Bit (crc32Bit (crc32Bit (crc32Bit (crc32Bit (crc32Bit (c ^^^ b.toNat))))))))

/-- The IEEE 802.3 CRC-32 (R206). -/
def crc32 (bs : List Byte) : Nat := (bs.foldl crc32Byte 0xFFFFFFFF) ^^^ 0xFFFFFFFF

/-- Value stored under a key, `d` where the key is not listed. -/
def sget {α : Type} (d : α) : Sparse α → Nat → α
  | [], _ => d
  | (k, v) :: m, i => if k = i then v else sget d m i

/-- List a value under a key, keeping keys rising. -/
def sins {α : Type} : Sparse α → Nat → α → Sparse α
  | [], i, x => [(i, x)]
  | (k, v) :: m, i, x =>
    if k = i then (i, x) :: m else if i < k then (i, x) :: (k, v) :: m else (k, v) :: sins m i x

/-- Store a value under a key, keeping keys rising and listing nothing equal to `d`. -/
def sput {α : Type} [DecidableEq α] (d : α) (m : Sparse α) (i : Nat) (x : α) : Sparse α :=
  if x = d then m.filter fun e => e.1 != i else sins m i x

/-- Every key of a sparse map is above `lo`, keys rise strictly, and no entry equals the default. -/
def swfFrom {α : Type} [DecidableEq α] (d : α) : Nat → Sparse α → Bool
  | _, [] => true
  | lo, (k, v) :: m => decide (lo ≤ k) && decide (v ≠ d) && swfFrom d (k + 1) m

/-- The canonical form of a sparse map. -/
def swf {α : Type} [DecidableEq α] (d : α) (m : Sparse α) : Bool := swfFrom d 0 m

/-- `count` up by one, saturating (the part's 32-bit counters saturate at 0xFFFF_FFFF). -/
def satInc (w x : Nat) : Nat := if x + 1 < 2 ^ w then x + 1 else 2 ^ w - 1

/-- The list of numbers 0 to n - 1. -/
def upto (n : Nat) : List Nat := List.range n

/-- Element `i` of a list of numbers, 0 beyond its end. -/
def nth (l : List Nat) (i : Nat) : Nat := l.getD i 0

end Sys2Proof.Machine
end

