-- ==== Sys2Proof/Machine/RegMap.lean ====
section
/-! DEFINITION. The register map (R414) and every register table of the spec: the BAR0 offset of each register, its
fields, and one row per register with the masks of its access codes (R10). -/

namespace Sys2Proof.Machine

/-- The domain a register lies in (R383, R414); `shd` is the PSD, `stpGrp` step block 0. -/
inductive Dom where
  | core | aon | host | knl | log | shd | mst | axis | cap | stp | stpGrp | can
  deriving DecidableEq, Repr

/-- One register (or array of registers) of the map: base offset, up to three array dimensions, and the bits of
each access class (R10), the bits with Reset "Parcel" (R366), whether it stalls (R339). -/
structure RegRow where
  name : String
  base : Nat
  dims : List (Nat × Nat)
  dom : Dom
  stalls : Bool
  rd : Nat
  rw : Nat
  w1c : Nat
  wo : Nat
  locked : Bool
  prv : Bool
  parcel : Nat
  deriving DecidableEq, Repr

namespace Reg

/-- GLB_ID (R3). -/
def GLB_ID : Nat := 0x00000
/-- GLB_ID.CHIP_ID: bits [15:0], RO. -/
def GLB_ID_CHIP_ID : Fld := ⟨GLB_ID, 0, 16⟩
/-- GLB_ID.STEP_MAJ: bits [19:16], RO. -/
def GLB_ID_STEP_MAJ : Fld := ⟨GLB_ID, 16, 4⟩
/-- GLB_ID.STEP_MIN: bits [23:20], RO. -/
def GLB_ID_STEP_MIN : Fld := ⟨GLB_ID, 20, 4⟩
/-- GLB_ID.GRADE: bits [25:24], RO. -/
def GLB_ID_GRADE : Fld := ⟨GLB_ID, 24, 2⟩
/-- GLB_RST_CAUSE (R390). -/
def GLB_RST_CAUSE : Nat := 0x00004
/-- GLB_RST_CAUSE.POR: bits [0:0], RO. -/
def GLB_RST_CAUSE_POR : Fld := ⟨GLB_RST_CAUSE, 0, 1⟩
/-- GLB_RST_CAUSE.WAKE: bits [1:1], RO. -/
def GLB_RST_CAUSE_WAKE : Fld := ⟨GLB_RST_CAUSE, 1, 1⟩
/-- GLB_RST_CAUSE.NRESET: bits [2:2], RO. -/
def GLB_RST_CAUSE_NRESET : Fld := ⟨GLB_RST_CAUSE, 2, 1⟩
/-- GLB_RST_CAUSE.PGOOD: bits [3:3], RO. -/
def GLB_RST_CAUSE_PGOOD : Fld := ⟨GLB_RST_CAUSE, 3, 1⟩
/-- GLB_RST_CAUSE.SUPWDT: bits [4:4], RO. -/
def GLB_RST_CAUSE_SUPWDT : Fld := ⟨GLB_RST_CAUSE, 4, 1⟩
/-- GLB_RST_CAUSE.THERM: bits [5:5], RO. -/
def GLB_RST_CAUSE_THERM : Fld := ⟨GLB_RST_CAUSE, 5, 1⟩
/-- GLB_RST_CNT (R384). -/
def GLB_RST_CNT : Nat := 0x00008
/-- GLB_RST_CNT.COUNT: bits [15:0], RO. -/
def GLB_RST_CNT_COUNT : Fld := ⟨GLB_RST_CNT, 0, 16⟩
/-- GLB_RST_CNT.DOM: bits [22:16], RO. -/
def GLB_RST_CNT_DOM : Fld := ⟨GLB_RST_CNT, 16, 7⟩
/-- GLB_STRAP_STATUS (R358). -/
def GLB_STRAP_STATUS : Nat := 0x00010
/-- GLB_STRAP_STATUS.HOSTSEL: bits [1:0], RO. -/
def GLB_STRAP_STATUS_HOSTSEL : Fld := ⟨GLB_STRAP_STATUS, 0, 2⟩
/-- GLB_STRAP_STATUS.TOPO: bits [2:2], RO. -/
def GLB_STRAP_STATUS_TOPO : Fld := ⟨GLB_STRAP_STATUS, 2, 1⟩
/-- GLB_STRAP_STATUS.ROLE: bits [3:3], RO. -/
def GLB_STRAP_STATUS_ROLE : Fld := ⟨GLB_STRAP_STATUS, 3, 1⟩
/-- GLB_STRAP_STATUS.NODEID: bits [9:4], RO. -/
def GLB_STRAP_STATUS_NODEID : Fld := ⟨GLB_STRAP_STATUS, 4, 6⟩
/-- GLB_STRAP_STATUS.COLDSTART: bits [10:10], RO. -/
def GLB_STRAP_STATUS_COLDSTART : Fld := ⟨GLB_STRAP_STATUS, 10, 1⟩
/-- GLB_STRAP_STATUS.BEATSEL: bits [13:11], RO. -/
def GLB_STRAP_STATUS_BEATSEL : Fld := ⟨GLB_STRAP_STATUS, 11, 3⟩
/-- GLB_STRAP_STATUS.BOOTSRC: bits [14:14], RO. -/
def GLB_STRAP_STATUS_BOOTSRC : Fld := ⟨GLB_STRAP_STATUS, 14, 1⟩
/-- GLB_STRAP_STATUS.PROOF: bits [15:15], RO. -/
def GLB_STRAP_STATUS_PROOF : Fld := ⟨GLB_STRAP_STATUS, 15, 1⟩
/-- GLB_BOOT_STAT (R370). -/
def GLB_BOOT_STAT : Nat := 0x00014
/-- GLB_BOOT_STAT.PHASE: bits [2:0], RO. -/
def GLB_BOOT_STAT_PHASE : Fld := ⟨GLB_BOOT_STAT, 0, 3⟩
/-- GLB_BOOT_STAT.BANK: bits [3:3], RO. -/
def GLB_BOOT_STAT_BANK : Fld := ⟨GLB_BOOT_STAT, 3, 1⟩
/-- GLB_BOOT_STAT.FALLBACK: bits [4:4], RO. -/
def GLB_BOOT_STAT_FALLBACK : Fld := ⟨GLB_BOOT_STAT, 4, 1⟩
/-- GLB_BOOT_STAT.HOSTDL: bits [5:5], RO. -/
def GLB_BOOT_STAT_HOSTDL : Fld := ⟨GLB_BOOT_STAT, 5, 1⟩
/-- GLB_BOOT_STAT.SESSION: bits [6:6], RO. -/
def GLB_BOOT_STAT_SESSION : Fld := ⟨GLB_BOOT_STAT, 6, 1⟩
/-- GLB_BOOT_STAT.SUPPLYCUT: bits [7:7], W1C. -/
def GLB_BOOT_STAT_SUPPLYCUT : Fld := ⟨GLB_BOOT_STAT, 7, 1⟩
/-- GLB_BOOT_STAT.FMT_MIN: bits [11:8], RO. -/
def GLB_BOOT_STAT_FMT_MIN : Fld := ⟨GLB_BOOT_STAT, 8, 4⟩
/-- GLB_BOOT_GEN (R372). -/
def GLB_BOOT_GEN : Nat := 0x00018
/-- GLB_BOOT_ERR (R370). -/
def GLB_BOOT_ERR : Nat := 0x0001C
/-- GLB_BOOT_ERR.CODE: bits [7:0], RO. -/
def GLB_BOOT_ERR_CODE : Fld := ⟨GLB_BOOT_ERR, 0, 8⟩
/-- GLB_BOOT_ERR.BANK: bits [8:8], RO. -/
def GLB_BOOT_ERR_BANK : Fld := ⟨GLB_BOOT_ERR, 8, 1⟩
/-- GLB_BOOT_ERR.SECTION: bits [15:9], RO. -/
def GLB_BOOT_ERR_SECTION : Fld := ⟨GLB_BOOT_ERR, 9, 7⟩
/-- GLB_BOOT_ERRPOS (R370). -/
def GLB_BOOT_ERRPOS : Nat := 0x00020
/-- PWR_STAT (R385). -/
def PWR_STAT : Nat := 0x01000
/-- PWR_STAT.MODE: bits [1:0], RO. -/
def PWR_STAT_MODE : Fld := ⟨PWR_STAT, 0, 2⟩
/-- PWR_STAT.VWARN: bits [2:2], RO. -/
def PWR_STAT_VWARN : Fld := ⟨PWR_STAT, 2, 1⟩
/-- PWR_STAT.VWARNS: bits [3:3], W1C. -/
def PWR_STAT_VWARNS : Fld := ⟨PWR_STAT, 3, 1⟩
/-- PWR_STAT.TJHI: bits [4:4], RO. -/
def PWR_STAT_TJHI : Fld := ⟨PWR_STAT, 4, 1⟩
/-- PWR_STAT.TJHIS: bits [5:5], W1C. -/
def PWR_STAT_TJHIS : Fld := ⟨PWR_STAT, 5, 1⟩
/-- PWR_STAT.SREFLOCK: bits [6:6], RO. -/
def PWR_STAT_SREFLOCK : Fld := ⟨PWR_STAT, 6, 1⟩
/-- PWR_CTL (R386). -/
def PWR_CTL : Nat := 0x01004
/-- PWR_CTL.MODE: bits [1:0], WO. -/
def PWR_CTL_MODE : Fld := ⟨PWR_CTL, 0, 2⟩
/-- PWR_CTL.KEY: bits [31:16], WO. -/
def PWR_CTL_KEY : Fld := ⟨PWR_CTL, 16, 16⟩
/-- PWR_VWARN (R377). -/
def PWR_VWARN : Nat := 0x01008
/-- PWR_VWARN.VWARN: bits [8:0], RWL. -/
def PWR_VWARN_VWARN : Fld := ⟨PWR_VWARN, 0, 9⟩
/-- PWR_VIN (R377). -/
def PWR_VIN : Nat := 0x0100C
/-- PWR_VIN.VIN: bits [15:0], RO. -/
def PWR_VIN_VIN : Fld := ⟨PWR_VIN, 0, 16⟩
/-- PWR_VINMIN (R377). -/
def PWR_VINMIN : Nat := 0x01010
/-- PWR_VINMIN.VINMIN: bits [15:0], RW. -/
def PWR_VINMIN_VINMIN : Fld := ⟨PWR_VINMIN, 0, 16⟩
/-- PWR_TJ (R402). -/
def PWR_TJ : Nat := 0x01014
/-- PWR_TJ.TJ: bits [15:0], RO. -/
def PWR_TJ_TJ : Fld := ⟨PWR_TJ, 0, 16⟩
/-- PWR_TJ.PEAK: bits [31:16], RW. -/
def PWR_TJ_PEAK : Fld := ⟨PWR_TJ, 16, 16⟩
/-- PWR_DOM_STAT (R383). -/
def PWR_DOM_STAT (i : Nat) : Nat := 0x01020 + i * 0x4
/-- PWR_CNT_VWARN (R381). -/
def PWR_CNT_VWARN : Nat := 0x01030
/-- HST_STAT (R345). -/
def HST_STAT : Nat := 0x02000
/-- HST_STAT.READY: bits [0:0], RO. -/
def HST_STAT_READY : Fld := ⟨HST_STAT, 0, 1⟩
/-- HST_STAT.PORT: bits [2:1], RO. -/
def HST_STAT_PORT : Fld := ⟨HST_STAT, 1, 2⟩
/-- HST_STAT.LEAD: bits [3:3], RO. -/
def HST_STAT_LEAD : Fld := ⟨HST_STAT, 3, 1⟩
/-- HST_STAT.OUTST: bits [12:4], RO. -/
def HST_STAT_OUTST : Fld := ⟨HST_STAT, 4, 9⟩
/-- HST_STAT.NEXT: bits [31:16], RO. -/
def HST_STAT_NEXT : Fld := ⟨HST_STAT, 16, 16⟩
/-- HST_LOCK (R342). -/
def HST_LOCK : Nat := 0x02004
/-- HST_LOCK.LOCK: bits [0:0], RW. -/
def HST_LOCK_LOCK : Fld := ⟨HST_LOCK, 0, 1⟩
/-- HST_ERR (R340). -/
def HST_ERR : Nat := 0x02008
/-- HST_ERR.CODE: bits [7:0], RO. -/
def HST_ERR_CODE : Fld := ⟨HST_ERR, 0, 8⟩
/-- HST_ERR.OFFSET: bits [27:8], RO. -/
def HST_ERR_OFFSET : Fld := ⟨HST_ERR, 8, 20⟩
/-- HST_ERR.RD: bits [28:28], RO. -/
def HST_ERR_RD : Fld := ⟨HST_ERR, 28, 1⟩
/-- HST_ERR.MULTI: bits [30:30], RO. -/
def HST_ERR_MULTI : Fld := ⟨HST_ERR, 30, 1⟩
/-- HST_ERR.VALID: bits [31:31], W1C. -/
def HST_ERR_VALID : Fld := ⟨HST_ERR, 31, 1⟩
/-- HST_CNT_ERR (R340). -/
def HST_CNT_ERR : Nat := 0x0200C
/-- HST_VER_RANGE (R343). -/
def HST_VER_RANGE : Nat := 0x02010
/-- HST_VER_RANGE.LOW: bits [7:0], RO. -/
def HST_VER_RANGE_LOW : Fld := ⟨HST_VER_RANGE, 0, 8⟩
/-- HST_VER_RANGE.HIGH: bits [15:8], RO. -/
def HST_VER_RANGE_HIGH : Fld := ⟨HST_VER_RANGE, 8, 8⟩
/-- HST_VER_SEL (R343). -/
def HST_VER_SEL : Nat := 0x02014
/-- HST_VER_SEL.VER: bits [7:0], RW. -/
def HST_VER_SEL_VER : Fld := ⟨HST_VER_SEL, 0, 8⟩
/-- HST_IRQ_STAT (R356). -/
def HST_IRQ_STAT : Nat := 0x02020
/-- HST_IRQ_STAT.CMPL: bits [0:0], W1C. -/
def HST_IRQ_STAT_CMPL : Fld := ⟨HST_IRQ_STAT, 0, 1⟩
/-- HST_IRQ_STAT.ERR: bits [1:1], W1C. -/
def HST_IRQ_STAT_ERR : Fld := ⟨HST_IRQ_STAT, 1, 1⟩
/-- HST_IRQ_STAT.DL: bits [2:2], RO. -/
def HST_IRQ_STAT_DL : Fld := ⟨HST_IRQ_STAT, 2, 1⟩
/-- HST_IRQ_STAT.SHED: bits [3:3], RO. -/
def HST_IRQ_STAT_SHED : Fld := ⟨HST_IRQ_STAT, 3, 1⟩
/-- HST_IRQ_STAT.SHD: bits [4:4], W1C. -/
def HST_IRQ_STAT_SHD : Fld := ⟨HST_IRQ_STAT, 4, 1⟩
/-- HST_IRQ_STAT.CAN: bits [5:5], RO. -/
def HST_IRQ_STAT_CAN : Fld := ⟨HST_IRQ_STAT, 5, 1⟩
/-- HST_IRQ_STAT.LOG: bits [6:6], W1C. -/
def HST_IRQ_STAT_LOG : Fld := ⟨HST_IRQ_STAT, 6, 1⟩
/-- HST_IRQ_STAT.SPI: bits [7:7], RO. -/
def HST_IRQ_STAT_SPI : Fld := ⟨HST_IRQ_STAT, 7, 1⟩
/-- HST_IRQ_STAT.AXIS: bits [8:8], W1C. -/
def HST_IRQ_STAT_AXIS : Fld := ⟨HST_IRQ_STAT, 8, 1⟩
/-- HST_IRQ_EN (R356). -/
def HST_IRQ_EN : Nat := 0x02024
/-- HST_IRQ_EN.EN: bits [8:0], RW. -/
def HST_IRQ_EN_EN : Fld := ⟨HST_IRQ_EN, 0, 9⟩
/-- HST_IRQ_HOLDOFF (R357). -/
def HST_IRQ_HOLDOFF : Nat := 0x02028
/-- HST_IRQ_HOLDOFF.HOLDOFF: bits [15:0], RW. -/
def HST_IRQ_HOLDOFF_HOLDOFF : Fld := ⟨HST_IRQ_HOLDOFF, 0, 16⟩
/-- HST_CRING_BASE (R354), low word of 64 bits. -/
def HST_CRING_BASE : Nat := 0x02040
/-- HST_CRING_SIZE (R354). -/
def HST_CRING_SIZE : Nat := 0x02048
/-- HST_CRING_SIZE.SIZE: bits [14:0], RW. -/
def HST_CRING_SIZE_SIZE : Fld := ⟨HST_CRING_SIZE, 0, 15⟩
/-- HST_CRING_HEAD (R354). -/
def HST_CRING_HEAD : Nat := 0x0204C
/-- HST_CRING_HEAD.HEAD: bits [15:0], RW. -/
def HST_CRING_HEAD_HEAD : Fld := ⟨HST_CRING_HEAD, 0, 16⟩
/-- HST_CRING_TAIL (R354). -/
def HST_CRING_TAIL : Nat := 0x02050
/-- HST_CRING_TAIL.TAIL: bits [15:0], RO. -/
def HST_CRING_TAIL_TAIL : Fld := ⟨HST_CRING_TAIL, 0, 16⟩
/-- HST_CRING_CTL (R354). -/
def HST_CRING_CTL : Nat := 0x02054
/-- HST_CRING_CTL.EN: bits [0:0], RW. -/
def HST_CRING_CTL_EN : Fld := ⟨HST_CRING_CTL, 0, 1⟩
/-- HST_SPI_ERR (R335). -/
def HST_SPI_ERR : Nat := 0x02060
/-- HST_SPI_ERR.FRAG: bits [0:0], W1C. -/
def HST_SPI_ERR_FRAG : Fld := ⟨HST_SPI_ERR, 0, 1⟩
/-- HST_SPI_ERR.EXTRA: bits [1:1], W1C. -/
def HST_SPI_ERR_EXTRA : Fld := ⟨HST_SPI_ERR, 1, 1⟩
/-- HST_SPI_ERR.HCRC: bits [2:2], W1C. -/
def HST_SPI_ERR_HCRC : Fld := ⟨HST_SPI_ERR, 2, 1⟩
/-- HST_SPI_ERR.DCRC: bits [3:3], W1C. -/
def HST_SPI_ERR_DCRC : Fld := ⟨HST_SPI_ERR, 3, 1⟩
/-- HST_SPI_ERR.CMD: bits [4:4], W1C. -/
def HST_SPI_ERR_CMD : Fld := ⟨HST_SPI_ERR, 4, 1⟩
/-- HST_SPI_ERR.OVR: bits [5:5], W1C. -/
def HST_SPI_ERR_OVR : Fld := ⟨HST_SPI_ERR, 5, 1⟩
/-- HST_CNT_BUSY (R345). -/
def HST_CNT_BUSY : Nat := 0x02064
/-- HST_CNT_MCDROP (R352). -/
def HST_CNT_MCDROP : Nat := 0x02068
/-- HST_CNT_SPIERR (R335). -/
def HST_CNT_SPIERR : Nat := 0x0206C
/-- HST_QSTAT (R347). -/
def HST_QSTAT (i : Nat) : Nat := 0x02080 + i * 0x4
/-- HST_QSTAT.OUTST: bits [8:0], RO. -/
def HST_QSTAT_OUTST (i : Nat) : Fld := ⟨(HST_QSTAT i), 0, 9⟩
/-- BEAT_CFG (R24). -/
def BEAT_CFG : Nat := 0x03000
/-- BEAT_CFG.RATE: bits [2:0], RO. -/
def BEAT_CFG_RATE : Fld := ⟨BEAT_CFG, 0, 3⟩
/-- BEAT_CFG.SRC: bits [3:3], RO. -/
def BEAT_CFG_SRC : Fld := ⟨BEAT_CFG, 3, 1⟩
/-- BEAT_CFG.C_SCOPE: bits [8:8], RO. -/
def BEAT_CFG_C_SCOPE : Fld := ⟨BEAT_CFG, 8, 1⟩
/-- BEAT_CFG.RUN: bits [9:9], RO. -/
def BEAT_CFG_RUN : Fld := ⟨BEAT_CFG, 9, 1⟩
/-- BEAT_IDL (R25). -/
def BEAT_IDL : Nat := 0x03004
/-- BEAT_IDL.VALUE: bits [17:0], RO. -/
def BEAT_IDL_VALUE : Fld := ⟨BEAT_IDL, 0, 18⟩
/-- BEAT_OPH (R25). -/
def BEAT_OPH : Nat := 0x03008
/-- BEAT_OPH.VALUE: bits [17:0], RO. -/
def BEAT_OPH_VALUE : Fld := ⟨BEAT_OPH, 0, 18⟩
/-- BEAT_FCL (R25). -/
def BEAT_FCL : Nat := 0x0300C
/-- BEAT_FCL.VALUE: bits [17:0], RO. -/
def BEAT_FCL_VALUE : Fld := ⟨BEAT_FCL, 0, 18⟩
/-- BEAT_PERIOD (R27). -/
def BEAT_PERIOD : Nat := 0x03010
/-- BEAT_PERIOD.VALUE: bits [17:0], RO. -/
def BEAT_PERIOD_VALUE : Fld := ⟨BEAT_PERIOD, 0, 18⟩
/-- BEAT_NUM (R17). -/
def BEAT_NUM : Nat := 0x03014
/-- BEAT_GT (R16), low word of 64 bits. -/
def BEAT_GT : Nat := 0x03018
/-- BEAT_EDGE (R24), low word of 64 bits. -/
def BEAT_EDGE : Nat := 0x03020
/-- BEAT_STAT (R45). -/
def BEAT_STAT : Nat := 0x03028
/-- BEAT_STAT.OVR: bits [0:0], W1C. -/
def BEAT_STAT_OVR : Fld := ⟨BEAT_STAT, 0, 1⟩
/-- BEAT_STAT.STALE: bits [1:1], W1C. -/
def BEAT_STAT_STALE : Fld := ⟨BEAT_STAT, 1, 1⟩
/-- BEAT_STAT.GTSTEP: bits [2:2], W1C. -/
def BEAT_STAT_GTSTEP : Fld := ⟨BEAT_STAT, 2, 1⟩
/-- BEAT_STAT.SLEW: bits [3:3], RO. -/
def BEAT_STAT_SLEW : Fld := ⟨BEAT_STAT, 3, 1⟩
/-- BEAT_STAT.SHED_A: bits [8:8], RO. -/
def BEAT_STAT_SHED_A : Fld := ⟨BEAT_STAT, 8, 1⟩
/-- BEAT_STAT.SHED_B: bits [9:9], RO. -/
def BEAT_STAT_SHED_B : Fld := ⟨BEAT_STAT, 9, 1⟩
/-- BEAT_STAT.SHED_C: bits [10:10], RO. -/
def BEAT_STAT_SHED_C : Fld := ⟨BEAT_STAT, 10, 1⟩
/-- BEAT_SHED (R45). -/
def BEAT_SHED : Nat := 0x0302C
/-- BEAT_SHED.A_LEFT: bits [9:0], RO. -/
def BEAT_SHED_A_LEFT : Fld := ⟨BEAT_SHED, 0, 10⟩
/-- BEAT_SHED.B_LEFT: bits [25:16], RO. -/
def BEAT_SHED_B_LEFT : Fld := ⟨BEAT_SHED, 16, 10⟩
/-- BEAT_OVRCNT (R43). -/
def BEAT_OVRCNT : Nat := 0x03030
/-- BEAT_STALECNT (R43). -/
def BEAT_STALECNT : Nat := 0x03034
/-- BEAT_BUDGET (R39). -/
def BEAT_BUDGET : Nat := 0x03038
/-- BEAT_BUDGET.CYCLES: bits [20:0], RO. -/
def BEAT_BUDGET_CYCLES : Fld := ⟨BEAT_BUDGET, 0, 21⟩
/-- BEAT_WCSUM (R39). -/
def BEAT_WCSUM : Nat := 0x0303C
/-- BEAT_WCSUM.CYCLES: bits [20:0], RO. -/
def BEAT_WCSUM_CYCLES : Fld := ⟨BEAT_WCSUM, 0, 21⟩
/-- BEAT_MARGIN (R38). -/
def BEAT_MARGIN : Nat := 0x03040
/-- BEAT_MARGIN.MIN_SLACK: bits [17:0], RW. -/
def BEAT_MARGIN_MIN_SLACK : Fld := ⟨BEAT_MARGIN, 0, 18⟩
/-- BEAT_LOAD (R37). -/
def BEAT_LOAD (i : Nat) : Nat := 0x03080 + i * 0x4
/-- BEAT_LOAD.BUSY: bits [16:0], RO. -/
def BEAT_LOAD_BUSY (i : Nat) : Fld := ⟨(BEAT_LOAD i), 0, 17⟩
/-- BEAT_PEAK (R37). -/
def BEAT_PEAK (i : Nat) : Nat := 0x030C0 + i * 0x4
/-- BEAT_PEAK.PEAK: bits [16:0], RW. -/
def BEAT_PEAK_PEAK (i : Nat) : Fld := ⟨(BEAT_PEAK i), 0, 17⟩
/-- KNL_STAT (R163). -/
def KNL_STAT : Nat := 0x04000
/-- KNL_STAT.SUSP: bits [15:0], RO. -/
def KNL_STAT_SUSP : Fld := ⟨KNL_STAT, 0, 16⟩
/-- KNL_STAT.RUN: bits [16:16], RO. -/
def KNL_STAT_RUN : Fld := ⟨KNL_STAT, 16, 1⟩
/-- KNL_INST (R157). -/
def KNL_INST : Nat := 0x04004
/-- KNL_INST.FILL: bits [8:0], RO. -/
def KNL_INST_FILL : Fld := ⟨KNL_INST, 0, 9⟩
/-- KNL_INST.PEAK: bits [24:16], RW. -/
def KNL_INST_PEAK : Fld := ⟨KNL_INST, 16, 9⟩
/-- KNL_CNT_MERGE (R157). -/
def KNL_CNT_MERGE : Nat := 0x04010
/-- KNL_CNT_DISPATCH (R160). -/
def KNL_CNT_DISPATCH : Nat := 0x04014
/-- KNL_CNT_PREEMPT (R160). -/
def KNL_CNT_PREEMPT : Nat := 0x04018
/-- KNL_CNT_OPHKILL (R162). -/
def KNL_CNT_OPHKILL : Nat := 0x0401C
/-- KNL_CNT_PARK (R163). -/
def KNL_CNT_PARK : Nat := 0x04020
/-- KNL_DESC_SEL (R151). -/
def KNL_DESC_SEL : Nat := 0x04040
/-- KNL_DESC_SEL.INDEX: bits [9:0], RW. -/
def KNL_DESC_SEL_INDEX : Fld := ⟨KNL_DESC_SEL, 0, 10⟩
/-- KNL_DESC_W (R151). -/
def KNL_DESC_W (i : Nat) : Nat := 0x04044 + i * 0x4
/-- KNL_PP_CTL (R166). -/
def KNL_PP_CTL : Nat := 0x04080
/-- KNL_PP_CTL.RUN: bits [0:0], RW. -/
def KNL_PP_CTL_RUN : Fld := ⟨KNL_PP_CTL, 0, 1⟩
/-- KNL_PP_CTL.MODE: bits [1:1], RW. -/
def KNL_PP_CTL_MODE : Fld := ⟨KNL_PP_CTL, 1, 1⟩
/-- KNL_PP_CTL.TRIG: bits [3:2], RW. -/
def KNL_PP_CTL_TRIG : Fld := ⟨KNL_PP_CTL, 2, 2⟩
/-- KNL_PP_CTL.POSTCNT: bits [29:16], RW. -/
def KNL_PP_CTL_POSTCNT : Fld := ⟨KNL_PP_CTL, 16, 14⟩
/-- KNL_PP_LVLMASK (R165). -/
def KNL_PP_LVLMASK : Nat := 0x04084
/-- KNL_PP_LVLMASK.MASK: bits [15:0], RW. -/
def KNL_PP_LVLMASK_MASK : Fld := ⟨KNL_PP_LVLMASK, 0, 16⟩
/-- KNL_PP_STAT (R166). -/
def KNL_PP_STAT : Nat := 0x04088
/-- KNL_PP_STAT.RUNNING: bits [0:0], RO. -/
def KNL_PP_STAT_RUNNING : Fld := ⟨KNL_PP_STAT, 0, 1⟩
/-- KNL_PP_STAT.TRIGGERED: bits [1:1], RO. -/
def KNL_PP_STAT_TRIGGERED : Fld := ⟨KNL_PP_STAT, 1, 1⟩
/-- KNL_PP_STAT.WRAPPED: bits [2:2], RO. -/
def KNL_PP_STAT_WRAPPED : Fld := ⟨KNL_PP_STAT, 2, 1⟩
/-- KNL_PP_WPTR (R166). -/
def KNL_PP_WPTR : Nat := 0x0408C
/-- KNL_PP_WPTR.WPTR: bits [13:0], RO. -/
def KNL_PP_WPTR_WPTR : Fld := ⟨KNL_PP_WPTR, 0, 14⟩
/-- KNL_PP_TRIGIDX (R166). -/
def KNL_PP_TRIGIDX : Nat := 0x04090
/-- KNL_PP_TRIGIDX.TRIGIDX: bits [13:0], RO. -/
def KNL_PP_TRIGIDX_TRIGIDX : Fld := ⟨KNL_PP_TRIGIDX, 0, 14⟩
/-- KNL_PP_LOST (R165). -/
def KNL_PP_LOST : Nat := 0x04094
/-- KNL_RDY (R159). -/
def KNL_RDY (i : Nat) : Nat := 0x04100 + i * 0x4
/-- KNL_RDY.READY: bits [10:0], RO. -/
def KNL_RDY_READY (i : Nat) : Fld := ⟨(KNL_RDY i), 0, 11⟩
/-- KNL_QFILL (R158). -/
def KNL_QFILL (i : Nat) : Nat := 0x04200 + i * 0x4
/-- KNL_QFILL.FILL: bits [6:0], RO. -/
def KNL_QFILL_FILL (i : Nat) : Fld := ⟨(KNL_QFILL i), 0, 7⟩
/-- KNL_QFILL.BLOCKED: bits [7:7], RO. -/
def KNL_QFILL_BLOCKED (i : Nat) : Fld := ⟨(KNL_QFILL i), 7, 1⟩
/-- KNL_QFILL.PEAK: bits [14:8], RW. -/
def KNL_QFILL_PEAK (i : Nat) : Fld := ⟨(KNL_QFILL i), 8, 7⟩
/-- KNL_QFILL.FULLCNT: bits [31:16], RW. -/
def KNL_QFILL_FULLCNT (i : Nat) : Fld := ⟨(KNL_QFILL i), 16, 16⟩
/-- LOG_CTL (R407). -/
def LOG_CTL : Nat := 0x05000
/-- LOG_CTL.FRZEN: bits [0:0], RW. -/
def LOG_CTL_FRZEN : Fld := ⟨LOG_CTL, 0, 1⟩
/-- LOG_CTL.FRZSEV: bits [2:1], RW. -/
def LOG_CTL_FRZSEV : Fld := ⟨LOG_CTL, 1, 2⟩
/-- LOG_CTL.IRQSEV: bits [5:4], RW. -/
def LOG_CTL_IRQSEV : Fld := ⟨LOG_CTL, 4, 2⟩
/-- LOG_CTL.POST: bits [15:8], RW. -/
def LOG_CTL_POST : Fld := ⟨LOG_CTL, 8, 8⟩
/-- LOG_CMD (R407). -/
def LOG_CMD : Nat := 0x05004
/-- LOG_CMD.FREEZE: bits [0:0], WO. -/
def LOG_CMD_FREEZE : Fld := ⟨LOG_CMD, 0, 1⟩
/-- LOG_CMD.THAW: bits [1:1], WO. -/
def LOG_CMD_THAW : Fld := ⟨LOG_CMD, 1, 1⟩
/-- LOG_STAT (R407). -/
def LOG_STAT : Nat := 0x05008
/-- LOG_STAT.FROZEN: bits [0:0], RO. -/
def LOG_STAT_FROZEN : Fld := ⟨LOG_STAT, 0, 1⟩
/-- LOG_STAT.PENDING: bits [1:1], RO. -/
def LOG_STAT_PENDING : Fld := ⟨LOG_STAT, 1, 1⟩
/-- LOG_STAT.WRAPPED: bits [2:2], RO. -/
def LOG_STAT_WRAPPED : Fld := ⟨LOG_STAT, 2, 1⟩
/-- LOG_STAT.LOSS: bits [3:3], W1C. -/
def LOG_STAT_LOSS : Fld := ⟨LOG_STAT, 3, 1⟩
/-- LOG_SEQ (R403). -/
def LOG_SEQ : Nat := 0x0500C
/-- LOG_TRIGIDX (R407). -/
def LOG_TRIGIDX : Nat := 0x05010
/-- LOG_TRIGIDX.INDEX: bits [11:0], RO. -/
def LOG_TRIGIDX_INDEX : Fld := ⟨LOG_TRIGIDX, 0, 12⟩
/-- LOG_TRIGIDX.VALID: bits [31:31], RO. -/
def LOG_TRIGIDX_VALID : Fld := ⟨LOG_TRIGIDX, 31, 1⟩
/-- LOG_EPOCH (R404). -/
def LOG_EPOCH : Nat := 0x05014
/-- LOG_EPOCH.EPOCH: bits [15:0], RO. -/
def LOG_EPOCH_EPOCH : Fld := ⟨LOG_EPOCH, 0, 16⟩
/-- LOG_CNT_LOST (R405). -/
def LOG_CNT_LOST : Nat := 0x05018
/-- LOG_RD_IDX (R403). -/
def LOG_RD_IDX : Nat := 0x05020
/-- LOG_RD_IDX.INDEX: bits [11:0], RW. -/
def LOG_RD_IDX_INDEX : Fld := ⟨LOG_RD_IDX, 0, 12⟩
/-- LOG_RD_W (R403). -/
def LOG_RD_W (i : Nat) : Nat := 0x05040 + i * 0x4
/-- LOG_DBG (R413). -/
def LOG_DBG : Nat := 0x05060
/-- LOG_DBG.DBGOFF: bits [0:0], RO. -/
def LOG_DBG_DBGOFF : Fld := ⟨LOG_DBG, 0, 1⟩
/-- LOG_DBG.ARMED: bits [1:1], RO. -/
def LOG_DBG_ARMED : Fld := ⟨LOG_DBG, 1, 1⟩
/-- LOG_DBG.ATTACHED: bits [2:2], RO. -/
def LOG_DBG_ATTACHED : Fld := ⟨LOG_DBG, 2, 1⟩
/-- SHD_STAT (R304). -/
def SHD_STAT : Nat := 0x06000
/-- SHD_STAT.STATE: bits [0:0], RO. -/
def SHD_STAT_STATE : Fld := ⟨SHD_STAT, 0, 1⟩
/-- SHD_STAT.SECTOK: bits [1:1], RO. -/
def SHD_STAT_SECTOK : Fld := ⟨SHD_STAT, 1, 1⟩
/-- SHD_STAT.UNVAL: bits [2:2], RO. -/
def SHD_STAT_UNVAL : Fld := ⟨SHD_STAT, 2, 1⟩
/-- SHD_STAT.VSOLOW: bits [3:3], RO. -/
def SHD_STAT_VSOLOW : Fld := ⟨SHD_STAT, 3, 1⟩
/-- SHD_STAT.RELTEST: bits [4:4], RO. -/
def SHD_STAT_RELTEST : Fld := ⟨SHD_STAT, 4, 1⟩
/-- SHD_STAT.RHELD: bits [8:8], W1C. -/
def SHD_STAT_RHELD : Fld := ⟨SHD_STAT, 8, 1⟩
/-- SHD_STAT.RREF: bits [9:9], W1C. -/
def SHD_STAT_RREF : Fld := ⟨SHD_STAT, 9, 1⟩
/-- SHD_STAT.RDIS: bits [10:10], W1C. -/
def SHD_STAT_RDIS : Fld := ⟨SHD_STAT, 10, 1⟩
/-- SHD_STAT.EVLOST: bits [11:11], W1C. -/
def SHD_STAT_EVLOST : Fld := ⟨SHD_STAT, 11, 1⟩
/-- SHD_CAUSE (R303). -/
def SHD_CAUSE : Nat := 0x06004
/-- SHD_CAUSE.CAUSE: bits [7:0], RO. -/
def SHD_CAUSE_CAUSE : Fld := ⟨SHD_CAUSE, 0, 8⟩
/-- SHD_CAUSE.DETAIL: bits [15:8], RO. -/
def SHD_CAUSE_DETAIL : Fld := ⟨SHD_CAUSE, 8, 8⟩
/-- SHD_SECT_CRC (R311). -/
def SHD_SECT_CRC : Nat := 0x06008
/-- SHD_SI (R293). -/
def SHD_SI : Nat := 0x0600C
/-- SHD_SI.A: bits [15:0], RO. -/
def SHD_SI_A : Fld := ⟨SHD_SI, 0, 16⟩
/-- SHD_SI.B: bits [31:16], RO. -/
def SHD_SI_B : Fld := ⟨SHD_SI, 16, 16⟩
/-- SHD_PAIR (R295). -/
def SHD_PAIR : Nat := 0x06010
/-- SHD_PAIR.ON: bits [7:0], RO. -/
def SHD_PAIR_ON : Fld := ⟨SHD_PAIR, 0, 8⟩
/-- SHD_PAIR.FAULTED: bits [15:8], RO. -/
def SHD_PAIR_FAULTED : Fld := ⟨SHD_PAIR, 8, 8⟩
/-- SHD_SF (R299). -/
def SHD_SF : Nat := 0x06014
/-- SHD_SF.STATES: bits [15:0], RO. -/
def SHD_SF_STATES : Fld := ⟨SHD_SF, 0, 16⟩
/-- SHD_SO (R300). -/
def SHD_SO : Nat := 0x06018
/-- SHD_SO.CMD: bits [3:0], RO. -/
def SHD_SO_CMD : Fld := ⟨SHD_SO, 0, 4⟩
/-- SHD_SO.READ: bits [7:4], RO. -/
def SHD_SO_READ : Fld := ⟨SHD_SO, 4, 4⟩
/-- SHD_SO.TPOK: bits [11:8], RO. -/
def SHD_SO_TPOK : Fld := ⟨SHD_SO, 8, 4⟩
/-- SHD_SS1LEFT (R299). -/
def SHD_SS1LEFT : Nat := 0x0601C
/-- SHD_SS1LEFT.LEFT: bits [23:0], RO. -/
def SHD_SS1LEFT_LEFT : Fld := ⟨SHD_SS1LEFT, 0, 24⟩
/-- SHD_CNT_SRST (R308). -/
def SHD_CNT_SRST : Nat := 0x06020
/-- SHD_CNT_SRST.ACCEPTED: bits [15:0], RO. -/
def SHD_CNT_SRST_ACCEPTED : Fld := ⟨SHD_CNT_SRST, 0, 16⟩
/-- SHD_CNT_SRST.REFUSED: bits [31:16], RO. -/
def SHD_CNT_SRST_REFUSED : Fld := ⟨SHD_CNT_SRST, 16, 16⟩
/-- SHD_CNT_FAULT (R304). -/
def SHD_CNT_FAULT : Nat := 0x06024
/-- SHD_PAIR_CFG (R295). -/
def SHD_PAIR_CFG (i : Nat) : Nat := 0x06100 + i * 0x4
/-- SHD_SF_CFG (R298). -/
def SHD_SF_CFG (i : Nat) : Nat := 0x06140 + i * 0x20
/-- SHD_SF_TSS1 (R298). -/
def SHD_SF_TSS1 (i : Nat) : Nat := 0x06144 + i * 0x20
/-- SHD_SF_AXMASK (R298). -/
def SHD_SF_AXMASK (i : Nat) (j : Nat) : Nat := 0x06148 + i * 0x20 + j * 0x4
/-- SHD_SECT_VAL (R312). -/
def SHD_SECT_VAL : Nat := 0x06240
/-- MST_CFG (R126). -/
def MST_CFG : Nat := 0x07000
/-- MST_CFG.SRC: bits [2:0], RO. -/
def MST_CFG_SRC : Fld := ⟨MST_CFG, 0, 3⟩
/-- MST_CFG.SEND: bits [3:3], RO. -/
def MST_CFG_SEND : Fld := ⟨MST_CFG, 3, 1⟩
/-- MST_CFG.LEAD: bits [6:4], RO. -/
def MST_CFG_LEAD : Fld := ⟨MST_CFG, 4, 3⟩
/-- MST_CFG.MHOLD: bits [14:8], RO. -/
def MST_CFG_MHOLD : Fld := ⟨MST_CFG, 8, 7⟩
/-- MST_CFG.SRCID: bits [21:16], RO. -/
def MST_CFG_SRCID : Fld := ⟨MST_CFG, 16, 6⟩
/-- MST_CTL (R136). -/
def MST_CTL : Nat := 0x07004
/-- MST_CTL.ACK: bits [0:0], WO. -/
def MST_CTL_ACK : Fld := ⟨MST_CTL, 0, 1⟩
/-- MST_STAT (R134). -/
def MST_STAT : Nat := 0x07008
/-- MST_STAT.MLATE: bits [0:0], W1C. -/
def MST_STAT_MLATE : Fld := ⟨MST_STAT, 0, 1⟩
/-- MST_STAT.LOST: bits [1:1], RO. -/
def MST_STAT_LOST : Fld := ⟨MST_STAT, 1, 1⟩
/-- MST_STAT.HALTED: bits [2:2], RO. -/
def MST_STAT_HALTED : Fld := ⟨MST_STAT, 2, 1⟩
/-- MST_STAT.QERR0: bits [3:3], W1C. -/
def MST_STAT_QERR0 : Fld := ⟨MST_STAT, 3, 1⟩
/-- MST_STAT.QERR1: bits [4:4], W1C. -/
def MST_STAT_QERR1 : Fld := ⟨MST_STAT, 4, 1⟩
/-- MST_STAT.MAOVR0: bits [5:5], W1C. -/
def MST_STAT_MAOVR0 : Fld := ⟨MST_STAT, 5, 1⟩
/-- MST_STAT.MAOVR1: bits [6:6], W1C. -/
def MST_STAT_MAOVR1 : Fld := ⟨MST_STAT, 6, 1⟩
/-- MST_STAT.REBASED: bits [7:7], W1C. -/
def MST_STAT_REBASED : Fld := ⟨MST_STAT, 7, 1⟩
/-- MST_STAT.SRCOK: bits [8:8], RO. -/
def MST_STAT_SRCOK : Fld := ⟨MST_STAT, 8, 1⟩
/-- MST_STAT.ACKPEND: bits [9:9], RO. -/
def MST_STAT_ACKPEND : Fld := ⟨MST_STAT, 9, 1⟩
/-- MST_LOSS_DEC (R135). -/
def MST_LOSS_DEC : Nat := 0x0700C
/-- MST_S_EDGE (R129). -/
def MST_S_EDGE : Nat := 0x07010
/-- MST_S_POS (R129), low word of 64 bits. -/
def MST_S_POS : Nat := 0x07018
/-- MST_S_VEL (R129), low word of 64 bits. -/
def MST_S_VEL : Nat := 0x07020
/-- MST_S_ACC (R129), low word of 64 bits. -/
def MST_S_ACC : Nat := 0x07028
/-- MST_X_EDGE (R132). -/
def MST_X_EDGE : Nat := 0x07030
/-- MST_X_POS (R132), low word of 64 bits. -/
def MST_X_POS : Nat := 0x07038
/-- MST_X_VEL (R132), low word of 64 bits. -/
def MST_X_VEL : Nat := 0x07040
/-- MST_X_ACC (R132), low word of 64 bits. -/
def MST_X_ACC : Nat := 0x07048
/-- MST_REBASE (R136), low word of 64 bits. -/
def MST_REBASE : Nat := 0x07050
/-- MST_CNT_MLATE (R134). -/
def MST_CNT_MLATE : Nat := 0x07058
/-- MST_CNT_QERR (R128). -/
def MST_CNT_QERR : Nat := 0x0705C
/-- MST_VM_VEL (R131), low word of 64 bits. -/
def MST_VM_VEL : Nat := 0x07060
/-- MST_VM_ACC (R131). -/
def MST_VM_ACC : Nat := 0x07068
/-- MST_VM_JERK (R131). -/
def MST_VM_JERK : Nat := 0x0706C
/-- MST_GU_END (R137). -/
def MST_GU_END : Nat := 0x07070
/-- MST_MP_CFG (R128). -/
def MST_MP_CFG (i : Nat) : Nat := 0x07080 + i * 0x10
/-- MST_MP_CFG.FILT: bits [2:0], RO. -/
def MST_MP_CFG_FILT (i : Nat) : Fld := ⟨(MST_MP_CFG i), 0, 3⟩
/-- MST_MP_CFG.INV: bits [3:3], RO. -/
def MST_MP_CFG_INV (i : Nat) : Fld := ⟨(MST_MP_CFG i), 3, 1⟩
/-- MST_MP_CFG.VWIN: bits [9:4], RO. -/
def MST_MP_CFG_VWIN (i : Nat) : Fld := ⟨(MST_MP_CFG i), 4, 6⟩
/-- MST_MP_CNT (R128). -/
def MST_MP_CNT (i : Nat) : Nat := 0x07084 + i * 0x10
/-- MST_MA_GAIN_LO (R130). -/
def MST_MA_GAIN_LO (i : Nat) : Nat := 0x070A0 + i * 0x10
/-- MST_MA_GAIN_HI (R130). -/
def MST_MA_GAIN_HI (i : Nat) : Nat := 0x070A4 + i * 0x10
/-- MST_MA_OFFS (R130). -/
def MST_MA_OFFS (i : Nat) : Nat := 0x070A8 + i * 0x10
/-- MST_MA_OFFS.OFFS: bits [15:0], RO. -/
def MST_MA_OFFS_OFFS (i : Nat) : Fld := ⟨(MST_MA_OFFS i), 0, 16⟩
/-- MST_MA_OFFS.DEADB: bits [31:16], RO. -/
def MST_MA_OFFS_DEADB (i : Nat) : Fld := ⟨(MST_MA_OFFS i), 16, 16⟩
/-- MST_MA_RAW (R130). -/
def MST_MA_RAW (i : Nat) : Nat := 0x070AC + i * 0x10
/-- MST_MA_RAW.RAW: bits [15:0], RO. -/
def MST_MA_RAW_RAW (i : Nat) : Fld := ⟨(MST_MA_RAW i), 0, 16⟩
/-- LE_STAT (R89). -/
def LE_STAT (i : Nat) : Nat := 0x08000 + i * 0x400
/-- LE_STAT.POWERED: bits [0:0], RO. -/
def LE_STAT_POWERED (i : Nat) : Fld := ⟨(LE_STAT i), 0, 1⟩
/-- LE_STAT.RUNNING: bits [1:1], RO. -/
def LE_STAT_RUNNING (i : Nat) : Fld := ⟨(LE_STAT i), 1, 1⟩
/-- LE_STAT.HELD: bits [2:2], RO. -/
def LE_STAT_HELD (i : Nat) : Fld := ⟨(LE_STAT i), 2, 1⟩
/-- LE_STAT.BANK: bits [3:3], RO. -/
def LE_STAT_BANK (i : Nat) : Fld := ⟨(LE_STAT i), 3, 1⟩
/-- LE_STICKY (R65). -/
def LE_STICKY (i : Nat) : Nat := 0x08004 + i * 0x400
/-- LE_STICKY.SAT: bits [0:0], W1C. -/
def LE_STICKY_SAT (i : Nat) : Fld := ⟨(LE_STICKY i), 0, 1⟩
/-- LE_STICKY.EOVF: bits [1:1], W1C. -/
def LE_STICKY_EOVF (i : Nat) : Fld := ⟨(LE_STICKY i), 1, 1⟩
/-- LE_STICKY.EUNF: bits [2:2], W1C. -/
def LE_STICKY_EUNF (i : Nat) : Fld := ⟨(LE_STICKY i), 2, 1⟩
/-- LE_STICKY.FAULT: bits [3:3], W1C. -/
def LE_STICKY_FAULT (i : Nat) : Fld := ⟨(LE_STICKY i), 3, 1⟩
/-- LE_STICKY.ECC: bits [4:4], W1C. -/
def LE_STICKY_ECC (i : Nat) : Fld := ⟨(LE_STICKY i), 4, 1⟩
/-- LE_TASK (R90). -/
def LE_TASK (i : Nat) : Nat := 0x08008 + i * 0x400
/-- LE_TASK.INDEX: bits [9:0], RO. -/
def LE_TASK_INDEX (i : Nat) : Fld := ⟨(LE_TASK i), 0, 10⟩
/-- LE_TASK.LEVEL: bits [15:12], RO. -/
def LE_TASK_LEVEL (i : Nat) : Fld := ⟨(LE_TASK i), 12, 4⟩
/-- LE_TASK.PC: bits [29:16], RO. -/
def LE_TASK_PC (i : Nat) : Fld := ⟨(LE_TASK i), 16, 14⟩
/-- LE_TASK.VALID: bits [31:31], RO. -/
def LE_TASK_VALID (i : Nat) : Fld := ⟨(LE_TASK i), 31, 1⟩
/-- LE_FAULT (R88). -/
def LE_FAULT (i : Nat) : Nat := 0x0800C + i * 0x400
/-- LE_FAULT.CAUSE: bits [3:0], RO. -/
def LE_FAULT_CAUSE (i : Nat) : Fld := ⟨(LE_FAULT i), 0, 4⟩
/-- LE_FAULT.PC: bits [17:4], RO. -/
def LE_FAULT_PC (i : Nat) : Fld := ⟨(LE_FAULT i), 4, 14⟩
/-- LE_FAULT.INDEX: bits [27:18], RO. -/
def LE_FAULT_INDEX (i : Nat) : Fld := ⟨(LE_FAULT i), 18, 10⟩
/-- LE_FAULTCNT (R88). -/
def LE_FAULTCNT (i : Nat) : Nat := 0x08010 + i * 0x400
/-- LE_SATCNT (R65). -/
def LE_SATCNT (i : Nat) : Nat := 0x08014 + i * 0x400
/-- LE_EOVFCNT (R74). -/
def LE_EOVFCNT (i : Nat) : Nat := 0x08018 + i * 0x400
/-- LE_ECCCNT (R53). -/
def LE_ECCCNT (i : Nat) : Nat := 0x0801C + i * 0x400
/-- LE_CYC (R37), low word of 64 bits. -/
def LE_CYC (i : Nat) : Nat := 0x08020 + i * 0x400
/-- LE_PREEMPTCNT (R90). -/
def LE_PREEMPTCNT (i : Nat) : Nat := 0x08028 + i * 0x400
/-- LE_ABORTCNT (R91). -/
def LE_ABORTCNT (i : Nat) : Nat := 0x0802C + i * 0x400
/-- LE_YQ (R59). -/
def LE_YQ : Nat := 0x08030
/-- LE_YQ.FILL: bits [5:0], RO. -/
def LE_YQ_FILL : Fld := ⟨LE_YQ, 0, 6⟩
/-- LE_YQ.PEAK: bits [13:8], RW. -/
def LE_YQ_PEAK : Fld := ⟨LE_YQ, 8, 6⟩
/-- LE_YQ.REFUSED: bits [31:16], RW. -/
def LE_YQ_REFUSED : Fld := ⟨LE_YQ, 16, 16⟩
/-- LSH_PCFG (R205). -/
def LSH_PCFG (i : Nat) : Nat := 0x0C000 + i * 0x400
/-- LSH_PCFG.PHY: bits [1:0], RO. -/
def LSH_PCFG_PHY (i : Nat) : Fld := ⟨(LSH_PCFG i), 0, 2⟩
/-- LSH_PCFG.ROLE: bits [2:2], RO. -/
def LSH_PCFG_ROLE (i : Nat) : Fld := ⟨(LSH_PCFG i), 2, 1⟩
/-- LSH_PSTAT (R205). -/
def LSH_PSTAT (i : Nat) : Nat := 0x0C004 + i * 0x400
/-- LSH_PSTAT.RXSYNC: bits [0:0], RO. -/
def LSH_PSTAT_RXSYNC (i : Nat) : Fld := ⟨(LSH_PSTAT i), 0, 1⟩
/-- LSH_PSTAT.TXON: bits [1:1], RO. -/
def LSH_PSTAT_TXON (i : Nat) : Fld := ⟨(LSH_PSTAT i), 1, 1⟩
/-- LSH_PSTAT.SPDERR: bits [2:2], W1C. -/
def LSH_PSTAT_SPDERR (i : Nat) : Fld := ⟨(LSH_PSTAT i), 2, 1⟩
/-- LSH_PSTAT.LOSS: bits [3:3], W1C. -/
def LSH_PSTAT_LOSS (i : Nat) : Fld := ⟨(LSH_PSTAT i), 3, 1⟩
/-- LSH_PHYDLY (R213). -/
def LSH_PHYDLY (i : Nat) : Nat := 0x0C008 + i * 0x400
/-- LSH_PHYDLY.DLY: bits [11:0], RO. -/
def LSH_PHYDLY_DLY (i : Nat) : Fld := ⟨(LSH_PHYDLY i), 0, 12⟩
/-- LSH_CNT_RXFRM (R221). -/
def LSH_CNT_RXFRM (i : Nat) : Nat := 0x0C010 + i * 0x400
/-- LSH_CNT_BADFCS (R221). -/
def LSH_CNT_BADFCS (i : Nat) : Nat := 0x0C014 + i * 0x400
/-- LSH_CNT_BADHDR (R221). -/
def LSH_CNT_BADHDR (i : Nat) : Nat := 0x0C018 + i * 0x400
/-- LSH_CNT_SYNCLOSS (R238). -/
def LSH_CNT_SYNCLOSS (i : Nat) : Nat := 0x0C01C + i * 0x400
/-- LSH_SCFG (R209). -/
def LSH_SCFG (i : Nat) : Nat := 0x0C100 + i * 0x800
/-- LSH_SCFG.DECL: bits [0:0], RO. -/
def LSH_SCFG_DECL (i : Nat) : Fld := ⟨(LSH_SCFG i), 0, 1⟩
/-- LSH_SCFG.NNODE: bits [6:1], RO. -/
def LSH_SCFG_NNODE (i : Nat) : Fld := ⟨(LSH_SCFG i), 1, 6⟩
/-- LSH_SCFG.NSLOT: bits [12:7], RO. -/
def LSH_SCFG_NSLOT (i : Nat) : Fld := ⟨(LSH_SCFG i), 7, 6⟩
/-- LSH_SCHED (R215). -/
def LSH_SCHED (i : Nat) : Nat := 0x0C104 + i * 0x800
/-- LSH_SCHED.PAD: bits [10:0], RWL. -/
def LSH_SCHED_PAD (i : Nat) : Fld := ⟨(LSH_SCHED i), 0, 11⟩
/-- LSH_SCHED.NLOSS: bits [18:11], RWL. -/
def LSH_SCHED_NLOSS (i : Nat) : Fld := ⟨(LSH_SCHED i), 11, 8⟩
/-- LSH_SCHED.MBXTO: bits [31:19], RWL. -/
def LSH_SCHED_MBXTO (i : Nat) : Fld := ⟨(LSH_SCHED i), 19, 13⟩
/-- LSH_SSTAT (R224). -/
def LSH_SSTAT (i : Nat) : Nat := 0x0C108 + i * 0x800
/-- LSH_SSTAT.RUN: bits [0:0], RO. -/
def LSH_SSTAT_RUN (i : Nat) : Fld := ⟨(LSH_SSTAT i), 0, 1⟩
/-- LSH_SSTAT.TOPO: bits [1:1], RO. -/
def LSH_SSTAT_TOPO (i : Nat) : Fld := ⟨(LSH_SSTAT i), 1, 1⟩
/-- LSH_SSTAT.UNDECL: bits [2:2], W1C. -/
def LSH_SSTAT_UNDECL (i : Nat) : Fld := ⟨(LSH_SSTAT i), 2, 1⟩
/-- LSH_SSTAT.NOFRAME: bits [3:3], W1C. -/
def LSH_SSTAT_NOFRAME (i : Nat) : Fld := ⟨(LSH_SSTAT i), 3, 1⟩
/-- LSH_SSTAT.OFSUPD: bits [4:4], W1C. -/
def LSH_SSTAT_OFSUPD (i : Nat) : Fld := ⟨(LSH_SSTAT i), 4, 1⟩
/-- LSH_TPATH (R220). -/
def LSH_TPATH (i : Nat) : Nat := 0x0C10C + i * 0x800
/-- LSH_TPATH.MEAS: bits [15:0], RO. -/
def LSH_TPATH_MEAS (i : Nat) : Fld := ⟨(LSH_TPATH i), 0, 16⟩
/-- LSH_TPATH.LOADER: bits [31:16], RO. -/
def LSH_TPATH_LOADER (i : Nat) : Fld := ⟨(LSH_TPATH i), 16, 16⟩
/-- LSH_LASTIN (R221). -/
def LSH_LASTIN (i : Nat) : Nat := 0x0C110 + i * 0x800
/-- LSH_LASTIN.ARR: bits [15:0], RO. -/
def LSH_LASTIN_ARR (i : Nat) : Fld := ⟨(LSH_LASTIN i), 0, 16⟩
/-- LSH_SID (R230). -/
def LSH_SID (i : Nat) : Nat := 0x0C114 + i * 0x800
/-- LSH_SAFECFG (R230). -/
def LSH_SAFECFG (i : Nat) : Nat := 0x0C118 + i * 0x800
/-- LSH_SAFECFG.SWDT: bits [6:0], PRV. -/
def LSH_SAFECFG_SWDT (i : Nat) : Fld := ⟨(LSH_SAFECFG i), 0, 7⟩
/-- LSH_CNT_SLOTCRC (R221). -/
def LSH_CNT_SLOTCRC (i : Nat) : Nat := 0x0C120 + i * 0x800
/-- LSH_CNT_IMPL (R221). -/
def LSH_CNT_IMPL (i : Nat) : Nat := 0x0C124 + i * 0x800
/-- LSH_CNT_NOFRAME (R221). -/
def LSH_CNT_NOFRAME (i : Nat) : Nat := 0x0C128 + i * 0x800
/-- LSH_CNT_ADMFAIL (R225). -/
def LSH_CNT_ADMFAIL (i : Nat) : Nat := 0x0C12C + i * 0x800
/-- LSH_MBXWAIT (R227). -/
def LSH_MBXWAIT (i : Nat) : Nat := 0x0C130 + i * 0x800
/-- LSH_MBXWAIT.WAIT: bits [15:0], RO. -/
def LSH_MBXWAIT_WAIT (i : Nat) : Fld := ⟨(LSH_MBXWAIT i), 0, 16⟩
/-- LSH_RCFG (R232). -/
def LSH_RCFG (i : Nat) : Nat := 0x0C140 + i * 0x800
/-- LSH_RCFG.REDUND: bits [0:0], RO. -/
def LSH_RCFG_REDUND (i : Nat) : Fld := ⟨(LSH_RCFG i), 0, 1⟩
/-- LSH_PATH (R242). -/
def LSH_PATH (i : Nat) : Nat := 0x0C144 + i * 0x800
/-- LSH_PATH.STATE: bits [2:0], RO. -/
def LSH_PATH_STATE (i : Nat) : Fld := ⟨(LSH_PATH i), 0, 3⟩
/-- LSH_PATH.WHOLE: bits [3:3], RO. -/
def LSH_PATH_WHOLE (i : Nat) : Fld := ⟨(LSH_PATH i), 3, 1⟩
/-- LSH_PATH.FO: bits [4:4], W1C. -/
def LSH_PATH_FO (i : Nat) : Fld := ⟨(LSH_PATH i), 4, 1⟩
/-- LSH_PATH.FOFAIL: bits [5:5], W1C. -/
def LSH_PATH_FOFAIL (i : Nat) : Fld := ⟨(LSH_PATH i), 5, 1⟩
/-- LSH_PATH.LINEFAIL: bits [6:6], W1C. -/
def LSH_PATH_LINEFAIL (i : Nat) : Fld := ⟨(LSH_PATH i), 6, 1⟩
/-- LSH_BREAK (R240). -/
def LSH_BREAK (i : Nat) : Nat := 0x0C148 + i * 0x800
/-- LSH_BREAK.LAST_H: bits [5:0], RO. -/
def LSH_BREAK_LAST_H (i : Nat) : Fld := ⟨(LSH_BREAK i), 0, 6⟩
/-- LSH_BREAK.FIRST_T: bits [13:8], RO. -/
def LSH_BREAK_FIRST_T (i : Nat) : Fld := ⟨(LSH_BREAK i), 8, 6⟩
/-- LSH_BREAK.BEAT: bits [31:16], RO. -/
def LSH_BREAK_BEAT (i : Nat) : Fld := ⟨(LSH_BREAK i), 16, 16⟩
/-- LSH_PROOF (R246). -/
def LSH_PROOF (i : Nat) : Nat := 0x0C14C + i * 0x800
/-- LSH_PROOF.RESTORE: bits [0:0], RO. -/
def LSH_PROOF_RESTORE (i : Nat) : Fld := ⟨(LSH_PROOF i), 0, 1⟩
/-- LSH_PROOF.PHASE: bits [4:1], RO. -/
def LSH_PROOF_PHASE (i : Nat) : Fld := ⟨(LSH_PROOF i), 1, 4⟩
/-- LSH_PROOF.HOP: bits [13:8], RO. -/
def LSH_PROOF_HOP (i : Nat) : Fld := ⟨(LSH_PROOF i), 8, 6⟩
/-- LSH_PROOF.VALID: bits [31:31], RO. -/
def LSH_PROOF_VALID (i : Nat) : Fld := ⟨(LSH_PROOF i), 31, 1⟩
/-- LSH_CNT_PATHFAIL (R235). -/
def LSH_CNT_PATHFAIL (i : Nat) : Nat := 0x0C150 + i * 0x800
/-- LSH_CNT_FAILOVER (R242). -/
def LSH_CNT_FAILOVER (i : Nat) : Nat := 0x0C154 + i * 0x800
/-- LSH_CNT_DUP (R239). -/
def LSH_CNT_DUP (i : Nat) : Nat := 0x0C158 + i * 0x800
/-- LSH_SLOTMAP (R209). -/
def LSH_SLOTMAP (i : Nat) (j : Nat) : Nat := 0x0C180 + i * 0x800 + j * 0x4
/-- LSH_SLOTMAP.EVEN: bits [15:0], RO. -/
def LSH_SLOTMAP_EVEN (i : Nat) (j : Nat) : Fld := ⟨(LSH_SLOTMAP i j), 0, 16⟩
/-- LSH_SLOTMAP.ODD: bits [31:16], RO. -/
def LSH_SLOTMAP_ODD (i : Nat) (j : Nat) : Fld := ⟨(LSH_SLOTMAP i j), 16, 16⟩
/-- LSH_NODE_STAT (R225). -/
def LSH_NODE_STAT (i : Nat) (j : Nat) : Nat := 0x0C200 + i * 0x800 + j * 0x10
/-- LSH_NODE_STAT.STATE: bits [2:0], RO. -/
def LSH_NODE_STAT_STATE (i : Nat) (j : Nat) : Fld := ⟨(LSH_NODE_STAT i j), 0, 3⟩
/-- LSH_NODE_STAT.DECL: bits [3:3], RO. -/
def LSH_NODE_STAT_DECL (i : Nat) (j : Nat) : Fld := ⟨(LSH_NODE_STAT i j), 3, 1⟩
/-- LSH_NODE_STAT.FLT: bits [4:4], RO. -/
def LSH_NODE_STAT_FLT (i : Nat) (j : Nat) : Fld := ⟨(LSH_NODE_STAT i j), 4, 1⟩
/-- LSH_NODE_STAT.MBXP: bits [5:5], RO. -/
def LSH_NODE_STAT_MBXP (i : Nat) (j : Nat) : Fld := ⟨(LSH_NODE_STAT i j), 5, 1⟩
/-- LSH_NODE_STAT.VER: bits [6:6], RO. -/
def LSH_NODE_STAT_VER (i : Nat) (j : Nat) : Fld := ⟨(LSH_NODE_STAT i j), 6, 1⟩
/-- LSH_NODE_STAT.REASON: bits [11:8], RO. -/
def LSH_NODE_STAT_REASON (i : Nat) (j : Nat) : Fld := ⟨(LSH_NODE_STAT i j), 8, 4⟩
/-- LSH_NODE_ID (R223). -/
def LSH_NODE_ID (i : Nat) (j : Nat) : Nat := 0x0C204 + i * 0x800 + j * 0x10
/-- LSH_NODE_ID.VENDOR: bits [15:0], RO. -/
def LSH_NODE_ID_VENDOR (i : Nat) (j : Nat) : Fld := ⟨(LSH_NODE_ID i j), 0, 16⟩
/-- LSH_NODE_ID.PRODUCT: bits [31:16], RO. -/
def LSH_NODE_ID_PRODUCT (i : Nat) (j : Nat) : Fld := ⟨(LSH_NODE_ID i j), 16, 16⟩
/-- LSH_NODE_SERIAL (R223). -/
def LSH_NODE_SERIAL (i : Nat) (j : Nat) : Nat := 0x0C208 + i * 0x800 + j * 0x10
/-- LSH_NODE_OFS (R220). -/
def LSH_NODE_OFS (i : Nat) (j : Nat) : Nat := 0x0C20C + i * 0x800 + j * 0x10
/-- LSH_NODE_OFS.OFS_F: bits [15:0], RO. -/
def LSH_NODE_OFS_OFS_F (i : Nat) (j : Nat) : Fld := ⟨(LSH_NODE_OFS i j), 0, 16⟩
/-- LSH_NODE_OFS.OFS_R: bits [31:16], RO. -/
def LSH_NODE_OFS_OFS_R (i : Nat) (j : Nat) : Fld := ⟨(LSH_NODE_OFS i j), 16, 16⟩
/-- CTR_CFG (R264). -/
def CTR_CFG : Nat := 0x0E000
/-- CTR_CFG.DECL: bits [0:0], RWL. -/
def CTR_CFG_DECL : Fld := ⟨CTR_CFG, 0, 1⟩
/-- CTR_CFG.NCYC: bits [3:1], RWL. -/
def CTR_CFG_NCYC : Fld := ⟨CTR_CFG, 1, 3⟩
/-- CTR_CFG.GUARD: bits [14:4], RWL. -/
def CTR_CFG_GUARD : Fld := ⟨CTR_CFG, 4, 11⟩
/-- CTR_STAT (R271). -/
def CTR_STAT : Nat := 0x0E004
/-- CTR_STAT.STATE: bits [2:0], RO. -/
def CTR_STAT_STATE : Fld := ⟨CTR_STAT, 0, 3⟩
/-- CTR_STAT.MASTER: bits [3:3], RO. -/
def CTR_STAT_MASTER : Fld := ⟨CTR_STAT, 3, 1⟩
/-- CTR_STAT.ELIG: bits [4:4], RO. -/
def CTR_STAT_ELIG : Fld := ⟨CTR_STAT, 4, 1⟩
/-- CTR_STAT.HASHERR: bits [5:5], W1C. -/
def CTR_STAT_HASHERR : Fld := ⟨CTR_STAT, 5, 1⟩
/-- CTR_STAT.RATEERR: bits [6:6], W1C. -/
def CTR_STAT_RATEERR : Fld := ⟨CTR_STAT, 6, 1⟩
/-- CTR_STAT.RDTO: bits [7:7], W1C. -/
def CTR_STAT_RDTO : Fld := ⟨CTR_STAT, 7, 1⟩
/-- CTR_STAT.DL: bits [8:8], W1C. -/
def CTR_STAT_DL : Fld := ⟨CTR_STAT, 8, 1⟩
/-- CTR_STAT.LISTENT: bits [23:16], RO. -/
def CTR_STAT_LISTENT : Fld := ⟨CTR_STAT, 16, 8⟩
/-- CTR_VER (R267). -/
def CTR_VER : Nat := 0x0E008
/-- CTR_VER.MINOR: bits [3:0], RO. -/
def CTR_VER_MINOR : Fld := ⟨CTR_VER, 0, 4⟩
/-- CTR_VER.MAJOR: bits [7:4], RO. -/
def CTR_VER_MAJOR : Fld := ⟨CTR_VER, 4, 4⟩
/-- CTR_VER.INUSE: bits [11:8], RO. -/
def CTR_VER_INUSE : Fld := ⟨CTR_VER, 8, 4⟩
/-- CTR_HASH (R263). -/
def CTR_HASH : Nat := 0x0E00C
/-- CTR_RXHASH (R271). -/
def CTR_RXHASH : Nat := 0x0E010
/-- CTR_OFFSET (R269). -/
def CTR_OFFSET : Nat := 0x0E014
/-- CTR_RATE (R269). -/
def CTR_RATE : Nat := 0x0E018
/-- CTR_MASTER (R271). -/
def CTR_MASTER : Nat := 0x0E01C
/-- CTR_MASTER.NODEID: bits [5:0], RO. -/
def CTR_MASTER_NODEID : Fld := ⟨CTR_MASTER, 0, 6⟩
/-- CTR_MASTER.RANK: bits [7:6], RO. -/
def CTR_MASTER_RANK : Fld := ⟨CTR_MASTER, 6, 2⟩
/-- CTR_MASTER.VALID: bits [8:8], RO. -/
def CTR_MASTER_VALID : Fld := ⟨CTR_MASTER, 8, 1⟩
/-- CTR_WTAG (R280). -/
def CTR_WTAG : Nat := 0x0E020
/-- CTR_WTAG.TAG: bits [15:0], RW. -/
def CTR_WTAG_TAG : Fld := ⟨CTR_WTAG, 0, 16⟩
/-- CTR_DLQ_FILL (R286). -/
def CTR_DLQ_FILL : Nat := 0x0E024
/-- CTR_DLQ_FILL.FILL: bits [8:0], RO. -/
def CTR_DLQ_FILL_FILL : Fld := ⟨CTR_DLQ_FILL, 0, 9⟩
/-- CTR_DLQ_W (R286). -/
def CTR_DLQ_W (i : Nat) : Nat := 0x0E030 + i * 0x4
/-- CTR_CNT (R270). -/
def CTR_CNT (i : Nat) : Nat := 0x0E040 + i * 0x4
/-- CTR_P_CFG (R264). -/
def CTR_P_CFG (i : Nat) : Nat := 0x0E080 + i * 0x20
/-- CTR_P_CFG.USED: bits [0:0], RWL. -/
def CTR_P_CFG_USED (i : Nat) : Fld := ⟨(CTR_P_CFG i), 0, 1⟩
/-- CTR_P_CFG.OPEN: bits [1:1], RWL. -/
def CTR_P_CFG_OPEN (i : Nat) : Fld := ⟨(CTR_P_CFG i), 1, 1⟩
/-- CTR_P_CFG.PEER: bits [7:2], RWL. -/
def CTR_P_CFG_PEER (i : Nat) : Fld := ⟨(CTR_P_CFG i), 2, 6⟩
/-- CTR_P_CFG.DELAY: bits [19:8], RWL. -/
def CTR_P_CFG_DELAY (i : Nat) : Fld := ⟨(CTR_P_CFG i), 8, 12⟩
/-- CTR_P_STAT (R253). -/
def CTR_P_STAT (i : Nat) : Nat := 0x0E084 + i * 0x20
/-- CTR_P_STAT.LOCK: bits [0:0], RO. -/
def CTR_P_STAT_LOCK (i : Nat) : Fld := ⟨(CTR_P_STAT i), 0, 1⟩
/-- CTR_P_STAT.PEERIDLE: bits [1:1], RO. -/
def CTR_P_STAT_PEERIDLE (i : Nat) : Fld := ⟨(CTR_P_STAT i), 1, 1⟩
/-- CTR_P_STAT.DLYERR: bits [2:2], W1C. -/
def CTR_P_STAT_DLYERR (i : Nat) : Fld := ⟨(CTR_P_STAT i), 2, 1⟩
/-- CTR_P_LINKDLY (R256). -/
def CTR_P_LINKDLY (i : Nat) : Nat := 0x0E088 + i * 0x20
/-- CTR_P_CNT_HCRC (R254). -/
def CTR_P_CNT_HCRC (i : Nat) : Nat := 0x0E08C + i * 0x20
/-- CTR_P_CNT_LOCKLOSS (R254). -/
def CTR_P_CNT_LOCKLOSS (i : Nat) : Nat := 0x0E090 + i * 0x20
/-- CTR_NODE (R264). -/
def CTR_NODE (i : Nat) : Nat := 0x0E100 + i * 0x4
/-- CTR_NODE.SCHED: bits [0:0], RWL. -/
def CTR_NODE_SCHED (i : Nat) : Fld := ⟨(CTR_NODE i), 0, 1⟩
/-- CTR_NODE.RANKED: bits [1:1], RWL. -/
def CTR_NODE_RANKED (i : Nat) : Fld := ⟨(CTR_NODE i), 1, 1⟩
/-- CTR_NODE.RANK: bits [3:2], RWL. -/
def CTR_NODE_RANK (i : Nat) : Fld := ⟨(CTR_NODE i), 2, 2⟩
/-- CTR_NODE.SEEN: bits [4:4], RO. -/
def CTR_NODE_SEEN (i : Nat) : Fld := ⟨(CTR_NODE i), 4, 1⟩
/-- CTR_NODE.MINOR: bits [11:8], RO. -/
def CTR_NODE_MINOR (i : Nat) : Fld := ⟨(CTR_NODE i), 8, 4⟩
/-- CTR_NODE.PD: bits [31:16], RO. -/
def CTR_NODE_PD (i : Nat) : Fld := ⟨(CTR_NODE i), 16, 16⟩
/-- CTR_SLOT_W0 (R264). -/
def CTR_SLOT_W0 (i : Nat) : Nat := 0x0E400 + i * 0x8
/-- CTR_SLOT_W0.START: bits [21:0], RWL. -/
def CTR_SLOT_W0_START (i : Nat) : Fld := ⟨(CTR_SLOT_W0 i), 0, 22⟩
/-- CTR_SLOT_W1 (R264). -/
def CTR_SLOT_W1 (i : Nat) : Nat := 0x0E404 + i * 0x8
/-- CTR_SLOT_W1.LEN: bits [3:0], RWL. -/
def CTR_SLOT_W1_LEN (i : Nat) : Fld := ⟨(CTR_SLOT_W1 i), 0, 4⟩
/-- CTR_SLOT_W1.KIND: bits [6:4], RWL. -/
def CTR_SLOT_W1_KIND (i : Nat) : Fld := ⟨(CTR_SLOT_W1 i), 4, 3⟩
/-- CTR_SLOT_W1.OWNER: bits [12:7], RWL. -/
def CTR_SLOT_W1_OWNER (i : Nat) : Fld := ⟨(CTR_SLOT_W1 i), 7, 6⟩
/-- CAP_STAT (R178). -/
def CAP_STAT : Nat := 0x0F000
/-- CAP_STAT.STOPPED: bits [15:0], RO. -/
def CAP_STAT_STOPPED : Fld := ⟨CAP_STAT, 0, 16⟩
/-- CAP_STAT.FLOODED: bits [23:16], RO. -/
def CAP_STAT_FLOODED : Fld := ⟨CAP_STAT, 16, 8⟩
/-- CAP_WIN_SEL (R191). -/
def CAP_WIN_SEL : Nat := 0x0F004
/-- CAP_WIN_SEL.PAGE: bits [2:0], RW. -/
def CAP_WIN_SEL_PAGE : Fld := ⟨CAP_WIN_SEL, 0, 3⟩
/-- CAP_SWTRIG (R174). -/
def CAP_SWTRIG : Nat := 0x0F008
/-- CAP_SWTRIG.TRIG: bits [15:0], WO. -/
def CAP_SWTRIG_TRIG : Fld := ⟨CAP_SWTRIG, 0, 16⟩
/-- CAP_XT (R172). -/
def CAP_XT : Nat := 0x0F00C
/-- CAP_XT.LEVEL: bits [3:0], RO. -/
def CAP_XT_LEVEL : Fld := ⟨CAP_XT, 0, 4⟩
/-- CAP_MK_CFG (R167). -/
def CAP_MK_CFG (i : Nat) : Nat := 0x0F040 + i * 0x10
/-- CAP_MK_CFG.GAIN: bits [1:0], RO. -/
def CAP_MK_CFG_GAIN (i : Nat) : Fld := ⟨(CAP_MK_CFG i), 0, 2⟩
/-- CAP_MK_CFG.POL: bits [2:2], RO. -/
def CAP_MK_CFG_POL (i : Nat) : Fld := ⟨(CAP_MK_CFG i), 2, 1⟩
/-- CAP_MK_CFG.BSH: bits [7:3], RO. -/
def CAP_MK_CFG_BSH (i : Nat) : Fld := ⟨(CAP_MK_CFG i), 3, 5⟩
/-- CAP_MK_CFG.THR: bits [19:8], RO. -/
def CAP_MK_CFG_THR (i : Nat) : Fld := ⟨(CAP_MK_CFG i), 8, 12⟩
/-- CAP_MK_CFG.HYS: bits [27:20], RO. -/
def CAP_MK_CFG_HYS (i : Nat) : Fld := ⟨(CAP_MK_CFG i), 20, 8⟩
/-- CAP_MK_FLD (R169). -/
def CAP_MK_FLD (i : Nat) : Nat := 0x0F044 + i * 0x10
/-- CAP_MK_FLD.BNOM: bits [11:0], RO. -/
def CAP_MK_FLD_BNOM (i : Nat) : Fld := ⟨(CAP_MK_FLD i), 0, 12⟩
/-- CAP_MK_FLD.BTOL: bits [19:12], RO. -/
def CAP_MK_FLD_BTOL (i : Nat) : Fld := ⟨(CAP_MK_FLD i), 12, 8⟩
/-- CAP_MK_FLD.RTOL: bits [27:20], RO. -/
def CAP_MK_FLD_RTOL (i : Nat) : Fld := ⟨(CAP_MK_FLD i), 20, 8⟩
/-- CAP_MK_FLD.FHOLD: bits [31:28], RO. -/
def CAP_MK_FLD_FHOLD (i : Nat) : Fld := ⟨(CAP_MK_FLD i), 28, 4⟩
/-- CAP_MK_STAT (R169). -/
def CAP_MK_STAT (i : Nat) : Nat := 0x0F048 + i * 0x10
/-- CAP_MK_STAT.SAT: bits [0:0], RO. -/
def CAP_MK_STAT_SAT (i : Nat) : Fld := ⟨(CAP_MK_STAT i), 0, 1⟩
/-- CAP_MK_STAT.SHIFT: bits [1:1], RO. -/
def CAP_MK_STAT_SHIFT (i : Nat) : Fld := ⟨(CAP_MK_STAT i), 1, 1⟩
/-- CAP_MK_STAT.RIPPLE: bits [2:2], RO. -/
def CAP_MK_STAT_RIPPLE (i : Nat) : Fld := ⟨(CAP_MK_STAT i), 2, 1⟩
/-- CAP_MK_STAT.SSAT: bits [4:4], W1C. -/
def CAP_MK_STAT_SSAT (i : Nat) : Fld := ⟨(CAP_MK_STAT i), 4, 1⟩
/-- CAP_MK_STAT.SSHIFT: bits [5:5], W1C. -/
def CAP_MK_STAT_SSHIFT (i : Nat) : Fld := ⟨(CAP_MK_STAT i), 5, 1⟩
/-- CAP_MK_STAT.SRIPPLE: bits [6:6], W1C. -/
def CAP_MK_STAT_SRIPPLE (i : Nat) : Fld := ⟨(CAP_MK_STAT i), 6, 1⟩
/-- CAP_MK_BASE (R168). -/
def CAP_MK_BASE (i : Nat) : Nat := 0x0F04C + i * 0x10
/-- CAP_MK_BASE.BI: bits [11:0], RO. -/
def CAP_MK_BASE_BI (i : Nat) : Fld := ⟨(CAP_MK_BASE i), 0, 12⟩
/-- CAP_MK_BASE.RIPPLE: bits [23:12], RO. -/
def CAP_MK_BASE_RIPPLE (i : Nat) : Fld := ⟨(CAP_MK_BASE i), 12, 12⟩
/-- CAP_CH_CTL (R178). -/
def CAP_CH_CTL (i : Nat) : Nat := 0x0F100 + i * 0x80
/-- CAP_CH_CTL.ARM: bits [0:0], WO. -/
def CAP_CH_CTL_ARM (i : Nat) : Fld := ⟨(CAP_CH_CTL i), 0, 1⟩
/-- CAP_CH_CTL.DISARM: bits [1:1], WO. -/
def CAP_CH_CTL_DISARM (i : Nat) : Fld := ⟨(CAP_CH_CTL i), 1, 1⟩
/-- CAP_CH_CTL.SINGLE: bits [2:2], WO. -/
def CAP_CH_CTL_SINGLE (i : Nat) : Fld := ⟨(CAP_CH_CTL i), 2, 1⟩
/-- CAP_CH_STAT (R178). -/
def CAP_CH_STAT (i : Nat) : Nat := 0x0F104 + i * 0x80
/-- CAP_CH_STAT.STATE: bits [2:0], RO. -/
def CAP_CH_STAT_STATE (i : Nat) : Fld := ⟨(CAP_CH_STAT i), 0, 3⟩
/-- CAP_CH_STAT.OVF: bits [4:3], W1C. -/
def CAP_CH_STAT_OVF (i : Nat) : Fld := ⟨(CAP_CH_STAT i), 3, 2⟩
/-- CAP_CH_STAT.FAULTEND: bits [5:5], W1C. -/
def CAP_CH_STAT_FAULTEND (i : Nat) : Fld := ⟨(CAP_CH_STAT i), 5, 1⟩
/-- CAP_CH_STAT.FLOODREC: bits [6:6], W1C. -/
def CAP_CH_STAT_FLOODREC (i : Nat) : Fld := ⟨(CAP_CH_STAT i), 6, 1⟩
/-- CAP_CH_SRC (R174). -/
def CAP_CH_SRC (i : Nat) : Nat := 0x0F108 + i * 0x80
/-- CAP_CH_SRC.TSRC: bits [2:0], RO. -/
def CAP_CH_SRC_TSRC (i : Nat) : Fld := ⟨(CAP_CH_SRC i), 0, 3⟩
/-- CAP_CH_SRC.TSEL: bits [6:3], RO. -/
def CAP_CH_SRC_TSEL (i : Nat) : Fld := ⟨(CAP_CH_SRC i), 3, 4⟩
/-- CAP_CH_SRC.EDGE: bits [8:7], RO. -/
def CAP_CH_SRC_EDGE (i : Nat) : Fld := ⟨(CAP_CH_SRC i), 7, 2⟩
/-- CAP_CH_SRC.MKSEL: bits [11:9], RO. -/
def CAP_CH_SRC_MKSEL (i : Nat) : Fld := ⟨(CAP_CH_SRC i), 9, 3⟩
/-- CAP_CH_SRC.XTOUT: bits [12:12], RO. -/
def CAP_CH_SRC_XTOUT (i : Nat) : Fld := ⟨(CAP_CH_SRC i), 12, 1⟩
/-- CAP_CH_SRC.XTOSEL: bits [14:13], RO. -/
def CAP_CH_SRC_XTOSEL (i : Nat) : Fld := ⟨(CAP_CH_SRC i), 13, 2⟩
/-- CAP_CH_SRC.TTOUT: bits [15:15], RO. -/
def CAP_CH_SRC_TTOUT (i : Nat) : Fld := ⟨(CAP_CH_SRC i), 15, 1⟩
/-- CAP_CH_SRC.TTOSEL: bits [18:16], RO. -/
def CAP_CH_SRC_TTOSEL (i : Nat) : Fld := ⟨(CAP_CH_SRC i), 16, 3⟩
/-- CAP_CH_SRC.AEN: bits [19:19], RO. -/
def CAP_CH_SRC_AEN (i : Nat) : Fld := ⟨(CAP_CH_SRC i), 19, 1⟩
/-- CAP_CH_SRC.ADESC: bits [29:20], RO. -/
def CAP_CH_SRC_ADESC (i : Nat) : Fld := ⟨(CAP_CH_SRC i), 20, 10⟩
/-- CAP_CH_SRC.AUTOFREE: bits [30:30], RO. -/
def CAP_CH_SRC_AUTOFREE (i : Nat) : Fld := ⟨(CAP_CH_SRC i), 30, 1⟩
/-- CAP_CH_SRC.DECL: bits [31:31], RO. -/
def CAP_CH_SRC_DECL (i : Nat) : Fld := ⟨(CAP_CH_SRC i), 31, 1⟩
/-- CAP_CH_WIN (R176). -/
def CAP_CH_WIN (i : Nat) : Nat := 0x0F10C + i * 0x80
/-- CAP_CH_WIN.PRE: bits [10:0], RO. -/
def CAP_CH_WIN_PRE (i : Nat) : Fld := ⟨(CAP_CH_WIN i), 0, 11⟩
/-- CAP_CH_WIN.POST: bits [23:11], RO. -/
def CAP_CH_WIN_POST (i : Nat) : Fld := ⟨(CAP_CH_WIN i), 11, 13⟩
/-- CAP_CH_RECLEN (R179). -/
def CAP_CH_RECLEN (i : Nat) : Nat := 0x0F110 + i * 0x80
/-- CAP_CH_RECLEN.RECLEN: bits [12:0], RO. -/
def CAP_CH_RECLEN_RECLEN (i : Nat) : Fld := ⟨(CAP_CH_RECLEN i), 0, 13⟩
/-- CAP_CH_RECLEN.HOLDOFF: bits [31:16], RO. -/
def CAP_CH_RECLEN_HOLDOFF (i : Nat) : Fld := ⟨(CAP_CH_RECLEN i), 16, 16⟩
/-- CAP_CH_BASE (R180). -/
def CAP_CH_BASE (i : Nat) : Nat := 0x0F114 + i * 0x80
/-- CAP_CH_NSLOT (R180). -/
def CAP_CH_NSLOT (i : Nat) : Nat := 0x0F118 + i * 0x80
/-- CAP_CH_SLOTSZ (R180). -/
def CAP_CH_SLOTSZ (i : Nat) : Nat := 0x0F11C + i * 0x80
/-- CAP_CH_AXMASK (R180). -/
def CAP_CH_AXMASK (i : Nat) (j : Nat) : Nat := 0x0F120 + i * 0x80 + j * 0x4
/-- CAP_CH_REF (R177). -/
def CAP_CH_REF (i : Nat) : Nat := 0x0F130 + i * 0x80
/-- CAP_CH_REF.REFAX: bits [6:0], RO. -/
def CAP_CH_REF_REFAX (i : Nat) : Fld := ⟨(CAP_CH_REF i), 0, 7⟩
/-- CAP_CH_REF.GATE_EN: bits [7:7], RO. -/
def CAP_CH_REF_GATE_EN (i : Nat) : Fld := ⟨(CAP_CH_REF i), 7, 1⟩
/-- CAP_CH_RPT (R177). -/
def CAP_CH_RPT (i : Nat) : Nat := 0x0F134 + i * 0x80
/-- CAP_CH_GLO (R177). -/
def CAP_CH_GLO (i : Nat) : Nat := 0x0F138 + i * 0x80
/-- CAP_CH_GHI (R177). -/
def CAP_CH_GHI (i : Nat) : Nat := 0x0F13C + i * 0x80
/-- CAP_CH_GRPCFG (R185). -/
def CAP_CH_GRPCFG (i : Nat) : Nat := 0x0F140 + i * 0x80
/-- CAP_CH_GRPCFG.NMARK: bits [3:0], RO. -/
def CAP_CH_GRPCFG_NMARK (i : Nat) : Fld := ⟨(CAP_CH_GRPCFG i), 0, 4⟩
/-- CAP_CH_GRPCFG.DEC_EN: bits [4:4], RO. -/
def CAP_CH_GRPCFG_DEC_EN (i : Nat) : Fld := ⟨(CAP_CH_GRPCFG i), 4, 1⟩
/-- CAP_CH_GRPCFG.WTHR: bits [15:8], RO. -/
def CAP_CH_GRPCFG_WTHR (i : Nat) : Fld := ⟨(CAP_CH_GRPCFG i), 8, 8⟩
/-- CAP_CH_UNIT (R185). -/
def CAP_CH_UNIT (i : Nat) : Nat := 0x0F144 + i * 0x80
/-- CAP_CH_TOL (R185). -/
def CAP_CH_TOL (i : Nat) : Nat := 0x0F148 + i * 0x80
/-- CAP_CH_GAPMIN (R185). -/
def CAP_CH_GAPMIN (i : Nat) : Nat := 0x0F14C + i * 0x80
/-- CAP_CH_DBAND (R187). -/
def CAP_CH_DBAND (i : Nat) : Nat := 0x0F150 + i * 0x80
/-- CAP_CH_WRSEQ (R178). -/
def CAP_CH_WRSEQ (i : Nat) : Nat := 0x0F154 + i * 0x80
/-- CAP_CH_WRSEQ.SEQ: bits [27:0], RO. -/
def CAP_CH_WRSEQ_SEQ (i : Nat) : Fld := ⟨(CAP_CH_WRSEQ i), 0, 28⟩
/-- CAP_CH_DONESEQ (R182). -/
def CAP_CH_DONESEQ (i : Nat) : Nat := 0x0F158 + i * 0x80
/-- CAP_CH_DONESEQ.SEQ: bits [27:0], RO. -/
def CAP_CH_DONESEQ_SEQ (i : Nat) : Fld := ⟨(CAP_CH_DONESEQ i), 0, 28⟩
/-- CAP_CH_FREESEQ (R189). -/
def CAP_CH_FREESEQ (i : Nat) : Nat := 0x0F15C + i * 0x80
/-- CAP_CH_FREESEQ.SEQ: bits [27:0], RW. -/
def CAP_CH_FREESEQ_SEQ (i : Nat) : Fld := ⟨(CAP_CH_FREESEQ i), 0, 28⟩
/-- CAP_CH_LASTGRP (R186). -/
def CAP_CH_LASTGRP (i : Nat) : Nat := 0x0F160 + i * 0x80
/-- CAP_CH_LASTGRP.CODE: bits [7:0], RO. -/
def CAP_CH_LASTGRP_CODE (i : Nat) : Fld := ⟨(CAP_CH_LASTGRP i), 0, 8⟩
/-- CAP_CH_LASTGRP.MARKS: bits [11:8], RO. -/
def CAP_CH_LASTGRP_MARKS (i : Nat) : Fld := ⟨(CAP_CH_LASTGRP i), 8, 4⟩
/-- CAP_CH_LASTGRP.OUTCOME: bits [14:12], RO. -/
def CAP_CH_LASTGRP_OUTCOME (i : Nat) : Fld := ⟨(CAP_CH_LASTGRP i), 12, 3⟩
/-- CAP_CH_OVF_GT (R178), low word of 64 bits. -/
def CAP_CH_OVF_GT (i : Nat) : Nat := 0x0F164 + i * 0x80
/-- CAP_CH_CNT_IGN (R178). -/
def CAP_CH_CNT_IGN (i : Nat) : Nat := 0x0F16C + i * 0x80
/-- CAP_CH_CNT_TLATE (R173). -/
def CAP_CH_CNT_TLATE (i : Nat) : Nat := 0x0F170 + i * 0x80
/-- CAP_CH_CNT_REC (R182). -/
def CAP_CH_CNT_REC (i : Nat) : Nat := 0x0F174 + i * 0x80
/-- CAP_CH_CNT_CORR (R187). -/
def CAP_CH_CNT_CORR (i : Nat) : Nat := 0x0F178 + i * 0x80
/-- CAP_CH_CNT_GRPERR (R186). -/
def CAP_CH_CNT_GRPERR (i : Nat) : Nat := 0x0F17C + i * 0x80
/-- CAP_MAP_W0 (R187). -/
def CAP_MAP_W0 (i : Nat) : Nat := 0x0FA00 + i * 0x10
/-- CAP_MAP_W0.CH: bits [3:0], RO. -/
def CAP_MAP_W0_CH (i : Nat) : Fld := ⟨(CAP_MAP_W0 i), 0, 4⟩
/-- CAP_MAP_W0.CODE: bits [11:4], RO. -/
def CAP_MAP_W0_CODE (i : Nat) : Fld := ⟨(CAP_MAP_W0 i), 4, 8⟩
/-- CAP_MAP_W0.AXIS: bits [18:12], RO. -/
def CAP_MAP_W0_AXIS (i : Nat) : Fld := ⟨(CAP_MAP_W0 i), 12, 7⟩
/-- CAP_MAP_W0.VALID: bits [31:31], RO. -/
def CAP_MAP_W0_VALID (i : Nat) : Fld := ⟨(CAP_MAP_W0 i), 31, 1⟩
/-- CAP_MAP_GNUM (R187). -/
def CAP_MAP_GNUM (i : Nat) : Nat := 0x0FA04 + i * 0x10
/-- CAP_MAP_EXPECT (R187), low word of 64 bits. -/
def CAP_MAP_EXPECT (i : Nat) : Nat := 0x0FA08 + i * 0x10
/-- STP_MODE (R196). -/
def STP_MODE (i : Nat) : Nat := 0x10000 + i * 0x40
/-- STP_MODE.MODE: bits [1:0], RW. -/
def STP_MODE_MODE (i : Nat) : Fld := ⟨(STP_MODE i), 0, 2⟩
/-- STP_CTL (R201). -/
def STP_CTL (i : Nat) : Nat := 0x10004 + i * 0x40
/-- STP_CTL.STOP: bits [0:0], WO. -/
def STP_CTL_STOP (i : Nat) : Fld := ⟨(STP_CTL i), 0, 1⟩
/-- STP_STAT (R192). -/
def STP_STAT (i : Nat) : Nat := 0x10008 + i * 0x40
/-- STP_STAT.ACTIVE: bits [0:0], RO. -/
def STP_STAT_ACTIVE (i : Nat) : Fld := ⟨(STP_STAT i), 0, 1⟩
/-- STP_STAT.DIR: bits [1:1], RO. -/
def STP_STAT_DIR (i : Nat) : Fld := ⟨(STP_STAT i), 1, 1⟩
/-- STP_STAT.HM: bits [2:2], RO. -/
def STP_STAT_HM (i : Nat) : Fld := ⟨(STP_STAT i), 2, 1⟩
/-- STP_STAT.UNSURE: bits [3:3], RO. -/
def STP_STAT_UNSURE (i : Nat) : Fld := ⟨(STP_STAT i), 3, 1⟩
/-- STP_STAT.STOPPED: bits [4:4], W1C. -/
def STP_STAT_STOPPED (i : Nat) : Fld := ⟨(STP_STAT i), 4, 1⟩
/-- STP_STAT.HM_STATE: bits [7:5], RO. -/
def STP_STAT_HM_STATE (i : Nat) : Fld := ⟨(STP_STAT i), 5, 3⟩
/-- STP_CFG (R193). -/
def STP_CFG (i : Nat) : Nat := 0x1000C + i * 0x40
/-- STP_CFG.PW: bits [7:0], RO. -/
def STP_CFG_PW (i : Nat) : Fld := ⟨(STP_CFG i), 0, 8⟩
/-- STP_CFG.DSU: bits [15:8], RO. -/
def STP_CFG_DSU (i : Nat) : Fld := ⟨(STP_CFG i), 8, 8⟩
/-- STP_CFG.STEPINV: bits [16:16], RO. -/
def STP_CFG_STEPINV (i : Nat) : Fld := ⟨(STP_CFG i), 16, 1⟩
/-- STP_CFG.DIRINV: bits [17:17], RO. -/
def STP_CFG_DIRINV (i : Nat) : Fld := ⟨(STP_CFG i), 17, 1⟩
/-- STP_CFG.HMPOL: bits [18:18], RO. -/
def STP_CFG_HMPOL (i : Nat) : Fld := ⟨(STP_CFG i), 18, 1⟩
/-- STP_CFG.MUZSTOP: bits [19:19], RO. -/
def STP_CFG_MUZSTOP (i : Nat) : Fld := ⟨(STP_CFG i), 19, 1⟩
/-- STP_CFG.GROUP: bits [22:20], RO. -/
def STP_CFG_GROUP (i : Nat) : Fld := ⟨(STP_CFG i), 20, 3⟩
/-- STP_CFG.GRPMEM: bits [23:23], RO. -/
def STP_CFG_GRPMEM (i : Nat) : Fld := ⟨(STP_CFG i), 23, 1⟩
/-- STP_CFG.DECL: bits [31:31], RO. -/
def STP_CFG_DECL (i : Nat) : Fld := ⟨(STP_CFG i), 31, 1⟩
/-- STP_VEL (R196), low word of 64 bits. -/
def STP_VEL (i : Nat) : Nat := 0x10010 + i * 0x40
/-- STP_POS (R202), low word of 64 bits. -/
def STP_POS (i : Nat) : Nat := 0x10018 + i * 0x40
/-- STP_VMAX (R194), low word of 64 bits. -/
def STP_VMAX (i : Nat) : Nat := 0x10020 + i * 0x40
/-- STP_HMPOS (R200), low word of 64 bits. -/
def STP_HMPOS (i : Nat) : Nat := 0x10028 + i * 0x40
/-- STP_HMVSEARCH (R200). -/
def STP_HMVSEARCH (i : Nat) : Nat := 0x10030 + i * 0x40
/-- STP_HMVCREEP (R200). -/
def STP_HMVCREEP (i : Nat) : Nat := 0x10034 + i * 0x40
/-- STP_HMBACKOFF (R200). -/
def STP_HMBACKOFF (i : Nat) : Nat := 0x10038 + i * 0x40
/-- STP_HMTRAVEL (R200). -/
def STP_HMTRAVEL (i : Nat) : Nat := 0x1003C + i * 0x40
/-- STP_GRP_MEM (R197). -/
def STP_GRP_MEM (i : Nat) : Nat := 0x10800 + i * 0x20
/-- STP_GRP_CTL (R201). -/
def STP_GRP_CTL (i : Nat) : Nat := 0x10804 + i * 0x20
/-- STP_GRP_CTL.STOP: bits [0:0], WO. -/
def STP_GRP_CTL_STOP (i : Nat) : Fld := ⟨(STP_GRP_CTL i), 0, 1⟩
/-- STP_GRP_STAT (R199). -/
def STP_GRP_STAT (i : Nat) : Nat := 0x10808 + i * 0x20
/-- STP_GRP_STAT.MOVING: bits [0:0], RO. -/
def STP_GRP_STAT_MOVING (i : Nat) : Fld := ⟨(STP_GRP_STAT i), 0, 1⟩
/-- STP_GRP_STAT.NOUPD: bits [1:1], W1C. -/
def STP_GRP_STAT_NOUPD (i : Nat) : Fld := ⟨(STP_GRP_STAT i), 1, 1⟩
/-- STP_GRP_VMAX (R197). -/
def STP_GRP_VMAX (i : Nat) : Nat := 0x1080C + i * 0x20
/-- STP_GRP_AMAX (R197). -/
def STP_GRP_AMAX (i : Nat) : Nat := 0x10810 + i * 0x20
/-- STP_GRP_VMIN (R197). -/
def STP_GRP_VMIN (i : Nat) : Nat := 0x10814 + i * 0x20
/-- STP_GRP_LEFT (R199). -/
def STP_GRP_LEFT (i : Nat) : Nat := 0x10818 + i * 0x20
/-- STP_GRP_CNT_NOUPD (R199). -/
def STP_GRP_CNT_NOUPD (i : Nat) : Nat := 0x1081C + i * 0x20
/-- CAN_CFG (R315). -/
def CAN_CFG (i : Nat) : Nat := 0x11000 + i * 0x400
/-- CAN_CFG.DECL: bits [0:0], RO. -/
def CAN_CFG_DECL (i : Nat) : Fld := ⟨(CAN_CFG i), 0, 1⟩
/-- CAN_CFG.FDOE: bits [1:1], RO. -/
def CAN_CFG_FDOE (i : Nat) : Fld := ⟨(CAN_CFG i), 1, 1⟩
/-- CAN_CFG.BRSE: bits [2:2], RO. -/
def CAN_CFG_BRSE (i : Nat) : Fld := ⟨(CAN_CFG i), 2, 1⟩
/-- CAN_CFG.PXE: bits [3:3], RO. -/
def CAN_CFG_PXE (i : Nat) : Fld := ⟨(CAN_CFG i), 3, 1⟩
/-- CAN_CFG.TXPRIO: bits [4:4], RO. -/
def CAN_CFG_TXPRIO (i : Nat) : Fld := ⟨(CAN_CFG i), 4, 1⟩
/-- CAN_CFG.ACCNONE: bits [5:5], RO. -/
def CAN_CFG_ACCNONE (i : Nat) : Fld := ⟨(CAN_CFG i), 5, 1⟩
/-- CAN_CFG.START: bits [7:6], RO. -/
def CAN_CFG_START (i : Nat) : Fld := ⟨(CAN_CFG i), 6, 2⟩
/-- CAN_CTL (R320). -/
def CAN_CTL (i : Nat) : Nat := 0x11004 + i * 0x400
/-- CAN_CTL.REQ: bits [1:0], WO. -/
def CAN_CTL_REQ (i : Nat) : Fld := ⟨(CAN_CTL i), 0, 2⟩
/-- CAN_CTL.RECOVER: bits [2:2], WO. -/
def CAN_CTL_RECOVER (i : Nat) : Fld := ⟨(CAN_CTL i), 2, 1⟩
/-- CAN_STAT (R320). -/
def CAN_STAT (i : Nat) : Nat := 0x11008 + i * 0x400
/-- CAN_STAT.STATE: bits [2:0], RO. -/
def CAN_STAT_STATE (i : Nat) : Fld := ⟨(CAN_STAT i), 0, 3⟩
/-- CAN_STAT.RXNE: bits [3:3], RO. -/
def CAN_STAT_RXNE (i : Nat) : Fld := ⟨(CAN_STAT i), 3, 1⟩
/-- CAN_STAT.RXOVR: bits [4:4], W1C. -/
def CAN_STAT_RXOVR (i : Nat) : Fld := ⟨(CAN_STAT i), 4, 1⟩
/-- CAN_STAT.TXDONE: bits [5:5], W1C. -/
def CAN_STAT_TXDONE (i : Nat) : Fld := ⟨(CAN_STAT i), 5, 1⟩
/-- CAN_STAT.BOFF: bits [6:6], W1C. -/
def CAN_STAT_BOFF (i : Nat) : Fld := ⟨(CAN_STAT i), 6, 1⟩
/-- CAN_STAT.EPASS: bits [7:7], W1C. -/
def CAN_STAT_EPASS (i : Nat) : Fld := ⟨(CAN_STAT i), 7, 1⟩
/-- CAN_ERR (R320). -/
def CAN_ERR (i : Nat) : Nat := 0x1100C + i * 0x400
/-- CAN_ERR.TEC: bits [7:0], RO. -/
def CAN_ERR_TEC (i : Nat) : Fld := ⟨(CAN_ERR i), 0, 8⟩
/-- CAN_ERR.REC: bits [15:8], RO. -/
def CAN_ERR_REC (i : Nat) : Fld := ⟨(CAN_ERR i), 8, 8⟩
/-- CAN_ERR.EP: bits [16:16], RO. -/
def CAN_ERR_EP (i : Nat) : Fld := ⟨(CAN_ERR i), 16, 1⟩
/-- CAN_ERR.LEC: bits [19:17], RO. -/
def CAN_ERR_LEC (i : Nat) : Fld := ⟨(CAN_ERR i), 17, 3⟩
/-- CAN_NBT (R318). -/
def CAN_NBT (i : Nat) : Nat := 0x11010 + i * 0x400
/-- CAN_NBT.BRP: bits [4:0], RW. -/
def CAN_NBT_BRP (i : Nat) : Fld := ⟨(CAN_NBT i), 0, 5⟩
/-- CAN_NBT.TSEG1: bits [12:5], RW. -/
def CAN_NBT_TSEG1 (i : Nat) : Fld := ⟨(CAN_NBT i), 5, 8⟩
/-- CAN_NBT.TSEG2: bits [19:13], RW. -/
def CAN_NBT_TSEG2 (i : Nat) : Fld := ⟨(CAN_NBT i), 13, 7⟩
/-- CAN_NBT.SJW: bits [26:20], RW. -/
def CAN_NBT_SJW (i : Nat) : Fld := ⟨(CAN_NBT i), 20, 7⟩
/-- CAN_DBT (R318). -/
def CAN_DBT (i : Nat) : Nat := 0x11014 + i * 0x400
/-- CAN_DBT.DBRP: bits [4:0], RW. -/
def CAN_DBT_DBRP (i : Nat) : Fld := ⟨(CAN_DBT i), 0, 5⟩
/-- CAN_DBT.DTSEG1: bits [9:5], RW. -/
def CAN_DBT_DTSEG1 (i : Nat) : Fld := ⟨(CAN_DBT i), 5, 5⟩
/-- CAN_DBT.DTSEG2: bits [13:10], RW. -/
def CAN_DBT_DTSEG2 (i : Nat) : Fld := ⟨(CAN_DBT i), 10, 4⟩
/-- CAN_DBT.DSJW: bits [17:14], RW. -/
def CAN_DBT_DSJW (i : Nat) : Fld := ⟨(CAN_DBT i), 14, 4⟩
/-- CAN_DBT.TDCO: bits [24:18], RW. -/
def CAN_DBT_TDCO (i : Nat) : Fld := ⟨(CAN_DBT i), 18, 7⟩
/-- CAN_DBT.TDC_EN: bits [25:25], RW. -/
def CAN_DBT_TDC_EN (i : Nat) : Fld := ⟨(CAN_DBT i), 25, 1⟩
/-- CAN_TDCR (R319). -/
def CAN_TDCR (i : Nat) : Nat := 0x11018 + i * 0x400
/-- CAN_TDCR.DELAY: bits [6:0], RO. -/
def CAN_TDCR_DELAY (i : Nat) : Fld := ⟨(CAN_TDCR i), 0, 7⟩
/-- CAN_TDCR.SAT: bits [7:7], RO. -/
def CAN_TDCR_SAT (i : Nat) : Fld := ⟨(CAN_TDCR i), 7, 1⟩
/-- CAN_TS (R327). -/
def CAN_TS (i : Nat) : Nat := 0x1101C + i * 0x400
/-- CAN_CNT_RXOK (R326). -/
def CAN_CNT_RXOK (i : Nat) : Nat := 0x11020 + i * 0x400
/-- CAN_CNT_TXOK (R325). -/
def CAN_CNT_TXOK (i : Nat) : Nat := 0x11024 + i * 0x400
/-- CAN_CNT_RXOVR (R326). -/
def CAN_CNT_RXOVR (i : Nat) : Nat := 0x11028 + i * 0x400
/-- CAN_CNT_BUSOFF (R320). -/
def CAN_CNT_BUSOFF (i : Nat) : Nat := 0x1102C + i * 0x400
/-- CAN_CNT_PXE (R316). -/
def CAN_CNT_PXE (i : Nat) : Nat := 0x11030 + i * 0x400
/-- TXB_CTL (R323). -/
def TXB_CTL (i : Nat) (j : Nat) : Nat := 0x11040 + i * 0x400 + j * 0x50
/-- TXB_CTL.REQ: bits [0:0], RW. -/
def TXB_CTL_REQ (i : Nat) (j : Nat) : Fld := ⟨(TXB_CTL i j), 0, 1⟩
/-- TXB_CTL.ABORT: bits [1:1], WO. -/
def TXB_CTL_ABORT (i : Nat) (j : Nat) : Fld := ⟨(TXB_CTL i j), 1, 1⟩
/-- TXB_CTL.ONESHOT: bits [2:2], RW. -/
def TXB_CTL_ONESHOT (i : Nat) (j : Nat) : Fld := ⟨(TXB_CTL i j), 2, 1⟩
/-- TXB_CTL.OUTCOME: bits [6:4], RO. -/
def TXB_CTL_OUTCOME (i : Nat) (j : Nat) : Fld := ⟨(TXB_CTL i j), 4, 3⟩
/-- TXB_ID (R323). -/
def TXB_ID (i : Nat) (j : Nat) : Nat := 0x11044 + i * 0x400 + j * 0x50
/-- TXB_ID.ID: bits [28:0], RW. -/
def TXB_ID_ID (i : Nat) (j : Nat) : Fld := ⟨(TXB_ID i j), 0, 29⟩
/-- TXB_FRM (R323). -/
def TXB_FRM (i : Nat) (j : Nat) : Nat := 0x11048 + i * 0x400 + j * 0x50
/-- TXB_FRM.DLC: bits [3:0], RW. -/
def TXB_FRM_DLC (i : Nat) (j : Nat) : Fld := ⟨(TXB_FRM i j), 0, 4⟩
/-- TXB_FRM.IDE: bits [4:4], RW. -/
def TXB_FRM_IDE (i : Nat) (j : Nat) : Fld := ⟨(TXB_FRM i j), 4, 1⟩
/-- TXB_FRM.RTR: bits [5:5], RW. -/
def TXB_FRM_RTR (i : Nat) (j : Nat) : Fld := ⟨(TXB_FRM i j), 5, 1⟩
/-- TXB_FRM.FDF: bits [6:6], RW. -/
def TXB_FRM_FDF (i : Nat) (j : Nat) : Fld := ⟨(TXB_FRM i j), 6, 1⟩
/-- TXB_FRM.BRS: bits [7:7], RW. -/
def TXB_FRM_BRS (i : Nat) (j : Nat) : Fld := ⟨(TXB_FRM i j), 7, 1⟩
/-- TXB_TS (R325). -/
def TXB_TS (i : Nat) (j : Nat) : Nat := 0x1104C + i * 0x400 + j * 0x50
/-- TXB_DATA (R323). -/
def TXB_DATA (i : Nat) (j : Nat) (k : Nat) : Nat := 0x11050 + i * 0x400 + j * 0x50 + k * 0x4
/-- CAN_RXF_STAT (R326). -/
def CAN_RXF_STAT (i : Nat) : Nat := 0x11140 + i * 0x400
/-- CAN_RXF_STAT.FILL: bits [6:0], RO. -/
def CAN_RXF_STAT_FILL (i : Nat) : Fld := ⟨(CAN_RXF_STAT i), 0, 7⟩
/-- CAN_RXF_STAT.PEAK: bits [14:8], RW. -/
def CAN_RXF_STAT_PEAK (i : Nat) : Fld := ⟨(CAN_RXF_STAT i), 8, 7⟩
/-- CAN_RXF_POP (R326). -/
def CAN_RXF_POP (i : Nat) : Nat := 0x11144 + i * 0x400
/-- CAN_RXF_ID (R326). -/
def CAN_RXF_ID (i : Nat) : Nat := 0x11150 + i * 0x400
/-- CAN_RXF_ID.ID: bits [28:0], RO. -/
def CAN_RXF_ID_ID (i : Nat) : Fld := ⟨(CAN_RXF_ID i), 0, 29⟩
/-- CAN_RXF_FRM (R326). -/
def CAN_RXF_FRM (i : Nat) : Nat := 0x11154 + i * 0x400
/-- CAN_RXF_FRM.DLC: bits [3:0], RO. -/
def CAN_RXF_FRM_DLC (i : Nat) : Fld := ⟨(CAN_RXF_FRM i), 0, 4⟩
/-- CAN_RXF_FRM.IDE: bits [4:4], RO. -/
def CAN_RXF_FRM_IDE (i : Nat) : Fld := ⟨(CAN_RXF_FRM i), 4, 1⟩
/-- CAN_RXF_FRM.RTR: bits [5:5], RO. -/
def CAN_RXF_FRM_RTR (i : Nat) : Fld := ⟨(CAN_RXF_FRM i), 5, 1⟩
/-- CAN_RXF_FRM.FDF: bits [6:6], RO. -/
def CAN_RXF_FRM_FDF (i : Nat) : Fld := ⟨(CAN_RXF_FRM i), 6, 1⟩
/-- CAN_RXF_FRM.BRS: bits [7:7], RO. -/
def CAN_RXF_FRM_BRS (i : Nat) : Fld := ⟨(CAN_RXF_FRM i), 7, 1⟩
/-- CAN_RXF_FRM.ESI: bits [8:8], RO. -/
def CAN_RXF_FRM_ESI (i : Nat) : Fld := ⟨(CAN_RXF_FRM i), 8, 1⟩
/-- CAN_RXF_FRM.FILTER: bits [21:16], RO. -/
def CAN_RXF_FRM_FILTER (i : Nat) : Fld := ⟨(CAN_RXF_FRM i), 16, 6⟩
/-- CAN_RXF_TS (R327). -/
def CAN_RXF_TS (i : Nat) : Nat := 0x11158 + i * 0x400
/-- CAN_RXF_DATA (R326). -/
def CAN_RXF_DATA (i : Nat) (j : Nat) : Nat := 0x11160 + i * 0x400 + j * 0x4
/-- CAN_FLT_ID (R326). -/
def CAN_FLT_ID (i : Nat) (j : Nat) : Nat := 0x11200 + i * 0x400 + j * 0x8
/-- CAN_FLT_ID.ID: bits [28:0], RO. -/
def CAN_FLT_ID_ID (i : Nat) (j : Nat) : Fld := ⟨(CAN_FLT_ID i j), 0, 29⟩
/-- CAN_FLT_ID.IDE: bits [30:30], RO. -/
def CAN_FLT_ID_IDE (i : Nat) (j : Nat) : Fld := ⟨(CAN_FLT_ID i j), 30, 1⟩
/-- CAN_FLT_ID.VALID: bits [31:31], RO. -/
def CAN_FLT_ID_VALID (i : Nat) (j : Nat) : Fld := ⟨(CAN_FLT_ID i j), 31, 1⟩
/-- CAN_FLT_MASK (R326). -/
def CAN_FLT_MASK (i : Nat) (j : Nat) : Nat := 0x11204 + i * 0x400 + j * 0x8
/-- CAN_FLT_MASK.MASK: bits [28:0], RO. -/
def CAN_FLT_MASK_MASK (i : Nat) (j : Nat) : Fld := ⟨(CAN_FLT_MASK i j), 0, 29⟩
/-- AX_CTL (R123). -/
def AX_CTL (i : Nat) : Nat := 0x20000 + i * 0x400
/-- AX_CTL.REQ: bits [1:0], RW. -/
def AX_CTL_REQ (i : Nat) : Fld := ⟨(AX_CTL i), 0, 2⟩
/-- AX_CTL.CLR: bits [2:2], WO. -/
def AX_CTL_CLR (i : Nat) : Fld := ⟨(AX_CTL i), 2, 1⟩
/-- AX_STAT (R119). -/
def AX_STAT (i : Nat) : Nat := 0x20004 + i * 0x400
/-- AX_STAT.STATE: bits [2:0], RO. -/
def AX_STAT_STATE (i : Nat) : Fld := ⟨(AX_STAT i), 0, 3⟩
/-- AX_STAT.AGED: bits [3:3], W1C. -/
def AX_STAT_AGED (i : Nat) : Fld := ⟨(AX_STAT i), 3, 1⟩
/-- AX_STAT.LIMV: bits [4:4], W1C. -/
def AX_STAT_LIMV (i : Nat) : Fld := ⟨(AX_STAT i), 4, 1⟩
/-- AX_STAT.LIMT: bits [5:5], W1C. -/
def AX_STAT_LIMT (i : Nat) : Fld := ⟨(AX_STAT i), 5, 1⟩
/-- AX_STAT.LIMI: bits [6:6], W1C. -/
def AX_STAT_LIMI (i : Nat) : Fld := ⟨(AX_STAT i), 6, 1⟩
/-- AX_STAT.LIMU: bits [7:7], W1C. -/
def AX_STAT_LIMU (i : Nat) : Fld := ⟨(AX_STAT i), 7, 1⟩
/-- AX_STAT.SAT: bits [8:8], W1C. -/
def AX_STAT_SAT (i : Nat) : Fld := ⟨(AX_STAT i), 8, 1⟩
/-- AX_STAT.LATE: bits [9:9], W1C. -/
def AX_STAT_LATE (i : Nat) : Fld := ⟨(AX_STAT i), 9, 1⟩
/-- AX_STAT.MISSING: bits [10:10], W1C. -/
def AX_STAT_MISSING (i : Nat) : Fld := ⟨(AX_STAT i), 10, 1⟩
/-- AX_STAT.STALE: bits [11:11], W1C. -/
def AX_STAT_STALE (i : Nat) : Fld := ⟨(AX_STAT i), 11, 1⟩
/-- AX_STAT.PSKIP: bits [12:12], W1C. -/
def AX_STAT_PSKIP (i : Nat) : Fld := ⟨(AX_STAT i), 12, 1⟩
/-- AX_STAT.CLRREJ: bits [13:13], W1C. -/
def AX_STAT_CLRREJ (i : Nat) : Fld := ⟨(AX_STAT i), 13, 1⟩
/-- AX_FAULT (R123). -/
def AX_FAULT (i : Nat) : Nat := 0x20008 + i * 0x400
/-- AX_FAULT.CAUSE: bits [3:0], RO. -/
def AX_FAULT_CAUSE (i : Nat) : Fld := ⟨(AX_FAULT i), 0, 4⟩
/-- AX_FAULT.STOPCAUSE: bits [11:8], RO. -/
def AX_FAULT_STOPCAUSE (i : Nat) : Fld := ⟨(AX_FAULT i), 8, 4⟩
/-- AX_CFG (R93). -/
def AX_CFG (i : Nat) : Nat := 0x2000C + i * 0x400
/-- AX_CFG.DECL: bits [0:0], RO. -/
def AX_CFG_DECL (i : Nat) : Fld := ⟨(AX_CFG i), 0, 1⟩
/-- AX_CFG.THIN: bits [1:1], RO. -/
def AX_CFG_THIN (i : Nat) : Fld := ⟨(AX_CFG i), 1, 1⟩
/-- AX_CFG.VSRC: bits [2:2], RO. -/
def AX_CFG_VSRC (i : Nat) : Fld := ⟨(AX_CFG i), 2, 1⟩
/-- AX_CFG.LUT_SEL: bits [7:3], RO. -/
def AX_CFG_LUT_SEL (i : Nat) : Fld := ⟨(AX_CFG i), 3, 5⟩
/-- AX_CFG.LUT_SYM: bits [8:8], RO. -/
def AX_CFG_LUT_SYM (i : Nat) : Fld := ⟨(AX_CFG i), 8, 1⟩
/-- AX_CFG.NA_EN: bits [9:9], RO. -/
def AX_CFG_NA_EN (i : Nat) : Fld := ⟨(AX_CFG i), 9, 1⟩
/-- AX_CFG.NB_EN: bits [10:10], RO. -/
def AX_CFG_NB_EN (i : Nat) : Fld := ⟨(AX_CFG i), 10, 1⟩
/-- AX_CFG.LP_EN: bits [11:11], RO. -/
def AX_CFG_LP_EN (i : Nat) : Fld := ⟨(AX_CFG i), 11, 1⟩
/-- AX_CFG.TRK_EN: bits [12:12], RO. -/
def AX_CFG_TRK_EN (i : Nat) : Fld := ⟨(AX_CFG i), 12, 1⟩
/-- AX_CFG.NODE: bits [20:16], RO. -/
def AX_CFG_NODE (i : Nat) : Fld := ⟨(AX_CFG i), 16, 5⟩
/-- AX_CFG.SEG: bits [22:21], RO. -/
def AX_CFG_SEG (i : Nat) : Fld := ⟨(AX_CFG i), 21, 2⟩
/-- AX_PSEL (R97). -/
def AX_PSEL (i : Nat) : Nat := 0x20010 + i * 0x400
/-- AX_PSEL.SEL: bits [0:0], RO. -/
def AX_PSEL_SEL (i : Nat) : Fld := ⟨(AX_PSEL i), 0, 1⟩
/-- AX_AGE (R98). -/
def AX_AGE (i : Nat) : Nat := 0x20014 + i * 0x400
/-- AX_PFB (R222), low word of 64 bits. -/
def AX_PFB (i : Nat) : Nat := 0x20020 + i * 0x400
/-- AX_VFB (R222), low word of 64 bits. -/
def AX_VFB (i : Nat) : Nat := 0x20028 + i * 0x400
/-- AX_IA (R222). -/
def AX_IA (i : Nat) : Nat := 0x20030 + i * 0x400
/-- AX_IB (R222). -/
def AX_IB (i : Nat) : Nat := 0x20034 + i * 0x400
/-- AX_VDC (R222). -/
def AX_VDC (i : Nat) : Nat := 0x20038 + i * 0x400
/-- AX_FBTAG (R222). -/
def AX_FBTAG (i : Nat) : Nat := 0x2003C + i * 0x400
/-- AX_RS_VCMD (R97), low word of 64 bits. -/
def AX_RS_VCMD (i : Nat) (j : Nat) : Nat := 0x20040 + i * 0x400 + j * 0x20
/-- AX_RS_VSLOPE (R97), low word of 64 bits. -/
def AX_RS_VSLOPE (i : Nat) (j : Nat) : Nat := 0x20048 + i * 0x400 + j * 0x20
/-- AX_RS_TAG (R97). -/
def AX_RS_TAG (i : Nat) (j : Nat) : Nat := 0x20050 + i * 0x400 + j * 0x20
/-- AX_PTGT (R137), low word of 64 bits. -/
def AX_PTGT (i : Nat) : Nat := 0x20080 + i * 0x400
/-- AX_VTGT (R137), low word of 64 bits. -/
def AX_VTGT (i : Nat) : Nat := 0x20088 + i * 0x400
/-- AX_ATGT (R137), low word of 64 bits. -/
def AX_ATGT (i : Nat) : Nat := 0x20090 + i * 0x400
/-- AX_PERR (R95), low word of 64 bits. -/
def AX_PERR (i : Nat) : Nat := 0x20098 + i * 0x400
/-- AX_EV (R99). -/
def AX_EV (i : Nat) : Nat := 0x200A0 + i * 0x400
/-- AX_GAIN (R99). -/
def AX_GAIN (i : Nat) : Nat := 0x200A4 + i * 0x400
/-- AX_TQCMD (R99). -/
def AX_TQCMD (i : Nat) : Nat := 0x200A8 + i * 0x400
/-- AX_TQOUT (R106). -/
def AX_TQOUT (i : Nat) : Nat := 0x200AC + i * 0x400
/-- AX_ID (R109). -/
def AX_ID (i : Nat) : Nat := 0x200B0 + i * 0x400
/-- AX_IQ (R109). -/
def AX_IQ (i : Nat) : Nat := 0x200B4 + i * 0x400
/-- AX_VD (R110). -/
def AX_VD (i : Nat) : Nat := 0x200B8 + i * 0x400
/-- AX_VQ (R110). -/
def AX_VQ (i : Nat) : Nat := 0x200BC + i * 0x400
/-- AX_DUTY_AB (R111). -/
def AX_DUTY_AB (i : Nat) : Nat := 0x200C0 + i * 0x400
/-- AX_DUTY_AB.CODE_A: bits [15:0], RO. -/
def AX_DUTY_AB_CODE_A (i : Nat) : Fld := ⟨(AX_DUTY_AB i), 0, 16⟩
/-- AX_DUTY_AB.CODE_B: bits [31:16], RO. -/
def AX_DUTY_AB_CODE_B (i : Nat) : Fld := ⟨(AX_DUTY_AB i), 16, 16⟩
/-- AX_DUTY_C (R111). -/
def AX_DUTY_C (i : Nat) : Nat := 0x200C4 + i * 0x400
/-- AX_DUTY_C.CODE_C: bits [15:0], RO. -/
def AX_DUTY_C_CODE_C (i : Nat) : Fld := ⟨(AX_DUTY_C i), 0, 16⟩
/-- AX_DUTY_C.GATE_EN: bits [16:16], RO. -/
def AX_DUTY_C_GATE_EN (i : Nat) : Fld := ⟨(AX_DUTY_C i), 16, 1⟩
/-- AX_LS_CTL (R138). -/
def AX_LS_CTL (i : Nat) : Nat := 0x20100 + i * 0x400
/-- AX_LS_CTL.MODE: bits [1:0], RW. -/
def AX_LS_CTL_MODE (i : Nat) : Fld := ⟨(AX_LS_CTL i), 0, 2⟩
/-- AX_LS_CTL.ENGAGE: bits [2:2], RW. -/
def AX_LS_CTL_ENGAGE (i : Nat) : Fld := ⟨(AX_LS_CTL i), 2, 1⟩
/-- AX_LS_CTL.TRIMHOLD: bits [3:3], RW. -/
def AX_LS_CTL_TRIMHOLD (i : Nat) : Fld := ⟨(AX_LS_CTL i), 3, 1⟩
/-- AX_LS_CTL.TRIMCLR: bits [4:4], WO. -/
def AX_LS_CTL_TRIMCLR (i : Nat) : Fld := ⟨(AX_LS_CTL i), 4, 1⟩
/-- AX_LS_STAT (R144). -/
def AX_LS_STAT (i : Nat) : Nat := 0x20104 + i * 0x400
/-- AX_LS_STAT.LOCK: bits [0:0], RO. -/
def AX_LS_STAT_LOCK (i : Nat) : Fld := ⟨(AX_LS_STAT i), 0, 1⟩
/-- AX_LS_STAT.LIMITED: bits [1:1], W1C. -/
def AX_LS_STAT_LIMITED (i : Nat) : Fld := ⟨(AX_LS_STAT i), 1, 1⟩
/-- AX_LS_STAT.ENGAGING: bits [2:2], RO. -/
def AX_LS_STAT_ENGAGING (i : Nat) : Fld := ⟨(AX_LS_STAT i), 2, 1⟩
/-- AX_LS_STAT.LAG: bits [3:3], W1C. -/
def AX_LS_STAT_LAG (i : Nat) : Fld := ⟨(AX_LS_STAT i), 3, 1⟩
/-- AX_LS_STAT.HOMING: bits [4:4], RO. -/
def AX_LS_STAT_HOMING (i : Nat) : Fld := ⟨(AX_LS_STAT i), 4, 1⟩
/-- AX_LS_STAT.HM_STATE: bits [7:5], RO. -/
def AX_LS_STAT_HM_STATE (i : Nat) : Fld := ⟨(AX_LS_STAT i), 5, 3⟩
/-- AX_LS_STAT.TRIMDROP: bits [8:8], W1C. -/
def AX_LS_STAT_TRIMDROP (i : Nat) : Fld := ⟨(AX_LS_STAT i), 8, 1⟩
/-- AX_LS_NUM (R140). -/
def AX_LS_NUM (i : Nat) : Nat := 0x20108 + i * 0x400
/-- AX_LS_DEN (R140). -/
def AX_LS_DEN (i : Nat) : Nat := 0x2010C + i * 0x400
/-- AX_LS_PHASE (R139), low word of 64 bits. -/
def AX_LS_PHASE (i : Nat) : Nat := 0x20110 + i * 0x400
/-- AX_LS_SETP (R138), low word of 64 bits. -/
def AX_LS_SETP (i : Nat) : Nat := 0x20118 + i * 0x400
/-- AX_LS_TRIMPEND (R141), low word of 64 bits. -/
def AX_LS_TRIMPEND (i : Nat) : Nat := 0x20120 + i * 0x400
/-- AX_LS_TRIMSUM (R141), low word of 64 bits. -/
def AX_LS_TRIMSUM (i : Nat) : Nat := 0x20128 + i * 0x400
/-- AX_HM_POS (R148), low word of 64 bits. -/
def AX_HM_POS (i : Nat) : Nat := 0x20130 + i * 0x400
/-- AX_HM_OFFS (R148), low word of 64 bits. -/
def AX_HM_OFFS (i : Nat) : Nat := 0x20138 + i * 0x400
/-- AX_LS_TRIMSTEP (R141). -/
def AX_LS_TRIMSTEP (i : Nat) : Nat := 0x20140 + i * 0x400
/-- AX_LS_VMAX (R143). -/
def AX_LS_VMAX (i : Nat) : Nat := 0x20144 + i * 0x400
/-- AX_LS_AMAX (R143). -/
def AX_LS_AMAX (i : Nat) : Nat := 0x20148 + i * 0x400
/-- AX_LS_JMAX (R143). -/
def AX_LS_JMAX (i : Nat) : Nat := 0x2014C + i * 0x400
/-- AX_LS_LAGMAX (R144). -/
def AX_LS_LAGMAX (i : Nat) : Nat := 0x20150 + i * 0x400
/-- AX_LS_TOL (R143). -/
def AX_LS_TOL (i : Nat) : Nat := 0x20154 + i * 0x400
/-- AX_LS_KC (R143). -/
def AX_LS_KC (i : Nat) : Nat := 0x20158 + i * 0x400
/-- AX_LS_ENGMAX (R144). -/
def AX_LS_ENGMAX (i : Nat) : Nat := 0x2015C + i * 0x400
/-- AX_LS_LAG (R144). -/
def AX_LS_LAG (i : Nat) : Nat := 0x20160 + i * 0x400
/-- AX_HM_CFG (R146). -/
def AX_HM_CFG (i : Nat) : Nat := 0x20164 + i * 0x400
/-- AX_HM_CFG.METHOD: bits [2:0], RW. -/
def AX_HM_CFG_METHOD (i : Nat) : Fld := ⟨(AX_HM_CFG i), 0, 3⟩
/-- AX_HM_CFG.DIR: bits [3:3], RW. -/
def AX_HM_CFG_DIR (i : Nat) : Fld := ⟨(AX_HM_CFG i), 3, 1⟩
/-- AX_HM_VSEARCH (R147). -/
def AX_HM_VSEARCH (i : Nat) : Nat := 0x20168 + i * 0x400
/-- AX_HM_VCREEP (R147). -/
def AX_HM_VCREEP (i : Nat) : Nat := 0x2016C + i * 0x400
/-- AX_HM_BACKOFF (R147). -/
def AX_HM_BACKOFF (i : Nat) : Nat := 0x20170 + i * 0x400
/-- AX_HM_TRAVEL (R147). -/
def AX_HM_TRAVEL (i : Nat) : Nat := 0x20174 + i * 0x400
/-- AX_LS_CNT_LIMITED (R144). -/
def AX_LS_CNT_LIMITED (i : Nat) : Nat := 0x20178 + i * 0x400
/-- AX_LS_CNT_TRIMDROP (R141). -/
def AX_LS_CNT_TRIMDROP (i : Nat) : Nat := 0x2017C + i * 0x400
/-- AX_PERR_MAX (R107). -/
def AX_PERR_MAX (i : Nat) : Nat := 0x20180 + i * 0x400
/-- AX_VEL_MAX (R107). -/
def AX_VEL_MAX (i : Nat) : Nat := 0x20184 + i * 0x400
/-- AX_OVSPD (R107). -/
def AX_OVSPD (i : Nat) : Nat := 0x20188 + i * 0x400
/-- AX_TQ_LIM (R107). -/
def AX_TQ_LIM (i : Nat) : Nat := 0x2018C + i * 0x400
/-- AX_I_MAX (R107). -/
def AX_I_MAX (i : Nat) : Nat := 0x20190 + i * 0x400
/-- AX_I_TRIP (R107). -/
def AX_I_TRIP (i : Nat) : Nat := 0x20194 + i * 0x400
/-- AX_I_LIM (R107). -/
def AX_I_LIM (i : Nat) : Nat := 0x20198 + i * 0x400
/-- AX_STOP_DEC (R121). -/
def AX_STOP_DEC (i : Nat) : Nat := 0x2019C + i * 0x400
/-- AX_STOP_TIME (R121). -/
def AX_STOP_TIME (i : Nat) : Nat := 0x201A0 + i * 0x400
/-- AX_VSTILL (R121). -/
def AX_VSTILL (i : Nat) : Nat := 0x201A4 + i * 0x400
/-- AX_VDC_MIN (R112). -/
def AX_VDC_MIN (i : Nat) : Nat := 0x201A8 + i * 0x400
/-- AX_KP (R95), low word of 64 bits. -/
def AX_KP (i : Nat) : Nat := 0x20200 + i * 0x400
/-- AX_KFF (R95), low word of 64 bits. -/
def AX_KFF (i : Nat) : Nat := 0x20208 + i * 0x400
/-- AX_KV (R99), low word of 64 bits. -/
def AX_KV (i : Nat) : Nat := 0x20210 + i * 0x400
/-- AX_KI (R99), low word of 64 bits. -/
def AX_KI (i : Nat) : Nat := 0x20218 + i * 0x400
/-- AX_KA (R99), low word of 64 bits. -/
def AX_KA (i : Nat) : Nat := 0x20220 + i * 0x400
/-- AX_EV_FULL (R100). -/
def AX_EV_FULL (i : Nat) : Nat := 0x20228 + i * 0x400
/-- AX_IDREF (R109). -/
def AX_IDREF (i : Nat) : Nat := 0x20230 + i * 0x400
/-- AX_NA_FREQ (R118). -/
def AX_NA_FREQ (i : Nat) : Nat := 0x20280 + i * 0x400
/-- AX_NA_ZZ (R103). -/
def AX_NA_ZZ (i : Nat) : Nat := 0x20284 + i * 0x400
/-- AX_NA_ZP (R103). -/
def AX_NA_ZP (i : Nat) : Nat := 0x20288 + i * 0x400
/-- AX_TRK_CTL (R117). -/
def AX_TRK_CTL (i : Nat) : Nat := 0x2028C + i * 0x400
/-- AX_TRK_CTL.FREEZE: bits [0:0], RW. -/
def AX_TRK_CTL_FREEZE (i : Nat) : Fld := ⟨(AX_TRK_CTL i), 0, 1⟩
/-- AX_TRK_CTL.RESTART: bits [1:1], WO. -/
def AX_TRK_CTL_RESTART (i : Nat) : Fld := ⟨(AX_TRK_CTL i), 1, 1⟩
/-- AX_TRK_STAT (R116). -/
def AX_TRK_STAT (i : Nat) : Nat := 0x20290 + i * 0x400
/-- AX_TRK_STAT.NA_SEL: bits [0:0], RO. -/
def AX_TRK_STAT_NA_SEL (i : Nat) : Fld := ⟨(AX_TRK_STAT i), 0, 1⟩
/-- AX_TRK_STAT.HOLD: bits [1:1], RO. -/
def AX_TRK_STAT_HOLD (i : Nat) : Fld := ⟨(AX_TRK_STAT i), 1, 1⟩
/-- AX_TRK_STAT.DETECT: bits [2:2], RO. -/
def AX_TRK_STAT_DETECT (i : Nat) : Fld := ⟨(AX_TRK_STAT i), 2, 1⟩
/-- AX_TRK_STAT.OFF: bits [3:3], RO. -/
def AX_TRK_STAT_OFF (i : Nat) : Fld := ⟨(AX_TRK_STAT i), 3, 1⟩
/-- AX_TRK_STAT.DWELL: bits [31:16], RO. -/
def AX_TRK_STAT_DWELL (i : Nat) : Fld := ⟨(AX_TRK_STAT i), 16, 16⟩
/-- AX_TRK_FEST (R114). -/
def AX_TRK_FEST (i : Nat) : Nat := 0x20294 + i * 0x400
/-- AX_TRK_RATIO (R114). -/
def AX_TRK_RATIO (i : Nat) : Nat := 0x20298 + i * 0x400
/-- AX_TRK_MOVES (R116). -/
def AX_TRK_MOVES (i : Nat) : Nat := 0x2029C + i * 0x400
/-- AX_FA_MIN (R114). -/
def AX_FA_MIN (i : Nat) : Nat := 0x202A0 + i * 0x400
/-- AX_FA_MAX (R114). -/
def AX_FA_MAX (i : Nat) : Nat := 0x202A4 + i * 0x400
/-- AX_TRK_SLEW (R115). -/
def AX_TRK_SLEW (i : Nat) : Nat := 0x202A8 + i * 0x400
/-- AX_TRK_HYST (R115). -/
def AX_TRK_HYST (i : Nat) : Nat := 0x202AC + i * 0x400
/-- AX_TRK_DWELL (R115). -/
def AX_TRK_DWELL (i : Nat) : Nat := 0x202B0 + i * 0x400
/-- AX_TRK_GAP (R115). -/
def AX_TRK_GAP (i : Nat) : Nat := 0x202B4 + i * 0x400
/-- AX_TRK_DET (R115). -/
def AX_TRK_DET (i : Nat) : Nat := 0x202B8 + i * 0x400
/-- AX_TRK_VMIN (R117). -/
def AX_TRK_VMIN (i : Nat) : Nat := 0x202BC + i * 0x400
/-- AX_CS_PP (R109). -/
def AX_CS_PP (i : Nat) : Nat := 0x20300 + i * 0x400
/-- AX_CS_CPR (R109). -/
def AX_CS_CPR (i : Nat) : Nat := 0x20304 + i * 0x400
/-- AX_CS_POFF (R109), low word of 64 bits. -/
def AX_CS_POFF (i : Nat) : Nat := 0x20308 + i * 0x400
/-- AX_CS_IQPT (R109), low word of 64 bits. -/
def AX_CS_IQPT (i : Nat) : Nat := 0x20310 + i * 0x400
/-- AX_CS_KPD (R110), low word of 64 bits. -/
def AX_CS_KPD (i : Nat) : Nat := 0x20318 + i * 0x400
/-- AX_CS_KID (R110), low word of 64 bits. -/
def AX_CS_KID (i : Nat) : Nat := 0x20320 + i * 0x400
/-- AX_CS_KPQ (R110), low word of 64 bits. -/
def AX_CS_KPQ (i : Nat) : Nat := 0x20328 + i * 0x400
/-- AX_CS_KIQ (R110), low word of 64 bits. -/
def AX_CS_KIQ (i : Nat) : Nat := 0x20330 + i * 0x400
/-- AX_CS_LD (R110), low word of 64 bits. -/
def AX_CS_LD (i : Nat) : Nat := 0x20338 + i * 0x400
/-- AX_CS_LQ (R110), low word of 64 bits. -/
def AX_CS_LQ (i : Nat) : Nat := 0x20340 + i * 0x400
/-- AX_CS_PSI (R110), low word of 64 bits. -/
def AX_CS_PSI (i : Nat) : Nat := 0x20348 + i * 0x400
/-- AX_CS_TAPPLY (R111). -/
def AX_CS_TAPPLY (i : Nat) : Nat := 0x20350 + i * 0x400
/-- AX_CS_IFS (R109). -/
def AX_CS_IFS (i : Nat) : Nat := 0x20354 + i * 0x400
/-- AX_CNT_LATE (R35). -/
def AX_CNT_LATE (i : Nat) : Nat := 0x20380 + i * 0x400
/-- AX_CNT_MISS (R34). -/
def AX_CNT_MISS (i : Nat) : Nat := 0x20384 + i * 0x400
/-- AX_CNT_STALE (R43). -/
def AX_CNT_STALE (i : Nat) : Nat := 0x20388 + i * 0x400
/-- AX_CNT_PSKIP (R96). -/
def AX_CNT_PSKIP (i : Nat) : Nat := 0x2038C + i * 0x400
/-- AX_CNT_AGED (R98). -/
def AX_CNT_AGED (i : Nat) : Nat := 0x20390 + i * 0x400
/-- AX_CNT_LIMT (R106). -/
def AX_CNT_LIMT (i : Nat) : Nat := 0x20394 + i * 0x400
/-- AX_CNT_SAT (R108). -/
def AX_CNT_SAT (i : Nat) : Nat := 0x20398 + i * 0x400
/-- AX_CNT_CLRREJ (R123). -/
def AX_CNT_CLRREJ (i : Nat) : Nat := 0x2039C + i * 0x400
/-- AX_STAGE (R423). -/
def AX_STAGE (i : Nat) (j : Nat) : Nat := 0x203C0 + i * 0x400 + j * 0x4
/-- HST_CMD_DESC (R344). -/
def HST_CMD_DESC (i : Nat) : Nat := 0xC0000 + i * 0x4
/-- HST_CMD_GO (R345). -/
def HST_CMD_GO : Nat := 0xC0040
/-- HST_CMD_GO.GO: bits [0:0], WO. -/
def HST_CMD_GO_GO : Fld := ⟨HST_CMD_GO, 0, 1⟩
/-- HST_CMD_RESULT (R345). -/
def HST_CMD_RESULT : Nat := 0xC0044
/-- HST_CMD_RESULT.TICKET: bits [15:0], RO. -/
def HST_CMD_RESULT_TICKET : Fld := ⟨HST_CMD_RESULT, 0, 16⟩
/-- HST_CMD_RESULT.CODE: bits [23:16], RO. -/
def HST_CMD_RESULT_CODE : Fld := ⟨HST_CMD_RESULT, 16, 8⟩
/-- HST_CMD_RESULT.DONE: bits [24:24], RO. -/
def HST_CMD_RESULT_DONE : Fld := ⟨HST_CMD_RESULT, 24, 1⟩
/-- HST_CFIFO_STAT (R355). -/
def HST_CFIFO_STAT : Nat := 0xC0080
/-- HST_CFIFO_STAT.FILL: bits [8:0], RO. -/
def HST_CFIFO_STAT_FILL : Fld := ⟨HST_CFIFO_STAT, 0, 9⟩
/-- HST_CFIFO_POP (R355). -/
def HST_CFIFO_POP : Nat := 0xC0084
/-- HST_CFIFO_W (R355). -/
def HST_CFIFO_W (i : Nat) : Nat := 0xC0090 + i * 0x4
/-- HST_RSP_SEL (R350). -/
def HST_RSP_SEL : Nat := 0xC0100
/-- HST_RSP_SEL.TICKET: bits [15:0], RW. -/
def HST_RSP_SEL_TICKET : Fld := ⟨HST_RSP_SEL, 0, 16⟩
/-- HST_RSP_STAT (R350). -/
def HST_RSP_STAT : Nat := 0xC0104
/-- HST_RSP_STAT.RLEN: bits [7:0], RO. -/
def HST_RSP_STAT_RLEN : Fld := ⟨HST_RSP_STAT, 0, 8⟩
/-- HST_RSP_STAT.STATUS: bits [15:8], RO. -/
def HST_RSP_STAT_STATUS : Fld := ⟨HST_RSP_STAT, 8, 8⟩
/-- HST_RSP_STAT.VALID: bits [31:31], RO. -/
def HST_RSP_STAT_VALID : Fld := ⟨HST_RSP_STAT, 31, 1⟩
/-- HST_RSP_DATA (R350). -/
def HST_RSP_DATA (i : Nat) : Nat := 0xC0140 + i * 0x4

/-- Register rows of the GLB block, part 0. -/
def glbRows0 : List RegRow := [
  ⟨"GLB_ID", 0x00000, [], .core, false, 0x3FFFFFF, 0x0, 0x0, 0x0, false, false, 0x0⟩,
  ⟨"GLB_RST_CAUSE", 0x00004, [], .aon, true, 0x3F, 0x0, 0x0, 0x0, false, false, 0x0⟩,
  ⟨"GLB_RST_CNT", 0x00008, [], .aon, true, 0x7FFFFF, 0x0, 0x0, 0x0, false, false, 0x0⟩,
  ⟨"GLB_STRAP_STATUS", 0x00010, [], .core, false, 0xFFFF, 0x0, 0x0, 0x0, false, false, 0x0⟩,
  ⟨"GLB_BOOT_STAT", 0x00014, [], .core, false, 0xFFF, 0x0, 0x80, 0x0, false, false, 0x0⟩,
  ⟨"GLB_BOOT_GEN", 0x00018, [], .core, false, 0xFFFFFFFF, 0x0, 0x0, 0x0, false, false, 0x0⟩,
  ⟨"GLB_BOOT_ERR", 0x0001C, [], .core, false, 0xFFFF, 0x0, 0x0, 0x0, false, false, 0x0⟩,
  ⟨"GLB_BOOT_ERRPOS", 0x00020, [], .core, false, 0xFFFFFFFF, 0x0, 0x0, 0x0, false, false, 0x0⟩]

/-- All register rows of the GLB block. -/
def glbRows : List RegRow := glbRows0

/-- Register rows of the PWR block, part 0. -/
def pwrRows0 : List RegRow := [
  ⟨"PWR_STAT", 0x01000, [], .aon, true, 0x7F, 0x0, 0x28, 0x0, false, false, 0x0⟩,
  ⟨"PWR_CTL", 0x01004, [], .aon, true, 0x0, 0x0, 0x0, 0xFFFF0003, false, false, 0x0⟩,
  ⟨"PWR_VWARN", 0x01008, [], .aon, true, 0x1FF, 0x1FF, 0x0, 0x0, true, false, 0x1FF⟩,
  ⟨"PWR_VIN", 0x0100C, [], .aon, true, 0xFFFF, 0x0, 0x0, 0x0, false, false, 0x0⟩,
  ⟨"PWR_VINMIN", 0x01010, [], .aon, true, 0xFFFF, 0xFFFF, 0x0, 0x0, false, false, 0x0⟩,
  ⟨"PWR_TJ", 0x01014, [], .aon, true, 0xFFFFFFFF, 0xFFFF0000, 0x0, 0x0, false, false, 0x0⟩,
  ⟨"PWR_DOM_STAT", 0x01020, [(3, 0x4)], .aon, true, 0xFFFFFFFF, 0x0, 0x0, 0x0, false, false, 0x0⟩,
  ⟨"PWR_CNT_VWARN", 0x01030, [], .aon, true, 0xFFFFFFFF, 0xFFFFFFFF, 0x0, 0x0, false, false, 0x0⟩]

/-- All register rows of the PWR block. -/
def pwrRows : List RegRow := pwrRows0

/-- Register rows of the HST block, part 0. -/
def hstRows0 : List RegRow := [
  ⟨"HST_STAT", 0x02000, [], .host, false, 0xFFFF1FFF, 0x0, 0x0, 0x0, false, false, 0x0⟩,
  ⟨"HST_LOCK", 0x02004, [], .host, false, 0x1, 0x1, 0x0, 0x0, false, false, 0x1⟩,
  ⟨"HST_ERR", 0x02008, [], .host, false, 0xDFFFFFFF, 0x0, 0x80000000, 0x0, false, false, 0x0⟩,
  ⟨"HST_CNT_ERR", 0x0200C, [], .host, false, 0xFFFFFFFF, 0xFFFFFFFF, 0x0, 0x0, false, false, 0x0⟩,
  ⟨"HST_VER_RANGE", 0x02010, [], .host, false, 0xFFFF, 0x0, 0x0, 0x0, false, false, 0x0⟩,
  ⟨"HST_VER_SEL", 0x02014, [], .host, false, 0xFF, 0xFF, 0x0, 0x0, false, false, 0x0⟩,
  ⟨"HST_IRQ_STAT", 0x02020, [], .host, false, 0x1FF, 0x0, 0x153, 0x0, false, false, 0x0⟩,
  ⟨"HST_IRQ_EN", 0x02024, [], .host, false, 0x1FF, 0x1FF, 0x0, 0x0, false, false, 0x0⟩,
  ⟨"HST_IRQ_HOLDOFF", 0x02028, [], .host, false, 0xFFFF, 0xFFFF, 0x0, 0x0, false, false, 0x0⟩,
  ⟨"HST_CRING_BASE_LO", 0x02040, [], .host, false, 0xFFFFFFFF, 0xFFFFFFFF, 0x0, 0x0, false, false, 0x0⟩,
  ⟨"HST_CRING_BASE_HI", 0x02044, [], .host, false, 0xFFFFFFFF, 0xFFFFFFFF, 0x0, 0x0, false, false, 0x0⟩,
  ⟨"HST_CRING_SIZE", 0x02048, [], .host, false, 0x7FFF, 0x7FFF, 0x0, 0x0, false, false, 0x0⟩,
  ⟨"HST_CRING_HEAD", 0x0204C, [], .host, false, 0xFFFF, 0xFFFF, 0x0, 0x0, false, false, 0x0⟩,
  ⟨"HST_CRING_TAIL", 0x02050, [], .host, false, 0xFFFF, 0x0, 0x0, 0x0, false, false, 0x0⟩,
  ⟨"HST_CRING_CTL", 0x02054, [], .host, false, 0x1, 0x1, 0x0, 0x0, false, false, 0x0⟩,
  ⟨"HST_SPI_ERR", 0x02060, [], .host, false, 0x3F, 0x0, 0x3F, 0x0, false, false, 0x0⟩,
  ⟨"HST_CNT_BUSY", 0x02064, [], .host, false, 0xFFFFFFFF, 0xFFFFFFFF, 0x0, 0x0, false, false, 0x0⟩,
  ⟨"HST_CNT_MCDROP", 0x02068, [], .host, false, 0xFFFFFFFF, 0xFFFFFFFF, 0x0, 0x0, false, false, 0x0⟩,
  ⟨"HST_CNT_SPIERR", 0x0206C, [], .host, false, 0xFFFFFFFF, 0xFFFFFFFF, 0x0, 0x0, false, false, 0x0⟩,
  ⟨"HST_QSTAT", 0x02080, [(4, 0x4)], .host, false, 0x1FF, 0x0, 0x0, 0x0, false, false, 0x0⟩]

/-- All register rows of the HST block. -/
def hstRows : List RegRow := hstRows0

/-- Register rows of the BEAT block, part 0. -/
def beatRows0 : List RegRow := [
  ⟨"BEAT_CFG", 0x03000, [], .core, false, 0x30F, 0x0, 0x0, 0x0, false, false, 0x10F⟩,
  ⟨"BEAT_IDL", 0x03004, [], .core, false, 0x3FFFF, 0x0, 0x0, 0x0, false, false, 0x3FFFF⟩,
  ⟨"BEAT_OPH", 0x03008, [], .core, false, 0x3FFFF, 0x0, 0x0, 0x0, false, false, 0x3FFFF⟩,
  ⟨"BEAT_FCL", 0x0300C, [], .core, false, 0x3FFFF, 0x0, 0x0, 0x0, false, false, 0x3FFFF⟩,
  ⟨"BEAT_PERIOD", 0x03010, [], .core, false, 0x3FFFF, 0x0, 0x0, 0x0, false, false, 0x3FFFF⟩,
  ⟨"BEAT_NUM", 0x03014, [], .core, false, 0xFFFFFFFF, 0x0, 0x0, 0x0, false, false, 0x0⟩,
  ⟨"BEAT_GT_LO", 0x03018, [], .core, false, 0xFFFFFFFF, 0x0, 0x0, 0x0, false, false, 0x0⟩,
  ⟨"BEAT_GT_HI", 0x0301C, [], .core, false, 0xFFFFFFFF, 0x0, 0x0, 0x0, false, false, 0x0⟩,
  ⟨"BEAT_EDGE_LO", 0x03020, [], .core, false, 0xFFFFFFFF, 0x0, 0x0, 0x0, false, false, 0x0⟩,
  ⟨"BEAT_EDGE_HI", 0x03024, [], .core, false, 0xFFFFFFFF, 0x0, 0x0, 0x0, false, false, 0x0⟩,
  ⟨"BEAT_STAT", 0x03028, [], .core, false, 0x70F, 0x0, 0x7, 0x0, false, false, 0x0⟩,
  ⟨"BEAT_SHED", 0x0302C, [], .core, false, 0x3FF03FF, 0x0, 0x0, 0x0, false, false, 0x0⟩,
  ⟨"BEAT_OVRCNT", 0x03030, [], .core, false, 0xFFFFFFFF, 0xFFFFFFFF, 0x0, 0x0, false, false, 0x0⟩,
  ⟨"BEAT_STALECNT", 0x03034, [], .core, false, 0xFFFFFFFF, 0xFFFFFFFF, 0x0, 0x0, false, false, 0x0⟩,
  ⟨"BEAT_BUDGET", 0x03038, [], .core, false, 0x1FFFFF, 0x0, 0x0, 0x0, false, false, 0x1FFFFF⟩,
  ⟨"BEAT_WCSUM", 0x0303C, [], .core, false, 0x1FFFFF, 0x0, 0x0, 0x0, false, false, 0x1FFFFF⟩,
  ⟨"BEAT_MARGIN", 0x03040, [], .core, false, 0x3FFFF, 0x3FFFF, 0x0, 0x0, false, false, 0x0⟩,
  ⟨"BEAT_LOAD", 0x03080, [(16, 0x4)], .core, false, 0x1FFFF, 0x0, 0x0, 0x0, false, false, 0x0⟩,
  ⟨"BEAT_PEAK", 0x030C0, [(16, 0x4)], .core, false, 0x1FFFF, 0x1FFFF, 0x0, 0x0, false, false, 0x0⟩]

/-- All register rows of the BEAT block. -/
def beatRows : List RegRow := beatRows0

/-- Register rows of the KNL block, part 0. -/
def knlRows0 : List RegRow := [
  ⟨"KNL_STAT", 0x04000, [], .knl, false, 0x1FFFF, 0x0, 0x0, 0x0, false, false, 0x0⟩,
  ⟨"KNL_INST", 0x04004, [], .knl, false, 0x1FF01FF, 0x1FF0000, 0x0, 0x0, false, false, 0x0⟩,
  ⟨"KNL_CNT_MERGE", 0x04010, [], .knl, false, 0xFFFFFFFF, 0xFFFFFFFF, 0x0, 0x0, false, false, 0x0⟩,
  ⟨"KNL_CNT_DISPATCH", 0x04014, [], .knl, false, 0xFFFFFFFF, 0xFFFFFFFF, 0x0, 0x0, false, false, 0x0⟩,
  ⟨"KNL_CNT_PREEMPT", 0x04018, [], .knl, false, 0xFFFFFFFF, 0xFFFFFFFF, 0x0, 0x0, false, false, 0x0⟩,
  ⟨"KNL_CNT_OPHKILL", 0x0401C, [], .knl, false, 0xFFFFFFFF, 0xFFFFFFFF, 0x0, 0x0, false, false, 0x0⟩,
  ⟨"KNL_CNT_PARK", 0x04020, [], .knl, false, 0xFFFFFFFF, 0xFFFFFFFF, 0x0, 0x0, false, false, 0x0⟩,
  ⟨"KNL_DESC_SEL", 0x04040, [], .knl, false, 0x3FF, 0x3FF, 0x0, 0x0, false, false, 0x0⟩,
  ⟨"KNL_DESC_W", 0x04044, [(4, 0x4)], .knl, false, 0xFFFFFFFF, 0x0, 0x0, 0x0, false, false, 0x0⟩,
  ⟨"KNL_PP_CTL", 0x04080, [], .knl, false, 0x3FFF000F, 0x3FFF000F, 0x0, 0x0, false, false, 0x0⟩,
  ⟨"KNL_PP_LVLMASK", 0x04084, [], .knl, false, 0xFFFF, 0xFFFF, 0x0, 0x0, false, false, 0x0⟩,
  ⟨"KNL_PP_STAT", 0x04088, [], .knl, false, 0x7, 0x0, 0x0, 0x0, false, false, 0x0⟩,
  ⟨"KNL_PP_WPTR", 0x0408C, [], .knl, false, 0x3FFF, 0x0, 0x0, 0x0, false, false, 0x0⟩,
  ⟨"KNL_PP_TRIGIDX", 0x04090, [], .knl, false, 0x3FFF, 0x0, 0x0, 0x0, false, false, 0x0⟩,
  ⟨"KNL_PP_LOST", 0x04094, [], .knl, false, 0xFFFFFFFF, 0xFFFFFFFF, 0x0, 0x0, false, false, 0x0⟩,
  ⟨"KNL_RDY", 0x04100, [(16, 0x4)], .knl, false, 0x7FF, 0x0, 0x0, 0x0, false, false, 0x0⟩,
  ⟨"KNL_QFILL", 0x04200, [(23, 0x4)], .knl, false, 0xFFFF7FFF, 0xFFFF7F00, 0x0, 0x0, false, false, 0x0⟩]

/-- All register rows of the KNL block. -/
def knlRows : List RegRow := knlRows0

/-- Register rows of the LOG block, part 0. -/
def logRows0 : List RegRow := [
  ⟨"LOG_CTL", 0x05000, [], .log, false, 0xFF37, 0xFF37, 0x0, 0x0, false, false, 0x0⟩,
  ⟨"LOG_CMD", 0x05004, [], .log, false, 0x0, 0x0, 0x0, 0x3, false, false, 0x0⟩,
  ⟨"LOG_STAT", 0x05008, [], .log, false, 0xF, 0x0, 0x8, 0x0, false, false, 0x0⟩,
  ⟨"LOG_SEQ", 0x0500C, [], .log, false, 0xFFFFFFFF, 0x0, 0x0, 0x0, false, false, 0x0⟩,
  ⟨"LOG_TRIGIDX", 0x05010, [], .log, false, 0x80000FFF, 0x0, 0x0, 0x0, false, false, 0x0⟩,
  ⟨"LOG_EPOCH", 0x05014, [], .log, false, 0xFFFF, 0x0, 0x0, 0x0, false, false, 0x0⟩,
  ⟨"LOG_CNT_LOST", 0x05018, [], .log, false, 0xFFFFFFFF, 0xFFFFFFFF, 0x0, 0x0, false, false, 0x0⟩,
  ⟨"LOG_RD_IDX", 0x05020, [], .log, false, 0xFFF, 0xFFF, 0x0, 0x0, false, false, 0x0⟩,
  ⟨"LOG_RD_W", 0x05040, [(8, 0x4)], .log, false, 0xFFFFFFFF, 0x0, 0x0, 0x0, false, false, 0x0⟩,
  ⟨"LOG_DBG", 0x05060, [], .log, false, 0x7, 0x0, 0x0, 0x0, false, false, 0x0⟩]

/-- All register rows of the LOG block. -/
def logRows : List RegRow := logRows0

/-- Register rows of the SHD block, part 0. -/
def shdRows0 : List RegRow := [
  ⟨"SHD_STAT", 0x06000, [], .shd, true, 0xF1F, 0x0, 0xF00, 0x0, false, false, 0x0⟩,
  ⟨"SHD_CAUSE", 0x06004, [], .shd, true, 0xFFFF, 0x0, 0x0, 0x0, false, false, 0x0⟩,
  ⟨"SHD_SECT_CRC", 0x06008, [], .shd, true, 0xFFFFFFFF, 0x0, 0x0, 0x0, false, false, 0x0⟩,
  ⟨"SHD_SI", 0x0600C, [], .shd, true, 0xFFFFFFFF, 0x0, 0x0, 0x0, false, false, 0x0⟩,
  ⟨"SHD_PAIR", 0x06010, [], .shd, true, 0xFFFF, 0x0, 0x0, 0x0, false, false, 0x0⟩,
  ⟨"SHD_SF", 0x06014, [], .shd, true, 0xFFFF, 0x0, 0x0, 0x0, false, false, 0x0⟩,
  ⟨"SHD_SO", 0x06018, [], .shd, true, 0xFFF, 0x0, 0x0, 0x0, false, false, 0x0⟩,
  ⟨"SHD_SS1LEFT", 0x0601C, [], .shd, true, 0xFFFFFF, 0x0, 0x0, 0x0, false, false, 0x0⟩,
  ⟨"SHD_CNT_SRST", 0x06020, [], .shd, true, 0xFFFFFFFF, 0x0, 0x0, 0x0, false, false, 0x0⟩,
  ⟨"SHD_CNT_FAULT", 0x06024, [], .shd, true, 0xFFFFFFFF, 0x0, 0x0, 0x0, false, false, 0x0⟩,
  ⟨"SHD_PAIR_CFG", 0x06100, [(8, 0x4)], .shd, true, 0x0, 0x0, 0x0, 0x0, false, true, 0xFFFFFFFF⟩,
  ⟨"SHD_SF_CFG", 0x06140, [(8, 0x20)], .shd, true, 0x0, 0x0, 0x0, 0x0, false, true, 0xFFFFFFFF⟩,
  ⟨"SHD_SF_TSS1", 0x06144, [(8, 0x20)], .shd, true, 0x0, 0x0, 0x0, 0x0, false, true, 0xFFFFFFFF⟩,
  ⟨"SHD_SF_AXMASK", 0x06148, [(8, 0x20), (4, 0x4)], .shd, true, 0x0, 0x0, 0x0, 0x0, false, true, 0xFFFFFFFF⟩,
  ⟨"SHD_SECT_VAL", 0x06240, [], .shd, true, 0x0, 0x0, 0x0, 0x0, false, true, 0xFFFFFFFF⟩]

/-- All register rows of the SHD block. -/
def shdRows : List RegRow := shdRows0

/-- Register rows of the MST block, part 0. -/
def mstRows0 : List RegRow := [
  ⟨"MST_CFG", 0x07000, [], .mst, false, 0x3F7F7F, 0x0, 0x0, 0x0, false, false, 0x3F7F7F⟩,
  ⟨"MST_CTL", 0x07004, [], .mst, false, 0x0, 0x0, 0x0, 0x1, false, false, 0x0⟩,
  ⟨"MST_STAT", 0x07008, [], .mst, false, 0x3FF, 0x0, 0xF9, 0x0, false, false, 0x0⟩,
  ⟨"MST_LOSS_DEC", 0x0700C, [], .mst, false, 0xFFFFFFFF, 0xFFFFFFFF, 0x0, 0x0, true, false, 0xFFFFFFFF⟩,
  ⟨"MST_S_EDGE", 0x07010, [], .mst, false, 0xFFFFFFFF, 0x0, 0x0, 0x0, false, false, 0x0⟩,
  ⟨"MST_S_POS_LO", 0x07018, [], .mst, false, 0xFFFFFFFF, 0x0, 0x0, 0x0, false, false, 0x0⟩,
  ⟨"MST_S_POS_HI", 0x0701C, [], .mst, false, 0xFFFFFFFF, 0x0, 0x0, 0x0, false, false, 0x0⟩,
  ⟨"MST_S_VEL_LO", 0x07020, [], .mst, false, 0xFFFFFFFF, 0x0, 0x0, 0x0, false, false, 0x0⟩,
  ⟨"MST_S_VEL_HI", 0x07024, [], .mst, false, 0xFFFFFFFF, 0x0, 0x0, 0x0, false, false, 0x0⟩,
  ⟨"MST_S_ACC_LO", 0x07028, [], .mst, false, 0xFFFFFFFF, 0x0, 0x0, 0x0, false, false, 0x0⟩,
  ⟨"MST_S_ACC_HI", 0x0702C, [], .mst, false, 0xFFFFFFFF, 0x0, 0x0, 0x0, false, false, 0x0⟩,
  ⟨"MST_X_EDGE", 0x07030, [], .mst, false, 0xFFFFFFFF, 0x0, 0x0, 0x0, false, false, 0x0⟩,
  ⟨"MST_X_POS_LO", 0x07038, [], .mst, false, 0xFFFFFFFF, 0x0, 0x0, 0x0, false, false, 0x0⟩,
  ⟨"MST_X_POS_HI", 0x0703C, [], .mst, false, 0xFFFFFFFF, 0x0, 0x0, 0x0, false, false, 0x0⟩,
  ⟨"MST_X_VEL_LO", 0x07040, [], .mst, false, 0xFFFFFFFF, 0x0, 0x0, 0x0, false, false, 0x0⟩,
  ⟨"MST_X_VEL_HI", 0x07044, [], .mst, false, 0xFFFFFFFF, 0x0, 0x0, 0x0, false, false, 0x0⟩,
  ⟨"MST_X_ACC_LO", 0x07048, [], .mst, false, 0xFFFFFFFF, 0x0, 0x0, 0x0, false, false, 0x0⟩,
  ⟨"MST_X_ACC_HI", 0x0704C, [], .mst, false, 0xFFFFFFFF, 0x0, 0x0, 0x0, false, false, 0x0⟩,
  ⟨"MST_REBASE_LO", 0x07050, [], .mst, false, 0xFFFFFFFF, 0x0, 0x0, 0x0, false, false, 0x0⟩,
  ⟨"MST_REBASE_HI", 0x07054, [], .mst, false, 0xFFFFFFFF, 0x0, 0x0, 0x0, false, false, 0x0⟩,
  ⟨"MST_CNT_MLATE", 0x07058, [], .mst, false, 0xFFFFFFFF, 0xFFFFFFFF, 0x0, 0x0, false, false, 0x0⟩,
  ⟨"MST_CNT_QERR", 0x0705C, [], .mst, false, 0xFFFFFFFF, 0xFFFFFFFF, 0x0, 0x0, false, false, 0x0⟩,
  ⟨"MST_VM_VEL_LO", 0x07060, [], .mst, false, 0xFFFFFFFF, 0xFFFFFFFF, 0x0, 0x0, false, false, 0xFFFFFFFF⟩,
  ⟨"MST_VM_VEL_HI", 0x07064, [], .mst, false, 0xFFFFFFFF, 0xFFFFFFFF, 0x0, 0x0, false, false, 0xFFFFFFFF⟩,
  ⟨"MST_VM_ACC", 0x07068, [], .mst, false, 0xFFFFFFFF, 0xFFFFFFFF, 0x0, 0x0, true, false, 0xFFFFFFFF⟩,
  ⟨"MST_VM_JERK", 0x0706C, [], .mst, false, 0xFFFFFFFF, 0xFFFFFFFF, 0x0, 0x0, true, false, 0xFFFFFFFF⟩,
  ⟨"MST_GU_END", 0x07070, [], .mst, false, 0xFFFFFFFF, 0x0, 0x0, 0x0, false, false, 0x0⟩,
  ⟨"MST_MP_CFG", 0x07080, [(2, 0x10)], .mst, false, 0x3FF, 0x0, 0x0, 0x0, false, false, 0x3FF⟩,
  ⟨"MST_MP_CNT", 0x07084, [(2, 0x10)], .mst, false, 0xFFFFFFFF, 0x0, 0x0, 0x0, false, false, 0x0⟩,
  ⟨"MST_MA_GAIN_LO", 0x070A0, [(2, 0x10)], .mst, false, 0xFFFFFFFF, 0x0, 0x0, 0x0, false, false, 0xFFFFFFFF⟩,
  ⟨"MST_MA_GAIN_HI", 0x070A4, [(2, 0x10)], .mst, false, 0xFFFFFFFF, 0x0, 0x0, 0x0, false, false, 0xFFFFFFFF⟩,
  ⟨"MST_MA_OFFS", 0x070A8, [(2, 0x10)], .mst, false, 0xFFFFFFFF, 0x0, 0x0, 0x0, false, false, 0xFFFFFFFF⟩,
  ⟨"MST_MA_RAW", 0x070AC, [(2, 0x10)], .mst, false, 0xFFFF, 0x0, 0x0, 0x0, false, false, 0x0⟩]

/-- All register rows of the MST block. -/
def mstRows : List RegRow := mstRows0

/-- Register rows of the LE block, part 0. -/
def leRows0 : List RegRow := [
  ⟨"LE_STAT", 0x08000, [(16, 0x400)], .core, false, 0xF, 0x0, 0x0, 0x0, false, false, 0x0⟩,
  ⟨"LE_STICKY", 0x08004, [(16, 0x400)], .core, false, 0x1F, 0x0, 0x1F, 0x0, false, false, 0x0⟩,
  ⟨"LE_TASK", 0x08008, [(16, 0x400)], .core, false, 0xBFFFF3FF, 0x0, 0x0, 0x0, false, false, 0x0⟩,
  ⟨"LE_FAULT", 0x0800C, [(16, 0x400)], .core, false, 0xFFFFFFF, 0x0, 0x0, 0x0, false, false, 0x0⟩,
  ⟨"LE_FAULTCNT", 0x08010, [(16, 0x400)], .core, false, 0xFFFFFFFF, 0xFFFFFFFF, 0x0, 0x0, false, false, 0x0⟩,
  ⟨"LE_SATCNT", 0x08014, [(16, 0x400)], .core, false, 0xFFFFFFFF, 0xFFFFFFFF, 0x0, 0x0, false, false, 0x0⟩,
  ⟨"LE_EOVFCNT", 0x08018, [(16, 0x400)], .core, false, 0xFFFFFFFF, 0xFFFFFFFF, 0x0, 0x0, false, false, 0x0⟩,
  ⟨"LE_ECCCNT", 0x0801C, [(16, 0x400)], .core, false, 0xFFFFFFFF, 0xFFFFFFFF, 0x0, 0x0, false, false, 0x0⟩,
  ⟨"LE_CYC_LO", 0x08020, [(16, 0x400)], .core, false, 0xFFFFFFFF, 0x0, 0x0, 0x0, false, false, 0x0⟩,
  ⟨"LE_CYC_HI", 0x08024, [(16, 0x400)], .core, false, 0xFFFFFFFF, 0x0, 0x0, 0x0, false, false, 0x0⟩,
  ⟨"LE_PREEMPTCNT", 0x08028, [(16, 0x400)], .core, false, 0xFFFFFFFF, 0xFFFFFFFF, 0x0, 0x0, false, false, 0x0⟩,
  ⟨"LE_ABORTCNT", 0x0802C, [(16, 0x400)], .core, false, 0xFFFFFFFF, 0xFFFFFFFF, 0x0, 0x0, false, false, 0x0⟩,
  ⟨"LE_YQ", 0x08030, [], .core, false, 0xFFFF3F3F, 0xFFFF3F00, 0x0, 0x0, false, false, 0x0⟩]

/-- All register rows of the LE block. -/
def leRows : List RegRow := leRows0

/-- Register rows of the LSH block, part 0. -/
def lshRows0 : List RegRow := [
  ⟨"LSH_PCFG", 0x0C000, [(8, 0x400)], .core, false, 0x7, 0x0, 0x0, 0x0, false, false, 0x3⟩,
  ⟨"LSH_PSTAT", 0x0C004, [(8, 0x400)], .core, false, 0xF, 0x0, 0xC, 0x0, false, false, 0x0⟩,
  ⟨"LSH_PHYDLY", 0x0C008, [(8, 0x400)], .core, false, 0xFFF, 0x0, 0x0, 0x0, false, false, 0xFFF⟩,
  ⟨"LSH_CNT_RXFRM", 0x0C010, [(8, 0x400)], .core, false, 0xFFFFFFFF, 0xFFFFFFFF, 0x0, 0x0, false, false, 0x0⟩,
  ⟨"LSH_CNT_BADFCS", 0x0C014, [(8, 0x400)], .core, false, 0xFFFFFFFF, 0xFFFFFFFF, 0x0, 0x0, false, false, 0x0⟩,
  ⟨"LSH_CNT_BADHDR", 0x0C018, [(8, 0x400)], .core, false, 0xFFFFFFFF, 0xFFFFFFFF, 0x0, 0x0, false, false, 0x0⟩,
  ⟨"LSH_CNT_SYNCLOSS", 0x0C01C, [(8, 0x400)], .core, false, 0xFFFFFFFF, 0xFFFFFFFF, 0x0, 0x0, false, false, 0x0⟩,
  ⟨"LSH_SCFG", 0x0C100, [(4, 0x800)], .core, false, 0x1FFF, 0x0, 0x0, 0x0, false, false, 0x1FFF⟩,
  ⟨"LSH_SCHED", 0x0C104, [(4, 0x800)], .core, false, 0xFFFFFFFF, 0xFFFFFFFF, 0x0, 0x0, true, false, 0xFFFFFFFF⟩,
  ⟨"LSH_SSTAT", 0x0C108, [(4, 0x800)], .core, false, 0x1F, 0x0, 0x1C, 0x0, false, false, 0x0⟩,
  ⟨"LSH_TPATH", 0x0C10C, [(4, 0x800)], .core, false, 0xFFFFFFFF, 0x0, 0x0, 0x0, false, false, 0x0⟩,
  ⟨"LSH_LASTIN", 0x0C110, [(4, 0x800)], .core, false, 0xFFFF, 0x0, 0x0, 0x0, false, false, 0x0⟩,
  ⟨"LSH_SID", 0x0C114, [(4, 0x800)], .core, false, 0x0, 0x0, 0x0, 0x0, false, true, 0xFFFFFFFF⟩,
  ⟨"LSH_SAFECFG", 0x0C118, [(4, 0x800)], .core, false, 0x0, 0x0, 0x0, 0x0, false, true, 0x7F⟩,
  ⟨"LSH_CNT_SLOTCRC", 0x0C120, [(4, 0x800)], .core, false, 0xFFFFFFFF, 0xFFFFFFFF, 0x0, 0x0, false, false, 0x0⟩,
  ⟨"LSH_CNT_IMPL", 0x0C124, [(4, 0x800)], .core, false, 0xFFFFFFFF, 0xFFFFFFFF, 0x0, 0x0, false, false, 0x0⟩,
  ⟨"LSH_CNT_NOFRAME", 0x0C128, [(4, 0x800)], .core, false, 0xFFFFFFFF, 0xFFFFFFFF, 0x0, 0x0, false, false, 0x0⟩,
  ⟨"LSH_CNT_ADMFAIL", 0x0C12C, [(4, 0x800)], .core, false, 0xFFFFFFFF, 0xFFFFFFFF, 0x0, 0x0, false, false, 0x0⟩,
  ⟨"LSH_MBXWAIT", 0x0C130, [(4, 0x800)], .core, false, 0xFFFF, 0x0, 0x0, 0x0, false, false, 0x0⟩,
  ⟨"LSH_RCFG", 0x0C140, [(4, 0x800)], .core, false, 0x1, 0x0, 0x0, 0x0, false, false, 0x1⟩,
  ⟨"LSH_PATH", 0x0C144, [(4, 0x800)], .core, false, 0x7F, 0x0, 0x70, 0x0, false, false, 0x0⟩,
  ⟨"LSH_BREAK", 0x0C148, [(4, 0x800)], .core, false, 0xFFFF3F3F, 0x0, 0x0, 0x0, false, false, 0x0⟩,
  ⟨"LSH_PROOF", 0x0C14C, [(4, 0x800)], .core, false, 0x80003F1F, 0x0, 0x0, 0x0, false, false, 0x0⟩,
  ⟨"LSH_CNT_PATHFAIL", 0x0C150, [(4, 0x800)], .core, false, 0xFFFFFFFF, 0xFFFFFFFF, 0x0, 0x0, false, false, 0x0⟩,
  ⟨"LSH_CNT_FAILOVER", 0x0C154, [(4, 0x800)], .core, false, 0xFFFFFFFF, 0xFFFFFFFF, 0x0, 0x0, false, false, 0x0⟩,
  ⟨"LSH_CNT_DUP", 0x0C158, [(4, 0x800)], .core, false, 0xFFFFFFFF, 0xFFFFFFFF, 0x0, 0x0, false, false, 0x0⟩,
  ⟨"LSH_SLOTMAP", 0x0C180, [(4, 0x800), (24, 0x4)], .core, false, 0x07FF07FF, 0x0, 0x0, 0x0, false, false, 0x07FF07FF⟩,
  ⟨"LSH_NODE_STAT", 0x0C200, [(4, 0x800), (32, 0x10)], .core, false, 0xF7F, 0x0, 0x0, 0x0, false, false, 0x48⟩,
  ⟨"LSH_NODE_ID", 0x0C204, [(4, 0x800), (32, 0x10)], .core, false, 0xFFFFFFFF, 0x0, 0x0, 0x0, false, false, 0x0⟩,
  ⟨"LSH_NODE_SERIAL", 0x0C208, [(4, 0x800), (32, 0x10)], .core, false, 0xFFFFFFFF, 0x0, 0x0, 0x0, false, false, 0x0⟩,
  ⟨"LSH_NODE_OFS", 0x0C20C, [(4, 0x800), (32, 0x10)], .core, false, 0xFFFFFFFF, 0x0, 0x0, 0x0, false, false, 0x0⟩]

/-- All register rows of the LSH block. -/
def lshRows : List RegRow := lshRows0

/-- Register rows of the CTR block, part 0. -/
def ctrRows0 : List RegRow := [
  ⟨"CTR_CFG", 0x0E000, [], .core, false, 0x7FFF, 0x7FFF, 0x0, 0x0, true, false, 0x7FFF⟩,
  ⟨"CTR_STAT", 0x0E004, [], .core, false, 0xFF01FF, 0x0, 0x1E0, 0x0, false, false, 0x0⟩,
  ⟨"CTR_VER", 0x0E008, [], .core, false, 0xFFF, 0x0, 0x0, 0x0, false, false, 0x0⟩,
  ⟨"CTR_HASH", 0x0E00C, [], .core, false, 0xFFFFFFFF, 0x0, 0x0, 0x0, false, false, 0x0⟩,
  ⟨"CTR_RXHASH", 0x0E010, [], .core, false, 0xFFFFFFFF, 0x0, 0x0, 0x0, false, false, 0x0⟩,
  ⟨"CTR_OFFSET", 0x0E014, [], .core, false, 0xFFFFFFFF, 0x0, 0x0, 0x0, false, false, 0x0⟩,
  ⟨"CTR_RATE", 0x0E018, [], .core, false, 0xFFFFFFFF, 0x0, 0x0, 0x0, false, false, 0x0⟩,
  ⟨"CTR_MASTER", 0x0E01C, [], .core, false, 0x1FF, 0x0, 0x0, 0x0, false, false, 0x0⟩,
  ⟨"CTR_WTAG", 0x0E020, [], .core, false, 0xFFFF, 0xFFFF, 0x0, 0x0, false, false, 0x0⟩,
  ⟨"CTR_DLQ_FILL", 0x0E024, [], .core, false, 0x1FF, 0x0, 0x0, 0x0, false, false, 0x0⟩,
  ⟨"CTR_DLQ_W", 0x0E030, [(4, 0x4)], .core, false, 0xFFFFFFFF, 0x0, 0x0, 0x0, false, false, 0x0⟩,
  ⟨"CTR_CNT", 0x0E040, [(12, 0x4)], .core, false, 0xFFFFFFFF, 0xFFFFFFFF, 0x0, 0x0, false, false, 0x0⟩,
  ⟨"CTR_P_CFG", 0x0E080, [(3, 0x20)], .core, false, 0xFFFFF, 0xFFFFF, 0x0, 0x0, true, false, 0xFFFFF⟩,
  ⟨"CTR_P_STAT", 0x0E084, [(3, 0x20)], .core, false, 0x7, 0x0, 0x4, 0x0, false, false, 0x0⟩,
  ⟨"CTR_P_LINKDLY", 0x0E088, [(3, 0x20)], .core, false, 0xFFFFFFFF, 0x0, 0x0, 0x0, false, false, 0x0⟩,
  ⟨"CTR_P_CNT_HCRC", 0x0E08C, [(3, 0x20)], .core, false, 0xFFFFFFFF, 0xFFFFFFFF, 0x0, 0x0, false, false, 0x0⟩,
  ⟨"CTR_P_CNT_LOCKLOSS", 0x0E090, [(3, 0x20)], .core, false, 0xFFFFFFFF, 0xFFFFFFFF, 0x0, 0x0, false, false, 0x0⟩,
  ⟨"CTR_NODE", 0x0E100, [(64, 0x4)], .core, false, 0xFFFF0F1F, 0xF, 0x0, 0x0, true, false, 0xF⟩,
  ⟨"CTR_SLOT_W0", 0x0E400, [(128, 0x8)], .core, false, 0x3FFFFF, 0x3FFFFF, 0x0, 0x0, true, false, 0x3FFFFF⟩,
  ⟨"CTR_SLOT_W1", 0x0E404, [(128, 0x8)], .core, false, 0x1FFF, 0x1FFF, 0x0, 0x0, true, false, 0x1FFF⟩]

/-- All register rows of the CTR block. -/
def ctrRows : List RegRow := ctrRows0

/-- Register rows of the CAP block, part 0. -/
def capRows0 : List RegRow := [
  ⟨"CAP_STAT", 0x0F000, [], .cap, false, 0xFFFFFF, 0x0, 0x0, 0x0, false, false, 0x0⟩,
  ⟨"CAP_WIN_SEL", 0x0F004, [], .cap, false, 0x7, 0x7, 0x0, 0x0, false, false, 0x0⟩,
  ⟨"CAP_SWTRIG", 0x0F008, [], .cap, false, 0x0, 0x0, 0x0, 0xFFFF, false, false, 0x0⟩,
  ⟨"CAP_XT", 0x0F00C, [], .cap, false, 0xF, 0x0, 0x0, 0x0, false, false, 0x0⟩,
  ⟨"CAP_MK_CFG", 0x0F040, [(8, 0x10)], .cap, false, 0xFFFFFFF, 0x0, 0x0, 0x0, false, false, 0xFFFFFFF⟩,
  ⟨"CAP_MK_FLD", 0x0F044, [(8, 0x10)], .cap, false, 0xFFFFFFFF, 0x0, 0x0, 0x0, false, false, 0xFFFFFFFF⟩,
  ⟨"CAP_MK_STAT", 0x0F048, [(8, 0x10)], .cap, false, 0x77, 0x0, 0x70, 0x0, false, false, 0x0⟩,
  ⟨"CAP_MK_BASE", 0x0F04C, [(8, 0x10)], .cap, false, 0xFFFFFF, 0x0, 0x0, 0x0, false, false, 0x0⟩,
  ⟨"CAP_CH_CTL", 0x0F100, [(16, 0x80)], .cap, false, 0x0, 0x0, 0x0, 0x7, false, false, 0x0⟩,
  ⟨"CAP_CH_STAT", 0x0F104, [(16, 0x80)], .cap, false, 0x7F, 0x0, 0x78, 0x0, false, false, 0x0⟩,
  ⟨"CAP_CH_SRC", 0x0F108, [(16, 0x80)], .cap, false, 0xFFFFFFFF, 0x0, 0x0, 0x0, false, false, 0xFFFFFFFF⟩,
  ⟨"CAP_CH_WIN", 0x0F10C, [(16, 0x80)], .cap, false, 0xFFFFFF, 0x0, 0x0, 0x0, false, false, 0xFFFFFF⟩,
  ⟨"CAP_CH_RECLEN", 0x0F110, [(16, 0x80)], .cap, false, 0xFFFF1FFF, 0x0, 0x0, 0x0, false, false, 0xFFFF1FFF⟩,
  ⟨"CAP_CH_BASE", 0x0F114, [(16, 0x80)], .cap, false, 0xFFFFFFFF, 0x0, 0x0, 0x0, false, false, 0xFFFFFFFF⟩,
  ⟨"CAP_CH_NSLOT", 0x0F118, [(16, 0x80)], .cap, false, 0xFFFFFFFF, 0x0, 0x0, 0x0, false, false, 0xFFFFFFFF⟩,
  ⟨"CAP_CH_SLOTSZ", 0x0F11C, [(16, 0x80)], .cap, false, 0xFFFFFFFF, 0x0, 0x0, 0x0, false, false, 0xFFFFFFFF⟩,
  ⟨"CAP_CH_AXMASK", 0x0F120, [(16, 0x80), (4, 0x4)], .cap, false, 0xFFFFFFFF, 0x0, 0x0, 0x0, false, false, 0xFFFFFFFF⟩,
  ⟨"CAP_CH_REF", 0x0F130, [(16, 0x80)], .cap, false, 0xFF, 0x0, 0x0, 0x0, false, false, 0xFF⟩,
  ⟨"CAP_CH_RPT", 0x0F134, [(16, 0x80)], .cap, false, 0xFFFFFFFF, 0x0, 0x0, 0x0, false, false, 0xFFFFFFFF⟩,
  ⟨"CAP_CH_GLO", 0x0F138, [(16, 0x80)], .cap, false, 0xFFFFFFFF, 0x0, 0x0, 0x0, false, false, 0xFFFFFFFF⟩,
  ⟨"CAP_CH_GHI", 0x0F13C, [(16, 0x80)], .cap, false, 0xFFFFFFFF, 0x0, 0x0, 0x0, false, false, 0xFFFFFFFF⟩,
  ⟨"CAP_CH_GRPCFG", 0x0F140, [(16, 0x80)], .cap, false, 0xFF1F, 0x0, 0x0, 0x0, false, false, 0xFF1F⟩,
  ⟨"CAP_CH_UNIT", 0x0F144, [(16, 0x80)], .cap, false, 0xFFFFFFFF, 0x0, 0x0, 0x0, false, false, 0xFFFFFFFF⟩,
  ⟨"CAP_CH_TOL", 0x0F148, [(16, 0x80)], .cap, false, 0xFFFFFFFF, 0x0, 0x0, 0x0, false, false, 0xFFFFFFFF⟩,
  ⟨"CAP_CH_GAPMIN", 0x0F14C, [(16, 0x80)], .cap, false, 0xFFFFFFFF, 0x0, 0x0, 0x0, false, false, 0xFFFFFFFF⟩,
  ⟨"CAP_CH_DBAND", 0x0F150, [(16, 0x80)], .cap, false, 0xFFFFFFFF, 0x0, 0x0, 0x0, false, false, 0xFFFFFFFF⟩,
  ⟨"CAP_CH_WRSEQ", 0x0F154, [(16, 0x80)], .cap, false, 0xFFFFFFF, 0x0, 0x0, 0x0, false, false, 0x0⟩,
  ⟨"CAP_CH_DONESEQ", 0x0F158, [(16, 0x80)], .cap, false, 0xFFFFFFF, 0x0, 0x0, 0x0, false, false, 0x0⟩,
  ⟨"CAP_CH_FREESEQ", 0x0F15C, [(16, 0x80)], .cap, false, 0xFFFFFFF, 0xFFFFFFF, 0x0, 0x0, false, false, 0x0⟩,
  ⟨"CAP_CH_LASTGRP", 0x0F160, [(16, 0x80)], .cap, false, 0x7FFF, 0x0, 0x0, 0x0, false, false, 0x0⟩,
  ⟨"CAP_CH_OVF_GT_LO", 0x0F164, [(16, 0x80)], .cap, false, 0xFFFFFFFF, 0x0, 0x0, 0x0, false, false, 0x0⟩,
  ⟨"CAP_CH_OVF_GT_HI", 0x0F168, [(16, 0x80)], .cap, false, 0xFFFFFFFF, 0x0, 0x0, 0x0, false, false, 0x0⟩,
  ⟨"CAP_CH_CNT_IGN", 0x0F16C, [(16, 0x80)], .cap, false, 0xFFFFFFFF, 0xFFFFFFFF, 0x0, 0x0, false, false, 0x0⟩,
  ⟨"CAP_CH_CNT_TLATE", 0x0F170, [(16, 0x80)], .cap, false, 0xFFFFFFFF, 0xFFFFFFFF, 0x0, 0x0, false, false, 0x0⟩,
  ⟨"CAP_CH_CNT_REC", 0x0F174, [(16, 0x80)], .cap, false, 0xFFFFFFFF, 0xFFFFFFFF, 0x0, 0x0, false, false, 0x0⟩,
  ⟨"CAP_CH_CNT_CORR", 0x0F178, [(16, 0x80)], .cap, false, 0xFFFFFFFF, 0xFFFFFFFF, 0x0, 0x0, false, false, 0x0⟩,
  ⟨"CAP_CH_CNT_GRPERR", 0x0F17C, [(16, 0x80)], .cap, false, 0xFFFFFFFF, 0xFFFFFFFF, 0x0, 0x0, false, false, 0x0⟩,
  ⟨"CAP_MAP_W0", 0x0FA00, [(64, 0x10)], .cap, false, 0x8007FFFF, 0x0, 0x0, 0x0, false, false, 0x8007FFFF⟩,
  ⟨"CAP_MAP_GNUM", 0x0FA04, [(64, 0x10)], .cap, false, 0xFFFFFFFF, 0x0, 0x0, 0x0, false, false, 0xFFFFFFFF⟩,
  ⟨"CAP_MAP_EXPECT_LO", 0x0FA08, [(64, 0x10)], .cap, false, 0xFFFFFFFF, 0x0, 0x0, 0x0, false, false, 0xFFFFFFFF⟩]

/-- Register rows of the CAP block, part 1. -/
def capRows1 : List RegRow := [
  ⟨"CAP_MAP_EXPECT_HI", 0x0FA0C, [(64, 0x10)], .cap, false, 0xFFFFFFFF, 0x0, 0x0, 0x0, false, false, 0xFFFFFFFF⟩]

/-- All register rows of the CAP block. -/
def capRows : List RegRow := capRows0 ++ capRows1

/-- Register rows of the STP block, part 0. -/
def stpRows0 : List RegRow := [
  ⟨"STP_MODE", 0x10000, [(32, 0x40)], .stp, false, 0x3, 0x3, 0x0, 0x0, false, false, 0x0⟩,
  ⟨"STP_CTL", 0x10004, [(32, 0x40)], .stp, false, 0x0, 0x0, 0x0, 0x1, false, false, 0x0⟩,
  ⟨"STP_STAT", 0x10008, [(32, 0x40)], .stp, false, 0xFF, 0x0, 0x10, 0x0, false, false, 0x0⟩,
  ⟨"STP_CFG", 0x1000C, [(32, 0x40)], .stp, false, 0x80FFFFFF, 0x0, 0x0, 0x0, false, false, 0x80FFFFFF⟩,
  ⟨"STP_VEL_LO", 0x10010, [(32, 0x40)], .stp, false, 0xFFFFFFFF, 0xFFFFFFFF, 0x0, 0x0, false, false, 0x0⟩,
  ⟨"STP_VEL_HI", 0x10014, [(32, 0x40)], .stp, false, 0xFFFFFFFF, 0xFFFFFFFF, 0x0, 0x0, false, false, 0x0⟩,
  ⟨"STP_POS_LO", 0x10018, [(32, 0x40)], .stp, false, 0xFFFFFFFF, 0xFFFFFFFF, 0x0, 0x0, false, false, 0x0⟩,
  ⟨"STP_POS_HI", 0x1001C, [(32, 0x40)], .stp, false, 0xFFFFFFFF, 0xFFFFFFFF, 0x0, 0x0, false, false, 0x0⟩,
  ⟨"STP_VMAX_LO", 0x10020, [(32, 0x40)], .stp, false, 0xFFFFFFFF, 0xFFFFFFFF, 0x0, 0x0, true, false, 0xFFFFFFFF⟩,
  ⟨"STP_VMAX_HI", 0x10024, [(32, 0x40)], .stp, false, 0xFFFFFFFF, 0xFFFFFFFF, 0x0, 0x0, true, false, 0xFFFFFFFF⟩,
  ⟨"STP_HMPOS_LO", 0x10028, [(32, 0x40)], .stp, false, 0xFFFFFFFF, 0xFFFFFFFF, 0x0, 0x0, false, false, 0xFFFFFFFF⟩,
  ⟨"STP_HMPOS_HI", 0x1002C, [(32, 0x40)], .stp, false, 0xFFFFFFFF, 0xFFFFFFFF, 0x0, 0x0, false, false, 0xFFFFFFFF⟩,
  ⟨"STP_HMVSEARCH", 0x10030, [(32, 0x40)], .stp, false, 0xFFFFFFFF, 0xFFFFFFFF, 0x0, 0x0, false, false, 0xFFFFFFFF⟩,
  ⟨"STP_HMVCREEP", 0x10034, [(32, 0x40)], .stp, false, 0xFFFFFFFF, 0xFFFFFFFF, 0x0, 0x0, false, false, 0xFFFFFFFF⟩,
  ⟨"STP_HMBACKOFF", 0x10038, [(32, 0x40)], .stp, false, 0xFFFFFFFF, 0xFFFFFFFF, 0x0, 0x0, false, false, 0xFFFFFFFF⟩,
  ⟨"STP_HMTRAVEL", 0x1003C, [(32, 0x40)], .stp, false, 0xFFFFFFFF, 0xFFFFFFFF, 0x0, 0x0, false, false, 0xFFFFFFFF⟩,
  ⟨"STP_GRP_MEM", 0x10800, [(8, 0x20)], .stpGrp, false, 0xFFFFFFFF, 0x0, 0x0, 0x0, false, false, 0xFFFFFFFF⟩,
  ⟨"STP_GRP_CTL", 0x10804, [(8, 0x20)], .stpGrp, false, 0x0, 0x0, 0x0, 0x1, false, false, 0x0⟩,
  ⟨"STP_GRP_STAT", 0x10808, [(8, 0x20)], .stpGrp, false, 0x3, 0x0, 0x2, 0x0, false, false, 0x0⟩,
  ⟨"STP_GRP_VMAX", 0x1080C, [(8, 0x20)], .stpGrp, false, 0xFFFFFFFF, 0xFFFFFFFF, 0x0, 0x0, true, false, 0xFFFFFFFF⟩,
  ⟨"STP_GRP_AMAX", 0x10810, [(8, 0x20)], .stpGrp, false, 0xFFFFFFFF, 0xFFFFFFFF, 0x0, 0x0, true, false, 0xFFFFFFFF⟩,
  ⟨"STP_GRP_VMIN", 0x10814, [(8, 0x20)], .stpGrp, false, 0xFFFFFFFF, 0xFFFFFFFF, 0x0, 0x0, false, false, 0xFFFFFFFF⟩,
  ⟨"STP_GRP_LEFT", 0x10818, [(8, 0x20)], .stpGrp, false, 0xFFFFFFFF, 0x0, 0x0, 0x0, false, false, 0x0⟩,
  ⟨"STP_GRP_CNT_NOUPD", 0x1081C, [(8, 0x20)], .stpGrp, false, 0xFFFFFFFF, 0xFFFFFFFF, 0x0, 0x0, false, false, 0x0⟩]

/-- All register rows of the STP block. -/
def stpRows : List RegRow := stpRows0

/-- Register rows of the CAN block, part 0. -/
def canRows0 : List RegRow := [
  ⟨"CAN_CFG", 0x11000, [(4, 0x400)], .can, false, 0xFF, 0x0, 0x0, 0x0, false, false, 0xFF⟩,
  ⟨"CAN_CTL", 0x11004, [(4, 0x400)], .can, false, 0x0, 0x0, 0x0, 0x7, false, false, 0x0⟩,
  ⟨"CAN_STAT", 0x11008, [(4, 0x400)], .can, false, 0xFF, 0x0, 0xF0, 0x0, false, false, 0x0⟩,
  ⟨"CAN_ERR", 0x1100C, [(4, 0x400)], .can, false, 0xFFFFF, 0x0, 0x0, 0x0, false, false, 0x0⟩,
  ⟨"CAN_NBT", 0x11010, [(4, 0x400)], .can, false, 0x7FFFFFF, 0x7FFFFFF, 0x0, 0x0, false, false, 0x7FFFFFF⟩,
  ⟨"CAN_DBT", 0x11014, [(4, 0x400)], .can, false, 0x3FFFFFF, 0x3FFFFFF, 0x0, 0x0, false, false, 0x3FFFFFF⟩,
  ⟨"CAN_TDCR", 0x11018, [(4, 0x400)], .can, false, 0xFF, 0x0, 0x0, 0x0, false, false, 0x0⟩,
  ⟨"CAN_TS", 0x1101C, [(4, 0x400)], .can, false, 0xFFFFFFFF, 0x0, 0x0, 0x0, false, false, 0x0⟩,
  ⟨"CAN_CNT_RXOK", 0x11020, [(4, 0x400)], .can, false, 0xFFFFFFFF, 0xFFFFFFFF, 0x0, 0x0, false, false, 0x0⟩,
  ⟨"CAN_CNT_TXOK", 0x11024, [(4, 0x400)], .can, false, 0xFFFFFFFF, 0xFFFFFFFF, 0x0, 0x0, false, false, 0x0⟩,
  ⟨"CAN_CNT_RXOVR", 0x11028, [(4, 0x400)], .can, false, 0xFFFFFFFF, 0xFFFFFFFF, 0x0, 0x0, false, false, 0x0⟩,
  ⟨"CAN_CNT_BUSOFF", 0x1102C, [(4, 0x400)], .can, false, 0xFFFFFFFF, 0xFFFFFFFF, 0x0, 0x0, false, false, 0x0⟩,
  ⟨"CAN_CNT_PXE", 0x11030, [(4, 0x400)], .can, false, 0xFFFFFFFF, 0xFFFFFFFF, 0x0, 0x0, false, false, 0x0⟩,
  ⟨"TXB_CTL", 0x11040, [(4, 0x400), (3, 0x50)], .can, false, 0x75, 0x5, 0x0, 0x2, false, false, 0x0⟩,
  ⟨"TXB_ID", 0x11044, [(4, 0x400), (3, 0x50)], .can, false, 0x1FFFFFFF, 0x1FFFFFFF, 0x0, 0x0, false, false, 0x0⟩,
  ⟨"TXB_FRM", 0x11048, [(4, 0x400), (3, 0x50)], .can, false, 0xFF, 0xFF, 0x0, 0x0, false, false, 0x0⟩,
  ⟨"TXB_TS", 0x1104C, [(4, 0x400), (3, 0x50)], .can, false, 0xFFFFFFFF, 0x0, 0x0, 0x0, false, false, 0x0⟩,
  ⟨"TXB_DATA", 0x11050, [(4, 0x400), (3, 0x50), (16, 0x4)], .can, false, 0xFFFFFFFF, 0xFFFFFFFF, 0x0, 0x0, false, false, 0x0⟩,
  ⟨"CAN_RXF_STAT", 0x11140, [(4, 0x400)], .can, false, 0x7F7F, 0x7F00, 0x0, 0x0, false, false, 0x0⟩,
  ⟨"CAN_RXF_POP", 0x11144, [(4, 0x400)], .can, false, 0x0, 0x0, 0x0, 0xFFFFFFFF, false, false, 0x0⟩,
  ⟨"CAN_RXF_ID", 0x11150, [(4, 0x400)], .can, false, 0x1FFFFFFF, 0x0, 0x0, 0x0, false, false, 0x0⟩,
  ⟨"CAN_RXF_FRM", 0x11154, [(4, 0x400)], .can, false, 0x3F01FF, 0x0, 0x0, 0x0, false, false, 0x0⟩,
  ⟨"CAN_RXF_TS", 0x11158, [(4, 0x400)], .can, false, 0xFFFFFFFF, 0x0, 0x0, 0x0, false, false, 0x0⟩,
  ⟨"CAN_RXF_DATA", 0x11160, [(4, 0x400), (16, 0x4)], .can, false, 0xFFFFFFFF, 0x0, 0x0, 0x0, false, false, 0x0⟩,
  ⟨"CAN_FLT_ID", 0x11200, [(4, 0x400), (32, 0x8)], .can, false, 0xDFFFFFFF, 0x0, 0x0, 0x0, false, false, 0xDFFFFFFF⟩,
  ⟨"CAN_FLT_MASK", 0x11204, [(4, 0x400), (32, 0x8)], .can, false, 0x1FFFFFFF, 0x0, 0x0, 0x0, false, false, 0x1FFFFFFF⟩]

/-- All register rows of the CAN block. -/
def canRows : List RegRow := canRows0

/-- Register rows of the AX block, part 0. -/
def axRows0 : List RegRow := [
  ⟨"AX_CTL", 0x20000, [(128, 0x400)], .axis, false, 0x3, 0x3, 0x0, 0x4, false, false, 0x0⟩,
  ⟨"AX_STAT", 0x20004, [(128, 0x400)], .axis, false, 0x3FFF, 0x0, 0x3FF8, 0x0, false, false, 0x0⟩,
  ⟨"AX_FAULT", 0x20008, [(128, 0x400)], .axis, false, 0xF0F, 0x0, 0x0, 0x0, false, false, 0x0⟩,
  ⟨"AX_CFG", 0x2000C, [(128, 0x400)], .axis, false, 0x7F1FFF, 0x0, 0x0, 0x0, false, false, 0x7F1FFF⟩,
  ⟨"AX_PSEL", 0x20010, [(128, 0x400)], .axis, false, 0x1, 0x0, 0x0, 0x0, false, false, 0x0⟩,
  ⟨"AX_AGE", 0x20014, [(128, 0x400)], .axis, false, 0xFFFFFFFF, 0x0, 0x0, 0x0, false, false, 0x0⟩,
  ⟨"AX_PFB_LO", 0x20020, [(128, 0x400)], .axis, false, 0xFFFFFFFF, 0x0, 0x0, 0x0, false, false, 0x0⟩,
  ⟨"AX_PFB_HI", 0x20024, [(128, 0x400)], .axis, false, 0xFFFFFFFF, 0x0, 0x0, 0x0, false, false, 0x0⟩,
  ⟨"AX_VFB_LO", 0x20028, [(128, 0x400)], .axis, false, 0xFFFFFFFF, 0x0, 0x0, 0x0, false, false, 0x0⟩,
  ⟨"AX_VFB_HI", 0x2002C, [(128, 0x400)], .axis, false, 0xFFFFFFFF, 0x0, 0x0, 0x0, false, false, 0x0⟩,
  ⟨"AX_IA", 0x20030, [(128, 0x400)], .axis, false, 0xFFFFFFFF, 0x0, 0x0, 0x0, false, false, 0x0⟩,
  ⟨"AX_IB", 0x20034, [(128, 0x400)], .axis, false, 0xFFFFFFFF, 0x0, 0x0, 0x0, false, false, 0x0⟩,
  ⟨"AX_VDC", 0x20038, [(128, 0x400)], .axis, false, 0xFFFFFFFF, 0x0, 0x0, 0x0, false, false, 0x0⟩,
  ⟨"AX_FBTAG", 0x2003C, [(128, 0x400)], .axis, false, 0xFFFFFFFF, 0x0, 0x0, 0x0, false, false, 0x0⟩,
  ⟨"AX_RS_VCMD_LO", 0x20040, [(128, 0x400), (2, 0x20)], .axis, false, 0xFFFFFFFF, 0x0, 0x0, 0x0, false, false, 0x0⟩,
  ⟨"AX_RS_VCMD_HI", 0x20044, [(128, 0x400), (2, 0x20)], .axis, false, 0xFFFFFFFF, 0x0, 0x0, 0x0, false, false, 0x0⟩,
  ⟨"AX_RS_VSLOPE_LO", 0x20048, [(128, 0x400), (2, 0x20)], .axis, false, 0xFFFFFFFF, 0x0, 0x0, 0x0, false, false, 0x0⟩,
  ⟨"AX_RS_VSLOPE_HI", 0x2004C, [(128, 0x400), (2, 0x20)], .axis, false, 0xFFFFFFFF, 0x0, 0x0, 0x0, false, false, 0x0⟩,
  ⟨"AX_RS_TAG", 0x20050, [(128, 0x400), (2, 0x20)], .axis, false, 0xFFFFFFFF, 0x0, 0x0, 0x0, false, false, 0x0⟩,
  ⟨"AX_PTGT_LO", 0x20080, [(128, 0x400)], .axis, false, 0xFFFFFFFF, 0x0, 0x0, 0x0, false, false, 0x0⟩,
  ⟨"AX_PTGT_HI", 0x20084, [(128, 0x400)], .axis, false, 0xFFFFFFFF, 0x0, 0x0, 0x0, false, false, 0x0⟩,
  ⟨"AX_VTGT_LO", 0x20088, [(128, 0x400)], .axis, false, 0xFFFFFFFF, 0x0, 0x0, 0x0, false, false, 0x0⟩,
  ⟨"AX_VTGT_HI", 0x2008C, [(128, 0x400)], .axis, false, 0xFFFFFFFF, 0x0, 0x0, 0x0, false, false, 0x0⟩,
  ⟨"AX_ATGT_LO", 0x20090, [(128, 0x400)], .axis, false, 0xFFFFFFFF, 0x0, 0x0, 0x0, false, false, 0x0⟩,
  ⟨"AX_ATGT_HI", 0x20094, [(128, 0x400)], .axis, false, 0xFFFFFFFF, 0x0, 0x0, 0x0, false, false, 0x0⟩,
  ⟨"AX_PERR_LO", 0x20098, [(128, 0x400)], .axis, false, 0xFFFFFFFF, 0x0, 0x0, 0x0, false, false, 0x0⟩,
  ⟨"AX_PERR_HI", 0x2009C, [(128, 0x400)], .axis, false, 0xFFFFFFFF, 0x0, 0x0, 0x0, false, false, 0x0⟩,
  ⟨"AX_EV", 0x200A0, [(128, 0x400)], .axis, false, 0xFFFFFFFF, 0x0, 0x0, 0x0, false, false, 0x0⟩,
  ⟨"AX_GAIN", 0x200A4, [(128, 0x400)], .axis, false, 0xFFFFFFFF, 0x0, 0x0, 0x0, false, false, 0x0⟩,
  ⟨"AX_TQCMD", 0x200A8, [(128, 0x400)], .axis, false, 0xFFFFFFFF, 0x0, 0x0, 0x0, false, false, 0x0⟩,
  ⟨"AX_TQOUT", 0x200AC, [(128, 0x400)], .axis, false, 0xFFFFFFFF, 0x0, 0x0, 0x0, false, false, 0x0⟩,
  ⟨"AX_ID", 0x200B0, [(128, 0x400)], .axis, false, 0xFFFFFFFF, 0x0, 0x0, 0x0, false, false, 0x0⟩,
  ⟨"AX_IQ", 0x200B4, [(128, 0x400)], .axis, false, 0xFFFFFFFF, 0x0, 0x0, 0x0, false, false, 0x0⟩,
  ⟨"AX_VD", 0x200B8, [(128, 0x400)], .axis, false, 0xFFFFFFFF, 0x0, 0x0, 0x0, false, false, 0x0⟩,
  ⟨"AX_VQ", 0x200BC, [(128, 0x400)], .axis, false, 0xFFFFFFFF, 0x0, 0x0, 0x0, false, false, 0x0⟩,
  ⟨"AX_DUTY_AB", 0x200C0, [(128, 0x400)], .axis, false, 0xFFFFFFFF, 0x0, 0x0, 0x0, false, false, 0x0⟩,
  ⟨"AX_DUTY_C", 0x200C4, [(128, 0x400)], .axis, false, 0x1FFFF, 0x0, 0x0, 0x0, false, false, 0x0⟩,
  ⟨"AX_LS_CTL", 0x20100, [(128, 0x400)], .axis, false, 0xF, 0xF, 0x0, 0x10, false, false, 0x0⟩,
  ⟨"AX_LS_STAT", 0x20104, [(128, 0x400)], .axis, false, 0x1FF, 0x0, 0x10A, 0x0, false, false, 0x0⟩,
  ⟨"AX_LS_NUM", 0x20108, [(128, 0x400)], .axis, false, 0xFFFFFFFF, 0xFFFFFFFF, 0x0, 0x0, false, false, 0xFFFFFFFF⟩]

/-- Register rows of the AX block, part 1. -/
def axRows1 : List RegRow := [
  ⟨"AX_LS_DEN", 0x2010C, [(128, 0x400)], .axis, false, 0xFFFFFFFF, 0xFFFFFFFF, 0x0, 0x0, false, false, 0xFFFFFFFF⟩,
  ⟨"AX_LS_PHASE_LO", 0x20110, [(128, 0x400)], .axis, false, 0xFFFFFFFF, 0xFFFFFFFF, 0x0, 0x0, false, false, 0xFFFFFFFF⟩,
  ⟨"AX_LS_PHASE_HI", 0x20114, [(128, 0x400)], .axis, false, 0xFFFFFFFF, 0xFFFFFFFF, 0x0, 0x0, false, false, 0xFFFFFFFF⟩,
  ⟨"AX_LS_SETP_LO", 0x20118, [(128, 0x400)], .axis, false, 0xFFFFFFFF, 0xFFFFFFFF, 0x0, 0x0, false, false, 0x0⟩,
  ⟨"AX_LS_SETP_HI", 0x2011C, [(128, 0x400)], .axis, false, 0xFFFFFFFF, 0xFFFFFFFF, 0x0, 0x0, false, false, 0x0⟩,
  ⟨"AX_LS_TRIMPEND_LO", 0x20120, [(128, 0x400)], .axis, false, 0xFFFFFFFF, 0x0, 0x0, 0x0, false, false, 0x0⟩,
  ⟨"AX_LS_TRIMPEND_HI", 0x20124, [(128, 0x400)], .axis, false, 0xFFFFFFFF, 0x0, 0x0, 0x0, false, false, 0x0⟩,
  ⟨"AX_LS_TRIMSUM_LO", 0x20128, [(128, 0x400)], .axis, false, 0xFFFFFFFF, 0x0, 0x0, 0x0, false, false, 0x0⟩,
  ⟨"AX_LS_TRIMSUM_HI", 0x2012C, [(128, 0x400)], .axis, false, 0xFFFFFFFF, 0x0, 0x0, 0x0, false, false, 0x0⟩,
  ⟨"AX_HM_POS_LO", 0x20130, [(128, 0x400)], .axis, false, 0xFFFFFFFF, 0xFFFFFFFF, 0x0, 0x0, false, false, 0xFFFFFFFF⟩,
  ⟨"AX_HM_POS_HI", 0x20134, [(128, 0x400)], .axis, false, 0xFFFFFFFF, 0xFFFFFFFF, 0x0, 0x0, false, false, 0xFFFFFFFF⟩,
  ⟨"AX_HM_OFFS_LO", 0x20138, [(128, 0x400)], .axis, false, 0xFFFFFFFF, 0x0, 0x0, 0x0, false, false, 0x0⟩,
  ⟨"AX_HM_OFFS_HI", 0x2013C, [(128, 0x400)], .axis, false, 0xFFFFFFFF, 0x0, 0x0, 0x0, false, false, 0x0⟩,
  ⟨"AX_LS_TRIMSTEP", 0x20140, [(128, 0x400)], .axis, false, 0xFFFFFFFF, 0xFFFFFFFF, 0x0, 0x0, false, false, 0xFFFFFFFF⟩,
  ⟨"AX_LS_VMAX", 0x20144, [(128, 0x400)], .axis, false, 0xFFFFFFFF, 0xFFFFFFFF, 0x0, 0x0, true, false, 0xFFFFFFFF⟩,
  ⟨"AX_LS_AMAX", 0x20148, [(128, 0x400)], .axis, false, 0xFFFFFFFF, 0xFFFFFFFF, 0x0, 0x0, true, false, 0xFFFFFFFF⟩,
  ⟨"AX_LS_JMAX", 0x2014C, [(128, 0x400)], .axis, false, 0xFFFFFFFF, 0xFFFFFFFF, 0x0, 0x0, true, false, 0xFFFFFFFF⟩,
  ⟨"AX_LS_LAGMAX", 0x20150, [(128, 0x400)], .axis, false, 0xFFFFFFFF, 0xFFFFFFFF, 0x0, 0x0, true, false, 0xFFFFFFFF⟩,
  ⟨"AX_LS_TOL", 0x20154, [(128, 0x400)], .axis, false, 0xFFFFFFFF, 0xFFFFFFFF, 0x0, 0x0, false, false, 0xFFFFFFFF⟩,
  ⟨"AX_LS_KC", 0x20158, [(128, 0x400)], .axis, false, 0xFFFFFFFF, 0xFFFFFFFF, 0x0, 0x0, false, false, 0xFFFFFFFF⟩,
  ⟨"AX_LS_ENGMAX", 0x2015C, [(128, 0x400)], .axis, false, 0xFFFFFFFF, 0xFFFFFFFF, 0x0, 0x0, false, false, 0xFFFFFFFF⟩,
  ⟨"AX_LS_LAG", 0x20160, [(128, 0x400)], .axis, false, 0xFFFFFFFF, 0x0, 0x0, 0x0, false, false, 0x0⟩,
  ⟨"AX_HM_CFG", 0x20164, [(128, 0x400)], .axis, false, 0xF, 0xF, 0x0, 0x0, false, false, 0xF⟩,
  ⟨"AX_HM_VSEARCH", 0x20168, [(128, 0x400)], .axis, false, 0xFFFFFFFF, 0xFFFFFFFF, 0x0, 0x0, false, false, 0xFFFFFFFF⟩,
  ⟨"AX_HM_VCREEP", 0x2016C, [(128, 0x400)], .axis, false, 0xFFFFFFFF, 0xFFFFFFFF, 0x0, 0x0, false, false, 0xFFFFFFFF⟩,
  ⟨"AX_HM_BACKOFF", 0x20170, [(128, 0x400)], .axis, false, 0xFFFFFFFF, 0xFFFFFFFF, 0x0, 0x0, false, false, 0xFFFFFFFF⟩,
  ⟨"AX_HM_TRAVEL", 0x20174, [(128, 0x400)], .axis, false, 0xFFFFFFFF, 0xFFFFFFFF, 0x0, 0x0, false, false, 0xFFFFFFFF⟩,
  ⟨"AX_LS_CNT_LIMITED", 0x20178, [(128, 0x400)], .axis, false, 0xFFFFFFFF, 0xFFFFFFFF, 0x0, 0x0, false, false, 0x0⟩,
  ⟨"AX_LS_CNT_TRIMDROP", 0x2017C, [(128, 0x400)], .axis, false, 0xFFFFFFFF, 0xFFFFFFFF, 0x0, 0x0, false, false, 0x0⟩,
  ⟨"AX_PERR_MAX", 0x20180, [(128, 0x400)], .axis, false, 0xFFFFFFFF, 0xFFFFFFFF, 0x0, 0x0, true, false, 0xFFFFFFFF⟩,
  ⟨"AX_VEL_MAX", 0x20184, [(128, 0x400)], .axis, false, 0xFFFFFFFF, 0xFFFFFFFF, 0x0, 0x0, true, false, 0xFFFFFFFF⟩,
  ⟨"AX_OVSPD", 0x20188, [(128, 0x400)], .axis, false, 0xFFFFFFFF, 0xFFFFFFFF, 0x0, 0x0, true, false, 0xFFFFFFFF⟩,
  ⟨"AX_TQ_LIM", 0x2018C, [(128, 0x400)], .axis, false, 0xFFFFFFFF, 0xFFFFFFFF, 0x0, 0x0, true, false, 0xFFFFFFFF⟩,
  ⟨"AX_I_MAX", 0x20190, [(128, 0x400)], .axis, false, 0xFFFFFFFF, 0xFFFFFFFF, 0x0, 0x0, true, false, 0xFFFFFFFF⟩,
  ⟨"AX_I_TRIP", 0x20194, [(128, 0x400)], .axis, false, 0xFFFFFFFF, 0xFFFFFFFF, 0x0, 0x0, true, false, 0xFFFFFFFF⟩,
  ⟨"AX_I_LIM", 0x20198, [(128, 0x400)], .axis, false, 0xFFFFFFFF, 0xFFFFFFFF, 0x0, 0x0, true, false, 0xFFFFFFFF⟩,
  ⟨"AX_STOP_DEC", 0x2019C, [(128, 0x400)], .axis, false, 0xFFFFFFFF, 0xFFFFFFFF, 0x0, 0x0, true, false, 0xFFFFFFFF⟩,
  ⟨"AX_STOP_TIME", 0x201A0, [(128, 0x400)], .axis, false, 0xFFFFFFFF, 0xFFFFFFFF, 0x0, 0x0, true, false, 0xFFFFFFFF⟩,
  ⟨"AX_VSTILL", 0x201A4, [(128, 0x400)], .axis, false, 0xFFFFFFFF, 0xFFFFFFFF, 0x0, 0x0, true, false, 0xFFFFFFFF⟩,
  ⟨"AX_VDC_MIN", 0x201A8, [(128, 0x400)], .axis, false, 0xFFFFFFFF, 0xFFFFFFFF, 0x0, 0x0, true, false, 0xFFFFFFFF⟩]

/-- Register rows of the AX block, part 2. -/
def axRows2 : List RegRow := [
  ⟨"AX_KP_LO", 0x20200, [(128, 0x400)], .axis, false, 0xFFFFFFFF, 0xFFFFFFFF, 0x0, 0x0, false, false, 0xFFFFFFFF⟩,
  ⟨"AX_KP_HI", 0x20204, [(128, 0x400)], .axis, false, 0xFFFFFFFF, 0xFFFFFFFF, 0x0, 0x0, false, false, 0xFFFFFFFF⟩,
  ⟨"AX_KFF_LO", 0x20208, [(128, 0x400)], .axis, false, 0xFFFFFFFF, 0xFFFFFFFF, 0x0, 0x0, false, false, 0xFFFFFFFF⟩,
  ⟨"AX_KFF_HI", 0x2020C, [(128, 0x400)], .axis, false, 0xFFFFFFFF, 0xFFFFFFFF, 0x0, 0x0, false, false, 0xFFFFFFFF⟩,
  ⟨"AX_KV_LO", 0x20210, [(128, 0x400)], .axis, false, 0xFFFFFFFF, 0xFFFFFFFF, 0x0, 0x0, false, false, 0xFFFFFFFF⟩,
  ⟨"AX_KV_HI", 0x20214, [(128, 0x400)], .axis, false, 0xFFFFFFFF, 0xFFFFFFFF, 0x0, 0x0, false, false, 0xFFFFFFFF⟩,
  ⟨"AX_KI_LO", 0x20218, [(128, 0x400)], .axis, false, 0xFFFFFFFF, 0xFFFFFFFF, 0x0, 0x0, false, false, 0xFFFFFFFF⟩,
  ⟨"AX_KI_HI", 0x2021C, [(128, 0x400)], .axis, false, 0xFFFFFFFF, 0xFFFFFFFF, 0x0, 0x0, false, false, 0xFFFFFFFF⟩,
  ⟨"AX_KA_LO", 0x20220, [(128, 0x400)], .axis, false, 0xFFFFFFFF, 0xFFFFFFFF, 0x0, 0x0, false, false, 0xFFFFFFFF⟩,
  ⟨"AX_KA_HI", 0x20224, [(128, 0x400)], .axis, false, 0xFFFFFFFF, 0xFFFFFFFF, 0x0, 0x0, false, false, 0xFFFFFFFF⟩,
  ⟨"AX_EV_FULL", 0x20228, [(128, 0x400)], .axis, false, 0xFFFFFFFF, 0xFFFFFFFF, 0x0, 0x0, false, false, 0xFFFFFFFF⟩,
  ⟨"AX_IDREF", 0x20230, [(128, 0x400)], .axis, false, 0xFFFFFFFF, 0xFFFFFFFF, 0x0, 0x0, false, false, 0xFFFFFFFF⟩,
  ⟨"AX_NA_FREQ", 0x20280, [(128, 0x400)], .axis, false, 0xFFFFFFFF, 0xFFFFFFFF, 0x0, 0x0, false, false, 0xFFFFFFFF⟩,
  ⟨"AX_NA_ZZ", 0x20284, [(128, 0x400)], .axis, false, 0xFFFFFFFF, 0x0, 0x0, 0x0, false, false, 0xFFFFFFFF⟩,
  ⟨"AX_NA_ZP", 0x20288, [(128, 0x400)], .axis, false, 0xFFFFFFFF, 0x0, 0x0, 0x0, false, false, 0xFFFFFFFF⟩,
  ⟨"AX_TRK_CTL", 0x2028C, [(128, 0x400)], .axis, false, 0x1, 0x1, 0x0, 0x2, false, false, 0x0⟩,
  ⟨"AX_TRK_STAT", 0x20290, [(128, 0x400)], .axis, false, 0xFFFF000F, 0x0, 0x0, 0x0, false, false, 0x0⟩,
  ⟨"AX_TRK_FEST", 0x20294, [(128, 0x400)], .axis, false, 0xFFFFFFFF, 0x0, 0x0, 0x0, false, false, 0x0⟩,
  ⟨"AX_TRK_RATIO", 0x20298, [(128, 0x400)], .axis, false, 0xFFFFFFFF, 0x0, 0x0, 0x0, false, false, 0x0⟩,
  ⟨"AX_TRK_MOVES", 0x2029C, [(128, 0x400)], .axis, false, 0xFFFFFFFF, 0xFFFFFFFF, 0x0, 0x0, false, false, 0x0⟩,
  ⟨"AX_FA_MIN", 0x202A0, [(128, 0x400)], .axis, false, 0xFFFFFFFF, 0x0, 0x0, 0x0, false, false, 0xFFFFFFFF⟩,
  ⟨"AX_FA_MAX", 0x202A4, [(128, 0x400)], .axis, false, 0xFFFFFFFF, 0x0, 0x0, 0x0, false, false, 0xFFFFFFFF⟩,
  ⟨"AX_TRK_SLEW", 0x202A8, [(128, 0x400)], .axis, false, 0xFFFFFFFF, 0x0, 0x0, 0x0, false, false, 0xFFFFFFFF⟩,
  ⟨"AX_TRK_HYST", 0x202AC, [(128, 0x400)], .axis, false, 0xFFFFFFFF, 0x0, 0x0, 0x0, false, false, 0xFFFFFFFF⟩,
  ⟨"AX_TRK_DWELL", 0x202B0, [(128, 0x400)], .axis, false, 0xFFFFFFFF, 0x0, 0x0, 0x0, false, false, 0xFFFFFFFF⟩,
  ⟨"AX_TRK_GAP", 0x202B4, [(128, 0x400)], .axis, false, 0xFFFFFFFF, 0x0, 0x0, 0x0, false, false, 0xFFFFFFFF⟩,
  ⟨"AX_TRK_DET", 0x202B8, [(128, 0x400)], .axis, false, 0xFFFFFFFF, 0x0, 0x0, 0x0, false, false, 0xFFFFFFFF⟩,
  ⟨"AX_TRK_VMIN", 0x202BC, [(128, 0x400)], .axis, false, 0xFFFFFFFF, 0x0, 0x0, 0x0, false, false, 0xFFFFFFFF⟩,
  ⟨"AX_CS_PP", 0x20300, [(128, 0x400)], .axis, false, 0xFFFFFFFF, 0x0, 0x0, 0x0, false, false, 0xFFFFFFFF⟩,
  ⟨"AX_CS_CPR", 0x20304, [(128, 0x400)], .axis, false, 0xFFFFFFFF, 0x0, 0x0, 0x0, false, false, 0xFFFFFFFF⟩,
  ⟨"AX_CS_POFF_LO", 0x20308, [(128, 0x400)], .axis, false, 0xFFFFFFFF, 0x0, 0x0, 0x0, false, false, 0xFFFFFFFF⟩,
  ⟨"AX_CS_POFF_HI", 0x2030C, [(128, 0x400)], .axis, false, 0xFFFFFFFF, 0x0, 0x0, 0x0, false, false, 0xFFFFFFFF⟩,
  ⟨"AX_CS_IQPT_LO", 0x20310, [(128, 0x400)], .axis, false, 0xFFFFFFFF, 0x0, 0x0, 0x0, false, false, 0xFFFFFFFF⟩,
  ⟨"AX_CS_IQPT_HI", 0x20314, [(128, 0x400)], .axis, false, 0xFFFFFFFF, 0x0, 0x0, 0x0, false, false, 0xFFFFFFFF⟩,
  ⟨"AX_CS_KPD_LO", 0x20318, [(128, 0x400)], .axis, false, 0xFFFFFFFF, 0x0, 0x0, 0x0, false, false, 0xFFFFFFFF⟩,
  ⟨"AX_CS_KPD_HI", 0x2031C, [(128, 0x400)], .axis, false, 0xFFFFFFFF, 0x0, 0x0, 0x0, false, false, 0xFFFFFFFF⟩,
  ⟨"AX_CS_KID_LO", 0x20320, [(128, 0x400)], .axis, false, 0xFFFFFFFF, 0x0, 0x0, 0x0, false, false, 0xFFFFFFFF⟩,
  ⟨"AX_CS_KID_HI", 0x20324, [(128, 0x400)], .axis, false, 0xFFFFFFFF, 0x0, 0x0, 0x0, false, false, 0xFFFFFFFF⟩,
  ⟨"AX_CS_KPQ_LO", 0x20328, [(128, 0x400)], .axis, false, 0xFFFFFFFF, 0x0, 0x0, 0x0, false, false, 0xFFFFFFFF⟩,
  ⟨"AX_CS_KPQ_HI", 0x2032C, [(128, 0x400)], .axis, false, 0xFFFFFFFF, 0x0, 0x0, 0x0, false, false, 0xFFFFFFFF⟩]

/-- Register rows of the AX block, part 3. -/
def axRows3 : List RegRow := [
  ⟨"AX_CS_KIQ_LO", 0x20330, [(128, 0x400)], .axis, false, 0xFFFFFFFF, 0x0, 0x0, 0x0, false, false, 0xFFFFFFFF⟩,
  ⟨"AX_CS_KIQ_HI", 0x20334, [(128, 0x400)], .axis, false, 0xFFFFFFFF, 0x0, 0x0, 0x0, false, false, 0xFFFFFFFF⟩,
  ⟨"AX_CS_LD_LO", 0x20338, [(128, 0x400)], .axis, false, 0xFFFFFFFF, 0x0, 0x0, 0x0, false, false, 0xFFFFFFFF⟩,
  ⟨"AX_CS_LD_HI", 0x2033C, [(128, 0x400)], .axis, false, 0xFFFFFFFF, 0x0, 0x0, 0x0, false, false, 0xFFFFFFFF⟩,
  ⟨"AX_CS_LQ_LO", 0x20340, [(128, 0x400)], .axis, false, 0xFFFFFFFF, 0x0, 0x0, 0x0, false, false, 0xFFFFFFFF⟩,
  ⟨"AX_CS_LQ_HI", 0x20344, [(128, 0x400)], .axis, false, 0xFFFFFFFF, 0x0, 0x0, 0x0, false, false, 0xFFFFFFFF⟩,
  ⟨"AX_CS_PSI_LO", 0x20348, [(128, 0x400)], .axis, false, 0xFFFFFFFF, 0x0, 0x0, 0x0, false, false, 0xFFFFFFFF⟩,
  ⟨"AX_CS_PSI_HI", 0x2034C, [(128, 0x400)], .axis, false, 0xFFFFFFFF, 0x0, 0x0, 0x0, false, false, 0xFFFFFFFF⟩,
  ⟨"AX_CS_TAPPLY", 0x20350, [(128, 0x400)], .axis, false, 0xFFFFFFFF, 0x0, 0x0, 0x0, false, false, 0xFFFFFFFF⟩,
  ⟨"AX_CS_IFS", 0x20354, [(128, 0x400)], .axis, false, 0xFFFFFFFF, 0x0, 0x0, 0x0, false, false, 0xFFFFFFFF⟩,
  ⟨"AX_CNT_LATE", 0x20380, [(128, 0x400)], .axis, false, 0xFFFFFFFF, 0xFFFFFFFF, 0x0, 0x0, false, false, 0x0⟩,
  ⟨"AX_CNT_MISS", 0x20384, [(128, 0x400)], .axis, false, 0xFFFFFFFF, 0xFFFFFFFF, 0x0, 0x0, false, false, 0x0⟩,
  ⟨"AX_CNT_STALE", 0x20388, [(128, 0x400)], .axis, false, 0xFFFFFFFF, 0xFFFFFFFF, 0x0, 0x0, false, false, 0x0⟩,
  ⟨"AX_CNT_PSKIP", 0x2038C, [(128, 0x400)], .axis, false, 0xFFFFFFFF, 0xFFFFFFFF, 0x0, 0x0, false, false, 0x0⟩,
  ⟨"AX_CNT_AGED", 0x20390, [(128, 0x400)], .axis, false, 0xFFFFFFFF, 0xFFFFFFFF, 0x0, 0x0, false, false, 0x0⟩,
  ⟨"AX_CNT_LIMT", 0x20394, [(128, 0x400)], .axis, false, 0xFFFFFFFF, 0xFFFFFFFF, 0x0, 0x0, false, false, 0x0⟩,
  ⟨"AX_CNT_SAT", 0x20398, [(128, 0x400)], .axis, false, 0xFFFFFFFF, 0xFFFFFFFF, 0x0, 0x0, false, false, 0x0⟩,
  ⟨"AX_CNT_CLRREJ", 0x2039C, [(128, 0x400)], .axis, false, 0xFFFFFFFF, 0xFFFFFFFF, 0x0, 0x0, false, false, 0x0⟩,
  ⟨"AX_STAGE", 0x203C0, [(128, 0x400), (16, 0x4)], .axis, false, 0xFFFFFFFF, 0x0, 0x0, 0x0, false, false, 0x0⟩]

/-- All register rows of the AX block. -/
def axRows : List RegRow := axRows0 ++ axRows1 ++ axRows2 ++ axRows3

/-- Register rows of the MBX block, part 0. -/
def mbxRows0 : List RegRow := [
  ⟨"HST_CMD_DESC", 0xC0000, [(16, 0x4)], .host, false, 0xFFFFFFFF, 0xFFFFFFFF, 0x0, 0x0, false, false, 0x0⟩,
  ⟨"HST_CMD_GO", 0xC0040, [], .host, true, 0x0, 0x0, 0x0, 0x1, false, false, 0x0⟩,
  ⟨"HST_CMD_RESULT", 0xC0044, [], .host, false, 0x1FFFFFF, 0x0, 0x0, 0x0, false, false, 0x0⟩,
  ⟨"HST_CFIFO_STAT", 0xC0080, [], .host, false, 0x1FF, 0x0, 0x0, 0x0, false, false, 0x0⟩,
  ⟨"HST_CFIFO_POP", 0xC0084, [], .host, false, 0x0, 0x0, 0x0, 0xFFFFFFFF, false, false, 0x0⟩,
  ⟨"HST_CFIFO_W", 0xC0090, [(4, 0x4)], .host, false, 0xFFFFFFFF, 0x0, 0x0, 0x0, false, false, 0x0⟩,
  ⟨"HST_RSP_SEL", 0xC0100, [], .host, false, 0xFFFF, 0xFFFF, 0x0, 0x0, false, false, 0x0⟩,
  ⟨"HST_RSP_STAT", 0xC0104, [], .host, false, 0x8000FFFF, 0x0, 0x0, 0x0, false, false, 0x0⟩,
  ⟨"HST_RSP_DATA", 0xC0140, [(64, 0x4)], .host, false, 0xFFFFFFFF, 0x0, 0x0, 0x0, false, false, 0x0⟩]

/-- All register rows of the MBX block. -/
def mbxRows : List RegRow := mbxRows0

end Reg

end Sys2Proof.Machine
end

