-- ==== Sys2Proof/Machine/State.lean ====
section
/-! DEFINITION. The state of the part: the control die, the Sheepdog, the power manager and the queue of waiting
commands, all of it plain data; the two reason types; and `State.reset`, the part at release of the internal power-on
reset (R375, R380). Registers are held by BAR0 offset in `Die.regs`; every other field is state that the rules give
the part and no register shows whole. -/

namespace Sys2Proof.Machine

/-- Why a step can stop. -/
inductive Fault where
  /-- VIN was driven above the absolute maximum rating of 45 V: operation outside the ratings is not specified
  (R377, R401). Raised by the commands that bring a VIN value. Safe: the machine stops where the spec gives no effect. -/
  | ratingExceeded
  deriving DecidableEq, Repr

/-- A command the model gives no meaning. -/
inductive Refusal where
  /-- The command has no meaning in the model yet. Raised only by arms of `exec`. Safe: nothing can be proved of it. -/
  | notModelled (mnemonic : String)
  deriving DecidableEq, Repr

/-- The 8 flags of SR (R60). -/
structure Flags where
  z : Bool
  n : Bool
  v : Bool
  lim : Bool
  qf : Bool
  sat : Bool
  eovf : Bool
  eunf : Bool
  deriving DecidableEq, Repr

/-- One loop-stack entry: body start, the word after the body, body iterations left (R60, R83). -/
structure LoopEnt where
  start : Nat
  stop : Nat
  left : Nat
  deriving DecidableEq, Repr

/-- The registers of one context (R60). `acc` holds {imaginary half, real half}. -/
structure Ctx where
  d : Vector DWord 16
  e : Vector (BitVec 8) 4
  acc : Vector (BitVec 128) 4
  xa : Vector (BitVec 10) 4
  am : Vector Bool 4
  p : Vector (BitVec 16) 8
  b : Vector (BitVec 16) 8
  l : Vector (BitVec 16) 8
  n : Vector (BitVec 16) 8
  sr : Flags
  pc : BitVec 14
  calls : List (BitVec 14)
  loops : List LoopEnt
  deriving DecidableEq, Repr

/-- An instance of a task descriptor (R153, R157): descriptor index, level, argument, the beat index of
its release, busy cycles used, its place in the order of releases (R159), whether it is parked (R163), its source, its
context, and for a vendor task the inputs of its beat (R95, R113, R116, R120): for POSITION p_fb, p_tgt, v_tgt, a_tgt and
whether the axis computed at its release, for ADAPT AX_EV, v_fb, whether LIMT or LIMU was set and whether the axis was Enabled, for FIXED the NA_SEL of its
start. -/
structure Task where
  idx : Nat
  level : Nat
  arg : Nat
  beat : Nat
  src : Nat
  busy : Nat
  seq : Nat
  parked : Bool
  ctx : Ctx
  inp : List Int
  deriving DecidableEq, Repr

/-- An engine end the Kennel has not processed (R161): the task, and the fault cause of a fault ending (0 = DONE). -/
structure EngEnd where
  task : Task
  cause : Nat
  deriving DecidableEq, Repr

/-- One loop engine (R89): active bank number, the tasks of the active and the other bank, an end not yet processed,
busy cycles of the beat in force and of those known after it (R37), the first engine cycle in which its next instruction can issue
(R55, R90), the cycle of its last pre-emption, the busy spans that are not over (first cycle, cycles), and the cycle in which an
abort resumed its active task, until that issues (R92). -/
structure Engine where
  bank : Bool
  active : Option Task
  other : Option Task
  ended : Option EngEnd
  beatBusy : Nat
  free : Nat
  pre : Option Nat
  spans : List (Nat × Nat)
  freed : Option Nat
  deriving DecidableEq, Repr

/-- An entry of the Y update queue (R59): address, word, engine cycle of its placement, engine that placed it, and the pointer
of its YST with what it held before. -/
structure YEnt where
  addr : Nat
  word : DWord
  cyc : Nat
  eng : Nat
  back : Option (Nat × BitVec 16)
  deriving DecidableEq, Repr

/-- An entry of a posting queue (R155). -/
inductive QEnt where
  /-- The edge event of beat index k. -/
  | edge (k : Nat)
  /-- The OPH event of beat index k, with the axes latched fresh. -/
  | oph (k : Nat) (axes : List Nat)
  /-- In-slot of axis a in beat index k. -/
  | axis (a k : Nat)
  /-- Descriptor, argument, job parameter. -/
  | desc (idx arg param : Nat)
  deriving DecidableEq, Repr

/-- A Pawprint event before it is written (R164, R165). -/
structure PPEvt where
  gt : Nat
  event : Nat
  engine : Nat
  level : Nat
  idx : Nat
  src : Nat
  beat : Nat
  detail : Nat
  loss : Bool
  deriving DecidableEq, Repr

/-- The Kennel (R151 to R166). `vendor` holds what the vendor's descriptors are (log entry 12); `ppFull` marks that in
MODE 1 the entry that fills the Pawprint buffer is written (R166). -/
structure Kennel where
  descs : Sparse (BitVec 128)
  edgeList : List Nat
  vendor : Sparse Nat
  queues : Sparse (List QEnt)
  rr : Nat
  ready : Sparse (List Task)
  store : Nat
  trace : List PPEvt
  traceLost : Bool
  buffer : Sparse (BitVec 128)
  ppPost : Option Nat
  ppTrig : Bool
  ppFull : Bool
  seq : Nat
  blocked : Nat
  deriving DecidableEq, Repr

/-- Engine memories (R51): I memory, Y memory, X RAM (key: engine x 8192 + address), the Y update queue and its last
write: cycle, address, and the word the address held before (R59). -/
structure Mem where
  imem : Sparse DWord
  ymem : Sparse DWord
  xram : Sparse DWord
  yq : List YEnt
  yqAt : Option (Nat × Nat × DWord)
  deriving DecidableEq, Repr

/-- GT, clocks and the beat (R16 to R49). `cyc` counts the cycles of the 500 MHz clock (R50), and its edge lies `ahead`
units of 2^-32 ns past GT (R26). `ovr` lists recent overrun beats; `endA`, `endB` the ends of levels A and B. -/
structure Timebase where
  gt : Nat
  frac : Nat
  cyc : Nat
  ahead : Nat
  trim : Int
  step : Option Int
  finished : Option Nat
  k : Nat
  phase : Nat
  ovrBeat : Bool
  fixedEnd : Option Nat
  fixedRel : Bool
  slack : Option Nat
  ovr : List Nat
  endA : Option Nat
  endB : Option Nat
  deriving DecidableEq, Repr

/-- The output latched for an axis at OPH (R41, R211): torque, duty codes, ENABLE, GATE_EN, STALE. -/
structure AxOut where
  tq : Nat
  da : Nat
  db : Nat
  dc : Nat
  enable : Bool
  gate : Bool
  stale : Bool
  deriving DecidableEq, Repr

/-- Conditions raised on an axis since its last evaluation (R107, R108, R112, R123, R144, R47). -/
structure Conds where
  perr : Bool
  ovspd : Bool
  engine : Bool
  eovf : Bool
  ovc : Bool
  uv : Bool
  lag : Bool
  shed : Bool
  deriving DecidableEq, Repr

/-- A paired value with its own exponent (R62, R423). -/
structure Paired where
  m : Int
  e : Int
  deriving DecidableEq, Repr

/-- The stage block of one biquad (R63, R102, R423): its exponent and the lane mantissas of its history. -/
structure Biquad where
  e : Int
  x1 : Int
  x2 : Int
  y1 : Int
  y2 : Int
  deriving DecidableEq, Repr

/-- The history of the resonance tracker's filter (R114). -/
structure TrkHist where
  x1 : Rat
  x2 : Rat
  y1 : Rat
  y2 : Rat
  deriving DecidableEq, Repr

/-- Carried state of the vendor stages of an axis (R423): integrators, filter histories, tracker state (R113, R114). -/
structure StageSt where
  i : Paired
  sd : Paired
  sq : Paired
  na : Biquad
  nb : Biquad
  lp : Biquad
  trk : TrkHist
  c : Rat
  px : Rat
  py : Rat
  ranBeat : Option Nat
  lastMove : Option Nat
  naReq : Option Nat
  restart : Bool
  limBeat : Option Nat
  deriving DecidableEq, Repr

/-- Control state of an axis outside its record: feedback acceptance, previous output, stale history, conditions,
stop ramp, safety flags as last received (R302). -/
structure AxisHid where
  inSlot : Bool
  fresh : Bool
  lastAcc : Option Nat
  prevAcc : Option Nat
  np : Int
  posRaw : Nat
  home : Bool
  latch : Option Int
  lsrc : Bool
  armH : Bool
  armI : Bool
  out : AxOut
  stale : List Nat
  staleRun : Nat
  levelC : Bool
  conds : Conds
  clr : Bool
  clrNew : Bool
  stopBeat : Nat
  stopV : Int
  still : Nat
  sto : Bool
  ss1 : Bool
  removed : Bool
  admitted : Bool
  stage : StageSt
  fb : List (Nat × Int × Int)
  deriving DecidableEq, Repr

/-- Line-shaft state of an axis (R137 to R148): the copies, the raw target and limiter, the anchor, the ratio in use,
homing. `runs` counts Enabled runs, `hmCfg` is AX_HM_CFG as it was when HOME was accepted, `homed` lists the recent homing
commits: beat of the edge, offset (R148, R181). -/
structure GearSt where
  pfb : Int
  vfb : Int
  tag : Nat
  hsw : Bool
  latch : Option Int
  lsrc : Bool
  p : Int
  v : Int
  a : Int
  tp : Int
  tv : Int
  ta : Int
  tgtDue : Bool
  runs : Nat
  mref : Int
  pref : Int
  num : Int
  den : Nat
  r : Int
  vr : Int
  hmState : Nat
  hmPhase : Bool
  hmTicket : Nat
  hmStart : Int
  hmCfg : Nat
  hmLatch : Int
  hmOff : Option Int
  hmStill : Nat
  commit : Option Int
  homed : List (Nat × Int)
  deriving DecidableEq, Repr

/-- A master sample (R126), and the GT at which the part came to hold it (R133). -/
structure Sample where
  s : Nat
  pos : Int
  vel : Int
  acc : Int
  got : Nat
  deriving DecidableEq, Repr

/-- A pulse input (R128): levels counted, 64-bit count, stamp of the last counted edge, and beat index, count and stamp at
each recent beat edge. -/
structure Pulse where
  ab : Nat
  count : Int
  stamp : Nat
  hist : List (Nat × Int × Nat)
  deriving DecidableEq, Repr

/-- An analogue input (R130): the codes that may lie in the beat in force, each with the GT of its completion, and the last
sample. -/
structure Analogue where
  codes : List (Nat × Int)
  m : Int
  v : Int
  deriving DecidableEq, Repr

/-- Master state (R126 to R136). -/
structure Master where
  samples : List Sample
  start : Option Nat
  mp : Vector Pulse 2
  ma : Vector Analogue 2
  vm : Sample
  m : Int
  vmx : Int
  am : Int
  lateRun : Nat
  inTime : Bool
  ackEdge : Option Nat
  ran : Option Nat
  trims : List (Nat × Int × Nat)
  trimClr : List (Nat × Nat)
  deriving DecidableEq, Repr

/-- A mark input (R167 to R170). `base` is b in units of 2^-16; `hist` holds the latest samples, newest first, each with
its index and as in `Acq`; `hold` the GT up to which each flooding cause stays active after its test. -/
structure MarkIn where
  base : Nat
  hist : List (Int × Nat)
  rip : List Nat
  hold : Vector Nat 3
  test : Vector Bool 3
  deriving DecidableEq, Repr

/-- A window being acquired or awaiting completion (R176 to R184): first sample, samples wanted, and
the samples oldest first, each code + 2^12 x flooded + 2^13 x bi. -/
structure Acq where
  seq : Nat
  tTrig : Nat
  i0 : Int
  want : Nat
  samples : List Nat
  afterOvf : Bool
  due : Nat
  dueBeat : Nat
  nextI : Int
  beats : Int
  first : Bool
  deriving DecidableEq, Repr

/-- An open mark group (R185). -/
structure Group where
  first : Int
  last : Int
  marks : Nat
  code : Nat
  deriving DecidableEq, Repr

/-- A capture channel (R174 to R189). `last` is the index of its last window sample, `fresh` says that no record was taken
since ARM. -/
structure Chan where
  single : Bool
  below : Bool
  cross : Option Nat
  acq : Option Acq
  pend : List Acq
  last : Option Int
  afterOvf : Bool
  fresh : Bool
  prevCt : Option Int
  lastPm : Option Int
  group : Option Group
  edgePos : Int
  freed : List Nat
  deriving DecidableEq, Repr

/-- The capture engine. `next` is the index of the next mark sample, `trg` the levels of the trigger inputs that count
(R171), `xtPull` the GT at which each own XT pulse ends, `xtLow` the GT up to which others hold each XT line low, `xtCnt` the GT up
to which the line has been low as the filter counts it, 0 if never (R172). -/
structure Capture where
  next : Nat
  marks : Vector MarkIn 8
  chans : Vector Chan 16
  sram : Sparse Byte
  trg : Nat
  xtLow : Vector Nat 4
  xtCnt : Vector Nat 4
  xtPull : Vector (Option Nat) 4
  ttQueue : List (Nat × Nat)
  ripDue : Bool
  deriving DecidableEq, Repr

/-- What a step channel waits for in a reversal (R195): nothing, STEP low for 10 clocks, or DSU clocks. -/
inductive RevSt where
  | none
  | low
  | setup (n : Nat)
  deriving DecidableEq, Repr

/-- A step channel (R192 to R202). `rise` counts clocks to the rise of STEP after a carry, `high` clocks STEP stays
high, `lowFor` clocks it has been low (10 at most); `edgeDue` marks a word for the next beat edge, `velDue` one for the
next clock. -/
structure StepCh where
  acc : Nat
  word : Int
  lastPos : Bool
  rise : Option Nat
  high : Nat
  lowFor : Nat
  step : Bool
  rev : RevSt
  carryDue : Bool
  hmState : Nat
  hmTicket : Nat
  hmSteps : Nat
  hmBack : Option Nat
  edgeDue : Bool
  velDue : Bool
  deriving DecidableEq, Repr

/-- A step group (R197 to R199). `left` is the carries that remained at the last beat edge. -/
structure StepGrp where
  acc : Nat
  word : Nat
  next : Option Nat
  v : Rat
  n : Nat
  made : Nat
  left : Nat
  d : List (Nat × Int)
  q : List (Nat × Nat)
  ticket : Nat
  moving : Bool
  carryDue : Bool
  atEdge : Bool
  deriving DecidableEq, Repr

/-- A mailbox request (R226, R227): the beats of its first and latest sending. Ticket 0 marks the part's own ADMIT and
OFFSET messages. -/
structure MbxReq where
  tag : Nat
  code : Nat
  data : List Byte
  ticket : Nat
  sent : Option Nat
  last : Option Nat
  deriving DecidableEq, Repr

/-- A declared node (R367) and its admission state outside its registers (R225). -/
structure Node where
  vendor : Nat
  product : Nat
  revMin : Nat
  vers : Nat
  nax : Nat
  serial : Nat
  resid : Nat
  prep : Nat
  tapply : Nat
  applyMin : Nat
  cable : Nat
  cdly : Nat
  rollResid : Nat
  effBeat : Nat
  acked : Bool
  naked : Bool
  quiet : Nat
  rollMiss : Nat
  seen : Bool
  fltLogged : Bool
  sentOfs : Option (Nat × Nat)
  queue : List MbxReq
  tagNext : Nat
  deriving DecidableEq, Repr

/-- What came back of the beat's frame on one receiving port (R235, R240): received, sound, its DIR and RET, out-slots
as sent, slots accepted, those of them from a frame with DIR = 1, nodes with a failed in-slot, and those of them all whose
failed in-slots were still the head's fill (R212). -/
structure RxBeat where
  got : Bool
  good : Bool
  dir : Bool
  ret : Bool
  outSame : Bool
  slots : List Nat
  rev : List Nat
  fails : List Nat
  written : List Nat
  deriving DecidableEq, Repr

/-- The path snapshot of R234: SLOTMAP words, SCHED, SID, node states and offsets, and its CRC-32. -/
structure Snapshot where
  words : List Nat
  crc : Nat
  deriving DecidableEq, Repr

/-- A Leash port's receiver (R205, R238): synchronisation of its pins, and whether the SGMII partner last reported
1000 Mbit/s full duplex. -/
structure PLink where
  sync : Bool
  gig : Bool
  deriving DecidableEq, Repr

/-- A Leash segment outside its registers (R206 to R246). `lines` is what the last judged beat of this two-line running
showed: last hop of the head line, first of the tail line, whole (R240, R241); frames are held as they go on the wire. -/
structure Seg where
  lastCm : Nat
  lastPs : Nat
  tload : Nat
  meas : List Nat
  lastFrame : List Byte
  tailFrame : List Byte
  acyclic : List Byte
  rollSent : Bool
  rollPrev : Bool
  acycDone : Bool
  sendEnd : Nat
  arr : Option Nat
  rrReq : Nat
  rrRsp : Nat
  rxHead : RxBeat
  rxTail : RxBeat
  failBeat : Nat
  snap : Snapshot
  wholeRun : Nat
  retBeat : Option Nat
  swTicket : Nat
  proof : Nat
  proofBeat : Nat
  proofTicket : Nat
  proofGood : Bool
  safeWords : Option (List (Nat × Nat × Nat))
  undeclared : List Nat
  lines : Option (Option Nat × Option Nat × Bool)
  lnkHead : PLink
  lnkTail : PLink
  deriving DecidableEq, Repr

/-- What a trunk port sent last (R252): the instant of the frame's alignment word in units of 2^-8 ns, the fill before it, the
IDLE block before that and the frame's blocks (header and data area of each, before scrambling), and the line from the IDLE
block's word to the frame's last bit. -/
structure TxFrame where
  at_ : Nat
  fill : Nat
  idle : List Byte
  blocks : List (List Byte)
  line : LineBits
  deriving DecidableEq, Repr

/-- A trunk port outside its registers (R249 to R258): T_TX and arrival of the last good IDLE block, the latest link delays;
when its last frame's last bit leaves, in units of 2^-8 / 5 ns, with the transmitter's last 58 scrambled bits then; the
consecutive boundaries that failed in lock; the frame met last, by its arrival, and whether it may pass; what was sent last. -/
structure TPort where
  echoT1 : Nat
  echoT2 : Nat
  delays : List Int
  busyUntil : Nat
  txHist : Nat
  fails : Nat
  seen : Option (Nat × Bool)
  out : Option TxFrame
  deriving DecidableEq, Repr

/-- A posted write of the lead to a member (R280): where its last sending is checked at the member, while it is not yet due
again, and whether it was ever sent (R283, R285). -/
structure MWrite where
  pseq : Nat
  addr : Nat
  data : Nat
  tag : Nat
  sent : Option Nat
  tried : Bool
  deriving DecidableEq, Repr

/-- What the lead keeps of a member (R280 to R285). -/
structure Member where
  next : Nat
  writes : List MWrite
  pend : Nat
  resetDue : Bool
  quiet : Nat
  lost : Bool
  deriving DecidableEq, Repr

/-- An access of the host port that waits for its turn (R280, R339, R417): a write through a window (0 is the part itself, for
BAR0 and window 0), a read of consecutive words of the part, each with its byte enables, a read of `n` words by the QSPI
port, a read of a member. -/
inductive HostReq where
  | write (win off be v : Nat)
  | read (off : Nat) (bes : List Nat)
  | spi (off n : Nat)
  | member (n off be : Nat)
  deriving DecidableEq, Repr

/-- The trunk outside its registers (R247 to R286). `hreqs` lists the latest HREQ frames, newest first: instant of the slot, node
named (R261). -/
structure Trunk where
  links : List (Nat × Nat × Nat × Nat × Nat × Bool)
  ports : Vector TPort 3
  rate : Int
  trim : Int
  cycleGot : Bool
  missed : Nat
  inInt : Nat
  intSrc : Nat
  lastOs : List Int
  csSent : Nat
  takeover : Bool
  ownOn : Bool
  stopIn : Option Nat
  stopDue : Bool
  stopNext : Bool
  stopTickets : List Nat
  startTicket : Nat
  startCycles : Nat
  seenNow : List Nat
  ownFrame : Option (Nat × List Byte)
  hreqNode : Nat
  hreqAt : Nat
  hreqs : List (Nat × Nat)
  rrW : Nat
  rrR : Nat
  members : Sparse Member
  read : Option (Nat × Nat × Nat × Nat × Nat)
  rid : Nat
  held : List HostReq
  wnext : Nat
  rdWait : Option (Nat × Nat × Nat)
  rdrCopy : Option (Nat × Nat)
  rdrSend : Bool
  recs : List (List Byte)
  recHeld : List (List Byte)
  dlq : List (List Nat)
  mcQueue : List (List Nat)
  deriving DecidableEq, Repr

/-- What a CAN controller sends (R315, R316, R321): a frame, an error flag (passive in an error-passive node), an overload flag,
or the acknowledgement of a frame received. -/
inductive CanOut where
  | frame (f : CanFrame)
  | errorFlag (passive : Bool)
  | overloadFlag
  | ack
  deriving DecidableEq, Repr

/-- A transmit state of a CAN controller and its receive FIFO (R320 to R327): the mode to take at idle, the buffer on the bus,
requests to abort, what was sent last, and whether it waits for 11 recessive bits before it takes part again (R316,
R321). -/
structure CanHid where
  target : Nat
  modeReq : Option Nat
  offered : Option Nat
  aborting : Vector Bool 3
  out : Option CanOut
  wait : Bool
  fifo : List (List Nat)
  deriving DecidableEq, Repr

/-- A command with a ticket (R344 to R353). -/
structure Cmd where
  ticket : Nat
  op : Nat
  user : Nat
  q : Nat
  words : List Nat
  started : Bool
  done : Bool
  status : Nat
  r0 : Nat
  r1 : Nat
  deriving DecidableEq, Repr

/-- The host port outside its registers. `delivered` lists (ticket, queue, in the ring) of entries delivered and not
consumed, with ticket 0 for a member's; `cfgReady` the GT from which PCIe configuration requests are answered (R375,
R394). -/
structure HostSt where
  cmds : List Cmd
  fifo : List (List Nat)
  delivered : List (Nat × Nat × Bool)
  ring : Sparse (List Nat)
  rsps : List (Nat × Nat × List Byte)
  rdData : List Word
  rdCpl : List (List Word)
  spiOut : List Byte
  cfg : Sparse Word
  perst : Bool
  bme : Bool
  pmD3 : Bool
  msiEn : Bool
  msixEn : Bool
  msixMask : Bool
  msixWait : List Nat
  intxDis : Bool
  irqMsgs : List Nat
  holdEnd : Option Nat
  holdPend : Bool
  cfgReady : Nat
  shedClear : List Nat
  deriving DecidableEq, Repr

/-- An operation of the flash (R361): erasing `n` bytes, or programming bytes. -/
inductive FlashOp where
  | erase (a n : Nat)
  | program (a : Nat) (bs : List Byte)
  deriving DecidableEq, Repr

/-- A write session, the bank it writes and the flash operations of its running command that have not ended, the first of them
begun, and the loaded Parcel (R361 to R374); `img` is the CRC-32 of its PROGRAM and COEFF bytes (R422). -/
structure Boot where
  flash : Sparse Byte
  buffer : Sparse Byte
  len : Nat
  crc : Nat
  written : List (Nat × Nat)
  sessBank : Nat
  flashOps : List FlashOp
  gen : Nat
  bank : Nat
  loaded : Bool
  image : List (Nat × Word)
  safety : List Byte
  safeCrc : Nat
  armCode : Nat
  armTicket : Nat
  armUntil : Option Nat
  burnTicket : Nat
  blown : Bool
  subsys : Nat
  img : Nat
  deriving DecidableEq, Repr

/-- An event waiting for the Logbook (R403, R405). -/
structure LogEvt where
  gt : Nat
  src : Nat
  code : Nat
  sev : Nat
  p0 : Nat
  p1 : Nat
  p2 : Nat
  late : Bool
  deriving DecidableEq, Repr

/-- The Logbook (R403 to R409). -/
structure Logbook where
  queue : List LogEvt
  entries : Sparse (List Nat)
  lossNext : Bool
  post : Option Nat
  deriving DecidableEq, Repr

/-- The test access port (R410 to R412): the instruction, the boundary register as preloaded and as sampled, the bits that the
selected data register has captured to shift out, first bit first, the cores that a vendor session has halted,
and the words of the halted supervisor core's memory that it knows. -/
structure Tap where
  ir : BitVec 8
  bsr : ScanWord
  sampled : ScanWord
  dr : List Bool
  halted : BitVec 18
  sup : Sparse (Option Word)
  deriving DecidableEq, Repr

/-- Messages between the Sheepdog and the control die that wait at the die (R290, R302, R305, R311) and the mirror
flags that host software clears. -/
structure DogIo where
  resetSeen : Bool
  gtStep : Option Nat
  slotIn : List (Nat × Nat × Nat × Nat × Nat × Nat)
  msgQuiet : Nat
  msgSeen : Bool
  sticky : Nat
  txSeq : Nat
  rxSeq : Option Nat
  deriving DecidableEq, Repr

/-- The power manager and supply of the PSD (R377 to R402). Powered domains are bits of `dom` (R383), and of `runDoms` those that
Run had when Doze was entered. -/
structure Power where
  vin : Nat
  en : Bool
  hib : Bool
  up : Bool
  crystal : Bool
  vinWarnN : Bool
  dozeReq : Bool
  hibReq : Bool
  dozeOut : Bool
  mute : Bool
  por : Bool
  therm : Bool
  nresetLow : Bool
  dom : Nat
  runDoms : Nat
  tj : Nat
  cause : Nat
  deriving DecidableEq, Repr

/-- A write of an axis-state word in a cycle (R58): BAR0 offset, engine cycle, port (0 network, 1 gear unit, 2 + p
PKp, 6 supervisor, 7 host, 8 the supervisor's AX_CTL.REQ := 0; 9 a status event whose port and cycle its command has
yet to say), the word before the cycle's writes, the bits written. -/
structure AxWrite where
  off : Nat
  cyc : Nat
  port : Nat
  was : Word
  bits : Nat
  deriving DecidableEq, Repr

/-- The control die. `held` is the value in force of a register whose host write waits (R31), `land` what comes into force
at the edge where that is not the stored value (R32, R140), `axLog` the writes of axis-state words of this cycle and of
later ones (R58). -/
structure Die where
  regs : Sparse Word
  held : Sparse (Option Word)
  heldLow : List Nat
  land : Sparse (Option Word)
  axLog : List AxWrite
  snap : Sparse (Option Word)
  tb : Timebase
  eng : Vector Engine 16
  mem : Mem
  knl : Kennel
  axes : Sparse AxisHid
  gear : Sparse GearSt
  mst : Master
  cap : Capture
  stp : Vector StepCh 32
  stpClk : Nat
  grp : Vector StepGrp 8
  segs : Vector Seg 4
  nodes : Sparse Node
  trk : Trunk
  can : Vector CanHid 4
  host : HostSt
  boot : Boot
  lgb : Logbook
  tap : Tap
  dogIo : DogIo
  pwr : Power
  straps : BitVec 16
  inReset : Bool
  fresh : Nat
  deriving DecidableEq, Repr

/-- What one Sheepdog channel keeps of an input (R291, R293): judged state, length and level of the running run of
equal samples. -/
structure SiSt where
  on : Bool
  lvl : Bool
  run : Nat
  deriving DecidableEq, Repr

/-- A pair (R295): mode and settings, reached flag, ON state, whether an output of EDMSO was on, cycles of
discrepancy, faulted. -/
structure Pair where
  mode : Nat
  tpA : Option Nat
  tpB : Option Nat
  edmSo : Nat
  disc : Nat
  armed : Bool
  on : Bool
  edmOn : Bool
  discFor : Nat
  faulted : Bool
  deriving DecidableEq, Repr

/-- A safety function (R298, R299). State codes 0 IDLE, 1 SS1, 2 STO, 3 WAITRST. -/
structure SFun where
  decl : Bool
  trig : Nat
  ss1 : Bool
  soMask : Nat
  manual : Bool
  tss1 : Nat
  axMask : Nat
  st : Nat
  left : Nat
  deriving DecidableEq, Repr

/-- A safety-layer slot of the accepted section (R307, R369). -/
structure SSlot where
  seg : Nat
  slot : Nat
  axis : Nat
  tnode : Nat
  quiet : Nat
  got : Bool
  stoSince : Option Nat
  stoJudged : Bool
  deriving DecidableEq, Repr

/-- A Sheepdog event waiting to be sent (R305): code, parameter, made while the control die was in reset. -/
structure DogEvt where
  code : Nat
  p0 : Nat
  held : Bool
  deriving DecidableEq, Repr

/-- The Sheepdog (R287 to R312). Only Sheepdog commands write it. `pend` lists the faults (cause, detail) detected since
the last safety cycle, `live` those that cycle saw; `rel` is the outcome of a release test not yet evaluated, `test` the
safety cycles of a running one; `stuck` and `short` mark the readings of this and of the last test frame (R294). `soA` and `soB`
are the switches that channel A and channel B drive (R287, R296), `clk` counts channel A's input samples of 62.5 µs (R289),
`tpPos` is the place in the test frame: three for each of its 8 off-pulses, start, checkpoint and end (R292), `txSeq` and
`rxSeq` number the messages of the link (R290). -/
structure Dog where
  run : Bool
  cause : Nat
  detail : Nat
  sectOk : Bool
  sectCrc : Nat
  valCrc : Nat
  unval : Bool
  vsoLow : Bool
  cycle : Nat
  clk : Nat
  siA : Vector SiSt 16
  siB : Vector SiSt 16
  pairs : Vector Pair 8
  funs : Vector SFun 8
  sids : Vector Nat 4
  swdt : Vector Nat 4
  slots : List SSlot
  soA : BitVec 4
  soB : BitVec 4
  soRead : BitVec 4
  soOffFor : Vector Nat 4
  tpOff : BitVec 4
  tpOk : BitVec 4
  tpPos : Nat
  stuck : Vector Nat 16
  short : Vector Nat 16
  mask : Vector (Option Nat) 4
  pressed : Bool
  pressCnt : Nat
  pressRef : Nat
  accepted : Bool
  test : Option Nat
  testFault : Option (Nat × Nat)
  rel : Option (Bool × Nat × Nat)
  pend : List (Nat × Nat)
  live : List (Nat × Nat)
  sectTried : Bool
  sinceAccept : Bool
  hbWindow : Bool
  hbMiss : Nat
  hold : Nat
  faults : Nat
  events : List DogEvt
  evlost : Nat
  dieDown : Bool
  txSeq : Nat
  rxSeq : Option Nat
  deriving DecidableEq, Repr

/-- What the Sheepdog's surroundings do next, an input like the waiting commands (log entry 138): what arrives in place of the
message of each of the next HEARTBEAT, SS1_STO_MESSAGE and SHEEPDOG_EVENT commands, of the two messages of a
SAFETY_WORD_HANDOVER (R290; `none`, or no entry: the message as it is sent), and the slots, by segment and slot, for which channel B computes another word at the next handover
(R301). -/
structure DogIn where
  arrive : List (Option LinkMsg)
  differ : List (Fin 4 × Fin 48)
  deriving DecidableEq, Repr

/-- The part, the commands that wait, first in first out, and what reaches the Sheepdog beside them. -/
structure State where
  die : Die
  dog : Dog
  pending : List Instr
  dogIn : DogIn
  deriving DecidableEq, Repr

/-- The value of a register with no entry in `Die.regs`: the number its table gives for reset (log entry 3), 0 for
every other. -/
def resetVal (off : Nat) : Word :=
  if off = Reg.GLB_ID then 0x7128
  else if off = Reg.GLB_RST_CAUSE then 1
  else if off = Reg.PWR_VWARN then 57
  else if off = Reg.PWR_VINMIN then 0xFFFF
  else if off = Reg.HST_STAT then 0x10000
  else if off = Reg.HST_VER_RANGE then 0x1310
  else if off = Reg.HST_VER_SEL then 0x10
  else if off = Reg.HST_CRING_SIZE then 0x100
  else if off = Reg.BEAT_MARGIN then 0x3FFFF
  else if off = Reg.KNL_PP_LVLMASK then 0xFFFF
  else if off = Reg.LOG_CTL then 0x20
  else if off = Reg.LOG_EPOCH then 1
  else if off = Reg.CTR_CFG then 0x1900
  else if off = Reg.CTR_VER then 0x10
  else if off / 0x20000 = 1 ∧ off % 0x400 = 0x10C then 1
  else if 0xC000 ≤ off ∧ off < 0xE000 then
    if off % 0x800 = 0x400 then 4
    else if off % 0x800 = 0x148 then 0x3F3F
    else 0
  else 0

/-- All flags clear. -/
def flags0 : Flags := ⟨false, false, false, false, false, false, false, false⟩

/-- A context with every register at 0 (R153). -/
def ctx0 : Ctx :=
  { d := Vector.replicate 16 0, e := Vector.replicate 4 0, acc := Vector.replicate 4 0, xa := Vector.replicate 4 0,
    am := Vector.replicate 4 false, p := Vector.replicate 8 0, b := Vector.replicate 8 0, l := Vector.replicate 8 0,
    n := Vector.replicate 8 0, sr := flags0, pc := 0, calls := [], loops := [] }

/-- An idle engine. -/
def engine0 : Engine :=
  { bank := false, active := none, other := none, ended := none, beatBusy := 0, free := 0, pre := none, spans := [],
    freed := none }

/-- The Kennel after reset (R156: shared port starts at queue 5). -/
def kennel0 : Kennel :=
  { descs := [], edgeList := [], vendor := [], queues := [], rr := 22, ready := [], store := 0, trace := [],
    traceLost := false, buffer := [], ppPost := none, ppTrig := false, ppFull := false, seq := 0, blocked := 0 }

/-- The default of an I-memory word (R52). -/
def imemDefault : DWord := 0xFFFFFFFFFFFF

/-- Engine memories after reset (R53). -/
def mem0 : Mem := { imem := [], ymem := [], xram := [], yq := [], yqAt := none }

/-- The timebase after reset (R16). -/
def timebase0 : Timebase :=
  { gt := 0, frac := 0, cyc := 0, ahead := 0, trim := 0, step := none, finished := none, k := 0, phase := 0,
    ovrBeat := false, fixedEnd := none, fixedRel := false, slack := none, ovr := [], endA := none, endB := none }

/-- The zero output of a state that drives nothing (R119); its duty codes are 0, also for a thin axis (log entry 167). -/
def axOut0 : AxOut := { tq := 0, da := 0, db := 0, dc := 0, enable := false, gate := false, stale := false }

/-- No condition raised. -/
def conds0 : Conds := ⟨false, false, false, false, false, false, false, false⟩

/-- Zero history (R102). -/
def biquad0 : Biquad := ⟨0, 0, 0, 0, 0⟩

/-- A paired 0. -/
def paired0 : Paired := ⟨0, 0⟩

/-- Zero history of a tracker (R113). -/
def trkHist0 : TrkHist := ⟨0, 0, 0, 0⟩

/-- Vendor stage state at 0. -/
def stage0 : StageSt :=
  { i := paired0, sd := paired0, sq := paired0, na := biquad0, nb := biquad0, lp := biquad0, trk := trkHist0, c := 0, px := 0, py := 0,
    ranBeat := none, lastMove := none, naReq := none, restart := false, limBeat := none }

/-- An axis after reset. STO counts as active until the first Sheepdog message (R302). -/
def axisHid0 : AxisHid :=
  { inSlot := false, fresh := false, lastAcc := none, prevAcc := none, np := 0, posRaw := 0, home := false,
    latch := none, lsrc := false, armH := false, armI := false, out := axOut0, stale := [], staleRun := 0,
    levelC := false, conds := conds0, clr := false, clrNew := false, stopBeat := 0, stopV := 0, still := 0, sto := true, ss1 := false,
    removed := false, admitted := false, stage := stage0, fb := [] }

/-- Line-shaft state of an axis after reset; the anchor is (0, 0) (R139). -/
def gear0 : GearSt :=
  { pfb := 0, vfb := 0, tag := 0, hsw := false, latch := none, lsrc := false, p := 0, v := 0, a := 0, tp := 0, tv := 0,
    ta := 0, tgtDue := false, runs := 0, mref := 0, pref := 0, num := 0, den := 1, r := 0, vr := 0, hmState := 0,
    hmPhase := false, hmTicket := 0, hmStart := 0, hmCfg := 0, hmLatch := 0, hmOff := none, hmStill := 0,
    commit := none, homed := [] }

/-- The zero sample (R424). -/
def sample0 : Sample := ⟨0, 0, 0, 0, 0⟩

/-- A pulse input after reset. -/
def pulse0 : Pulse := { ab := 0, count := 0, stamp := 0, hist := [] }

/-- The master after reset (R126, R130, R131). -/
def master0 : Master :=
  { samples := [], start := none, mp := Vector.replicate 2 pulse0, ma := Vector.replicate 2 ⟨[], 0, 0⟩, vm := sample0,
    m := 0, vmx := 0, am := 0, lateRun := 0, inTime := false,
    ackEdge := none, ran := none, trims := [], trimClr := [] }

/-- A mark input when it is powered (R168). -/
def markIn0 : MarkIn :=
  { base := 0, hist := [], rip := [], hold := Vector.replicate 3 0, test := Vector.replicate 3 false }

/-- A capture channel after reset. -/
def chan0 : Chan :=
  { single := false, below := false, cross := none, acq := none, pend := [], last := none,
    afterOvf := false, fresh := false, prevCt := none, lastPm := none, group := none, edgePos := 0, freed := [] }

/-- The capture engine after reset; XT lines are released, so high (R401). -/
def capture0 : Capture :=
  { next := 0, marks := Vector.replicate 8 markIn0, chans := Vector.replicate 16 chan0, sram := [], trg := 0, xtLow := Vector.replicate 4 0, xtCnt := Vector.replicate 4 0,
    xtPull := Vector.replicate 4 none, ttQueue := [], ripDue := false }

/-- A step channel after reset (R196). -/
def stepCh0 : StepCh :=
  { acc := 0, word := 0, lastPos := true, rise := none, high := 0, lowFor := 10, step := false, rev := .none,
    carryDue := false, hmState := 0, hmTicket := 0, hmSteps := 0, hmBack := none, edgeDue := false, velDue := false }

/-- A step group after reset. -/
def stepGrp0 : StepGrp :=
  { acc := 0, word := 0, next := none, v := 0, n := 0, made := 0, left := 0, d := [], q := [], ticket := 0, moving := false,
    carryDue := false, atEdge := false }

/-- An undeclared node. -/
def node0 : Node :=
  { vendor := 0, product := 0, revMin := 0, vers := 0, nax := 0, serial := 0, resid := 0, prep := 0, tapply := 0,
    applyMin := 0, cable := 0, cdly := 0, rollResid := 0, effBeat := 0, acked := false, naked := false, quiet := 0, rollMiss := 0,
    seen := false, fltLogged := false, sentOfs := none, queue := [], tagNext := 1 }

/-- Nothing received in the beat. -/
def rxBeat0 : RxBeat := 
  { got := false, good := false, dir := false, ret := false, outSame := false, slots := [], rev := [], fails := [], written := [] }

/-- A segment after reset. -/
def seg0 : Seg :=
  { lastCm := 0, lastPs := 0, tload := 0, meas := [], lastFrame := [], tailFrame := [], acyclic := [],
    rollSent := false, rollPrev := true, acycDone := false, sendEnd := 0, arr := none, rrReq := 0, rrRsp := 0, rxHead := rxBeat0, rxTail := rxBeat0,
    failBeat := 0, snap := ⟨[], 0⟩, wholeRun := 0, retBeat := none, swTicket := 0, proof := 0,
    proofBeat := 0, proofTicket := 0, proofGood := true, safeWords := none, undeclared := [],
    lines := none, lnkHead := ⟨false, false⟩, lnkTail := ⟨false, false⟩ }

/-- A trunk port after reset. -/
def tport0 : TPort :=
  { echoT1 := 0, echoT2 := 0, delays := [], busyUntil := 0, txHist := 0, fails := 0, seen := none, out := none }

/-- A member of which nothing is known. -/
def member0 : Member :=
  { next := 0, writes := [], pend := 0, resetDue := true, quiet := 0, lost := false }

/-- The trunk after reset (R271: STOPPED). -/
def trunk0 : Trunk :=
  { links := [], ports := Vector.replicate 3 tport0, rate := 0, trim := 0,
    cycleGot := false, missed := 0, inInt := 0, intSrc := 0, lastOs := [], csSent := 0,
    takeover := false, ownOn := false, stopIn := none, stopDue := false, stopNext := false, stopTickets := [], startTicket := 0,
    startCycles := 0, seenNow := [], ownFrame := none, hreqNode := 0, hreqAt := 0, hreqs := [], rrW := 0, rrR := 0,
    members := [], read := none, rid := 0, held := [], wnext := 0, rdWait := none, rdrCopy := none,
    rdrSend := false, recs := [], recHeld := [], dlq := [], mcQueue := [] }

/-- A CAN controller after reset (R322: OFF). -/
def canHid0 : CanHid :=
  { target := 0, modeReq := none, offered := none, aborting := Vector.replicate 3 false, out := none, wait := false, fifo := [] }

/-- The host port after reset. -/
def hostSt0 : HostSt :=
  { cmds := [], fifo := [], delivered := [], ring := [], rsps := [], rdData := [], rdCpl := [], spiOut := [], cfg := [], perst := false,
    bme := false, pmD3 := false, msiEn := false, msixEn := false, msixMask := false, msixWait := [], intxDis := false, irqMsgs := [], holdEnd := none, holdPend := false, cfgReady := 20000000, shedClear := [] }

/-- The boot controller at power-up: flash erased, nothing loaded (log entry 5). -/
def boot0 : Boot :=
  { flash := [], buffer := [], len := 0, crc := 0, written := [], sessBank := 0, flashOps := [], gen := 0, bank := 0, loaded := false, image := [],
    safety := [], safeCrc := 0, armCode := 0, armTicket := 0, armUntil := none, burnTicket := 0, blown := false, subsys := 0, img := 0 }

/-- An empty Logbook (R403). -/
def logbook0 : Logbook := { queue := [], entries := [], lossNext := false, post := none }

/-- The TAP in Test-Logic-Reset with IDCODE selected (R410; log entry 6). -/
def tap0 : Tap := { ir := 1, bsr := 0, sampled := 0, dr := [], halted := 0, sup := [] }

/-- No message waiting. -/
def dogIo0 : DogIo :=
  { resetSeen := false, gtStep := none, slotIn := [], msgQuiet := 2, msgSeen := false, sticky := 0, txSeq := 0, rxSeq := none }

/-- The domains powered while the loader runs (R375, R383): those that R383 says are never off, and the host port unless
HOSTSEL = 0b11 or the part is a cluster member (R328, R329); with PROOF = 1 only those that boundary scan needs (R360, log
entry 107). -/
def bootDoms (straps : Nat) : Nat :=
  let host := !(straps % 4 == 3) && !(bitOf straps 2 && bitOf straps 3)
  let on := (2 ^ 42 - 2 ^ 32) + (if host then 2 ^ 57 else 0) + 2 ^ 58 + 2 ^ 78 + 2 ^ 79
  if bitOf straps 15 then on &&& Config.scanDoms else on

/-- The power manager at release of the internal power-on reset, VIN 24 V (log entry 4). -/
def power0 : Power :=
  { vin := 24000, en := true, hib := false, up := true, crystal := true, vinWarnN := true, dozeReq := false,
    hibReq := false, dozeOut := false, mute := false, por := false, therm := false, nresetLow := false, dom := bootDoms 0, runDoms := 0, tj := 0, cause := 1 }

/-- The control die at release of its reset, with straps sampled and every register at its reset value. -/
def die0 (straps : BitVec 16) : Die :=
  { regs := [], held := [], heldLow := [], land := [], axLog := [], snap := [], tb := timebase0, eng := Vector.replicate 16 engine0, mem := mem0,
    knl := kennel0, axes := [], gear := [], mst := master0, cap := capture0, stp := Vector.replicate 32 stepCh0, stpClk := 0,
    grp := Vector.replicate 8 stepGrp0, segs := Vector.replicate 4 seg0, nodes := [], trk := trunk0,
    can := Vector.replicate 4 canHid0, host := hostSt0, boot := boot0, lgb := logbook0, tap := tap0, dogIo := dogIo0,
    pwr := { power0 with dom := bootDoms straps.toNat }, straps := straps, inReset := false, fresh := 0 }

/-- An unused pair; at power-up both its inputs are judged OFF, so it may turn ON (R295). -/
def pair0 : Pair :=
  { mode := 0, tpA := none, tpB := none, edmSo := 0, disc := 0, armed := true, on := false, edmOn := false, discFor := 0,
    faulted := false }

/-- An undeclared function; the SF states read STO at reset (SHD_SF). -/
def sfun0 : SFun :=
  { decl := false, trig := 0, ss1 := false, soMask := 0, manual := false, tss1 := 0, axMask := 0, st := 2, left := 0 }

/-- The Sheepdog at PSD power-up: MUZZLED with cause POWERUP, every SO off (R304, R380). -/
def dog0 : Dog :=
  { run := false, cause := 1, detail := 0, sectOk := false, sectCrc := 0, valCrc := 0, unval := false, vsoLow := false,
    cycle := 0, siA := Vector.replicate 16 ⟨false, false, 0⟩, siB := Vector.replicate 16 ⟨false, false, 0⟩,
    pairs := Vector.replicate 8 pair0, funs := Vector.replicate 8 sfun0, sids := Vector.replicate 4 0,
    swdt := Vector.replicate 4 0, slots := [], soA := 0, soB := 0, clk := 0, tpPos := 0, txSeq := 0, rxSeq := none, soRead := 0, soOffFor := Vector.replicate 4 0, tpOff := 0,
    tpOk := 0, stuck := Vector.replicate 16 0, short := Vector.replicate 16 0,
    mask := Vector.replicate 4 none, pressed := false, pressCnt := 0, pressRef := 0, accepted := false, test := none,
    testFault := none, rel := none, pend := [], live := [], sectTried := false, sinceAccept := false, hbWindow := false, hbMiss := 0, hold := 0, faults := 0, events := [],
    evlost := 0, dieDown := false }

/-- The part right after release of the internal power-on reset, straps all 0 (log entry 4): every register at its
reset value, the Parcel loader running, the Sheepdog MUZZLED, nothing waiting. BEAT_IDL, OPH, FCL and PERIOD hold the
defaults of R27 for the strapped rate. -/
def State.reset : State :=
  { die := { die0 0 with
      regs := [(Reg.BEAT_IDL, 125000), (Reg.BEAT_OPH, 187500), (Reg.BEAT_FCL, 237500), (Reg.BEAT_PERIOD, 250000)] },
    dog := dog0, pending := [], dogIn := ⟨[], []⟩ }

end Sys2Proof.Machine
end

