-- ==== Sys2Proof/Machine/Ops.lean ====
section
/-! DEFINITION. The shared operations: registers and fields, values in force (R31, R32), the hidden state of axes and
blocks, counters, the Logbook queue (R405), interrupts (R356), completions (R347), posting to the Kennel (R155, R158),
time (R17, R18), and how a command of the control die acts on the whole state. -/

namespace Sys2Proof.Machine

/-- Element `i` of a vector, `x` beyond its end. -/
def vget {α : Type} {n : Nat} (x : α) (v : Vector α n) (i : Nat) : α := v.toArray.getD i x

/-- A vector with element `i` replaced; unchanged beyond its end. -/
def vset {α : Type} {n : Nat} (v : Vector α n) (i : Nat) (x : α) : Vector α n := v.setIfInBounds i x

/-- Bit `i` of a sticky or mask number set. -/
def setBit (x i : Nat) : Nat := x ||| 2 ^ i

/-- Bit `i` cleared. -/
def clrBit (x i : Nat) : Nat := if bitOf x i then x - 2 ^ i else x

/-- The value a register holds as the host reads it. -/
def getReg (d : Die) (off : Nat) : Word := sget (resetVal off) d.regs off

/-- Store a register. -/
def putReg (d : Die) (off : Nat) (w : Word) : Die := { d with regs := sput (resetVal off) d.regs off w }

/-- A field of a register, as stored. -/
def fld (d : Die) (f : Fld) : Nat := bitsOf (getReg d f.off).toNat f.lo f.w

/-- A one-bit field. -/
def flag (d : Die) (f : Fld) : Bool := fld d f == 1

/-- Store a field. -/
def setFld (d : Die) (f : Fld) (v : Nat) : Die :=
  putReg d f.off (BitVec.ofNat 32 (setBitsOf (getReg d f.off).toNat f.lo f.w v))

/-- Set a one-bit field. -/
def setFlag (d : Die) (f : Fld) : Die := setFld d f 1

/-- Store a one-bit field. -/
def putFlag (d : Die) (f : Fld) (b : Bool) : Die := setFld d f (b2n b)

/-- A 64-bit register, low word at `off`. -/
def get64 (d : Die) (off : Nat) : Nat := (getReg d off).toNat + 2 ^ 32 * (getReg d (off + 4)).toNat

/-- A 64-bit register as a signed number (R8). -/
def getI64 (d : Die) (off : Nat) : Int := sext 64 (get64 d off)

/-- Store a 64-bit register. -/
def put64 (d : Die) (off : Nat) (x : Nat) : Die :=
  putReg (putReg d off (BitVec.ofNat 32 x)) (off + 4) (BitVec.ofNat 32 (x >>> 32))

/-- Store a signed number modulo 2^64. -/
def putI64 (d : Die) (off : Nat) (i : Int) : Die := put64 d off (wrap 64 i)

/-- The value of a register in force in this beat: the old value while a host write waits for the edge (R31, R32). -/
def eff (d : Die) (off : Nat) : Word :=
  match sget none d.held off with
  | some w => w
  | none => getReg d off

/-- A field in force. -/
def effFld (d : Die) (f : Fld) : Nat := bitsOf (eff d f.off).toNat f.lo f.w

/-- A register in force as a number. -/
def effN (d : Die) (off : Nat) : Nat := (eff d off).toNat

/-- A 64-bit register in force, as a signed number. -/
def effI64 (d : Die) (off : Nat) : Int := sext 64 (effN d off + 2 ^ 32 * effN d (off + 4))

/-- Drop a waiting host write, so that the stored value is in force. -/
def dropHeld (d : Die) (off : Nat) : Die :=
  { d with held := sput none d.held off none, heldLow := d.heldLow.filter (· != off),
           land := sput none d.land off none }

/-- Store a word that is in force at once. -/
def hwStore (d : Die) (off : Nat) (w : Word) : Die := dropHeld (putReg d off w) off

/-- A host write of a cyclic register: stored, with the old value in force until the edge (R31). -/
def stage (d : Die) (off : Nat) (w : Word) : Die :=
  let old := eff d off
  let d := putReg d off w
  { d with held := sput none d.held off (some old) }

/-- Count an event in a 32-bit counter register. -/
def incReg (d : Die) (off : Nat) : Die := putReg d off (BitVec.ofNat 32 (satInc 32 (getReg d off).toNat))

/-- Count an event in a counter field. -/
def incFld (d : Die) (f : Fld) : Die := setFld d f (satInc f.w (fld d f))

/-- Keep the larger of a field and `v`. -/
def maxFld (d : Die) (f : Fld) (v : Nat) : Die := if fld d f < v then setFld d f v else d

/-- The hidden state of an axis. -/
def axH (d : Die) (a : Nat) : AxisHid := sget axisHid0 d.axes a

/-- Change the hidden state of an axis. -/
def updAx (d : Die) (a : Nat) (f : AxisHid → AxisHid) : Die := { d with axes := sput axisHid0 d.axes a (f (axH d a)) }

/-- The line-shaft state of an axis. -/
def gearH (d : Die) (a : Nat) : GearSt := sget gear0 d.gear a

/-- Change the line-shaft state of an axis. -/
def updGear (d : Die) (a : Nat) (f : GearSt → GearSt) : Die := { d with gear := sput gear0 d.gear a (f (gearH d a)) }

/-- A node of a segment. -/
def nodeH (d : Die) (seg i : Nat) : Node := sget node0 d.nodes (seg * 32 + i)

/-- Change a node. -/
def updNode (d : Die) (seg i : Nat) (f : Node → Node) : Die :=
  { d with nodes := sput node0 d.nodes (seg * 32 + i) (f (nodeH d seg i)) }

/-- A segment. -/
def segH (d : Die) (seg : Nat) : Seg := vget seg0 d.segs seg

/-- Change a segment. -/
def updSeg (d : Die) (seg : Nat) (f : Seg → Seg) : Die := { d with segs := vset d.segs seg (f (segH d seg)) }

/-- A loop engine. -/
def engH (d : Die) (e : Nat) : Engine := vget engine0 d.eng e

/-- Change a loop engine. -/
def updEng (d : Die) (e : Nat) (f : Engine → Engine) : Die := { d with eng := vset d.eng e (f (engH d e)) }

/-- A capture channel. -/
def chanH (d : Die) (c : Nat) : Chan := vget chan0 d.cap.chans c

/-- Change a capture channel. -/
def updChan (d : Die) (c : Nat) (f : Chan → Chan) : Die :=
  { d with cap := { d.cap with chans := vset d.cap.chans c (f (chanH d c)) } }

/-- A mark input. -/
def markH (d : Die) (n : Nat) : MarkIn := vget markIn0 d.cap.marks n

/-- Change a mark input. -/
def updMark (d : Die) (n : Nat) (f : MarkIn → MarkIn) : Die :=
  { d with cap := { d.cap with marks := vset d.cap.marks n (f (markH d n)) } }

/-- A step channel. -/
def stpH (d : Die) (n : Nat) : StepCh := vget stepCh0 d.stp n

/-- Change a step channel. -/
def updStp (d : Die) (n : Nat) (f : StepCh → StepCh) : Die := { d with stp := vset d.stp n (f (stpH d n)) }

/-- A step group. -/
def grpH (d : Die) (g : Nat) : StepGrp := vget stepGrp0 d.grp g

/-- Change a step group. -/
def updGrp (d : Die) (g : Nat) (f : StepGrp → StepGrp) : Die := { d with grp := vset d.grp g (f (grpH d g)) }

/-- A CAN controller. -/
def canH (d : Die) (n : Nat) : CanHid := vget canHid0 d.can n

/-- Change a CAN controller. -/
def updCan (d : Die) (n : Nat) (f : CanHid → CanHid) : Die := { d with can := vset d.can n (f (canH d n)) }

/-- A trunk port. -/
def tportH (d : Die) (p : Nat) : TPort := vget tport0 d.trk.ports p

/-- Change a trunk port. -/
def updTport (d : Die) (p : Nat) (f : TPort → TPort) : Die :=
  { d with trk := { d.trk with ports := vset d.trk.ports p (f (tportH d p)) } }

/-- Change the timebase. -/
def updTb (d : Die) (f : Timebase → Timebase) : Die := { d with tb := f d.tb }

/-- Change the trunk state. -/
def updTrk (d : Die) (f : Trunk → Trunk) : Die := { d with trk := f d.trk }

/-- Change the host port state. -/
def updHost (d : Die) (f : HostSt → HostSt) : Die := { d with host := f d.host }

/-- Change the Kennel state. -/
def updKnl (d : Die) (f : Kennel → Kennel) : Die := { d with knl := f d.knl }

/-- Change the boot controller state. -/
def updBoot (d : Die) (f : Boot → Boot) : Die := { d with boot := f d.boot }

/-- Change the power manager state. -/
def updPwr (d : Die) (f : Power → Power) : Die := { d with pwr := f d.pwr }

/-- Change the master state. -/
def updMst (d : Die) (f : Master → Master) : Die := { d with mst := f d.mst }

/-- Change the capture state. -/
def updCap (d : Die) (f : Capture → Capture) : Die := { d with cap := f d.cap }

/-- Apply `f` for each number of a list, in order. -/
def forEach {α : Type} (l : List α) (d : Die) (f : Die → α → Die) : Die := l.foldl f d

/-- Apply `f` when `c` holds. -/
def whenD (c : Bool) (d : Die) (f : Die → Die) : Die := if c then f d else d

/-- A free value the spec leaves open, and the state with the next one fresh (log entry 2). -/
def draw (d : Die) : BitVec 64 × Die := (Config.freeValue d.fresh, { d with fresh := d.fresh + 1 })

/-- Whether a domain is powered (R383). -/
def powered (d : Die) (dom : Nat) : Bool := bitOf d.pwr.dom dom

/-- A vendor session has halted a core (R412): an engine by its number, 16 the Kennel, 17 the supervisor core. -/
def halted (d : Die) (core : Nat) : Bool := bitOf d.tap.halted.toNat core

/-- PROOF mode: the strap reads 1, so no Parcel is loaded (R360, R411). -/
def proofMode (d : Die) : Bool := bitOf d.straps.toNat 15

/-- What a ball of the boundary register shows outwards (R411): in PROOF mode EXTEST and CLAMP drive it from the register and
HIGHZ floats it, else what the part does with it, `own`, stands; none is a floating ball. The balls count in the order of R398
(log entry 156). -/
def scanBall (d : Die) (ball : Nat) (own : Option Bool) : Option Bool :=
  if !proofMode d then own
  else if d.tap.ir = 0x00 ∨ d.tap.ir = 0x04 then some (bitOf d.tap.bsr.toNat ball)
  else if d.tap.ir = 0x05 then none
  else own

/-- The boundary register or HIGHZ has the balls (R411): what the part does with an output does not reach its ball. -/
def scanned (d : Die) : Bool := proofMode d && (d.tap.ir == 0x00 || d.tap.ir == 0x04 || d.tap.ir == 0x05)

/-- The beat rate of a code in Hz (R24). -/
def rateHz (code : Nat) : Nat := nth [4000, 8000, 16000, 32000, 48000, 64000, 32000, 32000] code

/-- The beat rate in use, in Hz. -/
def hz (d : Die) : Nat := rateHz (fld d Reg.BEAT_CFG_RATE)

/-- GT of beat edge k (R17). -/
def edgeGt (f k : Nat) : Nat := k * 1000000000 / f

/-- The beat index in force at a GT: ceil((gt + 1) f / 10^9) - 1 (R18). -/
def beatAt (f gt : Nat) : Nat := cdiv ((gt + 1) * f) 1000000000 - 1

/-- GT of the edge of the beat in force plus an offset in it. -/
def inBeat (d : Die) (ofs : Nat) : Nat := edgeGt (hz d) d.tb.k + ofs

/-- GT that one cycle of the 500 MHz clock takes, in units of 2^-32 ns, at the trim in force (R16, R274). -/
def cycleFix (t : Timebase) : Nat := (2 * 2 ^ 32 + 2 * t.trim).toNat

/-- Bring GT to an instant, if it lies ahead: it takes effect on the first clock edge at or after it (R26), and the cycles of
the clock up to that edge pass (R50). -/
def toGt (d : Die) (t : Nat) : Die :=
  if d.tb.gt < t then
    let adv := (t - d.tb.gt) * 2 ^ 32 - d.tb.frac
    let n := cdiv (adv - d.tb.ahead) (cycleFix d.tb)
    { d with tb := { d.tb with gt := t, frac := 0, cyc := d.tb.cyc + n, ahead := d.tb.ahead + n * cycleFix d.tb - adv } }
  else d

/-- GT of the clock edge that begins engine cycle `c`, in units of 2^-32 ns. -/
def edgeFix (t : Timebase) (c : Nat) : Nat := t.gt * 2 ^ 32 + t.frac + t.ahead + (c - t.cyc) * cycleFix t

/-- The beat runs (R20). -/
def running (d : Die) : Bool := flag d Reg.BEAT_CFG_RUN

/-- BEAT_NUM of the beat in force; 0 until the beat starts (R20). -/
def beatNum (d : Die) : Nat := (getReg d Reg.BEAT_NUM).toNat

/-- An offset lies in the axis-state RAM (R57, R124). -/
def inAxis (off : Nat) : Bool := 0x20000 ≤ off && off < 0x40000

/-- The word from before the writes of engine cycle `c` by other ports than the one that reads (R58), if there were any or
later ones are known. A port makes one access in a cycle, so its own write lies before its next read. -/
def axBefore (d : Die) (port c off : Nat) : Option Word :=
  (d.axLog.foldl (fun (b : Option AxWrite) x =>
    if x.off == off && (c < x.cyc || (c == x.cyc && x.port != port)) then
      (match b with
       | none => some x
       | some y => if x.cyc < y.cyc then some x else some y)
    else b) none).map (·.was)

/-- The word an access of a port reads in engine cycle `c` (R58). -/
def axSeen (d : Die) (port c off : Nat) : Word := (axBefore d port c off).getD (eff d off)

/-- A write of an axis-state word is later in the order of R58 than one of a port in an engine cycle: of a later cycle, or of
this cycle and a port later in the order network, gear unit, PK0 to PK3, supervisor, host, supervisor REQ := 0. -/
def AxWrite.after (x : AxWrite) (port c off : Nat) : Bool :=
  x.off == off && (c < x.cyc || (x.cyc == c && port < x.port))

/-- The bits that writes later in the order of R58 have written, those of them that `p` picks. -/
def axLaterBy (p : AxWrite → Bool) (d : Die) (port c off : Nat) : Nat :=
  d.axLog.foldl (fun m x => if x.after port c off && p x then m ||| x.bits else m) 0

/-- The bits of an axis-state word that writes later in the order of R58 have written. -/
def axLater (d : Die) (port c off : Nat) : Nat := axLaterBy (fun _ => true) d port c off

/-- A host write that is later in the order of R58 waits for its beat edge (R31). -/
def hostWaits (d : Die) (port c off : Nat) : Bool :=
  (sget none d.held off).isSome && d.axLog.any fun x => x.after port c off && x.port == 7

/-- Note a write of an axis-state word (R58). -/
def axNote (d : Die) (x : AxWrite) : Die :=
  { d with axLog := (d.axLog.filter fun y => d.tb.cyc ≤ y.cyc) ++ [x] }

/-- What a write of bits of a word leaves where later writes have written the bits `later`. -/
def axMerge (old bits w : Word) (later : Nat) : Word :=
  let m := bits &&& ~~~(BitVec.ofNat 32 later)
  (w &&& m) ||| (old &&& ~~~m)

/-- A write of bits of an axis-state word by a port in an engine cycle (R58): the bits that a later write has written keep
its value. A later host write that waits for its edge goes on waiting, and what is in force until then takes the write. -/
def axWrite (d : Die) (port c off : Nat) (bits w : Word) : Die :=
  let all := axLater d port c off
  let x := axNote d ⟨off, c, port, axSeen d port c off, bits.toNat⟩
  if hostWaits d port c off then
    let now := axMerge (eff d off) bits w (axLaterBy (fun y => y.port != 7) d port c off)
    { putReg x off (axMerge (getReg d off) bits w all) with held := sput none d.held off (some now) }
  else hwStore x off (axMerge (eff d off) bits w all)

/-- Note that the running command writes bits of an axis-state word, whether or not they change (R58); `axPlace` gives the
note its port and cycle. -/
def axMark (d : Die) (off bits : Nat) : Die :=
  if inAxis off then axNote d ⟨off, d.tb.cyc, 9, axSeen d 9 d.tb.cyc off, bits⟩ else d

/-- A write by hardware: stored and in force at once. -/
def hwPut (d : Die) (off : Nat) (w : Word) : Die := hwStore (axMark d off 0xFFFFFFFF) off w

/-- A write of a 64-bit field by hardware. -/
def hwPut64 (d : Die) (off : Nat) (i : Int) : Die :=
  let x := wrap 64 i
  hwPut (hwPut d off (BitVec.ofNat 32 x)) (off + 4) (BitVec.ofNat 32 (x >>> 32))

/-- Hardware writes a field of an axis-state word (R58). -/
def axFld (d : Die) (f : Fld) (v : Nat) : Die := setFld (axMark d f.off (2 ^ f.lo * (2 ^ f.w - 1))) f v

/-- Hardware counts an event in a counter of an axis (R58). -/
def axCount (d : Die) (off : Nat) : Die := incReg (axMark d off 0xFFFFFFFF) off

/-- A status event sets a W1C bit of an axis-state word, whether or not the bit is set already (R14). -/
def axEvent (d : Die) (f : Fld) : Die := axFld d f 1

/-- The writes that a command has noted get its port and cycle. -/
def axPlace (port c : Nat) (old new : Die) : Die :=
  { new with axLog := new.axLog.map fun x =>
      if x.port == 9 then { x with cyc := c, port := port, was := axSeen old port c x.off } else x }

/-- The writes of axis-state words by which `new` differs from `old`, made by a port in an engine cycle, take their place
in the order of R58: a bit that a later write has written stays as it was, and a later host write that waits for its edge keeps
waiting. -/
def axSettle (port c : Nat) (old new : Die) : Die :=
  let new := axPlace port c old new
  let offs := ((old.regs ++ new.regs).map (·.1)).eraseDups.filter fun o => inAxis o && getReg old o != getReg new o
  offs.foldl (fun d o =>
    let p := if port = 6 ∧ o % 0x400 = 0 then 8 else port
    let was := getReg old o
    let now := getReg d o
    let keep := BitVec.ofNat 32 (axLater old p c o) &&& (was ^^^ now)
    let d := axNote d ⟨o, c, p, axSeen old p c o, (was ^^^ now).toNat⟩
    if keep = 0 then d else
    let d := putReg d o ((now &&& ~~~keep) ||| (was &&& keep))
    if (sget none old.held o).isSome then
      { d with held := sput none d.held o (some now),
               heldLow := if old.heldLow.contains o then o :: d.heldLow.filter (· != o) else d.heldLow,
               land := sput none d.land o (sget none old.land o) }
    else d) new

/-- State code of an axis (R119). -/
def axState (d : Die) (a : Nat) : Nat := fld d (Reg.AX_STAT_STATE a)

/-- Axis states that compute (R119): Enabled and Stopping. -/
def computing (d : Die) (a : Nat) : Bool := axState d a == 2 || axState d a == 3

/-- The axis is declared. -/
def axDecl (d : Die) (a : Nat) : Bool := flag d (Reg.AX_CFG_DECL a)

/-- The declared axes, ascending. -/
def declAxes (d : Die) : List Nat := (upto 128).filter (axDecl d)

/-- Some axis is Enabled or Stopping (R21). -/
def anyMoving (d : Die) : Bool := (upto 128).any fun a => axState d a == 2 || axState d a == 3

/-- a precedes b on `w` bits (R19). -/
def precedes (w a b : Nat) : Bool :=
  let x := (b + 2 ^ w - a % 2 ^ w) % 2 ^ w
  1 ≤ x && x < 2 ^ (w - 1)

/-- Two events of one cycle, the order by SOURCE, CODE and P0 (R405). -/
def logBefore (a b : LogEvt) : Bool :=
  a.gt == b.gt && (a.src < b.src || (a.src == b.src && (a.code < b.code || (a.code == b.code && a.p0 < b.p0))))

/-- An event takes its place in the write queue: behind all but those of its own cycle that it precedes (R405). -/
def logInsert (e : LogEvt) : List LogEvt → List LogEvt
  | [] => [e]
  | x :: xs => if logBefore e x then e :: x :: xs else x :: logInsert e xs

/-- An event enters the Logbook's write queue (R405, R407). With the Logbook frozen it is lost; with the queue full the one
that would stand last is. -/
def logPut (d : Die) (e : LogEvt) : Die :=
  let q := if flag d Reg.LOG_STAT_FROZEN then d.lgb.queue else (logInsert e d.lgb.queue).take 32
  if q.length = d.lgb.queue.length then
    let d := setFlag (incReg d Reg.LOG_CNT_LOST) Reg.LOG_STAT_LOSS
    { d with lgb := { d.lgb with queue := q, lossNext := true } }
  else { d with lgb := { d.lgb with queue := q } }

/-- An event of this instant enters the Logbook's write queue (R405). -/
def logEvt (d : Die) (src code sev p0 p1 p2 : Nat) : Die := logPut d ⟨d.tb.gt, src, code, sev, p0, p1, p2, false⟩

/-- A bit of CAN_n_STAT that interrupts: RXNE, RXOVR, TXDONE, BOFF, EPASS (R356). -/
def canIrq (d : Die) (n : Nat) : Bool :=
  !(canH d n).fifo.isEmpty || bitsOf (getReg d (Reg.CAN_STAT n)).toNat 4 4 != 0

/-- HST_IRQ_STAT as it reads: the stored W1C bits and the mirrors (R356). -/
def irqStat (d : Die) : Nat :=
  let raw := (getReg d Reg.HST_IRQ_STAT).toNat
  let err := bitOf raw 1 || flag d Reg.HST_ERR_VALID
  let can := canIrq d 0 || canIrq d 1 || canIrq d 2 || canIrq d 3
  b2n (bitOf raw 0) + 2 * b2n err + 4 * b2n (flag d Reg.CTR_STAT_DL) + 8 * b2n (flag d Reg.BEAT_STAT_SHED_C) +
    16 * b2n (bitOf raw 4) + 32 * b2n can + 64 * b2n (bitOf raw 6) +
    128 * b2n ((getReg d Reg.HST_SPI_ERR).toNat != 0) + 256 * b2n (bitOf raw 8)

/-- Set a W1C bit of HST_IRQ_STAT. -/
def irqSet (d : Die) (bit : Nat) : Die :=
  putReg d Reg.HST_IRQ_STAT (BitVec.ofNat 32 (setBit (getReg d Reg.HST_IRQ_STAT).toNat bit))

/-- Pending interrupt bits: set in HST_IRQ_STAT and enabled (R356). -/
def irqPend (d : Die) : Nat := irqStat d &&& fld d Reg.HST_IRQ_EN_EN

/-- The PCIe endpoint is selected, powered and in D0 (R328, R330): in D3hot it sends nothing. -/
def pcieLive (d : Die) : Bool := (d.straps.toNat % 4 < 2) && powered d 57 && !d.host.pmD3 && !d.host.perst

/-- Whether the PCIe port writes host memory: in D0, Bus Master Enable set (R330). -/
def pcieOn (d : Die) : Bool := pcieLive d && d.host.bme

/-- HIRQ_N is low: the QSPI port, an interrupt pending (R356); nothing holds it off (R357). -/
def hirqLow (d : Die) : Bool := d.straps.toNat % 4 == 2 && powered d 57 && irqPend d != 0

/-- The HIRQ_N ball, open drain (R356, R398, R411). -/
def hirqBall (d : Die) : Option Bool := scanBall d 119 (if hirqLow d then some false else none)

/-- INTA is the way interrupts are signalled (R330, R356): neither MSI-X nor MSI is enabled. -/
def intaOn (d : Die) : Bool := pcieLive d && !d.host.msixEn && !d.host.msiEn && !d.host.intxDis

/-- INTA is asserted (R356, R357): a bit is pending. CMPL does not count while its message is held off. -/
def intaLevel (d : Die) : Bool :=
  intaOn d && (irqPend d / 2 != 0 || (bitOf (irqPend d) 0 && !d.host.holdPend))

/-- Messages for the bits `vs` of HST_IRQ_STAT (R356): with MSI-X a vector each, with MSI one, numbered 16, that covers all the
bits a command makes pending. While the function mask of MSI-X stands they wait (log entry 13). -/
def irqSend (d : Die) (vs : List Nat) : Die :=
  if vs.isEmpty || !pcieOn d then d
  else if d.host.msixEn then
    (if d.host.msixMask then
      updHost d fun h => { h with msixWait := h.msixWait ++ vs.filter fun n => !h.msixWait.contains n }
    else updHost d fun h => { h with irqMsgs := h.irqMsgs ++ vs })
  else if d.host.msiEn && !d.host.irqMsgs.contains 16 then updHost d fun h => { h with irqMsgs := h.irqMsgs ++ [16] }
  else d

/-- The part may send a CMPL message (R330, R356): a write of host memory, or INTA. -/
def cmplCan (d : Die) : Bool :=
  bitOf (fld d Reg.HST_IRQ_EN_EN) 0 &&
    (if d.host.msixEn || d.host.msiEn then pcieOn d else intaOn d)

/-- A CMPL message (R357), held while a hold-off runs; sent, it starts one. An assertion of INTA is made at the end of the
command (`irqSettle`). -/
def cmplMsg (d : Die) : Die :=
  if d.host.holdEnd.isSome then updHost d fun h => { h with holdPend := true } else
  let t := fld d Reg.HST_IRQ_HOLDOFF_HOLDOFF
  updHost (irqSend d [0]) fun h => { h with holdEnd := if t = 0 then none else some (d.tb.gt + 1000 * t) }

/-- CMPL sends its message also where no entry is written (R356, R357): its bit, set before, is now enabled, or INTA can now
show it. -/
def cmplSettle (old d : Die) : Die :=
  let p := bitOf (irqPend d) 0
  let enabled := p && !bitOf (irqPend old) 0 && bitOf (getReg old Reg.HST_IRQ_STAT).toNat 0 && cmplCan d
  if enabled || (p && intaOn d && !intaOn old) then cmplMsg d else d

/-- The bits that became pending since `old` send their messages, CMPL by its own rule; then a change of INTA, numbered 17 for
its assertion and 18 for its end (R356, R357). -/
def irqSettle (old d : Die) : Die :=
  let d := if irqPend d = irqPend old then d
    else irqSend d ((upto 9).filter fun i => i != 0 && bitOf (irqPend d) i && !bitOf (irqPend old) i)
  let d := cmplSettle old d
  if intaLevel d = intaLevel old ∨ !pcieLive d then d
  else updHost d fun h => { h with irqMsgs := h.irqMsgs ++ [if intaLevel d then 17 else 18] }

/-- Rejection of an access: recorded in HST_ERR, counted (R340). -/
def reject (d : Die) (off : Nat) (rd : Bool) (code : Nat) : Die :=
  let d := incReg d Reg.HST_CNT_ERR
  if flag d Reg.HST_ERR_VALID then setFlag d Reg.HST_ERR_MULTI
  else putReg d Reg.HST_ERR (BitVec.ofNat 32 (code + 256 * (off % 2 ^ 20) + 2 ^ 28 * b2n rd + 2 ^ 31))

/-- Change the commands that match. -/
def updCmds (d : Die) (p : Cmd → Bool) (f : Cmd → Cmd) : Die :=
  updHost d fun h => { h with cmds := h.cmds.map fun c => if p c then f c else c }

/-- A command finishes with a status and results; its entry waits for COMPLETION_WRITE (R347, R349). -/
def complete (d : Die) (ticket status r0 r1 : Nat) : Die :=
  if ticket = 0 then d else
  updCmds d (fun c => c.ticket == ticket && !c.done)
    fun c => { c with started := true, done := true, status := status, r0 := r0, r1 := r1 }

/-- Tickets outstanding: commands not delivered, and own entries delivered and not consumed (R346); entries of members
stand with ticket 0. -/
def outstanding (d : Die) : Nat := d.host.cmds.length + (d.host.delivered.filter fun x => x.1 != 0).length

/-- Descriptor word `w` of an index (R151). -/
def descWord (d : Die) (i w : Nat) : Nat := ((sget 0 d.knl.descs i).toNat >>> (32 * w)) % 2 ^ 32

/-- Descriptor fields (R151). -/
def descValid (d : Die) (i : Nat) : Bool := bitOf (descWord d i 0) 31

/-- ENTRY of a descriptor. -/
def descEntry (d : Die) (i : Nat) : Nat := bitsOf (descWord d i 0) 0 14

/-- LEVEL of a descriptor. -/
def descLevel (d : Die) (i : Nat) : Nat := bitsOf (descWord d i 0) 14 4

/-- The axis a descriptor names, if any. -/
def descAxis (d : Die) (i : Nat) : Option Nat :=
  if bitOf (descWord d i 0) 25 then some (bitsOf (descWord d i 0) 18 7) else none

/-- CLASS of a descriptor. -/
def descClass (d : Die) (i : Nat) : Nat := bitsOf (descWord d i 0) 26 3

/-- MULTI of a descriptor. -/
def descMulti (d : Die) (i : Nat) : Bool := bitOf (descWord d i 0) 29

/-- ENGMASK of a descriptor. -/
def descMask (d : Die) (i : Nat) : Nat := bitsOf (descWord d i 1) 0 16

/-- The descriptor of a class with an axis (R152). -/
def findDesc (d : Die) (cls a : Nat) : Option Nat :=
  (d.knl.descs.find? fun x => descValid d x.1 && descClass d x.1 == cls && descAxis d x.1 == some a).map (·.1)

/-- The queue of a source. -/
def kqueue (d : Die) (src : Nat) : List QEnt := sget [] d.knl.queues src

/-- Store the queue of a source. -/
def setQueue (d : Die) (src : Nat) (q : List QEnt) : Die :=
  updKnl d fun k => { k with queues := sput [] k.queues src q }

/-- A posting; refused and counted when the queue holds 64 entries (R158). -/
def kpost (d : Die) (src : Nat) (e : QEnt) : Die × Bool :=
  let q := kqueue d src
  if 64 ≤ q.length then (incFld d (Reg.KNL_QFILL_FULLCNT src), false)
  else (maxFld (setQueue d src (q ++ [e])) (Reg.KNL_QFILL_PEAK src) (q.length + 1), true)

/-- Trigger a Pawprint stop by cause (R166): 1 overrun beat, 2 start of level A or B, 3 engine fault. -/
def ppTrigger (d : Die) (cause : Nat) : Die :=
  if flag d Reg.KNL_PP_CTL_RUN && fld d Reg.KNL_PP_CTL_TRIG == cause && !flag d Reg.KNL_PP_STAT_TRIGGERED then
    let d := setFlag d Reg.KNL_PP_STAT_TRIGGERED
    let d := setFld d Reg.KNL_PP_TRIGIDX_TRIGIDX (fld d Reg.KNL_PP_WPTR_WPTR)
    updKnl d fun k => { k with ppTrig := true, ppPost := some (fld d Reg.KNL_PP_CTL_POSTCNT) }
  else d

/-- A Pawprint event enters the trace queue, or is dropped and counted (R165). -/
def ppEvt (d : Die) (event engine level idx src detail : Nat) : Die :=
  let always := event == 0x0B || event == 0x0C
  if !(flag d Reg.KNL_PP_CTL_RUN) then d
  else if !always && !bitOf (fld d Reg.KNL_PP_LVLMASK_MASK) level then d
  else if 512 ≤ d.knl.trace.length then
    updKnl (incReg d Reg.KNL_PP_LOST) fun k => { k with traceLost := true }
  else updKnl d fun k =>
    { k with trace := k.trace ++ [⟨d.tb.gt, event, engine, level, idx, src, beatNum d % 2 ^ 16, detail, k.traceLost⟩],
             traceLost := false }

/-- STO active for an axis as the control die has it (R302). -/
def stoActive (d : Die) (a : Nat) : Bool := (axH d a).sto || 2 ≤ d.dogIo.msgQuiet

/-- The segment, node, slot of an axis's slot-map entry. -/
def slotWord (d : Die) (seg slot : Nat) : Nat :=
  bitsOf (getReg d (Reg.LSH_SLOTMAP seg (slot / 2))).toNat (16 * (slot % 2)) 16

/-- The slots in use of a segment: (slot index, map entry). -/
def slotsOf (d : Die) (seg : Nat) : List (Nat × Nat) :=
  ((upto (fld d (Reg.LSH_SCFG_NSLOT seg))).map fun j => (j, slotWord d seg j)).filter fun x => bitOf x.2 7

/-- The outputs that are on: both switches of each (R296). -/
def Dog.so (g : Dog) : BitVec 4 := g.soA &&& g.soB

/-- A W1C bit of SHD_STAT. -/
def dogSticky (d : Die) (bit : Nat) : Die := { d with dogIo := { d.dogIo with sticky := setBit d.dogIo.sticky bit } }

/-- A value of the control die: no effect on the Sheepdog or on the queue of commands. -/
def onDie (f : Die → Die) (s : State) : Host.Outcome State Fault Refusal :=
  .next { s with die := irqSettle s.die (f { s.die with host := { s.die.host with irqMsgs := [] } }) }

/-- A command of the control die that also looks at the Sheepdog's mirror registers. -/
def onDieDog (f : Dog → Die → Die) (s : State) : Host.Outcome State Fault Refusal := onDie (f s.dog) s

/-- A command of the power manager: it may act on the Sheepdog and on the control die. Events that the Sheepdog drops set
SHD_STAT.EVLOST (R305). -/
def onPower (f : Dog → Die → Dog × Die) (s : State) : Host.Outcome State Fault Refusal :=
  let r := f s.dog { s.die with host := { s.die.host with irqMsgs := [] } }
  let d := if s.dog.evlost < r.1.evlost then dogSticky r.2 11 else r.2
  .next { s with dog := r.1, die := irqSettle s.die d }

/-- A command of the Sheepdog: while the PSD is supplied it acts on the Sheepdog, and hands the control die what the link
carries. -/
def onDog (f : Dog → Die → Dog × Die) (s : State) : Host.Outcome State Fault Refusal :=
  if s.die.pwr.up then onPower f s else .next s

end Sys2Proof.Machine
end

