-- ==== Sys2Proof/Machine/Clock.lean ====
section
/-! DEFINITION. What passes with time alone: one cycle of the 500 MHz clock, with GT advancing at the trimmed crystal
rate (R16, R26; log entry 1). -/

namespace Sys2Proof.Machine

/-- GT in units of 2^-32 ns after one cycle of 2 ns at the trim in force (R16, R274: trim in units of 2^-32). -/
def gtCycle (t : Timebase) : Timebase :=
  let x : Int := ((t.gt * 2 ^ 32 + t.frac : Nat) : Int) + 2 * 2 ^ 32 + 2 * t.trim
  let n := x.toNat % 2 ^ 96
  { t with gt := n / 2 ^ 32, frac := n % 2 ^ 32, cyc := t.cyc + 1 }

/-- One cycle of the 500 MHz clock with no command waiting. -/
def idleCycle (s : State) : State :=
  if s.die.inReset then s else { s with die := updTb s.die gtCycle }

end Sys2Proof.Machine
end

