-- ==== Sys2Proof/Machine/Operands.lean ====
section
/-! DEFINITION. Operand forms of the loop engines: the fields of an instruction word (R77), the fields an instruction
uses (R421), mantissas, exponents and accumulators (R61, R62, R67), pointers (R78), and the axis window (R82). -/

namespace Sys2Proof.Machine

/-- Fields of an instruction word (R77): opcode. -/
def iOp (w : Nat) : Nat := bitsOf w 42 6

/-- Destination or condition. -/
def iA (w : Nat) : Nat := bitsOf w 38 4

/-- First source. -/
def iB (w : Nat) : Nat := bitsOf w 34 4

/-- Second source. -/
def iC (w : Nat) : Nat := bitsOf w 30 4

/-- Exponent register of B and of the result. -/
def iEX (w : Nat) : Nat := bitsOf w 28 2

/-- Exponent register of C, or target exponent. -/
def iEY (w : Nat) : Nat := bitsOf w 26 2

/-- Accumulator. -/
def iAC (w : Nat) : Nat := bitsOf w 24 2

/-- Class I sub-field. -/
def iS (w : Nat) : Nat := bitsOf w 24 10

/-- Class I immediate. -/
def iImm (w : Nat) : Nat := bitsOf w 0 24

/-- Mask of the bits [hi:lo]. -/
def fieldMask (hi lo : Nat) : Nat := (2 ^ (hi - lo + 1) - 1) * 2 ^ lo

/-- A used mask of R421 from field names: A, B, C, EX, EY, AC. -/
def useMask (a b c ex ey ac : Bool) : Nat :=
  b2n a * fieldMask 41 38 + b2n b * fieldMask 37 34 + b2n c * fieldMask 33 30 + b2n ex * fieldMask 29 28 +
    b2n ey * fieldMask 27 26 + b2n ac * fieldMask 25 24

/-- The X and Y move fields are well formed: reserved bits 0, and a disabled move all 0 (R77, R421). -/
def movesOk (w : Nat) : Bool :=
  (if bitOf w 23 then !bitOf w 12 else bitsOf w 12 12 == 0) &&
    (if bitOf w 11 then bitsOf w 0 2 == 0 else bitsOf w 0 12 == 0)

/-- A class M word whose unused fields are 0 (R421). -/
def usedM (use w : Nat) : Bool := (w % 2 ^ 42) &&& (2 ^ 42 - 2 ^ 24 - use) == 0 && movesOk w

/-- A class I word whose unused bits are 0 (R421). -/
def usedI (use w : Nat) : Bool := (w % 2 ^ 42) &&& (2 ^ 42 - 1 - use) == 0

/-- A D register. -/
def dReg (c : Ctx) (i : Nat) : DWord := vget 0 c.d i

/-- Real lane (R61). -/
def laneRe (x : DWord) : Int := sext 24 x.toNat

/-- Imaginary lane. -/
def laneIm (x : DWord) : Int := sext 24 (x.toNat >>> 24)

/-- Paired value (R62). -/
def paired (x : DWord) : Int := sext 48 x.toNat

/-- A D word of two lanes. -/
def mkLanes (re im : Int) : DWord := BitVec.ofNat 48 (wrap 24 re + 2 ^ 24 * wrap 24 im)

/-- A D word of a paired value. -/
def mkPaired (m : Int) : DWord := BitVec.ofNat 48 (wrap 48 m)

/-- Exponent register. -/
def expReg (c : Ctx) (i : Nat) : Int := (vget 0 c.e i).toInt

/-- Write a D register. -/
def putD (c : Ctx) (i : Nat) (x : DWord) : Ctx := { c with d := vset c.d i x }

/-- Write an exponent register. -/
def putE (c : Ctx) (i : Nat) (x : Int) : Ctx := { c with e := vset c.e i (BitVec.ofNat 8 (wrap 8 x)) }

/-- Real half of an accumulator (R60). -/
def accRe (c : Ctx) (i : Nat) : Int := sext 64 (vget 0 c.acc i).toNat

/-- Imaginary half of an accumulator. -/
def accIm (c : Ctx) (i : Nat) : Int := sext 64 ((vget 0 c.acc i).toNat >>> 64)

/-- A paired-mode accumulator: one 128-bit number. -/
def accPair (c : Ctx) (i : Nat) : Int := sext 128 (vget 0 c.acc i).toNat

/-- Accumulator exponent (R67). -/
def accExp (c : Ctx) (i : Nat) : Int := (vget 0 c.xa i).toInt

/-- Accumulator mode: true for paired. -/
def accMode (c : Ctx) (i : Nat) : Bool := vget false c.am i

/-- Write the halves of an accumulator. -/
def putHalves (c : Ctx) (i : Nat) (re im : Int) : Ctx :=
  { c with acc := vset c.acc i (BitVec.ofNat 128 (wrap 64 re + 2 ^ 64 * wrap 64 im)) }

/-- Write a paired accumulator. -/
def putPair (c : Ctx) (i : Nat) (x : Int) : Ctx := { c with acc := vset c.acc i (BitVec.ofNat 128 (wrap 128 x)) }

/-- Set XA and the mode of an accumulator (R67, R68). -/
def setAcc (c : Ctx) (i : Nat) (xa : Int) (mode : Bool) : Ctx :=
  { c with xa := vset c.xa i (BitVec.ofNat 10 (wrap 10 xa)), am := vset c.am i mode }

/-- Pointer register. -/
def ptr (c : Ctx) (i : Nat) : Nat := (vget 0 c.p i).toNat

/-- The pointer after a post-modify step with its modulo correction (R78). -/
def postMod (c : Ctx) (i code : Nat) : Nat :=
  if code = 0 then ptr c i else
  let n := (vget 0 c.n i).toNat
  let stepBy := if code = 1 then 1 else if code = 2 then 2 ^ 16 - 1 else n
  let b := (vget 0 c.b i).toNat
  let l := (vget 0 c.l i).toNat
  let p := (ptr c i + stepBy) % 2 ^ 16
  if l = 0 then p
  else if b + l ≤ p then (p + 2 ^ 16 - l) % 2 ^ 16
  else if p < b then (p + l) % 2 ^ 16
  else p

/-- Apply a post-modify code to a pointer (R78). -/
def stepPtr (c : Ctx) (i code : Nat) : Ctx := { c with p := vset c.p i (BitVec.ofNat 16 (postMod c i code)) }

/-- Whether a number lies in an array of registers: its dimensions are (count, stride), the largest stride first. -/
def inDims : List (Nat × Nat) → Nat → Bool
  | [], x => x == 0
  | (n, st) :: ds, x => x / st < n && inDims ds (x % st)

/-- Whether a row of the register map holds an offset. -/
def rowHolds (off : Nat) (r : RegRow) : Bool := r.base ≤ off && inDims r.dims (off - r.base)

/-- Whether a byte offset of an axis record is listed, so not reserved (R124, R150). -/
def axListed (o : Nat) : Bool := o < 1024 && Reg.axRows.any (rowHolds (0x20000 + o))

/-- A byte offset the axis window accepts: aligned for the mode, and listed (R82). -/
def axWindowOk (wide : Bool) (o : Nat) : Bool :=
  if wide then o % 8 == 0 && axListed o && axListed (o + 4) else o % 4 == 0 && axListed o

/-- BAR0 offset of a byte offset in the record of an axis (R124). -/
def axAddr (a o : Nat) : Nat := 0x20000 + a * 0x400 + o

end Sys2Proof.Machine
end

