-- ==== Sys2Proof/Machine/Flags.lean ====
section
/-! DEFINITION. Saturation (R65), alignment and rounding of engine results (R67 to R73), sign counts (R64) and the
flags of SR (R85). -/

namespace Sys2Proof.Machine

/-- Saturation to `w` bits, and whether it acted (R65). -/
def satTo (w : Nat) (x : Int) : Int × Bool :=
  let hi : Int := 2 ^ (w - 1) - 1
  let lo : Int := -(2 ^ (w - 1))
  if hi < x then (hi, true) else if x < lo then (lo, true) else (x, false)

/-- A product aligned to an accumulator: exact to the left, truncated to the right (R67). -/
def alignProd (t d : Int) : Int := if 0 ≤ d then t * 2 ^ d.toNat else t / 2 ^ (-d).toNat

/-- A shift count limited to 47 in magnitude (R73, R81). -/
def lim47 (s : Int) : Int := clampI s (-47) 47

/-- A lane shifted by s: left saturating, right rounding convergently (R69, R71, R73). -/
def shiftLane (x s : Int) : Int × Bool :=
  if 0 ≤ s then satTo 24 (x * 2 ^ s.toNat) else satTo 24 (convShr x (-s).toNat)

/-- A paired value shifted by s: left saturating, right rounding half up (R70, R71, R73). -/
def shiftPair (x s : Int) : Int × Bool :=
  if 0 ≤ s then satTo 48 (x * 2 ^ s.toNat) else satTo 48 (halfUpShr x (-s).toNat)

/-- The redundant sign count of a lane (R64). -/
def rsb (m : Int) : Nat :=
  let x := if m < 0 then (-m - 1).toNat else m.toNat
  23 - (if x = 0 then 0 else Nat.log2 x + 1)

/-- The result of the arithmetic of a class M instruction: the context with its destination written, the value whose
sign sets Z and N (none for NOP, EFD and DFE), and what acted (R65, R74, R85). -/
structure AluOut where
  ctx : Ctx
  res : Option Int
  sat : Bool
  eovf : Bool
  eunf : Bool
  lim : Bool
  deriving DecidableEq, Repr

/-- SR after a class M instruction (R85): Z and N from the result, V if it saturated or clamped an exponent, LIM as
CLMP says, and the sticky flags. -/
def srAfter (sr : Flags) (o : AluOut) : Flags :=
  match o.res with
  | none => sr
  | some r =>
    { sr with z := r == 0, n := r < 0, v := o.sat || o.eovf || o.eunf, lim := o.lim, sat := sr.sat || o.sat,
              eovf := sr.eovf || o.eovf, eunf := sr.eunf || o.eunf }

/-- A result in a D register taken on its real lane (R85). -/
def outLane (c : Ctx) (i : Nat) (re im : Int) (sat : Bool) : AluOut :=
  { ctx := putD c i (mkLanes re im), res := some re, sat := sat, eovf := false, eunf := false, lim := false }

/-- A paired result in a D register (R85). -/
def outPair (c : Ctx) (i : Nat) (m : Int) (sat : Bool) : AluOut :=
  { ctx := putD c i (mkPaired m), res := some m, sat := sat, eovf := false, eunf := false, lim := false }

/-- A lane-mode accumulator result: Z and N from the real half (R85). -/
def outAcc (c : Ctx) (i : Nat) (re im : Int) (sat : Bool) : AluOut :=
  { ctx := putHalves c i re im, res := some re, sat := sat, eovf := false, eunf := false, lim := false }

/-- A paired accumulator result: Z and N from the whole value (R85). -/
def outAccPair (c : Ctx) (i : Nat) (x : Int) (sat : Bool) : AluOut :=
  { ctx := putPair c i x, res := some x, sat := sat, eovf := false, eunf := false, lim := false }

/-- No result: the flags stay (R85). -/
def outNone (c : Ctx) : AluOut := { ctx := c, res := none, sat := false, eovf := false, eunf := false, lim := false }

/-- The conditions of JCC (R84): none for a reserved code. -/
def jccHolds (sr : Flags) (code : Nat) : Option Bool :=
  match code with
  | 0 => some true
  | 1 => some sr.z
  | 2 => some (!sr.z)
  | 3 => some sr.n
  | 4 => some (!sr.n)
  | 5 => some sr.v
  | 6 => some (!sr.v)
  | 7 => some sr.qf
  | 8 => some sr.lim
  | _ => none

end Sys2Proof.Machine
end

