-- ==== Sys2Proof/Machine/IsaM.lean ====
section
/-! DEFINITION. Issuing an engine instruction (R55, R79, R88), and the class M instructions (R80). A command names the
engine; the instruction it runs is the word at the PC of the engine's active task. Where the engine runs no task, or
the word there is another instruction's, the command finds nothing to do. -/

namespace Sys2Proof.Machine

/-- The task an engine can issue from: its domain powered, not halted by a vendor session (R412), a task active (R160). -/
def issuing (d : Die) (e : Nat) : Option Task :=
  if powered d e && !halted d e then (engH d e).active.filter fun t => !t.parked else none

/-- The instruction word at a PC; the four I memories hold one image (R52). -/
def fetch (d : Die) (pc : Nat) : Nat := (sget imemDefault d.mem.imem pc).toNat

/-- Where execution continues at `pc`: at the word after the last body word of the innermost loop it loops back while
iterations are left, else that loop is spent (R83). -/
def seqFlow (pc : Nat) : List LoopEnt → Nat × List LoopEnt
  | [] => (pc, [])
  | l :: ls =>
    if pc = l.stop then (if 2 ≤ l.left then (l.start, { l with left := l.left - 1 } :: ls) else seqFlow pc ls)
    else (pc, l :: ls)

/-- A target lies in the body of a loop (R83). -/
def inBody (l : LoopEnt) (t : Nat) : Bool := (t + 2 ^ 14 - l.start) % 2 ^ 14 < (l.stop + 2 ^ 14 - l.start) % 2 ^ 14

/-- A jump: a target outside the innermost body ends that loop (R83). -/
def jumpTo (c : Ctx) (t : Nat) : Ctx :=
  let loops := match c.loops with
    | [] => []
    | l :: ls => if inBody l t then l :: ls else ls
  { c with pc := BitVec.ofNat 14 t, loops := loops }

/-- Execution continues in sequence at a word (R83). -/
def flowTo (c : Ctx) (pc : Nat) : Ctx :=
  let r := seqFlow (pc % 2 ^ 14) c.loops
  { c with pc := BitVec.ofNat 14 r.1, loops := r.2 }

/-- The instruction after this one in sequence. -/
def flowNext (c : Ctx) : Ctx := flowTo c (c.pc.toNat + 1)

/-- An engine is busy for `n` cycles from the first cycle on in which it can issue, in cycle `c` at the earliest (R37, R55). -/
def Engine.occupy (g : Engine) (c n : Nat) : Engine :=
  { g with beatBusy := g.beatBusy + n, free := max g.free c + n,
           spans := (max g.free c, n) :: g.spans.filter fun x => c < x.1 + x.2 }

/-- The busy cycles of an engine that lie in cycle `c` or later. -/
def Engine.busyFrom (g : Engine) (c : Nat) : Nat := g.spans.foldl (fun m x => m + (x.1 + x.2 - max x.1 c)) 0

/-- Busy cycles of an engine (R37, LE_n_CYC): an instruction issues in the first cycle in which the engine can, and the
next one after its cycles (R55). -/
def busyFor (d : Die) (e n : Nat) : Die :=
  let d := put64 d (Reg.LE_CYC e) (get64 d (Reg.LE_CYC e) + n)
  updEng d e fun g =>
    { g.occupy d.tb.cyc n with freed := none, active := g.active.map fun t => { t with busy := t.busy + n } }

/-- The cycle in which the instruction of `n` cycles that an engine performs issued. -/
def issuedAt (d : Die) (e n : Nat) : Nat := (engH d e).free - n

/-- The cycle in which an LDA or STA of an engine makes its access: the one of its four cycles in which the engine owns its
pack's port (R57). -/
def ownedCycle (d : Die) (e : Nat) : Nat :=
  let c := issuedAt d e 4
  c + (e + 4 - c % 4) % 4

/-- The memory words an instruction reads (R53): its own word and what its X and Y moves or its axis-window access
load. -/
def wordsRead (w : Nat) : Nat :=
  let op := iOp w
  if op < 0x22 then 1 + b2n (bitOf w 23 && !bitOf w 22) + b2n (bitOf w 11)
  else if op = 0x27 then (if bitsOf w 24 2 = 1 then 3 else 2)
  else if op = 0x28 then (if bitsOf w 24 2 = 3 then 3 else 1)
  else 1

/-- Corrected single-bit errors are counted, one for each word (R53); a word with a double-bit error has none. -/
def eccCount (d : Die) (e w : Nat) (ecc : Ecc) : Die :=
  let n := min ecc.fixed.val (wordsRead w - b2n ecc.bad)
  if n = 0 then d else setFlag ((upto n).foldl (fun d _ => incReg d (Reg.LE_ECCCNT e)) d) (Reg.LE_STICKY_ECC e)

/-- The effect of an engine fault on the axis of its task: ENGINE for a POSITION or FIXED task (R108); for the resonance
tracker (log entry 12: the vendor's ADAPT task), OFF and its Logbook entry (R117, R409). -/
def faultAxis (d : Die) (e : Nat) (t : Task) : Die :=
  match descAxis d t.idx with
  | none => d
  | some a =>
    if descClass d t.idx ≤ 1 then updAx d a fun h => { h with conds := { h.conds with engine := true } }
    else if descClass d t.idx = 3 && sget 0 d.knl.vendor t.idx == 1 then
      logEvt (axSettle 6 d.tb.cyc d (axFld d (Reg.AX_TRK_STAT_OFF a) 1)) 3 3 1 a (getReg d (Reg.LE_FAULT e)).toNat 0
    else d

/-- A released record leaves its slot free: FREESEQ moves past the records released in sequence (R189). -/
def releaseSeq (d : Die) (c seq : Nat) : Die :=
  let d := updChan d c fun h => { h with freed := seq :: h.freed }
  (upto (chanH d c).freed.length).foldl (fun d _ =>
    let f := fld d (Reg.CAP_CH_FREESEQ_SEQ c)
    if (chanH d c).freed.contains f then
      updChan (setFld d (Reg.CAP_CH_FREESEQ_SEQ c) (f + 1)) c fun h => { h with freed := h.freed.filter (· != f) }
    else d) d

/-- A level is suspended (KNL_STAT.SUSP). -/
def suspended (d : Die) (lvl : Nat) : Bool := bitOf (fld d Reg.KNL_STAT_SUSP) lvl

/-- The head of a shared queue is blocked: a multi-instance descriptor while the instance store is full or its level
suspended (R157). -/
def headBlocked (d : Die) (src : Nat) : Bool :=
  match kqueue d src with
  | .desc i _ _ :: _ => descMulti d i && (256 ≤ d.knl.store || suspended d (descLevel d i))
  | _ => false

/-- A head that is no longer blocked is not marked: its next blocking is an event of its own (R165). -/
def clearBlocked (d : Die) : Die :=
  updKnl d fun k => { k with blocked := (upto 18).foldl (fun m j =>
    if bitOf m (5 + j) && !headBlocked d (5 + j) then clrBit m (5 + j) else m) k.blocked }

/-- BLOCKED events for the heads that became blocked, in ascending source number (R165). -/
def noteBlocked (d : Die) : Die :=
  let d := (upto 18).foldl (fun d j =>
    let src := 5 + j
    if headBlocked d src && !bitOf d.knl.blocked src then
      (match kqueue d src with
       | .desc i _ _ :: _ => ppEvt d 0x0D 0 (descLevel d i) i src src
       | _ => d)
    else d) d
  updKnl d fun k => { k with blocked := (upto 18).foldl (fun m j => if headBlocked d (5 + j) then setBit m (5 + j) else m) 0 }

/-- An instance ends, by DONE (cause 0), a fault, abort or removal: its entry of the instance store is free (R157); a
HOSTJOB's command completes (R351); a capture analysis releases its record under AUTOFREE (R189). -/
def instEnd (d : Die) (t : Task) (cause : Nat) : Die :=
  let d := if descMulti d t.idx then clearBlocked (updKnl d fun k => { k with store := k.store - 1 }) else d
  if descClass d t.idx = 5 then
    (if cause = 0 then complete d t.arg 0 (bitsOf (dReg t.ctx 1).toNat 0 32) (bitsOf (dReg t.ctx 2).toNat 0 32)
     else complete d t.arg 1 cause 0)
  else if descClass d t.idx = 4 && t.src == 5 then
    let c := t.arg / 2 ^ 28
    let d := if cause = 0 then d else setFlag d (Reg.CAP_CH_STAT_FAULTEND c)
    if flag d (Reg.CAP_CH_SRC_AUTOFREE c) && flag d (Reg.CAP_CH_SRC_AEN c) then releaseSeq d c (t.arg % 2 ^ 28) else d
  else d

/-- An engine fault (R88): the instruction has no effect; the task ends, cause, PC and task are recorded, the fault is
counted and logged, and the Kennel has the end to process. -/
def engineFault (d : Die) (e : Nat) (t : Task) (cause : Nat) : Die :=
  let d := putReg d (Reg.LE_FAULT e) (BitVec.ofNat 32 (cause + 2 ^ 4 * t.ctx.pc.toNat + 2 ^ 18 * t.idx))
  let d := setFlag d (Reg.LE_STICKY_FAULT e)
  let d := incReg d (Reg.LE_FAULTCNT e)
  let d := logEvt d 2 1 2 e (getReg d (Reg.LE_FAULT e)).toNat (beatNum d)
  let d := ppTrigger d 3
  let t := ((engH d e).active).getD t
  let d := instEnd (faultAxis d e t) t cause
  updEng d e fun g => { g with active := none, ended := some ⟨t, cause⟩ }

/-- What an instruction does: the die with its effects outside the context, and the context; or the causes of R88 whose
conditions hold, and then it faults. -/
abbrev Retire := Except (List Nat) (Die × Ctx)

/-- The cause a fault records: the one whose condition holds; where several hold, any one of them, since no rule orders
them (log entry 14). -/
def pickCause (d : Die) : List Nat → Nat × Die
  | [] => (0, d)
  | [c] => (c, d)
  | cs => let r := draw d; (nth cs (r.1.toNat % cs.length), r.2)

/-- Issue the instruction at the PC of engine `e` if its opcode satisfies `mine`: its cycles are busy, and it retires
or faults. A double-bit error in a word it reads is a MEM fault (R53). -/
def issue (mine : Nat → Bool) (cycles : Nat) (run : Die → Task → Nat → Retire) (e : Nat) (ecc : Ecc) (d : Die) :
    Die :=
  match issuing d e with
  | none => d
  | some t =>
    let w := fetch d t.ctx.pc.toNat
    if !mine (iOp w) then d else
    let d := eccCount (busyFor d e cycles) e w ecc
    match run d t w, ecc.bad with
    | .error causes, true => let r := pickCause d (8 :: causes); engineFault r.2 e t r.1
    | .error causes, false => let r := pickCause d causes; engineFault r.2 e t r.1
    | .ok _, true => engineFault d e t 8
    | .ok (d', c), false => updEng d' e fun g => { g with active := g.active.map fun t => { t with ctx := c } }

/-- X RAM of an engine. -/
def xRead (d : Die) (e a : Nat) : DWord := sget 0 d.mem.xram (e * 8192 + a)

/-- Store to X RAM. -/
def xWrite (d : Die) (e a : Nat) (x : DWord) : Die :=
  { d with mem := { d.mem with xram := sput 0 d.mem.xram (e * 8192 + a) x } }

/-- Y memory, as every engine reads it (R52). -/
def yRead (d : Die) (a : Nat) : DWord := sget 0 d.mem.ymem a

/-- Y memory as an engine reads it in cycle `c`: a word that the update port writes in that cycle or a later one still
reads its old value (R59). -/
def ySeen (d : Die) (c a : Nat) : DWord :=
  match d.mem.yqAt with
  | some x => if c ≤ x.1 && x.2.1 == a then x.2.2 else yRead d a
  | none => yRead d a

/-- The address faults of the moves of a class M word: XADDR and YADDR (R79, R88). -/
def moveFaults (c : Ctx) (w : Nat) : List Nat :=
  (if bitOf w 23 && 0x2000 ≤ ptr c (bitsOf w 19 3) then [2] else []) ++
    (if bitOf w 11 && 0x8000 ≤ ptr c (bitsOf w 8 3) then [3] else [])

/-- The parallel moves of a class M word: stores and addresses are taken from the context before the instruction
(`c0`), loads and pointer steps end in the context after it (R79). -/
def moves (d : Die) (e : Nat) (c0 c : Ctx) (w : Nat) : Die × Ctx :=
  let xp := bitsOf w 19 3
  let yp := bitsOf w 8 3
  let xv := xRead d e (ptr c0 xp)
  let yv := ySeen d (issuedAt d e 1) (ptr c0 yp)
  let r : Die × Ctx :=
    if bitOf w 23 then
      (if bitOf w 22 then (xWrite d e (ptr c0 xp) (dReg c0 (bitsOf w 13 4)), stepPtr c xp (bitsOf w 17 2))
       else (d, stepPtr (putD c (bitsOf w 13 4) xv) xp (bitsOf w 17 2)))
    else (d, c)
  if bitOf w 11 then (r.1, stepPtr (putD r.2 (bitsOf w 2 4) yv) yp (bitsOf w 6 2)) else r

/-- The counters and sticky bits of an engine for what an instruction did (R65, R74). -/
def aluCounts (d : Die) (e : Nat) (o : AluOut) : Die :=
  let d := if o.sat then setFlag (incReg d (Reg.LE_SATCNT e)) (Reg.LE_STICKY_SAT e) else d
  let d := if o.eovf then setFlag (incReg d (Reg.LE_EOVFCNT e)) (Reg.LE_STICKY_EOVF e) else d
  if o.eunf then setFlag d (Reg.LE_STICKY_EUNF e) else d

/-- A class M instruction: `use` are its fields (R421), `alu` its arithmetic; none is an ACCMODE fault (R68). A non-zero
unused field is ILLOP, beside any other cause whose condition holds (log entry 14). -/
def classM (use : Nat) (alu : Nat → Ctx → Option AluOut) (e : Nat) (d : Die) (t : Task) (w : Nat) : Retire :=
  match (if usedM use w then [] else [1]) ++ moveFaults t.ctx w, alu w t.ctx with
  | causes, none => .error (causes ++ [7])
  | [], some o =>
    let c := { o.ctx with sr := srAfter t.ctx.sr o }
    let r := moves (aluCounts d e o) e t.ctx c w
    .ok (r.1, flowNext r.2)
  | causes, some _ => .error causes

/-- A command that issues a class M instruction of opcode `op`. -/
def runM (op use : Nat) (alu : Nat → Ctx → Option AluOut) (e : Fin 16) (ecc : Ecc) (s : State) :
    Host.Outcome State Fault Refusal :=
  onDie (issue (· == op) 1 (classM use alu e.val) e.val ecc) s

/-- Fields of the accumulating instructions (R421): B, C, EX, EY, AC. -/
def useMac : Nat := useMask false true true true true true

/-- Fields of the two-operand instructions: A, B, C, EX, EY. -/
def useTwo : Nat := useMask true true true true true false

/-- Fields of the one-operand instructions: A, B. -/
def useOne : Nat := useMask true true false false false false

/-- The complex product of two lane pairs: real and imaginary (R66). -/
def cprod (b c : DWord) : Int × Int :=
  (laneRe b * laneRe c - laneIm b * laneIm c, laneRe b * laneIm c + laneIm b * laneRe c)

/-- The complex product with the conjugate of the second. -/
def cprodConj (b c : DWord) : Int × Int :=
  (laneRe b * laneRe c + laneIm b * laneIm c, laneIm b * laneRe c - laneRe b * laneIm c)

/-- The lane products. -/
def dprod (b c : DWord) : Int × Int := (laneRe b * laneRe c, laneIm b * laneIm c)

/-- Add (sign 1) or subtract (sign -1) an aligned product to a lane-mode accumulator (R67, R68). -/
def macLane (prod : DWord → DWord → Int × Int) (sign : Int) (w : Nat) (c : Ctx) : Option AluOut :=
  let i := iAC w
  if accMode c i then none else
  let p := prod (dReg c (iB w)) (dReg c (iC w))
  let sh := expReg c (iEX w) + expReg c (iEY w) - accExp c i
  let re := satTo 64 (accRe c i + sign * alignProd p.1 sh)
  let im := satTo 64 (accIm c i + sign * alignProd p.2 sh)
  some (outAcc c i re.1 im.1 (re.2 || im.2))

/-- A product from zero: XA and mode set to lane (R67, R68). -/
def mpyLane (prod : DWord → DWord → Int × Int) (w : Nat) (c : Ctx) : Option AluOut :=
  let i := iAC w
  let p := prod (dReg c (iB w)) (dReg c (iC w))
  some (outAcc (setAcc c i (expReg c (iEX w) + expReg c (iEY w)) false) i p.1 p.2 false)

/-- A two-operand lane instruction: C aligned to E[EX] (R73), then `f` of the lanes of B and the aligned C. -/
def twoLane (f : Int → Int → Int × Bool) (w : Nat) (c : Ctx) : Option AluOut :=
  let b := dReg c (iB w)
  let x := dReg c (iC w)
  let sh := lim47 (expReg c (iEY w) - expReg c (iEX w))
  let cr := shiftLane (laneRe x) sh
  let ci := shiftLane (laneIm x) sh
  let re := f (laneRe b) cr.1
  let im := f (laneIm b) ci.1
  some (outLane c (iA w) re.1 im.1 (cr.2 || ci.2 || re.2 || im.2))

/-- A two-operand paired instruction (R73). -/
def twoPair (f : Int → Int → Int × Bool) (w : Nat) (c : Ctx) : Option AluOut :=
  let sh := lim47 (expReg c (iEY w) - expReg c (iEX w))
  let x := shiftPair (paired (dReg c (iC w))) sh
  let r := f (paired (dReg c (iB w))) x.1
  some (outPair c (iA w) r.1 (x.2 || r.2))

/-- PADDW and PSUBW: alignment and sum modulo 2^48, no saturation (R65, R73). -/
def twoPairWrap (sign : Int) (w : Nat) (c : Ctx) : Option AluOut :=
  let sh := lim47 (expReg c (iEY w) - expReg c (iEX w))
  let x := paired (dReg c (iC w))
  let x := if 0 ≤ sh then x * 2 ^ sh.toNat else halfUpShr x (-sh).toNat
  some (outPair c (iA w) (wrapS 48 (paired (dReg c (iB w)) + sign * x)) false)

/-- A one-operand lane instruction. -/
def oneLane (f : DWord → (Int × Bool) × (Int × Bool)) (w : Nat) (c : Ctx) : Option AluOut :=
  let r := f (dReg c (iB w))
  some (outLane c (iA w) r.1.1 r.2.1 (r.1.2 || r.2.2))

/-- NOP (R80): the moves only. -/
def aluNop (_w : Nat) (c : Ctx) : Option AluOut := some (outNone c)

/-- PMAC (R67, R68). -/
def aluPmac (w : Nat) (c : Ctx) : Option AluOut :=
  let i := iAC w
  if !accMode c i then none else
  let p := paired (dReg c (iB w)) * laneRe (dReg c (iC w))
  let sh := expReg c (iEX w) + expReg c (iEY w) - accExp c i
  let x := satTo 128 (accPair c i + alignProd p sh)
  some (outAccPair c i x.1 x.2)

/-- PMPY (R67, R68). -/
def aluPmpy (w : Nat) (c : Ctx) : Option AluOut :=
  let i := iAC w
  let p := paired (dReg c (iB w)) * laneRe (dReg c (iC w))
  some (outAccPair (setAcc c i (expReg c (iEX w) + expReg c (iEY w)) true) i p false)

/-- ACLR (R67, R68): the accumulator 0 in the mode of bit 30. -/
def aluAclr (w : Nat) (c : Ctx) : Option AluOut :=
  let i := iAC w
  let c := setAcc c i (expReg c (iEX w) + expReg c (iEY w)) (bitOf w 30)
  some (outAcc c i 0 0 false)

/-- RND (R72). -/
def aluRnd (w : Nat) (c : Ctx) : Option AluOut :=
  let i := iAC w
  if accMode c i then none else
  let sh := accExp c i - 23 - expReg c (iEY w)
  let re := shiftLane (accRe c i) sh
  let im := shiftLane (accIm c i) sh
  some (outLane c (iA w) re.1 im.1 (re.2 || im.2))

/-- PRND (R72). -/
def aluPrnd (w : Nat) (c : Ctx) : Option AluOut :=
  let i := iAC w
  if !accMode c i then none else
  let r := shiftPair (accPair c i) (accExp c i - 23 - expReg c (iEY w))
  some (outPair c (iA w) r.1 r.2)

/-- CLMP (R80): lim := sat24(abs(align C)); a clamped lane sets LIM, not a saturation (R65, R85). -/
def aluClmp (w : Nat) (c : Ctx) : Option AluOut :=
  let b := dReg c (iB w)
  let x := dReg c (iC w)
  let sh := lim47 (expReg c (iEY w) - expReg c (iEX w))
  let cr := shiftLane (laneRe x) sh
  let ci := shiftLane (laneIm x) sh
  let lr := satTo 24 cr.1.natAbs
  let li := satTo 24 ci.1.natAbs
  let re := imin (imax (laneRe b) (-lr.1)) lr.1
  let im := imin (imax (laneIm b) (-li.1)) li.1
  let o := outLane c (iA w) re im (cr.2 || ci.2 || lr.2 || li.2)
  some { o with lim := re != laneRe b || im != laneIm b }

/-- NSC (R80): the smaller sign count. -/
def aluNsc (w : Nat) (c : Ctx) : Option AluOut :=
  let b := dReg c (iB w)
  some (outLane c (iA w) (min (rsb (laneRe b)) (rsb (laneIm b)) : Nat) 0 false)

/-- NSCA (R80): the smallest of D[A].re and the sign counts. -/
def aluNsca (w : Nat) (c : Ctx) : Option AluOut :=
  let b := dReg c (iB w)
  some (outLane c (iA w) (imin (laneRe (dReg c (iA w))) (min (rsb (laneRe b)) (rsb (laneIm b)) : Nat)) 0 false)

/-- SHLV (R71, R81). -/
def aluShlv (w : Nat) (c : Ctx) : Option AluOut :=
  let sh := lim47 (laneRe (dReg c (iC w)))
  oneLane (fun b => (shiftLane (laneRe b) sh, shiftLane (laneIm b) sh)) w c

/-- PSHV (R71, R81). -/
def aluPshv (w : Nat) (c : Ctx) : Option AluOut :=
  let r := shiftPair (paired (dReg c (iB w))) (lim47 (laneRe (dReg c (iC w))))
  some (outPair c (iA w) r.1 r.2)

/-- ESUB (R74). -/
def aluEsub (w : Nat) (c : Ctx) : Option AluOut :=
  let old := expReg c (iEX w)
  let want := old - laneRe (dReg c (iB w))
  let new := clampI want (-128) 127
  let o := outLane (putE c (iEX w) new) (iA w) (old - new) 0 false
  some { o with eovf := 127 < want, eunf := want < -128 }

/-- EFD (R80). -/
def aluEfd (w : Nat) (c : Ctx) : Option AluOut := some (outNone (putE c (iEX w) (dReg c (iB w)).toNat))

/-- DFE (R80). -/
def aluDfe (w : Nat) (c : Ctx) : Option AluOut := some (outNone (putD c (iA w) (mkLanes (expReg c (iEX w)) 0)))

/-- A reserved opcode is ILLOP (R80). -/
def classReserved (_d : Die) (_t : Task) (_w : Nat) : Retire := .error [1]

/-- NOP (R80), and the reserved opcodes 0x32 to 0x3F, which fault with ILLOP and have no row of their own. -/
def execNop (e : Fin 16) (ecc : Ecc) (s : State) : Host.Outcome State Fault Refusal :=
  onDie (fun d => issue (· == 0) 1 (classM 0 aluNop e.val) e.val ecc
    (issue (0x32 ≤ ·) 1 classReserved e.val ecc d)) s

/-- CMAC (R66, R67, R80). -/
def execCmac (e : Fin 16) (ecc : Ecc) (s : State) : Host.Outcome State Fault Refusal :=
  runM 0x01 useMac (macLane cprod 1) e ecc s

/-- CMACC (R66, R67, R80). -/
def execCmacc (e : Fin 16) (ecc : Ecc) (s : State) : Host.Outcome State Fault Refusal :=
  runM 0x02 useMac (macLane cprodConj 1) e ecc s

/-- CMSU (R66, R67, R80). -/
def execCmsu (e : Fin 16) (ecc : Ecc) (s : State) : Host.Outcome State Fault Refusal :=
  runM 0x03 useMac (macLane cprod (-1)) e ecc s

/-- CMPY (R66, R67, R80). -/
def execCmpy (e : Fin 16) (ecc : Ecc) (s : State) : Host.Outcome State Fault Refusal :=
  runM 0x04 useMac (mpyLane cprod) e ecc s

/-- DMAC (R66, R67, R80). -/
def execDmac (e : Fin 16) (ecc : Ecc) (s : State) : Host.Outcome State Fault Refusal :=
  runM 0x05 useMac (macLane dprod 1) e ecc s

/-- DMSU (R66, R67, R80). -/
def execDmsu (e : Fin 16) (ecc : Ecc) (s : State) : Host.Outcome State Fault Refusal :=
  runM 0x06 useMac (macLane dprod (-1)) e ecc s

/-- DMPY (R66, R67, R80). -/
def execDmpy (e : Fin 16) (ecc : Ecc) (s : State) : Host.Outcome State Fault Refusal :=
  runM 0x07 useMac (mpyLane dprod) e ecc s

/-- PMAC (R66, R67, R80). -/
def execPmac (e : Fin 16) (ecc : Ecc) (s : State) : Host.Outcome State Fault Refusal :=
  runM 0x08 useMac aluPmac e ecc s

/-- PMPY (R66, R67, R80). -/
def execPmpy (e : Fin 16) (ecc : Ecc) (s : State) : Host.Outcome State Fault Refusal :=
  runM 0x09 useMac aluPmpy e ecc s

/-- ACLR (R67, R80). -/
def execAclr (e : Fin 16) (ecc : Ecc) (s : State) : Host.Outcome State Fault Refusal :=
  runM 0x0A (useMask false false false true true true + 2 ^ 30) aluAclr e ecc s

/-- RND (R72, R80). -/
def execRnd (e : Fin 16) (ecc : Ecc) (s : State) : Host.Outcome State Fault Refusal :=
  runM 0x0B (useMask true false false false true true) aluRnd e ecc s

/-- PRND (R72, R80). -/
def execPrnd (e : Fin 16) (ecc : Ecc) (s : State) : Host.Outcome State Fault Refusal :=
  runM 0x0C (useMask true false false false true true) aluPrnd e ecc s

/-- ADD (R73, R80). -/
def execAdd (e : Fin 16) (ecc : Ecc) (s : State) : Host.Outcome State Fault Refusal :=
  runM 0x0D useTwo (twoLane fun b c => satTo 24 (b + c)) e ecc s

/-- SUB (R73, R80). -/
def execSub (e : Fin 16) (ecc : Ecc) (s : State) : Host.Outcome State Fault Refusal :=
  runM 0x0E useTwo (twoLane fun b c => satTo 24 (b - c)) e ecc s

/-- MAX (R73, R80). -/
def execMax (e : Fin 16) (ecc : Ecc) (s : State) : Host.Outcome State Fault Refusal :=
  runM 0x0F useTwo (twoLane fun b c => (imax b c, false)) e ecc s

/-- MIN (R73, R80). -/
def execMin (e : Fin 16) (ecc : Ecc) (s : State) : Host.Outcome State Fault Refusal :=
  runM 0x10 useTwo (twoLane fun b c => (imin b c, false)) e ecc s

/-- CLMP (R73, R80). -/
def execClmp (e : Fin 16) (ecc : Ecc) (s : State) : Host.Outcome State Fault Refusal :=
  runM 0x11 useTwo aluClmp e ecc s

/-- NEG (R65, R80). -/
def execNeg (e : Fin 16) (ecc : Ecc) (s : State) : Host.Outcome State Fault Refusal :=
  runM 0x12 useOne (oneLane fun b => (satTo 24 (-laneRe b), satTo 24 (-laneIm b))) e ecc s

/-- ABS (R65, R80). -/
def execAbs (e : Fin 16) (ecc : Ecc) (s : State) : Host.Outcome State Fault Refusal :=
  runM 0x13 useOne (oneLane fun b => (satTo 24 (laneRe b).natAbs, satTo 24 (laneIm b).natAbs)) e ecc s

/-- CONJ (R65, R80). -/
def execConj (e : Fin 16) (ecc : Ecc) (s : State) : Host.Outcome State Fault Refusal :=
  runM 0x14 useOne (oneLane fun b => ((laneRe b, false), satTo 24 (-laneIm b))) e ecc s

/-- MOV (R80). -/
def execMov (e : Fin 16) (ecc : Ecc) (s : State) : Host.Outcome State Fault Refusal :=
  runM 0x15 useOne (oneLane fun b => ((laneRe b, false), (laneIm b, false))) e ecc s

/-- SWP (R80). -/
def execSwp (e : Fin 16) (ecc : Ecc) (s : State) : Host.Outcome State Fault Refusal :=
  runM 0x16 useOne (oneLane fun b => ((laneIm b, false), (laneRe b, false))) e ecc s

/-- PADD (R73, R80). -/
def execPadd (e : Fin 16) (ecc : Ecc) (s : State) : Host.Outcome State Fault Refusal :=
  runM 0x17 useTwo (twoPair fun b c => satTo 48 (b + c)) e ecc s

/-- PADDW (R73, R80). -/
def execPaddw (e : Fin 16) (ecc : Ecc) (s : State) : Host.Outcome State Fault Refusal :=
  runM 0x18 useTwo (twoPairWrap 1) e ecc s

/-- PSUB (R73, R80). -/
def execPsub (e : Fin 16) (ecc : Ecc) (s : State) : Host.Outcome State Fault Refusal :=
  runM 0x19 useTwo (twoPair fun b c => satTo 48 (b - c)) e ecc s

/-- PSUBW (R73, R80). -/
def execPsubw (e : Fin 16) (ecc : Ecc) (s : State) : Host.Outcome State Fault Refusal :=
  runM 0x1A useTwo (twoPairWrap (-1)) e ecc s

/-- NSC (R64, R80). -/
def execNsc (e : Fin 16) (ecc : Ecc) (s : State) : Host.Outcome State Fault Refusal :=
  runM 0x1B useOne aluNsc e ecc s

/-- NSCA (R64, R80). -/
def execNsca (e : Fin 16) (ecc : Ecc) (s : State) : Host.Outcome State Fault Refusal :=
  runM 0x1C useOne aluNsca e ecc s

/-- SHLV (R71, R81). -/
def execShlv (e : Fin 16) (ecc : Ecc) (s : State) : Host.Outcome State Fault Refusal :=
  runM 0x1D (useMask true true true false false false) aluShlv e ecc s

/-- PSHV (R71, R81). -/
def execPshv (e : Fin 16) (ecc : Ecc) (s : State) : Host.Outcome State Fault Refusal :=
  runM 0x1E (useMask true true true false false false) aluPshv e ecc s

/-- ESUB (R74). -/
def execEsub (e : Fin 16) (ecc : Ecc) (s : State) : Host.Outcome State Fault Refusal :=
  runM 0x1F (useMask true true false true false false) aluEsub e ecc s

/-- EFD (R80). -/
def execEfd (e : Fin 16) (ecc : Ecc) (s : State) : Host.Outcome State Fault Refusal :=
  runM 0x20 (useMask false true false true false false) aluEfd e ecc s

/-- DFE (R80). -/
def execDfe (e : Fin 16) (ecc : Ecc) (s : State) : Host.Outcome State Fault Refusal :=
  runM 0x21 (useMask true false false true false false) aluDfe e ecc s

end Sys2Proof.Machine
end

