-- ==== Sys2Proof/Machine/IsaI.lean ====
section
/-! DEFINITION. The class I instructions (R80) other than DONE: immediates, shifts, the axis window (R82), the Y update
queue (R59), control flow (R83, R84) and POST (R87, R154). -/

namespace Sys2Proof.Machine

/-- A class I instruction: a word with a non-zero unused bit is ILLOP (R421), beside any other cause whose condition
holds (log entry 14). -/
def classI (use : Nat → Nat) (run : Die → Task → Nat → Retire) (d : Die) (t : Task) (w : Nat) : Retire :=
  if usedI (use w) w then run d t w else
  match run d t w with
  | .error causes => .error (1 :: causes.filter (· != 1))
  | .ok _ => .error [1]

/-- A command that issues a class I instruction of opcode `op`. -/
def runI (op cycles : Nat) (use : Nat → Nat) (run : Nat → Die → Task → Nat → Retire) (e : Fin 16) (ecc : Ecc)
    (s : State) : Host.Outcome State Fault Refusal :=
  onDie (issue (· == op) cycles (classI use (run e.val)) e.val ecc) s

/-- The instruction retires with its context, and execution continues in sequence. -/
def retire (d : Die) (c : Ctx) : Retire := .ok (d, flowNext c)

/-- LDI: one lane of D[A] (R80). -/
def runLdi (_e : Nat) (d : Die) (t : Task) (w : Nat) : Retire :=
  let x := (dReg t.ctx (iA w)).toNat
  retire d (putD t.ctx (iA w) (BitVec.ofNat 48 (setBitsOf x (if bitOf w 24 then 24 else 0) 24 (iImm w))))

/-- ELDI (R80). -/
def runEldi (_e : Nat) (d : Die) (t : Task) (w : Nat) : Retire := retire d (putE t.ctx (iA w) (bitsOf w 0 8))

/-- PSET (R80). -/
def runPset (_e : Nat) (d : Die) (t : Task) (w : Nat) : Retire :=
  let c := t.ctx
  let i := iA w
  let v := BitVec.ofNat 16 w
  retire d (match bitsOf w 24 2 with
    | 0 => { c with p := vset c.p i v }
    | 1 => { c with b := vset c.b i v }
    | 2 => { c with l := vset c.l i v }
    | _ => { c with n := vset c.n i v })

/-- The count of SHR and PSHR (R81). -/
def shrCount (w : Nat) : Nat := min (bitsOf w 0 6) 47

/-- SHR: lane-wise, convergent (R69). -/
def runShr (_e : Nat) (d : Die) (t : Task) (w : Nat) : Retire :=
  let b := dReg t.ctx (iB w)
  retire d (putD t.ctx (iA w) (mkLanes (convShr (laneRe b) (shrCount w)) (convShr (laneIm b) (shrCount w))))

/-- PSHR: paired, half up (R70). -/
def runPshr (_e : Nat) (d : Die) (t : Task) (w : Nat) : Retire :=
  retire d (putD t.ctx (iA w) (mkPaired (halfUpShr (paired (dReg t.ctx (iB w))) (shrCount w))))

/-- The used bits of LDA and STA: A (two bits of it in mode E8), S[1:0], S[2] in mode W24, IMM[9:0] (R421). -/
def useWin (w : Nat) : Nat :=
  (if bitsOf w 24 2 = 2 then fieldMask 39 38 else fieldMask 41 38) + fieldMask 25 24 +
    (if bitsOf w 24 2 = 0 then 2 ^ 26 else 0) + fieldMask 9 0

/-- The BAR0 offset an axis-window access reaches: none is AXADDR (R82). -/
def winOff (d : Die) (t : Task) (wide : Bool) (w : Nat) : Option Nat :=
  match descAxis d t.idx with
  | none => none
  | some a => if axWindowOk wide (bitsOf w 0 10) then some (axAddr a (bitsOf w 0 10)) else none

/-- LDA (R82), reading in its owned cycle (R57, R58); mode 0b11 is reserved, so ILLOP (R80). -/
def runLda (e : Nat) (d : Die) (t : Task) (w : Nat) : Retire :=
  let mode := bitsOf w 24 2
  if mode = 3 then .error [1] else
  match winOff d t (mode == 1) w with
  | none => .error [4]
  | some off =>
    let read (o : Nat) : Nat := (axSeen d (2 + e / 4) (ownedCycle d e) o).toNat
    let lo := read off
    let c := t.ctx
    if mode = 0 then
      retire d (putD c (iA w) (BitVec.ofNat 48
        (setBitsOf (dReg c (iA w)).toNat (if bitOf w 26 then 24 else 0) 24 lo)))
    else if mode = 1 then retire d (putD c (iA w) (BitVec.ofNat 48 (lo + 2 ^ 32 * read (off + 4))))
    else retire d (putE c (iA w % 4) (bitsOf lo 0 8))

/-- A 64-bit write of axis state by a port in an engine cycle (R58). -/
def axWrite64 (d : Die) (port c off : Nat) (i : Int) : Die :=
  let x := wrap 64 i
  axWrite (axWrite d port c off 0xFFFFFFFF (BitVec.ofNat 32 x)) port c (off + 4) 0xFFFFFFFF (BitVec.ofNat 32 (x >>> 32))

/-- STA (R82), writing in its owned cycle; ADD64 reads and writes in that one cycle (R57, R58). -/
def runSta (e : Nat) (d : Die) (t : Task) (w : Nat) : Retire :=
  let mode := bitsOf w 24 2
  match winOff d t (mode == 1 || mode == 3) w with
  | none => .error [4]
  | some off =>
    let c := t.ctx
    let x := dReg c (iA w)
    let p := 2 + e / 4
    let cy := ownedCycle d e
    if mode = 0 then
      retire (axWrite d p cy off 0xFFFFFFFF (BitVec.ofNat 32 (wrap 32 (if bitOf w 26 then laneIm x else laneRe x)))) c
    else if mode = 1 then retire (axWrite64 d p cy off (paired x)) c
    else if mode = 2 then retire (axWrite d p cy off 0xFFFFFFFF (BitVec.ofNat 32 (wrap 32 (expReg c (iA w % 4))))) c
    else
      let old := sext 64 ((axSeen d p cy off).toNat + 2 ^ 32 * (axSeen d p cy (off + 4)).toNat)
      retire (axWrite64 d p cy off (old + paired x)) c

/-- Place an entry in the Y update queue: after those of earlier cycles, and in its cycle in ascending engine number
(R59). -/
def yqInsert (x : YEnt) : List YEnt → List YEnt
  | [] => [x]
  | y :: ys => if x.cyc < y.cyc || (x.cyc == y.cyc && x.eng < y.eng) then x :: y :: ys else y :: yqInsert x ys

/-- A word enters the Y update queue (R59). -/
def yqPlace (d : Die) (x : YEnt) : Die :=
  let d := { d with mem := { d.mem with yq := yqInsert x d.mem.yq } }
  maxFld d Reg.LE_YQ_PEAK d.mem.yq.length

/-- The queue is full, and in this cycle an engine of a higher number has placed the last entry of it: its YST finds the queue
full instead, with its pointer as it was (R59; log entry 140). It must not have issued since. -/
def yqYield (d : Die) (e c : Nat) : Option Die :=
  match (d.mem.yq.filter fun y => y.cyc == c && e < y.eng).getLast? with
  | none => none
  | some y =>
    match y.back with
    | none => none
    | some (i, p) =>
      if (engH d y.eng).free ≠ c + 1 then none else
      let d := { d with mem := { d.mem with yq := d.mem.yq.erase y } }
      some (updEng (incFld d Reg.LE_YQ_REFUSED) y.eng fun g =>
        { g with active := g.active.map fun t =>
            { t with ctx := { t.ctx with p := vset t.ctx.p i p, sr := { t.ctx.sr with qf := true } } } })

/-- YST (R59, R87): queued for the update port with its pointer stepped, or refused with QF = 1. The order of its command and the
port's decides where the port takes the head of a full queue in the YST's cycle (log entry 164). -/
def runYst (e : Nat) (d : Die) (t : Task) (w : Nat) : Retire :=
  let c := t.ctx
  let i := bitsOf w 34 3
  let at_ := issuedAt d e 1
  if 0x8000 ≤ ptr c i then .error [3] else
  match (if d.mem.yq.length < 32 then some d else yqYield d e at_) with
  | none => retire (incFld d Reg.LE_YQ_REFUSED) { c with sr := { c.sr with qf := true } }
  | some d =>
    retire (yqPlace d ⟨ptr c i, dReg c (iA w), at_, e, some (i, vget 0 c.p i)⟩)
      { stepPtr c i (bitsOf w 24 2) with sr := { c.sr with qf := false } }

/-- JMP (R83). -/
def runJmp (_e : Nat) (d : Die) (t : Task) (w : Nat) : Retire := .ok (d, jumpTo t.ctx (bitsOf w 0 14))

/-- JCC (R83, R84): a reserved condition is ILLOP. -/
def runJcc (_e : Nat) (d : Die) (t : Task) (w : Nat) : Retire :=
  match jccHolds t.ctx.sr (iA w) with
  | none => .error [1]
  | some true => .ok (d, jumpTo t.ctx (bitsOf w 0 14))
  | some false => retire d t.ctx

/-- CALL (R83): the ninth is a STACK fault; it ends no loop. -/
def runCall (_e : Nat) (d : Die) (t : Task) (w : Nat) : Retire :=
  let c := t.ctx
  if 8 ≤ c.calls.length then .error [5]
  else .ok (d, { c with calls := (c.pc + 1) :: c.calls, pc := BitVec.ofNat 14 w })

/-- RET (R83): a return to the word after a loop body loops back. -/
def runRet (_e : Nat) (d : Die) (t : Task) (_w : Nat) : Retire :=
  match t.ctx.calls with
  | [] => .error [5]
  | r :: rs => .ok (d, flowTo { t.ctx with calls := rs } r.toNat)

/-- LOOP and LOOPR (R83): body length 0 or above 64 is ILLOP, a count of 0 skips the body, a fifth nested loop is
LOOPSTK. -/
def startLoop (d : Die) (c : Ctx) (len count : Nat) : Retire :=
  let pc := c.pc.toNat
  if len = 0 ∨ 64 < len then .error [1]
  else if count = 0 then .ok (d, flowTo c (pc + 1 + len))
  else if 4 ≤ c.loops.length then .error [6]
  else
    .ok (d, { c with pc := c.pc + 1, loops := ⟨(pc + 1) % 2 ^ 14, (pc + 1 + len) % 2 ^ 14, count⟩ :: c.loops })

/-- LOOP. -/
def runLoop (_e : Nat) (d : Die) (t : Task) (w : Nat) : Retire :=
  startLoop d t.ctx (bitsOf w 0 7) (bitsOf w 8 16)

/-- LOOPR: the count from D[B].re, unsigned. -/
def runLoopr (_e : Nat) (d : Die) (t : Task) (w : Nat) : Retire :=
  startLoop d t.ctx (bitsOf w 0 7) (bitsOf (dReg t.ctx (iB w)).toNat 0 16)

/-- POST (R87, R154): the descriptor and D[B].re enter the engine's posting queue, or QF = 1. -/
def runPost (e : Nat) (d : Die) (t : Task) (w : Nat) : Retire :=
  let arg := bitsOf (dReg t.ctx (iB w)).toNat 0 24
  let r := kpost d (7 + e) (.desc (bitsOf w 0 10) arg 0)
  retire (if r.2 then noteBlocked r.1 else r.1) { t.ctx with sr := { t.ctx.sr with qf := !r.2 } }

/-- LDI (R80). -/
def execLdi (e : Fin 16) (ecc : Ecc) (s : State) : Host.Outcome State Fault Refusal :=
  runI 0x22 1 (fun _ => fieldMask 41 38 + 2 ^ 24 + fieldMask 23 0) runLdi e ecc s

/-- ELDI (R80). -/
def execEldi (e : Fin 16) (ecc : Ecc) (s : State) : Host.Outcome State Fault Refusal :=
  runI 0x23 1 (fun _ => fieldMask 39 38 + fieldMask 7 0) runEldi e ecc s

/-- PSET (R80). -/
def execPset (e : Fin 16) (ecc : Ecc) (s : State) : Host.Outcome State Fault Refusal :=
  runI 0x24 1 (fun _ => fieldMask 40 38 + fieldMask 25 24 + fieldMask 15 0) runPset e ecc s

/-- SHR (R69, R81). -/
def execShr (e : Fin 16) (ecc : Ecc) (s : State) : Host.Outcome State Fault Refusal :=
  runI 0x25 1 (fun _ => fieldMask 41 34 + fieldMask 5 0) runShr e ecc s

/-- PSHR (R70, R81). -/
def execPshr (e : Fin 16) (ecc : Ecc) (s : State) : Host.Outcome State Fault Refusal :=
  runI 0x26 1 (fun _ => fieldMask 41 34 + fieldMask 5 0) runPshr e ecc s

/-- LDA (R82). -/
def execLda (e : Fin 16) (ecc : Ecc) (s : State) : Host.Outcome State Fault Refusal :=
  runI 0x27 4 useWin runLda e ecc s

/-- STA (R82). -/
def execSta (e : Fin 16) (ecc : Ecc) (s : State) : Host.Outcome State Fault Refusal :=
  runI 0x28 4 useWin runSta e ecc s

/-- YST (R59, R87). -/
def execYst (e : Fin 16) (ecc : Ecc) (s : State) : Host.Outcome State Fault Refusal :=
  runI 0x29 1 (fun _ => fieldMask 41 38 + fieldMask 36 34 + fieldMask 25 24) runYst e ecc s

/-- JMP (R83). -/
def execJmp (e : Fin 16) (ecc : Ecc) (s : State) : Host.Outcome State Fault Refusal :=
  runI 0x2A 2 (fun _ => fieldMask 13 0) runJmp e ecc s

/-- JCC (R84). -/
def execJcc (e : Fin 16) (ecc : Ecc) (s : State) : Host.Outcome State Fault Refusal :=
  runI 0x2B 2 (fun _ => fieldMask 41 38 + fieldMask 13 0) runJcc e ecc s

/-- CALL (R83). -/
def execCall (e : Fin 16) (ecc : Ecc) (s : State) : Host.Outcome State Fault Refusal :=
  runI 0x2C 2 (fun _ => fieldMask 13 0) runCall e ecc s

/-- RET (R83). -/
def execRet (e : Fin 16) (ecc : Ecc) (s : State) : Host.Outcome State Fault Refusal :=
  runI 0x2D 2 (fun _ => 0) runRet e ecc s

/-- LOOP (R83). -/
def execLoop (e : Fin 16) (ecc : Ecc) (s : State) : Host.Outcome State Fault Refusal :=
  runI 0x2E 2 (fun _ => fieldMask 6 0 + fieldMask 23 8) runLoop e ecc s

/-- LOOPR (R83). -/
def execLoopr (e : Fin 16) (ecc : Ecc) (s : State) : Host.Outcome State Fault Refusal :=
  runI 0x2F 2 (fun _ => fieldMask 37 34 + fieldMask 6 0) runLoopr e ecc s

/-- POST (R87, R154). -/
def execPost (e : Fin 16) (ecc : Ecc) (s : State) : Host.Outcome State Fault Refusal :=
  runI 0x31 2 (fun _ => fieldMask 37 34 + fieldMask 9 0) runPost e ecc s

/-- Y_UPDATE_PORT_WRITE (R59): the head of the update queue, placed in an earlier cycle, is written into Y
memory, one entry a cycle; reads of this cycle still see the old word. -/
def execYUpdatePortWrite (s : State) : Host.Outcome State Fault Refusal :=
  onDie (fun d =>
    match d.mem.yq with
    | [] => d
    | h :: rest =>
      if h.cyc < d.tb.cyc && d.mem.yqAt.map (·.1) != some d.tb.cyc then
        { d with mem := { d.mem with ymem := sput 0 d.mem.ymem h.addr h.word, yq := rest,
                                     yqAt := some (d.tb.cyc, h.addr, yRead d h.addr) } }
      else d) s

end Sys2Proof.Machine
end

