-- ==== Sys2Proof/Machine/Kennel.lean ====
section
/-! DEFINITION. The Kennel (R151 to R166): releases, the two ports, placement, engine ends, the actions at the output
phase, parking, and the Pawprint trace. -/

namespace Sys2Proof.Machine

/-- The Kennel runs (KNL_STAT.RUN, R383), not halted by a vendor session (R412). -/
def kennelOn (d : Die) : Bool := powered d 40 && flag d Reg.KNL_STAT_RUN && !halted d 16

/-- The ready list of a level (R159). -/
def readyList (d : Die) (lvl : Nat) : List Task := sget [] d.knl.ready lvl

/-- Store a ready list. -/
def setReady (d : Die) (lvl : Nat) (l : List Task) : Die :=
  updKnl d fun k => { k with ready := sput [] k.ready lvl l }

/-- The tasks on the engines: (engine, task, active), in ascending engine number. -/
def engineTasks (d : Die) : List (Nat × Task × Bool) :=
  (upto 16).flatMap fun e =>
    ((engH d e).active.toList.map fun t => (e, t, true)) ++ ((engH d e).other.toList.map fun t => (e, t, false))

/-- A descriptor has an instance: ready, running, held or parked (R157). -/
def hasInstance (d : Die) (idx : Nat) : Bool :=
  (readyList d (descLevel d idx)).any (·.idx == idx) || (engineTasks d).any fun x => x.2.1.idx == idx

/-- The context of a new instance (R153). -/
def startCtx (d : Die) (idx arg param : Nat) : Ctx :=
  let c := { ctx0 with pc := BitVec.ofNat 14 (descEntry d idx) }
  let c := putD c 0 (BitVec.ofNat 48 (arg % 2 ^ 32))
  if descClass d idx = 5 then putD c 1 (BitVec.ofNat 48 (param % 2 ^ 32)) else c

/-- The inputs of its beat that a vendor stage holds from its release on (R95, R113, R117): a POSITION task the feedback
and the targets, an ADAPT task AX_EV, v_fb, and whether the axis was limited and Enabled in the beat of its release.
A POSITION task also holds whether the axis computed then: the state of the next output phase governs later work (R120). -/
def stageInputs (d : Die) (idx arg : Nat) : List Int :=
  match descAxis d idx with
  | none => []
  | some a =>
    if descClass d idx = 1 then
      [effI64 d (Reg.AX_PFB a), effI64 d (Reg.AX_PTGT a), effI64 d (Reg.AX_VTGT a), effI64 d (Reg.AX_ATGT a),
        b2n (computing d a)]
    else if descClass d idx = 3 then
      [sext 24 (effN d (Reg.AX_EV a)), effI64 d (Reg.AX_VFB a),
        b2n ((axH d a).stage.limBeat.map (· % 2 ^ 32) == some arg), b2n (axState d a == 2)]
    else []

/-- A release (R157): a new instance at the end of its ready list, or a merge; the merge of a POSITION release is the
skip of R96. A descriptor that is not VALID is never released (R151). -/
def release (d : Die) (idx arg param src : Nat) : Die :=
  if !descValid d idx then d else
  let lvl := descLevel d idx
  if !descMulti d idx && hasInstance d idx then
    let d := ppEvt (incReg d Reg.KNL_CNT_MERGE) 0x02 0 lvl idx src arg
    match descAxis d idx with
    | none => d
    | some a =>
      if descClass d idx = 1 then
        axSettle 6 d.tb.cyc d (axCount (axEvent d (Reg.AX_STAT_PSKIP a)) (Reg.AX_CNT_PSKIP a))
      else d
  else
    let t : Task := { idx := idx, level := lvl, arg := arg, beat := d.tb.k, src := src, busy := 0,
                      seq := d.knl.seq, parked := false, ctx := startCtx d idx arg param,
                      inp := stageInputs d idx arg }
    let d := setReady (updKnl d fun k => { k with seq := k.seq + 1 }) lvl (readyList d lvl ++ [t])
    let d := if descMulti d idx then
        let d := updKnl d fun k => { k with store := k.store + 1 }
        maxFld d Reg.KNL_INST_PEAK d.knl.store
      else d
    let d := if lvl < 4 && descClass d idx == 0 then updTb d fun t => { t with fixedRel := true } else d
    ppEvt d 0x01 0 lvl idx src arg

/-- A release by the source its class allows (R152): the beat edge releases class EDGE, the capture engine CAPTURE, the host
command engine HOSTJOB, an engine's POST class POSTED. -/
def releaseOf (d : Die) (idx arg param src : Nat) : Die :=
  let cls := if src = 0 then 2 else if src = 5 then 4 else if src = 6 then 5 else 6
  if descClass d idx = cls then release d idx arg param src else d

/-- The releases of a precedence-port entry (R156): the edge list in Parcel order, the ADAPT descriptors of the axes
latched fresh in ascending order, or FIXED then POSITION of an axis. The argument is BEAT_NUM (R153). -/
def expand (d : Die) (src : Nat) : QEnt → Die
  | .edge k => d.knl.edgeList.foldl (fun d i => releaseOf d i (k % 2 ^ 32) 0 src) d
  | .oph k axes => axes.foldl (fun d a =>
      match findDesc d 3 a with
      | some i => release d i (k % 2 ^ 32) 0 src
      | none => d) d
  | .axis a k =>
    let d := match findDesc d 0 a with
      | some i => release d i (k % 2 ^ 32) 0 src
      | none => d
    match findDesc d 1 a with
    | some i => release d i (k % 2 ^ 32) 0 src
    | none => d
  | .desc i arg param => releaseOf d i arg param src

/-- The shared queues in the order of service: after the one served last, round robin over 5 to 22 (R156). -/
def sharedOrder (rr : Nat) : List Nat := (upto 18).map fun j => 5 + (rr + 1 - 5 + j) % 18

/-- What a placement does (R160, R163): dispatch or pre-empt with a ready instance, or the same with a parked one. -/
inductive Placement where
  | dispatch (t : Task) (e : Nat)
  | preempt (t : Task) (e : Nat)
  | unpark (t : Task) (e : Nat)
  | unparkPreempt (t : Task) (e : Nat)
  deriving DecidableEq, Repr

/-- An engine no task runs on and whose end, if any, is processed (R160, R161). -/
def engIdle (d : Die) (e : Nat) : Bool :=
  powered d e && (engH d e).ended.isNone && (engH d e).active.isNone

/-- The level an engine runs at, if it can be pre-empted (R160, R161). -/
def engRunLevel (d : Die) (e : Nat) : Option Nat :=
  if powered d e && (engH d e).ended.isNone then
    (match (engH d e).active with
     | some t => if t.parked then none else some t.level
     | none => none)
  else none

/-- The engine of the largest active level above `lvl` among those allowed, the lowest number first (R160). -/
def victim (d : Die) (lvl : Nat) (ok : Nat → Bool) : Option Nat :=
  (upto 16).foldl (fun best e =>
    match engRunLevel d e with
    | none => best
    | some l =>
      if ok e && lvl < l then
        (match best with
         | none => some e
         | some b => if (engRunLevel d b).getD 0 < l then some e else some b)
      else best) none

/-- Place a ready instance (R160). -/
def placeReady (d : Die) (t : Task) : Option Placement :=
  let mask := descMask d t.idx
  match (upto 16).find? fun e => bitOf mask e && engIdle d e with
  | some e => some (.dispatch t e)
  | none => (victim d t.level fun e => bitOf mask e && (engH d e).other.isNone).map (.preempt t)

/-- Place a parked instance on its own engine (R163). -/
def placeParked (d : Die) (t : Task) (e : Nat) : Option Placement :=
  let g := engH d e
  if !powered d e || g.ended.isSome then none
  else match g.active with
    | none => some (.unpark t e)
    | some u => if u.parked then some (.unpark t e) else if t.level < u.level then some (.unparkPreempt t e) else none

/-- The placement of a level's head: the earliest release among its ready list and its parked instances (R159,
R163). -/
def placeLevel (d : Die) (lvl : Nat) : Option Placement :=
  if suspended d lvl then none else
  let parked := (engineTasks d).filter fun x => x.2.1.parked && x.2.1.level == lvl
  let first := parked.foldl (fun (b : Option (Nat × Task)) x =>
    match b with
    | none => some (x.1, x.2.1)
    | some y => if x.2.1.seq < y.2.seq then some (x.1, x.2.1) else some y) none
  match first, (readyList d lvl).head? with
  | none, none => none
  | none, some t => placeReady d t
  | some p, none => placeParked d p.2 p.1
  | some p, some t => if p.2.seq < t.seq then placeParked d p.2 p.1 else placeReady d t

/-- The one placement decision of a cycle (R160). -/
def placement (d : Die) : Option Placement := (upto 16).findSome? (placeLevel d)

/-- An engine takes `n` cycles more before its next instruction issues: a handover, a swap, an abort (R90 to R92). -/
def holdEng (d : Die) (e n : Nat) : Die := updEng d e fun g => { g with free := max g.free d.tb.cyc + n }

/-- Swap and abort cycles of an engine: busy, of no instance (R92). -/
def swapBusy (d : Die) (e n : Nat) : Die :=
  let d := put64 d (Reg.LE_CYC e) (get64 d (Reg.LE_CYC e) + n)
  updEng d e fun g => g.occupy d.tb.cyc n

/-- The busy spans without the latest swap from cycle `c` on; what came after it moves up. -/
def dropSwap (c : Nat) (l : List (Nat × Nat)) : List (Nat × Nat) :=
  match l.find? fun x => x.2 == 6 && c ≤ x.1 with
  | none => l
  | some y => (l.filter (· != y)).map fun x => if y.1 < x.1 then (x.1 - 6, x.2) else x

/-- A swap of cycle `c` is not made after all (R92): its cycles are taken back and the bank stays. -/
def undoSwap (d : Die) (e c : Nat) : Die :=
  let d := put64 d (Reg.LE_CYC e) (get64 d (Reg.LE_CYC e) - 6)
  updEng d e fun g =>
    { g with bank := !g.bank, beatBusy := g.beatBusy - 6, free := g.free - 6, spans := dropSwap c g.spans, pre := none,
             freed := none }

/-- A task as it starts on an engine: the fixed-phase task reads NA_SEL now, and uses that set for its beat (R116). -/
def started (d : Die) (e : Nat) (t : Task) : Task :=
  match descAxis d t.idx with
  | some a =>
    if descClass d t.idx = 0 then
      let w := axSeen d (2 + e / 4) (max (engH d e).free d.tb.cyc + 2) (Reg.AX_TRK_STAT a)
      { t with inp := [(w.toNat % 2 : Nat)] }
    else t
  | none => t

/-- Remove an instance from the head of its ready list. -/
def dropHead (d : Die) (lvl : Nat) : Die := setReady d lvl (readyList d lvl).tail

/-- A RESUME event and its swap (R90, R165). -/
def resumeEvt (d : Die) (e : Nat) (t : Task) : Die := ppEvt (swapBusy d e 6) 0x05 e t.level t.idx t.src t.busy

/-- Carry out a placement (R160, R163). SOURCE of its events is the source that released the instance (R164; log entry 147).
A task that pre-empts in the cycle in which an abort freed the bank takes that bank without a swap, and the held task whose
resumption the abort had begun stays held (R92; log entry 133). A parked task in the active bank resumes with the cycles of a
swap (log entry 159). -/
def place (d : Die) : Placement → Die
  | .dispatch t e =>
    let d := incReg (dropHead d t.level) Reg.KNL_CNT_DISPATCH
    ppEvt (holdEng (updEng d e fun g => { g with active := some (started d e t) }) e 2) 0x03 e t.level t.idx t.src 0
  | .preempt t e =>
    let old := (engH d e).active
    let d := incReg (incReg (dropHead d t.level) Reg.KNL_CNT_PREEMPT) (Reg.LE_PREEMPTCNT e)
    if (engH d e).freed = some d.tb.cyc then
      let d := undoSwap d e d.tb.cyc
      ppEvt (holdEng (updEng d e fun g => { g with active := some (started d e t), other := old }) e 2) 0x04 e t.level t.idx
        t.src ((old.map (·.idx)).getD 0)
    else
    let d := updEng d e fun g =>
      { g with bank := !g.bank, active := some (started d e t), other := old, pre := some d.tb.cyc }
    ppEvt (swapBusy (holdEng d e 2) e 6) 0x04 e t.level t.idx t.src ((old.map (·.idx)).getD 0)
  | .unpark t e =>
    let t' := { t with parked := false }
    let g := engH d e
    let d := if g.active = some t then updEng d e fun g => { g with active := some t' }
      else updEng d e fun g => { g with bank := !g.bank, active := some t', other := g.active }
    resumeEvt d e t'
  | .unparkPreempt t e =>
    let old := (engH d e).active
    let d := incReg (incReg d Reg.KNL_CNT_PREEMPT) (Reg.LE_PREEMPTCNT e)
    let d := updEng d e fun g =>
      { g with bank := !g.bank, active := some { t with parked := false }, other := old, pre := some d.tb.cyc }
    ppEvt (swapBusy d e 6) 0x04 e t.level t.idx t.src ((old.map (·.idx)).getD 0)

/-- What the freed active bank of an engine takes: the task of the other bank resumes, or becomes parked while its
level is suspended (R91, R161, R163). -/
def resumeOther (d : Die) (e : Nat) : Die :=
  match (engH d e).other with
  | none => d
  | some t =>
    if t.parked then d
    else if suspended d t.level then
      let d := incReg (updEng d e fun g => { g with other := some { t with parked := true } }) Reg.KNL_CNT_PARK
      ppEvt d 0x0A e t.level t.idx t.src t.busy
    else
      resumeEvt (updEng d e fun g => { g with bank := !g.bank, active := some t, other := none }) e t

/-- The held task of an engine whose task was aborted in this cycle resumes (R91). Until it issues, a pre-emption of the same
cycle still finds the freed bank (R92). -/
def resumeAborted (d : Die) (e : Nat) : Die :=
  let d := resumeOther d e
  if (engH d e).active.isSome then updEng d e fun g => { g with freed := some d.tb.cyc } else d

/-- A trace entry to be made at the output phase, in ascending descriptor index (R165): index, event, engine, level,
source, detail. -/
abbrev PhaseEvt := Nat × Nat × Nat × Nat × Nat × Nat

/-- Insert in ascending descriptor index, after its equals. -/
def insEvt (x : PhaseEvt) : List PhaseEvt → List PhaseEvt
  | [] => [x]
  | y :: ys => if x.1 < y.1 then x :: y :: ys else y :: insEvt x ys

/-- Record the events of a phase in order (R165). -/
def recordPhase (d : Die) (l : List PhaseEvt) : Die :=
  (l.foldl (fun acc x => insEvt x acc) []).foldl
    (fun d x => ppEvt d x.2.1 x.2.2.1 x.2.2.2.1 x.1 x.2.2.2.2.1 x.2.2.2.2.2) d

/-- A pre-emption decided in this cycle met the abort of the task it pre-empts (R92): the abort is favoured, no swap is made, the
pre-empted task ends as the running one, and the pre-empting task starts in the freed bank. The pre-emption stays counted and
recorded (log entry 133). -/
def metAbort (d : Die) (e : Nat) : Bool :=
  (engH d e).pre == some d.tb.cyc && (engH d e).other.any fun t => t.level < 4

/-- The unfinished instances at levels 0 to 3 end at OPH (R162): running ones are aborted, held ones lose their bank,
ready ones leave their list. A task pre-empted in this very cycle is aborted as the running one, and the task that pre-empts
it stays (R92; log entry 133). Answers the engines whose active bank came free. -/
def ophKill (d : Die) : Die × List PhaseEvt × List Nat :=
  let met := (upto 16).filter (metAbort d)
  let onEng := ((engineTasks d).filter fun x => x.2.1.level < 4 && !(x.2.2 && met.contains x.1)).map fun x =>
    (x.1, x.2.1, x.2.2 || met.contains x.1, x.2.2)
  let ready := (upto 4).flatMap fun l => readyList d l
  let evts := onEng.map (fun x =>
      ((x.2.1.idx, (if x.2.2.1 then 0x08 else 0x09), x.1, x.2.1.level, x.2.1.src, x.2.1.busy) : PhaseEvt)) ++
    ready.map fun t => (t.idx, 0x09, 0, t.level, t.src, 0)
  let aborts := (onEng.filter (·.2.2.1)).map (·.1)
  let aborted := (onEng.filter (·.2.2.2)).map (·.1)
  let d := met.foldl (fun d e => undoSwap d e d.tb.cyc) d
  let d := onEng.foldl (fun d x => instEnd d x.2.1 0x10) d
  let d := ready.foldl (fun d t => instEnd d t 0x10) d
  let d := (upto 16).foldl (fun d e => updEng d e fun g =>
    { g with active := g.active.filter fun t => met.contains e || 4 ≤ t.level, other := g.other.filter fun t => 4 ≤ t.level }) d
  let d := (upto 4).foldl (fun d l => setReady d l []) d
  let d := aborts.foldl (fun d e => incReg (swapBusy d e 2) (Reg.LE_ABORTCNT e)) d
  let d := evts.foldl (fun d _ => incReg d Reg.KNL_CNT_OPHKILL) d
  (d, evts, aborted)

/-- Park the running instances of newly suspended levels (R163): the banks swap, and the task held below resumes, or becomes
parked too. Answers the PARK events and the engines whose held task resumed. -/
def parkRunning (d : Die) (mask : Nat) : Die × List PhaseEvt × List Nat :=
  let run := (engineTasks d).filter fun x => x.2.2 && !x.2.1.parked && bitOf mask x.2.1.level
  run.foldl (fun (r : Die × List PhaseEvt × List Nat) x =>
    let e := x.1
    let t := { x.2.1 with parked := true }
    let evt : PhaseEvt := (t.idx, 0x0A, e, t.level, t.src, t.busy)
    let d := incReg (swapBusy r.1 e 6) Reg.KNL_CNT_PARK
    match (engH d e).other with
    | none =>
      (updEng d e fun g => { g with bank := !g.bank, active := none, other := some t }, r.2.1 ++ [evt], r.2.2)
    | some u =>
      let swap (u : Task) : Die := updEng d e fun g => { g with bank := !g.bank, active := some u, other := some t }
      if u.parked then (swap u, r.2.1 ++ [evt], r.2.2)
      else if suspended d u.level then
        (incReg (swap { u with parked := true }) Reg.KNL_CNT_PARK,
          r.2.1 ++ [evt, (u.idx, 0x0A, e, u.level, u.src, u.busy)], r.2.2)
      else (swap u, r.2.1 ++ [evt], r.2.2 ++ [e])) (d, [], [])

/-- Set the suspended levels (KNL_STAT.SUSP) and park what runs there. Answers the events and the engines whose held
task resumed (R163, R165). -/
def setSuspended (d : Die) (mask : Nat) : Die × List PhaseEvt × List Nat :=
  let old := fld d Reg.KNL_STAT_SUSP
  let started := (upto 16).foldl (fun m l => if bitOf mask l && !bitOf old l then setBit m l else m) 0
  let ended := (upto 16).foldl (fun m l => if bitOf old l && !bitOf mask l then setBit m l else m) 0
  let d := clearBlocked (setFld d Reg.KNL_STAT_SUSP mask)
  let r := parkRunning d started
  (r.1, (if started = 0 then [] else [((0, 0x0B, 0, 0, 0x1F, started) : PhaseEvt)]) ++
    (if ended = 0 then [] else [((0, 0x0C, 0, 0, 0x1F, ended) : PhaseEvt)]) ++ r.2.1, r.2.2)

/-- RESUME events of the engines whose held task resumed under a parking (R163). -/
def resumeEvts (d : Die) (es : List Nat) : Die :=
  es.foldl (fun d e => match (engH d e).active with
    | some t => ppEvt d 0x05 e t.level t.idx t.src t.busy
    | none => d) d

/-- PRECEDENCE_PORT_ACCEPT (R156): the head of the first non-empty queue of sources 0 to 4 makes its releases. -/
def acceptPrecedence (d : Die) : Die :=
  if !kennelOn d then d else
  match (upto 5).find? fun s => !(kqueue d s).isEmpty with
  | none => d
  | some src =>
    match kqueue d src with
    | [] => d
    | e :: rest => expand (setQueue d src rest) src e

/-- SHARED_PORT_ACCEPT (R156). -/
def acceptShared (d : Die) : Die :=
  if !kennelOn d then d else
  match (sharedOrder d.knl.rr).find? fun s => !(kqueue d s).isEmpty && !headBlocked d s with
  | none => noteBlocked d
  | some src =>
    match kqueue d src with
    | [] => d
    | e :: rest =>
      let d := updKnl (setQueue d src rest) fun k => { k with rr := src, blocked := clrBit k.blocked src }
      noteBlocked (expand d src e)

/-- ENGINE_END (R161): the end of the lowest engine number is recorded, and the other bank resumes. -/
def processEnd (d : Die) : Die :=
  if !kennelOn d then d else
  match (upto 16).find? fun e => (engH d e).ended.isSome with
  | none => d
  | some e =>
    match (engH d e).ended with
    | none => d
    | some x =>
      let t := x.task
      let d := updEng d e fun g => { g with ended := none }
      let d := if x.cause = 0 then ppEvt d 0x06 e t.level t.idx t.src t.busy
        else ppEvt d 0x07 e t.level t.idx t.src x.cause
      noteBlocked (resumeOther d e)

/-- Capture stops: RUN clears (R166) and what has not been written is dropped, uncounted (log entry 169). -/
def ppStop (d : Die) : Die :=
  let d := setFld (setFld d Reg.KNL_PP_CTL_RUN 0) Reg.KNL_PP_STAT_RUNNING 0
  updKnl d fun k => { k with trace := [], ppPost := none, ppTrig := false, ppFull := false }

/-- A Pawprint entry as it stands in the buffer (R164). -/
def ppEntry (x : PPEvt) : BitVec 128 :=
  BitVec.ofNat 128 (x.gt % 2 ^ 48 + 2 ^ 48 * (x.event % 256) + 2 ^ 56 * (x.engine % 16) + 2 ^ 60 * (x.level % 16) +
    2 ^ 64 * (x.idx % 1024) + 2 ^ 74 * (x.src % 32) + 2 ^ 79 * b2n x.loss + 2 ^ 80 * (x.beat % 2 ^ 16) +
    2 ^ 96 * (x.detail % 2 ^ 32))

/-- The stop of R166 is due: the trigger entry and the entries after it are written, or in MODE 1 the entry that fills
the buffer, after which capture runs no more. -/
def ppStopDue (d : Die) : Bool :=
  flag d Reg.KNL_PP_CTL_RUN && ((d.knl.ppTrig && d.knl.ppPost == none) || d.knl.ppFull)

/-- Write the oldest entry of the trace queue into the buffer (R164 to R166). -/
def ppWrite (d : Die) : Die :=
  if !flag d Reg.KNL_PP_CTL_RUN || !powered d 79 then d else
  if ppStopDue d then ppStop d else
  match d.knl.trace with
  | [] => d
  | x :: rest =>
    let i := fld d Reg.KNL_PP_WPTR_WPTR
    let d := updKnl d fun k => { k with buffer := sput 0 k.buffer i (ppEntry x), trace := rest }
    let d := setFld d Reg.KNL_PP_WPTR_WPTR (i + 1)
    let d := if i = 16383 then
        updKnl (setFlag d Reg.KNL_PP_STAT_WRAPPED) fun k => { k with ppFull := flag d Reg.KNL_PP_CTL_MODE }
      else d
    let d := if d.knl.ppTrig then
        updKnl d fun k => { k with ppPost := match k.ppPost with
          | some (n + 1) => some n
          | _ => none }
      else d
    if ppStopDue d then ppStop d else d

/-- A write of KNL_PP_CTL (R166). A new POSTCNT counts from the trigger entry, of which and after which `made` entries are
written. -/
def ppCtlWrite (d : Die) (v : Nat) : Die :=
  let was := flag d Reg.KNL_PP_CTL_RUN
  let now := bitOf v 0
  let d := putReg d Reg.KNL_PP_CTL (BitVec.ofNat 32 (v &&& 0x3FFF000F))
  if !now then ppStop d
  else if was then
    let made := (fld d Reg.KNL_PP_WPTR_WPTR + 16384 - fld d Reg.KNL_PP_TRIGIDX_TRIGIDX) % 16384
    (if d.knl.ppTrig then updKnl d fun k => { k with ppPost := some (fld d Reg.KNL_PP_CTL_POSTCNT - made) } else d)
  else
    let d := setFld (setFld d Reg.KNL_PP_STAT_TRIGGERED 0) Reg.KNL_PP_STAT_WRAPPED 0
    let d := setFlag (setFld d Reg.KNL_PP_WPTR_WPTR 0) Reg.KNL_PP_STAT_RUNNING
    updKnl d fun k => { k with trace := [], ppPost := none, ppTrig := false, ppFull := false }

/-- PRECEDENCE_PORT_ACCEPT (R156). -/
def execPrecedencePortAccept (s : State) : Host.Outcome State Fault Refusal := onDie acceptPrecedence s

/-- SHARED_PORT_ACCEPT (R156). -/
def execSharedPortAccept (s : State) : Host.Outcome State Fault Refusal := onDie acceptShared s

/-- DISPATCH (R160): the cycle's placement, where it takes an idle engine. -/
def execDispatch (s : State) : Host.Outcome State Fault Refusal :=
  onDie (fun d => if !kennelOn d then d else
    match placement d with
    | some (.dispatch t e) => place d (.dispatch t e)
    | some (.unpark t e) => place d (.unpark t e)
    | _ => d) s

/-- PREEMPT (R160): the cycle's placement, where it pre-empts a task. -/
def execPreempt (s : State) : Host.Outcome State Fault Refusal :=
  onDie (fun d => if !kennelOn d then d else
    match placement d with
    | some (.preempt t e) => place d (.preempt t e)
    | some (.unparkPreempt t e) => place d (.unparkPreempt t e)
    | _ => d) s

/-- ENGINE_END (R161). -/
def execEngineEnd (s : State) : Host.Outcome State Fault Refusal := onDie processEnd s

/-- PAWPRINT_DRAIN (R165): up to four entries of the trace queue are written. -/
def execPawprintDrain (s : State) : Host.Outcome State Fault Refusal :=
  onDie (fun d => (upto 4).foldl (fun d _ => ppWrite d) d) s

/-- PAWPRINT_STOP (R166): capture stops where its stop is due. -/
def execPawprintStop (s : State) : Host.Outcome State Fault Refusal :=
  onDie (fun d => if ppStopDue d then ppStop d else d) s

end Sys2Proof.Machine
end

