-- ==== Sys2Proof/Machine/Stages.lean ====
section
/-! DEFINITION. The laws of the vendor stages (R93 to R118, R422, R423) as they stand when a vendor task retires DONE,
and DONE itself. Exact rational arithmetic, rounded where R423 has the carried state rounded and where an output field
takes a value (log entry 12). -/

namespace Sys2Proof.Machine

/-- A 64-bit field in force, in counts (R8). -/
def q16 (d : Die) (off : Nat) : Rat := (effI64 d off : Rat) / 65536

/-- A 24-bit fraction in force (R9). -/
def frac24 (d : Die) (off : Nat) : Rat := (sext 24 (effN d off) : Rat) / 8388608

/-- A gain pair in force: m × 2^(e - 23) (R124). -/
def gain (d : Die) (off : Nat) : Rat :=
  (sext 24 (effN d off) : Rat) * pow2Q (sext 8 (effN d (off + 4)) - 23)

/-- Limits of a rational. -/
def clampQ (x lo hi : Rat) : Rat := if x < lo then lo else if hi < x then hi else x

/-- Sign of a rational. -/
def sgnQ (x : Rat) : Rat := if x < 0 then -1 else if x = 0 then 0 else 1

/-- Absolute value of a rational. -/
def absQ (x : Rat) : Rat := if x < 0 then -x else x

/-- A value stored as a 24-bit fraction, saturating, with ties to even (R65, R69); and whether it saturated. -/
def toFrac (x : Rat) : Int × Bool := satTo 24 (convQ (x * 8388608))

/-- The value of a mantissa of `w` bits with exponent e (R61, R62). -/
def mantQ (w : Nat) (m e : Int) : Rat := (m : Rat) * pow2Q (e - (w - 1 : Nat))

/-- A value rounded convergently to a mantissa of `w` bits with exponent e (R69, R72), before saturation. -/
def mantOf (w : Nat) (e : Int) (x : Rat) : Int := convQ (x * pow2Q ((w - 1 : Nat) - e))

/-- The exponent to which a block of `w`-bit mantissas grows so that a value fits, from e (R75), never beyond 127 (R76); at
most `fuel` steps. -/
def growTo (w : Nat) (x : Rat) : Nat → Int → Int
  | 0, e => e
  | n + 1, e => if e < 127 ∧ (satTo w (mantOf w e x)).2 then growTo w x n (e + 1) else e

/-- The redundant sign count of a `w`-bit mantissa (R64). -/
def rsbW (w : Nat) (m : Int) : Nat :=
  let x := if m < 0 then (-m - 1).toNat else m.toNat
  w - 1 - (if x = 0 then 0 else Nat.log2 x + 1)

/-- A paired value of R423: the exact result rounded convergently into the value's exponent, which grows where it must
(R75), and renormalised. -/
def toPaired (p : Paired) (x : Rat) : Paired :=
  let e := growTo 48 x 256 p.e
  let m := (satTo 48 (mantOf 48 e x)).1
  let e' := clampI (e - rsbW 48 m) (-128) 127
  ⟨m * 2 ^ (e - e').toNat, e'⟩

/-- The value of a paired value. -/
def pairQ (p : Paired) : Rat := mantQ 48 p.m p.e

/-- A stage block grown to an exponent: its mantissas shift right with convergent rounding (R69, R75). -/
def growBlock (h : Biquad) (e : Int) : Biquad :=
  let s := (e - h.e).toNat
  { e := e, x1 := convShr h.x1 s, x2 := convShr h.x2 s, y1 := convShr h.y1 s, y2 := convShr h.y2 s }

/-- A stage block renormalised at the end of its stage (R75). -/
def normBlock (h : Biquad) : Biquad :=
  let k := min (min (rsbW 24 h.x1) (rsbW 24 h.x2)) (min (rsbW 24 h.y1) (rsbW 24 h.y2))
  let e := clampI (h.e - k) (-128) 127
  let s := 2 ^ (h.e - e).toNat
  { e := e, x1 := h.x1 * s, x2 := h.x2 * s, y1 := h.y1 * s, y2 := h.y2 * s }

/-- Store a 24-bit fraction, sign-extended (R82). -/
def putFrac (d : Die) (off : Nat) (x : Rat) : Die := hwPut d off (BitVec.ofNat 32 (wrap 32 (toFrac x).1))

/-- Store a value in counts per second with 16 fractional bits, rounded as positions are (R8; log entry 165). -/
def putQ16 (d : Die) (off : Nat) (x : Rat) : Die := hwPut64 d off (rhuQ (x * 65536))

/-- Beat rate as a rational. -/
def hzQ (d : Die) : Rat := (hz d : Nat)

/-- The carried state of an axis's stages. -/
def stg (d : Die) (a : Nat) : StageSt := (axH d a).stage

/-- Change the carried state of an axis's stages. -/
def updStg (d : Die) (a : Nat) (f : StageSt → StageSt) : Die := updAx d a fun h => { h with stage := f h.stage }

/-- Integrators and filter histories at 0 (R108, R119, R122); R108's "the integrator" is read as all of them (log
entry 12). -/
def cleanStage (s : StageSt) : StageSt :=
  { s with i := paired0, sd := paired0, sq := paired0, na := biquad0, nb := biquad0, lp := biquad0 }

/-- The integers that the carried state of a vendor stage consists of (R423). -/
def stageList (s : StageSt) : List Int :=
  let b (h : Biquad) : List Int := [h.e, h.x1, h.x2, h.y1, h.y2]
  let q (x : Rat) : List Int := [x.num, x.den]
  [s.i.m, s.i.e, s.sd.m, s.sd.e, s.sq.m, s.sq.e] ++ b s.na ++ b s.nb ++ b s.lp ++
    q s.trk.x1 ++ q s.trk.x2 ++ q s.trk.y1 ++ q s.trk.y2 ++ q s.c ++ q s.px ++ q s.py

/-- AX_STAGE holds the carried state of the stages, laid out as the vendor program image has it (R422, R423). -/
def putStage (d : Die) (a : Nat) : Die :=
  (upto 16).foldl (fun d j => hwPut d (Reg.AX_STAGE a j) (Config.stageWord d.boot.img j (stageList (stg d a)))) d

/-- The carried state is cleaned (R108, R119, R122). -/
def cleanAxis (d : Die) (a : Nat) : Die := putStage (updStg d a cleanStage) a

/-- Raise conditions of an axis. -/
def raise (d : Die) (a : Nat) (f : Conds → Conds) : Die := updAx d a fun h => { h with conds := f h.conds }

/-- Input `i` that a vendor task holds. -/
def inpOf (t : Task) (i : Nat) : Int := t.inp.getD i 0

/-- The position stage (R95, R97), with the feedback and targets of its own beat and under the state of its release (R120).
In Held and Faulted p_tgt := p_fb (R119). -/
def posStage (d : Die) (a : Nat) (t : Task) : Die :=
  let beat := t.arg
  let pfb := inpOf t 0
  let d := if inpOf t 4 = 1 then d else hwPut64 d (Reg.AX_PTGT a) pfb
  let ptgt := if inpOf t 4 = 1 then inpOf t 1 else pfb
  let ep := wrapS 48 (ptgt - pfb)
  let vp := gain d (Reg.AX_KP a) * ((ep : Rat) / 65536) + gain d (Reg.AX_KFF a) * ((inpOf t 2 : Rat) / 65536)
  let dv := (inpOf t 3 : Rat) / 65536 / hzQ d
  let d := hwPut64 d (Reg.AX_PERR a) ep
  let d := if ep.natAbs > effN d (Reg.AX_PERR_MAX a) * 65536 then raise d a fun c => { c with perr := true } else d
  let s := 1 - fld d (Reg.AX_PSEL_SEL a)
  let d := putQ16 (putQ16 d (Reg.AX_RS_VCMD a s) vp) (Reg.AX_RS_VSLOPE a s) dv
  let d := hwPut d (Reg.AX_RS_TAG a s) (BitVec.ofNat 32 beat)
  axFld d (Reg.AX_PSEL_SEL a) s

/-- The velocity command and its slope (R98, R121), before the clamp. -/
def velCmd (d : Die) (a : Nat) : Die × Rat × Rat :=
  let f := hzQ d
  if axState d a = 3 then
    let v0 : Rat := ((axH d a).stopV : Rat) / 65536
    let n : Rat := ((d.tb.k - (axH d a).stopBeat : Nat) : Rat)
    let dec : Rat := (effN d (Reg.AX_STOP_DEC a) : Nat)
    let m := absQ v0 - dec * n / f
    let v := sgnQ v0 * (if m < 0 then 0 else m)
    (d, v, if v = 0 then 0 else -(sgnQ v0 * dec / f))
  else
    let s := fld d (Reg.AX_PSEL_SEL a)
    let age := (beatNum d + 2 ^ 32 - effN d (Reg.AX_RS_TAG a s)) % 2 ^ 32
    let vp := q16 d (Reg.AX_RS_VCMD a s)
    let dv := q16 d (Reg.AX_RS_VSLOPE a s)
    let d := hwPut d (Reg.AX_AGE a) (BitVec.ofNat 32 age)
    if age ≤ 2 then (d, vp + (age : Rat) * dv, dv)
    else (axCount (axEvent d (Reg.AX_STAT_AGED a)) (Reg.AX_CNT_AGED a), vp + 2 * dv, dv)

/-- Entry i of the gain table of an axis (R101). -/
def gainEntry (d : Die) (sel i : Nat) : Rat :=
  ((yRead d (Config.gainTableAt d.boot.img sel + i)).toNat % 2 ^ 24 : Nat) / 2097152

/-- The gain from its table (R100). -/
def lut (d : Die) (a : Nat) (ev : Rat) : Rat :=
  let sel := fld d (Reg.AX_CFG_LUT_SEL a)
  let n := Config.gainTableLen d.boot.img sel
  let full : Rat := (effN d (Reg.AX_EV_FULL a) : Nat)
  let top : Rat := ((n - 1 : Nat) : Rat)
  if n ≤ 1 then gainEntry d sel 0
  else
    let pos := if flag d (Reg.AX_CFG_LUT_SYM a) then clampQ ((ev + full) * top / (2 * full)) 0 top
      else clampQ (absQ ev * top / full) 0 top
    let i := pos.floor.toNat
    let fr : Rat := (((pos - pos.floor) * 65536).floor : Rat) / 65536
    let g0 := gainEntry d sel i
    let g1 := gainEntry d sel (min (i + 1) (n - 1))
    g0 + fr * (g1 - g0)

/-- One biquad (R102, R104): coefficients from three Y words; a disabled filter passes x and holds zero history. x and y
are rounded convergently into the block, which grows where they do not fit and saturates them where it cannot (R72, R76), and
the block is renormalised (R75, R423). -/
def biquad (d : Die) (en : Bool) (addr : Nat) (h : Biquad) (x : Rat) : Rat × Biquad :=
  if !en then (x, biquad0) else
  let w0 := yRead d addr
  let w1 := yRead d (addr + 1)
  let w2 := yRead d (addr + 2)
  let h := growBlock h (growTo 24 x 256 h.e)
  let xm := (satTo 24 (mantOf 24 h.e x)).1
  let acc : Int := laneRe w0 * xm + laneIm w0 * h.x1 + laneRe w1 * h.x2 - laneIm w1 * h.y1 - laneRe w2 * h.y2
  let y : Rat := (acc : Rat) / 4194304 * pow2Q (h.e - 23)
  let e := growTo 24 y 256 h.e
  let xm := convShr xm (e - h.e).toNat
  let h := growBlock h e
  let ym := (satTo 24 (mantOf 24 e y)).1
  let h := normBlock { e := e, x1 := xm, x2 := h.x1, y1 := ym, y2 := h.y1 }
  (mantQ 24 h.y1 h.e, h)

/-- The current stage of a thin-drive axis (R109 to R112). In a UV beat sd, sq, AX_VD and AX_VQ stand (log entry 34). -/
def currentStage (d : Die) (a : Nat) (tau vfb : Rat) : Die :=
  let f := hzQ d
  let ia := frac24 d (Reg.AX_IA a)
  let ib := frac24 d (Reg.AX_IB a)
  let vdc := frac24 d (Reg.AX_VDC a)
  let trip := frac24 d (Reg.AX_I_TRIP a)
  let ovc := trip < absQ ia ∨ trip < absQ ib ∨ trip < absQ (ia + ib)
  let d := if ovc then raise d a fun c => { c with ovc := true } else d
  let cpr : Rat := (effN d (Reg.AX_CS_CPR a) : Nat)
  let pp : Rat := (effN d (Reg.AX_CS_PP a) : Nat)
  let turns := pp * (q16 d (Reg.AX_PFB a) - q16 d (Reg.AX_CS_POFF a)) / cpr
  let th := turns - turns.floor
  let rev := pp * vfb / cpr
  let we := twoPiQ * rev
  let r3 := sqrtQ 3
  let ialpha := ia
  let ibeta := (ia + 2 * ib) / r3
  let co := cosTurn th
  let si := sinTurn th
  let id := ialpha * co + ibeta * si
  let iq := ibeta * co - ialpha * si
  let imax := frac24 d (Reg.AX_I_MAX a)
  let idr := frac24 d (Reg.AX_IDREF a)
  let iqr0 := tau * gain d (Reg.AX_CS_IQPT a)
  let ovr := imax * imax < idr * idr + iqr0 * iqr0
  let idr2 := if idr * idr < imax * imax then idr * idr else imax * imax
  let iqr := if ovr then sgnQ iqr0 * sqrtQ (imax * imax - idr2) else iqr0
  let d := if ovr then axEvent d (Reg.AX_STAT_LIMI a) else d
  let d := putFrac (putFrac d (Reg.AX_ID a) id) (Reg.AX_IQ a) iq
  if vdc ≤ 0 ∨ vdc < frac24 d (Reg.AX_VDC_MIN a) then
    let d := raise d a fun c => { c with uv := true }
    hwPut (hwPut d (Reg.AX_DUTY_AB a) 0x80008000) (Reg.AX_DUTY_C a) 0x8000
  else
    let s := stg d a
    let vd0 := gain d (Reg.AX_CS_KPD a) * (idr - id) + pairQ s.sd - we * gain d (Reg.AX_CS_LQ a) * iq
    let vq0 := gain d (Reg.AX_CS_KPQ a) * (iqr - iq) + pairQ s.sq +
      we * (gain d (Reg.AX_CS_LD a) * id + gain d (Reg.AX_CS_PSI a))
    let vlim := vdc / r3
    let vd := if vlim < absQ vd0 then sgnQ vd0 * vlim else vd0
    let circ := vlim * vlim < vd * vd + vq0 * vq0
    let vq := if circ then sgnQ vq0 * sqrtQ (vlim * vlim - vd * vd) else vq0
    let d := if circ then updStg (axEvent d (Reg.AX_STAT_LIMU a)) a fun s => { s with limBeat := some d.tb.k } else d
    let keepD := circ ∧ sgnQ vd = sgnQ (idr - id)
    let keepQ := circ ∧ sgnQ vq = sgnQ (iqr - iq)
    let d := updStg d a fun s =>
      { s with sd := if keepD then s.sd else toPaired s.sd (pairQ s.sd + gain d (Reg.AX_CS_KID a) * (idr - id) / f),
               sq := if keepQ then s.sq else toPaired s.sq (pairQ s.sq + gain d (Reg.AX_CS_KIQ a) * (iqr - iq) / f) }
    let d := putFrac (putFrac d (Reg.AX_VD a) vd) (Reg.AX_VQ a) vq
    let tap : Rat := (effN d (Reg.AX_CS_TAPPLY a) : Nat)
    let tha := th + rev * ((3 / 2) / f + tap / 1000000000)
    let ca := cosTurn tha
    let sa := sinTurn tha
    let va := vd * ca - vq * sa
    let vbeta := vd * sa + vq * ca
    let vb := -va / 2 + r3 / 2 * vbeta
    let vc := -va / 2 - r3 / 2 * vbeta
    let mx := if va < vb then (if vb < vc then vc else vb) else (if va < vc then vc else va)
    let mn := if vb < va then (if vc < vb then vc else vb) else (if vc < va then vc else va)
    let v0 := -(mx + mn) / 2
    let code (v : Rat) : Nat := min ((clampQ (1 / 2 + (v + v0) / vdc) 0 1) * 65536).floor.toNat 65535
    let d := hwPut d (Reg.AX_DUTY_AB a) (BitVec.ofNat 32 (code va + 65536 * code vb))
    hwPut d (Reg.AX_DUTY_C a) (BitVec.ofNat 32 (code vc + 65536 * (if ovc then 0 else 1)))

/-- The fixed-phase task (R93, R98 to R112). Answers whether AX_EV saturated (R99). In Held and Faulted the output is
zero and integrators and histories stay 0 (R119). AX_GAIN takes g truncated to its 2^-21, and an output value that R423
does not name is exact until its field rounds it (log entry 12); of the saturations in the stage only that of AX_EV counts as the
task's (log entry 166). -/
def fixedStage (d : Die) (a : Nat) (t : Task) : Die × Bool :=
  if !computing d a then
    let d := cleanAxis d a
    let d := hwPut d (Reg.AX_TQOUT a) 0
    (if flag d (Reg.AX_CFG_THIN a) then hwPut (hwPut d (Reg.AX_DUTY_AB a) 0x80008000) (Reg.AX_DUTY_C a) 0x8000 else d,
      false)
  else
    let f := hzQ d
    let vfb := q16 d (Reg.AX_VFB a)
    let ovspd : Rat := (effN d (Reg.AX_OVSPD a) : Nat)
    let d := if ovspd < absQ vfb then raise d a fun c => { c with ovspd := true } else d
    let r := velCmd d a
    let d := r.1
    let dv := r.2.2
    let vmax : Rat := (effN d (Reg.AX_VEL_MAX a) : Nat)
    let vcmd := clampQ r.2.1 (-vmax) vmax
    let d := if vcmd = r.2.1 then d else axEvent d (Reg.AX_STAT_LIMV a)
    let ev := vcmd - vfb
    let g := lut d a ev
    let s := stg d a
    let kv := gain d (Reg.AX_KV a)
    let ilim := frac24 d (Reg.AX_I_LIM a)
    let inew := clampQ (pairQ s.i + kv * gain d (Reg.AX_KI a) * ev / f) (-ilim) ilim
    let tau := g * (kv * ev + pairQ s.i) + gain d (Reg.AX_KA a) * dv * f
    let evf := toFrac (ev / ((effN d (Reg.AX_EV_FULL a) : Nat) : Rat))
    let d := hwPut d (Reg.AX_EV a) (BitVec.ofNat 32 (wrap 32 evf.1))
    let d := hwPut d (Reg.AX_GAIN a) (BitVec.ofNat 32 (g * 2097152).floor.toNat)
    let d := putFrac d (Reg.AX_TQCMD a) tau
    let img := d.boot.img
    let na := biquad d (flag d (Reg.AX_CFG_NA_EN a)) (Config.filterAt img a (inpOf t 0).toNat) s.na tau
    let nb := biquad d (flag d (Reg.AX_CFG_NB_EN a)) (Config.filterAt img a 2) s.nb na.1
    let lp := biquad d (flag d (Reg.AX_CFG_LP_EN a)) (Config.filterAt img a 3) s.lp nb.1
    let tql := frac24 d (Reg.AX_TQ_LIM a)
    let tout := clampQ lp.1 (-tql) tql
    let acts := tout ≠ lp.1
    let keep := acts ∧ sgnQ ev = sgnQ tout
    let d := updStg d a fun s =>
      { s with i := if keep then s.i else toPaired s.i inew, na := na.2, nb := nb.2, lp := lp.2,
               limBeat := if acts then some d.tb.k else s.limBeat }
    let d := if acts then axCount (axEvent d (Reg.AX_STAT_LIMT a)) (Reg.AX_CNT_LIMT a) else d
    let d := putFrac d (Reg.AX_TQOUT a) tout
    (putStage (if flag d (Reg.AX_CFG_THIN a) then currentStage d a tout vfb else d) a, evf.2)

/-- A frequency register in Hz (x 256). -/
def hz256 (d : Die) (off : Nat) : Rat := ((effN d off : Nat) : Rat) / 256

/-- A coefficient as a mantissa of coefficient exponent 1 (R104), with an error in LSB. -/
def coefMant (c : Rat) (err : Int) : Int := (satTo 24 (convQ (c * 4194304) + clampI err (-2) 2)).1

/-- The three words of a notch A moved to the frequency of a register value (R103, R104), each mantissa within 2 LSB of
the exact one, re b0, im b1, re b2, im a1, re a2 in this order; im of word 2 is 0. -/
def notchWords (d : Die) (a new : Nat) : List DWord :=
  let zzN := effN d (Reg.AX_NA_ZZ a) % 2 ^ 24
  let zpN := effN d (Reg.AX_NA_ZP a) % 2 ^ 24
  let zz : Rat := (zzN : Nat) / 8388608
  let zp : Rat := (zpN : Nat) / 8388608
  let x : Rat := ((new : Nat) : Rat) / 256 / hzQ d / 2
  let om := sinTurn x / cosTurn x
  let a0 := 1 + 2 * zp * om + om * om
  let c (q : Rat) (j : Nat) : Int := coefMant (q / a0) (Config.moveErr d.boot.img a new zzN zpN (hz d) j)
  [mkLanes (c (1 + 2 * zz * om + om * om) 0) (c (2 * (om * om - 1)) 1),
   mkLanes (c (1 - 2 * zz * om + om * om) 2) (c (2 * (om * om - 1)) 3),
   mkLanes (c (1 - 2 * zp * om + om * om) 4) 0]

/-- A move of notch A (R116), made by the tracker's run of beat `k` on engine `e`: its three words are queued for the inactive
set; a refused YST abandons the move, else 33 cycles after the last of them the set is switched and the move counted, logged with
the GT of that cycle (log entry 139). -/
def moveNotch (d : Die) (a e k new : Nat) : Die :=
  let old := (getReg d (Reg.AX_NA_FREQ a)).toNat
  let sel := 1 - fld d (Reg.AX_TRK_STAT_NA_SEL a)
  let base := Config.filterAt d.boot.img a sel
  let c := issuedAt d e 1
  let r := (upto 3).foldl (fun (x : Die × Bool) j =>
    if !x.2 then x
    else if 32 ≤ x.1.mem.yq.length then (incFld x.1 Reg.LE_YQ_REFUSED, false)
    else (yqPlace x.1 ⟨base + j, (notchWords d a new).getD j 0, c + j, e, none⟩, true)) (d, true)
  if !r.2 then r.1 else
  let d := updEng r.1 e fun g => { g with free := g.free + 35 }
  let put (d : Die) (off : Nat) (bits : Word) (v : Nat) : Die := axWrite d (2 + e / 4) (c + 35) off bits (BitVec.ofNat 32 v)
  let dw := Reg.AX_TRK_STAT_DWELL a
  let d := put d (Reg.AX_TRK_STAT a) (BitVec.ofNat 32 (1 + 2 ^ dw.lo * (2 ^ dw.w - 1))) sel
  let d := put d (Reg.AX_NA_FREQ a) 0xFFFFFFFF new
  let d := put d (Reg.AX_TRK_MOVES a) 0xFFFFFFFF (satInc 32 (getReg d (Reg.AX_TRK_MOVES a)).toNat)
  let d := updStg d a fun s => { s with lastMove := some k, naReq := none }
  logPut d ⟨edgeFix d.tb (c + 35) / 2 ^ 32, 3, 2, 0, a + 256 * ((getReg d (Reg.AX_TRK_RATIO a)).toNat / 256), old, new, false⟩

/-- Adaptation holds in the beat of an ADAPT task (R117): the axis was not Enabled, was limited, or was slow. -/
def trkHolds (d : Die) (a : Nat) (t : Task) : Bool :=
  inpOf t 3 == 0 || inpOf t 2 != 0 || decide ((inpOf t 1).natAbs < effN d (Reg.AX_TRK_VMIN a) * 65536)

/-- The resonance tracker of an axis on engine `e` (R113 to R118), with AX_EV and the limit marks of its own beat.
c, px, py
and y are exact; AX_TRK_FEST, AX_TRK_RATIO and f_new are truncated to their registers' resolution (log entry 12). A move that
QF abandoned is judged afresh in the next run (log entry 139). -/
def tracker (d : Die) (a e : Nat) (t : Task) : Die :=
  let k := t.beat
  let s := stg d a
  if trkHolds d a t then d
  else
    let f := hzQ d
    let img := d.boot.img
    let fresh : Bool := s.restart || (match s.ranBeat with
      | some b => b + 1 != k
      | none => true)
    let d := if fresh then axFld d (Reg.AX_TRK_STAT_DWELL a) 0 else d
    let h := if fresh then trkHist0 else s.trk
    let s := if s.restart then { s with c := cosTurn (hz256 d (Reg.AX_NA_FREQ a) / f), px := 0, py := 0 }
      else s
    let rho := clampQ (Config.vendorConst img a 0) (4 / 5) (49 / 50)
    let lam := Config.vendorConst img a 1
    let mu := Config.vendorConst img a 2
    let pfl := Config.vendorConst img a 3
    let x : Rat := (inpOf t 0 : Rat) / 8388608
    let y := x - 2 * s.c * h.x1 + h.x2 + 2 * rho * s.c * h.y1 - rho * rho * h.y2
    let px := lam * s.px + (1 - lam) * x * x
    let py := lam * s.py + (1 - lam) * y * y
    let clo := cosTurn (hz256 d (Reg.AX_FA_MAX a) / f)
    let chi := cosTurn (hz256 d (Reg.AX_FA_MIN a) / f)
    let c := clampQ (s.c + mu * y * h.x1 / (if px < pfl then pfl else px)) clo chi
    let fest := f * acosTurn c
    let ratio := px / (if py < pfl then pfl else py)
    let d := updStg d a fun u =>
      { u with trk := ⟨x, h.x1, y, h.y1⟩, c := c, px := px, py := py, ranBeat := some k, restart := false }
    let d := putStage d a
    let d := hwPut d (Reg.AX_TRK_FEST a) (BitVec.ofNat 32 (fest * 256).floor.toNat)
    let d := hwPut d (Reg.AX_TRK_RATIO a) (BitVec.ofNat 32 (min (ratio * 65536).floor.toNat (2 ^ 32 - 1)))
    let fna := hz256 d (Reg.AX_NA_FREQ a)
    let det : Bool := decide (((effN d (Reg.AX_TRK_DET a) : Nat) : Rat) / 65536 ≤ ratio ∧ pfl ≤ px ∧
      hz256 d (Reg.AX_TRK_HYST a) ≤ absQ (fest - fna))
    let d := axFld d (Reg.AX_TRK_STAT_DETECT a) (b2n det)
    let dw := if det then satInc 16 (fld d (Reg.AX_TRK_STAT_DWELL a)) else 0
    let d := axFld d (Reg.AX_TRK_STAT_DWELL a) dw
    match (stg d a).naReq with
    | some n => moveNotch d a e k n
    | none =>
      let gapOk := match (stg d a).lastMove with
        | none => true
        | some b => effN d (Reg.AX_TRK_GAP a) ≤ k - b
      if det && effN d (Reg.AX_TRK_DWELL a) ≤ dw && gapOk && !flag d (Reg.AX_TRK_CTL_FREEZE a) then
        let slew := hz256 d (Reg.AX_TRK_SLEW a)
        let fnew := clampQ (fna + clampQ (fest - fna) (-slew) slew) (hz256 d (Reg.AX_FA_MIN a)) (hz256 d (Reg.AX_FA_MAX a))
        moveNotch d a e k (fnew * 256).floor.toNat
      else d

/-- The task's sticky flags handed to its axis (R108). -/
def handFlags (d : Die) (a : Nat) (sat eovf : Bool) : Die :=
  let d := if sat then axCount (axEvent d (Reg.AX_STAT_SAT a)) (Reg.AX_CNT_SAT a) else d
  if eovf then raise d a fun c => { c with eovf := true } else d

/-- GT of the output phase of the beat in force (R25). -/
def ophGt (d : Die) : Nat := inBeat d (fld d Reg.BEAT_OPH_VALUE)

/-- A fixed-phase stage of the beat in force has finished, when the clock edge on which its DONE on engine `e` retires lies
before the one of OPH (R41, R86). The latest such edge is the end of the beat's last fixed-phase stage (R38). -/
def finishFixed (d : Die) (a e : Nat) (t : Task) : Die :=
  let at_ := edgeFix d.tb (engH d e).free
  if t.beat = d.tb.k ∧ at_ < ophGt d * 2 ^ 32 then
    updTb (updAx d a fun h => { h with fresh := true }) fun t =>
      { t with fixedEnd := some (max (at_ / 2 ^ 32) (t.fixedEnd.getD 0)) }
  else d

/-- What the retirement of DONE does beyond ending the task (R86, R108): the law of a vendor stage, the sticky flags to
the axis, the finish of a fixed-phase stage. `edgeLaw` is the law of the vendor's edge-bound tasks (R131, R199). -/
def retireDone (edgeLaw : Die → Nat → Task → Die) (e : Nat) (d : Die) (t : Task) : Die :=
  let role := sget 0 d.knl.vendor t.idx
  let cls := descClass d t.idx
  match descAxis d t.idx with
  | none => if 2 ≤ role then edgeLaw d role t else d
  | some a =>
    let r : Die × Bool :=
      if role = 1 then
        (if cls = 1 then (posStage d a t, false)
         else if cls = 0 then fixedStage d a t
         else if cls = 3 then (tracker d a e t, false)
         else (d, false))
      else (d, false)
    let d := if cls ≤ 1 then handFlags r.1 a (t.ctx.sr.sat || r.2) t.ctx.sr.eovf else r.1
    let d := if cls = 0 then finishFixed d a e t else d
    if 2 ≤ role then edgeLaw d role t else d

/-- DONE retires (R86, R154): the task ends and the Kennel has its end to process. The axis-state words that a vendor stage
writes are writes of its engine's port (R58). A non-zero unused field is ILLOP and a double error MEM; where both hold, either
is recorded (log entry 14). -/
def runDone (edgeLaw : Die → Nat → Task → Die) (e : Nat) (ecc : Ecc) (d : Die) : Die :=
  match issuing d e with
  | none => d
  | some t =>
    let w := fetch d t.ctx.pc.toNat
    if iOp w ≠ 0x30 then d else
    let d := eccCount (busyFor d e 1) e w ecc
    let causes := (if ecc.bad then [8] else []) ++ if usedI 0 w then [] else [1]
    if causes.isEmpty then
      let t := (engH d e).active.getD t
      let d := instEnd (axSettle (2 + e / 4) (issuedAt d e 1) d (retireDone edgeLaw e d t)) t 0
      updEng d e fun g => { g with active := none, ended := some ⟨t, 0⟩ }
    else
      let r := pickCause d causes
      engineFault r.2 e t r.1

end Sys2Proof.Machine
end

