-- ==== Sys2Proof/Machine/Master.lean ====
section
/-! DEFINITION. The master (R126 to R136, R424): pulse and analogue inputs, the samples held, the virtual master, the
lead window, loss, acknowledgement and rebase. Exact integer arithmetic (R125). -/

namespace Sys2Proof.Machine

/-- edge(k) as an integer (R125). -/
def edgeI (d : Die) (k : Nat) : Int := (edgeGt (hz d) k : Nat)

/-- 10^9. -/
def giga : Int := 1000000000

/-- Source of the master (MST_CFG.SRC). -/
def mstSrc (d : Die) : Nat := fld d Reg.MST_CFG_SRC

/-- The lead window L (R132). -/
def leadL (d : Die) : Nat := fld d Reg.MST_CFG_LEAD + 1

/-- A pulse input, an analogue input. -/
def pulseH (d : Die) (n : Nat) : Pulse := vget pulse0 d.mst.mp n

/-- See `pulseH`. -/
def updPulse (d : Die) (n : Nat) (f : Pulse → Pulse) : Die :=
  updMst d fun m => { m with mp := vset m.mp n (f (pulseH d n)) }

/-- See `pulseH`. -/
def anaH (d : Die) (n : Nat) : Analogue := vget ⟨[], 0, 0⟩ d.mst.ma n

/-- See `pulseH`. -/
def updAna (d : Die) (n : Nat) (f : Analogue → Analogue) : Die :=
  updMst d fun m => { m with ma := vset m.ma n (f (anaH d n)) }

/-- Place of a level pair (bit 0 A, bit 1 B) in the cycle 00, 01, 11, 10 (log entry 15). -/
def quadPlace (ab : Nat) : Nat := nth [0, 1, 3, 2] ab

/-- A pulse input takes new levels, counted at `t` (R128): both changed is an error, else the count steps and is stamped. -/
def quadEdge (d : Die) (n ab t : Nat) : Die :=
  let d := toGt d t
  let p := pulseH d n
  if p.ab = ab then d
  else if p.ab + ab = 3 then
    updPulse (incReg (setFlag d (if n = 0 then Reg.MST_STAT_QERR0 else Reg.MST_STAT_QERR1)) Reg.MST_CNT_QERR) n
      fun p => { p with ab := ab }
  else
    let up : Bool := (quadPlace p.ab + 1) % 4 == quadPlace ab
    let dir : Int := if up != flag d (Reg.MST_MP_CFG_INV n) then 1 else -1
    let d := updPulse d n fun p => { p with ab := ab, count := p.count + dir, stamp := t }
    putReg d (Reg.MST_MP_CNT n) (BitVec.ofNat 32 (wrap 32 (pulseH d n).count))

/-- New levels of a pulse input, first sampled at `t` and staying for `stable` ns (R128): they count once they have been
stable for FILT × 4 ns. -/
def filterEdge (d : Die) (n ab t stable : Nat) : Die :=
  let f := 4 * fld d (Reg.MST_MP_CFG_FILT n)
  if stable < f then d else quadEdge d n ab (t + f)

/-- An analogue conversion completes (R130). A code as old as the longest beat (R24) belongs to no coming sample. -/
def anaCode (d : Die) (n code t : Nat) : Die :=
  let d := toGt d t
  let d := updAna d n fun a => { a with codes := a.codes.filter (fun x => t < x.1 + 250000) ++ [(t, sext 16 code)] }
  let d := putReg d (Reg.MST_MA_RAW n) (BitVec.ofNat 32 code)
  if code = 0x7FFF ∨ code = 0x8000 then setFlag d (if n = 0 then Reg.MST_STAT_MAOVR0 else Reg.MST_STAT_MAOVR1) else d

/-- The count and stamp of a pulse input at an edge; before the first latched edge, those of the first. -/
def pulseAt (h : List (Nat × Int × Nat)) (j : Int) : Option (Int × Nat) :=
  match h.find? fun x => (x.1 : Int) ≤ j with
  | some x => some x.2
  | none => h.getLast?.map (·.2)

/-- The sample of a pulse input for edge s (R129). -/
def pulseSample (d : Die) (n s : Nat) : Sample :=
  let p := pulseH d n
  let win : Int := (fld d (Reg.MST_MP_CFG_VWIN n) + 1 : Nat)
  let j := (pulseAt p.hist ((s : Int) - win)).getD (p.count, p.stamp)
  let dtS : Int := (p.stamp : Int) - j.2
  let vs : Int := if p.count = j.1 ∨ dtS ≤ 0 then 0 else rhu ((p.count - j.1) * 65536 * giga) dtS
  let frac := imin (rhu (vs.natAbs * (edgeI d s - p.stamp)) giga) 65535
  { s := s, pos := wrapS 64 (p.count * 65536 + sgn vs * frac), vel := vs, acc := 0, got := 0 }

/-- The sample of an analogue input for edge s, from the codes completed in (edge(s - 1), edge(s)] (R130). Its velocity and
acceleration are kept whole where they pass 64 bits (log entry 160). -/
def anaSample (d : Die) (n s : Nat) : Sample :=
  let a := anaH d n
  let codes := a.codes.filter fun x => edgeGt (hz d) (s - 1) < x.1 && x.1 ≤ edgeGt (hz d) s
  let c : Int := if codes.isEmpty then 0 else rhu (codes.foldl (fun m x => m + x.2) 0) (codes.length : Nat)
  let offs := (getReg d (Reg.MST_MA_OFFS n)).toNat
  let x := c - sext 16 offs
  let x := if x.natAbs ≤ offs / 65536 then 0 else x
  let gm := sext 24 (getReg d (Reg.MST_MA_GAIN_LO n)).toNat
  let ge := sext 8 (getReg d (Reg.MST_MA_GAIN_HI n)).toNat - 7
  let vs := if 0 ≤ ge then x * gm * 2 ^ ge.toNat else rhu (x * gm) (2 ^ (-ge).toNat)
  let dt := edgeI d s - edgeI d (s - 1)
  { s := s, pos := wrapS 64 (a.m + rhu ((a.v + vs) * dt) (2 * giga)), vel := vs,
    acc := rhu ((vs - a.v) * giga) dt, got := 0 }

/-- Hold a sample from now on (R133, R134): the newest is shown, and the first one marks the source as delivering (R424). -/
def addSample (d : Die) (x : Sample) : Die :=
  let x := { x with got := d.tb.gt }
  let newest := (d.mst.samples.head?.map (·.s))
  if d.mst.samples.any (·.s == x.s) then d
  else if (match newest with | some n => decide (x.s ≤ n) | none => false) then d
  else
    let d := updMst d fun m =>
      { m with samples := (x :: m.samples).take 32, start := some (m.start.getD x.s) }
    let d := putReg d Reg.MST_S_EDGE (BitVec.ofNat 32 x.s)
    let d := putI64 (putI64 (putI64 d Reg.MST_S_POS x.pos) Reg.MST_S_VEL x.vel) Reg.MST_S_ACC x.acc
    setFlag d Reg.MST_STAT_SRCOK

/-- The latches of the master inputs at edge s (R30, R128 to R130), and the local source's sample. -/
def masterEdge (d : Die) : Die :=
  let s := d.tb.k
  if !powered d 78 then d else
  let src := mstSrc d
  let d := if src = 0 then addSample d { sample0 with s := s } else d
  let d := if src = 1 then addSample d (pulseSample d 0 s) else if src = 2 then addSample d (pulseSample d 1 s) else d
  let d := [0, 1].foldl (fun d n => updPulse d n fun p => { p with hist := ((s, p.count, p.stamp) :: p.hist).take 65 }) d
  [0, 1].foldl (fun d n =>
    let x := anaSample d n s
    let d := updAna d n fun a =>
      { codes := a.codes.filter fun y => edgeGt (hz d) s < y.1, m := x.pos, v := x.vel }
    if src = 3 + n then addSample d x else d) d

/-- The limiter's out-of-lock acceleration and velocity step (R131, R143): new acceleration, velocity and position. -/
def stepOut (amax jmax dt vdes p v a : Int) : Int × Int × Int :=
  let dv := vdes - v
  let dj := rhu (jmax * dt) giga
  let ades := sgn dv * imin (imin amax (rhu (dv.natAbs * giga) dt)) (isqrt (2 * jmax * dv.natAbs).toNat : Nat)
  let an := a + clampI (ades - a) (-dj) dj
  let vn := v + rhu ((a + an) * dt) (2 * giga)
  (an, vn, wrapS 64 (p + rhu ((v + vn) * dt) (2 * giga)))

/-- The virtual-master task of beat `k` retires DONE (R131): the sample of edge k + 1. Before the first step, where the rule
gives no last sample, the step is of one beat (log entry 110). -/
def virtualMaster (d : Die) (k : Nat) : Die :=
  if mstSrc d ≠ 5 then d else
  let s := k + 1
  let x := d.mst.vm
  let s' := if d.mst.start.isNone then k else x.s
  let dt := edgeI d s - edgeI d s'
  if dt ≤ 0 then d else
  let amax : Int := (effN d Reg.MST_VM_ACC * 16 * 65536 : Nat)
  let jmax : Int := (effN d Reg.MST_VM_JERK * 1024 * 65536 : Nat)
  let r := stepOut amax jmax dt (effI64 d Reg.MST_VM_VEL) x.pos x.vel x.acc
  let y : Sample := { s := s, pos := r.2.2, vel := r.2.1, acc := r.1, got := 0 }
  addSample (updMst d fun m => { m with vm := y }) y

/-- The master for edge k + 1 from a sample, without rebase (R132): position, velocity, acceleration. -/
def extrapolate (d : Die) (k : Nat) (x : Sample) : Int × Int × Int :=
  let dt := edgeI d (k + 1) - edgeI d x.s
  (wrapS 64 (x.pos + rhu (2 * x.vel * dt * giga + x.acc * dt * dt) (2 * giga * giga)),
    x.vel + rhu (x.acc * dt) giga, x.acc)

/-- The sample required in beat k, s = k + 1 - L, when it is held in time: one held at edge(k) + 400 ns, or the zero sample
of an edge before the source's first (R133, R134, R424). -/
def requiredSample (d : Die) (k : Nat) : Option Sample :=
  let s : Int := (k : Int) + 1 - leadL d
  let early : Bool := mstSrc d == 0 || (match d.mst.start with
    | none => true
    | some st => s < (st : Int))
  if early then some { sample0 with s := s.toNat }
  else d.mst.samples.find? fun x => (x.s : Int) == s && x.got ≤ edgeGt (hz d) k + 400

/-- Publish the master for edge k + 1 (R132). -/
def putMaster (d : Die) (k : Nat) (m v a : Int) : Die :=
  let d := updMst d fun x => { x with m := m, vmx := v, am := a }
  let d := putReg d Reg.MST_X_EDGE (BitVec.ofNat 32 (k + 1))
  putI64 (putI64 (putI64 d Reg.MST_X_POS m) Reg.MST_X_VEL v) Reg.MST_X_ACC a

/-- The master is lost after MHOLD consecutive late beats (R134, R135). -/
def masterLoss (d : Die) : Die :=
  if !flag d Reg.MST_STAT_LOST && 1 ≤ d.mst.lateRun && fld d Reg.MST_CFG_MHOLD ≤ d.mst.lateRun then
    logEvt (setFlag d Reg.MST_STAT_LOST) 4 2 2 (beatNum d) 0 0
  else d

/-- An accepted ACK takes effect (R136): the last run, of beat k, held its sample in time; the source master takes
over the position of the internal one. -/
def rebaseNow (d : Die) : Die :=
  match d.mst.ran, d.mst.ackEdge with
  | some k, some e =>
    if flag d Reg.MST_STAT_LOST && flag d Reg.MST_STAT_ACKPEND && d.mst.inTime && e ≤ k then
      match requiredSample d k with
      | none => d
      | some x =>
        let src := extrapolate d k x
        let reb := wrapS 64 (d.mst.m - src.1)
        let d := putI64 d Reg.MST_REBASE reb
        let d := putMaster d k d.mst.m src.2.1 src.2.2
        let d := setFld (setFld (setFld d Reg.MST_STAT_LOST 0) Reg.MST_STAT_HALTED 0) Reg.MST_STAT_ACKPEND 0
        let d := updMst (setFlag d Reg.MST_STAT_REBASED) fun m => { m with ackEdge := none, lateRun := 0 }
        logEvt d 4 3 0 (getReg d Reg.MST_REBASE).toNat (getReg d (Reg.MST_REBASE + 4)).toNat 0
    else d
  | _, _ => d

/-- The master of the run of beat k (R132 to R136). -/
def masterRun (d : Die) : Die :=
  let k := d.tb.k
  let req := requiredSample d k
  let d := updMst d fun m => { m with inTime := req.isSome, ran := some k }
  if flag d Reg.MST_STAT_LOST then
    let dt := edgeI d (k + 1) - edgeI d k
    let dec : Int := (effN d Reg.MST_LOSS_DEC * 16 * 65536 : Nat)
    let v := d.mst.vmx
    let vn := sgn v * imax ((v.natAbs : Int) - rhu (dec * dt) giga) 0
    let m := wrapS 64 (d.mst.m + rhu ((v + vn) * dt) (2 * giga))
    let d := putMaster d k m vn (rhu ((vn - v) * giga) dt)
    rebaseNow (putFlag d Reg.MST_STAT_HALTED (vn == 0))
  else
    let reb := getI64 d Reg.MST_REBASE
    match req with
    | some x =>
      let r := extrapolate d k x
      let d := updMst d fun m => { m with lateRun := 0 }
      putMaster d k (wrapS 64 (r.1 + reb)) r.2.1 r.2.2
    | none =>
      let s := k + 1 - leadL d
      let x := (d.mst.samples.find? fun x => decide (x.s < s)).getD sample0
      let r := extrapolate d k x
      let d := incReg (setFlag d Reg.MST_STAT_MLATE) Reg.MST_CNT_MLATE
      let d := if d.mst.lateRun = 0 then logEvt d 4 1 1 (s % 2 ^ 32) (x.s % 2 ^ 32) 0 else d
      let d := updMst d fun m => { m with lateRun := m.lateRun + 1 }
      masterLoss (putMaster d k (wrapS 64 (r.1 + reb)) r.2.1 r.2.2)

/-- QUADRATURE_EDGE (R128). -/
def execQuadratureEdge (n : Fin 2) (ab : BitVec 2) (e : PinEdge) (s : State) : Host.Outcome State Fault Refusal :=
  onDie (fun d => if powered d 78 then filterEdge d n.val ab.toNat e.at_.toNat e.stable else d) s

/-- ANALOGUE_CONVERSION (R130). -/
def execAnalogueConversion (n : Fin 2) (code : BitVec 16) (t : QWord) (s : State) :
    Host.Outcome State Fault Refusal :=
  onDie (fun d => if powered d 78 then anaCode d n.val code.toNat t.toNat else d) s

/-- MASTER_LOST (R135): what the gear unit does when MHOLD beats in a row were late. -/
def execMasterLost (s : State) : Host.Outcome State Fault Refusal := onDie masterLoss s

/-- REBASE (R136): an accepted ACK takes effect. -/
def execRebase (s : State) : Host.Outcome State Fault Refusal := onDie rebaseNow s

end Sys2Proof.Machine
end

