-- ==== Sys2Proof/Machine/Gear.lean ====
section
/-! DEFINITION. The gear unit (R137 to R148): register trim, the raw target, the jerk-limited limiter, engagement, lag
and the homing sequencer, for each declared axis in ascending order. -/

namespace Sys2Proof.Machine

/-- Modes of AX_LS_CTL (R138). -/
def modeGeared : Nat := 1

/-- HOST mode. -/
def modeHost : Nat := 2

/-- HOMING mode. -/
def modeHoming : Nat := 3

/-- Register trim of an axis in the run of beat k (R141). -/
def trimRun (d : Die) (a : Nat) : Die :=
  let k := d.tb.k
  let edge := edgeGt (hz d) k
  let due := d.mst.trims.filter fun x => x.1 == a && x.2.2 < edge
  let pend := due.foldl (fun s x => wrapS 64 (s + x.2.1)) (getI64 d (Reg.AX_LS_TRIMPEND a))
  let clr := d.mst.trimClr.any fun x => x.1 == a && x.2 ≤ k
  let pend := if clr then 0 else pend
  let st : Int := (effN d (Reg.AX_LS_TRIMSTEP a) : Nat)
  let mv := clampI pend (-st) st
  let d := updMst d fun m =>
    { m with trims := m.trims.filter fun x => !(x.1 == a && x.2.2 < edge),
             trimClr := m.trimClr.filter fun x => !(x.1 == a && x.2 ≤ k) }
  let d := hwPut64 d (Reg.AX_LS_TRIMPEND a) (pend - mv)
  hwPut64 d (Reg.AX_LS_TRIMSUM a) (getI64 d (Reg.AX_LS_TRIMSUM a) + mv)

/-- A register correction is posted to an axis (R141): queued, or discarded and counted by the gear unit (R58). -/
def postTrim (d : Die) (a : Nat) (v : Int) : Die :=
  if 16 ≤ d.mst.trims.length || effFld d (Reg.AX_LS_CTL_MODE a) != modeGeared ||
      effFld d (Reg.AX_LS_CTL_TRIMHOLD a) == 1 then
    axSettle 1 d.tb.cyc d (axEvent (axCount d (Reg.AX_LS_CNT_TRIMDROP a)) (Reg.AX_LS_STAT_TRIMDROP a))
  else updMst d fun m => { m with trims := m.trims ++ [(a, wrapS 64 v, d.tb.gt)] }

/-- Homing is over (R147): IDLE, HOST mode, and the command completes with its status and outcome (R148, R349). -/
def homingEnd (d : Die) (a status outcome : Nat) : Die :=
  let t := (gearH d a).hmTicket
  let d := axFld (axFld d (Reg.AX_LS_STAT_HOMING a) 0) (Reg.AX_LS_STAT_HM_STATE a) 0
  let d := axFld d (Reg.AX_LS_CTL_MODE a) modeHost
  let d := dropHeld d (Reg.AX_LS_CTL a)
  complete (updGear d a fun g => { g with hmState := 0, hmTicket := 0, vr := 0 }) t status outcome 0

/-- Enter a homing state with a raw velocity (R147). -/
def homingGo (d : Die) (a st : Nat) (vr : Int) : Die :=
  let d := axFld d (Reg.AX_LS_STAT_HM_STATE a) st
  updGear d a fun g => { g with hmState := st, vr := vr, hmPhase := false, hmOff := none, hmStill := 0 }

/-- The homing sequencer of an axis in one run (R147), the first matching row (R15), by METHOD and DIR as they were when HOME
was accepted (log entry 111). The SETP it sets stands over a host write that waits for its edge (log entry 148). -/
def homingRun (d : Die) (a : Nat) : Die :=
  if !flag d (Reg.AX_LS_STAT_HOMING a) then d else
  let g := gearH d a
  let cfg := g.hmCfg
  let method := bitsOf cfg 0 3
  let dir : Int := if bitOf cfg 3 then -1 else 1
  let vs : Int := dir * (effN d (Reg.AX_HM_VSEARCH a) * 65536 : Nat)
  let vc : Int := dir * (effN d (Reg.AX_HM_VCREEP a) * 65536 : Nat)
  if axState d a ≠ 2 then homingEnd d a 2 2
  else if 1 ≤ g.hmState ∧ g.hmState ≤ 3 ∧ effN d (Reg.AX_HM_TRAVEL a) * 65536 < (wrapS 64 (g.p - g.hmStart)).natAbs then
    homingEnd (hwPut64 d (Reg.AX_LS_SETP a) g.p) a 4 1
  else match g.hmState with
  | 0 =>
    if method = 0 then updGear (homingGo d a 5 0) a fun g => { g with hmLatch := g.pfb }
    else if method = 3 then homingGo d a 3 vc
    else if g.hsw then homingGo d a 2 (-vs) else homingGo d a 1 vs
  | 1 => if g.hsw then homingGo d a 2 (-vs) else d
  | 2 =>
    if g.hsw then updGear d a fun g => { g with hmOff := none }
    else
      let off := g.hmOff.getD g.p
      if effN d (Reg.AX_HM_BACKOFF a) * 65536 ≤ (wrapS 64 (g.p - off)).natAbs then homingGo d a 3 vc
      else updGear d a fun g => { g with hmOff := some off }
  | 3 =>
    let hit : Option Int :=
      match g.latch with
      | none => none
      | some x =>
        if method = 1 then (if g.lsrc then none else some x)
        else if method = 2 then (if g.hmPhase && g.lsrc then some x else none)
        else (if g.lsrc then some x else none)
    match hit with
    | some x => updGear (homingGo d a 4 0) a fun g => { g with hmLatch := x, r := g.p }
    | none => if g.latch.isSome && !g.lsrc then updGear d a fun g => { g with hmPhase := true } else d
  | 4 =>
    let still := if g.vfb.natAbs ≤ effN d (Reg.AX_VSTILL a) * 65536 then g.hmStill + 1 else 0
    if 8 ≤ still then homingGo d a 5 0 else updGear d a fun g => { g with hmStill := still }
  | _ =>
    let delta := wrapS 64 (effI64 d (Reg.AX_HM_POS a) - g.hmLatch)
    let p := wrapS 64 (g.p + delta)
    let d := updGear d a fun g => { g with p := p, r := wrapS 64 (g.r + delta), commit := some delta }
    homingEnd (hwPut64 d (Reg.AX_LS_SETP a) p) a 0 0

/-- The raw target of an axis for edge k + 1 (R138 to R140): r, vr, ar. A new ratio pair re-anchors first. -/
def rawTarget (d : Die) (a : Nat) : Die × Int × Int × Int :=
  let g := gearH d a
  let k := d.tb.k
  match effFld d (Reg.AX_LS_CTL_MODE a) with
  | 1 =>
    let num := sext 32 (effN d (Reg.AX_LS_NUM a))
    let den := effN d (Reg.AX_LS_DEN a)
    let m := d.mst.m
    let gOf (mref pref n dn : Int) : Int := wrapS 64 (pref + rhu (wrapS 64 (m - mref) * n) dn)
    let d := if g.num = num ∧ g.den = den then d
      else updGear d a fun g => { g with mref := m, pref := gOf g.mref g.pref g.num g.den, num := num, den := den }
    let g := gearH d a
    let x := gOf g.mref g.pref num den
    let r := wrapS 64 (x + effI64 d (Reg.AX_LS_PHASE a) + getI64 d (Reg.AX_LS_TRIMSUM a))
    (d, r, rhu (d.mst.vmx * num) den, rhu (d.mst.am * num) den)
  | 2 => (d, effI64 d (Reg.AX_LS_SETP a), 0, 0)
  | 3 => (d, wrapS 64 (g.r + rhu (g.vr * (edgeI d (k + 1) - edgeI d k)) giga), g.vr, 0)
  | _ => (d, g.p, 0, 0)

/-- The tracking values of the limiter (R142); the tag may lie after the beat in force where GT has stepped back. -/
def trackTo (d : Die) (a : Nat) : Int × Int :=
  let g := gearH d a
  let tagK := ((d.tb.k : Int) - sext 32 (d.tb.k + 2 ^ 32 - g.tag % 2 ^ 32)).toNat
  (wrapS 64 (g.pfb + rhu (g.vfb * (edgeI d (d.tb.k + 1) - edgeI d tagK)) giga), g.vfb)

/-- One limiter step (R143): p, v, a and lock. -/
def limiter (d : Die) (a : Nat) (r vr ar : Int) : Int × Int × Int × Bool :=
  let g := gearH d a
  let dt := edgeI d (d.tb.k + 1) - edgeI d d.tb.k
  let vmax : Int := (effN d (Reg.AX_LS_VMAX a) * 65536 : Nat)
  let amax : Int := (effN d (Reg.AX_LS_AMAX a) * 16 * 65536 : Nat)
  let jmax : Int := (effN d (Reg.AX_LS_JMAX a) * 1024 * 65536 : Nat)
  let kc : Int := (effN d (Reg.AX_LS_KC a) : Nat)
  let tol : Int := (effN d (Reg.AX_LS_TOL a) : Nat)
  let e := wrapS 64 (r - g.p - rhu (vr * dt) giga)
  let dj := rhu (jmax * dt) giga
  if (e.natAbs : Int) ≤ tol ∧ ((vr - g.v).natAbs : Int) ≤ rhu (tol * giga) dt ∧ (ar.natAbs : Int) ≤ amax ∧
      ((ar - g.a).natAbs : Int) ≤ dj then (r, vr, ar, true)
  else
    let corr := sgn e * imin (rhu (e.natAbs * kc) 256) (isqrt (2 * amax * e.natAbs).toNat : Nat)
    let vdes := clampI (vr + corr) (-vmax) vmax
    let x := stepOut amax jmax dt vdes g.p g.v g.a
    (x.2.2, x.2.1, x.1, false)

/-- ENGAGING ends with lock, or after AX_LS_ENGMAX runs (R144). -/
def engagingOver (d : Die) (a : Nat) : Die :=
  if flag d (Reg.AX_LS_STAT_ENGAGING a) &&
      (flag d (Reg.AX_LS_STAT_LOCK a) || effN d (Reg.AX_LS_ENGMAX a) ≤ (gearH d a).runs) then
    axFld d (Reg.AX_LS_STAT_ENGAGING a) 0
  else d

/-- AX_LS_LAG and the LAG test of an Enabled run (R144, R149); ENGAGING suspends the test through run ENGMAX. -/
def lagTest (d : Die) (a : Nat) (r p : Int) : Die :=
  let diff := wrapS 64 (r - p)
  let lag := clampI (diff.tdiv 65536) (-(2 ^ 31)) (2 ^ 31 - 1)
  let d := hwPut d (Reg.AX_LS_LAG a) (BitVec.ofNat 32 (wrap 32 lag))
  let d := if !flag d (Reg.AX_LS_STAT_ENGAGING a) && effN d (Reg.AX_LS_LAGMAX a) * 65536 < diff.natAbs then
      raise (axEvent d (Reg.AX_LS_STAT_LAG a)) a fun c => { c with lag := true }
    else d
  engagingOver d a

/-- Change the value of a register in force; a host write that waits for the next edge keeps waiting (R31, R145). -/
def forcePut (d : Die) (off : Nat) (w : Word) : Die :=
  let d := axMark d off 0xFFFFFFFF
  if (sget none d.held off).isSome then { d with held := sput none d.held off (some w) } else putReg d off w

/-- `forcePut` of a 64-bit field. -/
def forcePut64 (d : Die) (off : Nat) (i : Int) : Die :=
  let x := wrap 64 i
  forcePut (forcePut d off (BitVec.ofNat 32 x)) (off + 4) (BitVec.ofNat 32 (x >>> 32))

/-- What follows an Enabled step (R144). -/
def afterStep (d : Die) (a : Nat) (r p : Int) (lock : Bool) : Die :=
  let d := axFld d (Reg.AX_LS_STAT_LOCK a) (b2n lock)
  let d := if lock then d else axCount (axEvent d (Reg.AX_LS_STAT_LIMITED a)) (Reg.AX_LS_CNT_LIMITED a)
  lagTest d a r p

/-- Hold the targets of an axis in the shadow for edge k + 1 (R137). -/
def setTargets (d : Die) (a : Nat) (r vr p v acc : Int) : Die :=
  updGear d a fun g => { g with r := r, vr := vr, p := p, v := v, a := acc, tp := p, tv := v, ta := acc, tgtDue := true }

/-- The run of an axis in beat k (R137 to R148). The raw target is formed in every run; the first Enabled run and the
runs of an axis that is not Enabled track, and are no step of the limiter (R142, R144; log entry 17). -/
def gearAxis (d : Die) (a : Nat) : Die :=
  let d := homingRun (trimRun d a) a
  let x := rawTarget d a
  let d := x.1
  let r := x.2.1
  if axState d a ≠ 2 then
    let t := trackTo d a
    let d := axFld d (Reg.AX_LS_STAT_LOCK a) 0
    updGear (setTargets d a t.1 0 t.1 t.2 0) a fun g => { g with runs := 0 }
  else
    let runs := (gearH d a).runs + 1
    let d := updGear d a fun g => { g with runs := runs }
    if runs = 1 then
      let t := trackTo d a
      let d := axFld d (Reg.AX_LS_STAT_ENGAGING a) (b2n (effN d (Reg.AX_LS_ENGMAX a) != 0))
      let adopt := effFld d (Reg.AX_LS_CTL_ENGAGE a) == 1 && effFld d (Reg.AX_LS_CTL_MODE a) == modeGeared
      let d := if adopt then forcePut64 d (Reg.AX_LS_PHASE a) (effI64 d (Reg.AX_LS_PHASE a) + (t.1 - r)) else d
      let r := if adopt then t.1 else r
      let d := setTargets d a r x.2.2.1 t.1 t.2 0
      lagTest (axFld d (Reg.AX_LS_STAT_LOCK a) 0) a r t.1
    else
      let y := limiter d a r x.2.2.1 x.2.2.2
      let d := setTargets d a r x.2.2.1 y.1 y.2.1 y.2.2.1
      afterStep d a r y.1 y.2.2.2

/-- GEAR_UNIT_RUN (R137): the master, then each declared axis in its slot of 40 ns, in whose last cycle its fields are
written (R58); once a beat, while the beat runs. -/
def gearRun (d : Die) : Die :=
  if !running d || !powered d 78 || d.mst.ran == some d.tb.k || 2 ≤ d.tb.phase then d else
  let d := toGt d (inBeat d 500)
  let d := masterRun d
  let axes := declAxes d
  let start := d.tb.cyc
  let d := ((upto axes.length).zip axes).foldl (fun d x =>
    axSettle 1 (start + 20 * x.1 + 19) d (gearAxis d x.2)) d
  putReg d Reg.MST_GU_END (BitVec.ofNat 32 (500 + 40 * axes.length))

/-- The copies made at frame close (R137). -/
def gearCopy (d : Die) : Die :=
  (declAxes d).foldl (fun d a =>
    let h := axH d a
    updGear d a fun g =>
      { g with pfb := getI64 d (Reg.AX_PFB a), vfb := getI64 d (Reg.AX_VFB a), tag := (getReg d (Reg.AX_FBTAG a)).toNat,
               hsw := h.home, latch := h.latch, lsrc := h.lsrc }) d

/-- What lands at edge k + 1 (R137, R148): the targets of the shadow, and a homing commit's offset. -/
def gearEdge (d : Die) : Die :=
  (declAxes d).foldl (fun d a =>
    let g := gearH d a
    let d := if g.tgtDue then
        hwPut64 (hwPut64 (hwPut64 d (Reg.AX_PTGT a) g.tp) (Reg.AX_VTGT a) g.tv) (Reg.AX_ATGT a) g.ta
      else d
    let d := match g.commit with
      | some x => hwPut64 d (Reg.AX_HM_OFFS a) (getI64 d (Reg.AX_HM_OFFS a) + x)
      | none => d
    updGear d a fun g =>
      { g with tgtDue := false, commit := none,
               homed := (match g.commit with
                 | some x => (d.tb.k, x) :: g.homed
                 | none => g.homed).take 32 }) d

/-- A HOME command is accepted (R146). -/
def homeOk (d : Die) (a : Nat) : Bool :=
  axDecl d a && axState d a == 2 && effFld d (Reg.AX_LS_CTL_MODE a) == modeHost && !flag d (Reg.AX_LS_STAT_HOMING a)

/-- The start of homing (R146), written by the gear unit (R58). A host write of AX_LS_CTL that waits for its edge then ends
(log entry 148). -/
def homeStart (d : Die) (a ticket : Nat) : Die :=
  let d := axSettle 1 d.tb.cyc d
    (axFld (axFld (dropHeld d (Reg.AX_LS_CTL a)) (Reg.AX_LS_CTL_MODE a) modeHoming) (Reg.AX_LS_STAT_HOMING a) 1)
  updGear d a fun g => { g with hmState := 0, hmTicket := ticket, hmStart := g.p, hmCfg := effN d (Reg.AX_HM_CFG a), hmPhase := false, hmOff := none,
                                hmStill := 0, vr := 0 }

/-- GEAR_UNIT_RUN (R137). -/
def execGearUnitRun (s : State) : Host.Outcome State Fault Refusal := onDie gearRun s

/-- ENGAGING_END (R144). -/
def execEngagingEnd (a : Fin 128) (s : State) : Host.Outcome State Fault Refusal := onDie (fun d => axSettle 1 d.tb.cyc d (engagingOver d a.val)) s

end Sys2Proof.Machine
end

