-- ==== Sys2Proof/Machine/Axis.lean ====
section
/-! DEFINITION. The input deadline, and the output phase of a beat in its order: the Kennel's endings, STALE marking,
shedding, the axis states, the latched outputs and the release of adaptation (R34, R41 to R48, R119 to R123, R162). -/

namespace Sys2Proof.Machine

/-- INPUT_DEADLINE (R34): every declared axis that is not Disabled and has no accepted in-slot is MISSING. -/
def inputDeadline (d : Die) : Die :=
  if !running d || d.tb.phase ≠ 0 then d else
  let d := toGt d (inBeat d (fld d Reg.BEAT_IDL_VALUE))
  let d := (declAxes d).foldl (fun d a =>
    if axState d a ≠ 0 && !(axH d a).inSlot then axCount (axEvent d (Reg.AX_STAT_MISSING a)) (Reg.AX_CNT_MISS a)
    else d) d
  updTb d fun t => { t with phase := 1 }

/-- STALE marking of an axis at OPH of beat k (R41 to R43). -/
def markStale (d : Die) (a : Nat) : Die :=
  let k := d.tb.k
  if computing d a && !(axH d a).fresh then
    let d := axCount (axEvent d (Reg.AX_STAT_STALE a)) (Reg.AX_CNT_STALE a)
    let d := incReg (setFlag d Reg.BEAT_STAT_STALE) Reg.BEAT_STALECNT
    updAx d a fun h => { h with stale := k :: h.stale.filter fun b => k < b + 64, staleRun := h.staleRun + 1 }
  else updAx d a fun h => { h with stale := h.stale.filter fun b => k < b + 64, staleRun := 0 }

/-- A fixed-phase stage of the axis overruns (R41, R43): its work was released and has not finished. -/
def overruns (d : Die) (a : Nat) : Bool := axState d a ≠ 0 && (axH d a).inSlot && !(axH d a).fresh

/-- The overrun history (R43, R45), and the slack to publish (R38). -/
def markOverrun (d : Die) : Die :=
  let k := d.tb.k
  if (declAxes d).any (overruns d) then
    let d := ppTrigger (incReg (setFlag d Reg.BEAT_STAT_OVR) Reg.BEAT_OVRCNT) 1
    updTb d fun t => { t with ovrBeat := true, ovr := k :: t.ovr.filter (fun b => k ≤ b + 15), slack := some 0 }
  else updTb d fun t =>
    { t with ovrBeat := false, ovr := t.ovr.filter (fun b => k ≤ b + 15),
             slack := if t.fixedRel then t.fixedEnd.map (fun e => ophGt d - e) else none }

/-- A position stage released in beat k - 2 or earlier has not finished (R46). -/
def positionOld (d : Die) : Bool :=
  let k := d.tb.k
  let old (t : Task) : Bool := descClass d t.idx == 1 && t.beat + 2 ≤ k
  (engineTasks d).any (fun x => old x.2.1) || (upto 16).any fun l => (readyList d l).any old

/-- The levels suspended by the ends of A and B (R45, R46). -/
def suspMask (d : Die) : Nat := (if d.tb.endA.isSome then 0x0F00 else 0) + (if d.tb.endB.isSome then 0xF000 else 0)

/-- BEAT_STAT and BEAT_SHED of levels A and B (R45, R46). -/
def putShed (d : Die) : Die :=
  let k := d.tb.k
  let left (e : Option Nat) : Nat := match e with
    | some b => b - k
    | none => 0
  let d := putFlag (putFlag d Reg.BEAT_STAT_SHED_A d.tb.endA.isSome) Reg.BEAT_STAT_SHED_B d.tb.endB.isSome
  setFld (setFld d Reg.BEAT_SHED_A_LEFT (left d.tb.endA)) Reg.BEAT_SHED_B_LEFT (left d.tb.endB)

/-- An end that is reached without renewal is over (R45, R46). -/
def endShed (d : Die) : Die :=
  let rest (e : Option Nat) : Option Nat := e.filter fun b => d.tb.k < b
  updTb d fun t => { t with endA := rest t.endA, endB := rest t.endB }

/-- Levels A and B at OPH of beat k (R45, R46). An overrun at the OPH that is the end of B ends B and renews A alone (log entry
162). -/
def shedAB (d : Die) : Die × List PhaseEvt × List Nat :=
  let k := d.tb.k
  let ovr := d.tb.ovrBeat
  let b := (ovr && 2 ≤ (d.tb.ovr.filter fun x => k ≤ x + 15).length) || positionOld d
  let was := suspMask d
  let d := updTb d fun t =>
    { t with endA := if ovr || b then some (k + 1000) else t.endA, endB := if b then some (k + 1000) else t.endB }
  let d := endShed d
  let now := suspMask d
  let started := (now &&& 0x0F00 != 0 && was &&& 0x0F00 == 0) || (now &&& 0xF000 != 0 && was &&& 0xF000 == 0)
  let r := setSuspended (putShed d) now
  let d := if started then ppTrigger (logEvt r.1 1 2 1 now (beatNum r.1) 0) 2 else r.1
  (d, r.2)

/-- Level C holds for an axis in beat k (R47). -/
def levelCHolds (d : Die) (a : Nat) : Bool :=
  let h := axH d a
  (h.stale.head? == some d.tb.k && 4 ≤ h.staleRun) || 8 ≤ (h.stale.filter fun b => d.tb.k < b + 64).length

/-- Level C for every declared axis (R47). -/
def shedC (d : Die) : Die :=
  let axes := declAxes d
  let hit := axes.filter (levelCHolds d)
  let d := axes.foldl (fun d a =>
    let holds := levelCHolds d a
    let d := if holds && !(axH d a).levelC then logEvt d 1 3 2 a (beatNum d) (fld d Reg.BEAT_CFG_C_SCOPE) else d
    updAx d a fun h => { h with levelC := holds }) d
  if hit.isEmpty then d else
  let d := setFlag d Reg.BEAT_STAT_SHED_C
  (if flag d Reg.BEAT_CFG_C_SCOPE then axes else hit).foldl
    (fun d a => raise d a fun c => { c with shed := true }) d

/-- Set AX_CTL.REQ := 0b00, over a host write in the same cycle (R58, R122), also where it is 0 already. -/
def clearReq (d : Die) (a : Nat) : Die :=
  let off := Reg.AX_CTL a
  setFld (axNote (dropHeld d off) ⟨off, d.tb.cyc, 8, axSeen d 8 d.tb.cyc off, 3⟩) (Reg.AX_CTL_REQ a) 0

/-- Cause codes of AX_FAULT. -/
def causeHost : Nat := 0xC

/-- Entry to Stopping (R108, R121, R122). -/
def enterStopping (d : Die) (a cause : Nat) : Die :=
  let d := axFld (axFld d (Reg.AX_STAT_STATE a) 3) (Reg.AX_FAULT_STOPCAUSE a) cause
  let d := if cause = causeHost then d else clearReq d a
  let d := updAx d a fun h =>
    { h with stopBeat := d.tb.k, stopV := getI64 d (Reg.AX_VFB a), still := 0 }
  if cause = 3 ∨ cause = 4 then cleanAxis d a else d

/-- Entry to Faulted (R122), logged (R409). -/
def enterFaulted (d : Die) (a cause : Nat) : Die :=
  let d := clearReq (axFld (axFld d (Reg.AX_STAT_STATE a) 4) (Reg.AX_FAULT_CAUSE a) cause) a
  irqSet (logEvt d 3 1 2 a (getReg d (Reg.AX_FAULT a)).toNat (beatNum d)) 8

/-- Entry to Enabled with the start values of R122. -/
def enterEnabled (d : Die) (a : Nat) : Die :=
  let d := axFld d (Reg.AX_STAT_STATE a) 2
  let d := cleanAxis d a
  let d := hwPut64 d (Reg.AX_PTGT a) (getI64 d (Reg.AX_PFB a))
  let d := axFld d (Reg.AX_PSEL_SEL a) 0
  [0, 1].foldl (fun d j =>
    hwPut (hwPut64 (hwPut64 d (Reg.AX_RS_VCMD a j) 0) (Reg.AX_RS_VSLOPE a j) 0) (Reg.AX_RS_TAG a j)
      (BitVec.ofNat 32 (beatNum d))) d

/-- The end of a stop is reached (R121). -/
def stopOver (d : Die) (a : Nat) : Bool :=
  let h := axH d a
  8 ≤ h.still || (eff d (Reg.AX_STOP_TIME a)).toNat ≤ d.tb.k - h.stopBeat

/-- The run of beats at rest of a Stopping axis (R121). -/
def countStill (d : Die) (a : Nat) : Die :=
  if axState d a ≠ 3 then d else
  let rest := (axH d a).inSlot &&
    (getI64 d (Reg.AX_VFB a)).natAbs ≤ (eff d (Reg.AX_VSTILL a)).toNat * 65536
  updAx d a fun h => { h with still := if rest then h.still + 1 else 0 }

/-- The end of a stop (R123): Held after a stop by the host, else Faulted with the stop's cause. -/
def endStop (d : Die) (a : Nat) : Die :=
  let c := fld d (Reg.AX_FAULT_STOPCAUSE a)
  if c = causeHost then axFld d (Reg.AX_STAT_STATE a) 1 else enterFaulted d a c

/-- The cause of a Faulted axis has gone (R123). -/
def causeGone (d : Die) (a : Nat) : Bool :=
  match fld d (Reg.AX_FAULT_CAUSE a) with
  | 0xA => !stoActive d a
  | 0x8 => !flag d Reg.BEAT_STAT_SHED_C
  | 0x6 => sext 24 (eff d (Reg.AX_VDC_MIN a)).toNat ≤ sext 24 (getReg d (Reg.AX_VDC a)).toNat
  | _ => true

/-- The cause with which an Enabled axis enters Stopping, in the order of R123. -/
def stopCauseOf (d : Die) (a : Nat) : Option Nat :=
  let c := (axH d a).conds
  if c.engine then some 3
  else if c.eovf then some 4
  else if c.perr then some 1
  else if c.ovspd then some 2
  else if c.lag then some 0xB
  else if c.shed then some 8
  else if (axH d a).ss1 then some 9
  else if effFld d (Reg.AX_CTL_REQ a) = 0 then some causeHost
  else none

/-- The evaluation of an axis's state (R123): the first row whose condition holds (R15). Of OVC and UV together OVC is the cause
(log entry 168). -/
def evalAxis (d : Die) (a : Nat) : Die :=
  let h := axH d a
  let st := axState d a
  let active : Bool := st == 2 || st == 3
  let d :=
    if st ≠ 0 && h.removed then
      let d := if active then axFld d (Reg.AX_FAULT_CAUSE a) 7 else d
      clearReq (axFld d (Reg.AX_STAT_STATE a) 0) a
    else if active && stoActive d a then enterFaulted d a 0xA
    else if active && h.conds.ovc then enterFaulted d a 5
    else if active && h.conds.uv then enterFaulted d a 6
    else if st = 3 && h.conds.engine then enterFaulted d a 3
    else if st = 3 then (if stopOver d a then endStop d a else d)
    else if st = 2 then
      (match stopCauseOf d a with
       | some c => enterStopping d a c
       | none => d)
    else if st = 1 then
      (if effFld d (Reg.AX_CTL_REQ a) = 1 && !stoActive d a && !h.ss1 then enterEnabled d a else d)
    else if st = 4 then
      (if !h.clr then d
       else if causeGone d a then axFld d (Reg.AX_STAT_STATE a) 1
       else axCount (axEvent d (Reg.AX_STAT_CLRREJ a)) (Reg.AX_CNT_CLRREJ a))
    else if st = 0 && h.admitted then clearReq (axFld d (Reg.AX_STAT_STATE a) 1) a
    else d
  updAx d a fun h => { h with conds := conds0, clr := false, removed := false }

/-- Zero torque, or zero-voltage duty (R42). -/
def zeroOut (d : Die) (a : Nat) : AxOut :=
  if flag d (Reg.AX_CFG_THIN a) then { axOut0 with da := 0x8000, db := 0x8000, dc := 0x8000, enable := true }
  else { axOut0 with enable := true }

/-- The output latched at OPH (R41, R42, R119, R120). `was` tells whether the axis computed in the beat. -/
def latchOut (d : Die) (a : Nat) (was : Bool) : Die :=
  if !computing d a then updAx d a fun h => { h with out := axOut0 }
  else if !was then updAx d a fun h => { h with out := zeroOut d a }
  else if (axH d a).fresh then
    let ab := (getReg d (Reg.AX_DUTY_AB a)).toNat
    let c := (getReg d (Reg.AX_DUTY_C a)).toNat
    updAx d a fun h =>
      { h with out := { tq := (getReg d (Reg.AX_TQOUT a)).toNat % 2 ^ 24, da := ab % 65536, db := ab / 65536,
                        dc := c % 65536, enable := true, gate := bitOf c 16, stale := false } }
  else updAx d a fun h => { h with out := { h.out with stale := true } }

/-- An axis whose output was latched fresh and whose ADAPT task is released: a tracker only with TRK_EN = 1 and
OFF = 0 (R113, R156). -/
def adapts (d : Die) (a : Nat) : Bool :=
  match findDesc d 3 a with
  | none => false
  | some i =>
    sget 0 d.knl.vendor i != 1 || (flag d (Reg.AX_CFG_TRK_EN a) && !flag d (Reg.AX_TRK_STAT_OFF a))

/-- AX_TRK_STAT.HOLD and DETECT for the beat that OPH ends (R117): an axis with TRK_EN = 1 that was not Enabled in it, was
limited or slow holds, and a beat in which the tracker does not run is no detecting beat. -/
def markHold (d : Die) (was fresh : List Nat) (a : Nat) : Die :=
  if !flag d (Reg.AX_CFG_TRK_EN a) then d else
  let hold : Bool := !was.contains a || axState d a != 2 || (stg d a).limBeat == some d.tb.k ||
    decide ((effI64 d (Reg.AX_VFB a)).natAbs < effN d (Reg.AX_TRK_VMIN a) * 65536)
  let d := axFld d (Reg.AX_TRK_STAT_HOLD a) (b2n hold)
  if hold || !fresh.contains a then axFld d (Reg.AX_TRK_STAT_DETECT a) 0 else d

/-- The beat sequencer posts events: not in Doze, nor until the exit from it has ended (R386, R387). -/
def posting (d : Die) : Bool := (fld d Reg.PWR_STAT_MODE == 0 && !d.pwr.mute) || fld d Reg.PWR_STAT_MODE == 2

/-- A step of GT that waits becomes a slew when an axis is Enabled before it is made (R21, R22, R272): trunk time is
approached at no more than 200 ppm. -/
def slewInstead (d : Die) : Die :=
  if d.tb.step.isNone || !anyMoving d then d else
  let d := updTb d fun t => { t with step := none }
  if fld d Reg.CTR_STAT_STATE ≠ 3 then d else
  let trim := clampI d.trk.trim (-858993) 858993
  updTb (setFlag (updTrk d fun t => { t with trim := trim }) Reg.BEAT_STAT_SLEW) fun t => { t with trim := trim }

/-- OUTPUT_PHASE (R41, R45 to R47, R120, R162). A halted supervisor core does not evaluate shedding (R412). -/
def outputPhase (d : Die) : Die :=
  if !running d || d.tb.phase ≠ 1 then d else
  let d := toGt d (ophGt d)
  let axes := declAxes d
  let kill := ophKill d
  let d := axes.foldl markStale (markOverrun kill.1)
  let ab := if halted d 17 then (d, [], []) else shedAB d
  let d := axes.foldl countStill (if halted d 17 then d else shedC ab.1)
  let was := axes.filter (computing d)
  let enabled := axes.filter fun a => axState d a == 2
  let d := slewInstead (axes.foldl evalAxis d)
  let d := axes.foldl (fun d a => latchOut d a (was.contains a)) d
  let fresh := axes.filter fun a => computing d a && was.contains a && (axH d a).fresh && adapts d a
  let d := axes.foldl (fun d a => markHold d enabled fresh a) d
  let d := recordPhase d (kill.2.1 ++ ab.2.1)
  let d := resumeEvts (kill.2.2.foldl resumeAborted d) ab.2.2
  let d := if posting d then noteBlocked (kpost d 0 (.oph d.tb.k fresh)).1 else d
  updTb d fun t => { t with phase := 2 }

/-- The suspension ends at OPH of its last beat (R45, R46): what is left to do after the output phase. -/
def suspensionEnd (d : Die) : Die :=
  if running d && d.tb.phase == 2 && (d.tb.endA.any (· ≤ d.tb.k) || d.tb.endB.any (· ≤ d.tb.k)) then
    let d := endShed d
    let r := setSuspended (putShed d) (suspMask d)
    resumeEvts (recordPhase r.1 r.2.1) r.2.2
  else d

/-- An action of the supervisor port on the axis records, in its place among the writes of its cycle (R58). -/
def bySupervisor (f : Die → Die) (d : Die) : Die :=
  let d' := f d
  axSettle 6 d'.tb.cyc d d'

/-- INPUT_DEADLINE (R34). -/
def execInputDeadline (s : State) : Host.Outcome State Fault Refusal := onDie (bySupervisor inputDeadline) s

/-- OUTPUT_PHASE (R41). -/
def execOutputPhase (s : State) : Host.Outcome State Fault Refusal := onDie (bySupervisor outputPhase) s

/-- SHED_SUSPENSION_END (R45): the output phase has normally made this change; it is made here where it is due. -/
def execShedSuspensionEnd (s : State) : Host.Outcome State Fault Refusal := onDie suspensionEnd s

/-- STOP_END (R121, R123): the end of a stop at the evaluation of the output phase, made here where it is due. -/
def execStopEnd (a : Fin 128) (s : State) : Host.Outcome State Fault Refusal :=
  onDie (bySupervisor fun d =>
    if axDecl d a.val && axState d a.val == 3 && d.tb.phase == 2 && stopOver d a.val then
      updAx (endStop d a.val) a.val fun h => { h with out := axOut0 }
    else d) s

end Sys2Proof.Machine
end

