-- ==== Sys2Proof/Machine/Capture.lean ====
section
/-! DEFINITION. The capture engine (R167 to R191): mark inputs, triggers, channel states, windows, latched positions,
measurements, group decoding, register correction, analysis and release. -/

namespace Sys2Proof.Machine

/-- Parts of a stored sample: its code, whether the input was flooded, the baseline bi (R168, R184). -/
def smpCode (x : Nat) : Nat := x % 4096

/-- See `smpCode`. -/
def smpFlood (x : Nat) : Bool := bitOf x 12

/-- See `smpCode`. -/
def smpBi (x : Nat) : Nat := x / 8192

/-- The ADC code of an input voltage in microvolts (R167). -/
def adcCode (gainCode uv : Nat) : Nat := min (uv * 2 ^ gainCode * 4096 / 10000000) 4095

/-- The baseline after a sample (R168), in units of 2^-16. -/
def baseNext (b x bsh : Nat) : Nat := ((b : Int) + ((x * 65536 : Nat) - (b : Int)) / (2 ^ bsh : Nat)).toNat

/-- bi (R168). -/
def baseBi (b : Nat) : Nat := (rhu b 65536).toNat

/-- The mark signal y of a sample (R168). -/
def markY (pol : Bool) (x bi : Nat) : Int := if pol then (bi : Int) - x else (x : Int) - bi

/-- A flooding cause is active (R169): its test holds, or its hold-over has not run out. -/
def causeActive (m : MarkIn) (gt c : Nat) : Bool := vget false m.test c || gt < vget 0 m.hold c

/-- A flooding test's new outcome (R169): FHOLD ms run from the instant it stops holding. -/
def putTest (m : MarkIn) (gt fhold c : Nat) (b : Bool) : MarkIn :=
  if vget false m.test c && !b then
    { m with test := vset m.test c b, hold := vset m.hold c (gt + fhold * 1000000) }
  else { m with test := vset m.test c b }

/-- Live and sticky bits of CAP_MK_n_STAT (R169). -/
def putFlood (d : Die) (n : Nat) : Die :=
  let m := markH d n
  let r := getReg d (Reg.CAP_MK_STAT n)
  let live := (upto 3).foldl (fun x c => if causeActive m d.tb.gt c then setBit x c else x) 0
  putReg d (Reg.CAP_MK_STAT n) (BitVec.ofNat 32 (live + ((r.toNat / 16 % 8) ||| live) * 16))

/-- The input is flooded (R169). -/
def flooded (d : Die) (n : Nat) : Bool := (upto 3).any (causeActive (markH d n) d.tb.gt)

/-- max - min of the recorded baselines (R169). -/
def ripple (l : List Nat) : Nat := l.foldl max 0 - l.foldl min (l.headD 0)

/-- The baselines are recorded for the ripple test (R169). -/
def rippleRecord (d : Die) : Die :=
  if !d.cap.ripDue then d else
  let d := updCap d fun c => { c with ripDue := false }
  (upto 8).foldl (fun d n =>
    if !powered d (59 + n) then d else
    let m := markH d n
    let rip := (baseBi m.base :: m.rip).take 250
    let tol := fld d (Reg.CAP_MK_FLD_RTOL n)
    let hit : Bool := tol != 0 && tol < ripple rip
    let d := updMark d n fun m => putTest { m with rip := rip } d.tb.gt (fld d (Reg.CAP_MK_FLD_FHOLD n)) 2 hit
    putFlood (setFld d (Reg.CAP_MK_BASE_RIPPLE n) (ripple rip)) n) d

/-- One input takes sample `i` (R167 to R170). -/
def inputSample (d : Die) (n uv i : Nat) : Die :=
  if !powered d (59 + n) then d else
  let m := markH d n
  let x := adcCode (fld d (Reg.CAP_MK_CFG_GAIN n)) uv
  let b := baseNext m.base x (fld d (Reg.CAP_MK_CFG_BSH n))
  let bi := baseBi b
  let last := (x :: m.hist.map fun y => smpCode y.2).take 16
  let satT : Bool := last.length == 16 && (last.all (· == 0) || last.all (· == 4095))
  let btol := fld d (Reg.CAP_MK_FLD_BTOL n)
  let shiftT : Bool := btol != 0 && btol < ((bi : Int) - fld d (Reg.CAP_MK_FLD_BNOM n)).natAbs
  let fh := fld d (Reg.CAP_MK_FLD_FHOLD n)
  let d := updMark d n fun m => putTest (putTest { m with base := b } d.tb.gt fh 0 satT) d.tb.gt fh 1 shiftT
  let e := x + 4096 * b2n (flooded d n) + 8192 * bi
  let d := updMark d n fun m => { m with hist := (((i : Int), e) :: m.hist).take 2048 }
  putFlood (setFld d (Reg.CAP_MK_BASE_BI n) bi) n

/-- State of a channel: 0 IDLE, 1 ARMED, 2 ACQUIRE, 3 STOPPED. -/
def chState (d : Die) (c : Nat) : Nat := fld d (Reg.CAP_CH_STAT_STATE c)

/-- Set the state of a channel. -/
def setCh (d : Die) (c st : Nat) : Die := setFld d (Reg.CAP_CH_STAT_STATE c) st

/-- Samples of the history from index i0 on, oldest first, at most `want`; an index without a sample has a free value (log
entry 16). `next` is the index after the newest. -/
def fromHist (d : Die) (hist : List (Int × Nat)) (next : Nat) (i0 : Int) (want : Nat) : List Nat × Die :=
  let n := min want ((next : Int) - i0).toNat
  (upto n).foldl (fun (r : List Nat × Die) j =>
    match hist.find? fun x => x.1 == i0 + j with
    | some x => (r.1 ++ [x.2], r.2)
    | none => let v := draw r.2; (r.1 ++ [v.1.toNat % 4096], v.2)) ([], d)

/-- The slot of the next record is free (R178, R180, R189): every record from FREESEQ on that lies in it is released. -/
def slotFree (d : Die) (c : Nat) : Bool :=
  let wr := fld d (Reg.CAP_CH_WRSEQ_SEQ c)
  let fr := fld d (Reg.CAP_CH_FREESEQ_SEQ c)
  let n := (getReg d (Reg.CAP_CH_NSLOT c)).toNat
  n != 0 && (upto ((wr + 2 ^ 28 - fr) % 2 ^ 28)).all fun j =>
    let q := (fr + j) % 2 ^ 28
    q % n != wr % n || (chanH d c).freed.contains q

/-- A trigger passes the gate (R177). -/
def gateOk (d : Die) (c : Nat) : Bool :=
  let p := (chanH d c).edgePos % ((getReg d (Reg.CAP_CH_RPT c)).toNat : Int)
  !flag d (Reg.CAP_CH_REF_GATE_EN c) ||
    decide (((getReg d (Reg.CAP_CH_GLO c)).toNat : Int) ≤ p ∧ p < ((getReg d (Reg.CAP_CH_GHI c)).toNat : Int))

/-- Window sizes. -/
def winPre (d : Die) (c : Nat) : Nat := fld d (Reg.CAP_CH_WIN_PRE c)

/-- See `winPre`. -/
def winPost (d : Die) (c : Nat) : Nat := fld d (Reg.CAP_CH_WIN_POST c)

/-- The live level of an XT line (R172, R401): low while this part or another pulls it. -/
def xtLevel (d : Die) (l : Nat) : Bool :=
  (match vget none d.cap.xtPull l with
    | some e => decide (e ≤ d.tb.gt)
    | none => true) && vget 0 d.cap.xtLow l ≤ d.tb.gt

/-- What the part does to an XT ball, open drain (R172, R401, R411). -/
def xtBall (d : Die) (l : Nat) : Option Bool :=
  scanBall d (142 + l) (match vget none d.cap.xtPull l with
    | some e => if d.tb.gt < e then some false else none
    | none => none)

/-- The level of an XT line that counts at instant `t` is low (R171, R172): the line has been low, and high for less than
8 ns since. -/
def xtCounts (d : Die) (l t : Nat) : Bool := vget 0 d.cap.xtCnt l != 0 && t < vget 0 d.cap.xtCnt l + 8

/-- The live levels of the XT lines (CAP_XT). -/
def xtLevels (d : Die) : Nat := (upto 4).foldl (fun x l => if xtLevel d l then setBit x l else x) 0

/-- A trigger is queued for the trunk (R277): one that finds 16 entries is counted and dropped. -/
def ttPost (d : Die) (n t : Nat) : Die :=
  if 16 ≤ d.cap.ttQueue.length then incReg d (Reg.CTR_CNT 8)
  else updCap d fun k => { k with ttQueue := k.ttQueue ++ [(n, t)] }

/-- What an accepted trigger sends (R172, R173): the pull of an XT line for 100 ns from its instant, and the trunk trigger.
A pull from an instant in the past is over the earlier (log entry 144). -/
def sendTrigger (d : Die) (c tTrig : Nat) : Die :=
  let d := if flag d (Reg.CAP_CH_SRC_XTOUT c) then
      let l := fld d (Reg.CAP_CH_SRC_XTOSEL c)
      updCap d fun k =>
        { k with xtPull := vset k.xtPull l (some (max (tTrig + 100) ((vget none k.xtPull l).getD 0))),
                 xtCnt := vset k.xtCnt l (max (tTrig + 100) (vget 0 k.xtCnt l)) }
    else d
  if flag d (Reg.CAP_CH_SRC_TTOUT c) then ttPost d (fld d (Reg.CAP_CH_SRC_TTOSEL c)) tTrig else d

/-- A sample index is the last window sample of a channel or lies within HOLDOFF samples after it (R178): with the last window
sample the channel was still in ACQUIRE. -/
def inHoldoff (d : Die) (c it : Nat) : Bool :=
  match (chanH d c).last with
  | none => false
  | some x => decide (x ≤ it) && decide ((it : Int) ≤ x + fld d (Reg.CAP_CH_RECLEN_HOLDOFF c))

/-- A trigger reaches one channel: instant, trigger sample (R172, R173, R176 to R178). One that is accepted and finds no free
slot is sent on like any other (log entry 142). -/
def triggerChan (d : Die) (c tTrig it : Nat) : Die :=
  let st := chState d c
  if gateOk d c = false then d
  else if st = 2 ∨ (st = 1 ∧ inHoldoff d c it) then incReg d (Reg.CAP_CH_CNT_IGN c)
  else if st ≠ 1 then d
  else if !slotFree d c then
    let d := setFld (setCh d c 3) (Reg.CAP_CH_STAT_OVF c) 1
    sendTrigger (put64 d (Reg.CAP_CH_OVF_GT c) tTrig) c tTrig
  else
    let seq := fld d (Reg.CAP_CH_WRSEQ_SEQ c)
    let mk := fld d (Reg.CAP_CH_SRC_MKSEL c)
    let i0 : Int := (it : Int) - winPre d c
    let want := winPre d c + winPost d c
    let r := fromHist d (markH d mk).hist d.cap.next i0 want
    let d := setFld (setCh r.2 c 2) (Reg.CAP_CH_WRSEQ_SEQ c) (seq + 1)
    let d := updChan d c fun h =>
      { h with acq := some { seq := seq, tTrig := tTrig, i0 := i0, want := want, samples := r.1,
                             afterOvf := h.afterOvf, due := 0, dueBeat := 0, nextI := i0 + r.1.length, beats := 0,
                             first := h.fresh },
               afterOvf := false, fresh := false }
    sendTrigger d c tTrig

/-- The GT of the first sample of a 500 MHz input at or after an instant (R171): the even nanoseconds of GT (log entry
143). -/
def pinStamp (t : Nat) : Nat := 2 * cdiv t 2

/-- The channels that a line's falling edge triggers (R172, R174). -/
def xtChans (d : Die) (l : Nat) : List Nat :=
  (upto 16).filter fun c => fld d (Reg.CAP_CH_SRC_TSRC c) == 3 && fld d (Reg.CAP_CH_SRC_TSEL c) == l

/-- A part receives its own XT pulses (R172): each line whose counted level at `t` was high in `old` and is low now triggers
its channels, which may pull further lines; a line falls once, so four rounds are enough. -/
def ownPulses : Nat → Die → Nat → Die → Die
  | 0, _, _, d => d
  | n + 1, old, t, d =>
    let fallen := (upto 4).filter fun l => !xtCounts old l t && xtCounts d l t
    if fallen.isEmpty then d else
    ownPulses n d t (forEach fallen d fun d l =>
      forEach (xtChans d l) d fun d c => triggerChan d c (pinStamp t) (cdiv (pinStamp t) 50))

/-- A trigger reaches a channel, and the pulse it makes on an XT line the channels of that line (R172). -/
def trigger (d : Die) (c tTrig it : Nat) : Die := ownPulses 4 d tTrig (triggerChan d c tTrig it)

/-- A digital trigger input takes a level from an instant on for `stable` ns (R171, R174): it counts once it has been
stable for 8 ns, with the stamp of its first sample. A shorter one, and the level that counts already, change nothing. -/
def trgEdge (d : Die) (n : Nat) (rising : Bool) (t stable : Nat) : Die :=
  if stable < 8 ∨ bitOf d.cap.trg n = rising then d else
  let at_ := pinStamp t
  let d := toGt d (at_ + 8)
  let d := updCap d fun k => { k with trg := if rising then setBit k.trg n else clrBit k.trg n }
  (upto 16).foldl (fun d c =>
    if fld d (Reg.CAP_CH_SRC_TSRC c) == 2 && fld d (Reg.CAP_CH_SRC_TSEL c) == n &&
        bitOf (fld d (Reg.CAP_CH_SRC_EDGE c)) (if rising then 0 else 1) then trigger d c at_ (cdiv at_ 50)
    else d) d

/-- Another part holds a line low up to an instant; `cnt`: the filter counts it (R172). -/
def xtHold (d : Die) (l t : Nat) (cnt : Bool) : Die :=
  updCap d fun k => { k with xtLow := vset k.xtLow l (max (vget 0 k.xtLow l) t),
                             xtCnt := if cnt then vset k.xtCnt l (max (vget 0 k.xtCnt l) t) else k.xtCnt }

/-- Another part pulls a cross-trigger line low from an instant on for `stable` ns (R172): filtered and stamped as a
trigger input. A line whose counted level is low at that instant has no edge, and stays low. -/
def xtFall (d : Die) (l t stable : Nat) : Die :=
  let at_ := pinStamp t
  if xtCounts d l t then xtHold d l (t + stable) true
  else if stable < 8 then xtHold d l (t + stable) false
  else forEach (xtChans d l) (xtHold (toGt d (at_ + 8)) l (t + stable) true) fun d c => trigger d c at_ (cdiv at_ 50)

/-- The index of the oldest sample that an input's history holds (R170); with none, of the next sample. -/
def oldestSample (d : Die) (n : Nat) : Int :=
  match (markH d n).hist.getLast? with
  | some x => x.1
  | none => (d.cap.next : Int)

/-- A trunk trigger arrives with its origin GT (R173): discarded and counted where its window is older than the history,
whatever the gate says (log entry 143). -/
def ttArrive (d : Die) (n t : Nat) : Die :=
  (upto 16).foldl (fun d c =>
    if fld d (Reg.CAP_CH_SRC_TSRC c) == 4 && fld d (Reg.CAP_CH_SRC_TSEL c) == n then
      let it := cdiv t 50
      let i0 : Int := (it : Int) - winPre d c
      if i0 < oldestSample d (fld d (Reg.CAP_CH_SRC_MKSEL c)) then incReg d (Reg.CAP_CH_CNT_TLATE c) else trigger d c t it
    else d) d

/-- Software triggers (R174). -/
def swTrigger (d : Die) (mask t : Nat) : Die :=
  (upto 16).foldl (fun d c => if bitOf mask c then trigger d c t (cdiv t 50) else d) d

/-- A mark crossing triggers its channel (R174, R175). -/
def crossing (d : Die) (c : Nat) : Die :=
  match (chanH d c).cross with
  | none => d
  | some i => trigger (updChan d c fun h => { h with cross := none }) c (50 * i) i

/-- The sample just taken, index i, reaches a channel: its window, and the crossing test (R175, R176). -/
def chanSample (d : Die) (c i : Nat) : Die :=
  let mk := fld d (Reg.CAP_CH_SRC_MKSEL c)
  match (markH d mk).hist.head? with
  | none => d
  | some x =>
    let d := updChan d c fun h =>
      { h with acq := h.acq.map fun a =>
          if a.samples.length < a.want ∧ a.nextI = (i : Int) then
            { a with samples := a.samples ++ [x.2], nextI := a.nextI + 1 } else a }
    let y := markY (flag d (Reg.CAP_MK_CFG_POL mk)) (smpCode x.2) (smpBi x.2)
    let thr : Int := (fld d (Reg.CAP_MK_CFG_THR mk) : Nat)
    let hys : Int := (fld d (Reg.CAP_MK_CFG_HYS mk) : Nat)
    if thr ≤ y then
      updChan d c fun h =>
        { h with below := false,
                 cross := if h.below && fld d (Reg.CAP_CH_SRC_TSRC c) == 1 && flag d (Reg.CAP_CH_SRC_DECL c)
                   then some i else h.cross }
    else if y < thr - hys then updChan d c fun h => { h with below := true }
    else d

/-- GT of frame close of a beat (R25). -/
def fclOf (d : Die) (k : Nat) : Nat := edgeGt (hz d) k + fld d Reg.BEAT_FCL_VALUE

/-- The last window sample is taken (R178, R182): the record waits for its completion. -/
def windowEnd (d : Die) (c : Nat) : Die :=
  match (chanH d c).acq with
  | none => d
  | some a =>
    if chState d c ≠ 2 ∨ a.samples.length < a.want then d else
    let last := (a.nextI - 1).toNat
    let a := { a with due := 50 * last + 300, dueBeat := beatAt (hz d) (50 * last) + 1 }
    let d := updChan d c fun h => { h with acq := none, pend := h.pend ++ [a], last := some last }
    setCh d c (if (chanH d c).single then 0 else 1)

/-- MARK_SAMPLE (R167): what is due from the sample before is done, its crossings before the windows that end with it (R178),
then all inputs sample. -/
def markSample (d : Die) (uv : Vector Nat 8) : Die :=
  if !powered d 67 then d else
  let d := rippleRecord d
  let d := (upto 16).foldl windowEnd ((upto 16).foldl crossing d)
  let i := max d.cap.next (cdiv d.tb.gt 50)
  let d := toGt d (50 * i)
  let d := updCap d fun k => { k with next := i + 1, ripDue := (i + 1) % 2000 == 0 }
  let d := (upto 8).foldl (fun d n => inputSample d n (vget 0 uv n) i) d
  (upto 16).foldl (fun d c => chanSample d c i) d

/-- The feedback of an axis accepted in a beat: position, velocity (R181). -/
def fbOf (d : Die) (a k : Nat) : Option (Int × Int) := ((axH d a).fb.find? fun x => x.1 == k).map (·.2)

/-- The homing offset applied to an axis at a beat edge (R148, R181). -/
def homedAt (d : Die) (a k : Nat) : Int := (gearH d a).homed.foldl (fun s x => if x.1 = k then s + x.2 else s) 0

/-- The position of an axis at an instant in units of 2^-8 ns (R181): position, EXTRAP, NOFB. `beats` is by how much GT
steps have moved the beats since the instant (log entry 141). -/
def posAt (d : Die) (beats : Int) (a : Nat) (t256 : Int) : Int × Bool × Bool :=
  let j := beatAt (hz d) (t256 / 256).toNat
  let e0 := edgeI d j * 256
  let e1 := edgeI d (j + 1) * 256
  let k := (j + beats).toNat
  let delta := homedAt d a (k + 1)
  match fbOf d a k, fbOf d a (k + 1) with
  | some x, some y =>
    let p := x.1 + delta
    (wrapS 64 (p + rhu (wrapS 64 (y.1 - p) * (t256 - e0)) (e1 - e0)), false, false)
  | some x, none => (wrapS 64 (x.1 + delta + rhu (x.2 * (t256 - e0)) (256 * giga)), true, false)
  | none, _ => (getI64 d (Reg.AX_PFB a), false, true)

/-- The measurements of a window (R183): ampl, NOMARK, EDGE, ctoff, width, area; width is none where no y reaches h. -/
def measure (wthr : Nat) (y : List Int) : Int × Bool × Bool × Int × Option Int × Int :=
  let n := y.length
  let at' (i : Nat) : Int := y.getD i 0
  let ampl := y.foldl imax (y.headD 0)
  let p := (y.findIdx? (· == ampl)).getD 0
  let h := ampl * wthr
  let w := y.map fun v => imax (256 * v - h) 0
  let sw := w.foldl (· + ·) 0
  let siw := ((upto n).zip w).foldl (fun s x => s + (x.1 : Int) * x.2) 0
  let ctoff := if sw = 0 then 0 else rhu (12800 * siw) sw
  let ge (i : Nat) : Bool := h ≤ 256 * at' i
  let r := p - ((upto p).reverse.takeWhile ge).length
  let f := p + ((y.drop (p + 1)).takeWhile fun v => h ≤ 256 * v).length
  let area := y.foldl (fun s v => s + imax v 0) 0
  let nomark : Bool := ampl ≤ 0 || sw == 0
  if !ge p then (ampl, nomark, false, ctoff, none, area)
  else if r = 0 ∨ f + 1 = n then (ampl, nomark, true, ctoff, some 0, area)
  else
    let rise : Rat := 50 * ((r : Rat) - 1) + 50 * ((h : Rat) / 256 - at' (r - 1)) / ((at' r - at' (r - 1) : Int) : Rat)
    let fall : Rat := 50 * (f : Rat) + 50 * ((at' f : Rat) - (h : Rat) / 256) / ((at' f - at' (f + 1) : Int) : Rat)
    (ampl, nomark, false, ctoff, some (rhuQ (256 * (fall - rise))), area)

/-- Outcomes of a record or group (R190). -/
def outNONE : Nat := 0

/-- What a group decode gives a record (R185, R186). -/
structure Decoded where
  d : Die
  code : Nat
  index : Nat
  outcome : Nat
  gstart : Bool
  first : Option Int

/-- A group ends (R185, R186): CAP_CH_c_LASTGRP, and CNT_GRPERR for PARTIAL and BADSPACE. -/
def groupEnd (d : Die) (c : Nat) (g : Group) (outcome : Nat) : Die :=
  let d := setFld (setFld (setFld d (Reg.CAP_CH_LASTGRP_CODE c) g.code) (Reg.CAP_CH_LASTGRP_MARKS c) g.marks)
    (Reg.CAP_CH_LASTGRP_OUTCOME c) outcome
  let d := if outcome = 3 ∨ outcome = 4 then incReg d (Reg.CAP_CH_CNT_GRPERR c) else d
  updChan d c fun h => { h with group := none }

/-- The first record after ARM completes (R183, R185): it has no record and no mark before it. A group still open from before
ARM ends PARTIAL (log entry 29). -/
def firstAfterArm (d : Die) (c : Nat) : Die :=
  let d := match (chanH d c).group with
    | some g => groupEnd d c g 3
    | none => d
  updChan d c fun h => { h with prevCt := none, lastPm := none }

/-- Group decoding of a record at pmark pm (units of 2^-16 counts); `good` is neither FLOOD nor NOMARK (R185, R186). -/
def decodeGroup (d : Die) (c : Nat) (good : Bool) (pm : Int) : Decoded :=
  let h := chanH d c
  if !good then
    match h.group with
    | some g => { d := groupEnd d c g 3, code := 0, index := 0, outcome := 3, gstart := false, first := none }
    | none => { d := d, code := 0, index := 0, outcome := 0, gstart := false, first := none }
  else
    let cnt (off : Nat) : Int := ((getReg d off).toNat : Int)
    let unit := cnt (Reg.CAP_CH_UNIT c)
    let tol := cnt (Reg.CAP_CH_TOL c)
    let nmark := fld d (Reg.CAP_CH_GRPCFG_NMARK c)
    let pmc := pm / 65536
    let prev := h.lastPm
    let d := updChan d c fun h => { h with lastPm := some pmc }
    let dist : Int := ((pmc - prev.getD 0).natAbs : Int)
    if prev.isNone || cnt (Reg.CAP_CH_GAPMIN c) < dist || nmark == 1 then
      let d := match h.group with
        | some g => groupEnd d c g 3
        | none => d
      let g : Group := { first := pm, last := pmc, marks := 1, code := 0 }
      if nmark = 1 then
        { d := groupEnd d c g 2, code := 0, index := 0, outcome := 2, gstart := true, first := some pm }
      else
        { d := updChan d c fun h => { h with group := some g }, code := 0, index := 0, outcome := 1, gstart := true,
          first := none }
    else
      match h.group with
      | none => { d := d, code := 0, index := 0, outcome := 0, gstart := false, first := none }
      | some g =>
        let bit : Option Nat := if (dist - unit).natAbs ≤ tol.natAbs then some 0
          else if (dist - 2 * unit).natAbs ≤ tol.natAbs then some 1 else none
        match bit with
        | none =>
          let o := if 2 * unit + tol < dist then 3 else 4
          { d := groupEnd d c g o, code := g.code, index := 0, outcome := o, gstart := false, first := none }
        | some b =>
          let g' : Group := { g with last := pmc, marks := g.marks + 1, code := g.code + b * 2 ^ (g.marks - 1) }
          if g'.marks = nmark then
            { d := groupEnd d c g' 2, code := g'.code, index := g.marks, outcome := 2, gstart := false,
              first := some g.first }
          else
            { d := updChan d c fun h => { h with group := some g' }, code := g'.code, index := g.marks, outcome := 1,
              gstart := false, first := none }

/-- Register correction for a code at position pm (R187): the state, whether a trim was posted, whether an entry of the
map matched. -/
def correct (d : Die) (c code : Nat) (pm : Int) : Die × Bool × Bool :=
  match (upto 64).find? fun m => flag d (Reg.CAP_MAP_W0_VALID m) && fld d (Reg.CAP_MAP_W0_CH m) == c &&
      fld d (Reg.CAP_MAP_W0_CODE m) == code with
  | none => (d, false, false)
  | some m =>
    let rpt : Int := ((getReg d (Reg.CAP_CH_RPT c)).toNat : Int) * 65536
    let e := (pm - getI64 d (Reg.CAP_MAP_EXPECT m)) % rpt
    let e := if rpt < 2 * e then e - rpt else e
    if (getReg d (Reg.CAP_CH_DBAND c)).toNat * 65536 < e.natAbs then
      let g := sext 32 (getReg d (Reg.CAP_MAP_GNUM m)).toNat
      let d := postTrim d (fld d (Reg.CAP_MAP_W0_AXIS m)) (-(rhu (e * g) 65536))
      (incReg d (Reg.CAP_CH_CNT_CORR c), true, true)
    else (d, false, true)

/-- The record in ACQUIRE is discarded and its slot stays free (R178). -/
def discardAcq (d : Die) (c : Nat) : Die :=
  match (chanH d c).acq with
  | none => d
  | some a => updChan (setFld d (Reg.CAP_CH_WRSEQ_SEQ c) a.seq) c fun h => { h with acq := none }

/-- Store bytes in capture SRAM. -/
def sramPut (d : Die) (addr : Nat) (bs : List Byte) : Die :=
  let r := bs.foldl (fun (x : Nat × Sparse Byte) b => (x.1 + 1, sput 0 x.2 (x.1 % 2 ^ 21) b)) (addr, d.cap.sram)
  updCap d fun k => { k with sram := r.2 }

/-- The axes of a channel's mask, ascending (R180). -/
def maskAxes (d : Die) (c : Nat) : List Nat :=
  (upto 128).filter fun a => bitOf (getReg d (Reg.CAP_CH_AXMASK c (a / 32))).toNat (a % 32)

/-- A record completes (R182): positions, measurements, group, correction, analysis, header, DONESEQ, release. A negative peak
stands in AMPL modulo 2^12 (log entry 161). -/
def completeRecord (d : Die) (c : Nat) (a : Acq) : Die :=
  let mk := fld d (Reg.CAP_CH_SRC_MKSEL c)
  let pol := flag d (Reg.CAP_MK_CFG_POL mk)
  let bi := smpBi (a.samples.getD (winPre d c) 0)
  let tick := a.tTrig / 10 * 10
  let t0 : Int := 50 * a.i0
  let pos := (maskAxes d c).map fun x => posAt d a.beats x ((tick : Int) * 256)
  let y := a.samples.map fun x => markY pol (smpCode x) bi
  let m := measure (fld d (Reg.CAP_CH_GRPCFG_WTHR c)) y
  let nomark := m.2.1
  let ctoff := m.2.2.2.1
  let wfree := draw d
  let width : Int := m.2.2.2.2.1.getD (wfree.1.toNat : Int)
  let d := if m.2.2.2.2.1.isNone then wfree.2 else d
  let ct := t0 * 256 + ctoff
  let d := if a.first then firstAfterArm d c else d
  let prev := (chanH d c).prevCt
  let pm := posAt d a.beats (fld d (Reg.CAP_CH_REF_REFAX c)) ct
  let flood := a.samples.any smpFlood
  let d := updChan d c fun h => { h with prevCt := some ct }
  let good := !flood && !nomark
  let dec := flag d (Reg.CAP_CH_GRPCFG_DEC_EN c)
  let g : Decoded := if dec then decodeGroup d c good pm.1
    else { d := d, code := 0, index := 0, outcome := 0, gstart := false, first := if good then some pm.1 else none }
  let r : Die × Bool × Nat := match g.first with
    | none => (g.d, false, g.outcome)
    | some x => let k := correct g.d c g.code x; (k.1, k.2.1, if k.2.2 then g.outcome else 5)
  let d := if r.2.2 = 5 && dec then setFld r.1 (Reg.CAP_CH_LASTGRP_OUTCOME c) 5 else r.1
  let recNo := a.seq + 2 ^ 28 * c
  let aen := flag d (Reg.CAP_CH_SRC_AEN c)
  let p := if aen then kpost d 5 (.desc (fld d (Reg.CAP_CH_SRC_ADESC c)) recNo 0) else (d, true)
  let d := if p.2 then noteBlocked p.1 else p.1
  let d := if p.2 ∨ chState d c = 3 then d else
    setFld (discardAcq (setCh d c 3) c) (Reg.CAP_CH_STAT_OVF c) 2
  let satur := a.samples.any fun x => smpCode x == 0 || smpCode x == 4095
  let flags := b2n flood + 2 * b2n nomark + 4 * b2n m.2.2.1 + 8 * b2n prev.isNone +
    16 * b2n (pos.any (·.2.1) || pm.2.1) + 32 * b2n a.afterOvf + 64 * b2n r.2.1 + 128 * b2n g.gstart +
    256 * b2n satur + 512 * b2n (!p.2) + 1024 * b2n (pos.any (·.2.2) || pm.2.2)
  let len := fld d (Reg.CAP_CH_RECLEN_RECLEN c)
  let period : Int := match prev with
    | some q => ct - q
    | none => 0
  let hdr := leBytes 4 recNo ++ leBytes 4 flags ++ leBytes 8 (wrap 64 t0) ++ leBytes 8 tick ++
    leBytes 4 (wrap 32 ctoff) ++ leBytes 4 (wrap 32 width) ++
    leBytes 4 (wrap 12 m.1 + 2 ^ 12 * (bi % 4096) + 2 ^ 24 * pos.length) ++ leBytes 4 (wrap 32 m.2.2.2.2.2) ++
    leBytes 8 (wrap 64 period) ++ leBytes 8 (wrap 64 pm.1) ++
    leBytes 4 (g.code % 256 + 256 * (g.index % 8) + 2048 * r.2.2) ++ leBytes 4 len
  let body := pos.flatMap (fun x => leBytes 8 (wrap 64 x.1)) ++ (a.samples.take len).flatMap fun x => leBytes 2 (smpCode x)
  let slot := a.seq % max 1 (getReg d (Reg.CAP_CH_NSLOT c)).toNat
  let d := sramPut d ((getReg d (Reg.CAP_CH_BASE c)).toNat + slot * (getReg d (Reg.CAP_CH_SLOTSZ c)).toNat) (hdr ++ body)
  let d := if flood then setFlag d (Reg.CAP_CH_STAT_FLOODREC c) else d
  let d := incReg (setFld d (Reg.CAP_CH_DONESEQ_SEQ c) (a.seq + 1)) (Reg.CAP_CH_CNT_REC c)
  if flag d (Reg.CAP_CH_SRC_AUTOFREE c) && !aen then releaseSeq d c a.seq else d

/-- The oldest waiting record of a channel completes when it is due (R182): 300 ns after its last sample, and at
frame close of the beat after it. -/
def recordDue (d : Die) (c : Nat) : Die :=
  match (chanH d c).pend with
  | [] => d
  | a :: rest =>
    if running d && !(a.dueBeat < d.tb.k || (a.dueBeat == d.tb.k && d.tb.phase == 3)) then d else
    let d := toGt (toGt d a.due) (fclOf d a.dueBeat)
    completeRecord (updChan d c fun h => { h with pend := rest }) c a

/-- CTL.ARM (R178): from IDLE or STOPPED; an undeclared channel ignores it. The records that wait from before complete as
records of the last arming (R182, R183, R185). -/
def armChan (d : Die) (c : Nat) (single : Bool) : Die :=
  if !flag d (Reg.CAP_CH_SRC_DECL c) || !(chState d c == 0 || chState d c == 3) then d else
  let ovf : Bool := fld d (Reg.CAP_CH_STAT_OVF c) != 0
  updChan (setCh d c 1) c fun h =>
    { h with single := single, below := true, cross := none, afterOvf := ovf, fresh := true }

/-- CTL.DISARM (R178). -/
def disarmChan (d : Die) (c : Nat) : Die := setCh (discardAcq d c) c 0

/-- What a beat edge does to a channel: the gate's position, and the PARTIAL end of R186. -/
def captureEdge (d : Die) : Die :=
  (upto 16).foldl (fun d c =>
    if !flag d (Reg.CAP_CH_SRC_DECL c) then d else
    let p := getI64 d (Reg.AX_PFB (fld d (Reg.CAP_CH_REF_REFAX c))) / 65536
    let d := updChan d c fun h => { h with edgePos := p }
    match (chanH d c).group with
    | none => d
    | some g =>
      let far := 2 * (getReg d (Reg.CAP_CH_UNIT c)).toNat + (getReg d (Reg.CAP_CH_TOL c)).toNat
      if far < (p - g.last).natAbs then groupEnd d c g 3 else d) d

/-- MARK_SAMPLE (R167). -/
def execMarkSample (uv : Vector Nat 8) (s : State) : Host.Outcome State Fault Refusal := onDie (markSample · uv) s

/-- MARK_CROSSING (R175). -/
def execMarkCrossing (c : Fin 16) (s : State) : Host.Outcome State Fault Refusal :=
  onDie (fun d => if powered d 67 then crossing d c.val else d) s

/-- FLOOD_HOLD_EXPIRY (R169): FHOLD ms after its test stopped holding, a cause is no longer active. -/
def execFloodHoldExpiry (n : Fin 8) (cause : Fin 3) (s : State) : Host.Outcome State Fault Refusal :=
  onDie (fun d =>
    let m := markH d n.val
    if powered d (59 + n.val) && !vget false m.test cause.val && bitOf (getReg d (Reg.CAP_MK_STAT n.val)).toNat cause.val
    then putFlood (toGt d (vget 0 m.hold cause.val)) n.val else d) s

/-- RIPPLE_RECORD (R169). -/
def execRippleRecord (s : State) : Host.Outcome State Fault Refusal := onDie rippleRecord s

/-- TRIGGER_EDGE (R171). -/
def execTriggerEdge (n : Fin 16) (rising : Bool) (e : PinEdge) (s : State) : Host.Outcome State Fault Refusal :=
  onDie (fun d => if powered d 67 then trgEdge d n.val rising e.at_.toNat e.stable else d) s

/-- XT_EDGE (R172). -/
def execXtEdge (l : Fin 4) (e : PinEdge) (s : State) : Host.Outcome State Fault Refusal :=
  onDie (fun d => if powered d 67 then xtFall d l.val e.at_.toNat e.stable else d) s

/-- XT_PULSE_END (R172): the part releases the line at the end of its 100 ns. -/
def execXtPulseEnd (l : Fin 4) (s : State) : Host.Outcome State Fault Refusal :=
  onDie (fun d =>
    match vget none d.cap.xtPull l.val with
    | some e => updCap (toGt d e) fun k => { k with xtPull := vset k.xtPull l.val none }
    | none => d) s

/-- WINDOW_END (R178). -/
def execWindowEnd (c : Fin 16) (s : State) : Host.Outcome State Fault Refusal := onDie (windowEnd · c.val) s

/-- RECORD_COMPLETE (R182). -/
def execRecordComplete (c : Fin 16) (s : State) : Host.Outcome State Fault Refusal := onDie (recordDue · c.val) s

end Sys2Proof.Machine
end

