-- ==== Sys2Proof/Machine/StepGen.lean ====
section
/-! DEFINITION. The step generators (R192 to R202): rate multiplication, pulses, reversal, groups, the profile task,
homing and stops; and DONE, whose edge-bound vendor tasks are the virtual master and the group profiles. -/

namespace Sys2Proof.Machine

/-- Modes of a channel (R196): 0 OFF, 1 VEL, 2 GROUP, 3 HOMING. -/
def stpMode (d : Die) (n : Nat) : Nat := fld d (Reg.STP_MODE_MODE n)

/-- The domain of a channel's step block (R383). -/
def stpOn (d : Die) (n : Nat) : Bool := powered d (if n < 16 then 72 else 73)

/-- A velocity in steps/s as a word (R192): rhu(v × 2^48 / 10^8). -/
def stepWord (v : Rat) : Int := rhuQ (v * (2 ^ 48 : Nat) / 100000000)

/-- The velocity word of STP_n_VEL: 48 bits, signed. -/
def velWord (d : Die) (n : Nat) : Int := sext 48 (effN d (Reg.STP_VEL n) + 2 ^ 32 * effN d (Reg.STP_VEL n + 4))

/-- ACTIVE: the word in force is not 0. -/
def putActive (d : Die) (n : Nat) (b : Bool) : Die := putFlag d (Reg.STP_STAT_ACTIVE n) b

/-- A new word comes into force; a change of sign starts a reversal (R195), which a carry already made does not feel. -/
def applyWord (d : Die) (n : Nat) (w : Int) : Die :=
  let h := stpH d n
  let d := putActive d n (w != 0)
  if w ≠ 0 ∧ decide (0 < w) ≠ h.lastPos then
    updStp d n fun h => { h with word := w, lastPos := decide (0 < w), acc := 0, rev := .low }
  else updStp d n fun h => { h with word := w }

/-- STEP_CARRY (R192, R193): a carry schedules the rise of STEP 2 clocks after its clock. -/
def fireCarry (d : Die) (n : Nat) : Die :=
  if (stpH d n).carryDue then updStp d n fun h => { h with carryDue := false, rise := some 2 } else d

/-- STEP_PULSE_END (R193): STEP falls after PW clocks. -/
def firePulseEnd (d : Die) (n : Nat) : Die :=
  if (stpH d n).step && (stpH d n).high == 0 then updStp d n fun h => { h with step := false, lowFor := 0 } else d

/-- DIR_CHANGE (R195): DIR changes once STEP has been low for 10 clocks, with no pulse to come. -/
def fireDir (d : Die) (n : Nat) : Die :=
  let h := stpH d n
  if h.rev = .low ∧ h.step = false ∧ h.rise = none ∧ h.carryDue = false ∧ 10 ≤ h.lowFor then
    let d := putFlag d (Reg.STP_STAT_DIR n) (!h.lastPos)
    updStp d n fun h => { h with rev := .setup (fld d (Reg.STP_CFG_DSU n)) }
  else d

/-- ACCUMULATION_RESUME (R195). -/
def fireResume (d : Die) (n : Nat) : Die :=
  if (stpH d n).rev = .setup 0 then updStp d n fun h => { h with rev := .none } else d

/-- STEP rises (R193): POS follows DIR, and homing counts the step (R200). -/
def stepRise (d : Die) (n : Nat) : Die :=
  let back := flag d (Reg.STP_STAT_DIR n)
  let d := putI64 d (Reg.STP_POS n) (getI64 d (Reg.STP_POS n) + (if back then -1 else 1))
  updStp d n fun h =>
    { h with rise := none, step := true, high := fld d (Reg.STP_CFG_PW n),
             hmSteps := h.hmSteps + 1, hmBack := h.hmBack.map (· + 1) }

/-- The part drives its STEP and DIR balls (R401): a Parcel is loaded, and the part is neither in reset nor in Doze. -/
def ballsDriven (d : Die) : Bool :=
  d.pwr.up && !d.inReset && d.boot.loaded && fld d Reg.PWR_STAT_MODE % 2 == 0

/-- The level of a channel's STEP ball (R193, R196, R401, R411): inactive while the channel is undeclared or OFF, none while the
ball floats. -/
def stepBall (d : Die) (n : Nat) : Option Bool :=
  scanBall d (33 + n) (if !ballsDriven d then none
    else some ((flag d (Reg.STP_CFG_DECL n) && stpMode d n != 0 && (stpH d n).step) != flag d (Reg.STP_CFG_STEPINV n)))

/-- The level of its DIR ball (R193, R196, R401, R411). -/
def dirBall (d : Die) (n : Nat) : Option Bool :=
  scanBall d (65 + n) (if !ballsDriven d then none
    else some ((flag d (Reg.STP_CFG_DECL n) && stpMode d n != 0 && flag d (Reg.STP_STAT_DIR n)) != flag d (Reg.STP_CFG_DIRINV n)))

/-- One clock of a channel's pulse output and accumulator (R192, R193, R195). -/
def chanClock (d : Die) (n : Nat) : Die :=
  let d := if (stpH d n).velDue then
      applyWord (updStp d n fun h => { h with velDue := false }) n (if stpMode d n = 1 then velWord d n else 0)
    else d
  let d := updStp d n fun h =>
    { h with high := if h.step then h.high - 1 else h.high, lowFor := if h.step then 0 else min 10 (h.lowFor + 1),
             rev := match h.rev with
               | .setup (k + 1) => .setup k
               | r => r }
  let d := match (stpH d n).rise with
    | some 1 => stepRise d n
    | some (k + 1) => updStp d n fun h => { h with rise := some k }
    | _ => d
  let h := stpH d n
  if stpMode d n = 2 ∨ stpMode d n = 0 ∨ (h.rev ≠ .none ∧ h.rev ≠ .setup 0) then d else
  let x := h.acc + h.word.natAbs
  updStp d n fun h => { h with acc := x % 2 ^ 48, carryDue := h.carryDue || 2 ^ 48 ≤ x }

/-- The members of a group, ascending. -/
def grpMembers (d : Die) (g : Nat) : List Nat := (upto 32).filter fun n => bitOf (getReg d (Reg.STP_GRP_MEM g)).toNat n

/-- One clock of a group's lead accumulator (R198); it waits while a member reverses. -/
def leadClock (d : Die) (g : Nat) : Die :=
  let h := grpH d g
  if !h.moving || (grpMembers d g).any (fun n => (stpH d n).rev != .none && (stpH d n).rev != .setup 0) then d else
  let x := h.acc + h.word
  updGrp d g fun h => { h with acc := x % 2 ^ 48, carryDue := h.carryDue || 2 ^ 48 ≤ x }

/-- A group's move is over: the lead stops and the command completes (R198, R201). -/
def moveEnd (d : Die) (g status : Nat) : Die :=
  let h := grpH d g
  let d := complete d h.ticket status h.made 0
  let d := setFld (putReg d (Reg.STP_GRP_LEFT g) 0) (Reg.STP_GRP_STAT_MOVING g) 0
  let d := updGrp d g fun h => { h with moving := false, word := 0, acc := 0, next := none, v := 0, ticket := 0,
                                        carryDue := false, atEdge := false }
  (grpMembers d g).foldl (fun d n => putActive d n false) d

/-- LEAD_CARRY (R198): each member's counter advances, and the N-th carry ends the move. -/
def fireLead (d : Die) (g : Nat) : Die :=
  let h := grpH d g
  if !h.carryDue then d else
  let made := h.made + 1
  let q := h.d.map fun x =>
    let old := ((h.q.find? fun y => y.1 == x.1).map (·.2)).getD 0
    (x.1, old + x.2.natAbs)
  let d := (q.filter fun x => h.n ≤ x.2).foldl (fun d x => updStp d x.1 fun c => { c with rise := some 2 }) d
  let d := updGrp d g fun h =>
    { h with carryDue := false, made := made, q := q.map fun x => (x.1, if h.n ≤ x.2 then x.2 - h.n else x.2) }
  let d := putReg d (Reg.STP_GRP_LEFT g) (BitVec.ofNat 32 (h.n - made))
  if h.n ≤ made then moveEnd d g 0 else d

/-- A channel stops at once (R201, R202): its velocity word is 0, and a word written before the stop never takes effect. `moving` tells whether the
word in force was not 0. -/
def chanStop (d : Die) (n : Nat) (moving : Bool) : Die :=
  let d := setFlag d (Reg.STP_STAT_STOPPED n)
  let d := if moving then setFlag d (Reg.STP_STAT_UNSURE n) else d
  let d := putActive (hwPut64 d (Reg.STP_VEL n) 0) n false
  updStp d n fun h =>
    { h with word := 0, acc := 0, rise := none, carryDue := false, velDue := false, edgeDue := false }

/-- Homing ends (R200): back to VEL mode with a zero word, or to GROUP mode. -/
def stepHomeEnd (d : Die) (n status outcome : Nat) : Die :=
  let t := (stpH d n).hmTicket
  let d := complete d t status outcome 0
  let d := setFld d (Reg.STP_STAT_HM_STATE n) 0
  let d := if flag d (Reg.STP_CFG_GRPMEM n) then setFld d (Reg.STP_MODE_MODE n) 2
    else hwPut64 (setFld d (Reg.STP_MODE_MODE n) 1) (Reg.STP_VEL n) 0
  let d := putActive d n false
  updStp d n fun h => { h with hmState := 0, hmTicket := 0, hmSteps := 0, hmBack := none, word := 0 }

/-- Enter a homing state with its word (R200). -/
def stepHomeGo (d : Die) (n st : Nat) (w : Int) : Die :=
  let d := setFld d (Reg.STP_STAT_HM_STATE n) st
  applyWord (updStp d n fun h => { h with hmState := st, hmBack := none }) n w

/-- The homing sequencer of a channel on one clock (R200), the first matching row (R15). -/
def stepHoming (d : Die) (n : Nat) : Die :=
  if stpMode d n ≠ 3 then d else
  let h := stpH d n
  let search := sext 32 (effN d (Reg.STP_HMVSEARCH n))
  let dir : Int := if search < 0 then -1 else 1
  let vs := dir * stepWord (search.natAbs : Nat)
  let vc := dir * stepWord ((effN d (Reg.STP_HMVCREEP n) : Nat) : Rat)
  let hm := flag d (Reg.STP_STAT_HM n)
  if 1 ≤ h.hmState ∧ effN d (Reg.STP_HMTRAVEL n) < h.hmSteps then
    stepHomeEnd (chanStop d n (h.word != 0)) n 4 1
  else match h.hmState with
  | 0 => if hm then stepHomeGo d n 2 (-vs) else stepHomeGo d n 1 vs
  | 1 => if hm then stepHomeGo d n 2 (-vs) else d
  | 2 =>
    if hm then updStp d n fun h => { h with hmBack := none }
    else match h.hmBack with
      | none => if effN d (Reg.STP_HMBACKOFF n) = 0 then stepHomeGo d n 3 vc
          else updStp d n fun h => { h with hmBack := some 0 }
      | some k => if effN d (Reg.STP_HMBACKOFF n) ≤ k then stepHomeGo d n 3 vc else d
  | _ =>
    if hm then
      let d := putI64 d (Reg.STP_POS n) (effI64 d (Reg.STP_HMPOS n))
      let d := setFld d (Reg.STP_STAT_UNSURE n) 0
      stepHomeEnd d n 0 0
    else d

/-- STEP_CLOCK (R192): what is due is done, then the next 100 MHz clock, at or after GT (R195), of every group and channel
and of the homing sequencers. -/
def stepClock (d : Die) : Die :=
  let fire (d : Die) (n : Nat) : Die := fireResume (fireDir (firePulseEnd (fireCarry d n) n) n) n
  let d := (upto 8).foldl fireLead d
  let d := (upto 32).foldl fire d
  let at_ := max d.stpClk (10 * cdiv d.tb.gt 10)
  let d := { toGt d at_ with stpClk := at_ + 10 }
  let d := (upto 8).foldl (fun d g => if powered d 72 then leadClock d g else d) d
  (upto 32).foldl (fun d n =>
    if stpOn d n && flag d (Reg.STP_CFG_DECL n) then stepHoming (chanClock d n) n else d) d

/-- A group's moving state for stops (R201, R202): its word is not 0. -/
def grpRuns (d : Die) (g : Nat) : Bool := (grpH d g).moving && (grpH d g).word != 0

/-- GROUP_STOP (R201): every channel of the group stops, and a running move completes STOPPED. -/
def groupStop (d : Die) (g : Nat) : Die :=
  let runs := grpRuns d g
  let d := (grpMembers d g).foldl (fun d n =>
    if stpMode d n = 3 then stepHomeEnd (chanStop d n ((stpH d n).word != 0)) n 3 2 else chanStop d n runs) d
  if (grpH d g).moving then moveEnd d g 3 else d

/-- STP_STOP (R201): the channel stops; its homing, or its group's move, completes STOPPED. -/
def stpStop (d : Die) (n : Nat) : Die :=
  if stpMode d n = 3 then stepHomeEnd (chanStop d n ((stpH d n).word != 0)) n 3 2
  else if flag d (Reg.STP_CFG_GRPMEM n) && (grpH d (fld d (Reg.STP_CFG_GROUP n))).moving then
    groupStop d (fld d (Reg.STP_CFG_GROUP n))
  else chanStop d n ((stpH d n).word != 0)

/-- The stop of the channels with MUZSTOP when the Sheepdog enters the muzzled state (R201). -/
def muzzleStop (d : Die) : Die :=
  (upto 32).foldl (fun d n =>
    if flag d (Reg.STP_CFG_DECL n) && flag d (Reg.STP_CFG_MUZSTOP n) then stpStop d n else d) d

/-- A STEP_MOVE is accepted (R198). -/
def stepMoveOk (d : Die) (g : Nat) : Bool :=
  !(grpMembers d g).isEmpty && !(grpH d g).moving && (grpMembers d g).all fun n => stpMode d n != 3

/-- The start of a move (R198): counts for the members in ascending order; N = 0 completes at once. -/
def stepMoveStart (d : Die) (g : Nat) (counts : List Int) (ticket : Nat) : Die :=
  let ms := (grpMembers d g).zip counts
  let n := ms.foldl (fun (x : Nat) y => max x y.2.natAbs) (0 : Nat)
  if n = 0 then complete d ticket 0 0 0 else
  let d := updGrp d g fun h =>
    { h with acc := 0, word := 0, next := none, v := 0, n := n, made := 0, left := 0, d := ms, q := ms.map fun x => (x.1, n / 2),
             ticket := ticket, moving := true, carryDue := false, atEdge := false }
  let d := setFlag (putReg d (Reg.STP_GRP_LEFT g) (BitVec.ofNat 32 n)) (Reg.STP_GRP_STAT_MOVING g)
  ms.foldl (fun (d : Die) (x : Nat × Int) =>
    if x.2 ≠ 0 ∧ decide (0 < x.2) ≠ (stpH d x.1).lastPos then
      fireDir (updStp d x.1 fun h => { h with lastPos := decide (0 < x.2), rev := .low }) x.1
    else d) d

/-- A STEP_HOME is accepted (R200). -/
def stepHomeOk (d : Die) (n : Nat) : Bool :=
  flag d (Reg.STP_CFG_DECL n) &&
    ((stpMode d n == 1 && (stpH d n).word == 0) ||
     (stpMode d n == 2 && !(grpH d (fld d (Reg.STP_CFG_GROUP n))).moving))

/-- The start of step homing (R200). -/
def stepHomeStart (d : Die) (n ticket : Nat) : Die :=
  updStp (setFld d (Reg.STP_MODE_MODE n) 3) n fun h =>
    { h with hmState := 0, hmTicket := ticket, hmSteps := 0, hmBack := none, word := 0, edgeDue := false,
             velDue := false }

/-- The profile task of group g retires DONE (R199): the word for the next edge, from what the edge of its beat found. A
move accepted since then has no word yet. -/
def stepProfile (d : Die) (g : Nat) : Die :=
  let h := grpH d g
  if !(h.moving && h.atEdge) then d else
  let f := hzQ d
  let r : Rat := (h.left : Nat)
  let amax : Rat := (effN d (Reg.STP_GRP_AMAX g) : Nat)
  let vmax : Rat := (effN d (Reg.STP_GRP_VMAX g) : Nat)
  let vmin : Rat := (effN d (Reg.STP_GRP_VMIN g) : Nat)
  let r1 := if r - h.v / f < 0 then 0 else r - h.v / f
  let brake : Rat := (isqrt (2 * amax * r1).floor.toNat : Nat)
  let v := h.v + amax / f
  let v := if vmax < v then vmax else v
  let v := if brake < v then brake else v
  let v := if v < vmin then vmin else v
  updGrp d g fun h => { h with v := v, next := some (stepWord v).toNat }

/-- What a beat edge does to the step generators (R36, R199): words of the last beat become due on the next clock. -/
def stepEdge (d : Die) : Die :=
  let d := (upto 32).foldl (fun d n =>
    if (stpH d n).edgeDue then updStp d n fun h => { h with edgeDue := false, velDue := true } else d) d
  (upto 8).foldl (fun d g =>
    let h := grpH d g
    if !h.moving then d else
    let d := match h.next with
      | some w => (grpMembers d g).foldl (fun d n => putActive d n (w != 0)) (updGrp d g fun h => { h with word := w })
      | none => if h.atEdge then incReg (setFlag d (Reg.STP_GRP_STAT_NOUPD g)) (Reg.STP_GRP_CNT_NOUPD g) else d
    updGrp d g fun h => { h with next := none, atEdge := true, left := (getReg d (Reg.STP_GRP_LEFT g)).toNat }) d

/-- The law of a vendor's edge-bound task (R131, R199). -/
def edgeLaw (d : Die) (role : Nat) (t : Task) : Die :=
  if role = 2 then virtualMaster d t.beat else stepProfile d (role - 3)

/-- DONE (R86, R154). -/
def execDoneTask (e : Fin 16) (ecc : Ecc) (s : State) : Host.Outcome State Fault Refusal :=
  onDie (runDone edgeLaw e.val ecc) s

/-- STEP_CLOCK (R192). -/
def execStepClock (s : State) : Host.Outcome State Fault Refusal := onDie stepClock s

/-- STEP_CARRY (R192). -/
def execStepCarry (n : Fin 32) (s : State) : Host.Outcome State Fault Refusal := onDie (fireCarry · n.val) s

/-- STEP_PULSE_END (R193). -/
def execStepPulseEnd (n : Fin 32) (s : State) : Host.Outcome State Fault Refusal := onDie (firePulseEnd · n.val) s

/-- DIR_CHANGE (R195). -/
def execDirChange (n : Fin 32) (s : State) : Host.Outcome State Fault Refusal := onDie (fireDir · n.val) s

/-- ACCUMULATION_RESUME (R195). -/
def execAccumulationResume (n : Fin 32) (s : State) : Host.Outcome State Fault Refusal :=
  onDie (fireResume · n.val) s

/-- LEAD_CARRY (R198). -/
def execLeadCarry (g : Fin 8) (s : State) : Host.Outcome State Fault Refusal := onDie (fireLead · g.val) s

/-- HM_INPUT_CHANGE (R200): a level stable for 1 µs counts, and the sequencer sees it; a shorter one does not count. -/
def execHmInputChange (n : Fin 32) (x : PinLevel) (s : State) : Host.Outcome State Fault Refusal :=
  onDie (fun d =>
    if 1000 ≤ x.stable && stpOn d n.val && flag d (Reg.STP_CFG_DECL n.val) then
      stepHoming (putFlag d (Reg.STP_STAT_HM n.val) (x.level != flag d (Reg.STP_CFG_HMPOL n.val))) n.val
    else d) s

end Sys2Proof.Machine
end

