-- ==== Sys2Proof/Machine/Leash.lean ====
section
/-! DEFINITION. The Leash ports and segments (R204 to R231): headers, slots and their codes, the frames the ports launch,
in-slot acceptance and feedback, offsets, roll call and admission, and mailbox traffic. -/

namespace Sys2Proof.Machine

/-- A port is powered and holds receive synchronisation. -/
def rxOn (d : Die) (port : Nat) : Bool := powered d (42 + port) && flag d (Reg.LSH_PSTAT_RXSYNC port)

/-- The segment is declared and sends beat frames. -/
def segOn (d : Die) (seg : Nat) : Bool := flag d (Reg.LSH_SCFG_DECL seg) && flag d (Reg.LSH_SSTAT_RUN seg)

/-- Number of declared nodes. -/
def nNode (d : Die) (seg : Nat) : Nat := fld d (Reg.LSH_SCFG_NNODE seg)

/-- State of a node (R225): 0 ABSENT, 1 ADMITTING, 2 ADMITTED, 3 REJECTED. -/
def nodeState (d : Die) (seg i : Nat) : Nat := fld d (Reg.LSH_NODE_STAT_STATE seg i)

/-- The axes of a node. -/
def nodeAxes (d : Die) (seg i : Nat) : List Nat :=
  (declAxes d).filter fun a => fld d (Reg.AX_CFG_SEG a) == seg && fld d (Reg.AX_CFG_NODE a) == i

/-- The declared nodes of a segment that are admitted. -/
def admitted (d : Die) (seg : Nat) : List Nat := (upto (nNode d seg)).filter fun i => nodeState d seg i == 2

/-- Path state of a segment (R242). -/
def pathState (d : Die) (seg : Nat) : Nat := fld d (Reg.LSH_PATH_STATE seg)

/-- The segment runs as two lines: TWOLINE, or phases A to C of a proof test (R236, R246). -/
def twoLine (d : Die) (seg : Nat) : Bool :=
  pathState d seg == 3 ||
  (pathState d seg == 5 && (segH d seg).proof < 4 && (segH d seg).proofBeat ≤ d.tb.k) ||
  (pathState d seg == 4 && (segH d seg).retBeat.isNone)

/-- Bytes of a slot of a map entry. -/
def slotLen (e : Nat) : Nat := if bitOf e 8 then 16 else 8

/-- PAD in force. -/
def padOf (d : Die) (seg : Nat) : Nat := effFld d (Reg.LSH_SCHED_PAD seg)

/-- The slot pairs of a frame, all NSLOT of them (R209): slot index, map entry. -/
def pairsOf (d : Die) (seg : Nat) : List (Nat × Nat) :=
  (upto (fld d (Reg.LSH_SCFG_NSLOT seg))).map fun j => (j, slotWord d seg j)

/-- Where the slot pairs of a frame with `pad` bytes lie (R209): slot index, map entry, offset of its out-slot. -/
def pairPlan (d : Die) (seg pad : Nat) : List (Nat × Nat × Nat) :=
  ((pairsOf d seg).foldl (fun (acc : List (Nat × Nat × Nat) × Nat) x =>
    (acc.1 ++ [(x.1, x.2, acc.2)], acc.2 + 2 * slotLen x.2)) ([], 40 + pad)).1

/-- The slot pairs of axes in a frame with `pad` bytes: slot index, map entry, offset of its out-slot. -/
def slotPlan (d : Die) (seg pad : Nat) : List (Nat × Nat × Nat) := (pairPlan d seg pad).filter fun x => bitOf x.2.1 7

/-- LEN of the beat frame: header and body (R208). -/
def beatLen (d : Die) (seg pad : Nat) : Nat := (pairsOf d seg).foldl (fun n x => n + 2 * slotLen x.2) (40 + pad)

/-- A header with its HCRC (R208). -/
def leashHdr (typ seg flags k edge len pad b20 rsp reqlen rsplen : Nat) : List Byte :=
  let h := leBytes 1 typ ++ leBytes 1 1 ++ leBytes 1 seg ++ leBytes 1 flags ++ leBytes 4 k ++ leBytes 8 edge ++
    leBytes 2 len ++ leBytes 2 pad ++ leBytes 1 b20 ++ leBytes 1 rsp ++ leBytes 2 reqlen ++ leBytes 2 rsplen ++ zeros 12
  h ++ leBytes 2 (crc1021 h)

/-- Preamble and SFD (R206). -/
def preamble : List Byte := List.replicate 7 0x55 ++ [0xD5]

/-- A frame of header and body as it goes on the wire: preamble and SFD, the bytes, the FCS (R206). -/
def onWire (bs : List Byte) : List Byte := preamble ++ bs ++ leBytes 4 (crc32 bs)

/-- When the head has finished a frame of `n` bytes on the wire whose preamble it starts `s` ns after the edge (R214). -/
def wireEnd (s n : Nat) : Nat := s + 40 + 8 * n

/-- SOCODE of a safety word (R207). -/
def soCode (sid slot bn scmd : Nat) : Nat := crcSo (leBytes 4 sid ++ leBytes 1 slot ++ leBytes 4 bn ++ leBytes 1 scmd)

/-- SICODE of a safety status (R207). -/
def siCode (sid slot bn sstat : Nat) : Nat := crcSi (leBytes 4 sid ++ leBytes 1 slot ++ leBytes 4 bn ++ leBytes 1 sstat)

/-- The safety word of a slot (R212, R228): SCMD and SOCODE. -/
def safeWord (d : Die) (seg slot : Nat) (nodeIn : Bool) : Nat × Nat :=
  let sid := (getReg d (Reg.LSH_SID seg)).toNat
  let code := soCode sid slot (beatNum d) 1
  if !nodeIn then (1, code) else
  match (segH d seg).safeWords.bind (·.find? (·.1 == slot)) with
  | some w => (w.2.1, w.2.2)
  | none => (1, 65535 - code)

/-- LCTL of an axis (R222): ARMH and ARMI of the homing sequencer, by METHOD as it was when HOME was accepted (log entry 111),
each cleared once its latch was reported. -/
def armBits (d : Die) (a : Nat) : Bool × Bool :=
  let g := gearH d a
  let h := axH d a
  let method := bitsOf g.hmCfg 0 3
  let creep := flag d (Reg.AX_LS_STAT_HOMING a) && g.hmState == 3
  let gotH := h.latch.isSome && !h.lsrc
  let gotI := h.latch.isSome && h.lsrc
  (creep && ((method == 1 && !gotH) || (method == 2 && !g.hmPhase && !gotH)),
   creep && ((method == 3 && !gotI) || (method == 2 && (g.hmPhase || gotH) && !gotI)))

/-- The out-slot of an axis (R211, R212). The out-slot of a pair that the slot map gives to no axis is zeros (log
entry 158). -/
def outSlot (d : Die) (seg slot e : Nat) : List Byte :=
  if !bitOf e 7 then zeros (slotLen e) else
  let a := e % 128
  let nodeIn := nodeState d seg (fld d (Reg.AX_CFG_NODE a)) == 2
  let o := if nodeIn then (axH d a).out else axOut0
  let thin := bitOf e 9
  let h := axH d a
  let head := [BitVec.ofNat 8 (b2n o.enable + 2 * b2n (o.gate && thin) + 4 * b2n o.stale),
    BitVec.ofNat 8 (if nodeIn then b2n h.armH + 2 * b2n h.armI else 0)]
  let data := if thin then leBytes 2 o.da ++ leBytes 2 o.db ++ leBytes 2 o.dc else leBytes 3 o.tq ++ zeros 3
  if !bitOf e 8 then head ++ data else
  let w := safeWord d seg slot nodeIn
  head ++ data ++ (if bitOf e 10 || !nodeIn then leBytes 1 w.1 ++ leBytes 2 w.2 else zeros 3) ++ zeros 5

/-- The slot CRC of an in-slot's data bytes (R207). -/
def slotCrc (l2 : Bool) (bn slot : Nat) (data : List Byte) : Nat :=
  let bs := leBytes 4 bn ++ leBytes 1 slot ++ data
  if l2 then crc1021 bs else crc07 bs

/-- The fill of an in-slot (R212). -/
def inFill (e slot bn : Nat) : List Byte :=
  if bitOf e 8 then zeros 14 ++ leBytes 2 (65535 - slotCrc true bn slot (zeros 14))
  else zeros 7 ++ leBytes 1 (255 - slotCrc false bn slot (zeros 7))

/-- The beat frame of the beat in force with given FLAGS (R209, R212, R236). -/
def beatFrame (d : Die) (seg flags : Nat) : List Byte :=
  let pad := padOf d seg
  let body := (pairsOf d seg).foldl (fun b x => b ++ outSlot d seg x.1 x.2 ++ inFill x.2 x.1 (beatNum d)) (zeros pad)
  onWire (leashHdr 1 seg flags (beatNum d) (edgeGt (hz d) d.tb.k) (beatLen d seg pad) pad
    (fld d (Reg.LSH_SCFG_NSLOT seg)) 0 0 0 ++ body)

/-- The snapshot of R234. -/
def snapWords (d : Die) (seg : Nat) : List Nat :=
  (upto 24).map (fun w => (getReg d (Reg.LSH_SLOTMAP seg w)).toNat) ++
    [effN d (Reg.LSH_SCHED seg), (getReg d (Reg.LSH_SID seg)).toNat] ++
    (upto (nNode d seg)).flatMap fun i => [nodeState d seg i, i, (getReg d (Reg.LSH_NODE_OFS seg i)).toNat]

/-- The CRC-32 over the words of a snapshot (R234). -/
def snapCrc (w : List Nat) : Nat := crc32 (w.flatMap (leBytes 4))

/-- The supervisor core rewrites the snapshot of a redundant segment (R234). -/
def putSnap (d : Die) (seg : Nat) : Die :=
  if !flag d (Reg.LSH_RCFG_REDUND seg) then d else
  let w := snapWords d seg
  if (segH d seg).snap.words = w then d else updSeg d seg fun s => { s with snap := ⟨w, snapCrc w⟩ }

/-- The part as the snapshot of a segment shows it: slot map, PAD, NLOSS and MBXTO, SID, and the nodes' states and offsets
come from the snapshot (R234). -/
def snapView (d : Die) (seg : Nat) : Die :=
  let w := (segH d seg).snap.words
  let put (d : Die) (off i : Nat) : Die := dropHeld (putReg d off (BitVec.ofNat 32 (nth w i))) off
  let d := (upto 24).foldl (fun d i => put d (Reg.LSH_SLOTMAP seg i) i) d
  let d := put (put d (Reg.LSH_SCHED seg) 24) (Reg.LSH_SID seg) 25
  (upto (nNode d seg)).foldl (fun d i =>
    put (setFld d (Reg.LSH_NODE_STAT_STATE seg i) (nth w (26 + 3 * i))) (Reg.LSH_NODE_OFS seg i) (28 + 3 * i)) d

/-- What the ends of a segment launch at an edge (R236, R242, R245, R246): FLAGS of the head's and the tail's frame. -/
def launchForm (d : Die) (seg : Nat) : Option Nat × Option Nat :=
  let s := segH d seg
  let k := d.tb.k
  match pathState d seg with
  | 2 => if s.failBeat + 3 ≤ k then (none, none) else (some 0, none)
  | 3 => (some 0x0A, some 0x0B)
  | 5 =>
    if s.proof = 1 ∧ s.proofBeat ≤ k then (some 0x0A, some 0x0B)
    else if s.proof = 2 then (none, some 0x0B)
    else if s.proof = 3 then (some 0x0A, none)
    else (some 0, none)
  | _ => (some 0, none)

/-- Launch the frames of a beat (R209, R236, R238), the tail's from the snapshot (R234). In two-line form a port transmits
only in synchronisation. Safety words handed over for an edge at which nothing is launched yet stay for it (R243). -/
def launchAs (d : Die) (seg : Nat) (form : Option Nat × Option Nat) : Die :=
  let two (fl : Nat) : Bool := fl != 0
  let head := match form.1 with
    | some fl => if powered d (42 + 2 * seg) && (!two fl || rxOn d (2 * seg)) then beatFrame d seg fl else []
    | none => []
  let tail := match form.2 with
    | some fl => if powered d (50 + seg) && rxOn d (2 * seg + 1) then beatFrame (snapView d seg) seg fl else []
    | none => []
  updSeg d seg fun s =>
    { s with lastFrame := head, tailFrame := tail, rxHead := rxBeat0, rxTail := rxBeat0, acyclic := [],
             acycDone := false, safeWords := if form = (none, none) then s.safeWords else none,
             sendEnd := if head.isEmpty && tail.isEmpty then 0 else wireEnd 0 (max head.length tail.length) }

/-- No ROLL frame waits in a beat (R223, R241): every sixteenth beat makes one due, but in two-line running none is sent.
`prev`: none waited before. -/
def rollDone (d : Die) (seg : Nat) (prev : Bool) : Bool := twoLine d seg || (beatNum d % 16 != 0 && prev)

/-- Whether a ROLL frame waits in the beat whose number is in force: asked at its edge, and again when a GT step changes the
number of the beat that has just begun (R223, R231). -/
def rollAgain (d : Die) (seg : Nat) : Die :=
  updSeg d seg fun s => { s with rollSent := rollDone d seg s.rollPrev }

/-- A segment at beat edge k: LCTL of its axes is fixed and its frames are launched; a ROLL frame is due in every
sixteenth beat (R223). The latch of an in-slot is used once. -/
def launchSeg (d : Die) (seg : Nat) : Die :=
  if !flag d (Reg.LSH_SCFG_DECL seg) || !powered d (42 + 2 * seg) then d else
  let first := !flag d (Reg.LSH_SSTAT_RUN seg)
  let d := setFlag d (Reg.LSH_SSTAT_RUN seg)
  let d := setFld d (Reg.LSH_LASTIN_ARR seg) ((segH d seg).arr.getD (fld d (Reg.LSH_LASTIN_ARR seg)))
  let d := (slotsOf d seg).foldl (fun d x =>
    let b := armBits d (x.2 % 128)
    updAx d (x.2 % 128) fun h => { h with armH := b.1, armI := b.2, latch := none }) d
  let d := updSeg d seg fun s =>
    { s with arr := none, rollPrev := s.rollSent || first,
             retBeat := if pathState d seg = 4 then some (s.retBeat.getD d.tb.k) else s.retBeat }
  launchAs (rollAgain d seg) seg (launchForm d seg)

/-- A Leash header that belongs to this segment and beat: TYPE, HCRC, SEG, BEAT_NUM (R221). -/
def hdrGood (d : Die) (seg typ : Nat) (hdr : List Byte) : Bool :=
  hdr.length == 40 && leAt hdr 0 1 == typ && leAt hdr 2 1 == seg && leAt hdr 4 4 == beatNum d &&
    leAt hdr 38 2 == crc1021 (hdr.take 38)

/-- The port receives frames of the beat in force: before FCL (R35), in synchronisation, the head port only in two-line
running (R239). -/
def receives (d : Die) (port : Nat) : Bool :=
  running d && d.tb.phase < 3 && segOn d (port / 2) && rxOn d port && (port % 2 == 1 || twoLine d (port / 2))

/-- Change what is known of the beat's frame at a port. -/
def updRx (d : Die) (port : Nat) (f : RxBeat → RxBeat) : Die :=
  updSeg d (port / 2) fun s => if port % 2 = 0 then { s with rxHead := f s.rxHead } else { s with rxTail := f s.rxTail }

/-- An in-slot of a beat: POS and the slot's STAT, VEL, currents, AUX, LATCH (R211). -/
def slotLatch (e : Nat) (b : List Byte) : Int := sext 16 (if bitOf e 8 then leAt b 9 2 else leAt b 5 2)

/-- The unwrap step Δnp of an in-slot (R222), none at the first after an admission. -/
def unwrapStep (d : Die) (a pos : Nat) : Option Int :=
  (axH d a).lastAcc.map fun _ => sext 32 (pos + 2 ^ 32 - (axH d a).posRaw) * 256

/-- The plausibility test of R221. -/
def plausible (d : Die) (a pos : Nat) : Bool :=
  match unwrapStep d a pos, (axH d a).lastAcc with
  | some dn, some k' =>
    decide ((dn.natAbs : Int) * (hz d : Nat) ≤
      2 * (effN d (Reg.AX_OVSPD a) * 65536 : Nat) * ((d.tb.k : Int) - k') + 65536 * (hz d : Nat))
  | _, _ => true

/-- The feedback writes of an accepted in-slot (R222). The velocity of the first in-slot of an admission, formed from no
earlier one, is a free value (log entry 2). -/
def feedback (d : Die) (a e : Nat) (b : List Byte) : Die :=
  let k := d.tb.k
  let stat := leAt b 0 1
  let pos := leAt b 1 4
  let h := axH d a
  let np : Int := match unwrapStep d a pos with
    | some dn => wrapS 64 (h.np + dn)
    | none => sext 32 pos * 256
  let pfb := wrapS 64 (np + getI64 d (Reg.AX_HM_OFFS a))
  let thin := bitOf e 9
  let v : Int × Die :=
    if bitOf e 8 && !thin && flag d (Reg.AX_CFG_VSRC a) then (sext 32 (leAt b 5 4) * 65536, d)
    else match h.lastAcc with
      | some k' => (rhu ((np - h.np) * (hz d : Nat)) ((k : Int) - k'), d)
      | none => let r := draw d; (sext 64 r.1.toNat, r.2)
  let d := hwPut64 (hwPut64 v.2 (Reg.AX_PFB a) pfb) (Reg.AX_VFB a) v.1
  let d := if !thin then d else
    let d := hwPut d (Reg.AX_IA a) (BitVec.ofNat 32 (wrap 32 (sext 16 (leAt b 5 2) * 256)))
    let d := hwPut d (Reg.AX_IB a) (BitVec.ofNat 32 (wrap 32 (sext 16 (leAt b 7 2) * 256)))
    if bitOf stat 3 then d else hwPut d (Reg.AX_VDC a) (BitVec.ofNat 32 (leAt b 9 2 * 128))
  let d := hwPut d (Reg.AX_FBTAG a) (BitVec.ofNat 32 (beatNum d))
  updAx d a fun h =>
    { h with np := np, prevAcc := h.lastAcc, lastAcc := some k, posRaw := pos, home := bitOf stat 2,
             latch := if bitOf stat 3 then some (wrapS 64 (np + slotLatch e b * 65536)) else none, lsrc := bitOf stat 4,
             fb := ((k, pfb, wrapS 64 v.1) :: h.fb).take 32 }

/-- STAT of an accepted in-slot in the node's registers; the first FLT of an admission is logged. -/
def nodeStatus (d : Die) (seg i stat : Nat) : Die :=
  let flt := bitOf stat 1
  let d := putFlag (putFlag d (Reg.LSH_NODE_STAT_FLT seg i) flt) (Reg.LSH_NODE_STAT_MBXP seg i) (bitOf stat 5)
  let d := if flt && !(nodeH d seg i).fltLogged then logEvt d 5 5 1 seg i 0 else d
  updNode d seg i fun n => { n with seen := true, fltLogged := n.fltLogged || flt }

/-- What an accepted in-slot does in its beat (R33 to R35, R119, R222), at its arrival in ns after the beat edge: past IDL it
is LATE (log entry 170). -/
def useSlot (d : Die) (seg a e : Nat) (b : List Byte) (arrival : Nat) : Die :=
  if d.tb.phase ≠ 0 || decide (fld d Reg.BEAT_IDL_VALUE < arrival) then axCount (axEvent d (Reg.AX_STAT_LATE a)) (Reg.AX_CNT_LATE a) else
  let d := updAx (feedback d a e b) a fun h => { h with inSlot := true }
  if axState d a = 0 then d else noteBlocked (kpost d (1 + seg) (.axis a d.tb.k)).1

/-- What an in-slot that a port checks does (R221, R222, R230, R239); `clk` is the Sheepdog's clock (R289). -/
def slotChecked (clk : Nat) (d : Die) (port slot : Nat) (hdr b : List Byte) (arrival : Nat) : Die :=
  let seg := port / 2
  let e := slotWord d seg slot
  if !receives d port || fld d (Reg.LSH_SCFG_NSLOT seg) ≤ slot || !bitOf e 7 then d else
  let a := e % 128
  let i := fld d (Reg.AX_CFG_NODE a)
  let l2 := bitOf e 8
  let b := padTo (slotLen e) b
  let bn := beatNum d
  let d := if !bitOf e 10 then d else
    { d with dogIo := { d.dogIo with slotIn := d.dogIo.slotIn ++ [(seg, slot, bn, leAt b 11 1, leAt b 12 2, clk)] } }
  let failed (d : Die) : Die :=
    if nodeState d seg i = 2 then updRx d port fun r =>
      { r with fails := i :: r.fails.filter (· != i),
               written := if b = inFill e slot bn then r.written else i :: r.written.filter (· != i) }
    else d
  if !hdrGood d seg 1 hdr then incReg d (Reg.LSH_CNT_BADHDR port)
  else if (if l2 then leAt b 14 2 != slotCrc l2 bn slot (b.take 14) else leAt b 7 1 != slotCrc l2 bn slot (b.take 7)) then
    failed (incReg d (Reg.LSH_CNT_SLOTCRC seg))
  else if !(nodeState d seg i == 2 ||
      (nodeState d seg i == 1 && (nodeH d seg i).acked && (nodeH d seg i).effBeat ≤ d.tb.k)) then d
  else if !plausible d a (leAt b 1 4) then failed (incReg d (Reg.LSH_CNT_IMPL seg))
  else
    let s := segH d seg
    let dup := s.rxHead.slots.contains slot || s.rxTail.slots.contains slot
    let d := updRx d port fun r =>
      { r with slots := slot :: r.slots, rev := if bitOf (leAt hdr 3 1) 0 then slot :: r.rev else r.rev }
    if dup then incReg d (Reg.LSH_CNT_DUP seg) else
    let d := updSeg (nodeStatus d seg i (leAt b 0 1)) seg fun s => { s with arr := some arrival }
    useSlot d seg a e b arrival

/-- IN_SLOT_ACCEPT (R214, R221): the in-slot is checked at its arrival; one that arrives after FCL is not received (R35; log entry
170). Its
feedback writes are those of the network port in the cycle of then (R58). -/
def inSlot (clk : Nat) (d : Die) (port slot : Nat) (hdr b : List Byte) (arrival : Nat) : Die :=
  if !receives d port || decide (fld d Reg.BEAT_FCL_VALUE < arrival) then d else
  let d := toGt d (inBeat d arrival)
  axSettle 0 d.tb.cyc d (slotChecked clk d port slot hdr b arrival)

/-- Delay of a cable in units of 10^-5 ns: cm x ps/m. -/
def cableQ (d : Die) (seg j : Nat) : Nat :=
  if j < nNode d seg then (nodeH d seg j).cable * (nodeH d seg j).cdly else (segH d seg).lastCm * (segH d seg).lastPs

/-- A sum over j = lo to hi - 1. -/
def sumFor (lo hi : Nat) (f : Nat → Nat) : Nat := ((upto hi).filter (lo ≤ ·)).foldl (fun n j => n + f j) 0

/-- PHY latency of a port. -/
def phyDly (d : Die) (port : Nat) : Nat := fld d (Reg.LSH_PHYDLY_DLY port)

/-- T_path of the declarations, in units of 10^-5 ns (R213, R215). -/
def tPathQ (d : Die) (seg : Nat) : Nat :=
  100000 * (phyDly d (2 * seg) + phyDly d (2 * seg + 1) + sumFor 0 (nNode d seg) fun i => (nodeH d seg i).resid) +
    sumFor 0 (nNode d seg + 1) (cableQ d seg)

/-- OFS_F of the declarations (R214), in units of 10^-5 ns. -/
def ofsFQ (d : Die) (seg i : Nat) : Nat :=
  100000 * (104 + phyDly d (2 * seg) + sumFor 0 i fun j => (nodeH d seg j).resid) + sumFor 0 (i + 1) (cableQ d seg)

/-- OFS_R of the declarations (R215), in units of 10^-5 ns. -/
def ofsRQ (d : Die) (seg i : Nat) : Nat :=
  let n := nNode d seg
  100000 * (104 + phyDly d (2 * seg + 1) + sumFor (i + 1) n fun j => (nodeH d seg j).resid) +
    sumFor (i + 1) (n + 1) (cableQ d seg)

/-- The checks of R29 and R215 with `pad` padding bytes: arrivals, preparation, application, and room for the ROLL frame. -/
def r215Ok (d : Die) (seg pad : Nat) : Bool :=
  let t := tPathQ d seg
  let len := beatLen d seg pad
  let plan := slotPlan d seg pad
  plan.all (fun x =>
    let i := fld d (Reg.AX_CFG_NODE (x.2.1 % 128))
    let start := x.2.2 + slotLen x.2.1
    let stop := start + slotLen x.2.1
    decide (100000 * (8 * stop + 168) + t ≤ 100000 * fld d Reg.BEAT_IDL_VALUE) &&
    decide (100000 * (nodeH d seg i).prep ≤ ofsFQ d seg i + 100000 * (8 * start))) &&
  (upto (nNode d seg)).all (fun i =>
    decide (max (ofsFQ d seg i) (ofsRQ d seg i) + 100000 * (8 * (len + 4) + (nodeH d seg i).applyMin) ≤
      100000 * (nodeH d seg i).tapply)) &&
  decide (100000 * (104 + 8 * (len + 4) + 96 + 8 * 556 + 168) + t ≤ 100000 * fld d Reg.BEAT_FCL_VALUE)

/-- A value of LSH_n_SCHED is legal (R215, ranges of its fields). -/
def schedOk (d : Die) (seg v : Nat) : Bool :=
  let pad := bitsOf v 0 11
  let nloss := bitsOf v 11 8
  let mbxto := bitsOf v 19 13
  decide (pad ≤ 1024) && decide (4 ≤ nloss) && decide (1 ≤ mbxto) && r215Ok d seg pad

/-- T_path by which acyclic frames are fitted (R216): the measured mean where there is one, else the loader's. -/
def tFit (d : Die) (seg : Nat) : Nat :=
  if (segH d seg).meas.isEmpty then fld d (Reg.LSH_TPATH_LOADER seg) else fld d (Reg.LSH_TPATH_MEAS seg)

/-- The measured cable delays of R220: cable_j := rhu(c x len_j / sum of len). With no length declared the share is a
free value (log entry 2). -/
def cableDly (d : Die) (seg j : Nat) : Int :=
  let n := nNode d seg
  let len (j : Nat) : Nat := if j < n then (nodeH d seg j).cable else (segH d seg).lastCm
  let total := sumFor 0 (n + 1) len
  let c : Int := (tFit d seg : Int) - phyDly d (2 * seg) - phyDly d (2 * seg + 1) -
    (sumFor 0 32 fun i => (nodeH d seg i).rollResid : Nat)
  if total = 0 then ((Config.freeValue d.fresh).toNat % 65536 : Nat) else rhu (c * (len j : Nat)) total

/-- A sum of integers over j = lo to hi - 1. -/
def sumForI (lo hi : Nat) (f : Nat → Int) : Int := ((upto hi).filter (lo ≤ ·)).foldl (fun n j => n + f j) 0

/-- The offsets of a node (R220): OFS_F and OFS_R. -/
def nodeOfs (d : Die) (seg i : Nat) : Nat × Nat :=
  let n := nNode d seg
  let resid (j : Nat) : Int := ((nodeH d seg j).rollResid : Nat)
  let f := 104 + (phyDly d (2 * seg) : Int) + sumForI 0 (i + 1) (cableDly d seg) + sumForI 0 i resid
  let r := 104 + (phyDly d (2 * seg + 1) : Int) + sumForI (i + 1) (n + 1) (cableDly d seg) + sumForI (i + 1) 32 resid
  (wrap 16 f, wrap 16 r)

/-- Append a request to a node's queue (R227). -/
def mbxQueue (d : Die) (seg i code : Nat) (data : List Byte) (ticket : Nat) : Die :=
  let d := updNode d seg i fun n =>
    { n with queue := n.queue ++ [⟨n.tagNext, code, data, ticket, none, none⟩], tagNext := (n.tagNext + 1) % 65536 }
  if ticket = 0 then d else setFld d (Reg.LSH_MBXWAIT_WAIT seg) (fld d (Reg.LSH_MBXWAIT_WAIT seg) + 1)

/-- A host request of a node ends (R227, R350): its completion, with the response data kept for 16 further ones. -/
def mbxEnd (d : Die) (seg : Nat) (q : MbxReq) (status : Nat) (data : List Byte) : Die :=
  if q.ticket = 0 then d else
  let d := complete d q.ticket status data.length q.tag
  let d := setFld d (Reg.LSH_MBXWAIT_WAIT seg) (fld d (Reg.LSH_MBXWAIT_WAIT seg) - 1)
  updHost d fun h => { h with rsps := ((q.ticket, status, data) :: h.rsps).take 16 }

/-- Every request of a node that `p` picks ends with a status, in order. -/
def mbxFlush (d : Die) (seg i status : Nat) (p : MbxReq → Bool) : Die :=
  let q := (nodeH d seg i).queue
  let d := (q.filter p).foldl (fun d r => mbxEnd d seg r status []) d
  updNode d seg i fun n => { n with queue := q.filter fun r => !p r }

/-- The axes of a node leave service (R123, R225). -/
def removeAxes (d : Die) (seg i : Nat) : Die :=
  (nodeAxes d seg i).foldl (fun d a => updAx d a fun h => { h with removed := true, admitted := false, lastAcc := none }) d

/-- A node leaves: to ABSENT, its requests complete NODE_GONE, logged (R225). -/
def dropNode (d : Die) (seg i : Nat) : Die :=
  let d := mbxFlush (removeAxes d seg i) seg i 8 fun _ => true
  let d := setFld d (Reg.LSH_NODE_STAT_STATE seg i) 0
  logEvt (updNode d seg i fun n => { n with acked := false, naked := false, quiet := 0, rollMiss := 0, sentOfs := none }) 5 3 2 seg i
    (beatNum d)

/-- The loss conditions of an admitted node (R225). -/
def lossDue (d : Die) (seg i : Nat) : Bool :=
  nodeState d seg i == 2 &&
    (effFld d (Reg.LSH_SCHED_NLOSS seg) ≤ (nodeH d seg i).quiet || 2 ≤ (nodeH d seg i).rollMiss)

/-- NODE_LOST (R225). -/
def nodeLoss (d : Die) (seg i : Nat) : Die := if lossDue d seg i then dropNode d seg i else d

/-- ADMISSION_EFFECTIVE (R225): edge E of an acknowledged admission. -/
def admitNow (d : Die) (seg i : Nat) : Die :=
  let n := nodeH d seg i
  if nodeState d seg i == 1 && n.acked && n.effBeat ≤ d.tb.k then
    let d := setFld d (Reg.LSH_NODE_STAT_STATE seg i) 2
    let d := updNode d seg i fun n => { n with quiet := 0, rollMiss := 0, seen := false, fltLogged := false }
    let d := (nodeAxes d seg i).foldl (fun d a => updAx d a fun h => { h with admitted := true, lastAcc := none }) d
    logEvt d 5 2 0 seg i (n.effBeat % 2 ^ 32)
  else d

/-- The NAK row of R225: the node answered its ADMIT with NAK. -/
def admitNak (d : Die) (seg i : Nat) : Die :=
  if nodeState d seg i == 1 && (nodeH d seg i).naked then
    let d := setFld (setFld d (Reg.LSH_NODE_STAT_STATE seg i) 3) (Reg.LSH_NODE_STAT_REASON seg i) 3
    logEvt (updNode d seg i fun n => { n with naked := false }) 5 4 1 seg i 3
  else d

/-- ADMISSION_TIMEOUT (R225): no ACK by edge E. -/
def admitLate (d : Die) (seg i : Nat) : Die :=
  let n := nodeH d seg i
  if nodeState d seg i == 1 && !n.acked && n.effBeat ≤ d.tb.k then
    let d := setFld (setFld d (Reg.LSH_NODE_STAT_STATE seg i) 0) (Reg.LSH_NODE_STAT_REASON seg i) 4
    incReg (mbxFlush d seg i 8 fun r => r.ticket == 0) (Reg.LSH_CNT_ADMFAIL seg)
  else d

/-- MAILBOX_TIMEOUT (R227): no response within MBXTO x 16 beats of the first sending. -/
def mbxTimeout (d : Die) (seg i : Nat) : Die :=
  match (nodeH d seg i).queue with
  | q :: rest =>
    if (match q.sent with
        | some b => decide (b + 16 * effFld d (Reg.LSH_SCHED_MBXTO seg) ≤ d.tb.k)
        | none => false) then
      mbxEnd (updNode d seg i fun n => { n with queue := rest }) seg q 7 []
    else d
  | [] => d

/-- The node table at a beat edge (R225, R227): the run of beats without an in-slot, then the rows in their order. -/
def nodesAtEdge (d : Die) (seg : Nat) : Die :=
  (upto (nNode d seg)).foldl (fun d i =>
    let d := if nodeState d seg i = 2 then
        updNode d seg i fun n => { n with quiet := if n.seen then 0 else n.quiet + 1, seen := false }
      else d
    mbxTimeout (admitLate (admitNak (admitNow (nodeLoss d seg i) seg i) seg i) seg i) seg i) d

/-- One entry of a ROLL frame (R223). -/
def rollEntry (body : List Byte) (i : Nat) : List Byte := slice body (16 * i) 16

/-- Why an entry does not match a declared node (R224): 0 it matches, 1 IDENT, 2 VER. -/
def rollReason (n : Node) (e : List Byte) : Nat :=
  if leAt e 2 2 ≠ n.vendor ∨ leAt e 4 2 ≠ n.product ∨ leAt e 6 2 < n.revMin ∨
      (n.serial ≠ 0 ∧ leAt e 8 4 ≠ n.serial) ∨ n.resid < leAt e 12 2 ∨ n.prep < leAt e 14 2 then 1
  else if leAt e 0 1 &&& n.vers ≠ n.vers then 2 else 0

/-- The data of an ADMIT message (R225): version, slots with kind and offset, OFS_F, OFS_R, SID and E. -/
def admitData (d : Die) (seg i e : Nat) : List Byte :=
  let mine := (slotPlan d seg (padOf d seg)).filter fun x => fld d (Reg.AX_CFG_NODE (x.2.1 % 128)) == i
  let ofs := nodeOfs d seg i
  leBytes 1 ((nodeH d seg i).vers % 4) ++ leBytes 1 mine.length ++
    mine.foldl (fun b x => b ++ leBytes 1 x.1 ++ leBytes 1 (x.2.1 / 256) ++ leBytes 2 x.2.2) [] ++
    leBytes 2 ofs.1 ++ leBytes 2 ofs.2 ++ leBytes 4 (getReg d (Reg.LSH_SID seg)).toNat ++ leBytes 4 e

/-- The table of R225 for a node after a ROLL frame; `e` is the entry at its index, empty where none answered. -/
def rollNode (d : Die) (seg i : Nat) (e : List Byte) : Die :=
  let there := leAt e 0 1 ≠ 0
  let why := if there then rollReason (nodeH d seg i) e else 1
  match nodeState d seg i with
  | 2 => nodeLoss (updNode d seg i fun n => { n with rollMiss := if why = 0 then 0 else n.rollMiss + 1 }) seg i
  | 0 =>
    if !there then d
    else if why = 0 then
      if flag d (Reg.LSH_SSTAT_TOPO seg) then d else
      let eff := d.tb.k + 16
      let d := setFld d (Reg.LSH_NODE_STAT_STATE seg i) 1
      let d := mbxQueue d seg i 1 (admitData d seg i eff) 0
      updNode d seg i fun n => { n with effBeat := eff, acked := false, naked := false, sentOfs := some (nodeOfs d seg i) }
    else
      let d := setFld (setFld d (Reg.LSH_NODE_STAT_STATE seg i) 3) (Reg.LSH_NODE_STAT_REASON seg i) why
      logEvt d 5 4 1 seg i why
  | 3 => if there then d else setFld d (Reg.LSH_NODE_STAT_STATE seg i) 0
  | _ => admitNak d seg i

/-- A received frame is counted and checked: FCS, then header. -/
def checkFrame (d : Die) (port typ : Nat) (hdr body : List Byte) (fcs : Nat) : Die × Bool :=
  let d := incReg d (Reg.LSH_CNT_RXFRM port)
  let fcsOk := fcs == crc32 (hdr ++ body)
  let hdrOk := hdrGood d (port / 2) typ hdr
  let d := if fcsOk then d else incReg d (Reg.LSH_CNT_BADFCS port)
  let d := if hdrOk || typ == 1 then d else incReg d (Reg.LSH_CNT_BADHDR port)
  (d, fcsOk && hdrOk)

/-- ROLL_FRAME_RETURN (R223 to R225). -/
def rollReturn (d : Die) (seg : Nat) (hdr body : List Byte) (fcs : Nat) : Die :=
  if !receives d (2 * seg + 1) then d else
  let r := checkFrame d (2 * seg + 1) 2 hdr body fcs
  if !r.2 then r.1 else
  let there (i : Nat) : Bool := leAt (rollEntry body i) 0 1 != 0
  let d := (upto 32).foldl (fun d i =>
    let e := rollEntry body i
    let d := updNode d seg i fun n => { n with rollResid := if there i then leAt e 12 2 else 0 }
    if !there i then d
    else putReg (putReg d (Reg.LSH_NODE_ID seg i) (BitVec.ofNat 32 (leAt e 2 4))) (Reg.LSH_NODE_SERIAL seg i)
      (BitVec.ofNat 32 (leAt e 8 4))) r.1
  let extra := (upto 32).filter fun i => decide (nNode d seg ≤ i) && there i
  let d := extra.foldl (fun d i =>
    if (segH d seg).undeclared.contains i then d
    else logEvt (setFlag d (Reg.LSH_SSTAT_UNDECL seg)) 5 1 1 seg i (leAt (rollEntry body i) 2 4)) d
  let d := updSeg d seg fun s => { s with undeclared := extra }
  (upto (nNode d seg)).foldl (fun d i => rollNode d seg i (if there i then rollEntry body i else [])) d

/-- OFFSET messages after a new mean (R220). -/
def offsetsDue (d : Die) (seg : Nat) : Die :=
  (upto (nNode d seg)).foldl (fun d i =>
    if nodeState d seg i ≠ 2 then d else
    match (nodeH d seg i).sentOfs with
    | some (f, r) =>
      let n := nodeOfs d seg i
      if 16 < ((n.1 : Int) - f).natAbs ∨ 16 < ((n.2 : Int) - r).natAbs then
        updNode (mbxQueue d seg i 2 (leBytes 2 n.1 ++ leBytes 2 n.2) 0) seg i fun x => { x with sentOfs := some n }
      else d
    | none => d) d

/-- The measurement of T_path in ring running (R220, R224). -/
def measurePath (d : Die) (seg tpath : Nat) : Die :=
  let d := updSeg d seg fun s => { s with meas := (tpath :: s.meas).take 64 }
  let m := (segH d seg).meas
  let mean := (rhu (m.foldl (· + ·) 0 : Nat) (m.length : Nat)).toNat
  let d := setFld d (Reg.LSH_TPATH_MEAS seg) mean
  let d := putFlag d (Reg.LSH_SSTAT_TOPO seg) (decide (fld d (Reg.LSH_TPATH_LOADER seg) + 100 < mean))
  offsetsDue { d with fresh := d.fresh + 1 } seg

/-- The out-slots of a returned frame are those that were sent (R235). -/
def outSame (d : Die) (seg : Nat) (hdr body : List Byte) : Bool :=
  let s := segH d seg
  let sent := if s.lastFrame.isEmpty then s.tailFrame else s.lastFrame
  let got := preamble ++ hdr ++ body
  (pairPlan d seg (padOf d seg)).all fun x => slice got (8 + x.2.2) (slotLen x.2.1) == slice sent (8 + x.2.2) (slotLen x.2.1)

/-- BEAT_FRAME_END (R220, R221, R235). -/
def frameEnd (d : Die) (port : Nat) (hdr body : List Byte) (fcs tpath : Nat) : Die :=
  let seg := port / 2
  if !receives d port then d else
  let r := checkFrame d port 1 hdr body fcs
  let same := outSame d seg hdr body
  let fl := leAt hdr 3 1
  let d := updRx r.1 port fun x =>
    { x with got := true, good := r.2, dir := bitOf fl 0, ret := bitOf fl 2, outSame := same }
  if twoLine d seg then d else measurePath d seg tpath

/-- t_h of R233: the return time of the head line that ends at hop h, in units of 10^-5 ns. -/
def tHeadQ (d : Die) (seg h : Nat) : Nat :=
  let resid (j : Nat) : Nat := (nodeH d seg j).resid
  2 * (100000 * (phyDly d (2 * seg) + sumFor 0 h resid) + sumFor 0 (h + 1) (cableQ d seg)) + 100000 * resid h

/-- t_t of R233: the return time of the tail line that begins at hop t. -/
def tTailQ (d : Die) (seg t : Nat) : Nat :=
  let n := nNode d seg
  let resid (j : Nat) : Nat := (nodeH d seg j).resid
  2 * (100000 * (phyDly d (2 * seg + 1) + sumFor (t + 1) n resid) + sumFor (t + 1) (n + 1) (cableQ d seg)) +
    100000 * resid t

/-- The line that holds a node in two-line running, by the beat judged last (R240, R241): 0 head, 1 tail, and the return time
of its frame. Before a beat of this running was judged no line is known. -/
def lineOf (d : Die) (seg i : Nat) : Option (Nat × Nat) :=
  match (segH d seg).lines with
  | none => none
  | some (h, t, whole) =>
    match h.filter (i ≤ ·), t.filter (· ≤ i) with
    | some h, _ => some (0, if whole then tFit d seg else cdiv (tHeadQ d seg h) 100000)
    | none, some t => some (1, if whole then tFit d seg else cdiv (tTailQ d seg t) 100000)
    | none, none => none

/-- The port of a line transmits (R238): 0 head, 1 tail; in two-line running only in synchronisation. -/
def lineSends (d : Die) (seg line : Nat) : Bool :=
  !twoLine d seg || (rxOn d (2 * seg + line) && (line == 0 || powered d (50 + seg)))

/-- Bytes, FCS included, that an acyclic frame may have when it starts `s` ns after the edge (R216). -/
def acycRoom (d : Die) (s t : Nat) : Nat := (fld d Reg.BEAT_FCL_VALUE - (s + t + 168)) / 8

/-- Send an acyclic frame: the bytes on the wire, and when the port has finished them. -/
def sendAcyc (d : Die) (seg s : Nat) (bs : List Byte) : Die :=
  updSeg d seg fun g => { g with acyclic := bs, sendEnd := wireEnd s bs.length }

/-- The nodes in the order of round robin, after node `rr`. -/
def rrOrder (n rr : Nat) : List Nat := (upto n).map fun j => (rr + 1 + j) % n

/-- A node's request may go in this window: the head of its queue, not sent in this window yet (R227). -/
def reqDue (d : Die) (seg i : Nat) : Option MbxReq :=
  match (nodeH d seg i).queue with
  | q :: _ =>
    if q.last = some d.tb.k then none
    else if !twoLine d seg || (lineOf d seg i).any (fun l => lineSends d seg l.1) then some q else none
  | [] => none

/-- A request is sent (R225, R227): the offsets it carries are the ones last sent (R220). -/
def markSent (d : Die) (seg i : Nat) (q : MbxReq) : Die :=
  let k := d.tb.k
  let d := updNode d seg i fun n =>
    { n with queue := { q with sent := some (q.sent.getD k), last := some k } :: n.queue.tail }
  let put (d : Die) (w : Nat) : Die := putReg d (Reg.LSH_NODE_OFS seg i) (BitVec.ofNat 32 w)
  if q.ticket ≠ 0 then d
  else if q.code = 2 then setFlag (put d (leAt q.data 0 4)) (Reg.LSH_SSTAT_OFSUPD seg)
  else put d (leAt q.data (q.data.length - 12) 4)

/-- Send the next MBX frame (R226, R227, R241). -/
def sendMbx (d : Die) (seg s : Nat) : Die :=
  let n := nNode d seg
  match (rrOrder n (segH d seg).rrReq).findSome? fun i => (reqDue d seg i).map fun q => (i, q) with
  | none => updSeg d seg fun g => { g with acycDone := true }
  | some (i, q) =>
    let line := if twoLine d seg then (lineOf d seg i).getD (0, tFit d seg) else (0, tFit d seg)
    let flags := if !twoLine d seg then 0 else if line.1 = 0 then 0x0A else 0x0B
    let room := acycRoom d s line.2
    let reqLen := 4 + q.data.length
    if room < 44 + reqLen then updSeg d seg fun g => { g with acycDone := true } else
    let rsp := (rrOrder n (segH d seg).rrRsp).find? fun j => flag d (Reg.LSH_NODE_STAT_MBXP seg j) &&
      (!twoLine d seg || (lineOf d seg j).any (·.1 == line.1))
    let rspLen := if rsp.isSome then min 256 (room - 44 - reqLen) else 0
    let body := leBytes 2 q.tag ++ leBytes 2 q.code ++ q.data ++ zeros rspLen
    let hdr := leashHdr 3 seg flags (beatNum d) (edgeGt (hz d) d.tb.k) (40 + body.length) 0 i (rsp.getD 255) reqLen rspLen
    let d := sendAcyc (markSent d seg i q) seg s (onWire (hdr ++ body))
    updSeg d seg fun g => { g with rrReq := i, rrRsp := rsp.getD g.rrRsp }

/-- ACYCLIC_FRAME_SEND (R216, R223, R227, R241). -/
def acyclicSend (d : Die) (seg : Nat) : Die :=
  let g := segH d seg
  if !running d || 3 ≤ d.tb.phase || !segOn d seg || g.acycDone then d else
  let s := max (g.sendEnd + 96) (d.tb.gt - edgeGt (hz d) d.tb.k)
  if !g.rollSent && !twoLine d seg then
    if acycRoom d s (tFit d seg) < 556 then updSeg d seg fun g => { g with acycDone := true } else
    let hdr := leashHdr 2 seg 0 (beatNum d) (edgeGt (hz d) d.tb.k) 552 0 0 0 0 0
    updSeg (sendAcyc d seg s (onWire (hdr ++ zeros 512))) seg fun g => { g with rollSent := true }
  else sendMbx d seg s

/-- The response of a node to the request at the front of its queue (R225 to R227). ACK and NAK of an ADMIT are kept for the
table of R225, which is next evaluated when a ROLL frame returns or at a beat edge; an ADMIT answered with neither has no
ACK. -/
def mbxAnswer (d : Die) (seg i status : Nat) (data : List Byte) : Die :=
  match (nodeH d seg i).queue with
  | [] => d
  | q :: rest =>
    let d := updNode d seg i fun n => { n with queue := rest }
    if q.ticket ≠ 0 then mbxEnd d seg q (if status = 0 then 0 else if status = 1 then 5 else 6) data
    else if q.code = 1 ∧ nodeState d seg i = 1 then
      if status = 0 then updNode d seg i fun n => { n with acked := decide (d.tb.k < n.effBeat) || n.acked }
      else if status = 1 then updNode d seg i fun n => { n with naked := true }
      else d
    else d

/-- MBX_FRAME_RETURN (R226, R227), on the port the frame's line ends at. -/
def mbxReturn (d : Die) (seg : Nat) (hdr body : List Byte) (fcs : Nat) : Die :=
  let fl := leAt hdr 3 1
  let atHead := bitOf fl 3 && (bitOf fl 0 != bitOf fl 2)
  let port := if atHead then 2 * seg else 2 * seg + 1
  if !receives d port then d else
  let r := checkFrame d port 3 hdr body fcs
  if !r.2 then r.1 else
  let d := r.1
  let i := leAt hdr 21 1
  let area := slice body (leAt hdr 22 2) (leAt hdr 24 2)
  let rlen := leAt area 0 2
  if rlen < 4 ∨ area.length < rlen + 2 ∨ nNode d seg ≤ i then d else
  match (nodeH d seg i).queue with
  | q :: _ =>
    if q.sent.isSome && leAt area 2 2 == q.tag then mbxAnswer d seg i (leAt area 4 2) (slice area 6 (rlen - 4)) else d
  | [] => d

/-- LEASH_READMIT (R225). -/
def readmit (d : Die) (seg i ticket : Nat) : Die :=
  let st := nodeState d seg i
  let d := if st = 1 ∨ st = 2 then dropNode d seg i else setFld d (Reg.LSH_NODE_STAT_STATE seg i) 0
  complete (putSnap (setFld d (Reg.LSH_NODE_STAT_REASON seg i) 0) seg) ticket 0 0 0

/-- A port loses synchronisation. -/
def syncLost (d : Die) (port : Nat) : Die :=
  if !flag d (Reg.LSH_PSTAT_RXSYNC port) then d else
  incReg (setFlag (putFlag d (Reg.LSH_PSTAT_RXSYNC port) false) (Reg.LSH_PSTAT_LOSS port)) (Reg.LSH_CNT_SYNCLOSS port)

/-- The receiver of a port. -/
def portLink (d : Die) (port : Nat) : PLink :=
  let s := segH d (port / 2)
  if port % 2 = 0 then s.lnkHead else s.lnkTail

/-- A port's receiver changes: the port holds synchronisation while its pins do and, with an SGMII partner, that has
reported 1000 Mbit/s full duplex last (R205). -/
def putLink (d : Die) (port : Nat) (l : PLink) : Die :=
  let d := updSeg d (port / 2) fun s => if port % 2 = 0 then { s with lnkHead := l } else { s with lnkTail := l }
  if l.sync && (fld d (Reg.LSH_PCFG_PHY port) != 1 || l.gig) then setFlag d (Reg.LSH_PSTAT_RXSYNC port) else syncLost d port

/-- RX_SYNC_CHANGE (R205, R238). -/
def rxSync (d : Die) (port : Nat) (sync : Bool) : Die :=
  if !powered d (42 + port) then d else putLink d port { portLink d port with sync := sync }

/-- SGMII_SPEED_REPORT (R205). -/
def speedReport (d : Die) (port : Nat) (ok : Bool) : Die :=
  if !powered d (42 + port) || fld d (Reg.LSH_PCFG_PHY port) ≠ 1 then d else
  putLink (if ok then d else setFlag d (Reg.LSH_PSTAT_SPDERR port)) port { portLink d port with gig := ok }

/-- IN_SLOT_ACCEPT (R221). -/
def execInSlotAccept (port : Fin 8) (slot : Fin 48) (hdr bytes : List Byte) (arrival : Nat) (s : State) :
    Host.Outcome State Fault Refusal := onDieDog (fun g d => inSlot g.clk d port.val slot.val hdr bytes arrival) s

/-- BEAT_FRAME_END (R221). -/
def execBeatFrameEnd (port : Fin 8) (hdr body : List Byte) (fcs : Word) (tpath : Nat) (s : State) :
    Host.Outcome State Fault Refusal := onDie (frameEnd · port.val hdr body fcs.toNat tpath) s

/-- ACYCLIC_FRAME_SEND (R216). -/
def execAcyclicFrameSend (seg : Fin 4) (s : State) : Host.Outcome State Fault Refusal := onDie (fun d => putSnap (acyclicSend d seg.val) seg.val) s

/-- ROLL_FRAME_RETURN (R225). -/
def execRollFrameReturn (seg : Fin 4) (hdr body : List Byte) (fcs : Word) (s : State) :
    Host.Outcome State Fault Refusal := 
  onDie (fun d => putSnap (rollReturn d seg.val hdr body fcs.toNat) seg.val) s

/-- ADMISSION_EFFECTIVE (R225): the beat edge has normally made this change; it is made here where it is due. -/
def execAdmissionEffective (seg : Fin 4) (node : Fin 32) (s : State) : Host.Outcome State Fault Refusal :=
  onDie (fun d => putSnap (admitNow d seg.val node.val) seg.val) s

/-- ADMISSION_TIMEOUT (R225): the beat edge has normally made this change; it is made here where it is due. -/
def execAdmissionTimeout (seg : Fin 4) (node : Fin 32) (s : State) : Host.Outcome State Fault Refusal :=
  onDie (fun d => putSnap (admitLate d seg.val node.val) seg.val) s

/-- NODE_LOST (R225): the edge or roll call has normally made this change; it is made here where it is due. -/
def execNodeLost (seg : Fin 4) (node : Fin 32) (s : State) : Host.Outcome State Fault Refusal :=
  onDie (fun d => putSnap (nodeLoss d seg.val node.val) seg.val) s

/-- MBX_FRAME_RETURN (R227). -/
def execMbxFrameReturn (seg : Fin 4) (hdr body : List Byte) (fcs : Word) (s : State) :
    Host.Outcome State Fault Refusal := 
  onDie (fun d => putSnap (mbxReturn d seg.val hdr body fcs.toNat) seg.val) s

/-- MAILBOX_TIMEOUT (R227): the beat edge has normally made this change; it is made here where it is due. -/
def execMailboxTimeout (seg : Fin 4) (node : Fin 32) (s : State) : Host.Outcome State Fault Refusal :=
  onDie (mbxTimeout · seg.val node.val) s

/-- RX_SYNC_CHANGE (R238). -/
def execRxSyncChange (port : Fin 8) (sync : Bool) (s : State) : Host.Outcome State Fault Refusal :=
  onDie (rxSync · port.val sync) s

/-- SGMII_SPEED_REPORT (R205). -/
def execSgmiiSpeedReport (port : Fin 8) (gigFull : Bool) (s : State) : Host.Outcome State Fault Refusal :=
  onDie (speedReport · port.val gigFull) s

end Sys2Proof.Machine
end

