-- ==== Sys2Proof/Machine/Path.lean ====
section
/-! DEFINITION. Ring paths and fail-over (R232 to R246): the loader's break check, the snapshot, the judgement of a beat,
the path state machine, switch-back and the proof test. -/

namespace Sys2Proof.Machine

/-- The segment fails over (R232). -/
def redund (d : Die) (seg : Nat) : Bool := flag d (Reg.LSH_RCFG_REDUND seg)

/-- The path of the line that holds node `i` when the tail line begins at node `t` (R233), in units of 10^-5 ns. -/
def linePathQ (d : Die) (seg t i : Nat) : Nat := if i < t then tHeadQ d seg (t - 1) else tTailQ d seg t

/-- The break checks of R233 for a declared segment: arrivals and preparation of both lines at every break position. -/
def r233Ok (d : Die) (seg : Nat) : Bool :=
  let n := nNode d seg
  let pad := padOf d seg
  (upto (n + 1)).all fun t => (slotPlan d seg pad).all fun x =>
    let i := fld d (Reg.AX_CFG_NODE (x.2.1 % 128))
    let start := x.2.2 + slotLen x.2.1
    decide (100000 * (8 * (start + slotLen x.2.1) + 168) + linePathQ d seg t i ≤ 100000 * fld d Reg.BEAT_IDL_VALUE) &&
    (i < t || decide (100000 * (nodeH d seg i).prep ≤ ofsRQ d seg i + 100000 * (8 * start)))

/-- A tail transmit section is powered or not (R234). -/
def tailPower (d : Die) (seg : Nat) (on : Bool) : Die :=
  let d := updPwr d fun p => { p with dom := if on then setBit p.dom (50 + seg) else clrBit p.dom (50 + seg) }
  putFlag d (Reg.LSH_PSTAT_TXON (2 * seg + 1)) on

/-- Hop position of the node of a slot. -/
def slotHop (d : Die) (seg slot : Nat) : Nat := fld d (Reg.AX_CFG_NODE (slotWord d seg slot % 128))

/-- Hop positions of slots. -/
def hopsOf (d : Die) (seg : Nat) (slots : List Nat) : List Nat := slots.map (slotHop d seg)

/-- A line's frame is path-failed (R235). A frame that came back by loop-back has not passed the nodes beyond the one that
looped it: a node counts whose in-slot was written, or that lies before one whose in-slot was (log entry 117). -/
def lineFailed (d : Die) (seg : Nat) (tail : Bool) (r : RxBeat) : Bool :=
  let hops := hopsOf d seg r.slots ++ r.written
  let reached (i : Nat) : Bool := if !r.ret then true else if tail then hops.any (· ≤ i) else hops.any (i ≤ ·)
  !r.got || !r.good || !r.outSame || 2 ≤ (r.fails.filter fun i => nodeState d seg i == 2 && reached i).length

/-- The segment was whole in the beat (R240). -/
def wholeNow (d : Die) (seg : Nat) : Bool :=
  let s := segH d seg
  s.rxTail.got && s.rxHead.got && !s.rxTail.dir && s.rxHead.dir && !s.rxTail.ret && !s.rxHead.ret &&
    !lineFailed d seg true s.rxTail && !lineFailed d seg false s.rxHead

/-- Every slot of every admitted node was accepted at a port (R246). -/
def allIn (d : Die) (seg : Nat) (r : RxBeat) : Bool :=
  (slotsOf d seg).all fun x => nodeState d seg (slotHop d seg x.1) != 2 || r.slots.contains x.1

/-- The lowest hop position with a missing in-slot at a port, of the admitted nodes. -/
def lowestMissing (d : Die) (seg : Nat) (r : RxBeat) : Option Nat :=
  (admitted d seg).find? fun i => (slotsOf d seg).any fun x => slotHop d seg x.1 == i && !r.slots.contains x.1

/-- LSH_n_BREAK of a beat in two-line running (R240): the in-slots of the head line came with DIR = 0, those of the tail
line with DIR = 1, at whichever port. -/
def putBreak (d : Die) (seg : Nat) (whole : Bool) : Die :=
  let s := segH d seg
  let fwd (r : RxBeat) : List Nat := r.slots.filter fun x => !r.rev.contains x
  let h := (hopsOf d seg (fwd s.rxHead ++ fwd s.rxTail)).foldl (fun (m : Option Nat) i => some (max (m.getD i) i)) none
  let t := (hopsOf d seg (s.rxHead.rev ++ s.rxTail.rev)).foldl (fun (m : Option Nat) i => some (min (m.getD i) i)) none
  let d := setFld (setFld d (Reg.LSH_BREAK_LAST_H seg) (h.getD 63)) (Reg.LSH_BREAK_FIRST_T seg) (t.getD 63)
  updSeg d seg fun s => { s with lines := some (h, t, whole) }

/-- Every request outstanding on the segment completes PATH_LOST (R242, R244). -/
def pathLost (d : Die) (seg : Nat) : Die :=
  (upto (nNode d seg)).foldl (fun d i => mbxFlush d seg i 9 fun q => q.sent.isSome) d

/-- The fail-over decision at FCL of beat b + 1 (R242). -/
def failOver (d : Die) (seg : Nat) : Die :=
  let d := pathLost (tailPower d seg true) seg
  let d := setFld (setFlag (setFld d (Reg.LSH_PATH_STATE seg) 2) (Reg.LSH_PATH_FO seg)) (Reg.LSH_BREAK_BEAT seg) (beatNum d)
  logEvt (incReg d (Reg.LSH_CNT_FAILOVER seg)) 5 0x10 2 seg (beatNum d) 0

/-- A switch-back ends (R245): in RING with OK, or in TWOLINE with FAILED. -/
def returnEnd (d : Die) (seg : Nat) (ok : Bool) : Die :=
  let t := (segH d seg).swTicket
  let d := updSeg d seg fun s => { s with retBeat := none, swTicket := 0, wholeRun := 0, lines := none }
  let d := if ok then
      putReg (setFld (tailPower d seg false) (Reg.LSH_PATH_STATE seg) 0) (Reg.LSH_BREAK seg) 0x3F3F
    else setFld d (Reg.LSH_PATH_STATE seg) 3
  logEvt (complete d t (b2n (!ok)) 0 0) 5 0x12 0 seg (b2n (!ok)) (getReg d (Reg.LSH_PROOF seg)).toNat

/-- SWITCHBACK_END (R245): FCL of beat E + 15 was reached in RETURNING with no path-failed beat. -/
def returnDone (d : Die) (seg : Nat) : Die :=
  match (segH d seg).retBeat with
  | some e => if pathState d seg == 4 && e + 15 ≤ d.tb.k && d.tb.phase == 3 then returnEnd d seg true else d
  | none => d

/-- LEASH_SWITCHBACK (R245). -/
def switchback (d : Die) (seg ticket : Nat) : Die :=
  if (segH d seg).wholeRun < 16 then complete d ticket 0xA 0 0
  else updSeg (setFld d (Reg.LSH_PATH_STATE seg) 4) seg fun s => { s with retBeat := none, swTicket := ticket }

/-- A phase of the proof test is entered with its first beat (R246). -/
def proofPhase (d : Die) (seg p beat : Nat) : Die :=
  updSeg d seg fun s => { s with proof := p, proofBeat := beat, lines := none }

/-- A phase of the proof test failed (R246): its bit, and the hop position of the first failure. The hop position of a
failure with no frame lost and no in-slot missing is a free value (log entry 2). -/
def proofFail (d : Die) (seg : Nat) (lost : Bool) (hop : Option Nat) : Die :=
  let s := segH d seg
  let d := setFld d (Reg.LSH_PROOF_PHASE seg) (setBit (fld d (Reg.LSH_PROOF_PHASE seg)) (s.proof - 1))
  if !s.proofGood then d else
  let d := updSeg d seg fun s => { s with proofGood := false }
  if lost then setFld d (Reg.LSH_PROOF_HOP seg) 63 else
  match hop with
  | some i => setFld d (Reg.LSH_PROOF_HOP seg) i
  | none => let r := draw d; setFld r.2 (Reg.LSH_PROOF_HOP seg) (r.1.toNat % 64)

/-- The end of a proof test (R242, R246). -/
def proofEnd (d : Die) (seg : Nat) : Die :=
  let s := segH d seg
  let ok := s.proofGood
  let d := setFlag (setFld (tailPower d seg false) (Reg.LSH_PATH_STATE seg) 0) (Reg.LSH_PROOF_VALID seg)
  let w := (getReg d (Reg.LSH_PROOF seg)).toNat
  let d := complete d s.proofTicket (b2n (!ok)) w 0
  logEvt (updSeg d seg fun s => { s with proof := 0, proofTicket := 0 }) 5 0x12 0 seg (b2n (!ok)) w

/-- The next phase, or the end (R246). A phase that failed is followed by phase D; the tail section goes off for D. -/
def proofNext (d : Die) (seg : Nat) (failed : Bool) : Die :=
  let p := (segH d seg).proof
  if p = 4 then proofEnd d seg
  else if failed || p = 3 then proofPhase (tailPower d seg false) seg 4 (d.tb.k + 1)
  else proofPhase d seg (p + 1) (d.tb.k + 1)

/-- Judged beats of a phase (R246). -/
def judgedBeats (p : Nat) : Nat := if p = 4 then 16 else 64

/-- PROOF_PHASE_END (R246): the phase has had its settling and its judged beats. -/
def proofDone (d : Die) (seg : Nat) : Die :=
  let s := segH d seg
  if pathState d seg == 5 && s.proof != 0 && s.proofBeat + 3 + judgedBeats s.proof ≤ d.tb.k && d.tb.phase == 3 then
    proofNext d seg false
  else d

/-- A beat of the proof test at FCL (R246). -/
def proofJudge (d : Die) (seg : Nat) : Die :=
  let s := segH d seg
  let p := s.proof
  if d.tb.k < s.proofBeat + 4 then d else
  let miss (r : RxBeat) : Option Nat := lowestMissing d seg r
  let lo (a b : Option Nat) : Option Nat := match a, b with
    | some x, some y => some (min x y)
    | some x, none => some x
    | none, y => y
  let res : Bool × Bool × Option Nat :=
    if p = 1 then (wholeNow d seg && allIn d seg s.rxHead && allIn d seg s.rxTail, !s.rxHead.got || !s.rxTail.got,
      lo (miss s.rxHead) (miss s.rxTail))
    else if p = 2 then (!lineFailed d seg true s.rxTail && s.rxTail.ret && s.rxTail.dir && allIn d seg s.rxTail,
      !s.rxTail.got, miss s.rxTail)
    else if p = 3 then (!lineFailed d seg false s.rxHead && s.rxHead.ret && !s.rxHead.dir && allIn d seg s.rxHead,
      !s.rxHead.got, miss s.rxHead)
    else (!lineFailed d seg true s.rxTail, !s.rxTail.got, miss s.rxTail)
  if res.1 then proofDone d seg else proofNext (proofFail d seg res.2.1 res.2.2) seg true

/-- LEASH_PROOF is accepted (R246); not while Doze has the ports of the segment off (R385; log entry 153). -/
def proofOk (d : Die) (seg : Nat) : Bool :=
  powered d (42 + 2 * seg) && redund d seg && pathState d seg == 0 &&
    !(declAxes d).any fun a => fld d (Reg.AX_CFG_SEG a) == seg && (axState d a == 2 || axState d a == 3)

/-- LEASH_PROOF (R246): phase A starts the tail section as a fail-over does, so its first two-line beat is the second
edge from now (R243). -/
def proofStart (d : Die) (seg ticket : Nat) : Die :=
  let v := fld d (Reg.LSH_PROOF_VALID seg)
  let d := setFld (tailPower d seg true) (Reg.LSH_PATH_STATE seg) 5
  let d := setFld (putReg d (Reg.LSH_PROOF seg) 0) (Reg.LSH_PROOF_VALID seg) v
  proofPhase (updSeg d seg fun s => { s with proofTicket := ticket, proofGood := true }) seg 1 (d.tb.k + 2)

/-- SNAPSHOT_RESTORE (R234, R242, R246). -/
def restoreSnap (d : Die) (seg : Nat) (crcGood : Bool) : Die :=
  let snap := (segH d seg).snap
  if crcGood && snap.crc == snapCrc snap.words then d
  else if pathState d seg = 2 then
    logEvt (setFlag (setFld (tailPower d seg false) (Reg.LSH_PATH_STATE seg) 0) (Reg.LSH_PATH_FOFAIL seg)) 5 0x11 2 seg 0 0
  else if pathState d seg == 5 && (segH d seg).proof == 1 then
    let d := logEvt (setFlag d (Reg.LSH_PROOF_RESTORE seg)) 5 0x11 2 seg 0 0
    proofNext (proofFail d seg true none) seg true
  else d

/-- TWOLINE_LAUNCH (R242, R243): edge b + 3. -/
def twolineStart (d : Die) (seg : Nat) : Die :=
  if running d && d.tb.phase == 0 && pathState d seg == 2 && (segH d seg).failBeat + 3 ≤ d.tb.k then
    let d := updSeg (setFld d (Reg.LSH_PATH_STATE seg) 3) seg fun s => { s with wholeRun := 0, lines := none }
    launchAs d seg (launchForm d seg)
  else d

/-- Count a frame not received by FCL (R221). -/
def noteNoFrame (d : Die) (seg : Nat) (sent : Bool) (r : RxBeat) : Die :=
  if sent && !r.got then incReg (setFlag d (Reg.LSH_SSTAT_NOFRAME seg)) (Reg.LSH_CNT_NOFRAME seg) else d

/-- The judgement of a segment's beat and the evaluation of its path state at FCL (R235, R240, R242). -/
def judgeSeg (d : Die) (seg : Nat) : Die :=
  if !segOn d seg then d else
  let s := segH d seg
  let two := twoLine d seg
  let starting := pathState d seg == 2 && s.failBeat + 3 ≤ d.tb.k
  let expTail := !starting && (!two || s.proof != 3)
  let expHead := !starting && two && s.proof != 2
  let d := noteNoFrame (noteNoFrame d seg expTail s.rxTail) seg expHead s.rxHead
  let failed := (expTail && lineFailed d seg true s.rxTail) || (expHead && lineFailed d seg false s.rxHead)
  let d := if failed then incReg d (Reg.LSH_CNT_PATHFAIL seg) else d
  if !redund d seg then d else
  let whole := two && expHead && expTail && wholeNow d seg
  let d := putFlag d (Reg.LSH_PATH_WHOLE seg) whole
  let d := if two then putBreak d seg whole else d
  let d := updSeg d seg fun s => { s with wholeRun := if whole then s.wholeRun + 1 else 0 }
  let d := match pathState d seg with
    | 0 => if failed then updSeg (setFld d (Reg.LSH_PATH_STATE seg) 1) seg fun s => { s with failBeat := d.tb.k } else d
    | 1 => if failed then failOver d seg else setFld d (Reg.LSH_PATH_STATE seg) 0
    | 3 => if failed then setFlag d (Reg.LSH_PATH_LINEFAIL seg) else d
    | 4 => if two then (if failed then setFlag d (Reg.LSH_PATH_LINEFAIL seg) else d)
      else if failed then returnEnd d seg false else returnDone d seg
    | 5 => proofJudge d seg
    | _ => d
  putSnap d seg

/-- SNAPSHOT_RESTORE (R242). -/
def execSnapshotRestore (seg : Fin 4) (crcGood : Bool) (s : State) : Host.Outcome State Fault Refusal :=
  onDie (restoreSnap · seg.val crcGood) s

/-- TWOLINE_LAUNCH (R243). -/
def execTwolineLaunch (seg : Fin 4) (s : State) : Host.Outcome State Fault Refusal := onDie (twolineStart · seg.val) s

/-- SWITCHBACK_END (R245): frame close has normally made this change; it is made here where it is due. -/
def execSwitchbackEnd (seg : Fin 4) (s : State) : Host.Outcome State Fault Refusal := onDie (returnDone · seg.val) s

/-- PROOF_PHASE_END (R246): frame close has normally made this change; it is made here where it is due. -/
def execProofPhaseEnd (seg : Fin 4) (s : State) : Host.Outcome State Fault Refusal := onDie (proofDone · seg.val) s

end Sys2Proof.Machine
end

