-- ==== Sys2Proof/Machine/Can.lean ====
section
/-! DEFINITION. The CAN FD controllers (R315 to R327): modes and bus-off, transmit buffers, filters, the receive FIFO and
timestamps. The error counters move by the rules of ISO 11898-1 (log entry 90). -/

namespace Sys2Proof.Machine

/-- STATE of a controller: 0 OFF, 1 SYNC, 2 ACTIVE, 3 RESTRICTED, 4 BUSOFF, 5 RECOVER. -/
def canState (d : Die) (n : Nat) : Nat := fld d (Reg.CAN_STAT_STATE n)

/-- Store STATE. -/
def canSetState (d : Die) (n s : Nat) : Die := setFld d (Reg.CAN_STAT_STATE n) s

/-- The stamp of a frame whose SOF edge is seen at a GT (R327). -/
def canStamp (tSof : Nat) : Nat := (tSof - 50) / 1000 % 2 ^ 32

/-- The level of the CANn_TX ball (R401, R411): recessive while the controller is OFF, else `bit`, the bit that ISO 11898-1 has it
send now (log entry 156). -/
def canTxBall (d : Die) (n : Nat) (bit : Bool) : Option Bool :=
  scanBall d (146 + 2 * n) (some (canState d n == 0 || bit))

/-- Data bytes a frame carries (R323). -/
def canBytes (fdf rtr : Bool) (dlc : Nat) : Nat :=
  if rtr then 0
  else if fdf then nth [0, 1, 2, 3, 4, 5, 6, 7, 8, 12, 16, 20, 24, 32, 48, 64] dlc
  else min dlc 8

/-- A transmit buffer ends with an outcome (R325). -/
def txbEnd (d : Die) (n b outcome : Nat) : Die :=
  let d := setFld (setFld d (Reg.TXB_CTL_REQ n b) 0) (Reg.TXB_CTL_OUTCOME n b) outcome
  updCan (setFlag d (Reg.CAN_STAT_TXDONE n)) n fun h =>
    { h with aborting := vset h.aborting b false, offered := if h.offered = some b then none else h.offered }

/-- Every pending request of a controller ends with an outcome (R320). -/
def canEndAll (d : Die) (n outcome : Nat) : Die :=
  forEach (upto 3) d fun d b => if flag d (Reg.TXB_CTL_REQ n b) then txbEnd d n b outcome else d

/-- TEC := 0 and REC := 0, so error-active again (R320). -/
def canZero (d : Die) (n : Nat) : Die :=
  setFld (setFld (setFld d (Reg.CAN_ERR_TEC n) 0) (Reg.CAN_ERR_REC n) 0) (Reg.CAN_ERR_EP n) 0

/-- Whether a write of CAN_n_CTL is legal: 0b11 is not, RECOVER needs BUSOFF, and NORMAL or RESTRICTED does not fit
BUSOFF or RECOVER (R320). -/
def canCtlOk (d : Die) (n v : Nat) : Bool :=
  let req := v % 4
  let st := canState d n
  req != 3 && !(bitOf v 2 && st != 4) && !((req == 1 || req == 2) && (st == 4 || st == 5))

/-- A write of CTL.REQ (R320): 0 OFF, 1 NORMAL, 2 RESTRICTED. -/
def canReq (d : Die) (n req : Nat) : Die :=
  let st := canState d n
  let mode := if req = 1 then 2 else 3
  if req = 0 then
    if st = 0 then d else
    updCan (canSetState (canEndAll d n 2) n 0) n fun h =>
      { h with modeReq := none, offered := none, out := none, wait := false }
  else if st = 0 then
    if d.boot.loaded then updCan (canSetState d n 1) n fun h => { h with target := mode, modeReq := none } else d
  else if st = 2 ∨ st = 3 then
    updCan d n fun h => { h with modeReq := if mode = st then none else some mode }
  else d

/-- An accepted write of CAN_n_CTL: RECOVER, or REQ (R320; log entry 91). -/
def canCtl (d : Die) (n v : Nat) : Die :=
  if bitOf v 2 then canSetState d n 5 else canReq d n (v % 4)

/-- Bit timing that R318 allows: NBT and DBT words, BRSE. -/
def canTimingOk (nbt dbt : Nat) (brse : Bool) : Bool :=
  let brp := bitsOf nbt 0 5 + 1
  let t1 := bitsOf nbt 5 8 + 1
  let t2 := bitsOf nbt 13 7 + 1
  let sjw := bitsOf nbt 20 7 + 1
  let dbrp := bitsOf dbt 0 5 + 1
  let dt1 := bitsOf dbt 5 5 + 1
  let dt2 := bitsOf dbt 10 4 + 1
  let dsjw := bitsOf dbt 14 4 + 1
  let nt := brp * (1 + t1 + t2)
  let dt := dbrp * (1 + dt1 + dt2)
  80 ≤ nt && 10 ≤ dt && sjw ≤ t1 && sjw ≤ t2 && dsjw ≤ dt1 && dsjw ≤ dt2 && !(bitOf dbt 25 && 2 < dbrp) &&
    !(brse && nt < dt)

/-- A host write of NBT (`data` false) or DBT is legal: the timing of R318, and the controller OFF. -/
def canBitOk (d : Die) (n : Nat) (data : Bool) (v : Nat) : Bool :=
  canState d n == 0 &&
  canTimingOk (if data then (getReg d (Reg.CAN_NBT n)).toNat else v)
    (if data then v else (getReg d (Reg.CAN_DBT n)).toNat) (flag d (Reg.CAN_CFG_BRSE n))

/-- Buffer contents that may be requested (R323). -/
def txbContentOk (d : Die) (n b : Nat) : Bool :=
  let fdf := flag d (Reg.TXB_FRM_FDF n b)
  let brs := flag d (Reg.TXB_FRM_BRS n b)
  !(fdf && flag d (Reg.TXB_FRM_RTR n b)) && !(brs && !fdf) && !(brs && !flag d (Reg.CAN_CFG_BRSE n)) &&
    !(fdf && !flag d (Reg.CAN_CFG_FDOE n))

/-- A write of TXB_b_CTL is legal (R321, R323). -/
def txbCtlOk (d : Die) (n b v : Nat) : Bool :=
  !bitOf v 0 || (!flag d (Reg.TXB_CTL_REQ n b) && canState d n != 3 && txbContentOk d n b)

/-- A write of ABORT: at once off the bus, at the frame's end on it (R325). -/
def txbAbortDo (d : Die) (n b : Nat) : Die :=
  if !(flag d (Reg.TXB_CTL_REQ n b)) then d
  else if (canH d n).offered = some b then updCan d n fun h => { h with aborting := vset h.aborting b true }
  else txbEnd d n b 2

/-- An accepted write of TXB_b_CTL: ONESHOT stored, then REQ, then ABORT (R323, R325). -/
def txbCtl (d : Die) (n b v : Nat) : Die :=
  let d := setFld d (Reg.TXB_CTL_ONESHOT n b) (v / 4 % 2)
  let d := if bitOf v 0 then setFlag d (Reg.TXB_CTL_REQ n b) else d
  if bitOf v 1 then txbAbortDo d n b else d

/-- RXF_POP removes the head entry; ignored when the FIFO is empty (R326). -/
def canPop (d : Die) (n : Nat) : Die := updCan d n fun h => { h with fifo := h.fifo.drop 1 }

/-- The arbitration key of a buffer (R324). -/
def canKey (d : Die) (n b : Nat) : Nat :=
  let id := fld d (Reg.TXB_ID_ID n b)
  let rtr := b2n (flag d (Reg.TXB_FRM_RTR n b) && !flag d (Reg.TXB_FRM_FDF n b))
  if flag d (Reg.TXB_FRM_IDE n b) then bitsOf id 18 11 * 2 ^ 21 + 3 * 2 ^ 19 + bitsOf id 0 18 * 2 + rtr
  else bitsOf id 0 11 * 2 ^ 21 + rtr * 2 ^ 20

/-- The buffer to offer: the lowest number, or the lowest key and on equal keys the lowest number (R324). -/
def canPick (d : Die) (n : Nat) : Option Nat :=
  let pend := (upto 3).filter fun b => flag d (Reg.TXB_CTL_REQ n b)
  if flag d (Reg.CAN_CFG_TXPRIO n) then pend.head?
  else
    let better (best : Option Nat) (b : Nat) : Option Nat :=
      match best with
      | none => some b
      | some x => if canKey d n b < canKey d n x then some b else some x
    pend.foldl better none

/-- The frame that a buffer sends (R315, R323): the DLC as written with the bytes it carries, and in an FD frame the node's
error state in ESI. -/
def txbFrame (d : Die) (n b : Nat) : CanFrame :=
  let ide := flag d (Reg.TXB_FRM_IDE n b)
  let rtr := flag d (Reg.TXB_FRM_RTR n b)
  let fdf := flag d (Reg.TXB_FRM_FDF n b)
  let dlc := fld d (Reg.TXB_FRM_DLC n b)
  let id := fld d (Reg.TXB_ID_ID n b)
  let data := (upto 16).flatMap fun j => leBytes 4 (getReg d (Reg.TXB_DATA n b j)).toNat
  { id := BitVec.ofNat 29 (if ide then id else id % 2 ^ 11), ide := ide, rtr := rtr, fdf := fdf,
    brs := flag d (Reg.TXB_FRM_BRS n b), esi := fdf && flag d (Reg.CAN_ERR_EP n), dlc := BitVec.ofNat 4 dlc,
    data := data.take (canBytes fdf rtr dlc) }

/-- CAN_TX_START (R324): an ACTIVE controller with nothing on the bus offers the buffer of `canPick`. -/
def canTxStart (n : Nat) (d : Die) : Die :=
  if powered d (74 + n) && canState d n == 2 && (canH d n).offered == none && !(canH d n).wait then
    match canPick d n with
    | some b => updCan d n fun h => { h with offered := some b, out := some (.frame (txbFrame d n b)) }
    | none => d
  else d

/-- CAN clocks from a bit's start on CANn_TX to its secondary sample point, before the limit of 127 (R319). -/
def canSsp (d : Die) (n delay : Nat) : Nat := delay + fld d (Reg.CAN_DBT_TDCO n)

/-- The transmitter delay measured in a BRS frame (R319). -/
def canTdc (d : Die) (n b : Nat) (delay : Option Nat) : Die :=
  match delay with
  | some t =>
    if flag d (Reg.CAN_DBT_TDC_EN n) && flag d (Reg.TXB_FRM_BRS n b) then
      let d := setFld d (Reg.CAN_TDCR_DELAY n) (min t 127)
      if 127 < canSsp d n t then setFlag d (Reg.CAN_TDCR_SAT n) else d
    else d
  | none => d

/-- TEC and REC, and with them EP and EPASS: error-passive above 127 (R320, ISO 11898-1). -/
def canCounters (d : Die) (n tec rec : Nat) : Die :=
  let was := flag d (Reg.CAN_ERR_EP n)
  let ep := 127 < tec || 127 < rec
  let d := setFld (setFld d (Reg.CAN_ERR_TEC n) (min tec 255)) (Reg.CAN_ERR_REC n) (min rec 255)
  let d := putFlag d (Reg.CAN_ERR_EP n) ep
  if ep && !was then setFlag d (Reg.CAN_STAT_EPASS n) else d

/-- A frame was sent without error: TEC falls by 1, not below 0 (ISO 11898-1; log entry 90). -/
def canSentOk (d : Die) (n : Nat) : Die :=
  canCounters d n (fld d (Reg.CAN_ERR_TEC n) - 1) (fld d (Reg.CAN_ERR_REC n))

/-- A frame was received without error in ACTIVE: REC falls by 1, not below 0; from above 127 it goes to a value from 119
to 127 that the standard leaves open (ISO 11898-1; log entry 90). -/
def canGotOk (d : Die) (n : Nat) : Die :=
  let rec_ := fld d (Reg.CAN_ERR_REC n)
  let tec := fld d (Reg.CAN_ERR_TEC n)
  if canState d n ≠ 2 then d
  else if rec_ ≤ 127 then canCounters d n tec (rec_ - 1)
  else
    let r := draw d
    canCounters r.2 n tec (119 + r.1.toNat % 9)

/-- Record what the controller sends (R315, R321). -/
def canSend (d : Die) (n : Nat) (o : CanOut) : Die := updCan d n fun h => { h with out := some o }

/-- Entry into BUSOFF (R320): CANn_TX is recessive. -/
def canBusOff (d : Die) (n : Nat) : Die :=
  let d := updCan (canSetState (canEndAll d n 3) n 4) n fun h =>
    { h with modeReq := none, offered := none, out := none, wait := false }
  let d := incReg (setFlag d (Reg.CAN_STAT_BOFF n)) (Reg.CAN_CNT_BUSOFF n)
  logEvt d 7 1 2 n (getReg d (Reg.CAN_ERR n)).toNat 0

/-- The steps of TEC and of REC at an error, for a transmitter or a receiver (ISO 11898-1, fault confinement; log
entry 90). -/
def canSteps (transmitter : Bool) (what : CanErr) : Nat × Nat :=
  match what, transmitter with
  | .detected, true => (8, 0)
  | .exempt, true => (0, 0)
  | .detected, false => (0, 1)
  | .exempt, false => (0, 1)
  | .inFlag, true => (8, 0)
  | .inFlag, false => (0, 8)
  | .overload, _ => (0, 0)

/-- An error in ACTIVE (R316, R320): the node sends an error flag of the state it has before the counters move, unless the
error falls within a flag; TEC above 255 is BUSOFF. -/
def canActiveError (d : Die) (n : Nat) (transmitter : Bool) (what : CanErr) : Die :=
  let d := if what = .inFlag then d else canSend d n (.errorFlag (flag d (Reg.CAN_ERR_EP n)))
  let tec := fld d (Reg.CAN_ERR_TEC n) + (canSteps transmitter what).1
  let d := canCounters d n tec (fld d (Reg.CAN_ERR_REC n) + (canSteps transmitter what).2)
  if 255 < tec then canBusOff d n else d

/-- A controller that takes part meets an error with a code, 0 for none, or an overload condition (R316, R320, R321): in
RESTRICTED it sends nothing, its counters stand and after an error it waits for bus idle. -/
def canError (d : Die) (n code : Nat) (transmitter : Bool) (what : CanErr) : Die :=
  if what = .overload then if canState d n = 2 then canSend d n .overloadFlag else d
  else
    let d := if code = 0 then d else setFld d (Reg.CAN_ERR_LEC n) code
    if canState d n = 2 then canActiveError d n transmitter what else updCan d n fun h => { h with wait := true }

/-- A receiver meets an error (R316, R321). -/
def canRxError (d : Die) (n code : Nat) : Die := canError d n code false .detected

/-- The buffer whose frame lost arbitration or met an error: ABORTED, ONESHOT, or pending again (R325). A controller that this
error took to BUSOFF has ended it already (R320). -/
def txbFail (d : Die) (n b : Nat) : Die :=
  if canState d n = 4 then d
  else if vget false (canH d n).aborting b then txbEnd d n b 2
  else if flag d (Reg.TXB_CTL_ONESHOT n b) then txbEnd d n b 4
  else updCan d n fun h => { h with offered := none }

/-- CAN_TX_END (R319, R320, R325, R327): the frame on the bus succeeds, loses arbitration or meets an error, at which the
counters move as in CAN_BUS_ERROR. -/
def canTxEnd (n : Nat) (how : CanTxHow) (tSof : Nat) (delay : Option Nat) (d : Die) : Die :=
  match (canH d n).offered with
  | none => d
  | some b =>
    match how with
    | .success =>
      let d := canSentOk (canTdc d n b delay) n
      let d := putReg d (Reg.TXB_TS n b) (BitVec.ofNat 32 (canStamp tSof))
      txbEnd (incReg d (Reg.CAN_CNT_TXOK n)) n b 1
    | .lostArbitration => txbFail d n b
    | .error code exempt =>
      txbFail (canError (canTdc d n b delay) n code.val true (if exempt then .exempt else .detected)) n b

/-- A controller that hears the bus: powered, ACTIVE or RESTRICTED, and not waiting for recessive bits. -/
def canHears (d : Die) (n : Nat) : Bool :=
  powered d (74 + n) && (canState d n == 2 || canState d n == 3) && !(canH d n).wait

/-- CAN_BUS_ERROR (R320, R321): an error or an overload condition other than the error that ends a frame of the controller's
own, which CAN_TX_END reports (log entry 90). One that waits for recessive bits takes no part (R316, R321). -/
def canBusError (n code : Nat) (transmitter : Bool) (what : CanErr) (d : Die) : Die :=
  if canHears d n then canError d n code transmitter what else d

/-- PROTOCOL_EXCEPTION, a recessive res bit after FDF (R316): with PXE = 1 it is counted, no error frame goes out, the error
counters stay and the controller waits for 11 recessive bits; with PXE = 0, or FDOE = 0 and so FDF in error already, it is
a form error. -/
def protocolException (n : Nat) (d : Die) : Die :=
  if !canHears d n then d
  else if flag d (Reg.CAN_CFG_FDOE n) && flag d (Reg.CAN_CFG_PXE n) then
    updCan (incReg d (Reg.CAN_CNT_PXE n)) n fun h => { h with wait := true }
  else canRxError d n 2

/-- CAN_SYNC_DONE (R316, R320, R321): 11 consecutive recessive bits end SYNC, and every wait for them. -/
def canSyncDone (n : Nat) (d : Die) : Die :=
  if canState d n = 1 then canZero (canSetState d n (canH d n).target) n
  else updCan d n fun h => { h with wait := false }

/-- CAN_RECOVERY_DONE (R320): BOFF stays set until cleared. -/
def canRecoveryDone (n : Nat) (d : Die) : Die :=
  if canState d n = 5 then canZero (canSetState d n 2) n else d

/-- CAN_MODE_CHANGE_AT_IDLE (R320, R321): a recorded change between ACTIVE and RESTRICTED takes effect at bus idle, which also
ends a wait for it. -/
def canModeChangeAtIdle (n : Nat) (d : Die) : Die :=
  let d := updCan d n fun h => { h with wait := false }
  match (canH d n).modeReq with
  | some m =>
    if (canH d n).offered = none ∧ (canState d n = 2 ∨ canState d n = 3) then
      updCan (canSetState d n m) n fun h => { h with modeReq := none }
    else d
  | none => d

/-- Whether filter f matches (R326). -/
def canMatch (d : Die) (n id : Nat) (ide : Bool) (f : Nat) : Bool :=
  let w := if ide then 29 else 11
  flag d (Reg.CAN_FLT_ID_VALID n f) && flag d (Reg.CAN_FLT_ID_IDE n f) == ide &&
    bitsOf ((id ^^^ fld d (Reg.CAN_FLT_ID_ID n f)) &&& fld d (Reg.CAN_FLT_MASK_MASK n f)) 0 w == 0

/-- The filter number a frame is accepted with, if any (R326). -/
def canFilter (d : Die) (n id : Nat) (ide : Bool) : Option Nat :=
  match (upto 32).find? (canMatch d n id ide) with
  | some f => some f
  | none => if flag d (Reg.CAN_CFG_ACCNONE n) then some 0x3F else none

/-- A FIFO entry: identifier, frame word, stamp, 16 data words (R326). -/
def canEntry (f : CanFrame) (filter stamp : Nat) : List Nat :=
  let len := canBytes f.fdf f.rtr f.dlc.toNat
  let data := padTo 64 (padTo len f.data)
  let id := if f.ide then f.id.toNat else f.id.toNat % 2 ^ 11
  let frm := f.dlc.toNat + 16 * b2n f.ide + 32 * b2n f.rtr + 64 * b2n f.fdf + 128 * b2n f.brs + 256 * b2n f.esi +
    65536 * filter
  id :: frm :: stamp :: (upto 16).map fun j => leAt data (4 * j) 4

/-- The acknowledgement of a frame received without error, in ACTIVE (R315, R321). -/
def canAck (d : Die) (n : Nat) : Die := if canState d n = 2 then canSend d n .ack else d

/-- CAN_FRAME_RECEIVED (R315, R316, R326, R327): an FD frame with FDOE = 0 is a form error, a switched bit rate with BRSE = 0 an
error whose code is a free value (log entry 129); every other frame is acknowledged, counted, filtered, and stored or lost
to overrun. -/
def canFrameReceived (n : Nat) (f : CanFrame) (tSof : Nat) (d : Die) : Die :=
  if !canHears d n then d
  else if f.fdf && !flag d (Reg.CAN_CFG_FDOE n) then canRxError d n 2
  else if f.brs && !flag d (Reg.CAN_CFG_BRSE n) then canRxError (draw d).2 n (1 + (draw d).1.toNat % 6)
  else
    let d := canAck (canGotOk (incReg d (Reg.CAN_CNT_RXOK n)) n) n
    let id := if f.ide then f.id.toNat else f.id.toNat % 2 ^ 11
    match canFilter d n id f.ide with
    | none => d
    | some flt =>
      if 64 ≤ (canH d n).fifo.length then setFlag (incReg d (Reg.CAN_CNT_RXOVR n)) (Reg.CAN_STAT_RXOVR n)
      else
        let d := updCan d n fun h => { h with fifo := h.fifo ++ [canEntry f flt (canStamp tSof)] }
        maxFld d (Reg.CAN_RXF_STAT_PEAK n) (canH d n).fifo.length

/-- CAN_FRAME_RECEIVED (R326). -/
def execCanFrameReceived (n : Fin 4) (f : CanFrame) (tSof : QWord) (s : State) : Host.Outcome State Fault Refusal :=
  onDie (canFrameReceived n f tSof.toNat) s

/-- CAN_TX_END (R325). -/
def execCanTxEnd (n : Fin 4) (how : CanTxHow) (tSof : QWord) (delay : Option Nat) (s : State) :
    Host.Outcome State Fault Refusal :=
  onDie (canTxEnd n how tSof.toNat delay) s

/-- CAN_BUS_ERROR (R320). -/
def execCanBusError (n : Fin 4) (code : Fin 7) (transmitter : Bool) (what : CanErr) (s : State) :
    Host.Outcome State Fault Refusal :=
  onDie (canBusError n code.val transmitter what) s

/-- PROTOCOL_EXCEPTION (R316). -/
def execProtocolException (n : Fin 4) (s : State) : Host.Outcome State Fault Refusal :=
  onDie (protocolException n) s

/-- CAN_SYNC_DONE (R320). -/
def execCanSyncDone (n : Fin 4) (s : State) : Host.Outcome State Fault Refusal := onDie (canSyncDone n) s

/-- CAN_RECOVERY_DONE (R320). -/
def execCanRecoveryDone (n : Fin 4) (s : State) : Host.Outcome State Fault Refusal := onDie (canRecoveryDone n) s

/-- CAN_MODE_CHANGE_AT_IDLE (R320). -/
def execCanModeChangeAtIdle (n : Fin 4) (s : State) : Host.Outcome State Fault Refusal :=
  onDie (canModeChangeAtIdle n) s

/-- CAN_TX_START (R324). -/
def execCanTxStart (n : Fin 4) (s : State) : Host.Outcome State Fault Refusal := onDie (canTxStart n) s

end Sys2Proof.Machine
end

