-- ==== Sys2Proof/Machine/Beat.lean ====
section
/-! DEFINITION. The edge of a beat, frame close and the step of GT (R20, R21, R28, R31, R35 to R38, R49). -/

namespace Sys2Proof.Machine

/-- The index of the beat edge that is due (R17, R20): the next one, or the first after the loader finished. -/
def edgeDue (d : Die) : Option Nat :=
  if running d then (if d.tb.phase = 3 then some (d.tb.k + 1) else none)
  else d.tb.finished.map fun t => beatAt (hz d) t + 1

/-- BEAT_LOAD_n and BEAT_PEAK_n of the beat that ends, without the busy cycles after its end (R37). -/
def publishLoads (d : Die) : Die :=
  (upto 16).foldl (fun d e =>
    let n := (engH d e).beatBusy - (engH d e).busyFrom d.tb.cyc
    maxFld (setFld d (Reg.BEAT_LOAD_BUSY e) n) (Reg.BEAT_PEAK_PEAK e) n) d

/-- The count of a beat runs from its edge on (R37). -/
def startLoads (d : Die) : Die :=
  (upto 16).foldl (fun d e => updEng d e fun g => { g with beatBusy := g.busyFrom d.tb.cyc }) d

/-- MIN_SLACK with the slack of the beat that ends (R38). -/
def publishSlack (d : Die) : Die :=
  let d := match d.tb.slack with
    | some s => if s < fld d Reg.BEAT_MARGIN_MIN_SLACK then setFld d Reg.BEAT_MARGIN_MIN_SLACK s else d
    | none => d
  updTb d fun t => { t with slack := none, fixedEnd := none, fixedRel := false, ovrBeat := false }

/-- Host writes take effect (R31, R32): all but those that wait for their high word. A low word written again since its
high word still waits, and what it held when the high word was written comes into force now. -/
def landWrites (d : Die) : Die :=
  { d with held := (d.held.filter fun x => d.heldLow.contains x.1).map fun x =>
             (x.1, match sget none d.land x.1 with
               | some w => some w
               | none => x.2),
           land := [] }

/-- The marks of an axis that belong to one beat start afresh; a CLR written in the last beat counts (R31, R123). -/
def axisEdge (d : Die) (a : Nat) : Die :=
  updAx d a fun h => { h with inSlot := false, fresh := false, clr := h.clr || h.clrNew, clrNew := false }

/-- SHED_CLEAR acts (R49). -/
def shedClearNow (d : Die) : Die :=
  if d.host.shedClear.isEmpty then d else
  let d := putFlag d Reg.BEAT_STAT_SHED_C false
  let d := (declAxes d).foldl (fun d a => updAx d a fun h => { h with stale := [], staleRun := 0 }) d
  let d := d.host.shedClear.foldl (fun d t => complete d t 0 0 0) d
  updHost d fun h => { h with shedClear := [] }

/-- Entry into Doze begins: the CAN controllers go OFF, and their pending requests end ABORTED (R386). -/
def dozeBegin (d : Die) : Die :=
  forEach (upto 4) (setFld d Reg.PWR_STAT_MODE 2) fun d n => if flag d (Reg.CAN_CFG_DECL n) then canReq d n 0 else d

/-- BEAT_EDGE (R20, R28, R36). Entry into Doze begins at the edge after its request; in Doze no event is posted (R386), and after
it from the first edge on (R387). -/
def beatEdge (d : Die) : Die :=
  match edgeDue d with
  | none => d
  | some k =>
    let d := toGt d (edgeGt (hz d) k)
    let d := startLoads (if running d then publishSlack (publishLoads d) else setFlag d Reg.BEAT_CFG_RUN)
    let d := putReg (updTb d fun t => { t with k := k, phase := 0 }) Reg.BEAT_NUM (BitVec.ofNat 32 k)
    let d := shedClearNow (landWrites d)
    let d := (declAxes d).foldl axisEdge d
    let d := masterEdge d
    let d := captureEdge (stepEdge (axSettle 1 d.tb.cyc d (gearEdge d)))
    let d := (upto 4).foldl (fun d s => launchSeg (putSnap (nodesAtEdge d s) s) s) d
    let d := updPwr (if d.pwr.dozeReq && !d.pwr.hibReq && fld d Reg.PWR_STAT_MODE == 0 then dozeBegin d else d) fun p => { p with mute := false }
    if posting d then noteBlocked (kpost d 0 (.edge k)).1 else d

/-- FRAME_CLOSE (R35, R137, R235, R242). -/
def frameClose (d : Die) : Die :=
  if !running d || d.tb.phase ≠ 2 then d else
  let d := toGt d (inBeat d (fld d Reg.BEAT_FCL_VALUE))
  let d := updTb d fun t => { t with phase := 3 }
  (upto 4).foldl judgeSeg (gearCopy d)

/-- A beat index moved with a step of GT, so that the beats that have passed since stay the same. -/
def moved (by_ : Int) (k : Nat) : Nat := (k + by_).toNat

/-- A GT noted in the state moved with a step of GT. -/
def movedGt (by_ : Int) (t : Nat) : Nat := ((t : Int) + by_).toNat

/-- The samples, marks and stamps of a local master move with a step of GT, so that they keep their place among the edges;
the samples of a trunk source carry the trunk's numbers already (log entry 112). -/
def moveMaster (d : Die) (x ns : Int) : Die :=
  let m := moved x
  let g := movedGt ns
  let sm (s : Sample) : Sample := { s with s := m s.s, got := g s.got }
  let loc := mstSrc d != 6
  updMst d fun t =>
    { t with samples := if loc then t.samples.map sm else t.samples.map fun s => { s with got := g s.got },
             start := if loc then t.start.map m else t.start, vm := sm t.vm,
             ma := t.ma.map fun a => { a with codes := a.codes.map fun y => (g y.1, y.2) },
             mp := t.mp.map fun p => { p with stamp := g p.stamp, hist := p.hist.map fun h => (m h.1, h.2.1, g h.2.2) },
             ackEdge := t.ackEdge.map m, ran := t.ran.map m,
             trims := t.trims.map fun y => (y.1, y.2.1, g y.2.2), trimClr := t.trimClr.map fun y => (y.1, m y.2) }

/-- The beats in which the unfinished tasks were released move with a step of GT, so that each keeps its age (R46; log entry
51). -/
def moveTasks (d : Die) (m : Nat → Nat) : Die :=
  let t (x : Task) : Task := { x with beat := m x.beat }
  let d := { d with eng := d.eng.map fun g => { g with active := g.active.map t, other := g.other.map t } }
  updKnl d fun k => { k with ready := k.ready.map fun y => (y.1, y.2.map t) }

/-- The beats noted in the state move with a step of GT: what is measured in beats keeps running. -/
def moveBeats (d : Die) (x : Int) : Die :=
  let m := moved x
  let d := updTb (moveTasks d m) fun t => { t with ovr := t.ovr.map m, endA := t.endA.map m, endB := t.endB.map m }
  let d := (declAxes d).foldl (fun d a => updAx d a fun h =>
    { h with lastAcc := h.lastAcc.map m, prevAcc := h.prevAcc.map m, stale := h.stale.map m, stopBeat := m h.stopBeat,
             fb := h.fb.map fun y => (m y.1, y.2),
             stage := { h.stage with ranBeat := h.stage.ranBeat.map m, lastMove := h.stage.lastMove.map m,
                                     limBeat := h.stage.limBeat.map m } }) d
  let gear (g : GearSt) : GearSt := { g with homed := g.homed.map fun h => (m h.1, h.2) }
  let node (n : Node) : Node :=
    { n with queue := n.queue.map fun q => { q with sent := q.sent.map m, last := q.last.map m } }
  let d := { d with gear := d.gear.map (fun y => (y.1, gear y.2)), nodes := d.nodes.map (fun y => (y.1, node y.2)) }
  (upto 4).foldl (fun d s => updSeg d s fun g =>
    { g with failBeat := m g.failBeat, proofBeat := m g.proofBeat, retBeat := g.retBeat.map m }) d

/-- The mark samples keep their order at a step of GT (R167, R170): the next one is the first due from the new GT on, and the
indices held move with it. A record that is not complete keeps the instants of its trigger, and notes by how much the
beats move (log entry 141). -/
def moveCapture (d : Die) (gt : Nat) (by_ x : Int) : Die :=
  let g := movedGt x
  let g0 (t : Nat) : Nat := if t = 0 then 0 else g t
  let next := cdiv gt 50
  let sx : Int := (next : Int) - max d.cap.next (cdiv d.tb.gt 50)
  let acq (a : Acq) : Acq :=
    { a with due := g a.due, dueBeat := moved by_ a.dueBeat, nextI := a.nextI + sx, beats := a.beats + by_ }
  updCap d fun c =>
    { c with next := next,
             marks := c.marks.map fun m =>
               { m with hold := m.hold.map g0, hist := m.hist.map fun y => (y.1 + sx, y.2) },
             chans := c.chans.map fun h =>
               { h with acq := h.acq.map acq, pend := h.pend.map acq, last := h.last.map (· + sx),
                        cross := h.cross.map fun i => ((i : Int) + sx).toNat },
             xtPull := c.xtPull.map fun o => o.map g, xtLow := c.xtLow.map g0, xtCnt := c.xtCnt.map g0 }

/-- The instants noted in the state move with a step of GT: durations that run keep their lengths. -/
def moveGts (d : Die) (x : Int) : Die :=
  let g := movedGt x
  let d := updTb d fun t => { t with finished := t.finished.map g, fixedEnd := t.fixedEnd.map g }
  let d := updTrk d fun t =>
    { t with ports := t.ports.map fun p => { p with busyUntil := ((p.busyUntil : Int) + 5 * 256 * x).toNat },
             hreqAt := g t.hreqAt, hreqs := t.hreqs.map fun y => (g y.1, y.2), read := t.read.map fun r => (r.1, r.2.1, r.2.2.1, r.2.2.2.1, g r.2.2.2.2),
             members := t.members.map fun y =>
               (y.1, { y.2 with writes := y.2.writes.map fun w => { w with sent := w.sent.map g } }) }
  let d := updHost d fun h => { h with holdEnd := h.holdEnd.map g, cfgReady := g h.cfgReady }
  updBoot d fun b => { b with armUntil := b.armUntil.map g }

/-- A step of GT is due (R21, R22): the trunk asks for one, no axis is Enabled or Stopping, and the part is at a beat edge. -/
def stepDue (d : Die) : Option Int :=
  if anyMoving d || !running d || !(d.tb.phase == 0 && d.tb.gt ≤ inBeat d 2) then none else d.tb.step

/-- GT_STEP (R21, R231, R272). The frames launched at this edge carry the new BEAT_NUM. -/
def gtStep (d : Die) : Die :=
  match stepDue d with
  | none => d
  | some x =>
    let gt := ((d.tb.gt : Int) + x).toNat
    let k0 := d.tb.k
    let k := beatAt (hz d) gt
    let d := moveCapture d gt ((k : Int) - k0) x
    let d := setFlag (updTb d fun t => { t with gt := gt, step := none }) Reg.BEAT_STAT_GTSTEP
    let w := wrap 64 x
    let d := { d with stpClk := 10 * cdiv gt 10 }
    let d := moveGts { d with dogIo := { d.dogIo with gtStep := some 1 } } x
    let d := putReg (updTb d fun t => { t with k := k }) Reg.BEAT_NUM (BitVec.ofNat 32 k)
    let d := logEvt (moveMaster (moveBeats d ((k : Int) - k0)) ((k : Int) - k0) x) 1 1 1 (w % 2 ^ 32) (w / 2 ^ 32) (beatNum d)
    (upto 4).foldl (fun d s => if segOn d s then launchAs (rollAgain d s) s (launchForm d s) else d) d

/-- BEAT_EDGE (R28). -/
def execBeatEdge (s : State) : Host.Outcome State Fault Refusal := onDie beatEdge s

/-- FRAME_CLOSE (R35). -/
def execFrameClose (s : State) : Host.Outcome State Fault Refusal := onDie frameClose s

/-- GT_STEP (R21). -/
def execGtStep (s : State) : Host.Outcome State Fault Refusal := onDie gtStep s

end Sys2Proof.Machine
end

