-- ==== Sys2Proof/Machine/Line.lean ====
section
/-! DEFINITION. The line code of the Courier trunk (R249 to R254): scrambler and descrambler, block headers, the hunt for
alignment, block boundaries, and the frame a received line holds. -/

namespace Sys2Proof.Machine

/-- Bits of a block (R249). -/
def blockBits : Nat := 512

/-- The alignment word (R249). -/
def alignWord : Nat := 0x47D29C3B

/-- `w` bits of a line from bit `p` on, the first the most significant. -/
def lineAt (l : LineBits) (p w : Nat) : Nat := (l.bits >>> (l.len - (p + w))) % 2 ^ w

/-- One run of at most 39 bits through the register of R250: `d` with the bits 39 and 58 places before each. -/
def throughLine (h w d : Nat) : Nat := (d ^^^ (h >>> (39 - w)) ^^^ (h >>> (58 - w))) % 2 ^ w

/-- The last 58 scrambled bits after `w` more (R250). -/
def lineNext (h w x : Nat) : Nat := ((h <<< w) ||| x) % 2 ^ 58

/-- What a transmitter sends next: an alignment word, or `w` bits to scramble (R250). -/
inductive LineItem where
  | word
  | bits (w d : Nat)
  deriving DecidableEq, Repr

/-- The line of a transmitter whose last 58 scrambled bits are `h`, after the bits `l`: alignment words bypass the
scrambler and do not advance it (R250). -/
def sendLine : Nat → LineBits → List LineItem → Nat × LineBits
  | h, l, [] => (h, l)
  | h, l, .word :: r => sendLine h ⟨l.len + 32, l.bits * 2 ^ 32 + alignWord⟩ r
  | h, l, .bits w d :: r =>
    let x := throughLine h w d
    sendLine (lineNext h w x) ⟨l.len + w, l.bits * 2 ^ w + x⟩ r

/-- The bytes of a block as they are sent: its word, then 60 bytes to scramble (R249). -/
def blockItems (b : List Byte) : List LineItem := .word :: b.map fun x => .bits 8 x.toNat

/-- Fill bits, zeros before scrambling (R252). -/
def fillItems (n : Nat) : List LineItem := List.replicate n (.bits 1 0)

/-- A header word with its CRC (R251). -/
def headerOf (low : Nat) : Nat := low % 2 ^ 24 + 2 ^ 24 * crc2F (low % 2 ^ 24)

/-- Header and data area of a block, bytes in the order sent (R249). -/
def blockOf (low : Nat) (area : List Byte) : List Byte := (leBytes 4 (headerOf low)).reverse ++ area

/-- KIND of block `i` of a frame of `n` (R252). -/
def kindOf (n i : Nat) : Nat := if n = 1 then 4 else if i = 0 then 1 else if i + 1 = n then 3 else 2

/-- The blocks of a frame (R251, R252), each its header and data area. -/
def frameBlocks (src slot : Nat) (payload : List Byte) : List (List Byte) :=
  let n := payload.length / 56
  (upto n).map fun i => blockOf (kindOf n i + 8 * src + 512 * slot + 65536 * i) (slice payload (56 * i) 56)

/-- An IDLE block that announces fill (R251). -/
def idleOf (src shift : Nat) (area : List Byte) : List Byte := blockOf (8 * src + 512 * shift) area

/-- The alignment word stands at a bit (R249). -/
def wordAt (l : LineBits) (p : Nat) : Bool := 58 ≤ p && p + 64 ≤ l.len && lineAt l p 32 == alignWord

/-- The header of a block whose word begins at bit `p`, descrambled by the 58 scrambled bits before the word (R250). -/
def headerAt (l : LineBits) (p : Nat) : Nat := throughLine (lineAt l (p - 58) 58) 32 (lineAt l (p + 32) 32)

/-- The header's CRC-8 is good (R251). -/
def headerCrc (h : Nat) : Bool := h / 2 ^ 24 == crc2F (h % 2 ^ 24)

/-- A good header: its CRC passes and KIND is 0 to 4 (R251). -/
def headerGood (h : Nat) : Bool := headerCrc h && h % 8 < 5

/-- Bits from a block's first bit to the next block's: 512, and an IDLE block's SHIFT (R252). -/
def blockStep (h : Nat) : Nat := blockBits + (if h % 8 = 0 then bitsOf h 9 9 else 0)

/-- Descrambled bytes of a line from a bit on (R250). -/
def bytesAt (l : LineBits) : Nat → Nat → Nat → List Byte
  | 0, _, _ => []
  | n + 1, h, p =>
    let x := lineAt l p 8
    BitVec.ofNat 8 (throughLine h 8 x) :: bytesAt l n (lineNext h 8 x) (p + 8)

/-- The data area of the block whose word begins at bit `p` (R249, R250). -/
def areaAt (l : LineBits) (p : Nat) : List Byte :=
  bytesAt l 56 (lineNext (lineAt l (p - 58) 58) 32 (lineAt l (p + 32) 32)) (p + 64)

/-- Word and header with a good CRC at the next `n` boundaries from bit `p` on (R253). -/
def boundariesOk (l : LineBits) : Nat → Nat → Bool
  | 0, _ => true
  | n + 1, p => wordAt l p && headerCrc (headerAt l p) && boundariesOk l n (p + blockStep (headerAt l p))

/-- The hunt (R253) from bit `p`: a candidate and the 3 boundaries after it; after a failure it resumes at the next bit. -/
def hunts (l : LineBits) : Nat → Nat → Bool
  | 0, _ => false
  | fuel + 1, p => if boundariesOk l 4 p then true else hunts l fuel (p + 1)

/-- A hunting receiver locks on a line whose first 58 bits only fill its descrambler (R253). -/
def huntLocks (l : LineBits) : Bool := hunts l (l.len - 58) 58

/-- What a receiver in lock finds at a boundary (R254). -/
inductive Bound where
  /-- The word and a good header. -/
  | good
  /-- The word with a bad header: a bad block. -/
  | bad
  /-- No word. -/
  | none
  deriving DecidableEq, Repr

/-- What stands at a bit that should be a boundary (R254). -/
def boundAt (l : LineBits) (p : Nat) : Bound :=
  if wordAt l p then (if headerGood (headerAt l p) then .good else .bad) else .none

/-- The first position of `n` from `p` on that shows the word and a good header (R254). -/
def searchGood (l : LineBits) : Nat → Nat → Option Nat
  | 0, _ => none
  | n + 1, p => if boundAt l p = .good then some p else searchGood l n (p + 1)

/-- The boundary after the one at bit `p` (R252, R254): after one without word and good header, the first position 512 to
1,023 bits on that shows both, and 512 bits on where none does (log entry 118). -/
def nextBound (l : LineBits) (p : Nat) : Nat :=
  if boundAt l p = .good then p + blockStep (headerAt l p) else (searchGood l 512 (p + blockBits)).getD (p + blockBits)

/-- The boundaries of a line in lock, from bit `p` to its end. -/
def boundsFrom (l : LineBits) : Nat → Nat → List (Nat × Bound)
  | 0, _ => []
  | fuel + 1, p =>
    if l.len < p + blockBits then [] else (p, boundAt l p) :: boundsFrom l fuel (nextBound l p)

/-- The boundaries of a line that begins with the 58 bits before an expected boundary (R250, R254). -/
def bounds (l : LineBits) : List (Nat × Bound) := boundsFrom l 32 58

/-- The boundaries from the first good one on. -/
def fromGood (l : LineBits) : List (Nat × Bound) := (bounds l).dropWhile fun x => x.2 != .good

/-- Header of the first good block, 0 where there is none. -/
def firstHeader (l : LineBits) : Nat := ((fromGood l).head?.map fun x => headerAt l x.1).getD 0

end Sys2Proof.Machine

namespace Sys2Proof

open Sys2Proof.Machine

/-- SRC of the frame on a line: its first block's (R251, R270). -/
def TrunkFrame.src (f : TrunkFrame) : Fin 64 := Fin.ofNat _ (bitsOf (firstHeader f.line) 3 6)

/-- SLOT of the frame on a line: its first block's (R251, R270). -/
def TrunkFrame.slot (f : TrunkFrame) : Fin 128 := Fin.ofNat _ (bitsOf (firstHeader f.line) 9 7)

/-- The blocks of the frame on a line, by the bit of their words: from the first good one on (R252). -/
def TrunkFrame.blocks (f : TrunkFrame) : List Nat := (fromGood f.line).map (·.1)

/-- The frame's first block is good and begins a frame: KIND ONLY or FIRST (R252, R257). -/
def TrunkFrame.begins (f : TrunkFrame) : Bool := firstHeader f.line % 8 == 1 || firstHeader f.line % 8 == 4

/-- Every block is good, one follows another with no fill, SEQ runs from 0 and KIND follows R252, SRC and SLOT are the same
in every block (R265). -/
def TrunkFrame.good (f : TrunkFrame) : Bool :=
  let bs := fromGood f.line
  bs.all (fun x => x.2 == .good) && bs.zipIdx.all (fun x =>
    let h := headerAt f.line x.1.1
    x.1.1 == (f.blocks.headD 0) + blockBits * x.2 && h % 8 == kindOf bs.length x.2 &&
      bitsOf h 3 6 == f.src.val && bitsOf h 9 7 == f.slot.val && bitsOf h 16 8 == x.2) && bs != []

/-- The payload: the data areas of the blocks in order (R265). -/
def TrunkFrame.payload (f : TrunkFrame) : List Byte := f.blocks.flatMap (areaAt f.line)

end Sys2Proof
end

