-- ==== Sys2Proof/Machine/Trunk.lean ====
section
/-! DEFINITION. The Courier trunk (R247 to R277): link table and path delays, the schedule checks, lock, link delay,
forwarding, Postmarks and the correction of GT, the trunk states, master samples and trunk triggers. -/

namespace Sys2Proof.Machine

/-- NODEID strap (R358). -/
def nodeId (d : Die) : Nat := bitsOf d.straps.toNat 4 6

/-- TOPO strap: cluster. -/
def isCluster (d : Die) : Bool := bitOf d.straps.toNat 2

/-- The lead of a cluster: NODEID 0 (R248). -/
def isLead (d : Die) : Bool := isCluster d && !bitOf d.straps.toNat 3

/-- A trunk port is powered. -/
def ctOn (d : Die) (p : Nat) : Bool := powered d (54 + p)

/-- State of the trunk (R271): 0 STOPPED, 1 LISTEN, 2 CONTEND, 3 INTEGRATE, 4 RUN. -/
def ctState (d : Die) : Nat := fld d Reg.CTR_STAT_STATE

/-- Beats in a cycle (R260). -/
def nCyc (d : Die) : Nat := 2 ^ min 4 (fld d Reg.CTR_CFG_NCYC)

/-- Guard time G, ns. -/
def guardNs (d : Die) : Nat := fld d Reg.CTR_CFG_GUARD

/-- LEN, KIND, OWNER and START of a slot (R261). -/
def slLen (d : Die) (i : Nat) : Nat := fld d (Reg.CTR_SLOT_W1_LEN i)

/-- See `slLen`. -/
def slKind (d : Die) (i : Nat) : Nat := fld d (Reg.CTR_SLOT_W1_KIND i)

/-- See `slLen`. -/
def slOwner (d : Die) (i : Nat) : Nat := fld d (Reg.CTR_SLOT_W1_OWNER i)

/-- See `slLen`. -/
def slStart (d : Die) (i : Nat) : Nat := fld d (Reg.CTR_SLOT_W0_START i)

/-- The slots in use, by index. -/
def slots (d : Die) : List Nat := (upto 128).filter fun i => slLen d i != 0

/-- The PM slot. -/
def pmSlot (d : Die) : Option Nat := (slots d).find? fun i => slKind d i == 0

/-- The nodes of the node table, ascending. -/
def ctNodes (d : Die) : List Nat := (upto 64).filter fun n => flag d (Reg.CTR_NODE_SCHED n)

/-- A link of the table: NODE_A, PORT_A, NODE_B, PORT_B, delay in ns, OPEN. -/
abbrev Link := Nat × Nat × Nat × Nat × Nat × Bool

/-- One element put into a list in ascending order of a key. -/
def insertBy {α : Type} (key : α → Nat) (x : α) : List α → List α
  | [] => [x]
  | y :: r => if key x ≤ key y then x :: y :: r else y :: insertBy key x r

/-- A list in ascending order of a key. -/
def sortBy {α : Type} (key : α → Nat) (l : List α) : List α := l.foldr (insertBy key) []

/-- The ends of a link: node and port. -/
def linkEnds (l : Link) : List (Nat × Nat) := [(l.1, l.2.1), (l.2.2.1, l.2.2.2.1)]

/-- A link written with NODE_A < NODE_B (R368). -/
def orient (l : Link) : Link := if l.1 ≤ l.2.2.1 then l else (l.2.2.1, l.2.2.2.1, l.1, l.2.1, l.2.2.2.2)

/-- The port of the other part on the link of this part's port: the loaded link's, or, where none was loaded for the port, the
lowest of the peer's ports that no link uses (log entry 120). -/
def farPort (d : Die) (others : List Link) (p peer : Nat) : Nat :=
  let me := nodeId d
  let loaded := d.trk.links.findSome? fun l =>
    if l.1 = me ∧ l.2.1 = p then some l.2.2.2.1 else if l.2.2.1 = me ∧ l.2.2.2.1 = p then some l.2.1 else none
  let free := (upto 3).find? fun q => !(others.flatMap linkEnds).contains (peer, q)
  loaded.getD (free.getD 0)

/-- The link table with this part's own ports as CTR_P_p_CFG gives them (R264), in the order of R368. -/
def linkTable (d : Die) : List Link :=
  let me := nodeId d
  let others := d.trk.links.filter fun l => !(l.1 == me || l.2.2.1 == me)
  let ls := (upto 3).foldl (fun acc p =>
    if flag d (Reg.CTR_P_CFG_USED p) then
      let peer := fld d (Reg.CTR_P_CFG_PEER p)
      acc ++ [orient (me, p, peer, farPort d acc p peer, fld d (Reg.CTR_P_CFG_DELAY p), flag d (Reg.CTR_P_CFG_OPEN p))]
    else acc) others
  sortBy (fun l => 256 * l.1 + l.2.1) ls

/-- The neighbours of a node over links that are not OPEN: node, delay in units of 2^-8 ns, port at `n`. -/
def neighbours (ls : List Link) (dly : Link → Nat) (n : Nat) : List (Nat × Nat × Nat) :=
  ls.filterMap fun l =>
    if l.2.2.2.2.2 then none
    else if l.1 = n then some (l.2.2.1, dly l, l.2.1)
    else if l.2.2.1 = n then some (l.1, dly l, l.2.2.2.1) else none

/-- The nodes reached from a frontier in `fuel` hops, with the path delay of R259 to each in units of 2^-8 ns. -/
def reach (ls : List Link) (dly : Link → Nat) : Nat → List (Nat × Nat) → List (Nat × Nat) → List (Nat × Nat)
  | 0, seen, _ => seen
  | fuel + 1, seen, front =>
    let next := front.flatMap fun x =>
      (neighbours ls dly x.1).filterMap fun y =>
        if seen.any (·.1 == y.1) then none else some (y.1, x.2 + y.2.1 + (if fuel = 63 then 0 else 320 * 256))
    if next.isEmpty then seen else reach ls dly fuel (seen ++ next) next

/-- Path delays from a node to every node it reaches (R259), in units of 2^-8 ns. -/
def pathsFrom (ls : List Link) (dly : Link → Nat) (w : Nat) : List (Nat × Nat) := reach ls dly 64 [(w, 0)] [(w, 0)]

/-- Declared delay of a link. -/
def declDly (l : Link) : Nat := 256 * l.2.2.2.2.1

/-- Delay of a link for time correction: the mean this part measures on its own ports (R256), the declared one elsewhere. -/
def measDly (d : Die) (l : Link) : Nat :=
  let me := nodeId d
  let own (p : Nat) : Nat := if (tportH d p).delays.isEmpty then declDly l else (getReg d (Reg.CTR_P_LINKDLY p)).toNat
  if l.1 = me then own l.2.1 else if l.2.2.1 = me then own l.2.2.2.1 else declDly l

/-- CTR_NODE_n.PD of every node (R259). -/
def putPd (d : Die) : Die :=
  let ps := pathsFrom (linkTable d) (measDly d) (nodeId d)
  ps.foldl (fun d x => setFld d (Reg.CTR_NODE_PD x.1) (rhu x.2 256).toNat) d

/-- The trunk section as the registers give it (R264, R368). -/
def sectionBytes (d : Die) : List Byte :=
  let ls := linkTable d
  let ns := ctNodes d
  leBytes 1 (fld d Reg.BEAT_CFG_RATE) ++ leBytes 1 (fld d Reg.MST_CFG_LEAD) ++ leBytes 1 (fld d Reg.CTR_CFG_NCYC) ++
    leBytes 1 ls.length ++ leBytes 1 ns.length ++ leBytes 1 0 ++ leBytes 2 (guardNs d) ++
    ls.flatMap (fun l => leBytes 1 l.1 ++ leBytes 1 l.2.1 ++ leBytes 1 l.2.2.1 ++ leBytes 1 l.2.2.2.1 ++
      leBytes 2 l.2.2.2.2.1 ++ leBytes 1 (b2n l.2.2.2.2.2) ++ leBytes 1 0) ++
    ns.flatMap (fun n => leBytes 1 n ++ leBytes 1 (fld d (Reg.CTR_NODE_RANKED n)) ++
      leBytes 1 (fld d (Reg.CTR_NODE_RANK n)) ++ leBytes 1 0) ++
    (upto 128).flatMap fun i => leBytes 4 (slStart d i) ++ leBytes 1 (slLen d i) ++ leBytes 1 (slKind d i) ++
      leBytes 1 (slOwner d i) ++ leBytes 1 0

/-- The links refuse nothing of R247: ports 0 to 2, none used twice, the links not OPEN one tree over every node. -/
def linksOk (d : Die) : Bool :=
  let ls := linkTable d
  let ns := ctNodes d
  let ends : List (Nat × Nat) := ls.flatMap linkEnds
  let shut := ls.filter fun l => !l.2.2.2.2.2
  let got := (pathsFrom ls declDly (nodeId d)).map (·.1)
  ns.contains (nodeId d) && ends.all (fun e => e.2 < 3 && ns.contains e.1) && decide ends.Nodup &&
    decide (shut.length + 1 = ns.length) && ns.all got.contains &&
    (upto 3).all (fun p => !flag d (Reg.CTR_P_CFG_USED p) || ends.contains (nodeId d, p))

/-- The senders that a slot may have (R261). -/
def senders (d : Die) (i : Nat) : List Nat :=
  match slKind d i with
  | 0 => (ctNodes d).filter fun n => flag d (Reg.CTR_NODE_RANKED n)
  | 5 => (ctNodes d).filter (· != 0)
  | _ => [slOwner d i]

/-- The nominal times at which a port of part c towards neighbour n starts frames (R262): slot, start in units of 0.1 ns,
and length. A part sends its own frames on every port and forwards those that come from its other ports. -/
def portFrames (d : Die) (ls : List Link) (c n : Nat) : List (Nat × Nat × Nat) :=
  let cut := ls.filter fun l => !((l.1 == c && l.2.2.1 == n) || (l.1 == n && l.2.2.1 == c))
  let side := pathsFrom cut declDly c
  (slots d).flatMap fun i => (senders d i).filterMap fun w =>
    (side.find? (·.1 == w)).map fun x =>
      (i, 10 * slStart d i + (if w = c then 0 else x.2 * 10 / 256 + 3200), 2048 * slLen d i)

/-- Two frames of a port, widened by G/2, are at least 205 ns apart in a cycle (R262). Times in units of 0.1 ns x f. -/
def apart (f cyc guard : Nat) (x y : Nat × Nat × Nat) : Bool :=
  let gap := (guard * 10 + 2050) * f
  let a := x.2.1 * f % cyc
  let b := y.2.1 * f % cyc
  let fwd := (b + cyc - a) % cyc
  let bwd := (a + cyc - b) % cyc
  x.1 == y.1 || (decide (x.2.2 * f + gap ≤ fwd) && decide (y.2.2 * f + gap ≤ bwd))

/-- Time from one slot's instant to the next instant of another, taken cyclically, in units of 0.1 ns x f. -/
def cyclicOff (d : Die) (i j : Nat) : Nat :=
  let cyc := nCyc d * 10000000000
  let x := (10 * slStart d j * hz d + cyc - 10 * slStart d i * hz d % cyc) % cyc
  if x = 0 then cyc else x

/-- The next HREQ instant after slot `i`'s is at most 10,000 ns away, taken cyclically (R284). -/
def reqGapOk (d : Die) (reqs : List Nat) (i : Nat) : Bool := reqs.any fun j => cyclicOff d i j ≤ 100000 * hz d

/-- The HREQ slot that precedes a slot, taken cyclically (R261, R284). -/
def reqBefore (d : Die) (reqs : List Nat) (i : Nat) : Option Nat :=
  (sortBy (fun j => cyclicOff d j i) reqs).head?

/-- The second and third checks of R284 on an HRSP slot, in units of ns / 2560 x f. -/
def hrspOk (d : Die) (ls : List Link) (reqs : List Nat) (i : Nat) : Bool :=
  let f := hz d
  let pdMax := ((pathsFrom ls declDly 0).filter (·.1 != 0)).foldl (fun m x => max m x.2) 0
  match reqBefore d reqs i with
  | none => false
  | some j =>
    let off := 256 * cyclicOff d j i
    decide (f * (256 * 2048 * slLen d j + 10 * pdMax + 2560 * 6000 + 1280 * guardNs d) ≤ off) &&
    decide (off + f * (10 * pdMax + 256 * (2048 * slLen d i + 400) + 1280 * guardNs d) ≤ f * (2560 * 28000))

/-- The schedule checks of R262 that one part makes over its tables, and R284 for a cluster. -/
def slotsOk (d : Die) : Bool :=
  let f := hz d
  let cyc := nCyc d * 10000000000
  let ls := linkTable d
  let ns := ctNodes d
  let ranked := ns.filter fun n => flag d (Reg.CTR_NODE_RANKED n)
  let ranks := ranked.map fun n => fld d (Reg.CTR_NODE_RANK n)
  let me := nodeId d
  let of (k n : Nat) : Nat := ((slots d).filter fun i => slKind d i == k && slOwner d i == n).length
  let msOk : Bool := !flag d Reg.MST_CFG_SEND || (upto (nCyc d)).all fun b =>
    ((slots d).filter fun i => slKind d i == 2 && slOwner d i == me &&
      decide ((b * 1000000000 / f : Nat) + 400 ≤ slStart d i) &&
      decide (slStart d i * f < (b + 1) * 1000000000)).length == 1
  let reqs := (slots d).filter fun i => slKind d i == 4
  (slots d).all (fun i => decide ((10 * slStart d i + 2048 * slLen d i) * f ≤ cyc) && decide (slKind d i < 6) &&
    (slKind d i == 0 || slKind d i == 5 || ns.contains (slOwner d i)) && decide (slLen d i ≤ 8) &&
    (if slKind d i < 4 then slLen d i == 1 else isCluster d) &&
    (slKind d i != 4 || (5 ≤ slLen d i && slOwner d i == 0))) &&
  ((slots d).filter fun i => slKind d i == 0).length == 1 && ns.all (fun n => of 1 n == 1) && msOk &&
  decide (200 ≤ guardNs d) && decide (guardNs d ≤ 2000) &&
  decide (1 ≤ ranked.length) && decide (ranked.length ≤ 4) && decide ranks.Nodup &&
  (flag d (Reg.CTR_NODE_RANKED me) == bitOf d.straps.toNat 10) &&
  ls.all (fun l => l.2.2.2.2.2 || [(l.1, l.2.2.1), (l.2.2.1, l.1)].all fun e =>
    let fs := portFrames d ls e.1 e.2
    fs.all fun x => fs.all fun y => x == y || apart f cyc (guardNs d) x y) &&
  (!isCluster d || (decide (reqs ≠ []) && reqs.all (reqGapOk d reqs) &&
    (slots d).all fun i => slKind d i != 5 || hrspOk d ls reqs i))

/-- A trunk section that R247 and R262 (R284) do not refuse. -/
def trunkOk (d : Die) : Bool := linksOk d && slotsOk d

/-- A port is in lock. -/
def ctLocked (d : Die) (p : Nat) : Bool := ctOn d p && flag d (Reg.CTR_P_STAT_LOCK p)

/-- TRUNK_LOCK (R253): a hunting receiver takes the bits of a line. -/
def ctLock (d : Die) (p : Nat) (l : LineBits) : Die :=
  if !ctOn d p || flag d (Reg.CTR_P_STAT_LOCK p) || !huntLocks l then d
  else updTport (setFlag d (Reg.CTR_P_STAT_LOCK p)) p fun t => { t with fails := 0 }

/-- Lock is lost (R254). -/
def loseLock (d : Die) (p : Nat) : Die :=
  incReg (putFlag (putFlag d (Reg.CTR_P_STAT_LOCK p) false) (Reg.CTR_P_STAT_PEERIDLE p) false) (Reg.CTR_P_CNT_LOCKLOSS p)

/-- One boundary in lock (R254): a bad block is counted, and the third failure in a row loses lock. -/
def meetBound (d : Die) (p : Nat) (x : Bound) : Die :=
  if !ctLocked d p then d else
  match x with
  | .good => updTport d p fun t => { t with fails := 0 }
  | _ =>
    let d := if x = .bad then incReg d (Reg.CTR_P_CNT_HCRC p) else d
    let n := (tportH d p).fails + 1
    let d := updTport d p fun t => { t with fails := n }
    if n < 3 then d else loseLock d p

/-- A receiver in lock takes the boundaries of a line (R254). -/
def meetLine (d : Die) (p : Nat) (l : LineBits) : Die := (bounds l).foldl (fun d x => meetBound d p x.2) d

/-- IDLE_BLOCK_RECEIVED (R255, R256): the data area of an IDLE block whose word arrives at t4. -/
def idleArea (d : Die) (p : Nat) (b : List Byte) (t4 : Nat) : Die :=
  if b.length ≠ 56 || leAt b 52 4 ≠ crc32 (b.take 52) then d else
  let d := setFlag d (Reg.CTR_P_STAT_PEERIDLE p)
  let t3 := leAt b 4 8
  let t1 := leAt b 12 8
  let t2 := leAt b 20 8
  let d := updTport d p fun t => { t with echoT1 := t3, echoT2 := t4 % 2 ^ 64 }
  if t1 = 0 then d else
  let x : Int := sext 64 (wrap 64 ((t4 : Int) - t1)) - sext 64 (wrap 64 ((t3 : Int) - t2))
  let d := updTport d p fun t => { t with delays := (x :: t.delays).take 64 }
  let l := (tportH d p).delays
  let mean := rhu (l.foldl (· + ·) 0) (2 * (l.length : Nat))
  let d := putReg d (Reg.CTR_P_LINKDLY p) (BitVec.ofNat 32 (wrap 32 mean))
  let decl := fld d (Reg.CTR_P_CFG_DELAY p)
  let d := if 5120 < (mean - 256 * (decl : Nat)).natAbs ∧ flag d (Reg.CTR_P_STAT_DLYERR p) = false then
      logEvt (setFlag d (Reg.CTR_P_STAT_DLYERR p)) 6 1 1 p (wrap 32 mean) decl
    else d
  putPd d

/-- IDLE_BLOCK_RECEIVED (R254 to R256): the boundaries of the line, then its first good block where that is IDLE. -/
def idleBlock (d : Die) (p : Nat) (l : LineBits) (t4 : Nat) : Die :=
  if !ctLocked d p then d else
  let d := meetLine d p l
  match (fromGood l).head? with
  | some x => if ctLocked d p && headerAt l x.1 % 8 == 0 then idleArea d p (areaAt l x.1) t4 else d
  | none => d

/-- The first edge of the cycle in force: its beat index. -/
def cycleFirst (d : Die) : Nat := d.tb.k - d.tb.k % nCyc d

/-- GT of a slot in a cycle that begins at beat index k. -/
def slotGt (d : Die) (k i : Nat) : Nat := edgeGt (hz d) k + slStart d i

/-- The beat index that begins the cycle in which a frame was sent: the one whose instant of the slot, with the path delay, is
nearest to the frame's arrival (R270, R283; log entry 122). -/
def cycleSent (d : Die) (f : TrunkFrame) : Nat :=
  let k0 := cycleFirst d
  let n := nCyc d
  let off (k : Nat) : Nat :=
    ((f.rx : Int) - 256 * ((slotGt d k f.slot.val : Nat) + (fld d (Reg.CTR_NODE_PD f.src.val) : Nat))).natAbs
  let best (a b : Nat) : Nat := if off a ≤ off b then a else b
  best k0 (best (k0 - n) (k0 + n))

/-- GT of the slot in which a frame was sent. -/
def sentAt (d : Die) (f : TrunkFrame) : Nat := slotGt d (cycleSent d f) f.slot.val

/-- The deviation of a frame from its slot (R270), in units of 2^-8 ns. -/
def deviation (d : Die) (f : TrunkFrame) : Int :=
  (f.rx : Int) - 256 * ((sentAt d f : Nat) + (fld d (Reg.CTR_NODE_PD f.src.val) : Nat))

/-- A frame passes the window test (R270). -/
def inWindow (d : Die) (f : TrunkFrame) : Bool := decide ((deviation d f).natAbs ≤ 128 * guardNs d)

/-- The frame's slot is the PM slot (R257, R261). -/
def pmFrame (d : Die) (f : TrunkFrame) : Bool := slLen d f.slot.val != 0 && slKind d f.slot.val == 0

/-- A port takes frames: powered, in lock, and on a link that is not OPEN (R248, R254). -/
def portCarries (d : Die) (p : Nat) : Bool :=
  ctLocked d p && flag d (Reg.CTR_P_CFG_USED p) && !flag d (Reg.CTR_P_CFG_OPEN p)

/-- A part in RUN judges a frame that is no Postmark at its first block (R270), and counts. -/
def judgeFrame (d : Die) (f : TrunkFrame) : Die :=
  if ctState d ≠ 4 || pmFrame d f || slLen d f.slot.val == 0 then d else
  let dev := deviation d f
  if !inWindow d f then incReg d (Reg.CTR_CNT 2)
  else if 64 * guardNs d < dev.natAbs then incReg d (Reg.CTR_CNT (if dev < 0 then 0 else 1)) else d

/-- The window test lets a frame pass: in RUN a Postmark, and a frame of a slot inside its window (R257, R261, R270). -/
def windowPass (d : Die) (f : TrunkFrame) : Bool :=
  ctState d != 4 || pmFrame d f || (slLen d f.slot.val != 0 && inWindow d f)

/-- A frame that can be none of a slot's (R265): its first good block does not begin a frame, or, where the window test looks
at it first, it names an entry that is no slot. -/
def unfit (d : Die) (f : TrunkFrame) : Bool :=
  if f.begins then ctState d == 4 && !pmFrame d f && slLen d f.slot.val == 0 else firstHeader f.line % 8 != 0

/-- The receiver of a port meets a frame: its boundaries are taken and the frame is judged, once however many commands tell
of it (R254, R265, R270; log entry 123). -/
def meetFrame (d : Die) (f : TrunkFrame) : Die :=
  let p := f.port.val
  let before := (tportH d p).fails + ((bounds f.line).takeWhile fun x => x.2 != .good).length
  if (tportH d p).seen.map (·.1) == some f.rx || !portCarries d p then d else
  let kept := decide (before < 3)
  let ok := kept && f.begins
  let pass := ok && windowPass d f
  let d := meetLine d p f.line
  let d := if kept && unfit d f then incReg d (Reg.CTR_CNT 3) else d
  updTport (if ok then judgeFrame d f else d) p fun t => { t with seen := some (f.rx, pass) }

/-- A frame was met and may pass. -/
def framePass (d : Die) (f : TrunkFrame) : Bool := (tportH d f.port.val).seen == some (f.rx, true)

/-- The checks of R265 but for the sender and the major version: blocks, length and CRC-32. -/
def frameSound (d : Die) (f : TrunkFrame) : Bool :=
  let n := 56 * slLen d f.slot.val
  f.good && n != 0 && f.payload.length == n && leAt f.payload (n - 4) 4 == crc32 (f.payload.take (n - 4))

/-- A frame of a kind other than PM is judged and accepted (R265, R270): the state with its counts. -/
def acceptFrame (d : Die) (f : TrunkFrame) (kind sender : Nat) : Die × Bool :=
  let d := meetFrame d f
  if !portCarries d f.port.val || !framePass d f then (d, false)
  else if frameSound d f && slKind d f.slot.val == kind && f.src.val == sender && leAt f.payload 0 1 / 16 == 1 then (d, true)
  else (incReg d (Reg.CTR_CNT 3), false)

/-- A block's time, 204.8 ns, in units of 2^-8 / 5 ns; a bit's is 512 of them. -/
def blockTime : Nat := 2 ^ 18

/-- The data area of an IDLE block that a port sends with its word at an instant in units of 2^-8 ns (R255). -/
def idleData (d : Die) (p tTx : Nat) : List Byte :=
  let t := tportH d p
  let b := leBytes 1 0x10 ++ leBytes 1 (ctState d) ++ zeros 2 ++ leBytes 8 tTx ++ leBytes 8 t.echoT1 ++ leBytes 8 t.echoT2 ++
    leBytes 4 (getReg d Reg.CTR_HASH).toNat ++ zeros 20
  b ++ leBytes 4 (crc32 b)

/-- A frame's blocks go out of a port at an instant in units of 2^-8 ns, after the IDLE blocks and the fill that place its
word there, or the frame is skipped and counted (R252, R258). Of the IDLE blocks the last is written out; where others stand
before it, the scrambled bits before it are a free value (log entry 124). -/
def putOut (d : Die) (p at_ : Nat) (blocks : List (List Byte)) : Die :=
  let t := tportH d p
  if !ctOn d p || !flag d (Reg.CTR_P_CFG_USED p) || flag d (Reg.CTR_P_CFG_OPEN p) then d
  else if 5 * at_ < t.busyUntil + blockTime then incReg d (Reg.CTR_CNT 4)
  else
    let n := (5 * at_ - t.busyUntil) / blockBits
    let fill := n % blockBits
    let r := draw d
    let h := if n / blockBits = 1 then t.txHist else r.1.toNat % 2 ^ 58
    let idle := idleOf (nodeId d) fill (idleData d p ((5 * at_ - blockBits * (blockBits + fill)) / 5))
    let x := sendLine h ⟨0, 0⟩ (blockItems idle ++ fillItems fill ++ blocks.flatMap blockItems)
    updTport r.2 p fun t =>
      { t with out := some ⟨at_, fill, idle, blocks, x.2⟩, txHist := x.1, busyUntil := 5 * at_ + blockTime * blocks.length }

/-- The trunk ports begin to send IDLE blocks (R252). -/
def trunkUp (d : Die) : Die :=
  updTrk d fun t => { t with ports := t.ports.map fun p => { p with busyUntil := 1280 * d.tb.gt } }

/-- Header and data area of the blocks of a frame as received (R257). -/
def blocksOf (f : TrunkFrame) : List (List Byte) :=
  f.blocks.map fun p => (leBytes 4 (headerAt f.line p)).reverse ++ areaAt f.line p

/-- TRUNK_FRAME_FORWARD (R257). -/
def forwardFrame (d : Die) (f : TrunkFrame) : Die :=
  let d := meetFrame d f
  if !framePass d f then d else
  ((upto 3).filter (· != f.port.val)).foldl (fun d q => putOut d q (f.rx + 320 * 256) (blocksOf f)) d

/-- A slewing part sends nothing (R272). -/
def slewing (d : Die) : Bool := flag d Reg.BEAT_STAT_SLEW

/-- This part may send in its own slots (R271, R272). -/
def ownSlots (d : Die) : Bool := ctState d == 4 && d.trk.ownOn && !slewing d

/-- A frame of this part in a slot (R257, R258, R265): payload without its CRC, filled to LEN blocks. -/
def sendOwn (d : Die) (slot : Nat) (body : List Byte) : Die :=
  let t := slotGt d (cycleFirst d) slot
  let d := toGt d t
  let b := padTo (56 * slLen d slot - 4) body
  let payload := b ++ leBytes 4 (crc32 b)
  let d := (upto 3).foldl (fun d p => putOut d p (256 * t) (frameBlocks (nodeId d) slot payload)) d
  updTrk d fun k => { k with ownFrame := some (slot, payload) }

/-- The part enters STOPPED (R271, R275): every stop that waits completes OK, and a start that waits ends ABORTED (log entry
119). -/
def enterStopped (d : Die) : Die :=
  let d := putFlag (putFlag (setFld d Reg.CTR_STAT_STATE 0) Reg.CTR_STAT_MASTER false) Reg.CTR_STAT_ELIG false
  let d := d.trk.stopTickets.foldl (fun d t => complete d t 0 0 0) d
  let d := complete d d.trk.startTicket 2 0 0
  let d := putFlag d Reg.BEAT_STAT_SLEW false
  updTrk d fun t =>
    { t with stopDue := false, stopNext := false, stopIn := none, stopTickets := [], startTicket := 0, startCycles := 0,
             ownOn := false, inInt := 0, missed := 0 }

/-- TRUNK_STOP_EFFECT (R275). -/
def stopEffect (d : Die) : Die := if d.trk.stopDue && ctState d != 0 then enterStopped d else d

/-- Entry to LISTEN (R271): no Postmark is left to slew by (R22). -/
def enterListen (d : Die) : Die :=
  let d := setFld (setFld d Reg.CTR_STAT_STATE 1) Reg.CTR_STAT_LISTENT 0
  let d := putFlag (putFlag d Reg.CTR_STAT_MASTER false) Reg.CTR_STAT_ELIG false
  let d := putFlag d Reg.BEAT_STAT_SLEW false
  updTrk d fun t => { t with ownOn := false, inInt := 0, csSent := 0 }

/-- Entry to INTEGRATE (R271). -/
def enterIntegrate (d : Die) : Die :=
  let d := putFlag (putFlag (setFld d Reg.CTR_STAT_STATE 3) Reg.CTR_STAT_MASTER false) Reg.CTR_STAT_ELIG false
  updTrk d fun t => { t with ownOn := false, inInt := 0, missed := 0 }

/-- Eligibility (R273): a ranked part in RUN whose last 8 accepted Postmarks were near. -/
def putElig (d : Die) : Die :=
  let ok := flag d (Reg.CTR_NODE_RANKED (nodeId d)) && ctState d == 4 && !flag d Reg.CTR_STAT_MASTER &&
    d.trk.lastOs.length == 8 && d.trk.lastOs.all fun o => decide (o.natAbs ≤ 5120)
  putFlag d Reg.CTR_STAT_ELIG ok

/-- Entry to RUN (R271): TRUNK_START completes OK. -/
def enterRun (d : Die) : Die :=
  let d := complete (setFld d Reg.CTR_STAT_STATE 4) d.trk.startTicket 0 0 0
  putElig (updTrk d fun t => { t with startTicket := 0, startCycles := 0, ownOn := false, missed := 0 })

/-- CTR_MASTER names a master; a change is logged (R271, R273). -/
def putMasterId (d : Die) (node rank : Nat) : Die :=
  let w := node + 64 * rank + 256
  if (getReg d Reg.CTR_MASTER).toNat = w then d else logEvt (putReg d Reg.CTR_MASTER (BitVec.ofNat 32 w)) 6 4 0 w 0 0

/-- This part becomes the time master (R271, R274): GT at (1 + r), no phase. -/
def becomeMaster (d : Die) : Die :=
  let d := putFlag (putFlag (setFlag d Reg.CTR_STAT_MASTER) Reg.CTR_STAT_ELIG false) Reg.BEAT_STAT_SLEW false
  let d := updTb (updTrk d fun t => { t with trim := t.rate }) fun b => { b with trim := d.trk.rate }
  putMasterId d (nodeId d) (fld d (Reg.CTR_NODE_RANK (nodeId d)))

/-- LISTEN_TIMER_EXPIRY (R271). -/
def listenExpiry (d : Die) : Die :=
  let me := nodeId d
  if ctState d == 1 && flag d (Reg.CTR_NODE_RANKED me) &&
      16 + 4 * fld d (Reg.CTR_NODE_RANK me) ≤ fld d Reg.CTR_STAT_LISTENT then
    updTrk (setFld d Reg.CTR_STAT_STATE 2) fun t => { t with csSent := 0 }
  else d

/-- Position q of an eligible backup (R273). -/
def backupPos (d : Die) : Nat :=
  let me := nodeId d
  let silent := fld d Reg.CTR_MASTER_NODEID
  1 + ((ctNodes d).filter fun n => flag d (Reg.CTR_NODE_RANKED n) && n != me && n != silent &&
    fld d (Reg.CTR_NODE_RANK n) < fld d (Reg.CTR_NODE_RANK me)).length

/-- TAKEOVER (R271, R273, R274). -/
def takeOver (d : Die) : Die :=
  if ctState d == 4 && !flag d Reg.CTR_STAT_MASTER && flag d Reg.CTR_STAT_ELIG && 3 * backupPos d ≤ d.trk.missed then
    updTrk (incReg (becomeMaster d) (Reg.CTR_CNT 6)) fun t => { t with takeover := true }
  else d

/-- POSTMARK_LOSS (R271): 12 consecutive cycles without a Postmark. -/
def postmarkLoss (d : Die) : Die :=
  if (ctState d == 3 || (ctState d == 4 && !flag d Reg.CTR_STAT_MASTER)) && 12 ≤ d.trk.missed then enterListen d else d

/-- INTEGRATE to RUN (R271): 2 consecutive Postmarks of one master near enough, no slew. -/
def integrated (d : Die) : Die := if ctState d == 3 && 2 ≤ d.trk.inInt && !slewing d then enterRun d else d

/-- TRUNK_START_NOSYNC (R275). -/
def startNosync (d : Die) : Die :=
  if d.trk.startTicket ≠ 0 ∧ 1000 ≤ d.trk.startCycles ∧ 1 ≤ ctState d ∧ ctState d ≤ 3 then
    updTrk (complete d d.trk.startTicket 0xC 0 0) fun t => { t with startTicket := 0, startCycles := 0 }
  else d

/-- A member that has sent no accepted ST frame for 4 cycles, at the lead (R285). -/
def memberQuiet (d : Die) : Die :=
  if !isLead d then d else
  ((ctNodes d).filter (· != 0)).foldl (fun d n =>
    let m := sget member0 d.trk.members n
    let q := if d.trk.seenNow.contains n then 0 else m.quiet + 1
    updTrk d fun t => { t with members := sput member0 t.members n { m with quiet := q } }) d

/-- A cycle ended with no Postmark accepted: the next runs at (1 + r) (R269), in a slew within 200 ppm (R22). -/
def coast (d : Die) : Die :=
  let x := if slewing d then clampI d.trk.rate (-858993) 858993 else d.trk.rate
  updTb (updTrk d fun t => { t with missed := t.missed + 1, trim := x }) fun b => { b with trim := x }

/-- The cycle that ends leaves in CTR_NODE_n.SEEN whose ST frame was accepted in it, and at the lead who was quiet (R285). -/
def cycleSeen (d : Die) : Die :=
  let d := memberQuiet d
  let d := (upto 64).foldl (fun d n => putFlag d (Reg.CTR_NODE_SEEN n) (if isLead d then
      flag d (Reg.CTR_NODE_SEEN n) || d.trk.seenNow.contains n else d.trk.seenNow.contains n)) d
  updTrk d fun t => { t with seenNow := [] }

/-- TRUNK_CYCLE_START (R260, R269, R271, R285). -/
def cycleStart (d : Die) : Die :=
  if !running d || d.tb.phase ≠ 0 || d.tb.k % nCyc d ≠ 0 then d else
  let was := ctState d
  let master := flag d Reg.CTR_STAT_MASTER
  if was = 0 then (if flag d Reg.CTR_CFG_DECL then cycleSeen (coast d) else d) else
  let d := cycleSeen (if d.trk.cycleGot || master then updTrk d fun t => { t with missed := 0 } else coast d)
  let d := if was = 1 then setFld d Reg.CTR_STAT_LISTENT (min 255 (fld d Reg.CTR_STAT_LISTENT + 1)) else d
  let stopNow := !master && d.trk.stopIn == some 0
  let d := updTrk d fun t =>
    { t with cycleGot := false, stopDue := t.stopDue || stopNow || t.stopNext, stopNext := false,
             stopIn := if master then t.stopIn else t.stopIn.bind fun n => if n = 0 then none else some (n - 1),
             ownOn := t.ownOn || decide (was = 4),
             startCycles := if t.startTicket = 0 then 0 else t.startCycles + 1 }
  if d.trk.stopDue then enterStopped d else startNosync (postmarkLoss (takeOver (integrated (listenExpiry d))))

/-- o, r and trim of a Postmark (R269): o in units of 2^-8 ns, r and trim in units of 2^-32. A slewing part keeps the
correction within 200 ppm (R22). -/
def servo (d : Die) (o : Int) (slew : Bool) : Die :=
  let den : Int := (nCyc d * 1000000000 : Nat)
  let r := d.trk.rate + rhu (o * 2 ^ 20 * (hz d : Nat)) den
  let trim := r + rhu (o * 2 ^ 24 * (hz d : Nat)) den
  let trim := if slew then clampI trim (-858993) 858993 else trim
  let d := updTrk d fun t => { t with rate := r, trim := trim, lastOs := (o :: t.lastOs).take 8 }
  let d := putReg d Reg.CTR_OFFSET (BitVec.ofNat 32 (wrap 32 (clampI o (-2147483648) 2147483647)))
  let d := putReg d Reg.CTR_RATE (BitVec.ofNat 32 (wrap 32 r))
  updTb d fun b => { b with trim := trim }

/-- A Postmark in INTEGRATE, with the correction of R272. A stop that is due comes first in the table (R15). -/
def integrateBy (d : Die) (src : Nat) (o : Int) : Die :=
  let far := decide (64 * guardNs d < o.natAbs)
  let slew := far && anyMoving d
  let d := putFlag (servo d o slew) Reg.BEAT_STAT_SLEW slew
  let d := updTb d fun b => { b with step := if far && !slew then some (rhu o 256) else none }
  let d := updTrk d fun t =>
    { t with inInt := if far then 0 else if t.intSrc = src then t.inInt + 1 else 1, intSrc := src }
  if d.trk.stopDue then enterStopped d else integrated d

/-- r := 0 (R271), as CTR_RATE shows it (R269). -/
def zeroRate (d : Die) : Die := putReg (updTrk d fun t => { t with rate := 0 }) Reg.CTR_RATE 0

/-- A Postmark accepted by a part in RUN that is not the master (R22, R269, R271, R273). A stop that is due is the highest
row, and alone applies (R15). -/
def runBy (d : Die) (o : Int) : Die :=
  let far := decide (64 * guardNs d < o.natAbs)
  let slew := far && anyMoving d
  let d := putElig (putFlag (servo d o slew) Reg.BEAT_STAT_SLEW slew)
  let fast := decide (429496 < d.trk.rate.natAbs)
  if d.trk.stopDue then enterStopped d
  else if fast || far then
    let d := enterIntegrate d
    if fast then zeroRate (setFlag d Reg.CTR_STAT_RATEERR) else d
  else d

/-- A Postmark with this part's hash, accepted (R269, R271, R275). -/
def takePostmark (d : Die) (f : TrunkFrame) : Die :=
  let b := f.payload
  let src := f.src.val
  let rank := leAt b 3 1 % 4
  let cs := bitOf (leAt b 2 1) 0
  let mine := fld d (Reg.CTR_NODE_RANK (nodeId d))
  let o : Int := 256 * ((leAt b 8 8 : Nat) + (fld d (Reg.CTR_NODE_PD src) : Nat)) - f.rx
  let note (d : Die) : Die :=
    let d := setFld (putMasterId d src rank) Reg.CTR_VER_INUSE (leAt b 1 1)
    updTrk d fun t => { t with cycleGot := true, missed := 0,
                               stopIn := if bitOf (leAt b 2 1) 1 then some (bitsOf (leAt b 2 1) 2 2) else t.stopIn }
  match ctState d with
  | 0 => d
  | 1 => if d.trk.stopDue then enterStopped (note d) else integrateBy (enterIntegrate (note d)) src o
  | 2 =>
    if d.trk.stopDue then enterStopped (note d)
    else if !cs || rank < mine then integrateBy (enterIntegrate (note d)) src o else d
  | 3 => integrateBy (note d) src o
  | _ =>
    if flag d Reg.CTR_STAT_MASTER then
      if d.trk.stopDue then enterStopped d
      else if rank < mine then enterIntegrate (note (incReg d (Reg.CTR_CNT 7))) else d
    else runBy (note d) o

/-- POSTMARK_RECEIVED (R265, R266, R269, R271). A stop that is due is the highest row of each state (R15). -/
def postmark (d : Die) (f : TrunkFrame) : Die :=
  let d := meetFrame d f
  if !portCarries d f.port.val || !framePass d f then d else
  let b := f.payload
  if !f.good || b.length ≠ 56 || leAt b 52 4 ≠ crc32 (b.take 52) then incReg d (Reg.CTR_CNT 3) else
  let foreign := leAt b 0 1 / 16 != 1 || leAt b 16 4 != (getReg d Reg.CTR_HASH).toNat
  if foreign then
    if ctState d = 1 ∧ d.trk.stopDue = true then enterStopped d
    else if ctState d = 1 then
      let d := setFld (incReg (setFlag d Reg.CTR_STAT_HASHERR) (Reg.CTR_CNT 5)) Reg.CTR_STAT_LISTENT 0
      let d := putReg d Reg.CTR_RXHASH (BitVec.ofNat 32 (leAt b 16 4))
      logEvt d 6 5 1 (leAt b 16 4) 0 0
    else if leAt b 0 1 / 16 ≠ 1 then incReg d (Reg.CTR_CNT 3) else d
  else if slKind d f.slot.val ≠ 0 ∨ slLen d f.slot.val ≠ 1 ∨ flag d (Reg.CTR_NODE_RANKED f.src.val) = false then
    incReg d (Reg.CTR_CNT 3)
  else
    let bn := leAt b 4 4
    let k := beatAt (hz d) (leAt b 8 8 - slStart d f.slot.val)
    if bn % nCyc d ≠ 0 ∨ bn ≠ k % 2 ^ 32 then d else takePostmark d f

/-- POSTMARK_SEND (R266, R268, R271, R275). -/
def sendPostmark (d : Die) : Die :=
  match pmSlot d with
  | none => d
  | some slot =>
    let st := ctState d
    let master := flag d Reg.CTR_STAT_MASTER
    if !running d || !(st == 2 || (st == 4 && master)) || slewing d then d else
    let t := slotGt d (cycleFirst d) slot
    let stop := if st = 4 then d.trk.stopIn else none
    let flags := b2n (st == 2) + 2 * b2n stop.isSome + 4 * stop.getD 0 + 16 * b2n d.trk.takeover
    let body := leBytes 1 0x10 ++ leBytes 1 0 ++ leBytes 1 flags ++ leBytes 1 (fld d (Reg.CTR_NODE_RANK (nodeId d))) ++
      leBytes 4 (cycleFirst d) ++ leBytes 8 t ++ leBytes 4 (getReg d Reg.CTR_HASH).toNat
    let d := sendOwn d slot body
    let d := updTrk d fun k =>
      { k with takeover := false, csSent := if st = 2 then k.csSent + 1 else k.csSent,
               stopNext := k.stopNext || stop == some 0, stopIn := stop.bind fun n => if n = 0 then none else some (n - 1) }
    if st = 2 ∧ 4 ≤ d.trk.csSent then (if d.trk.stopDue then enterStopped d else becomeMaster (enterRun d)) else d

/-- The records a member has waiting: PEND of its ST frame. -/
def pendCount (d : Die) : Nat := d.trk.recs.length + b2n d.trk.rdrSend

/-- ST_SEND (R266). -/
def sendSt (d : Die) (slot : Nat) : Die :=
  if !ownSlots d || slLen d slot == 0 || slKind d slot != 1 || slOwner d slot != nodeId d then d else
  let me := nodeId d
  let flags := fld d Reg.CTR_STAT_MASTER + 2 * fld d Reg.CTR_STAT_ELIG + 4 * fld d Reg.BEAT_STAT_SLEW
  let body := leBytes 1 0x10 ++ leBytes 1 (ctState d) ++ leBytes 1 flags ++
    leBytes 1 (fld d (Reg.CTR_NODE_RANK me) + 128 * fld d (Reg.CTR_NODE_RANKED me)) ++
    leBytes 2 d.trk.wnext ++ leBytes 2 (pendCount d) ++
    leBytes 4 (getReg d Reg.CTR_OFFSET).toNat ++ leBytes 4 (getReg d Reg.CTR_HASH).toNat
  sendOwn d slot body

/-- MS_SEND (R127, R266, R276): the sample of the beat in force. -/
def sendMs (d : Die) (slot : Nat) : Die :=
  if !ownSlots d || slLen d slot == 0 || slKind d slot != 2 || slOwner d slot != nodeId d ||
      !flag d Reg.MST_CFG_SEND || mstSrc d == 6 then d else
  match d.mst.samples.find? (·.s == d.tb.k) with
  | none => d
  | some x => sendOwn d slot (leBytes 1 0x10 ++ leBytes 3 0 ++ leBytes 4 x.s ++ leBytes 8 (wrap 64 x.pos) ++
      leBytes 8 (wrap 64 x.vel) ++ leBytes 8 (wrap 64 x.acc))

/-- TT_SEND (R266, R277). -/
def sendTt (d : Die) (slot : Nat) : Die :=
  if !ownSlots d || slLen d slot == 0 || slKind d slot != 3 || slOwner d slot != nodeId d then d else
  let t := slotGt d (cycleFirst d) slot
  let go := (d.cap.ttQueue.takeWhile fun x => x.2 + 200 ≤ t).take 5
  let body := leBytes 1 0x10 ++ leBytes 1 go.length ++ leBytes 2 0 ++ go.flatMap fun x => leBytes 1 x.1 ++ leBytes 8 x.2
  sendOwn (updCap d fun c => { c with ttQueue := c.ttQueue.drop go.length }) slot body

/-- The beat index nearest to the one in force that a 32-bit number names (R19). -/
def fullBeat (d : Die) (bn : Nat) : Nat := ((d.tb.k : Int) + sext 32 (wrap 32 ((bn : Int) - d.tb.k))).toNat

/-- The instant, in ns, at which a frame of one block that arrived at `f.rx` is received and checked (R259). -/
def checkedGt (f : TrunkFrame) : Nat := cdiv (10 * f.rx + 2448 * 256) 2560

/-- MS_FRAME_RECEIVED (R276): the sample is held from the instant at which its frame is received and checked (R259). -/
def msFrame (d : Die) (f : TrunkFrame) : Die :=
  let r := acceptFrame d f 2 (slOwner d f.slot.val)
  let b := f.payload
  if !r.2 || mstSrc r.1 ≠ 6 || fld r.1 Reg.MST_CFG_SRCID ≠ f.src.val then r.1
  else
    let d := toGt r.1 (checkedGt f)
    addSample d ⟨fullBeat d (leAt b 4 4), sext 64 (leAt b 8 8), sext 64 (leAt b 16 8), sext 64 (leAt b 24 8), d.tb.gt⟩

/-- TT_FRAME_RECEIVED (R277). -/
def ttFrame (d : Die) (f : TrunkFrame) : Die :=
  let r := acceptFrame d f 3 (slOwner d f.slot.val)
  if !r.2 then r.1 else
  (upto (min 5 (leAt f.payload 1 1))).foldl (fun d j =>
    ttArrive d (leAt f.payload (4 + 9 * j) 1 % 8) (leAt f.payload (5 + 9 * j) 8)) r.1

/-- TRUNK_STOP is accepted (R275). -/
def trunkStopOk (d : Die) (all : Bool) : Bool := !all || flag d Reg.CTR_STAT_MASTER

/-- TRUNK_STOP (R275). -/
def trunkStop (d : Die) (all : Bool) (ticket : Nat) : Die :=
  if ctState d = 0 then complete d ticket 0 0 0
  else updTrk d fun t =>
    { t with stopIn := if all then some (t.stopIn.getD 3) else t.stopIn, stopDue := t.stopDue || !all,
             stopTickets := t.stopTickets ++ [ticket] }

/-- TRUNK_START is accepted (R275). -/
def trunkStartOk (d : Die) : Bool := ctState d == 0

/-- TRUNK_START (R264, R271, R275). Every member is due a RESET (R281). -/
def trunkStart (d : Die) (ticket : Nat) : Die :=
  if !flag d Reg.CTR_CFG_DECL || !trunkOk d then complete d ticket 0xB 0 0 else
  let d := putReg (updTrk d fun t => { t with links := linkTable d }) Reg.CTR_HASH (BitVec.ofNat 32 (crc32 (sectionBytes d)))
  let d := enterListen (putPd d)
  updTrk (zeroRate (updTb d fun b => { b with trim := 0 })) fun t =>
    { t with trim := 0, startTicket := ticket, startCycles := 0, cycleGot := false, missed := 0,
             members := t.members.map fun x => (x.1, { x.2 with resetDue := true }) }

/-- TRUNK_LOCK (R253). -/
def execTrunkLock (x : PortLine) (s : State) : Host.Outcome State Fault Refusal :=
  onDie (ctLock · x.port.val x.line) s

/-- TRUNK_LOCK_LOSS (R254). -/
def execTrunkLockLoss (p : Fin 3) (line : LineBits) (s : State) : Host.Outcome State Fault Refusal :=
  onDie (meetLine · p.val line) s

/-- IDLE_BLOCK_RECEIVED (R256): T4 is `ns` and `frac` 2^-8 ns. -/
def execIdleBlockReceived (p : Fin 3) (line : LineBits) (ns : Nat) (frac : Fin 256) (s : State) :
    Host.Outcome State Fault Refusal := onDie (idleBlock · p.val line (256 * ns + frac.val)) s

/-- TRUNK_FRAME_FORWARD (R257). -/
def execTrunkFrameForward (p : Fin 3) (line : LineBits) (rx : Nat) (s : State) : Host.Outcome State Fault Refusal :=
  onDie (forwardFrame · ⟨p, line, rx⟩) s

/-- POSTMARK_RECEIVED (R269). -/
def execPostmarkReceived (f : TrunkFrame) (s : State) : Host.Outcome State Fault Refusal := onDie (postmark · f) s

/-- MS_FRAME_RECEIVED (R276): the sample is held from the instant at which its frame is received and checked (R259). -/
def execMsFrameReceived (f : TrunkFrame) (s : State) : Host.Outcome State Fault Refusal := onDie (msFrame · f) s

/-- TT_FRAME_RECEIVED (R277). -/
def execTtFrameReceived (f : TrunkFrame) (s : State) : Host.Outcome State Fault Refusal := onDie (ttFrame · f) s

/-- POSTMARK_SEND (R268). -/
def execPostmarkSend (s : State) : Host.Outcome State Fault Refusal := onDie sendPostmark s

/-- ST_SEND (R266). -/
def execStSend (slot : Fin 128) (s : State) : Host.Outcome State Fault Refusal := onDie (sendSt · slot.val) s

/-- MS_SEND (R276). -/
def execMsSend (slot : Fin 128) (s : State) : Host.Outcome State Fault Refusal := onDie (sendMs · slot.val) s

/-- TT_SEND (R277). -/
def execTtSend (slot : Fin 128) (s : State) : Host.Outcome State Fault Refusal := onDie (sendTt · slot.val) s

/-- TRUNK_CYCLE_START (R271). -/
def execTrunkCycleStart (s : State) : Host.Outcome State Fault Refusal := onDie cycleStart s

/-- LISTEN_TIMER_EXPIRY (R271): the cycle start has normally made this change; it is made here where it is due. -/
def execListenTimerExpiry (s : State) : Host.Outcome State Fault Refusal := onDie listenExpiry s

/-- TAKEOVER (R273): the cycle start has normally made this change; it is made here where it is due. -/
def execTakeover (s : State) : Host.Outcome State Fault Refusal := onDie takeOver s

/-- POSTMARK_LOSS (R271): the cycle start has normally made this change; it is made here where it is due. -/
def execPostmarkLoss (s : State) : Host.Outcome State Fault Refusal := onDie postmarkLoss s

/-- TRUNK_STOP_EFFECT (R275): the evaluation has normally made this change; it is made here where it is due. -/
def execTrunkStopEffect (s : State) : Host.Outcome State Fault Refusal := onDie stopEffect s

/-- TRUNK_START_NOSYNC (R275): the cycle start has normally made this change; it is made here where it is due. -/
def execTrunkStartNosync (s : State) : Host.Outcome State Fault Refusal := onDie startNosync s

end Sys2Proof.Machine
end

