-- ==== Sys2Proof/Machine/Sheepdog.lean ====
section
/-! DEFINITION. The Sheepdog safety island (R287 to R312): inputs and test pulses, pairs, outputs, functions, the island,
SRST and the release test, the section handshake, and what the link carries to and from the control die. -/

namespace Sys2Proof.Machine

/-- A fault is noted for the evaluation of the safety cycle (R303, R304). -/
def dogFault (g : Dog) (cause detail : Nat) : Dog :=
  if g.pend.contains (cause, detail) then g else { g with pend := g.pend ++ [(cause, detail)] }

/-- The control die is in reset or without supply, as the dedicated line shows it (R306). -/
def dieIsDown (d : Die) : Bool := d.inReset || !d.pwr.up

/-- An event waits to be sent; during a reset of the control die at most 16 are kept (R305). -/
def dogEvt (g : Dog) (down : Bool) (code p0 : Nat) : Dog :=
  if down && 16 ≤ g.events.length then { g with evlost := g.evlost + 1 }
  else { g with events := g.events ++ [⟨code, p0, down⟩] }

/-- The events that wait when the control die is reset (R305): at most 16 are kept, for relay after the restart. -/
def heldOver (g : Dog) : Dog :=
  { g with events := (g.events.take 16).map fun e => { e with held := true }, evlost := g.evlost + (g.events.length - 16) }

/-- The part runs unconfigured (R374): it takes commands and has loaded no Parcel. -/
def noParcel (d : Die) : Bool := flag d Reg.HST_STAT_READY && !d.boot.loaded

/-- A message of the die-to-die link as it is sent (R290): its number and fields with their CRC-16 (log entry 126). -/
def linkMsg (seq : Nat) (body : List Nat) : LinkMsg :=
  ⟨seq, body, crcSo (leBytes 2 seq ++ body.flatMap (leBytes 4))⟩

/-- A message is taken: its CRC-16 is good and its number is not that of the last one taken (R290; log entry 126). -/
def linkTaken (last : Option Nat) (m : LinkMsg) : Bool := m == linkMsg m.seq m.body && last != some m.seq

/-- The control die sends the Sheepdog a message; `link` is what arrives where the link changes it (R290). -/
def toDog (link : Option LinkMsg) (body : List Nat) (g : Dog) (d : Die) : Dog × Die × Option (List Nat) :=
  if dieIsDown d then (g, d, none) else
  let m := link.getD (linkMsg d.dogIo.txSeq body)
  let d := { d with dogIo := { d.dogIo with txSeq := (d.dogIo.txSeq + 1) % 65536 } }
  if linkTaken g.rxSeq m then ({ g with rxSeq := some m.seq }, d, some m.body) else (g, d, none)

/-- The Sheepdog sends the control die a message; `link` is what arrives where the link changes it (R290). -/
def toDie (link : Option LinkMsg) (body : List Nat) (g : Dog) (d : Die) : Dog × Die × Option (List Nat) :=
  let m := link.getD (linkMsg g.txSeq body)
  let g := { g with txSeq := (g.txSeq + 1) % 65536 }
  if !dieIsDown d && linkTaken d.dogIo.rxSeq m then
    (g, { d with dogIo := { d.dogIo with rxSeq := some m.seq } }, some m.body)
  else (g, d, none)

/-- One channel's filter of one input (R293): a run of 16 equal samples decides. -/
def siSample (x : SiSt) (lvl : Bool) : SiSt :=
  let run := if lvl = x.lvl then min 16 (x.run + 1) else 1
  { on := if 16 ≤ run then lvl else x.on, lvl := lvl, run := run }

/-- TPSEL of an input (R293). -/
def tpOf (g : Dog) (i : Nat) : Option Nat :=
  let p := vget pair0 g.pairs (i / 2)
  if i % 2 = 0 then p.tpA else p.tpB

/-- An input's samples are masked (R293). -/
def siMasked (g : Dog) (i : Nat) : Bool :=
  match tpOf g i with
  | some t => (vget none g.mask t).isSome
  | none => false

/-- SAFE_INPUT_SAMPLE (R291, R293). A mask holds for 12 samples of 62.5 µs, which also tell channel A's time (R289). -/
def safeSample (siA siB : BitVec 16) (g : Dog) : Dog :=
  let step (v : Vector SiSt 16) (w : Nat) : Vector SiSt 16 := (upto 16).foldl (fun v i =>
    if siMasked g i then v else vset v i (siSample (vget ⟨false, false, 0⟩ v i) (bitOf w i))) v
  { g with siA := step g.siA siA.toNat, siB := step g.siB siB.toNat,
           mask := g.mask.map fun m => m.bind fun n => if n ≤ 1 then none else some (n - 1), clk := g.clk + 1 }

/-- The place of the test frame where off-pulse `k` starts (0), has its checkpoint (1) or ends (2) (R292, R294). -/
def framePlace (k what : Nat) : Nat := 3 * k + what

/-- OFF_PULSE_START (R292, R293): the next off-pulse of the test frame is one of this supply, two of which follow each
other. -/
def pulseStart (t : Nat) (g : Dog) : Dog :=
  if g.tpPos = framePlace (2 * t) 0 ∨ g.tpPos = framePlace (2 * t + 1) 0 then
    { g with tpOff := g.tpOff ||| BitVec.ofNat 4 (2 ^ t), mask := vset g.mask t (some 12), tpPos := g.tpPos + 1 }
  else g

/-- OFF_PULSE_END (R292): after the pulse's checkpoint. -/
def pulseEnd (t : Nat) (g : Dog) : Dog :=
  if g.tpPos = framePlace (2 * t) 2 ∨ g.tpPos = framePlace (2 * t + 1) 2 then
    { g with tpOff := g.tpOff &&& ~~~ BitVec.ofNat 4 (2 ^ t), tpPos := (g.tpPos + 1) % 24 }
  else g

/-- A reading marked for this frame: bit 0 this frame, bit 1 the last one (R294). The fault comes with the first reading
of the second frame. -/
def frameHit (g : Dog) (v : Vector Nat 16) (i cause : Nat) (hit : Bool) : Vector Nat 16 × Dog :=
  let x := vget 0 v i
  if !hit || x % 2 = 1 then (v, g)
  else (vset v i (x + 1), if x / 2 % 2 = 1 then dogFault g cause i else g)

/-- TEST_PULSE_CHECKPOINT (R292, R294): checkpoint k lies in off-pulse k of the test frame, one of TP k/2. -/
def checkpoint (k : Nat) (tpA tpB : BitVec 4) (siA siB laterA laterB : BitVec 16) (g : Dog) : Dog :=
  if g.tpPos ≠ framePlace k 1 then g else
  let g := { g with tpPos := g.tpPos + 1 }
  let own := k / 2
  let tpGood (t : Nat) : Bool := bitOf tpA.toNat t == (t != own) && bitOf tpB.toNat t == (t != own)
  let g := { g with tpOk := BitVec.ofNat 4 ((upto 4).foldl (fun m t => if tpGood t then setBit m t else m) 0) }
  let g := (upto 4).foldl (fun g t => if tpGood t then g else dogFault g 0x0A t) g
  let g := (upto 16).foldl (fun g i =>
    match tpOf g i with
    | none => g
    | some t =>
      let onA := bitOf siA.toNat i
      let onB := bitOf siB.toNat i
      if t = own then
        let r := frameHit g g.stuck i 0x07 (onA || onB)
        { r.2 with stuck := r.1 }
      else
        let r := frameHit g g.short i 0x08 ((!onA && bitOf laterA.toNat i) || (!onB && bitOf laterB.toNat i))
        { r.2 with short := r.1 }) g
  if k ≠ 7 then g else { g with stuck := g.stuck.map fun x => 2 * (x % 2), short := g.short.map fun x => 2 * (x % 2) }

/-- What both channels judge of an input: ON in both, OFF in both. -/
def siOn (g : Dog) (i : Nat) : Bool := (vget ⟨false, false, 0⟩ g.siA i).on && (vget ⟨false, false, 0⟩ g.siB i).on

/-- See `siOn`. -/
def siOff (g : Dog) (i : Nat) : Bool := !(vget ⟨false, false, 0⟩ g.siA i).on && !(vget ⟨false, false, 0⟩ g.siB i).on

/-- A pair in one safety cycle (R295). DISC is in ms, four safety cycles each; an EDM pair's runs from the last change of its
outputs. -/
def pairStep (g : Dog) (p : Nat) : Pair :=
  let x := vget pair0 g.pairs p
  let i := 2 * p
  let soOn := g.so.toNat &&& x.edmSo != 0
  let pattern := if x.mode = 1 then siOn g i && siOn g (i + 1)
    else if x.mode = 2 then siOn g i && siOff g (i + 1)
    else if x.mode = 3 then (if soOn then siOff g i && siOff g (i + 1) else siOn g i && siOn g (i + 1)) else false
  let bothOff := if x.mode = 2 then siOff g i && siOn g (i + 1) else siOff g i && siOff g (i + 1)
  let armed := bothOff || (x.armed && (pattern || !x.on))
  let bad := if x.mode = 1 then !(pattern || bothOff) else if x.mode = 2 then !(pattern || bothOff) else x.mode == 3 && !pattern
  let discFor := if !bad then 0 else if x.mode == 3 && soOn != x.edmOn then 1 else x.discFor + 1
  { x with edmOn := soOn, armed := armed, on := pattern && armed, discFor := discFor,
           faulted := decide (4 * x.disc < discFor) }

/-- The discrepancy test of a pair fails (R295). -/
def pairBad (x : Pair) : Bool := x.mode != 0 && decide (4 * x.disc < x.discFor)

/-- A function is in demand (R298): some pair of TRIG is OFF; pairs unused or EDM never demand (R295). -/
def demand (g : Dog) (f : SFun) : Bool :=
  (upto 8).any fun p =>
    let x := vget pair0 g.pairs p
    bitOf f.trig p && (x.mode == 1 || x.mode == 2) && !x.on

/-- A function in one safety cycle (R299): whether the island left MUZZLED in it, and whether a press was accepted. -/
def funStep (g : Dog) (left : Bool) (f : SFun) : SFun :=
  if !f.decl then f
  else if !g.run then { f with st := 2, left := 0 }
  else
    let dem := demand g f
    match f.st with
    | 2 =>
      if left && !dem then { f with st := 0 }
      else if !dem then { f with st := if f.manual then 3 else 0 } else f
    | 0 => if !dem then f else if f.ss1 then { f with st := 1, left := f.tss1 } else { f with st := 2 }
    | 1 => if f.left ≤ 1 then { f with st := 2, left := 0 } else { f with left := f.left - 1 }
    | _ => if dem then { f with st := 2 } else if g.accepted then { f with st := 0 } else f

/-- A function holds STO on what it names: STO or WAITRST (R300, R302). -/
def holdsSto (f : SFun) : Bool := f.decl && (f.st == 2 || f.st == 3)

/-- The outputs of a cycle (R300). -/
def outputs (g : Dog) : BitVec 4 :=
  BitVec.ofNat 4 ((upto 4).foldl (fun m n =>
    if g.run && !(upto 8).any (fun i => holdsSto (vget sfun0 g.funs i) && bitOf (vget sfun0 g.funs i).soMask n)
    then setBit m n else m) 0)

/-- The faults that one safety cycle sees as conditions (R288, R295, R297). -/
def cycleFaults (g : Dog) (obs : DogObs) : List (Nat × Nat) :=
  let diff := obs.differ || (upto 16).any fun i => !siOn g i && !siOff g i
  let low := obs.vsoMv < 18000
  let outBad (n : Nat) : Bool :=
    let a := bitOf obs.soReadA.toNat n
    let b := bitOf obs.soReadB.toNat n
    !low && (bitOf obs.overload.toNat n || (bitOf g.so.toNat n && (!a || !b)) || 40 < vget 0 g.soOffFor n)
  (if diff then [(4, 0)] else []) ++ (if obs.clockRatio < 920 || 1080 < obs.clockRatio then [(5, 0)] else []) ++
    (if obs.railsGood then [] else [(6, 0)]) ++
    ((upto 8).filter fun p => pairBad (vget pair0 g.pairs p)).map (fun p => (9, p)) ++
    ((upto 4).filter outBad).map fun n => (11, n)

/-- The island's table (R304), given the faults seen in the cycle and those of them that are new: the state after it and
whether RUN was entered. A fault seen during a release test fails it (R310), one that persists too. DESIGN CHOICE: a release
test found failed in a cycle with a new fault takes its row of R304 in the next cycle; a passed one is dropped (log entry 163). -/
def islandStep (g : Dog) (d : Die) (seen new : List (Nat × Nat)) : Dog × Die × Bool :=
  let down := dieIsDown d
  let word (x : Nat × Nat) : Nat := x.1 + 256 * x.2
  let more (g : Dog) (l : List (Nat × Nat)) : Dog := l.foldl (fun g x => dogEvt g down 2 (word x)) g
  let g := { g with faults := l32 (g.faults + new.length),
                    testFault := if g.test.isSome && g.testFault.isNone then seen.head? else g.testFault }
  match new with
  | x :: rest =>
    if g.run then
      let g := dogEvt { g with run := false, cause := x.1, detail := x.2 } down 1 (word x)
      (more g rest, irqSet (muzzleStop d) 4, false)
    else (more { g with rel := g.rel.filter fun r => !r.1 } new, d, false)
  | [] =>
    if g.run then ({ g with rel := none }, d, false) else
    match g.rel with
    | some (true, _) => (dogEvt { g with run := true, cause := 0, detail := 0, rel := none } down 4 g.sectCrc, d, true)
    | some (false, x) =>
      (dogEvt { g with cause := x.1, detail := x.2, rel := none } down 3 (word x), dogSticky d 9, false)
    | none => (g, d, false)
where
  /-- A 32-bit count, saturating. -/
  l32 (n : Nat) : Nat := min n 0xFFFFFFFF

/-- The ascending insertion of a fault. -/
def insFault (x : Nat × Nat) : List (Nat × Nat) → List (Nat × Nat)
  | [] => [x]
  | y :: l => if x.1 < y.1 || (x.1 == y.1 && x.2 ≤ y.2) then x :: y :: l else y :: insFault x l

/-- The control die's reset as a cycle sees it (R305, R306): fault CDIE at its onset, and no release until a new section. A part
that runs unconfigured has no section (R374). -/
def seeDie (g : Dog) (d : Die) : Dog :=
  let down := dieIsDown d
  let g := if noParcel d then { g with sectOk := false, sectCrc := 0 } else g
  if (down && !g.dieDown) || d.dogIo.resetSeen then
    dogFault { heldOver g with dieDown := down, sinceAccept := true, sectTried := false, rxSeq := none } 2 0
  else { g with dieDown := down }

/-- SAFETY_CYCLE (R288, R295, R297, R299, R300, R302, R304, R306). The message of R302 belongs to the cycle that begins with
this command. -/
def safetyCycle (obs : DogObs) (g : Dog) (d : Die) : Dog × Die :=
  let g := seeDie g d
  let low := decide (obs.vsoMv < 18000)
  let g := { g with cycle := g.cycle + 1, test := g.test.map (· + 1), vsoLow := low,
                    soRead := if low then 0 else obs.soReadA,
                    pairs := Vector.ofFn fun p : Fin 8 => pairStep g p.val,
                    soOffFor := Vector.ofFn fun n : Fin 4 =>
                      if !bitOf g.so.toNat n.val && (bitOf obs.soReadA.toNat n.val || bitOf obs.soReadB.toNat n.val) && !low
                      then vget 0 g.soOffFor n.val + 1 else 0 }
  let seen := ((g.pend ++ cycleFaults g obs).foldl (fun l x => if l.contains x then l else insFault x l) [])
  let new := seen.filter fun x => !g.live.contains x
  let r := islandStep { g with live := seen, pend := [] } d seen new
  let g := r.1
  let g := { g with funs := g.funs.map (funStep g r.2.2) }
  let g := { g with soA := outputs g, soB := outputs g, accepted := false }
  let io := r.2.1.dogIo
  (g, { r.2.1 with dogIo := { io with resetSeen := false, msgSeen := false,
                                      msgQuiet := if io.msgSeen then 0 else min 2 (io.msgQuiet + 1) } })

/-- SS1_TIMER_EXPIRY (R299). -/
def ss1Expiry (f : Nat) (g : Dog) : Dog :=
  let x := vget sfun0 g.funs f
  if x.decl && x.st == 1 && x.left == 0 then
    let g := { g with funs := vset g.funs f { x with st := 2 } }
    { g with soA := g.soA &&& outputs g, soB := g.soB &&& outputs g }
  else g

/-- PAIR_DISCREPANCY (R295). -/
def pairDisc (p : Nat) (g : Dog) : Dog :=
  if pairBad (vget pair0 g.pairs p) then dogFault g 9 p else g

/-- OUTPUT_SWITCH_TEST (R297): a channel opens its own switch of an output that is on, and closes it again. -/
def switchTest (n : Nat) (chanB readsOff : Bool) (g : Dog) : Dog :=
  let own := if chanB then g.soB else g.soA
  let other := if chanB then g.soA else g.soB
  if bitOf own.toNat n && bitOf other.toNat n && !readsOff && !g.vsoLow then dogFault g 11 n else g

/-- OUTPUT_OFF_TIMEOUT (R297). -/
def offTimeout (n : Nat) (g : Dog) : Dog :=
  if !bitOf g.so.toNat n && 40 < vget 0 g.soOffFor n then dogFault g 11 n else g

/-- SRST_PRESS (R308, R309): the trailing edge, with each channel's duration in µs. -/
def srstPress (usA usB : Nat) (g : Dog) (d : Die) : Dog × Die :=
  if !g.pressed then (g, d) else
  let refuse (g : Dog) : Dog := { g with pressed := false, pressRef := min 65535 (g.pressRef + 1) }
  if usA < 50000 ∨ 3000000 < usA then (refuse g, d)
  else if 10000 < (usA - usB) + (usB - usA) then (dogEvt (refuse g) (dieIsDown d) 6 0, dogSticky d 10)
  else
    let g := { g with pressed := false, pressCnt := min 65535 (g.pressCnt + 1) }
    if g.run then ({ g with accepted := true }, d) else ({ g with test := some 0, testFault := none, rel := none }, d)

/-- SRST_HELD (R308). -/
def srstHeld (g : Dog) (d : Die) : Dog × Die :=
  (dogEvt { g with pressed := false, pressRef := min 65535 (g.pressRef + 1) } (dieIsDown d) 5 0, dogSticky d 8)

/-- RELEASE_TEST_END (R310): 160 safety cycles after the trailing edge. The cause found is the first that fails, in the
order of the rule, with the number of the supply or output (R303). -/
def releaseEnd (tpBad switchBad : Option (Fin 4)) (selfGood : Bool) (g : Dog) : Dog :=
  let seen (cause : Nat) : Option (Nat × Nat) := g.testFault.filter fun x => x.1 == cause
  let failed (cause : Nat) (o : Option (Fin 4)) : Option (Nat × Nat) := (seen cause).or (o.map fun n => (cause, n.val))
  match g.test with
  | none => g
  | some n =>
    if n < 160 then g else
    let found : Option (Nat × Nat) :=
      if !g.sectOk then some (3, 0) else if g.sinceAccept then some (2, 0)
      else (((failed 10 tpBad).or (failed 11 switchBad)).or (if selfGood then none else some (14, 0))).or
        (g.testFault.or g.pend.head?)
    { g with test := none, testFault := none, rel := some (found.isNone, found.getD (0, 0)) }

/-- HEARTBEAT (R290, R306): the supervisor's message counts when it is taken; a halted supervisor core sends none (R412). -/
def heartbeat (link : Option LinkMsg) (g : Dog) (d : Die) : Dog × Die :=
  if halted d 17 then (g, d) else
  let r := toDog link [] g d
  ({ r.1 with hbWindow := r.1.hbWindow || r.2.2.isSome }, r.2.1)

/-- HEARTBEAT_WINDOW_END (R306). -/
def windowOver (g : Dog) : Dog :=
  if g.hbWindow then { g with hbWindow := false, hbMiss := 0 }
  else
    let g := { g with hbMiss := min 2 (g.hbMiss + 1) }
    if 2 ≤ g.hbMiss then dogFault { g with sinceAccept := true } 2 0 else g

/-- A byte of a section. -/
def secByte (b : List Byte) (i : Nat) : Nat := leAt b i 1

/-- Pair p of a section (R369), before anything is known of its inputs. -/
def secPair (b : List Byte) (p : Nat) : Pair :=
  let o := 8 * p
  let tp (x : Nat) : Option Nat := if x < 4 then some x else none
  { pair0 with mode := secByte b o, tpA := tp (secByte b (o + 1)), tpB := tp (secByte b (o + 2)),
               edmSo := secByte b (o + 3), disc := leAt b (o + 4) 2 }

/-- What the island knows of a pair's inputs stays when the section gives the pair its fields (R295). -/
def keepSeen (x y : Pair) : Pair := { y with armed := x.armed, on := x.on, edmOn := x.edmOn }

/-- Function f of a section (R369). -/
def secFun (b : List Byte) (f : Nat) : SFun :=
  let o := 64 + 32 * f
  { decl := secByte b o == 1, trig := secByte b (o + 1), ss1 := secByte b (o + 2) == 1, soMask := secByte b (o + 3),
    manual := secByte b (o + 4) == 1, tss1 := leAt b (o + 8) 4, axMask := leAt b (o + 12) 16, st := 2, left := 0 }

/-- Number of slot records of a section. -/
def secNsl (b : List Byte) : Nat := leAt b 352 4

/-- The slots of a section. -/
def secSlots (b : List Byte) : List SSlot := (upto (min 192 (secNsl b))).map fun j =>
  let o := 356 + 8 * j
  { seg := secByte b o, slot := secByte b (o + 1), axis := secByte b (o + 2), tnode := leAt b (o + 4) 4, quiet := 0,
    got := false, stoSince := none, stoJudged := false }

/-- The layout and SCRC of a section (R369): SCRC and VALCRC end it. -/
def secLayoutOk (b : List Byte) : Bool :=
  364 ≤ b.length && b.length == 364 + 8 * secNsl b && leAt b (b.length - 8) 4 == crc32 (b.take (b.length - 8))

/-- Every field of a section lies in its range (R295, R298, R228, LSH_n_SAFECFG); T_SS1 is a field of SS1-t functions only
(log entry 127). -/
def secRangesOk (b : List Byte) : Bool :=
  (upto 8).all (fun p =>
    let o := 8 * p
    let tpOk (x : Nat) : Bool := x < 4 || x == 255
    let disc := leAt b (o + 4) 2
    secByte b o < 4 && tpOk (secByte b (o + 1)) && tpOk (secByte b (o + 2)) && secByte b (o + 3) < 16 &&
      leAt b (o + 6) 2 == 0 && 10 ≤ disc && disc ≤ 500) &&
  (upto 8).all (fun f =>
    let o := 64 + 32 * f
    let t := leAt b (o + 8) 4
    secByte b o < 2 && secByte b (o + 2) < 2 && secByte b (o + 3) < 16 && secByte b (o + 4) < 2 && leAt b (o + 5) 3 == 0 &&
      leAt b (o + 28) 4 == 0 && (secByte b (o + 2) == 0 || (40 ≤ t && t ≤ 120000))) &&
  (upto 4).all (fun s =>
    let o := 320 + 8 * s
    leAt b (o + 5) 3 == 0 && 2 ≤ secByte b (o + 4) && secByte b (o + 4) ≤ 64) &&
  (secSlots b).all (fun x => x.seg < 4 && x.slot < 48 && x.axis < 128) &&
  (upto (min 192 (secNsl b))).all fun j => secByte b (356 + 8 * j + 3) == 0

/-- The safety-layer slots of the Leash slot maps (R311). -/
def mapSlots (d : Die) : List (Nat × Nat × Nat) :=
  (upto 4).flatMap fun s => ((slotsOf d s).filter fun x => bitOf x.2 10).map fun x => (s, x.1, x.2 % 128)

/-- The section's slots are those that the control die tells (R311). -/
def secSlotsOk (maps : List (Nat × Nat × Nat)) (b : List Byte) : Bool :=
  let mine := (secSlots b).map fun x => (x.seg, x.slot, x.axis)
  mine.length == maps.length && secNsl b == mine.length && maps.all mine.contains && mine.all maps.contains

/-- The messages of a handshake (R311): the safety CRC of the Parcel header, the section word by word, and the safety-layer slots
of the slot maps. -/
def sectionMsgs (d : Die) : List (List Nat) :=
  let b := d.boot.safety
  [d.boot.safeCrc] :: ((upto (cdiv b.length 4)).map fun i => (slice b (4 * i) 4).map BitVec.toNat) ++
    (mapSlots d).map fun x => [x.1, x.2.1, x.2.2]

/-- The messages go over the link one by one; `none` once one was not taken (R290, R311). -/
def sendAll : List (List Nat) → List (Option LinkMsg) → Dog → Die → Dog × Die × Option (List (List Nat))
  | [], _, g, d => (g, d, some [])
  | m :: ms, link, g, d =>
    let r := toDog (link.head?.getD none) m g d
    let q := sendAll ms link.tail r.1 r.2.1
    (q.1, q.2.1, match r.2.2, q.2.2 with
      | some x, some xs => some (x :: xs)
      | _, _ => none)

/-- The section, the header's CRC and the slots as the Sheepdog receives them (R311). -/
def sectionGot (d : Die) (ms : List (List Nat)) : Nat × List Byte × List (Nat × Nat × Nat) :=
  let n := cdiv d.boot.safety.length 4
  ((ms.headD []).headD 0, ((ms.drop 1).take n).flatMap fun w => w.map (BitVec.ofNat 8),
    (ms.drop (1 + n)).map fun m => (nth m 0, nth m 1, nth m 2))

/-- A section that passes every check of R311 and R312: header's CRC, section, slots. -/
def sectionOk (x : Nat × List Byte × List (Nat × Nat × Nat)) : Bool :=
  let b := x.2.1
  let scrc := leAt b (b.length - 8) 4
  let val := leAt b (b.length - 4) 4
  secLayoutOk b && scrc == x.1 && secRangesOk b && secSlotsOk x.2.2 b && (val == scrc || val == 0)

/-- The Sheepdog takes a section into its configuration (R311, R312). -/
def takeSection (b : List Byte) (g : Dog) : Dog :=
  let scrc := leAt b (b.length - 8) 4
  let val := leAt b (b.length - 4) 4
  { g with pairs := Vector.ofFn fun p : Fin 8 => keepSeen (vget pair0 g.pairs p.val) (secPair b p.val),
           funs := Vector.ofFn fun f : Fin 8 => secFun b f.val,
           sids := Vector.ofFn fun s : Fin 4 => leAt b (320 + 8 * s.val) 4,
           swdt := Vector.ofFn fun s : Fin 4 => secByte b (324 + 8 * s.val),
           slots := secSlots b, sectOk := true, sectCrc := scrc, valCrc := val, unval := val == 0,
           sinceAccept := false, stuck := Vector.replicate 16 0, short := Vector.replicate 16 0 }

/-- The supervisor core writes SID and SWDT of an accepted section to the PRV registers (R230, R311); the tails' snapshots
follow (R234). -/
def publishSection (g : Dog) (d : Die) : Die :=
  (upto 4).foldl (fun d s =>
    putSnap (setFld (putReg d (Reg.LSH_SID s) (BitVec.ofNat 32 (vget 0 g.sids s))) (Reg.LSH_SAFECFG_SWDT s) (vget 0 g.swdt s)) s) d

/-- SAFETY_SECTION_LOAD (R290, R311, R312): the section and the slot maps of the Parcel in `src`. Channels whose CRCs differ and a
configuration that does not read back refuse the section too. -/
def sectionLoad (l : SectLoad) (src : Die) (g : Dog) (d : Die) : Dog × Die :=
  if g.sectTried || dieIsDown d then (g, d) else
  let r := sendAll (sectionMsgs src) l.link { g with sectTried := true } d
  let refuse : Dog × Die := (dogFault { r.1 with sectOk := false, sectCrc := 0 } 3 0, r.2.1)
  match r.2.2 with
  | none => refuse
  | some ms =>
    let x := sectionGot src ms
    if !(sectionOk x && l.agree && l.readBack) then refuse
    else
      let g := takeSection x.2.1 r.1
      (if g.unval then dogEvt g false 7 g.sectCrc else g, publishSection g r.2.1)

/-- SCMD of a safety-layer slot (R300). -/
def scmdOf (g : Dog) (axis : Nat) : Nat :=
  let mine (f : SFun) : Bool := bitOf f.axMask axis
  let sto := !g.run || 0 < g.hold || (upto 8).any fun i => mine (vget sfun0 g.funs i) && holdsSto (vget sfun0 g.funs i)
  let ss1 := (upto 8).any fun i =>
    let f := vget sfun0 g.funs i
    f.decl && mine f && f.st == 1
  if sto then 1 else 2 * b2n ss1

/-- The node of a safety-layer slot is admitted. -/
def slotAdmitted (d : Die) (x : SSlot) : Bool := nodeState d x.seg (fld d (Reg.AX_CFG_NODE x.axis)) == 2

/-- A status passed by the control die is judged (R230, R307), by channel A's time (R289; log entry 128). -/
def judgeStatus (d : Die) (g : Dog) (m : Nat × Nat × Nat × Nat × Nat × Nat) : Dog :=
  match g.slots.findIdx? fun x => x.seg == m.1 && x.slot == m.2.1 with
  | none => g
  | some j =>
    match g.slots[j]? with
    | none => g
    | some x =>
      let sstat := m.2.2.2.1
      if !slotAdmitted d x || m.2.2.2.2.1 ≠ siCode (vget 0 g.sids x.seg) x.slot m.2.2.1 sstat then g else
      let late := match x.stoSince with
        | some t => !x.stoJudged && decide
            ((1000 * x.tnode * hz d + 2000000000) < (m.2.2.2.2.2 - t) * 62500 * hz d)
        | none => false
      let g := { g with slots := g.slots.set j { x with got := true, quiet := 0, stoJudged := x.stoJudged || late } }
      let g := if bitOf sstat 1 then dogFault g 12 x.slot else g
      if late && !bitOf sstat 0 then dogFault g 13 x.slot else g

/-- LSAFE_WATCHDOG (R307). -/
def lsafeDue (d : Die) (g : Dog) (x : SSlot) : Bool :=
  slotAdmitted d x && vget 0 g.swdt x.seg ≤ x.quiet && vget 0 g.swdt x.seg != 0

/-- What the control die tells before a handover (R230, R231): whether GT was stepped, and the statuses of the last beat. -/
def statusMsg (d : Die) : List Nat :=
  b2n d.dogIo.gtStep.isSome :: d.dogIo.slotIn.flatMap fun m => [m.1, m.2.1, m.2.2.1, m.2.2.2.1, m.2.2.2.2.1, m.2.2.2.2.2]

/-- The statuses of such a message. -/
def statusesOf : List Nat → List (Nat × Nat × Nat × Nat × Nat × Nat)
  | a :: b :: c :: d :: e :: f :: r => (a, b, c, d, e, f) :: statusesOf r
  | _ => []

/-- The safety words of a message, by segment (R301): slot, SCMD, SOCODE. -/
def wordsIn (seg : Nat) : List Nat → List (Nat × Nat × Nat)
  | a :: b :: c :: e :: r => if a = seg then (b, c, e) :: wordsIn seg r else wordsIn seg r
  | _ => []

/-- The statuses that reach the Sheepdog are judged, and LSAFE is looked for (R230, R231, R307). -/
def judgeBeat (d : Die) (msg : List Nat) (g : Dog) : Dog :=
  let g := if msg.head? = some 1 then
      { g with hold := (g.slots.foldl (fun m x => max m (vget 0 g.swdt x.seg)) 0) + 2 } else g
  let g := (statusesOf msg.tail).foldl (judgeStatus d) g
  let aged (x : SSlot) : SSlot :=
    { x with got := false, quiet := if slotAdmitted d x then (if x.got then 0 else x.quiet + 1) else 0 }
  let g := { g with slots := g.slots.map aged }
  g.slots.foldl (fun g x => if lsafeDue d g x then dogFault g 12 x.slot else g) g

/-- The word that leaves the PSD for a slot (R300, R301): channel A's, with the one's complement of its SOCODE where channel B
computes another. -/
def wordFor (g : Dog) (bn : Nat) (differ : List (Fin 4 × Fin 48)) (x : SSlot) : Nat × Nat × Nat :=
  let c := scmdOf g x.axis
  let code := soCode (vget 0 g.sids x.seg) x.slot bn c
  (x.slot, c, if differ.any fun y => y.1.val == x.seg && y.2.val == x.slot then 0xFFFF - code else code)

/-- A slot after its word was handed over: since when STO is sent to it, by channel A's time (R289, R307). -/
def noteSto (g : Dog) (x : SSlot) : SSlot :=
  if scmdOf g x.axis % 2 = 1 then
    (if x.stoSince.isNone then { x with stoSince := some g.clk, stoJudged := false } else x)
  else { x with stoSince := none }

/-- SAFETY_WORD_HANDOVER (R230, R231, R300, R301, R307): the statuses of the last beat are passed and judged, then the words
of the next edge are handed over. `differ` names the slots for which channel B computes another word. -/
def handover (differ : List (Fin 4 × Fin 48)) (linkIn linkOut : Option LinkMsg) (g : Dog) (d : Die) : Dog × Die :=
  let r := toDog linkIn (statusMsg d) g d
  let g := judgeBeat d (r.2.2.getD [0]) r.1
  let d := { r.2.1 with dogIo := { r.2.1.dogIo with
    slotIn := [], gtStep := if r.2.2.isSome then none else r.2.1.dogIo.gtStep } }
  let bn := ((edgeDue d).getD (d.tb.k + 1)) % 2 ^ 32
  let odd := g.slots.filter fun x => differ.any fun y => y.1.val == x.seg && y.2.val == x.slot
  let g := odd.foldl (fun g x => dogFault g 4 x.slot) g
  let msg := g.slots.flatMap fun x => let w := wordFor g bn differ x; [x.seg, w.1, w.2.1, w.2.2]
  let g := { g with hold := g.hold - 1, slots := g.slots.map (noteSto g) }
  let q := toDie linkOut msg g d
  match q.2.2 with
  | none => (q.1, q.2.1)
  | some m => (q.1, (upto 4).foldl (fun d s => updSeg d s fun y => { y with safeWords := some (wordsIn s m) }) q.2.1)

/-- The SS1 flag (bit 0) and the STO state (bit 1) of an axis as the Sheepdog sends them (R302). -/
def axisMsg (g : Dog) (a : Nat) : Nat :=
  let names (p : SFun → Bool) : Bool :=
    (upto 8).any fun i => bitOf (vget sfun0 g.funs i).axMask a && p (vget sfun0 g.funs i)
  b2n (names fun f => f.decl && f.st == 1) + 2 * b2n (!g.run || names holdsSto)

/-- SS1_STO_MESSAGE (R290, R302). -/
def stoMessage (link : Option LinkMsg) (g : Dog) (d : Die) : Dog × Die :=
  let r := toDie link ((upto 128).map (axisMsg g)) g d
  match r.2.2 with
  | none => (r.1, r.2.1)
  | some m =>
    let d := (declAxes r.2.1).foldl (fun d a => updAx d a fun h => { h with ss1 := bitOf (nth m a) 0, sto := bitOf (nth m a) 1 })
      r.2.1
    (r.1, { d with dogIo := { d.dogIo with msgQuiet := 0, msgSeen := true } })

/-- A Sheepdog event enters the Logbook's queue (R305, R405, R409), with LATE for one kept through a reset. -/
def logDog (d : Die) (e : DogEvt) : Die :=
  logPut d ⟨d.tb.gt, 8, e.code, nth [0, 3, 3, 3, 0, 1, 1, 1, 1] e.code, e.p0, 0, 0, e.held⟩

/-- The control die takes an event message (R290, R305). -/
def takeEvent (r : Dog × Die × Option (List Nat)) : Dog × Die :=
  (r.1, match r.2.2 with
    | some m => logDog r.2.1 ⟨nth m 0, nth m 1, nth m 2 == 1⟩
    | none => r.2.1)

/-- SHEEPDOG_EVENT (R290, R305). After the last event of a reset that dropped some, one more says so. -/
def sendEvent (link : Option LinkMsg) (g : Dog) (d : Die) : Dog × Die :=
  if dieIsDown d then (g, d) else
  let g := if d.dogIo.resetSeen then heldOver g else g
  match g.events with
  | e :: rest => takeEvent (toDie link [e.code, e.p0, b2n e.held] { g with events := rest } d)
  | [] => if g.evlost ≠ 0 then takeEvent (toDie link [8, 0, 1] { g with evlost := 0 } d) else (g, d)

/-- What arrives in place of the `n`-th message from now on the die-to-die link; `none`: the message as it is sent. -/
def arriving (s : State) (n : Nat) : Option LinkMsg := (s.dogIn.arrive[n]?).join

/-- The next `n` messages of the link have arrived. -/
def arrived (s : State) (n : Nat) : State := { s with dogIn := { s.dogIn with arrive := s.dogIn.arrive.drop n } }

/-- The two messages of a handover have arrived, and channel B has compared the words. -/
def handed (s : State) : State := { s with dogIn := ⟨s.dogIn.arrive.drop 2, []⟩ }

/-- A command that acts on the Sheepdog alone. -/
def dogOnly (f : Dog → Dog) (s : State) : Host.Outcome State Fault Refusal := onDog (fun g d => (f g, d)) s

/-- SAFETY_CYCLE (R288). -/
def execSafetyCycle (obs : DogObs) (s : State) : Host.Outcome State Fault Refusal := onDog (safetyCycle obs) s

/-- SS1_TIMER_EXPIRY (R299): the safety cycle has normally made this change; it is made here where it is due. -/
def execSs1TimerExpiry (f : Fin 8) (s : State) : Host.Outcome State Fault Refusal := dogOnly (ss1Expiry f.val) s

/-- PAIR_DISCREPANCY (R295). -/
def execPairDiscrepancy (p : Fin 8) (s : State) : Host.Outcome State Fault Refusal := dogOnly (pairDisc p.val) s

/-- TEST_PULSE_CHECKPOINT (R294). -/
def execTestPulseCheckpoint (k : Fin 8) (tpA tpB : BitVec 4) (siA siB siLaterA siLaterB : BitVec 16) (s : State) :
    Host.Outcome State Fault Refusal := dogOnly (checkpoint k.val tpA tpB siA siB siLaterA siLaterB) s

/-- OUTPUT_SWITCH_TEST (R297): either channel's test. -/
def execOutputSwitchTest (n : Fin 4) (chanB readsOff : Bool) (s : State) : Host.Outcome State Fault Refusal :=
  dogOnly (switchTest n.val chanB readsOff) s

/-- OUTPUT_OFF_TIMEOUT (R297). -/
def execOutputOffTimeout (n : Fin 4) (s : State) : Host.Outcome State Fault Refusal := dogOnly (offTimeout n.val) s

/-- DIAG_SELF_TEST (R303). -/
def execDiagSelfTest (okA okB : Bool) (s : State) : Host.Outcome State Fault Refusal :=
  dogOnly (fun g => if okA && okB then g else dogFault g 14 0) s

/-- SRST_PRESS_BEGIN (R308). -/
def execSrstPressBegin (s : State) : Host.Outcome State Fault Refusal := dogOnly (fun g => { g with pressed := true }) s

/-- SRST_PRESS (R308). -/
def execSrstPress (usA usB : Nat) (s : State) : Host.Outcome State Fault Refusal := onDog (srstPress usA usB) s

/-- SRST_HELD (R308). -/
def execSrstHeld (s : State) : Host.Outcome State Fault Refusal := onDog srstHeld s

/-- RELEASE_TEST_END (R310). -/
def execReleaseTestEnd (tpBad switchBad : Option (Fin 4)) (selfGood : Bool) (s : State) : Host.Outcome State Fault Refusal :=
  dogOnly (releaseEnd tpBad switchBad selfGood) s

/-- HEARTBEAT (R306; log entry 138). -/
def execHeartbeat (s : State) : Host.Outcome State Fault Refusal := onDog (heartbeat (arriving s 0)) (arrived s 1)

/-- HEARTBEAT_WINDOW_END (R306). -/
def execHeartbeatWindowEnd (s : State) : Host.Outcome State Fault Refusal := dogOnly windowOver s

/-- SAFETY_WORD_HANDOVER (R301; log entry 138): the statuses arrive, then the words. -/
def execSafetyWordHandover (s : State) : Host.Outcome State Fault Refusal :=
  onDog (handover s.dogIn.differ (arriving s 0) (arriving s 1)) (handed s)

/-- SS1_STO_MESSAGE (R302; log entry 138). -/
def execSs1StoMessage (s : State) : Host.Outcome State Fault Refusal := onDog (stoMessage (arriving s 0)) (arrived s 1)

/-- SS1_STO_MESSAGE_TIMEOUT (R302). -/
def execSs1StoMessageTimeout (s : State) : Host.Outcome State Fault Refusal :=
  onDie (fun d => { d with dogIo := { d.dogIo with msgQuiet := 2 } }) s

/-- LSAFE_WATCHDOG (R307). -/
def execLsafeWatchdog (seg : Fin 4) (slot : Fin 48) (s : State) : Host.Outcome State Fault Refusal :=
  onDog (fun g d => (g.slots.foldl (fun g x =>
    if x.seg == seg.val && x.slot == slot.val && lsafeDue d g x then dogFault g 12 x.slot else g) g, d)) s

/-- SHEEPDOG_EVENT (R305; log entry 138). -/
def execSheepdogEvent (s : State) : Host.Outcome State Fault Refusal := onDog (sendEvent (arriving s 0)) (arrived s 1)

/-- SAFE_INPUT_SAMPLE (R291). -/
def execSafeInputSample (siA siB : BitVec 16) (s : State) : Host.Outcome State Fault Refusal :=
  dogOnly (safeSample siA siB) s

/-- OFF_PULSE_START (R292). -/
def execOffPulseStart (tp : Fin 4) (s : State) : Host.Outcome State Fault Refusal := dogOnly (pulseStart tp.val) s

/-- OFF_PULSE_END (R292). -/
def execOffPulseEnd (tp : Fin 4) (s : State) : Host.Outcome State Fault Refusal := dogOnly (pulseEnd tp.val) s

end Sys2Proof.Machine
end

