-- ==== Sys2Proof/Machine/Logbook.lean ====
section
/-! DEFINITION. The Logbook (R403 to R409) and the debug port (R410 to R412). -/

namespace Sys2Proof.Machine

/-- Events that are not written: counted, and the next entry carries LOSS (R405, R406). -/
def logLose (d : Die) (n : Nat) : Die :=
  if n = 0 then d else
  let d := putReg d Reg.LOG_CNT_LOST (BitVec.ofNat 32 (min ((getReg d Reg.LOG_CNT_LOST).toNat + n) (2 ^ 32 - 1)))
  let d := setFlag d Reg.LOG_STAT_LOSS
  { d with lgb := { d.lgb with queue := [], lossNext := true } }

/-- The Logbook freezes (R407): queued events are lost; the trigger's index stays. -/
def logFreeze (d : Die) : Die :=
  if flag d Reg.LOG_STAT_FROZEN then d else
  let d := logLose d d.lgb.queue.length
  let d := setFld (setFlag d Reg.LOG_STAT_FROZEN) Reg.LOG_STAT_PENDING 0
  { d with lgb := { d.lgb with post := none } }

/-- THAW (R407): writing resumes, TRIGIDX.VALID clears, the trigger is armed again. -/
def logThaw (d : Die) : Die :=
  if !(flag d Reg.LOG_STAT_FROZEN) then d else
  let d := setFld (setFld (setFld d Reg.LOG_STAT_FROZEN 0) Reg.LOG_STAT_PENDING 0) Reg.LOG_TRIGIDX_VALID 0
  { d with lgb := { d.lgb with post := none } }

/-- The eight words of an entry (R403). -/
def logWords (e : LogEvt) (epoch seq : Nat) (loss : Bool) : List Nat :=
  [e.gt % 2 ^ 32, e.gt / 2 ^ 32 % 2 ^ 32,
   epoch % 2 ^ 16 + 2 ^ 16 * e.src + 2 ^ 24 * e.sev + 2 ^ 30 * b2n e.late + 2 ^ 31 * b2n loss,
   e.code, e.p0 % 2 ^ 32, e.p1 % 2 ^ 32, e.p2 % 2 ^ 32, seq]

/-- The trigger and the count of entries after it (R407), for an entry just written at an index. -/
def logTrig (d : Die) (sev idx : Nat) : Die :=
  match d.lgb.post with
  | some n =>
    let d := { d with lgb := { d.lgb with post := some (n - 1) } }
    if n ≤ 1 then logFreeze d else d
  | none =>
    if flag d Reg.LOG_CTL_FRZEN && fld d Reg.LOG_CTL_FRZSEV ≤ sev then
      let d := setFlag (setFld d Reg.LOG_TRIGIDX_INDEX idx) Reg.LOG_TRIGIDX_VALID
      let d := setFlag d Reg.LOG_STAT_PENDING
      let n := fld d Reg.LOG_CTL_POST
      let d := { d with lgb := { d.lgb with post := some n } }
      if n = 0 then logFreeze d else d
    else d

/-- LOG_ENTRY_WRITE (R405, R407, R408): the head event is written at index SEQ mod 4,096. A relayed Sheepdog event
carries the GT of its writing; in reset nothing is written (R406). -/
def logEntryWrite (d : Die) : Die :=
  match d.lgb.queue with
  | [] => d
  | e :: rest =>
    if flag d Reg.LOG_STAT_FROZEN || d.inReset then d else
    let seq := (getReg d Reg.LOG_SEQ).toNat
    let idx := seq % 4096
    let e := if e.late then { e with gt := d.tb.gt } else e
    let w := logWords e (getReg d Reg.LOG_EPOCH).toNat seq d.lgb.lossNext
    let d := { d with lgb := { d.lgb with queue := rest, entries := sput [] d.lgb.entries idx w, lossNext := false } }
    let d := putReg d Reg.LOG_SEQ (BitVec.ofNat 32 (seq + 1))
    let d := if idx = 4095 then setFlag d Reg.LOG_STAT_WRAPPED else d
    let d := if fld d Reg.LOG_CTL_IRQSEV ≤ e.sev then irqSet d 6 else d
    logTrig d e.sev idx

/-- LOG_TRIGGER_FREEZE (R407): normally made with the last of the POST entries; made here where it is still due. -/
def logTriggerFreeze (d : Die) : Die := if d.lgb.post = some 0 then logFreeze d else d

/-- A write of LOG_RD_IDX copies the entry to LOG_RD_W0 to W7; one never written reads zero (R403). -/
def logRdIdx (d : Die) (idx : Nat) : Die :=
  let w := sget [] d.lgb.entries (idx % 4096)
  forEach (upto 8) (putReg d Reg.LOG_RD_IDX (BitVec.ofNat 32 (idx % 4096))) fun d i =>
    putReg d (Reg.LOG_RD_W i) (BitVec.ofNat 32 (nth w i))

/-- VENDOR_DEBUG_ATTACH (R412, R413). -/
def debugAttach (d : Die) : Die :=
  if d.boot.blown || flag d Reg.LOG_DBG_ATTACHED then d
  else logEvt (setFlag d Reg.LOG_DBG_ATTACHED) 0 6 1 0 0 0

/-- The vendor session ends (R412): the cores it halted go on (log entry 157). -/
def debugDetach (d : Die) : Die := { setFld d Reg.LOG_DBG_ATTACHED 0 with tap := { d.tap with halted := 0, sup := [] } }

/-- The data registers of the test port (R410, R411). -/
inductive TapReg where
  | bypass | idcode | boundary | vendor
  deriving DecidableEq, Repr

/-- The data register between TDI and TDO, judged as the part stands (R410, R411): outside PROOF mode EXTEST, CLAMP and HIGHZ
act as BYPASS, and so do the vendor's instructions once DBGOFF is blown. -/
def tapReg (d : Die) : TapReg :=
  if d.tap.ir = 0x00 then (if proofMode d then .boundary else .bypass)
  else if d.tap.ir = 0x01 then .idcode
  else if d.tap.ir = 0x02 then .boundary
  else if 0x80 ≤ d.tap.ir.toNat ∧ d.tap.ir.toNat < 0x90 ∧ d.boot.blown = false then .vendor
  else .bypass

/-- The 32 bits of IDCODE (R410). -/
def idcodeWord (d : Die) : Nat :=
  1 + 2 * Config.jedecId.toNat + 2 ^ 12 * 0x7128 + 2 ^ 28 * fld d Reg.GLB_ID_STEP_MAJ

/-- `n` bits of a number, the lowest first: the order in which a data register shifts. -/
def bitList (n x : Nat) : List Bool := (upto n).map (bitOf x)

/-- The instruction register takes a code, and the register it selects captures what it shifts out (R410): IDCODE its word,
BYPASS a 0, the boundary register the levels sampled last. -/
def tapSelect (d : Die) (ir : BitVec 8) : Die :=
  let d := { d with tap := { d.tap with ir := ir } }
  let dr := match tapReg d with
    | .bypass => [false]
    | .idcode => bitList 32 (idcodeWord d)
    | .boundary => bitList 154 d.tap.sampled.toNat
    | .vendor => []
  { d with tap := { d.tap with dr := dr } }

/-- SAMPLE/PRELOAD (R410): the pins are captured and the boundary register is loaded. -/
def tapSample (d : Die) (pins preload : ScanWord) : Die :=
  tapSelect { d with tap := { d.tap with sampled := pins, bsr := preload } } 0x02

/-- A word of the supervisor core's memory (R412): what the session knows of it while the core is halted, else a free value. -/
def supWord (d : Die) (a : Nat) : Word :=
  (sget none d.tap.sup a).getD (BitVec.ofNat 32 (draw d).1.toNat)

/-- A word of the supervisor core's memory is known to the session while the core is halted (R412; log entry 157). -/
def supKeep (d : Die) (a : Nat) (w : Word) : Die :=
  if halted d 17 then { d with tap := { d.tap with sup := sput none d.tap.sup a (some w) } } else d

/-- A word of a memory that vendor debug reads (R51, R157, R164, R412). -/
def debugRead (d : Die) (a : Nat) : DebugMem → List Bool
  | .program => bitList 48 (fetch d (a % 2 ^ 14))
  | .coef => bitList 48 (sget 0 d.mem.ymem (a % 2 ^ 15)).toNat
  | .data e => bitList 48 (sget 0 d.mem.xram (e.val * 8192 + a % 8192)).toNat
  | .descriptor => bitList 128 (sget 0 d.knl.descs (a % 1024)).toNat
  | .pawprint => bitList 128 (sget 0 d.knl.buffer (a % 16384)).toNat
  | .supervisor => bitList 32 (supWord d a).toNat

/-- A word of a memory that vendor debug writes; the copies of the I and Y memories alike (R52, R412; log entry 157). -/
def debugWrite (d : Die) (a : Nat) (v : BitVec 128) : DebugMem → Die
  | .program => { d with mem := { d.mem with imem := sput imemDefault d.mem.imem (a % 2 ^ 14) (BitVec.ofNat 48 v.toNat) } }
  | .coef => { d with mem := { d.mem with ymem := sput 0 d.mem.ymem (a % 2 ^ 15) (BitVec.ofNat 48 v.toNat) } }
  | .data e => { d with mem := { d.mem with xram := sput 0 d.mem.xram (e.val * 8192 + a % 8192) (BitVec.ofNat 48 v.toNat) } }
  | .descriptor => updKnl d fun k => { k with descs := sput 0 k.descs (a % 1024) v }
  | .pawprint => updKnl d fun k => { k with buffer := sput 0 k.buffer (a % 16384) v }
  | .supervisor => supKeep d a (BitVec.ofNat 32 v.toNat)

/-- What a read of a memory leaves (R412): of the supervisor core's, that the session knows the word it drew. -/
def debugSeen (d : Die) (a : Nat) (m : DebugMem) : Die :=
  if m = .supervisor then supKeep (draw d).2 a (supWord d a) else d

/-- Run control and memory access of a vendor session (R412). -/
def debugAct (d : Die) : DebugAct → Die
  | .none => d
  | .halt c => { d with tap := { d.tap with halted := d.tap.halted ||| BitVec.ofNat 18 (2 ^ c.val) } }
  | .resume c =>
    { d with tap := { d.tap with halted := BitVec.ofNat 18 (clrBit d.tap.halted.toNat c.val),
                                 sup := if c = 17 then [] else d.tap.sup } }
  | .read m a =>
    let e := debugSeen d a.toNat m
    { e with tap := { e.tap with dr := debugRead d a.toNat m } }
  | .write m a v => debugWrite d a.toNat v m

/-- Vendor debug instructions (R410, R412): BYPASS once DBGOFF is blown; what they do, they do while a session is attached. -/
def tapVendor (d : Die) (op : DebugOp) : Die :=
  let d := tapSelect d (BitVec.ofNat 8 (0x80 + op.code.toNat))
  if tapReg d = .vendor ∧ flag d Reg.LOG_DBG_ATTACHED = true then debugAct d op.act else d

/-- LOG_ENTRY_WRITE (R405). -/
def execLogEntryWrite (s : State) : Host.Outcome State Fault Refusal := onDie logEntryWrite s

/-- LOG_TRIGGER_FREEZE (R407). -/
def execLogTriggerFreeze (s : State) : Host.Outcome State Fault Refusal := onDie logTriggerFreeze s

/-- VENDOR_DEBUG_ATTACH (R412). -/
def execVendorDebugAttach (s : State) : Host.Outcome State Fault Refusal := onDie debugAttach s

/-- VENDOR_DEBUG_DETACH (R412). -/
def execVendorDebugDetach (s : State) : Host.Outcome State Fault Refusal := onDie debugDetach s

/-- EXTEST (R411). -/
def execExtest (s : State) : Host.Outcome State Fault Refusal := onDie (tapSelect · 0x00) s

/-- IDCODE (R410). -/
def execIdcode (s : State) : Host.Outcome State Fault Refusal := onDie (tapSelect · 0x01) s

/-- SAMPLE_PRELOAD (R410). -/
def execSamplePreload (pins preload : ScanWord) (s : State) : Host.Outcome State Fault Refusal :=
  onDie (tapSample · pins preload) s

/-- CLAMP (R411). -/
def execClamp (s : State) : Host.Outcome State Fault Refusal := onDie (tapSelect · 0x04) s

/-- HIGHZ (R411). -/
def execHighz (s : State) : Host.Outcome State Fault Refusal := onDie (tapSelect · 0x05) s

/-- VENDOR_DEBUG (R412). -/
def execVendorDebug (op : DebugOp) (s : State) : Host.Outcome State Fault Refusal := onDie (tapVendor · op) s

/-- BYPASS (R410). -/
def execBypass (s : State) : Host.Outcome State Fault Refusal := onDie (tapSelect · 0xFF) s

end Sys2Proof.Machine
end

