-- ==== Sys2Proof/Machine/RegAcc.lean ====
section
/-! DEFINITION. Register access (R7 to R15, R336 to R342, R414 to R420): the row of an offset, whether its domain is
powered, what a register reads, and which values are illegal. -/

namespace Sys2Proof.Machine

/-- The register rows of the block an offset lies in (R414). -/
def rowsAt (off : Nat) : List RegRow :=
  if off < 0x1000 then Reg.glbRows
  else if off < 0x2000 then Reg.pwrRows
  else if off < 0x3000 then Reg.hstRows
  else if off < 0x4000 then Reg.beatRows
  else if off < 0x5000 then Reg.knlRows
  else if off < 0x6000 then Reg.logRows
  else if off < 0x7000 then Reg.shdRows
  else if off < 0x8000 then Reg.mstRows
  else if off < 0xC000 then Reg.leRows
  else if off < 0xE000 then Reg.lshRows
  else if off < 0xF000 then Reg.ctrRows
  else if off < 0x10000 then Reg.capRows
  else if off < 0x11000 then Reg.stpRows
  else if off < 0x12000 then Reg.canRows
  else if off < 0x20000 then []
  else if off < 0x40000 then Reg.axRows
  else if off < 0xC0000 then []
  else if off < 0xC1000 then Reg.mbxRows
  else []

/-- The array indices of a distance from the base, given the dimensions (count, stride) in falling stride. -/
def dimIdx : List (Nat × Nat) → Nat → Option (List Nat)
  | [], 0 => some []
  | [], _ => none
  | (n, st) :: ds, x =>
    if x / st < n then
      match dimIdx ds (x % st) with
      | some l => some (x / st :: l)
      | none => none
    else none

/-- The row and indices of an offset in a list of rows. -/
def findIn : List RegRow → Nat → Option (RegRow × List Nat)
  | [], _ => none
  | r :: rs, off =>
    if off < r.base then findIn rs off else
    match dimIdx r.dims (off - r.base) with
    | some ix => some (r, ix)
    | none => findIn rs off

/-- The register at an offset, if the map has one. -/
def findReg (off : Nat) : Option (RegRow × List Nat) := findIn (rowsAt off) off

/-- The domain of a register (R383); none for the core, the always-on domain and the PSD. -/
def regDomain (r : RegRow) (ix : List Nat) : Option Nat :=
  match r.dom with
  | .core => none
  | .aon => none
  | .shd => none
  | .host => some 57
  | .knl => some 40
  | .log => some 79
  | .mst => some 78
  | .axis => some (36 + nth ix 0 / 32)
  | .cap => some 67
  | .stp => some (72 + nth ix 0 / 16)
  | .stpGrp => some 72
  | .can => some (74 + nth ix 0)

/-- The part is a cluster member (R6). -/
def isMember (d : Die) : Bool := isCluster d && !isLead d

/-- Whether a register answers (R416): its domain is powered, or it is a host port register that a member keeps in its
supervisor domain and the access comes over the trunk (R420). CTR_WTAG is the lead's. -/
def regAnswers (d : Die) (trunk : Bool) (off : Nat) (r : RegRow) (ix : List Nat) : Bool :=
  let pw := match regDomain r ix with
    | some dom => powered d dom || (trunk && dom == 57)
    | none => true
  pw && !(isMember d && off == Reg.CTR_WTAG)

/-- The register that answers at an offset. -/
def regAt (d : Die) (trunk : Bool) (off : Nat) : Option (RegRow × List Nat) :=
  match findReg off with
  | some x => if off % 4 = 0 && regAnswers d trunk off x.1 x.2 then some x else none
  | none => none

/-- A ring register at a cluster member, which has no port for it (R420). -/
def memberRing (d : Die) (trunk : Bool) (off : Nat) : Bool := trunk && isMember d && 0x2040 ≤ off && off ≤ 0x2054

/-- A word of the capture record window (R191, R416): the page CAP_WIN_SEL selects, 0 while its bank is off. -/
def captureWord (d : Die) (off : Nat) : Nat :=
  let page := fld d Reg.CAP_WIN_SEL_PAGE
  let a := page * 0x40000 + (off - 0x40000)
  if powered d 67 && powered d (68 + page / 2) then
    leNat ((upto 4).map fun j => sget 0 d.cap.sram (a + j))
  else 0

/-- A word of the Pawprint window (R164). -/
def pawWord (d : Die) (off : Nat) : Nat :=
  let x := off - 0x80000
  ((sget 0 d.knl.buffer (x / 16)).toNat >>> (32 * (x / 4 % 4))) % 2 ^ 32

/-- The whole of a bit vector of small numbers: bit `i` from `f i`. -/
def bitsFrom (n : Nat) (f : Nat → Bool) : Nat := (upto n).foldl (fun x i => if f i then setBit x i else x) 0

/-- What the SHD registers show of the Sheepdog; the sticky bits stand at the die (R305, R308). -/
def shdView (g : Dog) (d : Die) (off : Nat) : Nat :=
  if off = Reg.SHD_STAT then
    b2n g.run + 2 * b2n (g.sectOk && !noParcel d) + 4 * b2n g.unval + 8 * b2n g.vsoLow + 16 * b2n g.test.isSome +
      (d.dogIo.sticky &&& 0xF00)
  else if off = Reg.SHD_CAUSE then g.cause % 256 + 256 * (g.detail % 256)
  else if off = Reg.SHD_SECT_CRC then (if g.sectOk && !noParcel d then g.sectCrc else 0)
  else if off = Reg.SHD_SI then
    bitsFrom 16 (fun i => (vget ⟨false, false, 0⟩ g.siA i).on) +
      65536 * bitsFrom 16 fun i => (vget ⟨false, false, 0⟩ g.siB i).on
  else if off = Reg.SHD_PAIR then
    bitsFrom 8 (fun p => (vget pair0 g.pairs p).on) + 256 * bitsFrom 8 fun p => (vget pair0 g.pairs p).faulted
  else if off = Reg.SHD_SF then (upto 8).foldl (fun x f => x + (vget sfun0 g.funs f).st * 4 ^ f) 0
  else if off = Reg.SHD_SO then g.so.toNat + 16 * g.soRead.toNat + 256 * g.tpOk.toNat
  else if off = Reg.SHD_SS1LEFT then
    (upto 8).foldl (fun x f => let s := vget sfun0 g.funs f; if s.st = 1 then max x s.left else x) 0
  else if off = Reg.SHD_CNT_SRST then min g.pressCnt 65535 + 65536 * min g.pressRef 65535
  else if off = Reg.SHD_CNT_FAULT then min g.faults (2 ^ 32 - 1)
  else 0

/-- What the registers of loop engine e show (R89): LE_n_STAT and LE_n_TASK. -/
def leView (d : Die) (off : Nat) : Nat :=
  let e := (off - 0x8000) / 0x400
  let h := engH d e
  let run := h.active.filter fun t => !t.parked
  if off % 0x400 = 0 then
    b2n (powered d e) + 2 * b2n run.isSome + 4 * b2n h.other.isSome + 8 * b2n h.bank
  else match run with
    | some t => t.idx + 4096 * t.level + 65536 * t.ctx.pc.toNat + 2 ^ 31
    | none => 0

/-- The bits of descriptor word w that R151 gives a meaning; the others are reserved and read 0 (R12). -/
def descBits (w : Nat) : Nat := nth [0xBFFFFFFF, 0xFFFF, 0x1FFFFF, 0xFF] w

/-- What KNL_RDY, KNL_INST, KNL_DESC_W and KNL_QFILL show. -/
def knlView (d : Die) (off : Nat) : Nat :=
  let raw := (getReg d off).toNat
  if off = Reg.KNL_INST then setBitsOf raw 0 9 d.knl.store
  else if Reg.KNL_DESC_W 0 ≤ off ∧ off < Reg.KNL_DESC_W 4 then
    descWord d (fld d Reg.KNL_DESC_SEL_INDEX) ((off - Reg.KNL_DESC_W 0) / 4) &&&
      descBits ((off - Reg.KNL_DESC_W 0) / 4)
  else if Reg.KNL_RDY 0 ≤ off ∧ off < Reg.KNL_RDY 16 then (readyList d ((off - Reg.KNL_RDY 0) / 4)).length
  else if Reg.KNL_QFILL 0 ≤ off ∧ off < Reg.KNL_QFILL 23 then
    let s := (off - Reg.KNL_QFILL 0) / 4
    setBitsOf (setBitsOf raw 0 7 (kqueue d s).length) 7 1 (b2n (headBlocked d s))
  else raw

/-- Word k of the head entry of the receive FIFO, with the words of R326 in order. -/
def rxWord (d : Die) (n k : Nat) : Nat := nth ((canH d n).fifo.headD []) k

/-- What the live registers of CAN controller n show. -/
def canView (d : Die) (n off : Nat) : Nat :=
  let raw := (getReg d off).toNat
  if off = Reg.CAN_STAT n then setBitsOf raw 3 1 (b2n !(canH d n).fifo.isEmpty)
  else if off = Reg.CAN_TS n then d.tb.gt / 1000 % 2 ^ 32
  else if off = Reg.CAN_RXF_STAT n then setBitsOf raw 0 7 (canH d n).fifo.length
  else if off = Reg.CAN_RXF_ID n then rxWord d n 0
  else if off = Reg.CAN_RXF_FRM n then rxWord d n 1
  else if off = Reg.CAN_RXF_TS n then rxWord d n 2
  else if Reg.CAN_RXF_DATA n 0 ≤ off ∧ off < Reg.CAN_RXF_DATA n 16 then
    rxWord d n (3 + (off - Reg.CAN_RXF_DATA n 0) / 4)
  else raw

/-- Outstanding tickets of queue q (R346). -/
def outstandingOf (d : Die) (q : Nat) : Nat :=
  (d.host.cmds.filter fun c => c.q == q).length + (d.host.delivered.filter fun x => x.1 != 0 && x.2.1 == q).length

/-- The kept response that HST_RSP_SEL selects (R350). -/
def rspSel (d : Die) : Option (Nat × Nat × List Byte) :=
  d.host.rsps.find? fun x => x.1 == fld d Reg.HST_RSP_SEL_TICKET

/-- What the live host port and mailbox registers show. -/
def hostView (d : Die) (off : Nat) : Nat :=
  let raw := (getReg d off).toNat
  if off = Reg.HST_STAT then
    let x := setBitsOf raw 1 2 (d.straps.toNat % 4)
    let x := setBitsOf x 3 1 (b2n (isCluster d && isLead d && decide (d.straps.toNat % 4 < 2)))
    setBitsOf x 4 9 (outstanding d)
  else if off = Reg.HST_IRQ_STAT then irqStat d
  else if Reg.HST_QSTAT 0 ≤ off ∧ off < Reg.HST_QSTAT 4 then outstandingOf d ((off - Reg.HST_QSTAT 0) / 4)
  else if off = Reg.HST_CFIFO_STAT then d.host.fifo.length
  else if Reg.HST_CFIFO_W 0 ≤ off ∧ off < Reg.HST_CFIFO_W 4 then
    nth (d.host.fifo.headD []) ((off - Reg.HST_CFIFO_W 0) / 4)
  else if off = Reg.HST_RSP_STAT then
    match rspSel d with
    | some x => x.2.2.length + 256 * x.2.1 + 2 ^ 31
    | none => 0
  else if Reg.HST_RSP_DATA 0 ≤ off ∧ off < Reg.HST_RSP_DATA 64 then
    match rspSel d with
    | some x => leAt x.2.2 (off - Reg.HST_RSP_DATA 0) 4
    | none => 0
  else raw

/-- The part has a host port (R328, R329, R359). -/
def hasHost (d : Die) : Bool := !(d.straps.toNat % 4 == 3) && !isMember d

/-- Parcels come by host download (R359, R374). -/
def hostDownload (d : Die) : Bool := bitOf d.straps.toNat 14 && hasHost d

/-- GLB_BOOT_STAT as it reads (R375): while a loader that boots from flash is at work, PHASE shows what it is doing (log entry
154). -/
def bootView (d : Die) (raw : Nat) : Nat :=
  if fld d Reg.GLB_BOOT_STAT_PHASE ≠ 0 ∨ proofMode d ∨ hostDownload d ∨ d.tb.gt < 1000000 then raw
  else setBitsOf raw 0 3 (if Config.loadStart ≤ d.tb.gt then 2 else if Config.checkStart ≤ d.tb.gt then 1 else 0)

/-- What a register shows, whole (R10): live registers are computed, every other one reads what it holds, an axis-state
word what it held before the writes of this cycle (R58). At GT 0 PWR_VIN and PWR_DOM_STAT still have their reset value 0 (R11;
log entry 113). -/
def viewReg (g : Dog) (d : Die) (off : Nat) : Nat :=
  let raw := (getReg d off).toNat
  if off = Reg.GLB_STRAP_STATUS then d.straps.toNat
  else if off = Reg.GLB_BOOT_STAT then bootView d raw
  else if d.tb.gt = 0 ∧ (off = Reg.PWR_VIN ∨ (Reg.PWR_DOM_STAT 0 ≤ off ∧ off < Reg.PWR_DOM_STAT 3)) then 0
  else if off = Reg.PWR_VIN then min d.pwr.vin 65535
  else if off = Reg.PWR_TJ then setBitsOf raw 0 16 d.pwr.tj
  else if Reg.PWR_DOM_STAT 0 ≤ off ∧ off < Reg.PWR_DOM_STAT 3 then
    bitsOf d.pwr.dom (8 * (off - Reg.PWR_DOM_STAT 0)) 32 % (if off = Reg.PWR_DOM_STAT 2 then 2 ^ 16 else 2 ^ 32)
  else if off < 0x2000 then raw
  else if off < 0x3000 ∨ 0xC0000 ≤ off then hostView d off
  else if off = Reg.BEAT_GT then d.tb.gt % 2 ^ 32
  else if off = Reg.BEAT_GT + 4 then d.tb.gt / 2 ^ 32 % 2 ^ 32
  else if off < 0x4000 then raw
  else if off < 0x5000 then knlView d off
  else if off = Reg.LOG_DBG then setBitsOf raw 0 1 (b2n d.boot.blown)
  else if off < 0x6000 then raw
  else if off < 0x7000 then shdView g d off
  else if off < 0x8000 then raw
  else if off = Reg.LE_YQ then setBitsOf raw 0 6 d.mem.yq.length
  else if off < 0xC000 then (if off % 0x400 = 0 ∨ off % 0x400 = 8 then leView d off else raw)
  else if off = Reg.CTR_DLQ_FILL then d.trk.dlq.length
  else if Reg.CTR_DLQ_W 0 ≤ off ∧ off < Reg.CTR_DLQ_W 4 then nth (d.trk.dlq.headD []) ((off - Reg.CTR_DLQ_W 0) / 4)
  else if off = Reg.CAP_STAT then
    bitsFrom 16 (fun c => chState d c == 3) + 65536 * bitsFrom 8 fun n => powered d (59 + n) && flooded d n
  else if off = Reg.CAP_XT then xtLevels d
  else if 0x11000 ≤ off ∧ off < 0x12000 then canView d ((off - 0x11000) / 0x400) off
  else if inAxis off then ((axBefore d 7 d.tb.cyc off).map (·.toNat)).getD raw
  else raw

/-- What a host read returns (R10, R191, R340, R416): write-only and PRV bits read 0, reserved offsets read 0. -/
def readVal (g : Dog) (d : Die) (trunk : Bool) (off : Nat) : Nat :=
  if 0x40000 ≤ off ∧ off < 0x80000 then captureWord d off
  else if 0x80000 ≤ off ∧ off < 0xC0000 then (if powered d 79 then pawWord d off else 0)
  else match regAt d trunk off with
    | some x => viewReg g d off &&& x.1.rd
    | none => 0

/-- The low word of a 64-bit register (R338). -/
def isLow (off : Nat) : Bool :=
  if 0x20000 ≤ off ∧ off < 0x40000 then
    [0x20, 0x28, 0x40, 0x48, 0x60, 0x68, 0x80, 0x88, 0x90, 0x98, 0x110, 0x118, 0x120, 0x128, 0x130, 0x138, 0x200, 0x208,
      0x210, 0x218, 0x220, 0x308, 0x310, 0x318, 0x320, 0x328, 0x330, 0x338, 0x340, 0x348].contains (off % 0x400)
  else if 0x10000 ≤ off ∧ off < 0x10800 then [0x10, 0x18, 0x20, 0x28].contains (off % 0x40)
  else if 0x8000 ≤ off ∧ off < 0xC000 then off % 0x400 == 0x20
  else if 0xF100 ≤ off ∧ off < 0xF900 then (off - 0xF100) % 0x80 == 0x64
  else if 0xFA00 ≤ off ∧ off < 0xFE00 then off % 16 == 8
  else [0x2040, 0x3018, 0x3020, 0x7018, 0x7020, 0x7028, 0x7038, 0x7040, 0x7048, 0x7050, 0x7060, 0x70A0,
    0x70B0].contains off

/-- The lanes a pattern of byte enables names, as a mask. -/
def laneMask (be : Nat) : Nat :=
  (if bitOf be 0 then 0xFF else 0) + (if bitOf be 1 then 0xFF00 else 0) + (if bitOf be 2 then 0xFF0000 else 0) +
    (if bitOf be 3 then 0xFF000000 else 0)

/-- Byte enables of 1, 2 or 4 lanes that start at a multiple of their width (R336). -/
def beOk (be : Nat) : Bool := [1, 2, 4, 8, 3, 12, 15].contains be

/-- What a read changes (R286, R338): a low word snapshots its high word, which stands until the next read of the low word,
a read of BEAT_NUM stores BEAT_EDGE, a read of CTR_DLQ_W3 removes the head record. -/
def readSide (g : Dog) (d : Die) (trunk : Bool) (off : Nat) : Die :=
  match regAt d trunk off with
  | none => d
  | some _ =>
    let d := if isLow off then { d with snap := sput none d.snap (off + 4) (some (BitVec.ofNat 32 (viewReg g d (off + 4)))) }
      else d
    let d := if off = Reg.BEAT_NUM && running d then put64 d Reg.BEAT_EDGE (edgeGt (hz d) d.tb.k) else d
    if off = Reg.CTR_DLQ_W 3 then updTrk d fun t => { t with dlq := t.dlq.drop 1 } else d

/-- A host read (R336 to R340): the value, and what it changes. `trunk` marks an access that reached a member through
the lead. -/
def hostRead (g : Dog) (d : Die) (trunk : Bool) (off be : Nat) : Nat × Die :=
  if be % 16 = 0 then (0, d)
  else if off % 4 ≠ 0 ∨ !beOk (be % 16) then (0, reject d off true 2)
  else if memberRing d trunk off then (0, reject d off true 6)
  else
    let v := match regAt d trunk off with
      | none => readVal g d trunk off
      | some _ =>
        match sget none d.snap off with
        | some w => w.toNat
        | none => readVal g d trunk off
    (v &&& laneMask be, readSide g d trunk off)

end Sys2Proof.Machine
end

