-- ==== Sys2Proof/Machine/HostPort.lean ====
section
/-! DEFINITION. Host writes (R10 to R14, R31, R32, R336 to R342): which values are illegal, what a write does to the part,
and CMD_GO (R344 to R348). -/

namespace Sys2Proof.Machine

/-- A gain word that R124 allows: `hi` marks the exponent word, `neg` a field that may be negative. -/
def gainOk (hi neg : Bool) (v : Nat) : Bool :=
  if hi then v == wrap 32 (sext 8 v) else v == wrap 32 (sext 24 v) && (neg || !bitOf v 31)

/-- A word that holds a 24-bit fraction: a sign-extended 24-bit number, as the gain pairs hold theirs (R124; log entry 114). -/
def fracOk (v : Nat) : Bool := v == wrap 32 (sext 24 v)

/-- A value of an axis record field is illegal (R118, R123, R124, R138, R146, R149, axis record map). -/
def axIllegal (d : Die) (a o v : Nat) : Bool :=
  if o = 0x000 then 2 ≤ v % 4
  else if o = 0x100 then v % 4 == 3 || flag d (Reg.AX_LS_STAT_HOMING a)
  else if o = 0x10C ∨ o = 0x144 ∨ o = 0x148 ∨ o = 0x14C ∨ o = 0x158 then v == 0
  else if o = 0x150 ∨ o = 0x180 then v == 0 || 2 ^ 31 ≤ v
  else if o = 0x15C then 2 ^ 24 < v
  else if o = 0x164 then 3 < v % 8
  else if o = 0x168 ∨ o = 0x16C ∨ o = 0x174 then v == 0
  else if o = 0x184 ∨ o = 0x188 ∨ o = 0x19C ∨ o = 0x228 then v == 0
  else if 0x18C ≤ o ∧ o ≤ 0x198 then v == 0 || 0x7FFFFF < v
  else if o = 0x1A0 then v == 0 || 2 ^ 24 < v
  else if o = 0x230 ∨ o = 0x1A8 then !fracOk v
  else if 0x200 ≤ o ∧ o < 0x228 then !gainOk (o / 4 % 2 == 1) (o == 0x208 || o == 0x220) v
  else if o = 0x280 then
    !flag d (Reg.AX_TRK_CTL_FREEZE a) || decide (v < (getReg d (Reg.AX_FA_MIN a)).toNat) ||
      decide ((getReg d (Reg.AX_FA_MAX a)).toNat < v)
  else false

/-- The ring's entries not consumed (R354). -/
def ringFill (d : Die) : Nat :=
  (fld d Reg.HST_CRING_TAIL_TAIL + 2 ^ 16 - fld d Reg.HST_CRING_HEAD_HEAD) % 2 ^ 16

/-- A value of an HST register is illegal (R343, R354). -/
def hstIllegal (d : Die) (off v : Nat) : Bool :=
  let en := flag d Reg.HST_CRING_CTL_EN
  if off = Reg.HST_VER_SEL then v % 256 < 0x10 || 0x13 < v % 256 || outstanding d != 0
  else if 0x2040 ≤ off ∧ off ≤ 0x2054 then
    if off = 0x2040 then en || v % 4096 != 0
    else if off = 0x2044 then en
    else if off = Reg.HST_CRING_SIZE then en || !([256, 512, 1024, 2048, 4096, 8192, 16384].contains (v % 2 ^ 15))
    else if off = Reg.HST_CRING_HEAD then
      decide (ringFill d < (v % 2 ^ 16 + 2 ^ 16 - fld d Reg.HST_CRING_HEAD_HEAD) % 2 ^ 16)
    else if off = Reg.HST_CRING_CTL then
      if bitOf v 0 then en || decide (2 ≤ d.straps.toNat % 4) else en && ringFill d != 0
    else false
  else false

/-- A value of a trunk schedule register is illegal (R264, CTR tables). -/
def ctrIllegal (d : Die) (off v : Nat) : Bool :=
  let sched := off = Reg.CTR_CFG ∨ (0xE080 ≤ off ∧ off < 0xE0E0 ∧ (off - 0xE080) % 0x20 = 0) ∨ 0xE100 ≤ off
  if !decide sched then false
  else if ctState d ≠ 0 then true
  else if off = Reg.CTR_CFG then
    decide (4 < bitsOf v 1 3) || decide (bitsOf v 4 11 < 200) || decide (2000 < bitsOf v 4 11)
  else if 0xE400 ≤ off ∧ off % 8 = 4 then 8 < v % 16 || (v % 16 != 0 && decide (5 < bitsOf v 4 3))
  else false

/-- A value of a step generator register is illegal (R194, R196, STP map). -/
def stpIllegal (d : Die) (off v : Nat) : Bool :=
  if off < 0x10800 then
    let n := (off - 0x10000) / 0x40
    let o := off % 0x40
    if o = 0 then 2 ≤ v % 4 || 2 ≤ stpMode d n
    else if o = 0x10 then stpMode d n != 1
    else if o = 0x14 then
      stpMode d n != 1 ||
        (let w := sext 64 ((getReg d (Reg.STP_VEL n)).toNat + 2 ^ 32 * v)
         decide (w < -(2 ^ 47)) || decide (2 ^ 47 ≤ w) || decide (get64 d (Reg.STP_VMAX n) < w.natAbs))
    else if o = 0x24 then 2 ^ 16 ≤ v
    else if o = 0x30 ∨ o = 0x34 ∨ o = 0x3C then v == 0
    else false
  else
    let o := off % 0x20
    let g := (off - 0x10800) / 0x20
    if o = 0xC ∨ o = 0x10 then v == 0
    else if o = 0x14 then v == 0 || decide ((getReg d (Reg.STP_GRP_VMAX g)).toNat < v)
    else false

/-- A value of a CAN register is illegal (R318, R320, R321, R323). -/
def canIllegal (d : Die) (off v : Nat) : Bool :=
  let n := (off - 0x11000) / 0x400
  let o := off % 0x400
  if o = 4 then !canCtlOk d n v
  else if o = 0x10 then !canBitOk d n false v
  else if o = 0x14 then !canBitOk d n true v
  else if 0x40 ≤ o ∧ o < 0x130 then
    let b := (o - 0x40) / 0x50
    if (o - 0x40) % 0x50 = 0 then !txbCtlOk d n b v else flag d (Reg.TXB_CTL_REQ n b)
  else false

/-- A command of the motion queue or the maintenance queue that moves or tests something is running (R386). -/
def longRunning (d : Die) : Bool :=
  d.host.cmds.any fun c => c.started && !c.done && [0x10, 0x12, 0x13, 0x40].contains c.op

/-- A write of PWR_CTL.MODE := Doze is legal (R386, R387). -/
def dozeOk (d : Die) : Bool :=
  fld d Reg.PWR_STAT_MODE < 2 && !anyMoving d && (ctState d == 0 || !flag d Reg.CTR_CFG_DECL) &&
    !flag d Reg.GLB_BOOT_STAT_SESSION && !longRunning d && !(upto 32).any fun n => (stpH d n).word != 0

/-- A write of PWR_CTL.MODE := Hibernate is legal (R388). -/
def hibernateOk (d : Die) : Bool := !anyMoving d && !flag d Reg.GLB_BOOT_STAT_SESSION

/-- A value of PWR_CTL is illegal (R386 to R388). -/
def pwrCtlIllegal (d : Die) (v : Nat) : Bool :=
  let key := v / 65536 % 65536
  if v % 4 = 0 then key != 0
  else if v % 4 = 1 then key != 0 || !dozeOk d
  else if v % 4 = 2 then key != 0x4E41 || !hibernateOk d
  else true

/-- An ACK write is legal (R136). -/
def ackOk (d : Die) : Bool := flag d Reg.MST_STAT_LOST && flag d Reg.MST_STAT_HALTED && d.mst.inTime

/-- A value of FREESEQ lies within FREESEQ to DONESEQ modulo 2^28 (R189). -/
def freeseqOk (d : Die) (c v : Nat) : Bool :=
  let f := (getReg d (Reg.CAP_CH_FREESEQ c)).toNat
  let q := (getReg d (Reg.CAP_CH_DONESEQ c)).toNat
  decide ((v + 2 ^ 28 - f) % 2 ^ 28 ≤ (q + 2 ^ 28 - f) % 2 ^ 28)

/-- An illegal value (R13): a value that a table does not list, or one a rule of its chapter refuses. -/
def illegal (d : Die) (off v : Nat) : Bool :=
  if off = Reg.PWR_CTL then pwrCtlIllegal d v
  else if off = Reg.PWR_VWARN then v % 512 < 57 || 360 < v % 512
  else if off < 0x2000 then false
  else if off < 0x3000 then hstIllegal d off v
  else if off = Reg.LOG_CMD then v % 4 == 3
  else if off = Reg.MST_CTL then bitOf v 0 && !ackOk d
  else if off = Reg.MST_LOSS_DEC ∨ off = Reg.MST_VM_ACC ∨ off = Reg.MST_VM_JERK then v == 0
  else if off < 0xC000 then false
  else if off < 0xE000 then off % 0x800 == 0x104 && !schedOk d ((off - 0xC000) / 0x800) v
  else if off < 0xF000 then ctrIllegal d off v
  else if off < 0x10000 then
    0xF100 ≤ off && off < 0xF900 && (off - 0xF100) % 0x80 == 0x5C && !freeseqOk d ((off - 0xF100) / 0x80) (v % 2 ^ 28)
  else if off < 0x11000 then stpIllegal d off v
  else if off < 0x12000 then canIllegal d off v
  else if off < 0x40000 then axIllegal d ((off - 0x20000) / 0x400) (off % 0x400) v
  else false

/-- A cyclic parameter (R31): its new value takes effect at the next beat edge. AX_TRK_CTL is none, and the tracker takes
AX_NA_FREQ at its next run (R118; log entry 145). -/
def cyclic (off : Nat) : Bool :=
  if 0x20000 ≤ off then
    let o := off % 0x400
    off < 0x40000 && (o == 0 || (0x100 ≤ o && o < 0x178 && o != 0x104) || (0x180 ≤ o && o < 0x234))
  else if 0x10800 ≤ off then off < 0x10900 && [0xC, 0x10, 0x14].contains (off % 0x20)
  else if 0x10000 ≤ off then [0x10, 0x14, 0x28, 0x2C, 0x30, 0x34, 0x38, 0x3C].contains (off % 0x40)
  else [0x700C, 0x7060, 0x7064, 0x7068, 0x706C].contains off || (0xC000 ≤ off && off < 0xE000 && off % 0x800 == 0x104)

/-- The offset whose write lets a waiting low word take effect: the high word of a 64-bit field (R32), and AX_LS_DEN for
AX_LS_NUM (R140). -/
def waitsFor (off : Nat) : Bool := isLow off || (0x20000 ≤ off && off < 0x40000 && off % 0x400 == 0x108)

/-- The bits of an axis-state word that other writes of this engine cycle have set or cleared (R58). -/
def axEvents (d : Die) (off : Nat) : Nat :=
  d.axLog.foldl (fun m x => if x.off == off && d.tb.cyc ≤ x.cyc && x.port != 7 then m ||| x.bits else m) 0

/-- The word that a host write leaves in a register by the access codes of its row (R10, R12, R14): RW bits take the value,
W1C bits given 1 clear, the rest stay. In an axis-state word a bit written later in the order of R58 stays, and so does a
W1C bit that an event of the same or a later cycle sets. -/
def storeWord (d : Die) (r : RegRow) (off v : Nat) : Nat :=
  let old := (getReg d off).toNat
  let ax := inAxis off
  let rw := if ax then r.rw - (r.rw &&& axLater d 7 d.tb.cyc off) else r.rw
  let w1c := if ax then r.w1c - (r.w1c &&& axEvents d off) else r.w1c
  old - (old &&& rw) - (old &&& w1c &&& v) + (v &&& rw)

/-- What of a low word comes into force at the edge when it is written again after its high word (R32, R140): what it held
when the high word was written. A write of the high word takes the low word of then. -/
def markLand (d : Die) (off : Nat) : Die :=
  let again : Bool := waitsFor off && (sget none d.held off).isSome && !d.heldLow.contains off
  let d := if again then { d with land := sput none d.land off (some (getReg d off)) } else d
  if 4 ≤ off ∧ d.heldLow.contains (off - 4) then { d with land := sput none d.land (off - 4) none } else d

/-- Store a host write (R10 to R14, R31, R32, R58). -/
def storeReg (d : Die) (r : RegRow) (off v : Nat) : Die :=
  let w := BitVec.ofNat 32 (storeWord d r off v)
  let d := if inAxis off then axNote d ⟨off, d.tb.cyc, 7, axSeen d 7 d.tb.cyc off, r.rw⟩ else d
  if !cyclic off then putReg d off w else
  let d := stage (markLand d off) off w
  let low := d.heldLow.filter fun x => x != off && x + 4 != off
  { d with heldLow := if waitsFor off then off :: low else low }

/-- A write of STP_n_MODE (R196). In OFF nothing is left to come: no pulse, no word and no reversal; DIR stays as it is (log
entry 116). -/
def stpModeWrite (d : Die) (n v : Nat) : Die :=
  let was := stpMode d n
  let d := setFld d (Reg.STP_MODE_MODE n) v
  if v % 4 = 1 then (if was = 1 then d else updStp d n fun h => { h with edgeDue := true })
  else putActive (updStp d n fun h =>
    { h with word := 0, step := false, rise := none, high := 0, carryDue := false, rev := .none,
             lastPos := !flag d (Reg.STP_STAT_DIR n), edgeDue := false, velDue := false }) n false

/-- What a write to an axis record does beside the store (R114, R118, R123, R141). -/
def axHook (d : Die) (a o v : Nat) : Die :=
  if o = 0x000 then (if bitOf v 2 then updAx d a fun h => { h with clrNew := true } else d)
  else if o = 0x100 then
    (if bitOf v 4 then updMst d fun m => { m with trimClr := m.trimClr ++ [(a, d.tb.k + 1)] } else d)
  else if o = 0x280 then updAx d a fun h => { h with stage := { h.stage with naReq := some v } }
  else if o = 0x28C then
    (if bitOf v 1 then
      updAx (setFld d (Reg.AX_TRK_STAT_OFF a) 0) a fun h => { h with stage := { h.stage with restart := true } }
    else d)
  else d

/-- Consume the first `n` ring entries (R346, R354), or FIFO entries with `ring` false. -/
def consume (n : Nat) (ring : Bool) : List (Nat × Nat × Bool) → List (Nat × Nat × Bool)
  | [] => []
  | x :: xs =>
    match n with
    | 0 => x :: xs
    | m + 1 => if x.2.2 == ring then consume m ring xs else x :: consume (m + 1) ring xs

/-- A write of HST_CRING_HEAD (R354). -/
def ringHead (d : Die) (v : Nat) : Die :=
  let n := (v % 2 ^ 16 + 2 ^ 16 - fld d Reg.HST_CRING_HEAD_HEAD) % 2 ^ 16
  let d := setFld d Reg.HST_CRING_HEAD_HEAD v
  updHost d fun h => { h with delivered := consume n true h.delivered }

/-- A write of HST_CRING_CTL (R354): EN := 1 sets TAIL and HEAD to 0. -/
def ringEnable (d : Die) (v : Nat) : Die :=
  let d := setFld d Reg.HST_CRING_CTL_EN v
  if bitOf v 0 then setFld (setFld d Reg.HST_CRING_TAIL_TAIL 0) Reg.HST_CRING_HEAD_HEAD 0 else d

/-- A write of HST_CFIFO_POP (R355): ignored when the FIFO is empty. -/
def cfifoPop (d : Die) : Die :=
  if d.host.fifo.isEmpty then d
  else updHost d fun h => { h with fifo := h.fifo.drop 1, delivered := consume 1 false h.delivered }

/-- A write of PWR_CTL (R386 to R388). A Run request outside Doze has no effect, and a request for Run or Doze is discarded while
an accepted Hibernate write waits (R393). -/
def pwrCtl (d : Die) (v : Nat) : Die :=
  let m := fld d Reg.PWR_STAT_MODE
  if d.pwr.hibReq && v % 4 < 2 then d
  else if v % 4 = 0 then
    (if m = 1 then updPwr (setFld d Reg.PWR_STAT_MODE 3) fun p => { p with dozeOut := true } else d)
  else if v % 4 = 1 then (if m = 0 then updPwr d fun p => { p with dozeReq := true } else d)
  else updPwr d fun p => { p with hibReq := true }

/-- The descriptor words of the mailbox (R344). -/
def descWords (d : Die) : List Nat := (upto 16).map fun w => (getReg d (Reg.HST_CMD_DESC w)).toNat

/-- Bytes a descriptor of an opcode may have (R348); `none` for an unknown opcode. STEP_MOVE names one count for each
member of its group. -/
def lenOk (d : Die) (op len w1 : Nat) : Option Bool :=
  match op with
  | 0x01 => some (len == 8)
  | 0x10 => some (len == 8)
  | 0x11 => some (len == 4)
  | 0x12 => some (len == 8 + 4 * (grpMembers d (w1 % 8)).length)
  | 0x13 => some (len == 8)
  | 0x20 => some (len == 12)
  | 0x21 => some (12 ≤ len)
  | 0x22 => some (len == 4)
  | 0x23 => some (len == 4)
  | 0x30 => some (8 ≤ len && len ≤ 56)
  | 0x31 => some (len == 8)
  | 0x32 => some (len == 8)
  | 0x33 => some (len == 8)
  | 0x34 => some (len == 4)
  | 0x40 => some (len == 8)
  | 0x41 => some (len == 8)
  | 0x42 => some (len == 12)
  | 0x50 => some (len == 12)
  | _ => none

/-- The queue of a command (R347, R348): 0 Motion, 1 Configuration, 2 Network, 3 Maintenance. -/
def cmdQueue (op w1 : Nat) : Nat :=
  if op = 0x01 then w1 % 4
  else if op < 0x20 ∨ op = 0x50 then 0
  else if op < 0x30 then 1
  else if op < 0x40 then 2
  else 3

/-- The first interface version that knows an opcode (R348). -/
def cmdVersion (op : Nat) : Nat :=
  if op = 0x12 ∨ op = 0x13 ∨ op = 0x50 then 0x11
  else if op = 0x40 then 0x12
  else if op = 0x41 ∨ op = 0x42 then 0x13
  else 0x10

/-- The fuse commands' conditions (R413). -/
def fuseOk (d : Die) : Bool :=
  !d.boot.blown && !anyMoving d && !flag d Reg.GLB_BOOT_STAT_SESSION && !flag d Reg.PWR_STAT_VWARN

/-- NPOS of a channel: axes in its mask (R180). -/
def nPos (d : Die) (c : Nat) : Nat :=
  ((upto 128).filter fun a => bitOf (getReg d (Reg.CAP_CH_AXMASK c (a / 32))).toNat (a % 32)).length

/-- SLOTSZ of a channel (R180). -/
def slotSize (d : Die) (c : Nat) : Nat := 64 * cdiv (64 + 8 * nPos d c + 2 * fld d (Reg.CAP_CH_RECLEN_RECLEN c)) 64

/-- The declared capture channels. -/
def declChans (d : Die) : List Nat := (upto 16).filter fun c => flag d (Reg.CAP_CH_SRC_DECL c)

/-- The domains of the declared blocks (R383): powered with them, tail sections off. -/
def declaredDoms (c : Die) : List Nat :=
  let chans := declChans c
  let base (x : Nat) : Nat := (getReg c (Reg.CAP_CH_BASE x)).toNat
  let stop (x : Nat) : Nat := base x + (getReg c (Reg.CAP_CH_NSLOT x)).toNat * slotSize c x
  upto 42 ++ [58, 78, 79] ++ (if hasHost c then [57] else []) ++
    ((upto 4).filter fun s => flag c (Reg.LSH_SCFG_DECL s)).flatMap (fun s => [42 + 2 * s, 43 + 2 * s]) ++
    ((upto 3).filter fun p => flag c Reg.CTR_CFG_DECL && flag c (Reg.CTR_P_CFG_USED p)).map (54 + ·) ++
    ((upto 8).filter fun n => chans.any fun x => fld c (Reg.CAP_CH_SRC_MKSEL x) == n).map (59 + ·) ++
    (if chans.isEmpty then [] else [67]) ++
    ((upto 4).filter fun b => chans.any fun x => base x < (b + 1) * 524288 && b * 524288 < stop x).map (68 + ·) ++
    ((upto 2).filter fun b => (upto 16).any fun n => flag c (Reg.STP_CFG_DECL (16 * b + n))).map (72 + ·) ++
    ((upto 4).filter fun n => flag c (Reg.CAN_CFG_DECL n)).map (74 + ·)

/-- The domains that Doze leaves powered (R385). -/
def dozeDoms (d : Die) : List Nat := (upto 42).drop 32 ++ [58, 79] ++ (if hasHost d then [57] else [])

/-- The domains of an offset (R383, R416): of its register, or of the page that the capture window shows. -/
def offDoms (d : Die) (off : Nat) : List Nat :=
  if 0x40000 ≤ off ∧ off < 0x80000 then [67, 68 + fld d Reg.CAP_WIN_SEL_PAGE / 2]
  else match findReg off with
    | some x => (regDomain x.1 x.2).toList
    | none => []

/-- A domain that the exit from Doze powers (R387): as Run had it when Doze was entered, the trunk ports as they are declared
now (R264). -/
def goesUp (d : Die) (x : Nat) : Bool :=
  if 54 ≤ x ∧ x ≤ 56 then (declaredDoms d).contains x else bitOf d.pwr.runDoms x

/-- A domain of an offset is being switched (R417): it goes off at the entry into Doze under way, or on at the exit. -/
def switching (d : Die) (off : Nat) : Bool :=
  match fld d Reg.PWR_STAT_MODE with
  | 2 => (offDoms d off).any fun x => powered d x && !(dozeDoms d).contains x
  | 3 => (offDoms d off).any fun x => !powered d x && goesUp d x
  | _ => false

/-- The session closes (R372). -/
def sessionClose (d : Die) : Die :=
  updBoot (setFld d Reg.GLB_BOOT_STAT_SESSION 0) fun b => { b with written := [], buffer := [] }

/-- A Parcel command completes; any outcome other than OK closes the session (R372). Only BEGIN and COMMIT have a check code
(R348). -/
def parcelEnd (d : Die) (ticket status code r1 : Nat) : Die :=
  let coded := d.host.cmds.any fun c => c.ticket == ticket && (c.op == 0x20 || c.op == 0x22)
  let d := complete d ticket status (if coded then code else 0) r1
  if status = 0 then d else sessionClose d

/-- VIN below VWARN ends the session, and the running Parcel command SUPPLY (R373); ticket 0 when none runs. Of the flash
operations only the one in progress goes on. -/
def supplyCut (d : Die) (ticket : Nat) : Die :=
  let d := updBoot d fun b => { b with flashOps := b.flashOps.take 1 }
  logEvt (setFlag (parcelEnd d ticket 0xE 0xF 0) Reg.GLB_BOOT_STAT_SUPPLYCUT) 0 4 1 0 0 0

/-- The Parcel command that is running; 0 when none is. -/
def runningParcel (d : Die) : Nat :=
  ((d.host.cmds.find? fun c => c.started && !c.done && 0x20 ≤ c.op && c.op < 0x24).map (·.ticket)).getD 0

/-- The crossing of VIN below VWARN (R373, R381). -/
def vinCrosses (d : Die) : Die :=
  let d := setFlag (setFlag d Reg.PWR_STAT_VWARN) Reg.PWR_STAT_VWARNS
  let d := updPwr (incReg d Reg.PWR_CNT_VWARN) fun p => { p with vinWarnN := false }
  let d := if d.inReset then d else logEvt d 0 3 1 (min d.pwr.vin 65535) 0 0
  if flag d Reg.GLB_BOOT_STAT_SESSION then supplyCut d (runningParcel d) else d

/-- PWR_STAT.VWARN and VINWARN_N follow VIN and VWARN, whichever of them changes, with the hysteresis of 0.3 V (R377, R381; log
entry 152). -/
def vinSettle (d : Die) : Die :=
  let warn := 100 * fld d Reg.PWR_VWARN_VWARN
  if !d.pwr.up then d
  else if !flag d Reg.PWR_STAT_VWARN then if d.pwr.vin < warn then vinCrosses d else d
  else if warn + 300 ≤ d.pwr.vin then updPwr (setFld d Reg.PWR_STAT_VWARN 0) fun p => { p with vinWarnN := true }
  else d

/-- The conditions of the Parcel commands (R372, R374). -/
def parcelCmdOk (d : Die) (op : Nat) (w : List Nat) : Bool :=
  let open_ := flag d Reg.GLB_BOOT_STAT_SESSION
  let n := 4 * (w.length - 2)
  if hostDownload d && d.boot.loaded then false
  else match op with
    | 0x20 => !open_ && 64 ≤ nth w 1 && nth w 1 ≤ 0x1FF000
    | 0x21 => open_ && nth w 1 % 4 == 0 && nth w 1 + n ≤ d.boot.len &&
        !d.boot.written.any fun x => nth w 1 < x.1 + x.2 && x.1 < nth w 1 + n
    | _ => open_

/-- Check 4 of R345: parameters in range, reserved fields 0, and the conditions of the command (R348). -/
def cmdOk (d : Die) (op : Nat) (w : List Nat) : Bool :=
  let w1 := nth w 1
  if op ≠ 1 ∧ !(0x20 ≤ op ∧ op < 0x30) ∧ !d.boot.loaded then false else
  match op with
  | 0x01 => w1 < 4
  | 0x10 => w1 < 128 && homeOk d w1
  | 0x11 => true
  | 0x12 => w1 < 8 && stepMoveOk d w1
  | 0x13 => w1 < 32 && stepHomeOk d w1
  | 0x20 => parcelCmdOk d op w
  | 0x21 => parcelCmdOk d op w
  | 0x22 => parcelCmdOk d op w
  | 0x23 => parcelCmdOk d op w
  | 0x30 =>
    bitsOf w1 7 9 == 0 && 0x100 ≤ w1 / 65536 && flag d (Reg.LSH_SCFG_DECL (w1 % 4)) && bitsOf w1 2 5 < nNode d (w1 % 4)
  | 0x31 => w1 < 4 && redund d w1 && pathState d w1 == 3
  | 0x32 => w1 < 128 && flag d (Reg.LSH_SCFG_DECL (w1 % 4)) && bitsOf w1 2 5 < nNode d (w1 % 4)
  | 0x33 => w1 < 2 && trunkStopOk d (w1 == 1)
  | 0x34 => trunkStartOk d
  | 0x40 => w1 < 4 && proofOk d w1
  | 0x41 => w1 == 1 && fuseOk d
  | 0x42 => w1 == 1 && fuseOk d && flag d Reg.LOG_DBG_ARMED && nth w 2 == d.boot.armCode
  | 0x50 => w1 < 1024 && descValid d w1 && descClass d w1 == 5
  | _ => false

/-- The judgement of CMD_GO (R345): 0, or the code of the first check that fails. -/
def judgeCmd (d : Die) (desc : List Nat) : Nat :=
  let w0 := nth desc 0
  let op := w0 % 256
  let len := bitsOf w0 8 8
  let w := desc.take (len / 4)
  if !flag d Reg.HST_STAT_READY then 9
  else if len = 0 ∨ 64 < len ∨ len % 4 ≠ 0 ∨ lenOk d op len (nth desc 1) = some false then 0xB
  else if fld d Reg.HST_VER_SEL_VER < cmdVersion op then 0xA
  else if !cmdOk d op w then 7
  else if 256 ≤ outstanding d || (op == 0x50 && 64 ≤ (kqueue d 6).length) then 8
  else 0

/-- What an accepted command of the motion or network queue does at once (R347, R348). -/
def startNow (d : Die) (c : Cmd) : Die :=
  let w1 := nth c.words 1
  let t := c.ticket
  match c.op with
  | 0x10 => homeStart d w1 t
  | 0x11 => updHost d fun h => { h with shedClear := h.shedClear ++ [t] }
  | 0x12 => stepMoveStart d w1 ((c.words.drop 2).map (sext 32)) t
  | 0x13 => stepHomeStart d w1 t
  | 0x30 =>
    let seg := w1 % 4
    let i := bitsOf w1 2 5
    let d := mbxQueue d seg i (w1 / 65536) ((c.words.drop 2).flatMap (leBytes 4)) t
    if nodeState d seg i = 2 then d else mbxFlush d seg i 8 fun q => q.ticket == t
  | 0x31 => switchback d w1 t
  | 0x32 => readmit d (w1 % 4) (bitsOf w1 2 5) t
  | 0x33 => trunkStop d (w1 == 1) t
  | 0x34 => trunkStart d t
  | 0x50 => noteBlocked (kpost d 6 (.desc w1 t (nth c.words 2))).1
  | _ => d

/-- A session opens with an accepted PARCEL_BEGIN (R372). -/
def sessionOpen (d : Die) (w : List Nat) : Die :=
  updBoot (setFlag d Reg.GLB_BOOT_STAT_SESSION) fun b => { b with len := nth w 1, crc := nth w 2, written := [] }

/-- The arm of the fuse is void (R413): at a later FUSE_ARM, an accepted FUSE_BURN, expiry or reset. -/
def fuseVoid (d : Die) : Die :=
  updBoot (setFld d Reg.LOG_DBG_ARMED 0) fun b => { b with armCode := 0, armTicket := 0, armUntil := none }

/-- A NOP completes OK once every earlier command of its queue has completed (R348). -/
def settleNops (d : Die) : Die :=
  d.host.cmds.foldl (fun (r : Die × List Cmd) (c : Cmd) =>
    let d := r.1
    let doneNow : Bool := c.op == 1 && !c.done && r.2.all fun x => x.done || x.q != c.q
    if doneNow then (complete d c.ticket 0 0 0, r.2 ++ [{ c with done := true }]) else (d, r.2 ++ [c])) (d, []) |>.1

/-- CMD_GO (R344, R345, R347): a rejected command changes nothing but CMD_RESULT and, when BUSY, its count. An accepted one
takes the next ticket; in the motion and network queues it starts at once. -/
def submit (d : Die) (desc : List Nat) : Die :=
  let code := judgeCmd d desc
  if code ≠ 0 then
    let d := putReg d Reg.HST_CMD_RESULT (BitVec.ofNat 32 (code * 2 ^ 16 + 2 ^ 24))
    if code = 8 then incReg d Reg.HST_CNT_BUSY else d
  else
    let t := fld d Reg.HST_STAT_NEXT
    let w0 := nth desc 0
    let op := w0 % 256
    let w := desc.take (bitsOf w0 8 8 / 4)
    let q := cmdQueue op (nth w 1)
    let now := q == 0 || q == 2
    let c : Cmd := { ticket := t, op := op, user := w0 / 65536, q := q, words := w, started := now, done := false,
                     status := 0, r0 := 0, r1 := 0 }
    let d := setFld d Reg.HST_STAT_NEXT (if t = 0xFFFF then 1 else t + 1)
    let d := putReg d Reg.HST_CMD_RESULT (BitVec.ofNat 32 (t + 2 ^ 24))
    let d := updHost d fun h => { h with cmds := h.cmds ++ [c] }
    let d := if op = 0x20 then sessionOpen d w else if op = 0x41 ∨ op = 0x42 then fuseVoid d else d
    settleNops (if now then startNow d c else d)

/-- What a write to a CAN register does beside the store (R320, R323, R325, R326). -/
def canHook (d : Die) (off v : Nat) : Die :=
  let n := (off - 0x11000) / 0x400
  let o := off % 0x400
  if o = 4 then canCtl d n v
  else if o = 0x144 then canPop d n
  else if 0x40 ≤ o ∧ o < 0x130 ∧ (o - 0x40) % 0x50 = 0 then txbCtl d n ((o - 0x40) / 0x50) v
  else d

/-- What a write to a capture register does beside the store (R174, R178). With ARM and DISARM both 1 the channel is
disarmed last (log entry 92). -/
def capHook (d : Die) (off v : Nat) : Die :=
  if off = Reg.CAP_SWTRIG then swTrigger d (v % 65536) d.tb.gt
  else if 0xF100 ≤ off ∧ off < 0xF900 ∧ (off - 0xF100) % 0x80 = 0 then
    let c := (off - 0xF100) / 0x80
    let d := if bitOf v 0 then armChan d c (bitOf v 2) else d
    if bitOf v 1 then disarmChan d c else d
  else d

/-- What a write to a step generator register does beside the store (R196, R201). -/
def stpHook (d : Die) (off v : Nat) : Die :=
  if off < 0x10800 then
    let n := (off - 0x10000) / 0x40
    let o := off % 0x40
    if o = 4 then (if bitOf v 0 then stpStop d n else d)
    else if o = 0x14 then updStp d n fun h => { h with edgeDue := true }
    else if o = 0x1C then setFld d (Reg.STP_STAT_UNSURE n) 0
    else d
  else if off % 0x20 = 4 ∧ bitOf v 0 then groupStop d ((off - 0x10800) / 0x20) else d

/-- A trunk port loses its supply: it holds no lock and no line any more (R383, R385). -/
def trunkPortOff (d : Die) (p : Nat) : Die :=
  let d := setFld (setFld d (Reg.CTR_P_STAT_LOCK p) 0) (Reg.CTR_P_STAT_PEERIDLE p) 0
  updTrk d fun t => { t with ports := vset t.ports p tport0 }

/-- In Run the trunk ports follow their declaration (R271, R383): one that is not used any more goes off, one that now is begins to
send IDLE blocks. -/
def trunkDoms (d : Die) : Die :=
  if fld d Reg.PWR_STAT_MODE ≠ 0 || fld d Reg.GLB_BOOT_STAT_PHASE < 3 then d else
  forEach (upto 3) d fun d p =>
    let on := (declaredDoms d).contains (54 + p)
    if on = powered d (54 + p) then d
    else if on then
      updTrk (updPwr d fun x => { x with dom := setBit x.dom (54 + p) }) fun t =>
        { t with ports := vset t.ports p { vget tport0 t.ports p with busyUntil := 1280 * d.tb.gt } }
    else trunkPortOff (updPwr d fun x => { x with dom := clrBit x.dom (54 + p) }) p

/-- What an accepted write does beside the store. -/
def writeHook (d : Die) (off v : Nat) : Die :=
  if off = Reg.PWR_CTL then pwrCtl d v
  else if off = Reg.PWR_VWARN then vinSettle d
  else if off = Reg.HST_ERR then (if bitOf v 31 then setFld d Reg.HST_ERR_MULTI 0 else d)
  else if off = Reg.HST_CMD_GO then (if bitOf v 0 then submit d (descWords d) else d)
  else if off = Reg.HST_CFIFO_POP then cfifoPop d
  else if off = Reg.SHD_STAT then
    { d with dogIo := { d.dogIo with sticky := d.dogIo.sticky - (d.dogIo.sticky &&& v &&& 0xF00) } }
  else if off = Reg.LOG_CMD then (if bitOf v 0 then logFreeze d else if bitOf v 1 then logThaw d else d)
  else if off = Reg.LOG_RD_IDX then logRdIdx d (v % 4096)
  else if off = Reg.MST_CTL then
    (if bitOf v 0 && !flag d Reg.MST_STAT_ACKPEND then
      updMst (setFlag d Reg.MST_STAT_ACKPEND) fun m => { m with ackEdge := some (d.tb.k + 1) }
    else d)
  else if off = Reg.CTR_CFG ∨ (0xE080 ≤ off ∧ off < 0xE0E0 ∧ off % 0x20 = 0) then trunkDoms d
  else if off < 0xF000 then d
  else if off < 0x10000 then capHook d off v
  else if off < 0x11000 then stpHook d off v
  else if off < 0x12000 then canHook d off v
  else if off < 0x40000 then axHook d ((off - 0x20000) / 0x400) (off % 0x400) v
  else d

/-- The store of an accepted write: registers whose write means something else than their bits are listed first. -/
def writeStore (d : Die) (r : RegRow) (off v : Nat) : Die :=
  if off = Reg.HST_LOCK then (if bitOf v 0 then setFlag d Reg.HST_LOCK_LOCK else d)
  else if off = Reg.HST_CRING_HEAD then ringHead d v
  else if off = Reg.HST_CRING_CTL then ringEnable d v
  else if off = Reg.BEAT_MARGIN then putReg d off 0x3FFFF
  else if off = Reg.PWR_VINMIN then putReg d off (BitVec.ofNat 32 (min d.pwr.vin 65535))
  else if off = Reg.PWR_TJ then putReg d off (BitVec.ofNat 32 (d.pwr.tj % 65536 * 65536))
  else if off = Reg.KNL_PP_CTL then ppCtlWrite d v
  else if 0x10000 ≤ off ∧ off < 0x10800 ∧ off % 0x40 = 0 then stpModeWrite d ((off - 0x10000) / 0x40) v
  else if 0x11000 ≤ off ∧ off < 0x12000 ∧ 0x40 ≤ off % 0x400 ∧ off % 0x400 < 0x130 ∧ (off % 0x400 - 0x40) % 0x50 = 0 then d
  else if 0x20000 ≤ off ∧ off < 0x40000 ∧ off % 0x400 = 0x280 then d
  else storeReg d r off v

/-- The code with which a write is rejected, 0 when it is accepted (R336, R340, in order: ALIGN, RSVD, WIDTH, PRIV,
LOCKED, ILLEGAL; a ring register of a member is ILLEGAL whole, R420). -/
def judgeWrite (d : Die) (trunk : Bool) (off be v : Nat) : Nat :=
  if off % 4 ≠ 0 ∨ !beOk (be % 16) then 2
  else match regAt d trunk off with
    | none => 3
    | some x =>
      let desc : Bool := 0xC0000 ≤ off && off < 0xC0040
      if be % 16 ≠ 15 ∧ !desc then 1
      else if x.1.prv then 5
      else if x.1.locked && flag d Reg.HST_LOCK_LOCK then 4
      else if memberRing d trunk off ∨ (x.1.rw + x.1.w1c + x.1.wo ≠ 0 ∧ illegal d off v) then 6
      else 0

/-- The effect of an accepted write. -/
def acceptWrite (d : Die) (trunk : Bool) (off be v : Nat) : Die :=
  match regAt d trunk off with
  | none => d
  | some x =>
    let m := laneMask be
    let old := (getReg d off).toNat
    let v := if be % 16 = 15 then v else (old - (old &&& m)) + (v &&& m)
    if x.1.rw + x.1.w1c + x.1.wo = 0 then d else writeHook (writeStore d x.1 off v) off v

/-- A host write (R336 to R340). Answers the code of a rejection, 0 when there is none. -/
def hostWriteC (d : Die) (trunk : Bool) (off be v : Nat) : Nat × Die :=
  if be % 16 = 0 then (0, d)
  else
    let code := judgeWrite d trunk off be v
    if code ≠ 0 then (code, reject d off false code) else (0, acceptWrite d trunk off be v)

/-- A host write of the part's own host port (R336 to R340). -/
def hostWrite (d : Die) (off be v : Nat) : Die := (hostWriteC d false off be v).2

/-- The part takes accesses of its host port: supplied, out of reset, the port powered (R328, R382, R391). -/
def hostUp (d : Die) : Bool := d.pwr.up && !d.inReset && powered d 57

/-- What the lead keeps of a member. -/
def memberH (d : Die) (n : Nat) : Member := sget member0 d.trk.members n

/-- The members of the lead: every node of the table but the lead itself (R6, R278). -/
def memberNodes (d : Die) : List Nat := (ctNodes d).filter (· != 0)

/-- Some member's queue is full, so the lead gives no posted-request credit (R280). -/
def creditOut (d : Die) : Bool := (memberNodes d).any fun n => 16 ≤ (memberH d n).writes.length

/-- An access must wait for the lead's pending member read and for what waits already (R339). -/
def readsWait (d : Die) : Bool := (isLead d && d.trk.read.isSome) || !d.trk.held.isEmpty

/-- A write must wait: also while there is no posted-request credit (R280). -/
def writesWait (d : Die) : Bool := readsWait d || (isLead d && creditOut d)

/-- The host port performs a write at once. -/
def hostTakes (d : Die) : Bool := hostUp d && !writesWait d

/-- An access waits for its turn. -/
def holdReqs (d : Die) (rs : List HostReq) : Die := { d with trk := { d.trk with held := d.trk.held ++ rs } }

/-- A host write through the host port, when the port takes one; it waits where R280, R339 and R417 say so. -/
def busWriteBe (off be v : Nat) (d : Die) : Die :=
  if !hostUp d then d
  else if writesWait d || switching d off then holdReqs d [.write 0 off be v]
  else hostWrite d off be v

/-- Writes to consecutive words of the part, held from the first that must wait (R339, R417), else performed. -/
def writeAll (d : Die) : List (Nat × Nat × Nat) → Die
  | [] => d
  | (off, be, v) :: xs =>
    if writesWait d || switching d off then holdReqs d (((off, be, v) :: xs).map fun x => .write 0 x.1 x.2.1 x.2.2)
    else writeAll (hostWrite d off be v) xs

/-- A whole-word host write through the host port. -/
def busWrite (off v : Nat) (d : Die) : Die := busWriteBe off 15 v d

end Sys2Proof.Machine
end

