-- ==== Sys2Proof/Machine/Parcel.lean ====
section
/-! DEFINITION. Flash banks (R361 to R363), the format of a Parcel (R364 to R369), the checks of R370, what loading applies
(R371, R375), and the write session (R372 to R374). -/

namespace Sys2Proof.Machine

/-- `n` bytes from address `a` of a sparse memory whose listed keys are not below `a`; unlisted bytes are erased. -/
def readFrom : Nat → Sparse Byte → Nat → List Byte
  | 0, _, _ => []
  | n + 1, [], a => 0xFF :: readFrom n [] (a + 1)
  | n + 1, (k, v) :: m, a => if k = a then v :: readFrom n m (a + 1) else 0xFF :: readFrom n ((k, v) :: m) (a + 1)

/-- `n` bytes of flash or of the load buffer from address `a`. -/
def flashRead (m : Sparse Byte) (a n : Nat) : List Byte := readFrom n (m.dropWhile (·.1 < a)) a

/-- Program bytes at an address: programming only clears bits (R361, R363). -/
def flashProgram (m : Sparse Byte) (a : Nat) (bs : List Byte) : Sparse Byte :=
  (bs.foldl (fun (r : Sparse Byte × Nat) (b : Byte) => (sput 0xFF r.1 r.2 (sget 0xFF r.1 r.2 &&& b), r.2 + 1)) (m, a)).1

/-- Erase `n` bytes from address `a`. -/
def eraseRange (m : Sparse Byte) (a n : Nat) : Sparse Byte := m.filter fun x => x.1 < a || a + n ≤ x.1

/-- A complete operation. -/
def FlashOp.run (m : Sparse Byte) : FlashOp → Sparse Byte
  | .erase a n => eraseRange m a n
  | .program a bs => flashProgram m a bs

/-- The bank record is valid: its magic number and its RCRC (R362). -/
def recordValid (m : Sparse Byte) (b : Nat) : Bool :=
  let r := flashRead m (b * 0x200000) 0x40
  leAt r 0 4 == 0x4B4E4247 && leAt r 0x3C 4 == crc32 (r.take 0x3C)

/-- A bank record (R362): committed, GEN, IMGLEN, IMGCRC. -/
def bankRecord (m : Sparse Byte) (b : Nat) : Bool × Nat × Nat × Nat :=
  let r := flashRead m (b * 0x200000) 0x48
  let gen := leAt r 4 4
  let len := leAt r 8 4
  let crc := leAt r 12 4
  (recordValid m b && leAt r 0x10 4 == 0xFFFF &&
    leAt r 0x40 4 == 0x3C96A55A && leAt r 0x44 4 == crc ^^^ gen ^^^ 0xFFFFFFFF && 64 ≤ len && len ≤ 0x1FF000,
   gen, len, crc)

/-- The bank is committed (R363). -/
def committed (m : Sparse Byte) (b : Nat) : Bool := (bankRecord m b).1

/-- An operation broken off (R373): the first bytes of an erase hold `torn`; the bits of `torn` in the first bytes of a program
operation are not programmed yet. An erase that has begun leaves no valid record, and a commit that has not ended no committed
bank (R373). -/
def FlashOp.tear (m : Sparse Byte) (torn : List Byte) : FlashOp → Sparse Byte
  | .erase a n =>
    let r := ((torn.take n).zipIdx).foldl (fun m x => sput 0xFF m (a + x.2) x.1) m
    if a % 0x200000 = 0 && recordValid r (a / 0x200000) then eraseRange m a n else r
  | .program a bs =>
    let r := flashProgram m a ((bs.zip torn).map fun x => x.1 ||| x.2)
    if committed r (a / 0x200000) && !committed m (a / 0x200000) then m else r

/-- The flash after operations that have come as far as `fl` says, and those that have not ended: of a failed command none (R373). -/
def flashAfter (m : Sparse Byte) (ops : List FlashOp) (fl : FlashRun) : Sparse Byte × List FlashOp :=
  if fl.ending = .good then (ops.foldl FlashOp.run m, []) else
  let m := (ops.take fl.steps).foldl FlashOp.run m
  match ops.drop fl.steps with
  | [] => (m, [])
  | op :: l => (op.tear m fl.torn, if fl.ending = .fault then [] else op :: l)

/-- The flash once the operation in progress has ended. -/
def flashOver (b : Boot) : Sparse Byte := (b.flashOps.take 1).foldl FlashOp.run b.flash

/-- The image of a bank (R362). -/
def bankImage (m : Sparse Byte) (b : Nat) : List Byte := flashRead m (b * 0x200000 + 0x1000) (bankRecord m b).2.2.1

/-- The banks the loader tries, in order (R363). -/
def bankOrder (m : Sparse Byte) : List Nat :=
  let newer := precedes 32 (bankRecord m 0).2.1 (bankRecord m 1).2.1
  (if newer then [1, 0] else [0, 1]).filter (committed m)

/-- A directory entry (R364). -/
structure DirEnt where
  idx : Nat
  type : Nat
  req : Bool
  off : Nat
  len : Nat
  crc : Nat
  deriving DecidableEq, Repr

/-- A refusal: check code, directory index (0x7F none), image offset (R370). -/
abbrev Refused := Nat × Nat × Nat

/-- A check: refused with code, section and position unless it holds. -/
def chk (code sec pos : Nat) (ok : Bool) : Except Refused Unit := if ok then .ok () else .error (code, sec, pos)

/-- The directory of an image. -/
def directory (img : List Byte) : List DirEnt :=
  (upto (leAt img 6 2)).map fun i =>
    let e := slice img (64 + 16 * i) 16
    { idx := i, type := leAt e 0 2, req := bitOf (leAt e 2 2) 0, off := leAt e 4 4, len := leAt e 8 4, crc := leAt e 12 4 }

/-- The directory entry of a type. -/
def findSection (es : List DirEnt) (type : Nat) : Option DirEnt := es.find? (·.type == type)

/-- The bytes of a section; none where the image has no such section. -/
def sectBytes (img : List Byte) (es : List DirEnt) (type : Nat) : List Byte :=
  match findSection es type with
  | some e => slice img e.off e.len
  | none => []

/-- Bytes in groups of eight. -/
def chunks8 : List Byte → List (List Byte)
  | a :: b :: c :: d :: e :: f :: g :: h :: r => [a, b, c, d, e, f, g, h] :: chunks8 r
  | _ => []

/-- The register records of a REGLIST section (R366): OFFSET word and VALUE. -/
def regRecords (bs : List Byte) : List (Nat × Nat) := (chunks8 bs).map fun c => (leAt c 0 4, leAt c 4 4)

/-- The value that the last record of an offset gives a register. -/
def recorded (rs : List (Nat × Nat)) (off dflt : Nat) : Nat :=
  rs.foldl (fun v r => if r.1 = off then r.2 else v) dflt

/-- One segment of a NODES section (R367): SEG, NNODE, last cable in cm and ps/m, nodes. -/
abbrev SegDecl := Nat × Nat × Nat × Nat × List Node

/-- A node record (R367). -/
def nodeRec (b : List Byte) : Node :=
  { node0 with
    vendor := leAt b 0 2, product := leAt b 2 2, revMin := leAt b 4 2, vers := leAt b 6 1, nax := leAt b 7 1,
    serial := leAt b 8 4, resid := leAt b 12 2, prep := leAt b 14 2, tapply := leAt b 16 4, applyMin := leAt b 20 2,
    cable := leAt b 22 2, cdly := leAt b 24 2 }

/-- The segments of a NODES section; `none` when its length does not match its content. -/
def parseNodes : Nat → List Byte → Option (List SegDecl)
  | _, [] => some []
  | 0, _ => none
  | fuel + 1, bs =>
    let n := leAt bs 1 1
    if bs.length < 8 + 32 * n then none else
    (parseNodes fuel (bs.drop (8 + 32 * n))).map fun r =>
      (leAt bs 0 1, n, leAt bs 2 2, leAt bs 4 2, (upto n).map fun i => nodeRec (slice bs (8 + 32 * i) 32)) :: r

/-- The segments that a register list declares. -/
def declaredSegs (rs : List (Nat × Nat)) : List Nat :=
  (upto 4).filter fun s => bitOf (recorded rs (Reg.LSH_SCFG s) 0) 0

/-- Header and directory layout (R364), code HEADER. -/
def checkHeader (img : List Byte) : Except Refused Unit := do
  chk 3 0x7F 0 (leAt img 0 4 == 0x50434C47)
  chk 3 0x7F 60 (leAt img 60 4 == crc32 (img.take 60))
  let n := leAt img 6 2
  chk 3 0x7F 6 (1 ≤ n && n ≤ 64 && 64 + 16 * n ≤ img.length)
  let es := directory img
  es.forM fun e => chk 3 e.idx (64 + 16 * e.idx)
    (leAt img (64 + 16 * e.idx + 2) 2 < 2 && e.off % 8 == 0 && 64 + 16 * n ≤ e.off && e.len != 0 &&
      e.off + e.len ≤ img.length &&
      es.all fun x => x.idx == e.idx || (x.type != e.type && (x.off + x.len ≤ e.off || e.off + e.len ≤ x.off)))

/-- FORMAT, CHIP and STRAP (R364, R370). -/
def checkIdentity (d : Die) (img : List Byte) : Except Refused Unit := do
  chk 4 0x7F 4 (leAt img 4 1 == 2 && leAt img 5 1 ≤ 4)
  let step := leAt img 10 1
  let own := 16 * fld d Reg.GLB_ID_STEP_MAJ + fld d Reg.GLB_ID_STEP_MIN
  chk 5 0x7F 8 (leAt img 8 2 == 0x7128 && step ≤ own)
  let s := d.straps.toNat
  chk 6 0x7F 13 (leAt img 13 1 == b2n (bitOf s 2) && (!bitOf s 2 || (bitOf s 3 == (bitsOf s 4 6 != 0))))

/-- The length of a section fits its content (R365 to R369). -/
def lengthOk (es : List DirEnt) (img : List Byte) (e : DirEnt) : Bool :=
  let b := slice img e.off e.len
  match e.type with
  | 1 => e.len % 8 == 0
  | 2 => e.len % 8 == 0 && e.len ≤ 8 * 16384
  | 3 => e.len % 8 == 0 && e.len ≤ 8 * 32768
  | 4 => 16388 ≤ e.len && e.len == 16388 + 2 * leAt b 16384 4
  | 5 =>
    match parseNodes 5 b with
    | some l => l.map (fun x => (x.1, x.2.1)) == (declaredSegs (regRecords (sectBytes img es 1))).map fun s =>
        (s, bitsOf (recorded (regRecords (sectBytes img es 1)) (Reg.LSH_SCFG s) 0) 1 6)
    | none => false
  | 6 => e.len == 8 + 8 * leAt b 3 1 + 4 * leAt b 4 1 + 1024
  | 7 => 364 ≤ e.len && e.len == 364 + 8 * leAt b 352 4
  | _ => true

/-- Sections: CRCs, unknown types, required types, lengths, and the SCRC of SAFETY (R365, R369), code SECTION. -/
def checkSections (img : List Byte) : Except Refused Unit := do
  let es := directory img
  es.forM fun e => chk 7 e.idx e.off (crc32 (slice img e.off e.len) == e.crc)
  es.forM fun e => chk 7 e.idx (64 + 16 * e.idx) (!e.req || e.type ≥ 0x8000 || (1 ≤ e.type && e.type ≤ 7))
  let rs := regRecords (sectBytes img es 1)
  let has (t : Nat) : Bool := (findSection es t).isSome
  chk 7 0x7F 64 (has 1 && has 2 && has 3 && has 4 && has 7 && (has 5 || (declaredSegs rs).isEmpty) &&
    (has 6 || !bitOf (recorded rs Reg.CTR_CFG 0) 0))
  es.forM fun e => chk 7 e.idx e.off (lengthOk es img e)
  match findSection es 7 with
  | none => .ok ()
  | some e =>
    let b := slice img e.off e.len
    chk 7 e.idx (e.off + e.len - 8)
      (leAt b (e.len - 8) 4 == crc32 (b.take (e.len - 8)) && leAt b (e.len - 8) 4 == leAt img 20 4)

/-- A value that the table of a register lists as illegal or refused in a Parcel (R366, R124, R149, R179, R185, R194, R318). -/
def recIllegal (d : Die) (off v : Nat) : Bool :=
  if off = Reg.PWR_VWARN then v < 57 || 360 < v
  else if off = Reg.BEAT_CFG then v % 16 != 0
  else if off = Reg.MST_CFG then v % 8 == 7 || bitsOf v 8 7 == 0 || 64 < bitsOf v 8 7
  else if off = Reg.MST_LOSS_DEC ∨ off = Reg.MST_VM_ACC ∨ off = Reg.MST_VM_JERK then v == 0
  else if 0x70A0 ≤ off ∧ off < 0x70C0 ∧ off % 0x10 < 8 then !gainOk (off / 4 % 2 == 1) true v
  else if off < 0xC000 then false
  else if off < 0xE000 then
    if off % 0x400 = 0 then v % 4 == 3
    else off % 0x800 == 0x104 && (1024 < bitsOf v 0 11 || bitsOf v 11 8 < 4 || bitsOf v 19 13 == 0)
  else if off < 0xF000 then off = Reg.CTR_CFG && (4 < bitsOf v 1 3 || bitsOf v 4 11 < 200 || 2000 < bitsOf v 4 11)
  else if off < 0x10000 then
    if off < 0xF100 then
      off % 0x10 == 0 && (bitsOf v 3 5 < 8 || 20 < bitsOf v 3 5 || bitsOf v 8 12 == 0 || bitsOf v 8 12 ≤ bitsOf v 20 8)
    else if 0xF900 ≤ off then false
    else
      let o := (off - 0xF100) % 0x80
      if o = 0x08 then 4 < v % 8 || (v % 8 == 2 && bitsOf v 7 2 == 0)
      else if o = 0x0C then bitsOf v 11 13 == 0 || 4096 < bitsOf v 11 13
      else if o = 0x14 then v % 64 != 0
      else if o = 0x18 then 65535 < v
      else if o = 0x34 then v == 0
      else if o = 0x40 then v % 16 == 0 || 8 < v % 16
      else false
  else if off < 0x10800 then
    let o := off % 0x40
    if o = 0x0C then v % 256 < 10 || bitsOf v 8 8 == 0 else (o == 0x30 || o == 0x34 || o == 0x3C) && v == 0
  else if off < 0x11000 then off % 0x20 ≠ 0 && v == 0
  else if off < 0x12000 then off % 0x400 == 0 && bitsOf v 6 2 == 3
  else if off < 0x20000 then false
  else
    let o := off % 0x400
    if o = 0x280 then false
    else if o = 0x300 then v == 0 || 64 < v
    else if o = 0x304 ∨ o = 0x354 then v == 0
    else if 0x310 ≤ o ∧ o < 0x350 then !gainOk (o / 4 % 2 == 1) true v
    else axIllegal d ((off - 0x20000) / 0x400) o v

/-- A register record that R366 accepts. -/
def recOk (d : Die) (r : Nat × Nat) : Bool :=
  r.1 < 2 ^ 20 &&
    match findReg r.1 with
    | some x => x.1.parcel != 0 && !x.1.prv && (r.2 &&& x.1.parcel) == r.2 && !recIllegal d r.1 r.2
    | none => false

/-- The Parcel bits of the register at an offset: none of a privileged register, which only a part with an accepted SAFETY
section publishes (R311). -/
def parcelMask (off : Nat) : Nat :=
  match findReg off with
  | some x => if off = Reg.HST_LOCK ∨ x.1.prv = true then 0 else x.1.parcel
  | none => 0

/-- Every Parcel field at the value it has before loading, and no staged host write on it (R366, R371). -/
def parcelDefaults (d : Die) : Die :=
  let back (x : Nat × Word) : Nat × Word :=
    let m := parcelMask x.1
    (x.1, BitVec.ofNat 32 ((x.2.toNat - (x.2.toNat &&& m)) + ((resetVal x.1).toNat &&& m)))
  { d with
    regs := (d.regs.map back).filter (fun x => x.2 != resetVal x.1)
    held := d.held.filter (fun x => parcelMask x.1 == 0)
    heldLow := d.heldLow.filter (fun x => parcelMask x == 0)
    land := d.land.filter (fun x => parcelMask x.1 == 0) }

/-- Apply a register record (R366, R371). -/
def applyRec (d : Die) (r : Nat × Nat) : Die :=
  let m := parcelMask r.1
  let old := (getReg d r.1).toNat
  if m = 0 then d else dropHeld (putReg d r.1 (BitVec.ofNat 32 ((old - (old &&& m)) + (r.2 &&& m)))) r.1

/-- The rate code that a Parcel header gives (R24, R364); before loading, `none`: the strap. -/
def rateCode (straps : Nat) (hdr : Option Nat) : Nat :=
  match hdr with
  | some r => if bitOf r 7 then r % 8 else if 5 < bitsOf straps 11 3 then 3 else bitsOf straps 11 3
  | none => if 5 < bitsOf straps 11 3 then 3 else bitsOf straps 11 3

/-- FCL and the period of a rate, which no record sets (R25; log entry 151). -/
def beatFixed (d : Die) (code : Nat) : Die :=
  let t : Nat := 1000000000
  setFld (setFld d Reg.BEAT_FCL_VALUE (95 * t / (100 * rateHz code))) Reg.BEAT_PERIOD_VALUE (t / rateHz code)

/-- The beat registers of a rate with the defaults of R25 and R27. -/
def beatDefaults (d : Die) (code : Nat) : Die :=
  let t : Nat := 1000000000
  let f := rateHz code
  let d := setFld d Reg.BEAT_CFG_RATE code
  let d := setFld d Reg.BEAT_IDL_VALUE (t / (2 * f))
  beatFixed (setFld d Reg.BEAT_OPH_VALUE (3 * t / (4 * f))) code

/-- Sparse contents of a list of words. -/
def sparseOf (dflt : DWord) (ws : List Nat) : Sparse DWord :=
  (ws.zipIdx.map fun x => (x.2, BitVec.ofNat 48 x.1)).filter (·.2 != dflt)

/-- The words of a PROGRAM or COEFF section. -/
def wordsOf (bs : List Byte) : List Nat := (chunks8 bs).map leNat

/-- Descriptors and edge list of a TASKS section (R151, R365). -/
def putTasks (d : Die) (b : List Byte) : Die :=
  let pair : List (List Byte) → List (BitVec 128) := fun l =>
    (l.zip l.tail).zipIdx.filterMap fun x =>
      if x.2 % 2 = 0 then some (BitVec.ofNat 128 (leNat x.1.1 + 2 ^ 64 * leNat x.1.2)) else none
  let ds := ((pair (chunks8 (b.take 16384))).zipIdx.map fun x => (x.2, x.1)).filter (·.2 != 0)
  let edges := (upto (leAt b 16384 4)).map fun i => leAt b (16388 + 2 * i) 2
  let role (e : Nat) : Nat := Config.vendorRole d.boot.img e
  let roles := (ds.map fun x => (x.1, if bitOf x.2.toNat 31 then role (bitsOf x.2.toNat 0 14) else 0)).filter (·.2 != 0)
  updKnl d fun k => { k with descs := ds, edgeList := edges, vendor := roles }

/-- The Leash declarations of NODES (R367): nodes, their DECL and VER, t_apply of their axes, and the loader's T_path. -/
def putNodes (d : Die) (l : List SegDecl) : Die :=
  forEach l { d with nodes := [] } fun d x =>
    let seg := x.1
    let d := updSeg d seg fun s => { s with lastCm := x.2.2.1, lastPs := x.2.2.2.1 }
    let d := forEach x.2.2.2.2.zipIdx d fun d y =>
      let d := updNode d seg y.2 fun _ => y.1
      let d := putFlag (setFlag d (Reg.LSH_NODE_STAT_DECL seg y.2)) (Reg.LSH_NODE_STAT_VER seg y.2) (bitOf y.1.vers 1)
      forEach (nodeAxes d seg y.2) d fun d a => putReg d (Reg.AX_CS_TAPPLY a) (BitVec.ofNat 32 y.1.tapply)
    setFld d (Reg.LSH_TPATH_LOADER seg) (rhu (tPathQ d seg : Nat) 100000).toNat

/-- The TRUNK section in the registers and tables (R264, R368). -/
def putTrunk (d : Die) (b : List Byte) : Die :=
  let nl := leAt b 3 1
  let nn := leAt b 4 1
  let me := nodeId d
  let links : List Link := (upto nl).map fun i =>
    let r := slice b (8 + 8 * i) 8
    (leAt r 0 1, leAt r 1 1, leAt r 2 1, leAt r 3 1, leAt r 4 2, bitOf (leAt r 6 1) 0)
  let d := setFld (setFld d Reg.CTR_CFG_NCYC (leAt b 2 1)) Reg.CTR_CFG_GUARD (leAt b 6 2)
  let d := updTrk d fun t => { t with links := links }
  let d := forEach (upto 3) d fun d p => putReg d (Reg.CTR_P_CFG p) 0
  let port (d : Die) (p peer : Nat) (l : Link) : Die :=
    let d := setFld (setFlag d (Reg.CTR_P_CFG_USED p)) (Reg.CTR_P_CFG_PEER p) peer
    setFld (putFlag d (Reg.CTR_P_CFG_OPEN p) l.2.2.2.2.2) (Reg.CTR_P_CFG_DELAY p) l.2.2.2.2.1
  let d := forEach links d fun d l =>
    if l.1 = me then (if l.2.1 < 3 then port d l.2.1 l.2.2.1 l else d)
    else if l.2.2.1 = me then (if l.2.2.2.1 < 3 then port d l.2.2.2.1 l.1 l else d) else d
  let d := forEach (upto 64) d fun d n => putReg d (Reg.CTR_NODE n) 0
  let d := forEach (upto nn) d fun d i =>
    let r := slice b (8 + 8 * nl + 4 * i) 4
    let n := leAt r 0 1 % 64
    setFld (putFlag (setFlag d (Reg.CTR_NODE_SCHED n)) (Reg.CTR_NODE_RANKED n) (bitOf (leAt r 1 1) 0))
      (Reg.CTR_NODE_RANK n) (leAt r 2 1)
  let d := forEach (upto 128) d fun d i =>
    let r := slice b (8 + 8 * nl + 4 * nn + 8 * i) 8
    let d := setFld d (Reg.CTR_SLOT_W0_START i) (leAt r 0 4)
    setFld (setFld (setFld d (Reg.CTR_SLOT_W1_LEN i) (leAt r 4 1)) (Reg.CTR_SLOT_W1_KIND i) (leAt r 5 1))
      (Reg.CTR_SLOT_W1_OWNER i) (leAt r 6 1)
  putPd (putReg d Reg.CTR_HASH (BitVec.ofNat 32 (crc32 b)))

/-- The control die's copy of SAFETY (R369), for the handshake with the Sheepdog (R311). -/
def putSafety (d : Die) (b : List Byte) : Die :=
  updBoot d fun x => { x with safety := b, safeCrc := leAt b (b.length - 8) 4 }

/-- The declared step groups: those with any of their fields set. -/
def declGroups (d : Die) : List Nat :=
  (upto 8).filter fun g => [Reg.STP_GRP_MEM g, Reg.STP_GRP_VMAX g, Reg.STP_GRP_AMAX g, Reg.STP_GRP_VMIN g].any
    fun o => (getReg d o).toNat != 0

/-- The part as an image configures it, before any of the checks that compare its values. -/
def candidate (d : Die) (img : List Byte) : Die :=
  let es := directory img
  let rs := regRecords (sectBytes img es 1)
  let code := rateCode d.straps.toNat (some (leAt img 12 1))
  let d := forEach rs (beatDefaults (parcelDefaults d) code) applyRec
  let d := putFlag (setFld (beatFixed d code) Reg.BEAT_CFG_RATE code) Reg.BEAT_CFG_SRC (bitOf (leAt img 12 1) 7)
  let d := updBoot d fun b => { b with img := crc32 (sectBytes img es 2 ++ sectBytes img es 3) }
  let d := { d with mem := { d.mem with imem := sparseOf imemDefault (wordsOf (sectBytes img es 2)),
                                        ymem := sparseOf 0 (wordsOf (sectBytes img es 3)), yq := [], yqAt := none } }
  let d := putTasks d (sectBytes img es 4)
  let d := putNodes d ((parseNodes 5 (sectBytes img es 5)).getD [])
  let d := if flag d Reg.CTR_CFG_DECL then putTrunk d (sectBytes img es 6) else d
  let d := putSafety d (sectBytes img es 7)
  let d := forEach (declChans d) d fun d c => putReg d (Reg.CAP_CH_SLOTSZ c) (BitVec.ofNat 32 (slotSize d c))
  updBoot d fun b => { b with image := rs.map fun r => (r.1, BitVec.ofNat 32 r.2), subsys := leAt img 16 4 }

/-- A gain table that R101 allows. -/
def gainTableOk (d : Die) (sel : Nat) : Bool :=
  let len := Config.gainTableLen d.boot.img sel
  1 ≤ len && len ≤ 256 && (upto len).all fun i => !bitOf (yRead d (Config.gainTableAt d.boot.img sel + i)).toNat 23

/-- A notch that R105 allows: centre, dampings, beat rate. -/
def notchOk (f0 zz zp : Rat) (f : Nat) : Bool :=
  decide (10 ≤ f0) && decide (100 * f0 ≤ 45 * (f : Rat)) && decide (0 ≤ zz) && decide (zz < zp) && decide (zp ≤ 1)

/-- A low-pass that R105 allows: corner, damping, beat rate. -/
def lowPassOk (f0 z : Rat) (f : Nat) : Bool :=
  decide (10 ≤ f0) && decide (100 * f0 ≤ 45 * (f : Rat)) && decide (3 / 10 ≤ z) && decide (z ≤ 1)

/-- The filters and the tracker of an axis (R105, R115), judged where AX_CFG enables them (log entry 79), and the creep
speed its latch can follow (R147). -/
def axRangeOk (d : Die) (a : Nat) : Bool :=
  let f := hz d
  let n (o : Nat) : Nat := (getReg d o).toNat
  let frac (o : Nat) : Rat := (sext 24 (n o) : Rat) / 2 ^ 23
  let img := d.boot.img
  (!flag d (Reg.AX_CFG_NA_EN a) ||
    notchOk ((n (Reg.AX_NA_FREQ a) : Rat) / 256) (frac (Reg.AX_NA_ZZ a)) (frac (Reg.AX_NA_ZP a)) f) &&
  (!flag d (Reg.AX_CFG_NB_EN a) ||
    notchOk (Config.filterHz img a 2) (Config.filterZz img a 2) (Config.filterZp img a 2) f) &&
  (!flag d (Reg.AX_CFG_LP_EN a) || lowPassOk (Config.filterHz img a 3) (Config.filterZp img a 3) f) &&
  (!flag d (Reg.AX_CFG_TRK_EN a) ||
    (5120 ≤ n (Reg.AX_FA_MIN a) && 100 * n (Reg.AX_FA_MAX a) ≤ 40 * 256 * f &&
      n (Reg.AX_FA_MIN a) < n (Reg.AX_FA_MAX a) && 256 ≤ n (Reg.AX_TRK_SLEW a) &&
      1 ≤ n (Reg.AX_TRK_DWELL a) && n (Reg.AX_TRK_DWELL a) ≤ 65535 &&
      16 ≤ n (Reg.AX_TRK_GAP a) && n (Reg.AX_TRK_GAP a) ≤ 2 ^ 20)) &&
  (fld d (Reg.AX_HM_CFG_METHOD a) == 0 || n (Reg.AX_HM_VCREEP a) ≤ 16383 * f)

/-- A declared capture channel (R179, R180, R185). -/
def chRangeOk (d : Die) (c : Nat) : Bool :=
  let win := fld d (Reg.CAP_CH_WIN_PRE c) + fld d (Reg.CAP_CH_WIN_POST c)
  let base (c : Nat) : Nat := (getReg d (Reg.CAP_CH_BASE c)).toNat
  let size (c : Nat) : Nat := (getReg d (Reg.CAP_CH_NSLOT c)).toNat * slotSize d c
  let unit := (getReg d (Reg.CAP_CH_UNIT c)).toNat
  let nmark := fld d (Reg.CAP_CH_GRPCFG_NMARK c)
  fld d (Reg.CAP_CH_WIN_POST c) != 0 && fld d (Reg.CAP_CH_RECLEN_RECLEN c) ≤ win && nPos d c ≤ 16 &&
    (getReg d (Reg.CAP_CH_NSLOT c)).toNat != 0 && base c + size c ≤ 2 ^ 21 &&
    (declChans d).all (fun x => x == c || base x + size x ≤ base c || base c + size c ≤ base x) &&
    1 ≤ nmark && nmark ≤ 8 && (nmark == 1 || unit != 0) && (unit == 0 || 2 * (getReg d (Reg.CAP_CH_TOL c)).toNat < unit)

/-- A velocity limit of a channel that R194 allows. -/
def vmaxOk (d : Die) (n v : Nat) : Bool :=
  v * (fld d (Reg.STP_CFG_PW n) + 10) ≤ 2 ^ 48 && v ≤ 0x0CCCCCCCCCCC && v != 0

/-- A declared step group (R197, R199). -/
def grpRangeOk (d : Die) (g : Nat) : Bool :=
  let m := grpMembers d g
  let vmax := (getReg d (Reg.STP_GRP_VMAX g)).toNat
  let vmin := (getReg d (Reg.STP_GRP_VMIN g)).toNat
  1 ≤ m.length && m.length ≤ 8 && (upto 8).all (fun x => x == g || m.all fun n => !(grpMembers d x).contains n) &&
    1 ≤ vmin && vmin ≤ vmax && (getReg d (Reg.STP_GRP_AMAX g)).toNat != 0 && m.all fun n => vmaxOk d n (stepWord (vmax : Int)).toNat

/-- Values of NODES (R367). -/
def nodesRangeOk (l : List SegDecl) : Bool :=
  l.all fun x => x.2.2.2.2.all fun n =>
    1 ≤ n.nax && n.nax ≤ 8 && n.resid ≤ 400 && (n.vers % 4 == 1 || n.vers % 4 == 2)

/-- The first record that R366 refuses, by its place in the list. -/
def badRecord (d : Die) (rs : List (Nat × Nat)) : Option Nat := rs.findIdx? fun r => !recOk d r

/-- Code RANGE: values refused by a rule of any chapter that has no code of its own. -/
def checkRange (d c : Die) (img : List Byte) : Except Refused Unit := do
  let es := directory img
  let at_ (t : Nat) : Nat × Nat := ((findSection es t).map fun e => (e.idx, e.off)).getD (0x7F, 0)
  chk 8 0x7F 12 (!bitOf (leAt img 12 1) 7 || leAt img 12 1 % 8 < 6)
  match badRecord d (regRecords (sectBytes img es 1)) with
  | some i => .error (8, (at_ 1).1, (at_ 1).2 + 8 * i)
  | none => .ok ()
  [2, 3].forM fun t =>
    match (wordsOf (sectBytes img es t)).findIdx? (2 ^ 48 ≤ ·) with
    | some i => .error (8, (at_ t).1, (at_ t).2 + 8 * i)
    | none => .ok ()
  chk 8 (at_ 5).1 (at_ 5).2 (nodesRangeOk ((parseNodes 5 (sectBytes img es 5)).getD []))
  chk 8 0x7F 0 ((upto 32).all fun sel =>
    !(bitOf (Config.gainTables c.boot.img) sel || (declAxes c).any fun a => fld c (Reg.AX_CFG_LUT_SEL a) == sel) ||
      gainTableOk c sel)
  chk 8 0x7F 0 ((declAxes c).all (axRangeOk c))
  chk 8 0x7F 0 ((declChans c).all (chRangeOk c))
  chk 8 0x7F 0 ((upto 32).all fun n => !flag c (Reg.STP_CFG_DECL n) || vmaxOk c n (get64 c (Reg.STP_VMAX n)))
  chk 8 0x7F 0 ((declGroups c).all (grpRangeOk c))
  chk 8 0x7F 0 (c.knl.vendor.all fun x => x.2 < 3 || 10 < x.2 || descLevel c x.1 ≤ 3)
  chk 8 0x7F 0 ((upto 4).all fun n => !flag c (Reg.CAN_CFG_DECL n) ||
    canTimingOk (getReg c (Reg.CAN_NBT n)).toNat (getReg c (Reg.CAN_DBT n)).toNat (flag c (Reg.CAN_CFG_BRSE n)))
  chk 8 0x7F 0 (flag d Reg.PWR_STAT_SREFLOCK ||
    ((upto 4).all (fun s => !flag c (Reg.LSH_SCFG_DECL s)) && !flag c Reg.CTR_CFG_DECL))

/-- A slot of a segment that R210 allows: an L1 slot holds neither a thin-drive nor a safety-layer axis, and its axis takes
V_bus from the drive; so does a thin-drive axis. -/
def slotOk (c : Die) (e : Nat) : Bool :=
  let a := e % 128
  let thin := flag c (Reg.AX_CFG_THIN a) || bitOf e 9
  let l1 := !bitOf e 8
  !(l1 && (thin || bitOf e 10)) && !((l1 || thin) && flag c (Reg.AX_CFG_VSRC a))

/-- Code CAPACITY (R5, R210). -/
def checkCapacity (c : Die) : Bool :=
  let code := fld c Reg.BEAT_CFG_RATE
  let segs := (upto 4).filter fun s => flag c (Reg.LSH_SCFG_DECL s)
  let used : List Nat := segs.flatMap fun s => (slotsOf c s).map fun x => x.2 % 128
  let axes := declAxes c
  let thin := axes.filter fun a => flag c (Reg.AX_CFG_THIN a)
  axes.length ≤ nth [128, 128, 128, 128, 96, 64, 128, 128] code &&
    thin.length ≤ nth [48, 48, 48, 48, 48, 24, 48, 48] code &&
    segs.all (fun s => nNode c s ≤ 32 && fld c (Reg.LSH_SCFG_NSLOT s) ≤ (if code = 5 then 16 else 48) &&
      (slotsOf c s).all fun x => slotOk c x.2) && decide used.Nodup

/-- The VALID descriptors. -/
def validDescs (c : Die) : List Nat := (c.knl.descs.map (·.1)).filter (descValid c)

/-- The worst-case sum S of R39. The Parcel format holds no host reservation, so it is 0. -/
def worstSum (c : Die) : Nat :=
  (validDescs c).foldl (fun s i => s + bitsOf (descWord c i 2) 0 21 * bitsOf (descWord c i 3) 0 8) 0

/-- The budget B of a beat (R27). -/
def budgetB (f : Nat) : Nat := 8000000000 / f

/-- Fixed-phase W of an axis. -/
def fixedW (c : Die) (a : Nat) : Nat :=
  match findDesc c 0 a with
  | some i => bitsOf (descWord c i 2) 0 21
  | none => 0

/-- The longest path of the in-slot of node `i` (R215), and with REDUND = 1 over every break too (R233; log entry 146). -/
def longestPathQ (c : Die) (s i : Nat) : Nat :=
  if redund c s then (upto (nNode c s + 1)).foldl (fun m t => max m (linePathQ c s t i)) (tPathQ c s) else tPathQ c s

/-- Latest in-slot arrival of every axis with a slot, in units of 10^-5 ns (R29, R215, R233): axis, arrival. -/
def arrivals (c : Die) : List (Nat × Nat) :=
  ((upto 4).filter fun s => flag c (Reg.LSH_SCFG_DECL s)).flatMap fun s =>
    (slotPlan c s (padOf c s)).map fun x =>
      (x.2.1 % 128, 100000 * (8 * (x.2.2 + 2 * slotLen x.2.1) + 168) +
        longestPathQ c s (fld c (Reg.AX_CFG_NODE (x.2.1 % 128))))

/-- Code BUDGET (R39, R40). -/
def checkBudget (c : Die) : Bool :=
  let arr := (arrivals c).map fun x => (x.2, fixedW c x.1)
  let wmax := (upto 128).foldl (fun m a => max m (fixedW c a)) 0
  100 * worstSum c ≤ 85 * budgetB (hz c) &&
    (validDescs c).all (fun i => 3 < descClass c i || bitsOf (descWord c i 3) 0 8 != 0) &&
    arr.all fun x =>
      let sum := (arr.filter fun y => x.1 ≤ y.1).foldl (fun s y => s + y.2) 0
      100000 * (sum + 15 * wmax + 192) + 8 * x.1 ≤ 800000 * fld c Reg.BEAT_OPH_VALUE

/-- Code TIMING (R25, R29, R215, R233). -/
def checkTiming (c : Die) : Bool :=
  let t : Nat := 1000000000
  let f := hz c
  let idl := fld c Reg.BEAT_IDL_VALUE
  let oph := fld c Reg.BEAT_OPH_VALUE
  t ≤ 5 * f * idl && t + 10 * f * idl ≤ 10 * f * oph && 10 * f * oph ≤ 9 * t &&
    (upto 4).all fun s => !flag c (Reg.LSH_SCFG_DECL s) || (r215Ok c s (padOf c s) && (!redund c s || r233Ok c s))

/-- The orders of R368: links by (NODE_A, PORT_A) with NODE_A < NODE_B, nodes by NODEID. -/
def trunkOrderOk (c : Die) (b : List Byte) : Bool :=
  let nl := leAt b 3 1
  let ls := c.trk.links.map fun l => (l.1, 256 * l.1 + l.2.1, l.2.2.1)
  let ns := (upto (leAt b 4 1)).map fun i => leAt b (8 + 8 * nl + 4 * i) 1
  ls.all (fun l => l.1 < l.2.2) && (ls.zip ls.tail).all (fun x => x.1.2.1 < x.2.2.1) &&
    (ns.zip ns.tail).all (fun x => x.1 < x.2) && ns.all (· < 64)

/-- The bytes of the section name nothing but what R247, R261 and R262 allow: nodes 0 to 63; ports CT0 to CT2, each used once; START, LEN,
KIND and OWNER of each slot; G; ranks; a delay that CTR_P_p_CFG can hold (log entry 125); 0 where R368 says 0. -/
def trunkBytesOk (b : List Byte) : Bool :=
  let nl := leAt b 3 1
  let nn := leAt b 4 1
  let ls := (upto nl).map fun i => slice b (8 + 8 * i) 8
  let ends := ls.flatMap fun r => [(leAt r 0 1, leAt r 1 1), (leAt r 2 1, leAt r 3 1)]
  leAt b 5 1 == 0 && ends.all (fun e => e.1 < 64 && e.2 < 3) && decide ends.Nodup &&
    ls.all (fun r => leAt r 4 2 < 2 ^ 12 && leAt r 6 2 < 2) &&
    (upto nn).all (fun i => leAt b (8 + 8 * nl + 4 * i + 1) 1 < 2 && leAt b (8 + 8 * nl + 4 * i + 2) 2 < 4) &&
    decide (200 ≤ leAt b 6 2) && decide (leAt b 6 2 ≤ 2000) &&
    (upto 128).all fun i =>
      let r := slice b (8 + 8 * nl + 4 * nn + 8 * i) 8
      leAt r 7 1 == 0 && (leAt r 4 1 == 0 || (leAt r 0 4 < 2 ^ 22 && leAt r 4 1 ≤ 8 && leAt r 5 1 < 6 && leAt r 6 1 < 64))

/-- R133 for a master that comes over the trunk (R276): each of its samples is held in time. -/
def trunkMasterOk (c : Die) : Bool :=
  let f := hz c
  let src := fld c Reg.MST_CFG_SRCID
  let lead := fld c Reg.MST_CFG_LEAD
  match (pathsFrom (linkTable c) declDly src).find? (·.1 == nodeId c) with
  | none => false
  | some p =>
    let ms := (slots c).filter fun i => slKind c i == 2 && slOwner c i == src
    ms != [] && ms.all fun i =>
      let start := slStart c i - edgeGt f (slStart c i * f / 1000000000)
      2560 * start + 10 * p.2 + 256 * 2448 + 1280 * guardNs c ≤ 2560 * (lead * (1000000000 / f) + 400)

/-- Code TRUNK (R127, R133, R247, R262, R284, R368). -/
def checkTrunk (c : Die) (b : List Byte) : Bool :=
  let src := fld c Reg.MST_CFG_SRC
  let decl := flag c Reg.CTR_CFG_DECL
  (!flag c Reg.MST_CFG_SEND || decl) && (src < 5 || fld c Reg.MST_CFG_LEAD != 0) &&
    (!decl || (trunkOrderOk c b && trunkBytesOk b && leAt b 0 1 == fld c Reg.BEAT_CFG_RATE && leAt b 1 1 == fld c Reg.MST_CFG_LEAD &&
      leAt b 2 1 ≤ 4 && trunkOk c)) &&
    (src != 6 || (decl && trunkMasterOk c))

/-- The destination and pointer conflicts of R79 in a class M word: `dst` tells whether the operation writes D[A]. -/
def conflictFree (dst : Bool) (w : Nat) : Bool :=
  let xl := bitOf w 23 && !bitOf w 22
  let yl := bitOf w 11
  !(dst && ((xl && bitsOf w 13 4 == iA w) || (yl && bitsOf w 2 4 == iA w))) &&
    !(xl && yl && bitsOf w 13 4 == bitsOf w 2 4) && !(bitOf w 23 && yl && bitsOf w 19 3 == bitsOf w 8 3)

/-- The fields each class M opcode uses (R421). -/
def useOfM (op : Nat) : Nat :=
  if op = 0 then 0
  else if op < 0x0A then useMac
  else if op = 0x0A then useMask false false false true true true + 2 ^ 30
  else if op < 0x0D then useMask true false false false true true
  else if op < 0x12 then useTwo
  else if op < 0x17 then useOne
  else if op < 0x1B then useTwo
  else if op < 0x1D then useOne
  else if op < 0x1F then useMask true true true false false false
  else if op = 0x1F then useMask true true false true false false
  else if op = 0x20 then useMask false true false true false false
  else useMask true false false true false false

/-- The bits each class I word uses (R421). -/
def useOfI (op w : Nat) : Nat :=
  match op with
  | 0x22 => fieldMask 41 38 + 2 ^ 24 + fieldMask 23 0
  | 0x23 => fieldMask 39 38 + fieldMask 7 0
  | 0x24 => fieldMask 40 38 + fieldMask 25 24 + fieldMask 15 0
  | 0x25 => fieldMask 41 34 + fieldMask 5 0
  | 0x26 => fieldMask 41 34 + fieldMask 5 0
  | 0x27 => useWin w
  | 0x28 => useWin w
  | 0x29 => fieldMask 41 38 + fieldMask 36 34 + fieldMask 25 24
  | 0x2A => fieldMask 13 0
  | 0x2B => fieldMask 41 38 + fieldMask 13 0
  | 0x2C => fieldMask 13 0
  | 0x2E => fieldMask 6 0 + fieldMask 23 8
  | 0x2F => fieldMask 37 34 + fieldMask 6 0
  | 0x31 => fieldMask 37 34 + fieldMask 9 0
  | _ => 0

/-- A word that R80 and R421 allow in a program image. -/
def wordOk (w : Nat) : Bool :=
  let op := iOp w
  if op < 0x22 then usedM (useOfM op) w && conflictFree (bitOf (useOfM op) 38) w
  else if 0x32 ≤ op then false
  else usedI (useOfI op w) w && !(op == 0x27 && bitsOf w 24 2 == 3) && (!(op == 0x2E || op == 0x2F) || (1 ≤ w % 128 && w % 128 ≤ 64))

/-- R83 and R152 for the word at an address of a program image: jump targets inside the image, inner loop bodies inside
outer ones, POST of a VALID descriptor of class POSTED. -/
def flowOk (c : Die) (ws : List Nat) (pc w : Nat) : Bool :=
  let op := iOp w
  let n := w % 128
  if op = 0x2A ∨ op = 0x2B ∨ op = 0x2C then w % 2 ^ 14 < ws.length
  else if op = 0x2E ∨ op = 0x2F then
    ((ws.drop (pc + 1)).take n).zipIdx.all fun x =>
      !(iOp x.1 == 0x2E || iOp x.1 == 0x2F) || pc + 1 + x.2 + x.1 % 128 ≤ pc + n
  else op != 0x31 || (descValid c (w % 1024) && descClass c (w % 1024) == 6)

/-- A descriptor lies in its class's row and names an engine (R152). -/
def classRowOk (c : Die) (i : Nat) : Bool :=
  let l := descLevel c i
  let m := descMulti c i
  descMask c i != 0 &&
    match descClass c i with
    | 0 => l ≤ 3 && !m
    | 1 => 4 ≤ l && l ≤ 7 && !m
    | 2 => !m
    | 3 => 8 ≤ l && l ≤ 11 && !m
    | 4 => 12 ≤ l && l ≤ 13 && m
    | 5 => 14 ≤ l && m
    | 6 => 8 ≤ l
    | _ => false

/-- How many descriptors of a class an axis has. -/
def classCount (c : Die) (cls a : Nat) : Nat :=
  ((validDescs c).filter fun i => descClass c i == cls && descAxis c i == some a).length

/-- Code PROGRAM (R79, R80, R83, R152). -/
def checkProgram (c : Die) (img : List Byte) : Except Refused Unit := do
  let es := directory img
  let at_ (t : Nat) : Nat × Nat := ((findSection es t).map fun e => (e.idx, e.off)).getD (0x7F, 0)
  let ws := wordsOf (sectBytes img es 2)
  match ws.zipIdx.findIdx? fun x => !(wordOk x.1 && flowOk c ws x.2 x.1) with
  | some i => .error (0xD, (at_ 2).1, (at_ 2).2 + 8 * i)
  | none => .ok ()
  match (validDescs c).find? fun i => !classRowOk c i with
  | some i => .error (0xD, (at_ 4).1, (at_ 4).2 + 16 * i)
  | none => .ok ()
  chk 0xD (at_ 4).1 (at_ 4).2 ((declAxes c).all fun a =>
    classCount c 0 a == 1 && classCount c 1 a == 1 && classCount c 3 a ≤ 1)
  chk 0xD (at_ 4).1 ((at_ 4).2 + 16384) (c.knl.edgeList.length ≤ 64 && decide c.knl.edgeList.Nodup)

/-- The checks of R370 from IMGCRC to PROGRAM, in table order, and the configured part when none fails. -/
def judgeImage (d : Die) (img : List Byte) (crc : Nat) : Except Refused Die := do
  chk 2 0x7F 0 (crc32 img == crc)
  checkHeader img
  checkIdentity d img
  checkSections img
  let c := candidate d img
  checkRange d c img
  chk 9 0x7F 0 (checkCapacity c)
  chk 0xA 0x7F 0 (checkBudget c)
  chk 0xB 0x7F 0 (checkTiming c)
  chk 0xC 0x7F 0 (checkTrunk c (sectBytes img (directory img) 6))
  checkProgram c img
  .ok c

/-- The latest refusal (R370). -/
def putBootErr (d : Die) (r : Refused) (bank : Nat) : Die :=
  let d := putReg d Reg.GLB_BOOT_ERR (BitVec.ofNat 32 (r.1 + 256 * (bank % 2) + 512 * (r.2.1 % 128)))
  putReg d Reg.GLB_BOOT_ERRPOS (BitVec.ofNat 32 r.2.2)

/-- The step channels of groups take mode GROUP; those in no group keep OFF (R196). -/
def putGroupModes (d : Die) : Die :=
  forEach (declGroups d) d fun d g => forEach (grpMembers d g) d fun d n => setFld d (Reg.STP_MODE_MODE n) 2

/-- The declared CAN controllers take their START mode (R322). -/
def canStart (d : Die) : Die :=
  forEach (upto 4) d fun d n => if flag d (Reg.CAN_CFG_DECL n) then canReq d n (fld d (Reg.CAN_CFG_START n)) else d

/-- The head ports of declared segments are powered, and redundant segments have their snapshot (R234, R375). -/
def leashStart (d : Die) : Die :=
  forEach ((upto 4).filter fun s => flag d (Reg.LSH_SCFG_DECL s)) d fun d s =>
    putSnap (setFlag d (Reg.LSH_PSTAT_TXON (2 * s))) s

/-- The loader finishes with a Parcel that passed (R371, R375): `c` is the configured part, `min` FMT_MIN, `lock` FLAGS.LOCK. -/
def loadDone (c : Die) (gen bank : Nat) (hostDl lock : Bool) (min : Nat) : Die :=
  let d := setFld (setFld (setFld c Reg.GLB_BOOT_STAT_PHASE 3) Reg.GLB_BOOT_STAT_BANK bank) Reg.GLB_BOOT_STAT_FMT_MIN min
  let d := putFlag d Reg.GLB_BOOT_STAT_HOSTDL hostDl
  let d := putReg d Reg.GLB_BOOT_GEN (BitVec.ofNat 32 gen)
  let d := vinSettle (updBoot d fun b => { b with loaded := true, gen := gen, bank := bank })
  let d := if lock then setFlag d Reg.HST_LOCK_LOCK else d
  let d := setFld d Reg.BEAT_WCSUM_CYCLES (worstSum d)
  let d := setFld d Reg.BEAT_BUDGET_CYCLES (budgetB (hz d))
  let d := updPwr d fun p => { p with dom := (declaredDoms d).foldl setBit 0 }
  let d := forEach (upto 128) d fun d a => updGear d a fun g =>
    { g with num := sext 32 (getReg d (Reg.AX_LS_NUM a)).toNat, den := (getReg d (Reg.AX_LS_DEN a)).toNat }
  let d := setFlag (setFlag (putGroupModes d) Reg.KNL_STAT_RUN) Reg.HST_STAT_READY
  let d := leashStart (canStart d)
  let d := if flag d Reg.CTR_CFG_DECL then enterListen (trunkUp d) else d
  let d := updTb d fun t => { t with finished := some t.gt }
  logEvt d 0 1 0 (getReg d Reg.GLB_RST_CAUSE).toNat (getReg d Reg.GLB_BOOT_STAT).toNat gen

/-- An image is judged and, if it passes, loaded. -/
def loadImage (d : Die) (img : List Byte) (crc gen bank : Nat) (hostDl : Bool) : Except Refused Die :=
  match judgeImage d img crc with
  | .error r => .error r
  | .ok c => .ok (loadDone c gen bank hostDl (bitOf (leAt img 11 1) 0) (leAt img 5 1))

/-- A part that has loaded no Parcel runs unconfigured (R374). -/
def unconfigured (d : Die) : Die :=
  let d := setFlag (setFld d Reg.GLB_BOOT_STAT_PHASE 4) Reg.HST_STAT_READY
  logEvt d 0 1 0 (getReg d Reg.GLB_RST_CAUSE).toNat (getReg d Reg.GLB_BOOT_STAT).toNat 0

/-- The boot load of R363 over the banks to try; `prev` is the refusal of the newer bank. -/
def bootFrom (d : Die) : List Nat → Option (Refused × Nat) → Die
  | [], none => unconfigured (putBootErr d (1, 0x7F, 0) 0)
  | [], some _ => unconfigured d
  | b :: bs, prev =>
    let r := bankRecord d.boot.flash b
    let d' := if prev.isSome then setFlag d Reg.GLB_BOOT_STAT_FALLBACK else d
    match loadImage d' (bankImage d.boot.flash b) r.2.2.2 r.2.1 b false with
    | .ok c =>
      if prev.isSome then logEvt c 0 2 1 (getReg c Reg.GLB_BOOT_ERR).toNat (getReg c Reg.GLB_BOOT_ERRPOS).toNat 0 else c
    | .error e => bootFrom (putBootErr d e b) bs (some (e, b))

/-- The loader's work is waiting: no Parcel loaded and the part not declared unconfigured (R375), the supervisor core running
(R412). -/
def loaderDue (d : Die) : Bool :=
  d.pwr.up && !d.inReset && fld d Reg.GLB_BOOT_STAT_PHASE < 3 && !bitOf d.straps.toNat 15 && !halted d 17

/-- The first of the banks whose image passes, as it configures the part. -/
def firstGood (d : Die) : List Nat → Option Die
  | [] => none
  | b :: bs =>
    match judgeImage d (bankImage d.boot.flash b) (bankRecord d.boot.flash b).2.2.2 with
    | .ok c => some c
    | .error _ => firstGood d bs

/-- The Parcel whose safety section the supervisor core can hand over (R311, R375): the loaded one, or, from 1 ms on, the one
that the loader is reading (log entry 154). -/
def sectionSource (d : Die) : Option Die :=
  if halted d 17 then none
  else if d.boot.loaded then some d
  else if loaderDue d && !hostDownload d && decide (1000000 ≤ d.tb.gt) then firstGood d (bankOrder d.boot.flash)
  else none

/-- The section of the Parcel is handed to the Sheepdog, when there is one (R311). -/
def sectionHand (l : SectLoad) (g : Dog) (d : Die) : Dog × Die :=
  match sectionSource d with
  | some c => sectionLoad l c g d
  | none => (g, d)

/-- SAFETY_SECTION_LOAD (R311). -/
def execSafetySectionLoad (x : SectLoad) (s : State) : Host.Outcome State Fault Refusal := onDog (sectionHand x) s

/-- LOADER_FINISH (R363, R371, R374, R375). With PROOF = 1 no Parcel is loaded (R360). -/
def loaderEnd (d : Die) : Die :=
  if !loaderDue d then d
  else if hostDownload d then unconfigured d
  else bootFrom d (bankOrder d.boot.flash) none

/-- The bank that a session that begins writes (R372). -/
def sessionBank (d : Die) : Nat :=
  if d.boot.loaded then 1 - d.boot.bank % 2
  else if !committed d.boot.flash 0 && committed d.boot.flash 1 then 0
  else if committed d.boot.flash 0 && !committed d.boot.flash 1 then 1
  else if committed d.boot.flash 0 then 1 else 0

/-- A ball of the boot flash, BCS_N, BSCK, BIO0 to BIO3 in this order (R361, R411): as the boot controller has it, `own`, unless the
boundary register has it. -/
def bootBall (d : Die) (i : Nat) (own : Option Bool) : Option Bool := scanBall d (120 + i) own

/-- The flash goes on with the operations that have not ended, and after them with `ops`, as far as `fl` says (R373). -/
def flashGo (d : Die) (ops : List FlashOp) (fl : FlashRun) : Die :=
  let r := flashAfter d.boot.flash (d.boot.flashOps ++ ops) fl
  updBoot d fun b => { b with flash := r.1, flashOps := r.2 }

/-- A Parcel command has the flash do its operations, one that was running those that are left (R372, R373): then it goes on,
fails with FLASH, or is still running. Without the balls of the flash it fails (R411; log entry 156). -/
def flashDo (d : Die) (c : Cmd) (ops : List FlashOp) (fl : FlashRun) (done : Die → Die) : Die :=
  if scanned d then parcelEnd d c.ticket 1 0xE 0 else
  let d := flashGo d (if c.started then [] else ops) fl
  match fl.ending with
  | .good => done d
  | .fault => parcelEnd d c.ticket 1 0xE 0
  | .running => d

/-- PARCEL_BEGIN (R372, R374): the bank is erased, its record sector first, and its record programmed. -/
def parcelBegin (d : Die) (c : Cmd) (fl : FlashRun) : Die :=
  if flag d Reg.PWR_STAT_VWARN then supplyCut d c.ticket
  else if hostDownload d then complete (updBoot d fun b => { b with buffer := [] }) c.ticket 0 0 0
  else
    let d := if c.started then d else updBoot d fun b => { b with sessBank := sessionBank d }
    let a := d.boot.sessBank * 0x200000
    let gen := if d.boot.loaded then (d.boot.gen + 1) % 2 ^ 32 else 1
    let rec_ := leBytes 4 0x4B4E4247 ++ leBytes 4 gen ++ leBytes 4 d.boot.len ++ leBytes 4 d.boot.crc ++ leBytes 4 0xFFFF ++
      List.replicate 40 0xFF
    flashDo d c [.erase a 0x1000, .erase (a + 0x1000) 0x1FF000, .program a (rec_ ++ leBytes 4 (crc32 rec_))] fl
      fun d => complete d c.ticket 0 0 0

/-- The image bytes written so far in the session (R372). -/
def noteWritten (d : Die) (off n : Nat) : Die := updBoot d fun b => { b with written := b.written ++ [(off, n)] }

/-- PARCEL_DATA (R372, R374). -/
def parcelData (d : Die) (c : Cmd) (fl : FlashRun) : Die :=
  let off := nth c.words 1
  let bs := (c.words.drop 2).flatMap (leBytes 4)
  if flag d Reg.PWR_STAT_VWARN then supplyCut d c.ticket
  else if hostDownload d then
    complete (updBoot (noteWritten d off bs.length) fun b => { b with buffer := flashProgram b.buffer off bs }) c.ticket 0 0 0
  else flashDo d c [.program (d.boot.sessBank * 0x200000 + 0x1000 + off) bs] fl fun d =>
    complete (noteWritten d off bs.length) c.ticket 0 0 0

/-- PARCEL_COMMIT (R372, R374): the checks, then the commit word and its check, or the load at once. -/
def parcelCommit (d : Die) (c : Cmd) (fl : FlashRun) : Die :=
  let host := hostDownload d
  let bank := d.boot.sessBank
  let img := if host then flashRead d.boot.buffer 0 d.boot.len
    else flashRead d.boot.flash (bank * 0x200000 + 0x1000) d.boot.len
  let scrc := leAt img 20 4
  if flag d Reg.PWR_STAT_VWARN then supplyCut d c.ticket
  else if host then
    match loadImage d img d.boot.crc 0 0 true with
    | .ok x => sessionClose (complete x c.ticket 0 0 scrc)
    | .error e => parcelEnd (putBootErr d e 0) c.ticket 0xD e.1 0
  else if scanned d then parcelEnd d c.ticket 1 0xE 0
  else match judgeImage d img d.boot.crc with
    | .error e => parcelEnd (putBootErr d e 0) c.ticket 0xD e.1 0
    | .ok _ =>
      let gen := (bankRecord d.boot.flash bank).2.1
      let word := leBytes 4 0x3C96A55A ++ leBytes 4 (d.boot.crc ^^^ gen ^^^ 0xFFFFFFFF)
      flashDo d c [.program (bank * 0x200000 + 0x40) word] fl fun d => sessionClose (complete d c.ticket 0 0 scrc)

/-- PARCEL_ABORT (R372). -/
def parcelAbort (d : Die) (c : Cmd) : Die := sessionClose (complete d c.ticket 0 0 0)

end Sys2Proof.Machine
end

