-- ==== Sys2Proof/Machine/Commands.lean ====
section
/-! DEFINITION. The commands that host software gives: register writes with rows of their own, the command mailbox, the
serial queues and completions (R344 to R357), PCIe requests (R330, R331, R337) and QSPI frames (R333 to R335). -/

namespace Sys2Proof.Machine

/-- The words of a descriptor (R344): opcode, USER, and the words after word 0. -/
def descOf (op : Nat) (user : BitVec 16) (ws : List Nat) : List Nat :=
  (op + 256 * (4 * (1 + ws.length)) + 65536 * user.toNat) :: ws

/-- The conditions of a command of a serial queue when it starts (R347). A command's own acceptance opened its session or
voided the arm, so those are not asked again. -/
def stillOk (d : Die) (c : Cmd) : Bool :=
  match c.op with
  | 0x20 => flag d Reg.GLB_BOOT_STAT_SESSION
  | 0x21 => parcelCmdOk d 0x21 c.words
  | 0x22 => parcelCmdOk d 0x22 c.words
  | 0x23 => parcelCmdOk d 0x23 c.words
  | 0x40 => proofOk d (nth c.words 1)
  | 0x41 => fuseOk d
  | 0x42 => fuseOk d
  | _ => true

/-- FUSE_ARM (R413): a random non-zero arm code, which the spec leaves open (log entry 2). -/
def fuseArmRun (d : Die) (c : Cmd) : Die :=
  let r := draw d
  let code := r.1.toNat % (2 ^ 32 - 1) + 1
  let d := updBoot (setFlag r.2 Reg.LOG_DBG_ARMED) fun b =>
    { b with armCode := code, armTicket := c.ticket, armUntil := none }
  complete d c.ticket 0 code 0

/-- A command of a serial queue starts, or a running Parcel command goes on (R347, R373), with what the flash does in it. -/
def runSerial (d : Die) (c : Cmd) (fl : FlashRun) : Die :=
  let d := updCmds d (fun x => x.ticket == c.ticket && !x.done) fun x => { x with started := true }
  if !stillOk d c then
    let d := complete d c.ticket 2 0 0
    if 0x20 ≤ c.op ∧ c.op < 0x24 then sessionClose d else d
  else match c.op with
    | 0x20 => parcelBegin d c fl
    | 0x21 => parcelData d c fl
    | 0x22 => parcelCommit d c fl
    | 0x23 => parcelAbort d c
    | 0x40 => proofStart d (nth c.words 1) c.ticket
    | 0x41 => fuseArmRun d c
    | 0x42 => updBoot d fun b => { b with burnTicket := c.ticket }
    | _ => d

/-- The command of a serial queue whose turn it is: the first not done, when it has not started, or is a Parcel command that
waits for the flash (R347, R373). -/
def serialNext (d : Die) (q : Nat) : Option Cmd :=
  match d.host.cmds.find? fun c => c.q == q && !c.done with
  | some c => if c.started && !(0x20 ≤ c.op && c.op < 0x24) then none else some c
  | none => none

/-- COMMAND_START (R347): the next command of a serial queue starts. With none to start, a flash operation that the supply warning
cut off from its command goes on, as far as `fl` says (R373). -/
def startNext (d : Die) (q : Nat) (fl : FlashRun) : Die :=
  if q % 2 = 0 then d else
  let d := settleNops d
  match serialNext d q with
  | some c => settleNops (runSerial d c fl)
  | none => if runningParcel d = 0 then flashGo d [] fl else d

/-- Host software writes a descriptor to the mailbox and then CMD_GO (R344); the writes wait where R339 says so. -/
def send (d : Die) (ws : List Nat) : Die :=
  if !hostUp d then d
  else if writesWait d then
    holdReqs d ((ws.zipIdx.map fun x => .write 0 (Reg.HST_CMD_DESC (x.2 % 16)) 15 x.1) ++ [.write 0 Reg.HST_CMD_GO 15 1])
  else
  let d := forEach ws.zipIdx d fun d x => putReg d (Reg.HST_CMD_DESC (x.2 % 16)) (BitVec.ofNat 32 x.1)
  submit d (descWords d)

/-- The flash does all that is asked of it. -/
def flashWell : FlashRun := ⟨.good, 0, []⟩

/-- A command of a serial queue, submitted, and started when it is accepted and nothing of its queue is before it. -/
def sendSerial (d : Die) (ws : List Nat) (q : Nat) (fl : FlashRun) : Die :=
  let k := fld d Reg.HST_STAT_NEXT
  let x := send d ws
  if fld x Reg.HST_STAT_NEXT != k && (serialNext x q).any (·.ticket == k) then startNext x q fl else x

/-- A completion entry (R353); the phase bit is added where it is written. -/
def cmplEntry (c : Cmd) : List Nat :=
  [c.ticket + 2 ^ 16 * c.status + 2 ^ 24 * c.q, c.op * 256 + 2 ^ 16 * c.user, c.r0, c.r1]

/-- Word 0 of an entry with its PHASE (R353). -/
def withPhase (e : List Nat) (p : Bool) : List Nat := (e.headD 0 + 2 ^ 31 * b2n p) :: e.drop 1

/-- The first own command whose completion its queue's order lets out (R347). -/
def cmplReady (d : Die) : Option Cmd :=
  d.host.cmds.find? fun c => c.done && ((d.host.cmds.find? fun x => x.q == c.q).map (·.ticket)) == some c.ticket

/-- The ring takes an entry: enabled, with room, and the part may write host memory (R330, R354). -/
def ringRoom (d : Die) : Bool :=
  flag d Reg.HST_CRING_CTL_EN && pcieOn d && ringFill d < fld d Reg.HST_CRING_SIZE_SIZE

/-- The address in host memory of entry c of the ring (R354). -/
def ringAddr (d : Die) (c : Nat) : Nat := get64 d Reg.HST_CRING_BASE + c % max 1 (fld d Reg.HST_CRING_SIZE_SIZE) * 16

/-- Write an entry to the ring at TAIL and advance TAIL (R354). -/
def ringPut (d : Die) (e : List Nat) : Die :=
  let c := fld d Reg.HST_CRING_TAIL_TAIL
  let p := c / max 1 (fld d Reg.HST_CRING_SIZE_SIZE) % 2 == 0
  let d := updHost d fun h => { h with ring := sput [] h.ring (ringAddr d c) (withPhase e p) }
  setFld d Reg.HST_CRING_TAIL_TAIL (c + 1)

/-- An entry sets CMPL; its message waits for the end of a hold-off (R356, R357). An INTA that CMPL asserts already covers
the entry. -/
def cmplIrq (d : Die) : Die :=
  let shown := intaLevel d && bitOf (irqPend d) 0 && !d.host.holdPend
  let d := irqSet d 0
  if !cmplCan d || shown then d else cmplMsg d

/-- The completion of the FUSE_ARM whose arm stands starts its 10 s (R413). -/
def noteArm (d : Die) (c : Cmd) : Die :=
  if c.op = 0x41 ∧ c.ticket = d.boot.armTicket ∧ flag d Reg.LOG_DBG_ARMED then
    updBoot d fun b => { b with armUntil := some (d.tb.gt + 10000000000) }
  else d

/-- A member's completion waits as a CMPL record (R279, R282), its ticket outstanding until it is sent (R346). -/
def memberCmpl (d : Die) (c : Cmd) : Die :=
  if 64 ≤ d.trk.recs.length then d else
  let d := updTrk (noteArm d c) fun t =>
    { t with recs := t.recs ++ [leBytes 1 0x84 ++ leBytes 1 16 ++ zeros 2 ++ (cmplEntry c).flatMap (leBytes 4)] }
  updHost d fun h =>
    { h with cmds := h.cmds.filter fun x => x.ticket != c.ticket, delivered := h.delivered ++ [(c.ticket, c.q, false)] }

/-- COMPLETION_WRITE (R347, R352, R354, R355): the part's own entry first, then the oldest of a member. -/
def writeCompletion (d : Die) : Die :=
  let d := settleNops d
  let en := flag d Reg.HST_CRING_CTL_EN
  match cmplReady d with
  | some c =>
    let room := if en then ringRoom d else decide (d.host.fifo.length < 256)
    if isMember d then memberCmpl d c
    else if !room then d
    else
      let d := if en then ringPut d (cmplEntry c)
        else updHost d fun h => { h with fifo := h.fifo ++ [withPhase (cmplEntry c) true] }
      let d := updHost d fun h =>
        { h with cmds := h.cmds.filter fun x => x.ticket != c.ticket, delivered := h.delivered ++ [(c.ticket, c.q, en)] }
      cmplIrq (noteArm d c)
  | none =>
    match d.trk.mcQueue with
    | e :: es =>
      if !ringRoom d then d
      else
        let d := updTrk (ringPut d e) fun t => { t with mcQueue := es }
        cmplIrq (updHost d fun h => { h with delivered := h.delivered ++ [(0, 0, true)] })
    | [] => d

/-- IRQ_HOLDOFF_END (R357). -/
def holdoffEnd (d : Die) : Die :=
  match d.host.holdEnd with
  | none => d
  | some t =>
    let d := toGt d t
    let pend := d.host.holdPend
    let d := updHost d fun h => { h with holdEnd := none, holdPend := false }
    if pend && cmplCan d then cmplMsg d else d

/-- FUSE_BURN_DONE (R413): vendor debug ends at once, and a vendor instruction in the test port acts as BYPASS. -/
def burnDone (d : Die) (blown : Bool) : Die :=
  let t := d.boot.burnTicket
  if t = 0 then d else
  let d := updBoot (complete d t (if blown then 0 else 1) 0 0) fun b => { b with burnTicket := 0, blown := b.blown || blown }
  let d := if blown then setFlag (debugDetach d) Reg.LOG_DBG_DBGOFF else d
  logEvt d 0 7 1 1 (if blown then 0 else 1) 0

/-- FUSE_ARM_EXPIRY (R413). -/
def armExpiry (d : Die) : Die :=
  match d.boot.armUntil with
  | some t => fuseVoid (toGt d t)
  | none => d

/-- No read has an answer yet. -/
def noData (d : Die) : Die := updHost d fun h => { h with rdData := [], rdCpl := [] }

/-- The words of a read that starts at an offset, in completions that end at multiples of 64 bytes (R337). -/
def cplParts : Nat → List Word → List (List Word)
  | _, [] => []
  | off, w :: ws =>
    match cplParts (off + 4) ws with
    | p :: ps => if (off + 4) % 64 = 0 then [w] :: p :: ps else (w :: p) :: ps
    | [] => [[w]]

/-- The host gets the words of a read. -/
def giveData (d : Die) (off : Nat) (ws : List Word) : Die :=
  updHost d fun h => { h with rdData := h.rdData ++ ws, rdCpl := h.rdCpl ++ cplParts off ws }

/-- Reads of consecutive words, each judged alone (R337), byte enables by position: the words, and what the reads change. -/
def readWords (g : Dog) (d : Die) (off : Nat) (bes : List Nat) : List Word × Die :=
  bes.zipIdx.foldl (fun (r : List Word × Die) (x : Nat × Nat) =>
    let a := hostRead g r.2 false (off + 4 * x.2) x.1
    (r.1 ++ [BitVec.ofNat 32 a.1], a.2)) ([], d)

/-- A read of consecutive words is performed and answered. -/
def readAnswer (g : Dog) (d : Die) (off : Nat) (bes : List Nat) : Die :=
  let r := readWords g d off bes
  giveData r.2 off r.1

/-- A domain of one of `n` words from an offset is being switched (R417). -/
def anySwitching (d : Die) (off n : Nat) : Bool := (upto n).any fun i => switching d (off + 4 * i)

/-- A read of consecutive words through the host port (R337, R339, R417): it waits for what is before it, and for a domain that
is being switched. -/
def readSeries (g : Dog) (d : Die) (off : Nat) (bes : List Nat) : Die :=
  if readsWait d || anySwitching d off bes.length then holdReqs (noData d) [.read off bes] else readAnswer g (noData d) off bes

/-- A read through the host port of a whole word, with its side effects; the value is what the host gets. -/
def busRead (g : Dog) (d : Die) (off : Nat) : Die := if hostUp d then readSeries g d off [15] else noData d

/-- Writes of consecutive words, each judged alone (R337). -/
def writeSeries (d : Die) (off : Nat) (xs : List (Nat × Word)) : Die :=
  writeAll d (xs.zipIdx.map fun x => (off + 4 * x.2, x.1.1, x.1.2.toNat))

/-- The byte enables of the dwords of a request (R337). -/
def requestBes (n first last : Nat) : List Nat :=
  (upto n).map fun i => if i = 0 then first else if i + 1 = n then last else 15

/-- The PCIe port is selected and takes requests (R328, R394). -/
def pcieUp (d : Die) : Bool := hostUp d && d.straps.toNat % 4 < 2 && !d.host.perst

/-- PCIE_MEMORY_REQUEST (R337): a read asks for as many words as `data` has. -/
def memRequest (g : Dog) (d : Die) (write : Bool) (off first last : Nat) (data : List Word) : Die :=
  if !pcieUp d then noData d else
  let bes := requestBes data.length first last
  if write then writeSeries d off (bes.zip data) else readSeries g d off bes

/-- The bits of a configuration dword that host software writes (R330; log entry 13): command, BAR0 of 1 MiB, BAR2 of
64 MiB on a cluster lead, interrupt line; then MSI with a 64-bit address, MSI-X, the device controls, and
the masks and severity of AER. -/
def cfgMask (d : Die) (i : Nat) : Nat :=
  if i = 1 then 0x546
  else if i = 4 then 0xFFF00000
  else if i = 6 then (if isLead d then 0xFC000000 else 0)
  else if i = 15 then 0xFF
  else if i < 16 then 0
  else if i = Config.pcieCap 1 then 2 ^ 16
  else if i = Config.pcieCap 1 + 1 then 0xFFFFFFFC
  else if i = Config.pcieCap 1 + 2 then 0xFFFFFFFF
  else if i = Config.pcieCap 1 + 3 then 0xFFFF
  else if i = Config.pcieCap 2 then 0xC0000000
  else if i = Config.pcieCap 3 + 2 then 0xEF
  else if i = Config.pcieCap 3 + 10 then 0x1F
  else if i = Config.pcieCap 4 + 2 ∨ i = Config.pcieCap 4 + 3 ∨ i = Config.pcieCap 4 + 5 then 0xFFFFFFFF
  else 0

/-- What a write of a configuration dword does beside its store (R330; log entry 13). Only the states D0 and D3hot are
there; the MSI-X messages that waited go out when the function mask falls. -/
def cfgHook (d : Die) (i x : Nat) : Die :=
  if i = 1 then updHost d fun h => { h with bme := bitOf x 2, intxDis := bitOf x 10 }
  else if i < 16 then d
  else if i = Config.pcieCap 0 + 1 then
    updHost d fun h => { h with pmD3 := if x % 4 = 3 then true else if x % 4 = 0 then false else h.pmD3 }
  else if i = Config.pcieCap 1 then updHost d fun h => { h with msiEn := bitOf x 16 }
  else if i = Config.pcieCap 2 then
    let d := updHost d fun h => { h with msixEn := bitOf x 31, msixMask := bitOf x 30 }
    if bitOf x 30 && bitOf x 31 then d
    else updHost (irqSend d d.host.msixWait) fun h => { h with msixWait := [] }
  else d

/-- The bits of a configuration dword that R330 fixes, and their values (log entry 13). The header: identifiers, a capability
list, the class, type 0 with one function, no BAR but BAR0 and BAR2, no expansion ROM, pin INTA. The capabilities: their
identifiers; D0 and D3hot alone; MSI with one vector, MSI-X with 16; an endpoint with payloads of up to 256 bytes, 5.0 GT/s,
the width of HOSTSEL (R328) and no ASPM; AER without ECRC. -/
def cfgFixed (d : Die) (i : Nat) : Nat × Nat :=
  let all := 2 ^ 32 - 1
  let cap := Config.pcieCap
  if i = 0 then (all, Config.pciVendorId.toNat + 65536 * 0x7128)
  else if i = 1 then (2 ^ 20, 2 ^ 20)
  else if i = 2 then (all - 255, 256 * 0x118000)
  else if i = 3 then (0xFF0000, 0)
  else if (4 ≤ i ∧ i < 11) ∨ i = 12 then (all, 0)
  else if i = 11 then (all, d.boot.subsys)
  else if i = 15 then (0xFF00, 0x100)
  else if i < 16 then (0, 0)
  else if i = cap 0 then (0x60000FF, 1)
  else if i = cap 0 + 1 then (3, if d.host.pmD3 then 3 else 0)
  else if i = cap 1 then (0x8E00FF, 0x800005)
  else if i = cap 2 then (0x7FF00FF, 0xF0011)
  else if i = cap 3 then (0xF000FF, 0x10)
  else if i = cap 3 + 1 then (7, 1)
  else if i = cap 3 + 3 then (0xFFF, 2 + 16 * (if d.straps.toNat % 4 = 0 then 2 else 1))
  else if i = cap 4 then (0xFFFF, 1)
  else if i = cap 4 + 6 then (0x1E0, 0)
  else (0, 0)

/-- A configuration dword as it reads (R330): what the spec fixes, what was written, and a free value in every bit to which
it gives no content (log entry 13). -/
def cfgRead (d : Die) (i : Nat) : Word × Die :=
  let r := draw d
  let f := cfgFixed d i
  let w := cfgMask d i
  let x := r.1.toNat % 2 ^ 32
  let m := w ||| f.1
  (BitVec.ofNat 32 ((x - (x &&& m)) + ((((sget 0 d.host.cfg i).toNat &&& w) ||| f.2))), r.2)

/-- PCIE_CONFIG_REQUEST (R330, R331, R375, R394): retry status until the endpoint is ready, shown as no data. -/
def cfgRequest (d : Die) (i : Nat) (write : Option Word) : Die :=
  let d := noData d
  if !pcieUp d || d.tb.gt < d.host.cfgReady then d
  else match write with
    | none =>
      let r := cfgRead d i
      updHost r.2 fun h => { h with rdData := [r.1] }
    | some v =>
      let x := v.toNat &&& cfgMask d i
      cfgHook (updHost d fun h => { h with cfg := sput 0 h.cfg i (BitVec.ofNat 32 x) }) i v.toNat

/-- PERST (R375, R394): with the link go the accesses that waited on it; after its rise configuration requests are retried for
1 ms, and until 20 ms after the start in any case. -/
def perstPin (d : Die) (low : Bool) : Die :=
  if low then
    let d := updTrk (setFld d Reg.HST_CRING_CTL_EN 0) fun t => { t with held := [] }
    updHost d fun h =>
      { h with cfg := [], bme := false, pmD3 := false, msiEn := false, msixEn := false, msixMask := false, msixWait := [],
               intxDis := false, perst := true, delivered := h.delivered.filter fun x => !x.2.2 }
  else if d.host.perst then updHost d fun h => { h with perst := false, cfgReady := max 20000000 (d.tb.gt + 1000000) }
  else d

/-- A QSPI frame fault (R335). -/
def spiFault (d : Die) (f : Fld) : Die := incReg (setFlag d f) Reg.HST_CNT_SPIERR

/-- The header of a QSPI frame is good, else the fault it has, the first row that holds of what was sent (R15, R335): a bad
field, a bad CRC, a header cut short. -/
def spiHeader (b : List Byte) : Option Fld :=
  if bitsOf (leAt b 0 1) 4 3 ≠ 0 ∨ 16 ≤ leAt b 3 1 then some Reg.HST_SPI_ERR_CMD
  else if b.length < 5 then some Reg.HST_SPI_ERR_FRAG
  else if leAt b 4 1 ≠ crc07 (b.take 4) then some Reg.HST_SPI_ERR_HCRC
  else none

/-- The QSPI port is selected and takes frames, from 0.5 ms after the start (R328, R375). -/
def qspiUp (d : Die) : Bool := hostUp d && d.straps.toNat % 4 == 2 && (d.boot.loaded || decide (500000 ≤ d.tb.gt))

/-- A write frame with a good header (R333 to R335): its words are written once DCRC has passed. `held` is how many write
frames the part holds, one of them being performed. -/
def qspiWrite (d : Die) (b : List Byte) (held : Nat) (stop : QspiEnd) : Die :=
  let n := leAt b 0 1 % 16 + 1
  if b.length < 6 + 4 * n ∨ stop = .early then spiFault d Reg.HST_SPI_ERR_FRAG
  else if leAt b (5 + 4 * n) 1 ≠ crc07 (slice b 5 (4 * n)) then spiFault d Reg.HST_SPI_ERR_DCRC
  else if 2 ≤ held then spiFault d Reg.HST_SPI_ERR_OVR
  else
    let ws := (upto n).map fun i => (15, (BitVec.ofNat 32 (leAt b (5 + 4 * i) 4) : Word))
    let d := writeSeries d (leAt b 1 3) ws
    if stop = .extra ∨ 6 + 4 * n < b.length then spiFault d Reg.HST_SPI_ERR_EXTRA else d

/-- What the part drives for a read (R333): READY, the words, the CRC over both. -/
def spiAnswer (ws : List Word) : List Byte :=
  let b := leBytes 1 0xA5 ++ ws.flatMap fun w => leBytes 4 w.toNat
  b ++ leBytes 1 (crc07 b)

/-- One word that a QSPI frame reads: an offset of 0x10_0000 or above is rejected with code RSVD (R418). -/
def spiWord (g : Dog) (d : Die) (off : Nat) : Nat × Die :=
  if off % 4 = 0 ∧ 2 ^ 20 ≤ off then (0, reject d off true 3) else hostRead g d false off 15

/-- What the part drives on HIO0 to HIO3 for a read frame (R333): nothing while the boundary register has the balls (R411). -/
def hioOut (d : Die) (bs : List Byte) : List Byte := if scanned d then [] else bs

/-- What the part does with the ball HIOi (R333, R411): it drives `bit`, its bit of the byte sent now, while it answers. -/
def hioBall (d : Die) (i : Nat) (bit : Bool) : Option Bool :=
  scanBall d (115 + i) (if d.host.spiOut.isEmpty then none else some bit)

/-- The words of a read frame, each judged alone, and what the part drives for them (R333, R418). -/
def spiWords (g : Dog) (d : Die) (off n : Nat) : Die :=
  let r := (upto n).foldl (fun (r : List Word × Die) (i : Nat) =>
    let a := spiWord g r.2 (off + 4 * i)
    (r.1 ++ [BitVec.ofNat 32 a.1], a.2)) ([], d)
  updHost r.2 fun h => { h with rdData := r.1, spiOut := hioOut d (spiAnswer r.1) }

/-- A read frame with a good header (R333 to R335): the part drives WAIT bytes while the access must wait. -/
def qspiRead (g : Dog) (d : Die) (b : List Byte) (stop : QspiEnd) : Die :=
  if stop = .early then spiFault d Reg.HST_SPI_ERR_FRAG
  else
    let off := leAt b 1 3
    let n := leAt b 0 1 % 16 + 1
    let d := if readsWait d || anySwitching d off n then holdReqs d [.spi off n] else spiWords g d off n
    if stop = .extra then spiFault d Reg.HST_SPI_ERR_EXTRA else d

/-- A QSPI frame (R333 to R335): bit 7 of its first byte makes it a read. A read with a bad field or a bad CRC in its header
gets 0xFF bytes. -/
def qspiFrame (g : Dog) (d : Die) (b : List Byte) (held : Nat) (stop : QspiEnd) : Die :=
  if !qspiUp d then d else
  let d := updHost (noData d) fun h => { h with spiOut := [] }
  let rd := bitOf (leAt b 0 1) 7
  let n := leAt b 0 1 % 16 + 1
  match spiHeader b with
  | some f =>
    let d := spiFault d f
    if rd && f != Reg.HST_SPI_ERR_FRAG then
      updHost d fun h => { h with rdData := List.replicate n 0xFFFFFFFF, spiOut := hioOut d (List.replicate (4 * n + 2) 0xFF) }
    else d
  | none => if rd then qspiRead g d b stop else qspiWrite d b held stop

/-- Two whole-word writes of a 64-bit register, low word first (R32, R337). -/
def busWrite64 (off : Nat) (v : QWord) (d : Die) : Die :=
  busWrite (off + 4) (v.toNat / 2 ^ 32) (busWrite off (v.toNat % 2 ^ 32) d)

/-- A software trigger whose write completes at a GT (R174). -/
def softTrigger (d : Die) (mask t : Nat) : Die := busWrite Reg.CAP_SWTRIG mask (toGt d t)

/-- BEAT_NUM_READ (R24). -/
def execBeatNumRead (s : State) : Host.Outcome State Fault Refusal := onDieDog (fun g d => busRead g d Reg.BEAT_NUM) s

/-- LOW_WORD_READ (R338). -/
def execLowWordRead (off : BitVec 20) (s : State) : Host.Outcome State Fault Refusal :=
  onDieDog (fun g d => busRead g d off.toNat) s

/-- BEAT_MARGIN_WRITE (R38). -/
def execBeatMarginWrite (v : Word) (s : State) : Host.Outcome State Fault Refusal :=
  onDie (busWrite Reg.BEAT_MARGIN v.toNat) s

/-- PAWPRINT_CTL_WRITE (R166). -/
def execPawprintCtlWrite (v : Word) (s : State) : Host.Outcome State Fault Refusal :=
  onDie (busWrite Reg.KNL_PP_CTL v.toNat) s

/-- AXIS_REQ_WRITE (R123): a write of AX_CTL with CLR at 0. -/
def execAxisReqWrite (a : Fin 128) (req : BitVec 2) (s : State) : Host.Outcome State Fault Refusal :=
  onDie (busWrite (Reg.AX_CTL a.val) req.toNat) s

/-- AXIS_CLR (R123): REQ as it stands. -/
def execAxisClr (a : Fin 128) (s : State) : Host.Outcome State Fault Refusal :=
  onDie (fun d => busWrite (Reg.AX_CTL a.val) (fld d (Reg.AX_CTL_REQ a.val) + 4) d) s

/-- TRACKER_RESTART (R114): FREEZE as it stands. -/
def execTrackerRestart (a : Fin 128) (s : State) : Host.Outcome State Fault Refusal :=
  onDie (fun d => busWrite (Reg.AX_TRK_CTL a.val) (fld d (Reg.AX_TRK_CTL_FREEZE a.val) + 2) d) s

/-- NA_FREQ_WRITE (R118). -/
def execNaFreqWrite (a : Fin 128) (v : Word) (s : State) : Host.Outcome State Fault Refusal :=
  onDie (busWrite (Reg.AX_NA_FREQ a.val) v.toNat) s

/-- ACK (R136). -/
def execAck (s : State) : Host.Outcome State Fault Refusal := onDie (busWrite Reg.MST_CTL 1) s

/-- LS_MODE_WRITE (R138): the other stored fields of AX_LS_CTL as they stand. -/
def execLsModeWrite (a : Fin 128) (mode : BitVec 2) (s : State) : Host.Outcome State Fault Refusal :=
  onDie (fun d => busWrite (Reg.AX_LS_CTL a.val) (bitsOf (getReg d (Reg.AX_LS_CTL a.val)).toNat 2 2 * 4 + mode.toNat) d) s

/-- TRIMCLR (R141). -/
def execTrimclr (a : Fin 128) (s : State) : Host.Outcome State Fault Refusal :=
  onDie (fun d => busWrite (Reg.AX_LS_CTL a.val) (bitsOf (getReg d (Reg.AX_LS_CTL a.val)).toNat 0 4 + 16) d) s

/-- SOFTWARE_TRIGGER (R174). -/
def execSoftwareTrigger (mask : BitVec 16) (t : QWord) (s : State) : Host.Outcome State Fault Refusal :=
  onDie (softTrigger · mask.toNat t.toNat) s

/-- ARM (R178). -/
def execArm (c : Fin 16) (single : Bool) (s : State) : Host.Outcome State Fault Refusal :=
  onDie (busWrite (Reg.CAP_CH_CTL c.val) (1 + 4 * b2n single)) s

/-- DISARM (R178). -/
def execDisarm (c : Fin 16) (s : State) : Host.Outcome State Fault Refusal := onDie (busWrite (Reg.CAP_CH_CTL c.val) 2) s

/-- FREESEQ_WRITE (R189). -/
def execFreeseqWrite (c : Fin 16) (v : Word) (s : State) : Host.Outcome State Fault Refusal :=
  onDie (busWrite (Reg.CAP_CH_FREESEQ c.val) v.toNat) s

/-- STP_STOP (R201). -/
def execStpStop (n : Fin 32) (s : State) : Host.Outcome State Fault Refusal := onDie (busWrite (Reg.STP_CTL n.val) 1) s

/-- GROUP_STOP (R201). -/
def execGroupStop (g : Fin 8) (s : State) : Host.Outcome State Fault Refusal := onDie (busWrite (Reg.STP_GRP_CTL g.val) 1) s

/-- STEP_MODE_WRITE (R196). -/
def execStepModeWrite (n : Fin 32) (v : Word) (s : State) : Host.Outcome State Fault Refusal :=
  onDie (busWrite (Reg.STP_MODE n.val) v.toNat) s

/-- STEP_VEL_WRITE (R196). -/
def execStepVelWrite (n : Fin 32) (v : QWord) (s : State) : Host.Outcome State Fault Refusal :=
  onDie (busWrite64 (Reg.STP_VEL n.val) v) s

/-- STEP_POS_WRITE (R202). -/
def execStepPosWrite (n : Fin 32) (v : QWord) (s : State) : Host.Outcome State Fault Refusal :=
  onDie (busWrite64 (Reg.STP_POS n.val) v) s

/-- SCHED_WRITE (R215). -/
def execSchedWrite (seg : Fin 4) (v : Word) (s : State) : Host.Outcome State Fault Refusal :=
  onDie (busWrite (Reg.LSH_SCHED seg.val) v.toNat) s

/-- CAN_REQ_OFF (R320). -/
def execCanReqOff (n : Fin 4) (s : State) : Host.Outcome State Fault Refusal := onDie (busWrite (Reg.CAN_CTL n.val) 0) s

/-- CAN_REQ_NORMAL (R320). -/
def execCanReqNormal (n : Fin 4) (s : State) : Host.Outcome State Fault Refusal := onDie (busWrite (Reg.CAN_CTL n.val) 1) s

/-- CAN_REQ_RESTRICTED (R320). -/
def execCanReqRestricted (n : Fin 4) (s : State) : Host.Outcome State Fault Refusal :=
  onDie (busWrite (Reg.CAN_CTL n.val) 2) s

/-- CAN_RECOVER (R320). -/
def execCanRecover (n : Fin 4) (s : State) : Host.Outcome State Fault Refusal := onDie (busWrite (Reg.CAN_CTL n.val) 4) s

/-- CAN_BIT_TIMING_WRITE (R318). -/
def execCanBitTimingWrite (n : Fin 4) (data : Bool) (v : Word) (s : State) : Host.Outcome State Fault Refusal :=
  onDie (busWrite (if data then Reg.CAN_DBT n.val else Reg.CAN_NBT n.val) v.toNat) s

/-- TXB_REQ (R323). -/
def execTxbReq (n : Fin 4) (b : Fin 3) (oneshot : Bool) (s : State) : Host.Outcome State Fault Refusal :=
  onDie (busWrite (Reg.TXB_CTL n.val b.val) (1 + 4 * b2n oneshot)) s

/-- TXB_ABORT (R325). -/
def execTxbAbort (n : Fin 4) (b : Fin 3) (s : State) : Host.Outcome State Fault Refusal :=
  onDie (busWrite (Reg.TXB_CTL n.val b.val) 2) s

/-- RXF_POP (R326). -/
def execRxfPop (n : Fin 4) (s : State) : Host.Outcome State Fault Refusal := onDie (busWrite (Reg.CAN_RXF_POP n.val) 1) s

/-- REGISTER_WRITE (R340). -/
def execRegisterWrite (off : BitVec 20) (be : BitVec 4) (v : Word) (s : State) : Host.Outcome State Fault Refusal :=
  onDie (busWriteBe off.toNat be.toNat v.toNat) s

/-- PCIE_MEMORY_REQUEST (R337). -/
def execPcieMemoryRequest (write : Bool) (off : BitVec 20) (firstBe lastBe : BitVec 4) (data : List Word) (s : State) :
    Host.Outcome State Fault Refusal :=
  onDieDog (fun g d => memRequest g d write off.toNat firstBe.toNat lastBe.toNat data) s

/-- PCIE_CONFIG_REQUEST (R331). -/
def execPcieConfigRequest (dword : Fin 1024) (write : Option Word) (s : State) : Host.Outcome State Fault Refusal :=
  onDie (cfgRequest · dword.val write) s

/-- QSPI_WRITE_FRAME (R334). -/
def execQspiWriteFrame (bytes : List Byte) (e : QspiWriteEnd) (s : State) : Host.Outcome State Fault Refusal :=
  onDieDog (fun g d => qspiFrame g d bytes e.held.val e.clocks) s

/-- QSPI_READ_FRAME (R334). -/
def execQspiReadFrame (bytes : List Byte) (clocks : QspiEnd) (s : State) : Host.Outcome State Fault Refusal :=
  onDieDog (fun g d => qspiFrame g d bytes 0 clocks) s

/-- COMMAND_START (R347). -/
def execCommandStart (q : Fin 4) (flash : FlashRun) (s : State) : Host.Outcome State Fault Refusal :=
  onDie (startNext · q.val flash) s

/-- COMPLETION_WRITE (R354). -/
def execCompletionWrite (s : State) : Host.Outcome State Fault Refusal := onDie writeCompletion s

/-- NOP_COMMAND (R348). -/
def execNopCommand (q : Fin 4) (user : BitVec 16) (s : State) : Host.Outcome State Fault Refusal :=
  onDie (send · (descOf 0x01 user [q.val])) s

/-- HOME (R146). -/
def execHome (a : Fin 128) (user : BitVec 16) (s : State) : Host.Outcome State Fault Refusal :=
  onDie (send · (descOf 0x10 user [a.val])) s

/-- SHED_CLEAR (R49). -/
def execShedClear (user : BitVec 16) (s : State) : Host.Outcome State Fault Refusal := onDie (send · (descOf 0x11 user [])) s

/-- STEP_MOVE (R198). -/
def execStepMove (g : Fin 8) (d : List Word) (user : BitVec 16) (s : State) : Host.Outcome State Fault Refusal :=
  onDie (send · (descOf 0x12 user (g.val :: d.map (·.toNat)))) s

/-- STEP_HOME (R200). -/
def execStepHome (n : Fin 32) (user : BitVec 16) (s : State) : Host.Outcome State Fault Refusal :=
  onDie (send · (descOf 0x13 user [n.val])) s

/-- LEASH_MBX (R227): data in whole words, the last filled with zero bytes. -/
def execLeashMbx (seg : Fin 4) (node : Fin 32) (code : BitVec 16) (data : List Byte) (user : BitVec 16) (s : State) :
    Host.Outcome State Fault Refusal :=
  onDie (send · (descOf 0x30 user ((seg.val + 4 * node.val + 65536 * code.toNat) ::
    (upto (cdiv data.length 4)).map fun i => leAt data (4 * i) 4))) s

/-- LEASH_READMIT (R225). -/
def execLeashReadmit (seg : Fin 4) (node : Fin 32) (user : BitVec 16) (s : State) : Host.Outcome State Fault Refusal :=
  onDie (send · (descOf 0x32 user [seg.val + 4 * node.val])) s

/-- LEASH_SWITCHBACK (R245). -/
def execLeashSwitchback (seg : Fin 4) (user : BitVec 16) (s : State) : Host.Outcome State Fault Refusal :=
  onDie (send · (descOf 0x31 user [seg.val])) s

/-- LEASH_PROOF (R246). -/
def execLeashProof (seg : Fin 4) (user : BitVec 16) (s : State) : Host.Outcome State Fault Refusal :=
  onDie (sendSerial · (descOf 0x40 user [seg.val]) 3 flashWell) s

/-- TRUNK_STOP (R275). -/
def execTrunkStop (all : Bool) (user : BitVec 16) (s : State) : Host.Outcome State Fault Refusal :=
  onDie (send · (descOf 0x33 user [b2n all])) s

/-- TRUNK_START (R275). -/
def execTrunkStart (user : BitVec 16) (s : State) : Host.Outcome State Fault Refusal :=
  onDie (send · (descOf 0x34 user [])) s

/-- RUN_JOB (R351). -/
def execRunJob (index : BitVec 10) (param : Word) (user : BitVec 16) (s : State) : Host.Outcome State Fault Refusal :=
  onDie (send · (descOf 0x50 user [index.toNat, param.toNat])) s

/-- PARCEL_BEGIN (R372). -/
def execParcelBegin (len crc : Word) (user : BitVec 16) (flash : FlashRun) (s : State) :
    Host.Outcome State Fault Refusal :=
  onDie (sendSerial · (descOf 0x20 user [len.toNat, crc.toNat]) 1 flash) s

/-- PARCEL_DATA (R372). -/
def execParcelData (off : Word) (data : List Word) (user : BitVec 16) (flash : FlashRun) (s : State) :
    Host.Outcome State Fault Refusal :=
  onDie (sendSerial · (descOf 0x21 user (off.toNat :: data.map (·.toNat))) 1 flash) s

/-- PARCEL_COMMIT (R372). -/
def execParcelCommit (user : BitVec 16) (flash : FlashRun) (s : State) : Host.Outcome State Fault Refusal :=
  onDie (sendSerial · (descOf 0x22 user []) 1 flash) s

/-- PARCEL_ABORT (R372). -/
def execParcelAbort (user : BitVec 16) (s : State) : Host.Outcome State Fault Refusal :=
  onDie (sendSerial · (descOf 0x23 user []) 1 flashWell) s

/-- FUSE_ARM (R413). -/
def execFuseArm (fuse : BitVec 8) (user : BitVec 16) (s : State) : Host.Outcome State Fault Refusal :=
  onDie (sendSerial · (descOf 0x41 user [fuse.toNat]) 3 flashWell) s

/-- FUSE_BURN (R413). -/
def execFuseBurn (fuse : BitVec 8) (code : Word) (user : BitVec 16) (s : State) : Host.Outcome State Fault Refusal :=
  onDie (sendSerial · (descOf 0x42 user [fuse.toNat, code.toNat]) 3 flashWell) s

/-- FUSE_BURN_DONE (R413). -/
def execFuseBurnDone (blown : Bool) (s : State) : Host.Outcome State Fault Refusal := onDie (burnDone · blown) s

/-- FUSE_ARM_EXPIRY (R413). -/
def execFuseArmExpiry (s : State) : Host.Outcome State Fault Refusal := onDie armExpiry s

/-- RING_HEAD_WRITE (R354). -/
def execRingHeadWrite (v : Word) (s : State) : Host.Outcome State Fault Refusal :=
  onDie (busWrite Reg.HST_CRING_HEAD v.toNat) s

/-- RING_ENABLE_WRITE (R354). -/
def execRingEnableWrite (en : Bool) (s : State) : Host.Outcome State Fault Refusal :=
  onDie (busWrite Reg.HST_CRING_CTL (b2n en)) s

/-- HST_CFIFO_POP (R355). -/
def execHstCfifoPop (s : State) : Host.Outcome State Fault Refusal := onDie (busWrite Reg.HST_CFIFO_POP 1) s

/-- RESPONSE_SELECT (R350). -/
def execResponseSelect (ticket : BitVec 16) (s : State) : Host.Outcome State Fault Refusal :=
  onDie (busWrite Reg.HST_RSP_SEL ticket.toNat) s

/-- VERSION_SELECT (R343). -/
def execVersionSelect (v : Word) (s : State) : Host.Outcome State Fault Refusal :=
  onDie (busWrite Reg.HST_VER_SEL v.toNat) s

/-- LOCK (R342). -/
def execLock (s : State) : Host.Outcome State Fault Refusal := onDie (busWrite Reg.HST_LOCK 1) s

/-- IRQ_HOLDOFF_END (R357). -/
def execIrqHoldoffEnd (s : State) : Host.Outcome State Fault Refusal := onDie holdoffEnd s

/-- PERST (R394). -/
def execPerst (low : Bool) (s : State) : Host.Outcome State Fault Refusal := onDie (perstPin · low) s

/-- DOZE_REQUEST (R386). -/
def execDozeRequest (s : State) : Host.Outcome State Fault Refusal := onDie (busWrite Reg.PWR_CTL 1) s

/-- RUN_REQUEST (R387). -/
def execRunRequest (s : State) : Host.Outcome State Fault Refusal := onDie (busWrite Reg.PWR_CTL 0) s

/-- HIBERNATE_REQUEST (R388). -/
def execHibernateRequest (key : BitVec 16) (s : State) : Host.Outcome State Fault Refusal :=
  onDie (busWrite Reg.PWR_CTL (2 + 65536 * key.toNat)) s

/-- VINMIN_WRITE (R378). -/
def execVinminWrite (v : Word) (s : State) : Host.Outcome State Fault Refusal := onDie (busWrite Reg.PWR_VINMIN v.toNat) s

/-- TJ_PEAK_WRITE (R402). -/
def execTjPeakWrite (v : Word) (s : State) : Host.Outcome State Fault Refusal := onDie (busWrite Reg.PWR_TJ v.toNat) s

/-- FREEZE (R407). -/
def execFreeze (s : State) : Host.Outcome State Fault Refusal := onDie (busWrite Reg.LOG_CMD 1) s

/-- THAW (R407). -/
def execThaw (s : State) : Host.Outcome State Fault Refusal := onDie (busWrite Reg.LOG_CMD 2) s

/-- LOG_RD_IDX_WRITE (R403). -/
def execLogRdIdxWrite (idx : BitVec 12) (s : State) : Host.Outcome State Fault Refusal :=
  onDie (busWrite Reg.LOG_RD_IDX idx.toNat) s

end Sys2Proof.Machine
end

