-- ==== Sys2Proof/Machine/Cluster.lean ====
section
/-! DEFINITION. Host transactions in cluster mode (R278 to R286) and the status frames of the trunk. -/

namespace Sys2Proof.Machine

/-- Change what the lead keeps of a member. -/
def updMember (d : Die) (n : Nat) (f : Member → Member) : Die :=
  updTrk d fun t => { t with members := sput member0 t.members n (f (memberH d n)) }

/-- A dead letter (R286): REASON, TAG, MEMBER, ADDR, DATA. -/
def deadLetter (d : Die) (reason tag m addr data : Nat) : Die :=
  if 256 ≤ d.trk.dlq.length then incReg d (Reg.CTR_CNT 9)
  else
    let d := updTrk d fun t => { t with dlq := t.dlq ++ [[0x82 + 256 * reason + 65536 * tag, m, addr, data]] }
    setFlag d Reg.CTR_STAT_DL

/-- The lead accepts a posted write to a member (R280, R285). -/
def acceptPosted (d : Die) (n addr data : Nat) : Die :=
  let tag := fld d Reg.CTR_WTAG_TAG
  if !(memberNodes d).contains n || (memberH d n).lost then deadLetter d 0xFF tag n addr data
  else updMember d n fun m =>
    { m with writes := m.writes ++ [⟨m.next, addr, data, tag, none, false⟩], next := (m.next + 1) % 65536 }

/-- A read of a member starts (R280): it takes the PSEQ that the next write would take. A window of no member reads 0. -/
def startRead (d : Die) (n off be : Nat) : Die :=
  if !(memberNodes d).contains n then giveData d off [0]
  else
    let rid := (d.trk.rid + 1) % 65536
    updTrk d fun t => { t with read := some (n, (memberH d n).next, rid, off + 2 ^ 20 * be, d.tb.gt), rid := rid }

/-- An access that waited takes its effect: window 0 reaches the lead itself (R278). A write with no byte enable makes no
access (R336). -/
def takeReq (g : Dog) (d : Die) : HostReq → Die
  | .write n off be v =>
    if n = 0 then hostWrite d off be v
    else if be = 0 then d
    else acceptPosted d n (off + 2 ^ 20 * be) v
  | .read off bes => readAnswer g d off bes
  | .spi off n => spiWords g d off n
  | .member n off be => startRead d n off be

/-- The first access must wait on: for a member's read, for a domain that is being switched, or, a write, for room (R280, R339,
R417). -/
def reqWaits (d : Die) : HostReq → Bool
  | .write n off _ _ => d.trk.read.isSome || creditOut d || (n == 0 && switching d off)
  | .read off bes => d.trk.read.isSome || anySwitching d off bes.length
  | .spi off n => anySwitching d off n
  | .member _ _ _ => d.trk.read.isSome

/-- What waits goes on, in order (R280, R339). -/
def drainHeld (g : Dog) : Nat → Die → Die
  | 0, d => d
  | fuel + 1, d =>
    match d.trk.held with
    | [] => d
    | x :: xs => if reqWaits d x then d else drainHeld g fuel (takeReq g (updTrk d fun t => { t with held := xs }) x)

/-- Let every access go on that can. -/
def drain (g : Dog) (d : Die) : Die := drainHeld g d.trk.held.length d

/-- BAR2 is there: a cluster lead with the PCIe port (R329, R330). -/
def bar2Up (d : Die) : Bool := pcieUp d && isLead d

/-- BAR2_POSTED_WRITE (R278, R280, R339). -/
def postedWrite (g : Dog) (d : Die) (n off be v : Nat) : Die :=
  if bar2Up d then drain g (holdReqs d [.write n off be v]) else d

/-- BAR2_READ (R278, R280, R339): one member read is outstanding at a time; every later access waits for it. -/
def bar2ReadReq (g : Dog) (d : Die) (n off be : Nat) : Die :=
  if !bar2Up d then d
  else drain g (holdReqs (noData d) [if n = 0 then .read off [be] else .member n off be])

/-- The pending member read ends with a value (R283, R284). -/
def readDone (g : Dog) (d : Die) (v : Nat) : Die :=
  drain g (giveData (updTrk (noData d) fun t => { t with read := none }) 0 [BitVec.ofNat 32 v])

/-- MEMBER_READ_TIMEOUT (R284). -/
def readTimeout (g : Dog) (d : Die) : Die :=
  match d.trk.read with
  | none => d
  | some (n, _, _, addr, at_) =>
    let d := toGt d (at_ + 40000)
    let d := logEvt (incReg (setFlag d Reg.CTR_STAT_RDTO) (Reg.CTR_CNT 10)) 6 2 1 n addr 0
    readDone g d 0xFFFFFFFF

/-- The instant at which a frame of a slot is received and checked at a node, ns (R259). -/
def checkedAt (d : Die) (slot n : Nat) : Nat :=
  slotGt d (cycleFirst d) slot + fld d (Reg.CTR_NODE_PD n) + (2048 * slLen d slot + 400) / 10

/-- A RESET starts the numbers of a member's writes, and of a read to it, at 0 (R280, R281). -/
def renumber (d : Die) (n : Nat) : Die :=
  let m := memberH d n
  let first := ((m.writes.head?).map (·.pseq)).getD m.next
  let d := updMember d n fun m =>
    { m with resetDue := false, next := m.writes.length,
             writes := m.writes.zipIdx.map fun x => { x.1 with pseq := x.2, sent := none } }
  updTrk d fun t => { t with read := t.read.map fun r =>
    if r.1 = n then (r.1, (r.2.1 + 65536 - first) % 65536, r.2.2) else r }

/-- An HREQ frame of a slot at an instant names a node (R261). -/
def noteHreq (d : Die) (at_ n : Nat) : Die := updTrk d fun t => { t with hreqNode := n, hreqs := ((at_, n) :: t.hreqs).take 4 }

/-- Who is entitled to the HRSP slot in which a frame was sent: the node that the HREQ before it names (R261, R265). -/
def hrspOwner (d : Die) (f : TrunkFrame) : Nat :=
  match d.trk.hreqs.find? fun x => x.1 < sentAt d f with
  | some x => x.2
  | none => d.trk.hreqNode

/-- Records that fit in `room` bytes, in order, stopping at the first that does not (R281, R282). -/
def fitRecs {α : Type} (size : α → Nat) : Nat → List α → List α
  | _, [] => []
  | room, x :: xs => if size x ≤ room then x :: fitRecs size (room - size x) xs else []

/-- A record of an HREQ frame: RESET of a member, a write of a member, the read. -/
inductive HReq where
  | reset (n : Nat)
  | write (n : Nat) (w : MWrite)
  | read (n pseq rid addr : Nat)
  deriving DecidableEq, Repr

/-- Bytes of a record (R279). -/
def hreqBytes : HReq → List Byte
  | .reset n => leBytes 1 3 ++ leBytes 1 n ++ zeros 2
  | .write n w =>
    leBytes 1 1 ++ leBytes 1 n ++ leBytes 2 w.pseq ++ leBytes 2 w.tag ++ zeros 2 ++ leBytes 4 w.addr ++ leBytes 4 w.data
  | .read n p r a => leBytes 1 2 ++ leBytes 1 n ++ leBytes 2 p ++ leBytes 2 r ++ zeros 2 ++ leBytes 4 a

/-- Members in round robin after `rr`. -/
def robin (d : Die) (rr : Nat) : List Nat :=
  let ns := memberNodes d
  ns.filter (rr < ·) ++ ns.filter (· ≤ rr)

/-- The records due in an HREQ frame, in the order of R281. -/
def hreqDue (d : Die) (resets : List Nat) : List HReq :=
  let own := match d.trk.read with
    | some (n, p, r, a, _) =>
      if (memberH d n).lost then [] else
      ((memberH d n).writes.filter fun w => precedes 16 w.pseq p).map (HReq.write n) ++ [HReq.read n p r a]
    | none => []
  let rdNode := d.trk.read.map (·.1)
  let others := ((robin d d.trk.rrW).filter fun n => some n != rdNode && !(memberH d n).lost).flatMap fun n =>
    ((memberH d n).writes.filter fun w => w.sent.isNone).map (HReq.write n)
  resets.map HReq.reset ++ own ++ others

/-- HREQ_SEND (R281). A write sent again with its member's read keeps the instant of its first HREQ, which the next WNEXT
judges (R283). -/
def hreqSend (d : Die) (slot : Nat) : Die :=
  if !isLead d || !ownSlots d || slLen d slot == 0 || slKind d slot != 4 || slOwner d slot != nodeId d then d else
  let room := 56 * slLen d slot - 8
  let resets := fitRecs (fun _ => 4) room ((memberNodes d).filter fun n => (memberH d n).resetDue && !(memberH d n).lost)
  let d := forEach resets d renumber
  let sent := fitRecs (fun r => (hreqBytes r).length) room (hreqDue d resets)
  let next := robin d d.trk.rrR
  let rsp := match d.trk.read with
    | some r => r.1
    | none => ((next.find? fun n => (memberH d n).pend != 0).or next.head?).getD 0xFF
  let d := sendOwn d slot (leBytes 1 0x10 ++ leBytes 1 rsp ++ zeros 2 ++ sent.flatMap hreqBytes)
  let d := forEach sent d fun d r =>
    match r with
    | .write n w =>
      let at_ := checkedAt d slot n
      updTrk (updMember d n fun m =>
        { m with writes := m.writes.map fun x => if x.pseq = w.pseq then { x with sent := some (x.sent.getD at_), tried := true } else x }) fun t =>
        { t with rrW := n }
    | _ => d
  noteHreq (updTrk d fun t => { t with rrR := rsp }) (slotGt d (cycleFirst d) slot) rsp

/-- A member reports WNEXT in a slot at an instant (R283). -/
def confirm (g : Dog) (d : Die) (n wnext slotAt : Nat) : Die :=
  let m := memberH d n
  let judged := m.writes.any fun w => match w.sent with
    | some t => decide (t < slotAt)
    | none => false
  if !judged then d else
  let left := m.writes.filter fun w => !precedes 16 w.pseq wnext
  let again (w : MWrite) : Bool := match w.sent with
    | some t => decide (t < slotAt)
    | none => false
  let d := updMember d n fun m => { m with writes := left.map fun w => if again w then { w with sent := none } else w }
  drain g (if left.any again then incReg d (Reg.CTR_CNT 11) else d)

/-- ST_FRAME_RECEIVED (R282, R283, R285). -/
def stFrame (g : Dog) (d : Die) (f : TrunkFrame) : Die :=
  let n := f.src.val
  let r := acceptFrame d f 1 (slOwner d f.slot.val)
  if !r.2 then r.1 else
  let b := f.payload
  let d := setFld r.1 (Reg.CTR_NODE_MINOR n) (leAt b 0 1 % 16)
  let d := updTrk d fun t => { t with seenNow := if t.seenNow.contains n then t.seenNow else t.seenNow ++ [n] }
  if !isLead d || !(memberNodes d).contains n then d else
  let regain := (memberH d n).lost
  let d := updMember d n fun m =>
    { m with quiet := 0, lost := false, resetDue := m.resetDue || regain, pend := leAt b 6 2 }
  confirm g d n (leAt b 4 2) (sentAt d f)

/-- The code of R341 with which a member rejects a read, 0 when it does not (R336, R420). -/
def readCode (d : Die) (off be : Nat) : Nat :=
  if be % 16 = 0 then 0 else if off % 4 ≠ 0 || !beOk (be % 16) then 2 else if memberRing d true off then 6 else 0

/-- The member answers its read once every earlier write was applied, and keeps the copy with its STATUS above the word
(R282). A read of a domain that is being switched waits (R417, R419). -/
def answerRead (g : Dog) (d : Die) : Die :=
  match d.trk.rdWait with
  | some (p, rid, addr) =>
    let off := addr % 2 ^ 20
    let be := addr / 2 ^ 20 % 16
    if p ≠ d.trk.wnext || switching d off then d else
    let r := hostRead g d true off be
    updTrk r.2 fun t =>
      { t with rdWait := none, rdrCopy := some (rid, r.1 % 2 ^ 32 + 2 ^ 32 * readCode d off be), rdrSend := true }
  | none => d

/-- One record of an HREQ frame at a member (R282). -/
def hreqRecord (d : Die) (b : List Byte) : Die :=
  match leAt b 0 1 with
  | 1 =>
    if leAt b 2 2 ≠ d.trk.wnext then d else
    let addr := leAt b 8 4
    let r := hostWriteC d true (addr % 2 ^ 20) (addr / 2 ^ 20 % 16) (leAt b 12 4)
    let d := updTrk r.2 fun t => { t with wnext := (t.wnext + 1) % 65536 }
    if r.1 = 0 then d
    else if 64 ≤ d.trk.recs.length then incReg d (Reg.CTR_CNT 9)
    else updTrk d fun t => { t with recs := t.recs ++
      [leBytes 1 0x82 ++ leBytes 1 r.1 ++ slice b 4 2 ++ leBytes 1 (nodeId d) ++ zeros 3 ++ slice b 8 8] }
  | 2 =>
    let rid := leAt b 4 2
    if (d.trk.rdrCopy.map (·.1)) = some rid then updTrk d fun t => { t with rdrSend := true }
    else updTrk d fun t => { t with rdWait := some (leAt b 2 2, rid, leAt b 8 4) }
  | _ => updTrk d fun t => { t with wnext := 0, rdrCopy := none, rdrSend := false, rdWait := none }

/-- A record must wait at the member for a domain that is being switched: a write to it, and all that follows (R339, R417,
R419). -/
def recWaits (d : Die) (b : List Byte) : Bool :=
  !d.trk.recHeld.isEmpty || (leAt b 0 1 == 1 && switching d (leAt b 8 4 % 2 ^ 20))

/-- A record comes to the member (R282): it takes effect, or waits. -/
def recTake (g : Dog) (d : Die) (b : List Byte) : Die :=
  if recWaits d b then updTrk d fun t => { t with recHeld := t.recHeld ++ [b] } else answerRead g (hreqRecord d b)

/-- What waited for a switch of domains takes its turn once it has ended (R417, R419). -/
def drainSwitch (g : Dog) (d : Die) : Die :=
  let recs := d.trk.recHeld
  drain g (forEach recs (answerRead g (updTrk d fun t => { t with recHeld := [] })) (recTake g))

/-- Bytes of a transaction record by its TYPE; 0 ends the records (R279). A record of a TYPE this part does not know is
skipped by its length, which the spec does not give (R267; log entry 121). -/
def recLen (b : List Byte) : Nat :=
  match leAt b 0 1 with
  | 0 => 0
  | 1 => 16
  | 2 => 12
  | 3 => 4
  | 0x81 => 4
  | 0x82 => 16
  | 0x83 => 12
  | 0x84 => 4 + leAt b 1 1
  | _ => max 1 (Config.unknownRecLen (leAt b 0 4))

/-- The records of an HREQ frame addressed to this member, in order. -/
def hreqWalk (g : Dog) : Nat → List Byte → Die → Die
  | 0, _, d => d
  | fuel + 1, b, d =>
    let n := recLen b
    if n = 0 ∨ b.length < n then d
    else
      let d := if leAt b 0 1 < 4 ∧ leAt b 1 1 = nodeId d then recTake g d (b.take n) else d
      hreqWalk g fuel (b.drop n) d

/-- HREQ_FRAME_RECEIVED (R282). The part notes whom the frame names, and its instant. -/
def hreqFrame (g : Dog) (d : Die) (f : TrunkFrame) : Die :=
  let r := acceptFrame d f 4 0
  if !r.2 || !isMember d then r.1 else
  let b := f.payload.take (f.payload.length - 4)
  let at_ := sentAt r.1 f
  let d := noteHreq (updTrk r.1 fun t => { t with hreqAt := at_ }) at_ (leAt b 1 1)
  hreqWalk g 512 (b.drop 4) d

/-- The instant of the HREQ slot that precedes a slot of the cycle in force (R261). -/
def reqInstant (d : Die) (slot : Nat) : Option Nat :=
  (reqBefore d ((slots d).filter fun i => slKind d i == 4) slot).map fun j =>
    slotGt d (if slStart d j < slStart d slot then cycleFirst d else cycleFirst d - nCyc d) j

/-- The HREQ frame that precedes an HRSP slot has come and names this member (R261, R282). -/
def namedIn (d : Die) (slot : Nat) : Bool := d.trk.hreqNode == nodeId d && reqInstant d slot == some d.trk.hreqAt

/-- HRSP_SEND (R282): the named member sends WACK, the RDR, and its records, in each of its HRSP slots. -/
def hrspSend (d : Die) (slot : Nat) : Die :=
  if !isMember d || !ownSlots d || slLen d slot == 0 || slKind d slot != 5 || !namedIn d slot then d else
  let rdr := match d.trk.rdrCopy with
    | some (rid, v) => 
      if d.trk.rdrSend then leBytes 1 0x83 ++ leBytes 1 (v / 2 ^ 32) ++ leBytes 2 rid ++ zeros 4 ++ leBytes 4 v else []
    | none => []
  let recs := fitRecs List.length (56 * slLen d slot - 12 - rdr.length) d.trk.recs
  let d := sendOwn d slot (leBytes 1 0x10 ++ leBytes 1 0xFF ++ zeros 2 ++
    (leBytes 1 0x81 ++ zeros 1 ++ leBytes 2 d.trk.wnext) ++ rdr ++ recs.flatten)
  let gone := recs.filterMap fun r => if leAt r 0 1 = 0x84 then some (leAt r 4 2) else none
  let d := updHost d fun h => { h with delivered := h.delivered.filter fun x => !gone.contains x.1 }
  updTrk d fun t => { t with rdrSend := false, recs := t.recs.drop recs.length }

/-- A completion of a member waits for the lead's ring (R352, R353). -/
def memberEntry (d : Die) (n : Nat) (e : List Byte) : Die :=
  let w := [leAt e 0 4, leAt e 4 4 / 128 * 128 + 64 + n, leAt e 8 4, leAt e 12 4]
  if 256 ≤ d.trk.mcQueue.length then irqSet (incReg d Reg.HST_CNT_MCDROP) 1
  else updTrk d fun t => { t with mcQueue := t.mcQueue ++ [w] }

/-- One record of an HRSP frame at the lead (R283, R286, R352). -/
def hrspRecord (g : Dog) (d : Die) (n slotAt : Nat) (b : List Byte) : Die :=
  match leAt b 0 1 with
  | 0x81 => confirm g d n (leAt b 2 2) slotAt
  | 0x82 => deadLetter d (leAt b 1 1) (leAt b 2 2) (leAt b 4 1) (leAt b 8 4) (leAt b 12 4)
  | 0x83 =>
    match d.trk.read with
    | some (m, _, rid, _, _) => if m = n ∧ rid = leAt b 2 2 then readDone g d (leAt b 8 4) else d
    | none => d
  | 0x84 => memberEntry d n (b.drop 4)
  | _ => d

/-- The records of an HRSP frame, in order. -/
def hrspWalk (g : Dog) (n slotAt : Nat) : Nat → List Byte → Die → Die
  | 0, _, d => d
  | fuel + 1, b, d =>
    let k := recLen b
    if k = 0 ∨ b.length < k then d else hrspWalk g n slotAt fuel (b.drop k) (hrspRecord g d n slotAt (b.take k))

/-- HRSP_FRAME_RECEIVED (R283). -/
def hrspFrame (g : Dog) (d : Die) (f : TrunkFrame) : Die :=
  let r := acceptFrame d f 5 (hrspOwner d f)
  if !r.2 || !isLead d then r.1 else
  let b := f.payload.take (f.payload.length - 4)
  hrspWalk g f.src.val (sentAt d f) 512 (b.drop 4) r.1

/-- MEMBER_LOST (R285): a member quiet for 4 cycles. -/
def memberLoss (g : Dog) (d : Die) (n : Nat) : Die :=
  let m := memberH d n
  if !isLead d || !(memberNodes d).contains n || m.lost || m.quiet < 4 then d else
  let d := logEvt (setFld d (Reg.CTR_NODE_SEEN n) 0) 6 3 2 n 0 0
  let d := updMember d n fun m => { m with lost := true, writes := [] }
  drain g (forEach m.writes d fun d w => deadLetter d (if w.tried then 0xFE else 0xFF) w.tag n w.addr w.data)

/-- ST_FRAME_RECEIVED (R282). -/
def execStFrameReceived (f : TrunkFrame) (s : State) : Host.Outcome State Fault Refusal :=
  onDieDog (fun g d => stFrame g d f) s

/-- HREQ_FRAME_RECEIVED (R282). -/
def execHreqFrameReceived (f : TrunkFrame) (s : State) : Host.Outcome State Fault Refusal :=
  onDieDog (fun g d => hreqFrame g d f) s

/-- HRSP_FRAME_RECEIVED (R283). -/
def execHrspFrameReceived (f : TrunkFrame) (s : State) : Host.Outcome State Fault Refusal :=
  onDieDog (fun g d => hrspFrame g d f) s

/-- HREQ_SEND (R281). -/
def execHreqSend (slot : Fin 128) (s : State) : Host.Outcome State Fault Refusal := onDie (hreqSend · slot.val) s

/-- HRSP_SEND (R282). -/
def execHrspSend (slot : Fin 128) (s : State) : Host.Outcome State Fault Refusal := onDie (hrspSend · slot.val) s

/-- BAR2_POSTED_WRITE (R280). -/
def execBar2PostedWrite (member : Fin 64) (off : BitVec 20) (be : BitVec 4) (v : Word) (s : State) :
    Host.Outcome State Fault Refusal :=
  onDieDog (fun g d => postedWrite g d member.val off.toNat be.toNat v.toNat) s

/-- BAR2_READ (R278). -/
def execBar2Read (member : Fin 64) (off : BitVec 20) (be : BitVec 4) (s : State) : Host.Outcome State Fault Refusal :=
  onDieDog (fun g d => bar2ReadReq g d member.val off.toNat be.toNat) s

/-- MEMBER_READ_TIMEOUT (R284). -/
def execMemberReadTimeout (s : State) : Host.Outcome State Fault Refusal := onDieDog readTimeout s

/-- MEMBER_LOST (R285). -/
def execMemberLost (m : Fin 64) (s : State) : Host.Outcome State Fault Refusal :=
  onDieDog (fun g d => memberLoss g d m.val) s

/-- DEAD_LETTER_POP (R286): a read of CTR_DLQ_W3. -/
def execDeadLetterPop (s : State) : Host.Outcome State Fault Refusal :=
  onDieDog (fun g d => busRead g d (Reg.CTR_DLQ_W 3)) s

end Sys2Proof.Machine
end

