-- ==== Sys2Proof/Machine/Power.lean ====
section
/-! DEFINITION. Supply, reset, Doze and Hibernate (R377 to R394, R402), and how the control die starts (R375, R404, R406). -/

namespace Sys2Proof.Machine

/-- An always-on or diagnostic register that survives nRESET: GLB_RST_CAUSE, GLB_RST_CNT, PWR, LOG (R390, R406). -/
def survives (off : Nat) : Bool := off = 4 || off = 8 || (0x1000 ≤ off && off < 0x2000) || (0x5000 ≤ off && off < 0x6000)

/-- Events in the write queue are lost at a reset, but for those of the Sheepdog, which are relayed after it (R305, R406; log
entry 149). -/
def logReset (d : Die) : Die :=
  let kept := (d.lgb.queue.filter fun e => e.src == 8).map fun e => { e with late := true }
  let n := d.lgb.queue.length - kept.length
  let d := { d with lgb := { d.lgb with queue := kept } }
  if n = 0 then d else
  let d := putReg d Reg.LOG_CNT_LOST (BitVec.ofNat 32 (min (2 ^ 32 - 1) ((getReg d Reg.LOG_CNT_LOST).toNat + n)))
  { setFlag d Reg.LOG_STAT_LOSS with lgb := { d.lgb with lossNext := true } }

/-- The control die in reset (R390): every domain loses its state but the always-on domain and the diagnostic SRAM, so an
accepted Hibernate request stands (R393). A flash operation in progress runs to its end (log entry 82). Flash, fuse, test port and the host's memory are outside it. `cause` is the bit of GLB_RST_CAUSE that the next start reports. -/
def dieReset (d : Die) (cause : Nat) : Die :=
  let d := logReset (setFld d Reg.LOG_DBG_ARMED 0)
  let count := satInc 16 (fld d Reg.GLB_RST_CNT_COUNT)
  let d := setFld (setFld d Reg.GLB_RST_CNT_COUNT count) Reg.PWR_STAT_MODE 0
  let e := die0 d.straps
  let pwr : Power :=
    { d.pwr with dom := 0, runDoms := 0, cause := cause, dozeReq := false, dozeOut := false, mute := false }
  { e with
    regs := d.regs.filter fun x => survives x.1
    segs := d.segs.map fun s => { seg0 with snap := s.snap }
    knl := { kennel0 with buffer := d.knl.buffer }
    boot := { boot0 with flash := flashOver d.boot, blown := d.boot.blown }
    lgb := d.lgb, tap := { d.tap with halted := 0, sup := [] }, pwr := pwr, inReset := true, fresh := d.fresh
    host := { hostSt0 with ring := d.host.ring, perst := d.host.perst }
    dogIo := { dogIo0 with resetSeen := true, sticky := d.dogIo.sticky } }

/-- The control die starts (R375): GT := 0, the loader runs, the beat registers hold the defaults of the strapped rate; the
boot epoch counts starts after a reset (R404). -/
def dieStart (d : Die) (straps : BitVec 16) : Die :=
  let d := { d with straps := straps, inReset := false, tb := timebase0 }
  let d := updPwr d fun p => { p with dom := bootDoms straps.toNat }
  let d := putReg (beatDefaults d (rateCode straps.toNat none)) Reg.GLB_RST_CAUSE (BitVec.ofNat 32 d.pwr.cause)
  if bitOf d.pwr.cause 0 then d else
  let e := fld d Reg.LOG_EPOCH_EPOCH
  setFld d Reg.LOG_EPOCH_EPOCH (if e = 0xFFFF then 1 else e + 1)

/-- Nothing keeps a reset control die from starting (R380, R391 to R393). -/
def mayStart (d : Die) : Bool :=
  d.pwr.up && d.inReset && !d.pwr.por && !d.pwr.therm && !d.pwr.nresetLow && d.pwr.crystal

/-- The straps are sampled, and with them the lock of the reference (R358); the control die starts if nothing keeps it. -/
def sampleStart (d : Die) (straps : BitVec 16) (sref : Bool) : Die :=
  let d := putFlag { d with straps := straps } Reg.PWR_STAT_SREFLOCK sref
  if mayStart d then dieStart d straps else d

/-- The supply of the part is gone (R382, R388): no state is kept; only flash, fuse and the pins stay. -/
def unpowered (d : Die) : Die :=
  let e := die0 d.straps
  { e with
    boot := { boot0 with flash := d.boot.flash, blown := d.boot.blown }
    regs := if d.boot.blown then [(Reg.LOG_DBG, 1)] else []
    host := { hostSt0 with ring := d.host.ring, perst := d.host.perst }
    pwr := { d.pwr with up := false, crystal := false, dom := 0, runDoms := 0, tj := 0, cause := 1, vinWarnN := true, por := true, therm := false,
                        dozeReq := false, hibReq := false, dozeOut := false, mute := false }
    inReset := true, fresh := d.fresh }

/-- A VIN value as the PSD measures it (R377): PWR_VIN and PWR_VINMIN, and the warning of R381. -/
def measureVin (d : Die) (mv : Nat) : Die :=
  let d := updPwr d fun p => { p with vin := mv }
  let v := min mv 65535
  vinSettle (if d.pwr.up && v < (getReg d Reg.PWR_VINMIN).toNat then putReg d Reg.PWR_VINMIN (BitVec.ofNat 32 v) else d)

/-- Fault where VIN exceeds the absolute maximum rating (R377, R401), else an effect of the power manager. -/
def withVin (mv : Nat) (f : Dog → Die → Dog × Die) (s : State) : Host.Outcome State Fault Refusal :=
  if 45000 < mv then .fault .ratingExceeded else onPower f s

/-- POWER_UP (R380, R382): from VIN at VON, below VOV less its hysteresis, with EN high. With EN low the part stands in
Hibernate (R393). -/
def powerOn (mv : Nat) (g : Dog) (d : Die) : Dog × Die :=
  if d.pwr.up || d.pwr.hib || mv < 5600 || 41000 < mv then (g, measureVin d mv)
  else if !d.pwr.en then (g, measureVin (updPwr d fun p => { p with hib := true }) mv)
  else (dog0, measureVin (updPwr d fun p => { p with up := true, crystal := true, por := true, cause := 1 }) mv)

/-- CRYSTAL_RETRY (R380). -/
def crystalJudged (d : Die) (ok : Bool) : Die :=
  if d.pwr.up && d.inReset then updPwr d fun p => { p with crystal := ok } else d

/-- POWER_ON_RESET_RELEASE (R358, R380, R391): straps are sampled, unless nRESET is low, and the control die starts. Held hot, it
starts later with cause THERM (R402; log entry 150). -/
def porRelease (d : Die) (straps : BitVec 16) (sref : Bool) : Die :=
  if !d.pwr.up || !d.pwr.por || !d.pwr.crystal then d else
  let d := updPwr d fun p => { p with por := false, cause := if p.therm then 0x20 else p.cause }
  if d.pwr.nresetLow then d else sampleStart d straps sref

/-- VIN_WARN (R373, R381): a crossing below VWARN. -/
def vinFalls (d : Die) (mv : Nat) : Die := measureVin d mv

/-- VIN_RECOVERY (R377, R381): VIN back above VWARN by the hysteresis of 0.3 V. -/
def vinRises (d : Die) (mv : Nat) : Die := measureVin d mv

/-- POWER_LOSS (R382, R393): VIN below VBOR or above VOV. The Sheepdog is without supply, so every SO and TP is off. A
Hibernate ends too: the next start is a power-up. -/
def supplyLost (mv : Nat) (g : Dog) (d : Die) : Dog × Die :=
  if mv < 5200 || 42000 < mv then
    let d := updPwr d fun p => { p with hib := false }
    if d.pwr.up then (dog0, measureVin (unpowered d) mv) else (g, measureVin d mv)
  else (g, measureVin d mv)

/-- NRESET (R390, R391): a pulse under 400 ns is ignored; one under 1 µs resets in full or is ignored, which the spec leaves
open (log entry 2). -/
def nresetPin (d : Die) (lowNs : Nat) : Die :=
  let r := if lowNs < 1000 then draw d else (0, d)
  let d := r.2
  let acts : Bool := 1000 ≤ lowNs || (400 ≤ lowNs && bitOf r.1.toNat 0)
  if !acts then d else
  let d := updPwr d fun p => { p with nresetLow := true }
  if d.pwr.up && !d.inReset then dieReset d 4 else d

/-- NRESET_RELEASE (R358, R390, R393): straps are sampled again, and the start follows unless a higher condition holds. -/
def nresetHigh (d : Die) (straps : BitVec 16) (sref : Bool) : Die :=
  if !d.pwr.nresetLow then d else
  let d := updPwr d fun p => { p with nresetLow := false }
  if !d.pwr.up || d.pwr.por || !d.inReset then d else sampleStart d straps sref

/-- An internal reset (R392): as nRESET, with the straps as last sampled (R358), and the start follows at once. -/
def internalReset (d : Die) (cause : Nat) : Die :=
  let d := dieReset d cause
  if mayStart d then dieStart d d.straps else d

/-- PGOOD (R384). -/
def powerGoodLost (d : Die) (dom : Nat) : Die :=
  if d.pwr.up && !d.inReset && powered d dom then setFld (internalReset d 8) Reg.GLB_RST_CNT_DOM dom else d

/-- SUPWDT (R392). -/
def supWatchdog (d : Die) : Die := if d.pwr.up && !d.inReset then internalReset d 0x10 else d

/-- A junction temperature as PWR_TJ reports it (R402): the highest is kept; 110 °C is 440. -/
def measureTj (d : Die) (tj : BitVec 16) : Die :=
  if !d.pwr.up then d else
  let t := sext 16 tj.toNat
  let d := updPwr d fun p => { p with tj := tj.toNat }
  let d := if sext 16 (fld d Reg.PWR_TJ_PEAK) < t then setFld d Reg.PWR_TJ_PEAK tj.toNat else d
  let was := flag d Reg.PWR_STAT_TJHI
  let hot : Bool := 440 ≤ t
  let d := putFlag d Reg.PWR_STAT_TJHI hot
  if !hot || was then d else
  let d := setFlag d Reg.PWR_STAT_TJHIS
  if d.inReset then d else logEvt d 0 5 1 (setBitsOf (getReg d Reg.PWR_TJ).toNat 0 16 tj.toNat) 0 0

/-- THERM (R402): at 125 °C the control die is held in reset, with cause THERM also where a lower condition held it (R393). -/
def thermTrip (d : Die) (tj : BitVec 16) : Die :=
  let d := measureTj d tj
  if !d.pwr.up || sext 16 tj.toNat < 500 then d else
  let d := if d.inReset then d else dieReset d 0x20
  updPwr d fun p => { p with therm := true, cause := if p.por then p.cause else 0x20 }

/-- THERM_RECOVERY (R393, R402): at 105 °C the hold ends and the part starts as from nRESET; an nRESET that is still low is then
acted on (log entry 150). -/
def thermEnd (d : Die) (tj : BitVec 16) : Die :=
  let d := measureTj d tj
  if !d.pwr.therm || 420 < sext 16 tj.toNat then d else
  let d := updPwr d fun p =>
    { p with therm := false, cause := if p.nresetLow && !p.por then 4 else p.cause }
  if mayStart d then dieStart d d.straps else d

/-- A register of a block that Doze powers down: master inputs, capture, step channels, CAN (R385, R386). Those of the loop
engines lie in the core (R416). -/
def dozeOff (off : Nat) : Bool := (0x7000 ≤ off && off < 0x8000) || (0xF000 ≤ off && off < 0x12000)

/-- A node at entry to Doze: ABSENT, its axes out of service, its requests NODE_GONE (R386). -/
def dozeNode (d : Die) (seg i : Nat) : Die :=
  let d := mbxFlush (removeAxes d seg i) seg i 8 fun _ => true
  updNode (setFld d (Reg.LSH_NODE_STAT_STATE seg i) 0) seg i fun n =>
    { n with acked := false, naked := false, quiet := 0, rollMiss := 0, sentOfs := none }

/-- A segment at entry to Doze: path state RING, ports off (R386). -/
def dozeSeg (d : Die) (seg : Nat) : Die :=
  if !flag d (Reg.LSH_SCFG_DECL seg) then d else
  let d := forEach (upto (nNode d seg)) d fun d i => dozeNode d seg i
  let d := setFld (tailPower d seg false) (Reg.LSH_PATH_STATE seg) 0
  let d := setFld (setFld d (Reg.LSH_PSTAT_TXON (2 * seg)) 0) (Reg.LSH_SSTAT_RUN seg) 0
  let d := forEach [2 * seg, 2 * seg + 1] d fun d p => setFld d (Reg.LSH_PSTAT_RXSYNC p) 0
  putSnap (updSeg d seg fun s => { seg0 with lastCm := s.lastCm, lastPs := s.lastPs, tload := s.tload, snap := s.snap }) seg

/-- The instances on the engines end as the engines go off (R157, R386): their store entries are free, and a host job
completes ABORTED (log entry 115). -/
def dozeDrop (d : Die) : Die :=
  let tasks := (upto 16).flatMap fun e => (engH d e).active.toList ++ (engH d e).other.toList
  forEach tasks d fun d t =>
    let d := if descMulti d t.idx then clearBlocked (updKnl d fun k => { k with store := k.store - 1 }) else d
    if descClass d t.idx = 5 then complete d t.arg 2 0 0 else d

/-- The trunk ports lose their supply (R385). -/
def dozeTrunk (d : Die) : Die :=
  forEach (upto 3) d trunkPortOff

/-- DOZE_ENTRY (R385, R386, R417): the blocks go down after the edge at which entry began, and accesses that waited for the switch
go on. An accepted Hibernate write stands above it (R393). -/
def dozeIn (g : Dog) (d : Die) : Die :=
  if fld d Reg.PWR_STAT_MODE ≠ 2 || d.pwr.hibReq then d else
  let d := updPwr d fun p => { p with runDoms := (declaredDoms d).foldl setBit 0 }
  let d := forEach (upto 4) (dozeTrunk (dozeDrop d)) dozeSeg
  let d := forEach (upto 4) d fun d n => if flag d (Reg.CAN_CFG_DECL n) then canReq d n 0 else d
  let keep (l : List Nat) : List Nat := l.filter fun x => !dozeOff x
  let d := { d with
    regs := d.regs.filter fun x => !dozeOff x.1
    held := d.held.filter fun x => !dozeOff x.1
    heldLow := keep d.heldLow
    land := d.land.filter fun x => !dozeOff x.1
    snap := d.snap.filter fun x => !dozeOff x.1
    eng := Vector.replicate 16 engine0
    mem := { d.mem with xram := [] }
    cap := capture0, stp := Vector.replicate 32 stepCh0, grp := Vector.replicate 8 stepGrp0
    can := Vector.replicate 4 canHid0, mst := master0, gear := [] }
  let d := updPwr d fun p => { p with dom := (dozeDoms d).foldl setBit 0, dozeReq := false }
  drainSwitch g (setFld d Reg.PWR_STAT_MODE 1)

/-- The line-shaft ratio in force of every axis: a NUM that waits for its DEN is not (R140). -/
def putRatios (d : Die) : Die :=
  forEach (upto 128) d fun d a => updGear d a fun g =>
    { g with num := sext 32 (effN d (Reg.AX_LS_NUM a)), den := effN d (Reg.AX_LS_DEN a) }

/-- DOZE_EXIT (R387, R417): domains powered, Parcel fields of the blocks reapplied, MODE = Run; events are posted again from the
next edge on, and accesses that waited for the switch go on. An accepted Hibernate write stands above it (R393). -/
def dozeUp (g : Dog) (d : Die) : Die :=
  if fld d Reg.PWR_STAT_MODE ≠ 3 || !d.pwr.dozeOut || d.pwr.hibReq then d else
  let recs := (d.boot.image.filter fun r => dozeOff r.1).map fun r => (r.1, r.2.toNat)
  let d := forEach recs d applyRec
  let d := forEach (declChans d) d fun d c => putReg d (Reg.CAP_CH_SLOTSZ c) (BitVec.ofNat 32 (slotSize d c))
  let d := updPwr d fun p => { p with dom := (declaredDoms d).foldl setBit 0, dozeOut := false, mute := true }
  let d := forEach (upto 32) d fun d n => if flag d (Reg.STP_CFG_DECL n) then setFlag d (Reg.STP_STAT_UNSURE n) else d
  let d := canStart (putGroupModes (putRatios d))
  let d := if flag d Reg.CTR_CFG_DECL then trunkUp d else d
  let d := forEach ((upto 4).filter fun s => flag d (Reg.LSH_SCFG_DECL s)) d fun d s => setFlag d (Reg.LSH_PSTAT_TXON (2 * s))
  drainSwitch g (setFld d Reg.PWR_STAT_MODE 0)

/-- HIBERNATE_ENTRY (R388): EN low at any time, or an accepted write. -/
def hibernate (enLow : Bool) (g : Dog) (d : Die) : Dog × Die :=
  let d := if enLow then updPwr d fun p => { p with en := false } else d
  if d.pwr.up && (enLow || (d.pwr.hibReq && !d.inReset)) then
    (dog0, updPwr (unpowered d) fun p => { p with hib := true })
  else (g, d)

/-- WAKE (R389): EN rising, or the WAKE pin while EN is high; a full power-up follows. -/
def wakeUp (byEn : Bool) (g : Dog) (d : Die) : Dog × Die :=
  let d := if byEn then updPwr d fun p => { p with en := true } else d
  if !d.pwr.hib || !d.pwr.en then (g, d)
  else if d.pwr.vin < 5600 ∨ 41000 < d.pwr.vin then (g, updPwr d fun p => { p with hib := false })
  else (dog0, vinSettle (updPwr d fun p => { p with hib := false, up := true, crystal := true, por := true, cause := 3 }))

/-- POWER_UP (R380). -/
def execPowerUp (vinMv : Nat) (s : State) : Host.Outcome State Fault Refusal := withVin vinMv (powerOn vinMv) s

/-- POWER_ON_RESET_RELEASE (R380). -/
def execPowerOnResetRelease (straps : BitVec 16) (sref : Bool) (s : State) : Host.Outcome State Fault Refusal :=
  onDie (porRelease · straps sref) s

/-- CRYSTAL_RETRY (R380). -/
def execCrystalRetry (qualified : Bool) (s : State) : Host.Outcome State Fault Refusal := onDie (crystalJudged · qualified) s

/-- LOADER_FINISH (R375). -/
def execLoaderFinish (s : State) : Host.Outcome State Fault Refusal := onDie loaderEnd s

/-- VIN_WARN (R381). -/
def execVinWarn (vinMv : Nat) (s : State) : Host.Outcome State Fault Refusal :=
  withVin vinMv (fun g d => (g, vinFalls d vinMv)) s

/-- VIN_RECOVERY (R381). -/
def execVinRecovery (vinMv : Nat) (s : State) : Host.Outcome State Fault Refusal :=
  withVin vinMv (fun g d => (g, vinRises d vinMv)) s

/-- POWER_LOSS (R382). -/
def execPowerLoss (vinMv : Nat) (s : State) : Host.Outcome State Fault Refusal := withVin vinMv (supplyLost vinMv) s

/-- NRESET (R390). -/
def execNreset (lowNs : Nat) (s : State) : Host.Outcome State Fault Refusal := onDie (nresetPin · lowNs) s

/-- NRESET_RELEASE (R390). -/
def execNresetRelease (straps : BitVec 16) (sref : Bool) (s : State) : Host.Outcome State Fault Refusal :=
  onDie (nresetHigh · straps sref) s

/-- PGOOD (R384). -/
def execPgood (dom : Fin 80) (s : State) : Host.Outcome State Fault Refusal := onDie (powerGoodLost · dom.val) s

/-- SUPWDT (R392). -/
def execSupwdt (s : State) : Host.Outcome State Fault Refusal := onDie supWatchdog s

/-- TJ_HIGH (R402). -/
def execTjHigh (tj : BitVec 16) (s : State) : Host.Outcome State Fault Refusal := onDie (measureTj · tj) s

/-- THERM (R402). -/
def execTherm (tj : BitVec 16) (s : State) : Host.Outcome State Fault Refusal := onDie (thermTrip · tj) s

/-- THERM_RECOVERY (R402). -/
def execThermRecovery (tj : BitVec 16) (s : State) : Host.Outcome State Fault Refusal := onDie (thermEnd · tj) s

/-- DOZE_ENTRY (R386). -/
def execDozeEntry (s : State) : Host.Outcome State Fault Refusal := onDieDog dozeIn s

/-- DOZE_EXIT (R387). -/
def execDozeExit (s : State) : Host.Outcome State Fault Refusal := onDieDog dozeUp s

/-- HIBERNATE_ENTRY (R388). -/
def execHibernateEntry (enLow : Bool) (s : State) : Host.Outcome State Fault Refusal := onPower (hibernate enLow) s

/-- WAKE (R389). -/
def execWake (byEn : Bool) (s : State) : Host.Outcome State Fault Refusal := onPower (wakeUp byEn) s

end Sys2Proof.Machine
end

