-- ==== Sys2Proof/Machine/Dispatch.lean ====
section
/-! DEFINITION. The dispatch of a command to its meaning: one arm per constructor. -/

namespace Sys2Proof.Machine

def exec (i : Instr) (s : State) : Host.Outcome State Fault Refusal :=
  match i with
  | .beatEdge => Sys2Proof.Machine.execBeatEdge s
  | .inputDeadline => Sys2Proof.Machine.execInputDeadline s
  | .outputPhase => Sys2Proof.Machine.execOutputPhase s
  | .shedSuspensionEnd => Sys2Proof.Machine.execShedSuspensionEnd s
  | .stopEnd a => Sys2Proof.Machine.execStopEnd a s
  | .frameClose => Sys2Proof.Machine.execFrameClose s
  | .gtStep => Sys2Proof.Machine.execGtStep s
  | .beatNumRead => Sys2Proof.Machine.execBeatNumRead s
  | .lowWordRead off => Sys2Proof.Machine.execLowWordRead off s
  | .beatMarginWrite v => Sys2Proof.Machine.execBeatMarginWrite v s
  | .nop e ecc => Sys2Proof.Machine.execNop e ecc s
  | .cmac e ecc => Sys2Proof.Machine.execCmac e ecc s
  | .cmacc e ecc => Sys2Proof.Machine.execCmacc e ecc s
  | .cmsu e ecc => Sys2Proof.Machine.execCmsu e ecc s
  | .cmpy e ecc => Sys2Proof.Machine.execCmpy e ecc s
  | .dmac e ecc => Sys2Proof.Machine.execDmac e ecc s
  | .dmsu e ecc => Sys2Proof.Machine.execDmsu e ecc s
  | .dmpy e ecc => Sys2Proof.Machine.execDmpy e ecc s
  | .pmac e ecc => Sys2Proof.Machine.execPmac e ecc s
  | .pmpy e ecc => Sys2Proof.Machine.execPmpy e ecc s
  | .aclr e ecc => Sys2Proof.Machine.execAclr e ecc s
  | .rnd e ecc => Sys2Proof.Machine.execRnd e ecc s
  | .prnd e ecc => Sys2Proof.Machine.execPrnd e ecc s
  | .add e ecc => Sys2Proof.Machine.execAdd e ecc s
  | .sub e ecc => Sys2Proof.Machine.execSub e ecc s
  | .max e ecc => Sys2Proof.Machine.execMax e ecc s
  | .min e ecc => Sys2Proof.Machine.execMin e ecc s
  | .clmp e ecc => Sys2Proof.Machine.execClmp e ecc s
  | .neg e ecc => Sys2Proof.Machine.execNeg e ecc s
  | .abs e ecc => Sys2Proof.Machine.execAbs e ecc s
  | .conj e ecc => Sys2Proof.Machine.execConj e ecc s
  | .mov e ecc => Sys2Proof.Machine.execMov e ecc s
  | .swp e ecc => Sys2Proof.Machine.execSwp e ecc s
  | .padd e ecc => Sys2Proof.Machine.execPadd e ecc s
  | .paddw e ecc => Sys2Proof.Machine.execPaddw e ecc s
  | .psub e ecc => Sys2Proof.Machine.execPsub e ecc s
  | .psubw e ecc => Sys2Proof.Machine.execPsubw e ecc s
  | .nsc e ecc => Sys2Proof.Machine.execNsc e ecc s
  | .nsca e ecc => Sys2Proof.Machine.execNsca e ecc s
  | .shlv e ecc => Sys2Proof.Machine.execShlv e ecc s
  | .pshv e ecc => Sys2Proof.Machine.execPshv e ecc s
  | .esub e ecc => Sys2Proof.Machine.execEsub e ecc s
  | .efd e ecc => Sys2Proof.Machine.execEfd e ecc s
  | .dfe e ecc => Sys2Proof.Machine.execDfe e ecc s
  | .ldi e ecc => Sys2Proof.Machine.execLdi e ecc s
  | .eldi e ecc => Sys2Proof.Machine.execEldi e ecc s
  | .pset e ecc => Sys2Proof.Machine.execPset e ecc s
  | .shr e ecc => Sys2Proof.Machine.execShr e ecc s
  | .pshr e ecc => Sys2Proof.Machine.execPshr e ecc s
  | .lda e ecc => Sys2Proof.Machine.execLda e ecc s
  | .sta e ecc => Sys2Proof.Machine.execSta e ecc s
  | .yst e ecc => Sys2Proof.Machine.execYst e ecc s
  | .jmp e ecc => Sys2Proof.Machine.execJmp e ecc s
  | .jcc e ecc => Sys2Proof.Machine.execJcc e ecc s
  | .call e ecc => Sys2Proof.Machine.execCall e ecc s
  | .ret e ecc => Sys2Proof.Machine.execRet e ecc s
  | .loop e ecc => Sys2Proof.Machine.execLoop e ecc s
  | .loopr e ecc => Sys2Proof.Machine.execLoopr e ecc s
  | .doneTask e ecc => Sys2Proof.Machine.execDoneTask e ecc s
  | .post e ecc => Sys2Proof.Machine.execPost e ecc s
  | .yUpdatePortWrite => Sys2Proof.Machine.execYUpdatePortWrite s
  | .precedencePortAccept => Sys2Proof.Machine.execPrecedencePortAccept s
  | .sharedPortAccept => Sys2Proof.Machine.execSharedPortAccept s
  | .dispatch => Sys2Proof.Machine.execDispatch s
  | .preempt => Sys2Proof.Machine.execPreempt s
  | .engineEnd => Sys2Proof.Machine.execEngineEnd s
  | .pawprintDrain => Sys2Proof.Machine.execPawprintDrain s
  | .pawprintStop => Sys2Proof.Machine.execPawprintStop s
  | .pawprintCtlWrite v => Sys2Proof.Machine.execPawprintCtlWrite v s
  | .axisReqWrite a req => Sys2Proof.Machine.execAxisReqWrite a req s
  | .axisClr a => Sys2Proof.Machine.execAxisClr a s
  | .trackerRestart a => Sys2Proof.Machine.execTrackerRestart a s
  | .naFreqWrite a v => Sys2Proof.Machine.execNaFreqWrite a v s
  | .quadratureEdge n ab e => Sys2Proof.Machine.execQuadratureEdge n ab e s
  | .analogueConversion n code t => Sys2Proof.Machine.execAnalogueConversion n code t s
  | .gearUnitRun => Sys2Proof.Machine.execGearUnitRun s
  | .masterLost => Sys2Proof.Machine.execMasterLost s
  | .ack => Sys2Proof.Machine.execAck s
  | .rebase => Sys2Proof.Machine.execRebase s
  | .lsModeWrite a mode => Sys2Proof.Machine.execLsModeWrite a mode s
  | .trimclr a => Sys2Proof.Machine.execTrimclr a s
  | .engagingEnd a => Sys2Proof.Machine.execEngagingEnd a s
  | .home a user => Sys2Proof.Machine.execHome a user s
  | .markCrossing c => Sys2Proof.Machine.execMarkCrossing c s
  | .floodHoldExpiry n cause => Sys2Proof.Machine.execFloodHoldExpiry n cause s
  | .rippleRecord => Sys2Proof.Machine.execRippleRecord s
  | .triggerEdge n rising e => Sys2Proof.Machine.execTriggerEdge n rising e s
  | .xtEdge l e => Sys2Proof.Machine.execXtEdge l e s
  | .xtPulseEnd l => Sys2Proof.Machine.execXtPulseEnd l s
  | .softwareTrigger mask t => Sys2Proof.Machine.execSoftwareTrigger mask t s
  | .windowEnd c => Sys2Proof.Machine.execWindowEnd c s
  | .recordComplete c => Sys2Proof.Machine.execRecordComplete c s
  | .arm c single => Sys2Proof.Machine.execArm c single s
  | .disarm c => Sys2Proof.Machine.execDisarm c s
  | .freeseqWrite c v => Sys2Proof.Machine.execFreeseqWrite c v s
  | .stepCarry n => Sys2Proof.Machine.execStepCarry n s
  | .stepPulseEnd n => Sys2Proof.Machine.execStepPulseEnd n s
  | .dirChange n => Sys2Proof.Machine.execDirChange n s
  | .accumulationResume n => Sys2Proof.Machine.execAccumulationResume n s
  | .leadCarry g => Sys2Proof.Machine.execLeadCarry g s
  | .stepMove g d user => Sys2Proof.Machine.execStepMove g d user s
  | .stepHome n user => Sys2Proof.Machine.execStepHome n user s
  | .hmInputChange n x => Sys2Proof.Machine.execHmInputChange n x s
  | .stpStop n => Sys2Proof.Machine.execStpStop n s
  | .groupStop g => Sys2Proof.Machine.execGroupStop g s
  | .stepModeWrite n v => Sys2Proof.Machine.execStepModeWrite n v s
  | .stepVelWrite n v => Sys2Proof.Machine.execStepVelWrite n v s
  | .stepPosWrite n v => Sys2Proof.Machine.execStepPosWrite n v s
  | .inSlotAccept port slot hdr bytes arrival => Sys2Proof.Machine.execInSlotAccept port slot hdr bytes arrival s
  | .beatFrameEnd port hdr body fcs tpath => Sys2Proof.Machine.execBeatFrameEnd port hdr body fcs tpath s
  | .acyclicFrameSend seg => Sys2Proof.Machine.execAcyclicFrameSend seg s
  | .rollFrameReturn seg hdr body fcs => Sys2Proof.Machine.execRollFrameReturn seg hdr body fcs s
  | .admissionEffective seg node => Sys2Proof.Machine.execAdmissionEffective seg node s
  | .admissionTimeout seg node => Sys2Proof.Machine.execAdmissionTimeout seg node s
  | .nodeLost seg node => Sys2Proof.Machine.execNodeLost seg node s
  | .mbxFrameReturn seg hdr body fcs => Sys2Proof.Machine.execMbxFrameReturn seg hdr body fcs s
  | .mailboxTimeout seg node => Sys2Proof.Machine.execMailboxTimeout seg node s
  | .leashMbx seg node code data user => Sys2Proof.Machine.execLeashMbx seg node code data user s
  | .leashReadmit seg node user => Sys2Proof.Machine.execLeashReadmit seg node user s
  | .rxSyncChange port sync => Sys2Proof.Machine.execRxSyncChange port sync s
  | .sgmiiSpeedReport port gigFull => Sys2Proof.Machine.execSgmiiSpeedReport port gigFull s
  | .schedWrite seg v => Sys2Proof.Machine.execSchedWrite seg v s
  | .snapshotRestore seg crcGood => Sys2Proof.Machine.execSnapshotRestore seg crcGood s
  | .twolineLaunch seg => Sys2Proof.Machine.execTwolineLaunch seg s
  | .leashSwitchback seg user => Sys2Proof.Machine.execLeashSwitchback seg user s
  | .switchbackEnd seg => Sys2Proof.Machine.execSwitchbackEnd seg s
  | .leashProof seg user => Sys2Proof.Machine.execLeashProof seg user s
  | .proofPhaseEnd seg => Sys2Proof.Machine.execProofPhaseEnd seg s
  | .trunkLock x => Sys2Proof.Machine.execTrunkLock x s
  | .trunkLockLoss p line => Sys2Proof.Machine.execTrunkLockLoss p line s
  | .idleBlockReceived p line ns frac => Sys2Proof.Machine.execIdleBlockReceived p line ns frac s
  | .trunkFrameForward p line rx => Sys2Proof.Machine.execTrunkFrameForward p line rx s
  | .postmarkReceived f => Sys2Proof.Machine.execPostmarkReceived f s
  | .stFrameReceived f => Sys2Proof.Machine.execStFrameReceived f s
  | .msFrameReceived f => Sys2Proof.Machine.execMsFrameReceived f s
  | .ttFrameReceived f => Sys2Proof.Machine.execTtFrameReceived f s
  | .hreqFrameReceived f => Sys2Proof.Machine.execHreqFrameReceived f s
  | .hrspFrameReceived f => Sys2Proof.Machine.execHrspFrameReceived f s
  | .postmarkSend => Sys2Proof.Machine.execPostmarkSend s
  | .stSend slot => Sys2Proof.Machine.execStSend slot s
  | .msSend slot => Sys2Proof.Machine.execMsSend slot s
  | .ttSend slot => Sys2Proof.Machine.execTtSend slot s
  | .hreqSend slot => Sys2Proof.Machine.execHreqSend slot s
  | .hrspSend slot => Sys2Proof.Machine.execHrspSend slot s
  | .trunkCycleStart => Sys2Proof.Machine.execTrunkCycleStart s
  | .listenTimerExpiry => Sys2Proof.Machine.execListenTimerExpiry s
  | .takeover => Sys2Proof.Machine.execTakeover s
  | .postmarkLoss => Sys2Proof.Machine.execPostmarkLoss s
  | .trunkStopEffect => Sys2Proof.Machine.execTrunkStopEffect s
  | .trunkStop all user => Sys2Proof.Machine.execTrunkStop all user s
  | .trunkStart user => Sys2Proof.Machine.execTrunkStart user s
  | .trunkStartNosync => Sys2Proof.Machine.execTrunkStartNosync s
  | .bar2PostedWrite member off be v => Sys2Proof.Machine.execBar2PostedWrite member off be v s
  | .bar2Read member off be => Sys2Proof.Machine.execBar2Read member off be s
  | .memberReadTimeout => Sys2Proof.Machine.execMemberReadTimeout s
  | .memberLost m => Sys2Proof.Machine.execMemberLost m s
  | .deadLetterPop => Sys2Proof.Machine.execDeadLetterPop s
  | .safetyCycle obs => Sys2Proof.Machine.execSafetyCycle obs s
  | .ss1TimerExpiry f => Sys2Proof.Machine.execSs1TimerExpiry f s
  | .pairDiscrepancy p => Sys2Proof.Machine.execPairDiscrepancy p s
  | .testPulseCheckpoint k tpA tpB siA siB siLaterA siLaterB => Sys2Proof.Machine.execTestPulseCheckpoint k tpA tpB siA siB siLaterA siLaterB s
  | .outputSwitchTest n chanB readsOff => Sys2Proof.Machine.execOutputSwitchTest n chanB readsOff s
  | .outputOffTimeout n => Sys2Proof.Machine.execOutputOffTimeout n s
  | .diagSelfTest okA okB => Sys2Proof.Machine.execDiagSelfTest okA okB s
  | .srstPress usA usB => Sys2Proof.Machine.execSrstPress usA usB s
  | .srstHeld => Sys2Proof.Machine.execSrstHeld s
  | .releaseTestEnd tpBad switchBad selfGood => Sys2Proof.Machine.execReleaseTestEnd tpBad switchBad selfGood s
  | .heartbeat => Sys2Proof.Machine.execHeartbeat s
  | .heartbeatWindowEnd => Sys2Proof.Machine.execHeartbeatWindowEnd s
  | .safetySectionLoad x => Sys2Proof.Machine.execSafetySectionLoad x s
  | .safetyWordHandover => Sys2Proof.Machine.execSafetyWordHandover s
  | .ss1StoMessage => Sys2Proof.Machine.execSs1StoMessage s
  | .ss1StoMessageTimeout => Sys2Proof.Machine.execSs1StoMessageTimeout s
  | .lsafeWatchdog seg slot => Sys2Proof.Machine.execLsafeWatchdog seg slot s
  | .sheepdogEvent => Sys2Proof.Machine.execSheepdogEvent s
  | .canFrameReceived n f tSof => Sys2Proof.Machine.execCanFrameReceived n f tSof s
  | .canTxEnd n how tSof delay => Sys2Proof.Machine.execCanTxEnd n how tSof delay s
  | .canBusError n code transmitter what => Sys2Proof.Machine.execCanBusError n code transmitter what s
  | .protocolException n => Sys2Proof.Machine.execProtocolException n s
  | .canSyncDone n => Sys2Proof.Machine.execCanSyncDone n s
  | .canRecoveryDone n => Sys2Proof.Machine.execCanRecoveryDone n s
  | .canModeChangeAtIdle n => Sys2Proof.Machine.execCanModeChangeAtIdle n s
  | .canReqOff n => Sys2Proof.Machine.execCanReqOff n s
  | .canReqNormal n => Sys2Proof.Machine.execCanReqNormal n s
  | .canReqRestricted n => Sys2Proof.Machine.execCanReqRestricted n s
  | .canRecover n => Sys2Proof.Machine.execCanRecover n s
  | .canBitTimingWrite n data v => Sys2Proof.Machine.execCanBitTimingWrite n data v s
  | .txbReq n b oneshot => Sys2Proof.Machine.execTxbReq n b oneshot s
  | .txbAbort n b => Sys2Proof.Machine.execTxbAbort n b s
  | .rxfPop n => Sys2Proof.Machine.execRxfPop n s
  | .registerWrite off be v => Sys2Proof.Machine.execRegisterWrite off be v s
  | .pcieMemoryRequest write off firstBe lastBe data => Sys2Proof.Machine.execPcieMemoryRequest write off firstBe lastBe data s
  | .pcieConfigRequest dword write => Sys2Proof.Machine.execPcieConfigRequest dword write s
  | .qspiWriteFrame bytes e => Sys2Proof.Machine.execQspiWriteFrame bytes e s
  | .qspiReadFrame bytes clocks => Sys2Proof.Machine.execQspiReadFrame bytes clocks s
  | .commandStart q flash => Sys2Proof.Machine.execCommandStart q flash s
  | .completionWrite => Sys2Proof.Machine.execCompletionWrite s
  | .nopCommand q user => Sys2Proof.Machine.execNopCommand q user s
  | .shedClear user => Sys2Proof.Machine.execShedClear user s
  | .runJob index param user => Sys2Proof.Machine.execRunJob index param user s
  | .parcelBegin len crc user flash => Sys2Proof.Machine.execParcelBegin len crc user flash s
  | .parcelData off data user flash => Sys2Proof.Machine.execParcelData off data user flash s
  | .parcelCommit user flash => Sys2Proof.Machine.execParcelCommit user flash s
  | .parcelAbort user => Sys2Proof.Machine.execParcelAbort user s
  | .fuseArm fuse user => Sys2Proof.Machine.execFuseArm fuse user s
  | .fuseBurn fuse code user => Sys2Proof.Machine.execFuseBurn fuse code user s
  | .fuseBurnDone blown => Sys2Proof.Machine.execFuseBurnDone blown s
  | .fuseArmExpiry => Sys2Proof.Machine.execFuseArmExpiry s
  | .ringHeadWrite v => Sys2Proof.Machine.execRingHeadWrite v s
  | .ringEnableWrite en => Sys2Proof.Machine.execRingEnableWrite en s
  | .hstCfifoPop => Sys2Proof.Machine.execHstCfifoPop s
  | .responseSelect ticket => Sys2Proof.Machine.execResponseSelect ticket s
  | .versionSelect v => Sys2Proof.Machine.execVersionSelect v s
  | .lock => Sys2Proof.Machine.execLock s
  | .irqHoldoffEnd => Sys2Proof.Machine.execIrqHoldoffEnd s
  | .perst low => Sys2Proof.Machine.execPerst low s
  | .powerUp vinMv => Sys2Proof.Machine.execPowerUp vinMv s
  | .powerOnResetRelease straps sref => Sys2Proof.Machine.execPowerOnResetRelease straps sref s
  | .crystalRetry qualified => Sys2Proof.Machine.execCrystalRetry qualified s
  | .loaderFinish => Sys2Proof.Machine.execLoaderFinish s
  | .vinWarn vinMv => Sys2Proof.Machine.execVinWarn vinMv s
  | .powerLoss vinMv => Sys2Proof.Machine.execPowerLoss vinMv s
  | .nreset lowNs => Sys2Proof.Machine.execNreset lowNs s
  | .pgood dom => Sys2Proof.Machine.execPgood dom s
  | .supwdt => Sys2Proof.Machine.execSupwdt s
  | .tjHigh tj => Sys2Proof.Machine.execTjHigh tj s
  | .therm tj => Sys2Proof.Machine.execTherm tj s
  | .thermRecovery tj => Sys2Proof.Machine.execThermRecovery tj s
  | .dozeRequest => Sys2Proof.Machine.execDozeRequest s
  | .dozeEntry => Sys2Proof.Machine.execDozeEntry s
  | .runRequest => Sys2Proof.Machine.execRunRequest s
  | .dozeExit => Sys2Proof.Machine.execDozeExit s
  | .hibernateRequest key => Sys2Proof.Machine.execHibernateRequest key s
  | .hibernateEntry enLow => Sys2Proof.Machine.execHibernateEntry enLow s
  | .wake byEn => Sys2Proof.Machine.execWake byEn s
  | .vinminWrite v => Sys2Proof.Machine.execVinminWrite v s
  | .tjPeakWrite v => Sys2Proof.Machine.execTjPeakWrite v s
  | .logEntryWrite => Sys2Proof.Machine.execLogEntryWrite s
  | .logTriggerFreeze => Sys2Proof.Machine.execLogTriggerFreeze s
  | .freeze => Sys2Proof.Machine.execFreeze s
  | .thaw => Sys2Proof.Machine.execThaw s
  | .logRdIdxWrite idx => Sys2Proof.Machine.execLogRdIdxWrite idx s
  | .vendorDebugAttach => Sys2Proof.Machine.execVendorDebugAttach s
  | .extest => Sys2Proof.Machine.execExtest s
  | .idcode => Sys2Proof.Machine.execIdcode s
  | .samplePreload pins preload => Sys2Proof.Machine.execSamplePreload pins preload s
  | .clamp => Sys2Proof.Machine.execClamp s
  | .highz => Sys2Proof.Machine.execHighz s
  | .vendorDebug op => Sys2Proof.Machine.execVendorDebug op s
  | .bypass => Sys2Proof.Machine.execBypass s
  | .markSample uv => Sys2Proof.Machine.execMarkSample uv s
  | .stepClock => Sys2Proof.Machine.execStepClock s
  | .safeInputSample siA siB => Sys2Proof.Machine.execSafeInputSample siA siB s
  | .offPulseStart tp => Sys2Proof.Machine.execOffPulseStart tp s
  | .offPulseEnd tp => Sys2Proof.Machine.execOffPulseEnd tp s
  | .srstPressBegin => Sys2Proof.Machine.execSrstPressBegin s
  | .nresetRelease straps sref => Sys2Proof.Machine.execNresetRelease straps sref s
  | .vinRecovery vinMv => Sys2Proof.Machine.execVinRecovery vinMv s
  | .canTxStart n => Sys2Proof.Machine.execCanTxStart n s
  | .vendorDebugDetach => Sys2Proof.Machine.execVendorDebugDetach s

end Sys2Proof.Machine
end

