-- ==== Sys2Proof/Safety.lean ====
section
/-! DEFINITION. The words the statements use: what a command leaves as it was, the state of an engine that is about to run an
instruction, and what a safe state of the Sheepdog is. -/

namespace Sys2Proof

open Sys2Proof.Machine

/-- The parts of the control die. -/
inductive Part where
  | regs | held | axLog | snap | tb | eng | mem | knl | axes | gear | mst | cap | stp | grp | segs | nodes | trk | can | host | boot
  | lgb | tap | dogIo | pwr | straps | inReset | fresh
  deriving DecidableEq, Repr

/-- The host port but for its interrupt messages and their hold-off. -/
def Machine.HostSt.still (h : HostSt) : HostSt := { h with irqMsgs := [], msixWait := [], holdEnd := none, holdPend := false }

/-- A part is the same in two states of the die. Interrupt messages leave, or wait, at the end of every command and are no
part of the host port here. -/
def Part.same (c d : Die) : Part → Prop
  | .regs => d.regs = c.regs
  | .held => d.held = c.held ∧ d.heldLow = c.heldLow ∧ d.land = c.land
  | .axLog => d.axLog = c.axLog
  | .snap => d.snap = c.snap
  | .tb => d.tb = c.tb
  | .eng => d.eng = c.eng
  | .mem => d.mem = c.mem
  | .knl => d.knl = c.knl
  | .axes => d.axes = c.axes
  | .gear => d.gear = c.gear
  | .mst => d.mst = c.mst
  | .cap => d.cap = c.cap
  | .stp => d.stp = c.stp ∧ d.stpClk = c.stpClk
  | .grp => d.grp = c.grp
  | .segs => d.segs = c.segs
  | .nodes => d.nodes = c.nodes
  | .trk => d.trk = c.trk
  | .can => d.can = c.can
  | .host => d.host.still = c.host.still
  | .boot => d.boot = c.boot
  | .lgb => d.lgb = c.lgb
  | .tap => d.tap = c.tap
  | .dogIo => d.dogIo = c.dogIo
  | .pwr => d.pwr = c.pwr
  | .straps => d.straps = c.straps
  | .inReset => d.inReset = c.inReset
  | .fresh => d.fresh = c.fresh

/-- Nothing changed but the parts named: the Sheepdog, what waits for it, the waiting commands and every other part of the die
stand. -/
def keepsBut (ps : List Part) (s t : State) : Prop :=
  t.dog = s.dog ∧ t.dogIn = s.dogIn ∧ t.pending = s.pending ∧ ∀ p, p ∉ ps → p.same s.die t.die

/-- Nothing of the control die changed but the parts named; the waiting commands and what waits for the Sheepdog stand. The
Sheepdog may change. -/
def dieBut (ps : List Part) (s t : State) : Prop :=
  t.pending = s.pending ∧ t.dogIn = s.dogIn ∧ ∀ p, p ∉ ps → p.same s.die t.die

/-- Every register but those of `p` reads as before. -/
def regsBut (p : Nat → Prop) (s t : State) : Prop := ∀ off, ¬ p off → getReg t.die off = getReg s.die off

/-- The die as a command finds it: the interrupt messages of the command before have left. -/
def found (s : State) : Die := { s.die with host := { s.die.host with irqMsgs := [] } }

/-- The host port takes a whole-word write of `v` at `off` at once (R339, R417) and rejects it for no reason of R340. -/
def accepts (s : State) (off v : Nat) : Prop :=
  hostTakes (found s) = true ∧ switching (found s) off = false ∧ judgeWrite (found s) false off 15 v = 0

/-- The die once host software has written a descriptor into the mailbox (R344). -/
def mailed (s : State) (ws : List Nat) : Die :=
  forEach ws.zipIdx (found s) fun d x => putReg d (Reg.HST_CMD_DESC (x.2 % 16)) (BitVec.ofNat 32 x.1)

/-- The host port takes writes at once (R339) and CMD_GO rejects the descriptor for no reason of R345. -/
def takes (s : State) (ws : List Nat) : Prop :=
  hostTakes (found s) = true ∧ judgeCmd (mailed s ws) (descWords (mailed s ws)) = 0

/-- The ticket that the next accepted command gets (R346). -/
def nextTicket (s : State) : Nat := fld s.die Reg.HST_STAT_NEXT

/-- The command was accepted (R345, R346): CMD_RESULT shows its ticket, NEXT has moved on, and a command of this opcode,
USER and queue is outstanding under the ticket. -/
def ticketed (s t : State) (op : Nat) (user : BitVec 16) (q : Nat) : Prop :=
  getReg t.die Reg.HST_CMD_RESULT = BitVec.ofNat 32 (nextTicket s + 2 ^ 24) ∧
  nextTicket t = (if nextTicket s = 0xFFFF then 1 else nextTicket s + 1) ∧
  ∃ c ∈ t.die.host.cmds, c.ticket = nextTicket s ∧ c.op = op ∧ c.user = user.toNat ∧ c.q = q

/-- A command of this ticket and opcode is done with a status (R347). -/
def doneWith (s t : State) (op : Nat) (p : Nat → Prop) : Prop :=
  ∃ c ∈ t.die.host.cmds, c.ticket = nextTicket s ∧ c.op = op ∧ c.done = true ∧ p c.status

/-- No command of a queue is running or waiting (R347). -/
def queueFree (s : State) (q : Nat) : Prop := ∀ c ∈ s.die.host.cmds, c.q = q → c.done = true

/-- The command ends in a next state with the property. -/
def ends (i : Instr) (s : State) (P : State → Prop) : Prop := ∃ t, exec i s = .next t ∧ P t

/-- Engine `e` runs task `t` and the word at its PC is `w` (R55, R160). -/
def atWord (s : State) (e : Fin 16) (t : Task) (w : Nat) : Prop :=
  issuing s.die e.val = some t ∧ fetch s.die t.ctx.pc.toNat = w

/-- The engine cycle in which an engine issues its next instruction (R55). -/
def issueCycle (s : State) (e : Nat) : Nat := max (engH s.die e).free s.die.tb.cyc

/-- The engine cycle in which an LDA or STA that engine `e` issues next makes its access: the first of its four in which the
engine owns its pack's port (R57). -/
def accessCycle (s : State) (e : Nat) : Nat := issueCycle s e + (e + 4 - issueCycle s e % 4) % 4

/-- No write of an axis-state word is known that comes later in the order of R58 than port `p` in engine cycle `c`. -/
def noneLater (s : State) (p c : Nat) : Prop := ∀ x ∈ s.die.axLog, x.cyc < c ∨ (x.cyc = c ∧ x.port ≤ p)

/-- The context of the active task of an engine. -/
def ctxOf (s : State) (e : Fin 16) : Option Ctx := (engH s.die e.val).active.map (·.ctx)

/-- The moves of a class M word load nothing into D register `i` (R77). -/
def spares (w i : Nat) : Prop :=
  (bitOf w 23 = true → bitOf w 22 = false → bitsOf w 13 4 ≠ i) ∧ (bitOf w 11 = true → bitsOf w 2 4 ≠ i)

/-- The value limited to 24 bits, signed (R65). -/
def sat24 (x : Int) : Int := clampI x (-8388608) 8388607

/-- The value limited to 48 bits, signed (R65). -/
def sat48 (x : Int) : Int := clampI x (-140737488355328) 140737488355327

/-- The value limited to `n` bits, signed (R67). -/
def satN (n : Nat) (x : Int) : Int := clampI x (-(2 ^ (n - 1))) (2 ^ (n - 1) - 1)

/-- The two halves of an accumulator as one word (R60). -/
def halves (re im : Int) : BitVec 128 := BitVec.ofNat 128 (wrap 64 re + 2 ^ 64 * wrap 64 im)

/-- The flags after a result `r`: saturated, clamped up or down in an exponent, changed by CLMP (R85, R65, R74). -/
def flagsAfter (o : Flags) (r : Int) (sat up down lim : Bool) : Flags :=
  { o with z := decide (r = 0), n := decide (r < 0), v := sat || up || down, lim := lim, sat := o.sat || sat,
           eovf := o.eovf || up, eunf := o.eunf || down }

/-- The command writes `x` to D[A] of engine `e`, which ran in context `c`, with flags `f`; exponents, accumulators and
the D registers that no move loads stand. -/
def writesD (i : Instr) (s : State) (e : Fin 16) (c : Ctx) (w : Nat) (x : DWord) (f : Flags) : Prop :=
  ends i s fun s' => ∃ c', ctxOf s' e = some c' ∧ dReg c' (iA w) = x ∧ c'.sr = f ∧ c'.e = c.e ∧ c'.acc = c.acc ∧
    c'.xa = c.xa ∧ c'.am = c.am ∧ ∀ j, j ≠ iA w → spares w j → dReg c' j = dReg c j

/-- The command leaves accumulator AC with these halves, exponent and mode, and flags `f`; the other accumulators, the
exponents and the D registers that no move loads stand. -/
def writesAcc (i : Instr) (s : State) (e : Fin 16) (c : Ctx) (w : Nat) (a : BitVec 128) (xa : BitVec 10) (am : Bool)
    (f : Flags) : Prop :=
  ends i s fun s' => ∃ c', ctxOf s' e = some c' ∧ vget 0 c'.acc (iAC w) = a ∧ vget 0 c'.xa (iAC w) = xa ∧
    vget false c'.am (iAC w) = am ∧ c'.sr = f ∧ c'.e = c.e ∧
    (∀ j, j ≠ iAC w → vget 0 c'.acc j = vget 0 c.acc j ∧ vget 0 c'.xa j = vget 0 c.xa j ∧
      vget false c'.am j = vget false c.am j) ∧
    ∀ j, spares w j → dReg c' j = dReg c j

/-- The registers of one loop engine (LE_n_*). -/
def leBlock (e off : Nat) : Prop := 0x8000 + 0x400 * e ≤ off ∧ off < 0x8400 + 0x400 * e

/-- The engine memories are in canonical form. -/
def memWf (m : Mem) : Bool := swf imemDefault m.imem && swf 0 m.ymem && swf 0 m.xram

/-- The instructions of an engine but DONE (R80). -/
def engineCmds (e : Fin 16) (ecc : Ecc) : List Instr :=
  [.nop e ecc, .cmac e ecc, .cmacc e ecc, .cmsu e ecc, .cmpy e ecc, .dmac e ecc, .dmsu e ecc, .dmpy e ecc,
   .pmac e ecc, .pmpy e ecc, .aclr e ecc, .rnd e ecc, .prnd e ecc, .add e ecc, .sub e ecc, .max e ecc,
   .min e ecc, .clmp e ecc, .neg e ecc, .abs e ecc, .conj e ecc, .mov e ecc, .swp e ecc, .padd e ecc,
   .paddw e ecc, .psub e ecc, .psubw e ecc, .nsc e ecc, .nsca e ecc, .shlv e ecc, .pshv e ecc, .esub e ecc,
   .efd e ecc, .dfe e ecc, .ldi e ecc, .eldi e ecc, .pset e ecc, .shr e ecc, .pshr e ecc, .lda e ecc,
   .sta e ecc, .yst e ecc, .jmp e ecc, .jcc e ecc, .call e ecc, .ret e ecc, .loop e ecc, .loopr e ecc,
   .post e ecc]

/-- A capture channel can take a trigger at sample `it`: ARMED, past its hold-off, gate passed, a slot free (R177, R178). -/
def channelReady (d : Die) (c it : Nat) : Prop :=
  chState d c = 1 ∧ inHoldoff d c it = false ∧ gateOk d c = true ∧ slotFree d c = true

/-- Channel `c` acquires the window of a trigger at GT `t`, sample `it` (R176, R178). -/
def acquiring (s s' : State) (c t it : Nat) : Prop :=
  chState s'.die c = 2 ∧
  fld s'.die (Reg.CAP_CH_WRSEQ_SEQ c) = (fld s.die (Reg.CAP_CH_WRSEQ_SEQ c) + 1) % 2 ^ 28 ∧
  ∃ a, (chanH s'.die c).acq = some a ∧ a.seq = fld s.die (Reg.CAP_CH_WRSEQ_SEQ c) ∧ a.tTrig = t ∧
    a.want = winPre s.die c + winPost s.die c ∧ a.i0 = (it : Int) - winPre s.die c

/-- A trunk frame arrives that no command has told of yet: over a link in lock that is not OPEN, block after block good, and
not outside its window (R254, R257, R270). -/
def arrives (s : State) (f : TrunkFrame) : Prop :=
  portCarries s.die f.port.val = true ∧ (tportH s.die f.port.val).seen.map (·.1) ≠ some f.rx ∧
  (tportH s.die f.port.val).fails < 3 ∧ (∀ x ∈ bounds f.line, x.2 = .good) ∧ f.begins = true ∧ windowPass s.die f = true

/-- A trunk frame arrives that the checks of R265 accept, as one of this kind from this sender. -/
def arrivesSound (s : State) (f : TrunkFrame) (kind sender : Nat) : Prop :=
  arrives s f ∧ frameSound s.die f = true ∧ slKind s.die f.slot.val = kind ∧ f.src.val = sender ∧
  leAt f.payload 0 1 / 16 = 1

/-- This part sent a frame of one block in slot `i` with payload `p` (R258, R265): its CRC-32 closes the payload, and its
blocks leave every port that is used, not OPEN and free at the slot's instant. -/
def sentIn (s t : State) (i : Nat) (p : List Byte) : Prop :=
  let at_ := 256 * slotGt s.die (cycleFirst s.die) i
  t.die.trk.ownFrame = some (i, p) ∧ p.length = 56 ∧ leAt p 52 4 = crc32 (p.take 52) ∧ leAt p 0 1 = 0x10 ∧
  ∀ q, q < 3 → ctOn s.die q = true → flag s.die (Reg.CTR_P_CFG_USED q) = true → flag s.die (Reg.CTR_P_CFG_OPEN q) = false →
    (tportH s.die q).busyUntil + blockTime ≤ 5 * at_ →
    ∃ o, (tportH t.die q).out = some o ∧ o.at_ = at_ ∧ o.blocks = frameBlocks (nodeId s.die) i p

/-- The number of the control die's next link message is not that of the last one the Sheepdog took (R290). -/
def toDogFresh (s : State) : Prop := s.dog.rxSeq ≠ some s.die.dogIo.txSeq

/-- The number of the Sheepdog's next link message is not that of the last one the control die took (R290). -/
def toDieFresh (s : State) : Prop := s.die.dogIo.rxSeq ≠ some s.dog.txSeq

/-- No output of the Sheepdog is on unless the island is RUN (R300, R304). -/
def dogSafe (g : Dog) : Prop := g.run = false → g.so = 0

end Sys2Proof
end

