-- ==== Sys2Proof/WellFormed.lean ====
section
/-! DEFINITION. Which commands can come from outside: the sizes that the wires and descriptors give their operands. A
command with other sizes is no command of the part; `exec` is total on it all the same. -/

namespace Sys2Proof

/-- A line is as long as it says, and holds the 58 bits before its first boundary (R250). -/
def LineBits.wellFormed (l : LineBits) : Bool := 58 ≤ l.len && l.bits < 2 ^ l.len

/-- The line of a frame holds at least one block (R252). -/
def TrunkFrame.wellFormed (f : TrunkFrame) : Bool := f.line.wellFormed && 58 + 512 ≤ f.line.len

/-- Data bytes of a CAN frame by its DLC: at most 8 in a classical frame, none in a remote one (R315). -/
def CanFrame.bytes (f : CanFrame) : Nat :=
  if f.rtr then 0
  else if !f.fdf then min f.dlc.toNat 8
  else [0, 1, 2, 3, 4, 5, 6, 7, 8, 12, 16, 20, 24, 32, 48, 64].getD f.dlc.toNat 0

/-- A CAN frame of ISO 11898-1: its data fit the DLC, an FD frame is no remote frame, a base identifier has 11 bits, and
BRS and ESI stand only in FD frames (R315). -/
def CanFrame.wellFormed (f : CanFrame) : Bool :=
  f.data.length == f.bytes && !(f.fdf && f.rtr) && (f.ide || f.id.toNat < 2 ^ 11) && (f.fdf || !(f.brs || f.esi))

/-- The sizes of a command's operands: a Leash header is 40 bytes (R208), in-slots are 8 or 16 (R209), a beat body has at
most 1,024 bytes of padding and 48 slot pairs (R208, R209), a ROLL body is 512 bytes (R223) and an MBX body at most 512
(R208); a line of the trunk begins with the 58 bits before its first boundary (R250); a descriptor has at most 14 words after W1 (R344, R345); a PCIe request
names 1 to 1,024 whole dwords (R337); a mark input sees 0 V to 10 V (R167). -/
def Instr.wellFormed : Instr → Bool
  | .beatEdge => true
  | .inputDeadline => true
  | .outputPhase => true
  | .shedSuspensionEnd => true
  | .stopEnd _ => true
  | .frameClose => true
  | .gtStep => true
  | .beatNumRead => true
  | .lowWordRead _ => true
  | .beatMarginWrite _ => true
  | .nop _ _ => true
  | .cmac _ _ => true
  | .cmacc _ _ => true
  | .cmsu _ _ => true
  | .cmpy _ _ => true
  | .dmac _ _ => true
  | .dmsu _ _ => true
  | .dmpy _ _ => true
  | .pmac _ _ => true
  | .pmpy _ _ => true
  | .aclr _ _ => true
  | .rnd _ _ => true
  | .prnd _ _ => true
  | .add _ _ => true
  | .sub _ _ => true
  | .max _ _ => true
  | .min _ _ => true
  | .clmp _ _ => true
  | .neg _ _ => true
  | .abs _ _ => true
  | .conj _ _ => true
  | .mov _ _ => true
  | .swp _ _ => true
  | .padd _ _ => true
  | .paddw _ _ => true
  | .psub _ _ => true
  | .psubw _ _ => true
  | .nsc _ _ => true
  | .nsca _ _ => true
  | .shlv _ _ => true
  | .pshv _ _ => true
  | .esub _ _ => true
  | .efd _ _ => true
  | .dfe _ _ => true
  | .ldi _ _ => true
  | .eldi _ _ => true
  | .pset _ _ => true
  | .shr _ _ => true
  | .pshr _ _ => true
  | .lda _ _ => true
  | .sta _ _ => true
  | .yst _ _ => true
  | .jmp _ _ => true
  | .jcc _ _ => true
  | .call _ _ => true
  | .ret _ _ => true
  | .loop _ _ => true
  | .loopr _ _ => true
  | .doneTask _ _ => true
  | .post _ _ => true
  | .yUpdatePortWrite => true
  | .precedencePortAccept => true
  | .sharedPortAccept => true
  | .dispatch => true
  | .preempt => true
  | .engineEnd => true
  | .pawprintDrain => true
  | .pawprintStop => true
  | .pawprintCtlWrite _ => true
  | .axisReqWrite _ _ => true
  | .axisClr _ => true
  | .trackerRestart _ => true
  | .naFreqWrite _ _ => true
  | .quadratureEdge _ _ _ => true
  | .analogueConversion _ _ _ => true
  | .gearUnitRun => true
  | .masterLost => true
  | .ack => true
  | .rebase => true
  | .lsModeWrite _ _ => true
  | .trimclr _ => true
  | .engagingEnd _ => true
  | .home _ _ => true
  | .markCrossing _ => true
  | .floodHoldExpiry _ _ => true
  | .rippleRecord => true
  | .triggerEdge _ _ _ => true
  | .xtEdge _ _ => true
  | .xtPulseEnd _ => true
  | .softwareTrigger _ _ => true
  | .windowEnd _ => true
  | .recordComplete _ => true
  | .arm _ _ => true
  | .disarm _ => true
  | .freeseqWrite _ _ => true
  | .stepCarry _ => true
  | .stepPulseEnd _ => true
  | .dirChange _ => true
  | .accumulationResume _ => true
  | .leadCarry _ => true
  | .stepMove _ d _ => d.length ≤ 14
  | .stepHome _ _ => true
  | .hmInputChange _ _ => true
  | .stpStop _ => true
  | .groupStop _ => true
  | .stepModeWrite _ _ => true
  | .stepVelWrite _ _ => true
  | .stepPosWrite _ _ => true
  | .inSlotAccept _ _ hdr bytes _ => hdr.length == 40 && (bytes.length == 8 || bytes.length == 16)
  | .beatFrameEnd _ hdr body _ _ => hdr.length == 40 && body.length ≤ 1024 + 48 * 32
  | .acyclicFrameSend _ => true
  | .rollFrameReturn _ hdr body _ => hdr.length == 40 && body.length == 512
  | .admissionEffective _ _ => true
  | .admissionTimeout _ _ => true
  | .nodeLost _ _ => true
  | .mbxFrameReturn _ hdr body _ => hdr.length == 40 && body.length ≤ 512
  | .mailboxTimeout _ _ => true
  | .leashMbx _ _ _ data _ => data.length ≤ 56
  | .leashReadmit _ _ _ => true
  | .rxSyncChange _ _ => true
  | .sgmiiSpeedReport _ _ => true
  | .schedWrite _ _ => true
  | .snapshotRestore _ _ => true
  | .twolineLaunch _ => true
  | .leashSwitchback _ _ => true
  | .switchbackEnd _ => true
  | .leashProof _ _ => true
  | .proofPhaseEnd _ => true
  | .trunkLock x => x.line.wellFormed
  | .trunkLockLoss _ line => line.wellFormed
  | .idleBlockReceived _ line _ _ => line.wellFormed && 58 + 512 ≤ line.len
  | .trunkFrameForward p line rx => TrunkFrame.wellFormed ⟨p, line, rx⟩
  | .postmarkReceived f => f.wellFormed
  | .stFrameReceived f => f.wellFormed
  | .msFrameReceived f => f.wellFormed
  | .ttFrameReceived f => f.wellFormed
  | .hreqFrameReceived f => f.wellFormed
  | .hrspFrameReceived f => f.wellFormed
  | .postmarkSend => true
  | .stSend _ => true
  | .msSend _ => true
  | .ttSend _ => true
  | .hreqSend _ => true
  | .hrspSend _ => true
  | .trunkCycleStart => true
  | .listenTimerExpiry => true
  | .takeover => true
  | .postmarkLoss => true
  | .trunkStopEffect => true
  | .trunkStop _ _ => true
  | .trunkStart _ => true
  | .trunkStartNosync => true
  | .bar2PostedWrite _ _ _ _ => true
  | .bar2Read _ _ _ => true
  | .memberReadTimeout => true
  | .memberLost _ => true
  | .deadLetterPop => true
  | .safetyCycle _ => true
  | .ss1TimerExpiry _ => true
  | .pairDiscrepancy _ => true
  | .testPulseCheckpoint _ _ _ _ _ _ _ => true
  | .outputSwitchTest _ _ _ => true
  | .outputOffTimeout _ => true
  | .diagSelfTest _ _ => true
  | .srstPress _ _ => true
  | .srstHeld => true
  | .releaseTestEnd _ _ _ => true
  | .heartbeat => true
  | .heartbeatWindowEnd => true
  | .safetySectionLoad _ => true
  | .safetyWordHandover => true
  | .ss1StoMessage => true
  | .ss1StoMessageTimeout => true
  | .lsafeWatchdog _ _ => true
  | .sheepdogEvent => true
  | .canFrameReceived _ f _ => f.wellFormed
  | .canTxEnd _ _ _ _ => true
  | .canBusError _ _ _ _ => true
  | .protocolException _ => true
  | .canSyncDone _ => true
  | .canRecoveryDone _ => true
  | .canModeChangeAtIdle _ => true
  | .canReqOff _ => true
  | .canReqNormal _ => true
  | .canReqRestricted _ => true
  | .canRecover _ => true
  | .canBitTimingWrite _ _ _ => true
  | .txbReq _ _ _ => true
  | .txbAbort _ _ => true
  | .rxfPop _ => true
  | .registerWrite _ _ _ => true
  | .pcieMemoryRequest _ off _ _ data => off.toNat % 4 == 0 && 1 ≤ data.length && data.length ≤ 1024
  | .pcieConfigRequest _ _ => true
  | .qspiWriteFrame _ _ => true
  | .qspiReadFrame _ _ => true
  | .commandStart _ _ => true
  | .completionWrite => true
  | .nopCommand _ _ => true
  | .shedClear _ => true
  | .runJob _ _ _ => true
  | .parcelBegin _ _ _ _ => true
  | .parcelData _ data _ _ => data.length ≤ 14
  | .parcelCommit _ _ => true
  | .parcelAbort _ => true
  | .fuseArm _ _ => true
  | .fuseBurn _ _ _ => true
  | .fuseBurnDone _ => true
  | .fuseArmExpiry => true
  | .ringHeadWrite _ => true
  | .ringEnableWrite _ => true
  | .hstCfifoPop => true
  | .responseSelect _ => true
  | .versionSelect _ => true
  | .lock => true
  | .irqHoldoffEnd => true
  | .perst _ => true
  | .powerUp _ => true
  | .powerOnResetRelease _ _ => true
  | .crystalRetry _ => true
  | .loaderFinish => true
  | .vinWarn _ => true
  | .powerLoss _ => true
  | .nreset _ => true
  | .pgood _ => true
  | .supwdt => true
  | .tjHigh _ => true
  | .therm _ => true
  | .thermRecovery _ => true
  | .dozeRequest => true
  | .dozeEntry => true
  | .runRequest => true
  | .dozeExit => true
  | .hibernateRequest _ => true
  | .hibernateEntry _ => true
  | .wake _ => true
  | .vinminWrite _ => true
  | .tjPeakWrite _ => true
  | .logEntryWrite => true
  | .logTriggerFreeze => true
  | .freeze => true
  | .thaw => true
  | .logRdIdxWrite _ => true
  | .vendorDebugAttach => true
  | .extest => true
  | .idcode => true
  | .samplePreload _ _ => true
  | .clamp => true
  | .highz => true
  | .vendorDebug _ => true
  | .bypass => true
  | .markSample uv => uv.toList.all fun x => x ≤ 10000000
  | .stepClock => true
  | .safeInputSample _ _ => true
  | .offPulseStart _ => true
  | .offPulseEnd _ => true
  | .srstPressBegin => true
  | .nresetRelease _ _ => true
  | .vinRecovery _ => true
  | .canTxStart _ => true
  | .vendorDebugDetach => true

end Sys2Proof
end

