-- ==== Sys2Proof/Certificates/Slice0/Obligations.lean ====
section
/-! DEFINITION. The statements for the provers, family by family. -/

open Sys2Proof Sys2Proof.Machine

/-! ### Loop engines -/

/-- R69, R70, R65, R125: a right shift of a lane is the nearest integer, ties to even, limited to 24 bits; of a paired value,
floor((a + 2^(s − 1)) / 2^s), limited to 48 bits;
isqrt is the floor of the square root; rhu(n / d) is floor(n / d + 1/2). R17 to R20: beat edges, the beat index of an
instant, and which of two beat numbers precedes: a precedes b when (b - a) mod 2^32 lies in 1 to 2^31 - 1. -/
def Obligations.ArithmeticOfTheRules : Prop :=
  ((∀ (a : Int) (s : Nat), 1 ≤ s → let q := convShr a s;
    -(2 ^ s : Int) ≤ 2 * (a - q * 2 ^ s) ∧ 2 * (a - q * 2 ^ s) ≤ 2 ^ s ∧
      ((2 * (a - q * 2 ^ s)).natAbs = 2 ^ s → q % 2 = 0) ∧ (shiftLane a (-(s : Int))).1 = sat24 q) ∧
  (∀ (a : Int) (s : Nat), 1 ≤ s → let q := halfUpShr a s;
    q * 2 ^ s ≤ a + 2 ^ (s - 1) ∧ a + 2 ^ (s - 1) < (q + 1) * 2 ^ s ∧ (shiftPair a (-(s : Int))).1 = sat48 q) ∧
  (∀ n d : Int, 0 < d → 2 * d * rhu n d ≤ 2 * n + d ∧ 2 * n + d < 2 * d * (rhu n d + 1)) ∧
  (∀ n : Nat, n < 2 ^ 192 → isqrt n * isqrt n ≤ n ∧ n < (isqrt n + 1) * (isqrt n + 1)) ∧
  (∀ x : Int, (satTo 24 x).1 = sat24 x ∧ ((satTo 24 x).2 = true ↔ sat24 x ≠ x)) ∧
  ∀ x : Int, (satTo 48 x).1 = sat48 x ∧ ((satTo 48 x).2 = true ↔ sat48 x ≠ x)) ∧
  ((∀ f k : Nat, 0 < f → edgeGt f k * f ≤ k * 1000000000 ∧ k * 1000000000 < (edgeGt f k + 1) * f) ∧
  (∀ f gt : Nat, 0 < f → f ≤ 1000000000 → edgeGt f (beatAt f gt) ≤ gt ∧ gt < edgeGt f (beatAt f gt + 1)) ∧
  (∀ a b : Nat, precedes 32 a b = true ↔
    1 ≤ ((b : Int) - a) % 2 ^ 32 ∧ ((b : Int) - a) % 2 ^ 32 ≤ 2 ^ 31 - 1) ∧
  (∀ w a b : Nat, 1 ≤ w → a < 2 ^ w → b < 2 ^ w → a ≠ b → (b + 2 ^ w - a) % 2 ^ w ≠ 2 ^ (w - 1) →
    (precedes w a b = true ↔ precedes w b a = false)) ∧
  ∀ w a : Nat, precedes w a a = false)

/-- R73, R65, R80, R85: ADD, SUB, MAX, MIN, CLMP write D[A] and the flags from D[B] and D[C] aligned to E[EX], lane by
lane, and complete in every state in which the engine is at such a word. -/
def Obligations.TwoOperandLaneResults : Prop :=
  ∀ (s : State) (e : Fin 16) (k : Ecc) (t : Task) (w : Nat), k.bad = false → atWord s e t w → usedM useTwo w = true →
    moveFaults t.ctx w = [] → spares w (iA w) →
    let c := t.ctx
    let br := laneRe (dReg c (iB w))
    let bi := laneIm (dReg c (iB w))
    let sh := lim47 (expReg c (iEY w) - expReg c (iEX w))
    let x := (shiftLane (laneRe (dReg c (iC w))) sh).1
    let y := (shiftLane (laneIm (dReg c (iC w))) sh).1
    let al := (shiftLane (laneRe (dReg c (iC w))) sh).2 || (shiftLane (laneIm (dReg c (iC w))) sh).2
    let gives (i : Instr) (re im : Int) (sat lim : Bool) : Prop :=
      writesD i s e c w (mkLanes re im) (flagsAfter c.sr re sat false false lim)
    (iOp w = 0x0D → gives (.add e k) (sat24 (br + x)) (sat24 (bi + y))
      (al || decide (sat24 (br + x) ≠ br + x) || decide (sat24 (bi + y) ≠ bi + y)) false) ∧
    (iOp w = 0x0E → gives (.sub e k) (sat24 (br - x)) (sat24 (bi - y))
      (al || decide (sat24 (br - x) ≠ br - x) || decide (sat24 (bi - y) ≠ bi - y)) false) ∧
    (iOp w = 0x0F → gives (.max e k) (max br x) (max bi y) al false) ∧
    (iOp w = 0x10 → gives (.min e k) (min br x) (min bi y) al false) ∧
    (iOp w = 0x11 →
      let lx := sat24 x.natAbs
      let ly := sat24 y.natAbs
      let re := min (max br (-lx)) lx
      let im := min (max bi (-ly)) ly
      gives (.clmp e k) re im (al || decide (lx ≠ (x.natAbs : Int)) || decide (ly ≠ (y.natAbs : Int)))
        (decide (re ≠ br) || decide (im ≠ bi)))

/-- R65, R64, R71, R80, R81, R85: NEG, ABS, CONJ, MOV, SWP, NSC, NSCA and SHLV write D[A] and the flags from D[B], lane by lane.
R70, R73: PADD, PADDW, PSUB, PSUBW and PSHV write D[A] as a paired value; the wrapping pair never saturates. -/
def Obligations.OneOperandAndPairedResults : Prop :=
  (∀ (s : State) (e : Fin 16) (k : Ecc) (t : Task) (w : Nat), k.bad = false → atWord s e t w → moveFaults t.ctx w = [] → spares w (iA w) →
    let c := t.ctx
    let br := laneRe (dReg c (iB w))
    let bi := laneIm (dReg c (iB w))
    let gives (i : Instr) (re im : Int) (sat : Bool) : Prop :=
      writesD i s e c w (mkLanes re im) (flagsAfter c.sr re sat false false false)
    (usedM useOne w = true →
      (iOp w = 0x12 → gives (.neg e k) (sat24 (-br)) (sat24 (-bi)) (decide (br = -8388608) || decide (bi = -8388608))) ∧
      (iOp w = 0x13 → gives (.abs e k) (sat24 br.natAbs) (sat24 bi.natAbs)
        (decide (br = -8388608) || decide (bi = -8388608))) ∧
      (iOp w = 0x14 → gives (.conj e k) br (sat24 (-bi)) (decide (bi = -8388608))) ∧
      (iOp w = 0x15 → gives (.mov e k) br bi false) ∧
      (iOp w = 0x16 → gives (.swp e k) bi br false) ∧
      (iOp w = 0x1B → gives (.nsc e k) (min (rsb br) (rsb bi) : Nat) 0 false) ∧
      (iOp w = 0x1C → gives (.nsca e k) (min (laneRe (dReg c (iA w))) (min (rsb br) (rsb bi) : Nat)) 0 false)) ∧
    (usedM (useMask true true true false false false) w = true → iOp w = 0x1D →
      let n := lim47 (laneRe (dReg c (iC w)))
      gives (.shlv e k) (shiftLane br n).1 (shiftLane bi n).1 ((shiftLane br n).2 || (shiftLane bi n).2))) ∧
  (∀ (s : State) (e : Fin 16) (k : Ecc) (t : Task) (w : Nat), k.bad = false → atWord s e t w → moveFaults t.ctx w = [] → spares w (iA w) →
    let c := t.ctx
    let b := paired (dReg c (iB w))
    let sh := lim47 (expReg c (iEY w) - expReg c (iEX w))
    let x := shiftPair (paired (dReg c (iC w))) sh
    let xw := if 0 ≤ sh then paired (dReg c (iC w)) * 2 ^ sh.toNat else halfUpShr (paired (dReg c (iC w))) (-sh).toNat
    let gives (i : Instr) (r : Int) (sat : Bool) : Prop :=
      writesD i s e c w (mkPaired r) (flagsAfter c.sr r sat false false false)
    (usedM useTwo w = true →
      (iOp w = 0x17 → gives (.padd e k) (sat48 (b + x.1)) (x.2 || decide (sat48 (b + x.1) ≠ b + x.1))) ∧
      (iOp w = 0x18 → gives (.paddw e k) (sext 48 (wrap 48 (b + xw))) false) ∧
      (iOp w = 0x19 → gives (.psub e k) (sat48 (b - x.1)) (x.2 || decide (sat48 (b - x.1) ≠ b - x.1))) ∧
      (iOp w = 0x1A → gives (.psubw e k) (sext 48 (wrap 48 (b - xw))) false)) ∧
    (usedM (useMask true true true false false false) w = true → iOp w = 0x1E →
      let n := lim47 (laneRe (dReg c (iC w)))
      gives (.pshv e k) (shiftPair b n).1 (shiftPair b n).2))


/-- R66, R67, R68, R85: the accumulating instructions add or subtract their aligned products to a lane-mode accumulator,
half by half with 64-bit saturation; PMAC to a paired one with 128-bit saturation. -/
def Obligations.AccumulatingResults : Prop :=
  ∀ (s : State) (e : Fin 16) (k : Ecc) (t : Task) (w : Nat), k.bad = false → atWord s e t w → usedM useMac w = true → moveFaults t.ctx w = [] →
    let c := t.ctx
    let a := iAC w
    let br := laneRe (dReg c (iB w))
    let bi := laneIm (dReg c (iB w))
    let cr := laneRe (dReg c (iC w))
    let ci := laneIm (dReg c (iC w))
    let sh := expReg c (iEX w) + expReg c (iEY w) - accExp c a
    let gives (i : Instr) (re im : Int) : Prop :=
      writesAcc i s e c w (halves (satN 64 re) (satN 64 im)) (vget 0 c.xa a) false
        (flagsAfter c.sr (satN 64 re) (decide (satN 64 re ≠ re) || decide (satN 64 im ≠ im)) false false false)
    (accMode c a = false →
      (iOp w = 0x01 → gives (.cmac e k) (accRe c a + alignProd (br * cr - bi * ci) sh)
        (accIm c a + alignProd (br * ci + bi * cr) sh)) ∧
      (iOp w = 0x02 → gives (.cmacc e k) (accRe c a + alignProd (br * cr + bi * ci) sh)
        (accIm c a + alignProd (bi * cr - br * ci) sh)) ∧
      (iOp w = 0x03 → gives (.cmsu e k) (accRe c a - alignProd (br * cr - bi * ci) sh)
        (accIm c a - alignProd (br * ci + bi * cr) sh)) ∧
      (iOp w = 0x05 → gives (.dmac e k) (accRe c a + alignProd (br * cr) sh) (accIm c a + alignProd (bi * ci) sh)) ∧
      (iOp w = 0x06 → gives (.dmsu e k) (accRe c a - alignProd (br * cr) sh) (accIm c a - alignProd (bi * ci) sh))) ∧
    (accMode c a = true → iOp w = 0x08 →
      let x := accPair c a + alignProd (paired (dReg c (iB w)) * cr) sh
      writesAcc (.pmac e k) s e c w (BitVec.ofNat 128 (wrap 128 (satN 128 x))) (vget 0 c.xa a) true
        (flagsAfter c.sr (satN 128 x) (decide (satN 128 x ≠ x)) false false false))

/-- R67, R68, R72, R85: CMPY, DMPY, PMPY and ACLR set the accumulator, its exponent and its mode, whatever the mode was; RND and
PRND round an accumulator to exponent E[EY] into D[A]. -/
def Obligations.AccumulatorResults : Prop :=
  (∀ (s : State) (e : Fin 16) (k : Ecc) (t : Task) (w : Nat), k.bad = false → atWord s e t w → moveFaults t.ctx w = [] →
    let c := t.ctx
    let br := laneRe (dReg c (iB w))
    let bi := laneIm (dReg c (iB w))
    let cr := laneRe (dReg c (iC w))
    let ci := laneIm (dReg c (iC w))
    let xa := BitVec.ofNat 10 (wrap 10 (expReg c (iEX w) + expReg c (iEY w)))
    let gives (i : Instr) (re im : Int) (am : Bool) : Prop :=
      writesAcc i s e c w (halves re im) xa am (flagsAfter c.sr re false false false false)
    (usedM useMac w = true →
      (iOp w = 0x04 → gives (.cmpy e k) (br * cr - bi * ci) (br * ci + bi * cr) false) ∧
      (iOp w = 0x07 → gives (.dmpy e k) (br * cr) (bi * ci) false) ∧
      (iOp w = 0x09 →
        let x := paired (dReg c (iB w)) * cr
        writesAcc (.pmpy e k) s e c w (BitVec.ofNat 128 (wrap 128 x)) xa true
          (flagsAfter c.sr x false false false false))) ∧
    (usedM (useMask false false false true true true + 2 ^ 30) w = true → iOp w = 0x0A →
      gives (.aclr e k) 0 0 (bitOf w 30))) ∧
  (∀ (s : State) (e : Fin 16) (k : Ecc) (t : Task) (w : Nat), k.bad = false → atWord s e t w → usedM (useMask true false false false true true) w = true →
    moveFaults t.ctx w = [] → spares w (iA w) →
    let c := t.ctx
    let a := iAC w
    let n := accExp c a - 23 - expReg c (iEY w)
    (accMode c a = false → iOp w = 0x0B →
      let re := shiftLane (accRe c a) n
      let im := shiftLane (accIm c a) n
      writesD (.rnd e k) s e c w (mkLanes re.1 im.1) (flagsAfter c.sr re.1 (re.2 || im.2) false false false)) ∧
    (accMode c a = true → iOp w = 0x0C →
      let x := shiftPair (accPair c a) n
      writesD (.prnd e k) s e c w (mkPaired x.1) (flagsAfter c.sr x.1 x.2 false false false)))

/-- R74, R80, R81: NOP changes no register but those of its moves; ESUB, EFD and ELDI write exponents; DFE, LDI, SHR and
PSHR write D[A]; PSET a pointer register. Class I instructions and NOP, EFD, DFE leave the flags. -/
def Obligations.ExponentImmediateAndShiftResults : Prop :=
  ∀ (s : State) (e : Fin 16) (k : Ecc) (t : Task) (w : Nat), k.bad = false → atWord s e t w →
    let c := t.ctx
    let b := dReg c (iB w)
    let n := min (bitsOf w 0 6) 47
    let loads (i : Instr) (x : DWord) : Prop := ends i s fun s' => ctxOf s' e = some (flowNext (putD c (iA w) x))
    (usedM 0 w = true → moveFaults c w = [] → iOp w = 0 → ends (.nop e k) s fun s' =>
      ∃ c', ctxOf s' e = some c' ∧ c'.sr = c.sr ∧ c'.e = c.e ∧ c'.acc = c.acc ∧ ∀ j, spares w j → dReg c' j = dReg c j) ∧
    (usedM (useMask true true false true false false) w = true → moveFaults c w = [] → spares w (iA w) → iOp w = 0x1F →
      let want := expReg c (iEX w) - laneRe b
      let new := clampI want (-128) 127
      ends (.esub e k) s fun s' => ∃ c', ctxOf s' e = some c' ∧ expReg c' (iEX w) = new ∧
        dReg c' (iA w) = mkLanes (expReg c (iEX w) - new) 0 ∧
        c'.sr = flagsAfter c.sr (expReg c (iEX w) - new) false (decide (127 < want)) (decide (want < -128)) false) ∧
    (usedM (useMask false true false true false false) w = true → moveFaults c w = [] → iOp w = 0x20 →
      ends (.efd e k) s fun s' => ∃ c', ctxOf s' e = some c' ∧ expReg c' (iEX w) = sext 8 b.toNat ∧ c'.sr = c.sr) ∧
    (usedM (useMask true false false true false false) w = true → moveFaults c w = [] → spares w (iA w) → iOp w = 0x21 →
      ends (.dfe e k) s fun s' => ∃ c', ctxOf s' e = some c' ∧ dReg c' (iA w) = mkLanes (expReg c (iEX w)) 0 ∧
        c'.sr = c.sr) ∧
    (iOp w = 0x22 → usedI (fieldMask 41 38 + 2 ^ 24 + fieldMask 23 0) w = true → ends (.ldi e k) s fun s' =>
      ∃ c', ctxOf s' e = some c' ∧
        bitsOf (dReg c' (iA w)).toNat (if bitOf w 24 then 24 else 0) 24 = bitsOf w 0 24 ∧
        bitsOf (dReg c' (iA w)).toNat (if bitOf w 24 then 0 else 24) 24 =
          bitsOf (dReg c (iA w)).toNat (if bitOf w 24 then 0 else 24) 24 ∧ c'.sr = c.sr) ∧
    (iOp w = 0x23 → usedI (fieldMask 39 38 + fieldMask 7 0) w = true → ends (.eldi e k) s fun s' =>
      ctxOf s' e = some (flowNext (putE c (iA w) (bitsOf w 0 8)))) ∧
    (iOp w = 0x24 → usedI (fieldMask 40 38 + fieldMask 25 24 + fieldMask 15 0) w = true → ends (.pset e k) s fun s' =>
      ∃ c', ctxOf s' e = some c' ∧
        (if bitsOf w 24 2 = 0 then vget 0 c'.p (iA w) else if bitsOf w 24 2 = 1 then vget 0 c'.b (iA w)
          else if bitsOf w 24 2 = 2 then vget 0 c'.l (iA w) else vget 0 c'.n (iA w)) = BitVec.ofNat 16 w ∧
        c'.d = c.d ∧ c'.sr = c.sr) ∧
    (iOp w = 0x25 → usedI (fieldMask 41 34 + fieldMask 5 0) w = true →
      loads (.shr e k) (mkLanes (convShr (laneRe b) n) (convShr (laneIm b) n))) ∧
    (iOp w = 0x26 → usedI (fieldMask 41 34 + fieldMask 5 0) w = true →
      loads (.pshr e k) (mkPaired (halfUpShr (paired b) n)))

/-- R83, R84: the program counter, call stack and loop stack after the control-flow instructions; flags and D registers
stand. Targets inside the body of the innermost loop keep it, targets outside end it. Execution that goes on at the end of a body,
after an instruction, a return or a skipped loop, goes back to its start while iterations are left; loops on their last iteration
end there, one after the other. -/
def Obligations.ControlFlowResults : Prop :=
  ∀ (s : State) (e : Fin 16) (k : Ecc) (t : Task) (w : Nat), k.bad = false → atWord s e t w →
    let c := t.ctx
    let pc := c.pc.toNat
    let target := BitVec.ofNat 14 (bitsOf w 0 14)
    let jumped (x : Ctx) : Prop := x.pc = target ∧ x.calls = c.calls ∧ x.sr = c.sr ∧ x.d = c.d ∧
      (c.loops = [] → x.loops = []) ∧
      ∀ l ls, c.loops = l :: ls → (inBody l (bitsOf w 0 14) = true → x.loops = c.loops) ∧
        (inBody l (bitsOf w 0 14) = false → x.loops = ls)
    let onto (n : BitVec 14) (x : Ctx) : Prop := x.sr = c.sr ∧ x.d = c.d ∧ ∃ spent rest, c.loops = spent ++ rest ∧
      (∀ l ∈ spent, n.toNat = l.stop ∧ l.left ≤ 1) ∧ (rest = [] → x.pc = n ∧ x.loops = []) ∧
      ∀ l ls, rest = l :: ls → (n.toNat ≠ l.stop ∧ x.pc = n ∧ x.loops = rest) ∨
        (n.toNat = l.stop ∧ 2 ≤ l.left ∧ x.pc = BitVec.ofNat 14 l.start ∧ x.loops = { l with left := l.left - 1 } :: ls)
    let after (i : Instr) (P : Ctx → Prop) : Prop := ends i s fun s' => ∃ x, ctxOf s' e = some x ∧ P x
    (iOp w = 0x2A → usedI (fieldMask 13 0) w = true → after (.jmp e k) jumped) ∧
    (iOp w = 0x2B → usedI (fieldMask 41 38 + fieldMask 13 0) w = true →
      (jccHolds c.sr (iA w) = some true → after (.jcc e k) jumped) ∧
      (jccHolds c.sr (iA w) = some false → after (.jcc e k) fun x => onto (c.pc + 1) x ∧ x.calls = c.calls)) ∧
    (iOp w = 0x2C → usedI (fieldMask 13 0) w = true → c.calls.length < 8 → after (.call e k) fun x =>
      x.pc = target ∧ x.calls = (c.pc + 1) :: c.calls ∧ x.loops = c.loops ∧ x.sr = c.sr ∧ x.d = c.d) ∧
    (iOp w = 0x2D → usedI 0 w = true → ∀ r rs, c.calls = r :: rs →
      after (.ret e k) fun x => onto r x ∧ x.calls = rs) ∧
    (∀ count : Nat, 1 ≤ bitsOf w 0 7 → bitsOf w 0 7 ≤ 64 → 1 ≤ count → c.loops.length < 4 →
      let pushed (x : Ctx) : Prop := x.pc = c.pc + 1 ∧ x.calls = c.calls ∧ x.sr = c.sr ∧ x.d = c.d ∧
        x.loops = ⟨(pc + 1) % 2 ^ 14, (pc + 1 + bitsOf w 0 7) % 2 ^ 14, count⟩ :: c.loops
      (iOp w = 0x2E → usedI (fieldMask 6 0 + fieldMask 23 8) w = true → bitsOf w 8 16 = count →
        after (.loop e k) pushed) ∧
      (iOp w = 0x2F → usedI (fieldMask 37 34 + fieldMask 6 0) w = true → bitsOf (dReg c (iB w)).toNat 0 16 = count →
        after (.loopr e k) pushed)) ∧
    (1 ≤ bitsOf w 0 7 → bitsOf w 0 7 ≤ 64 →
      let skipped (x : Ctx) : Prop := onto (BitVec.ofNat 14 (pc + 1 + bitsOf w 0 7)) x ∧ x.calls = c.calls
      (iOp w = 0x2E → usedI (fieldMask 6 0 + fieldMask 23 8) w = true → bitsOf w 8 16 = 0 →
        after (.loop e k) skipped) ∧
      (iOp w = 0x2F → usedI (fieldMask 37 34 + fieldMask 6 0) w = true → bitsOf (dReg c (iB w)).toNat 0 16 = 0 →
        after (.loopr e k) skipped))

/-- R58, R59, R78, R82, R86, R87, R154, R158: LDA and STA move between D or E registers and the axis record: a load sees the
word from before the writes that other ports make in its cycle, a store leaves the bits that writes later in the order of R58
have written, and a later host write that waits for its edge goes on waiting; YST queues for the update port, after the entries of earlier cycles and of lower engine numbers, or sets QF; with
the queue full it takes the place of the last entry where an engine of a higher number placed that in this very cycle (log entry
140); POST posts or sets QF; DONE ends the task; the update port writes its head entry, placed in an earlier cycle, into Y
memory. -/
def Obligations.MemoryAndPortResults : Prop :=
  (∀ (s : State) (e : Fin 16) (k : Ecc) (t : Task) (w : Nat), k.bad = false → atWord s e t w →
    let c := t.ctx
    let d := s.die
    let m := bitsOf w 24 2
    let x := dReg c (iA w)
    (iOp w = 0x27 → usedI (useWin w) w = true → m ≠ 3 → ∀ off, winOff d t (m == 1) w = some off →
      let read (o : Nat) : Nat := (axSeen d (2 + e.val / 4) (accessCycle s e.val) o).toNat
      ends (.lda e k) s fun s' => ∃ c', ctxOf s' e = some c' ∧ c'.sr = c.sr ∧
        (m = 0 → bitsOf (dReg c' (iA w)).toNat (if bitOf w 26 then 24 else 0) 24 = bitsOf (read off) 0 24) ∧
        (m = 1 → dReg c' (iA w) = BitVec.ofNat 48 (read off + 2 ^ 32 * read (off + 4))) ∧
        (m = 2 → expReg c' (iA w % 4) = sext 8 (read off) ∧ c'.d = c.d)) ∧
    (iOp w = 0x28 → usedI (useWin w) w = true → ∀ off, winOff d t (m == 1 || m == 3) w = some off →
      let read (o : Nat) : Nat := (axSeen d (2 + e.val / 4) (accessCycle s e.val) o).toNat
      let leaves (s' : State) (o v : Nat) : Prop :=
        let p := 2 + e.val / 4
        let cy := accessCycle s e.val
        let later := BitVec.ofNat 32 (axLater d p cy o)
        let hard := BitVec.ofNat 32 (axLaterBy (fun x => x.port != 7) d p cy o)
        getReg s'.die o = (BitVec.ofNat 32 v &&& ~~~later) ||| ((if hostWaits d p cy o then getReg d o else eff d o) &&& later) ∧
        (hostWaits d p cy o = true → eff s'.die o = (BitVec.ofNat 32 v &&& ~~~hard) ||| (eff d o &&& hard))
      let leaves64 (s' : State) (o v : Nat) : Prop := leaves s' o v ∧ leaves s' (o + 4) (v / 2 ^ 32)
      ends (.sta e k) s fun s' => (∃ c', ctxOf s' e = some c' ∧ c'.sr = c.sr ∧ c'.d = c.d) ∧
        (m = 0 → leaves s' off (wrap 32 (if bitOf w 26 then laneIm x else laneRe x))) ∧
        (m = 1 → leaves64 s' off (wrap 64 (paired x))) ∧
        (m = 2 → leaves s' off (wrap 32 (expReg c (iA w % 4)))) ∧
        (m = 3 → leaves64 s' off (wrap 64 (sext 64 (read off + 2 ^ 32 * read (off + 4)) + paired x))) ∧
        regsBut (fun o => leBlock e.val o ∨ o = off ∨ ((m = 1 ∨ m = 3) ∧ o = off + 4)) s s') ∧
    (iOp w = 0x29 → usedI (fieldMask 41 38 + fieldMask 36 34 + fieldMask 25 24) w = true →
      let i := bitsOf w 34 3
      ptr c i < 0x8000 →
      (d.mem.yq.length < 32 → ends (.yst e k) s fun s' => s'.die.mem.ymem = d.mem.ymem ∧
        (∃ a b, d.mem.yq = a ++ b ∧ s'.die.mem.yq = a ++ ⟨ptr c i, x, issueCycle s e.val, e.val, some (i, vget 0 c.p i)⟩ :: b ∧
          (∀ y ∈ a, y.cyc < issueCycle s e.val ∨ (y.cyc = issueCycle s e.val ∧ y.eng ≤ e.val)) ∧
          ∀ y rest, b = y :: rest → issueCycle s e.val < y.cyc ∨ (y.cyc = issueCycle s e.val ∧ e.val < y.eng)) ∧
        ∃ c', ctxOf s' e = some c' ∧ c'.sr = { c.sr with qf := false } ∧ ptr c' i = postMod c i (bitsOf w 24 2)) ∧
      (32 ≤ d.mem.yq.length → (∀ y ∈ d.mem.yq, ¬ (y.cyc = issueCycle s e.val ∧ e.val < y.eng)) →
        ends (.yst e k) s fun s' => s'.die.mem = d.mem ∧
          ∃ c', ctxOf s' e = some c' ∧ c'.sr = { c.sr with qf := true } ∧ c'.p = c.p) ∧
      (∀ (a : List YEnt) (y : YEnt) (h : Fin 16) (u : Task), 32 ≤ d.mem.yq.length → d.mem.yq = a ++ [y] → y ∉ a →
        y.eng = h.val → y.cyc = issueCycle s e.val → e.val < h.val → y.back.isSome = true →
        (engH d h.val).free = issueCycle s e.val + 1 → (engH d h.val).active = some u →
        ends (.yst e k) s fun s' => y ∉ s'.die.mem.yq ∧ s'.die.mem.yq.length = d.mem.yq.length ∧
          (∃ c', ctxOf s' e = some c' ∧ c'.sr = { c.sr with qf := false }) ∧
          ∃ c', ctxOf s' h = some c' ∧ c'.sr = { u.ctx.sr with qf := true })) ∧
    (iOp w = 0x31 → usedI (fieldMask 37 34 + fieldMask 9 0) w = true →
      let q := kqueue d (7 + e.val)
      (q.length < 64 → ends (.post e k) s fun s' =>
        kqueue s'.die (7 + e.val) = q ++ [.desc (bitsOf w 0 10) (bitsOf (dReg c (iB w)).toNat 0 24) 0] ∧
        ∃ c', ctxOf s' e = some c' ∧ c'.sr = { c.sr with qf := false } ∧ c'.d = c.d) ∧
      (64 ≤ q.length → ends (.post e k) s fun s' => s'.die.knl = d.knl ∧
        ∃ c', ctxOf s' e = some c' ∧ c'.sr = { c.sr with qf := true } ∧ c'.d = c.d))) ∧
  (∀ (s : State) (e : Fin 16) (k : Ecc) (t : Task) (w : Nat), k.bad = false → atWord s e t w → iOp w = 0x30 → usedI 0 w = true →
    ends (.doneTask e k) s fun s' => (engH s'.die e.val).active = none ∧
      ∃ x, (engH s'.die e.val).ended = some x ∧ x.cause = 0 ∧ x.task.idx = t.idx ∧ x.task.arg = t.arg) ∧
  (∀ (s : State) (h : YEnt) (rest : List YEnt), s.die.mem.yq = h :: rest → h.cyc < s.die.tb.cyc →
    s.die.mem.yqAt.map (·.1) ≠ some s.die.tb.cyc → ends .yUpdatePortWrite s fun s' =>
      s'.die.mem.yq = rest ∧ yRead s'.die h.addr = h.word ∧ (∀ a, a ≠ h.addr → yRead s'.die a = yRead s.die a) ∧
      s'.die.mem.xram = s.die.mem.xram ∧ s'.die.mem.imem = s.die.mem.imem ∧ keepsBut [.mem] s s')

/-- R77, R78, R79: the parallel moves of every class M word, seen on NOP: an X store writes the D register into X RAM and
nowhere else, loads bring X RAM and Y memory into D registers, a Y word that the update port writes in that cycle or later with its old
value, and the pointers used step. -/
def Obligations.ParallelMoves : Prop :=
  ∀ (s : State) (e : Fin 16) (k : Ecc) (t : Task) (w : Nat), k.bad = false → atWord s e t w → iOp w = 0 → usedM 0 w = true → moveFaults t.ctx w = [] →
    let c := t.ctx
    let xp := bitsOf w 19 3
    let yp := bitsOf w 8 3
    let xd := bitsOf w 13 4
    let yd := bitsOf w 2 4
    ends (.nop e k) s fun s' => ∃ c', ctxOf s' e = some c' ∧
      (bitOf w 23 = true → bitOf w 22 = true → ∀ g a, xRead s'.die g a =
        if g * 8192 + a = e.val * 8192 + ptr c xp then dReg c xd else xRead s.die g a) ∧
      ((bitOf w 23 = false ∨ bitOf w 22 = false) → s'.die.mem = s.die.mem) ∧
      (bitOf w 23 = true → bitOf w 22 = false → (bitOf w 11 = true → yd ≠ xd) →
        dReg c' xd = xRead s.die e.val (ptr c xp)) ∧
      (bitOf w 11 = true → (∀ cy old, s.die.mem.yqAt = some (cy, ptr c yp, old) → cy < issueCycle s e.val) →
        dReg c' yd = yRead s.die (ptr c yp)) ∧
      (bitOf w 11 = true → ∀ cy old, s.die.mem.yqAt = some (cy, ptr c yp, old) → issueCycle s e.val ≤ cy →
        dReg c' yd = old) ∧
      (bitOf w 23 = true → (bitOf w 11 = true → yp ≠ xp) → ptr c' xp = postMod c xp (bitsOf w 17 2)) ∧
      (bitOf w 11 = true → (bitOf w 23 = true → yp ≠ xp) → ptr c' yp = postMod c yp (bitsOf w 6 2)) ∧
      (∀ j, (bitOf w 23 = true → j ≠ xp) → (bitOf w 11 = true → j ≠ yp) → ptr c' j = ptr c j) ∧
      s'.die.mem.ymem = s.die.mem.ymem ∧ s'.die.mem.imem = s.die.mem.imem

/-- R88, R68, R79, R80, R83: a faulting instruction has no effect on memories or on the context it leaves behind: the task
ends, LE_n_FAULT holds cause, PC and task, the sticky bit is set, the fault is counted. Reserved opcodes, words with a
non-zero unused field, the reserved mode of LDA, bad addresses, stack misuse, wrong accumulator modes and double-bit errors
fault, each with its own cause; where several causes hold, one of them is recorded. -/
def Obligations.EngineFaultRecords : Prop :=
  ∀ (s : State) (e : Fin 16) (k : Ecc) (t : Task) (w : Nat), k.bad = false → atWord s e t w →
    let c := t.ctx
    let faults (i : Instr) (cause : Nat) : Prop := ends i s fun s' =>
      getReg s'.die (Reg.LE_FAULT e.val) = BitVec.ofNat 32 (cause + 2 ^ 4 * c.pc.toNat + 2 ^ 18 * t.idx) ∧
      flag s'.die (Reg.LE_STICKY_FAULT e.val) = true ∧
      getReg s'.die (Reg.LE_FAULTCNT e.val) =
        BitVec.ofNat 32 (satInc 32 (getReg s.die (Reg.LE_FAULTCNT e.val)).toNat) ∧
      s'.die.mem = s.die.mem ∧ (engH s'.die e.val).active = none ∧
      (∀ a, descAxis s.die t.idx = some a → descClass s.die t.idx ≤ 1 → (axH s'.die a).conds.engine = true) ∧
      ∃ x, (engH s'.die e.val).ended = some x ∧ x.cause = cause ∧ x.task.idx = t.idx ∧ x.task.ctx = c
    (0x32 ≤ iOp w → faults (.nop e k) 1) ∧
    (iOp w = 0x0D → usedM useTwo w = false → moveFaults c w = [] → faults (.add e k) 1) ∧
    (iOp w = 0x0D → usedM useTwo w = false → moveFaults c w ≠ [] → ∃ x ∈ 1 :: moveFaults c w, faults (.add e k) x) ∧
    (iOp w = 0x27 → bitsOf w 24 2 = 3 → faults (.lda e k) 1) ∧
    (iOp w = 0x0D → usedM useTwo w = true → moveFaults c w = [2] → faults (.add e k) 2) ∧
    (iOp w = 0x0D → usedM useTwo w = true → moveFaults c w = [3] → faults (.add e k) 3) ∧
    (iOp w = 0x01 → usedM useMac w = true → moveFaults c w = [] → accMode c (iAC w) = true → faults (.cmac e k) 7) ∧
    (iOp w = 0x08 → usedM useMac w = true → moveFaults c w = [] → accMode c (iAC w) = false → faults (.pmac e k) 7) ∧
    (iOp w = 0x29 → usedI (fieldMask 41 38 + fieldMask 36 34 + fieldMask 25 24) w = true →
      0x8000 ≤ ptr c (bitsOf w 34 3) → faults (.yst e k) 3) ∧
    (iOp w = 0x27 → usedI (useWin w) w = true → bitsOf w 24 2 ≠ 3 → winOff s.die t (bitsOf w 24 2 == 1) w = none →
      faults (.lda e k) 4) ∧
    (iOp w = 0x28 → usedI (useWin w) w = true →
      winOff s.die t (bitsOf w 24 2 == 1 || bitsOf w 24 2 == 3) w = none → faults (.sta e k) 4) ∧
    (iOp w = 0x2B → usedI (fieldMask 41 38 + fieldMask 13 0) w = true → 9 ≤ iA w → faults (.jcc e k) 1) ∧
    (iOp w = 0x2C → usedI (fieldMask 13 0) w = true → 8 ≤ c.calls.length → faults (.call e k) 5) ∧
    (iOp w = 0x2D → usedI 0 w = true → c.calls = [] → faults (.ret e k) 5) ∧
    (iOp w = 0x2E → usedI (fieldMask 6 0 + fieldMask 23 8) w = true → 1 ≤ bitsOf w 0 7 → bitsOf w 0 7 ≤ 64 →
      1 ≤ bitsOf w 8 16 → 4 ≤ c.loops.length → faults (.loop e k) 6) ∧
    (iOp w = 0x2E → usedI (fieldMask 6 0 + fieldMask 23 8) w = true → bitsOf w 0 7 = 0 → faults (.loop e k) 1) ∧
    (∀ n : Fin 4, iOp w = 0x0D → usedM useTwo w = true → moveFaults c w = [] → faults (.add e ⟨n, true⟩) 8) ∧
    (∀ n : Fin 4, iOp w = 0x30 → usedI 0 w = true → faults (.doneTask e ⟨n, true⟩) 8)

/-- R51, R53, R58, R79: what the engine instructions leave alone when they do not fault: the Sheepdog, the queue, every part of
the die but registers, engines, engine memories and the Kennel's queues; of the registers, all but the engine's own block,
the queue counters, the axis records; of the memories, every word but the one that the X store of a class M word addresses. Every
other engine stands, but for the active task of one whose YST yields its place in the full Y update queue (log entry 140). Every engine command
and the update port keep the engine memories in canonical form. -/
def Obligations.EngineInstructionFrame : Prop :=
  (∀ (s s' : State) (e : Fin 16) (ecc : Ecc) (i : Instr) (t : Task) (w : Nat), i ∈ engineCmds e ecc → atWord s e t w →
    exec i s = .next s' → ctxOf s' e ≠ none →
    keepsBut [.regs, .held, .axLog, .eng, .mem, .knl] s s' ∧
    regsBut (fun o => leBlock e.val o ∨ o = Reg.LE_YQ ∨ o = Reg.KNL_QFILL (7 + e.val) ∨ (0x20000 ≤ o ∧ o < 0x40000)) s s' ∧
    (∀ j, j ≠ e.val → (i = .yst e ecc → s.die.mem.yq.length < 32) → engH s'.die j = engH s.die j) ∧
    (∀ j, j ≠ e.val → i = .yst e ecc → 32 ≤ s.die.mem.yq.length →
      { engH s'.die j with active := none } = { engH s.die j with active := none } ∧
      ((∀ y ∈ s.die.mem.yq, y.eng ≠ j ∨ y.cyc ≠ issueCycle s e.val) → engH s'.die j = engH s.die j)) ∧
    (∀ q, q ≠ 7 + e.val → kqueue s'.die q = kqueue s.die q) ∧
    s'.die.mem.imem = s.die.mem.imem ∧ s'.die.mem.ymem = s.die.mem.ymem ∧
    ∀ g a, (iOp w < 0x22 → bitOf w 23 = true → bitOf w 22 = true → g * 8192 + a ≠ e.val * 8192 + ptr t.ctx (bitsOf w 19 3)) →
      xRead s'.die g a = xRead s.die g a) ∧
  (∀ (s s' : State) (e : Fin 16) (ecc : Ecc) (i : Instr), i ∈ .yUpdatePortWrite :: engineCmds e ecc →
    exec i s = .next s' → memWf s.die.mem = true → memWf s'.die.mem = true)


/-! ### The beat -/

/-- R20, R28, R34, R35, R41 to R43, R45, R46, R120, R21: the events of a beat take place in their order, each once, and bring GT to their instant; the
step of GT moves GT and the beat index. At the input deadline every declared axis that is not Disabled and has no accepted
in-slot is MISSING and counted (R58: unless a later write of those words is known); every other register reads as before. At the
output phase an axis latches the output of its state, zero output in its first beat, a fresh output, or its previous one with
STALE; an overrun starts or renews level A for 1,000 beats, a second one within 16 beats level B. -/
def Obligations.BeatEventsAdvance : Prop :=
  ((∀ (s : State) (k : Nat), edgeDue s.die = some k → ends .beatEdge s fun t =>
    t.die.tb.k = k ∧ t.die.tb.phase = 0 ∧ t.die.tb.gt = max s.die.tb.gt (edgeGt (hz s.die) k) ∧ t.dog = s.dog) ∧
  (∀ s : State, edgeDue s.die = none → ends .beatEdge s fun t => keepsBut [] s t) ∧
  (∀ s : State, running s.die = true → s.die.tb.phase = 0 → ends .inputDeadline s fun t =>
    t.die.tb.phase = 1 ∧ t.die.tb.gt = max s.die.tb.gt (inBeat s.die (fld s.die Reg.BEAT_IDL_VALUE)) ∧
    keepsBut [.regs, .held, .axLog, .tb] s t) ∧
  (∀ s : State, running s.die = true → s.die.tb.phase = 1 → ends .outputPhase s fun t =>
    t.die.tb.phase = 2 ∧ t.die.tb.gt = max s.die.tb.gt (inBeat s.die (fld s.die Reg.BEAT_OPH_VALUE)) ∧ t.die.tb.k = s.die.tb.k) ∧
  (∀ s : State, running s.die = true → s.die.tb.phase = 2 → ends .frameClose s fun t =>
    t.die.tb.phase = 3 ∧ t.die.tb.gt = max s.die.tb.gt (inBeat s.die (fld s.die Reg.BEAT_FCL_VALUE)) ∧ t.die.tb.k = s.die.tb.k) ∧
  (∀ (s : State) (x : Int), stepDue s.die = some x → ends .gtStep s fun t =>
    t.die.tb.gt = ((s.die.tb.gt : Int) + x).toNat ∧ t.die.tb.step = none ∧
    (running s.die = true → t.die.tb.k = beatAt (hz s.die) ((s.die.tb.gt : Int) + x).toNat))) ∧
  (∀ s : State, running s.die = true → s.die.tb.phase = 1 →
    noneLater s 6 (toGt s.die (inBeat s.die (fld s.die Reg.BEAT_OPH_VALUE))).tb.cyc → ends .outputPhase s fun t =>
    ∀ a, a < 128 → axDecl s.die a = true →
      let was := computing s.die a
      (computing t.die a = false → (axH t.die a).out = axOut0) ∧
      (computing t.die a = true → was = false → (axH t.die a).out = zeroOut s.die a) ∧
      (computing t.die a = true → was = true → (axH s.die a).fresh = true →
        (axH t.die a).out.stale = false ∧ (axH t.die a).out.enable = true) ∧
      (computing t.die a = true → was = true → (axH s.die a).fresh = false →
        (axH t.die a).out = { (axH s.die a).out with stale := true }) ∧
      (was = true → (axH s.die a).fresh = false → flag t.die (Reg.AX_STAT_STALE a) = true ∧
        getReg t.die (Reg.AX_CNT_STALE a) = BitVec.ofNat 32 (satInc 32 (getReg s.die (Reg.AX_CNT_STALE a)).toNat))) ∧
  (∀ (s : State) (a : Nat), running s.die = true → s.die.tb.phase = 1 → halted s.die 17 = false → a < 128 →
    axDecl s.die a = true → overruns s.die a = true → ends .outputPhase s fun t =>
      t.die.tb.endA = some (s.die.tb.k + 1000) ∧ flag t.die Reg.BEAT_STAT_SHED_A = true ∧
      fld t.die Reg.BEAT_SHED_A_LEFT = 1000 ∧
      ((∃ x ∈ s.die.tb.ovr, s.die.tb.k ≤ x + 15) → t.die.tb.endB = some (s.die.tb.k + 1000) ∧
        flag t.die Reg.BEAT_STAT_SHED_B = true ∧ fld t.die Reg.BEAT_SHED_B_LEFT = 1000)) ∧
  (∀ s : State, running s.die = true → s.die.tb.phase = 0 →
    noneLater s 6 (toGt s.die (inBeat s.die (fld s.die Reg.BEAT_IDL_VALUE))).tb.cyc → ends .inputDeadline s fun t =>
    (∀ a, a < 128 → axDecl s.die a = true → axState s.die a ≠ 0 → (axH s.die a).inSlot = false →
      flag t.die (Reg.AX_STAT_MISSING a) = true ∧
      getReg t.die (Reg.AX_CNT_MISS a) = BitVec.ofNat 32 (satInc 32 (getReg s.die (Reg.AX_CNT_MISS a)).toNat)) ∧
    regsBut (fun o => ∃ a, a < 128 ∧ axDecl s.die a = true ∧ axState s.die a ≠ 0 ∧ (axH s.die a).inSlot = false ∧
      (o = Reg.AX_STAT a ∨ o = Reg.AX_CNT_MISS a)) s t)

/-- R119, R121, R122, R123: the evaluation of an axis, row by row: a removed axis goes to Disabled; STO, overcurrent and
undervoltage fault an active axis; a Held axis that is asked for and not barred becomes Enabled with its start values; an
Enabled axis stops with the first of its causes, or when it is no longer asked for; a Faulted axis leaves only by a clear whose
cause has gone. Entry to Disabled, to Faulted, or to Stopping for any cause but HOST clears AX_CTL.REQ. -/
def Obligations.AxisEvaluationTable : Prop :=
  ∀ (d : Die) (a : Nat), a < 128 →
    let h := axH d a
    let st := axState d a
    let d' := evalAxis d a
    let calm := h.removed = false ∧ stoActive d a = false ∧ h.conds.ovc = false ∧ h.conds.uv = false
    (st ≠ 0 → h.removed = true → axState d' a = 0) ∧
    (h.removed = false → (st = 2 ∨ st = 3) → stoActive d a = true →
      axState d' a = 4 ∧ fld d' (Reg.AX_FAULT_CAUSE a) = 0xA ∧ fld d' (Reg.AX_CTL_REQ a) = 0) ∧
    (h.removed = false → (st = 2 ∨ st = 3) → stoActive d a = false → h.conds.ovc = true →
      axState d' a = 4 ∧ fld d' (Reg.AX_FAULT_CAUSE a) = 5) ∧
    (h.removed = false → (st = 2 ∨ st = 3) → stoActive d a = false → h.conds.ovc = false → h.conds.uv = true →
      axState d' a = 4 ∧ fld d' (Reg.AX_FAULT_CAUSE a) = 6) ∧
    (calm → st = 3 → h.conds.engine = true → axState d' a = 4 ∧ fld d' (Reg.AX_FAULT_CAUSE a) = 3) ∧
    (calm → st = 3 → h.conds.engine = false → stopOver d a = false → axState d' a = 3) ∧
    (calm → st = 2 → stopCauseOf d a = none → axState d' a = 2) ∧
    (calm → st = 2 → ∀ c, stopCauseOf d a = some c → axState d' a = 3 ∧ fld d' (Reg.AX_FAULT_STOPCAUSE a) = c) ∧
    (let c := h.conds
     let raised : Bool := c.engine || c.eovf || c.perr || c.ovspd || c.lag || c.shed || h.ss1
     (calm → st = 2 → (axState d' a = 3 ↔ raised = true ∨ effFld d (Reg.AX_CTL_REQ a) = 0)) ∧
     (calm → st = 2 → axState d' a = 3 → fld d' (Reg.AX_FAULT_STOPCAUSE a) =
       if c.engine then 3 else if c.eovf then 4 else if c.perr then 1 else if c.ovspd then 2 else if c.lag then 0xB
       else if c.shed then 8 else if h.ss1 then 9 else 0xC)) ∧
    (axState d' a ≠ st →
      (axState d' a = 0 ∨ axState d' a = 4 ∨ (axState d' a = 3 ∧ fld d' (Reg.AX_FAULT_STOPCAUSE a) ≠ 0xC) ∨ st = 0) →
      fld d' (Reg.AX_CTL_REQ a) = 0) ∧
    (calm → st = 1 → effFld d (Reg.AX_CTL_REQ a) = 1 → h.ss1 = false →
      axState d' a = 2 ∧ getI64 d' (Reg.AX_PTGT a) = getI64 d (Reg.AX_PFB a)) ∧
    (calm → st = 1 → (effFld d (Reg.AX_CTL_REQ a) ≠ 1 ∨ h.ss1 = true) → axState d' a = 1) ∧
    (h.removed = false → st = 1 → stoActive d a = true → axState d' a = 1) ∧
    (h.removed = false → st = 4 → h.clr = false → axState d' a = 4) ∧
    (h.removed = false → st = 4 → h.clr = true → causeGone d a = true → axState d' a = 1) ∧
    (h.removed = false → st = 4 → h.clr = true → causeGone d a = false → axState d' a = 4 ∧
      flag d' (Reg.AX_STAT_CLRREJ a) = true) ∧
    (st = 0 → h.admitted = true → h.removed = false → axState d' a = 1) ∧
    (st = 0 → h.admitted = false → axState d' a = 0) ∧
    (axH d' a).conds = conds0 ∧ (axH d' a).clr = false

/-- R45, R46, R121: levels A and B end at the output phase that reaches their last beat, and a stop ends Held after a stop
by the host, Faulted after any other (R58: unless a later write of those words is known). -/
def Obligations.SheddingAndStopEnds : Prop :=
  (∀ (s : State) (b : Nat), running s.die = true → s.die.tb.phase = 2 → s.die.tb.endA = some b → b ≤ s.die.tb.k →
    ends .shedSuspensionEnd s fun t => t.die.tb.endA = none ∧ t.die.tb.k = s.die.tb.k ∧ t.dog = s.dog) ∧
  (∀ (s : State) (b : Nat), running s.die = true → s.die.tb.phase = 2 → s.die.tb.endB = some b → b ≤ s.die.tb.k →
    ends .shedSuspensionEnd s fun t => t.die.tb.endB = none ∧ t.die.tb.k = s.die.tb.k ∧ t.dog = s.dog) ∧
  ∀ (s : State) (a : Fin 128), axDecl s.die a.val = true → axState s.die a.val = 3 → s.die.tb.phase = 2 →
    stopOver s.die a.val = true → noneLater s 6 s.die.tb.cyc → ends (.stopEnd a) s fun t =>
      (fld s.die (Reg.AX_FAULT_STOPCAUSE a.val) = 0xC → axState t.die a.val = 1) ∧
      (fld s.die (Reg.AX_FAULT_STOPCAUSE a.val) ≠ 0xC → axState t.die a.val = 4 ∧
        fld t.die (Reg.AX_FAULT_CAUSE a.val) = fld s.die (Reg.AX_FAULT_STOPCAUSE a.val)) ∧
      (axH t.die a.val).out = axOut0 ∧ ∀ b, b ≠ a.val → axH t.die b = axH s.die b

/-! ### The Kennel -/

/-- R151, R153, R157, R159 to R161, R90 to R92: a release of an invalid descriptor does nothing, one of a single-instance
descriptor that has an instance is merged and counted, any other puts a new instance at the end of the ready list of its
level. Dispatch puts the ready head on an idle engine; pre-emption puts it on the engine of its victim, whose task is held
in the other bank, with the cycles of a swap, or, in the cycle in which an abort has freed the bank, without one (log entry 133); an
engine end frees its engine and the held task resumes. A POSITION task holds the inputs of its beat, and whether its axis computed. -/
def Obligations.KennelReleasesAndPlaces : Prop :=
  (∀ (d : Die) (idx arg param src : Nat),
    (descValid d idx = false → release d idx arg param src = d) ∧
    (descValid d idx = true → descMulti d idx = false → hasInstance d idx = true →
      (release d idx arg param src).knl.ready = d.knl.ready ∧
      getReg (release d idx arg param src) Reg.KNL_CNT_MERGE =
        BitVec.ofNat 32 (satInc 32 (getReg d Reg.KNL_CNT_MERGE).toNat)) ∧
    (descValid d idx = true → (descMulti d idx = true ∨ hasInstance d idx = false) →
      ∃ t : Task, readyList (release d idx arg param src) (descLevel d idx) = readyList d (descLevel d idx) ++ [t] ∧
        t.idx = idx ∧ t.level = descLevel d idx ∧ t.arg = arg ∧ t.src = src ∧ t.busy = 0 ∧ t.beat = d.tb.k ∧
        t.ctx.pc = BitVec.ofNat 14 (descEntry d idx) ∧ dReg t.ctx 0 = BitVec.ofNat 48 (arg % 2 ^ 32) ∧
        (descClass d idx = 5 → dReg t.ctx 1 = BitVec.ofNat 48 (param % 2 ^ 32)) ∧
        (∀ l, l ≠ descLevel d idx → readyList (release d idx arg param src) l = readyList d l) ∧
        (∀ a, descClass d idx = 1 → descAxis d idx = some a →
          t.inp = [effI64 d (Reg.AX_PFB a), effI64 d (Reg.AX_PTGT a), effI64 d (Reg.AX_VTGT a), effI64 d (Reg.AX_ATGT a),
            b2n (computing d a)]) ∧
        (descMulti d idx = true → (release d idx arg param src).knl.store = d.knl.store + 1))) ∧
  (let runs (t : State) (e : Nat) (u : Task) (s : State) : Prop :=
    ∃ v, (engH t.die e).active = some v ∧ { v with inp := u.inp } = u ∧
      ((descAxis s.die u.idx = none ∨ descClass s.die u.idx ≠ 0) → v = u)
  (∀ (s : State) (u : Task) (e : Nat), e < 16 → kennelOn s.die = true → placement s.die = some (.dispatch u e) →
    ends .dispatch s fun t => runs t e u s ∧ (engH t.die e).other = (engH s.die e).other ∧
      readyList t.die u.level = (readyList s.die u.level).tail ∧
      getReg t.die Reg.KNL_CNT_DISPATCH = BitVec.ofNat 32 (satInc 32 (getReg s.die Reg.KNL_CNT_DISPATCH).toNat) ∧
      (∀ j, j ≠ e → engH t.die j = engH s.die j) ∧ keepsBut [.regs, .eng, .knl] s t) ∧
  (∀ (s : State) (u : Task) (e : Nat), e < 16 → kennelOn s.die = true → placement s.die = some (.preempt u e) →
    ends .preempt s fun t => runs t e u s ∧ (engH t.die e).other = (engH s.die e).active ∧
      (engH t.die e).bank = !(engH s.die e).bank ∧ readyList t.die u.level = (readyList s.die u.level).tail ∧
      getReg t.die (Reg.LE_PREEMPTCNT e) = BitVec.ofNat 32 (satInc 32 (getReg s.die (Reg.LE_PREEMPTCNT e)).toNat) ∧
      (engH t.die e).beatBusy = (if (engH s.die e).freed = some s.die.tb.cyc then (engH s.die e).beatBusy - 6
        else (engH s.die e).beatBusy + 6) ∧
      (∀ j, j ≠ e → engH t.die j = engH s.die j) ∧ keepsBut [.regs, .eng, .knl] s t) ∧
  (∀ (s : State) (e : Nat) (x : EngEnd), e < 16 → kennelOn s.die = true →
    (upto 16).find? (fun n => (engH s.die n).ended.isSome) = some e → (engH s.die e).ended = some x →
    ends .engineEnd s fun t => (engH t.die e).ended = none ∧ (∀ j, j ≠ e → engH t.die j = engH s.die j) ∧
      ((engH s.die e).other = none → (engH t.die e).active = (engH s.die e).active) ∧
      (∀ u, (engH s.die e).other = some u → u.parked = false → suspended s.die u.level = false →
        (engH t.die e).active = some u ∧ (engH t.die e).other = none) ∧
      (∀ u, (engH s.die e).other = some u → u.parked = false → suspended s.die u.level = true →
        (engH t.die e).other = some { u with parked := true }) ∧ keepsBut [.regs, .eng, .knl] s t))

/-- R152, R156: the precedence port takes the head of the first non-empty queue of sources 0 to 4; the shared port takes the
head of the next queue in its order that is not empty and not blocked, and remembers it. Each source releases descriptors of
its own class only. -/
def Obligations.KennelPortsTakeHeads : Prop :=
  let ready (d : Die) (idx : Nat) : Prop := descValid d idx = true ∧ (descMulti d idx = true ∨ hasInstance d idx = false)
  let put (s t : State) (idx : Nat) : Prop :=
    ∃ u : Task, readyList t.die (descLevel s.die idx) = readyList s.die (descLevel s.die idx) ++ [u] ∧ u.idx = idx
  (∀ (s : State) (q : Nat) (e : QEnt) (rest : List QEnt), kennelOn s.die = true →
    (upto 5).find? (fun x => !(kqueue s.die x).isEmpty) = some q → kqueue s.die q = e :: rest →
    ends .precedencePortAccept s fun t => kqueue t.die q = rest ∧ (∀ x, x ≠ q → kqueue t.die x = kqueue s.die x) ∧
      (∀ idx, ready s.die idx → (∀ arg param, e = .desc idx arg param → descClass s.die idx = (if q = 0 then 2 else 6) →
          put s t idx) ∧
        (∀ k, e = .edge k → q = 0 → s.die.knl.edgeList = [idx] → descClass s.die idx = 2 → put s t idx) ∧
        (∀ a k, e = .axis a k → findDesc s.die 0 a = some idx → findDesc s.die 1 a = none → put s t idx))) ∧
  (∀ (s : State) (q : Nat) (e : QEnt) (rest : List QEnt), kennelOn s.die = true →
    (sharedOrder s.die.knl.rr).find? (fun x => !(kqueue s.die x).isEmpty && !headBlocked s.die x) = some q →
    kqueue s.die q = e :: rest → ends .sharedPortAccept s fun t =>
      kqueue t.die q = rest ∧ t.die.knl.rr = q ∧ (∀ x, x ≠ q → kqueue t.die x = kqueue s.die x) ∧
      (∀ idx arg param, e = .desc idx arg param → descClass s.die idx = (if q = 5 then 4 else if q = 6 then 5 else 6) →
        ready s.die idx → put s t idx) ∧
      (∀ idx arg param, e = .desc idx arg param → descClass s.die idx ≠ (if q = 5 then 4 else if q = 6 then 5 else 6) →
        t.die.knl.ready = s.die.knl.ready)) ∧
  (∀ s : State, kennelOn s.die = false → ends .precedencePortAccept s (keepsBut [] s) ∧
    ends .sharedPortAccept s (keepsBut [] s) ∧ ends .dispatch s (keepsBut [] s) ∧ ends .preempt s (keepsBut [] s) ∧
    ends .engineEnd s (keepsBut [] s))

/-- R164, R165, R166: the trace queue drains oldest first, up to four entries, into the Pawprint buffer at WPTR, which wraps;
the last entry after a trigger, and in MODE 1 the entry that fills the buffer, stop the capture. A stop clears RUN and
RUNNING and drops what is not written; a write of KNL_PP_CTL starts afresh, goes on with a new POSTCNT, or stops. Each of the
three completes in every other state without an effect. -/
def Obligations.PawprintCapture : Prop :=
  let wptr (s : State) : Nat := fld s.die Reg.KNL_PP_WPTR_WPTR
  let due (s : State) : Prop := (s.die.knl.ppTrig = true ∧ s.die.knl.ppPost = none) ∨ s.die.knl.ppFull = true
  let written (s t : State) (xs : List PPEvt) : Prop := ∀ i,
    sget 0 t.die.knl.buffer i =
      if wptr s ≤ i ∧ i < wptr s + xs.length then ((xs[i - wptr s]?).map ppEntry).getD 0 else sget 0 s.die.knl.buffer i
  let stopped (t : State) : Prop :=
    flag t.die Reg.KNL_PP_CTL_RUN = false ∧ flag t.die Reg.KNL_PP_STAT_RUNNING = false ∧ t.die.knl.trace = []
  let ppRegs (o : Nat) : Prop := o = Reg.KNL_PP_CTL ∨ o = Reg.KNL_PP_STAT ∨ o = Reg.KNL_PP_WPTR
  (∀ (s : State) (xs rest : List PPEvt), flag s.die Reg.KNL_PP_CTL_RUN = true → powered s.die 79 = true →
    s.die.knl.ppTrig = false → s.die.knl.ppFull = false → s.die.knl.trace = xs ++ rest → xs.length ≤ 4 →
    (xs.length = 4 ∨ rest = []) → wptr s + xs.length < 16384 →
    ends .pawprintDrain s fun t => t.die.knl.trace = rest ∧ written s t xs ∧ wptr t = wptr s + xs.length ∧
      keepsBut [.regs, .knl] s t ∧ regsBut (· = Reg.KNL_PP_WPTR) s t) ∧
  (∀ (s : State) (x : PPEvt), flag s.die Reg.KNL_PP_CTL_RUN = true → powered s.die 79 = true →
    s.die.knl.ppTrig = false → s.die.knl.ppFull = false → flag s.die Reg.KNL_PP_CTL_MODE = false → s.die.knl.trace = [x] →
    wptr s = 16383 → ends .pawprintDrain s fun t => t.die.knl.trace = [] ∧ written s t [x] ∧ wptr t = 0 ∧
      flag t.die Reg.KNL_PP_STAT_WRAPPED = true ∧ flag t.die Reg.KNL_PP_CTL_RUN = true ∧
      keepsBut [.regs, .knl] s t ∧ regsBut ppRegs s t) ∧
  (∀ (s : State) (x : PPEvt) (rest : List PPEvt), flag s.die Reg.KNL_PP_CTL_RUN = true → powered s.die 79 = true →
    s.die.knl.ppFull = false → s.die.knl.trace = x :: rest →
    ((s.die.knl.ppTrig = true ∧ s.die.knl.ppPost = some 0) ∨
      (s.die.knl.ppTrig = false ∧ flag s.die Reg.KNL_PP_CTL_MODE = true ∧ wptr s = 16383)) →
    ends .pawprintDrain s fun t => stopped t ∧ written s t [x] ∧ wptr t = (wptr s + 1) % 16384 ∧
      keepsBut [.regs, .knl] s t ∧ regsBut ppRegs s t) ∧
  (∀ s : State, (flag s.die Reg.KNL_PP_CTL_RUN = false ∨ powered s.die 79 = false ∨ (s.die.knl.trace = [] ∧ ¬ due s)) →
    ends .pawprintDrain s (keepsBut [] s)) ∧
  (∀ s : State, flag s.die Reg.KNL_PP_CTL_RUN = true → due s → ends .pawprintStop s fun t =>
    stopped t ∧ t.die.knl.buffer = s.die.knl.buffer ∧ wptr t = wptr s ∧ keepsBut [.regs, .knl] s t ∧
    regsBut (fun o => o = Reg.KNL_PP_CTL ∨ o = Reg.KNL_PP_STAT) s t) ∧
  (∀ s : State, (flag s.die Reg.KNL_PP_CTL_RUN = false ∨ ¬ due s) → ends .pawprintStop s (keepsBut [] s)) ∧
  (∀ (s : State) (v : Word), accepts s Reg.KNL_PP_CTL v.toNat → ends (.pawprintCtlWrite v) s fun t =>
    t.die.knl.buffer = s.die.knl.buffer ∧ keepsBut [.regs, .knl] s t ∧ regsBut ppRegs s t ∧
    flag t.die Reg.KNL_PP_CTL_RUN = bitOf v.toNat 0 ∧ flag t.die Reg.KNL_PP_CTL_MODE = bitOf v.toNat 1 ∧
    fld t.die Reg.KNL_PP_CTL_TRIG = bitsOf v.toNat 2 2 ∧ fld t.die Reg.KNL_PP_CTL_POSTCNT = bitsOf v.toNat 16 14 ∧
    (bitOf v.toNat 0 = false → stopped t ∧ wptr t = wptr s) ∧
    (bitOf v.toNat 0 = true → flag s.die Reg.KNL_PP_CTL_RUN = true → t.die.knl.trace = s.die.knl.trace ∧ wptr t = wptr s ∧
      getReg t.die Reg.KNL_PP_STAT = getReg s.die Reg.KNL_PP_STAT) ∧
    (bitOf v.toNat 0 = true → flag s.die Reg.KNL_PP_CTL_RUN = false → t.die.knl.trace = [] ∧ wptr t = 0 ∧
      flag t.die Reg.KNL_PP_STAT_RUNNING = true ∧ flag t.die Reg.KNL_PP_STAT_TRIGGERED = false ∧
      flag t.die Reg.KNL_PP_STAT_WRAPPED = false)) ∧
  (∀ (s : State) (v : Word), hostUp (found s) = false → ends (.pawprintCtlWrite v) s (keepsBut [] s))

/-! ### Writes of host software -/

/-- R31, R38, R114, R118, R123, R138, R141, R215: accepted writes of beat, axis and segment parameters. A cyclic parameter is
stored and the value in force stands until the beat edge; NA_FREQ and CLR act at the edge and leave the registers alone;
RESTART clears OFF. Of an axis word the value written stands unless a later write of its bits is known (R58). That CLR counts from
the next edge is log entry 19, that AX_TRK_CTL acts at once and NA_FREQ at the edge 145. -/
def Obligations.ParameterWrites : Prop :=
  (∀ (s : State) (v : Word), accepts s Reg.BEAT_MARGIN v.toNat → ends (.beatMarginWrite v) s fun t =>
    getReg t.die Reg.BEAT_MARGIN = 0x3FFFF ∧ regsBut (· = Reg.BEAT_MARGIN) s t ∧ keepsBut [.regs] s t) ∧
  (∀ (s : State) (a : Fin 128) (req : BitVec 2), accepts s (Reg.AX_CTL a.val) req.toNat →
    noneLater s 7 s.die.tb.cyc → ends (.axisReqWrite a req) s fun t => fld t.die (Reg.AX_CTL_REQ a.val) = req.toNat ∧
      effFld t.die (Reg.AX_CTL_REQ a.val) = effFld s.die (Reg.AX_CTL_REQ a.val) ∧
      regsBut (· = Reg.AX_CTL a.val) s t ∧ keepsBut [.regs, .held, .axLog] s t) ∧
  (∀ (s : State) (a : Fin 128), accepts s (Reg.AX_CTL a.val) (fld s.die (Reg.AX_CTL_REQ a.val) + 4) →
    ends (.axisClr a) s fun t => (axH t.die a.val).clrNew = true ∧ (axH t.die a.val).clr = (axH s.die a.val).clr ∧
      fld t.die (Reg.AX_CTL_REQ a.val) = fld s.die (Reg.AX_CTL_REQ a.val) ∧
      effFld t.die (Reg.AX_CTL_REQ a.val) = effFld s.die (Reg.AX_CTL_REQ a.val) ∧
      (∀ b, b ≠ a.val → axH t.die b = axH s.die b) ∧ regsBut (· = Reg.AX_CTL a.val) s t ∧
      keepsBut [.regs, .held, .axLog, .axes] s t) ∧
  (∀ (s : State) (a : Fin 128), accepts s (Reg.AX_TRK_CTL a.val) (fld s.die (Reg.AX_TRK_CTL_FREEZE a.val) + 2) →
    ends (.trackerRestart a) s fun t => (axH t.die a.val).stage.restart = true ∧
      flag t.die (Reg.AX_TRK_STAT_OFF a.val) = false ∧
      fld t.die (Reg.AX_TRK_CTL_FREEZE a.val) = fld s.die (Reg.AX_TRK_CTL_FREEZE a.val) ∧
      (∀ b, b ≠ a.val → axH t.die b = axH s.die b) ∧
      regsBut (fun o => o = Reg.AX_TRK_CTL a.val ∨ o = Reg.AX_TRK_STAT a.val) s t ∧ keepsBut [.regs, .axLog, .axes] s t) ∧
  (∀ (s : State) (a : Fin 128) (v : Word), accepts s (Reg.AX_NA_FREQ a.val) v.toNat →
    ends (.naFreqWrite a v) s fun t => (axH t.die a.val).stage.naReq = some v.toNat ∧
      (∀ b, b ≠ a.val → axH t.die b = axH s.die b) ∧ keepsBut [.axes] s t) ∧
  (∀ (s : State) (a : Fin 128) (mode : BitVec 2),
    accepts s (Reg.AX_LS_CTL a.val) (bitsOf (getReg s.die (Reg.AX_LS_CTL a.val)).toNat 2 2 * 4 + mode.toNat) →
    noneLater s 7 s.die.tb.cyc → ends (.lsModeWrite a mode) s fun t => fld t.die (Reg.AX_LS_CTL_MODE a.val) = mode.toNat ∧
      effFld t.die (Reg.AX_LS_CTL_MODE a.val) = effFld s.die (Reg.AX_LS_CTL_MODE a.val) ∧
      bitsOf (getReg t.die (Reg.AX_LS_CTL a.val)).toNat 2 2 = bitsOf (getReg s.die (Reg.AX_LS_CTL a.val)).toNat 2 2 ∧
      regsBut (· = Reg.AX_LS_CTL a.val) s t ∧ keepsBut [.regs, .held, .axLog] s t) ∧
  (∀ (s : State) (a : Fin 128),
    accepts s (Reg.AX_LS_CTL a.val) (bitsOf (getReg s.die (Reg.AX_LS_CTL a.val)).toNat 0 4 + 16) →
    ends (.trimclr a) s fun t => t.die.mst.trimClr = s.die.mst.trimClr ++ [(a.val, s.die.tb.k + 1)] ∧
      bitsOf (getReg t.die (Reg.AX_LS_CTL a.val)).toNat 0 4 = bitsOf (getReg s.die (Reg.AX_LS_CTL a.val)).toNat 0 4 ∧
      regsBut (· = Reg.AX_LS_CTL a.val) s t ∧ keepsBut [.regs, .held, .axLog, .mst] s t) ∧
  ∀ (s : State) (seg : Fin 4) (v : Word), accepts s (Reg.LSH_SCHED seg.val) v.toNat →
    ends (.schedWrite seg v) s fun t => getReg t.die (Reg.LSH_SCHED seg.val) = v ∧
      eff t.die (Reg.LSH_SCHED seg.val) = eff s.die (Reg.LSH_SCHED seg.val) ∧
      regsBut (· = Reg.LSH_SCHED seg.val) s t ∧ keepsBut [.regs, .held] s t

/-- R136, R189, R196, R201, R202: accepted writes of the master, a capture channel and the step generators. What MODE := OFF ends at
once in a step channel is log entry 116. -/
def Obligations.MotionWrites : Prop :=
  (∀ s : State, accepts s Reg.MST_CTL 1 → flag s.die Reg.MST_STAT_ACKPEND = false → ends .ack s fun t =>
    flag t.die Reg.MST_STAT_ACKPEND = true ∧ t.die.mst.ackEdge = some (s.die.tb.k + 1) ∧
    regsBut (· = Reg.MST_STAT) s t ∧ keepsBut [.regs, .mst] s t) ∧
  (∀ (s : State) (c : Fin 16) (v : Word), accepts s (Reg.CAP_CH_FREESEQ c.val) v.toNat →
    ends (.freeseqWrite c v) s fun t =>
      (getReg t.die (Reg.CAP_CH_FREESEQ c.val)).toNat % 2 ^ 28 = v.toNat % 2 ^ 28 ∧
      regsBut (· = Reg.CAP_CH_FREESEQ c.val) s t ∧ keepsBut [.regs] s t) ∧
  (∀ (s : State) (n : Fin 32) (v : Word), accepts s (Reg.STP_MODE n.val) v.toNat →
    ends (.stepModeWrite n v) s fun t => fld t.die (Reg.STP_MODE_MODE n.val) = v.toNat % 4 ∧
      (v.toNat % 4 ≠ 1 → (stpH t.die n.val).word = 0 ∧ (stpH t.die n.val).step = false ∧
        (stpH t.die n.val).rise = none ∧ (stpH t.die n.val).carryDue = false ∧ (stpH t.die n.val).rev = .none ∧
        flag t.die (Reg.STP_STAT_ACTIVE n.val) = false) ∧
      (v.toNat % 4 = 1 → fld s.die (Reg.STP_MODE_MODE n.val) ≠ 1 → (stpH t.die n.val).edgeDue = true) ∧
      (∀ m, m ≠ n.val → stpH t.die m = stpH s.die m) ∧
      regsBut (fun o => o = Reg.STP_MODE n.val ∨ o = Reg.STP_STAT n.val) s t ∧ keepsBut [.regs, .stp] s t) ∧
  (∀ (s : State) (n : Fin 32) (v : QWord), accepts s (Reg.STP_VEL n.val) (v.toNat % 2 ^ 32) →
    judgeWrite (busWrite (Reg.STP_VEL n.val) (v.toNat % 2 ^ 32) (found s)) false (Reg.STP_VEL n.val + 4) 15
      (v.toNat / 2 ^ 32) = 0 →
    ends (.stepVelWrite n v) s fun t => get64 t.die (Reg.STP_VEL n.val) = v.toNat ∧
      eff t.die (Reg.STP_VEL n.val) = eff s.die (Reg.STP_VEL n.val) ∧
      eff t.die (Reg.STP_VEL n.val + 4) = eff s.die (Reg.STP_VEL n.val + 4) ∧ (stpH t.die n.val).edgeDue = true ∧
      regsBut (fun o => o = Reg.STP_VEL n.val ∨ o = Reg.STP_VEL n.val + 4) s t ∧ keepsBut [.regs, .held, .stp] s t) ∧
  (∀ (s : State) (n : Fin 32) (v : QWord), accepts s (Reg.STP_POS n.val) (v.toNat % 2 ^ 32) →
    judgeWrite (busWrite (Reg.STP_POS n.val) (v.toNat % 2 ^ 32) (found s)) false (Reg.STP_POS n.val + 4) 15
      (v.toNat / 2 ^ 32) = 0 →
    ends (.stepPosWrite n v) s fun t => get64 t.die (Reg.STP_POS n.val) = v.toNat ∧
      flag t.die (Reg.STP_STAT_UNSURE n.val) = false ∧
      regsBut (fun o => o = Reg.STP_POS n.val ∨ o = Reg.STP_POS n.val + 4 ∨ o = Reg.STP_STAT n.val) s t ∧
      keepsBut [.regs] s t) ∧
  (∀ (s : State) (n : Fin 32), accepts s (Reg.STP_CTL n.val) 1 → fld s.die (Reg.STP_MODE_MODE n.val) ≠ 3 →
    (flag s.die (Reg.STP_CFG_GRPMEM n.val) && (grpH s.die (fld s.die (Reg.STP_CFG_GROUP n.val))).moving) = false →
    ends (.stpStop n) s fun t => (stpH t.die n.val).word = 0 ∧ (stpH t.die n.val).rise = none ∧
      (stpH t.die n.val).edgeDue = false ∧ (stpH t.die n.val).velDue = false ∧
      flag t.die (Reg.STP_STAT_STOPPED n.val) = true ∧ flag t.die (Reg.STP_STAT_ACTIVE n.val) = false ∧
      ((stpH s.die n.val).word ≠ 0 → flag t.die (Reg.STP_STAT_UNSURE n.val) = true) ∧
      get64 t.die (Reg.STP_VEL n.val) = 0 ∧ (∀ m, m ≠ n.val → stpH t.die m = stpH s.die m) ∧
      regsBut (fun o => o = Reg.STP_STAT n.val ∨ o = Reg.STP_VEL n.val ∨ o = Reg.STP_VEL n.val + 4) s t ∧
      keepsBut [.regs, .held, .stp] s t) ∧
  ∀ (s : State) (g : Fin 8), accepts s (Reg.STP_GRP_CTL g.val) 1 → ends (.groupStop g) s fun t =>
    (grpH t.die g.val).moving = false ∧
    (∀ n, n < 32 → bitOf (getReg s.die (Reg.STP_GRP_MEM g.val)).toNat n = true → fld s.die (Reg.STP_MODE_MODE n) ≠ 3 →
      (stpH t.die n).word = 0 ∧ (stpH t.die n).rise = none ∧ (stpH t.die n).edgeDue = false ∧
      (stpH t.die n).velDue = false ∧ flag t.die (Reg.STP_STAT_STOPPED n) = true) ∧
    keepsBut [.regs, .held, .stp, .grp, .host] s t

/-- R318, R320, R323, R325, R326: accepted writes of a CAN controller. That a write with RECOVER = 1 is RECOVER alone, whatever its
REQ field, is log entry 91. -/
def Obligations.CanWrites : Prop :=
  (∀ (s : State) (n : Fin 4), accepts s (Reg.CAN_CTL n.val) 0 → canState s.die n.val ≠ 0 → ends (.canReqOff n) s fun t =>
    canState t.die n.val = 0 ∧ (∀ b, b < 3 → flag s.die (Reg.TXB_CTL_REQ n.val b) = true →
      flag t.die (Reg.TXB_CTL_REQ n.val b) = false ∧ fld t.die (Reg.TXB_CTL_OUTCOME n.val b) = 2) ∧
    keepsBut [.regs, .can] s t) ∧
  (∀ (s : State) (n : Fin 4), accepts s (Reg.CAN_CTL n.val) 1 →
    (canState s.die n.val = 0 → s.die.boot.loaded = true → ends (.canReqNormal n) s fun t =>
      canState t.die n.val = 1 ∧ (canH t.die n.val).target = 2 ∧ regsBut (· = Reg.CAN_STAT n.val) s t ∧
      keepsBut [.regs, .can] s t) ∧
    (canState s.die n.val = 3 → ends (.canReqNormal n) s fun t => (canH t.die n.val).modeReq = some 2 ∧
      canState t.die n.val = 3 ∧ keepsBut [.regs, .can] s t)) ∧
  (∀ (s : State) (n : Fin 4), accepts s (Reg.CAN_CTL n.val) 2 →
    (canState s.die n.val = 0 → s.die.boot.loaded = true → ends (.canReqRestricted n) s fun t =>
      canState t.die n.val = 1 ∧ (canH t.die n.val).target = 3 ∧ regsBut (· = Reg.CAN_STAT n.val) s t ∧
      keepsBut [.regs, .can] s t) ∧
    (canState s.die n.val = 2 → ends (.canReqRestricted n) s fun t => (canH t.die n.val).modeReq = some 3 ∧
      canState t.die n.val = 2 ∧ keepsBut [.regs, .can] s t)) ∧
  (∀ (s : State) (n : Fin 4), accepts s (Reg.CAN_CTL n.val) 4 → ends (.canRecover n) s fun t =>
    canState t.die n.val = 5 ∧ regsBut (· = Reg.CAN_STAT n.val) s t ∧ keepsBut [.regs] s t) ∧
  (∀ (s : State) (n : Fin 4) (v : Word),
    (accepts s (Reg.CAN_NBT n.val) v.toNat → ends (.canBitTimingWrite n false v) s fun t =>
      (getReg t.die (Reg.CAN_NBT n.val)).toNat % 2 ^ 27 = v.toNat % 2 ^ 27 ∧ regsBut (· = Reg.CAN_NBT n.val) s t ∧
      keepsBut [.regs] s t) ∧
    (accepts s (Reg.CAN_DBT n.val) v.toNat → ends (.canBitTimingWrite n true v) s fun t =>
      (getReg t.die (Reg.CAN_DBT n.val)).toNat % 2 ^ 26 = v.toNat % 2 ^ 26 ∧ regsBut (· = Reg.CAN_DBT n.val) s t ∧
      keepsBut [.regs] s t)) ∧
  (∀ (s : State) (n : Fin 4) (b : Fin 3) (one : Bool), accepts s (Reg.TXB_CTL n.val b.val) (1 + 4 * b2n one) →
    ends (.txbReq n b one) s fun t => flag t.die (Reg.TXB_CTL_REQ n.val b.val) = true ∧
      flag t.die (Reg.TXB_CTL_ONESHOT n.val b.val) = one ∧ regsBut (· = Reg.TXB_CTL n.val b.val) s t ∧
      keepsBut [.regs] s t) ∧
  (∀ (s : State) (n : Fin 4) (b : Fin 3), accepts s (Reg.TXB_CTL n.val b.val) 2 →
    flag s.die (Reg.TXB_CTL_REQ n.val b.val) = true →
    ((canH s.die n.val).offered ≠ some b.val → ends (.txbAbort n b) s fun t =>
      flag t.die (Reg.TXB_CTL_REQ n.val b.val) = false ∧ fld t.die (Reg.TXB_CTL_OUTCOME n.val b.val) = 2 ∧
      flag t.die (Reg.CAN_STAT_TXDONE n.val) = true ∧
      regsBut (fun o => o = Reg.TXB_CTL n.val b.val ∨ o = Reg.CAN_STAT n.val) s t ∧ keepsBut [.regs, .can] s t) ∧
    ((canH s.die n.val).offered = some b.val → ends (.txbAbort n b) s fun t =>
      flag t.die (Reg.TXB_CTL_REQ n.val b.val) = true ∧ vget false (canH t.die n.val).aborting b.val = true ∧
      regsBut (· = Reg.TXB_CTL n.val b.val) s t ∧ keepsBut [.regs, .can] s t)) ∧
  ∀ (s : State) (n : Fin 4), accepts s (Reg.CAN_RXF_POP n.val) 1 → ends (.rxfPop n) s fun t =>
    (canH t.die n.val).fifo = (canH s.die n.val).fifo.drop 1 ∧ (∀ m, m ≠ n.val → canH t.die m = canH s.die m) ∧
    regsBut (fun _ => False) s t ∧ keepsBut [.regs, .can] s t

/-- R342, R343, R350, R354, R355, R378, R386, R387, R388, R402, R403, R407: accepted writes of the host port, the power
manager and the Logbook. -/
def Obligations.HostPowerAndLogWrites : Prop :=
  (∀ s : State, accepts s Reg.HST_LOCK 1 → ends .lock s fun t => flag t.die Reg.HST_LOCK_LOCK = true ∧
    regsBut (· = Reg.HST_LOCK) s t ∧ keepsBut [.regs] s t) ∧
  (∀ (s : State) (v : Word), accepts s Reg.HST_VER_SEL v.toNat → ends (.versionSelect v) s fun t =>
    fld t.die Reg.HST_VER_SEL_VER = v.toNat % 256 ∧ regsBut (· = Reg.HST_VER_SEL) s t ∧ keepsBut [.regs] s t) ∧
  (∀ (s : State) (k : BitVec 16), accepts s Reg.HST_RSP_SEL k.toNat → ends (.responseSelect k) s fun t =>
    fld t.die Reg.HST_RSP_SEL_TICKET = k.toNat ∧ regsBut (· = Reg.HST_RSP_SEL) s t ∧ keepsBut [.regs] s t) ∧
  (∀ (s : State) (v : Word), accepts s Reg.HST_CRING_HEAD v.toNat → ends (.ringHeadWrite v) s fun t =>
    fld t.die Reg.HST_CRING_HEAD_HEAD = v.toNat % 2 ^ 16 ∧
    t.die.host.delivered =
      consume ((v.toNat % 2 ^ 16 + 2 ^ 16 - fld s.die Reg.HST_CRING_HEAD_HEAD) % 2 ^ 16) true s.die.host.delivered ∧
    regsBut (· = Reg.HST_CRING_HEAD) s t ∧ keepsBut [.regs, .host] s t) ∧
  (∀ s : State, accepts s Reg.HST_CRING_CTL 1 → ends (.ringEnableWrite true) s fun t =>
    flag t.die Reg.HST_CRING_CTL_EN = true ∧ fld t.die Reg.HST_CRING_TAIL_TAIL = 0 ∧ fld t.die Reg.HST_CRING_HEAD_HEAD = 0 ∧
    keepsBut [.regs] s t) ∧
  (∀ s : State, accepts s Reg.HST_CRING_CTL 0 → ends (.ringEnableWrite false) s fun t =>
    flag t.die Reg.HST_CRING_CTL_EN = false ∧ regsBut (· = Reg.HST_CRING_CTL) s t ∧ keepsBut [.regs] s t) ∧
  (∀ s : State, accepts s Reg.HST_CFIFO_POP 1 → s.die.host.fifo ≠ [] → ends .hstCfifoPop s fun t =>
    t.die.host.fifo = s.die.host.fifo.drop 1 ∧ t.die.host.delivered = consume 1 false s.die.host.delivered ∧
    regsBut (fun _ => False) s t ∧ keepsBut [.regs, .host] s t) ∧
  (∀ (s : State) (v : Word), accepts s Reg.PWR_VINMIN v.toNat → ends (.vinminWrite v) s fun t =>
    fld t.die Reg.PWR_VINMIN_VINMIN = min s.die.pwr.vin 65535 ∧ regsBut (· = Reg.PWR_VINMIN) s t ∧ keepsBut [.regs] s t) ∧
  (∀ (s : State) (v : Word), accepts s Reg.PWR_TJ v.toNat → ends (.tjPeakWrite v) s fun t =>
    fld t.die Reg.PWR_TJ_PEAK = s.die.pwr.tj % 65536 ∧ regsBut (· = Reg.PWR_TJ) s t ∧ keepsBut [.regs] s t) ∧
  (∀ s : State, accepts s Reg.PWR_CTL 1 → fld s.die Reg.PWR_STAT_MODE = 0 → s.die.pwr.hibReq = false → ends .dozeRequest s fun t =>
    t.die.pwr.dozeReq = true ∧ regsBut (fun _ => False) s t ∧ keepsBut [.regs, .pwr] s t) ∧
  (∀ s : State, accepts s Reg.PWR_CTL 0 → fld s.die Reg.PWR_STAT_MODE = 1 → s.die.pwr.hibReq = false → ends .runRequest s fun t =>
    fld t.die Reg.PWR_STAT_MODE = 3 ∧ t.die.pwr.dozeOut = true ∧ regsBut (· = Reg.PWR_STAT) s t ∧
    keepsBut [.regs, .pwr] s t) ∧
  (∀ (s : State) (key : BitVec 16), accepts s Reg.PWR_CTL (2 + 65536 * key.toNat) → ends (.hibernateRequest key) s fun t =>
    t.die.pwr.hibReq = true ∧ key = 0x4E41 ∧ regsBut (fun _ => False) s t ∧ keepsBut [.regs, .pwr] s t) ∧
  (∀ s : State, accepts s Reg.LOG_CMD 1 → flag s.die Reg.LOG_STAT_FROZEN = false → ends .freeze s fun t =>
    flag t.die Reg.LOG_STAT_FROZEN = true ∧ t.die.lgb.queue = [] ∧ t.die.lgb.entries = s.die.lgb.entries ∧
    keepsBut [.regs, .lgb] s t) ∧
  (∀ s : State, accepts s Reg.LOG_CMD 2 → flag s.die Reg.LOG_STAT_FROZEN = true → ends .thaw s fun t =>
    flag t.die Reg.LOG_STAT_FROZEN = false ∧ flag t.die Reg.LOG_TRIGIDX_VALID = false ∧
    t.die.lgb.entries = s.die.lgb.entries ∧ keepsBut [.regs, .lgb] s t) ∧
  ∀ (s : State) (i : BitVec 12), accepts s Reg.LOG_RD_IDX i.toNat → ends (.logRdIdxWrite i) s fun t =>
    (∀ j, j < 8 → getReg t.die (Reg.LOG_RD_W j) = BitVec.ofNat 32 (nth (sget [] s.die.lgb.entries i.toNat) j)) ∧
    keepsBut [.regs] s t

/-- R336, R340, R10: a write with no byte enabled has no effect; a rejected one changes only HST_ERR and its count; an
accepted one stores the lanes it names, and a 1 clears a W1C bit. R280, R339, R417: while a member read is pending, accesses
wait, a member's credit is out or the register's domain is being switched, the write waits its turn (what waits for a switch:
log entry 155). -/
def Obligations.RegisterWriteJudgement : Prop :=
  (∀ (s : State) (off : BitVec 20) (be : BitVec 4) (v : Word), hostUp (found s) = true →
    (writesWait (found s) = true ∨ switching (found s) off.toNat = true) →
    ends (.registerWrite off be v) s fun t => keepsBut [.trk] s t ∧
      t.die.trk = { s.die.trk with held := s.die.trk.held ++ [.write 0 off.toNat be.toNat v.toNat] }) ∧
  (∀ (s : State) (off : BitVec 20) (be : BitVec 4) (v : Word), hostUp (found s) = false →
    ends (.registerWrite off be v) s (keepsBut [] s)) ∧
  ∀ (s : State) (off : BitVec 20) (be : BitVec 4) (v : Word), hostTakes (found s) = true →
    switching (found s) off.toNat = false →
    let code := judgeWrite (found s) false off.toNat be.toNat v.toNat
    let m := laneMask be.toNat
    (be = 0 → ends (.registerWrite off be v) s fun t => regsBut (fun _ => False) s t ∧ keepsBut [] s t) ∧
    (be ≠ 0 → code ≠ 0 → flag s.die Reg.HST_ERR_VALID = false → ends (.registerWrite off be v) s fun t =>
      getReg t.die Reg.HST_ERR = BitVec.ofNat 32 (code + 256 * off.toNat + 2 ^ 31) ∧
      getReg t.die Reg.HST_CNT_ERR = BitVec.ofNat 32 (satInc 32 (getReg s.die Reg.HST_CNT_ERR).toNat) ∧
      regsBut (fun o => o = Reg.HST_ERR ∨ o = Reg.HST_CNT_ERR) s t ∧ keepsBut [.regs] s t) ∧
    (be ≠ 0 → code ≠ 0 → flag s.die Reg.HST_ERR_VALID = true → ends (.registerWrite off be v) s fun t =>
      flag t.die Reg.HST_ERR_MULTI = true ∧ fld t.die Reg.HST_ERR_CODE = fld s.die Reg.HST_ERR_CODE ∧
      fld t.die Reg.HST_ERR_OFFSET = fld s.die Reg.HST_ERR_OFFSET ∧
      getReg t.die Reg.HST_CNT_ERR = BitVec.ofNat 32 (satInc 32 (getReg s.die Reg.HST_CNT_ERR).toNat) ∧
      regsBut (fun o => o = Reg.HST_ERR ∨ o = Reg.HST_CNT_ERR) s t ∧ keepsBut [.regs] s t) ∧
    (∀ w, w < 16 → off.toNat = Reg.HST_CMD_DESC w → be ≠ 0 → code = 0 → ends (.registerWrite off be v) s fun t =>
      (getReg t.die off.toNat).toNat =
        ((getReg s.die off.toNat).toNat - ((getReg s.die off.toNat).toNat &&& m)) + (v.toNat &&& m) ∧
      regsBut (· = off.toNat) s t ∧ keepsBut [.regs] s t) ∧
    (off.toNat = Reg.HST_ERR → be = 15 → ends (.registerWrite off be v) s fun t =>
      (bitOf v.toNat 31 = true → flag t.die Reg.HST_ERR_VALID = false ∧ flag t.die Reg.HST_ERR_MULTI = false) ∧
      (bitOf v.toNat 31 = false → getReg t.die Reg.HST_ERR = getReg s.die Reg.HST_ERR) ∧
      regsBut (· = Reg.HST_ERR) s t ∧ keepsBut [.regs] s t)

/-! ### Reads, PCIe requests and QSPI frames -/

/-- R24, R338: a read of BEAT_NUM answers it and stores the GT of its edge; a read of a low word answers it and snapshots its
high word, which reads of the high word answer until the next read of the low word. R339, R417: a read waits for what is
before it, and for a domain that is being switched (log entry 155). R330, R331, R337, R394: a memory read answers one word for each dword asked, in completions that cross no multiple
of 64 bytes; a memory write of one dword does what a register write does, one of two dwords writes both; configuration reads
answer nothing before the endpoint is ready, and then the identity; writes of the command dword set Bus Master Enable, and of
the power management and MSI dwords (their places: log entry 13) the power state and MSI. -/
def Obligations.HostReads : Prop :=
  let reads (s : State) (off n : Nat) : Prop :=
    hostUp (found s) = true ∧ readsWait (found s) = false ∧ anySwitching (found s) off n = false
  ((∀ s : State, reads s Reg.BEAT_NUM 1 → sget none s.die.snap Reg.BEAT_NUM = none → ends .beatNumRead s fun t =>
    t.die.host.rdData = [getReg s.die Reg.BEAT_NUM] ∧
    (running s.die = true → get64 t.die Reg.BEAT_EDGE = edgeGt (hz s.die) s.die.tb.k % 2 ^ 64) ∧
    regsBut (fun o => o = Reg.BEAT_EDGE ∨ o = Reg.BEAT_EDGE + 4) s t ∧ keepsBut [.regs, .snap, .host] s t) ∧
  (∀ (s : State) (off : BitVec 20) (x : RegRow × List Nat), reads s off.toNat 1 →
    regAt s.die false off.toNat = some x → isLow off.toNat = true →
    ends (.lowWordRead off) s fun t =>
      sget none t.die.snap (off.toNat + 4) = some (BitVec.ofNat 32 (viewReg s.dog (found s) (off.toNat + 4))) ∧
      (sget none s.die.snap off.toNat = none →
        t.die.host.rdData = [BitVec.ofNat 32 (readVal s.dog (found s) false off.toNat)]) ∧
      regsBut (fun _ => False) s t ∧ keepsBut [.snap, .host] s t) ∧
  (∀ (s : State) (off : BitVec 20) (x : RegRow × List Nat) (w : Word), reads s off.toNat 1 → off.toNat % 4 = 0 →
    regAt s.die false off.toNat = some x → isLow off.toNat = false → sget none s.die.snap off.toNat = some w →
    ends (.lowWordRead off) s fun t => t.die.host.rdData = [w] ∧ sget none t.die.snap off.toNat = some w) ∧
  (∀ (s : State) (off : BitVec 20), hostUp (found s) = true →
    (readsWait (found s) = true ∨ switching (found s) off.toNat = true) →
    ends (.lowWordRead off) s fun t => t.die.host.rdData = [] ∧
      t.die.trk = { s.die.trk with held := s.die.trk.held ++ [.read off.toNat [15]] } ∧ keepsBut [.trk, .host] s t) ∧
  ∀ (s : State) (off : BitVec 20), hostUp (found s) = false →
    ends (.lowWordRead off) s fun t => t.die.host.rdData = [] ∧ keepsBut [.host] s t) ∧
  ((∀ (s : State) (off : BitVec 20) (fb lb : BitVec 4) (data : List Word), pcieUp (found s) = true →
    reads s off.toNat data.length →
    ends (.pcieMemoryRequest false off fb lb data) s fun t => t.die.host.rdData.length = data.length ∧
      t.die.host.rdCpl.flatten = t.die.host.rdData ∧
      (off.toNat % 4 = 0 → ∀ a p b, t.die.host.rdCpl = a ++ p :: b → p ≠ [] ∧
        (off.toNat + 4 * (a.flatten.length + p.length) - 1) / 64 = (off.toNat + 4 * a.flatten.length) / 64) ∧
      keepsBut [.regs, .snap, .trk, .host] s t) ∧
  (∀ (s : State) (off : BitVec 20) (lb : BitVec 4) (v : Word) (x : RegRow × List Nat), pcieUp (found s) = true →
    reads s off.toNat 1 → regAt s.die false off.toNat = some x → sget none s.die.snap off.toNat = none →
    ends (.pcieMemoryRequest false off 15 lb [v]) s fun t =>
      t.die.host.rdData = [BitVec.ofNat 32 (readVal s.dog (found s) false off.toNat)]) ∧
  (∀ (s : State) (off : BitVec 20) (fb lb : BitVec 4) (v : Word), pcieUp (found s) = true →
    ends (.pcieMemoryRequest true off fb lb [v]) s fun t => exec (.registerWrite off fb v) s = .next t) ∧
  (∀ (s : State) (off : BitVec 20) (w : Nat) (u v : Word), pcieUp (found s) = true → writesWait (found s) = false → w < 15 →
    off.toNat = Reg.HST_CMD_DESC w → anySwitching (found s) off.toNat 2 = false → ends (.pcieMemoryRequest true off 15 15 [u, v]) s fun t =>
      getReg t.die (Reg.HST_CMD_DESC w) = u ∧ getReg t.die (Reg.HST_CMD_DESC (w + 1)) = v ∧
      regsBut (fun o => o = Reg.HST_CMD_DESC w ∨ o = Reg.HST_CMD_DESC (w + 1)) s t ∧ keepsBut [.regs] s t) ∧
  (∀ (s : State) (i : Fin 1024) (x : Option Word), pcieUp (found s) = true → s.die.tb.gt < s.die.host.cfgReady →
    ends (.pcieConfigRequest i x) s fun t => t.die.host.rdData = [] ∧ t.die.host.bme = s.die.host.bme ∧
      keepsBut [.host] s t) ∧
  (∀ s : State, pcieUp (found s) = true → s.die.host.cfgReady ≤ s.die.tb.gt → ends (.pcieConfigRequest 0 none) s fun t =>
    t.die.host.rdData = [BitVec.ofNat 32 (Config.pciVendorId.toNat + 65536 * 0x7128)] ∧ keepsBut [.host, .fresh] s t) ∧
  (∀ (s : State) (i : Fin 1024), pcieUp (found s) = true → s.die.host.cfgReady ≤ s.die.tb.gt →
    i.val ∈ [5, 7, 8, 9, 12] → ends (.pcieConfigRequest i none) s fun t => t.die.host.rdData = [0] ∧
      keepsBut [.host, .fresh] s t) ∧
  (∀ (s : State) (v : Word), pcieUp (found s) = true → s.die.host.cfgReady ≤ s.die.tb.gt →
    ends (.pcieConfigRequest 1 (some v)) s fun t => t.die.host.bme = bitOf v.toNat 2 ∧ keepsBut [.host] s t) ∧
  ∀ (s : State) (i : Fin 1024) (v : Word), pcieUp (found s) = true → s.die.host.cfgReady ≤ s.die.tb.gt → 16 ≤ i.val →
    ends (.pcieConfigRequest i (some v)) s fun t => keepsBut [.host] s t ∧ t.die.host.bme = s.die.host.bme ∧
      (i.val = Config.pcieCap 0 + 1 →
        (v.toNat % 4 = 3 → t.die.host.pmD3 = true) ∧ (v.toNat % 4 = 0 → t.die.host.pmD3 = false)) ∧
      (i.val ≠ Config.pcieCap 0 + 1 → i.val = Config.pcieCap 1 → t.die.host.msiEn = bitOf v.toNat 16))

/-- R333, R334, R335: a sound QSPI write frame writes its words; a frame with a bad header, a bad data CRC, clocks missing or no
room writes nothing, sets its error bit and is counted; clocks beyond its end set their bit beside its effect; a read frame
answers as many words as it asks for, after READY and with their CRC, and one with a bad header only ones. R339, R417: the words
of a frame wait for what is before them, and for a domain that is being switched (log entry 155). R375: the port takes no frame
in the first 0.5 ms after a start. The length of the answer to a bad header, the count of frames held and the order of the
faults of a header are the model's (log entry 96). -/
def Obligations.QspiFrames : Prop :=
  let errs (o : Nat) : Prop := o = Reg.HST_SPI_ERR ∨ o = Reg.HST_CNT_SPIERR
  let one (b : List Byte) : Prop := spiHeader b = none ∧ b.length = 10 ∧ leAt b 0 1 % 16 = 0
  let wr (b : List Byte) : Prop := bitOf (leAt b 0 1) 7 = false
  let calm (s : State) (off n : Nat) : Prop := anySwitching (found s) off n = false
  let fails (s : State) (i : Instr) (f : Fld) : Prop := ends i s fun t => flag t.die f = true ∧
    getReg t.die Reg.HST_CNT_SPIERR = BitVec.ofNat 32 (satInc 32 (getReg s.die Reg.HST_CNT_SPIERR).toNat) ∧
    regsBut errs s t ∧ keepsBut [.regs, .host] s t
  (∀ (s : State) (b : List Byte) (h : Fin 3) (w : Nat), qspiUp (found s) = true → one b → wr b → h.val < 2 → w < 16 →
    writesWait (found s) = false → calm s (Reg.HST_CMD_DESC w) 1 → leAt b 1 3 = Reg.HST_CMD_DESC w → leAt b 9 1 = crc07 (slice b 5 4) →
    (ends (.qspiWriteFrame b ⟨h, .exact⟩) s fun t => getReg t.die (Reg.HST_CMD_DESC w) = BitVec.ofNat 32 (leAt b 5 4) ∧
      regsBut (· = Reg.HST_CMD_DESC w) s t ∧ keepsBut [.regs, .host] s t) ∧
    ends (.qspiWriteFrame b ⟨h, .extra⟩) s fun t => getReg t.die (Reg.HST_CMD_DESC w) = BitVec.ofNat 32 (leAt b 5 4) ∧
      flag t.die Reg.HST_SPI_ERR_EXTRA = true ∧ regsBut (fun o => o = Reg.HST_CMD_DESC w ∨ errs o) s t ∧
      keepsBut [.regs, .host] s t) ∧
  (∀ (s : State) (b : List Byte) (h : Fin 3) (e : QspiEnd) (f : Fld), qspiUp (found s) = true → spiHeader b = some f →
    f.off = Reg.HST_SPI_ERR ∧ fails s (.qspiWriteFrame b ⟨h, e⟩) f ∧ fails s (.qspiReadFrame b e) f) ∧
  (∀ (s : State) (b : List Byte) (h : Fin 3), qspiUp (found s) = true → one b → wr b →
    fails s (.qspiWriteFrame b ⟨h, .early⟩) Reg.HST_SPI_ERR_FRAG ∧
    (leAt b 9 1 ≠ crc07 (slice b 5 4) → fails s (.qspiWriteFrame b ⟨h, .exact⟩) Reg.HST_SPI_ERR_DCRC) ∧
    (leAt b 9 1 = crc07 (slice b 5 4) → h.val = 2 → fails s (.qspiWriteFrame b ⟨h, .exact⟩) Reg.HST_SPI_ERR_OVR)) ∧
  (∀ (s : State) (b : List Byte) (w : Nat), qspiUp (found s) = true → one b → wr b → w < 16 →
    leAt b 1 3 = Reg.HST_CMD_DESC w → leAt b 9 1 = crc07 (slice b 5 4) →
    (writesWait (found s) = true ∨ ¬ calm s (Reg.HST_CMD_DESC w) 1) → ends (.qspiWriteFrame b ⟨0, .exact⟩) s fun t =>
      t.die.trk.held = s.die.trk.held ++ [.write 0 (Reg.HST_CMD_DESC w) 15 (leAt b 5 4)] ∧
      keepsBut [.trk, .host] s t) ∧
  (∀ (s : State) (b : List Byte), qspiUp (found s) = true → spiHeader b = none → bitOf (leAt b 0 1) 7 = true →
    (readsWait (found s) = true ∨ ¬ calm s (leAt b 1 3) (leAt b 0 1 % 16 + 1)) →
    ends (.qspiReadFrame b .exact) s fun t => t.die.host.rdData = [] ∧
      t.die.trk.held = s.die.trk.held ++ [.spi (leAt b 1 3) (leAt b 0 1 % 16 + 1)] ∧ keepsBut [.trk, .host] s t) ∧
  (∀ (s : State) (b : List Byte), qspiUp (found s) = true → spiHeader b = none → bitOf (leAt b 0 1) 7 = true →
    readsWait (found s) = false → calm s (leAt b 1 3) (leAt b 0 1 % 16 + 1) →
    ends (.qspiReadFrame b .exact) s fun t => t.die.host.rdData.length = leAt b 0 1 % 16 + 1 ∧
      t.die.host.spiOut = hioOut s.die (spiAnswer t.die.host.rdData)) ∧
  (∀ (s : State) (b : List Byte) (e : QspiEnd) (f : Fld), qspiUp (found s) = true → spiHeader b = some f →
    f ≠ Reg.HST_SPI_ERR_FRAG → bitOf (leAt b 0 1) 7 = true → scanned s.die = false → ends (.qspiReadFrame b e) s fun t =>
      t.die.host.spiOut.length = 4 * (leAt b 0 1 % 16 + 1) + 2 ∧ ∀ x ∈ t.die.host.spiOut, x = 0xFF) ∧
  ∀ (s : State) (b : List Byte) (h : Fin 3) (e : QspiEnd),
    (qspiUp (found s) = false ∨ s.die.tb.gt < 500000 ∧ s.die.boot.loaded = false) →
    ends (.qspiWriteFrame b ⟨h, e⟩) s (keepsBut [] s) ∧ ends (.qspiReadFrame b e) s (keepsBut [] s)

/-! ### The command mailbox -/

/-- R344 to R348, R49, R146, R198, R200, R225, R227, R245, R275, R351: the commands of the motion and network queues, each
accepted with the next ticket and started at once. When a NOP and a LEASH_MBX to a node that is not ADMITTED complete is log entry
69, when TRUNK_STOP acts 56. -/
def Obligations.MotionAndNetworkCommands : Prop :=
  ∀ (s : State) (user : BitVec 16),
    let k := nextTicket s
    let go (i : Instr) (op q : Nat) (ws : List Nat) (P : State → Prop) : Prop :=
      takes s (descOf op user ws) → i.wellFormed = true → ends i s fun t => ticketed s t op user q ∧ P t
    (∀ q : Fin 4, go (.nopCommand q user) 0x01 q.val [q.val] fun t =>
      k ≠ 0 → queueFree s q.val → doneWith s t 0x01 (· = 0)) ∧
    (∀ a : Fin 128, go (.home a user) 0x10 0 [a.val] fun t =>
      fld t.die (Reg.AX_LS_CTL_MODE a.val) = 3 ∧ flag t.die (Reg.AX_LS_STAT_HOMING a.val) = true ∧
      (gearH t.die a.val).hmState = 0 ∧ (gearH t.die a.val).hmTicket = k ∧
      (gearH t.die a.val).hmStart = (gearH s.die a.val).p) ∧
    go (.shedClear user) 0x11 0 [] (fun t => t.die.host.shedClear = s.die.host.shedClear ++ [k]) ∧
    (∀ (g : Fin 8) (d : List Word), go (.stepMove g d user) 0x12 0 (g.val :: d.map (·.toNat)) fun t =>
      let n := d.foldl (fun (x : Nat) y => max x (sext 32 y.toNat).natAbs) 0
      (n ≠ 0 → (grpH t.die g.val).moving = true ∧ (grpH t.die g.val).n = n ∧ (grpH t.die g.val).made = 0 ∧
        (grpH t.die g.val).ticket = k ∧ flag t.die (Reg.STP_GRP_STAT_MOVING g.val) = true) ∧
      (n = 0 → k ≠ 0 → doneWith s t 0x12 (· = 0))) ∧
    (∀ n : Fin 32, go (.stepHome n user) 0x13 0 [n.val] fun t =>
      fld t.die (Reg.STP_MODE_MODE n.val) = 3 ∧ (stpH t.die n.val).hmState = 0 ∧ (stpH t.die n.val).hmTicket = k ∧
      (stpH t.die n.val).word = 0 ∧ (stpH t.die n.val).edgeDue = false ∧ (stpH t.die n.val).velDue = false) ∧
    (∀ (i : BitVec 10) (p : Word), go (.runJob i p user) 0x50 0 [i.toNat, p.toNat] fun t =>
      kqueue t.die 6 = kqueue s.die 6 ++ [.desc i.toNat k p.toNat]) ∧
    (∀ (seg : Fin 4) (node : Fin 32) (code : BitVec 16) (data : List Byte),
      go (.leashMbx seg node code data user) 0x30 2 ((seg.val + 4 * node.val + 65536 * code.toNat) ::
        (upto (cdiv data.length 4)).map fun i => leAt data (4 * i) 4) fun t =>
      nodeState s.die seg.val node.val = 2 → ∃ q, (nodeH t.die seg.val node.val).queue =
          (nodeH s.die seg.val node.val).queue ++ [q] ∧ q.code = code.toNat ∧ q.ticket = k ∧ q.sent = none) ∧
    (∀ seg : Fin 4, go (.leashSwitchback seg user) 0x31 2 [seg.val] fun t =>
      (16 ≤ (segH s.die seg.val).wholeRun → pathState t.die seg.val = 4 ∧ (segH t.die seg.val).swTicket = k) ∧
      ((segH s.die seg.val).wholeRun < 16 → k ≠ 0 → doneWith s t 0x31 (· = 0xA))) ∧
    (∀ (seg : Fin 4) (node : Fin 32), go (.leashReadmit seg node user) 0x32 2 [seg.val + 4 * node.val] fun t =>
      nodeState t.die seg.val node.val = 0 ∧ fld t.die (Reg.LSH_NODE_STAT_REASON seg.val node.val) = 0 ∧
      (k ≠ 0 → (∀ q ∈ (nodeH s.die seg.val node.val).queue, q.ticket ≠ k) → doneWith s t 0x32 (· = 0))) ∧
    (∀ all : Bool, go (.trunkStop all user) 0x33 2 [b2n all] fun t =>
      (ctState s.die = 0 → k ≠ 0 → doneWith s t 0x33 (· = 0)) ∧
      (ctState s.die ≠ 0 → t.die.trk.stopTickets = s.die.trk.stopTickets ++ [k] ∧
        (all = true → t.die.trk.stopIn = some (s.die.trk.stopIn.getD 3)) ∧ (all = false → t.die.trk.stopDue = true))) ∧
    go (.trunkStart user) 0x34 2 [] (fun t =>
      (flag s.die Reg.CTR_CFG_DECL = false → k ≠ 0 → doneWith s t 0x34 (· = 0xB)) ∧
      (k ≠ 0 → doneWith s t 0x34 (· = 0xB) ∨
        (ctState t.die = 1 ∧ t.die.trk.startTicket = k ∧ t.die.trk.ownOn = false ∧ t.die.tb.trim = 0 ∧
          getReg t.die Reg.CTR_RATE = 0)))

/-- R246, R347, R348, R372 to R374, R413: the commands of the configuration and maintenance queues, accepted and, with nothing
of their queue before them, run; a fault of the flash ends a Parcel command FAILED, with the code FLASH where the command has
one, and a command whose flash operation is still going on stays outstanding (how the flash goes: log entry 82). -/
def Obligations.SerialCommands : Prop :=
  ∀ (s : State) (user : BitVec 16) (fl : FlashRun),
    let k := nextTicket s
    let run (i : Instr) (op q : Nat) (ws : List Nat) (P : State → Prop) : Prop :=
      takes s (descOf op user ws) → i.wellFormed = true → k ≠ 0 → queueFree s q →
        (∀ c ∈ s.die.host.cmds, c.ticket ≠ k) → ends i s P
    let warn := flag s.die Reg.PWR_STAT_VWARN
    let calm := warn = false ∧ (fl.ending = .good ∧ scanned s.die = false ∨ hostDownload s.die = true)
    let flash (x : FlashEnd) : Prop := warn = false ∧ hostDownload s.die = false ∧ scanned s.die = false ∧ fl.ending = x
    (∀ len crc : Word, run (.parcelBegin len crc user fl) 0x20 1 [len.toNat, crc.toNat] fun t =>
      (calm → ticketed s t 0x20 user 1 ∧ flag t.die Reg.GLB_BOOT_STAT_SESSION = true ∧ t.die.boot.len = len.toNat ∧
        t.die.boot.crc = crc.toNat ∧ t.die.boot.written = [] ∧ doneWith s t 0x20 (· = 0)) ∧
      (flash .fault → flag t.die Reg.GLB_BOOT_STAT_SESSION = false ∧
        ∃ c ∈ t.die.host.cmds, c.ticket = k ∧ c.done = true ∧ c.status = 1 ∧ c.r0 = 0xE) ∧
      (flash .running → ticketed s t 0x20 user 1 ∧ flag t.die Reg.GLB_BOOT_STAT_SESSION = true ∧
        ∃ c ∈ t.die.host.cmds, c.ticket = k ∧ c.started = true ∧ c.done = false) ∧
      (warn = true → flag t.die Reg.GLB_BOOT_STAT_SESSION = false ∧
        flag t.die Reg.GLB_BOOT_STAT_SUPPLYCUT = true ∧ doneWith s t 0x20 (· = 0xE))) ∧
    (∀ (off : Word) (ws : List Word), run (.parcelData off ws user fl) 0x21 1 (off.toNat :: ws.map (·.toNat)) fun t =>
      (flash .fault → flag t.die Reg.GLB_BOOT_STAT_SESSION = false ∧
        ∃ c ∈ t.die.host.cmds, c.ticket = k ∧ c.done = true ∧ c.status = 1 ∧ c.r0 = 0) ∧
      (flash .running → t.die.boot.written = s.die.boot.written ∧
        ∃ c ∈ t.die.host.cmds, c.ticket = k ∧ c.started = true ∧ c.done = false) ∧
      (calm → ticketed s t 0x21 user 1 ∧ t.die.boot.written = s.die.boot.written ++ [(off.toNat, 4 * ws.length)] ∧
        (hostDownload s.die = true → t.die.boot.flash = s.die.boot.flash) ∧
        (hostDownload s.die = false → t.die.boot.buffer = s.die.boot.buffer) ∧ doneWith s t 0x21 (· = 0))) ∧
    run (.parcelCommit user fl) 0x22 1 [] (fun t =>
      ((fl.ending ≠ .running ∨ hostDownload s.die = true ∨ warn = true) → flag t.die Reg.GLB_BOOT_STAT_SESSION = false ∧
        doneWith s t 0x22 fun x => x = 0 ∨ x = 1 ∨ x = 0xD ∨ x = 0xE) ∧
      ∃ c ∈ t.die.host.cmds, c.ticket = k ∧ c.op = 0x22 ∧ (c.done = true ∨ c.started = true)) ∧
    run (.parcelAbort user) 0x23 1 [] (fun t => ticketed s t 0x23 user 1 ∧
      flag t.die Reg.GLB_BOOT_STAT_SESSION = false ∧ t.die.boot.written = [] ∧ t.die.boot.flash = s.die.boot.flash ∧
      doneWith s t 0x23 (· = 0)) ∧
    (∀ seg : Fin 4, run (.leashProof seg user) 0x40 3 [seg.val] fun t => ticketed s t 0x40 user 3 ∧
      pathState t.die seg.val = 5 ∧ (segH t.die seg.val).proof = 1 ∧ (segH t.die seg.val).proofTicket = k) ∧
    (∀ f : BitVec 8, run (.fuseArm f user) 0x41 3 [f.toNat] fun t => ticketed s t 0x41 user 3 ∧
      flag t.die Reg.LOG_DBG_ARMED = true ∧ t.die.boot.armCode ≠ 0 ∧ t.die.boot.blown = s.die.boot.blown ∧
      ∃ c ∈ t.die.host.cmds, c.ticket = k ∧ c.done = true ∧ c.status = 0 ∧ c.r0 = t.die.boot.armCode) ∧
    ∀ (f : BitVec 8) (code : Word), run (.fuseBurn f code user) 0x42 3 [f.toNat, code.toNat] fun t =>
      ticketed s t 0x42 user 3 ∧ t.die.boot.burnTicket = k ∧ t.die.boot.armCode = 0 ∧
      flag t.die Reg.LOG_DBG_ARMED = false ∧ code.toNat = s.die.boot.armCode

/-- R347, R353 to R357, R394, R413: the events of the mailbox: the next command of a serial queue starts; a completion goes to
the FIFO or the ring and sets CMPL; a hold-off ends with the message that waited; PERST; a fuse is blown or its arm expires. That
PERST drops the accesses that wait is log entry 98. -/
def Obligations.MailboxEvents : Prop :=
  (∀ (s : State) (q : Fin 4) (fl : FlashRun) (c : Cmd), q.val % 2 = 1 → (∀ x ∈ s.die.host.cmds, x.op ≠ 1) →
    s.die.host.cmds.find? (fun x => x.q == q.val && !x.done) = some c → c.started = false →
    ends (.commandStart q fl) s fun t => ∃ x ∈ t.die.host.cmds, x.ticket = c.ticket ∧ x.op = c.op ∧ x.started = true) ∧
  (∀ (s : State) (c : Cmd), (∀ x ∈ s.die.host.cmds, x.op = 1 → x.done = true) → cmplReady s.die = some c →
    isMember s.die = false → flag s.die Reg.HST_CRING_CTL_EN = false → s.die.host.fifo.length < 256 →
    ends .completionWrite s fun t => t.die.host.fifo = s.die.host.fifo ++ [withPhase (cmplEntry c) true] ∧
      t.die.host.cmds = s.die.host.cmds.filter (fun x => x.ticket != c.ticket) ∧
      t.die.host.delivered = s.die.host.delivered ++ [(c.ticket, c.q, false)] ∧
      bitOf (getReg t.die Reg.HST_IRQ_STAT).toNat 0 = true ∧ keepsBut [.regs, .host, .boot] s t) ∧
  (∀ (s : State) (c : Cmd), (∀ x ∈ s.die.host.cmds, x.op = 1 → x.done = true) → cmplReady s.die = some c →
    isMember s.die = false → ringRoom s.die = true → fld s.die Reg.HST_CRING_SIZE_SIZE ≠ 0 →
    ends .completionWrite s fun t =>
      let n := fld s.die Reg.HST_CRING_TAIL_TAIL
      let size := fld s.die Reg.HST_CRING_SIZE_SIZE
      let base := (getReg s.die Reg.HST_CRING_BASE).toNat + 2 ^ 32 * (getReg s.die (Reg.HST_CRING_BASE + 4)).toNat
      sget [] t.die.host.ring (base + n % size * 16) = withPhase (cmplEntry c) (n / size % 2 == 0) ∧
      (∀ a, a ≠ base + n % size * 16 → sget [] t.die.host.ring a = sget [] s.die.host.ring a) ∧
      fld t.die Reg.HST_CRING_TAIL_TAIL = (n + 1) % 65536 ∧ t.die.host.fifo = s.die.host.fifo ∧
      bitOf (getReg t.die Reg.HST_IRQ_STAT).toNat 0 = true) ∧
  (∀ (s : State) (e : Nat), s.die.host.holdEnd = some e → ends .irqHoldoffEnd s fun t =>
    t.die.tb.gt = max s.die.tb.gt e ∧ t.die.host.holdPend = false ∧
    (s.die.host.holdPend = true → cmplCan s.die = true →
      t.die.host.holdEnd = (if fld s.die Reg.HST_IRQ_HOLDOFF_HOLDOFF = 0 then none
        else some (max s.die.tb.gt e + 1000 * fld s.die Reg.HST_IRQ_HOLDOFF_HOLDOFF)) ∧
      (s.die.host.msixEn = true → s.die.host.msixMask = false → 0 ∈ t.die.host.irqMsgs) ∧
      (s.die.host.msixEn = false → s.die.host.msiEn = true → 16 ∈ t.die.host.irqMsgs) ∧
      (s.die.host.msixEn = false → s.die.host.msiEn = false → irqPend s.die = 1 → 17 ∈ t.die.host.irqMsgs)) ∧
    (s.die.host.holdPend = false → t.die.host.holdEnd = none)) ∧
  (∀ s : State, ends (.perst true) s fun t => flag t.die Reg.HST_CRING_CTL_EN = false ∧ t.die.host.cfg = [] ∧
    t.die.host.bme = false ∧ t.die.host.perst = true ∧ t.die.trk.held = [] ∧ regsBut (· = Reg.HST_CRING_CTL) s t ∧
    keepsBut [.regs, .trk, .host] s t) ∧
  (∀ s : State, s.die.host.perst = true → ends (.perst false) s fun t => t.die.host.perst = false ∧
    t.die.host.cfgReady = max 20000000 (s.die.tb.gt + 1000000) ∧ keepsBut [.host] s t) ∧
  (∀ s : State, s.die.boot.burnTicket ≠ 0 →
    (ends (.fuseBurnDone true) s fun t => t.die.boot.blown = true ∧ t.die.boot.burnTicket = 0 ∧
      flag t.die Reg.LOG_DBG_DBGOFF = true ∧ flag t.die Reg.LOG_DBG_ATTACHED = false) ∧
    (ends (.fuseBurnDone false) s fun t => t.die.boot.blown = s.die.boot.blown ∧ t.die.boot.burnTicket = 0)) ∧
  ∀ (s : State) (e : Nat), s.die.boot.armUntil = some e → ends .fuseArmExpiry s fun t =>
    flag t.die Reg.LOG_DBG_ARMED = false ∧ t.die.boot.armCode = 0 ∧ t.die.boot.armUntil = none ∧
    t.die.tb.gt = max s.die.tb.gt e ∧ regsBut (· = Reg.LOG_DBG) s t ∧ keepsBut [.regs, .tb, .boot] s t

/-! ### Master and line shaft -/

/-- R128, R130: a quadrature input that changes one level counts one and is stamped once the level has been stable for FILT
times 4 ns, one that changes both is an error, a shorter change counts nothing (which level counts up is the model's: log
entry 15); an analogue code joins the codes of the last 250 µs with the instant of its completion, and a code at the end of its
range is marked. R135 to R137, R144: the gear unit runs once in a beat and leaves targets for every declared axis; MHOLD
late beats lose the master; an accepted ACK rebases it without a jump; ENGAGING ends with lock or after ENGMAX runs. -/
def Obligations.MasterAndGearUnit : Prop :=
  ((∀ (s : State) (n : Fin 2) (ab : BitVec 2) (x : QWord) (y : Nat), powered s.die 78 = true → (pulseH s.die n.val).ab < 4 →
    let p := pulseH s.die n.val
    let filt := 4 * fld s.die (Reg.MST_MP_CFG_FILT n.val)
    (filt ≤ y → p.ab ≠ ab.toNat → p.ab + ab.toNat ≠ 3 → ends (.quadratureEdge n ab ⟨x, y⟩) s fun t =>
      ((pulseH t.die n.val).count - p.count).natAbs = 1 ∧ (pulseH t.die n.val).ab = ab.toNat ∧
      (pulseH t.die n.val).stamp = x.toNat + filt ∧
      getReg t.die (Reg.MST_MP_CNT n.val) = BitVec.ofNat 32 (wrap 32 (pulseH t.die n.val).count) ∧
      regsBut (· = Reg.MST_MP_CNT n.val) s t ∧ keepsBut [.regs, .tb, .mst] s t) ∧
    (filt ≤ y → p.ab + ab.toNat = 3 → ends (.quadratureEdge n ab ⟨x, y⟩) s fun t =>
      (pulseH t.die n.val).count = p.count ∧ (pulseH t.die n.val).ab = ab.toNat ∧
      flag t.die (if n.val = 0 then Reg.MST_STAT_QERR0 else Reg.MST_STAT_QERR1) = true ∧
      getReg t.die Reg.MST_CNT_QERR = BitVec.ofNat 32 (satInc 32 (getReg s.die Reg.MST_CNT_QERR).toNat) ∧
      regsBut (fun o => o = Reg.MST_STAT ∨ o = Reg.MST_CNT_QERR) s t ∧ keepsBut [.regs, .tb, .mst] s t) ∧
    (p.ab = ab.toNat → ends (.quadratureEdge n ab ⟨x, y⟩) s fun t => keepsBut [.tb] s t) ∧
    (y < filt → ends (.quadratureEdge n ab ⟨x, y⟩) s (keepsBut [] s))) ∧
  ∀ (s : State) (n : Fin 2) (code : BitVec 16) (x : QWord), powered s.die 78 = true →
    ends (.analogueConversion n code x) s fun t =>
      (anaH t.die n.val).codes =
        (anaH s.die n.val).codes.filter (fun y => x.toNat < y.1 + 250000) ++ [(x.toNat, sext 16 code.toNat)] ∧
      (getReg t.die (Reg.MST_MA_RAW n.val)).toNat = code.toNat ∧
      ((code = 0x7FFF ∨ code = 0x8000) →
        flag t.die (if n.val = 0 then Reg.MST_STAT_MAOVR0 else Reg.MST_STAT_MAOVR1) = true) ∧
      regsBut (fun o => o = Reg.MST_MA_RAW n.val ∨ o = Reg.MST_STAT) s t ∧ keepsBut [.regs, .tb, .mst] s t) ∧
  ((∀ s : State, running s.die = true → powered s.die 78 = true → s.die.mst.ran ≠ some s.die.tb.k → s.die.tb.phase < 2 →
    ends .gearUnitRun s fun t => t.die.mst.ran = some s.die.tb.k ∧
      t.die.tb.gt = max s.die.tb.gt (inBeat s.die 500) ∧
      (∀ a, a < 128 → axDecl s.die a = true → (gearH t.die a).tgtDue = true) ∧
      getReg t.die Reg.MST_GU_END = BitVec.ofNat 32 (500 + 40 * (declAxes s.die).length)) ∧
  (∀ s : State, s.die.mst.ran = some s.die.tb.k → ends .gearUnitRun s (keepsBut [] s)) ∧
  (∀ s : State, flag s.die Reg.MST_STAT_LOST = false → 1 ≤ s.die.mst.lateRun →
    fld s.die Reg.MST_CFG_MHOLD ≤ s.die.mst.lateRun → ends .masterLost s fun t =>
      flag t.die Reg.MST_STAT_LOST = true ∧ keepsBut [.regs, .lgb] s t) ∧
  (∀ (s : State) (k e : Nat) (x : Sample), s.die.mst.ran = some k → s.die.mst.ackEdge = some e → e ≤ k →
    flag s.die Reg.MST_STAT_LOST = true → flag s.die Reg.MST_STAT_ACKPEND = true → s.die.mst.inTime = true →
    requiredSample s.die k = some x → ends .rebase s fun t =>
      t.die.mst.m = s.die.mst.m ∧ getI64 t.die Reg.MST_X_POS = wrapS 64 s.die.mst.m ∧
      getI64 t.die Reg.MST_REBASE = wrapS 64 (s.die.mst.m - (extrapolate s.die k x).1) ∧
      flag t.die Reg.MST_STAT_LOST = false ∧ flag t.die Reg.MST_STAT_HALTED = false ∧
      flag t.die Reg.MST_STAT_ACKPEND = false ∧ flag t.die Reg.MST_STAT_REBASED = true ∧ t.die.mst.ackEdge = none) ∧
  ∀ (s : State) (a : Fin 128), flag s.die (Reg.AX_LS_STAT_ENGAGING a.val) = true →
    (flag s.die (Reg.AX_LS_STAT_LOCK a.val) = true ∨ effN s.die (Reg.AX_LS_ENGMAX a.val) ≤ (gearH s.die a.val).runs) →
    ends (.engagingEnd a) s fun t => flag t.die (Reg.AX_LS_STAT_ENGAGING a.val) = false ∧
      regsBut (· = Reg.AX_LS_STAT a.val) s t ∧ keepsBut [.regs] s t)

/-- R143: in lock the limiter passes the raw target; in every step the acceleration changes by no more than the jerk limit
allows in one beat, and stays within amax where it was; beyond vmax it turns back towards it. Out of lock velocity and position
follow from the acceleration. -/
def Obligations.LimiterBoundsJerk : Prop :=
  ∀ (d : Die) (a : Nat) (r vr ar : Int),
    let y := limiter d a r vr ar
    let dt := edgeI d (d.tb.k + 1) - edgeI d d.tb.k
    (y.2.2.2 = true → y.1 = r ∧ y.2.1 = vr ∧ y.2.2.1 = ar) ∧
    ((y.2.2.1 - (gearH d a).a).natAbs : Int) ≤ rhu ((effN d (Reg.AX_LS_JMAX a) * 1024 * 65536 : Nat) * dt) giga ∧
    (let g := gearH d a
     let amax : Int := (effN d (Reg.AX_LS_AMAX a) * 16 * 65536 : Nat)
     let vmax : Int := (effN d (Reg.AX_LS_VMAX a) * 65536 : Nat)
     ((g.a.natAbs : Int) ≤ amax → (y.2.2.1.natAbs : Int) ≤ amax) ∧
     (y.2.2.2 = true → (vr - g.v).natAbs ≤ rhu ((effN d (Reg.AX_LS_TOL a) : Nat) * giga) dt ∧ (ar.natAbs : Int) ≤ amax) ∧
     (y.2.2.2 = false → vmax < g.v → y.2.2.1 ≤ max g.a 0) ∧ (y.2.2.2 = false → g.v < -vmax → min g.a 0 ≤ y.2.2.1) ∧
     (y.2.2.2 = false → y.2.1 = g.v + rhu ((g.a + y.2.2.1) * dt) (2 * giga) ∧
       y.1 = wrapS 64 (g.p + rhu ((g.v + y.2.1) * dt) (2 * giga))))

/-! ### Capture -/

/-- R171 to R178: a trigger that a channel can take starts its window; one that reaches it while it acquires is counted as
ignored, one outside the gate does nothing; one that finds no free slot stops it with its GT. The commands that bring triggers
bring them to their channels, a trigger input and a cross-trigger line once the level has been stable for 8 ns, with the
stamp of its first sample at 500 MHz; a pulse the part makes itself triggers the channels of that line. -/
def Obligations.CaptureTriggers : Prop :=
  (∀ (d : Die) (c t it : Nat), c < 16 → chState d c = 2 → gateOk d c = true →
    trigger d c t it = incReg d (Reg.CAP_CH_CNT_IGN c)) ∧
  (∀ (d : Die) (c t it : Nat), gateOk d c = false → trigger d c t it = d) ∧
  (∀ (d : Die) (c t it : Nat), c < 16 → chState d c = 1 → inHoldoff d c it = false → gateOk d c = true →
    slotFree d c = false → chState (trigger d c t it) c = 3 ∧ fld (trigger d c t it) (Reg.CAP_CH_STAT_OVF c) = 1 ∧
      get64 (trigger d c t it) (Reg.CAP_CH_OVF_GT c) = t % 2 ^ 64 ∧
      (flag d (Reg.CAP_CH_SRC_XTOUT c) = false → flag d (Reg.CAP_CH_SRC_TTOUT c) = true → d.cap.ttQueue.length < 16 →
        (trigger d c t it).cap.ttQueue = d.cap.ttQueue ++ [(fld d (Reg.CAP_CH_SRC_TTOSEL c), t)])) ∧
  (∀ (d : Die) (c e l t it : Nat), c < 16 → e < 16 → e ≠ c → l < 4 → channelReady d c it →
    flag d (Reg.CAP_CH_SRC_XTOUT c) = true → fld d (Reg.CAP_CH_SRC_XTOSEL c) = l → xtCounts d l t = false → d.tb.gt < t + 100 →
    fld d (Reg.CAP_CH_SRC_TSRC e) = 3 → fld d (Reg.CAP_CH_SRC_TSEL e) = l → channelReady d e (cdiv (pinStamp t) 50) →
    chState (trigger d c t it) c = 2 ∧ xtLevel (trigger d c t it) l = false ∧ chState (trigger d c t it) e = 2) ∧
  (∀ (s : State) (n : Fin 16) (rising : Bool) (x : QWord) (y c : Nat), c < 16 → powered s.die 67 = true → 8 ≤ y →
    bitOf s.die.cap.trg n.val ≠ rising →
    fld s.die (Reg.CAP_CH_SRC_TSRC c) = 2 → fld s.die (Reg.CAP_CH_SRC_TSEL c) = n.val →
    bitOf (fld s.die (Reg.CAP_CH_SRC_EDGE c)) (if rising then 0 else 1) = true →
    channelReady s.die c (cdiv (pinStamp x.toNat) 50) → ends (.triggerEdge n rising ⟨x, y⟩) s fun t =>
      acquiring s t c (pinStamp x.toNat) (cdiv (pinStamp x.toNat) 50) ∧ bitOf t.die.cap.trg n.val = rising ∧
      keepsBut [.regs, .tb, .cap, .fresh] s t) ∧
  (∀ (s : State) (n : Fin 16) (rising : Bool) (x : QWord) (y : Nat), y < 8 →
    ends (.triggerEdge n rising ⟨x, y⟩) s (keepsBut [] s)) ∧
  (∀ (s : State) (l : Fin 4) (x : QWord) (y c : Nat), c < 16 → powered s.die 67 = true → 8 ≤ y →
    xtCounts s.die l.val x.toNat = false →
    fld s.die (Reg.CAP_CH_SRC_TSRC c) = 3 → fld s.die (Reg.CAP_CH_SRC_TSEL c) = l.val →
    channelReady s.die c (cdiv (pinStamp x.toNat) 50) → ends (.xtEdge l ⟨x, y⟩) s fun t =>
      acquiring s t c (pinStamp x.toNat) (cdiv (pinStamp x.toNat) 50) ∧ keepsBut [.regs, .tb, .cap, .fresh] s t) ∧
  (∀ (s : State) (l : Fin 4) (x : QWord) (y : Nat), y < 8 → ends (.xtEdge l ⟨x, y⟩) s (keepsBut [.cap] s)) ∧
  (∀ (s : State) (mask : BitVec 16) (x : QWord) (c : Nat), c < 16 → accepts s Reg.CAP_SWTRIG mask.toNat →
    bitOf mask.toNat c = true → s.die.tb.gt ≤ x.toNat → channelReady s.die c (cdiv x.toNat 50) →
    (fld s.die (Reg.CAP_CH_SRC_TSRC c) ≠ 3 ∨ x.toNat % 2 = 0) →
    ends (.softwareTrigger mask x) s fun t =>
      acquiring s t c x.toNat (cdiv x.toNat 50) ∧ keepsBut [.regs, .tb, .cap, .fresh] s t) ∧
  ∀ (s : State) (c : Fin 16) (i : Nat), powered s.die 67 = true → (chanH s.die c.val).cross = some i →
    channelReady s.die c.val i → ends (.markCrossing c) s fun t => acquiring s t c.val (50 * i) i ∧
      (flag s.die (Reg.CAP_CH_SRC_XTOUT c.val) = false → ∀ e, e ≠ c.val → chanH t.die e = chanH s.die e) ∧
      keepsBut [.regs, .cap, .fresh] s t

/-- R167 to R169, R172, R178, R182: sampling, flooding and the ripple record of the mark inputs; the end of a pull; arming and
disarming; the end of a window and the completion of a record. That disarming gives the number of a discarded record back is log
entry 28. -/
def Obligations.CaptureWindowsAndRecords : Prop :=
  (∀ (s : State) (uv : Vector Nat 8), powered s.die 67 = true → ends (.markSample uv) s fun t =>
    let i := max s.die.cap.next (cdiv s.die.tb.gt 50)
    t.die.cap.next = i + 1 ∧ t.die.tb.gt = max s.die.tb.gt (50 * i) ∧
    ∀ n, n < 8 → powered s.die (59 + n) = true →
      let x := adcCode (fld s.die (Reg.CAP_MK_CFG_GAIN n)) (vget 0 uv n)
      (∃ e rest, (markH t.die n).hist = e :: rest ∧ e.1 = (i : Int) ∧ smpCode e.2 = x) ∧
      (markH t.die n).base = baseNext (markH s.die n).base x (fld s.die (Reg.CAP_MK_CFG_BSH n))) ∧
  (∀ (s : State) (n : Fin 8) (k : Fin 3), powered s.die (59 + n.val) = true →
    vget false (markH s.die n.val).test k.val = false →
    bitOf (getReg s.die (Reg.CAP_MK_STAT n.val)).toNat k.val = true → ends (.floodHoldExpiry n k) s fun t =>
      bitOf (getReg t.die (Reg.CAP_MK_STAT n.val)).toNat k.val = false ∧
      (bitOf (getReg s.die (Reg.CAP_MK_STAT n.val)).toNat (4 + k.val) = true →
        bitOf (getReg t.die (Reg.CAP_MK_STAT n.val)).toNat (4 + k.val) = true) ∧
      regsBut (· = Reg.CAP_MK_STAT n.val) s t ∧ keepsBut [.regs, .tb] s t) ∧
  (∀ s : State, s.die.cap.ripDue = true → ends .rippleRecord s fun t => t.die.cap.ripDue = false ∧
    ∀ n, n < 8 → powered s.die (59 + n) = true →
      (markH t.die n).rip = (baseBi (markH s.die n).base :: (markH s.die n).rip).take 250) ∧
  (∀ (s : State) (l : Fin 4), ends (.xtPulseEnd l) s fun t => vget none t.die.cap.xtPull l.val = none ∧
    (∀ e, vget none s.die.cap.xtPull l.val = some e → t.die.tb.gt = max s.die.tb.gt e) ∧
    xtLevel t.die l.val = decide (vget 0 s.die.cap.xtLow l.val ≤ t.die.tb.gt) ∧ keepsBut [.tb, .cap] s t) ∧
  (∀ (s : State) (c : Fin 16) (one : Bool), accepts s (Reg.CAP_CH_CTL c.val) (1 + 4 * b2n one) →
    (flag s.die (Reg.CAP_CH_SRC_DECL c.val) = true → (chState s.die c.val = 0 ∨ chState s.die c.val = 3) →
      ends (.arm c one) s fun t => chState t.die c.val = 1 ∧ (chanH t.die c.val).single = one ∧
        (chanH t.die c.val).fresh = true ∧ (∀ e, e ≠ c.val → chanH t.die e = chanH s.die e) ∧
        regsBut (· = Reg.CAP_CH_STAT c.val) s t ∧ keepsBut [.regs, .cap] s t) ∧
    (flag s.die (Reg.CAP_CH_SRC_DECL c.val) = false → ends (.arm c one) s fun t =>
      regsBut (fun _ => False) s t ∧ keepsBut [.regs] s t)) ∧
  (∀ (s : State) (c : Fin 16), accepts s (Reg.CAP_CH_CTL c.val) 2 → ends (.disarm c) s fun t =>
    chState t.die c.val = 0 ∧ (chanH t.die c.val).acq = none ∧
    (∀ a, (chanH s.die c.val).acq = some a → fld t.die (Reg.CAP_CH_WRSEQ_SEQ c.val) = a.seq % 2 ^ 28) ∧
    (∀ e, e ≠ c.val → chanH t.die e = chanH s.die e) ∧
    regsBut (fun o => o = Reg.CAP_CH_STAT c.val ∨ o = Reg.CAP_CH_WRSEQ c.val) s t ∧ keepsBut [.regs, .cap] s t) ∧
  (∀ (s : State) (c : Fin 16) (a : Acq), (chanH s.die c.val).acq = some a → chState s.die c.val = 2 →
    a.want ≤ a.samples.length → ends (.windowEnd c) s fun t =>
      (chanH t.die c.val).acq = none ∧ (chanH t.die c.val).pend.length = (chanH s.die c.val).pend.length + 1 ∧
      chState t.die c.val = (if (chanH s.die c.val).single then 0 else 1) ∧
      (∀ e, e ≠ c.val → chanH t.die e = chanH s.die e) ∧ regsBut (· = Reg.CAP_CH_STAT c.val) s t ∧
      keepsBut [.regs, .cap] s t) ∧
  ∀ (s : State) (c : Fin 16) (a : Acq) (rest : List Acq), (chanH s.die c.val).pend = a :: rest →
    (running s.die = true → a.dueBeat < s.die.tb.k ∨ (a.dueBeat = s.die.tb.k ∧ s.die.tb.phase = 3)) →
    ends (.recordComplete c) s fun t => (chanH t.die c.val).pend = rest ∧
      fld t.die (Reg.CAP_CH_DONESEQ_SEQ c.val) = (a.seq + 1) % 2 ^ 28 ∧
      getReg t.die (Reg.CAP_CH_CNT_REC c.val) =
        BitVec.ofNat 32 (satInc 32 (getReg s.die (Reg.CAP_CH_CNT_REC c.val)).toNat) ∧
      (a.samples.any smpFlood = true → flag t.die (Reg.CAP_CH_STAT_FLOODREC c.val) = true) ∧
      t.dog = s.dog ∧ t.pending = s.pending

/-! ### Step generators -/

/-- R192, R193, R195, R198, R200: what each step event does to its channel or group, and one clock of a channel that runs at
its rate. -/
def Obligations.StepEvents : Prop :=
  (∀ (s : State) (n : Fin 32),
    let h := stpH s.die n.val
    let only (t : State) : Prop := ∀ m, m ≠ n.val → stpH t.die m = stpH s.die m
    (h.carryDue = true → ends (.stepCarry n) s fun t => (stpH t.die n.val).rise = some 2 ∧
      (stpH t.die n.val).carryDue = false ∧ only t ∧ keepsBut [.stp] s t) ∧
    (h.step = true → h.high = 0 → ends (.stepPulseEnd n) s fun t => (stpH t.die n.val).step = false ∧
      (stpH t.die n.val).lowFor = 0 ∧ only t ∧ keepsBut [.stp] s t) ∧
    (h.rev = .low → h.step = false → h.rise = none → h.carryDue = false → 10 ≤ h.lowFor →
      ends (.dirChange n) s fun t => flag t.die (Reg.STP_STAT_DIR n.val) = !h.lastPos ∧
        (stpH t.die n.val).rev = .setup (fld s.die (Reg.STP_CFG_DSU n.val)) ∧ only t ∧
        regsBut (· = Reg.STP_STAT n.val) s t ∧ keepsBut [.regs, .stp] s t) ∧
    (h.rev = .setup 0 → ends (.accumulationResume n) s fun t => (stpH t.die n.val).rev = .none ∧ only t ∧
      keepsBut [.stp] s t) ∧
    (∀ (level : Bool) (y : Nat), y < 1000 → ends (.hmInputChange n ⟨level, y⟩) s (keepsBut [] s)) ∧
    (∀ (level : Bool) (y : Nat), 1000 ≤ y → stpOn s.die n.val = true → flag s.die (Reg.STP_CFG_DECL n.val) = true →
      (fld s.die (Reg.STP_MODE_MODE n.val) ≠ 3 → ends (.hmInputChange n ⟨level, y⟩) s fun t =>
        flag t.die (Reg.STP_STAT_HM n.val) = (level != flag s.die (Reg.STP_CFG_HMPOL n.val)) ∧
        regsBut (· = Reg.STP_STAT n.val) s t ∧ keepsBut [.regs] s t) ∧
      (fld s.die (Reg.STP_MODE_MODE n.val) = 3 → h.hmState = 1 → h.hmSteps ≤ effN s.die (Reg.STP_HMTRAVEL n.val) →
        (level != flag s.die (Reg.STP_CFG_HMPOL n.val)) = true → ends (.hmInputChange n ⟨level, y⟩) s fun t =>
          (stpH t.die n.val).hmState = 2 ∧ fld t.die (Reg.STP_STAT_HM_STATE n.val) = 2)) ∧
    ((∀ g, g < 8 → (grpH s.die g).carryDue = false) → stpOn s.die n.val = true →
      flag s.die (Reg.STP_CFG_DECL n.val) = true → fld s.die (Reg.STP_MODE_MODE n.val) = 1 → h.velDue = false →
      h.carryDue = false → h.step = false → h.rev = .none →
      ends .stepClock s fun t => t.die.tb.gt = max s.die.stpClk (10 * cdiv s.die.tb.gt 10) ∧
        t.die.stpClk = t.die.tb.gt + 10 ∧
        (stpH t.die n.val).acc = (h.acc + h.word.natAbs) % 2 ^ 48 ∧
        (stpH t.die n.val).carryDue = decide (2 ^ 48 ≤ h.acc + h.word.natAbs) ∧
        (h.rise = none → (stpH t.die n.val).step = false) ∧
        (h.rise = some 1 → (stpH t.die n.val).step = true ∧
          (stpH t.die n.val).high = fld s.die (Reg.STP_CFG_PW n.val) ∧
          getI64 t.die (Reg.STP_POS n.val) = wrapS 64 (getI64 s.die (Reg.STP_POS n.val) +
            (if flag s.die (Reg.STP_STAT_DIR n.val) then -1 else 1))))) ∧
  ∀ (s : State) (g : Fin 8), (grpH s.die g.val).carryDue = true →
    let h := grpH s.die g.val
    ends (.leadCarry g) s fun t => (grpH t.die g.val).made = h.made + 1 ∧ (grpH t.die g.val).carryDue = false ∧
      (h.n ≤ h.made + 1 → (grpH t.die g.val).moving = false ∧ flag t.die (Reg.STP_GRP_STAT_MOVING g.val) = false) ∧
      (h.made + 1 < h.n → (grpH t.die g.val).moving = h.moving ∧
        getReg t.die (Reg.STP_GRP_LEFT g.val) = BitVec.ofNat 32 (h.n - (h.made + 1))) ∧
      (∀ e, e ≠ g.val → grpH t.die e = grpH s.die e) ∧ keepsBut [.regs, .stp, .grp, .host] s t

/-! ### Leash segments and ring paths -/

/-- R35, R221, R222: an in-slot that passes every test of R221 is accepted: up to IDL the axis has its feedback of this beat and
its current loop is posted; after IDL it counts as LATE and gives no feedback, and after FCL it is not received; one with a bad header or a bad slot CRC is counted and gives no feedback. What the two counters count is log
entries 36 and 38; that an arrival is judged at the instant its command gives, whatever GT says, is 70. -/
def Obligations.InSlotFeedback : Prop :=
  ∀ (s : State) (port : Fin 8) (slot : Fin 48) (hdr bytes : List Byte) (arr : Nat),
    let d := s.die
    let seg := port.val / 2
    let e := slotWord d seg slot.val
    let a := e % 128
    let i := fld d (Reg.AX_CFG_NODE a)
    let b := padTo (slotLen e) bytes
    let crcOk : Prop := if bitOf e 8 then leAt b 14 2 = slotCrc true (beatNum d) slot.val (b.take 14)
      else leAt b 7 1 = slotCrc false (beatNum d) slot.val (b.take 7)
    let p := axH d a
    let at_ := (toGt d (inBeat d arr)).tb
    let fcl := fld d Reg.BEAT_FCL_VALUE
    (fcl < arr → ends (.inSlotAccept port slot hdr bytes arr) s (keepsBut [] s)) ∧
    (arr ≤ fcl → receives d port.val = true → slot.val < fld d (Reg.LSH_SCFG_NSLOT seg) → bitOf e 7 = true →
    (hdrGood d seg 1 hdr = true → crcOk → nodeState d seg i = 2 → plausible d a (leAt b 1 4) = true →
      noneLater s 0 at_.cyc →
      (segH d seg).rxHead.slots.contains slot.val = false → (segH d seg).rxTail.slots.contains slot.val = false →
      (d.tb.phase ≠ 0 ∨ fld d Reg.BEAT_IDL_VALUE < arr) → ends (.inSlotAccept port slot hdr bytes arr) s fun t =>
        flag t.die (Reg.AX_STAT_LATE a) = true ∧
        getReg t.die (Reg.AX_CNT_LATE a) = BitVec.ofNat 32 (satInc 32 (getReg d (Reg.AX_CNT_LATE a)).toNat) ∧
        t.die.tb = at_ ∧ t.die.knl = d.knl ∧ getI64 t.die (Reg.AX_PFB a) = getI64 d (Reg.AX_PFB a) ∧
        ∀ j, axH t.die j = axH d j) ∧
    (hdrGood d seg 1 hdr = true → crcOk → nodeState d seg i = 2 → plausible d a (leAt b 1 4) = true →
      noneLater s 0 at_.cyc →
      (segH d seg).rxHead.slots.contains slot.val = false → (segH d seg).rxTail.slots.contains slot.val = false →
      d.tb.phase = 0 → arr ≤ fld d Reg.BEAT_IDL_VALUE → ends (.inSlotAccept port slot hdr bytes arr) s fun t =>
        (axH t.die a).inSlot = true ∧ t.die.tb = at_ ∧ getReg t.die (Reg.AX_FBTAG a) = BitVec.ofNat 32 (beatNum d) ∧
        getI64 t.die (Reg.AX_PFB a) = wrapS 64 ((axH t.die a).np + getI64 d (Reg.AX_HM_OFFS a)) ∧
        (∀ k', p.lastAcc = some k' →
          (axH t.die a).np = wrapS 64 (p.np + sext 32 (leAt b 1 4 + 2 ^ 32 - p.posRaw) * 256)) ∧
        (p.lastAcc = none → (axH t.die a).np = sext 32 (leAt b 1 4) * 256) ∧
        (axState d a ≠ 0 → (kqueue d (1 + seg)).length < 64 →
          kqueue t.die (1 + seg) = kqueue d (1 + seg) ++ [.axis a d.tb.k]) ∧
        ∀ j, j ≠ a → axH t.die j = axH d j) ∧
    (hdrGood d seg 1 hdr = false → ends (.inSlotAccept port slot hdr bytes arr) s fun t =>
      getReg t.die (Reg.LSH_CNT_BADHDR port.val) =
        BitVec.ofNat 32 (satInc 32 (getReg d (Reg.LSH_CNT_BADHDR port.val)).toNat) ∧
      t.die.tb = at_ ∧ regsBut (· = Reg.LSH_CNT_BADHDR port.val) s t ∧ keepsBut [.regs, .tb, .dogIo] s t) ∧
    (hdrGood d seg 1 hdr = true → ¬ crcOk → ends (.inSlotAccept port slot hdr bytes arr) s fun t =>
      getReg t.die (Reg.LSH_CNT_SLOTCRC seg) =
        BitVec.ofNat 32 (satInc 32 (getReg d (Reg.LSH_CNT_SLOTCRC seg)).toNat) ∧
      t.die.tb = at_ ∧ (nodeState d seg i = 2 →
        ((if port.val % 2 = 0 then (segH t.die seg).rxHead else (segH t.die seg).rxTail).fails).contains i = true) ∧
      regsBut (· = Reg.LSH_CNT_SLOTCRC seg) s t ∧ keepsBut [.regs, .segs, .tb, .dogIo] s t))

/-- R205, R206, R216, R223, R235, R238: frames of a segment: a returned beat frame is counted and judged; the ROLL frame of its
beat is sent before any other acyclic frame; a port holds synchronisation while its pins do and, with an SGMII partner, that
has reported 1000 Mbit/s full duplex last. -/
def Obligations.LeashFrames : Prop :=
  (∀ (s : State) (port : Fin 8) (hdr body : List Byte) (fcs : Word) (tp : Nat), receives s.die port.val = true →
    ends (.beatFrameEnd port hdr body fcs tp) s fun t =>
      let r := if port.val % 2 = 0 then (segH t.die (port.val / 2)).rxHead else (segH t.die (port.val / 2)).rxTail
      r.got = true ∧
      r.good = (decide (fcs.toNat = crc32 (hdr ++ body)) && hdrGood s.die (port.val / 2) 1 hdr) ∧
      getReg t.die (Reg.LSH_CNT_RXFRM port.val) =
        BitVec.ofNat 32 (satInc 32 (getReg s.die (Reg.LSH_CNT_RXFRM port.val)).toNat) ∧
      (fcs.toNat ≠ crc32 (hdr ++ body) → getReg t.die (Reg.LSH_CNT_BADFCS port.val) =
        BitVec.ofNat 32 (satInc 32 (getReg s.die (Reg.LSH_CNT_BADFCS port.val)).toNat))) ∧
  (∀ (s : State) (seg : Fin 4),
    let g := segH s.die seg.val
    let at_ := max (g.sendEnd + 96) (s.die.tb.gt - edgeGt (hz s.die) s.die.tb.k)
    running s.die = true → s.die.tb.phase < 3 → segOn s.die seg.val = true → g.acycDone = false → g.rollSent = false →
    twoLine s.die seg.val = false → 556 ≤ acycRoom s.die at_ (tFit s.die seg.val) →
    ends (.acyclicFrameSend seg) s fun t => (segH t.die seg.val).rollSent = true ∧
      (segH t.die seg.val).acyclic.length = 8 + 556 ∧ (segH t.die seg.val).acyclic.take 8 = preamble ∧
      (segH t.die seg.val).sendEnd = at_ + 104 + 8 * 556 ∧
      keepsBut [.segs] s t) ∧
  ∀ (s : State) (port : Fin 8), powered s.die (42 + port.val) = true →
    let phy := fld s.die (Reg.LSH_PCFG_PHY port.val)
    let here (t : State) : Prop := regsBut (· = Reg.LSH_PSTAT port.val) s t ∧ keepsBut [.regs, .segs] s t
    (phy ≠ 1 ∨ (portLink s.die port.val).gig = true → ends (.rxSyncChange port true) s fun t =>
      flag t.die (Reg.LSH_PSTAT_RXSYNC port.val) = true ∧ (portLink t.die port.val).sync = true ∧ here t) ∧
    (phy = 1 → (portLink s.die port.val).gig = false → ends (.rxSyncChange port true) s fun t =>
      flag t.die (Reg.LSH_PSTAT_RXSYNC port.val) = false ∧ (portLink t.die port.val).sync = true) ∧
    (flag s.die (Reg.LSH_PSTAT_RXSYNC port.val) = true → ends (.rxSyncChange port false) s fun t =>
      flag t.die (Reg.LSH_PSTAT_RXSYNC port.val) = false ∧ flag t.die (Reg.LSH_PSTAT_LOSS port.val) = true ∧
      getReg t.die (Reg.LSH_CNT_SYNCLOSS port.val) =
        BitVec.ofNat 32 (satInc 32 (getReg s.die (Reg.LSH_CNT_SYNCLOSS port.val)).toNat) ∧ keepsBut [.regs, .segs] s t) ∧
    (phy = 1 → ends (.sgmiiSpeedReport port false) s fun t =>
      flag t.die (Reg.LSH_PSTAT_SPDERR port.val) = true ∧ flag t.die (Reg.LSH_PSTAT_RXSYNC port.val) = false ∧
      (portLink t.die port.val).gig = false ∧ keepsBut [.regs, .segs] s t) ∧
    (phy = 1 → (portLink s.die port.val).sync = true → ends (.sgmiiSpeedReport port true) s fun t =>
      flag t.die (Reg.LSH_PSTAT_RXSYNC port.val) = true ∧ (portLink t.die port.val).gig = true ∧ here t) ∧
    (phy ≠ 1 → ∀ ok : Bool, ends (.sgmiiSpeedReport port ok) s (keepsBut [] s))

/-- R223, R224, R225, R227, R350: the node table: roll call notes who answers and starts the admission of a node that matches;
an acknowledged node is admitted with its axes at edge E, one not acknowledged falls back; a lost node takes its axes out of
service; a mailbox response or its timeout ends the request at the front of the node's queue. -/
def Obligations.NodeAdmissionAndMailbox : Prop :=
  (∀ (s : State) (seg : Fin 4) (hdr body : List Byte) (fcs : Word) (i : Nat), i < 32 →
    receives s.die (2 * seg.val + 1) = true → fcs.toNat = crc32 (hdr ++ body) → hdrGood s.die seg.val 2 hdr = true →
    let e := rollEntry body i
    leAt e 0 1 ≠ 0 → ends (.rollFrameReturn seg hdr body fcs) s fun t =>
      (getReg t.die (Reg.LSH_NODE_ID seg.val i)).toNat = leAt e 2 4 ∧
      (getReg t.die (Reg.LSH_NODE_SERIAL seg.val i)).toNat = leAt e 8 4 ∧
      (i < nNode s.die seg.val → nodeState s.die seg.val i = 0 → rollReason (nodeH s.die seg.val i) e = 0 →
        flag s.die (Reg.LSH_SSTAT_TOPO seg.val) = false → nodeState t.die seg.val i = 1 ∧
          (nodeH t.die seg.val i).effBeat = s.die.tb.k + 16 ∧ (nodeH t.die seg.val i).acked = false) ∧
      (i < nNode s.die seg.val → nodeState s.die seg.val i = 0 → rollReason (nodeH s.die seg.val i) e ≠ 0 →
        nodeState t.die seg.val i = 3 ∧
        fld t.die (Reg.LSH_NODE_STAT_REASON seg.val i) = rollReason (nodeH s.die seg.val i) e)) ∧
  (∀ (s : State) (seg : Fin 4) (i : Fin 32),
    let n := nodeH s.die seg.val i.val
    let mine (a : Nat) : Prop := axDecl s.die a = true ∧ fld s.die (Reg.AX_CFG_SEG a) = seg.val ∧
      fld s.die (Reg.AX_CFG_NODE a) = i.val
    (nodeState s.die seg.val i.val = 1 → n.acked = true → n.effBeat ≤ s.die.tb.k →
      ends (.admissionEffective seg i) s fun t => nodeState t.die seg.val i.val = 2 ∧
        (∀ a, a < 128 → mine a → (axH t.die a).admitted = true ∧ (axH t.die a).lastAcc = none) ∧
        (∀ a, a < 128 → ¬ mine a → axH t.die a = axH s.die a) ∧ keepsBut [.regs, .axes, .segs, .nodes, .lgb] s t) ∧
    (nodeState s.die seg.val i.val = 1 → n.acked = false → n.effBeat ≤ s.die.tb.k →
      ends (.admissionTimeout seg i) s fun t => nodeState t.die seg.val i.val = 0 ∧
        fld t.die (Reg.LSH_NODE_STAT_REASON seg.val i.val) = 4 ∧
        (nodeH t.die seg.val i.val).queue = n.queue.filter (fun r => r.ticket != 0) ∧
        keepsBut [.regs, .segs, .nodes] s t) ∧
    (lossDue s.die seg.val i.val = true → ends (.nodeLost seg i) s fun t => nodeState t.die seg.val i.val = 0 ∧
      (nodeH t.die seg.val i.val).queue = [] ∧
      (∀ a, a < 128 → mine a → (axH t.die a).removed = true ∧ (axH t.die a).admitted = false) ∧
      (∀ a, a < 128 → ¬ mine a → axH t.die a = axH s.die a)) ∧
    (∀ (q : MbxReq) (rest : List MbxReq) (b : Nat), n.queue = q :: rest → q.sent = some b →
      b + 16 * effFld s.die (Reg.LSH_SCHED_MBXTO seg.val) ≤ s.die.tb.k → q.ticket ≠ 0 →
      ends (.mailboxTimeout seg i) s fun t => (nodeH t.die seg.val i.val).queue = rest ∧
        t.die.host.rsps = ((q.ticket, 7, []) :: s.die.host.rsps).take 16 ∧ keepsBut [.regs, .nodes, .host] s t)) ∧
  ∀ (s : State) (seg : Fin 4) (hdr body : List Byte) (fcs : Word) (q : MbxReq) (rest : List MbxReq),
    let i := leAt hdr 21 1
    let area := slice body (leAt hdr 22 2) (leAt hdr 24 2)
    let rlen := leAt area 0 2
    bitOf (leAt hdr 3 1) 3 = false → receives s.die (2 * seg.val + 1) = true → fcs.toNat = crc32 (hdr ++ body) →
    hdrGood s.die seg.val 3 hdr = true → 4 ≤ rlen → rlen + 2 ≤ area.length → i < nNode s.die seg.val →
    (nodeH s.die seg.val i).queue = q :: rest → q.sent.isSome = true → leAt area 2 2 = q.tag → q.ticket ≠ 0 →
    ends (.mbxFrameReturn seg hdr body fcs) s fun t => (nodeH t.die seg.val i).queue = rest ∧
      t.die.host.rsps =
        ((q.ticket, (if leAt area 4 2 = 0 then 0 else if leAt area 4 2 = 1 then 5 else 6), slice area 6 (rlen - 4)) ::
          s.die.host.rsps).take 16

/-- R234, R242, R243, R245, R246: the path states: a snapshot that fails ends a fail-over in RING with FOFAIL; two-line running
starts at the third edge after the failure; a switch-back that stays good ends in RING; the phases of a proof follow one
another and the last one ends the test. -/
def Obligations.PathStateEvents : Prop :=
  (∀ (s : State) (seg : Fin 4) (good : Bool),
    let snap := (segH s.die seg.val).snap
    (good = true → snap.crc = snapCrc snap.words → ends (.snapshotRestore seg good) s (keepsBut [] s)) ∧
    (pathState s.die seg.val = 2 → (good = false ∨ snap.crc ≠ snapCrc snap.words) →
      ends (.snapshotRestore seg good) s fun t =>
        pathState t.die seg.val = 0 ∧ flag t.die (Reg.LSH_PATH_FOFAIL seg.val) = true ∧
        powered t.die (50 + seg.val) = false ∧ keepsBut [.regs, .pwr, .lgb] s t)) ∧
  (∀ (s : State) (seg : Fin 4), running s.die = true → s.die.tb.phase = 0 → pathState s.die seg.val = 2 →
    (segH s.die seg.val).failBeat + 3 ≤ s.die.tb.k → ends (.twolineLaunch seg) s fun t =>
      pathState t.die seg.val = 3 ∧ (segH t.die seg.val).wholeRun = 0 ∧
      (segH t.die seg.val).lines = none ∧ (segH t.die seg.val).acyclic = [] ∧ (segH t.die seg.val).rxHead = rxBeat0 ∧
      (segH t.die seg.val).rxTail = rxBeat0 ∧
      ((segH t.die seg.val).lastFrame ≠ [] ↔ powered s.die (42 + 2 * seg.val) = true ∧ rxOn s.die (2 * seg.val) = true) ∧
      regsBut (· = Reg.LSH_PATH seg.val) s t ∧
      (∀ g, g ≠ seg.val → segH t.die g = segH s.die g) ∧ keepsBut [.regs, .segs] s t) ∧
  (∀ (s : State) (seg : Fin 4) (e : Nat), (segH s.die seg.val).retBeat = some e → pathState s.die seg.val = 4 →
    e + 15 ≤ s.die.tb.k → s.die.tb.phase = 3 → ends (.switchbackEnd seg) s fun t =>
      pathState t.die seg.val = 0 ∧ getReg t.die (Reg.LSH_BREAK seg.val) = 0x3F3F ∧
      (segH t.die seg.val).swTicket = 0 ∧ powered t.die (50 + seg.val) = false) ∧
  ∀ (s : State) (seg : Fin 4),
    let g := segH s.die seg.val
    pathState s.die seg.val = 5 → g.proof ≠ 0 → g.proofBeat + 3 + judgedBeats g.proof ≤ s.die.tb.k →
    s.die.tb.phase = 3 → ends (.proofPhaseEnd seg) s fun t =>
      (g.proof < 4 → (segH t.die seg.val).proof = g.proof + 1 ∧ (segH t.die seg.val).proofBeat = s.die.tb.k + 1 ∧
        pathState t.die seg.val = 5) ∧
      (g.proof = 4 → (segH t.die seg.val).proof = 0 ∧ pathState t.die seg.val = 0 ∧
        flag t.die (Reg.LSH_PROOF_VALID seg.val) = true)

/-! ### Courier trunk and cluster -/

/-- R250 to R258, R265, R270, R276, R277: the lines of the trunk ports: a hunting receiver locks where the hunt of R253 finds its
boundaries; three bad boundaries in a row lose lock, bad blocks counted; link delay from an idle block; a frame that arrives
is sent on 320 ns later over every other link, its blocks unchanged, and one outside its window is not; a frame that a check
of R265 refuses is counted and does nothing else; master samples and trunk triggers are taken from frames. When PEERIDLE is set
and cleared is log entry 54. -/
def Obligations.TrunkPortsAndFrames : Prop :=
  (∀ (s : State) (p : Fin 3) (l : LineBits), ctOn s.die p.val = true → flag s.die (Reg.CTR_P_STAT_LOCK p.val) = false →
    (huntLocks l = true → ends (.trunkLock ⟨p, l⟩) s fun t => flag t.die (Reg.CTR_P_STAT_LOCK p.val) = true ∧
      (tportH t.die p.val).fails = 0 ∧ regsBut (· = Reg.CTR_P_STAT p.val) s t ∧ keepsBut [.regs, .trk] s t) ∧
    (huntLocks l = false → ends (.trunkLock ⟨p, l⟩) s (keepsBut [] s))) ∧
  (∀ (s : State) (p : Fin 3) (l : LineBits), ctLocked s.die p.val = true → (tportH s.die p.val).fails < 3 →
    let meets := (bounds l).take (3 - (tportH s.die p.val).fails)
    (meets.length + (tportH s.die p.val).fails = 3 → (∀ x ∈ meets, x.2 ≠ .good) →
      ends (.trunkLockLoss p l) s fun t =>
        getReg t.die (Reg.CTR_P_CNT_HCRC p.val) = BitVec.ofNat 32 (min ((getReg s.die (Reg.CTR_P_CNT_HCRC p.val)).toNat +
          (meets.filter fun x => x.2 == .bad).length) (2 ^ 32 - 1)) ∧
        flag t.die (Reg.CTR_P_STAT_LOCK p.val) = false ∧ flag t.die (Reg.CTR_P_STAT_PEERIDLE p.val) = false ∧
        getReg t.die (Reg.CTR_P_CNT_LOCKLOSS p.val) =
          BitVec.ofNat 32 (satInc 32 (getReg s.die (Reg.CTR_P_CNT_LOCKLOSS p.val)).toNat) ∧ keepsBut [.regs, .trk] s t) ∧
    ((∀ x ∈ bounds l, x.2 = .good) → ends (.trunkLockLoss p l) s (keepsBut [.trk] s))) ∧
  (∀ (s : State) (p : Fin 3) (l : LineBits) (ns : Nat) (fr : Fin 256) (x : Nat × Bound) (xs : List (Nat × Bound)),
    let b := areaAt l x.1
    let t4 := 256 * ns + fr.val
    ctLocked s.die p.val = true → bounds l = x :: xs → (∀ y ∈ bounds l, y.2 = .good) → headerAt l x.1 % 8 = 0 →
    leAt b 52 4 = crc32 (b.take 52) →
    ends (.idleBlockReceived p l ns fr) s fun t => (tportH t.die p.val).echoT1 = leAt b 4 8 ∧
      (tportH t.die p.val).echoT2 = t4 % 2 ^ 64 ∧ flag t.die (Reg.CTR_P_STAT_PEERIDLE p.val) = true ∧
      (leAt b 12 8 = 0 → (tportH t.die p.val).delays = (tportH s.die p.val).delays) ∧
      (leAt b 12 8 ≠ 0 → (tportH t.die p.val).delays.head? =
        some (sext 64 (wrap 64 ((t4 : Int) - leAt b 12 8)) - sext 64 (wrap 64 ((leAt b 4 8 : Int) - leAt b 20 8))))) ∧
  (∀ (s : State) (q : Fin 3) (f : TrunkFrame), f.port ≠ q →
    let at_ := f.rx + 320 * 256
    (arrives s f → ctOn s.die q.val = true → flag s.die (Reg.CTR_P_CFG_USED q.val) = true →
      flag s.die (Reg.CTR_P_CFG_OPEN q.val) = false → (tportH s.die q.val).busyUntil + blockTime ≤ 5 * at_ →
      ends (.trunkFrameForward f.port f.line f.rx) s fun t =>
        (∃ o, (tportH t.die q.val).out = some o ∧ o.at_ = at_ ∧ o.blocks = blocksOf f) ∧
        (tportH t.die q.val).busyUntil = 5 * at_ + blockTime * f.blocks.length ∧
        (tportH t.die f.port.val).out = (tportH s.die f.port.val).out ∧ keepsBut [.regs, .trk, .fresh] s t) ∧
    (windowPass s.die f = false → framePass s.die f = false → ends (.trunkFrameForward f.port f.line f.rx) s fun t =>
      tportH t.die q.val = tportH s.die q.val ∧ keepsBut [.regs, .trk] s t)) ∧
  (∀ (s : State) (f : TrunkFrame), arrives s f → frameSound s.die f = false →
    let counted (t : State) : Prop := getReg t.die (Reg.CTR_CNT 3) =
        BitVec.ofNat 32 (satInc 32 (getReg s.die (Reg.CTR_CNT 3)).toNat) ∧
      regsBut (fun o => o = Reg.CTR_CNT 0 ∨ o = Reg.CTR_CNT 1 ∨ o = Reg.CTR_CNT 3) s t ∧ keepsBut [.regs, .trk] s t
    ends (.msFrameReceived f) s counted ∧ ends (.ttFrameReceived f) s counted ∧ ends (.stFrameReceived f) s counted ∧
    ends (.hreqFrameReceived f) s counted ∧ ends (.hrspFrameReceived f) s counted) ∧
  (∀ (s : State) (f : TrunkFrame), arrivesSound s f 2 (slOwner s.die f.slot.val) →
    fld s.die Reg.MST_CFG_SRC = 6 → fld s.die Reg.MST_CFG_SRCID = f.src.val → s.die.mst.samples = [] →
    ends (.msFrameReceived f) s fun t => t.die.mst.samples = [⟨fullBeat s.die (leAt f.payload 4 4),
      sext 64 (leAt f.payload 8 8), sext 64 (leAt f.payload 16 8), sext 64 (leAt f.payload 24 8),
      max s.die.tb.gt (checkedGt f)⟩] ∧ flag t.die Reg.MST_STAT_SRCOK = true) ∧
  ∀ (s : State) (f : TrunkFrame) (c : Nat), c < 16 → arrivesSound s f 3 (slOwner s.die f.slot.val) →
    leAt f.payload 1 1 = 1 →
    fld s.die (Reg.CAP_CH_SRC_TSRC c) = 4 → fld s.die (Reg.CAP_CH_SRC_TSEL c) = leAt f.payload 4 1 % 8 →
    oldestSample s.die (fld s.die (Reg.CAP_CH_SRC_MKSEL c)) ≤
      (cdiv (leAt f.payload 5 8) 50 : Nat) - (winPre s.die c : Int) →
    channelReady s.die c (cdiv (leAt f.payload 5 8) 50) → ends (.ttFrameReceived f) s fun t =>
      acquiring s t c (leAt f.payload 5 8) (cdiv (leAt f.payload 5 8) 50)

/-- R22, R268, R269, R271 to R273, R275: the trunk states: a Postmark with the schedule's hash brings LISTEN to INTEGRATE, names
the master and corrects GT; a near one keeps RUN; a cycle without one is missed; 12 missed cycles return to LISTEN; a ranked
part contends after its time; an eligible backup takes over; a start without synchronisation and a stop end as R275 says.
R252, R258, R265, R266, R276, R281, R282: the frames this part sends in its own slots, with the payload of their kind, and
nothing in a slot of another kind. How rate and trim are held and rounded is log entry 52. -/
def Obligations.TrunkStatesAndSends : Prop :=
  ((∀ (s : State) (f : TrunkFrame),
    let b := f.payload
    let o : Int := 256 * ((leAt b 8 8 : Nat) + (fld s.die (Reg.CTR_NODE_PD f.src.val) : Nat)) - f.rx
    let r := s.die.trk.rate + rhu (o * 2 ^ 20 * (hz s.die : Nat)) (nCyc s.die * 1000000000 : Nat)
    arrives s f → f.good = true → b.length = 56 → leAt b 52 4 = crc32 (b.take 52) → leAt b 0 1 / 16 = 1 →
    leAt b 16 4 = (getReg s.die Reg.CTR_HASH).toNat → slKind s.die f.slot.val = 0 → slLen s.die f.slot.val = 1 →
    flag s.die (Reg.CTR_NODE_RANKED f.src.val) = true → leAt b 4 4 % nCyc s.die = 0 →
    leAt b 4 4 = beatAt (hz s.die) (leAt b 8 8 - slStart s.die f.slot.val) % 2 ^ 32 → s.die.trk.stopDue = false →
    let taken (t : State) : Prop :=
      getReg t.die Reg.CTR_MASTER = BitVec.ofNat 32 (f.src.val + 64 * (leAt b 3 1 % 4) + 256) ∧
      getReg t.die Reg.CTR_OFFSET = BitVec.ofNat 32 (wrap 32 (clampI o (-2147483648) 2147483647)) ∧
      t.die.trk.cycleGot = true ∧ t.die.trk.missed = 0 ∧ t.die.trk.rate = r
    (ctState s.die = 1 → ends (.postmarkReceived f) s fun t => ctState t.die = 3 ∧ taken t) ∧
    (ctState s.die = 4 → flag s.die Reg.CTR_STAT_MASTER = false → o.natAbs ≤ 64 * guardNs s.die → r.natAbs ≤ 429496 →
      ends (.postmarkReceived f) s fun t => ctState t.die = 4 ∧ taken t ∧
        t.die.tb.trim = r + rhu (o * 2 ^ 24 * (hz s.die : Nat)) (nCyc s.die * 1000000000 : Nat))) ∧
  (∀ (s : State) (f : TrunkFrame), arrives s f →
    (f.good = false ∨ f.payload.length ≠ 56 ∨ leAt f.payload 52 4 ≠ crc32 (f.payload.take 52)) →
    ends (.postmarkReceived f) s fun t => getReg t.die (Reg.CTR_CNT 3) =
        BitVec.ofNat 32 (satInc 32 (getReg s.die (Reg.CTR_CNT 3)).toNat) ∧
      regsBut (fun o => o = Reg.CTR_CNT 0 ∨ o = Reg.CTR_CNT 1 ∨ o = Reg.CTR_CNT 3) s t ∧ keepsBut [.regs, .trk] s t) ∧
  (∀ s : State, running s.die = true → s.die.tb.phase = 0 → s.die.tb.k % nCyc s.die = 0 → ctState s.die = 4 →
    s.die.trk.stopDue = false → s.die.trk.stopNext = false → s.die.trk.stopIn = none →
    flag s.die Reg.CTR_STAT_MASTER = false →
    (s.die.trk.cycleGot = true → ends .trunkCycleStart s fun t => ctState t.die = 4 ∧ t.die.trk.missed = 0 ∧
      t.die.trk.ownOn = true ∧ t.die.trk.cycleGot = false) ∧
    (s.die.trk.cycleGot = false → s.die.trk.missed < 11 → flag s.die Reg.CTR_STAT_ELIG = false →
      ends .trunkCycleStart s fun t => ctState t.die = 4 ∧ t.die.trk.missed = s.die.trk.missed + 1 ∧
        t.die.trk.ownOn = true ∧
        t.die.tb.trim = if slewing s.die then clampI s.die.trk.rate (-858993) 858993 else s.die.trk.rate)) ∧
  (∀ s : State, ctState s.die = 1 → flag s.die (Reg.CTR_NODE_RANKED (nodeId s.die)) = true →
    16 + 4 * fld s.die (Reg.CTR_NODE_RANK (nodeId s.die)) ≤ fld s.die Reg.CTR_STAT_LISTENT →
    ends .listenTimerExpiry s fun t => ctState t.die = 2 ∧ t.die.trk.csSent = 0 ∧ regsBut (· = Reg.CTR_STAT) s t ∧
      keepsBut [.regs, .trk] s t) ∧
  (∀ s : State, ctState s.die = 4 → flag s.die Reg.CTR_STAT_MASTER = false → flag s.die Reg.CTR_STAT_ELIG = true →
    3 * backupPos s.die ≤ s.die.trk.missed → ends .takeover s fun t => flag t.die Reg.CTR_STAT_MASTER = true ∧
      flag t.die Reg.CTR_STAT_ELIG = false ∧ slewing t.die = false ∧ ctState t.die = 4 ∧ t.die.trk.takeover = true ∧
      t.die.tb.trim = s.die.trk.rate ∧ keepsBut [.regs, .tb, .trk, .lgb] s t) ∧
  (∀ s : State, (ctState s.die = 3 ∨ (ctState s.die = 4 ∧ flag s.die Reg.CTR_STAT_MASTER = false)) →
    12 ≤ s.die.trk.missed → ends .postmarkLoss s fun t => ctState t.die = 1 ∧ fld t.die Reg.CTR_STAT_LISTENT = 0 ∧
      slewing t.die = false ∧ t.die.trk.ownOn = false ∧
      regsBut (fun o => o = Reg.CTR_STAT ∨ o = Reg.BEAT_STAT) s t ∧ keepsBut [.regs, .trk] s t) ∧
  (∀ s : State, s.die.trk.stopDue = true → ctState s.die ≠ 0 → ends .trunkStopEffect s fun t => ctState t.die = 0 ∧
    flag t.die Reg.CTR_STAT_MASTER = false ∧ t.die.trk.stopDue = false ∧ t.die.trk.stopTickets = [] ∧
    (∀ c ∈ t.die.host.cmds, c.ticket ∈ s.die.trk.stopTickets → c.ticket ≠ 0 → c.done = true) ∧
    regsBut (fun o => o = Reg.CTR_STAT ∨ o = Reg.BEAT_STAT) s t ∧ keepsBut [.regs, .trk, .host] s t) ∧
  ∀ s : State, s.die.trk.startTicket ≠ 0 → 1000 ≤ s.die.trk.startCycles → 1 ≤ ctState s.die → ctState s.die ≤ 3 →
    ends .trunkStartNosync s fun t => t.die.trk.startTicket = 0 ∧
      (∀ c ∈ t.die.host.cmds, c.ticket = s.die.trk.startTicket → c.done = true) ∧ keepsBut [.trk, .host] s t) ∧
  ((∀ (s : State) (i : Fin 128), ownSlots s.die = true → slLen s.die i.val = 1 →
    slOwner s.die i.val = nodeId s.die →
    let sends (c : Instr) : Prop := ends c s fun t => ∃ p, sentIn s t i.val p
    (slKind s.die i.val = 1 → sends (.stSend i)) ∧
    (slKind s.die i.val = 2 → flag s.die Reg.MST_CFG_SEND = true → fld s.die Reg.MST_CFG_SRC ≠ 6 →
      (∃ x, s.die.mst.samples.find? (·.s == s.die.tb.k) = some x) → sends (.msSend i)) ∧
    (slKind s.die i.val = 3 → sends (.ttSend i)) ∧
    (slKind s.die i.val = 4 → isLead s.die = true → sends (.hreqSend i))) ∧
  (∀ (s : State) (i : Fin 128), (slKind s.die i.val ≠ 1 → ends (.stSend i) s (keepsBut [] s)) ∧
    (slKind s.die i.val ≠ 2 → ends (.msSend i) s (keepsBut [] s)) ∧
    (slKind s.die i.val ≠ 3 → ends (.ttSend i) s (keepsBut [] s)) ∧
    (slKind s.die i.val ≠ 4 → ends (.hreqSend i) s (keepsBut [] s)) ∧
    (slKind s.die i.val ≠ 5 → ends (.hrspSend i) s (keepsBut [] s))) ∧
  (∀ (s : State) (i : Fin 128), isMember s.die = true → ownSlots s.die = true → slLen s.die i.val = 1 →
    slKind s.die i.val = 5 → namedIn s.die i.val = true → ends (.hrspSend i) s fun t =>
      (∃ p, sentIn s t i.val p ∧ leAt p 4 1 = 0x81 ∧ leAt p 6 2 = s.die.trk.wnext % 65536) ∧
      t.die.trk.rdrSend = false ∧ t.die.trk.hreqNode = s.die.trk.hreqNode ∧ t.die.trk.hreqAt = s.die.trk.hreqAt) ∧
  ∀ (s : State) (i : Nat), pmSlot s.die = some i → slLen s.die i = 1 → running s.die = true → slewing s.die = false →
    let sent (t : State) : Prop := ∃ p, sentIn s t i p ∧ leAt p 4 4 = cycleFirst s.die % 2 ^ 32 ∧
      leAt p 8 8 = slotGt s.die (cycleFirst s.die) i % 2 ^ 64 ∧ leAt p 16 4 = (getReg s.die Reg.CTR_HASH).toNat
    (ctState s.die = 4 → flag s.die Reg.CTR_STAT_MASTER = true → ends .postmarkSend s fun t =>
      sent t ∧ t.die.trk.takeover = false ∧ ctState t.die = 4) ∧
    (ctState s.die = 2 → s.die.trk.csSent = 3 → ends .postmarkSend s fun t =>
      sent t ∧ ctState t.die = 4 ∧ flag t.die Reg.CTR_STAT_MASTER = true))

/-- R278 to R286: the lead's transactions with its members: a posted write is queued with its number, or is a dead letter when
the member is lost; a read of a member waits, and times out with all ones; a lost member's writes are dead letters; a read
of CTR_DLQ_W3 removes the oldest. -/
def Obligations.ClusterTransactions : Prop :=
  (∀ (s : State) (n : Fin 64) (off : BitVec 20) (be : BitVec 4) (v : Word), bar2Up (found s) = true → n.val ≠ 0 → be ≠ 0 →
    (memberNodes s.die).contains n.val = true → s.die.trk.held = [] → s.die.trk.read = none → creditOut s.die = false →
    ((memberH s.die n.val).lost = false → ends (.bar2PostedWrite n off be v) s fun t =>
      (memberH t.die n.val).writes = (memberH s.die n.val).writes ++
        [⟨(memberH s.die n.val).next, off.toNat + 2 ^ 20 * be.toNat, v.toNat, fld s.die Reg.CTR_WTAG_TAG, none, false⟩] ∧
      (memberH t.die n.val).next = ((memberH s.die n.val).next + 1) % 65536 ∧ t.die.trk.held = [] ∧ keepsBut [.trk] s t) ∧
    ((memberH s.die n.val).lost = true → s.die.trk.dlq.length < 256 → ends (.bar2PostedWrite n off be v) s fun t =>
      t.die.trk.dlq.length = s.die.trk.dlq.length + 1 ∧ flag t.die Reg.CTR_STAT_DL = true ∧
      regsBut (· = Reg.CTR_STAT) s t ∧ keepsBut [.regs, .trk] s t)) ∧
  (∀ (s : State) (n : Fin 64) (off : BitVec 20) (be : BitVec 4) (v : Word), bar2Up (found s) = true →
    (creditOut s.die = true ∨ s.die.trk.read.isSome = true) → s.die.trk.held = [] →
    ends (.bar2PostedWrite n off be v) s fun t =>
      t.die.trk = { s.die.trk with held := [.write n.val off.toNat be.toNat v.toNat] } ∧ keepsBut [.trk] s t) ∧
  (∀ (s : State) (n : Fin 64) (off : BitVec 20) (be : BitVec 4), bar2Up (found s) = true → n.val ≠ 0 →
    s.die.trk.held = [] →
    ((memberNodes s.die).contains n.val = false → s.die.trk.read = none → ends (.bar2Read n off be) s fun t =>
      t.die.host.rdData = [0] ∧ keepsBut [.host] s t) ∧
    ((memberNodes s.die).contains n.val = true → s.die.trk.read = none → ends (.bar2Read n off be) s fun t =>
      (∃ rid, t.die.trk.read =
        some (n.val, (memberH s.die n.val).next, rid, off.toNat + 2 ^ 20 * be.toNat, s.die.tb.gt)) ∧
      t.die.host.rdData = [] ∧ keepsBut [.trk, .host] s t) ∧
    (s.die.trk.read.isSome = true → ends (.bar2Read n off be) s fun t => t.die.host.rdData = [] ∧
      t.die.trk = { s.die.trk with held := [.member n.val off.toNat be.toNat] } ∧ keepsBut [.trk, .host] s t)) ∧
  (∀ (s : State) (n p r a g : Nat), s.die.trk.read = some (n, p, r, a, g) → s.die.trk.held = [] →
    ends .memberReadTimeout s fun t => t.die.trk.read = none ∧ t.die.host.rdData = [0xFFFFFFFF] ∧
      flag t.die Reg.CTR_STAT_RDTO = true ∧ t.die.tb.gt = max s.die.tb.gt (g + 40000) ∧
      keepsBut [.regs, .tb, .trk, .host, .lgb] s t) ∧
  (∀ (s : State) (n : Fin 64), isLead s.die = true → (memberNodes s.die).contains n.val = true →
    (memberH s.die n.val).lost = false → 4 ≤ (memberH s.die n.val).quiet → s.die.trk.held = [] →
    s.die.trk.dlq.length + (memberH s.die n.val).writes.length ≤ 256 → ends (.memberLost n) s fun t =>
      (memberH t.die n.val).lost = true ∧ (memberH t.die n.val).writes = [] ∧
      t.die.trk.dlq.length = s.die.trk.dlq.length + (memberH s.die n.val).writes.length ∧
      flag t.die (Reg.CTR_NODE_SEEN n.val) = false ∧ keepsBut [.regs, .trk, .lgb] s t) ∧
  (∀ s : State, hostUp (found s) = true → isMember s.die = false → readsWait (found s) = false →
    switching (found s) (Reg.CTR_DLQ_W 3) = false → ends .deadLetterPop s fun t => t.die.trk = { s.die.trk with dlq := s.die.trk.dlq.drop 1 } ∧
      keepsBut [.snap, .trk, .host] s t) ∧
  (∀ (s : State) (f : TrunkFrame), arrivesSound s f 1 (slOwner s.die f.slot.val) → s.die.trk.held = [] →
    ends (.stFrameReceived f) s fun t => t.die.trk.seenNow.contains f.src.val = true ∧
      fld t.die (Reg.CTR_NODE_MINOR f.src.val) = leAt f.payload 0 1 % 16 ∧
      (isLead s.die = true → (memberNodes s.die).contains f.src.val = true →
        (memberH t.die f.src.val).quiet = 0 ∧ (memberH t.die f.src.val).lost = false)) ∧
  (∀ (s : State) (f : TrunkFrame), arrivesSound s f 4 0 → isMember s.die = true → leAt f.payload 4 1 = 0 →
    ends (.hreqFrameReceived f) s fun t => t.die.trk.hreqNode = leAt f.payload 1 1 ∧
      t.die.trk.wnext = s.die.trk.wnext ∧ keepsBut [.regs, .trk] s t) ∧
  ∀ (s : State) (f : TrunkFrame) (m p a g : Nat), arrivesSound s f 5 (hrspOwner s.die f) → isLead s.die = true →
    s.die.trk.read = some (m, p, leAt f.payload 6 2, a, g) → m = f.src.val → s.die.trk.held = [] →
    leAt f.payload 4 1 = 0x83 → leAt f.payload 16 1 = 0 → ends (.hrspFrameReceived f) s fun t =>
      t.die.trk.read = none ∧ t.die.host.rdData = [BitVec.ofNat 32 (leAt f.payload 12 4)]

/-! ### Sheepdog -/

/-- R291 to R294: the filters of the safe inputs, the masks of the off-pulses and the tests at the checkpoints. A run of 16
equal samples outside the mask decides an input; a single frame with a bad reading raises nothing; the off-pulses and their
checkpoints follow the test frame, and one out of its place changes nothing. -/
def Obligations.SafeInputsAndTestPulses : Prop :=
  (∀ (s : State) (a b : BitVec 16) (i : Nat), s.die.pwr.up = true → i < 16 →
    let x := vget ⟨false, false, 0⟩ s.dog.siA i
    let z := vget ⟨false, false, 0⟩ s.dog.siB i
    ends (.safeInputSample a b) s fun t => dieBut [] s t ∧
      t.dog = { s.dog with siA := t.dog.siA, siB := t.dog.siB, mask := t.dog.mask, clk := s.dog.clk + 1 } ∧
      (siMasked s.dog i = true → vget ⟨false, false, 0⟩ t.dog.siA i = x ∧ vget ⟨false, false, 0⟩ t.dog.siB i = z) ∧
      (siMasked s.dog i = false → bitOf a.toNat i = x.lvl → x.run < 15 →
        vget ⟨false, false, 0⟩ t.dog.siA i = ⟨x.on, x.lvl, x.run + 1⟩) ∧
      (siMasked s.dog i = false → bitOf a.toNat i = x.lvl → 15 ≤ x.run →
        vget ⟨false, false, 0⟩ t.dog.siA i = ⟨x.lvl, x.lvl, 16⟩) ∧
      (siMasked s.dog i = false → bitOf a.toNat i ≠ x.lvl →
        vget ⟨false, false, 0⟩ t.dog.siA i = ⟨x.on, bitOf a.toNat i, 1⟩) ∧
      (siMasked s.dog i = false → bitOf b.toNat i = z.lvl → 15 ≤ z.run →
        vget ⟨false, false, 0⟩ t.dog.siB i = ⟨z.lvl, z.lvl, 16⟩) ∧
      (siMasked s.dog i = false → bitOf b.toNat i ≠ z.lvl →
        vget ⟨false, false, 0⟩ t.dog.siB i = ⟨z.on, bitOf b.toNat i, 1⟩)) ∧
  (∀ (s : State) (k : Fin 4), s.die.pwr.up = true →
    let starts : Prop := s.dog.tpPos = framePlace (2 * k.val) 0 ∨ s.dog.tpPos = framePlace (2 * k.val + 1) 0
    let stops : Prop := s.dog.tpPos = framePlace (2 * k.val) 2 ∨ s.dog.tpPos = framePlace (2 * k.val + 1) 2
    (starts → ends (.offPulseStart k) s fun t => dieBut [] s t ∧
      t.dog = { s.dog with tpOff := t.dog.tpOff, mask := t.dog.mask, tpPos := s.dog.tpPos + 1 } ∧
      bitOf t.dog.tpOff.toNat k.val = true ∧ vget none t.dog.mask k.val = some 12 ∧
      ∀ j, j < 4 → j ≠ k.val → bitOf t.dog.tpOff.toNat j = bitOf s.dog.tpOff.toNat j ∧
        vget none t.dog.mask j = vget none s.dog.mask j) ∧
    (stops → ends (.offPulseEnd k) s fun t => dieBut [] s t ∧
      t.dog = { s.dog with tpOff := t.dog.tpOff, tpPos := (s.dog.tpPos + 1) % 24 } ∧
      bitOf t.dog.tpOff.toNat k.val = false ∧
      ∀ j, j < 4 → j ≠ k.val → bitOf t.dog.tpOff.toNat j = bitOf s.dog.tpOff.toNat j) ∧
    (¬ starts → ends (.offPulseStart k) s fun t => dieBut [] s t ∧ t.dog = s.dog) ∧
    (¬ stops → ends (.offPulseEnd k) s fun t => dieBut [] s t ∧ t.dog = s.dog)) ∧
  ∀ (s : State) (k : Fin 8) (tpA tpB : BitVec 4) (a b la lb : BitVec 16), s.die.pwr.up = true →
    let own := k.val / 2
    let off (w : BitVec 4) (n : Nat) : Prop := bitOf w.toNat n = (n != own)
    let run := Instr.testPulseCheckpoint k tpA tpB a b la lb
    (s.dog.tpPos ≠ framePlace k.val 1 → ends run s fun t => dieBut [] s t ∧ t.dog = s.dog) ∧
    (s.dog.tpPos = framePlace k.val 1 → ends run s fun t => dieBut [] s t ∧
      t.dog = { s.dog with tpOk := t.dog.tpOk, stuck := t.dog.stuck, short := t.dog.short, pend := t.dog.pend,
                           tpPos := s.dog.tpPos + 1 } ∧
      (∀ n, n < 4 → (bitOf t.dog.tpOk.toNat n = true ↔ off tpA n ∧ off tpB n)) ∧
      (∀ n, n < 4 → ¬ (off tpA n ∧ off tpB n) → (0x0A, n) ∈ t.dog.pend) ∧
      (∀ i, i < 16 → tpOf s.dog i = some own → (bitOf a.toNat i = true ∨ bitOf b.toNat i = true) →
        vget 0 s.dog.stuck i = 2 → (0x07, i) ∈ t.dog.pend) ∧
      (∀ i j, i < 16 → tpOf s.dog i = some j → j ≠ own → bitOf a.toNat i = false → bitOf la.toNat i = true →
        vget 0 s.dog.short i = 2 → (0x08, i) ∈ t.dog.pend) ∧
      (∀ i, vget 0 s.dog.stuck i < 2 → (0x07, i) ∈ t.dog.pend → (0x07, i) ∈ s.dog.pend) ∧
      (∀ i, vget 0 s.dog.short i < 2 → (0x08, i) ∈ t.dog.pend → (0x08, i) ∈ s.dog.pend))

/-- R288, R290, R295, R297, R299, R303, R306, R307: what notes a detected fault for the next evaluation, and nothing else: output
tests, discrepancy, self-tests, lost heartbeats and the watchdog of a safety-layer slot. A heartbeat with a bad CRC is none, and a
halted supervisor core sends none (R412). How many cycles a discrepancy counts and what the slot watchdog names are the model's
(log entry 58), and so are the message numbers and the input of the link (126, 138). -/
def Obligations.SheepdogFaultDetection : Prop :=
  ∀ s : State, s.die.pwr.up = true →
    let notes (c : Instr) (x : Nat × Nat) : Prop := ends c s fun t => dieBut [] s t ∧ x ∈ t.dog.pend ∧
      (∀ y ∈ t.dog.pend, y = x ∨ y ∈ s.dog.pend) ∧ t.dog = { s.dog with pend := t.dog.pend }
    let still (c : Instr) : Prop := ends c s fun t => dieBut [] s t ∧ t.dog = s.dog
    (∀ (n : Fin 4) (chan off : Bool),
      (bitOf s.dog.so.toNat n.val = true → off = false → s.dog.vsoLow = false →
        notes (.outputSwitchTest n chan off) (0x0B, n.val)) ∧
      (off = true → still (.outputSwitchTest n chan off)) ∧
      (bitOf s.dog.so.toNat n.val = false → 40 < vget 0 s.dog.soOffFor n.val → notes (.outputOffTimeout n) (0x0B, n.val)) ∧
      (vget 0 s.dog.soOffFor n.val ≤ 40 → still (.outputOffTimeout n))) ∧
    (∀ p : Fin 8, let x := vget pair0 s.dog.pairs p.val
      (x.mode ≠ 0 → 4 * x.disc < x.discFor → notes (.pairDiscrepancy p) (0x09, p.val)) ∧
      (x.discFor ≤ 4 * x.disc → still (.pairDiscrepancy p))) ∧
    (∀ a b : Bool, (¬ (a = true ∧ b = true) → notes (.diagSelfTest a b) (0x0E, 0)) ∧
      (a = true → b = true → still (.diagSelfTest a b))) ∧
    (dieIsDown s.die = false → halted s.die 17 = false →
      (s.dog.rxSeq ≠ some s.die.dogIo.txSeq → arriving s 0 = none → ends .heartbeat s fun t => dieBut [.dogIo] (arrived s 1) t ∧
        t.dog = { s.dog with hbWindow := true, rxSeq := some s.die.dogIo.txSeq }) ∧
      ∀ m : LinkMsg, m ≠ linkMsg m.seq m.body → arriving s 0 = some m → ends .heartbeat s fun t => dieBut [.dogIo] (arrived s 1) t ∧
        t.dog = s.dog) ∧
    (halted s.die 17 = true → ends .heartbeat s fun t => dieBut [] (arrived s 1) t ∧ t.dog = s.dog) ∧
    (s.dog.hbWindow = true → ends .heartbeatWindowEnd s fun t => dieBut [] s t ∧
      t.dog = { s.dog with hbWindow := false, hbMiss := 0 }) ∧
    (s.dog.hbWindow = false → s.dog.hbMiss = 0 → ends .heartbeatWindowEnd s fun t => dieBut [] s t ∧
      t.dog = { s.dog with hbMiss := 1 }) ∧
    (s.dog.hbWindow = false → 1 ≤ s.dog.hbMiss → ends .heartbeatWindowEnd s fun t => dieBut [] s t ∧
      (0x02, 0) ∈ t.dog.pend ∧ t.dog.sinceAccept = true ∧ t.dog.run = s.dog.run ∧ t.dog.so = s.dog.so) ∧
    (∀ (seg : Fin 4) (slot : Fin 48) (x : SSlot), x ∈ s.dog.slots → x.seg = seg.val → x.slot = slot.val →
      slotAdmitted s.die x = true → vget 0 s.dog.swdt seg.val ≠ 0 → vget 0 s.dog.swdt seg.val ≤ x.quiet →
      notes (.lsafeWatchdog seg slot) (0x0C, slot.val)) ∧
    ∀ f : Fin 8, let x := vget sfun0 s.dog.funs f.val
      (x.decl = true → x.st = 1 → x.left = 0 → ends (.ss1TimerExpiry f) s fun t => dieBut [] s t ∧
        (vget sfun0 t.dog.funs f.val).st = 2 ∧ (∀ j, j ≠ f.val → vget sfun0 t.dog.funs j = vget sfun0 s.dog.funs j) ∧
        (∀ n, n < 4 → bitOf x.soMask n = true → bitOf t.dog.so.toNat n = false) ∧ t.dog.run = s.dog.run) ∧
      (x.st ≠ 1 → still (.ss1TimerExpiry f))

/-- R288, R299, R300, R303, R304: one safety cycle. A newly detected fault muzzles the island; the functions follow the
table of R299; an output is on only in RUN with no function that names it in STO or WAITRST. Model's choices: when a fault is new (log
entry 57), the OFF pattern of an ANTIV pair (log entry 59). -/
def Obligations.SafetyCycleTable : Prop :=
  ∀ (s : State) (obs : DogObs), s.die.pwr.up = true → ends (.safetyCycle obs) s fun t =>
    t.pending = s.pending ∧ (∀ p, p ∉ [Part.regs, .stp, .grp, .host, .dogIo] → p.same s.die t.die) ∧
    (((obs.differ = true ∧ (0x04, 0) ∉ s.dog.live) ∨
      ((obs.clockRatio < 920 ∨ 1080 < obs.clockRatio) ∧ (0x05, 0) ∉ s.dog.live) ∨
      (obs.railsGood = false ∧ (0x06, 0) ∉ s.dog.live) ∨
      (dieIsDown s.die = true ∧ s.dog.dieDown = false ∧ (0x02, 0) ∉ s.dog.live) ∨
      ∃ x ∈ s.dog.pend, x ∉ s.dog.live) →
      t.dog.run = false ∧ t.dog.so = 0 ∧ (s.dog.faults < 0xFFFFFFFF → s.dog.faults < t.dog.faults)) ∧
    (t.dog.run = false → t.dog.so = 0 ∧ ∀ f, f < 8 → (vget sfun0 t.dog.funs f).decl = true →
      (vget sfun0 t.dog.funs f).st = 2) ∧
    (∀ n, n < 4 → (bitOf t.dog.so.toNat n = true ↔ t.dog.run = true ∧
      ∀ f, f < 8 → bitOf (vget sfun0 t.dog.funs f).soMask n = true → holdsSto (vget sfun0 t.dog.funs f) = false)) ∧
    (s.dog.run = false → t.dog.run = true → t.dog.cause = 0 ∧ ∃ x, s.dog.rel = some (true, x)) ∧
    (∀ f, f < 8 → let x := vget sfun0 s.dog.funs f
      let y := vget sfun0 t.dog.funs f
      let dem := demand t.dog x
      x.decl = true → t.dog.run = true → y = { x with st := y.st, left := y.left } ∧
        (x.st = 0 → dem = false → y.st = 0) ∧ (x.st = 0 → dem = true → x.ss1 = false → y.st = 2) ∧
        (x.st = 0 → dem = true → x.ss1 = true → y.st = 1 ∧ y.left = x.tss1) ∧
        (x.st = 1 → x.left ≤ 1 → y.st = 2) ∧ (x.st = 1 → 1 < x.left → y.st = 1 ∧ y.left = x.left - 1) ∧
        (x.st = 2 → dem = true → y.st = 2) ∧ (x.st = 2 → dem = false → s.dog.run = false → y.st = 0) ∧
        (x.st = 2 → dem = false → s.dog.run = true → y.st = if x.manual then 3 else 0) ∧
        (x.st = 3 → dem = true → y.st = 2) ∧ (x.st = 3 → dem = false → y.st = if s.dog.accepted then 0 else 3)) ∧
    ∀ p, p < 8 → let x := vget pair0 s.dog.pairs p
      let y := vget pair0 t.dog.pairs p
      let i := 2 * p
      (x.mode = 0 → y.on = false) ∧
      (x.mode = 1 → (y.on = true ↔ siOn s.dog i = true ∧ siOn s.dog (i + 1) = true ∧ x.armed = true)) ∧
      (x.mode = 2 → (y.on = true ↔ siOn s.dog i = true ∧ siOff s.dog (i + 1) = true ∧ x.armed = true)) ∧
      (x.mode = 1 → siOff s.dog i = true → siOff s.dog (i + 1) = true → y.armed = true) ∧
      ((x.mode = 1 ∨ x.mode = 2) → x.on = true → y.on = false → y.armed = true →
        siOff s.dog i = true ∧ (if x.mode = 1 then siOff s.dog (i + 1) else siOn s.dog (i + 1)) = true) ∧
      (x.mode = 3 → s.dog.so.toNat &&& x.edmSo = 0 →
        (y.on = true ↔ siOn s.dog i = true ∧ siOn s.dog (i + 1) = true ∧ x.armed = true)) ∧
      (x.mode = 3 → s.dog.so.toNat &&& x.edmSo ≠ 0 → (y.on = true ↔ siOff s.dog i = true ∧ siOff s.dog (i + 1) = true))

/-- R304, R310: a quiet safety cycle in MUZZLED after a release test: passed, it enters RUN with CAUSE 0; failed, CAUSE is the
cause found and SHD_STAT.RREF is 1. The test passes only when every condition of R310 holds, 160 cycles after the press.
R308, R309: presses of SRST below 50 ms and above 3 s are ignored, a disagreement of the channels is noted in RDIS, 3 s
held in RHELD; an accepted press starts the release test in MUZZLED and releases functions in RUN. Model's choice: which
faults the test sees (log entry 60). -/
def Obligations.ReleaseOfTheIsland : Prop :=
  ((∀ (s : State) (obs : DogObs) (ok : Bool) (x : Nat × Nat),
    s.die.pwr.up = true → s.dog.run = false → s.dog.so = 0 → s.dog.rel = some (ok, x) → s.dog.pend = [] →
    dieIsDown s.die = false → s.die.dogIo.resetSeen = false → obs.differ = false → 920 ≤ obs.clockRatio →
    obs.clockRatio ≤ 1080 → obs.railsGood = true → obs.soReadA = 0 → obs.soReadB = 0 → obs.overload = 0 →
    (∀ i, i < 16 → siOn s.dog i = true ∨ siOff s.dog i = true) →
    (∀ p, p < 8 → pairBad (pairStep s.dog p) = false) → ends (.safetyCycle obs) s fun t =>
      (ok = true → t.dog.run = true ∧ t.dog.cause = 0 ∧ t.dog.detail = 0 ∧ t.dog.rel = none) ∧
      (ok = false → t.dog.run = false ∧ t.dog.so = 0 ∧ t.dog.cause = x.1 ∧ t.dog.detail = x.2 ∧
        bitOf t.die.dogIo.sticky 9 = true)) ∧
  (∀ (s : State) (n : Nat) (tp sw : Option (Fin 4)) (se : Bool), s.die.pwr.up = true → s.dog.test = some n → 160 ≤ n →
    ends (.releaseTestEnd tp sw se) s fun t => dieBut [] s t ∧ t.dog.test = none ∧ t.dog.run = s.dog.run ∧
      t.dog.so = s.dog.so ∧ t.dog.funs = s.dog.funs ∧
      ((∃ x, t.dog.rel = some (true, x)) ↔ s.dog.sectOk = true ∧ s.dog.sinceAccept = false ∧ tp = none ∧ sw = none ∧
        se = true ∧ s.dog.testFault = none ∧ s.dog.pend = []) ∧
      (s.dog.sectOk = true → s.dog.sinceAccept = false → s.dog.testFault = none →
        (∀ n, tp = some n → t.dog.rel = some (false, (10, n.val))) ∧
        (∀ n, tp = none → sw = some n → t.dog.rel = some (false, (11, n.val))))) ∧
  ∀ (s : State) (n : Nat) (tp sw : Option (Fin 4)) (se : Bool), s.die.pwr.up = true → s.dog.test = some n → n < 160 →
    ends (.releaseTestEnd tp sw se) s fun t => dieBut [] s t ∧ t.dog = s.dog) ∧
  (∀ s : State, s.die.pwr.up = true →
    (ends .srstPressBegin s fun t => dieBut [] s t ∧ t.dog = { s.dog with pressed := true }) ∧
    (ends .srstHeld s fun t => dieBut [.dogIo] s t ∧ bitOf t.die.dogIo.sticky 8 = true ∧ t.dog.pressed = false ∧
      t.dog.test = s.dog.test ∧ t.dog.accepted = s.dog.accepted ∧ t.dog.run = s.dog.run) ∧
    ∀ a b : Nat, let refused (t : State) : Prop := t.dog.pressed = false ∧ t.dog.test = s.dog.test ∧
        t.dog.accepted = s.dog.accepted ∧ t.dog.run = s.dog.run ∧ t.dog.so = s.dog.so ∧
        t.dog.pressRef = min 65535 (s.dog.pressRef + 1) ∧ t.dog.pressCnt = s.dog.pressCnt
      (s.dog.pressed = false → ends (.srstPress a b) s fun t => dieBut [] s t ∧ t.dog = s.dog) ∧
      (s.dog.pressed = true →
        (a < 50000 ∨ 3000000 < a → ends (.srstPress a b) s fun t => dieBut [] s t ∧ refused t) ∧
        (50000 ≤ a → a ≤ 3000000 → (a + 10000 < b ∨ b + 10000 < a) → ends (.srstPress a b) s fun t =>
          dieBut [.dogIo] s t ∧ refused t ∧ bitOf t.die.dogIo.sticky 10 = true) ∧
        (50000 ≤ a → a ≤ 3000000 → b ≤ a + 10000 → a ≤ b + 10000 → ends (.srstPress a b) s fun t =>
          dieBut [] s t ∧ t.dog.pressed = false ∧ t.dog.pressCnt = min 65535 (s.dog.pressCnt + 1) ∧
          (s.dog.run = true → t.dog.accepted = true ∧ t.dog.test = s.dog.test) ∧
          (s.dog.run = false → t.dog.test = some 0 ∧ t.dog.testFault = none ∧ t.dog.run = false))))

/-- R300 to R302, R305, R307, R311, R312: section, safety words, statuses, the message to the control die and events. Model's
choices: the section leaves what is known of the inputs of its pairs (log entry 103); before the loader finishes, it is there from
1 ms on (154); the message numbers and the input of the link (126, 138). -/
def Obligations.SafetyLayerExchange : Prop :=
  (∀ s : State, s.die.boot.loaded = true → dieIsDown s.die = false → halted s.die 17 = false → s.dog.sectTried = false →
    let b := s.die.boot.safety
    let crc := leAt b (b.length - 8) 4
    let val := leAt b (b.length - 4) 4
    let good : Prop := secLayoutOk b = true ∧ crc = s.die.boot.safeCrc ∧ secRangesOk b = true ∧
      secSlotsOk (mapSlots s.die) b = true ∧ (val = crc ∨ val = 0)
    let refused (t : State) : Prop := t.dog.sectOk = false ∧ (0x03, 0) ∈ t.dog.pend ∧ t.dog.run = s.dog.run ∧
      t.dog.so = s.dog.so ∧ dieBut [.dogIo] s t
    (toDogFresh s → good → ends (.safetySectionLoad ⟨[], true, true⟩) s fun t => t.dog.sectOk = true ∧ t.dog.sectCrc = crc ∧
      (t.dog.unval = true ↔ val = 0) ∧ t.dog.sinceAccept = false ∧ t.dog.run = s.dog.run ∧ t.dog.so = s.dog.so ∧
      (∀ p, p < 8 → vget pair0 t.dog.pairs p = keepSeen (vget pair0 s.dog.pairs p) (secPair b p)) ∧
      (∀ f, f < 8 → vget sfun0 t.dog.funs f = secFun b f) ∧
      (∀ n, n < 4 → getReg t.die (Reg.LSH_SID n) = BitVec.ofNat 32 (leAt b (320 + 8 * n) 4)) ∧
      dieBut [.regs, .segs, .dogIo] s t) ∧
    (toDogFresh s → ∀ agree readBack : Bool, (¬ good ∨ agree = false ∨ readBack = false) →
      ends (.safetySectionLoad ⟨[], agree, readBack⟩) s refused) ∧
    ∀ (m : LinkMsg) (rest : List (Option LinkMsg)) (agree readBack : Bool), m ≠ linkMsg m.seq m.body →
      ends (.safetySectionLoad ⟨some m :: rest, agree, readBack⟩) s refused) ∧
  (∀ (s : State) (x : SectLoad), s.die.pwr.up = true → s.dog.sectTried = true →
    ends (.safetySectionLoad x) s fun t => dieBut [] s t ∧ t.dog = s.dog) ∧
  (∀ (s : State) (x : SectLoad), s.die.pwr.up = true → s.die.boot.loaded = false →
    (loaderDue s.die = false ∨ hostDownload s.die = true ∨ s.die.tb.gt < 1000000) →
    ends (.safetySectionLoad x) s fun t => dieBut [] s t ∧ t.dog = s.dog) ∧
  (∀ s : State, dieIsDown s.die = false → toDogFresh s → toDieFresh s → arriving s 0 = none → arriving s 1 = none →
    ends .safetyWordHandover s fun t => dieBut [.segs, .dogIo] (handed s) t ∧
    t.die.dogIo.slotIn = [] ∧ t.die.dogIo.gtStep = none ∧ t.dog.run = s.dog.run ∧ t.dog.so = s.dog.so ∧
    t.dog.funs = s.dog.funs ∧
    (s.dog.run = false → ∀ n, n < 4 → ∃ w, (segH t.die n).safeWords = some w ∧ ∀ x ∈ w, x.2.1 = 1) ∧
    (∀ x ∈ s.dog.slots, x.seg < 4 → ∃ w c,
      let code := soCode (vget 0 s.dog.sids x.seg) x.slot (((edgeDue s.die).getD (s.die.tb.k + 1)) % 2 ^ 32) c
      let odd : Bool := s.dogIn.differ.any fun y => y.1.val == x.seg && y.2.val == x.slot
      (segH t.die x.seg).safeWords = some w ∧ (x.slot, c, if odd then 0xFFFF - code else code) ∈ w ∧
      (odd = true → (0x04, x.slot) ∈ t.dog.pend) ∧
      ((∃ f, f < 8 ∧ bitOf (vget sfun0 s.dog.funs f).axMask x.axis = true ∧ holdsSto (vget sfun0 s.dog.funs f) = true) →
        c = 1))) ∧
  (∀ (s : State) (x : SSlot) (bn st code at_ : Nat), dieIsDown s.die = false → toDogFresh s → s.dog.slots = [x] →
    s.die.dogIo.slotIn = [(x.seg, x.slot, bn, st, code, at_)] → slotAdmitted s.die x = true →
    code = siCode (vget 0 s.dog.sids x.seg) x.slot bn st → bitOf st 1 = true →
    arriving s 0 = none → ends .safetyWordHandover s fun t => (0x0C, x.slot) ∈ t.dog.pend) ∧
  (∀ s : State, dieIsDown s.die = false → toDieFresh s → arriving s 0 = none → ends .ss1StoMessage s fun t =>
    dieBut [.axes, .dogIo] (arrived s 1) t ∧ t.dog = { s.dog with txSeq := (s.dog.txSeq + 1) % 65536 } ∧
    t.die.dogIo.msgQuiet = 0 ∧ ∀ a ∈ declAxes s.die,
      ((axH t.die a).ss1 = true ↔ ∃ f, f < 8 ∧ bitOf (vget sfun0 s.dog.funs f).axMask a = true ∧
        (vget sfun0 s.dog.funs f).decl = true ∧ (vget sfun0 s.dog.funs f).st = 1) ∧
      ((axH t.die a).sto = true ↔ s.dog.run = false ∨ ∃ f, f < 8 ∧ bitOf (vget sfun0 s.dog.funs f).axMask a = true ∧
        holdsSto (vget sfun0 s.dog.funs f) = true)) ∧
  (∀ (s : State) (m : LinkMsg), s.die.pwr.up = true → m ≠ linkMsg m.seq m.body →
    arriving s 0 = some m → ends .ss1StoMessage s fun t => dieBut [] (arrived s 1) t ∧
      t.dog = { s.dog with txSeq := (s.dog.txSeq + 1) % 65536 }) ∧
  (∀ s : State, ends .ss1StoMessageTimeout s fun t => keepsBut [.dogIo] s t ∧ t.die.dogIo.msgQuiet = 2) ∧
  (∀ s : State, s.die.pwr.up = true → dieIsDown s.die = true →
    ends .sheepdogEvent s fun t => dieBut [] (arrived s 1) t ∧ t.dog = s.dog) ∧
  ∀ (s : State) (e : DogEvt) (rest : List DogEvt), dieIsDown s.die = false → toDieFresh s →
    s.dog.events = e :: rest → s.die.dogIo.resetSeen = false → arriving s 0 = none → ends .sheepdogEvent s fun t =>
      t.dog = { s.dog with events := rest, txSeq := (s.dog.txSeq + 1) % 65536 } ∧
      dieBut [.regs, .lgb, .dogIo] (arrived s 1) t ∧ (flag s.die Reg.LOG_STAT_FROZEN = false → s.die.lgb.queue.length < 32 →
        t.die.lgb.queue.length = s.die.lgb.queue.length + 1 ∧
        ∃ x ∈ t.die.lgb.queue, x.src = 8 ∧ x.code = e.code ∧ x.p0 = e.p0 ∧ x.late = e.held)

/-! ### CAN FD controllers -/

/-- R315, R316, R321, R326, R327: reception: a frame that a controller hears is counted, filtered and stored with its stamp; a
full FIFO keeps what it holds; an FD frame with FDOE = 0 is a form error, which a RESTRICTED controller waits out; a protocol
exception is counted, changes no error counter and begins a wait, in which nothing is heard. In ACTIVE the frame is
acknowledged. The steps of REC are those of ISO 11898-1 (log entry 90); RXOK counts frames before the filters (log entry
64); a frame with BRS at BRSE = 0 ends in an error whose code is open (log entry 129). -/
def Obligations.CanReception : Prop :=
  (∀ (s : State) (n : Fin 4) (f : CanFrame) (tSof : QWord), canHears s.die n.val = true →
    let c := Reg.CAN_CNT_RXOK n.val
    let st := canState s.die n.val
    let rx := fld s.die (Reg.CAN_ERR_REC n.val)
    let here (o : Nat) : Prop := o = c ∨ o = Reg.CAN_ERR n.val ∨ o = Reg.CAN_STAT n.val
    let fits : Prop := (f.fdf = false ∨ flag s.die (Reg.CAN_CFG_FDOE n.val) = true) ∧
      (f.brs = false ∨ flag s.die (Reg.CAN_CFG_BRSE n.val) = true)
    let counted (t : State) : Prop := getReg t.die c = BitVec.ofNat 32 (satInc 32 (getReg s.die c).toNat) ∧
      (st = 2 → rx ≤ 127 → fld t.die (Reg.CAN_ERR_REC n.val) = rx - 1) ∧
      (st = 2 → (canH t.die n.val).out = some .ack) ∧
      (st = 3 → getReg t.die (Reg.CAN_ERR n.val) = getReg s.die (Reg.CAN_ERR n.val) ∧
        (canH t.die n.val).out = (canH s.die n.val).out) ∧
      ∀ m, m ≠ n.val → canH t.die m = canH s.die m
    (f.fdf = true → flag s.die (Reg.CAN_CFG_FDOE n.val) = false → ends (.canFrameReceived n f tSof) s fun t =>
      fld t.die (Reg.CAN_ERR_LEC n.val) = 2 ∧ (canH t.die n.val).fifo = (canH s.die n.val).fifo ∧
      (st = 2 → fld t.die (Reg.CAN_ERR_REC n.val) = min (rx + 1) 255 ∧
        (canH t.die n.val).out = some (.errorFlag (flag s.die (Reg.CAN_ERR_EP n.val)))) ∧
      (st = 3 → (canH t.die n.val).wait = true ∧ (canH t.die n.val).out = (canH s.die n.val).out) ∧
      regsBut (fun o => o = Reg.CAN_ERR n.val ∨ o = Reg.CAN_STAT n.val) s t ∧ keepsBut [.regs, .can] s t) ∧
    ((f.fdf = false ∨ flag s.die (Reg.CAN_CFG_FDOE n.val) = true) → f.brs = true →
      flag s.die (Reg.CAN_CFG_BRSE n.val) = false → ends (.canFrameReceived n f tSof) s fun t =>
        1 ≤ fld t.die (Reg.CAN_ERR_LEC n.val) ∧ fld t.die (Reg.CAN_ERR_LEC n.val) ≤ 6 ∧
        (canH t.die n.val).fifo = (canH s.die n.val).fifo ∧ keepsBut [.regs, .can, .fresh] s t) ∧
    (fits →
      let id := if f.ide then f.id.toNat else f.id.toNat % 2 ^ 11
      (∀ k, k < 32 → canMatch s.die n.val id f.ide k = false) → flag s.die (Reg.CAN_CFG_ACCNONE n.val) = false →
      ends (.canFrameReceived n f tSof) s fun t => counted t ∧ (canH t.die n.val).fifo = (canH s.die n.val).fifo ∧
        regsBut here s t ∧ keepsBut [.regs, .can, .fresh] s t) ∧
    (fits →
      let id := if f.ide then f.id.toNat else f.id.toNat % 2 ^ 11
      ∀ k, k < 32 → canMatch s.die n.val id f.ide k = true → (∀ j, j < k → canMatch s.die n.val id f.ide j = false) →
      ((canH s.die n.val).fifo.length < 64 → ends (.canFrameReceived n f tSof) s fun t => counted t ∧
        (∃ frm data, (canH t.die n.val).fifo =
          (canH s.die n.val).fifo ++ [id :: frm :: (tSof.toNat - 50) / 1000 % 2 ^ 32 :: data] ∧
          frm % 16 = f.dlc.toNat ∧ frm / 2 ^ 16 = k ∧ data.length = 16) ∧
        regsBut (fun o => here o ∨ o = Reg.CAN_RXF_STAT n.val) s t ∧ keepsBut [.regs, .can, .fresh] s t) ∧
      (64 ≤ (canH s.die n.val).fifo.length → ends (.canFrameReceived n f tSof) s fun t => counted t ∧
        flag t.die (Reg.CAN_STAT_RXOVR n.val) = true ∧ getReg t.die (Reg.CAN_CNT_RXOVR n.val) =
          BitVec.ofNat 32 (satInc 32 (getReg s.die (Reg.CAN_CNT_RXOVR n.val)).toNat) ∧
        (canH t.die n.val).fifo = (canH s.die n.val).fifo ∧ keepsBut [.regs, .can, .fresh] s t))) ∧
  (∀ (s : State) (n : Fin 4), canHears s.die n.val = true → flag s.die (Reg.CAN_CFG_FDOE n.val) = true →
    (flag s.die (Reg.CAN_CFG_PXE n.val) = true → ends (.protocolException n) s fun t =>
      getReg t.die (Reg.CAN_CNT_PXE n.val) =
        BitVec.ofNat 32 (satInc 32 (getReg s.die (Reg.CAN_CNT_PXE n.val)).toNat) ∧ (canH t.die n.val).wait = true ∧
      regsBut (· = Reg.CAN_CNT_PXE n.val) s t ∧ keepsBut [.regs, .can] s t) ∧
    (flag s.die (Reg.CAN_CFG_PXE n.val) = false → ends (.protocolException n) s fun t =>
      fld t.die (Reg.CAN_ERR_LEC n.val) = 2 ∧ keepsBut [.regs, .can] s t)) ∧
  ∀ (s : State) (n : Fin 4), (canH s.die n.val).wait = true →
    (∀ (f : CanFrame) (tSof : QWord), ends (.canFrameReceived n f tSof) s (keepsBut [] s)) ∧
    (∀ (code : Fin 7) (tx : Bool) (what : CanErr), ends (.canBusError n code tx what) s (keepsBut [] s)) ∧
    ends (.protocolException n) s (keepsBut [] s) ∧ ends (.canTxStart n) s (keepsBut [] s)

/-- R315, R319, R323 to R325, R327: transmission: the buffer offered is the pending one of lowest number or key, and its frame
goes out; success ends it OK with its stamp; the delay of a frame with BRS is measured also where it ends in an error; an
error or a lost arbitration offers it again, or ends it ONESHOT or ABORTED; TEC above 255 is BUSOFF. The steps of TEC are those
of ISO 11898-1, and an error of the controller's own frame comes with CAN_TX_END (log entry 90). -/
def Obligations.CanTransmission : Prop :=
  (∀ (s : State) (n : Fin 4) (b : Nat), powered s.die (74 + n.val) = true → canState s.die n.val = 2 →
    (canH s.die n.val).offered = none → (canH s.die n.val).wait = false → b < 3 →
    flag s.die (Reg.TXB_CTL_REQ n.val b) = true →
    ends (.canTxStart n) s fun t => keepsBut [.can] s t ∧ ∃ x, (canH t.die n.val).offered = some x ∧ x < 3 ∧
      (canH t.die n.val).out = some (.frame (txbFrame s.die n.val x)) ∧
      flag s.die (Reg.TXB_CTL_REQ n.val x) = true ∧
      (flag s.die (Reg.CAN_CFG_TXPRIO n.val) = true → x ≤ b) ∧
      (flag s.die (Reg.CAN_CFG_TXPRIO n.val) = false → canKey s.die n.val x < canKey s.die n.val b ∨
        (canKey s.die n.val x = canKey s.die n.val b ∧ x ≤ b))) ∧
  ∀ (s : State) (n : Fin 4) (b : Nat) (how : CanTxHow) (tSof : QWord) (delay : Option Nat), b < 3 →
    (canH s.die n.val).offered = some b →
    let measured (t : State) : Prop :=
      (∀ x, delay = some x → flag s.die (Reg.CAN_DBT_TDC_EN n.val) = true →
        flag s.die (Reg.TXB_FRM_BRS n.val b) = true → fld t.die (Reg.CAN_TDCR_DELAY n.val) = min x 127 ∧
        (127 < x + fld s.die (Reg.CAN_DBT_TDCO n.val) → flag t.die (Reg.CAN_TDCR_SAT n.val) = true)) ∧
      (delay = none ∨ flag s.die (Reg.CAN_DBT_TDC_EN n.val) = false →
        getReg t.die (Reg.CAN_TDCR n.val) = getReg s.die (Reg.CAN_TDCR n.val))
    let finished (t : State) (outcome : Nat) : Prop := flag t.die (Reg.TXB_CTL_REQ n.val b) = false ∧
      fld t.die (Reg.TXB_CTL_OUTCOME n.val b) = outcome ∧ flag t.die (Reg.CAN_STAT_TXDONE n.val) = true ∧
      (canH t.die n.val).offered = none ∧ keepsBut [.regs, .can] s t ∧
      regsBut (fun o => o = Reg.TXB_CTL n.val b ∨ o = Reg.CAN_STAT n.val ∨ o = Reg.CAN_TDCR n.val ∨ (how = .success ∧
        (o = Reg.TXB_TS n.val b ∨ o = Reg.CAN_CNT_TXOK n.val)) ∨
        (how ≠ .lostArbitration ∧ o = Reg.CAN_ERR n.val)) s t
    let failed (after : State → Prop) : Prop :=
      let aborts := vget false (canH s.die n.val).aborting b
      let once := flag s.die (Reg.TXB_CTL_ONESHOT n.val b)
      ends (.canTxEnd n how tSof delay) s fun t => after t ∧ (aborts = true → finished t 2) ∧
        (aborts = false → once = true → finished t 4) ∧
        (aborts = false → once = false → (canH t.die n.val).offered = none ∧
          flag t.die (Reg.TXB_CTL_REQ n.val b) = flag s.die (Reg.TXB_CTL_REQ n.val b) ∧ keepsBut [.regs, .can] s t ∧
          regsBut (fun o => how ≠ .lostArbitration ∧
            (o = Reg.CAN_ERR n.val ∨ o = Reg.CAN_STAT n.val ∨ o = Reg.CAN_TDCR n.val)) s t)
    (how = .success → ends (.canTxEnd n how tSof delay) s fun t => finished t 1 ∧ measured t ∧
      (getReg t.die (Reg.TXB_TS n.val b)).toNat = (tSof.toNat - 50) / 1000 % 2 ^ 32 ∧
      getReg t.die (Reg.CAN_CNT_TXOK n.val) =
        BitVec.ofNat 32 (satInc 32 (getReg s.die (Reg.CAN_CNT_TXOK n.val)).toNat) ∧
      fld t.die (Reg.CAN_ERR_TEC n.val) = fld s.die (Reg.CAN_ERR_TEC n.val) - 1) ∧
    (how = .lostArbitration → canState s.die n.val ≠ 4 → failed fun t =>
      getReg t.die (Reg.CAN_ERR n.val) = getReg s.die (Reg.CAN_ERR n.val) ∧
      getReg t.die (Reg.CAN_TDCR n.val) = getReg s.die (Reg.CAN_TDCR n.val)) ∧
    ∀ (code : Fin 7) (exempt : Bool), how = .error code exempt → canState s.die n.val = 2 →
      let tec := fld s.die (Reg.CAN_ERR_TEC n.val) + if exempt then 0 else 8
      (tec ≤ 255 → failed fun t => measured t ∧ fld t.die (Reg.CAN_ERR_TEC n.val) = tec ∧
        fld t.die (Reg.CAN_ERR_REC n.val) = fld s.die (Reg.CAN_ERR_REC n.val) ∧
        (code.val ≠ 0 → fld t.die (Reg.CAN_ERR_LEC n.val) = code.val) ∧
        (canH t.die n.val).out = some (.errorFlag (flag s.die (Reg.CAN_ERR_EP n.val)))) ∧
      (255 < tec → ends (.canTxEnd n how tSof delay) s fun t => measured t ∧ canState t.die n.val = 4 ∧
        (canH t.die n.val).offered = none ∧ (flag s.die (Reg.TXB_CTL_REQ n.val b) = true →
          flag t.die (Reg.TXB_CTL_REQ n.val b) = false ∧ fld t.die (Reg.TXB_CTL_OUTCOME n.val b) = 3) ∧
        keepsBut [.regs, .can, .lgb] s t)

/-- R316, R320, R321: the states of a controller: synchronised, it enters its target or ends its wait; TEC above 255 is BUSOFF,
which ends the pending requests; in RESTRICTED the error counters stand and an error begins a wait for bus idle; RECOVER
ends in ACTIVE; a recorded change waits for bus idle. The steps of TEC and REC at an error are those of ISO 11898-1 (log
entry 90), and 11 recessive bits or bus idle end a wait (log entry 131). -/
def Obligations.CanStates : Prop :=
  (∀ (s : State) (n : Fin 4), canState s.die n.val = 1 → (canH s.die n.val).target < 8 →
    ends (.canSyncDone n) s fun t => canState t.die n.val = (canH s.die n.val).target ∧
      fld t.die (Reg.CAN_ERR_TEC n.val) = 0 ∧ fld t.die (Reg.CAN_ERR_REC n.val) = 0 ∧
      regsBut (fun o => o = Reg.CAN_STAT n.val ∨ o = Reg.CAN_ERR n.val) s t ∧ keepsBut [.regs] s t) ∧
  (∀ (s : State) (n : Fin 4), canState s.die n.val ≠ 1 → ends (.canSyncDone n) s fun t =>
    (canH t.die n.val).wait = false ∧ canH t.die n.val = { canH s.die n.val with wait := false } ∧ keepsBut [.can] s t) ∧
  (∀ (s : State) (n : Fin 4), canState s.die n.val = 5 → ends (.canRecoveryDone n) s fun t =>
    canState t.die n.val = 2 ∧ fld t.die (Reg.CAN_ERR_TEC n.val) = 0 ∧ fld t.die (Reg.CAN_ERR_REC n.val) = 0 ∧
    flag t.die (Reg.CAN_STAT_BOFF n.val) = flag s.die (Reg.CAN_STAT_BOFF n.val) ∧ keepsBut [.regs] s t) ∧
  (∀ (s : State) (n : Fin 4) (m : Nat), m < 8 → (canH s.die n.val).modeReq = some m →
    (canH s.die n.val).offered = none → (canState s.die n.val = 2 ∨ canState s.die n.val = 3) →
    ends (.canModeChangeAtIdle n) s fun t => canState t.die n.val = m ∧ (canH t.die n.val).modeReq = none ∧
      (canH t.die n.val).wait = false ∧ regsBut (· = Reg.CAN_STAT n.val) s t ∧ keepsBut [.regs, .can] s t) ∧
  (∀ (s : State) (n : Fin 4) (code : Fin 7) (tx : Bool) (what : CanErr), canHears s.die n.val = true →
    canState s.die n.val = 3 → what ≠ .overload → ends (.canBusError n code tx what) s fun t =>
      canState t.die n.val = 3 ∧ (canH t.die n.val).wait = true ∧
      (canH t.die n.val).out = (canH s.die n.val).out ∧
      fld t.die (Reg.CAN_ERR_TEC n.val) = fld s.die (Reg.CAN_ERR_TEC n.val) ∧
      fld t.die (Reg.CAN_ERR_REC n.val) = fld s.die (Reg.CAN_ERR_REC n.val) ∧
      (code.val ≠ 0 → fld t.die (Reg.CAN_ERR_LEC n.val) = code.val) ∧
      regsBut (· = Reg.CAN_ERR n.val) s t ∧ keepsBut [.regs, .can] s t) ∧
  (∀ (s : State) (n : Fin 4) (code : Fin 7) (tx : Bool), canHears s.die n.val = true →
    ends (.canBusError n code tx .overload) s fun t =>
      (canState s.die n.val = 2 → (canH t.die n.val).out = some .overloadFlag) ∧
      (canState s.die n.val = 3 → (canH t.die n.val).out = (canH s.die n.val).out) ∧ keepsBut [.can] s t) ∧
  ∀ (s : State) (n : Fin 4) (code : Fin 7) (tx : Bool) (what : CanErr), canHears s.die n.val = true →
    canState s.die n.val = 2 → what ≠ .overload →
    let tec := fld s.die (Reg.CAN_ERR_TEC n.val) + if tx = true ∧ what ≠ .exempt then 8 else 0
    let rec_ := fld s.die (Reg.CAN_ERR_REC n.val) + if tx then 0 else if what = .inFlag then 8 else 1
    (tec ≤ 255 → ends (.canBusError n code tx what) s fun t => canState t.die n.val = 2 ∧
      fld t.die (Reg.CAN_ERR_TEC n.val) = tec ∧ fld t.die (Reg.CAN_ERR_REC n.val) = min rec_ 255 ∧
      (code.val ≠ 0 → fld t.die (Reg.CAN_ERR_LEC n.val) = code.val) ∧
      (flag t.die (Reg.CAN_ERR_EP n.val) = true ↔ 127 < tec ∨ 127 < rec_) ∧
      (what ≠ .inFlag → (canH t.die n.val).out = some (.errorFlag (flag s.die (Reg.CAN_ERR_EP n.val)))) ∧
      (∀ b, b < 3 → getReg t.die (Reg.TXB_CTL n.val b) = getReg s.die (Reg.TXB_CTL n.val b)) ∧
      keepsBut [.regs, .can] s t) ∧
    (255 < tec → ends (.canBusError n code tx what) s fun t => canState t.die n.val = 4 ∧
      flag t.die (Reg.CAN_STAT_BOFF n.val) = true ∧ getReg t.die (Reg.CAN_CNT_BUSOFF n.val) =
        BitVec.ofNat 32 (satInc 32 (getReg s.die (Reg.CAN_CNT_BUSOFF n.val)).toNat) ∧
      (∀ b, b < 3 → flag s.die (Reg.TXB_CTL_REQ n.val b) = true → flag t.die (Reg.TXB_CTL_REQ n.val b) = false ∧
        fld t.die (Reg.TXB_CTL_OUTCOME n.val b) = 3) ∧ keepsBut [.regs, .can, .lgb] s t)

/-! ### Power, reset, start-up, Doze and Hibernate -/

/-- R363, R374, R375: the loader finishes: host download, or no committed bank, leaves the part unconfigured; the one
committed bank is loaded when it passes the checks of R370, and otherwise its refusal stands in GLB_BOOT_ERR. -/
def Obligations.LoaderFinishes : Prop :=
  ∀ s : State,
    let bare (t : State) : Prop := fld t.die Reg.GLB_BOOT_STAT_PHASE = 4 ∧ flag t.die Reg.HST_STAT_READY = true ∧
      t.die.boot.loaded = s.die.boot.loaded ∧ t.die.tb.finished = s.die.tb.finished ∧ keepsBut [.regs, .lgb] s t
    (loaderDue s.die = false → ends .loaderFinish s (keepsBut [] s)) ∧
    (loaderDue s.die = true → hostDownload s.die = true → ends .loaderFinish s bare) ∧
    (loaderDue s.die = true → hostDownload s.die = false → bankOrder s.die.boot.flash = [] →
      ends .loaderFinish s fun t => bare t ∧ fld t.die Reg.GLB_BOOT_ERR_CODE = 1) ∧
    ∀ b, loaderDue s.die = true → hostDownload s.die = false → bankOrder s.die.boot.flash = [b] →
      let r := bankRecord s.die.boot.flash b
      ends .loaderFinish s fun t => match judgeImage (found s) (bankImage s.die.boot.flash b) r.2.2.2 with
        | .ok _ => flag t.die Reg.HST_STAT_READY = true ∧ flag t.die Reg.KNL_STAT_RUN = true ∧
            fld t.die Reg.GLB_BOOT_STAT_PHASE = 3 ∧ t.die.boot.loaded = true ∧ t.die.boot.gen = r.2.1 ∧
            t.die.boot.bank = b ∧ t.die.tb.finished.isSome = true ∧ t.dog = s.dog
        | .error e => bare t ∧ fld t.die Reg.GLB_BOOT_ERR_CODE = e.1 % 256

/-- R377, R380 to R382, R401: the supply: power-up between VON and VOV less 1 V; the warning below VWARN and its end; power
loss, after which nothing is kept but flash and fuse; above 45 V nothing is specified. Whichever command brings a VIN in the
range of operation, the part measures it and the warning follows it. -/
def Obligations.SupplyThresholds : Prop :=
  ∀ (s : State) (mv : Nat),
    let warn := 100 * fld s.die Reg.PWR_VWARN_VWARN
    let warned := flag s.die Reg.PWR_STAT_VWARN
    (45000 < mv → exec (.powerUp mv) s = .fault .ratingExceeded ∧ exec (.vinWarn mv) s = .fault .ratingExceeded ∧
      exec (.vinRecovery mv) s = .fault .ratingExceeded ∧ exec (.powerLoss mv) s = .fault .ratingExceeded) ∧
    (5600 ≤ mv → mv ≤ 41000 → s.die.pwr.up = false → s.die.pwr.en = true → s.die.pwr.hib = false →
      ends (.powerUp mv) s fun t => t.die.pwr.up = true ∧ t.dog = dog0 ∧ t.die.inReset = s.die.inReset ∧
        t.die.pwr.vin = mv ∧ t.die.pwr.cause = 1 ∧ t.die.pwr.por = true ∧
        (warned = false → warn ≤ mv → regsBut (· = Reg.PWR_VINMIN) s t) ∧
        (warned = false → mv < warn → flag t.die Reg.PWR_STAT_VWARN = true ∧ t.die.pwr.vinWarnN = false)) ∧
    exec (.vinRecovery mv) s = exec (.vinWarn mv) s ∧
    (s.die.pwr.up = true → exec (.powerUp mv) s = exec (.vinWarn mv) s) ∧
    (5200 ≤ mv → mv ≤ 42000 → s.die.pwr.up = true → exec (.powerLoss mv) s = exec (.vinWarn mv) s) ∧
    (mv ≤ 45000 → s.die.pwr.up = true → ((warned = false ∧ warn ≤ mv) ∨ (warned = true ∧ mv < warn + 300)) →
      ends (.vinWarn mv) s fun t => t.die.pwr.vin = mv ∧ regsBut (· = Reg.PWR_VINMIN) s t ∧ keepsBut [.regs, .pwr] s t) ∧
    (mv < warn → mv ≤ 45000 → s.die.pwr.up = true → warned = false → ends (.vinWarn mv) s fun t => flag t.die Reg.PWR_STAT_VWARN = true ∧
        flag t.die Reg.PWR_STAT_VWARNS = true ∧ t.die.pwr.vinWarnN = false ∧ t.dog = s.dog ∧
        getReg t.die Reg.PWR_CNT_VWARN = BitVec.ofNat 32 (satInc 32 (getReg s.die Reg.PWR_CNT_VWARN).toNat) ∧
        (flag s.die Reg.GLB_BOOT_STAT_SESSION = true → flag t.die Reg.GLB_BOOT_STAT_SESSION = false ∧
          flag t.die Reg.GLB_BOOT_STAT_SUPPLYCUT = true) ∧
        (flag s.die Reg.GLB_BOOT_STAT_SESSION = false → keepsBut [.regs, .pwr, .lgb] s t)) ∧
    (warn + 300 ≤ mv → mv ≤ 45000 → s.die.pwr.up = true → warned = true → ends (.vinRecovery mv) s fun t => flag t.die Reg.PWR_STAT_VWARN = false ∧
        t.die.pwr.vinWarnN = true ∧ keepsBut [.regs, .pwr] s t) ∧
    ((mv < 5200 ∨ 42000 < mv) → mv ≤ 45000 → s.die.pwr.up = true → ends (.powerLoss mv) s fun t =>
      t.die.pwr.up = false ∧ t.die.inReset = true ∧ t.dog.so = 0 ∧ t.dog.run = false ∧ t.die.lgb = logbook0 ∧
      t.die.boot.flash = s.die.boot.flash ∧ t.die.boot.blown = s.die.boot.blown ∧ t.die.boot.loaded = false ∧
      t.die.pwr.tj = 0 ∧ ∀ off, off ≠ Reg.LOG_DBG → getReg t.die off = resetVal off)

/-- R358, R375, R380, R384, R390 to R392, R402, R404, R406: resets of the control die: what is lost, what stays, what the start
reports. The Sheepdog is not reset, and its events in the Logbook's queue stay (log entry 149). What a start reports where
several conditions held it is the model's (log entry 150), and so is that an internal reset restarts within its command (85). -/
def Obligations.ControlDieResets : Prop :=
  let wiped (s t : State) : Prop := t.die.tb = timebase0 ∧ t.die.mem = mem0 ∧ t.die.lgb.entries = s.die.lgb.entries ∧
    (∀ e ∈ t.die.lgb.queue, e.src = 8 ∧ e.late = true) ∧ t.die.knl.buffer = s.die.knl.buffer ∧ t.die.boot.flash = flashOver s.die.boot ∧
    t.die.boot.loaded = false ∧ t.die.host.cmds = [] ∧ getReg t.die Reg.LOG_SEQ = getReg s.die Reg.LOG_SEQ ∧
    t.dog = s.dog ∧ t.pending = s.pending
  let started (s t : State) (straps : BitVec 16) (cause : Nat) : Prop := t.die.inReset = false ∧ t.die.straps = straps ∧
    t.die.tb.gt = 0 ∧ t.die.boot.loaded = false ∧ getReg t.die Reg.GLB_RST_CAUSE = BitVec.ofNat 32 cause ∧
    (bitOf cause 0 = false → fld t.die Reg.LOG_EPOCH_EPOCH =
      if fld s.die Reg.LOG_EPOCH_EPOCH = 0xFFFF then 1 else fld s.die Reg.LOG_EPOCH_EPOCH + 1) ∧ t.dog = s.dog
  (∀ (s : State) (ns : Nat), (ns < 400 → ends (.nreset ns) s (keepsBut [.fresh] s)) ∧
    (1000 ≤ ns → s.die.pwr.up = true → s.die.inReset = false → ends (.nreset ns) s fun t => t.die.inReset = true ∧
      wiped s t ∧ t.die.pwr.nresetLow = true ∧ t.die.pwr.cause = 4 ∧ t.die.pwr.dom = 0 ∧
      ∀ off, survives off = false → getReg t.die off = resetVal off) ∧
    (400 ≤ ns → ns < 1000 → s.die.pwr.up = true → s.die.inReset = false → ends (.nreset ns) s fun t =>
      keepsBut [.fresh] s t ∨ (t.die.inReset = true ∧ wiped s t))) ∧
  (∀ (s : State) (straps : BitVec 16) (sref : Bool), s.die.pwr.up = true → s.die.inReset = true →
    s.die.pwr.crystal = true → s.die.boot.loaded = false →
    let samples (t : State) : Prop := t.die.straps = straps ∧ flag t.die Reg.PWR_STAT_SREFLOCK = sref
    (s.die.pwr.nresetLow = true → s.die.pwr.por = false → s.die.pwr.therm = false →
      ends (.nresetRelease straps sref) s fun t => started s t straps s.die.pwr.cause ∧ t.die.pwr.nresetLow = false ∧
        samples t) ∧
    (s.die.pwr.nresetLow = true → s.die.pwr.por = false → s.die.pwr.therm = true →
      ends (.nresetRelease straps sref) s fun t => samples t ∧ t.die.inReset = true ∧ t.die.pwr.nresetLow = false ∧
        t.dog = s.dog) ∧
    (s.die.pwr.nresetLow = false → ends (.nresetRelease straps sref) s (keepsBut [] s)) ∧
    (s.die.pwr.por = false → ends (.powerOnResetRelease straps sref) s (keepsBut [] s)) ∧
    (s.die.pwr.por = true → s.die.pwr.nresetLow = false → s.die.pwr.therm = true →
      ends (.powerOnResetRelease straps sref) s fun t => samples t ∧ t.die.inReset = true ∧ t.die.pwr.por = false ∧
        t.die.pwr.cause = 0x20) ∧
    (s.die.pwr.por = true → s.die.pwr.therm = false → s.die.pwr.nresetLow = false → bitOf s.die.pwr.cause 0 = true → ends (.powerOnResetRelease straps sref) s fun t =>
      started s t straps s.die.pwr.cause ∧ fld t.die Reg.LOG_EPOCH_EPOCH = fld s.die Reg.LOG_EPOCH_EPOCH ∧
      samples t)) ∧
  (∀ (s : State) (q : Bool), s.die.pwr.up = true → s.die.inReset = true → ends (.crystalRetry q) s fun t =>
    t.die.pwr = { s.die.pwr with crystal := q } ∧ keepsBut [.pwr] s t) ∧
  (∀ (s : State) (dom : Fin 80), s.die.pwr.up = true → s.die.inReset = false → s.die.pwr.crystal = true →
    s.die.pwr.therm = false → s.die.pwr.nresetLow = false → s.die.pwr.por = false →
    (powered s.die dom.val = true → ends (.pgood dom) s fun t => started s t s.die.straps 8 ∧ wiped s t ∧
      fld t.die Reg.GLB_RST_CNT_DOM = dom.val) ∧
    (powered s.die dom.val = false → ends (.pgood dom) s (keepsBut [] s)) ∧
    ends .supwdt s fun t => started s t s.die.straps 0x10 ∧ wiped s t) ∧
  ∀ (s : State) (tj : BitVec 16), s.die.pwr.up = true →
    (ends (.tjHigh tj) s fun t => t.die.pwr.tj = tj.toNat ∧
      (flag t.die Reg.PWR_STAT_TJHI = true ↔ 440 ≤ sext 16 tj.toNat) ∧
      (440 ≤ sext 16 tj.toNat → flag s.die Reg.PWR_STAT_TJHI = false → flag t.die Reg.PWR_STAT_TJHIS = true) ∧
      (sext 16 (fld s.die Reg.PWR_TJ_PEAK) < sext 16 tj.toNat → fld t.die Reg.PWR_TJ_PEAK = tj.toNat) ∧
      (sext 16 tj.toNat ≤ sext 16 (fld s.die Reg.PWR_TJ_PEAK) →
        fld t.die Reg.PWR_TJ_PEAK = fld s.die Reg.PWR_TJ_PEAK) ∧ keepsBut [.regs, .pwr, .lgb] s t) ∧
    (500 ≤ sext 16 tj.toNat → s.die.pwr.por = false → ends (.therm tj) s fun t => t.die.inReset = true ∧
      t.die.pwr.therm = true ∧ t.die.pwr.cause = 0x20 ∧ (s.die.inReset = false → wiped s t)) ∧
    (sext 16 tj.toNat < 500 → ends (.therm tj) s fun t => t.die.inReset = s.die.inReset ∧ t.dog = s.dog) ∧
    (sext 16 tj.toNat ≤ 420 → s.die.pwr.therm = true → s.die.inReset = true → s.die.pwr.crystal = true →
      s.die.pwr.por = false → s.die.boot.loaded = false →
      (s.die.pwr.nresetLow = false → ends (.thermRecovery tj) s fun t => started s t s.die.straps s.die.pwr.cause ∧
        t.die.pwr.therm = false) ∧
      (s.die.pwr.nresetLow = true → ends (.thermRecovery tj) s fun t => t.die.inReset = true ∧ t.die.pwr.therm = false ∧
        t.die.pwr.cause = 4 ∧ t.dog = s.dog)) ∧
    (420 < sext 16 tj.toNat → s.die.pwr.therm = true → ends (.thermRecovery tj) s fun t => t.die.pwr.therm = true ∧
      t.die.inReset = s.die.inReset ∧ t.dog = s.dog)

/-- R385 to R389: Doze and Hibernate: what goes down, what stays and how each ends; the registers of the loop engines lie in the
core and stay (R416). Accesses held over the switch go on after it (log entry 155), so the states named hold none. The state of
the unpowered domains and the end of the instances on the engines are the model's (log entries 88, 115). -/
def Obligations.DozeAndHibernate : Prop :=
  (∀ s : State, fld s.die Reg.PWR_STAT_MODE = 2 → s.die.pwr.hibReq = false → s.die.trk.held = [] → s.die.trk.recHeld = [] →
    ends .dozeEntry s fun t => fld t.die Reg.PWR_STAT_MODE = 1 ∧
    t.die.pwr.dozeReq = false ∧ t.die.eng = Vector.replicate 16 engine0 ∧ t.die.mem.xram = [] ∧
    t.die.mem.imem = s.die.mem.imem ∧ t.die.mem.ymem = s.die.mem.ymem ∧ t.die.cap = capture0 ∧
    (∀ n, n < 4 → canState t.die n = 0) ∧ (∀ c, c < 16 → chState t.die c = 0) ∧
    (∀ seg i, seg < 4 → i < 32 → i < nNode s.die seg → flag s.die (Reg.LSH_SCFG_DECL seg) = true →
      nodeState t.die seg i = 0) ∧ t.die.tb = s.die.tb ∧
    (∀ off, 0x8000 ≤ off → off < 0xC000 → getReg t.die off = getReg s.die off) ∧
    (∀ x, powered t.die x = true ↔ x ∈ dozeDoms s.die) ∧ t.dog = s.dog ∧ t.pending = s.pending) ∧
  (∀ s : State, (fld s.die Reg.PWR_STAT_MODE ≠ 2 ∨ s.die.pwr.hibReq = true) → ends .dozeEntry s (keepsBut [] s)) ∧
  (∀ s : State, fld s.die Reg.PWR_STAT_MODE = 3 → s.die.pwr.dozeOut = true → s.die.pwr.hibReq = false → s.die.trk.held = [] → s.die.trk.recHeld = [] →
    ends .dozeExit s fun t => fld t.die Reg.PWR_STAT_MODE = 0 ∧ t.die.pwr.dozeOut = false ∧ t.die.pwr.mute = true ∧
    posting t.die = false ∧ t.die.tb = s.die.tb ∧ t.die.lgb = s.die.lgb ∧
    (∀ n, n < 32 → flag t.die (Reg.STP_CFG_DECL n) = true → flag t.die (Reg.STP_STAT_UNSURE n) = true) ∧
    t.dog = s.dog ∧ t.pending = s.pending) ∧
  (∀ s : State, (s.die.pwr.dozeOut = false ∨ s.die.pwr.hibReq = true) → ends .dozeExit s (keepsBut [] s)) ∧
  (∀ (s : State) (en : Bool), s.die.pwr.up = true → (en = true ∨ (s.die.pwr.hibReq = true ∧ s.die.inReset = false)) →
    ends (.hibernateEntry en) s fun t => t.die.pwr.up = false ∧ t.die.pwr.hib = true ∧ t.die.inReset = true ∧
      t.die.pwr.en = (s.die.pwr.en && !en) ∧ t.dog.so = 0 ∧ t.dog.run = false ∧ t.die.lgb = logbook0 ∧
      t.die.knl = kennel0 ∧ t.die.pwr.tj = 0 ∧ t.die.boot.flash = s.die.boot.flash ∧ t.die.boot.blown = s.die.boot.blown) ∧
  (∀ (s : State) (en : Bool), s.die.pwr.hib = true → (en = true ∨ s.die.pwr.en = true) → 5600 ≤ s.die.pwr.vin →
    s.die.pwr.vin ≤ 41000 → ends (.wake en) s fun t => t.die.pwr.up = true ∧ t.die.pwr.hib = false ∧
      t.die.pwr.cause = 3 ∧ t.dog = dog0 ∧ t.die.inReset = s.die.inReset) ∧
  ∀ s : State, (s.die.pwr.en = false ∨ s.die.pwr.hib = false) → ends (.wake false) s (keepsBut [] s)

/-! ### Logbook and debug port -/

/-- R403 to R407: an entry is written at the index SEQ mod 4,096 with the fields of its event, a
relayed Sheepdog event with the GT of its writing; the trigger and the freeze after
POST further entries; a frozen Logbook, and one in reset, writes nothing. R410 to R412: the register each instruction selects, and IDCODE's word;
EXTEST and CLAMP drive the balls from the boundary register and HIGHZ floats them in PROOF mode, and outside it they act as BYPASS
and touch no ball (the order of the balls: log entry 156); vendor debug is BYPASS once DBGOFF is blown, and until then an attached
session, which LOG_DBG shows, halts and resumes cores and reaches memories (which code does what is the vendor's: 157). -/
def Obligations.LogbookAndDebugPort : Prop :=
  ((∀ (s : State) (e : LogEvt) (rest : List LogEvt), s.die.lgb.queue = e :: rest →
    ((flag s.die Reg.LOG_STAT_FROZEN = true ∨ s.die.inReset = true) → ends .logEntryWrite s (keepsBut [] s)) ∧
    (flag s.die Reg.LOG_STAT_FROZEN = false → s.die.inReset = false → ends .logEntryWrite s fun t =>
      let n := (getReg s.die Reg.LOG_SEQ).toNat
      let w := sget [] t.die.lgb.entries (n % 4096)
      getReg t.die Reg.LOG_SEQ = getReg s.die Reg.LOG_SEQ + 1 ∧
      w = logWords (if e.late then { e with gt := s.die.tb.gt } else e) (getReg s.die Reg.LOG_EPOCH).toNat n
        s.die.lgb.lossNext ∧
      (∀ i, i ≠ n % 4096 → sget [] t.die.lgb.entries i = sget [] s.die.lgb.entries i) ∧
      (fld s.die Reg.LOG_CTL_IRQSEV ≤ e.sev → bitOf (getReg t.die Reg.HST_IRQ_STAT).toNat 6 = true) ∧
      (n % 4096 = 4095 → flag t.die Reg.LOG_STAT_WRAPPED = true) ∧
      (s.die.lgb.post = none → (flag s.die Reg.LOG_CTL_FRZEN = false ∨ e.sev < fld s.die Reg.LOG_CTL_FRZSEV) →
        t.die.lgb.queue = rest ∧ t.die.lgb.lossNext = false ∧ flag t.die Reg.LOG_STAT_FROZEN = false) ∧
      (s.die.lgb.post = none → flag s.die Reg.LOG_CTL_FRZEN = true → fld s.die Reg.LOG_CTL_FRZSEV ≤ e.sev →
        fld t.die Reg.LOG_TRIGIDX_INDEX = n % 4096 ∧ flag t.die Reg.LOG_TRIGIDX_VALID = true ∧
        (flag t.die Reg.LOG_STAT_FROZEN = true ↔ fld s.die Reg.LOG_CTL_POST = 0)) ∧
      (s.die.lgb.post = some 1 → flag t.die Reg.LOG_STAT_FROZEN = true ∧ t.die.lgb.queue = []) ∧
      keepsBut [.regs, .lgb] s t)) ∧
  (∀ s : State, s.die.lgb.queue = [] → ends .logEntryWrite s (keepsBut [] s)) ∧
  (∀ s : State, s.die.lgb.post = some 0 → flag s.die Reg.LOG_STAT_FROZEN = false → ends .logTriggerFreeze s fun t =>
    flag t.die Reg.LOG_STAT_FROZEN = true ∧ t.die.lgb.post = none ∧ t.die.lgb.queue = [] ∧
    t.die.lgb.entries = s.die.lgb.entries ∧ keepsBut [.regs, .lgb] s t) ∧
  ∀ s : State, s.die.lgb.post ≠ some 0 → ends .logTriggerFreeze s (keepsBut [] s)) ∧
  (∀ s : State,
    let selects (c : Instr) (ir : BitVec 8) (r : TapReg) (dr : List Bool) (P : State → Prop) : Prop := ends c s fun t =>
      t.die.tap = { s.die.tap with ir := ir, dr := dr } ∧ tapReg t.die = r ∧ keepsBut [.tap] s t ∧ P t
    let balls (show_ : Nat → Option Bool → Option Bool) (t : State) : Prop :=
      ∀ (b : Nat) (own : Option Bool), b < 154 → scanBall t.die b own = show_ b own
    let untouched (t : State) : Prop := balls (fun _ own => own) t
    let driven (t : State) : Prop := balls (fun b _ => some (bitOf s.die.tap.bsr.toNat b)) t
    let cells := bitList 154 s.die.tap.sampled.toNat
    (proofMode s.die = true → selects .extest 0x00 .boundary cells driven ∧ selects .clamp 0x04 .bypass [false] driven ∧
      selects .highz 0x05 .bypass [false] (balls fun _ _ => none)) ∧
    (proofMode s.die = false → selects .extest 0x00 .bypass [false] untouched ∧
      selects .clamp 0x04 .bypass [false] untouched ∧ selects .highz 0x05 .bypass [false] untouched) ∧
    selects .idcode 0x01 .idcode (bitList 32 (idcodeWord s.die)) untouched ∧ selects .bypass 0xFF .bypass [false] untouched ∧
    (∀ a b : ScanWord, ends (.samplePreload a b) s fun t => t.die.tap.sampled = a ∧ t.die.tap.bsr = b ∧
      t.die.tap.ir = 0x02 ∧ tapReg t.die = .boundary ∧ t.die.tap.dr = bitList 154 a.toNat ∧ untouched t ∧
      keepsBut [.tap] s t) ∧
    (∀ op : DebugOp, let ir := BitVec.ofNat 8 (0x80 + op.code.toNat)
      (s.die.boot.blown = true → selects (.vendorDebug op) ir .bypass [false] untouched) ∧
      (s.die.boot.blown = false → flag s.die Reg.LOG_DBG_ATTACHED = false →
        selects (.vendorDebug op) ir .vendor [] untouched)) ∧
    (s.die.boot.blown = false → flag s.die Reg.LOG_DBG_ATTACHED = true → ∀ code : BitVec 4,
      (∀ c : Fin 18, (ends (.vendorDebug ⟨code, .halt c⟩) s fun t => halted t.die c.val = true ∧
          (∀ x, x < 18 → x ≠ c.val → halted t.die x = halted s.die x) ∧ keepsBut [.tap] s t) ∧
        ends (.vendorDebug ⟨code, .resume c⟩) s fun t => halted t.die c.val = false ∧
          (∀ x, x < 18 → x ≠ c.val → halted t.die x = halted s.die x) ∧ keepsBut [.tap] s t) ∧
      (∀ (m : DebugMem) (a : BitVec 16), ends (.vendorDebug ⟨code, .read m a⟩) s fun t =>
        t.die.tap.dr = debugRead s.die a.toNat m ∧ (m ≠ .supervisor → keepsBut [.tap] s t) ∧ keepsBut [.tap, .fresh] s t ∧
        (m = .supervisor → halted s.die 17 = true → debugRead t.die a.toNat m = debugRead s.die a.toNat m)) ∧
      ∀ (m : DebugMem) (a : BitVec 16) (v : BitVec 128), ends (.vendorDebug ⟨code, .write m a v⟩) s fun t =>
        ((m = .supervisor → halted s.die 17 = true) →
          debugRead t.die a.toNat m = bitList (debugRead s.die a.toNat m).length v.toNat) ∧ keepsBut [.tap, .mem, .knl] s t) ∧
    (∀ (e : Fin 16) (ecc : Ecc), halted s.die e.val = true → ends (.nop e ecc) s (keepsBut [] s)) ∧
    (s.die.boot.blown = false → flag s.die Reg.LOG_DBG_ATTACHED = false → ends .vendorDebugAttach s fun t =>
      flag t.die Reg.LOG_DBG_ATTACHED = true ∧ keepsBut [.regs, .lgb] s t) ∧
    (s.die.boot.blown = true → ends .vendorDebugAttach s (keepsBut [] s)) ∧
    ends .vendorDebugDetach s fun t => flag t.die Reg.LOG_DBG_ATTACHED = false ∧ t.die.tap.halted = 0 ∧
      regsBut (· = Reg.LOG_DBG) s t ∧ keepsBut [.regs, .tap] s t)


/-! ### The whole block -/

/-- A step takes the command at the front of the queue and runs it with the queue's rest; no table word spells a command. -/
def Obligations.StepRunsFrontCommand : Prop :=
  (∀ (c : Instr) (rest : List Instr) (s : State), s.pending = c :: rest →
    step s = exec c { s with pending := rest }) ∧
  ∀ (s : State) (n w : Nat), decodeTableWord n w = none ∧ s.withFetchWord n w = s

/-- Log entry 1 (a choice of the model): on an empty queue one 500 MHz cycle passes. GT and its fraction advance by 2 ns at the
trim in force, and nothing else changes; in reset GT stands. -/
def Obligations.EmptyQueueIsOneCycle : Prop :=
  ∀ s : State, s.pending = [] → ∃ t, step s = .next t ∧
    keepsBut [.tb] s t ∧ t.die.tb = { s.die.tb with gt := t.die.tb.gt, frac := t.die.tb.frac, cyc := t.die.tb.cyc } ∧
    (s.die.inReset = true → t = s) ∧
    (s.die.inReset = false → t.die.tb.cyc = s.die.tb.cyc + 1) ∧
    (s.die.inReset = false → s.die.tb.trim = 0 → s.die.tb.frac < 2 ^ 32 → s.die.tb.gt + 2 < 2 ^ 64 →
      t.die.tb.gt = s.die.tb.gt + 2 ∧ t.die.tb.frac = s.die.tb.frac)

/-- Every command ends in a next state, which leaves the waiting commands as they were, but one that brings a VIN above the
absolute maximum rating of 45 V (R377, R401). -/
def Obligations.EveryCommandCompletes : Prop :=
  ∀ (i : Instr) (s : State),
    (∃ t, exec i s = .next t ∧ t.pending = s.pending) ∨
    ((∃ mv, 45000 < mv ∧ (i = .powerUp mv ∨ i = .vinWarn mv ∨ i = .vinRecovery mv ∨ i = .powerLoss mv)) ∧
      exec i s = .fault .ratingExceeded)

/-- R11, R16, R271, R304, R322, R354, R375, R380: the part right after release of the internal power-on reset: GT 0, the registers named at
the numbers of their tables, controllers OFF, trunk STOPPED, the island MUZZLED with cause POWERUP and every SO off, no
command waiting. What the fuses give is log entry 3, the straps and the supply of this state 4. -/
def Obligations.ResetState : Prop :=
  let s := State.reset
  s.pending = [] ∧ s.die.tb.gt = 0 ∧ s.dog.run = false ∧ s.dog.cause = 1 ∧ s.dog.so = 0 ∧ dogSafe s.dog ∧
  getReg s.die Reg.GLB_ID = 0x7128 ∧ getReg s.die Reg.GLB_RST_CAUSE = 1 ∧ fld s.die Reg.LOG_EPOCH_EPOCH = 1 ∧
  getReg s.die Reg.PWR_VINMIN = 0xFFFF ∧ fld s.die Reg.PWR_VWARN_VWARN = 57 ∧ flag s.die Reg.HST_STAT_READY = false ∧
  fld s.die Reg.HST_VER_SEL_VER = 0x10 ∧ fld s.die Reg.BEAT_PERIOD_VALUE = 250000 ∧
  fld s.die Reg.BEAT_IDL_VALUE = 125000 ∧ fld s.die Reg.BEAT_OPH_VALUE = 187500 ∧ fld s.die Reg.BEAT_FCL_VALUE = 237500 ∧
  ctState s.die = 0 ∧ (∀ n, n < 4 → canState s.die n = 0) ∧ (∀ a, a < 128 → axState s.die a = 0) ∧
  (∀ c, c < 16 → chState s.die c = 0) ∧ s.die.boot.loaded = false ∧ running s.die = false ∧ memWf s.die.mem = true ∧
  s.die.lgb.entries = [] ∧ (∀ e, e < 16 → engH s.die e = engine0)

/-- R290, R304: no output of the Sheepdog is on unless the island is RUN: every step keeps it. -/
def Obligations.StepsKeepOutputsOff : Prop := ∀ s t : State, dogSafe s.dog → step s = .next t → dogSafe t.dog

/-- R290, R304, R310: whatever the control die does, an SO output comes on only in a safety cycle of the island in RUN; the
island enters RUN only in a safety cycle after a passed release test; and a release test passes only with an accepted
section, no reset or lost heartbeat since, and every test good. -/
def Obligations.OnlyTheSheepdogReleases : Prop :=
  ∀ (i : Instr) (s t : State), exec i s = .next t →
    (∀ n, n < 4 → bitOf s.dog.so.toNat n = false → bitOf t.dog.so.toNat n = true →
      (∃ obs, i = .safetyCycle obs) ∧ t.dog.run = true) ∧
    (s.dog.run = false → t.dog.run = true → (∃ obs, i = .safetyCycle obs) ∧ ∃ x, s.dog.rel = some (true, x)) ∧
    ((∃ x, t.dog.rel = some (true, x)) → (∃ x, s.dog.rel = some (true, x)) ∨
      (i = .releaseTestEnd none none true ∧ s.dog.sectOk = true ∧ s.dog.sinceAccept = false ∧ s.dog.testFault = none ∧
        s.dog.pend = [] ∧ ∃ n, s.dog.test = some n ∧ 160 ≤ n))

/-- R384: a powered domain that loses power-good makes an internal reset with cause PGOOD and its number in
GLB_RST_CNT.DOM; the domain of the report must be powered. -/
def Obligations.PowerGoodReset : Prop :=
  ∀ (s : State) (dom : Fin 80), s.die.pwr.up = true → s.die.inReset = false → powered s.die dom.val = true →
    ends (.pgood dom) s fun t => t.die.pwr.cause = 8 ∧ fld t.die Reg.GLB_RST_CNT_DOM = dom.val ∧
      t.die.tb = timebase0 ∧ t.die.mem = mem0 ∧ t.die.eng = Vector.replicate 16 engine0 ∧ t.die.boot.loaded = false ∧
      fld t.die Reg.GLB_RST_CNT_COUNT = satInc 16 (fld s.die Reg.GLB_RST_CNT_COUNT) ∧
      (t.die.inReset = false → getReg t.die Reg.GLB_RST_CAUSE = 8) ∧ t.dog = s.dog

/-- R408: writing an entry whose SEV is at least LOG_CTL.IRQSEV sets HST_IRQ_STAT.LOG, and no other entry does. -/
def Obligations.LogInterrupt : Prop :=
  ∀ (s : State) (e : LogEvt) (rest : List LogEvt), s.die.lgb.queue = e :: rest →
    flag s.die Reg.LOG_STAT_FROZEN = false → s.die.inReset = false → ends .logEntryWrite s fun t =>
      (fld s.die Reg.LOG_CTL_IRQSEV ≤ e.sev → bitOf (getReg t.die Reg.HST_IRQ_STAT).toNat 6 = true) ∧
      (e.sev < fld s.die Reg.LOG_CTL_IRQSEV → getReg t.die Reg.HST_IRQ_STAT = getReg s.die Reg.HST_IRQ_STAT)
end

