-- ==== Sys2Proof/Laws/Sparse.lean ====
section
/-! SUPPORT. Sparse maps: what a read gives after a write, and that a write keeps the canonical form. -/

namespace Sys2Proof.Machine

variable {α : Type}

theorem sget_filter_same (d : α) (m : Sparse α) (i : Nat) : sget d (m.filter fun e => e.1 != i) i = d := by
  induction m with
  | nil => rfl
  | cons e m ih =>
    obtain ⟨k, v⟩ := e
    by_cases h : k = i
    · simpa [h] using ih
    · simp [h, sget, ih]

theorem sget_filter_ne (d : α) (m : Sparse α) {i j : Nat} (h : j ≠ i) :
    sget d (m.filter fun e => e.1 != i) j = sget d m j := by
  induction m with
  | nil => rfl
  | cons e m ih =>
    obtain ⟨k, v⟩ := e
    by_cases hk : k = i
    · subst hk; simp [sget, ih, Ne.symm h]
    · simp [hk, sget, ih]

theorem sget_sins_same (d : α) (m : Sparse α) (i : Nat) (x : α) : sget d (sins m i x) i = x := by
  induction m with
  | nil => simp [sins, sget]
  | cons e m ih =>
    obtain ⟨k, v⟩ := e
    by_cases h : k = i
    · simp [sins, sget, h]
    · by_cases h' : i < k
      · simp [sins, sget, h, h']
      · simp [sins, sget, h, h', ih]

theorem sget_sins_ne (d : α) (m : Sparse α) {i j : Nat} (x : α) (h : j ≠ i) :
    sget d (sins m i x) j = sget d m j := by
  induction m with
  | nil => simp [sins, sget, Ne.symm h]
  | cons e m ih =>
    obtain ⟨k, v⟩ := e
    by_cases hk : k = i
    · subst hk; simp [sins, sget, Ne.symm h]
    · by_cases h' : i < k
      · simp [sins, sget, hk, h', Ne.symm h]
      · simp [sins, sget, hk, h', ih]

variable [DecidableEq α]

/-- A read after a write to the same key gives the value written. -/
@[simp] theorem sget_sput_same (d : α) (m : Sparse α) (i : Nat) (x : α) : sget d (sput d m i x) i = x := by
  unfold sput
  split
  · rename_i h; rw [sget_filter_same, h]
  · exact sget_sins_same d m i x

/-- A write leaves every other key alone. -/
theorem sget_sput_ne (d d' : α) (m : Sparse α) {i j : Nat} (x : α) (h : j ≠ i) :
    sget d' (sput d m i x) j = sget d' m j := by
  unfold sput
  split
  · exact sget_filter_ne d' m h
  · exact sget_sins_ne d' m x h

theorem swfFrom_mono (d : α) {m : Sparse α} {lo lo' : Nat} (h : lo' ≤ lo) (hm : swfFrom d lo m = true) :
    swfFrom d lo' m = true := by
  cases m with
  | nil => rfl
  | cons e m =>
    obtain ⟨k, v⟩ := e
    simp only [swfFrom, Bool.and_eq_true, decide_eq_true_eq] at hm ⊢
    exact ⟨⟨by omega, hm.1.2⟩, hm.2⟩

theorem swfFrom_filter (d : α) (m : Sparse α) (i lo : Nat) (hm : swfFrom d lo m = true) :
    swfFrom d lo (m.filter fun e => e.1 != i) = true := by
  induction m generalizing lo with
  | nil => rfl
  | cons e m ih =>
    obtain ⟨k, v⟩ := e
    simp only [swfFrom, Bool.and_eq_true, decide_eq_true_eq] at hm
    by_cases hk : k = i
    · have := ih (k + 1) hm.2
      simpa [hk] using swfFrom_mono d (by omega) this
    · simp [hk, swfFrom, hm.1.1, hm.1.2, ih (k + 1) hm.2]

theorem swfFrom_sins (d : α) (m : Sparse α) (i lo : Nat) (x : α) (hx : x ≠ d) (hlo : lo ≤ i)
    (hm : swfFrom d lo m = true) : swfFrom d lo (sins m i x) = true := by
  induction m generalizing lo with
  | nil => simp [sins, swfFrom, hx, hlo]
  | cons e m ih =>
    obtain ⟨k, v⟩ := e
    simp only [swfFrom, Bool.and_eq_true, decide_eq_true_eq] at hm
    by_cases hk : k = i
    · subst hk; simp [sins, swfFrom, hx, hm.2, hlo]
    · by_cases h' : i < k
      · simp [sins, hk, h', swfFrom, hx, hlo, hm.1.2, hm.2]
      · simp only [sins, hk, h', if_false, swfFrom, hm.1.1, hm.1.2, decide_true, Bool.true_and, ne_eq,
          not_false_eq_true]
        exact ih (k + 1) (by omega) hm.2

/-- A write keeps the canonical form. -/
theorem swf_sput (d : α) (m : Sparse α) (i : Nat) (x : α) (hm : swf d m = true) : swf d (sput d m i x) = true := by
  unfold sput
  split
  · exact swfFrom_filter d m i 0 hm
  · rename_i h; exact swfFrom_sins d m i 0 x h (Nat.zero_le i) hm

end Sys2Proof.Machine
end

