-- ==== Sys2Proof/Laws/State.lean ====
section
/-! SUPPORT. The small lemmas of the shared operations: what each leaves of the die, and reads after writes of registers
and hidden state. -/

namespace Sys2Proof.Machine

/-! Vectors. -/

theorem vget_vset_same {α : Type} {n : Nat} (z : α) (v : Vector α n) (i : Nat) (x : α) (h : i < n) :
    vget z (vset v i x) i = x := by
  simp only [vget, vset, Vector.setIfInBounds, Array.getD, Array.size_setIfInBounds, Vector.size_toArray, h,
    dif_pos, Array.getInternal_eq_getElem, Array.getElem_setIfInBounds_self]

theorem vget_vset_ne {α : Type} {n : Nat} (z : α) (v : Vector α n) {i j : Nat} (x : α) (h : j ≠ i) :
    vget z (vset v i x) j = vget z v j := by
  simp only [vget, vset, Vector.setIfInBounds, Array.getD, Array.size_setIfInBounds, Vector.size_toArray,
    Array.getInternal_eq_getElem]
  split
  · rename_i hj
    exact Array.getElem_setIfInBounds_ne (by simpa using hj) (Ne.symm h)
  · rfl

/-! Registers. -/

@[simp] theorem getReg_putReg_same (d : Die) (off : Nat) (w : Word) : getReg (putReg d off w) off = w := by
  simp [getReg, putReg]

theorem getReg_putReg_ne (d : Die) {off o : Nat} (w : Word) (h : o ≠ off) :
    getReg (putReg d off w) o = getReg d o := by
  simp only [getReg, putReg]
  exact sget_sput_ne _ _ _ w h

theorem getReg_putReg (d : Die) (off o : Nat) (w : Word) :
    getReg (putReg d off w) o = if o = off then w else getReg d o := by
  by_cases h : o = off
  · subst h; simp
  · simp [h, getReg_putReg_ne d w h]

theorem getReg_setFld_ne (d : Die) (f : Fld) (v : Nat) {o : Nat} (h : o ≠ f.off) :
    getReg (setFld d f v) o = getReg d o := getReg_putReg_ne d _ h

theorem getReg_setFlag_ne (d : Die) (f : Fld) {o : Nat} (h : o ≠ f.off) :
    getReg (setFlag d f) o = getReg d o := getReg_putReg_ne d _ h

theorem getReg_putFlag_ne (d : Die) (f : Fld) (b : Bool) {o : Nat} (h : o ≠ f.off) :
    getReg (putFlag d f b) o = getReg d o := getReg_putReg_ne d _ h

theorem getReg_incReg_ne (d : Die) (off : Nat) {o : Nat} (h : o ≠ off) :
    getReg (incReg d off) o = getReg d o := getReg_putReg_ne d _ h

theorem getReg_incReg_same (d : Die) (off : Nat) :
    getReg (incReg d off) off = BitVec.ofNat 32 (satInc 32 (getReg d off).toNat) := by simp [incReg]

/-- Two writes of registers keep apart. -/
theorem fld_putReg_ne (d : Die) (f : Fld) {off : Nat} (w : Word) (h : f.off ≠ off) :
    fld (putReg d off w) f = fld d f := by simp [fld, getReg_putReg_ne d w h]

theorem fld_setFld_ne (d : Die) (f g : Fld) (v : Nat) (h : f.off ≠ g.off) : fld (setFld d g v) f = fld d f :=
  fld_putReg_ne d f _ h

theorem bitsOf_lt (x lo w : Nat) : bitsOf x lo w < 2 ^ w := Nat.mod_lt _ (Nat.two_pow_pos w)

theorem bitsOf_eq (x lo w : Nat) : bitsOf x lo w = x / 2 ^ lo % 2 ^ w := by simp [bitsOf, Nat.shiftRight_eq_div_pow]

theorem bitsOf_shift_le (x lo w : Nat) : bitsOf x lo w * 2 ^ lo ≤ x := by
  rw [bitsOf_eq]
  calc x / 2 ^ lo % 2 ^ w * 2 ^ lo ≤ x / 2 ^ lo * 2 ^ lo := Nat.mul_le_mul_right _ (Nat.mod_le _ _)
    _ ≤ x := Nat.div_mul_le_self _ _

/-- The number with a field replaced, taken apart: the bits above, the field, the bits below. -/
theorem setBitsOf_eq (x lo w v : Nat) :
    setBitsOf x lo w v = x / 2 ^ (lo + w) * 2 ^ (lo + w) + v % 2 ^ w * 2 ^ lo + x % 2 ^ lo := by
  have h1 : x = x / 2 ^ lo * 2 ^ lo + x % 2 ^ lo := by rw [Nat.mul_comm]; exact (Nat.div_add_mod x (2 ^ lo)).symm
  have h2 : x / 2 ^ lo = x / 2 ^ lo / 2 ^ w * 2 ^ w + x / 2 ^ lo % 2 ^ w := by
    rw [Nat.mul_comm]; exact (Nat.div_add_mod _ _).symm
  have h3 : x / 2 ^ lo / 2 ^ w = x / 2 ^ (lo + w) := by rw [Nat.div_div_eq_div_mul, Nat.pow_add]
  rw [h3] at h2
  simp only [setBitsOf, Nat.shiftLeft_eq, bitsOf_eq]
  have h4 : x = x / 2 ^ (lo + w) * 2 ^ (lo + w) + x / 2 ^ lo % 2 ^ w * 2 ^ lo + x % 2 ^ lo := by
    conv_lhs => rw [h1, h2]
    rw [Nat.add_mul, Nat.mul_assoc, ← Nat.pow_add, Nat.add_comm w lo]
  omega

/-- A field reads what was stored in it, modulo its width. -/
theorem bitsOf_setBitsOf (x lo w v : Nat) : bitsOf (setBitsOf x lo w v) lo w = v % 2 ^ w := by
  rw [setBitsOf_eq, bitsOf_eq]
  have hlt : x % 2 ^ lo < 2 ^ lo := Nat.mod_lt _ (Nat.two_pow_pos lo)
  have : x / 2 ^ (lo + w) * 2 ^ (lo + w) + v % 2 ^ w * 2 ^ lo + x % 2 ^ lo =
      (x / 2 ^ (lo + w) * 2 ^ w + v % 2 ^ w) * 2 ^ lo + x % 2 ^ lo := by
    rw [Nat.pow_add, Nat.add_mul, Nat.mul_comm (2 ^ lo) (2 ^ w), Nat.mul_assoc]
  rw [this, Nat.add_comm, Nat.add_mul_div_right _ _ (Nat.two_pow_pos lo), Nat.div_eq_of_lt hlt, Nat.zero_add,
    Nat.add_comm, Nat.add_mul_mod_self_right]
  exact Nat.mod_eq_of_lt (Nat.mod_lt _ (Nat.two_pow_pos w))

theorem setBitsOf_lt (x lo w v n : Nat) (hx : x < 2 ^ n) (hw : lo + w ≤ n) : setBitsOf x lo w v < 2 ^ n := by
  rw [setBitsOf_eq]
  have h1 : x % 2 ^ lo < 2 ^ lo := Nat.mod_lt _ (Nat.two_pow_pos lo)
  have h2 : v % 2 ^ w < 2 ^ w := Nat.mod_lt _ (Nat.two_pow_pos w)
  obtain ⟨k, rfl⟩ := Nat.exists_eq_add_of_le hw
  have h3 : x / 2 ^ (lo + w) < 2 ^ k := Nat.div_lt_of_lt_mul (by rwa [← Nat.pow_add])
  have h4 : v % 2 ^ w * 2 ^ lo + x % 2 ^ lo < 2 ^ (lo + w) := by
    have : (v % 2 ^ w + 1) * 2 ^ lo ≤ 2 ^ w * 2 ^ lo := Nat.mul_le_mul_right _ h2
    rw [Nat.add_mul, Nat.one_mul, Nat.mul_comm (2 ^ w), ← Nat.pow_add] at this
    omega
  have h5 : (x / 2 ^ (lo + w) + 1) * 2 ^ (lo + w) ≤ 2 ^ k * 2 ^ (lo + w) := Nat.mul_le_mul_right _ h3
  rw [Nat.add_mul, Nat.one_mul, Nat.mul_comm (2 ^ k), ← Nat.pow_add] at h5
  omega

/-- A field reads what was stored in it. -/
theorem fld_setFld_same (d : Die) (f : Fld) (v : Nat) (h : f.lo + f.w ≤ 32) :
    fld (setFld d f v) f = v % 2 ^ f.w := by
  have := setBitsOf_lt (getReg d f.off).toNat f.lo f.w v 32 (getReg d f.off).isLt h
  simp only [fld, setFld, getReg_putReg_same, BitVec.toNat_ofNat, Nat.mod_eq_of_lt this, bitsOf_setBitsOf]

theorem flag_setFlag_same (d : Die) (f : Fld) (h : f.lo + f.w ≤ 32) (hw : f.w = 1) : flag (setFlag d f) f = true := by
  simp [flag, setFlag, fld_setFld_same d f 1 h, hw]

theorem flag_putFlag_same (d : Die) (f : Fld) (b : Bool) (h : f.lo + f.w ≤ 32) (hw : f.w = 1) :
    flag (putFlag d f b) f = b := by
  cases b <;> simp [flag, putFlag, b2n, fld_setFld_same d f _ h, hw]

/-! Hidden state. -/

@[simp] theorem axH_updAx_same (d : Die) (a : Nat) (f : AxisHid → AxisHid) : axH (updAx d a f) a = f (axH d a) := by
  simp [axH, updAx]

theorem axH_updAx_ne (d : Die) {a b : Nat} (f : AxisHid → AxisHid) (h : b ≠ a) : axH (updAx d a f) b = axH d b := by
  simp only [axH, updAx]; exact sget_sput_ne _ _ _ _ h

@[simp] theorem gearH_updGear_same (d : Die) (a : Nat) (f : GearSt → GearSt) :
    gearH (updGear d a f) a = f (gearH d a) := by
  simp [gearH, updGear]

theorem gearH_updGear_ne (d : Die) {a b : Nat} (f : GearSt → GearSt) (h : b ≠ a) :
    gearH (updGear d a f) b = gearH d b := by
  simp only [gearH, updGear]; exact sget_sput_ne _ _ _ _ h

theorem engH_updEng_same (d : Die) (e : Nat) (f : Engine → Engine) (h : e < 16) : engH (updEng d e f) e = f (engH d e) := by
  simp [engH, updEng, vget_vset_same _ _ _ _ h]

theorem engH_updEng_ne (d : Die) {e i : Nat} (f : Engine → Engine) (h : i ≠ e) : engH (updEng d e f) i = engH d i := by
  simp [engH, updEng, vget_vset_ne _ _ _ h]

theorem stpH_updStp_same (d : Die) (n : Nat) (f : StepCh → StepCh) (h : n < 32) : stpH (updStp d n f) n = f (stpH d n) := by
  simp [stpH, updStp, vget_vset_same _ _ _ _ h]

theorem stpH_updStp_ne (d : Die) {n i : Nat} (f : StepCh → StepCh) (h : i ≠ n) : stpH (updStp d n f) i = stpH d i := by
  simp [stpH, updStp, vget_vset_ne _ _ _ h]

theorem grpH_updGrp_same (d : Die) (g : Nat) (f : StepGrp → StepGrp) (h : g < 8) : grpH (updGrp d g f) g = f (grpH d g) := by
  simp [grpH, updGrp, vget_vset_same _ _ _ _ h]

theorem chanH_updChan_same (d : Die) (c : Nat) (f : Chan → Chan) (h : c < 16) : chanH (updChan d c f) c = f (chanH d c) := by
  simp [chanH, updChan, vget_vset_same _ _ _ _ h]

theorem chanH_updChan_ne (d : Die) {c i : Nat} (f : Chan → Chan) (h : i ≠ c) : chanH (updChan d c f) i = chanH d i := by
  simp [chanH, updChan, vget_vset_ne _ _ _ h]

theorem canH_updCan_same (d : Die) (n : Nat) (f : CanHid → CanHid) (h : n < 4) : canH (updCan d n f) n = f (canH d n) := by
  simp [canH, updCan, vget_vset_same _ _ _ _ h]

theorem segH_updSeg_same (d : Die) (n : Nat) (f : Seg → Seg) (h : n < 4) : segH (updSeg d n f) n = f (segH d n) := by
  simp [segH, updSeg, vget_vset_same _ _ _ _ h]

@[simp] theorem nodeH_updNode_same (d : Die) (seg i : Nat) (f : Node → Node) :
    nodeH (updNode d seg i f) seg i = f (nodeH d seg i) := by
  simp [nodeH, updNode]

/-! What a write of hidden state leaves of the registers. -/

@[simp] theorem getReg_updAx (d : Die) (a : Nat) (f) (o : Nat) : getReg (updAx d a f) o = getReg d o := rfl
@[simp] theorem getReg_updGear (d : Die) (a : Nat) (f) (o : Nat) : getReg (updGear d a f) o = getReg d o := rfl
@[simp] theorem getReg_updNode (d : Die) (s i : Nat) (f) (o : Nat) : getReg (updNode d s i f) o = getReg d o := rfl
@[simp] theorem getReg_updSeg (d : Die) (s : Nat) (f) (o : Nat) : getReg (updSeg d s f) o = getReg d o := rfl
@[simp] theorem getReg_updEng (d : Die) (e : Nat) (f) (o : Nat) : getReg (updEng d e f) o = getReg d o := rfl
@[simp] theorem getReg_updChan (d : Die) (c : Nat) (f) (o : Nat) : getReg (updChan d c f) o = getReg d o := rfl
@[simp] theorem getReg_updMark (d : Die) (n : Nat) (f) (o : Nat) : getReg (updMark d n f) o = getReg d o := rfl
@[simp] theorem getReg_updStp (d : Die) (n : Nat) (f) (o : Nat) : getReg (updStp d n f) o = getReg d o := rfl
@[simp] theorem getReg_updGrp (d : Die) (n : Nat) (f) (o : Nat) : getReg (updGrp d n f) o = getReg d o := rfl
@[simp] theorem getReg_updCan (d : Die) (n : Nat) (f) (o : Nat) : getReg (updCan d n f) o = getReg d o := rfl
@[simp] theorem getReg_updTport (d : Die) (p : Nat) (f) (o : Nat) : getReg (updTport d p f) o = getReg d o := rfl
@[simp] theorem getReg_updTb (d : Die) (f) (o : Nat) : getReg (updTb d f) o = getReg d o := rfl
@[simp] theorem getReg_updTrk (d : Die) (f) (o : Nat) : getReg (updTrk d f) o = getReg d o := rfl
@[simp] theorem getReg_updHost (d : Die) (f) (o : Nat) : getReg (updHost d f) o = getReg d o := rfl
@[simp] theorem getReg_updKnl (d : Die) (f) (o : Nat) : getReg (updKnl d f) o = getReg d o := rfl
@[simp] theorem getReg_updBoot (d : Die) (f) (o : Nat) : getReg (updBoot d f) o = getReg d o := rfl
@[simp] theorem getReg_updPwr (d : Die) (f) (o : Nat) : getReg (updPwr d f) o = getReg d o := rfl
@[simp] theorem getReg_updMst (d : Die) (f) (o : Nat) : getReg (updMst d f) o = getReg d o := rfl
@[simp] theorem getReg_updCap (d : Die) (f) (o : Nat) : getReg (updCap d f) o = getReg d o := rfl
@[simp] theorem getReg_dropHeld (d : Die) (off o : Nat) : getReg (dropHeld d off) o = getReg d o := rfl

/-! What a write of a register leaves of the rest. -/

@[simp] theorem putReg_tb (d : Die) (o : Nat) (w : Word) : (putReg d o w).tb = d.tb := rfl
@[simp] theorem putReg_eng (d : Die) (o : Nat) (w : Word) : (putReg d o w).eng = d.eng := rfl
@[simp] theorem putReg_mem (d : Die) (o : Nat) (w : Word) : (putReg d o w).mem = d.mem := rfl
@[simp] theorem putReg_knl (d : Die) (o : Nat) (w : Word) : (putReg d o w).knl = d.knl := rfl
@[simp] theorem putReg_axes (d : Die) (o : Nat) (w : Word) : (putReg d o w).axes = d.axes := rfl
@[simp] theorem putReg_gear (d : Die) (o : Nat) (w : Word) : (putReg d o w).gear = d.gear := rfl
@[simp] theorem putReg_mst (d : Die) (o : Nat) (w : Word) : (putReg d o w).mst = d.mst := rfl
@[simp] theorem putReg_cap (d : Die) (o : Nat) (w : Word) : (putReg d o w).cap = d.cap := rfl
@[simp] theorem putReg_stp (d : Die) (o : Nat) (w : Word) : (putReg d o w).stp = d.stp := rfl
@[simp] theorem putReg_grp (d : Die) (o : Nat) (w : Word) : (putReg d o w).grp = d.grp := rfl
@[simp] theorem putReg_segs (d : Die) (o : Nat) (w : Word) : (putReg d o w).segs = d.segs := rfl
@[simp] theorem putReg_nodes (d : Die) (o : Nat) (w : Word) : (putReg d o w).nodes = d.nodes := rfl
@[simp] theorem putReg_trk (d : Die) (o : Nat) (w : Word) : (putReg d o w).trk = d.trk := rfl
@[simp] theorem putReg_can (d : Die) (o : Nat) (w : Word) : (putReg d o w).can = d.can := rfl
@[simp] theorem putReg_host (d : Die) (o : Nat) (w : Word) : (putReg d o w).host = d.host := rfl
@[simp] theorem putReg_boot (d : Die) (o : Nat) (w : Word) : (putReg d o w).boot = d.boot := rfl
@[simp] theorem putReg_lgb (d : Die) (o : Nat) (w : Word) : (putReg d o w).lgb = d.lgb := rfl
@[simp] theorem putReg_tap (d : Die) (o : Nat) (w : Word) : (putReg d o w).tap = d.tap := rfl
@[simp] theorem putReg_pwr (d : Die) (o : Nat) (w : Word) : (putReg d o w).pwr = d.pwr := rfl
@[simp] theorem putReg_straps (d : Die) (o : Nat) (w : Word) : (putReg d o w).straps = d.straps := rfl
@[simp] theorem putReg_held (d : Die) (o : Nat) (w : Word) : (putReg d o w).held = d.held := rfl
@[simp] theorem putReg_heldLow (d : Die) (o : Nat) (w : Word) : (putReg d o w).heldLow = d.heldLow := rfl
@[simp] theorem putReg_land (d : Die) (o : Nat) (w : Word) : (putReg d o w).land = d.land := rfl
@[simp] theorem putReg_axLog (d : Die) (o : Nat) (w : Word) : (putReg d o w).axLog = d.axLog := rfl
@[simp] theorem putReg_snap (d : Die) (o : Nat) (w : Word) : (putReg d o w).snap = d.snap := rfl
@[simp] theorem putReg_stpClk (d : Die) (o : Nat) (w : Word) : (putReg d o w).stpClk = d.stpClk := rfl
@[simp] theorem putReg_dogIo (d : Die) (o : Nat) (w : Word) : (putReg d o w).dogIo = d.dogIo := rfl
@[simp] theorem putReg_inReset (d : Die) (o : Nat) (w : Word) : (putReg d o w).inReset = d.inReset := rfl
@[simp] theorem putReg_fresh (d : Die) (o : Nat) (w : Word) : (putReg d o w).fresh = d.fresh := rfl

/-! What a note of an axis-state write leaves of the rest (R58). -/

@[simp] theorem getReg_axNote (d : Die) (x : AxWrite) (o : Nat) : getReg (axNote d x) o = getReg d o := rfl
@[simp] theorem axNote_held (d : Die) (x : AxWrite) : (axNote d x).held = d.held := rfl
@[simp] theorem axNote_tb (d : Die) (x : AxWrite) : (axNote d x).tb = d.tb := rfl
@[simp] theorem axNote_mem (d : Die) (x : AxWrite) : (axNote d x).mem = d.mem := rfl
@[simp] theorem axNote_eng (d : Die) (x : AxWrite) : (axNote d x).eng = d.eng := rfl

/-- A queue of writes waiting for the Logbook gains at most one event (R405). -/
theorem logInsert_length (e : LogEvt) (q : List LogEvt) : (logInsert e q).length = q.length + 1 := by
  induction q with
  | nil => rfl
  | cons x xs ih => unfold logInsert; split <;> simp [ih]

/-! The interrupt messages at the end of a command (R356). -/

/-- Sending interrupt messages changes those that are sent or wait and nothing else. -/
theorem irqSend_eq (d : Die) (vs : List Nat) :
    ∃ m w, irqSend d vs = { d with host := { d.host with irqMsgs := m, msixWait := w } } := by
  unfold irqSend
  repeat' split
  all_goals exact ⟨_, _, rfl⟩

/-- A CMPL message changes the messages of the host port and their hold-off and nothing else. -/
theorem cmplMsg_eq (d : Die) : ∃ m w e p, cmplMsg d =
    { d with host := { d.host with irqMsgs := m, msixWait := w, holdEnd := e, holdPend := p } } := by
  unfold cmplMsg
  split
  · exact ⟨_, _, _, _, rfl⟩
  · obtain ⟨m, w, h⟩ := irqSend_eq d [0]
    rw [h]; exact ⟨_, _, _, _, rfl⟩

/-- So does one that no entry causes. -/
theorem cmplSettle_eq (c d : Die) : ∃ m w e p, cmplSettle c d =
    { d with host := { d.host with irqMsgs := m, msixWait := w, holdEnd := e, holdPend := p } } := by
  unfold cmplSettle
  dsimp only
  split
  · exact cmplMsg_eq d
  · exact ⟨_, _, _, _, rfl⟩

/-- Settling the interrupts changes the messages of the host port and their hold-off and nothing else. -/
theorem irqSettle_eq (c d : Die) : ∃ m w e p, irqSettle c d =
    { d with host := { d.host with irqMsgs := m, msixWait := w, holdEnd := e, holdPend := p } } := by
  have key : ∀ x : Die, ∃ m w e p,
      (let y := cmplSettle c x
       if intaLevel y = intaLevel c ∨ !pcieLive y then y
       else updHost y fun h => { h with irqMsgs := h.irqMsgs ++ [if intaLevel y then 17 else 18] }) =
      { x with host := { x.host with irqMsgs := m, msixWait := w, holdEnd := e, holdPend := p } } := by
    intro x
    obtain ⟨m, w, e, p, h⟩ := cmplSettle_eq c x
    rw [h]
    dsimp only
    split <;> exact ⟨_, _, _, _, rfl⟩
  unfold irqSettle
  split
  · exact key d
  · obtain ⟨m, w, h⟩ := irqSend_eq d ((upto 9).filter fun i => i != 0 && bitOf (irqPend d) i && !bitOf (irqPend c) i)
    rw [h]
    obtain ⟨m', w', e, p, h'⟩ := key { d with host := { d.host with irqMsgs := m, msixWait := w } }
    exact ⟨m', w', e, p, h'⟩

@[simp] theorem getReg_irqSettle (c d : Die) (o : Nat) : getReg (irqSettle c d) o = getReg d o := by
  obtain ⟨m, w, e, p, h⟩ := irqSettle_eq c d
  rw [h]; rfl

end Sys2Proof.Machine
end

