-- ==== Sys2Proof/Laws/Engine.lean ====
section
/-! SUPPORT. What an issued engine instruction does, said once: the shared operations `issue`, `classM` and `moves`. -/

namespace Sys2Proof.Machine

/-- The state after a command of the control die. -/
theorem onDie_next (f : Die → Die) (s : State) : ∃ d, onDie f s = .next { s with die := d } ∧
    d = irqSettle s.die (f { s.die with host := { s.die.host with irqMsgs := [] } }) := ⟨_, rfl, rfl⟩

@[simp] theorem irqSettle_eng (c d : Die) : (irqSettle c d).eng = d.eng := by
  obtain ⟨m, w, _, _, h⟩ := irqSettle_eq c d
  rw [h]

@[simp] theorem irqSettle_mem (c d : Die) : (irqSettle c d).mem = d.mem := by
  obtain ⟨m, w, _, _, h⟩ := irqSettle_eq c d
  rw [h]

@[simp] theorem irqSettle_knl (c d : Die) : (irqSettle c d).knl = d.knl := by
  obtain ⟨m, w, _, _, h⟩ := irqSettle_eq c d
  rw [h]

/-- The die a command starts from: the messages of the command before are gone. -/
abbrev entry (d : Die) : Die := { d with host := { d.host with irqMsgs := [] } }

@[simp] theorem getReg_entry (d : Die) (o : Nat) : getReg (entry d) o = getReg d o := rfl

theorem issuing_lt (d : Die) (e : Fin 16) (t : Task) (h : issuing d e.val = some t) :
    (engH d e.val).active = some t := by
  unfold issuing at h
  split at h
  · cases hx : (engH d e.val).active with
    | none => simp [hx] at h
    | some u => simp only [hx, Option.filter] at h; split at h <;> simp_all
  · cases h

/-- An engine instruction that retires: the context it leaves (R55). -/
theorem issue_ctx (mine : Nat → Bool) (n : Nat) (run : Die → Task → Nat → Retire) (s : State) (e : Fin 16) (t : Task)
    (w : Nat) (h : atWord s e t w) (hm : mine (iOp w) = true) (d' : Die) (c : Ctx)
    (hr : run (busyFor (entry s.die) e.val n) t w = .ok (d', c))
    (he : (engH d' e.val).active ≠ none) :
    ∃ s', onDie (issue mine n run e.val .clean) s = .next s' ∧ ctxOf s' e = some c ∧
      s'.die = irqSettle s.die (updEng d' e.val fun g => { g with active := g.active.map fun t => { t with ctx := c } }) ∧
      s'.dog = s.dog ∧ s'.pending = s.pending := by
  obtain ⟨hi, hf⟩ := h
  have hi' : issuing (entry s.die) e.val = some t := hi
  have hf' : fetch (entry s.die) t.ctx.pc.toNat = w := hf
  have key : issue mine n run e.val .clean (entry s.die) =
      updEng d' e.val fun g => { g with active := g.active.map fun t => { t with ctx := c } } := by
    unfold issue
    rw [hi']
    dsimp only
    rw [hf', hm]
    have hz : eccCount (busyFor (entry s.die) e.val n) e.val w .clean = busyFor (entry s.die) e.val n := by
      simp [eccCount, Ecc.clean]
    rw [if_neg (by simp), hz, hr]
    rfl
  refine ⟨_, rfl, ?_, ?_, rfl, rfl⟩
  · show ((engH (irqSettle s.die (issue mine n run e.val .clean (entry s.die))) e.val).active.map (·.ctx)) = some c
    rw [key]
    have : engH (irqSettle s.die (updEng d' e.val fun g => { g with active := g.active.map fun t => { t with ctx := c } })) e.val =
        engH (updEng d' e.val fun g => { g with active := g.active.map fun t => { t with ctx := c } }) e.val := by
      simp [engH]
    rw [this, engH_updEng_same _ _ _ e.isLt]
    cases hx : (engH d' e.val).active with
    | none => exact absurd hx he
    | some u => rfl
  · show irqSettle s.die (issue mine n run e.val .clean (entry s.die)) = _
    rw [key]

theorem dReg_putD_same (c : Ctx) (i : Nat) (x : DWord) (h : i < 16) : dReg (putD c i x) i = x := by
  simp [dReg, putD, vget_vset_same _ _ _ _ h]
theorem dReg_putD_ne (c : Ctx) {i j : Nat} (x : DWord) (h : j ≠ i) : dReg (putD c i x) j = dReg c j := by
  simp [dReg, putD, vget_vset_ne _ _ _ h]

theorem busyFor_active (d : Die) (e : Fin 16) (n : Nat) (t) (h : (engH d e.val).active = some t) :
   (engH (busyFor d e.val n) e.val).active ≠ none := by
  simp only [busyFor]
  rw [engH_updEng_same _ _ _ e.isLt]
  show ((engH d e.val).active.map _) ≠ none
  simp [h]

/-- moves leave: exponents etc. -/
theorem moves_ctx (d : Die) (e : Nat) (c0 c : Ctx) (w : Nat) :
   let m := (moves d e c0 c w).2
   m.sr = c.sr ∧ m.e = c.e ∧ m.acc = c.acc ∧ m.xa = c.xa ∧ m.am = c.am ∧ (∀ j, spares w j → dReg m j = dReg c j) ∧ m.calls = c.calls ∧ m.loops = c.loops ∧ m.pc = c.pc := by
  unfold moves spares
  dsimp only
  split <;> (try split) <;> (try split) <;> simp_all [stepPtr, dReg, putD] 
  all_goals (intro j; intros; first | (rw [vget_vset_ne, vget_vset_ne] <;> (apply Ne.symm; assumption)) | (rw [vget_vset_ne]; apply Ne.symm; assumption))

theorem moves_eng (d : Die) (e : Nat) (c0 c : Ctx) (w : Nat) : (moves d e c0 c w).1.eng = d.eng := by
  unfold moves; dsimp only
  split <;> (try split) <;> (try split) <;> rfl

@[simp] theorem setFld_eng (d : Die) (f : Fld) (v : Nat) : (setFld d f v).eng = d.eng := rfl

@[simp] theorem setFlag_eng (d : Die) (f : Fld) : (setFlag d f).eng = d.eng := rfl

@[simp] theorem incReg_eng (d : Die) (o : Nat) : (incReg d o).eng = d.eng := rfl

theorem aluCounts_eng (d : Die) (e : Nat) (o : AluOut) : (aluCounts d e o).eng = d.eng := by
  simp only [aluCounts]
  rw [apply_ite Die.eng, setFlag_eng, ite_self, apply_ite Die.eng, setFlag_eng, incReg_eng, ite_self,
    apply_ite Die.eng, setFlag_eng, incReg_eng, ite_self]

theorem flow_same (c : Ctx) : (flowNext c).sr = c.sr ∧ (flowNext c).e = c.e ∧ (flowNext c).acc = c.acc ∧ (flowNext c).xa = c.xa ∧ (flowNext c).am = c.am ∧ (flowNext c).d = c.d := ⟨rfl,rfl,rfl,rfl,rfl,rfl⟩

theorem classM_ends (i : Instr) (op use : Nat) (alu) (s : State) (e : Fin 16) (t : Task) (w : Nat) (o : AluOut)
  (hi : exec i s = runM op use alu e .clean s)
  (h : atWord s e t w) (hop : iOp w = op) (hu : usedM use w = true) (hm : moveFaults t.ctx w = []) (ho : alu w t.ctx = some o) :
  ends i s fun s' => ∃ c', ctxOf s' e = some c' ∧ c'.sr = srAfter t.ctx.sr o ∧ c'.e = o.ctx.e ∧ c'.acc = o.ctx.acc ∧ c'.xa = o.ctx.xa ∧ c'.am = o.ctx.am ∧ ∀ j, spares w j → dReg c' j = dReg o.ctx j := by
  have hr : classM use alu e.val (busyFor (entry s.die) e.val 1) t w = .ok ((moves (aluCounts (busyFor (entry s.die) e.val 1) e.val o) e.val t.ctx { o.ctx with sr := srAfter t.ctx.sr o } w).1, flowNext (moves (aluCounts (busyFor (entry s.die) e.val 1) e.val o) e.val t.ctx { o.ctx with sr := srAfter t.ctx.sr o } w).2) := by
    unfold classM; simp [hu, hm, ho]
  have ha := issuing_lt _ _ _ h.1
  obtain ⟨s', h1, h2, -⟩ := issue_ctx (· == op) 1 _ s e t w h (by simp [hop]) _ _ hr (by
    rw [show engH (moves (aluCounts (busyFor (entry s.die) e.val 1) e.val o) e.val t.ctx { o.ctx with sr := srAfter t.ctx.sr o } w).1 e.val = engH (busyFor (entry s.die) e.val 1) e.val by simp [engH, moves_eng, aluCounts_eng]]
    exact busyFor_active _ _ _ t ha)
  refine ⟨s', by rw [hi]; exact h1, _, h2, ?_⟩
  obtain ⟨a, b, c, d, f, g, -⟩ := moves_ctx (aluCounts (busyFor (entry s.die) e.val 1) e.val o) e.val t.ctx { o.ctx with sr := srAfter t.ctx.sr o } w
  refine ⟨a, b, c, d, f, g⟩


end Sys2Proof.Machine
end

