-- ==== Sys2Proof/Laws/HostPort.lean ====
section
/-! SUPPORT. What an access of the host port does, said once: performed, held back, or not taken (R280, R339). -/

namespace Sys2Proof.Machine

/-! What an access that waits leaves of the rest (R339). -/

@[simp] theorem getReg_holdReqs (d : Die) (rs : List HostReq) (o : Nat) : getReg (holdReqs d rs) o = getReg d o := rfl
@[simp] theorem holdReqs_host (d : Die) (rs : List HostReq) : (holdReqs d rs).host = d.host := rfl
@[simp] theorem holdReqs_held (d : Die) (rs : List HostReq) : (holdReqs d rs).trk.held = d.trk.held ++ rs := rfl
@[simp] theorem getReg_noData (d : Die) (o : Nat) : getReg (noData d) o = getReg d o := rfl
@[simp] theorem noData_rdData (d : Die) : (noData d).host.rdData = [] := rfl
@[simp] theorem giveData_rdData (d : Die) (off : Nat) (ws : List Word) :
    (giveData d off ws).host.rdData = d.host.rdData ++ ws := rfl

/-! What a write of the host port does. -/

/-- Outside the entry into Doze and the exit no domain is being switched (R385, R387, R417). -/
theorem switching_settled {d : Die} (h : fld d Reg.PWR_STAT_MODE < 2) (off : Nat) : switching d off = false := by
  unfold switching
  split <;> first | omega | rfl

/-- Outside the entry into Doze and the exit no read meets a domain that is being switched. -/
theorem anySwitching_settled {d : Die} (h : fld d Reg.PWR_STAT_MODE < 2) (off n : Nat) :
    anySwitching d off n = false := by
  simp [anySwitching, switching_settled h]

/-- A port that takes writes performs them, to a domain that is not being switched. -/
theorem busWriteBe_takes {d : Die} {off : Nat} (h : hostTakes d = true) (w : switching d off = false) (be v : Nat) :
    busWriteBe off be v d = hostWrite d off be v := by
  simp only [hostTakes, Bool.and_eq_true, Bool.not_eq_true'] at h
  simp [busWriteBe, h.1, h.2, w]

/-- A write to a domain that is being switched waits (R417). -/
theorem busWriteBe_switching {d : Die} {off : Nat} (h : hostUp d = true) (w : switching d off = true) (be v : Nat) :
    busWriteBe off be v d = holdReqs d [.write 0 off be v] := by
  simp [busWriteBe, h, w]

/-- A port that is up and holds writes back keeps them in order. -/
theorem busWriteBe_waits {d : Die} (h : hostUp d = true) (w : writesWait d = true) (off be v : Nat) :
    busWriteBe off be v d = holdReqs d [.write 0 off be v] := by
  simp [busWriteBe, h, w]

/-- A port that is not up takes no write. -/
theorem busWriteBe_down {d : Die} (h : hostUp d = false) (off be v : Nat) : busWriteBe off be v d = d := by
  simp [busWriteBe, h]

/-- A write changes the part only where it is performed: the three ways, in one. -/
theorem busWriteBe_cases (d : Die) (off be v : Nat) :
    busWriteBe off be v d = d ∨ busWriteBe off be v d = holdReqs d [.write 0 off be v] ∨
      busWriteBe off be v d = hostWrite d off be v := by
  unfold busWriteBe
  repeat' split
  · exact .inl rfl
  · exact .inr (.inl rfl)
  · exact .inr (.inr rfl)

/-- With nothing held back there is nothing to let go on. -/
theorem drain_none {d : Die} (h : d.trk.held = []) (g : Dog) : drain g d = d := by
  simp [drain, h, drainHeld]

/-- A read of words gives as many words as it asks for. -/
theorem readWords_length (g : Dog) (d : Die) (off : Nat) (bes : List Nat) :
    (readWords g d off bes).1.length = bes.length := by
  have key : ∀ (l : List (Nat × Nat)) (r : List Word × Die),
      (l.foldl (fun (r : List Word × Die) (x : Nat × Nat) =>
        let a := hostRead g r.2 false (off + 4 * x.2) x.1
        (r.1 ++ [BitVec.ofNat 32 a.1], a.2)) r).1.length = r.1.length + l.length := by
    intro l
    induction l with
    | nil => intro r; rfl
    | cons x xs ih => intro r; rw [List.foldl_cons, ih]; simp; omega
  simpa [readWords] using key bes.zipIdx ([], d)

/-- The completions of a read hold its words in order (R337). -/
theorem cplParts_flatten (off : Nat) (ws : List Word) : (cplParts off ws).flatten = ws := by
  induction ws generalizing off with
  | nil => rfl
  | cons w ws ih =>
    have h := ih (off + 4)
    unfold cplParts
    split
    · rename_i p ps hp
      rw [hp] at h
      split <;> simpa using h
    · rename_i hp
      rw [hp] at h
      simpa using h

end Sys2Proof.Machine
end

