-- ==== Sys2Proof/Tests/Slice0.lean ====
section
/-! SUPPORT. Tests. Expected numbers come from the manual's worked examples and tables; the witnesses show that the
hypotheses of every statement are met together. -/

namespace Sys2Proof.Tests

open Sys2Proof Sys2Proof.Machine

set_option Elab.async false

/-- A running part: every domain on, a Parcel loaded, READY, the next ticket 1; `f` sets what a test needs. -/
def demo (f : Die → Die) : State :=
  let d := State.reset.die
  let d := setFld (setFld d Reg.HST_STAT_NEXT 1) Reg.HST_STAT_READY 1
  { State.reset with die := f { d with
      boot := { d.boot with loaded := true }, pwr := { d.pwr with dom := 2 ^ 80 - 1 } } }

/-- The part with this Sheepdog. -/
def demoDog (g : Dog) (f : Die → Die) : State := { demo f with dog := g }

/-- A state after a command, if it ends in one. -/
def after (o : Host.Outcome State Fault Refusal) : Option State :=
  match o with
  | .next t => some t
  | _ => none

/-- What holds after a command. -/
def holds (o : Host.Outcome State Fault Refusal) (p : State → Bool) : Bool := (after o).any p

/-! ### Well-formed operands: each check refuses an ill-formed term -/

/-- A line: 58 zero bits, then these blocks (R249, R250). -/
def lineOfBlocks (bs : List (List Byte)) : LineBits := (sendLine 0 ⟨58, 0⟩ (bs.flatMap blockItems)).2

/-- The frame of part 2 in slot 6 with this payload, as it reaches port `p` (R251, R252). -/
def frameIn (p : Fin 3) (rx slot : Nat) (payload : List Byte) : TrunkFrame :=
  { port := p, line := lineOfBlocks (frameBlocks 2 slot payload), rx := rx }

/-- A trunk frame with this many payload bytes, zeros. -/
def sized (n : Nat) : TrunkFrame := frameIn 0 0 6 (List.replicate n 0)

/-- 10_courier_trunk: what a transmitter scrambles, a receiver reads back: header, sender, slot, payload. -/
theorem test_line_code : (sized 112).src = 2 ∧ (sized 112).slot = 6 ∧ (sized 112).good = true ∧ (sized 112).begins = true ∧
    (sized 112).payload = List.replicate 112 0 ∧ huntLocks (sized 224).line = true ∧ huntLocks (sized 112).line = false := by
  decide +kernel

/-- A CAN frame by identifier, kind and data. -/
def canOf (id : BitVec 29) (ide rtr fdf brs : Bool) (dlc : BitVec 4) (n : Nat) : CanFrame :=
  { id := id, ide := ide, rtr := rtr, fdf := fdf, brs := brs, esi := false, dlc := dlc, data := List.replicate n 0 }

theorem test_wellFormed_trunk : (sized 56).wellFormed = true ∧ (sized 0).wellFormed = false ∧
    (Instr.stFrameReceived (sized 55)).wellFormed = false ∧ (Instr.trunkFrameForward 0 (sized 0).line 0).wellFormed = false ∧
    (Instr.idleBlockReceived 0 ⟨569, 0⟩ 0 0).wellFormed = false ∧ (Instr.trunkLock ⟨0, ⟨57, 0⟩⟩).wellFormed = false ∧
    (Instr.trunkLockLoss 0 ⟨58, 2 ^ 58⟩).wellFormed = false := by decide +kernel

theorem test_wellFormed_can : (canOf 0x123 false false false false 8 8).wellFormed = true ∧
    (canOf 0x123 false false false false 8 7).wellFormed = false ∧ (canOf 0x123 false true false false 8 8).wellFormed = false ∧
    (canOf 0x123 false true true false 0 0).wellFormed = false ∧ (canOf 0x800 false false false false 0 0).wellFormed = false ∧
    (canOf 0x123 false false false true 0 0).wellFormed = false ∧ (canOf 0x123 false false true true 15 64).wellFormed = true ∧
    (Instr.canFrameReceived 0 (canOf 0x800 false false false false 0 0) 0).wellFormed = false := by decide +kernel

theorem test_wellFormed_leash :
    let h : List Byte := List.replicate 40 0
    (Instr.inSlotAccept 0 0 h (List.replicate 8 0) 0).wellFormed = true ∧
    (Instr.inSlotAccept 0 0 h (List.replicate 9 0) 0).wellFormed = false ∧
    (Instr.inSlotAccept 0 0 [] (List.replicate 8 0) 0).wellFormed = false ∧
    (Instr.beatFrameEnd 0 h (List.replicate 2561 0) 0 0).wellFormed = false ∧
    (Instr.rollFrameReturn 0 h (List.replicate 511 0) 0).wellFormed = false ∧
    (Instr.mbxFrameReturn 0 h (List.replicate 513 0) 0).wellFormed = false ∧
    (Instr.leashMbx 0 0 0x100 (List.replicate 57 0) 5).wellFormed = false := by decide +kernel

theorem test_wellFormed_sizes :
    (Instr.stepMove 0 (List.replicate 15 0) 5).wellFormed = false ∧
    (Instr.parcelData 0 (List.replicate 15 0) 5 ⟨.good, 0, []⟩).wellFormed = false ∧
    (Instr.pcieMemoryRequest true 2 15 15 [0]).wellFormed = false ∧
    (Instr.pcieMemoryRequest true 0 15 15 []).wellFormed = false ∧
    (Instr.markSample (Vector.replicate 8 10000001)).wellFormed = false := by decide +kernel

/-- No row of the table gives bits, so no word spells a command. -/
theorem test_decodeTableWord : decodeTableWord 48 0 = none ∧ (State.reset.withFetchWord 48 0) = State.reset := by
  exact ⟨rfl, rfl⟩

/-! ### Reset -/

/-- Reset memories list nothing and are in canonical form. -/
theorem test_reset_memory : memWf State.reset.die.mem = true ∧ swf 0 State.reset.die.cap.sram = true ∧
    State.reset.die.boot.flash = [] := by decide +kernel

/-- 07_step_generators: 20,000 steps/s is V = 56,294,995,342. -/
theorem test_rate_word : rhu (20000 * 2 ^ 48) (10 ^ 8) = 56294995342 := by decide +kernel

/-- 00_scope: −2.5 counts is stored as 0xFFFF_FFFF_FFFD_8000. -/
theorem test_position_format : wrap 64 (-163840) = 0xFFFFFFFFFFFD8000 := by decide +kernel

theorem witness_ArithmeticOfTheRules : (1 : Nat) ≤ 1 ∧ (0 : Int) < 3 ∧ (5 : Nat) < 2 ^ 192 ∧ 0 < 32000 ∧ 32000 ≤ 1000000000 ∧
    (5 : Nat) < 2 ^ 32 ∧ (6 + 2 ^ 32 - 5) % 2 ^ 32 ≠ 2 ^ 31 := by decide +kernel

/-- An axis at rest at 0 with a raw target at rest at 0 is in lock. -/
theorem witness_LimiterBoundsJerk : (limiter (demo fun d => d).die 1 0 0 0).2.2.2 = true ∧
    (limiter (demo fun d => d).die 1 5 0 0).2.2.2 = false ∧ (gearH (demo id).die 1).a.natAbs ≤ 0 ∧
    (let d := updGear (demo id).die 1 fun g => { g with v := 7 }
     (0 : Int) < (gearH d 1).v ∧ (limiter d 1 5 0 0).2.2.2 = false) ∧
    (let d := updGear (demo id).die 1 fun g => { g with v := -7 }
     (gearH d 1).v < 0 ∧ (limiter d 1 5 0 0).2.2.2 = false) := by decide +kernel

/-! ### Loop engines -/

/-- A task that runs context `c`. -/
def taskOf (c : Ctx) : Task :=
  { idx := 7, level := 4, arg := 0, beat := 0, src := 5, busy := 0, seq := 0, parked := false, ctx := c, inp := [] }

/-- Engine 0 runs context `c` and finds word `w` at its PC. -/
def eng (c : Ctx) (w : Nat) : State := demo fun d =>
  updEng { d with mem := { d.mem with imem := [(c.pc.toNat, BitVec.ofNat 48 w)] } } 0 fun h => { h with active := some (taskOf c) }

/-- A class M word by its fields (R421). -/
def mw (op a b c ex ey ac : Nat) : Nat :=
  op * 2 ^ 42 + a * 2 ^ 38 + b * 2 ^ 34 + c * 2 ^ 30 + ex * 2 ^ 28 + ey * 2 ^ 26 + ac * 2 ^ 24

/-- A class I word by its fields (R421). -/
def iw (op a b imm : Nat) : Nat := op * 2 ^ 42 + a * 2 ^ 38 + b * 2 ^ 34 + imm

/-- The context with D registers 4 and 5 and E2 = 5 of the renormalisation example of 02_loop_engines. -/
def ctxA : Ctx := { ctx0 with
  d := vset (vset (vset ctx0.d 4 (mkLanes 0x080000 (-0x040000))) 5 (mkLanes 0x030000 0x001000)) 6 (mkLanes 3 0)
  e := vset ctx0.e 2 5 }

/-- The D register of engine 0 after a command. -/
def dAfter (o : Host.Outcome State Fault Refusal) (i : Nat) : Option DWord :=
  (after o).bind fun t => (ctxOf t 0).map fun c => dReg c i

/-- Worked example of R73: convergent and half-up results compared. -/
theorem test_shr_pshr_table :
    dAfter (exec (.shr 0 .clean) (eng { ctx0 with d := vset ctx0.d 2 (mkLanes 5 (-5)) } (iw 0x25 1 2 1))) 1 =
      some (mkLanes 2 (-2)) ∧
    dAfter (exec (.shr 0 .clean) (eng { ctx0 with d := vset ctx0.d 2 (mkLanes (-7) 0) } (iw 0x25 1 2 1))) 1 =
      some (mkLanes (-4) 0) ∧
    dAfter (exec (.pshr 0 .clean) (eng { ctx0 with d := vset ctx0.d 2 (mkPaired 5) } (iw 0x26 1 2 1))) 1 =
      some (mkPaired 3) ∧
    dAfter (exec (.pshr 0 .clean) (eng { ctx0 with d := vset ctx0.d 2 (mkPaired (-7)) } (iw 0x26 1 2 1))) 1 =
      some (mkPaired (-3)) := by decide +kernel

/-- Worked example of R73: DMPY and RND of a single-lane product. -/
theorem test_dmpy_rnd :
    let c : Ctx := { ctx0 with d := vset (vset ctx0.d 2 (mkLanes 0x400003 0)) 3 (mkLanes 0x400000 0) }
    holds (exec (.dmpy 0 .clean) (eng c (mw 0x07 0 2 3 0 1 0)))
      (fun t => (ctxOf t 0).any fun x => vget 0 x.acc 0 == 0x0000100000C00000 && vget 0 x.xa 0 == 0) = true ∧
    dAfter (exec (.rnd 0 .clean) (eng { ctx0 with acc := vset ctx0.acc 0 0x0000100000C00000 } (mw 0x0B 1 0 0 0 0 0))) 1 =
      some (mkLanes 0x200002 0) ∧
    dAfter (exec (.rnd 0 .clean) (eng { ctx0 with acc := vset ctx0.acc 0 0x0000100000400000 } (mw 0x0B 1 0 0 0 0 0))) 1 =
      some (mkLanes 0x200000 0) := by decide +kernel

/-- Worked example of renormalisation: NSC, ESUB and SHLV. -/
theorem test_renormalise :
    dAfter (exec (.nsc 0 .clean) (eng ctxA (mw 0x1B 1 4 0 0 0 0))) 1 = some (mkLanes 3 0) ∧
    dAfter (exec (.nsca 0 .clean) (eng { ctxA with d := vset ctxA.d 1 (mkLanes 3 0) } (mw 0x1C 1 5 0 0 0 0))) 1 =
      some (mkLanes 3 0) ∧
    holds (exec (.esub 0 .clean) (eng ctxA (mw 0x1F 1 6 0 2 0 0)))
      (fun t => (ctxOf t 0).any fun x => expReg x 2 == 2 && dReg x 1 == mkLanes 3 0) = true ∧
    dAfter (exec (.shlv 0 .clean) (eng ctxA (mw 0x1D 1 4 6 0 0 0))) 1 = some (mkLanes 0x400000 (-0x200000)) ∧
    dAfter (exec (.shlv 0 .clean) (eng ctxA (mw 0x1D 1 5 6 0 0 0))) 1 = some (mkLanes 0x180000 0x008000) := by
  decide +kernel
/-- Two loops and two calls are open; the innermost body is words 10 to 19. -/
def ctxL : Ctx := { ctxA with pc := 12, calls := [20, 30], loops := [⟨10, 20, 2⟩, ⟨5, 40, 3⟩] }

/-- The conditions of the class M statements at engine 0 in context `c` with word `w` and the fields `use`. -/
def readyM (c : Ctx) (use w : Nat) : Bool :=
  decide (issuing (eng c w).die 0 = some (taskOf c)) && decide (fetch (eng c w).die c.pc.toNat = w) && usedM use w &&
    decide (moveFaults c w = [])

/-- The same for class I. -/
def readyI (c : Ctx) (use w : Nat) : Bool :=
  decide (issuing (eng c w).die 0 = some (taskOf c)) && decide (fetch (eng c w).die c.pc.toNat = w) && usedI use w

theorem witness_TwoOperandLaneResults : ∀ op ∈ [0x0D, 0x0E, 0x0F, 0x10, 0x11],
    iOp (mw op 1 4 5 2 0 0) = op ∧ readyM ctxA useTwo (mw op 1 4 5 2 0 0) = true ∧ spares (mw op 1 4 5 2 0 0) 1 := by
  simp only [spares]; decide +kernel

theorem witness_OneOperandAndPairedResults :
    (∀ op ∈ [0x12, 0x13, 0x14, 0x15, 0x16, 0x1B, 0x1C], iOp (mw op 1 4 0 0 0 0) = op ∧
      readyM ctxA useOne (mw op 1 4 0 0 0 0) = true ∧ spares (mw op 1 4 0 0 0 0) 1) ∧
    (∀ op ∈ [0x1D, 0x1E], iOp (mw op 1 4 6 0 0 0) = op ∧
      readyM ctxA (useMask true true true false false false) (mw op 1 4 6 0 0 0) = true ∧ spares (mw op 1 4 6 0 0 0) 1) ∧
    ∀ op ∈ [0x17, 0x18, 0x19, 0x1A], iOp (mw op 1 4 5 2 0 0) = op ∧ readyM ctxA useTwo (mw op 1 4 5 2 0 0) = true ∧
      spares (mw op 1 4 5 2 0 0) 1 := by
  simp only [spares]; decide +kernel

theorem witness_AccumulatingResults :
    (∀ op ∈ [1, 2, 3, 5, 6], readyM ctxA useMac (mw op 0 4 5 2 0 3) = true ∧ accMode ctxA 3 = false) ∧
    readyM { ctxA with am := vset ctxA.am 3 true } useMac (mw 8 0 4 5 2 0 3) = true ∧
    accMode { ctxA with am := vset ctxA.am 3 true } 3 = true := by decide +kernel

theorem witness_AccumulatorResults :
    (∀ op ∈ [4, 7, 9], readyM ctxA useMac (mw op 0 4 5 2 0 3) = true) ∧
    readyM ctxA (useMask false false false true true true + 2 ^ 30) (mw 0x0A 0 0 1 2 0 3) = true ∧
    readyM ctxA (useMask true false false false true true) (mw 0x0B 1 0 0 0 2 3) = true ∧ spares (mw 0x0B 1 0 0 0 2 3) 1 ∧
    readyM { ctxA with am := vset ctxA.am 3 true } (useMask true false false false true true) (mw 0x0C 1 0 0 0 2 3) =
      true := by
  simp only [spares]; decide +kernel

theorem witness_ExponentImmediateAndShiftResults :
    readyM ctxA 0 0 = true ∧ readyM ctxA (useMask true true false true false false) (mw 0x1F 1 6 0 2 0 0) = true ∧
    readyM ctxA (useMask false true false true false false) (mw 0x20 0 6 0 2 0 0) = true ∧
    readyM ctxA (useMask true false false true false false) (mw 0x21 1 0 0 2 0 0) = true ∧
    readyI ctxA (fieldMask 41 38 + 2 ^ 24 + fieldMask 23 0) (iw 0x22 1 0 0x1FFFFFF) = true ∧
    readyI ctxA (fieldMask 39 38 + fieldMask 7 0) (iw 0x23 2 0 0x80) = true ∧
    readyI ctxA (fieldMask 40 38 + fieldMask 25 24 + fieldMask 15 0) (iw 0x24 7 0 0x300FFFF) = true ∧
    readyI ctxA (fieldMask 41 34 + fieldMask 5 0) (iw 0x25 1 4 63) = true ∧
    readyI ctxA (fieldMask 41 34 + fieldMask 5 0) (iw 0x26 1 4 63) = true := by decide +kernel

theorem witness_ControlFlowResults :
    readyI ctxL (fieldMask 13 0) (iw 0x2A 0 0 19) = true ∧ inBody ⟨10, 20, 2⟩ 19 = true ∧ inBody ⟨10, 20, 2⟩ 20 = false ∧
    readyI ctxL (fieldMask 41 38 + fieldMask 13 0) (iw 0x2B 1 0 19) = true ∧
    jccHolds ctxL.sr 1 = some false ∧ jccHolds ctxL.sr 2 = some true ∧
    readyI ctxL (fieldMask 13 0) (iw 0x2C 0 0 500) = true ∧ ctxL.calls.length < 8 ∧
    readyI { ctxL with calls := [5] } 0 (iw 0x2D 0 0 0) = true ∧
    readyI ctxL 0 (iw 0x2D 0 0 0) = true ∧ (20 : BitVec 14).toNat = 20 ∧
    readyI ctxL (fieldMask 6 0 + fieldMask 23 8) (iw 0x2E 0 0 (64 + 256)) = true ∧ ctxL.loops.length < 4 ∧
    readyI ctxL (fieldMask 37 34 + fieldMask 6 0) (iw 0x2F 0 6 1) = true ∧
    bitsOf (dReg ctxL 6).toNat 0 16 = 3 ∧
    readyI ctxA (fieldMask 6 0 + fieldMask 23 8) (iw 0x2E 0 0 64) = true ∧ ctxA.loops = [] ∧
    readyI ctxA (fieldMask 37 34 + fieldMask 6 0) (iw 0x2F 0 0 1) = true ∧ bitsOf (dReg ctxA 0).toNat 0 16 = 0 := by
  decide +kernel

/-- At the end of two bodies, the inner loop on its last iteration: both a NOP-like JCC and a LOOP of count 0 that skips up to there
go back to the outer start. -/
theorem witness_ControlFlowResults_spent :
    let c : Ctx := { ctxL with pc := 19, loops := [⟨10, 20, 1⟩, ⟨5, 20, 3⟩] }
    let d : Ctx := { c with pc := 15 }
    readyI c (fieldMask 41 38 + fieldMask 13 0) (iw 0x2B 1 0 19) = true ∧ jccHolds c.sr 1 = some false ∧
    holds (exec (.jcc 0 .clean) (eng c (iw 0x2B 1 0 19)))
      (fun t => (ctxOf t 0).any fun x => x.pc == 5 && x.loops == [⟨5, 20, 2⟩]) = true ∧
    readyI d (fieldMask 6 0 + fieldMask 23 8) (iw 0x2E 0 0 4) = true ∧
    holds (exec (.loop 0 .clean) (eng d (iw 0x2E 0 0 4)))
      (fun t => (ctxOf t 0).any fun x => x.pc == 5 && x.loops == [⟨5, 20, 2⟩]) = true := by decide +kernel
/-- Engine 0 of the part where descriptor 7 belongs to axis 5. -/
def engAx (c : Ctx) (w : Nat) (f : Die → Die) : State :=
  { eng c w with die := f { (eng c w).die with knl := { kennel0 with descs := [(7, BitVec.ofNat 128 (2 ^ 25 + 5 * 2 ^ 18))] } } }

theorem witness_MemoryAndPortResults :
    (∀ w ∈ [iw 0x27 1 0 (2 ^ 26 + 0x10), iw 0x27 1 0 (2 ^ 24 + 0x10), iw 0x27 1 0 (2 ^ 25 + 0x10)],
      issuing (engAx ctxA w id).die 0 = some (taskOf ctxA) ∧ usedI (useWin w) w = true ∧
      (winOff (engAx ctxA w id).die (taskOf ctxA) (bitsOf w 24 2 == 1) w).isSome = true) ∧
    (∀ w ∈ [iw 0x28 1 0 (2 ^ 26 + 0x10), iw 0x28 1 0 (2 ^ 24 + 0x10), iw 0x28 1 0 (2 ^ 25 + 0x10),
        iw 0x28 1 0 (2 ^ 25 + 2 ^ 24 + 0x10)],
      issuing (engAx ctxA w id).die 0 = some (taskOf ctxA) ∧ usedI (useWin w) w = true ∧
      (winOff (engAx ctxA w id).die (taskOf ctxA) (bitsOf w 24 2 == 1 || bitsOf w 24 2 == 3) w).isSome = true) ∧
    readyI ctxA (fieldMask 41 38 + fieldMask 36 34 + fieldMask 25 24) (iw 0x29 4 2 0x1000000) = true ∧
    ptr ctxA 2 < 0x8000 ∧ (eng ctxA 0).die.mem.yq.length < 32 ∧ 32 ≤ (List.replicate 32 (⟨0, 0, 0, 0, none⟩ : YEnt)).length ∧
    readyI ctxA (fieldMask 37 34 + fieldMask 9 0) (iw 0x31 0 4 0x3FF) = true ∧ (kqueue (eng ctxA 0).die 7).length < 64 ∧
    64 ≤ (kqueue { (eng ctxA 0).die with knl := { kennel0 with
      queues := [(7, List.replicate 64 (.desc 1 0 0))] } } 7).length ∧
    readyI ctxA 0 (iw 0x30 0 0 0) = true ∧
    let s := demo fun d => { d with mem := { mem0 with yq := [⟨0x7FFF, 5, 3, 1, none⟩] }, tb := { d.tb with cyc := 4 } }
    s.die.mem.yq = [⟨0x7FFF, 5, 3, 1, none⟩] ∧ 3 < s.die.tb.cyc ∧ s.die.mem.yqAt.map (·.1) ≠ some s.die.tb.cyc := by decide +kernel

/-- Engine 3 took the last place of the Y update queue in the cycle in which engine 0 issues its YST. -/
theorem witness_MemoryAndPortResults_yield :
    let y : YEnt := ⟨0x10, 1, 0, 3, some (0, 0)⟩
    let a : List YEnt := List.replicate 31 ⟨0, 0, 0, 0, none⟩
    let s := engAx ctxA (iw 0x29 4 2 0x1000000) fun d =>
      let d := { d with mem := { d.mem with yq := a ++ [y] } }
      updEng d 3 fun g => { g with active := some (taskOf ctxA), free := 1 }
    issuing s.die 0 = some (taskOf ctxA) ∧ 32 ≤ s.die.mem.yq.length ∧ y ∉ a ∧ y.cyc = issueCycle s 0 ∧ 0 < y.eng ∧
    y.back.isSome = true ∧ (engH s.die 3).free = issueCycle s 0 + 1 ∧ (engH s.die 3).active = some (taskOf ctxA) ∧
    holds (exec (.yst 0 Ecc.clean) s) (fun t => !t.die.mem.yq.contains y && t.die.mem.yq.length == 32) = true := by
  decide +kernel

/-- An X store of D4 through P1 stepping by 1, with a Y load of D2 through P3. -/
theorem witness_ParallelMoves :
    readyM ctxA 0 (2 ^ 23 + 2 ^ 22 + 1 * 2 ^ 19 + 1 * 2 ^ 17 + 4 * 2 ^ 13 + 2 ^ 11 + 3 * 2 ^ 8 + 2 ^ 6 + 2 * 2 ^ 2) = true ∧
    readyM ctxA 0 (2 ^ 23 + 1 * 2 ^ 19 + 1 * 2 ^ 17 + 4 * 2 ^ 13 + 2 ^ 11 + 3 * 2 ^ 8 + 2 ^ 6 + 2 * 2 ^ 2) = true ∧
    (eng ctxA 0).die.mem.yqAt = none ∧
    let s := eng ctxA (2 ^ 11 + 3 * 2 ^ 8)
    let s := { s with die := { s.die with mem := { s.die.mem with yqAt := some (0, 0, 9) } } }
    iOp (2 ^ 11 + 3 * 2 ^ 8) = 0 ∧ usedM 0 (2 ^ 11 + 3 * 2 ^ 8) = true ∧ moveFaults ctxA (2 ^ 11 + 3 * 2 ^ 8) = [] ∧
    issuing s.die 0 = some (taskOf ctxA) ∧ fetch s.die ctxA.pc.toNat = 2 ^ 11 + 3 * 2 ^ 8 ∧
    s.die.mem.yqAt = some (0, ptr ctxA (bitsOf (2 ^ 11 + 3 * 2 ^ 8) 8 3), 9) ∧ 0 ≤ issueCycle s 0 ∧
    (0 < issueCycle { s with die := { s.die with tb := { s.die.tb with cyc := 1 } } } 0) := by
  decide +kernel

theorem witness_EngineFaultRecords :
    let far := { ctxA with p := vset (vset ctxA.p 1 0x2000) 3 0x8000 }
    descAxis (eng ctxA 0).die 7 = none ∧ readyI ctxA (2 ^ 42 - 1) (iw 0x32 0 0 0) = true ∧
    usedM useTwo (mw 0x0D 1 4 5 2 0 1) = false ∧ moveFaults far (mw 0x0D 1 4 5 2 0 1) = [] ∧
    (usedM useTwo (mw 0x0D 1 4 5 2 0 1 + 2 ^ 23 + 2 ^ 19) = false ∧
      moveFaults far (mw 0x0D 1 4 5 2 0 1 + 2 ^ 23 + 2 ^ 19) ≠ []) ∧
    readyI ctxA (2 ^ 42 - 1) (iw 0x27 1 0 (2 ^ 25 + 2 ^ 24)) = true ∧ bitsOf (iw 0x27 1 0 (2 ^ 25 + 2 ^ 24)) 24 2 = 3 ∧
    readyI ctxA 0 (iw 0x30 0 0 0) = true ∧
    usedM useTwo (mw 0x0D 1 4 5 2 0 0 + 2 ^ 23 + 2 ^ 19) = true ∧ moveFaults far (mw 0x0D 1 4 5 2 0 0 + 2 ^ 23 + 2 ^ 19) = [2] ∧
    usedM useTwo (mw 0x0D 1 4 5 2 0 0 + 2 ^ 11 + 3 * 2 ^ 8) = true ∧
    moveFaults far (mw 0x0D 1 4 5 2 0 0 + 2 ^ 11 + 3 * 2 ^ 8) = [3] ∧
    readyM { ctxA with am := vset ctxA.am 3 true } useMac (mw 1 0 4 5 2 0 3) = true ∧
    readyM ctxA useMac (mw 8 0 4 5 2 0 3) = true ∧
    readyI far (fieldMask 41 38 + fieldMask 36 34 + fieldMask 25 24) (iw 0x29 4 3 0) = true ∧ 0x8000 ≤ ptr far 3 ∧
    readyI ctxA (useWin (iw 0x27 1 0 8)) (iw 0x27 1 0 8) = true ∧
    readyI ctxA (fieldMask 41 38 + fieldMask 13 0) (iw 0x2B 9 0 19) = true ∧
    readyI { ctxA with calls := List.replicate 8 1 } (fieldMask 13 0) (iw 0x2C 0 0 500) = true ∧
    readyI ctxA 0 (iw 0x2D 0 0 0) = true ∧ ctxA.calls = [] ∧
    readyI { ctxA with loops := List.replicate 4 ⟨5, 40, 3⟩ } (fieldMask 6 0 + fieldMask 23 8) (iw 0x2E 0 0 257) = true ∧
    readyI ctxA (fieldMask 6 0 + fieldMask 23 8) (iw 0x2E 0 0 256) = true := by decide +kernel

/-- A task with an axis: STA and LDA outside the window. -/
theorem witness_EngineFaultRecords_axis :
    (∀ w ∈ [iw 0x27 1 0 0x3FF, iw 0x28 1 0 0x3FF], issuing (engAx ctxA w id).die 0 = some (taskOf ctxA) ∧
      usedI (useWin w) w = true ∧ winOff (engAx ctxA w id).die (taskOf ctxA) false w = none ∧
      descAxis (engAx ctxA w id).die 7 = some 5 ∧ descClass (engAx ctxA w id).die 7 ≤ 1) ∧
    holds (exec (.sta 0 .clean) (engAx ctxA (iw 0x28 1 0 0x3FF) id))
      (fun t => (axH t.die 5).conds.engine && (getReg t.die (Reg.LE_FAULT 0)).toNat % 16 == 4) = true := by decide +kernel

theorem witness_EngineInstructionFrame :
    ∀ i ∈ engineCmds 0 .clean, holds (exec i (eng ctxA (mw 0x0D 1 4 5 2 0 0)))
      (fun t => (ctxOf t 0).isSome && memWf t.die.mem) = true := by decide +kernel

/-- An X store of NOP, a word of LDI whose bits 23 and 22 are set, and a YST that takes the place of engine 3's entry. -/
theorem witness_EngineInstructionFrame_x :
    (let w := 2 ^ 23 + 2 ^ 22 + 2 ^ 19
     issuing (eng ctxA w).die 0 = some (taskOf ctxA) ∧ iOp w < 0x22 ∧
     holds (exec (.nop 0 .clean) (eng ctxA w)) (fun t => (ctxOf t 0).isSome) = true) ∧
    (let w := iw 0x22 1 0 0xC00000
     bitOf w 23 = true ∧ bitOf w 22 = true ∧ ¬ iOp w < 0x22 ∧
     holds (exec (.ldi 0 .clean) (eng ctxA w)) (fun t => (ctxOf t 0).isSome) = true) ∧
    (let y : YEnt := ⟨0x10, 1, 0, 3, some (0, 0)⟩
     let s := engAx ctxA (iw 0x29 4 2 0x1000000) fun d =>
       let d := { d with mem := { d.mem with yq := List.replicate 31 ⟨0, 0, 0, 0, none⟩ ++ [y] } }
       updEng d 3 fun g => { g with active := some (taskOf ctxA), free := 1 }
     32 ≤ s.die.mem.yq.length ∧ y.eng = 3 ∧ y.cyc = issueCycle s 0 ∧
     holds (exec (.yst 0 .clean) s) (fun t => (ctxOf t 0).isSome) = true) := by decide +kernel
/-! ### Beat, axes, Kennel -/

/-- The demo part with beats running, in beat 3 at this phase. -/
def beat (phase : Nat) (f : Die → Die) : State := demo fun d =>
  f (setFlag { d with tb := { d.tb with k := 3, phase := phase, gt := 750000 } } Reg.BEAT_CFG_RUN)

/-- Axis 1 is declared, in state `st`, with no STO. -/
def axIn (st : Nat) (d : Die) : Die :=
  updAx (setFld (setFlag { d with dogIo := { d.dogIo with msgQuiet := 0 } } (Reg.AX_CFG_DECL 1)) (Reg.AX_STAT_STATE 1) st) 1
    fun h => { h with sto := false }

/-- BEAT_NUM example of 01_beat: at 48 kHz, GT = 1,000,000,050 ns lies in beat 48,000. -/
theorem test_beat_edges : beatAt 48000 1000000050 = 48000 ∧ edgeGt 48000 48000 = 1000000000 ∧
    edgeGt 48000 48001 = 1000020833 := by decide +kernel

theorem noneLater_of_nil {s : State} (h : s.die.axLog = []) (p c : Nat) : noneLater s p c := by
  simp [noneLater, h]

theorem witness_BeatEventsAdvance :
    edgeDue (beat 3 id).die = some 4 ∧ edgeDue (demo id).die = none ∧ running (beat 0 id).die = true ∧
    (beat 1 id).die.tb.phase = 1 ∧ (beat 2 id).die.tb.phase = 2 ∧
    stepDue (beat 0 fun d => { d with tb := { d.tb with step := some (-5) } }).die = some (-5) ∧
    let s := beat 0 (axIn 2)
    axDecl s.die 1 = true ∧ axState s.die 1 ≠ 0 ∧ (axH s.die 1).inSlot = false ∧ s.die.axLog = [] := by decide +kernel

/-- The output phase with axis 1 in a state, its work released or not, and finished or not. -/
def atOph (st : Nat) (inSlot fresh : Bool) (ovr : List Nat) : State :=
  beat 1 fun d => updAx { setFld (axIn st d) (Reg.AX_CTL_REQ 1) 1 with tb := { d.tb with ovr := ovr } } 1 fun h =>
    { h with inSlot := inSlot, fresh := fresh, out := { h.out with tq := 5 } }

theorem witness_BeatEventsAdvance_output :
    let at_ (s : State) : Bool := running s.die && s.die.tb.phase == 1 && s.die.axLog.isEmpty && axDecl s.die 1 &&
      !halted s.die 17
    let out (s : State) (p : AxOut → Die → Bool) : Bool := holds (exec .outputPhase s) fun t => p (axH t.die 1).out t.die
    (at_ (atOph 2 true false []) && overruns (atOph 2 true false []).die 1 && at_ (atOph 1 false false []) &&
      at_ (atOph 2 true true [])) = true ∧
    out (atOph 2 true false []) (fun o d => o.stale && o.tq == 5 && computing d 1 && flag d Reg.BEAT_STAT_SHED_A &&
      !flag d Reg.BEAT_STAT_SHED_B && flag d (Reg.AX_STAT_STALE 1)) = true ∧
    out (atOph 2 true true []) (fun o d => !o.stale && o.enable && computing d 1 && !flag d Reg.BEAT_STAT_SHED_A) = true ∧
    out (atOph 4 false false []) (fun o d => o == axOut0 && !computing d 1) = true ∧
    holds (exec .outputPhase (atOph 2 true false [1])) (fun t => t.die.tb.endB == some ((atOph 2 true false [1]).die.tb.k + 1000) &&
      fld t.die Reg.BEAT_SHED_B_LEFT == 1000) = true := by decide +kernel

theorem witness_AxisEvaluationTable :
    let d (st : Nat) (f : AxisHid → AxisHid) : Die := updAx (beat 0 (axIn st)).die 1 f
    let c (x : Conds) : AxisHid → AxisHid := fun h => { h with conds := x }
    let calm (x : Die) : Bool := !(axH x 1).removed && !stoActive x 1 && !(axH x 1).conds.ovc && !(axH x 1).conds.uv
    axState (d 2 fun h => { h with removed := true }) 1 = 2 ∧ (axH (d 2 fun h => { h with removed := true }) 1).removed = true ∧
    stoActive (d 3 fun h => { h with sto := true }) 1 = true ∧
    (axH (d 2 (c { conds0 with ovc := true })) 1).conds.ovc = true ∧ stoActive (d 2 id) 1 = false ∧
    (axH (d 2 (c { conds0 with uv := true })) 1).conds.uv = true ∧
    (calm (d 3 (c { conds0 with engine := true })) = true ∧ (axH (d 3 (c { conds0 with engine := true })) 1).conds.engine = true) ∧
    (calm (d 3 id) = true ∧ axState (d 3 id) 1 = 3 ∧
      stopOver (setFld (d 3 id) ⟨Reg.AX_STOP_TIME 1, 0, 16⟩ 5) 1 = false) ∧
    (calm (d 2 id) = true ∧ stopCauseOf (setFld (d 2 id) (Reg.AX_CTL_REQ 1) 1) 1 = none ∧ stopCauseOf (d 2 id) 1 = some 12) ∧
    (calm (d 1 id) = true ∧ effFld (setFld (d 1 id) (Reg.AX_CTL_REQ 1) 1) (Reg.AX_CTL_REQ 1) = 1 ∧ (axH (d 1 id) 1).ss1 = false ∧
      effFld (d 1 id) (Reg.AX_CTL_REQ 1) ≠ 1) ∧
    stoActive (d 1 fun h => { h with sto := true }) 1 = true ∧
    (axH (d 4 id) 1).clr = false ∧ causeGone (d 4 fun h => { h with clr := true }) 1 = true ∧
    causeGone (setFld (d 4 fun h => { h with clr := true, sto := true }) (Reg.AX_FAULT_CAUSE 1) 0xA) 1 = false ∧
    (axState (d 0 fun h => { h with admitted := true }) 1 = 0 ∧ (axH (d 0 fun h => { h with admitted := true }) 1).admitted = true) ∧
    (axH (d 0 id) 1).admitted = false := by decide +kernel

theorem witness_SheddingAndStopEnds :
    let s := beat 2 fun d => { axIn 3 d with tb := { d.tb with endA := some 3, endB := some 2 } }
    running s.die = true ∧ s.die.tb.phase = 2 ∧ s.die.tb.endA = some 3 ∧ s.die.tb.endB = some 2 ∧ 3 ≤ s.die.tb.k ∧
    axDecl s.die 1 = true ∧ axState s.die 1 = 3 ∧ stopOver s.die 1 = true ∧ s.die.axLog = [] ∧
    fld s.die (Reg.AX_FAULT_STOPCAUSE 1) ≠ 12 ∧
    fld (setFld s.die (Reg.AX_FAULT_STOPCAUSE 1) 12) (Reg.AX_FAULT_STOPCAUSE 1) = 12 := by decide +kernel

/-- The Kennel runs with descriptor 7 (level 4, class of the software and NPE posts, any engine) valid. -/
def knl (f : Kennel → Kennel) : State := demo fun d => { setFlag d Reg.KNL_STAT_RUN with
  knl := f { kennel0 with descs := [(7, BitVec.ofNat 128 (2 ^ 31 + 6 * 2 ^ 26 + 4 * 2 ^ 14 + 0xFFFF * 2 ^ 32))] } }

theorem witness_KennelReleasesAndPlaces :
    let u := taskOf ctx0
    let s := knl fun k => { k with ready := [(4, [u])] }
    let low : Engine := { engine0 with active := some { u with idx := 8, level := 9 } }
    let full := { s with die := { s.die with eng := Vector.replicate 16 low } }
    let done (lvl : Nat) (parked : Bool) : State := { knl id with die := updEng (knl id).die 3 fun h => { h with
      ended := some ⟨u, 0⟩, other := some { u with level := lvl, parked := parked } } }
    descValid s.die 6 = false ∧ descValid s.die 7 = true ∧ descMulti s.die 7 = false ∧ hasInstance s.die 7 = true ∧
    hasInstance (knl id).die 7 = false ∧ kennelOn s.die = true ∧ placement s.die = some (.dispatch u 0) ∧
    (placement full.die = some (.preempt u 0)) ∧
    (upto 16).find? (fun n => (engH (done 4 false).die n).ended.isSome) = some 3 ∧ suspended (done 4 false).die 4 = false ∧
    let q := setFld (done 9 false).die Reg.KNL_STAT_SUSP 0xF00
    suspended q 9 = true := by decide +kernel

/-- A POSITION release of axis 5 while it computes, and a pre-emption of the cycle in which an abort has freed the bank. -/
theorem witness_KennelReleasesAndPlaces_inputs :
    (let d := setFld (knl fun k => { k with
        descs := [(7, BitVec.ofNat 128 (2 ^ 31 + 2 ^ 26 + 2 ^ 25 + 5 * 2 ^ 18 + 4 * 2 ^ 14 + 0xFFFF * 2 ^ 32))] }).die (Reg.AX_STAT_STATE 5) 2
     descValid d 7 = true ∧ descMulti d 7 = false ∧ hasInstance d 7 = false ∧ descClass d 7 = 1 ∧ descAxis d 7 = some 5 ∧
     ((readyList (release d 7 0 0 1) 4).head?.map (·.inp)) = some [0, 0, 0, 0, 1]) ∧
    (let u := taskOf ctx0
     let low : Engine := { engine0 with active := some { u with idx := 8, level := 9 }, beatBusy := 8, freed := some 0 }
     let s := knl fun k => { k with ready := [(4, [u])] }
     let s := { s with die := { s.die with eng := Vector.replicate 16 low } }
     placement s.die = some (.preempt u 0) ∧ (engH s.die 0).freed = some s.die.tb.cyc ∧
     holds (exec .preempt s) (fun t => (engH t.die 0).beatBusy == 2 && (engH t.die 0).bank) = true) := by decide +kernel

theorem witness_KennelPortsTakeHeads :
    let s := knl fun k => { k with queues := [(2, [.desc 7 1 0]), (9, [.desc 7 2 0])] }
    kennelOn s.die = true ∧ (upto 5).find? (fun x => !(kqueue s.die x).isEmpty) = some 2 ∧ kqueue s.die 2 = [.desc 7 1 0] ∧
    (sharedOrder s.die.knl.rr).find? (fun x => !(kqueue s.die x).isEmpty && !headBlocked s.die x) = some 9 ∧
    descValid s.die 7 = true ∧ hasInstance s.die 7 = false ∧ kennelOn (demo id).die = false ∧ descClass s.die 7 = 6 ∧
    (let w := knl fun k => { k with descs := [(7, BitVec.ofNat 128 (2 ^ 31 + 2 * 2 ^ 26))], edgeList := [7], queues := [(0, [.edge 3])] }
     (upto 5).find? (fun x => !(kqueue w.die x).isEmpty) = some 0 ∧ kqueue w.die 0 = [.edge 3] ∧ w.die.knl.edgeList = [7] ∧
       descClass w.die 7 = 2 ∧ descValid w.die 7 = true ∧ hasInstance w.die 7 = false) ∧
    (let w := knl fun k => { k with descs := [(7, BitVec.ofNat 128 (2 ^ 31 + 2 ^ 25 + 5 * 2 ^ 18))], queues := [(1, [.axis 5 3])] }
     (upto 5).find? (fun x => !(kqueue w.die x).isEmpty) = some 1 ∧ findDesc w.die 0 5 = some 7 ∧ findDesc w.die 1 5 = none) ∧
    let w := knl fun k => { k with queues := [(5, [.desc 7 1 0])] }
    (sharedOrder w.die.knl.rr).find? (fun x => !(kqueue w.die x).isEmpty && !headBlocked w.die x) = some 5 ∧
      descClass w.die 7 ≠ 4 := by decide +kernel

theorem witness_PawprintCapture :
    let x : PPEvt := ⟨5, 1, 0, 4, 7, 5, 3, 0, false⟩
    let s (at_ : Nat) (f : Kennel → Kennel) := demo fun d =>
      setFld { setFlag d Reg.KNL_PP_CTL_RUN with knl := f { kennel0 with trace := [x] } } Reg.KNL_PP_WPTR_WPTR at_
    let one := s 16382 id
    (flag one.die Reg.KNL_PP_CTL_RUN = true ∧ powered one.die 79 = true ∧ one.die.knl.ppTrig = false ∧
      one.die.knl.ppFull = false ∧ one.die.knl.trace = [x] ∧ fld one.die Reg.KNL_PP_WPTR_WPTR + 1 < 16384) ∧
    (flag (s 16383 id).die Reg.KNL_PP_CTL_MODE = false ∧ fld (s 16383 id).die Reg.KNL_PP_WPTR_WPTR = 16383) ∧
    (let t := s 5 fun k => { k with ppTrig := true, ppPost := some 0 }
     t.die.knl.ppTrig = true ∧ t.die.knl.ppPost = some 0 ∧ t.die.knl.ppFull = false ∧ t.die.knl.trace = [x]) ∧
    (let d := setFlag (s 16383 id).die Reg.KNL_PP_CTL_MODE
     d.knl.ppTrig = false ∧ flag d Reg.KNL_PP_CTL_MODE = true ∧ fld d Reg.KNL_PP_WPTR_WPTR = 16383) ∧
    flag (demo id).die Reg.KNL_PP_CTL_RUN = false ∧
    (let t := s 5 fun k => { k with ppFull := true }
     flag t.die Reg.KNL_PP_CTL_RUN = true ∧ t.die.knl.ppFull = true) ∧
    (one.die.knl.ppTrig = false ∧ one.die.knl.ppFull = false) ∧
    hostTakes (found (demo id)) = true ∧ judgeWrite (found (demo id)) false Reg.KNL_PP_CTL 15 1 = 0 ∧
    hostTakes (found one) = true ∧ judgeWrite (found one) false Reg.KNL_PP_CTL 15 0 = 0 ∧
    judgeWrite (found one) false Reg.KNL_PP_CTL 15 1 = 0 ∧
    hostUp (found (demo fun d => { d with inReset := true })) = false := by
  decide +kernel
/-! ### Writes of host software -/

/-- The premises of `accepts` as a Bool. -/
def ok (s : State) (off v : Nat) : Bool :=
  hostTakes (found s) && !switching (found s) off && judgeWrite (found s) false off 15 v == 0

theorem accepts_of_ok {s : State} {off v : Nat} (h : ok s off v = true) : accepts s off v := by
  simpa [ok, accepts, and_assoc] using h

theorem witness_ParameterWrites :
    let s := demo fun d => setFlag d (Reg.AX_CFG_DECL 1)
    ok s Reg.BEAT_MARGIN 0 = true ∧ ok s (Reg.AX_CTL 1) 1 = true ∧
    ok s (Reg.AX_CTL 1) (fld s.die (Reg.AX_CTL_REQ 1) + 4) = true ∧
    ok s (Reg.AX_TRK_CTL 1) (fld s.die (Reg.AX_TRK_CTL_FREEZE 1) + 2) = true ∧ ok (demo fun d => putReg (setFlag d (Reg.AX_TRK_CTL_FREEZE 1)) (Reg.AX_FA_MAX 1) 5000) (Reg.AX_NA_FREQ 1) 3200 = true ∧
    ok s (Reg.AX_LS_CTL 1) (bitsOf (getReg s.die (Reg.AX_LS_CTL 1)).toNat 2 2 * 4 + 2) = true ∧
    ok s (Reg.AX_LS_CTL 1) (bitsOf (getReg s.die (Reg.AX_LS_CTL 1)).toNat 0 4 + 16) = true ∧
    ok s (Reg.LSH_SCHED 3) (4 * 2 ^ 11 + 2 ^ 19) = true ∧ s.die.axLog = [] := by decide +kernel

theorem witness_MotionWrites :
    let s := demo fun d => put64 (setFld (setFlag d (Reg.STP_CFG_DECL 2)) (Reg.STP_MODE_MODE 2) 1) (Reg.STP_VMAX 2) 10
    let lost := demo fun d => { setFlag (setFlag d Reg.MST_STAT_LOST) Reg.MST_STAT_HALTED with mst := { d.mst with inTime := true } }
    ok lost Reg.MST_CTL 1 = true ∧ flag lost.die Reg.MST_STAT_ACKPEND = false ∧ ok s (Reg.CAP_CH_FREESEQ 3) 0 = true ∧
    ok s (Reg.STP_MODE 2) 0 = true ∧ ok (demo fun d => setFlag d (Reg.STP_CFG_DECL 2)) (Reg.STP_MODE 2) 1 = true ∧
    ok s (Reg.STP_VEL 2) 5 = true ∧ judgeWrite (busWrite (Reg.STP_VEL 2) 5 (found s)) false (Reg.STP_VEL 2 + 4) 15 0 = 0 ∧
    ok (demo fun d => setFlag d (Reg.STP_CFG_DECL 2)) (Reg.STP_POS 2) 5 = true ∧
    (let p := demo fun d => setFlag d (Reg.STP_CFG_DECL 2)
     judgeWrite (busWrite (Reg.STP_POS 2) 5 (found p)) false (Reg.STP_POS 2 + 4) 15 0 = 0) ∧
    ok s (Reg.STP_CTL 2) 1 = true ∧ fld s.die (Reg.STP_MODE_MODE 2) ≠ 3 ∧
    (flag s.die (Reg.STP_CFG_GRPMEM 2) && (grpH s.die 0).moving) = false ∧ ok s (Reg.STP_GRP_CTL 7) 1 = true := by
  decide +kernel

theorem witness_CanWrites :
    let s (st : Nat) (f : Die → Die) := demo fun d => f (setFld (setFlag d (Reg.CAN_CFG_DECL 1)) (Reg.CAN_STAT_STATE 1) st)
    ok (s 2 id) (Reg.CAN_CTL 1) 0 = true ∧ canState (s 2 id).die 1 = 2 ∧ ok (s 0 id) (Reg.CAN_CTL 1) 1 = true ∧
    ok (s 3 id) (Reg.CAN_CTL 1) 1 = true ∧ ok (s 0 id) (Reg.CAN_CTL 1) 2 = true ∧ ok (s 2 id) (Reg.CAN_CTL 1) 2 = true ∧
    (s 0 id).die.boot.loaded = true ∧ ok (s 4 id) (Reg.CAN_CTL 1) 4 = true ∧
    (let dbt := 13 * 2 ^ 5 + 4 * 2 ^ 10 + 4 * 2 ^ 14
     let nbt := 62 * 2 ^ 5 + 15 * 2 ^ 13 + 15 * 2 ^ 20
     let p := s 0 fun d => putReg (putReg d (Reg.CAN_DBT 1) (BitVec.ofNat 32 dbt)) (Reg.CAN_NBT 1) (BitVec.ofNat 32 nbt)
     ok p (Reg.CAN_NBT 1) nbt = true ∧ ok p (Reg.CAN_DBT 1) dbt = true) ∧
    ok (s 2 id) (Reg.TXB_CTL 1 2) 5 = true ∧
    (let p := s 2 fun d => setFlag d (Reg.TXB_CTL_REQ 1 2)
     ok p (Reg.TXB_CTL 1 2) 2 = true ∧ flag p.die (Reg.TXB_CTL_REQ 1 2) = true ∧ (canH p.die 1).offered ≠ some 2) ∧
    (let p := s 2 fun d => updCan (setFlag d (Reg.TXB_CTL_REQ 1 2)) 1 fun h => { h with offered := some 2 }
     ok p (Reg.TXB_CTL 1 2) 2 = true ∧ (canH p.die 1).offered = some 2) ∧
    ok (s 2 id) (Reg.CAN_RXF_POP 1) 1 = true := by decide +kernel

theorem witness_HostPowerAndLogWrites :
    let s := demo id
    let pcie := demo fun d => { setFlag (put64 d Reg.HST_CRING_BASE 0x10000) Reg.HST_CRING_CTL_EN with host := { d.host with bme := true } }
    ok s Reg.HST_LOCK 1 = true ∧ ok s Reg.HST_VER_SEL 0x13 = true ∧ ok s Reg.HST_RSP_SEL 0xFFFF = true ∧
    ok pcie Reg.HST_CRING_HEAD 0 = true ∧ ok s Reg.HST_CRING_CTL 1 = true ∧ ok pcie Reg.HST_CRING_CTL 0 = true ∧
    ok (demo fun d => { d with host := { d.host with fifo := [[1, 2, 3, 4]] } }) Reg.HST_CFIFO_POP 1 = true ∧
    ok s Reg.PWR_VINMIN 0 = true ∧ ok s Reg.PWR_TJ 0 = true ∧ ok s Reg.PWR_CTL 1 = true ∧
    fld s.die Reg.PWR_STAT_MODE = 0 ∧ ok (demo fun d => setFld d Reg.PWR_STAT_MODE 1) Reg.PWR_CTL 0 = true ∧
    ok s Reg.PWR_CTL (2 + 65536 * 0x4E41) = true ∧ ok s Reg.LOG_CMD 1 = true ∧ flag s.die Reg.LOG_STAT_FROZEN = false ∧
    ok (demo fun d => setFlag d Reg.LOG_STAT_FROZEN) Reg.LOG_CMD 2 = true ∧ ok s Reg.LOG_RD_IDX 4095 = true := by
  decide +kernel

/-- A cluster lead whose port holds a read. -/
def lead (f : Die → Die) : State := demo fun d => f { d with straps := 4, trk := { d.trk with held := [.read 0 [15]] } }

theorem witness_RegisterWriteJudgement :
    let s := demo id
    let w := lead id
    hostUp (found w) = true ∧ writesWait (found w) = true ∧ hostUp (found (demo fun d => { d with inReset := true })) = false ∧
    hostTakes (found s) = true ∧ switching (found s) (Reg.HST_CMD_DESC 15) = false ∧ switching (found s) 0xFFFFC = false ∧
    switching (found s) Reg.HST_ERR = false ∧ switching (found (demo fun d => setFld d Reg.PWR_STAT_MODE 2)) 0xF100 = true ∧
    judgeWrite (found s) false 0xFFFFC 15 0 ≠ 0 ∧ flag s.die Reg.HST_ERR_VALID = false ∧
    flag (setFlag s.die Reg.HST_ERR_VALID) Reg.HST_ERR_VALID = true ∧
    judgeWrite (found s) false (Reg.HST_CMD_DESC 15) 3 0xFFFFFFFF = 0 ∧ Reg.HST_ERR < 2 ^ 20 := by decide +kernel
/-! ### Reads, frames and the mailbox -/

/-- Straps that select HOSTSEL. -/
def strapped (x : BitVec 16) (f : Die → Die) : State := demo fun d => f { d with straps := x }

theorem witness_HostReads :
    let s := demo id
    let w := lead id
    hostUp (found w) = true ∧ readsWait (found w) = true ∧ hostUp (found (demo fun d => { d with inReset := true })) = false ∧
    hostUp (found s) = true ∧ readsWait (found s) = false ∧ writesWait (found s) = false ∧ sget none s.die.snap Reg.BEAT_NUM = none ∧ (regAt s.die false Reg.BEAT_EDGE).isSome = true ∧
    isLow Reg.BEAT_EDGE = true ∧ (regAt s.die false (Reg.BEAT_EDGE + 4)).isSome = true ∧ isLow (Reg.BEAT_EDGE + 4) = false ∧
    sget none (demo fun d => { d with snap := sput none d.snap (Reg.BEAT_EDGE + 4) (some 9) }).die.snap (Reg.BEAT_EDGE + 4) = some 9 ∧
    pcieUp (found s) = true ∧ (regAt s.die false Reg.GLB_ID).isSome = true ∧ Reg.HST_CMD_DESC 14 < 2 ^ 20 ∧
    s.die.tb.gt < s.die.host.cfgReady ∧
    let r := demo fun d => { d with tb := { d.tb with gt := 20000000 } }
    pcieUp (found r) = true ∧ r.die.host.cfgReady ≤ r.die.tb.gt := by decide +kernel

/-- A QSPI frame that writes one word to HST_CMD_DESC_2, with its two CRCs (R333 to R335). -/
def spiFrame (crc2 : Nat → Nat) : List Byte :=
  let h : List Byte := [0x00, 0x08, 0x00, 0x0C]
  let h := h ++ [BitVec.ofNat 8 (crc07 h)]
  let w : List Byte := [1, 2, 3, 4]
  h ++ w ++ [BitVec.ofNat 8 (crc2 (crc07 w))]

theorem witness_QspiFrames :
    let s := strapped 2 id
    let b := spiFrame id
    let bad := spiFrame (· + 1)
    qspiUp (found s) = true ∧ spiHeader b = none ∧ b.length = 10 ∧ leAt b 0 1 % 16 = 0 ∧ bitOf (leAt b 0 1) 7 = false ∧
    leAt b 1 3 = Reg.HST_CMD_DESC 2 ∧ leAt b 9 1 = crc07 (slice b 5 4) ∧ spiHeader bad = none ∧
    leAt bad 9 1 ≠ crc07 (slice bad 5 4) ∧ spiHeader [0x80, 0, 0, 0, 1] = some Reg.HST_SPI_ERR_HCRC ∧
    Reg.HST_SPI_ERR_HCRC ≠ Reg.HST_SPI_ERR_FRAG ∧ bitOf (leAt [0x80, 0, 0, 0, 1] 0 1) 7 = true ∧
    (let h : List Byte := [0x81, 0x08, 0x00, 0x0C]
     spiHeader (h ++ [BitVec.ofNat 8 (crc07 h)]) = none ∧ bitOf (leAt h 0 1) 7 = true) ∧
    qspiUp (found (demo id)) = false ∧ writesWait (found s) = false ∧ readsWait (found s) = false ∧
    anySwitching (found s) (Reg.HST_CMD_DESC 2) 1 = false ∧
    (let w := { s with die := { s.die with trk := { s.die.trk with held := [.spi 0 1] } } }
     qspiUp (found w) = true ∧ writesWait (found w) = true ∧ readsWait (found w) = true) ∧
    (let w := { s with die := { s.die with boot := { s.die.boot with loaded := false } } }
     w.die.tb.gt < 500000 ∧ w.die.boot.loaded = false) := by decide +kernel

/-- The premises of `takes` as a Bool. -/
def tk (s : State) (op : Nat) (ws : List Nat) : Bool :=
  let ws := descOf op 5 ws
  hostTakes (found s) && judgeCmd (mailed s ws) (descWords (mailed s ws)) == 0

/-- The demo part speaking host version 0x13 (R343). -/
def mail (f : Die → Die) : State := demo fun d => f (setFld d Reg.HST_VER_SEL_VER 0x13)

/-- Segment 1 has one node, ADMITTED, and may run as two lines. -/
def segOne (d : Die) : Die :=
  setFld (setFld (setFlag (setFlag d (Reg.LSH_SCFG_DECL 1)) (Reg.LSH_RCFG_REDUND 1)) (Reg.LSH_SCFG_NNODE 1) 1)
    (Reg.LSH_NODE_STAT_STATE 1 0) 2

/-- Axis 1 is Enabled in mode HOST; group 2 has step generator 4. -/
def movable (d : Die) : Die :=
  let d := setFld (axIn 2 d) (Reg.AX_LS_CTL_MODE 1) 2
  let d := setFld (setFlag (setFlag d (Reg.STP_CFG_DECL 4)) (Reg.STP_CFG_GRPMEM 4)) (Reg.STP_CFG_GROUP 4) 2
  setFld (putReg d (Reg.STP_GRP_MEM 2) 16) (Reg.STP_MODE_MODE 4) 2

theorem witness_MotionAndNetworkCommands :
    let s := mail fun d => movable (segOne d)
    nextTicket s ≠ 0 ∧ tk s 0x01 [3] = true ∧ queueFree s 3 ∧ tk s 0x10 [1] = true ∧ tk s 0x11 [] = true ∧
    tk s 0x12 [2, 400] = true ∧ tk s 0x12 [2, 0] = true ∧ tk s 0x13 [4] = true ∧
    tk (mail fun d => { d with knl := (knl fun k => { k with descs := [(7, BitVec.ofNat 128 (2 ^ 31 + 5 * 2 ^ 26))] }).die.knl })
      0x50 [7, 9] = true ∧
    tk s 0x30 [1 + 65536 * 0x100, 0x01020304] = true ∧ nodeState s.die 1 0 = 2 ∧
    (let t := mail fun d => updSeg (setFld (segOne d) (Reg.LSH_PATH_STATE 1) 3) 1 fun g => { g with wholeRun := 16 }
     tk t 0x31 [1] = true ∧ 16 ≤ (segH t.die 1).wholeRun) ∧
    (let t := mail fun d => setFld (segOne d) (Reg.LSH_PATH_STATE 1) 3
     tk t 0x31 [1] = true ∧ (segH t.die 1).wholeRun < 16) ∧
    tk s 0x32 [1] = true ∧ (∀ q ∈ (nodeH s.die 1 0).queue, q.ticket ≠ 1) ∧ tk s 0x33 [0] = true ∧ ctState s.die = 0 ∧
    (let t := mail fun d => setFlag (setFld d Reg.CTR_STAT_STATE 4) Reg.CTR_STAT_MASTER
     tk t 0x33 [1] = true ∧ tk t 0x33 [0] = true ∧ ctState t.die ≠ 0) ∧
    tk s 0x34 [] = true ∧ flag s.die Reg.CTR_CFG_DECL = false := by
  unfold queueFree; decide +kernel

theorem witness_SerialCommands :
    let s := mail segOne
    let open_ := mail fun d => { setFlag d Reg.GLB_BOOT_STAT_SESSION with boot := { d.boot with len := 100 } }
    nextTicket s ≠ 0 ∧ queueFree s 1 ∧ queueFree open_ 1 ∧ queueFree s 3 ∧ (∀ c ∈ s.die.host.cmds, c.ticket ≠ 1) ∧
    tk s 0x20 [64, 5] = true ∧ flag s.die Reg.PWR_STAT_VWARN = false ∧
    tk (mail fun d => setFlag d Reg.PWR_STAT_VWARN) 0x20 [0x1FF000, 5] = true ∧
    tk open_ 0x21 [96, 7] = true ∧ tk open_ 0x22 [] = true ∧ tk open_ 0x23 [] = true ∧ tk s 0x40 [1] = true ∧
    tk s 0x41 [1] = true ∧
    (let t := mail fun d => { setFlag d Reg.LOG_DBG_ARMED with boot := { d.boot with armCode := 9 } }
     tk t 0x42 [1, 9] = true) ∧
    (let t := strapped 0x4000 fun d => { setFld d Reg.HST_VER_SEL_VER 0x13 with boot := boot0 }
     hostDownload t.die = true ∧ tk t 0x20 [64, 5] = true) := by
  unfold queueFree; decide +kernel

/-- A command of queue 1 that waits, and one that is done. -/
def waiting : Cmd :=
  { ticket := 1, op := 0x20, user := 5, q := 1, words := [0, 64, 5], started := false, done := false, status := 0, r0 := 0, r1 := 0 }

theorem witness_MailboxEvents :
    let s (c : Cmd) (f : Die → Die) := demo fun d => f { d with host := { d.host with cmds := [c] } }
    let c := { waiting with done := true, started := true }
    let ring := s c fun d => { setFlag d Reg.HST_CRING_CTL_EN with host := { d.host with bme := true } }
    (∀ x ∈ (s waiting id).die.host.cmds, x.op ≠ 1) ∧
    ((s waiting id).die.host.cmds.find? (fun x => x.q == 1 && !x.done) = some waiting) ∧
    cmplReady (s c id).die = some c ∧ isMember (s c id).die = false ∧ flag (s c id).die Reg.HST_CRING_CTL_EN = false ∧
    (s c id).die.host.fifo.length < 256 ∧ cmplReady ring.die = some c ∧ ringRoom ring.die = true ∧
    fld ring.die Reg.HST_CRING_SIZE_SIZE ≠ 0 ∧ (s waiting id).die.host.cmds = [waiting] ∧
    (demo fun d => { d with host := { d.host with holdEnd := some 7, holdPend := true, perst := true } }).die.host.holdPend = true ∧
    pcieOn (demo fun d => { d with host := { d.host with bme := true } }).die = true ∧
    (let m := s c fun d => { putReg (putReg d Reg.HST_IRQ_STAT 1) Reg.HST_IRQ_EN 1 with
       host := { d.host with bme := true, msiEn := true, holdEnd := some 7, holdPend := true } }
     m.die.host.holdEnd = some 7 ∧ cmplCan m.die = true ∧ m.die.host.msixEn = false ∧ irqPend m.die = 1) ∧
    (demo fun d => { d with boot := { d.boot with burnTicket := 1, armUntil := some 9 } }).die.boot.burnTicket ≠ 0 := by
  decide +kernel
/-! ### Master, capture, step generators -/

/-- 06_capture: worked example codes 400, 390, 200, 40 ... are 12-bit codes; 5 V at gain 1 is code 2,048, 10 V clamps. -/
theorem test_adc_code : adcCode 0 5000000 = 2048 ∧ adcCode 0 10000000 = 4095 ∧ adcCode 3 1250000 = 4095 := by decide +kernel

theorem witness_MasterAndGearUnit :
    let s := beat 0 fun d => axIn 2 d
    powered s.die 78 = true ∧ (pulseH s.die 1).ab = 0 ∧ 4 * fld s.die (Reg.MST_MP_CFG_FILT 1) ≤ 1024 ∧
    3 < 4 * fld (setFld s.die (Reg.MST_MP_CFG_FILT 1) 1) (Reg.MST_MP_CFG_FILT 1) ∧ running s.die = true ∧ s.die.mst.ran ≠ some s.die.tb.k ∧
    s.die.tb.phase < 2 ∧
    (let l := beat 0 fun d => { setFld d Reg.MST_CFG_MHOLD 2 with mst := { d.mst with lateRun := 2 } }
     flag l.die Reg.MST_STAT_LOST = false ∧ 1 ≤ l.die.mst.lateRun ∧ fld l.die Reg.MST_CFG_MHOLD ≤ l.die.mst.lateRun) ∧
    (let l := beat 0 fun d => { setFlag (setFlag d Reg.MST_STAT_LOST) Reg.MST_STAT_ACKPEND with
       mst := { d.mst with ran := some 3, ackEdge := some 3, inTime := true } }
     l.die.mst.ran = some 3 ∧ l.die.mst.ackEdge = some 3 ∧ flag l.die Reg.MST_STAT_LOST = true ∧
       flag l.die Reg.MST_STAT_ACKPEND = true ∧ l.die.mst.inTime = true ∧ (requiredSample l.die 3).isSome = true) ∧
    let e := setFlag s.die (Reg.AX_LS_STAT_ENGAGING 1)
    flag e (Reg.AX_LS_STAT_ENGAGING 1) = true ∧ effN e (Reg.AX_LS_ENGMAX 1) ≤ (gearH e 1).runs := by decide +kernel

/-- Channel 3 is ARMED with a free slot, triggered as these fields say. -/
def armed (src sel : Nat) (f : Chan → Chan) (d : Die) : Die :=
  let d := putReg (setFld (setFld d (Reg.CAP_CH_SRC_TSRC 3) src) (Reg.CAP_CH_SRC_TSEL 3) sel) (Reg.CAP_CH_NSLOT 3) 2
  updChan (setFld (setFlag (setFld d (Reg.CAP_CH_SRC_EDGE 3) 1) (Reg.CAP_CH_SRC_DECL 3)) (Reg.CAP_CH_STAT_STATE 3) 1) 3 f

theorem witness_CaptureTriggers :
    let ready (s : State) (it : Nat) : Bool :=
      decide (chState s.die 3 = 1) && !inHoldoff s.die 3 it && gateOk s.die 3 && slotFree s.die 3
    let t := demo (armed 2 5 id)
    chState (setFld t.die (Reg.CAP_CH_STAT_STATE 3) 2) 3 = 2 ∧ chState t.die 3 = 1 ∧
    slotFree (putReg t.die (Reg.CAP_CH_NSLOT 3) 0) 3 = false ∧ gateOk (putReg t.die (Reg.CAP_CH_NSLOT 3) 0) 3 = true ∧
    gateOk (putReg (setFlag t.die (Reg.CAP_CH_REF_GATE_EN 3)) (Reg.CAP_CH_GLO 3) 5) 3 = false ∧
    powered t.die 67 = true ∧ bitOf t.die.cap.trg 5 = false ∧ fld t.die (Reg.CAP_CH_SRC_TSRC 3) = 2 ∧ fld t.die (Reg.CAP_CH_SRC_TSEL 3) = 5 ∧
    bitOf (fld t.die (Reg.CAP_CH_SRC_EDGE 3)) 0 = true ∧ ready t 100 = true ∧
    (let x := demo (armed 3 2 id)
     fld x.die (Reg.CAP_CH_SRC_TSRC 3) = 3 ∧ fld x.die (Reg.CAP_CH_SRC_TSEL 3) = 2 ∧ xtCounts x.die 2 4999 = false ∧
       ready x 100 = true) ∧
    (let y := demo fun d =>
       let d := armed 2 5 id (setFld (setFlag d (Reg.CAP_CH_SRC_XTOUT 3)) (Reg.CAP_CH_SRC_XTOSEL 3) 2)
       let d := putReg (setFld (setFld d (Reg.CAP_CH_SRC_TSRC 4) 3) (Reg.CAP_CH_SRC_TSEL 4) 2) (Reg.CAP_CH_NSLOT 4) 2
       setFld (setFlag d (Reg.CAP_CH_SRC_DECL 4)) (Reg.CAP_CH_STAT_STATE 4) 1
     flag y.die (Reg.CAP_CH_SRC_XTOUT 3) = true ∧ fld y.die (Reg.CAP_CH_SRC_XTOSEL 3) = 2 ∧ xtCounts y.die 2 4999 = false ∧ y.die.tb.gt < 5099 ∧
       fld y.die (Reg.CAP_CH_SRC_TSRC 4) = 3 ∧ fld y.die (Reg.CAP_CH_SRC_TSEL 4) = 2 ∧ ready y 100 = true ∧
       chState y.die 4 = 1 ∧ inHoldoff y.die 4 100 = false ∧ gateOk y.die 4 = true ∧ slotFree y.die 4 = true) ∧
    ok t Reg.CAP_SWTRIG 8 = true ∧ bitOf 8 3 = true ∧ t.die.tb.gt ≤ 5000 ∧ cdiv 5000 50 = 100 ∧ cdiv (pinStamp 4999) 50 = 100 ∧
    (let m := demo (armed 0 0 fun h => { h with cross := some 100 })
     (chanH m.die 3).cross = some 100 ∧ ready m 100 = true) := by decide +kernel

theorem witness_CaptureTriggers_slots :
    let t := demo fun d => putReg (setFlag (armed 2 5 id d) (Reg.CAP_CH_SRC_TTOUT 3)) (Reg.CAP_CH_NSLOT 3) 0
    chState t.die 3 = 1 ∧ inHoldoff t.die 3 100 = false ∧ gateOk t.die 3 = true ∧ slotFree t.die 3 = false ∧
    flag t.die (Reg.CAP_CH_SRC_XTOUT 3) = false ∧ flag t.die (Reg.CAP_CH_SRC_TTOUT 3) = true ∧
    t.die.cap.ttQueue.length < 16 := by decide +kernel

theorem witness_CaptureWindowsAndRecords :
    let a : Acq :=
      { seq := 0, tTrig := 5000, i0 := 98, want := 2, samples := [7, 8], afterOvf := false, due := 100, dueBeat := 2,
        nextI := 100, beats := 0, first := true }
    let t := demo (armed 2 5 id)
    powered t.die 67 = true ∧ powered t.die 61 = true ∧
    (let f := putReg t.die (Reg.CAP_MK_STAT 2) 0x22
     vget false (markH f 2).test 1 = false ∧ bitOf (getReg f (Reg.CAP_MK_STAT 2)).toNat 1 = true ∧
       bitOf (getReg f (Reg.CAP_MK_STAT 2)).toNat 5 = true) ∧
    (demo fun d => { d with cap := { d.cap with ripDue := true } }).die.cap.ripDue = true ∧
    vget none (demo fun d => { d with cap := { d.cap with xtPull := vset d.cap.xtPull 2 (some 9) } }).die.cap.xtPull 2 = some 9 ∧
    (let u := demo fun d => setFld (armed 2 5 id d) (Reg.CAP_CH_STAT_STATE 3) 3
     ok u (Reg.CAP_CH_CTL 3) 5 = true ∧ flag u.die (Reg.CAP_CH_SRC_DECL 3) = true ∧ chState u.die 3 = 3) ∧
    (ok (demo id) (Reg.CAP_CH_CTL 3) 1 = true ∧ flag (demo id).die (Reg.CAP_CH_SRC_DECL 3) = false) ∧
    ok t (Reg.CAP_CH_CTL 3) 2 = true ∧
    (let w := demo fun d => setFld (armed 2 5 (fun h => { h with acq := some a }) d) (Reg.CAP_CH_STAT_STATE 3) 2
     (chanH w.die 3).acq = some a ∧ chState w.die 3 = 2 ∧ a.want ≤ a.samples.length) ∧
    let p := beat 0 (armed 2 5 fun h => { h with pend := [a] })
    (chanH p.die 3).pend = [a] ∧ running p.die = true ∧ a.dueBeat < p.die.tb.k := by decide +kernel

theorem witness_StepEvents :
    let s (f : StepCh → StepCh) := demo fun d => updStp (setFld (setFlag d (Reg.STP_CFG_DECL 4)) (Reg.STP_MODE_MODE 4) 1) 4 f
    (stpH (s fun h => { h with carryDue := true }).die 4).carryDue = true ∧
    (stpH (s fun h => { h with step := true }).die 4).step = true ∧ (stpH (s id).die 4).high = 0 ∧
    (let h := stpH (s fun h => { h with rev := .low }).die 4
     h.rev = .low ∧ h.step = false ∧ h.rise = none ∧ h.carryDue = false ∧ 10 ≤ h.lowFor) ∧
    (stpH (s fun h => { h with rev := .setup 0 }).die 4).rev = .setup 0 ∧
    stpOn (s id).die 4 = true ∧ flag (s id).die (Reg.STP_CFG_DECL 4) = true ∧ fld (s id).die (Reg.STP_MODE_MODE 4) = 1 ∧
    (let q := demo fun d => updStp (setFld (setFlag d (Reg.STP_CFG_DECL 4)) (Reg.STP_MODE_MODE 4) 3) 4
       fun h => { h with hmState := 1 }
     fld q.die (Reg.STP_MODE_MODE 4) = 3 ∧ (stpH q.die 4).hmState = 1 ∧
       (stpH q.die 4).hmSteps ≤ effN q.die (Reg.STP_HMTRAVEL 4) ∧ (true != flag q.die (Reg.STP_CFG_HMPOL 4)) = true) ∧
    (∀ g, g < 8 → (grpH (s id).die g).carryDue = false) ∧ (stpH (s id).die 4).velDue = false ∧
    (stpH (s id).die 4).rev = .none ∧ (stpH (s fun h => { h with rise := some 1 }).die 4).rise = some 1 ∧
    (grpH (demo fun d => updGrp d 2 fun g => { g with carryDue := true, n := 4 }).die 2).carryDue = true := by
  decide +kernel

/-! ### Leash segments and paths -/

/-- Segment 1 runs with node 0 of one L1 axis (axis 1) in slot 0; beat 3 waits for its frames. -/
def seg1 (f : Die → Die) : State := beat 0 fun d =>
  let d := setFld (setFld (setFlag (segOne (axIn 1 d)) (Reg.LSH_PSTAT_RXSYNC 3)) (Reg.LSH_SCFG_NSLOT 1) 1) (Reg.AX_CFG_SEG 1) 1
  let d := putReg (setFlag (setFlag d (Reg.LSH_PSTAT_RXSYNC 2)) (Reg.LSH_SSTAT_RUN 1)) (Reg.LSH_SLOTMAP 1 0) 0x81
  f (putReg d Reg.BEAT_NUM 3)

/-- A header of segment 1 for beat 3 of this type, with its CRC (R208). -/
def hdrOf (typ : Nat) (mid : List Byte) : List Byte :=
  let h := leBytes 1 typ ++ [0] ++ leBytes 1 1 ++ [0] ++ leBytes 4 3 ++ mid
  let h := h ++ List.replicate (38 - h.length) 0
  h ++ leBytes 2 (crc1021 h)

/-- An L1 in-slot with its CRC (R209). -/
def inSlotOf (bn : Nat) : List Byte :=
  let b : List Byte := [0, 0x80, 1, 0, 0, 0, 0]
  b ++ leBytes 1 (slotCrc false bn 0 b)

theorem witness_InSlotFeedback :
    let d := (seg1 id).die
    let e := slotWord d 1 0
    receives d 3 = true ∧ 0 < fld d (Reg.LSH_SCFG_NSLOT 1) ∧ bitOf e 7 = true ∧ hdrGood d 1 1 (hdrOf 1 []) = true ∧
    bitOf e 8 = false ∧
    leAt (padTo (slotLen e) (inSlotOf 3)) 7 1 = slotCrc false (beatNum d) 0 ((padTo (slotLen e) (inSlotOf 3)).take 7) ∧
    nodeState d 1 (fld d (Reg.AX_CFG_NODE (e % 128))) = 2 ∧
    plausible d (e % 128) (leAt (padTo (slotLen e) (inSlotOf 3)) 1 4) = true ∧
    (segH d 1).rxHead.slots.contains 0 = false ∧ (segH d 1).rxTail.slots.contains 0 = false ∧ d.tb.phase = 0 ∧ d.axLog = [] ∧
    0 < fld d Reg.BEAT_IDL_VALUE ∧ fld d Reg.BEAT_IDL_VALUE < fld d Reg.BEAT_FCL_VALUE ∧
    hdrGood d 1 1 (hdrOf 2 []) = false ∧
    leAt (inSlotOf 4) 7 1 ≠ slotCrc false (beatNum d) 0 ((inSlotOf 4).take 7) := by decide +kernel

theorem witness_LeashFrames :
    let d := (seg1 id).die
    receives d 3 = true ∧ running d = true ∧ d.tb.phase < 3 ∧ segOn d 1 = true ∧ (segH d 1).acycDone = false ∧
    (segH d 1).rollSent = false ∧ twoLine d 1 = false ∧
    556 ≤ acycRoom d (max ((segH d 1).sendEnd + 96) (d.tb.gt - edgeGt (hz d) d.tb.k)) (tFit d 1) ∧
    powered d 45 = true ∧ flag d (Reg.LSH_PSTAT_RXSYNC 3) = true ∧
    fld d (Reg.LSH_PCFG_PHY 3) ≠ 1 ∧
    (let e := setFld d (Reg.LSH_PCFG_PHY 3) 1
     fld e (Reg.LSH_PCFG_PHY 3) = 1 ∧ (portLink e 3).gig = false) ∧
    (let e := updSeg d 1 fun g => { g with lnkTail := ⟨true, true⟩ }
     (portLink e 3).gig = true ∧ (portLink e 3).sync = true) := by decide +kernel

theorem witness_NodeAdmissionAndMailbox :
    let d := (seg1 id).die
    let body : List Byte := leBytes 1 1 ++ List.replicate 511 0
    receives d 3 = true ∧ hdrGood d 1 2 (hdrOf 2 []) = true ∧ leAt (rollEntry body 0) 0 1 ≠ 0 ∧ 0 < nNode d 1 ∧
    (let a := setFld d (Reg.LSH_NODE_STAT_STATE 1 0) 0
     nodeState a 1 0 = 0 ∧ flag a (Reg.LSH_SSTAT_TOPO 1) = false ∧
       rollReason (nodeH (updNode a 1 0 fun n => { n with vendor := 5 }) 1 0) (rollEntry body 0) ≠ 0) ∧
    (let a := updNode (setFld d (Reg.LSH_NODE_STAT_STATE 1 0) 1) 1 0 fun n => { n with acked := true, effBeat := 3 }
     nodeState a 1 0 = 1 ∧ (nodeH a 1 0).acked = true ∧ (nodeH a 1 0).effBeat ≤ a.tb.k) ∧
    (let a := updNode (setFld d (Reg.LSH_NODE_STAT_STATE 1 0) 1) 1 0 fun n => { n with effBeat := 3 }
     nodeState a 1 0 = 1 ∧ (nodeH a 1 0).acked = false ∧ (nodeH a 1 0).effBeat ≤ a.tb.k) ∧
    lossDue (updNode d 1 0 fun n => { n with quiet := 9, rollMiss := 2 }) 1 0 = true ∧
    (let q : MbxReq := { tag := 7, code := 0x100, data := [], ticket := 1, sent := some 3, last := none }
     let a := updNode d 1 0 fun n => { n with queue := [q] }
     let h := hdrOf 3 ([0, 0, 0, 0, 0, 0, 0, 0] ++ List.replicate 5 0 ++ leBytes 1 0 ++ leBytes 2 0 ++ leBytes 2 16)
     let area := leBytes 2 6 ++ leBytes 2 7 ++ leBytes 2 1 ++ List.replicate 10 9
     (nodeH a 1 0).queue = [q] ∧ 3 + 16 * effFld a (Reg.LSH_SCHED_MBXTO 1) ≤ a.tb.k ∧ q.ticket ≠ 0 ∧
       bitOf (leAt h 3 1) 3 = false ∧ hdrGood a 1 3 h = true ∧ leAt h 21 1 = 0 ∧
       slice area (leAt h 22 2) (leAt h 24 2) = area ∧ 4 ≤ leAt area 0 2 ∧ leAt area 0 2 + 2 ≤ area.length ∧
       leAt area 2 2 = q.tag) := by decide +kernel

theorem witness_PathStateEvents :
    let d := (seg1 id).die
    (let w := updSeg d 1 fun g => { g with snap := ⟨[1, 2], snapCrc [1, 2]⟩ }
     (segH w 1).snap.crc = snapCrc (segH w 1).snap.words ∧
       let x := updSeg d 1 fun g => { g with snap := ⟨[1, 2], snapCrc [1, 2] + 1⟩ }
       (segH x 1).snap.crc ≠ snapCrc (segH x 1).snap.words) ∧
    pathState (setFld d (Reg.LSH_PATH_STATE 1) 2) 1 = 2 ∧ running d = true ∧ d.tb.phase = 0 ∧
    (segH d 1).failBeat + 3 ≤ d.tb.k ∧
    (let s := beat 3 fun d => updSeg (setFld { d with tb := { d.tb with k := 20 } } (Reg.LSH_PATH_STATE 1) 4) 1
       fun g => { g with retBeat := some 5 }
     (segH s.die 1).retBeat = some 5 ∧ pathState s.die 1 = 4 ∧ 5 + 15 ≤ s.die.tb.k ∧ s.die.tb.phase = 3) ∧
    ∀ p ∈ [1, 4], let late (d : Die) : Die := { d with tb := { d.tb with k := 2000 } }
      let s := beat 3 fun d => updSeg (setFld (late d) (Reg.LSH_PATH_STATE 1) 5) 1 fun g => { g with proof := p }
      pathState s.die 1 = 5 ∧ (segH s.die 1).proof = p ∧
        (segH s.die 1).proofBeat + 3 + judgedBeats p ≤ s.die.tb.k ∧ s.die.tb.phase = 3 := by decide +kernel
/-! ### Courier trunk and cluster -/

/-- GT of the edge of beat 16, in units of 2^-8 ns. -/
def at16 : Nat := 256 * 4000000

/-- A single-block frame of source 2 in slot 6 with these first payload bytes and its CRC-32, at port 1 of a part at the edge of
beat 16. -/
def frameOf (bs : List Byte) : TrunkFrame :=
  let p := bs ++ List.replicate (52 - bs.length) 0
  frameIn 1 at16 6 (p ++ leBytes 4 (crc32 p))

/-- The same with a bad CRC-32. -/
def badFrame : TrunkFrame := frameIn 1 at16 6 (List.replicate 56 0)

/-- A part with these straps in trunk state `st`; slot 6 is one block of this kind and owner; port 1 is in lock. -/
def trk (straps : BitVec 16) (st kind owner : Nat) (f : Die → Die) : State := beat 0 fun d =>
  let d := setFld (setFld { d with straps := straps, tb := { d.tb with k := 16, gt := 4000000 } } Reg.CTR_STAT_STATE st) (Reg.CTR_SLOT_W1_KIND 6) kind
  let d := setFlag (setFlag (setFlag d (Reg.CTR_P_STAT_LOCK 1)) (Reg.CTR_P_CFG_USED 1)) (Reg.CTR_P_CFG_USED 2)
  f (setFld (setFld (setFlag d (Reg.CTR_NODE_SCHED 2)) (Reg.CTR_SLOT_W1_LEN 6) 1) (Reg.CTR_SLOT_W1_OWNER 6) owner)

/-- The premises of `arrives` as a Bool. -/
def comes (s : State) (f : TrunkFrame) : Bool :=
  portCarries s.die f.port.val && (tportH s.die f.port.val).seen.map (·.1) != some f.rx &&
  decide ((tportH s.die f.port.val).fails < 3) && (bounds f.line).all (·.2 == .good) && f.begins && windowPass s.die f

theorem arrives_of_comes {s : State} {f : TrunkFrame} (h : comes s f = true) : arrives s f := by
  simpa [comes, arrives, and_assoc] using h

/-- The premises of `arrivesSound` as a Bool. -/
def comesSound (s : State) (f : TrunkFrame) (kind sender : Nat) : Bool :=
  comes s f && frameSound s.die f && slKind s.die f.slot.val == kind && f.src.val == sender && leAt f.payload 0 1 / 16 == 1

theorem arrivesSound_of_comes {s : State} {f : TrunkFrame} {k n : Nat} (h : comesSound s f k n = true) : arrivesSound s f k n := by
  simp only [comesSound, Bool.and_eq_true, beq_iff_eq] at h
  exact ⟨arrives_of_comes h.1.1.1.1, h.1.1.1.2, h.1.1.2, h.1.2, h.2⟩

theorem witness_TrunkPortsAndFrames :
    let s := trk 0 3 2 2 id
    let d := s.die
    let lost : LineBits := ⟨58 + 3 * 512, 0⟩
    let idle (t1 : Nat) : List Byte :=
      let b : List Byte := leBytes 4 0 ++ leBytes 8 5 ++ leBytes 8 t1 ++ List.replicate 32 0
      b ++ leBytes 4 (crc32 b)
    let line (t1 : Nat) : LineBits := lineOfBlocks [idleOf 2 0 (idle t1)]
    (ctOn d 0 = true ∧ flag d (Reg.CTR_P_STAT_LOCK 0) = false) ∧
    (ctLocked d 1 = true ∧ (tportH d 1).fails = 0 ∧ ((bounds lost).take 3).length = 3 ∧
      ((bounds lost).take 3).all (·.2 != .good) = true ∧ (bounds (sized 112).line).all (·.2 == .good) = true) ∧
    (∀ t1 ∈ [0, 9], bounds (line t1) = [(58, .good)] ∧ headerAt (line t1) 58 % 8 = 0 ∧ areaAt (line t1) 58 = idle t1 ∧
      leAt (idle t1) 52 4 = crc32 ((idle t1).take 52) ∧ leAt (idle t1) 12 8 = t1) ∧
    (comes s (frameOf []) = true ∧ ctOn d 2 = true ∧ flag d (Reg.CTR_P_CFG_USED 2) = true ∧ flag d (Reg.CTR_P_CFG_OPEN 2) = false ∧
      (tportH d 2).busyUntil + blockTime ≤ 5 * (at16 + 320 * 256)) ∧
    (let r := trk 0 4 2 2 id
     windowPass r.die { frameOf [] with rx := 0 } = false ∧ framePass r.die { frameOf [] with rx := 0 } = false) ∧
    (comes s badFrame = true ∧ frameSound d badFrame = false) ∧
    (let s := trk 0 3 2 2 fun d => setFld (setFld d Reg.MST_CFG_SRC 6) Reg.MST_CFG_SRCID 2
     comesSound s (frameOf [0x10]) 2 (slOwner s.die 6) = true ∧ fld s.die Reg.MST_CFG_SRC = 6 ∧
       fld s.die Reg.MST_CFG_SRCID = 2 ∧ s.die.mst.samples = []) ∧
    let f := frameOf ([0x10, 1, 0, 0, 3] ++ leBytes 8 6000)
    let s := trk 0 3 3 2 (armed 4 3 id)
    comesSound s f 3 (slOwner s.die 6) = true ∧ leAt f.payload 1 1 = 1 ∧
    fld s.die (Reg.CAP_CH_SRC_TSRC 3) = 4 ∧ fld s.die (Reg.CAP_CH_SRC_TSEL 3) = leAt f.payload 4 1 % 8 ∧
    oldestSample s.die (fld s.die (Reg.CAP_CH_SRC_MKSEL 3)) ≤
      (cdiv (leAt f.payload 5 8) 50 : Nat) - (winPre s.die 3 : Int) ∧
    chState s.die 3 = 1 ∧ inHoldoff s.die 3 120 = false ∧ gateOk s.die 3 = true ∧ slotFree s.die 3 = true := by decide +kernel

/-- A Postmark of part 2 for beat 16. -/
def postmark : TrunkFrame := frameOf (leBytes 4 0x10 ++ leBytes 4 16 ++ leBytes 8 4000000 ++ leBytes 4 0x77)

theorem witness_TrunkStatesAndSends :
    let sees (st : Nat) : State := trk 0 st 0 2 fun d => setFlag (putReg d Reg.CTR_HASH 0x77) (Reg.CTR_NODE_RANKED 2)
    let pm := postmark
    (∀ st ∈ [1, 4], let s := sees st
      let d := s.die
      comes s pm = true ∧ pm.good = true ∧ pm.payload.length = 56 ∧ leAt pm.payload 52 4 = crc32 (pm.payload.take 52) ∧
      leAt pm.payload 0 1 / 16 = 1 ∧ leAt pm.payload 16 4 = (getReg d Reg.CTR_HASH).toNat ∧ slKind d 6 = 0 ∧ slLen d 6 = 1 ∧
      flag d (Reg.CTR_NODE_RANKED 2) = true ∧ leAt pm.payload 4 4 % nCyc d = 0 ∧
      leAt pm.payload 4 4 = beatAt (hz d) (leAt pm.payload 8 8 - slStart d 6) % 2 ^ 32 ∧ ctState d = st ∧
      d.trk.stopDue = false ∧ flag d Reg.CTR_STAT_MASTER = false ∧
      256 * (leAt pm.payload 8 8 + fld d (Reg.CTR_NODE_PD 2)) = pm.rx ∧ d.trk.rate = 0) ∧
    comes (sees 1) badFrame = true ∧ leAt badFrame.payload 52 4 ≠ crc32 (badFrame.payload.take 52) ∧
    (∀ got ∈ [true, false], let s := trk 0 4 0 2 fun d => { d with trk := { d.trk with cycleGot := got } }
     running s.die = true ∧ s.die.tb.phase = 0 ∧ s.die.tb.k % nCyc s.die = 0 ∧ ctState s.die = 4 ∧
       s.die.trk.stopDue = false ∧ s.die.trk.stopNext = false ∧ s.die.trk.stopIn = none ∧ s.die.trk.cycleGot = got ∧
       flag s.die Reg.CTR_STAT_MASTER = false ∧ s.die.trk.missed < 11 ∧ flag s.die Reg.CTR_STAT_ELIG = false) ∧
    (let s := trk 0 1 0 2 fun d => setFld (setFlag d (Reg.CTR_NODE_RANKED 0)) Reg.CTR_STAT_LISTENT 16
     flag s.die (Reg.CTR_NODE_RANKED (nodeId s.die)) = true ∧
       16 + 4 * fld s.die (Reg.CTR_NODE_RANK (nodeId s.die)) ≤ fld s.die Reg.CTR_STAT_LISTENT) ∧
    (let s := trk 0 4 0 2 fun d => { setFlag d Reg.CTR_STAT_ELIG with trk := { d.trk with missed := 12, startTicket := 1, startCycles := 1000, stopDue := true } }
     flag s.die Reg.CTR_STAT_ELIG = true ∧ flag s.die Reg.CTR_STAT_MASTER = false ∧ 3 * backupPos s.die ≤ s.die.trk.missed ∧
       12 ≤ s.die.trk.missed ∧ s.die.trk.stopDue = true ∧ ctState s.die ≠ 0) ∧
    let s := trk 0 3 0 2 fun d => { d with trk := { d.trk with startTicket := 1, startCycles := 1000, missed := 12 } }
    s.die.trk.startTicket ≠ 0 ∧ 1000 ≤ s.die.trk.startCycles ∧ 1 ≤ ctState s.die ∧ ctState s.die ≤ 3 := by decide +kernel

theorem witness_TrunkStatesAndSends_sends :
    (∀ kind ∈ [1, 2, 3], let s := trk 0 4 kind 0 fun d => { setFlag d Reg.MST_CFG_SEND with
        trk := { d.trk with ownOn := true }, mst := { d.mst with samples := [⟨16, 5, 0, 0, 0⟩] } }
      ownSlots s.die = true ∧ slLen s.die 6 = 1 ∧ slOwner s.die 6 = nodeId s.die ∧ slKind s.die 6 = kind ∧
        flag s.die Reg.MST_CFG_SEND = true ∧ fld s.die Reg.MST_CFG_SRC ≠ 6 ∧
        (s.die.mst.samples.find? (·.s == s.die.tb.k)).isSome = true) ∧
    (let s := trk 4 4 4 0 fun d => { d with trk := { d.trk with ownOn := true } }
     ownSlots s.die = true ∧ slKind s.die 6 = 4 ∧ isLead s.die = true) ∧
    (let s := trk 0x2C 4 5 0 fun d =>
       let d := setFld (setFld (setFld d (Reg.CTR_SLOT_W0_START 6) 9000) (Reg.CTR_SLOT_W1_KIND 5) 4) (Reg.CTR_SLOT_W1_LEN 5) 5
       { d with trk := { d.trk with ownOn := true, hreqNode := 2, hreqAt := slotGt d (cycleFirst d) 5 } }
     isMember s.die = true ∧ ownSlots s.die = true ∧ slKind s.die 6 = 5 ∧ namedIn s.die 6 = true) ∧
    (let s := trk 0 4 0 0 fun d => setFlag d Reg.CTR_STAT_MASTER
     pmSlot s.die = some 6 ∧ slLen s.die 6 = 1 ∧ running s.die = true ∧ slewing s.die = false ∧ ctState s.die = 4 ∧
       flag s.die Reg.CTR_STAT_MASTER = true) ∧
    let s := trk 0 2 0 0 fun d => { d with trk := { d.trk with csSent := 3 } }
    pmSlot s.die = some 6 ∧ ctState s.die = 2 ∧ s.die.trk.csSent = 3 ∧ slewing s.die = false := by decide +kernel

theorem witness_ClusterTransactions :
    let s (f : Die → Die) := trk 4 4 1 2 fun d => { f d with trk := { (f d).trk with members := [(2, { member0 with quiet := 4 })] } }
    let lost := trk 4 4 1 2 fun d => { d with trk := { d.trk with members := [(2, { member0 with lost := true })] } }
    let full := trk 4 4 1 2 fun d => { d with trk := { d.trk with
      members := [(2, { member0 with writes := List.replicate 16 ⟨0, 0, 0, 0, none, false⟩ })] } }
    let reading := trk 4 4 1 2 fun d => { d with trk := { d.trk with read := some (2, 0, 0, 0, 5) } }
    bar2Up (found (s id)) = true ∧ (memberNodes (s id).die).contains 2 = true ∧ (s id).die.trk.held = [] ∧
    creditOut (s id).die = false ∧ (memberH (s id).die 2).lost = false ∧ (memberH lost.die 2).lost = true ∧
    lost.die.trk.dlq.length < 256 ∧ creditOut full.die = true ∧ bar2Up (found full) = true ∧
    (memberNodes (s id).die).contains 3 = false ∧ (s id).die.trk.read = none ∧
    (reading.die.trk.read = some (2, 0, 0, 0, 5) ∧ reading.die.trk.held = [] ∧ bar2Up (found reading) = true) ∧
    isLead (s id).die = true ∧ 4 ≤ (memberH (s id).die 2).quiet ∧
    (s id).die.trk.dlq.length + (memberH (s id).die 2).writes.length ≤ 256 ∧ hostUp (found (s id)) = true ∧
    (isMember (s id).die = false ∧ readsWait (found (s id)) = false) ∧
    (let t := trk 4 3 1 2 id
     comesSound t (frameOf [0x13]) 1 (slOwner t.die 6) = true ∧ t.die.trk.held = []) ∧
    (let t := trk 0x2C 3 4 0 id
     let p : List Byte := 0x10 :: List.replicate 51 0
     let f := { frameOf [] with line := lineOfBlocks (frameBlocks 0 6 (p ++ leBytes 4 (crc32 p))) }
     comesSound t f 4 0 = true ∧ isMember t.die = true ∧ leAt f.payload 4 1 = 0) ∧
    let f := frameOf ([0x10, 2, 0, 0, 0x83, 0, 9, 0] ++ List.replicate 8 0)
    let t := trk 4 3 5 2 fun d => { d with trk := { d.trk with hreqNode := 2, read := some (2, 0, 9, 0, 5) } }
    comesSound t f 5 (hrspOwner t.die f) = true ∧ leAt f.payload 6 2 = 9 ∧ f.src.val = 2 ∧ leAt f.payload 4 1 = 0x83 ∧
      leAt f.payload 16 1 = 0 := by decide +kernel
/-! ### Sheepdog -/

/-- The Sheepdog in RUN with pair 0 of mode 1 on test pulses 0 and 1 and function 0 on output 2. -/
def dogRun : Dog := { dog0 with
  run := true, soA := 4, soB := 4, sectOk := true
  pairs := vset dog0.pairs 0 { pair0 with mode := 1, tpA := some 0, tpB := some 1, disc := 10, armed := true }
  funs := vset dog0.funs 0 { sfun0 with decl := true, trig := 1, soMask := 4, st := 0, manual := true, ss1 := true, tss1 := 40 } }

/-- A quiet observation of the Sheepdog's cycle. -/
def calm : DogObs := { clockRatio := 1000, railsGood := true, soReadA := 0, soReadB := 0, overload := 0, vsoMv := 24000, differ := false }

theorem witness_SafeInputsAndTestPulses :
    let g := { dogRun with mask := vset dog0.mask 0 (some 5), siA := vset dog0.siA 2 ⟨false, true, 15⟩, stuck := vset dog0.stuck 0 2,
                           short := vset dog0.short 1 2 }
    (demoDog g id).die.pwr.up = true ∧ siMasked g 0 = true ∧ siMasked g 2 = false ∧ 15 ≤ (vget ⟨false, false, 0⟩ g.siA 2).run ∧
    (vget ⟨false, false, 0⟩ g.siA 3).run < 15 ∧ tpOf g 0 = some 0 ∧ vget 0 g.stuck 0 = 2 ∧ tpOf g 1 = some 1 ∧
    vget 0 g.short 1 = 2 ∧ vget 0 g.stuck 1 < 2 ∧ vget 0 g.short 0 < 2 ∧
    g.tpPos = framePlace 0 0 ∧ g.tpPos ≠ framePlace 2 0 ∧ g.tpPos ≠ framePlace 3 0 ∧ g.tpPos ≠ framePlace 0 1 ∧
    { g with tpPos := 4 }.tpPos = framePlace (2 * 0 + 1) 1 ∧ { g with tpPos := 5 }.tpPos = framePlace (2 * 0 + 1) 2 := by
  decide +kernel

theorem witness_SheepdogFaultDetection :
    let g := { dogRun with soOffFor := vset dog0.soOffFor 0 41, hbMiss := 1, swdt := vset dog0.swdt 1 2,
                           slots := [{ seg := 1, slot := 0, axis := 1, tnode := 0, quiet := 2, got := false, stoSince := none,
                                       stoJudged := false }] }
    let s := { seg1 id with dog := g }
    s.die.pwr.up = true ∧ bitOf g.so.toNat 2 = true ∧ g.vsoLow = false ∧ bitOf g.so.toNat 0 = false ∧ 40 < vget 0 g.soOffFor 0 ∧
    vget 0 g.soOffFor 1 ≤ 40 ∧ (vget pair0 g.pairs 0).mode ≠ 0 ∧
    4 * (vget pair0 (vset g.pairs 0 { pair0 with mode := 1, disc := 10, discFor := 41 }) 0).disc < 41 ∧
    (vget pair0 g.pairs 0).discFor ≤ 4 * (vget pair0 g.pairs 0).disc ∧ g.hbWindow = false ∧ 1 ≤ g.hbMiss ∧
    dogRun.hbMiss = 0 ∧ dieIsDown s.die = false ∧ halted s.die 17 = false ∧
    halted { s.die with tap := { s.die.tap with halted := 2 ^ 17 } } 17 = true ∧ s.dog.rxSeq ≠ some s.die.dogIo.txSeq ∧
    arriving s 0 = none ∧ (⟨0, [], 0⟩ : LinkMsg) ≠ linkMsg 0 [] ∧
    arriving { s with dogIn := ⟨[some ⟨0, [], 0⟩], []⟩ } 0 = some ⟨0, [], 0⟩ ∧ { dogRun with hbWindow := true }.hbWindow = true ∧
    (∀ x ∈ g.slots, x.seg = 1 ∧ x.slot = 0 ∧ slotAdmitted s.die x = true ∧ vget 0 g.swdt 1 ≠ 0 ∧ vget 0 g.swdt 1 ≤ x.quiet) ∧
    (let f : SFun := { sfun0 with decl := true, st := 1, left := 0, soMask := 4 }
     f.decl = true ∧ f.st = 1 ∧ f.left = 0) ∧ (vget sfun0 g.funs 0).st ≠ 1 := by decide +kernel

/-- Each premise of a newly detected fault, and states of a function and a pair in RUN. -/
theorem witness_SafetyCycleTable :
    let s := demoDog dogRun id
    s.die.pwr.up = true ∧ { calm with differ := true }.differ = true ∧ (0x04, 0) ∉ s.dog.live ∧
    { calm with clockRatio := 919 }.clockRatio < 920 ∧ 1080 < { calm with clockRatio := 1081 }.clockRatio ∧
    { calm with railsGood := false }.railsGood = false ∧
    (let r := demo fun d => { d with inReset := true }
     dieIsDown r.die = true ∧ r.dog.dieDown = false ∧ (0x02, 0) ∉ r.dog.live) ∧
    (∃ x ∈ { dogRun with pend := [(9, 0)] }.pend, x ∉ dogRun.live) ∧
    dogRun.run = true ∧ (demo id).dog.run = false ∧
    (vget sfun0 dogRun.funs 0).decl = true ∧ (vget sfun0 dogRun.funs 0).ss1 = true ∧
    (vget pair0 dogRun.pairs 0).mode = 1 ∧ (vget pair0 dogRun.pairs 1).mode = 0 ∧
    (let p := { pair0 with mode := 3, edmSo := 4, armed := true }
     dogRun.so.toNat &&& p.edmSo ≠ 0 ∧ dog0.so.toNat &&& p.edmSo = 0) ∧ demand dogRun (vget sfun0 dogRun.funs 0) = true ∧
    holds (exec (.safetyCycle { calm with soReadA := 4, soReadB := 4 }) s) (fun t => t.dog.run && (vget sfun0 t.dog.funs 0).st == 1) = true := by decide +kernel

theorem witness_ReleaseOfTheIsland :
    let g := { dog0 with rel := some (true, (0, 0)) }
    let s := demoDog g id
    s.die.pwr.up = true ∧ s.dog.run = false ∧ s.dog.so = 0 ∧ s.dog.rel = some (true, (0, 0)) ∧ s.dog.pend = [] ∧
    dieIsDown s.die = false ∧ s.die.dogIo.resetSeen = false ∧ calm.differ = false ∧ 920 ≤ calm.clockRatio ∧
    calm.clockRatio ≤ 1080 ∧ calm.railsGood = true ∧ calm.soReadA = 0 ∧ calm.soReadB = 0 ∧ calm.overload = 0 ∧
    (∀ i, i < 16 → siOn s.dog i = true ∨ siOff s.dog i = true) ∧ (∀ p, p < 8 → pairBad (pairStep s.dog p) = false) ∧
    (demoDog { dogRun with test := some 160 } id).dog.test = some 160 ∧
    (demoDog { dogRun with pressed := true } id).dog.pressed = true ∧ dogRun.run = true := by decide +kernel

theorem crc_from {a b : List Byte} {x y : Nat} (h : a.foldl crc32Byte 0xFFFFFFFF = x) (g : b.foldl crc32Byte x = y) :
    (a ++ b).foldl crc32Byte 0xFFFFFFFF = y := by rw [List.foldl_append, h, g]

theorem crc_end {a : List Byte} {x : Nat} (h : a.foldl crc32Byte 0xFFFFFFFF = x) : crc32 a = x ^^^ 0xFFFFFFFF := by
  rw [crc32, h]

/-- The pairs of an empty safety section: MODE UNUSED, DISC 10 ms. -/
def noPairs : List Byte := (List.replicate 8 [0, 0, 0, 0, 10, 0, 0, 0]).flatten

/-- Half of its functions: none declared. -/
def noFuns : List Byte := List.replicate 128 0

/-- Its segments, SWDT 2, and no slots. -/
def noSlots : List Byte := (List.replicate 4 [0, 0, 0, 0, 2, 0, 0, 0]).flatten ++ [0, 0, 0, 0]

/-- The CRC-32 of its 356 bytes, in four parts. -/
theorem crc_empty : crc32 (((noPairs ++ noFuns) ++ noFuns) ++ noSlots) = 2827368197 ^^^ 0xFFFFFFFF :=
  crc_end (crc_from (crc_from (crc_from (x := 2358962530) (y := 10276432) (by decide +kernel) (by decide +kernel))
    (y := 2798667242) (by decide +kernel)) (y := 2827368197) (by decide +kernel))

/-- A safety section with nothing declared (R300), its CRC and its validation CRC. -/
def emptySection : List Byte :=
  ((noPairs ++ noFuns) ++ noFuns) ++ noSlots ++ leBytes 4 1467599098 ++ leBytes 4 1467599098

theorem emptySection_layout : secLayoutOk emptySection = true := by
  have h : emptySection.take (emptySection.length - 8) = ((noPairs ++ noFuns) ++ noFuns) ++ noSlots := by decide +kernel
  unfold secLayoutOk
  rw [h, crc_empty]; decide +kernel

/-- What the link makes of the next message (log entry 138): as sent, and another in its place. -/
theorem witness_SafetyLayerExchange_link : arriving (demo id) 0 = none ∧ arriving (demo id) 1 = none ∧
    arriving { demo id with dogIn := ⟨[some ⟨0, [], 0⟩], []⟩ } 0 = some ⟨0, [], 0⟩ := by decide +kernel

theorem witness_SafetyLayerExchange_start : halted (demo id).die 17 = false ∧ State.reset.die.boot.loaded = false ∧
    State.reset.die.tb.gt < 1000000 ∧ State.reset.die.pwr.up = true := by decide +kernel

theorem witness_SafetyLayerExchange :
    let b := emptySection
    let s := demo fun d => { d with boot := { d.boot with safety := b, safeCrc := leAt b (b.length - 8) 4 } }
    s.die.pwr.up = true ∧ s.dog.sectTried = false ∧ s.die.boot.loaded = true ∧
    leAt b (b.length - 8) 4 = s.die.boot.safeCrc ∧ secRangesOk b = true ∧ secSlotsOk (mapSlots s.die) b = true ∧
    s.dog.rxSeq ≠ some s.die.dogIo.txSeq ∧ s.die.dogIo.rxSeq ≠ some s.dog.txSeq ∧ (⟨0, [], 0⟩ : LinkMsg) ≠ linkMsg 0 [] ∧
    (demoDog { dog0 with sectTried := true } id).dog.sectTried = true ∧
    leAt b (b.length - 4) 4 = leAt b (b.length - 8) 4 ∧ secLayoutOk (demo id).die.boot.safety = false ∧
    (let x : SSlot := { seg := 1, slot := 0, axis := 1, tnode := 0, quiet := 2, got := false, stoSince := none, stoJudged := false }
     let t := { seg1 fun d => { d with dogIo := { d.dogIo with slotIn := [(1, 0, 3, 2, siCode 0 0 3 2, 5)] } } with
       dog := { dogRun with slots := [x] } }
     t.dog.slots = [x] ∧ t.die.dogIo.slotIn = [(1, 0, 3, 2, siCode (vget 0 t.dog.sids 1) 0 3 2, 5)] ∧
       slotAdmitted t.die x = true ∧ bitOf 2 1 = true) ∧
    dieIsDown s.die = false ∧ dieIsDown (demo fun d => { d with inReset := true }).die = true ∧
    (demoDog { dog0 with events := [⟨1, 0, false⟩] } id).dog.events = [⟨1, 0, false⟩] ∧
    flag s.die Reg.LOG_STAT_FROZEN = false ∧ s.die.lgb.queue.length < 32 := by decide +kernel

/-! ### CAN, start, supply, Logbook -/

/-- 12_can: a standard data frame 0x123 has key 0x2460_0000, an extended one of base 0x123 at least 0x2478_0000. -/
theorem test_can_key :
    let s (id : Nat) (ide : Bool) := demo fun d => putFlag (setFld d (Reg.TXB_ID_ID 1 0) id) (Reg.TXB_FRM_IDE 1 0) ide
    canKey (s 0x123 false).die 1 0 = 0x24600000 ∧ canKey (s (0x123 * 2 ^ 18) true).die 1 0 = 0x24780000 := by decide +kernel

/-- CAN controller 1 in state `st` takes FD frames; filter 5 takes every base identifier. -/
def can1 (st : Nat) (f : Die → Die) : State := demo fun d =>
  f (setFlag (setFlag (setFlag (setFld d (Reg.CAN_STAT_STATE 1) st) (Reg.CAN_CFG_FDOE 1)) (Reg.CAN_CFG_PXE 1)) (Reg.CAN_FLT_ID_VALID 1 5))

theorem witness_CanReception :
    let d := (can1 2 id).die
    canHears d 1 = true ∧ canHears (can1 3 id).die 1 = true ∧ flag d (Reg.CAN_CFG_BRSE 1) = false ∧
    flag (setFlag d (Reg.CAN_CFG_BRSE 1)) (Reg.CAN_CFG_BRSE 1) = true ∧ fld d (Reg.CAN_ERR_REC 1) ≤ 127 ∧
    canHears (setFld (demo id).die (Reg.CAN_STAT_STATE 1) 2) 1 = true ∧
    flag (putFlag d (Reg.CAN_CFG_PXE 1) false) (Reg.CAN_CFG_PXE 1) = false ∧
    (canH (updCan d 1 fun h => { h with wait := true }) 1).wait = true ∧ flag (demo id).die (Reg.CAN_CFG_FDOE 1) = false ∧
    flag d (Reg.CAN_CFG_FDOE 1) = true ∧ flag d (Reg.CAN_CFG_PXE 1) = true ∧
    (∀ k, k < 32 → canMatch (demo id).die 1 0x123 false k = false) ∧ flag d (Reg.CAN_CFG_ACCNONE 1) = false ∧
    canMatch d 1 0x123 false 5 = true ∧ (∀ j, j < 5 → canMatch d 1 0x123 false j = false) ∧ (canH d 1).fifo.length < 64 ∧
    64 ≤ (canH (updCan d 1 fun h => { h with fifo := List.replicate 64 [0] }) 1).fifo.length := by decide +kernel

theorem witness_CanTransmission :
    let s (f : CanHid → CanHid) := can1 2 fun d => updCan (setFlag d (Reg.TXB_CTL_REQ 1 2)) 1 f
    let off := s fun h => { h with offered := some 2 }
    powered (s id).die 75 = true ∧ canState (s id).die 1 = 2 ∧ (canH (s id).die 1).offered = none ∧
    (canH (s id).die 1).wait = false ∧ flag (setFlag off.die (Reg.TXB_FRM_BRS 1 2)) (Reg.TXB_FRM_BRS 1 2) = true ∧
    flag (s id).die (Reg.TXB_CTL_REQ 1 2) = true ∧ (canH off.die 1).offered = some 2 ∧
    flag (setFlag off.die (Reg.CAN_DBT_TDC_EN 1)) (Reg.CAN_DBT_TDC_EN 1) = true ∧ flag off.die (Reg.CAN_DBT_TDC_EN 1) = false ∧
    vget false (canH off.die 1).aborting 2 = false ∧ flag off.die (Reg.TXB_CTL_ONESHOT 1 2) = false ∧
    flag (setFlag off.die (Reg.TXB_CTL_ONESHOT 1 2)) (Reg.TXB_CTL_ONESHOT 1 2) = true ∧
    vget false (canH (s fun h => { h with offered := some 2, aborting := vset h.aborting 2 true }).die 1).aborting 2 = true ∧
    fld off.die (Reg.CAN_ERR_TEC 1) + 8 ≤ 255 ∧
    255 < fld (setFld off.die (Reg.CAN_ERR_TEC 1) 250) (Reg.CAN_ERR_TEC 1) + 8 := by
  decide +kernel

theorem witness_CanStates :
    canState (can1 1 fun d => updCan d 1 fun h => { h with target := 3 }).die 1 = 1 ∧
    (canH (can1 1 fun d => updCan d 1 fun h => { h with target := 3 }).die 1).target < 8 ∧ canState (can1 5 id).die 1 = 5 ∧
    (let s := can1 3 fun d => updCan d 1 fun h => { h with modeReq := some 2 }
     (canH s.die 1).modeReq = some 2 ∧ (canH s.die 1).offered = none ∧ canState s.die 1 = 3) ∧
    canHears (can1 3 id).die 1 = true ∧ canState (can1 3 id).die 1 = 3 ∧ canHears (can1 2 id).die 1 = true ∧
    canState (can1 2 id).die 1 = 2 ∧ fld (can1 2 id).die (Reg.CAN_ERR_TEC 1) + 8 ≤ 255 ∧
    255 < fld (can1 2 fun d => setFld d (Reg.CAN_ERR_TEC 1) 250).die (Reg.CAN_ERR_TEC 1) + 8 := by
  decide +kernel

/-- The 72 bytes of a committed record of bank 0: generation 1, 64 bytes of image (R363). -/
def bankBytes : List Byte :=
  let r := leBytes 4 0x4B4E4247 ++ leBytes 4 1 ++ leBytes 4 64 ++ leBytes 4 5 ++ leBytes 4 0xFFFF ++ List.replicate 40 0
  r ++ leBytes 4 (crc32 r) ++ leBytes 4 0x3C96A55A ++ leBytes 4 (5 ^^^ 1 ^^^ 0xFFFFFFFF)

theorem witness_LoaderFinishes :
    let s := State.reset
    let f := { s with die := { s.die with boot := { s.die.boot with flash := bankBytes.zipIdx.map fun (x : Byte × Nat) => (x.2, x.1) } } }
    loaderDue s.die = true ∧ hostDownload s.die = false ∧ bankOrder s.die.boot.flash = [] ∧ bankOrder f.die.boot.flash = [0] ∧
    loaderDue { s.die with straps := 0x8000 } = false ∧
    (let h := { s.die with straps := 0x4000 }
     loaderDue h = true ∧ hostDownload h = true) := by decide +kernel

theorem witness_SupplyThresholds :
    let s := State.reset
    s.die.pwr.up = true ∧ 100 * fld s.die Reg.PWR_VWARN_VWARN = 5700 ∧ flag s.die Reg.PWR_STAT_VWARN = false ∧
    flag (setFlag s.die Reg.PWR_STAT_VWARN) Reg.PWR_STAT_VWARN = true ∧
    (let o := { s.die.pwr with up := false }
     o.up = false ∧ o.en = true ∧ o.hib = false) ∧
    flag (setFlag s.die Reg.GLB_BOOT_STAT_SESSION) Reg.GLB_BOOT_STAT_SESSION = true := by decide +kernel

/-- The first start: in reset with cause POR. -/
def held (f : Power → Power) : State :=
  { State.reset with die := { State.reset.die with inReset := true, pwr := f State.reset.die.pwr } }

theorem witness_ControlDieResets :
    (held id).die.inReset = true ∧ (held id).die.pwr.therm = false ∧ (held id).die.pwr.crystal = true ∧
    (held id).die.boot.loaded = false ∧ (held id).die.pwr.nresetLow = false ∧ bitOf (held id).die.pwr.cause 0 = true ∧
    (held id).die.pwr.por = false ∧ (demo id).die.pwr.por = false ∧ (held id).die.pwr.up = true ∧
    (let t := held fun p => { p with nresetLow := true }
     t.die.pwr.nresetLow = true ∧ t.die.pwr.por = false ∧ t.die.pwr.therm = false ∧ t.die.inReset = true) ∧
    (let t := held fun p => { p with nresetLow := true, therm := true }
     t.die.pwr.nresetLow = true ∧ t.die.pwr.therm = true) ∧
    (let t := held fun p => { p with por := true }
     t.die.pwr.por = true ∧ t.die.pwr.nresetLow = false ∧ t.die.pwr.therm = false ∧ bitOf t.die.pwr.cause 0 = true) ∧
    (let t := held fun p => { p with por := true, therm := true }
     t.die.pwr.por = true ∧ t.die.pwr.therm = true) ∧
    (demo id).die.pwr.up = true ∧ (demo id).die.inReset = false ∧ powered (demo id).die 42 = true ∧
    powered State.reset.die 42 = false ∧ flag (demo id).die Reg.PWR_STAT_TJHI = false ∧ 500 ≤ sext 16 500 ∧
    sext 16 (fld (demo id).die Reg.PWR_TJ_PEAK) < sext 16 440 ∧
    (let t := held fun p => { p with therm := true, cause := 0x20 }
     t.die.pwr.therm = true ∧ t.die.inReset = true ∧ bitOf t.die.pwr.cause 0 = false ∧ sext 16 420 ≤ 420 ∧ 420 < sext 16 421) := by
  decide +kernel

theorem witness_DozeAndHibernate :
    fld (demo fun d => setFld d Reg.PWR_STAT_MODE 2).die Reg.PWR_STAT_MODE = 2 ∧ fld (demo id).die Reg.PWR_STAT_MODE ≠ 2 ∧
    (let s := demo fun d => { setFld d Reg.PWR_STAT_MODE 3 with pwr := { d.pwr with dozeOut := true } }
     fld s.die Reg.PWR_STAT_MODE = 3 ∧ s.die.pwr.dozeOut = true ∧ s.die.trk.held = [] ∧ s.die.trk.recHeld = []) ∧
    ((demo fun d => { d with pwr := { d.pwr with hibReq := true } }).die.pwr.hibReq = true) ∧
    (let s := demo fun d => { d with pwr := { d.pwr with hib := true, up := false } }
     s.die.pwr.hib = true ∧ s.die.pwr.en = true ∧ 5600 ≤ s.die.pwr.vin ∧ s.die.pwr.vin ≤ 41000) ∧
    (demo id).die.pwr.hib = false := by decide +kernel

/-- Worked example of 16_diagnostics: the entry with SEQ 8,186 lies at index 4,090. -/
theorem test_log_index :
    let e : LogEvt := { gt := 5, src := 2, code := 1, sev := 3, p0 := 0, p1 := 0, p2 := 0, late := false }
    let s := demo fun d => { putReg (setFld (setFld (setFlag d Reg.LOG_CTL_FRZEN) Reg.LOG_CTL_FRZSEV 3) Reg.LOG_CTL_POST 16)
      Reg.LOG_SEQ 8186 with lgb := { d.lgb with queue := [e] } }
    holds (exec .logEntryWrite s) (fun t => fld t.die Reg.LOG_TRIGIDX_INDEX == 4090 && flag t.die Reg.LOG_TRIGIDX_VALID &&
      !flag t.die Reg.LOG_STAT_FROZEN && (getReg t.die Reg.LOG_SEQ).toNat == 8187) = true := by decide +kernel

theorem witness_LogbookAndDebugPort :
    let e : LogEvt := { gt := 5, src := 2, code := 1, sev := 3, p0 := 0, p1 := 0, p2 := 0, late := false }
    let s := demo fun d => { setFlag d Reg.LOG_CTL_FRZEN with lgb := { d.lgb with queue := [e] } }
    s.die.lgb.queue = [e] ∧ e.late = false ∧ flag s.die Reg.LOG_STAT_FROZEN = false ∧
    flag (setFlag s.die Reg.LOG_STAT_FROZEN) Reg.LOG_STAT_FROZEN = true ∧ s.die.lgb.post = none ∧
    fld s.die Reg.LOG_CTL_FRZSEV ≤ e.sev ∧ e.sev < 7 ∧
    (demo fun d => { d with lgb := { d.lgb with post := some 0 } }).die.lgb.post = some 0 ∧
    proofMode (demo fun d => { d with straps := 0x8000 }).die = true ∧ proofMode s.die = false ∧
    s.die.boot.blown = false ∧ flag s.die Reg.LOG_DBG_ATTACHED = false ∧
    flag (setFlag s.die Reg.LOG_DBG_ATTACHED) Reg.LOG_DBG_ATTACHED = true ∧
    halted { s.die with tap := { s.die.tap with halted := 9 } } 3 = true := by decide +kernel

/-! ### The whole block -/

theorem witness_StepRunsFrontCommand : ({ demo id with pending := [.idcode] } : State).pending = [.idcode] := by decide +kernel

theorem witness_EmptyQueueIsOneCycle :
    (demo id).pending = [] ∧ (demo id).die.inReset = false ∧ (held id).die.inReset = true ∧ (demo id).die.tb.trim = 0 ∧
    (demo id).die.tb.frac < 2 ^ 32 ∧ (demo id).die.tb.gt + 2 < 2 ^ 64 := by decide +kernel

theorem witness_StepsKeepOutputsOff :
    dogSafe dog0 ∧ holds (step { demo id with pending := [.idcode] }) (fun t => t.dog == dog0) = true := by
  refine ⟨fun _ => rfl, ?_⟩; decide +kernel

theorem witness_OnlyTheSheepdogReleases :
    holds (exec (.safetyCycle calm) (demoDog { dog0 with rel := some (true, (0, 0)) } id)) (fun t => t.dog.run) = true ∧
    dog0.run = false := by decide +kernel

theorem witness_PowerGoodReset :
    let s := demo id
    s.die.pwr.up = true ∧ s.die.inReset = false ∧ powered s.die 79 = true := by decide +kernel

theorem witness_LogInterrupt :
    let e : LogEvt := { gt := 5, src := 2, code := 1, sev := 2, p0 := 0, p1 := 0, p2 := 0, late := false }
    let s := demo fun d => setFld { d with lgb := { d.lgb with queue := [e] } } Reg.LOG_CTL_IRQSEV 3
    s.die.lgb.queue = [e] ∧ flag s.die Reg.LOG_STAT_FROZEN = false ∧ e.sev < fld s.die Reg.LOG_CTL_IRQSEV ∧
    fld (demo id).die Reg.LOG_CTL_IRQSEV ≤ e.sev := by decide +kernel

end Sys2Proof.Tests
end

section
/-! PROOFS. The arithmetic of the rules: saturation (R65), the right shifts of R69 and R70, rhu and isqrt (R125), beat edges
and the beat index (R17, R18), and the order of beat numbers (R19). -/

namespace Sys2Proof.Machine

open Sys2Proof

/-! Saturation (R65). -/

/-- The two limits are never both passed, so the order in which they are tested does not matter. -/
theorem satTo_eq (w : Nat) (x : Int) : satTo w x = (satN w x, decide (satN w x ≠ x)) := by
  have hpos : (0 : Int) < 2 ^ (w - 1) := by positivity
  simp only [satTo, satN, clampI]
  split_ifs <;> simp <;> omega

theorem satTo_24 (x : Int) : satTo 24 x = (sat24 x, decide (sat24 x ≠ x)) := satTo_eq 24 x

theorem satTo_48 (x : Int) : satTo 48 x = (sat48 x, decide (sat48 x ≠ x)) := satTo_eq 48 x

/-! Right shifts (R69, R70). -/

theorem shiftLane_neg (a : Int) {s : Nat} (hs : 1 ≤ s) : shiftLane a (-(s : Int)) = satTo 24 (convShr a s) := by
  have hneg : ¬ (0 : Int) ≤ -(s : Int) := by omega
  rw [shiftLane, if_neg hneg, neg_neg, Int.toNat_natCast]

theorem shiftPair_neg (a : Int) {s : Nat} (hs : 1 ≤ s) : shiftPair a (-(s : Int)) = satTo 48 (halfUpShr a s) := by
  have hneg : ¬ (0 : Int) ≤ -(s : Int) := by omega
  rw [shiftPair, if_neg hneg, neg_neg, Int.toNat_natCast]

/-- R69 by its cases: the quotient is rounded up when the remainder is past the middle, or at it with an odd quotient. -/
theorem convShr_cases (a : Int) {s : Nat} (hs : 1 ≤ s) :
    let q := a / 2 ^ s
    let r := 2 * (a % 2 ^ s)
    (2 ^ s < r ∨ r = 2 ^ s ∧ q % 2 = 1) ∧ convShr a s = q + 1 ∨
    (r < 2 ^ s ∨ r = 2 ^ s ∧ q % 2 = 0) ∧ convShr a s = q := by
  have hhalf : 2 * (2 : Int) ^ (s - 1) = 2 ^ s := mul_pow_sub_one (by omega) 2
  have hrem : a - a / 2 ^ s * 2 ^ s = a % 2 ^ s := by rw [Int.emod_def, mul_comm]
  simp only [convShr, if_neg (show ¬ s = 0 by omega), hrem]
  split_ifs <;> omega

/-- The remainder that convergent rounding leaves is at most half a step either way, and a tie goes to the even result. -/
theorem convShr_nearest (a : Int) {s : Nat} (hs : 1 ≤ s) :
    -(2 ^ s : Int) ≤ 2 * (a - convShr a s * 2 ^ s) ∧ 2 * (a - convShr a s * 2 ^ s) ≤ 2 ^ s ∧
      ((2 * (a - convShr a s * 2 ^ s)).natAbs = 2 ^ s → convShr a s % 2 = 0) := by
  have hpos : (0 : Int) < 2 ^ s := by positivity
  have hlt : a % 2 ^ s < 2 ^ s := Int.emod_lt_of_pos a hpos
  have hnn : 0 ≤ a % 2 ^ s := Int.emod_nonneg a hpos.ne'
  have hcast : ((2 ^ s : Nat) : Int) = 2 ^ s := by push_cast; rfl
  obtain ⟨hr, hq⟩ | ⟨hr, hq⟩ := convShr_cases a hs
  · have hrem : a - convShr a s * 2 ^ s = a % 2 ^ s - 2 ^ s := by rw [hq, Int.emod_def]; ring
    rw [hrem]; omega
  · have hrem : a - convShr a s * 2 ^ s = a % 2 ^ s := by rw [hq, Int.emod_def]; ring
    rw [hrem]; omega

theorem halfUpShr_bounds (a : Int) {s : Nat} (hs : 1 ≤ s) :
    halfUpShr a s * 2 ^ s ≤ a + 2 ^ (s - 1) ∧ a + 2 ^ (s - 1) < (halfUpShr a s + 1) * 2 ^ s := by
  have hpos : (0 : Int) < 2 ^ s := by positivity
  rw [halfUpShr, if_neg (by omega)]
  exact ⟨Int.ediv_mul_le _ hpos.ne', Int.lt_ediv_add_one_mul_self _ hpos⟩

/-! rhu and isqrt (R125). -/

theorem rhu_bounds (n : Int) {d : Int} (hd : 0 < d) :
    2 * d * rhu n d ≤ 2 * n + d ∧ 2 * n + d < 2 * d * (rhu n d + 1) := by
  have hpos : 0 < 2 * d := by omega
  rw [rhu, mul_comm (2 * d), mul_comm (2 * d)]
  exact ⟨Int.ediv_mul_le _ hpos.ne', Int.lt_ediv_add_one_mul_self _ hpos⟩

/-- With `i` bits to go, the root lies less than 2^i above the part found; each bit halves that gap. -/
theorem isqrtStep_bounds (i n r : Nat) (hlo : r * r ≤ n) (hhi : n < (r + 2 ^ i) * (r + 2 ^ i)) :
    isqrtStep i n r * isqrtStep i n r ≤ n ∧ n < (isqrtStep i n r + 1) * (isqrtStep i n r + 1) := by
  induction i generalizing r with
  | zero => exact ⟨hlo, hhi⟩
  | succ i ih =>
    simp only [isqrtStep]
    split_ifs with hbit
    · have hgap : r + 2 ^ i + 2 ^ i = r + 2 ^ (i + 1) := by ring
      exact ih _ hbit (hgap ▸ hhi)
    · exact ih r hlo (by omega)

theorem isqrt_bounds (n : Nat) (hn : n < 2 ^ 192) : isqrt n * isqrt n ≤ n ∧ n < (isqrt n + 1) * (isqrt n + 1) :=
  isqrtStep_bounds 96 n 0 (by omega) (by omega)

/-! Beat edges and the beat index (R17, R18). -/

theorem edgeGt_bounds {f : Nat} (k : Nat) (hf : 0 < f) :
    edgeGt f k * f ≤ k * 1000000000 ∧ k * 1000000000 < (edgeGt f k + 1) * f :=
  ⟨Nat.div_mul_le_self _ _, by simpa only [edgeGt, mul_comm _ f] using Nat.lt_mul_div_succ (k * 1000000000) hf⟩

theorem edgeGt_le_iff {f : Nat} (k gt : Nat) (hf : 0 < f) : edgeGt f k ≤ gt ↔ k * 1000000000 < (gt + 1) * f := by
  rw [← Nat.lt_succ_iff, edgeGt, Nat.div_lt_iff_lt_mul hf]

/-- Beat k is the one in force at `gt` exactly when edge k is at or before `gt` and edge k + 1 after it. -/
theorem edge_beatAt_le_lt {f : Nat} (gt : Nat) (hf : 0 < f) :
    edgeGt f (beatAt f gt) ≤ gt ∧ gt < edgeGt f (beatAt f gt + 1) := by
  have hpos : 0 < (gt + 1) * f := by positivity
  rw [← not_le, edgeGt_le_iff _ _ hf, edgeGt_le_iff _ _ hf, beatAt, cdiv]
  generalize (gt + 1) * f = m at hpos ⊢
  omega

/-! The order of beat numbers (R19). -/

/-- The distance from a to b modulo 2^w, as `precedes` forms it, is that of the integers. -/
theorem precedes_dist (w a b : Nat) :
    (((b + 2 ^ w - a % 2 ^ w) % 2 ^ w : Nat) : Int) = ((b : Int) - a) % 2 ^ w := by
  have hle : a % 2 ^ w ≤ b + 2 ^ w := (Nat.mod_lt a (by positivity)).le.trans (Nat.le_add_left _ _)
  push_cast [Nat.cast_sub hle]
  rw [add_sub_right_comm, Int.add_emod_right, Int.sub_emod_emod]

theorem precedes_iff (w a b : Nat) :
    precedes w a b = true ↔ 1 ≤ ((b : Int) - a) % 2 ^ w ∧ ((b : Int) - a) % 2 ^ w < 2 ^ (w - 1) := by
  rw [← precedes_dist]
  simp only [precedes, Bool.and_eq_true, decide_eq_true_eq]
  exact_mod_cast Iff.rfl

theorem precedes_self (w a : Nat) : precedes w a a = false := by
  rw [← Bool.not_eq_true, precedes_iff, sub_self, Int.zero_emod]
  omega

/-- The distances of two different numbers either way add up to 2^w, so one of them is below half unless both are half. -/
theorem precedes_iff_not_precedes {w a b : Nat} (hw : 1 ≤ w) (ha : a < 2 ^ w) (hb : b < 2 ^ w) (hne : a ≠ b)
    (hmid : (b + 2 ^ w - a) % 2 ^ w ≠ 2 ^ (w - 1)) : precedes w a b = true ↔ precedes w b a = false := by
  have hhalf : 2 * 2 ^ (w - 1) = 2 ^ w := mul_pow_sub_one (by omega) 2
  simp only [precedes, Nat.mod_eq_of_lt ha, Nat.mod_eq_of_lt hb, ← Bool.not_eq_true, Bool.and_eq_true,
    decide_eq_true_eq]
  obtain hlt | hlt := Nat.lt_or_gt_of_ne hne
  · have hab : (b + 2 ^ w - a) % 2 ^ w = b - a := by
      rw [show b + 2 ^ w - a = b - a + 2 ^ w by omega, Nat.add_mod_right, Nat.mod_eq_of_lt (by omega)]
    have hba : (a + 2 ^ w - b) % 2 ^ w = a + 2 ^ w - b := Nat.mod_eq_of_lt (by omega)
    omega
  · have hab : (b + 2 ^ w - a) % 2 ^ w = b + 2 ^ w - a := Nat.mod_eq_of_lt (by omega)
    have hba : (a + 2 ^ w - b) % 2 ^ w = a - b := by
      rw [show a + 2 ^ w - b = a - b + 2 ^ w by omega, Nat.add_mod_right, Nat.mod_eq_of_lt (by omega)]
    omega

/-- Settles O1: each clause is the lemma of its rule, with the shifts' saturation by `satTo_24` and `satTo_48`. -/
theorem arithmeticOfTheRules : Obligations.ArithmeticOfTheRules := by
  unfold Obligations.ArithmeticOfTheRules
  refine ⟨⟨fun a s hs => ?lane, fun a s hs => ?pair, fun n d hd => rhu_bounds n hd, isqrt_bounds,
    fun x => by simp [satTo_24], fun x => by simp [satTo_48]⟩,
    fun f k hf => edgeGt_bounds k hf, fun f gt hf _ => edge_beatAt_le_lt gt hf, fun a b => ?order,
    fun w a b => precedes_iff_not_precedes, precedes_self⟩
  case lane =>
    obtain ⟨hlo, hhi, htie⟩ := convShr_nearest a hs
    exact ⟨hlo, hhi, htie, by rw [shiftLane_neg a hs, satTo_24]⟩
  case pair =>
    obtain ⟨hlo, hhi⟩ := halfUpShr_bounds a hs
    exact ⟨hlo, hhi, by rw [shiftPair_neg a hs, satTo_48]⟩
  case order =>
    rw [precedes_iff, Int.le_sub_one_iff]

end Sys2Proof.Machine
end

section
/-! PROOFS. Resets of the control die (R384, R390, R392): what the reset wipes and which registers it keeps, what the start
that follows adds, and with both the reset of a powered domain that loses power-good. -/

namespace Sys2Proof.Machine

open Sys2Proof

/-! Registers and fields. -/

/-- Thinning a sparse map by a test of its keys leaves the value under a key that passes. -/
theorem sget_filter_key {α : Type} (d : α) (m : Sparse α) {p : Nat → Bool} {i : Nat} (h : p i = true) :
    sget d (m.filter fun e => p e.1) i = sget d m i := by
  induction m with
  | nil => rfl
  | cons e m ih =>
    obtain ⟨k, v⟩ := e
    by_cases hk : k = i
    · simp [hk, h, sget]
    · by_cases hp : p k = true <;> simp [hk, hp, sget, ih]

/-- A number with a field replaced keeps the bits below the field. -/
theorem setBitsOf_mod_two_pow (x lo w v : Nat) : setBitsOf x lo w v % 2 ^ lo = x % 2 ^ lo := by
  rw [setBitsOf_eq, Nat.pow_add, Nat.mul_left_comm, Nat.mul_comm (v % 2 ^ w), Nat.add_assoc, Nat.mul_add_mod,
    Nat.mul_add_mod, Nat.mod_mod]

/-- A field is read from the bits below any place at or above its end. -/
theorem bitsOf_mod_two_pow (x : Nat) {lo w n : Nat} (h : lo + w ≤ n) : bitsOf (x % 2 ^ n) lo w = bitsOf x lo w := by
  rw [bitsOf_eq, bitsOf_eq, ← Nat.mod_mul_right_div_self, ← Nat.mod_mul_right_div_self, ← Nat.pow_add,
    Nat.mod_mod_of_dvd _ (Nat.pow_dvd_pow 2 h)]

/-- A write of a field leaves the fields below it in the same register. -/
theorem fld_setFld_below (d : Die) (f g : Fld) (v : Nat) (hoff : f.off = g.off) (hlo : f.lo + f.w ≤ g.lo)
    (hg : g.lo + g.w ≤ 32) : fld (setFld d g v) f = fld d f := by
  have hlt : setBitsOf (getReg d g.off).toNat g.lo g.w v < 2 ^ 32 := setBitsOf_lt _ _ _ _ _ (BitVec.isLt _) hg
  rw [fld, fld, setFld, hoff, getReg_putReg_same, BitVec.toNat_ofNat, Nat.mod_eq_of_lt hlt, ← bitsOf_mod_two_pow _ hlo,
    setBitsOf_mod_two_pow, bitsOf_mod_two_pow _ hlo]

theorem satInc_lt (w x : Nat) : satInc w x < 2 ^ w := by
  have hpos := Nat.two_pow_pos w
  unfold satInc
  split_ifs <;> omega

/-! What the interrupt messages at the end of the command and the write of a field leave of the rest. -/

@[simp] theorem irqSettle_inReset (c d : Die) : (irqSettle c d).inReset = d.inReset := by
  obtain ⟨_, _, _, _, h⟩ := irqSettle_eq c d
  rw [h]

@[simp] theorem setFld_inReset (d : Die) (f : Fld) (v : Nat) : (setFld d f v).inReset = d.inReset := rfl

@[simp] theorem fld_irqSettle (c d : Die) (f : Fld) : fld (irqSettle c d) f = fld d f := by simp [fld]

/-! The reset (R390). -/

/-- The volatile state of the control die is as after a reset with this cause (R390). -/
structure Wiped (d : Die) (cause : Nat) : Prop where
  cause_eq : d.pwr.cause = cause
  tb_eq : d.tb = timebase0
  mem_eq : d.mem = mem0
  eng_eq : d.eng = Vector.replicate 16 engine0
  unloaded : d.boot.loaded = false

theorem Wiped.setFld {d : Die} {cause : Nat} (h : Wiped d cause) (f : Fld) (v : Nat) :
    Wiped (Machine.setFld d f v) cause := ⟨h.cause_eq, h.tb_eq, h.mem_eq, h.eng_eq, h.unloaded⟩

theorem Wiped.irqSettle {d : Die} {cause : Nat} (h : Wiped d cause) (c : Die) : Wiped (Machine.irqSettle c d) cause := by
  obtain ⟨_, _, _, _, heq⟩ := irqSettle_eq c d
  rw [heq]
  exact ⟨h.cause_eq, h.tb_eq, h.mem_eq, h.eng_eq, h.unloaded⟩

theorem dieReset_wiped (d : Die) (cause : Nat) : Wiped (dieReset d cause) cause := ⟨rfl, rfl, rfl, rfl, rfl⟩

theorem dieReset_inReset (d : Die) (cause : Nat) : (dieReset d cause).inReset = true := rfl

/-- The die at a reset before the registers that do not survive are lost: the Logbook's queue is cut and the reset counted
(R384). -/
def resetCounted (d : Die) : Die :=
  let d := logReset (setFld d Reg.LOG_DBG_ARMED 0)
  setFld (setFld d Reg.GLB_RST_CNT_COUNT (satInc 16 (fld d Reg.GLB_RST_CNT_COUNT))) Reg.PWR_STAT_MODE 0

theorem getReg_dieReset_survives (d : Die) (cause : Nat) {off : Nat} (h : survives off = true) :
    getReg (dieReset d cause) off = getReg (resetCounted d) off := sget_filter_key _ _ h

/-- Cutting the Logbook's queue writes the count and the flag of lost events only (R406). -/
theorem getReg_logReset_ne (d : Die) {off : Nat} (hcnt : off ≠ Reg.LOG_CNT_LOST) (hstat : off ≠ Reg.LOG_STAT) :
    getReg (logReset d) off = getReg d off := by
  unfold logReset
  dsimp only
  split_ifs
  · rfl
  · exact (getReg_setFlag_ne _ Reg.LOG_STAT_LOSS hstat).trans (getReg_putReg_ne _ _ hcnt)

theorem fld_dieReset_count (d : Die) (cause : Nat) :
    fld (dieReset d cause) Reg.GLB_RST_CNT_COUNT = satInc 16 (fld d Reg.GLB_RST_CNT_COUNT) := by
  have hlog : fld (logReset (setFld d Reg.LOG_DBG_ARMED 0)) Reg.GLB_RST_CNT_COUNT = fld d Reg.GLB_RST_CNT_COUNT := by
    rw [fld, getReg_logReset_ne _ (by decide) (by decide)]
    exact fld_setFld_ne d _ _ 0 (by decide)
  rw [fld, getReg_dieReset_survives d cause (by decide)]
  calc fld (resetCounted d) Reg.GLB_RST_CNT_COUNT
      = satInc 16 (fld (logReset (setFld d Reg.LOG_DBG_ARMED 0)) Reg.GLB_RST_CNT_COUNT) % 2 ^ 16 :=
        (fld_setFld_ne _ _ _ 0 (by decide)).trans (fld_setFld_same _ _ _ (by decide))
    _ = satInc 16 (fld d Reg.GLB_RST_CNT_COUNT) := by rw [hlog, Nat.mod_eq_of_lt (satInc_lt 16 _)]

/-! The start that follows (R375, R404). -/

theorem getReg_beatDefaults_ne (d : Die) (code : Nat) {off : Nat} (h : off < Reg.BEAT_CFG) :
    getReg (beatDefaults d code) off = getReg d off := by
  have hne : ∀ r, Reg.BEAT_CFG ≤ r → off ≠ r := fun r hr => (h.trans_le hr).ne
  unfold beatDefaults beatFixed
  dsimp only
  rw [getReg_setFld_ne _ Reg.BEAT_PERIOD_VALUE _ (hne _ (by decide)),
    getReg_setFld_ne _ Reg.BEAT_FCL_VALUE _ (hne _ (by decide)), getReg_setFld_ne _ Reg.BEAT_OPH_VALUE _ (hne _ (by decide)),
    getReg_setFld_ne _ Reg.BEAT_IDL_VALUE _ (hne _ (by decide)), getReg_setFld_ne _ Reg.BEAT_CFG_RATE _ (hne _ (by decide))]

/-- The die that has started and reports the cause, its boot epoch not yet counted (R375). -/
def startReported (d : Die) (straps : BitVec 16) : Die :=
  let d := updPwr { d with straps := straps, inReset := false, tb := timebase0 } fun p =>
    { p with dom := bootDoms straps.toNat }
  putReg (beatDefaults d (rateCode straps.toNat none)) Reg.GLB_RST_CAUSE (BitVec.ofNat 32 d.pwr.cause)

/-- A start after the power-on reset leaves the boot epoch; any other writes it (R404). -/
theorem dieStart_cases (d : Die) (straps : BitVec 16) : dieStart d straps = startReported d straps ∨
    ∃ e, dieStart d straps = setFld (startReported d straps) Reg.LOG_EPOCH_EPOCH e := by
  unfold dieStart
  dsimp only
  split
  · exact .inl rfl
  · exact .inr ⟨_, rfl⟩

theorem dieStart_wiped {d : Die} {cause : Nat} (h : Wiped d cause) (straps : BitVec 16) :
    Wiped (dieStart d straps) cause := by
  have hrep : Wiped (startReported d straps) cause := ⟨h.cause_eq, rfl, h.mem_eq, h.eng_eq, h.unloaded⟩
  obtain heq | ⟨e, heq⟩ := dieStart_cases d straps
  · exact heq ▸ hrep
  · exact heq ▸ hrep.setFld _ e

/-- The boot epoch apart, a started die reads as it reports. -/
theorem getReg_dieStart_ne (d : Die) (straps : BitVec 16) {off : Nat} (h : off ≠ Reg.LOG_EPOCH) :
    getReg (dieStart d straps) off = getReg (startReported d straps) off := by
  obtain heq | ⟨e, heq⟩ := dieStart_cases d straps
  · rw [heq]
  · rw [heq, getReg_setFld_ne _ Reg.LOG_EPOCH_EPOCH e h]

theorem getReg_dieStart_cause (d : Die) (straps : BitVec 16) :
    getReg (dieStart d straps) Reg.GLB_RST_CAUSE = BitVec.ofNat 32 d.pwr.cause :=
  (getReg_dieStart_ne d straps (by decide)).trans (getReg_putReg_same _ _ _)

/-- Of the registers below the beat's, the start writes the cause only. -/
theorem getReg_dieStart_below_beat (d : Die) (straps : BitVec 16) {off : Nat} (hbeat : off < Reg.BEAT_CFG)
    (hcause : off ≠ Reg.GLB_RST_CAUSE) : getReg (dieStart d straps) off = getReg d off := by
  have hepoch : off ≠ Reg.LOG_EPOCH := (hbeat.trans (by decide)).ne
  calc getReg (dieStart d straps) off
      = getReg (startReported d straps) off := getReg_dieStart_ne d straps hepoch
    _ = getReg (beatDefaults _ (rateCode straps.toNat none)) off := getReg_putReg_ne _ _ hcause
    _ = getReg d off := getReg_beatDefaults_ne _ _ hbeat

/-! The internal reset (R392) and the loss of power-good (R384). -/

/-- An internal reset is the reset alone, or with the start where nothing keeps the die from it. -/
theorem internalReset_cases (d : Die) (cause : Nat) :
    internalReset d cause = dieReset d cause ∨
      internalReset d cause = dieStart (dieReset d cause) (dieReset d cause).straps := by
  unfold internalReset
  dsimp only
  split_ifs
  · exact .inr rfl
  · exact .inl rfl

theorem internalReset_wiped (d : Die) (cause : Nat) : Wiped (internalReset d cause) cause := by
  have hreset := dieReset_wiped d cause
  obtain h | h := internalReset_cases d cause
  · exact h ▸ hreset
  · exact h ▸ dieStart_wiped hreset _

theorem fld_internalReset_count (d : Die) (cause : Nat) :
    fld (internalReset d cause) Reg.GLB_RST_CNT_COUNT = satInc 16 (fld d Reg.GLB_RST_CNT_COUNT) := by
  rw [← fld_dieReset_count d cause]
  obtain h | h := internalReset_cases d cause
  · rw [h]
  · rw [h, fld, getReg_dieStart_below_beat _ _ (by decide) (by decide), fld]

theorem getReg_internalReset_cause {d : Die} {cause : Nat} (hrun : (internalReset d cause).inReset = false) :
    getReg (internalReset d cause) Reg.GLB_RST_CAUSE = BitVec.ofNat 32 cause := by
  obtain h | h := internalReset_cases d cause
  · rw [h, dieReset_inReset] at hrun
    exact absurd hrun (by decide)
  · rw [h, getReg_dieStart_cause, (dieReset_wiped d cause).cause_eq]

theorem powerGoodLost_powered {d : Die} {dom : Nat} (hup : d.pwr.up = true) (hrun : d.inReset = false)
    (hdom : powered d dom = true) : powerGoodLost d dom = setFld (internalReset d 8) Reg.GLB_RST_CNT_DOM dom := by
  simp [powerGoodLost, hup, hrun, hdom]

/-- The command of a powered domain of a running part: the internal reset, the number of the domain, then the messages. -/
theorem exec_pgood_powered {s : State} {dom : Fin 80} (hup : s.die.pwr.up = true) (hrun : s.die.inReset = false)
    (hdom : powered s.die dom.val = true) : exec (.pgood dom) s = .next
      { s with die := irqSettle s.die (setFld (internalReset (found s) 8) Reg.GLB_RST_CNT_DOM dom.val) } := by
  rw [← powerGoodLost_powered (d := found s) hup hrun hdom]
  rfl

/-- Settles O59: the internal reset wipes the die, counts itself and reports its cause once the die runs; the number of the
domain then goes into the field above the count. -/
theorem powerGoodReset : Obligations.PowerGoodReset := by
  unfold Obligations.PowerGoodReset
  intro s dom hup hrun hdom
  have hwiped := ((internalReset_wiped (found s) 8).setFld Reg.GLB_RST_CNT_DOM dom.val).irqSettle s.die
  refine ⟨_, exec_pgood_powered hup hrun hdom, hwiped.cause_eq, ?dom, hwiped.tb_eq, hwiped.mem_eq, hwiped.eng_eq,
    hwiped.unloaded, ?count, ?report, rfl⟩
  case dom =>
    have hlt : dom.val < 2 ^ 7 := dom.isLt.trans (by decide)
    rw [fld_irqSettle, fld_setFld_same _ Reg.GLB_RST_CNT_DOM _ (by decide)]
    exact Nat.mod_eq_of_lt hlt
  case count =>
    rw [fld_irqSettle, fld_setFld_below _ Reg.GLB_RST_CNT_COUNT Reg.GLB_RST_CNT_DOM _ rfl (by decide) (by decide)]
    exact fld_internalReset_count (found s) 8
  case report =>
    intro hstarted
    rw [irqSettle_inReset, setFld_inReset] at hstarted
    rw [getReg_irqSettle, getReg_setFld_ne _ Reg.GLB_RST_CNT_DOM _ (by decide)]
    exact getReg_internalReset_cause hstarted

end Sys2Proof.Machine
end

section
/-! PROOFS. The Logbook's interrupt (R408): an entry written sets HST_IRQ_STAT.LOG by its severity alone, and what else its
writing does, the freeze included, leaves that register. -/

namespace Sys2Proof.Machine

open Sys2Proof

/-! Bits of a number and of HST_IRQ_STAT. -/

theorem bitOf_eq_testBit (x i : Nat) : bitOf x i = x.testBit i := by
  rw [bitOf, Nat.shiftRight_eq_div_pow, Nat.testBit_eq_decide_div_mod_eq]
  rfl

theorem bitOf_setBit_same (x i : Nat) : bitOf (setBit x i) i = true := by
  rw [bitOf_eq_testBit, setBit, Nat.testBit_or, Nat.testBit_two_pow_self, Bool.or_true]

theorem bitOf_mod_two_pow (x : Nat) {i n : Nat} (h : i < n) : bitOf (x % 2 ^ n) i = bitOf x i := by
  rw [bitOf_eq_testBit, bitOf_eq_testBit, Nat.testBit_mod_two_pow, decide_eq_true h, Bool.true_and]

theorem bitOf_irqSet_same (d : Die) {i : Nat} (h : i < 32) :
    bitOf (getReg (irqSet d i) Reg.HST_IRQ_STAT).toNat i = true := by
  rw [irqSet, getReg_putReg_same, BitVec.toNat_ofNat, bitOf_mod_two_pow _ h, bitOf_setBit_same]

/-! What the freeze and the trigger leave of the registers (R407). -/

theorem getReg_logLose_ne (d : Die) (n : Nat) {off : Nat} (hcnt : off ≠ Reg.LOG_CNT_LOST) (hstat : off ≠ Reg.LOG_STAT) :
    getReg (logLose d n) off = getReg d off := by
  unfold logLose
  split_ifs
  · rfl
  · exact (getReg_setFlag_ne _ Reg.LOG_STAT_LOSS hstat).trans (getReg_putReg_ne _ _ hcnt)

theorem getReg_logFreeze_ne (d : Die) {off : Nat} (hcnt : off ≠ Reg.LOG_CNT_LOST) (hstat : off ≠ Reg.LOG_STAT) :
    getReg (logFreeze d) off = getReg d off := by
  unfold logFreeze
  split_ifs
  · rfl
  · calc getReg (setFld (setFlag (logLose d d.lgb.queue.length) Reg.LOG_STAT_FROZEN) Reg.LOG_STAT_PENDING 0) off
        = getReg (logLose d d.lgb.queue.length) off :=
          (getReg_setFld_ne _ Reg.LOG_STAT_PENDING 0 hstat).trans (getReg_setFlag_ne _ Reg.LOG_STAT_FROZEN hstat)
      _ = getReg d off := getReg_logLose_ne d _ hcnt hstat

/-- The die with the count of entries until the freeze. -/
def logCounted (d : Die) (n : Nat) : Die := { d with lgb := { d.lgb with post := some n } }

@[simp] theorem getReg_logCounted (d : Die) (n off : Nat) : getReg (logCounted d n) off = getReg d off := rfl

/-- The die whose trigger has just come, with its index. -/
def logMarked (d : Die) (idx : Nat) : Die :=
  setFlag (setFlag (setFld d Reg.LOG_TRIGIDX_INDEX idx) Reg.LOG_TRIGIDX_VALID) Reg.LOG_STAT_PENDING

theorem getReg_logMarked_ne (d : Die) (idx : Nat) {off : Nat} (hstat : off ≠ Reg.LOG_STAT)
    (htrig : off ≠ Reg.LOG_TRIGIDX) : getReg (logMarked d idx) off = getReg d off :=
  calc getReg (logMarked d idx) off
      = getReg (setFlag (setFld d Reg.LOG_TRIGIDX_INDEX idx) Reg.LOG_TRIGIDX_VALID) off :=
        getReg_setFlag_ne _ Reg.LOG_STAT_PENDING hstat
    _ = getReg (setFld d Reg.LOG_TRIGIDX_INDEX idx) off := getReg_setFlag_ne _ Reg.LOG_TRIGIDX_VALID htrig
    _ = getReg d off := getReg_setFld_ne d Reg.LOG_TRIGIDX_INDEX idx htrig

theorem logTrig_of_counting {d : Die} {n : Nat} (hpost : d.lgb.post = some n) (sev idx : Nat) :
    logTrig d sev idx = if n ≤ 1 then logFreeze (logCounted d (n - 1)) else logCounted d (n - 1) := by
  unfold logTrig
  rw [hpost]
  rfl

theorem logTrig_of_armed {d : Die} (hpost : d.lgb.post = none) (sev idx : Nat) :
    logTrig d sev idx =
      if flag d Reg.LOG_CTL_FRZEN && fld d Reg.LOG_CTL_FRZSEV ≤ sev then
        if fld (logMarked d idx) Reg.LOG_CTL_POST = 0 then
          logFreeze (logCounted (logMarked d idx) (fld (logMarked d idx) Reg.LOG_CTL_POST))
        else logCounted (logMarked d idx) (fld (logMarked d idx) Reg.LOG_CTL_POST)
      else d := by
  unfold logTrig
  rw [hpost]
  rfl

theorem getReg_logTrig_ne (d : Die) (sev idx : Nat) {off : Nat} (hcnt : off ≠ Reg.LOG_CNT_LOST)
    (hstat : off ≠ Reg.LOG_STAT) (htrig : off ≠ Reg.LOG_TRIGIDX) : getReg (logTrig d sev idx) off = getReg d off := by
  cases hpost : d.lgb.post with
  | some n =>
    rw [logTrig_of_counting hpost]
    split_ifs
    · rw [getReg_logFreeze_ne _ hcnt hstat, getReg_logCounted]
    · rw [getReg_logCounted]
  | none =>
    rw [logTrig_of_armed hpost]
    split_ifs
    · rw [getReg_logFreeze_ne _ hcnt hstat, getReg_logCounted, getReg_logMarked_ne d idx hstat htrig]
    · rw [getReg_logCounted, getReg_logMarked_ne d idx hstat htrig]
    · rfl

/-! The writing of an entry (R403, R405). -/

/-- The die with the head event of the write queue at its index, stamped now where it comes late. -/
def logPlaced (d : Die) (e : LogEvt) (rest : List LogEvt) : Die :=
  let seq := (getReg d Reg.LOG_SEQ).toNat
  let w := logWords (if e.late then { e with gt := d.tb.gt } else e) (getReg d Reg.LOG_EPOCH).toNat seq d.lgb.lossNext
  { d with lgb := { d.lgb with queue := rest, entries := sput [] d.lgb.entries (seq % 4096) w, lossNext := false } }

@[simp] theorem getReg_logPlaced (d : Die) (e : LogEvt) (rest : List LogEvt) (off : Nat) :
    getReg (logPlaced d e rest) off = getReg d off := rfl

/-- The entry is placed and numbered; its severity has not been looked at. -/
def logStored (d : Die) (e : LogEvt) (rest : List LogEvt) : Die :=
  let seq := (getReg d Reg.LOG_SEQ).toNat
  let d := putReg (logPlaced d e rest) Reg.LOG_SEQ (BitVec.ofNat 32 (seq + 1))
  if seq % 4096 = 4095 then setFlag d Reg.LOG_STAT_WRAPPED else d

theorem getReg_logStored_ne (d : Die) (e : LogEvt) (rest : List LogEvt) {off : Nat} (hseq : off ≠ Reg.LOG_SEQ)
    (hstat : off ≠ Reg.LOG_STAT) : getReg (logStored d e rest) off = getReg d off := by
  have hplaced (w : Word) : getReg (putReg (logPlaced d e rest) Reg.LOG_SEQ w) off = getReg d off := by
    rw [getReg_putReg_ne _ w hseq, getReg_logPlaced]
  unfold logStored
  dsimp only
  split_ifs
  · rw [getReg_setFlag_ne _ Reg.LOG_STAT_WRAPPED hstat, hplaced]
  · exact hplaced _

/-- The interrupt of an entry of this severity (R408). -/
def logAlarm (d : Die) (sev : Nat) : Die := if fld d Reg.LOG_CTL_IRQSEV ≤ sev then irqSet d 6 else d

/-- An entry is stored, then its severity decides on the interrupt and on the trigger; the late stamp leaves it as it is. -/
theorem logEntryWrite_cons {d : Die} {e : LogEvt} {rest : List LogEvt} (hq : d.lgb.queue = e :: rest)
    (hthaw : flag d Reg.LOG_STAT_FROZEN = false) (hrun : d.inReset = false) : logEntryWrite d =
      logTrig (logAlarm (logStored d e rest) e.sev) e.sev ((getReg d Reg.LOG_SEQ).toNat % 4096) := by
  have hsev : (if e.late then { e with gt := d.tb.gt } else e).sev = e.sev := by split <;> rfl
  have hopen : ¬ (flag d Reg.LOG_STAT_FROZEN || d.inReset) = true := by simp [hthaw, hrun]
  unfold logEntryWrite
  rw [hq]
  dsimp only
  rw [if_neg hopen, hsev]
  rfl

/-- Of an entry written, HST_IRQ_STAT sees its interrupt only. -/
theorem getReg_logEntryWrite_irqStat {d : Die} {e : LogEvt} {rest : List LogEvt} (hq : d.lgb.queue = e :: rest)
    (hthaw : flag d Reg.LOG_STAT_FROZEN = false) (hrun : d.inReset = false) :
    getReg (logEntryWrite d) Reg.HST_IRQ_STAT = getReg (logAlarm (logStored d e rest) e.sev) Reg.HST_IRQ_STAT := by
  rw [logEntryWrite_cons hq hthaw hrun, getReg_logTrig_ne _ _ _ (by decide) (by decide) (by decide)]

theorem fld_logStored_irqSev (d : Die) (e : LogEvt) (rest : List LogEvt) :
    fld (logStored d e rest) Reg.LOG_CTL_IRQSEV = fld d Reg.LOG_CTL_IRQSEV := by
  rw [fld, getReg_logStored_ne d e rest (by decide) (by decide), fld]

/-- Settles O60: the severity field stands while the entry is stored, so it alone decides whether LOG is set; the trigger
and the messages at the end of the command leave HST_IRQ_STAT. -/
theorem logInterrupt : Obligations.LogInterrupt := by
  unfold Obligations.LogInterrupt
  intro s e rest hq hthaw hrun
  obtain ⟨_, hexec, rfl⟩ := onDie_next logEntryWrite s
  have hwritten := getReg_logEntryWrite_irqStat (d := entry s.die) hq hthaw hrun
  have hfield : fld (logStored (entry s.die) e rest) Reg.LOG_CTL_IRQSEV = fld s.die Reg.LOG_CTL_IRQSEV :=
    fld_logStored_irqSev (entry s.die) e rest
  refine ⟨_, hexec, fun hsevere => ?severe, fun hmild => ?mild⟩
  case severe =>
    rw [getReg_irqSettle, hwritten, logAlarm, hfield, if_pos hsevere]
    exact bitOf_irqSet_same _ (by decide)
  case mild =>
    rw [getReg_irqSettle, hwritten, logAlarm, hfield, if_neg hmild.not_ge]
    exact getReg_logStored_ne (entry s.die) e rest (by decide) (by decide)

end Sys2Proof.Machine
end

section
/-! PROOFS. Who switches the Sheepdog's outputs on (R290, R304, R310): what each command leaves of the island's outputs, its
state and the result of its release test. -/

namespace Sys2Proof.Machine

open Sys2Proof

/-! The shape of a command. -/

/-- The commands that act on the Sheepdog, or on the supply of the part. -/
def actsOnDog : Instr → Bool
  | .safetyCycle _ | .ss1TimerExpiry _ | .pairDiscrepancy _ | .testPulseCheckpoint .. | .outputSwitchTest ..
  | .outputOffTimeout _ | .diagSelfTest .. | .srstPressBegin | .srstPress .. | .srstHeld | .releaseTestEnd .. | .heartbeat
  | .heartbeatWindowEnd | .safetyWordHandover | .ss1StoMessage | .lsafeWatchdog .. | .sheepdogEvent | .safeInputSample ..
  | .offPulseStart _ | .offPulseEnd _ | .safetySectionLoad _ | .powerUp _ | .vinWarn _ | .vinRecovery _ | .powerLoss _
  | .hibernateEntry _ | .wake _ => true
  | _ => false

/-- Every other command leaves the Sheepdog and the queue. -/
theorem exec_keepsDog {i : Instr} (h : actsOnDog i = false) (s : State) : ∃ d, exec i s = .next { s with die := d } := by
  cases i
  case safetyCycle | ss1TimerExpiry | pairDiscrepancy | testPulseCheckpoint | outputSwitchTest | outputOffTimeout |
      diagSelfTest | srstPressBegin | srstPress | srstHeld | releaseTestEnd | heartbeat | heartbeatWindowEnd |
      safetyWordHandover | ss1StoMessage | lsafeWatchdog | sheepdogEvent | safeInputSample | offPulseStart | offPulseEnd |
      safetySectionLoad | powerUp | vinWarn | vinRecovery | powerLoss | hibernateEntry | wake =>
    exact Bool.noConfusion h
  all_goals exact ⟨_, rfl⟩


/-! What decides on the outputs. -/

/-- The two switch rows, the state of the island and the result of the release test. -/
def Dog.island (g : Dog) : BitVec 4 × BitVec 4 × Bool × Option (Bool × Nat × Nat) := (g.soA, g.soB, g.run, g.rel)

theorem foldl_keeps {α β γ : Type} (p : α → γ) {f : α → β → α} (h : ∀ a b, p (f a b) = p a) (l : List β) (a : α) :
    p (l.foldl f a) = p a := by
  induction l generalizing a with
  | nil => rfl
  | cons b l ih => rw [List.foldl_cons, ih, h]

@[simp] theorem dogFault_island (g : Dog) (c x : Nat) : (dogFault g c x).island = g.island := by
  unfold dogFault
  split <;> rfl

@[simp] theorem dogEvt_island (g : Dog) (down : Bool) (code p0 : Nat) : (dogEvt g down code p0).island = g.island := by
  unfold dogEvt
  split <;> rfl

@[simp] theorem heldOver_island (g : Dog) : (heldOver g).island = g.island := rfl

@[simp] theorem toDog_island (link : Option LinkMsg) (body : List Nat) (g : Dog) (d : Die) :
    (toDog link body g d).1.island = g.island := by
  unfold toDog
  split
  · rfl
  · dsimp only
    split <;> rfl

@[simp] theorem toDie_island (link : Option LinkMsg) (body : List Nat) (g : Dog) (d : Die) :
    (toDie link body g d).1.island = g.island := by
  unfold toDie
  dsimp only
  split <;> rfl

theorem sendAll_island (ms : List (List Nat)) (link : List (Option LinkMsg)) (g : Dog) (d : Die) :
    (sendAll ms link g d).1.island = g.island := by
  induction ms generalizing link g d with
  | nil => rfl
  | cons m ms ih => rw [sendAll, ih, toDog_island]

@[simp] theorem frameHit_island (g : Dog) (v : Vector Nat 16) (i cause : Nat) (hit : Bool) :
    (frameHit g v i cause hit).2.island = g.island := by
  unfold frameHit
  dsimp only
  split
  · rfl
  · dsimp only
    split
    · exact dogFault_island g cause i
    · rfl

theorem safeSample_island (a b : BitVec 16) (g : Dog) : (safeSample a b g).island = g.island := rfl

theorem pulseStart_island (t : Nat) (g : Dog) : (pulseStart t g).island = g.island := by
  unfold pulseStart
  split <;> rfl

theorem pulseEnd_island (t : Nat) (g : Dog) : (pulseEnd t g).island = g.island := by
  unfold pulseEnd
  split <;> rfl

theorem checkInput_island (k : Nat) (a b la lb : BitVec 16) (g : Dog) (i : Nat) :
    (match tpOf g i with
      | none => g
      | some t =>
        if t = k / 2 then
          let r := frameHit g g.stuck i 0x07 (bitOf a.toNat i || bitOf b.toNat i)
          { r.2 with stuck := r.1 }
        else
          let r := frameHit g g.short i 0x08
            ((!bitOf a.toNat i && bitOf la.toNat i) || (!bitOf b.toNat i && bitOf lb.toNat i))
          { r.2 with short := r.1 } : Dog).island = g.island := by
  split
  · rfl
  · split
    · exact frameHit_island g g.stuck i 7 _
    · exact frameHit_island g g.short i 8 _

theorem checkpoint_island (k : Nat) (tpA tpB : BitVec 4) (a b la lb : BitVec 16) (g : Dog) :
    (checkpoint k tpA tpB a b la lb g).island = g.island := by
  unfold checkpoint
  split
  · rfl
  extract_lets g1 own tpGood g2 g3 g4
  have h3 : g3.island = g.island :=
    foldl_keeps Dog.island (fun g t => by rw [apply_ite Dog.island, dogFault_island, ite_self]) _ g2
  have h4 : g4.island = g.island :=
    (foldl_keeps Dog.island (fun g i => checkInput_island k a b la lb g i) _ g3).trans h3
  clear_value g4
  split
  · exact h4
  · exact h4

theorem pairDisc_island (p : Nat) (g : Dog) : (pairDisc p g).island = g.island := by
  unfold pairDisc
  split
  · exact dogFault_island g 9 p
  · rfl

theorem switchTest_island (n : Nat) (chanB off : Bool) (g : Dog) : (switchTest n chanB off g).island = g.island := by
  unfold switchTest
  dsimp only
  rw [apply_ite Dog.island, dogFault_island, ite_self]

theorem offTimeout_island (n : Nat) (g : Dog) : (offTimeout n g).island = g.island := by
  unfold offTimeout
  split
  · exact dogFault_island g 11 n
  · rfl

theorem srstHeld_island (g : Dog) (d : Die) : (srstHeld g d).1.island = g.island := dogEvt_island _ _ _ _

theorem heartbeat_island (link : Option LinkMsg) (g : Dog) (d : Die) : (heartbeat link g d).1.island = g.island := by
  unfold heartbeat
  split
  · rfl
  · exact toDog_island link [] g d

theorem windowOver_island (g : Dog) : (windowOver g).island = g.island := by
  unfold windowOver
  split
  · rfl
  · dsimp only
    split
    · exact dogFault_island _ 2 0
    · rfl

theorem sectionLoad_island (l : SectLoad) (src : Die) (g : Dog) (d : Die) :
    (sectionLoad l src g d).1.island = g.island := by
  unfold sectionLoad
  split
  · rfl
  extract_lets r _ refuse
  have hsent : r.1.island = g.island := sendAll_island _ _ _ d
  have hrefuse : refuse.1.island = g.island := (dogFault_island _ 3 0).trans hsent
  split
  · exact hrefuse
  · extract_lets x taken
    split
    · exact hrefuse
    · show (if _ then _ else _ : Dog).island = _
      rw [apply_ite Dog.island, dogEvt_island, ite_self]
      exact hsent

theorem sectionHand_island (l : SectLoad) (g : Dog) (d : Die) : (sectionHand l g d).1.island = g.island := by
  unfold sectionHand
  split
  · exact sectionLoad_island l _ g d
  · rfl

theorem judgeStatus_island (d : Die) (g : Dog) (m : Nat × Nat × Nat × Nat × Nat × Nat) :
    (judgeStatus d g m).island = g.island := by
  unfold judgeStatus
  split
  · rfl
  split
  · rfl
  extract_lets sstat late marked judged
  split
  · rfl
  · have hjudged : judged.island = g.island := by
      show (if _ then _ else _ : Dog).island = _
      rw [apply_ite Dog.island, dogFault_island, ite_self]
      rfl
    rw [apply_ite Dog.island, dogFault_island, ite_self, hjudged]

theorem judgeBeat_island (d : Die) (msg : List Nat) (g : Dog) : (judgeBeat d msg g).island = g.island := by
  unfold judgeBeat
  extract_lets held judged aged g'
  have hheld : held.island = g.island := by
    show (if _ then _ else _ : Dog).island = _
    split <;> rfl
  have hjudged : judged.island = held.island := foldl_keeps Dog.island (judgeStatus_island d) _ held
  rw [foldl_keeps Dog.island fun g x => by rw [apply_ite Dog.island, dogFault_island, ite_self]]
  exact hjudged.trans hheld

theorem handover_island (differ : List (Fin 4 × Fin 48)) (i o : Option LinkMsg) (g : Dog) (d : Die) :
    (handover differ i o g d).1.island = g.island := by
  unfold handover
  extract_lets r judged _ _ d' bn odd noted msg sent q
  have hnoted : noted.island = g.island :=
    calc noted.island = judged.island := foldl_keeps Dog.island (fun g x => dogFault_island g 4 _) odd judged
      _ = r.1.island := judgeBeat_island ..
      _ = g.island := toDog_island ..
  have hq : q.1.island = g.island := (toDie_island o msg sent d').trans hnoted
  split
  · exact hq
  · exact hq

theorem stoMessage_island (link : Option LinkMsg) (g : Dog) (d : Die) : (stoMessage link g d).1.island = g.island := by
  unfold stoMessage
  dsimp only
  split <;> exact toDie_island _ _ g d

theorem sendEvent_island (link : Option LinkMsg) (g : Dog) (d : Die) : (sendEvent link g d).1.island = g.island := by
  unfold sendEvent
  split
  · rfl
  extract_lets held
  have hheld : held.island = g.island := by
    show (if _ then _ else _ : Dog).island = _
    rw [apply_ite Dog.island, heldOver_island, ite_self]
  split
  · exact (toDie_island ..).trans hheld
  · split
    · exact (toDie_island ..).trans hheld
    · exact hheld


/-! Commands that switch nothing on. -/

/-- A change of the Sheepdog that switches no output on, does not enter RUN, leaves RUN with every output off only, and
passes no release test. -/
structure Restrains (g g' : Dog) : Prop where
  so : ∀ n, bitOf g'.so.toNat n = true → bitOf g.so.toNat n = true
  run : g'.run = g.run ∨ (g'.run = false ∧ g'.so = 0)
  rel : ∀ x, g'.rel = some (true, x) → g.rel = some (true, x)

theorem Restrains.of_island {g g' : Dog} (h : g'.island = g.island) : Restrains g g' := by
  simp only [Dog.island, Prod.mk.injEq] at h
  obtain ⟨ha, hb, hrun, hrel⟩ := h
  exact ⟨fun n => by simp [Dog.so, ha, hb], .inl hrun, fun x => by rw [hrel]; exact id⟩

theorem Restrains.refl (g : Dog) : Restrains g g := .of_island rfl

theorem Restrains.dog0 (g : Dog) : Restrains g Machine.dog0 :=
  ⟨fun n h => by simp [Machine.dog0, Dog.so, bitOf] at h, .inr ⟨rfl, rfl⟩, fun x h => by simp [Machine.dog0] at h⟩

theorem Restrains.dogSafe {g g' : Dog} (h : Restrains g g') (hs : dogSafe g) : dogSafe g' := by
  intro hrun
  obtain heq | ⟨_, hoff⟩ := h.run
  · have hoff := hs (heq ▸ hrun)
    refine BitVec.eq_of_getLsbD_eq fun n _ => ?_
    have hn := h.so n
    rw [hoff, bitOf_eq_testBit, bitOf_eq_testBit] at hn
    simpa [BitVec.testBit_toNat] using hn
  · exact hoff

/-- The end of SS1-t takes outputs away only (R299). -/
theorem ss1Expiry_restrains (f : Nat) (g : Dog) : Restrains g (ss1Expiry f g) := by
  unfold ss1Expiry
  extract_lets x g1
  split
  · refine ⟨fun n h => ?_, .inl rfl, fun _ h => h⟩
    have hso : bitOf ((g.soA &&& outputs g1) &&& (g.soB &&& outputs g1)).toNat n = true := h
    simp only [bitOf_eq_testBit, BitVec.toNat_and, Nat.testBit_and, Bool.and_eq_true] at hso
    simp [Dog.so, bitOf_eq_testBit, hso]
  · exact .refl g

theorem srstPress_restrains (a b : Nat) (g : Dog) (d : Die) : Restrains g (srstPress a b g d).1 := by
  unfold srstPress
  extract_lets refuse pressed
  split
  · exact .refl g
  split
  · exact .of_island rfl
  split
  · exact .of_island (dogEvt_island _ _ 6 0)
  split
  · exact .of_island rfl
  · exact ⟨fun _ h => h, .inl rfl, fun _ h => absurd h nofun⟩

/-- The island's outputs without RUN (R300, R304). -/
theorem outputs_of_not_run {g : Dog} (h : g.run = false) : outputs g = 0 := by
  simp [outputs, h]


/-! The safety cycle (R304) and the release test (R310). -/

theorem seeDie_island (g : Dog) (d : Die) : (seeDie g d).island = g.island := by
  unfold seeDie
  extract_lets down g'
  have hg : g'.island = g.island := by
    show (if _ then _ else _ : Dog).island = _
    split <;> rfl
  clear_value g'
  split
  · exact (dogFault_island _ 2 0).trans hg
  · exact hg

/-- The events of further faults say nothing of the island. -/
theorem moreEvents_island (down : Bool) (word : Nat × Nat → Nat) (g : Dog) (l : List (Nat × Nat)) :
    (l.foldl (fun g x => dogEvt g down 2 (word x)) g).island = g.island :=
  foldl_keeps Dog.island (fun g x => dogEvt_island g down 2 (word x)) l g

/-- RUN after the island's table was RUN before or comes of a passed release test, and no release test passes in it. -/
def islandLaw (g g' : Dog) : Prop :=
  (g'.run = true → g.run = true ∨ ∃ x, g.rel = some (true, x)) ∧ ∀ x, g'.rel = some (true, x) → g.rel = some (true, x)

theorem islandLaw_of_island {g h g' : Dog} (hi : g'.island = h.island) (hl : islandLaw g h) : islandLaw g g' := by
  simp only [Dog.island, Prod.mk.injEq] at hi
  obtain ⟨_, _, hrun, hrel⟩ := hi
  rwa [islandLaw, hrun, hrel]

theorem islandStep_law (g : Dog) (d : Die) (seen new : List (Nat × Nat)) : islandLaw g (islandStep g d seen new).1 := by
  unfold islandStep
  extract_lets down word more g1
  have hrun1 : g1.run = g.run := rfl
  have hrel1 : g1.rel = g.rel := rfl
  clear_value g1
  have hmore : ∀ h l, (more h l).island = h.island := fun h l => moreEvents_island down word h l
  split
  case h_1 x rest =>
    split
    · refine islandLaw_of_island ((hmore _ _).trans (dogEvt_island _ _ _ _)) ⟨fun h => absurd h nofun, fun y h => ?_⟩
      exact hrel1 ▸ h
    · refine islandLaw_of_island (hmore _ _) ⟨fun h => .inl (hrun1 ▸ h), fun y h => ?_⟩
      have hf : g1.rel.filter (fun r => !r.1) = some (true, y) := h
      simp [Option.filter_eq_some_iff] at hf
  case h_2 =>
    split
    · exact ⟨fun h => .inl (hrun1 ▸ h), fun y h => absurd h nofun⟩
    split
    next x hrel =>
      exact islandLaw_of_island (dogEvt_island _ _ _ _) ⟨fun _ => .inr ⟨x, hrel1 ▸ hrel⟩, fun y h => absurd h nofun⟩
    next x hrel =>
      exact islandLaw_of_island (dogEvt_island _ _ _ _) ⟨fun h => .inl (hrun1 ▸ h), fun y h => absurd h nofun⟩
    next hrel => exact ⟨fun h => .inl (hrun1 ▸ h), fun y h => hrel1 ▸ h⟩

/-- The Sheepdog as a safety cycle finds it: the reset of the control die seen, the outputs read and the pairs judged (R288,
R295, R297, R306). -/
def cycleJudged (obs : DogObs) (g : Dog) (d : Die) : Dog :=
  let g := seeDie g d
  let low := decide (obs.vsoMv < 18000)
  { g with cycle := g.cycle + 1, test := g.test.map (· + 1), vsoLow := low,
           soRead := if low then 0 else obs.soReadA,
           pairs := Vector.ofFn fun p : Fin 8 => pairStep g p.val,
           soOffFor := Vector.ofFn fun n : Fin 4 =>
             if !bitOf g.so.toNat n.val && (bitOf obs.soReadA.toNat n.val || bitOf obs.soReadB.toNat n.val) && !low
             then vget 0 g.soOffFor n.val + 1 else 0 }

/-- The faults that a safety cycle sees, each once and in order (R303). -/
def faultsSeen (obs : DogObs) (g : Dog) : List (Nat × Nat) :=
  (g.pend ++ cycleFaults g obs).foldl (fun l x => if l.contains x then l else insFault x l) []

/-- The faults seen that the last safety cycle did not see (R304). -/
def faultsNew (obs : DogObs) (g : Dog) : List (Nat × Nat) := (faultsSeen obs g).filter fun x => !g.live.contains x

/-- The island's table of a safety cycle (R304). -/
def cycleIsland (obs : DogObs) (g : Dog) (d : Die) : Dog × Die × Bool :=
  islandStep { cycleJudged obs g d with live := faultsSeen obs (cycleJudged obs g d), pend := [] } d
    (faultsSeen obs (cycleJudged obs g d)) (faultsNew obs (cycleJudged obs g d))

/-- The Sheepdog once the functions of a safety cycle have moved on (R299), the outputs not yet driven. -/
def cycleFuns (obs : DogObs) (g : Dog) (d : Die) : Dog :=
  { (cycleIsland obs g d).1 with
    funs := (cycleIsland obs g d).1.funs.map (funStep (cycleIsland obs g d).1 (cycleIsland obs g d).2.2) }

/-- A safety cycle ends by driving the outputs (R300). -/
theorem safetyCycle_dog (obs : DogObs) (g : Dog) (d : Die) : (safetyCycle obs g d).1 =
    { cycleFuns obs g d with
      soA := outputs (cycleFuns obs g d), soB := outputs (cycleFuns obs g d), accepted := false } := rfl

theorem cycleJudged_island (obs : DogObs) (g : Dog) (d : Die) : (cycleJudged obs g d).island = g.island :=
  seeDie_island g d

theorem islandLaw_cycleIsland (obs : DogObs) (g : Dog) (d : Die) : islandLaw g (cycleIsland obs g d).1 := by
  have hlaw : islandLaw (cycleJudged obs g d) (cycleIsland obs g d).1 := islandStep_law _ d _ _
  have hi := cycleJudged_island obs g d
  simp only [Dog.island, Prod.mk.injEq] at hi
  obtain ⟨_, _, hrun, hrel⟩ := hi
  rwa [islandLaw, hrun, hrel] at hlaw

theorem safetyCycle_law (obs : DogObs) (g : Dog) (d : Die) : islandLaw g (safetyCycle obs g d).1 :=
  islandLaw_cycleIsland obs g d

theorem safetyCycle_so_of_not_run {obs : DogObs} {g : Dog} {d : Die} (h : (safetyCycle obs g d).1.run = false) :
    (safetyCycle obs g d).1.so = 0 := by
  have hout : outputs (cycleFuns obs g d) = 0 := outputs_of_not_run h
  calc (safetyCycle obs g d).1.so = outputs (cycleFuns obs g d) &&& outputs (cycleFuns obs g d) := rfl
    _ = 0 := by rw [hout]; rfl

/-- The first cause that a release test finds, in the order of R310. -/
def testFound (tp sw : Option (Fin 4)) (se : Bool) (g : Dog) : Option (Nat × Nat) :=
  let seen (cause : Nat) : Option (Nat × Nat) := g.testFault.filter fun x => x.1 == cause
  let failed (cause : Nat) (o : Option (Fin 4)) : Option (Nat × Nat) := (seen cause).or (o.map fun n => (cause, n.val))
  if !g.sectOk then some (3, 0) else if g.sinceAccept then some (2, 0)
  else (((failed 10 tp).or (failed 11 sw)).or (if se then none else some (14, 0))).or (g.testFault.or g.pend.head?)

theorem releaseEnd_of_due {g : Dog} {n : Nat} (hn : g.test = some n) (hlong : 160 ≤ n) (tp sw : Option (Fin 4)) (se : Bool) :
    releaseEnd tp sw se g = { g with
      test := none, testFault := none, rel := some ((testFound tp sw se g).isNone, (testFound tp sw se g).getD (0, 0)) } := by
  unfold releaseEnd
  simp only [hn, if_neg hlong.not_gt]
  rfl

theorem releaseEnd_of_not_due {g : Dog} (h : ∀ n, g.test = some n → n < 160) (tp sw : Option (Fin 4)) (se : Bool) :
    releaseEnd tp sw se g = g := by
  unfold releaseEnd
  split
  · rfl
  next n hn => rw [if_pos (h n hn)]

theorem testFound_eq_none_iff (tp sw : Option (Fin 4)) (se : Bool) (g : Dog) : testFound tp sw se g = none ↔
    g.sectOk = true ∧ g.sinceAccept = false ∧ tp = none ∧ sw = none ∧ se = true ∧ g.testFault = none ∧ g.pend = [] := by
  unfold testFound
  cases g.sectOk <;> cases g.sinceAccept <;> cases se <;> simp [Option.or_eq_none_iff]
  constructor
  · rintro ⟨⟨⟨-, htp⟩, -, hsw⟩, hfault, hpend⟩
    exact ⟨htp, hsw, hfault, hpend⟩
  · rintro ⟨htp, hsw, hfault, hpend⟩
    simp [htp, hsw, hfault, hpend]

/-- A release test leaves the outputs and RUN, and passes by its conditions only (R310). -/
theorem releaseEnd_restrains {tp sw : Option (Fin 4)} {se : Bool} {g : Dog}
    (h : ¬ (testFound tp sw se g = none ∧ ∃ n, g.test = some n ∧ 160 ≤ n)) : Restrains g (releaseEnd tp sw se g) := by
  by_cases hdue : ∃ n, g.test = some n ∧ 160 ≤ n
  · obtain ⟨n, hn, hlong⟩ := hdue
    rw [releaseEnd_of_due hn hlong]
    refine ⟨fun _ hso => hso, .inl rfl, fun x hrel => ?_⟩
    simp only [Option.some.injEq, Prod.mk.injEq, Option.isNone_iff_eq_none] at hrel
    exact absurd ⟨hrel.1, n, hn, hlong⟩ h
  · rw [releaseEnd_of_not_due fun n hn => by_contra fun hlt => hdue ⟨n, hn, by omega⟩]
    exact .refl g

theorem releaseEnd_so_run (tp sw : Option (Fin 4)) (se : Bool) (g : Dog) :
    (releaseEnd tp sw se g).so = g.so ∧ (releaseEnd tp sw se g).run = g.run := by
  by_cases hdue : ∃ n, g.test = some n ∧ 160 ≤ n
  · obtain ⟨n, hn, hlong⟩ := hdue
    rw [releaseEnd_of_due hn hlong]
    exact ⟨rfl, rfl⟩
  · rw [releaseEnd_of_not_due fun n hn => by_contra fun hlt => hdue ⟨n, hn, by omega⟩]
    exact ⟨rfl, rfl⟩

/-! Every command. -/

theorem onPower_dog {f : Dog → Die → Dog × Die} {s t : State} (h : onPower f s = .next t) :
    t.dog = (f s.dog (found s)).1 := by
  cases h
  rfl

/-- A command of the Sheepdog acts on it, or finds it without supply. -/
theorem onDog_dog {f : Dog → Die → Dog × Die} {s t : State} (h : onDog f s = .next t) :
    t.dog = s.dog ∨ t.dog = (f s.dog (found s)).1 := by
  unfold onDog at h
  split at h
  · exact .inr (onPower_dog h)
  · cases h
    exact .inl rfl

theorem onDog_restrains {f : Dog → Die → Dog × Die} {s t : State} (h : onDog f s = .next t)
    (hf : Restrains s.dog (f s.dog (found s)).1) : Restrains s.dog t.dog := by
  obtain heq | heq := onDog_dog h
  · exact heq ▸ .refl s.dog
  · rw [heq]
    exact hf

theorem onPower_restrains {f : Dog → Die → Dog × Die} {s t : State} (h : onPower f s = .next t)
    (hf : (f s.dog (found s)).1 = s.dog ∨ (f s.dog (found s)).1 = dog0) : Restrains s.dog t.dog := by
  rw [onPower_dog h]
  obtain heq | heq := hf
  · rw [heq]
    exact .refl s.dog
  · rw [heq]
    exact .dog0 s.dog

theorem withVin_restrains {mv : Nat} {f : Dog → Die → Dog × Die} {s t : State} (h : withVin mv f s = .next t)
    (hf : (f s.dog (found s)).1 = s.dog ∨ (f s.dog (found s)).1 = dog0) : Restrains s.dog t.dog := by
  unfold withVin at h
  split at h
  · exact absurd h nofun
  · exact onPower_restrains h hf

theorem powerOn_dog (mv : Nat) (g : Dog) (d : Die) : (powerOn mv g d).1 = g ∨ (powerOn mv g d).1 = dog0 := by
  unfold powerOn
  split
  · exact .inl rfl
  split
  · exact .inl rfl
  · exact .inr rfl

theorem supplyLost_dog (mv : Nat) (g : Dog) (d : Die) : (supplyLost mv g d).1 = g ∨ (supplyLost mv g d).1 = dog0 := by
  unfold supplyLost
  split
  · extract_lets d'
    split
    · exact .inr rfl
    · exact .inl rfl
  · exact .inl rfl

theorem hibernate_dog (en : Bool) (g : Dog) (d : Die) : (hibernate en g d).1 = g ∨ (hibernate en g d).1 = dog0 := by
  unfold hibernate
  extract_lets d'
  split
  · exact .inr rfl
  · exact .inl rfl

theorem wakeUp_dog (en : Bool) (g : Dog) (d : Die) : (wakeUp en g d).1 = g ∨ (wakeUp en g d).1 = dog0 := by
  unfold wakeUp
  extract_lets d'
  split
  · exact .inl rfl
  split
  · exact .inl rfl
  · exact .inr rfl

/-- The commands that may switch outputs on or pass a release test. -/
def mayRelease : Instr → Bool
  | .safetyCycle _ | .releaseTestEnd .. => true
  | _ => false

/-- No other command switches an output on, enters RUN or passes a release test, whatever the control die does (R290). -/
theorem exec_restrains {i : Instr} {s t : State} (hm : mayRelease i = false) (h : exec i s = .next t) :
    Restrains s.dog t.dog := by
  by_cases ha : actsOnDog i = false
  · obtain ⟨d, hd⟩ := exec_keepsDog ha s
    rw [hd] at h
    cases h
    exact .refl s.dog
  cases i
  case safetyCycle | releaseTestEnd => exact Bool.noConfusion hm
  case ss1TimerExpiry f => exact onDog_restrains h (ss1Expiry_restrains _ _)
  case pairDiscrepancy p => exact onDog_restrains h (.of_island (pairDisc_island _ _))
  case testPulseCheckpoint => exact onDog_restrains h (.of_island (checkpoint_island ..))
  case outputSwitchTest => exact onDog_restrains h (.of_island (switchTest_island ..))
  case outputOffTimeout => exact onDog_restrains h (.of_island (offTimeout_island ..))
  case diagSelfTest a b =>
    exact onDog_restrains h (.of_island (by rw [apply_ite Dog.island, dogFault_island, ite_self]))
  case srstPressBegin => exact onDog_restrains h (.of_island rfl)
  case srstPress => exact onDog_restrains h (srstPress_restrains ..)
  case srstHeld => exact onDog_restrains h (.of_island (srstHeld_island ..))
  case heartbeat => exact onDog_restrains (s := arrived s 1) h (.of_island (heartbeat_island ..))
  case heartbeatWindowEnd => exact onDog_restrains h (.of_island (windowOver_island ..))
  case safetyWordHandover => exact onDog_restrains (s := handed s) h (.of_island (handover_island ..))
  case ss1StoMessage => exact onDog_restrains (s := arrived s 1) h (.of_island (stoMessage_island ..))
  case lsafeWatchdog seg slot =>
    exact onDog_restrains h
      (.of_island (foldl_keeps Dog.island (fun g x => by rw [apply_ite Dog.island, dogFault_island, ite_self]) _ _))
  case sheepdogEvent => exact onDog_restrains (s := arrived s 1) h (.of_island (sendEvent_island ..))
  case safeInputSample => exact onDog_restrains h (.of_island (safeSample_island ..))
  case offPulseStart => exact onDog_restrains h (.of_island (pulseStart_island ..))
  case offPulseEnd => exact onDog_restrains h (.of_island (pulseEnd_island ..))
  case safetySectionLoad => exact onDog_restrains h (.of_island (sectionHand_island ..))
  case powerUp => exact withVin_restrains h (powerOn_dog ..)
  case vinWarn | vinRecovery => exact withVin_restrains h (.inl rfl)
  case powerLoss => exact withVin_restrains h (supplyLost_dog ..)
  case hibernateEntry => exact onPower_restrains h (hibernate_dog ..)
  case wake => exact onPower_restrains h (wakeUp_dog ..)
  all_goals exact absurd rfl ha

/-- An output that is off and stays within those that were on is not one that comes on. -/
theorem not_comes_on {x y : BitVec 4} (h : ∀ n, bitOf y.toNat n = true → bitOf x.toNat n = true) {n : Nat}
    (hoff : bitOf x.toNat n = false) : bitOf y.toNat n ≠ true := fun hon => by
  rw [h n hon] at hoff
  exact absurd hoff nofun

theorem exec_dogSafe {i : Instr} {s t : State} (hs : dogSafe s.dog) (h : exec i s = .next t) : dogSafe t.dog := by
  by_cases hm : mayRelease i = false
  · exact (exec_restrains hm h).dogSafe hs
  cases i
  case safetyCycle obs =>
    obtain heq | heq := onDog_dog (f := safetyCycle obs) (s := s) h
    · exact heq ▸ hs
    · rw [heq]
      exact safetyCycle_so_of_not_run
  case releaseTestEnd tp sw se =>
    obtain heq | heq := onDog_dog (f := fun g d => (releaseEnd tp sw se g, d)) (s := s) h
    · exact heq ▸ hs
    · obtain ⟨hso, hrun⟩ := releaseEnd_so_run tp sw se s.dog
      rw [heq, dogSafe, hso, hrun]
      exact hs
  all_goals exact absurd rfl hm

/-- Settles O57: a command restrains the outputs, or is a safety cycle, which drives none outside RUN, or a release test, which
leaves outputs and RUN alone. -/
theorem stepsKeepOutputsOff : Obligations.StepsKeepOutputsOff := by
  unfold Obligations.StepsKeepOutputsOff
  intro s t hs h
  unfold step at h
  split at h
  · cases h
    unfold idleCycle
    split <;> exact hs
  next c rest _ => exact exec_dogSafe (i := c) (s := { s with pending := rest }) hs h

/-- Settles O58: every command but a safety cycle and a release test restrains the Sheepdog; the safety cycle follows the
island's table, and the release test is passed by the conditions of R310 only. -/
theorem onlyTheSheepdogReleases : Obligations.OnlyTheSheepdogReleases := by
  unfold Obligations.OnlyTheSheepdogReleases
  intro i s t h
  by_cases hm : mayRelease i = false
  · obtain ⟨hso, hrun, hrel⟩ := exec_restrains hm h
    refine ⟨fun n _ hoff hon => absurd hon (not_comes_on hso hoff), fun hoff hon => ?_, fun ⟨x, hx⟩ => .inl ⟨x, hrel x hx⟩⟩
    obtain heq | ⟨heq, _⟩ := hrun <;> simp [heq, hoff] at hon
  cases i
  case safetyCycle obs =>
    obtain heq | heq := onDog_dog (f := safetyCycle obs) (s := s) h
    · rw [heq]
      refine ⟨fun n _ hoff hon => ?_, fun hoff hon => ?_, .inl⟩
      · rw [hoff] at hon; exact absurd hon nofun
      · rw [hoff] at hon; exact absurd hon nofun
    · obtain ⟨hrun, hrel⟩ := safetyCycle_law obs s.dog (found s)
      rw [heq]
      refine ⟨fun n _ _ hon => ⟨⟨obs, rfl⟩, ?_⟩, fun hoff hon => ⟨⟨obs, rfl⟩, ?_⟩, fun ⟨x, hx⟩ => .inl ⟨x, hrel x hx⟩⟩
      · by_contra hrun'
        rw [safetyCycle_so_of_not_run (by simpa using hrun')] at hon
        simp [bitOf] at hon
      · exact (hrun hon).resolve_left (by simp [hoff])
  case releaseTestEnd tp sw se =>
    obtain heq | heq := onDog_dog (f := fun g d => (releaseEnd tp sw se g, d)) (s := s) h
    · rw [heq]
      refine ⟨fun n _ hoff hon => ?_, fun hoff hon => ?_, .inl⟩
      · rw [hoff] at hon; exact absurd hon nofun
      · rw [hoff] at hon; exact absurd hon nofun
    · obtain ⟨hso, hrun⟩ := releaseEnd_so_run tp sw se s.dog
      rw [heq]
      refine ⟨fun n _ hoff hon => ?_, fun hoff hon => ?_, fun ⟨x, hx⟩ => ?_⟩
      · rw [hso, hoff] at hon; exact absurd hon nofun
      · rw [hrun, hoff] at hon; exact absurd hon nofun
      · by_cases hpass : testFound tp sw se s.dog = none ∧ ∃ n, s.dog.test = some n ∧ 160 ≤ n
        · obtain ⟨hnone, hdue⟩ := hpass
          obtain ⟨hsect, hsince, rfl, rfl, rfl, hfault, hpend⟩ := (testFound_eq_none_iff ..).1 hnone
          exact .inr ⟨rfl, hsect, hsince, hfault, hpend, hdue⟩
        · exact .inl ⟨x, (releaseEnd_restrains hpass).rel x hx⟩
  all_goals exact absurd rfl hm

/-! Completion. -/

theorem onPower_completes (f : Dog → Die → Dog × Die) (s : State) :
    ∃ t, onPower f s = .next t ∧ t.pending = s.pending := ⟨_, rfl, rfl⟩

theorem onDog_completes (f : Dog → Die → Dog × Die) (s : State) : ∃ t, onDog f s = .next t ∧ t.pending = s.pending := by
  unfold onDog
  split
  · exact onPower_completes f s
  · exact ⟨s, rfl, rfl⟩

/-- A command that brings a VIN completes up to the absolute maximum rating (R377, R401). -/
theorem withVin_cases (mv : Nat) (f : Dog → Die → Dog × Die) (s : State) :
    (∃ t, withVin mv f s = .next t ∧ t.pending = s.pending) ∨
      (45000 < mv ∧ withVin mv f s = .fault .ratingExceeded) := by
  unfold withVin
  split
  next h => exact .inr ⟨h, rfl⟩
  next => exact .inl (onPower_completes f s)

/-- Settles O55: a command of the control die completes by its shape, one of the Sheepdog with or without supply, and one that
brings a VIN unless that is above the rating. -/
theorem everyCommandCompletes : Obligations.EveryCommandCompletes := by
  unfold Obligations.EveryCommandCompletes
  intro i s
  by_cases ha : actsOnDog i = false
  · obtain ⟨d, hd⟩ := exec_keepsDog ha s
    exact .inl ⟨_, hd, rfl⟩
  cases i
  case powerUp mv =>
    exact (withVin_cases mv (powerOn mv) s).imp_right fun ⟨h, hf⟩ => ⟨⟨mv, h, .inl rfl⟩, hf⟩
  case vinWarn mv =>
    exact (withVin_cases mv (fun g d => (g, vinFalls d mv)) s).imp_right fun ⟨h, hf⟩ => ⟨⟨mv, h, .inr (.inl rfl)⟩, hf⟩
  case vinRecovery mv =>
    exact (withVin_cases mv (fun g d => (g, vinRises d mv)) s).imp_right fun ⟨h, hf⟩ =>
      ⟨⟨mv, h, .inr (.inr (.inl rfl))⟩, hf⟩
  case powerLoss mv =>
    exact (withVin_cases mv (supplyLost mv) s).imp_right fun ⟨h, hf⟩ => ⟨⟨mv, h, .inr (.inr (.inr rfl))⟩, hf⟩
  case hibernateEntry | wake => exact .inl (onPower_completes _ s)
  case heartbeat | ss1StoMessage | sheepdogEvent => exact .inl (onDog_completes _ (arrived s 1))
  case safetyWordHandover => exact .inl (onDog_completes _ (handed s))
  case safetyCycle | ss1TimerExpiry | pairDiscrepancy | testPulseCheckpoint | outputSwitchTest | outputOffTimeout |
      diagSelfTest | srstPressBegin | srstPress | srstHeld | releaseTestEnd | heartbeatWindowEnd | lsafeWatchdog |
      safeInputSample | offPulseStart | offPulseEnd | safetySectionLoad =>
    exact .inl (onDog_completes _ s)
  all_goals exact absurd rfl ha

/-- Settles O53: by the definition of a step and of the table's decoder, which spells no command. -/
theorem stepRunsFrontCommand : Obligations.StepRunsFrontCommand := by
  unfold Obligations.StepRunsFrontCommand
  refine ⟨fun c rest s h => ?front, fun s n w => ⟨rfl, rfl⟩⟩
  case front => rw [step, h]

theorem engH_reset {e : Nat} (h : e < 16) : engH State.reset.die e = engine0 := by
  have hrep : vget engine0 (Vector.replicate 16 engine0) e = engine0 := by simp [vget, h]
  exact hrep

/-- Settles O56: the reset state is one closed value, so each clause is its evaluation; the engines are sixteen copies of one. -/
theorem resetState : Obligations.ResetState := by
  unfold Obligations.ResetState
  refine ⟨rfl, rfl, rfl, rfl, rfl, fun _ => rfl, ?_⟩
  have hregs : getReg State.reset.die Reg.GLB_ID = 0x7128 ∧ getReg State.reset.die Reg.GLB_RST_CAUSE = 1 ∧
      fld State.reset.die Reg.LOG_EPOCH_EPOCH = 1 ∧ getReg State.reset.die Reg.PWR_VINMIN = 0xFFFF ∧
      fld State.reset.die Reg.PWR_VWARN_VWARN = 57 ∧ flag State.reset.die Reg.HST_STAT_READY = false ∧
      fld State.reset.die Reg.HST_VER_SEL_VER = 0x10 := by decide
  have hbeat : fld State.reset.die Reg.BEAT_PERIOD_VALUE = 250000 ∧ fld State.reset.die Reg.BEAT_IDL_VALUE = 125000 ∧
      fld State.reset.die Reg.BEAT_OPH_VALUE = 187500 ∧ fld State.reset.die Reg.BEAT_FCL_VALUE = 237500 := by decide
  obtain ⟨hid, hcause, hepoch, hvin, hwarn, hready, hver⟩ := hregs
  obtain ⟨hperiod, hidl, hoph, hfcl⟩ := hbeat
  exact ⟨hid, hcause, hepoch, hvin, hwarn, hready, hver, hperiod, hidl, hoph, hfcl, by decide, by decide, by decide,
    by decide, rfl, by decide, by decide, rfl, fun e => engH_reset⟩

end Sys2Proof.Machine
end

section
/-! PROOFS. What a command leaves of the control die: the parts it keeps, and how a command of the die or of the Sheepdog ends. -/

namespace Sys2Proof.Machine

open Sys2Proof

/-! Parts kept. -/

/-- Every part but those named is the same. -/
def Keeps (ps : List Part) (c d : Die) : Prop := ∀ p, p ∉ ps → p.same c d

theorem same_refl (p : Part) (d : Die) : p.same d d := by
  cases p
  case held => exact ⟨rfl, rfl, rfl⟩
  case stp => exact ⟨rfl, rfl⟩
  all_goals rfl

theorem same_trans {p : Part} {c d e : Die} (h : p.same c d) (h' : p.same d e) : p.same c e := by
  cases p
  case held =>
    obtain ⟨h1, h2, h3⟩ := h
    obtain ⟨h1', h2', h3'⟩ := h'
    exact ⟨h1'.trans h1, h2'.trans h2, h3'.trans h3⟩
  case stp =>
    obtain ⟨h1, h2⟩ := h
    obtain ⟨h1', h2'⟩ := h'
    exact ⟨h1'.trans h1, h2'.trans h2⟩
  all_goals exact Eq.trans h' h

/-- The interrupt messages and their hold-off are of no part. -/
theorem same_withIrq (p : Part) (d : Die) (m w : List Nat) (e : Option Nat) (b : Bool) :
    p.same d { d with host := { d.host with irqMsgs := m, msixWait := w, holdEnd := e, holdPend := b } } := by
  cases p
  case held => exact ⟨rfl, rfl, rfl⟩
  case stp => exact ⟨rfl, rfl⟩
  all_goals rfl

@[simp] theorem Keeps.refl (ps : List Part) (d : Die) : Keeps ps d d := fun p _ => same_refl p d

theorem Keeps.trans {ps : List Part} {c d e : Die} (h : Keeps ps c d) (h' : Keeps ps d e) : Keeps ps c e :=
  fun p hp => same_trans (h p hp) (h' p hp)

theorem same_symm {p : Part} {c d : Die} (h : p.same c d) : p.same d c := by
  cases p
  case held =>
    obtain ⟨h1, h2, h3⟩ := h
    exact ⟨h1.symm, h2.symm, h3.symm⟩
  case stp =>
    obtain ⟨h1, h2⟩ := h
    exact ⟨h1.symm, h2.symm⟩
  all_goals exact Eq.symm h

/-- An operation that keeps every part but those named does not matter to what is kept. -/
theorem Keeps.iff_of {ps : List Part} {c d e : Die} (h : Keeps ps d e) : Keeps ps c e ↔ Keeps ps c d :=
  ⟨fun hc p hp => same_trans (hc p hp) (same_symm (h p hp)), fun hc => hc.trans h⟩

theorem Keeps.mono {ps qs : List Part} {c d : Die} (h : Keeps ps c d) (hsub : ∀ p ∈ ps, p ∈ qs) : Keeps qs c d :=
  fun p hp => h p fun hm => hp (hsub p hm)

theorem keeps_irqSettle (ps : List Part) (c d : Die) : Keeps ps d (irqSettle c d) := by
  obtain ⟨m, w, e, b, h⟩ := irqSettle_eq c d
  rw [h]
  exact fun p _ => same_withIrq p d m w e b

theorem keeps_found (ps : List Part) (s : State) : Keeps ps s.die (found s) :=
  fun p _ => same_withIrq p s.die [] s.die.host.msixWait s.die.host.holdEnd s.die.host.holdPend

/-- What the effect of a command keeps, the command keeps. -/
theorem Keeps.command {ps : List Part} {s : State} {d : Die} (h : Keeps ps (found s) d) :
    Keeps ps s.die (irqSettle s.die d) :=
  ((keeps_found ps s).trans h).trans (keeps_irqSettle ps s.die d)

/-! What each operation on the die keeps: every part but its own. -/

theorem keeps_ite {ps : List Part} {q : Prop} [Decidable q] {c x y : Die} :
    Keeps ps c (if q then x else y) ↔ if q then Keeps ps c x else Keeps ps c y := by
  split <;> rfl

/-- Two states of the die that differ in one part, which need not be kept, keep the same. -/
theorem Keeps.iff_of_part {ps : List Part} {q : Part} {c d e : Die} (hq : q ∈ ps) (h : ∀ p, p ≠ q → p.same d e) :
    Keeps ps c e ↔ Keeps ps c d :=
  Keeps.iff_of fun p hp => h p fun heq => hp (heq ▸ hq)

section Fields

variable {ps : List Part} (c d : Die)

@[simp] theorem keeps_regs (h : .regs ∈ ps) (x) : Keeps ps c { d with regs := x } ↔ Keeps ps c d :=
  Keeps.iff_of_part h fun p _ => by cases p <;> simp_all [Part.same]

@[simp] theorem keeps_held (h : .held ∈ ps) (x) : Keeps ps c { d with held := x } ↔ Keeps ps c d :=
  Keeps.iff_of_part h fun p _ => by cases p <;> simp_all [Part.same]

@[simp] theorem keeps_heldLow (h : .held ∈ ps) (x) : Keeps ps c { d with heldLow := x } ↔ Keeps ps c d :=
  Keeps.iff_of_part h fun p _ => by cases p <;> simp_all [Part.same]

@[simp] theorem keeps_land (h : .held ∈ ps) (x) : Keeps ps c { d with land := x } ↔ Keeps ps c d :=
  Keeps.iff_of_part h fun p _ => by cases p <;> simp_all [Part.same]

@[simp] theorem keeps_axLog (h : .axLog ∈ ps) (x) : Keeps ps c { d with axLog := x } ↔ Keeps ps c d :=
  Keeps.iff_of_part h fun p _ => by cases p <;> simp_all [Part.same]

@[simp] theorem keeps_snap (h : .snap ∈ ps) (x) : Keeps ps c { d with snap := x } ↔ Keeps ps c d :=
  Keeps.iff_of_part h fun p _ => by cases p <;> simp_all [Part.same]

@[simp] theorem keeps_tb (h : .tb ∈ ps) (x) : Keeps ps c { d with tb := x } ↔ Keeps ps c d :=
  Keeps.iff_of_part h fun p _ => by cases p <;> simp_all [Part.same]

@[simp] theorem keeps_eng (h : .eng ∈ ps) (x) : Keeps ps c { d with eng := x } ↔ Keeps ps c d :=
  Keeps.iff_of_part h fun p _ => by cases p <;> simp_all [Part.same]

@[simp] theorem keeps_mem (h : .mem ∈ ps) (x) : Keeps ps c { d with mem := x } ↔ Keeps ps c d :=
  Keeps.iff_of_part h fun p _ => by cases p <;> simp_all [Part.same]

@[simp] theorem keeps_knl (h : .knl ∈ ps) (x) : Keeps ps c { d with knl := x } ↔ Keeps ps c d :=
  Keeps.iff_of_part h fun p _ => by cases p <;> simp_all [Part.same]

@[simp] theorem keeps_axes (h : .axes ∈ ps) (x) : Keeps ps c { d with axes := x } ↔ Keeps ps c d :=
  Keeps.iff_of_part h fun p _ => by cases p <;> simp_all [Part.same]

@[simp] theorem keeps_gear (h : .gear ∈ ps) (x) : Keeps ps c { d with gear := x } ↔ Keeps ps c d :=
  Keeps.iff_of_part h fun p _ => by cases p <;> simp_all [Part.same]

@[simp] theorem keeps_mst (h : .mst ∈ ps) (x) : Keeps ps c { d with mst := x } ↔ Keeps ps c d :=
  Keeps.iff_of_part h fun p _ => by cases p <;> simp_all [Part.same]

@[simp] theorem keeps_cap (h : .cap ∈ ps) (x) : Keeps ps c { d with cap := x } ↔ Keeps ps c d :=
  Keeps.iff_of_part h fun p _ => by cases p <;> simp_all [Part.same]

@[simp] theorem keeps_stp (h : .stp ∈ ps) (x) : Keeps ps c { d with stp := x } ↔ Keeps ps c d :=
  Keeps.iff_of_part h fun p _ => by cases p <;> simp_all [Part.same]

@[simp] theorem keeps_stpClk (h : .stp ∈ ps) (x) : Keeps ps c { d with stpClk := x } ↔ Keeps ps c d :=
  Keeps.iff_of_part h fun p _ => by cases p <;> simp_all [Part.same]

@[simp] theorem keeps_grp (h : .grp ∈ ps) (x) : Keeps ps c { d with grp := x } ↔ Keeps ps c d :=
  Keeps.iff_of_part h fun p _ => by cases p <;> simp_all [Part.same]

@[simp] theorem keeps_segs (h : .segs ∈ ps) (x) : Keeps ps c { d with segs := x } ↔ Keeps ps c d :=
  Keeps.iff_of_part h fun p _ => by cases p <;> simp_all [Part.same]

@[simp] theorem keeps_nodes (h : .nodes ∈ ps) (x) : Keeps ps c { d with nodes := x } ↔ Keeps ps c d :=
  Keeps.iff_of_part h fun p _ => by cases p <;> simp_all [Part.same]

@[simp] theorem keeps_trk (h : .trk ∈ ps) (x) : Keeps ps c { d with trk := x } ↔ Keeps ps c d :=
  Keeps.iff_of_part h fun p _ => by cases p <;> simp_all [Part.same]

@[simp] theorem keeps_can (h : .can ∈ ps) (x) : Keeps ps c { d with can := x } ↔ Keeps ps c d :=
  Keeps.iff_of_part h fun p _ => by cases p <;> simp_all [Part.same]

@[simp] theorem keeps_host (h : .host ∈ ps) (x) : Keeps ps c { d with host := x } ↔ Keeps ps c d :=
  Keeps.iff_of_part h fun p _ => by cases p <;> simp_all [Part.same]

@[simp] theorem keeps_boot (h : .boot ∈ ps) (x) : Keeps ps c { d with boot := x } ↔ Keeps ps c d :=
  Keeps.iff_of_part h fun p _ => by cases p <;> simp_all [Part.same]

@[simp] theorem keeps_lgb (h : .lgb ∈ ps) (x) : Keeps ps c { d with lgb := x } ↔ Keeps ps c d :=
  Keeps.iff_of_part h fun p _ => by cases p <;> simp_all [Part.same]

@[simp] theorem keeps_tap (h : .tap ∈ ps) (x) : Keeps ps c { d with tap := x } ↔ Keeps ps c d :=
  Keeps.iff_of_part h fun p _ => by cases p <;> simp_all [Part.same]

@[simp] theorem keeps_dogIo (h : .dogIo ∈ ps) (x) : Keeps ps c { d with dogIo := x } ↔ Keeps ps c d :=
  Keeps.iff_of_part h fun p _ => by cases p <;> simp_all [Part.same]

@[simp] theorem keeps_pwr (h : .pwr ∈ ps) (x) : Keeps ps c { d with pwr := x } ↔ Keeps ps c d :=
  Keeps.iff_of_part h fun p _ => by cases p <;> simp_all [Part.same]

@[simp] theorem keeps_straps (h : .straps ∈ ps) (x) : Keeps ps c { d with straps := x } ↔ Keeps ps c d :=
  Keeps.iff_of_part h fun p _ => by cases p <;> simp_all [Part.same]

@[simp] theorem keeps_inReset (h : .inReset ∈ ps) (x) : Keeps ps c { d with inReset := x } ↔ Keeps ps c d :=
  Keeps.iff_of_part h fun p _ => by cases p <;> simp_all [Part.same]

@[simp] theorem keeps_fresh (h : .fresh ∈ ps) (x) : Keeps ps c { d with fresh := x } ↔ Keeps ps c d :=
  Keeps.iff_of_part h fun p _ => by cases p <;> simp_all [Part.same]

end Fields

/-! The shared operations write one part each. -/

section Operations

variable {ps : List Part} (c d : Die)

@[simp] theorem keeps_putReg (h : .regs ∈ ps) (o : Nat) (w : Word) : Keeps ps c (putReg d o w) ↔ Keeps ps c d :=
  keeps_regs c d h _

@[simp] theorem keeps_setFld (h : .regs ∈ ps) (f : Fld) (v : Nat) : Keeps ps c (setFld d f v) ↔ Keeps ps c d :=
  keeps_regs c d h _

@[simp] theorem keeps_setFlag (h : .regs ∈ ps) (f : Fld) : Keeps ps c (setFlag d f) ↔ Keeps ps c d :=
  keeps_regs c d h _

@[simp] theorem keeps_putFlag (h : .regs ∈ ps) (f : Fld) (b : Bool) : Keeps ps c (putFlag d f b) ↔ Keeps ps c d :=
  keeps_regs c d h _

@[simp] theorem keeps_incReg (h : .regs ∈ ps) (o : Nat) : Keeps ps c (incReg d o) ↔ Keeps ps c d :=
  keeps_regs c d h _

@[simp] theorem keeps_incFld (h : .regs ∈ ps) (f : Fld) : Keeps ps c (incFld d f) ↔ Keeps ps c d :=
  keeps_regs c d h _

@[simp] theorem keeps_irqSet (h : .regs ∈ ps) (b : Nat) : Keeps ps c (irqSet d b) ↔ Keeps ps c d :=
  keeps_regs c d h _

@[simp] theorem keeps_axNote (h : .axLog ∈ ps) (x : AxWrite) : Keeps ps c (axNote d x) ↔ Keeps ps c d :=
  keeps_axLog c d h _

@[simp] theorem keeps_updTb (h : .tb ∈ ps) (f : Timebase → Timebase) : Keeps ps c (updTb d f) ↔ Keeps ps c d :=
  keeps_tb c d h _

@[simp] theorem keeps_updEng (h : .eng ∈ ps) (e : Nat) (f : Engine → Engine) : Keeps ps c (updEng d e f) ↔ Keeps ps c d :=
  keeps_eng c d h _

@[simp] theorem keeps_updKnl (h : .knl ∈ ps) (f : Kennel → Kennel) : Keeps ps c (updKnl d f) ↔ Keeps ps c d :=
  keeps_knl c d h _

@[simp] theorem keeps_updAx (h : .axes ∈ ps) (a : Nat) (f : AxisHid → AxisHid) : Keeps ps c (updAx d a f) ↔ Keeps ps c d :=
  keeps_axes c d h _

@[simp] theorem keeps_updGear (h : .gear ∈ ps) (a : Nat) (f : GearSt → GearSt) : Keeps ps c (updGear d a f) ↔ Keeps ps c d :=
  keeps_gear c d h _

@[simp] theorem keeps_updMst (h : .mst ∈ ps) (f : Master → Master) : Keeps ps c (updMst d f) ↔ Keeps ps c d :=
  keeps_mst c d h _

@[simp] theorem keeps_updCap (h : .cap ∈ ps) (f : Capture → Capture) : Keeps ps c (updCap d f) ↔ Keeps ps c d :=
  keeps_cap c d h _

@[simp] theorem keeps_updChan (h : .cap ∈ ps) (n : Nat) (f : Chan → Chan) : Keeps ps c (updChan d n f) ↔ Keeps ps c d :=
  keeps_cap c d h _

@[simp] theorem keeps_updMark (h : .cap ∈ ps) (n : Nat) (f : MarkIn → MarkIn) : Keeps ps c (updMark d n f) ↔ Keeps ps c d :=
  keeps_cap c d h _

@[simp] theorem keeps_updStp (h : .stp ∈ ps) (n : Nat) (f : StepCh → StepCh) : Keeps ps c (updStp d n f) ↔ Keeps ps c d :=
  keeps_stp c d h _

@[simp] theorem keeps_updGrp (h : .grp ∈ ps) (g : Nat) (f : StepGrp → StepGrp) : Keeps ps c (updGrp d g f) ↔ Keeps ps c d :=
  keeps_grp c d h _

@[simp] theorem keeps_updSeg (h : .segs ∈ ps) (n : Nat) (f : Seg → Seg) : Keeps ps c (updSeg d n f) ↔ Keeps ps c d :=
  keeps_segs c d h _

@[simp] theorem keeps_updNode (h : .nodes ∈ ps) (n i : Nat) (f : Node → Node) : Keeps ps c (updNode d n i f) ↔ Keeps ps c d :=
  keeps_nodes c d h _

@[simp] theorem keeps_updTrk (h : .trk ∈ ps) (f : Trunk → Trunk) : Keeps ps c (updTrk d f) ↔ Keeps ps c d :=
  keeps_trk c d h _

@[simp] theorem keeps_updTport (h : .trk ∈ ps) (p : Nat) (f : TPort → TPort) : Keeps ps c (updTport d p f) ↔ Keeps ps c d :=
  keeps_trk c d h _

@[simp] theorem keeps_holdReqs (h : .trk ∈ ps) (rs : List HostReq) : Keeps ps c (holdReqs d rs) ↔ Keeps ps c d :=
  keeps_trk c d h _

@[simp] theorem keeps_updCan (h : .can ∈ ps) (n : Nat) (f : CanHid → CanHid) : Keeps ps c (updCan d n f) ↔ Keeps ps c d :=
  keeps_can c d h _

@[simp] theorem keeps_updHost (h : .host ∈ ps) (f : HostSt → HostSt) : Keeps ps c (updHost d f) ↔ Keeps ps c d :=
  keeps_host c d h _

@[simp] theorem keeps_updCmds (h : .host ∈ ps) (p : Cmd → Bool) (f : Cmd → Cmd) : Keeps ps c (updCmds d p f) ↔ Keeps ps c d :=
  keeps_host c d h _

@[simp] theorem keeps_updBoot (h : .boot ∈ ps) (f : Boot → Boot) : Keeps ps c (updBoot d f) ↔ Keeps ps c d :=
  keeps_boot c d h _

@[simp] theorem keeps_updPwr (h : .pwr ∈ ps) (f : Power → Power) : Keeps ps c (updPwr d f) ↔ Keeps ps c d :=
  keeps_pwr c d h _

@[simp] theorem keeps_dogSticky (h : .dogIo ∈ ps) (b : Nat) : Keeps ps c (dogSticky d b) ↔ Keeps ps c d :=
  keeps_dogIo c d h _

@[simp] theorem keeps_put64 (h : .regs ∈ ps) (o x : Nat) : Keeps ps c (put64 d o x) ↔ Keeps ps c d := by
  rw [put64, keeps_putReg _ _ h, keeps_putReg _ _ h]

@[simp] theorem keeps_putI64 (h : .regs ∈ ps) (o : Nat) (i : Int) : Keeps ps c (putI64 d o i) ↔ Keeps ps c d :=
  keeps_put64 c d h o _

@[simp] theorem keeps_dropHeld (h : .held ∈ ps) (o : Nat) : Keeps ps c (dropHeld d o) ↔ Keeps ps c d :=
  Keeps.iff_of_part h fun p hp => by cases p <;> simp_all [Part.same, dropHeld]

end Operations

/-! Commands of the control die. -/

/-- A command of the control die ends with its effect on the die, settled. -/
theorem ends_of_onDie {i : Instr} {s : State} {f : Die → Die} {P : State → Prop} (hi : exec i s = onDie f s)
    (h : P { s with die := irqSettle s.die (f (found s)) }) : ends i s P := ⟨_, hi, h⟩

theorem keepsBut_command {ps : List Part} {s : State} {d : Die} (h : Keeps ps (found s) d) :
    keepsBut ps s { s with die := irqSettle s.die d } := ⟨rfl, rfl, rfl, h.command⟩

/-- A command whose effect is none keeps every part. -/
theorem ends_idle {i : Instr} {s : State} {f : Die → Die} (hi : exec i s = onDie f s) (h : f (found s) = found s)
    (ps : List Part) : ends i s (keepsBut ps s) :=
  ends_of_onDie hi (keepsBut_command (by rw [h]; exact .refl ps _))

/-- Registers that the effect leaves, the command leaves. -/
theorem regsBut_command {p : Nat → Prop} {s : State} {d : Die} (h : ∀ off, ¬ p off → getReg d off = getReg (found s) off) :
    regsBut p s { s with die := irqSettle s.die d } := fun off hoff => (getReg_irqSettle s.die d off).trans (h off hoff)

/-! Commands of the Sheepdog. -/

/-- A command of the supplied Sheepdog that drops no event: what it leaves of the Sheepdog and of the control die. -/
theorem ends_of_onDog {i : Instr} {s s' : State} {f : Dog → Die → Dog × Die} {P : State → Prop}
    (hi : exec i s = onDog f s') (hup : s'.die.pwr.up = true) (hev : (f s'.dog (found s')).1.evlost ≤ s'.dog.evlost)
    (h : P { s' with dog := (f s'.dog (found s')).1, die := irqSettle s'.die (f s'.dog (found s')).2 }) : ends i s P := by
  have hlost : ¬ s'.dog.evlost < (f s'.dog (found s')).1.evlost := hev.not_gt
  refine ⟨_, hi.trans (if_pos hup), ?_⟩
  have hdie : (if s'.dog.evlost < (f s'.dog (found s')).1.evlost then dogSticky (f s'.dog (found s')).2 11
      else (f s'.dog (found s')).2) = (f s'.dog (found s')).2 := if_neg hlost
  exact hdie.symm ▸ h

theorem dieBut_command {ps : List Part} {s : State} {g : Dog} {d : Die} (h : Keeps ps (found s) d) :
    dieBut ps s { s with dog := g, die := irqSettle s.die d } := ⟨rfl, rfl, h.command⟩

/-- A command that acts on the supplied Sheepdog alone, and drops no event. -/
theorem ends_of_dogOnly {i : Instr} {s : State} {f : Dog → Dog} {P : State → Prop} (hi : exec i s = dogOnly f s)
    (hup : s.die.pwr.up = true) (hev : (f s.dog).evlost = s.dog.evlost)
    (h : ∀ t, dieBut [] s t → t.dog = f s.dog → P t) : ends i s P :=
  ends_of_onDog hi hup hev.le (h _ (dieBut_command (.refl [] _)) rfl)

end Sys2Proof.Machine
end

section
/-! PROOFS. Loops over positions: what a fold that handles each position once leaves at a position. -/

namespace Sys2Proof.Machine

open Sys2Proof

theorem upto_succ (n : Nat) : upto (n + 1) = upto n ++ [n] := List.range_succ

theorem foldl_upto_succ {α : Type} (f : α → Nat → α) (a : α) (n : Nat) :
    (upto (n + 1)).foldl f a = f ((upto n).foldl f a) n := by
  rw [upto_succ, List.foldl_append, List.foldl_cons, List.foldl_nil]

@[simp] theorem mem_upto {i n : Nat} : i ∈ upto n ↔ i < n := List.mem_range

/-- An invariant of a loop over the positions below `n`. -/
theorem foldl_upto_induct {α : Type} {f : α → Nat → α} {a : α} (P : Nat → α → Prop) (h0 : P 0 a)
    (hs : ∀ i x, P i x → P (i + 1) (f x i)) (n : Nat) : P n ((upto n).foldl f a) := by
  induction n with
  | zero => exact h0
  | succ n ih => exact foldl_upto_succ f a n ▸ hs n _ ih

theorem bitOf_setBit_ne (x : Nat) {i j : Nat} (h : j ≠ i) : bitOf (setBit x i) j = bitOf x j := by
  simp [bitOf_eq_testBit, setBit, h.symm]

/-- A mask built bit by bit. -/
theorem bitOf_foldl_setBit (p : Nat → Bool) (n j : Nat) :
    bitOf ((upto n).foldl (fun m i => if p i then setBit m i else m) 0) j = (decide (j < n) && p j) := by
  induction n with
  | zero => simp [upto, bitOf]
  | succ n ih =>
    rw [foldl_upto_succ]
    by_cases hj : j = n
    · subst hj
      cases hp : p j <;> simp [bitOf_setBit_same, ih]
    · have hlt : j < n + 1 ↔ j < n := by omega
      rw [← decide_eq_decide] at hlt
      rw [hlt, apply_ite (bitOf · j), bitOf_setBit_ne _ hj, ite_self, ih]

theorem foldl_setBit_lt (p : Nat → Bool) (n : Nat) :
    (upto n).foldl (fun m i => if p i then setBit m i else m) 0 < 2 ^ n := by
  refine Nat.lt_pow_two_of_testBit _ fun j hj => ?_
  rw [← bitOf_eq_testBit, bitOf_foldl_setBit]
  simp [hj]

/-- A mask of `n` bits, as a word of that width. -/
theorem bitOf_maskWord (p : Nat → Bool) (n : Nat) {j : Nat} (hj : j < n) :
    bitOf (BitVec.ofNat n ((upto n).foldl (fun m i => if p i then setBit m i else m) 0)).toNat j = p j := by
  rw [BitVec.toNat_ofNat, Nat.mod_eq_of_lt (foldl_setBit_lt p n), bitOf_foldl_setBit]
  simp [hj]

/-- A loop that rewrites each element of a vector once, from its own old value. -/
theorem vget_foldl_vset {α : Type} {n : Nat} (z : α) (skip : Nat → Bool) (f : Nat → α → α) (v : Vector α n) (m j : Nat)
    (hj : j < n) :
    vget z ((upto m).foldl (fun v i => if skip i then v else vset v i (f i (vget z v i))) v) j =
      if j < m ∧ skip j = false then f j (vget z v j) else vget z v j := by
  induction m with
  | zero => simp [upto]
  | succ m ih =>
    rw [foldl_upto_succ]
    by_cases hjm : j = m
    · subst hjm
      cases hs : skip j
      · simpa [vget_vset_same _ _ _ _ hj, hs] using congrArg (f j) ih
      · simpa [hs] using ih
    · have hlt : j < m + 1 ↔ j < m := by omega
      simp only [hlt, ← ih]
      split
      · rfl
      · exact vget_vset_ne _ _ _ hjm

theorem vget_map {α β : Type} {n : Nat} (z : α) (y : β) (f : α → β) (v : Vector α n) {i : Nat} (h : i < n) :
    vget y (v.map f) i = f (vget z v i) := by
  simp [vget, h]

theorem vget_ofFn {α : Type} {n : Nat} (z : α) (f : Fin n → α) {i : Nat} (h : i < n) :
    vget z (Vector.ofFn f) i = f ⟨i, h⟩ := by
  simp [vget, h]

end Sys2Proof.Machine
end

section
/-! PROOFS. O41: what notes a fault for the next evaluation of the Sheepdog (R288, R295, R297, R299, R303, R306, R307). -/

namespace Sys2Proof.Machine

open Sys2Proof

/-! Noting a fault. -/

theorem dogFault_frame (g : Dog) (c x : Nat) : dogFault g c x = { g with pend := (dogFault g c x).pend } := by
  unfold dogFault
  split <;> rfl

theorem mem_dogFault {g : Dog} {c x : Nat} {y : Nat × Nat} :
    y ∈ (dogFault g c x).pend ↔ y ∈ g.pend ∨ y = (c, x) := by
  unfold dogFault
  split
  next h =>
    rw [List.contains_iff_mem] at h
    exact ⟨.inl, fun hy => hy.elim id fun he => he ▸ h⟩
  next => simp

@[simp] theorem dogFault_evlost (g : Dog) (c x : Nat) : (dogFault g c x).evlost = g.evlost := by
  rw [dogFault_frame]

/-- The Sheepdog `g'` is `g` with further faults noted, those of `S`. -/
def Noted (S : Nat × Nat → Prop) (g g' : Dog) : Prop :=
  g' = { g with pend := g'.pend } ∧ ∀ y, y ∈ g'.pend ↔ y ∈ g.pend ∨ S y

theorem noted_refl (g : Dog) : Noted (fun _ => False) g g := ⟨rfl, fun _ => by simp⟩

theorem noted_dogFault (g : Dog) (c x : Nat) : Noted (· = (c, x)) g (dogFault g c x) :=
  ⟨dogFault_frame g c x, fun _ => mem_dogFault⟩

theorem Noted.trans {S T : Nat × Nat → Prop} {g g' g'' : Dog} (h : Noted S g g') (h' : Noted T g' g'') :
    Noted (fun y => S y ∨ T y) g g'' := by
  obtain ⟨hf, hm⟩ := h
  obtain ⟨hf', hm'⟩ := h'
  exact ⟨by rw [hf', hf], fun y => by rw [hm', hm, or_assoc]⟩

theorem Noted.congr {S T : Nat × Nat → Prop} {g g' : Dog} (h : Noted S g g') (hst : ∀ y, S y ↔ T y) : Noted T g g' :=
  ⟨h.1, fun y => by rw [h.2, hst]⟩

theorem Noted.evlost {S : Nat × Nat → Prop} {g g' : Dog} (h : Noted S g g') : g'.evlost = g.evlost := by rw [h.1]

/-- A loop in which each element may note one fault; whether it does does not depend on the faults noted. -/
theorem noted_foldl {β : Type} {f : Dog → β → Dog} {g : Dog} {fault : β → Option (Nat × Nat)}
    (h : ∀ b g', g' = { g with pend := g'.pend } → Noted (fault b = some ·) g' (f g' b)) (l : List β) :
    Noted (fun y => ∃ b ∈ l, fault b = some y) g (l.foldl f g) := by
  suffices ∀ l g', g' = { g with pend := g'.pend } → Noted (fun y => ∃ b ∈ l, fault b = some y) g' (List.foldl f g' l) from
    this l g rfl
  intro l
  induction l with
  | nil => exact fun g' _ => (noted_refl g').congr fun y => by simp
  | cons b l ih =>
    intro g' hg'
    have hb := h b g' hg'
    have hb' : f g' b = { g with pend := (f g' b).pend } := by rw [hb.1, hg']
    exact (hb.trans (ih _ hb')).congr fun y => by simp

/-! The commands. -/

section Commands

variable {s : State} {i : Instr}

/-- A command that notes one fault and does nothing else. -/
theorem ends_noting {f : Dog → Dog} {x : Nat × Nat} (hi : exec i s = dogOnly f s) (hup : s.die.pwr.up = true)
    (hf : f s.dog = dogFault s.dog x.1 x.2) :
    ends i s fun t => dieBut [] s t ∧ x ∈ t.dog.pend ∧ (∀ y ∈ t.dog.pend, y = x ∨ y ∈ s.dog.pend) ∧
      t.dog = { s.dog with pend := t.dog.pend } := by
  refine ends_of_dogOnly hi hup (by rw [hf, dogFault_evlost]) fun t ht hdog => ?_
  rw [hf] at hdog
  rw [hdog]
  exact ⟨ht, mem_dogFault.2 (.inr rfl), fun y hy => (mem_dogFault.1 hy).symm, dogFault_frame _ _ _⟩

theorem ends_still {f : Dog → Dog} (hi : exec i s = dogOnly f s) (hup : s.die.pwr.up = true) (hf : f s.dog = s.dog) :
    ends i s fun t => dieBut [] s t ∧ t.dog = s.dog :=
  ends_of_dogOnly hi hup (by rw [hf]) fun _ ht hdog => ⟨ht, hdog.trans hf⟩

end Commands

theorem bitOf_so (g : Dog) (n : Nat) : bitOf g.so.toNat n = (bitOf g.soA.toNat n && bitOf g.soB.toNat n) := by
  simp [bitOf_eq_testBit, Dog.so]

/-- An output is on in RUN, while no function that names it holds STO (R300). -/
theorem bitOf_outputs {g : Dog} {n : Nat} (hn : n < 4) : bitOf (outputs g).toNat n = true ↔ g.run = true ∧
    ∀ f, f < 8 → bitOf (vget sfun0 g.funs f).soMask n = true → holdsSto (vget sfun0 g.funs f) = false := by
  rw [outputs, bitOf_maskWord _ 4 hn]
  simp only [Bool.and_eq_true, Bool.not_eq_true', List.any_eq_false, mem_upto, not_and, Bool.not_eq_true]
  refine and_congr_right fun _ => forall₂_congr fun f _ => ?_
  cases holdsSto (vget sfun0 g.funs f) <;> simp

theorem switchTest_of_on {g : Dog} {n : Nat} (chan : Bool) (hon : bitOf g.so.toNat n = true) (hlow : g.vsoLow = false) :
    switchTest n chan false g = dogFault g 11 n := by
  rw [bitOf_so, Bool.and_eq_true] at hon
  cases chan <;> simp [switchTest, hon, hlow]

theorem switchTest_of_readsOff (n : Nat) (chan : Bool) (g : Dog) : switchTest n chan true g = g := by
  simp [switchTest]

/-- The control die once it has sent the Sheepdog a message (R290). -/
def sentDog (d : Die) : Die := { d with dogIo := { d.dogIo with txSeq := (d.dogIo.txSeq + 1) % 65536 } }

theorem toDog_of_taken {link : Option LinkMsg} {body : List Nat} {g : Dog} {d : Die} (hdown : dieIsDown d = false)
    (h : linkTaken g.rxSeq (link.getD (linkMsg d.dogIo.txSeq body)) = true) : toDog link body g d =
      ({ g with rxSeq := some (link.getD (linkMsg d.dogIo.txSeq body)).seq }, sentDog d,
        some (link.getD (linkMsg d.dogIo.txSeq body)).body) := by
  unfold toDog
  rw [if_neg (by simp [hdown])]
  exact if_pos h

theorem toDog_of_refused {link : Option LinkMsg} {body : List Nat} {g : Dog} {d : Die} (hdown : dieIsDown d = false)
    (h : linkTaken g.rxSeq (link.getD (linkMsg d.dogIo.txSeq body)) = false) :
    toDog link body g d = (g, sentDog d, none) := by
  unfold toDog
  rw [if_neg (by simp [hdown])]
  exact if_neg (by simp [h])

@[simp] theorem keeps_sentDog {ps : List Part} (c d : Die) (h : .dogIo ∈ ps) : Keeps ps c (sentDog d) ↔ Keeps ps c d :=
  keeps_dogIo c d h _

theorem linkTaken_linkMsg {last : Option Nat} {n : Nat} {body : List Nat} : linkTaken last (linkMsg n body) = true ↔ last ≠ some n := by
  simp [linkTaken, linkMsg]

/-- A heartbeat that is taken opens the window (R306). -/
theorem heartbeat_of_taken {g : Dog} {d : Die} (hdown : dieIsDown d = false) (hcore : halted d 17 = false)
    (hseq : g.rxSeq ≠ some d.dogIo.txSeq) :
    heartbeat none g d = ({ g with hbWindow := true, rxSeq := some d.dogIo.txSeq }, sentDog d) := by
  unfold heartbeat
  rw [if_neg (by simp [hcore]), toDog_of_taken hdown (linkTaken_linkMsg.2 hseq)]
  simp only [Option.isSome_some, Bool.or_true]
  rfl

/-- A heartbeat that arrives with a bad CRC is none (R290, R306). -/
theorem heartbeat_of_bad {g : Dog} {d : Die} {m : LinkMsg} (hdown : dieIsDown d = false) (hcore : halted d 17 = false)
    (hbad : m ≠ linkMsg m.seq m.body) : heartbeat (some m) g d = (g, sentDog d) := by
  have hrefused : linkTaken g.rxSeq m = false := by simp [linkTaken, hbad]
  unfold heartbeat
  rw [if_neg (by simp [hcore]), toDog_of_refused hdown hrefused]
  simp only [Option.isSome_none, Bool.or_false]

theorem windowOver_of_lost {g : Dog} (hw : g.hbWindow = false) (hm : 1 ≤ g.hbMiss) :
    windowOver g = dogFault { g with hbMiss := 2, sinceAccept := true } 2 0 := by
  have hmin : min 2 (g.hbMiss + 1) = 2 := by omega
  simp [windowOver, hw, hmin]

/-- The slot watchdog names the slot where it is due (R307). -/
theorem noted_lsafe (d : Die) (g : Dog) (seg slot : Nat) :
    Noted (fun y => ∃ x ∈ g.slots, (if x.seg == seg && x.slot == slot && lsafeDue d g x then some (12, x.slot) else none) =
      some y) g (g.slots.foldl (fun g x =>
        if x.seg == seg && x.slot == slot && lsafeDue d g x then dogFault g 12 x.slot else g) g) := by
  refine noted_foldl (fun x g' hg' => ?_) g.slots
  have hdue : lsafeDue d g' x = lsafeDue d g x := by rw [hg']; rfl
  rw [hdue]
  split
  · exact (noted_dogFault g' 12 x.slot).congr fun y => by simp [eq_comm]
  · exact (noted_refl g').congr fun y => by simp

/-- SS1-t at its end turns its function to STO and switches off what it names (R299, R300). -/
theorem ss1Expiry_of_due {g : Dog} {f : Nat} (hd : (vget sfun0 g.funs f).decl = true) (hst : (vget sfun0 g.funs f).st = 1)
    (hleft : (vget sfun0 g.funs f).left = 0) : ss1Expiry f g =
      let g1 := { g with funs := vset g.funs f { vget sfun0 g.funs f with st := 2 } }
      { g1 with soA := g.soA &&& outputs g1, soB := g.soB &&& outputs g1 } := by
  simp [ss1Expiry, hd, hst, hleft]

/-- What the end of SS1-t switches off. -/
theorem ss1Expiry_off {g : Dog} {f n : Nat} (hf : f < 8) (hn : n < 4) (hd : (vget sfun0 g.funs f).decl = true)
    (hst : (vget sfun0 g.funs f).st = 1) (hleft : (vget sfun0 g.funs f).left = 0)
    (hm : bitOf (vget sfun0 g.funs f).soMask n = true) : bitOf (ss1Expiry f g).so.toNat n = false := by
  rw [ss1Expiry_of_due hd hst hleft, bitOf_so]
  dsimp only
  have hout : bitOf (outputs { g with funs := vset g.funs f { vget sfun0 g.funs f with st := 2 } }).toNat n = false := by
    rw [Bool.eq_false_iff, ne_eq, bitOf_outputs hn]
    rintro ⟨-, hall⟩
    have hf2 := hall f hf
    rw [vget_vset_same _ _ _ _ hf] at hf2
    have := hf2 hm
    simp [holdsSto, hd] at this
  rw [bitOf_eq_testBit] at hout ⊢
  simp [hout]

/-- Settles O41, command by command: each test is its model function at the state named. -/
theorem sheepdogFaultDetection : Obligations.SheepdogFaultDetection := by
  unfold Obligations.SheepdogFaultDetection
  intro s hup notes still
  refine ⟨fun n chan off => ⟨?_, ?_, ?_, ?_⟩, fun p => ⟨?_, ?_⟩, fun a b => ⟨?_, ?_⟩, fun hdown hcore => ⟨?_, ?_⟩, ?_, ?_, ?_,
    ?_, ?_, fun f => ⟨?_, ?_⟩⟩
  case refine_1 =>
    rintro hon rfl hlow
    exact ends_noting rfl hup (switchTest_of_on chan hon hlow)
  case refine_2 =>
    rintro rfl
    exact ends_still rfl hup (switchTest_of_readsOff n.val chan s.dog)
  case refine_3 => exact fun hoff h40 => ends_noting (x := (0x0B, n.val)) rfl hup (by simp [offTimeout, hoff, h40])
  case refine_4 => exact fun h40 => ends_still rfl hup (by simp [offTimeout, h40.not_gt])
  case refine_5 => exact fun hmode hdisc => ends_noting (x := (0x09, p.val)) rfl hup (by simp [pairDisc, pairBad, hmode, hdisc])
  case refine_6 => exact fun hdisc => ends_still rfl hup (by simp [pairDisc, pairBad, hdisc.not_gt])
  case refine_7 => exact fun hbad => ends_noting (x := (0x0E, 0)) rfl hup (by simp [hbad])
  case refine_8 => exact fun ha hb => ends_still rfl hup (by simp [ha, hb])
  case refine_9 =>
    intro hseq harr
    have hbeat := heartbeat_of_taken (g := s.dog) (d := found (arrived s 1)) hdown hcore hseq
    refine ends_of_onDog (s' := arrived s 1) rfl hup ?_ ?_ <;> rw [harr, show (arrived s 1).dog = s.dog from rfl, hbeat]
    exact ⟨dieBut_command (by simp), rfl⟩
  case refine_10 =>
    intro m hbad harr
    have hbeat := heartbeat_of_bad (g := s.dog) (d := found (arrived s 1)) hdown hcore hbad
    refine ends_of_onDog (s' := arrived s 1) rfl hup ?_ ?_ <;> rw [harr, show (arrived s 1).dog = s.dog from rfl, hbeat]
    exact ⟨dieBut_command (by simp), rfl⟩
  case refine_11 =>
    intro hcore
    have hbeat : heartbeat (arriving s 0) s.dog (found (arrived s 1)) = (s.dog, found (arrived s 1)) := if_pos hcore
    refine ends_of_onDog (s' := arrived s 1) rfl hup ?_ ?_ <;> rw [show (arrived s 1).dog = s.dog from rfl, hbeat]
    exact ⟨dieBut_command (by simp), rfl⟩
  case refine_12 =>
    intro hw
    have hover : windowOver s.dog = { s.dog with hbWindow := false, hbMiss := 0 } := if_pos hw
    exact ends_of_dogOnly rfl hup (by rw [hover]) fun t ht hdog => ⟨ht, hdog.trans hover⟩
  case refine_13 =>
    intro hw hm
    have hover : windowOver s.dog = { s.dog with hbMiss := 1 } := by simp [windowOver, hw, hm]
    exact ends_of_dogOnly rfl hup (by rw [hover]) fun t ht hdog => ⟨ht, hdog.trans hover⟩
  case refine_14 =>
    intro hw hm
    have hover := windowOver_of_lost hw hm
    refine ends_of_dogOnly rfl hup (by rw [hover, dogFault_evlost]) fun t ht hdog => ?_
    rw [hover] at hdog
    rw [hdog]
    refine ⟨ht, mem_dogFault.2 (.inr rfl), ?_⟩
    rw [dogFault_frame]
    exact ⟨rfl, rfl, rfl⟩
  case refine_15 =>
    intro seg slot x hx hseg hslot hadm hwd hquiet
    have hn := noted_lsafe (found s) s.dog seg.val slot.val
    refine ends_of_onDog (s' := s) rfl hup hn.evlost.le ?_
    refine ⟨dieBut_command (by simp), (hn.2 _).2 (.inr ⟨x, hx, ?_⟩), fun y hy => ?_, hn.1⟩
    · have hdue : lsafeDue (found s) s.dog x = true := by
        simp only [lsafeDue, hseg, Bool.and_eq_true, decide_eq_true_eq, bne_iff_ne]
        exact ⟨⟨hadm, hquiet⟩, hwd⟩
      simp [hdue, hseg, hslot]
    · obtain hy | ⟨z, -, hz⟩ := (hn.2 y).1 hy
      · exact .inr hy
      · split at hz
        next hc =>
          simp only [Bool.and_eq_true, beq_iff_eq] at hc
          exact .inl (by rw [← Option.some.inj hz, hc.1.2])
        next => exact absurd hz nofun
  case refine_16 =>
    intro hd hst hleft
    have hexp := ss1Expiry_of_due hd hst hleft
    refine ends_of_dogOnly rfl hup (by rw [hexp]) fun t ht hdog => ?_
    have hfuns : (ss1Expiry f.val s.dog).funs = vset s.dog.funs f.val { vget sfun0 s.dog.funs f.val with st := 2 } := by
      rw [hexp]
    have hrun : (ss1Expiry f.val s.dog).run = s.dog.run := by rw [hexp]
    rw [hdog]
    refine ⟨ht, ?_, fun j hj => ?_, fun n hn hm => ss1Expiry_off f.isLt hn hd hst hleft hm, hrun⟩
    · rw [hfuns, vget_vset_same _ _ _ _ f.isLt]
    · rw [hfuns, vget_vset_ne _ _ _ hj]
  case refine_17 =>
    exact fun hst => ends_still rfl hup (by simp [ss1Expiry, hst])

end Sys2Proof.Machine
end

section
/-! PROOFS. O40: the filters of the safe inputs, the off-pulses and the tests at the checkpoints (R291 to R294). -/

namespace Sys2Proof.Machine

open Sys2Proof

/-! The filters. -/

theorem siSample_same {x : SiSt} {lvl : Bool} (h : lvl = x.lvl) (hrun : x.run < 15) :
    siSample x lvl = ⟨x.on, x.lvl, x.run + 1⟩ := by
  have hmin : min 16 (x.run + 1) = x.run + 1 := by omega
  simp [siSample, h, hmin]
  omega

theorem siSample_decided {x : SiSt} {lvl : Bool} (h : lvl = x.lvl) (hrun : 15 ≤ x.run) :
    siSample x lvl = ⟨x.lvl, x.lvl, 16⟩ := by
  have hmin : min 16 (x.run + 1) = 16 := by omega
  simp [siSample, h, hmin]

theorem siSample_changed {x : SiSt} {lvl : Bool} (h : lvl ≠ x.lvl) : siSample x lvl = ⟨x.on, lvl, 1⟩ := by
  simp [siSample, h]

/-- An unmasked sample goes through its input's filter (R293). -/
theorem safeSample_siA (a b : BitVec 16) (g : Dog) {i : Nat} (hi : i < 16) :
    vget ⟨false, false, 0⟩ (safeSample a b g).siA i =
      if siMasked g i = false then siSample (vget ⟨false, false, 0⟩ g.siA i) (bitOf a.toNat i)
      else vget ⟨false, false, 0⟩ g.siA i := by
  refine (vget_foldl_vset _ (siMasked g) (fun i x => siSample x (bitOf a.toNat i)) g.siA 16 i hi).trans ?_
  simp only [hi, true_and]

theorem safeSample_siB (a b : BitVec 16) (g : Dog) {i : Nat} (hi : i < 16) :
    vget ⟨false, false, 0⟩ (safeSample a b g).siB i =
      if siMasked g i = false then siSample (vget ⟨false, false, 0⟩ g.siB i) (bitOf b.toNat i)
      else vget ⟨false, false, 0⟩ g.siB i := by
  refine (vget_foldl_vset _ (siMasked g) (fun i x => siSample x (bitOf b.toNat i)) g.siB 16 i hi).trans ?_
  simp only [hi, true_and]

/-! The off-pulses. -/

theorem testBit_pulse {t : Nat} (ht : t < 4) (j : Nat) : (BitVec.ofNat 4 (2 ^ t)).toNat.testBit j = decide (t = j) := by
  have hlt : 2 ^ t < 2 ^ 4 := Nat.pow_lt_pow_right (by decide) ht
  rw [BitVec.toNat_ofNat, Nat.mod_eq_of_lt hlt, Nat.testBit_two_pow]

theorem bitOf_or_pulse (x : BitVec 4) {t : Nat} (ht : t < 4) (j : Nat) :
    bitOf (x ||| BitVec.ofNat 4 (2 ^ t)).toNat j = (bitOf x.toNat j || decide (t = j)) := by
  rw [bitOf_eq_testBit, bitOf_eq_testBit, BitVec.toNat_or, Nat.testBit_or, testBit_pulse ht]

theorem bitOf_andNot_pulse (x : BitVec 4) {t j : Nat} (ht : t < 4) (hj : j < 4) :
    bitOf (x &&& ~~~ BitVec.ofNat 4 (2 ^ t)).toNat j = (bitOf x.toNat j && !decide (t = j)) := by
  have hp := testBit_pulse ht j
  rw [BitVec.testBit_toNat] at hp
  rw [bitOf_eq_testBit, bitOf_eq_testBit, BitVec.testBit_toNat, BitVec.testBit_toNat, BitVec.getLsbD_and,
    BitVec.getLsbD_not, hp, decide_eq_true hj, Bool.true_and]

/-! The checkpoints. -/

/-- The fault of a bad reading that the last frame had too (R294). -/
def frameFault (v : Vector Nat 16) (i cause : Nat) (hit : Bool) : Option (Nat × Nat) :=
  if hit ∧ vget 0 v i % 2 ≠ 1 ∧ vget 0 v i / 2 % 2 = 1 then some (cause, i) else none

theorem frameHit_marks (g : Dog) (v : Vector Nat 16) (cause : Nat) (hit : Bool) {i j : Nat} (h : j ≠ i) :
    vget 0 (frameHit g v i cause hit).1 j = vget 0 v j := by
  unfold frameHit
  dsimp only
  split
  · rfl
  · exact vget_vset_ne _ _ _ h

theorem frameHit_noted (g : Dog) (v : Vector Nat 16) (i cause : Nat) (hit : Bool) :
    Noted (frameFault v i cause hit = some ·) g (frameHit g v i cause hit).2 := by
  unfold frameHit frameFault
  dsimp only
  by_cases h : (!hit || decide (vget 0 v i % 2 = 1)) = true
  · rw [if_pos h]
    simp only [Bool.or_eq_true, Bool.not_eq_true', decide_eq_true_eq] at h
    exact (noted_refl g).congr fun y => by rw [if_neg (by rintro ⟨hh, hm, -⟩; simp_all)]; simp
  · rw [if_neg h]
    simp only [Bool.or_eq_true, Bool.not_eq_true', decide_eq_true_eq, not_or, Bool.not_eq_false] at h
    obtain ⟨hhit, hfresh⟩ := h
    show Noted _ g (if _ then _ else _)
    split
    next hlast =>
      rw [if_pos hlast.2.2]
      exact (noted_dogFault g cause i).congr fun y => by simp [eq_comm]
    next hlast =>
      rw [if_neg fun hc => hlast ⟨hhit, hfresh, hc⟩]
      exact (noted_refl g).congr fun y => by simp

/-- What a checkpoint does with one input (R294). -/
def checkInput (k : Nat) (a b la lb : BitVec 16) (g : Dog) (i : Nat) : Dog :=
  match tpOf g i with
  | none => g
  | some t =>
    if t = k / 2 then
      let r := frameHit g g.stuck i 0x07 (bitOf a.toNat i || bitOf b.toNat i)
      { r.2 with stuck := r.1 }
    else
      let r := frameHit g g.short i 0x08 ((!bitOf a.toNat i && bitOf la.toNat i) || (!bitOf b.toNat i && bitOf lb.toNat i))
      { r.2 with short := r.1 }

/-- The fault that a checkpoint notes for one input (R294). -/
def inputFault (k : Nat) (a b la lb : BitVec 16) (g : Dog) (i : Nat) : Option (Nat × Nat) :=
  match tpOf g i with
  | none => none
  | some t =>
    if t = k / 2 then frameFault g.stuck i 0x07 (bitOf a.toNat i || bitOf b.toNat i)
    else frameFault g.short i 0x08 ((!bitOf a.toNat i && bitOf la.toNat i) || (!bitOf b.toNat i && bitOf lb.toNat i))

/-- The inputs below `n` are checked: marks and faults are all that changed, and the marks of the other inputs stand. -/
structure InputsChecked (k : Nat) (a b la lb : BitVec 16) (g : Dog) (n : Nat) (x : Dog) : Prop where
  frame : x = { g with stuck := x.stuck, short := x.short, pend := x.pend }
  marks : ∀ i, n ≤ i → vget 0 x.stuck i = vget 0 g.stuck i ∧ vget 0 x.short i = vget 0 g.short i
  faults : ∀ y, y ∈ x.pend ↔ y ∈ g.pend ∨ ∃ i, i < n ∧ inputFault k a b la lb g i = some y

section CheckInput

variable {k : Nat} {a b la lb : BitVec 16}

theorem inputFault_congr {g x : Dog} {i : Nat} (hp : x.pairs = g.pairs)
    (hm : vget 0 x.stuck i = vget 0 g.stuck i ∧ vget 0 x.short i = vget 0 g.short i) :
    inputFault k a b la lb x i = inputFault k a b la lb g i := by
  obtain ⟨hs, ht⟩ := hm
  have htp : tpOf x i = tpOf g i := by rw [tpOf, tpOf, hp]
  simp only [inputFault, frameFault, htp, hs, ht]

theorem checkInput_spec (g : Dog) (i : Nat) :
    checkInput k a b la lb g i = { g with
      stuck := (checkInput k a b la lb g i).stuck, short := (checkInput k a b la lb g i).short, pend := (checkInput k a b la lb g i).pend } ∧
    (∀ j, j ≠ i → vget 0 (checkInput k a b la lb g i).stuck j = vget 0 g.stuck j ∧
      vget 0 (checkInput k a b la lb g i).short j = vget 0 g.short j) ∧
    ∀ y, y ∈ (checkInput k a b la lb g i).pend ↔ y ∈ g.pend ∨ inputFault k a b la lb g i = some y := by
  unfold checkInput inputFault
  split
  · exact ⟨rfl, fun _ _ => ⟨rfl, rfl⟩, fun y => by simp⟩
  split
  · obtain ⟨hf, hp⟩ := frameHit_noted g g.stuck i 0x07 (bitOf a.toNat i || bitOf b.toNat i)
    have hshort := congrArg Dog.short hf
    refine ⟨?_, fun j hj => ⟨frameHit_marks g g.stuck _ _ hj, congrArg (vget 0 · j) hshort⟩, hp⟩
    dsimp only
    rw [hf]
  · obtain ⟨hf, hp⟩ := frameHit_noted g g.short i 0x08
      ((!bitOf a.toNat i && bitOf la.toNat i) || (!bitOf b.toNat i && bitOf lb.toNat i))
    have hstuck := congrArg Dog.stuck hf
    refine ⟨?_, fun j hj => ⟨congrArg (vget 0 · j) hstuck, frameHit_marks g g.short _ _ hj⟩, hp⟩
    dsimp only
    rw [hf]

theorem inputsChecked (g : Dog) (n : Nat) :
    InputsChecked k a b la lb g n ((upto n).foldl (checkInput k a b la lb) g) := by
  refine foldl_upto_induct (fun n x => InputsChecked k a b la lb g n x)
    ⟨rfl, fun _ _ => ⟨rfl, rfl⟩, fun y => by simp⟩ (fun i x hx => ?_) n
  have hframe := hx.frame
  have hmarks := hx.marks
  have hfaults := hx.faults
  obtain ⟨hf, hm, hp⟩ := checkInput_spec (k := k) (a := a) (b := b) (la := la) (lb := lb) x i
  refine ⟨by rw [hf, hframe], fun j hj => ?_, fun y => ?_⟩
  · obtain ⟨hs, ht⟩ := hm j (by omega)
    obtain ⟨hs', ht'⟩ := hmarks j (by omega)
    exact ⟨hs.trans hs', ht.trans ht'⟩
  · have hpairs : x.pairs = g.pairs := by rw [hframe]
    rw [hp, hfaults, inputFault_congr hpairs (hmarks i le_rfl), or_assoc]
    refine or_congr_right ⟨?_, ?_⟩
    · rintro (⟨j, hj, h⟩ | h)
      · exact ⟨j, by omega, h⟩
      · exact ⟨i, by omega, h⟩
    · rintro ⟨j, hj, h⟩
      obtain rfl | hlt : j = i ∨ j < i := by omega
      · exact .inr h
      · exact .inl ⟨j, hlt, h⟩

end CheckInput

/-- The test of a supply's level: low in the off-pulse of its own, high otherwise (R294). -/
def tpGood (k : Nat) (tpA tpB : BitVec 4) (t : Nat) : Bool :=
  bitOf tpA.toNat t == (t != k / 2) && bitOf tpB.toNat t == (t != k / 2)

/-- A checkpoint once the supplies are tested (R294). -/
def suppliesChecked (k : Nat) (tpA tpB : BitVec 4) (g : Dog) : Dog :=
  (upto 4).foldl (fun g t => if tpGood k tpA tpB t then g else dogFault g 0x0A t) { g with
    tpPos := g.tpPos + 1
    tpOk := BitVec.ofNat 4 ((upto 4).foldl (fun m t => if tpGood k tpA tpB t then setBit m t else m) 0) }

/-- The marks once the last checkpoint of the frame is over (R294). -/
def frameOver (k : Nat) (g : Dog) : Dog :=
  if k ≠ 7 then g else { g with stuck := g.stuck.map fun x => 2 * (x % 2), short := g.short.map fun x => 2 * (x % 2) }

theorem checkpoint_of_place {k : Nat} {g : Dog} (h : g.tpPos = framePlace k 1) (tpA tpB : BitVec 4) (a b la lb : BitVec 16) :
    checkpoint k tpA tpB a b la lb g =
      frameOver k ((upto 16).foldl (checkInput k a b la lb) (suppliesChecked k tpA tpB g)) :=
  if_neg (not_not.2 h)

theorem checkpoint_of_not_place {k : Nat} {g : Dog} (h : g.tpPos ≠ framePlace k 1) (tpA tpB : BitVec 4)
    (a b la lb : BitVec 16) : checkpoint k tpA tpB a b la lb g = g := if_pos h

theorem frameOver_frame (k : Nat) (g : Dog) :
    frameOver k g = { g with stuck := (frameOver k g).stuck, short := (frameOver k g).short } := by
  unfold frameOver
  split <;> rfl

theorem suppliesChecked_noted (k : Nat) (tpA tpB : BitVec 4) (g : Dog) :
    Noted (fun y => ∃ t ∈ upto 4, (if tpGood k tpA tpB t then none else some (0x0A, t)) = some y) { g with
      tpPos := g.tpPos + 1
      tpOk := BitVec.ofNat 4 ((upto 4).foldl (fun m t => if tpGood k tpA tpB t then setBit m t else m) 0) }
      (suppliesChecked k tpA tpB g) := by
  refine noted_foldl (fun t g' _ => ?_) _
  split
  · exact (noted_refl g').congr fun y => by simp
  · exact (noted_dogFault g' 0x0A t).congr fun y => by simp [eq_comm]

/-- What a checkpoint in its place leaves: the faults it noted are those of the supplies and those of the inputs. -/
theorem checkpoint_spec {k : Nat} {g : Dog} (h : g.tpPos = framePlace k 1) (tpA tpB : BitVec 4) (a b la lb : BitVec 16)
    {g' : Dog} (hg' : g' = checkpoint k tpA tpB a b la lb g) :
    g' = { g with tpOk := g'.tpOk, stuck := g'.stuck, short := g'.short, pend := g'.pend, tpPos := g.tpPos + 1 } ∧
    (∀ n, n < 4 → bitOf g'.tpOk.toNat n = tpGood k tpA tpB n) ∧
    ∀ y, y ∈ g'.pend ↔ (y ∈ g.pend ∨ ∃ t, t < 4 ∧ tpGood k tpA tpB t = false ∧ y = (0x0A, t)) ∨
      ∃ i, i < 16 ∧ inputFault k a b la lb g i = some y := by
  obtain ⟨hsup, hpend⟩ := suppliesChecked_noted k tpA tpB g
  obtain ⟨hinp, -, hfaults⟩ := inputsChecked (k := k) (a := a) (b := b) (la := la) (lb := lb) (suppliesChecked k tpA tpB g) 16
  have hover := frameOver_frame k ((upto 16).foldl (checkInput k a b la lb) (suppliesChecked k tpA tpB g))
  rw [checkpoint_of_place h] at hg'
  have hpend' : g'.pend = ((upto 16).foldl (checkInput k a b la lb) (suppliesChecked k tpA tpB g)).pend := by
    rw [hg', hover]
  have htp : g'.tpOk = BitVec.ofNat 4 ((upto 4).foldl (fun m t => if tpGood k tpA tpB t then setBit m t else m) 0) := by
    rw [hg', hover, hinp, hsup]
  refine ⟨by rw [hg', hover, hinp, hsup], fun n hn => by rw [htp, bitOf_maskWord _ 4 hn], fun y => ?_⟩
  have hsame : ∀ i, inputFault k a b la lb (suppliesChecked k tpA tpB g) i = inputFault k a b la lb g i := fun i =>
    inputFault_congr (by rw [hsup]) ⟨by rw [hsup], by rw [hsup]⟩
  rw [hpend', hfaults, hpend]
  simp only [hsame, mem_upto, ite_eq_iff, reduceCtorEq, and_false, Option.some.injEq, false_or, Bool.not_eq_true,
    eq_comm (a := y)]

theorem inputFault_of_own {k i : Nat} {a b la lb : BitVec 16} {g : Dog} (htp : tpOf g i = some (k / 2))
    (hon : bitOf a.toNat i = true ∨ bitOf b.toNat i = true) (hlast : vget 0 g.stuck i = 2) :
    inputFault k a b la lb g i = some (0x07, i) := by
  simp [inputFault, frameFault, htp, hlast, hon]

theorem inputFault_of_short {k i j : Nat} {a b la lb : BitVec 16} {g : Dog} (htp : tpOf g i = some j) (hj : j ≠ k / 2)
    (ha : bitOf a.toNat i = false) (hla : bitOf la.toNat i = true) (hlast : vget 0 g.short i = 2) :
    inputFault k a b la lb g i = some (0x08, i) := by
  simp [inputFault, frameFault, htp, hlast, hj, ha, hla]

/-- A fault of an input was marked in the last frame (R294). -/
theorem marked_of_inputFault {k i c x : Nat} {a b la lb : BitVec 16} {g : Dog}
    (h : inputFault k a b la lb g i = some (c, x)) : i = x ∧ ((c = 7 ∧ 2 ≤ vget 0 g.stuck i) ∨ (c = 8 ∧ 2 ≤ vget 0 g.short i)) := by
  unfold inputFault frameFault at h
  split at h
  · exact absurd h nofun
  split at h <;> split at h
  · obtain ⟨rfl, rfl⟩ : 7 = c ∧ i = x := by simpa using h
    exact ⟨rfl, .inl ⟨rfl, by omega⟩⟩
  · exact absurd h nofun
  · obtain ⟨rfl, rfl⟩ : 8 = c ∧ i = x := by simpa using h
    exact ⟨rfl, .inr ⟨rfl, by omega⟩⟩
  · exact absurd h nofun

/-- Settles O40: the filters and the off-pulses by their definitions, a checkpoint by what it notes for each supply and input. -/
theorem safeInputsAndTestPulses : Obligations.SafeInputsAndTestPulses := by
  unfold Obligations.SafeInputsAndTestPulses
  refine ⟨?samples, ?pulses, ?checkpoints⟩
  case samples =>
    intro s a b i hup hi x z
    refine ends_of_dogOnly rfl hup rfl fun t ht hdog => ?_
    have hA := safeSample_siA a b s.dog hi
    have hB := safeSample_siB a b s.dog hi
    rw [hdog]
    refine ⟨ht, rfl, fun hm => ⟨by rw [hA, if_neg (by simp [hm])], by rw [hB, if_neg (by simp [hm])]⟩, ?_, ?_, ?_, ?_, ?_⟩ <;>
      intro hm
    · exact fun heq hrun => by rw [hA, if_pos hm, siSample_same heq hrun]
    · exact fun heq hrun => by rw [hA, if_pos hm, siSample_decided heq hrun]
    · exact fun hne => by rw [hA, if_pos hm, siSample_changed hne]
    · exact fun heq hrun => by rw [hB, if_pos hm, siSample_decided heq hrun]
    · exact fun hne => by rw [hB, if_pos hm, siSample_changed hne]
  case pulses =>
    intro s k hup starts stops
    refine ⟨fun hpos => ?_, fun hpos => ?_, fun hpos => ends_still rfl hup (if_neg hpos),
      fun hpos => ends_still rfl hup (if_neg hpos)⟩
    · have hstart : pulseStart k.val s.dog = _ := if_pos hpos
      refine ends_of_dogOnly rfl hup (by rw [hstart]) fun t ht hdog => ?_
      rw [hdog, hstart]
      exact ⟨ht, rfl, by
        rw [bitOf_or_pulse _ k.isLt]; simp, vget_vset_same _ _ _ _ k.isLt, fun j _ hne =>
        ⟨by rw [bitOf_or_pulse _ k.isLt]; simp [hne.symm], vget_vset_ne _ _ _ hne⟩⟩
    · have hstop : pulseEnd k.val s.dog = _ := if_pos hpos
      refine ends_of_dogOnly rfl hup (by rw [hstop]) fun t ht hdog => ?_
      rw [hdog, hstop]
      exact ⟨ht, rfl, by
        rw [bitOf_andNot_pulse _ k.isLt k.isLt]; simp, fun j hj hne => by
        rw [bitOf_andNot_pulse _ k.isLt hj]; simp [hne.symm]⟩
  case checkpoints =>
    intro s k tpA tpB a b la lb hup own off run
    refine ⟨fun hpos => ends_still rfl hup (checkpoint_of_not_place hpos tpA tpB a b la lb), fun hpos => ?_⟩
    obtain ⟨hframe, htp, hpend⟩ := checkpoint_spec hpos tpA tpB a b la lb rfl
    refine ends_of_dogOnly rfl hup (by rw [hframe]) fun t ht hdog => ?_
    rw [hdog]
    refine ⟨ht, hframe, fun n hn => ?_, fun n hn hbad => ?_, fun i hi hown hon hlast => ?_,
      fun i j hi htpi hj ha hla hlast => ?_, fun i hlast hmem => ?_, fun i hlast hmem => ?_⟩
    · rw [htp n hn, tpGood, Bool.and_eq_true, beq_iff_eq, beq_iff_eq]
    · refine (hpend _).2 (.inl (.inr ⟨n, hn, ?_, rfl⟩))
      rwa [← Bool.not_eq_true, tpGood, Bool.and_eq_true, beq_iff_eq, beq_iff_eq]
    · exact (hpend _).2 (.inr ⟨i, hi, inputFault_of_own hown hon hlast⟩)
    · exact (hpend _).2 (.inr ⟨i, hi, inputFault_of_short htpi hj ha hla hlast⟩)
    · obtain (hmem | ⟨t, -, -, heq⟩) | ⟨j, -, hj⟩ := (hpend _).1 hmem
      · exact hmem
      · simp at heq
      · obtain ⟨rfl, ⟨-, h2⟩ | ⟨h8, -⟩⟩ := marked_of_inputFault hj
        · omega
        · simp at h8
    · obtain (hmem | ⟨t, -, -, heq⟩) | ⟨j, -, hj⟩ := (hpend _).1 hmem
      · exact hmem
      · simp at heq
      · obtain ⟨rfl, ⟨h7, -⟩ | ⟨-, h2⟩⟩ := marked_of_inputFault hj
        · simp at h7
        · omega

end Sys2Proof.Machine
end

section
/-! PROOFS. O42: a fault that muzzles the island drops a staged velocity of the step generators. -/

namespace Sys2Proof.Machine

open Sys2Proof

/-- The state that a command ended in. -/
def nextOf (o : Host.Outcome State Fault Refusal) : Option State :=
  match o with
  | .next t => some t
  | _ => none

/-- What a command that ends in a next state evaluates to there. -/
theorem eq_of_nextOf {α : Type} {o : Host.Outcome State Fault Refusal} {t : State} {f : State → α} {x : α} (ho : o = .next t)
    (h : (nextOf o).map f = some x) : f t = x := by
  rw [ho] at h
  exact Option.some.inj h

/-- The part in RUN, with step channel 0 declared to stop when the island is muzzled and a velocity of it written in this beat
(R31, R201). -/
def runWithStagedVel : State :=
  { State.reset with
    die := stage (setFlag (setFlag State.reset.die (Reg.STP_CFG_DECL 0)) (Reg.STP_CFG_MUZSTOP 0)) (Reg.STP_VEL 0) 5
    dog := { State.reset.dog with run := true } }

/-- Observations of a cycle in which the two channels differ (R288). -/
def channelsDiffer : DogObs := ⟨1000, true, 0, 0, 0, 24000, true⟩

/-- Refutes O42: the fault muzzles the island, and the stop of channel 0 drops the host write of STP_0_VEL that waits for the
edge (R201), which the statement says stands. -/
theorem not_safetyCycleTable : ¬ Obligations.SafetyCycleTable := by
  unfold Obligations.SafetyCycleTable
  intro h
  obtain ⟨t, ht, -, hkeep, -⟩ := h runWithStagedVel channelsDiffer rfl
  obtain ⟨hheld, -⟩ := hkeep .held (by decide)
  have hstaged : runWithStagedVel.die.held = [(Reg.STP_VEL 0, some 0)] := by decide +kernel
  have hdropped : t.die.held = [] :=
    eq_of_nextOf (f := fun t => t.die.held) ht (by decide +kernel)
  rw [hstaged, hdropped] at hheld
  exact absurd hheld nofun

end Sys2Proof.Machine
end

section
/-! PROOFS. O43: presses of SRST, the release test and the cycle after it (R304, R308 to R310). -/

namespace Sys2Proof.Machine

open Sys2Proof

/-- A command of the supplied Sheepdog; an event it drops shows in the sticky bits (R305). -/
theorem ends_of_onDog_evt {i : Instr} {s s' : State} {f : Dog → Die → Dog × Die} {P : State → Prop}
    (hi : exec i s = onDog f s') (hup : s'.die.pwr.up = true)
    (h : ∀ d, d = (f s'.dog (found s')).2 ∨ d = dogSticky (f s'.dog (found s')).2 11 →
      P { s' with dog := (f s'.dog (found s')).1, die := irqSettle s'.die d }) : ends i s P := by
  refine ⟨_, hi.trans (if_pos hup), h _ ?_⟩
  split
  · exact .inr rfl
  · exact .inl rfl

theorem irqSettle_dogIo (c d : Die) : (irqSettle c d).dogIo = d.dogIo := by
  obtain ⟨m, w, e, b, h⟩ := irqSettle_eq c d
  rw [h]

theorem bitOf_dogSticky_same (d : Die) (i : Nat) : bitOf (dogSticky d i).dogIo.sticky i = true := bitOf_setBit_same _ i

/-- A sticky bit once set stands when a dropped event sets another. -/
theorem sticky_of_evt {d d' : Die} {i : Nat} (h : bitOf d.dogIo.sticky i = true) (hd' : d' = d ∨ d' = dogSticky d 11) :
    bitOf d'.dogIo.sticky i = true := by
  obtain rfl | rfl := hd'
  · exact h
  · show bitOf (setBit d.dogIo.sticky 11) i = true
    rw [bitOf_eq_testBit] at h ⊢
    simp [setBit, h]

theorem keeps_evt {ps : List Part} {c d d' : Die} (h : Keeps ps c d) (hio : .dogIo ∈ ps) (hd' : d' = d ∨ d' = dogSticky d 11) :
    Keeps ps c d' := by
  obtain rfl | rfl := hd'
  · exact h
  · exact (keeps_dogSticky c d hio 11).2 h

/-- An event changes the events that wait, and their count. -/
theorem dogEvt_frame (g : Dog) (down : Bool) (code p0 : Nat) :
    dogEvt g down code p0 = { g with events := (dogEvt g down code p0).events, evlost := (dogEvt g down code p0).evlost } := by
  unfold dogEvt
  split <;> rfl

/-! A quiet cycle. -/

theorem seeDie_of_calm {g : Dog} {d : Die} (hdown : dieIsDown d = false) (hreset : d.dogIo.resetSeen = false) :
    ∃ ok crc, seeDie g d = { g with sectOk := ok, sectCrc := crc, dieDown := false } := by
  have hcond : (dieIsDown d && !(if noParcel d then { g with sectOk := false, sectCrc := 0 } else g).dieDown ||
      d.dogIo.resetSeen) = false := by simp [hdown, hreset]
  by_cases hp : noParcel d = true
  · refine ⟨false, 0, ?_⟩
    simp [seeDie, hdown, hreset, hp]
  · refine ⟨g.sectOk, g.sectCrc, ?_⟩
    simp [seeDie, hdown, hreset, hp]

/-- A cycle that observes nothing bad sees no fault (R288, R295, R297). -/
theorem cycleFaults_of_quiet {g : Dog} {obs : DogObs} (hdiffer : obs.differ = false) (hslow : 920 ≤ obs.clockRatio)
    (hfast : obs.clockRatio ≤ 1080) (hrails : obs.railsGood = true) (hover : obs.overload = 0)
    (hsi : ∀ i, i < 16 → siOn g i = true ∨ siOff g i = true) (hpair : ∀ p, p < 8 → pairBad (vget pair0 g.pairs p) = false)
    (hso : g.so = 0) (hoff : ∀ n, n < 4 → vget 0 g.soOffFor n = 0) : cycleFaults g obs = [] := by
  have hin : (upto 16).any (fun i => !siOn g i && !siOff g i) = false := by
    rw [List.any_eq_false]
    intro i hi
    obtain h | h := hsi i (mem_upto.1 hi) <;> simp [h]
  have hpairs : (upto 8).filter (fun p => pairBad (vget pair0 g.pairs p)) = [] :=
    List.filter_eq_nil_iff.2 fun p hp => by simp [hpair p (mem_upto.1 hp)]
  have hclock : (decide (obs.clockRatio < 920) || decide (1080 < obs.clockRatio)) = false := by
    simp
    omega
  unfold cycleFaults
  simp only [hdiffer, hin, hrails, hpairs, hclock, Bool.or_self, Bool.false_eq_true, if_false, if_true,
    List.map_nil, List.append_nil, List.nil_append, List.map_eq_nil_iff, List.filter_eq_nil_iff]
  intro n hn
  simp [hover, hso, hoff n (mem_upto.1 hn), bitOf]

/-- The judging of a quiet cycle: what the island's table and the outputs look at (R288). -/
theorem cycleJudged_of_calm {g : Dog} {d : Die} (obs : DogObs) (hdown : dieIsDown d = false)
    (hreset : d.dogIo.resetSeen = false) : (cycleJudged obs g d).pend = g.pend ∧ (cycleJudged obs g d).siA = g.siA ∧
      (cycleJudged obs g d).siB = g.siB ∧
      (cycleJudged obs g d).pairs = Vector.ofFn fun p : Fin 8 => pairStep g p.val := by
  obtain ⟨ok, crc, hsee⟩ := seeDie_of_calm (g := g) hdown hreset
  refine ⟨?_, ?_, ?_, ?_⟩ <;> unfold cycleJudged <;> rw [hsee]
  rfl

theorem soOffFor_of_readsOff {g : Dog} {d : Die} {obs : DogObs} (ha : obs.soReadA = 0) (hb : obs.soReadB = 0) {n : Nat}
    (hn : n < 4) : vget 0 (cycleJudged obs g d).soOffFor n = 0 := by
  rw [cycleJudged, vget_ofFn 0 _ hn]
  simp [ha, hb, bitOf]

/-- A quiet cycle finds no fault, old or new. -/
theorem faultsSeen_of_quiet {g : Dog} {obs : DogObs} (hpend : g.pend = []) (hc : cycleFaults g obs = []) :
    faultsSeen obs g = [] := by
  rw [faultsSeen, hpend, hc]
  rfl

/-- The island's table in a cycle with no new fault, after a release test (R304). -/
theorem islandStep_after_test {g : Dog} {d : Die} {seen : List (Nat × Nat)} {ok : Bool} {x : Nat × Nat} (hrun : g.run = false)
    (hrel : g.rel = some (ok, x)) : ∃ events evlost, islandStep g d seen [] = if ok then
      ({ g with faults := islandStep.l32 g.faults, run := true, cause := 0, detail := 0, rel := none, events, evlost,
                testFault := if g.test.isSome && g.testFault.isNone then seen.head? else g.testFault }, d, true) else
      ({ g with faults := islandStep.l32 g.faults, cause := x.1, detail := x.2, rel := none, events, evlost,
                testFault := if g.test.isSome && g.testFault.isNone then seen.head? else g.testFault }, dogSticky d 9, false) := by
  cases ok
  all_goals
    unfold islandStep
    simp only [List.length_nil, Nat.add_zero, hrun, hrel, Bool.false_eq_true, if_false, if_true]
    rw [dogEvt_frame]
    exact ⟨_, _, rfl⟩

/-- A quiet cycle after a release test (R304, R310): passed, it enters RUN; failed, it gives the cause found. -/
theorem safetyCycle_after_test {g : Dog} {d : Die} {obs : DogObs} {ok : Bool} {x : Nat × Nat} (hrun : g.run = false)
    (hrel : g.rel = some (ok, x)) (hnew : faultsSeen obs (cycleJudged obs g d) = []) :
    (ok = true → (safetyCycle obs g d).1.run = true ∧ (safetyCycle obs g d).1.cause = 0 ∧
      (safetyCycle obs g d).1.detail = 0 ∧ (safetyCycle obs g d).1.rel = none) ∧
    (ok = false → (safetyCycle obs g d).1.run = false ∧ (safetyCycle obs g d).1.cause = x.1 ∧
      (safetyCycle obs g d).1.detail = x.2 ∧ bitOf (safetyCycle obs g d).2.dogIo.sticky 9 = true) := by
  have hi := cycleJudged_island obs g d
  simp only [Dog.island, Prod.mk.injEq] at hi
  obtain ⟨-, -, hrunJ, hrelJ⟩ := hi
  have hstep : cycleIsland obs g d = islandStep { cycleJudged obs g d with live := [], pend := [] } d [] [] := by
    rw [cycleIsland, faultsNew, hnew]
    rfl
  obtain ⟨events, evlost, htable⟩ := islandStep_after_test (d := d) (seen := [])
    (g := { cycleJudged obs g d with live := [], pend := [] }) (hrunJ.trans hrun) (hrelJ.trans hrel)
  rw [← hstep] at htable
  refine ⟨?_, ?_⟩ <;> rintro rfl
  · rw [safetyCycle_dog, cycleFuns, htable]
    exact ⟨rfl, rfl, rfl, rfl⟩
  · have hsticky : (safetyCycle obs g d).2.dogIo.sticky = (cycleIsland obs g d).2.1.dogIo.sticky := rfl
    rw [hsticky, safetyCycle_dog, cycleFuns, htable]
    exact ⟨hrunJ.trans hrun, rfl, rfl, bitOf_setBit_same _ 9⟩

/-! Presses. -/

theorem srstHeld_eq (g : Dog) (d : Die) : srstHeld g d =
    (dogEvt { g with pressed := false, pressRef := min 65535 (g.pressRef + 1) } (dieIsDown d) 5 0, dogSticky d 8) := rfl

theorem srstPress_of_unpressed {g : Dog} (a b : Nat) (d : Die) (h : g.pressed = false) : srstPress a b g d = (g, d) := by
  simp [srstPress, h]

theorem srstPress_of_length {g : Dog} {a : Nat} (b : Nat) (d : Die) (h : g.pressed = true) (ha : a < 50000 ∨ 3000000 < a) :
    srstPress a b g d = ({ g with pressed := false, pressRef := min 65535 (g.pressRef + 1) }, d) := by
  unfold srstPress
  rw [if_neg (by simp [h]), if_pos ha]

theorem srstPress_of_differ {g : Dog} {a b : Nat} (d : Die) (h : g.pressed = true) (hlo : 50000 ≤ a) (hhi : a ≤ 3000000)
    (hd : a + 10000 < b ∨ b + 10000 < a) : srstPress a b g d =
      (dogEvt { g with pressed := false, pressRef := min 65535 (g.pressRef + 1) } (dieIsDown d) 6 0, dogSticky d 10) := by
  unfold srstPress
  rw [if_neg (by simp [h]), if_neg (by omega), if_pos (by omega)]

theorem srstPress_of_accepted {g : Dog} {a b : Nat} (d : Die) (h : g.pressed = true) (hlo : 50000 ≤ a) (hhi : a ≤ 3000000)
    (hab : b ≤ a + 10000) (hba : a ≤ b + 10000) : srstPress a b g d =
      (if g.run then { g with pressed := false, pressCnt := min 65535 (g.pressCnt + 1), accepted := true }
       else { g with pressed := false, pressCnt := min 65535 (g.pressCnt + 1), test := some 0, testFault := none, rel := none },
       d) := by
  unfold srstPress
  rw [if_neg (by simp [h]), if_neg (by omega), if_neg (by omega)]
  cases hr : g.run <;> simp

theorem testFound_of_sound {g : Dog} (tp sw : Option (Fin 4)) (se : Bool) (hs : g.sectOk = true) (ha : g.sinceAccept = false)
    (hf : g.testFault = none) : (∀ n, tp = some n → testFound tp sw se g = some (10, n.val)) ∧
      ∀ n, tp = none → sw = some n → testFound tp sw se g = some (11, n.val) := by
  refine ⟨?_, ?_⟩
  · rintro n rfl
    simp [testFound, hs, ha, hf]
  · rintro n rfl rfl
    simp [testFound, hs, ha, hf]

/-- Settles O43: the cycle after a test by the island's table, the test by its causes, the presses by their cases. -/
theorem releaseOfTheIsland : Obligations.ReleaseOfTheIsland := by
  unfold Obligations.ReleaseOfTheIsland
  refine ⟨⟨?cycle, ?test, ?early⟩, fun s hup => ⟨?begin, ?held, ?presses⟩⟩
  case cycle =>
    intro s obs ok x hup hrun hso hrel hpend hdown hreset hdiffer hslow hfast hrails ha hb hover hsi hpair
    have hdown' : dieIsDown (found s) = false := hdown
    have hreset' : (found s).dogIo.resetSeen = false := hreset
    obtain ⟨hpendJ, hsiA, hsiB, hpairs⟩ := cycleJudged_of_calm (g := s.dog) obs hdown' hreset'
    have hi := cycleJudged_island obs s.dog (found s)
    simp only [Dog.island, Prod.mk.injEq] at hi
    obtain ⟨hsoA, hsoB, -, -⟩ := hi
    have hso' : (cycleJudged obs s.dog (found s)).so = 0 := by rw [Dog.so, hsoA, hsoB]; exact hso
    have hquiet : cycleFaults (cycleJudged obs s.dog (found s)) obs = [] := by
      refine cycleFaults_of_quiet hdiffer hslow hfast hrails hover (fun i hi => ?_) (fun p hp => ?_) hso' fun n hn =>
        soOffFor_of_readsOff ha hb hn
      · rw [siOn, siOff, hsiA, hsiB]
        exact hsi i hi
      · rw [hpairs, vget_ofFn pair0 _ hp]
        exact hpair p hp
    have hseen := faultsSeen_of_quiet (hpendJ.trans hpend) hquiet
    obtain ⟨hpass, hfail⟩ := safetyCycle_after_test hrun hrel hseen
    refine ends_of_onDog_evt rfl hup fun d hd => ⟨hpass, fun hok => ?_⟩
    obtain ⟨hr, hc, hx, h9⟩ := hfail hok
    exact ⟨hr, safetyCycle_so_of_not_run hr, hc, hx, by rw [irqSettle_dogIo]; exact sticky_of_evt h9 hd⟩
  case test =>
    intro s n tp sw se hup hn hlong
    have hend := releaseEnd_of_due hn hlong tp sw se
    refine ends_of_dogOnly rfl hup (by rw [hend]) fun t ht hdog => ?_
    rw [hend] at hdog
    rw [hdog]
    refine ⟨ht, rfl, rfl, rfl, rfl, ?_, fun hs ha hf => ?_⟩
    · rw [← testFound_eq_none_iff]
      simp
    · obtain ⟨htp, hsw⟩ := testFound_of_sound tp sw se hs ha hf
      exact ⟨fun m hm => by simp [htp m hm], fun m hm hm' => by simp [hsw m hm hm']⟩
  case early =>
    intro s n tp sw se hup hn hshort
    exact ends_still rfl hup (releaseEnd_of_not_due (fun m hm => by rw [hn] at hm; cases hm; exact hshort) tp sw se)
  case begin => exact ends_of_dogOnly rfl hup rfl fun t ht hdog => ⟨ht, hdog⟩
  case held =>
    refine ends_of_onDog_evt rfl hup fun d hd => ?_
    rw [srstHeld_eq] at hd ⊢
    refine ⟨dieBut_command (keeps_evt ((keeps_dogSticky _ _ (by simp) 8).2 (.refl _ _)) (by simp) hd), ?_, ?_⟩
    · rw [irqSettle_dogIo]
      exact sticky_of_evt (bitOf_dogSticky_same _ 8) hd
    · rw [dogEvt_frame]
      exact ⟨rfl, rfl, rfl, rfl⟩
  case presses =>
    intro a b refused
    refine ⟨?unpressed, fun hpressed => ⟨?short, ?differ, ?accepted⟩⟩
    case unpressed =>
      intro hnot
      have hp := srstPress_of_unpressed a b (found s) hnot
      refine ends_of_onDog (s' := s) rfl hup ?_ ?_ <;> rw [hp]
      exact ⟨dieBut_command (.refl _ _), rfl⟩
    case short =>
      intro hlen
      have hp := srstPress_of_length b (found s) hpressed hlen
      refine ends_of_onDog (s' := s) rfl hup ?_ ?_ <;> rw [hp]
      exact ⟨dieBut_command (.refl _ _), rfl, rfl, rfl, rfl, rfl, rfl, rfl⟩
    case differ =>
      intro hlo hhi hd
      have hp := srstPress_of_differ (found s) hpressed hlo hhi hd
      refine ends_of_onDog_evt rfl hup fun d hd => ?_
      rw [hp] at hd
      refine ⟨dieBut_command (keeps_evt ?_ (by simp) hd), ?_, ?_⟩
      · exact (keeps_dogSticky _ _ (by simp) 10).2 (.refl _ _)
      · rw [hp, dogEvt_frame]
        exact ⟨rfl, rfl, rfl, rfl, rfl, rfl, rfl⟩
      · rw [irqSettle_dogIo]
        exact sticky_of_evt (bitOf_dogSticky_same _ 10) hd
    case accepted =>
      intro hlo hhi hab hba
      have hp := srstPress_of_accepted (found s) hpressed hlo hhi hab hba
      cases hr : s.dog.run <;> simp only [hr, Bool.false_eq_true, if_false, if_true] at hp <;>
        refine ends_of_onDog (s' := s) rfl hup ?_ ?_ <;> rw [hp]
      · exact ⟨dieBut_command (.refl _ _), rfl, rfl, nofun, fun _ => ⟨rfl, rfl, rfl⟩⟩
      · exact ⟨dieBut_command (.refl _ _), rfl, rfl, fun _ => ⟨rfl, rfl⟩, nofun⟩

end Sys2Proof.Machine
end

section
/-! PROOFS. O44, first part: messages of the die-to-die link and the safety section (R290, R311, R312). -/

namespace Sys2Proof.Machine

open Sys2Proof

/-! Messages. -/

/-- The Sheepdog with this number of the last message taken. -/
def Dog.withRx (g : Dog) (rx : Option Nat) : Dog := { g with rxSeq := rx }

/-- The control die with this number of its next message. -/
def Die.withTx (d : Die) (tx : Nat) : Die := { d with dogIo := { d.dogIo with txSeq := tx } }

/-- Messages of the control die change the number of the last one taken, and the number of the next. -/
theorem toDog_frame (link : Option LinkMsg) (body : List Nat) (g : Dog) (d : Die) :
    ∃ rx tx o, toDog link body g d = (g.withRx rx, d.withTx tx, o) := by
  unfold toDog
  split
  · exact ⟨g.rxSeq, d.dogIo.txSeq, none, rfl⟩
  · dsimp only
    split
    · exact ⟨_, _, _, rfl⟩
    · exact ⟨g.rxSeq, _, none, rfl⟩

theorem sendAll_frame (ms : List (List Nat)) (link : List (Option LinkMsg)) (g : Dog) (d : Die) :
    ∃ rx tx o, sendAll ms link g d = (g.withRx rx, d.withTx tx, o) := by
  induction ms generalizing link g d with
  | nil => exact ⟨g.rxSeq, d.dogIo.txSeq, some [], rfl⟩
  | cons m ms ih =>
    obtain ⟨rx, tx, o, h⟩ := toDog_frame (link.head?.getD none) m g d
    obtain ⟨rx', tx', o', h'⟩ := ih link.tail (g.withRx rx) (d.withTx tx)
    rw [sendAll, h, h']
    exact ⟨rx', tx', _, rfl⟩

/-- Messages that nothing changes on the link arrive as they are sent (R290). -/
theorem sendAll_fresh (ms : List (List Nat)) {g : Dog} {d : Die} (hdown : dieIsDown d = false)
    (hseq : g.rxSeq ≠ some d.dogIo.txSeq) : (sendAll ms [] g d).2.2 = some ms := by
  induction ms generalizing g d with
  | nil => rfl
  | cons m ms ih =>
    have hsent := toDog_of_taken (link := none) (body := m) hdown (linkTaken_linkMsg.2 hseq)
    have hnext : { g with rxSeq := some d.dogIo.txSeq }.rxSeq ≠ some (sentDog d).dogIo.txSeq := by
      show some d.dogIo.txSeq ≠ some ((d.dogIo.txSeq + 1) % 65536)
      rw [ne_eq, Option.some.injEq]
      omega
    have hrest := ih (g := { g with rxSeq := some d.dogIo.txSeq }) (d := sentDog d) hdown hnext
    simp only [sendAll, List.head?_nil, Option.getD_none, List.tail_nil]
    rw [hsent]
    simp only [Option.getD_none, linkMsg] at hrest ⊢
    rw [hrest]

/-- A first message that arrives with a bad CRC is not taken (R290). -/
theorem sendAll_bad {m : LinkMsg} (body : List Nat) (ms : List (List Nat)) (rest : List (Option LinkMsg)) {g : Dog} {d : Die}
    (hdown : dieIsDown d = false) (hbad : m ≠ linkMsg m.seq m.body) : (sendAll (body :: ms) (some m :: rest) g d).2.2 = none := by
  have hrefused : linkTaken g.rxSeq m = false := by simp [linkTaken, hbad]
  have hsent := toDog_of_refused (link := some m) (body := body) hdown hrefused
  simp only [sendAll, List.head?_cons, Option.getD_some]
  rw [hsent]

/-! The section. -/

theorem take_flatMap_slice (b : List Byte) (n : Nat) : (upto n).flatMap (fun i => slice b (4 * i) 4) = b.take (4 * n) := by
  induction n with
  | zero => simp [upto]
  | succ n ih =>
    rw [upto_succ, List.flatMap_append, ih, List.flatMap_cons, List.flatMap_nil, List.append_nil, slice,
      Nat.mul_succ, List.take_add]

/-- The words of a list of bytes give it back. -/
theorem flatMap_words (b : List Byte) :
    (((upto (cdiv b.length 4)).map fun i => (slice b (4 * i) 4).map BitVec.toNat).flatMap fun w => w.map (BitVec.ofNat 8)) = b := by
  have hword : ∀ l : List Byte, (l.map BitVec.toNat).map (BitVec.ofNat 8) = l := fun l => by
    have hid : (BitVec.ofNat 8 ∘ BitVec.toNat : Byte → Byte) = id := funext fun x => by simp
    rw [List.map_map, hid, List.map_id]
  simp only [List.flatMap_map, hword]
  rw [take_flatMap_slice]
  exact List.take_of_length_le (by unfold cdiv; omega)

/-- The Sheepdog receives the section, the header's CRC and the slots that the control die sends (R311). -/
theorem sectionGot_sectionMsgs (d : Die) : sectionGot d (sectionMsgs d) = (d.boot.safeCrc, d.boot.safety, mapSlots d) := by
  have hlen : ((upto (cdiv d.boot.safety.length 4)).map fun i => (slice d.boot.safety (4 * i) 4).map BitVec.toNat).length =
      cdiv d.boot.safety.length 4 := by simp [upto]
  have hslots : ((mapSlots d).map fun x => [x.1, x.2.1, x.2.2]).map (fun m => (nth m 0, nth m 1, nth m 2)) = mapSlots d := by
    rw [List.map_map]
    exact List.map_id _
  unfold sectionGot sectionMsgs
  refine Prod.ext rfl (Prod.ext ?_ ?_)
  · show (((([d.boot.safeCrc] :: _) ++ _).drop 1).take _).flatMap _ = _
    rw [List.cons_append, List.drop_succ_cons, List.drop_zero, List.take_left' hlen]
    exact flatMap_words _
  · show ((([d.boot.safeCrc] :: _) ++ _).drop _).map _ = _
    rw [List.cons_append, Nat.add_comm, List.drop_succ_cons, List.drop_left' hlen]
    exact hslots

/-- The checks of R311 and R312 on a section. -/
def sectionSound (d : Die) : Prop :=
  secLayoutOk d.boot.safety = true ∧ leAt d.boot.safety (d.boot.safety.length - 8) 4 = d.boot.safeCrc ∧
    secRangesOk d.boot.safety = true ∧ secSlotsOk (mapSlots d) d.boot.safety = true ∧
    (leAt d.boot.safety (d.boot.safety.length - 4) 4 = leAt d.boot.safety (d.boot.safety.length - 8) 4 ∨
      leAt d.boot.safety (d.boot.safety.length - 4) 4 = 0)

theorem sectionOk_iff (d : Die) : sectionOk (d.boot.safeCrc, d.boot.safety, mapSlots d) = true ↔ sectionSound d := by
  simp [sectionOk, sectionSound, and_assoc]

section Load

variable {l : SectLoad} {src d : Die} {g : Dog}

/-- A section that is refused (R303, R311): the fault is noted, and the control die changes in its link number only. -/
theorem sectionLoad_of_refused (htried : g.sectTried = false) (hdown : dieIsDown d = false)
    (h : (sendAll (sectionMsgs src) l.link { g with sectTried := true } d).2.2 = none ∨
      ((sendAll (sectionMsgs src) l.link { g with sectTried := true } d).2.2 = some (sectionMsgs src) ∧
        (sectionSound src → l.agree = true → l.readBack = false))) :
    ∃ rx tx, sectionLoad l src g d =
      (dogFault { ({ g with sectTried := true } : Dog).withRx rx with sectOk := false, sectCrc := 0 } 3 0, d.withTx tx) := by
  obtain ⟨rx, tx, o, hsent⟩ := sendAll_frame (sectionMsgs src) l.link { g with sectTried := true } d
  refine ⟨rx, tx, ?_⟩
  unfold sectionLoad
  rw [if_neg (by simp [htried, hdown])]
  generalize sendAll (sectionMsgs src) l.link { g with sectTried := true } d = q at h hsent ⊢
  have h1 : q.1 = ({ g with sectTried := true } : Dog).withRx rx := congrArg Prod.fst hsent
  have h2 : q.2.1 = d.withTx tx := congrArg (·.2.1) hsent
  dsimp only
  rw [h1, h2]
  obtain h | ⟨h, hbad⟩ := h
  · rw [h]
  · rw [h]
    refine if_pos ?_
    rw [sectionGot_sectionMsgs, Bool.not_eq_true', Bool.and_eq_false_iff, Bool.and_eq_false_iff]
    by_cases hs : sectionSound src
    · cases ha : l.agree
      · exact .inl (.inr rfl)
      · exact .inr (hbad hs ha)
    · exact .inl (.inl (by rwa [← Bool.not_eq_true, sectionOk_iff]))

/-- A section that is accepted (R311, R312). -/
theorem sectionLoad_of_accepted (htried : g.sectTried = false) (hdown : dieIsDown d = false)
    (hsent : (sendAll (sectionMsgs src) l.link { g with sectTried := true } d).2.2 = some (sectionMsgs src))
    (hs : sectionSound src) (ha : l.agree = true) (hb : l.readBack = true) :
    ∃ rx tx, let g' := takeSection src.boot.safety (({ g with sectTried := true } : Dog).withRx rx)
      sectionLoad l src g d = (if g'.unval then dogEvt g' false 7 g'.sectCrc else g', publishSection g' (d.withTx tx)) := by
  obtain ⟨rx, tx, o, hframe⟩ := sendAll_frame (sectionMsgs src) l.link { g with sectTried := true } d
  refine ⟨rx, tx, ?_⟩
  have hok : (!(sectionOk (sectionGot src (sectionMsgs src)) && l.agree && l.readBack)) = false := by
    rw [sectionGot_sectionMsgs, (sectionOk_iff src).2 hs, ha, hb]
    rfl
  unfold sectionLoad
  rw [if_neg (by simp [htried, hdown])]
  generalize sendAll (sectionMsgs src) l.link { g with sectTried := true } d = q at hsent hframe ⊢
  have h1 : q.1 = ({ g with sectTried := true } : Dog).withRx rx := congrArg Prod.fst hframe
  have h2 : q.2.1 = d.withTx tx := congrArg (·.2.1) hframe
  dsimp only
  rw [h1, h2, hsent]
  dsimp only
  rw [hok, sectionGot_sectionMsgs]
  rfl

end Load

end Sys2Proof.Machine
end

section
/-! PROOFS. O44: the safety layer's exchange with the control die (R300 to R302, R305, R307, R311, R312). -/

namespace Sys2Proof.Machine

open Sys2Proof

theorem Keeps.foldl {β : Type} {ps : List Part} {f : Die → β → Die} (h : ∀ d x, Keeps ps d (f d x)) (l : List β) (d : Die) :
    Keeps ps d (l.foldl f d) := by
  induction l generalizing d with
  | nil => exact .refl ps d
  | cons x l ih => exact (h d x).trans (ih (f d x))

/-! The section is published. -/

theorem getReg_putSnap (d : Die) (s o : Nat) : getReg (putSnap d s) o = getReg d o := by
  unfold putSnap
  dsimp only
  split
  · rfl
  split <;> rfl

@[simp] theorem keeps_putSnap {ps : List Part} (c d : Die) (h : .segs ∈ ps) (s : Nat) :
    Keeps ps c (putSnap d s) ↔ Keeps ps c d := by
  unfold putSnap
  dsimp only
  split
  · rfl
  split
  · rfl
  · exact keeps_updSeg c d h s _

theorem keeps_publishSection (g : Dog) (d : Die) : Keeps [.regs, .segs] d (publishSection g d) :=
  Keeps.foldl (fun d s => by simp) _ d

theorem getReg_publishSection (g : Dog) (d : Die) {n : Nat} (hn : n < 4) :
    getReg (publishSection g d) (Reg.LSH_SID n) = BitVec.ofNat 32 (vget 0 g.sids n) := by
  refine foldl_upto_induct (fun k x => ∀ n, n < k → getReg x (Reg.LSH_SID n) = BitVec.ofNat 32 (vget 0 g.sids n))
    (fun n hn => absurd hn (Nat.not_lt_zero n)) (fun i x hx n hn => ?_) 4 n hn
  have hcfg : Reg.LSH_SID n ≠ (Reg.LSH_SAFECFG_SWDT i).off := by
    show 0x0C114 + n * 0x800 ≠ 0x0C118 + i * 0x800
    omega
  rw [getReg_putSnap, getReg_setFld_ne _ _ _ hcfg, getReg_putReg]
  by_cases h : n = i
  · rw [if_pos (by rw [h]), h]
  · have hsid : Reg.LSH_SID n ≠ Reg.LSH_SID i := by
      show 0x0C114 + n * 0x800 ≠ 0x0C114 + i * 0x800
      omega
    rw [if_neg hsid]
    exact hx n (by omega)

/-! Judging the statuses. -/

/-- The place of a slot and its axis, which no status changes. -/
def slotKey (x : SSlot) : Nat × Nat × Nat := (x.seg, x.slot, x.axis)

/-- The Sheepdog `g'` is `g` with statuses judged: marks of its slots, faults and the hold after a step of GT changed. -/
structure Judged (g g' : Dog) : Prop where
  frame : g' = { g with hold := g'.hold, slots := g'.slots, pend := g'.pend }
  keys : g'.slots.map slotKey = g.slots.map slotKey
  pend : ∀ y ∈ g.pend, y ∈ g'.pend

section Projections

variable {g g' : Dog} (h : Judged g g')
include h

theorem Judged.run : g'.run = g.run := by rw [h.frame]

theorem Judged.so : g'.so = g.so := by rw [h.frame]; rfl

theorem Judged.funs : g'.funs = g.funs := by rw [h.frame]

theorem Judged.sids : g'.sids = g.sids := by rw [h.frame]

theorem Judged.txSeq : g'.txSeq = g.txSeq := by rw [h.frame]

theorem Judged.evlost : g'.evlost = g.evlost := by rw [h.frame]

end Projections

theorem Judged.refl (g : Dog) : Judged g g := ⟨rfl, rfl, fun _ h => h⟩

theorem Judged.trans {g g' g'' : Dog} (h : Judged g g') (h' : Judged g' g'') : Judged g g'' :=
  ⟨by rw [h'.frame, h.frame], h'.keys.trans h.keys, fun y hy => h'.pend y (h.pend y hy)⟩

theorem Noted.judged {S : Nat × Nat → Prop} {g g' : Dog} (h : Noted S g g') : Judged g g' :=
  ⟨by rw [h.1], by rw [h.1], fun y hy => (h.2 y).2 (.inl hy)⟩

theorem judged_dogFault (g : Dog) (c x : Nat) : Judged g (dogFault g c x) := (noted_dogFault g c x).judged

theorem judged_foldl {β : Type} {f : Dog → β → Dog} (h : ∀ g x, Judged g (f g x)) (l : List β) (g : Dog) :
    Judged g (l.foldl f g) := by
  induction l generalizing g with
  | nil => exact .refl g
  | cons x l ih => exact (h g x).trans (ih (f g x))

theorem judged_ite {g x : Dog} {q : Prop} [Decidable q] (h : Judged g x) : Judged g (if q then x else g) := by
  split
  · exact h
  · exact .refl g

/-- Marks on the slots leave where they are. -/
theorem judged_slots {g : Dog} {slots : List SSlot} (h : slots.map slotKey = g.slots.map slotKey) :
    Judged g { g with slots := slots } := ⟨rfl, h, fun _ hy => hy⟩

theorem map_slotKey_set {l : List SSlot} {j : Nat} {x y : SSlot} (hx : l[j]? = some x) (hy : slotKey y = slotKey x) :
    (l.set j y).map slotKey = l.map slotKey := by
  obtain ⟨hlt, rfl⟩ := List.getElem?_eq_some_iff.1 hx
  have hkey : slotKey y = (l.map slotKey)[j]'(by rwa [List.length_map]) := by rw [List.getElem_map, hy]
  rw [List.map_set, hkey, List.set_getElem_self]

theorem judgeStatus_judged (d : Die) (g : Dog) (m : Nat × Nat × Nat × Nat × Nat × Nat) : Judged g (judgeStatus d g m) := by
  unfold judgeStatus
  split
  · exact .refl g
  split
  · exact .refl g
  next hx =>
    extract_lets sstat late marked judged
    have hmarked : Judged g marked := judged_slots (map_slotKey_set hx rfl)
    have hjudged : Judged g judged := hmarked.trans (judged_ite (judged_dogFault _ _ _))
    split
    · exact .refl g
    · exact hjudged.trans (judged_ite (judged_dogFault _ _ _))

/-- The hold that a step of GT begins (R231). -/
def heldAfterStep (msg : List Nat) (g : Dog) : Dog :=
  if msg.head? = some 1 then { g with hold := (g.slots.foldl (fun m x => max m (vget 0 g.swdt x.seg)) 0) + 2 } else g

/-- The slots age by one beat (R307). -/
def slotsAged (d : Die) (g : Dog) : Dog := { g with slots := g.slots.map fun x =>
  { x with got := false, quiet := if slotAdmitted d x then (if x.got then 0 else x.quiet + 1) else 0 } }

theorem judgeBeat_eq (d : Die) (msg : List Nat) (g : Dog) : judgeBeat d msg g =
    (slotsAged d ((statusesOf msg.tail).foldl (judgeStatus d) (heldAfterStep msg g))).slots.foldl
      (fun g x => if lsafeDue d g x then dogFault g 12 x.slot else g)
      (slotsAged d ((statusesOf msg.tail).foldl (judgeStatus d) (heldAfterStep msg g))) := rfl

theorem heldAfterStep_judged (msg : List Nat) (g : Dog) : Judged g (heldAfterStep msg g) := by
  unfold heldAfterStep
  split
  · exact ⟨rfl, rfl, fun _ h => h⟩
  · exact .refl g

theorem slotsAged_judged (d : Die) (g : Dog) : Judged g (slotsAged d g) := by
  refine judged_slots ?_
  rw [List.map_map]
  rfl

/-- What follows the judging of the statuses in a beat leaves the faults found. -/
theorem judgeBeat_after (d : Die) (msg : List Nat) (g : Dog) :
    Judged ((statusesOf msg.tail).foldl (judgeStatus d) (heldAfterStep msg g)) (judgeBeat d msg g) := by
  rw [judgeBeat_eq]
  exact (slotsAged_judged d _).trans (judged_foldl (fun g (x : SSlot) => judged_ite (judged_dogFault g 12 x.slot)) _ _)

theorem judgeBeat_judged (d : Die) (msg : List Nat) (g : Dog) : Judged g (judgeBeat d msg g) :=
  ((heldAfterStep_judged msg g).trans (judged_foldl (judgeStatus_judged d) _ _)).trans (judgeBeat_after d msg g)

/-! The words of a handover. -/

theorem wordsIn_flatMap (seg : Nat) (f : SSlot → Nat × Nat × Nat) (l : List SSlot) :
    wordsIn seg (l.flatMap fun x => [x.seg, (f x).1, (f x).2.1, (f x).2.2]) = (l.filter (·.seg == seg)).map f := by
  induction l with
  | nil => rfl
  | cons x l ih =>
    rw [List.flatMap_cons, List.cons_append, List.cons_append, List.cons_append, List.cons_append, List.nil_append, wordsIn, ih]
    by_cases h : x.seg = seg <;> simp [h]

theorem toDie_of_taken {link : Option LinkMsg} {body : List Nat} {g : Dog} {d : Die} (hdown : dieIsDown d = false)
    (h : linkTaken d.dogIo.rxSeq (link.getD (linkMsg g.txSeq body)) = true) : toDie link body g d =
      ({ g with txSeq := (g.txSeq + 1) % 65536 },
        { d with dogIo := { d.dogIo with rxSeq := some (link.getD (linkMsg g.txSeq body)).seq } },
        some (link.getD (linkMsg g.txSeq body)).body) := by
  unfold toDie
  exact if_pos (by simp [hdown, h])

theorem toDie_of_refused {link : Option LinkMsg} {body : List Nat} {g : Dog} {d : Die}
    (h : linkTaken d.dogIo.rxSeq (link.getD (linkMsg g.txSeq body)) = false) :
    toDie link body g d = ({ g with txSeq := (g.txSeq + 1) % 65536 }, d, none) := by
  unfold toDie
  exact if_neg (by simp [h])

/-- The slots for which channel B computes another word (R301). -/
def isOdd (differ : List (Fin 4 × Fin 48)) (x : SSlot) : Bool := differ.any fun y => y.1.val == x.seg && y.2.val == x.slot

/-- The slots whose words differ are noted (R301). -/
def oddNoted (differ : List (Fin 4 × Fin 48)) (g : Dog) : Dog :=
  (g.slots.filter (isOdd differ)).foldl (fun (g : Dog) (x : SSlot) => dogFault g 4 x.slot) g

/-- The beat whose words a handover gives (R301). -/
def handBeat (d : Die) : Nat := ((edgeDue d).getD (d.tb.k + 1)) % 2 ^ 32

/-- The Sheepdog as it sends the words (R301, R307). -/
def wordsSent (g : Dog) : Dog := { g with hold := g.hold - 1, slots := g.slots.map (noteSto g) }

/-- The message with the words of a handover (R301). -/
def wordsMsg (differ : List (Fin 4 × Fin 48)) (bn : Nat) (g : Dog) : List Nat :=
  g.slots.flatMap fun x => let w := wordFor g bn differ x; [x.seg, w.1, w.2.1, w.2.2]

/-- The control die takes the words of a handover (R301). -/
def wordsTaken (words : Nat → List (Nat × Nat × Nat)) (d : Die) : Die :=
  (upto 4).foldl (fun d s => updSeg d s fun y => { y with safeWords := some (words s) }) d

/-- A handover from the judged statuses on (R301). -/
def handFrom (differ : List (Fin 4 × Fin 48)) (link : Option LinkMsg) (g : Dog) (d : Die) : Dog × Die :=
  let q := toDie link (wordsMsg differ (handBeat d) (oddNoted differ g)) (wordsSent (oddNoted differ g)) d
  match q.2.2 with
  | none => (q.1, q.2.1)
  | some m => (q.1, wordsTaken (wordsIn · m) q.2.1)

/-- The control die once the statuses of the last beat are sent (R230). -/
def statusSent (taken : Bool) (d : Die) : Die :=
  { d with dogIo := { d.dogIo with slotIn := [], gtStep := if taken then none else d.dogIo.gtStep } }

theorem handover_eq (differ : List (Fin 4 × Fin 48)) (i o : Option LinkMsg) (g : Dog) (d : Die) : handover differ i o g d =
    handFrom differ o (judgeBeat d ((toDog i (statusMsg d) g d).2.2.getD [0]) (toDog i (statusMsg d) g d).1)
      (statusSent (toDog i (statusMsg d) g d).2.2.isSome (toDog i (statusMsg d) g d).2.1) := rfl

/-- The words of a segment that the Sheepdog hands over (R301). -/
def handWords (differ : List (Fin 4 × Fin 48)) (bn : Nat) (g : Dog) (s : Nat) : List (Nat × Nat × Nat) :=
  (g.slots.filter (·.seg == s)).map (wordFor g bn differ)

theorem handFrom_of_fresh {differ : List (Fin 4 × Fin 48)} {g : Dog} {d : Die} (hdown : dieIsDown d = false)
    (hout : d.dogIo.rxSeq ≠ some (oddNoted differ g).txSeq) : ∃ tx rx, handFrom differ none g d =
      ({ wordsSent (oddNoted differ g) with txSeq := tx },
        wordsTaken (handWords differ (handBeat d) (oddNoted differ g)) { d with dogIo := { d.dogIo with rxSeq := rx } }) := by
  have hq := toDie_of_taken (link := none) (body := wordsMsg differ (handBeat d) (oddNoted differ g))
    (g := wordsSent (oddNoted differ g)) (d := d) hdown (linkTaken_linkMsg.2 hout)
  have hwords : (wordsIn · (wordsMsg differ (handBeat d) (oddNoted differ g))) =
      handWords differ (handBeat d) (oddNoted differ g) := funext fun s => wordsIn_flatMap s _ _
  unfold handFrom
  rw [hq]
  simp only [Option.getD_none, linkMsg, hwords]
  exact ⟨_, _, rfl⟩

theorem oddNoted_judged (differ : List (Fin 4 × Fin 48)) (g : Dog) : Judged g (oddNoted differ g) :=
  judged_foldl (fun g (x : SSlot) => judged_dogFault g 4 x.slot) _ _

/-- The Sheepdog once a handover has judged the statuses it took and compared the words (R301). -/
def handJudged (differ : List (Fin 4 × Fin 48)) (g : Dog) (d : Die) : Dog :=
  oddNoted differ (judgeBeat d (statusMsg d) (g.withRx (some d.dogIo.txSeq)))

theorem handJudged_judged (differ : List (Fin 4 × Fin 48)) (g : Dog) (d : Die) :
    Judged (g.withRx (some d.dogIo.txSeq)) (handJudged differ g d) :=
  (judgeBeat_judged d _ _).trans (oddNoted_judged differ _)

/-- The control die after a handover: the statuses sent, the words taken (R230, R301). -/
def handedDie (words : Nat → List (Nat × Nat × Nat)) (rx : Option Nat) (d : Die) : Die :=
  wordsTaken words { statusSent true (sentDog d) with dogIo := { (statusSent true (sentDog d)).dogIo with rxSeq := rx } }

/-- A handover whose two messages are taken (R230, R290, R301). -/
theorem handover_of_fresh {differ : List (Fin 4 × Fin 48)} {g : Dog} {d : Die} (hdown : dieIsDown d = false)
    (hin : g.rxSeq ≠ some d.dogIo.txSeq) (hout : d.dogIo.rxSeq ≠ some g.txSeq) : ∃ tx rx,
    handover differ none none g d = ({ wordsSent (handJudged differ g d) with txSeq := tx },
      handedDie (handWords differ (handBeat d) (handJudged differ g d)) rx d) := by
  have htx : (handJudged differ g d).txSeq = g.txSeq := (handJudged_judged differ g d).txSeq
  have hto := toDog_of_taken (link := none) (body := statusMsg d) (g := g) hdown (linkTaken_linkMsg.2 hin)
  rw [handover_eq, hto]
  exact handFrom_of_fresh (g := judgeBeat d (statusMsg d) (g.withRx (some d.dogIo.txSeq)))
    (d := statusSent true (sentDog d)) hdown (by rw [show (oddNoted _ _).txSeq = g.txSeq from htx]; exact hout)

theorem keeps_wordsTaken (words : Nat → List (Nat × Nat × Nat)) (d : Die) : Keeps [.segs] d (wordsTaken words d) :=
  Keeps.foldl (fun d s => by simp) _ d

theorem safeWords_wordsTaken (words : Nat → List (Nat × Nat × Nat)) (d : Die) {n : Nat} (hn : n < 4) :
    (segH (wordsTaken words d) n).safeWords = some (words n) := by
  refine foldl_upto_induct (fun k x => ∀ n, n < k → n < 4 → (segH x n).safeWords = some (words n))
    (fun n hn => absurd hn (Nat.not_lt_zero n)) (fun i x hx n hn h4 => ?_) 4 n hn hn
  by_cases h : n = i
  · rw [← h, segH_updSeg_same _ _ _ h4]
  · rw [segH, updSeg, vget_vset_ne _ _ _ h]
    exact hx n (by omega) h4

/-- With the island muzzled every word is STO (R300). -/
theorem scmdOf_of_muzzled {g : Dog} (h : g.run = false) (a : Nat) : scmdOf g a = 1 := by
  simp [scmdOf, h]

/-- A function that names the axis and holds STO makes its word STO (R300). -/
theorem scmdOf_of_holdsSto {g : Dog} {f a : Nat} (hf : f < 8) (hm : bitOf (vget sfun0 g.funs f).axMask a = true)
    (hs : holdsSto (vget sfun0 g.funs f) = true) : scmdOf g a = 1 := by
  have hany : (upto 8).any (fun i => bitOf (vget sfun0 g.funs i).axMask a && holdsSto (vget sfun0 g.funs i)) = true :=
    List.any_eq_true.2 ⟨f, mem_upto.2 hf, by rw [hm, hs]; rfl⟩
  simp only [scmdOf, hany, Bool.or_true, if_true]

/-- A slot of the section stands, where it was, with the words judged. -/
theorem exists_slot_of_judged {g g' : Dog} (h : Judged g g') {x : SSlot} (hx : x ∈ g.slots) :
    ∃ y ∈ g'.slots, y.seg = x.seg ∧ y.slot = x.slot ∧ y.axis = x.axis := by
  have hkey : slotKey x ∈ g'.slots.map slotKey := h.keys ▸ List.mem_map_of_mem hx
  obtain ⟨y, hy, heq⟩ := List.mem_map.1 hkey
  simp only [slotKey, Prod.mk.injEq] at heq
  exact ⟨y, hy, heq⟩

/-- A status with an accepted code and a fault of the node is noted (R307). -/
theorem judgeStatus_fault {d : Die} {g : Dog} {x : SSlot} {bn st code at_ : Nat} (hslots : g.slots = [x])
    (hadm : slotAdmitted d x = true) (hcode : code = siCode (vget 0 g.sids x.seg) x.slot bn st) (hbit : bitOf st 1 = true) :
    (12, x.slot) ∈ (judgeStatus d g (x.seg, x.slot, bn, st, code, at_)).pend := by
  have hfind : g.slots.findIdx? (fun y => y.seg == x.seg && y.slot == x.slot) = some 0 := by simp [hslots]
  have hget : g.slots[0]? = some x := by simp [hslots]
  unfold judgeStatus
  dsimp only
  rw [hfind]
  dsimp only
  rw [hget]
  dsimp only
  rw [if_neg (by simp [hadm, hcode]), if_pos hbit]
  exact (judged_ite (judged_dogFault _ _ _)).pend _ (mem_dogFault.2 (.inr rfl))

theorem statusesOf_statusMsg {d : Die} {m : Nat × Nat × Nat × Nat × Nat × Nat} (h : d.dogIo.slotIn = [m]) :
    statusesOf (statusMsg d).tail = [m] := by
  simp [statusMsg, h, statusesOf]

/-! SS1 and STO of the axes. -/

/-- An axis takes its bits of the message of R302. -/
def axisTold (m : List Nat) (d : Die) (a : Nat) : Die :=
  updAx d a fun h => { h with ss1 := bitOf (nth m a) 0, sto := bitOf (nth m a) 1 }

theorem axH_axisTold (m : List Nat) (l : List Nat) (d : Die) {a : Nat} (ha : a ∈ l) :
    (axH (l.foldl (axisTold m) d) a).ss1 = bitOf (nth m a) 0 ∧ (axH (l.foldl (axisTold m) d) a).sto = bitOf (nth m a) 1 := by
  induction l using List.reverseRecOn with
  | nil => exact absurd ha List.not_mem_nil
  | append_singleton l b ih =>
    rw [List.foldl_append, List.foldl_cons, List.foldl_nil]
    by_cases h : a = b
    · subst h
      rw [axisTold, axH_updAx_same]
      exact ⟨rfl, rfl⟩
    · rw [axisTold, axH_updAx_ne _ _ h]
      exact ih (by simpa [h] using ha)

theorem nth_map_upto (f : Nat → Nat) {n i : Nat} (h : i < n) : nth ((upto n).map f) i = f i := by
  simp [nth, upto, h]

/-- The bits of an axis in the message of R302. -/
theorem axisMsg_bits (g : Dog) (a : Nat) :
    (bitOf (axisMsg g a) 0 = true ↔ ∃ f, f < 8 ∧ bitOf (vget sfun0 g.funs f).axMask a = true ∧
      (vget sfun0 g.funs f).decl = true ∧ (vget sfun0 g.funs f).st = 1) ∧
    (bitOf (axisMsg g a) 1 = true ↔ g.run = false ∨ ∃ f, f < 8 ∧ bitOf (vget sfun0 g.funs f).axMask a = true ∧
      holdsSto (vget sfun0 g.funs f) = true) := by
  have hbits : ∀ p q : Bool, bitOf (b2n p + 2 * b2n q) 0 = p ∧ bitOf (b2n p + 2 * b2n q) 1 = q := by decide
  unfold axisMsg
  refine ⟨?_, ?_⟩
  · rw [(hbits _ _).1]
    simp
  · rw [(hbits _ _).2]
    simp

theorem stoMessage_of_taken {g : Dog} {d : Die} (hdown : dieIsDown d = false) (hout : d.dogIo.rxSeq ≠ some g.txSeq) :
    ∃ rx, stoMessage none g d = ({ g with txSeq := (g.txSeq + 1) % 65536 },
      let t := (declAxes d).foldl (axisTold ((upto 128).map (axisMsg g))) { d with dogIo := { d.dogIo with rxSeq := rx } }
      { t with dogIo := { t.dogIo with msgQuiet := 0, msgSeen := true } }) := by
  have hq := toDie_of_taken (link := none) (body := (upto 128).map (axisMsg g)) hdown (linkTaken_linkMsg.2 hout)
  refine ⟨some g.txSeq, ?_⟩
  unfold stoMessage
  rw [hq]
  rfl

theorem stoMessage_of_bad {m : LinkMsg} (g : Dog) (d : Die) (hbad : m ≠ linkMsg m.seq m.body) :
    stoMessage (some m) g d = ({ g with txSeq := (g.txSeq + 1) % 65536 }, d) := by
  have hq := toDie_of_refused (link := some m) (body := (upto 128).map (axisMsg g)) (g := g) (d := d)
    (by simp [linkTaken, hbad])
  unfold stoMessage
  rw [hq]

/-! Events. -/

@[simp] theorem keeps_logPut {ps : List Part} (c d : Die) (hr : .regs ∈ ps) (hl : .lgb ∈ ps) (e : LogEvt) :
    Keeps ps c (logPut d e) ↔ Keeps ps c d := by
  unfold logPut
  extract_lets q d'
  split
  · rw [keeps_lgb _ _ hl, keeps_setFlag _ _ hr, keeps_incReg _ _ hr]
  · rw [keeps_lgb _ _ hl]

theorem mem_logInsert (e : LogEvt) (q : List LogEvt) : e ∈ logInsert e q := by
  induction q with
  | nil => exact List.mem_singleton_self e
  | cons x q ih =>
    rw [logInsert]
    split
    · exact List.mem_cons_self
    · exact List.mem_cons_of_mem x ih

/-- An event with room in the queue enters it (R405). -/
theorem logPut_of_room {d : Die} (e : LogEvt) (hf : flag d Reg.LOG_STAT_FROZEN = false) (hroom : d.lgb.queue.length < 32) :
    (logPut d e).lgb.queue = logInsert e d.lgb.queue := by
  have hall : (logInsert e d.lgb.queue).take 32 = logInsert e d.lgb.queue :=
    List.take_of_length_le (by rw [logInsert_length]; omega)
  have hlen := logInsert_length e d.lgb.queue
  unfold logPut
  simp only [hf, Bool.false_eq_true, if_false, hall]
  rw [if_neg (by omega)]

theorem logDog_of_room {d : Die} (e : DogEvt) (hf : flag d Reg.LOG_STAT_FROZEN = false) (hroom : d.lgb.queue.length < 32) :
    (logDog d e).lgb.queue = logInsert ⟨d.tb.gt, 8, e.code, nth [0, 3, 3, 3, 0, 1, 1, 1, 1] e.code, e.p0, 0, 0, e.held⟩
      d.lgb.queue := logPut_of_room _ hf hroom

theorem sendEvent_of_taken {g : Dog} {d : Die} {e : DogEvt} {rest : List DogEvt} (hdown : dieIsDown d = false)
    (hout : d.dogIo.rxSeq ≠ some g.txSeq) (he : g.events = e :: rest) (hreset : d.dogIo.resetSeen = false) :
    ∃ rx, sendEvent none g d = ({ g with events := rest, txSeq := (g.txSeq + 1) % 65536 },
      logDog { d with dogIo := { d.dogIo with rxSeq := rx } } e) := by
  have hq := toDie_of_taken (link := none) (body := [e.code, e.p0, b2n e.held]) (g := { g with events := rest }) hdown
    (linkTaken_linkMsg.2 hout)
  have hheld : (⟨e.code, e.p0, b2n e.held == 1⟩ : DogEvt) = e := by
    obtain ⟨code, p0, held⟩ := e
    cases held <;> rfl
  refine ⟨some g.txSeq, ?_⟩
  unfold sendEvent
  rw [if_neg (by simp [hdown]), if_neg (by simp [hreset])]
  dsimp only
  rw [he]
  dsimp only
  rw [hq]
  exact congrArg (fun e => (_, logDog _ e)) hheld

theorem up_of_not_down {d : Die} (h : dieIsDown d = false) : d.pwr.up = true := by
  simp only [dieIsDown, Bool.or_eq_false_iff, Bool.not_eq_false'] at h
  exact h.2

theorem mem_oddNoted {differ : List (Fin 4 × Fin 48)} {g : Dog} {x : SSlot} (hx : x ∈ g.slots) (ho : isOdd differ x = true) :
    (4, x.slot) ∈ (oddNoted differ g).pend := by
  have hn := noted_foldl (f := fun (g : Dog) (x : SSlot) => dogFault g 4 x.slot) (g := g) (fault := fun x => some (4, x.slot))
    (fun x g' _ => (noted_dogFault g' 4 x.slot).congr fun y => by simp [eq_comm]) (g.slots.filter (isOdd differ))
  exact (hn.2 _).2 (.inr ⟨x, List.mem_filter.2 ⟨hx, ho⟩, rfl⟩)

theorem ends.imp {i : Instr} {s : State} {P Q : State → Prop} (h : ends i s P) (hpq : ∀ t, P t → Q t) : ends i s Q := by
  obtain ⟨t, ht, hp⟩ := h
  exact ⟨t, ht, hpq t hp⟩

theorem axH_irqSettle (c d : Die) (a : Nat) : axH (irqSettle c d) a = axH d a := by
  obtain ⟨m, w, e, b, h⟩ := irqSettle_eq c d
  rw [h]
  rfl

theorem lgb_irqSettle (c d : Die) : (irqSettle c d).lgb = d.lgb := by
  obtain ⟨m, w, e, b, h⟩ := irqSettle_eq c d
  rw [h]

/-- A fault noted before the words of a handover stands, whether or not they are taken. -/
theorem handFrom_pend (differ : List (Fin 4 × Fin 48)) (link : Option LinkMsg) (g : Dog) (d : Die) (y : Nat × Nat)
    (h : y ∈ g.pend) : y ∈ (handFrom differ link g d).1.pend := by
  have hsent : ∀ body g' d', (toDie link body g' d').1.pend = g'.pend := by
    intro body g' d'
    unfold toDie
    dsimp only
    split <;> rfl
  have hodd := (oddNoted_judged differ g).pend y h
  unfold handFrom
  dsimp only
  split
  all_goals
    dsimp only
    rw [hsent]
    exact hodd

/-! The clauses of O44. -/

section Clauses

variable {s : State}

theorem sectionHand_of_loaded {l : SectLoad} {g : Dog} {d : Die} (hl : d.boot.loaded = true) (hcore : halted d 17 = false) :
    sectionHand l g d = sectionLoad l d g d := by
  simp only [sectionHand, sectionSource, hcore, hl, Bool.false_eq_true, if_false, if_true]

theorem getReg_evt {d d' : Die} (hd' : d' = d ∨ d' = dogSticky d 11) (o : Nat) : getReg d' o = getReg d o := by
  obtain rfl | rfl := hd'
  · rfl
  · rfl

theorem takeSection_sids (b : List Byte) (g : Dog) {n : Nat} (hn : n < 4) :
    vget 0 (takeSection b g).sids n = leAt b (320 + 8 * n) 4 := vget_ofFn _ _ hn

@[simp] theorem keeps_withTx {ps : List Part} (c d : Die) (h : .dogIo ∈ ps) (tx : Nat) :
    Keeps ps c (d.withTx tx) ↔ Keeps ps c d := keeps_dogIo c d h _

/-- The Sheepdog with an accepted section; one that is not validated is an event (R312). -/
def sectionTaken (b : List Byte) (g : Dog) : Dog :=
  if (takeSection b g).unval then dogEvt (takeSection b g) false 7 (takeSection b g).sectCrc else takeSection b g

theorem sectionTaken_frame (b : List Byte) (g : Dog) : sectionTaken b g =
    { takeSection b g with events := (sectionTaken b g).events, evlost := (sectionTaken b g).evlost } := by
  unfold sectionTaken
  split
  · exact dogEvt_frame _ false 7 _
  · rfl

/-- What the Sheepdog holds of an accepted section (R311, R312, R369). -/
structure TookSection (b : List Byte) (g g' : Dog) : Prop where
  sectOk : g'.sectOk = true
  sectCrc : g'.sectCrc = leAt b (b.length - 8) 4
  unval : g'.unval = true ↔ leAt b (b.length - 4) 4 = 0
  accepted : g'.sinceAccept = false
  run : g'.run = g.run
  so : g'.so = g.so
  pairs : ∀ p, p < 8 → vget pair0 g'.pairs p = keepSeen (vget pair0 g.pairs p) (secPair b p)
  funs : ∀ f, f < 8 → vget sfun0 g'.funs f = secFun b f

theorem tookSection (b : List Byte) (g : Dog) : TookSection b g (takeSection b g) :=
  ⟨rfl, rfl, beq_iff_eq, rfl, rfl, rfl, fun _ hp => vget_ofFn _ _ hp, fun _ hf => vget_ofFn _ _ hf⟩

theorem sectionTaken_took (b : List Byte) (g : Dog) : TookSection b g (sectionTaken b g) := by
  have h := tookSection b g
  rw [sectionTaken_frame]
  exact ⟨h.sectOk, h.sectCrc, h.unval, h.accepted, h.run, h.so, h.pairs, h.funs⟩

/-- The control die publishes an accepted section. -/
theorem keeps_sectionPublished (g : Dog) (d : Die) (tx : Nat) :
    Keeps [.regs, .segs, .dogIo] d (publishSection g (d.withTx tx)) :=
  ((keeps_withTx _ _ (by simp) tx).2 (.refl _ _)).trans ((keeps_publishSection g _).mono (by simp))

/-- A section that is accepted (R311, R312). -/
theorem sectionLoad_ends (hl : s.die.boot.loaded = true) (hdown : dieIsDown s.die = false) (hcore : halted s.die 17 = false)
    (htried : s.dog.sectTried = false) (hfresh : toDogFresh s) (hs : sectionSound s.die) :
    ends (.safetySectionLoad ⟨[], true, true⟩) s fun t => TookSection s.die.boot.safety s.dog t.dog ∧
      (∀ n, n < 4 → getReg t.die (Reg.LSH_SID n) = BitVec.ofNat 32 (leAt s.die.boot.safety (320 + 8 * n) 4)) ∧
      dieBut [.regs, .segs, .dogIo] s t := by
  have hsent : (sendAll (sectionMsgs (found s)) [] { s.dog with sectTried := true } (found s)).2.2 =
      some (sectionMsgs (found s)) := sendAll_fresh _ hdown hfresh
  obtain ⟨rx, tx, hload⟩ := sectionLoad_of_accepted (l := ⟨[], true, true⟩) (src := found s) (d := found s) htried hdown hsent
    hs rfl rfl
  rw [← sectionHand_of_loaded (l := ⟨[], true, true⟩) (g := s.dog) (d := found s) hl hcore] at hload
  have htook : TookSection s.die.boot.safety s.dog
      (sectionTaken s.die.boot.safety (({ s.dog with sectTried := true } : Dog).withRx rx)) := by
    obtain ⟨h1, h2, h3, h4, h5, h6, h7, h8⟩ := sectionTaken_took s.die.boot.safety (({ s.dog with sectTried := true } : Dog).withRx rx)
    exact ⟨h1, h2, h3, h4, h5, h6, h7, h8⟩
  refine ends_of_onDog_evt (s' := s) rfl (up_of_not_down hdown) fun d hd => ?_
  rw [hload] at hd ⊢
  refine ⟨htook, fun n hn => ?_, dieBut_command (keeps_evt (keeps_sectionPublished _ _ tx) (by simp) hd)⟩
  rw [getReg_irqSettle, getReg_evt hd, getReg_publishSection _ _ hn]
  exact congrArg (BitVec.ofNat 32) (takeSection_sids _ _ hn)

/-- A section that is refused (R303, R311). -/
theorem sectionRefused_ends (l : SectLoad) (hl : s.die.boot.loaded = true) (hdown : dieIsDown s.die = false)
    (hcore : halted s.die 17 = false) (htried : s.dog.sectTried = false)
    (h : (sendAll (sectionMsgs (found s)) l.link { s.dog with sectTried := true } (found s)).2.2 = none ∨
      ((sendAll (sectionMsgs (found s)) l.link { s.dog with sectTried := true } (found s)).2.2 = some (sectionMsgs (found s)) ∧
        (sectionSound (found s) → l.agree = true → l.readBack = false))) :
    ends (.safetySectionLoad l) s fun t => t.dog.sectOk = false ∧ (0x03, 0) ∈ t.dog.pend ∧ t.dog.run = s.dog.run ∧
      t.dog.so = s.dog.so ∧ dieBut [.dogIo] s t := by
  obtain ⟨rx, tx, hload⟩ := sectionLoad_of_refused (l := l) (src := found s) (d := found s) htried hdown h
  rw [← sectionHand_of_loaded (l := l) (g := s.dog) (d := found s) hl hcore] at hload
  refine ends_of_onDog_evt (s' := s) rfl (up_of_not_down hdown) fun d hd => ?_
  rw [hload] at hd ⊢
  have hmem := (mem_dogFault (g := { ({ s.dog with sectTried := true } : Dog).withRx rx with sectOk := false, sectCrc := 0 })
    (c := 3) (x := 0)).2 (.inr rfl)
  have hkeep : Keeps [.dogIo] (found s) d :=
    keeps_evt ((keeps_withTx _ _ (by simp) tx).2 (.refl _ _)) (by simp) hd
  refine ⟨?_, hmem, ?_, ?_, dieBut_command hkeep⟩ <;> dsimp only <;> rw [dogFault_frame] <;> rfl

/-- The section is handed over once only, and only when there is one (R311). -/
theorem sectionIdle_ends (l : SectLoad) (hup : s.die.pwr.up = true)
    (h : s.dog.sectTried = true ∨ sectionSource (found s) = none) :
    ends (.safetySectionLoad l) s fun t => dieBut [] s t ∧ t.dog = s.dog := by
  have hidle : sectionHand l s.dog (found s) = (s.dog, found s) := by
    unfold sectionHand
    split
    next c hc =>
      obtain h | h := h
      · simp [sectionLoad, h]
      · exact absurd (hc.symm.trans h) nofun
    next => rfl
  refine ends_of_onDog (s' := s) rfl hup ?_ ?_ <;> rw [hidle]
  exact ⟨dieBut_command (.refl _ _), rfl⟩

/-- After a handover whose messages are taken: what the Sheepdog and the control die hold. -/
structure HandedOver (s t : State) : Prop where
  frame : dieBut [.segs, .dogIo] (handed s) t
  slotIn : t.die.dogIo.slotIn = []
  gtStep : t.die.dogIo.gtStep = none
  judged : Judged (s.dog.withRx (some s.die.dogIo.txSeq)) (handJudged s.dogIn.differ s.dog (found s))
  run : t.dog.run = s.dog.run
  so : t.dog.so = s.dog.so
  funs : t.dog.funs = s.dog.funs
  pend : t.dog.pend = (handJudged s.dogIn.differ s.dog (found s)).pend
  words : ∀ n, n < 4 → (segH t.die n).safeWords =
    some (handWords s.dogIn.differ (handBeat s.die) (handJudged s.dogIn.differ s.dog (found s)) n)

theorem keeps_statusSent (ps : List Part) (h : .dogIo ∈ ps) (taken : Bool) (d : Die) : Keeps ps d (statusSent taken d) :=
  (keeps_dogIo d d h _).2 (.refl _ _)

theorem segH_irqSettle (c d : Die) (n : Nat) : segH (irqSettle c d) n = segH d n := by
  obtain ⟨m, w, e, b, h⟩ := irqSettle_eq c d
  rw [h]
  rfl

section HandedDie

variable (words : Nat → List (Nat × Nat × Nat)) (rx : Option Nat) (d : Die)

/-- What a handover leaves of the control die that it found. -/
theorem keeps_handedDie : Keeps [.segs, .dogIo] d (handedDie words rx d) := by
  have hsent : Keeps [.segs, .dogIo] d (sentDog d) := (keeps_sentDog d d (by simp)).2 (.refl _ _)
  exact ((hsent.trans (keeps_statusSent _ (by simp) true _)).trans ((keeps_dogIo _ _ (by simp) _).2 (.refl _ _))).trans
    ((keeps_wordsTaken words _).mono (by simp))

theorem dogIo_handedDie : (handedDie words rx d).dogIo = { (statusSent true (sentDog d)).dogIo with rxSeq := rx } :=
  keeps_wordsTaken words _ .dogIo (by simp)

theorem slotIn_handedDie : (handedDie words rx d).dogIo.slotIn = [] := by
  rw [dogIo_handedDie]
  rfl

theorem gtStep_handedDie : (handedDie words rx d).dogIo.gtStep = none := by
  rw [dogIo_handedDie]
  rfl

theorem safeWords_handedDie {n : Nat} (hn : n < 4) : (segH (handedDie words rx d) n).safeWords = some (words n) :=
  safeWords_wordsTaken words _ hn

end HandedDie

theorem wordsSent_outputs (g : Dog) (tx : Nat) : { wordsSent g with txSeq := tx }.run = g.run ∧
    { wordsSent g with txSeq := tx }.so = g.so ∧ { wordsSent g with txSeq := tx }.funs = g.funs := ⟨rfl, rfl, rfl⟩

theorem handover_ends (hdown : dieIsDown s.die = false) (hin : toDogFresh s) (hout : toDieFresh s)
    (h0 : arriving s 0 = none) (h1 : arriving s 1 = none) : ends .safetyWordHandover s (HandedOver s) := by
  obtain ⟨tx, rx, hh⟩ := handover_of_fresh (differ := s.dogIn.differ) (g := s.dog) (d := found s) hdown hin hout
  have hj := handJudged_judged s.dogIn.differ s.dog (found s)
  have hexec : exec .safetyWordHandover s = onDog (handover s.dogIn.differ none none) (handed s) := by
    show onDog (handover s.dogIn.differ (arriving s 0) (arriving s 1)) (handed s) = _
    rw [h0, h1]
  have hh' : handover s.dogIn.differ none none (handed s).dog (found (handed s)) = _ := hh
  obtain ⟨hrun, hso, hfuns⟩ := wordsSent_outputs (handJudged s.dogIn.differ s.dog (found s)) tx
  refine ends_of_onDog hexec (up_of_not_down hdown) ?_ ?_ <;> rw [hh']
  · exact hj.evlost.le
  · refine ⟨dieBut_command (s := handed s) (keeps_handedDie _ rx _), ?_, ?_, hj, hrun.trans hj.run,
      hso.trans hj.so, hfuns.trans hj.funs, rfl, fun n hn => ?_⟩
    · rw [irqSettle_dogIo, slotIn_handedDie]
    · rw [irqSettle_dogIo, gtStep_handedDie]
    · rw [segH_irqSettle, safeWords_handedDie _ _ _ hn]
      rfl

/-- The word of a slot of the section after a handover (R300, R301). -/
theorem HandedOver.word {t : State} (h : HandedOver s t) {x : SSlot} (hx : x ∈ s.dog.slots) (hseg : x.seg < 4) :
    ∃ w c, (segH t.die x.seg).safeWords = some w ∧
      (x.slot, c, if isOdd s.dogIn.differ x then 0xFFFF - soCode (vget 0 s.dog.sids x.seg) x.slot (handBeat s.die) c
        else soCode (vget 0 s.dog.sids x.seg) x.slot (handBeat s.die) c) ∈ w ∧
      (isOdd s.dogIn.differ x = true → (0x04, x.slot) ∈ t.dog.pend) ∧
      ((∃ f, f < 8 ∧ bitOf (vget sfun0 s.dog.funs f).axMask x.axis = true ∧ holdsSto (vget sfun0 s.dog.funs f) = true) →
        c = 1) := by
  have hj := h.judged
  have hsids : (handJudged s.dogIn.differ s.dog (found s)).sids = s.dog.sids := hj.sids
  have hfuns : (handJudged s.dogIn.differ s.dog (found s)).funs = s.dog.funs := hj.funs
  obtain ⟨y, hy, hyseg, hyslot, hyaxis⟩ := exists_slot_of_judged hj (x := x) hx
  refine ⟨_, scmdOf (handJudged s.dogIn.differ s.dog (found s)) x.axis, h.words x.seg hseg, ?_, fun hodd => ?_, ?_⟩
  · refine List.mem_map.2 ⟨y, List.mem_filter.2 ⟨hy, by simp [hyseg]⟩, ?_⟩
    rw [wordFor, hyseg, hyslot, hyaxis, hsids]
    rfl
  · rw [h.pend]
    obtain ⟨z, hz, hzseg, hzslot, -⟩ := exists_slot_of_judged (x := x)
      (judgeBeat_judged (found s) (statusMsg (found s)) (s.dog.withRx (some (found s).dogIo.txSeq))) hx
    have hoddz : isOdd s.dogIn.differ z = true := by
      rw [isOdd, hzseg, hzslot]
      exact hodd
    exact hzslot ▸ mem_oddNoted hz hoddz
  · rintro ⟨f, hf, hm, hs⟩
    exact scmdOf_of_holdsSto hf (by rw [hfuns]; exact hm) (by rw [hfuns]; exact hs)

/-- With the island muzzled the words are STO (R300). -/
theorem HandedOver.muzzled {t : State} (h : HandedOver s t) (hm : s.dog.run = false) {n : Nat} (hn : n < 4) :
    ∃ w, (segH t.die n).safeWords = some w ∧ ∀ x ∈ w, x.2.1 = 1 := by
  refine ⟨_, h.words n hn, fun x hx => ?_⟩
  obtain ⟨y, -, rfl⟩ := List.mem_map.1 hx
  exact scmdOf_of_muzzled (h.judged.run.trans hm) y.axis

/-- A status of an admitted node that tells a fault is noted in the handover that passes it (R307). -/
theorem status_ends {x : SSlot} {bn st code at_ : Nat} (hdown : dieIsDown s.die = false) (hin : toDogFresh s)
    (hslots : s.dog.slots = [x]) (hmsg : s.die.dogIo.slotIn = [(x.seg, x.slot, bn, st, code, at_)])
    (hadm : slotAdmitted s.die x = true) (hcode : code = siCode (vget 0 s.dog.sids x.seg) x.slot bn st)
    (hbit : bitOf st 1 = true) (h0 : arriving s 0 = none) :
    ends .safetyWordHandover s fun t => (0x0C, x.slot) ∈ t.dog.pend := by
  have hexec : exec .safetyWordHandover s = onDog (handover s.dogIn.differ none (arriving s 1)) (handed s) := by
    show onDog (handover s.dogIn.differ (arriving s 0) (arriving s 1)) (handed s) = _
    rw [h0]
  have hto := toDog_of_taken (link := none) (body := statusMsg (found s)) (g := s.dog) (d := found s) hdown
    (linkTaken_linkMsg.2 hin)
  refine ends_of_onDog_evt (s' := handed s) hexec (up_of_not_down hdown) fun d _ => ?_
  show (0x0C, x.slot) ∈ (handover s.dogIn.differ none (arriving s 1) s.dog (found s)).1.pend
  rw [handover_eq, hto]
  have hheld := heldAfterStep_judged (statusMsg (found s)) (s.dog.withRx (some (found s).dogIo.txSeq))
  have hslots' : (heldAfterStep (statusMsg (found s)) (s.dog.withRx (some (found s).dogIo.txSeq))).slots = [x] := by
    unfold heldAfterStep
    split <;> exact hslots
  have hnoted : (12, x.slot) ∈ ((statusesOf (statusMsg (found s)).tail).foldl (judgeStatus (found s))
      (heldAfterStep (statusMsg (found s)) (s.dog.withRx (some (found s).dogIo.txSeq)))).pend := by
    rw [statusesOf_statusMsg (d := found s) hmsg, List.foldl_cons, List.foldl_nil]
    exact judgeStatus_fault hslots' hadm (by rw [hheld.sids]; exact hcode) hbit
  exact handFrom_pend _ _ _ _ _ ((judgeBeat_after (found s) _ _).pend _ hnoted)

/-- SS1_STO_MESSAGE (R302). -/
theorem stoMessage_ends (hdown : dieIsDown s.die = false) (hout : toDieFresh s) (h0 : arriving s 0 = none) :
    ends .ss1StoMessage s fun t => dieBut [.axes, .dogIo] (arrived s 1) t ∧
      t.dog = { s.dog with txSeq := (s.dog.txSeq + 1) % 65536 } ∧ t.die.dogIo.msgQuiet = 0 ∧ ∀ a ∈ declAxes s.die,
      ((axH t.die a).ss1 = true ↔ ∃ f, f < 8 ∧ bitOf (vget sfun0 s.dog.funs f).axMask a = true ∧
        (vget sfun0 s.dog.funs f).decl = true ∧ (vget sfun0 s.dog.funs f).st = 1) ∧
      ((axH t.die a).sto = true ↔ s.dog.run = false ∨ ∃ f, f < 8 ∧ bitOf (vget sfun0 s.dog.funs f).axMask a = true ∧
        holdsSto (vget sfun0 s.dog.funs f) = true) := by
  obtain ⟨rx, hmsg⟩ := stoMessage_of_taken (g := s.dog) (d := found (arrived s 1)) hdown hout
  refine ends_of_onDog (s' := arrived s 1) rfl (up_of_not_down hdown) ?_ ?_ <;>
    rw [h0, show (arrived s 1).dog = s.dog from rfl, hmsg]
  refine ⟨dieBut_command (s := arrived s 1) ?_, rfl, ?_, fun a ha => ?_⟩
  · rw [keeps_dogIo _ _ (by simp)]
    exact ((keeps_dogIo _ _ (by simp) _).2 (.refl _ _)).trans (Keeps.foldl (fun d a => (keeps_updAx d d (by simp) a _).2 (.refl _ _)) _ _)
  · rw [irqSettle_dogIo]
  · rw [axH_irqSettle]
    obtain ⟨hss1, hsto⟩ := axH_axisTold ((upto 128).map (axisMsg s.dog)) (declAxes s.die)
      { found (arrived s 1) with dogIo := { (found (arrived s 1)).dogIo with rxSeq := rx } } ha
    have hlt : a < 128 := mem_upto.1 (List.mem_filter.1 ha).1
    rw [nth_map_upto _ hlt] at hss1 hsto
    exact ⟨(Bool.eq_iff_iff.1 hss1).trans (axisMsg_bits s.dog a).1, (Bool.eq_iff_iff.1 hsto).trans (axisMsg_bits s.dog a).2⟩

/-- SHEEPDOG_EVENT (R305, R405). -/
theorem event_ends {e : DogEvt} {rest : List DogEvt} (hdown : dieIsDown s.die = false) (hout : toDieFresh s)
    (he : s.dog.events = e :: rest) (hreset : s.die.dogIo.resetSeen = false) (h0 : arriving s 0 = none) :
    ends .sheepdogEvent s fun t => t.dog = { s.dog with events := rest, txSeq := (s.dog.txSeq + 1) % 65536 } ∧
      dieBut [.regs, .lgb, .dogIo] (arrived s 1) t ∧ (flag s.die Reg.LOG_STAT_FROZEN = false → s.die.lgb.queue.length < 32 →
        t.die.lgb.queue.length = s.die.lgb.queue.length + 1 ∧
        ∃ x ∈ t.die.lgb.queue, x.src = 8 ∧ x.code = e.code ∧ x.p0 = e.p0 ∧ x.late = e.held) := by
  obtain ⟨rx, hsend⟩ := sendEvent_of_taken (g := s.dog) (d := found (arrived s 1)) hdown hout he hreset
  refine ends_of_onDog (s' := arrived s 1) rfl (up_of_not_down hdown) ?_ ?_ <;>
    rw [h0, show (arrived s 1).dog = s.dog from rfl, hsend]
  refine ⟨rfl, dieBut_command (s := arrived s 1) ?_, fun hf hroom => ?_⟩
  · rw [logDog, keeps_logPut _ _ (by simp) (by simp)]
    exact (keeps_dogIo _ _ (by simp) _).2 (.refl _ _)
  · have hq := logDog_of_room (d := { found (arrived s 1) with dogIo := { (found (arrived s 1)).dogIo with rxSeq := rx } })
      e hf hroom
    have hlgb := lgb_irqSettle (arrived s 1).die
      (logDog { found (arrived s 1) with dogIo := { (found (arrived s 1)).dogIo with rxSeq := rx } } e)
    rw [hlgb, hq]
    exact ⟨logInsert_length _ _, _, mem_logInsert _ _, rfl, rfl, rfl, rfl⟩

end Clauses

/-- Settles O44: section, handover, message and events, each by what it does with a link message that is taken or not. -/
theorem safetyLayerExchange : Obligations.SafetyLayerExchange := by
  unfold Obligations.SafetyLayerExchange
  refine ⟨?load, fun s x hup ht => sectionIdle_ends x hup (.inl ht), ?none, ?words, ?status, ?sto, ?bad, ?timeout, ?down, ?event⟩
  case load =>
    intro s hl hdown hcore htried b crc val good refused
    have hgood : good ↔ sectionSound (found s) := Iff.rfl
    refine ⟨fun hfresh hg => ends.imp (sectionLoad_ends hl hdown hcore htried hfresh hg) fun t h => ?_, fun hfresh agree readBack hbad => ?_,
      fun m rest agree readBack hbad => ?_⟩
    · obtain ⟨ht, hsid, hdie⟩ := h
      exact ⟨ht.sectOk, ht.sectCrc, ht.unval, ht.accepted, ht.run, ht.so, ht.pairs, ht.funs, hsid, hdie⟩
    · refine sectionRefused_ends _ hl hdown hcore htried (.inr ⟨sendAll_fresh _ hdown hfresh, fun hs ha => ?_⟩)
      obtain hbad | hbad | hbad := hbad
      · exact absurd (hgood.2 hs) hbad
      · exact absurd (ha.symm.trans hbad) nofun
      · exact hbad
    · exact sectionRefused_ends _ hl hdown hcore htried (.inl (sendAll_bad _ _ rest hdown hbad))
  case none =>
    intro s x hup hl hnone
    refine sectionIdle_ends x hup (.inr ?_)
    have hl' : (found s).boot.loaded = false := hl
    have hloader : (loaderDue (found s) && !hostDownload (found s) && decide (1000000 ≤ (found s).tb.gt)) = false := by
      show (loaderDue s.die && !hostDownload s.die && decide (1000000 ≤ s.die.tb.gt)) = false
      obtain h | h | h := hnone
      · simp [h]
      · simp [h]
      · simp [h]
    unfold sectionSource
    rw [hl', hloader]
    simp
  case words =>
    intro s hdown hin hout h0 h1
    exact ends.imp (handover_ends hdown hin hout h0 h1) fun t h => ⟨h.frame, h.slotIn, h.gtStep, h.run, h.so,
      h.funs, fun hm n hn => h.muzzled hm hn, fun x hx hseg => h.word hx hseg⟩
  case status =>
    intro s x bn st code at_ hdown hin hslots hmsg hadm hcode hbit h0
    exact status_ends hdown hin hslots hmsg hadm hcode hbit h0
  case sto =>
    intro s hdown hout h0
    exact stoMessage_ends hdown hout h0
  case bad =>
    intro s m hup hbad h0
    have hmsg := stoMessage_of_bad s.dog (found (arrived s 1)) hbad
    refine ends_of_onDog (s' := arrived s 1) rfl hup ?_ ?_ <;> rw [h0, show (arrived s 1).dog = s.dog from rfl, hmsg]
    exact ⟨dieBut_command (.refl _ _), rfl⟩
  case timeout =>
    intro s
    refine ends_of_onDie (f := fun d => { d with dogIo := { d.dogIo with msgQuiet := 2 } }) rfl ⟨keepsBut_command ?_, ?_⟩
    · exact (keeps_dogIo _ _ (by simp) _).2 (.refl _ _)
    · rw [irqSettle_dogIo]
  case down =>
    intro s hup hdown
    have hidle : sendEvent (arriving s 0) s.dog (found (arrived s 1)) = (s.dog, found (arrived s 1)) := if_pos hdown
    refine ends_of_onDog (s' := arrived s 1) rfl hup ?_ ?_ <;> rw [show (arrived s 1).dog = s.dog from rfl, hidle]
    exact ⟨dieBut_command (.refl _ _), rfl⟩
  case event =>
    intro s e rest hdown hout he hreset h0
    exact event_ends hdown hout he hreset h0

end Sys2Proof.Machine
end

section
/-! PROOFS. O50: the resets of the control die and the starts that follow (R358, R375, R380, R384, R390 to R393, R402, R404). -/

namespace Sys2Proof.Machine

open Sys2Proof

theorem pwr_irqSettle (c d : Die) : (irqSettle c d).pwr = d.pwr := by
  obtain ⟨m, w, e, b, h⟩ := irqSettle_eq c d
  rw [h]

theorem straps_irqSettle (c d : Die) : (irqSettle c d).straps = d.straps := by
  obtain ⟨m, w, e, b, h⟩ := irqSettle_eq c d
  rw [h]

/-! Fields of one register. -/

theorem flag_setFld_ne (d : Die) (f g : Fld) (v : Nat) (h : f.off ≠ g.off) : flag (setFld d g v) f = flag d f := by
  rw [flag, fld_setFld_ne d f g v h, flag]

/-- A number with a field replaced keeps the bits above the field. -/
theorem setBitsOf_div_two_pow (x lo w v : Nat) : setBitsOf x lo w v / 2 ^ (lo + w) = x / 2 ^ (lo + w) := by
  have hlow : x % 2 ^ lo < 2 ^ lo := Nat.mod_lt _ (Nat.two_pow_pos _)
  have hmid : v % 2 ^ w + 1 ≤ 2 ^ w := Nat.mod_lt _ (Nat.two_pow_pos _)
  have hrest : v % 2 ^ w * 2 ^ lo + x % 2 ^ lo < 2 ^ (lo + w) :=
    calc v % 2 ^ w * 2 ^ lo + x % 2 ^ lo < (v % 2 ^ w + 1) * 2 ^ lo := by rw [Nat.succ_mul]; omega
      _ ≤ 2 ^ w * 2 ^ lo := Nat.mul_le_mul_right _ hmid
      _ = 2 ^ (lo + w) := by rw [Nat.pow_add, Nat.mul_comm]
  rw [setBitsOf_eq, Nat.add_assoc, Nat.add_comm, Nat.add_mul_div_right _ _ (Nat.two_pow_pos _), Nat.div_eq_of_lt hrest,
    Nat.zero_add]

theorem bitsOf_setBitsOf_above (x lo w v : Nat) {lo' w' : Nat} (h : lo + w ≤ lo') :
    bitsOf (setBitsOf x lo w v) lo' w' = bitsOf x lo' w' := by
  obtain ⟨k, rfl⟩ := Nat.exists_eq_add_of_le h
  rw [bitsOf_eq, bitsOf_eq, Nat.pow_add, ← Nat.div_div_eq_div_mul, setBitsOf_div_two_pow, Nat.div_div_eq_div_mul]

/-- A write of a field leaves the fields above it in the same register. -/
theorem fld_setFld_above (d : Die) (f g : Fld) (v : Nat) (hoff : f.off = g.off) (hlo : g.lo + g.w ≤ f.lo)
    (hg : g.lo + g.w ≤ 32) : fld (setFld d g v) f = fld d f := by
  have hlt : setBitsOf (getReg d g.off).toNat g.lo g.w v < 2 ^ 32 := setBitsOf_lt _ _ _ _ _ (BitVec.isLt _) hg
  rw [fld, fld, setFld, hoff, getReg_putReg_same, BitVec.toNat_ofNat, Nat.mod_eq_of_lt hlt, bitsOf_setBitsOf_above _ _ _ _ hlo]

/-! What a reset loses. -/

/-- The die `d` is the die `c` after a reset: what is volatile is lost, what the Logbook and flash hold stands (R390, R406). -/
structure Lost (c d : Die) : Prop where
  tb : d.tb = timebase0
  mem : d.mem = mem0
  entries : d.lgb.entries = c.lgb.entries
  queue : ∀ e ∈ d.lgb.queue, e.src = 8 ∧ e.late = true
  buffer : d.knl.buffer = c.knl.buffer
  flash : d.boot.flash = flashOver c.boot
  unloaded : d.boot.loaded = false
  cmds : d.host.cmds = []
  seq : getReg d Reg.LOG_SEQ = getReg c Reg.LOG_SEQ

theorem Lost.irqSettle {c d : Die} (h : Lost c d) (x : Die) : Lost c (Machine.irqSettle x d) := by
  have hseq := getReg_irqSettle x d Reg.LOG_SEQ
  obtain ⟨m, w, e, b, heq⟩ := irqSettle_eq x d
  rw [heq] at hseq ⊢
  exact ⟨h.tb, h.mem, h.entries, h.queue, h.buffer, h.flash, h.unloaded, h.cmds, hseq.trans h.seq⟩

theorem Lost.setFld {c d : Die} (h : Lost c d) (f : Fld) (v : Nat) (hf : f.off ≠ Reg.LOG_SEQ) :
    Lost c (Machine.setFld d f v) :=
  ⟨h.tb, h.mem, h.entries, h.queue, h.buffer, h.flash, h.unloaded, h.cmds, (getReg_setFld_ne d f v hf.symm).trans h.seq⟩

/-- The events of the Logbook's queue that stay are the Sheepdog's (R305, R406). -/
theorem logReset_lgb (d : Die) : (logReset d).lgb.entries = d.lgb.entries ∧
    ∀ e ∈ (logReset d).lgb.queue, e.src = 8 ∧ e.late = true := by
  have hkept : ∀ e ∈ (d.lgb.queue.filter fun e => e.src == 8).map (fun e => { e with late := true }),
      e.src = 8 ∧ e.late = true := by
    intro e he
    obtain ⟨x, hx, rfl⟩ := List.mem_map.1 he
    exact ⟨beq_iff_eq.1 (List.mem_filter.1 hx).2, rfl⟩
  unfold logReset
  dsimp only
  split
  · exact ⟨rfl, hkept⟩
  · exact ⟨rfl, hkept⟩

/-- A register that survives a reset, and that the reset does not write, reads as before (R390, R406). -/
theorem getReg_dieReset_kept (d : Die) (cause : Nat) {off : Nat} (h : survives off = true)
    (hne : off ≠ Reg.LOG_DBG ∧ off ≠ Reg.LOG_CNT_LOST ∧ off ≠ Reg.LOG_STAT ∧ off ≠ Reg.GLB_RST_CNT ∧ off ≠ Reg.PWR_STAT) :
    getReg (dieReset d cause) off = getReg d off := by
  obtain ⟨hdbg, hcnt, hstat, hrst, hpwr⟩ := hne
  calc getReg (dieReset d cause) off = getReg (resetCounted d) off := getReg_dieReset_survives d cause h
    _ = getReg (logReset (setFld d Reg.LOG_DBG_ARMED 0)) off := by
      rw [resetCounted, getReg_setFld_ne _ _ _ hpwr, getReg_setFld_ne _ _ _ hrst]
    _ = getReg d off := by rw [getReg_logReset_ne _ hcnt hstat, getReg_setFld_ne _ _ _ hdbg]

/-- A register that does not survive a reset is as after power-up. -/
theorem getReg_dieReset_lost (d : Die) (cause : Nat) {off : Nat} (h : survives off = false) :
    getReg (dieReset d cause) off = resetVal off := by
  show sget (resetVal off) ((resetCounted d).regs.filter fun x => survives x.1) off = resetVal off
  induction (resetCounted d).regs with
  | nil => rfl
  | cons x l ih =>
    by_cases hx : survives x.1 = true
    · have hne : x.1 ≠ off := fun heq => by rw [heq, h] at hx; exact absurd hx nofun
      simpa [hx, sget, hne] using ih
    · simpa [hx] using ih

theorem keeps_logReset (d : Die) : Keeps [.regs, .lgb] d (logReset d) := by
  unfold logReset
  extract_lets kept n _ d'
  have hd' : Keeps [.regs, .lgb] d d' := (keeps_lgb d d (by simp) _).2 (.refl _ _)
  split
  · exact hd'
  · rw [keeps_lgb _ _ (by simp), keeps_setFlag _ _ (by simp), keeps_putReg _ _ (by simp)]
    exact hd'

theorem keeps_resetCounted (d : Die) : Keeps [.regs, .lgb] d (resetCounted d) := by
  rw [resetCounted, keeps_setFld _ _ (by simp), keeps_setFld _ _ (by simp)]
  exact ((keeps_setFld d d (by simp) _ _).2 (.refl _ _)).trans (keeps_logReset _)

theorem dieReset_lost (d : Die) (cause : Nat) : Lost d (dieReset d cause) := by
  obtain ⟨hentries, hqueue⟩ := logReset_lgb (setFld d Reg.LOG_DBG_ARMED 0)
  have hkeep := keeps_resetCounted d
  have hknl : (resetCounted d).knl = d.knl := hkeep .knl (by decide)
  have hbuffer : (resetCounted d).knl.buffer = d.knl.buffer := congrArg Kennel.buffer hknl
  have hflash : flashOver (resetCounted d).boot = flashOver d.boot := congrArg flashOver (hkeep .boot (by decide))
  exact ⟨rfl, rfl, hentries, hqueue, hbuffer, hflash, rfl, rfl,
    getReg_dieReset_kept d cause (by decide) (by decide)⟩

theorem dieReset_straps (d : Die) (cause : Nat) : (dieReset d cause).straps = d.straps := by
  have hstraps : (resetCounted d).straps = d.straps := keeps_resetCounted d .straps (by decide)
  exact hstraps

theorem dieReset_pwr (d : Die) (cause : Nat) : (dieReset d cause).pwr =
    { d.pwr with dom := 0, runDoms := 0, cause := cause, dozeReq := false, dozeOut := false, mute := false } := by
  have hpwr : (resetCounted d).pwr = d.pwr := keeps_resetCounted d .pwr (by decide)
  rw [← hpwr]
  rfl

/-! The start. -/

/-- The start writes registers of the beat, the cause and the boot epoch only (R375, R404). -/
theorem getReg_dieStart_above (d : Die) (straps : BitVec 16) {off : Nat} (h : 0x4000 ≤ off) (hne : off ≠ Reg.LOG_EPOCH) :
    getReg (dieStart d straps) off = getReg d off := by
  have hbeat : ∀ r, r < 0x4000 → off ≠ r := fun r hr => by omega
  rw [getReg_dieStart_ne d straps hne]
  unfold startReported beatDefaults beatFixed
  dsimp only
  rw [getReg_putReg_ne _ _ (hbeat _ (by decide)), getReg_setFld_ne _ Reg.BEAT_PERIOD_VALUE _ (hbeat _ (by decide)),
    getReg_setFld_ne _ Reg.BEAT_FCL_VALUE _ (hbeat _ (by decide)), getReg_setFld_ne _ Reg.BEAT_OPH_VALUE _ (hbeat _ (by decide)),
    getReg_setFld_ne _ Reg.BEAT_IDL_VALUE _ (hbeat _ (by decide)), getReg_setFld_ne _ Reg.BEAT_CFG_RATE _ (hbeat _ (by decide))]
  rfl

theorem Lost.dieStart {c d : Die} (h : Lost c d) (straps : BitVec 16) : Lost c (Machine.dieStart d straps) := by
  have hseq := getReg_dieStart_above d straps (off := Reg.LOG_SEQ) (by decide) (by decide)
  have hrest : (Machine.dieStart d straps).tb = timebase0 ∧ (Machine.dieStart d straps).mem = d.mem ∧
      (Machine.dieStart d straps).lgb = d.lgb ∧ (Machine.dieStart d straps).knl = d.knl ∧
      (Machine.dieStart d straps).boot = d.boot ∧ (Machine.dieStart d straps).host = d.host := by
    obtain heq | ⟨e, heq⟩ := dieStart_cases d straps <;> rw [heq] <;> exact ⟨rfl, rfl, rfl, rfl, rfl, rfl⟩
  obtain ⟨htb, hmem, hlgb, hknl, hboot, hhost⟩ := hrest
  exact ⟨htb, hmem.trans h.mem, by rw [hlgb]; exact h.entries, by rw [hlgb]; exact h.queue, by rw [hknl]; exact h.buffer,
    by rw [hboot]; exact h.flash, by rw [hboot]; exact h.unloaded, by rw [hhost]; exact h.cmds, hseq.trans h.seq⟩

/-- The boot epoch after a start (R404). -/
theorem fld_dieStart_epoch (d : Die) (straps : BitVec 16) : fld (dieStart d straps) Reg.LOG_EPOCH_EPOCH =
    if bitOf d.pwr.cause 0 then fld d Reg.LOG_EPOCH_EPOCH
    else if fld d Reg.LOG_EPOCH_EPOCH = 0xFFFF then 1 else fld d Reg.LOG_EPOCH_EPOCH + 1 := by
  have hrep : fld (startReported d straps) Reg.LOG_EPOCH_EPOCH = fld d Reg.LOG_EPOCH_EPOCH := by
    unfold startReported beatDefaults beatFixed
    dsimp only
    rw [fld_putReg_ne _ _ _ (by decide), fld_setFld_ne _ _ Reg.BEAT_PERIOD_VALUE _ (by decide),
      fld_setFld_ne _ _ Reg.BEAT_FCL_VALUE _ (by decide), fld_setFld_ne _ _ Reg.BEAT_OPH_VALUE _ (by decide),
      fld_setFld_ne _ _ Reg.BEAT_IDL_VALUE _ (by decide), fld_setFld_ne _ _ Reg.BEAT_CFG_RATE _ (by decide)]
    rfl
  have hlt : fld d Reg.LOG_EPOCH_EPOCH < 2 ^ 16 := bitsOf_lt _ _ _
  have hstart : dieStart d straps = if bitOf d.pwr.cause 0 then startReported d straps
      else setFld (startReported d straps) Reg.LOG_EPOCH_EPOCH
        (if fld (startReported d straps) Reg.LOG_EPOCH_EPOCH = 0xFFFF then 1
          else fld (startReported d straps) Reg.LOG_EPOCH_EPOCH + 1) := rfl
  rw [hstart]
  split
  · exact hrep
  · rw [fld_setFld_same _ Reg.LOG_EPOCH_EPOCH _ (by decide), hrep]
    refine Nat.mod_eq_of_lt ?_
    show _ < 2 ^ 16
    split <;> omega

/-- The die has started from `c` with these straps, reporting this cause (R375, R404). -/
structure Started (c d : Die) (straps : BitVec 16) (cause : Nat) : Prop where
  running : d.inReset = false
  straps : d.straps = straps
  gt : d.tb.gt = 0
  unloaded : d.boot.loaded = false
  report : getReg d Reg.GLB_RST_CAUSE = BitVec.ofNat 32 cause
  epoch : fld d Reg.LOG_EPOCH_EPOCH = if bitOf cause 0 then fld c Reg.LOG_EPOCH_EPOCH
    else if fld c Reg.LOG_EPOCH_EPOCH = 0xFFFF then 1 else fld c Reg.LOG_EPOCH_EPOCH + 1

theorem dieStart_started {d : Die} (straps : BitVec 16) (h : d.boot.loaded = false) :
    Started d (dieStart d straps) straps d.pwr.cause := by
  have hrest : (dieStart d straps).inReset = false ∧ (dieStart d straps).straps = straps ∧ (dieStart d straps).tb.gt = 0 ∧
      (dieStart d straps).boot = d.boot := by
    obtain heq | ⟨e, heq⟩ := dieStart_cases d straps <;> rw [heq] <;> exact ⟨rfl, rfl, rfl, rfl⟩
  obtain ⟨hrun, hstraps, hgt, hboot⟩ := hrest
  exact ⟨hrun, hstraps, hgt, hboot ▸ h, getReg_dieStart_cause d straps, fld_dieStart_epoch d straps⟩

theorem dieStart_pwr (d : Die) (straps : BitVec 16) :
    (dieStart d straps).pwr = { d.pwr with dom := bootDoms straps.toNat } := by
  obtain heq | ⟨e, heq⟩ := dieStart_cases d straps <;> rw [heq] <;> rfl

theorem Started.irqSettle {c d : Die} {straps : BitVec 16} {cause : Nat} (h : Started c d straps cause) (x : Die) :
    Started c (Machine.irqSettle x d) straps cause := by
  have hreg := getReg_irqSettle x d Reg.GLB_RST_CAUSE
  have hfld := fld_irqSettle x d Reg.LOG_EPOCH_EPOCH
  obtain ⟨m, w, e, b, heq⟩ := irqSettle_eq x d
  rw [heq] at hreg hfld ⊢
  exact ⟨h.running, h.straps, h.gt, h.unloaded, hreg.trans h.report, hfld.trans h.epoch⟩

theorem Started.congr {c c' d : Die} {straps : BitVec 16} {cause : Nat} (h : Started c d straps cause)
    (he : fld c Reg.LOG_EPOCH_EPOCH = fld c' Reg.LOG_EPOCH_EPOCH) : Started c' d straps cause :=
  ⟨h.running, h.straps, h.gt, h.unloaded, h.report, he ▸ h.epoch⟩

/-! Internal resets (R384, R392). -/

/-- An internal reset of a part that nothing else holds: lost and started again. -/
theorem internalReset_started {d : Die} (cause : Nat) (hup : d.pwr.up = true) (hpor : d.pwr.por = false)
    (htherm : d.pwr.therm = false) (hlow : d.pwr.nresetLow = false) (hcrystal : d.pwr.crystal = true) :
    Lost d (internalReset d cause) ∧ Started d (internalReset d cause) d.straps cause := by
  have hlost := dieReset_lost d cause
  have hpwr := dieReset_pwr d cause
  have hmay : mayStart (dieReset d cause) = true := by
    simp only [mayStart, hpwr, hup, hpor, htherm, hlow, hcrystal, dieReset_inReset, Bool.not_false, Bool.and_self]
  have hstart : internalReset d cause = dieStart (dieReset d cause) d.straps := by
    rw [← dieReset_straps d cause]
    exact if_pos hmay
  have hepoch : fld (dieReset d cause) Reg.LOG_EPOCH_EPOCH = fld d Reg.LOG_EPOCH_EPOCH :=
    congrArg (fun w => bitsOf (BitVec.toNat w) 0 16) (getReg_dieReset_kept d cause (by decide) (by decide))
  have hcause : (dieReset d cause).pwr.cause = cause := by rw [hpwr]
  rw [hstart]
  exact ⟨hlost.dieStart _, hcause ▸ (dieStart_started d.straps hlost.unloaded).congr hepoch⟩

theorem Started.setFld {c d : Die} {straps : BitVec 16} {cause : Nat} (h : Started c d straps cause) (f : Fld) (v : Nat)
    (hc : f.off ≠ Reg.GLB_RST_CAUSE) (he : f.off ≠ Reg.LOG_EPOCH) : Started c (Machine.setFld d f v) straps cause :=
  ⟨h.running, h.straps, h.gt, h.unloaded, (getReg_setFld_ne d f v hc.symm).trans h.report,
    (fld_setFld_ne d Reg.LOG_EPOCH_EPOCH f v he.symm).trans h.epoch⟩

/-! The temperature (R402). -/

section Temperature

variable {d : Die} {tj : BitVec 16}

/-- The registers once a temperature is measured, its event not yet noted. -/
def tjMeasured (d : Die) (tj : BitVec 16) : Die :=
  let t := sext 16 tj.toNat
  let d := updPwr d fun p => { p with tj := tj.toNat }
  let d := if sext 16 (fld d Reg.PWR_TJ_PEAK) < t then setFld d Reg.PWR_TJ_PEAK tj.toNat else d
  putFlag d Reg.PWR_STAT_TJHI (decide (440 ≤ t))

/-- The event of a temperature that has risen to 110 °C (R402). -/
def tjNoted (d : Die) (tj : BitVec 16) : Die :=
  let d := setFlag d Reg.PWR_STAT_TJHIS
  if d.inReset then d else logEvt d 0 5 1 (setBitsOf (getReg d Reg.PWR_TJ).toNat 0 16 tj.toNat) 0 0

theorem flag_tjhi_before : flag (if sext 16 (fld (updPwr d fun p => { p with tj := tj.toNat }) Reg.PWR_TJ_PEAK) <
      sext 16 tj.toNat then setFld (updPwr d fun p => { p with tj := tj.toNat }) Reg.PWR_TJ_PEAK tj.toNat
      else updPwr d fun p => { p with tj := tj.toNat }) Reg.PWR_STAT_TJHI = flag d Reg.PWR_STAT_TJHI := by
  split
  · exact flag_setFld_ne _ _ Reg.PWR_TJ_PEAK _ (by decide)
  · rfl

theorem measureTj_up (hup : d.pwr.up = true) : measureTj d tj =
    if 440 ≤ sext 16 tj.toNat ∧ flag d Reg.PWR_STAT_TJHI = false then tjNoted (tjMeasured d tj) tj else tjMeasured d tj := by
  have hcond : (!decide (440 ≤ sext 16 tj.toNat) || flag d Reg.PWR_STAT_TJHI) = true ↔
      ¬ (440 ≤ sext 16 tj.toNat ∧ flag d Reg.PWR_STAT_TJHI = false) := by
    cases flag d Reg.PWR_STAT_TJHI <;> simp
  unfold measureTj
  rw [if_neg (by simp [hup])]
  dsimp only
  rw [flag_tjhi_before]
  simp only [hcond]
  rw [ite_not]
  rfl

/-- The registers that a temperature writes (R402, R405). -/
def tjReg (off : Nat) : Prop := off = Reg.PWR_TJ ∨ off = Reg.PWR_STAT ∨ off = Reg.LOG_CNT_LOST ∨ off = Reg.LOG_STAT

theorem getReg_logPut_ne (d : Die) (e : LogEvt) {off : Nat} (hcnt : off ≠ Reg.LOG_CNT_LOST) (hstat : off ≠ Reg.LOG_STAT) :
    getReg (logPut d e) off = getReg d off := by
  unfold logPut
  extract_lets q d'
  split
  · exact (getReg_setFlag_ne _ Reg.LOG_STAT_LOSS hstat).trans (getReg_incReg_ne _ _ hcnt)
  · rfl

theorem logPut_pwr (d : Die) (e : LogEvt) : (logPut d e).pwr = d.pwr := by
  unfold logPut
  extract_lets q d'
  split <;> rfl

theorem logPut_entries (d : Die) (e : LogEvt) : (logPut d e).lgb.entries = d.lgb.entries := by
  unfold logPut
  extract_lets q d'
  split <;> rfl

/-- A temperature is measured: what the die holds, its event apart (R402). -/
structure TjTaken (d : Die) (tj : BitVec 16) (d' : Die) : Prop where
  keeps : Keeps [.regs, .pwr, .lgb] d d'
  pwr : d'.pwr = { d.pwr with tj := tj.toNat }
  regs : ∀ off, ¬ tjReg off → getReg d' off = getReg d off
  entries : d'.lgb.entries = d.lgb.entries
  peak : fld d' Reg.PWR_TJ_PEAK =
    if sext 16 (fld d Reg.PWR_TJ_PEAK) < sext 16 tj.toNat then tj.toNat else fld d Reg.PWR_TJ_PEAK
  hot : flag d' Reg.PWR_STAT_TJHI = decide (440 ≤ sext 16 tj.toNat)

theorem tjMeasured_taken : TjTaken d tj (tjMeasured d tj) := by
  have hpwr : Keeps [.regs, .pwr, .lgb] d (updPwr d fun p => { p with tj := tj.toNat }) :=
    (keeps_updPwr d d (by simp) _).2 (.refl _ _)
  have hlt : tj.toNat % 2 ^ 16 = tj.toNat := Nat.mod_eq_of_lt tj.isLt
  have hpeak : fld (updPwr d fun p => { p with tj := tj.toNat }) Reg.PWR_TJ_PEAK = fld d Reg.PWR_TJ_PEAK := rfl
  unfold tjMeasured
  dsimp only
  rw [hpeak]
  by_cases hhi : sext 16 (fld d Reg.PWR_TJ_PEAK) < sext 16 tj.toNat
  · rw [if_pos hhi]
    refine ⟨?_, rfl, fun off hoff => ?_, rfl, ?_, flag_putFlag_same _ Reg.PWR_STAT_TJHI _ (by decide) rfl⟩
    · rw [keeps_putFlag _ _ (by simp), keeps_setFld _ _ (by simp)]
      exact hpwr
    · simp only [tjReg, not_or] at hoff
      rw [getReg_putFlag_ne _ Reg.PWR_STAT_TJHI _ hoff.2.1, getReg_setFld_ne _ Reg.PWR_TJ_PEAK _ hoff.1]
      rfl
    · rw [putFlag, fld_setFld_ne _ _ Reg.PWR_STAT_TJHI _ (by decide), fld_setFld_same _ Reg.PWR_TJ_PEAK _ (by decide),
        if_pos hhi]
      exact hlt
  · rw [if_neg hhi]
    refine ⟨?_, rfl, fun off hoff => ?_, rfl, ?_, flag_putFlag_same _ Reg.PWR_STAT_TJHI _ (by decide) rfl⟩
    · rw [keeps_putFlag _ _ (by simp)]
      exact hpwr
    · simp only [tjReg, not_or] at hoff
      rw [getReg_putFlag_ne _ Reg.PWR_STAT_TJHI _ hoff.2.1]
      rfl
    · rw [putFlag, fld_setFld_ne _ _ Reg.PWR_STAT_TJHI _ (by decide), if_neg hhi, hpeak]

/-- Noting the event leaves what was measured, and sets the sticky flag. -/
theorem TjTaken.noted {d' : Die} (h : TjTaken d tj d') :
    TjTaken d tj (tjNoted d' tj) ∧ flag (tjNoted d' tj) Reg.PWR_STAT_TJHIS = true := by
  have hsticky : TjTaken d tj (setFlag d' Reg.PWR_STAT_TJHIS) := by
    refine ⟨(keeps_setFlag _ _ (by simp) _).2 h.keeps, h.pwr, fun off hoff => ?_, h.entries, ?_, ?_⟩
    · rw [getReg_setFlag_ne _ Reg.PWR_STAT_TJHIS fun heq => hoff (.inr (.inl heq))]
      exact h.regs off hoff
    · rw [setFlag, fld_setFld_ne _ _ Reg.PWR_STAT_TJHIS _ (by decide)]
      exact h.peak
    · rw [setFlag, flag, fld_setFld_below _ Reg.PWR_STAT_TJHI Reg.PWR_STAT_TJHIS _ rfl (by decide) (by decide)]
      exact h.hot
  have hset : flag (setFlag d' Reg.PWR_STAT_TJHIS) Reg.PWR_STAT_TJHIS = true :=
    flag_setFlag_same _ Reg.PWR_STAT_TJHIS (by decide) rfl
  unfold tjNoted
  dsimp only
  split
  · exact ⟨hsticky, hset⟩
  · have hreg : ∀ e off, off < 0x5000 → getReg (logPut (setFlag d' Reg.PWR_STAT_TJHIS) e) off =
        getReg (setFlag d' Reg.PWR_STAT_TJHIS) off := fun e off hoff =>
      getReg_logPut_ne _ e (by simp only [Reg.LOG_CNT_LOST]; omega) (by simp only [Reg.LOG_STAT]; omega)
    have hfld : ∀ e (f : Fld), f.off < 0x5000 → fld (logPut (setFlag d' Reg.PWR_STAT_TJHIS) e) f =
        fld (setFlag d' Reg.PWR_STAT_TJHIS) f := fun e f hf => by rw [fld, hreg e _ hf, fld]
    refine ⟨⟨?_, ?_, fun off hoff => ?_, ?_, ?_, ?_⟩, ?_⟩
    · exact (keeps_logPut _ _ (by simp) (by simp) _).2 hsticky.keeps
    · exact (logPut_pwr _ _).trans hsticky.pwr
    · exact (getReg_logPut_ne _ _ (fun heq => hoff (.inr (.inr (.inl heq)))) fun heq => hoff (.inr (.inr (.inr heq)))).trans
        (hsticky.regs off hoff)
    · exact (logPut_entries _ _).trans hsticky.entries
    · exact (hfld _ _ (by decide)).trans hsticky.peak
    · exact (congrArg (· == 1) (hfld _ Reg.PWR_STAT_TJHI (by decide))).trans hsticky.hot
    · exact (congrArg (· == 1) (hfld _ Reg.PWR_STAT_TJHIS (by decide))).trans hset

theorem measureTj_taken (hup : d.pwr.up = true) : TjTaken d tj (measureTj d tj) := by
  rw [measureTj_up hup]
  split
  · exact tjMeasured_taken.noted.1
  · exact tjMeasured_taken

/-- A temperature that rises to 110 °C sets the sticky flag (R402). -/
theorem measureTj_sticky (hup : d.pwr.up = true) (hhot : 440 ≤ sext 16 tj.toNat) (hwas : flag d Reg.PWR_STAT_TJHI = false) :
    flag (measureTj d tj) Reg.PWR_STAT_TJHIS = true := by
  rw [measureTj_up hup, if_pos ⟨hhot, hwas⟩]
  exact tjMeasured_taken.noted.2

/-- A reset after a temperature loses what the reset would lose. -/
theorem Lost.measured {d' r : Die} (h : TjTaken d tj d') (hl : Lost d' r) : Lost d r := by
  have hknl : d'.knl = d.knl := h.keeps .knl (by simp)
  have hboot : d'.boot = d.boot := h.keeps .boot (by simp)
  exact ⟨hl.tb, hl.mem, hl.entries.trans h.entries, hl.queue, hl.buffer.trans (by rw [hknl]), hl.flash.trans (by rw [hboot]),
    hl.unloaded, hl.cmds, hl.seq.trans (h.regs _ (by simp [tjReg, Reg.LOG_SEQ, Reg.PWR_TJ, Reg.PWR_STAT, Reg.LOG_CNT_LOST,
      Reg.LOG_STAT]))⟩

end Temperature

/-! The commands. -/

section Commands

variable {s : State}

/-- A reset that is lost shows so after the command. -/
theorem lost_command {d : Die} (h : Lost (found s) d) :
    (irqSettle s.die d).tb = timebase0 ∧ (irqSettle s.die d).mem = mem0 ∧
      (irqSettle s.die d).lgb.entries = s.die.lgb.entries ∧
      (∀ e ∈ (irqSettle s.die d).lgb.queue, e.src = 8 ∧ e.late = true) ∧
      (irqSettle s.die d).knl.buffer = s.die.knl.buffer ∧ (irqSettle s.die d).boot.flash = flashOver s.die.boot ∧
      (irqSettle s.die d).boot.loaded = false ∧ (irqSettle s.die d).host.cmds = [] ∧
      getReg (irqSettle s.die d) Reg.LOG_SEQ = getReg s.die Reg.LOG_SEQ := by
  have hl := h.irqSettle s.die
  exact ⟨hl.tb, hl.mem, hl.entries, hl.queue, hl.buffer, hl.flash, hl.unloaded, hl.cmds, hl.seq⟩

theorem Lost.updPwr {c d : Die} (h : Lost c d) (f : Power → Power) : Lost c (Machine.updPwr d f) :=
  ⟨h.tb, h.mem, h.entries, h.queue, h.buffer, h.flash, h.unloaded, h.cmds, h.seq⟩

theorem Lost.congr {c c' d : Die} (h : Lost c d) (hlgb : c'.lgb = c.lgb) (hknl : c'.knl = c.knl) (hboot : c'.boot = c.boot)
    (hregs : c'.regs = c.regs) : Lost c' d := by
  have hseq : getReg c' Reg.LOG_SEQ = getReg c Reg.LOG_SEQ := by rw [getReg, hregs, getReg]
  exact ⟨h.tb, h.mem, h.entries.trans (by rw [hlgb]), h.queue, h.buffer.trans (by rw [hknl]), h.flash.trans (by rw [hboot]),
    h.unloaded, h.cmds, h.seq.trans hseq.symm⟩

/-! nRESET (R390). -/

section Nreset

variable {d : Die} {ns : Nat}

/-- The die as an nRESET that acts leaves it. -/
def nresetActed (d : Die) : Die := dieReset (updPwr d fun p => { p with nresetLow := true }) 4

theorem nresetPin_of_long (hns : 1000 ≤ ns) (hup : d.pwr.up = true) (hrun : d.inReset = false) :
    nresetPin d ns = nresetActed d := by
  have hlt : ¬ ns < 1000 := by omega
  have hcond : ((updPwr d fun p => { p with nresetLow := true }).pwr.up &&
      !(updPwr d fun p => { p with nresetLow := true }).inReset) = true := by
    show (d.pwr.up && !d.inReset) = true
    rw [hup, hrun]
    rfl
  unfold nresetPin
  simp only [hlt, hns, if_false, decide_true, Bool.true_or, Bool.not_true, Bool.false_eq_true]
  exact if_pos hcond

theorem nresetPin_of_short (hns : ns < 400) : nresetPin d ns = { d with fresh := d.fresh + 1 } := by
  have h1 : ns < 1000 := by omega
  have h2 : ¬ 1000 ≤ ns := by omega
  have h3 : ¬ 400 ≤ ns := by omega
  unfold nresetPin
  simp only [h1, h2, h3, if_true, decide_false, Bool.false_and, Bool.or_self, Bool.not_false]
  rfl

/-- Between the two bounds a pulse resets in full or is ignored (R390). -/
theorem nresetPin_of_open (hlo : 400 ≤ ns) (hhi : ns < 1000) (hup : d.pwr.up = true) (hrun : d.inReset = false) :
    nresetPin d ns = { d with fresh := d.fresh + 1 } ∨ nresetPin d ns = nresetActed { d with fresh := d.fresh + 1 } := by
  have h2 : ¬ 1000 ≤ ns := by omega
  have hcond : ((updPwr { d with fresh := d.fresh + 1 } fun p => { p with nresetLow := true }).pwr.up &&
      !(updPwr { d with fresh := d.fresh + 1 } fun p => { p with nresetLow := true }).inReset) = true := by
    show (d.pwr.up && !d.inReset) = true
    rw [hup, hrun]
    rfl
  unfold nresetPin
  simp only [hhi, h2, hlo, if_true, decide_true, decide_false, Bool.false_or, Bool.true_and]
  split
  · exact .inl rfl
  · exact .inr (if_pos hcond)

theorem nresetActed_lost : Lost d (nresetActed d) := (dieReset_lost _ 4).congr rfl rfl rfl rfl

theorem nresetActed_pwr : (nresetActed d).pwr.nresetLow = true ∧ (nresetActed d).pwr.cause = 4 ∧ (nresetActed d).pwr.dom = 0 := by
  have h := dieReset_pwr (updPwr d fun p => { p with nresetLow := true }) 4
  exact ⟨congrArg Power.nresetLow h, congrArg Power.cause h, congrArg Power.dom h⟩

end Nreset

theorem Lost.of_found {s : State} {d : Die} (h : Lost (found s) d) : Lost s.die d := h.congr rfl rfl rfl rfl

theorem Lost.of_drawn {s : State} {d : Die} (h : Lost { found s with fresh := (found s).fresh + 1 } d) : Lost s.die d :=
  h.congr rfl rfl rfl rfl

theorem nreset_clause (s : State) (ns : Nat) : (ns < 400 → ends (.nreset ns) s (keepsBut [.fresh] s)) ∧
    (1000 ≤ ns → s.die.pwr.up = true → s.die.inReset = false → ends (.nreset ns) s fun t => t.die.inReset = true ∧
      Lost s.die t.die ∧ t.dog = s.dog ∧ t.pending = s.pending ∧ t.die.pwr.nresetLow = true ∧ t.die.pwr.cause = 4 ∧
      t.die.pwr.dom = 0 ∧ ∀ off, survives off = false → getReg t.die off = resetVal off) ∧
    (400 ≤ ns → ns < 1000 → s.die.pwr.up = true → s.die.inReset = false → ends (.nreset ns) s fun t =>
      keepsBut [.fresh] s t ∨ (t.die.inReset = true ∧ Lost s.die t.die ∧ t.dog = s.dog ∧ t.pending = s.pending)) := by
  have hignored : Keeps [.fresh] (found s) { found s with fresh := (found s).fresh + 1 } :=
    (keeps_fresh _ _ (by simp) _).2 (.refl _ _)
  refine ⟨fun hns => ?_, fun hns hup hrun => ?_, fun hlo hhi hup hrun => ?_⟩
  · refine ends_of_onDie (f := (nresetPin · ns)) rfl (keepsBut_command ?_)
    rw [nresetPin_of_short hns]
    exact hignored
  · refine ends_of_onDie (f := (nresetPin · ns)) rfl ?_
    rw [nresetPin_of_long (d := found s) hns hup hrun]
    obtain ⟨hlow, hcause, hdom⟩ := nresetActed_pwr (d := found s)
    refine ⟨?_, (nresetActed_lost (d := found s)).of_found.irqSettle _, rfl, rfl, ?_, ?_, ?_, fun off hoff => ?_⟩
    · rw [irqSettle_inReset]
      rfl
    · rw [pwr_irqSettle, hlow]
    · rw [pwr_irqSettle, hcause]
    · rw [pwr_irqSettle, hdom]
    · rw [getReg_irqSettle]
      exact getReg_dieReset_lost _ 4 hoff
  · refine ends_of_onDie (f := (nresetPin · ns)) rfl ?_
    obtain h | h := nresetPin_of_open (d := found s) hlo hhi hup hrun
    · refine .inl (keepsBut_command ?_)
      rw [h]
      exact hignored
    · refine .inr ?_
      rw [h]
      refine ⟨?_, (nresetActed_lost (d := { found s with fresh := (found s).fresh + 1 })).of_drawn.irqSettle _, rfl, rfl⟩
      rw [irqSettle_inReset]
      rfl

/-! Release of nRESET and of the power-on reset (R358, R380, R390, R391). -/

section Release

variable {s : State} {straps : BitVec 16} {sref : Bool} {cause : Nat}

/-- The straps are sampled and the die starts (R358, R375). -/
theorem sampleStart_started {d : Die} (hup : d.pwr.up = true) (hreset : d.inReset = true) (hpor : d.pwr.por = false)
    (htherm : d.pwr.therm = false) (hlow : d.pwr.nresetLow = false) (hcrystal : d.pwr.crystal = true)
    (hloaded : d.boot.loaded = false) : Started d (sampleStart d straps sref) straps d.pwr.cause ∧
      flag (sampleStart d straps sref) Reg.PWR_STAT_SREFLOCK = sref ∧ (sampleStart d straps sref).pwr.nresetLow = false := by
  have hmay : mayStart (putFlag { d with straps := straps } Reg.PWR_STAT_SREFLOCK sref) = true := by
    show (d.pwr.up && d.inReset && !d.pwr.por && !d.pwr.therm && !d.pwr.nresetLow && d.pwr.crystal) = true
    rw [hup, hreset, hpor, htherm, hlow, hcrystal]
    rfl
  have hstart : sampleStart d straps sref =
      dieStart (putFlag { d with straps := straps } Reg.PWR_STAT_SREFLOCK sref) straps := if_pos hmay
  have hepoch : fld (putFlag { d with straps := straps } Reg.PWR_STAT_SREFLOCK sref) Reg.LOG_EPOCH_EPOCH =
      fld d Reg.LOG_EPOCH_EPOCH := fld_setFld_ne _ _ Reg.PWR_STAT_SREFLOCK _ (by decide)
  have hpwr : (putFlag { d with straps := straps } Reg.PWR_STAT_SREFLOCK sref).pwr = d.pwr := putReg_pwr _ _ _
  have hstarted := (dieStart_started (d := putFlag { d with straps := straps } Reg.PWR_STAT_SREFLOCK sref) straps hloaded).congr
    hepoch
  rw [hpwr] at hstarted
  rw [hstart]
  refine ⟨hstarted, ?_, ?_⟩
  · have hreg := getReg_dieStart_below_beat (putFlag { d with straps := straps } Reg.PWR_STAT_SREFLOCK sref) straps
      (off := Reg.PWR_STAT) (by decide) (by decide)
    rw [flag, fld, show Reg.PWR_STAT_SREFLOCK.off = Reg.PWR_STAT from rfl, hreg]
    exact flag_putFlag_same _ Reg.PWR_STAT_SREFLOCK sref (by decide) rfl
  · rw [dieStart_pwr, hpwr]
    exact hlow

/-- The straps are sampled, and something keeps the die from starting. -/
theorem sampleStart_held {d : Die} (htherm : d.pwr.therm = true) : (sampleStart d straps sref) =
    putFlag { d with straps := straps } Reg.PWR_STAT_SREFLOCK sref := by
  refine if_neg ?_
  show ¬ (d.pwr.up && d.inReset && !d.pwr.por && !d.pwr.therm && !d.pwr.nresetLow && d.pwr.crystal) = true
  rw [htherm]
  simp

/-- Where the die is held hot, the straps are sampled only. -/
theorem sampleStart_of_hot {d : Die} (htherm : d.pwr.therm = true) : (sampleStart d straps sref).straps = straps ∧
    flag (sampleStart d straps sref) Reg.PWR_STAT_SREFLOCK = sref ∧ (sampleStart d straps sref).inReset = d.inReset ∧
    (sampleStart d straps sref).pwr = d.pwr := by
  rw [sampleStart_held htherm]
  exact ⟨rfl, flag_putFlag_same _ Reg.PWR_STAT_SREFLOCK sref (by decide) rfl, rfl, putReg_pwr _ _ _⟩

/-- The die once nRESET is high again (R390). -/
def nresetLifted (d : Die) : Die := updPwr d fun p => { p with nresetLow := false }

theorem nresetHigh_of_low {d : Die} (hlow : d.pwr.nresetLow = true) (hup : d.pwr.up = true) (hreset : d.inReset = true)
    (hpor : d.pwr.por = false) : nresetHigh d straps sref = sampleStart (nresetLifted d) straps sref := by
  have hcond : (!(nresetLifted d).pwr.up || (nresetLifted d).pwr.por || !(nresetLifted d).inReset) = false := by
    show (!d.pwr.up || d.pwr.por || !d.inReset) = false
    rw [hup, hpor, hreset]
    rfl
  unfold nresetHigh
  rw [if_neg (by simp [hlow])]
  exact if_neg (ne_true_of_eq_false hcond)

/-- The die once the power-on reset is over (R380, R402). -/
def porLifted (d : Die) : Die := updPwr d fun p => { p with por := false, cause := if p.therm then 0x20 else p.cause }

theorem porRelease_of_por {d : Die} (hpor : d.pwr.por = true) (hup : d.pwr.up = true) (hcrystal : d.pwr.crystal = true)
    (hlow : d.pwr.nresetLow = false) : porRelease d straps sref = sampleStart (porLifted d) straps sref := by
  have hcond : (porLifted d).pwr.nresetLow = false := hlow
  unfold porRelease
  rw [if_neg (by simp [hpor, hup, hcrystal])]
  exact if_neg (ne_true_of_eq_false hcond)

/-- What a start shows after its command. -/
theorem started_command {d : Die} (h : Started (found s) d straps cause) :
    (irqSettle s.die d).inReset = false ∧ (irqSettle s.die d).straps = straps ∧ (irqSettle s.die d).tb.gt = 0 ∧
      (irqSettle s.die d).boot.loaded = false ∧ getReg (irqSettle s.die d) Reg.GLB_RST_CAUSE = BitVec.ofNat 32 cause ∧
      (bitOf cause 0 = false → fld (irqSettle s.die d) Reg.LOG_EPOCH_EPOCH =
        if fld s.die Reg.LOG_EPOCH_EPOCH = 0xFFFF then 1 else fld s.die Reg.LOG_EPOCH_EPOCH + 1) := by
  have hs := h.irqSettle s.die
  refine ⟨hs.running, hs.straps, hs.gt, hs.unloaded, hs.report, fun hbit => ?_⟩
  rw [hs.epoch, if_neg (by simp [hbit])]
  rfl

end Release

/-- The reset of an internal condition and its start, after the command. -/
theorem internal_command {d : Die} {cause : Nat} (hl : Lost (found s) d) (hs : Started (found s) d s.die.straps cause) :
    Lost s.die (irqSettle s.die d) ∧ Started (found s) (irqSettle s.die d) s.die.straps cause :=
  ⟨hl.of_found.irqSettle _, hs.irqSettle _⟩

/-! Power-good and the supervisor's watchdog (R384, R392). -/

theorem fld_setFld_dom (d : Die) (dom : Fin 80) : fld (setFld d Reg.GLB_RST_CNT_DOM dom.val) Reg.GLB_RST_CNT_DOM = dom.val := by
  have hlt : dom.val < 2 ^ 7 := dom.isLt.trans (by decide)
  rw [fld_setFld_same _ Reg.GLB_RST_CNT_DOM _ (by decide)]
  exact Nat.mod_eq_of_lt hlt

end Commands

/-! THERM and its recovery (R393, R402). -/

section Therm

variable {d : Die} {tj : BitVec 16}

theorem TjTaken.inReset {d' : Die} (h : TjTaken d tj d') : d'.inReset = d.inReset := h.keeps .inReset (by simp)

theorem TjTaken.straps {d' : Die} (h : TjTaken d tj d') : d'.straps = d.straps := h.keeps .straps (by simp)

theorem TjTaken.boot {d' : Die} (h : TjTaken d tj d') : d'.boot = d.boot := h.keeps .boot (by simp)

/-- A trip at 125 °C (R402): the die is reset where it ran. -/
theorem thermTrip_of_hot (hup : d.pwr.up = true) (hhot : 500 ≤ sext 16 tj.toNat) (hpor : d.pwr.por = false) :
    (thermTrip d tj).inReset = true ∧ (thermTrip d tj).pwr.therm = true ∧ (thermTrip d tj).pwr.cause = 0x20 ∧
      (d.inReset = false → Lost d (thermTrip d tj)) := by
  have ht := measureTj_taken (d := d) (tj := tj) hup
  have hup' : (measureTj d tj).pwr.up = true := by rw [ht.pwr]; exact hup
  have hpor' : (measureTj d tj).pwr.por = false := by rw [ht.pwr]; exact hpor
  have htrip : thermTrip d tj = updPwr (if (measureTj d tj).inReset then measureTj d tj else dieReset (measureTj d tj) 0x20)
      fun p => { p with therm := true, cause := if p.por then p.cause else 0x20 } := by
    refine if_neg ?_
    rw [hup']
    simp [hhot]
  rw [htrip]
  split
  next hres =>
    refine ⟨hres, rfl, if_neg (by simp [hpor']), fun hrun => ?_⟩
    rw [ht.inReset, hrun] at hres
    exact absurd hres nofun
  next hres =>
    have hpwr := dieReset_pwr (measureTj d tj) 0x20
    have hpor'' : (dieReset (measureTj d tj) 0x20).pwr.por = false := by rw [hpwr]; exact hpor'
    have hl := Lost.measured ht (dieReset_lost (measureTj d tj) 0x20)
    have hheld := dieReset_inReset (measureTj d tj) 0x20
    generalize dieReset (measureTj d tj) 0x20 = r at hpor'' hl hheld ⊢
    exact ⟨hheld, rfl, if_neg (by simp [hpor'']), fun _ => hl.updPwr _⟩

theorem thermTrip_of_cool (hup : d.pwr.up = true) (hcool : sext 16 tj.toNat < 500) :
    (thermTrip d tj).inReset = d.inReset := by
  have htrip : thermTrip d tj = measureTj d tj := if_pos (by simp [hcool])
  rw [htrip, (measureTj_taken hup).inReset]

/-- The die once the hold of 125 °C has ended (R402). -/
def thermLifted (d : Die) : Die :=
  updPwr d fun p => { p with therm := false, cause := if p.nresetLow && !p.por then 4 else p.cause }

theorem thermEnd_of_cool (htherm : (measureTj d tj).pwr.therm = true) (hcool : sext 16 tj.toNat ≤ 420) :
    thermEnd d tj = if mayStart (thermLifted (measureTj d tj)) then
      dieStart (thermLifted (measureTj d tj)) (measureTj d tj).straps else thermLifted (measureTj d tj) := by
  unfold thermEnd
  exact if_neg (by simp [htherm, hcool])

theorem thermEnd_of_warm (hcool : 420 < sext 16 tj.toNat) : thermEnd d tj = measureTj d tj := by
  unfold thermEnd
  exact if_pos (by simp [hcool])

/-- The recovery starts the part where nRESET is high (R402). -/
theorem thermEnd_started (hup : d.pwr.up = true) (hcool : sext 16 tj.toNat ≤ 420) (htherm : d.pwr.therm = true)
    (hreset : d.inReset = true) (hcrystal : d.pwr.crystal = true) (hpor : d.pwr.por = false) (hloaded : d.boot.loaded = false)
    (hlow : d.pwr.nresetLow = false) :
    Started d (thermEnd d tj) d.straps d.pwr.cause ∧ (thermEnd d tj).pwr.therm = false := by
  have ht := measureTj_taken (d := d) (tj := tj) hup
  have hcause : (thermLifted (measureTj d tj)).pwr.cause = d.pwr.cause := by
    show (if (measureTj d tj).pwr.nresetLow && !(measureTj d tj).pwr.por then 4 else (measureTj d tj).pwr.cause) = _
    rw [ht.pwr]
    simp [hlow]
  have hmay : mayStart (thermLifted (measureTj d tj)) = true := by
    show ((measureTj d tj).pwr.up && (measureTj d tj).inReset && !(measureTj d tj).pwr.por && !false &&
      !(measureTj d tj).pwr.nresetLow && (measureTj d tj).pwr.crystal) = true
    rw [ht.pwr, ht.inReset]
    simp [hup, hreset, hpor, hlow, hcrystal]
  have hloaded' : (thermLifted (measureTj d tj)).boot.loaded = false := (congrArg Boot.loaded ht.boot).trans hloaded
  have hepoch : fld (thermLifted (measureTj d tj)) Reg.LOG_EPOCH_EPOCH = fld d Reg.LOG_EPOCH_EPOCH :=
    congrArg (fun w => bitsOf (BitVec.toNat w) 0 16) (ht.regs Reg.LOG_EPOCH (by
      simp [tjReg, Reg.LOG_EPOCH, Reg.PWR_TJ, Reg.PWR_STAT, Reg.LOG_CNT_LOST, Reg.LOG_STAT]))
  rw [thermEnd_of_cool (by rw [ht.pwr]; exact htherm) hcool, if_pos hmay, ht.straps]
  refine ⟨hcause ▸ (dieStart_started d.straps hloaded').congr hepoch, ?_⟩
  rw [dieStart_pwr]
  rfl

/-- With nRESET still low the part stays in reset, with the cause of nRESET (R402). -/
theorem thermEnd_held (hup : d.pwr.up = true) (hcool : sext 16 tj.toNat ≤ 420) (htherm : d.pwr.therm = true)
    (hreset : d.inReset = true) (hpor : d.pwr.por = false) (hlow : d.pwr.nresetLow = true) :
    (thermEnd d tj).inReset = true ∧ (thermEnd d tj).pwr.therm = false ∧ (thermEnd d tj).pwr.cause = 4 := by
  have ht := measureTj_taken (d := d) (tj := tj) hup
  have hmay : ¬ mayStart (thermLifted (measureTj d tj)) = true := by
    show ¬ ((measureTj d tj).pwr.up && (measureTj d tj).inReset && !(measureTj d tj).pwr.por && !false &&
      !(measureTj d tj).pwr.nresetLow && (measureTj d tj).pwr.crystal) = true
    rw [ht.pwr]
    simp [hlow]
  rw [thermEnd_of_cool (by rw [ht.pwr]; exact htherm) hcool, if_neg hmay]
  refine ⟨ht.inReset.trans hreset, rfl, ?_⟩
  show (if (measureTj d tj).pwr.nresetLow && !(measureTj d tj).pwr.por then 4 else (measureTj d tj).pwr.cause) = _
  rw [ht.pwr]
  simp [hlow, hpor]

end Therm

/-- Settles O50: each reset is what `dieReset` loses, each start what `dieStart` reports; what holds the part keeps it from
starting. -/
theorem controlDieResets : Obligations.ControlDieResets := by
  unfold Obligations.ControlDieResets
  intro wiped started
  have hwiped : ∀ {s t : State}, Lost s.die t.die → t.dog = s.dog → t.pending = s.pending → wiped s t := fun h hdog hpend =>
    ⟨h.tb, h.mem, h.entries, h.queue, h.buffer, h.flash, h.unloaded, h.cmds, h.seq, hdog, hpend⟩
  have hstarted : ∀ {s t : State} {straps : BitVec 16} {cause : Nat}, Started (found s) t.die straps cause → t.dog = s.dog →
      started s t straps cause := fun h hdog =>
    ⟨h.running, h.straps, h.gt, h.unloaded, h.report, fun hbit => h.epoch.trans (if_neg (by simp [hbit])), hdog⟩
  refine ⟨fun s ns => ?nreset, fun s straps sref hup hreset hcrystal hloaded => ?release, fun s q hup hreset => ?crystal,
    fun s dom hup hrun hcrystal htherm hlow hpor => ?internal, fun s tj hup => ?temperature⟩
  case nreset =>
    obtain ⟨hshort, hlong, hopen⟩ := nreset_clause s ns
    refine ⟨hshort, fun hns hup hrun => ?_, fun hlo hhi hup hrun => ?_⟩
    · refine ends.imp (hlong hns hup hrun) fun t ht => ?_
      obtain ⟨hreset, hl, hdog, hpend, hlow, hcause, hdom, hregs⟩ := ht
      exact ⟨hreset, hwiped hl hdog hpend, hlow, hcause, hdom, hregs⟩
    · refine ends.imp (hopen hlo hhi hup hrun) fun t ht => ht.imp_right ?_
      rintro ⟨hreset, hl, hdog, hpend⟩
      exact ⟨hreset, hwiped hl hdog hpend⟩
  case release =>
    intro samples
    have hup' : (found s).pwr.up = true := hup
    have hreset' : (found s).inReset = true := hreset
    refine ⟨fun hlow hpor htherm => ?_, fun hlow hpor htherm => ?_, fun hlow => ?_, fun hpor => ?_, fun hpor hlow htherm => ?_,
      fun hpor htherm hlow hcause => ?_⟩
    · refine ends_of_onDie (f := (nresetHigh · straps sref)) rfl ?_
      rw [nresetHigh_of_low (d := found s) hlow hup' hreset' hpor]
      obtain ⟨hs, href, hlow'⟩ := sampleStart_started (d := nresetLifted (found s)) (straps := straps) (sref := sref) hup' hreset'
        hpor htherm rfl hcrystal hloaded
      have hs' : Started (found s) _ straps s.die.pwr.cause := hs.congr rfl
      refine ⟨hstarted (hs'.irqSettle _) rfl, ?_, ?_, ?_⟩
      · rw [pwr_irqSettle, hlow']
      · rw [straps_irqSettle, hs.straps]
      · rw [flag, fld_irqSettle]
        exact href
    · refine ends_of_onDie (f := (nresetHigh · straps sref)) rfl ?_
      rw [nresetHigh_of_low (d := found s) hlow hup' hreset' hpor]
      obtain ⟨hstraps, href, hres, hpwr⟩ := sampleStart_of_hot (d := nresetLifted (found s)) (straps := straps) (sref := sref) htherm
      refine ⟨⟨?_, ?_⟩, ?_, ?_, rfl⟩
      · rw [straps_irqSettle, hstraps]
      · rw [flag, fld_irqSettle]
        exact href
      · rw [irqSettle_inReset, hres]
        exact hreset'
      · rw [pwr_irqSettle, hpwr]
        rfl
    · exact ends_idle (f := (nresetHigh · straps sref)) rfl (if_pos (by simp [found, hlow])) _
    · exact ends_idle (f := (porRelease · straps sref)) rfl (if_pos (by simp [found, hpor])) _
    · refine ends_of_onDie (f := (porRelease · straps sref)) rfl ?_
      rw [porRelease_of_por (d := found s) hpor hup' hcrystal hlow]
      obtain ⟨hstraps, href, hres, hpwr⟩ := sampleStart_of_hot (d := porLifted (found s)) (straps := straps) (sref := sref) htherm
      refine ⟨⟨?_, ?_⟩, ?_, ?_, ?_⟩
      · rw [straps_irqSettle, hstraps]
      · rw [flag, fld_irqSettle]
        exact href
      · rw [irqSettle_inReset, hres]
        exact hreset'
      · rw [pwr_irqSettle, hpwr]
        rfl
      · rw [pwr_irqSettle, hpwr]
        exact if_pos htherm
    · refine ends_of_onDie (f := (porRelease · straps sref)) rfl ?_
      rw [porRelease_of_por (d := found s) hpor hup' hcrystal hlow]
      have hc : (porLifted (found s)).pwr.cause = s.die.pwr.cause := if_neg (by
        show ¬ s.die.pwr.therm = true
        rw [htherm]
        exact nofun)
      obtain ⟨hs, href, -⟩ := sampleStart_started (d := porLifted (found s)) (straps := straps) (sref := sref) hup' hreset'
        rfl htherm hlow hcrystal hloaded
      rw [hc] at hs
      have hs' : Started (found s) _ straps s.die.pwr.cause := hs.congr rfl
      refine ⟨hstarted (hs'.irqSettle _) rfl, ?_, ?_, ?_⟩
      · exact (hs'.irqSettle s.die).epoch.trans (if_pos hcause)
      · rw [straps_irqSettle, hs.straps]
      · rw [flag, fld_irqSettle]
        exact href
  case crystal =>
    have hjudged : crystalJudged (found s) q = updPwr (found s) fun p => { p with crystal := q } := by
      refine if_pos ?_
      show (s.die.pwr.up && s.die.inReset) = true
      rw [hup, hreset]
      rfl
    refine ends_of_onDie (f := (crystalJudged · q)) rfl ?_
    rw [hjudged]
    refine ⟨?_, keepsBut_command ((keeps_updPwr _ _ (by simp) _).2 (.refl _ _))⟩
    rw [pwr_irqSettle]
    rfl
  case internal =>
    have hres : ∀ cause, _ := fun cause =>
      internalReset_started (d := found s) cause hup hpor htherm hlow hcrystal
    refine ⟨fun hdom => ?_, fun hdom => ?_, ?_⟩
    · refine ends_of_onDie (f := (powerGoodLost · dom.val)) rfl ?_
      rw [powerGoodLost_powered (d := found s) hup hrun hdom]
      obtain ⟨hl, hs⟩ := hres 8
      have hset := hs.setFld Reg.GLB_RST_CNT_DOM dom.val (by decide) (by decide)
      refine ⟨hstarted (hset.irqSettle _) rfl, hwiped ((hl.setFld _ _ (by decide)).of_found.irqSettle _) rfl rfl, ?_⟩
      rw [fld_irqSettle, fld_setFld_dom]
    · refine ends_idle (f := (powerGoodLost · dom.val)) rfl (if_neg ?_) _
      show ¬ (s.die.pwr.up && !s.die.inReset && powered s.die dom.val) = true
      simp [hdom]
    · refine ends_of_onDie (f := supWatchdog) rfl ?_
      have hsup : supWatchdog (found s) = internalReset (found s) 0x10 := by
        refine if_pos ?_
        show (s.die.pwr.up && !s.die.inReset) = true
        rw [hup, hrun]
        rfl
      rw [hsup]
      obtain ⟨hl, hs⟩ := hres 0x10
      exact ⟨hstarted (hs.irqSettle _) rfl, hwiped (hl.of_found.irqSettle _) rfl rfl⟩
  case temperature =>
    have hup' : (found s).pwr.up = true := hup
    refine ⟨?_, fun hhot hpor => ?_, fun hcool => ?_, fun hcool htherm hreset hcrystal hpor hloaded => ⟨fun hlow => ?_, fun hlow => ?_⟩,
      fun hwarm htherm => ?_⟩
    · have ht := measureTj_taken (d := found s) (tj := tj) hup'
      refine ends_of_onDie (f := (measureTj · tj)) rfl ⟨?_, ?_, fun hhot hwas => ?_, fun hlt => ?_, fun hle => ?_,
        keepsBut_command ht.keeps⟩
      · rw [pwr_irqSettle, ht.pwr]
      · rw [flag, fld_irqSettle]
        exact (Bool.eq_iff_iff.1 ht.hot).trans (by simp)
      · rw [flag, fld_irqSettle]
        exact measureTj_sticky (d := found s) hup' hhot hwas
      · rw [fld_irqSettle]
        exact ht.peak.trans (if_pos hlt)
      · rw [fld_irqSettle]
        exact ht.peak.trans (if_neg (not_lt.2 hle))
    · obtain ⟨hres, hth, hcause, hl⟩ := thermTrip_of_hot (d := found s) (tj := tj) hup' hhot hpor
      refine ends_of_onDie (f := (thermTrip · tj)) rfl ⟨?_, ?_, ?_, fun hrun => hwiped ((hl hrun).of_found.irqSettle _) rfl rfl⟩
      · rw [irqSettle_inReset, hres]
      · rw [pwr_irqSettle, hth]
      · rw [pwr_irqSettle, hcause]
    · refine ends_of_onDie (f := (thermTrip · tj)) rfl ⟨?_, rfl⟩
      rw [irqSettle_inReset, thermTrip_of_cool (d := found s) hup' hcool]
      rfl
    · obtain ⟨hs, hth⟩ := thermEnd_started (d := found s) (tj := tj) hup' hcool htherm hreset hcrystal hpor hloaded hlow
      refine ends_of_onDie (f := (thermEnd · tj)) rfl ⟨hstarted (hs.irqSettle _) rfl, ?_⟩
      rw [pwr_irqSettle, hth]
    · obtain ⟨hres, hth, hcause⟩ := thermEnd_held (d := found s) (tj := tj) hup' hcool htherm hreset hpor hlow
      refine ends_of_onDie (f := (thermEnd · tj)) rfl ⟨?_, ?_, ?_, rfl⟩
      · rw [irqSettle_inReset, hres]
      · rw [pwr_irqSettle, hth]
      · rw [pwr_irqSettle, hcause]
    · have ht := measureTj_taken (d := found s) (tj := tj) hup'
      refine ends_of_onDie (f := (thermEnd · tj)) rfl ?_
      rw [thermEnd_of_warm (d := found s) hwarm]
      refine ⟨?_, ?_, rfl⟩
      · rw [pwr_irqSettle, ht.pwr]
        exact htherm
      · rw [irqSettle_inReset, ht.inReset]
        rfl

end Sys2Proof.Machine
end

section
/-! PROOFS. What an engine instruction that retires leaves, for every finding of the error correction but a double-bit error
(R53, R55, R79), and the results of the class M and class I arithmetic (R64 to R74, R80, R81, R85). -/

namespace Sys2Proof.Machine

open Sys2Proof

/-! Issuing (R55). -/

/-- The context of the active task replaced. -/
def Engine.withCtx (c : Ctx) (g : Engine) : Engine := { g with active := g.active.map fun t => { t with ctx := c } }

/-- The die on which an instruction of `n` cycles runs: its cycles are busy, its corrected errors counted. -/
def runsOn (s : State) (e : Fin 16) (n w : Nat) (k : Ecc) : Die := eccCount (busyFor (found s) e.val n) e.val w k

/-- The state after an instruction of engine `e` that left the die `d` and the context `c`. -/
def retired (s : State) (e : Fin 16) (d : Die) (c : Ctx) : State :=
  { s with die := irqSettle s.die (updEng d e.val (Engine.withCtx c)) }

theorem eng_eccCount (d : Die) (e w : Nat) (k : Ecc) : (eccCount d e w k).eng = d.eng := by
  have hcounted (l : List Nat) : (l.foldl (fun d _ => incReg d (Reg.LE_ECCCNT e)) d).eng = d.eng :=
    foldl_keeps Die.eng (fun d _ => incReg_eng d _) l d
  unfold eccCount
  dsimp only
  split
  · rfl
  · rw [setFlag_eng, hcounted]

theorem active_runsOn {s : State} {e : Fin 16} {t : Task} (h : issuing s.die e.val = some t) (n w : Nat) (k : Ecc) :
    (engH (runsOn s e n w k) e.val).active ≠ none := by
  rw [engH, runsOn, eng_eccCount]
  exact busyFor_active _ e n t (issuing_lt _ _ _ h)

section Issue

variable {mine : Nat → Bool} {n : Nat} {run : Die → Task → Nat → Retire} {s : State} {e : Fin 16} {k : Ecc} {t : Task} {w : Nat}

theorem issue_of_ok (hk : k.bad = false) (h : atWord s e t w) (hm : mine (iOp w) = true) {d : Die} {c : Ctx}
    (hr : run (runsOn s e n w k) t w = .ok (d, c)) :
    issue mine n run e.val k (found s) = updEng d e.val (Engine.withCtx c) := by
  obtain ⟨hissue, hfetch⟩ := h
  have hissue' : issuing (found s) e.val = some t := hissue
  have hfetch' : fetch (found s) t.ctx.pc.toNat = w := hfetch
  have hrun : run (eccCount (busyFor (found s) e.val n) e.val w k) t w = .ok (d, c) := hr
  simp only [issue, hissue', hfetch', hm, hrun, hk]
  rfl

theorem issue_of_other (h : atWord s e t w) (hm : mine (iOp w) = false) : issue mine n run e.val k (found s) = found s := by
  obtain ⟨hissue, hfetch⟩ := h
  have hissue' : issuing (found s) e.val = some t := hissue
  have hfetch' : fetch (found s) t.ctx.pc.toNat = w := hfetch
  simp only [issue, hissue', hfetch', hm]
  rfl

theorem ctxOf_retired {d : Die} (c : Ctx) (ha : (engH d e.val).active ≠ none) : ctxOf (retired s e d c) e = some c := by
  obtain ⟨u, hu⟩ := Option.ne_none_iff_exists'.1 ha
  rw [ctxOf, retired, engH, irqSettle_eng]
  show ((engH (updEng d e.val (Engine.withCtx c)) e.val).active).map (·.ctx) = some c
  rw [engH_updEng_same _ _ _ e.isLt, Engine.withCtx, hu]
  rfl

/-- An instruction that retires: its command ends with the context it left. -/
theorem ends_of_retired {i : Instr} (hx : exec i s = onDie (issue mine n run e.val k) s) (hk : k.bad = false)
    (h : atWord s e t w) (hm : mine (iOp w) = true) {d : Die} {c : Ctx} (hr : run (runsOn s e n w k) t w = .ok (d, c))
    {P : State → Prop} (hP : P (retired s e d c)) : ends i s P :=
  ⟨retired s e d c, by rw [hx, onDie, retired, ← issue_of_ok hk h hm hr]; rfl, hP⟩

end Issue

/-! Class M (R77, R79, R80). -/

section ClassM

variable {s : State} {e : Fin 16} {k : Ecc} {t : Task} {w : Nat}

/-- An engine is at a class M word that uses these fields and whose moves do not fault; no word of it has a double-bit error. -/
structure AtM (s : State) (e : Fin 16) (k : Ecc) (t : Task) (w use : Nat) : Prop where
  sound : k.bad = false
  at_ : atWord s e t w
  used : usedM use w = true
  moves : moveFaults t.ctx w = []

/-- The context a class M instruction leaves: its result, the flags, its moves and the next instruction. -/
def ranM (s : State) (e : Fin 16) (k : Ecc) (t : Task) (w : Nat) (o : AluOut) : Die × Ctx :=
  moves (aluCounts (runsOn s e 1 w k) e.val o) e.val t.ctx { o.ctx with sr := srAfter t.ctx.sr o } w

theorem classM_of_some {use : Nat} (hu : usedM use w = true) (hm : moveFaults t.ctx w = []) {alu : Nat → Ctx → Option AluOut}
    {o : AluOut} (ho : alu w t.ctx = some o) :
    classM use alu e.val (runsOn s e 1 w k) t w = .ok ((ranM s e k t w o).1, flowNext (ranM s e k t w o).2) := by
  simp only [classM, hu, hm, ho, if_true, List.append_nil]
  rfl

/-- A class M instruction leaves the flags, exponents and accumulators of its arithmetic, and the D registers of it that no
move loads. -/
theorem ends_classM {i : Instr} {use : Nat} {alu : Nat → Ctx → Option AluOut} {o : AluOut} (h : AtM s e k t w use)
    (hx : exec i s = runM (iOp w) use alu e k s) (ho : alu w t.ctx = some o) {P : State → Prop}
    (hP : ∀ s' c, ctxOf s' e = some c → c.sr = srAfter t.ctx.sr o → c.e = o.ctx.e → c.acc = o.ctx.acc → c.xa = o.ctx.xa →
      c.am = o.ctx.am → (∀ j, spares w j → dReg c j = dReg o.ctx j) → P s') : ends i s P := by
  have hactive : (engH (ranM s e k t w o).1 e.val).active ≠ none := by
    rw [ranM, engH, moves_eng, aluCounts_eng]
    exact active_runsOn h.at_.1 1 w k
  obtain ⟨hsr, hexp, hacc, hxa, ham, hd, -⟩ := moves_ctx (aluCounts (runsOn s e 1 w k) e.val o) e.val t.ctx
    { o.ctx with sr := srAfter t.ctx.sr o } w
  exact ends_of_retired hx h.sound h.at_ (by simp) (classM_of_some h.used h.moves ho)
    (hP _ _ (ctxOf_retired _ hactive) hsr hexp hacc hxa ham hd)

theorem iA_lt (w : Nat) : iA w < 16 := bitsOf_lt w 38 4

theorem iB_lt (w : Nat) : iB w < 16 := bitsOf_lt w 34 4

theorem iAC_lt (w : Nat) : iAC w < 4 := bitsOf_lt w 24 2

theorem iEX_lt (w : Nat) : iEX w < 4 := bitsOf_lt w 28 2

/-- A result in D[A] (R80): the rest stands. -/
theorem writesD_of_some {i : Instr} {use : Nat} {alu : Nat → Ctx → Option AluOut} {o : AluOut} (h : AtM s e k t w use)
    (hspare : spares w (iA w)) (hx : exec i s = runM (iOp w) use alu e k s) (ho : alu w t.ctx = some o) {x : DWord} {f : Flags}
    (hctx : o.ctx = putD t.ctx (iA w) x) (hf : srAfter t.ctx.sr o = f) : writesD i s e t.ctx w x f := by
  refine ends_classM h hx ho fun s' c' hc hsr hexp hacc hxa ham hd => ⟨c', hc, ?_, hsr.trans hf, ?_⟩
  · rw [hd _ hspare, hctx, dReg_putD_same _ _ _ (iA_lt w)]
  · rw [hexp, hacc, hxa, ham, hctx]
    exact ⟨rfl, rfl, rfl, rfl, fun j hj hsp => by rw [hd j hsp, hctx, dReg_putD_ne _ _ hj]⟩

/-- The flags of a result that clamps no exponent. -/
theorem srAfter_some (sr : Flags) (c : Ctx) (r : Int) (sat lim : Bool) :
    srAfter sr ⟨c, some r, sat, false, false, lim⟩ = flagsAfter sr r sat false false lim := by
  simp only [srAfter, flagsAfter, Bool.or_false]
  rfl

theorem writesD_of_lanes {i : Instr} {use : Nat} {alu : Nat → Ctx → Option AluOut} {re im : Int} {sat : Bool}
    (h : AtM s e k t w use) (hspare : spares w (iA w)) (hx : exec i s = runM (iOp w) use alu e k s)
    (ho : alu w t.ctx = some (outLane t.ctx (iA w) re im sat)) :
    writesD i s e t.ctx w (mkLanes re im) (flagsAfter t.ctx.sr re sat false false false) :=
  writesD_of_some h hspare hx ho rfl (srAfter_some ..)

theorem writesD_of_pair {i : Instr} {use : Nat} {alu : Nat → Ctx → Option AluOut} {r : Int} {sat : Bool}
    (h : AtM s e k t w use) (hspare : spares w (iA w)) (hx : exec i s = runM (iOp w) use alu e k s)
    (ho : alu w t.ctx = some (outPair t.ctx (iA w) r sat)) :
    writesD i s e t.ctx w (mkPaired r) (flagsAfter t.ctx.sr r sat false false false) :=
  writesD_of_some h hspare hx ho rfl (srAfter_some ..)

/-- A result in accumulator AC (R67, R68): the others stand. -/
theorem writesAcc_of_some {i : Instr} {use : Nat} {alu : Nat → Ctx → Option AluOut} {o : AluOut} (h : AtM s e k t w use)
    (hx : exec i s = runM (iOp w) use alu e k s) (ho : alu w t.ctx = some o) {a : BitVec 128} {xa : BitVec 10} {am : Bool}
    {f : Flags} (hctx : o.ctx = { t.ctx with
      acc := vset t.ctx.acc (iAC w) a, xa := vset t.ctx.xa (iAC w) xa, am := vset t.ctx.am (iAC w) am }) (hf : srAfter t.ctx.sr o = f) : writesAcc i s e t.ctx w a xa am f := by
  refine ends_classM h hx ho fun s' c' hc hsr hexp hacc hxa ham hd => ⟨c', hc, ?_, ?_, ?_, hsr.trans hf, ?_, ?_, ?_⟩
  · rw [hacc, hctx, vget_vset_same _ _ _ _ (iAC_lt w)]
  · rw [hxa, hctx, vget_vset_same _ _ _ _ (iAC_lt w)]
  · rw [ham, hctx, vget_vset_same _ _ _ _ (iAC_lt w)]
  · rw [hexp, hctx]
  · intro j hj
    rw [hacc, hxa, ham, hctx]
    exact ⟨vget_vset_ne _ _ _ hj, vget_vset_ne _ _ _ hj, vget_vset_ne _ _ _ hj⟩
  · intro j hsp
    rw [hd j hsp, hctx]
    rfl

/-- An array written at an index with what stands there is as it was. -/
theorem vset_vget {α : Type} {n : Nat} (z : α) (v : Vector α n) (i : Nat) : vset v i (vget z v i) = v := by
  refine Vector.ext fun j hj => ?_
  rw [vset, Vector.getElem_setIfInBounds hj]
  split
  · rename_i hij
    simp [vget, hij, hj]
  · rfl

theorem writesAcc_of_halves {i : Instr} {use : Nat} {alu : Nat → Ctx → Option AluOut} {re im : Int} {sat mode : Bool}
    (h : AtM s e k t w use) (hmode : accMode t.ctx (iAC w) = mode) (hx : exec i s = runM (iOp w) use alu e k s)
    (ho : alu w t.ctx = some (outAcc t.ctx (iAC w) re im sat)) :
    writesAcc i s e t.ctx w (halves re im) (vget 0 t.ctx.xa (iAC w)) mode (flagsAfter t.ctx.sr re sat false false false) :=
  writesAcc_of_some h hx ho (by rw [vset_vget, ← hmode, accMode, vset_vget]; rfl) (srAfter_some ..)

theorem writesAcc_of_accPair {i : Instr} {use : Nat} {alu : Nat → Ctx → Option AluOut} {x : Int} {sat mode : Bool}
    (h : AtM s e k t w use) (hmode : accMode t.ctx (iAC w) = mode) (hx : exec i s = runM (iOp w) use alu e k s)
    (ho : alu w t.ctx = some (outAccPair t.ctx (iAC w) x sat)) :
    writesAcc i s e t.ctx w (BitVec.ofNat 128 (wrap 128 x)) (vget 0 t.ctx.xa (iAC w)) mode
      (flagsAfter t.ctx.sr x sat false false false) :=
  writesAcc_of_some h hx ho (by rw [vset_vget, ← hmode, accMode, vset_vget]; rfl) (srAfter_some ..)

end ClassM

/-! The lanes of a D register (R61). -/

theorem sext_bounds {w : Nat} (hw : 1 ≤ w) (x : Nat) : -(2 ^ (w - 1) : Int) ≤ sext w x ∧ sext w x < 2 ^ (w - 1) := by
  have hpow : 2 * (2 : Nat) ^ (w - 1) = 2 ^ w := mul_pow_sub_one (by omega) 2
  have hlt : x % 2 ^ w < 2 ^ w := Nat.mod_lt _ (Nat.two_pow_pos w)
  have hcast : ((2 ^ w : Nat) : Int) = 2 ^ w := by push_cast; rfl
  have hcast' : ((2 ^ (w - 1) : Nat) : Int) = 2 ^ (w - 1) := by push_cast; rfl
  rw [sext, ← hcast, ← hcast']
  split <;> omega

theorem laneRe_bounds (x : DWord) : -8388608 ≤ laneRe x ∧ laneRe x < 8388608 := sext_bounds (w := 24) (by omega) _

theorem laneIm_bounds (x : DWord) : -8388608 ≤ laneIm x ∧ laneIm x < 8388608 := sext_bounds (w := 24) (by omega) _

/-- Negated, only the least lane saturates. -/
theorem satTo_24_neg {x : Int} (hlo : -8388608 ≤ x) (hhi : x < 8388608) :
    satTo 24 (-x) = (sat24 (-x), decide (x = -8388608)) := by
  have hiff : sat24 (-x) ≠ -x ↔ x = -8388608 := by
    unfold sat24 clampI
    split_ifs <;> omega
  rw [satTo_24, decide_eq_decide.2 hiff]

/-- So does its magnitude. -/
theorem satTo_24_natAbs {x : Int} (hlo : -8388608 ≤ x) (hhi : x < 8388608) :
    satTo 24 x.natAbs = (sat24 x.natAbs, decide (x = -8388608)) := by
  have hiff : sat24 x.natAbs ≠ x.natAbs ↔ x = -8388608 := by
    unfold sat24 clampI
    split_ifs <;> omega
  rw [satTo_24, decide_eq_decide.2 hiff]

theorem imax_eq (a b : Int) : imax a b = max a b := by unfold imax; split <;> omega

theorem imin_eq (a b : Int) : imin a b = min a b := by unfold imin; split <;> omega

/-- Settles O2: each is the lane form of its arithmetic, with the saturation of the sum. -/
theorem twoOperandLaneResults : Obligations.TwoOperandLaneResults := by
  intro s e k t w hk hat hu hm hsp
  have h : AtM s e k t w useTwo := ⟨hk, hat, hu, hm⟩
  refine ⟨fun hop => ?add, fun hop => ?sub, fun hop => ?max, fun hop => ?min, fun hop => ?clmp⟩
  case add =>
    refine writesD_of_lanes h hsp (by rw [hop]; rfl) ?_
    simp only [twoLane, satTo_24]
  case sub =>
    refine writesD_of_lanes h hsp (by rw [hop]; rfl) ?_
    simp only [twoLane, satTo_24]
  case max =>
    refine writesD_of_lanes h hsp (by rw [hop]; rfl) ?_
    simp only [twoLane, imax_eq, Bool.or_false]
  case min =>
    refine writesD_of_lanes h hsp (by rw [hop]; rfl) ?_
    simp only [twoLane, imin_eq, Bool.or_false]
  case clmp =>
    refine writesD_of_some h hsp (by rw [hop]; rfl) rfl ?_ ?_
    · simp only [outLane, satTo_24, imax_eq, imin_eq]
    · simp only [outLane, satTo_24, imax_eq, imin_eq, srAfter_some]
      congr 1
      simp [bne, beq_eq_decide]

/-- Settles O3: the lanes saturate where negation or magnitude leaves the range; the wrapping pair keeps 48 bits. -/
theorem oneOperandAndPairedResults : Obligations.OneOperandAndPairedResults := by
  refine ⟨fun s e k t w hk hat hm hsp => ⟨fun hu => ?_, fun hu hop => ?shlv⟩,
    fun s e k t w hk hat hm hsp => ⟨fun hu => ?_, fun hu hop => ?pshv⟩⟩
  case shlv =>
    refine writesD_of_lanes ⟨hk, hat, hu, hm⟩ hsp (by rw [hop]; rfl) ?_
    simp only [aluShlv, oneLane]
  case pshv =>
    refine writesD_of_pair ⟨hk, hat, hu, hm⟩ hsp (by rw [hop]; rfl) ?_
    simp only [aluPshv]
  · have h : AtM s e k t w useOne := ⟨hk, hat, hu, hm⟩
    obtain ⟨hrlo, hrhi⟩ := laneRe_bounds (dReg t.ctx (iB w))
    obtain ⟨hilo, hihi⟩ := laneIm_bounds (dReg t.ctx (iB w))
    refine ⟨fun hop => ?neg, fun hop => ?abs, fun hop => ?conj, fun hop => ?mov, fun hop => ?swp, fun hop => ?nsc,
      fun hop => ?nsca⟩ <;> refine writesD_of_lanes h hsp (by rw [hop]; rfl) ?_
    case neg =>
      simp only [oneLane, satTo_24_neg hrlo hrhi, satTo_24_neg hilo hihi]
    case abs =>
      simp only [oneLane, satTo_24_natAbs hrlo hrhi, satTo_24_natAbs hilo hihi]
    case conj => simp only [oneLane, satTo_24_neg hilo hihi, Bool.false_or]
    case mov => rfl
    case swp => rfl
    case nsc => rfl
    case nsca => simp only [aluNsca, imin_eq]
  · have h : AtM s e k t w useTwo := ⟨hk, hat, hu, hm⟩
    refine ⟨fun hop => ?padd, fun hop => ?paddw, fun hop => ?psub, fun hop => ?psubw⟩ <;>
      refine writesD_of_pair h hsp (by rw [hop]; rfl) ?_
    case padd => simp only [twoPair, satTo_48]
    case paddw => simp only [twoPairWrap, wrapS, one_mul]
    case psub => simp only [twoPair, satTo_48]
    case psubw => simp only [twoPairWrap, wrapS, neg_one_mul, ← Int.sub_eq_add_neg]

/-! Accumulators (R67, R68). -/

/-- A multiply-accumulate adds or subtracts its aligned product, half by half. -/
theorem macLane_eq (prod : DWord → DWord → Int × Int) (sign : Int) {w : Nat} {c : Ctx} (h : accMode c (iAC w) = false) :
    macLane prod sign w c =
      let p := prod (dReg c (iB w)) (dReg c (iC w))
      let sh := expReg c (iEX w) + expReg c (iEY w) - accExp c (iAC w)
      let re := accRe c (iAC w) + sign * alignProd p.1 sh
      let im := accIm c (iAC w) + sign * alignProd p.2 sh
      some (outAcc c (iAC w) (satN 64 re) (satN 64 im) (decide (satN 64 re ≠ re) || decide (satN 64 im ≠ im))) := by
  rw [macLane, if_neg (by simp [h])]
  simp only [satTo_eq]

/-- Settles O4: each instruction is `macLane` of its product and sign, and PMAC its paired form. -/
theorem accumulatingResults : Obligations.AccumulatingResults := by
  intro s e k t w hk hat hu hm
  have h : AtM s e k t w useMac := ⟨hk, hat, hu, hm⟩
  refine ⟨fun hmode => ?_, fun hmode hop => ?pmac⟩
  case pmac =>
    refine writesAcc_of_accPair h hmode (by rw [hop]; rfl) (alu := aluPmac) ?_
    rw [aluPmac, if_neg (by simp [hmode])]
    simp only [satTo_eq]
  · refine ⟨fun hop => ?cmac, fun hop => ?cmacc, fun hop => ?cmsu, fun hop => ?dmac, fun hop => ?dmsu⟩
    case cmac =>
      refine writesAcc_of_halves h hmode (by rw [hop]; rfl) ((macLane_eq cprod 1 hmode).trans ?_)
      simp only [cprod, one_mul]
    case cmacc =>
      refine writesAcc_of_halves h hmode (by rw [hop]; rfl) ((macLane_eq cprodConj 1 hmode).trans ?_)
      simp only [cprodConj, one_mul]
    case cmsu =>
      refine writesAcc_of_halves h hmode (by rw [hop]; rfl) ((macLane_eq cprod (-1) hmode).trans ?_)
      simp only [cprod, neg_one_mul, ← Int.sub_eq_add_neg]
    case dmac =>
      refine writesAcc_of_halves h hmode (by rw [hop]; rfl) ((macLane_eq dprod 1 hmode).trans ?_)
      simp only [dprod, one_mul]
    case dmsu =>
      refine writesAcc_of_halves h hmode (by rw [hop]; rfl) ((macLane_eq dprod (-1) hmode).trans ?_)
      simp only [dprod, neg_one_mul, ← Int.sub_eq_add_neg]

/-- Settles O5: these instructions set the accumulator whole, and RND and PRND shift it into D[A]. -/
theorem accumulatorResults : Obligations.AccumulatorResults := by
  refine ⟨fun s e k t w hk hat hm => ⟨fun hu => ?_, fun hu hop => ?aclr⟩,
    fun s e k t w hk hat hu hm hsp => ⟨fun hmode hop => ?rnd, fun hmode hop => ?prnd⟩⟩
  case aclr =>
    exact writesAcc_of_some ⟨hk, hat, hu, hm⟩ (by rw [hop]; rfl) (alu := aluAclr) rfl rfl (srAfter_some ..)
  case rnd =>
    refine writesD_of_lanes ⟨hk, hat, hu, hm⟩ hsp (by rw [hop]; rfl) (alu := aluRnd) ?_
    rw [aluRnd, if_neg (by simp [hmode])]
  case prnd =>
    refine writesD_of_pair ⟨hk, hat, hu, hm⟩ hsp (by rw [hop]; rfl) (alu := aluPrnd) ?_
    rw [aluPrnd, if_neg (by simp [hmode])]
  · have h : AtM s e k t w useMac := ⟨hk, hat, hu, hm⟩
    refine ⟨fun hop => ?cmpy, fun hop => ?dmpy, fun hop => ?pmpy⟩
    case cmpy => exact writesAcc_of_some h (by rw [hop]; rfl) (alu := mpyLane cprod) rfl rfl (srAfter_some ..)
    case dmpy => exact writesAcc_of_some h (by rw [hop]; rfl) (alu := mpyLane dprod) rfl rfl (srAfter_some ..)
    case pmpy => exact writesAcc_of_some h (by rw [hop]; rfl) (alu := aluPmpy) rfl rfl (srAfter_some ..)

/-! Class I (R80). -/

section ClassI

variable {s : State} {e : Fin 16} {k : Ecc} {t : Task} {w : Nat}

/-- A class I instruction that changes its context alone, on every die. -/
theorem ends_classI_ctx {i : Instr} {n : Nat} {use : Nat → Nat} {run : Nat → Die → Task → Nat → Retire} {c : Ctx}
    (hk : k.bad = false) (hat : atWord s e t w) (hx : exec i s = runI (iOp w) n use run e k s) (hu : usedI (use w) w = true)
    (hr : ∀ d, run e.val d t w = .ok (d, c)) {P : State → Prop} (hP : ∀ s', ctxOf s' e = some c → P s') : ends i s P := by
  have hclass : classI use (run e.val) (runsOn s e n w k) t w = .ok (runsOn s e n w k, c) := by
    rw [classI, if_pos hu, hr]
  exact ends_of_retired hx hk hat (by simp) hclass (hP _ (ctxOf_retired c (active_runsOn hat.1 n w k)))

end ClassI

/-- An unused bit of a class I word is 0 (R421). -/
theorem testBit_of_usedI {use w i : Nat} (h : usedI use w = true) (hi : i < 42) (hu : (2 ^ 42 - 1 - use).testBit i = true) :
    w.testBit i = false := by
  have hzero : w % 2 ^ 42 &&& (2 ^ 42 - 1 - use) = 0 := beq_iff_eq.1 h
  have hbit := congrArg (Nat.testBit · i) hzero
  simpa only [Nat.testBit_and, Nat.testBit_mod_two_pow, hi, hu, decide_true, Bool.true_and, Bool.and_true,
    Nat.zero_testBit] using hbit

/-- PSET names one of 8 pointers. -/
theorem iA_lt_of_pset {w : Nat} (h : usedI (fieldMask 40 38 + fieldMask 25 24 + fieldMask 15 0) w = true) : iA w < 8 := by
  have hbit : w.testBit 41 = false := testBit_of_usedI h (by omega) (by decide)
  rw [Nat.testBit, Nat.shiftRight_eq_div_pow] at hbit
  have hlt := iA_lt w
  simp only [iA, bitsOf_eq] at hlt ⊢
  simp [Nat.one_and_eq_mod_two] at hbit
  omega

/-! Exponent registers (R74). -/

theorem sext_wrap_natCast (w n : Nat) : sext w (wrap w n) = sext w n := by
  have hwrap : wrap w n = n % 2 ^ w := by
    rw [wrap, show ((2 : Int) ^ w) = ((2 ^ w : Nat) : Int) by push_cast; rfl, ← Int.natCast_mod, Int.toNat_natCast]
  rw [hwrap, sext, sext, Nat.mod_mod]

theorem sext_wrap_8 {x : Int} (hlo : -128 ≤ x) (hhi : x ≤ 127) : sext 8 (wrap 8 x) = x := by
  unfold sext wrap
  norm_num
  split <;> omega

theorem toInt_ofNat_8 (n : Nat) : (BitVec.ofNat 8 n).toInt = sext 8 n := by
  rw [BitVec.toInt_eq_toNat_cond, sext]
  simp only [BitVec.toNat_ofNat]
  norm_num
  split_ifs <;> omega

theorem expReg_putE_same (c : Ctx) {i : Nat} (x : Int) (h : i < 4) : expReg (putE c i x) i = sext 8 (wrap 8 x) := by
  rw [expReg, putE, vget_vset_same _ _ _ _ h, toInt_ofNat_8]

theorem clampI_mem {lo hi : Int} (h : lo ≤ hi) (x : Int) : lo ≤ clampI x lo hi ∧ clampI x lo hi ≤ hi := by
  unfold clampI
  split_ifs <;> omega

theorem expReg_of_e {c c' : Ctx} (h : c.e = c'.e) (i : Nat) : expReg c i = expReg c' i := by rw [expReg, h, expReg]

/-! The halves of a D register (R61). -/

theorem bitsOf_setBitsOf_below (x lo w v : Nat) {lo' w' : Nat} (h : lo' + w' ≤ lo) :
    bitsOf (setBitsOf x lo w v) lo' w' = bitsOf x lo' w' := by
  rw [← bitsOf_mod_two_pow (setBitsOf x lo w v) h, setBitsOf_mod_two_pow, bitsOf_mod_two_pow x h]

/-- LDI writes one half of a D register and leaves the other. -/
theorem bitsOf_lane_written (x : DWord) (b : Bool) (v : Nat) :
    let y := BitVec.ofNat 48 (setBitsOf x.toNat (if b then 24 else 0) 24 v)
    bitsOf y.toNat (if b then 24 else 0) 24 = v % 2 ^ 24 ∧
      bitsOf y.toNat (if b then 0 else 24) 24 = bitsOf x.toNat (if b then 0 else 24) 24 := by
  cases b
  · simp only [Bool.false_eq_true, if_false, BitVec.toNat_ofNat]
    rw [bitsOf_mod_two_pow _ (by omega), bitsOf_mod_two_pow _ (by omega), bitsOf_setBitsOf]
    exact ⟨rfl, bitsOf_setBitsOf_above _ _ _ _ (by omega)⟩
  · simp only [if_true, BitVec.toNat_ofNat]
    rw [bitsOf_mod_two_pow _ (by omega), bitsOf_mod_two_pow _ (by omega), bitsOf_setBitsOf]
    exact ⟨rfl, bitsOf_setBitsOf_below _ _ _ _ (by omega)⟩

section Results

variable {s : State} {e : Fin 16} {k : Ecc} {t : Task} {w : Nat}

/-- NOP also looks for a reserved opcode (R80); at a NOP it finds none. -/
theorem exec_nop (hat : atWord s e t w) (hop : iOp w = 0) : exec (.nop e k) s = runM (iOp w) 0 aluNop e k s := by
  have hother : issue (0x32 ≤ ·) 1 classReserved e.val k (found s) = found s := issue_of_other hat (by simp [hop])
  show onDie (fun d => issue (· == 0) 1 (classM 0 aluNop e.val) e.val k (issue (0x32 ≤ ·) 1 classReserved e.val k d)) s =
    onDie (issue (· == iOp w) 1 (classM 0 aluNop e.val) e.val k) s
  rw [hop, onDie, onDie]
  exact congrArg (fun d => Host.Outcome.next { s with die := irqSettle s.die (issue (· == 0) 1 (classM 0 aluNop e.val) e.val k d) })
    hother

end Results

/-- Settles O6: the flags come from `srAfter`, and class I instructions leave them. -/
theorem exponentImmediateAndShiftResults : Obligations.ExponentImmediateAndShiftResults := by
  intro s e k t w hk hat
  refine ⟨fun hu hm hop => ?nop, fun hu hm hsp hop => ?esub, fun hu hm hop => ?efd, fun hu hm hsp hop => ?dfe,
    fun hop hu => ?ldi, fun hop hu => ?eldi, fun hop hu => ?pset, fun hop hu => ?shr, fun hop hu => ?pshr⟩
  case nop =>
    exact ends_classM ⟨hk, hat, hu, hm⟩ (exec_nop hat hop) (alu := aluNop) rfl
      fun _ c' hc hsr hexp hacc _ _ hd => ⟨c', hc, hsr, hexp, hacc, hd⟩
  case esub =>
    refine ends_classM ⟨hk, hat, hu, hm⟩ (by rw [hop]; rfl) (alu := aluEsub) rfl
      fun _ c' hc hsr hexp _ _ _ hd => ⟨c', hc, ?_, ?_, hsr.trans rfl⟩
    · obtain ⟨hlo, hhi⟩ := clampI_mem (lo := -128) (hi := 127) (by omega)
        (expReg t.ctx (iEX w) - laneRe (dReg t.ctx (iB w)))
      have hnew := expReg_putE_same t.ctx (clampI (expReg t.ctx (iEX w) - laneRe (dReg t.ctx (iB w))) (-128) 127) (iEX_lt w)
      rw [sext_wrap_8 hlo hhi] at hnew
      exact (expReg_of_e hexp _).trans hnew
    · rw [hd _ hsp]
      exact dReg_putD_same _ _ _ (iA_lt w)
  case efd =>
    refine ends_classM ⟨hk, hat, hu, hm⟩ (by rw [hop]; rfl) (alu := aluEfd) rfl
      fun _ c' hc hsr hexp _ _ _ hd => ⟨c', hc, ?_, hsr⟩
    rw [expReg_of_e hexp, ← sext_wrap_natCast]
    exact expReg_putE_same t.ctx _ (iEX_lt w)
  case dfe =>
    refine ends_classM ⟨hk, hat, hu, hm⟩ (by rw [hop]; rfl) (alu := aluDfe) rfl
      fun _ c' hc hsr _ _ _ _ hd => ⟨c', hc, ?_, hsr⟩
    rw [hd _ hsp]
    exact dReg_putD_same _ _ _ (iA_lt w)
  case ldi =>
    refine ends_classI_ctx hk hat (by rw [hop]; rfl) hu (run := runLdi) (fun d => rfl) fun s' hc => ⟨_, hc, ?_⟩
    obtain ⟨hset, hkept⟩ := bitsOf_lane_written (dReg t.ctx (iA w)) (bitOf w 24) (iImm w)
    have hd : dReg (flowNext (putD t.ctx (iA w) (BitVec.ofNat 48
        (setBitsOf (dReg t.ctx (iA w)).toNat (if bitOf w 24 then 24 else 0) 24 (iImm w))))) (iA w) = _ :=
      dReg_putD_same t.ctx (iA w) _ (iA_lt w)
    rw [hd, hset, hkept]
    exact ⟨Nat.mod_eq_of_lt (bitsOf_lt w 0 24), rfl, rfl⟩
  case eldi => exact ends_classI_ctx hk hat (by rw [hop]; rfl) hu (run := runEldi) (fun d => rfl) fun s' hc => hc
  case pset =>
    refine ends_classI_ctx hk hat (by rw [hop]; rfl) hu (run := runPset) (fun d => rfl) fun s' hc => ⟨_, hc, ?_⟩
    have hlt := iA_lt_of_pset hu
    have hsel : bitsOf w 24 2 < 4 := bitsOf_lt w 24 2
    obtain hp | hb | hl | hn : bitsOf w 24 2 = 0 ∨ bitsOf w 24 2 = 1 ∨ bitsOf w 24 2 = 2 ∨ bitsOf w 24 2 = 3 := by omega
    · simp only [hp, if_true]
      exact ⟨vget_vset_same _ _ _ _ hlt, rfl, rfl⟩
    · simp only [hb, if_true]
      exact ⟨vget_vset_same _ _ _ _ hlt, rfl, rfl⟩
    · simp only [hl, if_true]
      exact ⟨vget_vset_same _ _ _ _ hlt, rfl, rfl⟩
    · simp only [hn]
      exact ⟨vget_vset_same _ _ _ _ hlt, rfl, rfl⟩
  case shr => exact ends_classI_ctx hk hat (by rw [hop]; rfl) hu (run := runShr) (fun d => rfl) fun s' hc => hc
  case pshr => exact ends_classI_ctx hk hat (by rw [hop]; rfl) hu (run := runPshr) (fun d => rfl) fun s' hc => hc

end Sys2Proof.Machine
end

section
/-! PROOFS. Control flow of the loop engines (R83, R84): jumps, calls, loops and where execution in sequence continues. -/

namespace Sys2Proof.Machine

open Sys2Proof

/-- The context `x` after a jump from `c` to `n`: a target outside the body of the innermost loop ends that loop. -/
def Jumped (c : Ctx) (n : Nat) (x : Ctx) : Prop :=
  x.pc = BitVec.ofNat 14 n ∧ x.calls = c.calls ∧ x.sr = c.sr ∧ x.d = c.d ∧ (c.loops = [] → x.loops = []) ∧
    ∀ l ls, c.loops = l :: ls → (inBody l n = true → x.loops = c.loops) ∧ (inBody l n = false → x.loops = ls)

/-- The context `x` once execution from `c` goes on in sequence at `n`: spent loops that end there are gone, and a loop with
iterations left goes back to its start. -/
def Onto (c : Ctx) (n : BitVec 14) (x : Ctx) : Prop :=
  x.sr = c.sr ∧ x.d = c.d ∧ ∃ spent rest, c.loops = spent ++ rest ∧
    (∀ l ∈ spent, n.toNat = l.stop ∧ l.left ≤ 1) ∧ (rest = [] → x.pc = n ∧ x.loops = []) ∧
    ∀ l ls, rest = l :: ls → (n.toNat ≠ l.stop ∧ x.pc = n ∧ x.loops = rest) ∨
      (n.toNat = l.stop ∧ 2 ≤ l.left ∧ x.pc = BitVec.ofNat 14 l.start ∧ x.loops = { l with left := l.left - 1 } :: ls)

theorem jumpTo_jumped (c : Ctx) (n : Nat) : Jumped c n (jumpTo c n) := by
  refine ⟨rfl, rfl, rfl, rfl, fun h => by simp only [jumpTo, h], fun l ls h => ⟨fun hin => ?_, fun hin => ?_⟩⟩
  · simp only [jumpTo, h, hin, if_true]
  · simp only [jumpTo, h, hin, Bool.false_eq_true, if_false]

/-- Where execution goes on: at its word, or at the start of the first loop that ends there with iterations left. -/
theorem seqFlow_cases (n : Nat) (loops : List LoopEnt) : ∃ spent rest, loops = spent ++ rest ∧
    (∀ l ∈ spent, n = l.stop ∧ l.left ≤ 1) ∧ (rest = [] → seqFlow n loops = (n, [])) ∧
    ∀ l ls, rest = l :: ls → (n ≠ l.stop ∧ seqFlow n loops = (n, rest)) ∨
      (n = l.stop ∧ 2 ≤ l.left ∧ seqFlow n loops = (l.start, { l with left := l.left - 1 } :: ls)) := by
  induction loops with
  | nil => exact ⟨[], [], rfl, by simp, fun _ => rfl, by simp⟩
  | cons l ls ih =>
    by_cases hstop : n = l.stop
    · by_cases hleft : 2 ≤ l.left
      · refine ⟨[], l :: ls, rfl, by simp, by simp, fun l' ls' h => .inr ?_⟩
        obtain ⟨rfl, rfl⟩ := List.cons.inj h
        exact ⟨hstop, hleft, by rw [seqFlow, if_pos hstop, if_pos hleft]⟩
      · obtain ⟨spent, rest, hsplit, hspent, hnil, hcons⟩ := ih
        have hflow : seqFlow n (l :: ls) = seqFlow n ls := by rw [seqFlow, if_pos hstop, if_neg hleft]
        refine ⟨l :: spent, rest, by rw [hsplit, List.cons_append], ?_, by rwa [hflow], by rwa [hflow]⟩
        rintro x (_ | ⟨_, hx⟩)
        · exact ⟨hstop, by omega⟩
        · exact hspent x hx
    · refine ⟨[], l :: ls, rfl, by simp, by simp, fun l' ls' h => .inl ?_⟩
      obtain ⟨rfl, rfl⟩ := List.cons.inj h
      exact ⟨hstop, by rw [seqFlow, if_neg hstop]⟩

theorem flowTo_onto (c : Ctx) (n : Nat) : Onto c (BitVec.ofNat 14 n) (flowTo c n) := by
  obtain ⟨spent, rest, hsplit, hspent, hnil, hcons⟩ := seqFlow_cases (n % 2 ^ 14) c.loops
  have hpc : BitVec.ofNat 14 (n % 2 ^ 14) = BitVec.ofNat 14 n := BitVec.eq_of_toNat_eq (by simp)
  refine ⟨rfl, rfl, spent, rest, hsplit, by simpa using hspent, fun h => ?_, fun l ls h => ?_⟩
  · simp only [flowTo, hnil h, hpc, and_self]
  · obtain ⟨hne, hflow⟩ | ⟨heq, hleft, hflow⟩ := hcons l ls h
    · exact .inl ⟨by simpa using hne, by simp only [flowTo, hflow, hpc], by simp only [flowTo, hflow]⟩
    · exact .inr ⟨by simpa using heq, hleft, by simp only [flowTo, hflow], by simp only [flowTo, hflow]⟩

/-- The word after this one. -/
theorem flowNext_onto (c : Ctx) : Onto c (c.pc + 1) (flowNext c) := by
  have hnext : BitVec.ofNat 14 (c.pc.toNat + 1) = c.pc + 1 := BitVec.eq_of_toNat_eq (by simp [BitVec.toNat_add])
  exact hnext ▸ flowTo_onto c (c.pc.toNat + 1)

/-- A return goes on at its word with the rest of the call stack. -/
theorem flowTo_return_onto (c : Ctx) (r : BitVec 14) (rs : List (BitVec 14)) :
    Onto c r (flowTo { c with calls := rs } r.toNat) := by
  have h := flowTo_onto { c with calls := rs } r.toNat
  rwa [BitVec.ofNat_toNat, BitVec.setWidth_eq] at h

/-- A loop of a count above 0 puts its entry on the loop stack. -/
def loopPushed (c : Ctx) (len count : Nat) : Ctx :=
  { c with pc := c.pc + 1
           loops := ⟨(c.pc.toNat + 1) % 2 ^ 14, (c.pc.toNat + 1 + len) % 2 ^ 14, count⟩ :: c.loops }

theorem startLoop_of_pos (d : Die) {c : Ctx} {len count : Nat} (hlo : 1 ≤ len) (hhi : len ≤ 64) (hcount : 1 ≤ count)
    (hroom : c.loops.length < 4) : startLoop d c len count = .ok (d, loopPushed c len count) := by
  rw [startLoop, if_neg (by omega), if_neg (by omega), if_neg (by omega)]
  rfl

theorem startLoop_of_zero (d : Die) {c : Ctx} {len count : Nat} (hlo : 1 ≤ len) (hhi : len ≤ 64) (hcount : count = 0) :
    startLoop d c len count = .ok (d, flowTo c (c.pc.toNat + 1 + len)) := by
  rw [startLoop, if_neg (by omega), if_pos hcount]

/-- Settles O7: jumps by `jumpTo_jumped`, what goes on in sequence by `flowTo_onto`. -/
theorem controlFlowResults : Obligations.ControlFlowResults := by
  intro s e k t w hk hat
  refine ⟨fun hop hu => ?jmp, fun hop hu => ⟨fun hcond => ?taken, fun hcond => ?untaken⟩, fun hop hu hroom => ?call,
    fun hop hu r rs hcalls => ?ret, fun count hlo hhi hcount hroom => ⟨fun hop hu hn => ?loop, fun hop hu hn => ?loopr⟩,
    fun hlo hhi => ⟨fun hop hu hn => ?skip, fun hop hu hn => ?skipr⟩⟩
  case jmp =>
    exact ends_classI_ctx hk hat (by rw [hop]; rfl) hu (run := runJmp) (fun d => rfl)
      fun s' hc => ⟨_, hc, jumpTo_jumped t.ctx _⟩
  case taken =>
    exact ends_classI_ctx hk hat (by rw [hop]; rfl) hu (run := runJcc) (fun d => by rw [runJcc, hcond])
      fun s' hc => ⟨_, hc, jumpTo_jumped t.ctx _⟩
  case untaken =>
    exact ends_classI_ctx hk hat (by rw [hop]; rfl) hu (run := runJcc) (fun d => by rw [runJcc, hcond]; rfl)
      fun s' hc => ⟨_, hc, flowNext_onto t.ctx, rfl⟩
  case call =>
    have htarget : BitVec.ofNat 14 w = BitVec.ofNat 14 (bitsOf w 0 14) := BitVec.eq_of_toNat_eq (by simp [bitsOf])
    exact ends_classI_ctx hk hat (by rw [hop]; rfl) hu (run := runCall)
      (c := { t.ctx with calls := (t.ctx.pc + 1) :: t.ctx.calls, pc := BitVec.ofNat 14 w })
      (fun d => by rw [runCall]; exact if_neg (by omega))
      fun s' hc => ⟨_, hc, htarget, rfl, rfl, rfl, rfl⟩
  case ret =>
    exact ends_classI_ctx hk hat (by rw [hop]; rfl) hu (run := runRet) (fun d => by rw [runRet, hcalls])
      fun s' hc => ⟨_, hc, flowTo_return_onto t.ctx r rs, rfl⟩
  case loop =>
    exact ends_classI_ctx hk hat (by rw [hop]; rfl) hu (run := runLoop) (c := loopPushed t.ctx (bitsOf w 0 7) count)
      (fun d => by rw [runLoop, hn]; exact startLoop_of_pos d hlo hhi hcount hroom)
      fun s' hc => ⟨_, hc, rfl, rfl, rfl, rfl, rfl⟩
  case loopr =>
    exact ends_classI_ctx hk hat (by rw [hop]; rfl) hu (run := runLoopr) (c := loopPushed t.ctx (bitsOf w 0 7) count)
      (fun d => by rw [runLoopr, hn]; exact startLoop_of_pos d hlo hhi hcount hroom)
      fun s' hc => ⟨_, hc, rfl, rfl, rfl, rfl, rfl⟩
  case skip =>
    exact ends_classI_ctx hk hat (by rw [hop]; rfl) hu (run := runLoop)
      (fun d => by rw [runLoop]; exact startLoop_of_zero d hlo hhi hn)
      fun s' hc => ⟨_, hc, flowTo_onto t.ctx _, rfl⟩
  case skipr =>
    exact ends_classI_ctx hk hat (by rw [hop]; rfl) hu (run := runLoopr)
      (fun d => by rw [runLoopr]; exact startLoop_of_zero d hlo hhi hn)
      fun s' hc => ⟨_, hc, flowTo_onto t.ctx _, rfl⟩

end Sys2Proof.Machine
end

section
/-! PROOFS. The parallel moves (R77 to R79): pointers and their steps, what an X store and the loads of a class M word do. -/

namespace Sys2Proof.Machine

open Sys2Proof

/-! The die an instruction runs on (R53, R55). -/

theorem keeps_eccCount (d : Die) (e w : Nat) (k : Ecc) : Keeps [.regs] d (eccCount d e w k) := by
  have hcounted (l : List Nat) : Keeps [.regs] d (l.foldl (fun d _ => incReg d (Reg.LE_ECCCNT e)) d) :=
    Keeps.foldl (fun d x => by simp [Keeps.refl]) l d
  unfold eccCount
  dsimp only
  split
  · exact Keeps.refl _ _
  · simp [hcounted]

theorem keeps_runsOn (s : State) (e : Fin 16) (n w : Nat) (k : Ecc) : Keeps [.regs, .eng] s.die (runsOn s e n w k) := by
  have hbusy : Keeps [.regs, .eng] (found s) (busyFor (found s) e.val n) := by simp [busyFor]
  have hcount := (keeps_eccCount (busyFor (found s) e.val n) e.val w k).mono (qs := [.regs, .eng]) (by simp)
  exact ((keeps_found _ s).trans hbusy).trans hcount

theorem mem_runsOn (s : State) (e : Fin 16) (n w : Nat) (k : Ecc) : (runsOn s e n w k).mem = s.die.mem :=
  keeps_runsOn s e n w k .mem (by simp)

theorem engH_runsOn (s : State) (e : Fin 16) (n w : Nat) (k : Ecc) (j : Nat) :
    engH (runsOn s e n w k) j = engH (busyFor (found s) e.val n) j := by rw [engH, runsOn, eng_eccCount, engH]

/-- The cycle in which the instruction issues (R55). -/
theorem issuedAt_runsOn (s : State) (e : Fin 16) (n w : Nat) (k : Ecc) :
    issuedAt (runsOn s e n w k) e.val n = issueCycle s e.val := by
  rw [issuedAt, engH_runsOn, busyFor]
  dsimp only
  rw [engH_updEng_same _ _ _ e.isLt]
  exact Nat.add_sub_cancel ..

/-! Pointers (R78). -/

theorem postMod_lt (c : Ctx) (i code : Nat) : postMod c i code < 2 ^ 16 := by
  have hp : ptr c i < 2 ^ 16 := (vget 0 c.p i).isLt
  unfold postMod
  dsimp only
  split
  · exact hp
  · repeat' split
    all_goals exact Nat.mod_lt _ (by norm_num)

theorem ptr_stepPtr_same (c : Ctx) {i : Nat} (code : Nat) (h : i < 8) : ptr (stepPtr c i code) i = postMod c i code := by
  rw [ptr, stepPtr, vget_vset_same _ _ _ _ h, BitVec.toNat_ofNat, Nat.mod_eq_of_lt (postMod_lt c i code)]

theorem ptr_stepPtr_ne (c : Ctx) {i j : Nat} (code : Nat) (h : j ≠ i) : ptr (stepPtr c i code) j = ptr c j := by
  rw [ptr, stepPtr, vget_vset_ne _ _ _ h, ptr]

/-- The step of a pointer looks at that pointer alone. -/
theorem postMod_stepPtr_ne (c : Ctx) {i j : Nat} (code code' : Nat) (h : j ≠ i) :
    postMod (stepPtr c i code) j code' = postMod c j code' := by
  unfold postMod
  rw [ptr_stepPtr_ne c code h]
  rfl

/-! Moves (R77, R79). -/

section Moves

variable (d : Die) (e : Nat) (c0 c : Ctx) (w : Nat)

/-- The X move of a class M word. -/
def xMove : Ctx :=
  if bitOf w 23 then
    stepPtr (if bitOf w 22 then c else putD c (bitsOf w 13 4) (xRead d e (ptr c0 (bitsOf w 19 3)))) (bitsOf w 19 3) (bitsOf w 17 2)
  else c

/-- The Y move of a class M word. -/
def yMove : Ctx :=
  if bitOf w 11 then
    stepPtr (putD c (bitsOf w 2 4) (ySeen d (issuedAt d e 1) (ptr c0 (bitsOf w 8 3)))) (bitsOf w 8 3) (bitsOf w 6 2)
  else c

theorem moves_eq : moves d e c0 c w =
    (if bitOf w 23 && bitOf w 22 then xWrite d e (ptr c0 (bitsOf w 19 3)) (dReg c0 (bitsOf w 13 4)) else d,
      yMove d e c0 (xMove d e c0 c w) w) := by
  unfold moves xMove yMove
  cases bitOf w 23 <;> cases bitOf w 22 <;> cases bitOf w 11 <;> rfl

variable {d e c0 c w}

theorem dReg_yMove (h : bitOf w 11 = true) :
    dReg (yMove d e c0 c w) (bitsOf w 2 4) = ySeen d (issuedAt d e 1) (ptr c0 (bitsOf w 8 3)) := by
  rw [yMove, if_pos h]
  exact dReg_putD_same _ _ _ (bitsOf_lt w 2 4)

theorem dReg_yMove_ne {j : Nat} (h : bitOf w 11 = true → bitsOf w 2 4 ≠ j) : dReg (yMove d e c0 c w) j = dReg c j := by
  unfold yMove
  split
  · exact dReg_putD_ne _ _ (h ‹_›).symm
  · rfl

theorem ptr_yMove (h : bitOf w 11 = true) : ptr (yMove d e c0 c w) (bitsOf w 8 3) = postMod c (bitsOf w 8 3) (bitsOf w 6 2) := by
  rw [yMove, if_pos h]
  exact ptr_stepPtr_same _ _ (bitsOf_lt w 8 3)

theorem ptr_yMove_ne {j : Nat} (h : bitOf w 11 = true → j ≠ bitsOf w 8 3) : ptr (yMove d e c0 c w) j = ptr c j := by
  unfold yMove
  split
  · exact ptr_stepPtr_ne _ _ (h ‹_›)
  · rfl

theorem dReg_xMove (h : bitOf w 23 = true) (hload : bitOf w 22 = false) :
    dReg (xMove d e c0 c w) (bitsOf w 13 4) = xRead d e (ptr c0 (bitsOf w 19 3)) := by
  rw [xMove, if_pos h, if_neg (by simp [hload])]
  exact dReg_putD_same _ _ _ (bitsOf_lt w 13 4)

theorem ptr_xMove (h : bitOf w 23 = true) :
    ptr (xMove d e c0 c w) (bitsOf w 19 3) = postMod c (bitsOf w 19 3) (bitsOf w 17 2) := by
  rw [xMove, if_pos h, ptr_stepPtr_same _ _ (bitsOf_lt w 19 3)]
  split <;> rfl

theorem ptr_xMove_ne {j : Nat} (h : bitOf w 23 = true → j ≠ bitsOf w 19 3) : ptr (xMove d e c0 c w) j = ptr c j := by
  unfold xMove
  split
  · rw [ptr_stepPtr_ne _ _ (h ‹_›)]
    split <;> rfl
  · rfl

theorem postMod_xMove_ne {j : Nat} (code : Nat) (h : bitOf w 23 = true → j ≠ bitsOf w 19 3) :
    postMod (xMove d e c0 c w) j code = postMod c j code := by
  unfold xMove
  split
  · rw [postMod_stepPtr_ne _ _ _ (h ‹_›)]
    split <;> rfl
  · rfl

end Moves

theorem xRead_xWrite (d : Die) (e a : Nat) (x : DWord) (g b : Nat) :
    xRead (xWrite d e a x) g b = if g * 8192 + b = e * 8192 + a then x else xRead d g b := by
  split
  · rename_i h
    rw [xRead, xWrite, h, sget_sput_same]
  · rename_i h
    exact sget_sput_ne _ _ _ _ h

theorem xRead_congr {d d' : Die} (h : d.mem = d'.mem) (g a : Nat) : xRead d g a = xRead d' g a := by rw [xRead, h, xRead]

/-- A word that the port does not write in this cycle or later reads as it stands. -/
theorem ySeen_of_earlier {d : Die} {c a : Nat} (h : ∀ cy old, d.mem.yqAt = some (cy, a, old) → cy < c) :
    ySeen d c a = yRead d a := by
  unfold ySeen
  split
  · rename_i x hx
    obtain ⟨cy, b, old⟩ := x
    refine if_neg fun hc => ?_
    simp only [Bool.and_eq_true, decide_eq_true_eq, beq_iff_eq] at hc
    have := h cy old (by rw [hx, hc.2])
    omega
  · rfl

/-- One that it writes in this cycle or later reads as it was. -/
theorem ySeen_of_later {d : Die} {c a cy : Nat} {old : DWord} (h : d.mem.yqAt = some (cy, a, old)) (hc : c ≤ cy) :
    ySeen d c a = old := by simp [ySeen, h, hc]

/-- Settles O9: NOP leaves its moves alone, the X move made before the Y move. -/
theorem parallelMoves : Obligations.ParallelMoves := by
  intro s e k t w hk hat hop hu hm
  have hactive : (engH (ranM s e k t w (outNone t.ctx)).1 e.val).active ≠ none := by
    rw [ranM, engH, moves_eng, aluCounts_eng]
    exact active_runsOn hat.1 1 w k
  refine ends_of_retired (exec_nop hat hop) hk hat (by simp) (classM_of_some hu hm rfl) ⟨_, ctxOf_retired _ hactive, ?_⟩
  have hran : ranM s e k t w (outNone t.ctx) = moves (runsOn s e 1 w k) e.val t.ctx { t.ctx with sr := t.ctx.sr } w := rfl
  have hmem := mem_runsOn s e 1 w k
  have hx (g a : Nat) : xRead (runsOn s e 1 w k) g a = xRead s.die g a := by rw [xRead, hmem, xRead]
  have hy (a : Nat) : yRead (runsOn s e 1 w k) a = yRead s.die a := by rw [yRead, hmem, yRead]
  have hissued := issuedAt_runsOn s e 1 w k
  rw [hran, moves_eq]
  refine ⟨fun h23 h22 g a => ?_, fun hno => ?_, fun h23 h22 hne => ?_, fun h11 hearlier => ?_, fun h11 cy old hat' hlate => ?_,
    fun h23 hne => ?_, fun h11 hne => ?_, fun j hjx hjy => ?_, ?_, ?_⟩
  · rw [if_pos (by simp [h23, h22]), ← hx]
    exact (xRead_congr (irqSettle_mem _ _) g a).trans (xRead_xWrite ..)
  · rw [if_neg (by simpa using fun h23 => hno.resolve_left (by simp [h23]))]
    exact (irqSettle_mem _ _).trans hmem
  · exact (dReg_yMove_ne hne).trans ((dReg_xMove h23 h22).trans (hx _ _))
  · refine (dReg_yMove h11).trans ((ySeen_of_earlier fun cy old h => ?_).trans (hy _))
    rw [hissued]
    exact hearlier cy old (hmem ▸ h)
  · exact (dReg_yMove h11).trans (ySeen_of_later (hmem ▸ hat') (hissued ▸ hlate))
  · exact (ptr_yMove_ne fun h11 => (hne h11).symm).trans (ptr_xMove h23)
  · exact (ptr_yMove h11).trans (postMod_xMove_ne _ fun h23 => hne h23)
  · exact (ptr_yMove_ne hjy).trans (ptr_xMove_ne hjx)
  · exact (congrArg Mem.ymem (irqSettle_mem _ _)).trans (by rw [← hmem]; split <;> rfl)
  · exact (congrArg Mem.imem (irqSettle_mem _ _)).trans (by rw [← hmem]; split <;> rfl)

end Sys2Proof.Machine
end

section
/-! PROOFS. Registers that an operation leaves, and what the shared operations of the Kennel, the Logbook and the axis-state RAM
leave of the rest. -/

namespace Sys2Proof.Machine

open Sys2Proof

/-! Registers left. -/

/-- Every register but those of `p` reads in `d` as in `c`. -/
def Leaves (p : Nat → Prop) (c d : Die) : Prop := ∀ off, ¬ p off → getReg d off = getReg c off

theorem Leaves.refl (p : Nat → Prop) (d : Die) : Leaves p d d := fun _ _ => rfl

theorem Leaves.trans {p : Nat → Prop} {c d e : Die} (h : Leaves p c d) (h' : Leaves p d e) : Leaves p c e :=
  fun off hp => (h' off hp).trans (h off hp)

theorem Leaves.mono {p q : Nat → Prop} {c d : Die} (h : Leaves p c d) (hpq : ∀ off, p off → q off) : Leaves q c d :=
  fun off hq => h off fun hp => hq (hpq off hp)

theorem Leaves.of_regs {p : Nat → Prop} {c d : Die} (h : d.regs = c.regs) : Leaves p c d := fun off _ => by
  rw [getReg, h, getReg]

theorem Leaves.iff_of {p : Nat → Prop} {c d e : Die} (h : Leaves p d e) : Leaves p c e ↔ Leaves p c d :=
  ⟨fun h' off hp => (h off hp).symm.trans (h' off hp), fun h' => h'.trans h⟩

theorem Leaves.foldl {β : Type} {p : Nat → Prop} {f : Die → β → Die} {l : List β} (h : ∀ d, ∀ x ∈ l, Leaves p d (f d x)) (d : Die) :
    Leaves p d (l.foldl f d) := by
  induction l generalizing d with
  | nil => exact .refl p d
  | cons x l ih => exact (h d x (by simp)).trans (ih (fun d y hy => h d y (by simp [hy])) (f d x))

theorem leaves_ite {p : Nat → Prop} {q : Prop} [Decidable q] {c x y : Die} :
    Leaves p c (if q then x else y) ↔ (q → Leaves p c x) ∧ (¬ q → Leaves p c y) := by
  split <;> simp_all

section Operations

variable {p : Nat → Prop} (c d : Die)

@[simp] theorem leaves_putReg {o : Nat} (h : p o) (w : Word) : Leaves p c (putReg d o w) ↔ Leaves p c d :=
  Leaves.iff_of fun _ hp => getReg_putReg_ne d w fun he => hp (he ▸ h)

@[simp] theorem leaves_setFld {f : Fld} (h : p f.off) (v : Nat) : Leaves p c (setFld d f v) ↔ Leaves p c d := leaves_putReg c d h _

@[simp] theorem leaves_setFlag {f : Fld} (h : p f.off) : Leaves p c (setFlag d f) ↔ Leaves p c d := leaves_putReg c d h _

@[simp] theorem leaves_putFlag {f : Fld} (h : p f.off) (b : Bool) : Leaves p c (putFlag d f b) ↔ Leaves p c d := leaves_putReg c d h _

@[simp] theorem leaves_incReg {o : Nat} (h : p o) : Leaves p c (incReg d o) ↔ Leaves p c d := leaves_putReg c d h _

@[simp] theorem leaves_incFld {f : Fld} (h : p f.off) : Leaves p c (incFld d f) ↔ Leaves p c d := leaves_putReg c d h _

@[simp] theorem leaves_maxFld {f : Fld} (h : p f.off) (v : Nat) : Leaves p c (maxFld d f v) ↔ Leaves p c d := by
  unfold maxFld
  split
  · exact leaves_setFld c d h v
  · rfl

@[simp] theorem leaves_irqSet (h : p Reg.HST_IRQ_STAT) (b : Nat) : Leaves p c (irqSet d b) ↔ Leaves p c d := leaves_putReg c d h _

@[simp] theorem leaves_put64 {o : Nat} (h : p o) (h' : p (o + 4)) (x : Nat) : Leaves p c (put64 d o x) ↔ Leaves p c d := by
  rw [put64, leaves_putReg _ _ h', leaves_putReg _ _ h]

@[simp] theorem leaves_putI64 {o : Nat} (h : p o) (h' : p (o + 4)) (x : Int) : Leaves p c (putI64 d o x) ↔ Leaves p c d :=
  leaves_put64 c d h h' _

@[simp] theorem leaves_updTb (f : Timebase → Timebase) : Leaves p c (updTb d f) ↔ Leaves p c d := Iff.rfl
@[simp] theorem leaves_updEng (e : Nat) (f : Engine → Engine) : Leaves p c (updEng d e f) ↔ Leaves p c d := Iff.rfl
@[simp] theorem leaves_updKnl (f : Kennel → Kennel) : Leaves p c (updKnl d f) ↔ Leaves p c d := Iff.rfl
@[simp] theorem leaves_updAx (a : Nat) (f : AxisHid → AxisHid) : Leaves p c (updAx d a f) ↔ Leaves p c d := Iff.rfl
@[simp] theorem leaves_updGear (a : Nat) (f : GearSt → GearSt) : Leaves p c (updGear d a f) ↔ Leaves p c d := Iff.rfl
@[simp] theorem leaves_updMst (f : Master → Master) : Leaves p c (updMst d f) ↔ Leaves p c d := Iff.rfl
@[simp] theorem leaves_updCap (f : Capture → Capture) : Leaves p c (updCap d f) ↔ Leaves p c d := Iff.rfl
@[simp] theorem leaves_updChan (n : Nat) (f : Chan → Chan) : Leaves p c (updChan d n f) ↔ Leaves p c d := Iff.rfl
@[simp] theorem leaves_updMark (n : Nat) (f : MarkIn → MarkIn) : Leaves p c (updMark d n f) ↔ Leaves p c d := Iff.rfl
@[simp] theorem leaves_updStp (n : Nat) (f : StepCh → StepCh) : Leaves p c (updStp d n f) ↔ Leaves p c d := Iff.rfl
@[simp] theorem leaves_updGrp (g : Nat) (f : StepGrp → StepGrp) : Leaves p c (updGrp d g f) ↔ Leaves p c d := Iff.rfl
@[simp] theorem leaves_updSeg (n : Nat) (f : Seg → Seg) : Leaves p c (updSeg d n f) ↔ Leaves p c d := Iff.rfl
@[simp] theorem leaves_updNode (n i : Nat) (f : Node → Node) : Leaves p c (updNode d n i f) ↔ Leaves p c d := Iff.rfl
@[simp] theorem leaves_updTrk (f : Trunk → Trunk) : Leaves p c (updTrk d f) ↔ Leaves p c d := Iff.rfl
@[simp] theorem leaves_updTport (q : Nat) (f : TPort → TPort) : Leaves p c (updTport d q f) ↔ Leaves p c d := Iff.rfl
@[simp] theorem leaves_holdReqs (rs : List HostReq) : Leaves p c (holdReqs d rs) ↔ Leaves p c d := Iff.rfl
@[simp] theorem leaves_updCan (n : Nat) (f : CanHid → CanHid) : Leaves p c (updCan d n f) ↔ Leaves p c d := Iff.rfl
@[simp] theorem leaves_updHost (f : HostSt → HostSt) : Leaves p c (updHost d f) ↔ Leaves p c d := Iff.rfl
@[simp] theorem leaves_updCmds (q : Cmd → Bool) (f : Cmd → Cmd) : Leaves p c (updCmds d q f) ↔ Leaves p c d := Iff.rfl
@[simp] theorem leaves_updBoot (f : Boot → Boot) : Leaves p c (updBoot d f) ↔ Leaves p c d := Iff.rfl
@[simp] theorem leaves_updPwr (f : Power → Power) : Leaves p c (updPwr d f) ↔ Leaves p c d := Iff.rfl
@[simp] theorem leaves_dogSticky (b : Nat) : Leaves p c (dogSticky d b) ↔ Leaves p c d := Iff.rfl
@[simp] theorem leaves_dropHeld (o : Nat) : Leaves p c (dropHeld d o) ↔ Leaves p c d := Iff.rfl
@[simp] theorem leaves_axNote (x : AxWrite) : Leaves p c (axNote d x) ↔ Leaves p c d := Iff.rfl
@[simp] theorem leaves_withLgb (x : Logbook) : Leaves p c { d with lgb := x } ↔ Leaves p c d := Iff.rfl
@[simp] theorem leaves_withHeld (x) : Leaves p c { d with held := x } ↔ Leaves p c d := Iff.rfl

@[simp] theorem leaves_axMark (o b : Nat) : Leaves p c (axMark d o b) ↔ Leaves p c d := by
  unfold axMark
  split <;> rfl

@[simp] theorem leaves_hwPut {o : Nat} (h : p o) (w : Word) : Leaves p c (hwPut d o w) ↔ Leaves p c d := by
  rw [hwPut, hwStore, leaves_dropHeld, leaves_putReg _ _ h, leaves_axMark]

@[simp] theorem leaves_hwPut64 {o : Nat} (h : p o) (h' : p (o + 4)) (x : Int) : Leaves p c (hwPut64 d o x) ↔ Leaves p c d := by
  rw [hwPut64, leaves_hwPut _ _ h', leaves_hwPut _ _ h]

@[simp] theorem leaves_axFld {f : Fld} (h : p f.off) (v : Nat) : Leaves p c (axFld d f v) ↔ Leaves p c d := by
  rw [axFld, leaves_setFld _ _ h, leaves_axMark]

@[simp] theorem leaves_axCount {o : Nat} (h : p o) : Leaves p c (axCount d o) ↔ Leaves p c d := by
  rw [axCount, leaves_incReg _ _ h, leaves_axMark]

@[simp] theorem leaves_axEvent {f : Fld} (h : p f.off) : Leaves p c (axEvent d f) ↔ Leaves p c d := leaves_axFld c d h 1

@[simp] theorem leaves_logPut (hcnt : p Reg.LOG_CNT_LOST) (hstat : p Reg.LOG_STAT) (e : LogEvt) :
    Leaves p c (logPut d e) ↔ Leaves p c d :=
  Leaves.iff_of fun _ hp => getReg_logPut_ne d e (fun h => hp (h ▸ hcnt)) (fun h => hp (h ▸ hstat))

@[simp] theorem leaves_logEvt (hcnt : p Reg.LOG_CNT_LOST) (hstat : p Reg.LOG_STAT) (src code sev p0 p1 p2 : Nat) :
    Leaves p c (logEvt d src code sev p0 p1 p2) ↔ Leaves p c d := leaves_logPut c d hcnt hstat _

@[simp] theorem leaves_ppTrigger (hstat : p Reg.KNL_PP_STAT) (hidx : p Reg.KNL_PP_TRIGIDX) (cause : Nat) :
    Leaves p c (ppTrigger d cause) ↔ Leaves p c d := by
  unfold ppTrigger
  split
  · rw [leaves_updKnl, leaves_setFld _ _ hidx, leaves_setFlag _ _ hstat]
  · rfl

@[simp] theorem leaves_ppEvt (h : p Reg.KNL_PP_LOST) (event engine level idx src detail : Nat) :
    Leaves p c (ppEvt d event engine level idx src detail) ↔ Leaves p c d := by
  unfold ppEvt
  extract_lets always
  split
  · rfl
  · split
    · rfl
    · split
      · rw [leaves_updKnl, leaves_incReg _ _ h]
      · rfl

@[simp] theorem leaves_complete (ticket status r0 r1 : Nat) : Leaves p c (complete d ticket status r0 r1) ↔ Leaves p c d := by
  unfold complete
  split <;> rfl

@[simp] theorem leaves_clearBlocked : Leaves p c (clearBlocked d) ↔ Leaves p c d := Iff.rfl

@[simp] theorem leaves_irqSettle (b : Die) : Leaves p c (irqSettle b d) ↔ Leaves p c d :=
  Leaves.iff_of fun off _ => getReg_irqSettle b d off

end Operations

theorem leaves_axPlace (p : Nat → Prop) (port c : Nat) (old new : Die) : Leaves p new (axPlace port c old new) := fun _ _ => rfl

/-- The writes of a command that take their place in the order of R58 change words of the axis-state RAM alone. -/
theorem leaves_axSettle (port c : Nat) (old new : Die) : Leaves (fun off => inAxis off = true) new (axSettle port c old new) := by
  refine (leaves_axPlace _ port c old new).trans (Leaves.foldl (fun d off hoff => ?_) _)
  have hin : inAxis off = true := by
    have := (List.mem_filter.1 hoff).2
    simp only [Bool.and_eq_true] at this
    exact this.1
  extract_lets p was now keep d1 d2
  have h1 : Leaves (fun off => inAxis off = true) d d1 := (leaves_axNote d d _).2 (.refl _ d)
  split
  · exact h1
  · have h2 : Leaves (fun off => inAxis off = true) d d2 := (leaves_putReg d d1 hin _).2 h1
    split
    · exact h2
    · exact h2

/-! Parts left. -/

section Parts

variable {ps : List Part} (c d : Die)

@[simp] theorem keeps_maxFld (h : .regs ∈ ps) (f : Fld) (v : Nat) : Keeps ps c (maxFld d f v) ↔ Keeps ps c d := by
  unfold maxFld
  split
  · exact keeps_setFld c d h f v
  · rfl

@[simp] theorem keeps_axMark (h : .axLog ∈ ps) (o b : Nat) : Keeps ps c (axMark d o b) ↔ Keeps ps c d := by
  unfold axMark
  split
  · exact keeps_axNote c d h _
  · rfl

@[simp] theorem keeps_hwPut (hr : .regs ∈ ps) (hh : .held ∈ ps) (ha : .axLog ∈ ps) (o : Nat) (w : Word) :
    Keeps ps c (hwPut d o w) ↔ Keeps ps c d := by
  rw [hwPut, hwStore, keeps_dropHeld _ _ hh, keeps_putReg _ _ hr, keeps_axMark _ _ ha]

/-- A write outside the axis-state RAM notes nothing. -/
@[simp] theorem keeps_hwPut_outside (hr : .regs ∈ ps) (hh : .held ∈ ps) {o : Nat} (ho : inAxis o = false) (w : Word) :
    Keeps ps c (hwPut d o w) ↔ Keeps ps c d := by
  rw [hwPut, hwStore, keeps_dropHeld _ _ hh, keeps_putReg _ _ hr, axMark, if_neg (by simp [ho])]

@[simp] theorem keeps_hwPut64 (hr : .regs ∈ ps) (hh : .held ∈ ps) (ha : .axLog ∈ ps) (o : Nat) (x : Int) :
    Keeps ps c (hwPut64 d o x) ↔ Keeps ps c d := by
  rw [hwPut64, keeps_hwPut _ _ hr hh ha, keeps_hwPut _ _ hr hh ha]

@[simp] theorem keeps_hwPut64_outside (hr : .regs ∈ ps) (hh : .held ∈ ps) {o : Nat} (ho : inAxis o = false)
    (ho' : inAxis (o + 4) = false) (x : Int) : Keeps ps c (hwPut64 d o x) ↔ Keeps ps c d := by
  rw [hwPut64, keeps_hwPut_outside _ _ hr hh ho', keeps_hwPut_outside _ _ hr hh ho]

@[simp] theorem keeps_axFld (hr : .regs ∈ ps) (ha : .axLog ∈ ps) (f : Fld) (v : Nat) : Keeps ps c (axFld d f v) ↔ Keeps ps c d := by
  rw [axFld, keeps_setFld _ _ hr, keeps_axMark _ _ ha]

@[simp] theorem keeps_axCount (hr : .regs ∈ ps) (ha : .axLog ∈ ps) (o : Nat) : Keeps ps c (axCount d o) ↔ Keeps ps c d := by
  rw [axCount, keeps_incReg _ _ hr, keeps_axMark _ _ ha]

@[simp] theorem keeps_axEvent (hr : .regs ∈ ps) (ha : .axLog ∈ ps) (f : Fld) : Keeps ps c (axEvent d f) ↔ Keeps ps c d :=
  keeps_axFld c d hr ha f 1

@[simp] theorem keeps_logEvt (hr : .regs ∈ ps) (hl : .lgb ∈ ps) (src code sev p0 p1 p2 : Nat) :
    Keeps ps c (logEvt d src code sev p0 p1 p2) ↔ Keeps ps c d := keeps_logPut c d hr hl _

@[simp] theorem keeps_ppTrigger (hr : .regs ∈ ps) (hk : .knl ∈ ps) (cause : Nat) : Keeps ps c (ppTrigger d cause) ↔ Keeps ps c d := by
  unfold ppTrigger
  split
  · rw [keeps_updKnl _ _ hk, keeps_setFld _ _ hr, keeps_setFlag _ _ hr]
  · rfl

@[simp] theorem keeps_ppEvt (hr : .regs ∈ ps) (hk : .knl ∈ ps) (event engine level idx src detail : Nat) :
    Keeps ps c (ppEvt d event engine level idx src detail) ↔ Keeps ps c d := by
  unfold ppEvt
  extract_lets always
  split
  · rfl
  · split
    · rfl
    · split
      · rw [keeps_updKnl _ _ hk, keeps_incReg _ _ hr]
      · exact keeps_updKnl _ _ hk _

@[simp] theorem keeps_complete (h : .host ∈ ps) (ticket status r0 r1 : Nat) :
    Keeps ps c (complete d ticket status r0 r1) ↔ Keeps ps c d := by
  unfold complete
  split
  · rfl
  · exact keeps_updCmds c d h _ _

@[simp] theorem keeps_clearBlocked (h : .knl ∈ ps) : Keeps ps c (clearBlocked d) ↔ Keeps ps c d := keeps_updKnl c d h _

@[simp] theorem keeps_withAxLog (h : .axLog ∈ ps) (x) : Keeps ps c { d with axLog := x } ↔ Keeps ps c d := keeps_axLog c d h x

theorem keeps_axSettle (port k : Nat) (old new : Die) : Keeps [.regs, .held, .axLog] new (axSettle port k old new) := by
  refine Keeps.trans ((keeps_axLog new new (by simp) _).2 (.refl _ new)) (Keeps.foldl (fun d off => ?_) _ _)
  extract_lets p was now keep d1 d2
  have h1 : Keeps [.regs, .held, .axLog] d d1 := (keeps_axNote d d (by simp) _).2 (.refl _ d)
  split
  · exact h1
  · have h2 : Keeps [.regs, .held, .axLog] d d2 := (keeps_putReg d d1 (by simp) _ _).2 h1
    split
    · exact (Keeps.iff_of_part (q := .held) (by simp) fun p hp => by cases p <;> simp_all [Part.same]).2 h2
    · exact h2

end Parts

end Sys2Proof.Machine
end

section
/-! PROOFS. Engine faults (R88): what a fault records and leaves, and the words that fault. -/

namespace Sys2Proof.Machine

open Sys2Proof

/-- Not a register of a loop engine. -/
def notEngine (off : Nat) : Prop := off < 0x8000 ∨ 0xC000 ≤ off

theorem notEngine_of_inAxis {off : Nat} (h : inAxis off = true) : notEngine off := by
  simp only [inAxis, Bool.and_eq_true, decide_eq_true_eq] at h
  exact .inr (by omega)

theorem descAxis_lt {d : Die} {i a : Nat} (h : descAxis d i = some a) : a < 128 := by
  unfold descAxis at h
  split at h
  · exact Option.some.inj h ▸ bitsOf_lt _ 18 7
  · cases h

section Ends

variable (d : Die) (e : Nat) (t : Task)

theorem leaves_faultAxis : Leaves notEngine d (faultAxis d e t) := by
  unfold faultAxis
  split
  · exact .refl _ d
  · rename_i a ha
    have hlt := descAxis_lt ha
    have hoff : notEngine (Reg.AX_TRK_STAT_OFF a).off := .inr (by show 0xC000 ≤ 0x20290 + a * 0x400; omega)
    split
    · exact (leaves_updAx d d a _).2 (.refl _ d)
    · split
      · refine (leaves_logEvt _ _ (.inl (by decide)) (.inl (by decide)) ..).2 ?_
        exact ((leaves_axFld d d hoff 1).2 (.refl _ d)).trans
          ((leaves_axSettle 6 d.tb.cyc d _).mono fun _ => notEngine_of_inAxis)
      · exact .refl _ d

theorem keeps_faultAxis : Keeps [.regs, .held, .axLog, .axes, .lgb] d (faultAxis d e t) := by
  unfold faultAxis
  split
  · exact .refl _ d
  · split
    · exact (keeps_updAx d d (by simp) _ _).2 (.refl _ d)
    · split
      · refine (keeps_logEvt _ _ (by simp) (by simp) ..).2 ?_
        exact ((keeps_axFld d d (by simp) (by simp) _ 1).2 (.refl _ d)).trans ((keeps_axSettle 6 d.tb.cyc d _).mono (by simp))
      · exact .refl _ d

/-- The fault of a POSITION or FIXED task stops its axis (R108). -/
theorem faultAxis_conds {a : Nat} (ha : descAxis d t.idx = some a) (hcls : descClass d t.idx ≤ 1) :
    (axH (faultAxis d e t) a).conds.engine = true := by
  simp only [faultAxis, ha, if_pos hcls, axH_updAx_same]

theorem leaves_releaseSeq (c seq : Nat) : Leaves notEngine d (releaseSeq d c seq) := by
  have hoff : notEngine (Reg.CAP_CH_FREESEQ_SEQ c).off := .inr (by show 0xC000 ≤ 0xF15C + c * 0x80; omega)
  refine Leaves.trans ((leaves_updChan d d c _).2 (.refl _ d)) (Leaves.foldl (fun d' _ _ => ?_) _)
  dsimp only
  split
  · exact (leaves_updChan _ _ c _).2 ((leaves_setFld _ _ hoff _).2 (.refl _ _))
  · exact .refl _ _

theorem keeps_releaseSeq (c seq : Nat) : Keeps [.regs, .cap] d (releaseSeq d c seq) := by
  refine Keeps.trans ((keeps_updChan d d (by simp) c _).2 (.refl _ d)) (Keeps.foldl (fun d' _ => ?_) _ _)
  dsimp only
  split
  · simp
  · exact .refl _ _

/-- The place of a task that ends is free (R157). -/
def placeFreed : Die :=
  if descMulti d t.idx then clearBlocked (updKnl d fun k => { k with store := k.store - 1 }) else d

theorem leaves_instEnd (cause : Nat) : Leaves notEngine d (instEnd d t cause) := by
  have hfree : Leaves notEngine d (placeFreed d t) := by
    unfold placeFreed
    split
    · exact .of_regs rfl
    · exact .refl _ d
  refine hfree.trans ?_
  show Leaves notEngine (placeFreed d t) (instEnd d t cause)
  unfold instEnd
  extract_lets d0 c d1
  show Leaves notEngine d0 _
  split
  · split
    · exact (leaves_complete d0 d0 ..).2 (.refl _ _)
    · exact (leaves_complete d0 d0 ..).2 (.refl _ _)
  · split
    · have hoff : notEngine (Reg.CAP_CH_STAT_FAULTEND c).off := .inr (by show 0xC000 ≤ 0xF104 + c * 0x80; omega)
      have hend : Leaves notEngine d0 d1 := by
        refine leaves_ite.2 ⟨fun _ => .refl _ _, fun _ => (leaves_setFlag d0 d0 hoff).2 (.refl _ _)⟩
      split
      · exact hend.trans (leaves_releaseSeq d1 c _)
      · exact hend
    · exact .refl _ _

theorem keeps_instEnd (cause : Nat) : Keeps [.regs, .knl, .host, .cap] d (instEnd d t cause) := by
  have hfree : Keeps [.regs, .knl, .host, .cap] d (placeFreed d t) := by
    unfold placeFreed
    split
    · simp
    · exact .refl _ d
  refine hfree.trans ?_
  unfold instEnd
  extract_lets d0 c d1
  show Keeps [.regs, .knl, .host, .cap] d0 _
  split
  · split <;> exact (keeps_complete d0 d0 (by simp) ..).2 (.refl _ _)
  · split
    · have hend : Keeps [.regs, .knl, .host, .cap] d0 d1 := by
        exact keeps_ite.2 (by split <;> simp)
      split
      · exact hend.trans ((keeps_releaseSeq d1 c _).mono (by simp))
      · exact hend
    · exact .refl _ _

end Ends

/-! What a fault records. -/

section Fault

variable (d : Die) (e : Fin 16) (t : Task) (cause : Nat)

/-- The registers of a fault written (R88). -/
def faultNoted : Die :=
  incReg (setFlag (putReg d (Reg.LE_FAULT e.val) (BitVec.ofNat 32 (cause + 2 ^ 4 * t.ctx.pc.toNat + 2 ^ 18 * t.idx)))
    (Reg.LE_STICKY_FAULT e.val)) (Reg.LE_FAULTCNT e.val)

/-- The fault in the Logbook and as a trigger of the Pawprint (R166, R409). -/
def faultLogged : Die :=
  ppTrigger (logEvt (faultNoted d e t cause) 2 1 2 e.val (getReg (faultNoted d e t cause) (Reg.LE_FAULT e.val)).toNat
    (beatNum (faultNoted d e t cause))) 3

theorem engineFault_eq : engineFault d e.val t cause =
    let u := (engH (faultLogged d e t cause) e.val).active.getD t
    updEng (instEnd (faultAxis (faultLogged d e t cause) e.val u) u cause) e.val fun g =>
      { g with active := none, ended := some ⟨u, cause⟩ } := rfl

theorem leaves_faultLogged : Leaves notEngine (faultNoted d e t cause) (faultLogged d e t cause) :=
  (leaves_ppTrigger _ _ (.inl (by decide)) (.inl (by decide)) 3).2
    ((leaves_logEvt _ _ (.inl (by decide)) (.inl (by decide)) ..).2 (.refl _ _))

theorem keeps_faultLogged : Keeps [.regs, .knl, .lgb] d (faultLogged d e t cause) := by
  simp [faultLogged, faultNoted]

theorem descs_ppTrigger (d : Die) (c : Nat) : (ppTrigger d c).knl.descs = d.knl.descs := by
  unfold ppTrigger
  split <;> rfl

theorem descs_faultLogged : (faultLogged d e t cause).knl.descs = d.knl.descs := by
  have hlog : Keeps [.regs, .lgb] d (logEvt (faultNoted d e t cause) 2 1 2 e.val
      (getReg (faultNoted d e t cause) (Reg.LE_FAULT e.val)).toNat (beatNum (faultNoted d e t cause))) := by
    rw [keeps_logEvt _ _ (by simp) (by simp)]
    simp [faultNoted]
  rw [faultLogged, descs_ppTrigger, hlog .knl (by simp)]

theorem faultNoted_records : getReg (faultNoted d e t cause) (Reg.LE_FAULT e.val) =
      BitVec.ofNat 32 (cause + 2 ^ 4 * t.ctx.pc.toNat + 2 ^ 18 * t.idx) ∧
    flag (faultNoted d e t cause) (Reg.LE_STICKY_FAULT e.val) = true ∧
    getReg (faultNoted d e t cause) (Reg.LE_FAULTCNT e.val) =
      BitVec.ofNat 32 (satInc 32 (getReg d (Reg.LE_FAULTCNT e.val)).toNat) := by
  have hfc : Reg.LE_FAULT e.val ≠ Reg.LE_FAULTCNT e.val := by simp only [Reg.LE_FAULT, Reg.LE_FAULTCNT]; omega
  have hfs : Reg.LE_FAULT e.val ≠ (Reg.LE_STICKY_FAULT e.val).off := by
    simp only [Reg.LE_FAULT, Reg.LE_STICKY_FAULT, Reg.LE_STICKY]; omega
  have hsc : (Reg.LE_STICKY_FAULT e.val).off ≠ Reg.LE_FAULTCNT e.val := by
    simp only [Reg.LE_FAULTCNT, Reg.LE_STICKY_FAULT, Reg.LE_STICKY]; omega
  refine ⟨?_, ?_, ?_⟩
  · rw [faultNoted, getReg_incReg_ne _ _ hfc, getReg_setFlag_ne _ _ hfs, getReg_putReg_same]
  · rw [flag, fld, faultNoted, getReg_incReg_ne _ _ hsc]
    exact flag_setFlag_same _ (Reg.LE_STICKY_FAULT e.val) (show 3 + 1 ≤ 32 by omega) rfl
  · rw [faultNoted, getReg_incReg_same, getReg_setFlag_ne _ _ hsc.symm, getReg_putReg_ne _ _ hfc.symm]

theorem fld_congr {c d : Die} {f : Fld} (h : getReg d f.off = getReg c f.off) : fld d f = fld c f := by rw [fld, h, fld]

/-- What the state `s'` shows of a fault of task `t` in the state `s` (R88). -/
def FaultShown (s : State) (e : Fin 16) (t : Task) (cause : Nat) (s' : State) : Prop :=
  getReg s'.die (Reg.LE_FAULT e.val) = BitVec.ofNat 32 (cause + 2 ^ 4 * t.ctx.pc.toNat + 2 ^ 18 * t.idx) ∧
  flag s'.die (Reg.LE_STICKY_FAULT e.val) = true ∧
  getReg s'.die (Reg.LE_FAULTCNT e.val) = BitVec.ofNat 32 (satInc 32 (getReg s.die (Reg.LE_FAULTCNT e.val)).toNat) ∧
  s'.die.mem = s.die.mem ∧ (engH s'.die e.val).active = none ∧
  (∀ a, descAxis s.die t.idx = some a → descClass s.die t.idx ≤ 1 → (axH s'.die a).conds.engine = true) ∧
  ∃ x, (engH s'.die e.val).ended = some x ∧ x.cause = cause ∧ x.task.idx = t.idx ∧ x.task.ctx = t.ctx

variable {d e t cause}

theorem not_notEngine_le (e : Fin 16) {n : Nat} (h : n < 0x400) : ¬ notEngine (0x8000 + n + e.val * 0x400) := by
  simp only [notEngine]
  omega

/-- A fault on a die that has the task of `s`, its descriptors, its memories and its count of faults. -/
theorem faultShown_of_engineFault {s : State} {u : Task} (hu : (engH d e.val).active = some u) (hidx : u.idx = t.idx)
    (hctx : u.ctx = t.ctx) (hkeep : Keeps [.regs, .eng, .fresh] s.die d)
    (hcnt : getReg d (Reg.LE_FAULTCNT e.val) = getReg s.die (Reg.LE_FAULTCNT e.val)) :
    FaultShown s e t cause { s with die := irqSettle s.die (engineFault d e.val t cause) } := by
  have hactive : (engH (faultLogged d e t cause) e.val).active = some u := by
    have heng : (faultLogged d e t cause).eng = d.eng := keeps_faultLogged d e t cause .eng (by simp)
    rw [engH, heng, ← engH, hu]
  have heq : engineFault d e.val t cause = updEng (instEnd (faultAxis (faultLogged d e t cause) e.val u) u cause) e.val fun g =>
      { g with active := none, ended := some ⟨u, cause⟩ } := by
    rw [engineFault_eq, hactive]
    rfl
  have hleaves : Leaves notEngine (faultNoted d e t cause) (engineFault d e.val t cause) := by
    rw [heq, leaves_updEng]
    exact ((leaves_faultLogged d e t cause).trans (leaves_faultAxis _ _ _)).trans (leaves_instEnd _ _ _)
  have hparts : Keeps [.regs, .held, .axLog, .axes, .lgb, .knl, .host, .cap, .eng] d (engineFault d e.val t cause) := by
    rw [heq, keeps_updEng _ _ (by simp)]
    exact (((keeps_faultLogged d e t cause).mono (by simp)).trans ((keeps_faultAxis _ _ _).mono (by simp))).trans
      ((keeps_instEnd _ _ _).mono (by simp))
  have hengine : engH (irqSettle s.die (engineFault d e.val t cause)) e.val =
      { engH (instEnd (faultAxis (faultLogged d e t cause) e.val u) u cause) e.val with
        active := none, ended := some ⟨u, cause⟩ } := by
    rw [engH, irqSettle_eng, heq, ← engH, engH_updEng_same _ _ _ e.isLt]
  obtain ⟨hfault, hsticky, hcount⟩ := faultNoted_records d e t cause
  refine ⟨?_, ?_, ?_, ?_, ?_, fun a ha hcls => ?_, ?_⟩
  · exact (getReg_irqSettle ..).trans ((hleaves _ (not_notEngine_le e (n := 0xC) (by omega))).trans hfault)
  · have hreg := hleaves (Reg.LE_STICKY e.val) (not_notEngine_le e (n := 4) (by omega))
    exact (congrArg (· == 1) ((fld_irqSettle ..).trans (fld_congr hreg))).trans hsticky
  · exact (getReg_irqSettle ..).trans ((hleaves _ (not_notEngine_le e (n := 0x10) (by omega))).trans (hcount.trans (by rw [hcnt])))
  · exact (irqSettle_mem _ _).trans ((hparts .mem (by simp)).trans (hkeep .mem (by simp)))
  · rw [hengine]
  · have hknl : (faultLogged d e t cause).knl.descs = s.die.knl.descs := by
      rw [descs_faultLogged, hkeep .knl (by simp)]
    have hidx' : descAxis (faultLogged d e t cause) u.idx = some a := by
      rw [hidx, ← ha, descAxis, descAxis, descWord, descWord, hknl]
    have hcls' : descClass (faultLogged d e t cause) u.idx ≤ 1 := by
      rw [hidx]
      rwa [descClass, descWord, hknl, ← descWord, ← descClass]
    have haxes : axH (engineFault d e.val t cause) a = axH (faultAxis (faultLogged d e t cause) e.val u) a := by
      have hkept := keeps_instEnd (faultAxis (faultLogged d e t cause) e.val u) u cause .axes (by simp)
      rw [heq, axH, axH]
      exact congrArg (sget axisHid0 · a) hkept
    show (axH (irqSettle s.die (engineFault d e.val t cause)) a).conds.engine = true
    rw [axH_irqSettle, haxes]
    exact faultAxis_conds _ e.val u hidx' hcls'
  · exact ⟨⟨u, cause⟩, by rw [hengine], rfl, hidx, hctx⟩

end Fault

/-! Words that fault. -/

section Words

variable {s : State} {e : Fin 16} {k : Ecc} {t : Task} {w n : Nat} {mine : Nat → Bool} {run : Die → Task → Nat → Retire}

/-- The words of an engine that its cycles and its corrected errors change. -/
theorem getReg_runsOn_count (s : State) (e : Fin 16) (n w : Nat) (k : Ecc) :
    getReg (runsOn s e n w k) (Reg.LE_FAULTCNT e.val) = getReg s.die (Reg.LE_FAULTCNT e.val) := by
  have hcyc : Leaves (· ≠ Reg.LE_FAULTCNT e.val) (found s) (busyFor (found s) e.val n) := by
    have hlo : Reg.LE_CYC e.val ≠ Reg.LE_FAULTCNT e.val := by simp only [Reg.LE_CYC, Reg.LE_FAULTCNT]; omega
    have hhi : Reg.LE_CYC e.val + 4 ≠ Reg.LE_FAULTCNT e.val := by simp only [Reg.LE_CYC, Reg.LE_FAULTCNT]; omega
    exact (leaves_updEng _ _ _ _).2 ((leaves_put64 (p := (· ≠ Reg.LE_FAULTCNT e.val)) _ _ hlo hhi _).2 (.refl _ _))
  have hcount : Leaves (· ≠ Reg.LE_FAULTCNT e.val) (busyFor (found s) e.val n) (runsOn s e n w k) := by
    have hcnt : Reg.LE_ECCCNT e.val ≠ Reg.LE_FAULTCNT e.val := by simp only [Reg.LE_ECCCNT, Reg.LE_FAULTCNT]; omega
    have hsticky : (Reg.LE_STICKY_ECC e.val).off ≠ Reg.LE_FAULTCNT e.val := by
      simp only [Reg.LE_STICKY_ECC, Reg.LE_STICKY, Reg.LE_FAULTCNT]; omega
    unfold runsOn eccCount
    extract_lets c
    split
    · exact .refl _ _
    · refine (leaves_setFlag (p := (· ≠ Reg.LE_FAULTCNT e.val)) _ _ hsticky).2 (Leaves.foldl (fun d _ _ => ?_) _)
      exact (leaves_incReg (p := (· ≠ Reg.LE_FAULTCNT e.val)) d d hcnt).2 (.refl _ d)
  exact (hcyc.trans hcount) _ (by simp)

theorem task_runsOn (hat : atWord s e t w) : ∃ u, (engH (runsOn s e n w k) e.val).active = some u ∧ u.idx = t.idx ∧ u.ctx = t.ctx := by
  rw [engH_runsOn, busyFor]
  dsimp only
  rw [engH_updEng_same _ _ _ e.isLt]
  refine ⟨{ t with busy := t.busy + n }, ?_, rfl, rfl⟩
  show ((engH (found s) e.val).active).map _ = _
  rw [show (engH (found s) e.val).active = some t from issuing_lt _ _ _ hat.1]
  rfl

theorem pickCause_mem (d : Die) {cs : List Nat} (h : cs ≠ []) : (pickCause d cs).1 ∈ cs := by
  match cs, h with
  | [c], _ => simp [pickCause]
  | a :: b :: l, _ =>
    have hlt : (draw d).1.toNat % (a :: b :: l).length < (a :: b :: l).length := Nat.mod_lt _ (by simp)
    simp only [pickCause, nth, List.getD_eq_getElem _ _ hlt]
    exact List.getElem_mem hlt

theorem pickCause_die (d : Die) (cs : List Nat) : (pickCause d cs).2 = d ∨ (pickCause d cs).2 = (draw d).2 := by
  match cs with
  | [] => exact .inl rfl
  | [_] => exact .inl rfl
  | _ :: _ :: _ => exact .inr rfl

/-- The die after a fault with one of these causes. -/
def faulted (s : State) (e : Fin 16) (k : Ecc) (t : Task) (w n : Nat) (cs : List Nat) : Die :=
  engineFault (pickCause (runsOn s e n w k) cs).2 e.val t (pickCause (runsOn s e n w k) cs).1

/-- A fault of the word an engine is at, one of its causes recorded. -/
theorem faultShown_of_causes (hat : atWord s e t w) (cs : List Nat) :
    FaultShown s e t (pickCause (runsOn s e n w k) cs).1 { s with die := irqSettle s.die (faulted s e k t w n cs) } := by
  unfold faulted
  obtain ⟨u, hu, hidx, hctx⟩ := task_runsOn (k := k) (n := n) hat
  have hkeep : Keeps [.regs, .eng, .fresh] s.die (runsOn s e n w k) := (keeps_runsOn s e n w k).mono (by simp)
  have hcnt := getReg_runsOn_count s e n w k
  obtain hd | hd := pickCause_die (runsOn s e n w k) cs <;> rw [hd]
  · exact faultShown_of_engineFault hu hidx hctx hkeep hcnt
  · exact faultShown_of_engineFault (d := (draw (runsOn s e n w k)).2) hu hidx hctx
      ((keeps_fresh _ _ (by simp) _).2 hkeep) hcnt

theorem issue_of_error (hk : k.bad = false) (hat : atWord s e t w) (hm : mine (iOp w) = true) {cs : List Nat}
    (hr : run (runsOn s e n w k) t w = .error cs) :
    issue mine n run e.val k (found s) = faulted s e k t w n cs := by
  obtain ⟨hissue, hfetch⟩ := hat
  have hissue' : issuing (found s) e.val = some t := hissue
  have hfetch' : fetch (found s) t.ctx.pc.toNat = w := hfetch
  have hrun : run (eccCount (busyFor (found s) e.val n) e.val w k) t w = .error cs := hr
  simp only [issue, hissue', hfetch', hm, hrun, hk]
  rfl

/-- A word that faults by the rules of its instruction records one of the causes. -/
theorem ends_fault {i : Instr} (hx : exec i s = onDie (issue mine n run e.val k) s) (hk : k.bad = false) (hat : atWord s e t w)
    (hm : mine (iOp w) = true) {cs : List Nat} (hr : run (runsOn s e n w k) t w = .error cs) :
    ends i s (FaultShown s e t (pickCause (runsOn s e n w k) cs).1) :=
  ends_of_onDie hx (by rw [issue_of_error hk hat hm hr]; exact faultShown_of_causes hat cs)

/-- A double-bit error in a word of an instruction that would retire (R53). -/
theorem ends_fault_ecc {i : Instr} {m : Fin 4} (hx : exec i s = onDie (issue mine n run e.val ⟨m, true⟩) s) (hat : atWord s e t w)
    (hm : mine (iOp w) = true) {r : Die × Ctx} (hr : run (runsOn s e n w ⟨m, true⟩) t w = .ok r) :
    ends i s (FaultShown s e t 8) := by
  refine ends_of_onDie hx ?_
  have heq : issue mine n run e.val ⟨m, true⟩ (found s) = faulted s e ⟨m, true⟩ t w n [8] := by
    obtain ⟨hissue, hfetch⟩ := hat
    have hissue' : issuing (found s) e.val = some t := hissue
    have hfetch' : fetch (found s) t.ctx.pc.toNat = w := hfetch
    have hrun : run (eccCount (busyFor (found s) e.val n) e.val w ⟨m, true⟩) t w = .ok r := hr
    simp only [issue, hissue', hfetch', hm, hrun]
    rfl
  rw [heq]
  exact faultShown_of_causes hat [8]

theorem ends_fault_classI {i : Instr} {use : Nat → Nat} {exe : Nat → Die → Task → Nat → Retire} {c : Nat}
    (hx : exec i s = runI (iOp w) n use exe e k s) (hk : k.bad = false) (hat : atWord s e t w) (hu : usedI (use w) w = true)
    (hr : exe e.val (runsOn s e n w k) t w = .error [c]) : ends i s (FaultShown s e t c) := by
  have hclass : classI use (exe e.val) (runsOn s e n w k) t w = .error [c] := by rw [classI, if_pos hu, hr]
  exact ends_fault hx hk hat (by simp) hclass

theorem ends_fault_classM {i : Instr} {use : Nat} {alu : Nat → Ctx → Option AluOut} {c : Nat} {cs : List Nat}
    (hx : exec i s = runM (iOp w) use alu e k s) (hk : k.bad = false) (hat : atWord s e t w)
    (hr : classM use alu e.val (runsOn s e 1 w k) t w = .error cs) (hcs : cs = [c]) : ends i s (FaultShown s e t c) := by
  subst hcs
  exact ends_fault hx hk hat (by simp) hr

theorem classM_of_causes {use : Nat} {alu : Nat → Ctx → Option AluOut} {o : AluOut} (d : Die)
    (h : (if usedM use w then [] else [1]) ++ moveFaults t.ctx w ≠ []) (ho : alu w t.ctx = some o) :
    classM use alu e.val d t w = .error ((if usedM use w then [] else [1]) ++ moveFaults t.ctx w) := by
  unfold classM
  rw [ho]
  split
  · rename_i heq; cases heq
  · rename_i hnil _; exact absurd hnil h
  · rename_i heq _; simp_all

theorem winOff_congr {d d' : Die} (h : d.knl = d'.knl) (b : Bool) : winOff d t b w = winOff d' t b w := by
  rw [winOff, winOff, descAxis, descAxis, descWord, descWord, h]

theorem issuing_of_inactive {d : Die} {j : Nat} (h : (engH d j).active = none) : issuing d j = none := by
  rw [issuing, h]
  split <;> rfl

theorem issue_of_none {d : Die} {j : Nat} (h : issuing d j = none) : issue mine n run j k d = d := by rw [issue, h]

theorem active_faulted (hat : atWord s e t w) (cs : List Nat) : (engH (faulted s e k t w n cs) e.val).active = none := by
  obtain ⟨-, -, -, -, hactive, -⟩ := faultShown_of_causes (k := k) (n := n) hat cs
  rwa [engH, irqSettle_eng, ← engH] at hactive

end Words

/-- Settles O10: each word runs to `.error` with its causes, and `faultShown_of_causes` says what is recorded. -/
theorem engineFaultRecords : Obligations.EngineFaultRecords := by
  intro s e k t w hk hat
  refine ⟨fun hop => ?reserved, fun hop hu hm => ?unused, fun hop hu hm => ?several, fun hop hmode => ?mode3,
    fun hop hu hm => ?xaddr, fun hop hu hm => ?yaddr, fun hop hu hm hacc => ?cmac, fun hop hu hm hacc => ?pmac,
    fun hop hu haddr => ?yst, fun hop hu hmode hwin => ?lda, fun hop hu hwin => ?sta, fun hop hu hcond => ?jcc,
    fun hop hu hfull => ?call, fun hop hu hempty => ?ret, fun hop hu hlo hhi hcount hfull => ?loopstk, fun hop hu hlen => ?looplen,
    fun n hop hu hm => ?ecc, fun n hop hu => ?done⟩
  case reserved =>
    refine ends_of_onDie (f := fun d => issue (· == 0) 1 (classM 0 aluNop e.val) e.val k
      (issue (0x32 ≤ ·) 1 classReserved e.val k d)) rfl ?_
    have hfault : issue (0x32 ≤ ·) 1 classReserved e.val k (found s) = faulted s e k t w 1 [1] :=
      issue_of_error hk hat (by simpa using hop) rfl
    have hshown := faultShown_of_causes (k := k) (n := 1) hat [1]
    have hidle : issuing (faulted s e k t w 1 [1]) e.val = none := issuing_of_inactive (active_faulted hat [1])
    rw [hfault, issue_of_none hidle]
    exact hshown
  case unused =>
    exact ends_fault_classM (by rw [hop]; rfl) hk hat (classM_of_causes _ (by simp [hu]) rfl) (by simp [hu, hm])
  case several =>
    have hcs : (if usedM useTwo w = true then [] else [1]) ++ moveFaults t.ctx w = 1 :: moveFaults t.ctx w := by simp [hu]
    have hr := classM_of_causes (e := e) (t := t) (w := w) (use := useTwo) (alu := twoLane fun b c => satTo 24 (b + c))
      (runsOn s e 1 w k) (by simp [hu]) rfl
    rw [hcs] at hr
    exact ⟨_, pickCause_mem _ (by simp), ends_fault (i := .add e k) (by rfl) hk hat (by rw [hop]; rfl) hr⟩
  case mode3 =>
    have hrun : runLda e.val (runsOn s e 4 w k) t w = .error [1] := by simp only [runLda, hmode, if_true]
    have hclass : classI useWin (runLda e.val) (runsOn s e 4 w k) t w = .error [1] := by
      rw [classI, hrun]
      split <;> rfl
    exact ends_fault (i := .lda e k) rfl hk hat (by rw [hop]; rfl) hclass
  case xaddr =>
    exact ends_fault_classM (by rw [hop]; rfl) hk hat (classM_of_causes _ (by simp [hm]) rfl) (by simp [hu, hm])
  case yaddr =>
    exact ends_fault_classM (by rw [hop]; rfl) hk hat (classM_of_causes _ (by simp [hm]) rfl) (by simp [hu, hm])
  case cmac =>
    refine ends_fault_classM (by rw [hop]; rfl) hk hat (use := useMac) (alu := macLane cprod 1) (cs := [7]) ?_ rfl
    simp [classM, hu, hm, macLane, hacc]
  case pmac =>
    refine ends_fault_classM (by rw [hop]; rfl) hk hat (use := useMac) (alu := aluPmac) (cs := [7]) ?_ rfl
    simp [classM, hu, hm, aluPmac, hacc]
  case yst =>
    exact ends_fault_classI (by rw [hop]; rfl) hk hat hu (exe := runYst) (by simp only [runYst, if_pos haddr])
  case lda =>
    rw [← winOff_congr (keeps_runsOn s e 4 w k .knl (by simp))] at hwin
    exact ends_fault_classI (by rw [hop]; rfl) hk hat hu (exe := runLda) (by simp only [runLda, if_neg hmode, hwin])
  case sta =>
    rw [← winOff_congr (keeps_runsOn s e 4 w k .knl (by simp))] at hwin
    exact ends_fault_classI (by rw [hop]; rfl) hk hat hu (exe := runSta) (by simp only [runSta, hwin])
  case jcc =>
    have hcode : jccHolds t.ctx.sr (iA w) = none := by
      unfold jccHolds
      split <;> first | omega | rfl
    exact ends_fault_classI (by rw [hop]; rfl) hk hat hu (exe := runJcc) (by simp only [runJcc, hcode])
  case call =>
    exact ends_fault_classI (by rw [hop]; rfl) hk hat hu (exe := runCall) (by simp only [runCall, if_pos hfull])
  case ret =>
    exact ends_fault_classI (by rw [hop]; rfl) hk hat hu (exe := runRet) (by simp only [runRet, hempty])
  case loopstk =>
    refine ends_fault_classI (by rw [hop]; rfl) hk hat hu (exe := runLoop) ?_
    rw [runLoop, startLoop, if_neg (by omega), if_neg (by omega), if_pos hfull]
  case looplen =>
    refine ends_fault_classI (by rw [hop]; rfl) hk hat hu (exe := runLoop) ?_
    rw [runLoop, startLoop, if_pos (.inl hlen)]
  case ecc =>
    exact ends_fault_ecc (i := .add e ⟨n, true⟩) rfl hat (by rw [hop]; rfl) (classM_of_some hu hm rfl)
  case done =>
    refine ends_of_onDie (f := runDone edgeLaw e.val ⟨n, true⟩) rfl ?_
    have hfault : runDone edgeLaw e.val ⟨n, true⟩ (found s) = faulted s e ⟨n, true⟩ t w 1 [8] := by
      obtain ⟨hissue, hfetch⟩ := hat
      have hissue' : issuing (found s) e.val = some t := hissue
      have hfetch' : fetch (found s) t.ctx.pc.toNat = w := hfetch
      simp only [runDone, hissue', hfetch', hop, hu]
      rfl
    rw [hfault]
    exact faultShown_of_causes hat [8]

end Sys2Proof.Machine
end

section
/-! PROOFS. What the engine instructions that reach outside their context do (R57 to R59, R82, R86, R87, R154): the axis
window, the Y update queue and its port, postings and DONE. -/

namespace Sys2Proof.Machine

open Sys2Proof

/-! The axis window (R58, R82). -/

theorem leaves_runsOn (s : State) (e : Fin 16) (n w : Nat) (k : Ecc) : Leaves (leBlock e.val) s.die (runsOn s e n w k) := by
  have hle {m : Nat} (hm : m < 0x400) : leBlock e.val (0x8000 + m + e.val * 0x400) := by
    constructor <;> omega
  have hcyc : Leaves (leBlock e.val) (found s) (busyFor (found s) e.val n) := by
    have hhi : leBlock e.val (Reg.LE_CYC e.val + 4) := by
      constructor <;> simp only [Reg.LE_CYC] <;> omega
    exact (leaves_updEng _ _ _ _).2 ((leaves_put64 _ _ (hle (m := 0x20) (by omega)) hhi _).2 (.refl _ _))
  refine Leaves.trans (d := found s) (.of_regs rfl) (hcyc.trans ?_)
  unfold runsOn eccCount
  extract_lets c
  split
  · exact .refl _ _
  · refine (leaves_setFlag _ _ (hle (m := 4) (by omega))).2 (Leaves.foldl (fun d _ _ => ?_) _)
    exact (leaves_incReg d d (hle (m := 0x1C) (by omega))).2 (.refl _ d)

theorem not_leBlock (e : Fin 16) {off : Nat} (h : 0x20000 ≤ off) : ¬ leBlock e.val off := by
  simp only [leBlock]
  omega

theorem winOff_ge {d : Die} {t : Task} {b : Bool} {w off : Nat} (h : winOff d t b w = some off) : 0x20000 ≤ off := by
  unfold winOff at h
  split at h
  · cases h
  · split at h
    · rw [← Option.some.inj h, axAddr]
      omega
    · cases h

/-- The cycle of the access of an LDA or STA (R57). -/
theorem ownedCycle_runsOn (s : State) (e : Fin 16) (w : Nat) (k : Ecc) : ownedCycle (runsOn s e 4 w k) e.val = accessCycle s e.val := by
  rw [ownedCycle, issuedAt_runsOn, accessCycle]

theorem cyc_le_accessCycle (s : State) (e : Nat) : s.die.tb.cyc ≤ accessCycle s e := by
  unfold accessCycle issueCycle
  omega

theorem eff_congr {c d : Die} {o : Nat} (hheld : d.held = c.held) (hreg : getReg d o = getReg c o) : eff d o = eff c o := by
  rw [eff, eff, hheld, hreg]

/-- The die an instruction runs on shows the axis records as they are. -/
theorem axSeen_runsOn (s : State) (e : Fin 16) (n w : Nat) (k : Ecc) (p c : Nat) {off : Nat} (h : 0x20000 ≤ off) :
    axSeen (runsOn s e n w k) p c off = axSeen s.die p c off := by
  have hlog : (runsOn s e n w k).axLog = s.die.axLog := keeps_runsOn s e n w k .axLog (by simp)
  obtain ⟨hheld, -⟩ := keeps_runsOn s e n w k .held (by simp)
  rw [axSeen, axSeen, eff_congr hheld (leaves_runsOn s e n w k off (not_leBlock e h)), axBefore, axBefore, hlog]

/-! A store (R58). -/

/-- What a store of `w` at `off` leaves: the bits that later writes have written stand, and a later host write that waits
goes on waiting. -/
def StoreLeaves (d : Die) (p cy off : Nat) (w : Word) (d' : Die) : Prop :=
  getReg d' off = (w &&& ~~~BitVec.ofNat 32 (axLater d p cy off)) |||
    ((if hostWaits d p cy off then getReg d off else eff d off) &&& BitVec.ofNat 32 (axLater d p cy off)) ∧
  (hostWaits d p cy off = true → eff d' off =
    (w &&& ~~~BitVec.ofNat 32 (axLaterBy (fun x => x.port != 7) d p cy off)) |||
      (eff d off &&& BitVec.ofNat 32 (axLaterBy (fun x => x.port != 7) d p cy off)))

/-- A write of whole words. -/
theorem axMerge_full (old w : Word) (later : Nat) :
    axMerge old 0xFFFFFFFF w later = (w &&& ~~~BitVec.ofNat 32 later) ||| (old &&& BitVec.ofNat 32 later) := by
  simp only [axMerge]
  rw [show (0xFFFFFFFF : Word) = BitVec.allOnes 32 from rfl, BitVec.allOnes_and, BitVec.not_not]

section Store

variable (d : Die) (p c off : Nat) (bits w : Word)

theorem axWrite_storeLeaves : StoreLeaves d p c off w (axWrite d p c off 0xFFFFFFFF w) := by
  unfold axWrite
  extract_lets all x now
  split
  · rename_i h
    refine ⟨?_, fun _ => ?_⟩
    · rw [if_pos h, ← axMerge_full]
      exact getReg_putReg_same _ _ _
    · rw [← axMerge_full, eff]
      simp only [sget_sput_same]
      rfl
  · rename_i h
    refine ⟨?_, fun h' => absurd h' h⟩
    rw [if_neg h, ← axMerge_full]
    exact getReg_putReg_same _ _ _

theorem getReg_axWrite_ne {o : Nat} (h : o ≠ off) : getReg (axWrite d p c off bits w) o = getReg d o := by
  unfold axWrite
  extract_lets all x now
  split <;> exact getReg_putReg_ne _ _ h

theorem held_axWrite_ne {o : Nat} (h : o ≠ off) : sget none (axWrite d p c off bits w).held o = sget none d.held o := by
  unfold axWrite
  extract_lets all x now
  split
  · exact sget_sput_ne none none d.held (some now) h
  · exact sget_sput_ne none none d.held none h

theorem axLog_axWrite : (axWrite d p c off bits w).axLog =
    (axNote d ⟨off, c, p, axSeen d p c off, bits.toNat⟩).axLog := by
  unfold axWrite
  extract_lets all x now
  split <;> rfl

theorem keeps_axWrite : Keeps [.regs, .held, .axLog] d (axWrite d p c off bits w) := by
  have hnote : Keeps [.regs, .held, .axLog] d (axNote d ⟨off, c, p, axSeen d p c off, bits.toNat⟩) := by simp
  unfold axWrite
  extract_lets all x now
  split
  · exact (keeps_held _ _ (by simp) _).2 ((keeps_putReg _ _ (by simp) _ _).2 hnote)
  · exact (keeps_dropHeld _ _ (by simp) _).2 ((keeps_putReg _ _ (by simp) _ _).2 hnote)

end Store

/-- The writes that are later in the order of R58. -/
def laterWrites (d : Die) (p c off : Nat) : List AxWrite := d.axLog.filter fun x => x.after p c off

theorem axLaterBy_eq (q : AxWrite → Bool) (d : Die) (p c off : Nat) :
    axLaterBy q d p c off = (laterWrites d p c off).foldl (fun m x => if q x then m ||| x.bits else m) 0 := by
  rw [axLaterBy, laterWrites, List.foldl_filter]
  refine List.foldl_ext _ _ _ fun m x _ => ?_
  cases x.after p c off <;> rfl

theorem hostWaits_eq (d : Die) (p c off : Nat) :
    hostWaits d p c off = ((sget none d.held off).isSome && (laterWrites d p c off).any fun x => x.port == 7) := by
  rw [hostWaits, laterWrites, List.any_filter]

/-- A store elsewhere in this cycle does not change what later writes of a word are known. -/
theorem laterWrites_axWrite_ne (d : Die) {p c off o : Nat} (bits w : Word) (h : o ≠ off) (hc : d.tb.cyc ≤ c) :
    laterWrites (axWrite d p c off bits w) p c o = laterWrites d p c o := by
  have hnew : (AxWrite.mk off c p (axSeen d p c off) bits.toNat).after p c o = false := by
    simp only [AxWrite.after, beq_eq_false_iff_ne.2 h.symm, Bool.false_and]
  rw [laterWrites, axLog_axWrite, axNote, laterWrites, List.filter_append, List.filter_filter,
    List.filter_cons_of_neg (by simp [hnew]), List.filter_nil, List.append_nil]
  refine List.filter_congr fun x _ => ?_
  by_cases hold : d.tb.cyc ≤ x.cyc
  · simp only [hold, decide_true, Bool.and_true]
  · have hlate : x.after p c o = false := by
      have hcyc : decide (c < x.cyc) = false ∧ (x.cyc == c) = false := by
        constructor <;> simp only [decide_eq_false_iff_not, beq_eq_false_iff_ne] <;> omega
      simp only [AxWrite.after, hcyc, Bool.false_and, Bool.or_false, Bool.and_false]
    simp only [hlate, Bool.false_and]

theorem axLaterBy_axWrite_ne (q : AxWrite → Bool) (d : Die) {p c off o : Nat} (bits w : Word) (h : o ≠ off) (hc : d.tb.cyc ≤ c) :
    axLaterBy q (axWrite d p c off bits w) p c o = axLaterBy q d p c o := by
  rw [axLaterBy_eq, axLaterBy_eq, laterWrites_axWrite_ne d bits w h hc]

theorem hostWaits_axWrite_ne (d : Die) {p c off o : Nat} (bits w : Word) (h : o ≠ off) (hc : d.tb.cyc ≤ c) :
    hostWaits (axWrite d p c off bits w) p c o = hostWaits d p c o := by
  rw [hostWaits_eq, hostWaits_eq, held_axWrite_ne _ _ _ _ _ _ h, laterWrites_axWrite_ne d bits w h hc]

theorem eff_axWrite_ne (d : Die) (p c : Nat) {off o : Nat} (bits w : Word) (h : o ≠ off) :
    eff (axWrite d p c off bits w) o = eff d o := by
  rw [eff, held_axWrite_ne _ _ _ _ _ _ h, getReg_axWrite_ne _ _ _ _ _ _ h, eff]

/-- What a store leaves does not depend on the die but for its registers, what is held and what is known of later writes. -/
theorem StoreLeaves.congr {d₁ d₂ d' d'' : Die} {p c off : Nat} {w : Word} (h : StoreLeaves d₁ p c off w d')
    (hlater : ∀ q, axLaterBy q d₁ p c off = axLaterBy q d₂ p c off) (hwaits : hostWaits d₁ p c off = hostWaits d₂ p c off)
    (hreg : getReg d₁ off = getReg d₂ off) (heff : eff d₁ off = eff d₂ off) (hreg' : getReg d'' off = getReg d' off)
    (heff' : eff d'' off = eff d' off) : StoreLeaves d₂ p c off w d'' := by
  unfold StoreLeaves axLater at h ⊢
  rw [hlater, hlater, hwaits, hreg, heff] at h
  rwa [hreg', heff']

/-- A store of 64 bits leaves both its words so. -/
theorem axWrite64_storeLeaves (d : Die) {p c : Nat} (off : Nat) (i : Int) (hc : d.tb.cyc ≤ c) :
    StoreLeaves d p c off (BitVec.ofNat 32 (wrap 64 i)) (axWrite64 d p c off i) ∧
      StoreLeaves d p c (off + 4) (BitVec.ofNat 32 (wrap 64 i / 2 ^ 32)) (axWrite64 d p c off i) := by
  have hne : off ≠ off + 4 := by omega
  refine ⟨?_, ?_⟩
  · exact (axWrite_storeLeaves d p c off _).congr (fun _ => rfl) rfl rfl rfl (getReg_axWrite_ne _ _ _ _ _ _ hne)
      (eff_axWrite_ne _ _ _ _ _ hne)
  · have h := axWrite_storeLeaves (axWrite d p c off 0xFFFFFFFF (BitVec.ofNat 32 (wrap 64 i))) p c (off + 4)
      (BitVec.ofNat 32 (wrap 64 i >>> 32))
    have hword : wrap 64 i / 2 ^ 32 = wrap 64 i >>> 32 := (Nat.shiftRight_eq_div_pow ..).symm
    rw [hword]
    exact h.congr (fun q => axLaterBy_axWrite_ne q d _ _ hne.symm hc) (hostWaits_axWrite_ne d _ _ hne.symm hc)
      (getReg_axWrite_ne _ _ _ _ _ _ hne.symm) (eff_axWrite_ne _ _ _ _ _ hne.symm) rfl rfl

/-! LDA and STA (R82). -/

section Window

variable {s : State} {e : Fin 16} {k : Ecc} {t : Task} {w off : Nat}

theorem getReg_retired (D : Die) (c : Ctx) (o : Nat) : getReg (retired s e D c).die o = getReg D o := getReg_irqSettle _ _ o

theorem eff_retired (D : Die) (c : Ctx) (o : Nat) : eff (retired s e D c).die o = eff D o := by
  obtain ⟨hheld, -⟩ := keeps_irqSettle [] s.die (updEng D e.val (Engine.withCtx c)) .held (by simp)
  exact eff_congr hheld (getReg_retired D c o)

theorem storeLeaves_retired {n p c : Nat} {v : Word} {D : Die} (h : StoreLeaves (runsOn s e n w k) p c off v D)
    (hoff : 0x20000 ≤ off) (x : Ctx) : StoreLeaves s.die p c off v (retired s e D x).die := by
  have hlog : (runsOn s e n w k).axLog = s.die.axLog := keeps_runsOn s e n w k .axLog (by simp)
  obtain ⟨hheld, -⟩ := keeps_runsOn s e n w k .held (by simp)
  have hreg := leaves_runsOn s e n w k off (not_leBlock e hoff)
  refine h.congr (fun q => ?_) ?_ hreg (eff_congr hheld hreg) (getReg_retired D x off) (eff_retired D x off)
  · rw [axLaterBy, hlog, axLaterBy]
  · rw [hostWaits, hlog, hheld, hostWaits]

/-- The context after an LDA of the words at `off` (R82). -/
def loaded (d : Die) (e : Nat) (t : Task) (w off : Nat) : Ctx :=
  let lo := (axSeen d (2 + e / 4) (ownedCycle d e) off).toNat
  if bitsOf w 24 2 = 0 then
    putD t.ctx (iA w) (BitVec.ofNat 48 (setBitsOf (dReg t.ctx (iA w)).toNat (if bitOf w 26 then 24 else 0) 24 lo))
  else if bitsOf w 24 2 = 1 then
    putD t.ctx (iA w) (BitVec.ofNat 48 (lo + 2 ^ 32 * (axSeen d (2 + e / 4) (ownedCycle d e) (off + 4)).toNat))
  else putE t.ctx (iA w % 4) (bitsOf lo 0 8)

theorem runLda_of_winOff {d : Die} {e : Nat} (hmode : bitsOf w 24 2 ≠ 3)
    (hwin : winOff d t (bitsOf w 24 2 == 1) w = some off) : runLda e d t w = retire d (loaded d e t w off) := by
  simp only [runLda, if_neg hmode, hwin, loaded]
  split
  · rfl
  · split <;> rfl

theorem sext_wrap_byte (x : Nat) : sext 8 (wrap 8 (bitsOf x 0 8 : Nat)) = sext 8 x := by
  rw [sext_wrap_natCast, sext, sext, bitsOf_eq]
  simp

theorem lda_clause (hk : k.bad = false) (hat : atWord s e t w) (hop : iOp w = 0x27) (hu : usedI (useWin w) w = true)
    (hmode : bitsOf w 24 2 ≠ 3) (hwin : winOff s.die t (bitsOf w 24 2 == 1) w = some off) :
    let read (o : Nat) : Nat := (axSeen s.die (2 + e.val / 4) (accessCycle s e.val) o).toNat
    ends (.lda e k) s fun s' => ∃ c', ctxOf s' e = some c' ∧ c'.sr = t.ctx.sr ∧
      (bitsOf w 24 2 = 0 → bitsOf (dReg c' (iA w)).toNat (if bitOf w 26 then 24 else 0) 24 = bitsOf (read off) 0 24) ∧
      (bitsOf w 24 2 = 1 → dReg c' (iA w) = BitVec.ofNat 48 (read off + 2 ^ 32 * read (off + 4))) ∧
      (bitsOf w 24 2 = 2 → expReg c' (iA w % 4) = sext 8 (read off) ∧ c'.d = t.ctx.d) := by
  intro read
  have hoff := winOff_ge hwin
  rw [← winOff_congr (keeps_runsOn s e 4 w k .knl (by simp))] at hwin
  have hclass : classI useWin (runLda e.val) (runsOn s e 4 w k) t w =
      .ok (runsOn s e 4 w k, flowNext (loaded (runsOn s e 4 w k) e.val t w off)) := by
    rw [classI, if_pos hu, runLda_of_winOff hmode hwin, retire]
  refine ends_of_retired (i := .lda e k) rfl hk hat (by rw [hop]; rfl) hclass
    ⟨_, ctxOf_retired _ (active_runsOn hat.1 4 w k), ?_⟩
  rw [loaded, ownedCycle_runsOn, axSeen_runsOn s e 4 w k _ _ hoff, axSeen_runsOn s e 4 w k _ _ (hoff.trans (Nat.le_add_right off 4))]
  refine ⟨?_, fun hm => ?_, fun hm => ?_, fun hm => ?_⟩
  · split
    · rfl
    · split <;> rfl
  · rw [if_pos hm]
    refine (congrArg (fun x : DWord => bitsOf x.toNat _ 24) (dReg_putD_same t.ctx (iA w) _ (iA_lt w))).trans ?_
    exact (bitsOf_lane_written (dReg t.ctx (iA w)) (bitOf w 26) _).1.trans (by rw [bitsOf_eq, pow_zero, Nat.div_one])
  · rw [if_neg (by omega), if_pos hm]
    exact dReg_putD_same t.ctx (iA w) _ (iA_lt w)
  · rw [if_neg (by omega), if_neg (by omega)]
    exact ⟨(expReg_putE_same t.ctx _ (Nat.mod_lt _ (by omega))).trans (sext_wrap_byte _), rfl⟩

/-- The die after an STA to the words at `off` (R82). -/
def stored (d : Die) (e : Nat) (t : Task) (w off : Nat) : Die :=
  let x := dReg t.ctx (iA w)
  let p := 2 + e / 4
  let cy := ownedCycle d e
  if bitsOf w 24 2 = 0 then
    axWrite d p cy off 0xFFFFFFFF (BitVec.ofNat 32 (wrap 32 (if bitOf w 26 then laneIm x else laneRe x)))
  else if bitsOf w 24 2 = 1 then axWrite64 d p cy off (paired x)
  else if bitsOf w 24 2 = 2 then axWrite d p cy off 0xFFFFFFFF (BitVec.ofNat 32 (wrap 32 (expReg t.ctx (iA w % 4))))
  else axWrite64 d p cy off
    (sext 64 ((axSeen d p cy off).toNat + 2 ^ 32 * (axSeen d p cy (off + 4)).toNat) + paired x)

theorem runSta_of_winOff {d : Die} {e : Nat} (hwin : winOff d t (bitsOf w 24 2 == 1 || bitsOf w 24 2 == 3) w = some off) :
    runSta e d t w = retire (stored d e t w off) t.ctx := by
  simp only [runSta, hwin, stored]
  repeat' split
  all_goals rfl

theorem keeps_axWrite64 (d : Die) (p c off : Nat) (i : Int) : Keeps [.regs, .held, .axLog] d (axWrite64 d p c off i) :=
  (keeps_axWrite d p c off _ _).trans (keeps_axWrite _ p c (off + 4) _ _)

theorem keeps_stored (d : Die) (e : Nat) (t : Task) (w off : Nat) : Keeps [.regs, .held, .axLog] d (stored d e t w off) := by
  unfold stored
  extract_lets x p cy
  split
  · exact keeps_axWrite d _ _ _ _ _
  · split
    · exact keeps_axWrite64 d _ _ _ _
    · split
      · exact keeps_axWrite d _ _ _ _ _
      · exact keeps_axWrite64 d _ _ _ _

theorem getReg_axWrite64_ne (d : Die) (p c : Nat) {off o : Nat} (i : Int) (h : o ≠ off) (h' : o ≠ off + 4) :
    getReg (axWrite64 d p c off i) o = getReg d o := by
  rw [axWrite64, getReg_axWrite_ne _ _ _ _ _ _ h', getReg_axWrite_ne _ _ _ _ _ _ h]

theorem leaves_stored (d : Die) (e : Nat) (t : Task) (w off : Nat) :
    Leaves (fun o => o = off ∨ ((bitsOf w 24 2 = 1 ∨ bitsOf w 24 2 = 3) ∧ o = off + 4)) d (stored d e t w off) := by
  intro o ho
  have hlt : bitsOf w 24 2 < 4 := bitsOf_lt w 24 2
  unfold stored
  extract_lets x p cy
  split
  · exact getReg_axWrite_ne _ _ _ _ _ _ (by omega)
  · split
    · exact getReg_axWrite64_ne _ _ _ _ (by omega) (by omega)
    · split
      · exact getReg_axWrite_ne _ _ _ _ _ _ (by omega)
      · exact getReg_axWrite64_ne _ _ _ _ (by omega) (by omega)

theorem sta_clause (hk : k.bad = false) (hat : atWord s e t w) (hop : iOp w = 0x28) (hu : usedI (useWin w) w = true)
    (hwin : winOff s.die t (bitsOf w 24 2 == 1 || bitsOf w 24 2 == 3) w = some off) :
    let x := dReg t.ctx (iA w)
    let read (o : Nat) : Nat := (axSeen s.die (2 + e.val / 4) (accessCycle s e.val) o).toNat
    let leaves (s' : State) (o v : Nat) : Prop :=
      StoreLeaves s.die (2 + e.val / 4) (accessCycle s e.val) o (BitVec.ofNat 32 v) s'.die
    let leaves64 (s' : State) (o v : Nat) : Prop := leaves s' o v ∧ leaves s' (o + 4) (v / 2 ^ 32)
    ends (.sta e k) s fun s' => (∃ c', ctxOf s' e = some c' ∧ c'.sr = t.ctx.sr ∧ c'.d = t.ctx.d) ∧
      (bitsOf w 24 2 = 0 → leaves s' off (wrap 32 (if bitOf w 26 then laneIm x else laneRe x))) ∧
      (bitsOf w 24 2 = 1 → leaves64 s' off (wrap 64 (paired x))) ∧
      (bitsOf w 24 2 = 2 → leaves s' off (wrap 32 (expReg t.ctx (iA w % 4)))) ∧
      (bitsOf w 24 2 = 3 → leaves64 s' off (wrap 64 (sext 64 (read off + 2 ^ 32 * read (off + 4)) + paired x))) ∧
      regsBut (fun o => leBlock e.val o ∨ o = off ∨ ((bitsOf w 24 2 = 1 ∨ bitsOf w 24 2 = 3) ∧ o = off + 4)) s s' := by
  intro x read leaves leaves64
  have hoff := winOff_ge hwin
  have hoff' : 0x20000 ≤ off + 4 := hoff.trans (Nat.le_add_right off 4)
  rw [← winOff_congr (keeps_runsOn s e 4 w k .knl (by simp))] at hwin
  have hclass : classI useWin (runSta e.val) (runsOn s e 4 w k) t w =
      .ok (stored (runsOn s e 4 w k) e.val t w off, flowNext t.ctx) := by
    rw [classI, if_pos hu, runSta_of_winOff hwin, retire]
  have hactive : (engH (stored (runsOn s e 4 w k) e.val t w off) e.val).active ≠ none := by
    rw [engH, keeps_stored _ _ _ _ _ .eng (by simp)]
    exact active_runsOn hat.1 4 w k
  have hcyc : (runsOn s e 4 w k).tb.cyc ≤ accessCycle s e.val := by
    rw [keeps_runsOn s e 4 w k .tb (by simp)]
    exact cyc_le_accessCycle s e.val
  refine ends_of_retired (i := .sta e k) rfl hk hat (by rw [hop]; rfl) hclass
    ⟨⟨_, ctxOf_retired _ hactive, rfl, rfl⟩, fun hm => ?_, fun hm => ?_, fun hm => ?_, fun hm => ?_, fun o ho => ?_⟩
  · rw [stored, if_pos hm, ownedCycle_runsOn]
    exact storeLeaves_retired (axWrite_storeLeaves ..) hoff _
  · rw [stored, if_neg (by omega), if_pos hm, ownedCycle_runsOn]
    obtain ⟨hlo, hhi⟩ := axWrite64_storeLeaves (runsOn s e 4 w k) (p := 2 + e.val / 4) off (paired x) hcyc
    exact ⟨storeLeaves_retired hlo hoff _, storeLeaves_retired hhi hoff' _⟩
  · rw [stored, if_neg (by omega), if_neg (by omega), if_pos hm, ownedCycle_runsOn]
    exact storeLeaves_retired (axWrite_storeLeaves ..) hoff _
  · rw [stored, if_neg (by omega), if_neg (by omega), if_neg (by omega), ownedCycle_runsOn,
      axSeen_runsOn s e 4 w k _ _ hoff, axSeen_runsOn s e 4 w k _ _ hoff']
    obtain ⟨hlo, hhi⟩ := axWrite64_storeLeaves (runsOn s e 4 w k) (p := 2 + e.val / 4) off
      (sext 64 (read off + 2 ^ 32 * read (off + 4)) + paired x) hcyc
    exact ⟨storeLeaves_retired hlo hoff _, storeLeaves_retired hhi hoff' _⟩
  · rw [getReg_retired, leaves_stored _ _ _ _ _ _ fun h => ho (.inr h)]
    exact leaves_runsOn s e 4 w k o fun h => ho (.inl h)

end Window

/-! YST and the update port (R59, R87). -/

/-- An entry takes its place behind the entries of earlier cycles, and in its cycle of lower engine numbers. -/
theorem yqInsert_cases (x : YEnt) (q : List YEnt) : ∃ a b, q = a ++ b ∧ yqInsert x q = a ++ x :: b ∧
    (∀ y ∈ a, y.cyc < x.cyc ∨ (y.cyc = x.cyc ∧ y.eng ≤ x.eng)) ∧
    ∀ y rest, b = y :: rest → x.cyc < y.cyc ∨ (y.cyc = x.cyc ∧ x.eng < y.eng) := by
  induction q with
  | nil => exact ⟨[], [], rfl, rfl, by simp, by simp⟩
  | cons y ys ih =>
    by_cases hbefore : (x.cyc < y.cyc || (x.cyc == y.cyc && x.eng < y.eng)) = true
    · refine ⟨[], y :: ys, rfl, by rw [yqInsert, if_pos hbefore]; rfl, by simp, fun y' rest h => ?_⟩
      obtain ⟨rfl, rfl⟩ := List.cons.inj h
      simp only [Bool.or_eq_true, Bool.and_eq_true, decide_eq_true_eq, beq_iff_eq] at hbefore
      omega
    · obtain ⟨a, b, hq, hins, ha, hb⟩ := ih
      refine ⟨y :: a, b, by rw [hq, List.cons_append], by rw [yqInsert, if_neg hbefore, hins, List.cons_append], ?_, hb⟩
      simp only [Bool.or_eq_true, Bool.and_eq_true, decide_eq_true_eq, beq_iff_eq] at hbefore
      rintro z (_ | ⟨_, hz⟩)
      · omega
      · exact ha z hz

theorem mem_maxFld (d : Die) (f : Fld) (v : Nat) : (maxFld d f v).mem = d.mem := by
  unfold maxFld
  split <;> rfl

theorem eng_maxFld (d : Die) (f : Fld) (v : Nat) : (maxFld d f v).eng = d.eng := by
  unfold maxFld
  split <;> rfl

theorem eng_incFld (d : Die) (f : Fld) : (incFld d f).eng = d.eng := rfl

theorem knl_incFld (d : Die) (f : Fld) : (incFld d f).knl = d.knl := rfl

theorem mem_incFld (d : Die) (f : Fld) : (incFld d f).mem = d.mem := rfl

theorem mem_updEng (d : Die) (e : Nat) (f : Engine → Engine) : (updEng d e f).mem = d.mem := rfl

/-- A word placed in the update queue. -/
theorem mem_yqPlace (d : Die) (x : YEnt) : (yqPlace d x).mem = { d.mem with yq := yqInsert x d.mem.yq } := mem_maxFld _ _ _

theorem eng_yqPlace (d : Die) (x : YEnt) : (yqPlace d x).eng = d.eng := eng_maxFld _ _ _

section Yst

variable {s : State} {e : Fin 16} {k : Ecc} {t : Task} {w : Nat}

/-- The entry that a YST of engine `e` queues, and its context after it. -/
def ystEntry (s : State) (e : Fin 16) (c : Ctx) (w : Nat) : YEnt :=
  ⟨ptr c (bitsOf w 34 3), dReg c (iA w), issueCycle s e.val, e.val, some (bitsOf w 34 3, vget 0 c.p (bitsOf w 34 3))⟩

def ystCtx (c : Ctx) (w : Nat) : Ctx :=
  { stepPtr c (bitsOf w 34 3) (bitsOf w 24 2) with sr := { c.sr with qf := false } }

/-- What a YST writes of its context: QF, and the pointer it steps. -/
theorem ystCtx_spec (c : Ctx) (w : Nat) : (flowNext (ystCtx c w)).sr = { c.sr with qf := false } ∧
    ptr (flowNext (ystCtx c w)) (bitsOf w 34 3) = postMod c (bitsOf w 34 3) (bitsOf w 24 2) :=
  ⟨rfl, ptr_stepPtr_same c _ (bitsOf_lt w 34 3)⟩

section Room

variable (hk : k.bad = false) (hat : atWord s e t w) (hop : iOp w = 0x29)
  (hu : usedI (fieldMask 41 38 + fieldMask 36 34 + fieldMask 25 24) w = true) (haddr : ptr t.ctx (bitsOf w 34 3) < 0x8000)

include hk hat hop hu

theorem ends_yst {d : Die} {c : Ctx} (hrun : runYst e.val (runsOn s e 1 w k) t w = .ok (d, c)) {P : State → Prop}
    (hP : P (retired s e d c)) : ends (.yst e k) s P := by
  have hclass : classI (fun _ => fieldMask 41 38 + fieldMask 36 34 + fieldMask 25 24) (runYst e.val) (runsOn s e 1 w k) t w =
      .ok (d, c) := by rw [classI, if_pos hu, hrun]
  exact ends_of_retired (i := .yst e k) rfl hk hat (by rw [hop]; rfl) hclass hP

include haddr

theorem yst_room (hroom : s.die.mem.yq.length < 32) : ends (.yst e k) s fun s' => s'.die.mem.ymem = s.die.mem.ymem ∧
    (∃ a b, s.die.mem.yq = a ++ b ∧ s'.die.mem.yq = a ++ ystEntry s e t.ctx w :: b ∧
      (∀ y ∈ a, y.cyc < issueCycle s e.val ∨ (y.cyc = issueCycle s e.val ∧ y.eng ≤ e.val)) ∧
      ∀ y rest, b = y :: rest → issueCycle s e.val < y.cyc ∨ (y.cyc = issueCycle s e.val ∧ e.val < y.eng)) ∧
    ∃ c', ctxOf s' e = some c' ∧ c'.sr = { t.ctx.sr with qf := false } ∧
      ptr c' (bitsOf w 34 3) = postMod t.ctx (bitsOf w 34 3) (bitsOf w 24 2) := by
  have hmem := mem_runsOn s e 1 w k
  have hrun : runYst e.val (runsOn s e 1 w k) t w =
      .ok (yqPlace (runsOn s e 1 w k) (ystEntry s e t.ctx w), flowNext (ystCtx t.ctx w)) := by
    simp only [runYst, if_neg (show ¬ 0x8000 ≤ ptr t.ctx (bitsOf w 34 3) by omega), hmem, if_pos hroom, issuedAt_runsOn]
    rfl
  have hactive : (engH (yqPlace (runsOn s e 1 w k) (ystEntry s e t.ctx w)) e.val).active ≠ none := by
    rw [engH, eng_yqPlace]
    exact active_runsOn hat.1 1 w k
  have hmem' : (retired s e (yqPlace (runsOn s e 1 w k) (ystEntry s e t.ctx w)) (flowNext (ystCtx t.ctx w))).die.mem =
      { s.die.mem with yq := yqInsert (ystEntry s e t.ctx w) s.die.mem.yq } :=
    (irqSettle_mem _ _).trans ((mem_yqPlace _ _).trans (by rw [hmem]))
  refine ends_yst hk hat hop hu hrun ⟨by rw [hmem'], ?_, _, ctxOf_retired _ hactive, ystCtx_spec t.ctx w⟩
  obtain ⟨a, b, hq, hins, ha, hb⟩ := yqInsert_cases (ystEntry s e t.ctx w) s.die.mem.yq
  exact ⟨a, b, hq, by rw [hmem', hins], ha, hb⟩

theorem yst_full (hfull : 32 ≤ s.die.mem.yq.length)
    (hnone : ∀ y ∈ s.die.mem.yq, ¬ (y.cyc = issueCycle s e.val ∧ e.val < y.eng)) :
    ends (.yst e k) s fun s' => s'.die.mem = s.die.mem ∧
      ∃ c', ctxOf s' e = some c' ∧ c'.sr = { t.ctx.sr with qf := true } ∧ c'.p = t.ctx.p := by
  have hmem := mem_runsOn s e 1 w k
  have hyield : yqYield (runsOn s e 1 w k) e.val (issueCycle s e.val) = none := by
    have hfilter : (s.die.mem.yq.filter fun y => y.cyc == issueCycle s e.val && decide (e.val < y.eng)) = [] := by
      refine List.filter_eq_nil_iff.2 fun y hy => ?_
      simpa using hnone y hy
    rw [yqYield, hmem, hfilter]
    rfl
  have hrun : runYst e.val (runsOn s e 1 w k) t w = .ok (incFld (runsOn s e 1 w k) Reg.LE_YQ_REFUSED,
      flowNext { t.ctx with sr := { t.ctx.sr with qf := true } }) := by
    simp only [runYst, if_neg (show ¬ 0x8000 ≤ ptr t.ctx (bitsOf w 34 3) by omega), hmem, issuedAt_runsOn, hyield,
      if_neg (show ¬ s.die.mem.yq.length < 32 by omega)]
    rfl
  have hactive : (engH (incFld (runsOn s e 1 w k) Reg.LE_YQ_REFUSED) e.val).active ≠ none := by
    rw [engH, eng_incFld]
    exact active_runsOn hat.1 1 w k
  have hmem' : (updEng (incFld (runsOn s e 1 w k) Reg.LE_YQ_REFUSED) e.val
      (Engine.withCtx (flowNext { t.ctx with sr := { t.ctx.sr with qf := true } }))).mem = s.die.mem := by
    rw [mem_updEng, mem_incFld, hmem]
  exact ends_yst hk hat hop hu hrun ⟨(irqSettle_mem _ _).trans hmem', _, ctxOf_retired _ hactive, rfl, rfl⟩

end Room

/-- The die in which the entry `y` has left the full queue, its YST refused with its pointer as it was. -/
def yielded (d : Die) (y : YEnt) (i : Nat) (p : BitVec 16) : Die :=
  updEng (incFld { d with mem := { d.mem with yq := d.mem.yq.erase y } } Reg.LE_YQ_REFUSED) y.eng fun g =>
    { g with active := g.active.map fun t =>
        { t with ctx := { t.ctx with p := vset t.ctx.p i p, sr := { t.ctx.sr with qf := true } } } }

/-- The engine whose YST yields. -/
def refused (p : BitVec 16) (i : Nat) (g : Engine) : Engine :=
  { g with active := g.active.map fun t =>
      { t with ctx := { t.ctx with p := vset t.ctx.p i p, sr := { t.ctx.sr with qf := true } } } }

theorem engH_yielded_ne (d : Die) {y : YEnt} {i j : Nat} {p : BitVec 16} (h : j ≠ y.eng) :
    engH (yielded d y i p) j = engH d j := by
  rw [yielded, engH_updEng_ne _ _ h, engH, eng_incFld, engH]

theorem engH_yielded_same (d : Die) {y : YEnt} {i : Nat} {p : BitVec 16} (h : y.eng < 16) :
    engH (yielded d y i p) y.eng = refused p i (engH d y.eng) := by
  rw [yielded, engH_updEng_same _ _ _ h, engH, eng_incFld, engH, refused]

theorem yq_yielded (d : Die) (y : YEnt) (i : Nat) (p : BitVec 16) : (yielded d y i p).mem.yq = d.mem.yq.erase y := rfl

theorem yqYield_of_last {d : Die} {a : List YEnt} {y : YEnt} {j c i : Nat} {p : BitVec 16} (hq : d.mem.yq = a ++ [y])
    (hcyc : y.cyc = c) (heng : j < y.eng) (hback : y.back = some (i, p)) (hfree : (engH d y.eng).free = c + 1) :
    yqYield d j c = some (yielded d y i p) := by
  have hlast : (d.mem.yq.filter fun y => y.cyc == c && decide (j < y.eng)).getLast? = some y := by
    rw [hq, List.filter_append, List.filter_cons_of_pos (by simp [hcyc, heng]), List.filter_nil, List.getLast?_concat]
  simp only [yqYield, hlast, hback, if_neg (not_not.2 hfree)]
  rfl

theorem yst_yields (hk : k.bad = false) (hat : atWord s e t w) (hop : iOp w = 0x29)
    (hu : usedI (fieldMask 41 38 + fieldMask 36 34 + fieldMask 25 24) w = true) (haddr : ptr t.ctx (bitsOf w 34 3) < 0x8000)
    {a : List YEnt} {y : YEnt} {h : Fin 16} {u : Task} (hfull : 32 ≤ s.die.mem.yq.length) (hq : s.die.mem.yq = a ++ [y])
    (hnew : y ∉ a) (heng : y.eng = h.val) (hcyc : y.cyc = issueCycle s e.val) (hlt : e.val < h.val)
    (hback : y.back.isSome = true) (hfree : (engH s.die h.val).free = issueCycle s e.val + 1)
    (hu' : (engH s.die h.val).active = some u) :
    ends (.yst e k) s fun s' => y ∉ s'.die.mem.yq ∧ s'.die.mem.yq.length = s.die.mem.yq.length ∧
      (∃ c', ctxOf s' e = some c' ∧ c'.sr = { t.ctx.sr with qf := false }) ∧
      ∃ c', ctxOf s' h = some c' ∧ c'.sr = { u.ctx.sr with qf := true } := by
  obtain ⟨⟨i, p⟩, hip⟩ := Option.isSome_iff_exists.1 hback
  have hne : h.val ≠ e.val := by omega
  have hmem := mem_runsOn s e 1 w k
  have hengine : engH (runsOn s e 1 w k) h.val = engH s.die h.val := by
    rw [engH_runsOn, busyFor]
    exact engH_updEng_ne _ _ hne
  have hyield : yqYield (runsOn s e 1 w k) e.val (issueCycle s e.val) = some (yielded (runsOn s e 1 w k) y i p) :=
    yqYield_of_last (hmem ▸ hq) hcyc (heng ▸ hlt) hip (by rw [heng, hengine, hfree])
  have hrun : runYst e.val (runsOn s e 1 w k) t w =
      .ok (yqPlace (yielded (runsOn s e 1 w k) y i p) (ystEntry s e t.ctx w), flowNext (ystCtx t.ctx w)) := by
    simp only [runYst, if_neg (show ¬ 0x8000 ≤ ptr t.ctx (bitsOf w 34 3) by omega), hmem, issuedAt_runsOn, hyield,
      if_neg (show ¬ s.die.mem.yq.length < 32 by omega)]
    rfl
  have hself : engH (yielded (runsOn s e 1 w k) y i p) e.val = engH (runsOn s e 1 w k) e.val :=
    engH_yielded_ne _ (heng ▸ hne.symm)
  have hvictim : engH (yielded (runsOn s e 1 w k) y i p) h.val = refused p i (engH s.die h.val) := by
    rw [← heng, engH_yielded_same _ (heng ▸ h.isLt), heng, hengine]
  have hactive : (engH (yqPlace (yielded (runsOn s e 1 w k) y i p) (ystEntry s e t.ctx w)) e.val).active ≠ none := by
    rw [engH, eng_yqPlace, ← engH, hself]
    exact active_runsOn hat.1 1 w k
  have hqueue : (retired s e (yqPlace (yielded (runsOn s e 1 w k) y i p) (ystEntry s e t.ctx w))
      (flowNext (ystCtx t.ctx w))).die.mem.yq = yqInsert (ystEntry s e t.ctx w) a := by
    have herase : (runsOn s e 1 w k).mem.yq.erase y = a := by
      rw [hmem, hq, List.erase_append_right _ hnew, List.erase_cons_head, List.append_nil]
    have hplace := mem_yqPlace (yielded (runsOn s e 1 w k) y i p) (ystEntry s e t.ctx w)
    rw [retired, irqSettle_mem, mem_updEng, hplace]
    exact congrArg (yqInsert (ystEntry s e t.ctx w)) ((yq_yielded _ _ _ _).trans herase)
  obtain ⟨b, b', hsplit, hins, -, -⟩ := yqInsert_cases (ystEntry s e t.ctx w) a
  have hother : y ≠ ystEntry s e t.ctx w := fun hy => by
    have := congrArg YEnt.eng hy
    simp only [ystEntry] at this
    omega
  refine ends_yst hk hat hop hu hrun ⟨?_, ?_, ⟨_, ctxOf_retired _ hactive, rfl⟩, ?_⟩
  · rw [hqueue, hins]
    rw [hsplit] at hnew
    simpa [hother] using hnew
  · rw [hqueue, hins, hq, hsplit]
    simp
  · have hgone : engH (retired s e (yqPlace (yielded (runsOn s e 1 w k) y i p) (ystEntry s e t.ctx w))
        (flowNext (ystCtx t.ctx w))).die h.val = refused p i (engH s.die h.val) := by
      rw [retired, engH, irqSettle_eng, ← engH, engH_updEng_ne _ _ hne, engH, eng_yqPlace, ← engH, hvictim]
    rw [ctxOf, hgone, refused, hu']
    exact ⟨_, rfl, rfl⟩

end Yst

/-! POST (R87, R154, R158). -/

theorem queues_ppEvt (d : Die) (event engine level idx src detail : Nat) :
    (ppEvt d event engine level idx src detail).knl.queues = d.knl.queues := by
  unfold ppEvt
  extract_lets always
  split
  · rfl
  · split
    · rfl
    · split <;> rfl

/-- A BLOCKED event for a head of a queue that became blocked (R165). -/
def blockedNoted (d : Die) (j : Nat) : Die :=
  let src := 5 + j
  if headBlocked d src && !bitOf d.knl.blocked src then
    (match kqueue d src with
     | .desc i _ _ :: _ => ppEvt d 0x0D 0 (descLevel d i) i src src
     | _ => d)
  else d

theorem noteBlocked_eq (d : Die) : noteBlocked d =
    let d := (upto 18).foldl blockedNoted d
    updKnl d fun k => { k with blocked := (upto 18).foldl (fun m j => if headBlocked d (5 + j) then setBit m (5 + j) else m) 0 } :=
  rfl

theorem queues_blockedNoted (d : Die) (j : Nat) : (blockedNoted d j).knl.queues = d.knl.queues := by
  unfold blockedNoted
  extract_lets src
  split
  · split
    · exact queues_ppEvt ..
    · rfl
  · rfl

theorem keeps_blockedNoted (d : Die) (j : Nat) : Keeps [.regs, .knl] d (blockedNoted d j) := by
  unfold blockedNoted
  extract_lets src
  split
  · split
    · exact (keeps_ppEvt _ _ (by simp) (by simp) ..).2 (.refl _ _)
    · exact .refl _ _
  · exact .refl _ _

theorem queues_noteBlocked (d : Die) : (noteBlocked d).knl.queues = d.knl.queues := by
  rw [noteBlocked_eq]
  generalize upto 18 = l
  exact foldl_keeps (fun d : Die => d.knl.queues) queues_blockedNoted l d

theorem keeps_noteBlocked (d : Die) : Keeps [.regs, .knl] d (noteBlocked d) := by
  rw [noteBlocked_eq]
  exact (keeps_updKnl _ _ (by simp) _).2 (Keeps.foldl keeps_blockedNoted _ d)

theorem kqueue_congr {c d : Die} (h : d.knl.queues = c.knl.queues) (src : Nat) : kqueue d src = kqueue c src := by
  rw [kqueue, h, kqueue]

theorem knl_maxFld (d : Die) (f : Fld) (v : Nat) : (maxFld d f v).knl = d.knl := by
  unfold maxFld
  split <;> rfl

theorem kqueue_setQueue (d : Die) (src : Nat) (q : List QEnt) : kqueue (setQueue d src q) src = q :=
  sget_sput_same [] d.knl.queues src q

theorem kqueue_maxFld (d : Die) (f : Fld) (v src : Nat) : kqueue (maxFld d f v) src = kqueue d src :=
  kqueue_congr (congrArg Kennel.queues (knl_maxFld d f v)) src

theorem kpost_of_room {d : Die} {src : Nat} (x : QEnt) (h : (kqueue d src).length < 64) : (kpost d src x).2 = true ∧
    kqueue (kpost d src x).1 src = kqueue d src ++ [x] ∧ Keeps [.regs, .knl] d (kpost d src x).1 := by
  simp only [kpost, if_neg (show ¬ 64 ≤ (kqueue d src).length by omega)]
  refine ⟨trivial, ?_, ?_⟩
  · rw [kqueue_maxFld, kqueue_setQueue]
  · exact (keeps_maxFld _ _ (by simp) _ _).2 ((keeps_updKnl _ _ (by simp) _).2 (.refl _ _))

theorem kpost_of_full {d : Die} {src : Nat} (x : QEnt) (h : 64 ≤ (kqueue d src).length) :
    kpost d src x = (incFld d (Reg.KNL_QFILL_FULLCNT src), false) := by
  simp only [kpost, if_pos h]

section Post

variable {s : State} {e : Fin 16} {k : Ecc} {t : Task} {w : Nat}

/-- The entry of a POST. -/
def postEntry (c : Ctx) (w : Nat) : QEnt := .desc (bitsOf w 0 10) (bitsOf (dReg c (iB w)).toNat 0 24) 0

theorem runPost_of_room {d : Die} {j : Nat} (h : (kqueue d (7 + j)).length < 64) : ∃ d',
    runPost j d t w = .ok (d', flowNext { t.ctx with sr := { t.ctx.sr with qf := false } }) ∧
    kqueue d' (7 + j) = kqueue d (7 + j) ++ [postEntry t.ctx w] ∧ d'.eng = d.eng := by
  obtain ⟨hdone, hqueue, hkeep⟩ := kpost_of_room (postEntry t.ctx w) h
  refine ⟨noteBlocked (kpost d (7 + j) (postEntry t.ctx w)).1, ?_, (kqueue_congr (queues_noteBlocked _) _).trans hqueue,
    (keeps_noteBlocked _ .eng (by simp)).trans (hkeep .eng (by simp))⟩
  rw [postEntry] at hdone
  simp only [runPost, postEntry, hdone, if_true, retire, Bool.not_true]

theorem runPost_of_full {d : Die} {j : Nat} (h : 64 ≤ (kqueue d (7 + j)).length) : ∃ d',
    runPost j d t w = .ok (d', flowNext { t.ctx with sr := { t.ctx.sr with qf := true } }) ∧ d'.knl = d.knl ∧ d'.eng = d.eng := by
  refine ⟨incFld d (Reg.KNL_QFILL_FULLCNT (7 + j)), ?_, knl_incFld d _, eng_incFld d _⟩
  simp only [runPost, kpost_of_full _ h, retire, Bool.not_false, Bool.false_eq_true, if_false]

variable (hk : k.bad = false) (hat : atWord s e t w) (hop : iOp w = 0x31) (hu : usedI (fieldMask 37 34 + fieldMask 9 0) w = true)

include hk hat hop hu

theorem ends_post {d : Die} {c : Ctx} (hrun : runPost e.val (runsOn s e 2 w k) t w = .ok (d, c)) {P : State → Prop}
    (hP : P (retired s e d c)) : ends (.post e k) s P := by
  have hclass : classI (fun _ => fieldMask 37 34 + fieldMask 9 0) (runPost e.val) (runsOn s e 2 w k) t w = .ok (d, c) := by
    rw [classI, if_pos hu, hrun]
  exact ends_of_retired (i := .post e k) rfl hk hat (by rw [hop]; rfl) hclass hP

theorem post_room (hroom : (kqueue s.die (7 + e.val)).length < 64) : ends (.post e k) s fun s' =>
    kqueue s'.die (7 + e.val) = kqueue s.die (7 + e.val) ++ [postEntry t.ctx w] ∧
    ∃ c', ctxOf s' e = some c' ∧ c'.sr = { t.ctx.sr with qf := false } ∧ c'.d = t.ctx.d := by
  have hq : kqueue (runsOn s e 2 w k) (7 + e.val) = kqueue s.die (7 + e.val) := by
    rw [kqueue, keeps_runsOn s e 2 w k .knl (by simp), kqueue]
  obtain ⟨d', hrun, hqueue, heng⟩ := runPost_of_room (t := t) (w := w) (hq ▸ hroom)
  have hactive : (engH d' e.val).active ≠ none := by
    rw [engH, heng]
    exact active_runsOn hat.1 2 w k
  refine ends_post hk hat hop hu hrun ⟨?_, _, ctxOf_retired _ hactive, rfl, rfl⟩
  rw [retired, kqueue, irqSettle_knl, ← hq, ← hqueue]
  rfl

theorem post_full (hfull : 64 ≤ (kqueue s.die (7 + e.val)).length) : ends (.post e k) s fun s' => s'.die.knl = s.die.knl ∧
    ∃ c', ctxOf s' e = some c' ∧ c'.sr = { t.ctx.sr with qf := true } ∧ c'.d = t.ctx.d := by
  have hknl : (runsOn s e 2 w k).knl = s.die.knl := keeps_runsOn s e 2 w k .knl (by simp)
  have hq : kqueue (runsOn s e 2 w k) (7 + e.val) = kqueue s.die (7 + e.val) := by rw [kqueue, hknl, kqueue]
  obtain ⟨d', hrun, hknl', heng⟩ := runPost_of_full (t := t) (w := w) (hq ▸ hfull)
  have hactive : (engH d' e.val).active ≠ none := by
    rw [engH, heng]
    exact active_runsOn hat.1 2 w k
  refine ends_post hk hat hop hu hrun ⟨?_, _, ctxOf_retired _ hactive, rfl, rfl⟩
  rw [retired, irqSettle_knl]
  exact hknl'.trans hknl

end Post

/-! DONE and the update port (R59, R86). -/

theorem done_ends {s : State} {e : Fin 16} {k : Ecc} {t : Task} {w : Nat} (hk : k.bad = false) (hat : atWord s e t w)
    (hop : iOp w = 0x30) (hu : usedI 0 w = true) : ends (.doneTask e k) s fun s' => (engH s'.die e.val).active = none ∧
      ∃ x, (engH s'.die e.val).ended = some x ∧ x.cause = 0 ∧ x.task.idx = t.idx ∧ x.task.arg = t.arg := by
  obtain ⟨u, hu', hidx, harg⟩ : ∃ u, (engH (runsOn s e 1 w k) e.val).active = some u ∧ u.idx = t.idx ∧ u.arg = t.arg := by
    rw [engH_runsOn, busyFor]
    dsimp only
    rw [engH_updEng_same _ _ _ e.isLt]
    exact ⟨{ t with busy := t.busy + 1 }, congrArg (Option.map _) (issuing_lt _ _ _ hat.1), rfl, rfl⟩
  have hdone : ∃ d, runDone edgeLaw e.val k (found s) = updEng d e.val fun g => { g with active := none, ended := some ⟨u, 0⟩ } := by
    obtain ⟨hissue, hfetch⟩ := hat
    have hissue' : issuing (found s) e.val = some t := hissue
    have hfetch' : fetch (found s) t.ctx.pc.toNat = w := hfetch
    have hactive : (engH (eccCount (busyFor (found s) e.val 1) e.val w k) e.val).active = some u := hu'
    simp only [runDone, hissue', hfetch', hop, hk, hu, hactive]
    exact ⟨_, rfl⟩
  obtain ⟨d, hd⟩ := hdone
  have hengine : engH (irqSettle s.die (runDone edgeLaw e.val k (found s))) e.val =
      { engH d e.val with active := none, ended := some ⟨u, 0⟩ } := by
    rw [engH, irqSettle_eng, hd, ← engH, engH_updEng_same _ _ _ e.isLt]
  refine ends_of_onDie (f := runDone edgeLaw e.val k) rfl ⟨?_, ⟨u, 0⟩, ?_, rfl, hidx, harg⟩
  · exact congrArg Engine.active hengine
  · exact congrArg Engine.ended hengine

/-- The update port writes the head of its queue (R59). -/
def yWritten (d : Die) (h : YEnt) (rest : List YEnt) : Die :=
  { d with mem := { d.mem with ymem := sput 0 d.mem.ymem h.addr h.word, yq := rest,
                               yqAt := some (d.tb.cyc, h.addr, yRead d h.addr) } }

/-- One cycle of the update port (R59). -/
def yPort (d : Die) : Die :=
  match d.mem.yq with
  | [] => d
  | h :: rest => if h.cyc < d.tb.cyc && d.mem.yqAt.map (·.1) != some d.tb.cyc then yWritten d h rest else d

theorem exec_yPort (s : State) : exec .yUpdatePortWrite s = onDie yPort s := rfl

theorem yPort_of_due {d : Die} {h : YEnt} {rest : List YEnt} (hq : d.mem.yq = h :: rest) (hcyc : h.cyc < d.tb.cyc)
    (hfree : d.mem.yqAt.map (·.1) ≠ some d.tb.cyc) : yPort d = yWritten d h rest := by
  have hdue : (decide (h.cyc < d.tb.cyc) && d.mem.yqAt.map (·.1) != some d.tb.cyc) = true := by
    rw [Bool.and_eq_true, decide_eq_true_eq, bne_iff_ne]
    exact ⟨hcyc, hfree⟩
  simp only [yPort, hq, hdue, if_true]

theorem yPort_ends {s : State} {h : YEnt} {rest : List YEnt} (hq : s.die.mem.yq = h :: rest) (hcyc : h.cyc < s.die.tb.cyc)
    (hfree : s.die.mem.yqAt.map (·.1) ≠ some s.die.tb.cyc) : ends .yUpdatePortWrite s fun s' =>
      s'.die.mem.yq = rest ∧ yRead s'.die h.addr = h.word ∧ (∀ a, a ≠ h.addr → yRead s'.die a = yRead s.die a) ∧
      s'.die.mem.xram = s.die.mem.xram ∧ s'.die.mem.imem = s.die.mem.imem ∧ keepsBut [.mem] s s' := by
  refine ends_of_onDie (exec_yPort s) ?_
  rw [yPort_of_due (d := found s) hq hcyc hfree]
  have hkeep : Keeps [.mem] (found s) (yWritten (found s) h rest) := (keeps_mem _ _ (by simp) _).2 (.refl _ _)
  have hmem : (irqSettle s.die (yWritten (found s) h rest)).mem = (yWritten (found s) h rest).mem := irqSettle_mem _ _
  refine ⟨by rw [hmem]; rfl, ?_, fun a ha => ?_, by rw [hmem]; rfl, by rw [hmem]; rfl, keepsBut_command hkeep⟩
  · rw [yRead, hmem]
    exact sget_sput_same _ _ _ _
  · rw [yRead, hmem]
    exact sget_sput_ne _ _ _ _ ha

/-- Settles O8: each clause is the lemma of its instruction. -/
theorem memoryAndPortResults : Obligations.MemoryAndPortResults := by
  refine ⟨fun s e k t w hk hat => ⟨fun hop hu hmode off hwin => lda_clause hk hat hop hu hmode hwin,
    fun hop hu off hwin => sta_clause hk hat hop hu hwin,
    fun hop hu haddr => ⟨yst_room hk hat hop hu haddr, yst_full hk hat hop hu haddr,
      fun a y h u hfull hq hnew heng hcyc hlt hback hfree hu' =>
        yst_yields hk hat hop hu haddr hfull hq hnew heng hcyc hlt hback hfree hu'⟩,
    fun hop hu => ⟨post_room hk hat hop hu, post_full hk hat hop hu⟩⟩,
    fun s e k t w hk hat hop hu => done_ends hk hat hop hu, fun s h rest hq hcyc hfree => yPort_ends hq hcyc hfree⟩

end Sys2Proof.Machine
end

section
/-! PROOFS. The Kennel (R151 to R163): releases, the ports, placement and engine ends. -/

namespace Sys2Proof.Machine

open Sys2Proof

/-! What a trace entry leaves of the Kennel (R165). -/

/-- The Kennel but for its trace, what is blocked, and its ready tasks. -/
def Kennel.fixed (k : Kennel) : Sparse (BitVec 128) × List Nat × Sparse (List QEnt) × Nat := (k.descs, k.edgeList, k.queues, k.rr)

theorem knl_ppEvt (d : Die) (event engine level idx src detail : Nat) : ∃ tr l,
    (ppEvt d event engine level idx src detail).knl = { d.knl with trace := tr, traceLost := l } := by
  unfold ppEvt
  extract_lets always
  split
  · exact ⟨d.knl.trace, d.knl.traceLost, rfl⟩
  · split
    · exact ⟨d.knl.trace, d.knl.traceLost, rfl⟩
    · split
      · exact ⟨d.knl.trace, true, rfl⟩
      · exact ⟨_, _, rfl⟩

theorem fixed_ppEvt (d : Die) (event engine level idx src detail : Nat) :
    (ppEvt d event engine level idx src detail).knl.fixed = d.knl.fixed := by
  obtain ⟨tr, l, h⟩ := knl_ppEvt d event engine level idx src detail
  rw [h]
  rfl

theorem ready_ppEvt (d : Die) (event engine level idx src detail : Nat) :
    (ppEvt d event engine level idx src detail).knl.ready = d.knl.ready := by
  obtain ⟨tr, l, h⟩ := knl_ppEvt d event engine level idx src detail
  rw [h]

theorem store_ppEvt (d : Die) (event engine level idx src detail : Nat) :
    (ppEvt d event engine level idx src detail).knl.store = d.knl.store := by
  obtain ⟨tr, l, h⟩ := knl_ppEvt d event engine level idx src detail
  rw [h]

theorem eng_ppEvt (d : Die) (event engine level idx src detail : Nat) :
    (ppEvt d event engine level idx src detail).eng = d.eng :=
  ((keeps_ppEvt (ps := [.regs, .knl]) d d (by simp) (by simp) event engine level idx src detail).2 (.refl _ d)) .eng (by simp)

theorem ready_blockedNoted (d : Die) (j : Nat) : (blockedNoted d j).knl.ready = d.knl.ready := by
  unfold blockedNoted
  extract_lets src
  split
  · split
    · exact ready_ppEvt ..
    · rfl
  · rfl

theorem fixed_blockedNoted (d : Die) (j : Nat) : (blockedNoted d j).knl.fixed = d.knl.fixed := by
  unfold blockedNoted
  extract_lets src
  split
  · split
    · exact fixed_ppEvt ..
    · rfl
  · rfl

theorem ready_noteBlocked (d : Die) : (noteBlocked d).knl.ready = d.knl.ready := by
  rw [noteBlocked_eq]
  generalize upto 18 = l
  exact foldl_keeps (fun d : Die => d.knl.ready) ready_blockedNoted l d

theorem fixed_noteBlocked (d : Die) : (noteBlocked d).knl.fixed = d.knl.fixed := by
  rw [noteBlocked_eq]
  generalize upto 18 = l
  exact foldl_keeps (fun d : Die => d.knl.fixed) fixed_blockedNoted l d

theorem readyList_congr {c d : Die} (h : d.knl.ready = c.knl.ready) (l : Nat) : readyList d l = readyList c l := by
  rw [readyList, h, readyList]

theorem readyList_setReady_same (d : Die) (l : Nat) (ts : List Task) : readyList (setReady d l ts) l = ts :=
  sget_sput_same [] d.knl.ready l ts

theorem readyList_setReady_ne (d : Die) {l m : Nat} (ts : List Task) (h : m ≠ l) : readyList (setReady d l ts) m = readyList d m :=
  sget_sput_ne [] [] d.knl.ready ts h

/-- The record of an axis lies in the axis-state RAM (R124). -/
theorem inAxis_record {a n : Nat} (ha : a < 128) (hn : n < 0x400) : inAxis (0x20000 + n + a * 0x400) = true := by
  rw [inAxis, Bool.and_eq_true, decide_eq_true_eq, decide_eq_true_eq]
  omega

/-! Releases (R153, R157). -/

section Release

variable (d : Die) (idx arg param src : Nat)

/-- The task that a release makes. -/
def newTask : Task :=
  { idx := idx, level := descLevel d idx, arg := arg, beat := d.tb.k, src := src, busy := 0, seq := d.knl.seq, parked := false,
    ctx := startCtx d idx arg param, inp := stageInputs d idx arg }

/-- The new task at the end of its ready list. -/
def listed : Die :=
  setReady (updKnl d fun k => { k with seq := k.seq + 1 }) (descLevel d idx)
    (readyList d (descLevel d idx) ++ [newTask d idx arg param src])

/-- The store counts a task of a descriptor with several. -/
def stored1 (multi : Bool) (d : Die) : Die :=
  if multi then
    maxFld (updKnl d fun k => { k with store := k.store + 1 }) Reg.KNL_INST_PEAK (d.knl.store + 1)
  else d

/-- A release of a FIXED task is noted in its beat. -/
def fixedNoted (b : Bool) (d : Die) : Die := if b then updTb d fun t => { t with fixedRel := true } else d

theorem knl_fixedNoted (b : Bool) : (fixedNoted b d).knl = d.knl := by
  unfold fixedNoted
  split <;> rfl

theorem knl_stored1 (multi : Bool) : (stored1 multi d).knl = { d.knl with store := if multi then d.knl.store + 1 else d.knl.store } := by
  unfold stored1
  split
  · exact knl_maxFld _ _ _
  · rfl

/-- The release of a new task, before its trace entry. -/
def releasedNew : Die :=
  let d' := stored1 (descMulti d idx) (listed d idx arg param src)
  fixedNoted (decide (descLevel d idx < 4) && descClass d' idx == 0) d'

theorem release_of_new (hvalid : descValid d idx = true) (hnew : descMulti d idx = true ∨ hasInstance d idx = false) :
    release d idx arg param src = ppEvt (releasedNew d idx arg param src) 0x01 0 (descLevel d idx) idx src arg := by
  have hno : ¬ (!descMulti d idx && hasInstance d idx) = true := by
    obtain h | h := hnew <;> simp [h]
  rw [release, if_neg (by simp [hvalid])]
  extract_lets lvl
  rw [if_neg hno]
  rfl

/-- What a new release leaves of the Kennel. -/
theorem release_new_knl (hvalid : descValid d idx = true) (hnew : descMulti d idx = true ∨ hasInstance d idx = false) :
    ∃ tr l, (release d idx arg param src).knl = { (listed d idx arg param src).knl with
      store := if descMulti d idx then d.knl.store + 1 else d.knl.store, trace := tr, traceLost := l } := by
  obtain ⟨tr, l, hpp⟩ := knl_ppEvt (releasedNew d idx arg param src) 0x01 0 (descLevel d idx) idx src arg
  refine ⟨tr, l, ?_⟩
  rw [release_of_new d idx arg param src hvalid hnew, hpp, releasedNew, knl_fixedNoted, knl_stored1]
  rfl

theorem release_of_invalid (h : descValid d idx = false) : release d idx arg param src = d := by
  rw [release, if_pos (by simp [h])]

/-- A release that is merged (R157). -/
def merged : Die := ppEvt (incReg d Reg.KNL_CNT_MERGE) 0x02 0 (descLevel d idx) idx src arg

theorem release_of_merge (hvalid : descValid d idx = true) (hone : descMulti d idx = false) (hhas : hasInstance d idx = true) :
    Leaves (inAxis · = true) (merged d idx arg src) (release d idx arg param src) ∧
      Keeps [.regs, .held, .axLog] (merged d idx arg src) (release d idx arg param src) := by
  rw [release, if_neg (by simp [hvalid])]
  extract_lets lvl d'
  rw [if_pos (by simp [hone, hhas])]
  show Leaves (inAxis · = true) d' _ ∧ Keeps [.regs, .held, .axLog] d' _
  split
  · exact ⟨.refl _ _, .refl _ _⟩
  · rename_i a ha
    have hlt := descAxis_lt ha
    have hstat : inAxis (Reg.AX_STAT_PSKIP a).off = true := inAxis_record hlt (n := 4) (by omega)
    have hcnt : inAxis (Reg.AX_CNT_PSKIP a) = true := inAxis_record hlt (n := 0x38C) (by omega)
    split
    · refine ⟨Leaves.trans ?_ (leaves_axSettle 6 d'.tb.cyc d' _), Keeps.trans ?_ (keeps_axSettle 6 d'.tb.cyc d' _)⟩
      · exact (leaves_axCount (p := (inAxis · = true)) _ _ hcnt).2 ((leaves_axEvent (p := (inAxis · = true)) _ _ hstat).2 (.refl _ d'))
      · exact (keeps_axCount _ _ (by simp) (by simp) _).2 ((keeps_axEvent _ _ (by simp) (by simp) _).2 (.refl _ d'))
    · exact ⟨.refl _ _, .refl _ _⟩

theorem release_merge (hvalid : descValid d idx = true) (hone : descMulti d idx = false) (hhas : hasInstance d idx = true) :
    (release d idx arg param src).knl.ready = d.knl.ready ∧
      getReg (release d idx arg param src) Reg.KNL_CNT_MERGE = BitVec.ofNat 32 (satInc 32 (getReg d Reg.KNL_CNT_MERGE).toNat) := by
  obtain ⟨hregs, hparts⟩ := release_of_merge d idx arg param src hvalid hone hhas
  have hpp : Leaves (· ≠ Reg.KNL_CNT_MERGE) (incReg d Reg.KNL_CNT_MERGE) (merged d idx arg src) :=
    (leaves_ppEvt (p := (· ≠ Reg.KNL_CNT_MERGE)) _ _ (by decide) ..).2 (.refl _ _)
  refine ⟨?_, ?_⟩
  · rw [hparts .knl (by simp), merged, ready_ppEvt]
    rfl
  · rw [hregs _ (by decide), hpp _ (by simp), getReg_incReg_same]

theorem release_new (hvalid : descValid d idx = true) (hnew : descMulti d idx = true ∨ hasInstance d idx = false) :
    readyList (release d idx arg param src) (descLevel d idx) =
        readyList d (descLevel d idx) ++ [newTask d idx arg param src] ∧
      (∀ l, l ≠ descLevel d idx → readyList (release d idx arg param src) l = readyList d l) ∧
      (descMulti d idx = true → (release d idx arg param src).knl.store = d.knl.store + 1) := by
  obtain ⟨tr, l, hknl⟩ := release_new_knl d idx arg param src hvalid hnew
  have hready (m : Nat) : readyList (release d idx arg param src) m = readyList (listed d idx arg param src) m :=
    readyList_congr (by rw [hknl]) m
  refine ⟨?_, fun m hm => ?_, fun hmulti => ?_⟩
  · rw [hready, listed, readyList_setReady_same]
  · rw [hready, listed, readyList_setReady_ne _ _ hm]
    rfl
  · rw [hknl, hmulti]
    rfl

theorem newTask_ctx : (newTask d idx arg param src).ctx.pc = BitVec.ofNat 14 (descEntry d idx) ∧
    dReg (newTask d idx arg param src).ctx 0 = BitVec.ofNat 48 (arg % 2 ^ 32) ∧
    (descClass d idx = 5 → dReg (newTask d idx arg param src).ctx 1 = BitVec.ofNat 48 (param % 2 ^ 32)) := by
  simp only [newTask, startCtx]
  refine ⟨?_, ?_, fun h => ?_⟩
  · split <;> rfl
  · split
    · rw [dReg_putD_ne _ _ (by omega), dReg_putD_same _ _ _ (by omega)]
    · exact dReg_putD_same _ _ _ (by omega)
  · rw [if_pos h, dReg_putD_same _ _ _ (by omega)]

theorem newTask_inp {a : Nat} (hcls : descClass d idx = 1) (ha : descAxis d idx = some a) : (newTask d idx arg param src).inp =
    [effI64 d (Reg.AX_PFB a), effI64 d (Reg.AX_PTGT a), effI64 d (Reg.AX_VTGT a), effI64 d (Reg.AX_ATGT a),
      b2n (computing d a)] := by
  simp only [newTask, stageInputs, ha, if_pos hcls]

end Release

/-! Placement and engine ends (R160, R161). -/

/-- The Kennel looks at the die alone, but for the messages of the command before. -/
theorem placement_found (s : State) : placement (found s) = placement s.die := rfl

theorem kennelOn_found (s : State) : kennelOn (found s) = kennelOn s.die := rfl

theorem started_spec (d : Die) (e : Nat) (t : Task) : { started d e t with inp := t.inp } = t ∧
    ((descAxis d t.idx = none ∨ descClass d t.idx ≠ 0) → started d e t = t) := by
  unfold started
  split
  · rename_i a ha
    split
    · rename_i hcls
      exact ⟨rfl, fun h => by simp_all⟩
    · exact ⟨rfl, fun _ => rfl⟩
  · exact ⟨rfl, fun _ => rfl⟩

theorem engH_of_eng {c d : Die} (h : d.eng = c.eng) (j : Nat) : engH d j = engH c j := by rw [engH, h, engH]

theorem eng_put64 (d : Die) (o x : Nat) : (put64 d o x).eng = d.eng := rfl

section Place

variable (d : Die) (t : Task) (e : Nat)

/-- The head of a ready list taken, and counted. -/
def taken (cnt : Nat) : Die := incReg (dropHead d t.level) cnt

theorem eng_taken (cnt : Nat) : (taken d t cnt).eng = d.eng := rfl

theorem ready_taken (cnt : Nat) : readyList (taken d t cnt) t.level = (readyList d t.level).tail :=
  readyList_setReady_same d t.level _

theorem keeps_taken (cnt : Nat) : Keeps [.regs, .knl] d (taken d t cnt) :=
  (keeps_incReg _ _ (by simp) _).2 ((keeps_updKnl _ _ (by simp) _).2 (.refl _ d))

theorem descs_taken (cnt : Nat) : (taken d t cnt).knl.descs = d.knl.descs := rfl

/-- The engine of a dispatch or pre-emption runs the task as it starts. -/
theorem descAxis_congr {c d : Die} (h : d.knl.descs = c.knl.descs) (i : Nat) : descAxis d i = descAxis c i := by
  rw [descAxis, descWord, h, descAxis, descWord]

theorem descClass_congr {c d : Die} (h : d.knl.descs = c.knl.descs) (i : Nat) : descClass d i = descClass c i := by
  rw [descClass, descWord, h, descClass, descWord]

/-- What an engine runs of a task placed on it: the task, its inputs those of its start. -/
def Runs (d : Die) (g : Engine) (u : Task) : Prop :=
  ∃ v, g.active = some v ∧ { v with inp := u.inp } = u ∧ ((descAxis d u.idx = none ∨ descClass d u.idx ≠ 0) → v = u)

theorem runs_started {c : Die} (h : c.knl.descs = d.knl.descs) {g : Engine} (hg : g.active = some (started c e t)) : Runs d g t := by
  obtain ⟨hinp, hsame⟩ := started_spec c e t
  rw [descAxis_congr h, descClass_congr h] at hsame
  exact ⟨_, hg, hinp, hsame⟩

/-- The engine after a dispatch. -/
def dispatched : Die :=
  holdEng (updEng (taken d t Reg.KNL_CNT_DISPATCH) e fun g =>
    { g with active := some (started (taken d t Reg.KNL_CNT_DISPATCH) e t) }) e 2

theorem place_dispatch : place d (.dispatch t e) = ppEvt (dispatched d t e) 0x03 e t.level t.idx t.src 0 := rfl

theorem engH_dispatched (he : e < 16) :
    (engH (dispatched d t e) e).active = some (started (taken d t Reg.KNL_CNT_DISPATCH) e t) ∧
      (engH (dispatched d t e) e).other = (engH d e).other := by
  rw [dispatched, holdEng, engH_updEng_same _ _ _ he, engH_updEng_same _ _ _ he, engH_of_eng (eng_taken d t _)]
  exact ⟨rfl, rfl⟩

theorem engH_dispatched_ne {j : Nat} (hj : j ≠ e) : engH (dispatched d t e) j = engH d j := by
  rw [dispatched, holdEng, engH_updEng_ne _ _ hj, engH_updEng_ne _ _ hj, engH_of_eng (eng_taken d t _)]

theorem keeps_dispatched : Keeps [.regs, .eng, .knl] d (dispatched d t e) :=
  (keeps_updEng _ _ (by simp) _ _).2 ((keeps_updEng _ _ (by simp) _ _).2 ((keeps_taken d t _).mono (by simp)))

theorem ready_dispatched : readyList (dispatched d t e) t.level = (readyList d t.level).tail :=
  ready_taken d t Reg.KNL_CNT_DISPATCH

theorem count_dispatched : getReg (dispatched d t e) Reg.KNL_CNT_DISPATCH =
    BitVec.ofNat 32 (satInc 32 (getReg d Reg.KNL_CNT_DISPATCH).toNat) := by
  show getReg (incReg (dropHead d t.level) Reg.KNL_CNT_DISPATCH) Reg.KNL_CNT_DISPATCH = _
  rw [getReg_incReg_same]
  rfl

/-! A pre-emption. -/

/-- The registers and the ready list after a pre-emption is counted. -/
def preTaken : Die := incReg (incReg (dropHead d t.level) Reg.KNL_CNT_PREEMPT) (Reg.LE_PREEMPTCNT e)

theorem eng_preTaken : (preTaken d t e).eng = d.eng := rfl

theorem keeps_preTaken : Keeps [.regs, .knl] d (preTaken d t e) :=
  (keeps_incReg _ _ (by simp) _).2 ((keeps_taken d t _))

/-- The engine after a pre-emption with a swap. -/
def swapped : Die :=
  swapBusy (holdEng (updEng (preTaken d t e) e fun g =>
    { g with bank := !g.bank, active := some (started (preTaken d t e) e t), other := (engH d e).active, pre := some d.tb.cyc })
    e 2) e 6

/-- The engine after a pre-emption that found the bank freed in its cycle: without a swap. -/
def unswapped : Die :=
  let d' := undoSwap (preTaken d t e) e d.tb.cyc
  holdEng (updEng d' e fun g => { g with active := some (started d' e t), other := (engH d e).active }) e 2

/-- The engine after a pre-emption. -/
def preempted : Die := if (engH d e).freed = some d.tb.cyc then unswapped d t e else swapped d t e

theorem place_preempt : place d (.preempt t e) =
    ppEvt (preempted d t e) 0x04 e t.level t.idx t.src (((engH d e).active.map (·.idx)).getD 0) := by
  have hsame : engH (preTaken d t e) e = engH d e := engH_of_eng (eng_preTaken d t e) e
  by_cases h : (engH d e).freed = some d.tb.cyc
  · have h' : (engH (preTaken d t e) e).freed = some (preTaken d t e).tb.cyc := by rw [hsame]; exact h
    rw [preempted, if_pos h]
    show (if (engH (preTaken d t e) e).freed = some (preTaken d t e).tb.cyc then _ else _) = _
    rw [if_pos h']
    rfl
  · have h' : ¬ (engH (preTaken d t e) e).freed = some (preTaken d t e).tb.cyc := by rw [hsame]; exact h
    rw [preempted, if_neg h]
    show (if (engH (preTaken d t e) e).freed = some (preTaken d t e).tb.cyc then _ else _) = _
    rw [if_neg h']
    rfl

/-- What a pre-emption leaves on its engine: the task placed, the victim in the other bank, and the cycles of the swap. -/
def PreemptedEngine (g g' : Engine) (busy : Nat) : Prop := g'.other = g.active ∧ g'.bank = !g.bank ∧ g'.beatBusy = busy

theorem engH_swapped (he : e < 16) : Runs d (engH (swapped d t e) e) t ∧
    PreemptedEngine (engH d e) (engH (swapped d t e) e) ((engH d e).beatBusy + 6) := by
  rw [swapped, swapBusy]
  rw [engH_updEng_same _ _ _ he, engH_of_eng (eng_put64 _ _ _), holdEng, engH_updEng_same _ _ _ he, engH_updEng_same _ _ _ he,
    engH_of_eng (eng_preTaken d t e)]
  exact ⟨runs_started d t e (c := preTaken d t e) rfl rfl, rfl, rfl, rfl⟩

theorem engH_unswapped (he : e < 16) : Runs d (engH (unswapped d t e) e) t ∧
    PreemptedEngine (engH d e) (engH (unswapped d t e) e) ((engH d e).beatBusy - 6) := by
  rw [unswapped]
  rw [holdEng, engH_updEng_same _ _ _ he, engH_updEng_same _ _ _ he]
  have hundo : engH (undoSwap (preTaken d t e) e d.tb.cyc) e = { engH d e with
      bank := !(engH d e).bank, beatBusy := (engH d e).beatBusy - 6, free := (engH d e).free - 6
      spans := dropSwap d.tb.cyc (engH d e).spans, pre := none, freed := none } := by
    rw [undoSwap]
    dsimp only
    rw [engH_updEng_same _ _ _ he, engH_of_eng (eng_put64 _ _ _), engH_of_eng (eng_preTaken d t e)]
  rw [hundo]
  exact ⟨runs_started d t e (c := undoSwap (preTaken d t e) e d.tb.cyc) rfl rfl, rfl, rfl, rfl⟩

theorem engH_preempted_ne {j : Nat} (hj : j ≠ e) : engH (preempted d t e) j = engH d j := by
  unfold preempted
  split
  · rw [unswapped]
    rw [holdEng, engH_updEng_ne _ _ hj, engH_updEng_ne _ _ hj, undoSwap]
    rw [engH_updEng_ne _ _ hj, engH_of_eng (eng_put64 _ _ _), engH_of_eng (eng_preTaken d t e)]
  · rw [swapped, swapBusy]
    rw [engH_updEng_ne _ _ hj, engH_of_eng (eng_put64 _ _ _), holdEng, engH_updEng_ne _ _ hj, engH_updEng_ne _ _ hj,
      engH_of_eng (eng_preTaken d t e)]

theorem keeps_swapBusy (n : Nat) : Keeps [.regs, .eng] d (swapBusy d e n) :=
  (keeps_updEng _ _ (by simp) _ _).2 ((keeps_put64 _ _ (by simp) _ _).2 (.refl _ d))

theorem keeps_undoSwap (n : Nat) : Keeps [.regs, .eng] d (undoSwap d e n) :=
  (keeps_updEng _ _ (by simp) _ _).2 ((keeps_put64 _ _ (by simp) _ _).2 (.refl _ d))

/-- A pre-emption changes registers and the engine, beside the ready list. -/
theorem keeps_preempted : Keeps [.regs, .eng] (preTaken d t e) (preempted d t e) := by
  unfold preempted
  split
  · exact (keeps_updEng _ _ (by simp) _ _).2 ((keeps_updEng _ _ (by simp) _ _).2 (keeps_undoSwap _ e _))
  · refine Keeps.trans (d := holdEng (updEng (preTaken d t e) e _) e 2) ?_ (keeps_swapBusy _ e 6)
    exact (keeps_updEng _ _ (by simp) _ _).2 ((keeps_updEng _ _ (by simp) _ _).2 (.refl _ _))

theorem leaves_swapBusy (n : Nat) : Leaves (fun o => o = Reg.LE_CYC e ∨ o = Reg.LE_CYC e + 4) d (swapBusy d e n) :=
  (leaves_updEng _ _ _ _).2 ((leaves_put64 (p := fun o => o = Reg.LE_CYC e ∨ o = Reg.LE_CYC e + 4) _ _ (.inl rfl) (.inr rfl) _).2
    (.refl _ d))

theorem leaves_undoSwap (n : Nat) : Leaves (fun o => o = Reg.LE_CYC e ∨ o = Reg.LE_CYC e + 4) d (undoSwap d e n) :=
  (leaves_updEng _ _ _ _).2 ((leaves_put64 (p := fun o => o = Reg.LE_CYC e ∨ o = Reg.LE_CYC e + 4) _ _ (.inl rfl) (.inr rfl) _).2
    (.refl _ d))

/-- It counts busy cycles in LE_n_CYC alone. -/
theorem leaves_preempted : Leaves (fun o => o = Reg.LE_CYC e ∨ o = Reg.LE_CYC e + 4) (preTaken d t e) (preempted d t e) := by
  unfold preempted
  split
  · exact (leaves_updEng _ _ _ _).2 ((leaves_updEng _ _ _ _).2 (leaves_undoSwap _ e _))
  · refine Leaves.trans (d := holdEng (updEng (preTaken d t e) e _) e 2) ?_ (leaves_swapBusy _ e 6)
    exact (leaves_updEng _ _ _ _).2 ((leaves_updEng _ _ _ _).2 (.refl _ _))

end Place

/-! The commands of placement. -/

/-- DISPATCH (R160). -/
def dispatchStep (d : Die) : Die :=
  if !kennelOn d then d else match placement d with
    | some (.dispatch t e) => place d (.dispatch t e)
    | some (.unpark t e) => place d (.unpark t e)
    | _ => d

theorem exec_dispatch (s : State) : exec .dispatch s = onDie dispatchStep s := rfl

/-- PREEMPT (R160). -/
def preemptStep (d : Die) : Die :=
  if !kennelOn d then d else match placement d with
    | some (.preempt t e) => place d (.preempt t e)
    | some (.unparkPreempt t e) => place d (.unparkPreempt t e)
    | _ => d

theorem exec_preempt (s : State) : exec .preempt s = onDie preemptStep s := rfl

theorem exec_engineEnd (s : State) : exec .engineEnd s = onDie processEnd s := rfl

section Commands

variable {s : State} {u : Task} {e : Nat}

theorem readyList_irqSettle (c d : Die) (l : Nat) : readyList (irqSettle c d) l = readyList d l := by
  rw [readyList, irqSettle_knl, readyList]

theorem engH_irqSettle (c d : Die) (j : Nat) : engH (irqSettle c d) j = engH d j := by rw [engH, irqSettle_eng, engH]

theorem readyList_ppEvt (d : Die) (event engine level idx src detail l : Nat) :
    readyList (ppEvt d event engine level idx src detail) l = readyList d l := readyList_congr (ready_ppEvt ..) l

theorem engH_ppEvt (d : Die) (event engine level idx src detail j : Nat) :
    engH (ppEvt d event engine level idx src detail) j = engH d j := engH_of_eng (eng_ppEvt ..) j

theorem leaves_ppEvt_self (d : Die) (event engine level idx src detail : Nat) :
    Leaves (· = Reg.KNL_PP_LOST) d (ppEvt d event engine level idx src detail) := 
  (leaves_ppEvt (p := (· = Reg.KNL_PP_LOST)) d d rfl ..).2 (.refl _ d)

theorem dispatch_clause (he : e < 16) (hon : kennelOn s.die = true) (hplace : placement s.die = some (.dispatch u e)) :
    ends .dispatch s fun t => Runs s.die (engH t.die e) u ∧ (engH t.die e).other = (engH s.die e).other ∧
      readyList t.die u.level = (readyList s.die u.level).tail ∧
      getReg t.die Reg.KNL_CNT_DISPATCH = BitVec.ofNat 32 (satInc 32 (getReg s.die Reg.KNL_CNT_DISPATCH).toNat) ∧
      (∀ j, j ≠ e → engH t.die j = engH s.die j) ∧ keepsBut [.regs, .eng, .knl] s t := by
  have hstep : dispatchStep (found s) = ppEvt (dispatched (found s) u e) 0x03 e u.level u.idx u.src 0 := by
    rw [dispatchStep, placement_found, kennelOn_found, hplace, hon]
    exact place_dispatch (found s) u e
  obtain ⟨hactive, hother⟩ := engH_dispatched (found s) u e he
  refine ends_of_onDie (exec_dispatch s) ?_
  rw [hstep]
  refine ⟨?_, ?_, ?_, ?_, fun j hj => ?_, keepsBut_command ?_⟩
  · rw [engH_irqSettle, engH_ppEvt]
    exact runs_started s.die u e (c := taken (found s) u Reg.KNL_CNT_DISPATCH) rfl hactive
  · rw [engH_irqSettle, engH_ppEvt]
    exact hother
  · rw [readyList_irqSettle, readyList_ppEvt]
    exact ready_dispatched (found s) u e
  · rw [getReg_irqSettle, leaves_ppEvt_self _ _ _ _ _ _ _ _ (by decide)]
    exact count_dispatched (found s) u e
  · rw [engH_irqSettle, engH_ppEvt]
    exact engH_dispatched_ne (found s) u e hj
  · exact (keeps_ppEvt _ _ (by simp) (by simp) ..).2 (keeps_dispatched (found s) u e)

theorem preemptStep_of_placement (hon : kennelOn s.die = true) (hplace : placement s.die = some (.preempt u e)) :
    preemptStep (found s) = ppEvt (preempted (found s) u e) 0x04 e u.level u.idx u.src
      (((engH s.die e).active.map (·.idx)).getD 0) := by
  rw [preemptStep, placement_found, kennelOn_found, hplace, hon]
  exact place_preempt (found s) u e

theorem getReg_preempted_count (d : Die) (u : Task) (e : Nat) : getReg (preempted d u e) (Reg.LE_PREEMPTCNT e) =
    BitVec.ofNat 32 (satInc 32 (getReg d (Reg.LE_PREEMPTCNT e)).toNat) := by
  have hcyc : ¬ (Reg.LE_PREEMPTCNT e = Reg.LE_CYC e ∨ Reg.LE_PREEMPTCNT e = Reg.LE_CYC e + 4) := by
    simp only [Reg.LE_PREEMPTCNT, Reg.LE_CYC]
    omega
  have hne : Reg.LE_PREEMPTCNT e ≠ Reg.KNL_CNT_PREEMPT := by
    simp only [Reg.LE_PREEMPTCNT, Reg.KNL_CNT_PREEMPT]
    omega
  rw [leaves_preempted d u e _ hcyc, preTaken, getReg_incReg_same, getReg_incReg_ne _ _ hne]
  rfl

theorem engH_preempted (d : Die) (u : Task) (he : e < 16) : Runs d (engH (preempted d u e) e) u ∧
    PreemptedEngine (engH d e) (engH (preempted d u e) e)
      (if (engH d e).freed = some d.tb.cyc then (engH d e).beatBusy - 6 else (engH d e).beatBusy + 6) := by
  unfold preempted
  split
  · exact engH_unswapped d u e he
  · exact engH_swapped d u e he

theorem preempt_clause (he : e < 16) (hon : kennelOn s.die = true) (hplace : placement s.die = some (.preempt u e)) :
    ends .preempt s fun t => Runs s.die (engH t.die e) u ∧ (engH t.die e).other = (engH s.die e).active ∧
      (engH t.die e).bank = !(engH s.die e).bank ∧ readyList t.die u.level = (readyList s.die u.level).tail ∧
      getReg t.die (Reg.LE_PREEMPTCNT e) = BitVec.ofNat 32 (satInc 32 (getReg s.die (Reg.LE_PREEMPTCNT e)).toNat) ∧
      (engH t.die e).beatBusy = (if (engH s.die e).freed = some s.die.tb.cyc then (engH s.die e).beatBusy - 6
        else (engH s.die e).beatBusy + 6) ∧
      (∀ j, j ≠ e → engH t.die j = engH s.die j) ∧ keepsBut [.regs, .eng, .knl] s t := by
  obtain ⟨hruns, hother, hbank, hbusy⟩ := engH_preempted (found s) u he
  have hready : readyList (preempted (found s) u e) u.level = (readyList s.die u.level).tail :=
    (readyList_congr (congrArg Kennel.ready (keeps_preempted (found s) u e .knl (by simp))) _).trans
      (ready_taken (found s) u Reg.KNL_CNT_PREEMPT)
  have hkeep : Keeps [.regs, .eng, .knl] (found s) (preempted (found s) u e) :=
    ((keeps_preTaken (found s) u e).mono (by simp)).trans ((keeps_preempted (found s) u e).mono (by simp))
  have hlost : ¬ Reg.LE_PREEMPTCNT e = Reg.KNL_PP_LOST := by
    simp only [Reg.LE_PREEMPTCNT, Reg.KNL_PP_LOST]
    omega
  refine ends_of_onDie (exec_preempt s) ?_
  rw [preemptStep_of_placement hon hplace]
  refine ⟨?_, ?_, ?_, ?_, ?_, ?_, fun j hj => ?_, keepsBut_command ?_⟩
  · rw [engH_irqSettle, engH_ppEvt]
    exact hruns
  · rw [engH_irqSettle, engH_ppEvt]
    exact hother
  · rw [engH_irqSettle, engH_ppEvt]
    exact hbank
  · rw [readyList_irqSettle, readyList_ppEvt]
    exact hready
  · rw [getReg_irqSettle, leaves_ppEvt_self _ _ _ _ _ _ _ _ hlost]
    exact getReg_preempted_count (found s) u e
  · rw [engH_irqSettle, engH_ppEvt]
    exact hbusy
  · rw [engH_irqSettle, engH_ppEvt]
    exact engH_preempted_ne (found s) u e hj
  · exact (keeps_ppEvt _ _ (by simp) (by simp) ..).2 hkeep

/-! Engine ends (R161). -/

/-- The end of an engine's task taken, with its trace entry. -/
def endTaken (d : Die) (e : Nat) (x : EngEnd) : Die :=
  let d' := updEng d e fun g => { g with ended := none }
  if x.cause = 0 then ppEvt d' 0x06 e x.task.level x.task.idx x.task.src x.task.busy
  else ppEvt d' 0x07 e x.task.level x.task.idx x.task.src x.cause

theorem eng_endTaken (d : Die) (e : Nat) (x : EngEnd) :
    (endTaken d e x).eng = (updEng d e fun g => { g with ended := none }).eng := by
  unfold endTaken
  dsimp only
  split <;> exact eng_ppEvt ..

theorem keeps_endTaken (d : Die) (e : Nat) (x : EngEnd) : Keeps [.regs, .eng, .knl] d (endTaken d e x) := by
  have heng : Keeps [.regs, .eng, .knl] d (updEng d e fun g => { g with ended := none }) :=
    (keeps_updEng _ _ (by simp) _ _).2 (.refl _ d)
  unfold endTaken
  dsimp only
  split <;> exact (keeps_ppEvt _ _ (by simp) (by simp) ..).2 heng

theorem suspended_endTaken (d : Die) (e : Nat) (x : EngEnd) (l : Nat) : suspended (endTaken d e x) l = suspended d l := by
  have hreg : getReg (endTaken d e x) Reg.KNL_STAT = getReg d Reg.KNL_STAT := by
    unfold endTaken
    dsimp only
    split <;> exact leaves_ppEvt_self _ _ _ _ _ _ _ _ (by decide)
  exact congrArg (fun n => bitOf n l) (fld_congr (f := Reg.KNL_STAT_SUSP) hreg)

theorem keeps_resumeEvt (d : Die) (e : Nat) (t : Task) : Keeps [.regs, .eng, .knl] d (resumeEvt d e t) :=
  (keeps_ppEvt _ _ (by simp) (by simp) ..).2 ((keeps_swapBusy d e 6).mono (by simp))

theorem keeps_resumeOther (d : Die) (e : Nat) : Keeps [.regs, .eng, .knl] d (resumeOther d e) := by
  unfold resumeOther
  split
  · exact .refl _ d
  · split
    · exact .refl _ d
    · split
      · exact (keeps_ppEvt _ _ (by simp) (by simp) ..).2
          ((keeps_incReg _ _ (by simp) _).2 ((keeps_updEng _ _ (by simp) _ _).2 (.refl _ d)))
      · exact Keeps.trans ((keeps_updEng _ _ (by simp) _ _).2 (.refl _ d)) (keeps_resumeEvt _ e _)

theorem engH_swapBusy_ne (d : Die) {j : Nat} (n : Nat) (hj : j ≠ e) : engH (swapBusy d e n) j = engH d j := by
  rw [swapBusy, engH_updEng_ne _ _ hj, engH_of_eng (eng_put64 _ _ _)]

theorem engH_swapBusy_same (d : Die) (n : Nat) (he : e < 16) : engH (swapBusy d e n) e = (engH d e).occupy d.tb.cyc n := by
  rw [swapBusy, engH_updEng_same _ _ _ he, engH_of_eng (eng_put64 _ _ _)]
  rfl

theorem engH_resumeOther_ne (d : Die) {j : Nat} (hj : j ≠ e) : engH (resumeOther d e) j = engH d j := by
  unfold resumeOther
  split
  · rfl
  · split
    · rfl
    · split
      · rw [engH_ppEvt, engH_of_eng (incReg_eng _ _), engH_updEng_ne _ _ hj]
      · rw [resumeEvt, engH_ppEvt, engH_swapBusy_ne _ _ hj, engH_updEng_ne _ _ hj]

theorem resumeOther_of_none {d : Die} (h : (engH d e).other = none) : resumeOther d e = d := by rw [resumeOther, h]

/-- The held task of a level that runs resumes. -/
theorem engH_resumeOther_resumed {d : Die} (he : e < 16) (h : (engH d e).other = some u) (hpark : u.parked = false)
    (hsusp : suspended d u.level = false) : (engH (resumeOther d e) e).active = some u ∧
      (engH (resumeOther d e) e).other = none ∧ (engH (resumeOther d e) e).ended = (engH d e).ended := by
  simp only [resumeOther, h, hpark, hsusp, Bool.false_eq_true, if_false]
  rw [resumeEvt, engH_ppEvt, engH_swapBusy_same _ _ he, engH_updEng_same _ _ _ he]
  exact ⟨rfl, rfl, rfl⟩

/-- The held task of a suspended level is parked. -/
theorem engH_resumeOther_parked {d : Die} (he : e < 16) (h : (engH d e).other = some u) (hpark : u.parked = false)
    (hsusp : suspended d u.level = true) : (engH (resumeOther d e) e).other = some { u with parked := true } ∧
      (engH (resumeOther d e) e).ended = (engH d e).ended := by
  simp only [resumeOther, h, hpark, hsusp, Bool.false_eq_true, if_false, if_true]
  rw [engH_ppEvt, engH_of_eng (incReg_eng _ _), engH_updEng_same _ _ _ he]
  exact ⟨rfl, rfl⟩

theorem ended_resumeOther (d : Die) (he : e < 16) : (engH (resumeOther d e) e).ended = (engH d e).ended := by
  unfold resumeOther
  split
  · rfl
  · split
    · rfl
    · split
      · rw [engH_ppEvt, engH_of_eng (incReg_eng _ _), engH_updEng_same _ _ _ he]
      · rw [resumeEvt, engH_ppEvt, engH_swapBusy_same _ _ he, engH_updEng_same _ _ _ he]
        rfl

theorem processEnd_of_ended {x : EngEnd} (hon : kennelOn s.die = true)
    (hfind : (upto 16).find? (fun n => (engH s.die n).ended.isSome) = some e) (hx : (engH s.die e).ended = some x) :
    processEnd (found s) = noteBlocked (resumeOther (endTaken (found s) e x) e) := by
  have hfind' : (upto 16).find? (fun n => (engH (found s) n).ended.isSome) = some e := hfind
  have hx' : (engH (found s) e).ended = some x := hx
  rw [processEnd, kennelOn_found, hon, hfind']
  simp only [Bool.not_true, Bool.false_eq_true, if_false, hx']
  rfl

theorem engineEnd_clause {x : EngEnd} (he : e < 16) (hon : kennelOn s.die = true)
    (hfind : (upto 16).find? (fun n => (engH s.die n).ended.isSome) = some e) (hx : (engH s.die e).ended = some x) :
    ends .engineEnd s fun t => (engH t.die e).ended = none ∧ (∀ j, j ≠ e → engH t.die j = engH s.die j) ∧
      ((engH s.die e).other = none → (engH t.die e).active = (engH s.die e).active) ∧
      (∀ u, (engH s.die e).other = some u → u.parked = false → suspended s.die u.level = false →
        (engH t.die e).active = some u ∧ (engH t.die e).other = none) ∧
      (∀ u, (engH s.die e).other = some u → u.parked = false → suspended s.die u.level = true →
        (engH t.die e).other = some { u with parked := true }) ∧ keepsBut [.regs, .eng, .knl] s t := by
  have htaken : engH (endTaken (found s) e x) e = { engH s.die e with ended := none } := by
    rw [engH_of_eng (eng_endTaken _ _ _), engH_updEng_same _ _ _ he]
    rfl
  have heng (j : Nat) : engH (irqSettle s.die (noteBlocked (resumeOther (endTaken (found s) e x) e))) j =
      engH (resumeOther (endTaken (found s) e x) e) j := by
    rw [engH_irqSettle, engH_of_eng (keeps_noteBlocked _ .eng (by simp))]
  refine ends_of_onDie (exec_engineEnd s) ?_
  rw [processEnd_of_ended hon hfind hx]
  refine ⟨?_, fun j hj => ?_, fun hother => ?_, fun u hother hpark hsusp => ?_, fun u hother hpark hsusp => ?_,
    keepsBut_command ?_⟩
  · rw [heng, ended_resumeOther _ he, htaken]
  · rw [heng, engH_resumeOther_ne _ hj, engH_of_eng (eng_endTaken _ _ _), engH_updEng_ne _ _ hj]
    rfl
  · rw [heng, resumeOther_of_none (by rw [htaken]; exact hother), htaken]
  · rw [heng]
    obtain ⟨hactive, hnone, -⟩ := engH_resumeOther_resumed he (u := u) (by rw [htaken]; exact hother) hpark
      ((suspended_endTaken (found s) e x _).trans hsusp)
    exact ⟨hactive, hnone⟩
  · rw [heng]
    exact (engH_resumeOther_parked he (by rw [htaken]; exact hother) hpark
      ((suspended_endTaken (found s) e x _).trans hsusp)).1
  · exact ((keeps_endTaken (found s) e x).trans (keeps_resumeOther _ e)).trans ((keeps_noteBlocked _).mono (by simp))

end Commands

/-- Settles O15: releases by `release_new` and `release_merge`, placements and ends by the clause of their command. -/
theorem kennelReleasesAndPlaces : Obligations.KennelReleasesAndPlaces := by
  refine ⟨fun d idx arg param src => ⟨release_of_invalid d idx arg param src, release_merge d idx arg param src,
    fun hvalid hnew => ?_⟩, fun s u e he hon hplace => dispatch_clause he hon hplace,
    fun s u e he hon hplace => preempt_clause he hon hplace, fun s e x he hon hfind hx => engineEnd_clause he hon hfind hx⟩
  obtain ⟨hlist, hrest, hstore⟩ := release_new d idx arg param src hvalid hnew
  obtain ⟨hpc, harg, hparam⟩ := newTask_ctx d idx arg param src
  exact ⟨_, hlist, rfl, rfl, rfl, rfl, rfl, rfl, hpc, harg, hparam, hrest,
    fun a hcls ha => newTask_inp d idx arg param src hcls ha, hstore⟩

end Sys2Proof.Machine
end

section
/-! PROOFS. The ports of the Kennel (R152, R156): each takes the head of a queue, and releases descriptors of its class. -/

namespace Sys2Proof.Machine

open Sys2Proof

/-- A release leaves the descriptors, the edge list and the queues. -/
theorem fixed_release (d : Die) (idx arg param src : Nat) : (release d idx arg param src).knl.fixed = d.knl.fixed := by
  cases hvalid : descValid d idx
  · rw [release_of_invalid d idx arg param src hvalid]
  · by_cases hnew : descMulti d idx = true ∨ hasInstance d idx = false
    · obtain ⟨tr, l, h⟩ := release_new_knl d idx arg param src hvalid hnew
      rw [h]
      rfl
    · obtain ⟨hone, hhas⟩ := not_or.1 hnew
      obtain ⟨-, hparts⟩ := release_of_merge d idx arg param src hvalid (by simpa using hone) (by simpa using hhas)
      rw [hparts .knl (by simp), merged, fixed_ppEvt]
      rfl

theorem fixed_releaseOf (d : Die) (idx arg param src : Nat) : (releaseOf d idx arg param src).knl.fixed = d.knl.fixed := by
  unfold releaseOf
  extract_lets cls
  split
  · exact fixed_release ..
  · rfl

/-- The first release of an axis's entry: FIXED. -/
def axisFirst (d : Die) (src a k : Nat) : Die :=
  match findDesc d 0 a with
  | some i => release d i (k % 2 ^ 32) 0 src
  | none => d

theorem expand_axis (d : Die) (src a k : Nat) : expand d src (.axis a k) =
    match findDesc (axisFirst d src a k) 1 a with
    | some i => release (axisFirst d src a k) i (k % 2 ^ 32) 0 src
    | none => axisFirst d src a k := rfl

theorem fixed_expand (d : Die) (src : Nat) (x : QEnt) : (expand d src x).knl.fixed = d.knl.fixed := by
  cases x with
  | edge k => exact foldl_keeps (fun d : Die => d.knl.fixed) (fun d i => fixed_releaseOf d i _ 0 src) _ d
  | oph k axes =>
    refine foldl_keeps (fun d : Die => d.knl.fixed) (fun d a => ?_) axes d
    split
    · exact fixed_release ..
    · rfl
  | axis a k =>
    have hfirst : (axisFirst d src a k).knl.fixed = d.knl.fixed := by
      unfold axisFirst
      split
      · exact fixed_release ..
      · rfl
    rw [expand_axis]
    split
    · exact (fixed_release ..).trans hfirst
    · exact hfirst
  | desc i arg param => exact fixed_releaseOf ..

theorem findDesc_of_fixed {c d : Die} (h : d.knl.fixed = c.knl.fixed) (cls a : Nat) : findDesc d cls a = findDesc c cls a := by
  have hdescs : d.knl.descs = c.knl.descs := congrArg Prod.fst h
  have hword (i w : Nat) : descWord d i w = descWord c i w := by rw [descWord, hdescs, descWord]
  simp only [findDesc, hdescs, descValid, descClass, descAxis, hword]

theorem queues_of_fixed {c d : Die} (h : d.knl.fixed = c.knl.fixed) (src : Nat) : kqueue d src = kqueue c src :=
  kqueue_congr (congrArg (fun x => x.2.2.1) h) src

theorem rr_of_fixed {c d : Die} (h : d.knl.fixed = c.knl.fixed) : d.knl.rr = c.knl.rr := congrArg (fun x => x.2.2.2) h

/-- A descriptor whose release makes a new task. -/
def Fresh (d : Die) (idx : Nat) : Prop := descValid d idx = true ∧ (descMulti d idx = true ∨ hasInstance d idx = false)

/-- One more task of the descriptor stands at the end of its ready list. -/
def Put (c d : Die) (idx : Nat) : Prop :=
  ∃ u : Task, readyList d (descLevel c idx) = readyList c (descLevel c idx) ++ [u] ∧ u.idx = idx

theorem put_release {d : Die} {idx : Nat} (h : Fresh d idx) (arg param src : Nat) : Put d (release d idx arg param src) idx :=
  ⟨_, (release_new d idx arg param src h.1 h.2).1, rfl⟩

/-- The class that a source releases (R152). -/
def sourceClass (src : Nat) : Nat := if src = 0 then 2 else if src = 5 then 4 else if src = 6 then 5 else 6

theorem releaseOf_of_class {d : Die} {idx src : Nat} (h : descClass d idx = sourceClass src) (arg param : Nat) :
    releaseOf d idx arg param src = release d idx arg param src := if_pos h

theorem releaseOf_of_other {d : Die} {idx src : Nat} (h : descClass d idx ≠ sourceClass src) (arg param : Nat) :
    releaseOf d idx arg param src = d := if_neg h

theorem exec_precedence (s : State) : exec .precedencePortAccept s = onDie acceptPrecedence s := rfl

theorem exec_shared (s : State) : exec .sharedPortAccept s = onDie acceptShared s := rfl

/-- The queue of a source less its head. -/
theorem kqueue_setQueue_ne (d : Die) {src x : Nat} (q : List QEnt) (h : x ≠ src) : kqueue (setQueue d src q) x = kqueue d x :=
  sget_sput_ne [] [] d.knl.queues q h

theorem Put.irqSettle {c d : Die} {idx : Nat} (b : Die) (h : Put c d idx) : Put c (Machine.irqSettle b d) idx := by
  obtain ⟨u, hu, hidx⟩ := h
  exact ⟨u, by rw [readyList_irqSettle, hu], hidx⟩

theorem Put.congr {c d d' : Die} {idx : Nat} (h : Put c d idx) (hd : d'.knl.ready = d.knl.ready) : Put c d' idx := by
  obtain ⟨u, hu, hidx⟩ := h
  exact ⟨u, by rw [readyList_congr hd, hu], hidx⟩

section Ports

variable {s : State} {q : Nat} {x : QEnt} {rest : List QEnt}

/-- The die with the head of queue `q` taken. -/
def headTaken (s : State) (q : Nat) (rest : List QEnt) : Die := setQueue (found s) q rest

theorem fresh_headTaken {idx : Nat} : Fresh (headTaken s q rest) idx ↔ Fresh s.die idx := Iff.rfl

theorem put_headTaken {d : Die} {idx : Nat} : Put (headTaken s q rest) d idx ↔ Put s.die d idx := Iff.rfl

theorem acceptPrecedence_of_head (hon : kennelOn s.die = true)
    (hfind : (upto 5).find? (fun x => !(kqueue s.die x).isEmpty) = some q) (hq : kqueue s.die q = x :: rest) :
    acceptPrecedence (found s) = expand (headTaken s q rest) q x := by
  have hfind' : (upto 5).find? (fun x => !(kqueue (found s) x).isEmpty) = some q := hfind
  have hq' : kqueue (found s) q = x :: rest := hq
  rw [acceptPrecedence, kennelOn_found, hon, hfind']
  simp only [Bool.not_true, Bool.false_eq_true, if_false, hq']
  rfl

theorem kqueue_expanded (y : Nat) : kqueue (irqSettle s.die (expand (headTaken s q rest) q x)) y =
    if y = q then rest else kqueue s.die y := by
  rw [kqueue, irqSettle_knl, ← kqueue, queues_of_fixed (fixed_expand _ _ _)]
  split
  · rename_i h
    rw [h, headTaken, kqueue_setQueue]
  · rename_i h
    rw [headTaken, kqueue_setQueue_ne _ _ h]
    rfl

theorem precedence_clause (hon : kennelOn s.die = true)
    (hfind : (upto 5).find? (fun x => !(kqueue s.die x).isEmpty) = some q) (hq : kqueue s.die q = x :: rest) :
    ends .precedencePortAccept s fun t => kqueue t.die q = rest ∧ (∀ y, y ≠ q → kqueue t.die y = kqueue s.die y) ∧
      (∀ idx, Fresh s.die idx →
        (∀ arg param, x = .desc idx arg param → descClass s.die idx = (if q = 0 then 2 else 6) → Put s.die t.die idx) ∧
        (∀ k, x = .edge k → q = 0 → s.die.knl.edgeList = [idx] → descClass s.die idx = 2 → Put s.die t.die idx) ∧
        (∀ a k, x = .axis a k → findDesc s.die 0 a = some idx → findDesc s.die 1 a = none → Put s.die t.die idx)) := by
  have hlt : q < 5 := mem_upto.1 (List.mem_of_find?_eq_some hfind)
  refine ends_of_onDie (exec_precedence s) ?_
  rw [acceptPrecedence_of_head hon hfind hq]
  refine ⟨by rw [kqueue_expanded, if_pos rfl], fun y hy => by rw [kqueue_expanded, if_neg hy], fun idx hfresh =>
    ⟨fun arg param hx hcls => ?_, fun k hx hq0 hlist hcls => ?_, fun a k hx hfixed hpos => ?_⟩⟩ <;> subst hx <;>
    refine Put.irqSettle _ ((put_headTaken (q := q) (rest := rest)).1 ?_)
  · have hclass : descClass (headTaken s q rest) idx = sourceClass q := by
      rw [sourceClass, if_neg (show q ≠ 5 by omega), if_neg (show q ≠ 6 by omega)]
      exact hcls
    rw [expand, releaseOf_of_class hclass]
    exact put_release (fresh_headTaken.2 hfresh) _ _ _
  · have hclass : descClass (headTaken s q rest) idx = sourceClass q := by
      rw [sourceClass, if_pos hq0]
      exact hcls
    have hedge : (headTaken s q rest).knl.edgeList = [idx] := hlist
    rw [expand, hedge, List.foldl_cons, List.foldl_nil, releaseOf_of_class hclass]
    exact put_release (fresh_headTaken.2 hfresh) _ _ _
  · have hfixed' : findDesc (headTaken s q rest) 0 a = some idx := hfixed
    have hpos' : findDesc (headTaken s q rest) 1 a = none := hpos
    have hfirst : axisFirst (headTaken s q rest) q a k = release (headTaken s q rest) idx (k % 2 ^ 32) 0 q := by
      rw [axisFirst, hfixed']
    rw [expand_axis, hfirst, findDesc_of_fixed (fixed_release _ _ _ _ _), hpos']
    exact put_release (fresh_headTaken.2 hfresh) _ _ _

/-- The die with the head of the shared queue `q` taken, and `q` served last. -/
def sharedTaken (s : State) (q : Nat) (rest : List QEnt) : Die :=
  updKnl (setQueue (found s) q rest) fun k => { k with rr := q, blocked := clrBit k.blocked q }

theorem acceptShared_of_head (hon : kennelOn s.die = true)
    (hfind : (sharedOrder s.die.knl.rr).find? (fun x => !(kqueue s.die x).isEmpty && !headBlocked s.die x) = some q)
    (hq : kqueue s.die q = x :: rest) : acceptShared (found s) = noteBlocked (expand (sharedTaken s q rest) q x) := by
  have hfind' : (sharedOrder (found s).knl.rr).find? (fun x => !(kqueue (found s) x).isEmpty && !headBlocked (found s) x) =
    some q := hfind
  have hq' : kqueue (found s) q = x :: rest := hq
  rw [acceptShared, kennelOn_found, hon, hfind']
  simp only [Bool.not_true, Bool.false_eq_true, if_false, hq']
  rfl

theorem fresh_sharedTaken {idx : Nat} : Fresh (sharedTaken s q rest) idx ↔ Fresh s.die idx := Iff.rfl

theorem put_sharedTaken {d : Die} {idx : Nat} : Put (sharedTaken s q rest) d idx ↔ Put s.die d idx := Iff.rfl

theorem five_le_of_sharedOrder {rr q : Nat} (h : q ∈ sharedOrder rr) : 5 ≤ q := by
  obtain ⟨j, -, hj⟩ := List.mem_map.1 h
  omega

theorem shared_clause (hon : kennelOn s.die = true)
    (hfind : (sharedOrder s.die.knl.rr).find? (fun x => !(kqueue s.die x).isEmpty && !headBlocked s.die x) = some q)
    (hq : kqueue s.die q = x :: rest) : ends .sharedPortAccept s fun t =>
      kqueue t.die q = rest ∧ t.die.knl.rr = q ∧ (∀ y, y ≠ q → kqueue t.die y = kqueue s.die y) ∧
      (∀ idx arg param, x = .desc idx arg param → descClass s.die idx = (if q = 5 then 4 else if q = 6 then 5 else 6) →
        Fresh s.die idx → Put s.die t.die idx) ∧
      (∀ idx arg param, x = .desc idx arg param → descClass s.die idx ≠ (if q = 5 then 4 else if q = 6 then 5 else 6) →
        t.die.knl.ready = s.die.knl.ready) := by
  have hle := five_le_of_sharedOrder (List.mem_of_find?_eq_some hfind)
  have hcls : sourceClass q = if q = 5 then 4 else if q = 6 then 5 else 6 := if_neg (by omega)
  have hfixed : (noteBlocked (expand (sharedTaken s q rest) q x)).knl.fixed = (sharedTaken s q rest).knl.fixed :=
    (fixed_noteBlocked _).trans (fixed_expand _ _ _)
  have hqueue (y : Nat) : kqueue (irqSettle s.die (noteBlocked (expand (sharedTaken s q rest) q x))) y =
      kqueue (setQueue (found s) q rest) y := by
    rw [kqueue, irqSettle_knl, ← kqueue, queues_of_fixed hfixed]
    rfl
  refine ends_of_onDie (exec_shared s) ?_
  rw [acceptShared_of_head hon hfind hq]
  refine ⟨by rw [hqueue, kqueue_setQueue], ?_, fun y hy => by rw [hqueue, kqueue_setQueue_ne _ _ hy]; rfl,
    fun idx arg param hx hc hfresh => ?_, fun idx arg param hx hc => ?_⟩
  · rw [irqSettle_knl]
    exact (rr_of_fixed hfixed).trans rfl
  · subst hx
    have hclass : descClass (sharedTaken s q rest) idx = sourceClass q := hc.trans hcls.symm
    have hput := (put_sharedTaken (q := q) (rest := rest)).1 (put_release (fresh_sharedTaken.2 hfresh) arg param q)
    refine Put.irqSettle _ (hput.congr ?_)
    rw [ready_noteBlocked, expand, releaseOf_of_class hclass]
  · subst hx
    have hclass : descClass (sharedTaken s q rest) idx ≠ sourceClass q := by
      rw [hcls]
      exact hc
    rw [irqSettle_knl, ready_noteBlocked, expand, releaseOf_of_other hclass]
    rfl

end Ports

/-- A Kennel that does not run does nothing. -/
theorem kennel_off {s : State} (hoff : kennelOn s.die = false) : ends .precedencePortAccept s (keepsBut [] s) ∧
    ends .sharedPortAccept s (keepsBut [] s) ∧ ends .dispatch s (keepsBut [] s) ∧ ends .preempt s (keepsBut [] s) ∧
    ends .engineEnd s (keepsBut [] s) := by
  have hoff' : (!kennelOn (found s)) = true := by rw [kennelOn_found, hoff]; rfl
  refine ⟨ends_idle (exec_precedence s) ?_ [], ends_idle (exec_shared s) ?_ [], ends_idle (exec_dispatch s) ?_ [],
    ends_idle (exec_preempt s) ?_ [], ends_idle (exec_engineEnd s) ?_ []⟩
  · rw [acceptPrecedence, if_pos hoff']
  · rw [acceptShared, if_pos hoff']
  · rw [dispatchStep, if_pos hoff']
  · rw [preemptStep, if_pos hoff']
  · rw [processEnd, if_pos hoff']

/-- Settles O16: a port takes a head, and what the head releases is new by `put_release`. -/
theorem kennelPortsTakeHeads : Obligations.KennelPortsTakeHeads :=
  ⟨fun _ _ _ _ hon hfind hq => precedence_clause hon hfind hq, fun _ _ _ _ hon hfind hq => shared_clause hon hfind hq,
    fun _ hoff => kennel_off hoff⟩

end Sys2Proof.Machine
end

section
/-! PROOFS. Accepted writes of the host port (R10 to R15, R31, R32, R58, R336 to R340): the word a write leaves in its register, the
value in force, and the row of a register. -/

namespace Sys2Proof.Machine

open Sys2Proof

/-! The word stored. -/

/-- The bits of `old` that the mask names taken from `v`. -/
def putBits (old mask v : Word) : Word := (old &&& ~~~mask) ||| (v &&& mask)

theorem testBit_putBits (old mask v : Word) (i : Nat) :
    (putBits old mask v).toNat.testBit i = if mask.toNat.testBit i then v.toNat.testBit i else old.toNat.testBit i := by
  by_cases hi : i < 32
  · simp only [BitVec.testBit_toNat, putBits, BitVec.getLsbD_or, BitVec.getLsbD_and, BitVec.getLsbD_not, hi, decide_true]
    cases mask.getLsbD i <;> simp
  · simp [BitVec.testBit_toNat, BitVec.getLsbD_of_ge _ _ (Nat.le_of_not_lt hi)]

/-- Clearing the masked bits of a word and adding those of a value is taking them from the value. -/
theorem ofNat_clear_add (x : Word) (m v : Nat) :
    BitVec.ofNat 32 (x.toNat - (x.toNat &&& m) + (v &&& m)) = putBits x (BitVec.ofNat 32 m) (BitVec.ofNat 32 v) := by
  have hand : BitVec.ofNat 32 (x.toNat &&& m) = x &&& BitVec.ofNat 32 m := by rw [BitVec.ofNat_and, BitVec.ofNat_toNat, BitVec.setWidth_eq]
  have hle : x.toNat &&& m ≤ x.toNat := Nat.and_le_left
  have hsub : BitVec.ofNat 32 (x.toNat - (x.toNat &&& m)) = x - (x &&& BitVec.ofNat 32 m) := by
    rw [← hand, eq_comm, sub_eq_iff_eq_add, ← BitVec.ofNat_add, Nat.sub_add_cancel hle, BitVec.ofNat_toNat, BitVec.setWidth_eq]
  have hsplit : x = (x &&& ~~~BitVec.ofNat 32 m) + (x &&& BitVec.ofNat 32 m) := by
    rw [BitVec.add_eq_or_of_and_eq_zero]
    · ext i
      simp only [BitVec.getElem_or, BitVec.getElem_and, BitVec.getElem_not]
      cases x[i] <;> cases (BitVec.ofNat 32 m)[i] <;> rfl
    · ext i
      simp only [BitVec.getElem_and, BitVec.getElem_not, BitVec.getElem_zero]
      cases x[i] <;> cases (BitVec.ofNat 32 m)[i] <;> rfl
  have hrest : x - (x &&& BitVec.ofNat 32 m) = x &&& ~~~BitVec.ofNat 32 m := sub_eq_of_eq_add hsplit
  rw [BitVec.ofNat_add, hsub, hrest, BitVec.ofNat_and, putBits, BitVec.add_eq_or_of_and_eq_zero]
  ext i
  simp only [BitVec.getElem_and, BitVec.getElem_not, BitVec.getElem_zero]
  cases (BitVec.ofNat 32 m)[i] <;> simp

theorem testBit_bitsOf (x lo w i : Nat) : (bitsOf x lo w).testBit i = (decide (i < w) && x.testBit (lo + i)) := by
  rw [bitsOf_eq, Nat.testBit_mod_two_pow, Nat.testBit_div_two_pow, Nat.add_comm]

/-- A field whose bits are all taken from the value reads as in it. -/
theorem bitsOf_putBits_of_mem {mask : Word} {lo w : Nat} (h : ∀ i < w, mask.toNat.testBit (lo + i) = true) (old v : Word) :
    bitsOf (putBits old mask v).toNat lo w = bitsOf v.toNat lo w := by
  refine Nat.eq_of_testBit_eq fun i => ?_
  rw [testBit_bitsOf, testBit_bitsOf, testBit_putBits]
  by_cases hi : i < w
  · rw [if_pos (h i hi)]
  · simp [hi]

/-- A field that reads alike in the word and in the value reads so afterwards, whatever bits are taken. -/
theorem bitsOf_putBits_of_eq {old v : Word} {lo w : Nat} (h : bitsOf v.toNat lo w = bitsOf old.toNat lo w) (mask : Word) :
    bitsOf (putBits old mask v).toNat lo w = bitsOf old.toNat lo w := by
  refine Nat.eq_of_testBit_eq fun i => ?_
  have hbit := congrArg (Nat.testBit · i) h
  simp only [testBit_bitsOf] at hbit ⊢
  rw [testBit_putBits]
  split
  · exact hbit
  · rfl

theorem putBits_all (old v : Word) : putBits old 0xFFFFFFFF v = v := by
  refine BitVec.eq_of_toNat_eq (Nat.eq_of_testBit_eq fun i => ?_)
  rw [testBit_putBits, show (0xFFFFFFFF : Word).toNat = 2 ^ 32 - 1 from rfl, Nat.testBit_two_pow_sub_one]
  by_cases hi : i < 32
  · simp [hi]
  · simp [hi, BitVec.testBit_toNat, BitVec.getLsbD_of_ge _ _ (Nat.le_of_not_lt hi)]

theorem putBits_none (old v : Word) : putBits old 0 v = old := by
  refine BitVec.eq_of_toNat_eq (Nat.eq_of_testBit_eq fun i => ?_)
  rw [testBit_putBits, show (0 : Word).toNat = 0 from rfl, Nat.zero_testBit]
  rfl

/-- The mask of the bits that a write of a row takes from the value: in an axis-state word, not those written later (R58). -/
def takenBits (d : Die) (off rw : Nat) : Nat := if inAxis off then rw - (rw &&& axLater d 7 d.tb.cyc off) else rw

/-- The word stored for a row without write-1-to-clear bits (R10, R58). -/
theorem ofNat_storeWord {r : RegRow} (h : r.w1c = 0) (d : Die) (off v : Nat) :
    BitVec.ofNat 32 (storeWord d r off v) =
      putBits (getReg d off) (BitVec.ofNat 32 (takenBits d off r.rw)) (BitVec.ofNat 32 v) := by
  rw [← ofNat_clear_add]
  simp [storeWord, takenBits, h]

theorem takenBits_outside {off : Nat} (h : inAxis off = false) (d : Die) (rw' : Nat) : takenBits d off rw' = rw' := by
  simp [takenBits, h]

/-! The store. -/

/-- The store of a cyclic parameter keeps every part but the registers and the values in force. -/
theorem keeps_stage {ps : List Part} (c d : Die) (hr : .regs ∈ ps) (hh : .held ∈ ps) (off : Nat) (w : Word) (low : List Nat) :
    Keeps ps c { stage d off w with heldLow := low } ↔ Keeps ps c d := by
  rw [← keeps_putReg c d hr off w]
  exact Keeps.iff_of_part hh fun p hp => by cases p <;> simp_all [Part.same, stage]

theorem eff_of_eq {c d : Die} {o : Nat} (hheld : sget none d.held o = sget none c.held o) (hreg : getReg d o = getReg c o) :
    eff d o = eff c o := by
  rw [eff, eff, hheld, hreg]

theorem eff_stage (d : Die) (off : Nat) (w : Word) (low : List Nat) (o : Nat) :
    eff { stage d off w with heldLow := low } o = eff d o := by
  have hheld : { stage d off w with heldLow := low }.held = sput none d.held off (some (eff d off)) := rfl
  have hreg : getReg { stage d off w with heldLow := low } o = getReg (putReg d off w) o := rfl
  by_cases ho : o = off
  · subst ho
    rw [eff, hheld, sget_sput_same]
  · exact eff_of_eq (hheld ▸ sget_sput_ne none none _ _ ho) (hreg.trans (getReg_putReg_ne d w ho))

section Store

variable (d : Die) (r : RegRow) (off v : Nat)

/-- A write of an axis-state word is noted with the bits it writes (R58). -/
def noted : Die := if inAxis off then axNote d ⟨off, d.tb.cyc, 7, axSeen d 7 d.tb.cyc off, r.rw⟩ else d

theorem noted_outside (h : inAxis off = false) : noted d r off = d := by simp [noted, h]

theorem regs_noted : (noted d r off).regs = d.regs := by
  unfold noted
  split <;> rfl

theorem held_noted : (noted d r off).held = d.held := by
  unfold noted
  split <;> rfl

theorem keeps_noted : Keeps [.axLog] d (noted d r off) := by
  unfold noted
  split
  · simp
  · exact Keeps.refl _ _

theorem storeReg_of_plain (h : cyclic off = false) :
    storeReg d r off v = putReg (noted d r off) off (BitVec.ofNat 32 (storeWord d r off v)) := by
  simp [storeReg, h, noted]

theorem held_markLand : (markLand d off).held = d.held := by
  unfold markLand
  extract_lets again e
  have he : e.held = d.held := by
    unfold e
    split <;> rfl
  split
  · exact he
  · exact he

theorem regs_markLand : (markLand d off).regs = d.regs := by
  unfold markLand
  extract_lets again e
  have he : e.regs = d.regs := by
    unfold e
    split <;> rfl
  split
  · exact he
  · exact he

theorem keeps_markLand : Keeps [.held] d (markLand d off) := by
  unfold markLand
  extract_lets again e
  have he : Keeps [.held] d e := by
    unfold e
    split
    · simp
    · exact Keeps.refl _ _
  split
  · simpa using he
  · exact he

theorem storeReg_of_cyclic (h : cyclic off = true) : ∃ low,
    storeReg d r off v = { stage (markLand (noted d r off) off) off (BitVec.ofNat 32 (storeWord d r off v)) with heldLow := low } :=
  ⟨_, by simp only [storeReg, h, Bool.not_true, Bool.false_eq_true, if_false]; rfl⟩

@[simp] theorem getReg_storeReg_same : getReg (storeReg d r off v) off = BitVec.ofNat 32 (storeWord d r off v) := by
  cases h : cyclic off
  · rw [storeReg_of_plain d r off v h, getReg_putReg_same]
  · obtain ⟨low, hs⟩ := storeReg_of_cyclic d r off v h
    rw [hs]
    exact getReg_putReg_same ..

/-- A store changes its own register only. -/
theorem leaves_storeReg : Leaves (· = off) d (storeReg d r off v) := by
  have hnoted : Leaves (· = off) d (noted d r off) := .of_regs (regs_noted ..)
  cases h : cyclic off
  · rw [storeReg_of_plain d r off v h]
    exact (leaves_putReg (p := (· = off)) _ _ rfl _).2 hnoted
  · obtain ⟨low, hs⟩ := storeReg_of_cyclic d r off v h
    have hmark : Leaves (· = off) d (markLand (noted d r off) off) := hnoted.trans (.of_regs (regs_markLand ..))
    rw [hs]
    exact ((leaves_putReg (p := (· = off)) _ _ rfl (BitVec.ofNat 32 (storeWord d r off v))).2 hmark).trans (.of_regs rfl)

theorem keeps_storeReg_of_plain (hax : inAxis off = false) (h : cyclic off = false) : Keeps [.regs] d (storeReg d r off v) := by
  rw [storeReg_of_plain d r off v h, noted_outside d r off hax]
  simp

theorem keeps_storeReg_of_parameter (hax : inAxis off = false) : Keeps [.regs, .held] d (storeReg d r off v) := by
  cases h : cyclic off
  · exact (keeps_storeReg_of_plain d r off v hax h).mono (by simp)
  · obtain ⟨low, hs⟩ := storeReg_of_cyclic d r off v h
    rw [hs, noted_outside d r off hax, keeps_stage _ _ (by simp) (by simp)]
    exact (keeps_markLand d off).mono (by simp)

theorem keeps_storeReg_of_axis (h : cyclic off = false) : Keeps [.regs, .axLog] d (storeReg d r off v) := by
  rw [storeReg_of_plain d r off v h]
  simpa using (keeps_noted d r off).mono (qs := [.regs, .axLog]) (by simp)

theorem keeps_storeReg : Keeps [.regs, .held, .axLog] d (storeReg d r off v) := by
  cases h : cyclic off
  · exact (keeps_storeReg_of_axis d r off v h).mono (by simp)
  · obtain ⟨low, hs⟩ := storeReg_of_cyclic d r off v h
    have hnoted := (keeps_noted d r off).mono (qs := [.regs, .held, .axLog]) (by simp)
    have hmark := (keeps_markLand (noted d r off) off).mono (qs := [.regs, .held, .axLog]) (by simp)
    rw [hs, keeps_stage _ _ (by simp) (by simp)]
    exact hnoted.trans hmark

/-- A write of a cyclic parameter leaves every value in force (R31). -/
theorem eff_storeReg_of_cyclic (h : cyclic off = true) (o : Nat) : eff (storeReg d r off v) o = eff d o := by
  obtain ⟨low, hs⟩ := storeReg_of_cyclic d r off v h
  have hheld : (markLand (noted d r off) off).held = d.held := (held_markLand ..).trans (held_noted ..)
  have hregs : (markLand (noted d r off) off).regs = d.regs := (regs_markLand ..).trans (regs_noted ..)
  have hbefore : ∀ p, eff (markLand (noted d r off) off) p = eff d p := fun p => by simp only [eff, getReg, hheld, hregs]
  rw [hs]
  exact (eff_stage ..).trans (hbefore o)

end Store

/-! The write. -/

/-- The bits of a register that a write stores, clears where it gives 1, and takes as a command (R10). -/
def writeBits (off : Nat) : Option (Nat × Nat × Nat) := (findReg off).map fun x => (x.1.rw, x.1.w1c, x.1.wo)

/-- The offset is none of those whose write stores something else than its bits. -/
def storesBits (off : Nat) : Bool :=
  decide (off ∉ [Reg.HST_LOCK, Reg.HST_CRING_HEAD, Reg.HST_CRING_CTL, Reg.BEAT_MARGIN, Reg.PWR_VINMIN, Reg.PWR_TJ,
      Reg.KNL_PP_CTL]) &&
    !(decide (0x10000 ≤ off) && decide (off < 0x10800) && off % 0x40 == 0) &&
    !(decide (0x11000 ≤ off) && decide (off < 0x12000) && decide (0x40 ≤ off % 0x400) && decide (off % 0x400 < 0x130) &&
      (off % 0x400 - 0x40) % 0x50 == 0) &&
    !(decide (0x20000 ≤ off) && decide (off < 0x40000) && off % 0x400 == 0x280)

theorem writeStore_of_storesBits {off : Nat} (h : storesBits off = true) (d : Die) (r : RegRow) (v : Nat) :
    writeStore d r off v = storeReg d r off v := by
  simp only [storesBits, Bool.and_eq_true, Bool.not_eq_true', Bool.and_eq_false_iff, decide_eq_false_iff_not,
    decide_eq_true_eq, List.mem_cons, beq_eq_false_iff_ne, List.not_mem_nil, or_false, not_or] at h
  obtain ⟨⟨⟨⟨h1, h2, h3, h4, h5, h6, h7⟩, hstp⟩, htxb⟩, hax⟩ := h
  unfold writeStore
  rw [if_neg h1, if_neg h2, if_neg h3, if_neg h4, if_neg h5, if_neg h6, if_neg h7, if_neg (by omega), if_neg (by omega),
    if_neg (by omega)]

/-- The offset is none of those below the capture block whose write does something beside the store. -/
def quiet (off : Nat) : Bool :=
  decide (off < 0xF000) && decide (off ∉ [Reg.PWR_CTL, Reg.PWR_VWARN, Reg.HST_ERR, Reg.SHD_STAT, Reg.LOG_CMD, Reg.LOG_RD_IDX, Reg.MST_CTL,
    Reg.CTR_CFG, 0xE080, 0xE0A0, 0xE0C0])

theorem writeHook_of_quiet {off : Nat} (h : quiet off = true) (d : Die) (v : Nat) : writeHook d off v = d := by
  simp only [quiet, Bool.and_eq_true, decide_eq_true_eq,  List.mem_cons, List.not_mem_nil, or_false, not_or] at h
  obtain ⟨hlt, h1, h2, h3, h4, h5, h6, h7, h8, h9, h10, h11⟩ := h
  have hgo : off ≠ Reg.HST_CMD_GO := by simp only [Reg.HST_CMD_GO]; omega
  have hpop : off ≠ Reg.HST_CFIFO_POP := by simp only [Reg.HST_CFIFO_POP]; omega
  unfold writeHook
  rw [if_neg h1, if_neg h2, if_neg h3, if_neg hgo, if_neg hpop, if_neg h4, if_neg h5, if_neg h6, if_neg h7, if_neg (by omega),
    if_pos hlt]

/-- A whole-word write that is taken at once and accepted stores by its row and does what it does beside. -/
theorem busWrite_of_judged {d : Die} {off v rw' w1c wo : Nat} (htakes : hostTakes d = true) (hswitch : switching d off = false)
    (hjudge : judgeWrite d false off 15 v = 0) (hb : writeBits off = some (rw', w1c, wo)) (hne : rw' + w1c + wo ≠ 0) :
    ∃ r : RegRow, r.rw = rw' ∧ r.w1c = w1c ∧ busWrite off v d = writeHook (writeStore d r off v) off v := by
  simp only [writeBits, Option.map_eq_some_iff, Prod.mk.injEq] at hb
  obtain ⟨x, hfind, hrw, hw1c, hwo⟩ := hb
  have hat : regAt d false off = some x := by
    unfold judgeWrite at hjudge
    split at hjudge
    · exact absurd hjudge (by decide)
    · split at hjudge
      · exact absurd hjudge (by decide)
      · next y hy =>
        simp only [regAt, hfind] at hy ⊢
        split at hy
        · next hc => rw [if_pos hc]
        · exact absurd hy (by simp)
  refine ⟨x.1, hrw, hw1c, ?_⟩
  rw [busWrite, busWriteBe_takes htakes hswitch, hostWrite, hostWriteC, if_neg (by decide)]
  simp only [hjudge, ne_eq, not_true_eq_false, if_false, acceptWrite, hat, Nat.reduceMod, if_true, hrw, hw1c, hwo, hne]

theorem busWrite_of_accepts {s : State} {off v rw' w1c wo : Nat} (ha : accepts s off v)
    (hb : writeBits off = some (rw', w1c, wo)) (hne : rw' + w1c + wo ≠ 0) : ∃ r : RegRow, r.rw = rw' ∧ r.w1c = w1c ∧
      busWrite off v (found s) = writeHook (writeStore (found s) r off v) off v := by
  obtain ⟨htakes, hswitch, hjudge⟩ := ha
  exact busWrite_of_judged htakes hswitch hjudge hb hne

/-- A command that is an accepted whole-word write ends with its store and what the write does beside. -/
theorem ends_of_accepts {i : Instr} {s : State} {P : State → Prop} {off v rw' w1c wo : Nat} (ha : accepts s off v)
    (hi : exec i s = onDie (busWrite off v) s) (hb : writeBits off = some (rw', w1c, wo)) (hne : rw' + w1c + wo ≠ 0)
    (h : ∀ r : RegRow, r.rw = rw' → r.w1c = w1c →
      P { s with die := irqSettle s.die (writeHook (writeStore (found s) r off v) off v) }) : ends i s P := by
  obtain ⟨r, hrw, hw1c, hw⟩ := busWrite_of_accepts ha hb hne
  exact ends_of_onDie hi (hw ▸ h r hrw hw1c)

end Sys2Proof.Machine
end

section
/-! PROOFS. The Pawprint (R164 to R166): the trace queue drains into its buffer, the capture stops, and KNL_PP_CTL is written. -/

namespace Sys2Proof.Machine

open Sys2Proof

/-! One entry is written. -/

/-- The registers that a Pawprint command may change. -/
def ppRegs (o : Nat) : Prop := o = Reg.KNL_PP_CTL ∨ o = Reg.KNL_PP_STAT ∨ o = Reg.KNL_PP_WPTR

/-- The trace queue's oldest entry has gone to the buffer, and WPTR has moved on (R164). -/
def ppStored (d : Die) (x : PPEvt) (rest : List PPEvt) : Die :=
  setFld (updKnl d fun k => { k with buffer := sput 0 k.buffer (fld d Reg.KNL_PP_WPTR_WPTR) (ppEntry x), trace := rest })
    Reg.KNL_PP_WPTR_WPTR (fld d Reg.KNL_PP_WPTR_WPTR + 1)

/-- The entry that fills the buffer is noted (R164, R166). -/
def ppWrapped (d : Die) (i : Nat) : Die :=
  if i = 16383 then updKnl (setFlag d Reg.KNL_PP_STAT_WRAPPED) fun k => { k with ppFull := flag d Reg.KNL_PP_CTL_MODE } else d

/-- The entries after a trigger are counted (R166). -/
def ppCounted (d : Die) : Die :=
  if d.knl.ppTrig then
    updKnl d fun k => { k with ppPost := match k.ppPost with
      | some (n + 1) => some n
      | _ => none }
  else d

/-- The part once the oldest entry is written, before the stop is judged. -/
def ppAfter (d : Die) (x : PPEvt) (rest : List PPEvt) : Die :=
  ppCounted (ppWrapped (ppStored d x rest) (fld d Reg.KNL_PP_WPTR_WPTR))

theorem ppWrite_cons {d : Die} {x : PPEvt} {rest : List PPEvt} (hrun : flag d Reg.KNL_PP_CTL_RUN = true)
    (hpow : powered d 79 = true) (hdue : ppStopDue d = false) (ht : d.knl.trace = x :: rest) :
    ppWrite d = if ppStopDue (ppAfter d x rest) then ppStop (ppAfter d x rest) else ppAfter d x rest := by
  unfold ppWrite
  rw [if_neg (by simp [hrun, hpow]), if_neg (by simp [hdue]), ht]
  rfl

theorem ppWrite_idle {d : Die} (h : flag d Reg.KNL_PP_CTL_RUN = false ∨ powered d 79 = false ∨
    (d.knl.trace = [] ∧ ppStopDue d = false)) : ppWrite d = d := by
  unfold ppWrite
  obtain h | h | ⟨ht, hdue⟩ := h
  · rw [if_pos (by simp [h])]
  · rw [if_pos (by simp [h])]
  · split
    · rfl
    · rw [if_neg (by simp [hdue]), ht]

/-- The registers that hold no Pawprint field that a write of an entry moves. -/
theorem leaves_ppAfter (d : Die) (x : PPEvt) (rest : List PPEvt) :
    Leaves (fun o => o = Reg.KNL_PP_STAT ∨ o = Reg.KNL_PP_WPTR) d (ppAfter d x rest) := by
  unfold ppAfter ppCounted ppWrapped
  split <;> split <;> simp [ppStored, Leaves.refl, Reg.KNL_PP_WPTR_WPTR, Reg.KNL_PP_STAT_WRAPPED]

theorem leaves_ppAfter_of_ne {d : Die} (h : fld d Reg.KNL_PP_WPTR_WPTR ≠ 16383) (x : PPEvt) (rest : List PPEvt) :
    Leaves (· = Reg.KNL_PP_WPTR) d (ppAfter d x rest) := by
  unfold ppAfter ppCounted ppWrapped
  rw [if_neg h]
  split <;> simp [ppStored, Leaves.refl, Reg.KNL_PP_WPTR_WPTR]

theorem keeps_ppAfter (d : Die) (x : PPEvt) (rest : List PPEvt) : Keeps [.regs, .knl] d (ppAfter d x rest) := by
  unfold ppAfter ppCounted ppWrapped
  split <;> split <;> simp [ppStored]

/-- What a written entry leaves of the Kennel: the rest of the queue, the entry at WPTR, and the stop's conditions. -/
theorem knl_ppAfter (d : Die) (x : PPEvt) (rest : List PPEvt) : (ppAfter d x rest).knl =
    { d.knl with
      buffer := sput 0 d.knl.buffer (fld d Reg.KNL_PP_WPTR_WPTR) (ppEntry x)
      trace := rest
      ppFull := if fld d Reg.KNL_PP_WPTR_WPTR = 16383 then flag (ppStored d x rest) Reg.KNL_PP_CTL_MODE else d.knl.ppFull
      ppPost := if d.knl.ppTrig = true then (match d.knl.ppPost with
        | some (n + 1) => some n
        | _ => none) else d.knl.ppPost } := by
  have htrig : (ppWrapped (ppStored d x rest) (fld d Reg.KNL_PP_WPTR_WPTR)).knl.ppTrig = d.knl.ppTrig := by
    unfold ppWrapped
    split <;> rfl
  unfold ppAfter ppCounted
  rw [htrig]
  unfold ppWrapped
  by_cases hi : fld d Reg.KNL_PP_WPTR_WPTR = 16383 <;> by_cases ht : d.knl.ppTrig = true
  · rw [if_pos hi, if_pos hi, if_pos ht, if_pos ht]
    rfl
  · rw [if_pos hi, if_pos hi, if_neg ht, if_neg ht]
    rfl
  · rw [if_neg hi, if_neg hi, if_pos ht, if_pos ht]
    rfl
  · rw [if_neg hi, if_neg hi, if_neg ht, if_neg ht]
    rfl

theorem fld_of_leaves {p : Nat → Prop} {c d : Die} (h : Leaves p c d) (f : Fld) (hf : ¬ p f.off) : fld d f = fld c f := by
  rw [fld, h _ hf, fld]

theorem flag_of_leaves {p : Nat → Prop} {c d : Die} (h : Leaves p c d) (f : Fld) (hf : ¬ p f.off) : flag d f = flag c f := by
  rw [flag, fld_of_leaves h f hf, flag]

theorem flag_ppAfter (d : Die) (x : PPEvt) (rest : List PPEvt) (f : Fld) (h : f.off = Reg.KNL_PP_CTL) :
    flag (ppAfter d x rest) f = flag d f := flag_of_leaves (leaves_ppAfter d x rest) f (by rw [h]; decide)

theorem wptr_ppAfter (d : Die) (x : PPEvt) (rest : List PPEvt) :
    fld (ppAfter d x rest) Reg.KNL_PP_WPTR_WPTR = (fld d Reg.KNL_PP_WPTR_WPTR + 1) % 16384 := by
  have hstored : fld (ppStored d x rest) Reg.KNL_PP_WPTR_WPTR = (fld d Reg.KNL_PP_WPTR_WPTR + 1) % 16384 :=
    fld_setFld_same _ _ _ (by decide)
  have hwrapped : fld (ppWrapped (ppStored d x rest) (fld d Reg.KNL_PP_WPTR_WPTR)) Reg.KNL_PP_WPTR_WPTR =
      fld (ppStored d x rest) Reg.KNL_PP_WPTR_WPTR := by
    unfold ppWrapped
    split
    · exact fld_setFld_ne (ppStored d x rest) Reg.KNL_PP_WPTR_WPTR Reg.KNL_PP_STAT_WRAPPED 1 (by decide)
    · rfl
  rw [← hstored, ← hwrapped]
  unfold ppAfter ppCounted
  split <;> rfl

theorem wrapped_ppAfter {d : Die} (h : fld d Reg.KNL_PP_WPTR_WPTR = 16383) (x : PPEvt) (rest : List PPEvt) :
    flag (ppAfter d x rest) Reg.KNL_PP_STAT_WRAPPED = true := by
  have hset : flag (setFlag (ppStored d x rest) Reg.KNL_PP_STAT_WRAPPED) Reg.KNL_PP_STAT_WRAPPED = true :=
    flag_setFlag_same _ _ (by decide) rfl
  unfold ppAfter ppCounted ppWrapped
  rw [if_pos h]
  split <;> exact hset

/-- The stop after a written entry (R166): the last entry after a trigger, or the one that fills the buffer in MODE 1. -/
theorem ppStopDue_ppAfter {d : Die} (hrun : flag d Reg.KNL_PP_CTL_RUN = true) (x : PPEvt) (rest : List PPEvt) :
    ppStopDue (ppAfter d x rest) = ((d.knl.ppTrig && (match d.knl.ppPost with
        | some (_ + 1) => false
        | _ => true)) ||
      (if fld d Reg.KNL_PP_WPTR_WPTR = 16383 then flag d Reg.KNL_PP_CTL_MODE else d.knl.ppFull)) := by
  have hmode : flag (ppStored d x rest) Reg.KNL_PP_CTL_MODE = flag d Reg.KNL_PP_CTL_MODE :=
    flag_setFld_ne (updKnl d _) Reg.KNL_PP_CTL_MODE Reg.KNL_PP_WPTR_WPTR _ (by decide)
  rw [ppStopDue, flag_ppAfter d x rest _ rfl, hrun, knl_ppAfter, hmode, Bool.true_and]
  cases ht : d.knl.ppTrig
  · rfl
  · rcases d.knl.ppPost with _ | _ | n <;> rfl

/-! Capture stops. -/

theorem leaves_ppStop (d : Die) : Leaves (fun o => o = Reg.KNL_PP_CTL ∨ o = Reg.KNL_PP_STAT) d (ppStop d) := by
  simp [ppStop, Leaves.refl, Reg.KNL_PP_CTL_RUN, Reg.KNL_PP_STAT_RUNNING]

theorem keeps_ppStop (d : Die) : Keeps [.regs, .knl] d (ppStop d) := by
  simp [ppStop]

theorem knl_ppStop (d : Die) : (ppStop d).knl = { d.knl with trace := [], ppPost := none, ppTrig := false, ppFull := false } := rfl

theorem run_ppStop (d : Die) : flag (ppStop d) Reg.KNL_PP_CTL_RUN = false := by
  have h : fld (ppStop d) Reg.KNL_PP_CTL_RUN = 0 :=
    (fld_setFld_ne (setFld d Reg.KNL_PP_CTL_RUN 0) Reg.KNL_PP_CTL_RUN Reg.KNL_PP_STAT_RUNNING 0 (by decide)).trans
      (fld_setFld_same _ _ _ (by decide))
  rw [flag, h]
  rfl

theorem running_ppStop (d : Die) : flag (ppStop d) Reg.KNL_PP_STAT_RUNNING = false := by
  have h : fld (ppStop d) Reg.KNL_PP_STAT_RUNNING = 0 := fld_setFld_same _ _ _ (by decide)
  rw [flag, h]
  rfl

/-- Capture has stopped, and nothing waits to be written (R166). -/
def Stopped (d : Die) : Prop :=
  flag d Reg.KNL_PP_CTL_RUN = false ∧ flag d Reg.KNL_PP_STAT_RUNNING = false ∧ d.knl.trace = []

theorem flag_irqSettle (c d : Die) (f : Fld) : flag (irqSettle c d) f = flag d f := by rw [flag, fld_irqSettle, flag]

theorem stopped_ppStop (c d : Die) : Stopped (irqSettle c (ppStop d)) := by
  refine ⟨?_, ?_, ?_⟩
  · rw [flag_irqSettle, run_ppStop]
  · rw [flag_irqSettle, running_ppStop]
  · rw [irqSettle_knl, knl_ppStop]

/-! The drain. -/

/-- The entries `xs` stand in the buffer from WPTR on, and the rest of the buffer is as before. -/
def Wrote (d e : Die) (xs : List PPEvt) : Prop := ∀ i, sget 0 e.knl.buffer i =
  if fld d Reg.KNL_PP_WPTR_WPTR ≤ i ∧ i < fld d Reg.KNL_PP_WPTR_WPTR + xs.length then
    ((xs[i - fld d Reg.KNL_PP_WPTR_WPTR]?).map ppEntry).getD 0 else sget 0 d.knl.buffer i

/-- The queue `xs` has gone to the buffer at WPTR: what drained of it, and what stands. -/
structure Drained (d e : Die) (xs rest : List PPEvt) : Prop where
  trace : e.knl.trace = rest
  written : Wrote d e xs
  wptr : fld e Reg.KNL_PP_WPTR_WPTR = fld d Reg.KNL_PP_WPTR_WPTR + xs.length
  leaves : Leaves (· = Reg.KNL_PP_WPTR) d e
  keeps : Keeps [.regs, .knl] d e

theorem Drained.nil {d : Die} {rest : List PPEvt} (h : d.knl.trace = rest) : Drained d d [] rest :=
  ⟨h, fun i => by rw [if_neg (by simp)], rfl, .refl _ _, .refl _ _⟩

/-- The entry at WPTR once it is written, the others as before. -/
theorem written_one (d : Die) (x : PPEvt) (rest : List PPEvt) (i : Nat) : sget 0 (ppAfter d x rest).knl.buffer i =
    if i = fld d Reg.KNL_PP_WPTR_WPTR then ppEntry x else sget 0 d.knl.buffer i := by
  rw [knl_ppAfter]
  show sget 0 (sput 0 d.knl.buffer _ _) i = _
  split
  · next h => rw [h, sget_sput_same]
  · next h => rw [sget_sput_ne 0 0 _ _ h]

theorem wrote_ppAfter (d : Die) (x : PPEvt) (rest : List PPEvt) : Wrote d (ppAfter d x rest) [x] := fun i => by
  rw [written_one]
  by_cases hi : i = fld d Reg.KNL_PP_WPTR_WPTR
  · rw [if_pos hi, if_pos (by simp [hi]), hi, Nat.sub_self]
    rfl
  · rw [if_neg hi, if_neg (by simp; omega)]

theorem powered_of_keeps {ps : List Part} {c d : Die} (h : Keeps ps c d) (hp : .pwr ∉ ps) (n : Nat) : powered d n = powered c n := by
  have hpwr : d.pwr = c.pwr := h .pwr hp
  rw [powered, hpwr, powered]

/-- Writes without a stop: as many entries as there are turns, or all of them (R165). -/
theorem drained {β : Type} (l : List β) {d : Die} {xs rest : List PPEvt} (hrun : flag d Reg.KNL_PP_CTL_RUN = true)
    (hpow : powered d 79 = true) (htrig : d.knl.ppTrig = false) (hfull : d.knl.ppFull = false) (ht : d.knl.trace = xs ++ rest)
    (hlen : xs.length ≤ l.length) (hall : xs.length = l.length ∨ rest = []) (hroom : fld d Reg.KNL_PP_WPTR_WPTR + xs.length < 16384) :
    Drained d (l.foldl (fun d _ => ppWrite d) d) xs rest := by
  have hdue : ppStopDue d = false := by simp [ppStopDue, htrig, hfull]
  induction l generalizing d xs with
  | nil =>
    obtain rfl := List.length_eq_zero_iff.1 (Nat.le_zero.1 hlen)
    exact .nil ht
  | cons y l ih =>
    rw [List.foldl_cons]
    cases xs with
    | nil =>
      obtain rfl : rest = [] := hall.resolve_left (by simp)
      rw [ppWrite_idle (.inr (.inr ⟨ht, hdue⟩))]
      exact ih hrun hpow htrig hfull ht (by simp) (.inr rfl) hroom hdue
    | cons x xs =>
      have hi : fld d Reg.KNL_PP_WPTR_WPTR ≠ 16383 := by simp at hroom; omega
      have hstop : ppStopDue (ppAfter d x (xs ++ rest)) = false := by
        rw [ppStopDue_ppAfter hrun, htrig, if_neg hi, hfull]
        rfl
      have hw : ppWrite d = ppAfter d x (xs ++ rest) := by
        rw [ppWrite_cons (rest := xs ++ rest) hrun hpow hdue ht, hstop]
        rfl
      have hk := keeps_ppAfter d x (xs ++ rest)
      have hptr : fld (ppAfter d x (xs ++ rest)) Reg.KNL_PP_WPTR_WPTR = fld d Reg.KNL_PP_WPTR_WPTR + 1 := by
        rw [wptr_ppAfter, Nat.mod_eq_of_lt (by simp at hroom; omega)]
      have hrest := ih (d := ppAfter d x (xs ++ rest)) (xs := xs) ((flag_ppAfter _ _ _ _ rfl).trans hrun)
        ((powered_of_keeps hk (by simp) _).trans hpow) (by rw [knl_ppAfter]; exact htrig)
        (by rw [knl_ppAfter]; exact (if_neg hi).trans hfull) (by rw [knl_ppAfter]) (by simpa using hlen)
        (hall.imp_left fun h => by simpa using h) (by rw [hptr]; simp at hroom; omega) hstop
      rw [hw]
      refine ⟨hrest.trace, fun i => ?_, ?_, (leaves_ppAfter_of_ne hi x _).trans hrest.leaves, hk.trans hrest.keeps⟩
      · rw [hrest.written, hptr, written_one]
        by_cases hlow : i = fld d Reg.KNL_PP_WPTR_WPTR
        · rw [if_neg (by omega), if_pos hlow, if_pos (by simp; omega), hlow, Nat.sub_self]
          rfl
        · rw [if_neg hlow]
          by_cases hin : fld d Reg.KNL_PP_WPTR_WPTR + 1 ≤ i ∧ i < fld d Reg.KNL_PP_WPTR_WPTR + 1 + xs.length
          · rw [if_pos hin, if_pos (by simp; omega), show i - fld d Reg.KNL_PP_WPTR_WPTR =
              i - (fld d Reg.KNL_PP_WPTR_WPTR + 1) + 1 by omega]
            rfl
          · rw [if_neg hin, if_neg (by simp; omega)]
      · rw [hrest.wptr, hptr, List.length_cons]
        omega

/-- Turns that find nothing to do. -/
theorem foldl_ppWrite_idle {β : Type} (l : List β) {d : Die} (h : ppWrite d = d) : l.foldl (fun d _ => ppWrite d) d = d := by
  induction l with
  | nil => rfl
  | cons y l ih => rw [List.foldl_cons, h, ih]


/-- The drain, a turn at a time. -/
def drainPawprint (d : Die) : Die := (upto 4).foldl (fun d _ => ppWrite d) d

theorem exec_pawprintDrain (s : State) : exec .pawprintDrain s = onDie drainPawprint s := rfl

theorem drainPawprint_eq (d : Die) : drainPawprint d = [1, 2, 3].foldl (fun d _ => ppWrite d) (ppWrite d) := rfl

/-- Up to four entries drain, oldest first (R165). -/
theorem ends_drain {s : State} {xs rest : List PPEvt} (hrun : flag s.die Reg.KNL_PP_CTL_RUN = true)
    (hpow : powered s.die 79 = true) (htrig : s.die.knl.ppTrig = false) (hfull : s.die.knl.ppFull = false)
    (ht : s.die.knl.trace = xs ++ rest) (hlen : xs.length ≤ 4) (hall : xs.length = 4 ∨ rest = [])
    (hroom : fld s.die Reg.KNL_PP_WPTR_WPTR + xs.length < 16384) :
    ends .pawprintDrain s fun t => t.die.knl.trace = rest ∧
      Wrote s.die t.die xs ∧
      fld t.die Reg.KNL_PP_WPTR_WPTR = fld s.die Reg.KNL_PP_WPTR_WPTR + xs.length ∧
      keepsBut [.regs, .knl] s t ∧ regsBut (· = Reg.KNL_PP_WPTR) s t := by
  have h : Drained (found s) (drainPawprint (found s)) xs rest := drained (upto 4) hrun hpow htrig hfull ht hlen hall hroom
  refine ends_of_onDie (exec_pawprintDrain s) ⟨?_, fun i => ?_, ?_, keepsBut_command h.keeps, regsBut_command h.leaves⟩
  · show (irqSettle s.die _).knl.trace = _
    rw [irqSettle_knl]
    exact h.trace
  · show sget 0 (irqSettle s.die _).knl.buffer i = _
    rw [irqSettle_knl]
    exact h.written i
  · exact (fld_irqSettle ..).trans h.wptr

/-- A drain that writes one entry and then stands: the state after the entry, or after the stop. -/
theorem ends_drain_one {s : State} {e : Die} {P : State → Prop}
    (hw : ppWrite (found s) = e) (hidle : ppWrite e = e) (h : P { s with die := irqSettle s.die e }) : ends .pawprintDrain s P := by
  refine ends_of_onDie (exec_pawprintDrain s) ?_
  rw [drainPawprint_eq, hw, foldl_ppWrite_idle _ hidle]
  exact h

theorem ppStopDue_eq_true {d : Die} (hrun : flag d Reg.KNL_PP_CTL_RUN = true) :
    ppStopDue d = true ↔ (d.knl.ppTrig = true ∧ d.knl.ppPost = none) ∨ d.knl.ppFull = true := by
  simp [ppStopDue, hrun]

/-- In MODE 0 the entry that fills the buffer wraps WPTR, and capture goes on (R164). -/
theorem ends_drain_wrapping {s : State} {x : PPEvt} (hrun : flag s.die Reg.KNL_PP_CTL_RUN = true)
    (hpow : powered s.die 79 = true) (htrig : s.die.knl.ppTrig = false) (hfull : s.die.knl.ppFull = false)
    (hmode : flag s.die Reg.KNL_PP_CTL_MODE = false) (ht : s.die.knl.trace = [x]) (hi : fld s.die Reg.KNL_PP_WPTR_WPTR = 16383) :
    ends .pawprintDrain s fun t => t.die.knl.trace = [] ∧
      Wrote s.die t.die [x] ∧
      fld t.die Reg.KNL_PP_WPTR_WPTR = 0 ∧ flag t.die Reg.KNL_PP_STAT_WRAPPED = true ∧
      flag t.die Reg.KNL_PP_CTL_RUN = true ∧ keepsBut [.regs, .knl] s t ∧ regsBut ppRegs s t := by
  have hrun' : flag (found s) Reg.KNL_PP_CTL_RUN = true := hrun
  have hpow' : powered (found s) 79 = true := hpow
  have hdue : ppStopDue (found s) = false := by simp [ppStopDue, found, htrig, hfull]
  have hstop : ppStopDue (ppAfter (found s) x []) = false := by
    rw [ppStopDue_ppAfter hrun', show (found s).knl.ppTrig = false from htrig, if_pos (show fld (found s) _ = 16383 from hi),
      show flag (found s) Reg.KNL_PP_CTL_MODE = false from hmode]
    rfl
  have hw : ppWrite (found s) = ppAfter (found s) x [] := by
    rw [ppWrite_cons (rest := []) hrun' hpow' hdue ht, hstop]
    rfl
  have hidle : ppWrite (ppAfter (found s) x []) = ppAfter (found s) x [] :=
    ppWrite_idle (.inr (.inr ⟨by rw [knl_ppAfter], hstop⟩))
  refine ends_drain_one hw hidle ⟨?_, fun i => ?_, ?_, ?_, ?_, keepsBut_command (keeps_ppAfter _ _ _),
    regsBut_command ((leaves_ppAfter _ _ _).mono fun o ho => .inr ho)⟩
  · show (irqSettle s.die _).knl.trace = _
    rw [irqSettle_knl, knl_ppAfter]
  · show sget 0 (irqSettle s.die _).knl.buffer i = _
    rw [irqSettle_knl]
    exact wrote_ppAfter (found s) x [] i
  · refine (fld_irqSettle ..).trans ((wptr_ppAfter ..).trans ?_)
    rw [show fld (found s) Reg.KNL_PP_WPTR_WPTR = 16383 from hi]
  · rw [flag_irqSettle]
    exact wrapped_ppAfter (d := found s) hi x []
  · rw [flag_irqSettle]
    exact (flag_ppAfter _ _ _ _ rfl).trans hrun

/-- The last entry after a trigger, and in MODE 1 the one that fills the buffer, stop the capture (R166). -/
theorem ends_drain_stopping {s : State} {x : PPEvt} {rest : List PPEvt} (hrun : flag s.die Reg.KNL_PP_CTL_RUN = true)
    (hpow : powered s.die 79 = true) (hfull : s.die.knl.ppFull = false) (ht : s.die.knl.trace = x :: rest)
    (hlast : (s.die.knl.ppTrig = true ∧ s.die.knl.ppPost = some 0) ∨
      (s.die.knl.ppTrig = false ∧ flag s.die Reg.KNL_PP_CTL_MODE = true ∧ fld s.die Reg.KNL_PP_WPTR_WPTR = 16383)) :
    ends .pawprintDrain s fun t => Stopped t.die ∧
      Wrote s.die t.die [x] ∧
      fld t.die Reg.KNL_PP_WPTR_WPTR = (fld s.die Reg.KNL_PP_WPTR_WPTR + 1) % 16384 ∧ keepsBut [.regs, .knl] s t ∧
      regsBut ppRegs s t := by
  have hrun' : flag (found s) Reg.KNL_PP_CTL_RUN = true := hrun
  have hpow' : powered (found s) 79 = true := hpow
  have hdue : ppStopDue (found s) = false := by
    obtain ⟨-, hpost⟩ | ⟨htrig, -⟩ := hlast
    · simp [ppStopDue, found, hpost, hfull]
    · simp [ppStopDue, found, htrig, hfull]
  have hstop : ppStopDue (ppAfter (found s) x rest) = true := by
    rw [ppStopDue_ppAfter hrun']
    obtain ⟨htrig, hpost⟩ | ⟨-, hmode, hi⟩ := hlast
    · simp [found, htrig, hpost]
    · rw [if_pos (show fld (found s) _ = 16383 from hi), show flag (found s) Reg.KNL_PP_CTL_MODE = true from hmode, Bool.or_true]
  have hw : ppWrite (found s) = ppStop (ppAfter (found s) x rest) := by
    rw [ppWrite_cons hrun' hpow' hdue ht, hstop]
    rfl
  refine ends_drain_one hw (ppWrite_idle (.inl (run_ppStop _))) ⟨stopped_ppStop _ _, fun i => ?_, ?_,
    keepsBut_command ((keeps_ppAfter _ _ _).trans (keeps_ppStop _)), regsBut_command
      (((leaves_ppAfter _ _ _).mono fun o ho => .inr ho).trans ((leaves_ppStop _).mono fun o ho => ho.imp_right .inl))⟩
  · show sget 0 (irqSettle s.die _).knl.buffer i = _
    rw [irqSettle_knl, knl_ppStop]
    exact wrote_ppAfter (found s) x rest i
  · exact (fld_irqSettle ..).trans ((fld_of_leaves (leaves_ppStop _) _ (by decide)).trans (wptr_ppAfter ..))

theorem ends_drain_idle {s : State} (h : flag s.die Reg.KNL_PP_CTL_RUN = false ∨ powered s.die 79 = false ∨
    (s.die.knl.trace = [] ∧ ¬ ((s.die.knl.ppTrig = true ∧ s.die.knl.ppPost = none) ∨ s.die.knl.ppFull = true))) :
    ends .pawprintDrain s (keepsBut [] s) := by
  have hidle : ppWrite (found s) = found s := by
    refine ppWrite_idle ?_
    obtain h | h | ⟨ht, hdue⟩ := h
    · exact .inl h
    · exact .inr (.inl h)
    · cases hrun : flag s.die Reg.KNL_PP_CTL_RUN
      · exact .inl hrun
      · exact .inr (.inr ⟨ht, Bool.eq_false_iff.2 fun hd => hdue ((ppStopDue_eq_true (d := found s) hrun).1 hd)⟩)
  exact ends_idle (exec_pawprintDrain s) (foldl_ppWrite_idle (upto 4) hidle) []

/-! The stop. -/

theorem ends_stop {s : State} (hrun : flag s.die Reg.KNL_PP_CTL_RUN = true)
    (hdue : (s.die.knl.ppTrig = true ∧ s.die.knl.ppPost = none) ∨ s.die.knl.ppFull = true) : ends .pawprintStop s fun t =>
      Stopped t.die ∧
      t.die.knl.buffer = s.die.knl.buffer ∧ fld t.die Reg.KNL_PP_WPTR_WPTR = fld s.die Reg.KNL_PP_WPTR_WPTR ∧
      keepsBut [.regs, .knl] s t ∧ regsBut (fun o => o = Reg.KNL_PP_CTL ∨ o = Reg.KNL_PP_STAT) s t := by
  have hd : ppStopDue (found s) = true := (ppStopDue_eq_true (d := found s) hrun).2 hdue
  refine ends_of_onDie (f := fun d => if ppStopDue d then ppStop d else d) rfl ?_
  rw [if_pos hd]
  refine ⟨stopped_ppStop _ _, ?_, ?_, keepsBut_command (keeps_ppStop _), regsBut_command (leaves_ppStop _)⟩
  · show (irqSettle s.die _).knl.buffer = _
    rw [irqSettle_knl, knl_ppStop]
    rfl
  · exact (fld_irqSettle ..).trans (fld_of_leaves (leaves_ppStop (found s)) _ (by decide))

theorem ends_stop_idle {s : State} (h : flag s.die Reg.KNL_PP_CTL_RUN = false ∨
    ¬ ((s.die.knl.ppTrig = true ∧ s.die.knl.ppPost = none) ∨ s.die.knl.ppFull = true)) :
    ends .pawprintStop s (keepsBut [] s) := by
  have hd : ppStopDue (found s) = false := by
    cases hrun : flag s.die Reg.KNL_PP_CTL_RUN
    · rw [ppStopDue, show flag (found s) Reg.KNL_PP_CTL_RUN = false from hrun, Bool.false_and]
    · exact Bool.eq_false_iff.2 fun hd => h.resolve_left (by simp [hrun]) ((ppStopDue_eq_true (d := found s) hrun).1 hd)
  exact ends_idle (f := fun d => if ppStopDue d then ppStop d else d) rfl (if_neg (by simp [hd])) []

/-! A write of KNL_PP_CTL. -/

/-- KNL_PP_CTL holds the value written. -/
def ppCtlStored (d : Die) (v : Nat) : Die := putReg d Reg.KNL_PP_CTL (BitVec.ofNat 32 (v &&& 0x3FFF000F))

theorem fld_ppCtlStored (d : Die) (v : Nat) (f : Fld) (hoff : f.off = Reg.KNL_PP_CTL)
    (hbits : ∀ i < f.w, (0x3FFF000F : Nat).testBit (f.lo + i) = true ∧ f.lo + i < 32) :
    fld (ppCtlStored d v) f = bitsOf v f.lo f.w := by
  rw [fld, ppCtlStored, hoff, getReg_putReg_same, BitVec.toNat_ofNat]
  refine Nat.eq_of_testBit_eq fun i => ?_
  rw [testBit_bitsOf, testBit_bitsOf, Nat.testBit_mod_two_pow, Nat.testBit_and]
  by_cases hi : i < f.w
  · simp [hi, (hbits i hi).1, (hbits i hi).2]
  · simp [hi]

theorem bitOf_eq_bitsOf (x i : Nat) : bitOf x i = (bitsOf x i 1 == 1) := rfl

/-- WPTR is at the start of the buffer, and nothing has triggered or wrapped. -/
def ppRewound (d : Die) : Die :=
  setFld (setFld (setFld d Reg.KNL_PP_STAT_TRIGGERED 0) Reg.KNL_PP_STAT_WRAPPED 0) Reg.KNL_PP_WPTR_WPTR 0

/-- A capture that starts afresh (R166). -/
def ppFresh (d : Die) : Die :=
  updKnl (setFlag (ppRewound d) Reg.KNL_PP_STAT_RUNNING) fun k =>
    { k with trace := [], ppPost := none, ppTrig := false, ppFull := false }

/-- A capture that goes on counts its entries after the trigger anew (R166). -/
def ppRecount (d : Die) : Die :=
  if d.knl.ppTrig then updKnl d fun k => { k with ppPost := some (fld d Reg.KNL_PP_CTL_POSTCNT -
    (fld d Reg.KNL_PP_WPTR_WPTR + 16384 - fld d Reg.KNL_PP_TRIGIDX_TRIGIDX) % 16384) } else d

theorem ppCtlWrite_eq (d : Die) (v : Nat) : ppCtlWrite d v = if bitOf v 0 = false then ppStop (ppCtlStored d v)
    else if flag d Reg.KNL_PP_CTL_RUN = true then ppRecount (ppCtlStored d v) else ppFresh (ppCtlStored d v) := by
  cases hv : bitOf v 0
  · simp [ppCtlWrite, hv, ppCtlStored]
  · simp only [ppCtlWrite, hv, Bool.not_true, Bool.false_eq_true, if_false, Bool.true_eq_false]
    rfl


/-- A field of KNL_PP_CTL beside RUN stands at a stop. -/
theorem fld_ppStop_ctl (d : Die) (f : Fld) (hoff : f.off = Reg.KNL_PP_CTL) (hlo : 1 ≤ f.lo) : fld (ppStop d) f = fld d f :=
  (fld_setFld_ne (setFld d Reg.KNL_PP_CTL_RUN 0) f Reg.KNL_PP_STAT_RUNNING 0 (by rw [hoff]; decide)).trans
    (fld_setFld_above d f Reg.KNL_PP_CTL_RUN 0 hoff hlo (by decide))

theorem leaves_ppFresh (d : Die) : Leaves (fun o => o = Reg.KNL_PP_STAT ∨ o = Reg.KNL_PP_WPTR) d (ppFresh d) := by
  simp [ppFresh, ppRewound, Leaves.refl, Reg.KNL_PP_WPTR_WPTR, Reg.KNL_PP_STAT_RUNNING, Reg.KNL_PP_STAT_TRIGGERED,
    Reg.KNL_PP_STAT_WRAPPED]

theorem keeps_ppFresh (d : Die) : Keeps [.regs, .knl] d (ppFresh d) := by simp [ppFresh, ppRewound]

theorem fld_ppRewound (d : Die) : fld (ppRewound d) Reg.KNL_PP_WPTR_WPTR = 0 ∧ fld (ppRewound d) Reg.KNL_PP_STAT_WRAPPED = 0 ∧
    fld (ppRewound d) Reg.KNL_PP_STAT_TRIGGERED = 0 := by
  unfold ppRewound
  refine ⟨fld_setFld_same _ _ _ (by decide), ?_, ?_⟩
  · rw [fld_setFld_ne _ _ _ _ (by decide), fld_setFld_same _ _ _ (by decide)]
    rfl
  · rw [fld_setFld_ne _ _ _ _ (by decide),
      fld_setFld_below _ Reg.KNL_PP_STAT_TRIGGERED Reg.KNL_PP_STAT_WRAPPED _ rfl (by decide) (by decide), fld_setFld_same _ _ _ (by decide)]
    rfl

theorem fld_updKnl (d : Die) (g : Kennel → Kennel) (f : Fld) : fld (updKnl d g) f = fld d f := rfl

theorem fld_ppFresh (d : Die) (f : Fld) : fld (ppFresh d) f = fld (setFlag (ppRewound d) Reg.KNL_PP_STAT_RUNNING) f :=
  fld_updKnl _ _ f

theorem wptr_ppFresh (d : Die) : fld (ppFresh d) Reg.KNL_PP_WPTR_WPTR = 0 := by
  rw [fld_ppFresh, setFlag, fld_setFld_ne _ _ _ _ (by decide)]
  exact (fld_ppRewound d).1

theorem stat_ppFresh (d : Die) : flag (ppFresh d) Reg.KNL_PP_STAT_RUNNING = true ∧
    flag (ppFresh d) Reg.KNL_PP_STAT_TRIGGERED = false ∧ flag (ppFresh d) Reg.KNL_PP_STAT_WRAPPED = false := by
  obtain ⟨-, hwrap, htrig⟩ := fld_ppRewound d
  refine ⟨?_, ?_, ?_⟩
  · rw [flag, fld_ppFresh, setFlag, fld_setFld_same _ _ _ (by decide)]
    rfl
  · rw [flag, fld_ppFresh, setFlag,
      fld_setFld_above _ Reg.KNL_PP_STAT_TRIGGERED Reg.KNL_PP_STAT_RUNNING _ rfl (by decide) (by decide), htrig]
    rfl
  · rw [flag, fld_ppFresh, setFlag,
      fld_setFld_above _ Reg.KNL_PP_STAT_WRAPPED Reg.KNL_PP_STAT_RUNNING _ rfl (by decide) (by decide), hwrap]
    rfl

theorem regs_ppRecount (d : Die) : (ppRecount d).regs = d.regs := by
  unfold ppRecount
  split <;> rfl

theorem knl_ppRecount (d : Die) : (ppRecount d).knl.buffer = d.knl.buffer ∧ (ppRecount d).knl.trace = d.knl.trace := by
  unfold ppRecount
  split <;> exact ⟨rfl, rfl⟩

theorem keeps_ppRecount (d : Die) : Keeps [.regs, .knl] d (ppRecount d) := by
  unfold ppRecount
  split
  · simp
  · exact .refl _ _

/-- What a write of KNL_PP_CTL leaves in every case. -/
theorem ppCtlWrite_frame (d : Die) (v : Nat) : (ppCtlWrite d v).knl.buffer = d.knl.buffer ∧
    Keeps [.regs, .knl] d (ppCtlWrite d v) ∧ Leaves ppRegs d (ppCtlWrite d v) := by
  have hleaves : Leaves ppRegs d (ppCtlStored d v) := (leaves_putReg (p := ppRegs) d d (.inl rfl) _).2 (.refl _ _)
  have hkeeps : Keeps [.regs, .knl] d (ppCtlStored d v) := by simp [ppCtlStored]
  rw [ppCtlWrite_eq]
  split
  · exact ⟨rfl, hkeeps.trans (keeps_ppStop _), hleaves.trans ((leaves_ppStop _).mono fun o ho => ho.imp_right .inl)⟩
  · split
    · exact ⟨(knl_ppRecount _).1, hkeeps.trans (keeps_ppRecount _), hleaves.trans (.of_regs (regs_ppRecount _))⟩
    · exact ⟨rfl, hkeeps.trans (keeps_ppFresh _), hleaves.trans ((leaves_ppFresh _).mono fun o ho => .inr ho)⟩

/-- KNL_PP_CTL reads as it was written. -/
theorem fld_ppCtlWrite (d : Die) (v : Nat) (f : Fld) (hoff : f.off = Reg.KNL_PP_CTL)
    (hbits : ∀ i < f.w, (0x3FFF000F : Nat).testBit (f.lo + i) = true ∧ f.lo + i < 32)
    (hrun : f = Reg.KNL_PP_CTL_RUN ∨ 1 ≤ f.lo) : fld (ppCtlWrite d v) f = bitsOf v f.lo f.w := by
  rw [← fld_ppCtlStored d v f hoff hbits, ppCtlWrite_eq]
  split
  · next hv =>
    obtain rfl | hlo := hrun
    · rw [fld_ppCtlStored d v _ hoff hbits]
      have hoffRun : fld (ppStop (ppCtlStored d v)) Reg.KNL_PP_CTL_RUN ≠ 1 := fun h => by
        have h0 := run_ppStop (ppCtlStored d v)
        rw [flag, h] at h0
        exact absurd h0 (by decide)
      have hlt : fld (ppStop (ppCtlStored d v)) Reg.KNL_PP_CTL_RUN < 2 ^ 1 := bitsOf_lt ..
      have hv' : bitsOf v 0 1 ≠ 1 := fun h => by
        rw [bitOf_eq_bitsOf, h] at hv
        exact absurd hv (by decide)
      have hvlt : bitsOf v 0 1 < 2 ^ 1 := bitsOf_lt ..
      show _ = bitsOf v 0 1
      omega
    · exact fld_ppStop_ctl _ f hoff hlo
  · split
    · rw [fld, getReg, regs_ppRecount]
      rfl
    · exact fld_of_leaves (leaves_ppFresh _) f (by rw [hoff]; decide)

theorem writeHook_ppCtl (d : Die) (r : RegRow) (v : Nat) :
    writeHook (writeStore d r Reg.KNL_PP_CTL v) Reg.KNL_PP_CTL v = ppCtlWrite d v := rfl

theorem ends_ppCtlWrite {s : State} {v : Word} (ha : accepts s Reg.KNL_PP_CTL v.toNat) : ends (.pawprintCtlWrite v) s fun t =>
    t.die.knl.buffer = s.die.knl.buffer ∧ keepsBut [.regs, .knl] s t ∧ regsBut ppRegs s t ∧
    flag t.die Reg.KNL_PP_CTL_RUN = bitOf v.toNat 0 ∧ flag t.die Reg.KNL_PP_CTL_MODE = bitOf v.toNat 1 ∧
    fld t.die Reg.KNL_PP_CTL_TRIG = bitsOf v.toNat 2 2 ∧ fld t.die Reg.KNL_PP_CTL_POSTCNT = bitsOf v.toNat 16 14 ∧
    (bitOf v.toNat 0 = false → Stopped t.die ∧ fld t.die Reg.KNL_PP_WPTR_WPTR = fld s.die Reg.KNL_PP_WPTR_WPTR) ∧
    (bitOf v.toNat 0 = true → flag s.die Reg.KNL_PP_CTL_RUN = true → t.die.knl.trace = s.die.knl.trace ∧
      fld t.die Reg.KNL_PP_WPTR_WPTR = fld s.die Reg.KNL_PP_WPTR_WPTR ∧
      getReg t.die Reg.KNL_PP_STAT = getReg s.die Reg.KNL_PP_STAT) ∧
    (bitOf v.toNat 0 = true → flag s.die Reg.KNL_PP_CTL_RUN = false → t.die.knl.trace = [] ∧
      fld t.die Reg.KNL_PP_WPTR_WPTR = 0 ∧
      flag t.die Reg.KNL_PP_STAT_RUNNING = true ∧ flag t.die Reg.KNL_PP_STAT_TRIGGERED = false ∧
      flag t.die Reg.KNL_PP_STAT_WRAPPED = false) := by
  refine ends_of_accepts ha rfl (rw' := 0x3FFF000F) (w1c := 0) (wo := 0) (by decide +kernel) (by decide) fun r _ _ => ?_
  rw [writeHook_ppCtl]
  obtain ⟨hbuffer, hkeeps, hleaves⟩ := ppCtlWrite_frame (found s) v.toNat
  have hstored : Leaves (· = Reg.KNL_PP_CTL) (found s) (ppCtlStored (found s) v.toNat) :=
    (leaves_putReg (p := (· = Reg.KNL_PP_CTL)) _ _ rfl _).2 (.refl _ _)
  refine ⟨?_, keepsBut_command hkeeps, regsBut_command hleaves, ?_, ?_, ?_, ?_, fun hv => ?_, fun hv hrun => ?_, fun hv hrun => ?_⟩
  · exact (congrArg Kennel.buffer (irqSettle_knl ..)).trans hbuffer
  · rw [flag_irqSettle, flag, fld_ppCtlWrite _ _ _ rfl (by decide) (.inl rfl)]
    rfl
  · rw [flag_irqSettle, flag, fld_ppCtlWrite _ _ _ rfl (by decide) (.inr (by decide))]
    rfl
  · rw [fld_irqSettle, fld_ppCtlWrite _ _ _ rfl (by decide) (.inr (by decide))]
    rfl
  · rw [fld_irqSettle, fld_ppCtlWrite _ _ _ rfl (by decide) (.inr (by decide))]
    rfl
  · rw [ppCtlWrite_eq, if_pos hv]
    exact ⟨stopped_ppStop _ _, (fld_irqSettle ..).trans
      ((fld_of_leaves (leaves_ppStop _) _ (by decide)).trans (fld_of_leaves hstored _ (by decide)))⟩
  · rw [ppCtlWrite_eq, if_neg (by simp [hv]), if_pos (show flag (found s) _ = true from hrun)]
    have hsame : Leaves (· = Reg.KNL_PP_CTL) (found s) (ppRecount (ppCtlStored (found s) v.toNat)) :=
      hstored.trans (.of_regs (regs_ppRecount _))
    exact ⟨(congrArg Kennel.trace (irqSettle_knl ..)).trans (knl_ppRecount _).2,
      (fld_irqSettle ..).trans (fld_of_leaves hsame _ (by decide)), (getReg_irqSettle ..).trans (hsame _ (by decide))⟩
  · rw [ppCtlWrite_eq, if_neg (by simp [hv]), if_neg (by rw [show flag (found s) _ = false from hrun]; decide)]
    obtain ⟨hrunning, htrig, hwrap⟩ := stat_ppFresh (ppCtlStored (found s) v.toNat)
    exact ⟨congrArg Kennel.trace (irqSettle_knl ..), (fld_irqSettle ..).trans (wptr_ppFresh _),
      (flag_irqSettle ..).trans hrunning, (flag_irqSettle ..).trans htrig, (flag_irqSettle ..).trans hwrap⟩

/-- Settles O17: a turn of the drain is read off what one written entry leaves; the drain is an induction over its turns. -/
theorem pawprintCapture : Obligations.PawprintCapture :=
  ⟨fun _ _ _ hrun hpow htrig hfull ht hlen hall hroom => ends_drain hrun hpow htrig hfull ht hlen hall hroom,
    fun _ _ hrun hpow htrig hfull hmode ht hi => ends_drain_wrapping hrun hpow htrig hfull hmode ht hi,
    fun _ _ _ hrun hpow hfull ht hlast => ends_drain_stopping hrun hpow hfull ht hlast,
    fun _ h => ends_drain_idle h,
    fun _ hrun hdue => ends_stop hrun hdue,
    fun _ h => ends_stop_idle h,
    fun _ _ ha => ends_ppCtlWrite ha,
    fun _ v hup => ends_idle (f := busWrite Reg.KNL_PP_CTL v.toNat) rfl (busWriteBe_down hup _ _ _) []⟩

end Sys2Proof.Machine
end

section
/-! PROOFS. Accepted writes of beat, axis and segment parameters (R31, R38, R58, R114, R118, R123, R138, R141, R215). -/

namespace Sys2Proof.Machine

open Sys2Proof

/-- An accepted whole-word write of a value that the command reads from the part. -/
theorem ends_of_accepts_at {i : Instr} {s : State} {P : State → Prop} {f : Die → Die} {off v rw' w1c wo : Nat}
    (ha : accepts s off v) (hi : exec i s = onDie f s) (hf : f (found s) = busWrite off v (found s))
    (hb : writeBits off = some (rw', w1c, wo)) (hne : rw' + w1c + wo ≠ 0)
    (h : ∀ r : RegRow, r.rw = rw' → r.w1c = w1c →
      P { s with die := irqSettle s.die (writeHook (writeStore (found s) r off v) off v) }) : ends i s P := by
  obtain ⟨r, hrw, hw1c, hw⟩ := busWrite_of_accepts ha hb hne
  exact ends_of_onDie hi (by rw [hf, hw]; exact h r hrw hw1c)

/-! The word of an axis record. -/

/-- Without a later write of the word nothing of it is kept from a host write (R58). -/
theorem axLater_of_noneLater {s : State} {p c : Nat} (h : noneLater s p c) (off : Nat) : axLater s.die p c off = 0 := by
  have hnil : laterWrites s.die p c off = [] := List.filter_eq_nil_iff.2 fun x hx hafter => by
    simp only [AxWrite.after, Bool.and_eq_true, Bool.or_eq_true, decide_eq_true_eq, beq_iff_eq] at hafter
    have := h x hx
    omega
  rw [axLater, axLaterBy_eq, hnil]
  rfl

/-- The axis-state word at a place of an axis's record. -/
theorem writeHook_axis (d : Die) {off a o : Nat} (ha : a < 128) (ho : o < 0x400) (hoff : off = 0x20000 + a * 0x400 + o) (v : Nat) :
    writeHook d off v = axHook d a o v := by
  have hne : ∀ n, n < 0x20000 ∨ 0x40000 ≤ n → off ≠ n := by omega
  unfold writeHook
  rw [if_neg (hne _ (by decide)), if_neg (hne _ (by decide)), if_neg (hne _ (by decide)), if_neg (hne _ (by decide)),
    if_neg (hne _ (by decide)), if_neg (hne _ (by decide)), if_neg (hne _ (by decide)), if_neg (hne _ (by decide)),
    if_neg (hne _ (by decide)), if_neg (by simp only [Reg.CTR_CFG]; omega), if_neg (by omega), if_neg (by omega),
    if_neg (by omega), if_neg (by omega), if_pos (by omega)]
  congr 1 <;> omega

theorem writeStore_naFreq (d : Die) (r : RegRow) {a : Nat} (ha : a < 128) (v : Nat) :
    writeStore d r (Reg.AX_NA_FREQ a) v = d := by
  have hne : ∀ n, n < 0x20000 → Reg.AX_NA_FREQ a ≠ n := by simp only [Reg.AX_NA_FREQ]; omega
  have hlow : 0x20280 ≤ Reg.AX_NA_FREQ a := by simp only [Reg.AX_NA_FREQ]; omega
  unfold writeStore
  rw [if_neg (hne _ (by decide)), if_neg (hne _ (by decide)), if_neg (hne _ (by decide)), if_neg (hne _ (by decide)),
    if_neg (hne _ (by decide)), if_neg (hne _ (by decide)), if_neg (hne _ (by decide)), if_neg (by omega), if_neg (by omega),
    if_pos (by simp only [Reg.AX_NA_FREQ]; omega)]

theorem axisWord_mem {a o off : Nat} (ha : a < 128) (ho : o < 0x400) (hoff : off = 0x20000 + a * 0x400 + o) : inAxis off = true := by
  simp only [inAxis, Bool.and_eq_true, decide_eq_true_eq]
  omega

theorem storesBits_axis {a o off : Nat} (ha : a < 128) (ho : o < 0x400) (hne : o ≠ 0x280) (hoff : off = 0x20000 + a * 0x400 + o) :
    storesBits off = true := by
  simp only [storesBits, Bool.and_eq_true, Bool.not_eq_true', Bool.and_eq_false_iff, decide_eq_false_iff_not,
    decide_eq_true_eq, List.mem_cons, beq_eq_false_iff_ne, List.not_mem_nil, or_false, not_or]
  simp only [Reg.HST_LOCK, Reg.HST_CRING_HEAD, Reg.HST_CRING_CTL, Reg.BEAT_MARGIN, Reg.PWR_VINMIN, Reg.PWR_TJ, Reg.KNL_PP_CTL]
  omega

theorem eff_irqSettle (c d : Die) (o : Nat) : eff (irqSettle c d) o = eff d o := by
  obtain ⟨hheld, -⟩ := keeps_irqSettle [] c d .held (by simp)
  exact eff_congr hheld (getReg_irqSettle c d o)

theorem mst_irqSettle (c d : Die) : (irqSettle c d).mst = d.mst := keeps_irqSettle [] c d .mst (by simp)

/-! What a write of an axis word leaves. -/

section Word

variable {s : State} {r : RegRow} {a o off v : Nat}

/-- Of a word whose bits no later write has written, the bits of the row read as written. -/
theorem fld_axisStore_of_noneLater (hw1c : r.w1c = 0) (h : noneLater s 7 s.die.tb.cyc) (f : Fld) (hoff : f.off = off)
    (hbits : ∀ i < f.w, (BitVec.ofNat 32 r.rw).toNat.testBit (f.lo + i) = true) (hv : v < 2 ^ 32) :
    fld (storeReg (found s) r off v) f = bitsOf v f.lo f.w := by
  have htaken : takenBits (found s) off r.rw = r.rw := by
    simp only [takenBits, show axLater (found s) 7 (found s).tb.cyc off = 0 from axLater_of_noneLater h off]
    split
    · simp
    · rfl
  rw [fld, hoff, getReg_storeReg_same, ofNat_storeWord hw1c, htaken, bitsOf_putBits_of_mem hbits, BitVec.toNat_ofNat,
    Nat.mod_eq_of_lt hv]

/-- A field that is written as it stands stands. -/
theorem fld_storeReg_of_eq (hw1c : r.w1c = 0) (d : Die) (f : Fld) (hoff : f.off = off) (hv : v < 2 ^ 32)
    (h : bitsOf v f.lo f.w = fld d f) : fld (storeReg d r off v) f = fld d f := by
  rw [fld, hoff, getReg_storeReg_same, ofNat_storeWord hw1c, bitsOf_putBits_of_eq, fld, hoff]
  rw [BitVec.toNat_ofNat, Nat.mod_eq_of_lt hv, h, fld, hoff]

end Word

theorem ends_beatMarginWrite {s : State} {v : Word} (ha : accepts s Reg.BEAT_MARGIN v.toNat) :
    ends (.beatMarginWrite v) s fun t =>
      getReg t.die Reg.BEAT_MARGIN = 0x3FFFF ∧ regsBut (· = Reg.BEAT_MARGIN) s t ∧ keepsBut [.regs] s t := by
  refine ends_of_accepts ha rfl (rw' := 0x3FFFF) (w1c := 0) (wo := 0) (by decide +kernel) (by decide) fun r _ _ => ?_
  rw [show writeHook (writeStore (found s) r Reg.BEAT_MARGIN v.toNat) Reg.BEAT_MARGIN v.toNat =
    putReg (found s) Reg.BEAT_MARGIN 0x3FFFF from rfl]
  refine ⟨(getReg_irqSettle ..).trans (getReg_putReg_same ..), regsBut_command ?_, keepsBut_command (by simp)⟩
  exact (leaves_putReg (p := (· = Reg.BEAT_MARGIN)) _ _ rfl _).2 (.refl _ _)

theorem writeBits_axCtl : ∀ a : Fin 128, writeBits (Reg.AX_CTL a.val) = some (3, 0, 4) := by decide +kernel

theorem writeBits_axTrkCtl : ∀ a : Fin 128, writeBits (Reg.AX_TRK_CTL a.val) = some (1, 0, 2) := by decide +kernel

theorem writeBits_axNaFreq : ∀ a : Fin 128, writeBits (Reg.AX_NA_FREQ a.val) = some (0xFFFFFFFF, 0, 0) := by decide +kernel

theorem writeBits_axLsCtl : ∀ a : Fin 128, writeBits (Reg.AX_LS_CTL a.val) = some (0xF, 0, 0x10) := by decide +kernel

theorem writeBits_sched : ∀ i : Fin 4, writeBits (Reg.LSH_SCHED i.val) = some (0xFFFFFFFF, 0, 0) := by decide +kernel

theorem cyclic_axCtl : ∀ a : Fin 128, cyclic (Reg.AX_CTL a.val) = true := by decide +kernel

theorem cyclic_axLsCtl : ∀ a : Fin 128, cyclic (Reg.AX_LS_CTL a.val) = true := by decide +kernel

theorem cyclic_axTrkCtl : ∀ a : Fin 128, cyclic (Reg.AX_TRK_CTL a.val) = false := by decide +kernel

theorem write_axCtl (d : Die) (r : RegRow) (a : Fin 128) (v : Nat) :
    writeHook (writeStore d r (Reg.AX_CTL a.val) v) (Reg.AX_CTL a.val) v =
      axHook (storeReg d r (Reg.AX_CTL a.val) v) a.val 0 v := by
  have hoff : Reg.AX_CTL a.val = 0x20000 + a.val * 0x400 + 0 := rfl
  rw [writeHook_axis _ a.isLt (o := 0) (by decide) hoff,
    writeStore_of_storesBits (storesBits_axis a.isLt (o := 0) (by decide) (by decide) hoff)]

theorem write_axLsCtl (d : Die) (r : RegRow) (a : Fin 128) (v : Nat) :
    writeHook (writeStore d r (Reg.AX_LS_CTL a.val) v) (Reg.AX_LS_CTL a.val) v =
      axHook (storeReg d r (Reg.AX_LS_CTL a.val) v) a.val 0x100 v := by
  have hoff : Reg.AX_LS_CTL a.val = 0x20000 + a.val * 0x400 + 0x100 := by simp only [Reg.AX_LS_CTL]; omega
  rw [writeHook_axis _ a.isLt (o := 0x100) (by decide) hoff,
    writeStore_of_storesBits (storesBits_axis a.isLt (o := 0x100) (by decide) (by decide) hoff)]

theorem write_axTrkCtl (d : Die) (r : RegRow) (a : Fin 128) (v : Nat) :
    writeHook (writeStore d r (Reg.AX_TRK_CTL a.val) v) (Reg.AX_TRK_CTL a.val) v =
      axHook (storeReg d r (Reg.AX_TRK_CTL a.val) v) a.val 0x28C v := by
  have hoff : Reg.AX_TRK_CTL a.val = 0x20000 + a.val * 0x400 + 0x28C := by simp only [Reg.AX_TRK_CTL]; omega
  rw [writeHook_axis _ a.isLt (o := 0x28C) (by decide) hoff,
    writeStore_of_storesBits (storesBits_axis a.isLt (o := 0x28C) (by decide) (by decide) hoff)]

theorem ends_axisReqWrite {s : State} {a : Fin 128} {req : BitVec 2} (ha : accepts s (Reg.AX_CTL a.val) req.toNat)
    (hlater : noneLater s 7 s.die.tb.cyc) : ends (.axisReqWrite a req) s fun t => fld t.die (Reg.AX_CTL_REQ a.val) = req.toNat ∧
      effFld t.die (Reg.AX_CTL_REQ a.val) = effFld s.die (Reg.AX_CTL_REQ a.val) ∧
      regsBut (· = Reg.AX_CTL a.val) s t ∧ keepsBut [.regs, .held, .axLog] s t := by
  refine ends_of_accepts ha rfl (writeBits_axCtl a) (by decide) fun r hrw hw1c => ?_
  have hreq : req.toNat < 4 := req.isLt
  have hclr : bitOf req.toNat 2 = false := by simp [bitOf_eq_testBit, Nat.testBit_lt_two_pow (i := 2) hreq]
  rw [write_axCtl, axHook, if_pos rfl, hclr, if_neg (by decide)]
  refine ⟨(fld_irqSettle ..).trans ?_, ?_, regsBut_command (leaves_storeReg _ _ _ _), keepsBut_command (keeps_storeReg _ _ _ _)⟩
  · refine (fld_axisStore_of_noneLater hw1c hlater (Reg.AX_CTL_REQ a.val) rfl
      (by rw [hrw]; exact (by decide : ∀ i < 2, (BitVec.ofNat 32 3).toNat.testBit (0 + i) = true)) (by omega)).trans ?_
    rw [bitsOf_eq]
    show req.toNat / 1 % 4 = _
    omega
  · rw [effFld, eff_irqSettle, eff_storeReg_of_cyclic _ _ _ _ (cyclic_axCtl a)]
    rfl

theorem ends_axisClr {s : State} {a : Fin 128} (ha : accepts s (Reg.AX_CTL a.val) (fld s.die (Reg.AX_CTL_REQ a.val) + 4)) :
    ends (.axisClr a) s fun t => (axH t.die a.val).clrNew = true ∧ (axH t.die a.val).clr = (axH s.die a.val).clr ∧
      fld t.die (Reg.AX_CTL_REQ a.val) = fld s.die (Reg.AX_CTL_REQ a.val) ∧
      effFld t.die (Reg.AX_CTL_REQ a.val) = effFld s.die (Reg.AX_CTL_REQ a.val) ∧
      (∀ b, b ≠ a.val → axH t.die b = axH s.die b) ∧ regsBut (· = Reg.AX_CTL a.val) s t ∧
      keepsBut [.regs, .held, .axLog, .axes] s t := by
  have hreq : fld s.die (Reg.AX_CTL_REQ a.val) < 4 := bitsOf_lt ..
  refine ends_of_accepts_at ha (f := fun d => busWrite (Reg.AX_CTL a.val) (fld d (Reg.AX_CTL_REQ a.val) + 4) d) rfl rfl
    (writeBits_axCtl a) (by decide) fun r hrw hw1c => ?_
  generalize hv : fld s.die (Reg.AX_CTL_REQ a.val) + 4 = v
  have hclr : bitOf v 2 = true := by
    simp only [bitOf, Nat.shiftRight_eq_div_pow, beq_iff_eq]
    omega
  have haxes : (storeReg (found s) r (Reg.AX_CTL a.val) v).axes = s.die.axes := keeps_storeReg (found s) r _ v .axes (by simp)
  have hax : ∀ b, axH (storeReg (found s) r (Reg.AX_CTL a.val) v) b = axH s.die b := fun b => by rw [axH, haxes, axH]
  rw [write_axCtl, axHook, if_pos rfl, if_pos hclr]
  refine ⟨?_, ?_, (fld_irqSettle ..).trans ?_, ?_, fun b hb => ?_, regsBut_command ?_, keepsBut_command ?_⟩
  · rw [axH_irqSettle, axH_updAx_same]
  · rw [axH_irqSettle, axH_updAx_same, hax]
  · refine (fld_storeReg_of_eq hw1c (found s) _ rfl (by omega) ?_)
    rw [bitsOf_eq]
    show v / 2 ^ 0 % 2 ^ 2 = fld s.die _
    omega
  · rw [effFld, eff_irqSettle]
    refine congrArg (fun w : Word => bitsOf w.toNat 0 2) ?_
    exact eff_storeReg_of_cyclic (found s) r _ v (cyclic_axCtl a) _
  · rw [axH_irqSettle, axH_updAx_ne _ _ hb, hax]
  · exact leaves_storeReg _ _ _ _
  · rw [keeps_updAx _ _ (by simp)]
    exact (keeps_storeReg _ _ _ _).mono (by simp)

theorem ends_trackerRestart {s : State} {a : Fin 128}
    (ha : accepts s (Reg.AX_TRK_CTL a.val) (fld s.die (Reg.AX_TRK_CTL_FREEZE a.val) + 2)) :
    ends (.trackerRestart a) s fun t => (axH t.die a.val).stage.restart = true ∧
      flag t.die (Reg.AX_TRK_STAT_OFF a.val) = false ∧
      fld t.die (Reg.AX_TRK_CTL_FREEZE a.val) = fld s.die (Reg.AX_TRK_CTL_FREEZE a.val) ∧
      (∀ b, b ≠ a.val → axH t.die b = axH s.die b) ∧
      regsBut (fun o => o = Reg.AX_TRK_CTL a.val ∨ o = Reg.AX_TRK_STAT a.val) s t ∧ keepsBut [.regs, .axLog, .axes] s t := by
  have hfreeze : fld s.die (Reg.AX_TRK_CTL_FREEZE a.val) < 2 := bitsOf_lt ..
  refine ends_of_accepts_at ha (f := fun d => busWrite (Reg.AX_TRK_CTL a.val) (fld d (Reg.AX_TRK_CTL_FREEZE a.val) + 2) d) rfl rfl
    (writeBits_axTrkCtl a) (by decide) fun r hrw hw1c => ?_
  generalize hv : fld s.die (Reg.AX_TRK_CTL_FREEZE a.val) + 2 = v
  have hrestart : bitOf v 1 = true := by
    simp only [bitOf, Nat.shiftRight_eq_div_pow, beq_iff_eq]
    omega
  have hne : Reg.AX_TRK_CTL a.val ≠ Reg.AX_TRK_STAT a.val := by simp only [Reg.AX_TRK_CTL, Reg.AX_TRK_STAT]; omega
  have hkeeps := keeps_storeReg_of_axis (found s) r (Reg.AX_TRK_CTL a.val) v (cyclic_axTrkCtl a)
  have haxes : (storeReg (found s) r (Reg.AX_TRK_CTL a.val) v).axes = s.die.axes := hkeeps .axes (by simp)
  rw [write_axTrkCtl, axHook, if_neg (by decide), if_neg (by decide), if_neg (by decide), if_pos rfl, if_pos hrestart]
  have hax : ∀ b, axH (setFld (storeReg (found s) r (Reg.AX_TRK_CTL a.val) v) (Reg.AX_TRK_STAT_OFF a.val) 0) b = axH s.die b :=
    fun b => by rw [axH, show (setFld _ _ _).axes = _ from haxes, axH]
  refine ⟨?_, ?_, (fld_irqSettle ..).trans ?_, fun b hb => ?_, regsBut_command ?_, keepsBut_command ?_⟩
  · rw [axH_irqSettle, axH_updAx_same]
  · rw [flag_irqSettle, flag]
    show (fld (setFld _ _ _) _ == 1) = false
    rw [fld_setFld_same _ _ _ (show 3 + 1 ≤ 32 by decide)]
    rfl
  · refine Eq.trans ?_ (fld_storeReg_of_eq hw1c (found s) (Reg.AX_TRK_CTL_FREEZE a.val) rfl (v := v) (by omega) ?_)
    · exact fld_setFld_ne _ _ (Reg.AX_TRK_STAT_OFF a.val) 0 hne
    · rw [bitsOf_eq]
      show v / 2 ^ 0 % 2 ^ 1 = fld s.die _
      omega
  · rw [axH_irqSettle, axH_updAx_ne _ _ hb, hax]
  · refine (leaves_updAx (p := fun o => o = Reg.AX_TRK_CTL a.val ∨ o = Reg.AX_TRK_STAT a.val) ..).2 ?_
    exact (leaves_setFld (p := fun o => o = Reg.AX_TRK_CTL a.val ∨ o = Reg.AX_TRK_STAT a.val) _ _ (.inr rfl) _).2
      ((leaves_storeReg _ _ _ _).mono fun o ho => .inl ho)
  · rw [keeps_updAx _ _ (by simp), keeps_setFld _ _ (by simp)]
    exact hkeeps.mono (by simp)

theorem ends_naFreqWrite {s : State} {a : Fin 128} {v : Word} (ha : accepts s (Reg.AX_NA_FREQ a.val) v.toNat) :
    ends (.naFreqWrite a v) s fun t => (axH t.die a.val).stage.naReq = some v.toNat ∧
      (∀ b, b ≠ a.val → axH t.die b = axH s.die b) ∧ keepsBut [.axes] s t := by
  have hoff : Reg.AX_NA_FREQ a.val = 0x20000 + a.val * 0x400 + 0x280 := by simp only [Reg.AX_NA_FREQ]; omega
  refine ends_of_accepts ha rfl (writeBits_axNaFreq a) (by decide) fun r _ _ => ?_
  rw [writeStore_naFreq _ _ a.isLt, writeHook_axis _ a.isLt (o := 0x280) (by decide) hoff, axHook, if_neg (by decide),
    if_neg (by decide), if_pos rfl]
  refine ⟨?_, fun b hb => ?_, keepsBut_command (by simp)⟩
  · rw [axH_irqSettle, axH_updAx_same]
  · rw [axH_irqSettle, axH_updAx_ne _ _ hb]
    rfl

theorem ends_lsModeWrite {s : State} {a : Fin 128} {mode : BitVec 2}
    (ha : accepts s (Reg.AX_LS_CTL a.val) (bitsOf (getReg s.die (Reg.AX_LS_CTL a.val)).toNat 2 2 * 4 + mode.toNat))
    (hlater : noneLater s 7 s.die.tb.cyc) : ends (.lsModeWrite a mode) s fun t => fld t.die (Reg.AX_LS_CTL_MODE a.val) = mode.toNat ∧
      effFld t.die (Reg.AX_LS_CTL_MODE a.val) = effFld s.die (Reg.AX_LS_CTL_MODE a.val) ∧
      bitsOf (getReg t.die (Reg.AX_LS_CTL a.val)).toNat 2 2 = bitsOf (getReg s.die (Reg.AX_LS_CTL a.val)).toNat 2 2 ∧
      regsBut (· = Reg.AX_LS_CTL a.val) s t ∧ keepsBut [.regs, .held, .axLog] s t := by
  have hmode : mode.toNat < 4 := mode.isLt
  have hrest : bitsOf (getReg s.die (Reg.AX_LS_CTL a.val)).toNat 2 2 < 4 := bitsOf_lt ..
  refine ends_of_accepts_at ha
    (f := fun d => busWrite (Reg.AX_LS_CTL a.val) (bitsOf (getReg d (Reg.AX_LS_CTL a.val)).toNat 2 2 * 4 + mode.toNat) d) rfl rfl
    (writeBits_axLsCtl a) (by decide) fun r hrw hw1c => ?_
  generalize hv : bitsOf (getReg s.die (Reg.AX_LS_CTL a.val)).toNat 2 2 * 4 + mode.toNat = v
  have hclr : bitOf v 4 = false := by
    have hlt : v < 2 ^ 4 := by omega
    simp [bitOf_eq_testBit, Nat.testBit_lt_two_pow hlt]
  rw [write_axLsCtl, axHook, if_neg (by decide), if_pos rfl, hclr, if_neg (by decide)]
  refine ⟨(fld_irqSettle ..).trans ?_, ?_, ?_, regsBut_command (leaves_storeReg _ _ _ _), keepsBut_command (keeps_storeReg _ _ _ _)⟩
  · refine (fld_axisStore_of_noneLater hw1c hlater (Reg.AX_LS_CTL_MODE a.val) rfl
      (by rw [hrw]; exact (by decide : ∀ i < 2, (BitVec.ofNat 32 0xF).toNat.testBit (0 + i) = true)) (by omega)).trans ?_
    rw [bitsOf_eq]
    show v / 1 % 4 = _
    omega
  · rw [effFld, eff_irqSettle, eff_storeReg_of_cyclic _ _ _ _ (cyclic_axLsCtl a)]
    rfl
  · refine (congrArg (fun w : Word => bitsOf w.toNat 2 2) (getReg_irqSettle ..)).trans ?_
    refine fld_storeReg_of_eq hw1c (found s) ⟨Reg.AX_LS_CTL a.val, 2, 2⟩ rfl (by omega) ?_
    rw [bitsOf_eq]
    show v / 4 % 4 = bitsOf (getReg s.die (Reg.AX_LS_CTL a.val)).toNat 2 2
    omega

theorem ends_trimclr {s : State} {a : Fin 128}
    (ha : accepts s (Reg.AX_LS_CTL a.val) (bitsOf (getReg s.die (Reg.AX_LS_CTL a.val)).toNat 0 4 + 16)) :
    ends (.trimclr a) s fun t => t.die.mst.trimClr = s.die.mst.trimClr ++ [(a.val, s.die.tb.k + 1)] ∧
      bitsOf (getReg t.die (Reg.AX_LS_CTL a.val)).toNat 0 4 = bitsOf (getReg s.die (Reg.AX_LS_CTL a.val)).toNat 0 4 ∧
      regsBut (· = Reg.AX_LS_CTL a.val) s t ∧ keepsBut [.regs, .held, .axLog, .mst] s t := by
  have hlow : bitsOf (getReg s.die (Reg.AX_LS_CTL a.val)).toNat 0 4 < 16 := bitsOf_lt ..
  refine ends_of_accepts_at ha
    (f := fun d => busWrite (Reg.AX_LS_CTL a.val) (bitsOf (getReg d (Reg.AX_LS_CTL a.val)).toNat 0 4 + 16) d) rfl rfl
    (writeBits_axLsCtl a) (by decide) fun r hrw hw1c => ?_
  generalize hv : bitsOf (getReg s.die (Reg.AX_LS_CTL a.val)).toNat 0 4 + 16 = v
  have hclr : bitOf v 4 = true := by
    simp only [bitOf, Nat.shiftRight_eq_div_pow, beq_iff_eq]
    omega
  have hkeeps := keeps_storeReg (found s) r (Reg.AX_LS_CTL a.val) v
  have hmst : (storeReg (found s) r (Reg.AX_LS_CTL a.val) v).mst = s.die.mst := hkeeps .mst (by simp)
  have htb : (storeReg (found s) r (Reg.AX_LS_CTL a.val) v).tb = s.die.tb := hkeeps .tb (by simp)
  rw [write_axLsCtl, axHook, if_neg (by decide), if_pos rfl, if_pos hclr]
  refine ⟨?_, (congrArg (fun w : Word => bitsOf w.toNat 0 4) (getReg_irqSettle ..)).trans ?_, regsBut_command ?_, keepsBut_command ?_⟩
  · rw [mst_irqSettle]
    show (storeReg _ _ _ _).mst.trimClr ++ [(a.val, (storeReg _ _ _ _).tb.k + 1)] = _
    rw [hmst, htb]
  · refine fld_storeReg_of_eq hw1c (found s) ⟨Reg.AX_LS_CTL a.val, 0, 4⟩ rfl (v := v) (by omega) ?_
    rw [bitsOf_eq]
    show v / 1 % 16 = bitsOf (getReg s.die (Reg.AX_LS_CTL a.val)).toNat 0 4
    omega
  · exact leaves_storeReg _ _ _ _
  · rw [keeps_updMst _ _ (by simp)]
    exact hkeeps.mono (by simp)

theorem quiet_sched : ∀ i : Fin 4, quiet (Reg.LSH_SCHED i.val) = true ∧ storesBits (Reg.LSH_SCHED i.val) = true ∧
    cyclic (Reg.LSH_SCHED i.val) = true ∧ inAxis (Reg.LSH_SCHED i.val) = false := by decide +kernel

theorem ends_schedWrite {s : State} {seg : Fin 4} {v : Word} (ha : accepts s (Reg.LSH_SCHED seg.val) v.toNat) :
    ends (.schedWrite seg v) s fun t => getReg t.die (Reg.LSH_SCHED seg.val) = v ∧
      eff t.die (Reg.LSH_SCHED seg.val) = eff s.die (Reg.LSH_SCHED seg.val) ∧
      regsBut (· = Reg.LSH_SCHED seg.val) s t ∧ keepsBut [.regs, .held] s t := by
  obtain ⟨hquiet, hstores, hcyc, hax⟩ := quiet_sched seg
  refine ends_of_accepts ha rfl (writeBits_sched seg) (by decide) fun r hrw hw1c => ?_
  rw [writeHook_of_quiet hquiet, writeStore_of_storesBits hstores]
  refine ⟨(getReg_irqSettle ..).trans ?_, ?_, regsBut_command (leaves_storeReg _ _ _ _),
    keepsBut_command (keeps_storeReg_of_parameter _ _ _ _ hax)⟩
  · rw [getReg_storeReg_same, ofNat_storeWord hw1c, takenBits_outside hax, hrw]
    exact (putBits_all ..).trans (by simp)
  · rw [eff_irqSettle, eff_storeReg_of_cyclic _ _ _ _ hcyc]
    rfl

/-- Settles O18: each write is its store and what it does beside; a cyclic parameter's store leaves the values in force. -/
theorem parameterWrites : Obligations.ParameterWrites :=
  ⟨fun _ _ ha => ends_beatMarginWrite ha, fun _ _ _ ha hl => ends_axisReqWrite ha hl, fun _ _ ha => ends_axisClr ha,
    fun _ _ ha => ends_trackerRestart ha, fun _ _ _ ha => ends_naFreqWrite ha, fun _ _ _ ha hl => ends_lsModeWrite ha hl,
    fun _ _ ha => ends_trimclr ha, fun _ _ _ ha => ends_schedWrite ha⟩

end Sys2Proof.Machine
end

section
/-! PROOFS. Accepted writes of the master, a capture channel and the step generators (R136, R189, R196, R201, R202). -/

namespace Sys2Proof.Machine

open Sys2Proof

/-! Stores. -/

/-- A write of a register that takes commands only stores nothing new (R10). -/
theorem leaves_storeReg_of_command {r : RegRow} (hrw : r.rw = 0) (hw1c : r.w1c = 0) (d : Die) (off v : Nat) :
    Leaves (fun _ => False) d (storeReg d r off v) := fun o _ => by
  by_cases ho : o = off
  · subst ho
    have htaken : takenBits d o r.rw = 0 := by
      rw [hrw, takenBits]
      split <;> simp
    rw [getReg_storeReg_same, ofNat_storeWord hw1c, htaken]
    exact putBits_none ..
  · exact leaves_storeReg d r off v o ho

/-- A field whose bits a plain register stores reads as written. -/
theorem bitsOf_storeReg {r : RegRow} {off rw' v lo w : Nat} (hax : inAxis off = false) (hrw : r.rw = rw') (hw1c : r.w1c = 0)
    (hbits : ∀ i < w, (BitVec.ofNat 32 rw').toNat.testBit (lo + i) = true) (hv : v < 2 ^ 32) (d : Die) :
    bitsOf (getReg (storeReg d r off v) off).toNat lo w = bitsOf v lo w := by
  rw [getReg_storeReg_same, ofNat_storeWord hw1c, takenBits_outside hax, hrw, bitsOf_putBits_of_mem hbits, BitVec.toNat_ofNat,
    Nat.mod_eq_of_lt hv]

/-- A register all of whose bits are stored reads as written. -/
theorem getReg_storeReg_of_all {r : RegRow} {off : Nat} (hax : inAxis off = false) (hrw : r.rw = 0xFFFFFFFF) (hw1c : r.w1c = 0)
    (d : Die) (v : Nat) : getReg (storeReg d r off v) off = BitVec.ofNat 32 v := by
  rw [getReg_storeReg_same, ofNat_storeWord hw1c, takenBits_outside hax, hrw]
  exact putBits_all ..

/-! The master and the capture channels. -/

theorem writeHook_master (d : Die) (v : Nat) : writeHook d Reg.MST_CTL v =
    if bitOf v 0 && !flag d Reg.MST_STAT_ACKPEND then
      updMst (setFlag d Reg.MST_STAT_ACKPEND) fun m => { m with ackEdge := some (d.tb.k + 1) }
    else d := rfl

@[simp] theorem flag_updMst (d : Die) (g : Master → Master) (f : Fld) : flag (updMst d g) f = flag d f := rfl

theorem ends_ack {s : State} (ha : accepts s Reg.MST_CTL 1) (hpend : flag s.die Reg.MST_STAT_ACKPEND = false) :
    ends .ack s fun t => flag t.die Reg.MST_STAT_ACKPEND = true ∧ t.die.mst.ackEdge = some (s.die.tb.k + 1) ∧
      regsBut (· = Reg.MST_STAT) s t ∧ keepsBut [.regs, .mst] s t := by
  refine ends_of_accepts ha rfl (rw' := 0) (w1c := 0) (wo := 1) (by decide +kernel) (by decide) fun r hrw hw1c => ?_
  rw [writeStore_of_storesBits (by decide)]
  generalize hd : storeReg (found s) r Reg.MST_CTL 1 = d
  have hleaves : Leaves (fun _ => False) (found s) d := hd ▸ leaves_storeReg_of_command hrw hw1c _ _ _
  have hkeeps : Keeps [.regs] (found s) d := hd ▸ keeps_storeReg_of_plain _ _ _ _ (by decide) (by decide)
  have hpend' : flag d Reg.MST_STAT_ACKPEND = false := (flag_of_leaves hleaves _ not_false).trans hpend
  have htb : d.tb = s.die.tb := hkeeps .tb (by simp)
  have hhook : writeHook d Reg.MST_CTL 1 =
      updMst (setFlag d Reg.MST_STAT_ACKPEND) fun m => { m with ackEdge := some (d.tb.k + 1) } := by
    rw [writeHook_master, hpend']
    rfl
  rw [hhook]
  refine ⟨?_, ?_, regsBut_command ?_, keepsBut_command ?_⟩
  · rw [flag_irqSettle, flag_updMst]
    exact flag_setFlag_same _ _ (by decide) rfl
  · rw [mst_irqSettle, ← htb]
    rfl
  · refine (leaves_updMst (p := (· = Reg.MST_STAT)) _ _ _).2 ((leaves_setFlag (p := (· = Reg.MST_STAT)) _ _
      (f := Reg.MST_STAT_ACKPEND) rfl).2 ?_)
    exact hleaves.mono fun _ h => h.elim
  · simpa using hkeeps.mono (qs := [.regs, .mst]) (by simp)

theorem freeseq_row : ∀ c : Fin 16, writeBits (Reg.CAP_CH_FREESEQ c.val) = some (0xFFFFFFF, 0, 0) ∧
    storesBits (Reg.CAP_CH_FREESEQ c.val) = true ∧ inAxis (Reg.CAP_CH_FREESEQ c.val) = false ∧
    cyclic (Reg.CAP_CH_FREESEQ c.val) = false := by decide +kernel

/-- The registers of the capture block do what R174 and R178 say beside the store. -/
theorem writeHook_capture (d : Die) {off : Nat} (h : 0xF000 ≤ off) (h' : off < 0x10000) (v : Nat) :
    writeHook d off v = capHook d off v := by
  have hne : ∀ n, n < 0xF000 ∨ 0x10000 ≤ n → off ≠ n := by omega
  unfold writeHook
  rw [if_neg (hne _ (by decide)), if_neg (hne _ (by decide)), if_neg (hne _ (by decide)), if_neg (hne _ (by decide)),
    if_neg (hne _ (by decide)), if_neg (hne _ (by decide)), if_neg (hne _ (by decide)), if_neg (hne _ (by decide)),
    if_neg (hne _ (by decide)), if_neg (by simp only [Reg.CTR_CFG]; omega), if_neg (by omega), if_pos h']

theorem ends_freeseqWrite {s : State} {c : Fin 16} {v : Word} (ha : accepts s (Reg.CAP_CH_FREESEQ c.val) v.toNat) :
    ends (.freeseqWrite c v) s fun t =>
      (getReg t.die (Reg.CAP_CH_FREESEQ c.val)).toNat % 2 ^ 28 = v.toNat % 2 ^ 28 ∧
      regsBut (· = Reg.CAP_CH_FREESEQ c.val) s t ∧ keepsBut [.regs] s t := by
  obtain ⟨hbits, hstores, hax, hcyc⟩ := freeseq_row c
  have hoff : Reg.CAP_CH_FREESEQ c.val = 0xF15C + c.val * 0x80 := rfl
  refine ends_of_accepts ha rfl hbits (by decide) fun r hrw hw1c => ?_
  have hhook : writeHook (writeStore (found s) r (Reg.CAP_CH_FREESEQ c.val) v.toNat) (Reg.CAP_CH_FREESEQ c.val) v.toNat =
      storeReg (found s) r (Reg.CAP_CH_FREESEQ c.val) v.toNat := by
    rw [writeHook_capture _ (by omega) (by omega), writeStore_of_storesBits hstores, capHook,
      if_neg (by simp only [Reg.CAP_SWTRIG]; omega), if_neg (by omega)]
  rw [hhook]
  refine ⟨?_, regsBut_command (leaves_storeReg _ _ _ _), keepsBut_command (keeps_storeReg_of_plain _ _ _ _ hax hcyc)⟩
  have hfld := bitsOf_storeReg hax hrw hw1c (lo := 0) (w := 28) (by decide) v.isLt (found s)
  rw [bitsOf_eq, bitsOf_eq, Nat.pow_zero, Nat.div_one, Nat.div_one] at hfld
  exact (congrArg (fun w : Word => w.toNat % 2 ^ 28) (getReg_irqSettle ..)).trans hfld

/-! Writes of a step channel. -/

theorem writeHook_step (d : Die) {off : Nat} (h : 0x10000 ≤ off) (h' : off < 0x11000) (v : Nat) :
    writeHook d off v = stpHook d off v := by
  have hne : ∀ n, n < 0x10000 ∨ 0x11000 ≤ n → off ≠ n := by omega
  unfold writeHook
  rw [if_neg (hne _ (by decide)), if_neg (hne _ (by decide)), if_neg (hne _ (by decide)), if_neg (hne _ (by decide)),
    if_neg (hne _ (by decide)), if_neg (hne _ (by decide)), if_neg (hne _ (by decide)), if_neg (hne _ (by decide)),
    if_neg (hne _ (by decide)), if_neg (by simp only [Reg.CTR_CFG]; omega), if_neg (by omega), if_neg (by omega), if_pos h']

/-- What a write of a step channel's register does beside the store, by its place in the channel's block (R196, R201). -/
theorem writeHook_channel (d : Die) {off n o : Nat} (hn : n < 32) (ho : o < 0x40) (hoff : off = 0x10000 + n * 0x40 + o) (v : Nat) :
    writeHook d off v =
      if o = 4 then (if bitOf v 0 then stpStop d n else d)
      else if o = 0x14 then updStp d n fun h => { h with edgeDue := true }
      else if o = 0x1C then setFld d (Reg.STP_STAT_UNSURE n) 0
      else d := by
  have hplace : off % 0x40 = o := by omega
  have hchan : (off - 0x10000) / 0x40 = n := by omega
  rw [writeHook_step d (by omega) (by omega), stpHook, if_pos (by omega)]
  simp only [hplace, hchan]

theorem stpH_irqSettle (c d : Die) (n : Nat) : stpH (irqSettle c d) n = stpH d n := by
  obtain ⟨hstp, -⟩ := keeps_irqSettle [] c d .stp (by simp)
  rw [stpH, hstp, stpH]

theorem grpH_irqSettle (c d : Die) (g : Nat) : grpH (irqSettle c d) g = grpH d g := by
  have hgrp : (irqSettle c d).grp = d.grp := keeps_irqSettle [] c d .grp (by simp)
  rw [grpH, hgrp, grpH]

@[simp] theorem stpH_setFld (d : Die) (f : Fld) (v n : Nat) : stpH (setFld d f v) n = stpH d n := rfl

@[simp] theorem stpH_putActive (d : Die) (m : Nat) (b : Bool) (n : Nat) : stpH (putActive d m b) n = stpH d n := rfl

theorem stpH_of_keeps {ps : List Part} {c d : Die} (h : Keeps ps c d) (hp : .stp ∉ ps) (n : Nat) : stpH d n = stpH c n := by
  obtain ⟨hstp, -⟩ := h .stp hp
  rw [stpH, hstp, stpH]

theorem writeBits_stpMode : ∀ n : Fin 32, writeBits (Reg.STP_MODE n.val) = some (3, 0, 0) := by decide +kernel

theorem write_stpMode (d : Die) (r : RegRow) (n : Fin 32) (v : Nat) :
    writeHook (writeStore d r (Reg.STP_MODE n.val) v) (Reg.STP_MODE n.val) v = stpModeWrite d n.val v := by
  have hoff : Reg.STP_MODE n.val = 0x10000 + n.val * 0x40 + 0 := rfl
  have hne : ∀ m, m < 0x10000 → Reg.STP_MODE n.val ≠ m := by omega
  rw [writeHook_channel _ n.isLt (o := 0) (by decide) hoff, if_neg (by decide), if_neg (by decide), if_neg (by decide)]
  unfold writeStore
  rw [if_neg (hne _ (by decide)), if_neg (hne _ (by decide)), if_neg (hne _ (by decide)), if_neg (hne _ (by decide)),
    if_neg (hne _ (by decide)), if_neg (hne _ (by decide)), if_neg (hne _ (by decide)), if_pos (by omega)]
  congr 1
  omega

/-- The channel's state once its mode is not VEL any more (R196; log entry 116). -/
def StepCh.off (h : StepCh) (dirBack : Bool) : StepCh :=
  { h with word := 0, step := false, rise := none, high := 0, carryDue := false, rev := .none,
           lastPos := !dirBack, edgeDue := false, velDue := false }

theorem stpModeWrite_off (d : Die) (n : Nat) {v : Nat} (hv : v % 4 ≠ 1) : stpModeWrite d n v =
    putActive (updStp (setFld d (Reg.STP_MODE_MODE n) v) n fun h =>
      h.off (flag (setFld d (Reg.STP_MODE_MODE n) v) (Reg.STP_STAT_DIR n))) n false := by
  rw [stpModeWrite, if_neg hv]
  rfl

theorem stpModeWrite_vel (d : Die) (n : Nat) {v : Nat} (hv : v % 4 = 1) : stpModeWrite d n v =
    if stpMode d n = 1 then setFld d (Reg.STP_MODE_MODE n) v
    else updStp (setFld d (Reg.STP_MODE_MODE n) v) n fun h => { h with edgeDue := true } := by
  rw [stpModeWrite, if_pos hv]

theorem stpMode_setFld (d : Die) (n v : Nat) : fld (setFld d (Reg.STP_MODE_MODE n) v) (Reg.STP_MODE_MODE n) = v % 4 :=
  fld_setFld_same _ _ _ (show 0 + 2 ≤ 32 by decide)

theorem stpMode_ne_stat (n : Nat) : Reg.STP_MODE n ≠ Reg.STP_STAT n := by simp only [Reg.STP_MODE, Reg.STP_STAT]; omega

theorem stpModeWrite_frame (d : Die) (n v : Nat) :
    Leaves (fun o => o = Reg.STP_MODE n ∨ o = Reg.STP_STAT n) d (stpModeWrite d n v) ∧
    Keeps [.regs, .stp] d (stpModeWrite d n v) ∧ (∀ m, m ≠ n → stpH (stpModeWrite d n v) m = stpH d m) := by
  have hmode : Leaves (fun o => o = Reg.STP_MODE n ∨ o = Reg.STP_STAT n) d (setFld d (Reg.STP_MODE_MODE n) v) :=
    (leaves_setFld (p := fun o => o = Reg.STP_MODE n ∨ o = Reg.STP_STAT n) _ _ (.inl rfl) _).2 (.refl _ _)
  by_cases hv : v % 4 = 1
  · rw [stpModeWrite_vel d n hv]
    split
    · exact ⟨hmode, by simp, fun m _ => rfl⟩
    · exact ⟨hmode, by simp, fun m hm => (stpH_updStp_ne _ _ hm).trans (stpH_setFld ..)⟩
  · rw [stpModeWrite_off d n hv]
    refine ⟨?_, by simp [putActive], fun m hm => by rw [stpH_putActive, stpH_updStp_ne _ _ hm, stpH_setFld]⟩
    exact (leaves_putFlag (p := fun o => o = Reg.STP_MODE n ∨ o = Reg.STP_STAT n) _ _ (.inr rfl) _).2 hmode

theorem ends_stepModeWrite {s : State} {n : Fin 32} {v : Word} (ha : accepts s (Reg.STP_MODE n.val) v.toNat) :
    ends (.stepModeWrite n v) s fun t => fld t.die (Reg.STP_MODE_MODE n.val) = v.toNat % 4 ∧
      (v.toNat % 4 ≠ 1 → (stpH t.die n.val).word = 0 ∧ (stpH t.die n.val).step = false ∧
        (stpH t.die n.val).rise = none ∧ (stpH t.die n.val).carryDue = false ∧ (stpH t.die n.val).rev = .none ∧
        flag t.die (Reg.STP_STAT_ACTIVE n.val) = false) ∧
      (v.toNat % 4 = 1 → fld s.die (Reg.STP_MODE_MODE n.val) ≠ 1 → (stpH t.die n.val).edgeDue = true) ∧
      (∀ m, m ≠ n.val → stpH t.die m = stpH s.die m) ∧
      regsBut (fun o => o = Reg.STP_MODE n.val ∨ o = Reg.STP_STAT n.val) s t ∧ keepsBut [.regs, .stp] s t := by
  refine ends_of_accepts ha rfl (writeBits_stpMode n) (by decide) fun r _ _ => ?_
  rw [write_stpMode]
  obtain ⟨hleaves, hkeeps, hother⟩ := stpModeWrite_frame (found s) n.val v.toNat
  refine ⟨(fld_irqSettle ..).trans ?_, fun hv => ?_, fun hv hwas => ?_, fun m hm => (stpH_irqSettle ..).trans (hother m hm),
    regsBut_command hleaves, keepsBut_command hkeeps⟩
  · by_cases hv : v.toNat % 4 = 1
    · rw [stpModeWrite_vel _ _ hv]
      split
      · exact stpMode_setFld ..
      · exact stpMode_setFld ..
    · rw [stpModeWrite_off _ _ hv]
      exact (fld_setFld_ne _ _ (Reg.STP_STAT_ACTIVE n.val) _ (stpMode_ne_stat _)).trans (stpMode_setFld ..)
  · obtain ⟨b, hch⟩ : ∃ b, stpH (irqSettle s.die (stpModeWrite (found s) n.val v.toNat)) n.val = (stpH s.die n.val).off b := by
      rw [stpH_irqSettle, stpModeWrite_off _ _ hv, stpH_putActive, stpH_updStp_same _ _ _ n.isLt, stpH_setFld]
      exact ⟨_, rfl⟩
    rw [hch]
    refine ⟨rfl, rfl, rfl, rfl, rfl, ?_⟩
    rw [flag_irqSettle, stpModeWrite_off _ _ hv]
    exact (flag_putFlag_same _ _ false (show 0 + 1 ≤ 32 by decide) rfl)
  · rw [stpH_irqSettle, stpModeWrite_vel _ _ hv, if_neg (show ¬ stpMode (found s) n.val = 1 from hwas), stpH_updStp_same _ _ _ n.isLt]

/-! Two words of a step channel (R32, R337). -/

/-- Whether the port takes a write does not turn on the registers beside the node table of a cluster. -/
theorem hostTakes_congr {ps : List Part} {p : Nat → Prop} {c d : Die} (hk : Keeps ps c d) (hl : Leaves p c d)
    (hpwr : .pwr ∉ ps) (hreset : .inReset ∉ ps) (hstraps : .straps ∉ ps) (htrk : .trk ∉ ps)
    (hp : ∀ n < 64, ¬ p (Reg.CTR_NODE n)) : hostTakes d = hostTakes c := by
  have h1 : d.pwr = c.pwr := hk .pwr hpwr
  have h2 : d.inReset = c.inReset := hk .inReset hreset
  have h3 : d.straps = c.straps := hk .straps hstraps
  have h4 : d.trk = c.trk := hk .trk htrk
  have hnodes : ctNodes d = ctNodes c := List.filter_congr fun n hn =>
    flag_of_leaves hl (Reg.CTR_NODE_SCHED n) (hp n ((mem_upto ..).1 hn))
  simp only [hostTakes, hostUp, powered, writesWait, readsWait, isLead, isCluster, creditOut, memberNodes, memberH, h1, h2, h3, h4,
    hnodes]
  rfl

/-- Nor does whether a register's domain is being switched, beside the power state. -/
theorem switching_congr {ps : List Part} {p : Nat → Prop} {c d : Die} (hk : Keeps ps c d) (hl : Leaves p c d)
    (hpwr : .pwr ∉ ps) (hstraps : .straps ∉ ps) (hp : ¬ p Reg.PWR_STAT) {off : Nat} (hoff : ¬ (0x40000 ≤ off ∧ off < 0x80000))
    (hdoms : ∀ x ∈ offDoms c off, ¬ (54 ≤ x ∧ x ≤ 56)) : switching d off = switching c off := by
  have h1 : d.pwr = c.pwr := hk .pwr hpwr
  have h3 : d.straps = c.straps := hk .straps hstraps
  have hmode : fld d Reg.PWR_STAT_MODE = fld c Reg.PWR_STAT_MODE := fld_of_leaves hl _ hp
  have hdom : offDoms d off = offDoms c off := by
    rw [offDoms, if_neg hoff, offDoms, if_neg hoff]
  have hdoze : dozeDoms d = dozeDoms c := by
    simp only [dozeDoms, hasHost, isMember, isLead, isCluster, h3]
    rfl
  have hup : ∀ x ∈ offDoms c off, (!powered d x && goesUp d x) = (!powered c x && goesUp c x) := fun x hx => by
    rw [powered, goesUp, if_neg (hdoms x hx), powered, goesUp, if_neg (hdoms x hx), h1]
  have hany : (offDoms c off).any (fun x => !powered d x && goesUp d x) =
      (offDoms c off).any (fun x => !powered c x && goesUp c x) := by
    rw [Bool.eq_iff_iff, List.any_eq_true, List.any_eq_true]
    exact exists_congr fun x => and_congr_right fun hx => by rw [hup x hx]
  rw [switching, switching, hmode, hdom, hdoze, hany]
  simp only [powered, h1]

theorem velocity_rows : ∀ n : Fin 32, writeBits (Reg.STP_VEL n.val) = some (0xFFFFFFFF, 0, 0) ∧
    writeBits (Reg.STP_VEL n.val + 4) = some (0xFFFFFFFF, 0, 0) ∧ storesBits (Reg.STP_VEL n.val) = true ∧
    storesBits (Reg.STP_VEL n.val + 4) = true ∧ cyclic (Reg.STP_VEL n.val) = true ∧ cyclic (Reg.STP_VEL n.val + 4) = true ∧
    inAxis (Reg.STP_VEL n.val) = false ∧ inAxis (Reg.STP_VEL n.val + 4) = false := by decide +kernel

theorem position_rows : ∀ n : Fin 32, writeBits (Reg.STP_POS n.val) = some (0xFFFFFFFF, 0, 0) ∧
    writeBits (Reg.STP_POS n.val + 4) = some (0xFFFFFFFF, 0, 0) ∧ storesBits (Reg.STP_POS n.val) = true ∧
    storesBits (Reg.STP_POS n.val + 4) = true ∧ cyclic (Reg.STP_POS n.val) = false ∧ cyclic (Reg.STP_POS n.val + 4) = false ∧
    inAxis (Reg.STP_POS n.val) = false ∧ inAxis (Reg.STP_POS n.val + 4) = false := by decide +kernel

/-- The domain of a register's row (R383). -/
def rowDomain (off : Nat) : Option (Option Nat) := (findReg off).map fun x => regDomain x.1 x.2

theorem offDoms_of_rowDomain {off dom : Nat} (hoff : ¬ (0x40000 ≤ off ∧ off < 0x80000)) (h : rowDomain off = some (some dom)) (d : Die) :
    offDoms d off = [dom] := by
  simp only [rowDomain, Option.map_eq_some_iff] at h
  obtain ⟨x, hx, hdom⟩ := h
  rw [offDoms, if_neg (by omega), hx]
  show (regDomain x.1 x.2).toList = _
  rw [hdom]
  rfl

theorem step_rowDomain : ∀ n : Fin 32, rowDomain (Reg.STP_VEL n.val) = some (some (72 + n.val / 16)) ∧
    rowDomain (Reg.STP_VEL n.val + 4) = some (some (72 + n.val / 16)) ∧
    rowDomain (Reg.STP_POS n.val) = some (some (72 + n.val / 16)) ∧
    rowDomain (Reg.STP_POS n.val + 4) = some (some (72 + n.val / 16)) := by decide +kernel

/-- The words of a pair lie in one domain. -/
theorem switching_of_offDoms {d : Die} {off off' : Nat} (h : offDoms d off = offDoms d off') : switching d off = switching d off' := by
  rw [switching, switching, h]

/-- The second of two words of a step channel is taken after the first. -/
theorem second_taken {c d : Die} {lo dom : Nat} (htakes : hostTakes c = true) (hswitch : switching c lo = false)
    (hk : Keeps [.regs, .held] c d) (hl : Leaves (· = lo) c d) (hlo : 0x10000 ≤ lo ∧ lo < 0x20000) (hdom : 72 ≤ dom)
    (h : rowDomain lo = some (some dom)) (h' : rowDomain (lo + 4) = some (some dom)) :
    hostTakes d = true ∧ switching d (lo + 4) = false := by
  have hdoms : offDoms c (lo + 4) = offDoms c lo :=
    (offDoms_of_rowDomain (by omega) h' c).trans (offDoms_of_rowDomain (by omega) h c).symm
  refine ⟨(hostTakes_congr hk hl (by simp) (by simp) (by simp) (by simp) fun n hn => ?_).trans htakes, ?_⟩
  · simp only [Reg.CTR_NODE]
    omega
  · refine (switching_congr hk hl (by simp) (by simp) (by simp only [Reg.PWR_STAT]; omega) (by omega) ?_).trans
      ((switching_of_offDoms hdoms).trans hswitch)
    rw [offDoms_of_rowDomain (by omega) h' c]
    simp
    omega


/-- A write of one register of a step channel whose row stores all its bits. -/
theorem write_stepWord {d : Die} {off v n o : Nat} (htakes : hostTakes d = true) (hswitch : switching d off = false)
    (hjudge : judgeWrite d false off 15 v = 0) (hbits : writeBits off = some (0xFFFFFFFF, 0, 0)) (hstores : storesBits off = true)
    (hn : n < 32) (ho : o < 0x40) (hoff : off = 0x10000 + n * 0x40 + o) : ∃ r : RegRow, r.rw = 0xFFFFFFFF ∧ r.w1c = 0 ∧
      busWrite off v d =
        if o = 4 then (if bitOf v 0 then stpStop (storeReg d r off v) n else storeReg d r off v)
        else if o = 0x14 then updStp (storeReg d r off v) n fun h => { h with edgeDue := true }
        else if o = 0x1C then setFld (storeReg d r off v) (Reg.STP_STAT_UNSURE n) 0
        else storeReg d r off v := by
  obtain ⟨r, hrw, hw1c, hw⟩ := busWrite_of_judged htakes hswitch hjudge hbits (by decide)
  exact ⟨r, hrw, hw1c, by rw [hw, writeStore_of_storesBits hstores, writeHook_channel _ hn ho hoff]⟩

theorem get64_of_words {d : Die} {off x : Nat} (hlo : getReg d off = BitVec.ofNat 32 (x % 2 ^ 32))
    (hhi : getReg d (off + 4) = BitVec.ofNat 32 (x / 2 ^ 32)) (hx : x < 2 ^ 64) : get64 d off = x := by
  rw [get64, hlo, hhi, BitVec.toNat_ofNat, BitVec.toNat_ofNat]
  omega

theorem ends_stepVelWrite {s : State} {n : Fin 32} {v : QWord} (ha : accepts s (Reg.STP_VEL n.val) (v.toNat % 2 ^ 32))
    (hhi : judgeWrite (busWrite (Reg.STP_VEL n.val) (v.toNat % 2 ^ 32) (found s)) false (Reg.STP_VEL n.val + 4) 15
      (v.toNat / 2 ^ 32) = 0) :
    ends (.stepVelWrite n v) s fun t => get64 t.die (Reg.STP_VEL n.val) = v.toNat ∧
      eff t.die (Reg.STP_VEL n.val) = eff s.die (Reg.STP_VEL n.val) ∧
      eff t.die (Reg.STP_VEL n.val + 4) = eff s.die (Reg.STP_VEL n.val + 4) ∧ (stpH t.die n.val).edgeDue = true ∧
      regsBut (fun o => o = Reg.STP_VEL n.val ∨ o = Reg.STP_VEL n.val + 4) s t ∧ keepsBut [.regs, .held, .stp] s t := by
  obtain ⟨hbits, hbits', hstores, hstores', hcyc, hcyc', hax, hax'⟩ := velocity_rows n
  obtain ⟨hdom, hdom', -, -⟩ := step_rowDomain n
  obtain ⟨htakes, hswitch, hjudge⟩ := ha
  have hoff : Reg.STP_VEL n.val = 0x10010 + n.val * 0x40 := rfl
  have hlt : v.toNat < 2 ^ 64 := v.isLt
  obtain ⟨r, hrw, hw1c, hw⟩ := write_stepWord htakes hswitch hjudge hbits hstores n.isLt (o := 0x10) (by decide) (by omega)
  rw [if_neg (by decide), if_neg (by decide), if_neg (by decide)] at hw
  rw [hw] at hhi
  have hk₁ := keeps_storeReg_of_parameter (found s) r (Reg.STP_VEL n.val) (v.toNat % 2 ^ 32) hax
  have hl₁ := leaves_storeReg (found s) r (Reg.STP_VEL n.val) (v.toNat % 2 ^ 32)
  have heff₁ := eff_storeReg_of_cyclic (found s) r (Reg.STP_VEL n.val) (v.toNat % 2 ^ 32) hcyc
  have hword₁ := getReg_storeReg_of_all hax hrw hw1c (found s) (v.toNat % 2 ^ 32)
  generalize hd : storeReg (found s) r (Reg.STP_VEL n.val) (v.toNat % 2 ^ 32) = d at hk₁ hl₁ heff₁ hword₁ hw hhi
  obtain ⟨htakes', hswitch'⟩ := second_taken htakes hswitch hk₁ hl₁ (by omega) (by omega) hdom hdom'
  obtain ⟨r', hrw', hw1c', hw'⟩ := write_stepWord htakes' hswitch' hhi hbits' hstores' n.isLt (o := 0x14) (by decide) (by omega)
  rw [if_neg (by decide), if_pos rfl] at hw'
  have hk₂ := keeps_storeReg_of_parameter d r' (Reg.STP_VEL n.val + 4) (v.toNat / 2 ^ 32) hax'
  have hl₂ := leaves_storeReg d r' (Reg.STP_VEL n.val + 4) (v.toNat / 2 ^ 32)
  have heff₂ := eff_storeReg_of_cyclic d r' (Reg.STP_VEL n.val + 4) (v.toNat / 2 ^ 32) hcyc'
  have hword₂ := getReg_storeReg_of_all hax' hrw' hw1c' d (v.toNat / 2 ^ 32)
  generalize storeReg d r' (Reg.STP_VEL n.val + 4) (v.toNat / 2 ^ 32) = e at hk₂ hl₂ heff₂ hword₂ hw'
  refine ends_of_onDie (f := busWrite64 (Reg.STP_VEL n.val) v) rfl ?_
  rw [busWrite64, hw, hw']
  have heff : ∀ o, eff (irqSettle s.die (updStp e n.val fun h => { h with edgeDue := true })) o = eff s.die o := fun o =>
    (eff_irqSettle ..).trans ((heff₂ o).trans (heff₁ o))
  refine ⟨get64_of_words ?_ ?_ hlt, heff _, heff _, ?_, regsBut_command ?_, keepsBut_command ?_⟩
  · exact (getReg_irqSettle ..).trans ((hl₂ _ (by omega)).trans hword₁)
  · exact (getReg_irqSettle ..).trans hword₂
  · rw [stpH_irqSettle, stpH_updStp_same _ _ _ n.isLt]
  · exact (hl₁.mono fun o ho => .inl ho).trans (hl₂.mono fun o ho => .inr ho)
  · rw [keeps_updStp _ _ (by simp)]
    exact (hk₁.trans hk₂).mono (by simp)

theorem ends_stepPosWrite {s : State} {n : Fin 32} {v : QWord} (ha : accepts s (Reg.STP_POS n.val) (v.toNat % 2 ^ 32))
    (hhi : judgeWrite (busWrite (Reg.STP_POS n.val) (v.toNat % 2 ^ 32) (found s)) false (Reg.STP_POS n.val + 4) 15
      (v.toNat / 2 ^ 32) = 0) :
    ends (.stepPosWrite n v) s fun t => get64 t.die (Reg.STP_POS n.val) = v.toNat ∧
      flag t.die (Reg.STP_STAT_UNSURE n.val) = false ∧
      regsBut (fun o => o = Reg.STP_POS n.val ∨ o = Reg.STP_POS n.val + 4 ∨ o = Reg.STP_STAT n.val) s t ∧
      keepsBut [.regs] s t := by
  obtain ⟨hbits, hbits', hstores, hstores', hcyc, hcyc', hax, hax'⟩ := position_rows n
  obtain ⟨-, -, hdom, hdom'⟩ := step_rowDomain n
  obtain ⟨htakes, hswitch, hjudge⟩ := ha
  have hoff : Reg.STP_POS n.val = 0x10018 + n.val * 0x40 := rfl
  have hstat : Reg.STP_STAT n.val = 0x10008 + n.val * 0x40 := rfl
  have hlt : v.toNat < 2 ^ 64 := v.isLt
  obtain ⟨r, hrw, hw1c, hw⟩ := write_stepWord htakes hswitch hjudge hbits hstores n.isLt (o := 0x18) (by decide) (by omega)
  rw [if_neg (by decide), if_neg (by decide), if_neg (by decide)] at hw
  rw [hw] at hhi
  have hk₁ := keeps_storeReg_of_plain (found s) r (Reg.STP_POS n.val) (v.toNat % 2 ^ 32) hax hcyc
  have hl₁ := leaves_storeReg (found s) r (Reg.STP_POS n.val) (v.toNat % 2 ^ 32)
  have hword₁ := getReg_storeReg_of_all hax hrw hw1c (found s) (v.toNat % 2 ^ 32)
  generalize hd : storeReg (found s) r (Reg.STP_POS n.val) (v.toNat % 2 ^ 32) = d at hk₁ hl₁ hword₁ hw hhi
  obtain ⟨htakes', hswitch'⟩ :=
    second_taken htakes hswitch (hk₁.mono (by simp)) hl₁ (by omega) (by omega) hdom hdom'
  obtain ⟨r', hrw', hw1c', hw'⟩ := write_stepWord htakes' hswitch' hhi hbits' hstores' n.isLt (o := 0x1C) (by decide) (by omega)
  rw [if_neg (by decide), if_neg (by decide), if_pos rfl] at hw'
  have hk₂ := keeps_storeReg_of_plain d r' (Reg.STP_POS n.val + 4) (v.toNat / 2 ^ 32) hax' hcyc'
  have hl₂ := leaves_storeReg d r' (Reg.STP_POS n.val + 4) (v.toNat / 2 ^ 32)
  have hword₂ := getReg_storeReg_of_all hax' hrw' hw1c' d (v.toNat / 2 ^ 32)
  generalize storeReg d r' (Reg.STP_POS n.val + 4) (v.toNat / 2 ^ 32) = e at hk₂ hl₂ hword₂ hw'
  refine ends_of_onDie (f := busWrite64 (Reg.STP_POS n.val) v) rfl ?_
  rw [busWrite64, hw, hw']
  have hl₃ : Leaves (· = Reg.STP_STAT n.val) e (setFld e (Reg.STP_STAT_UNSURE n.val) 0) :=
    (leaves_setFld (p := (· = Reg.STP_STAT n.val)) _ _ (f := Reg.STP_STAT_UNSURE n.val) rfl _).2 (.refl _ _)
  refine ⟨get64_of_words ?_ ?_ hlt, ?_, regsBut_command ?_, keepsBut_command ?_⟩
  · exact (getReg_irqSettle ..).trans ((hl₃ _ (by omega)).trans ((hl₂ _ (by omega)).trans hword₁))
  · exact (getReg_irqSettle ..).trans ((hl₃ _ (by omega)).trans hword₂)
  · rw [flag_irqSettle, flag, fld_setFld_same _ _ _ (show 3 + 1 ≤ 32 by decide)]
    rfl
  · exact ((hl₁.mono fun o ho => .inl ho).trans (hl₂.mono fun o ho => .inr (.inl ho))).trans
      (hl₃.mono fun o ho => .inr (.inr ho))
  · rw [keeps_setFld _ _ (by simp)]
    exact hk₁.trans hk₂

end Sys2Proof.Machine
end

section
/-! PROOFS. Stops of the step generators (R201): one channel, and a group with its move. -/

namespace Sys2Proof.Machine

open Sys2Proof

/-! One channel stops. -/

/-- The registers of step channel `n`. -/
def stepBlock (n o : Nat) : Prop := 0x10000 + n * 0x40 ≤ o ∧ o < 0x10040 + n * 0x40

/-- A channel that a stop has reached (R201): nothing is left to come. -/
structure HasStopped (d : Die) (n : Nat) : Prop where
  word : (stpH d n).word = 0
  rise : (stpH d n).rise = none
  edgeDue : (stpH d n).edgeDue = false
  velDue : (stpH d n).velDue = false
  stopped : flag d (Reg.STP_STAT_STOPPED n) = true

theorem HasStopped.congr {c d : Die} {n : Nat} (h : HasStopped c n) (hst : stpH d n = stpH c n)
    (hreg : flag d (Reg.STP_STAT_STOPPED n) = flag c (Reg.STP_STAT_STOPPED n)) : HasStopped d n := by
  obtain ⟨hword, hrise, hedge, hvel, hstop⟩ := h
  exact ⟨hst ▸ hword, hst ▸ hrise, hst ▸ hedge, hst ▸ hvel, hreg ▸ hstop⟩

/-- The status of a channel that stops: STOPPED, and UNSURE where it was moving (R201). -/
def stopMarks (d : Die) (n : Nat) (moving : Bool) : Die :=
  if moving then setFlag (setFlag d (Reg.STP_STAT_STOPPED n)) (Reg.STP_STAT_UNSURE n) else setFlag d (Reg.STP_STAT_STOPPED n)

/-- The status and the velocity register of a channel that stops. -/
def stopRegs (d : Die) (n : Nat) (moving : Bool) : Die :=
  putActive (hwPut64 (stopMarks d n moving) (Reg.STP_VEL n) 0) n false

theorem chanStop_eq (d : Die) (n : Nat) (moving : Bool) : chanStop d n moving = updStp (stopRegs d n moving) n fun h =>
    { h with word := 0, acc := 0, rise := none, carryDue := false, velDue := false, edgeDue := false } := rfl

section Registers

variable (d : Die) (n : Nat) (moving : Bool)

theorem stopMarks_flags : flag (stopMarks d n moving) (Reg.STP_STAT_STOPPED n) = true ∧
    (moving = true → flag (stopMarks d n moving) (Reg.STP_STAT_UNSURE n) = true) := by
  have hstop : fld (setFlag d (Reg.STP_STAT_STOPPED n)) (Reg.STP_STAT_STOPPED n) = 1 :=
    fld_setFld_same _ _ _ (show 4 + 1 ≤ 32 by decide)
  cases moving
  · exact ⟨by rw [stopMarks, if_neg (by decide), flag, hstop]; rfl, fun h => absurd h (by decide)⟩
  · rw [stopMarks, if_pos rfl]
    refine ⟨?_, fun _ => flag_setFlag_same _ _ (show 3 + 1 ≤ 32 by decide) rfl⟩
    rw [flag, setFlag, fld_setFld_above _ (Reg.STP_STAT_STOPPED n) (Reg.STP_STAT_UNSURE n) _ rfl (show 3 + 1 ≤ 4 by decide)
      (show 3 + 1 ≤ 32 by decide), hstop]
    rfl

theorem leaves_stopMarks : Leaves (· = Reg.STP_STAT n) d (stopMarks d n moving) := by
  have h : Leaves (· = Reg.STP_STAT n) d (setFlag d (Reg.STP_STAT_STOPPED n)) :=
    (leaves_setFlag (p := (· = Reg.STP_STAT n)) _ _ (f := Reg.STP_STAT_STOPPED n) rfl).2 (.refl _ _)
  unfold stopMarks
  split
  · exact (leaves_setFlag (p := (· = Reg.STP_STAT n)) _ _ (f := Reg.STP_STAT_UNSURE n) rfl).2 h
  · exact h

/-- The registers that a stop of a channel changes. -/
def stopTouches (n o : Nat) : Prop := o = Reg.STP_STAT n ∨ o = Reg.STP_VEL n ∨ o = Reg.STP_VEL n + 4

theorem leaves_hwPut_self (o : Nat) (x : Int) : Leaves (fun p => p = o ∨ p = o + 4) d (hwPut64 d o x) :=
  (leaves_hwPut64 (p := fun p => p = o ∨ p = o + 4) _ _ (.inl rfl) (.inr rfl) _).2 (.refl _ _)

theorem leaves_chanStop : Leaves (stopTouches n) d (chanStop d n moving) := by
  rw [chanStop_eq]
  refine (leaves_updStp (p := stopTouches n) _ _ _ _).2 ((leaves_putFlag (p := stopTouches n) _ _ (.inl rfl) _).2 ?_)
  exact ((leaves_stopMarks d n moving).mono fun o ho => .inl ho).trans ((leaves_hwPut_self _ _ _).mono fun o ho => .inr ho)

variable {n}

theorem inAxis_vel (hn : n < 32) : inAxis (Reg.STP_VEL n) = false ∧ inAxis (Reg.STP_VEL n + 4) = false := by
  obtain ⟨-, -, -, -, -, -, hax, hax'⟩ := velocity_rows ⟨n, hn⟩
  exact ⟨hax, hax'⟩

theorem keeps_chanStop (hn : n < 32) : Keeps [.regs, .held, .stp] d (chanStop d n moving) := by
  obtain ⟨hax, hax'⟩ := inAxis_vel hn
  have hmarks : Keeps [.regs, .held, .stp] d (stopMarks d n moving) := by
    unfold stopMarks
    split <;> simp
  rw [chanStop_eq, keeps_updStp _ _ (by simp)]
  show Keeps _ d (putFlag _ _ _)
  rw [keeps_putFlag _ _ (by simp), keeps_hwPut64_outside _ _ (by simp) (by simp) hax hax']
  exact hmarks

theorem stp_hwPut64 (o : Nat) (x : Int) : (hwPut64 d o x).stp = d.stp := by
  have h : ∀ (d : Die) (o : Nat) (w : Word), (hwPut d o w).stp = d.stp := fun d o w => by
    unfold hwPut axMark
    split <;> rfl
  rw [hwPut64, h, h]

theorem stpH_stopRegs (m : Nat) : stpH (stopRegs d n moving) m = stpH d m := by
  have hstp : (stopRegs d n moving).stp = d.stp := by
    refine (show (stopRegs d n moving).stp = (hwPut64 (stopMarks d n moving) (Reg.STP_VEL n) 0).stp from rfl).trans ?_
    rw [stp_hwPut64]
    unfold stopMarks
    split <;> rfl
  rw [stpH, hstp, stpH]

theorem stpH_chanStop_ne {m : Nat} (hm : m ≠ n) : stpH (chanStop d n moving) m = stpH d m := by
  rw [chanStop_eq, stpH_updStp_ne _ _ hm, stpH_stopRegs]

theorem chanStop_stat_of_above (f : Fld) (hoff : f.off = Reg.STP_STAT n) (hlo : 1 ≤ f.lo) :
    flag (chanStop d n moving) f = flag (stopMarks d n moving) f := by
  have hreg : flag (chanStop d n moving) f = flag (stopRegs d n moving) f := rfl
  rw [hreg, flag, stopRegs, putActive, putFlag, fld_setFld_above _ f (Reg.STP_STAT_ACTIVE n) _ hoff hlo (show 0 + 1 ≤ 32 by decide)]
  refine congrArg (· == 1) (fld_of_leaves (leaves_hwPut_self _ _ _) f ?_)
  rw [hoff]
  simp only [Reg.STP_STAT, Reg.STP_VEL]
  omega

theorem hasStopped_chanStop (hn : n < 32) : HasStopped (chanStop d n moving) n := by
  have hch : stpH (chanStop d n moving) n =
      { stpH d n with word := 0, acc := 0, rise := none, carryDue := false, velDue := false, edgeDue := false } := by
    rw [chanStop_eq, stpH_updStp_same _ _ _ hn, stpH_stopRegs]
  refine ⟨by rw [hch], by rw [hch], by rw [hch], by rw [hch], ?_⟩
  rw [chanStop_stat_of_above d moving _ rfl (show 1 ≤ 4 by decide)]
  exact (stopMarks_flags d n moving).1

theorem active_chanStop : flag (chanStop d n moving) (Reg.STP_STAT_ACTIVE n) = false :=
  (show _ = flag (putFlag _ (Reg.STP_STAT_ACTIVE n) false) (Reg.STP_STAT_ACTIVE n) from rfl).trans
    (flag_putFlag_same _ _ false (show 0 + 1 ≤ 32 by decide) rfl)

theorem velocity_chanStop : get64 (chanStop d n moving) (Reg.STP_VEL n) = 0 := by
  have hput : ∀ (d : Die) (o : Nat) (w : Word), getReg (hwPut d o w) o = w := fun d o w => by
    rw [hwPut, hwStore]
    exact getReg_putReg_same _ _ _
  have hother : ∀ o, o ≠ Reg.STP_STAT n → getReg (chanStop d n moving) o =
      getReg (hwPut64 (stopMarks d n moving) (Reg.STP_VEL n) 0) o := fun o ho =>
    getReg_setFld_ne _ (Reg.STP_STAT_ACTIVE n) (b2n false) ho
  have hlo : getReg (hwPut64 (stopMarks d n moving) (Reg.STP_VEL n) 0) (Reg.STP_VEL n) = 0 := by
    rw [hwPut64]
    refine Eq.trans ?_ (hput (stopMarks d n moving) (Reg.STP_VEL n) 0)
    exact (leaves_hwPut (p := (· = Reg.STP_VEL n + 4)) _ _ rfl _).2 (.refl _ _) _ (by simp)
  have hhi : getReg (hwPut64 (stopMarks d n moving) (Reg.STP_VEL n) 0) (Reg.STP_VEL n + 4) = 0 := hput _ _ _
  rw [get64, hother _ (by simp only [Reg.STP_VEL, Reg.STP_STAT]; omega), hother _ (by simp only [Reg.STP_VEL, Reg.STP_STAT]; omega), hlo, hhi]
  rfl

end Registers

theorem ends_stpStop {s : State} {n : Fin 32} (ha : accepts s (Reg.STP_CTL n.val) 1)
    (hmode : fld s.die (Reg.STP_MODE_MODE n.val) ≠ 3)
    (hgrp : (flag s.die (Reg.STP_CFG_GRPMEM n.val) && (grpH s.die (fld s.die (Reg.STP_CFG_GROUP n.val))).moving) = false) :
    ends (.stpStop n) s fun t => (stpH t.die n.val).word = 0 ∧ (stpH t.die n.val).rise = none ∧
      (stpH t.die n.val).edgeDue = false ∧ (stpH t.die n.val).velDue = false ∧
      flag t.die (Reg.STP_STAT_STOPPED n.val) = true ∧ flag t.die (Reg.STP_STAT_ACTIVE n.val) = false ∧
      ((stpH s.die n.val).word ≠ 0 → flag t.die (Reg.STP_STAT_UNSURE n.val) = true) ∧
      get64 t.die (Reg.STP_VEL n.val) = 0 ∧ (∀ m, m ≠ n.val → stpH t.die m = stpH s.die m) ∧
      regsBut (stopTouches n.val) s t ∧ keepsBut [.regs, .held, .stp] s t := by
  obtain ⟨hbits, hstores, hax, hcyc⟩ := (by decide +kernel : ∀ n : Fin 32, writeBits (Reg.STP_CTL n.val) = some (0, 0, 1) ∧
    storesBits (Reg.STP_CTL n.val) = true ∧ inAxis (Reg.STP_CTL n.val) = false ∧ cyclic (Reg.STP_CTL n.val) = false) n
  have hoff : Reg.STP_CTL n.val = 0x10000 + n.val * 0x40 + 4 := by simp only [Reg.STP_CTL]; omega
  refine ends_of_accepts ha rfl hbits (by decide) fun r hrw hw1c => ?_
  rw [writeStore_of_storesBits hstores, writeHook_channel _ n.isLt (o := 4) (by decide) hoff, if_pos rfl, if_pos (by decide)]
  have hl := leaves_storeReg_of_command hrw hw1c (found s) (Reg.STP_CTL n.val) 1
  have hk := keeps_storeReg_of_plain (found s) r (Reg.STP_CTL n.val) 1 hax hcyc
  generalize storeReg (found s) r (Reg.STP_CTL n.val) 1 = d at hl hk
  have hstp : ∀ m, stpH d m = stpH s.die m := fun m => stpH_of_keeps hk (by simp) m
  have hgrp' : d.grp = s.die.grp := hk .grp (by simp)
  have hsel : fld d (Reg.STP_CFG_GROUP n.val) = fld s.die (Reg.STP_CFG_GROUP n.val) := fld_of_leaves hl _ not_false
  have hstop : stpStop d n.val = chanStop d n.val ((stpH s.die n.val).word != 0) := by
    rw [stpStop, if_neg (by rw [stpMode, fld_of_leaves hl _ not_false]; exact hmode),
      if_neg (by rw [flag_of_leaves hl _ not_false, hsel, grpH, hgrp']; exact Bool.eq_false_iff.1 hgrp), hstp]
  rw [hstop]
  obtain ⟨hword, hrise, hedge, hvel, hstopped⟩ := hasStopped_chanStop d ((stpH s.die n.val).word != 0) n.isLt
  refine ⟨by rw [stpH_irqSettle, hword], by rw [stpH_irqSettle, hrise], by rw [stpH_irqSettle, hedge],
    by rw [stpH_irqSettle, hvel], by rw [flag_irqSettle, hstopped], by rw [flag_irqSettle, active_chanStop], fun hmoving => ?_, ?_,
    fun m hm => ?_, regsBut_command ?_, keepsBut_command ?_⟩
  · rw [flag_irqSettle, chanStop_stat_of_above d _ _ rfl (show 1 ≤ 3 by decide)]
    exact (stopMarks_flags d n.val _).2 (by simpa using hmoving)
  · rw [get64, getReg_irqSettle, getReg_irqSettle]
    exact velocity_chanStop ..
  · rw [stpH_irqSettle, stpH_chanStop_ne _ _ hm, hstp]
  · exact (hl.mono fun _ h => h.elim).trans (leaves_chanStop _ _ _)
  · exact (hk.mono (by simp)).trans (keeps_chanStop _ _ n.isLt)

/-! A group stops. -/

/-- A stop of one member of a group (R201): a channel that homes ends its homing. -/
def memberStop (runs : Bool) (d : Die) (n : Nat) : Die :=
  if stpMode d n = 3 then stepHomeEnd (chanStop d n ((stpH d n).word != 0)) n 3 2 else chanStop d n runs

/-- What a change of one channel leaves of the others and of the rest of the part. -/
structure InChannel (n : Nat) (c d : Die) : Prop where
  regs : Leaves (stepBlock n) c d
  keeps : Keeps [.regs, .held, .stp, .host] c d
  others : ∀ m, m ≠ n → stpH d m = stpH c m

theorem InChannel.trans {n : Nat} {c d e : Die} (h : InChannel n c d) (h' : InChannel n d e) : InChannel n c e :=
  ⟨h.regs.trans h'.regs, h.keeps.trans h'.keeps, fun m hm => (h'.others m hm).trans (h.others m hm)⟩

theorem inChannel_chanStop (d : Die) {n : Nat} (hn : n < 32) (moving : Bool) : InChannel n d (chanStop d n moving) :=
  ⟨(leaves_chanStop d n moving).mono fun o ho => by
      simp only [stopTouches, Reg.STP_STAT, Reg.STP_VEL, stepBlock] at ho ⊢
      omega,
    (keeps_chanStop d moving hn).mono (by simp), fun _ hm => stpH_chanStop_ne d moving hm⟩

/-- The registers of a channel whose homing ends. -/
def homeEndRegs (d : Die) (n status outcome : Nat) : Die :=
  let d := setFld (complete d (stpH d n).hmTicket status outcome 0) (Reg.STP_STAT_HM_STATE n) 0
  putActive (if flag d (Reg.STP_CFG_GRPMEM n) then setFld d (Reg.STP_MODE_MODE n) 2
    else hwPut64 (setFld d (Reg.STP_MODE_MODE n) 1) (Reg.STP_VEL n) 0) n false

theorem stepHomeEnd_eq (d : Die) (n status outcome : Nat) : stepHomeEnd d n status outcome =
    updStp (homeEndRegs d n status outcome) n fun h =>
      { h with hmState := 0, hmTicket := 0, hmSteps := 0, hmBack := none, word := 0 } := rfl

theorem stp_complete (d : Die) (t st r0 r1 : Nat) : (complete d t st r0 r1).stp = d.stp := by
  unfold complete
  split <;> rfl

theorem stpH_homeEndRegs (d : Die) (n status outcome m : Nat) : stpH (homeEndRegs d n status outcome) m = stpH d m := by
  have hstp : (homeEndRegs d n status outcome).stp = d.stp := by
    rw [← stp_complete d (stpH d n).hmTicket status outcome 0]
    unfold homeEndRegs
    extract_lets e
    have hput : ∀ (c : Die) (b : Bool), (putActive c n b).stp = c.stp := fun _ _ => rfl
    rw [hput]
    split
    · rfl
    · rw [stp_hwPut64]
      rfl
  rw [stpH, hstp, stpH]

theorem inChannel_stepHomeEnd (d : Die) {n : Nat} (hn : n < 32) (status outcome : Nat) :
    InChannel n d (stepHomeEnd d n status outcome) := by
  obtain ⟨hax, hax'⟩ := inAxis_vel hn
  have hstat : stepBlock n (Reg.STP_STAT n) := by simp only [Reg.STP_STAT, stepBlock]; omega
  have hmode : stepBlock n (Reg.STP_MODE n) := by simp only [Reg.STP_MODE, stepBlock]; omega
  have hvel : stepBlock n (Reg.STP_VEL n) := by simp only [Reg.STP_VEL, stepBlock]; omega
  have hvel' : stepBlock n (Reg.STP_VEL n + 4) := by simp only [Reg.STP_VEL, stepBlock]; omega
  rw [stepHomeEnd_eq]
  refine ⟨?_, ?_, fun m hm => ?_⟩
  · refine (leaves_updStp (p := stepBlock n) _ _ _ _).2 ?_
    unfold homeEndRegs
    extract_lets e
    have he : Leaves (stepBlock n) d e :=
      (leaves_setFld (p := stepBlock n) _ _ (f := Reg.STP_STAT_HM_STATE n) hstat _).2 ((leaves_complete (p := stepBlock n) ..).2 (.refl _ _))
    refine (leaves_putFlag (p := stepBlock n) _ _ (f := Reg.STP_STAT_ACTIVE n) hstat _).2 (leaves_ite.2 ⟨fun _ => ?_, fun _ => ?_⟩)
    · exact (leaves_setFld (p := stepBlock n) _ _ (f := Reg.STP_MODE_MODE n) hmode _).2 he
    · exact (leaves_hwPut64 (p := stepBlock n) _ _ hvel hvel' _).2
        ((leaves_setFld (p := stepBlock n) _ _ (f := Reg.STP_MODE_MODE n) hmode _).2 he)
  · rw [keeps_updStp _ _ (by simp)]
    unfold homeEndRegs
    extract_lets e
    have he : Keeps [.regs, .held, .stp, .host] d e := by simp [e]
    show Keeps _ d (putFlag _ _ _)
    rw [keeps_putFlag _ _ (by simp)]
    split
    · exact (keeps_setFld _ _ (by simp) _ _).2 he
    · rw [keeps_hwPut64_outside _ _ (by simp) (by simp) hax hax']
      exact (keeps_setFld _ _ (by simp) _ _).2 he
  · rw [stpH_updStp_ne _ _ hm, stpH_homeEndRegs]

theorem inChannel_memberStop (runs : Bool) (d : Die) {n : Nat} (hn : n < 32) : InChannel n d (memberStop runs d n) := by
  unfold memberStop
  split
  · exact (inChannel_chanStop d hn _).trans (inChannel_stepHomeEnd _ hn 3 2)
  · exact inChannel_chanStop d hn _

theorem stepBlock_disjoint {m n o : Nat} (h : m ≠ n) (ho : stepBlock n o) : ¬ stepBlock m o := by
  unfold stepBlock at ho ⊢
  omega

theorem hasStopped_of_inChannel {m n : Nat} {c d : Die} (h : InChannel m c d) (hmn : m ≠ n) (hs : HasStopped c n) : HasStopped d n :=
  hs.congr (h.others n hmn.symm) (flag_of_leaves h.regs _ (stepBlock_disjoint hmn (by
    show stepBlock n (Reg.STP_STAT n)
    simp only [Reg.STP_STAT, stepBlock]
    omega)))

theorem stpMode_of_inChannel {m n : Nat} {c d : Die} (h : InChannel m c d) (hmn : m ≠ n) : stpMode d n = stpMode c n :=
  fld_of_leaves h.regs _ (stepBlock_disjoint hmn (by
    show stepBlock n (Reg.STP_MODE n)
    simp only [Reg.STP_MODE, stepBlock]
    omega))

/-- A member that is not homing stops at its turn, and the turns of the others leave it so. -/
theorem hasStopped_foldl {runs : Bool} {n : Nat} (l : List Nat) (hl : ∀ m ∈ l, m < 32) {d : Die} (hmode : stpMode d n ≠ 3)
    (h : n ∈ l ∨ HasStopped d n) : HasStopped (l.foldl (memberStop runs) d) n := by
  induction l generalizing d with
  | nil => exact h.resolve_left (by simp)
  | cons m l ih =>
    have hm : m < 32 := hl m (by simp)
    have hin := inChannel_memberStop runs d hm
    rw [List.foldl_cons]
    by_cases hmn : m = n
    · subst hmn
      have hstep : memberStop runs d m = chanStop d m runs := if_neg hmode
      have hmode' : stpMode (memberStop runs d m) m ≠ 3 := by
        rw [hstep, stpMode, fld_of_leaves (leaves_chanStop d m runs)]
        · exact hmode
        · simp only [stopTouches, Reg.STP_MODE_MODE, Reg.STP_MODE, Reg.STP_STAT, Reg.STP_VEL]
          omega
      exact ih (fun k hk => hl k (by simp [hk])) hmode' (.inr (hstep ▸ hasStopped_chanStop d runs hm))
    · refine ih (fun k hk => hl k (by simp [hk])) (by rwa [stpMode_of_inChannel hin hmn]) ?_
      refine h.imp (fun hmem => ?_) (hasStopped_of_inChannel hin hmn)
      exact (List.mem_cons.1 hmem).resolve_left (Ne.symm hmn)

theorem keeps_foldl_memberStop (runs : Bool) (l : List Nat) (hl : ∀ m ∈ l, m < 32) (d : Die) :
    Keeps [.regs, .held, .stp, .host] d (l.foldl (memberStop runs) d) := by
  induction l generalizing d with
  | nil => exact .refl _ _
  | cons m l ih =>
    exact (inChannel_memberStop runs d (hl m (by simp))).keeps.trans (ih (fun k hk => hl k (by simp [hk])) _)

/-- The lead of a move that ends: the command completes, and no step is left (R198, R201). -/
def leadEnd (d : Die) (g status : Nat) : Die :=
  updGrp (setFld (putReg (complete d (grpH d g).ticket status (grpH d g).made 0) (Reg.STP_GRP_LEFT g) 0) (Reg.STP_GRP_STAT_MOVING g) 0)
    g fun h => { h with moving := false, word := 0, acc := 0, next := none, v := 0, ticket := 0, carryDue := false, atEdge := false }

/-- Channels are inactive. -/
def inactive (l : List Nat) (d : Die) : Die := l.foldl (fun d n => putActive d n false) d

theorem moveEnd_eq (d : Die) (g status : Nat) : moveEnd d g status = inactive (grpMembers (leadEnd d g status) g) (leadEnd d g status) :=
  rfl

theorem inactive_spec (l : List Nat) (d : Die) : (∀ m, stpH (inactive l d) m = stpH d m) ∧ (inactive l d).grp = d.grp ∧
    Keeps [.regs] d (inactive l d) ∧ (∀ n, flag (inactive l d) (Reg.STP_STAT_STOPPED n) = flag d (Reg.STP_STAT_STOPPED n)) := by
  unfold inactive
  induction l generalizing d with
  | nil => exact ⟨fun _ => rfl, rfl, .refl _ _, fun _ => rfl⟩
  | cons m l ih =>
    obtain ⟨hstp, hgrp, hkeeps, hflag⟩ := ih (putActive d m false)
    refine ⟨fun k => hstp k, hgrp, ?_, fun n => (hflag n).trans ?_⟩
    · exact Keeps.trans (by simp [putActive]) hkeeps
    · by_cases hmn : m = n
      · subst hmn
        rw [flag, putActive, putFlag,
          fld_setFld_above d (Reg.STP_STAT_STOPPED m) (Reg.STP_STAT_ACTIVE m) _ rfl (show 0 + 1 ≤ 4 by decide) (show 0 + 1 ≤ 32 by decide),
          flag]
      · refine flag_setFld_ne d (Reg.STP_STAT_STOPPED n) (Reg.STP_STAT_ACTIVE m) _ ?_
        show Reg.STP_STAT n ≠ Reg.STP_STAT m
        simp only [Reg.STP_STAT]
        omega

theorem leadEnd_spec (d : Die) {g : Nat} (hg : g < 8) (status : Nat) : (∀ m, stpH (leadEnd d g status) m = stpH d m) ∧
    (grpH (leadEnd d g status) g).moving = false ∧ Keeps [.regs, .grp, .host] d (leadEnd d g status) ∧
    (∀ n < 32, flag (leadEnd d g status) (Reg.STP_STAT_STOPPED n) = flag d (Reg.STP_STAT_STOPPED n)) := by
  refine ⟨fun m => ?_, ?_, ?_, fun n hn => ?_⟩
  · have hstp : (leadEnd d g status).stp = d.stp :=
      (show _ = (complete d (grpH d g).ticket status (grpH d g).made 0).stp from rfl).trans (stp_complete ..)
    rw [stpH, hstp, stpH]
  · rw [leadEnd, grpH_updGrp_same _ _ _ hg]
  · simp [leadEnd]
  · have hleft : Reg.STP_STAT n ≠ Reg.STP_GRP_LEFT g := by simp only [Reg.STP_STAT, Reg.STP_GRP_LEFT]; omega
    have hstat : Reg.STP_STAT n ≠ Reg.STP_GRP_STAT g := by simp only [Reg.STP_STAT, Reg.STP_GRP_STAT]; omega
    have hreg : getReg (leadEnd d g status) (Reg.STP_STAT n) = getReg d (Reg.STP_STAT n) := by
      refine (getReg_setFld_ne _ (Reg.STP_GRP_STAT_MOVING g) 0 hstat).trans ((getReg_putReg_ne _ _ hleft).trans ?_)
      exact (leaves_complete (p := fun _ => False) ..).2 (.refl _ _) _ not_false
    rw [flag, fld]
    show (bitsOf (getReg _ (Reg.STP_STAT n)).toNat _ _ == 1) = _
    rw [hreg]
    rfl

/-- What a stop of a group leaves (R201). -/
theorem groupStop_spec (d : Die) {g : Nat} (hg : g < 8) : (grpH (groupStop d g) g).moving = false ∧
    (∀ n ∈ grpMembers d g, stpMode d n ≠ 3 → HasStopped (groupStop d g) n) ∧
    Keeps [.regs, .held, .stp, .grp, .host] d (groupStop d g) := by
  have hlt : ∀ m ∈ grpMembers d g, m < 32 := fun m hm => (mem_upto ..).1 (List.mem_filter.1 hm).1
  have hstops : ∀ n ∈ grpMembers d g, stpMode d n ≠ 3 →
      HasStopped ((grpMembers d g).foldl (memberStop (grpRuns d g)) d) n := fun n hn hmode =>
    hasStopped_foldl _ hlt hmode (.inl hn)
  have hkeeps := keeps_foldl_memberStop (grpRuns d g) (grpMembers d g) hlt d
  have heq : groupStop d g = if (grpH ((grpMembers d g).foldl (memberStop (grpRuns d g)) d) g).moving
      then moveEnd ((grpMembers d g).foldl (memberStop (grpRuns d g)) d) g 3
      else (grpMembers d g).foldl (memberStop (grpRuns d g)) d := rfl
  generalize hfold : (grpMembers d g).foldl (memberStop (grpRuns d g)) d = e at hstops hkeeps heq
  rw [heq]
  split
  · obtain ⟨hlstp, hlmoving, hlkeeps, hlflag⟩ := leadEnd_spec e hg 3
    rw [moveEnd_eq]
    obtain ⟨hstp, hgrp, hik, hflag⟩ := inactive_spec (grpMembers (leadEnd e g 3) g) (leadEnd e g 3)
    refine ⟨by rw [grpH, hgrp]; exact hlmoving, fun n hn hmode => ?_, ?_⟩
    · exact (hstops n hn hmode).congr ((hstp n).trans (hlstp n)) ((hflag n).trans (hlflag n (hlt n hn)))
    · exact ((hkeeps.mono (by simp)).trans (hlkeeps.mono (by simp))).trans (hik.mono (by simp))
  · next hmoving => exact ⟨by simpa using hmoving, hstops, hkeeps.mono (by simp)⟩

theorem ends_groupStop {s : State} {g : Fin 8} (ha : accepts s (Reg.STP_GRP_CTL g.val) 1) : ends (.groupStop g) s fun t =>
    (grpH t.die g.val).moving = false ∧
    (∀ n, n < 32 → bitOf (getReg s.die (Reg.STP_GRP_MEM g.val)).toNat n = true → fld s.die (Reg.STP_MODE_MODE n) ≠ 3 →
      (stpH t.die n).word = 0 ∧ (stpH t.die n).rise = none ∧ (stpH t.die n).edgeDue = false ∧
      (stpH t.die n).velDue = false ∧ flag t.die (Reg.STP_STAT_STOPPED n) = true) ∧
    keepsBut [.regs, .held, .stp, .grp, .host] s t := by
  obtain ⟨hbits, hstores, hax, hcyc⟩ := (by decide +kernel : ∀ g : Fin 8, writeBits (Reg.STP_GRP_CTL g.val) = some (0, 0, 1) ∧
    storesBits (Reg.STP_GRP_CTL g.val) = true ∧ inAxis (Reg.STP_GRP_CTL g.val) = false ∧ cyclic (Reg.STP_GRP_CTL g.val) = false) g
  have hoff : Reg.STP_GRP_CTL g.val = 0x10804 + g.val * 0x20 := rfl
  refine ends_of_accepts ha rfl hbits (by decide) fun r hrw hw1c => ?_
  rw [writeStore_of_storesBits hstores, writeHook_step _ (by omega) (by omega), stpHook, if_neg (by omega),
    if_pos ⟨by omega, by decide⟩, show (Reg.STP_GRP_CTL g.val - 0x10800) / 0x20 = g.val by omega]
  have hl := leaves_storeReg_of_command hrw hw1c (found s) (Reg.STP_GRP_CTL g.val) 1
  have hk := keeps_storeReg_of_plain (found s) r (Reg.STP_GRP_CTL g.val) 1 hax hcyc
  generalize storeReg (found s) r (Reg.STP_GRP_CTL g.val) 1 = d at hl hk
  obtain ⟨hmoving, hstops, hkeeps⟩ := groupStop_spec d g.isLt
  refine ⟨by rw [grpH_irqSettle, hmoving], fun n hn hbit hmode => ?_, keepsBut_command ((hk.mono (by simp)).trans hkeeps)⟩
  have hmem : n ∈ grpMembers d g.val := List.mem_filter.2 ⟨(mem_upto ..).2 hn, by rw [hl _ not_false]; exact hbit⟩
  obtain ⟨hword, hrise, hedge, hvel, hstopped⟩ :=
    hstops n hmem (by rw [stpMode, fld_of_leaves hl _ not_false]; exact hmode)
  exact ⟨by rw [stpH_irqSettle, hword], by rw [stpH_irqSettle, hrise], by rw [stpH_irqSettle, hedge],
    by rw [stpH_irqSettle, hvel], by rw [flag_irqSettle, hstopped]⟩

/-- Settles O19: each write is its store and what it does beside; a stop of a group is an induction over its members. -/
theorem motionWrites : Obligations.MotionWrites :=
  ⟨fun _ ha hpend => ends_ack ha hpend, fun _ _ _ ha => ends_freeseqWrite ha, fun _ _ _ ha => ends_stepModeWrite ha,
    fun _ _ _ ha hhi => ends_stepVelWrite ha hhi, fun _ _ _ ha hhi => ends_stepPosWrite ha hhi,
    fun _ _ ha hmode hgrp => ends_stpStop ha hmode hgrp, fun _ _ ha => ends_groupStop ha⟩

end Sys2Proof.Machine
end

section
/-! PROOFS. Accepted writes of a CAN controller (R318, R320, R323, R325, R326). -/

namespace Sys2Proof.Machine

open Sys2Proof

/-! What a write of a controller's register does beside the store. -/

theorem writeHook_can (d : Die) {off n o : Nat} (hn : n < 4) (ho : o < 0x400) (hoff : off = 0x11000 + n * 0x400 + o) (v : Nat) :
    writeHook d off v =
      if o = 4 then canCtl d n v
      else if o = 0x144 then canPop d n
      else if 0x40 ≤ o ∧ o < 0x130 ∧ (o - 0x40) % 0x50 = 0 then txbCtl d n ((o - 0x40) / 0x50) v
      else d := by
  have hne : ∀ m, m < 0x11000 ∨ 0x12000 ≤ m → off ≠ m := by omega
  have hplace : off % 0x400 = o := by omega
  have hctl : (off - 0x11000) / 0x400 = n := by omega
  unfold writeHook
  rw [if_neg (hne _ (by decide)), if_neg (hne _ (by decide)), if_neg (hne _ (by decide)), if_neg (hne _ (by decide)),
    if_neg (hne _ (by decide)), if_neg (hne _ (by decide)), if_neg (hne _ (by decide)), if_neg (hne _ (by decide)),
    if_neg (hne _ (by decide)), if_neg (by simp only [Reg.CTR_CFG]; omega), if_neg (by omega), if_neg (by omega),
    if_neg (by omega), if_pos (by omega), canHook]
  simp only [hplace, hctl]

theorem writeStore_txbCtl (d : Die) (r : RegRow) {n b : Nat} (hn : n < 4) (hb : b < 3) (v : Nat) :
    writeStore d r (Reg.TXB_CTL n b) v = d := by
  have hoff : Reg.TXB_CTL n b = 0x11040 + n * 0x400 + b * 0x50 := rfl
  have hplace : Reg.TXB_CTL n b % 0x400 = 0x40 + b * 0x50 := by omega
  have hne : ∀ m, m < 0x11000 → Reg.TXB_CTL n b ≠ m := by omega
  unfold writeStore
  rw [if_neg (hne _ (by decide)), if_neg (hne _ (by decide)), if_neg (hne _ (by decide)), if_neg (hne _ (by decide)),
    if_neg (hne _ (by decide)), if_neg (hne _ (by decide)), if_neg (hne _ (by decide)), if_neg (by omega), if_pos (by rw [hplace]; omega)]

theorem canH_irqSettle (c d : Die) (n : Nat) : canH (irqSettle c d) n = canH d n := by
  have hcan : (irqSettle c d).can = d.can := keeps_irqSettle [] c d .can (by simp)
  rw [canH, hcan, canH]

theorem canH_of_keeps {ps : List Part} {c d : Die} (h : Keeps ps c d) (hp : .can ∉ ps) (n : Nat) : canH d n = canH c n := by
  have hcan : d.can = c.can := h .can hp
  rw [canH, hcan, canH]

theorem canH_updCan_ne (d : Die) {n m : Nat} (f : CanHid → CanHid) (h : m ≠ n) : canH (updCan d n f) m = canH d m := by
  simp [canH, updCan, vget_vset_ne _ _ _ h]

theorem canState_irqSettle (c d : Die) (n : Nat) : canState (irqSettle c d) n = canState d n := fld_irqSettle ..

theorem canState_canSetState (d : Die) (n v : Nat) : canState (canSetState d n v) n = v % 8 :=
  fld_setFld_same _ _ _ (show 0 + 3 ≤ 32 by decide)

@[simp] theorem canState_updCan (d : Die) (m : Nat) (f : CanHid → CanHid) (n : Nat) : canState (updCan d m f) n = canState d n := rfl

@[simp] theorem canH_setFld (d : Die) (f : Fld) (v n : Nat) : canH (setFld d f v) n = canH d n := rfl

@[simp] theorem canH_canSetState (d : Die) (m v n : Nat) : canH (canSetState d m v) n = canH d n := rfl

@[simp] theorem flag_updCan (d : Die) (m : Nat) (f : CanHid → CanHid) (g : Fld) : flag (updCan d m f) g = flag d g := rfl

@[simp] theorem fld_updCan (d : Die) (m : Nat) (f : CanHid → CanHid) (g : Fld) : fld (updCan d m f) g = fld d g := rfl

/-! Writes of CAN_n_CTL. -/

theorem canCtl_row : ∀ n : Fin 4, writeBits (Reg.CAN_CTL n.val) = some (0, 0, 7) ∧ storesBits (Reg.CAN_CTL n.val) = true ∧
    inAxis (Reg.CAN_CTL n.val) = false ∧ cyclic (Reg.CAN_CTL n.val) = false := by decide +kernel

/-- An accepted write of CAN_n_CTL is the request it makes, on a part that reads as it was found (R320). -/
theorem ends_canCtl {i : Instr} {s : State} {n : Fin 4} {v : Nat} {P : State → Prop} (ha : accepts s (Reg.CAN_CTL n.val) v)
    (hi : exec i s = onDie (busWrite (Reg.CAN_CTL n.val) v) s)
    (h : ∀ d, Keeps [.regs] (found s) d → Leaves (fun _ => False) (found s) d →
      P { s with die := irqSettle s.die (canCtl d n.val v) }) : ends i s P := by
  obtain ⟨hbits, hstores, hax, hcyc⟩ := canCtl_row n
  have hoff : Reg.CAN_CTL n.val = 0x11000 + n.val * 0x400 + 4 := by simp only [Reg.CAN_CTL]; omega
  refine ends_of_accepts ha hi hbits (by decide) fun r hrw hw1c => ?_
  rw [writeStore_of_storesBits hstores, writeHook_can _ n.isLt (o := 4) (by decide) hoff, if_pos rfl]
  exact h _ (keeps_storeReg_of_plain _ _ _ _ hax hcyc) (leaves_storeReg_of_command hrw hw1c _ _ _)

section Same

variable {s : State} {d : Die}

theorem canState_of_found (hl : Leaves (fun _ => False) (found s) d) (n : Nat) : canState d n = canState s.die n :=
  fld_of_leaves hl _ not_false

theorem loaded_of_found (hk : Keeps [.regs] (found s) d) : d.boot.loaded = s.die.boot.loaded :=
  congrArg Boot.loaded (show d.boot = (found s).boot from hk .boot (by simp))

end Same

/-- The part with a controller that a request brings from OFF to SYNC. -/
theorem ends_canStart {i : Instr} {s : State} {n : Fin 4} {req : Nat} (hreq : req = 1 ∨ req = 2)
    (ha : accepts s (Reg.CAN_CTL n.val) req) (hi : exec i s = onDie (busWrite (Reg.CAN_CTL n.val) req) s)
    (hoff : canState s.die n.val = 0) (hloaded : s.die.boot.loaded = true) : ends i s fun t =>
      canState t.die n.val = 1 ∧ (canH t.die n.val).target = req + 1 ∧ regsBut (· = Reg.CAN_STAT n.val) s t ∧
      keepsBut [.regs, .can] s t := by
  refine ends_canCtl ha hi fun d hk hl => ?_
  have heq : canCtl d n.val req = updCan (canSetState d n.val 1) n.val fun h => { h with target := req + 1, modeReq := none } := by
    have hst : canState d n.val = 0 := (canState_of_found hl _).trans hoff
    have hboot : d.boot.loaded = true := (loaded_of_found hk).trans hloaded
    obtain rfl | rfl := hreq <;> simp [canCtl, canReq, bitOf, hst, hboot]
  rw [heq]
  refine ⟨?_, ?_, regsBut_command ?_, keepsBut_command ?_⟩
  · rw [canState_irqSettle, canState_updCan, canState_canSetState]
  · rw [canH_irqSettle, canH_updCan_same _ _ _ n.isLt]
  · refine (leaves_updCan (p := (· = Reg.CAN_STAT n.val)) _ _ _ _).2 ?_
    exact (leaves_setFld (p := (· = Reg.CAN_STAT n.val)) _ _ (f := Reg.CAN_STAT_STATE n.val) rfl _).2 (hl.mono fun _ h => h.elim)
  · rw [keeps_updCan _ _ (by simp)]
    exact (keeps_setFld _ _ (by simp) _ _).2 (hk.mono (by simp))

/-- The change between ACTIVE and RESTRICTED is recorded (R320). -/
theorem ends_canChange {i : Instr} {s : State} {n : Fin 4} {req : Nat} (hreq : req = 1 ∨ req = 2)
    (ha : accepts s (Reg.CAN_CTL n.val) req) (hi : exec i s = onDie (busWrite (Reg.CAN_CTL n.val) req) s)
    (hst : canState s.die n.val = 4 - req) : ends i s fun t => (canH t.die n.val).modeReq = some (req + 1) ∧
      canState t.die n.val = 4 - req ∧ keepsBut [.regs, .can] s t := by
  refine ends_canCtl ha hi fun d hk hl => ?_
  have hst' : canState d n.val = 4 - req := (canState_of_found hl _).trans hst
  have heq : canCtl d n.val req = updCan d n.val fun h => { h with modeReq := some (req + 1) } := by
    obtain rfl | rfl := hreq <;> simp [canCtl, canReq, bitOf, hst']
  rw [heq]
  refine ⟨?_, ?_, keepsBut_command ?_⟩
  · rw [canH_irqSettle, canH_updCan_same _ _ _ n.isLt]
  · rw [canState_irqSettle, canState_updCan, hst']
  · rw [keeps_updCan _ _ (by simp)]
    exact hk.mono (by simp)

theorem ends_canRecover {s : State} {n : Fin 4} (ha : accepts s (Reg.CAN_CTL n.val) 4) : ends (.canRecover n) s fun t =>
    canState t.die n.val = 5 ∧ regsBut (· = Reg.CAN_STAT n.val) s t ∧ keepsBut [.regs] s t := by
  refine ends_canCtl ha rfl fun d hk hl => ?_
  rw [show canCtl d n.val 4 = canSetState d n.val 5 from rfl]
  refine ⟨?_, regsBut_command ?_, keepsBut_command ((keeps_setFld _ _ (by simp) _ _).2 hk)⟩
  · rw [canState_irqSettle, canState_canSetState]
  · exact (leaves_setFld (p := (· = Reg.CAN_STAT n.val)) _ _ (f := Reg.CAN_STAT_STATE n.val) rfl _).2 (hl.mono fun _ h => h.elim)

/-! The end of a transmit request. -/

/-- The two fields of a transmit buffer that end. -/
def txbDone (d : Die) (n b outcome : Nat) : Die :=
  setFlag (setFld (setFld d (Reg.TXB_CTL_REQ n b) 0) (Reg.TXB_CTL_OUTCOME n b) outcome) (Reg.CAN_STAT_TXDONE n)

theorem txbEnd_eq (d : Die) (n b outcome : Nat) : txbEnd d n b outcome = updCan (txbDone d n b outcome) n fun h =>
    { h with aborting := vset h.aborting b false, offered := if h.offered = some b then none else h.offered } := rfl

theorem txb_ne_stat (n b m : Nat) : Reg.TXB_CTL n b ≠ Reg.CAN_STAT m := by
  simp only [Reg.TXB_CTL, Reg.CAN_STAT]
  omega

section End

variable (d : Die) {n b : Nat} (outcome : Nat)

theorem txbDone_flags (hout : outcome < 8) : flag (txbDone d n b outcome) (Reg.TXB_CTL_REQ n b) = false ∧
    fld (txbDone d n b outcome) (Reg.TXB_CTL_OUTCOME n b) = outcome ∧
    flag (txbDone d n b outcome) (Reg.CAN_STAT_TXDONE n) = true := by
  have hreq : fld (setFld d (Reg.TXB_CTL_REQ n b) 0) (Reg.TXB_CTL_REQ n b) = 0 := fld_setFld_same _ _ _ (show 0 + 1 ≤ 32 by decide)
  refine ⟨?_, ?_, flag_setFlag_same _ _ (show 5 + 1 ≤ 32 by decide) rfl⟩
  · rw [flag, txbDone, setFlag, fld_setFld_ne _ _ (Reg.CAN_STAT_TXDONE n) _ (txb_ne_stat n b n),
      fld_setFld_below _ (Reg.TXB_CTL_REQ n b) (Reg.TXB_CTL_OUTCOME n b) _ rfl (show 0 + 1 ≤ 4 by decide) (show 4 + 3 ≤ 32 by decide),
      hreq]
    rfl
  · rw [txbDone, setFlag, fld_setFld_ne _ _ (Reg.CAN_STAT_TXDONE n) _ (txb_ne_stat n b n),
      fld_setFld_same _ _ _ (show 4 + 3 ≤ 32 by decide)]
    exact Nat.mod_eq_of_lt hout

theorem leaves_txbDone : Leaves (fun o => o = Reg.TXB_CTL n b ∨ o = Reg.CAN_STAT n) d (txbDone d n b outcome) := by
  unfold txbDone
  rw [leaves_setFlag _ _ (p := fun o => o = Reg.TXB_CTL n b ∨ o = Reg.CAN_STAT n) (f := Reg.CAN_STAT_TXDONE n) (.inr rfl),
    leaves_setFld _ _ (p := fun o => o = Reg.TXB_CTL n b ∨ o = Reg.CAN_STAT n) (f := Reg.TXB_CTL_OUTCOME n b) (.inl rfl),
    leaves_setFld _ _ (p := fun o => o = Reg.TXB_CTL n b ∨ o = Reg.CAN_STAT n) (f := Reg.TXB_CTL_REQ n b) (.inl rfl)]
  exact .refl _ _

theorem leaves_txbEnd : Leaves (fun o => o = Reg.TXB_CTL n b ∨ o = Reg.CAN_STAT n) d (txbEnd d n b outcome) := by
  rw [txbEnd_eq]
  exact (leaves_updCan (p := fun o => o = Reg.TXB_CTL n b ∨ o = Reg.CAN_STAT n) _ _ _ _).2 (leaves_txbDone d outcome)

theorem keeps_txbEnd : Keeps [.regs, .can] d (txbEnd d n b outcome) := by
  simp [txbEnd_eq, txbDone]

end End

/-- A turn of the end of all requests. -/
def endRequest (outcome n : Nat) (d : Die) (b : Nat) : Die :=
  if flag d (Reg.TXB_CTL_REQ n b) then txbEnd d n b outcome else d

theorem canEndAll_eq (d : Die) (n outcome : Nat) : canEndAll d n outcome = (upto 3).foldl (endRequest outcome n) d := rfl

theorem leaves_endRequest (d : Die) (n b outcome : Nat) :
    Leaves (fun o => o = Reg.TXB_CTL n b ∨ o = Reg.CAN_STAT n) d (endRequest outcome n d b) := by
  unfold endRequest
  split
  · exact leaves_txbEnd d outcome
  · exact .refl _ _

theorem txb_ne {n b b' : Nat} (h : b ≠ b') : Reg.TXB_CTL n b ≠ Reg.TXB_CTL n b' := by
  simp only [Reg.TXB_CTL]
  omega

/-- A request that ended stands ended while the others end. -/
theorem endRequest_ne (d : Die) {n b b' : Nat} (h : b ≠ b') (outcome : Nat) :
    getReg (endRequest outcome n d b') (Reg.TXB_CTL n b) = getReg d (Reg.TXB_CTL n b) :=
  leaves_endRequest d n b' outcome _ (not_or.2 ⟨txb_ne h, txb_ne_stat n b n⟩)

/-- Every pending request has ended with the outcome (R320). -/
theorem canEndAll_spec (d : Die) {n b outcome : Nat} (hb : b < 3) (hout : outcome < 8)
    (hreq : flag d (Reg.TXB_CTL_REQ n b) = true) : flag (canEndAll d n outcome) (Reg.TXB_CTL_REQ n b) = false ∧
      fld (canEndAll d n outcome) (Reg.TXB_CTL_OUTCOME n b) = outcome := by
  have key : ∀ (l : List Nat) (d : Die), l.Nodup → b ∈ l → flag d (Reg.TXB_CTL_REQ n b) = true →
      flag (l.foldl (endRequest outcome n) d) (Reg.TXB_CTL_REQ n b) = false ∧
      fld (l.foldl (endRequest outcome n) d) (Reg.TXB_CTL_OUTCOME n b) = outcome := by
    intro l
    induction l with
    | nil => exact fun d _ hmem => absurd hmem List.not_mem_nil
    | cons b' l ih =>
      intro d hnodup hmem hr
      obtain ⟨hnot, hnodup'⟩ := List.nodup_cons.1 hnodup
      rw [List.foldl_cons]
      by_cases hbb : b = b'
      · subst hbb
        have hrest : getReg (l.foldl (endRequest outcome n) (endRequest outcome n d b)) (Reg.TXB_CTL n b) =
            getReg (endRequest outcome n d b) (Reg.TXB_CTL n b) := by
          have hl : ∀ (c : Die), getReg (l.foldl (endRequest outcome n) c) (Reg.TXB_CTL n b) = getReg c (Reg.TXB_CTL n b) := by
            intro c
            refine Leaves.foldl (p := fun o => o ≠ Reg.TXB_CTL n b) (fun c x hx => ?_) c _ (by simp)
            exact fun o ho => by
              rw [not_not.1 ho]
              exact endRequest_ne c (fun h : b = x => hnot (h ▸ hx)) outcome
          exact hl _
        have hstep : endRequest outcome n d b = txbEnd d n b outcome := if_pos hr
        obtain ⟨hf, ho, -⟩ := txbDone_flags d (n := n) (b := b) outcome hout
        refine ⟨?_, ?_⟩
        · rw [flag, fld]
          show (bitsOf (getReg _ (Reg.TXB_CTL n b)).toNat _ _ == 1) = false
          rw [hrest, hstep, txbEnd_eq]
          exact hf
        · rw [fld]
          show bitsOf (getReg _ (Reg.TXB_CTL n b)).toNat _ _ = outcome
          rw [hrest, hstep, txbEnd_eq]
          exact ho
      · refine ih _ hnodup' ((List.mem_cons.1 hmem).resolve_left hbb) ?_
        rw [← hr, flag, fld, flag, fld]
        show (bitsOf (getReg _ (Reg.TXB_CTL n b)).toNat _ _ == 1) = (bitsOf (getReg _ (Reg.TXB_CTL n b)).toNat _ _ == 1)
        rw [endRequest_ne d hbb]
  exact key (upto 3) d (by decide) ((mem_upto ..).2 hb) hreq

theorem keeps_canEndAll (d : Die) (n outcome : Nat) : Keeps [.regs, .can] d (canEndAll d n outcome) := by
  rw [canEndAll_eq]
  refine Keeps.foldl (fun d b => ?_) _ d
  unfold endRequest
  split
  · exact keeps_txbEnd d outcome
  · exact .refl _ _

theorem ends_canReqOff {s : State} {n : Fin 4} (ha : accepts s (Reg.CAN_CTL n.val) 0) (hst : canState s.die n.val ≠ 0) :
    ends (.canReqOff n) s fun t => canState t.die n.val = 0 ∧ (∀ b, b < 3 → flag s.die (Reg.TXB_CTL_REQ n.val b) = true →
      flag t.die (Reg.TXB_CTL_REQ n.val b) = false ∧ fld t.die (Reg.TXB_CTL_OUTCOME n.val b) = 2) ∧
      keepsBut [.regs, .can] s t := by
  refine ends_canCtl ha rfl fun d hk hl => ?_
  have hst' : canState d n.val ≠ 0 := by rwa [canState_of_found hl]
  have heq : canCtl d n.val 0 = updCan (canSetState (canEndAll d n.val 2) n.val 0) n.val fun h =>
      { h with modeReq := none, offered := none, out := none, wait := false } := by
    simp [canCtl, canReq, bitOf, hst']
  rw [heq]
  refine ⟨?_, fun b hb hreq => ?_, keepsBut_command ?_⟩
  · rw [canState_irqSettle, canState_updCan, canState_canSetState]
  · obtain ⟨hr, ho⟩ := canEndAll_spec d (n := n.val) (outcome := 2) hb (by decide) ((flag_of_leaves hl _ not_false).trans hreq)
    refine ⟨?_, ?_⟩
    · rw [flag_irqSettle, flag_updCan, canSetState, flag_setFld_ne _ _ (Reg.CAN_STAT_STATE n.val) _ (txb_ne_stat _ _ _), hr]
    · rw [fld_irqSettle, fld_updCan, canSetState, fld_setFld_ne _ _ (Reg.CAN_STAT_STATE n.val) _ (txb_ne_stat _ _ _), ho]
  · rw [keeps_updCan _ _ (by simp), canSetState, keeps_setFld _ _ (by simp)]
    exact (hk.mono (by simp)).trans (keeps_canEndAll _ _ _)

/-! Writes of the bit timing. -/

theorem canTiming_rows : ∀ n : Fin 4, writeBits (Reg.CAN_NBT n.val) = some (0x7FFFFFF, 0, 0) ∧
    writeBits (Reg.CAN_DBT n.val) = some (0x3FFFFFF, 0, 0) ∧ storesBits (Reg.CAN_NBT n.val) = true ∧
    storesBits (Reg.CAN_DBT n.val) = true ∧ inAxis (Reg.CAN_NBT n.val) = false ∧ inAxis (Reg.CAN_DBT n.val) = false ∧
    cyclic (Reg.CAN_NBT n.val) = false ∧ cyclic (Reg.CAN_DBT n.val) = false := by decide +kernel

/-- A write of one of the two bit timing registers: the low `w` bits are stored. -/
theorem ends_canTiming {i : Instr} {s : State} {n : Fin 4} {v : Word} {off o w : Nat} (ha : accepts s off v.toNat)
    (hi : exec i s = onDie (busWrite off v.toNat) s) (hbits : writeBits off = some (2 ^ w - 1, 0, 0)) (hw : 2 ^ w - 1 + 0 + 0 ≠ 0)
    (hmask : ∀ i < w, (BitVec.ofNat 32 (2 ^ w - 1)).toNat.testBit (0 + i) = true) (hstores : storesBits off = true)
    (hax : inAxis off = false) (hcyc : cyclic off = false) (hoff : off = 0x11000 + n.val * 0x400 + o) (ho : o < 0x40) (ho' : o ≠ 4) :
    ends i s fun t => (getReg t.die off).toNat % 2 ^ w = v.toNat % 2 ^ w ∧ regsBut (· = off) s t ∧ keepsBut [.regs] s t := by
  refine ends_of_accepts ha hi hbits hw fun r hrw hw1c => ?_
  rw [writeStore_of_storesBits hstores, writeHook_can _ n.isLt (o := o) (by omega) hoff, if_neg ho', if_neg (by omega),
    if_neg (by omega)]
  refine ⟨?_, regsBut_command (leaves_storeReg _ _ _ _), keepsBut_command (keeps_storeReg_of_plain _ _ _ _ hax hcyc)⟩
  have hfld := bitsOf_storeReg hax hrw hw1c (lo := 0) (w := w) hmask v.isLt (found s)
  rw [bitsOf_eq, bitsOf_eq, Nat.pow_zero, Nat.div_one, Nat.div_one] at hfld
  exact (congrArg (fun x : Word => x.toNat % 2 ^ w) (getReg_irqSettle ..)).trans hfld

/-! Writes of a transmit buffer and of the receive FIFO. -/

theorem writeBits_txbCtl : ∀ (n : Fin 4) (b : Fin 3), writeBits (Reg.TXB_CTL n.val b.val) = some (5, 0, 2) := by decide +kernel

/-- An accepted write of TXB_b_CTL is the requests it makes (R323, R325). -/
theorem ends_txbCtl {i : Instr} {s : State} {n : Fin 4} {b : Fin 3} {v : Nat} {P : State → Prop}
    (ha : accepts s (Reg.TXB_CTL n.val b.val) v) (hi : exec i s = onDie (busWrite (Reg.TXB_CTL n.val b.val) v) s)
    (h : P { s with die := irqSettle s.die (txbCtl (found s) n.val b.val v) }) : ends i s P := by
  have hoff : Reg.TXB_CTL n.val b.val = 0x11000 + n.val * 0x400 + (0x40 + b.val * 0x50) := by simp only [Reg.TXB_CTL]; omega
  have hb : b.val < 3 := b.isLt
  refine ends_of_accepts ha hi (writeBits_txbCtl n b) (by decide) fun r _ _ => ?_
  rw [writeStore_txbCtl _ _ n.isLt hb, writeHook_can _ n.isLt (o := 0x40 + b.val * 0x50) (by omega) hoff, if_neg (by omega),
    if_neg (by omega), if_pos (by omega), show (0x40 + b.val * 0x50 - 0x40) / 0x50 = b.val by omega]
  exact h

theorem ends_txbReq {s : State} {n : Fin 4} {b : Fin 3} {one : Bool}
    (ha : accepts s (Reg.TXB_CTL n.val b.val) (1 + 4 * b2n one)) :
    ends (.txbReq n b one) s fun t => flag t.die (Reg.TXB_CTL_REQ n.val b.val) = true ∧
      flag t.die (Reg.TXB_CTL_ONESHOT n.val b.val) = one ∧ regsBut (· = Reg.TXB_CTL n.val b.val) s t ∧
      keepsBut [.regs] s t := by
  refine ends_txbCtl ha rfl ?_
  have heq : txbCtl (found s) n.val b.val (1 + 4 * b2n one) =
      setFlag (setFld (found s) (Reg.TXB_CTL_ONESHOT n.val b.val) (b2n one)) (Reg.TXB_CTL_REQ n.val b.val) := by
    cases one <;> rfl
  rw [heq]
  refine ⟨?_, ?_, regsBut_command ?_, keepsBut_command (by simp)⟩
  · rw [flag_irqSettle]
    exact flag_setFlag_same _ _ (show 0 + 1 ≤ 32 by decide) rfl
  · rw [flag_irqSettle, flag, setFlag, fld_setFld_above _ (Reg.TXB_CTL_ONESHOT n.val b.val) (Reg.TXB_CTL_REQ n.val b.val) _ rfl
      (show 0 + 1 ≤ 2 by decide) (show 0 + 1 ≤ 32 by decide), fld_setFld_same _ _ _ (show 2 + 1 ≤ 32 by decide)]
    cases one <;> rfl
  · refine (leaves_setFlag (p := (· = Reg.TXB_CTL n.val b.val)) _ _ (f := Reg.TXB_CTL_REQ n.val b.val) rfl).2 ?_
    exact (leaves_setFld (p := (· = Reg.TXB_CTL n.val b.val)) _ _ (f := Reg.TXB_CTL_ONESHOT n.val b.val) rfl _).2 (.refl _ _)

/-- The part once a write without ONESHOT has stored it. -/
def oneshotCleared (s : State) (n b : Nat) : Die := setFld (found s) (Reg.TXB_CTL_ONESHOT n b) 0

theorem req_oneshotCleared (s : State) (n b : Nat) :
    flag (oneshotCleared s n b) (Reg.TXB_CTL_REQ n b) = flag s.die (Reg.TXB_CTL_REQ n b) :=
  congrArg (· == 1) (fld_setFld_below _ (Reg.TXB_CTL_REQ n b) (Reg.TXB_CTL_ONESHOT n b) _ rfl (show 0 + 1 ≤ 2 by decide)
    (show 2 + 1 ≤ 32 by decide))

theorem txbCtl_abort {s : State} {n b : Nat} (hreq : flag s.die (Reg.TXB_CTL_REQ n b) = true) :
    txbCtl (found s) n b 2 = if (canH s.die n).offered = some b
      then updCan (oneshotCleared s n b) n fun h => { h with aborting := vset h.aborting b true }
      else txbEnd (oneshotCleared s n b) n b 2 := by
  have hreq' := (req_oneshotCleared s n b).trans hreq
  show txbAbortDo (oneshotCleared s n b) n b = _
  rw [txbAbortDo, if_neg (by simp [hreq'])]
  rfl

theorem leaves_oneshotCleared (s : State) (n b : Nat) : Leaves (· = Reg.TXB_CTL n b) (found s) (oneshotCleared s n b) :=
  (leaves_setFld (p := (· = Reg.TXB_CTL n b)) _ _ (f := Reg.TXB_CTL_ONESHOT n b) rfl _).2 (.refl _ _)

theorem ends_txbAbort_waiting {s : State} {n : Fin 4} {b : Fin 3} (ha : accepts s (Reg.TXB_CTL n.val b.val) 2)
    (hreq : flag s.die (Reg.TXB_CTL_REQ n.val b.val) = true) (hoff : (canH s.die n.val).offered ≠ some b.val) :
    ends (.txbAbort n b) s fun t => flag t.die (Reg.TXB_CTL_REQ n.val b.val) = false ∧
      fld t.die (Reg.TXB_CTL_OUTCOME n.val b.val) = 2 ∧ flag t.die (Reg.CAN_STAT_TXDONE n.val) = true ∧
      regsBut (fun o => o = Reg.TXB_CTL n.val b.val ∨ o = Reg.CAN_STAT n.val) s t ∧ keepsBut [.regs, .can] s t := by
  refine ends_txbCtl ha rfl ?_
  rw [txbCtl_abort hreq, if_neg hoff]
  obtain ⟨hr, ho, hd⟩ := txbDone_flags (oneshotCleared s n.val b.val) (n := n.val) (b := b.val) 2 (by decide)
  refine ⟨?_, ?_, ?_, regsBut_command ?_, keepsBut_command ?_⟩
  · rw [flag_irqSettle, txbEnd_eq, flag_updCan, hr]
  · rw [fld_irqSettle, txbEnd_eq, fld_updCan, ho]
  · rw [flag_irqSettle, txbEnd_eq, flag_updCan, hd]
  · exact ((leaves_oneshotCleared _ _ _).mono fun o ho => .inl ho).trans (leaves_txbEnd _ _)
  · exact Keeps.trans (d := oneshotCleared s n.val b.val) (by simp [oneshotCleared]) (keeps_txbEnd _ _)

theorem ends_txbAbort_offered {s : State} {n : Fin 4} {b : Fin 3} (ha : accepts s (Reg.TXB_CTL n.val b.val) 2)
    (hreq : flag s.die (Reg.TXB_CTL_REQ n.val b.val) = true) (hoff : (canH s.die n.val).offered = some b.val) :
    ends (.txbAbort n b) s fun t => flag t.die (Reg.TXB_CTL_REQ n.val b.val) = true ∧
      vget false (canH t.die n.val).aborting b.val = true ∧ regsBut (· = Reg.TXB_CTL n.val b.val) s t ∧
      keepsBut [.regs, .can] s t := by
  refine ends_txbCtl ha rfl ?_
  rw [txbCtl_abort hreq, if_pos hoff]
  refine ⟨?_, ?_, regsBut_command ?_, keepsBut_command ?_⟩
  · rw [flag_irqSettle, flag_updCan, req_oneshotCleared, hreq]
  · rw [canH_irqSettle, canH_updCan_same _ _ _ n.isLt, vget_vset_same _ _ _ _ b.isLt]
  · exact (leaves_updCan (p := (· = Reg.TXB_CTL n.val b.val)) _ _ _ _).2 (leaves_oneshotCleared _ _ _)
  · simp [oneshotCleared]

theorem ends_rxfPop {s : State} {n : Fin 4} (ha : accepts s (Reg.CAN_RXF_POP n.val) 1) : ends (.rxfPop n) s fun t =>
    (canH t.die n.val).fifo = (canH s.die n.val).fifo.drop 1 ∧ (∀ m, m ≠ n.val → canH t.die m = canH s.die m) ∧
    regsBut (fun _ => False) s t ∧ keepsBut [.regs, .can] s t := by
  obtain ⟨hbits, hstores, hax, hcyc⟩ := (by decide +kernel : ∀ n : Fin 4, writeBits (Reg.CAN_RXF_POP n.val) = some (0, 0, 0xFFFFFFFF) ∧
    storesBits (Reg.CAN_RXF_POP n.val) = true ∧ inAxis (Reg.CAN_RXF_POP n.val) = false ∧ cyclic (Reg.CAN_RXF_POP n.val) = false) n
  have hoff : Reg.CAN_RXF_POP n.val = 0x11000 + n.val * 0x400 + 0x144 := by simp only [Reg.CAN_RXF_POP]; omega
  refine ends_of_accepts ha rfl hbits (by decide) fun r hrw hw1c => ?_
  rw [writeStore_of_storesBits hstores, writeHook_can _ n.isLt (o := 0x144) (by decide) hoff, if_neg (by decide), if_pos rfl]
  have hl := leaves_storeReg_of_command hrw hw1c (found s) (Reg.CAN_RXF_POP n.val) 1
  have hk := keeps_storeReg_of_plain (found s) r (Reg.CAN_RXF_POP n.val) 1 hax hcyc
  generalize storeReg (found s) r (Reg.CAN_RXF_POP n.val) 1 = d at hl hk
  have hcan : ∀ m, canH d m = canH s.die m := canH_of_keeps hk (by simp)
  refine ⟨?_, fun m hm => ?_, regsBut_command hl, keepsBut_command ?_⟩
  · rw [canH_irqSettle, canPop, canH_updCan_same _ _ _ n.isLt, hcan]
  · rw [canH_irqSettle, canPop, canH_updCan_ne _ _ hm, hcan]
  · rw [canPop, keeps_updCan _ _ (by simp)]
    exact hk.mono (by simp)

/-- Settles O20: each write is the request it makes; the end of all requests is an induction over the buffers. -/
theorem canWrites : Obligations.CanWrites := by
  refine ⟨fun _ _ ha hst => ends_canReqOff ha hst,
    fun s n ha => ⟨fun hst hboot => ends_canStart (.inl rfl) ha rfl hst hboot, fun hst => ends_canChange (.inl rfl) ha rfl hst⟩,
    fun s n ha => ⟨fun hst hboot => ends_canStart (.inr rfl) ha rfl hst hboot, fun hst => ends_canChange (.inr rfl) ha rfl hst⟩,
    fun _ _ ha => ends_canRecover ha, fun s n v => ?_, fun _ _ _ _ ha => ends_txbReq ha,
    fun _ _ _ ha hreq => ⟨fun hoff => ends_txbAbort_waiting ha hreq hoff, fun hoff => ends_txbAbort_offered ha hreq hoff⟩,
    fun _ _ ha => ends_rxfPop ha⟩
  obtain ⟨hn, hd, hnst, hdst, hnax, hdax, hncyc, hdcyc⟩ := canTiming_rows n
  refine ⟨fun ha => ends_canTiming ha rfl hn (by decide) (by decide) hnst hnax hncyc (n := n) (o := 0x10) ?_ (by decide) (by decide),
    fun ha => ends_canTiming ha rfl hd (by decide) (by decide) hdst hdax hdcyc (n := n) (o := 0x14) ?_ (by decide) (by decide)⟩
  · simp only [Reg.CAN_NBT]
    omega
  · simp only [Reg.CAN_DBT]
    omega

end Sys2Proof.Machine
end

section
/-! PROOFS. Accepted writes of the host port, the power manager and the Logbook (R342, R343, R350, R354, R355, R378, R386 to R388,
R402, R403, R407). -/

namespace Sys2Proof.Machine

open Sys2Proof

/-! Writes that store bits, and writes that are commands. -/

/-- A write of a plain register whose row stores the bits `m`, and nothing beside. -/
theorem ends_bitsWrite {i : Instr} {s : State} {off v m : Nat} (ha : accepts s off v) (hi : exec i s = onDie (busWrite off v) s)
    (hbits : writeBits off = some (m, 0, 0)) (hm : m + 0 + 0 ≠ 0) (hstores : storesBits off = true) (hax : inAxis off = false)
    (hcyc : cyclic off = false) (hhook : ∀ d, writeHook d off v = d) (f : Fld) (hoff : f.off = off) (hv : v < 2 ^ 32)
    (hmask : ∀ i < f.w, (BitVec.ofNat 32 m).toNat.testBit (f.lo + i) = true) :
    ends i s fun t => fld t.die f = bitsOf v f.lo f.w ∧ regsBut (· = off) s t ∧ keepsBut [.regs] s t := by
  refine ends_of_accepts ha hi hbits hm fun r hrw hw1c => ?_
  rw [writeStore_of_storesBits hstores, hhook]
  refine ⟨(fld_irqSettle ..).trans ?_, regsBut_command (leaves_storeReg _ _ _ _),
    keepsBut_command (keeps_storeReg_of_plain _ _ _ _ hax hcyc)⟩
  rw [fld, hoff]
  exact bitsOf_storeReg hax hrw hw1c hmask hv (found s)

/-- A write of a register that takes commands acts on a part that reads as it was found. -/
theorem ends_commandWrite {i : Instr} {s : State} {off v wo : Nat} {P : State → Prop} (ha : accepts s off v)
    (hi : exec i s = onDie (busWrite off v) s) (hbits : writeBits off = some (0, 0, wo)) (hne : 0 + 0 + wo ≠ 0)
    (hstores : storesBits off = true) (hax : inAxis off = false) (hcyc : cyclic off = false)
    (h : ∀ d, Keeps [.regs] (found s) d → Leaves (fun _ => False) (found s) d →
      P { s with die := irqSettle s.die (writeHook d off v) }) : ends i s P := by
  refine ends_of_accepts ha hi hbits hne fun r hrw hw1c => ?_
  rw [writeStore_of_storesBits hstores]
  exact h _ (keeps_storeReg_of_plain _ _ _ _ hax hcyc) (leaves_storeReg_of_command hrw hw1c _ _ _)

theorem bitsOf_low_of_lt {v w : Nat} (h : v < 2 ^ w) : bitsOf v 0 w = v := by
  rw [bitsOf_eq, Nat.pow_zero, Nat.div_one, Nat.mod_eq_of_lt h]

theorem still_irqSettle (c d : Die) : (irqSettle c d).host.still = d.host.still := keeps_irqSettle [] c d .host (by simp)

/-! The host port. -/

theorem ends_lock {s : State} (ha : accepts s Reg.HST_LOCK 1) : ends .lock s fun t => flag t.die Reg.HST_LOCK_LOCK = true ∧
    regsBut (· = Reg.HST_LOCK) s t ∧ keepsBut [.regs] s t := by
  refine ends_of_accepts ha rfl (rw' := 1) (w1c := 0) (wo := 0) (by decide +kernel) (by decide) fun r _ _ => ?_
  rw [show writeHook (writeStore (found s) r Reg.HST_LOCK 1) Reg.HST_LOCK 1 = setFlag (found s) Reg.HST_LOCK_LOCK from rfl]
  refine ⟨(flag_irqSettle ..).trans (flag_setFlag_same _ _ (by decide) rfl), regsBut_command ?_, keepsBut_command (by simp)⟩
  exact (leaves_setFlag (p := (· = Reg.HST_LOCK)) _ _ (f := Reg.HST_LOCK_LOCK) rfl).2 (.refl _ _)

theorem ends_versionSelect {s : State} {v : Word} (ha : accepts s Reg.HST_VER_SEL v.toNat) : ends (.versionSelect v) s fun t =>
    fld t.die Reg.HST_VER_SEL_VER = v.toNat % 256 ∧ regsBut (· = Reg.HST_VER_SEL) s t ∧ keepsBut [.regs] s t := by
  have h := ends_bitsWrite ha rfl (m := 0xFF) (by decide +kernel) (by decide) (by decide) (by decide) (by decide)
    (fun d => writeHook_of_quiet (by decide) d _) Reg.HST_VER_SEL_VER rfl v.isLt (by decide) (i := .versionSelect v)
  rwa [bitsOf_eq, show Reg.HST_VER_SEL_VER.lo = 0 from rfl, Nat.pow_zero, Nat.div_one] at h

theorem ends_responseSelect {s : State} {k : BitVec 16} (ha : accepts s Reg.HST_RSP_SEL k.toNat) :
    ends (.responseSelect k) s fun t => fld t.die Reg.HST_RSP_SEL_TICKET = k.toNat ∧ regsBut (· = Reg.HST_RSP_SEL) s t ∧
      keepsBut [.regs] s t := by
  have hk : k.toNat < 2 ^ 16 := k.isLt
  have h := ends_bitsWrite ha rfl (m := 0xFFFF) (by decide +kernel) (by decide) (by decide) (by decide) (by decide)
    (fun d => rfl) Reg.HST_RSP_SEL_TICKET rfl (by omega) (by decide) (i := .responseSelect k)
  rwa [show Reg.HST_RSP_SEL_TICKET.lo = 0 from rfl, show Reg.HST_RSP_SEL_TICKET.w = 16 from rfl, bitsOf_low_of_lt hk] at h

theorem write_ringHead (d : Die) (r : RegRow) (v : Nat) :
    writeHook (writeStore d r Reg.HST_CRING_HEAD v) Reg.HST_CRING_HEAD v = ringHead d v := rfl

theorem ends_ringHeadWrite {s : State} {v : Word} (ha : accepts s Reg.HST_CRING_HEAD v.toNat) :
    ends (.ringHeadWrite v) s fun t => fld t.die Reg.HST_CRING_HEAD_HEAD = v.toNat % 2 ^ 16 ∧
      t.die.host.delivered =
        consume ((v.toNat % 2 ^ 16 + 2 ^ 16 - fld s.die Reg.HST_CRING_HEAD_HEAD) % 2 ^ 16) true s.die.host.delivered ∧
      regsBut (· = Reg.HST_CRING_HEAD) s t ∧ keepsBut [.regs, .host] s t := by
  refine ends_of_accepts ha rfl (rw' := 0xFFFF) (w1c := 0) (wo := 0) (by decide +kernel) (by decide) fun r _ _ => ?_
  rw [write_ringHead]
  refine ⟨(fld_irqSettle ..).trans (fld_setFld_same (found s) Reg.HST_CRING_HEAD_HEAD _ (by decide)),
    congrArg HostSt.delivered (still_irqSettle ..), regsBut_command ?_, keepsBut_command (by simp [ringHead])⟩
  refine (leaves_updHost (p := (· = Reg.HST_CRING_HEAD)) _ _ _).2 ?_
  exact (leaves_setFld (p := (· = Reg.HST_CRING_HEAD)) _ _ (f := Reg.HST_CRING_HEAD_HEAD) rfl _).2 (.refl _ _)

theorem write_ringEnable (d : Die) (r : RegRow) (v : Nat) :
    writeHook (writeStore d r Reg.HST_CRING_CTL v) Reg.HST_CRING_CTL v = ringEnable d v := rfl

theorem ends_ringEnable_on {s : State} (ha : accepts s Reg.HST_CRING_CTL 1) : ends (.ringEnableWrite true) s fun t =>
    flag t.die Reg.HST_CRING_CTL_EN = true ∧ fld t.die Reg.HST_CRING_TAIL_TAIL = 0 ∧ fld t.die Reg.HST_CRING_HEAD_HEAD = 0 ∧
    keepsBut [.regs] s t := by
  refine ends_of_accepts ha rfl (rw' := 1) (w1c := 0) (wo := 0) (by decide +kernel) (by decide) fun r _ _ => ?_
  rw [write_ringEnable, show ringEnable (found s) 1 =
    setFld (setFld (setFld (found s) Reg.HST_CRING_CTL_EN 1) Reg.HST_CRING_TAIL_TAIL 0) Reg.HST_CRING_HEAD_HEAD 0 from rfl]
  refine ⟨(flag_irqSettle ..).trans ?_, (fld_irqSettle ..).trans ?_,
    (fld_irqSettle ..).trans (fld_setFld_same _ _ _ (by decide)), keepsBut_command (by simp)⟩
  · rw [flag_setFld_ne _ _ _ _ (by decide), flag_setFld_ne _ _ _ _ (by decide), flag, fld_setFld_same _ _ _ (by decide)]
    rfl
  · rw [fld_setFld_ne _ _ _ _ (by decide), fld_setFld_same _ _ _ (by decide)]
    rfl

theorem ends_ringEnable_off {s : State} (ha : accepts s Reg.HST_CRING_CTL 0) : ends (.ringEnableWrite false) s fun t =>
    flag t.die Reg.HST_CRING_CTL_EN = false ∧ regsBut (· = Reg.HST_CRING_CTL) s t ∧ keepsBut [.regs] s t := by
  refine ends_of_accepts ha rfl (rw' := 1) (w1c := 0) (wo := 0) (by decide +kernel) (by decide) fun r _ _ => ?_
  rw [write_ringEnable, show ringEnable (found s) 0 = setFld (found s) Reg.HST_CRING_CTL_EN 0 from rfl]
  refine ⟨(flag_irqSettle ..).trans ?_, regsBut_command ?_, keepsBut_command (by simp)⟩
  · rw [flag, fld_setFld_same _ _ _ (by decide)]
    rfl
  · exact (leaves_setFld (p := (· = Reg.HST_CRING_CTL)) _ _ (f := Reg.HST_CRING_CTL_EN) rfl _).2 (.refl _ _)

theorem ends_cfifoPop {s : State} (ha : accepts s Reg.HST_CFIFO_POP 1) (hfifo : s.die.host.fifo ≠ []) :
    ends .hstCfifoPop s fun t => t.die.host.fifo = s.die.host.fifo.drop 1 ∧
      t.die.host.delivered = consume 1 false s.die.host.delivered ∧
      regsBut (fun _ => False) s t ∧ keepsBut [.regs, .host] s t := by
  refine ends_commandWrite ha rfl (wo := 0xFFFFFFFF) (by decide +kernel) (by decide) (by decide) (by decide) (by decide)
    fun d hk hl => ?_
  have hstill : d.host.still = s.die.host.still := hk .host (by simp)
  have hf : d.host.fifo = s.die.host.fifo :=
    show d.host.still.fifo = s.die.host.still.fifo from congrArg HostSt.fifo hstill
  have hd : d.host.delivered = s.die.host.delivered :=
    show d.host.still.delivered = s.die.host.still.delivered from congrArg HostSt.delivered hstill
  have heq : writeHook d Reg.HST_CFIFO_POP 1 =
      updHost d fun h => { h with fifo := h.fifo.drop 1, delivered := consume 1 false h.delivered } :=
    (show _ = cfifoPop d from rfl).trans (if_neg (by rw [hf]; simpa using hfifo))
  rw [heq]
  refine ⟨?_, ?_, regsBut_command ?_, keepsBut_command ?_⟩
  · rw [← hf]
    exact congrArg HostSt.fifo (still_irqSettle ..)
  · rw [← hd]
    exact congrArg HostSt.delivered (still_irqSettle ..)
  · exact (leaves_updHost (p := fun _ => False) _ _ _).2 hl
  · rw [keeps_updHost _ _ (by simp)]
    exact hk.mono (by simp)

/-! The power manager. -/

theorem ends_vinminWrite {s : State} {v : Word} (ha : accepts s Reg.PWR_VINMIN v.toNat) : ends (.vinminWrite v) s fun t =>
    fld t.die Reg.PWR_VINMIN_VINMIN = min s.die.pwr.vin 65535 ∧ regsBut (· = Reg.PWR_VINMIN) s t ∧ keepsBut [.regs] s t := by
  refine ends_of_accepts ha rfl (rw' := 0xFFFF) (w1c := 0) (wo := 0) (by decide +kernel) (by decide) fun r _ _ => ?_
  rw [show writeHook (writeStore (found s) r Reg.PWR_VINMIN v.toNat) Reg.PWR_VINMIN v.toNat =
    putReg (found s) Reg.PWR_VINMIN (BitVec.ofNat 32 (min s.die.pwr.vin 65535)) from rfl]
  refine ⟨(fld_irqSettle ..).trans ?_, regsBut_command ?_, keepsBut_command (by simp)⟩
  · show bitsOf (getReg _ Reg.PWR_VINMIN).toNat 0 16 = _
    rw [getReg_putReg_same, BitVec.toNat_ofNat, Nat.mod_eq_of_lt (by omega), bitsOf_low_of_lt (by omega)]
  · exact (leaves_putReg (p := (· = Reg.PWR_VINMIN)) _ _ rfl _).2 (.refl _ _)

theorem ends_tjPeakWrite {s : State} {v : Word} (ha : accepts s Reg.PWR_TJ v.toNat) : ends (.tjPeakWrite v) s fun t =>
    fld t.die Reg.PWR_TJ_PEAK = s.die.pwr.tj % 65536 ∧ regsBut (· = Reg.PWR_TJ) s t ∧ keepsBut [.regs] s t := by
  refine ends_of_accepts ha rfl (rw' := 0xFFFF0000) (w1c := 0) (wo := 0) (by decide +kernel) (by decide) fun r _ _ => ?_
  rw [show writeHook (writeStore (found s) r Reg.PWR_TJ v.toNat) Reg.PWR_TJ v.toNat =
    putReg (found s) Reg.PWR_TJ (BitVec.ofNat 32 (s.die.pwr.tj % 65536 * 65536)) from rfl]
  refine ⟨(fld_irqSettle ..).trans ?_, regsBut_command ?_, keepsBut_command (by simp)⟩
  · show bitsOf (getReg _ Reg.PWR_TJ).toNat 16 16 = _
    rw [getReg_putReg_same, BitVec.toNat_ofNat, bitsOf_eq]
    omega
  · exact (leaves_putReg (p := (· = Reg.PWR_TJ)) _ _ rfl _).2 (.refl _ _)

/-- An accepted write of PWR_CTL is the request it makes (R386 to R388). -/
theorem ends_pwrCtl {i : Instr} {s : State} {v : Nat} {P : State → Prop} (ha : accepts s Reg.PWR_CTL v)
    (hi : exec i s = onDie (busWrite Reg.PWR_CTL v) s)
    (h : ∀ d, Keeps [.regs] (found s) d → Leaves (fun _ => False) (found s) d →
      P { s with die := irqSettle s.die (pwrCtl d v) }) : ends i s P :=
  ends_commandWrite ha hi (wo := 0xFFFF0003) (by decide +kernel) (by decide) (by decide) (by decide) (by decide) h

theorem ends_dozeRequest {s : State} (ha : accepts s Reg.PWR_CTL 1) (hmode : fld s.die Reg.PWR_STAT_MODE = 0)
    (hhib : s.die.pwr.hibReq = false) : ends .dozeRequest s fun t =>
      t.die.pwr.dozeReq = true ∧ regsBut (fun _ => False) s t ∧ keepsBut [.regs, .pwr] s t := by
  refine ends_pwrCtl ha rfl fun d hk hl => ?_
  have hpwr : d.pwr = s.die.pwr := hk .pwr (by simp)
  have hm : fld d Reg.PWR_STAT_MODE = 0 := (fld_of_leaves hl _ not_false).trans hmode
  have heq : pwrCtl d 1 = updPwr d fun p => { p with dozeReq := true } := by simp [pwrCtl, hpwr, hhib, hm]
  rw [heq]
  refine ⟨by rw [pwr_irqSettle]; rfl, regsBut_command ((leaves_updPwr (p := fun _ => False) _ _ _).2 hl), keepsBut_command ?_⟩
  rw [keeps_updPwr _ _ (by simp)]
  exact hk.mono (by simp)

theorem ends_runRequest {s : State} (ha : accepts s Reg.PWR_CTL 0) (hmode : fld s.die Reg.PWR_STAT_MODE = 1)
    (hhib : s.die.pwr.hibReq = false) : ends .runRequest s fun t => fld t.die Reg.PWR_STAT_MODE = 3 ∧ t.die.pwr.dozeOut = true ∧
      regsBut (· = Reg.PWR_STAT) s t ∧ keepsBut [.regs, .pwr] s t := by
  refine ends_pwrCtl ha rfl fun d hk hl => ?_
  have hpwr : d.pwr = s.die.pwr := hk .pwr (by simp)
  have hm : fld d Reg.PWR_STAT_MODE = 1 := (fld_of_leaves hl _ not_false).trans hmode
  have heq : pwrCtl d 0 = updPwr (setFld d Reg.PWR_STAT_MODE 3) fun p => { p with dozeOut := true } := by
    simp [pwrCtl, hpwr, hhib, hm]
  rw [heq]
  refine ⟨(fld_irqSettle ..).trans ?_, by rw [pwr_irqSettle]; rfl, regsBut_command ?_, keepsBut_command ?_⟩
  · exact fld_setFld_same d Reg.PWR_STAT_MODE 3 (by decide)
  · refine (leaves_updPwr (p := (· = Reg.PWR_STAT)) _ _ _).2 ?_
    exact (leaves_setFld (p := (· = Reg.PWR_STAT)) _ _ (f := Reg.PWR_STAT_MODE) rfl _).2 (hl.mono fun _ h => h.elim)
  · rw [keeps_updPwr _ _ (by simp), keeps_setFld _ _ (by simp)]
    exact hk.mono (by simp)

/-- A write that is accepted has no illegal value (R340). -/
theorem legal_of_judged {d : Die} {off v rw' w1c wo : Nat} (h : judgeWrite d false off 15 v = 0)
    (hb : writeBits off = some (rw', w1c, wo)) (hne : rw' + w1c + wo ≠ 0) : illegal d off v = false := by
  simp only [writeBits, Option.map_eq_some_iff, Prod.mk.injEq] at hb
  obtain ⟨x, hfind, hrw, hw1c, hwo⟩ := hb
  by_contra hill
  have hill' : illegal d off v = true := by simpa using hill
  unfold judgeWrite at h
  split at h
  · exact absurd h (by decide)
  · split at h
    · exact absurd h (by decide)
    · next y hy =>
      have hyx : y = x := by
        simp only [regAt, hfind] at hy
        split at hy
        · exact (Option.some.inj hy).symm
        · exact absurd hy (by simp)
      subst hyx
      simp only [hrw, hw1c, hwo, hill', hne, ne_eq, not_false_eq_true, and_self, or_true, if_true] at h
      split at h
      · exact absurd h (by decide)
      · split at h
        · exact absurd h (by decide)
        · split at h <;> exact absurd h (by decide)

theorem ends_hibernateRequest {s : State} {key : BitVec 16} (ha : accepts s Reg.PWR_CTL (2 + 65536 * key.toNat)) :
    ends (.hibernateRequest key) s fun t => t.die.pwr.hibReq = true ∧ key = 0x4E41 ∧ regsBut (fun _ => False) s t ∧
      keepsBut [.regs, .pwr] s t := by
  have hlt : key.toNat < 65536 := key.isLt
  have hkey : key = 0x4E41 := by
    obtain ⟨-, -, hjudge⟩ := ha
    have hlegal := legal_of_judged hjudge (rw' := 0) (w1c := 0) (wo := 0xFFFF0003) (by decide +kernel) (by decide)
    have h2 : (2 + 65536 * key.toNat) % 4 = 2 := by omega
    have hk : (2 + 65536 * key.toNat) / 65536 % 65536 = key.toNat := by omega
    rw [illegal, if_pos rfl, pwrCtlIllegal] at hlegal
    rw [h2, if_neg (by decide), if_neg (by decide), if_pos rfl, hk, Bool.or_eq_false_iff, bne_eq_false_iff_eq] at hlegal
    refine BitVec.eq_of_toNat_eq ?_
    simpa using hlegal.1
  refine ends_pwrCtl ha rfl fun d hk hl => ?_
  have heq : pwrCtl d (2 + 65536 * key.toNat) = updPwr d fun p => { p with hibReq := true } := by
    have h2 : (2 + 65536 * key.toNat) % 4 = 2 := by omega
    simp [pwrCtl, h2]
  rw [heq]
  refine ⟨by rw [pwr_irqSettle]; rfl, hkey, regsBut_command ((leaves_updPwr (p := fun _ => False) _ _ _).2 hl), keepsBut_command ?_⟩
  rw [keeps_updPwr _ _ (by simp)]
  exact hk.mono (by simp)

/-! The Logbook. -/

theorem logLose_spec (d : Die) (n : Nat) (hn : n = d.lgb.queue.length) : (logLose d n).lgb.queue = [] ∧
    (logLose d n).lgb.entries = d.lgb.entries ∧ Keeps [.regs, .lgb] d (logLose d n) := by
  unfold logLose
  split
  · next h => exact ⟨List.length_eq_zero_iff.1 (hn ▸ h), rfl, .refl _ _⟩
  · exact ⟨rfl, rfl, (keeps_lgb d (setFlag (putReg d Reg.LOG_CNT_LOST _) Reg.LOG_STAT_LOSS) (by simp) _).2 (by simp)⟩

theorem logFreeze_spec (d : Die) (h : flag d Reg.LOG_STAT_FROZEN = false) : flag (logFreeze d) Reg.LOG_STAT_FROZEN = true ∧
    (logFreeze d).lgb.queue = [] ∧ (logFreeze d).lgb.entries = d.lgb.entries ∧ Keeps [.regs, .lgb] d (logFreeze d) := by
  obtain ⟨hq, he, hk⟩ := logLose_spec d d.lgb.queue.length rfl
  have heq : logFreeze d = { setFld (setFlag (logLose d d.lgb.queue.length) Reg.LOG_STAT_FROZEN) Reg.LOG_STAT_PENDING 0 with
      lgb := { (logLose d d.lgb.queue.length).lgb with post := none } } := if_neg (by simp [h])
  rw [heq]
  generalize logLose d d.lgb.queue.length = e at hq he hk
  refine ⟨?_, hq, he, ?_⟩
  · have hf : fld (setFld (setFlag e Reg.LOG_STAT_FROZEN) Reg.LOG_STAT_PENDING 0) Reg.LOG_STAT_FROZEN = 1 :=
      (fld_setFld_below _ Reg.LOG_STAT_FROZEN Reg.LOG_STAT_PENDING 0 rfl (by decide) (by decide)).trans
        (fld_setFld_same e _ _ (by decide))
    exact congrArg (· == 1) hf
  · exact (keeps_lgb d (setFld (setFlag e Reg.LOG_STAT_FROZEN) Reg.LOG_STAT_PENDING 0) (by simp) _).2 (by simpa using hk)

theorem ends_freeze {s : State} (ha : accepts s Reg.LOG_CMD 1) (hfrozen : flag s.die Reg.LOG_STAT_FROZEN = false) :
    ends .freeze s fun t => flag t.die Reg.LOG_STAT_FROZEN = true ∧ t.die.lgb.queue = [] ∧
      t.die.lgb.entries = s.die.lgb.entries ∧ keepsBut [.regs, .lgb] s t := by
  refine ends_commandWrite ha rfl (wo := 3) (by decide +kernel) (by decide) (by decide) (by decide) (by decide) fun d hk hl => ?_
  have hlgb : d.lgb = s.die.lgb := hk .lgb (by simp)
  obtain ⟨hf, hq, he, hkeeps⟩ := logFreeze_spec d ((flag_of_leaves hl _ not_false).trans hfrozen)
  rw [show writeHook d Reg.LOG_CMD 1 = logFreeze d from rfl]
  refine ⟨by rw [flag_irqSettle, hf], by rw [lgb_irqSettle, hq], by rw [lgb_irqSettle, he, hlgb], keepsBut_command ?_⟩
  exact (hk.mono (by simp)).trans hkeeps

/-- The registers of a Logbook that writes again (R407). -/
def thawedRegs (d : Die) : Die :=
  setFld (setFld (setFld d Reg.LOG_STAT_FROZEN 0) Reg.LOG_STAT_PENDING 0) Reg.LOG_TRIGIDX_VALID 0

theorem thawedRegs_spec (d : Die) : flag (thawedRegs d) Reg.LOG_STAT_FROZEN = false ∧
    flag (thawedRegs d) Reg.LOG_TRIGIDX_VALID = false ∧ Keeps [.regs] d (thawedRegs d) := by
  refine ⟨?_, ?_, by simp [thawedRegs]⟩
  · rw [thawedRegs, flag_setFld_ne _ _ _ _ (by decide), flag,
      fld_setFld_below _ Reg.LOG_STAT_FROZEN Reg.LOG_STAT_PENDING 0 rfl (by decide) (by decide), fld_setFld_same _ _ _ (by decide)]
    rfl
  · rw [thawedRegs, flag, fld_setFld_same _ _ _ (by decide)]
    rfl

theorem logThaw_eq {d : Die} (h : flag d Reg.LOG_STAT_FROZEN = true) :
    logThaw d = { thawedRegs d with lgb := { d.lgb with post := none } } := if_neg (by simp [h])

theorem ends_thaw {s : State} (ha : accepts s Reg.LOG_CMD 2) (hfrozen : flag s.die Reg.LOG_STAT_FROZEN = true) :
    ends .thaw s fun t => flag t.die Reg.LOG_STAT_FROZEN = false ∧ flag t.die Reg.LOG_TRIGIDX_VALID = false ∧
      t.die.lgb.entries = s.die.lgb.entries ∧ keepsBut [.regs, .lgb] s t := by
  refine ends_commandWrite ha rfl (wo := 3) (by decide +kernel) (by decide) (by decide) (by decide) (by decide) fun d hk hl => ?_
  have hlgb : d.lgb = s.die.lgb := hk .lgb (by simp)
  obtain ⟨hf, hv, hregs⟩ := thawedRegs_spec d
  rw [show writeHook d Reg.LOG_CMD 2 = logThaw d from rfl, logThaw_eq ((flag_of_leaves hl _ not_false).trans hfrozen), hlgb]
  generalize thawedRegs d = e at hf hv hregs
  refine ⟨(flag_irqSettle ..).trans hf, (flag_irqSettle ..).trans hv, by rw [lgb_irqSettle], keepsBut_command ?_⟩
  exact (keeps_lgb _ e (by simp) _).2 ((hk.mono (by simp)).trans (hregs.mono (by simp)))

/-- A turn of the copy of an entry to the read registers (R403). -/
def copyWord (w : List Nat) (d : Die) (i : Nat) : Die := putReg d (Reg.LOG_RD_W i) (BitVec.ofNat 32 (nth w i))

theorem getReg_copyWords (w : List Nat) (l : List Nat) (d : Die) {j : Nat} (h : j ∈ l) :
    getReg (l.foldl (copyWord w) d) (Reg.LOG_RD_W j) = BitVec.ofNat 32 (nth w j) := by
  induction l using List.reverseRecOn with
  | nil => exact absurd h List.not_mem_nil
  | append_singleton l i ih =>
    rw [List.foldl_append]
    show getReg (putReg _ (Reg.LOG_RD_W i) _) _ = _
    by_cases hij : j = i
    · subst hij
      exact getReg_putReg_same ..
    · have hne : Reg.LOG_RD_W j ≠ Reg.LOG_RD_W i := by simp only [Reg.LOG_RD_W]; omega
      rw [getReg_putReg_ne _ _ hne]
      exact ih ((List.mem_append.1 h).resolve_right (by simpa using hij))

theorem keeps_copyWords (w : List Nat) (l : List Nat) (d : Die) : Keeps [.regs] d (l.foldl (copyWord w) d) :=
  Keeps.foldl (fun d i => by simp [copyWord]) l d

theorem write_logRdIdx (d : Die) (v : Nat) : writeHook d Reg.LOG_RD_IDX v = (upto 8).foldl (copyWord (sget [] d.lgb.entries (v % 4096 % 4096)))
    (putReg d Reg.LOG_RD_IDX (BitVec.ofNat 32 (v % 4096 % 4096))) := rfl

theorem ends_logRdIdxWrite {s : State} {i : BitVec 12} (ha : accepts s Reg.LOG_RD_IDX i.toNat) : ends (.logRdIdxWrite i) s fun t =>
    (∀ j, j < 8 → getReg t.die (Reg.LOG_RD_W j) = BitVec.ofNat 32 (nth (sget [] s.die.lgb.entries i.toNat) j)) ∧
    keepsBut [.regs] s t := by
  have hlt : i.toNat < 4096 := i.isLt
  refine ends_of_accepts ha rfl (rw' := 0xFFF) (w1c := 0) (wo := 0) (by decide +kernel) (by decide) fun r hrw hw1c => ?_
  rw [writeStore_of_storesBits (by decide), write_logRdIdx, Nat.mod_mod, Nat.mod_eq_of_lt hlt]
  have hk := keeps_storeReg_of_plain (found s) r Reg.LOG_RD_IDX i.toNat (by decide) (by decide)
  generalize storeReg (found s) r Reg.LOG_RD_IDX i.toNat = d at hk
  have hlgb : d.lgb = s.die.lgb := hk .lgb (by simp)
  rw [hlgb]
  refine ⟨fun j hj => (getReg_irqSettle ..).trans (getReg_copyWords _ _ _ ((mem_upto ..).2 hj)), keepsBut_command ?_⟩
  exact Keeps.trans ((keeps_putReg _ _ (by simp) _ _).2 hk) (keeps_copyWords _ _ _)

/-- Settles O21: each write is its store or the request it makes, on a part that reads as it was found. -/
theorem hostPowerAndLogWrites : Obligations.HostPowerAndLogWrites :=
  ⟨fun _ ha => ends_lock ha, fun _ _ ha => ends_versionSelect ha, fun _ _ ha => ends_responseSelect ha,
    fun _ _ ha => ends_ringHeadWrite ha, fun _ ha => ends_ringEnable_on ha, fun _ ha => ends_ringEnable_off ha,
    fun _ ha hf => ends_cfifoPop ha hf, fun _ _ ha => ends_vinminWrite ha, fun _ _ ha => ends_tjPeakWrite ha,
    fun _ ha hm hh => ends_dozeRequest ha hm hh, fun _ ha hm hh => ends_runRequest ha hm hh,
    fun _ _ ha => ends_hibernateRequest ha, fun _ ha hf => ends_freeze ha hf, fun _ ha hf => ends_thaw ha hf,
    fun _ _ ha => ends_logRdIdxWrite ha⟩

end Sys2Proof.Machine
end

section
/-! PROOFS. The judgement of a register write (R10, R280, R336, R339, R340, R417). -/

namespace Sys2Proof.Machine

open Sys2Proof

/-! A rejection. -/

theorem hstErr_ne_count : Reg.HST_ERR ≠ Reg.HST_CNT_ERR := by decide

/-- The registers of a rejection (R340). -/
def errRegs (o : Nat) : Prop := o = Reg.HST_ERR ∨ o = Reg.HST_CNT_ERR

theorem reject_frame (d : Die) (off : Nat) (rd : Bool) (code : Nat) : Leaves errRegs d (reject d off rd code) ∧
    Keeps [.regs] d (reject d off rd code) := by
  have hcount : Leaves errRegs d (incReg d Reg.HST_CNT_ERR) := (leaves_incReg (p := errRegs) _ _ (.inr rfl)).2 (.refl _ _)
  unfold reject
  extract_lets e
  split
  · exact ⟨(leaves_setFlag (p := errRegs) _ _ (f := Reg.HST_ERR_MULTI) (.inl rfl)).2 hcount, by simp [e]⟩
  · exact ⟨(leaves_putReg (p := errRegs) _ _ (.inl rfl) _).2 hcount, by simp [e]⟩

theorem valid_incReg (d : Die) : flag (incReg d Reg.HST_CNT_ERR) Reg.HST_ERR_VALID = flag d Reg.HST_ERR_VALID := by
  rw [flag, fld, incReg, getReg_putReg_ne _ _ (show Reg.HST_ERR_VALID.off ≠ Reg.HST_CNT_ERR by decide), flag, fld]

theorem reject_count (d : Die) (off : Nat) (rd : Bool) (code : Nat) : getReg (reject d off rd code) Reg.HST_CNT_ERR =
    BitVec.ofNat 32 (satInc 32 (getReg d Reg.HST_CNT_ERR).toNat) := by
  have hcount : getReg (incReg d Reg.HST_CNT_ERR) Reg.HST_CNT_ERR = BitVec.ofNat 32 (satInc 32 (getReg d Reg.HST_CNT_ERR).toNat) :=
    getReg_putReg_same ..
  rw [← hcount]
  unfold reject
  extract_lets e
  split
  · exact getReg_setFld_ne e Reg.HST_ERR_MULTI 1 hstErr_ne_count.symm
  · exact getReg_putReg_ne e _ hstErr_ne_count.symm

/-- The first rejection is recorded. -/
theorem reject_first {d : Die} (h : flag d Reg.HST_ERR_VALID = false) (off code : Nat) :
    getReg (reject d off false code) Reg.HST_ERR = BitVec.ofNat 32 (code + 256 * (off % 2 ^ 20) + 2 ^ 31) := by
  have heq : reject d off false code = putReg (incReg d Reg.HST_CNT_ERR) Reg.HST_ERR
      (BitVec.ofNat 32 (code + 256 * (off % 2 ^ 20) + 2 ^ 28 * b2n false + 2 ^ 31)) := if_neg (by rw [valid_incReg, h]; decide)
  rw [heq, getReg_putReg_same]
  rfl

/-- A later one is marked beside it. -/
theorem reject_later {d : Die} (h : flag d Reg.HST_ERR_VALID = true) (off : Nat) (rd : Bool) (code : Nat) :
    flag (reject d off rd code) Reg.HST_ERR_MULTI = true ∧
    fld (reject d off rd code) Reg.HST_ERR_CODE = fld d Reg.HST_ERR_CODE ∧
    fld (reject d off rd code) Reg.HST_ERR_OFFSET = fld d Reg.HST_ERR_OFFSET := by
  have heq : reject d off rd code = setFlag (incReg d Reg.HST_CNT_ERR) Reg.HST_ERR_MULTI := if_pos (by rw [valid_incReg, h])
  have hcount : ∀ f : Fld, f.off = Reg.HST_ERR → fld (incReg d Reg.HST_CNT_ERR) f = fld d f := fun f hf => by
    rw [fld, incReg, getReg_putReg_ne _ _ (hf ▸ hstErr_ne_count), fld]
  rw [heq]
  refine ⟨flag_setFlag_same _ _ (by decide) rfl, ?_, ?_⟩
  · exact (fld_setFld_below _ Reg.HST_ERR_CODE Reg.HST_ERR_MULTI 1 rfl (by decide) (by decide)).trans (hcount _ rfl)
  · exact (fld_setFld_below _ Reg.HST_ERR_OFFSET Reg.HST_ERR_MULTI 1 rfl (by decide) (by decide)).trans (hcount _ rfl)

/-! The write. -/

section Write

variable {s : State} {off : BitVec 20} {be : BitVec 4} {v : Word}

theorem exec_registerWrite (s : State) (off : BitVec 20) (be : BitVec 4) (v : Word) :
    exec (.registerWrite off be v) s = onDie (busWriteBe off.toNat be.toNat v.toNat) s := rfl

theorem trk_irqSettle (c d : Die) : (irqSettle c d).trk = d.trk := keeps_irqSettle [] c d .trk (by simp)

/-- A write that must wait is held with its lanes (R280, R339, R417). -/
theorem ends_registerWrite_waits (hup : hostUp (found s) = true)
    (hw : writesWait (found s) = true ∨ switching (found s) off.toNat = true) :
    ends (.registerWrite off be v) s fun t => keepsBut [.trk] s t ∧
      t.die.trk = { s.die.trk with held := s.die.trk.held ++ [.write 0 off.toNat be.toNat v.toNat] } := by
  have heq : busWriteBe off.toNat be.toNat v.toNat (found s) =
      holdReqs (found s) [.write 0 off.toNat be.toNat v.toNat] :=
    hw.elim (fun h => busWriteBe_waits hup h ..) (fun h => busWriteBe_switching hup h ..)
  refine ends_of_onDie (exec_registerWrite s off be v) ?_
  rw [heq]
  exact ⟨keepsBut_command (by simp), trk_irqSettle ..⟩

theorem be_mod (be : BitVec 4) : be.toNat % 16 = be.toNat := Nat.mod_eq_of_lt be.isLt

/-- A write that is taken at once. -/
theorem ends_registerWrite {P : State → Prop} (ht : hostTakes (found s) = true) (hs : switching (found s) off.toNat = false)
    (h : P { s with die := irqSettle s.die (hostWrite (found s) off.toNat be.toNat v.toNat) }) :
    ends (.registerWrite off be v) s P := by
  refine ends_of_onDie (exec_registerWrite s off be v) ?_
  rw [busWriteBe_takes ht hs]
  exact h

theorem hostWrite_none (d : Die) (off v : Nat) : hostWrite d off 0 v = d := rfl

theorem toNat_ne_zero_of_ne {be : BitVec 4} (h : be ≠ 0) : be.toNat % 16 ≠ 0 := fun h0 => h (BitVec.eq_of_toNat_eq (by
  rw [← be_mod, h0]
  rfl))

theorem hostWrite_rejected {d : Die} {off v : Nat} {be : BitVec 4} (hbe : be ≠ 0) (hc : judgeWrite d false off be.toNat v ≠ 0) :
    hostWrite d off be.toNat v = reject d off false (judgeWrite d false off be.toNat v) := by
  rw [hostWrite, hostWriteC, if_neg (toNat_ne_zero_of_ne hbe)]
  simp only [hc, ne_eq, not_false_eq_true, if_true]

theorem hostWrite_accepted {d : Die} {off v : Nat} {be : BitVec 4} (hbe : be ≠ 0) (hc : judgeWrite d false off be.toNat v = 0) :
    hostWrite d off be.toNat v = acceptWrite d false off be.toNat v := by
  rw [hostWrite, hostWriteC, if_neg (toNat_ne_zero_of_ne hbe)]
  simp only [hc, ne_eq, not_true_eq_false, if_false]

/-- The first rejection of a write (R340). -/
theorem ends_rejected_first (ht : hostTakes (found s) = true) (hs : switching (found s) off.toNat = false) (hbe : be ≠ 0)
    (hc : judgeWrite (found s) false off.toNat be.toNat v.toNat ≠ 0) (hvalid : flag s.die Reg.HST_ERR_VALID = false) :
    ends (.registerWrite off be v) s fun t =>
      getReg t.die Reg.HST_ERR =
        BitVec.ofNat 32 (judgeWrite (found s) false off.toNat be.toNat v.toNat + 256 * off.toNat + 2 ^ 31) ∧
      getReg t.die Reg.HST_CNT_ERR = BitVec.ofNat 32 (satInc 32 (getReg s.die Reg.HST_CNT_ERR).toNat) ∧
      regsBut errRegs s t ∧ keepsBut [.regs] s t := by
  have hoff : off.toNat % 2 ^ 20 = off.toNat := Nat.mod_eq_of_lt off.isLt
  refine ends_registerWrite ht hs ?_
  rw [hostWrite_rejected hbe hc]
  generalize judgeWrite (found s) false off.toNat be.toNat v.toNat = code
  obtain ⟨hl, hk⟩ := reject_frame (found s) off.toNat false code
  refine ⟨(getReg_irqSettle ..).trans ?_, (getReg_irqSettle ..).trans (reject_count (found s) ..), regsBut_command hl,
    keepsBut_command hk⟩
  rw [reject_first (show flag (found s) Reg.HST_ERR_VALID = false from hvalid), hoff]

/-- A later rejection of a write (R340). -/
theorem ends_rejected_later (ht : hostTakes (found s) = true) (hs : switching (found s) off.toNat = false) (hbe : be ≠ 0)
    (hc : judgeWrite (found s) false off.toNat be.toNat v.toNat ≠ 0) (hvalid : flag s.die Reg.HST_ERR_VALID = true) :
    ends (.registerWrite off be v) s fun t =>
      flag t.die Reg.HST_ERR_MULTI = true ∧ fld t.die Reg.HST_ERR_CODE = fld s.die Reg.HST_ERR_CODE ∧
      fld t.die Reg.HST_ERR_OFFSET = fld s.die Reg.HST_ERR_OFFSET ∧
      getReg t.die Reg.HST_CNT_ERR = BitVec.ofNat 32 (satInc 32 (getReg s.die Reg.HST_CNT_ERR).toNat) ∧
      regsBut errRegs s t ∧ keepsBut [.regs] s t := by
  refine ends_registerWrite ht hs ?_
  rw [hostWrite_rejected hbe hc]
  generalize judgeWrite (found s) false off.toNat be.toNat v.toNat = code
  obtain ⟨hl, hk⟩ := reject_frame (found s) off.toNat false code
  obtain ⟨hm, hcode, ho⟩ := reject_later (show flag (found s) Reg.HST_ERR_VALID = true from hvalid) off.toNat false code
  exact ⟨(flag_irqSettle ..).trans hm, (fld_irqSettle ..).trans hcode, (fld_irqSettle ..).trans ho,
    (getReg_irqSettle ..).trans (reject_count (found s) ..), regsBut_command hl, keepsBut_command hk⟩

/-! The lanes of a descriptor word. -/

theorem desc_rows : ∀ w : Fin 16, writeBits (Reg.HST_CMD_DESC w.val) = some (0xFFFFFFFF, 0, 0) ∧
    storesBits (Reg.HST_CMD_DESC w.val) = true ∧ inAxis (Reg.HST_CMD_DESC w.val) = false ∧
    cyclic (Reg.HST_CMD_DESC w.val) = false := by decide +kernel

theorem writeHook_desc (d : Die) {w : Nat} (hw : w < 16) (v : Nat) : writeHook d (Reg.HST_CMD_DESC w) v = d := by
  have hoff : Reg.HST_CMD_DESC w = 0xC0000 + w * 4 := rfl
  have hne : ∀ m, m < 0xC0000 ∨ 0xC0040 ≤ m → Reg.HST_CMD_DESC w ≠ m := by omega
  unfold writeHook
  rw [if_neg (hne _ (by decide)), if_neg (hne _ (by decide)), if_neg (hne _ (by decide)), if_neg (hne _ (by decide)),
    if_neg (hne _ (by decide)), if_neg (hne _ (by decide)), if_neg (hne _ (by decide)), if_neg (hne _ (by decide)),
    if_neg (hne _ (by decide)), if_neg (by simp only [Reg.CTR_CFG]; omega), if_neg (by omega), if_neg (by omega),
    if_neg (by omega), if_neg (by omega), if_neg (by omega)]

/-- An accepted write finds its row. -/
theorem regAt_of_accepted {d : Die} {off be v rw' w1c wo : Nat} (h : judgeWrite d false off be v = 0)
    (hb : writeBits off = some (rw', w1c, wo)) :
    ∃ x, regAt d false off = some x ∧ x.1.rw = rw' ∧ x.1.w1c = w1c ∧ x.1.wo = wo := by
  simp only [writeBits, Option.map_eq_some_iff, Prod.mk.injEq] at hb
  obtain ⟨x, hfind, hrw, hw1c, hwo⟩ := hb
  refine ⟨x, ?_, hrw, hw1c, hwo⟩
  unfold judgeWrite at h
  split at h
  · exact absurd h (by decide)
  · split at h
    · exact absurd h (by decide)
    · next y hy =>
      simp only [regAt, hfind] at hy ⊢
      split at hy
      · next hc => rw [if_pos hc]
      · exact absurd hy (by simp)

/-- The word that the lanes `m` of `v` leave. -/
def laneWord (old m v : Nat) : Nat := old - (old &&& m) + (v &&& m)

theorem laneWord_all (old : Word) {v : Nat} (hv : v < 2 ^ 32) : laneWord old.toNat 0xFFFFFFFF v = v := by
  have hand : ∀ x < 2 ^ 32, x &&& 0xFFFFFFFF = x := fun x hx => by
    rw [show (0xFFFFFFFF : Nat) = 2 ^ 32 - 1 from rfl, Nat.and_two_pow_sub_one_eq_mod, Nat.mod_eq_of_lt hx]
  rw [laneWord, hand _ old.isLt, hand _ hv, Nat.sub_self, Nat.zero_add]

/-- The masked bits of a value over those of a word, as numbers. -/
theorem toNat_putBits (old mask v : Word) : (putBits old mask v).toNat = laneWord old.toNat mask.toNat v.toNat := by
  have hzero : ∀ x : Word, (old &&& ~~~mask) &&& (x &&& mask) = 0#32 := fun x => by
    ext i
    simp only [BitVec.getElem_and, BitVec.getElem_not, BitVec.getElem_zero]
    cases mask[i] <;> simp
  have hsplit : old = (old &&& ~~~mask) + (old &&& mask) := by
    rw [BitVec.add_eq_or_of_and_eq_zero _ _ (hzero old)]
    ext i
    simp only [BitVec.getElem_or, BitVec.getElem_and, BitVec.getElem_not]
    cases old[i] <;> cases mask[i] <;> rfl
  have hold : old.toNat = (old &&& ~~~mask).toNat + (old.toNat &&& mask.toNat) := by
    rw [← BitVec.toNat_and, ← BitVec.toNat_add_of_and_eq_zero (hzero old), ← hsplit]
  rw [putBits, ← BitVec.add_eq_or_of_and_eq_zero _ _ (hzero v), BitVec.toNat_add_of_and_eq_zero (hzero v), laneWord, BitVec.toNat_and v]
  omega

theorem laneWord_lt (old v : Word) {m : Nat} (hm : m < 2 ^ 32) : laneWord old.toNat m v.toNat < 2 ^ 32 := by
  have h := toNat_putBits old (BitVec.ofNat 32 m) v
  rw [BitVec.toNat_ofNat, Nat.mod_eq_of_lt hm] at h
  exact h ▸ BitVec.isLt _

theorem laneMask_lt : ∀ be : BitVec 4, laneMask be.toNat < 2 ^ 32 := by decide

theorem laneMask_all : laneMask 15 = 0xFFFFFFFF := rfl

/-- A write of some lanes of a descriptor word (R10, R336). -/
theorem acceptWrite_desc {d : Die} {w be : Nat} {v : Word} (hw : w < 16) (hbe : be < 16) (hmask : laneMask be < 2 ^ 32)
    (hc : judgeWrite d false (Reg.HST_CMD_DESC w) be v.toNat = 0) :
    acceptWrite d false (Reg.HST_CMD_DESC w) be v.toNat = putReg d (Reg.HST_CMD_DESC w)
      (BitVec.ofNat 32 (laneWord (getReg d (Reg.HST_CMD_DESC w)).toNat (laneMask be) v.toNat)) := by
  obtain ⟨hbits, hstores, hax, hcyc⟩ := desc_rows ⟨w, hw⟩
  obtain ⟨x, hat, hrw, hw1c, hwo⟩ := regAt_of_accepted hc hbits
  have hval : (if be % 16 = 15 then v.toNat else laneWord (getReg d (Reg.HST_CMD_DESC w)).toNat (laneMask be) v.toNat) =
      laneWord (getReg d (Reg.HST_CMD_DESC w)).toNat (laneMask be) v.toNat := by
    split
    · next h15 =>
      obtain rfl : be = 15 := by omega
      rw [laneMask_all, laneWord_all _ v.isLt]
    · rfl
  have heq : acceptWrite d false (Reg.HST_CMD_DESC w) be v.toNat =
      writeHook (writeStore d x.1 (Reg.HST_CMD_DESC w)
        (if be % 16 = 15 then v.toNat else laneWord (getReg d (Reg.HST_CMD_DESC w)).toNat (laneMask be) v.toNat)) (Reg.HST_CMD_DESC w)
        (if be % 16 = 15 then v.toNat else laneWord (getReg d (Reg.HST_CMD_DESC w)).toNat (laneMask be) v.toNat) := by
    simp only [acceptWrite, hat, hrw, hw1c, hwo]
    rfl
  rw [heq, hval, writeHook_desc _ hw, writeStore_of_storesBits hstores, storeReg_of_plain _ _ _ _ hcyc, noted_outside _ _ _ hax,
    ofNat_storeWord hw1c, takenBits_outside hax, hrw]
  congr 1
  exact putBits_all ..

theorem ends_descWrite {w : Nat} (hw : w < 16) (hoff : off.toNat = Reg.HST_CMD_DESC w) (ht : hostTakes (found s) = true)
    (hs : switching (found s) off.toNat = false) (hbe : be ≠ 0)
    (hc : judgeWrite (found s) false off.toNat be.toNat v.toNat = 0) :
    ends (.registerWrite off be v) s fun t =>
      (getReg t.die off.toNat).toNat = laneWord (getReg s.die off.toNat).toNat (laneMask be.toNat) v.toNat ∧
      regsBut (· = off.toNat) s t ∧ keepsBut [.regs] s t := by
  refine ends_registerWrite ht hs ?_
  rw [hostWrite_accepted hbe hc]
  rw [hoff] at hc ⊢
  rw [acceptWrite_desc hw be.isLt (laneMask_lt be) hc]
  refine ⟨(congrArg BitVec.toNat (getReg_irqSettle ..)).trans ?_, regsBut_command ?_, keepsBut_command (by simp)⟩
  · rw [getReg_putReg_same, BitVec.toNat_ofNat, Nat.mod_eq_of_lt (laneWord_lt _ _ (laneMask_lt be))]
    rfl
  · exact (leaves_putReg (p := (· = Reg.HST_CMD_DESC w)) _ _ rfl _).2 (.refl _ _)

/-! The write-1-to-clear bit of HST_ERR. -/

theorem hstErr_row : (findReg Reg.HST_ERR).map (fun x => (x.1.w1c, x.1.rw, x.1.prv, x.1.locked, regDomain x.1 x.2)) =
    some (0x80000000, 0, false, false, some 57) := by decide +kernel

/-- A whole-word write of HST_ERR is accepted wherever the port takes it. -/
theorem acceptWrite_hstErr {d : Die} (hpow : powered d 57 = true) (v : Nat) : judgeWrite d false Reg.HST_ERR 15 v = 0 ∧
    ∃ r : RegRow, r.w1c = 0x80000000 ∧ r.rw = 0 ∧
      acceptWrite d false Reg.HST_ERR 15 v = writeHook (writeStore d r Reg.HST_ERR v) Reg.HST_ERR v := by
  have hrow := hstErr_row
  simp only [Option.map_eq_some_iff, Prod.mk.injEq] at hrow
  obtain ⟨x, hfind, hw1c, hrw, hprv, hlocked, hdom⟩ := hrow
  have hat : regAt d false Reg.HST_ERR = some x := by
    simp only [regAt, hfind, regAnswers, hdom, hpow]
    rw [if_pos]
    simp [Reg.HST_ERR, Reg.CTR_WTAG]
  refine ⟨?_, x.1, hw1c, hrw, ?_⟩
  · have hlegal : illegal d Reg.HST_ERR v = false := rfl
    rw [judgeWrite, if_neg (by decide), hat]
    simp [hprv, hlocked, memberRing, hlegal]
  · simp only [acceptWrite, hat, Nat.reduceMod, if_true, hrw, hw1c]
    exact if_neg (by omega)

theorem storeWord_hstErr {d : Die} {r : RegRow} (hw1c : r.w1c = 0x80000000) (hrw : r.rw = 0) (v : Nat) :
    storeWord d r Reg.HST_ERR v =
      (getReg d Reg.HST_ERR).toNat - ((getReg d Reg.HST_ERR).toNat &&& (if bitOf v 31 then 0x80000000 else 0)) := by
  have hax : inAxis Reg.HST_ERR = false := rfl
  have hand : 0x80000000 &&& v = if bitOf v 31 then 0x80000000 else 0 := by
    rw [Nat.and_comm, show (0x80000000 : Nat) = 2 ^ 31 from rfl, Nat.and_two_pow, bitOf_eq_testBit]
    cases v.testBit 31 <;> rfl
  simp only [storeWord, hax, hw1c, hrw, Bool.false_eq_true, if_false, Nat.and_zero, Nat.sub_zero, Nat.add_zero, Nat.and_assoc, hand]

theorem ends_errWrite (hoff : off.toNat = Reg.HST_ERR) (hbe : be = 15) (ht : hostTakes (found s) = true)
    (hs : switching (found s) off.toNat = false) : ends (.registerWrite off be v) s fun t =>
      (bitOf v.toNat 31 = true → flag t.die Reg.HST_ERR_VALID = false ∧ flag t.die Reg.HST_ERR_MULTI = false) ∧
      (bitOf v.toNat 31 = false → getReg t.die Reg.HST_ERR = getReg s.die Reg.HST_ERR) ∧
      regsBut (· = Reg.HST_ERR) s t ∧ keepsBut [.regs] s t := by
  have hpow : powered (found s) 57 = true := by
    simp only [hostTakes, hostUp, Bool.and_eq_true] at ht
    exact ht.1.2
  obtain ⟨hjudge, r, hw1c, hrw, hacc⟩ := acceptWrite_hstErr hpow v.toNat
  subst hbe
  refine ends_registerWrite ht hs ?_
  rw [hoff, hostWrite_accepted (be := 15) (by decide) hjudge, show (15 : BitVec 4).toNat = 15 from rfl, hacc,
    writeStore_of_storesBits (by decide)]
  have hl := leaves_storeReg (found s) r Reg.HST_ERR v.toNat
  have hk := keeps_storeReg_of_plain (found s) r Reg.HST_ERR v.toNat (by decide) (by decide)
  have hword : getReg (storeReg (found s) r Reg.HST_ERR v.toNat) Reg.HST_ERR =
      BitVec.ofNat 32 ((getReg s.die Reg.HST_ERR).toNat -
        ((getReg s.die Reg.HST_ERR).toNat &&& (if bitOf v.toNat 31 then 0x80000000 else 0))) := by
    rw [getReg_storeReg_same, storeWord_hstErr hw1c hrw]
    rfl
  generalize storeReg (found s) r Reg.HST_ERR v.toNat = d at hl hk hword
  have hhook : writeHook d Reg.HST_ERR v.toNat = if bitOf v.toNat 31 then setFld d Reg.HST_ERR_MULTI 0 else d := rfl
  rw [hhook]
  cases hv : bitOf v.toNat 31
  · rw [hv, if_neg (by decide)] at hword
    rw [if_neg (by decide)]
    refine ⟨fun h => absurd h (by decide), fun _ => (getReg_irqSettle ..).trans (hword.trans (by simp)), regsBut_command hl,
      keepsBut_command hk⟩
  · rw [hv, if_pos rfl] at hword
    rw [if_pos rfl]
    refine ⟨fun _ => ⟨?_, ?_⟩, fun h => absurd h (by decide), regsBut_command ?_, keepsBut_command (by simpa using hk)⟩
    · have hput := ofNat_clear_add (getReg s.die Reg.HST_ERR) 0x80000000 0
      rw [Nat.zero_and, Nat.add_zero] at hput
      have hvalid : fld d Reg.HST_ERR_VALID = 0 := by
        show bitsOf (getReg d Reg.HST_ERR).toNat 31 1 = 0
        rw [hword, hput, bitsOf_putBits_of_mem (by decide)]
        rfl
      rw [flag_irqSettle, flag, fld_setFld_above d Reg.HST_ERR_VALID Reg.HST_ERR_MULTI 0 rfl (by decide) (by decide), hvalid]
      rfl
    · rw [flag_irqSettle, flag, fld_setFld_same _ _ _ (by decide)]
      rfl
    · exact (leaves_setFld (p := (· = Reg.HST_ERR)) _ _ (f := Reg.HST_ERR_MULTI) rfl _).2 hl

end Write

/-- Settles O22: a write waits, is rejected, or stores its lanes by the row of its register. -/
theorem registerWriteJudgement : Obligations.RegisterWriteJudgement := by
  refine ⟨fun _ _ _ _ hup hw => ends_registerWrite_waits hup hw,
    fun s off be v hup => ends_idle (exec_registerWrite s off be v) (busWriteBe_down hup _ _ _) [], ?_⟩
  intro s off be v ht hs code m
  refine ⟨fun hbe => ?_, fun hbe hc hvalid => ends_rejected_first ht hs hbe hc hvalid,
    fun hbe hc hvalid => ends_rejected_later ht hs hbe hc hvalid,
    fun w hw hoff hbe hc => ends_descWrite hw hoff ht hs hbe hc, fun hoff hbe => ends_errWrite hoff hbe ht hs⟩
  subst hbe
  refine ends_registerWrite ht hs ?_
  rw [show (0 : BitVec 4).toNat = 0 from rfl, hostWrite_none]
  exact ⟨regsBut_command (Leaves.refl _ _), keepsBut_command (.refl _ _)⟩

end Sys2Proof.Machine
end

section
/-! PROOFS. Reads of host software and PCIe requests (R24, R330, R336 to R339, R375, R417). -/

namespace Sys2Proof.Machine

open Sys2Proof

/-! What a read finds and changes. -/

theorem shdView_noData (g : Dog) (d : Die) (off : Nat) : shdView g (noData d) off = shdView g d off := rfl

theorem hostView_noData (d : Die) (off : Nat) : hostView (noData d) off = hostView d off := rfl

theorem headBlocked_noData (d : Die) (src : Nat) : headBlocked (noData d) src = headBlocked d src := rfl

theorem descWord_noData (d : Die) (i w : Nat) : descWord (noData d) i w = descWord d i w := rfl

theorem knlView_noData (d : Die) (off : Nat) : knlView (noData d) off = knlView d off := by
  unfold knlView
  simp only [descWord_noData, headBlocked_noData]
  rfl

theorem engH_noData (d : Die) (e : Nat) : engH (noData d) e = engH d e := rfl

theorem powered_noData (d : Die) (dom : Nat) : powered (noData d) dom = powered d dom := rfl

theorem leView_noData (d : Die) (off : Nat) : leView (noData d) off = leView d off := by
  have heng : ∀ e, engH (noData d) e = engH d e := engH_noData d
  have hpow : ∀ e, powered (noData d) e = powered d e := powered_noData d
  simp only [leView, heng, hpow]

theorem canView_noData (d : Die) (n off : Nat) : canView (noData d) n off = canView d n off := rfl

theorem bootView_noData (d : Die) (off : Nat) : bootView (noData d) off = bootView d off := rfl

theorem axBefore_noData (d : Die) (p c off : Nat) : axBefore (noData d) p c off = axBefore d p c off := rfl

theorem viewReg_noData (g : Dog) (d : Die) (off : Nat) : viewReg g (noData d) off = viewReg g d off := by
  have hparts : (noData d).straps = d.straps ∧ (noData d).tb = d.tb ∧ (noData d).pwr = d.pwr ∧ (noData d).trk = d.trk ∧
      (noData d).mem = d.mem ∧ (noData d).boot = d.boot := ⟨rfl, rfl, rfl, rfl, rfl, rfl⟩
  have hbits : xtLevels (noData d) = xtLevels d ∧ (∀ c, chState (noData d) c = chState d c) ∧
      ∀ n, flooded (noData d) n = flooded d n := ⟨rfl, fun _ => rfl, fun _ => rfl⟩
  obtain ⟨hstraps, htb, hpwr, htrk, hmem, hboot⟩ := hparts
  obtain ⟨hxt, hch, hflood⟩ := hbits
  simp only [viewReg, hostView_noData, knlView_noData, shdView_noData, leView_noData, canView_noData, bootView_noData,
    axBefore_noData, getReg_noData, powered_noData, hstraps, htb, hpwr, htrk, hmem, hboot, hxt, hch, hflood]

theorem readVal_noData (g : Dog) (d : Die) (trunk : Bool) (off : Nat) : readVal g (noData d) trunk off = readVal g d trunk off := by
  have hpow : powered (noData d) 79 = powered d 79 := rfl
  have hcap : captureWord (noData d) off = captureWord d off := rfl
  have hpaw : pawWord (noData d) off = pawWord d off := rfl
  have hat : regAt (noData d) trunk off = regAt d trunk off := rfl
  unfold readVal
  rw [hpow, hcap, hpaw, hat, viewReg_noData]

theorem isLow_mod (off : Nat) (h : isLow off = true) : off % 4 = 0 ∧ off ≠ Reg.BEAT_NUM ∧ off ≠ Reg.CTR_DLQ_W 3 := by
  have hw : Reg.CTR_DLQ_W 3 = 0xE03C := rfl
  have hn : Reg.BEAT_NUM = 0x3014 := rfl
  unfold isLow at h
  split at h
  · simp at h; omega
  · split at h
    · simp at h; omega
    · split at h
      · simp at h; omega
      · split at h
        · simp at h; omega
        · split at h
          · simp at h; omega
          · simp at h; omega

/-- The registers in which a read of BEAT_NUM stores the GT of its edge (R24). -/
def edgeRegs (o : Nat) : Prop := o = Reg.BEAT_EDGE ∨ o = Reg.BEAT_EDGE + 4

/-- The snapshot of the high word (R338). -/
def sideSnap (g : Dog) (d : Die) (off : Nat) : Die :=
  if isLow off then { d with snap := sput none d.snap (off + 4) (some (BitVec.ofNat 32 (viewReg g d (off + 4)))) } else d

/-- The edge of BEAT_NUM (R24). -/
def sideEdge (d : Die) (off : Nat) : Die :=
  if off = Reg.BEAT_NUM && running d then put64 d Reg.BEAT_EDGE (edgeGt (hz d) d.tb.k) else d

/-- The oldest dead letter leaves (R286). -/
def sideHead (d : Die) (off : Nat) : Die :=
  if off = Reg.CTR_DLQ_W 3 then updTrk d fun t => { t with dlq := t.dlq.drop 1 } else d

theorem readSide_some {g : Dog} {d : Die} {trunk : Bool} {off : Nat} {x : RegRow × List Nat} (h : regAt d trunk off = some x) :
    readSide g d trunk off = sideHead (sideEdge (sideSnap g d off) off) off := by
  rw [readSide, h]
  rfl

theorem readSide_none {g : Dog} {d : Die} {trunk : Bool} {off : Nat} (h : regAt d trunk off = none) :
    readSide g d trunk off = d := by
  rw [readSide, h]

theorem sideSnap_frame (g : Dog) (d : Die) (off : Nat) : Leaves edgeRegs d (sideSnap g d off) ∧
    Keeps [.regs, .snap, .trk] d (sideSnap g d off) := by
  unfold sideSnap
  generalize BitVec.ofNat 32 (viewReg g d (off + 4)) = w
  split
  · exact ⟨.of_regs rfl, by simp⟩
  · exact ⟨.refl _ _, .refl _ _⟩

theorem sideEdge_frame (d : Die) (off : Nat) : Leaves edgeRegs d (sideEdge d off) ∧
    Keeps [.regs, .snap, .trk] d (sideEdge d off) ∧ (sideEdge d off).snap = d.snap := by
  have hl : ∀ x, Leaves edgeRegs d (put64 d Reg.BEAT_EDGE x) := fun x => (leaves_put64 (p := edgeRegs) _ _ (.inl rfl) (.inr rfl) _).2 (.refl _ _)
  have hk : ∀ x, Keeps [.regs, .snap, .trk] d (put64 d Reg.BEAT_EDGE x) := fun x => by simp
  have hs : ∀ o x, (put64 d o x).snap = d.snap := fun o x => rfl
  unfold sideEdge
  cases off = Reg.BEAT_NUM && running d with
  | true => exact ⟨hl _, hk _, hs _ _⟩
  | false => exact ⟨.refl _ _, .refl _ _, rfl⟩

theorem sideHead_frame (d : Die) (off : Nat) : Leaves edgeRegs d (sideHead d off) ∧
    Keeps [.regs, .snap, .trk] d (sideHead d off) ∧ (sideHead d off).snap = d.snap := by
  unfold sideHead
  split
  · exact ⟨.of_regs rfl, by simp, rfl⟩
  · exact ⟨.refl _ _, .refl _ _, rfl⟩

theorem readSide_frame (g : Dog) (d : Die) (trunk : Bool) (off : Nat) : Leaves edgeRegs d (readSide g d trunk off) ∧
    Keeps [.regs, .snap, .trk] d (readSide g d trunk off) := by
  cases h : regAt d trunk off with
  | none =>
    rw [readSide_none h]
    exact ⟨.refl _ _, .refl _ _⟩
  | some x =>
    rw [readSide_some h]
    obtain ⟨hl, hk⟩ := sideSnap_frame g d off
    obtain ⟨hl', hk', _⟩ := sideEdge_frame (sideSnap g d off) off
    obtain ⟨hl'', hk'', _⟩ := sideHead_frame (sideEdge (sideSnap g d off) off) off
    exact ⟨(hl.trans hl').trans hl'', (hk.trans hk').trans hk''⟩

/-- A read that takes no snapshot leaves the snapshots there are (R338). -/
theorem snap_readSide_of_high {off : Nat} (h : isLow off = false) (g : Dog) (d : Die) (trunk : Bool) :
    (readSide g d trunk off).snap = d.snap := by
  cases hat : regAt d trunk off with
  | none => rw [readSide_none hat]
  | some x =>
    rw [readSide_some hat, (sideHead_frame _ off).2.2, (sideEdge_frame _ off).2.2, sideSnap, h]
    rfl

/-- A read of a low word takes a snapshot of its high word and nothing else (R338). -/
theorem readSide_low {d : Die} {off : Nat} {x : RegRow × List Nat} (hat : regAt d false off = some x) (h : isLow off = true) (g : Dog) :
    readSide g d false off = { d with snap := sput none d.snap (off + 4) (some (BitVec.ofNat 32 (viewReg g d (off + 4)))) } := by
  obtain ⟨_, hnum, hhead⟩ := isLow_mod off h
  rw [readSide_some hat, sideHead, if_neg hhead, sideEdge, if_neg (by simp [hnum]), sideSnap, if_pos h]

theorem regAt_aligned {d : Die} {off : Nat} {x : RegRow × List Nat} (h : regAt d false off = some x) : off % 4 = 0 := by
  unfold regAt at h
  split at h
  · split at h
    · next hc => exact of_decide_eq_true (Bool.and_eq_true_iff.1 hc).1
    · exact absurd h (by simp)
  · exact absurd h (by simp)

theorem hostRead_word (g : Dog) (d : Die) {off : Nat} (h : off % 4 = 0) : (hostRead g d false off 15).2 = readSide g d false off := by
  unfold hostRead
  rw [if_neg (by decide), if_neg (by simp [h, beOk]), if_neg (by simp [memberRing])]

theorem hostRead_value {g : Dog} {d : Die} {off : Nat} {x : RegRow × List Nat} (hat : regAt d false off = some x) :
    (hostRead g d false off 15).1 =
      (match sget none d.snap off with
        | some w => w.toNat
        | none => readVal g d false off) &&& 0xFFFFFFFF := by
  unfold hostRead
  rw [if_neg (by decide), if_neg (by simp [regAt_aligned hat, beOk]), if_neg (by simp [memberRing]), hat]
  rfl

theorem ofNat_and_all (x : Nat) : BitVec.ofNat 32 (x &&& 0xFFFFFFFF) = BitVec.ofNat 32 x := by
  apply BitVec.eq_of_toNat_eq
  rw [BitVec.toNat_ofNat, BitVec.toNat_ofNat, show (0xFFFFFFFF : Nat) = 2 ^ 32 - 1 from rfl, Nat.and_two_pow_sub_one_eq_mod, Nat.mod_mod]

theorem rdData_irqSettle (c d : Die) : (irqSettle c d).host.rdData = d.host.rdData := by
  have h := congrArg HostSt.rdData (still_irqSettle c d)
  exact h

theorem rdCpl_irqSettle (c d : Die) : (irqSettle c d).host.rdCpl = d.host.rdCpl := by
  have h := congrArg HostSt.rdCpl (still_irqSettle c d)
  exact h

theorem snap_irqSettle (c d : Die) : (irqSettle c d).snap = d.snap := keeps_irqSettle [] c d .snap (by simp)

theorem get64_irqSettle (c d : Die) (off : Nat) : get64 (irqSettle c d) off = get64 d off := by
  rw [get64, getReg_irqSettle, getReg_irqSettle, get64]

theorem keeps_giveData (d : Die) (off : Nat) (ws : List Word) : Keeps [.host] d (giveData d off ws) := by simp [giveData]

theorem keeps_noData (d : Die) : Keeps [.host] d (noData d) := by simp [noData]

theorem rdData_of_keeps {ps : List Part} {c d : Die} (h : Keeps ps c d) (hp : .host ∉ ps) : d.host.rdData = c.host.rdData := by
  have hhost := congrArg HostSt.rdData (h .host hp)
  exact hhost

theorem rdCpl_of_keeps {ps : List Part} {c d : Die} (h : Keeps ps c d) (hp : .host ∉ ps) : d.host.rdCpl = c.host.rdCpl := by
  have hhost := congrArg HostSt.rdCpl (h .host hp)
  exact hhost

/-! A read of one word. -/

section Read

variable {s : State}

theorem readAnswer_word (g : Dog) (d : Die) (off : Nat) : readAnswer g d off [15] =
    giveData (hostRead g d false off 15).2 off [BitVec.ofNat 32 (hostRead g d false off 15).1] := rfl

/-- A read of one word that is performed at once. -/
theorem ends_busRead {i : Instr} {off : Nat} {P : State → Prop} (hi : exec i s = onDieDog (fun g d => busRead g d off) s)
    (hup : hostUp (found s) = true) (hw : readsWait (found s) = false) (hs : anySwitching (found s) off 1 = false) (hoff : off % 4 = 0)
    (h : ∀ v, v = BitVec.ofNat 32 (hostRead s.dog (noData (found s)) false off 15).1 →
      P { s with die := irqSettle s.die (giveData (readSide s.dog (noData (found s)) false off) off [v]) }) : ends i s P := by
  refine ends_of_onDie hi ?_
  have heq : busRead s.dog (found s) off = giveData (readSide s.dog (noData (found s)) false off) off
      [BitVec.ofNat 32 (hostRead s.dog (noData (found s)) false off 15).1] := by
    rw [busRead, if_pos hup, readSeries, hw, if_neg (by simpa using hs), readAnswer_word, hostRead_word _ _ hoff]
  show P { s with die := irqSettle s.die (busRead s.dog (found s) off) }
  rw [heq]
  exact h _ rfl

theorem rdData_answer (g : Dog) (d : Die) (off : Nat) (ws : List Word) :
    (giveData (readSide g (noData d) false off) off ws).host.rdData = ws := by
  rw [giveData_rdData, rdData_of_keeps (readSide_frame g (noData d) false off).2 (by simp), noData_rdData]
  rfl

theorem get64_put64 (d : Die) (off x : Nat) : get64 (put64 d off x) off = x % 2 ^ 64 := by
  have hne : off ≠ off + 4 := by omega
  rw [put64, get64, getReg_putReg_ne _ _ hne, getReg_putReg_same, getReg_putReg_same, BitVec.toNat_ofNat, BitVec.toNat_ofNat,
    Nat.shiftRight_eq_div_pow]
  omega

theorem get64_of_leaves {p : Nat → Prop} {c d : Die} {off : Nat} (h : Leaves p c d) (hlo : ¬ p off) (hhi : ¬ p (off + 4)) :
    get64 d off = get64 c off := by
  rw [get64, h _ hlo, h _ hhi, get64]

theorem answer_frame (g : Dog) (d : Die) (off : Nat) (ws : List Word) :
    Leaves edgeRegs d (giveData (readSide g (noData d) false off) off ws) ∧
    Keeps [.regs, .snap, .trk, .host] d (giveData (readSide g (noData d) false off) off ws) := by
  obtain ⟨hl, hk⟩ := readSide_frame g (noData d) false off
  exact ⟨((Leaves.of_regs (c := d) (d := noData d) rfl).trans hl).trans (.of_regs rfl),
    (((keeps_noData d).mono (by simp)).trans (hk.mono (by simp))).trans ((keeps_giveData _ _ _).mono (by simp))⟩

/-- A read of BEAT_NUM stores the GT of its edge (R24). -/
theorem readSide_beatNum {d : Die} {x : RegRow × List Nat} (hat : regAt d false Reg.BEAT_NUM = some x) (g : Dog) :
    readSide g d false Reg.BEAT_NUM = if running d then put64 d Reg.BEAT_EDGE (edgeGt (hz d) d.tb.k) else d := by
  rw [readSide_some hat, sideSnap, if_neg (by decide), sideHead, if_neg (by decide), sideEdge, decide_eq_true rfl, Bool.true_and]

theorem beatNum_row : (findReg Reg.BEAT_NUM).map (fun x => (x.1.rd, regDomain x.1 x.2)) = some (0xFFFFFFFF, none) := by decide +kernel

theorem regAt_beatNum (d : Die) : ∃ x, regAt d false Reg.BEAT_NUM = some x ∧ x.1.rd = 0xFFFFFFFF := by
  have hrow := beatNum_row
  simp only [Option.map_eq_some_iff, Prod.mk.injEq] at hrow
  obtain ⟨x, hfind, hrd, hdom⟩ := hrow
  refine ⟨x, ?_, hrd⟩
  simp only [regAt, hfind, regAnswers, hdom]
  rw [if_pos]
  simp [Reg.BEAT_NUM, Reg.CTR_WTAG]

/-- The registers of the beat are no live ones, beside GT itself. -/
theorem viewReg_beat (g : Dog) (d : Die) {off : Nat} (hlo : 0x3000 ≤ off) (hhi : off < 0x4000) (hgt : off ≠ Reg.BEAT_GT)
    (hgt' : off ≠ Reg.BEAT_GT + 4) : viewReg g d off = (getReg d off).toNat := by
  have hn : ∀ m, m < 0x3000 → off ≠ m := fun m hm => by omega
  have hdom : ¬ (Reg.PWR_DOM_STAT 0 ≤ off ∧ off < Reg.PWR_DOM_STAT 3) := fun h => by
    have : Reg.PWR_DOM_STAT 3 < 0x3000 := by decide
    omega
  unfold viewReg
  rw [if_neg (hn _ (by decide)), if_neg (hn _ (by decide)), if_neg (fun h => h.2.elim (hn _ (by decide)) hdom),
    if_neg (hn _ (by decide)), if_neg (hn _ (by decide)), if_neg hdom, if_neg (by omega), if_neg (by omega), if_neg hgt, if_neg hgt',
    if_pos hhi]

/-- A register outside the windows reads its bits. -/
theorem readVal_of_regAt {d : Die} {trunk : Bool} {off : Nat} {x : RegRow × List Nat} (hat : regAt d trunk off = some x)
    (hoff : off < 0x40000) (g : Dog) : readVal g d trunk off = viewReg g d off &&& x.1.rd := by
  rw [readVal, if_neg (by omega), if_neg (by omega), hat]

theorem hostRead_beatNum {d : Die} {off : Nat} {x : RegRow × List Nat} (hat : regAt d false off = some x) (hrd : x.1.rd = 0xFFFFFFFF)
    (hoff : off = Reg.BEAT_NUM) (hsnap : sget none d.snap off = none) (g : Dog) :
    BitVec.ofNat 32 (hostRead g d false off 15).1 = getReg d off := by
  have hnum : Reg.BEAT_NUM = 0x3014 := rfl
  have hgt : Reg.BEAT_GT = 0x3018 := rfl
  have hview := viewReg_beat g d (off := off) (by omega) (by omega) (by omega) (by omega)
  have hread : readVal g d false off = viewReg g d off &&& x.1.rd := readVal_of_regAt hat (by omega) g
  rw [hostRead_value hat, hsnap, ofNat_and_all]
  show BitVec.ofNat 32 (readVal g d false off) = _
  rw [hread, hrd, ofNat_and_all, hview, BitVec.ofNat_toNat, BitVec.setWidth_eq]

theorem ends_beatNumRead (hup : hostUp (found s) = true) (hw : readsWait (found s) = false)
    (hs : anySwitching (found s) Reg.BEAT_NUM 1 = false) (hsnap : sget none s.die.snap Reg.BEAT_NUM = none) :
    ends .beatNumRead s fun t => t.die.host.rdData = [getReg s.die Reg.BEAT_NUM] ∧
      (running s.die = true → get64 t.die Reg.BEAT_EDGE = edgeGt (hz s.die) s.die.tb.k % 2 ^ 64) ∧
      regsBut (fun o => o = Reg.BEAT_EDGE ∨ o = Reg.BEAT_EDGE + 4) s t ∧ keepsBut [.regs, .snap, .host] s t := by
  refine ends_busRead rfl hup hw hs (by decide) fun v hv => ?_
  obtain ⟨x, hat, hrd⟩ := regAt_beatNum (noData (found s))
  have hside := readSide_beatNum hat s.dog
  have hvalue : v = getReg s.die Reg.BEAT_NUM := hv.trans (hostRead_beatNum hat hrd rfl hsnap s.dog)
  obtain ⟨hl, hk⟩ := answer_frame s.dog (found s) Reg.BEAT_NUM [v]
  refine ⟨(rdData_irqSettle ..).trans ((rdData_answer ..).trans (by rw [hvalue])), fun hrun => ?_, regsBut_command hl, keepsBut_command ?_⟩
  · have hhz : hz (noData (found s)) = hz s.die := rfl
    have hgive : ∀ d, get64 (giveData d Reg.BEAT_NUM [v]) Reg.BEAT_EDGE = get64 d Reg.BEAT_EDGE := fun _ => rfl
    rw [get64_irqSettle, hgive, hside, if_pos (show running (noData (found s)) = true from hrun), get64_put64, hhz]
    rfl
  · rw [hside]
    refine ((keeps_noData (found s)).mono (by simp)).trans (Keeps.trans ?_ ((keeps_giveData _ _ _).mono (by simp)))
    split
    · exact (keeps_put64 _ _ (by simp) _ _).2 (.refl _ _)
    · exact .refl _ _

theorem ends_lowWordRead_low {off : BitVec 20} {x : RegRow × List Nat} (hup : hostUp (found s) = true) (hw : readsWait (found s) = false)
    (hs : anySwitching (found s) off.toNat 1 = false) (hat : regAt s.die false off.toNat = some x) (hlow : isLow off.toNat = true) :
    ends (.lowWordRead off) s fun t =>
      sget none t.die.snap (off.toNat + 4) = some (BitVec.ofNat 32 (viewReg s.dog (found s) (off.toNat + 4))) ∧
      (sget none s.die.snap off.toNat = none →
        t.die.host.rdData = [BitVec.ofNat 32 (readVal s.dog (found s) false off.toNat)]) ∧
      regsBut (fun _ => False) s t ∧ keepsBut [.snap, .host] s t := by
  have hat' : regAt (noData (found s)) false off.toNat = some x := hat
  refine ends_busRead rfl hup hw hs (regAt_aligned hat) fun v hv => ?_
  have hside := readSide_low hat' hlow s.dog
  rw [viewReg_noData] at hside
  rw [hostRead_value hat', ofNat_and_all, readVal_noData] at hv
  have hdata := rdData_answer s.dog (found s) off.toNat [v]
  rw [hside] at hdata ⊢
  refine ⟨?_, fun hnone => ?_, regsBut_command (Leaves.of_regs rfl), keepsBut_command ?_⟩
  · rw [snap_irqSettle]
    exact sget_sput_same none s.die.snap (off.toNat + 4) (some (BitVec.ofNat 32 (viewReg s.dog (found s) (off.toNat + 4))))
  · rw [rdData_irqSettle, hdata, hv, show sget none (noData (found s)).snap off.toNat = none from hnone]
  · refine ((keeps_noData (found s)).mono (by simp)).trans (Keeps.trans ?_ ((keeps_giveData _ _ _).mono (by simp)))
    exact (keeps_snap _ _ (by simp) _).2 (.refl _ _)

theorem ends_lowWordRead_high {off : BitVec 20} {x : RegRow × List Nat} {w : Word} (hup : hostUp (found s) = true) (hw : readsWait (found s) = false)
    (hs : anySwitching (found s) off.toNat 1 = false) (hat : regAt s.die false off.toNat = some x) (hhigh : isLow off.toNat = false)
    (hsnap : sget none s.die.snap off.toNat = some w) :
    ends (.lowWordRead off) s fun t => t.die.host.rdData = [w] ∧ sget none t.die.snap off.toNat = some w := by
  have hat' : regAt (noData (found s)) false off.toNat = some x := hat
  refine ends_busRead rfl hup hw hs (regAt_aligned hat) fun v hv => ?_
  rw [hostRead_value hat', ofNat_and_all, show sget none (noData (found s)).snap off.toNat = some w from hsnap] at hv
  refine ⟨(rdData_irqSettle ..).trans ((rdData_answer ..).trans ?_), ?_⟩
  · rw [hv]
    exact congrArg (fun y => [y]) (by rw [BitVec.ofNat_toNat, BitVec.setWidth_eq])
  · rw [snap_irqSettle]
    show sget none (readSide s.dog (noData (found s)) false off.toNat).snap off.toNat = some w
    rw [snap_readSide_of_high hhigh]
    exact hsnap

theorem anySwitching_one (d : Die) (off : Nat) : anySwitching d off 1 = switching d off := by
  simp [anySwitching, upto]

theorem busRead_waits {g : Dog} {d : Die} {off : Nat} (hup : hostUp d = true) (hw : readsWait d = true ∨ switching d off = true) :
    busRead g d off = holdReqs (noData d) [.read off [15]] := by
  rw [busRead, if_pos hup, readSeries, if_pos]
  rw [Bool.or_eq_true, List.length_singleton, anySwitching_one]
  exact hw

theorem ends_lowWordRead_waits {off : BitVec 20} (hup : hostUp (found s) = true)
    (hw : readsWait (found s) = true ∨ switching (found s) off.toNat = true) :
    ends (.lowWordRead off) s fun t => t.die.host.rdData = [] ∧
      t.die.trk = { s.die.trk with held := s.die.trk.held ++ [.read off.toNat [15]] } ∧ keepsBut [.trk, .host] s t := by
  refine ends_of_onDie (f := fun d => busRead s.dog d off.toNat) rfl ?_
  rw [busRead_waits hup hw]
  exact ⟨rdData_irqSettle .., trk_irqSettle .., keepsBut_command (by simp [noData])⟩

theorem ends_lowWordRead_down {off : BitVec 20} (hup : hostUp (found s) = false) :
    ends (.lowWordRead off) s fun t => t.die.host.rdData = [] ∧ keepsBut [.host] s t := by
  refine ends_of_onDie (f := fun d => busRead s.dog d off.toNat) rfl ?_
  rw [busRead, hup]
  exact ⟨rdData_irqSettle .., keepsBut_command (keeps_noData _)⟩

/-! PCIe memory requests (R337). -/

/-- The completions of a read cross no multiple of 64 bytes (R337). -/
theorem cplParts_line (ws : List Word) : ∀ off, off % 4 = 0 → ∀ a p b, cplParts off ws = a ++ p :: b → p ≠ [] ∧
    (off + 4 * (a.flatten.length + p.length) - 1) / 64 = (off + 4 * a.flatten.length) / 64 := by
  induction ws with
  | nil => exact fun off _ a p b h => absurd (congrArg List.length h) (by simp [cplParts])
  | cons w ws ih =>
    intro off hoff a p b h
    have hrest := ih (off + 4) (by omega)
    unfold cplParts at h
    split at h
    · next q qs hq =>
      rw [hq] at hrest
      split at h
      · cases a with
        | nil =>
          obtain ⟨rfl, _⟩ := List.cons.inj h
          refine ⟨by simp, ?_⟩
          simp only [List.flatten_nil, List.length_nil, List.length_singleton]
          omega
        | cons x a =>
          have htail : q :: qs = a ++ p :: b := (List.cons.inj h).2
          obtain rfl : [w] = x := (List.cons.inj h).1
          obtain ⟨hne, hline⟩ := hrest a p b htail
          refine ⟨hne, ?_⟩
          simp only [List.flatten_cons, List.length_append, List.length_singleton]
          rw [show off + 4 * (1 + a.flatten.length + p.length) = off + 4 + 4 * (a.flatten.length + p.length) by omega,
            show off + 4 * (1 + a.flatten.length) = off + 4 + 4 * a.flatten.length by omega, hline]
      · next hcross =>
        cases a with
        | nil =>
          obtain ⟨rfl, _⟩ := List.cons.inj h
          have hline := (hrest [] q qs rfl).2
          refine ⟨by simp, ?_⟩
          simp only [List.flatten_nil, List.length_nil, List.length_cons] at hline ⊢
          omega
        | cons x a =>
          have htail : qs = a ++ p :: b := (List.cons.inj h).2
          obtain rfl : w :: q = x := (List.cons.inj h).1
          obtain ⟨hne, hline⟩ := hrest (q :: a) p b (by rw [htail]; rfl)
          refine ⟨hne, ?_⟩
          simp only [List.flatten_cons, List.length_append, List.length_cons] at hline ⊢
          rw [show off + 4 * (q.length + 1 + a.flatten.length + p.length) = off + 4 + 4 * (q.length + a.flatten.length + p.length) by omega,
            show off + 4 * (q.length + 1 + a.flatten.length) = off + 4 + 4 * (q.length + a.flatten.length) by omega, hline]
    · cases a with
      | nil =>
        obtain ⟨rfl, _⟩ := List.cons.inj h
        refine ⟨by simp, ?_⟩
        simp only [List.flatten_nil, List.length_nil, List.length_singleton]
        omega
      | cons x a => exact absurd (congrArg List.length h) (by simp)

/-- One word of a read of several. -/
def readStep (g : Dog) (off : Nat) (r : List Word × Die) (x : Nat × Nat) : List Word × Die :=
  (r.1 ++ [BitVec.ofNat 32 (hostRead g r.2 false (off + 4 * x.2) x.1).1], (hostRead g r.2 false (off + 4 * x.2) x.1).2)

theorem readWords_eq (g : Dog) (d : Die) (off : Nat) (bes : List Nat) :
    readWords g d off bes = bes.zipIdx.foldl (readStep g off) ([], d) := rfl

theorem keeps_hostRead (g : Dog) (d : Die) (trunk : Bool) (off be : Nat) : Keeps [.regs, .snap, .trk] d (hostRead g d trunk off be).2 := by
  have hrej : ∀ c, Keeps [.regs, .snap, .trk] d (reject d off true c) := fun c => (reject_frame d off true c).2.mono (by simp)
  unfold hostRead
  split
  · exact .refl _ _
  · split
    · exact hrej _
    · split
      · exact hrej _
      · exact (readSide_frame g d trunk off).2

theorem keeps_readSteps (g : Dog) (off : Nat) (l : List (Nat × Nat)) : ∀ r : List Word × Die,
    Keeps [.regs, .snap, .trk] r.2 (l.foldl (readStep g off) r).2 := by
  induction l with
  | nil => exact fun r => .refl _ _
  | cons x l ih => exact fun r => (keeps_hostRead g r.2 false _ _).trans (ih (readStep g off r x))

theorem keeps_readWords (g : Dog) (d : Die) (off : Nat) (bes : List Nat) : Keeps [.regs, .snap, .trk] d (readWords g d off bes).2 := by
  rw [readWords_eq]
  exact keeps_readSteps g off _ ([], d)

theorem requestBes_length (n first last : Nat) : (requestBes n first last).length = n := by
  simp [requestBes, upto]

theorem readSeries_performed {g : Dog} {d : Die} {off : Nat} {bes : List Nat} (hw : readsWait d = false)
    (hs : anySwitching d off bes.length = false) : readSeries g d off bes = readAnswer g (noData d) off bes := by
  rw [readSeries, hw, hs]
  rfl

theorem memRequest_read {g : Dog} {d : Die} {off first last : Nat} {data : List Word} (hup : pcieUp d = true) (hw : readsWait d = false)
    (hs : anySwitching d off data.length = false) :
    memRequest g d false off first last data = readAnswer g (noData d) off (requestBes data.length first last) := by
  rw [memRequest, hup]
  exact readSeries_performed hw (by rw [requestBes_length]; exact hs)

theorem ends_memoryRead {off : BitVec 20} {fb lb : BitVec 4} {data : List Word} (hup : pcieUp (found s) = true)
    (hw : readsWait (found s) = false) (hs : anySwitching (found s) off.toNat data.length = false) :
    ends (.pcieMemoryRequest false off fb lb data) s fun t => t.die.host.rdData.length = data.length ∧
      t.die.host.rdCpl.flatten = t.die.host.rdData ∧
      (off.toNat % 4 = 0 → ∀ a p b, t.die.host.rdCpl = a ++ p :: b → p ≠ [] ∧
        (off.toNat + 4 * (a.flatten.length + p.length) - 1) / 64 = (off.toNat + 4 * a.flatten.length) / 64) ∧
      keepsBut [.regs, .snap, .trk, .host] s t := by
  refine ends_of_onDie (f := fun d => memRequest s.dog d false off.toNat fb.toNat lb.toNat data) rfl ?_
  rw [memRequest_read hup hw hs]
  have hlen := readWords_length s.dog (noData (found s)) off.toNat (requestBes data.length fb.toNat lb.toNat)
  have hk := keeps_readWords s.dog (noData (found s)) off.toNat (requestBes data.length fb.toNat lb.toNat)
  unfold readAnswer
  rw [requestBes_length] at hlen
  generalize readWords s.dog (noData (found s)) off.toNat (requestBes data.length fb.toNat lb.toNat) = r at hlen hk
  have hdata : (giveData r.2 off.toNat r.1).host.rdData = r.1 := by
    rw [giveData_rdData, rdData_of_keeps hk (by simp), noData_rdData]
    rfl
  have hcpl : (giveData r.2 off.toNat r.1).host.rdCpl = cplParts off.toNat r.1 := by
    show r.2.host.rdCpl ++ cplParts off.toNat r.1 = _
    rw [rdCpl_of_keeps hk (by simp)]
    rfl
  refine ⟨?_, ?_, fun hal a p b h => ?_, keepsBut_command ?_⟩
  · rw [rdData_irqSettle, hdata, hlen]
  · rw [rdData_irqSettle, rdCpl_irqSettle, hdata, hcpl, cplParts_flatten]
  · rw [rdCpl_irqSettle, hcpl] at h
    exact cplParts_line r.1 off.toNat hal a p b h
  · exact (((keeps_noData _).mono (by simp)).trans (hk.mono (by simp))).trans ((keeps_giveData _ _ _).mono (by simp))

theorem hostUp_of_pcieUp {d : Die} (h : pcieUp d = true) : hostUp d = true := by
  simp only [pcieUp, Bool.and_eq_true] at h
  exact h.1.1

theorem ends_memoryRead_word {off : BitVec 20} {lb : BitVec 4} {v : Word} {x : RegRow × List Nat} (hup : pcieUp (found s) = true)
    (hw : readsWait (found s) = false) (hs : anySwitching (found s) off.toNat 1 = false) (hat : regAt s.die false off.toNat = some x)
    (hsnap : sget none s.die.snap off.toNat = none) : ends (.pcieMemoryRequest false off 15 lb [v]) s fun t =>
      t.die.host.rdData = [BitVec.ofNat 32 (readVal s.dog (found s) false off.toNat)] := by
  have hat' : regAt (noData (found s)) false off.toNat = some x := hat
  have hbes : requestBes [v].length (15 : BitVec 4).toNat lb.toNat = [15] := rfl
  refine ends_of_onDie (f := fun d => memRequest s.dog d false off.toNat (15 : BitVec 4).toNat lb.toNat [v]) rfl ?_
  rw [memRequest_read hup hw hs, hbes, readAnswer_word, rdData_irqSettle, hostRead_word _ _ (regAt_aligned hat), rdData_answer,
    hostRead_value hat', show sget none (noData (found s)).snap off.toNat = none from hsnap, ofNat_and_all, readVal_noData]

/-- A memory write of one dword is a register write (R337). -/
theorem ends_memoryWrite_word {off : BitVec 20} {fb lb : BitVec 4} {v : Word} (hup : pcieUp (found s) = true) :
    ends (.pcieMemoryRequest true off fb lb [v]) s fun t => exec (.registerWrite off fb v) s = .next t := by
  refine ends_of_onDie (f := fun d => memRequest s.dog d true off.toNat fb.toNat lb.toNat [v]) rfl ?_
  have heq : memRequest s.dog (found s) true off.toNat fb.toNat lb.toNat [v] = busWriteBe off.toNat fb.toNat v.toNat (found s) := by
    rw [memRequest, hup, busWriteBe, hostUp_of_pcieUp hup]
    rfl
  show exec (.registerWrite off fb v) s = .next { s with die := irqSettle s.die (memRequest s.dog (found s) true off.toNat fb.toNat lb.toNat [v]) }
  rw [heq]
  rfl

/-! Two words of a descriptor at once. -/

theorem desc_find : ∀ w : Fin 16, (findReg (Reg.HST_CMD_DESC w.val)).map (fun x => (x.1.prv, x.1.locked, regDomain x.1 x.2)) =
    some (false, false, some 57) := by decide +kernel

theorem illegal_desc (d : Die) {off : Nat} (hlo : 0xC0000 ≤ off) (hhi : off < 0x100000) (v : Nat) : illegal d off v = false := by
  have hne : ∀ m, m < 0xC0000 → off ≠ m := by omega
  unfold illegal
  rw [if_neg (hne _ (by decide)), if_neg (hne _ (by decide)), if_neg (by omega), if_neg (by omega), if_neg (hne _ (by decide)),
    if_neg (hne _ (by decide)), if_neg (fun h => h.elim (hne _ (by decide)) fun h => h.elim (hne _ (by decide)) (hne _ (by decide))),
    if_neg (by omega), if_neg (by omega), if_neg (by omega), if_neg (by omega), if_neg (by omega), if_neg (by omega),
    if_neg (by omega)]

/-- A powered mailbox takes every word of a descriptor. -/
theorem judge_desc {d : Die} {w : Nat} (hw : w < 16) (hpow : powered d 57 = true) (v : Nat) :
    judgeWrite d false (Reg.HST_CMD_DESC w) 15 v = 0 := by
  have hrow := desc_find ⟨w, hw⟩
  have hoff : Reg.HST_CMD_DESC w = 0xC0000 + w * 4 := rfl
  simp only [Option.map_eq_some_iff, Prod.mk.injEq] at hrow
  obtain ⟨x, hfind, hprv, hlocked, hdom⟩ := hrow
  have hal : Reg.HST_CMD_DESC w % 4 = 0 := by omega
  have htag : (Reg.HST_CMD_DESC w == Reg.CTR_WTAG) = false := by
    rw [beq_eq_false_iff_ne]
    simp only [Reg.CTR_WTAG]
    omega
  have hat : regAt d false (Reg.HST_CMD_DESC w) = some x := by
    simp [regAt, hfind, regAnswers, hdom, hpow, hal, htag]
  have hlegal := illegal_desc d (off := Reg.HST_CMD_DESC w) (by omega) (by omega) v
  rw [judgeWrite, if_neg (by simp [hal, beOk]), hat]
  simp [hprv, hlocked, memberRing, hlegal]

/-- A whole-word write of a word of a descriptor. -/
theorem hostWrite_desc {d : Die} {w : Nat} (hw : w < 16) (hpow : powered d 57 = true) (v : Word) :
    hostWrite d (Reg.HST_CMD_DESC w) 15 v.toNat = putReg d (Reg.HST_CMD_DESC w) v := by
  have hjudge := judge_desc hw hpow v.toNat
  rw [show (15 : Nat) = (15 : BitVec 4).toNat from rfl, hostWrite_accepted (by decide) hjudge, acceptWrite_desc hw (by decide)
    (laneMask_lt _) hjudge, show (15 : BitVec 4).toNat = 15 from rfl, laneMask_all, laneWord_all _ v.isLt, BitVec.ofNat_toNat,
    BitVec.setWidth_eq]

/-- A write of a descriptor leaves the port as it was. -/
theorem desc_taken {d : Die} {w : Nat} (hw : w < 16) (v : Word) (off : Nat)
    (hoff : off = Reg.HST_CMD_DESC w + 4) (hw' : w + 1 < 16) :
    writesWait (putReg d (Reg.HST_CMD_DESC w) v) = writesWait d ∧
    switching (putReg d (Reg.HST_CMD_DESC w) v) off = switching d off := by
  have hw0 : Reg.HST_CMD_DESC w = 0xC0000 + w * 4 := rfl
  have hk : Keeps [.regs] d (putReg d (Reg.HST_CMD_DESC w) v) := by simp
  have hl : Leaves (· = Reg.HST_CMD_DESC w) d (putReg d (Reg.HST_CMD_DESC w) v) :=
    (leaves_putReg (p := (· = Reg.HST_CMD_DESC w)) _ _ rfl _).2 (.refl _ _)
  have hnodes : ctNodes (putReg d (Reg.HST_CMD_DESC w) v) = ctNodes d := List.filter_congr fun n hn =>
    flag_of_leaves hl (Reg.CTR_NODE_SCHED n) (by
      have := (mem_upto ..).1 hn
      simp only [Reg.CTR_NODE_SCHED, hw0, Reg.CTR_NODE]
      omega)
  have hdom : rowDomain off = some (some 57) := by
    have hrow := desc_find ⟨w + 1, hw'⟩
    have hnext : Reg.HST_CMD_DESC (w + 1) = off := by simp only [hoff, Reg.HST_CMD_DESC]; omega
    simp only [Option.map_eq_some_iff, Prod.mk.injEq, hnext] at hrow
    obtain ⟨x, hfind, _, _, hdom⟩ := hrow
    rw [rowDomain, hfind, Option.map_some, hdom]
  refine ⟨?_, switching_congr hk hl (by simp) (by simp) (by simp only [hw0, Reg.PWR_STAT]; omega) (by omega) ?_⟩
  · simp only [writesWait, readsWait, creditOut, memberNodes, hnodes]
    rfl
  · rw [offDoms_of_rowDomain (by omega) hdom]
    simp

theorem anySwitching_two {d : Die} {off : Nat} (h : anySwitching d off 2 = false) :
    switching d off = false ∧ switching d (off + 4) = false := by
  have hany := List.any_eq_false.1 h
  exact ⟨by simpa using hany 0 (by decide), by simpa using hany 1 (by decide)⟩

theorem ends_memoryWrite_desc {off : BitVec 20} {w : Nat} {u v : Word} (hup : pcieUp (found s) = true)
    (hwait : writesWait (found s) = false) (hw : w < 15) (hoff : off.toNat = Reg.HST_CMD_DESC w)
    (hs : anySwitching (found s) off.toNat 2 = false) : ends (.pcieMemoryRequest true off 15 15 [u, v]) s fun t =>
      getReg t.die (Reg.HST_CMD_DESC w) = u ∧ getReg t.die (Reg.HST_CMD_DESC (w + 1)) = v ∧
      regsBut (fun o => o = Reg.HST_CMD_DESC w ∨ o = Reg.HST_CMD_DESC (w + 1)) s t ∧ keepsBut [.regs] s t := by
  have hnext : Reg.HST_CMD_DESC (w + 1) = Reg.HST_CMD_DESC w + 4 := by simp only [Reg.HST_CMD_DESC]; omega
  have hpow : powered (found s) 57 = true := by
    have := hostUp_of_pcieUp hup
    simp only [hostUp, Bool.and_eq_true] at this
    exact this.2
  rw [hoff] at hs
  obtain ⟨hs1, hs2⟩ := anySwitching_two hs
  obtain ⟨hwait', hsw'⟩ := desc_taken (d := found s) (show w < 16 by omega) u _ rfl (by omega)
  have heq : memRequest s.dog (found s) true (Reg.HST_CMD_DESC w) 15 15 [u, v] =
      putReg (putReg (found s) (Reg.HST_CMD_DESC w) u) (Reg.HST_CMD_DESC (w + 1)) v := by
    have hseries : memRequest s.dog (found s) true (Reg.HST_CMD_DESC w) 15 15 [u, v] =
        writeAll (found s) [(Reg.HST_CMD_DESC w, 15, u.toNat), (Reg.HST_CMD_DESC w + 4, 15, v.toNat)] := by
      rw [memRequest, hup]
      rfl
    rw [hseries, writeAll, hwait, hs1, hostWrite_desc (by omega) hpow]
    simp only [Bool.or_self, Bool.false_eq_true, if_false]
    rw [writeAll, hwait', hwait, hsw', hs2, ← hnext, hostWrite_desc (show w + 1 < 16 by omega)
      (show powered (putReg (found s) (Reg.HST_CMD_DESC w) u) 57 = true from hpow)]
    rfl
  refine ends_of_onDie (f := fun d => memRequest s.dog d true off.toNat (15 : BitVec 4).toNat (15 : BitVec 4).toNat [u, v]) rfl ?_
  show _ ∧ _
  rw [hoff, show (15 : BitVec 4).toNat = 15 from rfl, heq]
  refine ⟨(getReg_irqSettle ..).trans ?_, (getReg_irqSettle ..).trans (getReg_putReg_same ..), regsBut_command ?_, keepsBut_command (by simp)⟩
  · rw [getReg_putReg_ne _ _ (by omega), getReg_putReg_same]
  · refine (leaves_putReg (p := fun o => o = Reg.HST_CMD_DESC w ∨ o = Reg.HST_CMD_DESC (w + 1)) _ _ (.inr rfl) _).2 ?_
    exact (leaves_putReg (p := fun o => o = Reg.HST_CMD_DESC w ∨ o = Reg.HST_CMD_DESC (w + 1)) _ _ (.inl rfl) _).2 (.refl _ _)

/-! Configuration requests (R330, R331, R375). -/

theorem cfgRequest_early {d : Die} {i : Nat} (x : Option Word) (h : d.tb.gt < d.host.cfgReady) : cfgRequest d i x = noData d := by
  unfold cfgRequest
  extract_lets e
  exact if_pos (by
    rw [Bool.or_eq_true]
    exact .inr (decide_eq_true h))

theorem cfg_ready {d : Die} (hup : pcieUp d = true) (h : d.host.cfgReady ≤ d.tb.gt) :
    (!pcieUp (noData d) || decide ((noData d).tb.gt < (noData d).host.cfgReady)) = false := by
  rw [show pcieUp (noData d) = true from hup, decide_eq_false (show ¬ (noData d).tb.gt < (noData d).host.cfgReady from Nat.not_lt.2 h)]
  rfl

theorem cfgRequest_read {d : Die} (i : Nat) (hup : pcieUp d = true) (h : d.host.cfgReady ≤ d.tb.gt) :
    cfgRequest d i none = updHost (cfgRead (noData d) i).2 fun h => { h with rdData := [(cfgRead (noData d) i).1] } := by
  unfold cfgRequest
  extract_lets e
  exact if_neg (by rw [cfg_ready hup h]; decide)

theorem cfgRequest_write {d : Die} (i : Nat) (v : Word) (hup : pcieUp d = true) (h : d.host.cfgReady ≤ d.tb.gt) :
    cfgRequest d i (some v) =
      cfgHook (updHost (noData d) fun h => { h with cfg := sput 0 h.cfg i (BitVec.ofNat 32 (v.toNat &&& cfgMask (noData d) i)) })
        i v.toNat := by
  unfold cfgRequest
  extract_lets e
  exact if_neg (by rw [cfg_ready hup h]; decide)

/-- A dword of the header that R330 fixes reads its value. -/
theorem cfgRead_fixed {d : Die} {i : Nat} {v : Nat} (hmask : cfgMask d i = 0) (hfix : cfgFixed d i = (2 ^ 32 - 1, v)) :
    (cfgRead d i).1 = BitVec.ofNat 32 v := by
  have hall : ∀ x, x % 2 ^ 32 &&& (2 ^ 32 - 1) = x % 2 ^ 32 := fun x => by
    rw [Nat.and_two_pow_sub_one_eq_mod, Nat.mod_mod]
  unfold cfgRead
  extract_lets r f w x m
  have hm : m = 2 ^ 32 - 1 := by
    show cfgMask d i ||| (cfgFixed d i).1 = _
    rw [hmask, hfix, Nat.zero_or]
  have hv : f.2 = v := congrArg Prod.snd hfix
  have hw : w = 0 := hmask
  have hx : x - (x &&& m) = 0 := by rw [hm, hall, Nat.sub_self]
  show BitVec.ofNat 32 ((x - (x &&& m)) + ((((sget 0 d.host.cfg i).toNat &&& w) ||| f.2))) = _
  rw [hx, hv, hw, Nat.and_zero, Nat.zero_or, Nat.zero_add]

theorem keeps_cfgRead (d : Die) (i : Nat) : Keeps [.fresh] d (cfgRead d i).2 := (keeps_fresh _ _ (by simp) _).2 (.refl _ d)

theorem ends_cfgRead {i : Fin 1024} {v : Nat} (hup : pcieUp (found s) = true) (hready : s.die.host.cfgReady ≤ s.die.tb.gt)
    (hmask : cfgMask (noData (found s)) i.val = 0) (hfix : cfgFixed (noData (found s)) i.val = (2 ^ 32 - 1, v)) :
    ends (.pcieConfigRequest i none) s fun t => t.die.host.rdData = [BitVec.ofNat 32 v] ∧ keepsBut [.host, .fresh] s t := by
  refine ends_of_onDie (f := (cfgRequest · i.val none)) rfl ?_
  rw [cfgRequest_read _ hup hready]
  have hval := cfgRead_fixed hmask hfix
  have hk := keeps_cfgRead (noData (found s)) i.val
  generalize cfgRead (noData (found s)) i.val = r at hval hk
  refine ⟨(rdData_irqSettle ..).trans (congrArg (fun y => [y]) hval), keepsBut_command ?_⟩
  refine (keeps_updHost _ _ (by simp) _).2 ?_
  exact ((keeps_noData _).mono (by simp)).trans (hk.mono (by simp))

theorem cfg_zero : ∀ i : Fin 1024, i.val ∈ [5, 7, 8, 9, 12] → ∀ d : Die, cfgMask d i.val = 0 ∧ cfgFixed d i.val = (2 ^ 32 - 1, 0) := by
  intro i hi d
  simp only [List.mem_cons, List.not_mem_nil, or_false] at hi
  obtain h | h | h | h | h := hi <;> rw [h] <;> exact ⟨rfl, rfl⟩

/-- A write of a configuration dword above the header turns on the state of the host port alone. -/
theorem cfgHook_spec (d : Die) {i : Nat} (x : Nat) (hi : 16 ≤ i) : Keeps [.host] d (cfgHook d i x) ∧
    (cfgHook d i x).host.bme = d.host.bme ∧
    (i = Config.pcieCap 0 + 1 → (x % 4 = 3 → (cfgHook d i x).host.pmD3 = true) ∧ (x % 4 = 0 → (cfgHook d i x).host.pmD3 = false)) ∧
    (i ≠ Config.pcieCap 0 + 1 → i = Config.pcieCap 1 → (cfgHook d i x).host.msiEn = bitOf x 16) := by
  unfold cfgHook
  rw [if_neg (by omega), if_neg (by omega)]
  split
  · next hpm =>
    refine ⟨by simp, rfl, fun _ => ⟨fun h => if_pos h, fun h => ?_⟩, fun hne => absurd hpm hne⟩
    show (if x % 4 = 3 then true else if x % 4 = 0 then false else d.host.pmD3) = false
    rw [if_neg (by omega), if_pos h]
  · next hpm =>
    split
    · exact ⟨by simp, rfl, fun h => absurd h hpm, fun _ _ => rfl⟩
    · next hmsi =>
      have hnone : (i = Config.pcieCap 0 + 1 → ∀ e : Die, (x % 4 = 3 → e.host.pmD3 = true) ∧ (x % 4 = 0 → e.host.pmD3 = false)) ∧
          (i ≠ Config.pcieCap 0 + 1 → i = Config.pcieCap 1 → ∀ e : Die, e.host.msiEn = bitOf x 16) :=
        ⟨fun h => absurd h hpm, fun _ h => absurd h hmsi⟩
      split
      · extract_lets e
        have he : Keeps [.host] d e ∧ e.host.bme = d.host.bme := ⟨by simp [e], rfl⟩
        split
        · exact ⟨he.1, he.2, fun h => hnone.1 h _, fun h h' => hnone.2 h h' _⟩
        · obtain ⟨m, w, hsend⟩ := irqSend_eq e e.host.msixWait
          rw [hsend]
          exact ⟨he.1.trans (by simp), he.2, fun h => hnone.1 h _, fun h h' => hnone.2 h h' _⟩
      · exact ⟨.refl _ _, rfl, fun h => hnone.1 h _, fun h h' => hnone.2 h h' _⟩

theorem bme_irqSettle (c d : Die) : (irqSettle c d).host.bme = d.host.bme := by
  have h := congrArg HostSt.bme (still_irqSettle c d)
  exact h

theorem pmD3_irqSettle (c d : Die) : (irqSettle c d).host.pmD3 = d.host.pmD3 := by
  have h := congrArg HostSt.pmD3 (still_irqSettle c d)
  exact h

theorem msiEn_irqSettle (c d : Die) : (irqSettle c d).host.msiEn = d.host.msiEn := by
  have h := congrArg HostSt.msiEn (still_irqSettle c d)
  exact h

theorem ends_cfgEarly {i : Fin 1024} {x : Option Word} (h : s.die.tb.gt < s.die.host.cfgReady) :
    ends (.pcieConfigRequest i x) s fun t => t.die.host.rdData = [] ∧ t.die.host.bme = s.die.host.bme ∧ keepsBut [.host] s t := by
  refine ends_of_onDie (f := (cfgRequest · i.val x)) rfl ?_
  rw [cfgRequest_early x (show (found s).tb.gt < (found s).host.cfgReady from h)]
  exact ⟨rdData_irqSettle .., bme_irqSettle .., keepsBut_command (keeps_noData _)⟩

theorem ends_cfgCommand {v : Word} (hup : pcieUp (found s) = true) (hready : s.die.host.cfgReady ≤ s.die.tb.gt) :
    ends (.pcieConfigRequest 1 (some v)) s fun t => t.die.host.bme = bitOf v.toNat 2 ∧ keepsBut [.host] s t := by
  refine ends_of_onDie (f := (cfgRequest · (1 : Fin 1024).val (some v))) rfl ?_
  rw [cfgRequest_write _ v hup hready]
  generalize BitVec.ofNat 32 (v.toNat &&& cfgMask (noData (found s)) (1 : Fin 1024).val) = x
  exact ⟨bme_irqSettle .., keepsBut_command ((keeps_updHost _ _ (by simp) _).2 ((keeps_updHost _ _ (by simp) _).2 (keeps_noData _)))⟩

theorem ends_cfgWrite {i : Fin 1024} {v : Word} (hup : pcieUp (found s) = true) (hready : s.die.host.cfgReady ≤ s.die.tb.gt)
    (hi : 16 ≤ i.val) : ends (.pcieConfigRequest i (some v)) s fun t => keepsBut [.host] s t ∧ t.die.host.bme = s.die.host.bme ∧
      (i.val = Config.pcieCap 0 + 1 →
        (v.toNat % 4 = 3 → t.die.host.pmD3 = true) ∧ (v.toNat % 4 = 0 → t.die.host.pmD3 = false)) ∧
      (i.val ≠ Config.pcieCap 0 + 1 → i.val = Config.pcieCap 1 → t.die.host.msiEn = bitOf v.toNat 16) := by
  refine ends_of_onDie (f := (cfgRequest · i.val (some v))) rfl ?_
  rw [cfgRequest_write _ v hup hready]
  obtain ⟨hk, hbme, hpm, hmsi⟩ := cfgHook_spec (updHost (noData (found s)) fun h =>
    { h with cfg := sput 0 h.cfg i.val (BitVec.ofNat 32 (v.toNat &&& cfgMask (noData (found s)) i.val)) }) v.toNat hi
  refine ⟨keepsBut_command (((keeps_updHost _ _ (by simp) _).2 (keeps_noData _)).trans hk), (bme_irqSettle ..).trans hbme,
    fun h => ⟨fun hv => (pmD3_irqSettle ..).trans ((hpm h).1 hv), fun hv => (pmD3_irqSettle ..).trans ((hpm h).2 hv)⟩,
    fun h h' => (msiEn_irqSettle ..).trans (hmsi h h')⟩

end Read

/-- Settles O23: a read answers what it finds or waits for its turn, a memory request is the accesses of its dwords, and a
configuration request the identity and the controls of the endpoint. -/
theorem hostReads : Obligations.HostReads := by
  refine ⟨⟨fun _ ⟨hup, hw, hs⟩ hsnap => ends_beatNumRead hup hw hs hsnap,
      fun _ _ _ ⟨hup, hw, hs⟩ hat hlow => ends_lowWordRead_low hup hw hs hat hlow,
      fun _ _ _ _ ⟨hup, hw, hs⟩ _ hat hhigh hsnap => ends_lowWordRead_high hup hw hs hat hhigh hsnap,
      fun _ _ hup hw => ends_lowWordRead_waits hup hw, fun _ _ hup => ends_lowWordRead_down hup⟩,
    fun _ _ _ _ _ hup ⟨_, hw, hs⟩ => ends_memoryRead hup hw hs,
    fun _ _ _ _ _ hup ⟨_, hw, hs⟩ hat hsnap => ends_memoryRead_word hup hw hs hat hsnap,
    fun _ _ _ _ _ hup => ends_memoryWrite_word hup,
    fun _ _ _ _ _ hup hwait hw hoff hs => ends_memoryWrite_desc hup hwait hw hoff hs,
    fun _ _ _ _ h => ends_cfgEarly h, fun _ hup hready => ends_cfgRead hup hready rfl rfl,
    fun _ i hup hready hi => ends_cfgRead hup hready (cfg_zero i hi _).1 (cfg_zero i hi _).2,
    fun _ _ hup hready => ends_cfgCommand hup hready, fun _ _ _ hup hready hi => ends_cfgWrite hup hready hi⟩

end Sys2Proof.Machine
end

section
/-! PROOFS. Frames of the QSPI port (R333 to R335, R339, R375, R417). -/

namespace Sys2Proof.Machine

open Sys2Proof

/-! A fault of a frame. -/

/-- The registers of a frame fault (R335). -/
def spiErrRegs (o : Nat) : Prop := o = Reg.HST_SPI_ERR ∨ o = Reg.HST_CNT_SPIERR

/-- A bit of HST_SPI_ERR. -/
def spiBit (f : Fld) : Prop := f.off = Reg.HST_SPI_ERR ∧ f.lo + f.w ≤ 32 ∧ f.w = 1

theorem spiFault_frame (d : Die) {f : Fld} (h : f.off = Reg.HST_SPI_ERR) : Leaves spiErrRegs d (spiFault d f) ∧
    Keeps [.regs] d (spiFault d f) := by
  refine ⟨(leaves_incReg (p := spiErrRegs) _ _ (.inr rfl)).2 ((leaves_setFlag (p := spiErrRegs) _ _ (.inl h)).2 (.refl _ _)), ?_⟩
  simp [spiFault]

theorem spiFault_spec (d : Die) {f : Fld} (h : spiBit f) : flag (spiFault d f) f = true ∧
    getReg (spiFault d f) Reg.HST_CNT_SPIERR = BitVec.ofNat 32 (satInc 32 (getReg d Reg.HST_CNT_SPIERR).toNat) := by
  obtain ⟨hoff, hfit, hw⟩ := h
  have hne : f.off ≠ Reg.HST_CNT_SPIERR := by
    rw [hoff]
    decide
  refine ⟨?_, ?_⟩
  · rw [spiFault, flag, fld, getReg_incReg_ne _ _ hne]
    exact flag_setFlag_same d f hfit hw
  · rw [spiFault, getReg_incReg_same, getReg_setFlag_ne _ _ hne.symm]

theorem spiBit_of_header {b : List Byte} {f : Fld} (h : spiHeader b = some f) : spiBit f := by
  unfold spiHeader at h
  split at h
  · exact Option.some.inj h ▸ ⟨rfl, by decide, rfl⟩
  · split at h
    · exact Option.some.inj h ▸ ⟨rfl, by decide, rfl⟩
    · split at h
      · exact Option.some.inj h ▸ ⟨rfl, by decide, rfl⟩
      · exact absurd h (by simp)

/-! The start of a frame. -/

/-- A frame that the port takes drives nothing at first. -/
def frameStart (d : Die) : Die := updHost (noData d) fun h => { h with spiOut := [] }

theorem frameStart_frame (d : Die) : Leaves (fun _ => False) d (frameStart d) ∧ Keeps [.host] d (frameStart d) :=
  ⟨.of_regs rfl, (keeps_updHost _ _ (by simp) _).2 (keeps_noData d)⟩

theorem writesWait_frameStart (d : Die) : writesWait (frameStart d) = writesWait d := rfl

theorem readsWait_frameStart (d : Die) : readsWait (frameStart d) = readsWait d := rfl

theorem switching_frameStart (d : Die) (off : Nat) : switching (frameStart d) off = switching d off := rfl

theorem anySwitching_frameStart (d : Die) (off n : Nat) : anySwitching (frameStart d) off n = anySwitching d off n := by
  simp only [anySwitching, switching_frameStart]

theorem scanned_frameStart (d : Die) : scanned (frameStart d) = scanned d := rfl

section Frame

variable {s : State} {g : Dog} {d : Die} {b : List Byte} {held : Nat} {stop : QspiEnd}

theorem qspiFrame_down (h : qspiUp d = false) : qspiFrame g d b held stop = d := by
  rw [qspiFrame, h]
  rfl

theorem qspiFrame_bad {f : Fld} (hup : qspiUp d = true) (h : spiHeader b = some f) : qspiFrame g d b held stop =
    if bitOf (leAt b 0 1) 7 && f != Reg.HST_SPI_ERR_FRAG then
      updHost (spiFault (frameStart d) f) fun h =>
        { h with rdData := List.replicate (leAt b 0 1 % 16 + 1) 0xFFFFFFFF,
                 spiOut := hioOut (spiFault (frameStart d) f) (List.replicate (4 * (leAt b 0 1 % 16 + 1) + 2) 0xFF) }
    else spiFault (frameStart d) f := by
  rw [qspiFrame, hup, h]
  rfl

theorem qspiFrame_write (hup : qspiUp d = true) (h : spiHeader b = none) (hw : bitOf (leAt b 0 1) 7 = false) :
    qspiFrame g d b held stop = qspiWrite (frameStart d) b held stop := by
  rw [qspiFrame, hup, h, hw]
  rfl

theorem qspiFrame_read (hup : qspiUp d = true) (h : spiHeader b = none) (hr : bitOf (leAt b 0 1) 7 = true) :
    qspiFrame g d b held stop = qspiRead g (frameStart d) b stop := by
  rw [qspiFrame, hup, h, hr]
  rfl

/-- A die that a frame left with a fault and nothing else. -/
def FaultedBy (f : Fld) (d e : Die) : Prop := flag e f = true ∧
  getReg e Reg.HST_CNT_SPIERR = BitVec.ofNat 32 (satInc 32 (getReg d Reg.HST_CNT_SPIERR).toNat) ∧
  Leaves spiErrRegs d e ∧ Keeps [.regs, .host] d e

theorem faultedBy_spiFault {f : Fld} (h : spiBit f) (d : Die) : FaultedBy f d (spiFault (frameStart d) f) := by
  obtain ⟨hflag, hcount⟩ := spiFault_spec (frameStart d) h
  obtain ⟨hl, hk⟩ := spiFault_frame (frameStart d) h.1
  obtain ⟨hl0, hk0⟩ := frameStart_frame d
  exact ⟨hflag, hcount, (hl0.mono (fun _ h => h.elim)).trans hl, (hk0.mono (by simp)).trans (hk.mono (by simp))⟩

theorem faultedBy_header {f : Fld} (hup : qspiUp d = true) (h : spiHeader b = some f) : FaultedBy f d (qspiFrame g d b held stop) := by
  have hf := faultedBy_spiFault (spiBit_of_header h) d
  rw [qspiFrame_bad hup h]
  generalize spiFault (frameStart d) f = e at hf
  obtain ⟨hflag, hcount, hl, hk⟩ := hf
  split
  · exact ⟨hflag, hcount, hl.trans (.of_regs rfl), (keeps_updHost _ _ (by simp) _).2 hk⟩
  · exact ⟨hflag, hcount, hl, hk⟩

/-- What the part shows of a faulted frame. -/
theorem ends_faulted {i : Instr} {f : Fld} {h : Nat} (hi : exec i s = onDieDog (fun g d => qspiFrame g d b h stop) s)
    (hf : FaultedBy f (found s) (qspiFrame s.dog (found s) b h stop)) : ends i s fun t => flag t.die f = true ∧
      getReg t.die Reg.HST_CNT_SPIERR = BitVec.ofNat 32 (satInc 32 (getReg s.die Reg.HST_CNT_SPIERR).toNat) ∧
      regsBut (fun o => o = Reg.HST_SPI_ERR ∨ o = Reg.HST_CNT_SPIERR) s t ∧ keepsBut [.regs, .host] s t := by
  obtain ⟨hflag, hcount, hl, hk⟩ := hf
  exact ends_of_onDie (f := fun d => qspiFrame s.dog d b h stop) hi
    ⟨(flag_irqSettle ..).trans hflag, (getReg_irqSettle ..).trans hcount, regsBut_command hl, keepsBut_command hk⟩

/-! A write frame of one word. -/

theorem qspiWrite_early : qspiWrite d b held .early = spiFault d Reg.HST_SPI_ERR_FRAG := if_pos (.inr rfl)

theorem qspiWrite_badData (hlen : b.length = 10) (hn : leAt b 0 1 % 16 = 0) (hcrc : leAt b 9 1 ≠ crc07 (slice b 5 4)) :
    qspiWrite d b held .exact = spiFault d Reg.HST_SPI_ERR_DCRC := by
  rw [qspiWrite, hn, if_neg (by simp [hlen]), if_pos hcrc]

theorem qspiWrite_full (hlen : b.length = 10) (hn : leAt b 0 1 % 16 = 0) (hcrc : leAt b 9 1 = crc07 (slice b 5 4)) (hheld : 2 ≤ held) :
    qspiWrite d b held .exact = spiFault d Reg.HST_SPI_ERR_OVR := by
  rw [qspiWrite, hn, if_neg (by simp [hlen]), if_neg (by simp [hcrc]), if_pos hheld]

/-- The word of a write frame of one word. -/
def frameWord (b : List Byte) : Word := BitVec.ofNat 32 (leAt b 5 4)

theorem qspiWrite_word (hlen : b.length = 10) (hn : leAt b 0 1 % 16 = 0) (hcrc : leAt b 9 1 = crc07 (slice b 5 4)) (hheld : held < 2)
    (hstop : stop ≠ .early) : qspiWrite d b held stop =
      if stop = .extra then spiFault (writeAll d [(leAt b 1 3, 15, (frameWord b).toNat)]) Reg.HST_SPI_ERR_EXTRA
      else writeAll d [(leAt b 1 3, 15, (frameWord b).toNat)] := by
  rw [qspiWrite, hn, if_neg (by simp [hlen, hstop]), if_neg (by simp [hcrc]), if_neg (by omega)]
  have hlong : (stop = .extra ∨ 6 + 4 * (0 + 1) < b.length) ↔ stop = .extra := by simp [hlen]
  simp only [hlong]
  rfl

theorem hostUp_of_qspiUp (h : qspiUp d = true) : hostUp d = true := by
  simp only [qspiUp, Bool.and_eq_true] at h
  exact h.1.1

/-- A word that the port writes at once. -/
theorem writeAll_desc {w : Nat} (hw : w < 16) (hpow : powered d 57 = true) (hwait : writesWait d = false)
    (hs : switching d (Reg.HST_CMD_DESC w) = false) (v : Word) :
    writeAll d [(Reg.HST_CMD_DESC w, 15, v.toNat)] = putReg d (Reg.HST_CMD_DESC w) v := by
  rw [writeAll, hwait, hs, hostWrite_desc hw hpow]
  rfl

theorem writeAll_waits {off v : Nat} (h : writesWait d = true ∨ switching d off = true) :
    writeAll d [(off, 15, v)] = holdReqs d [.write 0 off 15 v] := by
  rw [writeAll, if_pos (by simpa using h)]
  rfl

/-- A header and its one word (R333). -/
def OneWord (b : List Byte) : Prop := spiHeader b = none ∧ b.length = 10 ∧ leAt b 0 1 % 16 = 0

theorem frameStart_written {w : Nat} (hup : qspiUp d = true) (hone : OneWord b) (hwr : bitOf (leAt b 0 1) 7 = false) (hheld : held < 2)
    (hw : w < 16) (hwait : writesWait d = false) (hs : anySwitching d (Reg.HST_CMD_DESC w) 1 = false)
    (hoff : leAt b 1 3 = Reg.HST_CMD_DESC w) (hcrc : leAt b 9 1 = crc07 (slice b 5 4)) (hstop : stop ≠ .early) :
    qspiFrame g d b held stop =
      if stop = .extra then spiFault (putReg (frameStart d) (Reg.HST_CMD_DESC w) (frameWord b)) Reg.HST_SPI_ERR_EXTRA
      else putReg (frameStart d) (Reg.HST_CMD_DESC w) (frameWord b) := by
  obtain ⟨hhead, hlen, hn⟩ := hone
  have hpow : powered (frameStart d) 57 = true := by
    have := hostUp_of_qspiUp hup
    simp only [hostUp, Bool.and_eq_true] at this
    exact this.2
  rw [anySwitching_one] at hs
  rw [qspiFrame_write hup hhead hwr, qspiWrite_word hlen hn hcrc hheld hstop, hoff,
    writeAll_desc hw hpow ((writesWait_frameStart d).trans hwait) ((switching_frameStart d _).trans hs)]

theorem ends_writeFrame {w : Nat} {h : Fin 3} (hup : qspiUp (found s) = true) (hone : OneWord b) (hwr : bitOf (leAt b 0 1) 7 = false)
    (hheld : h.val < 2) (hw : w < 16) (hwait : writesWait (found s) = false) (hs : anySwitching (found s) (Reg.HST_CMD_DESC w) 1 = false)
    (hoff : leAt b 1 3 = Reg.HST_CMD_DESC w) (hcrc : leAt b 9 1 = crc07 (slice b 5 4)) :
    ends (.qspiWriteFrame b ⟨h, .exact⟩) s fun t => getReg t.die (Reg.HST_CMD_DESC w) = BitVec.ofNat 32 (leAt b 5 4) ∧
      regsBut (· = Reg.HST_CMD_DESC w) s t ∧ keepsBut [.regs, .host] s t := by
  have heq := frameStart_written (g := s.dog) (stop := .exact) hup hone hwr hheld hw hwait hs hoff hcrc (by decide)
  obtain ⟨hl, hk⟩ := frameStart_frame (found s)
  refine ends_of_onDie (f := fun d => qspiFrame s.dog d b h.val .exact) rfl ?_
  rw [heq, if_neg (by decide)]
  exact ⟨(getReg_irqSettle ..).trans (getReg_putReg_same ..),
    regsBut_command ((leaves_putReg (p := (· = Reg.HST_CMD_DESC w)) _ _ rfl _).2 (hl.mono fun _ h => h.elim)),
    keepsBut_command ((keeps_putReg _ _ (by simp) _ _).2 (hk.mono (by simp)))⟩

theorem ends_writeFrame_extra {w : Nat} {h : Fin 3} (hup : qspiUp (found s) = true) (hone : OneWord b) (hwr : bitOf (leAt b 0 1) 7 = false)
    (hheld : h.val < 2) (hw : w < 16) (hwait : writesWait (found s) = false) (hs : anySwitching (found s) (Reg.HST_CMD_DESC w) 1 = false)
    (hoff : leAt b 1 3 = Reg.HST_CMD_DESC w) (hcrc : leAt b 9 1 = crc07 (slice b 5 4)) :
    ends (.qspiWriteFrame b ⟨h, .extra⟩) s fun t => getReg t.die (Reg.HST_CMD_DESC w) = BitVec.ofNat 32 (leAt b 5 4) ∧
      flag t.die Reg.HST_SPI_ERR_EXTRA = true ∧ regsBut (fun o => o = Reg.HST_CMD_DESC w ∨ spiErrRegs o) s t ∧
      keepsBut [.regs, .host] s t := by
  have hw0 : Reg.HST_CMD_DESC w = 0xC0000 + w * 4 := rfl
  have heq := frameStart_written (g := s.dog) (stop := .extra) hup hone hwr hheld hw hwait hs hoff hcrc (by decide)
  obtain ⟨hl, hk⟩ := frameStart_frame (found s)
  have hl' : Leaves (fun o => o = Reg.HST_CMD_DESC w ∨ spiErrRegs o) (found s) (putReg (frameStart (found s)) (Reg.HST_CMD_DESC w) (frameWord b)) :=
    (leaves_putReg (p := fun o => o = Reg.HST_CMD_DESC w ∨ spiErrRegs o) _ _ (.inl rfl) _).2 (hl.mono fun _ h => h.elim)
  have hk' : Keeps [.regs, .host] (found s) (putReg (frameStart (found s)) (Reg.HST_CMD_DESC w) (frameWord b)) :=
    (keeps_putReg _ _ (by simp) _ _).2 (hk.mono (by simp))
  have hword : getReg (putReg (frameStart (found s)) (Reg.HST_CMD_DESC w) (frameWord b)) (Reg.HST_CMD_DESC w) = frameWord b :=
    getReg_putReg_same ..
  refine ends_of_onDie (f := fun d => qspiFrame s.dog d b h.val .extra) rfl ?_
  rw [heq, if_pos rfl]
  generalize putReg (frameStart (found s)) (Reg.HST_CMD_DESC w) (frameWord b) = e at hl' hk' hword
  have hbit : spiBit Reg.HST_SPI_ERR_EXTRA := ⟨rfl, by decide, rfl⟩
  obtain ⟨hfl, hfk⟩ := spiFault_frame e hbit.1
  have hout : ¬ spiErrRegs (Reg.HST_CMD_DESC w) := by
    simp only [spiErrRegs, hw0, Reg.HST_SPI_ERR, Reg.HST_CNT_SPIERR]
    omega
  exact ⟨(getReg_irqSettle ..).trans ((hfl _ hout).trans hword), (flag_irqSettle ..).trans (spiFault_spec e hbit).1,
    regsBut_command (hl'.trans (hfl.mono fun _ h => .inr h)), keepsBut_command (hk'.trans (hfk.mono (by simp)))⟩

theorem leNat_lt (bs : List Byte) : leNat bs < 256 ^ bs.length := by
  induction bs with
  | nil => exact Nat.one_pos
  | cons x bs ih =>
    have hx : x.toNat < 256 := x.isLt
    rw [leNat, List.length_cons, Nat.pow_succ]
    omega

theorem leAt_lt (bs : List Byte) (i n : Nat) : leAt bs i n < 256 ^ n :=
  (leNat_lt _).trans_le (Nat.pow_le_pow_right (by decide) (List.length_take_le ..))

theorem trk_of_keeps {ps : List Part} {c d : Die} (h : Keeps ps c d) (hp : .trk ∉ ps) : d.trk = c.trk := h .trk hp

theorem ends_writeFrame_waits {w : Nat} (hup : qspiUp (found s) = true) (hone : OneWord b) (hwr : bitOf (leAt b 0 1) 7 = false)
    (hoff : leAt b 1 3 = Reg.HST_CMD_DESC w) (hcrc : leAt b 9 1 = crc07 (slice b 5 4))
    (hw : writesWait (found s) = true ∨ ¬ anySwitching (found s) (Reg.HST_CMD_DESC w) 1 = false) :
    ends (.qspiWriteFrame b ⟨0, .exact⟩) s fun t =>
      t.die.trk.held = s.die.trk.held ++ [.write 0 (Reg.HST_CMD_DESC w) 15 (leAt b 5 4)] ∧ keepsBut [.trk, .host] s t := by
  obtain ⟨hhead, hlen, hn⟩ := hone
  have hval : (frameWord b).toNat = leAt b 5 4 := by
    rw [frameWord, BitVec.toNat_ofNat, Nat.mod_eq_of_lt (show leAt b 5 4 < 2 ^ 32 from leAt_lt b 5 4)]
  rw [anySwitching_one, Bool.not_eq_false] at hw
  have heq : qspiFrame s.dog (found s) b 0 .exact =
      holdReqs (frameStart (found s)) [.write 0 (Reg.HST_CMD_DESC w) 15 (leAt b 5 4)] := by
    rw [qspiFrame_write hup hhead hwr, qspiWrite_word hlen hn hcrc (by decide) (by decide), if_neg (by decide), hoff, hval,
      writeAll_waits (by rw [writesWait_frameStart, switching_frameStart]; exact hw)]
  refine ends_of_onDie (f := fun d => qspiFrame s.dog d b 0 .exact) rfl ?_
  rw [heq]
  exact ⟨congrArg Trunk.held (trk_irqSettle ..),
    keepsBut_command ((keeps_holdReqs _ _ (by simp) _).2 ((frameStart_frame _).2.mono (by simp)))⟩

/-! A read frame. -/

theorem spiOut_irqSettle (c d : Die) : (irqSettle c d).host.spiOut = d.host.spiOut := by
  have h := congrArg HostSt.spiOut (still_irqSettle c d)
  exact h

theorem qspiRead_exact : qspiRead g d b .exact =
    if readsWait d || anySwitching d (leAt b 1 3) (leAt b 0 1 % 16 + 1) then holdReqs d [.spi (leAt b 1 3) (leAt b 0 1 % 16 + 1)]
    else spiWords g d (leAt b 1 3) (leAt b 0 1 % 16 + 1) := rfl

theorem ends_readFrame_waits (hup : qspiUp (found s) = true) (hhead : spiHeader b = none) (hr : bitOf (leAt b 0 1) 7 = true)
    (hw : readsWait (found s) = true ∨ ¬ anySwitching (found s) (leAt b 1 3) (leAt b 0 1 % 16 + 1) = false) :
    ends (.qspiReadFrame b .exact) s fun t => t.die.host.rdData = [] ∧
      t.die.trk.held = s.die.trk.held ++ [.spi (leAt b 1 3) (leAt b 0 1 % 16 + 1)] ∧ keepsBut [.trk, .host] s t := by
  rw [Bool.not_eq_false] at hw
  have hgo : (readsWait (frameStart (found s)) || anySwitching (frameStart (found s)) (leAt b 1 3) (leAt b 0 1 % 16 + 1)) = true := by
    rw [readsWait_frameStart, anySwitching_frameStart, Bool.or_eq_true]
    exact hw
  refine ends_of_onDie (f := fun d => qspiFrame s.dog d b 0 .exact) rfl ?_
  rw [qspiFrame_read hup hhead hr, qspiRead_exact, if_pos hgo]
  exact ⟨rdData_irqSettle .., congrArg Trunk.held (trk_irqSettle ..),
    keepsBut_command ((keeps_holdReqs _ _ (by simp) _).2 ((frameStart_frame _).2.mono (by simp)))⟩

/-- One word of a read frame. -/
def spiStep (g : Dog) (off : Nat) (r : List Word × Die) (i : Nat) : List Word × Die :=
  (r.1 ++ [BitVec.ofNat 32 (spiWord g r.2 (off + 4 * i)).1], (spiWord g r.2 (off + 4 * i)).2)

theorem spiSteps_length (g : Dog) (off : Nat) (l : List Nat) : ∀ r : List Word × Die,
    (l.foldl (spiStep g off) r).1.length = r.1.length + l.length := by
  induction l with
  | nil => exact fun r => rfl
  | cons x l ih =>
    intro r
    rw [List.foldl_cons, ih, spiStep, List.length_append, List.length_singleton, List.length_cons]
    omega

theorem spiWords_eq (g : Dog) (d : Die) (off n : Nat) : spiWords g d off n = updHost ((upto n).foldl (spiStep g off) ([], d)).2 fun h =>
    { h with rdData := ((upto n).foldl (spiStep g off) ([], d)).1,
             spiOut := hioOut d (spiAnswer ((upto n).foldl (spiStep g off) ([], d)).1) } := rfl

theorem spiWords_spec (g : Dog) (d : Die) (off n : Nat) : (spiWords g d off n).host.rdData.length = n ∧
    (spiWords g d off n).host.spiOut = hioOut d (spiAnswer (spiWords g d off n).host.rdData) := by
  have hlen := spiSteps_length g off (upto n) ([], d)
  rw [spiWords_eq]
  generalize (upto n).foldl (spiStep g off) ([], d) = r at hlen
  refine ⟨hlen.trans ?_, rfl⟩
  simp [upto]

theorem ends_readFrame (hup : qspiUp (found s) = true) (hhead : spiHeader b = none) (hr : bitOf (leAt b 0 1) 7 = true)
    (hw : readsWait (found s) = false) (hs : anySwitching (found s) (leAt b 1 3) (leAt b 0 1 % 16 + 1) = false) :
    ends (.qspiReadFrame b .exact) s fun t => t.die.host.rdData.length = leAt b 0 1 % 16 + 1 ∧
      t.die.host.spiOut = hioOut s.die (spiAnswer t.die.host.rdData) := by
  have hgo : (readsWait (frameStart (found s)) || anySwitching (frameStart (found s)) (leAt b 1 3) (leAt b 0 1 % 16 + 1)) = false := by
    rw [readsWait_frameStart, anySwitching_frameStart, hw, hs]
    rfl
  obtain ⟨hlen, hout⟩ := spiWords_spec s.dog (frameStart (found s)) (leAt b 1 3) (leAt b 0 1 % 16 + 1)
  refine ends_of_onDie (f := fun d => qspiFrame s.dog d b 0 .exact) rfl ?_
  rw [qspiFrame_read hup hhead hr, qspiRead_exact, hgo, if_neg (by decide)]
  refine ⟨(congrArg List.length (rdData_irqSettle ..)).trans hlen, ?_⟩
  rw [spiOut_irqSettle, rdData_irqSettle, hout, hioOut, scanned_frameStart]
  rfl

theorem ends_readFrame_bad {e : QspiEnd} {f : Fld} (hup : qspiUp (found s) = true) (hhead : spiHeader b = some f)
    (hf : f ≠ Reg.HST_SPI_ERR_FRAG) (hr : bitOf (leAt b 0 1) 7 = true) (hscan : scanned s.die = false) :
    ends (.qspiReadFrame b e) s fun t =>
      t.die.host.spiOut.length = 4 * (leAt b 0 1 % 16 + 1) + 2 ∧ ∀ x ∈ t.die.host.spiOut, x = 0xFF := by
  have hgo : (bitOf (leAt b 0 1) 7 && f != Reg.HST_SPI_ERR_FRAG) = true := by simp [hr, hf]
  have hstraps : (spiFault (frameStart (found s)) f).straps = s.die.straps := (spiFault_frame _ (spiBit_of_header hhead).1).2 .straps (by simp)
  have htap : (spiFault (frameStart (found s)) f).tap = s.die.tap := (spiFault_frame _ (spiBit_of_header hhead).1).2 .tap (by simp)
  have hno : scanned (spiFault (frameStart (found s)) f) = false := by
    rw [← hscan]
    simp only [scanned, proofMode, hstraps, htap]
  refine ends_of_onDie (f := fun d => qspiFrame s.dog d b 0 e) rfl ?_
  rw [qspiFrame_bad hup hhead, if_pos hgo, hioOut, hno]
  generalize spiFault (frameStart (found s)) f = d
  rw [spiOut_irqSettle]
  exact ⟨List.length_replicate, fun x hx => List.eq_of_mem_replicate hx⟩

theorem qspiUp_false (h : qspiUp (found s) = false ∨ s.die.tb.gt < 500000 ∧ s.die.boot.loaded = false) : qspiUp (found s) = false := by
  obtain h | ⟨hgt, hload⟩ := h
  · exact h
  · rw [qspiUp, show (found s).boot.loaded = false from hload, show (found s).tb.gt = s.die.tb.gt from rfl, decide_eq_false (by omega)]
    exact Bool.and_false _

end Frame

/-- Settles O24: a frame with a fault changes the errors alone, a sound one writes or reads its words in turn. -/
theorem qspiFrames : Obligations.QspiFrames := by
  refine ⟨fun s b h w hup hone hwr hheld hw hwait hs hoff hcrc =>
      ⟨ends_writeFrame hup hone hwr hheld hw hwait hs hoff hcrc, ends_writeFrame_extra hup hone hwr hheld hw hwait hs hoff hcrc⟩,
    fun s b h e f hup hhead => ⟨(spiBit_of_header hhead).1, ends_faulted rfl (faultedBy_header hup hhead),
      ends_faulted rfl (faultedBy_header hup hhead)⟩, ?_, fun s b w hup hone hwr _ hoff hcrc hw => ends_writeFrame_waits hup hone hwr hoff hcrc hw,
    fun s b hup hhead hr hw => ends_readFrame_waits hup hhead hr hw,
    fun s b hup hhead hr hw hs => ends_readFrame hup hhead hr hw hs,
    fun s b e f hup hhead hf hr hscan => ends_readFrame_bad hup hhead hf hr hscan,
    fun s b h e hdown => ⟨ends_idle (f := fun d => qspiFrame s.dog d b h.val e) rfl (qspiFrame_down (qspiUp_false hdown)) [],
      ends_idle (f := fun d => qspiFrame s.dog d b 0 e) rfl (qspiFrame_down (qspiUp_false hdown)) []⟩⟩
  intro s b h hup ⟨hhead, hlen, hn⟩ hwr
  refine ⟨ends_faulted rfl ?_, fun hcrc => ends_faulted rfl ?_, fun hcrc hh => ends_faulted rfl ?_⟩
  · rw [qspiFrame_write hup hhead hwr, qspiWrite_early]
    exact faultedBy_spiFault ⟨rfl, by decide, rfl⟩ _
  · rw [qspiFrame_write hup hhead hwr, qspiWrite_badData hlen hn hcrc]
    exact faultedBy_spiFault ⟨rfl, by decide, rfl⟩ _
  · rw [qspiFrame_write hup hhead hwr, qspiWrite_full hlen hn hcrc (show 2 ≤ h.val by omega)]
    exact faultedBy_spiFault ⟨rfl, by decide, rfl⟩ _

end Sys2Proof.Machine
end

section
/-! PROOFS. Error counters, errors and BUSOFF of a CAN controller (R316, R320, R321), and the states of a controller. -/

namespace Sys2Proof.Machine

open Sys2Proof

/-! The error counters. -/

/-- The registers that an error of controller `n` changes. -/
def canErrRegs (n o : Nat) : Prop := o = Reg.CAN_ERR n ∨ o = Reg.CAN_STAT n

theorem canErr_ne_stat (n m : Nat) : Reg.CAN_ERR n ≠ Reg.CAN_STAT m := by
  simp only [Reg.CAN_ERR, Reg.CAN_STAT]
  omega

theorem canH_updCan (d : Die) {n : Nat} (hn : n < 4) (f : CanHid → CanHid) : canH (updCan d n f) n = f (canH d n) := canH_updCan_same _ _ _ hn

/-- The counters and EP. -/
def countersSet (d : Die) (n tec rec : Nat) : Die :=
  putFlag (setFld (setFld d (Reg.CAN_ERR_TEC n) (min tec 255)) (Reg.CAN_ERR_REC n) (min rec 255)) (Reg.CAN_ERR_EP n)
    (decide (127 < tec) || decide (127 < rec))

theorem canCounters_eq (d : Die) (n tec rec : Nat) : canCounters d n tec rec =
    if (decide (127 < tec) || decide (127 < rec)) && !flag d (Reg.CAN_ERR_EP n) then
      setFlag (countersSet d n tec rec) (Reg.CAN_STAT_EPASS n)
    else countersSet d n tec rec := by
  unfold canCounters
  simp only [Bool.and_eq_true, Bool.not_eq_true', Bool.or_eq_true, decide_eq_true_eq]
  rfl

section Counters

variable (d : Die) (n tec rec : Nat)

theorem countersSet_spec : fld (countersSet d n tec rec) (Reg.CAN_ERR_TEC n) = min tec 255 ∧
    fld (countersSet d n tec rec) (Reg.CAN_ERR_REC n) = min rec 255 ∧
    flag (countersSet d n tec rec) (Reg.CAN_ERR_EP n) = (decide (127 < tec) || decide (127 < rec)) ∧
    fld (countersSet d n tec rec) (Reg.CAN_ERR_LEC n) = fld d (Reg.CAN_ERR_LEC n) := by
  have htec : min tec 255 % 256 = min tec 255 := by omega
  have hrec : min rec 255 % 256 = min rec 255 := by omega
  refine ⟨?_, ?_, flag_putFlag_same _ _ _ (show 16 + 1 ≤ 32 by decide) rfl, ?_⟩
  · rw [countersSet, putFlag, fld_setFld_below _ (Reg.CAN_ERR_TEC n) (Reg.CAN_ERR_EP n) _ rfl (show 0 + 8 ≤ 16 by decide) (show 16 + 1 ≤ 32 by decide),
      fld_setFld_below _ (Reg.CAN_ERR_TEC n) (Reg.CAN_ERR_REC n) _ rfl (show 0 + 8 ≤ 8 by decide) (show 8 + 8 ≤ 32 by decide),
      fld_setFld_same _ _ _ (show 0 + 8 ≤ 32 by decide)]
    exact htec
  · rw [countersSet, putFlag, fld_setFld_below _ (Reg.CAN_ERR_REC n) (Reg.CAN_ERR_EP n) _ rfl (show 8 + 8 ≤ 16 by decide) (show 16 + 1 ≤ 32 by decide),
      fld_setFld_same _ _ _ (show 8 + 8 ≤ 32 by decide)]
    exact hrec
  · rw [countersSet, putFlag, fld_setFld_above _ (Reg.CAN_ERR_LEC n) (Reg.CAN_ERR_EP n) _ rfl (show 16 + 1 ≤ 17 by decide) (show 16 + 1 ≤ 32 by decide),
      fld_setFld_above _ (Reg.CAN_ERR_LEC n) (Reg.CAN_ERR_REC n) _ rfl (show 8 + 8 ≤ 17 by decide) (show 8 + 8 ≤ 32 by decide),
      fld_setFld_above _ (Reg.CAN_ERR_LEC n) (Reg.CAN_ERR_TEC n) _ rfl (show 0 + 8 ≤ 17 by decide) (show 0 + 8 ≤ 32 by decide)]

theorem leaves_countersSet : Leaves (· = Reg.CAN_ERR n) d (countersSet d n tec rec) := by
  refine (leaves_putFlag (p := (· = Reg.CAN_ERR n)) _ _ (f := Reg.CAN_ERR_EP n) rfl _).2 ?_
  refine (leaves_setFld (p := (· = Reg.CAN_ERR n)) _ _ (f := Reg.CAN_ERR_REC n) rfl _).2 ?_
  exact (leaves_setFld (p := (· = Reg.CAN_ERR n)) _ _ (f := Reg.CAN_ERR_TEC n) rfl _).2 (.refl _ _)

theorem canCounters_frame : Leaves (canErrRegs n) d (canCounters d n tec rec) ∧ Keeps [.regs] d (canCounters d n tec rec) := by
  have hl : Leaves (canErrRegs n) d (countersSet d n tec rec) := (leaves_countersSet d n tec rec).mono fun _ h => .inl h
  have hk : Keeps [.regs] d (countersSet d n tec rec) := by simp [countersSet]
  rw [canCounters_eq]
  split
  · exact ⟨(leaves_setFlag (p := canErrRegs n) _ _ (f := Reg.CAN_STAT_EPASS n) (.inr rfl)).2 hl, (keeps_setFlag _ _ (by simp) _).2 hk⟩
  · exact ⟨hl, hk⟩

/-- What the counters are after they were set. -/
theorem canCounters_spec : fld (canCounters d n tec rec) (Reg.CAN_ERR_TEC n) = min tec 255 ∧
    fld (canCounters d n tec rec) (Reg.CAN_ERR_REC n) = min rec 255 ∧
    flag (canCounters d n tec rec) (Reg.CAN_ERR_EP n) = (decide (127 < tec) || decide (127 < rec)) ∧
    fld (canCounters d n tec rec) (Reg.CAN_ERR_LEC n) = fld d (Reg.CAN_ERR_LEC n) ∧
    canState (canCounters d n tec rec) n = canState d n := by
  obtain ⟨htec, hrec, hep, hlec⟩ := countersSet_spec d n tec rec
  have hstate : canState (countersSet d n tec rec) n = canState d n :=
    fld_of_leaves (leaves_countersSet d n tec rec) _ (canErr_ne_stat n n).symm
  rw [canCounters_eq]
  split
  · have hother : ∀ f : Fld, f.off = Reg.CAN_ERR n → fld (setFlag (countersSet d n tec rec) (Reg.CAN_STAT_EPASS n)) f =
        fld (countersSet d n tec rec) f := fun f hf => by
      rw [setFlag, fld_setFld_ne _ _ (Reg.CAN_STAT_EPASS n) _ (hf ▸ canErr_ne_stat n n)]
    refine ⟨(hother _ rfl).trans htec, (hother _ rfl).trans hrec, (congrArg (· == 1) (hother _ rfl)).trans hep, (hother _ rfl).trans hlec, ?_⟩
    rw [canState, setFlag, fld_setFld_below _ (Reg.CAN_STAT_STATE n) (Reg.CAN_STAT_EPASS n) _ rfl (show 0 + 3 ≤ 7 by decide) (show 7 + 1 ≤ 32 by decide)]
    exact hstate
  · exact ⟨htec, hrec, hep, hlec, hstate⟩

theorem canH_canCounters (m : Nat) : canH (canCounters d n tec rec) m = canH d m :=
  canH_of_keeps (canCounters_frame d n tec rec).2 (by simp) m

end Counters

/-! The code of an error. -/

/-- LEC takes the code of an error that has one. -/
def lecSet (d : Die) (n code : Nat) : Die := if code = 0 then d else setFld d (Reg.CAN_ERR_LEC n) code

section Lec

variable (d : Die) (n code : Nat)

theorem lecSet_frame : Leaves (· = Reg.CAN_ERR n) d (lecSet d n code) ∧ Keeps [.regs] d (lecSet d n code) := by
  unfold lecSet
  split
  · exact ⟨.refl _ _, .refl _ _⟩
  · exact ⟨(leaves_setFld (p := (· = Reg.CAN_ERR n)) _ _ (f := Reg.CAN_ERR_LEC n) rfl _).2 (.refl _ _), by simp⟩

theorem lecSet_lec (hcode : code < 8) (h : code ≠ 0) : fld (lecSet d n code) (Reg.CAN_ERR_LEC n) = code := by
  rw [lecSet, if_neg h, fld_setFld_same _ _ _ (show 17 + 3 ≤ 32 by decide)]
  exact Nat.mod_eq_of_lt hcode

theorem lecSet_below {f : Fld} (hoff : f.off = Reg.CAN_ERR n) (hlo : f.lo + f.w ≤ 17) : fld (lecSet d n code) f = fld d f := by
  unfold lecSet
  split
  · rfl
  · exact fld_setFld_below _ f (Reg.CAN_ERR_LEC n) _ hoff hlo (show 17 + 3 ≤ 32 by decide)

theorem lecSet_spec : fld (lecSet d n code) (Reg.CAN_ERR_TEC n) = fld d (Reg.CAN_ERR_TEC n) ∧
    fld (lecSet d n code) (Reg.CAN_ERR_REC n) = fld d (Reg.CAN_ERR_REC n) ∧
    flag (lecSet d n code) (Reg.CAN_ERR_EP n) = flag d (Reg.CAN_ERR_EP n) ∧
    canState (lecSet d n code) n = canState d n ∧ ∀ m, canH (lecSet d n code) m = canH d m :=
  ⟨lecSet_below d n code rfl (show 0 + 8 ≤ 17 by decide), lecSet_below d n code rfl (show 8 + 8 ≤ 17 by decide),
    congrArg (· == 1) (lecSet_below d n code rfl (show 16 + 1 ≤ 17 by decide)),
    fld_of_leaves (lecSet_frame d n code).1 _ (canErr_ne_stat n n).symm, canH_of_keeps (lecSet_frame d n code).2 (by simp)⟩

end Lec

theorem canError_overload (d : Die) (n code : Nat) (tx : Bool) :
    canError d n code tx .overload = if canState d n = 2 then canSend d n .overloadFlag else d := if_pos rfl

theorem canError_restricted {d : Die} {n : Nat} (hst : canState d n ≠ 2) (code : Nat) (tx : Bool) {what : CanErr} (hw : what ≠ .overload) :
    canError d n code tx what = updCan (lecSet d n code) n fun h => { h with wait := true } := by
  have hst' : canState (lecSet d n code) n ≠ 2 := by rwa [(lecSet_spec d n code).2.2.2.1]
  exact (if_neg hw).trans (if_neg hst')

theorem canError_active {d : Die} {n : Nat} (hst : canState d n = 2) (code : Nat) (tx : Bool) {what : CanErr} (hw : what ≠ .overload) :
    canError d n code tx what = canActiveError (lecSet d n code) n tx what := by
  have hst' : canState (lecSet d n code) n = 2 := by rwa [(lecSet_spec d n code).2.2.2.1]
  exact (if_neg hw).trans (if_pos hst')

/-! An error in ACTIVE. -/

/-- What the controller sends at an error. -/
def errorSent (d : Die) (n : Nat) (what : CanErr) : Die :=
  if what = .inFlag then d else canSend d n (.errorFlag (flag d (Reg.CAN_ERR_EP n)))

theorem errorSent_frame (d : Die) (n : Nat) (what : CanErr) : (∀ o, getReg (errorSent d n what) o = getReg d o) ∧
    Keeps [.can] d (errorSent d n what) := by
  unfold errorSent
  split
  · exact ⟨fun _ => rfl, .refl _ _⟩
  · exact ⟨fun _ => rfl, by simp [canSend]⟩

/-- The hidden state of a controller that met an error. -/
def afterError (d : Die) (n : Nat) (what : CanErr) : CanHid :=
  if what = .inFlag then canH d n else { canH d n with out := some (.errorFlag (flag d (Reg.CAN_ERR_EP n))) }

theorem canH_errorSent (d : Die) {n : Nat} (hn : n < 4) (what : CanErr) : canH (errorSent d n what) n = afterError d n what ∧
    ∀ m, m ≠ n → canH (errorSent d n what) m = canH d m := by
  unfold errorSent afterError
  split
  · exact ⟨rfl, fun _ _ => rfl⟩
  · exact ⟨canH_updCan_same _ _ _ hn, fun m hm => canH_updCan_ne _ _ hm⟩

/-- The counters after an error in ACTIVE. -/
def errorCounted (d : Die) (n : Nat) (tx : Bool) (what : CanErr) : Die :=
  canCounters (errorSent d n what) n (fld d (Reg.CAN_ERR_TEC n) + (canSteps tx what).1) (fld d (Reg.CAN_ERR_REC n) + (canSteps tx what).2)

theorem canActiveError_eq (d : Die) (n : Nat) (tx : Bool) (what : CanErr) : canActiveError d n tx what =
    if 255 < fld d (Reg.CAN_ERR_TEC n) + (canSteps tx what).1 then canBusOff (errorCounted d n tx what) n
    else errorCounted d n tx what := by
  have h : ∀ f, fld (errorSent d n what) f = fld d f := fun f => by rw [fld, (errorSent_frame d n what).1, fld]
  rw [errorCounted, ← h (Reg.CAN_ERR_TEC n), ← h (Reg.CAN_ERR_REC n)]
  rfl

theorem errorCounted_frame (d : Die) (n : Nat) (tx : Bool) (what : CanErr) : Leaves (canErrRegs n) d (errorCounted d n tx what) ∧
    Keeps [.regs, .can] d (errorCounted d n tx what) := by
  obtain ⟨hl, hk⟩ := canCounters_frame (errorSent d n what) n (fld d (Reg.CAN_ERR_TEC n) + (canSteps tx what).1)
    (fld d (Reg.CAN_ERR_REC n) + (canSteps tx what).2)
  obtain ⟨hl', hk'⟩ := errorSent_frame d n what
  exact ⟨fun o ho => (hl o ho).trans (hl' o), (hk'.mono (by simp)).trans (hk.mono (by simp))⟩

/-- An error in ACTIVE that does not end in BUSOFF (R320). -/
theorem errorCounted_spec (d : Die) {n : Nat} (hn : n < 4) (tx : Bool) (what : CanErr) :
    fld (errorCounted d n tx what) (Reg.CAN_ERR_TEC n) = min (fld d (Reg.CAN_ERR_TEC n) + (canSteps tx what).1) 255 ∧
    fld (errorCounted d n tx what) (Reg.CAN_ERR_REC n) = min (fld d (Reg.CAN_ERR_REC n) + (canSteps tx what).2) 255 ∧
    flag (errorCounted d n tx what) (Reg.CAN_ERR_EP n) = (decide (127 < fld d (Reg.CAN_ERR_TEC n) + (canSteps tx what).1) ||
      decide (127 < fld d (Reg.CAN_ERR_REC n) + (canSteps tx what).2)) ∧
    fld (errorCounted d n tx what) (Reg.CAN_ERR_LEC n) = fld d (Reg.CAN_ERR_LEC n) ∧
    canState (errorCounted d n tx what) n = canState d n ∧ canH (errorCounted d n tx what) n = afterError d n what ∧
    ∀ m, m ≠ n → canH (errorCounted d n tx what) m = canH d m := by
  obtain ⟨htec, hrec, hep, hlec, hst⟩ := canCounters_spec (errorSent d n what) n (fld d (Reg.CAN_ERR_TEC n) + (canSteps tx what).1)
    (fld d (Reg.CAN_ERR_REC n) + (canSteps tx what).2)
  have h : ∀ f, fld (errorSent d n what) f = fld d f := fun f => by rw [fld, (errorSent_frame d n what).1, fld]
  obtain ⟨hown, hother⟩ := canH_errorSent d hn what
  exact ⟨htec, hrec, hep, hlec.trans (h _), hst.trans (h _), (canH_canCounters ..).trans hown, fun m hm => (canH_canCounters ..).trans (hother m hm)⟩

/-! BUSOFF. -/

/-- The controller off the bus, before the entry of the Logbook. -/
def offBus (d : Die) (n : Nat) : Die :=
  incReg (setFlag (updCan (canSetState (canEndAll d n 3) n 4) n fun h =>
    { h with modeReq := none, offered := none, out := none, wait := false }) (Reg.CAN_STAT_BOFF n)) (Reg.CAN_CNT_BUSOFF n)

theorem canBusOff_eq (d : Die) (n : Nat) :
    canBusOff d n = logEvt (offBus d n) 7 1 2 n (getReg (offBus d n) (Reg.CAN_ERR n)).toNat 0 := rfl

/-- The registers that BUSOFF changes. -/
def busOffRegs (n o : Nat) : Prop :=
  o = Reg.TXB_CTL n 0 ∨ o = Reg.TXB_CTL n 1 ∨ o = Reg.TXB_CTL n 2 ∨ o = Reg.CAN_STAT n ∨ o = Reg.CAN_CNT_BUSOFF n

theorem leaves_canEndAll (d : Die) (n outcome : Nat) :
    Leaves (fun o => (∃ b, b < 3 ∧ o = Reg.TXB_CTL n b) ∨ o = Reg.CAN_STAT n) d (canEndAll d n outcome) := by
  rw [canEndAll_eq]
  refine Leaves.foldl (fun c b hb => ?_) d
  exact (leaves_endRequest c n b outcome).mono fun o ho => ho.imp (fun h => ⟨b, (mem_upto ..).1 hb, h⟩) id

theorem getReg_logEvt_can (d : Die) {o : Nat} (ho : 0x11000 ≤ o) (src code sev p0 p1 p2 : Nat) :
    getReg (logEvt d src code sev p0 p1 p2) o = getReg d o := by
  have hlost : Reg.LOG_CNT_LOST < 0x11000 := by decide
  have hstat : Reg.LOG_STAT < 0x11000 := by decide
  exact (leaves_logEvt (p := (· < 0x11000)) d d hlost hstat src code sev p0 p1 p2).2 (.refl _ _) o (by omega)

section BusOff

variable (d : Die) {n : Nat}

theorem leaves_canBusOff (n : Nat) : Leaves (fun o => o < 0x11000 ∨ (∃ b, b < 3 ∧ o = Reg.TXB_CTL n b) ∨ o = Reg.CAN_STAT n ∨
    o = Reg.CAN_CNT_BUSOFF n) d (canBusOff d n) := by
  have hstat : Reg.LOG_CNT_LOST < 0x11000 ∧ Reg.LOG_STAT < 0x11000 := by decide
  rw [canBusOff_eq, leaves_logEvt _ _ (.inl hstat.1) (.inl hstat.2), offBus, leaves_incReg _ _ (.inr (.inr (.inr rfl))),
    leaves_setFlag _ _ (f := Reg.CAN_STAT_BOFF n) (.inr (.inr (.inl rfl))), leaves_updCan,
    canSetState, leaves_setFld _ _ (f := Reg.CAN_STAT_STATE n) (.inr (.inr (.inl rfl)))]
  exact (leaves_canEndAll d n 3).mono fun o ho => .inr (ho.imp id .inl)

theorem keeps_canBusOff (n : Nat) : Keeps [.regs, .can, .lgb] d (canBusOff d n) := by
  rw [canBusOff_eq, keeps_logEvt _ _ (by simp) (by simp), offBus, keeps_incReg _ _ (by simp), keeps_setFlag _ _ (by simp),
    keeps_updCan _ _ (by simp), canSetState, keeps_setFld _ _ (by simp)]
  exact (keeps_canEndAll d n 3).mono (by simp)

theorem canCnt_ne (n : Nat) : Reg.CAN_CNT_BUSOFF n ≠ Reg.CAN_STAT n ∧ ∀ b m, Reg.CAN_CNT_BUSOFF n ≠ Reg.TXB_CTL m b := by
  refine ⟨?_, fun b m => ?_⟩
  · simp only [Reg.CAN_CNT_BUSOFF, Reg.CAN_STAT]
    omega
  · simp only [Reg.CAN_CNT_BUSOFF, Reg.TXB_CTL]
    omega

/-- Entry into BUSOFF (R320). -/
theorem canBusOff_spec (hn : n < 4) : canState (canBusOff d n) n = 4 ∧ flag (canBusOff d n) (Reg.CAN_STAT_BOFF n) = true ∧
    getReg (canBusOff d n) (Reg.CAN_CNT_BUSOFF n) = BitVec.ofNat 32 (satInc 32 (getReg d (Reg.CAN_CNT_BUSOFF n)).toNat) ∧
    (∀ b, b < 3 → flag d (Reg.TXB_CTL_REQ n b) = true → flag (canBusOff d n) (Reg.TXB_CTL_REQ n b) = false ∧
      fld (canBusOff d n) (Reg.TXB_CTL_OUTCOME n b) = 3) ∧ (canH (canBusOff d n) n).offered = none := by
  obtain ⟨hcs, hct⟩ := canCnt_ne n
  have hlog : ∀ o, 0x11000 ≤ o → getReg (canBusOff d n) o = getReg (offBus d n) o := fun o ho => getReg_logEvt_can _ ho ..
  have hfld : ∀ f : Fld, 0x11000 ≤ f.off → f.off ≠ Reg.CAN_CNT_BUSOFF n → fld (canBusOff d n) f =
      fld (setFlag (updCan (canSetState (canEndAll d n 3) n 4) n fun h =>
        { h with modeReq := none, offered := none, out := none, wait := false }) (Reg.CAN_STAT_BOFF n)) f := fun f hf hne => by
    rw [fld, hlog _ hf, offBus, getReg_incReg_ne _ _ hne, fld]
  have hstat : 0x11000 ≤ Reg.CAN_STAT n := by simp only [Reg.CAN_STAT]; omega
  have htxb : ∀ b, 0x11000 ≤ Reg.TXB_CTL n b := fun b => by simp only [Reg.TXB_CTL]; omega
  refine ⟨?_, ?_, ?_, fun b hb hreq => ?_, ?_⟩
  · refine (hfld (Reg.CAN_STAT_STATE n) hstat hcs.symm).trans ?_
    rw [setFlag, fld_setFld_below _ (Reg.CAN_STAT_STATE n) (Reg.CAN_STAT_BOFF n) _ rfl (show 0 + 3 ≤ 6 by decide) (show 6 + 1 ≤ 32 by decide),
      fld_updCan]
    exact canState_canSetState _ n 4
  · rw [flag, hfld (Reg.CAN_STAT_BOFF n) hstat hcs.symm]
    exact flag_setFlag_same _ _ (show 6 + 1 ≤ 32 by decide) rfl
  · have hlo : 0x11000 ≤ Reg.CAN_CNT_BUSOFF n := by simp only [Reg.CAN_CNT_BUSOFF]; omega
    have hend : getReg (canEndAll d n 3) (Reg.CAN_CNT_BUSOFF n) = getReg d (Reg.CAN_CNT_BUSOFF n) :=
      leaves_canEndAll d n 3 _ (not_or.2 ⟨fun ⟨b, _, h⟩ => hct b n h, hcs⟩)
    have hset : getReg (canSetState (canEndAll d n 3) n 4) (Reg.CAN_CNT_BUSOFF n) = getReg (canEndAll d n 3) (Reg.CAN_CNT_BUSOFF n) :=
      getReg_setFld_ne _ (Reg.CAN_STAT_STATE n) _ hcs
    rw [hlog _ hlo, offBus, getReg_incReg_same, getReg_setFlag_ne _ (Reg.CAN_STAT_BOFF n) hcs, getReg_updCan, hset, hend]
  · obtain ⟨hr, ho⟩ := canEndAll_spec d hb (outcome := 3) (by decide) hreq
    have hend : ∀ f : Fld, f.off = Reg.TXB_CTL n b → fld (canBusOff d n) f = fld (canEndAll d n 3) f := fun f hf => by
      rw [hfld f (hf ▸ htxb b) (hf ▸ (hct b n).symm), setFlag, fld_setFld_ne _ _ (Reg.CAN_STAT_BOFF n) _ (hf ▸ txb_ne_stat n b n), fld_updCan,
        canSetState, fld_setFld_ne _ _ (Reg.CAN_STAT_STATE n) _ (hf ▸ txb_ne_stat n b n)]
    exact ⟨(congrArg (· == 1) (hend _ rfl)).trans hr, (hend _ rfl).trans ho⟩
  · have hcan : (canBusOff d n).can = (updCan (canSetState (canEndAll d n 3) n 4) n fun h =>
        { h with modeReq := none, offered := none, out := none, wait := false }).can := by
      have hk : Keeps [.regs, .lgb] (offBus d n) (canBusOff d n) := by
        rw [canBusOff_eq, keeps_logEvt _ _ (by simp) (by simp)]
        exact .refl _ _
      exact hk .can (by simp)
    rw [canH, hcan, ← canH, canH_updCan_same _ _ _ hn]

end BusOff

/-! The states (R316, R320, R321). -/

section States

variable {s : State} {n : Fin 4}

theorem canZero_frame (d : Die) (n : Nat) : Leaves (· = Reg.CAN_ERR n) d (canZero d n) ∧ Keeps [.regs] d (canZero d n) := by
  refine ⟨?_, by simp [canZero]⟩
  refine (leaves_setFld (p := (· = Reg.CAN_ERR n)) _ _ (f := Reg.CAN_ERR_EP n) rfl _).2 ?_
  refine (leaves_setFld (p := (· = Reg.CAN_ERR n)) _ _ (f := Reg.CAN_ERR_REC n) rfl _).2 ?_
  exact (leaves_setFld (p := (· = Reg.CAN_ERR n)) _ _ (f := Reg.CAN_ERR_TEC n) rfl _).2 (.refl _ _)

theorem canZero_spec (d : Die) (n : Nat) : fld (canZero d n) (Reg.CAN_ERR_TEC n) = 0 ∧ fld (canZero d n) (Reg.CAN_ERR_REC n) = 0 ∧
    canState (canZero d n) n = canState d n := by
  refine ⟨?_, ?_, fld_of_leaves (canZero_frame d n).1 _ (canErr_ne_stat n n).symm⟩
  · rw [canZero, fld_setFld_below _ (Reg.CAN_ERR_TEC n) (Reg.CAN_ERR_EP n) _ rfl (show 0 + 8 ≤ 16 by decide) (show 16 + 1 ≤ 32 by decide),
      fld_setFld_below _ (Reg.CAN_ERR_TEC n) (Reg.CAN_ERR_REC n) _ rfl (show 0 + 8 ≤ 8 by decide) (show 8 + 8 ≤ 32 by decide),
      fld_setFld_same _ _ _ (show 0 + 8 ≤ 32 by decide)]
    rfl
  · rw [canZero, fld_setFld_below _ (Reg.CAN_ERR_REC n) (Reg.CAN_ERR_EP n) _ rfl (show 8 + 8 ≤ 16 by decide) (show 16 + 1 ≤ 32 by decide),
      fld_setFld_same _ _ _ (show 8 + 8 ≤ 32 by decide)]
    rfl

theorem leaves_canSetState (d : Die) (n v : Nat) : Leaves (· = Reg.CAN_STAT n) d (canSetState d n v) :=
  (leaves_setFld (p := (· = Reg.CAN_STAT n)) _ _ (f := Reg.CAN_STAT_STATE n) rfl _).2 (.refl _ _)

theorem ends_canSyncDone_first (hst : canState s.die n.val = 1) (htarget : (canH s.die n.val).target < 8) :
    ends (.canSyncDone n) s fun t => canState t.die n.val = (canH s.die n.val).target ∧
      fld t.die (Reg.CAN_ERR_TEC n.val) = 0 ∧ fld t.die (Reg.CAN_ERR_REC n.val) = 0 ∧
      regsBut (fun o => o = Reg.CAN_STAT n.val ∨ o = Reg.CAN_ERR n.val) s t ∧ keepsBut [.regs] s t := by
  have heq : canSyncDone n.val (found s) = canZero (canSetState (found s) n.val (canH s.die n.val).target) n.val := if_pos hst
  refine ends_of_onDie (f := canSyncDone n.val) rfl ?_
  rw [heq]
  obtain ⟨htec, hrec, hstate⟩ := canZero_spec (canSetState (found s) n.val (canH s.die n.val).target) n.val
  obtain ⟨hl, hk⟩ := canZero_frame (canSetState (found s) n.val (canH s.die n.val).target) n.val
  refine ⟨?_, (fld_irqSettle ..).trans htec, (fld_irqSettle ..).trans hrec, regsBut_command ?_, keepsBut_command ?_⟩
  · rw [canState_irqSettle, hstate, canState_canSetState, Nat.mod_eq_of_lt htarget]
  · exact ((leaves_canSetState _ _ _).mono fun _ h => .inl h).trans (hl.mono fun _ h => .inr h)
  · exact ((keeps_setFld _ _ (by simp) _ _).2 (.refl _ _)).trans hk

theorem ends_canSyncDone_later (hst : canState s.die n.val ≠ 1) : ends (.canSyncDone n) s fun t =>
    (canH t.die n.val).wait = false ∧ canH t.die n.val = { canH s.die n.val with wait := false } ∧ keepsBut [.can] s t := by
  have heq : canSyncDone n.val (found s) = updCan (found s) n.val fun h => { h with wait := false } := if_neg hst
  have hown : canH (irqSettle s.die (updCan (found s) n.val fun h => { h with wait := false })) n.val =
      { canH s.die n.val with wait := false } := (canH_irqSettle ..).trans (canH_updCan_same _ _ _ n.isLt)
  refine ends_of_onDie (f := canSyncDone n.val) rfl ?_
  rw [heq]
  exact ⟨congrArg CanHid.wait hown, hown, keepsBut_command (by simp)⟩

theorem ends_canRecoveryDone (hst : canState s.die n.val = 5) : ends (.canRecoveryDone n) s fun t =>
    canState t.die n.val = 2 ∧ fld t.die (Reg.CAN_ERR_TEC n.val) = 0 ∧ fld t.die (Reg.CAN_ERR_REC n.val) = 0 ∧
    flag t.die (Reg.CAN_STAT_BOFF n.val) = flag s.die (Reg.CAN_STAT_BOFF n.val) ∧ keepsBut [.regs] s t := by
  have heq : canRecoveryDone n.val (found s) = canZero (canSetState (found s) n.val 2) n.val := if_pos hst
  refine ends_of_onDie (f := canRecoveryDone n.val) rfl ?_
  rw [heq]
  obtain ⟨htec, hrec, hstate⟩ := canZero_spec (canSetState (found s) n.val 2) n.val
  obtain ⟨hl, hk⟩ := canZero_frame (canSetState (found s) n.val 2) n.val
  refine ⟨?_, (fld_irqSettle ..).trans htec, (fld_irqSettle ..).trans hrec, ?_, keepsBut_command ?_⟩
  · rw [canState_irqSettle, hstate, canState_canSetState]
  · rw [flag_irqSettle, flag_of_leaves hl (Reg.CAN_STAT_BOFF n.val) (canErr_ne_stat _ _).symm]
    exact congrArg (· == 1) (fld_setFld_above _ (Reg.CAN_STAT_BOFF n.val) (Reg.CAN_STAT_STATE n.val) _ rfl (show 0 + 3 ≤ 6 by decide)
      (show 0 + 3 ≤ 32 by decide))
  · exact ((keeps_setFld _ _ (by simp) _ _).2 (.refl _ _)).trans hk

theorem ends_canModeChange {m : Nat} (hm : m < 8) (hreq : (canH s.die n.val).modeReq = some m) (hoff : (canH s.die n.val).offered = none)
    (hst : canState s.die n.val = 2 ∨ canState s.die n.val = 3) :
    ends (.canModeChangeAtIdle n) s fun t => canState t.die n.val = m ∧ (canH t.die n.val).modeReq = none ∧
      (canH t.die n.val).wait = false ∧ regsBut (· = Reg.CAN_STAT n.val) s t ∧ keepsBut [.regs, .can] s t := by
  have hidle : canH (updCan (found s) n.val fun h => { h with wait := false }) n.val = { canH s.die n.val with wait := false } :=
    canH_updCan_same _ _ _ n.isLt
  have heq : canModeChangeAtIdle n.val (found s) =
      updCan (canSetState (updCan (found s) n.val fun h => { h with wait := false }) n.val m) n.val fun h => { h with modeReq := none } := by
    unfold canModeChangeAtIdle
    extract_lets e
    have he : canH e n.val = { canH s.die n.val with wait := false } := hidle
    split
    · next m' h =>
      rw [he] at h
      obtain rfl : m = m' := Option.some.inj (hreq.symm.trans h)
      exact if_pos ⟨by rw [he]; exact hoff, hst⟩
    · next h =>
      rw [he] at h
      exact absurd (hreq.symm.trans h) (by simp)
  refine ends_of_onDie (f := canModeChangeAtIdle n.val) rfl ?_
  rw [heq]
  have hown : canH (updCan (canSetState (updCan (found s) n.val fun h => { h with wait := false }) n.val m) n.val fun h =>
      { h with modeReq := none }) n.val = { canH s.die n.val with wait := false, modeReq := none } := by
    rw [canH_updCan_same _ _ _ n.isLt, canH_canSetState, hidle]
  refine ⟨?_, ?_, ?_, regsBut_command ?_, keepsBut_command ?_⟩
  · rw [canState_irqSettle, canState_updCan, canState_canSetState, Nat.mod_eq_of_lt hm]
  · rw [canH_irqSettle, hown]
  · rw [canH_irqSettle, hown]
  · exact (leaves_updCan _ _ _ _).2 ((leaves_canSetState _ _ _).iff_of.2 ((leaves_updCan _ _ _ _).2 (.refl _ _)))
  · exact (keeps_updCan _ _ (by simp) _ _).2 ((keeps_setFld _ _ (by simp) _ _).2 ((keeps_updCan _ _ (by simp) _ _).2 (.refl _ _)))

theorem canBusError_heard {d : Die} {n : Nat} (h : canHears d n = true) (code : Nat) (tx : Bool) (what : CanErr) :
    canBusError n code tx what d = canError d n code tx what := if_pos h

theorem ends_busError_restricted {code : Fin 7} {tx : Bool} {what : CanErr} (hear : canHears s.die n.val = true)
    (hst : canState s.die n.val = 3) (hw : what ≠ .overload) : ends (.canBusError n code tx what) s fun t =>
      canState t.die n.val = 3 ∧ (canH t.die n.val).wait = true ∧
      (canH t.die n.val).out = (canH s.die n.val).out ∧
      fld t.die (Reg.CAN_ERR_TEC n.val) = fld s.die (Reg.CAN_ERR_TEC n.val) ∧
      fld t.die (Reg.CAN_ERR_REC n.val) = fld s.die (Reg.CAN_ERR_REC n.val) ∧
      (code.val ≠ 0 → fld t.die (Reg.CAN_ERR_LEC n.val) = code.val) ∧
      regsBut (· = Reg.CAN_ERR n.val) s t ∧ keepsBut [.regs, .can] s t := by
  have hst' : canState (found s) n.val ≠ 2 := fun h => absurd (hst.symm.trans h) (by decide)
  obtain ⟨htec, hrec, _, hstate, hcan⟩ := lecSet_spec (found s) n.val code.val
  obtain ⟨hl, hk⟩ := lecSet_frame (found s) n.val code.val
  have hlec := lecSet_lec (found s) n.val code.val (by omega)
  refine ends_of_onDie (f := canBusError n.val code.val tx what) rfl ?_
  rw [canBusError_heard (show canHears (found s) n.val = true from hear), canError_restricted hst' _ _ hw]
  have hown : canH (updCan (lecSet (found s) n.val code.val) n.val fun h => { h with wait := true }) n.val =
      { canH s.die n.val with wait := true } := by
    rw [canH_updCan_same _ _ _ n.isLt, hcan]
    rfl
  refine ⟨?_, ?_, ?_, ?_, ?_, fun hcode => ?_, regsBut_command ((leaves_updCan _ _ _ _).2 hl),
    keepsBut_command ((keeps_updCan _ _ (by simp) _ _).2 (hk.mono (by simp)))⟩
  · rw [canState_irqSettle, canState_updCan, hstate]
    exact hst
  · rw [canH_irqSettle, hown]
  · rw [canH_irqSettle, hown]
  · rw [fld_irqSettle, fld_updCan, htec]
    rfl
  · rw [fld_irqSettle, fld_updCan, hrec]
    rfl
  · rw [fld_irqSettle, fld_updCan, hlec hcode]

theorem ends_overload {code : Fin 7} {tx : Bool} (hear : canHears s.die n.val = true) :
    ends (.canBusError n code tx .overload) s fun t =>
      (canState s.die n.val = 2 → (canH t.die n.val).out = some .overloadFlag) ∧
      (canState s.die n.val = 3 → (canH t.die n.val).out = (canH s.die n.val).out) ∧ keepsBut [.can] s t := by
  have heq : canBusError n.val code.val tx .overload (found s) =
      if canState s.die n.val = 2 then canSend (found s) n.val .overloadFlag else found s := if_pos hear
  refine ends_of_onDie (f := canBusError n.val code.val tx .overload) rfl ?_
  rw [heq]
  by_cases hst : canState s.die n.val = 2
  · rw [if_pos hst]
    refine ⟨fun _ => ?_, fun h => absurd (hst.symm.trans h) (by decide), keepsBut_command (by simp [canSend])⟩
    rw [canH_irqSettle, canSend, canH_updCan_same _ _ _ n.isLt]
  · rw [if_neg hst]
    refine ⟨fun h => absurd h hst, fun _ => ?_, keepsBut_command (.refl _ _)⟩
    rw [canH_irqSettle]
    rfl

theorem steps_transmit {tx : Bool} {what : CanErr} (hw : what ≠ .overload) :
    (canSteps tx what).1 = (if tx = true ∧ what ≠ .exempt then 8 else 0) ∧
    (canSteps tx what).2 = if tx then 0 else if what = .inFlag then 8 else 1 := by
  cases what <;> cases tx <;> first | exact ⟨rfl, rfl⟩ | exact absurd rfl hw

theorem txb_not_errRegs (n b m : Nat) : ¬ canErrRegs n (Reg.TXB_CTL m b) := by
  simp only [canErrRegs, Reg.TXB_CTL, Reg.CAN_ERR, Reg.CAN_STAT]
  omega

/-- What an error in ACTIVE that leaves the controller on the bus makes of it (R320). -/
theorem errorCounted_lec_spec (d : Die) {n code : Nat} (hn : n < 4) (hcode : code < 8) (tx : Bool) (what : CanErr) :
    let e := errorCounted (lecSet d n code) n tx what
    fld e (Reg.CAN_ERR_TEC n) = min (fld d (Reg.CAN_ERR_TEC n) + (canSteps tx what).1) 255 ∧
    fld e (Reg.CAN_ERR_REC n) = min (fld d (Reg.CAN_ERR_REC n) + (canSteps tx what).2) 255 ∧
    flag e (Reg.CAN_ERR_EP n) = (decide (127 < fld d (Reg.CAN_ERR_TEC n) + (canSteps tx what).1) ||
      decide (127 < fld d (Reg.CAN_ERR_REC n) + (canSteps tx what).2)) ∧
    (code ≠ 0 → fld e (Reg.CAN_ERR_LEC n) = code) ∧ canState e n = canState d n ∧ canH e n = afterError d n what ∧
    (∀ m, m ≠ n → canH e m = canH d m) ∧ Leaves (canErrRegs n) d e ∧ Keeps [.regs, .can] d e := by
  extract_lets e
  obtain ⟨htec, hrec, hep, hlec, hst, hown, hother⟩ := errorCounted_spec (lecSet d n code) hn tx what
  obtain ⟨htec', hrec', hep', hst', hcan⟩ := lecSet_spec d n code
  obtain ⟨hl, hk⟩ := errorCounted_frame (lecSet d n code) n tx what
  obtain ⟨hl', hk'⟩ := lecSet_frame d n code
  rw [htec'] at htec hep
  rw [hrec'] at hrec hep
  have hafter : afterError (lecSet d n code) n what = afterError d n what := by
    rw [afterError, hcan, hep', afterError]
  exact ⟨htec, hrec, hep, fun h => hlec.trans (lecSet_lec d n code hcode h), hst.trans hst', hown.trans hafter,
    fun m hm => (hother m hm).trans (hcan m), (hl'.mono fun _ h => .inl h).trans hl, (hk'.mono (by simp)).trans hk⟩

/-- An error in ACTIVE that takes the controller off the bus (R320). -/
theorem busOff_lec_spec (d : Die) {n code : Nat} (hn : n < 4) (tx : Bool) (what : CanErr) :
    let e := canBusOff (errorCounted (lecSet d n code) n tx what) n
    canState e n = 4 ∧ flag e (Reg.CAN_STAT_BOFF n) = true ∧
    getReg e (Reg.CAN_CNT_BUSOFF n) = BitVec.ofNat 32 (satInc 32 (getReg d (Reg.CAN_CNT_BUSOFF n)).toNat) ∧
    (∀ b, b < 3 → flag d (Reg.TXB_CTL_REQ n b) = true → flag e (Reg.TXB_CTL_REQ n b) = false ∧
      fld e (Reg.TXB_CTL_OUTCOME n b) = 3) ∧ (canH e n).offered = none ∧ getReg e (Reg.CAN_TDCR n) = getReg d (Reg.CAN_TDCR n) ∧
    Keeps [.regs, .can, .lgb] d e := by
  extract_lets e
  obtain ⟨hl, hk⟩ := errorCounted_frame (lecSet d n code) n tx what
  obtain ⟨hl', hk'⟩ := lecSet_frame d n code
  have hl0 : Leaves (canErrRegs n) d (errorCounted (lecSet d n code) n tx what) := (hl'.mono fun _ h => .inl h).trans hl
  have hk0 : Keeps [.regs, .can] d (errorCounted (lecSet d n code) n tx what) := (hk'.mono (by simp)).trans hk
  have hloff := leaves_canBusOff (errorCounted (lecSet d n code) n tx what) n
  have hkoff := keeps_canBusOff (errorCounted (lecSet d n code) n tx what) n
  obtain ⟨hst, hboff, hcnt, hreq, hoff⟩ := canBusOff_spec (errorCounted (lecSet d n code) n tx what) hn
  have hcnt0 : getReg (errorCounted (lecSet d n code) n tx what) (Reg.CAN_CNT_BUSOFF n) = getReg d (Reg.CAN_CNT_BUSOFF n) := hl0 _ (by
    simp only [canErrRegs, Reg.CAN_CNT_BUSOFF, Reg.CAN_ERR, Reg.CAN_STAT]
    omega)
  refine ⟨hst, hboff, hcnt.trans (by rw [hcnt0]), fun b hb h => hreq b hb ?_, hoff, ?_, (hk0.mono (by simp)).trans hkoff⟩
  · exact (flag_of_leaves hl0 (Reg.TXB_CTL_REQ n b) (txb_not_errRegs n b n)).trans h
  · refine (hloff _ ?_).trans (hl0 _ ?_)
    · rintro (h | ⟨b, _, h⟩ | h | h)
      all_goals
        simp only [Reg.CAN_TDCR, Reg.TXB_CTL, Reg.CAN_STAT, Reg.CAN_CNT_BUSOFF] at h
        omega
    · simp only [canErrRegs, Reg.CAN_TDCR, Reg.CAN_ERR, Reg.CAN_STAT]
      omega

theorem canBusError_active {d : Die} {n code : Nat} {tx : Bool} {what : CanErr} (hear : canHears d n = true)
    (hst : canState d n = 2) (hw : what ≠ .overload) : canBusError n code tx what d =
      if 255 < fld d (Reg.CAN_ERR_TEC n) + (canSteps tx what).1 then canBusOff (errorCounted (lecSet d n code) n tx what) n
      else errorCounted (lecSet d n code) n tx what := by
  rw [canBusError_heard hear, canError_active hst _ _ hw, canActiveError_eq, (lecSet_spec d n code).1]

theorem ends_busError_on {code : Fin 7} {tx : Bool} {what : CanErr} (hear : canHears s.die n.val = true)
    (hst : canState s.die n.val = 2) (hw : what ≠ .overload) {tec rec_ : Nat}
    (htec : tec = fld s.die (Reg.CAN_ERR_TEC n.val) + if tx = true ∧ what ≠ .exempt then 8 else 0)
    (hrec : rec_ = fld s.die (Reg.CAN_ERR_REC n.val) + if tx then 0 else if what = .inFlag then 8 else 1) (hle : tec ≤ 255) :
    ends (.canBusError n code tx what) s fun t => canState t.die n.val = 2 ∧
      fld t.die (Reg.CAN_ERR_TEC n.val) = tec ∧ fld t.die (Reg.CAN_ERR_REC n.val) = min rec_ 255 ∧
      (code.val ≠ 0 → fld t.die (Reg.CAN_ERR_LEC n.val) = code.val) ∧
      (flag t.die (Reg.CAN_ERR_EP n.val) = true ↔ 127 < tec ∨ 127 < rec_) ∧
      (what ≠ .inFlag → (canH t.die n.val).out = some (.errorFlag (flag s.die (Reg.CAN_ERR_EP n.val)))) ∧
      (∀ b, b < 3 → getReg t.die (Reg.TXB_CTL n.val b) = getReg s.die (Reg.TXB_CTL n.val b)) ∧
      keepsBut [.regs, .can] s t := by
  obtain ⟨h1, h2⟩ := steps_transmit (tx := tx) hw
  obtain ⟨htec', hrec', hep, hlec, hst', hown, _, hl, hk⟩ := errorCounted_lec_spec (found s) n.isLt (code := code.val) (by omega) tx what
  rw [h1] at htec' hep
  rw [h2] at hrec' hep
  have hT : fld (found s) (Reg.CAN_ERR_TEC n.val) + (if tx = true ∧ what ≠ .exempt then 8 else 0) = tec := htec.symm
  have hR : fld (found s) (Reg.CAN_ERR_REC n.val) + (if tx then 0 else if what = .inFlag then 8 else 1) = rec_ := hrec.symm
  rw [hT] at htec' hep
  rw [hR] at hrec' hep
  refine ends_of_onDie (f := canBusError n.val code.val tx what) rfl ?_
  rw [canBusError_active (show canHears (found s) n.val = true from hear) hst hw, h1, hT, if_neg (by omega)]
  refine ⟨(canState_irqSettle ..).trans (hst'.trans hst), (fld_irqSettle ..).trans (htec'.trans (by omega)), (fld_irqSettle ..).trans hrec',
    fun h => (fld_irqSettle ..).trans (hlec h), ?_, fun hin => ?_, fun b _ => (getReg_irqSettle ..).trans (hl _ (txb_not_errRegs _ _ _)),
    keepsBut_command hk⟩
  · rw [flag_irqSettle, hep, Bool.or_eq_true, decide_eq_true_eq, decide_eq_true_eq]
  · rw [canH_irqSettle, hown, afterError, if_neg hin]
    rfl

theorem ends_busError_off {code : Fin 7} {tx : Bool} {what : CanErr} (hear : canHears s.die n.val = true)
    (hst : canState s.die n.val = 2) (hw : what ≠ .overload) {tec : Nat}
    (htec : tec = fld s.die (Reg.CAN_ERR_TEC n.val) + if tx = true ∧ what ≠ .exempt then 8 else 0) (hgt : 255 < tec) :
    ends (.canBusError n code tx what) s fun t => canState t.die n.val = 4 ∧
      flag t.die (Reg.CAN_STAT_BOFF n.val) = true ∧ getReg t.die (Reg.CAN_CNT_BUSOFF n.val) =
        BitVec.ofNat 32 (satInc 32 (getReg s.die (Reg.CAN_CNT_BUSOFF n.val)).toNat) ∧
      (∀ b, b < 3 → flag s.die (Reg.TXB_CTL_REQ n.val b) = true → flag t.die (Reg.TXB_CTL_REQ n.val b) = false ∧
        fld t.die (Reg.TXB_CTL_OUTCOME n.val b) = 3) ∧ keepsBut [.regs, .can, .lgb] s t := by
  obtain ⟨h1, _⟩ := steps_transmit (tx := tx) hw
  obtain ⟨hst', hboff, hcnt, hreq, _, _, hk⟩ := busOff_lec_spec (found s) n.isLt (code := code.val) tx what
  have hT : fld (found s) (Reg.CAN_ERR_TEC n.val) + (if tx = true ∧ what ≠ .exempt then 8 else 0) = tec := htec.symm
  refine ends_of_onDie (f := canBusError n.val code.val tx what) rfl ?_
  rw [canBusError_active (show canHears (found s) n.val = true from hear) hst hw, h1, hT, if_pos hgt]
  exact ⟨(canState_irqSettle ..).trans hst', (flag_irqSettle ..).trans hboff, (getReg_irqSettle ..).trans hcnt,
    fun b hb h => ⟨(flag_irqSettle ..).trans (hreq b hb h).1, (fld_irqSettle ..).trans (hreq b hb h).2⟩, keepsBut_command hk⟩

end States

/-- Settles O47: the states of a controller, with the counters of its errors and the way off the bus. -/
theorem canStates : Obligations.CanStates :=
  ⟨fun _ _ hst htarget => ends_canSyncDone_first hst htarget, fun _ _ hst => ends_canSyncDone_later hst,
    fun _ _ hst => ends_canRecoveryDone hst, fun _ _ _ hm hreq hoff hst => ends_canModeChange hm hreq hoff hst,
    fun _ _ _ _ _ hear hst hw => ends_busError_restricted hear hst hw, fun _ _ _ _ hear => ends_overload hear,
    fun _ _ _ _ _ hear hst hw => ⟨fun hle => ends_busError_on hear hst hw rfl rfl hle, fun hgt => ends_busError_off hear hst hw rfl hgt⟩⟩

end Sys2Proof.Machine
end

section
/-! PROOFS. Reception of a CAN controller (R315, R316, R321, R326, R327). -/

namespace Sys2Proof.Machine

open Sys2Proof

section Reception

variable {s : State} {n : Fin 4} {f : CanFrame} {tSof : QWord}

theorem canHears_cases {d : Die} {n : Nat} (h : canHears d n = true) : canState d n = 2 ∨ canState d n = 3 := by
  simp only [canHears, Bool.and_eq_true, Bool.or_eq_true, beq_iff_eq] at h
  exact h.1.2

theorem canHears_waiting {d : Die} {n : Nat} (h : (canH d n).wait = true) : canHears d n = false := by
  rw [canHears, h]
  exact Bool.and_false _

/-! Errors of a receiver. -/

/-- What a receiver makes of an error (R316, R321). -/
theorem canRxError_spec (d : Die) {n code : Nat} (hn : n < 4) (hcode : code < 8) (h0 : code ≠ 0) (hst : canState d n = 2 ∨ canState d n = 3) :
    let e := canRxError d n code
    fld e (Reg.CAN_ERR_LEC n) = code ∧ (canH e n).fifo = (canH d n).fifo ∧
    (canState d n = 2 → fld d (Reg.CAN_ERR_TEC n) ≤ 255 → fld e (Reg.CAN_ERR_REC n) = min (fld d (Reg.CAN_ERR_REC n) + 1) 255 ∧
      (canH e n).out = some (.errorFlag (flag d (Reg.CAN_ERR_EP n)))) ∧
    (canState d n = 3 → (canH e n).wait = true ∧ (canH e n).out = (canH d n).out) ∧
    Leaves (canErrRegs n) d e ∧ Keeps [.regs, .can] d e := by
  extract_lets e
  obtain hst2 | hst3 := hst
  · obtain ⟨htec, hrec, _, hlec, _, hown, _, hl, hk⟩ := errorCounted_lec_spec d hn hcode false .detected
    have hle : ¬ 255 < fld d (Reg.CAN_ERR_TEC n) + (canSteps false .detected).1 := by
      have : fld d (Reg.CAN_ERR_TEC n) < 256 := bitsOf_lt _ 0 8
      show ¬ 255 < fld d (Reg.CAN_ERR_TEC n) + 0
      omega
    have heq : e = errorCounted (lecSet d n code) n false .detected := by
      show canError d n code false .detected = _
      rw [canError_active hst2 _ _ (by decide), canActiveError_eq, (lecSet_spec d n code).1, if_neg hle]
    rw [heq]
    refine ⟨hlec h0, ?_, fun _ _ => ⟨hrec, ?_⟩, fun h => absurd (hst2.symm.trans h) (by decide), hl, hk⟩
    · rw [hown]
      rfl
    · rw [hown]
      rfl
  · have hne : canState d n ≠ 2 := fun h => absurd (hst3.symm.trans h) (by decide)
    have heq : e = updCan (lecSet d n code) n fun h => { h with wait := true } := canError_restricted hne code false (by decide)
    obtain ⟨hl, hk⟩ := lecSet_frame d n code
    have hown : canH e n = { canH d n with wait := true } := by
      rw [heq, canH_updCan_same _ _ _ hn, (lecSet_spec d n code).2.2.2.2]
    refine ⟨?_, by rw [hown], fun h => absurd h hne, fun _ => ⟨by rw [hown], by rw [hown]⟩, ?_, ?_⟩
    · rw [heq, fld_updCan, lecSet_lec d n code hcode h0]
    · rw [heq]
      exact (leaves_updCan _ _ _ _).2 (hl.mono fun _ h => .inl h)
    · rw [heq]
      exact (keeps_updCan _ _ (by simp) _ _).2 (hk.mono (by simp))

theorem tec_le (d : Die) (n : Nat) : fld d (Reg.CAN_ERR_TEC n) ≤ 255 := Nat.lt_succ_iff.1 (bitsOf_lt _ 0 8)

theorem rec_le (d : Die) (n : Nat) : fld d (Reg.CAN_ERR_REC n) ≤ 255 := Nat.lt_succ_iff.1 (bitsOf_lt _ 8 8)

/-- An FD frame where there are none is a form error (R316). -/
theorem ends_formError (hear : canHears s.die n.val = true) (hfdf : f.fdf = true) (hfdoe : flag s.die (Reg.CAN_CFG_FDOE n.val) = false) :
    ends (.canFrameReceived n f tSof) s fun t =>
      fld t.die (Reg.CAN_ERR_LEC n.val) = 2 ∧ (canH t.die n.val).fifo = (canH s.die n.val).fifo ∧
      (canState s.die n.val = 2 → fld t.die (Reg.CAN_ERR_REC n.val) = min (fld s.die (Reg.CAN_ERR_REC n.val) + 1) 255 ∧
        (canH t.die n.val).out = some (.errorFlag (flag s.die (Reg.CAN_ERR_EP n.val)))) ∧
      (canState s.die n.val = 3 → (canH t.die n.val).wait = true ∧ (canH t.die n.val).out = (canH s.die n.val).out) ∧
      regsBut (fun o => o = Reg.CAN_ERR n.val ∨ o = Reg.CAN_STAT n.val) s t ∧ keepsBut [.regs, .can] s t := by
  have hfdoe' : flag (found s) (Reg.CAN_CFG_FDOE n.val) = false := hfdoe
  have heq : canFrameReceived n.val f tSof.toNat (found s) = canRxError (found s) n.val 2 := by
    rw [canFrameReceived, if_neg (by simp [show canHears (found s) n.val = true from hear]), hfdf, hfdoe']
    exact if_pos rfl
  obtain ⟨hlec, hfifo, hact, hres, hl, hk⟩ := canRxError_spec (found s) n.isLt (code := 2) (by decide) (by decide)
    (canHears_cases (d := found s) hear)
  refine ends_of_onDie (f := canFrameReceived n.val f tSof.toNat) rfl ?_
  rw [heq]
  generalize canRxError (found s) n.val 2 = e at hlec hfifo hact hres hl hk
  refine ⟨(fld_irqSettle ..).trans hlec, ?_, fun h => ⟨(fld_irqSettle ..).trans (hact h (tec_le ..)).1, ?_⟩, fun h => ⟨?_, ?_⟩,
    regsBut_command hl, keepsBut_command hk⟩
  · rw [canH_irqSettle, hfifo]
    rfl
  · rw [canH_irqSettle, (hact h (tec_le ..)).2]
    rfl
  · rw [canH_irqSettle, (hres h).1]
  · rw [canH_irqSettle, (hres h).2]
    rfl

/-- A switched bit rate where there is none is an error of an open code (log entry 129). -/
theorem ends_rateError (hear : canHears s.die n.val = true) (hfd : f.fdf = false ∨ flag s.die (Reg.CAN_CFG_FDOE n.val) = true)
    (hbrs : f.brs = true) (hbrse : flag s.die (Reg.CAN_CFG_BRSE n.val) = false) :
    ends (.canFrameReceived n f tSof) s fun t =>
        1 ≤ fld t.die (Reg.CAN_ERR_LEC n.val) ∧ fld t.die (Reg.CAN_ERR_LEC n.val) ≤ 6 ∧
        (canH t.die n.val).fifo = (canH s.die n.val).fifo ∧ keepsBut [.regs, .can, .fresh] s t := by
  have hfd' : (f.fdf && !flag (found s) (Reg.CAN_CFG_FDOE n.val)) = false := by
    obtain h | h := hfd
    · rw [h, Bool.false_and]
    · rw [show flag (found s) (Reg.CAN_CFG_FDOE n.val) = true from h, Bool.not_true, Bool.and_false]
  have hbrse' : flag (found s) (Reg.CAN_CFG_BRSE n.val) = false := hbrse
  have heq : canFrameReceived n.val f tSof.toNat (found s) =
      canRxError (draw (found s)).2 n.val (1 + (draw (found s)).1.toNat % 6) := by
    rw [canFrameReceived, if_neg (by simp [show canHears (found s) n.val = true from hear]), hfd', hbrs, hbrse', if_neg (by decide)]
    exact if_pos rfl
  have hdraw : Keeps [.fresh] (found s) (draw (found s)).2 := (keeps_fresh _ _ (by simp) _).2 (.refl _ _)
  obtain ⟨hlec, hfifo, _, _, _, hk⟩ := canRxError_spec (draw (found s)).2 n.isLt (code := 1 + (draw (found s)).1.toNat % 6) (by omega) (by omega)
    (canHears_cases (d := (draw (found s)).2) hear)
  refine ends_of_onDie (f := canFrameReceived n.val f tSof.toNat) rfl ?_
  rw [heq]
  generalize canRxError (draw (found s)).2 n.val (1 + (draw (found s)).1.toNat % 6) = e at hlec hfifo hk
  refine ⟨?_, ?_, ?_, keepsBut_command ((hdraw.mono (by simp)).trans (hk.mono (by simp)))⟩
  · rw [fld_irqSettle, hlec]
    omega
  · rw [fld_irqSettle, hlec]
    omega
  · rw [canH_irqSettle, hfifo]
    rfl

/-! A sound frame. -/

/-- The part once it has counted and acknowledged a frame. -/
def gotFrame (d : Die) (n : Nat) : Die := canAck (canGotOk (incReg d (Reg.CAN_CNT_RXOK n)) n) n

/-- The registers of the count and of the acknowledgement. -/
def gotRegs (n o : Nat) : Prop := o = Reg.CAN_CNT_RXOK n ∨ o = Reg.CAN_ERR n ∨ o = Reg.CAN_STAT n

theorem canGotOk_frame (d : Die) (n : Nat) : Leaves (canErrRegs n) d (canGotOk d n) ∧ Keeps [.regs, .fresh] d (canGotOk d n) ∧
    canState (canGotOk d n) n = canState d n := by
  unfold canGotOk
  extract_lets rec_ tec r
  have hdraw : Leaves (canErrRegs n) d r.2 ∧ Keeps [.regs, .fresh] d r.2 := ⟨.of_regs rfl, (keeps_fresh _ _ (by simp) _).2 (.refl _ _)⟩
  split
  · exact ⟨.refl _ _, .refl _ _, rfl⟩
  · split
    · obtain ⟨hl, hk⟩ := canCounters_frame d n tec (rec_ - 1)
      exact ⟨hl, hk.mono (by simp), (canCounters_spec d n tec (rec_ - 1)).2.2.2.2⟩
    · obtain ⟨hl, hk⟩ := canCounters_frame r.2 n tec (119 + r.1.toNat % 9)
      exact ⟨hdraw.1.trans hl, hdraw.2.trans (hk.mono (by simp)), (canCounters_spec r.2 n tec _).2.2.2.2⟩

theorem canGotOk_rec (d : Die) {n : Nat} (hst : canState d n = 2) (h : fld d (Reg.CAN_ERR_REC n) ≤ 127) :
    fld (canGotOk d n) (Reg.CAN_ERR_REC n) = fld d (Reg.CAN_ERR_REC n) - 1 := by
  have heq : canGotOk d n = canCounters d n (fld d (Reg.CAN_ERR_TEC n)) (fld d (Reg.CAN_ERR_REC n) - 1) := by
    unfold canGotOk
    exact (if_neg (not_not.2 hst)).trans (if_pos h)
  rw [heq, (canCounters_spec d n _ _).2.1]
  omega

theorem canGotOk_restricted {d : Die} {n : Nat} (hst : canState d n ≠ 2) : canGotOk d n = d := if_pos hst

/-- What the count and the acknowledgement of a frame make of the part (R315, R321, R326). -/
theorem gotFrame_spec (d : Die) {n : Nat} (hn : n < 4) :
    getReg (gotFrame d n) (Reg.CAN_CNT_RXOK n) = BitVec.ofNat 32 (satInc 32 (getReg d (Reg.CAN_CNT_RXOK n)).toNat) ∧
    (canState d n = 2 → fld d (Reg.CAN_ERR_REC n) ≤ 127 → fld (gotFrame d n) (Reg.CAN_ERR_REC n) = fld d (Reg.CAN_ERR_REC n) - 1) ∧
    (canState d n = 2 → (canH (gotFrame d n) n).out = some .ack) ∧
    (canState d n = 3 → getReg (gotFrame d n) (Reg.CAN_ERR n) = getReg d (Reg.CAN_ERR n) ∧
      (canH (gotFrame d n) n).out = (canH d n).out) ∧
    (canH (gotFrame d n) n).fifo = (canH d n).fifo ∧
    (∀ m, m ≠ n → canH (gotFrame d n) m = canH d m) ∧ Leaves (gotRegs n) d (gotFrame d n) ∧
    Keeps [.regs, .can, .fresh] d (gotFrame d n) := by
  have hcount : Leaves (gotRegs n) d (incReg d (Reg.CAN_CNT_RXOK n)) := (leaves_incReg (p := gotRegs n) _ _ (.inl rfl)).2 (.refl _ _)
  have hkcount : Keeps [.regs, .can, .fresh] d (incReg d (Reg.CAN_CNT_RXOK n)) := by simp
  have hne : Reg.CAN_CNT_RXOK n ≠ Reg.CAN_ERR n ∧ Reg.CAN_CNT_RXOK n ≠ Reg.CAN_STAT n := by
    simp only [Reg.CAN_CNT_RXOK, Reg.CAN_ERR, Reg.CAN_STAT]
    omega
  have hst : canState (incReg d (Reg.CAN_CNT_RXOK n)) n = canState d n := by
    rw [canState, fld, getReg_incReg_ne _ _ (show (Reg.CAN_STAT_STATE n).off ≠ _ from hne.2.symm)]
    rfl
  have herr : getReg (incReg d (Reg.CAN_CNT_RXOK n)) (Reg.CAN_ERR n) = getReg d (Reg.CAN_ERR n) := getReg_incReg_ne _ _ hne.1.symm
  have hrec : fld (incReg d (Reg.CAN_CNT_RXOK n)) (Reg.CAN_ERR_REC n) = fld d (Reg.CAN_ERR_REC n) := by
    rw [fld, show getReg _ (Reg.CAN_ERR_REC n).off = _ from herr]
    rfl
  have hcnt : getReg (incReg d (Reg.CAN_CNT_RXOK n)) (Reg.CAN_CNT_RXOK n) =
      BitVec.ofNat 32 (satInc 32 (getReg d (Reg.CAN_CNT_RXOK n)).toNat) := getReg_incReg_same ..
  have hcan0 : ∀ m, canH (incReg d (Reg.CAN_CNT_RXOK n)) m = canH d m := fun _ => rfl
  unfold gotFrame
  generalize incReg d (Reg.CAN_CNT_RXOK n) = c at hcount hkcount hst herr hrec hcnt hcan0
  obtain ⟨hl, hk, hst'⟩ := canGotOk_frame c n
  have hgot : canState c n = 2 → fld c (Reg.CAN_ERR_REC n) ≤ 127 → fld (canGotOk c n) (Reg.CAN_ERR_REC n) = fld c (Reg.CAN_ERR_REC n) - 1 :=
    canGotOk_rec c
  have hsame : canState c n ≠ 2 → canGotOk c n = c := canGotOk_restricted
  have hcan : ∀ m, canH (canGotOk c n) m = canH d m := fun m => (canH_of_keeps hk (by simp) m).trans (hcan0 m)
  have hl' : Leaves (gotRegs n) d (canGotOk c n) := hcount.trans (hl.mono fun _ h => .inr h)
  have hk' : Keeps [.regs, .can, .fresh] d (canGotOk c n) := hkcount.trans (hk.mono (by simp))
  have hcnt' : getReg (canGotOk c n) (Reg.CAN_CNT_RXOK n) = getReg c (Reg.CAN_CNT_RXOK n) := hl _ (by
    rintro (h | h)
    · exact hne.1 h
    · exact hne.2 h)
  unfold canAck
  split
  · next h2 =>
    rw [hst', hst] at h2
    refine ⟨?_, fun _ hle => ?_, fun _ => ?_, fun h3 => absurd (h2.symm.trans h3) (by decide), ?_, fun m hm => ?_, ?_, ?_⟩
    · exact hcnt'.trans hcnt
    · rw [canSend, fld_updCan, hgot (hst.trans h2) (by rw [hrec]; exact hle), hrec]
    · rw [canSend, canH_updCan_same _ _ _ hn]
    · rw [canSend, canH_updCan_same _ _ _ hn, ← hcan n]
    · rw [canSend, canH_updCan_ne _ _ hm, hcan]
    · exact (leaves_updCan _ _ _ _).2 hl'
    · exact (keeps_updCan _ _ (by simp) _ _).2 hk'
  · next h2 =>
    rw [hst', hst] at h2
    have hid := hsame (fun h => h2 (hst.symm.trans h))
    refine ⟨hcnt'.trans hcnt, fun h => absurd h h2, fun h => absurd h h2, fun _ => ⟨?_, congrArg CanHid.out (hcan n)⟩,
      congrArg CanHid.fifo (hcan n), fun m _ => hcan m, hl', hk'⟩
    rw [hid, herr]

/-- The identifier of a frame as the filters take it. -/
def frameId (f : CanFrame) : Nat := if f.ide then f.id.toNat else f.id.toNat % 2 ^ 11

/-- The frame fits the controller (R316). -/
def fitsCan (d : Die) (n : Nat) (f : CanFrame) : Prop :=
  (f.fdf = false ∨ flag d (Reg.CAN_CFG_FDOE n) = true) ∧ (f.brs = false ∨ flag d (Reg.CAN_CFG_BRSE n) = true)

/-- The part with a frame in the receive FIFO (R326). -/
def storedFrame (d : Die) (n : Nat) (e : List Nat) : Die :=
  maxFld (updCan d n fun h => { h with fifo := h.fifo ++ [e] }) (Reg.CAN_RXF_STAT_PEAK n)
    (canH (updCan d n fun h => { h with fifo := h.fifo ++ [e] }) n).fifo.length

/-- The part with a frame lost to a full FIFO (R326). -/
def lostFrame (d : Die) (n : Nat) : Die := setFlag (incReg d (Reg.CAN_CNT_RXOVR n)) (Reg.CAN_STAT_RXOVR n)

theorem lostFrame_spec (d : Die) (n : Nat) : flag (lostFrame d n) (Reg.CAN_STAT_RXOVR n) = true ∧
    getReg (lostFrame d n) (Reg.CAN_CNT_RXOVR n) = BitVec.ofNat 32 (satInc 32 (getReg d (Reg.CAN_CNT_RXOVR n)).toNat) ∧
    (∀ m, canH (lostFrame d n) m = canH d m) ∧ Leaves (fun o => o = Reg.CAN_CNT_RXOVR n ∨ o = Reg.CAN_STAT n) d (lostFrame d n) ∧
    Keeps [.regs] d (lostFrame d n) := by
  have hne : Reg.CAN_CNT_RXOVR n ≠ (Reg.CAN_STAT_RXOVR n).off := by
    show Reg.CAN_CNT_RXOVR n ≠ Reg.CAN_STAT n
    simp only [Reg.CAN_CNT_RXOVR, Reg.CAN_STAT]
    omega
  refine ⟨flag_setFlag_same _ _ (show 4 + 1 ≤ 32 by decide) rfl, ?_, fun _ => rfl, ?_, by simp [lostFrame]⟩
  · rw [lostFrame, getReg_setFlag_ne _ _ hne, getReg_incReg_same]
  · exact (leaves_setFlag (p := fun o => o = Reg.CAN_CNT_RXOVR n ∨ o = Reg.CAN_STAT n) _ _ (f := Reg.CAN_STAT_RXOVR n) (.inr rfl)).2
      ((leaves_incReg (p := fun o => o = Reg.CAN_CNT_RXOVR n ∨ o = Reg.CAN_STAT n) _ _ (.inl rfl)).2 (.refl _ _))

theorem frame_sound {d : Die} {n : Nat} (hear : canHears d n = true) (hfits : fitsCan d n f) : ¬ (!canHears d n) = true ∧
    ¬ (f.fdf && !flag d (Reg.CAN_CFG_FDOE n)) = true ∧ ¬ (f.brs && !flag d (Reg.CAN_CFG_BRSE n)) = true := by
  obtain ⟨hfd, hbr⟩ := hfits
  refine ⟨by simp [hear], ?_, ?_⟩
  · obtain h | h := hfd <;> simp [h]
  · obtain h | h := hbr <;> simp [h]

theorem canFrameReceived_unfiltered {d : Die} {n : Nat} (hear : canHears d n = true) (hfits : fitsCan d n f) (t : Nat)
    (hflt : canFilter (gotFrame d n) n (frameId f) f.ide = none) : canFrameReceived n f t d = gotFrame d n := by
  obtain ⟨h1, h2, h3⟩ := frame_sound hear hfits
  rw [canFrameReceived, if_neg h1, if_neg h2, if_neg h3]
  extract_lets e id
  have h : canFilter e n id f.ide = none := hflt
  rw [h]
  rfl

theorem canFrameReceived_filtered {d : Die} {n k : Nat} (hear : canHears d n = true) (hfits : fitsCan d n f) (t : Nat)
    (hflt : canFilter (gotFrame d n) n (frameId f) f.ide = some k) : canFrameReceived n f t d =
      if 64 ≤ (canH (gotFrame d n) n).fifo.length then
        lostFrame (gotFrame d n) n
      else storedFrame (gotFrame d n) n (canEntry f k (canStamp t)) := by
  obtain ⟨h1, h2, h3⟩ := frame_sound hear hfits
  rw [canFrameReceived, if_neg h1, if_neg h2, if_neg h3]
  extract_lets e id
  have h : canFilter e n id f.ide = some k := hflt
  rw [h]
  rfl

/-- The filters do not turn on the registers of a received frame. -/
theorem canMatch_gotFrame (d : Die) {n : Nat} (hn : n < 4) (id : Nat) (ide : Bool) {k : Nat} (hk : k < 32) :
    canMatch (gotFrame d n) n id ide k = canMatch d n id ide k := by
  obtain ⟨_, _, _, _, _, _, hl, _⟩ := gotFrame_spec d hn
  have hid : getReg (gotFrame d n) (Reg.CAN_FLT_ID n k) = getReg d (Reg.CAN_FLT_ID n k) := hl _ (by
    simp only [gotRegs, Reg.CAN_FLT_ID, Reg.CAN_CNT_RXOK, Reg.CAN_ERR, Reg.CAN_STAT]
    omega)
  have hmask : getReg (gotFrame d n) (Reg.CAN_FLT_MASK n k) = getReg d (Reg.CAN_FLT_MASK n k) := hl _ (by
    simp only [gotRegs, Reg.CAN_FLT_MASK, Reg.CAN_CNT_RXOK, Reg.CAN_ERR, Reg.CAN_STAT]
    omega)
  have hf : ∀ lo w, fld (gotFrame d n) ⟨Reg.CAN_FLT_ID n k, lo, w⟩ = fld d ⟨Reg.CAN_FLT_ID n k, lo, w⟩ := fun lo w => by
    rw [fld, fld, hid]
  have hm : fld (gotFrame d n) (Reg.CAN_FLT_MASK_MASK n k) = fld d (Reg.CAN_FLT_MASK_MASK n k) := by
    rw [fld, fld, show getReg _ (Reg.CAN_FLT_MASK_MASK n k).off = _ from hmask]
    rfl
  simp only [canMatch, flag, Reg.CAN_FLT_ID_VALID, Reg.CAN_FLT_ID_IDE, Reg.CAN_FLT_ID_ID, hf, hm]

theorem canFilter_gotFrame (d : Die) {n : Nat} (hn : n < 4) (id : Nat) (ide : Bool) :
    canFilter (gotFrame d n) n id ide = canFilter d n id ide := by
  obtain ⟨_, _, _, _, _, _, hl, _⟩ := gotFrame_spec d hn
  have hfind : (upto 32).find? (canMatch (gotFrame d n) n id ide) = (upto 32).find? (canMatch d n id ide) := by
    have hall : ∀ l : List Nat, (∀ k ∈ l, k < 32) → l.find? (canMatch (gotFrame d n) n id ide) = l.find? (canMatch d n id ide) := by
      intro l
      induction l with
      | nil => exact fun _ => rfl
      | cons x l ih =>
        intro h
        rw [List.find?_cons, List.find?_cons, canMatch_gotFrame d hn id ide (h x (by simp)), ih fun k hk => h k (by simp [hk])]
    exact hall _ fun k hk => (mem_upto ..).1 hk
  have hacc : flag (gotFrame d n) (Reg.CAN_CFG_ACCNONE n) = flag d (Reg.CAN_CFG_ACCNONE n) := flag_of_leaves hl _ (by
    simp only [gotRegs, Reg.CAN_CFG_ACCNONE, Reg.CAN_CFG, Reg.CAN_CNT_RXOK, Reg.CAN_ERR, Reg.CAN_STAT]
    omega)
  rw [canFilter, canFilter, hfind, hacc]

theorem canFilter_none {d : Die} {n id : Nat} {ide : Bool} (h : ∀ k, k < 32 → canMatch d n id ide k = false)
    (hacc : flag d (Reg.CAN_CFG_ACCNONE n) = false) : canFilter d n id ide = none := by
  have hfind : (upto 32).find? (canMatch d n id ide) = none := List.find?_eq_none.2 fun k hk => by
    rw [h k ((mem_upto ..).1 hk)]
    decide
  rw [canFilter, hfind, hacc]
  rfl

/-- The first filter that matches is the one whose number a frame carries. -/
theorem canFilter_first {d : Die} {n id k : Nat} {ide : Bool} (hk : k < 32) (h : canMatch d n id ide k = true)
    (hbefore : ∀ j, j < k → canMatch d n id ide j = false) : canFilter d n id ide = some k := by
  have hfind : (upto 32).find? (canMatch d n id ide) = some k := by
    rw [upto, List.find?_range_eq_some]
    exact ⟨h, List.mem_range.2 hk, fun j hj => by rw [hbefore j hj]; rfl⟩
  rw [canFilter, hfind]

/-- What is common to every frame received without error. -/
def countedFrame (s : State) (n : Nat) (t : State) : Prop :=
  getReg t.die (Reg.CAN_CNT_RXOK n) = BitVec.ofNat 32 (satInc 32 (getReg s.die (Reg.CAN_CNT_RXOK n)).toNat) ∧
  (canState s.die n = 2 → fld s.die (Reg.CAN_ERR_REC n) ≤ 127 → fld t.die (Reg.CAN_ERR_REC n) = fld s.die (Reg.CAN_ERR_REC n) - 1) ∧
  (canState s.die n = 2 → (canH t.die n).out = some .ack) ∧
  (canState s.die n = 3 → getReg t.die (Reg.CAN_ERR n) = getReg s.die (Reg.CAN_ERR n) ∧ (canH t.die n).out = (canH s.die n).out) ∧
  ∀ m, m ≠ n → canH t.die m = canH s.die m

/-- A part that stores or drops the frame stands as counted. -/
theorem countedFrame_of {e : Die} (hl : Leaves (fun o => o ≠ Reg.CAN_CNT_RXOK n.val ∧ o ≠ Reg.CAN_ERR n.val) (gotFrame (found s) n.val) e)
    (hout : (canH e n.val).out = (canH (gotFrame (found s) n.val) n.val).out)
    (hother : ∀ m, m ≠ n.val → canH e m = canH (gotFrame (found s) n.val) m) :
    countedFrame s n.val { s with die := irqSettle s.die e } := by
  obtain ⟨hcnt, hrec, hack, hres, _, hcan, _, _⟩ := gotFrame_spec (found s) n.isLt
  have hc : getReg e (Reg.CAN_CNT_RXOK n.val) = getReg (gotFrame (found s) n.val) (Reg.CAN_CNT_RXOK n.val) := hl _ fun h => h.1 rfl
  have he : getReg e (Reg.CAN_ERR n.val) = getReg (gotFrame (found s) n.val) (Reg.CAN_ERR n.val) := hl _ fun h => h.2 rfl
  have hr : fld e (Reg.CAN_ERR_REC n.val) = fld (gotFrame (found s) n.val) (Reg.CAN_ERR_REC n.val) := fld_of_leaves hl _ fun h => h.2 rfl
  exact ⟨(getReg_irqSettle ..).trans (hc.trans hcnt), fun h h' => (fld_irqSettle ..).trans (hr.trans (hrec h h')),
    fun h => (congrArg CanHid.out (canH_irqSettle ..)).trans (hout.trans (hack h)),
    fun h => ⟨(getReg_irqSettle ..).trans (he.trans (hres h).1), (congrArg CanHid.out (canH_irqSettle ..)).trans (hout.trans (hres h).2)⟩,
    fun m hm => (canH_irqSettle ..).trans ((hother m hm).trans (hcan m hm))⟩

theorem ends_received_unfiltered (hear : canHears s.die n.val = true) (hfits : fitsCan s.die n.val f)
    (hnone : ∀ k, k < 32 → canMatch s.die n.val (frameId f) f.ide k = false) (hacc : flag s.die (Reg.CAN_CFG_ACCNONE n.val) = false) :
    ends (.canFrameReceived n f tSof) s fun t => countedFrame s n.val t ∧ (canH t.die n.val).fifo = (canH s.die n.val).fifo ∧
        regsBut (gotRegs n.val) s t ∧ keepsBut [.regs, .can, .fresh] s t := by
  have hflt : canFilter (gotFrame (found s) n.val) n.val (frameId f) f.ide = none :=
    (canFilter_gotFrame _ n.isLt ..).trans (canFilter_none (d := found s) hnone hacc)
  obtain ⟨_, _, _, _, hfifo, _, hl, hk⟩ := gotFrame_spec (found s) n.isLt
  refine ends_of_onDie (f := canFrameReceived n.val f tSof.toNat) rfl ?_
  rw [canFrameReceived_unfiltered (d := found s) hear hfits _ hflt]
  exact ⟨countedFrame_of (.refl _ _) rfl fun _ _ => rfl, (congrArg CanHid.fifo (canH_irqSettle ..)).trans hfifo,
    regsBut_command hl, keepsBut_command hk⟩

theorem canEntry_eq (f : CanFrame) (k t : Nat) : ∃ frm data, canEntry f k t = frameId f :: frm :: t :: data ∧
    frm % 16 = f.dlc.toNat ∧ frm / 2 ^ 16 = k ∧ data.length = 16 := by
  have hdlc : f.dlc.toNat < 16 := f.dlc.isLt
  have hbit : ∀ b : Bool, b2n b ≤ 1 := fun b => by cases b <;> decide
  have h1 := hbit f.ide
  have h2 := hbit f.rtr
  have h3 := hbit f.fdf
  have h4 := hbit f.brs
  have h5 := hbit f.esi
  refine ⟨_, _, rfl, ?_, ?_, ?_⟩
  · omega
  · omega
  · simp [upto]

theorem ends_received_stored {k : Nat} (hear : canHears s.die n.val = true) (hfits : fitsCan s.die n.val f) (hk : k < 32)
    (hmatch : canMatch s.die n.val (frameId f) f.ide k = true) (hbefore : ∀ j, j < k → canMatch s.die n.val (frameId f) f.ide j = false)
    (hroom : (canH s.die n.val).fifo.length < 64) :
    ends (.canFrameReceived n f tSof) s fun t => countedFrame s n.val t ∧
        (∃ frm data, (canH t.die n.val).fifo =
          (canH s.die n.val).fifo ++ [frameId f :: frm :: (tSof.toNat - 50) / 1000 % 2 ^ 32 :: data] ∧
          frm % 16 = f.dlc.toNat ∧ frm / 2 ^ 16 = k ∧ data.length = 16) ∧
        regsBut (fun o => gotRegs n.val o ∨ o = Reg.CAN_RXF_STAT n.val) s t ∧ keepsBut [.regs, .can, .fresh] s t := by
  have hflt : canFilter (gotFrame (found s) n.val) n.val (frameId f) f.ide = some k :=
    (canFilter_gotFrame _ n.isLt ..).trans (canFilter_first (d := found s) hk hmatch hbefore)
  obtain ⟨_, _, _, _, hfifo, _, hl, hkeep⟩ := gotFrame_spec (found s) n.isLt
  have hfifo' : (canH (gotFrame (found s) n.val) n.val).fifo = (canH s.die n.val).fifo := hfifo
  obtain ⟨frm, data, hentry, hdlc, hfilter, hdata⟩ := canEntry_eq f k (canStamp tSof.toNat)
  refine ends_of_onDie (f := canFrameReceived n.val f tSof.toNat) rfl ?_
  rw [canFrameReceived_filtered (d := found s) hear hfits _ hflt, if_neg (by rw [hfifo']; omega)]
  have hput : Leaves (· = Reg.CAN_RXF_STAT n.val) (gotFrame (found s) n.val) (storedFrame (gotFrame (found s) n.val) n.val (canEntry f k (canStamp tSof.toNat))) :=
    (leaves_maxFld (p := (· = Reg.CAN_RXF_STAT n.val)) _ _ (f := Reg.CAN_RXF_STAT_PEAK n.val) rfl _).2 ((leaves_updCan _ _ _ _).2 (.refl _ _))
  have hputk : Keeps [.regs, .can] (gotFrame (found s) n.val) (storedFrame (gotFrame (found s) n.val) n.val (canEntry f k (canStamp tSof.toNat))) :=
    (keeps_maxFld _ _ (by simp) _ _).2 ((keeps_updCan _ _ (by simp) _ _).2 (.refl _ _))
  have hpeak : ∀ (d : Die) (g : Fld) (v m : Nat), canH (maxFld d g v) m = canH d m := fun d g v m =>
    canH_of_keeps ((keeps_maxFld (ps := [.regs]) d d (by simp) g v).2 (.refl _ _)) (by simp) m
  have hown : canH (storedFrame (gotFrame (found s) n.val) n.val (canEntry f k (canStamp tSof.toNat))) n.val =
      { canH (gotFrame (found s) n.val) n.val with fifo := (canH (gotFrame (found s) n.val) n.val).fifo ++ [canEntry f k (canStamp tSof.toNat)] } := by
    rw [storedFrame, hpeak, canH_updCan_same _ _ _ n.isLt]
  have hother : ∀ m, m ≠ n.val → canH (storedFrame (gotFrame (found s) n.val) n.val (canEntry f k (canStamp tSof.toNat))) m =
      canH (gotFrame (found s) n.val) m := fun m hm => by
    rw [storedFrame, hpeak, canH_updCan_ne _ _ hm]
  generalize storedFrame (gotFrame (found s) n.val) n.val (canEntry f k (canStamp tSof.toNat)) = e at hput hputk hown hother
  refine ⟨countedFrame_of (hput.mono fun o ho => ?_) (by rw [hown]) hother, ⟨frm, data, ?_, hdlc, hfilter, hdata⟩,
    regsBut_command ((hl.mono fun _ h => .inl h).trans (hput.mono fun _ h => .inr h)), keepsBut_command (hkeep.trans (hputk.mono (by simp)))⟩
  · simp only [ho, Reg.CAN_RXF_STAT, Reg.CAN_CNT_RXOK, Reg.CAN_ERR]
    omega
  · rw [canH_irqSettle, hown, hfifo', hentry]
    rfl

theorem ends_received_full {k : Nat} (hear : canHears s.die n.val = true) (hfits : fitsCan s.die n.val f) (hk : k < 32)
    (hmatch : canMatch s.die n.val (frameId f) f.ide k = true) (hbefore : ∀ j, j < k → canMatch s.die n.val (frameId f) f.ide j = false)
    (hfull : 64 ≤ (canH s.die n.val).fifo.length) :
    ends (.canFrameReceived n f tSof) s fun t => countedFrame s n.val t ∧
        flag t.die (Reg.CAN_STAT_RXOVR n.val) = true ∧ getReg t.die (Reg.CAN_CNT_RXOVR n.val) =
          BitVec.ofNat 32 (satInc 32 (getReg s.die (Reg.CAN_CNT_RXOVR n.val)).toNat) ∧
        (canH t.die n.val).fifo = (canH s.die n.val).fifo ∧ keepsBut [.regs, .can, .fresh] s t := by
  have hflt : canFilter (gotFrame (found s) n.val) n.val (frameId f) f.ide = some k :=
    (canFilter_gotFrame _ n.isLt ..).trans (canFilter_first (d := found s) hk hmatch hbefore)
  obtain ⟨_, _, _, _, hfifo, _, hl, hkeep⟩ := gotFrame_spec (found s) n.isLt
  have hfifo' : (canH (gotFrame (found s) n.val) n.val).fifo = (canH s.die n.val).fifo := hfifo
  have hplace : Reg.CAN_CNT_RXOVR n.val = 0x11028 + n.val * 0x400 ∧ Reg.CAN_STAT n.val = 0x11008 + n.val * 0x400 ∧
      Reg.CAN_ERR n.val = 0x1100C + n.val * 0x400 ∧ Reg.CAN_CNT_RXOK n.val = 0x11020 + n.val * 0x400 := ⟨rfl, rfl, rfl, rfl⟩
  obtain ⟨ho, hs, he, hc⟩ := hplace
  have hcnt : getReg (gotFrame (found s) n.val) (Reg.CAN_CNT_RXOVR n.val) = getReg s.die (Reg.CAN_CNT_RXOVR n.val) :=
    hl _ (by simp only [gotRegs]; omega)
  refine ends_of_onDie (f := canFrameReceived n.val f tSof.toNat) rfl ?_
  rw [canFrameReceived_filtered (d := found s) hear hfits _ hflt, if_pos (by rw [hfifo']; exact hfull)]
  obtain ⟨hover, hlost, hcan, hle, hke⟩ := lostFrame_spec (gotFrame (found s) n.val) n.val
  generalize lostFrame (gotFrame (found s) n.val) n.val = e at hover hlost hcan hle hke
  refine ⟨countedFrame_of (hle.mono fun o h => by omega) (by rw [hcan]) fun m _ => hcan m, (flag_irqSettle ..).trans hover,
    (getReg_irqSettle ..).trans (hlost.trans (by rw [hcnt])), ?_, keepsBut_command (hkeep.trans (hke.mono (by simp)))⟩
  rw [canH_irqSettle, hcan, hfifo']

theorem ends_pxeCount (hear : canHears s.die n.val = true) (hfdoe : flag s.die (Reg.CAN_CFG_FDOE n.val) = true)
    (hpxe : flag s.die (Reg.CAN_CFG_PXE n.val) = true) : ends (.protocolException n) s fun t =>
      getReg t.die (Reg.CAN_CNT_PXE n.val) =
        BitVec.ofNat 32 (satInc 32 (getReg s.die (Reg.CAN_CNT_PXE n.val)).toNat) ∧ (canH t.die n.val).wait = true ∧
      regsBut (· = Reg.CAN_CNT_PXE n.val) s t ∧ keepsBut [.regs, .can] s t := by
  have heq : protocolException n.val (found s) = updCan (incReg (found s) (Reg.CAN_CNT_PXE n.val)) n.val fun h => { h with wait := true } := by
    rw [protocolException, if_neg (by simp [show canHears (found s) n.val = true from hear]), show flag (found s) (Reg.CAN_CFG_FDOE n.val) = true from hfdoe,
      show flag (found s) (Reg.CAN_CFG_PXE n.val) = true from hpxe]
    exact if_pos rfl
  refine ends_of_onDie (f := protocolException n.val) rfl ?_
  rw [heq]
  refine ⟨(getReg_irqSettle ..).trans ((getReg_updCan ..).trans (getReg_incReg_same ..)), ?_,
    regsBut_command ((leaves_updCan _ _ _ _).2 ((leaves_incReg (p := (· = Reg.CAN_CNT_PXE n.val)) _ _ rfl).2 (.refl _ _))),
    keepsBut_command (by simp)⟩
  rw [canH_irqSettle, canH_updCan_same _ _ _ n.isLt]

theorem ends_pxeError (hear : canHears s.die n.val = true) (hpxe : flag s.die (Reg.CAN_CFG_PXE n.val) = false) :
    ends (.protocolException n) s fun t => fld t.die (Reg.CAN_ERR_LEC n.val) = 2 ∧ keepsBut [.regs, .can] s t := by
  have heq : protocolException n.val (found s) = canRxError (found s) n.val 2 := by
    rw [protocolException, if_neg (by simp [show canHears (found s) n.val = true from hear]),
      show flag (found s) (Reg.CAN_CFG_PXE n.val) = false from hpxe, Bool.and_false]
    exact if_neg (by decide)
  obtain ⟨hlec, _, _, _, _, hk⟩ := canRxError_spec (found s) n.isLt (code := 2) (by decide) (by decide) (canHears_cases (d := found s) hear)
  refine ends_of_onDie (f := protocolException n.val) rfl ?_
  rw [heq]
  exact ⟨(fld_irqSettle ..).trans hlec, keepsBut_command hk⟩

theorem ends_waiting (hwait : (canH s.die n.val).wait = true) :
    (∀ (f : CanFrame) (tSof : QWord), ends (.canFrameReceived n f tSof) s (keepsBut [] s)) ∧
    (∀ (code : Fin 7) (tx : Bool) (what : CanErr), ends (.canBusError n code tx what) s (keepsBut [] s)) ∧
    ends (.protocolException n) s (keepsBut [] s) ∧ ends (.canTxStart n) s (keepsBut [] s) := by
  have hdeaf : canHears (found s) n.val = false := canHears_waiting (d := found s) hwait
  refine ⟨fun f t => ends_idle (f := canFrameReceived n.val f t.toNat) rfl ?_ [],
    fun code tx what => ends_idle (f := canBusError n.val code.val tx what) rfl ?_ [],
    ends_idle (f := protocolException n.val) rfl ?_ [], ends_idle (f := canTxStart n.val) rfl ?_ []⟩
  · exact if_pos (by rw [hdeaf]; rfl)
  · exact if_neg (by rw [hdeaf]; decide)
  · exact if_pos (by rw [hdeaf]; rfl)
  · refine if_neg ?_
    rw [show (canH (found s) n.val).wait = true from hwait, Bool.not_true, Bool.and_false]
    decide

end Reception

/-- Settles O45: an error, a frame that no filter takes, one that is stored and one that is lost, and the wait of a controller. -/
theorem canReception : Obligations.CanReception :=
  ⟨fun _ _ _ _ hear => ⟨fun hfdf hfdoe => ends_formError hear hfdf hfdoe, fun hfd hbrs hbrse => ends_rateError hear hfd hbrs hbrse,
      fun hfits hnone hacc => ends_received_unfiltered hear hfits hnone hacc,
      fun hfits _ hk hmatch hbefore => ⟨fun hroom => ends_received_stored hear hfits hk hmatch hbefore hroom,
        fun hfull => ends_received_full hear hfits hk hmatch hbefore hfull⟩⟩,
    fun _ _ hear hfdoe => ⟨fun hpxe => ends_pxeCount hear hfdoe hpxe, fun hpxe => ends_pxeError hear hpxe⟩,
    fun _ _ hwait => ends_waiting hwait⟩

end Sys2Proof.Machine
end

section
/-! PROOFS. Transmission of a CAN controller (R315, R319, R323 to R325, R327). -/

namespace Sys2Proof.Machine

open Sys2Proof

/-! The buffer that is offered. -/

/-- One step of the choice by key. -/
def betterKey (d : Die) (n : Nat) (best : Option Nat) (b : Nat) : Option Nat :=
  match best with
  | none => some b
  | some x => if canKey d n b < canKey d n x then some b else some x

/-- `x` goes before `b` on the bus, or is `b` or a buffer of lower number with its key (R324). -/
def KeyFirst (d : Die) (n x b : Nat) : Prop := canKey d n x < canKey d n b ∨ (canKey d n x = canKey d n b ∧ x ≤ b)

/-- The choice among buffers of rising number has the lowest key, and on equal keys the lowest number. -/
theorem foldl_betterKey (d : Die) (n : Nat) : ∀ (l : List Nat) (x : Nat), l.Pairwise (· < ·) → (∀ b ∈ l, x < b) →
    ∃ y, l.foldl (betterKey d n) (some x) = some y ∧ (y = x ∨ y ∈ l) ∧ ∀ b, b = x ∨ b ∈ l → KeyFirst d n y b := by
  intro l
  induction l with
  | nil =>
    intro x _ _
    refine ⟨x, rfl, .inl rfl, fun b hb => ?_⟩
    obtain rfl | hb := hb
    · exact .inr ⟨rfl, le_rfl⟩
    · exact absurd hb List.not_mem_nil
  | cons c l ih =>
    intro x hsorted hlt
    obtain ⟨hc, hl⟩ := List.pairwise_cons.1 hsorted
    have hxc : x < c := hlt c (by simp)
    rw [List.foldl_cons, betterKey]
    by_cases hkey : canKey d n c < canKey d n x
    · rw [if_pos hkey]
      obtain ⟨y, hy, hmem, hfirst⟩ := ih c hl hc
      refine ⟨y, hy, .inr (by simpa using hmem), fun b hb => ?_⟩
      obtain rfl | hb := hb
      · have := hfirst c (.inl rfl)
        unfold KeyFirst at this ⊢
        omega
      · exact hfirst b (by simpa using hb)
    · rw [if_neg hkey]
      obtain ⟨y, hy, hmem, hfirst⟩ := ih x hl fun b hb => hlt b (by simp [hb])
      refine ⟨y, hy, hmem.imp id (by simp +contextual), fun b hb => ?_⟩
      obtain rfl | hb := hb
      · exact hfirst b (.inl rfl)
      · obtain rfl | hb := List.mem_cons.1 hb
        · have := hfirst x (.inl rfl)
          unfold KeyFirst at this ⊢
          omega
        · exact hfirst b (.inr hb)

/-- The pending buffers. -/
def pendingOf (d : Die) (n : Nat) : List Nat := (upto 3).filter fun b => flag d (Reg.TXB_CTL_REQ n b)

theorem mem_pendingOf {d : Die} {n b : Nat} : b ∈ pendingOf d n ↔ b < 3 ∧ flag d (Reg.TXB_CTL_REQ n b) = true := by
  rw [pendingOf, List.mem_filter, mem_upto]

theorem pendingOf_sorted (d : Die) (n : Nat) : (pendingOf d n).Pairwise (· < ·) :=
  List.Pairwise.filter _ (by decide)

theorem canPick_eq (d : Die) (n : Nat) : canPick d n =
    if flag d (Reg.CAN_CFG_TXPRIO n) then (pendingOf d n).head? else (pendingOf d n).foldl (betterKey d n) none := by
  unfold canPick
  extract_lets pend better
  have hbetter : better = betterKey d n := by
    funext best b
    cases best <;> rfl
  rw [hbetter]
  rfl

/-- The buffer that is offered (R324). -/
theorem canPick_spec {d : Die} {n b : Nat} (hb : b < 3) (hreq : flag d (Reg.TXB_CTL_REQ n b) = true) :
    ∃ x, canPick d n = some x ∧ x < 3 ∧ flag d (Reg.TXB_CTL_REQ n x) = true ∧
      (flag d (Reg.CAN_CFG_TXPRIO n) = true → x ≤ b) ∧ (flag d (Reg.CAN_CFG_TXPRIO n) = false → KeyFirst d n x b) := by
  have hmem : b ∈ pendingOf d n := mem_pendingOf.2 ⟨hb, hreq⟩
  have hsorted := pendingOf_sorted d n
  have hall : ∀ x ∈ pendingOf d n, x < 3 ∧ flag d (Reg.TXB_CTL_REQ n x) = true := fun x hx => mem_pendingOf.1 hx
  rw [canPick_eq]
  cases hl : pendingOf d n with
  | nil => exact absurd (hl ▸ hmem) List.not_mem_nil
  | cons c l =>
    rw [hl] at hmem hsorted hall
    obtain ⟨hc, hl'⟩ := List.pairwise_cons.1 hsorted
    cases hprio : flag d (Reg.CAN_CFG_TXPRIO n)
    · obtain ⟨y, hy, hin, hfirst⟩ := foldl_betterKey d n l c hl' hc
      obtain ⟨hy3, hyr⟩ := hall y (List.mem_cons.2 hin)
      exact ⟨y, hy, hy3, hyr, fun h => absurd h (by decide), fun _ => hfirst b (List.mem_cons.1 hmem)⟩
    · obtain ⟨hc3, hcr⟩ := hall c (by simp)
      refine ⟨c, rfl, hc3, hcr, fun _ => ?_, fun h => absurd h (by decide)⟩
      obtain rfl | h := List.mem_cons.1 hmem
      · exact le_rfl
      · exact (hc b h).le

section Transmission

variable {s : State} {n : Fin 4} {b : Nat}

theorem ends_txStart (hpow : powered s.die (74 + n.val) = true) (hst : canState s.die n.val = 2)
    (hoff : (canH s.die n.val).offered = none) (hwait : (canH s.die n.val).wait = false) (hb : b < 3)
    (hreq : flag s.die (Reg.TXB_CTL_REQ n.val b) = true) :
    ends (.canTxStart n) s fun t => keepsBut [.can] s t ∧ ∃ x, (canH t.die n.val).offered = some x ∧ x < 3 ∧
      (canH t.die n.val).out = some (.frame (txbFrame s.die n.val x)) ∧
      flag s.die (Reg.TXB_CTL_REQ n.val x) = true ∧
      (flag s.die (Reg.CAN_CFG_TXPRIO n.val) = true → x ≤ b) ∧
      (flag s.die (Reg.CAN_CFG_TXPRIO n.val) = false → KeyFirst s.die n.val x b) := by
  obtain ⟨x, hx, hx3, hxr, hprio, hkey⟩ := canPick_spec (d := found s) hb hreq
  have hgo : (powered (found s) (74 + n.val) && canState (found s) n.val == 2 && (canH (found s) n.val).offered == none &&
      !(canH (found s) n.val).wait) = true := by
    rw [show powered (found s) (74 + n.val) = true from hpow, show canState (found s) n.val = 2 from hst,
      show (canH (found s) n.val).offered = none from hoff, show (canH (found s) n.val).wait = false from hwait]
    rfl
  have heq : canTxStart n.val (found s) = updCan (found s) n.val fun h =>
      { h with offered := some x, out := some (.frame (txbFrame (found s) n.val x)) } := by
    rw [canTxStart, if_pos hgo, hx]
  refine ends_of_onDie (f := canTxStart n.val) rfl ?_
  rw [heq]
  have hown := canH_updCan_same (found s) n.val (fun h => { h with offered := some x, out := some (.frame (txbFrame (found s) n.val x)) }) n.isLt
  refine ⟨keepsBut_command (by simp), x, ?_, hx3, ?_, hxr, hprio, hkey⟩
  · rw [canH_irqSettle, hown]
  · rw [canH_irqSettle, hown]
    rfl

/-! The end of a frame. -/

/-- The delay that is measured in a frame of buffer `b` (R319). -/
def Measured (d : Die) (n b : Nat) (delay : Option Nat) (e : Die) : Prop :=
  (∀ x, delay = some x → flag d (Reg.CAN_DBT_TDC_EN n) = true →
    flag d (Reg.TXB_FRM_BRS n b) = true → fld e (Reg.CAN_TDCR_DELAY n) = min x 127 ∧
    (127 < x + fld d (Reg.CAN_DBT_TDCO n) → flag e (Reg.CAN_TDCR_SAT n) = true)) ∧
  (delay = none ∨ flag d (Reg.CAN_DBT_TDC_EN n) = false →
    getReg e (Reg.CAN_TDCR n) = getReg d (Reg.CAN_TDCR n))

theorem Measured.of_same {d e e' : Die} {n b : Nat} {delay : Option Nat} (h : Measured d n b delay e)
    (hsame : getReg e' (Reg.CAN_TDCR n) = getReg e (Reg.CAN_TDCR n)) : Measured d n b delay e' := by
  have hf : ∀ f : Fld, f.off = Reg.CAN_TDCR n → fld e' f = fld e f := fun f hf => by rw [fld, hf, hsame, fld, hf]
  refine ⟨fun x hx hen hbrs => ?_, fun hno => hsame.trans (h.2 hno)⟩
  obtain ⟨hdelay, hsat⟩ := h.1 x hx hen hbrs
  exact ⟨(hf _ rfl).trans hdelay, fun hlim => (congrArg (· == 1) (hf (Reg.CAN_TDCR_SAT n) rfl)).trans (hsat hlim)⟩

theorem canTdc_frame (d : Die) (n b : Nat) (delay : Option Nat) : Leaves (· = Reg.CAN_TDCR n) d (canTdc d n b delay) ∧
    Keeps [.regs] d (canTdc d n b delay) := by
  have hset : ∀ v, Leaves (· = Reg.CAN_TDCR n) d (setFld d (Reg.CAN_TDCR_DELAY n) v) := fun v =>
    (leaves_setFld (p := (· = Reg.CAN_TDCR n)) _ _ (f := Reg.CAN_TDCR_DELAY n) rfl _).2 (.refl _ _)
  unfold canTdc
  split
  · split
    · extract_lets e
      split
      · exact ⟨(leaves_setFlag (p := (· = Reg.CAN_TDCR n)) _ _ (f := Reg.CAN_TDCR_SAT n) rfl).2 (hset _), by simp [e]⟩
      · exact ⟨hset _, by simp [e]⟩
    · exact ⟨.refl _ _, .refl _ _⟩
  · exact ⟨.refl _ _, .refl _ _⟩

theorem measured_canTdc (d : Die) (n b : Nat) (delay : Option Nat) : Measured d n b delay (canTdc d n b delay) := by
  refine ⟨fun x hx hen hbrs => ?_, fun hno => ?_⟩
  · subst hx
    have htdco : fld (setFld d (Reg.CAN_TDCR_DELAY n) (min x 127)) (Reg.CAN_DBT_TDCO n) = fld d (Reg.CAN_DBT_TDCO n) :=
      fld_setFld_ne _ (Reg.CAN_DBT_TDCO n) (Reg.CAN_TDCR_DELAY n) _ (by
        show Reg.CAN_DBT n ≠ Reg.CAN_TDCR n
        simp only [Reg.CAN_DBT, Reg.CAN_TDCR]
        omega)
    have hdelay : fld (setFld d (Reg.CAN_TDCR_DELAY n) (min x 127)) (Reg.CAN_TDCR_DELAY n) = min x 127 :=
      (fld_setFld_same _ _ _ (show 0 + 7 ≤ 32 by decide)).trans (show min x 127 % 128 = min x 127 by omega)
    have heq : canTdc d n b (some x) = if 127 < x + fld d (Reg.CAN_DBT_TDCO n) then
        setFlag (setFld d (Reg.CAN_TDCR_DELAY n) (min x 127)) (Reg.CAN_TDCR_SAT n) else setFld d (Reg.CAN_TDCR_DELAY n) (min x 127) := by
      rw [← htdco]
      exact if_pos (by rw [hen, hbrs]; rfl)
    rw [heq]
    split
    · refine ⟨?_, fun _ => flag_setFlag_same _ _ (show 7 + 1 ≤ 32 by decide) rfl⟩
      rw [setFlag, fld_setFld_below _ (Reg.CAN_TDCR_DELAY n) (Reg.CAN_TDCR_SAT n) _ rfl (show 0 + 7 ≤ 7 by decide) (show 7 + 1 ≤ 32 by decide),
        hdelay]
    · next hlim => exact ⟨hdelay, fun h => absurd h hlim⟩
  · obtain rfl | hen := hno
    · rfl
    · cases delay with
      | none => rfl
      | some x =>
        have heq : canTdc d n b (some x) = d := if_neg (by rw [hen]; simp)
        rw [heq]

/-- A request of buffer `b` that has ended with an outcome (R325). -/
def RequestEnded (e : Die) (n b outcome : Nat) : Prop := flag e (Reg.TXB_CTL_REQ n b) = false ∧
  fld e (Reg.TXB_CTL_OUTCOME n b) = outcome ∧ flag e (Reg.CAN_STAT_TXDONE n) = true

theorem txbEnd_ended (d : Die) {n b outcome : Nat} (hn : n < 4) (hout : outcome < 8) (hoff : (canH d n).offered = some b) :
    RequestEnded (txbEnd d n b outcome) n b outcome ∧ (canH (txbEnd d n b outcome) n).offered = none ∧
    (canH (txbEnd d n b outcome) n).out = (canH d n).out := by
  have hcan : canH (txbDone d n b outcome) n = canH d n := rfl
  rw [txbEnd_eq, canH_updCan_same _ _ _ hn, hcan]
  exact ⟨txbDone_flags d outcome hout, if_pos hoff, rfl⟩

/-- The registers that the end of a request changes. -/
def endRegs (n b o : Nat) : Prop := o = Reg.TXB_CTL n b ∨ o = Reg.CAN_STAT n

/-- A frame that failed ends its request or is offered again (R325). -/
theorem txbFail_spec (d : Die) {n b : Nat} (hn : n < 4) (hst : canState d n ≠ 4) (hoff : (canH d n).offered = some b) :
    let e := txbFail d n b
    let aborts := vget false (canH d n).aborting b
    let once := flag d (Reg.TXB_CTL_ONESHOT n b)
    (aborts = true → RequestEnded e n b 2) ∧ (aborts = false → once = true → RequestEnded e n b 4) ∧
    (aborts = false → once = false → ∀ o, getReg e o = getReg d o) ∧ (canH e n).offered = none ∧
    (canH e n).out = (canH d n).out ∧ Leaves (endRegs n b) d e ∧ Keeps [.regs, .can] d e := by
  extract_lets e aborts once
  have heq : e = if aborts then txbEnd d n b 2 else if once then txbEnd d n b 4 else updCan d n fun h => { h with offered := none } :=
    if_neg hst
  cases haborts : aborts
  · cases honce : once
    · rw [haborts, honce] at heq
      have heq' : e = updCan d n fun h => { h with offered := none } := heq
      rw [heq', canH_updCan_same _ _ _ hn]
      exact ⟨fun h => absurd h (by decide), fun _ h => absurd h (by decide), fun _ _ _ => rfl, rfl, rfl,
        (leaves_updCan _ _ _ _).2 (.refl _ _), (keeps_updCan _ _ (by simp) _ _).2 (.refl _ _)⟩
    · rw [haborts, honce] at heq
      have heq' : e = txbEnd d n b 4 := heq
      obtain ⟨hend, hnone, hout⟩ := txbEnd_ended d hn (outcome := 4) (by decide) hoff
      rw [heq']
      exact ⟨fun h => absurd h (by decide), fun _ _ => hend, fun _ h => absurd h (by decide), hnone, hout, leaves_txbEnd d 4, keeps_txbEnd d 4⟩
  · rw [haborts] at heq
    have heq' : e = txbEnd d n b 2 := heq
    obtain ⟨hend, hnone, hout⟩ := txbEnd_ended d hn (outcome := 2) (by decide) hoff
    rw [heq']
    exact ⟨fun _ => hend, fun h => absurd h (by decide), fun h => absurd h (by decide), hnone, hout, leaves_txbEnd d 2, keeps_txbEnd d 2⟩

variable {how : CanTxHow} {tSof : QWord} {delay : Option Nat}

/-- The registers that a frame of buffer `b` may change at its end. -/
def txEndRegs (how : CanTxHow) (n b o : Nat) : Prop :=
  o = Reg.TXB_CTL n b ∨ o = Reg.CAN_STAT n ∨ o = Reg.CAN_TDCR n ∨ (how = .success ∧ (o = Reg.TXB_TS n b ∨ o = Reg.CAN_CNT_TXOK n)) ∨
    (how ≠ .lostArbitration ∧ o = Reg.CAN_ERR n)

/-- The frame's request has ended (R325). -/
def TxFinished (how : CanTxHow) (s : State) (n b : Nat) (t : State) (outcome : Nat) : Prop := flag t.die (Reg.TXB_CTL_REQ n b) = false ∧
  fld t.die (Reg.TXB_CTL_OUTCOME n b) = outcome ∧ flag t.die (Reg.CAN_STAT_TXDONE n) = true ∧
  (canH t.die n).offered = none ∧ keepsBut [.regs, .can] s t ∧ regsBut (txEndRegs how n b) s t

theorem txFinished_command {e : Die} {outcome : Nat} (hend : RequestEnded e n.val b outcome) (hoff : (canH e n.val).offered = none)
    (hk : Keeps [.regs, .can] (found s) e) (hl : Leaves (txEndRegs how n.val b) (found s) e) :
    TxFinished how s n.val b { s with die := irqSettle s.die e } outcome := by
  obtain ⟨hreq, hout, hdone⟩ := hend
  exact ⟨(flag_irqSettle ..).trans hreq, (fld_irqSettle ..).trans hout, (flag_irqSettle ..).trans hdone,
    (congrArg CanHid.offered (canH_irqSettle ..)).trans hoff, keepsBut_command hk, regsBut_command hl⟩

/-- The registers that the counters, the measurement and the error of a frame change. -/
def txFailRegs (how : CanTxHow) (n o : Nat) : Prop :=
  how ≠ .lostArbitration ∧ (o = Reg.CAN_ERR n ∨ o = Reg.CAN_STAT n ∨ o = Reg.CAN_TDCR n)

theorem txEndRegs_of_fail {o : Nat} (h : txFailRegs how n.val o) : txEndRegs how n.val b o := by
  obtain ⟨hhow, h | h | h⟩ := h
  · exact .inr (.inr (.inr (.inr ⟨hhow, h⟩)))
  · exact .inr (.inl h)
  · exact .inr (.inr (.inl h))

/-- A frame that failed: aborted, sent once, or pending again (R325). -/
theorem ends_failed {d : Die} {after : State → Prop} (hoff : (canH s.die n.val).offered = some b)
    (heq : canTxEnd n.val how tSof.toNat delay (found s) = txbFail d n.val b) (hst : canState d n.val ≠ 4)
    (hcan : (canH d n.val).offered = (canH s.die n.val).offered ∧ (canH d n.val).aborting = (canH s.die n.val).aborting)
    (hl : Leaves (txFailRegs how n.val) (found s) d) (hk : Keeps [.regs, .can] (found s) d)
    (hafter : ∀ e, Leaves (endRegs n.val b) d e → (canH e n.val).out = (canH d n.val).out →
      after { s with die := irqSettle s.die e }) :
    ends (.canTxEnd n how tSof delay) s fun t => after t ∧
      (vget false (canH s.die n.val).aborting b = true → TxFinished how s n.val b t 2) ∧
      (vget false (canH s.die n.val).aborting b = false → flag s.die (Reg.TXB_CTL_ONESHOT n.val b) = true → TxFinished how s n.val b t 4) ∧
      (vget false (canH s.die n.val).aborting b = false → flag s.die (Reg.TXB_CTL_ONESHOT n.val b) = false →
        (canH t.die n.val).offered = none ∧ flag t.die (Reg.TXB_CTL_REQ n.val b) = flag s.die (Reg.TXB_CTL_REQ n.val b) ∧
        keepsBut [.regs, .can] s t ∧ regsBut (txFailRegs how n.val) s t) := by
  obtain ⟨hoffered, habort⟩ := hcan
  obtain ⟨h2, h4, hagain, hnone, hout, hle, hke⟩ := txbFail_spec d n.isLt hst (hoffered.trans hoff)
  have htxb : ¬ txFailRegs how n.val (Reg.TXB_CTL n.val b) := by
    simp only [txFailRegs, Reg.TXB_CTL, Reg.CAN_ERR, Reg.CAN_STAT, Reg.CAN_TDCR]
    omega
  have honce : flag d (Reg.TXB_CTL_ONESHOT n.val b) = flag s.die (Reg.TXB_CTL_ONESHOT n.val b) :=
    flag_of_leaves hl (Reg.TXB_CTL_ONESHOT n.val b) htxb
  have hreq : flag d (Reg.TXB_CTL_REQ n.val b) = flag s.die (Reg.TXB_CTL_REQ n.val b) :=
    flag_of_leaves hl (Reg.TXB_CTL_REQ n.val b) htxb
  have hl' : Leaves (txEndRegs how n.val b) (found s) (txbFail d n.val b) :=
    (hl.mono fun _ h => txEndRegs_of_fail h).trans (hle.mono fun _ h => h.elim .inl fun h => .inr (.inl h))
  refine ends_of_onDie (f := canTxEnd n.val how tSof.toNat delay) rfl ?_
  rw [heq]
  rw [habort] at h2 h4 hagain
  rw [honce] at h4 hagain
  generalize txbFail d n.val b = e at h2 h4 hagain hnone hout hle hke hl'
  refine ⟨hafter e hle hout, fun h => txFinished_command (h2 h) hnone (hk.trans hke) hl',
    fun h h' => txFinished_command (h4 h h') hnone (hk.trans hke) hl', fun h h' => ?_⟩
  have hregs : Leaves (txFailRegs how n.val) (found s) e := fun o ho => (hagain h h' o).trans (hl o ho)
  refine ⟨(congrArg CanHid.offered (canH_irqSettle ..)).trans hnone, ?_, keepsBut_command (hk.trans hke), regsBut_command hregs⟩
  rw [flag_irqSettle, flag, fld, hagain h h', ← hreq]
  rfl

theorem ends_lost (hoff : (canH s.die n.val).offered = some b) (hst : canState s.die n.val ≠ 4) :
    ends (.canTxEnd n .lostArbitration tSof delay) s fun t => (getReg t.die (Reg.CAN_ERR n.val) = getReg s.die (Reg.CAN_ERR n.val) ∧
      getReg t.die (Reg.CAN_TDCR n.val) = getReg s.die (Reg.CAN_TDCR n.val)) ∧
      (vget false (canH s.die n.val).aborting b = true → TxFinished .lostArbitration s n.val b t 2) ∧
      (vget false (canH s.die n.val).aborting b = false → flag s.die (Reg.TXB_CTL_ONESHOT n.val b) = true →
        TxFinished .lostArbitration s n.val b t 4) ∧
      (vget false (canH s.die n.val).aborting b = false → flag s.die (Reg.TXB_CTL_ONESHOT n.val b) = false →
        (canH t.die n.val).offered = none ∧ flag t.die (Reg.TXB_CTL_REQ n.val b) = flag s.die (Reg.TXB_CTL_REQ n.val b) ∧
        keepsBut [.regs, .can] s t ∧ regsBut (txFailRegs .lostArbitration n.val) s t) := by
  have heq : canTxEnd n.val .lostArbitration tSof.toNat delay (found s) = txbFail (found s) n.val b := by
    rw [canTxEnd, show (canH (found s) n.val).offered = some b from hoff]
  refine ends_failed hoff heq hst ⟨rfl, rfl⟩ (.refl _ _) (.refl _ _) fun e hle _ => ?_
  have hplace : ¬ endRegs n.val b (Reg.CAN_ERR n.val) ∧ ¬ endRegs n.val b (Reg.CAN_TDCR n.val) := by
    simp only [endRegs, Reg.TXB_CTL, Reg.CAN_ERR, Reg.CAN_STAT, Reg.CAN_TDCR]
    omega
  exact ⟨(getReg_irqSettle ..).trans (hle _ hplace.1), (getReg_irqSettle ..).trans (hle _ hplace.2)⟩

theorem tdcr_ne (n b : Nat) : ¬ endRegs n b (Reg.CAN_TDCR n) ∧ ¬ canErrRegs n (Reg.CAN_TDCR n) ∧ Reg.TXB_TS n b ≠ Reg.CAN_TDCR n ∧
    Reg.CAN_CNT_TXOK n ≠ Reg.CAN_TDCR n ∧ Reg.CAN_ERR n ≠ Reg.CAN_TDCR n := by
  simp only [endRegs, canErrRegs, Reg.TXB_CTL, Reg.CAN_ERR, Reg.CAN_STAT, Reg.CAN_TDCR, Reg.TXB_TS, Reg.CAN_CNT_TXOK]
  omega

/-- The part with a frame sent, before its request ends. -/
def sentFrame (d : Die) (n b stamp : Nat) (delay : Option Nat) : Die :=
  incReg (putReg (canSentOk (canTdc d n b delay) n) (Reg.TXB_TS n b) (BitVec.ofNat 32 stamp)) (Reg.CAN_CNT_TXOK n)

/-- The registers that a frame sent changes before its request ends. -/
def sentRegs (n b o : Nat) : Prop := canErrRegs n o ∨ o = Reg.CAN_TDCR n ∨ o = Reg.TXB_TS n b ∨ o = Reg.CAN_CNT_TXOK n

theorem sentFrame_spec (d : Die) (n b stamp : Nat) (delay : Option Nat) :
    let e := sentFrame d n b stamp delay
    getReg e (Reg.TXB_TS n b) = BitVec.ofNat 32 stamp ∧
    getReg e (Reg.CAN_CNT_TXOK n) = BitVec.ofNat 32 (satInc 32 (getReg d (Reg.CAN_CNT_TXOK n)).toNat) ∧
    fld e (Reg.CAN_ERR_TEC n) = fld d (Reg.CAN_ERR_TEC n) - 1 ∧ Measured d n b delay e ∧ (∀ m, canH e m = canH d m) ∧
    Leaves (sentRegs n b) d e ∧ Keeps [.regs] d e := by
  extract_lets e
  have hplace : Reg.TXB_TS n b = 0x1104C + n * 0x400 + b * 0x50 ∧ Reg.CAN_CNT_TXOK n = 0x11024 + n * 0x400 ∧
      Reg.CAN_ERR n = 0x1100C + n * 0x400 ∧ Reg.CAN_TDCR n = 0x11018 + n * 0x400 ∧ Reg.CAN_STAT n = 0x11008 + n * 0x400 := ⟨rfl, rfl, rfl, rfl, rfl⟩
  obtain ⟨hts, hok, herr, htdcr, hstat⟩ := hplace
  obtain ⟨hl1, hk1⟩ := canTdc_frame d n b delay
  have hmeas := measured_canTdc d n b delay
  have htec1 : fld (canTdc d n b delay) (Reg.CAN_ERR_TEC n) = fld d (Reg.CAN_ERR_TEC n) := fld_of_leaves hl1 (Reg.CAN_ERR_TEC n) (by
    show ¬ Reg.CAN_ERR n = Reg.CAN_TDCR n
    omega)
  generalize hd1 : canTdc d n b delay = d1 at hl1 hk1 hmeas htec1
  obtain ⟨htec2, _⟩ := canCounters_spec d1 n (fld d1 (Reg.CAN_ERR_TEC n) - 1) (fld d1 (Reg.CAN_ERR_REC n))
  obtain ⟨hl2, hk2⟩ := canCounters_frame d1 n (fld d1 (Reg.CAN_ERR_TEC n) - 1) (fld d1 (Reg.CAN_ERR_REC n))
  have he : e = incReg (putReg (canCounters d1 n (fld d1 (Reg.CAN_ERR_TEC n) - 1) (fld d1 (Reg.CAN_ERR_REC n))) (Reg.TXB_TS n b)
      (BitVec.ofNat 32 stamp)) (Reg.CAN_CNT_TXOK n) := by
    rw [← hd1]
    rfl
  generalize canCounters d1 n (fld d1 (Reg.CAN_ERR_TEC n) - 1) (fld d1 (Reg.CAN_ERR_REC n)) = d2 at htec2 hl2 hk2 he
  have hother : ∀ o, o ≠ Reg.TXB_TS n b → o ≠ Reg.CAN_CNT_TXOK n → getReg e o = getReg d2 o := fun o h1 h2 => by
    rw [he, getReg_incReg_ne _ _ h2, getReg_putReg_ne _ _ h1]
  have hok2 : getReg d2 (Reg.CAN_CNT_TXOK n) = getReg d (Reg.CAN_CNT_TXOK n) :=
    (hl2 _ (by simp only [canErrRegs]; omega)).trans (hl1 _ (by omega))
  refine ⟨?_, ?_, ?_, hmeas.of_same ?_, fun m => ?_, ?_, ?_⟩
  · rw [he, getReg_incReg_ne _ _ (by omega), getReg_putReg_same]
  · rw [he, getReg_incReg_same, getReg_putReg_ne _ _ (by omega), hok2]
  · have hword : fld e (Reg.CAN_ERR_TEC n) = fld d2 (Reg.CAN_ERR_TEC n) := by
      rw [fld, hother (Reg.CAN_ERR_TEC n).off (show Reg.CAN_ERR n ≠ _ by omega) (show Reg.CAN_ERR n ≠ _ by omega), fld]
    have := tec_le d n
    rw [hword, htec2, htec1]
    omega
  · rw [hother _ (by omega) (by omega)]
    exact hl2 _ (by simp only [canErrRegs]; omega)
  · rw [he]
    exact (canH_of_keeps hk2 (by simp) m).trans (canH_of_keeps hk1 (by simp) m)
  · intro o ho
    simp only [sentRegs, not_or] at ho
    obtain ⟨hne, htd, hts', hok'⟩ := ho
    exact (hother o hts' hok').trans ((hl2 o hne).trans (hl1 o htd))
  · rw [he, keeps_incReg _ _ (by simp), keeps_putReg _ _ (by simp)]
    exact hk1.trans hk2

theorem ends_success (hoff : (canH s.die n.val).offered = some b) :
    ends (.canTxEnd n .success tSof delay) s fun t => TxFinished .success s n.val b t 1 ∧ Measured s.die n.val b delay t.die ∧
      (getReg t.die (Reg.TXB_TS n.val b)).toNat = (tSof.toNat - 50) / 1000 % 2 ^ 32 ∧
      getReg t.die (Reg.CAN_CNT_TXOK n.val) =
        BitVec.ofNat 32 (satInc 32 (getReg s.die (Reg.CAN_CNT_TXOK n.val)).toNat) ∧
      fld t.die (Reg.CAN_ERR_TEC n.val) = fld s.die (Reg.CAN_ERR_TEC n.val) - 1 := by
  have heq : canTxEnd n.val .success tSof.toNat delay (found s) =
      txbEnd (sentFrame (found s) n.val b (canStamp tSof.toNat) delay) n.val b 1 := by
    rw [canTxEnd, show (canH (found s) n.val).offered = some b from hoff]
    rfl
  obtain ⟨hts, hok, htec, hmeas, hcan, hl, hk⟩ := sentFrame_spec (found s) n.val b (canStamp tSof.toNat) delay
  refine ends_of_onDie (f := canTxEnd n.val .success tSof.toNat delay) rfl ?_
  rw [heq]
  generalize sentFrame (found s) n.val b (canStamp tSof.toNat) delay = d at hts hok htec hmeas hcan hl hk
  obtain ⟨hend, hnone, _⟩ := txbEnd_ended d n.isLt (outcome := 1) (by decide) (by rw [hcan]; exact hoff)
  have hle := leaves_txbEnd d (n := n.val) (b := b) 1
  have hke := keeps_txbEnd d (n := n.val) (b := b) 1
  have hplace : ¬ endRegs n.val b (Reg.TXB_TS n.val b) ∧ ¬ endRegs n.val b (Reg.CAN_CNT_TXOK n.val) ∧ ¬ endRegs n.val b (Reg.CAN_ERR n.val) := by
    simp only [endRegs, Reg.TXB_CTL, Reg.CAN_STAT, Reg.TXB_TS, Reg.CAN_CNT_TXOK, Reg.CAN_ERR]
    omega
  obtain ⟨hpts, hpok, hperr⟩ := hplace
  refine ⟨txFinished_command hend hnone ((hk.mono (by simp)).trans hke) ?_, (hmeas.of_same (hle _ (tdcr_ne n.val b).1)).of_same
    (getReg_irqSettle ..), ?_, (getReg_irqSettle ..).trans ((hle _ hpok).trans hok),
    (fld_irqSettle ..).trans ((fld_of_leaves hle (Reg.CAN_ERR_TEC n.val) hperr).trans htec)⟩
  · refine (hl.mono fun o ho => ?_).trans (hle.mono fun o ho => ho.elim .inl fun h => .inr (.inl h))
    obtain (h | h) | h | h | h := ho
    · exact .inr (.inr (.inr (.inr ⟨by simp, h⟩)))
    · exact .inr (.inl h)
    · exact .inr (.inr (.inl h))
    · exact .inr (.inr (.inr (.inl ⟨rfl, .inl h⟩)))
    · exact .inr (.inr (.inr (.inl ⟨rfl, .inr h⟩)))
  · rw [getReg_irqSettle, hle _ hpts, hts, BitVec.toNat_ofNat, canStamp, Nat.mod_mod]

/-- The kind of an error of the controller's own frame. -/
def ownError (exempt : Bool) : CanErr := if exempt then .exempt else .detected

theorem ownError_ne (exempt : Bool) : ownError exempt ≠ .overload ∧ ownError exempt ≠ .inFlag ∧
    (canSteps true (ownError exempt)).1 = (if exempt then 0 else 8) ∧ (canSteps true (ownError exempt)).2 = 0 := by
  cases exempt <;> exact ⟨by decide, by decide, rfl, rfl⟩

/-- A frame that met an error (R320, R325). -/
theorem canTxEnd_error {code : Fin 7} {exempt : Bool} (hoff : (canH s.die n.val).offered = some b) (hst : canState s.die n.val = 2) :
    canTxEnd n.val (.error code exempt) tSof.toNat delay (found s) = txbFail
      (if 255 < fld s.die (Reg.CAN_ERR_TEC n.val) + (if exempt then 0 else 8) then
        canBusOff (errorCounted (lecSet (canTdc (found s) n.val b delay) n.val code.val) n.val true (ownError exempt)) n.val
      else errorCounted (lecSet (canTdc (found s) n.val b delay) n.val code.val) n.val true (ownError exempt)) n.val b := by
  obtain ⟨hno, _, hsteps, _⟩ := ownError_ne exempt
  obtain ⟨_, _, _, _, herr⟩ := tdcr_ne n.val b
  have hl := (canTdc_frame (found s) n.val b delay).1
  have hstat : Reg.CAN_STAT n.val ≠ Reg.CAN_TDCR n.val := by
    simp only [Reg.CAN_STAT, Reg.CAN_TDCR]
    omega
  have hst' : canState (canTdc (found s) n.val b delay) n.val = 2 := (fld_of_leaves hl (Reg.CAN_STAT_STATE n.val) hstat).trans hst
  have htec : fld (canTdc (found s) n.val b delay) (Reg.CAN_ERR_TEC n.val) = fld s.die (Reg.CAN_ERR_TEC n.val) :=
    fld_of_leaves hl (Reg.CAN_ERR_TEC n.val) herr
  rw [canTxEnd, show (canH (found s) n.val).offered = some b from hoff]
  show txbFail (canError (canTdc (found s) n.val b delay) n.val code.val true (ownError exempt)) n.val b = _
  rw [canError_active hst' _ _ hno, canActiveError_eq, (lecSet_spec _ n.val code.val).1, htec, hsteps]

theorem ends_txError {code : Fin 7} {exempt : Bool} (hoff : (canH s.die n.val).offered = some b) (hst : canState s.die n.val = 2)
    (hle : fld s.die (Reg.CAN_ERR_TEC n.val) + (if exempt then 0 else 8) ≤ 255) :
    ends (.canTxEnd n (.error code exempt) tSof delay) s fun t => (Measured s.die n.val b delay t.die ∧
        fld t.die (Reg.CAN_ERR_TEC n.val) = fld s.die (Reg.CAN_ERR_TEC n.val) + (if exempt then 0 else 8) ∧
        fld t.die (Reg.CAN_ERR_REC n.val) = fld s.die (Reg.CAN_ERR_REC n.val) ∧
        (code.val ≠ 0 → fld t.die (Reg.CAN_ERR_LEC n.val) = code.val) ∧
        (canH t.die n.val).out = some (.errorFlag (flag s.die (Reg.CAN_ERR_EP n.val)))) ∧
      (vget false (canH s.die n.val).aborting b = true → TxFinished (.error code exempt) s n.val b t 2) ∧
      (vget false (canH s.die n.val).aborting b = false → flag s.die (Reg.TXB_CTL_ONESHOT n.val b) = true →
        TxFinished (.error code exempt) s n.val b t 4) ∧
      (vget false (canH s.die n.val).aborting b = false → flag s.die (Reg.TXB_CTL_ONESHOT n.val b) = false →
        (canH t.die n.val).offered = none ∧ flag t.die (Reg.TXB_CTL_REQ n.val b) = flag s.die (Reg.TXB_CTL_REQ n.val b) ∧
        keepsBut [.regs, .can] s t ∧ regsBut (txFailRegs (.error code exempt) n.val) s t) := by
  have heq := canTxEnd_error (tSof := tSof) (delay := delay) (code := code) (exempt := exempt) hoff hst
  rw [if_neg (by omega)] at heq
  obtain ⟨_, hin, hs1, hs2⟩ := ownError_ne exempt
  obtain ⟨_, htdcr, _, _, herr⟩ := tdcr_ne n.val b
  obtain ⟨hl0, hk0⟩ := canTdc_frame (found s) n.val b delay
  have hmeas := measured_canTdc (found s) n.val b delay
  obtain ⟨htec, hrec, _, hlec, hstate, hown, _, hl, hk⟩ := errorCounted_lec_spec (canTdc (found s) n.val b delay) n.isLt (code := code.val) (by omega)
    true (ownError exempt)
  have hstat : Reg.CAN_STAT n.val ≠ Reg.CAN_TDCR n.val := by
    simp only [Reg.CAN_STAT, Reg.CAN_TDCR]
    omega
  have hst0 : canState (canTdc (found s) n.val b delay) n.val = 2 := (fld_of_leaves hl0 (Reg.CAN_STAT_STATE n.val) hstat).trans hst
  have hword : ∀ f : Fld, f.off = Reg.CAN_ERR n.val → fld (canTdc (found s) n.val b delay) f = fld s.die f := fun f hf =>
    fld_of_leaves hl0 f (hf ▸ herr)
  have hafter : afterError (canTdc (found s) n.val b delay) n.val (ownError exempt) =
      { canH s.die n.val with out := some (.errorFlag (flag s.die (Reg.CAN_ERR_EP n.val))) } := by
    rw [afterError, if_neg hin, canH_of_keeps hk0 (by simp), flag, hword (Reg.CAN_ERR_EP n.val) rfl]
    rfl
  rw [hs1, hword (Reg.CAN_ERR_TEC n.val) rfl] at htec
  rw [hs2, hword (Reg.CAN_ERR_REC n.val) rfl] at hrec
  rw [hafter] at hown
  have hmeas' := hmeas.of_same (hl _ htdcr)
  have hlall : Leaves (txFailRegs (.error code exempt) n.val) (found s)
      (errorCounted (lecSet (canTdc (found s) n.val b delay) n.val code.val) n.val true (ownError exempt)) :=
    (hl0.mono fun o ho => ⟨by simp, .inr (.inr ho)⟩).trans (hl.mono fun o ho => ⟨by simp, ho.elim .inl fun h => .inr (.inl h)⟩)
  have hkall := (hk0.mono (qs := [.regs, .can]) (by simp)).trans hk
  generalize errorCounted (lecSet (canTdc (found s) n.val b delay) n.val code.val) n.val true (ownError exempt) = d at *
  refine ends_failed hoff heq (by rw [hstate, hst0]; decide) ⟨by rw [hown], by rw [hown]⟩ hlall hkall fun e hle' hout => ?_
  have hperr : ¬ endRegs n.val b (Reg.CAN_ERR n.val) := by
    simp only [endRegs, Reg.TXB_CTL, Reg.CAN_STAT, Reg.CAN_ERR]
    omega
  have hfe : ∀ f : Fld, f.off = Reg.CAN_ERR n.val → fld e f = fld d f := fun f hf => fld_of_leaves hle' f (hf ▸ hperr)
  have := rec_le s.die n.val
  refine ⟨(hmeas'.of_same (hle' _ (tdcr_ne n.val b).1)).of_same (getReg_irqSettle ..), ?_, ?_, fun hc => ?_, ?_⟩
  · rw [fld_irqSettle, hfe _ rfl, htec]
    omega
  · rw [fld_irqSettle, hfe _ rfl, hrec]
    omega
  · rw [fld_irqSettle, hfe _ rfl, hlec hc]
  · rw [canH_irqSettle, hout, hown]

theorem ends_txBusOff {code : Fin 7} {exempt : Bool} (hb : b < 3) (hoff : (canH s.die n.val).offered = some b) (hst : canState s.die n.val = 2)
    (hgt : 255 < fld s.die (Reg.CAN_ERR_TEC n.val) + (if exempt then 0 else 8)) :
    ends (.canTxEnd n (.error code exempt) tSof delay) s fun t => Measured s.die n.val b delay t.die ∧ canState t.die n.val = 4 ∧
        (canH t.die n.val).offered = none ∧ (flag s.die (Reg.TXB_CTL_REQ n.val b) = true →
          flag t.die (Reg.TXB_CTL_REQ n.val b) = false ∧ fld t.die (Reg.TXB_CTL_OUTCOME n.val b) = 3) ∧
        keepsBut [.regs, .can, .lgb] s t := by
  have heq := canTxEnd_error (tSof := tSof) (delay := delay) (code := code) (exempt := exempt) hoff hst
  rw [if_pos hgt] at heq
  obtain ⟨hl0, hk0⟩ := canTdc_frame (found s) n.val b delay
  have hmeas := measured_canTdc (found s) n.val b delay
  obtain ⟨hstate, _, _, hreq, hnone, htdcr, hk⟩ := busOff_lec_spec (canTdc (found s) n.val b delay) n.isLt (code := code.val) true (ownError exempt)
  have htxb : ¬ Reg.TXB_CTL n.val b = Reg.CAN_TDCR n.val := by
    simp only [Reg.TXB_CTL, Reg.CAN_TDCR]
    omega
  have hmeas' := hmeas.of_same htdcr
  have hreq0 : flag (canTdc (found s) n.val b delay) (Reg.TXB_CTL_REQ n.val b) = flag s.die (Reg.TXB_CTL_REQ n.val b) :=
    flag_of_leaves hl0 (Reg.TXB_CTL_REQ n.val b) htxb
  have hkall := (hk0.mono (qs := [.regs, .can, .lgb]) (by simp)).trans hk
  generalize canBusOff (errorCounted (lecSet (canTdc (found s) n.val b delay) n.val code.val) n.val true (ownError exempt)) n.val = d at *
  rw [txbFail, if_pos hstate] at heq
  refine ends_of_onDie (f := canTxEnd n.val (.error code exempt) tSof.toNat delay) rfl ?_
  rw [heq]
  refine ⟨hmeas'.of_same (getReg_irqSettle ..), (canState_irqSettle ..).trans hstate, (congrArg CanHid.offered (canH_irqSettle ..)).trans hnone,
    fun h => ?_, keepsBut_command hkall⟩
  obtain ⟨hr, ho⟩ := hreq b hb (hreq0.trans h)
  exact ⟨(flag_irqSettle ..).trans hr, (fld_irqSettle ..).trans ho⟩

end Transmission

/-- Settles O46: the buffer offered is the least of the pending ones, and the end of its frame by success, loss or error. -/
theorem canTransmission : Obligations.CanTransmission := by
  refine ⟨fun _ _ _ hpow hst hoff hwait hb hreq => ends_txStart hpow hst hoff hwait hb hreq, ?_⟩
  intro s n b how tSof delay hb hoff
  refine ⟨fun h => ?_, fun h hst => ?_, fun code exempt h hst => ?_⟩
  · subst h
    exact ends_success hoff
  · subst h
    exact ends_lost hoff hst
  · subst h
    exact ⟨fun hle => ends_txError hoff hst hle, fun hgt => ends_txBusOff hb hoff hst hgt⟩

end Sys2Proof.Machine
end

section
/-! PROOFS. The events of the step generators (R192, R193, R195, R198, R200). -/

namespace Sys2Proof.Machine

open Sys2Proof

/-! A turn of one channel. -/

/-- A channel's turn in the step clock: the other channels, the clock and the rest of the part stand. -/
structure InTurn (n : Nat) (c d : Die) : Prop where
  within : InChannel n c d
  clock : d.stpClk = c.stpClk

theorem InTurn.refl (n : Nat) (d : Die) : InTurn n d d := ⟨⟨.refl _ _, .refl _ _, fun _ _ => rfl⟩, rfl⟩

theorem InTurn.trans {n : Nat} {c d e : Die} (h : InTurn n c d) (h' : InTurn n d e) : InTurn n c e :=
  ⟨h.within.trans h'.within, h'.clock.trans h.clock⟩

section Turn

variable (d : Die) {n : Nat}

theorem inTurn_updStp (f : StepCh → StepCh) : InTurn n d (updStp d n f) :=
  ⟨⟨.of_regs rfl, by simp, fun _ hm => stpH_updStp_ne _ _ hm⟩, rfl⟩

theorem inTurn_setFld {f : Fld} (h : stepBlock n f.off) (v : Nat) : InTurn n d (setFld d f v) :=
  ⟨⟨(leaves_setFld (p := stepBlock n) _ _ h _).2 (.refl _ _), by simp, fun _ _ => rfl⟩, rfl⟩

theorem inTurn_putI64 {o : Nat} (h : stepBlock n o) (h' : stepBlock n (o + 4)) (x : Int) : InTurn n d (putI64 d o x) :=
  ⟨⟨(leaves_put64 (p := stepBlock n) _ _ h h' _).2 (.refl _ _), by simp [putI64], fun _ _ => rfl⟩, rfl⟩

theorem block_stat (n : Nat) : stepBlock n (Reg.STP_STAT n) := by simp only [Reg.STP_STAT, stepBlock]; omega

theorem block_pos (n : Nat) : stepBlock n (Reg.STP_POS n) ∧ stepBlock n (Reg.STP_POS n + 4) := by
  simp only [Reg.STP_POS, stepBlock]
  omega

theorem inTurn_putActive (b : Bool) : InTurn n d (putActive d n b) :=
  inTurn_setFld d (f := Reg.STP_STAT_ACTIVE n) (block_stat n) (b2n b)

theorem inTurn_applyWord (w : Int) : InTurn n d (applyWord d n w) := by
  unfold applyWord
  extract_lets h e
  have he : InTurn n d e := inTurn_putActive d _
  split
  · exact he.trans (inTurn_updStp e _)
  · exact he.trans (inTurn_updStp e _)

theorem inTurn_stepHomeGo (st : Nat) (w : Int) : InTurn n d (stepHomeGo d n st w) := by
  have h : InTurn n d (setFld d (Reg.STP_STAT_HM_STATE n) st) := inTurn_setFld d (f := Reg.STP_STAT_HM_STATE n) (block_stat n) st
  exact (h.trans (inTurn_updStp _ _)).trans (inTurn_applyWord _ w)

theorem stpClk_hwPut64 (o : Nat) (x : Int) : (hwPut64 d o x).stpClk = d.stpClk := by
  have h : ∀ (d : Die) (o : Nat) (w : Word), (hwPut d o w).stpClk = d.stpClk := fun d o w => by
    unfold hwPut axMark
    split <;> rfl
  rw [hwPut64, h, h]

theorem stpClk_complete (t st r0 r1 : Nat) : (complete d t st r0 r1).stpClk = d.stpClk := by
  unfold complete
  split <;> rfl

theorem inTurn_chanStop (hn : n < 32) (moving : Bool) : InTurn n d (chanStop d n moving) := by
  refine ⟨inChannel_chanStop d hn moving, ?_⟩
  have hclock : (chanStop d n moving).stpClk = (hwPut64 (stopMarks d n moving) (Reg.STP_VEL n) 0).stpClk := rfl
  rw [hclock, stpClk_hwPut64]
  unfold stopMarks
  split <;> rfl

theorem inTurn_stepHomeEnd (hn : n < 32) (status outcome : Nat) : InTurn n d (stepHomeEnd d n status outcome) := by
  refine ⟨inChannel_stepHomeEnd d hn status outcome, ?_⟩
  have hclock : (stepHomeEnd d n status outcome).stpClk = (homeEndRegs d n status outcome).stpClk := rfl
  rw [hclock, ← stpClk_complete d (stpH d n).hmTicket status outcome 0]
  unfold homeEndRegs
  extract_lets e
  have hput : ∀ (c : Die) (b : Bool), (putActive c n b).stpClk = c.stpClk := fun _ _ => rfl
  rw [hput]
  split
  · rfl
  · rw [stpClk_hwPut64]
    rfl

/-- The homing sequencer acts on its channel (R200). -/
theorem inTurn_stepHoming (hn : n < 32) : InTurn n d (stepHoming d n) := by
  unfold stepHoming
  split
  · exact .refl _ _
  · extract_lets h search dir vs vc hm e1 e2
    split
    · exact (inTurn_chanStop d hn _).trans (inTurn_stepHomeEnd _ hn _ _)
    · split
      · split
        · exact inTurn_stepHomeGo d _ _
        · exact inTurn_stepHomeGo d _ _
      · split
        · exact inTurn_stepHomeGo d _ _
        · exact .refl _ _
      · split
        · exact inTurn_updStp d _
        · split
          · split
            · exact inTurn_stepHomeGo d _ _
            · exact inTurn_updStp d _
          · split
            · exact inTurn_stepHomeGo d _ _
            · exact .refl _ _
      · split
        · have h1 : InTurn n d e1 := inTurn_putI64 d (block_pos n).1 (block_pos n).2 _
          have h2 : InTurn n e1 e2 := inTurn_setFld e1 (f := Reg.STP_STAT_UNSURE n) (block_stat n) 0
          exact (h1.trans h2).trans (inTurn_stepHomeEnd _ hn _ _)
        · exact .refl _ _

/-! One clock of a channel. -/

/-- The velocity word that a write or the gear left comes into force. -/
def clockVel (d : Die) (n : Nat) : Die :=
  if (stpH d n).velDue then
    applyWord (updStp d n fun h => { h with velDue := false }) n (if stpMode d n = 1 then velWord d n else 0)
  else d

/-- The times of the pulse and of a reversal run. -/
def clockTimes (d : Die) (n : Nat) : Die :=
  updStp d n fun h =>
    { h with high := if h.step then h.high - 1 else h.high, lowFor := if h.step then 0 else min 10 (h.lowFor + 1),
             rev := match h.rev with
               | .setup (k + 1) => .setup k
               | r => r }

/-- A pulse that is due comes nearer, or rises. -/
def clockRise (d : Die) (n : Nat) : Die :=
  match (stpH d n).rise with
  | some 1 => stepRise d n
  | some (k + 1) => updStp d n fun h => { h with rise := some k }
  | _ => d

/-- The accumulator adds its word. -/
def clockAdd (d : Die) (n : Nat) : Die :=
  if stpMode d n = 2 ∨ stpMode d n = 0 ∨ ((stpH d n).rev ≠ .none ∧ (stpH d n).rev ≠ .setup 0) then d else
  updStp d n fun h => { h with acc := ((stpH d n).acc + (stpH d n).word.natAbs) % 2 ^ 48,
                               carryDue := h.carryDue || 2 ^ 48 ≤ (stpH d n).acc + (stpH d n).word.natAbs }

theorem chanClock_eq (n : Nat) : chanClock d n = clockAdd (clockRise (clockTimes (clockVel d n) n) n) n := rfl

/-- The part once a step has moved the position of its channel. -/
def posMoved (d : Die) (n : Nat) : Die :=
  putI64 d (Reg.STP_POS n) (getI64 d (Reg.STP_POS n) + (if flag d (Reg.STP_STAT_DIR n) then -1 else 1))

theorem stepRise_eq (n : Nat) : stepRise d n = updStp (posMoved d n) n fun h =>
    { h with rise := none, step := true, high := fld (posMoved d n) (Reg.STP_CFG_PW n),
             hmSteps := h.hmSteps + 1, hmBack := h.hmBack.map (· + 1) } := rfl

theorem inTurn_posMoved : InTurn n d (posMoved d n) := inTurn_putI64 d (block_pos n).1 (block_pos n).2 _

theorem inTurn_stepRise : InTurn n d (stepRise d n) := by
  rw [stepRise_eq]
  exact (inTurn_posMoved d).trans (inTurn_updStp _ _)

theorem inTurn_clockRise : InTurn n d (clockRise d n) := by
  unfold clockRise
  split
  · exact inTurn_stepRise d
  · exact inTurn_updStp d _
  · exact .refl _ _

theorem inTurn_chanClock : InTurn n d (chanClock d n) := by
  rw [chanClock_eq]
  have h1 : InTurn n d (clockVel d n) := by
    unfold clockVel
    split
    · exact (inTurn_updStp d _).trans (inTurn_applyWord _ _)
    · exact .refl _ _
  have h2 : InTurn n (clockVel d n) (clockTimes (clockVel d n) n) := inTurn_updStp _ _
  refine ((h1.trans h2).trans (inTurn_clockRise _)).trans ?_
  unfold clockAdd
  split
  · exact .refl _ _
  · exact inTurn_updStp _ _

end Turn

/-! What is due before the clock. -/

/-- What a channel fires (R192, R193, R195). -/
def fireAll (d : Die) (n : Nat) : Die := fireResume (fireDir (firePulseEnd (fireCarry d n) n) n) n

section Fire

variable (d : Die) {n : Nat}

theorem inTurn_fireDir : InTurn n d (fireDir d n) := by
  unfold fireDir
  extract_lets h e
  split
  · exact (inTurn_setFld d (f := Reg.STP_STAT_DIR n) (block_stat n) _).trans (inTurn_updStp e _)
  · exact .refl _ _

theorem inTurn_fireAll : InTurn n d (fireAll d n) := by
  have h1 : InTurn n d (fireCarry d n) := by
    unfold fireCarry
    split
    · exact inTurn_updStp d _
    · exact .refl _ _
  have h2 : ∀ d, InTurn n d (firePulseEnd d n) := fun d => by
    unfold firePulseEnd
    split
    · exact inTurn_updStp d _
    · exact .refl _ _
  have h4 : ∀ d, InTurn n d (fireResume d n) := fun d => by
    unfold fireResume
    split
    · exact inTurn_updStp d _
    · exact .refl _ _
  exact ((h1.trans (h2 _)).trans (inTurn_fireDir _)).trans (h4 _)

/-- A channel with nothing due fires nothing. -/
theorem fireAll_quiet (hcarry : (stpH d n).carryDue = false) (hstep : (stpH d n).step = false) (hrev : (stpH d n).rev = .none) :
    fireAll d n = d := by
  have h1 : fireCarry d n = d := if_neg (by rw [hcarry]; decide)
  have h2 : firePulseEnd d n = d := if_neg (by rw [hstep, Bool.false_and]; decide)
  have h3 : fireDir d n = d := if_neg (by rw [hrev]; simp)
  have h4 : fireResume d n = d := if_neg (by rw [hrev]; simp)
  rw [fireAll, h1, h2, h3, h4]

/-- The lead of a group with no carry fires nothing. -/
theorem fireLead_quiet {g : Nat} (h : (grpH d g).carryDue = false) : fireLead d g = d := if_pos (by rw [h]; rfl)

theorem foldl_fireLead_quiet (l : List Nat) (h : ∀ g ∈ l, (grpH d g).carryDue = false) : l.foldl fireLead d = d := by
  induction l with
  | nil => rfl
  | cons g l ih =>
    rw [List.foldl_cons, fireLead_quiet d (h g (by simp))]
    exact ih fun k hk => h k (by simp [hk])

end Fire

/-! Turns of all the channels. -/

/-- What the turns of other channels leave of channel `n`. -/
structure Spared (n : Nat) (c d : Die) : Prop where
  regs : ∀ o, stepBlock n o → getReg d o = getReg c o
  keeps : Keeps [.regs, .held, .stp, .host] c d
  channel : stpH d n = stpH c n
  clock : d.stpClk = c.stpClk

theorem Spared.refl (n : Nat) (d : Die) : Spared n d d := ⟨fun _ _ => rfl, .refl _ _, rfl, rfl⟩

theorem Spared.trans {n : Nat} {c d e : Die} (h : Spared n c d) (h' : Spared n d e) : Spared n c e :=
  ⟨fun o ho => (h'.regs o ho).trans (h.regs o ho), h.keeps.trans h'.keeps, h'.channel.trans h.channel, h'.clock.trans h.clock⟩

theorem spared_of_inTurn {m n : Nat} {c d : Die} (h : InTurn m c d) (hmn : m ≠ n) : Spared n c d :=
  ⟨fun o ho => h.within.regs o (stepBlock_disjoint hmn ho), h.within.keeps, h.within.others n hmn.symm, h.clock⟩

/-- Where every other channel's turn is its own, the turns amount to the one of channel `n`. -/
theorem foldl_turns {f : Die → Nat → Die} {n : Nat} (hturn : ∀ d m, m < 32 → InTurn m d (f d m)) (l : List Nat) (hl : ∀ m ∈ l, m < 32)
    (hnodup : l.Nodup) (d : Die) :
    (n ∉ l → Spared n d (l.foldl f d)) ∧
    (n ∈ l → ∃ e, Spared n d e ∧ Spared n (f e n) (l.foldl f d)) := by
  induction l generalizing d with
  | nil => exact ⟨fun _ => .refl _ _, fun h => absurd h List.not_mem_nil⟩
  | cons m l ih =>
    obtain ⟨hm, hl'⟩ := List.nodup_cons.1 hnodup
    obtain ⟨hout, hin⟩ := ih (fun k hk => hl k (by simp [hk])) hl' (f d m)
    have hstep := hturn d m (hl m (by simp))
    rw [List.foldl_cons]
    refine ⟨fun h => ?_, fun h => ?_⟩
    · obtain ⟨hne, hnot⟩ := not_or.1 (fun h' => h (List.mem_cons.2 h'))
      exact (spared_of_inTurn hstep (Ne.symm hne)).trans (hout hnot)
    · by_cases hmn : m = n
      · subst hmn
        exact ⟨d, .refl _ _, hout hm⟩
      · obtain ⟨e, hde, hed⟩ := hin ((List.mem_cons.1 h).resolve_left (Ne.symm hmn))
        exact ⟨e, (spared_of_inTurn hstep hmn).trans hde, hed⟩

/-! A channel that runs at its rate. -/

theorem getI64_putI64 (d : Die) (o : Nat) (x : Int) : getI64 (putI64 d o x) o = wrapS 64 x := by
  rw [getI64, putI64, get64_put64, wrapS, sext, Nat.mod_mod, ← sext]

/-- A channel in VEL mode between two steps. -/
structure Rating (d : Die) (n : Nat) : Prop where
  on : stpOn d n = true
  declared : flag d (Reg.STP_CFG_DECL n) = true
  mode : stpMode d n = 1
  velDue : (stpH d n).velDue = false
  carryDue : (stpH d n).carryDue = false
  step : (stpH d n).step = false
  rev : (stpH d n).rev = .none

theorem fld_of_spared {n : Nat} {c d : Die} (h : Spared n c d) {f : Fld} (hf : stepBlock n f.off) : fld d f = fld c f := by
  rw [fld, h.regs _ hf, fld]

theorem block_cfg (n : Nat) : stepBlock n (Reg.STP_CFG n) ∧ stepBlock n (Reg.STP_MODE n) := by
  simp only [Reg.STP_CFG, Reg.STP_MODE, stepBlock]
  omega

theorem Rating.of_spared {n : Nat} {c d : Die} (h : Rating c n) (hs : Spared n c d) : Rating d n := by
  have hpwr : d.pwr = c.pwr := hs.keeps .pwr (by simp)
  obtain ⟨hon, hdecl, hmode, hvel, hcarry, hstep, hrev⟩ := h
  refine ⟨?_, (congrArg (· == 1) (fld_of_spared hs (f := Reg.STP_CFG_DECL n) (block_cfg n).1)).trans hdecl,
    (fld_of_spared hs (f := Reg.STP_MODE_MODE n) (block_cfg n).2).trans hmode, ?_, ?_, ?_, ?_⟩
  · rw [stpOn, powered, hpwr]
    exact hon
  all_goals rw [hs.channel]; assumption

/-- A turn of a channel in the step clock. -/
def chanTurn (d : Die) (n : Nat) : Die :=
  if stpOn d n && flag d (Reg.STP_CFG_DECL n) then stepHoming (chanClock d n) n else d

theorem inTurn_chanTurn (d : Die) {n : Nat} (hn : n < 32) : InTurn n d (chanTurn d n) := by
  unfold chanTurn
  split
  · exact (inTurn_chanClock d).trans (inTurn_stepHoming _ hn)
  · exact .refl _ _

/-- A channel before its accumulator adds its word. -/
def risen (d : Die) (n : Nat) : Die := clockRise (clockTimes d n) n

theorem fld_of_inTurn_mode {d : Die} {n : Nat} : stpMode (risen d n) n = stpMode d n ∧
    fld (posMoved (clockTimes d n) n) (Reg.STP_CFG_PW n) = fld d (Reg.STP_CFG_PW n) := by
  have hpos : ∀ (e : Die) (f : Fld), f.off = Reg.STP_MODE n ∨ f.off = Reg.STP_CFG n → fld (posMoved e n) f = fld e f := fun e f hf => by
    have hl : Leaves (fun o => o = Reg.STP_POS n ∨ o = Reg.STP_POS n + 4) e (posMoved e n) :=
      (leaves_put64 (p := fun o => o = Reg.STP_POS n ∨ o = Reg.STP_POS n + 4) _ _ (.inl rfl) (.inr rfl) _).2 (.refl _ _)
    refine fld_of_leaves hl f ?_
    simp only [Reg.STP_MODE, Reg.STP_CFG, Reg.STP_POS] at hf ⊢
    omega
  refine ⟨?_, hpos _ _ (.inr rfl)⟩
  have hupd : ∀ (e : Die) (g : StepCh → StepCh), stpMode (updStp e n g) n = stpMode e n := fun _ _ => rfl
  unfold risen clockRise
  split
  · rw [stepRise_eq, hupd]
    exact hpos _ (Reg.STP_MODE_MODE n) (.inl rfl)
  · exact hupd _ _
  · rfl

/-- What the rise of a step makes of a channel (R193). -/
theorem risen_spec {d : Die} {n : Nat} (hn : n < 32) (h : Rating d n) : (stpH (risen d n) n).acc = (stpH d n).acc ∧
    (stpH (risen d n) n).word = (stpH d n).word ∧ (stpH (risen d n) n).rev = .none ∧ (stpH (risen d n) n).carryDue = false ∧
    ((stpH d n).rise = none → (stpH (risen d n) n).step = false) ∧
    ((stpH d n).rise = some 1 → (stpH (risen d n) n).step = true ∧ (stpH (risen d n) n).high = fld d (Reg.STP_CFG_PW n) ∧
      getI64 (risen d n) (Reg.STP_POS n) = wrapS 64 (getI64 d (Reg.STP_POS n) + (if flag d (Reg.STP_STAT_DIR n) then -1 else 1))) := by
  obtain ⟨_, _, _, _, hcarry, hstep, hrev⟩ := h
  have hsame : stpH (clockTimes d n) n = { stpH d n with lowFor := min 10 ((stpH d n).lowFor + 1) } := by
    rw [clockTimes, stpH_updStp_same _ _ _ hn]
    simp only [hstep, hrev, Bool.false_eq_true, if_false]
  have hpos : stpH (posMoved (clockTimes d n) n) n = stpH (clockTimes d n) n := rfl
  unfold risen clockRise
  split
  · next h1 =>
    rw [hsame] at h1
    have hi64 : ∀ (e : Die) (g : StepCh → StepCh) (o : Nat), getI64 (updStp e n g) o = getI64 e o := fun _ _ _ => rfl
    rw [stepRise_eq, stpH_updStp_same _ _ _ hn, hpos, hsame, hi64, fld_of_inTurn_mode.2]
    exact ⟨rfl, rfl, hrev, hcarry, fun h => absurd (h1.symm.trans h) (by simp), fun _ => ⟨rfl, rfl, getI64_putI64 ..⟩⟩
  · next k hk h1 =>
    rw [hsame] at h1
    rw [stpH_updStp_same _ _ _ hn, hsame]
    refine ⟨rfl, rfl, hrev, hcarry, fun _ => hstep, fun h => ?_⟩
    have hk0 := Option.some.inj (h1.symm.trans h)
    exact absurd (by omega) hk
  · next hno hno' =>
    rw [hsame]
    refine ⟨rfl, rfl, hrev, hcarry, fun _ => hstep, fun h => absurd (by rw [hsame]; exact h) hno⟩

/-- One clock of a channel that runs at its rate (R192, R193). -/
theorem chanTurn_spec {d : Die} {n : Nat} (hn : n < 32) (h : Rating d n) :
    (stpH (chanTurn d n) n).acc = ((stpH d n).acc + (stpH d n).word.natAbs) % 2 ^ 48 ∧
    (stpH (chanTurn d n) n).carryDue = decide (2 ^ 48 ≤ (stpH d n).acc + (stpH d n).word.natAbs) ∧
    ((stpH d n).rise = none → (stpH (chanTurn d n) n).step = false) ∧
    ((stpH d n).rise = some 1 → (stpH (chanTurn d n) n).step = true ∧
      (stpH (chanTurn d n) n).high = fld d (Reg.STP_CFG_PW n) ∧
      getI64 (chanTurn d n) (Reg.STP_POS n) = wrapS 64 (getI64 d (Reg.STP_POS n) +
        (if flag d (Reg.STP_STAT_DIR n) then -1 else 1))) := by
  obtain ⟨hacc, hword, hrev, hcarry, hnone, hrise⟩ := risen_spec hn h
  have hmode : stpMode (risen d n) n = 1 := fld_of_inTurn_mode.1.trans h.mode
  have hvel : clockVel d n = d := if_neg (by rw [h.velDue]; decide)
  have hadd : clockAdd (risen d n) n = updStp (risen d n) n fun h =>
      { h with acc := ((stpH (risen d n) n).acc + (stpH (risen d n) n).word.natAbs) % 2 ^ 48,
               carryDue := h.carryDue || 2 ^ 48 ≤ (stpH (risen d n) n).acc + (stpH (risen d n) n).word.natAbs } :=
    if_neg (by rw [hmode, hrev]; simp)
  have hclock : chanClock d n = clockAdd (risen d n) n := by
    rw [chanClock_eq, hvel]
    rfl
  have hno : stepHoming (chanClock d n) n = chanClock d n := if_pos (by
    rw [hclock, hadd]
    show stpMode (risen d n) n ≠ 3
    rw [hmode]
    decide)
  have hturn : chanTurn d n = clockAdd (risen d n) n := by
    rw [chanTurn, h.on, h.declared, Bool.and_self, if_pos rfl, hno, hclock]
  have hown := stpH_updStp_same (risen d n) n (fun h =>
      { h with acc := ((stpH (risen d n) n).acc + (stpH (risen d n) n).word.natAbs) % 2 ^ 48,
               carryDue := h.carryDue || 2 ^ 48 ≤ (stpH (risen d n) n).acc + (stpH (risen d n) n).word.natAbs }) hn
  have hi64 : ∀ (e : Die) (g : StepCh → StepCh) (o : Nat), getI64 (updStp e n g) o = getI64 e o := fun _ _ _ => rfl
  rw [hturn, hadd, hown, hi64, hacc, hword]
  refine ⟨rfl, ?_, hnone, hrise⟩
  simp only [hcarry, Bool.false_or]

/-! The step clock (R192). -/

/-- What is due has been done. -/
def fired (d : Die) : Die := (upto 32).foldl fireAll ((upto 8).foldl fireLead d)

/-- The instant of the next clock. -/
def clockAt (d : Die) : Nat := max d.stpClk (10 * cdiv d.tb.gt 10)

/-- GT has come to the clock. -/
def clocked (d : Die) : Die := { toGt d (clockAt d) with stpClk := clockAt d + 10 }

/-- The leads have had their clock. -/
def ledGroups (d : Die) : Die := (upto 8).foldl (fun d g => if powered d 72 then leadClock d g else d) d

theorem stepClock_eq (d : Die) : stepClock d = (upto 32).foldl chanTurn (ledGroups (clocked (fired d))) := by
  unfold stepClock ledGroups clocked fired clockAt
  generalize upto 32 = chans
  generalize upto 8 = groups
  rfl

theorem gt_toGt {d : Die} {t : Nat} (h : d.tb.gt ≤ t) : (toGt d t).tb.gt = t := by
  unfold toGt
  split
  · rfl
  · show d.tb.gt = t
    omega

theorem toGt_frame (d : Die) (t : Nat) : (toGt d t).regs = d.regs ∧ (toGt d t).stp = d.stp ∧ (toGt d t).pwr = d.pwr := by
  unfold toGt
  split <;> exact ⟨rfl, rfl, rfl⟩

/-- What the clocks of the leads leave. -/
structure LeadsOnly (c d : Die) : Prop where
  regs : d.regs = c.regs
  stp : d.stp = c.stp
  pwr : d.pwr = c.pwr
  tb : d.tb = c.tb
  clock : d.stpClk = c.stpClk

theorem leadsOnly_leadTurn (d : Die) (g : Nat) : LeadsOnly d (if powered d 72 then leadClock d g else d) := by
  unfold leadClock
  split
  · extract_lets h x
    split <;> exact ⟨rfl, rfl, rfl, rfl, rfl⟩
  · exact ⟨rfl, rfl, rfl, rfl, rfl⟩

theorem leadsOnly_ledGroups (d : Die) : LeadsOnly d (ledGroups d) := by
  unfold ledGroups
  induction upto 8 generalizing d with
  | nil => exact ⟨rfl, rfl, rfl, rfl, rfl⟩
  | cons g l ih =>
    rw [List.foldl_cons]
    obtain ⟨h1, h2, h3, h4, h5⟩ := leadsOnly_leadTurn d g
    obtain ⟨k1, k2, k3, k4, k5⟩ := ih (if powered d 72 then leadClock d g else d)
    exact ⟨k1.trans h1, k2.trans h2, k3.trans h3, k4.trans h4, k5.trans h5⟩

theorem Rating.congr {c d : Die} {n : Nat} (h : Rating c n) (hregs : d.regs = c.regs) (hstp : d.stp = c.stp) (hpwr : d.pwr = c.pwr) :
    Rating d n := by
  obtain ⟨hon, hdecl, hmode, hvel, hcarry, hstep, hrev⟩ := h
  refine ⟨?_, ?_, ?_, ?_, ?_, ?_, ?_⟩
  · rw [stpOn, powered, hpwr]
    exact hon
  · rw [flag, fld, getReg, hregs]
    exact hdecl
  · rw [stpMode, fld, getReg, hregs]
    exact hmode
  all_goals rw [stpH, hstp]; assumption

/-- The clock itself, with the clocks of the leads, leaves the channels. -/
theorem tick_frame (d : Die) : (ledGroups (clocked d)).regs = d.regs ∧ (ledGroups (clocked d)).stp = d.stp ∧
    (ledGroups (clocked d)).pwr = d.pwr ∧ (ledGroups (clocked d)).tb.gt = clockAt d ∧ (ledGroups (clocked d)).stpClk = clockAt d + 10 := by
  obtain ⟨h1, h2, h3, h4, h5⟩ := leadsOnly_ledGroups (clocked d)
  obtain ⟨k1, k2, k3⟩ := toGt_frame d (clockAt d)
  have hgt : (toGt d (clockAt d)).tb.gt = clockAt d := gt_toGt (by
    have : d.tb.gt ≤ 10 * cdiv d.tb.gt 10 := by unfold cdiv; omega
    exact this.trans (le_max_right _ _))
  exact ⟨h1.trans k1, h2.trans k2, h3.trans k3, (congrArg Timebase.gt h4).trans hgt, h5⟩

theorem ends_stepClock {s : State} {n : Fin 32} (hquiet : ∀ g, g < 8 → (grpH s.die g).carryDue = false) (h : Rating s.die n.val) :
    ends .stepClock s fun t => t.die.tb.gt = max s.die.stpClk (10 * cdiv s.die.tb.gt 10) ∧
        t.die.stpClk = t.die.tb.gt + 10 ∧
        (stpH t.die n.val).acc = ((stpH s.die n.val).acc + (stpH s.die n.val).word.natAbs) % 2 ^ 48 ∧
        (stpH t.die n.val).carryDue = decide (2 ^ 48 ≤ (stpH s.die n.val).acc + (stpH s.die n.val).word.natAbs) ∧
        ((stpH s.die n.val).rise = none → (stpH t.die n.val).step = false) ∧
        ((stpH s.die n.val).rise = some 1 → (stpH t.die n.val).step = true ∧
          (stpH t.die n.val).high = fld s.die (Reg.STP_CFG_PW n.val) ∧
          getI64 t.die (Reg.STP_POS n.val) = wrapS 64 (getI64 s.die (Reg.STP_POS n.val) +
            (if flag s.die (Reg.STP_STAT_DIR n.val) then -1 else 1))) := by
  have hlead : (upto 8).foldl fireLead (found s) = found s := foldl_fireLead_quiet _ _ fun g hg => hquiet g ((mem_upto ..).1 hg)
  have hmem : n.val ∈ upto 32 := (mem_upto ..).2 n.isLt
  have hlt : ∀ m ∈ upto 32, m < 32 := fun m hm => (mem_upto ..).1 hm
  have hnodup : (upto 32).Nodup := List.nodup_range
  have hrate : Rating (found s) n.val := ⟨h.on, h.declared, h.mode, h.velDue, h.carryDue, h.step, h.rev⟩
  -- what is due before the clock
  have hfired : Spared n.val (found s) (fired (found s)) := by
    obtain ⟨e, hse, hef⟩ := (foldl_turns (f := fireAll) (n := n.val) (fun d m _ => inTurn_fireAll d) (upto 32) hlt hnodup (found s)).2 hmem
    have hr := hrate.of_spared hse
    rw [fireAll_quiet e hr.carryDue hr.step hr.rev] at hef
    rw [fired, hlead]
    exact hse.trans hef
  have hrf := hrate.of_spared hfired
  have hat : clockAt (fired (found s)) = max s.die.stpClk (10 * cdiv s.die.tb.gt 10) := by
    have htb : (fired (found s)).tb = s.die.tb := hfired.keeps .tb (by simp)
    have hclk : (fired (found s)).stpClk = s.die.stpClk := hfired.clock
    rw [clockAt, htb, hclk]
  have hchan : stpH (fired (found s)) n.val = stpH s.die n.val := hfired.channel
  have hregs : ∀ o, stepBlock n.val o → getReg (fired (found s)) o = getReg s.die o := hfired.regs
  -- the clock, and the turns of the channels
  obtain ⟨hr0, hs0, hp0, hgt0, hclk0⟩ := tick_frame (fired (found s))
  have hc := stepClock_eq (found s)
  generalize fired (found s) = a at hrf hat hchan hregs hr0 hs0 hp0 hgt0 hclk0 hc
  have hrc := hrf.congr hr0 hs0 hp0
  have hchan0 : stpH (ledGroups (clocked a)) n.val = stpH s.die n.val := by rw [stpH, hs0, ← stpH, hchan]
  have hregs0 : ∀ o, stepBlock n.val o → getReg (ledGroups (clocked a)) o = getReg s.die o := fun o ho => by
    rw [getReg, hr0, ← getReg, hregs o ho]
  generalize ledGroups (clocked a) = c at hr0 hs0 hp0 hgt0 hclk0 hc hrc hchan0 hregs0
  obtain ⟨e, hce, hed⟩ := (foldl_turns (f := chanTurn) (n := n.val) (fun d m hm => inTurn_chanTurn d hm) (upto 32) hlt hnodup c).2 hmem
  have hre := hrc.of_spared hce
  have hchane : stpH e n.val = stpH s.die n.val := hce.channel.trans hchan0
  have hregse : ∀ o, stepBlock n.val o → getReg e o = getReg s.die o := fun o ho => (hce.regs o ho).trans (hregs0 o ho)
  obtain ⟨hacc, hcarry, hnone, hrise⟩ := chanTurn_spec n.isLt hre
  have hturn := inTurn_chanTurn e n.isLt
  have hpw : fld e (Reg.STP_CFG_PW n.val) = fld s.die (Reg.STP_CFG_PW n.val) := by
    rw [fld, hregse (Reg.STP_CFG_PW n.val).off (block_cfg n.val).1, fld]
  have hdir : flag e (Reg.STP_STAT_DIR n.val) = flag s.die (Reg.STP_STAT_DIR n.val) := by
    rw [flag, fld, hregse (Reg.STP_STAT_DIR n.val).off (block_stat n.val), flag, fld]
  have hi64 : getI64 e (Reg.STP_POS n.val) = getI64 s.die (Reg.STP_POS n.val) := by
    rw [getI64, get64, hregse _ (block_pos n.val).1, hregse _ (block_pos n.val).2, getI64, get64]
  rw [hpw, hdir, hi64, hchane] at hrise
  rw [hchane] at hacc hcarry hnone
  rw [← hc] at hed
  refine ends_of_onDie (f := stepClock) rfl ?_
  have hlast : stpH (stepClock (found s)) n.val = stpH (chanTurn e n.val) n.val := hed.channel
  have hgt : (irqSettle s.die (stepClock (found s))).tb.gt = clockAt a := by
    have h1 : (irqSettle s.die (stepClock (found s))).tb = (stepClock (found s)).tb := keeps_irqSettle [] _ _ .tb (by simp)
    have h2 : (stepClock (found s)).tb = (chanTurn e n.val).tb := hed.keeps .tb (by simp)
    have h3 : (chanTurn e n.val).tb = e.tb := hturn.within.keeps .tb (by simp)
    have h4 : e.tb = c.tb := hce.keeps .tb (by simp)
    rw [h1, h2, h3, h4, hgt0]
  have hclk : (irqSettle s.die (stepClock (found s))).stpClk = clockAt a + 10 := by
    have h1 : (irqSettle s.die (stepClock (found s))).stpClk = (stepClock (found s)).stpClk := (keeps_irqSettle [] _ _ .stp (by simp)).2
    rw [h1, hed.clock, hturn.clock, hce.clock, hclk0]
  refine ⟨hgt.trans hat, hclk.trans (by rw [hgt]), ?_, ?_, fun h0 => ?_, fun h1 => ⟨?_, ?_, ?_⟩⟩
  · rw [stpH_irqSettle, hlast, hacc]
  · rw [stpH_irqSettle, hlast, hcarry]
  · rw [stpH_irqSettle, hlast, hnone h0]
  · rw [stpH_irqSettle, hlast, (hrise h1).1]
  · rw [stpH_irqSettle, hlast, (hrise h1).2.1]
  · rw [getI64, get64_irqSettle, get64, hed.regs _ (block_pos n.val).1, hed.regs _ (block_pos n.val).2, ← get64, ← getI64,
      (hrise h1).2.2]

/-! The other events of a channel. -/

section Events

variable {s : State} {n : Fin 32}

theorem others_updStp (d : Die) (f : StepCh → StepCh) (hd : ∀ m, stpH d m = stpH s.die m) :
    ∀ m, m ≠ n.val → stpH (irqSettle s.die (updStp d n.val f)) m = stpH s.die m := fun m hm => by
  rw [stpH_irqSettle, stpH_updStp_ne _ _ hm, hd]

/-- A command that changes the hidden state of one channel. -/
theorem ends_updStp {i : Instr} {g : Die → Die} {f : StepCh → StepCh} {P : StepCh → Prop} (hi : exec i s = onDie g s)
    (hg : g (found s) = updStp (found s) n.val f) (hP : P (f (stpH s.die n.val))) : ends i s fun t => P (stpH t.die n.val) ∧
      (∀ m, m ≠ n.val → stpH t.die m = stpH s.die m) ∧ keepsBut [.stp] s t := by
  refine ends_of_onDie hi ?_
  rw [hg]
  refine ⟨?_, others_updStp (found s) f fun _ => rfl, keepsBut_command (by simp)⟩
  rw [stpH_irqSettle, stpH_updStp_same _ _ _ n.isLt]
  exact hP

theorem ends_stepCarry (h : (stpH s.die n.val).carryDue = true) : ends (.stepCarry n) s fun t => (stpH t.die n.val).rise = some 2 ∧
      (stpH t.die n.val).carryDue = false ∧ (∀ m, m ≠ n.val → stpH t.die m = stpH s.die m) ∧ keepsBut [.stp] s t :=
  (ends_updStp (g := (fireCarry · n.val)) (P := fun c => c.rise = some 2 ∧ c.carryDue = false) rfl (if_pos h) ⟨rfl, rfl⟩).imp
    fun _ ⟨ht, ⟨h1, h2⟩, h3, h4⟩ => ⟨ht, h1, h2, h3, h4⟩

theorem ends_stepPulseEnd (hstep : (stpH s.die n.val).step = true) (hhigh : (stpH s.die n.val).high = 0) :
    ends (.stepPulseEnd n) s fun t => (stpH t.die n.val).step = false ∧
      (stpH t.die n.val).lowFor = 0 ∧ (∀ m, m ≠ n.val → stpH t.die m = stpH s.die m) ∧ keepsBut [.stp] s t := by
  have hgo : ((stpH (found s) n.val).step && (stpH (found s) n.val).high == 0) = true := by
    rw [show (stpH (found s) n.val).step = true from hstep, show (stpH (found s) n.val).high = 0 from hhigh]
    rfl
  exact (ends_updStp (g := (firePulseEnd · n.val)) (P := fun c => c.step = false ∧ c.lowFor = 0) rfl (if_pos hgo) ⟨rfl, rfl⟩).imp
    fun _ ⟨ht, ⟨h1, h2⟩, h3, h4⟩ => ⟨ht, h1, h2, h3, h4⟩

theorem ends_accumulationResume (h : (stpH s.die n.val).rev = .setup 0) : ends (.accumulationResume n) s fun t =>
      (stpH t.die n.val).rev = .none ∧ (∀ m, m ≠ n.val → stpH t.die m = stpH s.die m) ∧ keepsBut [.stp] s t :=
  ends_updStp (g := (fireResume · n.val)) (P := fun c => c.rev = .none) rfl (if_pos h) rfl

theorem ends_dirChange (hrev : (stpH s.die n.val).rev = .low) (hstep : (stpH s.die n.val).step = false)
    (hrise : (stpH s.die n.val).rise = none) (hcarry : (stpH s.die n.val).carryDue = false) (hlow : 10 ≤ (stpH s.die n.val).lowFor) :
    ends (.dirChange n) s fun t => flag t.die (Reg.STP_STAT_DIR n.val) = !(stpH s.die n.val).lastPos ∧
        (stpH t.die n.val).rev = .setup (fld s.die (Reg.STP_CFG_DSU n.val)) ∧ (∀ m, m ≠ n.val → stpH t.die m = stpH s.die m) ∧
        regsBut (· = Reg.STP_STAT n.val) s t ∧ keepsBut [.regs, .stp] s t := by
  have hne : Reg.STP_CFG n.val ≠ Reg.STP_STAT n.val := by simp only [Reg.STP_CFG, Reg.STP_STAT]; omega
  have hdsu : fld (putFlag (found s) (Reg.STP_STAT_DIR n.val) (!(stpH s.die n.val).lastPos)) (Reg.STP_CFG_DSU n.val) =
      fld s.die (Reg.STP_CFG_DSU n.val) := fld_setFld_ne _ (Reg.STP_CFG_DSU n.val) (Reg.STP_STAT_DIR n.val) _ hne
  have heq : fireDir (found s) n.val = updStp (putFlag (found s) (Reg.STP_STAT_DIR n.val) (!(stpH s.die n.val).lastPos)) n.val fun h =>
      { h with rev := .setup (fld s.die (Reg.STP_CFG_DSU n.val)) } := by
    rw [← hdsu]
    exact if_pos ⟨hrev, hstep, hrise, hcarry, hlow⟩
  refine ends_of_onDie (f := (fireDir · n.val)) rfl ?_
  show _ ∧ _
  rw [heq]
  refine ⟨?_, ?_, others_updStp _ _ fun _ => rfl, regsBut_command ?_, keepsBut_command (by simp)⟩
  · rw [flag_irqSettle]
    exact flag_putFlag_same (found s) (Reg.STP_STAT_DIR n.val) _ (show 1 + 1 ≤ 32 by decide) rfl
  · rw [stpH_irqSettle, stpH_updStp_same _ _ _ n.isLt]
  · exact (leaves_updStp _ _ _ _).2 ((leaves_putFlag (p := (· = Reg.STP_STAT n.val)) _ _ (f := Reg.STP_STAT_DIR n.val) rfl _).2 (.refl _ _))

/-! The homing input. -/

/-- The part with the level of the homing input (R200). -/
def homingSeen (d : Die) (n : Nat) (level : Bool) : Die := putFlag d (Reg.STP_STAT_HM n) (level != flag d (Reg.STP_CFG_HMPOL n))

/-- The exec of a change of the homing input. -/
def hmInput (n : Nat) (x : PinLevel) (d : Die) : Die :=
  if 1000 ≤ x.stable && stpOn d n && flag d (Reg.STP_CFG_DECL n) then stepHoming (homingSeen d n x.level) n else d

theorem exec_hmInputChange (x : PinLevel) : exec (.hmInputChange n x) s = onDie (hmInput n.val x) s := rfl

theorem hmInput_seen {d : Die} {n : Nat} {level : Bool} {y : Nat} (hy : 1000 ≤ y) (hon : stpOn d n = true)
    (hdecl : flag d (Reg.STP_CFG_DECL n) = true) : hmInput n ⟨level, y⟩ d = stepHoming (homingSeen d n level) n :=
  if_pos (by rw [decide_eq_true hy, hon, hdecl]; rfl)

theorem leaves_homingSeen (d : Die) (n : Nat) (level : Bool) : Leaves (· = Reg.STP_STAT n) d (homingSeen d n level) :=
  (leaves_putFlag (p := (· = Reg.STP_STAT n)) _ _ (f := Reg.STP_STAT_HM n) rfl _).2 (.refl _ _)

theorem mode_homingSeen (d : Die) (n : Nat) (level : Bool) : stpMode (homingSeen d n level) n = stpMode d n :=
  fld_of_leaves (leaves_homingSeen d n level) (Reg.STP_MODE_MODE n) (stpMode_ne_stat n)

theorem hm_homingSeen (d : Die) (n : Nat) (level : Bool) :
    flag (homingSeen d n level) (Reg.STP_STAT_HM n) = (level != flag d (Reg.STP_CFG_HMPOL n)) :=
  flag_putFlag_same _ _ _ (show 2 + 1 ≤ 32 by decide) rfl

theorem ends_hmInput_short {level : Bool} {y : Nat} (hy : y < 1000) : ends (.hmInputChange n ⟨level, y⟩) s (keepsBut [] s) := by
  refine ends_idle (exec_hmInputChange _) ?_ []
  exact if_neg (by rw [decide_eq_false (show ¬ 1000 ≤ y by omega), Bool.false_and, Bool.false_and]; decide)

theorem ends_hmInput_idle {level : Bool} {y : Nat} (hy : 1000 ≤ y) (hon : stpOn s.die n.val = true)
    (hdecl : flag s.die (Reg.STP_CFG_DECL n.val) = true) (hmode : fld s.die (Reg.STP_MODE_MODE n.val) ≠ 3) :
    ends (.hmInputChange n ⟨level, y⟩) s fun t =>
        flag t.die (Reg.STP_STAT_HM n.val) = (level != flag s.die (Reg.STP_CFG_HMPOL n.val)) ∧
        regsBut (· = Reg.STP_STAT n.val) s t ∧ keepsBut [.regs] s t := by
  have hno : stpMode (homingSeen (found s) n.val level) n.val ≠ 3 := by
    rw [mode_homingSeen]
    exact hmode
  have hidle : stepHoming (homingSeen (found s) n.val level) n.val = homingSeen (found s) n.val level := if_pos hno
  refine ends_of_onDie (exec_hmInputChange _) ?_
  rw [hmInput_seen hy (show stpOn (found s) n.val = true from hon) (show flag (found s) _ = true from hdecl), hidle]
  exact ⟨(flag_irqSettle ..).trans (hm_homingSeen ..), regsBut_command (leaves_homingSeen _ _ _), keepsBut_command (by simp [homingSeen])⟩

/-- A stage of homing that begins is noted (R200). -/
theorem stepHomeGo_spec (d : Die) {n : Nat} (hn : n < 32) {st : Nat} (hst : st < 8) (w : Int) :
    (stpH (stepHomeGo d n st w) n).hmState = st ∧ fld (stepHomeGo d n st w) (Reg.STP_STAT_HM_STATE n) = st := by
  have hword : ∀ e : Die, (stpH (applyWord e n w) n).hmState = (stpH e n).hmState ∧
      fld (applyWord e n w) (Reg.STP_STAT_HM_STATE n) = fld e (Reg.STP_STAT_HM_STATE n) := fun e => by
    have hact : fld (putActive e n (w != 0)) (Reg.STP_STAT_HM_STATE n) = fld e (Reg.STP_STAT_HM_STATE n) :=
      fld_setFld_above _ (Reg.STP_STAT_HM_STATE n) (Reg.STP_STAT_ACTIVE n) _ rfl (show 0 + 1 ≤ 5 by decide) (show 0 + 1 ≤ 32 by decide)
    unfold applyWord
    extract_lets h e1
    split
    · exact ⟨by rw [stpH_updStp_same _ _ _ hn]; rfl, hact⟩
    · exact ⟨by rw [stpH_updStp_same _ _ _ hn]; rfl, hact⟩
  obtain ⟨h1, h2⟩ := hword (updStp (setFld d (Reg.STP_STAT_HM_STATE n) st) n fun h => { h with hmState := st, hmBack := none })
  refine ⟨h1.trans (by rw [stpH_updStp_same _ _ _ hn]), h2.trans ?_⟩
  exact (fld_setFld_same d (Reg.STP_STAT_HM_STATE n) st (show 5 + 3 ≤ 32 by decide)).trans (Nat.mod_eq_of_lt hst)

theorem stepHoming_found {d : Die} {n : Nat} (hmode : stpMode d n = 3) (hstate : (stpH d n).hmState = 1)
    (htravel : (stpH d n).hmSteps ≤ effN d (Reg.STP_HMTRAVEL n)) (hm : flag d (Reg.STP_STAT_HM n) = true) :
    ∃ w, stepHoming d n = stepHomeGo d n 2 w := by
  unfold stepHoming
  extract_lets h search dir vs vc hm' e1 e2
  rw [if_neg (not_not.2 hmode), if_neg (fun hover => absurd hover.2 (Nat.not_lt.2 htravel))]
  split
  · next h0 => exact absurd (hstate.symm.trans h0) (by decide)
  · exact ⟨-vs, if_pos hm⟩
  · next h0 => exact absurd (hstate.symm.trans h0) (by decide)
  · next h0 h1 h2 => exact absurd hstate h1

theorem ends_hmInput_found {level : Bool} {y : Nat} (hy : 1000 ≤ y) (hon : stpOn s.die n.val = true)
    (hdecl : flag s.die (Reg.STP_CFG_DECL n.val) = true) (hmode : fld s.die (Reg.STP_MODE_MODE n.val) = 3)
    (hstate : (stpH s.die n.val).hmState = 1) (htravel : (stpH s.die n.val).hmSteps ≤ effN s.die (Reg.STP_HMTRAVEL n.val))
    (hm : (level != flag s.die (Reg.STP_CFG_HMPOL n.val)) = true) : ends (.hmInputChange n ⟨level, y⟩) s fun t =>
          (stpH t.die n.val).hmState = 2 ∧ fld t.die (Reg.STP_STAT_HM_STATE n.val) = 2 := by
  have hne : Reg.STP_HMTRAVEL n.val ≠ Reg.STP_STAT n.val := by simp only [Reg.STP_HMTRAVEL, Reg.STP_STAT]; omega
  have heff : effN (homingSeen (found s) n.val level) (Reg.STP_HMTRAVEL n.val) = effN s.die (Reg.STP_HMTRAVEL n.val) :=
    congrArg BitVec.toNat (eff_congr (c := s.die) rfl (leaves_homingSeen (found s) n.val level _ hne))
  obtain ⟨w, hgo⟩ := stepHoming_found (d := homingSeen (found s) n.val level) (n := n.val) ((mode_homingSeen ..).trans hmode) hstate
    (heff ▸ htravel) ((hm_homingSeen ..).trans hm)
  refine ends_of_onDie (exec_hmInputChange _) ?_
  rw [hmInput_seen hy (show stpOn (found s) n.val = true from hon) (show flag (found s) _ = true from hdecl), hgo]
  obtain ⟨h1, h2⟩ := stepHomeGo_spec (homingSeen (found s) n.val level) n.isLt (st := 2) (by decide) w
  exact ⟨(congrArg StepCh.hmState (stpH_irqSettle ..)).trans h1, (fld_irqSettle ..).trans h2⟩

end Events

/-! The lead of a group (R198). -/

/-- The counters of the members after a carry of the lead. -/
def leadCounts (h : StepGrp) : List (Nat × Nat) :=
  h.d.map fun x => (x.1, (((h.q.find? fun y => y.1 == x.1).map (·.2)).getD 0) + x.2.natAbs)

/-- The members whose counter is full step. -/
def membersStep (h : StepGrp) (d : Die) : Die :=
  ((leadCounts h).filter fun x => h.n ≤ x.2).foldl (fun d x => updStp d x.1 fun c => { c with rise := some 2 }) d

/-- A carry of the lead, before the end of the move. -/
def leadCounted (d : Die) (g : Nat) : Die :=
  putReg (updGrp (membersStep (grpH d g) d) g fun h =>
      { h with carryDue := false, made := (grpH d g).made + 1,
               q := (leadCounts (grpH d g)).map fun x => (x.1, if h.n ≤ x.2 then x.2 - h.n else x.2) })
    (Reg.STP_GRP_LEFT g) (BitVec.ofNat 32 ((grpH d g).n - ((grpH d g).made + 1)))

theorem fireLead_eq {d : Die} {g : Nat} (h : (grpH d g).carryDue = true) : fireLead d g =
    if (grpH d g).n ≤ (grpH d g).made + 1 then moveEnd (leadCounted d g) g 0 else leadCounted d g := by
  unfold fireLead
  extract_lets h' made q e1 e2 e3
  rw [if_neg (by rw [show h'.carryDue = true from h]; decide)]
  rfl

theorem membersStep_frame (h : StepGrp) (d : Die) : (membersStep h d).grp = d.grp ∧ Keeps [.stp] d (membersStep h d) := by
  unfold membersStep
  induction (leadCounts h).filter fun x => h.n ≤ x.2 generalizing d with
  | nil => exact ⟨rfl, .refl _ _⟩
  | cons x l ih =>
    obtain ⟨h1, h2⟩ := ih (updStp d x.1 fun c => { c with rise := some 2 })
    exact ⟨h1, Keeps.trans (by simp) h2⟩

theorem grpH_updGrp_ne (d : Die) {g e : Nat} (f : StepGrp → StepGrp) (h : e ≠ g) : grpH (updGrp d g f) e = grpH d e := by
  simp [grpH, updGrp, vget_vset_ne _ _ _ h]

/-- What a carry of the lead makes of its group. -/
theorem leadCounted_spec (d : Die) {g : Nat} (hg : g < 8) : (grpH (leadCounted d g) g).made = (grpH d g).made + 1 ∧
    (grpH (leadCounted d g) g).carryDue = false ∧ (grpH (leadCounted d g) g).moving = (grpH d g).moving ∧
    getReg (leadCounted d g) (Reg.STP_GRP_LEFT g) = BitVec.ofNat 32 ((grpH d g).n - ((grpH d g).made + 1)) ∧
    (∀ e, e ≠ g → grpH (leadCounted d g) e = grpH d e) ∧ Keeps [.regs, .stp, .grp] d (leadCounted d g) := by
  obtain ⟨hgrp, hk⟩ := membersStep_frame (grpH d g) d
  have hsame : ∀ e, grpH (membersStep (grpH d g) d) e = grpH d e := fun e => by rw [grpH, hgrp, grpH]
  have hput : ∀ (c : Die) (o : Nat) (w : Word) (e : Nat), grpH (putReg c o w) e = grpH c e := fun _ _ _ _ => rfl
  unfold leadCounted
  generalize membersStep (grpH d g) d = c at hk hsame
  refine ⟨?_, ?_, ?_, getReg_putReg_same .., fun e he => ?_, ?_⟩
  · rw [hput, grpH_updGrp_same _ _ _ hg]
  · rw [hput, grpH_updGrp_same _ _ _ hg]
  · rw [hput, grpH_updGrp_same _ _ _ hg, hsame]
  · rw [hput, grpH_updGrp_ne _ _ he, hsame]
  · rw [keeps_putReg _ _ (by simp), keeps_updGrp _ _ (by simp)]
    exact hk.mono (by simp)

theorem grp_complete (d : Die) (t st r0 r1 : Nat) : (complete d t st r0 r1).grp = d.grp := by
  unfold complete
  split <;> rfl

/-- The end of a move at its lead. -/
theorem grpH_leadEnd (d : Die) {g : Nat} (hg : g < 8) (status : Nat) : (grpH (leadEnd d g status) g).made = (grpH d g).made ∧
    (grpH (leadEnd d g status) g).carryDue = false ∧ (grpH (leadEnd d g status) g).moving = false ∧
    (∀ e, e ≠ g → grpH (leadEnd d g status) e = grpH d e) ∧
    flag (leadEnd d g status) (Reg.STP_GRP_STAT_MOVING g) = false := by
  have hgrp := grp_complete d (grpH d g).ticket status (grpH d g).made 0
  have hset : ∀ (c : Die) (f : Fld) (v o : Nat) (w : Word) (e : Nat), grpH (setFld (putReg c o w) f v) e = grpH c e := fun _ _ _ _ _ _ => rfl
  have hmoving : flag (leadEnd d g status) (Reg.STP_GRP_STAT_MOVING g) =
      flag (setFld (putReg (complete d (grpH d g).ticket status (grpH d g).made 0) (Reg.STP_GRP_LEFT g) 0) (Reg.STP_GRP_STAT_MOVING g) 0)
        (Reg.STP_GRP_STAT_MOVING g) := rfl
  refine ⟨?_, ?_, ?_, fun e he => ?_, ?_⟩
  · rw [leadEnd, grpH_updGrp_same _ _ _ hg, hset, grpH, hgrp, grpH]
  · rw [leadEnd, grpH_updGrp_same _ _ _ hg]
  · rw [leadEnd, grpH_updGrp_same _ _ _ hg]
  · rw [leadEnd, grpH_updGrp_ne _ _ he, hset, grpH, hgrp, grpH]
  · rw [hmoving, flag, fld_setFld_same _ (Reg.STP_GRP_STAT_MOVING g) _ (show 0 + 1 ≤ 32 by decide)]
    rfl

theorem inactive_moving (g : Nat) (l : List Nat) (hl : ∀ m ∈ l, m < 32) (d : Die) :
    flag (inactive l d) (Reg.STP_GRP_STAT_MOVING g) = flag d (Reg.STP_GRP_STAT_MOVING g) := by
  have hleaves : Leaves (fun o => o < 0x10800) d (inactive l d) := Leaves.foldl (fun c m hm =>
    (leaves_setFld (p := fun o => o < 0x10800) _ _ (f := Reg.STP_STAT_ACTIVE m) (by
      have := hl m hm
      show Reg.STP_STAT m < 0x10800
      simp only [Reg.STP_STAT]
      omega) _).2 (.refl _ _)) d
  refine flag_of_leaves hleaves (Reg.STP_GRP_STAT_MOVING g) ?_
  show ¬ Reg.STP_GRP_STAT g < 0x10800
  simp only [Reg.STP_GRP_STAT]
  omega

theorem ends_leadCarry {s : State} {g : Fin 8} (hcarry : (grpH s.die g.val).carryDue = true) :
    ends (.leadCarry g) s fun t => (grpH t.die g.val).made = (grpH s.die g.val).made + 1 ∧ (grpH t.die g.val).carryDue = false ∧
      ((grpH s.die g.val).n ≤ (grpH s.die g.val).made + 1 → (grpH t.die g.val).moving = false ∧ flag t.die (Reg.STP_GRP_STAT_MOVING g.val) = false) ∧
      ((grpH s.die g.val).made + 1 < (grpH s.die g.val).n → (grpH t.die g.val).moving = (grpH s.die g.val).moving ∧
        getReg t.die (Reg.STP_GRP_LEFT g.val) = BitVec.ofNat 32 ((grpH s.die g.val).n - ((grpH s.die g.val).made + 1))) ∧
      (∀ e, e ≠ g.val → grpH t.die e = grpH s.die e) ∧ keepsBut [.regs, .stp, .grp, .host] s t := by
  obtain ⟨hmade, hdue, hmoving, hleft, hothers, hk⟩ := leadCounted_spec (found s) g.isLt
  have heq := fireLead_eq (d := found s) hcarry
  have hsame : grpH (found s) g.val = grpH s.die g.val := rfl
  rw [hsame] at hmade hmoving hleft heq
  refine ends_of_onDie (f := (fireLead · g.val)) rfl ?_
  show _ ∧ _
  rw [heq]
  generalize leadCounted (found s) g.val = c at hmade hdue hmoving hleft hothers hk
  by_cases hlast : (grpH s.die g.val).n ≤ (grpH s.die g.val).made + 1
  · rw [if_pos hlast, moveEnd_eq]
    obtain ⟨emade, edue, emoving, eothers, eflag⟩ := grpH_leadEnd c g.isLt 0
    obtain ⟨_, _, ek, _⟩ := leadEnd_spec c g.isLt 0
    obtain ⟨_, igrp, ik, _⟩ := inactive_spec (grpMembers (leadEnd c g.val 0) g.val) (leadEnd c g.val 0)
    have imoving := inactive_moving g.val (grpMembers (leadEnd c g.val 0) g.val) (fun m hm => (mem_upto ..).1 (List.mem_filter.1 hm).1) (leadEnd c g.val 0)
    generalize inactive (grpMembers (leadEnd c g.val 0) g.val) (leadEnd c g.val 0) = e at igrp ik imoving
    have hgrp : ∀ j, grpH (irqSettle s.die e) j = grpH (leadEnd c g.val 0) j := fun j => by rw [grpH_irqSettle, grpH, igrp, grpH]
    refine ⟨?_, ?_, fun _ => ⟨?_, ?_⟩, fun h => absurd hlast (by omega), fun j hj => ?_, keepsBut_command ?_⟩
    · rw [hgrp, emade, hmade]
    · rw [hgrp, edue]
    · rw [hgrp, emoving]
    · rw [flag_irqSettle, imoving, eflag]
    · rw [hgrp, eothers j hj, hothers j hj]
      rfl
    · exact ((hk.mono (by simp)).trans (ek.mono (by simp))).trans (ik.mono (by simp))
  · rw [if_neg hlast]
    refine ⟨?_, ?_, fun h => absurd h hlast, fun _ => ⟨?_, ?_⟩, fun j hj => ?_, keepsBut_command (hk.mono (by simp))⟩
    · rw [grpH_irqSettle, hmade]
    · rw [grpH_irqSettle, hdue]
    · rw [grpH_irqSettle, hmoving]
    · rw [getReg_irqSettle, hleft]
    · rw [grpH_irqSettle, hothers j hj]
      rfl

/-- Settles O32: each event is the change of its channel or group; the step clock is a turn of every channel, in which the turns of
the others spare the one that runs. -/
theorem stepEvents : Obligations.StepEvents :=
  ⟨fun _ _ => ⟨fun h => ends_stepCarry h, fun hstep hhigh => ends_stepPulseEnd hstep hhigh,
      fun hrev hstep hrise hcarry hlow => ends_dirChange hrev hstep hrise hcarry hlow, fun h => ends_accumulationResume h,
      fun _ _ hy => ends_hmInput_short hy,
      fun _ _ hy hon hdecl => ⟨fun hmode => ends_hmInput_idle hy hon hdecl hmode,
        fun hmode hstate htravel hm => ends_hmInput_found hy hon hdecl hmode hstate htravel hm⟩,
      fun hquiet hon hdecl hmode hvel hcarry hstep hrev => ends_stepClock hquiet ⟨hon, hdecl, hmode, hvel, hcarry, hstep, hrev⟩⟩,
    fun _ _ hcarry => ends_leadCarry hcarry⟩

end Sys2Proof.Machine
end

section
/-! PROOFS. The loader finishes (R363, R374, R375). -/

namespace Sys2Proof.Machine

open Sys2Proof

/-! What a start leaves. -/

/-- The registers but those that tell how the loader finished. -/
def notBoot (off : Nat) : Prop := off ≠ Reg.GLB_BOOT_STAT ∧ off ≠ Reg.HST_STAT ∧ off ≠ Reg.KNL_STAT

theorem notBoot_of_ge {off : Nat} (h : 0x4001 ≤ off) : notBoot off := by
  simp only [notBoot, Reg.GLB_BOOT_STAT, Reg.HST_STAT, Reg.KNL_STAT]
  omega

/-- The loaded Parcel and the phase are the same in two states. -/
structure BootSame (c d : Die) : Prop where
  loaded : d.boot.loaded = c.boot.loaded
  gen : d.boot.gen = c.boot.gen
  bank : d.boot.bank = c.boot.bank
  phase : fld d Reg.GLB_BOOT_STAT_PHASE = fld c Reg.GLB_BOOT_STAT_PHASE

theorem BootSame.refl (d : Die) : BootSame d d := ⟨rfl, rfl, rfl, rfl⟩

theorem BootSame.trans {c d e : Die} (h : BootSame c d) (h' : BootSame d e) : BootSame c e :=
  ⟨h'.loaded.trans h.loaded, h'.gen.trans h.gen, h'.bank.trans h.bank, h'.phase.trans h.phase⟩

/-- Any field of GLB_BOOT_STAT above PHASE may change. -/
theorem bootSame_setFld (d : Die) {f : Fld} (hoff : f.off = Reg.GLB_BOOT_STAT) (hlo : 3 ≤ f.lo) (hw : f.lo + f.w ≤ 32) (v : Nat) :
    BootSame d (setFld d f v) :=
  ⟨rfl, rfl, rfl, fld_setFld_below d Reg.GLB_BOOT_STAT_PHASE f v hoff.symm hlo hw⟩

theorem BootSame.of_leaves {ps : List Part} {c d : Die} (hl : Leaves notBoot c d) (hk : Keeps ps c d) (hps : .boot ∉ ps) :
    BootSame c d := by
  have hboot : d.boot = c.boot := hk .boot hps
  exact ⟨by rw [hboot], by rw [hboot], by rw [hboot], fld_of_leaves hl _ fun h => h.1 rfl⟩

theorem bootSame_logEvt (d : Die) (src code sev p0 p1 p2 : Nat) : BootSame d (logEvt d src code sev p0 p1 p2) :=
  .of_leaves (ps := [.regs, .lgb]) ((leaves_logEvt (p := notBoot) d d (notBoot_of_ge (by decide)) (notBoot_of_ge (by decide)) _ _ _ _ _ _).2
    (.refl _ d)) (by simp) (by simp)

theorem bootSame_sessionClose (d : Die) : BootSame d (sessionClose d) :=
  (bootSame_setFld d (f := Reg.GLB_BOOT_STAT_SESSION) rfl (by decide) (by decide) 0).trans ⟨rfl, rfl, rfl, rfl⟩

theorem bootSame_parcelEnd (d : Die) (ticket status code r1 : Nat) : BootSame d (parcelEnd d ticket status code r1) := by
  unfold parcelEnd
  extract_lets coded d'
  have hd : BootSame d d' := .of_leaves (ps := [.host]) ((leaves_complete d d _ _ _ _).2 (.refl _ d)) (by simp [d']) (by simp)
  split
  · exact hd
  · exact hd.trans (bootSame_sessionClose d')

theorem bootSame_supplyCut (d : Die) (ticket : Nat) : BootSame d (supplyCut d ticket) := by
  unfold supplyCut
  extract_lets d'
  have hd : BootSame d d' := ⟨rfl, rfl, rfl, rfl⟩
  exact ((hd.trans (bootSame_parcelEnd d' _ _ _ _)).trans
    (bootSame_setFld _ (f := Reg.GLB_BOOT_STAT_SUPPLYCUT) rfl (by decide) (by decide) 1)).trans (bootSame_logEvt _ _ _ _ _ _ _)

theorem bootSame_vinCrosses (d : Die) : BootSame d (vinCrosses d) := by
  unfold vinCrosses
  extract_lets d1 d2 d3
  have hstat : notBoot Reg.PWR_STAT := by unfold notBoot; decide
  have hcnt : notBoot Reg.PWR_CNT_VWARN := by unfold notBoot; decide
  have h1 : Leaves notBoot d d1 := by
    rw [leaves_setFlag _ _ (f := Reg.PWR_STAT_VWARNS) hstat, leaves_setFlag _ _ (f := Reg.PWR_STAT_VWARN) hstat]
    exact .refl _ d
  have h2 : BootSame d d2 := .of_leaves (ps := [.regs, .pwr])
    ((leaves_updPwr (p := notBoot) _ _ _).2 ((leaves_incReg _ _ hcnt).2 h1)) (by simp [d2, d1]) (by simp)
  have h3 : BootSame d d3 := by
    unfold d3
    split
    · exact h2
    · exact h2.trans (bootSame_logEvt _ _ _ _ _ _ _)
  split
  · exact h3.trans (bootSame_supplyCut d3 _)
  · exact h3

theorem bootSame_vinSettle (d : Die) : BootSame d (vinSettle d) := by
  unfold vinSettle
  extract_lets warn
  split
  · exact .refl d
  · split
    · split
      · exact bootSame_vinCrosses d
      · exact .refl d
    · split
      · exact .of_leaves (ps := [.regs, .pwr]) (by
          rw [leaves_updPwr, leaves_setFld (p := notBoot) _ _ (f := Reg.PWR_STAT_VWARN) (by unfold notBoot; decide)]
          exact .refl _ d) (by simp) (by simp)
      · exact .refl d

/-! The start of what the Parcel declares. -/

/-- A part of the start changes neither the loaded Parcel nor the registers that tell how the loader finished. -/
structure Starts (c d : Die) : Prop where
  leaves : Leaves notBoot c d
  keeps : Keeps [.regs, .can, .segs, .trk, .host, .lgb, .held, .gear, .pwr] c d

theorem Starts.refl (d : Die) : Starts d d := ⟨.refl _ d, .refl _ d⟩

theorem Starts.trans {c d e : Die} (h : Starts c d) (h' : Starts d e) : Starts c e :=
  ⟨h.leaves.trans h'.leaves, h.keeps.trans h'.keeps⟩

theorem Starts.bootSame {c d : Die} (h : Starts c d) : BootSame c d := .of_leaves h.leaves h.keeps (by simp)

theorem Starts.foldl {β : Type} {f : Die → β → Die} (h : ∀ d x, Starts d (f d x)) (l : List β) (d : Die) : Starts d (l.foldl f d) :=
  ⟨Leaves.foldl (fun d x _ => (h d x).leaves) d, Keeps.foldl (fun d x => (h d x).keeps) l d⟩

theorem Starts.forEach {β : Type} {f : Die → β → Die} (h : ∀ d x, Starts d (f d x)) (l : List β) (d : Die) :
    Starts d (forEach l d f) := .foldl h l d

theorem starts_setFld (d : Die) {f : Fld} (h : notBoot f.off) (v : Nat) : Starts d (setFld d f v) :=
  ⟨(leaves_setFld (p := notBoot) d d h v).2 (.refl _ d), by simp⟩

theorem starts_putGroupModes (d : Die) : Starts d (putGroupModes d) :=
  Starts.foldl (fun d g => Starts.foldl (fun d n => starts_setFld d (f := Reg.STP_MODE_MODE n)
    (notBoot_of_ge (show 0x4001 ≤ 0x10000 + n * 0x40 by omega)) 2) _ d) _ d

theorem starts_canReq (d : Die) (n req : Nat) : Starts d (canReq d n req) := by
  have hstat : notBoot (Reg.CAN_STAT n) := notBoot_of_ge (show 0x4001 ≤ 0x11008 + n * 0x400 by omega)
  have hall : Starts d (canEndAll d n 2) := by
    refine ⟨(leaves_canEndAll d n 2).mono fun o ho => ?_, (keeps_canEndAll d n 2).mono (by simp)⟩
    obtain ⟨b, _, rfl⟩ | rfl := ho
    · exact notBoot_of_ge (show 0x4001 ≤ 0x11040 + n * 0x400 + b * 0x50 by omega)
    · exact hstat
  have hupd : ∀ (d : Die) (f : CanHid → CanHid), Starts d (updCan d n f) := fun d f => ⟨.of_regs rfl, by simp⟩
  unfold canReq
  extract_lets st mode
  split
  · split
    · exact .refl d
    · exact (hall.trans (starts_setFld _ (f := Reg.CAN_STAT_STATE n) hstat 0)).trans (hupd _ _)
  · split
    · split
      · exact (starts_setFld _ (f := Reg.CAN_STAT_STATE n) hstat 1).trans (hupd _ _)
      · exact .refl d
    · split
      · exact hupd _ _
      · exact .refl d

theorem starts_canStart (d : Die) : Starts d (canStart d) :=
  Starts.foldl (fun d n => by
    split
    · exact starts_canReq d n _
    · exact .refl d) _ d

theorem starts_leashStart (d : Die) : Starts d (leashStart d) :=
  Starts.foldl (fun d s => (starts_setFld d (f := Reg.LSH_PSTAT_TXON (2 * s))
    (notBoot_of_ge (show 0x4001 ≤ 0x0C004 + 2 * s * 0x400 by omega)) 1).trans
      ⟨fun o _ => getReg_putSnap _ s o, (keeps_putSnap _ _ (by simp) s).2 (.refl _ _)⟩) _ d

theorem starts_enterListen (d : Die) : Starts d (enterListen (trunkUp d)) := by
  have hct : notBoot Reg.CTR_STAT := notBoot_of_ge (by decide)
  have hbt : notBoot Reg.BEAT_STAT := by unfold notBoot; decide
  refine ⟨?_, by simp [enterListen, trunkUp]⟩
  unfold enterListen trunkUp
  rw [leaves_updTrk, leaves_putFlag _ _ (f := Reg.BEAT_STAT_SLEW) hbt, leaves_putFlag _ _ (f := Reg.CTR_STAT_ELIG) hct,
    leaves_putFlag _ _ (f := Reg.CTR_STAT_MASTER) hct, leaves_setFld _ _ (f := Reg.CTR_STAT_LISTENT) hct,
    leaves_setFld _ _ (f := Reg.CTR_STAT_STATE) hct, leaves_updTrk]
  exact .refl _ d

/-- An axis takes its ratio from its registers. -/
def ratioRead (d : Die) (a : Nat) : Die := updGear d a fun g =>
  { g with num := sext 32 (getReg d (Reg.AX_LS_NUM a)).toNat, den := (getReg d (Reg.AX_LS_DEN a)).toNat }

/-- Every axis takes its ratio from its registers. -/
def ratiosRead (d : Die) : Die := forEach (upto 128) d ratioRead

theorem starts_ratiosRead (d : Die) : Starts d (ratiosRead d) :=
  Starts.forEach (f := ratioRead) (fun d a => ⟨.of_regs rfl, by simp [ratioRead]⟩) (upto 128) d

/-! The two ends of the loader. -/

/-- The part has its Parcel (R375). -/
def parcelTaken (c : Die) (gen bank : Nat) (hostDl : Bool) (min : Nat) : Die :=
  let d := setFld (setFld (setFld c Reg.GLB_BOOT_STAT_PHASE 3) Reg.GLB_BOOT_STAT_BANK bank) Reg.GLB_BOOT_STAT_FMT_MIN min
  let d := putFlag d Reg.GLB_BOOT_STAT_HOSTDL hostDl
  let d := putReg d Reg.GLB_BOOT_GEN (BitVec.ofNat 32 gen)
  vinSettle (updBoot d fun b => { b with loaded := true, gen := gen, bank := bank })

/-- The part has what its Parcel declares in force. -/
def declaredIn (d : Die) (lock : Bool) : Die :=
  let d := if lock then setFlag d Reg.HST_LOCK_LOCK else d
  let d := setFld d Reg.BEAT_WCSUM_CYCLES (worstSum d)
  let d := setFld d Reg.BEAT_BUDGET_CYCLES (budgetB (hz d))
  ratiosRead (updPwr d fun p => { p with dom := (declaredDoms d).foldl setBit 0 })

/-- The part runs. -/
def runsNow (d : Die) : Die := setFlag (setFlag (putGroupModes d) Reg.KNL_STAT_RUN) Reg.HST_STAT_READY

/-- The controllers, segments and the trunk start. -/
def networksUp (d : Die) : Die :=
  let d := leashStart (canStart d)
  if flag d Reg.CTR_CFG_DECL then enterListen (trunkUp d) else d

/-- The loader notes that it has finished. -/
def finished (d : Die) (gen : Nat) : Die :=
  let d := updTb d fun t => { t with finished := some t.gt }
  logEvt d 0 1 0 (getReg d Reg.GLB_RST_CAUSE).toNat (getReg d Reg.GLB_BOOT_STAT).toNat gen

theorem loadDone_eq (c : Die) (gen bank : Nat) (hostDl lock : Bool) (min : Nat) : loadDone c gen bank hostDl lock min =
    finished (networksUp (runsNow (declaredIn (parcelTaken c gen bank hostDl min) lock))) gen := by
  unfold loadDone finished networksUp runsNow declaredIn parcelTaken ratiosRead
  generalize upto 128 = l
  rfl

theorem parcelTaken_spec (c : Die) (gen bank : Nat) (hostDl : Bool) (min : Nat) :
    (parcelTaken c gen bank hostDl min).boot.loaded = true ∧ (parcelTaken c gen bank hostDl min).boot.gen = gen ∧
      (parcelTaken c gen bank hostDl min).boot.bank = bank ∧
      fld (parcelTaken c gen bank hostDl min) Reg.GLB_BOOT_STAT_PHASE = 3 := by
  unfold parcelTaken
  extract_lets d1 d2 d3
  have h2 : BootSame (setFld c Reg.GLB_BOOT_STAT_PHASE 3) d2 :=
    ((bootSame_setFld _ (f := Reg.GLB_BOOT_STAT_BANK) rfl (by decide) (by decide) bank).trans
      (bootSame_setFld _ (f := Reg.GLB_BOOT_STAT_FMT_MIN) rfl (by decide) (by decide) min)).trans
      (bootSame_setFld d1 (f := Reg.GLB_BOOT_STAT_HOSTDL) rfl (by decide) (by decide) _)
  have h3 : fld d3 Reg.GLB_BOOT_STAT_PHASE = 3 := by
    have hgen : fld d3 Reg.GLB_BOOT_STAT_PHASE = fld d2 Reg.GLB_BOOT_STAT_PHASE :=
      fld_putReg_ne d2 Reg.GLB_BOOT_STAT_PHASE _ (by decide)
    rw [hgen, h2.phase, fld_setFld_same c Reg.GLB_BOOT_STAT_PHASE 3 (by decide)]
    decide
  clear_value d3
  have h4 := bootSame_vinSettle (updBoot d3 fun b => { b with loaded := true, gen := gen, bank := bank })
  exact ⟨h4.loaded, h4.gen, h4.bank, h4.phase.trans h3⟩

theorem starts_declaredIn (d : Die) (lock : Bool) : Starts d (declaredIn d lock) := by
  unfold declaredIn
  extract_lets d1 d2 d3
  have h1 : Starts d d1 := by
    unfold d1
    split
    · exact starts_setFld d (f := Reg.HST_LOCK_LOCK) (by unfold notBoot; decide) 1
    · exact .refl d
  have h3 : Starts d1 d3 := (starts_setFld d1 (f := Reg.BEAT_WCSUM_CYCLES) (by unfold notBoot; decide) _).trans
    (starts_setFld d2 (f := Reg.BEAT_BUDGET_CYCLES) (by unfold notBoot; decide) _)
  have h4 : Starts d3 (updPwr d3 fun p => { p with dom := (declaredDoms d3).foldl setBit 0 }) := ⟨.of_regs rfl, by simp⟩
  exact ((h1.trans h3).trans h4).trans (starts_ratiosRead _)

theorem runsNow_spec (d : Die) : BootSame d (runsNow d) ∧ flag (runsNow d) Reg.HST_STAT_READY = true ∧
    flag (runsNow d) Reg.KNL_STAT_RUN = true := by
  have hphase : fld (runsNow d) Reg.GLB_BOOT_STAT_PHASE = fld (putGroupModes d) Reg.GLB_BOOT_STAT_PHASE :=
    (fld_setFld_ne _ Reg.GLB_BOOT_STAT_PHASE Reg.HST_STAT_READY 1 (by decide)).trans
      (fld_setFld_ne _ Reg.GLB_BOOT_STAT_PHASE Reg.KNL_STAT_RUN 1 (by decide))
  exact ⟨(starts_putGroupModes d).bootSame.trans ⟨rfl, rfl, rfl, hphase⟩,
    flag_setFlag_same _ Reg.HST_STAT_READY (by decide) rfl,
    (flag_setFld_ne _ Reg.KNL_STAT_RUN Reg.HST_STAT_READY 1 (by decide)).trans (flag_setFlag_same _ Reg.KNL_STAT_RUN (by decide) rfl)⟩

theorem starts_networksUp (d : Die) : Starts d (networksUp d) := by
  unfold networksUp
  extract_lets d'
  have h : Starts d d' := (starts_canStart d).trans (starts_leashStart _)
  split
  · exact h.trans (starts_enterListen d')
  · exact h

theorem finished_spec (d : Die) (gen : Nat) : Leaves notBoot d (finished d gen) ∧ Keeps [.regs, .lgb, .tb] d (finished d gen) ∧
    (finished d gen).tb.finished.isSome = true := by
  unfold finished
  extract_lets d'
  have hk : Keeps [.regs, .lgb] d' (logEvt d' 0 1 0 (getReg d' Reg.GLB_RST_CAUSE).toNat (getReg d' Reg.GLB_BOOT_STAT).toNat gen) := by
    simp
  have htb : (logEvt d' 0 1 0 (getReg d' Reg.GLB_RST_CAUSE).toNat (getReg d' Reg.GLB_BOOT_STAT).toNat gen).tb = d'.tb :=
    hk .tb (by simp)
  refine ⟨(leaves_logEvt (p := notBoot) _ _ (notBoot_of_ge (by decide)) (notBoot_of_ge (by decide)) _ _ _ _ _ _).2 (.of_regs rfl),
    ?_, by rw [htb]; rfl⟩
  exact ((keeps_updTb (ps := [.regs, .lgb, .tb]) d d (by simp) _).2 (.refl _ d)).trans (hk.mono (by simp))

theorem loadDone_spec (c : Die) (gen bank : Nat) (hostDl lock : Bool) (min : Nat) {t : Die}
    (ht : loadDone c gen bank hostDl lock min = t) :
    flag t Reg.HST_STAT_READY = true ∧ flag t Reg.KNL_STAT_RUN = true ∧ fld t Reg.GLB_BOOT_STAT_PHASE = 3 ∧
      t.boot.loaded = true ∧ t.boot.gen = gen ∧ t.boot.bank = bank ∧ t.tb.finished.isSome = true := by
  rw [loadDone_eq] at ht
  obtain ⟨hloaded, hgen, hbank, hphase⟩ := parcelTaken_spec c gen bank hostDl min
  generalize parcelTaken c gen bank hostDl min = d at *
  have hdecl := (starts_declaredIn d lock).bootSame
  generalize declaredIn d lock = d1 at *
  obtain ⟨hrun, hready, hknl⟩ := runsNow_spec d1
  generalize runsNow d1 = d2 at *
  have hnet := starts_networksUp d2
  generalize networksUp d2 = d3 at *
  obtain ⟨hleaves, hkeeps, hfin⟩ := finished_spec d3 gen
  rw [ht] at hleaves hkeeps hfin
  have hflags := hnet.leaves.trans hleaves
  have hall := ((hdecl.trans hrun).trans hnet.bootSame).trans (.of_leaves hleaves hkeeps (by simp))
  exact ⟨(flag_of_leaves hflags Reg.HST_STAT_READY fun h => h.2.1 rfl).trans hready,
    (flag_of_leaves hflags Reg.KNL_STAT_RUN fun h => h.2.2 rfl).trans hknl, hall.phase.trans hphase, hall.loaded.trans hloaded,
    hall.gen.trans hgen, hall.bank.trans hbank, hfin⟩

/-- A part that declares itself unconfigured (R374). -/
theorem unconfigured_spec (d : Die) : fld (unconfigured d) Reg.GLB_BOOT_STAT_PHASE = 4 ∧
    flag (unconfigured d) Reg.HST_STAT_READY = true ∧
    fld (unconfigured d) Reg.GLB_BOOT_ERR_CODE = fld d Reg.GLB_BOOT_ERR_CODE ∧ Keeps [.regs, .lgb] d (unconfigured d) := by
  unfold unconfigured
  extract_lets d'
  have hl : ∀ f : Fld, f.off < 0x5000 → fld (logEvt d' 0 1 0 (getReg d' Reg.GLB_RST_CAUSE).toNat
      (getReg d' Reg.GLB_BOOT_STAT).toNat 0) f = fld d' f := fun f hf =>
    fld_of_leaves ((leaves_logEvt (p := fun off => 0x5000 ≤ off) d' d' (by decide) (by decide) _ _ _ _ _ _).2 (.refl _ d')) f
      (by omega)
  refine ⟨?_, ?_, ?_, by simp [d']⟩
  · rw [hl Reg.GLB_BOOT_STAT_PHASE (by decide)]
    exact (fld_setFld_ne _ Reg.GLB_BOOT_STAT_PHASE Reg.HST_STAT_READY 1 (by decide)).trans
      (fld_setFld_same d Reg.GLB_BOOT_STAT_PHASE 4 (by decide))
  · rw [flag, hl Reg.HST_STAT_READY (by decide)]
    exact flag_setFlag_same _ Reg.HST_STAT_READY (by decide) rfl
  · rw [hl Reg.GLB_BOOT_ERR_CODE (by decide)]
    exact (fld_setFld_ne _ Reg.GLB_BOOT_ERR_CODE Reg.HST_STAT_READY 1 (by decide)).trans
      (fld_setFld_ne d Reg.GLB_BOOT_ERR_CODE Reg.GLB_BOOT_STAT_PHASE 4 (by decide))

theorem code_putBootErr (d : Die) (r : Refused) (bank : Nat) :
    fld (putBootErr d r bank) Reg.GLB_BOOT_ERR_CODE = r.1 % 256 := by
  have hpos : fld (putBootErr d r bank) Reg.GLB_BOOT_ERR_CODE =
      fld (putReg d Reg.GLB_BOOT_ERR (BitVec.ofNat 32 (r.1 + 256 * (bank % 2) + 512 * (r.2.1 % 128)))) Reg.GLB_BOOT_ERR_CODE :=
    fld_putReg_ne _ _ _ (by decide)
  rw [hpos, fld, show Reg.GLB_BOOT_ERR_CODE.off = Reg.GLB_BOOT_ERR from rfl, getReg_putReg_same, BitVec.toNat_ofNat, bitsOf,
    show Reg.GLB_BOOT_ERR_CODE.lo = 0 from rfl, show Reg.GLB_BOOT_ERR_CODE.w = 8 from rfl, Nat.shiftRight_zero]
  omega

/-- The part as the loader leaves it when it loads no Parcel. -/
def Bare (c d : Die) : Prop :=
  fld d Reg.GLB_BOOT_STAT_PHASE = 4 ∧ flag d Reg.HST_STAT_READY = true ∧ Keeps [.regs, .lgb] c d

theorem bare_unconfigured {c d : Die} (h : Keeps [.regs, .lgb] c d) : Bare c (unconfigured d) := by
  obtain ⟨hphase, hready, _, hk⟩ := unconfigured_spec d
  exact ⟨hphase, hready, h.trans hk⟩

theorem bare_refused {c : Die} (r : Refused) (bank : Nat) :
    Bare c (unconfigured (putBootErr c r bank)) ∧
      fld (unconfigured (putBootErr c r bank)) Reg.GLB_BOOT_ERR_CODE = r.1 % 256 :=
  ⟨bare_unconfigured (by simp [putBootErr]), (unconfigured_spec _).2.2.1.trans (code_putBootErr c r bank)⟩

/-- What `Bare` says of a command. -/
theorem bare_command {s : State} {d : Die} (h : Bare (found s) d) :
    fld (irqSettle s.die d) Reg.GLB_BOOT_STAT_PHASE = 4 ∧ flag (irqSettle s.die d) Reg.HST_STAT_READY = true ∧
      (irqSettle s.die d).boot.loaded = s.die.boot.loaded ∧ (irqSettle s.die d).tb.finished = s.die.tb.finished ∧
      keepsBut [.regs, .lgb] s { s with die := irqSettle s.die d } := by
  obtain ⟨hphase, hready, hk⟩ := h
  have hcmd := keepsBut_command hk
  have hboot : (irqSettle s.die d).boot = s.die.boot := hcmd.2.2.2 .boot (by simp)
  have htb : (irqSettle s.die d).tb = s.die.tb := hcmd.2.2.2 .tb (by simp)
  exact ⟨(fld_irqSettle ..).trans hphase, (flag_irqSettle ..).trans hready, by rw [hboot], by rw [htb], hcmd⟩

/-! The boot load from one bank. -/

theorem bootFrom_nil (d : Die) : bootFrom d [] none = unconfigured (putBootErr d (1, 0x7F, 0) 0) := rfl

theorem bootFrom_good {d c : Die} {b : Nat}
    (h : judgeImage d (bankImage d.boot.flash b) (bankRecord d.boot.flash b).2.2.2 = .ok c) :
    bootFrom d [b] none = loadDone c (bankRecord d.boot.flash b).2.1 b false
      (bitOf (leAt (bankImage d.boot.flash b) 11 1) 0) (leAt (bankImage d.boot.flash b) 5 1) := by
  simp [bootFrom, loadImage, h]

theorem bootFrom_refused {d : Die} {b : Nat} {e : Refused}
    (h : judgeImage d (bankImage d.boot.flash b) (bankRecord d.boot.flash b).2.2.2 = .error e) :
    bootFrom d [b] none = unconfigured (putBootErr d e b) := by
  simp [bootFrom, loadImage, h]

theorem loaderEnd_boot {d : Die} (hdue : loaderDue d = true) (hdl : hostDownload d = false) :
    loaderEnd d = bootFrom d (bankOrder d.boot.flash) none := by
  simp [loaderEnd, hdue, hdl]

/-- Settles O48: the loader's ends, over what a start leaves (`Starts`) and the declared registers. -/
theorem loaderFinishes : Obligations.LoaderFinishes := by
  unfold Obligations.LoaderFinishes
  intro s bare
  have hdue : loaderDue (found s) = loaderDue s.die := rfl
  have hdl : hostDownload (found s) = hostDownload s.die := rfl
  have hflash : (found s).boot.flash = s.die.boot.flash := rfl
  have hend : ∀ d, loaderEnd (found s) = d → ∀ P : State → Prop, P { s with die := irqSettle s.die d } → ends .loaderFinish s P :=
    fun d hd P hP => ends_of_onDie (f := loaderEnd) rfl (hd ▸ hP)
  refine ⟨fun h => ?_, fun h h' => ?_, fun h h' hbank => ?_, fun b h h' hbank => ?_⟩
  case refine_1 =>
    exact hend (found s) (by simp [loaderEnd, hdue, h]) _ (keepsBut_command (.refl _ _))
  case refine_2 =>
    exact hend (unconfigured (found s)) (by simp [loaderEnd, hdue, h, hdl, h']) _
      (bare_command (bare_unconfigured (.refl _ _)))
  case refine_3 =>
    have hstart : loaderEnd (found s) = unconfigured (putBootErr (found s) (1, 0x7F, 0) 0) := by
      rw [loaderEnd_boot (hdue.trans h) (hdl.trans h'), hflash, hbank, bootFrom_nil]
    obtain ⟨hbare, hcode⟩ := bare_refused (c := found s) (1, 0x7F, 0) 0
    refine hend _ hstart _ ?_
    generalize unconfigured (putBootErr (found s) (1, 0x7F, 0) 0) = d at *
    exact ⟨bare_command hbare, (fld_irqSettle ..).trans hcode⟩
  case refine_4 =>
    intro r
    have hstart : loaderEnd (found s) = bootFrom (found s) [b] none := by
      rw [loaderEnd_boot (hdue.trans h) (hdl.trans h'), hflash, hbank]
    cases hj : judgeImage (found s) (bankImage s.die.boot.flash b) r.2.2.2 with
    | ok c =>
      have hgood := hstart.trans (bootFrom_good (d := found s) hj)
      obtain ⟨d, hd⟩ : ∃ d, loadDone c (bankRecord (found s).boot.flash b).2.1 b false
        (bitOf (leAt (bankImage (found s).boot.flash b) 11 1) 0) (leAt (bankImage (found s).boot.flash b) 5 1) = d := ⟨_, rfl⟩
      obtain ⟨hready, hrun, hphase, hloaded, hgen, hbk, hfin⟩ := loadDone_spec _ _ _ _ _ _ hd
      have hboot : (irqSettle s.die d).boot = d.boot := keeps_irqSettle [] s.die d .boot (by simp)
      have htb : (irqSettle s.die d).tb = d.tb := keeps_irqSettle [] s.die d .tb (by simp)
      refine hend d (hgood.trans hd) _ ?_
      exact ⟨(flag_irqSettle ..).trans hready, (flag_irqSettle ..).trans hrun, (fld_irqSettle ..).trans hphase,
        hboot ▸ hloaded, hboot ▸ hgen, hboot ▸ hbk, htb ▸ hfin, rfl⟩
    | error e =>
      have hbad := hstart.trans (bootFrom_refused (d := found s) hj)
      obtain ⟨hbare, hcode⟩ := bare_refused (c := found s) e b
      refine hend _ hbad _ ?_
      generalize unconfigured (putBootErr (found s) e b) = d at *
      exact ⟨bare_command hbare, (fld_irqSettle ..).trans hcode⟩

end Sys2Proof.Machine
end

section
/-! PROOFS. Doze and Hibernate (R385 to R389): what goes down and what stays. -/

namespace Sys2Proof.Machine

open Sys2Proof

/-! Folds. -/

/-- What a turn of `y` brings about holds after all turns, when the turns keep it and keep what it needs. -/
theorem foldl_reaches {α β : Type} {f : α → β → α} {I P : α → Prop} {l : List β} {y : β} (hy : y ∈ l)
    (hI : ∀ a, ∀ x ∈ l, I a → I (f a x)) (hP : ∀ a, ∀ x ∈ l, P a → P (f a x)) (hyP : ∀ a, I a → P (f a y)) {a : α} (h : I a) :
    P (l.foldl f a) := by
  have hkeep : ∀ (m : List β) (a : α), (∀ x ∈ m, x ∈ l) → P a → P (m.foldl f a) := fun m => by
    induction m with
    | nil => exact fun a _ h => h
    | cons x m ih => exact fun a hm h => ih _ (fun z hz => hm z (by simp [hz])) (hP a x (hm x (by simp)) h)
  have hgo : ∀ (m : List β) (a : α), (∀ x ∈ m, x ∈ l) → y ∈ m → I a → P (m.foldl f a) := fun m => by
    induction m with
    | nil => exact fun a _ hm _ => absurd hm List.not_mem_nil
    | cons x m ih =>
      intro a hm hmem h
      have htail : ∀ z ∈ m, z ∈ l := fun z hz => hm z (by simp [hz])
      obtain rfl | hmem := List.mem_cons.1 hmem
      · exact hkeep m _ htail (hyP a h)
      · exact ih _ htail hmem (hI a x (hm x (by simp)) h)
  exact hgo l a (fun _ h => h) hy h

theorem bitOf_foldl_setBits (l : List Nat) (x j : Nat) : bitOf (l.foldl setBit x) j = true ↔ j ∈ l ∨ bitOf x j = true := by
  induction l generalizing x with
  | nil => simp
  | cons i l ih =>
    rw [List.foldl_cons, ih]
    by_cases h : j = i
    · subst h
      simp [bitOf_setBit_same]
    · simp [bitOf_setBit_ne x h, h]

theorem sget_filter_lost {α : Type} (v : α) (m : Sparse α) {p : Nat → Bool} {i : Nat} (h : p i = false) :
    sget v (m.filter fun e => p e.1) i = v := by
  induction m with
  | nil => rfl
  | cons x l ih =>
    by_cases hx : p x.1 = true
    · have hne : x.1 ≠ i := fun heq => by rw [heq, h] at hx; exact absurd hx nofun
      simpa [hx, sget, hne] using ih
    · simpa [hx] using ih

/-! What goes down while a part enters Doze. -/

/-- The registers that the entry into Doze may write before the blocks go off: of the segments but LSH_SCFG, of the trunk and of
the CAN controllers. -/
def dozeRegs (off : Nat) : Prop := 0xC000 ≤ off ∧ ∀ seg, seg < 4 → off ≠ Reg.LSH_SCFG seg

/-- No LSH_NODE_STAT of a declared place. -/
def offNode (off : Nat) : Prop := ∀ seg i, seg < 4 → i < 32 → off ≠ Reg.LSH_NODE_STAT seg i

/-- A step of the entry into Doze: nodes that are ABSENT stay so. -/
structure Down (c d : Die) : Prop where
  leaves : Leaves dozeRegs c d
  keeps : Keeps [.regs, .host, .knl, .axes, .nodes, .segs, .trk, .can, .pwr] c d
  held : d.trk.held = c.trk.held ∧ d.trk.recHeld = c.trk.recHeld
  absent : ∀ seg i, seg < 4 → i < 32 → nodeState c seg i = 0 → nodeState d seg i = 0

theorem Down.refl (d : Die) : Down d d := ⟨.refl _ d, .refl _ d, ⟨rfl, rfl⟩, fun _ _ _ _ h => h⟩

theorem Down.trans {c d e : Die} (h : Down c d) (h' : Down d e) : Down c e :=
  ⟨h.leaves.trans h'.leaves, h.keeps.trans h'.keeps, ⟨h'.held.1.trans h.held.1, h'.held.2.trans h.held.2⟩,
    fun seg i hs hi hz => h'.absent seg i hs hi (h.absent seg i hs hi hz)⟩

theorem Down.foldl {β : Type} {f : Die → β → Die} {l : List β} (h : ∀ d, ∀ x ∈ l, Down d (f d x)) (d : Die) : Down d (l.foldl f d) := by
  induction l generalizing d with
  | nil => exact .refl d
  | cons x l ih => exact (h d x (by simp)).trans (ih (fun d y hy => h d y (by simp [hy])) (f d x))

/-- A step that changes no register. -/
theorem Down.of_keeps {c d : Die} (hr : d.regs = c.regs) (hk : Keeps [.regs, .host, .knl, .axes, .nodes, .segs, .trk, .can, .pwr] c d)
    (hh : d.trk.held = c.trk.held ∧ d.trk.recHeld = c.trk.recHeld) : Down c d :=
  ⟨.of_regs hr, hk, hh, fun seg i _ _ hz => by rw [nodeState, fld_of_leaves (p := fun _ => False) (.of_regs hr) _ (by simp)]; exact hz⟩

theorem down_setFld (d : Die) {f : Fld} (h : dozeRegs f.off) (hn : offNode f.off) (v : Nat) : Down d (setFld d f v) :=
  ⟨(leaves_setFld (p := dozeRegs) d d h v).2 (.refl _ d), by simp, ⟨rfl, rfl⟩, fun seg i hs hi hz =>
    (fld_setFld_ne d (Reg.LSH_NODE_STAT_STATE seg i) f v fun heq => hn seg i hs hi heq.symm).trans hz⟩

theorem dozeRegs_node {seg i : Nat} (hi : i < 64) : dozeRegs (Reg.LSH_NODE_STAT seg i) := by
  refine ⟨show 0xC000 ≤ 0x0C200 + seg * 0x800 + i * 0x10 by omega, fun b _ => ?_⟩
  show 0x0C200 + seg * 0x800 + i * 0x10 ≠ 0x0C100 + b * 0x800
  omega

/-- A register of a segment or its ports that is neither LSH_SCFG nor LSH_NODE_STAT. -/
theorem clear_of_mod {off : Nat} (h : 0xC000 ≤ off) (hs : off % 0x800 ≠ 0x100) (hn : off % 0x10 ≠ 0 ∨ off % 0x800 < 0x200) :
    dozeRegs off ∧ offNode off := by
  refine ⟨⟨h, fun seg _ => ?_⟩, fun seg i _ hi => ?_⟩
  · show off ≠ 0x0C100 + seg * 0x800
    omega
  · show off ≠ 0x0C200 + seg * 0x800 + i * 0x10
    omega

/-- A register after those of the segments. -/
theorem clear_of_ge {off : Nat} (h : 0xE000 ≤ off) : dozeRegs off ∧ offNode off := by
  refine ⟨⟨by omega, fun seg hs => ?_⟩, fun seg i hs hi => ?_⟩
  · show off ≠ 0x0C100 + seg * 0x800
    omega
  · show off ≠ 0x0C200 + seg * 0x800 + i * 0x10
    omega

theorem clear_pstat (p : Nat) : dozeRegs (Reg.LSH_PSTAT p) ∧ offNode (Reg.LSH_PSTAT p) := by
  apply clear_of_mod <;> simp only [Reg.LSH_PSTAT] <;> omega

theorem clear_path (seg : Nat) : dozeRegs (Reg.LSH_PATH seg) ∧ offNode (Reg.LSH_PATH seg) := by
  apply clear_of_mod <;> simp only [Reg.LSH_PATH] <;> omega

theorem clear_sstat (seg : Nat) : dozeRegs (Reg.LSH_SSTAT seg) ∧ offNode (Reg.LSH_SSTAT seg) := by
  apply clear_of_mod <;> simp only [Reg.LSH_SSTAT] <;> omega

theorem clear_mbxWait (seg : Nat) : dozeRegs (Reg.LSH_MBXWAIT seg) ∧ offNode (Reg.LSH_MBXWAIT seg) := by
  apply clear_of_mod <;> simp only [Reg.LSH_MBXWAIT] <;> omega

/-- A node becomes ABSENT. -/
theorem down_nodeAbsent (d : Die) {seg i : Nat} (hi : i < 64) : Down d (setFld d (Reg.LSH_NODE_STAT_STATE seg i) 0) := by
  refine ⟨(leaves_setFld (p := dozeRegs) (f := Reg.LSH_NODE_STAT_STATE seg i) d d (dozeRegs_node hi) 0).2 (.refl _ d), by simp, ⟨rfl, rfl⟩,
    fun seg' i' _ _ hz => ?_⟩
  by_cases heq : (Reg.LSH_NODE_STAT_STATE seg' i').off = (Reg.LSH_NODE_STAT_STATE seg i).off
  · have hf : Reg.LSH_NODE_STAT_STATE seg' i' = Reg.LSH_NODE_STAT_STATE seg i := congrArg (Fld.mk · _ _) heq
    rw [nodeState, hf]
    exact fld_setFld_same d (Reg.LSH_NODE_STAT_STATE seg i) 0 (show 0 + 3 ≤ 32 by decide)
  · exact (fld_setFld_ne d _ _ 0 heq).trans hz

theorem down_mbxEnd (d : Die) (seg : Nat) (q : MbxReq) (status : Nat) (data : List Byte) : Down d (mbxEnd d seg q status data) := by
  have hw := clear_mbxWait seg
  have hc : Down d (complete d q.ticket status data.length q.tag) := by
    unfold complete
    split
    · exact .refl d
    · exact .of_keeps rfl (by simp) ⟨rfl, rfl⟩
  unfold mbxEnd
  split
  · exact .refl d
  · exact (hc.trans (down_setFld _ (f := Reg.LSH_MBXWAIT_WAIT seg) hw.1 hw.2 _)).trans (.of_keeps rfl (by simp) ⟨rfl, rfl⟩)

/-- A step of hidden state alone. -/
theorem down_updNode (d : Die) (seg i : Nat) (f : Node → Node) : Down d (updNode d seg i f) := .of_keeps rfl (by simp) ⟨rfl, rfl⟩

theorem down_removeAxes (d : Die) (seg i : Nat) : Down d (removeAxes d seg i) :=
  Down.foldl (f := fun d a => updAx d a fun h => { h with removed := true, admitted := false, lastAcc := none })
    (fun d a _ => .of_keeps rfl (by simp) ⟨rfl, rfl⟩) d

theorem down_mbxFlush (d : Die) (seg i status : Nat) (p : MbxReq → Bool) : Down d (mbxFlush d seg i status p) := by
  unfold mbxFlush
  extract_lets q d'
  have h : Down d d' := Down.foldl (f := fun d r => mbxEnd d seg r status []) (fun d r _ => down_mbxEnd d seg r status []) d
  exact h.trans (down_updNode _ _ _ _)

theorem down_dozeNode (d : Die) {seg i : Nat} (hi : i < 64) : Down d (dozeNode d seg i) := by
  unfold dozeNode
  extract_lets d'
  have h : Down d d' := (down_removeAxes d seg i).trans (down_mbxFlush _ _ _ _ _)
  exact (h.trans (down_nodeAbsent d' hi)).trans (down_updNode _ _ _ _)

/-- A node that went down is ABSENT. -/
theorem nodeState_dozeNode (d : Die) (seg i : Nat) : nodeState (dozeNode d seg i) seg i = 0 := by
  unfold dozeNode
  generalize mbxFlush (removeAxes d seg i) seg i 8 _ = d'
  exact fld_setFld_same d' (Reg.LSH_NODE_STAT_STATE seg i) 0 (show 0 + 3 ≤ 32 by decide)

theorem down_tail (d : Die) (seg : Nat) : Down d (setFld (tailPower d seg false) (Reg.LSH_PATH_STATE seg) 0) := by
  unfold tailPower
  extract_lets d'
  have h : Down d d' := .of_keeps rfl (by simp [d']) ⟨rfl, rfl⟩
  exact (h.trans (down_setFld d' (f := Reg.LSH_PSTAT_TXON (2 * seg + 1)) (clear_pstat _).1 (clear_pstat _).2 _)).trans
    (down_setFld _ (f := Reg.LSH_PATH_STATE seg) (clear_path seg).1 (clear_path seg).2 0)

theorem nNode_lt (d : Die) (seg : Nat) : nNode d seg < 64 := bitsOf_lt _ _ _

theorem down_updSeg (d : Die) (seg : Nat) (f : Seg → Seg) : Down d (updSeg d seg f) := .of_keeps rfl (by simp) ⟨rfl, rfl⟩

/-- A step that writes registers after those of the segments alone. -/
theorem Down.of_high {c d : Die} (hl : Leaves (fun off => 0xE000 ≤ off) c d)
    (hk : Keeps [.regs, .host, .knl, .axes, .nodes, .segs, .trk, .can, .pwr] c d)
    (hh : d.trk.held = c.trk.held ∧ d.trk.recHeld = c.trk.recHeld) : Down c d :=
  ⟨hl.mono fun _ h => (clear_of_ge h).1, hk, hh, fun seg i hs hi hz =>
    (fld_of_leaves hl (Reg.LSH_NODE_STAT_STATE seg i) (show ¬ 0xE000 ≤ 0x0C200 + seg * 0x800 + i * 0x10 by omega)).trans hz⟩

theorem down_putSnap (d : Die) (seg : Nat) : Down d (putSnap d seg) := by
  unfold putSnap
  split
  · exact .refl d
  · extract_lets w
    split
    · exact .refl d
    · exact down_updSeg _ _ _

/-- The path and the ports of a segment go off. -/
theorem down_segOff (d : Die) (seg : Nat) :
    Down d (forEach [2 * seg, 2 * seg + 1] (setFld (setFld (setFld (tailPower d seg false) (Reg.LSH_PATH_STATE seg) 0)
      (Reg.LSH_PSTAT_TXON (2 * seg)) 0) (Reg.LSH_SSTAT_RUN seg) 0) fun d p => setFld d (Reg.LSH_PSTAT_RXSYNC p) 0) :=
  (((down_tail d seg).trans (down_setFld _ (f := Reg.LSH_PSTAT_TXON (2 * seg)) (clear_pstat _).1 (clear_pstat _).2 0)).trans
    (down_setFld _ (f := Reg.LSH_SSTAT_RUN seg) (clear_sstat seg).1 (clear_sstat seg).2 0)).trans
    (Down.foldl (f := fun d p => setFld d (Reg.LSH_PSTAT_RXSYNC p) 0)
      (fun d p _ => down_setFld d (f := Reg.LSH_PSTAT_RXSYNC p) (clear_pstat p).1 (clear_pstat p).2 0) _)

theorem down_dozeSeg (d : Die) (seg : Nat) : Down d (dozeSeg d seg) := by
  unfold dozeSeg
  split
  · exact .refl d
  · extract_lets d1 d2 d3 d4
    have h1 : Down d d1 := Down.foldl (f := fun d i => dozeNode d seg i)
      (fun d i hi => down_dozeNode d ((mem_upto.1 hi).trans (nNode_lt _ _))) d
    have h4 : Down d1 d4 := down_segOff d1 seg
    exact (h1.trans h4).trans ((down_updSeg d4 seg _).trans (down_putSnap _ seg))

/-- The nodes of a declared segment that went down are ABSENT. -/
theorem nodeState_dozeSeg (d : Die) {seg i : Nat} (hs : seg < 4) (hi : i < 32) (hn : i < nNode d seg)
    (hdecl : flag d (Reg.LSH_SCFG_DECL seg) = true) : nodeState (dozeSeg d seg) seg i = 0 := by
  unfold dozeSeg
  rw [if_neg (by simp [hdecl])]
  extract_lets d1 d2 d3 d4
  have h1 : nodeState d1 seg i = 0 := foldl_reaches (f := fun d i => dozeNode d seg i) (I := fun _ => True)
    (P := fun d => nodeState d seg i = 0) (mem_upto.2 hn) (fun _ _ _ _ => trivial)
    (fun d j hj hz => (down_dozeNode d ((mem_upto.1 hj).trans (nNode_lt _ _))).absent seg i hs hi hz)
    (fun d _ => nodeState_dozeNode d seg i) trivial
  have h4 : Down d1 d4 := down_segOff d1 seg
  exact ((h4.trans (down_updSeg d4 seg _)).trans (down_putSnap _ seg)).absent seg i hs hi h1

theorem down_dozeTrunk (d : Die) : Down d (dozeTrunk d) :=
  Down.foldl (f := trunkPortOff) (fun d p _ => by
    have hct : dozeRegs (Reg.CTR_P_STAT p) ∧ offNode (Reg.CTR_P_STAT p) :=
      clear_of_ge (show 0xE000 ≤ 0x0E084 + p * 0x20 by omega)
    unfold trunkPortOff
    extract_lets d'
    have h : Down d d' := (down_setFld d (f := Reg.CTR_P_STAT_LOCK p) hct.1 hct.2 0).trans
      (down_setFld _ (f := Reg.CTR_P_STAT_PEERIDLE p) hct.1 hct.2 0)
    exact h.trans (.of_keeps rfl (by simp) ⟨rfl, rfl⟩)) d

theorem down_complete (d : Die) (ticket status r0 r1 : Nat) : Down d (complete d ticket status r0 r1) := by
  unfold complete
  split
  · exact .refl d
  · exact .of_keeps rfl (by simp) ⟨rfl, rfl⟩

/-- An engine's task ends as the engines go off. -/
def taskDropped (d : Die) (t : Task) : Die :=
  let d := if descMulti d t.idx then clearBlocked (updKnl d fun k => { k with store := k.store - 1 }) else d
  if descClass d t.idx = 5 then complete d t.arg 2 0 0 else d

theorem down_taskDropped (d : Die) (t : Task) : Down d (taskDropped d t) := by
  unfold taskDropped
  extract_lets d'
  have h : Down d d' := by
    unfold d'
    split
    · exact .of_keeps rfl (by simp) ⟨rfl, rfl⟩
    · exact .refl d
  split
  · exact h.trans (down_complete d' _ _ _ _)
  · exact h

theorem dozeDrop_eq (d : Die) :
    dozeDrop d = ((upto 16).flatMap fun e => (engH d e).active.toList ++ (engH d e).other.toList).foldl taskDropped d := by
  unfold dozeDrop forEach
  generalize upto 16 = l
  rfl

theorem down_dozeDrop (d : Die) : Down d (dozeDrop d) := by
  rw [dozeDrop_eq]
  exact Down.foldl (fun d t _ => down_taskDropped d t) d

theorem down_updCan (d : Die) (n : Nat) (f : CanHid → CanHid) : Down d (updCan d n f) := .of_keeps rfl (by simp) ⟨rfl, rfl⟩

theorem down_canOff (d : Die) (n : Nat) : Down d (canReq d n 0) := by
  have hall : Down d (canEndAll d n 2) := by
    have hk := keeps_canEndAll d n 2
    have htrk : (canEndAll d n 2).trk = d.trk := hk .trk (by simp)
    refine .of_high ((leaves_canEndAll d n 2).mono fun o ho => ?_) (hk.mono (by simp)) ⟨by rw [htrk], by rw [htrk]⟩
    obtain ⟨b, _, rfl⟩ | rfl := ho
    · exact show 0xE000 ≤ 0x11040 + n * 0x400 + b * 0x50 by omega
    · exact show 0xE000 ≤ 0x11008 + n * 0x400 by omega
  have hstat := clear_of_ge (off := Reg.CAN_STAT n) (show 0xE000 ≤ 0x11008 + n * 0x400 by omega)
  unfold canReq
  extract_lets st mode
  rw [if_pos rfl]
  split
  · exact .refl d
  · exact (hall.trans (down_setFld _ (f := Reg.CAN_STAT_STATE n) hstat.1 hstat.2 0)).trans (down_updCan _ n _)

/-! The entry into Doze. -/

/-- A declared controller is switched off. -/
def canOffDecl (d : Die) (n : Nat) : Die := if flag d (Reg.CAN_CFG_DECL n) then canReq d n 0 else d

/-- Tasks, trunk ports, segments and controllers go down. -/
def wentDown (d : Die) : Die := (upto 4).foldl canOffDecl ((upto 4).foldl dozeSeg (dozeTrunk (dozeDrop d)))

/-- The blocks that Doze powers down have lost their state. -/
def blocksLost (d : Die) : Die :=
  { d with
    regs := d.regs.filter fun x => !dozeOff x.1
    held := d.held.filter fun x => !dozeOff x.1
    heldLow := d.heldLow.filter fun x => !dozeOff x
    land := d.land.filter fun x => !dozeOff x.1
    snap := d.snap.filter fun x => !dozeOff x.1
    eng := Vector.replicate 16 engine0
    mem := { d.mem with xram := [] }
    cap := capture0, stp := Vector.replicate 32 stepCh0, grp := Vector.replicate 8 stepGrp0
    can := Vector.replicate 4 canHid0, mst := master0, gear := [] }

/-- The part stands in Doze; accesses that waited have not gone on yet. -/
def dozing (d : Die) : Die :=
  let d := blocksLost (wentDown (updPwr d fun p => { p with runDoms := (declaredDoms d).foldl setBit 0 }))
  setFld (updPwr d fun p => { p with dom := (dozeDoms d).foldl setBit 0, dozeReq := false }) Reg.PWR_STAT_MODE 1

theorem dozeIn_eq (g : Dog) (d : Die) (hmode : fld d Reg.PWR_STAT_MODE = 2) (hreq : d.pwr.hibReq = false) :
    dozeIn g d = drainSwitch g (dozing d) := by
  unfold dozeIn dozing blocksLost wentDown
  rw [if_neg (by simp [hmode, hreq])]
  generalize upto 4 = l
  rfl

theorem down_canOffs (d : Die) : Down d ((upto 4).foldl canOffDecl d) :=
  Down.foldl (fun d n _ => by
    unfold canOffDecl
    split
    · exact down_canOff d n
    · exact .refl d) d

theorem down_wentDown (d : Die) : Down d (wentDown d) :=
  (((down_dozeDrop d).trans (down_dozeTrunk _)).trans (Down.foldl (fun d n _ => down_dozeSeg d n) _)).trans (down_canOffs _)

/-- What the entry into Doze leaves. -/
structure Dozed (c d : Die) : Prop where
  mode : fld d Reg.PWR_STAT_MODE = 1
  req : d.pwr.dozeReq = false
  eng : d.eng = Vector.replicate 16 engine0
  mem : d.mem = { c.mem with xram := [] }
  cap : d.cap = capture0
  can : ∀ n, n < 4 → canState d n = 0
  chan : ∀ n, n < 16 → chState d n = 0
  node : ∀ seg i, seg < 4 → i < 32 → i < nNode c seg → flag c (Reg.LSH_SCFG_DECL seg) = true → nodeState d seg i = 0
  tb : d.tb = c.tb
  engRegs : ∀ off, 0x8000 ≤ off → off < 0xC000 → getReg d off = getReg c off
  dom : ∀ x, powered d x = true ↔ x ∈ dozeDoms c

/-- The reads of a member that go on change registers of the host port and of the beat alone. -/
def readRegs (off : Nat) : Prop := 0x2000 ≤ off ∧ off < 0x4000

theorem Dozed.of_read {c d e : Die} (h : Dozed c d) (hl : Leaves readRegs d e) (hk : Keeps [.regs, .snap, .trk] d e) : Dozed c e := by
  have hpwr : e.pwr = d.pwr := hk .pwr (by simp)
  have heng : e.eng = d.eng := hk .eng (by simp)
  have hmem : e.mem = d.mem := hk .mem (by simp)
  have hcap : e.cap = d.cap := hk .cap (by simp)
  have htb : e.tb = d.tb := hk .tb (by simp)
  have hfld : ∀ f : Fld, ¬ readRegs f.off → fld e f = fld d f := fun f hf => fld_of_leaves hl f hf
  refine ⟨(hfld _ (by unfold readRegs; decide)).trans h.mode, by rw [hpwr]; exact h.req, heng.trans h.eng, hmem.trans h.mem,
    hcap.trans h.cap, fun n hn => ?_, fun n hn => ?_, fun seg i hs hi hn hd => ?_, htb.trans h.tb, fun off ho ho' => ?_, fun x => ?_⟩
  · exact (hfld (Reg.CAN_STAT_STATE n) (show ¬ (_ ∧ 0x11008 + n * 0x400 < 0x4000) by omega)).trans (h.can n hn)
  · exact (hfld (Reg.CAP_CH_STAT_STATE n) (show ¬ (_ ∧ 0x0F104 + n * 0x80 < 0x4000) by omega)).trans (h.chan n hn)
  · exact (hfld (Reg.LSH_NODE_STAT_STATE seg i) (show ¬ (_ ∧ 0x0C200 + seg * 0x800 + i * 0x10 < 0x4000) by omega)).trans
      (h.node seg i hs hi hn hd)
  · exact (hl off (by unfold readRegs; omega)).trans (h.engRegs off ho ho')
  · rw [powered, hpwr]
    exact h.dom x

theorem getReg_blocksLost (d : Die) (off : Nat) :
    getReg (blocksLost d) off = if dozeOff off then resetVal off else getReg d off := by
  split
  case isTrue h => exact sget_filter_lost (p := fun x => !dozeOff x) _ _ (by simp [h])
  case isFalse h => exact sget_filter_key (p := fun x => !dozeOff x) _ _ (by simpa using h)

theorem fld_blocksLost_lost (d : Die) {f : Fld} (h : dozeOff f.off = true) : fld (blocksLost d) f = bitsOf (resetVal f.off).toNat f.lo f.w := by
  rw [fld, getReg_blocksLost, if_pos h]

theorem fld_blocksLost_kept (d : Die) {f : Fld} (h : dozeOff f.off = false) : fld (blocksLost d) f = fld d f := by
  rw [fld, getReg_blocksLost, h]
  rfl

/-- The nodes of every declared segment are ABSENT once the segments went down. -/
theorem nodeState_wentDown (d : Die) {seg i : Nat} (hs : seg < 4) (hi : i < 32) (hn : i < nNode d seg)
    (hdecl : flag d (Reg.LSH_SCFG_DECL seg) = true) : nodeState (wentDown d) seg i = 0 := by
  have hcfg : ∀ {c e : Die}, Down c e → nNode e seg = nNode c seg ∧ flag e (Reg.LSH_SCFG_DECL seg) = flag c (Reg.LSH_SCFG_DECL seg) :=
    fun h => ⟨fld_of_leaves h.leaves (Reg.LSH_SCFG_NNODE seg) fun hp => hp.2 seg hs rfl,
      flag_of_leaves h.leaves (Reg.LSH_SCFG_DECL seg) fun hp => hp.2 seg hs rfl⟩
  have hfirst := hcfg ((down_dozeDrop d).trans (down_dozeTrunk _))
  have hsegs : nodeState ((upto 4).foldl dozeSeg (dozeTrunk (dozeDrop d))) seg i = 0 := foldl_reaches
    (I := fun e => nNode e seg = nNode d seg ∧ flag e (Reg.LSH_SCFG_DECL seg) = flag d (Reg.LSH_SCFG_DECL seg))
    (P := fun e => nodeState e seg i = 0) (mem_upto.2 hs)
    (fun e x _ h => ⟨(hcfg (down_dozeSeg e x)).1.trans h.1, (hcfg (down_dozeSeg e x)).2.trans h.2⟩)
    (fun e x _ hz => (down_dozeSeg e x).absent seg i hs hi hz)
    (fun e h => nodeState_dozeSeg e hs hi (h.1 ▸ hn) (h.2.trans hdecl)) hfirst
  exact (down_canOffs _).absent seg i hs hi hsegs

theorem doze_high {off : Nat} (h : 0xF000 ≤ off) (h' : off < 0x12000) : dozeOff off = true := by
  simp [dozeOff, h, h']

theorem doze_low {off : Nat} (h : 0x8000 ≤ off) (h' : off < 0xF000) : dozeOff off = false := by
  simp [dozeOff]
  omega

theorem canState_reset : ∀ n, n < 4 → bitsOf (resetVal (Reg.CAN_STAT n)).toNat 0 3 = 0 := by decide +kernel

theorem chState_reset : ∀ n, n < 16 → bitsOf (resetVal (Reg.CAP_CH_STAT n)).toNat 0 3 = 0 := by decide +kernel

theorem dozed_dozing (d : Die) : Dozed d (dozing d) ∧ (dozing d).trk.held = d.trk.held ∧ (dozing d).trk.recHeld = d.trk.recHeld := by
  obtain ⟨c, hc⟩ : ∃ c, (updPwr d fun p => { p with runDoms := (declaredDoms d).foldl setBit 0 }) = c := ⟨_, rfl⟩
  have hcr : ∀ o, getReg c o = getReg d o := fun o => by rw [← hc]; rfl
  have hct : c.trk = d.trk ∧ c.mem = d.mem ∧ c.tb = d.tb ∧ c.straps = d.straps := by rw [← hc]; exact ⟨rfl, rfl, rfl, rfl⟩
  have hdown := down_wentDown c
  have hnode := fun seg i => @nodeState_wentDown c seg i
  have hdozing : dozing d = setFld (updPwr (blocksLost (wentDown c)) fun p =>
      { p with dom := (dozeDoms (blocksLost (wentDown c))).foldl setBit 0, dozeReq := false }) Reg.PWR_STAT_MODE 1 := by
    rw [← hc]
    rfl
  generalize wentDown c = w at hdown hnode hdozing
  have hmem : w.mem = d.mem := (hdown.keeps .mem (by simp)).trans hct.2.1
  have htb : w.tb = d.tb := (hdown.keeps .tb (by simp)).trans hct.2.2.1
  have hstraps : w.straps = d.straps := (hdown.keeps .straps (by simp)).trans hct.2.2.2
  have hdoms : dozeDoms (blocksLost w) = dozeDoms d := by
    have : (blocksLost w).straps = d.straps := hstraps
    simp only [dozeDoms, hasHost, isMember, isCluster, isLead, this]
    rfl
  have hlow : ∀ o, dozeOff o = false → o ≠ Reg.PWR_STAT → ¬ dozeRegs o → getReg (dozing d) o = getReg d o := fun o ho hne hd => by
    have hreg : getReg (dozing d) o = getReg (blocksLost w) o := by
      rw [hdozing, getReg_setFld_ne _ Reg.PWR_STAT_MODE 1 hne]
      rfl
    rw [hreg, getReg_blocksLost, ho, ← hcr]
    exact hdown.leaves o hd
  have hlost : ∀ f : Fld, dozeOff f.off = true → f.off ≠ Reg.PWR_STAT → fld (dozing d) f = bitsOf (resetVal f.off).toNat f.lo f.w :=
    fun f ho hne => by
      rw [hdozing, fld_setFld_ne _ f Reg.PWR_STAT_MODE 1 hne]
      exact fld_blocksLost_lost w ho
  have hkept : ∀ f : Fld, dozeOff f.off = false → f.off ≠ Reg.PWR_STAT → fld (dozing d) f = fld w f := fun f ho hne => by
    rw [hdozing, fld_setFld_ne _ f Reg.PWR_STAT_MODE 1 hne]
    exact fld_blocksLost_kept w ho
  have hheld : w.trk.held = d.trk.held ∧ w.trk.recHeld = d.trk.recHeld := by
    rw [← hct.1]
    exact hdown.held
  refine ⟨⟨?_, ?_, ?_, ?_, ?_, fun n hn => ?_, fun n hn => ?_, fun seg i hs hi hn hdecl => ?_, ?_, fun off ho ho' => ?_, fun x => ?_⟩, ?_, ?_⟩
  · rw [hdozing]
    exact fld_setFld_same _ Reg.PWR_STAT_MODE 1 (by decide)
  · rw [hdozing]; rfl
  · rw [hdozing]; rfl
  · rw [hdozing, ← hmem]; rfl
  · rw [hdozing]; rfl
  · rw [canState, hlost (Reg.CAN_STAT_STATE n) (doze_high (by simp only [Reg.CAN_STAT_STATE, Reg.CAN_STAT]; omega)
      (by simp only [Reg.CAN_STAT_STATE, Reg.CAN_STAT]; omega)) (show 0x11008 + n * 0x400 ≠ 0x1000 by omega)]
    exact canState_reset n hn
  · rw [chState, hlost (Reg.CAP_CH_STAT_STATE n) (doze_high (by simp only [Reg.CAP_CH_STAT_STATE, Reg.CAP_CH_STAT]; omega)
      (by simp only [Reg.CAP_CH_STAT_STATE, Reg.CAP_CH_STAT]; omega)) (show 0x0F104 + n * 0x80 ≠ 0x1000 by omega)]
    exact chState_reset n hn
  · rw [nodeState, hkept (Reg.LSH_NODE_STAT_STATE seg i) (doze_low (show 0x8000 ≤ 0x0C200 + seg * 0x800 + i * 0x10 by omega)
      (show 0x0C200 + seg * 0x800 + i * 0x10 < 0xF000 by omega)) (show 0x0C200 + seg * 0x800 + i * 0x10 ≠ 0x1000 by omega)]
    have hcf : ∀ f, fld c f = fld d f := fun f => by rw [fld, hcr, fld]
    exact hnode seg i hs hi (by rw [nNode, hcf]; exact hn) (by rw [flag, hcf]; exact hdecl)
  · rw [hdozing]; exact htb
  · exact hlow off (doze_low ho (by omega)) (by simp only [Reg.PWR_STAT]; omega) fun h => by have := h.1; omega
  · have hdom : (dozing d).pwr.dom = (dozeDoms d).foldl setBit 0 := by
      rw [hdozing, ← hdoms]
      rfl
    rw [powered, hdom, bitOf_foldl_setBits]
    simp [bitOf]
  · rw [hdozing]; exact hheld.1
  · rw [hdozing]; exact hheld.2

/-- What a read does beside its answer leaves the accesses that wait. -/
theorem held_sides (g : Dog) (d : Die) (off : Nat) : (sideHead (sideEdge (sideSnap g d off) off) off).trk.held = d.trk.held := by
  have hsnap : (sideSnap g d off).trk = d.trk := by
    unfold sideSnap
    generalize BitVec.ofNat 32 (viewReg g d (off + 4)) = w
    cases isLow off <;> rfl
  have hedge : ∀ e : Die, (sideEdge e off).trk = e.trk := fun e => by
    have hput : ∀ (o x : Nat), (put64 e o x).trk = e.trk := fun _ _ => rfl
    unfold sideEdge
    cases off = Reg.BEAT_NUM && running e with
    | true => exact hput _ _
    | false => rfl
  have hhead : ∀ e : Die, (sideHead e off).trk.held = e.trk.held := fun e => by
    unfold sideHead
    split <;> rfl
  rw [hhead, hedge, hsnap]

theorem held_hostRead (g : Dog) (d : Die) (trunk : Bool) (off be : Nat) :
    (hostRead g d trunk off be).2.trk.held = d.trk.held := by
  have hrej : ∀ c, (reject d off true c).trk.held = d.trk.held := fun c => by
    have htrk : (reject d off true c).trk = d.trk := (reject_frame d off true c).2 .trk (by simp)
    rw [htrk]
  unfold hostRead
  split
  · rfl
  · split
    · exact hrej 2
    · split
      · exact hrej 6
      · cases h : regAt d trunk off with
        | none => rw [readSide_none h]
        | some x =>
          rw [readSide_some h]
          exact held_sides g d off

theorem leaves_hostRead (g : Dog) (d : Die) (trunk : Bool) (off be : Nat) : Leaves readRegs d (hostRead g d trunk off be).2 := by
  have hrej : ∀ c, Leaves readRegs d (reject d off true c) := fun c => (reject_frame d off true c).1.mono fun o ho => by
    obtain rfl | rfl := ho <;> (unfold readRegs; decide)
  unfold hostRead
  split
  · exact .refl _ _
  · split
    · exact hrej 2
    · split
      · exact hrej 6
      · refine (readSide_frame g d trunk off).1.mono fun o ho => ?_
        obtain rfl | rfl := ho <;> (unfold readRegs; decide)

/-- With no access held, only the read of a member may go on after a switch. -/
theorem drainSwitch_free (g : Dog) {d : Die} (hheld : d.trk.held = []) (hrec : d.trk.recHeld = []) :
    Leaves readRegs d (drainSwitch g d) ∧ Keeps [.regs, .snap, .trk] d (drainSwitch g d) := by
  obtain ⟨e, he⟩ : ∃ e, updTrk d (fun t => { t with recHeld := [] }) = e := ⟨_, rfl⟩
  have hl : Leaves readRegs d e := he ▸ .of_regs rfl
  have hk : Keeps [.regs, .snap, .trk] d e := he ▸ (keeps_updTrk d d (by simp) _).2 (.refl _ d)
  have hh : e.trk.held = [] := he ▸ hheld
  have hread : Leaves readRegs e (answerRead g e) ∧ Keeps [.regs, .snap, .trk] e (answerRead g e) ∧ (answerRead g e).trk.held = [] := by
    unfold answerRead
    split
    · extract_lets off be r
      split
      · exact ⟨.refl _ e, .refl _ e, hh⟩
      · exact ⟨(leaves_updTrk e _ _).2 (leaves_hostRead g e true off be),
          (keeps_updTrk e _ (by simp) _).2 (keeps_hostRead g e true off be), (held_hostRead g e true off be).trans hh⟩
    · exact ⟨.refl _ e, .refl _ e, hh⟩
  have heq : drainSwitch g d = answerRead g e := by
    unfold drainSwitch
    rw [hrec, he]
    exact drain_none hread.2.2 g
  rw [heq]
  exact ⟨hl.trans hread.1, hk.trans hread.2.1⟩

theorem ends_dozeEntry (s : State) (hmode : fld s.die Reg.PWR_STAT_MODE = 2) (hreq : s.die.pwr.hibReq = false)
    (hheld : s.die.trk.held = []) (hrec : s.die.trk.recHeld = []) :
    ends .dozeEntry s fun t => Dozed (found s) t.die ∧ t.dog = s.dog ∧ t.pending = s.pending := by
  obtain ⟨hd, hh, hr⟩ := dozed_dozing (found s)
  obtain ⟨hl, hk⟩ := drainSwitch_free s.dog (d := dozing (found s)) (hh.trans hheld) (hr.trans hrec)
  have heq := dozeIn_eq s.dog (found s) hmode hreq
  have hdozed := hd.of_read hl hk
  rw [← heq] at hdozed
  refine ends_of_onDie (f := dozeIn s.dog) rfl ⟨?_, rfl, rfl⟩
  generalize dozeIn s.dog (found s) = d at hdozed
  exact hdozed.of_read (fun off _ => getReg_irqSettle s.die d off) (keeps_irqSettle _ s.die d)

/-! The exit from Doze. -/

/-- The registers but the declaration and the status of the step channels. -/
def notStep (off : Nat) : Prop := ∀ n, n < 32 → off ≠ Reg.STP_STAT n ∧ off ≠ Reg.STP_CFG n

/-- A step of the exit from Doze after the power manager's. -/
structure Up (c d : Die) : Prop where
  leaves : Leaves notStep c d
  keeps : Keeps [.regs, .gear, .can, .trk] c d
  held : d.trk.held = c.trk.held ∧ d.trk.recHeld = c.trk.recHeld

theorem Up.refl (d : Die) : Up d d := ⟨.refl _ d, .refl _ d, ⟨rfl, rfl⟩⟩

theorem Up.trans {c d e : Die} (h : Up c d) (h' : Up d e) : Up c e :=
  ⟨h.leaves.trans h'.leaves, h.keeps.trans h'.keeps, ⟨h'.held.1.trans h.held.1, h'.held.2.trans h.held.2⟩⟩

theorem Up.foldl {β : Type} {f : Die → β → Die} {l : List β} (h : ∀ d, ∀ x ∈ l, Up d (f d x)) (d : Die) : Up d (l.foldl f d) := by
  induction l generalizing d with
  | nil => exact .refl d
  | cons x l ih => exact (h d x (by simp)).trans (ih (fun d y hy => h d y (by simp [hy])) (f d x))

/-- A step that leaves the trunk. -/
theorem Up.of_trk {c d : Die} (hl : Leaves notStep c d) (hk : Keeps [.regs, .gear, .can] c d) : Up c d := by
  have htrk : d.trk = c.trk := hk .trk (by simp)
  exact ⟨hl, hk.mono (by simp), by rw [htrk]; exact ⟨rfl, rfl⟩⟩

theorem up_setFld (d : Die) {f : Fld} (h : notStep f.off) (v : Nat) : Up d (setFld d f v) :=
  .of_trk ((leaves_setFld (p := notStep) d d h v).2 (.refl _ d)) (by simp)

theorem notStep_below {off : Nat} (h : off < 0x10000) : notStep off := fun n _ =>
  ⟨show off ≠ 0x10008 + n * 0x40 by omega, show off ≠ 0x1000C + n * 0x40 by omega⟩

theorem notStep_above {off : Nat} (h : 0x11000 ≤ off) : notStep off := fun n _ =>
  ⟨show off ≠ 0x10008 + n * 0x40 by omega, show off ≠ 0x1000C + n * 0x40 by omega⟩

theorem up_updGear (d : Die) (a : Nat) (f : GearSt → GearSt) : Up d (updGear d a f) := .of_trk (.of_regs rfl) (by simp)

theorem up_putRatios (d : Die) : Up d (putRatios d) := by
  unfold putRatios forEach
  generalize upto 128 = l
  exact Up.foldl (fun d a _ => up_updGear d a _) d

theorem up_putGroupModes (d : Die) : Up d (putGroupModes d) := by
  unfold putGroupModes forEach
  exact Up.foldl (fun d g _ => Up.foldl (fun d n _ => up_setFld d (f := Reg.STP_MODE_MODE n) (fun m _ =>
    ⟨show 0x10000 + n * 0x40 ≠ 0x10008 + m * 0x40 by omega, show 0x10000 + n * 0x40 ≠ 0x1000C + m * 0x40 by omega⟩) 2) d) d

theorem up_canReq (d : Die) (n req : Nat) : Up d (canReq d n req) := by
  have hstat : notStep (Reg.CAN_STAT n) := notStep_above (show 0x11000 ≤ 0x11008 + n * 0x400 by omega)
  have hall : Up d (canEndAll d n 2) := by
    refine .of_trk ((leaves_canEndAll d n 2).mono fun o ho => ?_) ((keeps_canEndAll d n 2).mono (by simp))
    obtain ⟨b, _, rfl⟩ | rfl := ho
    · exact notStep_above (show 0x11000 ≤ 0x11040 + n * 0x400 + b * 0x50 by omega)
    · exact hstat
  have hupd : ∀ (d : Die) (f : CanHid → CanHid), Up d (updCan d n f) := fun d f => .of_trk (.of_regs rfl) (by simp)
  unfold canReq
  extract_lets st mode
  split
  · split
    · exact .refl d
    · exact (hall.trans (up_setFld _ (f := Reg.CAN_STAT_STATE n) hstat 0)).trans (hupd _ _)
  · split
    · split
      · exact (up_setFld _ (f := Reg.CAN_STAT_STATE n) hstat 1).trans (hupd _ _)
      · exact .refl d
    · split
      · exact hupd _ _
      · exact .refl d

theorem up_canStart (d : Die) : Up d (canStart d) := by
  unfold canStart forEach
  exact Up.foldl (fun d n _ => by
    split
    · exact up_canReq d n _
    · exact .refl d) d

/-- A declared step channel no longer knows its position. -/
def unsureSet (d : Die) (n : Nat) : Die := if flag d (Reg.STP_CFG_DECL n) then setFlag d (Reg.STP_STAT_UNSURE n) else d

/-- The blocks have the Parcel's fields and the power manager has the domains (R387). -/
def reapplied (d : Die) : Die :=
  let recs := (d.boot.image.filter fun r => dozeOff r.1).map fun r => (r.1, r.2.toNat)
  let d := forEach recs d applyRec
  let d := forEach (declChans d) d fun d c => putReg d (Reg.CAP_CH_SLOTSZ c) (BitVec.ofNat 32 (slotSize d c))
  updPwr d fun p => { p with dom := (declaredDoms d).foldl setBit 0, dozeOut := false, mute := true }

/-- The blocks start. -/
def blocksUp (d : Die) : Die :=
  let d := canStart (putGroupModes (putRatios d))
  let d := if flag d Reg.CTR_CFG_DECL then trunkUp d else d
  forEach ((upto 4).filter fun s => flag d (Reg.LSH_SCFG_DECL s)) d fun d s => setFlag d (Reg.LSH_PSTAT_TXON (2 * s))

theorem dozeUp_eq (g : Dog) (d : Die) (hmode : fld d Reg.PWR_STAT_MODE = 3) (hout : d.pwr.dozeOut = true) (hreq : d.pwr.hibReq = false) :
    dozeUp g d = drainSwitch g (setFld (blocksUp ((upto 32).foldl unsureSet (reapplied d))) Reg.PWR_STAT_MODE 0) := by
  unfold dozeUp blocksUp reapplied
  rw [if_neg (by simp [hmode, hout, hreq])]
  generalize upto 32 = l
  generalize upto 4 = l'
  rfl

theorem up_trunkUp (d : Die) : Up d (trunkUp d) :=
  ⟨.of_regs rfl, (keeps_updTrk d d (by simp) _).2 (.refl _ d), rfl, rfl⟩

theorem up_blocksUp (d : Die) : Up d (blocksUp d) := by
  have h1 : Up d (canStart (putGroupModes (putRatios d))) := ((up_putRatios d).trans (up_putGroupModes _)).trans (up_canStart _)
  unfold blocksUp
  extract_lets d1 d2
  replace h1 : Up d d1 := h1
  clear_value d1
  have h2 : Up d1 d2 := by
    unfold d2
    split
    · exact up_trunkUp d1
    · exact .refl d1
  exact (h1.trans h2).trans (Up.foldl (f := fun d s => setFlag d (Reg.LSH_PSTAT_TXON (2 * s))) (fun d s hs =>
    up_setFld d (f := Reg.LSH_PSTAT_TXON (2 * s)) (notStep_below (show 0x0C004 + 2 * s * 0x400 < 0x10000 by
      have := mem_upto.1 (List.mem_filter.1 hs).1; omega)) 1) d2)

theorem keeps_applyRec (d : Die) (r : Nat × Nat) : Keeps [.regs, .held] d (applyRec d r) := by
  unfold applyRec
  extract_lets m old
  split
  · exact .refl _ d
  · exact (keeps_dropHeld d _ (by simp) _).2 ((keeps_putReg d d (by simp) _ _).2 (.refl _ d))

theorem keeps_slotSizes (d : Die) : Keeps [.regs, .held, .pwr] d
    (forEach (declChans d) d fun d c => putReg d (Reg.CAP_CH_SLOTSZ c) (BitVec.ofNat 32 (slotSize d c))) := by
  unfold forEach
  generalize declChans d = l
  exact Keeps.foldl (fun d c => (keeps_putReg d d (by simp) _ _).2 (.refl _ d)) l d

theorem keeps_reapplied (d : Die) : Keeps [.regs, .held, .pwr] d (reapplied d) ∧ (reapplied d).pwr.dozeOut = false ∧
    (reapplied d).pwr.mute = true := by
  unfold reapplied
  extract_lets recs d1 d2
  have h1 : Keeps [.regs, .held, .pwr] d d1 := (Keeps.foldl keeps_applyRec recs d).mono (by simp)
  have h2 : Keeps [.regs, .held, .pwr] d1 d2 := keeps_slotSizes d1
  clear_value d2
  exact ⟨(h1.trans h2).trans ((keeps_updPwr d2 d2 (by simp) _).2 (.refl _ d2)), rfl, rfl⟩

/-- Every declared step channel is unsure of its position. -/
def AllUnsure (d : Die) : Prop := ∀ n, n < 32 → flag d (Reg.STP_CFG_DECL n) = true → flag d (Reg.STP_STAT_UNSURE n) = true

theorem AllUnsure.of_leaves {p : Nat → Prop} {c d : Die} (h : AllUnsure c) (hl : Leaves p c d) (hp : ∀ o, p o → notStep o) : AllUnsure d := by
  intro n hn hdecl
  have hstat := flag_of_leaves hl (Reg.STP_STAT_UNSURE n) fun ho => (hp _ ho n hn).1 rfl
  have hcfg := flag_of_leaves hl (Reg.STP_CFG_DECL n) fun ho => (hp _ ho n hn).2 rfl
  exact hstat.trans (h n hn (hcfg.symm.trans hdecl))

theorem unsureSet_spec (d : Die) (m : Nat) : (∀ n, flag (unsureSet d m) (Reg.STP_CFG_DECL n) = flag d (Reg.STP_CFG_DECL n)) ∧
    (∀ n, flag d (Reg.STP_STAT_UNSURE n) = true → flag (unsureSet d m) (Reg.STP_STAT_UNSURE n) = true) ∧
    (flag d (Reg.STP_CFG_DECL m) = true → flag (unsureSet d m) (Reg.STP_STAT_UNSURE m) = true) ∧
    Keeps [.regs] d (unsureSet d m) := by
  unfold unsureSet
  split
  case isFalse h => exact ⟨fun _ => rfl, fun _ h => h, fun h' => absurd h' h, .refl _ d⟩
  case isTrue h =>
    have hset : flag (setFlag d (Reg.STP_STAT_UNSURE m)) (Reg.STP_STAT_UNSURE m) = true :=
      flag_setFlag_same d (Reg.STP_STAT_UNSURE m) (show 3 + 1 ≤ 32 by decide) rfl
    refine ⟨fun n => flag_setFld_ne d (Reg.STP_CFG_DECL n) (Reg.STP_STAT_UNSURE m) 1
      (show 0x1000C + n * 0x40 ≠ 0x10008 + m * 0x40 by omega), fun n hn => ?_, fun _ => hset, by simp⟩
    by_cases hnm : n = m
    · exact hnm ▸ hset
    · exact (flag_setFld_ne d (Reg.STP_STAT_UNSURE n) (Reg.STP_STAT_UNSURE m) 1
        (show 0x10008 + n * 0x40 ≠ 0x10008 + m * 0x40 by omega)).trans hn

theorem allUnsure_set (d : Die) : AllUnsure ((upto 32).foldl unsureSet d) := by
  intro n hn
  exact foldl_reaches (I := fun _ => True) (P := fun e => flag e (Reg.STP_CFG_DECL n) = true → flag e (Reg.STP_STAT_UNSURE n) = true)
    (mem_upto.2 hn) (fun _ _ _ _ => trivial)
    (fun e m _ h hdecl => (unsureSet_spec e m).2.1 n (h (((unsureSet_spec e m).1 n).symm.trans hdecl)))
    (fun e _ hdecl => (unsureSet_spec e n).2.2.1 (((unsureSet_spec e n).1 n).symm.trans hdecl)) trivial

theorem keeps_unsureAll (d : Die) : Keeps [.regs] d ((upto 32).foldl unsureSet d) :=
  Keeps.foldl (fun d m => (unsureSet_spec d m).2.2.2) (upto 32) d

/-- The exit from Doze (R387): the part runs, posts nothing yet, and no step channel knows its position. -/
structure Roused (c d : Die) : Prop where
  mode : fld d Reg.PWR_STAT_MODE = 0
  out : d.pwr.dozeOut = false
  mute : d.pwr.mute = true
  keeps : Keeps [.regs, .held, .pwr, .gear, .can, .trk, .snap] c d
  unsure : AllUnsure d

theorem Roused.of_read {c d e : Die} (h : Roused c d) (hl : Leaves readRegs d e) (hk : Keeps [.regs, .snap, .trk] d e) : Roused c e := by
  have hpwr : e.pwr = d.pwr := hk .pwr (by simp)
  exact ⟨(fld_of_leaves hl Reg.PWR_STAT_MODE (by unfold readRegs; decide)).trans h.mode, by rw [hpwr]; exact h.out,
    by rw [hpwr]; exact h.mute, h.keeps.trans (hk.mono (by simp)),
    h.unsure.of_leaves hl fun o ho => notStep_below (by have := ho.2; omega)⟩

/-- The part after the exit; accesses that waited have not gone on yet. -/
def roused (d : Die) : Die := setFld (blocksUp ((upto 32).foldl unsureSet (reapplied d))) Reg.PWR_STAT_MODE 0

theorem roused_roused (d : Die) : Roused d (roused d) ∧ (roused d).trk.held = d.trk.held ∧ (roused d).trk.recHeld = d.trk.recHeld := by
  obtain ⟨hr, hout, hmute⟩ := keeps_reapplied d
  have hu := keeps_unsureAll (reapplied d)
  have hall := allUnsure_set (reapplied d)
  unfold roused
  generalize reapplied d = r at *
  generalize (upto 32).foldl unsureSet r = u at *
  have hb := up_blocksUp u
  generalize blocksUp u = b at *
  have hpwr : b.pwr = r.pwr := (hb.keeps .pwr (by simp)).trans (hu .pwr (by simp))
  have htrk : u.trk = d.trk := (hu .trk (by simp)).trans (hr .trk (by simp))
  have hk : Keeps [.regs, .held, .pwr, .gear, .can, .trk, .snap] d b :=
    ((hr.mono (by simp)).trans (hu.mono (by simp))).trans (hb.keeps.mono (by simp))
  refine ⟨⟨fld_setFld_same b Reg.PWR_STAT_MODE 0 (by decide), ?_, ?_, (keeps_setFld d b (by simp) _ _).2 hk,
    (hall.of_leaves hb.leaves fun _ h => h).of_leaves (p := notStep) ((leaves_setFld b b (f := Reg.PWR_STAT_MODE)
      (notStep_below (by decide)) 0).2 (.refl _ b)) fun _ h => h⟩, hb.held.1.trans (by rw [htrk]), hb.held.2.trans (by rw [htrk])⟩
  · exact (congrArg Power.dozeOut hpwr).trans hout
  · exact (congrArg Power.mute hpwr).trans hmute

theorem ends_dozeExit (s : State) (hmode : fld s.die Reg.PWR_STAT_MODE = 3) (hout : s.die.pwr.dozeOut = true)
    (hreq : s.die.pwr.hibReq = false) (hheld : s.die.trk.held = []) (hrec : s.die.trk.recHeld = []) :
    ends .dozeExit s fun t => Roused (found s) t.die ∧ t.dog = s.dog ∧ t.pending = s.pending := by
  obtain ⟨hd, hh, hr⟩ := roused_roused (found s)
  obtain ⟨hl, hk⟩ := drainSwitch_free s.dog (d := roused (found s)) (hh.trans hheld) (hr.trans hrec)
  have heq := dozeUp_eq s.dog (found s) hmode hout hreq
  have hrouse := hd.of_read hl hk
  rw [show drainSwitch s.dog (roused (found s)) = dozeUp s.dog (found s) from heq.symm] at hrouse
  refine ends_of_onDie (f := dozeUp s.dog) rfl ⟨?_, rfl, rfl⟩
  generalize dozeUp s.dog (found s) = d at hrouse
  exact hrouse.of_read (fun off _ => getReg_irqSettle s.die d off) (keeps_irqSettle _ s.die d)

/-! Hibernate. -/

/-- A command of the power manager, from what it makes of the Sheepdog and the die. -/
theorem ends_of_onPower {i : Instr} {s : State} {f : Dog → Die → Dog × Die} {g : Dog} {d : Die} {P : State → Prop}
    (hi : exec i s = onPower f s) (hf : f s.dog (found s) = (g, d)) (hev : g.evlost ≤ s.dog.evlost)
    (h : P { s with dog := g, die := irqSettle s.die d }) : ends i s P := by
  refine ⟨_, hi, ?_⟩
  have hf' : f s.dog { s.die with host := { s.die.host with irqMsgs := [] } } = (g, d) := hf
  rw [hf', if_neg (Nat.not_lt.2 hev)]
  exact h

/-- A wake with EN as the command leaves it. -/
theorem wakeUp_woken {en : Bool} {g : Dog} {d d' : Die} (hd : (if en then updPwr d fun p => { p with en := true } else d) = d')
    (hhib : d'.pwr.hib = true) (hen : d'.pwr.en = true) (hvin : ¬ (d'.pwr.vin < 5600 ∨ 41000 < d'.pwr.vin)) :
    wakeUp en g d = (dog0, vinSettle (updPwr d' fun p => { p with hib := false, up := true, crystal := true, por := true, cause := 3 })) := by
  subst hd
  unfold wakeUp
  extract_lets d'
  rw [if_neg (by simp [d', hhib, hen]), if_neg hvin]

theorem wakeUp_idle {g : Dog} {d : Die} (h : d.pwr.en = false ∨ d.pwr.hib = false) : wakeUp false g d = (g, d) := by
  unfold wakeUp
  simp only [Bool.false_eq_true, if_false]
  rw [if_pos (by obtain h | h := h <;> simp [h])]

theorem keeps_supplyCut (d : Die) (ticket : Nat) : Keeps [.regs, .boot, .lgb, .host] d (supplyCut d ticket) := by
  have hp : ∀ (d : Die) (a b c e : Nat), Keeps [.regs, .boot, .lgb, .host] d (parcelEnd d a b c e) := fun d a b c e => by
    unfold parcelEnd
    extract_lets coded d'
    have h : Keeps [.regs, .boot, .lgb, .host] d d' := by simp [d']
    split
    · exact h
    · exact h.trans (by simp [sessionClose])
  unfold supplyCut
  extract_lets d'
  have h : Keeps [.regs, .boot, .lgb, .host] d d' := by simp [d']
  exact (h.trans (hp d' ticket 0xE 0xF 0)).trans (by simp)

/-- VIN crossing its threshold changes the warning alone, of the supply. -/
theorem vinSettle_supply (d : Die) : (∃ b, (vinSettle d).pwr = { d.pwr with vinWarnN := b }) ∧ (vinSettle d).inReset = d.inReset := by
  have hself : (∃ b, d.pwr = { d.pwr with vinWarnN := b }) ∧ d.inReset = d.inReset := ⟨⟨d.pwr.vinWarnN, rfl⟩, rfl⟩
  have hcross : (vinCrosses d).pwr = { d.pwr with vinWarnN := false } ∧ (vinCrosses d).inReset = d.inReset := by
    unfold vinCrosses
    extract_lets d1 d2 d3
    have h2 : d2.pwr = { d.pwr with vinWarnN := false } ∧ d2.inReset = d.inReset := ⟨rfl, rfl⟩
    clear_value d2
    have h3 : Keeps [.regs, .boot, .lgb, .host] d2 d3 := by
      unfold d3
      split
      · exact .refl _ d2
      · simp
    have h4 : Keeps [.regs, .boot, .lgb, .host] d2
        (if flag d3 Reg.GLB_BOOT_STAT_SESSION = true then supplyCut d3 (runningParcel d3) else d3) := by
      split
      · exact h3.trans (keeps_supplyCut _ _)
      · exact h3
    exact ⟨(h4 .pwr (by simp)).trans h2.1, (h4 .inReset (by simp)).trans h2.2⟩
  unfold vinSettle
  extract_lets warn
  split
  · exact hself
  · split
    · split
      · exact ⟨⟨false, hcross.1⟩, hcross.2⟩
      · exact hself
    · split
      · exact ⟨⟨true, rfl⟩, rfl⟩
      · exact hself

theorem keepsBut_settled (s : State) : keepsBut [] s { s with die := irqSettle s.die (found s) } := keepsBut_command (.refl _ _)

theorem dogSafe_dog0 : dog0.so = 0 := by decide

theorem ends_hibernate (s : State) (en : Bool) (hup : s.die.pwr.up = true)
    (h : en = true ∨ (s.die.pwr.hibReq = true ∧ s.die.inReset = false)) :
    ends (.hibernateEntry en) s fun t => t.die.pwr.up = false ∧ t.die.pwr.hib = true ∧ t.die.inReset = true ∧
      t.die.pwr.en = (s.die.pwr.en && !en) ∧ t.dog.so = 0 ∧ t.dog.run = false ∧ t.die.lgb = logbook0 ∧
      t.die.knl = kennel0 ∧ t.die.pwr.tj = 0 ∧ t.die.boot.flash = s.die.boot.flash ∧ t.die.boot.blown = s.die.boot.blown := by
  obtain ⟨d, hd, hen, hflash, hblown⟩ : ∃ d, hibernate en s.dog (found s) = (dog0, updPwr (unpowered d) fun p => { p with hib := true }) ∧
      d.pwr.en = (s.die.pwr.en && !en) ∧ d.boot.flash = s.die.boot.flash ∧ d.boot.blown = s.die.boot.blown := by
    cases en with
    | true =>
      refine ⟨updPwr (found s) fun p => { p with en := false }, ?_, by simp [updPwr], rfl, rfl⟩
      have : ((updPwr (found s) fun p => { p with en := false }).pwr.up) = true := hup
      unfold hibernate
      simp [this]
    | false =>
      have hreq := h.resolve_left nofun
      refine ⟨found s, ?_, by simp [found], rfl, rfl⟩
      have h1 : (found s).pwr.up = true := hup
      have h2 : (found s).pwr.hibReq = true := hreq.1
      have h3 : (found s).inReset = false := hreq.2
      unfold hibernate
      simp [h1, h2, h3]
  refine ends_of_onPower (f := hibernate en) rfl hd (Nat.zero_le _) ?_
  obtain ⟨x, hx⟩ : ∃ x, (updPwr (unpowered d) fun p => { p with hib := true }) = x := ⟨_, rfl⟩
  have hk := keeps_irqSettle [] s.die x
  have hpwr : (irqSettle s.die x).pwr = x.pwr := hk .pwr (by simp)
  have hlgb : (irqSettle s.die x).lgb = x.lgb := hk .lgb (by simp)
  have hknl : (irqSettle s.die x).knl = x.knl := hk .knl (by simp)
  have hreset : (irqSettle s.die x).inReset = x.inReset := hk .inReset (by simp)
  have hboot : (irqSettle s.die x).boot = x.boot := hk .boot (by simp)
  show (irqSettle s.die _).pwr.up = _ ∧ _
  rw [hx]
  refine ⟨by rw [hpwr, ← hx]; rfl, by rw [hpwr, ← hx]; rfl, by rw [hreset, ← hx]; rfl, by rw [hpwr, ← hx]; exact hen, dogSafe_dog0, rfl,
    by rw [hlgb, ← hx]; rfl, by rw [hknl, ← hx]; rfl, by rw [hpwr, ← hx]; rfl, by rw [hboot, ← hx]; exact hflash,
    by rw [hboot, ← hx]; exact hblown⟩

theorem ends_wake (s : State) (en : Bool) (hhib : s.die.pwr.hib = true) (h : en = true ∨ s.die.pwr.en = true)
    (hlow : 5600 ≤ s.die.pwr.vin) (hhigh : s.die.pwr.vin ≤ 41000) :
    ends (.wake en) s fun t => t.die.pwr.up = true ∧ t.die.pwr.hib = false ∧
      t.die.pwr.cause = 3 ∧ t.dog = dog0 ∧ t.die.inReset = s.die.inReset := by
  obtain ⟨d, hd, hreset⟩ : ∃ d, wakeUp en s.dog (found s) = (dog0, vinSettle (updPwr d fun p =>
      { p with hib := false, up := true, crystal := true, por := true, cause := 3 })) ∧ d.inReset = s.die.inReset := by
    have hvin : ¬ (s.die.pwr.vin < 5600 ∨ 41000 < s.die.pwr.vin) := by omega
    cases en with
    | true => exact ⟨_, wakeUp_woken (d := found s) (if_pos rfl) hhib rfl hvin, rfl⟩
    | false => exact ⟨_, wakeUp_woken (d := found s) (if_neg nofun) hhib (h.resolve_left nofun) hvin, rfl⟩
  obtain ⟨⟨b, hsup⟩, hrst⟩ := vinSettle_supply (updPwr d fun p => { p with hib := false, up := true, crystal := true, por := true, cause := 3 })
  refine ends_of_onPower (f := wakeUp en) rfl hd (Nat.zero_le _) ?_
  clear hd
  generalize vinSettle _ = x at hsup hrst
  have hk := keeps_irqSettle [] s.die x
  have hpwr : (irqSettle s.die x).pwr = x.pwr := hk .pwr (by simp)
  exact ⟨by rw [hpwr, hsup]; rfl, by rw [hpwr, hsup]; rfl, by rw [hpwr, hsup]; rfl, rfl,
    ((hk .inReset (by simp)).trans hrst).trans hreset⟩

/-- Settles O51: the entry into Doze (`Dozed`), the exit (`Roused`), Hibernate and the wake, each over what it leaves. -/
theorem dozeAndHibernate : Obligations.DozeAndHibernate := by
  unfold Obligations.DozeAndHibernate
  refine ⟨fun s hmode hreq hheld hrec => ?_, fun s h => ?_, fun s hmode hout hreq hheld hrec => ?_, fun s h => ?_,
    fun s en hup h => ends_hibernate s en hup h, fun s en hhib h hlow hhigh => ends_wake s en hhib h hlow hhigh, fun s h => ?_⟩
  · refine ends.imp (ends_dozeEntry s hmode hreq hheld hrec) fun t ⟨h, hdog, hpend⟩ => ?_
    exact ⟨h.mode, h.req, h.eng, by rw [h.mem], by rw [h.mem]; rfl, by rw [h.mem]; rfl, h.cap, h.can, h.chan, h.node, h.tb, h.engRegs,
      h.dom, hdog, hpend⟩
  · have hidle : dozeIn s.dog (found s) = found s := by
      unfold dozeIn
      have hmode : fld (found s) Reg.PWR_STAT_MODE = fld s.die Reg.PWR_STAT_MODE := rfl
      have hhib : (found s).pwr.hibReq = s.die.pwr.hibReq := rfl
      rw [hmode, hhib, if_pos (by obtain h | h := h <;> simp [h])]
    exact ends_of_onDie (f := dozeIn s.dog) rfl (by rw [hidle]; exact keepsBut_settled s)
  · refine ends.imp (ends_dozeExit s hmode hout hreq hheld hrec) fun t ⟨h, hdog, hpend⟩ => ?_
    exact ⟨h.mode, h.out, h.mute, by simp [posting, h.mode, h.mute], h.keeps .tb (by simp), h.keeps .lgb (by simp), h.unsure, hdog, hpend⟩
  · have hidle : dozeUp s.dog (found s) = found s := by
      unfold dozeUp
      have hout : (found s).pwr.dozeOut = s.die.pwr.dozeOut := rfl
      have hhib : (found s).pwr.hibReq = s.die.pwr.hibReq := rfl
      rw [hout, hhib, if_pos (by obtain h | h := h <;> simp [h])]
    exact ends_of_onDie (f := dozeUp s.dog) rfl (by rw [hidle]; exact keepsBut_settled s)
  · exact ends_of_onPower (f := wakeUp false) rfl (wakeUp_idle (d := found s) h) (Nat.le_refl _) (keepsBut_settled s)

end Sys2Proof.Machine
end

section
/-! PROOFS. The limiter of the gear unit keeps to its limits (R143). -/

namespace Sys2Proof.Machine

open Sys2Proof

/-! Arithmetic of the step. -/

theorem rhu_nonneg {n d : Int} (hn : 0 ≤ n) (hd : 0 ≤ d) : 0 ≤ rhu n d := Int.ediv_nonneg (by omega) (by omega)

theorem edgeI_step_nonneg (d : Die) (k : Nat) : 0 ≤ edgeI d (k + 1) - edgeI d k := by
  have h : edgeGt (hz d) k ≤ edgeGt (hz d) (k + 1) := Nat.div_le_div_right (Nat.mul_le_mul_right _ (Nat.le_succ k))
  simp only [edgeI]
  omega

theorem clampI_bounds (x : Int) {lo hi : Int} (h : lo ≤ hi) : lo ≤ clampI x lo hi ∧ clampI x lo hi ≤ hi := by
  unfold clampI
  split
  · exact ⟨Int.le_refl _, h⟩
  · split <;> omega

/-- A step towards a goal, limited to `b` either way, stays between where it began and the goal. -/
theorem limited_between (a goal : Int) {b : Int} (hb : 0 ≤ b) :
    ((a + clampI (goal - a) (-b) b - a).natAbs : Int) ≤ b ∧ min a goal ≤ a + clampI (goal - a) (-b) b ∧
      a + clampI (goal - a) (-b) b ≤ max a goal := by
  unfold clampI
  split
  · omega
  · split <;> omega

/-- The acceleration asked for points towards the velocity asked for and is no larger than amax (R143). -/
theorem goal_bounds {dv m amax : Int} (hm : 0 ≤ m) (hmax : m ≤ amax) :
    ((sgn dv * m).natAbs : Int) ≤ amax ∧ (dv < 0 → sgn dv * m ≤ 0) ∧ (0 < dv → 0 ≤ sgn dv * m) := by
  unfold sgn
  split
  · omega
  · split <;> omega

theorem imin_nonneg {a b : Int} (ha : 0 ≤ a) (hb : 0 ≤ b) : 0 ≤ imin a b := by
  unfold imin
  split <;> assumption

theorem imin_le_left (a b : Int) : imin a b ≤ a := by
  unfold imin
  split <;> omega

/-- One step out of lock: the change of the acceleration, its bound and its direction (R143). -/
theorem stepOut_accel {amax jmax dt vdes p v a : Int} (hamax : 0 ≤ amax) (hjmax : 0 ≤ jmax) (hdt : 0 ≤ dt) :
    let an := (stepOut amax jmax dt vdes p v a).1
    ((an - a).natAbs : Int) ≤ rhu (jmax * dt) giga ∧ ((a.natAbs : Int) ≤ amax → (an.natAbs : Int) ≤ amax) ∧
      (vdes < v → an ≤ max a 0) ∧ (v < vdes → min a 0 ≤ an) := by
  intro an
  have hdj : 0 ≤ rhu (jmax * dt) giga := rhu_nonneg (Int.mul_nonneg hjmax hdt) (by decide)
  obtain ⟨m, hm, hle, han⟩ : ∃ m, 0 ≤ m ∧ m ≤ amax ∧
      an = a + clampI (sgn (vdes - v) * m - a) (-rhu (jmax * dt) giga) (rhu (jmax * dt) giga) := by
    refine ⟨_, imin_nonneg (imin_nonneg hamax (rhu_nonneg (Int.mul_nonneg (Int.natCast_nonneg _) (by decide)) hdt)) (Int.natCast_nonneg _),
      (imin_le_left _ _).trans (imin_le_left _ _), rfl⟩
  obtain ⟨hgoal, hneg, hpos⟩ := goal_bounds (dv := vdes - v) hm hle
  obtain ⟨hjerk, hlow, hhigh⟩ := limited_between a (sgn (vdes - v) * m) hdj
  rw [← han] at hjerk hlow hhigh
  refine ⟨hjerk, fun ha => by omega, fun hv => ?_, fun hv => ?_⟩
  · have := hneg (by omega)
    omega
  · have := hpos (by omega)
    omega

/-! The limiter. -/

/-- In lock, and otherwise the step towards a velocity no larger than vmax (R143). -/
theorem limiter_cases (d : Die) (a : Nat) (r vr ar : Int) :
    let g := gearH d a
    let dt := edgeI d (d.tb.k + 1) - edgeI d d.tb.k
    let amax : Int := (effN d (Reg.AX_LS_AMAX a) * 16 * 65536 : Nat)
    let vmax : Int := (effN d (Reg.AX_LS_VMAX a) * 65536 : Nat)
    let jmax : Int := (effN d (Reg.AX_LS_JMAX a) * 1024 * 65536 : Nat)
    (limiter d a r vr ar = (r, vr, ar, true) ∧
      ((vr - g.v).natAbs : Int) ≤ rhu ((effN d (Reg.AX_LS_TOL a) : Nat) * giga) dt ∧ (ar.natAbs : Int) ≤ amax ∧
      ((ar - g.a).natAbs : Int) ≤ rhu (jmax * dt) giga) ∨
    ∃ vdes, -vmax ≤ vdes ∧ vdes ≤ vmax ∧ limiter d a r vr ar =
      ((stepOut amax jmax dt vdes g.p g.v g.a).2.2, (stepOut amax jmax dt vdes g.p g.v g.a).2.1,
        (stepOut amax jmax dt vdes g.p g.v g.a).1, false) := by
  intro g dt amax vmax jmax
  unfold limiter
  extract_lets kc tol e dj corr vdes x
  split
  case isTrue h =>
    obtain ⟨_, hv, ha, hj⟩ := h
    exact .inl ⟨rfl, hv, ha, hj⟩
  case isFalse =>
    have hb := clampI_bounds (vr + corr) (lo := -vmax) (hi := vmax) (by omega)
    exact .inr ⟨vdes, hb.1, hb.2, rfl⟩

/-- Settles O29: by the two branches of the limiter. -/
theorem limiterBoundsJerk : Obligations.LimiterBoundsJerk := by
  unfold Obligations.LimiterBoundsJerk
  intro d a r vr ar y dt
  have hy : y = limiter d a r vr ar := rfl
  obtain ⟨hlock, hv, ha, hj⟩ | ⟨vdes, hlo, hhi, hstep⟩ := limiter_cases d a r vr ar
  · rw [hlock] at hy
    rw [hy]
    exact ⟨fun _ => ⟨rfl, rfl, rfl⟩, hj, fun _ => ha, fun _ => ⟨hv, ha⟩, nofun, nofun, nofun⟩
  · rw [hstep] at hy
    rw [hy]
    obtain ⟨hjerk, hbound, hdown, hup⟩ := stepOut_accel (amax := (effN d (Reg.AX_LS_AMAX a) * 16 * 65536 : Nat))
      (jmax := (effN d (Reg.AX_LS_JMAX a) * 1024 * 65536 : Nat)) (vdes := vdes) (p := (gearH d a).p) (v := (gearH d a).v) (a := (gearH d a).a)
      (Int.natCast_nonneg _) (Int.natCast_nonneg _) (edgeI_step_nonneg d d.tb.k)
    exact ⟨nofun, hjerk, hbound, nofun, fun _ h => hdown (Int.lt_of_le_of_lt hhi h), fun _ h => hup (Int.lt_of_lt_of_le h hlo),
      fun _ => ⟨rfl, rfl⟩⟩

end Sys2Proof.Machine
end

section
/-! PROOFS. The evaluation of an axis (R121 to R123). -/

namespace Sys2Proof.Machine

open Sys2Proof

/-! Hardware's writes of the axis-state words. -/

theorem getReg_axMark (d : Die) (o b off : Nat) : getReg (axMark d o b) off = getReg d off :=
  (leaves_axMark (p := fun _ => False) d d o b).2 (.refl _ d) off (by simp)

theorem fld_axMark (d : Die) (o b : Nat) (f : Fld) : fld (axMark d o b) f = fld d f := by rw [fld, getReg_axMark, fld]

theorem fld_axFld_same (d : Die) (f : Fld) (v : Nat) (h : f.lo + f.w ≤ 32) : fld (axFld d f v) f = v % 2 ^ f.w :=
  fld_setFld_same _ f v h

theorem fld_axFld_ne (d : Die) (f g : Fld) (v : Nat) (h : f.off ≠ g.off) : fld (axFld d g v) f = fld d f := by
  rw [axFld, fld_setFld_ne _ f g v h, fld_axMark]

theorem fld_axFld_below (d : Die) (f g : Fld) (v : Nat) (hoff : f.off = g.off) (hlo : f.lo + f.w ≤ g.lo) (hg : g.lo + g.w ≤ 32) :
    fld (axFld d g v) f = fld d f := by
  rw [axFld, fld_setFld_below _ f g v hoff hlo hg, fld_axMark]

theorem flag_axEvent_same (d : Die) (f : Fld) (h : f.lo + f.w ≤ 32) (hw : f.w = 1) : flag (axEvent d f) f = true := by
  rw [flag, axEvent, fld_axFld_same d f 1 h, hw]
  rfl

/-- A host write in the same cycle loses to the clearing of REQ (R58, R122). -/
theorem leaves_clearReq (c d : Die) (a : Nat) {p : Nat → Prop} (h : p (Reg.AX_CTL a)) : Leaves p c (clearReq d a) ↔ Leaves p c d := by
  unfold clearReq
  extract_lets off
  rw [leaves_setFld _ _ (f := Reg.AX_CTL_REQ a) h, leaves_axNote, leaves_dropHeld]

theorem req_clearReq (d : Die) (a : Nat) : fld (clearReq d a) (Reg.AX_CTL_REQ a) = 0 :=
  fld_setFld_same _ (Reg.AX_CTL_REQ a) 0 (show 0 + 2 ≤ 32 by decide)

theorem getReg_hwPut_same (d : Die) (o : Nat) (w : Word) : getReg (hwPut d o w) o = w := getReg_putReg_same ..

theorem getReg_hwPut_ne (d : Die) {o off : Nat} (w : Word) (h : off ≠ o) : getReg (hwPut d o w) off = getReg d off :=
  (getReg_putReg_ne _ w h).trans (getReg_axMark d o _ off)

theorem getI64_of_words {c d : Die} {o : Nat} (hlo : getReg d o = getReg c o) (hhi : getReg d (o + 4) = getReg c (o + 4)) :
    getI64 d o = getI64 c o := by rw [getI64, get64, hlo, hhi, getI64, get64]

theorem getI64_hwPut64 (d : Die) (o : Nat) (x : Int) : getI64 (hwPut64 d o x) o = wrapS 64 x := by
  have h := getI64_putI64 d o x
  rw [← h]
  refine getI64_of_words ?_ ?_
  · rw [hwPut64, getReg_hwPut_ne _ _ (by omega), getReg_hwPut_same, putI64, put64, getReg_putReg_ne _ _ (by omega), getReg_putReg_same]
  · rw [hwPut64, getReg_hwPut_same, putI64, put64, getReg_putReg_same]

theorem wrap_sext_64 (x : Nat) : wrap 64 (sext 64 x) = x % 2 ^ 64 := by
  have hm : x % 2 ^ 64 < 2 ^ 64 := Nat.mod_lt _ (by decide)
  unfold wrap sext
  extract_lets m
  split <;> omega

theorem wrapS_sext_64 (x : Nat) : wrapS 64 (sext 64 x) = sext 64 x := by
  rw [wrapS, wrap_sext_64, sext, Nat.mod_mod, ← sext]

theorem wrapS_getI64 (d : Die) (o : Nat) : wrapS 64 (getI64 d o) = getI64 d o := wrapS_sext_64 _

/-- The registers of the carried state of an axis. -/
def stageRegs (a off : Nat) : Prop := ∃ j, j < 16 ∧ off = Reg.AX_STAGE a j

theorem leaves_stageWrites (a : Nat) (w : Die → Nat → Word) (l : List Nat) (hl : ∀ j ∈ l, j < 16) (d : Die) :
    Leaves (stageRegs a) d (l.foldl (fun d j => hwPut d (Reg.AX_STAGE a j) (w d j)) d) :=
  Leaves.foldl (fun d j hj => (leaves_hwPut (p := stageRegs a) d d ⟨j, hl j hj, rfl⟩ _).2 (.refl _ d)) d

theorem leaves_cleanAxis (d : Die) (a : Nat) : Leaves (stageRegs a) d (cleanAxis d a) := by
  have h : ∀ e : Die, Leaves (stageRegs a) e (putStage e a) :=
    leaves_stageWrites a (fun e j => Config.stageWord e.boot.img j (stageList (stg e a))) (upto 16) fun _ => mem_upto.1
  exact (Leaves.of_regs rfl : Leaves _ d (updStg d a cleanStage)).trans (h _)

/-! Entries to states. -/

/-- The registers that an entry to Faulted may write. -/
def faultRegs (a off : Nat) : Prop := off = Reg.AX_STAT a ∨ off = Reg.AX_FAULT a ∨ off = Reg.AX_CTL a ∨ off < 0x20000

theorem enterFaulted_spec (d : Die) (a cause : Nat) : axState (enterFaulted d a cause) a = 4 ∧
    fld (enterFaulted d a cause) (Reg.AX_FAULT_CAUSE a) = cause % 16 ∧ fld (enterFaulted d a cause) (Reg.AX_CTL_REQ a) = 0 := by
  unfold enterFaulted
  extract_lets d'
  have hl : Leaves (fun off => off < 0x20000) d' (irqSet (logEvt d' 3 1 2 a (getReg d' (Reg.AX_FAULT a)).toNat (beatNum d')) 8) := by
    rw [leaves_irqSet (p := fun off => off < 0x20000) _ _ (by decide), leaves_logEvt _ _ (by decide) (by decide)]
    exact .refl _ d'
  have hc : Leaves (· = Reg.AX_CTL a) (axFld (axFld d (Reg.AX_STAT_STATE a) 4) (Reg.AX_FAULT_CAUSE a) cause) d' :=
    (leaves_clearReq (p := (· = Reg.AX_CTL a)) _ _ a rfl).2 (.refl _ _)
  refine ⟨?_, ?_, ?_⟩
  · rw [axState, fld_of_leaves hl (Reg.AX_STAT_STATE a) (show ¬ 0x20004 + a * 0x400 < 0x20000 by omega),
      fld_of_leaves hc (Reg.AX_STAT_STATE a) (show 0x20004 + a * 0x400 ≠ 0x20000 + a * 0x400 by omega),
      fld_axFld_ne _ (Reg.AX_STAT_STATE a) (Reg.AX_FAULT_CAUSE a) cause (show 0x20004 + a * 0x400 ≠ 0x20008 + a * 0x400 by omega)]
    exact fld_axFld_same d (Reg.AX_STAT_STATE a) 4 (show 0 + 3 ≤ 32 by decide)
  · rw [fld_of_leaves hl (Reg.AX_FAULT_CAUSE a) (show ¬ 0x20008 + a * 0x400 < 0x20000 by omega),
      fld_of_leaves hc (Reg.AX_FAULT_CAUSE a) (show 0x20008 + a * 0x400 ≠ 0x20000 + a * 0x400 by omega)]
    exact fld_axFld_same _ (Reg.AX_FAULT_CAUSE a) cause (show 0 + 4 ≤ 32 by decide)
  · rw [fld_of_leaves hl (Reg.AX_CTL_REQ a) (show ¬ 0x20000 + a * 0x400 < 0x20000 by omega)]
    exact req_clearReq _ a

theorem stage_ne (a : Nat) {off : Nat} (h : off < 0x203C0 + a * 0x400) : ¬ stageRegs a off := by
  rintro ⟨j, _, rfl⟩
  have : Reg.AX_STAGE a j = 0x203C0 + a * 0x400 + j * 4 := rfl
  omega

theorem enterStopping_spec (d : Die) (a cause : Nat) : axState (enterStopping d a cause) a = 3 ∧
    fld (enterStopping d a cause) (Reg.AX_FAULT_STOPCAUSE a) = cause % 16 ∧
    (cause ≠ causeHost → fld (enterStopping d a cause) (Reg.AX_CTL_REQ a) = 0) := by
  unfold enterStopping
  extract_lets d1 d2 d3
  have h1 : axState d1 a = 3 ∧ fld d1 (Reg.AX_FAULT_STOPCAUSE a) = cause % 16 :=
    ⟨(fld_axFld_ne _ (Reg.AX_STAT_STATE a) (Reg.AX_FAULT_STOPCAUSE a) cause
        (show 0x20004 + a * 0x400 ≠ 0x20008 + a * 0x400 by omega)).trans
          (fld_axFld_same d (Reg.AX_STAT_STATE a) 3 (show 0 + 3 ≤ 32 by decide)),
      fld_axFld_same _ (Reg.AX_FAULT_STOPCAUSE a) cause (show 8 + 4 ≤ 32 by decide)⟩
  have h2 : Leaves (· = Reg.AX_CTL a) d1 d2 ∧ (cause ≠ causeHost → fld d2 (Reg.AX_CTL_REQ a) = 0) := by
    unfold d2
    split
    case isTrue h => exact ⟨.refl _ d1, fun h' => absurd h h'⟩
    case isFalse => exact ⟨(leaves_clearReq (p := (· = Reg.AX_CTL a)) _ _ a rfl).2 (.refl _ d1), fun _ => req_clearReq d1 a⟩
  have h3 : Leaves (stageRegs a) d2 (if cause = 3 ∨ cause = 4 then cleanAxis d3 a else d3) := by
    split
    · exact (Leaves.of_regs rfl).trans (leaves_cleanAxis d3 a)
    · exact .of_regs rfl
  refine ⟨?_, ?_, fun h => ?_⟩
  · rw [axState, fld_of_leaves h3 (Reg.AX_STAT_STATE a) (stage_ne a (show 0x20004 + a * 0x400 < 0x203C0 + a * 0x400 by omega)),
      fld_of_leaves h2.1 (Reg.AX_STAT_STATE a) (show 0x20004 + a * 0x400 ≠ 0x20000 + a * 0x400 by omega)]
    exact h1.1
  · rw [fld_of_leaves h3 (Reg.AX_FAULT_STOPCAUSE a) (stage_ne a (show 0x20008 + a * 0x400 < 0x203C0 + a * 0x400 by omega)),
      fld_of_leaves h2.1 (Reg.AX_FAULT_STOPCAUSE a) (show 0x20008 + a * 0x400 ≠ 0x20000 + a * 0x400 by omega)]
    exact h1.2
  · rw [fld_of_leaves h3 (Reg.AX_CTL_REQ a) (stage_ne a (show 0x20000 + a * 0x400 < 0x203C0 + a * 0x400 by omega))]
    exact h2.2 h

/-- The registers of the setpoint slots and of their choice. -/
def slotRegs (a off : Nat) : Prop := 0x20040 + a * 0x400 ≤ off ∧ off < 0x20080 + a * 0x400 ∨ off = Reg.AX_PSEL a

theorem leaves_slotClear (d : Die) {a j : Nat} (hj : j < 2) (w : Word) : Leaves (slotRegs a) d
    (hwPut (hwPut64 (hwPut64 d (Reg.AX_RS_VCMD a j) 0) (Reg.AX_RS_VSLOPE a j) 0) (Reg.AX_RS_TAG a j) w) := by
  have hv : slotRegs a (Reg.AX_RS_VCMD a j) ∧ slotRegs a (Reg.AX_RS_VCMD a j + 4) := by
    simp only [slotRegs, Reg.AX_RS_VCMD]
    omega
  have hs : slotRegs a (Reg.AX_RS_VSLOPE a j) ∧ slotRegs a (Reg.AX_RS_VSLOPE a j + 4) := by
    simp only [slotRegs, Reg.AX_RS_VSLOPE]
    omega
  have ht : slotRegs a (Reg.AX_RS_TAG a j) := by
    simp only [slotRegs, Reg.AX_RS_TAG]
    omega
  rw [leaves_hwPut _ _ ht, leaves_hwPut64 _ _ hs.1 hs.2, leaves_hwPut64 _ _ hv.1 hv.2]
  exact .refl _ d

theorem enterEnabled_spec (d : Die) (a : Nat) : axState (enterEnabled d a) a = 2 ∧
    getI64 (enterEnabled d a) (Reg.AX_PTGT a) = getI64 d (Reg.AX_PFB a) := by
  unfold enterEnabled
  extract_lets d1 d2 d3 d4
  have h1 : Leaves (· = Reg.AX_STAT a) d d1 := (leaves_axFld (p := (· = Reg.AX_STAT a)) (f := Reg.AX_STAT_STATE a) d d rfl 2).2 (.refl _ d)
  have h2 : Leaves (stageRegs a) d1 d2 := leaves_cleanAxis d1 a
  have h12 : ∀ off, off ≠ Reg.AX_STAT a → off < 0x203C0 + a * 0x400 → getReg d2 off = getReg d off := fun off hne hlt =>
    (h2 off (stage_ne a hlt)).trans (h1 off hne)
  have hpfb : getI64 d2 (Reg.AX_PFB a) = getI64 d (Reg.AX_PFB a) := getI64_of_words
    (h12 _ (show 0x20020 + a * 0x400 ≠ 0x20004 + a * 0x400 by omega) (show 0x20020 + a * 0x400 < 0x203C0 + a * 0x400 by omega))
    (h12 _ (show 0x20020 + a * 0x400 + 4 ≠ 0x20004 + a * 0x400 by omega) (show 0x20020 + a * 0x400 + 4 < 0x203C0 + a * 0x400 by omega))
  have hptgt : getI64 d3 (Reg.AX_PTGT a) = getI64 d (Reg.AX_PFB a) := by
    rw [← hpfb]
    exact (getI64_hwPut64 d2 (Reg.AX_PTGT a) _).trans (wrapS_getI64 d2 _)
  have h3 : Leaves (fun o => o = Reg.AX_PTGT a ∨ o = Reg.AX_PTGT a + 4) d2 d3 :=
    (leaves_hwPut64 (p := fun o => o = Reg.AX_PTGT a ∨ o = Reg.AX_PTGT a + 4) _ _ (.inl rfl) (.inr rfl) _).2 (.refl _ d2)
  have h4 : Leaves (slotRegs a) d3 d4 := (leaves_axFld (p := slotRegs a) (f := Reg.AX_PSEL_SEL a) d3 d3 (.inr rfl) 0).2 (.refl _ d3)
  have h5 : Leaves (slotRegs a) d4 ([0, 1].foldl (fun d j =>
      hwPut (hwPut64 (hwPut64 d (Reg.AX_RS_VCMD a j) 0) (Reg.AX_RS_VSLOPE a j) 0) (Reg.AX_RS_TAG a j)
        (BitVec.ofNat 32 (beatNum d))) d4) :=
    Leaves.foldl (fun d j hj => leaves_slotClear d (by simp at hj; omega) _) d4
  have h35 := h4.trans h5
  generalize List.foldl _ d4 _ = d5 at h35
  refine ⟨?_, ?_⟩
  · rw [axState, fld_of_leaves h35 (Reg.AX_STAT_STATE a) (by simp only [slotRegs, Reg.AX_STAT_STATE, Reg.AX_STAT, Reg.AX_PSEL]; omega),
      fld_of_leaves h3 (Reg.AX_STAT_STATE a) (by simp only [Reg.AX_STAT_STATE, Reg.AX_STAT, Reg.AX_PTGT]; omega),
      fld_of_leaves h2 (Reg.AX_STAT_STATE a) (stage_ne a (show 0x20004 + a * 0x400 < 0x203C0 + a * 0x400 by omega))]
    exact fld_axFld_same d (Reg.AX_STAT_STATE a) 2 (show 0 + 3 ≤ 32 by decide)
  · rw [← hptgt]
    exact getI64_of_words (h35 _ (by simp only [slotRegs, Reg.AX_PTGT, Reg.AX_PSEL]; omega))
      (h35 _ (by simp only [slotRegs, Reg.AX_PTGT, Reg.AX_PSEL]; omega))

/-! The rows. -/

/-- The row of the table that an axis takes (R123). -/
def evalRow (d : Die) (a : Nat) : Die :=
  let h := axH d a
  let st := axState d a
  let active : Bool := st == 2 || st == 3
  if st ≠ 0 && h.removed then
    let d := if active then axFld d (Reg.AX_FAULT_CAUSE a) 7 else d
    clearReq (axFld d (Reg.AX_STAT_STATE a) 0) a
  else if active && stoActive d a then enterFaulted d a 0xA
  else if active && h.conds.ovc then enterFaulted d a 5
  else if active && h.conds.uv then enterFaulted d a 6
  else if st = 3 && h.conds.engine then enterFaulted d a 3
  else if st = 3 then (if stopOver d a then endStop d a else d)
  else if st = 2 then
    (match stopCauseOf d a with
     | some c => enterStopping d a c
     | none => d)
  else if st = 1 then
    (if effFld d (Reg.AX_CTL_REQ a) = 1 && !stoActive d a && !h.ss1 then enterEnabled d a else d)
  else if st = 4 then
    (if !h.clr then d
     else if causeGone d a then axFld d (Reg.AX_STAT_STATE a) 1
     else axCount (axEvent d (Reg.AX_STAT_CLRREJ a)) (Reg.AX_CNT_CLRREJ a))
  else if st = 0 && h.admitted then clearReq (axFld d (Reg.AX_STAT_STATE a) 1) a
  else d

theorem evalAxis_eq (d : Die) (a : Nat) :
    evalAxis d a = updAx (evalRow d a) a fun h => { h with conds := conds0, clr := false, removed := false } := rfl

theorem axState_evalAxis (d : Die) (a : Nat) : axState (evalAxis d a) a = axState (evalRow d a) a := rfl

theorem fld_evalAxis (d : Die) (a : Nat) (f : Fld) : fld (evalAxis d a) f = fld (evalRow d a) f := rfl

section Rows

variable {d : Die} {a : Nat}

/-- A removed axis leaves service. -/
theorem evalRow_removed (hst : axState d a ≠ 0) (h : (axH d a).removed = true) :
    axState (evalRow d a) a = 0 ∧ fld (evalRow d a) (Reg.AX_CTL_REQ a) = 0 := by
  unfold evalRow
  extract_lets hx st active d'
  rw [if_pos (by simp [st, hst, hx, h])]
  refine ⟨?_, req_clearReq _ a⟩
  rw [axState, fld_of_leaves ((leaves_clearReq (p := (· = Reg.AX_CTL a)) _ _ a rfl).2 (.refl _ _)) (Reg.AX_STAT_STATE a)
    (show 0x20004 + a * 0x400 ≠ 0x20000 + a * 0x400 by omega)]
  exact fld_axFld_same d' (Reg.AX_STAT_STATE a) 0 (show 0 + 3 ≤ 32 by decide)

variable (hrem : (axH d a).removed = false)
include hrem

theorem evalRow_sto (hst : axState d a = 2 ∨ axState d a = 3) (hsto : stoActive d a = true) : evalRow d a = enterFaulted d a 0xA := by
  obtain hst | hst := hst <;> simp [evalRow, hrem, hst, hsto]

theorem evalRow_ovc (hst : axState d a = 2 ∨ axState d a = 3) (hsto : stoActive d a = false) (h : (axH d a).conds.ovc = true) :
    evalRow d a = enterFaulted d a 5 := by
  obtain hst | hst := hst <;> simp [evalRow, hrem, hst, hsto, h]

theorem evalRow_uv (hst : axState d a = 2 ∨ axState d a = 3) (hsto : stoActive d a = false) (hovc : (axH d a).conds.ovc = false)
    (h : (axH d a).conds.uv = true) : evalRow d a = enterFaulted d a 6 := by
  obtain hst | hst := hst <;> simp [evalRow, hrem, hst, hsto, hovc, h]

section Calm

variable (hsto : stoActive d a = false) (hovc : (axH d a).conds.ovc = false) (huv : (axH d a).conds.uv = false)
include hsto hovc huv

theorem evalRow_stopping (hst : axState d a = 3) : evalRow d a =
    if (axH d a).conds.engine then enterFaulted d a 3 else if stopOver d a then endStop d a else d := by
  simp [evalRow, hrem, hst, hsto, hovc, huv]

theorem evalRow_stays (hst : axState d a = 2) (h : stopCauseOf d a = none) : evalRow d a = d := by
  simp [evalRow, hrem, hst, hsto, hovc, huv, h]

theorem evalRow_stops {c : Nat} (hst : axState d a = 2) (h : stopCauseOf d a = some c) : evalRow d a = enterStopping d a c := by
  simp [evalRow, hrem, hst, hsto, hovc, huv, h]

end Calm

theorem evalRow_held (hst : axState d a = 1) : evalRow d a =
    if effFld d (Reg.AX_CTL_REQ a) = 1 && !stoActive d a && !(axH d a).ss1 then enterEnabled d a else d := by
  simp [evalRow, hrem, hst]

theorem evalRow_faulted (hst : axState d a = 4) : evalRow d a =
    if !(axH d a).clr then d else if causeGone d a then axFld d (Reg.AX_STAT_STATE a) 1
      else axCount (axEvent d (Reg.AX_STAT_CLRREJ a)) (Reg.AX_CNT_CLRREJ a) := by
  simp [evalRow, hrem, hst]

end Rows

theorem evalRow_disabled {d : Die} {a : Nat} (hst : axState d a = 0) : evalRow d a =
    if (axH d a).admitted then clearReq (axFld d (Reg.AX_STAT_STATE a) 1) a else d := by
  simp [evalRow, hst]

theorem evalRow_other {d : Die} {a : Nat} (hrem : (axH d a).removed = false) (hst : 4 < axState d a) : evalRow d a = d := by
  have h0 : axState d a ≠ 0 := by omega
  have h1 : axState d a ≠ 1 := by omega
  have h2 : axState d a ≠ 2 := by omega
  have h3 : axState d a ≠ 3 := by omega
  have h4 : axState d a ≠ 4 := by omega
  simp [evalRow, hrem, h0, h1, h2, h3, h4]

/-! The rest of the table. -/

/-- A condition that stops an Enabled axis but the host's wish (R123). -/
def raisedAny (d : Die) (a : Nat) : Bool :=
  let c := (axH d a).conds
  c.engine || c.eovf || c.perr || c.ovspd || c.lag || c.shed || (axH d a).ss1

/-- The cause of a stop, where there is one (R123). -/
def firstCause (d : Die) (a : Nat) : Nat :=
  let c := (axH d a).conds
  if c.engine then 3 else if c.eovf then 4 else if c.perr then 1 else if c.ovspd then 2 else if c.lag then 0xB
  else if c.shed then 8 else if (axH d a).ss1 then 9 else 0xC

theorem firstCause_lt (d : Die) (a : Nat) : firstCause d a < 16 := by
  unfold firstCause
  extract_lets c
  repeat' split
  all_goals decide

/-- The order of the causes, as a table. -/
theorem causeOrder : ∀ e o p v l c x q : Bool,
    (if e then some 3 else if o then some 4 else if p then some 1 else if v then some 2 else if l then some 0xB
      else if c then some 8 else if x then some 9 else if q = true then some 0xC else none) =
    if (e || o || p || v || l || c || x) = true ∨ q = true then some (if e then 3 else if o then 4 else if p then 1 else if v then 2
      else if l then 0xB else if c then 8 else if x then 9 else 0xC) else none := by decide

theorem stopCauseOf_eq (d : Die) (a : Nat) : stopCauseOf d a =
    if raisedAny d a = true ∨ effFld d (Reg.AX_CTL_REQ a) = 0 then some (firstCause d a) else none := by
  have h := causeOrder (axH d a).conds.engine (axH d a).conds.eovf (axH d a).conds.perr (axH d a).conds.ovspd (axH d a).conds.lag
    (axH d a).conds.shed (axH d a).ss1 (decide (effFld d (Reg.AX_CTL_REQ a) = 0))
  simp only [decide_eq_true_eq] at h
  exact h

theorem axState_clrRej (d : Die) (a : Nat) :
    axState (axCount (axEvent d (Reg.AX_STAT_CLRREJ a)) (Reg.AX_CNT_CLRREJ a)) a = axState d a ∧
      flag (axCount (axEvent d (Reg.AX_STAT_CLRREJ a)) (Reg.AX_CNT_CLRREJ a)) (Reg.AX_STAT_CLRREJ a) = true := by
  have hl : Leaves (· = Reg.AX_CNT_CLRREJ a) (axEvent d (Reg.AX_STAT_CLRREJ a))
      (axCount (axEvent d (Reg.AX_STAT_CLRREJ a)) (Reg.AX_CNT_CLRREJ a)) :=
    (leaves_axCount (p := (· = Reg.AX_CNT_CLRREJ a)) _ _ rfl).2 (.refl _ _)
  have hne : Reg.AX_STAT a ≠ Reg.AX_CNT_CLRREJ a := by
    simp only [Reg.AX_STAT, Reg.AX_CNT_CLRREJ]
    omega
  refine ⟨?_, ?_⟩
  · rw [axState, fld_of_leaves hl (Reg.AX_STAT_STATE a) hne]
    exact fld_axFld_below d (Reg.AX_STAT_STATE a) (Reg.AX_STAT_CLRREJ a) 1 rfl (show 0 + 3 ≤ 13 by decide) (show 13 + 1 ≤ 32 by decide)
  · rw [flag_of_leaves hl (Reg.AX_STAT_CLRREJ a) hne]
    exact flag_axEvent_same d (Reg.AX_STAT_CLRREJ a) (show 13 + 1 ≤ 32 by decide) rfl

theorem axState_axFld (d : Die) (a v : Nat) : axState (axFld d (Reg.AX_STAT_STATE a) v) a = v % 8 :=
  fld_axFld_same d (Reg.AX_STAT_STATE a) v (show 0 + 3 ≤ 32 by decide)

theorem admitted_spec (d : Die) (a : Nat) : axState (clearReq (axFld d (Reg.AX_STAT_STATE a) 1) a) a = 1 := by
  rw [axState, fld_of_leaves ((leaves_clearReq (p := (· = Reg.AX_CTL a)) _ _ a rfl).2 (.refl _ _)) (Reg.AX_STAT_STATE a)
    (show 0x20004 + a * 0x400 ≠ 0x20000 + a * 0x400 by omega)]
  exact axState_axFld d a 1

/-- Where the state changes, REQ is 0 but after an entry to Enabled, a stop by the host, its end and an accepted clear (R122). -/
theorem req_evalRow (d : Die) (a : Nat) (hchg : axState (evalRow d a) a ≠ axState d a)
    (h : axState (evalRow d a) a = 0 ∨ axState (evalRow d a) a = 4 ∨
      (axState (evalRow d a) a = 3 ∧ fld (evalRow d a) (Reg.AX_FAULT_STOPCAUSE a) ≠ 0xC) ∨ axState d a = 0) :
    fld (evalRow d a) (Reg.AX_CTL_REQ a) = 0 := by
  have hfault : ∀ c, evalRow d a = enterFaulted d a c → fld (evalRow d a) (Reg.AX_CTL_REQ a) = 0 := fun c hc => by
    rw [hc]
    exact (enterFaulted_spec d a c).2.2
  by_cases hst0 : axState d a = 0
  · rw [evalRow_disabled hst0] at *
    split
    · exact req_clearReq _ a
    case isFalse hadm => exact absurd (by rw [if_neg hadm]) hchg
  have h' := h.imp_right (Or.imp_right fun h => h.resolve_right hst0)
  cases hrem : (axH d a).removed with
  | true => exact (evalRow_removed hst0 hrem).2
  | false =>
    by_cases hact : axState d a = 2 ∨ axState d a = 3
    · cases hsto : stoActive d a with
      | true => exact hfault _ (evalRow_sto hrem hact hsto)
      | false =>
        cases hovc : (axH d a).conds.ovc with
        | true => exact hfault _ (evalRow_ovc hrem hact hsto hovc)
        | false =>
          cases huv : (axH d a).conds.uv with
          | true => exact hfault _ (evalRow_uv hrem hact hsto hovc huv)
          | false =>
            obtain hst | hst := hact
            · cases hc : stopCauseOf d a with
              | none => exact absurd (by rw [evalRow_stays hrem hsto hovc huv hst hc]) hchg
              | some c =>
                rw [evalRow_stops hrem hsto hovc huv hst hc] at h' ⊢
                obtain ⟨h3, hcause, hreq⟩ := enterStopping_spec d a c
                rw [h3, hcause] at h'
                exact hreq fun hh => by rw [hh] at h'; exact absurd h' (by decide)
            · have hrow := evalRow_stopping hrem hsto hovc huv hst
              split at hrow
              · exact hfault _ hrow
              · split at hrow
                · rw [endStop] at hrow
                  split at hrow
                  · rw [hrow, axState_axFld] at h'
                    omega
                  · exact hfault _ hrow
                · exact absurd (by rw [hrow]) hchg
    · by_cases hst1 : axState d a = 1
      · have hrow := evalRow_held hrem hst1
        split at hrow
        · rw [hrow, (enterEnabled_spec d a).1] at h'
          omega
        · exact absurd (by rw [hrow]) hchg
      · by_cases hst4 : axState d a = 4
        · have hrow := evalRow_faulted hrem hst4
          split at hrow
          · exact absurd (by rw [hrow]) hchg
          · split at hrow
            · rw [hrow, axState_axFld] at h'
              omega
            · exact absurd (by rw [hrow, (axState_clrRej d a).1]) hchg
        · exact absurd (by rw [evalRow_other hrem (by omega)]) hchg

/-- Settles O13: row by row (`evalRow`), with what each entry writes (`enterFaulted_spec`, `enterStopping_spec`,
`enterEnabled_spec`). -/
theorem axisEvaluationTable : Obligations.AxisEvaluationTable := by
  unfold Obligations.AxisEvaluationTable
  intro d a ha h st d' calm
  have hcause : ∀ c, evalRow d a = enterFaulted d a c → c < 16 → axState d' a = 4 ∧ fld d' (Reg.AX_FAULT_CAUSE a) = c ∧
      fld d' (Reg.AX_CTL_REQ a) = 0 := fun c hc hlt => by
    obtain ⟨h4, hcs, hreq⟩ := enterFaulted_spec d a c
    rw [← hc] at h4 hcs hreq
    exact ⟨h4, hcs.trans (Nat.mod_eq_of_lt hlt), hreq⟩
  have hrow : ∀ e v, evalRow d a = e → axState e a = v → axState d' a = v := fun e v he hv => by
    rw [← he] at hv
    exact hv
  have hstop : calm → st = 2 → (raisedAny d a = true ∨ effFld d (Reg.AX_CTL_REQ a) = 0) →
      axState d' a = 3 ∧ fld d' (Reg.AX_FAULT_STOPCAUSE a) = firstCause d a := fun ⟨hrem, hsto, hovc, huv⟩ hst hr => by
    have hc : stopCauseOf d a = some (firstCause d a) := (stopCauseOf_eq d a).trans (if_pos hr)
    obtain ⟨h3, hcs, _⟩ := enterStopping_spec d a (firstCause d a)
    rw [← evalRow_stops hrem hsto hovc huv hst hc] at h3 hcs
    exact ⟨h3, hcs.trans (Nat.mod_eq_of_lt (firstCause_lt d a))⟩
  have hstay : calm → st = 2 → stopCauseOf d a = none → axState d' a = 2 := fun ⟨hrem, hsto, hovc, huv⟩ hst hc =>
    hrow d 2 (evalRow_stays hrem hsto hovc huv hst hc) hst
  refine ⟨fun hst hrem => (evalRow_removed hst hrem).1,
    fun hrem hst hsto => hcause 0xA (evalRow_sto hrem hst hsto) (by decide),
    fun hrem hst hsto hovc => ?_, fun hrem hst hsto hovc huv => ?_, fun ⟨hrem, hsto, hovc, huv⟩ hst heng => ?_,
    fun ⟨hrem, hsto, hovc, huv⟩ hst heng hover => ?_, hstay, fun hcalm hst c hc => ?_, ⟨fun hcalm hst => ?_, fun hcalm hst h3 => ?_⟩,
    req_evalRow d a, fun ⟨hrem, hsto, hovc, huv⟩ hst hreq hss => ?_, fun ⟨hrem, hsto, hovc, huv⟩ hst hor => ?_,
    fun hrem hst hsto => ?_, fun hrem hst hclr => ?_, fun hrem hst hclr hgone => ?_, fun hrem hst hclr hgone => ?_,
    fun hst hadm hrem => ?_, fun hst hadm => ?_, ?_, ?_⟩
  · exact (hcause 5 (evalRow_ovc hrem hst hsto hovc) (by decide)).imp_right And.left
  · exact (hcause 6 (evalRow_uv hrem hst hsto hovc huv) (by decide)).imp_right And.left
  · exact (hcause 3 ((evalRow_stopping hrem hsto hovc huv hst).trans (if_pos heng)) (by decide)).imp_right And.left
  · have hne : ¬ (axH d a).conds.engine = true := by
      rw [show (axH d a).conds.engine = false from heng]
      exact Bool.false_ne_true
    exact hrow d 3 (by rw [evalRow_stopping hrem hsto hovc huv hst, if_neg hne, if_neg (by simp [hover])]) hst
  · have hr := stopCauseOf_eq d a
    rw [hc] at hr
    split at hr
    case isTrue h' =>
      obtain ⟨h3, hcs⟩ := hstop hcalm hst h'
      exact ⟨h3, hcs.trans (Option.some.inj hr).symm⟩
    case isFalse => exact absurd hr nofun
  · refine ⟨fun h3 => ?_, fun hr => (hstop hcalm hst hr).1⟩
    by_contra hr
    have := hstay hcalm hst ((stopCauseOf_eq d a).trans (if_neg hr))
    omega
  · have hr : raisedAny d a = true ∨ effFld d (Reg.AX_CTL_REQ a) = 0 := by
      by_contra hr
      have := hstay hcalm hst ((stopCauseOf_eq d a).trans (if_neg hr))
      omega
    exact (hstop hcalm hst hr).2
  · have hss' : (axH d a).ss1 = false := hss
    have hen : evalRow d a = enterEnabled d a := by rw [evalRow_held hrem hst, if_pos (by simp [hreq, hsto, hss'])]
    obtain ⟨h2, hptgt⟩ := enterEnabled_spec d a
    rw [← hen] at h2 hptgt
    exact ⟨h2, hptgt⟩
  · refine hrow d 1 ?_ hst
    rw [evalRow_held hrem hst, if_neg]
    obtain hreq | hss := hor
    · simp [hreq]
    · simp [show (axH d a).ss1 = true from hss]
  · exact hrow d 1 (by rw [evalRow_held hrem hst, if_neg (by simp [hsto])]) hst
  · exact hrow d 4 (by rw [evalRow_faulted hrem hst, if_pos (by simp [show (axH d a).clr = false from hclr])]) hst
  · exact hrow _ 1 (by
      rw [evalRow_faulted hrem hst, if_neg (by simp [show (axH d a).clr = true from hclr]), if_pos hgone]) (axState_axFld d a 1)
  · obtain ⟨h4, hflag⟩ := axState_clrRej d a
    have hrej : evalRow d a = axCount (axEvent d (Reg.AX_STAT_CLRREJ a)) (Reg.AX_CNT_CLRREJ a) := by
      rw [evalRow_faulted hrem hst, if_neg (by simp [show (axH d a).clr = true from hclr]), if_neg (by simp [hgone])]
    rw [← hrej] at h4 hflag
    exact ⟨h4.trans hst, hflag⟩
  · exact hrow _ 1 (by rw [evalRow_disabled hst, if_pos hadm]) (admitted_spec d a)
  · exact hrow d 0 (by rw [evalRow_disabled hst, if_neg (by simp [show (axH d a).admitted = false from hadm])]) hst
  · rw [show d' = _ from evalAxis_eq d a, axH_updAx_same]
  · rw [show d' = _ from evalAxis_eq d a, axH_updAx_same]

end Sys2Proof.Machine
end

section
/-! PROOFS. The events of a beat and the timebase (R17, R20, R21, R28, R34, R35, R41). -/

namespace Sys2Proof.Machine

open Sys2Proof

/-! What leaves the timebase. -/

section Timebase

variable (d : Die)

@[simp] theorem tb_putReg (o : Nat) (w : Word) : (putReg d o w).tb = d.tb := rfl
@[simp] theorem tb_setFld (f : Fld) (v : Nat) : (setFld d f v).tb = d.tb := rfl
@[simp] theorem tb_setFlag (f : Fld) : (setFlag d f).tb = d.tb := rfl
@[simp] theorem tb_putFlag (f : Fld) (b : Bool) : (putFlag d f b).tb = d.tb := rfl
@[simp] theorem tb_incReg (o : Nat) : (incReg d o).tb = d.tb := rfl
@[simp] theorem tb_incFld (f : Fld) : (incFld d f).tb = d.tb := rfl
@[simp] theorem tb_putI64 (o : Nat) (x : Int) : (putI64 d o x).tb = d.tb := rfl
@[simp] theorem tb_put64 (o x : Nat) : (put64 d o x).tb = d.tb := rfl
@[simp] theorem tb_updEng (e : Nat) (f : Engine → Engine) : (updEng d e f).tb = d.tb := rfl
@[simp] theorem tb_updKnl (f : Kennel → Kennel) : (updKnl d f).tb = d.tb := rfl
@[simp] theorem tb_updAx (a : Nat) (f : AxisHid → AxisHid) : (updAx d a f).tb = d.tb := rfl
@[simp] theorem tb_updGear (a : Nat) (f : GearSt → GearSt) : (updGear d a f).tb = d.tb := rfl
@[simp] theorem tb_updMst (f : Master → Master) : (updMst d f).tb = d.tb := rfl
@[simp] theorem tb_updCap (f : Capture → Capture) : (updCap d f).tb = d.tb := rfl
@[simp] theorem tb_updChan (n : Nat) (f : Chan → Chan) : (updChan d n f).tb = d.tb := rfl
@[simp] theorem tb_updStp (n : Nat) (f : StepCh → StepCh) : (updStp d n f).tb = d.tb := rfl
@[simp] theorem tb_updGrp (g : Nat) (f : StepGrp → StepGrp) : (updGrp d g f).tb = d.tb := rfl
@[simp] theorem tb_updSeg (n : Nat) (f : Seg → Seg) : (updSeg d n f).tb = d.tb := rfl
@[simp] theorem tb_updNode (n i : Nat) (f : Node → Node) : (updNode d n i f).tb = d.tb := rfl
@[simp] theorem tb_updTrk (f : Trunk → Trunk) : (updTrk d f).tb = d.tb := rfl
@[simp] theorem tb_updCan (n : Nat) (f : CanHid → CanHid) : (updCan d n f).tb = d.tb := rfl
@[simp] theorem tb_updHost (f : HostSt → HostSt) : (updHost d f).tb = d.tb := rfl
@[simp] theorem tb_updBoot (f : Boot → Boot) : (updBoot d f).tb = d.tb := rfl
@[simp] theorem tb_updPwr (f : Power → Power) : (updPwr d f).tb = d.tb := rfl
@[simp] theorem tb_setQueue (src : Nat) (q : List QEnt) : (setQueue d src q).tb = d.tb := rfl

@[simp] theorem tb_complete (t st r0 r1 : Nat) : (complete d t st r0 r1).tb = d.tb := by
  unfold complete
  split <;> rfl

@[simp] theorem tb_maxFld (f : Fld) (v : Nat) : (maxFld d f v).tb = d.tb := by
  unfold maxFld
  split <;> rfl

@[simp] theorem tb_axMark (o b : Nat) : (axMark d o b).tb = d.tb := by
  unfold axMark
  split <;> rfl

@[simp] theorem tb_hwPut (o : Nat) (w : Word) : (hwPut d o w).tb = d.tb := (tb_axMark d o _)

@[simp] theorem tb_hwPut64 (o : Nat) (x : Int) : (hwPut64 d o x).tb = d.tb := by rw [hwPut64, tb_hwPut, tb_hwPut]

@[simp] theorem tb_logEvt (src code sev p0 p1 p2 : Nat) : (logEvt d src code sev p0 p1 p2).tb = d.tb :=
  (keeps_logEvt (ps := [.regs, .lgb]) d d (by simp) (by simp) _ _ _ _ _ _).2 (.refl _ d) .tb (by simp)

@[simp] theorem tb_ppEvt (event engine level idx src detail : Nat) : (ppEvt d event engine level idx src detail).tb = d.tb :=
  (keeps_ppEvt (ps := [.regs, .knl]) d d (by simp) (by simp) _ _ _ _ _ _).2 (.refl _ d) .tb (by simp)

@[simp] theorem tb_putSnap (s : Nat) : (putSnap d s).tb = d.tb :=
  (keeps_putSnap (ps := [.segs]) d d (by simp) s).2 (.refl _ d) .tb (by simp)

@[simp] theorem tb_axSettle (port c : Nat) (old new : Die) : (axSettle port c old new).tb = new.tb :=
  keeps_axSettle port c old new .tb (by simp)

end Timebase

theorem tb_foldl {β : Type} {f : Die → β → Die} (h : ∀ d x, (f d x).tb = d.tb) (l : List β) (d : Die) : (l.foldl f d).tb = d.tb :=
  foldl_keeps Die.tb h l d

theorem tb_ite {p : Prop} [Decidable p] {c x y : Die} (hx : x.tb = c.tb) (hy : y.tb = c.tb) : (if p then x else y).tb = c.tb := by
  split <;> assumption

section EdgeParts

variable (d : Die)

@[simp] theorem tb_publishLoads : (publishLoads d).tb = d.tb := by
  unfold publishLoads
  generalize upto 16 = l
  exact tb_foldl (fun e n => (tb_maxFld _ _ _).trans (tb_setFld _ _ _)) l d

@[simp] theorem tb_startLoads : (startLoads d).tb = d.tb := by
  unfold startLoads
  generalize upto 16 = l
  exact tb_foldl (fun _ _ => tb_updEng _ _ _) l d

@[simp] theorem tb_landWrites : (landWrites d).tb = d.tb := rfl

@[simp] theorem tb_shedClearNow : (shedClearNow d).tb = d.tb := by
  unfold shedClearNow
  split
  · rfl
  · extract_lets d1 d2 d3
    have h1 : d1.tb = d.tb := rfl
    clear_value d1
    have h2 : d2.tb = d1.tb := tb_foldl (fun _ _ => tb_updAx _ _ _) _ d1
    clear_value d2
    have h3 : d3.tb = d2.tb := tb_foldl (fun _ _ => tb_complete _ _ _ _ _) _ d2
    rw [tb_updHost, h3, h2, h1]

@[simp] theorem tb_axisEdge (a : Nat) : (axisEdge d a).tb = d.tb := rfl

@[simp] theorem tb_addSample (x : Sample) : (addSample d x).tb = d.tb := by
  unfold addSample
  refine tb_ite rfl (tb_ite rfl ?_)
  simp

@[simp] theorem tb_updPulse (n : Nat) (f : Pulse → Pulse) : (updPulse d n f).tb = d.tb := rfl

@[simp] theorem tb_updAna (n : Nat) (f : Analogue → Analogue) : (updAna d n f).tb = d.tb := rfl

/-- The latches of the analogue inputs at an edge. -/
def anaEdge (src s : Nat) (d : Die) (n : Nat) : Die :=
  let x := anaSample d n s
  let d := updAna d n fun a => { codes := a.codes.filter fun y => edgeGt (hz d) s < y.1, m := x.pos, v := x.vel }
  if src = 3 + n then addSample d x else d

@[simp] theorem tb_anaEdge (src s n : Nat) : (anaEdge src s d n).tb = d.tb := by
  unfold anaEdge
  exact tb_ite (tb_addSample _ _) rfl

/-- The latches of the pulse inputs at an edge. -/
def pulseEdge (s : Nat) (d : Die) (n : Nat) : Die :=
  updPulse d n fun p => { p with hist := ((s, p.count, p.stamp) :: p.hist).take 65 }

/-- The sample of the local source at an edge. -/
def localSample (d : Die) : Die :=
  let d' := if mstSrc d = 0 then addSample d { sample0 with s := d.tb.k } else d
  if mstSrc d = 1 then addSample d' (pulseSample d' 0 d.tb.k) else if mstSrc d = 2 then addSample d' (pulseSample d' 1 d.tb.k) else d'

theorem masterEdge_eq : masterEdge d = if !powered d 78 then d else
    [0, 1].foldl (anaEdge (mstSrc d) d.tb.k) ([0, 1].foldl (pulseEdge d.tb.k) (localSample d)) := rfl

@[simp] theorem tb_localSample : (localSample d).tb = d.tb := by
  unfold localSample
  extract_lets _ d'
  have h : d'.tb = d.tb := tb_ite (tb_addSample _ _) rfl
  exact tb_ite ((tb_addSample _ _).trans h) (tb_ite ((tb_addSample _ _).trans h) h)

@[simp] theorem tb_masterEdge : (masterEdge d).tb = d.tb := by
  rw [masterEdge_eq]
  refine tb_ite rfl ?_
  rw [tb_foldl (fun e n => tb_anaEdge e _ _ n), tb_foldl (f := pulseEdge d.tb.k) (fun e n => tb_updPulse e n _), tb_localSample]

@[simp] theorem tb_gearEdge : (gearEdge d).tb = d.tb := by
  unfold gearEdge
  refine tb_foldl (fun e a => ?_) _ d
  extract_lets g e1 e2
  have h1 : e1.tb = e.tb := tb_ite (by simp) rfl
  have h2 : e2.tb = e1.tb := by
    unfold e2
    split
    · simp
    · rfl
  exact h2.trans h1

@[simp] theorem tb_groupEnd (c : Nat) (g : Group) (o : Nat) : (groupEnd d c g o).tb = d.tb := by
  unfold groupEnd
  extract_lets d1 d2
  have h1 : d1.tb = d.tb := rfl
  have h2 : d2.tb = d1.tb := tb_ite (tb_incReg _ _) rfl
  exact h2.trans h1

@[simp] theorem tb_captureEdge : (captureEdge d).tb = d.tb := by
  unfold captureEdge
  generalize upto 16 = l
  refine tb_foldl (fun e c => tb_ite rfl ?_) l d
  extract_lets p e1 far
  split
  · rfl
  · exact tb_ite (tb_groupEnd _ _ _ _) rfl

/-- A group of step channels at the edge of a beat (R198). -/
def groupAtEdge (d : Die) (g : Nat) : Die :=
  let h := grpH d g
  if !h.moving then d else
  let d := match h.next with
    | some w => (grpMembers d g).foldl (fun d n => putActive d n (w != 0)) (updGrp d g fun h => { h with word := w })
    | none => if h.atEdge then incReg (setFlag d (Reg.STP_GRP_STAT_NOUPD g)) (Reg.STP_GRP_CNT_NOUPD g) else d
  updGrp d g fun h => { h with next := none, atEdge := true, left := (getReg d (Reg.STP_GRP_LEFT g)).toNat }

/-- A step channel at the edge of a beat. -/
def stepAtEdge (d : Die) (n : Nat) : Die :=
  if (stpH d n).edgeDue then updStp d n fun h => { h with edgeDue := false, velDue := true } else d

theorem stepEdge_eq : stepEdge d = (upto 8).foldl groupAtEdge ((upto 32).foldl stepAtEdge d) := by
  unfold stepEdge
  generalize upto 8 = l
  generalize upto 32 = l'
  rfl

@[simp] theorem tb_stepAtEdge (n : Nat) : (stepAtEdge d n).tb = d.tb := by
  unfold stepAtEdge
  exact tb_ite (tb_updStp _ _ _) rfl

@[simp] theorem tb_groupAtEdge (g : Nat) : (groupAtEdge d g).tb = d.tb := by
  unfold groupAtEdge
  refine tb_ite rfl ?_
  split
  · exact tb_foldl (fun _ _ => tb_putFlag _ _ _) _ _
  · exact tb_ite (x := incReg (setFlag d (Reg.STP_GRP_STAT_NOUPD g)) (Reg.STP_GRP_CNT_NOUPD g)) (tb_incReg _ _) rfl

@[simp] theorem tb_stepEdge : (stepEdge d).tb = d.tb := by
  rw [stepEdge_eq, tb_foldl tb_groupAtEdge, tb_foldl tb_stepAtEdge]

@[simp] theorem tb_canReq (n req : Nat) : (canReq d n req).tb = d.tb := (up_canReq d n req).keeps .tb (by simp)

@[simp] theorem tb_dozeBegin : (dozeBegin d).tb = d.tb := by
  unfold dozeBegin forEach
  generalize upto 4 = l
  exact tb_foldl (fun e n => tb_ite (tb_canReq _ _ _) rfl) l (setFld d Reg.PWR_STAT_MODE 2)

@[simp] theorem tb_kpost (src : Nat) (x : QEnt) : (kpost d src x).1.tb = d.tb := by
  unfold kpost
  extract_lets q
  split
  · exact tb_incFld _ _
  · exact (tb_maxFld _ _ _).trans (tb_setQueue _ _ _)

@[simp] theorem tb_noteBlocked : (noteBlocked d).tb = d.tb := by
  unfold noteBlocked
  generalize upto 18 = l
  rw [tb_updKnl]
  refine tb_foldl (fun e j => ?_) l d
  extract_lets src
  refine tb_ite ?_ rfl
  split
  · exact tb_ppEvt _ _ _ _ _ _ _
  · rfl

@[simp] theorem tb_mbxFlush (seg i status : Nat) (p : MbxReq → Bool) : (mbxFlush d seg i status p).tb = d.tb :=
  (down_mbxFlush d seg i status p).keeps .tb (by simp)

@[simp] theorem tb_mbxEnd (seg : Nat) (q : MbxReq) (status : Nat) (data : List Byte) : (mbxEnd d seg q status data).tb = d.tb :=
  (down_mbxEnd d seg q status data).keeps .tb (by simp)

@[simp] theorem tb_removeAxes (seg i : Nat) : (removeAxes d seg i).tb = d.tb := (down_removeAxes d seg i).keeps .tb (by simp)

@[simp] theorem tb_nodeLoss (seg i : Nat) : (nodeLoss d seg i).tb = d.tb := by
  unfold nodeLoss dropNode
  exact tb_ite (by simp) rfl

@[simp] theorem tb_admitNow (seg i : Nat) : (admitNow d seg i).tb = d.tb := by
  unfold admitNow
  extract_lets n d1 d2 d3
  have h3 : d3.tb = d2.tb := tb_foldl (fun _ _ => tb_updAx _ _ _) _ d2
  exact tb_ite ((tb_logEvt _ _ _ _ _ _ _).trans h3) rfl

@[simp] theorem tb_admitNak (seg i : Nat) : (admitNak d seg i).tb = d.tb := by
  unfold admitNak
  exact tb_ite (by simp) rfl

@[simp] theorem tb_admitLate (seg i : Nat) : (admitLate d seg i).tb = d.tb := by
  unfold admitLate
  exact tb_ite (by simp) rfl

@[simp] theorem tb_mbxTimeout (seg i : Nat) : (mbxTimeout d seg i).tb = d.tb := by
  unfold mbxTimeout
  split
  · exact tb_ite (by simp) rfl
  · rfl

@[simp] theorem tb_nodesAtEdge (seg : Nat) : (nodesAtEdge d seg).tb = d.tb := by
  unfold nodesAtEdge
  refine tb_foldl (fun e i => ?_) _ d
  extract_lets e1
  have h : e1.tb = e.tb := tb_ite rfl rfl
  simp [h]

@[simp] theorem tb_rollAgain (seg : Nat) : (rollAgain d seg).tb = d.tb := rfl

@[simp] theorem tb_launchAs (seg : Nat) (form : Option Nat × Option Nat) : (launchAs d seg form).tb = d.tb := rfl

@[simp] theorem tb_launchSeg (seg : Nat) : (launchSeg d seg).tb = d.tb := by
  unfold launchSeg
  refine tb_ite rfl ?_
  extract_lets first d1 d2 d3 d4
  have h2 : d2.tb = d.tb := (tb_setFld d1 _ _).trans (tb_setFlag d _)
  clear_value d2
  have h3 : d3.tb = d2.tb := tb_foldl (fun _ _ => tb_updAx _ _ _) _ d2
  clear_value d3
  rw [tb_launchAs, tb_rollAgain, tb_updSeg, h3, h2]

end EdgeParts

/-! The edge of a beat. -/

/-- The registers and the index of the beat that begins. -/
def edgeBegun (d : Die) (k : Nat) : Die :=
  let d := toGt d (edgeGt (hz d) k)
  let d := startLoads (if running d then publishSlack (publishLoads d) else setFlag d Reg.BEAT_CFG_RUN)
  putReg (updTb d fun t => { t with k := k, phase := 0 }) Reg.BEAT_NUM (BitVec.ofNat 32 k)

/-- What takes effect at the edge (R28, R31). -/
def edgeActs (d : Die) : Die :=
  let d := shedClearNow (landWrites d)
  let d := (declAxes d).foldl axisEdge d
  let d := masterEdge d
  let d := captureEdge (stepEdge (axSettle 1 d.tb.cyc d (gearEdge d)))
  (upto 4).foldl (fun d s => launchSeg (putSnap (nodesAtEdge d s) s) s) d

/-- Doze and the event of the edge (R28, R386, R387). -/
def edgePosts (d : Die) (k : Nat) : Die :=
  let d := updPwr (if d.pwr.dozeReq && !d.pwr.hibReq && fld d Reg.PWR_STAT_MODE == 0 then dozeBegin d else d) fun p => { p with mute := false }
  if posting d then noteBlocked (kpost d 0 (.edge k)).1 else d

theorem beatEdge_due {d : Die} {k : Nat} (h : edgeDue d = some k) : beatEdge d = edgePosts (edgeActs (edgeBegun d k)) k := by
  unfold beatEdge
  rw [h]
  unfold edgePosts edgeActs edgeBegun
  generalize upto 4 = l
  rfl

theorem tb_edgeActs (d : Die) : (edgeActs d).tb = d.tb := by
  unfold edgeActs
  generalize upto 4 = l
  extract_lets d1 d2 d3 d4
  have h2 : d2.tb = d.tb := ((tb_foldl tb_axisEdge _ d1).trans (tb_shedClearNow _)).trans (tb_landWrites d)
  clear_value d2
  rw [tb_foldl (fun e s => by rw [tb_launchSeg, tb_putSnap, tb_nodesAtEdge])]
  unfold d4 d3
  rw [tb_captureEdge, tb_stepEdge, tb_axSettle, tb_gearEdge, tb_masterEdge, h2]

theorem tb_edgePosts (d : Die) (k : Nat) : (edgePosts d k).tb = d.tb := by
  unfold edgePosts
  extract_lets d1
  have h : d1.tb = d.tb := (tb_updPwr _ _).trans (tb_ite (tb_dozeBegin d) rfl)
  clear_value d1
  refine (tb_ite (c := d1) ?_ rfl).trans h
  rw [tb_noteBlocked, tb_kpost]

theorem toGt_tb (d : Die) (t : Nat) : (toGt d t).tb.gt = max d.tb.gt t ∧ (toGt d t).tb.k = d.tb.k ∧ (toGt d t).tb.phase = d.tb.phase := by
  unfold toGt
  split
  case isTrue h => exact ⟨(Nat.max_eq_right (Nat.le_of_lt h)).symm, rfl, rfl⟩
  case isFalse h => exact ⟨(Nat.max_eq_left (Nat.not_lt.1 h)).symm, rfl, rfl⟩

theorem keeps_toGt (d : Die) (t : Nat) : Keeps [.tb] d (toGt d t) := by
  unfold toGt
  split
  · exact (Keeps.iff_of_part (q := .tb) (by simp) fun p hp => by cases p <;> simp_all [Part.same]).2 (.refl _ d)
  · exact .refl _ d

theorem getReg_toGt (d : Die) (t off : Nat) : getReg (toGt d t) off = getReg d off := by rw [getReg, (toGt_frame d t).1, getReg]

theorem gt_publishSlack (d : Die) : (publishSlack d).tb.gt = d.tb.gt := by
  unfold publishSlack
  extract_lets d1
  have h : d1.tb = d.tb := by
    unfold d1
    split
    · exact tb_ite (tb_setFld _ _ _) rfl
    · rfl
  show d1.tb.gt = d.tb.gt
  rw [h]

/-- The loads and the slack of the beat that ends; the first edge sets RUN (R20, R37, R38). -/
def edgeLoads (d : Die) : Die := startLoads (if running d then publishSlack (publishLoads d) else setFlag d Reg.BEAT_CFG_RUN)

/-- The index of the beat that begins. -/
def edgeIndex (d : Die) (k : Nat) : Die := putReg (updTb d fun t => { t with k := k, phase := 0 }) Reg.BEAT_NUM (BitVec.ofNat 32 k)

theorem edgeBegun_eq (d : Die) (k : Nat) : edgeBegun d k = edgeIndex (edgeLoads (toGt d (edgeGt (hz d) k))) k := rfl

theorem gt_edgeLoads (d : Die) : (edgeLoads d).tb.gt = d.tb.gt := by
  unfold edgeLoads
  rw [tb_startLoads]
  split
  · rw [gt_publishSlack, tb_publishLoads]
  · rfl

theorem edgeIndex_tb (d : Die) (k : Nat) : (edgeIndex d k).tb.k = k ∧ (edgeIndex d k).tb.phase = 0 ∧ (edgeIndex d k).tb.gt = d.tb.gt :=
  ⟨rfl, rfl, rfl⟩

theorem edgeBegun_tb (d : Die) (k : Nat) : (edgeBegun d k).tb.k = k ∧ (edgeBegun d k).tb.phase = 0 ∧
    (edgeBegun d k).tb.gt = max d.tb.gt (edgeGt (hz d) k) := by
  obtain ⟨hk, hphase, hgt⟩ := edgeIndex_tb (edgeLoads (toGt d (edgeGt (hz d) k))) k
  rw [edgeBegun_eq]
  exact ⟨hk, hphase, (hgt.trans (gt_edgeLoads _)).trans (toGt_tb d _).1⟩

theorem beatEdge_tb {d : Die} {k : Nat} (h : edgeDue d = some k) : (beatEdge d).tb.k = k ∧ (beatEdge d).tb.phase = 0 ∧
    (beatEdge d).tb.gt = max d.tb.gt (edgeGt (hz d) k) := by
  rw [beatEdge_due h, tb_edgePosts, tb_edgeActs]
  exact edgeBegun_tb d k

/-! Frame close. -/

section Judge

variable (d : Die) (seg : Nat)

@[simp] theorem tb_tailPower (on : Bool) : (tailPower d seg on).tb = d.tb := rfl

@[simp] theorem tb_proofPhase (p b : Nat) : (proofPhase d seg p b).tb = d.tb := rfl

@[simp] theorem tb_noteNoFrame (sent : Bool) (r : RxBeat) : (noteNoFrame d seg sent r).tb = d.tb := by
  unfold noteNoFrame
  exact tb_ite rfl rfl

@[simp] theorem tb_putBreak (whole : Bool) : (putBreak d seg whole).tb = d.tb := by
  unfold putBreak
  rw [tb_updSeg, tb_setFld, tb_setFld]

@[simp] theorem tb_failOver : (failOver d seg).tb = d.tb := by
  unfold failOver pathLost
  extract_lets d1 d2
  have h1 : d1.tb = d.tb := (tb_foldl (fun e i => tb_mbxFlush e seg i 9 _) _ _).trans (tb_tailPower d seg true)
  clear_value d1
  rw [tb_logEvt, tb_incReg, tb_setFld, tb_setFlag, tb_setFld, h1]

@[simp] theorem tb_returnEnd (ok : Bool) : (returnEnd d seg ok).tb = d.tb := by
  unfold returnEnd
  extract_lets t d1 d2
  have h1 : d1.tb = d.tb := rfl
  clear_value d1
  have h2 : d2.tb = d1.tb := by
    unfold d2
    refine tb_ite ?_ (tb_setFld _ _ _)
    rw [tb_putReg, tb_setFld, tb_tailPower]
  rw [tb_logEvt, tb_complete, h2, h1]

@[simp] theorem tb_returnDone : (returnDone d seg).tb = d.tb := by
  unfold returnDone
  split
  · exact tb_ite (tb_returnEnd _ _ _) rfl
  · rfl

@[simp] theorem tb_proofFail (lost : Bool) (hop : Option Nat) : (proofFail d seg lost hop).tb = d.tb := by
  unfold proofFail
  extract_lets s d1 d2
  have h1 : d1.tb = d.tb := rfl
  have h2 : d2.tb = d.tb := rfl
  clear_value d1 d2
  refine tb_ite h1 (tb_ite ((tb_setFld _ _ _).trans h2) ?_)
  split
  · exact (tb_setFld _ _ _).trans h2
  · exact h2

@[simp] theorem tb_proofEnd : (proofEnd d seg).tb = d.tb := by
  unfold proofEnd
  extract_lets s ok d1 w d2
  rw [tb_logEvt, tb_updSeg, tb_complete, tb_setFlag, tb_setFld, tb_tailPower]

@[simp] theorem tb_proofNext (failed : Bool) : (proofNext d seg failed).tb = d.tb := by
  unfold proofNext
  exact tb_ite (tb_proofEnd _ _) (tb_ite rfl rfl)

@[simp] theorem tb_proofDone : (proofDone d seg).tb = d.tb := by
  unfold proofDone
  exact tb_ite (tb_proofNext _ _ _) rfl

@[simp] theorem tb_proofJudge : (proofJudge d seg).tb = d.tb := by
  unfold proofJudge
  extract_lets s p miss lo res
  clear_value res
  exact tb_ite rfl (tb_ite (tb_proofDone _ _) ((tb_proofNext _ _ _).trans (tb_proofFail _ _ _ _)))

/-- The path of a segment at frame close (R242). -/
def pathJudged (d : Die) (seg : Nat) (failed two : Bool) : Die :=
  match pathState d seg with
  | 0 => if failed then updSeg (setFld d (Reg.LSH_PATH_STATE seg) 1) seg fun s => { s with failBeat := d.tb.k } else d
  | 1 => if failed then failOver d seg else setFld d (Reg.LSH_PATH_STATE seg) 0
  | 3 => if failed then setFlag d (Reg.LSH_PATH_LINEFAIL seg) else d
  | 4 => if two then (if failed then setFlag d (Reg.LSH_PATH_LINEFAIL seg) else d)
    else if failed then returnEnd d seg false else returnDone d seg
  | 5 => proofJudge d seg
  | _ => d

@[simp] theorem tb_pathJudged (failed two : Bool) : (pathJudged d seg failed two).tb = d.tb := by
  unfold pathJudged
  split
  · exact tb_ite ((tb_updSeg _ _ _).trans (tb_setFld _ _ _)) rfl
  · exact tb_ite (tb_failOver _ _) (tb_setFld _ _ _)
  · exact tb_ite (tb_setFlag _ _) rfl
  · exact tb_ite (tb_ite (tb_setFlag _ _) rfl) (tb_ite (tb_returnEnd _ _ _) (tb_returnDone _ _))
  · exact tb_proofJudge _ _
  · rfl

@[simp] theorem tb_judgeSeg : (judgeSeg d seg).tb = d.tb := by
  unfold judgeSeg
  refine tb_ite rfl ?_
  extract_lets s two starting expTail expHead d1 failed d2 whole d3 d4 d5 d6
  have h1 : d1.tb = d.tb := (tb_noteNoFrame _ _ _ _).trans (tb_noteNoFrame _ _ _ _)
  clear_value d1
  have h2 : d2.tb = d1.tb := tb_ite (tb_incReg _ _) rfl
  clear_value d2
  have h3 : d3.tb = d2.tb := tb_putFlag _ _ _
  clear_value d3
  have h4 : d4.tb = d3.tb := tb_ite (tb_putBreak _ _ _) rfl
  clear_value d4
  have h5 : d5.tb = d4.tb := tb_updSeg _ _ _
  clear_value d5
  have h6 : d6.tb = d5.tb := tb_pathJudged d5 seg failed two
  clear_value d6
  exact tb_ite (h2.trans h1) (by rw [tb_putSnap, h6, h5, h4, h3, h2, h1])

@[simp] theorem tb_gearCopy : (gearCopy d).tb = d.tb := by
  unfold gearCopy
  exact tb_foldl (fun e a => tb_updGear _ _ _) _ d

end Judge

theorem frameClose_tb {d : Die} (hrun : running d = true) (hphase : d.tb.phase = 2) : (frameClose d).tb.phase = 3 ∧
    (frameClose d).tb.gt = max d.tb.gt (inBeat d (fld d Reg.BEAT_FCL_VALUE)) ∧ (frameClose d).tb.k = d.tb.k := by
  obtain ⟨hgt, hk, _⟩ := toGt_tb d (inBeat d (fld d Reg.BEAT_FCL_VALUE))
  unfold frameClose
  generalize upto 4 = l
  rw [if_neg (by simp [hrun, hphase])]
  obtain ⟨d1, hd1⟩ : ∃ d1, d1 = toGt d (inBeat d (fld d Reg.BEAT_FCL_VALUE)) := ⟨_, rfl⟩
  rw [← hd1] at hgt hk ⊢
  rw [tb_foldl tb_judgeSeg, tb_gearCopy]
  exact ⟨rfl, hgt, hk⟩

/-! The step of GT. -/

/-- GT and the beat index step, with the captures and the instants noted. -/
def gtMoved (d : Die) (gt k : Nat) (x : Int) : Die :=
  let c := setFlag (updTb (moveCapture d gt ((k : Int) - d.tb.k) x) fun t => { t with gt := gt, step := none }) Reg.BEAT_STAT_GTSTEP
  let c := { c with stpClk := 10 * cdiv gt 10 }
  let c := moveGts { c with dogIo := { c.dogIo with gtStep := some 1 } } x
  putReg (updTb c fun t => { t with k := k }) Reg.BEAT_NUM (BitVec.ofNat 32 k)

/-- The beats and the master move with the step, which is logged. -/
def gtLogged (d : Die) (dk x : Int) : Die :=
  logEvt (moveMaster (moveBeats d dk) dk x) 1 1 1 (wrap 64 x % 2 ^ 32) (wrap 64 x / 2 ^ 32) (beatNum d)

/-- The frame launched at the edge carries the new beat number. -/
def launchAgain (d : Die) (s : Nat) : Die := if segOn d s then launchAs (rollAgain d s) s (launchForm d s) else d

theorem gtStep_due {d : Die} {x : Int} (h : stepDue d = some x) : gtStep d =
    (upto 4).foldl launchAgain (gtLogged (gtMoved d ((d.tb.gt : Int) + x).toNat (beatAt (hz d) ((d.tb.gt : Int) + x).toNat) x)
      ((beatAt (hz d) ((d.tb.gt : Int) + x).toNat : Int) - d.tb.k) x) := by
  unfold gtStep
  rw [h]
  generalize upto 4 = l
  rfl

theorem gtMoved_tb (d : Die) (gt k : Nat) (x : Int) : (gtMoved d gt k x).tb.gt = gt ∧ (gtMoved d gt k x).tb.step = none ∧
    (gtMoved d gt k x).tb.k = k := ⟨rfl, rfl, rfl⟩

theorem tb_moveBeats (d : Die) (x : Int) : (moveBeats d x).tb.gt = d.tb.gt ∧ (moveBeats d x).tb.step = d.tb.step ∧
    (moveBeats d x).tb.k = d.tb.k := by
  unfold moveBeats
  generalize upto 4 = l
  extract_lets m d1 d2 gear node d3
  have h1 : d1.tb.gt = d.tb.gt ∧ d1.tb.step = d.tb.step ∧ d1.tb.k = d.tb.k := ⟨rfl, rfl, rfl⟩
  clear_value d1
  have h2 : d2.tb = d1.tb := tb_foldl (fun _ _ => tb_updAx _ _ _) _ d1
  clear_value d2
  have h3 : d3.tb = d2.tb := rfl
  clear_value d3
  have h4 := tb_foldl (fun e s => tb_updSeg e s fun g =>
    { g with failBeat := m g.failBeat, proofBeat := m g.proofBeat, retBeat := g.retBeat.map m }) l d3
  rw [h4, h3, h2]
  exact h1

theorem tb_moveMaster (d : Die) (x ns : Int) : (moveMaster d x ns).tb = d.tb := rfl

theorem tb_launchAgain (d : Die) (s : Nat) : (launchAgain d s).tb = d.tb := by
  unfold launchAgain
  exact tb_ite (tb_launchAs _ _ _) rfl

theorem gtStep_tb {d : Die} {x : Int} (h : stepDue d = some x) : (gtStep d).tb.gt = ((d.tb.gt : Int) + x).toNat ∧
    (gtStep d).tb.step = none ∧ (gtStep d).tb.k = beatAt (hz d) ((d.tb.gt : Int) + x).toNat := by
  rw [gtStep_due h, tb_foldl tb_launchAgain]
  generalize beatAt (hz d) ((d.tb.gt : Int) + x).toNat = k
  obtain ⟨hgt, hstep, hk⟩ := gtMoved_tb d ((d.tb.gt : Int) + x).toNat k x
  generalize gtMoved d ((d.tb.gt : Int) + x).toNat k x = e at *
  obtain ⟨hgt', hstep', hk'⟩ := tb_moveBeats e ((k : Int) - d.tb.k)
  rw [gtLogged, tb_logEvt, tb_moveMaster]
  exact ⟨hgt'.trans hgt, hstep'.trans hstep, hk'.trans hk⟩

/-- The clauses of O12 on the place in the beat. -/
theorem ends_beatEdge {s : State} {k : Nat} (h : edgeDue s.die = some k) : ends .beatEdge s fun t =>
    t.die.tb.k = k ∧ t.die.tb.phase = 0 ∧ t.die.tb.gt = max s.die.tb.gt (edgeGt (hz s.die) k) ∧ t.dog = s.dog := by
  have hb := beatEdge_tb (d := found s) h
  refine ends_of_onDie (f := beatEdge) rfl ?_
  generalize beatEdge (found s) = d at hb
  have htb : (irqSettle s.die d).tb = d.tb := keeps_irqSettle [] s.die d .tb (by simp)
  obtain ⟨hk, hphase, hgt⟩ := hb
  exact ⟨by rw [htb]; exact hk, by rw [htb]; exact hphase, by rw [htb]; exact hgt, rfl⟩

theorem ends_beatEdge_none {s : State} (h : edgeDue s.die = none) : ends .beatEdge s fun t => keepsBut [] s t := by
  have hidle : beatEdge (found s) = found s := by
    unfold beatEdge
    rw [show edgeDue (found s) = none from h]
  exact ends_of_onDie (f := beatEdge) rfl (by rw [hidle]; exact keepsBut_settled s)

theorem ends_frameClose {s : State} (hrun : running s.die = true) (hphase : s.die.tb.phase = 2) : ends .frameClose s fun t =>
    t.die.tb.phase = 3 ∧ t.die.tb.gt = max s.die.tb.gt (inBeat s.die (fld s.die Reg.BEAT_FCL_VALUE)) ∧ t.die.tb.k = s.die.tb.k := by
  have hb := frameClose_tb (d := found s) hrun hphase
  refine ends_of_onDie (f := frameClose) rfl ?_
  generalize frameClose (found s) = d at hb
  have htb : (irqSettle s.die d).tb = d.tb := keeps_irqSettle [] s.die d .tb (by simp)
  show (irqSettle s.die d).tb.phase = 3 ∧ (irqSettle s.die d).tb.gt = _ ∧ (irqSettle s.die d).tb.k = _
  rw [htb]
  exact hb

theorem ends_gtStep {s : State} {x : Int} (h : stepDue s.die = some x) : ends .gtStep s fun t =>
    t.die.tb.gt = ((s.die.tb.gt : Int) + x).toNat ∧ t.die.tb.step = none ∧
      (running s.die = true → t.die.tb.k = beatAt (hz s.die) ((s.die.tb.gt : Int) + x).toNat) := by
  have hb := gtStep_tb (d := found s) h
  refine ends_of_onDie (f := gtStep) rfl ?_
  generalize gtStep (found s) = d at hb
  have htb : (irqSettle s.die d).tb = d.tb := keeps_irqSettle [] s.die d .tb (by simp)
  show (irqSettle s.die d).tb.gt = _ ∧ (irqSettle s.die d).tb.step = _ ∧ (_ → (irqSettle s.die d).tb.k = _)
  rw [htb]
  exact ⟨hb.1, hb.2.1, fun _ => hb.2.2⟩

end Sys2Proof.Machine
end

section
/-! PROOFS. The input deadline (R34), and the writes of the supervisor port that no later write overtakes (R58). -/

namespace Sys2Proof.Machine

open Sys2Proof

/-! The place among the writes of R58. -/

theorem noneLater_mono {s : State} {p q c : Nat} (h : noneLater s p c) (hpq : p ≤ q) : noneLater s q c := fun x hx =>
  (h x hx).imp_right fun ⟨hc, hp⟩ => ⟨hc, hp.trans hpq⟩

/-- Where no later write is known, the writes of a command stand. -/
theorem getReg_axSettle_free {s : State} {c : Nat} (h : noneLater s 6 c) (new : Die) (off : Nat) :
    getReg (axSettle 6 c (found s) new) off = getReg new off := by
  have hl : Leaves (fun _ => False) new (axSettle 6 c (found s) new) := by
    unfold axSettle
    extract_lets new' offs
    refine Leaves.trans (leaves_axPlace _ 6 c (found s) new) (Leaves.foldl (fun d o _ => ?_) new')
    extract_lets p was now keep d1 d2
    have hp : 6 ≤ p := by
      unfold p
      split <;> decide
    have hkeep : keep = 0 := by
      have : axLater (found s) p c o = 0 := axLater_of_noneLater (noneLater_mono h hp) o
      simp [keep, this]
    rw [if_pos hkeep]
    exact (leaves_axNote d d _).2 (.refl _ d)
  exact hl off (by simp)

theorem axH_axSettle (port c : Nat) (old new : Die) (a : Nat) : axH (axSettle port c old new) a = axH new a := by
  have h : (axSettle port c old new).axes = new.axes := keeps_axSettle port c old new .axes (by simp)
  rw [axH, h, axH]

theorem flag_congr {c d : Die} {f : Fld} (h : getReg d f.off = getReg c f.off) : flag d f = flag c f := by
  rw [flag, fld_congr h, flag]

/-- The interrupt messages play no part in a move of GT. -/
theorem toGt_found_tb (s : State) (t : Nat) : (toGt (found s) t).tb = (toGt s.die t).tb := by
  have h : (found s).tb = s.die.tb := rfl
  rw [toGt, toGt, h]
  by_cases ht : s.die.tb.gt < t
  · rw [if_pos ht, if_pos ht]
  · rw [if_neg ht, if_neg ht, h]

/-! The input deadline. -/

/-- An axis with no accepted in-slot at the deadline is MISSING (R34). -/
def missed (d : Die) (a : Nat) : Die :=
  if axState d a ≠ 0 && !(axH d a).inSlot then axCount (axEvent d (Reg.AX_STAT_MISSING a)) (Reg.AX_CNT_MISS a) else d

theorem inputDeadline_eq {d : Die} (hrun : running d = true) (hphase : d.tb.phase = 0) : inputDeadline d =
    updTb ((declAxes (toGt d (inBeat d (fld d Reg.BEAT_IDL_VALUE)))).foldl missed (toGt d (inBeat d (fld d Reg.BEAT_IDL_VALUE))))
      fun t => { t with phase := 1 } := by
  unfold inputDeadline
  rw [if_neg (by simp [hrun, hphase])]
  rfl

/-- A fold with each index once: before and after the turn of `a` the other turns are related by `R`. -/
theorem foldl_at {α β : Type} {R : α → α → Prop} (hrefl : ∀ x, R x x) (htrans : ∀ {x y z}, R x y → R y z → R x z) {f : α → β → α}
    {l : List β} (hnodup : l.Nodup) {a : β} (ha : a ∈ l) (hR : ∀ x, ∀ b ∈ l, b ≠ a → R x (f x b)) (x : α) :
    ∃ y, R x y ∧ R (f y a) (l.foldl f x) := by
  have hrest : ∀ (m : List β) (x : α), (∀ b ∈ m, b ∈ l ∧ b ≠ a) → R x (m.foldl f x) := fun m => by
    induction m with
    | nil => exact fun x _ => hrefl x
    | cons b m ih =>
      intro x hm
      obtain ⟨hbl, hba⟩ := hm b (by simp)
      exact htrans (hR x b hbl hba) (ih _ fun c hc => hm c (by simp [hc]))
  obtain ⟨m, n, rfl⟩ := List.append_of_mem ha
  have hpair := List.nodup_append.1 hnodup
  obtain ⟨_, htail, hdisj⟩ := hpair
  have ham : ∀ b ∈ m, b ≠ a := fun b hb => hdisj b hb a (by simp)
  have han : ∀ b ∈ n, b ≠ a := fun b hb he => (List.nodup_cons.1 htail).1 (he ▸ hb)
  refine ⟨m.foldl f x, hrest m x fun b hb => ⟨by simp [hb], ham b hb⟩, ?_⟩
  rw [List.foldl_append, List.foldl_cons]
  exact hrest n _ fun b hb => ⟨by simp [hb], han b hb⟩

theorem nodup_upto (n : Nat) : (upto n).Nodup := List.nodup_range

theorem nodup_declAxes (d : Die) : (declAxes d).Nodup := (nodup_upto 128).filter _

theorem mem_declAxes {d : Die} {a : Nat} : a ∈ declAxes d ↔ a < 128 ∧ axDecl d a = true := by
  rw [declAxes, List.mem_filter, mem_upto]

/-- The registers of an axis that the deadline may write. -/
def missRegs (a off : Nat) : Prop := off = Reg.AX_STAT a ∨ off = Reg.AX_CNT_MISS a

theorem missRegs_inj {a b off : Nat} (h : missRegs a off) (h' : missRegs b off) : a = b := by
  simp only [missRegs, Reg.AX_STAT, Reg.AX_CNT_MISS] at h h'
  omega

theorem missed_idle {d : Die} {a : Nat} (h : ¬ (axState d a ≠ 0 ∧ (axH d a).inSlot = false)) : missed d a = d := by
  unfold missed
  rw [if_neg (by simpa using h)]

theorem leaves_missed (d : Die) (a : Nat) : Leaves (missRegs a) d (missed d a) := by
  unfold missed
  split
  · rw [leaves_axCount _ _ (p := missRegs a) (.inr rfl), leaves_axEvent _ _ (f := Reg.AX_STAT_MISSING a) (.inl rfl)]
    exact .refl _ d
  · exact .refl _ d

theorem keeps_missed (d : Die) (a : Nat) : Keeps [.regs, .axLog] d (missed d a) := by
  unfold missed
  split
  · rw [keeps_axCount _ _ (by simp) (by simp), keeps_axEvent _ _ (by simp) (by simp)]
    exact .refl _ d
  · exact .refl _ d

theorem missed_spec {d : Die} {a : Nat} (hst : axState d a ≠ 0) (hin : (axH d a).inSlot = false) :
    flag (missed d a) (Reg.AX_STAT_MISSING a) = true ∧
      getReg (missed d a) (Reg.AX_CNT_MISS a) = BitVec.ofNat 32 (satInc 32 (getReg d (Reg.AX_CNT_MISS a)).toNat) := by
  have heq : missed d a = axCount (axEvent d (Reg.AX_STAT_MISSING a)) (Reg.AX_CNT_MISS a) := if_pos (by simp [hst, hin])
  have hne : Reg.AX_STAT a ≠ Reg.AX_CNT_MISS a := by
    simp only [Reg.AX_STAT, Reg.AX_CNT_MISS]
    omega
  rw [heq]
  refine ⟨?_, ?_⟩
  · have hl : Leaves (· = Reg.AX_CNT_MISS a) (axEvent d (Reg.AX_STAT_MISSING a))
        (axCount (axEvent d (Reg.AX_STAT_MISSING a)) (Reg.AX_CNT_MISS a)) :=
      (leaves_axCount (p := (· = Reg.AX_CNT_MISS a)) _ _ rfl).2 (.refl _ _)
    rw [flag_of_leaves hl (Reg.AX_STAT_MISSING a) hne]
    exact flag_axEvent_same d (Reg.AX_STAT_MISSING a) (show 10 + 1 ≤ 32 by decide) rfl
  · rw [axCount, getReg_incReg_same, getReg_axMark]
    have hl : Leaves (· = Reg.AX_STAT a) d (axEvent d (Reg.AX_STAT_MISSING a)) :=
      (leaves_axEvent (p := (· = Reg.AX_STAT a)) (f := Reg.AX_STAT_MISSING a) d d rfl).2 (.refl _ _)
    rw [hl _ hne.symm]

/-- The turns of the other axes: the registers and the marks of axis `a` stand. -/
structure MissSpared (a : Nat) (c d : Die) : Prop where
  regs : ∀ off, missRegs a off → getReg d off = getReg c off
  axes : d.axes = c.axes

theorem MissSpared.refl (a : Nat) (d : Die) : MissSpared a d d := ⟨fun _ _ => rfl, rfl⟩

theorem MissSpared.trans {a : Nat} {c d e : Die} (h : MissSpared a c d) (h' : MissSpared a d e) : MissSpared a c e :=
  ⟨fun off ho => (h'.regs off ho).trans (h.regs off ho), h'.axes.trans h.axes⟩

theorem spared_missed (d : Die) {a b : Nat} (h : b ≠ a) : MissSpared a d (missed d b) :=
  ⟨fun off ho => leaves_missed d b off fun hb => h (missRegs_inj hb ho), keeps_missed d b .axes (by simp)⟩

theorem MissSpared.fld {a : Nat} {c d : Die} (h : MissSpared a c d) (f : Fld) (hf : missRegs a f.off) : fld d f = fld c f :=
  fld_congr (h.regs _ hf)

theorem MissSpared.flag {a : Nat} {c d : Die} (h : MissSpared a c d) (f : Fld) (hf : missRegs a f.off) : flag d f = flag c f :=
  flag_congr (h.regs _ hf)

/-- Every declared axis that missed its in-slot is marked and counted. -/
theorem foldl_missed (d : Die) {a : Nat} (ha : a ∈ declAxes d) (hst : axState d a ≠ 0) (hin : (axH d a).inSlot = false) :
    flag ((declAxes d).foldl missed d) (Reg.AX_STAT_MISSING a) = true ∧
      getReg ((declAxes d).foldl missed d) (Reg.AX_CNT_MISS a) =
        BitVec.ofNat 32 (satInc 32 (getReg d (Reg.AX_CNT_MISS a)).toNat) := by
  obtain ⟨e, hbefore, hafter⟩ := foldl_at (R := MissSpared a) (MissSpared.refl a) MissSpared.trans (f := missed) (nodup_declAxes d) ha
    (fun e b _ hb => spared_missed e hb) d
  have hst' : axState e a ≠ 0 := by
    rw [axState, hbefore.fld (Reg.AX_STAT_STATE a) (.inl rfl)]
    exact hst
  have hin' : (axH e a).inSlot = false := by
    rw [axH, hbefore.axes]
    exact hin
  obtain ⟨hflag, hcnt⟩ := missed_spec hst' hin'
  refine ⟨?_, ?_⟩
  · rw [← hflag, hafter.flag (Reg.AX_STAT_MISSING a) (.inl rfl)]
  · rw [hafter.regs _ (.inr rfl), hcnt, hbefore.regs _ (.inr rfl)]

/-- A register of no axis that missed its in-slot reads as before. -/
theorem foldl_missed_other (d : Die) (l : List Nat) (hnodup : l.Nodup) {off : Nat}
    (h : ∀ a ∈ l, axState d a ≠ 0 → (axH d a).inSlot = false → ¬ missRegs a off) :
    getReg (l.foldl missed d) off = getReg d off := by
  by_cases hown : ∃ a ∈ l, missRegs a off
  · obtain ⟨a, ha, hoff⟩ := hown
    obtain ⟨e, hbefore, hafter⟩ := foldl_at (R := MissSpared a) (MissSpared.refl a) MissSpared.trans (f := missed) hnodup ha
      (fun e b _ hb => spared_missed e hb) d
    have hidle : ¬ (axState e a ≠ 0 ∧ (axH e a).inSlot = false) := fun ⟨hst, hin⟩ => by
      rw [axState, hbefore.fld (Reg.AX_STAT_STATE a) (.inl rfl)] at hst
      rw [axH, hbefore.axes] at hin
      exact h a ha hst hin hoff
    rw [hafter.regs off hoff, missed_idle hidle, hbefore.regs off hoff]
  · exact Leaves.foldl (p := fun o => ∃ a ∈ l, missRegs a o) (fun e a ha => (leaves_missed e a).mono fun o ho => ⟨a, ha, ho⟩) d off hown

/-- INPUT_DEADLINE, in its place: the moment, then the turn of every declared axis. -/
theorem deadline_keeps {d : Die} (hrun : running d = true) (hphase : d.tb.phase = 0) :
    Keeps [.regs, .axLog, .tb] d (inputDeadline d) ∧ (inputDeadline d).tb.phase = 1 ∧
      (inputDeadline d).tb.cyc = (toGt d (inBeat d (fld d Reg.BEAT_IDL_VALUE))).tb.cyc ∧
      (inputDeadline d).tb.gt = max d.tb.gt (inBeat d (fld d Reg.BEAT_IDL_VALUE)) := by
  rw [inputDeadline_eq hrun hphase]
  obtain ⟨hgt, -, -⟩ := toGt_tb d (inBeat d (fld d Reg.BEAT_IDL_VALUE))
  have hk : Keeps [.tb] d (toGt d (inBeat d (fld d Reg.BEAT_IDL_VALUE))) := keeps_toGt d _
  obtain ⟨e, he⟩ : ∃ e, e = toGt d (inBeat d (fld d Reg.BEAT_IDL_VALUE)) := ⟨_, rfl⟩
  rw [← he] at hgt hk ⊢
  clear he
  have hfold : Keeps [.regs, .axLog] e ((declAxes e).foldl missed e) := Keeps.foldl (fun x a => keeps_missed x a) _ _
  have htb : ((declAxes e).foldl missed e).tb = e.tb := hfold .tb (by simp)
  generalize (declAxes e).foldl missed e = x at hfold htb
  refine ⟨?_, rfl, ?_, ?_⟩
  · rw [keeps_updTb _ _ (by simp)]
    exact (hk.mono (by simp)).trans (hfold.mono (by simp))
  · exact congrArg (·.cyc) htb
  · exact (congrArg (·.gt) htb).trans hgt

theorem ends_inputDeadline {s : State} (hrun : running s.die = true) (hphase : s.die.tb.phase = 0) : ends .inputDeadline s fun t =>
    t.die.tb.phase = 1 ∧ t.die.tb.gt = max s.die.tb.gt (inBeat s.die (fld s.die Reg.BEAT_IDL_VALUE)) ∧
      keepsBut [.regs, .held, .axLog, .tb] s t := by
  obtain ⟨hk, hph, -, hgt⟩ := deadline_keeps (d := found s) hrun hphase
  refine ends_of_onDie (f := bySupervisor inputDeadline) rfl ?_
  unfold bySupervisor
  generalize inputDeadline (found s) = d at hk hph hgt
  have hset := keeps_axSettle 6 d.tb.cyc (found s) d
  generalize axSettle 6 d.tb.cyc (found s) d = e at hset
  have htb : (irqSettle s.die e).tb = d.tb := ((keeps_irqSettle [] s.die e) .tb (by simp)).trans (hset .tb (by simp))
  refine ⟨?_, ?_, keepsBut_command ((hk.mono (by simp)).trans (hset.mono (by simp)))⟩
  · exact (congrArg (·.phase) htb).trans hph
  · exact (congrArg (·.gt) htb).trans hgt

theorem ends_inputDeadline_axes {s : State} (hrun : running s.die = true) (hphase : s.die.tb.phase = 0)
    (hlater : noneLater s 6 (toGt s.die (inBeat s.die (fld s.die Reg.BEAT_IDL_VALUE))).tb.cyc) : ends .inputDeadline s fun t =>
    (∀ a, a < 128 → axDecl s.die a = true → axState s.die a ≠ 0 → (axH s.die a).inSlot = false →
      flag t.die (Reg.AX_STAT_MISSING a) = true ∧
      getReg t.die (Reg.AX_CNT_MISS a) = BitVec.ofNat 32 (satInc 32 (getReg s.die (Reg.AX_CNT_MISS a)).toNat)) ∧
    regsBut (fun o => ∃ a, a < 128 ∧ axDecl s.die a = true ∧ axState s.die a ≠ 0 ∧ (axH s.die a).inSlot = false ∧
      (o = Reg.AX_STAT a ∨ o = Reg.AX_CNT_MISS a)) s t := by
  obtain ⟨-, -, hcyc, -⟩ := deadline_keeps (d := found s) hrun hphase
  have heq := inputDeadline_eq (d := found s) hrun hphase
  refine ends_of_onDie (f := bySupervisor inputDeadline) rfl ?_
  unfold bySupervisor
  have hcyc' : (inputDeadline (found s)).tb.cyc = (toGt s.die (inBeat s.die (fld s.die Reg.BEAT_IDL_VALUE))).tb.cyc :=
    hcyc.trans (congrArg (·.cyc) (toGt_found_tb s _))
  have hreg : ∀ off, getReg (axSettle 6 (inputDeadline (found s)).tb.cyc (found s) (inputDeadline (found s))) off =
      getReg (inputDeadline (found s)) off := fun off => getReg_axSettle_free (by rw [hcyc']; exact hlater) _ off
  generalize axSettle 6 (inputDeadline (found s)).tb.cyc (found s) (inputDeadline (found s)) = e at hreg
  obtain ⟨d1, hd1⟩ : ∃ d1, d1 = toGt (found s) (inBeat (found s) (fld (found s) Reg.BEAT_IDL_VALUE)) := ⟨_, rfl⟩
  rw [← hd1] at heq
  have hregs1 : ∀ off, getReg d1 off = getReg s.die off := fun off => by rw [hd1]; exact getReg_toGt _ _ off
  have haxes1 : ∀ a, axH d1 a = axH s.die a := fun a => by
    have h : d1.axes = s.die.axes := by rw [hd1]; exact keeps_toGt _ _ .axes (by simp)
    rw [axH, h, axH]
  clear hd1 hcyc hcyc' hlater
  have hfld : ∀ f : Fld, fld d1 f = fld s.die f := fun f => fld_congr (hregs1 f.off)
  have hdecl : ∀ a, axDecl d1 a = axDecl s.die a := fun a => by
    unfold axDecl flag
    rw [hfld]
  have hstate : ∀ a, axState d1 a = axState s.die a := fun a => hfld _
  have hout : ∀ off, getReg e off = getReg ((declAxes d1).foldl missed d1) off := fun off => by
    rw [hreg, heq]
    rfl
  clear hreg heq
  refine ⟨fun a ha hdec hst hin => ?_, regsBut_command fun off hoff => ?_⟩
  · obtain ⟨hflag, hcnt⟩ := foldl_missed d1 (mem_declAxes.2 ⟨ha, (hdecl a).trans hdec⟩) (by rwa [hstate]) (by rw [haxes1]; exact hin)
    refine ⟨?_, ?_⟩
    · refine (flag_irqSettle _ _ _).trans (Eq.trans ?_ hflag)
      exact flag_congr (f := Reg.AX_STAT_MISSING a) (hout (Reg.AX_STAT a))
    · refine (getReg_irqSettle _ _ _).trans ?_
      rw [hout, hcnt, hregs1]
  · rw [hout, foldl_missed_other d1 _ (nodup_declAxes d1) fun a ha hst hin hoff' => ?_]
    · exact hregs1 off
    · obtain ⟨halt, hdec⟩ := mem_declAxes.1 ha
      exact hoff ⟨a, halt, (hdecl a).symm.trans hdec, by rwa [← hstate], by rw [← haxes1]; exact hin, hoff'⟩

end Sys2Proof.Machine
end

section
/-! PROOFS. The output phase: what its steps leave of the axes, the beat's status and the timebase (R41 to R47, R162, R163). -/

namespace Sys2Proof.Machine

open Sys2Proof

/-! Steps of the Kennel, the Logbook and the trace: calm ones. -/

/-- A register of no axis, and none of those that show the shedding. -/
def plainReg (off : Nat) : Prop := off < 0x20000 ∧ off ≠ Reg.BEAT_STAT ∧ off ≠ Reg.BEAT_SHED

/-- A step that writes plain registers only, and leaves the axes and the timebase. -/
structure Calm (c d : Die) : Prop where
  regs : Leaves plainReg c d
  axes : d.axes = c.axes
  tb : d.tb = c.tb

theorem Calm.refl (d : Die) : Calm d d := ⟨.refl _ d, rfl, rfl⟩

theorem Calm.trans {c d e : Die} (h : Calm c d) (h' : Calm d e) : Calm c e :=
  ⟨h.regs.trans h'.regs, h'.axes.trans h.axes, h'.tb.trans h.tb⟩

theorem Calm.of_keeps {ps : List Part} {c d : Die} (hr : Leaves plainReg c d) (hk : Keeps ps c d) (ha : .axes ∉ ps) (ht : .tb ∉ ps) :
    Calm c d := ⟨hr, hk .axes ha, hk .tb ht⟩

theorem Calm.foldl {β : Type} {f : Die → β → Die} {l : List β} (h : ∀ d, ∀ x ∈ l, Calm d (f d x)) (d : Die) : Calm d (l.foldl f d) := by
  induction l generalizing d with
  | nil => exact .refl d
  | cons x l ih => exact (h d x (by simp)).trans (ih (fun d y hy => h d y (by simp [hy])) (f d x))

theorem Calm.ite {p : Prop} [Decidable p] {c x y : Die} (hx : Calm c x) (hy : Calm c y) : Calm c (if p then x else y) := by
  split <;> assumption

section Steps

variable (d : Die)

theorem calm_incReg {o : Nat} (h : plainReg o) : Calm d (incReg d o) := ⟨(leaves_incReg _ _ h).2 (.refl _ d), rfl, rfl⟩

theorem calm_setFld {f : Fld} (h : plainReg f.off) (v : Nat) : Calm d (setFld d f v) := ⟨(leaves_setFld _ _ h v).2 (.refl _ d), rfl, rfl⟩

theorem calm_updEng (e : Nat) (f : Engine → Engine) : Calm d (updEng d e f) := ⟨.of_regs rfl, rfl, rfl⟩

theorem calm_updKnl (f : Kennel → Kennel) : Calm d (updKnl d f) := ⟨.of_regs rfl, rfl, rfl⟩

theorem plainReg_counts : plainReg Reg.KNL_PP_LOST ∧ plainReg Reg.KNL_CNT_PARK ∧ plainReg Reg.KNL_CNT_OPHKILL ∧ plainReg Reg.KNL_STAT ∧
    plainReg Reg.KNL_PP_STAT ∧ plainReg Reg.KNL_PP_TRIGIDX ∧ plainReg Reg.LOG_CNT_LOST ∧ plainReg Reg.LOG_STAT ∧
    plainReg Reg.HST_IRQ_STAT := by
  simp only [plainReg]
  decide

theorem plainReg_cyc {e : Nat} (he : e < 16) : plainReg (Reg.LE_CYC e) ∧ plainReg (Reg.LE_CYC e + 4) ∧ plainReg (Reg.LE_ABORTCNT e) := by
  simp only [plainReg, Reg.LE_CYC, Reg.LE_ABORTCNT, Reg.BEAT_STAT, Reg.BEAT_SHED]
  omega

theorem calm_ppEvt (event engine level idx src detail : Nat) : Calm d (ppEvt d event engine level idx src detail) :=
  .of_keeps (ps := [.regs, .knl]) ((leaves_ppEvt _ _ plainReg_counts.1 ..).2 (.refl _ d))
    ((keeps_ppEvt _ _ (by simp) (by simp) ..).2 (.refl _ d)) (by simp) (by simp)

theorem calm_ppTrigger (cause : Nat) : Calm d (ppTrigger d cause) := by
  obtain ⟨-, -, -, -, hstat, hidx, -⟩ := plainReg_counts
  exact .of_keeps (ps := [.regs, .knl]) ((leaves_ppTrigger _ _ hstat hidx _).2 (.refl _ d))
    ((keeps_ppTrigger _ _ (by simp) (by simp) _).2 (.refl _ d)) (by simp) (by simp)

theorem calm_logEvt (src code sev p0 p1 p2 : Nat) : Calm d (logEvt d src code sev p0 p1 p2) := by
  obtain ⟨-, -, -, -, -, -, hcnt, hstat, -⟩ := plainReg_counts
  exact .of_keeps (ps := [.regs, .lgb]) ((leaves_logEvt _ _ hcnt hstat ..).2 (.refl _ d))
    ((keeps_logEvt _ _ (by simp) (by simp) ..).2 (.refl _ d)) (by simp) (by simp)

theorem calm_swapBusy {e : Nat} (he : e < 16) (n : Nat) : Calm d (swapBusy d e n) := by
  obtain ⟨hlo, hhi, -⟩ := plainReg_cyc he
  refine .of_keeps (ps := [.regs, .eng]) ((leaves_swapBusy d e n).mono fun o ho => ?_) (keeps_swapBusy d e n) (by simp) (by simp)
  obtain rfl | rfl := ho <;> assumption

theorem calm_undoSwap {e : Nat} (he : e < 16) (n : Nat) : Calm d (undoSwap d e n) := by
  obtain ⟨hlo, hhi, -⟩ := plainReg_cyc he
  refine .of_keeps (ps := [.regs, .eng]) ((leaves_undoSwap d e n).mono fun o ho => ?_) (keeps_undoSwap d e n) (by simp) (by simp)
  obtain rfl | rfl := ho <;> assumption

theorem calm_resumeEvt {e : Nat} (he : e < 16) (t : Task) : Calm d (resumeEvt d e t) :=
  (calm_swapBusy d he 6).trans (calm_ppEvt _ ..)

theorem calm_resumeOther {e : Nat} (he : e < 16) : Calm d (resumeOther d e) := by
  unfold resumeOther
  split
  · exact .refl d
  · refine .ite (.refl d) (.ite ?_ ?_)
    · exact ((calm_updEng d e _).trans (calm_incReg _ plainReg_counts.2.1)).trans (calm_ppEvt _ ..)
    · exact (calm_updEng d e _).trans (calm_resumeEvt _ he _)

theorem calm_resumeAborted {e : Nat} (he : e < 16) : Calm d (resumeAborted d e) := by
  unfold resumeAborted
  exact .ite ((calm_resumeOther d he).trans (calm_updEng _ e _)) (calm_resumeOther d he)

theorem calm_resumeEvts (es : List Nat) : Calm d (resumeEvts d es) := by
  unfold resumeEvts
  refine Calm.foldl (fun d e _ => ?_) d
  split
  · exact calm_ppEvt _ ..
  · exact .refl d

theorem calm_maxFld {f : Fld} (h : plainReg f.off) (v : Nat) : Calm d (maxFld d f v) := by
  unfold maxFld
  exact .ite (calm_setFld d h v) (.refl d)

theorem calm_recordPhase (l : List PhaseEvt) : Calm d (recordPhase d l) := by
  unfold recordPhase
  exact Calm.foldl (fun d x _ => calm_ppEvt d ..) d

theorem calm_kpost {src : Nat} (hs : src < 32) (x : QEnt) : Calm d (kpost d src x).1 := by
  have hfill : plainReg (Reg.KNL_QFILL src) := by
    simp only [plainReg, Reg.KNL_QFILL, Reg.BEAT_STAT, Reg.BEAT_SHED]
    omega
  unfold kpost
  extract_lets q
  split
  · exact calm_setFld d (f := Reg.KNL_QFILL_FULLCNT src) hfill _
  · exact (calm_updKnl d _).trans (calm_maxFld (setQueue d src (q ++ [x])) (f := Reg.KNL_QFILL_PEAK src) hfill _)

theorem calm_noteBlocked : Calm d (noteBlocked d) := by
  rw [noteBlocked_eq]
  refine Calm.trans (Calm.foldl (fun d j _ => ?_) d) (calm_updKnl _ _)
  unfold blockedNoted
  extract_lets src
  refine .ite ?_ (.refl d)
  split
  · exact calm_ppEvt _ ..
  · exact .refl d

/-! Suspended levels. -/

theorem lt_of_mem_engineTasks {d : Die} {x : Nat × Task × Bool} (h : x ∈ engineTasks d) : x.1 < 16 := by
  obtain ⟨e, he, hx⟩ := List.mem_flatMap.1 h
  have hxe : x.1 = e := by
    obtain hx | hx := List.mem_append.1 hx <;>
    · obtain ⟨t, -, rfl⟩ := List.mem_map.1 hx
      rfl
  exact hxe ▸ mem_upto.1 he

/-- The banks of an engine swap: task `u` runs, the parked task `t` is held. -/
def parkSwap (d : Die) (e : Nat) (u : Option Task) (t : Task) : Die :=
  updEng d e fun g => { g with bank := !g.bank, active := u, other := some t }

/-- The cycles and the count of a parking. -/
def parkCount (d : Die) (e : Nat) : Die := incReg (swapBusy d e 6) Reg.KNL_CNT_PARK

/-- The event of a parking. -/
def parkEvt (e : Nat) (t : Task) : PhaseEvt := (t.idx, 0x0A, e, t.level, t.src, t.busy)

/-- One parking (R163). -/
def parkOne (r : Die × List PhaseEvt × List Nat) (x : Nat × Task × Bool) : Die × List PhaseEvt × List Nat :=
  match (engH (parkCount r.1 x.1) x.1).other with
  | none => (parkSwap (parkCount r.1 x.1) x.1 none { x.2.1 with parked := true }, r.2.1 ++ [parkEvt x.1 { x.2.1 with parked := true }], r.2.2)
  | some u =>
    if u.parked then
      (parkSwap (parkCount r.1 x.1) x.1 (some u) { x.2.1 with parked := true },
        r.2.1 ++ [parkEvt x.1 { x.2.1 with parked := true }], r.2.2)
    else if suspended (parkCount r.1 x.1) u.level then
      (incReg (parkSwap (parkCount r.1 x.1) x.1 (some { u with parked := true }) { x.2.1 with parked := true }) Reg.KNL_CNT_PARK,
        r.2.1 ++ [parkEvt x.1 { x.2.1 with parked := true }, parkEvt x.1 u], r.2.2)
    else
      (parkSwap (parkCount r.1 x.1) x.1 (some u) { x.2.1 with parked := true },
        r.2.1 ++ [parkEvt x.1 { x.2.1 with parked := true }], r.2.2 ++ [x.1])

theorem calm_parkSwap (e : Nat) (u : Option Task) (t : Task) : Calm d (parkSwap d e u t) := calm_updEng d e _

theorem calm_parkCount {e : Nat} (he : e < 16) : Calm d (parkCount d e) :=
  (calm_swapBusy d he 6).trans (calm_incReg _ plainReg_counts.2.1)

theorem calm_parkOne (r : Die × List PhaseEvt × List Nat) (x : Nat × Task × Bool) (he : x.1 < 16) : Calm r.1 (parkOne r x).1 := by
  have hd : Calm r.1 (parkCount r.1 x.1) := calm_parkCount r.1 he
  unfold parkOne
  split
  · exact hd.trans (calm_parkSwap _ ..)
  · split
    · exact hd.trans (calm_parkSwap _ ..)
    · split
      · exact (hd.trans (calm_parkSwap _ ..)).trans (calm_incReg _ plainReg_counts.2.1)
      · exact hd.trans (calm_parkSwap _ ..)

theorem parkRunning_eq (d : Die) (mask : Nat) : parkRunning d mask =
    ((engineTasks d).filter fun x => x.2.2 && !x.2.1.parked && bitOf mask x.2.1.level).foldl parkOne (d, [], []) := rfl

theorem calm_parkRunning (mask : Nat) : Calm d (parkRunning d mask).1 := by
  rw [parkRunning_eq]
  have h : ∀ (l : List (Nat × Task × Bool)) (r : Die × List PhaseEvt × List Nat), (∀ x ∈ l, x.1 < 16) → Calm r.1 (l.foldl parkOne r).1 :=
    fun l => by
    induction l with
    | nil => exact fun r _ => .refl r.1
    | cons x l ih => exact fun r hl => (calm_parkOne r x (hl x (by simp))).trans (ih _ fun y hy => hl y (by simp [hy]))
  exact h _ (d, [], []) fun x hx => lt_of_mem_engineTasks (List.mem_filter.1 hx).1

theorem calm_setSuspended (mask : Nat) : Calm d (setSuspended d mask).1 := by
  unfold setSuspended
  extract_lets old started ended d' r
  have h : Calm d d' := (calm_setFld d (f := Reg.KNL_STAT_SUSP) plainReg_counts.2.2.2.1 mask).trans (calm_updKnl _ _)
  exact h.trans (calm_parkRunning d' started)

end Steps

/-! Ends of the suspensions (R45, R46). -/

theorem tb_putShed (d : Die) : (putShed d).tb = d.tb := by
  unfold putShed
  extract_lets k left d'
  rw [tb_setFld, tb_setFld]
  exact (tb_putFlag _ _ _).trans (tb_putFlag _ _ _)

/-- A suspension in its last beat is over. -/
theorem endShed_tb {d : Die} {b : Nat} (hb : b ≤ d.tb.k) : (endShed d).tb.k = d.tb.k ∧
    (d.tb.endA = some b → (endShed d).tb.endA = none) ∧ (d.tb.endB = some b → (endShed d).tb.endB = none) :=
  ⟨rfl, fun h => by simp [endShed, updTb, h]; omega, fun h => by simp [endShed, updTb, h]; omega⟩

/-- What is left to do at the last beat of a suspension. -/
def suspensionsOver (d : Die) : Die :=
  resumeEvts (recordPhase (setSuspended (putShed (endShed d)) (suspMask (endShed d))).1
    (setSuspended (putShed (endShed d)) (suspMask (endShed d))).2.1) (setSuspended (putShed (endShed d)) (suspMask (endShed d))).2.2

theorem suspensionEnd_due {d : Die} (hrun : running d = true) (hphase : d.tb.phase = 2)
    (hdue : d.tb.endA.any (· ≤ d.tb.k) || d.tb.endB.any (· ≤ d.tb.k)) : suspensionEnd d = suspensionsOver d := by
  unfold suspensionEnd
  rw [if_pos (by rw [hrun, hdue]; simp [hphase])]
  rfl

theorem suspensionsOver_tb (d : Die) : (suspensionsOver d).tb = (endShed d).tb := by
  unfold suspensionsOver
  generalize endShed d = e
  have h := (calm_setSuspended (putShed e) (suspMask e)).tb
  generalize setSuspended (putShed e) (suspMask e) = r at h
  rw [(calm_resumeEvts _ _).tb, (calm_recordPhase _ _).tb, h, tb_putShed]

theorem ends_shedSuspensionEnd {s : State} {P : Timebase → Prop} (hrun : running s.die = true) (hphase : s.die.tb.phase = 2)
    (hdue : s.die.tb.endA.any (· ≤ s.die.tb.k) || s.die.tb.endB.any (· ≤ s.die.tb.k)) (hP : P (endShed (found s)).tb) :
    ends .shedSuspensionEnd s fun t => P t.die.tb ∧ t.dog = s.dog := by
  refine ends_of_onDie (f := suspensionEnd) rfl ?_
  rw [suspensionEnd_due (d := found s) hrun hphase hdue]
  have htb := suspensionsOver_tb (found s)
  generalize suspensionsOver (found s) = d at htb
  have hset : (irqSettle s.die d).tb = d.tb := keeps_irqSettle [] s.die d .tb (by simp)
  exact ⟨by rw [hset, htb]; exact hP, rfl⟩

/-! The end of a stop (R121, R123). -/

theorem keeps_clearReq (d : Die) (a : Nat) : Keeps [.regs, .held, .axLog] d (clearReq d a) := by
  unfold clearReq
  extract_lets off
  rw [keeps_setFld _ _ (by simp), keeps_axNote _ _ (by simp), keeps_dropHeld _ _ (by simp)]
  exact .refl _ d

theorem keeps_enterFaulted (d : Die) (a cause : Nat) : Keeps [.regs, .held, .axLog, .lgb] d (enterFaulted d a cause) := by
  unfold enterFaulted
  extract_lets d'
  have hd : Keeps [.regs, .held, .axLog, .lgb] d d' := by
    refine Keeps.trans ?_ ((keeps_clearReq _ a).mono (by simp))
    rw [keeps_axFld _ _ (by simp) (by simp), keeps_axFld _ _ (by simp) (by simp)]
    exact .refl _ d
  rw [keeps_irqSet _ _ (by simp), keeps_logEvt _ _ (by simp) (by simp)]
  exact hd

theorem keeps_endStop (d : Die) (a : Nat) : Keeps [.regs, .held, .axLog, .lgb] d (endStop d a) := by
  unfold endStop
  extract_lets c
  split
  · exact (keeps_axFld _ _ (by simp) (by simp) _ _).2 (.refl _ d)
  · exact keeps_enterFaulted d a c

/-- A stop by the host ends Held, any other Faulted with the stop's cause. -/
theorem endStop_spec (d : Die) (a : Nat) : (fld d (Reg.AX_FAULT_STOPCAUSE a) = 0xC → axState (endStop d a) a = 1) ∧
    (fld d (Reg.AX_FAULT_STOPCAUSE a) ≠ 0xC → axState (endStop d a) a = 4 ∧
      fld (endStop d a) (Reg.AX_FAULT_CAUSE a) = fld d (Reg.AX_FAULT_STOPCAUSE a)) := by
  have hlt : fld d (Reg.AX_FAULT_STOPCAUSE a) < 16 := bitsOf_lt _ 8 4
  unfold endStop
  extract_lets c
  refine ⟨fun h => ?_, fun h => ?_⟩
  · rw [if_pos (show c = causeHost from h)]
    exact axState_axFld d a 1
  · rw [if_neg (show ¬ c = causeHost from h)]
    obtain ⟨hst, hcause, -⟩ := enterFaulted_spec d a c
    exact ⟨hst, hcause.trans (Nat.mod_eq_of_lt hlt)⟩

/-- The stop of axis `a` ends. -/
def stopDone (d : Die) (a : Nat) : Die := updAx (endStop d a) a fun h => { h with out := axOut0 }

/-- STOP_END of axis `a` (R121). -/
def stopEndOf (a : Nat) (d : Die) : Die :=
  if axDecl d a && axState d a == 3 && d.tb.phase == 2 && stopOver d a then stopDone d a else d

theorem ends_stopEnd {s : State} {a : Fin 128} (hdecl : axDecl s.die a.val = true) (hst : axState s.die a.val = 3)
    (hphase : s.die.tb.phase = 2) (hover : stopOver s.die a.val = true) (hlater : noneLater s 6 s.die.tb.cyc) :
    ends (.stopEnd a) s fun t =>
      (fld s.die (Reg.AX_FAULT_STOPCAUSE a.val) = 0xC → axState t.die a.val = 1) ∧
      (fld s.die (Reg.AX_FAULT_STOPCAUSE a.val) ≠ 0xC → axState t.die a.val = 4 ∧
        fld t.die (Reg.AX_FAULT_CAUSE a.val) = fld s.die (Reg.AX_FAULT_STOPCAUSE a.val)) ∧
      (axH t.die a.val).out = axOut0 ∧ ∀ b, b ≠ a.val → axH t.die b = axH s.die b := by
  refine ends_of_onDie (f := bySupervisor (stopEndOf a.val)) rfl ?_
  have hdue : stopEndOf a.val (found s) = stopDone (found s) a.val := if_pos (by
    show (axDecl s.die a.val && axState s.die a.val == 3 && s.die.tb.phase == 2 && stopOver s.die a.val) = true
    simp [hdecl, hst, hphase, hover])
  unfold bySupervisor
  rw [hdue]
  have hcyc : (stopDone (found s) a.val).tb.cyc = s.die.tb.cyc := congrArg (·.cyc) (keeps_endStop (found s) a.val .tb (by simp))
  have hreg : ∀ off, getReg (axSettle 6 (stopDone (found s) a.val).tb.cyc (found s) (stopDone (found s) a.val)) off =
      getReg (endStop (found s) a.val) off := fun off => by
    rw [hcyc]
    exact getReg_axSettle_free hlater _ off
  have hax : ∀ b, axH (axSettle 6 (stopDone (found s) a.val).tb.cyc (found s) (stopDone (found s) a.val)) b =
      axH (stopDone (found s) a.val) b := axH_axSettle _ _ _ _
  generalize axSettle 6 (stopDone (found s) a.val).tb.cyc (found s) (stopDone (found s) a.val) = e at hreg hax
  obtain ⟨hhost, hother⟩ := endStop_spec (found s) a.val
  have hstate : axState (irqSettle s.die e) a.val = axState (endStop (found s) a.val) a.val :=
    (fld_irqSettle _ _ _).trans (fld_congr (hreg _))
  have hcause : fld (irqSettle s.die e) (Reg.AX_FAULT_CAUSE a.val) = fld (endStop (found s) a.val) (Reg.AX_FAULT_CAUSE a.val) :=
    (fld_irqSettle _ _ _).trans (fld_congr (hreg _))
  refine ⟨fun h => hstate.trans (hhost h), fun h => ⟨hstate.trans (hother h).1, hcause.trans (hother h).2⟩, ?_, fun b hb => ?_⟩
  · show (axH (irqSettle s.die e) a.val).out = _
    rw [axH_irqSettle, hax, stopDone, axH_updAx_same]
  · show axH (irqSettle s.die e) b = _
    rw [axH_irqSettle, hax, stopDone, axH_updAx_ne _ _ hb, axH,
      keeps_endStop (found s) a.val .axes (by simp)]
    rfl

/-- Settles O14: the levels end in the timebase, and a stop by the row of its cause. -/
theorem sheddingAndStopEnds : Obligations.SheddingAndStopEnds := by
  unfold Obligations.SheddingAndStopEnds
  refine ⟨fun s b hrun hphase hend hb => ?_, fun s b hrun hphase hend hb => ?_, fun s a => ends_stopEnd⟩
  · exact ends.imp (ends_shedSuspensionEnd (P := fun tb => tb.endA = none ∧ tb.k = s.die.tb.k) hrun hphase (by simp [hend, hb])
      ⟨(endShed_tb (d := found s) hb).2.1 hend, rfl⟩) fun t ⟨⟨he, hk⟩, hdog⟩ => ⟨he, hk, hdog⟩
  · exact ends.imp (ends_shedSuspensionEnd (P := fun tb => tb.endB = none ∧ tb.k = s.die.tb.k) hrun hphase (by simp [hend, hb])
      ⟨(endShed_tb (d := found s) hb).2.2 hend, rfl⟩) fun t ⟨⟨he, hk⟩, hdog⟩ => ⟨he, hk, hdog⟩

end Sys2Proof.Machine
end

section
/-! PROOFS. The steps of the output phase (R41, R45 to R47, R123, R162): what each leaves of the axes and of the shedding. -/

namespace Sys2Proof.Machine

open Sys2Proof

/-! What of an axis, and of the shedding, a step leaves. -/

/-- What the output of axis `a` depends on stands. -/
structure AxisKept (a : Nat) (c d : Die) : Prop where
  cfg : getReg d (Reg.AX_CFG a) = getReg c (Reg.AX_CFG a)
  count : getReg d (Reg.AX_CNT_STALE a) = getReg c (Reg.AX_CNT_STALE a)
  stale : flag d (Reg.AX_STAT_STALE a) = flag c (Reg.AX_STAT_STALE a)
  state : axState d a = axState c a
  inSlot : (axH d a).inSlot = (axH c a).inSlot
  fresh : (axH d a).fresh = (axH c a).fresh
  out : (axH d a).out = (axH c a).out

theorem AxisKept.refl (a : Nat) (d : Die) : AxisKept a d d := ⟨rfl, rfl, rfl, rfl, rfl, rfl, rfl⟩

theorem AxisKept.trans {a : Nat} {c d e : Die} (h : AxisKept a c d) (h' : AxisKept a d e) : AxisKept a c e :=
  ⟨h'.cfg.trans h.cfg, h'.count.trans h.count, h'.stale.trans h.stale, h'.state.trans h.state, h'.inSlot.trans h.inSlot,
    h'.fresh.trans h.fresh, h'.out.trans h.out⟩

/-- What is shown of the shedding stands, and so do its ends and the time. -/
structure ShedKept (c d : Die) : Prop where
  shedA : flag d Reg.BEAT_STAT_SHED_A = flag c Reg.BEAT_STAT_SHED_A
  shedB : flag d Reg.BEAT_STAT_SHED_B = flag c Reg.BEAT_STAT_SHED_B
  left : getReg d Reg.BEAT_SHED = getReg c Reg.BEAT_SHED
  endA : d.tb.endA = c.tb.endA
  endB : d.tb.endB = c.tb.endB

theorem ShedKept.refl (d : Die) : ShedKept d d := ⟨rfl, rfl, rfl, rfl, rfl⟩

theorem ShedKept.trans {c d e : Die} (h : ShedKept c d) (h' : ShedKept d e) : ShedKept c e :=
  ⟨h'.shedA.trans h.shedA, h'.shedB.trans h.shedB, h'.left.trans h.left, h'.endA.trans h.endA, h'.endB.trans h.endB⟩

theorem ShedKept.foldl {β : Type} {f : Die → β → Die} {l : List β} (h : ∀ d x, ShedKept d (f d x)) (d : Die) : ShedKept d (l.foldl f d) := by
  induction l generalizing d with
  | nil => exact .refl d
  | cons x l ih => exact (h d x).trans (ih _)

theorem AxisKept.foldl {β : Type} {a : Nat} {f : Die → β → Die} {l : List β} (h : ∀ d x, AxisKept a d (f d x)) (d : Die) :
    AxisKept a d (l.foldl f d) := by
  induction l generalizing d with
  | nil => exact .refl a d
  | cons x l ih => exact (h d x).trans (ih _)

/-- A register that the outputs of the axes do not depend on, whichever axis it belongs to. -/
def sideReg (off : Nat) : Prop := ∀ a, off ≠ Reg.AX_CFG a ∧ off ≠ Reg.AX_CNT_STALE a ∧ off ≠ Reg.AX_STAT a

theorem sideReg_of_lt {off : Nat} (h : off < 0x20000) : sideReg off := fun a => by
  simp only [Reg.AX_CFG, Reg.AX_CNT_STALE, Reg.AX_STAT]
  omega

theorem AxisKept.of_leaves {a : Nat} {c d : Die} (h : Leaves sideReg c d)
    (hax : (axH d a).inSlot = (axH c a).inSlot ∧ (axH d a).fresh = (axH c a).fresh ∧ (axH d a).out = (axH c a).out) : AxisKept a c d := by
  obtain ⟨hin, hfresh, hout⟩ := hax
  have hcfg : getReg d (Reg.AX_CFG a) = getReg c (Reg.AX_CFG a) := h _ fun hs => (hs a).1 rfl
  have hcnt : getReg d (Reg.AX_CNT_STALE a) = getReg c (Reg.AX_CNT_STALE a) := h _ fun hs => (hs a).2.1 rfl
  have hstat : getReg d (Reg.AX_STAT a) = getReg c (Reg.AX_STAT a) := h _ fun hs => (hs a).2.2 rfl
  exact ⟨hcfg, hcnt, flag_congr (f := Reg.AX_STAT_STALE a) hstat, fld_congr (f := Reg.AX_STAT_STATE a) hstat, hin, hfresh, hout⟩

theorem axH_of_axes {c d : Die} (h : d.axes = c.axes) (a : Nat) : axH d a = axH c a := by rw [axH, h, axH]

theorem AxisKept.of_axes {a : Nat} {c d : Die} (h : Leaves sideReg c d) (hax : d.axes = c.axes) : AxisKept a c d :=
  .of_leaves h (by rw [axH_of_axes hax]; exact ⟨rfl, rfl, rfl⟩)

/-- A step on the marks of an axis that its output does not depend on. -/
theorem AxisKept.updAx {a : Nat} (d : Die) (b : Nat) (f : AxisHid → AxisHid)
    (hf : ∀ h, (f h).inSlot = h.inSlot ∧ (f h).fresh = h.fresh ∧ (f h).out = h.out) : AxisKept a d (updAx d b f) := by
  refine .of_leaves (.of_regs rfl) ?_
  by_cases hb : a = b
  · subst hb
    rw [axH_updAx_same]
    exact hf _
  · rw [axH_updAx_ne _ _ hb]
    exact ⟨rfl, rfl, rfl⟩

/-- A step on the marks of another axis. -/
theorem AxisKept.updAx_ne {a b : Nat} (d : Die) (h : b ≠ a) (f : AxisHid → AxisHid) : AxisKept a d (Machine.updAx d b f) := by
  refine .of_leaves (.of_regs rfl) ?_
  rw [axH_updAx_ne _ _ h.symm]
  exact ⟨rfl, rfl, rfl⟩

theorem ShedKept.of_leaves {c d : Die} (h : Leaves (fun off => off ≠ Reg.BEAT_STAT ∧ off ≠ Reg.BEAT_SHED) c d) (htb : d.tb = c.tb) :
    ShedKept c d := by
  have hstat : getReg d Reg.BEAT_STAT = getReg c Reg.BEAT_STAT := h _ fun hs => hs.1 rfl
  exact ⟨flag_congr (f := Reg.BEAT_STAT_SHED_A) hstat, flag_congr (f := Reg.BEAT_STAT_SHED_B) hstat, h _ fun hs => hs.2 rfl,
    congrArg (·.endA) htb, congrArg (·.endB) htb⟩

theorem ShedKept.updAx (d : Die) (b : Nat) (f : AxisHid → AxisHid) : ShedKept d (Machine.updAx d b f) := .of_leaves (.of_regs rfl) rfl

theorem Calm.axis {c d : Die} (h : Calm c d) (a : Nat) : AxisKept a c d :=
  .of_axes (h.regs.mono fun _ ho => sideReg_of_lt ho.1) h.axes

theorem Calm.shed {c d : Die} (h : Calm c d) : ShedKept c d := .of_leaves (h.regs.mono fun _ ho => ho.2) h.tb

/-- Another flag of BEAT_STAT is set. -/
theorem ShedKept.setFlag (d : Die) {f : Fld} (hoff : f.off = Reg.BEAT_STAT) (hlo : f.lo + f.w ≤ 8 ∨ 10 ≤ f.lo) (hw : f.lo + f.w ≤ 32) :
    ShedKept d (Machine.setFlag d f) :=
  have h : ∀ lo, 8 ≤ lo → lo + 1 ≤ 10 → fld (setFld d f 1) ⟨Reg.BEAT_STAT, lo, 1⟩ = fld d ⟨Reg.BEAT_STAT, lo, 1⟩ := fun lo h8 h10 => by
    obtain hlo | hlo := hlo
    · exact fld_setFld_above d ⟨Reg.BEAT_STAT, lo, 1⟩ f 1 hoff.symm (show f.lo + f.w ≤ lo by omega) hw
    · exact fld_setFld_below d ⟨Reg.BEAT_STAT, lo, 1⟩ f 1 hoff.symm (show lo + 1 ≤ f.lo by omega) hw
  ⟨congrArg (· == 1) (h 8 (by decide) (by decide)), congrArg (· == 1) (h 9 (by decide) (by decide)),
    getReg_setFlag_ne d f (by rw [hoff]; decide), rfl, rfl⟩

theorem AxisKept.setFld {a : Nat} (d : Die) {f : Fld} (h : f.off < 0x20000) (v : Nat) : AxisKept a d (Machine.setFld d f v) :=
  .of_axes ((leaves_setFld _ _ (sideReg_of_lt h) v).2 (.refl _ d)) rfl

theorem AxisKept.setFlag {a : Nat} (d : Die) {f : Fld} (h : f.off < 0x20000) : AxisKept a d (Machine.setFlag d f) := .setFld d h 1

/-! Aborts at the output phase (R162). -/

/-- The aborts of the output phase may set the flags of a capture channel; they reach no field of an axis that the phase reads. -/
structure Struck (c d : Die) : Prop where
  regs : ∀ off, 0x20000 ≤ off → off % 0x80 ≠ 4 → off % 0x80 ≠ 0x5C → getReg d off = getReg c off
  stat : ∀ a lo w, lo + w ≤ 5 ∨ 6 ≤ lo → fld d ⟨Reg.AX_STAT a, lo, w⟩ = fld c ⟨Reg.AX_STAT a, lo, w⟩
  axes : d.axes = c.axes
  tb : d.tb = c.tb

theorem Struck.refl (d : Die) : Struck d d := ⟨fun _ _ _ _ => rfl, fun _ _ _ _ => rfl, rfl, rfl⟩

theorem Struck.trans {c d e : Die} (h : Struck c d) (h' : Struck d e) : Struck c e :=
  ⟨fun off h1 h2 h3 => (h'.regs off h1 h2 h3).trans (h.regs off h1 h2 h3),
    fun a lo w hb => (h'.stat a lo w hb).trans (h.stat a lo w hb), h'.axes.trans h.axes, h'.tb.trans h.tb⟩

theorem Struck.foldl {β : Type} {f : Die → β → Die} {l : List β} (h : ∀ d, ∀ x ∈ l, Struck d (f d x)) (d : Die) :
    Struck d (l.foldl f d) := by
  induction l generalizing d with
  | nil => exact .refl d
  | cons x l ih => exact (h d x (by simp)).trans (ih (fun d y hy => h d y (by simp [hy])) (f d x))

theorem Struck.ite {p : Prop} [Decidable p] {c x y : Die} (hx : Struck c x) (hy : Struck c y) : Struck c (if p then x else y) := by
  split <;> assumption

/-- A step that writes below the axes, or words of no axis that the phase reads. -/
theorem Struck.of_leaves {c d : Die} (h : Leaves (fun off => off < 0x20000 ∨ off % 0x80 = 0x5C) c d) (hax : d.axes = c.axes)
    (htb : d.tb = c.tb) : Struck c d :=
  ⟨fun off h1 _ h3 => h off (by omega),
    fun a lo w _ => fld_congr (f := ⟨Reg.AX_STAT a, lo, w⟩) (h _ (by simp only [Reg.AX_STAT]; omega)), hax, htb⟩

theorem Calm.struck {c d : Die} (h : Calm c d) : Struck c d := .of_leaves (h.regs.mono fun _ ho => .inl ho.1) h.axes h.tb

theorem struck_faultEnd (d : Die) (c : Nat) : Struck d (setFlag d (Reg.CAP_CH_STAT_FAULTEND c)) := by
  have hoff : (Reg.CAP_CH_STAT_FAULTEND c).off = 0xF104 + c * 0x80 := rfl
  refine ⟨fun off _ h4 _ => getReg_setFlag_ne d _ (by rw [hoff]; omega), fun a lo w hb => ?_, rfl, rfl⟩
  by_cases he : Reg.AX_STAT a = (Reg.CAP_CH_STAT_FAULTEND c).off
  · obtain hb | hb := hb
    · exact fld_setFld_below d ⟨Reg.AX_STAT a, lo, w⟩ (Reg.CAP_CH_STAT_FAULTEND c) 1 he hb (show 5 + 1 ≤ 32 by decide)
    · exact fld_setFld_above d ⟨Reg.AX_STAT a, lo, w⟩ (Reg.CAP_CH_STAT_FAULTEND c) 1 he hb (show 5 + 1 ≤ 32 by decide)
  · exact fld_congr (f := ⟨Reg.AX_STAT a, lo, w⟩) (getReg_setFlag_ne d _ he)

theorem struck_releaseSeq (d : Die) (c seq : Nat) : Struck d (releaseSeq d c seq) := by
  have hoff : (Reg.CAP_CH_FREESEQ_SEQ c).off % 0x80 = 0x5C := by
    show (0xF15C + c * 0x80) % 0x80 = 0x5C
    omega
  unfold releaseSeq
  extract_lets d1
  have h1 : Struck d d1 := .of_leaves (.of_regs rfl) rfl rfl
  clear_value d1
  refine h1.trans (Struck.foldl (fun e _ _ => ?_) d1)
  extract_lets f
  refine .ite ?_ (.refl e)
  exact .of_leaves ((leaves_setFld (p := fun off => off < 0x20000 ∨ off % 0x80 = 0x5C) e e (.inr hoff) _).2 (.refl _ e)) rfl rfl

theorem struck_instEnd (d : Die) (t : Task) (cause : Nat) : Struck d (instEnd d t cause) := by
  unfold instEnd
  extract_lets d0 c d1
  have h0 : Struck d d0 := .ite (.of_leaves (.of_regs rfl) rfl rfl) (.refl d)
  clear_value d0
  have hdone : ∀ st r0 r1, Struck d0 (complete d0 t.arg st r0 r1) := fun st r0 r1 => by
    have hk : Keeps [.host] d0 (complete d0 t.arg st r0 r1) := (keeps_complete _ _ (by simp) ..).2 (.refl _ d0)
    exact .of_leaves ((leaves_complete _ _ ..).2 (.refl _ d0)) (hk .axes (by simp)) (hk .tb (by simp))
  have h1 : Struck d0 d1 := .ite (.refl d0) (struck_faultEnd d0 c)
  clear_value d1
  refine h0.trans (.ite (.ite (hdone ..) (hdone ..)) (.ite (.ite (h1.trans (struck_releaseSeq d1 c _)) h1) (.refl d0)))

theorem struck_ophKill (d : Die) : Struck d (ophKill d).1 := by
  unfold ophKill
  extract_lets met onEng ready evts aborts aborted d1 d2 d3 d4 d5 d6 d7
  have hmet : ∀ e ∈ met, e < 16 := fun e he => mem_upto.1 (List.mem_filter.1 he).1
  have hab : ∀ e ∈ aborts, e < 16 := fun e he => by
    obtain ⟨x, hx, rfl⟩ := List.mem_map.1 he
    obtain ⟨y, hy, rfl⟩ := List.mem_map.1 (List.mem_filter.1 hx).1
    exact lt_of_mem_engineTasks (List.mem_filter.1 hy).1
  clear_value met onEng ready evts aborts aborted
  have h1 : Struck d d1 := .foldl (fun e x hx => (calm_undoSwap e (hmet x hx) _).struck) d
  clear_value d1
  have h2 : Struck d1 d2 := .foldl (fun e x _ => struck_instEnd e _ _) d1
  clear_value d2
  have h3 : Struck d2 d3 := .foldl (fun e x _ => struck_instEnd e _ _) d2
  clear_value d3
  have h4 : Struck d3 d4 := .foldl (fun e x _ => (calm_updEng e _ _).struck) d3
  clear_value d4
  have h5 : Struck d4 d5 := .foldl (fun e x _ => (calm_updKnl e _).struck) d4
  clear_value d5
  have h6 : Struck d5 d6 := .foldl (fun e x hx =>
    ((calm_swapBusy e (hab x hx) 2).trans (calm_incReg _ (plainReg_cyc (hab x hx)).2.2)).struck) d5
  clear_value d6
  have h7 : Struck d6 d7 := .foldl (fun e x _ => (calm_incReg e plainReg_counts.2.2.1).struck) d6
  exact ((((((h1.trans h2).trans h3).trans h4).trans h5).trans h6).trans h7)

theorem Struck.axis {c d : Die} (h : Struck c d) (a : Nat) : AxisKept a c d := by
  have hax := axH_of_axes h.axes a
  refine ⟨h.regs _ ?_ ?_ ?_, h.regs _ ?_ ?_ ?_, congrArg (· == 1) (h.stat a 11 1 (.inr (by decide))), h.stat a 0 3 (.inl (by decide)),
    by rw [hax], by rw [hax], by rw [hax]⟩
  all_goals
    simp only [Reg.AX_CFG, Reg.AX_CNT_STALE]
    omega

/-! The evaluation of an axis (R123). -/

/-- A word of axis `b` that its evaluation may write, or a plain register. -/
def rowReg (b off : Nat) : Prop :=
  plainReg off ∨ 0x20000 + b * 0x400 ≤ off ∧ off < 0x20400 + b * 0x400 ∧ off ≠ Reg.AX_CFG b ∧ off ≠ Reg.AX_CNT_STALE b

/-- What the evaluation of axis `b` leaves. -/
structure RowKept (b : Nat) (c d : Die) : Prop where
  regs : Leaves (rowReg b) c d
  stale : flag d (Reg.AX_STAT_STALE b) = flag c (Reg.AX_STAT_STALE b)
  marks : ∀ a, (axH d a).inSlot = (axH c a).inSlot ∧ (axH d a).fresh = (axH c a).fresh ∧ (axH d a).out = (axH c a).out
  tb : d.tb = c.tb

section Row

variable {a : Nat} (d : Die)

theorem RowKept.refl : RowKept a d d := ⟨.refl _ d, rfl, fun _ => ⟨rfl, rfl, rfl⟩, rfl⟩

variable {d}

theorem RowKept.trans {c e : Die} (h : RowKept a c d) (h' : RowKept a d e) : RowKept a c e :=
  ⟨h.regs.trans h'.regs, h'.stale.trans h.stale, fun b =>
    ⟨(h'.marks b).1.trans (h.marks b).1, (h'.marks b).2.1.trans (h.marks b).2.1, (h'.marks b).2.2.trans (h.marks b).2.2⟩,
    h'.tb.trans h.tb⟩

theorem RowKept.ite {p : Prop} [Decidable p] {c x y : Die} (hx : RowKept a c x) (hy : RowKept a c y) : RowKept a c (if p then x else y) := by
  split <;> assumption

theorem RowKept.of_keeps {c : Die} (h : Leaves (fun off => rowReg a off ∧ off ≠ Reg.AX_STAT a) c d)
    (hk : Keeps [.regs, .held, .axLog, .lgb] c d) : RowKept a c d :=
  ⟨h.mono fun _ ho => ho.1, flag_congr (f := Reg.AX_STAT_STALE a) (h _ fun ho => ho.2 rfl),
    fun b => by rw [axH_of_axes (hk .axes (by simp))]; exact ⟨rfl, rfl, rfl⟩, hk .tb (by simp)⟩

/-- A word of the axis other than its status, its configuration and its STALE counter. -/
theorem rowReg_of_block {off : Nat} (hlo : 0x20010 + a * 0x400 ≤ off) (hhi : off < 0x20388 + a * 0x400 ∨ 0x2038C + a * 0x400 ≤ off ∧
    off < 0x20400 + a * 0x400) : rowReg a off ∧ off ≠ Reg.AX_STAT a := by
  simp only [rowReg, Reg.AX_CFG, Reg.AX_CNT_STALE, Reg.AX_STAT]
  omega

theorem rowReg_words : (rowReg a (Reg.AX_CTL a) ∧ Reg.AX_CTL a ≠ Reg.AX_STAT a) ∧ (rowReg a (Reg.AX_FAULT a) ∧ Reg.AX_FAULT a ≠ Reg.AX_STAT a) := by
  simp only [rowReg, Reg.AX_CFG, Reg.AX_CNT_STALE, Reg.AX_STAT, Reg.AX_CTL, Reg.AX_FAULT]
  omega

variable (d)

theorem row_axFld {f : Fld} (h : rowReg a f.off ∧ f.off ≠ Reg.AX_STAT a) (v : Nat) : RowKept a d (axFld d f v) :=
  .of_keeps ((leaves_axFld (p := fun off => rowReg a off ∧ off ≠ Reg.AX_STAT a) d d h v).2 (.refl _ d))
    ((keeps_axFld _ _ (by simp) (by simp) f v).2 (.refl _ d))

theorem row_stat {f : Fld} (hoff : f.off = Reg.AX_STAT a) (hf : f.lo + f.w ≤ 11 ∨ 12 ≤ f.lo ∧ f.lo + f.w ≤ 32) (v : Nat) :
    RowKept a d (axFld d f v) := by
  have hrow : rowReg a f.off := by
    rw [hoff]
    simp only [rowReg, Reg.AX_STAT, Reg.AX_CFG, Reg.AX_CNT_STALE]
    omega
  have hk : Keeps [.regs, .axLog] d (axFld d f v) := (keeps_axFld _ _ (by simp) (by simp) f v).2 (.refl _ d)
  have hm : getReg (axMark d f.off (2 ^ f.lo * (2 ^ f.w - 1))) (Reg.AX_STAT a) = getReg d (Reg.AX_STAT a) := getReg_axMark _ _ _ _
  refine ⟨(leaves_axFld (p := rowReg a) d d hrow v).2 (.refl _ d), ?_,
    fun b => by rw [axH_of_axes (hk .axes (by simp))]; exact ⟨rfl, rfl, rfl⟩, hk .tb (by simp)⟩
  refine congrArg (· == 1) (Eq.trans ?_ (fld_congr (f := Reg.AX_STAT_STALE a) hm))
  obtain hf | hf := hf
  · exact fld_setFld_above _ (Reg.AX_STAT_STALE a) f v hoff.symm hf (by omega)
  · exact fld_setFld_below _ (Reg.AX_STAT_STALE a) f v hoff.symm hf.1 hf.2

theorem row_state (v : Nat) : RowKept a d (axFld d (Reg.AX_STAT_STATE a) v) := row_stat d rfl (.inl (show 0 + 3 ≤ 11 by decide)) v

theorem row_clearReq : RowKept a d (clearReq d a) :=
  .of_keeps ((leaves_clearReq (p := fun off => rowReg a off ∧ off ≠ Reg.AX_STAT a) d d a rowReg_words.1).2 (.refl _ d))
    ((keeps_clearReq d a).mono (by simp))

theorem row_fault (f : Fld) (hf : f.off = Reg.AX_FAULT a) (v : Nat) : RowKept a d (axFld d f v) :=
  row_axFld d (by rw [hf]; exact rowReg_words.2) v

theorem row_logged {x : Die} (h : RowKept a d x) (src code sev p0 p1 p2 b : Nat) :
    RowKept a d (irqSet (logEvt x src code sev p0 p1 p2) b) := by
  obtain ⟨-, -, -, -, -, -, hcnt, hstat, hirq⟩ := plainReg_counts
  have hlow : ∀ off, plainReg off → rowReg a off ∧ off ≠ Reg.AX_STAT a := fun off ho => ⟨.inl ho, by
    have := ho.1
    simp only [Reg.AX_STAT]
    omega⟩
  refine h.trans (.of_keeps ?_ ?_)
  · rw [leaves_irqSet (p := fun off => rowReg a off ∧ off ≠ Reg.AX_STAT a) _ _ (hlow _ hirq),
      leaves_logEvt (p := fun off => rowReg a off ∧ off ≠ Reg.AX_STAT a) _ _ (hlow _ hcnt) (hlow _ hstat)]
    exact .refl _ x
  · rw [keeps_irqSet _ _ (by simp), keeps_logEvt _ _ (by simp) (by simp)]
    exact .refl _ x

theorem row_enterFaulted (cause : Nat) : RowKept a d (enterFaulted d a cause) := by
  unfold enterFaulted
  extract_lets d'
  exact row_logged d (((row_state d 4).trans (row_fault _ (Reg.AX_FAULT_CAUSE a) rfl cause)).trans (row_clearReq _)) ..

theorem row_endStop : RowKept a d (endStop d a) := by
  unfold endStop
  extract_lets c
  exact .ite (row_state d 1) (row_enterFaulted d c)

theorem stageRegs_row {off : Nat} (h : stageRegs a off) : rowReg a off ∧ off ≠ Reg.AX_STAT a := by
  obtain ⟨j, hj, rfl⟩ := h
  refine rowReg_of_block ?_ (.inr ?_) <;> simp only [Reg.AX_STAGE] <;> omega

theorem keeps_putStage (d : Die) (a : Nat) : Keeps [.regs, .held, .axLog] d (putStage d a) := by
  unfold putStage
  exact Keeps.foldl (fun d j => (keeps_hwPut _ _ (by simp) (by simp) (by simp) _ _).2 (.refl _ d)) _ d

theorem RowKept.marked (b : Nat) (f : AxisHid → AxisHid)
    (hf : ∀ h, (f h).inSlot = h.inSlot ∧ (f h).fresh = h.fresh ∧ (f h).out = h.out) : RowKept a d (Machine.updAx d b f) := by
  refine ⟨.of_regs rfl, rfl, fun c => ?_, rfl⟩
  have h := AxisKept.updAx (a := c) d b f hf
  exact ⟨h.inSlot, h.fresh, h.out⟩

theorem row_cleanAxis : RowKept a d (cleanAxis d a) := by
  have h1 : RowKept a d (updStg d a cleanStage) := RowKept.marked d a _ fun _ => ⟨rfl, rfl, rfl⟩
  have hl : Leaves (stageRegs a) (updStg d a cleanStage) (putStage (updStg d a cleanStage) a) := leaves_cleanAxis d a
  exact h1.trans (.of_keeps (hl.mono fun _ => stageRegs_row) ((keeps_putStage _ a).mono (by simp)))

theorem row_enterStopping (cause : Nat) : RowKept a d (enterStopping d a cause) := by
  unfold enterStopping
  extract_lets d1 d2 d3
  have h1 : RowKept a d d1 := (row_state d 3).trans (row_fault _ (Reg.AX_FAULT_STOPCAUSE a) rfl cause)
  clear_value d1
  have h2 : RowKept a d d2 := .ite h1 (h1.trans (row_clearReq d1))
  clear_value d2
  have h3 : RowKept a d d3 := h2.trans (RowKept.marked d2 a _ fun _ => ⟨rfl, rfl, rfl⟩)
  clear_value d3
  exact .ite (h3.trans (row_cleanAxis d3)) h3

theorem row_hwPut {off : Nat} (h : rowReg a off ∧ off ≠ Reg.AX_STAT a) (w : Word) : RowKept a d (hwPut d off w) :=
  .of_keeps ((leaves_hwPut (p := fun off => rowReg a off ∧ off ≠ Reg.AX_STAT a) d d h w).2 (.refl _ d))
    ((keeps_hwPut _ _ (by simp) (by simp) (by simp) _ _).2 (.refl _ d))

theorem row_hwPut64 {off : Nat} (h : rowReg a off ∧ off ≠ Reg.AX_STAT a) (h4 : rowReg a (off + 4) ∧ off + 4 ≠ Reg.AX_STAT a) (x : Int) :
    RowKept a d (hwPut64 d off x) := (row_hwPut d h _).trans (row_hwPut _ h4 _)

theorem row_slot {j : Nat} (hj : j < 2) (w : Word) : RowKept a d
    (hwPut (hwPut64 (hwPut64 d (Reg.AX_RS_VCMD a j) 0) (Reg.AX_RS_VSLOPE a j) 0) (Reg.AX_RS_TAG a j) w) := by
  refine ((row_hwPut64 d (rowReg_of_block ?_ (.inl ?_)) (rowReg_of_block ?_ (.inl ?_)) 0).trans
    (row_hwPut64 _ (rowReg_of_block ?_ (.inl ?_)) (rowReg_of_block ?_ (.inl ?_)) 0)).trans (row_hwPut _ (rowReg_of_block ?_ (.inl ?_)) w)
  all_goals
    simp only [Reg.AX_RS_VCMD, Reg.AX_RS_VSLOPE, Reg.AX_RS_TAG]
    omega

theorem row_enterEnabled : RowKept a d (enterEnabled d a) := by
  unfold enterEnabled
  extract_lets d1 d2 d3 d4
  have h1 : RowKept a d d1 := row_state d 2
  clear_value d1
  have h2 : RowKept a d1 d2 := row_cleanAxis d1
  clear_value d2
  have h3 : RowKept a d2 d3 := by
    refine row_hwPut64 d2 (rowReg_of_block ?_ (.inl ?_)) (rowReg_of_block ?_ (.inl ?_)) _ <;> simp only [Reg.AX_PTGT] <;> omega
  clear_value d3
  have h4 : RowKept a d3 d4 := by
    refine row_axFld d3 (rowReg_of_block ?_ (.inl ?_)) 0 <;> simp only [Reg.AX_PSEL_SEL, Reg.AX_PSEL] <;> omega
  clear_value d4
  exact (((h1.trans h2).trans h3).trans h4).trans ((row_slot d4 (j := 0) (by decide) _).trans (row_slot _ (j := 1) (by decide) _))

theorem row_evalRow : RowKept a d (evalRow d a) := by
  unfold evalRow
  extract_lets h st active d'
  have hd' : RowKept a d d' := .ite (row_fault d (Reg.AX_FAULT_CAUSE a) rfl 7) (.refl d)
  clear_value d'
  refine .ite ((hd'.trans (row_state d' 0)).trans (row_clearReq _)) (.ite (row_enterFaulted d _) (.ite (row_enterFaulted d _)
    (.ite (row_enterFaulted d _) (.ite (row_enterFaulted d _) (.ite (.ite (row_endStop d) (.refl d)) (.ite ?_ (.ite
    (.ite (row_enterEnabled d) (.refl d)) (.ite (.ite (.refl d) (.ite (row_state d 1) ?_)) (.ite ?_ (.refl d))))))))))
  · split
    · exact row_enterStopping d _
    · exact .refl d
  · refine (row_stat d (f := Reg.AX_STAT_CLRREJ a) rfl (.inr (show 12 ≤ 13 ∧ 13 + 1 ≤ 32 by decide)) 1).trans (.of_keeps ?_ ?_)
    · refine (leaves_axCount (p := fun off => rowReg a off ∧ off ≠ Reg.AX_STAT a) _ _ (rowReg_of_block ?_ (.inr ?_))).2 (.refl _ _) <;>
        simp only [Reg.AX_CNT_CLRREJ] <;> omega
    · exact (keeps_axCount _ _ (by simp) (by simp) _).2 (.refl _ _)
  · exact (row_state d 1).trans (row_clearReq _)

theorem row_evalAxis : RowKept a d (evalAxis d a) := by
  rw [evalAxis_eq]
  exact (row_evalRow d).trans (RowKept.marked _ a _ fun _ => ⟨rfl, rfl, rfl⟩)

end Row

/-- The evaluation of another axis. -/
theorem RowKept.axis {a b : Nat} {c d : Die} (h : RowKept b c d) (hab : b ≠ a) : AxisKept a c d := by
  have hout : ∀ off, 0x20000 + a * 0x400 ≤ off → off < 0x20400 + a * 0x400 → getReg d off = getReg c off := fun off hlo hhi =>
    h.regs off fun hr => by
      simp only [rowReg, plainReg] at hr
      omega
  have hstat : getReg d (Reg.AX_STAT a) = getReg c (Reg.AX_STAT a) := hout _ (by simp only [Reg.AX_STAT]; omega) (by simp only [Reg.AX_STAT]; omega)
  obtain ⟨hin, hfresh, hlatch⟩ := h.marks a
  refine ⟨hout _ ?_ ?_, hout _ ?_ ?_, flag_congr (f := Reg.AX_STAT_STALE a) hstat, fld_congr (f := Reg.AX_STAT_STATE a) hstat,
    hin, hfresh, hlatch⟩ <;> simp only [Reg.AX_CFG, Reg.AX_CNT_STALE] <;> omega

theorem RowKept.shed {b : Nat} {c d : Die} (h : RowKept b c d) : ShedKept c d :=
  .of_leaves (h.regs.mono fun off hr => by
    simp only [rowReg, plainReg, Reg.BEAT_STAT, Reg.BEAT_SHED] at hr ⊢
    omega) h.tb

/-! The steps of the phase, in order. -/

section Phase

variable (d : Die) (a : Nat)

theorem axis_markOverrun : AxisKept a d (markOverrun d) := by
  unfold markOverrun
  extract_lets k d1
  have h1 : AxisKept a d d1 := by
    refine AxisKept.trans (d := incReg (setFlag d Reg.BEAT_STAT_OVR) Reg.BEAT_OVRCNT) ?_ ((calm_ppTrigger _ 1).axis a)
    exact .of_axes ((leaves_incReg _ _ (sideReg_of_lt (by decide))).2 ((leaves_setFlag _ _ (sideReg_of_lt (by decide))).2 (.refl _ d))) rfl
  clear_value d1
  split
  · exact h1.trans (.of_axes (.of_regs rfl) rfl)
  · exact .of_axes (.of_regs rfl) rfl

theorem tb_markOverrun : (markOverrun d).tb.gt = d.tb.gt ∧ (markOverrun d).tb.k = d.tb.k ∧ (markOverrun d).tb.cyc = d.tb.cyc := by
  unfold markOverrun
  extract_lets k d1
  have h1 : d1.tb = d.tb := (calm_ppTrigger _ 1).tb.trans ((tb_incReg _ _).trans (tb_setFlag _ _))
  clear_value d1
  split
  · exact ⟨congrArg (·.gt) h1, congrArg (·.k) h1, congrArg (·.cyc) h1⟩
  · exact ⟨rfl, rfl, rfl⟩

/-- An overrun is noted with its beat, before the earlier ones of the last 16 beats (R43, R45). -/
theorem markOverrun_of_overrun {d : Die} {a : Nat} (ha : a ∈ declAxes d) (h : overruns d a = true) :
    (markOverrun d).tb.ovrBeat = true ∧ (markOverrun d).tb.ovr = d.tb.k :: d.tb.ovr.filter fun b => d.tb.k ≤ b + 15 := by
  unfold markOverrun
  extract_lets k d1
  have h1 : d1.tb = d.tb := (calm_ppTrigger _ 1).tb.trans ((tb_incReg _ _).trans (tb_setFlag _ _))
  clear_value d1
  rw [if_pos (List.any_eq_true.2 ⟨a, ha, h⟩)]
  exact ⟨rfl, congrArg (fun t : Timebase => k :: t.ovr.filter fun b => k ≤ b + 15) h1⟩

/-- The words that the marking of axis `b` as STALE writes. -/
def staleReg (b off : Nat) : Prop := off = Reg.AX_STAT b ∨ off = Reg.AX_CNT_STALE b ∨ off < 0x20000

/-- The marks that STALE leaves. -/
def staleMarked (d : Die) (a : Nat) : Die :=
  incReg (setFlag (axCount (axEvent d (Reg.AX_STAT_STALE a)) (Reg.AX_CNT_STALE a)) Reg.BEAT_STAT_STALE) Reg.BEAT_STALECNT

theorem leaves_staleMarked : Leaves (staleReg a) d (staleMarked d a) := by
  unfold staleMarked
  rw [leaves_incReg (p := staleReg a) _ _ (.inr (.inr (by decide))), leaves_setFlag (p := staleReg a) _ _ (.inr (.inr (by decide))),
    leaves_axCount (p := staleReg a) _ _ (.inr (.inl rfl)), leaves_axEvent (p := staleReg a) (f := Reg.AX_STAT_STALE a) _ _ (.inl rfl)]
  exact .refl _ d

theorem keeps_staleMarked : Keeps [.regs, .axLog] d (staleMarked d a) := by
  unfold staleMarked
  rw [keeps_incReg _ _ (by simp), keeps_setFlag _ _ (by simp), keeps_axCount _ _ (by simp) (by simp), keeps_axEvent _ _ (by simp) (by simp)]
  exact .refl _ d

theorem markStale_eq : ∃ f : AxisHid → AxisHid,
    (∀ h, (f h).inSlot = h.inSlot ∧ (f h).fresh = h.fresh ∧ (f h).out = h.out) ∧
    markStale d a = updAx (if computing d a && !(axH d a).fresh then staleMarked d a else d) a f := by
  by_cases h : computing d a && !(axH d a).fresh
  · refine ⟨fun x => { x with stale := d.tb.k :: x.stale.filter fun b => d.tb.k < b + 64, staleRun := x.staleRun + 1 },
      fun _ => ⟨rfl, rfl, rfl⟩, ?_⟩
    rw [if_pos h, markStale, if_pos h]
    rfl
  · refine ⟨fun x => { x with stale := x.stale.filter fun b => d.tb.k < b + 64, staleRun := 0 }, fun _ => ⟨rfl, rfl, rfl⟩, ?_⟩
    rw [if_neg h, markStale, if_neg h]

theorem tb_markStale : (markStale d a).tb = d.tb := by
  obtain ⟨f, -, heq⟩ := markStale_eq d a
  rw [heq, tb_updAx]
  exact tb_ite (keeps_staleMarked d a .tb (by simp)) rfl

theorem axis_markStale_ne {b : Nat} (hab : b ≠ a) : AxisKept a d (markStale d b) := by
  obtain ⟨f, hf, heq⟩ := markStale_eq d b
  rw [heq]
  refine AxisKept.trans ?_ (AxisKept.updAx _ b f hf)
  split
  · have hl : ∀ off, off < 0x20400 + a * 0x400 → 0x20000 + a * 0x400 ≤ off → getReg (staleMarked d b) off = getReg d off := fun off hhi hlo =>
      leaves_staleMarked d b off fun hs => by
        simp only [staleReg, Reg.AX_STAT, Reg.AX_CNT_STALE] at hs
        omega
    have hstat : getReg (staleMarked d b) (Reg.AX_STAT a) = getReg d (Reg.AX_STAT a) :=
      hl _ (by simp only [Reg.AX_STAT]; omega) (by simp only [Reg.AX_STAT]; omega)
    have hax := axH_of_axes (keeps_staleMarked d b .axes (by simp)) a
    refine ⟨hl _ ?_ ?_, hl _ ?_ ?_, flag_congr (f := Reg.AX_STAT_STALE a) hstat, fld_congr (f := Reg.AX_STAT_STATE a) hstat,
      by rw [hax], by rw [hax], by rw [hax]⟩ <;> simp only [Reg.AX_CFG, Reg.AX_CNT_STALE] <;> omega
  · exact .refl a d

/-- The own marking leaves the state, the feedback and the output, and notes a missing output. -/
theorem markStale_spec : getReg (markStale d a) (Reg.AX_CFG a) = getReg d (Reg.AX_CFG a) ∧ axState (markStale d a) a = axState d a ∧
    (axH (markStale d a) a).inSlot = (axH d a).inSlot ∧ (axH (markStale d a) a).fresh = (axH d a).fresh ∧
    (axH (markStale d a) a).out = (axH d a).out ∧
    (computing d a = true → (axH d a).fresh = false → flag (markStale d a) (Reg.AX_STAT_STALE a) = true ∧
      getReg (markStale d a) (Reg.AX_CNT_STALE a) = BitVec.ofNat 32 (satInc 32 (getReg d (Reg.AX_CNT_STALE a)).toNat)) := by
  obtain ⟨f, hf, heq⟩ := markStale_eq d a
  rw [heq]
  have hm := AxisKept.updAx (a := a) (if computing d a && !(axH d a).fresh then staleMarked d a else d) a f hf
  rw [hm.cfg, hm.state, hm.inSlot, hm.fresh, hm.out, hm.stale, hm.count]
  have hmark := axH_of_axes (keeps_staleMarked d a .axes (by simp)) a
  have hstat : axState (staleMarked d a) a = axState d a := by
    have hl : Leaves (fun off => off = Reg.AX_CNT_STALE a ∨ off < 0x20000) (axEvent d (Reg.AX_STAT_STALE a)) (staleMarked d a) := by
      unfold staleMarked
      rw [leaves_incReg _ _ (.inr (by decide)), leaves_setFlag _ _ (.inr (by decide)), leaves_axCount _ _ (.inl rfl)]
      exact .refl _ _
    refine (fld_of_leaves hl (Reg.AX_STAT_STATE a) ?_).trans (fld_axFld_below d (Reg.AX_STAT_STATE a) (Reg.AX_STAT_STALE a) 1 rfl
      (show 0 + 3 ≤ 11 by decide) (show 11 + 1 ≤ 32 by decide))
    show ¬ (0x20004 + a * 0x400 = 0x20388 + a * 0x400 ∨ 0x20004 + a * 0x400 < 0x20000)
    omega
  refine ⟨?_, ?_, ?_, ?_, ?_, fun hc hf => ?_⟩
  · split
    · exact leaves_staleMarked d a _ fun hs => by
        simp only [staleReg, Reg.AX_STAT, Reg.AX_CNT_STALE, Reg.AX_CFG] at hs
        omega
    · rfl
  · split
    · exact hstat
    · rfl
  · split
    · rw [hmark]
    · rfl
  · split
    · rw [hmark]
    · rfl
  · split
    · rw [hmark]
    · rfl
  · rw [if_pos (by simp [hc, hf])]
    have hlow : Leaves (fun off => off < 0x20000) (axCount (axEvent d (Reg.AX_STAT_STALE a)) (Reg.AX_CNT_STALE a)) (staleMarked d a) := by
      unfold staleMarked
      rw [leaves_incReg (p := fun off => off < 0x20000) _ _ (by decide), leaves_setFlag (p := fun off => off < 0x20000) _ _ (by decide)]
      exact .refl _ _
    refine ⟨?_, ?_⟩
    · rw [flag_of_leaves hlow (Reg.AX_STAT_STALE a) (show ¬ 0x20004 + a * 0x400 < 0x20000 by omega),
        flag_of_leaves ((leaves_axCount (p := (· = Reg.AX_CNT_STALE a)) _ _ rfl).2 (.refl _ _)) (Reg.AX_STAT_STALE a)
          (show 0x20004 + a * 0x400 ≠ 0x20388 + a * 0x400 by omega)]
      exact flag_axEvent_same d (Reg.AX_STAT_STALE a) (show 11 + 1 ≤ 32 by decide) rfl
    · rw [hlow (Reg.AX_CNT_STALE a) (show ¬ 0x20388 + a * 0x400 < 0x20000 by omega), axCount, getReg_incReg_same, getReg_axMark]
      have hne : Reg.AX_CNT_STALE a ≠ Reg.AX_STAT a := by
        simp only [Reg.AX_STAT, Reg.AX_CNT_STALE]
        omega
      rw [(leaves_axEvent (p := (· = Reg.AX_STAT a)) (f := Reg.AX_STAT_STALE a) d d rfl).2 (.refl _ d) _ hne]

end Phase

/-! Shedding (R45 to R47). -/

section Shedding

variable (d : Die)

/-- The ends of levels A and B of this phase (R45, R46). -/
def abBegun (ovr b : Bool) : Die :=
  endShed (updTb d fun t =>
    { t with endA := if ovr || b then some (d.tb.k + 1000) else t.endA, endB := if b then some (d.tb.k + 1000) else t.endB })

/-- Level B begins or is renewed (R46). -/
def levelB : Bool :=
  (d.tb.ovrBeat && 2 ≤ (d.tb.ovr.filter fun x => d.tb.k ≤ x + 15).length) || positionOld d

/-- After the ends are shown, the rest is the Kennel's, the Logbook's and the trace's. -/
theorem calm_shedAB : Calm (putShed (abBegun d d.tb.ovrBeat (levelB d))) (shedAB d).1 := by
  unfold shedAB
  extract_lets k ovr b was d1 d2 now started r d3
  have hd2 : d2 = abBegun d d.tb.ovrBeat (levelB d) := rfl
  have hr : Calm (putShed d2) r.1 := calm_setSuspended _ now
  clear_value r
  rw [← hd2]
  exact .ite ((hr.trans (calm_logEvt _ ..)).trans (calm_ppTrigger _ 2)) hr

theorem tb_abBegun (ovr b : Bool) : (abBegun d ovr b).tb.gt = d.tb.gt ∧ (abBegun d ovr b).tb.k = d.tb.k ∧
    (abBegun d ovr b).tb.cyc = d.tb.cyc := ⟨rfl, rfl, rfl⟩

theorem abBegun_ends (ovr b : Bool) : (ovr = true → (abBegun d ovr b).tb.endA = some (d.tb.k + 1000)) ∧
    (b = true → (abBegun d ovr b).tb.endB = some (d.tb.k + 1000)) := by
  refine ⟨fun h => ?_, fun h => ?_⟩ <;>
  · subst h
    simp [abBegun, endShed, updTb]

theorem axis_putShed (a : Nat) : AxisKept a d (putShed d) := by
  unfold putShed
  extract_lets k left d1
  have h1 : AxisKept a d d1 := (AxisKept.setFld d (f := Reg.BEAT_STAT_SHED_A) (by decide) _).trans
    (AxisKept.setFld _ (f := Reg.BEAT_STAT_SHED_B) (by decide) _)
  clear_value d1 left
  exact (h1.trans (AxisKept.setFld d1 (f := Reg.BEAT_SHED_A_LEFT) (by decide) _)).trans
    (AxisKept.setFld _ (f := Reg.BEAT_SHED_B_LEFT) (by decide) _)

theorem putShed_left {b : Nat} (hb : b - d.tb.k < 1024) :
    (d.tb.endA = some b → flag (putShed d) Reg.BEAT_STAT_SHED_A = true ∧ fld (putShed d) Reg.BEAT_SHED_A_LEFT = b - d.tb.k) ∧
    (d.tb.endB = some b → flag (putShed d) Reg.BEAT_STAT_SHED_B = true ∧ fld (putShed d) Reg.BEAT_SHED_B_LEFT = b - d.tb.k) := by
  unfold putShed
  extract_lets k left d1
  have hA : flag d1 Reg.BEAT_STAT_SHED_A = d.tb.endA.isSome := by
    have h : flag d1 Reg.BEAT_STAT_SHED_A = flag (putFlag d Reg.BEAT_STAT_SHED_A d.tb.endA.isSome) Reg.BEAT_STAT_SHED_A :=
      congrArg (· == 1) (fld_setFld_below _ Reg.BEAT_STAT_SHED_A Reg.BEAT_STAT_SHED_B _ rfl (by decide) (by decide))
    rw [h, flag_putFlag_same _ _ _ (by decide) rfl]
  have hB : flag d1 Reg.BEAT_STAT_SHED_B = d.tb.endB.isSome := flag_putFlag_same _ _ _ (by decide) rfl
  have htb : d1.tb = d.tb := (tb_putFlag _ _ _).trans (tb_putFlag _ _ _)
  have hleft : ∀ e, left (some e) = e - d.tb.k := fun _ => rfl
  clear_value d1 left
  have hne : ∀ (e : Die) (f g : Fld) (v : Nat), f.off = Reg.BEAT_STAT → g.off = Reg.BEAT_SHED → flag (setFld e g v) f = flag e f :=
    fun e f g v hf hg => flag_setFld_ne e f g v (by rw [hf, hg]; decide)
  refine ⟨fun h => ⟨?_, ?_⟩, fun h => ⟨?_, ?_⟩⟩
  · rw [hne _ _ _ _ rfl rfl, hne _ _ _ _ rfl rfl, hA, h]
    rfl
  · rw [fld_setFld_below _ Reg.BEAT_SHED_A_LEFT Reg.BEAT_SHED_B_LEFT _ rfl (by decide) (by decide), fld_setFld_same _ _ _ (by decide), htb, h, hleft]
    exact Nat.mod_eq_of_lt hb
  · rw [hne _ _ _ _ rfl rfl, hne _ _ _ _ rfl rfl, hB, h]
    rfl
  · rw [fld_setFld_same _ _ _ (by decide), htb, h, hleft]
    exact Nat.mod_eq_of_lt hb

theorem axis_shedAB (a : Nat) : AxisKept a d (shedAB d).1 :=
  AxisKept.trans (d := abBegun d d.tb.ovrBeat (levelB d)) (.of_axes (.of_regs rfl) rfl) ((axis_putShed (abBegun d d.tb.ovrBeat (levelB d)) a).trans ((calm_shedAB d).axis a))

theorem tb_shedAB : (shedAB d).1.tb.gt = d.tb.gt ∧ (shedAB d).1.tb.k = d.tb.k ∧ (shedAB d).1.tb.cyc = d.tb.cyc := by
  have h := (calm_shedAB d).tb
  rw [h, tb_putShed]
  exact tb_abBegun d _ _

/-- An overrun starts or renews level A for 1,000 beats, a second one within 16 beats level B. -/
theorem shedAB_spec (hovr : d.tb.ovrBeat = true) :
    (shedAB d).1.tb.endA = some (d.tb.k + 1000) ∧ flag (shedAB d).1 Reg.BEAT_STAT_SHED_A = true ∧
      fld (shedAB d).1 Reg.BEAT_SHED_A_LEFT = 1000 ∧
      (levelB d = true → (shedAB d).1.tb.endB = some (d.tb.k + 1000) ∧ flag (shedAB d).1 Reg.BEAT_STAT_SHED_B = true ∧
        fld (shedAB d).1 Reg.BEAT_SHED_B_LEFT = 1000) := by
  have hs := (calm_shedAB d).shed
  obtain ⟨hA, hB⟩ := abBegun_ends d d.tb.ovrBeat (levelB d)
  have hk : (abBegun d d.tb.ovrBeat (levelB d)).tb.k = d.tb.k := rfl
  have htb := tb_putShed (abBegun d d.tb.ovrBeat (levelB d))
  obtain ⟨hleftA, hleftB⟩ := putShed_left (abBegun d d.tb.ovrBeat (levelB d)) (b := d.tb.k + 1000) (by rw [hk]; omega)
  rw [hk, Nat.add_sub_cancel_left] at hleftA hleftB
  generalize putShed (abBegun d d.tb.ovrBeat (levelB d)) = e at hs htb hleftA hleftB
  refine ⟨?_, ?_, ?_, fun h => ⟨?_, ?_, ?_⟩⟩
  · rw [hs.endA, htb, hA hovr]
  · rw [hs.shedA, (hleftA (hA hovr)).1]
  · rw [fld_congr (f := Reg.BEAT_SHED_A_LEFT) hs.left, (hleftA (hA hovr)).2]
  · rw [hs.endB, htb, hB h]
  · rw [hs.shedB, (hleftB (hB h)).1]
  · rw [fld_congr (f := Reg.BEAT_SHED_B_LEFT) hs.left, (hleftB (hB h)).2]

/-- A step that leaves the axes' outputs, the shedding and the place in time. -/
structure Still (a : Nat) (c d : Die) : Prop where
  axis : AxisKept a c d
  shed : ShedKept c d
  gt : d.tb.gt = c.tb.gt
  k : d.tb.k = c.tb.k
  cyc : d.tb.cyc = c.tb.cyc

theorem Still.refl (a : Nat) (d : Die) : Still a d d := ⟨.refl a d, .refl d, rfl, rfl, rfl⟩

theorem Still.trans {a : Nat} {c d e : Die} (h : Still a c d) (h' : Still a d e) : Still a c e :=
  ⟨h.axis.trans h'.axis, h.shed.trans h'.shed, h'.gt.trans h.gt, h'.k.trans h.k, h'.cyc.trans h.cyc⟩

theorem Still.of_tb {a : Nat} {c d : Die} (hax : AxisKept a c d) (hs : ShedKept c d) (htb : d.tb = c.tb) : Still a c d :=
  ⟨hax, hs, congrArg (·.gt) htb, congrArg (·.k) htb, congrArg (·.cyc) htb⟩

theorem Still.foldl {β : Type} {a : Nat} {f : Die → β → Die} {l : List β} (h : ∀ d, ∀ x ∈ l, Still a d (f d x)) (d : Die) :
    Still a d (l.foldl f d) := by
  induction l generalizing d with
  | nil => exact .refl a d
  | cons x l ih => exact (h d x (by simp)).trans (ih (fun d y hy => h d y (by simp [hy])) _)

theorem Still.ite {a : Nat} {p : Prop} [Decidable p] {c x y : Die} (hx : Still a c x) (hy : Still a c y) :
    Still a c (if p then x else y) := by
  split <;> assumption

theorem Calm.still {a : Nat} {c d : Die} (h : Calm c d) : Still a c d := .of_tb (h.axis a) h.shed h.tb

theorem RowKept.still {a b : Nat} {c d : Die} (h : RowKept b c d) (hab : b ≠ a) : Still a c d := .of_tb (h.axis hab) h.shed h.tb

theorem Still.marked (a b : Nat) (f : AxisHid → AxisHid)
    (hf : ∀ h, (f h).inSlot = h.inSlot ∧ (f h).fresh = h.fresh ∧ (f h).out = h.out) : Still a d (Machine.updAx d b f) :=
  .of_tb (.updAx d b f hf) (.updAx d b f) rfl

theorem Still.setFlag (a : Nat) {f : Fld} (hoff : f.off = Reg.BEAT_STAT) (hlo : f.lo + f.w ≤ 8 ∨ 10 ≤ f.lo) (hw : f.lo + f.w ≤ 32) :
    Still a d (Machine.setFlag d f) :=
  .of_tb (.setFlag d (by rw [hoff]; decide)) (.setFlag d hoff hlo hw) rfl

theorem still_shedC (a : Nat) : Still a d (shedC d) := by
  unfold shedC
  extract_lets axes hit d1 d2
  have h1 : Still a d d1 := Still.foldl (fun e b _ => by
    extract_lets holds e1
    have he : Still a e e1 := .ite (calm_logEvt e ..).still (.refl a e)
    exact he.trans (Still.marked _ a b _ fun _ => ⟨rfl, rfl, rfl⟩)) d
  clear_value d1
  have h2 : Still a d1 d2 := Still.setFlag d1 a rfl (.inr (by decide)) (by decide)
  clear_value d2
  exact .ite h1 ((h1.trans h2).trans (Still.foldl (fun e b _ =>
    Still.marked e a b (fun h => { h with conds := { h.conds with shed := true } }) fun _ => ⟨rfl, rfl, rfl⟩) d2))

theorem still_countStill (a b : Nat) : Still a d (countStill d b) := by
  unfold countStill
  exact .ite (.refl a d) (Still.marked d a b _ fun _ => ⟨rfl, rfl, rfl⟩)

theorem still_slewInstead (a : Nat) : Still a d (slewInstead d) := by
  unfold slewInstead
  extract_lets d1 trim
  have h1 : Still a d d1 := ⟨.of_axes (.of_regs rfl) rfl, ⟨rfl, rfl, rfl, rfl, rfl⟩, rfl, rfl, rfl⟩
  clear_value d1
  refine .ite (.refl a d) (.ite h1 (h1.trans ?_))
  have h2 : Still a d1 (updTrk d1 fun t => { t with trim := trim }) := .of_tb (.of_axes (.of_regs rfl) rfl) (.of_leaves (.of_regs rfl) rfl) rfl
  generalize (updTrk d1 fun t => { t with trim := trim }) = d2 at h2
  have h3 : Still a d2 (Machine.setFlag d2 Reg.BEAT_STAT_SLEW) := Still.setFlag d2 a rfl (.inl (by decide)) (by decide)
  exact (h2.trans h3).trans ⟨.of_axes (.of_regs rfl) rfl, ⟨rfl, rfl, rfl, rfl, rfl⟩, rfl, rfl, rfl⟩

theorem latchOut_eq (b : Nat) (was : Bool) : ∃ f : AxisHid → AxisHid, latchOut d b was = updAx d b f := by
  unfold latchOut
  split
  · exact ⟨_, rfl⟩
  · split
    · exact ⟨_, rfl⟩
    · split <;> exact ⟨_, rfl⟩

theorem still_latchOut_ne {a b : Nat} (hab : b ≠ a) (was : Bool) : Still a d (latchOut d b was) := by
  obtain ⟨f, heq⟩ := latchOut_eq d b was
  rw [heq]
  exact .of_tb (.updAx_ne d hab f) (.updAx d b f) rfl

theorem still_markHold (a b : Nat) (was fresh : List Nat) : Still a d (markHold d was fresh b) := by
  have hside : sideReg (Reg.AX_TRK_STAT b) := fun a => by
    simp only [Reg.AX_TRK_STAT, Reg.AX_CFG, Reg.AX_CNT_STALE, Reg.AX_STAT]
    omega
  have hfld : ∀ (e : Die) (f : Fld) (v : Nat), f.off = Reg.AX_TRK_STAT b → Still a e (axFld e f v) := fun e f v hf => by
    have hk : Keeps [.regs, .axLog] e (axFld e f v) := (keeps_axFld _ _ (by simp) (by simp) f v).2 (.refl _ e)
    refine .of_tb (.of_axes ((leaves_axFld _ _ (hf ▸ hside) v).2 (.refl _ e)) (hk .axes (by simp))) (.of_leaves ?_ (hk .tb (by simp)))
      (hk .tb (by simp))
    refine (leaves_axFld _ _ ?_ v).2 (.refl _ e)
    rw [hf]
    simp only [Reg.AX_TRK_STAT, Reg.BEAT_STAT, Reg.BEAT_SHED]
    omega
  unfold markHold
  extract_lets hold d1
  have h1 : Still a d d1 := hfld d _ _ rfl
  clear_value d1
  exact .ite (.refl a d) (.ite (h1.trans (hfld d1 _ _ rfl)) h1)

end Shedding

end Sys2Proof.Machine
end

section
/-! PROOFS. The output phase (R41, R45, R46, R120): the latched outputs, STALE, and the start of shedding; the events of a beat. -/

namespace Sys2Proof.Machine

open Sys2Proof

/-! The phase in stages. -/

/-- The aborts, the overruns and the missing outputs (R41, R43, R162). -/
def ophMarked (d : Die) : Die := (declAxes d).foldl markStale (markOverrun (ophKill d).1)

/-- Levels A and B, where the supervisor's core runs. -/
def ophAB (m : Die) : Die × List PhaseEvt × List Nat := if halted m 17 then (m, [], []) else shedAB m

/-- Level C, and the runs of beats at rest. -/
def ophRested (axes : List Nat) (m : Die) : Die := axes.foldl countStill (if halted m 17 then m else shedC (ophAB m).1)

/-- The evaluation of the axes. -/
def ophEvaluated (axes : List Nat) (r : Die) : Die := slewInstead (axes.foldl evalAxis r)

/-- The latched outputs. -/
def ophLatched (axes : List Nat) (was : List Nat) (x : Die) : Die := axes.foldl (fun d a => latchOut d a (was.contains a)) x

/-- The trackers' marks, the trace of the phase, and the tasks that resume. -/
def ophTraced (axes enabled fresh : List Nat) (evts : List PhaseEvt) (aborted resumed : List Nat) (y : Die) : Die :=
  resumeEvts (aborted.foldl resumeAborted (recordPhase (axes.foldl (fun d a => markHold d enabled fresh a) y) evts)) resumed

/-- The post of the event. -/
def ophPosted (fresh : List Nat) (d : Die) : Die :=
  if posting d then noteBlocked (kpost d 0 (.oph d.tb.k fresh)).1 else d

/-- All but the moment and the mark of the phase. -/
def ophBody (d : Die) : Die :=
  let axes := declAxes d
  let m := ophMarked d
  let r := ophRested axes m
  let was := axes.filter (computing r)
  let enabled := axes.filter fun a => axState r a == 2
  let y := ophLatched axes was (ophEvaluated axes r)
  let fresh := axes.filter fun a => computing y a && was.contains a && (axH y a).fresh && adapts y a
  ophPosted fresh (ophTraced axes enabled fresh ((ophKill d).2.1 ++ (ophAB m).2.1) (ophKill d).2.2 (ophAB m).2.2 y)

theorem outputPhase_eq {d : Die} (hrun : running d = true) (hphase : d.tb.phase = 1) :
    outputPhase d = updTb (ophBody (toGt d (ophGt d))) fun t => { t with phase := 2 } := by
  unfold outputPhase
  rw [if_neg (by simp [hrun, hphase])]
  rfl

section Stages

variable {d : Die} {a : Nat}

theorem still_ophPosted (fresh : List Nat) (d : Die) : Still a d (ophPosted fresh d) := by
  unfold ophPosted
  exact .ite ((calm_kpost d (by decide) _).trans (calm_noteBlocked _)).still (.refl a d)

theorem still_ophTraced (axes enabled fresh : List Nat) (evts : List PhaseEvt) {aborted : List Nat} (hab : ∀ e ∈ aborted, e < 16)
    (resumed : List Nat) (y : Die) : Still a y (ophTraced axes enabled fresh evts aborted resumed y) := by
  unfold ophTraced
  have h1 : Still a y (axes.foldl (fun d a => markHold d enabled fresh a) y) := .foldl (fun d b _ => still_markHold d a b _ _) y
  exact h1.trans (((calm_recordPhase _ _).trans (.foldl (fun d e he => calm_resumeAborted d (hab e he)) _)).trans (calm_resumeEvts _ _)).still

theorem ophKill_engines (d : Die) : ∀ e ∈ (ophKill d).2.2, e < 16 := fun e he => by
  unfold ophKill at he
  extract_lets met onEng ready evts aborts aborted d1 d2 d3 d4 d5 d6 d7 at he
  obtain ⟨x, hx, rfl⟩ := List.mem_map.1 (show e ∈ aborted from he)
  obtain ⟨y, hy, rfl⟩ := List.mem_map.1 (List.mem_filter.1 hx).1
  exact lt_of_mem_engineTasks (List.mem_filter.1 hy).1

/-- What the phase finds when it begins to evaluate: the state, the feedback and the output of the beat, and a missing output noted. -/
structure AxisNoted (a : Nat) (c d : Die) : Prop where
  cfg : getReg d (Reg.AX_CFG a) = getReg c (Reg.AX_CFG a)
  state : axState d a = axState c a
  fresh : (axH d a).fresh = (axH c a).fresh
  out : (axH d a).out = (axH c a).out
  missing : computing c a = true → (axH c a).fresh = false → flag d (Reg.AX_STAT_STALE a) = true ∧
    getReg d (Reg.AX_CNT_STALE a) = BitVec.ofNat 32 (satInc 32 (getReg c (Reg.AX_CNT_STALE a)).toNat)

theorem AxisNoted.kept {c e : Die} (h : AxisNoted a c d) (h' : AxisKept a d e) : AxisNoted a c e :=
  ⟨h'.cfg.trans h.cfg, h'.state.trans h.state, h'.fresh.trans h.fresh, h'.out.trans h.out, fun hc hf => by
    rw [h'.stale, h'.count]
    exact h.missing hc hf⟩

theorem computing_congr {c d : Die} (h : axState d a = axState c a) : computing d a = computing c a := by
  rw [computing, h, computing]

theorem axisNoted_ophMarked (ha : a ∈ declAxes d) : AxisNoted a d (ophMarked d) := by
  have hbegin : AxisKept a d (markOverrun (ophKill d).1) := (struck_ophKill d).axis a |>.trans (axis_markOverrun _ a)
  unfold ophMarked
  generalize markOverrun (ophKill d).1 = m at hbegin
  obtain ⟨e, hbefore, hafter⟩ := foldl_at (R := AxisKept a) (AxisKept.refl a) AxisKept.trans (f := markStale) (nodup_declAxes d) ha
    (fun x b _ hb => axis_markStale_ne x a hb) m
  have hpre : AxisKept a d e := hbegin.trans hbefore
  obtain ⟨hcfg, hstate, -, hfresh, hout, hmissing⟩ := markStale_spec e a
  refine AxisNoted.kept (d := markStale e a) ⟨hcfg.trans hpre.cfg, hstate.trans hpre.state, hfresh.trans hpre.fresh, hout.trans hpre.out,
    fun hc hf => ?_⟩ hafter
  rw [← hpre.count]
  exact hmissing ((computing_congr hpre.state).trans hc) (hpre.fresh.trans hf)

theorem time_ophMarked (d : Die) : (ophMarked d).tb.gt = d.tb.gt ∧ (ophMarked d).tb.k = d.tb.k ∧ (ophMarked d).tb.cyc = d.tb.cyc := by
  have h : (ophMarked d).tb = (markOverrun (ophKill d).1).tb := tb_foldl tb_markStale _ _
  obtain ⟨hgt, hk, hcyc⟩ := tb_markOverrun (ophKill d).1
  have hkill := (struck_ophKill d).tb
  rw [h, hgt, hk, hcyc, hkill]
  exact ⟨rfl, rfl, rfl⟩

theorem axis_ophRested (axes : List Nat) (m : Die) : AxisKept a m (ophRested axes m) := by
  unfold ophRested ophAB
  refine AxisKept.trans ?_ (AxisKept.foldl (fun e b => (still_countStill e a b).axis) _)
  split
  · exact .refl a m
  · exact (axis_shedAB m a).trans (still_shedC _ a).axis

theorem time_ophRested (axes : List Nat) (m : Die) : (ophRested axes m).tb.gt = m.tb.gt ∧ (ophRested axes m).tb.k = m.tb.k ∧
    (ophRested axes m).tb.cyc = m.tb.cyc := by
  unfold ophRested ophAB
  have hfold : ∀ x : Die, Still 0 x (axes.foldl countStill x) := Still.foldl fun e b _ => still_countStill e 0 b
  split
  · have h := hfold m
    exact ⟨h.gt, h.k, h.cyc⟩
  · have h := (still_shedC (shedAB m).1 0).trans (hfold (shedC (shedAB m).1))
    obtain ⟨hgt, hk, hcyc⟩ := tb_shedAB m
    exact ⟨h.gt.trans hgt, h.k.trans hk, h.cyc.trans hcyc⟩

/-- The evaluation leaves everything of its axis but the state. -/
theorem axisNoted_ophEvaluated {c r : Die} {axes : List Nat} (hnodup : axes.Nodup) (ha : a ∈ axes) (h : AxisNoted a c r) :
    getReg (ophEvaluated axes r) (Reg.AX_CFG a) = getReg c (Reg.AX_CFG a) ∧
    (axH (ophEvaluated axes r) a).fresh = (axH c a).fresh ∧ (axH (ophEvaluated axes r) a).out = (axH c a).out ∧
    (computing c a = true → (axH c a).fresh = false → flag (ophEvaluated axes r) (Reg.AX_STAT_STALE a) = true ∧
      getReg (ophEvaluated axes r) (Reg.AX_CNT_STALE a) = BitVec.ofNat 32 (satInc 32 (getReg c (Reg.AX_CNT_STALE a)).toNat)) := by
  obtain ⟨e, hbefore, hafter⟩ := foldl_at (R := AxisKept a) (AxisKept.refl a) AxisKept.trans (f := evalAxis) hnodup ha
    (fun x b _ hb => (row_evalAxis (a := b) x).axis hb) r
  have he : AxisNoted a c e := h.kept hbefore
  have hend : AxisKept a (evalAxis e a) (ophEvaluated axes r) := hafter.trans (still_slewInstead _ a).axis
  have hrow : RowKept a e (evalAxis e a) := row_evalAxis e
  obtain ⟨-, hfresh, hout⟩ := hrow.marks a
  have hcfg : getReg (evalAxis e a) (Reg.AX_CFG a) = getReg e (Reg.AX_CFG a) := hrow.regs _ fun hr => by
    simp only [rowReg, plainReg, Reg.AX_CFG] at hr
    omega
  have hcnt : getReg (evalAxis e a) (Reg.AX_CNT_STALE a) = getReg e (Reg.AX_CNT_STALE a) := hrow.regs _ fun hr => by
    simp only [rowReg, plainReg, Reg.AX_CNT_STALE] at hr
    omega
  refine ⟨(hend.cfg.trans hcfg).trans he.cfg, (hend.fresh.trans hfresh).trans he.fresh, (hend.out.trans hout).trans he.out, fun hc hf => ?_⟩
  rw [hend.stale, hrow.stale, hend.count, hcnt]
  exact he.missing hc hf

theorem time_ophEvaluated (axes : List Nat) (r : Die) : (ophEvaluated axes r).tb.gt = r.tb.gt ∧ (ophEvaluated axes r).tb.k = r.tb.k ∧
    (ophEvaluated axes r).tb.cyc = r.tb.cyc ∧ ShedKept r (ophEvaluated axes r) := by
  have htb : (axes.foldl evalAxis r).tb = r.tb := tb_foldl (fun x b => (row_evalAxis (a := b) x).tb) axes r
  have hshed : ShedKept r (axes.foldl evalAxis r) := .foldl (fun x b => (row_evalAxis (a := b) x).shed) r
  have h := still_slewInstead (axes.foldl evalAxis r) 0
  rw [← htb]
  exact ⟨h.gt, h.k, h.cyc, hshed.trans h.shed⟩

/-- The own latching. -/
theorem latchOut_spec (d : Die) (a : Nat) (was : Bool) :
    axState (latchOut d a was) a = axState d a ∧ flag (latchOut d a was) (Reg.AX_STAT_STALE a) = flag d (Reg.AX_STAT_STALE a) ∧
    getReg (latchOut d a was) (Reg.AX_CNT_STALE a) = getReg d (Reg.AX_CNT_STALE a) ∧
    (computing d a = false → (axH (latchOut d a was) a).out = axOut0) ∧
    (computing d a = true → was = false → (axH (latchOut d a was) a).out = zeroOut d a) ∧
    (computing d a = true → was = true → (axH d a).fresh = true →
      (axH (latchOut d a was) a).out.stale = false ∧ (axH (latchOut d a was) a).out.enable = true) ∧
    (computing d a = true → was = true → (axH d a).fresh = false →
      (axH (latchOut d a was) a).out = { (axH d a).out with stale := true }) := by
  obtain ⟨f, heq⟩ := latchOut_eq d a was
  have hregs : (latchOut d a was).regs = d.regs := by rw [heq]; rfl
  have hreg : ∀ off, getReg (latchOut d a was) off = getReg d off := fun off => by rw [getReg, hregs, getReg]
  refine ⟨fld_congr (hreg _), flag_congr (hreg _), hreg _, fun hc => ?_, fun hc hw => ?_, fun hc hw hf => ?_, fun hc hw hf => ?_⟩
  · rw [latchOut, if_pos (by simp [hc]), axH_updAx_same]
  · rw [latchOut, if_neg (by simp [hc]), if_pos (by simp [hw]), axH_updAx_same]
  · rw [latchOut, if_neg (by simp [hc]), if_neg (by simp [hw]), if_pos hf, axH_updAx_same]
    exact ⟨rfl, rfl⟩
  · rw [latchOut, if_neg (by simp [hc]), if_neg (by simp [hw]), if_neg (by simp [hf]), axH_updAx_same]

theorem time_ophLatched (axes was : List Nat) (x : Die) : (ophLatched axes was x).tb = x.tb ∧ ShedKept x (ophLatched axes was x) := by
  have h : ∀ (d : Die) (b : Nat), (latchOut d b (was.contains b)).tb = d.tb ∧ ShedKept d (latchOut d b (was.contains b)) := fun d b => by
    obtain ⟨f, heq⟩ := latchOut_eq d b (was.contains b)
    rw [heq]
    exact ⟨rfl, .updAx d b f⟩
  exact ⟨tb_foldl (fun d b => (h d b).1) axes x, .foldl (fun d b => (h d b).2) x⟩

theorem zeroOut_congr {c d : Die} (h : getReg d (Reg.AX_CFG a) = getReg c (Reg.AX_CFG a)) : zeroOut d a = zeroOut c a := by
  rw [zeroOut, zeroOut, flag_congr (f := Reg.AX_CFG_THIN a) h]

/-- What axis `a` latches at the output phase that finds the die as `c` (R41, R42, R119, R120). -/
def Latches (a : Nat) (c d : Die) : Prop :=
  (computing d a = false → (axH d a).out = axOut0) ∧
  (computing d a = true → computing c a = false → (axH d a).out = zeroOut c a) ∧
  (computing d a = true → computing c a = true → (axH c a).fresh = true → (axH d a).out.stale = false ∧ (axH d a).out.enable = true) ∧
  (computing d a = true → computing c a = true → (axH c a).fresh = false → (axH d a).out = { (axH c a).out with stale := true }) ∧
  (computing c a = true → (axH c a).fresh = false → flag d (Reg.AX_STAT_STALE a) = true ∧
    getReg d (Reg.AX_CNT_STALE a) = BitVec.ofNat 32 (satInc 32 (getReg c (Reg.AX_CNT_STALE a)).toNat))

theorem Latches.kept {c d e : Die} (h : Latches a c d) (h' : AxisKept a d e) : Latches a c e := by
  rw [Latches, computing_congr h'.state, h'.out, h'.stale, h'.count]
  exact h

theorem latches_ophLatched {c r : Die} {axes : List Nat} (hnodup : axes.Nodup) (ha : a ∈ axes) (h : AxisNoted a c r) :
    Latches a c (ophLatched axes (axes.filter (computing r)) (ophEvaluated axes r)) := by
  obtain ⟨hcfg, hfresh, hout, hmissing⟩ := axisNoted_ophEvaluated hnodup ha h
  have hwas : (axes.filter (computing r)).contains a = computing c a := by
    rw [← computing_congr h.state]
    by_cases hc : computing r a = true <;> simp [ha, hc]
  unfold ophLatched
  rw [← computing_congr h.state] at hwas
  generalize ophEvaluated axes r = x at hcfg hfresh hout hmissing
  obtain ⟨e, hbefore, hafter⟩ := foldl_at (R := AxisKept a) (AxisKept.refl a) AxisKept.trans
    (f := fun d b => latchOut d b ((axes.filter (computing r)).contains b)) hnodup ha
    (fun x b _ hb => (still_latchOut_ne x hb _).axis) x
  refine Latches.kept ?_ hafter
  rw [hwas, computing_congr h.state]
  obtain ⟨hstate, hstale, hcount, hidle, hzero, hgood, hold⟩ := latchOut_spec e a (computing c a)
  have hcomp := computing_congr hstate
  have hzo : zeroOut e a = zeroOut c a := zeroOut_congr (hbefore.cfg.trans hcfg)
  have hef : (axH e a).fresh = (axH c a).fresh := hbefore.fresh.trans hfresh
  have heo : (axH e a).out = (axH c a).out := hbefore.out.trans hout
  rw [Latches, hcomp, hstale, hcount, hbefore.stale, hbefore.count]
  rw [hzo] at hzero
  rw [hef] at hgood hold
  rw [heo] at hold
  exact ⟨hidle, hzero, hgood, hold, hmissing⟩

end Stages

/-! The whole phase. -/

/-- What follows the latching. -/
theorem ophBody_eq (d : Die) : ∃ (enabled fresh : List Nat) (evts : List PhaseEvt) (resumed : List Nat), ophBody d =
    ophPosted fresh (ophTraced (declAxes d) enabled fresh evts (ophKill d).2.2 resumed
      (ophLatched (declAxes d) ((declAxes d).filter (computing (ophRested (declAxes d) (ophMarked d))))
        (ophEvaluated (declAxes d) (ophRested (declAxes d) (ophMarked d))))) := ⟨_, _, _, _, rfl⟩

theorem ophBody_end (d : Die) (a : Nat) : Still a (ophLatched (declAxes d)
    ((declAxes d).filter (computing (ophRested (declAxes d) (ophMarked d))))
      (ophEvaluated (declAxes d) (ophRested (declAxes d) (ophMarked d)))) (ophBody d) := by
  obtain ⟨enabled, fresh, evts, resumed, heq⟩ := ophBody_eq d
  rw [heq]
  exact (still_ophTraced _ _ _ _ (ophKill_engines d) _ _).trans (still_ophPosted _ _)

theorem latches_ophBody {d : Die} {a : Nat} (ha : a ∈ declAxes d) : Latches a d (ophBody d) :=
  (latches_ophLatched (nodup_declAxes d) ha ((axisNoted_ophMarked ha).kept (axis_ophRested _ _))).kept (ophBody_end d a).axis

theorem shed_ophBody (d : Die) : ShedKept (ophRested (declAxes d) (ophMarked d)) (ophBody d) :=
  ((time_ophEvaluated _ _).2.2.2.trans (time_ophLatched _ _ _).2).trans (ophBody_end d 0).shed

theorem time_ophBody (d : Die) : (ophBody d).tb.gt = d.tb.gt ∧ (ophBody d).tb.k = d.tb.k ∧ (ophBody d).tb.cyc = d.tb.cyc := by
  have hend := ophBody_end d 0
  have hlatch := (time_ophLatched (declAxes d) ((declAxes d).filter (computing (ophRested (declAxes d) (ophMarked d))))
    (ophEvaluated (declAxes d) (ophRested (declAxes d) (ophMarked d)))).1
  obtain ⟨hgt1, hk1, hcyc1, -⟩ := time_ophEvaluated (declAxes d) (ophRested (declAxes d) (ophMarked d))
  obtain ⟨hgt2, hk2, hcyc2⟩ := time_ophRested (declAxes d) (ophMarked d)
  obtain ⟨hgt3, hk3, hcyc3⟩ := time_ophMarked d
  have hgt := hend.gt
  have hk := hend.k
  have hcyc := hend.cyc
  rw [hlatch] at hgt hk hcyc
  exact ⟨hgt.trans (hgt1.trans (hgt2.trans hgt3)), hk.trans (hk1.trans (hk2.trans hk3)), hcyc.trans (hcyc1.trans (hcyc2.trans hcyc3))⟩

/-! The shedding that the phase shows. -/

theorem tap_ophKill (d : Die) : (ophKill d).1.tap = d.tap := by
  unfold ophKill
  extract_lets met onEng ready evts aborts aborted d1 d2 d3 d4 d5 d6 d7
  clear_value met onEng ready evts aborts aborted
  have h1 : d1.tap = d.tap := foldl_keeps Die.tap (fun e x => keeps_undoSwap e x _ .tap (by simp)) met d
  clear_value d1
  have h2 : d2.tap = d1.tap := foldl_keeps Die.tap (fun e x => keeps_instEnd e _ _ .tap (by simp)) onEng d1
  clear_value d2
  have h3 : d3.tap = d2.tap := foldl_keeps Die.tap (fun e x => keeps_instEnd e _ _ .tap (by simp)) ready d2
  clear_value d3
  have h4 : d4.tap = d3.tap := foldl_keeps Die.tap (fun e x => (keeps_updEng (ps := [.eng]) e e (by simp) x _).2 (.refl _ e) .tap (by simp)) _ d3
  clear_value d4
  have h5 : d5.tap = d4.tap := foldl_keeps Die.tap (fun e x => (keeps_updKnl (ps := [.knl]) e e (by simp) _).2 (.refl _ e) .tap (by simp)) _ d4
  clear_value d5
  have h6 : d6.tap = d5.tap := foldl_keeps Die.tap (fun e x =>
    ((keeps_incReg _ _ (by simp) _).2 (keeps_swapBusy e x 2) : Keeps [.regs, .eng] e _) .tap (by simp)) aborts d5
  clear_value d6
  have h7 : d7.tap = d6.tap := foldl_keeps Die.tap (fun e x => (keeps_incReg (ps := [.regs]) e e (by simp) _).2 (.refl _ e) .tap (by simp)) evts d6
  show d7.tap = d.tap
  rw [h7, h6, h5, h4, h3, h2, h1]

theorem tap_markOverrun (d : Die) : (markOverrun d).tap = d.tap := by
  unfold markOverrun
  extract_lets k d1
  have h1 : Keeps [.regs, .knl] d d1 := by
    unfold d1
    rw [keeps_ppTrigger _ _ (by simp) (by simp), keeps_incReg _ _ (by simp), keeps_setFlag _ _ (by simp)]
    exact .refl _ d
  have htap : d1.tap = d.tap := h1 .tap (by simp)
  clear_value d1
  split
  · exact htap
  · rfl

theorem tap_markStale (d : Die) (a : Nat) : (markStale d a).tap = d.tap := by
  obtain ⟨f, -, heq⟩ := markStale_eq d a
  rw [heq]
  show (if _ then staleMarked d a else d).tap = d.tap
  split
  · exact keeps_staleMarked d a .tap (by simp)
  · rfl

theorem tap_ophMarked (d : Die) : (ophMarked d).tap = d.tap := by
  have h : (ophMarked d).tap = (markOverrun (ophKill d).1).tap := foldl_keeps Die.tap tap_markStale _ _
  rw [h, tap_markOverrun, tap_ophKill]

/-- A second overrun within 16 beats is level B's (R46). -/
theorem levelB_of_ovr {m : Die} {k x : Nat} {l : List Nat} (hk : m.tb.k = k) (hbeat : m.tb.ovrBeat = true)
    (hovr : m.tb.ovr = k :: l.filter fun b => k ≤ b + 15) (hx : x ∈ l) (hxk : k ≤ x + 15) : levelB m = true := by
  have hmem : x ∈ (l.filter fun b => k ≤ b + 15).filter fun b => k ≤ b + 15 :=
    List.mem_filter.2 ⟨List.mem_filter.2 ⟨hx, by simpa using hxk⟩, by simpa using hxk⟩
  have hpos := List.length_pos_of_mem hmem
  unfold levelB
  rw [hbeat, hovr, hk, List.filter_cons_of_pos (by simp), List.length_cons]
  simp only [Bool.true_and, Bool.or_eq_true, decide_eq_true_eq]
  exact .inl (by omega)

theorem ophMarked_overrun {d : Die} {a : Nat} (ha : a ∈ declAxes d) (h : overruns d a = true) : (ophMarked d).tb.ovrBeat = true ∧
    (ophMarked d).tb.ovr = d.tb.k :: d.tb.ovr.filter fun b => d.tb.k ≤ b + 15 := by
  have hstruck := struck_ophKill d
  have hax := hstruck.axis a
  have htb := hstruck.tb
  have hm : (ophMarked d).tb = (markOverrun (ophKill d).1).tb := tb_foldl tb_markStale _ _
  rw [hm, ← htb]
  refine markOverrun_of_overrun (a := a) ?_ ?_
  · obtain ⟨halt, hdecl⟩ := mem_declAxes.1 ha
    exact mem_declAxes.2 ⟨halt, (flag_congr (f := Reg.AX_CFG_DECL a) hax.cfg).trans hdecl⟩
  · rw [overruns, hax.state, hax.inSlot, hax.fresh]
    exact h

/-- The start or the renewal of the levels, as the phase leaves it. -/
theorem shed_of_overrun {d : Die} {a : Nat} (hcore : halted d 17 = false) (ha : a ∈ declAxes d) (h : overruns d a = true) :
    (ophBody d).tb.endA = some (d.tb.k + 1000) ∧ flag (ophBody d) Reg.BEAT_STAT_SHED_A = true ∧
      fld (ophBody d) Reg.BEAT_SHED_A_LEFT = 1000 ∧
      ((∃ x ∈ d.tb.ovr, d.tb.k ≤ x + 15) → (ophBody d).tb.endB = some (d.tb.k + 1000) ∧
        flag (ophBody d) Reg.BEAT_STAT_SHED_B = true ∧ fld (ophBody d) Reg.BEAT_SHED_B_LEFT = 1000) := by
  have hkept := shed_ophBody d
  obtain ⟨hbeat, hovr⟩ := ophMarked_overrun ha h
  obtain ⟨-, hk, -⟩ := time_ophMarked d
  have hcore' : halted (ophMarked d) 17 = false := by
    rw [halted, tap_ophMarked]
    exact hcore
  have hrest : ShedKept (shedAB (ophMarked d)).1 (ophRested (declAxes d) (ophMarked d)) := by
    unfold ophRested ophAB
    rw [hcore']
    exact (still_shedC _ 0).shed.trans (.foldl (fun e b => (still_countStill e 0 b).shed) _)
  obtain ⟨hendA, hflagA, hleftA, hB⟩ := shedAB_spec (ophMarked d) hbeat
  have hall := hrest.trans hkept
  rw [hall.endA, hall.shedA, fld_congr (f := Reg.BEAT_SHED_A_LEFT) hall.left, hall.endB, hall.shedB,
    fld_congr (f := Reg.BEAT_SHED_B_LEFT) hall.left, hendA, hflagA, hleftA, hk]
  refine ⟨rfl, rfl, rfl, fun ⟨x, hx, hxk⟩ => ?_⟩
  obtain ⟨hendB, hflagB, hleftB⟩ := hB (levelB_of_ovr hk hbeat hovr hx hxk)
  rw [hendB, hflagB, hleftB, hk]
  exact ⟨rfl, rfl, rfl⟩

/-! The command. -/

theorem toGt_ovr (d : Die) (t : Nat) : (toGt d t).tb.ovr = d.tb.ovr := by
  unfold toGt
  split <;> rfl

/-- The die at the moment of the phase. -/
structure AtOph (s : State) (e : Die) : Prop where
  regs : ∀ off, getReg e off = getReg s.die off
  axes : e.axes = s.die.axes
  tap : e.tap = s.die.tap
  k : e.tb.k = s.die.tb.k
  ovr : e.tb.ovr = s.die.tb.ovr
  gt : e.tb.gt = max s.die.tb.gt (inBeat s.die (fld s.die Reg.BEAT_OPH_VALUE))
  cyc : e.tb.cyc = (toGt s.die (inBeat s.die (fld s.die Reg.BEAT_OPH_VALUE))).tb.cyc

theorem AtOph.decl {s : State} {e : Die} (h : AtOph s e) (a : Nat) : axDecl e a = axDecl s.die a := flag_congr (f := Reg.AX_CFG_DECL a) (h.regs _)

theorem AtOph.state {s : State} {e : Die} (h : AtOph s e) (a : Nat) : axState e a = axState s.die a :=
  fld_congr (f := Reg.AX_STAT_STATE a) (h.regs _)

theorem AtOph.mem {s : State} {e : Die} (h : AtOph s e) {a : Nat} (ha : a < 128) (hdecl : axDecl s.die a = true) : a ∈ declAxes e :=
  mem_declAxes.2 ⟨ha, (h.decl a).trans hdecl⟩

/-- The supervisor's command in its place among the writes of its cycle. -/
def ophSettled (s : State) (e : Die) : Die :=
  axSettle 6 (ophBody e).tb.cyc (found s) (updTb (ophBody e) fun t => { t with phase := 2 })

theorem ends_ophBody {s : State} {P : State → Prop} (hrun : running s.die = true) (hphase : s.die.tb.phase = 1)
    (h : ∀ e, AtOph s e → P { s with die := irqSettle s.die (ophSettled s e) }) : ends .outputPhase s P := by
  refine ends_of_onDie (f := bySupervisor outputPhase) rfl ?_
  have heq := outputPhase_eq (d := found s) hrun hphase
  have hat : AtOph s (toGt (found s) (ophGt (found s))) := by
    obtain ⟨hgt, hk, -⟩ := toGt_tb (found s) (ophGt (found s))
    have hkeeps := keeps_toGt (found s) (ophGt (found s))
    exact ⟨fun off => getReg_toGt _ _ off, hkeeps .axes (by simp), hkeeps .tap (by simp), hk, toGt_ovr _ _, hgt,
      congrArg (·.cyc) (toGt_found_tb s _)⟩
  obtain ⟨e, he⟩ : ∃ e, e = toGt (found s) (ophGt (found s)) := ⟨_, rfl⟩
  rw [← he] at heq hat
  unfold bySupervisor
  rw [heq]
  exact h e hat

theorem ophSettled_tb (s : State) (e : Die) : (irqSettle s.die (ophSettled s e)).tb = { (ophBody e).tb with phase := 2 } := by
  have hset : (irqSettle s.die (ophSettled s e)).tb = (ophSettled s e).tb := keeps_irqSettle [] s.die _ .tb (by simp)
  rw [hset, ophSettled, tb_axSettle]
  rfl

theorem ends_outputPhase {s : State} (hrun : running s.die = true) (hphase : s.die.tb.phase = 1) : ends .outputPhase s fun t =>
    t.die.tb.phase = 2 ∧ t.die.tb.gt = max s.die.tb.gt (inBeat s.die (fld s.die Reg.BEAT_OPH_VALUE)) ∧ t.die.tb.k = s.die.tb.k := by
  refine ends_ophBody hrun hphase fun e he => ?_
  obtain ⟨hgt, hk, -⟩ := time_ophBody e
  show (irqSettle s.die (ophSettled s e)).tb.phase = 2 ∧ (irqSettle s.die (ophSettled s e)).tb.gt = _ ∧
    (irqSettle s.die (ophSettled s e)).tb.k = _
  rw [ophSettled_tb]
  exact ⟨rfl, hgt.trans he.gt, hk.trans he.k⟩

theorem ends_outputPhase_latches {s : State} (hrun : running s.die = true) (hphase : s.die.tb.phase = 1)
    (hlater : noneLater s 6 (toGt s.die (inBeat s.die (fld s.die Reg.BEAT_OPH_VALUE))).tb.cyc) : ends .outputPhase s fun t =>
    ∀ a, a < 128 → axDecl s.die a = true → Latches a s.die t.die := by
  refine ends_ophBody hrun hphase fun e he a ha hdecl => ?_
  have hbody : Latches a e (ophBody e) := latches_ophBody (he.mem ha hdecl)
  have hfrom : Latches a s.die (ophBody e) := by
    have hax := axH_of_axes he.axes a
    rw [Latches, computing_congr (he.state a), hax, zeroOut_congr (he.regs _), he.regs] at hbody
    exact hbody
  obtain ⟨-, -, hcyc⟩ := time_ophBody e
  have hreg : ∀ off, getReg (irqSettle s.die (ophSettled s e)) off = getReg (ophBody e) off := fun off => by
    rw [getReg_irqSettle, ophSettled, getReg_axSettle_free (by rw [hcyc, he.cyc]; exact hlater)]
    rfl
  have hax : axH (irqSettle s.die (ophSettled s e)) a = axH (ophBody e) a := by
    rw [axH_irqSettle, ophSettled, axH_axSettle]
    rfl
  refine hfrom.kept (e := irqSettle s.die (ophSettled s e)) ⟨hreg _, hreg _, flag_congr (hreg _), fld_congr (hreg _), ?_, ?_, ?_⟩ <;> rw [hax]

theorem ends_outputPhase_shed {s : State} {a : Nat} (hrun : running s.die = true) (hphase : s.die.tb.phase = 1)
    (hcore : halted s.die 17 = false) (ha : a < 128) (hdecl : axDecl s.die a = true) (hovr : overruns s.die a = true) :
    ends .outputPhase s fun t =>
      t.die.tb.endA = some (s.die.tb.k + 1000) ∧ flag t.die Reg.BEAT_STAT_SHED_A = true ∧
      fld t.die Reg.BEAT_SHED_A_LEFT = 1000 ∧
      ((∃ x ∈ s.die.tb.ovr, s.die.tb.k ≤ x + 15) → t.die.tb.endB = some (s.die.tb.k + 1000) ∧
        flag t.die Reg.BEAT_STAT_SHED_B = true ∧ fld t.die Reg.BEAT_SHED_B_LEFT = 1000) := by
  refine ends_ophBody hrun hphase fun e he => ?_
  have hshed := shed_of_overrun (d := e) (a := a) (by rw [halted, he.tap]; exact hcore) (he.mem ha hdecl)
    (by rw [overruns, he.state, axH_of_axes he.axes]; exact hovr)
  rw [he.k, he.ovr] at hshed
  have hreg : ∀ off, inAxis off = false → getReg (irqSettle s.die (ophSettled s e)) off = getReg (ophBody e) off := fun off ho => by
    rw [getReg_irqSettle]
    exact leaves_axSettle _ _ _ _ off (by simp [ho])
  have hstat := hreg Reg.BEAT_STAT (by decide)
  have hleft := hreg Reg.BEAT_SHED (by decide)
  show (irqSettle s.die (ophSettled s e)).tb.endA = _ ∧ flag (irqSettle s.die (ophSettled s e)) _ = _ ∧
    fld (irqSettle s.die (ophSettled s e)) _ = _ ∧ (_ → (irqSettle s.die (ophSettled s e)).tb.endB = _ ∧
      flag (irqSettle s.die (ophSettled s e)) _ = _ ∧ fld (irqSettle s.die (ophSettled s e)) _ = _)
  rw [ophSettled_tb, flag_congr (f := Reg.BEAT_STAT_SHED_A) hstat, flag_congr (f := Reg.BEAT_STAT_SHED_B) hstat,
    fld_congr (f := Reg.BEAT_SHED_A_LEFT) hleft, fld_congr (f := Reg.BEAT_SHED_B_LEFT) hleft]
  exact hshed

/-- Settles O12: every event by the stages of its die; the outputs by the turn of each axis. -/
theorem beatEventsAdvance : Obligations.BeatEventsAdvance := by
  unfold Obligations.BeatEventsAdvance
  exact ⟨⟨fun s k => ends_beatEdge, fun s => ends_beatEdge_none, fun s => ends_inputDeadline, fun s => ends_outputPhase,
      fun s => ends_frameClose, fun s x => ends_gtStep⟩, fun s => ends_outputPhase_latches,
    fun s a => ends_outputPhase_shed, fun s => ends_inputDeadline_axes⟩

end Sys2Proof.Machine
end

section
/-! PROOFS. O28: the end of ENGAGING is noted as a write of an axis word (R58). -/

namespace Sys2Proof.Machine

open Sys2Proof

/-- Axis 0 in its engagement, and in lock (R144). -/
def engagingInLock : State :=
  { State.reset with
    die := setFlag (setFlag State.reset.die (Reg.AX_LS_STAT_ENGAGING 0)) (Reg.AX_LS_STAT_LOCK 0) }

/-- Refutes O28: ENGAGING is a bit of an axis-state word, so that its clearing takes a place in the list of the writes of R58,
which the statement says stands: it names the registers alone. -/
theorem not_masterAndGearUnit : ¬ Obligations.MasterAndGearUnit := by
  unfold Obligations.MasterAndGearUnit
  rintro ⟨-, -, -, -, -, h⟩
  obtain ⟨t, ht, -, -, -, -, -, hkeep⟩ := h engagingInLock 0 (by decide +kernel) (.inl (by decide +kernel))
  have hlog : t.die.axLog = engagingInLock.die.axLog := hkeep .axLog (by decide)
  have hbefore : engagingInLock.die.axLog.length = 0 := by decide +kernel
  have hafter : t.die.axLog.length = 2 := eq_of_nextOf (f := fun t => t.die.axLog.length) ht (by decide +kernel)
  rw [hlog, hbefore] at hafter
  exact absurd hafter nofun

end Sys2Proof.Machine
end

section
/-! PROOFS. Triggers of the capture engine (R171 to R178): what one trigger does to its channel, and what it leaves of the others. -/

namespace Sys2Proof.Machine

open Sys2Proof

/-! The registers of the capture engine. -/

/-- A register that a trigger of channel `b` may write. -/
def trigReg (b off : Nat) : Prop :=
  off = Reg.CAP_CH_STAT b ∨ off = Reg.CAP_CH_WRSEQ b ∨ off = Reg.CAP_CH_CNT_IGN b ∨ off = Reg.CAP_CH_OVF_GT b ∨
    off = Reg.CAP_CH_OVF_GT b + 4 ∨ off = Reg.CTR_CNT 8

/-- A register of channel `c`. -/
def chanBlock (c off : Nat) : Prop := 0xF100 + c * 0x80 ≤ off ∧ off < 0xF180 + c * 0x80

theorem trigReg_other {b c off : Nat} (h : trigReg b off) (hbc : b ≠ c) : ¬ chanBlock c off := by
  simp only [trigReg, chanBlock, Reg.CAP_CH_STAT, Reg.CAP_CH_WRSEQ, Reg.CAP_CH_CNT_IGN, Reg.CAP_CH_OVF_GT, Reg.CTR_CNT] at h ⊢
  omega

/-- A register that no trigger of a channel writes: the configuration of the channels, and all that lies outside them. -/
def steadyReg (off : Nat) : Prop := ∀ b < 16, ¬ trigReg b off

theorem steady_src {b : Nat} : steadyReg (Reg.CAP_CH_SRC b) := fun c _ h => by
  simp only [trigReg, Reg.CAP_CH_SRC, Reg.CAP_CH_STAT, Reg.CAP_CH_WRSEQ, Reg.CAP_CH_CNT_IGN, Reg.CAP_CH_OVF_GT, Reg.CTR_CNT] at h
  omega

/-! What every trigger leaves. -/

/-- What the triggers leave: the registers outside, the marks, the sample count, the trigger inputs, the time; and the lines are pulled
no less. -/
structure Pulsed (c d : Die) : Prop where
  regs : ∀ off, steadyReg off → getReg d off = getReg c off
  parts : Keeps [.regs, .cap, .fresh] c d
  next : d.cap.next = c.cap.next
  marks : d.cap.marks = c.cap.marks
  trg : d.cap.trg = c.cap.trg
  rip : d.cap.ripDue = c.cap.ripDue
  low : d.cap.xtLow = c.cap.xtLow
  cnt : ∀ l, vget 0 c.cap.xtCnt l ≤ vget 0 d.cap.xtCnt l
  pull : ∀ l e, vget none c.cap.xtPull l = some e → ∃ e', e ≤ e' ∧ vget none d.cap.xtPull l = some e'

theorem Pulsed.refl (d : Die) : Pulsed d d :=
  ⟨fun _ _ => rfl, .refl _ d, rfl, rfl, rfl, rfl, rfl, fun _ => Nat.le_refl _, fun _ e h => ⟨e, Nat.le_refl e, h⟩⟩

theorem Pulsed.trans {c d e : Die} (h : Pulsed c d) (h' : Pulsed d e) : Pulsed c e :=
  ⟨fun off ho => (h'.regs off ho).trans (h.regs off ho), h.parts.trans h'.parts, h'.next.trans h.next, h'.marks.trans h.marks,
    h'.trg.trans h.trg, h'.rip.trans h.rip, h'.low.trans h.low, fun l => (h.cnt l).trans (h'.cnt l), fun l x hx => by
      obtain ⟨y, hxy, hy⟩ := h.pull l x hx
      obtain ⟨z, hyz, hz⟩ := h'.pull l y hy
      exact ⟨z, hxy.trans hyz, hz⟩⟩

theorem Pulsed.tb {c d : Die} (h : Pulsed c d) : d.tb = c.tb := h.parts .tb (by simp)

theorem Pulsed.fld {c d : Die} (h : Pulsed c d) {f : Fld} (hf : steadyReg f.off) : fld d f = fld c f := fld_congr (h.regs _ hf)

theorem Pulsed.flag {c d : Die} (h : Pulsed c d) {f : Fld} (hf : steadyReg f.off) : flag d f = flag c f := flag_congr (h.regs _ hf)

/-- A line that counts as low goes on counting as low. -/
theorem Pulsed.counts {c d : Die} (h : Pulsed c d) {l t : Nat} (hl : xtCounts c l t = true) : xtCounts d l t = true := by
  have hle := h.cnt l
  simp only [xtCounts, Bool.and_eq_true, bne_iff_ne, decide_eq_true_eq] at hl ⊢
  omega

/-- A step that touches neither the lines nor the marks. -/
theorem Pulsed.of_cap {c d : Die} (hr : ∀ off, steadyReg off → getReg d off = getReg c off) (hk : Keeps [.regs, .cap, .fresh] c d)
    (hcap : d.cap = { c.cap with chans := d.cap.chans, ttQueue := d.cap.ttQueue }) : Pulsed c d :=
  ⟨hr, hk, by rw [hcap], by rw [hcap], by rw [hcap], by rw [hcap], by rw [hcap], fun l => by rw [hcap], fun l e h => ⟨e, Nat.le_refl e, by rw [hcap]; exact h⟩⟩

theorem Pulsed.foldl {β : Type} {f : Die → β → Die} {l : List β} (h : ∀ d, ∀ x ∈ l, Pulsed d (f d x)) (d : Die) :
    Pulsed d (l.foldl f d) := by
  induction l generalizing d with
  | nil => exact .refl d
  | cons x l ih => exact (h d x (by simp)).trans (ih (fun d y hy => h d y (by simp [hy])) _)

theorem Pulsed.ite {p : Prop} [Decidable p] {c x y : Die} (hx : Pulsed c x) (hy : Pulsed c y) : Pulsed c (if p then x else y) := by
  split <;> assumption

theorem steady_ne {b off o : Nat} (hb : b < 16) (h : trigReg b o) (hs : steadyReg off) : off ≠ o := fun he => hs b hb (he ▸ h)

section Steps

variable (d : Die) {c : Nat} (hc : c < 16)

include hc in
theorem pulsed_setFld {f : Fld} (h : trigReg c f.off) (v : Nat) : Pulsed d (setFld d f v) :=
  .of_cap (fun off hs => getReg_putReg_ne d _ (steady_ne hc h hs)) ((keeps_setFld _ _ (by simp) _ _).2 (.refl _ d)) rfl

include hc in
theorem pulsed_incReg {o : Nat} (h : trigReg c o) : Pulsed d (incReg d o) :=
  .of_cap (fun off hs => getReg_putReg_ne d _ (steady_ne hc h hs)) ((keeps_incReg _ _ (by simp) _).2 (.refl _ d)) rfl

include hc in
theorem pulsed_put64 {o : Nat} (h : trigReg c o) (h' : trigReg c (o + 4)) (x : Nat) : Pulsed d (put64 d o x) := by
  refine .of_cap (fun off hs => ?_) ((keeps_put64 _ _ (by simp) _ _).2 (.refl _ d)) rfl
  rw [put64, getReg_putReg_ne _ _ (steady_ne hc h' hs), getReg_putReg_ne _ _ (steady_ne hc h hs)]

theorem pulsed_updChan (f : Chan → Chan) : Pulsed d (updChan d c f) :=
  .of_cap (fun _ _ => rfl) ((keeps_updChan _ _ (by simp) _ _).2 (.refl _ d)) rfl

/-- The pull of a line for 100 ns (R172). -/
def pullLine (d : Die) (l t : Nat) : Die :=
  updCap d fun k =>
    { k with xtPull := vset k.xtPull l (some (max (t + 100) ((vget none k.xtPull l).getD 0))),
             xtCnt := vset k.xtCnt l (max (t + 100) (vget 0 k.xtCnt l)) }

theorem pullLine_same {l : Nat} (hl : l < 4) (t : Nat) : ∃ e, t + 100 ≤ e ∧ vget none (pullLine d l t).cap.xtPull l = some e ∧
    t + 100 ≤ vget 0 (pullLine d l t).cap.xtCnt l := by
  refine ⟨max (t + 100) ((vget none d.cap.xtPull l).getD 0), Nat.le_max_left _ _, vget_vset_same _ _ _ _ hl, ?_⟩
  rw [pullLine]
  show _ ≤ vget 0 (vset d.cap.xtCnt l _) l
  rw [vget_vset_same _ _ _ _ hl]
  exact Nat.le_max_left _ _

theorem pullLine_ne {l m : Nat} (h : m ≠ l) (t : Nat) : vget none (pullLine d l t).cap.xtPull m = vget none d.cap.xtPull m ∧
    vget 0 (pullLine d l t).cap.xtCnt m = vget 0 d.cap.xtCnt m := ⟨vget_vset_ne _ _ _ h, vget_vset_ne _ _ _ h⟩

theorem pulsed_pullLine {l : Nat} (hl : l < 4) (t : Nat) : Pulsed d (pullLine d l t) := by
  refine ⟨fun _ _ => rfl, (keeps_updCap _ _ (by simp) _).2 (.refl _ d), rfl, rfl, rfl, rfl, rfl, fun m => ?_, fun m e h => ?_⟩
  · by_cases hm : m = l
    · subst hm
      show _ ≤ vget 0 (vset d.cap.xtCnt m _) m
      rw [vget_vset_same _ _ _ _ hl]
      exact Nat.le_max_right _ _
    · rw [(pullLine_ne d hm t).2]
  · by_cases hm : m = l
    · subst hm
      refine ⟨_, ?_, vget_vset_same _ _ _ _ hl⟩
      rw [h]
      exact Nat.le_max_right _ _
    · exact ⟨e, Nat.le_refl e, by rw [(pullLine_ne d hm t).1, h]⟩

/-- The pull of a trigger's line, where the channel drives one (R172). -/
def linePulled (d : Die) (c t : Nat) : Die :=
  if flag d (Reg.CAP_CH_SRC_XTOUT c) then pullLine d (fld d (Reg.CAP_CH_SRC_XTOSEL c)) t else d

theorem sendTrigger_eq (t : Nat) : sendTrigger d c t =
    if flag (linePulled d c t) (Reg.CAP_CH_SRC_TTOUT c) then ttPost (linePulled d c t) (fld (linePulled d c t) (Reg.CAP_CH_SRC_TTOSEL c)) t
    else linePulled d c t := rfl

theorem pulsed_ttPost (n t : Nat) : Pulsed d (ttPost d n t) := by
  unfold ttPost
  exact .ite (pulsed_incReg d (c := 0) (by decide) (.inr (.inr (.inr (.inr (.inr rfl))))))
    (.of_cap (fun _ _ => rfl) ((keeps_updCap _ _ (by simp) _).2 (.refl _ d)) rfl)

theorem pulsed_linePulled (t : Nat) : Pulsed d (linePulled d c t) := by
  unfold linePulled
  exact .ite (pulsed_pullLine d (bitsOf_lt _ 13 2) t) (.refl d)

theorem pulsed_sendTrigger (t : Nat) : Pulsed d (sendTrigger d c t) := by
  rw [sendTrigger_eq]
  have h := pulsed_linePulled d (c := c) t
  exact .ite (h.trans (pulsed_ttPost _ _ _)) h

/-- The channels and their registers are not touched by what a trigger sends. -/
theorem chanH_sendTrigger (b t : Nat) : chanH (sendTrigger d c t) b = chanH d b := by
  have hline : chanH (linePulled d c t) b = chanH d b := by
    unfold linePulled
    split <;> rfl
  rw [sendTrigger_eq, ← hline]
  split
  · unfold ttPost
    split <;> rfl
  · rfl

theorem getReg_sendTrigger {off : Nat} (h : off ≠ Reg.CTR_CNT 8) (t : Nat) : getReg (sendTrigger d c t) off = getReg d off := by
  have hline : getReg (linePulled d c t) off = getReg d off := by
    unfold linePulled
    split <;> rfl
  rw [sendTrigger_eq, ← hline]
  split
  · unfold ttPost
    split
    · exact getReg_incReg_ne _ _ h
    · rfl
  · rfl

/-! The samples of a window. -/

/-- One sample of a window from the history, or a free one. -/
def histStep (hist : List (Int × Nat)) (i0 : Int) (r : List Nat × Die) (j : Int) : List Nat × Die :=
  match hist.find? fun x => x.1 == i0 + j with
  | some x => (r.1 ++ [x.2], r.2)
  | none => (r.1 ++ [(draw r.2).1.toNat % 4096], (draw r.2).2)

theorem fromHist_eq (hist : List (Int × Nat)) (next : Nat) (i0 : Int) (want : Nat) :
    ∃ l : List Int, fromHist d hist next i0 want = l.foldl (histStep hist i0) ([], d) := ⟨_, rfl⟩

theorem keeps_histStep (hist : List (Int × Nat)) (i0 : Int) (r : List Nat × Die) (j : Int) : Keeps [.fresh] r.2 (histStep hist i0 r j).2 := by
  unfold histStep
  split
  · exact .refl _ r.2
  · exact (keeps_fresh _ _ (by simp) _).2 (.refl _ r.2)

theorem keeps_fromHist (hist : List (Int × Nat)) (next : Nat) (i0 : Int) (want : Nat) : Keeps [.fresh] d (fromHist d hist next i0 want).2 := by
  obtain ⟨l, heq⟩ := fromHist_eq d hist next i0 want
  rw [heq]
  have h : ∀ (l : List Int) (r : List Nat × Die), Keeps [.fresh] r.2 (l.foldl (histStep hist i0) r).2 := fun l => by
    induction l with
    | nil => exact fun r => .refl _ r.2
    | cons j l ih => exact fun r => (keeps_histStep hist i0 r j).trans (ih _)
  exact h l ([], d)

/-! One trigger at one channel. -/

/-- The window that a trigger begins. -/
def acqOf (d : Die) (c t it : Nat) : Acq :=
  let i0 : Int := (it : Int) - winPre d c
  let r := fromHist d (markH d (fld d (Reg.CAP_CH_SRC_MKSEL c))).hist d.cap.next i0 (winPre d c + winPost d c)
  { seq := fld d (Reg.CAP_CH_WRSEQ_SEQ c), tTrig := t, i0 := i0, want := winPre d c + winPost d c, samples := r.1,
    afterOvf := (chanH d c).afterOvf, due := 0, dueBeat := 0, nextI := i0 + r.1.length, beats := 0, first := (chanH d c).fresh }

/-- The free samples of that window drawn. -/
def drawn (d : Die) (c it : Nat) : Die :=
  (fromHist d (markH d (fld d (Reg.CAP_CH_SRC_MKSEL c))).hist d.cap.next ((it : Int) - winPre d c) (winPre d c + winPost d c)).2

/-- The channel begins a window (R176, R178). -/
def chanTaken (d : Die) (c t it : Nat) : Die :=
  updChan (setFld (setCh (drawn d c it) c 2) (Reg.CAP_CH_WRSEQ_SEQ c) (fld d (Reg.CAP_CH_WRSEQ_SEQ c) + 1)) c fun h =>
    { h with acq := some { acqOf d c t it with afterOvf := h.afterOvf, first := h.fresh }, afterOvf := false, fresh := false }

/-- The channel stops with the GT of the trigger that found no free slot (R178). -/
def chanFull (d : Die) (c t : Nat) : Die := put64 (setFld (setCh d c 3) (Reg.CAP_CH_STAT_OVF c) 1) (Reg.CAP_CH_OVF_GT c) t

theorem triggerChan_gated {d : Die} (h : gateOk d c = false) (t it : Nat) : triggerChan d c t it = d := by
  unfold triggerChan
  rw [if_pos h]

theorem triggerChan_ignored {d : Die} {it : Nat} (hg : gateOk d c = true) (h : chState d c = 2 ∨ (chState d c = 1 ∧ inHoldoff d c it = true))
    (t : Nat) : triggerChan d c t it = incReg d (Reg.CAP_CH_CNT_IGN c) := by
  unfold triggerChan
  rw [if_neg (by simp [hg]), if_pos h]

theorem triggerChan_idle {d : Die} (h1 : chState d c ≠ 1) (h2 : chState d c ≠ 2) (t it : Nat) : triggerChan d c t it = d := by
  unfold triggerChan
  extract_lets st
  by_cases hg : gateOk d c = false
  · rw [if_pos hg]
  · rw [if_neg hg, if_neg (show ¬ (st = 2 ∨ (st = 1 ∧ inHoldoff d c it = true)) by simp [st, h1, h2]), if_pos (show st ≠ 1 from h1)]

theorem triggerChan_full {d : Die} {it : Nat} (h1 : chState d c = 1) (hh : inHoldoff d c it = false) (hg : gateOk d c = true)
    (hs : slotFree d c = false) (t : Nat) : triggerChan d c t it = sendTrigger (chanFull d c t) c t := by
  unfold triggerChan
  rw [if_neg (by simp [hg]), if_neg (by simp [h1, hh]), if_neg (by simp [h1]), if_pos (by simp [hs])]
  rfl

theorem triggerChan_ready {d : Die} {it : Nat} (h : channelReady d c it) (t : Nat) :
    triggerChan d c t it = sendTrigger (chanTaken d c t it) c t := by
  obtain ⟨h1, hh, hg, hs⟩ := h
  unfold triggerChan
  rw [if_neg (by simp [hg]), if_neg (by simp [h1, hh]), if_neg (by simp [h1]), if_neg (by simp [hs])]
  rfl

/-- What a trigger can do to its channel. -/
theorem triggerChan_cases (t it : Nat) : triggerChan d c t it = d ∨ triggerChan d c t it = incReg d (Reg.CAP_CH_CNT_IGN c) ∨
    (chState d c = 1 ∧ triggerChan d c t it = sendTrigger (chanFull d c t) c t) ∨
    (channelReady d c it ∧ triggerChan d c t it = sendTrigger (chanTaken d c t it) c t) := by
  by_cases hg : gateOk d c = true
  · by_cases h2 : chState d c = 2
    · exact .inr (.inl (triggerChan_ignored hg (.inl h2) t))
    · by_cases h1 : chState d c = 1
      · by_cases hh : inHoldoff d c it = true
        · exact .inr (.inl (triggerChan_ignored hg (.inr ⟨h1, hh⟩) t))
        · have hh' : inHoldoff d c it = false := by simpa using hh
          by_cases hs : slotFree d c = true
          · exact .inr (.inr (.inr ⟨⟨h1, hh', hg, hs⟩, triggerChan_ready ⟨h1, hh', hg, hs⟩ t⟩))
          · exact .inr (.inr (.inl ⟨h1, triggerChan_full h1 hh' hg (by simpa using hs) t⟩))
      · exact .inl (triggerChan_idle h1 h2 t it)
  · exact .inl (triggerChan_gated (by simpa using hg) t it)

include hc

theorem pulsed_chanFull (t : Nat) : Pulsed d (chanFull d c t) := by
  unfold chanFull setCh
  exact ((pulsed_setFld d hc (f := Reg.CAP_CH_STAT_STATE c) (.inl rfl) 3).trans
    (pulsed_setFld _ hc (f := Reg.CAP_CH_STAT_OVF c) (.inl rfl) 1)).trans
    (pulsed_put64 _ hc (.inr (.inr (.inr (.inl rfl)))) (.inr (.inr (.inr (.inr (.inl rfl))))) t)

theorem pulsed_chanTaken (t it : Nat) : Pulsed d (chanTaken d c t it) := by
  have hdrawn : Keeps [.fresh] d (drawn d c it) := keeps_fromHist _ _ _ _ _
  have h1 : Pulsed d (drawn d c it) := .of_cap (fun off _ => by rw [getReg, hdrawn .regs (by simp), getReg]) (hdrawn.mono (by simp)) (by
    have hcap : (drawn d c it).cap = d.cap := hdrawn .cap (by simp)
    rw [hcap])
  unfold chanTaken setCh
  exact ((h1.trans (pulsed_setFld _ hc (f := Reg.CAP_CH_STAT_STATE c) (.inl rfl) 2)).trans
    (pulsed_setFld _ hc (f := Reg.CAP_CH_WRSEQ_SEQ c) (.inr (.inl rfl)) _)).trans (pulsed_updChan _ _)

theorem pulsed_triggerChan (t it : Nat) : Pulsed d (triggerChan d c t it) := by
  obtain h | h | ⟨-, h⟩ | ⟨-, h⟩ := triggerChan_cases d (c := c) t it <;> rw [h]
  · exact .refl d
  · exact pulsed_incReg d hc (.inr (.inr (.inl rfl)))
  · exact (pulsed_chanFull d hc t).trans (pulsed_sendTrigger _ t)
  · exact (pulsed_chanTaken d hc t it).trans (pulsed_sendTrigger _ t)

end Steps

/-! A channel that another's trigger leaves aside. -/

/-- Channel `c` is as it was. -/
structure Aside (c : Nat) (x d : Die) : Prop where
  regs : ∀ off, chanBlock c off → getReg d off = getReg x off
  chan : chanH d c = chanH x c

theorem Aside.refl (c : Nat) (d : Die) : Aside c d d := ⟨fun _ _ => rfl, rfl⟩

theorem Aside.trans {c : Nat} {x d e : Die} (h : Aside c x d) (h' : Aside c d e) : Aside c x e :=
  ⟨fun off ho => (h'.regs off ho).trans (h.regs off ho), h'.chan.trans h.chan⟩

theorem Aside.fld {c : Nat} {x d : Die} (h : Aside c x d) {f : Fld} (hf : chanBlock c f.off) : fld d f = fld x f := fld_congr (h.regs _ hf)

theorem chanBlock_words (c : Nat) : chanBlock c (Reg.CAP_CH_STAT c) ∧ chanBlock c (Reg.CAP_CH_WRSEQ c) ∧ chanBlock c (Reg.CAP_CH_FREESEQ c) ∧
    chanBlock c (Reg.CAP_CH_NSLOT c) ∧ chanBlock c (Reg.CAP_CH_RPT c) ∧ chanBlock c (Reg.CAP_CH_REF c) ∧ chanBlock c (Reg.CAP_CH_GLO c) ∧
    chanBlock c (Reg.CAP_CH_GHI c) ∧ chanBlock c (Reg.CAP_CH_RECLEN c) ∧ chanBlock c (Reg.CAP_CH_WIN c) ∧ chanBlock c (Reg.CAP_CH_SRC c) := by
  simp only [chanBlock, Reg.CAP_CH_STAT, Reg.CAP_CH_WRSEQ, Reg.CAP_CH_FREESEQ, Reg.CAP_CH_NSLOT, Reg.CAP_CH_RPT, Reg.CAP_CH_REF,
    Reg.CAP_CH_GLO, Reg.CAP_CH_GHI, Reg.CAP_CH_RECLEN, Reg.CAP_CH_WIN, Reg.CAP_CH_SRC]
  omega

theorem Aside.state {c : Nat} {x d : Die} (h : Aside c x d) : chState d c = chState x c :=
  h.fld (f := Reg.CAP_CH_STAT_STATE c) (chanBlock_words c).1

theorem Aside.window {c : Nat} {x d : Die} (h : Aside c x d) :
    Machine.fld d (Reg.CAP_CH_WRSEQ_SEQ c) = Machine.fld x (Reg.CAP_CH_WRSEQ_SEQ c) ∧
    winPre d c = winPre x c ∧ winPost d c = winPost x c := by
  obtain ⟨-, hwr, -, -, -, -, -, -, -, hwin, -⟩ := chanBlock_words c
  exact ⟨h.fld (f := Reg.CAP_CH_WRSEQ_SEQ c) hwr, h.fld (f := Reg.CAP_CH_WIN_PRE c) hwin, h.fld (f := Reg.CAP_CH_WIN_POST c) hwin⟩

/-- Whether a channel can take a trigger turns on the channel alone. -/
theorem Aside.ready {c it : Nat} {x d : Die} (h : Aside c x d) (hr : channelReady x c it) : channelReady d c it := by
  obtain ⟨h1, hh, hg, hs⟩ := hr
  obtain ⟨hstat, hwr, hfree, hslot, hrpt, href, hlo, hhi, hlen, -, -⟩ := chanBlock_words c
  refine ⟨h.state.trans h1, ?_, ?_, ?_⟩
  · rw [← hh, inHoldoff, inHoldoff, h.chan, h.fld (f := Reg.CAP_CH_RECLEN_HOLDOFF c) hlen]
  · rw [← hg, gateOk, gateOk, h.chan, h.regs _ hrpt, h.regs _ hlo, h.regs _ hhi]
    simp only [flag_congr (f := Reg.CAP_CH_REF_GATE_EN c) (h.regs _ href)]
  · rw [← hs, slotFree, slotFree, h.chan, h.regs _ hslot, h.fld (f := Reg.CAP_CH_WRSEQ_SEQ c) hwr,
      h.fld (f := Reg.CAP_CH_FREESEQ_SEQ c) hfree]

theorem not_trigReg_block {b c off : Nat} (h : chanBlock c off) (hbc : b ≠ c) : ¬ trigReg b off := fun ht => trigReg_other ht hbc h

theorem block_ne_count {c off : Nat} (h : chanBlock c off) : off ≠ Reg.CTR_CNT 8 := by
  simp only [chanBlock, Reg.CTR_CNT] at h ⊢
  omega

theorem Aside.sent {b c : Nat} {x d : Die} (h : Aside c x d) (t : Nat) : Aside c x (sendTrigger d b t) :=
  ⟨fun off ho => (getReg_sendTrigger d (block_ne_count ho) t).trans (h.regs off ho), (chanH_sendTrigger d c t).trans h.chan⟩

section Others

variable (d : Die) {b c : Nat} (hbc : b ≠ c)
include hbc

theorem aside_setFld {f : Fld} (h : trigReg b f.off) (v : Nat) : Aside c d (setFld d f v) :=
  ⟨fun _ ho => getReg_putReg_ne d _ fun he => not_trigReg_block ho hbc (he ▸ h), rfl⟩

theorem aside_incReg {o : Nat} (h : trigReg b o) : Aside c d (incReg d o) :=
  ⟨fun _ ho => getReg_putReg_ne d _ fun he => not_trigReg_block ho hbc (he ▸ h), rfl⟩

theorem aside_put64 {o : Nat} (h : trigReg b o) (h' : trigReg b (o + 4)) (x : Nat) : Aside c d (put64 d o x) :=
  ⟨fun off ho => by
    have hlo : off ≠ o := fun he => not_trigReg_block ho hbc (he ▸ h)
    have hhi : off ≠ o + 4 := fun he => not_trigReg_block ho hbc (he ▸ h')
    rw [put64, getReg_putReg_ne _ _ hhi, getReg_putReg_ne _ _ hlo], rfl⟩

theorem aside_updChan (f : Chan → Chan) : Aside c d (updChan d b f) := ⟨fun _ _ => rfl, chanH_updChan_ne d f hbc.symm⟩

theorem aside_chanFull (t : Nat) : Aside c d (chanFull d b t) := by
  unfold chanFull setCh
  exact ((aside_setFld d hbc (f := Reg.CAP_CH_STAT_STATE b) (.inl rfl) 3).trans
    (aside_setFld _ hbc (f := Reg.CAP_CH_STAT_OVF b) (.inl rfl) 1)).trans
    (aside_put64 _ hbc (.inr (.inr (.inr (.inl rfl)))) (.inr (.inr (.inr (.inr (.inl rfl))))) t)

theorem aside_chanTaken (t it : Nat) : Aside c d (chanTaken d b t it) := by
  have hdrawn : Keeps [.fresh] d (drawn d b it) := keeps_fromHist _ _ _ _ _
  have h1 : Aside c d (drawn d b it) := ⟨fun off _ => by rw [getReg, hdrawn .regs (by simp), getReg], by
    rw [chanH, hdrawn .cap (by simp), chanH]⟩
  unfold chanTaken setCh
  exact ((h1.trans (aside_setFld _ hbc (f := Reg.CAP_CH_STAT_STATE b) (.inl rfl) 2)).trans
    (aside_setFld _ hbc (f := Reg.CAP_CH_WRSEQ_SEQ b) (.inr (.inl rfl)) _)).trans (aside_updChan _ hbc _)

theorem aside_triggerChan (t it : Nat) : Aside c d (triggerChan d b t it) := by
  obtain h | h | ⟨-, h⟩ | ⟨-, h⟩ := triggerChan_cases d (c := b) t it <;> rw [h]
  · exact .refl c d
  · exact aside_incReg d hbc (.inr (.inr (.inl rfl)))
  · exact (aside_chanFull d hbc t).sent t
  · exact (aside_chanTaken d hbc t it).sent t

end Others

/-! A channel that is not ARMED. -/

/-- The state, the record number and the window of channel `c` stand. -/
structure Settled (c : Nat) (x d : Die) : Prop where
  stat : getReg d (Reg.CAP_CH_STAT c) = getReg x (Reg.CAP_CH_STAT c)
  seq : getReg d (Reg.CAP_CH_WRSEQ c) = getReg x (Reg.CAP_CH_WRSEQ c)
  gt : get64 d (Reg.CAP_CH_OVF_GT c) = get64 x (Reg.CAP_CH_OVF_GT c)
  chan : chanH d c = chanH x c

theorem Settled.refl (c : Nat) (d : Die) : Settled c d d := ⟨rfl, rfl, rfl, rfl⟩

theorem Settled.trans {c : Nat} {x d e : Die} (h : Settled c x d) (h' : Settled c d e) : Settled c x e :=
  ⟨h'.stat.trans h.stat, h'.seq.trans h.seq, h'.gt.trans h.gt, h'.chan.trans h.chan⟩

theorem Aside.settled {c : Nat} {x d : Die} (h : Aside c x d) : Settled c x d := by
  obtain ⟨hstat, hseq, -⟩ := chanBlock_words c
  refine ⟨h.regs _ hstat, h.regs _ hseq, ?_, h.chan⟩
  rw [get64, h.regs _ (by simp only [chanBlock, Reg.CAP_CH_OVF_GT]; omega), h.regs _ (by simp only [chanBlock, Reg.CAP_CH_OVF_GT]; omega), get64]

theorem Settled.state {c : Nat} {x d : Die} (h : Settled c x d) : chState d c = chState x c := fld_congr (f := Reg.CAP_CH_STAT_STATE c) h.stat

/-- A trigger leaves the window of a channel that is not ARMED. -/
theorem settled_triggerChan {d : Die} {c : Nat} (h1 : chState d c ≠ 1) (b t it : Nat) : Settled c d (triggerChan d b t it) := by
  by_cases hbc : b = c
  · subst hbc
    obtain h | h | ⟨hst, -⟩ | ⟨⟨hst, -⟩, -⟩ := triggerChan_cases d (c := b) t it
    · rw [h]
      exact .refl b d
    · rw [h]
      have hne : ∀ off, off ≠ Reg.CAP_CH_CNT_IGN b → getReg (incReg d (Reg.CAP_CH_CNT_IGN b)) off = getReg d off := fun off ho =>
        getReg_incReg_ne d _ ho
      refine ⟨hne _ ?_, hne _ ?_, ?_, rfl⟩
      · simp only [Reg.CAP_CH_STAT, Reg.CAP_CH_CNT_IGN]
        omega
      · simp only [Reg.CAP_CH_WRSEQ, Reg.CAP_CH_CNT_IGN]
        omega
      · rw [get64, hne _ (by simp only [Reg.CAP_CH_OVF_GT, Reg.CAP_CH_CNT_IGN]; omega),
          hne _ (by simp only [Reg.CAP_CH_OVF_GT, Reg.CAP_CH_CNT_IGN]; omega), get64]
    · exact absurd hst h1
    · exact absurd hst h1
  · exact (aside_triggerChan d hbc t it).settled

/-! The window that begins. -/

/-- Channel `c`, as `x` found it, acquires the window of a trigger at `t`, sample `it` (R176, R178). -/
def Acquires (x : Die) (c t it : Nat) (d : Die) : Prop :=
  chState d c = 2 ∧ fld d (Reg.CAP_CH_WRSEQ_SEQ c) = (fld x (Reg.CAP_CH_WRSEQ_SEQ c) + 1) % 2 ^ 28 ∧
    ∃ a, (chanH d c).acq = some a ∧ a.seq = fld x (Reg.CAP_CH_WRSEQ_SEQ c) ∧ a.tTrig = t ∧ a.want = winPre x c + winPost x c ∧
      a.i0 = (it : Int) - winPre x c

theorem Acquires.settled {x d e : Die} {c t it : Nat} (h : Acquires x c t it d) (h' : Settled c d e) : Acquires x c t it e := by
  rw [Acquires, h'.state, fld_congr (f := Reg.CAP_CH_WRSEQ_SEQ c) h'.seq, h'.chan]
  exact h

theorem Acquires.triggerChan {x d : Die} {c t it : Nat} (h : Acquires x c t it d) (b t' it' : Nat) :
    Acquires x c t it (Machine.triggerChan d b t' it') :=
  h.settled (settled_triggerChan (by rw [h.1]; decide) b t' it')

/-- The registers of a channel that begins a window. -/
def takenRegs (d : Die) (c seq : Nat) : Die := setFld (setFld d (Reg.CAP_CH_STAT_STATE c) 2) (Reg.CAP_CH_WRSEQ_SEQ c) (seq + 1)

theorem takenRegs_spec (d : Die) (c seq : Nat) : fld (takenRegs d c seq) (Reg.CAP_CH_STAT_STATE c) = 2 ∧
    fld (takenRegs d c seq) (Reg.CAP_CH_WRSEQ_SEQ c) = (seq + 1) % 2 ^ 28 := by
  have hne : (Reg.CAP_CH_STAT_STATE c).off ≠ (Reg.CAP_CH_WRSEQ_SEQ c).off := by
    show 0x0F104 + c * 0x80 ≠ 0x0F154 + c * 0x80
    omega
  unfold takenRegs
  refine ⟨?_, fld_setFld_same _ (Reg.CAP_CH_WRSEQ_SEQ c) _ (show 0 + 28 ≤ 32 by decide)⟩
  rw [fld_setFld_ne _ _ _ _ hne, fld_setFld_same d (Reg.CAP_CH_STAT_STATE c) 2 (show 0 + 3 ≤ 32 by decide)]
  rfl

theorem regs_chanTaken (d : Die) (c t it : Nat) :
    (chanTaken d c t it).regs = (takenRegs (drawn d c it) c (fld d (Reg.CAP_CH_WRSEQ_SEQ c))).regs := rfl

/-- A channel that can take the trigger begins its window. -/
theorem acquires_triggerChan {x d : Die} {c it : Nat} (hc : c < 16) (hx : Aside c x d) (hr : channelReady x c it) (t : Nat) :
    Acquires x c t it (triggerChan d c t it) := by
  obtain ⟨hseq, hpre, hpost⟩ := hx.window
  rw [triggerChan_ready (hx.ready hr) t]
  have hsend : ∀ off, chanBlock c off → getReg (sendTrigger (chanTaken d c t it) c t) off =
      getReg (takenRegs (drawn d c it) c (fld d (Reg.CAP_CH_WRSEQ_SEQ c))) off := fun off ho => by
    rw [getReg_sendTrigger _ (block_ne_count ho) t, getReg, regs_chanTaken, getReg]
  obtain ⟨hstat, hwr, -⟩ := chanBlock_words c
  obtain ⟨hstate, hnext⟩ := takenRegs_spec (drawn d c it) c (fld d (Reg.CAP_CH_WRSEQ_SEQ c))
  refine ⟨(fld_congr (f := Reg.CAP_CH_STAT_STATE c) (hsend _ hstat)).trans hstate, ?_, ?_⟩
  · rw [fld_congr (f := Reg.CAP_CH_WRSEQ_SEQ c) (hsend _ hwr), hnext, hseq]
  · rw [chanH_sendTrigger, chanTaken, chanH_updChan_same _ _ _ hc]
    exact ⟨_, rfl, hseq, rfl, by rw [← hpre, ← hpost]; rfl, by rw [← hpre]; rfl⟩

/-- The channel waits for its turn, or has had it. -/
def Turned (x : Die) (c t it : Nat) (d : Die) : Prop := Aside c x d ∨ Acquires x c t it d

theorem Turned.triggerChan {x d : Die} {c t it : Nat} (h : Turned x c t it d) (hc : c < 16) (hr : channelReady x c it) {b t' it' : Nat}
    (hsame : b = c → t' = t ∧ it' = it) : Turned x c t it (Machine.triggerChan d b t' it') := by
  obtain h | h := h
  · by_cases hbc : b = c
    · obtain ⟨rfl, rfl⟩ := hsame hbc
      subst hbc
      exact .inr (acquires_triggerChan hc h hr _)
    · exact .inl (h.trans (aside_triggerChan d hbc t' it'))
  · exact .inr (h.triggerChan b t' it')

/-- Its own turn. -/
theorem Turned.own {x d : Die} {c t it : Nat} (h : Turned x c t it d) (hc : c < 16) (hr : channelReady x c it) :
    Acquires x c t it (Machine.triggerChan d c t it) := by
  obtain h | h := h
  · exact acquires_triggerChan hc h hr _
  · exact h.triggerChan c t it

end Sys2Proof.Machine
end

section
/-! PROOFS. The triggers of the capture engine with the pulses they make (R172), and the commands that bring them (R171 to R175). -/

namespace Sys2Proof.Machine

open Sys2Proof

/-! Own pulses. -/

/-- The channels of line `l` take its pulse. -/
def lineTriggers (t : Nat) (d : Die) (l : Nat) : Die :=
  forEach (xtChans d l) d fun d c => triggerChan d c (pinStamp t) (cdiv (pinStamp t) 50)

/-- The lines that fall at `t` between two states. -/
def fallen (old : Die) (t : Nat) (d : Die) : List Nat := (upto 4).filter fun l => !xtCounts old l t && xtCounts d l t

theorem ownPulses_succ (n : Nat) (old : Die) (t : Nat) (d : Die) : ownPulses (n + 1) old t d =
    if (fallen old t d).isEmpty then d else ownPulses n d t ((fallen old t d).foldl (lineTriggers t) d) := rfl

theorem mem_xtChans {d : Die} {l b : Nat} : b ∈ xtChans d l ↔
    b < 16 ∧ fld d (Reg.CAP_CH_SRC_TSRC b) = 3 ∧ fld d (Reg.CAP_CH_SRC_TSEL b) = l := by
  rw [xtChans, List.mem_filter, mem_upto]
  simp

/-- Where no line falls there are no pulses. -/
theorem ownPulses_idle {n : Nat} {old d : Die} {t : Nat} (h : ∀ l, xtCounts d l t = xtCounts old l t) : ownPulses n old t d = d := by
  cases n with
  | zero => rfl
  | succ n =>
    have hnone : fallen old t d = [] := List.filter_eq_nil_iff.2 fun l _ => by rw [h l]; simp
    rw [ownPulses_succ, hnone]
    rfl

section Induct

variable {x : Die} {t : Nat} {P : Die → Prop}

/-- What every trigger of a channel on a line keeps, the pulses keep. -/
theorem lineTriggers_induct
    (hP : ∀ d b, b < 16 → Pulsed x d → fld x (Reg.CAP_CH_SRC_TSRC b) = 3 → P d → P (triggerChan d b (pinStamp t) (cdiv (pinStamp t) 50)))
    {d : Die} (l : Nat) (hx : Pulsed x d) (h : P d) : Pulsed x (lineTriggers t d l) ∧ P (lineTriggers t d l) := by
  unfold lineTriggers forEach
  have hmem : ∀ b ∈ xtChans d l, b < 16 ∧ fld x (Reg.CAP_CH_SRC_TSRC b) = 3 := fun b hb => by
    obtain ⟨hlt, hsrc, -⟩ := mem_xtChans.1 hb
    exact ⟨hlt, (hx.fld (f := Reg.CAP_CH_SRC_TSRC b) steady_src).symm.trans hsrc⟩
  generalize xtChans d l = cs at hmem
  induction cs generalizing d with
  | nil => exact ⟨hx, h⟩
  | cons b cs ih =>
    obtain ⟨hlt, hsrc⟩ := hmem b (by simp)
    exact ih (hx.trans (pulsed_triggerChan d hlt _ _)) (hP d b hlt hx hsrc h) fun c hc => hmem c (by simp [hc])

theorem foldLines_induct
    (hP : ∀ d b, b < 16 → Pulsed x d → fld x (Reg.CAP_CH_SRC_TSRC b) = 3 → P d → P (triggerChan d b (pinStamp t) (cdiv (pinStamp t) 50)))
    (ls : List Nat) {d : Die} (hx : Pulsed x d) (h : P d) : Pulsed x (ls.foldl (lineTriggers t) d) ∧ P (ls.foldl (lineTriggers t) d) := by
  induction ls generalizing d with
  | nil => exact ⟨hx, h⟩
  | cons l ls ih =>
    obtain ⟨hx', h'⟩ := lineTriggers_induct hP l hx h
    exact ih hx' h'

theorem ownPulses_induct
    (hP : ∀ d b, b < 16 → Pulsed x d → fld x (Reg.CAP_CH_SRC_TSRC b) = 3 → P d → P (triggerChan d b (pinStamp t) (cdiv (pinStamp t) 50)))
    (n : Nat) (old : Die) {d : Die} (hx : Pulsed x d) (h : P d) : Pulsed x (ownPulses n old t d) ∧ P (ownPulses n old t d) := by
  induction n generalizing old d with
  | zero => exact ⟨hx, h⟩
  | succ n ih =>
    rw [ownPulses_succ]
    split
    · exact ⟨hx, h⟩
    · obtain ⟨hx', h'⟩ := foldLines_induct hP (fallen old t d) hx h
      exact ih d hx' h'

end Induct

theorem pulsed_ownPulses (n : Nat) (old : Die) (t : Nat) (d : Die) : Pulsed d (ownPulses n old t d) :=
  (ownPulses_induct (x := d) (P := fun _ => True) (fun _ _ _ _ _ _ => trivial) n old (.refl d) trivial).1

theorem pulsed_trigger (d : Die) {b : Nat} (hb : b < 16) (t it : Nat) : Pulsed d (trigger d b t it) :=
  (pulsed_triggerChan d hb t it).trans (pulsed_ownPulses _ _ _ _)

/-- The turn of a channel comes with the trigger at it, or with a pulse of the same instant. -/
theorem Turned.trigger {x d : Die} {c t it : Nat} (h : Turned x c t it d) (hc : c < 16) (hr : channelReady x c it) (hx : Pulsed x d)
    (hpulse : fld x (Reg.CAP_CH_SRC_TSRC c) = 3 → pinStamp t = t ∧ cdiv t 50 = it) {b : Nat} (hb : b < 16) :
    Turned x c t it (Machine.trigger d b t it) ∧ (b = c → Acquires x c t it (Machine.trigger d b t it)) := by
  have hstart : Turned x c t it (Machine.triggerChan d b t it) := h.triggerChan hc hr fun _ => ⟨rfl, rfl⟩
  have hx' := hx.trans (pulsed_triggerChan d hb t it)
  refine ⟨(ownPulses_induct (x := x) (P := Turned x c t it) (fun e b' _ _ hsrc he => he.triggerChan hc hr fun hbc => ?_) 4 d hx' hstart).2,
    fun hbc => ?_⟩
  · obtain ⟨hp, hi⟩ := hpulse (hbc ▸ hsrc)
    rw [hp, hi]
    exact ⟨rfl, rfl⟩
  · subst hbc
    exact (ownPulses_induct (x := x) (P := Acquires x b t it) (fun e b' _ _ _ he => he.triggerChan b' _ _) 4 d hx' (h.own hc hr)).2

/-- Triggers at one instant for several channels, each of which the choice `p` names: the channel `c` among them acquires. -/
theorem acquires_foldl {x d : Die} {c t it : Nat} {p : Die → Nat → Bool} {l : List Nat} (hl : ∀ b ∈ l, b < 16) (hcl : c ∈ l)
    (hp : ∀ e, Pulsed x e → p e c = true) (hr : channelReady x c it)
    (hpulse : fld x (Reg.CAP_CH_SRC_TSRC c) = 3 → pinStamp t = t ∧ cdiv t 50 = it) (hx : Pulsed x d) (h : Turned x c t it d) :
    Acquires x c t it (l.foldl (fun d b => if p d b then trigger d b t it else d) d) := by
  have hc := hl c hcl
  have key := foldl_reaches (f := fun d b => if p d b then trigger d b t it else d) (I := fun e => Pulsed x e ∧ Turned x c t it e)
    (P := fun e => Pulsed x e ∧ Acquires x c t it e) hcl (fun e b hb ⟨he, ht⟩ => ?_) (fun e b hb ⟨he, ht⟩ => ?_)
    (fun e ⟨he, ht⟩ => ?_) ⟨hx, h⟩
  · exact key.2
  · split
    · exact ⟨he.trans (pulsed_trigger e (hl b hb) t it), (ht.trigger hc hr he hpulse (hl b hb)).1⟩
    · exact ⟨he, ht⟩
  · split
    · refine ⟨he.trans (pulsed_trigger e (hl b hb) t it), ?_⟩
      exact (ownPulses_induct (x := x) (P := Acquires x c t it) (fun e b' _ _ _ h => h.triggerChan b' _ _) 4 e
        (he.trans (pulsed_triggerChan e (hl b hb) t it)) (ht.triggerChan b t it)).2
    · exact ⟨he, ht⟩
  · rw [if_pos (hp e he)]
    exact ⟨he.trans (pulsed_trigger e hc t it), (ht.trigger hc hr he hpulse hc).2 rfl⟩

/-! The rule of one trigger (R172, R177, R178). -/

theorem trigger_of_idle {d : Die} {c t it : Nat} (h : ∀ l, xtCounts (triggerChan d c t it) l t = xtCounts d l t) :
    trigger d c t it = triggerChan d c t it := ownPulses_idle h

theorem trigger_gated {d : Die} {c : Nat} (h : gateOk d c = false) (t it : Nat) : trigger d c t it = d := by
  have heq := triggerChan_gated h t it
  rw [trigger_of_idle (by rw [heq]; exact fun _ => rfl), heq]

theorem trigger_ignored {d : Die} {c it : Nat} (hg : gateOk d c = true) (h : chState d c = 2) (t : Nat) :
    trigger d c t it = incReg d (Reg.CAP_CH_CNT_IGN c) := by
  have heq := triggerChan_ignored (it := it) hg (.inl h) t
  rw [trigger_of_idle (by rw [heq]; exact fun _ => rfl), heq]

theorem cap_ttPost {d : Die} (h : d.cap.ttQueue.length < 16) (n t : Nat) : (ttPost d n t).cap.ttQueue = d.cap.ttQueue ++ [(n, t)] := by
  rw [ttPost, if_neg (by omega)]
  rfl

/-- What a trigger that finds no free slot leaves of its channel (R178). -/
theorem chanFull_spec (d : Die) (c t : Nat) : chState (chanFull d c t) c = 3 ∧ fld (chanFull d c t) (Reg.CAP_CH_STAT_OVF c) = 1 ∧
    get64 (chanFull d c t) (Reg.CAP_CH_OVF_GT c) = t % 2 ^ 64 := by
  unfold chanFull
  generalize hset : setFld (setCh d c 3) (Reg.CAP_CH_STAT_OVF c) 1 = e
  have hl : Leaves (fun off => off = Reg.CAP_CH_OVF_GT c ∨ off = Reg.CAP_CH_OVF_GT c + 4) e (put64 e (Reg.CAP_CH_OVF_GT c) t) :=
    (leaves_put64 (p := fun off => off = Reg.CAP_CH_OVF_GT c ∨ off = Reg.CAP_CH_OVF_GT c + 4) _ _ (.inl rfl) (.inr rfl) t).2 (.refl _ e)
  have hne : ¬ (Reg.CAP_CH_STAT c = Reg.CAP_CH_OVF_GT c ∨ Reg.CAP_CH_STAT c = Reg.CAP_CH_OVF_GT c + 4) := by
    simp only [Reg.CAP_CH_STAT, Reg.CAP_CH_OVF_GT]
    omega
  refine ⟨?_, ?_, get64_put64 _ _ _⟩
  · rw [chState, fld_of_leaves hl (Reg.CAP_CH_STAT_STATE c) hne, ← hset]
    exact (fld_setFld_below _ (Reg.CAP_CH_STAT_STATE c) (Reg.CAP_CH_STAT_OVF c) 1 rfl (show 0 + 3 ≤ 3 by decide)
      (show 3 + 2 ≤ 32 by decide)).trans (fld_setFld_same d (Reg.CAP_CH_STAT_STATE c) 3 (show 0 + 3 ≤ 32 by decide))
  · rw [fld_of_leaves hl (Reg.CAP_CH_STAT_OVF c) hne, ← hset]
    exact fld_setFld_same _ (Reg.CAP_CH_STAT_OVF c) 1 (show 3 + 2 ≤ 32 by decide)

theorem settled_sendTrigger (d : Die) (b c t : Nat) : Settled c d (sendTrigger d b t) := ((Aside.refl c d).sent (b := b) t).settled

theorem trigger_full {d : Die} {c t it : Nat} (hc : c < 16) (h1 : chState d c = 1) (hh : inHoldoff d c it = false) (hg : gateOk d c = true)
    (hs : slotFree d c = false) : chState (trigger d c t it) c = 3 ∧ fld (trigger d c t it) (Reg.CAP_CH_STAT_OVF c) = 1 ∧
      get64 (trigger d c t it) (Reg.CAP_CH_OVF_GT c) = t % 2 ^ 64 ∧
      (flag d (Reg.CAP_CH_SRC_XTOUT c) = false → flag d (Reg.CAP_CH_SRC_TTOUT c) = true → d.cap.ttQueue.length < 16 →
        (trigger d c t it).cap.ttQueue = d.cap.ttQueue ++ [(fld d (Reg.CAP_CH_SRC_TTOSEL c), t)]) := by
  have heq : triggerChan d c t it = sendTrigger (chanFull d c t) c t := triggerChan_full h1 hh hg hs t
  obtain ⟨hstate, hovf, hgt⟩ := chanFull_spec d c t
  have hsent := settled_sendTrigger (chanFull d c t) c c t
  have hkept : Settled c (chanFull d c t) (trigger d c t it) := by
    rw [trigger, heq]
    exact (ownPulses_induct (x := sendTrigger (chanFull d c t) c t) (P := Settled c (chanFull d c t)) (fun e b _ _ _ he =>
      he.trans (settled_triggerChan (by rw [he.state, hstate]; decide) b _ _)) 4 d (.refl _) hsent).2
  refine ⟨hkept.state.trans hstate, (fld_congr (f := Reg.CAP_CH_STAT_OVF c) hkept.stat).trans hovf, hkept.gt.trans hgt, fun hxt htt hq => ?_⟩
  have hpulsed := pulsed_chanFull d hc t
  have hline : linePulled (chanFull d c t) c t = chanFull d c t :=
    if_neg (by rw [hpulsed.flag (f := Reg.CAP_CH_SRC_XTOUT c) steady_src, hxt]; decide)
  have hsend : sendTrigger (chanFull d c t) c t = ttPost (chanFull d c t) (fld d (Reg.CAP_CH_SRC_TTOSEL c)) t := by
    rw [sendTrigger_eq, hline, if_pos (by rw [hpulsed.flag (f := Reg.CAP_CH_SRC_TTOUT c) steady_src, htt]),
      hpulsed.fld (f := Reg.CAP_CH_SRC_TTOSEL c) steady_src]
  have hroom : (chanFull d c t).cap.ttQueue.length < 16 := hq
  have hidle : ∀ l, xtCounts (triggerChan d c t it) l t = xtCounts d l t := fun l => by
    rw [heq, hsend, ttPost, if_neg (by omega)]
    rfl
  rw [trigger_of_idle hidle, heq, hsend, cap_ttPost hroom]
  rfl

/-- The channels of a line acquire with its pulse. -/
theorem acquires_lineTriggers {x d : Die} {e l t : Nat} (he : e < 16) (hsrc : fld x (Reg.CAP_CH_SRC_TSRC e) = 3)
    (hsel : fld x (Reg.CAP_CH_SRC_TSEL e) = l) (hr : channelReady x e (cdiv (pinStamp t) 50)) (hx : Pulsed x d)
    (h : Turned x e (pinStamp t) (cdiv (pinStamp t) 50) d) : Acquires x e (pinStamp t) (cdiv (pinStamp t) 50) (lineTriggers t d l) := by
  have hmem : e ∈ xtChans d l := mem_xtChans.2 ⟨he, (hx.fld (f := Reg.CAP_CH_SRC_TSRC e) steady_src).trans hsrc,
    (hx.fld (f := Reg.CAP_CH_SRC_TSEL e) steady_src).trans hsel⟩
  exact foldl_reaches (f := fun d c => triggerChan d c (pinStamp t) (cdiv (pinStamp t) 50))
    (I := Turned x e (pinStamp t) (cdiv (pinStamp t) 50)) (P := Acquires x e (pinStamp t) (cdiv (pinStamp t) 50)) hmem
    (fun a b _ ha => ha.triggerChan he hr fun _ => ⟨rfl, rfl⟩) (fun a b _ ha => ha.triggerChan b _ _) (fun a ha => ha.own he hr) h

/-- A pulse on a line that counted as high triggers its channels (R172). -/
theorem trigger_pulse {d : Die} {c e l t it : Nat} (hc : c < 16) (he : e < 16) (hec : e ≠ c) (hl : l < 4) (hr : channelReady d c it)
    (hxt : flag d (Reg.CAP_CH_SRC_XTOUT c) = true) (hsel : fld d (Reg.CAP_CH_SRC_XTOSEL c) = l) (hhigh : xtCounts d l t = false)
    (hgt : d.tb.gt < t + 100) (hsrc : fld d (Reg.CAP_CH_SRC_TSRC e) = 3) (htsel : fld d (Reg.CAP_CH_SRC_TSEL e) = l)
    (hre : channelReady d e (cdiv (pinStamp t) 50)) :
    chState (trigger d c t it) c = 2 ∧ xtLevel (trigger d c t it) l = false ∧ chState (trigger d c t it) e = 2 := by
  have hpulsed : Pulsed d (triggerChan d c t it) := pulsed_triggerChan d hc t it
  have hacq : Acquires d c t it (triggerChan d c t it) := acquires_triggerChan hc (.refl c d) hr t
  have haside : Aside e d (triggerChan d c t it) := aside_triggerChan d (Ne.symm hec) t it
  have hpull : ∃ p, t + 100 ≤ p ∧ vget none (triggerChan d c t it).cap.xtPull l = some p ∧
      t + 100 ≤ vget 0 (triggerChan d c t it).cap.xtCnt l := by
    have htaken := pulsed_chanTaken d hc t it
    have hline : linePulled (chanTaken d c t it) c t = pullLine (chanTaken d c t it) l t := by
      rw [linePulled, if_pos (by rw [htaken.flag (f := Reg.CAP_CH_SRC_XTOUT c) steady_src, hxt]),
        htaken.fld (f := Reg.CAP_CH_SRC_XTOSEL c) steady_src, hsel]
    obtain ⟨p, hp, hpull, hcnt⟩ := pullLine_same (chanTaken d c t it) hl t
    rw [triggerChan_ready hr t, sendTrigger_eq, hline]
    split
    · obtain ⟨q, hpq, hq⟩ := (pulsed_ttPost (pullLine (chanTaken d c t it) l t) (fld (pullLine (chanTaken d c t it) l t)
        (Reg.CAP_CH_SRC_TTOSEL c)) t).pull l p hpull
      exact ⟨q, hp.trans hpq, hq, hcnt.trans ((pulsed_ttPost _ _ t).cnt l)⟩
    · exact ⟨p, hp, hpull, hcnt⟩
  rw [trigger]
  generalize triggerChan d c t it = d1 at hpulsed hacq haside hpull
  obtain ⟨p, hp, hpull, hcnt⟩ := hpull
  have hlow : xtCounts d1 l t = true := by
    simp only [xtCounts, Bool.and_eq_true, bne_iff_ne, decide_eq_true_eq]
    omega
  have hfallen : l ∈ fallen d t d1 := List.mem_filter.2 ⟨mem_upto.2 hl, by rw [hhigh, hlow]; rfl⟩
  have hround : Pulsed d ((fallen d t d1).foldl (lineTriggers t) d1) ∧
      Acquires d e (pinStamp t) (cdiv (pinStamp t) 50) ((fallen d t d1).foldl (lineTriggers t) d1) :=
    foldl_reaches (f := lineTriggers t) (I := fun a => Pulsed d a ∧ Turned d e (pinStamp t) (cdiv (pinStamp t) 50) a)
      (P := fun a => Pulsed d a ∧ Acquires d e (pinStamp t) (cdiv (pinStamp t) 50) a) hfallen
      (fun a m _ ⟨ha, hta⟩ => lineTriggers_induct (fun a' b _ _ _ h => h.triggerChan he hre fun _ => ⟨rfl, rfl⟩) m ha hta)
      (fun a m _ ⟨ha, hta⟩ => lineTriggers_induct (fun a' b _ _ _ h => h.triggerChan b _ _) m ha hta)
      (fun a ⟨ha, hta⟩ => ⟨(lineTriggers_induct (P := fun _ => True) (fun _ _ _ _ _ _ => trivial) l ha trivial).1,
        acquires_lineTriggers he hsrc htsel hre ha hta⟩) ⟨hpulsed, .inl haside⟩
  have hrest : ownPulses 4 d t d1 = ownPulses 3 d1 t ((fallen d t d1).foldl (lineTriggers t) d1) := by
    have hne : (fallen d t d1).isEmpty = false := by
      cases hl' : fallen d t d1 with
      | nil => rw [hl'] at hfallen; exact absurd hfallen List.not_mem_nil
      | cons _ _ => rfl
    rw [ownPulses_succ, hne]
    rfl
  have hfinal : Acquires d e (pinStamp t) (cdiv (pinStamp t) 50) (ownPulses 4 d t d1) := by
    rw [hrest]
    exact (ownPulses_induct (x := d) (P := Acquires d e (pinStamp t) (cdiv (pinStamp t) 50)) (fun a b _ _ _ h => h.triggerChan b _ _) 3 d1
      hround.1 hround.2).2
  have hown : Acquires d c t it (ownPulses 4 d t d1) :=
    (ownPulses_induct (x := d) (P := Acquires d c t it) (fun a b _ _ _ h => h.triggerChan b _ _) 4 d hpulsed hacq).2
  have hmore := pulsed_ownPulses 4 d t d1
  refine ⟨hown.1, ?_, hfinal.1⟩
  obtain ⟨q, hpq, hq⟩ := hmore.pull l p hpull
  rw [xtLevel, hq, hmore.tb, hpulsed.tb]
  have : ¬ q ≤ d.tb.gt := by omega
  simp [this]

/-! The commands. -/

theorem pinStamp_even (t : Nat) : pinStamp t % 2 = 0 := Nat.mul_mod_right 2 _

theorem pinStamp_of_even {t : Nat} (h : t % 2 = 0) : pinStamp t = t := by
  rw [pinStamp, cdiv]
  omega

theorem cdiv_mul (i : Nat) : cdiv (50 * i) 50 = i := by
  rw [cdiv]
  omega

theorem Acquires.from {x y d : Die} {c t it : Nat} (h : Acquires y c t it d) (hxy : Aside c x y) : Acquires x c t it d := by
  obtain ⟨hseq, hpre, hpost⟩ := hxy.window
  rw [Acquires, hseq.symm, hpre.symm, hpost.symm]
  exact h

theorem acquiring_of_acquires {s : State} {d : Die} {c t it : Nat} (h : Acquires s.die c t it d) :
    acquiring s { s with die := irqSettle s.die d } c t it := by
  have hs : Settled c d (irqSettle s.die d) := by
    refine ⟨getReg_irqSettle _ _ _, getReg_irqSettle _ _ _, ?_, ?_⟩
    · rw [get64, getReg_irqSettle, getReg_irqSettle, get64]
    · have hcap : (irqSettle s.die d).cap = d.cap := keeps_irqSettle [] s.die d .cap (by simp)
      rw [chanH, hcap, chanH]
  exact h.settled hs

theorem bitOf_clrBit_same (x i : Nat) : bitOf (clrBit x i) i = false := by
  unfold clrBit
  split
  case isFalse h => simpa using h
  case isTrue h =>
    have hq : (x - 2 ^ i * 1) / 2 ^ i = x / 2 ^ i - 1 := Nat.sub_mul_div x (2 ^ i) 1
    rw [Nat.mul_one] at hq
    simp only [bitOf, Nat.shiftRight_eq_div_pow, beq_iff_eq, beq_eq_false_iff_ne] at h ⊢
    rw [hq]
    omega

/-- A part of the die that the moment of a trigger leaves to the channel. -/
theorem aside_of_cap {c : Nat} {x d : Die} (hr : ∀ off, getReg d off = getReg x off) (hc : d.cap.chans = x.cap.chans) : Aside c x d :=
  ⟨fun off _ => hr off, by rw [chanH, hc, chanH]⟩

theorem cap_toGt (d : Die) (t : Nat) : (toGt d t).cap = d.cap := keeps_toGt d t .cap (by simp)

section Edges

variable {s : State} {c : Nat} (hc : c < 16)
include hc

/-- A trigger input takes a new level. -/
theorem ends_triggerEdge {n : Fin 16} {rising : Bool} {x : QWord} {y : Nat} (hpow : powered s.die 67 = true) (hy : 8 ≤ y)
    (hlevel : bitOf s.die.cap.trg n.val ≠ rising) (hsrc : fld s.die (Reg.CAP_CH_SRC_TSRC c) = 2)
    (hsel : fld s.die (Reg.CAP_CH_SRC_TSEL c) = n.val)
    (hedge : bitOf (fld s.die (Reg.CAP_CH_SRC_EDGE c)) (if rising then 0 else 1) = true)
    (hr : channelReady s.die c (cdiv (pinStamp x.toNat) 50)) : ends (.triggerEdge n rising ⟨x, y⟩) s fun t =>
      acquiring s t c (pinStamp x.toNat) (cdiv (pinStamp x.toNat) 50) ∧ bitOf t.die.cap.trg n.val = rising ∧
      keepsBut [.regs, .tb, .cap, .fresh] s t := by
  refine ends_of_onDie (f := fun d => if powered d 67 then trgEdge d n.val rising x.toNat y else d) rfl ?_
  rw [if_pos (show powered (found s) 67 = true from hpow), trgEdge, if_neg (by
    rintro (h | h)
    · omega
    · exact hlevel h)]
  extract_lets at_ d1 d2
  have htrg : bitOf d2.cap.trg n.val = rising := by
    cases rising
    · exact bitOf_clrBit_same _ _
    · exact bitOf_setBit_same _ _
  have haside : Aside c s.die d2 := aside_of_cap (fun off => (getReg_toGt (found s) _ off : getReg d1 off = _))
    (congrArg (·.chans) (cap_toGt (found s) _))
  have hkeep : Keeps [.regs, .tb, .cap, .fresh] (found s) d2 :=
    (keeps_updCap _ _ (by simp) _).2 ((keeps_toGt (found s) _).mono (by simp))
  clear_value d1 d2
  have hcfg : ∀ e, Pulsed d2 e → ∀ f : Fld, f.off = Reg.CAP_CH_SRC c → fld e f = fld s.die f := fun e he f hf =>
    (he.fld (f := f) (hf ▸ steady_src)).trans (haside.fld (f := f) (hf ▸ (chanBlock_words c).2.2.2.2.2.2.2.2.2.2))
  have hacq := acquires_foldl (x := d2) (d := d2) (c := c) (t := at_) (it := cdiv at_ 50) (l := upto 16)
    (p := fun d c => fld d (Reg.CAP_CH_SRC_TSRC c) == 2 && fld d (Reg.CAP_CH_SRC_TSEL c) == n.val &&
      bitOf (fld d (Reg.CAP_CH_SRC_EDGE c)) (if rising then 0 else 1)) (fun b => mem_upto.1) (mem_upto.2 hc)
    (fun e he => by
      rw [hcfg e he (Reg.CAP_CH_SRC_TSRC c) rfl, hcfg e he (Reg.CAP_CH_SRC_TSEL c) rfl, hcfg e he (Reg.CAP_CH_SRC_EDGE c) rfl, hsrc, hsel, hedge]
      simp)
    (haside.ready hr) (fun h => absurd ((hcfg d2 (.refl d2) (Reg.CAP_CH_SRC_TSRC c) rfl).symm.trans h) (by rw [hsrc]; decide))
    (.refl d2) (.inl (.refl c d2))
  have hpulsed : Pulsed d2 ((upto 16).foldl (fun d c =>
      if fld d (Reg.CAP_CH_SRC_TSRC c) == 2 && fld d (Reg.CAP_CH_SRC_TSEL c) == n.val &&
        bitOf (fld d (Reg.CAP_CH_SRC_EDGE c)) (if rising then 0 else 1) then trigger d c at_ (cdiv at_ 50) else d) d2) :=
    Pulsed.foldl (fun d b hb => .ite (pulsed_trigger d (mem_upto.1 hb) _ _) (.refl d)) d2
  generalize List.foldl _ d2 (upto 16) = d3 at hacq hpulsed
  refine ⟨acquiring_of_acquires (hacq.from haside), ?_, keepsBut_command (hkeep.trans (hpulsed.parts.mono (by simp)))⟩
  have hcap : (irqSettle s.die d3).cap = d3.cap := keeps_irqSettle [] s.die d3 .cap (by simp)
  show bitOf (irqSettle s.die d3).cap.trg n.val = rising
  rw [hcap, hpulsed.trg, htrg]

/-- A cross-trigger line falls. -/
theorem ends_xtEdge {l : Fin 4} {x : QWord} {y : Nat} (hpow : powered s.die 67 = true) (hy : 8 ≤ y)
    (hhigh : xtCounts s.die l.val x.toNat = false) (hsrc : fld s.die (Reg.CAP_CH_SRC_TSRC c) = 3)
    (hsel : fld s.die (Reg.CAP_CH_SRC_TSEL c) = l.val) (hr : channelReady s.die c (cdiv (pinStamp x.toNat) 50)) :
    ends (.xtEdge l ⟨x, y⟩) s fun t =>
      acquiring s t c (pinStamp x.toNat) (cdiv (pinStamp x.toNat) 50) ∧ keepsBut [.regs, .tb, .cap, .fresh] s t := by
  refine ends_of_onDie (f := fun d => if powered d 67 then xtFall d l.val x.toNat y else d) rfl ?_
  rw [if_pos (show powered (found s) 67 = true from hpow), xtFall, if_neg (by
    show ¬ xtCounts s.die l.val x.toNat = true
    simp [hhigh]), if_neg (by omega), forEach]
  have hchans : xtChans (found s) l.val = xtChans s.die l.val := rfl
  rw [hchans]
  have hmem : c ∈ xtChans s.die l.val := mem_xtChans.2 ⟨hc, hsrc, hsel⟩
  have hlt : ∀ b ∈ xtChans s.die l.val, b < 16 := fun b hb => (mem_xtChans.1 hb).1
  generalize xtChans s.die l.val = chans at hmem hlt
  obtain ⟨d2, hd2⟩ : ∃ d2, d2 = xtHold (toGt (found s) (pinStamp x.toNat + 8)) l.val (x.toNat + y) true := ⟨_, rfl⟩
  rw [← hd2]
  have haside : Aside c s.die d2 := by
    rw [hd2]
    exact aside_of_cap (fun off => getReg_toGt (found s) _ off) (congrArg (·.chans) (cap_toGt (found s) _))
  have hkeep : Keeps [.regs, .tb, .cap, .fresh] (found s) d2 := by
    rw [hd2]
    exact (keeps_updCap _ _ (by simp) _).2 ((keeps_toGt (found s) _).mono (by simp))
  clear hd2
  have hacq := acquires_foldl (x := d2) (d := d2) (c := c) (t := pinStamp x.toNat) (it := cdiv (pinStamp x.toNat) 50) (p := fun _ _ => true)
    hlt hmem (fun _ _ => rfl) (haside.ready hr) (fun _ => ⟨pinStamp_of_even (pinStamp_even _), rfl⟩) (.refl d2) (.inl (.refl c d2))
  simp only [if_true] at hacq
  have hpulsed : Pulsed d2 (chans.foldl (fun d c => trigger d c (pinStamp x.toNat) (cdiv (pinStamp x.toNat) 50)) d2) :=
    Pulsed.foldl (fun d b hb => pulsed_trigger d (hlt b hb) _ _) d2
  exact ⟨acquiring_of_acquires (hacq.from haside), keepsBut_command (hkeep.trans (hpulsed.parts.mono (by simp)))⟩

end Edges

theorem ends_triggerEdge_short {s : State} (n : Fin 16) (rising : Bool) (x : QWord) {y : Nat} (hy : y < 8) :
    ends (.triggerEdge n rising ⟨x, y⟩) s (keepsBut [] s) := by
  refine ends_idle (f := fun d => if powered d 67 then trgEdge d n.val rising x.toNat y else d) rfl ?_ []
  have hidle : trgEdge (found s) n.val rising x.toNat y = found s := if_pos (.inl hy)
  rw [hidle, ite_self]

theorem ends_xtEdge_short {s : State} (l : Fin 4) (x : QWord) {y : Nat} (hy : y < 8) : ends (.xtEdge l ⟨x, y⟩) s (keepsBut [.cap] s) := by
  refine ends_of_onDie (f := fun d => if powered d 67 then xtFall d l.val x.toNat y else d) rfl (keepsBut_command ?_)
  have hhold : ∀ (t : Nat) (b : Bool), Keeps [.cap] (found s) (xtHold (found s) l.val t b) := fun t b =>
    (keeps_updCap _ _ (by simp) _).2 (.refl _ _)
  split
  · rw [xtFall]
    split
    · exact hhold _ _
    · exact hhold _ _
  · exact .refl _ _

/-- A mark crossing triggers its channel. -/
theorem ends_markCrossing {s : State} {c : Fin 16} {i : Nat} (hpow : powered s.die 67 = true) (hcross : (chanH s.die c.val).cross = some i)
    (hr : channelReady s.die c.val i) : ends (.markCrossing c) s fun t => acquiring s t c.val (50 * i) i ∧
      (flag s.die (Reg.CAP_CH_SRC_XTOUT c.val) = false → ∀ e, e ≠ c.val → chanH t.die e = chanH s.die e) ∧
      keepsBut [.regs, .cap, .fresh] s t := by
  refine ends_of_onDie (f := fun d => if powered d 67 then crossing d c.val else d) rfl ?_
  rw [if_pos (show powered (found s) 67 = true from hpow)]
  have heq : crossing (found s) c.val = trigger (updChan (found s) c.val fun h => { h with cross := none }) c.val (50 * i) i := by
    rw [crossing, show (chanH (found s) c.val).cross = some i from hcross]
  rw [heq]
  have hchan : chanH (updChan (found s) c.val fun h => { h with cross := none }) c.val = { chanH s.die c.val with cross := none } :=
    chanH_updChan_same _ _ _ c.isLt
  have hother : ∀ e, e ≠ c.val → chanH (updChan (found s) c.val fun h => { h with cross := none }) e = chanH s.die e := fun e he =>
    chanH_updChan_ne _ _ he
  have hkeep : Keeps [.regs, .cap, .fresh] (found s) (updChan (found s) c.val fun h => { h with cross := none }) :=
    (keeps_updChan _ _ (by simp) _ _).2 (.refl _ _)
  have hreg : ∀ off, getReg (updChan (found s) c.val fun h => { h with cross := none }) off = getReg s.die off := fun _ => rfl
  generalize (updChan (found s) c.val fun h => { h with cross := none }) = d1 at hchan hother hkeep hreg
  have hready : channelReady d1 c.val i := by
    obtain ⟨h1, hh, hg, hs⟩ := hr
    have hf : ∀ f : Fld, fld d1 f = fld s.die f := fun f => fld_congr (hreg _)
    refine ⟨(hf _).trans h1, ?_, ?_, ?_⟩
    · rw [← hh, inHoldoff, inHoldoff, hchan, hf]
    · rw [← hg, gateOk, gateOk, hchan, hreg, hreg, hreg]
      simp only [flag_congr (f := Reg.CAP_CH_REF_GATE_EN c.val) (hreg _)]
    · rw [← hs, slotFree, slotFree, hchan, hreg, hf, hf]
  have hacq : Acquires d1 c.val (50 * i) i (trigger d1 c.val (50 * i) i) :=
    ((Turned.trigger (x := d1) (.inl (.refl c.val d1)) c.isLt hready (.refl d1)
      (fun _ => ⟨pinStamp_of_even (by omega), cdiv_mul i⟩) c.isLt).2 rfl)
  have hfrom : Acquires s.die c.val (50 * i) i (trigger d1 c.val (50 * i) i) := by
    have hf : ∀ f : Fld, fld d1 f = fld s.die f := fun f => fld_congr (hreg _)
    rw [Acquires, winPre, winPost, hf, hf, hf] at hacq
    exact hacq
  have hpulsed := pulsed_trigger d1 c.isLt (50 * i) i
  refine ⟨acquiring_of_acquires hfrom, fun hxt e he => ?_, keepsBut_command (hkeep.trans hpulsed.parts)⟩
  have hchanE : chanH (trigger d1 c.val (50 * i) i) e = chanH d1 e := by
    have hidle : ∀ l, xtCounts (triggerChan d1 c.val (50 * i) i) l (50 * i) = xtCounts d1 l (50 * i) := fun l => by
      have htaken := pulsed_chanTaken d1 c.isLt (50 * i) i
      have hline : linePulled (chanTaken d1 c.val (50 * i) i) c.val (50 * i) = chanTaken d1 c.val (50 * i) i := if_neg (by
        rw [htaken.flag (f := Reg.CAP_CH_SRC_XTOUT c.val) steady_src, flag_congr (f := Reg.CAP_CH_SRC_XTOUT c.val) (hreg _), hxt]
        decide)
      have hcnt : (sendTrigger (chanTaken d1 c.val (50 * i) i) c.val (50 * i)).cap.xtCnt = d1.cap.xtCnt := by
        have htakenCnt : (chanTaken d1 c.val (50 * i) i).cap.xtCnt = d1.cap.xtCnt :=
          congrArg (·.xtCnt) (keeps_fromHist d1 _ _ _ _ .cap (by simp) : (drawn d1 c.val i).cap = d1.cap)
        rw [sendTrigger_eq, hline]
        split
        · unfold ttPost
          split <;> exact htakenCnt
        · exact htakenCnt
      rw [triggerChan_ready hready, xtCounts, hcnt, xtCounts]
    rw [trigger_of_idle hidle]
    exact (aside_triggerChan d1 (Ne.symm he) _ _).chan
  have hcap : (irqSettle s.die (trigger d1 c.val (50 * i) i)).cap = (trigger d1 c.val (50 * i) i).cap := keeps_irqSettle [] s.die _ .cap (by simp)
  show chanH (irqSettle s.die (trigger d1 c.val (50 * i) i)) e = _
  rw [chanH, hcap, ← chanH, hchanE, hother e he]

/-! The software trigger (R174). -/

theorem toGt_eq (d : Die) (t : Nat) : ∃ tb, toGt d t = { d with tb := tb } := by
  unfold toGt
  split
  · exact ⟨_, rfl⟩
  · exact ⟨d.tb, rfl⟩

theorem accepts_at {s : State} {off v : Nat} (h : accepts s off v) (t : Nat) : accepts { s with die := toGt s.die t } off v := by
  obtain ⟨tb, htb⟩ := toGt_eq s.die t
  rw [htb]
  exact h

theorem found_at (s : State) (t : Nat) : found { s with die := toGt s.die t } = toGt (found s) t := by
  have h : (found s).tb.gt = s.die.tb.gt := rfl
  rw [found, toGt, toGt, h]
  split <;> rfl

theorem swtrig_row : writeBits Reg.CAP_SWTRIG = some (0, 0, 0xFFFF) ∧ storesBits Reg.CAP_SWTRIG = true ∧ cyclic Reg.CAP_SWTRIG = false ∧
    inAxis Reg.CAP_SWTRIG = false := by decide +kernel

theorem writeHook_swtrig (d : Die) (v : Nat) : writeHook d Reg.CAP_SWTRIG v = swTrigger d (v % 65536) d.tb.gt := by
  rw [writeHook_capture d (by decide) (by decide), capHook, if_pos rfl]

/-- A software trigger that completes at a GT. -/
theorem ends_softwareTrigger {s : State} {mask : BitVec 16} {x : QWord} {c : Nat} (hc : c < 16)
    (ha : accepts s Reg.CAP_SWTRIG mask.toNat) (hbit : bitOf mask.toNat c = true) (hgt : s.die.tb.gt ≤ x.toNat)
    (hr : channelReady s.die c (cdiv x.toNat 50)) (heven : fld s.die (Reg.CAP_CH_SRC_TSRC c) ≠ 3 ∨ x.toNat % 2 = 0) :
    ends (.softwareTrigger mask x) s fun t =>
      acquiring s t c x.toNat (cdiv x.toNat 50) ∧ keepsBut [.regs, .tb, .cap, .fresh] s t := by
  obtain ⟨hb, hst, hcyc, hax⟩ := swtrig_row
  obtain ⟨r, hrw, hw1c, hwrite⟩ := busWrite_of_accepts (accepts_at ha x.toNat) hb (by decide)
  refine ends_of_onDie (f := fun d => softTrigger d mask.toNat x.toNat) rfl ?_
  have hfound : softTrigger (found s) mask.toNat x.toNat = busWrite Reg.CAP_SWTRIG mask.toNat (found { s with die := toGt s.die x.toNat }) :=
    congrArg (busWrite Reg.CAP_SWTRIG mask.toNat) (found_at s x.toNat).symm
  rw [hfound, hwrite, writeStore_of_storesBits hst, found_at, writeHook_swtrig]
  have hleaves := leaves_storeReg_of_command hrw hw1c (toGt (found s) x.toNat) Reg.CAP_SWTRIG mask.toNat
  have hkeeps := keeps_storeReg_of_plain (toGt (found s) x.toNat) r Reg.CAP_SWTRIG mask.toNat hax hcyc
  generalize storeReg (toGt (found s) x.toNat) r Reg.CAP_SWTRIG mask.toNat = d at hleaves hkeeps
  have hkeep : Keeps [.regs, .tb, .cap, .fresh] (found s) d := ((keeps_toGt (found s) _).mono (by simp)).trans (hkeeps.mono (by simp))
  have haside : Aside c s.die d := by
    refine aside_of_cap (fun off => (hleaves off not_false).trans (getReg_toGt (found s) _ off)) ?_
    rw [hkeeps .cap (by simp), cap_toGt]
    rfl
  have htime : d.tb.gt = x.toNat := by
    rw [hkeeps .tb (by simp)]
    exact gt_toGt hgt
  have hmask : mask.toNat % 65536 = mask.toNat := Nat.mod_eq_of_lt mask.isLt
  rw [htime, hmask, swTrigger]
  have hpulse : fld d (Reg.CAP_CH_SRC_TSRC c) = 3 → pinStamp x.toNat = x.toNat ∧ cdiv x.toNat 50 = cdiv x.toNat 50 := fun h => by
    obtain hne | he := heven
    · exact absurd ((haside.fld (f := Reg.CAP_CH_SRC_TSRC c) (chanBlock_words c).2.2.2.2.2.2.2.2.2.2).symm.trans h) hne
    · exact ⟨pinStamp_of_even he, rfl⟩
  have hacq := acquires_foldl (x := d) (d := d) (c := c) (t := x.toNat) (it := cdiv x.toNat 50) (l := upto 16) (p := fun _ c => bitOf mask.toNat c)
    (fun b => mem_upto.1) (mem_upto.2 hc) (fun _ _ => hbit) (haside.ready hr) hpulse (.refl d) (.inl (.refl c d))
  have hpulsed : Pulsed d ((upto 16).foldl (fun d c => if bitOf mask.toNat c then trigger d c x.toNat (cdiv x.toNat 50) else d) d) :=
    Pulsed.foldl (fun d b hb => .ite (pulsed_trigger d (mem_upto.1 hb) _ _) (.refl d)) d
  exact ⟨acquiring_of_acquires (hacq.from haside), keepsBut_command (hkeep.trans (hpulsed.parts.mono (by simp)))⟩

/-- Settles O30: by the turn of the channel among the triggers of its instant. -/
theorem captureTriggers : Obligations.CaptureTriggers := by
  unfold Obligations.CaptureTriggers
  refine ⟨fun d c t it _ hst hg => trigger_ignored hg hst t, fun d c t it hg => trigger_gated hg t it,
    fun d c t it hc => trigger_full hc, fun d c e l t it hc he hec hl hr hxt hsel hlow hgt => trigger_pulse hc he hec hl hr hxt hsel hlow hgt,
    fun s n rising x y c hc hpow hy hlevel hsrc hsel hedge hr => ends_triggerEdge hc hpow hy hlevel hsrc hsel hedge hr,
    fun s n rising x y hy => ends_triggerEdge_short n rising x hy,
    fun s l x y c hc hpow hy hhigh hsrc hsel hr => ends_xtEdge hc hpow hy hhigh hsrc hsel hr,
    fun s l x y hy => ends_xtEdge_short l x hy,
    fun s mask x c hc ha hbit hgt hr heven => ends_softwareTrigger hc ha hbit hgt hr heven,
    fun s c i hpow hcross hr => ends_markCrossing hpow hcross hr⟩

end Sys2Proof.Machine
end

section
/-! PROOFS. The mark inputs, the windows and the records of the capture engine (R167 to R169, R172, R178, R182). -/

namespace Sys2Proof.Machine

open Sys2Proof

/-! Mark inputs. -/

theorem markH_updMark_same (d : Die) {n : Nat} (f : MarkIn → MarkIn) (h : n < 8) : markH (updMark d n f) n = f (markH d n) :=
  vget_vset_same _ _ _ _ h

theorem markH_updMark_ne (d : Die) {n m : Nat} (f : MarkIn → MarkIn) (h : m ≠ n) : markH (updMark d n f) m = markH d m :=
  vget_vset_ne _ _ _ h

/-- The registers of the inputs that a sample writes. -/
def markReg (off : Nat) : Prop := ∃ n < 8, off = Reg.CAP_MK_STAT n ∨ off = Reg.CAP_MK_BASE n

theorem not_markReg_cfg (n : Nat) : ¬ markReg (Reg.CAP_MK_CFG n) := by
  rintro ⟨m, -, h⟩
  simp only [Reg.CAP_MK_CFG, Reg.CAP_MK_STAT, Reg.CAP_MK_BASE] at h
  omega

/-- A turn of another input: input `n` is as it was, and so are the configuration, the sample count and the time. -/
structure MarkAside (n : Nat) (c d : Die) : Prop where
  regs : Leaves markReg c d
  parts : Keeps [.regs, .cap] c d
  mark : markH d n = markH c n
  next : d.cap.next = c.cap.next
  rip : d.cap.ripDue = c.cap.ripDue

theorem MarkAside.refl (n : Nat) (d : Die) : MarkAside n d d := ⟨.refl _ d, .refl _ d, rfl, rfl, rfl⟩

theorem MarkAside.trans {n : Nat} {c d e : Die} (h : MarkAside n c d) (h' : MarkAside n d e) : MarkAside n c e :=
  ⟨h.regs.trans h'.regs, h.parts.trans h'.parts, h'.mark.trans h.mark, h'.next.trans h.next, h'.rip.trans h.rip⟩

section Steps

variable (d : Die) {n m : Nat} (hm : m < 8)

theorem markAside_putReg (hm : m < 8) {o : Nat} (h : o = Reg.CAP_MK_STAT m ∨ o = Reg.CAP_MK_BASE m) (w : Word) : MarkAside n d (putReg d o w) :=
  ⟨(leaves_putReg (p := markReg) _ _ ⟨m, hm, h⟩ _).2 (.refl _ d), (keeps_putReg _ _ (by simp) _ _).2 (.refl _ d), rfl, rfl, rfl⟩

theorem markAside_putFlood (hm : m < 8) : MarkAside n d (putFlood d m) := markAside_putReg d hm (.inl rfl) _

theorem markAside_updMark (h : m ≠ n) (f : MarkIn → MarkIn) : MarkAside n d (updMark d m f) :=
  ⟨.of_regs rfl, (keeps_updMark _ _ (by simp) _ _).2 (.refl _ d), markH_updMark_ne d f h.symm, rfl, rfl⟩

end Steps

/-- The ripple test of one input (R169). -/
def rippleOne (d : Die) (n : Nat) : Die :=
  if !powered d (59 + n) then d else
  let m := markH d n
  let rip := (baseBi m.base :: m.rip).take 250
  let tol := fld d (Reg.CAP_MK_FLD_RTOL n)
  let hit : Bool := tol != 0 && tol < ripple rip
  let d := updMark d n fun m => putTest { m with rip := rip } d.tb.gt (fld d (Reg.CAP_MK_FLD_FHOLD n)) 2 hit
  putFlood (setFld d (Reg.CAP_MK_BASE_RIPPLE n) (ripple rip)) n

theorem rippleRecord_due {d : Die} (h : d.cap.ripDue = true) :
    rippleRecord d = (upto 8).foldl rippleOne (updCap d fun c => { c with ripDue := false }) := by
  unfold rippleRecord
  rw [h]
  rfl

theorem putTest_marks (m : MarkIn) (gt fhold c : Nat) (b : Bool) : (putTest m gt fhold c b).base = m.base ∧
    (putTest m gt fhold c b).hist = m.hist ∧ (putTest m gt fhold c b).rip = m.rip := by
  unfold putTest
  split <;> exact ⟨rfl, rfl, rfl⟩

theorem markAside_rippleOne (d : Die) {n m : Nat} (hm : m < 8) (h : m ≠ n) : MarkAside n d (rippleOne d m) := by
  unfold rippleOne
  split
  · exact .refl n d
  · exact ((markAside_updMark d h _).trans (markAside_putReg _ hm (.inr rfl) _)).trans (markAside_putFlood _ hm)

theorem rippleOne_self (d : Die) {n : Nat} (hn : n < 8) : Leaves markReg d (rippleOne d n) ∧ Keeps [.regs, .cap] d (rippleOne d n) ∧
    (rippleOne d n).cap.next = d.cap.next ∧ (rippleOne d n).cap.ripDue = d.cap.ripDue ∧
    (markH (rippleOne d n) n).base = (markH d n).base ∧
    (powered d (59 + n) = true → (markH (rippleOne d n) n).rip = (baseBi (markH d n).base :: (markH d n).rip).take 250) := by
  unfold rippleOne
  split
  case isTrue h => exact ⟨.refl _ d, .refl _ d, rfl, rfl, rfl, fun hp => by simp [hp] at h⟩
  case isFalse h =>
    extract_lets m rip tol hit d1
    have h1 : markH d1 n = putTest { m with rip := rip } d.tb.gt (fld d (Reg.CAP_MK_FLD_FHOLD n)) 2 hit := markH_updMark_same d _ hn
    obtain ⟨hbase, -, hrip⟩ := putTest_marks { m with rip := rip } d.tb.gt (fld d (Reg.CAP_MK_FLD_FHOLD n)) 2 hit
    have hl1 : Leaves markReg d d1 := .of_regs rfl
    have hk1 : Keeps [.regs, .cap] d d1 := (keeps_updMark _ _ (by simp) _ _).2 (.refl _ d)
    have hn1 : d1.cap.next = d.cap.next ∧ d1.cap.ripDue = d.cap.ripDue := ⟨rfl, rfl⟩
    clear_value d1
    have h2 : MarkAside n d1 (putFlood (setFld d1 (Reg.CAP_MK_BASE_RIPPLE n) (ripple rip)) n) :=
      (markAside_putReg d1 hn (.inr rfl) _).trans (markAside_putFlood _ hn)
    exact ⟨hl1.trans h2.regs, hk1.trans h2.parts, h2.next.trans hn1.1, h2.rip.trans hn1.2, by rw [h2.mark, h1, hbase],
      fun _ => by rw [h2.mark, h1, hrip]⟩

/-- What the ripple record leaves of the next sample, and what it notes. -/
structure Rippled (c d : Die) : Prop where
  regs : Leaves markReg c d
  parts : Keeps [.regs, .cap] c d
  next : d.cap.next = c.cap.next
  base : ∀ n, (markH d n).base = (markH c n).base

theorem Rippled.refl (d : Die) : Rippled d d := ⟨.refl _ d, .refl _ d, rfl, fun _ => rfl⟩

theorem Rippled.trans {c d e : Die} (h : Rippled c d) (h' : Rippled d e) : Rippled c e :=
  ⟨h.regs.trans h'.regs, h.parts.trans h'.parts, h'.next.trans h.next, fun n => (h'.base n).trans (h.base n)⟩

theorem Rippled.foldl {β : Type} {f : Die → β → Die} {l : List β} (h : ∀ d, ∀ x ∈ l, Rippled d (f d x)) (d : Die) :
    Rippled d (l.foldl f d) := by
  induction l generalizing d with
  | nil => exact .refl d
  | cons x l ih => exact (h d x (by simp)).trans (ih (fun d y hy => h d y (by simp [hy])) _)

theorem rippled_rippleOne (d : Die) {m : Nat} (hm : m < 8) : Rippled d (rippleOne d m) := by
  obtain ⟨hl, hk, hnext, -, hbase, -⟩ := rippleOne_self d hm
  refine ⟨hl, hk, hnext, fun n => ?_⟩
  by_cases h : n = m
  · rw [h, hbase]
  · rw [(markAside_rippleOne d hm (Ne.symm h)).mark]

theorem rippled_rippleRecord (d : Die) : Rippled d (rippleRecord d) := by
  cases h : d.cap.ripDue with
  | false =>
    have hidle : rippleRecord d = d := by
      unfold rippleRecord
      rw [h]
      rfl
    rw [hidle]
    exact .refl d
  | true =>
    rw [rippleRecord_due h]
    exact Rippled.trans (d := updCap d fun c => { c with ripDue := false })
      ⟨.of_regs rfl, (keeps_updCap _ _ (by simp) _).2 (.refl _ d), rfl, fun _ => rfl⟩
      (Rippled.foldl (fun d m hm => rippled_rippleOne d (mem_upto.1 hm)) _)

theorem markH_irqSettle (c d : Die) (n : Nat) : markH (irqSettle c d) n = markH d n := by
  have hcap : (irqSettle c d).cap = d.cap := keeps_irqSettle [] c d .cap (by simp)
  rw [markH, hcap, markH]

theorem ends_rippleRecord {s : State} (h : s.die.cap.ripDue = true) : ends .rippleRecord s fun t => t.die.cap.ripDue = false ∧
    ∀ n, n < 8 → powered s.die (59 + n) = true →
      (markH t.die n).rip = (baseBi (markH s.die n).base :: (markH s.die n).rip).take 250 := by
  refine ends_of_onDie (f := rippleRecord) rfl ?_
  rw [rippleRecord_due (d := found s) h]
  obtain ⟨d1, hd1⟩ : ∃ d1, d1 = updCap (found s) fun c => { c with ripDue := false } := ⟨_, rfl⟩
  rw [← hd1]
  have hrip : d1.cap.ripDue = false := by rw [hd1]; rfl
  have hmark : ∀ n, markH d1 n = markH s.die n := fun n => by rw [hd1]; rfl
  have hpow : ∀ n, powered d1 n = powered s.die n := fun n => by rw [hd1]; rfl
  clear hd1
  have hcap : ∀ e : Die, (irqSettle s.die e).cap = e.cap := fun e => keeps_irqSettle [] s.die e .cap (by simp)
  refine ⟨?_, fun n hn hp => ?_⟩
  · show (irqSettle s.die ((upto 8).foldl rippleOne d1)).cap.ripDue = false
    rw [hcap]
    refine Eq.trans ?_ hrip
    exact (List.foldlRecOn (motive := fun e : Die => e.cap.ripDue = d1.cap.ripDue) (upto 8) rippleOne rfl
      fun e he m hm => (rippleOne_self e (mem_upto.1 hm)).2.2.2.1.trans he)
  · obtain ⟨e, hbefore, hafter⟩ := foldl_at (R := MarkAside n) (MarkAside.refl n) MarkAside.trans (f := rippleOne) (nodup_upto 8)
      (mem_upto.2 hn) (fun x m hm hmn => markAside_rippleOne x (mem_upto.1 hm) hmn) d1
    obtain ⟨-, -, -, -, -, hspec⟩ := rippleOne_self e hn
    have hpe : powered e (59 + n) = true := by
      rw [powered, hbefore.parts .pwr (by simp), ← powered, hpow, hp]
    show (markH (irqSettle s.die ((upto 8).foldl rippleOne d1)) n).rip = _
    rw [markH_irqSettle, hafter.mark, hspec hpe, hbefore.mark, hmark]

/-! One sample (R167, R168). -/

theorem adcCode_lt (g uv : Nat) : adcCode g uv < 4096 := by
  unfold adcCode
  omega

theorem smpCode_entry {x : Nat} (h : x < 4096) (b : Bool) (bi : Nat) : smpCode (x + 4096 * b2n b + 8192 * bi) = x := by
  unfold smpCode
  omega

theorem markAside_inputSample (d : Die) {n m : Nat} (hm : m < 8) (h : m ≠ n) (uv i : Nat) : MarkAside n d (inputSample d m uv i) := by
  unfold inputSample
  extract_lets mk x b bi last satT btol shiftT fh d1 e d2
  have h1 : MarkAside n d d1 := markAside_updMark d h _
  clear_value d1
  have h2 : MarkAside n d d2 := h1.trans (markAside_updMark d1 h _)
  clear_value d2
  split
  · exact .refl n d
  · exact (h2.trans (markAside_putReg d2 hm (.inr rfl) _)).trans (markAside_putFlood _ hm)

/-- An input's own sample stands first in its history, and its baseline follows it. -/
theorem inputSample_self (d : Die) {n : Nat} (hn : n < 8) (hp : powered d (59 + n) = true) (uv i : Nat) :
    (∃ e rest, (markH (inputSample d n uv i) n).hist = e :: rest ∧ e.1 = (i : Int) ∧
      smpCode e.2 = adcCode (fld d (Reg.CAP_MK_CFG_GAIN n)) uv) ∧
    (markH (inputSample d n uv i) n).base =
      baseNext (markH d n).base (adcCode (fld d (Reg.CAP_MK_CFG_GAIN n)) uv) (fld d (Reg.CAP_MK_CFG_BSH n)) := by
  unfold inputSample
  rw [if_neg (by simp [hp])]
  extract_lets mk x b bi last satT btol shiftT fh d1 e d2
  have h1 : markH d1 n = putTest (putTest { mk with base := b } d.tb.gt fh 0 satT) d.tb.gt fh 1 shiftT := markH_updMark_same d _ hn
  have hbase1 : (markH d1 n).base = b := by
    rw [h1, (putTest_marks _ _ _ _ _).1, (putTest_marks _ _ _ _ _).1]
  clear_value d1
  have h2 : markH d2 n = { markH d1 n with hist := (((i : Int), e) :: (markH d1 n).hist).take 2048 } := markH_updMark_same d1 _ hn
  clear_value d2
  have h3 : MarkAside n d2 (putFlood (setFld d2 (Reg.CAP_MK_BASE_BI n) bi) n) :=
    (markAside_putReg d2 hn (.inr rfl) _).trans (markAside_putFlood _ hn)
  rw [h3.mark, h2]
  exact ⟨⟨((i : Int), e), (markH d1 n).hist.take 2047, rfl, rfl, smpCode_entry (adcCode_lt _ _) _ _⟩, hbase1⟩

theorem steady_mark {n : Nat} (hn : n < 8) : steadyReg (Reg.CAP_MK_CFG n) := fun c _ h => by
  simp only [trigReg, Reg.CAP_MK_CFG, Reg.CAP_CH_STAT, Reg.CAP_CH_WRSEQ, Reg.CAP_CH_CNT_IGN, Reg.CAP_CH_OVF_GT, Reg.CTR_CNT] at h
  omega

theorem pulsed_crossing (d : Die) {c : Nat} (hc : c < 16) : Pulsed d (crossing d c) := by
  unfold crossing
  split
  · exact .refl d
  · exact (pulsed_updChan d _).trans (pulsed_trigger _ hc _ _)

theorem pulsed_windowEnd (d : Die) {c : Nat} (hc : c < 16) : Pulsed d (windowEnd d c) := by
  unfold windowEnd
  split
  · exact .refl d
  · extract_lets last a' d1
    have h1 : Pulsed d d1 := pulsed_updChan d _
    clear_value d1
    exact .ite (.refl d) (h1.trans (pulsed_setFld d1 hc (f := Reg.CAP_CH_STAT_STATE c) (.inl rfl) _))

theorem pulsed_chanSample (d : Die) (c i : Nat) : Pulsed d (chanSample d c i) := by
  unfold chanSample
  extract_lets mk
  split
  · exact .refl d
  · extract_lets d1 y thr hys
    have h1 : Pulsed d d1 := pulsed_updChan d _
    clear_value d1
    exact .ite (h1.trans (pulsed_updChan d1 _)) (.ite (h1.trans (pulsed_updChan d1 _)) h1)

/-- What is due from the sample before. -/
def beforeSample (d : Die) : Die := (upto 16).foldl windowEnd ((upto 16).foldl crossing (rippleRecord d))

/-- The instant of the next sample. -/
def sampleMoment (d : Die) : Die :=
  updCap (toGt d (50 * max d.cap.next (cdiv d.tb.gt 50))) fun c =>
    { c with next := max d.cap.next (cdiv d.tb.gt 50) + 1, ripDue := (max d.cap.next (cdiv d.tb.gt 50) + 1) % 2000 == 0 }

theorem markSample_eq {d : Die} (h : powered d 67 = true) (uv : Vector Nat 8) : markSample d uv =
    (upto 16).foldl (fun e c => chanSample e c (max (beforeSample d).cap.next (cdiv (beforeSample d).tb.gt 50)))
      ((upto 8).foldl (fun e n => inputSample e n (vget 0 uv n) (max (beforeSample d).cap.next (cdiv (beforeSample d).tb.gt 50)))
        (sampleMoment (beforeSample d))) := by
  unfold markSample beforeSample
  rw [if_neg (by simp [h])]
  generalize upto 16 = l
  generalize upto 8 = l'
  rfl

/-- What is due from before leaves the inputs' configuration, their baselines and the place of the next sample. -/
theorem beforeSample_spec (d : Die) : (beforeSample d).cap.next = d.cap.next ∧ (beforeSample d).tb = d.tb ∧ (beforeSample d).pwr = d.pwr ∧
    ∀ n < 8, (markH (beforeSample d) n).base = (markH d n).base ∧
      getReg (beforeSample d) (Reg.CAP_MK_CFG n) = getReg d (Reg.CAP_MK_CFG n) := by
  have h1 := rippled_rippleRecord d
  have h2 : Pulsed (rippleRecord d) (beforeSample d) :=
    (Pulsed.foldl (fun d c hc => pulsed_crossing d (mem_upto.1 hc)) _).trans (Pulsed.foldl (fun d c hc => pulsed_windowEnd d (mem_upto.1 hc)) _)
  generalize beforeSample d = e at h2
  refine ⟨h2.next.trans h1.next, h2.tb.trans (h1.parts .tb (by simp)), (h2.parts .pwr (by simp)).trans (h1.parts .pwr (by simp)), fun n hn => ⟨?_, ?_⟩⟩
  · rw [markH, h2.marks, ← markH, h1.base]
  · rw [h2.regs _ (steady_mark hn), h1.regs _ (not_markReg_cfg n)]

theorem ends_markSample {s : State} (uv : Vector Nat 8) (hp : powered s.die 67 = true) : ends (.markSample uv) s fun t =>
    let i := max s.die.cap.next (cdiv s.die.tb.gt 50)
    t.die.cap.next = i + 1 ∧ t.die.tb.gt = max s.die.tb.gt (50 * i) ∧
    ∀ n, n < 8 → powered s.die (59 + n) = true →
      let x := adcCode (fld s.die (Reg.CAP_MK_CFG_GAIN n)) (vget 0 uv n)
      (∃ e rest, (markH t.die n).hist = e :: rest ∧ e.1 = (i : Int) ∧ smpCode e.2 = x) ∧
      (markH t.die n).base = baseNext (markH s.die n).base x (fld s.die (Reg.CAP_MK_CFG_BSH n)) := by
  refine ends_of_onDie (f := fun d => markSample d uv) rfl ?_
  rw [markSample_eq (d := found s) hp]
  obtain ⟨hnext, htb, hpwr, hmark⟩ := beforeSample_spec (found s)
  obtain ⟨e, he⟩ : ∃ e, e = beforeSample (found s) := ⟨_, rfl⟩
  rw [← he] at hnext htb hpwr hmark ⊢
  have hi : max e.cap.next (cdiv e.tb.gt 50) = max s.die.cap.next (cdiv s.die.tb.gt 50) := by
    rw [hnext, htb]
    rfl
  rw [hi]
  obtain ⟨i, hidef⟩ : ∃ i, i = max s.die.cap.next (cdiv s.die.tb.gt 50) := ⟨_, rfl⟩
  have hm1 : (sampleMoment e).cap.next = i + 1 := by
    rw [hidef, ← hi]
    rfl
  have hm2 : (sampleMoment e).tb.gt = max s.die.tb.gt (50 * i) := by
    have h := (toGt_tb e (50 * max e.cap.next (cdiv e.tb.gt 50))).1
    rw [hi, htb, ← hidef] at h
    exact Eq.trans (by rw [sampleMoment, hi, ← hidef]; rfl) h
  have hm3 : ∀ n, markH (sampleMoment e) n = markH e n := fun n => by
    show vget markIn0 (toGt e _).cap.marks n = _
    rw [cap_toGt]
    rfl
  have hm4 : (sampleMoment e).pwr = e.pwr := keeps_toGt e _ .pwr (by simp)
  have hm5 : ∀ off, getReg (sampleMoment e) off = getReg e off := fun off => getReg_toGt e _ off
  rw [← hidef]
  generalize sampleMoment e = d1 at hm1 hm2 hm3 hm4 hm5
  have hpulsed : ∀ x : Die, Pulsed x ((upto 16).foldl (fun e c => chanSample e c i) x) := fun x =>
    Pulsed.foldl (fun d c _ => pulsed_chanSample d c i) x
  have hall : MarkAside 8 d1 ((upto 8).foldl (fun e n => inputSample e n (vget 0 uv n) i) d1) :=
    List.foldlRecOn (motive := MarkAside 8 d1) (upto 8) _ (.refl 8 d1) fun x hx m hm =>
      hx.trans (markAside_inputSample x (mem_upto.1 hm) (by have := mem_upto.1 hm; omega) _ _)
  have hlast := hpulsed ((upto 8).foldl (fun e n => inputSample e n (vget 0 uv n) i) d1)
  have hturn : ∀ n < 8, ∃ x, MarkAside n d1 x ∧
      MarkAside n (inputSample x n (vget 0 uv n) i) ((upto 8).foldl (fun e n => inputSample e n (vget 0 uv n) i) d1) := fun n hn =>
    foldl_at (R := MarkAside n) (MarkAside.refl n) MarkAside.trans (f := fun e n => inputSample e n (vget 0 uv n) i) (nodup_upto 8)
      (mem_upto.2 hn) (fun x m hm hmn => markAside_inputSample x (mem_upto.1 hm) hmn _ _) d1
  generalize (upto 8).foldl (fun e n => inputSample e n (vget 0 uv n) i) d1 = d2 at hall hlast hturn
  generalize (upto 16).foldl (fun e c => chanSample e c i) d2 = d3 at hlast
  have hcap : (irqSettle s.die d3).cap = d3.cap := keeps_irqSettle [] s.die d3 .cap (by simp)
  have htb3 : (irqSettle s.die d3).tb = d3.tb := keeps_irqSettle [] s.die d3 .tb (by simp)
  refine ⟨?_, ?_, fun n hn hpn => ?_⟩
  · show (irqSettle s.die d3).cap.next = i + 1
    rw [hcap, hlast.next, hall.next, hm1]
  · show (irqSettle s.die d3).tb.gt = _
    rw [htb3, hlast.tb, hall.parts .tb (by simp), hm2]
  · obtain ⟨x, hbefore, hafter⟩ := hturn n hn
    have hmarkend : markH (irqSettle s.die d3) n = markH (inputSample x n (vget 0 uv n) i) n := by
      rw [markH_irqSettle, markH, hlast.marks, ← markH, hafter.mark]
    have hcfg : getReg x (Reg.CAP_MK_CFG n) = getReg s.die (Reg.CAP_MK_CFG n) := by
      rw [hbefore.regs _ (not_markReg_cfg n), hm5, (hmark n hn).2]
      rfl
    have hpx : powered x (59 + n) = true := by
      rw [powered, hbefore.parts .pwr (by simp), hm4, hpwr]
      exact hpn
    have hbase : (markH x n).base = (markH s.die n).base := by
      rw [hbefore.mark, hm3, (hmark n hn).1]
      rfl
    have hself := inputSample_self x hn hpx (vget 0 uv n) i
    rw [fld_congr (f := Reg.CAP_MK_CFG_GAIN n) hcfg, fld_congr (f := Reg.CAP_MK_CFG_BSH n) hcfg, hbase, ← hmarkend] at hself
    exact hself

/-! Flooding (R169). -/

/-- The live bits of the causes. -/
def floodLive (p : Nat → Bool) : Nat := (upto 3).foldl (fun x c => if p c then setBit x c else x) 0

theorem bitOf_floodLive (p : Nat → Bool) (j : Nat) : bitOf (floodLive p) j = (decide (j < 3) && p j) := bitOf_foldl_setBit p 3 j

theorem floodLive_lt (p : Nat → Bool) : floodLive p < 8 := foldl_setBit_lt p 3

/-- The word of the live and the sticky bits. -/
def floodWord (p : Nat → Bool) (old : Nat) : Nat := floodLive p + ((old / 16 % 8) ||| floodLive p) * 16

theorem putFlood_eq (d : Die) (n : Nat) : putFlood d n =
    putReg d (Reg.CAP_MK_STAT n) (BitVec.ofNat 32 (floodWord (causeActive (markH d n) d.tb.gt) (getReg d (Reg.CAP_MK_STAT n)).toNat)) := rfl

/-- A cause that is no longer active is no longer live, and its sticky bit stands. -/
theorem floodWord_bits {p : Nat → Bool} (k : Fin 3) (hk : p k.val = false) (old : Nat) : floodWord p old < 2 ^ 32 ∧
    bitOf (floodWord p old) k.val = false ∧ (bitOf old (4 + k.val) = true → bitOf (floodWord p old) (4 + k.val) = true) := by
  have hlive : (floodLive p).testBit k.val = false := by
    rw [← bitOf_eq_testBit, bitOf_floodLive, hk, Bool.and_false]
  have hlt := floodLive_lt p
  have hor : old / 16 % 8 ||| floodLive p < 8 := Nat.or_lt_two_pow (n := 3) (Nat.mod_lt _ (by decide)) hlt
  have hbits : ∀ j, (floodWord p old).testBit j =
      if j < 4 then (floodLive p).testBit j else (old / 16 % 8 ||| floodLive p).testBit (j - 4) := fun j => by
    have hsum : floodWord p old = 2 ^ 4 * (old / 16 % 8 ||| floodLive p) + floodLive p := by
      unfold floodWord
      omega
    rw [hsum, Nat.testBit_two_pow_mul_add _ (show floodLive p < 2 ^ 4 by omega)]
  refine ⟨by unfold floodWord; omega, ?_, fun hold => ?_⟩
  · rw [bitOf_eq_testBit, hbits, if_pos (by omega), hlive]
  · rw [bitOf_eq_testBit] at hold
    rw [bitOf_eq_testBit, hbits, if_neg (by omega), Nat.add_sub_cancel_left, Nat.testBit_or, show (8 : Nat) = 2 ^ 3 from rfl,
      Nat.testBit_mod_two_pow, show (16 : Nat) = 2 ^ 4 from rfl, Nat.testBit_div_two_pow, Nat.add_comm, hold]
    simp [k.isLt]

/-- FHOLD ms after its test stopped holding a cause is no longer active. -/
theorem ends_floodHoldExpiry {s : State} {n : Fin 8} {k : Fin 3} (hp : powered s.die (59 + n.val) = true)
    (htest : vget false (markH s.die n.val).test k.val = false) (hbit : bitOf (getReg s.die (Reg.CAP_MK_STAT n.val)).toNat k.val = true) :
    ends (.floodHoldExpiry n k) s fun t =>
      bitOf (getReg t.die (Reg.CAP_MK_STAT n.val)).toNat k.val = false ∧
      (bitOf (getReg s.die (Reg.CAP_MK_STAT n.val)).toNat (4 + k.val) = true →
        bitOf (getReg t.die (Reg.CAP_MK_STAT n.val)).toNat (4 + k.val) = true) ∧
      regsBut (· = Reg.CAP_MK_STAT n.val) s t ∧ keepsBut [.regs, .tb] s t := by
  refine ends_of_onDie (f := fun d => if powered d (59 + n.val) && !vget false (markH d n.val).test k.val &&
      bitOf (getReg d (Reg.CAP_MK_STAT n.val)).toNat k.val
    then putFlood (toGt d (vget 0 (markH d n.val).hold k.val)) n.val else d) rfl ?_
  have hdue : (powered (found s) (59 + n.val) && !vget false (markH (found s) n.val).test k.val &&
      bitOf (getReg (found s) (Reg.CAP_MK_STAT n.val)).toNat k.val) = true := by
    show (powered s.die (59 + n.val) && !vget false (markH s.die n.val).test k.val &&
      bitOf (getReg s.die (Reg.CAP_MK_STAT n.val)).toNat k.val) = true
    rw [hp, htest, hbit]
    rfl
  rw [if_pos hdue]
  have hkeep := keeps_toGt (found s) (vget 0 (markH (found s) n.val).hold k.val)
  have hreg : ∀ off, getReg (toGt (found s) (vget 0 (markH (found s) n.val).hold k.val)) off = getReg s.die off := getReg_toGt _ _
  have hgt := (toGt_tb (found s) (vget 0 (markH (found s) n.val).hold k.val)).1
  have hcap := cap_toGt (found s) (vget 0 (markH (found s) n.val).hold k.val)
  generalize toGt (found s) (vget 0 (markH (found s) n.val).hold k.val) = d at hkeep hreg hgt hcap
  have hmark : markH d n.val = markH s.die n.val := by rw [markH, hcap]; rfl
  have hoff : causeActive (markH d n.val) d.tb.gt k.val = false := by
    have hle : ¬ d.tb.gt < vget 0 (markH s.die n.val).hold k.val := by
      rw [hgt]
      exact Nat.not_lt.2 (Nat.le_max_right _ _)
    rw [causeActive, hmark, htest]
    simpa using hle
  obtain ⟨hlt, hclear, hstick⟩ := floodWord_bits k hoff (getReg d (Reg.CAP_MK_STAT n.val)).toNat
  have hword : (getReg (putFlood d n.val) (Reg.CAP_MK_STAT n.val)).toNat =
      floodWord (causeActive (markH d n.val) d.tb.gt) (getReg d (Reg.CAP_MK_STAT n.val)).toNat := by
    rw [putFlood_eq, getReg_putReg_same, BitVec.toNat_ofNat, Nat.mod_eq_of_lt hlt]
  have haside : MarkAside n.val d (putFlood d n.val) := markAside_putFlood d n.isLt
  refine ⟨?_, fun hold => ?_, regsBut_command fun off ho => ?_, keepsBut_command ((hkeep.mono (by simp)).trans ?_)⟩
  · show bitOf (getReg (irqSettle s.die (putFlood d n.val)) _).toNat _ = _
    rw [getReg_irqSettle, hword, hclear]
  · show bitOf (getReg (irqSettle s.die (putFlood d n.val)) _).toNat _ = _
    rw [getReg_irqSettle, hword]
    exact hstick (by rw [hreg]; exact hold)
  · rw [putFlood_eq, getReg_putReg_ne _ _ ho]
    exact hreg off
  · rw [putFlood_eq]
    exact (keeps_putReg _ _ (by simp) _ _).2 (.refl _ d)

/-- The end of the part's pull of a line. -/
def pullEnded (d : Die) (l : Nat) : Die :=
  match vget none d.cap.xtPull l with
  | some e => updCap (toGt d e) fun k => { k with xtPull := vset k.xtPull l none }
  | none => d

theorem pullEnded_none {d : Die} {l : Nat} (h : vget none d.cap.xtPull l = none) : pullEnded d l = d := by
  rw [pullEnded, h]

theorem pullEnded_some {d : Die} {l e : Nat} (h : vget none d.cap.xtPull l = some e) :
    pullEnded d l = updCap (toGt d e) fun k => { k with xtPull := vset k.xtPull l none } := by
  rw [pullEnded, h]

theorem ends_xtPulseEnd {s : State} (l : Fin 4) : ends (.xtPulseEnd l) s fun t => vget none t.die.cap.xtPull l.val = none ∧
    (∀ e, vget none s.die.cap.xtPull l.val = some e → t.die.tb.gt = max s.die.tb.gt e) ∧
    xtLevel t.die l.val = decide (vget 0 s.die.cap.xtLow l.val ≤ t.die.tb.gt) ∧ keepsBut [.tb, .cap] s t := by
  refine ends_of_onDie (f := (pullEnded · l.val)) rfl ?_
  have hcap : ∀ e : Die, (irqSettle s.die e).cap = e.cap := fun e => keeps_irqSettle [] s.die e .cap (by simp)
  have htb : ∀ e : Die, (irqSettle s.die e).tb = e.tb := fun e => keeps_irqSettle [] s.die e .tb (by simp)
  have hlevel : ∀ e : Die, vget none e.cap.xtPull l.val = none → xtLevel (irqSettle s.die e) l.val =
      decide (vget 0 e.cap.xtLow l.val ≤ e.tb.gt) := fun e h => by
    rw [xtLevel, hcap, htb, h]
    rfl
  cases hp : vget none s.die.cap.xtPull l.val with
  | none =>
    rw [pullEnded_none (d := found s) hp]
    refine ⟨by rw [hcap]; exact hp, nofun, ?_, keepsBut_command (.refl _ _)⟩
    rw [hlevel (found s) hp, htb]
    rfl
  | some e =>
    rw [pullEnded_some (d := found s) hp]
    have hkeep : Keeps [.tb, .cap] (found s) (updCap (toGt (found s) e) fun k => { k with xtPull := vset k.xtPull l.val none }) :=
      (keeps_updCap _ _ (by simp) _).2 ((keeps_toGt (found s) e).mono (by simp))
    have hgt : (updCap (toGt (found s) e) fun k => { k with xtPull := vset k.xtPull l.val none }).tb.gt = max s.die.tb.gt e :=
      (toGt_tb (found s) e).1
    have hlow : (updCap (toGt (found s) e) fun k => { k with xtPull := vset k.xtPull l.val none }).cap.xtLow = s.die.cap.xtLow := by
      show (toGt (found s) e).cap.xtLow = _
      rw [cap_toGt]
      rfl
    have hnone : vget none (updCap (toGt (found s) e) fun k => { k with xtPull := vset k.xtPull l.val none }).cap.xtPull l.val = none :=
      vget_vset_same _ _ _ _ l.isLt
    generalize updCap (toGt (found s) e) (fun k => { k with xtPull := vset k.xtPull l.val none }) = d at hkeep hgt hlow hnone
    refine ⟨by rw [hcap]; exact hnone, fun x hx => ?_, ?_, keepsBut_command hkeep⟩
    · cases hx
      rw [htb, hgt]
    · rw [hlevel _ hnone, htb, hlow]

/-! Arming and disarming (R178). -/

theorem ctl_row : ∀ c : Fin 16, writeBits (Reg.CAP_CH_CTL c.val) = some (0, 0, 7) ∧
    storesBits (Reg.CAP_CH_CTL c.val) = true ∧ inAxis (Reg.CAP_CH_CTL c.val) = false ∧
    cyclic (Reg.CAP_CH_CTL c.val) = false := by decide +kernel

theorem capHook_ctl (d : Die) {c : Nat} (hc : c < 16) (v : Nat) : capHook d (Reg.CAP_CH_CTL c) v =
    (if bitOf v 1 then disarmChan (if bitOf v 0 then armChan d c (bitOf v 2) else d) c
      else if bitOf v 0 then armChan d c (bitOf v 2) else d) := by
  have hoff : Reg.CAP_CH_CTL c = 0xF100 + c * 0x80 := rfl
  have hidx : (Reg.CAP_CH_CTL c - 0xF100) / 0x80 = c := by omega
  unfold capHook
  rw [if_neg (by simp only [Reg.CAP_SWTRIG]; omega), if_pos (by omega), hidx]

/-- A write of CTL does what its bits say, and stores nothing. -/
theorem ends_of_ctl {i : Instr} {s : State} {c : Fin 16} {v : Nat} {P : State → Prop} (ha : accepts s (Reg.CAP_CH_CTL c.val) v)
    (hi : exec i s = onDie (busWrite (Reg.CAP_CH_CTL c.val) v) s)
    (h : ∀ d : Die, Leaves (fun _ => False) (found s) d → Keeps [.regs] (found s) d →
      P { s with die := irqSettle s.die (capHook d (Reg.CAP_CH_CTL c.val) v) }) : ends i s P := by
  obtain ⟨hbits, hstores, hax, hcyc⟩ := ctl_row c
  refine ends_of_accepts ha hi hbits (by decide) fun r hrw hw1c => ?_
  rw [writeStore_of_storesBits hstores, writeHook_capture _ (by simp only [Reg.CAP_CH_CTL]; omega) (by simp only [Reg.CAP_CH_CTL]; omega)]
  exact h _ (leaves_storeReg_of_command hrw hw1c _ _ _) (keeps_storeReg_of_plain _ _ _ _ hax hcyc)

/-- ARM of a declared channel that does not wait or acquire. -/
def armed (d : Die) (c : Nat) (one : Bool) : Die :=
  updChan (setCh d c 1) c fun h =>
    { h with single := one, below := true, cross := none, afterOvf := fld d (Reg.CAP_CH_STAT_OVF c) != 0, fresh := true }

theorem armChan_idle {d : Die} {c : Nat} (hdecl : flag d (Reg.CAP_CH_SRC_DECL c) = true) (h : chState d c = 0 ∨ chState d c = 3)
    (one : Bool) : armChan d c one = armed d c one := by
  unfold armChan
  rw [if_neg (by simpa [hdecl, imp_iff_not_or] using h)]
  rfl

theorem armChan_undeclared {d : Die} {c : Nat} (hdecl : flag d (Reg.CAP_CH_SRC_DECL c) = false) (one : Bool) : armChan d c one = d := by
  unfold armChan
  rw [if_pos (by simp [hdecl])]

/-- What a state change of a channel leaves: the registers but STAT, and everything but the channels. -/
theorem leaves_setCh (d : Die) (c st : Nat) : Leaves (· = Reg.CAP_CH_STAT c) d (setCh d c st) :=
  (leaves_setFld (p := (· = Reg.CAP_CH_STAT c)) _ _ (f := Reg.CAP_CH_STAT_STATE c) rfl _).2 (.refl _ d)

theorem keeps_setCh (d : Die) (c st : Nat) : Keeps [.regs] d (setCh d c st) := (keeps_setFld _ _ (by simp) _ _).2 (.refl _ d)

theorem chState_setCh (d : Die) (c : Nat) {st : Nat} (h : st < 8) : chState (setCh d c st) c = st := by
  rw [chState, setCh, fld_setFld_same _ _ _ (show 0 + 3 ≤ 32 by decide)]
  exact Nat.mod_eq_of_lt h

theorem chanH_irqSettle (c d : Die) (e : Nat) : chanH (irqSettle c d) e = chanH d e := by
  rw [chanH, keeps_irqSettle [] c d .cap (by simp), chanH]

theorem chState_irqSettle (c d : Die) (e : Nat) : chState (irqSettle c d) e = chState d e := fld_irqSettle _ _ _

theorem ctlBits (one : Bool) : bitOf (1 + 4 * b2n one) 0 = true ∧ bitOf (1 + 4 * b2n one) 1 = false ∧ bitOf (1 + 4 * b2n one) 2 = one := by
  cases one <;> decide

/-- What arming and disarming see of the state found. -/
theorem chanH_found {s : State} {d : Die} (h : Keeps [.regs] (found s) d) (e : Nat) : chanH d e = chanH s.die e := by
  rw [chanH, h .cap (by simp)]
  rfl

theorem ends_arm {s : State} {c : Fin 16} {one : Bool} (ha : accepts s (Reg.CAP_CH_CTL c.val) (1 + 4 * b2n one))
    (hdecl : flag s.die (Reg.CAP_CH_SRC_DECL c.val) = true) (hst : chState s.die c.val = 0 ∨ chState s.die c.val = 3) :
    ends (.arm c one) s fun t => chState t.die c.val = 1 ∧ (chanH t.die c.val).single = one ∧
        (chanH t.die c.val).fresh = true ∧ (∀ e, e ≠ c.val → chanH t.die e = chanH s.die e) ∧
        regsBut (· = Reg.CAP_CH_STAT c.val) s t ∧ keepsBut [.regs, .cap] s t := by
  refine ends_of_ctl ha rfl fun d hl hk => ?_
  obtain ⟨h0, h1, h2⟩ := ctlBits one
  have hstate : chState d c.val = chState s.die c.val := fld_of_leaves hl _ not_false
  rw [capHook_ctl d c.isLt, h1, if_neg (by simp), h0, if_pos rfl, h2,
    armChan_idle ((flag_of_leaves hl _ not_false).trans hdecl) (by rw [hstate]; exact hst)]
  have hself : chanH (armed d c.val one) c.val = { chanH d c.val with
      single := one, below := true, cross := none, afterOvf := fld d (Reg.CAP_CH_STAT_OVF c.val) != 0, fresh := true } :=
    chanH_updChan_same _ _ _ c.isLt
  refine ⟨?_, ?_, ?_, fun e he => ?_, regsBut_command ?_, keepsBut_command ?_⟩
  · rw [chState_irqSettle]
    exact chState_setCh d c.val (by decide)
  · rw [chanH_irqSettle, hself]
  · rw [chanH_irqSettle, hself]
  · rw [chanH_irqSettle, ← chanH_found hk]
    exact chanH_updChan_ne _ _ he
  · exact fun off ho => (leaves_setCh d c.val 1 off ho).trans (hl off not_false)
  · exact (hk.mono (by simp)).trans ((keeps_updChan _ _ (by simp) _ _).2 ((keeps_setCh d c.val 1).mono (by simp)))

theorem ends_arm_undeclared {s : State} {c : Fin 16} {one : Bool} (ha : accepts s (Reg.CAP_CH_CTL c.val) (1 + 4 * b2n one))
    (hdecl : flag s.die (Reg.CAP_CH_SRC_DECL c.val) = false) : ends (.arm c one) s fun t =>
      regsBut (fun _ => False) s t ∧ keepsBut [.regs] s t := by
  refine ends_of_ctl ha rfl fun d hl hk => ?_
  obtain ⟨h0, h1, -⟩ := ctlBits one
  rw [capHook_ctl d c.isLt, h1, if_neg (by simp), h0, if_pos rfl, armChan_undeclared ((flag_of_leaves hl _ not_false).trans hdecl)]
  exact ⟨regsBut_command hl, keepsBut_command hk⟩

/-- Where a channel's record is given up, its number is the next one again. -/
theorem discardAcq_spec (d : Die) {c : Nat} (hc : c < 16) : (chanH (discardAcq d c) c).acq = none ∧
    (∀ a, (chanH d c).acq = some a → fld (discardAcq d c) (Reg.CAP_CH_WRSEQ_SEQ c) = a.seq % 2 ^ 28) ∧
    (∀ e, e ≠ c → chanH (discardAcq d c) e = chanH d e) ∧ (chanH (discardAcq d c) c).pend = (chanH d c).pend ∧
    Leaves (· = Reg.CAP_CH_WRSEQ c) d (discardAcq d c) ∧ Keeps [.regs, .cap] d (discardAcq d c) := by
  unfold discardAcq
  split
  next h => exact ⟨h, fun a ha => by simp [h] at ha, fun _ _ => rfl, rfl, .refl _ d, .refl _ d⟩
  next a h =>
    have hself : chanH (updChan (setFld d (Reg.CAP_CH_WRSEQ_SEQ c) a.seq) c fun h => { h with acq := none }) c =
        { chanH d c with acq := none } := chanH_updChan_same _ _ _ hc
    refine ⟨by rw [hself], fun b hb => ?_, fun e he => chanH_updChan_ne _ _ he, by rw [hself], ?_,
      (keeps_updChan _ _ (by simp) _ _).2 ((keeps_setFld _ _ (by simp) _ _).2 (.refl _ d))⟩
    · cases h.symm.trans hb
      exact fld_setFld_same d (Reg.CAP_CH_WRSEQ_SEQ c) a.seq (show 0 + 28 ≤ 32 by decide)
    · exact (leaves_setFld (p := (· = Reg.CAP_CH_WRSEQ c)) _ _ (f := Reg.CAP_CH_WRSEQ_SEQ c) rfl _).2 (.refl _ d)

theorem ends_disarm {s : State} {c : Fin 16} (ha : accepts s (Reg.CAP_CH_CTL c.val) 2) : ends (.disarm c) s fun t =>
    chState t.die c.val = 0 ∧ (chanH t.die c.val).acq = none ∧
    (∀ a, (chanH s.die c.val).acq = some a → fld t.die (Reg.CAP_CH_WRSEQ_SEQ c.val) = a.seq % 2 ^ 28) ∧
    (∀ e, e ≠ c.val → chanH t.die e = chanH s.die e) ∧
    regsBut (fun o => o = Reg.CAP_CH_STAT c.val ∨ o = Reg.CAP_CH_WRSEQ c.val) s t ∧ keepsBut [.regs, .cap] s t := by
  refine ends_of_ctl ha rfl fun d hl hk => ?_
  have hhook : capHook d (Reg.CAP_CH_CTL c.val) 2 = setCh (discardAcq d c.val) c.val 0 := by
    rw [capHook_ctl d c.isLt, if_pos (by decide), if_neg (by decide), disarmChan]
  rw [hhook]
  obtain ⟨hacq, hseq, hothers, -, hleaves, hkeeps⟩ := discardAcq_spec d c.isLt
  generalize discardAcq d c.val = e at hacq hseq hothers hleaves hkeeps
  have hchan : ∀ b, chanH (setCh e c.val 0) b = chanH e b := fun b => by
    rw [chanH, keeps_setCh e c.val 0 .cap (by simp), chanH]
  have hst := leaves_setCh e c.val 0
  refine ⟨?_, ?_, fun a hacq' => ?_, fun b hb => ?_, regsBut_command fun off ho => ?_, keepsBut_command ?_⟩
  · rw [chState_irqSettle]
    exact chState_setCh e c.val (by decide)
  · rw [chanH_irqSettle, hchan, hacq]
  · rw [fld_irqSettle, fld_of_leaves hst _ (by simp only [Reg.CAP_CH_WRSEQ_SEQ, Reg.CAP_CH_WRSEQ, Reg.CAP_CH_STAT]; omega)]
    exact hseq a (by rw [chanH_found hk]; exact hacq')
  · rw [chanH_irqSettle, hchan, hothers b hb, chanH_found hk]
  · obtain ⟨h1, h2⟩ := not_or.1 ho
    exact ((hst off h1).trans (hleaves off h2)).trans (hl off not_false)
  · exact ((hk.mono (by simp)).trans hkeeps).trans ((keeps_setCh e c.val 0).mono (by simp))

/-! The end of a window (R178). -/

/-- The record that waits after its window: its due instant and beat follow from its last sample. -/
def waiting (d : Die) (a : Acq) : Acq :=
  { a with due := 50 * (a.nextI - 1).toNat + 300, dueBeat := beatAt (hz d) (50 * (a.nextI - 1).toNat) + 1 }

/-- The channel after its window, before its state changes. -/
def windowed (d : Die) (c : Nat) (a : Acq) : Die :=
  updChan d c fun h => { h with acq := none, pend := h.pend ++ [waiting d a], last := some ((a.nextI - 1).toNat : Int) }

theorem windowEnd_full {d : Die} {c : Nat} {a : Acq} (hacq : (chanH d c).acq = some a) (hst : chState d c = 2)
    (hfull : a.want ≤ a.samples.length) :
    windowEnd d c = setCh (windowed d c a) c (if (chanH (windowed d c a) c).single then 0 else 1) := by
  have hgo : ¬ (chState d c ≠ 2 ∨ a.samples.length < a.want) := not_or.2 ⟨not_not.2 hst, Nat.not_lt.2 hfull⟩
  unfold windowEnd
  rw [hacq]
  exact if_neg hgo

theorem ends_windowEnd {s : State} {c : Fin 16} {a : Acq} (hacq : (chanH s.die c.val).acq = some a) (hst : chState s.die c.val = 2)
    (hfull : a.want ≤ a.samples.length) : ends (.windowEnd c) s fun t =>
      (chanH t.die c.val).acq = none ∧ (chanH t.die c.val).pend.length = (chanH s.die c.val).pend.length + 1 ∧
      chState t.die c.val = (if (chanH s.die c.val).single then 0 else 1) ∧
      (∀ e, e ≠ c.val → chanH t.die e = chanH s.die e) ∧ regsBut (· = Reg.CAP_CH_STAT c.val) s t ∧
      keepsBut [.regs, .cap] s t := by
  refine ends_of_onDie (f := (windowEnd · c.val)) rfl ?_
  rw [windowEnd_full (d := found s) hacq hst hfull]
  have hself : chanH (windowed (found s) c.val a) c.val = { chanH s.die c.val with
      acq := none, pend := (chanH s.die c.val).pend ++ [waiting (found s) a], last := some ((a.nextI - 1).toNat : Int) } :=
    chanH_updChan_same _ _ _ c.isLt
  have hothers : ∀ e, e ≠ c.val → chanH (windowed (found s) c.val a) e = chanH s.die e := fun e he => chanH_updChan_ne _ _ he
  have hkeep : Keeps [.regs, .cap] (found s) (windowed (found s) c.val a) := (keeps_updChan _ _ (by simp) _ _).2 (.refl _ _)
  have hregs : ∀ off, getReg (windowed (found s) c.val a) off = getReg (found s) off := fun _ => rfl
  generalize windowed (found s) c.val a = d at hself hothers hkeep hregs
  have hchan : ∀ st b, chanH (setCh d c.val st) b = chanH d b := fun st b => by
    rw [chanH, keeps_setCh d c.val st .cap (by simp), chanH]
  refine ⟨?_, ?_, ?_, fun e he => ?_, regsBut_command fun off ho => ?_, keepsBut_command ?_⟩
  · rw [chanH_irqSettle, hchan, hself]
  · rw [chanH_irqSettle, hchan, hself, List.length_append, List.length_singleton]
  · rw [chState_irqSettle, chState_setCh d c.val (by split <;> decide), hself]
  · rw [chanH_irqSettle, hchan, hothers e he]
  · exact (leaves_setCh d c.val _ off ho).trans (hregs off)
  · exact hkeep.trans ((keeps_setCh d c.val _).mono (by simp))

/-! The completion of a record (R182). -/

/-- A step that leaves the count of channel `c`'s records and its waiting ones. -/
structure RecKept (c : Nat) (x d : Die) : Prop where
  count : getReg d (Reg.CAP_CH_CNT_REC c) = getReg x (Reg.CAP_CH_CNT_REC c)
  pend : (chanH d c).pend = (chanH x c).pend

theorem RecKept.refl (c : Nat) (d : Die) : RecKept c d d := ⟨rfl, rfl⟩

theorem RecKept.trans {c : Nat} {x d e : Die} (h : RecKept c x d) (h' : RecKept c d e) : RecKept c x e :=
  ⟨h'.count.trans h.count, h'.pend.trans h.pend⟩

theorem RecKept.ite {p : Prop} [Decidable p] {c : Nat} {x d e : Die} (hd : RecKept c x d) (he : RecKept c x e) :
    RecKept c x (if p then d else e) := by
  split <;> assumption

/-- A step of another part. -/
theorem RecKept.of_leaves {p : Nat → Prop} {ps : List Part} {c : Nat} {x d : Die} (hl : Leaves p x d) (hp : ¬ p (Reg.CAP_CH_CNT_REC c))
    (hk : Keeps ps x d) (hcap : .cap ∉ ps) : RecKept c x d :=
  ⟨hl _ hp, by rw [chanH, hk .cap hcap, chanH]⟩

section Steps

variable (d : Die) (c : Nat)

theorem recKept_setFld {f : Fld} (h : f.off ≠ Reg.CAP_CH_CNT_REC c) (v : Nat) : RecKept c d (setFld d f v) :=
  ⟨getReg_setFld_ne d f v h.symm, rfl⟩

theorem recKept_incReg {o : Nat} (h : o ≠ Reg.CAP_CH_CNT_REC c) : RecKept c d (incReg d o) := ⟨getReg_incReg_ne d o h.symm, rfl⟩

theorem recKept_updChan (hc : c < 16) {f : Chan → Chan} (h : ∀ x, (f x).pend = x.pend) : RecKept c d (updChan d c f) :=
  ⟨rfl, by rw [chanH_updChan_same d c f hc, h]⟩

theorem recKept_group (hc : c < 16) (g : Option Group) : RecKept c d (updChan d c fun h => { h with group := g }) :=
  recKept_updChan d c hc fun _ => rfl

theorem recKept_groupEnd (hc : c < 16) (g : Group) (outcome : Nat) : RecKept c d (groupEnd d c g outcome) := by
  have hne : Reg.CAP_CH_LASTGRP c ≠ Reg.CAP_CH_CNT_REC c := by simp only [Reg.CAP_CH_LASTGRP, Reg.CAP_CH_CNT_REC]; omega
  have hne' : Reg.CAP_CH_CNT_GRPERR c ≠ Reg.CAP_CH_CNT_REC c := by simp only [Reg.CAP_CH_CNT_GRPERR, Reg.CAP_CH_CNT_REC]; omega
  unfold groupEnd
  extract_lets d1 d2
  have h1 : RecKept c d d1 := ((recKept_setFld d c (f := Reg.CAP_CH_LASTGRP_CODE c) hne _).trans
    (recKept_setFld _ c (f := Reg.CAP_CH_LASTGRP_MARKS c) hne _)).trans (recKept_setFld _ c (f := Reg.CAP_CH_LASTGRP_OUTCOME c) hne _)
  have h2 : RecKept c d d2 := .ite (h1.trans (recKept_incReg d1 c hne')) h1
  exact h2.trans (recKept_group d2 c hc _)

theorem recKept_firstAfterArm (hc : c < 16) : RecKept c d (firstAfterArm d c) := by
  unfold firstAfterArm
  split
  · exact (recKept_groupEnd d c hc _ _).trans (recKept_updChan _ c hc fun _ => rfl)
  · exact recKept_updChan d c hc fun _ => rfl

theorem recKept_decodeGroup (hc : c < 16) (good : Bool) (pm : Int) : RecKept c d (decodeGroup d c good pm).d := by
  unfold decodeGroup
  extract_lets h cnt unit tol nmark pmc prev d1 dist d2 g bit o
  have h1 : RecKept c d d1 := recKept_updChan d c hc fun _ => rfl
  clear_value d1
  split
  · split
    · exact recKept_groupEnd d c hc _ _
    · exact .refl c d
  · split
    · have h2 : RecKept c d d2 := by
        show RecKept c d (match h.group with | some g => groupEnd d1 c g 3 | none => d1)
        split
        · exact h1.trans (recKept_groupEnd d1 c hc _ _)
        · exact h1
      clear_value d2
      split
      · exact h2.trans (recKept_groupEnd d2 c hc _ _)
      · exact h2.trans (recKept_group d2 c hc _)
    · split
      · exact h1
      · clear_value bit
        split
        · exact h1.trans (recKept_groupEnd d1 c hc _ _)
        · dsimp only
          split
          · exact h1.trans (recKept_groupEnd d1 c hc _ _)
          · exact h1.trans (recKept_group d1 c hc _)

theorem recKept_postTrim (hc : c < 16) (a : Nat) (v : Int) : RecKept c d (postTrim d a v) := by
  have haxis : ∀ o : Nat, 0x20000 ≤ o → o ≠ Reg.CAP_CH_CNT_REC c := fun o h => by simp only [Reg.CAP_CH_CNT_REC]; omega
  have hlow : Reg.CAP_CH_CNT_REC c < 0x20000 := by simp only [Reg.CAP_CH_CNT_REC]; omega
  have hin : ¬ inAxis (Reg.CAP_CH_CNT_REC c) = true := by
    simp only [inAxis, Bool.and_eq_true, decide_eq_true_eq]
    omega
  unfold postTrim
  split
  · have hmark : ∀ (x : Die) (o b : Nat), RecKept c x (axMark x o b) := fun x o b =>
      ⟨getReg_axMark x o b _, by rw [chanH, (keeps_axMark (ps := [.axLog]) x x (by simp) o b).2 (.refl _ x) .cap (by simp), chanH]⟩
    have hcount := (hmark d (Reg.AX_LS_CNT_TRIMDROP a) 0xFFFFFFFF).trans
      (recKept_incReg _ c (haxis (Reg.AX_LS_CNT_TRIMDROP a) (by simp only [Reg.AX_LS_CNT_TRIMDROP]; omega)))
    have hevent := (hcount.trans (hmark _ (Reg.AX_LS_STAT_TRIMDROP a).off (2 ^ (Reg.AX_LS_STAT_TRIMDROP a).lo * (2 ^ (Reg.AX_LS_STAT_TRIMDROP a).w - 1)))).trans
      (recKept_setFld _ c (f := Reg.AX_LS_STAT_TRIMDROP a) (haxis _ (by simp only [Reg.AX_LS_STAT_TRIMDROP, Reg.AX_LS_STAT]; omega)) 1)
    exact hevent.trans (.of_leaves (leaves_axSettle 1 d.tb.cyc d _) hin (keeps_axSettle 1 d.tb.cyc d _) (by simp))
  · exact ⟨rfl, rfl⟩

theorem recKept_correct (hc : c < 16) (code : Nat) (pm : Int) : RecKept c d (correct d c code pm).1 := by
  have hne : Reg.CAP_CH_CNT_CORR c ≠ Reg.CAP_CH_CNT_REC c := by simp only [Reg.CAP_CH_CNT_CORR, Reg.CAP_CH_CNT_REC]; omega
  unfold correct
  split
  · exact .refl c d
  · extract_lets rpt e e' g d1
    split
    · exact (recKept_postTrim d c hc _ _).trans (recKept_incReg _ c hne)
    · exact .refl c d

theorem recKept_kpost (e : QEnt) : RecKept c d (kpost d 5 e).1 := by
  have hne : Reg.KNL_QFILL 5 ≠ Reg.CAP_CH_CNT_REC c := by simp only [Reg.KNL_QFILL, Reg.CAP_CH_CNT_REC]; omega
  unfold kpost
  extract_lets q
  split
  · exact recKept_setFld d c (f := Reg.KNL_QFILL_FULLCNT 5) hne _
  · unfold maxFld
    split
    · exact (show RecKept c d (setQueue d 5 (q ++ [e])) from ⟨rfl, rfl⟩).trans
        (recKept_setFld (setQueue d 5 (q ++ [e])) c (f := Reg.KNL_QFILL_PEAK 5) hne _)
    · exact ⟨rfl, rfl⟩

theorem leaves_noteBlocked : Leaves (· = Reg.KNL_PP_LOST) d (noteBlocked d) := by
  rw [noteBlocked_eq]
  refine (leaves_updKnl _ _ _).2 (Leaves.foldl (fun x j _ => ?_) d)
  unfold blockedNoted
  extract_lets src
  split
  · split
    · exact leaves_ppEvt_self x _ _ _ _ _ _
    · exact .refl _ x
  · exact .refl _ x

theorem recKept_noteBlocked : RecKept c d (noteBlocked d) :=
  .of_leaves (leaves_noteBlocked d) (by simp only [Reg.KNL_PP_LOST, Reg.CAP_CH_CNT_REC]; omega) (keeps_noteBlocked d) (by simp)

theorem recKept_stopped (hc : c < 16) : RecKept c d (setFld (discardAcq (setCh d c 3) c) (Reg.CAP_CH_STAT_OVF c) 2) := by
  have hne : Reg.CAP_CH_STAT c ≠ Reg.CAP_CH_CNT_REC c := by simp only [Reg.CAP_CH_STAT, Reg.CAP_CH_CNT_REC]; omega
  obtain ⟨-, -, -, hpend, hleaves, -⟩ := discardAcq_spec (setCh d c 3) hc
  exact ((recKept_setFld d c (f := Reg.CAP_CH_STAT_STATE c) hne 3).trans ⟨hleaves _ (by simp only [Reg.CAP_CH_WRSEQ, Reg.CAP_CH_CNT_REC]; omega), hpend⟩).trans
    (recKept_setFld _ c (f := Reg.CAP_CH_STAT_OVF c) hne 2)

/-- What ends the completion of a record: its number is done, it is counted, and AUTOFREE frees its slot. -/
def recEnded (c : Nat) (a : Acq) (aen : Bool) : Die :=
  let e := incReg (setFld d (Reg.CAP_CH_DONESEQ_SEQ c) (a.seq + 1)) (Reg.CAP_CH_CNT_REC c)
  if flag e (Reg.CAP_CH_SRC_AUTOFREE c) && !aen then releaseSeq e c a.seq else e

theorem recKept_sramPut (addr : Nat) (bs : List Byte) : RecKept c d (sramPut d addr bs) := ⟨rfl, rfl⟩

/-- Everything before the end of a completion leaves the count and the waiting records; a flooded record is noted. -/
theorem completeRecord_spec (hc : c < 16) (a : Acq) : ∃ (e : Die) (aen : Bool), completeRecord d c a = recEnded e c a aen ∧
    RecKept c d e ∧ (a.samples.any smpFlood = true → flag e (Reg.CAP_CH_STAT_FLOODREC c) = true) := by
  have hgrp : Reg.CAP_CH_LASTGRP c ≠ Reg.CAP_CH_CNT_REC c := by simp only [Reg.CAP_CH_LASTGRP, Reg.CAP_CH_CNT_REC]; omega
  have hstat : Reg.CAP_CH_STAT c ≠ Reg.CAP_CH_CNT_REC c := by simp only [Reg.CAP_CH_STAT, Reg.CAP_CH_CNT_REC]; omega
  unfold completeRecord
  extract_lets mk pol bi tick t0 pos y m nomark ctoff wfree width d1 ct d2 prev pm flood d3 good dec g r d4 recNo aen p d5 d6
    satur flags len period hdr body slot d7 d8 d9
  have h1 : RecKept c d d1 := .ite ⟨rfl, rfl⟩ (.refl c d)
  have h2 : RecKept c d d2 := .ite (h1.trans (recKept_firstAfterArm d1 c hc)) h1
  have h3 : RecKept c d d3 := h2.trans (recKept_updChan d2 c hc fun _ => rfl)
  have hg : RecKept c d g.d := by
    show RecKept c d (if dec then decodeGroup d3 c good pm.1 else
      { d := d3, code := 0, index := 0, outcome := 0, gstart := false, first := if good then some pm.1 else none }).d
    split
    · exact h3.trans (recKept_decodeGroup d3 c hc _ _)
    · exact h3
  have hr : RecKept c d r.1 := by
    show RecKept c d (match g.first with
      | none => (g.d, false, g.outcome)
      | some x => ((correct g.d c g.code x).1, (correct g.d c g.code x).2.1, if (correct g.d c g.code x).2.2 then g.outcome else 5)).1
    split
    · exact hg
    · exact hg.trans (recKept_correct g.d c hc _ _)
  have h4 : RecKept c d d4 := .ite (hr.trans (recKept_setFld r.1 c (f := Reg.CAP_CH_LASTGRP_OUTCOME c) hgrp 5)) hr
  have hp : RecKept c d p.1 := by
    show RecKept c d (if aen then kpost d4 5 (.desc (fld d4 (Reg.CAP_CH_SRC_ADESC c)) recNo 0) else (d4, true)).1
    split
    · exact h4.trans (recKept_kpost d4 c _)
    · exact h4
  have h5 : RecKept c d d5 := .ite (hp.trans (recKept_noteBlocked p.1 c)) hp
  have h6 : RecKept c d d6 := .ite h5 (h5.trans (recKept_stopped d5 c hc))
  have h7 : RecKept c d d7 := h6.trans (recKept_sramPut d6 c _ _)
  have h8 : RecKept c d d8 := .ite (h7.trans (recKept_setFld d7 c (f := Reg.CAP_CH_STAT_FLOODREC c) hstat 1)) h7
  refine ⟨d8, aen, rfl, h8, fun hf => ?_⟩
  have hd8 : d8 = setFlag d7 (Reg.CAP_CH_STAT_FLOODREC c) := if_pos hf
  rw [hd8]
  exact flag_setFlag_same d7 _ (show 6 + 1 ≤ 32 by decide) rfl

/-- The release of a record's slot writes the FREESEQ of its channel only. -/
theorem leaves_releaseSeq_self (seq : Nat) : Leaves (· = Reg.CAP_CH_FREESEQ c) d (releaseSeq d c seq) := by
  refine Leaves.trans ((leaves_updChan d d c _).2 (.refl _ d)) (Leaves.foldl (fun x _ _ => ?_) _)
  dsimp only
  split
  · exact (leaves_updChan _ _ c _).2 ((leaves_setFld (p := (· = Reg.CAP_CH_FREESEQ c)) _ _ (f := Reg.CAP_CH_FREESEQ_SEQ c) rfl _).2 (.refl _ x))
  · exact .refl _ x

theorem pend_releaseSeq (hc : c < 16) (seq : Nat) : (chanH (releaseSeq d c seq) c).pend = (chanH d c).pend := by
  unfold releaseSeq
  extract_lets d1
  have h1 : (chanH d1 c).pend = (chanH d c).pend := by rw [chanH_updChan_same d c _ hc]
  refine Eq.trans (foldl_keeps (fun e : Die => (chanH e c).pend) (fun e _ => ?_) _ d1) h1
  dsimp only
  split
  · rw [chanH_updChan_same _ c _ hc]
    rfl
  · rfl

/-- What the end of a completion leaves: the registers of its channel but those it writes, and the waiting records. -/
theorem recEnded_spec (hc : c < 16) (a : Acq) (aen : Bool) :
    (chanH (recEnded d c a aen) c).pend = (chanH d c).pend ∧
    fld (recEnded d c a aen) (Reg.CAP_CH_DONESEQ_SEQ c) = (a.seq + 1) % 2 ^ 28 ∧
    getReg (recEnded d c a aen) (Reg.CAP_CH_CNT_REC c) = BitVec.ofNat 32 (satInc 32 (getReg d (Reg.CAP_CH_CNT_REC c)).toNat) ∧
    flag (recEnded d c a aen) (Reg.CAP_CH_STAT_FLOODREC c) = flag d (Reg.CAP_CH_STAT_FLOODREC c) := by
  unfold recEnded
  extract_lets e
  have hne : Reg.CAP_CH_DONESEQ c ≠ Reg.CAP_CH_CNT_REC c := by simp only [Reg.CAP_CH_DONESEQ, Reg.CAP_CH_CNT_REC]; omega
  have hdone : fld e (Reg.CAP_CH_DONESEQ_SEQ c) = (a.seq + 1) % 2 ^ 28 :=
    (fld_congr (f := Reg.CAP_CH_DONESEQ_SEQ c) (getReg_incReg_ne _ _ hne)).trans (fld_setFld_same d _ _ (show 0 + 28 ≤ 32 by decide))
  have hcount : getReg e (Reg.CAP_CH_CNT_REC c) = BitVec.ofNat 32 (satInc 32 (getReg d (Reg.CAP_CH_CNT_REC c)).toNat) := by
    rw [getReg_incReg_same, getReg_setFld_ne d (Reg.CAP_CH_DONESEQ_SEQ c) _ hne.symm]
  have hflood : flag e (Reg.CAP_CH_STAT_FLOODREC c) = flag d (Reg.CAP_CH_STAT_FLOODREC c) := by
    refine (flag_congr (f := Reg.CAP_CH_STAT_FLOODREC c) (getReg_incReg_ne _ _ ?_)).trans (flag_setFld_ne d _ (Reg.CAP_CH_DONESEQ_SEQ c) _ ?_)
    · simp only [Reg.CAP_CH_STAT_FLOODREC, Reg.CAP_CH_STAT, Reg.CAP_CH_CNT_REC]
      omega
    · simp only [Reg.CAP_CH_STAT_FLOODREC, Reg.CAP_CH_STAT, Reg.CAP_CH_DONESEQ_SEQ, Reg.CAP_CH_DONESEQ]
      omega
  have hpend : (chanH e c).pend = (chanH d c).pend := rfl
  clear_value e
  split
  · have hleaves := leaves_releaseSeq_self e c a.seq
    refine ⟨(pend_releaseSeq e c hc a.seq).trans hpend, (fld_of_leaves hleaves _ ?_).trans hdone, (hleaves _ ?_).trans hcount,
      (flag_of_leaves hleaves _ ?_).trans hflood⟩
    · simp only [Reg.CAP_CH_DONESEQ_SEQ, Reg.CAP_CH_DONESEQ, Reg.CAP_CH_FREESEQ]
      omega
    · simp only [Reg.CAP_CH_CNT_REC, Reg.CAP_CH_FREESEQ]
      omega
    · simp only [Reg.CAP_CH_STAT_FLOODREC, Reg.CAP_CH_STAT, Reg.CAP_CH_FREESEQ]
      omega
  · exact ⟨hpend, hdone, hcount, hflood⟩

end Steps

theorem ends_recordComplete {s : State} {c : Fin 16} {a : Acq} {rest : List Acq} (hpend : (chanH s.die c.val).pend = a :: rest)
    (hdue : running s.die = true → a.dueBeat < s.die.tb.k ∨ (a.dueBeat = s.die.tb.k ∧ s.die.tb.phase = 3)) :
    ends (.recordComplete c) s fun t => (chanH t.die c.val).pend = rest ∧
      fld t.die (Reg.CAP_CH_DONESEQ_SEQ c.val) = (a.seq + 1) % 2 ^ 28 ∧
      getReg t.die (Reg.CAP_CH_CNT_REC c.val) =
        BitVec.ofNat 32 (satInc 32 (getReg s.die (Reg.CAP_CH_CNT_REC c.val)).toNat) ∧
      (a.samples.any smpFlood = true → flag t.die (Reg.CAP_CH_STAT_FLOODREC c.val) = true) ∧
      t.dog = s.dog ∧ t.pending = s.pending := by
  refine ends_of_onDie (f := (recordDue · c.val)) rfl ?_
  obtain ⟨d, hd, hreg, hchan⟩ : ∃ d, recordDue (found s) c.val = completeRecord (updChan d c.val fun h => { h with pend := rest }) c.val a ∧
      (∀ off, getReg d off = getReg s.die off) ∧ d.cap = s.die.cap := by
    have hgo : ¬ (running (found s) && !(a.dueBeat < (found s).tb.k || (a.dueBeat == (found s).tb.k && (found s).tb.phase == 3))) = true := by
      show ¬ (running s.die && !(a.dueBeat < s.die.tb.k || (a.dueBeat == s.die.tb.k && s.die.tb.phase == 3))) = true
      simp only [Bool.and_eq_true, Bool.not_eq_true', Bool.or_eq_false_iff, Bool.and_eq_false_iff, decide_eq_false_iff_not,
        beq_eq_false_iff_ne]
      rintro ⟨hrun, hlt, hne⟩
      obtain h | ⟨h, h'⟩ := hdue hrun
      · exact hlt h
      · exact hne.elim (· h) (· h')
    unfold recordDue
    rw [show (chanH (found s) c.val).pend = a :: rest from hpend]
    refine ⟨toGt (toGt (found s) a.due) (fclOf (found s) a.dueBeat), if_neg hgo, fun off => ?_, ?_⟩
    · rw [getReg_toGt, getReg_toGt]
      rfl
    · rw [cap_toGt, cap_toGt]
      rfl
  have hrest : (chanH (updChan d c.val fun h => { h with pend := rest }) c.val).pend = rest := by
    rw [chanH_updChan_same d c.val _ c.isLt]
  have hcount : getReg (updChan d c.val fun h => { h with pend := rest }) (Reg.CAP_CH_CNT_REC c.val) =
      getReg s.die (Reg.CAP_CH_CNT_REC c.val) := hreg _
  obtain ⟨e, aen, heq, hkept, hflood⟩ := completeRecord_spec (updChan d c.val fun h => { h with pend := rest }) c.val c.isLt a
  obtain ⟨hp, hdone, hcnt, hfl⟩ := recEnded_spec e c.val c.isLt a aen
  rw [hd, heq]
  refine ⟨?_, ?_, ?_, fun hf => ?_, rfl, rfl⟩
  · rw [chanH_irqSettle, hp, hkept.pend, hrest]
  · rw [fld_irqSettle, hdone]
  · rw [getReg_irqSettle, hcnt, hkept.count, hcount]
  · rw [flag_irqSettle, hfl, hflood hf]

/-- Settles O31, clause by clause: a sample turns each input once, a window's end and a record's completion only move the record on. -/
theorem captureWindowsAndRecords : Obligations.CaptureWindowsAndRecords := by
  unfold Obligations.CaptureWindowsAndRecords
  exact ⟨fun s uv hp => ends_markSample uv hp, fun s n k hp htest hbit => ends_floodHoldExpiry hp htest hbit,
    fun s hdue => ends_rippleRecord hdue, fun s l => ends_xtPulseEnd l,
    fun s c one ha => ⟨fun hdecl hst => ends_arm ha hdecl hst, fun hdecl => ends_arm_undeclared ha hdecl⟩,
    fun s c ha => ends_disarm ha, fun s c a hacq hst hfull => ends_windowEnd hacq hst hfull,
    fun s c a rest hpend hdue => ends_recordComplete hpend hdue⟩

end Sys2Proof.Machine
end

section
/-! PROOFS. The path states of a segment (R234, R242, R243, R245, R246). -/

namespace Sys2Proof.Machine

open Sys2Proof

/-! What a report leaves. -/

/-- The registers of the Logbook that an event may write. -/
def logReg (off : Nat) : Prop := off = Reg.LOG_CNT_LOST ∨ off = Reg.LOG_STAT

theorem not_logReg {off : Nat} (h : 0xC000 ≤ off) : ¬ logReg off := by
  simp only [logReg, Reg.LOG_CNT_LOST, Reg.LOG_STAT]
  omega

/-- A step that reports only: to the Logbook, or the end of a command to the host. -/
structure Told (c d : Die) : Prop where
  regs : Leaves logReg c d
  parts : Keeps [.regs, .lgb, .host] c d

theorem Told.refl (d : Die) : Told d d := ⟨.refl _ d, .refl _ d⟩

theorem Told.trans {c d e : Die} (h : Told c d) (h' : Told d e) : Told c e := ⟨h.regs.trans h'.regs, h.parts.trans h'.parts⟩

theorem told_logEvt (d : Die) (src code sev p0 p1 p2 : Nat) : Told d (logEvt d src code sev p0 p1 p2) :=
  ⟨(leaves_logEvt (p := logReg) _ _ (.inl rfl) (.inr rfl) ..).2 (.refl _ d), (keeps_logEvt _ _ (by simp) (by simp) ..).2 (.refl _ d)⟩

theorem told_complete (d : Die) (ticket status r0 r1 : Nat) : Told d (complete d ticket status r0 r1) :=
  ⟨(leaves_complete _ _ ..).2 (.refl _ d), (keeps_complete _ _ (by simp) ..).2 (.refl _ d)⟩

theorem Told.fld {c d : Die} (h : Told c d) {f : Fld} (hf : 0xC000 ≤ f.off) : Machine.fld d f = Machine.fld c f :=
  fld_of_leaves h.regs f (not_logReg hf)

theorem Told.flag {c d : Die} (h : Told c d) {f : Fld} (hf : 0xC000 ≤ f.off) : Machine.flag d f = Machine.flag c f :=
  flag_of_leaves h.regs f (not_logReg hf)

theorem Told.segH {c d : Die} (h : Told c d) (g : Nat) : Machine.segH d g = Machine.segH c g := by
  rw [Machine.segH, h.parts .segs (by simp), Machine.segH]

theorem Told.powered {c d : Die} (h : Told c d) (n : Nat) : Machine.powered d n = Machine.powered c n := by
  rw [Machine.powered, h.parts .pwr (by simp), Machine.powered]

theorem pathState_irqSettle (c d : Die) (seg : Nat) : pathState (irqSettle c d) seg = pathState d seg := fld_irqSettle _ _ _

theorem powered_irqSettle (c d : Die) (n : Nat) : powered (irqSettle c d) n = powered d n := by
  rw [powered, keeps_irqSettle [] c d .pwr (by simp), powered]

theorem segH_updSeg_ne (d : Die) {n g : Nat} (f : Seg → Seg) (h : g ≠ n) : segH (updSeg d n f) g = segH d g :=
  vget_vset_ne _ _ _ h

section Segment

variable (d : Die) (seg : Nat)

/-- The tail section without power. -/
theorem tailOff_spec : powered (tailPower d seg false) (50 + seg) = false ∧
    Leaves (· = Reg.LSH_PSTAT (2 * seg + 1)) d (tailPower d seg false) ∧ Keeps [.regs, .pwr] d (tailPower d seg false) :=
  ⟨bitOf_clrBit_same _ _,
    (leaves_setFld (p := (· = Reg.LSH_PSTAT (2 * seg + 1))) _ _ (f := Reg.LSH_PSTAT_TXON (2 * seg + 1)) rfl _).2
      ((leaves_updPwr _ _ _).2 (.refl _ d)),
    (keeps_setFld _ _ (by simp) _ _).2 ((keeps_updPwr _ _ (by simp) _).2 (.refl _ d))⟩

theorem pathState_setFld {v : Nat} (h : v < 8) : pathState (setFld d (Reg.LSH_PATH_STATE seg) v) seg = v := by
  rw [pathState, fld_setFld_same _ _ _ (show 0 + 3 ≤ 32 by decide)]
  exact Nat.mod_eq_of_lt h

theorem pathState_tailOff : pathState (tailPower d seg false) seg = pathState d seg := by
  refine fld_of_leaves (tailOff_spec d seg).2.1 (Reg.LSH_PATH_STATE seg) ?_
  simp only [Reg.LSH_PATH_STATE, Reg.LSH_PATH, Reg.LSH_PSTAT]
  omega

end Segment

/-! The snapshot (R234, R242). -/

theorem restoreSnap_good {d : Die} {seg : Nat} (h : (segH d seg).snap.crc = snapCrc (segH d seg).snap.words) :
    restoreSnap d seg true = d := by
  unfold restoreSnap
  rw [if_pos (by simp [h])]

theorem ends_snapshotGood {s : State} {seg : Fin 4} {good : Bool} (hgood : good = true)
    (h : (segH s.die seg.val).snap.crc = snapCrc (segH s.die seg.val).snap.words) :
    ends (.snapshotRestore seg good) s (keepsBut [] s) := by
  subst hgood
  exact ends_idle (i := .snapshotRestore seg true) (f := (restoreSnap · seg.val true)) rfl (restoreSnap_good (d := found s) h) []

/-- A fail-over without a sound snapshot ends in RING. -/
def failOverEnd (d : Die) (seg : Nat) : Die := setFlag (setFld (tailPower d seg false) (Reg.LSH_PATH_STATE seg) 0) (Reg.LSH_PATH_FOFAIL seg)

theorem pathState_ended (d : Die) (seg : Nat) :
    pathState (setFlag (setFld d (Reg.LSH_PATH_STATE seg) 0) (Reg.LSH_PATH_FOFAIL seg)) seg = 0 := by
  rw [setFlag, pathState, fld_setFld_below _ (Reg.LSH_PATH_STATE seg) (Reg.LSH_PATH_FOFAIL seg) 1 rfl (show 0 + 3 ≤ 5 by decide)
    (show 5 + 1 ≤ 32 by decide)]
  exact pathState_setFld d seg (by decide)

theorem failOverEnd_spec (d : Die) (seg : Nat) : pathState (failOverEnd d seg) seg = 0 ∧
    flag (failOverEnd d seg) (Reg.LSH_PATH_FOFAIL seg) = true ∧ powered (failOverEnd d seg) (50 + seg) = false ∧
    Keeps [.regs, .pwr] d (failOverEnd d seg) := by
  obtain ⟨hoff, -, hkeep⟩ := tailOff_spec d seg
  rw [failOverEnd]
  generalize tailPower d seg false = e at hoff hkeep
  have hset : Keeps [.regs] e (setFlag (setFld e (Reg.LSH_PATH_STATE seg) 0) (Reg.LSH_PATH_FOFAIL seg)) :=
    (keeps_setFlag _ _ (by simp) _).2 ((keeps_setFld _ _ (by simp) _ _).2 (.refl _ e))
  have hflag : flag (setFlag (setFld e (Reg.LSH_PATH_STATE seg) 0) (Reg.LSH_PATH_FOFAIL seg)) (Reg.LSH_PATH_FOFAIL seg) = true :=
    flag_setFlag_same _ (Reg.LSH_PATH_FOFAIL seg) (show 5 + 1 ≤ 32 by decide) rfl
  exact ⟨pathState_ended e seg, hflag, (powered_of_keeps hset (by simp) _).trans hoff, hkeep.trans (hset.mono (by simp))⟩

theorem restoreSnap_bad {d : Die} {seg : Nat} {good : Bool} (hst : pathState d seg = 2)
    (h : good = false ∨ (segH d seg).snap.crc ≠ snapCrc (segH d seg).snap.words) :
    restoreSnap d seg good = logEvt (failOverEnd d seg) 5 0x11 2 seg 0 0 := by
  unfold restoreSnap
  rw [if_neg (by simpa [imp_iff_not_or] using h), if_pos hst]
  rfl

theorem ends_snapshotBad {s : State} {seg : Fin 4} {good : Bool} (hst : pathState s.die seg.val = 2)
    (h : good = false ∨ (segH s.die seg.val).snap.crc ≠ snapCrc (segH s.die seg.val).snap.words) :
    ends (.snapshotRestore seg good) s fun t =>
        pathState t.die seg.val = 0 ∧ flag t.die (Reg.LSH_PATH_FOFAIL seg.val) = true ∧
        powered t.die (50 + seg.val) = false ∧ keepsBut [.regs, .pwr, .lgb] s t := by
  refine ends_of_onDie (f := (restoreSnap · seg.val good)) rfl ?_
  rw [restoreSnap_bad (d := found s) hst h]
  obtain ⟨hstate, hflag, hoff, hfail⟩ := failOverEnd_spec (found s) seg.val
  have htold := told_logEvt (failOverEnd (found s) seg.val) 5 0x11 2 seg.val 0 0
  have hlog : Keeps [.regs, .lgb] (failOverEnd (found s) seg.val) (logEvt (failOverEnd (found s) seg.val) 5 0x11 2 seg.val 0 0) :=
    (keeps_logEvt _ _ (by simp) (by simp) ..).2 (.refl _ _)
  generalize failOverEnd (found s) seg.val = d at hstate hflag hoff hfail htold hlog
  have hpath : 0xC000 ≤ Reg.LSH_PATH seg.val := by simp only [Reg.LSH_PATH]; omega
  refine ⟨?_, ?_, ?_, keepsBut_command ((hfail.mono (by simp)).trans (hlog.mono (by simp)))⟩
  · rw [pathState_irqSettle, pathState, htold.fld (f := Reg.LSH_PATH_STATE seg.val) hpath]
    exact hstate
  · rw [flag_irqSettle, htold.flag (f := Reg.LSH_PATH_FOFAIL seg.val) hpath]
    exact hflag
  · rw [powered_irqSettle, htold.powered, hoff]

/-! Two-line running (R243). -/

theorem beatFrame_ne (d : Die) (seg flags : Nat) : beatFrame d seg flags ≠ [] := by
  intro h
  have hlen := congrArg List.length h
  simp only [beatFrame, onWire, preamble, List.length_append, List.length_replicate, List.length_cons, List.length_nil] at hlen
  omega

/-- What a launch leaves in its segment. -/
theorem launchAs_spec (d : Die) {seg : Nat} (hseg : seg < 4) (form : Option Nat × Option Nat) :
    (segH (launchAs d seg form) seg).rxHead = rxBeat0 ∧ (segH (launchAs d seg form) seg).rxTail = rxBeat0 ∧
    (segH (launchAs d seg form) seg).acyclic = [] ∧ (segH (launchAs d seg form) seg).wholeRun = (segH d seg).wholeRun ∧
    (segH (launchAs d seg form) seg).lines = (segH d seg).lines ∧
    (∀ fl, form.1 = some fl → (segH (launchAs d seg form) seg).lastFrame =
      if powered d (42 + 2 * seg) && (fl == 0 || rxOn d (2 * seg)) then beatFrame d seg fl else []) ∧
    (∀ g, g ≠ seg → segH (launchAs d seg form) g = segH d g) ∧ (∀ off, getReg (launchAs d seg form) off = getReg d off) ∧
    Keeps [.segs] d (launchAs d seg form) := by
  unfold launchAs
  extract_lets two head tail
  rw [segH_updSeg_same _ _ _ hseg]
  refine ⟨rfl, rfl, rfl, rfl, rfl, fun fl hfl => ?_, fun g hg => segH_updSeg_ne _ _ hg, fun _ => rfl, (keeps_updSeg _ _ (by simp) _ _).2 (.refl _ d)⟩
  show head = _
  simp only [head, two, hfl, bne, Bool.not_not]

/-- The segment as two-line running finds it. -/
def twoLined (d : Die) (seg : Nat) : Die :=
  updSeg (setFld d (Reg.LSH_PATH_STATE seg) 3) seg fun s => { s with wholeRun := 0, lines := none }

theorem twolineStart_due {d : Die} {seg : Nat} (hrun : running d = true) (hphase : d.tb.phase = 0) (hst : pathState d seg = 2)
    (hdue : (segH d seg).failBeat + 3 ≤ d.tb.k) :
    twolineStart d seg = launchAs (twoLined d seg) seg (launchForm (twoLined d seg) seg) := by
  unfold twolineStart
  rw [if_pos (by simp [hrun, hphase, hst, hdue])]
  rfl

theorem launchForm_two {d : Die} {seg : Nat} (h : pathState d seg = 3) : launchForm d seg = (some 0x0A, some 0x0B) := by
  unfold launchForm
  rw [h]
  rfl

theorem ends_twolineLaunch {s : State} {seg : Fin 4} (hrun : running s.die = true) (hphase : s.die.tb.phase = 0)
    (hst : pathState s.die seg.val = 2) (hdue : (segH s.die seg.val).failBeat + 3 ≤ s.die.tb.k) : ends (.twolineLaunch seg) s fun t =>
      pathState t.die seg.val = 3 ∧ (segH t.die seg.val).wholeRun = 0 ∧
      (segH t.die seg.val).lines = none ∧ (segH t.die seg.val).acyclic = [] ∧ (segH t.die seg.val).rxHead = rxBeat0 ∧
      (segH t.die seg.val).rxTail = rxBeat0 ∧
      ((segH t.die seg.val).lastFrame ≠ [] ↔ powered s.die (42 + 2 * seg.val) = true ∧ rxOn s.die (2 * seg.val) = true) ∧
      regsBut (· = Reg.LSH_PATH seg.val) s t ∧
      (∀ g, g ≠ seg.val → segH t.die g = segH s.die g) ∧ keepsBut [.regs, .segs] s t := by
  refine ends_of_onDie (f := (twolineStart · seg.val)) rfl ?_
  rw [twolineStart_due (d := found s) hrun hphase hst hdue]
  have hstate : pathState (twoLined (found s) seg.val) seg.val = 3 := pathState_setFld (found s) seg.val (by decide)
  have hself : segH (twoLined (found s) seg.val) seg.val = { segH s.die seg.val with wholeRun := 0, lines := none } :=
    segH_updSeg_same _ _ _ seg.isLt
  have hothers : ∀ g, g ≠ seg.val → segH (twoLined (found s) seg.val) g = segH s.die g := fun g hg => segH_updSeg_ne _ _ hg
  have hregs : Leaves (· = Reg.LSH_PATH seg.val) (found s) (twoLined (found s) seg.val) :=
    (leaves_setFld (p := (· = Reg.LSH_PATH seg.val)) _ _ (f := Reg.LSH_PATH_STATE seg.val) rfl _).2 (.refl _ _)
  have hkeep : Keeps [.regs, .segs] (found s) (twoLined (found s) seg.val) :=
    (keeps_updSeg _ _ (by simp) _ _).2 ((keeps_setFld _ _ (by simp) _ _).2 (.refl _ _))
  rw [launchForm_two hstate]
  generalize twoLined (found s) seg.val = d at hstate hself hothers hregs hkeep
  obtain ⟨hhead, htail, hacyc, hrunw, hlines, hframe, hseg, hreg, hk⟩ := launchAs_spec d seg.isLt (some 0x0A, some 0x0B)
  have hpow : ∀ n, powered d n = powered s.die n := fun n => by
    rw [powered, hkeep .pwr (by simp)]
    rfl
  have hrx : rxOn d (2 * seg.val) = rxOn s.die (2 * seg.val) := by
    rw [rxOn, hpow, flag_of_leaves hregs (Reg.LSH_PSTAT_RXSYNC (2 * seg.val))
      (by simp only [Reg.LSH_PSTAT_RXSYNC, Reg.LSH_PSTAT, Reg.LSH_PATH]; omega)]
    rfl
  have hlast := hframe 0x0A rfl
  rw [show ((0x0A : Nat) == 0) = false from rfl, Bool.false_or, hpow, hrx] at hlast
  refine ⟨?_, ?_, ?_, ?_, ?_, ?_, ?_, regsBut_command fun off ho => (hreg off).trans (hregs off ho), fun g hg => ?_,
    keepsBut_command (hkeep.trans (hk.mono (by simp)))⟩
  · rw [pathState_irqSettle, pathState, fld_congr (f := Reg.LSH_PATH_STATE seg.val) (hreg _)]
    exact hstate
  · rw [segH_irqSettle, hrunw, hself]
  · rw [segH_irqSettle, hlines, hself]
  · rw [segH_irqSettle, hacyc]
  · rw [segH_irqSettle, hhead]
  · rw [segH_irqSettle, htail]
  · rw [segH_irqSettle, hlast]
    by_cases h : (powered s.die (42 + 2 * seg.val) && rxOn s.die (2 * seg.val)) = true
    · rw [if_pos h]
      exact iff_of_true (beatFrame_ne _ _ _) (Bool.and_eq_true_iff.1 h)
    · rw [if_neg h]
      exact iff_of_false (· rfl) (fun h' => h (Bool.and_eq_true_iff.2 h'))
  · rw [segH_irqSettle, hseg g hg, hothers g hg]

/-! The switch-back (R245). -/

/-- The segment after a switch-back that stayed good, before the reports. -/
def returned (d : Die) (seg : Nat) : Die :=
  putReg (setFld (tailPower (updSeg d seg fun s => { s with retBeat := none, swTicket := 0, wholeRun := 0, lines := none }) seg false)
    (Reg.LSH_PATH_STATE seg) 0) (Reg.LSH_BREAK seg) 0x3F3F

theorem returnDone_due {d : Die} {seg e : Nat} (he : (segH d seg).retBeat = some e) (hst : pathState d seg = 4)
    (hdue : e + 15 ≤ d.tb.k) (hphase : d.tb.phase = 3) : Told (returned d seg) (returnDone d seg) := by
  have hend : returnDone d seg = returnEnd d seg true := by
    unfold returnDone
    rw [he]
    exact if_pos (by simp [hst, hdue, hphase])
  rw [hend]
  exact (told_complete (returned d seg) _ _ _ _).trans (told_logEvt _ _ _ _ _ _ _)

theorem returned_spec (d : Die) {seg : Nat} (hseg : seg < 4) : pathState (returned d seg) seg = 0 ∧
    getReg (returned d seg) (Reg.LSH_BREAK seg) = 0x3F3F ∧ (segH (returned d seg) seg).swTicket = 0 ∧
    powered (returned d seg) (50 + seg) = false := by
  unfold returned
  have hself := segH_updSeg_same d seg (fun s => { s with retBeat := none, swTicket := 0, wholeRun := 0, lines := none }) hseg
  generalize updSeg d seg (fun s => { s with retBeat := none, swTicket := 0, wholeRun := 0, lines := none }) = d1 at hself
  obtain ⟨hoff, -, hkeep⟩ := tailOff_spec d1 seg
  generalize tailPower d1 seg false = d2 at hoff hkeep
  have hsegs : segH d2 seg = segH d1 seg := by rw [segH, hkeep .segs (by simp), segH]
  have hne : (Reg.LSH_PATH_STATE seg).off ≠ Reg.LSH_BREAK seg := by simp only [Reg.LSH_PATH_STATE, Reg.LSH_PATH, Reg.LSH_BREAK]; omega
  refine ⟨?_, getReg_putReg_same _ _ _, ?_, hoff⟩
  · rw [pathState, fld_putReg_ne _ _ _ hne]
    exact pathState_setFld d2 seg (by decide)
  · show (segH d2 seg).swTicket = 0
    rw [hsegs, hself]

theorem ends_switchbackEnd {s : State} {seg : Fin 4} {e : Nat} (he : (segH s.die seg.val).retBeat = some e)
    (hst : pathState s.die seg.val = 4) (hdue : e + 15 ≤ s.die.tb.k) (hphase : s.die.tb.phase = 3) :
    ends (.switchbackEnd seg) s fun t =>
      pathState t.die seg.val = 0 ∧ getReg t.die (Reg.LSH_BREAK seg.val) = 0x3F3F ∧
      (segH t.die seg.val).swTicket = 0 ∧ powered t.die (50 + seg.val) = false := by
  refine ends_of_onDie (f := (returnDone · seg.val)) rfl ?_
  have htold := returnDone_due (d := found s) he hst hdue hphase
  obtain ⟨hpath, hbreak, hticket, hoff⟩ := returned_spec (found s) seg.isLt
  have hlow : 0xC000 ≤ Reg.LSH_PATH seg.val := by simp only [Reg.LSH_PATH]; omega
  refine ⟨?_, ?_, ?_, ?_⟩
  · rw [pathState_irqSettle, pathState, htold.fld (f := Reg.LSH_PATH_STATE seg.val) hlow]
    exact hpath
  · rw [getReg_irqSettle, htold.regs _ (not_logReg (by simp only [Reg.LSH_BREAK]; omega)), hbreak]
  · rw [segH_irqSettle, htold.segH, hticket]
  · rw [powered_irqSettle, htold.powered, hoff]

/-! The phases of a proof (R246). -/

theorem proofPhase_self (d : Die) {seg : Nat} (hseg : seg < 4) (p beat : Nat) : (segH (proofPhase d seg p beat) seg).proof = p ∧
    (segH (proofPhase d seg p beat) seg).proofBeat = beat := by
  rw [proofPhase, segH_updSeg_same _ _ _ hseg]
  exact ⟨rfl, rfl⟩

/-- A phase that passed is followed by the next one, in the beat after. -/
theorem proofNext_phase {d : Die} {seg : Nat} (hseg : seg < 4) (h : (segH d seg).proof < 4) :
    (segH (proofNext d seg false) seg).proof = (segH d seg).proof + 1 ∧ (segH (proofNext d seg false) seg).proofBeat = d.tb.k + 1 ∧
    pathState (proofNext d seg false) seg = pathState d seg := by
  unfold proofNext
  extract_lets p
  have hp : p < 4 := h
  rw [if_neg (by omega)]
  split
  next h3 =>
    have hp3 : p = 3 := by simpa using h3
    obtain ⟨hproof, hbeat⟩ := proofPhase_self (tailPower d seg false) hseg 4 (d.tb.k + 1)
    exact ⟨by rw [hproof]; omega, hbeat, pathState_tailOff d seg⟩
  next h3 =>
    obtain ⟨hproof, hbeat⟩ := proofPhase_self d hseg (p + 1) (d.tb.k + 1)
    exact ⟨hproof, hbeat, rfl⟩

/-- The segment at the end of a proof, before the command completes. -/
def proven (d : Die) (seg : Nat) : Die := setFlag (setFld (tailPower d seg false) (Reg.LSH_PATH_STATE seg) 0) (Reg.LSH_PROOF_VALID seg)

theorem proofEnd_spec (d : Die) {seg : Nat} (hseg : seg < 4) : (segH (proofEnd d seg) seg).proof = 0 ∧
    pathState (proofEnd d seg) seg = 0 ∧ flag (proofEnd d seg) (Reg.LSH_PROOF_VALID seg) = true := by
  have hproven : pathState (proven d seg) seg = 0 := by
    have hne : (Reg.LSH_PATH_STATE seg).off ≠ (Reg.LSH_PROOF_VALID seg).off := by
      simp only [Reg.LSH_PATH_STATE, Reg.LSH_PATH, Reg.LSH_PROOF_VALID, Reg.LSH_PROOF]
      omega
    rw [proven, setFlag, pathState, fld_setFld_ne _ _ _ _ hne]
    exact pathState_setFld _ seg (by decide)
  have hvalid : flag (proven d seg) (Reg.LSH_PROOF_VALID seg) = true := flag_setFlag_same _ _ (show 31 + 1 ≤ 32 by decide) rfl
  obtain ⟨t, st, r0, ok, w, heq⟩ : ∃ t st r0 ok w, proofEnd d seg =
      logEvt (updSeg (complete (proven d seg) t st r0 0) seg fun s => { s with proof := 0, proofTicket := 0 }) 5 0x12 0 seg ok w :=
    ⟨_, _, _, _, _, rfl⟩
  rw [heq]
  have hcomplete := told_complete (proven d seg) t st r0 0
  generalize complete (proven d seg) t st r0 0 = d1 at hcomplete
  have hself := segH_updSeg_same d1 seg (fun s => { s with proof := 0, proofTicket := 0 }) hseg
  have hregs : ∀ off, getReg (updSeg d1 seg fun s => { s with proof := 0, proofTicket := 0 }) off = getReg d1 off := fun _ => rfl
  generalize updSeg d1 seg (fun s => { s with proof := 0, proofTicket := 0 }) = d2 at hself hregs
  have hlog := told_logEvt d2 5 0x12 0 seg ok w
  have hpath : 0xC000 ≤ (Reg.LSH_PATH_STATE seg).off := by simp only [Reg.LSH_PATH_STATE, Reg.LSH_PATH]; omega
  have hproof : 0xC000 ≤ (Reg.LSH_PROOF_VALID seg).off := by simp only [Reg.LSH_PROOF_VALID, Reg.LSH_PROOF]; omega
  refine ⟨?_, ?_, ?_⟩
  · rw [hlog.segH, hself]
  · rw [pathState, hlog.fld hpath, fld_congr (hregs _), hcomplete.fld hpath]
    exact hproven
  · rw [hlog.flag hproof, flag_congr (hregs _), hcomplete.flag hproof, hvalid]

theorem ends_proofPhaseEnd {s : State} {seg : Fin 4} (hst : pathState s.die seg.val = 5) (hproof : (segH s.die seg.val).proof ≠ 0)
    (hdue : (segH s.die seg.val).proofBeat + 3 + judgedBeats (segH s.die seg.val).proof ≤ s.die.tb.k) (hphase : s.die.tb.phase = 3) :
    ends (.proofPhaseEnd seg) s fun t =>
      ((segH s.die seg.val).proof < 4 → (segH t.die seg.val).proof = (segH s.die seg.val).proof + 1 ∧
        (segH t.die seg.val).proofBeat = s.die.tb.k + 1 ∧ pathState t.die seg.val = 5) ∧
      ((segH s.die seg.val).proof = 4 → (segH t.die seg.val).proof = 0 ∧ pathState t.die seg.val = 0 ∧
        flag t.die (Reg.LSH_PROOF_VALID seg.val) = true) := by
  refine ends_of_onDie (f := (proofDone · seg.val)) rfl ?_
  have hgo : proofDone (found s) seg.val = proofNext (found s) seg.val false := by
    have hcond : (pathState (found s) seg.val == 5 && (segH (found s) seg.val).proof != 0 &&
        decide ((segH (found s) seg.val).proofBeat + 3 + judgedBeats (segH (found s) seg.val).proof ≤ (found s).tb.k) &&
        (found s).tb.phase == 3) = true := by
      show (pathState s.die seg.val == 5 && (segH s.die seg.val).proof != 0 &&
        decide ((segH s.die seg.val).proofBeat + 3 + judgedBeats (segH s.die seg.val).proof ≤ s.die.tb.k) &&
        s.die.tb.phase == 3) = true
      simp [hst, hproof, hdue, hphase]
    exact if_pos hcond
  rw [hgo]
  refine ⟨fun hlt => ?_, fun h4 => ?_⟩
  · obtain ⟨hp, hb, hpath⟩ := proofNext_phase (d := found s) seg.isLt hlt
    rw [segH_irqSettle, pathState_irqSettle, hp, hb, hpath]
    exact ⟨rfl, rfl, hst⟩
  · obtain ⟨hp, hpath, hvalid⟩ := proofEnd_spec (found s) seg.isLt
    rw [segH_irqSettle, pathState_irqSettle, flag_irqSettle, show proofNext (found s) seg.val false = proofEnd (found s) seg.val from if_pos h4]
    exact ⟨hp, hpath, hvalid⟩

/-- Settles O36: every row of the path states is one launch or one field of LSH_n_PATH, and reports leave the segment alone. -/
theorem pathStateEvents : Obligations.PathStateEvents := by
  unfold Obligations.PathStateEvents
  exact ⟨fun s seg good => ⟨fun hgood h => ends_snapshotGood hgood h, fun hst h => ends_snapshotBad hst h⟩,
    fun s seg hrun hphase hst hdue => ends_twolineLaunch hrun hphase hst hdue,
    fun s seg e he hst hdue hphase => ends_switchbackEnd he hst hdue hphase,
    fun s seg hst hproof hdue hphase => ends_proofPhaseEnd hst hproof hdue hphase⟩

end Sys2Proof.Machine
end

section
/-! PROOFS. O33: a note of an axis-state word that has no place yet gets the place of the in-slot's command (R58). -/

namespace Sys2Proof.Machine

open Sys2Proof

/-- Segment 0 runs with one slot, of axis 0; among the writes of axis-state words stands a note that no port has taken. -/
def inSlotNoted : State :=
  { State.reset with
    die :=
      let run := setFlag (setFlag (setFlag State.reset.die Reg.BEAT_CFG_RUN) (Reg.LSH_SCFG_DECL 0)) (Reg.LSH_SSTAT_RUN 0)
      let slots := putReg (setFld (setFlag run (Reg.LSH_PSTAT_RXSYNC 1)) (Reg.LSH_SCFG_NSLOT 0) 1) (Reg.LSH_SLOTMAP 0 0) 0x80
      updPwr { slots with axLog := [⟨Reg.AX_CFG 0, 0, 9, 0, 0⟩] } fun p => { p with dom := setBit p.dom 43 } }

/-- Refutes O33: the in-slot of a frame with a bad header ends its cycle as the network port, and a note without a port becomes that
port's, so that the list of the writes of R58 does not stand in every state. -/
theorem not_inSlotFeedback : ¬ Obligations.InSlotFeedback := by
  unfold Obligations.InSlotFeedback
  intro h
  obtain ⟨-, hreceived⟩ := h inSlotNoted 1 0 [] [] 0
  obtain ⟨-, -, hbad, -⟩ := hreceived (by decide +kernel) (by decide +kernel) (by decide +kernel) (by decide +kernel)
  obtain ⟨t, ht, -, -, -, hkeep⟩ := hbad (by decide +kernel)
  obtain ⟨-, -, -, hparts⟩ := hkeep
  have hlog : t.die.axLog = inSlotNoted.die.axLog := hparts .axLog (by decide)
  have hbefore : inSlotNoted.die.axLog.map (·.port) = [9] := by decide +kernel
  have hafter : t.die.axLog.map (·.port) = [0] := eq_of_nextOf (f := fun t => t.die.axLog.map (·.port)) ht (by decide +kernel)
  rw [hlog, hbefore] at hafter
  exact absurd hafter (by decide)

end Sys2Proof.Machine
end

section
/-! PROOFS. The frames of a Leash segment (R205, R206, R216, R220, R223, R235, R238). -/

namespace Sys2Proof.Machine

open Sys2Proof

/-! The returned beat frame (R220, R235). -/

/-- The registers that a measurement of the path writes. -/
def measReg (seg off : Nat) : Prop := off = Reg.LSH_TPATH seg ∨ off = Reg.LSH_SSTAT seg ∨ off = Reg.LSH_MBXWAIT seg

/-- A measurement leaves what is known of the beat's frames. -/
structure PathTimed (seg : Nat) (c d : Die) : Prop where
  regs : Leaves (measReg seg) c d
  head : (segH d seg).rxHead = (segH c seg).rxHead
  tail : (segH d seg).rxTail = (segH c seg).rxTail

theorem PathTimed.refl (seg : Nat) (d : Die) : PathTimed seg d d := ⟨.refl _ d, rfl, rfl⟩

theorem PathTimed.trans {seg : Nat} {c d e : Die} (h : PathTimed seg c d) (h' : PathTimed seg d e) : PathTimed seg c e :=
  ⟨h.regs.trans h'.regs, h'.head.trans h.head, h'.tail.trans h.tail⟩

section Steps

variable (d : Die) (seg : Nat)

theorem pathTimed_setFld {f : Fld} (h : measReg seg f.off) (v : Nat) : PathTimed seg d (setFld d f v) :=
  ⟨(leaves_setFld _ _ h v).2 (.refl _ d), rfl, rfl⟩

theorem pathTimed_updNode (i : Nat) (f : Node → Node) : PathTimed seg d (updNode d seg i f) := ⟨.of_regs rfl, rfl, rfl⟩

theorem pathTimed_mbxQueue (i code : Nat) (data : List Byte) : PathTimed seg d (mbxQueue d seg i code data 0) := by
  unfold mbxQueue
  extract_lets d1
  rw [if_pos rfl]
  exact pathTimed_updNode d seg i _

/-- The OFFSET message of one node (R220). -/
def offsetDue (d : Die) (i : Nat) : Die :=
  if nodeState d seg i ≠ 2 then d else
  match (nodeH d seg i).sentOfs with
  | some (f, r) =>
    let n := nodeOfs d seg i
    if 16 < ((n.1 : Int) - f).natAbs ∨ 16 < ((n.2 : Int) - r).natAbs then
      updNode (mbxQueue d seg i 2 (leBytes 2 n.1 ++ leBytes 2 n.2) 0) seg i fun x => { x with sentOfs := some n }
    else d
  | none => d

theorem pathTimed_offsetDue (i : Nat) : PathTimed seg d (offsetDue seg d i) := by
  unfold offsetDue
  split
  · exact .refl seg d
  · split
    · extract_lets n
      split
      · exact (pathTimed_mbxQueue d seg i _ _).trans (pathTimed_updNode _ seg i _)
      · exact .refl seg d
    · exact .refl seg d

theorem offsetsDue_eq : offsetsDue d seg = (upto (nNode d seg)).foldl (offsetDue seg) d := by
  unfold offsetsDue
  generalize upto (nNode d seg) = l
  rfl

theorem pathTimed_offsetsDue : PathTimed seg d (offsetsDue d seg) := by
  rw [offsetsDue_eq]
  generalize upto (nNode d seg) = l
  induction l generalizing d with
  | nil => exact .refl seg d
  | cons i l ih => exact (pathTimed_offsetDue d seg i).trans (ih _)

theorem pathTimed_measurePath (hseg : seg < 4) (tpath : Nat) : PathTimed seg d (measurePath d seg tpath) := by
  unfold measurePath
  extract_lets d1 m mean d2 d3
  have h1 : PathTimed seg d d1 := ⟨.of_regs rfl, by rw [segH_updSeg_same d seg _ hseg], by rw [segH_updSeg_same d seg _ hseg]⟩
  have h2 : PathTimed seg d d2 := h1.trans (pathTimed_setFld d1 seg (f := Reg.LSH_TPATH_MEAS seg) (.inl rfl) _)
  have h3 : PathTimed seg d d3 := h2.trans (pathTimed_setFld d2 seg (f := Reg.LSH_SSTAT_TOPO seg) (.inr (.inl rfl)) _)
  exact h3.trans (PathTimed.trans (d := { d3 with fresh := d3.fresh + 1 }) ⟨.of_regs rfl, rfl, rfl⟩ (pathTimed_offsetsDue _ seg))

end Steps

/-- What is known of the beat's frame at a port. -/
def rxOf (d : Die) (port : Nat) : RxBeat := if port % 2 = 0 then (segH d (port / 2)).rxHead else (segH d (port / 2)).rxTail

theorem rxOf_updRx (d : Die) {port : Nat} (hp : port < 8) (f : RxBeat → RxBeat) : rxOf (updRx d port f) port = f (rxOf d port) := by
  have hseg : port / 2 < 4 := by omega
  unfold rxOf updRx
  rw [segH_updSeg_same d _ _ hseg]
  split <;> rfl

theorem rxOf_of_timed {c d : Die} {port : Nat} (h : PathTimed (port / 2) c d) : rxOf d port = rxOf c port := by
  unfold rxOf
  rw [h.head, h.tail]

/-- The count of a frame, and of a bad FCS, where its header counts for nothing. -/
def frameCounted (d : Die) (port : Nat) (fcsOk : Bool) : Die :=
  if fcsOk then incReg d (Reg.LSH_CNT_RXFRM port) else incReg (incReg d (Reg.LSH_CNT_RXFRM port)) (Reg.LSH_CNT_BADFCS port)

theorem beatNum_incReg (d : Die) {o : Nat} (h : o ≠ Reg.BEAT_NUM) : beatNum (incReg d o) = beatNum d := by
  rw [beatNum, getReg_incReg_ne d o h.symm, beatNum]

theorem hdrGood_congr {c d : Die} (h : beatNum d = beatNum c) (seg typ : Nat) (hdr : List Byte) : hdrGood d seg typ hdr = hdrGood c seg typ hdr := by
  rw [hdrGood, h, hdrGood]

theorem rxfrm_ne (port : Nat) : Reg.LSH_CNT_RXFRM port ≠ Reg.BEAT_NUM := by
  simp only [Reg.LSH_CNT_RXFRM, Reg.BEAT_NUM]
  omega

theorem checkFrame_beat (d : Die) (port : Nat) (hdr body : List Byte) (fcs : Nat) : checkFrame d port 1 hdr body fcs =
    (frameCounted d port (fcs == crc32 (hdr ++ body)), fcs == crc32 (hdr ++ body) && hdrGood d (port / 2) 1 hdr) := by
  unfold checkFrame
  extract_lets d1 fcsOk hdrOk d2 d3
  have hhdr : hdrOk = hdrGood d (port / 2) 1 hdr := hdrGood_congr (beatNum_incReg d (rxfrm_ne port)) _ _ _
  have h3 : d3 = d2 := if_pos (by simp)
  rw [h3, hhdr]
  rfl

theorem frameCounted_spec (d : Die) (port : Nat) (ok : Bool) :
    getReg (frameCounted d port ok) (Reg.LSH_CNT_RXFRM port) =
      BitVec.ofNat 32 (satInc 32 (getReg d (Reg.LSH_CNT_RXFRM port)).toNat) ∧
    (ok = false → getReg (frameCounted d port ok) (Reg.LSH_CNT_BADFCS port) =
      BitVec.ofNat 32 (satInc 32 (getReg d (Reg.LSH_CNT_BADFCS port)).toNat)) ∧ (∀ g, segH (frameCounted d port ok) g = segH d g) := by
  have hne : Reg.LSH_CNT_BADFCS port ≠ Reg.LSH_CNT_RXFRM port := by simp only [Reg.LSH_CNT_BADFCS, Reg.LSH_CNT_RXFRM]; omega
  cases ok
  · rw [frameCounted, if_neg (by simp), getReg_incReg_ne _ _ hne.symm, getReg_incReg_same]
    exact ⟨rfl, fun _ => by rw [getReg_incReg_same, getReg_incReg_ne _ _ hne], fun _ => rfl⟩
  · rw [frameCounted, if_pos rfl, getReg_incReg_same]
    exact ⟨rfl, nofun, fun _ => rfl⟩

/-- A returned beat frame is counted, its port knows it, and in ring running its path is timed. -/
theorem frameEnd_received {d : Die} {port : Nat} (hp : port < 8) (h : receives d port = true) (hdr body : List Byte) (fcs tpath : Nat) :
    ∃ e, PathTimed (port / 2) e (frameEnd d port hdr body fcs tpath) ∧
      (∀ off, getReg e off = getReg (frameCounted d port (fcs == crc32 (hdr ++ body))) off) ∧ (rxOf e port).got = true ∧
      (rxOf e port).good = (fcs == crc32 (hdr ++ body) && hdrGood d (port / 2) 1 hdr) := by
  unfold frameEnd
  rw [if_neg (by simp [h]), checkFrame_beat]
  extract_lets r same fl e
  have hself : rxOf e port = _ := rxOf_updRx (frameCounted d port (fcs == crc32 (hdr ++ body))) hp _
  refine ⟨e, ?_, fun _ => rfl, congrArg (·.got) hself, congrArg (·.good) hself⟩
  split
  · exact .refl _ e
  · exact pathTimed_measurePath e (port / 2) (by omega) tpath

theorem ends_beatFrameEnd {s : State} {port : Fin 8} (hdr body : List Byte) (fcs : Word) (tp : Nat)
    (h : receives s.die port.val = true) : ends (.beatFrameEnd port hdr body fcs tp) s fun t =>
      let r := if port.val % 2 = 0 then (segH t.die (port.val / 2)).rxHead else (segH t.die (port.val / 2)).rxTail
      r.got = true ∧
      r.good = (decide (fcs.toNat = crc32 (hdr ++ body)) && hdrGood s.die (port.val / 2) 1 hdr) ∧
      getReg t.die (Reg.LSH_CNT_RXFRM port.val) =
        BitVec.ofNat 32 (satInc 32 (getReg s.die (Reg.LSH_CNT_RXFRM port.val)).toNat) ∧
      (fcs.toNat ≠ crc32 (hdr ++ body) → getReg t.die (Reg.LSH_CNT_BADFCS port.val) =
        BitVec.ofNat 32 (satInc 32 (getReg s.die (Reg.LSH_CNT_BADFCS port.val)).toNat)) := by
  refine ends_of_onDie (f := (frameEnd · port.val hdr body fcs.toNat tp)) rfl ?_
  obtain ⟨e, htimed, hreg, hgot, hgood⟩ := frameEnd_received (d := found s) port.isLt h hdr body fcs.toNat tp
  obtain ⟨hrx, hbad, -⟩ := frameCounted_spec (found s) port.val (fcs.toNat == crc32 (hdr ++ body))
  generalize frameEnd (found s) port.val hdr body fcs.toNat tp = x at htimed
  have hout : ∀ o, o = Reg.LSH_CNT_RXFRM port.val ∨ o = Reg.LSH_CNT_BADFCS port.val → ¬ measReg (port.val / 2) o := by
    simp only [measReg, Reg.LSH_CNT_RXFRM, Reg.LSH_CNT_BADFCS, Reg.LSH_TPATH, Reg.LSH_SSTAT, Reg.LSH_MBXWAIT]
    omega
  have hend : rxOf (irqSettle s.die x) port.val = rxOf e port.val := by
    rw [← rxOf_of_timed htimed, rxOf, segH_irqSettle, rxOf]
  refine ⟨?_, ?_, ?_, fun hne => ?_⟩
  · show (rxOf (irqSettle s.die x) port.val).got = true
    rw [hend, hgot]
  · show (rxOf (irqSettle s.die x) port.val).good = _
    rw [hend, hgood]
    rfl
  · rw [getReg_irqSettle, htimed.regs _ (hout _ (.inl rfl)), hreg, hrx]
    rfl
  · rw [getReg_irqSettle, htimed.regs _ (hout _ (.inr rfl)), hreg, hbad (by simpa using hne)]
    rfl

/-! The ROLL frame (R216, R223). -/

/-- The bytes of the ROLL frame of the beat in force. -/
def rollFrame (d : Die) (seg : Nat) : List Byte :=
  onWire (leashHdr 2 seg 0 (beatNum d) (edgeGt (hz d) d.tb.k) 552 0 0 0 0 0 ++ zeros 512)

/-- When the next acyclic frame may start, in ns after the edge. -/
def acycStart (d : Die) (seg : Nat) : Nat := max ((segH d seg).sendEnd + 96) (d.tb.gt - edgeGt (hz d) d.tb.k)

theorem acyclicSend_roll {d : Die} {seg : Nat} (hrun : running d = true) (hphase : d.tb.phase < 3) (hon : segOn d seg = true)
    (hdone : (segH d seg).acycDone = false) (hroll : (segH d seg).rollSent = false) (htwo : twoLine d seg = false)
    (hroom : 556 ≤ acycRoom d (acycStart d seg) (tFit d seg)) :
    acyclicSend d seg = updSeg (sendAcyc d seg (acycStart d seg) (rollFrame d seg)) seg fun g => { g with rollSent := true } := by
  unfold acyclicSend
  extract_lets g s hdr
  have hgo : ¬ (!running d || decide (3 ≤ d.tb.phase) || !segOn d seg || g.acycDone) = true := by
    rw [hrun, hon, show g.acycDone = false from hdone]
    simpa using hphase
  have hring : (!g.rollSent && !twoLine d seg) = true := by
    rw [show g.rollSent = false from hroll, htwo]
    rfl
  rw [if_neg hgo, if_pos hring]
  exact if_neg (Nat.not_lt.2 hroom)

theorem leashHdr_length (typ seg flags k edge len pad b20 rsp reqlen rsplen : Nat) :
    (leashHdr typ seg flags k edge len pad b20 rsp reqlen rsplen).length = 40 := by
  simp [leashHdr, leBytes, zeros]

theorem rollFrame_length (d : Die) (seg : Nat) : (rollFrame d seg).length = 8 + 556 := by
  have h0 : (zeros 512).length = 512 := List.length_replicate
  have h4 : ∀ x, (leBytes 4 x).length = 4 := fun _ => rfl
  rw [rollFrame, onWire, List.length_append, List.length_append, List.length_append, leashHdr_length, h0, h4]
  rfl

theorem rollFrame_take (d : Die) (seg : Nat) : (rollFrame d seg).take 8 = preamble := by
  rw [rollFrame, onWire, List.append_assoc]
  exact List.take_left' rfl

theorem segH_putSnap (d : Die) {seg : Nat} (hseg : seg < 4) :
    segH (putSnap d seg) seg = { segH d seg with snap := (segH (putSnap d seg) seg).snap } := by
  unfold putSnap
  extract_lets w
  split
  · rfl
  · split
    · rfl
    · rw [segH_updSeg_same d seg _ hseg]

theorem ends_rollFrame {s : State} {seg : Fin 4} (hrun : running s.die = true) (hphase : s.die.tb.phase < 3)
    (hon : segOn s.die seg.val = true) (hdone : (segH s.die seg.val).acycDone = false) (hroll : (segH s.die seg.val).rollSent = false)
    (htwo : twoLine s.die seg.val = false) (hroom : 556 ≤ acycRoom s.die (acycStart s.die seg.val) (tFit s.die seg.val)) :
    ends (.acyclicFrameSend seg) s fun t => (segH t.die seg.val).rollSent = true ∧
      (segH t.die seg.val).acyclic.length = 8 + 556 ∧ (segH t.die seg.val).acyclic.take 8 = preamble ∧
      (segH t.die seg.val).sendEnd = acycStart s.die seg.val + 104 + 8 * 556 ∧
      keepsBut [.segs] s t := by
  refine ends_of_onDie (f := fun d => putSnap (acyclicSend d seg.val) seg.val) rfl ?_
  rw [acyclicSend_roll (d := found s) hrun hphase hon hdone hroll htwo hroom]
  have hself : segH (updSeg (sendAcyc (found s) seg.val (acycStart (found s) seg.val) (rollFrame (found s) seg.val)) seg.val
      fun g => { g with rollSent := true }) seg.val = { segH s.die seg.val with
        acyclic := rollFrame (found s) seg.val, sendEnd := wireEnd (acycStart (found s) seg.val) (rollFrame (found s) seg.val).length, rollSent := true } := by
    rw [segH_updSeg_same _ _ _ seg.isLt, sendAcyc, segH_updSeg_same _ _ _ seg.isLt]
    rfl
  have hkeep : Keeps [.segs] (found s) (updSeg (sendAcyc (found s) seg.val (acycStart (found s) seg.val) (rollFrame (found s) seg.val)) seg.val
      fun g => { g with rollSent := true }) :=
    (keeps_updSeg _ _ (by simp) _ _).2 ((keeps_updSeg _ _ (by simp) _ _).2 (.refl _ _))
  have hlen := rollFrame_length (found s) seg.val
  have htake := rollFrame_take (found s) seg.val
  generalize rollFrame (found s) seg.val = bs at hself hkeep hlen htake
  generalize updSeg (sendAcyc (found s) seg.val (acycStart (found s) seg.val) bs) seg.val (fun g => { g with rollSent := true }) = d at hself hkeep
  have hsnap := segH_putSnap d seg.isLt
  rw [hself] at hsnap
  have hend : wireEnd (acycStart (found s) seg.val) bs.length = acycStart s.die seg.val + 104 + 8 * 556 := by
    rw [hlen, wireEnd, show acycStart (found s) seg.val = acycStart s.die seg.val from rfl]
  refine ⟨?_, ?_, ?_, ?_, keepsBut_command ((keeps_putSnap _ _ (by simp) _).2 hkeep)⟩
  · rw [segH_irqSettle, hsnap]
  · rw [segH_irqSettle, hsnap, hlen]
  · rw [segH_irqSettle, hsnap, htake]
  · rw [segH_irqSettle, hsnap, hend]

/-! Receive synchronisation of a port (R205, R238). -/

/-- A port's receiver as its pins and its partner now have it. -/
def linkPut (d : Die) (port : Nat) (l : PLink) : Die :=
  updSeg d (port / 2) fun s => if port % 2 = 0 then { s with lnkHead := l } else { s with lnkTail := l }

theorem putLink_eq (d : Die) (port : Nat) (l : PLink) : putLink d port l =
    if l.sync && (fld d (Reg.LSH_PCFG_PHY port) != 1 || l.gig) then setFlag (linkPut d port l) (Reg.LSH_PSTAT_RXSYNC port)
    else syncLost (linkPut d port l) port := rfl

theorem portLink_congr {c d : Die} (h : Keeps [.regs] c d) (port : Nat) : portLink d port = portLink c port := by
  rw [portLink, segH, h .segs (by simp), ← segH, portLink]

theorem portLink_linkPut (d : Die) {port : Nat} (hp : port < 8) (l : PLink) : portLink (linkPut d port l) port = l := by
  have hseg : port / 2 < 4 := by omega
  unfold portLink linkPut
  rw [segH_updSeg_same d _ _ hseg]
  split <;> rfl

theorem linkPut_spec (d : Die) (port : Nat) (l : PLink) : (∀ off, getReg (linkPut d port l) off = getReg d off) ∧
    Keeps [.regs, .segs] d (linkPut d port l) := ⟨fun _ => rfl, (keeps_updSeg _ _ (by simp) _ _).2 (.refl _ d)⟩

/-- A port that holds synchronisation by all its conditions. -/
theorem putLink_synced {d : Die} {port : Nat} (hp : port < 8) {l : PLink} (hs : l.sync = true)
    (hg : fld d (Reg.LSH_PCFG_PHY port) ≠ 1 ∨ l.gig = true) : flag (putLink d port l) (Reg.LSH_PSTAT_RXSYNC port) = true ∧
    portLink (putLink d port l) port = l ∧ Leaves (· = Reg.LSH_PSTAT port) d (putLink d port l) ∧ Keeps [.regs, .segs] d (putLink d port l) := by
  rw [putLink_eq, if_pos (by rw [hs]; simpa using hg)]
  obtain ⟨hregs, hkeep⟩ := linkPut_spec d port l
  have hlink := portLink_linkPut d hp l
  generalize linkPut d port l = e at hregs hkeep hlink
  have hset : Keeps [.regs] e (setFlag e (Reg.LSH_PSTAT_RXSYNC port)) := (keeps_setFlag _ _ (by simp) _).2 (.refl _ e)
  refine ⟨flag_setFlag_same e _ (show 0 + 1 ≤ 32 by decide) rfl, (portLink_congr hset port).trans hlink,
    fun off ho => (getReg_setFlag_ne e _ ho).trans (hregs off), hkeep.trans (hset.mono (by simp))⟩

/-- What is told where synchronisation is lost. -/
theorem syncLost_spec (d : Die) (port : Nat) : flag (syncLost d port) (Reg.LSH_PSTAT_RXSYNC port) = false ∧
    (flag d (Reg.LSH_PSTAT_RXSYNC port) = true → flag (syncLost d port) (Reg.LSH_PSTAT_LOSS port) = true ∧
      getReg (syncLost d port) (Reg.LSH_CNT_SYNCLOSS port) =
        BitVec.ofNat 32 (satInc 32 (getReg d (Reg.LSH_CNT_SYNCLOSS port)).toNat)) ∧
    flag (syncLost d port) (Reg.LSH_PSTAT_SPDERR port) = flag d (Reg.LSH_PSTAT_SPDERR port) ∧ Keeps [.regs] d (syncLost d port) := by
  unfold syncLost
  cases h : flag d (Reg.LSH_PSTAT_RXSYNC port) with
  | false => exact ⟨by simpa using h, nofun, by simp, by simp⟩
  | true =>
    rw [if_neg (by simp)]
    have hne : Reg.LSH_PSTAT port ≠ Reg.LSH_CNT_SYNCLOSS port := by simp only [Reg.LSH_PSTAT, Reg.LSH_CNT_SYNCLOSS]; omega
    have hsame : ∀ (e : Die) (f : Fld), f.off = Reg.LSH_PSTAT port → flag (incReg e (Reg.LSH_CNT_SYNCLOSS port)) f = flag e f :=
      fun e f hf => flag_congr (getReg_incReg_ne e _ (hf ▸ hne))
    have hbelow : ∀ (e : Die) (f g : Fld) (v : Nat), f.off = g.off → f.lo + f.w ≤ g.lo → g.lo + g.w ≤ 32 →
        flag (setFld e g v) f = flag e f := fun e f g v ho hlo hg => by rw [flag, fld_setFld_below e f g v ho hlo hg, flag]
    have habove : ∀ (e : Die) (f g : Fld) (v : Nat), f.off = g.off → g.lo + g.w ≤ f.lo → g.lo + g.w ≤ 32 →
        flag (setFld e g v) f = flag e f := fun e f g v ho hlo hg => by rw [flag, fld_setFld_above e f g v ho hlo hg, flag]
    refine ⟨?_, fun _ => ⟨?_, ?_⟩, ?_, ?_⟩
    · rw [hsame _ (Reg.LSH_PSTAT_RXSYNC port) rfl, setFlag,
        hbelow _ (Reg.LSH_PSTAT_RXSYNC port) (Reg.LSH_PSTAT_LOSS port) 1 rfl (show 0 + 1 ≤ 3 by decide) (show 3 + 1 ≤ 32 by decide)]
      exact flag_putFlag_same d _ false (show 0 + 1 ≤ 32 by decide) rfl
    · rw [hsame _ (Reg.LSH_PSTAT_LOSS port) rfl]
      exact flag_setFlag_same _ _ (show 3 + 1 ≤ 32 by decide) rfl
    · rw [getReg_incReg_same, getReg_setFlag_ne _ (Reg.LSH_PSTAT_LOSS port) hne.symm, putFlag, getReg_setFld_ne _ (Reg.LSH_PSTAT_RXSYNC port) _ hne.symm]
    · rw [hsame _ (Reg.LSH_PSTAT_SPDERR port) rfl, setFlag,
        hbelow _ (Reg.LSH_PSTAT_SPDERR port) (Reg.LSH_PSTAT_LOSS port) 1 rfl (show 2 + 1 ≤ 3 by decide) (show 3 + 1 ≤ 32 by decide),
        putFlag, habove d (Reg.LSH_PSTAT_SPDERR port) (Reg.LSH_PSTAT_RXSYNC port) _ rfl (show 0 + 1 ≤ 2 by decide) (show 0 + 1 ≤ 32 by decide)]
    · exact (keeps_incReg _ _ (by simp) _).2 ((keeps_setFlag _ _ (by simp) _).2 ((keeps_putFlag _ _ (by simp) _ _).2 (.refl _ d)))

/-- A port that misses one of its conditions. -/
theorem putLink_lost {d : Die} {port : Nat} (hp : port < 8) {l : PLink}
    (h : l.sync = false ∨ (fld d (Reg.LSH_PCFG_PHY port) = 1 ∧ l.gig = false)) :
    putLink d port l = syncLost (linkPut d port l) port ∧ portLink (putLink d port l) port = l ∧
    Keeps [.regs, .segs] d (putLink d port l) := by
  have heq : putLink d port l = syncLost (linkPut d port l) port := by
    rw [putLink_eq, if_neg]
    obtain h | ⟨h, h'⟩ := h
    · simp [h]
    · simp [h, h']
  obtain ⟨-, hkeep⟩ := linkPut_spec d port l
  obtain ⟨-, -, -, hlost⟩ := syncLost_spec (linkPut d port l) port
  rw [heq]
  exact ⟨rfl, (portLink_congr hlost port).trans (portLink_linkPut d hp l), hkeep.trans (hlost.mono (by simp))⟩

section Sync

variable {s : State} {port : Fin 8} (hp : powered s.die (42 + port.val) = true)

include hp in
theorem rxSync_powered (sync : Bool) :
    rxSync (found s) port.val sync = putLink (found s) port.val { portLink s.die port.val with sync := sync } := by
  unfold rxSync
  rw [if_neg (by rw [show powered (found s) (42 + port.val) = true from hp]; simp)]
  rfl

theorem portLink_irqSettle (c d : Die) (n : Nat) : portLink (irqSettle c d) n = portLink d n := by
  rw [portLink, segH_irqSettle, portLink]

include hp in
theorem ends_rxSynced (hg : fld s.die (Reg.LSH_PCFG_PHY port.val) ≠ 1 ∨ (portLink s.die port.val).gig = true) :
    ends (.rxSyncChange port true) s fun t =>
      flag t.die (Reg.LSH_PSTAT_RXSYNC port.val) = true ∧ (portLink t.die port.val).sync = true ∧
      regsBut (· = Reg.LSH_PSTAT port.val) s t ∧ keepsBut [.regs, .segs] s t := by
  refine ends_of_onDie (f := (rxSync · port.val true)) rfl ?_
  rw [rxSync_powered hp]
  obtain ⟨hflag, hlink, hregs, hkeep⟩ := putLink_synced (d := found s) port.isLt (l := { portLink s.die port.val with sync := true }) rfl hg
  exact ⟨by rw [flag_irqSettle, hflag], by rw [portLink_irqSettle, hlink], regsBut_command hregs, keepsBut_command hkeep⟩

include hp in
theorem ends_rxSync_slow (hphy : fld s.die (Reg.LSH_PCFG_PHY port.val) = 1) (hg : (portLink s.die port.val).gig = false) :
    ends (.rxSyncChange port true) s fun t =>
      flag t.die (Reg.LSH_PSTAT_RXSYNC port.val) = false ∧ (portLink t.die port.val).sync = true := by
  refine ends_of_onDie (f := (rxSync · port.val true)) rfl ?_
  rw [rxSync_powered hp]
  obtain ⟨heq, hlink, -⟩ := putLink_lost (d := found s) port.isLt (l := { portLink s.die port.val with sync := true }) (.inr ⟨hphy, hg⟩)
  exact ⟨by rw [flag_irqSettle, heq, (syncLost_spec _ _).1], by rw [portLink_irqSettle, hlink]⟩

include hp in
theorem ends_rxSync_lost (hsync : flag s.die (Reg.LSH_PSTAT_RXSYNC port.val) = true) : ends (.rxSyncChange port false) s fun t =>
      flag t.die (Reg.LSH_PSTAT_RXSYNC port.val) = false ∧ flag t.die (Reg.LSH_PSTAT_LOSS port.val) = true ∧
      getReg t.die (Reg.LSH_CNT_SYNCLOSS port.val) =
        BitVec.ofNat 32 (satInc 32 (getReg s.die (Reg.LSH_CNT_SYNCLOSS port.val)).toNat) ∧ keepsBut [.regs, .segs] s t := by
  refine ends_of_onDie (f := (rxSync · port.val false)) rfl ?_
  rw [rxSync_powered hp]
  obtain ⟨heq, -, hkeep⟩ := putLink_lost (d := found s) port.isLt (l := { portLink s.die port.val with sync := false }) (.inl rfl)
  have hregs := (linkPut_spec (found s) port.val { portLink s.die port.val with sync := false }).1
  rw [heq] at hkeep ⊢
  generalize linkPut (found s) port.val { portLink s.die port.val with sync := false } = e at hkeep hregs
  obtain ⟨hflag, hlost, -, -⟩ := syncLost_spec e port.val
  obtain ⟨hloss, hcount⟩ := hlost ((flag_congr (hregs _)).trans hsync)
  refine ⟨by rw [flag_irqSettle, hflag], by rw [flag_irqSettle, hloss], ?_, keepsBut_command hkeep⟩
  rw [getReg_irqSettle, hcount, hregs]
  rfl

include hp in
theorem speedReport_sgmii (hphy : fld s.die (Reg.LSH_PCFG_PHY port.val) = 1) (ok : Bool) : speedReport (found s) port.val ok =
    putLink (if ok then found s else setFlag (found s) (Reg.LSH_PSTAT_SPDERR port.val)) port.val { portLink s.die port.val with gig := ok } := by
  unfold speedReport
  rw [if_neg (by rw [show powered (found s) (42 + port.val) = true from hp, show fld (found s) (Reg.LSH_PCFG_PHY port.val) = 1 from hphy]; simp)]
  rfl

include hp in
theorem ends_speedSlow (hphy : fld s.die (Reg.LSH_PCFG_PHY port.val) = 1) : ends (.sgmiiSpeedReport port false) s fun t =>
      flag t.die (Reg.LSH_PSTAT_SPDERR port.val) = true ∧ flag t.die (Reg.LSH_PSTAT_RXSYNC port.val) = false ∧
      (portLink t.die port.val).gig = false ∧ keepsBut [.regs, .segs] s t := by
  refine ends_of_onDie (f := (speedReport · port.val false)) rfl ?_
  rw [speedReport_sgmii hp hphy, if_neg (by simp)]
  have hspd : flag (setFlag (found s) (Reg.LSH_PSTAT_SPDERR port.val)) (Reg.LSH_PSTAT_SPDERR port.val) = true :=
    flag_setFlag_same _ _ (show 2 + 1 ≤ 32 by decide) rfl
  have hphy' : fld (setFlag (found s) (Reg.LSH_PSTAT_SPDERR port.val)) (Reg.LSH_PCFG_PHY port.val) = 1 := by
    rw [setFlag, fld_setFld_ne _ (Reg.LSH_PCFG_PHY port.val) (Reg.LSH_PSTAT_SPDERR port.val) _
      (by simp only [Reg.LSH_PCFG_PHY, Reg.LSH_PCFG, Reg.LSH_PSTAT_SPDERR, Reg.LSH_PSTAT]; omega)]
    exact hphy
  have hset : Keeps [.regs] (found s) (setFlag (found s) (Reg.LSH_PSTAT_SPDERR port.val)) := (keeps_setFlag _ _ (by simp) _).2 (.refl _ _)
  generalize setFlag (found s) (Reg.LSH_PSTAT_SPDERR port.val) = d at hspd hphy' hset
  obtain ⟨heq, hlink, hkeep⟩ := putLink_lost (d := d) port.isLt (l := { portLink s.die port.val with gig := false }) (.inr ⟨hphy', rfl⟩)
  obtain ⟨hflag, -, hsame, -⟩ := syncLost_spec (linkPut d port.val { portLink s.die port.val with gig := false }) port.val
  refine ⟨?_, ?_, ?_, keepsBut_command ((hset.mono (by simp)).trans hkeep)⟩
  · rw [flag_irqSettle, heq, hsame, flag_congr ((linkPut_spec d port.val _).1 _), hspd]
  · rw [flag_irqSettle, heq, hflag]
  · rw [portLink_irqSettle, hlink]

include hp in
theorem ends_speedFull (hphy : fld s.die (Reg.LSH_PCFG_PHY port.val) = 1) (hsync : (portLink s.die port.val).sync = true) :
    ends (.sgmiiSpeedReport port true) s fun t =>
      flag t.die (Reg.LSH_PSTAT_RXSYNC port.val) = true ∧ (portLink t.die port.val).gig = true ∧
      regsBut (· = Reg.LSH_PSTAT port.val) s t ∧ keepsBut [.regs, .segs] s t := by
  refine ends_of_onDie (f := (speedReport · port.val true)) rfl ?_
  rw [speedReport_sgmii hp hphy, if_pos rfl]
  obtain ⟨hflag, hlink, hregs, hkeep⟩ :=
    putLink_synced (d := found s) port.isLt (l := { portLink s.die port.val with gig := true }) hsync (.inr rfl)
  exact ⟨by rw [flag_irqSettle, hflag], by rw [portLink_irqSettle, hlink], regsBut_command hregs, keepsBut_command hkeep⟩

theorem ends_speedIdle (hphy : fld s.die (Reg.LSH_PCFG_PHY port.val) ≠ 1) (ok : Bool) : ends (.sgmiiSpeedReport port ok) s (keepsBut [] s) := by
  refine ends_idle (i := .sgmiiSpeedReport port ok) (f := (speedReport · port.val ok)) rfl ?_ []
  refine if_pos ?_
  rw [Bool.or_eq_true]
  exact .inr (decide_eq_true (show fld s.die (Reg.LSH_PCFG_PHY port.val) ≠ 1 from hphy))

end Sync

/-- Settles O34: a returned frame is counted and its path timed, the ROLL frame goes first, and a port's receiver is its pins and its
partner's report. -/
theorem leashFrames : Obligations.LeashFrames := by
  unfold Obligations.LeashFrames
  exact ⟨fun s port hdr body fcs tp h => ends_beatFrameEnd hdr body fcs tp h,
    fun s seg hrun hphase hon hdone hroll htwo hroom => ends_rollFrame hrun hphase hon hdone hroll htwo hroom,
    fun s port hp => ⟨ends_rxSynced hp, ends_rxSync_slow hp, ends_rxSync_lost hp, ends_speedSlow hp, ends_speedFull hp, ends_speedIdle⟩⟩

end Sys2Proof.Machine
end

section
/-! PROOFS. The node table of a segment (R223 to R227, R350). -/

namespace Sys2Proof.Machine

open Sys2Proof

theorem updNode_apart {seg i b j : Nat} (h : seg * 32 + i ≠ b * 32 + j) (d : Die) (f : Node → Node) :
    nodeH (updNode d b j f) seg i = nodeH d seg i := sget_sput_ne _ _ _ _ h

theorem nodeH_of_keeps {ps : List Part} {c d : Die} (h : Keeps ps c d) (hn : .nodes ∉ ps) (seg i : Nat) : nodeH d seg i = nodeH c seg i := by
  rw [nodeH, h .nodes hn, nodeH]

theorem nodeH_irqSettle (c d : Die) (seg i : Nat) : nodeH (irqSettle c d) seg i = nodeH d seg i :=
  nodeH_of_keeps (keeps_irqSettle [] c d) (by simp) seg i

theorem nodeState_irqSettle (c d : Die) (seg i : Nat) : nodeState (irqSettle c d) seg i = nodeState d seg i := fld_irqSettle _ _ _

theorem rsps_complete (d : Die) (t st r0 r1 : Nat) : (complete d t st r0 r1).host.rsps = d.host.rsps := by
  unfold complete
  split <;> rfl

/-! The end of a node's request (R227, R350). -/

section Requests

variable (d : Die) (seg i : Nat)

theorem mbxEnd_own {q : MbxReq} (h : q.ticket = 0) (st : Nat) (data : List Byte) : mbxEnd d seg q st data = d := if_pos h

/-- What the end of a request touches: the count of requests of the segment, and the host. -/
theorem mbxEnd_spec (q : MbxReq) (st : Nat) (data : List Byte) : Leaves (· = Reg.LSH_MBXWAIT seg) d (mbxEnd d seg q st data) ∧
    Keeps [.regs, .host] d (mbxEnd d seg q st data) ∧
    (q.ticket ≠ 0 → (mbxEnd d seg q st data).host.rsps = ((q.ticket, st, data) :: d.host.rsps).take 16) := by
  unfold mbxEnd
  split
  next h => exact ⟨.refl _ d, .refl _ d, fun h' => absurd h h'⟩
  next h =>
    extract_lets d1 d2
    have h1 : Leaves (· = Reg.LSH_MBXWAIT seg) d d1 := (leaves_complete d d q.ticket st data.length q.tag).2 (.refl _ d)
    have hk1 : Keeps [.regs, .host] d d1 := (keeps_complete d d (by simp) q.ticket st data.length q.tag).2 (.refl _ d)
    have hr1 : d1.host.rsps = d.host.rsps := rsps_complete d _ _ _ _
    clear_value d1
    have h2 : Leaves (· = Reg.LSH_MBXWAIT seg) d d2 :=
      (leaves_setFld (p := (· = Reg.LSH_MBXWAIT seg)) d d1 (f := Reg.LSH_MBXWAIT_WAIT seg) rfl _).2 h1
    have hk2 : Keeps [.regs, .host] d d2 := (keeps_setFld d d1 (by simp) _ _).2 hk1
    have hr2 : d2.host.rsps = d.host.rsps := hr1
    clear_value d2
    refine ⟨(leaves_updHost _ _ _).2 h2, (keeps_updHost _ _ (by simp) _).2 hk2, fun _ => ?_⟩
    rw [← hr2]
    rfl

/-- The requests of a node that end at once. -/
def mbxDropped (st : Nat) (l : List MbxReq) : Die := l.foldl (fun d r => mbxEnd d seg r st []) d

theorem mbxDropped_spec (st : Nat) (l : List MbxReq) : Leaves (· = Reg.LSH_MBXWAIT seg) d (mbxDropped d seg st l) ∧
    Keeps [.regs, .host] d (mbxDropped d seg st l) :=
  ⟨Leaves.foldl (fun e r _ => (mbxEnd_spec e seg r st []).1) d, Keeps.foldl (fun e r => (mbxEnd_spec e seg r st []).2.1) l d⟩

/-- The requests that stay with a node. -/
def queueLeft (q : List MbxReq) : Die := updNode d seg i fun n => { n with queue := q }

theorem mbxFlush_eq (st : Nat) (p : MbxReq → Bool) : mbxFlush d seg i st p =
    queueLeft (mbxDropped d seg st ((nodeH d seg i).queue.filter p)) seg i ((nodeH d seg i).queue.filter fun r => !p r) := rfl

theorem mbxFlush_spec (st : Nat) (p : MbxReq → Bool) : Leaves (· = Reg.LSH_MBXWAIT seg) d (mbxFlush d seg i st p) ∧
    Keeps [.regs, .host, .nodes] d (mbxFlush d seg i st p) ∧
    nodeH (mbxFlush d seg i st p) seg i = { nodeH d seg i with queue := (nodeH d seg i).queue.filter fun r => !p r } ∧
    ∀ b j, b * 32 + j ≠ seg * 32 + i → nodeH (mbxFlush d seg i st p) b j = nodeH d b j := by
  rw [mbxFlush_eq]
  generalize (nodeH d seg i).queue.filter p = l
  obtain ⟨hl, hk⟩ := mbxDropped_spec d seg st l
  generalize mbxDropped d seg st l = e at hl hk
  refine ⟨(leaves_updNode _ _ _ _ _).2 hl, (keeps_updNode _ _ (by simp) _ _ _).2 (hk.mono (by simp)), ?_, fun b j h => ?_⟩
  · rw [queueLeft, nodeH_updNode_same, nodeH_of_keeps hk (by simp)]
  · rw [queueLeft, updNode_apart h, nodeH_of_keeps hk (by simp)]

end Requests

/-! The axes of a node (R123, R225). -/

theorem nodup_nodeAxes (d : Die) (seg i : Nat) : (nodeAxes d seg i).Nodup := (nodup_declAxes d).filter _

/-- An axis is the node's by its declaration. -/
def nodeAxis (d : Die) (seg i a : Nat) : Prop := axDecl d a = true ∧ fld d (Reg.AX_CFG_SEG a) = seg ∧ fld d (Reg.AX_CFG_NODE a) = i

theorem mem_nodeAxes {d : Die} {seg i a : Nat} : a ∈ nodeAxes d seg i ↔ a < 128 ∧ nodeAxis d seg i a := by
  rw [nodeAxes, List.mem_filter, mem_declAxes, nodeAxis]
  simp only [Bool.and_eq_true, beq_iff_eq, and_assoc]

/-- A change of each axis of a list. -/
theorem axH_foldl_updAx (f : AxisHid → AxisHid) {l : List Nat} (h : l.Nodup) (d : Die) (a : Nat) :
    axH (l.foldl (fun d a => updAx d a f) d) a = if a ∈ l then f (axH d a) else axH d a := by
  induction l generalizing d with
  | nil => rfl
  | cons b l ih =>
    obtain ⟨hb, hl⟩ := List.nodup_cons.1 h
    rw [List.foldl_cons, ih hl]
    by_cases hab : a = b
    · subst hab
      rw [if_neg hb, if_pos (List.mem_cons_self ..), axH_updAx_same]
    · rw [axH_updAx_ne _ _ hab]
      simp [hab]

theorem keeps_foldl_updAx (f : AxisHid → AxisHid) (l : List Nat) (d : Die) : Keeps [.axes] d (l.foldl (fun d a => updAx d a f) d) :=
  Keeps.foldl (fun e a => (keeps_updAx _ _ (by simp) _ _).2 (.refl _ e)) l d

theorem leaves_foldl_updAx (p : Nat → Prop) (f : AxisHid → AxisHid) (l : List Nat) (d : Die) :
    Leaves p d (l.foldl (fun d a => updAx d a f) d) :=
  Leaves.foldl (fun e _ _ => (leaves_updAx _ _ _ _).2 (.refl _ e)) d

theorem nodeAxis_congr {c d : Die} (h : ∀ a, getReg d (Reg.AX_CFG a) = getReg c (Reg.AX_CFG a)) (seg i a : Nat) :
    nodeAxis d seg i a ↔ nodeAxis c seg i a := by
  rw [nodeAxis, nodeAxis, axDecl, axDecl, flag_congr (f := Reg.AX_CFG_DECL a) (h a), fld_congr (f := Reg.AX_CFG_SEG a) (h a),
    fld_congr (f := Reg.AX_CFG_NODE a) (h a)]

/-- An axis out of service (R123). -/
def axisGone (h : AxisHid) : AxisHid := { h with removed := true, admitted := false, lastAcc := none }

/-- An axis in service from the next in-slot on (R225). -/
def axisIn (h : AxisHid) : AxisHid := { h with admitted := true, lastAcc := none }

/-! A node leaves (R225). -/

/-- The registers that a node's loss may write. -/
def lossReg (seg i off : Nat) : Prop := off = Reg.LSH_MBXWAIT seg ∨ off = Reg.LSH_NODE_STAT seg i ∨ logReg off

theorem lossReg_low {seg i : Nat} (hseg : seg < 4) (hi : i < 64) {off : Nat} (h : lossReg seg i off) : off < 0x20000 := by
  simp only [lossReg, logReg, Reg.LSH_MBXWAIT, Reg.LSH_NODE_STAT, Reg.LOG_CNT_LOST, Reg.LOG_STAT] at h
  omega

section Loss

variable (d : Die) (seg i : Nat)

theorem removeAxes_spec : Keeps [.axes] d (removeAxes d seg i) ∧ (∀ off, getReg (removeAxes d seg i) off = getReg d off) ∧
    ∀ a, axH (removeAxes d seg i) a =
      if a ∈ nodeAxes d seg i then axisGone (axH d a) else axH d a :=
  ⟨keeps_foldl_updAx _ _ _, fun off => leaves_foldl_updAx (fun _ => False) _ _ _ off not_false, axH_foldl_updAx axisGone (nodup_nodeAxes d seg i) d⟩

theorem nodeState_setFld {v : Nat} (h : v < 8) : nodeState (setFld d (Reg.LSH_NODE_STAT_STATE seg i) v) seg i = v := by
  rw [nodeState, fld_setFld_same _ _ _ (show 0 + 3 ≤ 32 by decide)]
  exact Nat.mod_eq_of_lt h

theorem dropNode_spec : nodeState (dropNode d seg i) seg i = 0 ∧ (nodeH (dropNode d seg i) seg i).queue = [] ∧
    Leaves (lossReg seg i) d (dropNode d seg i) ∧ Keeps [.regs, .host, .nodes, .axes, .lgb] d (dropNode d seg i) ∧
    (∀ a, axH (dropNode d seg i) a =
      if a ∈ nodeAxes d seg i then axisGone (axH d a) else axH d a) ∧
    ∀ b j, b * 32 + j ≠ seg * 32 + i → nodeH (dropNode d seg i) b j = nodeH d b j := by
  unfold dropNode
  obtain ⟨hk1, hr1, hax1⟩ := removeAxes_spec d seg i
  generalize removeAxes d seg i = d1 at hk1 hr1 hax1
  obtain ⟨hl2, hk2, hself2, hapart2⟩ := mbxFlush_spec d1 seg i 8 fun _ => true
  extract_lets d2 d3
  have hl2 : Leaves (· = Reg.LSH_MBXWAIT seg) d1 d2 := hl2
  have hk2 : Keeps [.regs, .host, .nodes] d1 d2 := hk2
  have hapart2 : ∀ b j, b * 32 + j ≠ seg * 32 + i → nodeH d2 b j = nodeH d1 b j := hapart2
  have hax2 : ∀ a, axH d2 a = axH d1 a := fun a => axH_of_axes (hk2 .axes (by simp)) a
  have hq2 : (nodeH d2 seg i).queue = [] := by
    rw [hself2]
    exact List.filter_eq_nil_iff.2 fun _ _ => by simp
  clear_value d2
  have hstate3 : nodeState d3 seg i = 0 := nodeState_setFld d2 seg i (by decide)
  have hl3 : Leaves (lossReg seg i) d2 d3 := (leaves_setFld (p := lossReg seg i) d2 d2 (f := Reg.LSH_NODE_STAT_STATE seg i) (.inr (.inl rfl)) 0).2 (.refl _ d2)
  have hk3 : Keeps [.regs] d2 d3 := (keeps_setFld _ _ (by simp) _ _).2 (.refl _ d2)
  clear_value d3
  obtain ⟨g, hg⟩ : ∃ g : Node → Node, g = fun n => { n with acked := false, naked := false, quiet := 0, rollMiss := 0, sentOfs := none } := ⟨_, rfl⟩
  have hgq : ∀ n, (g n).queue = n.queue := fun n => by rw [hg]
  rw [← hg]
  have hself4 : nodeH (updNode d3 seg i g) seg i = g (nodeH d3 seg i) := nodeH_updNode_same _ _ _ _
  have hapart4 : ∀ b j, b * 32 + j ≠ seg * 32 + i → nodeH (updNode d3 seg i g) b j = nodeH d3 b j := fun b j h => updNode_apart h _ _
  have hr4 : ∀ off, getReg (updNode d3 seg i g) off = getReg d3 off := fun _ => rfl
  have hk4 : Keeps [.nodes] d3 (updNode d3 seg i g) := (keeps_updNode _ _ (by simp) _ _ _).2 (.refl _ d3)
  generalize updNode d3 seg i g = d4 at hself4 hapart4 hr4 hk4
  generalize beatNum d3 = bn
  have htold := told_logEvt d4 5 3 2 seg i bn
  have hlog : Keeps [.regs, .lgb] d4 (logEvt d4 5 3 2 seg i bn) := (keeps_logEvt _ _ (by simp) (by simp) ..).2 (.refl _ d4)
  generalize logEvt d4 5 3 2 seg i bn = d5 at htold hlog
  have hstat : 0xC000 ≤ (Reg.LSH_NODE_STAT_STATE seg i).off := by simp only [Reg.LSH_NODE_STAT_STATE, Reg.LSH_NODE_STAT]; omega
  have hnode : ∀ b j, nodeH d5 b j = nodeH d4 b j := fun b j => nodeH_of_keeps hlog (by simp) b j
  refine ⟨?_, ?_, ?_, ?_, fun a => ?_, fun b j h => ?_⟩
  · rw [nodeState, htold.fld hstat, fld_congr (hr4 _)]
    exact hstate3
  · rw [hnode, hself4, hgq, nodeH_of_keeps hk3 (by simp), hq2]
  · have h12 : Leaves (lossReg seg i) d d2 := fun off ho => (hl2 off (fun h => ho (.inl h))).trans (hr1 off)
    exact (h12.trans hl3).trans fun off ho => (htold.regs off (fun h => ho (.inr (.inr h)))).trans (hr4 off)
  · have h12 : Keeps [.regs, .host, .nodes, .axes, .lgb] d d2 := (hk1.mono (by simp)).trans (hk2.mono (by simp))
    have h14 : Keeps [.regs, .host, .nodes, .axes, .lgb] d2 d4 := (hk3.mono (by simp)).trans (hk4.mono (by simp))
    exact (h12.trans h14).trans (hlog.mono (by simp))
  · rw [axH_of_axes (hlog .axes (by simp)), axH_of_axes (hk4 .axes (by simp)), axH_of_axes (hk3 .axes (by simp)), hax2, hax1]
  · rw [hnode, hapart4 b j h, nodeH_of_keeps hk3 (by simp), hapart2 b j h, nodeH_of_keeps hk1 (by simp)]

end Loss

theorem ends_nodeLost {s : State} {seg : Fin 4} {i : Fin 32} (h : lossDue s.die seg.val i.val = true) : ends (.nodeLost seg i) s fun t =>
      nodeState t.die seg.val i.val = 0 ∧ (nodeH t.die seg.val i.val).queue = [] ∧
      (∀ a, a < 128 → nodeAxis s.die seg.val i.val a → (axH t.die a).removed = true ∧ (axH t.die a).admitted = false) ∧
      (∀ a, a < 128 → ¬ nodeAxis s.die seg.val i.val a → axH t.die a = axH s.die a) := by
  refine ends_of_onDie (f := fun d => putSnap (nodeLoss d seg.val i.val) seg.val) rfl ?_
  have hloss : nodeLoss (found s) seg.val i.val = dropNode (found s) seg.val i.val := if_pos h
  rw [hloss]
  obtain ⟨hstate, hqueue, -, -, hax, -⟩ := dropNode_spec (found s) seg.val i.val
  generalize dropNode (found s) seg.val i.val = d at hstate hqueue hax
  have hsnap : Keeps [.segs] d (putSnap d seg.val) := (keeps_putSnap _ _ (by simp) _).2 (.refl _ d)
  have hend : ∀ a, axH (irqSettle s.die (putSnap d seg.val)) a = axH d a := fun a => by
    rw [axH_irqSettle, axH_of_axes (hsnap .axes (by simp))]
  refine ⟨?_, ?_, fun a ha hm => ?_, fun a _ hm => ?_⟩
  · rw [nodeState_irqSettle, nodeState, fld_congr (getReg_putSnap d seg.val _)]
    exact hstate
  · rw [nodeH_irqSettle, nodeH_of_keeps hsnap (by simp), hqueue]
  · rw [hend, hax, if_pos (show a ∈ nodeAxes (found s) seg.val i.val from mem_nodeAxes.2 ⟨ha, hm⟩)]
    exact ⟨rfl, rfl⟩
  · rw [hend, hax, if_neg (show a ∉ nodeAxes (found s) seg.val i.val from fun h => hm (mem_nodeAxes.1 h).2)]
    rfl

/-! Admission (R225). -/

/-- The node admitted, before its axes. -/
def nodeIn (d : Die) (seg i : Nat) : Die :=
  updNode (setFld d (Reg.LSH_NODE_STAT_STATE seg i) 2) seg i fun n => { n with quiet := 0, rollMiss := 0, seen := false, fltLogged := false }

/-- The node admitted, with its axes. -/
def nodeAdmitted (d : Die) (seg i : Nat) : Die :=
  (nodeAxes (nodeIn d seg i) seg i).foldl (fun d a => updAx d a axisIn) (nodeIn d seg i)

theorem admitNow_due {d : Die} {seg i : Nat} (hst : nodeState d seg i = 1) (hack : (nodeH d seg i).acked = true)
    (hdue : (nodeH d seg i).effBeat ≤ d.tb.k) :
    admitNow d seg i = logEvt (nodeAdmitted d seg i) 5 2 0 seg i ((nodeH d seg i).effBeat % 2 ^ 32) := by
  have hgo : (nodeState d seg i == 1 && (nodeH d seg i).acked && decide ((nodeH d seg i).effBeat ≤ d.tb.k)) = true := by
    simp [hst, hack, hdue]
  exact if_pos hgo

theorem nodeAdmitted_spec (d : Die) (seg i : Nat) : nodeState (nodeAdmitted d seg i) seg i = 2 ∧
    Keeps [.regs, .axes, .nodes] d (nodeAdmitted d seg i) ∧ ∀ a, axH (nodeAdmitted d seg i) a =
      if a ∈ nodeAxes d seg i then axisIn (axH d a) else axH d a := by
  unfold nodeAdmitted
  have hstate : nodeState (nodeIn d seg i) seg i = 2 := nodeState_setFld d seg i (by decide)
  have hkeep : Keeps [.regs, .nodes] d (nodeIn d seg i) := (keeps_updNode _ _ (by simp) _ _ _).2 ((keeps_setFld _ _ (by simp) _ _).2 (.refl _ d))
  have hcfg : ∀ a, getReg (nodeIn d seg i) (Reg.AX_CFG a) = getReg d (Reg.AX_CFG a) := fun a =>
    getReg_setFld_ne d (Reg.LSH_NODE_STAT_STATE seg i) 2 (by simp only [Reg.AX_CFG, Reg.LSH_NODE_STAT_STATE, Reg.LSH_NODE_STAT]; omega)
  generalize nodeIn d seg i = e at hstate hkeep hcfg
  refine ⟨?_, (hkeep.mono (by simp)).trans ((keeps_foldl_updAx _ _ e).mono (by simp)), fun a => ?_⟩
  · rw [nodeState, fld_congr (leaves_foldl_updAx (fun _ => False) _ _ e _ not_false)]
    exact hstate
  · rw [axH_foldl_updAx _ (nodup_nodeAxes e seg i), axH_of_axes (hkeep .axes (by simp))]
    have hmem : a ∈ nodeAxes e seg i ↔ a ∈ nodeAxes d seg i := by
      rw [mem_nodeAxes, mem_nodeAxes, nodeAxis_congr hcfg]
    simp only [hmem]

theorem ends_admissionEffective {s : State} {seg : Fin 4} {i : Fin 32} (hst : nodeState s.die seg.val i.val = 1)
    (hack : (nodeH s.die seg.val i.val).acked = true) (hdue : (nodeH s.die seg.val i.val).effBeat ≤ s.die.tb.k) :
    ends (.admissionEffective seg i) s fun t => nodeState t.die seg.val i.val = 2 ∧
        (∀ a, a < 128 → nodeAxis s.die seg.val i.val a → (axH t.die a).admitted = true ∧ (axH t.die a).lastAcc = none) ∧
        (∀ a, a < 128 → ¬ nodeAxis s.die seg.val i.val a → axH t.die a = axH s.die a) ∧
        keepsBut [.regs, .axes, .segs, .nodes, .lgb] s t := by
  refine ends_of_onDie (f := fun d => putSnap (admitNow d seg.val i.val) seg.val) rfl ?_
  rw [admitNow_due (d := found s) hst hack hdue]
  obtain ⟨hstate, hkeep, hax⟩ := nodeAdmitted_spec (found s) seg.val i.val
  generalize nodeAdmitted (found s) seg.val i.val = d at hstate hkeep hax
  have htold := told_logEvt d 5 2 0 seg.val i.val ((nodeH (found s) seg.val i.val).effBeat % 2 ^ 32)
  have hlog : Keeps [.regs, .lgb] d (logEvt d 5 2 0 seg.val i.val ((nodeH (found s) seg.val i.val).effBeat % 2 ^ 32)) :=
    (keeps_logEvt _ _ (by simp) (by simp) ..).2 (.refl _ d)
  generalize logEvt d 5 2 0 seg.val i.val ((nodeH (found s) seg.val i.val).effBeat % 2 ^ 32) = e at htold hlog
  have hsnap : Keeps [.segs] e (putSnap e seg.val) := (keeps_putSnap _ _ (by simp) _).2 (.refl _ e)
  have hend : ∀ a, axH (irqSettle s.die (putSnap e seg.val)) a = axH d a := fun a => by
    rw [axH_irqSettle, axH_of_axes (hsnap .axes (by simp)), axH_of_axes (hlog .axes (by simp))]
  refine ⟨?_, fun a ha hm => ?_, fun a _ hm => ?_, keepsBut_command (((hkeep.mono (by simp)).trans (hlog.mono (by simp))).trans (hsnap.mono (by simp)))⟩
  · rw [nodeState_irqSettle, nodeState, fld_congr (getReg_putSnap e seg.val _),
      htold.fld (f := Reg.LSH_NODE_STAT_STATE seg.val i.val) (by simp only [Reg.LSH_NODE_STAT_STATE, Reg.LSH_NODE_STAT]; omega)]
    exact hstate
  · rw [hend, hax, if_pos (show a ∈ nodeAxes (found s) seg.val i.val from mem_nodeAxes.2 ⟨ha, hm⟩)]
    exact ⟨rfl, rfl⟩
  · rw [hend, hax, if_neg (show a ∉ nodeAxes (found s) seg.val i.val from fun h => hm (mem_nodeAxes.1 h).2)]
    rfl

/-- An admission that was not acknowledged falls back, before its requests end. -/
def fellBack (d : Die) (seg i : Nat) : Die :=
  setFld (setFld d (Reg.LSH_NODE_STAT_STATE seg i) 0) (Reg.LSH_NODE_STAT_REASON seg i) 4

theorem nodeReason_spec (d : Die) (seg i : Nat) {st why : Nat} (hs : st < 8) (hw : why < 16) :
    nodeState (setFld (setFld d (Reg.LSH_NODE_STAT_STATE seg i) st) (Reg.LSH_NODE_STAT_REASON seg i) why) seg i = st ∧
    fld (setFld (setFld d (Reg.LSH_NODE_STAT_STATE seg i) st) (Reg.LSH_NODE_STAT_REASON seg i) why) (Reg.LSH_NODE_STAT_REASON seg i) = why := by
  refine ⟨?_, ?_⟩
  · rw [nodeState, fld_setFld_below _ (Reg.LSH_NODE_STAT_STATE seg i) (Reg.LSH_NODE_STAT_REASON seg i) why rfl (show 0 + 3 ≤ 8 by decide)
      (show 8 + 4 ≤ 32 by decide)]
    exact nodeState_setFld d seg i hs
  · rw [fld_setFld_same _ _ _ (show 8 + 4 ≤ 32 by decide)]
    exact Nat.mod_eq_of_lt hw

theorem admitLate_due {d : Die} {seg i : Nat} (hst : nodeState d seg i = 1) (hack : (nodeH d seg i).acked = false)
    (hdue : (nodeH d seg i).effBeat ≤ d.tb.k) :
    admitLate d seg i = incReg (mbxFlush (fellBack d seg i) seg i 8 fun r => r.ticket == 0) (Reg.LSH_CNT_ADMFAIL seg) := by
  have hgo : (nodeState d seg i == 1 && !(nodeH d seg i).acked && decide ((nodeH d seg i).effBeat ≤ d.tb.k)) = true := by
    simp [hst, hack, hdue]
  exact if_pos hgo

/-- The requests of the part's own end without a word to the host. -/
theorem mbxDropped_own (d : Die) (seg st : Nat) {l : List MbxReq} (h : ∀ q ∈ l, q.ticket = 0) : mbxDropped d seg st l = d := by
  induction l with
  | nil => rfl
  | cons q l ih =>
    rw [mbxDropped, List.foldl_cons, mbxEnd_own d seg (h q (by simp))]
    exact ih fun r hr => h r (by simp [hr])

theorem ends_admissionTimeout {s : State} {seg : Fin 4} {i : Fin 32} (hst : nodeState s.die seg.val i.val = 1)
    (hack : (nodeH s.die seg.val i.val).acked = false) (hdue : (nodeH s.die seg.val i.val).effBeat ≤ s.die.tb.k) :
    ends (.admissionTimeout seg i) s fun t => nodeState t.die seg.val i.val = 0 ∧
        fld t.die (Reg.LSH_NODE_STAT_REASON seg.val i.val) = 4 ∧
        (nodeH t.die seg.val i.val).queue = (nodeH s.die seg.val i.val).queue.filter (fun r => r.ticket != 0) ∧
        keepsBut [.regs, .segs, .nodes] s t := by
  refine ends_of_onDie (f := fun d => putSnap (admitLate d seg.val i.val) seg.val) rfl ?_
  rw [admitLate_due (d := found s) hst hack hdue, mbxFlush_eq, mbxDropped_own _ _ _ fun q hq => by simpa using (List.mem_filter.1 hq).2]
  obtain ⟨hstate, hreason⟩ := nodeReason_spec (found s) seg.val i.val (st := 0) (why := 4) (by decide) (by decide)
  have hkeep : Keeps [.regs] (found s) (fellBack (found s) seg.val i.val) :=
    (keeps_setFld _ _ (by simp) _ _).2 ((keeps_setFld _ _ (by simp) _ _).2 (.refl _ _))
  have hqueue : (nodeH (fellBack (found s) seg.val i.val) seg.val i.val).queue = (nodeH s.die seg.val i.val).queue := by
    rw [nodeH_of_keeps hkeep (by simp)]
    rfl
  rw [hqueue]
  change nodeState (fellBack _ _ _) _ _ = _ at hstate
  change fld (fellBack _ _ _) _ = _ at hreason
  generalize fellBack (found s) seg.val i.val = d at hstate hreason hkeep
  generalize (nodeH s.die seg.val i.val).queue = q
  have hnode : (nodeH (queueLeft d seg.val i.val (q.filter fun r => !(r.ticket == 0))) seg.val i.val).queue =
    q.filter fun r => !(r.ticket == 0) := congrArg (·.queue) (nodeH_updNode_same _ _ _ _)
  have hkeep2 : Keeps [.nodes] d (queueLeft d seg.val i.val (q.filter fun r => !(r.ticket == 0))) :=
    (keeps_updNode _ _ (by simp) _ _ _).2 (.refl _ d)
  have hregs : ∀ off, getReg (queueLeft d seg.val i.val (q.filter fun r => !(r.ticket == 0))) off = getReg d off := fun _ => rfl
  generalize queueLeft d seg.val i.val (q.filter fun r => !(r.ticket == 0)) = e at hnode hkeep2 hregs
  have hcount : Keeps [.regs] e (incReg e (Reg.LSH_CNT_ADMFAIL seg.val)) := (keeps_incReg _ _ (by simp) _).2 (.refl _ e)
  have hsnap : Keeps [.segs] (incReg e (Reg.LSH_CNT_ADMFAIL seg.val)) (putSnap (incReg e (Reg.LSH_CNT_ADMFAIL seg.val)) seg.val) :=
    (keeps_putSnap _ _ (by simp) _).2 (.refl _ _)
  have hstat : ∀ f : Fld, f.off = Reg.LSH_NODE_STAT seg.val i.val →
      fld (putSnap (incReg e (Reg.LSH_CNT_ADMFAIL seg.val)) seg.val) f = fld d f := fun f hf => fld_congr <| by
    rw [getReg_putSnap, getReg_incReg_ne e _ (by rw [hf]; simp only [Reg.LSH_NODE_STAT, Reg.LSH_CNT_ADMFAIL]; omega), hregs]
  refine ⟨?_, ?_, ?_, keepsBut_command ((((hkeep.mono (by simp)).trans (hkeep2.mono (by simp))).trans (hcount.mono (by simp))).trans (hsnap.mono (by simp)))⟩
  · rw [nodeState_irqSettle, nodeState, hstat (Reg.LSH_NODE_STAT_STATE seg.val i.val) rfl]
    exact hstate
  · rw [fld_irqSettle, hstat (Reg.LSH_NODE_STAT_REASON seg.val i.val) rfl, hreason]
  · rw [nodeH_irqSettle, nodeH_of_keeps hsnap (by simp), nodeH_of_keeps hcount (by simp), hnode]
    rfl

/-! Mailbox traffic (R226, R227). -/

theorem mbxTimeout_due {d : Die} {seg i : Nat} {q : MbxReq} {rest : List MbxReq} {b : Nat} (hq : (nodeH d seg i).queue = q :: rest)
    (hsent : q.sent = some b) (hdue : b + 16 * effFld d (Reg.LSH_SCHED_MBXTO seg) ≤ d.tb.k) :
    mbxTimeout d seg i = mbxEnd (queueLeft d seg i rest) seg q 7 [] := by
  unfold mbxTimeout
  rw [hq]
  refine if_pos ?_
  rw [hsent]
  exact decide_eq_true hdue

/-- What the end of the request at a queue's front leaves. -/
theorem requestEnd_spec (d : Die) (seg i : Nat) {q : MbxReq} (hq : q.ticket ≠ 0) (rest : List MbxReq) (st : Nat) (data : List Byte) :
    (nodeH (mbxEnd (queueLeft d seg i rest) seg q st data) seg i).queue = rest ∧
    (mbxEnd (queueLeft d seg i rest) seg q st data).host.rsps = ((q.ticket, st, data) :: d.host.rsps).take 16 ∧
    Keeps [.regs, .nodes, .host] d (mbxEnd (queueLeft d seg i rest) seg q st data) := by
  have hself : (nodeH (queueLeft d seg i rest) seg i).queue = rest := congrArg (·.queue) (nodeH_updNode_same _ _ _ _)
  have hkeep : Keeps [.nodes] d (queueLeft d seg i rest) := (keeps_updNode _ _ (by simp) _ _ _).2 (.refl _ d)
  have hrsps : (queueLeft d seg i rest).host.rsps = d.host.rsps := rfl
  generalize queueLeft d seg i rest = e at hself hkeep hrsps
  obtain ⟨-, hk, hr⟩ := mbxEnd_spec e seg q st data
  exact ⟨by rw [nodeH_of_keeps hk (by simp), hself], by rw [hr hq, hrsps], (hkeep.mono (by simp)).trans (hk.mono (by simp))⟩

theorem rsps_of_keeps {ps : List Part} {c d : Die} (h : Keeps ps c d) (hh : .host ∉ ps) : d.host.rsps = c.host.rsps := by
  have hstill : d.host.still = c.host.still := h .host hh
  show d.host.still.rsps = c.host.still.rsps
  rw [hstill]

theorem rsps_irqSettle (c d : Die) : (irqSettle c d).host.rsps = d.host.rsps := rsps_of_keeps (keeps_irqSettle [] c d) (by simp)

theorem ends_mailboxTimeout {s : State} {seg : Fin 4} {i : Fin 32} {q : MbxReq} {rest : List MbxReq} {b : Nat}
    (hq : (nodeH s.die seg.val i.val).queue = q :: rest) (hsent : q.sent = some b)
    (hdue : b + 16 * effFld s.die (Reg.LSH_SCHED_MBXTO seg.val) ≤ s.die.tb.k) (hticket : q.ticket ≠ 0) :
    ends (.mailboxTimeout seg i) s fun t => (nodeH t.die seg.val i.val).queue = rest ∧
        t.die.host.rsps = ((q.ticket, 7, []) :: s.die.host.rsps).take 16 ∧ keepsBut [.regs, .nodes, .host] s t := by
  refine ends_of_onDie (f := (mbxTimeout · seg.val i.val)) rfl ?_
  rw [mbxTimeout_due (d := found s) hq hsent hdue]
  obtain ⟨hqueue, hrsps, hkeep⟩ := requestEnd_spec (found s) seg.val i.val hticket rest 7 []
  exact ⟨by rw [nodeH_irqSettle, hqueue], (rsps_irqSettle _ _).trans hrsps, keepsBut_command hkeep⟩

/-- A frame with both checks passed is counted, and nothing more. -/
theorem checkFrame_sound {d : Die} {port typ : Nat} {hdr body : List Byte} {fcs : Nat} (hfcs : fcs = crc32 (hdr ++ body))
    (hhdr : hdrGood d (port / 2) typ hdr = true) : checkFrame d port typ hdr body fcs = (incReg d (Reg.LSH_CNT_RXFRM port), true) := by
  unfold checkFrame
  extract_lets d1 fcsOk hdrOk d2 d3
  have hf : fcsOk = true := beq_iff_eq.2 hfcs
  have hh : hdrOk = true := (hdrGood_congr (beatNum_incReg d (rxfrm_ne port)) _ _ _).trans hhdr
  have h2 : d2 = d1 := if_pos hf
  have h3 : d3 = d2 := if_pos (by rw [hh]; rfl)
  rw [h3, h2, hf, hh]
  rfl

theorem nNode_of_leaves {p : Nat → Prop} {c d : Die} (h : Leaves p c d) {seg : Nat} (hp : ¬ p (Reg.LSH_SCFG seg)) : nNode d seg = nNode c seg :=
  fld_of_leaves h (Reg.LSH_SCFG_NNODE seg) hp

theorem leaves_rxfrm (d : Die) (port : Nat) : Leaves (· = Reg.LSH_CNT_RXFRM port) d (incReg d (Reg.LSH_CNT_RXFRM port)) :=
  (leaves_incReg (p := (· = Reg.LSH_CNT_RXFRM port)) d d rfl).2 (.refl _ d)

/-- The status that a response's code gives (R227, R350). -/
def answerStatus (code : Nat) : Nat := if code = 0 then 0 else if code = 1 then 5 else 6

theorem mbxAnswer_host {d : Die} {seg i : Nat} {q : MbxReq} {rest : List MbxReq} (hq : (nodeH d seg i).queue = q :: rest)
    (hticket : q.ticket ≠ 0) (st : Nat) (data : List Byte) :
    mbxAnswer d seg i st data = mbxEnd (queueLeft d seg i rest) seg q (answerStatus st) data := by
  unfold mbxAnswer
  rw [hq]
  exact if_pos hticket

/-- The response area of an MBX frame (R226). -/
def mbxArea (hdr body : List Byte) : List Byte := slice body (leAt hdr 22 2) (leAt hdr 24 2)

theorem mbxReturn_answer {d : Die} {seg : Nat} {hdr body : List Byte} {fcs : Nat} {q : MbxReq} {rest : List MbxReq}
    (hring : bitOf (leAt hdr 3 1) 3 = false) (hrx : receives d (2 * seg + 1) = true) (hfcs : fcs = crc32 (hdr ++ body))
    (hhdr : hdrGood d seg 3 hdr = true) (hlen : 4 ≤ leAt (mbxArea hdr body) 0 2)
    (hroom : leAt (mbxArea hdr body) 0 2 + 2 ≤ (mbxArea hdr body).length) (hi : leAt hdr 21 1 < nNode d seg)
    (hq : (nodeH d seg (leAt hdr 21 1)).queue = q :: rest) (hsent : q.sent.isSome = true) (htag : leAt (mbxArea hdr body) 2 2 = q.tag)
    (hticket : q.ticket ≠ 0) : mbxReturn d seg hdr body fcs =
      mbxEnd (queueLeft (incReg d (Reg.LSH_CNT_RXFRM (2 * seg + 1))) seg (leAt hdr 21 1) rest) seg q
        (answerStatus (leAt (mbxArea hdr body) 4 2)) (slice (mbxArea hdr body) 6 (leAt (mbxArea hdr body) 0 2 - 4)) := by
  unfold mbxReturn
  extract_lets fl atHead port r e i area rlen
  have hport : port = 2 * seg + 1 := if_neg (by simp [atHead, fl, hring])
  have hr : r = (incReg d (Reg.LSH_CNT_RXFRM (2 * seg + 1)), true) := by
    show checkFrame d port 3 hdr body fcs = _
    rw [hport]
    exact checkFrame_sound hfcs (by rw [show (2 * seg + 1) / 2 = seg by omega]; exact hhdr)
  have he : e = incReg d (Reg.LSH_CNT_RXFRM (2 * seg + 1)) := congrArg Prod.fst hr
  have hn : nNode e seg = nNode d seg := by
    rw [he]
    exact nNode_of_leaves (leaves_rxfrm d (2 * seg + 1)) (by simp only [Reg.LSH_SCFG, Reg.LSH_CNT_RXFRM]; omega)
  have hqe : (nodeH e seg i).queue = q :: rest := by
    rw [he]
    exact hq
  have hgo : ¬ (rlen < 4 ∨ area.length < rlen + 2 ∨ nNode e seg ≤ i) := by
    rw [hn]
    exact not_or.2 ⟨Nat.not_lt.2 hlen, not_or.2 ⟨Nat.not_lt.2 hroom, Nat.not_le.2 hi⟩⟩
  have hmine : (q.sent.isSome && leAt area 2 2 == q.tag) = true := by
    rw [hsent, show leAt area 2 2 = q.tag from htag, beq_self_eq_true]
    rfl
  rw [← he, if_neg (by rw [hport, hrx]; simp), if_neg (by rw [hr]; simp), if_neg hgo, hqe]
  exact (if_pos hmine).trans (mbxAnswer_host hqe hticket _ _)

theorem ends_mbxFrameReturn {s : State} {seg : Fin 4} {hdr body : List Byte} {fcs : Word} {q : MbxReq} {rest : List MbxReq}
    (hring : bitOf (leAt hdr 3 1) 3 = false) (hrx : receives s.die (2 * seg.val + 1) = true) (hfcs : fcs.toNat = crc32 (hdr ++ body))
    (hhdr : hdrGood s.die seg.val 3 hdr = true) (hlen : 4 ≤ leAt (mbxArea hdr body) 0 2)
    (hroom : leAt (mbxArea hdr body) 0 2 + 2 ≤ (mbxArea hdr body).length) (hi : leAt hdr 21 1 < nNode s.die seg.val)
    (hq : (nodeH s.die seg.val (leAt hdr 21 1)).queue = q :: rest) (hsent : q.sent.isSome = true)
    (htag : leAt (mbxArea hdr body) 2 2 = q.tag) (hticket : q.ticket ≠ 0) :
    ends (.mbxFrameReturn seg hdr body fcs) s fun t => (nodeH t.die seg.val (leAt hdr 21 1)).queue = rest ∧
      t.die.host.rsps =
        ((q.ticket, answerStatus (leAt (mbxArea hdr body) 4 2), slice (mbxArea hdr body) 6 (leAt (mbxArea hdr body) 0 2 - 4)) ::
          s.die.host.rsps).take 16 := by
  refine ends_of_onDie (f := fun d => putSnap (mbxReturn d seg.val hdr body fcs.toNat) seg.val) rfl ?_
  rw [mbxReturn_answer (d := found s) hring hrx hfcs hhdr hlen hroom hi hq hsent htag hticket]
  obtain ⟨hqueue, hrsps, -⟩ := requestEnd_spec (incReg (found s) (Reg.LSH_CNT_RXFRM (2 * seg.val + 1))) seg.val (leAt hdr 21 1) hticket rest
    (answerStatus (leAt (mbxArea hdr body) 4 2)) (slice (mbxArea hdr body) 6 (leAt (mbxArea hdr body) 0 2 - 4))
  have hfound : (incReg (found s) (Reg.LSH_CNT_RXFRM (2 * seg.val + 1))).host.rsps = s.die.host.rsps := rfl
  rw [hfound] at hrsps
  generalize mbxEnd (queueLeft (incReg (found s) (Reg.LSH_CNT_RXFRM (2 * seg.val + 1))) seg.val (leAt hdr 21 1) rest) seg.val q
    (answerStatus (leAt (mbxArea hdr body) 4 2)) (slice (mbxArea hdr body) 6 (leAt (mbxArea hdr body) 0 2 - 4)) = d at hqueue hrsps
  have hsnap : Keeps [.segs] d (putSnap d seg.val) := (keeps_putSnap _ _ (by simp) _).2 (.refl _ d)
  exact ⟨by rw [nodeH_irqSettle, nodeH_of_keeps hsnap (by simp), hqueue], by rw [rsps_irqSettle, rsps_of_keeps hsnap (by simp), hrsps]⟩

/-! The table of R225 after a ROLL frame. -/

/-- A step on node `j` of a segment. -/
structure NodeTurn (seg j : Nat) (c d : Die) : Prop where
  regs : Leaves (lossReg seg j) c d
  parts : Keeps [.regs, .host, .nodes, .axes, .lgb] c d
  others : ∀ b i, b * 32 + i ≠ seg * 32 + j → nodeH d b i = nodeH c b i

theorem NodeTurn.refl (seg j : Nat) (d : Die) : NodeTurn seg j d d := ⟨.refl _ d, .refl _ d, fun _ _ _ => rfl⟩

theorem NodeTurn.trans {seg j : Nat} {c d e : Die} (h : NodeTurn seg j c d) (h' : NodeTurn seg j d e) : NodeTurn seg j c e :=
  ⟨h.regs.trans h'.regs, h.parts.trans h'.parts, fun b i hne => (h'.others b i hne).trans (h.others b i hne)⟩

section Turns

variable (d : Die) (seg j : Nat)

theorem nodeTurn_setFld {f : Fld} (h : f.off = Reg.LSH_NODE_STAT seg j) (v : Nat) : NodeTurn seg j d (setFld d f v) :=
  ⟨(leaves_setFld (p := lossReg seg j) _ _ (.inr (.inl h)) v).2 (.refl _ d), (keeps_setFld _ _ (by simp) _ _).2 (.refl _ d), fun _ _ _ => rfl⟩

theorem nodeTurn_updNode (f : Node → Node) : NodeTurn seg j d (updNode d seg j f) :=
  ⟨(leaves_updNode _ _ _ _ _).2 (.refl _ d), (keeps_updNode _ _ (by simp) _ _ _).2 (.refl _ d), fun _ _ h => updNode_apart h d f⟩

theorem nodeTurn_logEvt (src code sev p0 p1 p2 : Nat) : NodeTurn seg j d (logEvt d src code sev p0 p1 p2) := by
  have h := told_logEvt d src code sev p0 p1 p2
  exact ⟨h.regs.mono fun _ ho => .inr (.inr ho), h.parts.mono (by simp), fun b i _ => nodeH_of_keeps h.parts (by simp) b i⟩

theorem nodeTurn_mbxQueue (code : Nat) (data : List Byte) : NodeTurn seg j d (mbxQueue d seg j code data 0) := by
  unfold mbxQueue
  extract_lets d1
  rw [if_pos rfl]
  exact nodeTurn_updNode d seg j _

theorem nodeTurn_dropNode : NodeTurn seg j d (dropNode d seg j) := by
  obtain ⟨-, -, hl, hk, -, hothers⟩ := dropNode_spec d seg j
  exact ⟨hl, hk, hothers⟩

theorem nodeTurn_nodeLoss : NodeTurn seg j d (nodeLoss d seg j) := by
  unfold nodeLoss
  split
  · exact nodeTurn_dropNode d seg j
  · exact .refl seg j d

theorem nodeTurn_admitNak : NodeTurn seg j d (admitNak d seg j) := by
  unfold admitNak
  split
  · exact (((nodeTurn_setFld d seg j (f := Reg.LSH_NODE_STAT_STATE seg j) rfl 3).trans
      (nodeTurn_setFld _ seg j (f := Reg.LSH_NODE_STAT_REASON seg j) rfl 3)).trans (nodeTurn_updNode _ seg j _)).trans
      (nodeTurn_logEvt _ seg j ..)
  · exact .refl seg j d

theorem nodeTurn_rollNode (e : List Byte) : NodeTurn seg j d (rollNode d seg j e) := by
  unfold rollNode
  extract_lets there why eff d1 d2 d3
  split
  · exact (nodeTurn_updNode d seg j _).trans (nodeTurn_nodeLoss _ seg j)
  · split
    · exact .refl seg j d
    · split
      · split
        · exact .refl seg j d
        · exact ((nodeTurn_setFld d seg j (f := Reg.LSH_NODE_STAT_STATE seg j) rfl 1).trans (nodeTurn_mbxQueue d1 seg j _ _)).trans
            (nodeTurn_updNode _ seg j _)
      · exact ((nodeTurn_setFld d seg j (f := Reg.LSH_NODE_STAT_STATE seg j) rfl 3).trans
          (nodeTurn_setFld _ seg j (f := Reg.LSH_NODE_STAT_REASON seg j) rfl _)).trans (nodeTurn_logEvt _ seg j ..)
  · split
    · exact .refl seg j d
    · exact nodeTurn_setFld d seg j (f := Reg.LSH_NODE_STAT_STATE seg j) rfl 0
  · exact nodeTurn_admitNak d seg j

/-- An entry that matches begins the admission of an absent node. -/
theorem rollNode_admits {e : List Byte} (hst : nodeState d seg j = 0) (hthere : leAt e 0 1 ≠ 0) (hwhy : rollReason (nodeH d seg j) e = 0)
    (htopo : flag d (Reg.LSH_SSTAT_TOPO seg) = false) : nodeState (rollNode d seg j e) seg j = 1 ∧
    (nodeH (rollNode d seg j e) seg j).effBeat = d.tb.k + 16 ∧ (nodeH (rollNode d seg j e) seg j).acked = false := by
  unfold rollNode
  extract_lets there why eff d1 d2 d3
  have hin : there := hthere
  have hmatch : why = 0 := (if_pos hin).trans hwhy
  have hstate : nodeState d1 seg j = 1 := nodeState_setFld d seg j (by decide)
  have hq : ∀ off, getReg d2 off = getReg d1 off := fun off => by
    show getReg (mbxQueue d1 seg j 1 (admitData d1 seg j eff) 0) off = _
    unfold mbxQueue
    rw [if_pos rfl]
    rfl
  rw [hst]
  rw [if_neg (by simp [hin]), if_pos hmatch, if_neg (by simp [htopo])]
  exact ⟨(fld_congr (f := Reg.LSH_NODE_STAT_STATE seg j) (hq _)).trans hstate, congrArg (·.effBeat) (nodeH_updNode_same d2 seg j _),
    congrArg (·.acked) (nodeH_updNode_same d2 seg j _)⟩

/-- An entry that does not match is rejected with its reason. -/
theorem rollNode_rejects {e : List Byte} (hst : nodeState d seg j = 0) (hthere : leAt e 0 1 ≠ 0) (hwhy : rollReason (nodeH d seg j) e ≠ 0) :
    nodeState (rollNode d seg j e) seg j = 3 ∧ fld (rollNode d seg j e) (Reg.LSH_NODE_STAT_REASON seg j) = rollReason (nodeH d seg j) e := by
  unfold rollNode
  extract_lets there why eff d1 d2 d3
  have hin : there := hthere
  have heq : why = rollReason (nodeH d seg j) e := if_pos hin
  have hlt : why < 16 := by
    rw [heq, rollReason]
    split
    · decide
    · split <;> decide
  have hlow : 0xC000 ≤ Reg.LSH_NODE_STAT seg j := by simp only [Reg.LSH_NODE_STAT]; omega
  obtain ⟨hs, hr⟩ := nodeReason_spec d seg j (st := 3) (by decide) hlt
  have htold := told_logEvt d3 5 4 1 seg j why
  rw [hst]
  rw [if_neg (by simp [hin]), if_neg (by rw [heq]; exact hwhy), ← heq]
  exact ⟨(htold.fld (f := Reg.LSH_NODE_STAT_STATE seg j) hlow).trans hs, (htold.fld (f := Reg.LSH_NODE_STAT_REASON seg j) hlow).trans hr⟩

end Turns

/-! The return of a ROLL frame (R223, R224). -/

/-- A node answered in the entry at index `i`. -/
def rollThere (body : List Byte) (i : Nat) : Bool := leAt (rollEntry body i) 0 1 != 0

/-- What an entry leaves in the registers of its node. -/
def rollNoted (seg : Nat) (body : List Byte) (d : Die) (i : Nat) : Die :=
  let d := updNode d seg i fun n => { n with rollResid := if rollThere body i then leAt (rollEntry body i) 12 2 else 0 }
  if !rollThere body i then d
  else putReg (putReg d (Reg.LSH_NODE_ID seg i) (BitVec.ofNat 32 (leAt (rollEntry body i) 2 4))) (Reg.LSH_NODE_SERIAL seg i)
    (BitVec.ofNat 32 (leAt (rollEntry body i) 8 4))

/-- A node that is not declared is told once. -/
def undeclNoted (seg : Nat) (body : List Byte) (d : Die) (i : Nat) : Die :=
  if (segH d seg).undeclared.contains i then d
  else logEvt (setFlag d (Reg.LSH_SSTAT_UNDECL seg)) 5 1 1 seg i (leAt (rollEntry body i) 2 4)

/-- The entries beyond the declared nodes. -/
def rollExtra (seg : Nat) (body : List Byte) (d : Die) : List Nat := (upto 32).filter fun i => decide (nNode d seg ≤ i) && rollThere body i

/-- The part with the entries of a ROLL frame noted. -/
def rollSeen (seg : Nat) (body : List Byte) (d : Die) : Die := (upto 32).foldl (rollNoted seg body) d

/-- The part with the undeclared nodes told. -/
def rollTold (seg : Nat) (body : List Byte) (d : Die) : Die :=
  updSeg ((rollExtra seg body d).foldl (undeclNoted seg body) d) seg fun s => { s with undeclared := rollExtra seg body d }

/-- The turn of one declared node. -/
def rollTurn (seg : Nat) (body : List Byte) (d : Die) (i : Nat) : Die := rollNode d seg i (if rollThere body i then rollEntry body i else [])

theorem rollReturn_sound {d : Die} {seg : Nat} {hdr body : List Byte} {fcs : Nat} (hrx : receives d (2 * seg + 1) = true)
    (hfcs : fcs = crc32 (hdr ++ body)) (hhdr : hdrGood d seg 2 hdr = true) : ∃ e, e = rollTold seg body
      (rollSeen seg body (incReg d (Reg.LSH_CNT_RXFRM (2 * seg + 1)))) ∧
    rollReturn d seg hdr body fcs = (upto (nNode e seg)).foldl (rollTurn seg body) e := by
  refine ⟨_, rfl, ?_⟩
  unfold rollReturn rollTold rollSeen rollExtra
  rw [if_neg (by simp [hrx]), checkFrame_sound hfcs (by rw [show (2 * seg + 1) / 2 = seg by omega]; exact hhdr)]
  generalize upto 32 = l
  rfl

/-- The registers that the entries of a frame write. -/
def entryReg (seg i off : Nat) : Prop := off = Reg.LSH_NODE_ID seg i ∨ off = Reg.LSH_NODE_SERIAL seg i

/-- The turn of another entry. -/
structure EntryTurn (seg i : Nat) (c d : Die) : Prop where
  regs : Leaves (fun off => ∃ j, j ≠ i ∧ j < 32 ∧ entryReg seg j off) c d
  tb : d.tb = c.tb
  node : nodeH d seg i = nodeH c seg i

theorem EntryTurn.refl (seg i : Nat) (d : Die) : EntryTurn seg i d d := ⟨.refl _ d, rfl, rfl⟩

theorem EntryTurn.trans {seg i : Nat} {c d e : Die} (h : EntryTurn seg i c d) (h' : EntryTurn seg i d e) : EntryTurn seg i c e :=
  ⟨h.regs.trans h'.regs, h'.tb.trans h.tb, h'.node.trans h.node⟩

theorem leaves_rollNoted (seg : Nat) (body : List Byte) (d : Die) (j : Nat) : Leaves (entryReg seg j) d (rollNoted seg body d j) := by
  unfold rollNoted
  extract_lets e
  have he : Leaves (entryReg seg j) d e := .of_regs rfl
  clear_value e
  split
  · exact he
  · exact (leaves_putReg (p := entryReg seg j) _ _ (.inr rfl) _).2 ((leaves_putReg (p := entryReg seg j) _ _ (.inl rfl) _).2 he)

theorem tb_rollNoted (seg : Nat) (body : List Byte) (d : Die) (j : Nat) : (rollNoted seg body d j).tb = d.tb := by
  unfold rollNoted
  extract_lets e
  split <;> rfl

theorem nodes_rollNoted (seg : Nat) (body : List Byte) (d : Die) (j : Nat) : (rollNoted seg body d j).nodes =
    (updNode d seg j fun n => { n with rollResid := if rollThere body j then leAt (rollEntry body j) 12 2 else 0 }).nodes := by
  unfold rollNoted
  extract_lets e
  split <;> rfl

theorem nodeH_of_nodes {c d : Die} (h : d.nodes = c.nodes) (seg i : Nat) : nodeH d seg i = nodeH c seg i := by rw [nodeH, h, nodeH]

theorem entryTurn_rollNoted (seg i : Nat) (body : List Byte) (d : Die) {j : Nat} (hj : j < 32) (h : j ≠ i) :
    EntryTurn seg i d (rollNoted seg body d j) :=
  ⟨(leaves_rollNoted seg body d j).mono fun _ ho => ⟨j, h, hj, ho⟩, tb_rollNoted seg body d j, by
    rw [nodeH_of_nodes (nodes_rollNoted seg body d j), updNode_apart (by omega)]⟩

/-- An entry's own turn. -/
theorem rollNoted_self (seg : Nat) (body : List Byte) (d : Die) {i : Nat} (h : rollThere body i = true) :
    getReg (rollNoted seg body d i) (Reg.LSH_NODE_ID seg i) = BitVec.ofNat 32 (leAt (rollEntry body i) 2 4) ∧
    getReg (rollNoted seg body d i) (Reg.LSH_NODE_SERIAL seg i) = BitVec.ofNat 32 (leAt (rollEntry body i) 8 4) ∧
    ∀ e, rollReason (nodeH (rollNoted seg body d i) seg i) e = rollReason (nodeH d seg i) e := by
  have hne : Reg.LSH_NODE_ID seg i ≠ Reg.LSH_NODE_SERIAL seg i := by simp only [Reg.LSH_NODE_ID, Reg.LSH_NODE_SERIAL]; omega
  refine ⟨?_, ?_, fun e => ?_⟩
  · unfold rollNoted
    rw [if_neg (by simp [h]), getReg_putReg_ne _ _ hne, getReg_putReg_same]
  · unfold rollNoted
    rw [if_neg (by simp [h]), getReg_putReg_same]
  · rw [nodeH_of_nodes (nodes_rollNoted seg body d i), nodeH_updNode_same]
    rfl

/-- What the noted entries leave of node `i`'s status, and what they show of it. -/
theorem rollSeen_spec (seg : Nat) (body : List Byte) (d : Die) {i : Nat} (hi : i < 32) (h : rollThere body i = true) :
    getReg (rollSeen seg body d) (Reg.LSH_NODE_ID seg i) = BitVec.ofNat 32 (leAt (rollEntry body i) 2 4) ∧
    getReg (rollSeen seg body d) (Reg.LSH_NODE_SERIAL seg i) = BitVec.ofNat 32 (leAt (rollEntry body i) 8 4) ∧
    (∀ e, rollReason (nodeH (rollSeen seg body d) seg i) e = rollReason (nodeH d seg i) e) ∧ (rollSeen seg body d).tb = d.tb ∧
    Leaves (fun off => ∃ j < 32, entryReg seg j off) d (rollSeen seg body d) := by
  have hall : Leaves (fun off => ∃ j < 32, entryReg seg j off) d (rollSeen seg body d) :=
    Leaves.foldl (fun e j hj => (leaves_rollNoted seg body e j).mono fun _ ho => ⟨j, mem_upto.1 hj, ho⟩) d
  have htb : (rollSeen seg body d).tb = d.tb := foldl_keeps (fun e : Die => e.tb) (tb_rollNoted seg body) (upto 32) d
  obtain ⟨x, hbefore, hafter⟩ : ∃ x, EntryTurn seg i d x ∧ EntryTurn seg i (rollNoted seg body x i) (rollSeen seg body d) :=
    foldl_at (R := EntryTurn seg i) (EntryTurn.refl seg i) EntryTurn.trans (f := rollNoted seg body) (nodup_upto 32)
      (mem_upto.2 hi) (fun x j hj hne => entryTurn_rollNoted seg i body x (mem_upto.1 hj) hne) d
  have hout : ∀ o, entryReg seg i o → ¬ ∃ j, j ≠ i ∧ j < 32 ∧ entryReg seg j o := by
    rintro o ho ⟨j, hne, -, hj⟩
    simp only [entryReg, Reg.LSH_NODE_ID, Reg.LSH_NODE_SERIAL] at ho hj
    omega
  obtain ⟨hid, hserial, hreason⟩ := rollNoted_self seg body x h
  exact ⟨(hafter.regs _ (hout _ (.inl rfl))).trans hid, (hafter.regs _ (hout _ (.inr rfl))).trans hserial,
    fun e => by rw [hafter.node, hreason, hbefore.node], htb, hall⟩

/-- The registers that telling of undeclared nodes writes. -/
def undeclReg (seg off : Nat) : Prop := off = Reg.LSH_SSTAT seg ∨ logReg off

/-- What telling of undeclared nodes leaves. -/
structure UndeclTold (seg : Nat) (c d : Die) : Prop where
  regs : Leaves (undeclReg seg) c d
  parts : Keeps [.regs, .lgb, .segs] c d
  topo : flag d (Reg.LSH_SSTAT_TOPO seg) = flag c (Reg.LSH_SSTAT_TOPO seg)

theorem UndeclTold.refl (seg : Nat) (d : Die) : UndeclTold seg d d := ⟨.refl _ d, .refl _ d, rfl⟩

theorem UndeclTold.trans {seg : Nat} {c d e : Die} (h : UndeclTold seg c d) (h' : UndeclTold seg d e) : UndeclTold seg c e :=
  ⟨h.regs.trans h'.regs, h.parts.trans h'.parts, h'.topo.trans h.topo⟩

theorem undeclTold_noted (seg : Nat) (body : List Byte) (d : Die) (i : Nat) : UndeclTold seg d (undeclNoted seg body d i) := by
  unfold undeclNoted
  split
  · exact .refl seg d
  · have hset : UndeclTold seg d (setFlag d (Reg.LSH_SSTAT_UNDECL seg)) :=
      ⟨(leaves_setFlag (p := undeclReg seg) _ _ (f := Reg.LSH_SSTAT_UNDECL seg) (.inl rfl)).2 (.refl _ d), (keeps_setFlag _ _ (by simp) _).2 (.refl _ d), by
        rw [flag, setFlag, fld_setFld_below d (Reg.LSH_SSTAT_TOPO seg) (Reg.LSH_SSTAT_UNDECL seg) 1 rfl (show 1 + 1 ≤ 2 by decide)
          (show 2 + 1 ≤ 32 by decide), flag]⟩
    refine hset.trans ?_
    generalize setFlag d (Reg.LSH_SSTAT_UNDECL seg) = e
    have htold := told_logEvt e 5 1 1 seg i (leAt (rollEntry body i) 2 4)
    exact ⟨htold.regs.mono fun _ ho => .inr ho, (keeps_logEvt _ _ (by simp) (by simp) ..).2 (.refl _ e),
      htold.flag (f := Reg.LSH_SSTAT_TOPO seg) (by simp only [Reg.LSH_SSTAT_TOPO, Reg.LSH_SSTAT]; omega)⟩

theorem undeclTold_rollTold (seg : Nat) (body : List Byte) (d : Die) : UndeclTold seg d (rollTold seg body d) := by
  unfold rollTold
  generalize rollExtra seg body d = l
  have hfold : ∀ (m : List Nat) (x : Die), UndeclTold seg x (m.foldl (undeclNoted seg body) x) := fun m => by
    induction m with
    | nil => exact fun x => .refl seg x
    | cons i m ih => exact fun x => (undeclTold_noted seg body x i).trans (ih _)
  refine (hfold l d).trans ?_
  generalize l.foldl (undeclNoted seg body) d = e
  exact ⟨.of_regs rfl, (keeps_updSeg _ _ (by simp) _ _).2 (.refl _ e), rfl⟩

/-- The turns of the other nodes. -/
structure TurnAside (seg i : Nat) (c d : Die) : Prop where
  regs : Leaves (fun off => ∃ j, j ≠ i ∧ lossReg seg j off) c d
  tb : d.tb = c.tb
  node : nodeH d seg i = nodeH c seg i

theorem TurnAside.refl (seg i : Nat) (d : Die) : TurnAside seg i d d := ⟨.refl _ d, rfl, rfl⟩

theorem TurnAside.trans {seg i : Nat} {c d e : Die} (h : TurnAside seg i c d) (h' : TurnAside seg i d e) : TurnAside seg i c e :=
  ⟨h.regs.trans h'.regs, h'.tb.trans h.tb, h'.node.trans h.node⟩

theorem turnAside_rollTurn (seg i : Nat) (body : List Byte) (d : Die) {j : Nat} (h : j ≠ i) : TurnAside seg i d (rollTurn seg body d j) := by
  have hturn := nodeTurn_rollNode d seg j (if rollThere body j then rollEntry body j else [])
  exact ⟨hturn.regs.mono fun _ ho => ⟨j, h, ho⟩, hturn.parts .tb (by simp), hturn.others seg i (by omega)⟩

/-- A register of the node table that a turn does not write. -/
theorem not_lossReg {seg i off : Nat} (h : off = Reg.LSH_NODE_ID seg i ∨ off = Reg.LSH_NODE_SERIAL seg i) (j : Nat) : ¬ lossReg seg j off := by
  intro h'
  simp only [lossReg, logReg, Reg.LSH_MBXWAIT, Reg.LSH_NODE_STAT, Reg.LOG_CNT_LOST, Reg.LOG_STAT, Reg.LSH_NODE_ID, Reg.LSH_NODE_SERIAL] at h h'
  omega

theorem not_lossReg_stat {seg i : Nat} (off : Nat) (h : off = Reg.LSH_NODE_STAT seg i ∨ off = Reg.LSH_SSTAT seg) :
    ¬ ∃ j, j ≠ i ∧ lossReg seg j off := by
  rintro ⟨j, hne, h'⟩
  simp only [lossReg, logReg, Reg.LSH_MBXWAIT, Reg.LSH_NODE_STAT, Reg.LOG_CNT_LOST, Reg.LOG_STAT, Reg.LSH_SSTAT] at h h'
  omega

/-- What the frame leaves of node `i` before the table is evaluated. -/
theorem rollTold_spec (seg : Nat) (body : List Byte) (d : Die) {i : Nat} (hi : i < 32) (h : rollThere body i = true) :
    let e := rollTold seg body (rollSeen seg body d)
    getReg e (Reg.LSH_NODE_ID seg i) = BitVec.ofNat 32 (leAt (rollEntry body i) 2 4) ∧
    getReg e (Reg.LSH_NODE_SERIAL seg i) = BitVec.ofNat 32 (leAt (rollEntry body i) 8 4) ∧
    rollReason (nodeH e seg i) (rollEntry body i) = rollReason (nodeH d seg i) (rollEntry body i) ∧ e.tb = d.tb ∧
    nodeState e seg i = nodeState d seg i ∧ nNode e seg = nNode d seg ∧ flag e (Reg.LSH_SSTAT_TOPO seg) = flag d (Reg.LSH_SSTAT_TOPO seg) := by
  obtain ⟨hid, hserial, hreason, htb, hleaves⟩ := rollSeen_spec seg body d hi h
  generalize rollSeen seg body d = x at hid hserial hreason htb hleaves
  have htold := undeclTold_rollTold seg body x
  generalize rollTold seg body x = e at htold
  have hentry : ∀ off, (off = Reg.LSH_NODE_STAT seg i ∨ off = Reg.LSH_SCFG seg ∨ off = Reg.LSH_SSTAT seg) → ¬ ∃ j < 32, entryReg seg j off := by
    rintro off ho ⟨j, hj, he⟩
    simp only [entryReg, Reg.LSH_NODE_ID, Reg.LSH_NODE_SERIAL, Reg.LSH_NODE_STAT, Reg.LSH_SCFG, Reg.LSH_SSTAT] at ho he
    omega
  have hundecl : ∀ off, (off = Reg.LSH_NODE_STAT seg i ∨ off = Reg.LSH_SCFG seg ∨ entryReg seg i off) → ¬ undeclReg seg off := by
    intro off ho hu
    simp only [undeclReg, logReg, entryReg, Reg.LSH_SSTAT, Reg.LOG_CNT_LOST, Reg.LOG_STAT, Reg.LSH_NODE_ID, Reg.LSH_NODE_SERIAL,
      Reg.LSH_NODE_STAT, Reg.LSH_SCFG] at ho hu
    omega
  refine ⟨?_, ?_, ?_, ?_, ?_, ?_, ?_⟩
  · rw [htold.regs _ (hundecl _ (.inr (.inr (.inl rfl)))), hid]
  · rw [htold.regs _ (hundecl _ (.inr (.inr (.inr rfl)))), hserial]
  · rw [nodeH_of_keeps htold.parts (by simp), hreason]
  · rw [htold.parts .tb (by simp), htb]
  · rw [nodeState, fld_of_leaves htold.regs (Reg.LSH_NODE_STAT_STATE seg i) (hundecl _ (.inl rfl)),
      fld_of_leaves hleaves (Reg.LSH_NODE_STAT_STATE seg i) (hentry _ (.inl rfl)), nodeState]
  · rw [nNode_of_leaves htold.regs (hundecl _ (.inr (.inl rfl))), nNode_of_leaves hleaves (hentry _ (.inr (.inl rfl)))]
  · rw [htold.topo, flag_of_leaves hleaves (Reg.LSH_SSTAT_TOPO seg) (hentry _ (.inr (.inr rfl)))]

theorem ends_rollFrameReturn {s : State} {seg : Fin 4} {hdr body : List Byte} {fcs : Word} {i : Nat} (hi : i < 32)
    (hrx : receives s.die (2 * seg.val + 1) = true) (hfcs : fcs.toNat = crc32 (hdr ++ body)) (hhdr : hdrGood s.die seg.val 2 hdr = true)
    (hthere : leAt (rollEntry body i) 0 1 ≠ 0) : ends (.rollFrameReturn seg hdr body fcs) s fun t =>
      (getReg t.die (Reg.LSH_NODE_ID seg.val i)).toNat = leAt (rollEntry body i) 2 4 ∧
      (getReg t.die (Reg.LSH_NODE_SERIAL seg.val i)).toNat = leAt (rollEntry body i) 8 4 ∧
      (i < nNode s.die seg.val → nodeState s.die seg.val i = 0 → rollReason (nodeH s.die seg.val i) (rollEntry body i) = 0 →
        flag s.die (Reg.LSH_SSTAT_TOPO seg.val) = false → nodeState t.die seg.val i = 1 ∧
          (nodeH t.die seg.val i).effBeat = s.die.tb.k + 16 ∧ (nodeH t.die seg.val i).acked = false) ∧
      (i < nNode s.die seg.val → nodeState s.die seg.val i = 0 → rollReason (nodeH s.die seg.val i) (rollEntry body i) ≠ 0 →
        nodeState t.die seg.val i = 3 ∧
        fld t.die (Reg.LSH_NODE_STAT_REASON seg.val i) = rollReason (nodeH s.die seg.val i) (rollEntry body i)) := by
  refine ends_of_onDie (f := fun d => putSnap (rollReturn d seg.val hdr body fcs.toNat) seg.val) rfl ?_
  obtain ⟨e, he, heq⟩ := rollReturn_sound (d := found s) hrx hfcs hhdr
  have hin : rollThere body i = true := bne_iff_ne.2 hthere
  have hspec := rollTold_spec seg.val body (incReg (found s) (Reg.LSH_CNT_RXFRM (2 * seg.val + 1))) hi hin
  rw [← he] at hspec
  obtain ⟨hid, hserial, hreason, htb, hstate, hn, htopo⟩ := hspec
  have hrxl := leaves_rxfrm (found s) (2 * seg.val + 1)
  have hapart : ∀ off, (off = Reg.LSH_NODE_STAT seg.val i ∨ off = Reg.LSH_SCFG seg.val ∨ off = Reg.LSH_SSTAT seg.val) →
      off ≠ Reg.LSH_CNT_RXFRM (2 * seg.val + 1) := by
    simp only [Reg.LSH_NODE_STAT, Reg.LSH_SCFG, Reg.LSH_SSTAT, Reg.LSH_CNT_RXFRM]
    omega
  have hnode : nodeH (incReg (found s) (Reg.LSH_CNT_RXFRM (2 * seg.val + 1))) seg.val i = nodeH s.die seg.val i := rfl
  have htb' : (incReg (found s) (Reg.LSH_CNT_RXFRM (2 * seg.val + 1))).tb = s.die.tb := rfl
  rw [hnode] at hreason
  rw [htb'] at htb
  rw [nodeState, nodeState, fld_of_leaves hrxl (Reg.LSH_NODE_STAT_STATE seg.val i) (hapart _ (.inl rfl))] at hstate
  rw [nNode_of_leaves hrxl (hapart _ (.inr (.inl rfl)))] at hn
  rw [flag_of_leaves hrxl (Reg.LSH_SSTAT_TOPO seg.val) (hapart _ (.inr (.inr rfl)))] at htopo
  rw [heq]
  have hwhole : Leaves (fun off => ∃ j, lossReg seg.val j off) e ((upto (nNode e seg.val)).foldl (rollTurn seg.val body) e) :=
    Leaves.foldl (fun x j _ => (nodeTurn_rollNode x seg.val j _).regs.mono fun _ ho => ⟨j, ho⟩) e
  have hturns : ∀ j < nNode e seg.val, ∃ x, TurnAside seg.val j e x ∧
      TurnAside seg.val j (rollTurn seg.val body x j) ((upto (nNode e seg.val)).foldl (rollTurn seg.val body) e) := fun j hj =>
    foldl_at (R := TurnAside seg.val j) (TurnAside.refl seg.val j) TurnAside.trans (f := rollTurn seg.val body) (nodup_upto _)
      (mem_upto.2 hj) (fun x b _ hb => turnAside_rollTurn seg.val j body x hb) e
  generalize (upto (nNode e seg.val)).foldl (rollTurn seg.val body) e = d at hwhole hturns
  have hsnap : Keeps [.segs] d (putSnap d seg.val) := (keeps_putSnap _ _ (by simp) _).2 (.refl _ d)
  have hreg : ∀ off, getReg (irqSettle s.die (putSnap d seg.val)) off = getReg d off := fun off => by
    rw [getReg_irqSettle, getReg_putSnap]
  have hword : ∀ n, leAt (rollEntry body i) n 4 < 2 ^ 32 := fun n => leAt_lt _ _ 4
  refine ⟨?_, ?_, fun hlt hst hwhy htop => ?_, fun hlt hst hwhy => ?_⟩
  · show (getReg (irqSettle s.die (putSnap d seg.val)) _).toNat = _
    rw [hreg, hwhole _ (fun ⟨j, hj⟩ => not_lossReg (.inl rfl) j hj), hid, BitVec.toNat_ofNat, Nat.mod_eq_of_lt (hword 2)]
  · show (getReg (irqSettle s.die (putSnap d seg.val)) _).toNat = _
    rw [hreg, hwhole _ (fun ⟨j, hj⟩ => not_lossReg (.inr rfl) j hj), hserial, BitVec.toNat_ofNat, Nat.mod_eq_of_lt (hword 8)]
  · obtain ⟨x, hbefore, hafter⟩ := hturns i (hn ▸ hlt)
    have hx : nodeState x seg.val i = 0 := by
      rw [nodeState, fld_of_leaves hbefore.regs (Reg.LSH_NODE_STAT_STATE seg.val i) (not_lossReg_stat _ (.inl rfl)), hstate]
      exact hst
    have hxtopo : flag x (Reg.LSH_SSTAT_TOPO seg.val) = false := by
      rw [flag_of_leaves hbefore.regs (Reg.LSH_SSTAT_TOPO seg.val) (not_lossReg_stat _ (.inr rfl)), htopo]
      exact htop
    have hturn : rollTurn seg.val body x i = rollNode x seg.val i (rollEntry body i) := by rw [rollTurn, if_pos hin]
    obtain ⟨h1, h2, h3⟩ := rollNode_admits x seg.val i hx hthere (by rw [hbefore.node, hreason]; exact hwhy) hxtopo
    rw [hturn] at hafter
    refine ⟨?_, ?_, ?_⟩
    · rw [nodeState, fld_congr (hreg _), fld_of_leaves hafter.regs (Reg.LSH_NODE_STAT_STATE seg.val i) (not_lossReg_stat _ (.inl rfl))]
      exact h1
    · rw [nodeH_irqSettle, nodeH_of_keeps hsnap (by simp), hafter.node, h2, hbefore.tb, htb]
    · rw [nodeH_irqSettle, nodeH_of_keeps hsnap (by simp), hafter.node, h3]
  · obtain ⟨x, hbefore, hafter⟩ := hturns i (hn ▸ hlt)
    have hx : nodeState x seg.val i = 0 := by
      rw [nodeState, fld_of_leaves hbefore.regs (Reg.LSH_NODE_STAT_STATE seg.val i) (not_lossReg_stat _ (.inl rfl)), hstate]
      exact hst
    have hturn : rollTurn seg.val body x i = rollNode x seg.val i (rollEntry body i) := by rw [rollTurn, if_pos hin]
    have hsame : rollReason (nodeH x seg.val i) (rollEntry body i) = rollReason (nodeH s.die seg.val i) (rollEntry body i) := by
      rw [hbefore.node, hreason]
    obtain ⟨h1, h2⟩ := rollNode_rejects x seg.val i hx hthere (by rw [hsame]; exact hwhy)
    rw [hturn] at hafter
    refine ⟨?_, ?_⟩
    · rw [nodeState, fld_congr (hreg _), fld_of_leaves hafter.regs (Reg.LSH_NODE_STAT_STATE seg.val i) (not_lossReg_stat _ (.inl rfl))]
      exact h1
    · rw [fld_congr (hreg _), fld_of_leaves hafter.regs (Reg.LSH_NODE_STAT_REASON seg.val i) (not_lossReg_stat _ (.inl rfl)), h2, hsame]

/-- Settles O35: each node's row of R225 is one turn that leaves the other nodes, and a request ends at the front of its queue. -/
theorem nodeAdmissionAndMailbox : Obligations.NodeAdmissionAndMailbox := by
  unfold Obligations.NodeAdmissionAndMailbox
  exact ⟨fun s seg hdr body fcs i hi hrx hfcs hhdr hthere => ends_rollFrameReturn hi hrx hfcs hhdr hthere,
    fun s seg i => ⟨ends_admissionEffective, ends_admissionTimeout, ends_nodeLost,
      fun q rest b hq hsent hdue hticket => ends_mailboxTimeout hq hsent hdue hticket⟩,
    fun s seg hdr body fcs q rest hring hrx hfcs hhdr hlen hroom hi hq hsent htag hticket =>
      ends_mbxFrameReturn hring hrx hfcs hhdr hlen hroom hi hq hsent htag hticket⟩

end Sys2Proof.Machine
end

section
/-! PROOFS. O38: a stop that is due goes before the entry to RUN after the fourth contention Postmark (R15, R275). -/

namespace Sys2Proof.Machine

open Sys2Proof

/-- A part in CONTEND has sent three Postmarks; slot 0 is the PM slot, of one block, and a TRUNK_STOP is due. -/
def contendStopped : State :=
  { State.reset with
    die :=
      let run := setFlag State.reset.die Reg.BEAT_CFG_RUN
      let contend := setFld (setFld run (Reg.CTR_SLOT_W1_LEN 0) 1) Reg.CTR_STAT_STATE 2
      updTrk contend fun t => { t with csSent := 3, stopDue := true } }

/-- Refutes O38: the part that sends its fourth Postmark in CONTEND while a stop is due enters STOPPED, not RUN. -/
theorem not_trunkStatesAndSends : ¬ Obligations.TrunkStatesAndSends := by
  unfold Obligations.TrunkStatesAndSends
  intro h
  obtain ⟨-, -, -, -, hpostmark⟩ := h
  obtain ⟨-, hcontend⟩ := hpostmark contendStopped 0 (by decide +kernel) (by decide +kernel) (by decide +kernel) (by decide +kernel)
  obtain ⟨t, ht, -, hrun, -⟩ := hcontend (by decide +kernel) (by decide +kernel)
  have hstopped : ctState t.die = 0 := eq_of_nextOf (f := fun t => ctState t.die) ht (by decide +kernel)
  rw [hstopped] at hrun
  exact absurd hrun (by decide)

end Sys2Proof.Machine
end

section
/-! PROOFS. O25: the start of homing gives way to a later write of AX_LS_CTL that is known (R58). -/

namespace Sys2Proof.Machine

open Sys2Proof

/-- Axis 0 is Enabled and moved by the host, so that HOME is accepted; a write of its mode in the next engine cycle is known. -/
def homeOverwritten : State :=
  { State.reset with
    die :=
      let ready := setFld (setFlag State.reset.die Reg.HST_STAT_READY) Reg.HST_VER_SEL_VER 0x13
      let enabled := setFld (setFld (setFlag ready (Reg.AX_CFG_DECL 0)) (Reg.AX_STAT_STATE 0) 2) (Reg.AX_LS_CTL_MODE 0) 2
      { updBoot enabled fun b => { b with loaded := true } with axLog := [⟨Reg.AX_LS_CTL 0, 1, 0, 0, 3⟩] } }

/-- Refutes O25: the accepted HOME leaves AX_LS_CTL.MODE at its value, since the later write of the mode stands. -/
theorem not_motionAndNetworkCommands : ¬ Obligations.MotionAndNetworkCommands := by
  unfold Obligations.MotionAndNetworkCommands
  intro h
  obtain ⟨-, hhome, -⟩ := h homeOverwritten 0
  obtain ⟨t, ht, -, hmode, -⟩ := hhome 0 ⟨by decide +kernel, by decide +kernel⟩ rfl
  have hkept : fld t.die (Reg.AX_LS_CTL_MODE 0) = 2 := eq_of_nextOf (f := fun t => fld t.die (Reg.AX_LS_CTL_MODE 0)) ht (by decide +kernel)
  have hhoming : fld t.die (Reg.AX_LS_CTL_MODE 0) = 3 := hmode
  rw [hkept] at hhoming
  exact absurd hhoming (by decide)

end Sys2Proof.Machine
end

section
/-! PROOFS. A frame that arrives at a trunk port: its boundaries, its judgement and its checks (R254, R265, R270). -/

namespace Sys2Proof.Machine

open Sys2Proof

/-- What reception on a trunk port leaves: the registers outside `r`, the trunk but for its ports, the other ports and what the port
sends and measures. -/
structure Heard (r : Nat → Prop) (p : Nat) (c d : Die) : Prop where
  regs : Leaves r c d
  parts : Keeps [.regs, .trk] c d
  trk : d.trk = { c.trk with ports := d.trk.ports }
  others : ∀ q, q ≠ p → tportH d q = tportH c q
  port : tportH d p = { tportH c p with fails := (tportH d p).fails, seen := (tportH d p).seen }

theorem Heard.refl (r : Nat → Prop) (p : Nat) (d : Die) : Heard r p d d := ⟨.refl r d, .refl _ d, rfl, fun _ _ => rfl, rfl⟩

theorem Heard.trans {r : Nat → Prop} {p : Nat} {c d e : Die} (h : Heard r p c d) (h' : Heard r p d e) : Heard r p c e :=
  ⟨h.regs.trans h'.regs, h.parts.trans h'.parts, by rw [h'.trk, h.trk], fun q hq => (h'.others q hq).trans (h.others q hq),
    by rw [h'.port, h.port]⟩

theorem Heard.mono {r r' : Nat → Prop} {p : Nat} {c d : Die} (h : Heard r p c d) (hr : ∀ off, r off → r' off) : Heard r' p c d :=
  ⟨h.regs.mono hr, h.parts, h.trk, h.others, h.port⟩

theorem Heard.foldl {β : Type} {r : Nat → Prop} {p : Nat} {f : Die → β → Die} (h : ∀ d x, Heard r p d (f d x)) (l : List β) (d : Die) :
    Heard r p d (l.foldl f d) := by
  induction l generalizing d with
  | nil => exact .refl r p d
  | cons x l ih => exact (h d x).trans (ih (f d x))

theorem heard_of_regs {r : Nat → Prop} {p : Nat} {c d : Die} (h : Leaves r c d) (hk : Keeps [.regs] c d) : Heard r p c d := by
  have ht : d.trk = c.trk := hk .trk (by simp)
  exact ⟨h, hk.mono (by simp), by rw [ht], fun q _ => by rw [tportH, ht, tportH], by rw [tportH, ht, tportH]⟩

theorem heard_incReg {r : Nat → Prop} {o : Nat} (h : r o) (p : Nat) (d : Die) : Heard r p d (incReg d o) :=
  heard_of_regs ((leaves_incReg _ _ h).2 (.refl _ d)) ((keeps_incReg _ _ (by simp) _).2 (.refl _ d))

theorem tportH_updTport_same (d : Die) {p : Nat} (hp : p < 3) (f : TPort → TPort) : tportH (updTport d p f) p = f (tportH d p) :=
  vget_vset_same _ _ _ _ hp

theorem tportH_updTport_ne (d : Die) {p q : Nat} (h : q ≠ p) (f : TPort → TPort) : tportH (updTport d p f) q = tportH d q :=
  vget_vset_ne _ _ _ h

theorem heard_updTport {r : Nat → Prop} {p : Nat} (hp : p < 3) (d : Die) {f : TPort → TPort} 
    (hf : ∀ t, f t = { t with fails := (f t).fails, seen := (f t).seen }) :
    Heard r p d (updTport d p f) :=
  ⟨.of_regs rfl, (keeps_updTport _ _ (by simp) _ _).2 (.refl _ d), rfl, fun q hq => tportH_updTport_ne d hq f,
    by rw [tportH_updTport_same d hp]; exact hf _⟩

/-! The boundaries of a line (R254). -/

/-- The registers of a port that a line in lock may change. -/
def lineReg (p off : Nat) : Prop := off = Reg.CTR_P_STAT p ∨ off = Reg.CTR_P_CNT_HCRC p ∨ off = Reg.CTR_P_CNT_LOCKLOSS p

theorem ctLocked_congr {c d : Die} {p : Nat} (hpow : d.pwr = c.pwr) (hreg : getReg d (Reg.CTR_P_STAT p) = getReg c (Reg.CTR_P_STAT p)) :
    ctLocked d p = ctLocked c p := by
  rw [ctLocked, ctOn, powered, hpow, flag_congr (f := Reg.CTR_P_STAT_LOCK p) hreg, ctLocked, ctOn, powered]

theorem Heard.pwr {r : Nat → Prop} {p : Nat} {c d : Die} (h : Heard r p c d) : d.pwr = c.pwr := h.parts .pwr (by simp)

theorem Heard.tb {r : Nat → Prop} {p : Nat} {c d : Die} (h : Heard r p c d) : d.tb = c.tb := h.parts .tb (by simp)

theorem Heard.fld {r : Nat → Prop} {p : Nat} {c d : Die} (h : Heard r p c d) (f : Fld) (hf : ¬ r f.off) : Machine.fld d f = Machine.fld c f :=
  fld_of_leaves h.regs f hf

theorem Heard.flag {r : Nat → Prop} {p : Nat} {c d : Die} (h : Heard r p c d) (f : Fld) (hf : ¬ r f.off) : Machine.flag d f = Machine.flag c f :=
  flag_of_leaves h.regs f hf

theorem heard_loseLock (d : Die) (p : Nat) : Heard (lineReg p) p d (loseLock d p) := by
  unfold loseLock
  exact heard_of_regs ((leaves_incReg _ _ (Or.inr (Or.inr rfl))).2 ((leaves_putFlag _ _ (f := Reg.CTR_P_STAT_PEERIDLE p) (Or.inl rfl) _).2
    ((leaves_putFlag _ _ (f := Reg.CTR_P_STAT_LOCK p) (Or.inl rfl) _).2 (.refl _ d)))) (by simp)

theorem meetBound_good {d : Die} {p : Nat} (h : ctLocked d p = true) : meetBound d p .good = updTport d p fun t => { t with fails := 0 } := by
  rw [meetBound, h]
  rfl

theorem meetBound_unlocked {d : Die} {p : Nat} (h : ctLocked d p = false) (x : Bound) : meetBound d p x = d := by
  unfold meetBound
  exact if_pos (by rw [h]; rfl)

/-- A boundary in lock without word or without a good header, before it is judged whether lock is lost. -/
def badBound (d : Die) (p : Nat) (x : Bound) : Die :=
  updTport (if x = .bad then incReg d (Reg.CTR_P_CNT_HCRC p) else d) p fun t => { t with fails := (tportH d p).fails + 1 }

theorem tportH_countBad (d : Die) (p : Nat) (x : Bound) :
    tportH (if x = .bad then incReg d (Reg.CTR_P_CNT_HCRC p) else d) p = tportH d p := by
  split <;> rfl

theorem meetBound_bad {d : Die} {p : Nat} {x : Bound} (h : ctLocked d p = true) (hx : x ≠ .good) :
    meetBound d p x = if (tportH d p).fails + 1 < 3 then badBound d p x else loseLock (badBound d p x) p := by
  unfold meetBound badBound
  rw [h]
  cases x
  case good => exact absurd rfl hx
  case bad => rfl
  case none => rfl

theorem heard_badBound {p : Nat} (hp : p < 3) (d : Die) (x : Bound) : Heard (lineReg p) p d (badBound d p x) := by
  unfold badBound
  have h : Heard (lineReg p) p d (if x = .bad then incReg d (Reg.CTR_P_CNT_HCRC p) else d) := by
    split
    · exact heard_incReg (Or.inr (Or.inl rfl)) p d
    · exact .refl _ p d
  exact h.trans (heard_updTport hp _ fun _ => rfl)

theorem heard_meetBound {p : Nat} (hp : p < 3) (d : Die) (x : Bound) : Heard (lineReg p) p d (meetBound d p x) := by
  by_cases hl : ctLocked d p = true
  case neg =>
    rw [meetBound_unlocked (by simpa using hl)]
    exact .refl _ p d
  by_cases hx : x = .good
  · rw [hx, meetBound_good hl]
    exact heard_updTport hp d fun _ => rfl
  · rw [meetBound_bad hl hx]
    split
    · exact heard_badBound hp d x
    · exact (heard_badBound hp d x).trans (heard_loseLock _ p)

theorem heard_meetLine {p : Nat} (hp : p < 3) (d : Die) (l : LineBits) : Heard (lineReg p) p d (meetLine d p l) :=
  .foldl (f := fun d (x : Nat × Bound) => meetBound d p x.2) (fun d x => heard_meetBound hp d x.2) (bounds l) d

theorem heard_meetBound_good {p : Nat} (hp : p < 3) (d : Die) :
    Heard (fun _ => False) p d (meetBound d p .good) ∧ Keeps [.trk] d (meetBound d p .good) := by
  by_cases hl : ctLocked d p = true
  · rw [meetBound_good hl]
    exact ⟨heard_updTport hp d fun _ => rfl, (keeps_updTport _ _ (by simp) _ _).2 (.refl _ d)⟩
  · rw [meetBound_unlocked (by simpa using hl)]
    exact ⟨.refl _ p d, .refl _ d⟩

theorem heard_meetGood {p : Nat} (hp : p < 3) {bs : List (Nat × Bound)} (hbs : ∀ x ∈ bs, x.2 = .good) (d : Die) :
    Heard (fun _ => False) p d (bs.foldl (fun d x => meetBound d p x.2) d) ∧ Keeps [.trk] d (bs.foldl (fun d x => meetBound d p x.2) d) := by
  induction bs generalizing d with
  | nil => exact ⟨.refl _ p d, .refl _ d⟩
  | cons x bs ih =>
    have hx := heard_meetBound_good hp d
    rw [← hbs x (by simp)] at hx
    obtain ⟨hrest, hkeep⟩ := ih (fun y hy => hbs y (by simp [hy])) (meetBound d p x.2)
    exact ⟨hx.1.trans hrest, hx.2.trans hkeep⟩

/-- A line whose boundaries are all good changes no register. -/
theorem heard_meetLine_good {p : Nat} (hp : p < 3) {l : LineBits} (h : ∀ x ∈ bounds l, x.2 = .good) (d : Die) :
    Heard (fun _ => False) p d (meetLine d p l) := (heard_meetGood hp h d).1

theorem keeps_meetLine_good {p : Nat} (hp : p < 3) {l : LineBits} (h : ∀ x ∈ bounds l, x.2 = .good) (d : Die) :
    Keeps [.trk] d (meetLine d p l) := (heard_meetGood hp h d).2

/-! The judgement of a frame (R270). -/

/-- The counters of frames that come early, late or out of their window. -/
def devReg (off : Nat) : Prop := off = Reg.CTR_CNT 0 ∨ off = Reg.CTR_CNT 1

theorem heard_judgeFrame (d : Die) (f : TrunkFrame) (p : Nat) :
    Heard (fun off => devReg off ∨ off = Reg.CTR_CNT 2) p d (judgeFrame d f) := by
  unfold judgeFrame
  split
  · exact .refl _ p d
  extract_lets dev
  split
  · exact heard_incReg (Or.inr rfl) p d
  split
  · refine heard_incReg (Or.inl ?_) p d
    split
    · exact Or.inl rfl
    · exact Or.inr rfl
  · exact .refl _ p d

theorem heard_judgeFrame_inWindow {d : Die} {f : TrunkFrame} (h : windowPass d f = true) (p : Nat) : Heard devReg p d (judgeFrame d f) := by
  unfold judgeFrame
  split
  · exact .refl _ p d
  rename_i hj
  extract_lets dev
  have hin : inWindow d f = true := by
    simp only [windowPass, Bool.or_eq_true, Bool.and_eq_true, bne_iff_ne, ne_eq] at h hj
    simp only [Bool.not_eq_true, beq_iff_eq, decide_eq_true_eq, not_or] at hj
    obtain ⟨⟨hst, hpm⟩, hlen⟩ := hj
    obtain (h1 | h1) | ⟨-, h1⟩ := h
    · exact absurd h1 hst
    · rw [h1] at hpm
      exact absurd hpm (by decide)
    · exact h1
  rw [hin]
  split
  · contradiction
  split
  · refine heard_incReg ?_ p d
    split
    · exact Or.inl rfl
    · exact Or.inr rfl
  · exact .refl _ p d

/-! A frame that arrives (R254, R257, R265). -/

/-- What the receiver of a port notes of a frame that it met. -/
def frameMet (d : Die) (f : TrunkFrame) (pass : Bool) : Die := updTport d f.port.val fun t => { t with seen := some (f.rx, pass) }

theorem heard_frameMet (r : Nat → Prop) (d : Die) (f : TrunkFrame) (pass : Bool) : Heard r f.port.val d (frameMet d f pass) :=
  heard_updTport f.port.isLt d fun _ => rfl

theorem framePass_frameMet (d : Die) (f : TrunkFrame) (pass : Bool) : framePass (frameMet d f pass) f = pass := by
  rw [framePass, frameMet, tportH_updTport_same d f.port.isLt]
  cases pass <;> simp

/-- The registers that a frame may change as a port receives it. -/
def meetReg (p off : Nat) : Prop := lineReg p off ∨ devReg off ∨ off = Reg.CTR_CNT 2 ∨ off = Reg.CTR_CNT 3

theorem heard_meetFrame (d : Die) (f : TrunkFrame) : Heard (meetReg f.port.val) f.port.val d (meetFrame d f) ∧
    (windowPass d f = false → framePass d f = false → framePass (meetFrame d f) f = false) := by
  unfold meetFrame
  extract_lets p before kept ok pass d1 d2
  split
  · exact ⟨.refl _ _ d, fun _ h => h⟩
  have h1 : Heard (meetReg p) p d d1 := (heard_meetLine f.port.isLt d f.line).mono fun _ h => Or.inl h
  have h2 : Heard (meetReg p) p d1 d2 := by
    change Heard (meetReg p) p d1 (if kept && unfit d1 f then incReg d1 (Reg.CTR_CNT 3) else d1)
    split
    · exact heard_incReg (Or.inr (Or.inr (Or.inr rfl))) p d1
    · exact .refl _ p d1
  have h3 : Heard (meetReg p) p d2 (if ok then judgeFrame d2 f else d2) := by
    split
    · refine (heard_judgeFrame d2 f p).mono fun off h => Or.inr ?_
      obtain h | h := h
      · exact Or.inl h
      · exact Or.inr (Or.inl h)
    · exact .refl _ p d2
  refine ⟨((h1.trans h2).trans h3).trans (heard_frameMet _ _ f pass), fun hw _ => ?_⟩
  have hpass : pass = false := by
    change (ok && windowPass d f) = false
    rw [hw, Bool.and_false]
  exact (framePass_frameMet _ f pass).trans hpass

/-- The die takes a frame that no command has told of yet, all of its boundaries good and inside its window. -/
structure Arriving (d : Die) (f : TrunkFrame) : Prop where
  carries : portCarries d f.port.val = true
  unseen : (tportH d f.port.val).seen.map (·.1) ≠ some f.rx
  fails : (tportH d f.port.val).fails < 3
  good : ∀ x ∈ bounds f.line, x.2 = .good
  begins : f.begins = true
  passes : windowPass d f = true

theorem arriving_of_arrives {s : State} {f : TrunkFrame} (h : arrives s f) : Arriving (found s) f := by
  obtain ⟨hcar, hseen, hfails, hgood, hbegins, hpass⟩ := h
  exact ⟨hcar, hseen, hfails, hgood, hbegins, hpass⟩

theorem takeWhile_bad_of_good {bs : List (Nat × Bound)} (h : ∀ x ∈ bs, x.2 = .good) : bs.takeWhile (fun x => x.2 != .good) = [] := by
  cases bs with
  | nil => rfl
  | cons x bs =>
    have hx : x.2 = .good := h x (by simp)
    simp [hx]

theorem Arriving.fit {d : Die} {f : TrunkFrame} (h : Arriving d f) : unfit d f = false := by
  have hp := h.passes
  rw [unfit, if_pos h.begins]
  simp only [windowPass, Bool.or_eq_true, Bool.and_eq_true, bne_iff_ne, ne_eq] at hp
  obtain (hst | hpm) | ⟨hlen, -⟩ := hp
  · simp [hst]
  · simp [hpm]
  · simp [hlen]

section Congr

variable {c d : Die} (hf : ∀ x, Machine.fld d x = Machine.fld c x) (ht : d.tb = c.tb)

include hf

theorem pmFrame_congr (f : TrunkFrame) : pmFrame d f = pmFrame c f := by rw [pmFrame, slLen, slKind, hf, hf, pmFrame, slLen, slKind]

theorem unfit_congr (f : TrunkFrame) : unfit d f = unfit c f := by
  rw [unfit, pmFrame_congr hf, ctState, slLen, hf, hf, unfit, ctState, slLen]

theorem slotGt_congr (k i : Nat) : slotGt d k i = slotGt c k i := by rw [slotGt, hz, slStart, hf, hf, slotGt, hz, slStart]

theorem nCyc_congr : nCyc d = nCyc c := by rw [nCyc, hf, nCyc]

include ht

theorem cycleFirst_congr : cycleFirst d = cycleFirst c := by rw [cycleFirst, nCyc_congr hf, ht, cycleFirst]

theorem cycleSent_congr (f : TrunkFrame) : cycleSent d f = cycleSent c f := by
  unfold cycleSent
  simp only [slotGt_congr hf, nCyc_congr hf, cycleFirst_congr hf ht, hf]

theorem sentAt_congr (f : TrunkFrame) : sentAt d f = sentAt c f := by
  rw [sentAt, cycleSent_congr hf ht, slotGt_congr hf, sentAt]

theorem deviation_congr (f : TrunkFrame) : deviation d f = deviation c f := by
  rw [deviation, sentAt_congr hf ht, hf, deviation]

theorem windowPass_congr (f : TrunkFrame) : windowPass d f = windowPass c f := by
  rw [windowPass, pmFrame_congr hf, inWindow, deviation_congr hf ht, ctState, slLen, guardNs, hf, hf, hf, windowPass, ctState, slLen, inWindow,
    guardNs]

end Congr

theorem Arriving.meet {d : Die} {f : TrunkFrame} (h : Arriving d f) : meetFrame d f = frameMet (judgeFrame (meetLine d f.port.val f.line) f) f true := by
  have hline := heard_meetLine_good f.port.isLt h.good d
  have hfit : unfit (meetLine d f.port.val f.line) f = false := (unfit_congr (fun x => hline.fld x not_false) f).trans h.fit
  unfold meetFrame
  extract_lets p before kept ok pass d1 d2
  have hbefore : before = (tportH d p).fails := by
    simp only [before, takeWhile_bad_of_good h.good, List.length_nil, Nat.add_zero]
  have hkept : kept = true := by
    simpa only [kept, hbefore, decide_eq_true_eq] using h.fails
  have hok : ok = true := by
    simp only [ok, hkept, h.begins, Bool.and_self]
  have hpass : pass = true := by
    simp only [pass, hok, h.passes, Bool.and_self]
  have hd2 : d2 = d1 := by
    simp only [d2, d1, p, hfit, Bool.and_false, Bool.false_eq_true, if_false]
  have hnew : ¬ ((tportH d p).seen.map (·.1) == some f.rx || !portCarries d p) = true := by
    rw [Bool.or_eq_true, not_or, h.carries]
    exact ⟨fun he => h.unseen (beq_iff_eq.1 he), by decide⟩
  rw [if_neg hnew, hok, hd2, hpass, if_pos rfl, frameMet]

theorem Arriving.heard {d : Die} {f : TrunkFrame} (h : Arriving d f) : Heard devReg f.port.val d (meetFrame d f) := by
  have hline := heard_meetLine_good f.port.isLt h.good d
  have hpass : windowPass (meetLine d f.port.val f.line) f = true := (windowPass_congr (fun x => hline.fld x not_false) hline.tb f).trans h.passes
  rw [h.meet]
  exact ((hline.mono fun _ h => h.elim).trans (heard_judgeFrame_inWindow hpass _)).trans (heard_frameMet _ _ f true)

theorem Arriving.framePass {d : Die} {f : TrunkFrame} (h : Arriving d f) : Machine.framePass (meetFrame d f) f = true := by
  rw [h.meet]
  exact framePass_frameMet _ f true

theorem not_devReg {off : Nat} (h : off < 0xE040 ∨ 0xE048 ≤ off) : ¬ devReg off := by
  simp only [devReg, Reg.CTR_CNT]
  omega

theorem Heard.flag_of_dev {p : Nat} {c d : Die} (h : Heard devReg p c d) (f : Fld) (hf : f.off < 0xE040 ∨ 0xE048 ≤ f.off) :
    Machine.flag d f = Machine.flag c f := h.flag f (not_devReg hf)

theorem Heard.fld_of_dev {p : Nat} {c d : Die} (h : Heard devReg p c d) (f : Fld) (hf : f.off < 0xE040 ∨ 0xE048 ≤ f.off) :
    Machine.fld d f = Machine.fld c f := h.fld f (not_devReg hf)

theorem portCarries_congr {c d : Die} {p : Nat} (h : Heard devReg p c d) (q : Nat) : portCarries d q = portCarries c q := by
  have hstat : getReg d (Reg.CTR_P_STAT q) = getReg c (Reg.CTR_P_STAT q) := h.regs _ (not_devReg (Or.inr (by simp only [Reg.CTR_P_STAT]; omega)))
  have hcfg : 0xE048 ≤ Reg.CTR_P_CFG q := by
    simp only [Reg.CTR_P_CFG]
    omega
  rw [portCarries, ctLocked_congr h.pwr hstat, h.flag_of_dev (Reg.CTR_P_CFG_USED q) (Or.inr hcfg),
    h.flag_of_dev (Reg.CTR_P_CFG_OPEN q) (Or.inr hcfg), portCarries]

theorem slLen_congr {p : Nat} {c d : Die} (h : Heard devReg p c d) (i : Nat) : slLen d i = slLen c i :=
  h.fld_of_dev _ (Or.inr (by simp only [Reg.CTR_SLOT_W1_LEN, Reg.CTR_SLOT_W1]; omega))

theorem slKind_congr {p : Nat} {c d : Die} (h : Heard devReg p c d) (i : Nat) : slKind d i = slKind c i :=
  h.fld_of_dev _ (Or.inr (by simp only [Reg.CTR_SLOT_W1_KIND, Reg.CTR_SLOT_W1]; omega))

theorem frameSound_congr {p : Nat} {c d : Die} (h : Heard devReg p c d) (f : TrunkFrame) : frameSound d f = frameSound c f := by
  rw [frameSound, slLen_congr h, frameSound]

/-- A frame that passes the checks is accepted. -/
theorem Arriving.accept {d : Die} {f : TrunkFrame} (h : Arriving d f) {kind sender : Nat} (hsound : frameSound d f = true)
    (hkind : slKind d f.slot.val = kind) (hsrc : f.src.val = sender) (hver : leAt f.payload 0 1 / 16 = 1) :
    acceptFrame d f kind sender = (meetFrame d f, true) := by
  have hh := h.heard
  unfold acceptFrame
  dsimp only
  rw [if_neg (by rw [portCarries_congr hh, h.carries, h.framePass]; simp), if_pos]
  rw [frameSound_congr hh, slKind_congr hh, hsound, hkind, hsrc, hver]
  simp

/-- A frame that fails the checks of its blocks is counted. -/
theorem Arriving.refuse {d : Die} {f : TrunkFrame} (h : Arriving d f) (kind sender : Nat) (hsound : frameSound d f = false) :
    acceptFrame d f kind sender = (incReg (meetFrame d f) (Reg.CTR_CNT 3), false) := by
  have hh := h.heard
  unfold acceptFrame
  dsimp only
  rw [if_neg (by rw [portCarries_congr hh, h.carries, h.framePass]; simp), if_neg]
  rw [frameSound_congr hh, hsound]
  simp

end Sys2Proof.Machine
end

section
/-! PROOFS. The line of a trunk port: lock, loss of lock and link delay (R253 to R256). -/

namespace Sys2Proof.Machine

open Sys2Proof

theorem trk_tportH {c d : Die} (h : d.trk = c.trk) (p : Nat) : tportH d p = tportH c p := by rw [tportH, h, tportH]

theorem tportH_irqSettle (c d : Die) (p : Nat) : tportH (irqSettle c d) p = tportH d p := trk_tportH (trk_irqSettle c d) p

/-! Lock (R253). -/

theorem ctLock_locks {d : Die} {p : Nat} {l : LineBits} (hon : ctOn d p = true) (hlock : flag d (Reg.CTR_P_STAT_LOCK p) = false)
    (h : huntLocks l = true) : ctLock d p l = updTport (setFlag d (Reg.CTR_P_STAT_LOCK p)) p fun t => { t with fails := 0 } := by
  unfold ctLock
  exact if_neg (by rw [hon, hlock, h]; simp)

theorem ctLock_hunts {d : Die} {l : LineBits} (h : huntLocks l = false) (p : Nat) : ctLock d p l = d := by
  unfold ctLock
  exact if_pos (by rw [h]; simp)

theorem ends_trunkLock {s : State} {p : Fin 3} {l : LineBits} (hon : ctOn s.die p.val = true)
    (hlock : flag s.die (Reg.CTR_P_STAT_LOCK p.val) = false) :
    (huntLocks l = true → ends (.trunkLock ⟨p, l⟩) s fun t => flag t.die (Reg.CTR_P_STAT_LOCK p.val) = true ∧
      (tportH t.die p.val).fails = 0 ∧ regsBut (· = Reg.CTR_P_STAT p.val) s t ∧ keepsBut [.regs, .trk] s t) ∧
    (huntLocks l = false → ends (.trunkLock ⟨p, l⟩) s (keepsBut [] s)) := by
  refine ⟨fun h => ends_of_onDie (f := (ctLock · p.val l)) rfl ?_,
    fun h => ends_idle (i := .trunkLock ⟨p, l⟩) (f := (ctLock · p.val l)) rfl (ctLock_hunts h p.val) []⟩
  change flag (irqSettle s.die (ctLock (found s) p.val l)) _ = true ∧ (tportH (irqSettle s.die (ctLock (found s) p.val l)) p.val).fails = 0 ∧ _
  rw [ctLock_locks (d := found s) hon hlock h, flag_irqSettle, tportH_irqSettle, tportH_updTport_same _ p.isLt]
  exact ⟨flag_setFlag_same _ (Reg.CTR_P_STAT_LOCK p.val) (show 0 + 1 ≤ 32 by decide) rfl, rfl,
    regsBut_command ((leaves_setFlag (p := (· = Reg.CTR_P_STAT p.val)) _ _ (f := Reg.CTR_P_STAT_LOCK p.val) rfl).2 (.refl _ _)),
    keepsBut_command (by simp)⟩

/-! Loss of lock (R254). -/

theorem badBound_spec {p : Nat} (hp : p < 3) (d : Die) {x : Bound} (hx : x ≠ .good) :
    ctLocked (badBound d p x) p = ctLocked d p ∧ (tportH (badBound d p x) p).fails = (tportH d p).fails + 1 ∧
    getReg (badBound d p x) (Reg.CTR_P_CNT_LOCKLOSS p) = getReg d (Reg.CTR_P_CNT_LOCKLOSS p) ∧
    (getReg (badBound d p x) (Reg.CTR_P_CNT_HCRC p)).toNat =
      min ((getReg d (Reg.CTR_P_CNT_HCRC p)).toNat + ([x].filter (· == .bad)).length) (2 ^ 32 - 1) := by
  have hhcrc : Reg.CTR_P_STAT p ≠ Reg.CTR_P_CNT_HCRC p ∧ Reg.CTR_P_CNT_LOCKLOSS p ≠ Reg.CTR_P_CNT_HCRC p := by
    simp only [Reg.CTR_P_STAT, Reg.CTR_P_CNT_HCRC, Reg.CTR_P_CNT_LOCKLOSS]
    omega
  have hfails : (tportH (badBound d p x) p).fails = (tportH d p).fails + 1 := by
    rw [badBound, tportH_updTport_same _ hp]
  have hreg : ∀ off, getReg (badBound d p x) off = getReg (if x = .bad then incReg d (Reg.CTR_P_CNT_HCRC p) else d) off := fun off => rfl
  cases x
  case good => exact absurd rfl hx
  case none =>
    refine ⟨ctLocked_congr rfl rfl, hfails, rfl, ?_⟩
    rw [hreg, if_neg (by decide)]
    have hlt := (getReg d (Reg.CTR_P_CNT_HCRC p)).isLt
    exact (Nat.min_eq_left (Nat.le_sub_one_of_lt hlt)).symm
  case bad =>
    refine ⟨ctLocked_congr rfl ?_, hfails, ?_, ?_⟩
    · rw [hreg, if_pos rfl, getReg_incReg_ne _ _ hhcrc.1]
    · rw [hreg, if_pos rfl, getReg_incReg_ne _ _ hhcrc.2]
    · rw [hreg, if_pos rfl, getReg_incReg_same, BitVec.toNat_ofNat, Nat.mod_eq_of_lt (satInc_lt _ _), satInc]
      generalize (getReg d (Reg.CTR_P_CNT_HCRC p)).toNat = n
      change (if n + 1 < 2 ^ 32 then n + 1 else 2 ^ 32 - 1) = min (n + 1) (2 ^ 32 - 1)
      split <;> omega

theorem loseLock_spec (d : Die) (p : Nat) : flag (loseLock d p) (Reg.CTR_P_STAT_LOCK p) = false ∧
    flag (loseLock d p) (Reg.CTR_P_STAT_PEERIDLE p) = false ∧
    getReg (loseLock d p) (Reg.CTR_P_CNT_HCRC p) = getReg d (Reg.CTR_P_CNT_HCRC p) ∧
    getReg (loseLock d p) (Reg.CTR_P_CNT_LOCKLOSS p) = BitVec.ofNat 32 (satInc 32 (getReg d (Reg.CTR_P_CNT_LOCKLOSS p)).toNat) := by
  have hne : Reg.CTR_P_STAT p ≠ Reg.CTR_P_CNT_LOCKLOSS p ∧ Reg.CTR_P_CNT_HCRC p ≠ Reg.CTR_P_CNT_LOCKLOSS p ∧
      Reg.CTR_P_CNT_HCRC p ≠ Reg.CTR_P_STAT p := by
    simp only [Reg.CTR_P_STAT, Reg.CTR_P_CNT_HCRC, Reg.CTR_P_CNT_LOCKLOSS]
    omega
  obtain ⟨hstat, hcnt, hcs⟩ := hne
  unfold loseLock
  refine ⟨?_, ?_, ?_, ?_⟩
  · rw [flag_congr (f := Reg.CTR_P_STAT_LOCK p) (getReg_incReg_ne _ _ hstat), flag, putFlag,
      fld_setFld_below _ (Reg.CTR_P_STAT_LOCK p) (Reg.CTR_P_STAT_PEERIDLE p) _ rfl (show 0 + 1 ≤ 1 by decide) (show 1 + 1 ≤ 32 by decide)]
    exact flag_putFlag_same d (Reg.CTR_P_STAT_LOCK p) false (show 0 + 1 ≤ 32 by decide) rfl
  · rw [flag_congr (f := Reg.CTR_P_STAT_PEERIDLE p) (getReg_incReg_ne _ _ hstat)]
    exact flag_putFlag_same _ (Reg.CTR_P_STAT_PEERIDLE p) false (show 1 + 1 ≤ 32 by decide) rfl
  · rw [getReg_incReg_ne _ _ hcnt, getReg_putFlag_ne _ (Reg.CTR_P_STAT_PEERIDLE p) _ hcs, getReg_putFlag_ne _ (Reg.CTR_P_STAT_LOCK p) _ hcs]
  · rw [getReg_incReg_same, getReg_putFlag_ne _ (Reg.CTR_P_STAT_PEERIDLE p) _ hstat.symm, getReg_putFlag_ne _ (Reg.CTR_P_STAT_LOCK p) _ hstat.symm]

/-- What three failures in a row leave of a port that was in lock; `n` of them are bad blocks. -/
structure LockLost (p n : Nat) (c d : Die) : Prop where
  hcrc : (getReg d (Reg.CTR_P_CNT_HCRC p)).toNat = min ((getReg c (Reg.CTR_P_CNT_HCRC p)).toNat + n) (2 ^ 32 - 1)
  lock : flag d (Reg.CTR_P_STAT_LOCK p) = false
  idle : flag d (Reg.CTR_P_STAT_PEERIDLE p) = false
  loss : getReg d (Reg.CTR_P_CNT_LOCKLOSS p) = BitVec.ofNat 32 (satInc 32 (getReg c (Reg.CTR_P_CNT_LOCKLOSS p)).toNat)

theorem lockLost_foldl {p : Nat} (hp : p < 3) {bs : List (Nat × Bound)} (hbs : ∀ x ∈ bs, x.2 ≠ .good) {d : Die} (hl : ctLocked d p = true)
    (hf : (tportH d p).fails < 3) (hlen : bs.length + (tportH d p).fails = 3) :
    LockLost p (bs.filter fun x => x.2 == .bad).length d (bs.foldl (fun d x => meetBound d p x.2) d) := by
  induction bs generalizing d with
  | nil =>
    rw [List.length_nil] at hlen
    omega
  | cons x bs ih =>
    have hx := hbs x (by simp)
    obtain ⟨hlocked, hfails, hloss, hhcrc⟩ := badBound_spec hp d hx
    have hcount : ((x :: bs).filter fun y => y.2 == .bad).length =
        ([x.2].filter (· == .bad)).length + (bs.filter fun y => y.2 == .bad).length := by
      cases h : x.2 == .bad <;> simp [h, Nat.add_comm]
    rw [List.length_cons] at hlen
    rw [List.foldl_cons, hcount, meetBound_bad hl hx]
    split
    case isTrue h3 =>
      obtain ⟨h1, h2, h3, h4⟩ := ih (fun y hy => hbs y (by simp [hy])) (hlocked.trans hl) (by rw [hfails]; exact h3) (by rw [hfails]; omega)
      exact ⟨by rw [h1, hhcrc]; omega, h2, h3, by rw [h4, hloss]⟩
    case isFalse h3 =>
      have hnil : bs = [] := List.eq_nil_of_length_eq_zero (by omega)
      obtain ⟨h1, h2, h3, h4⟩ := loseLock_spec (badBound d p x.2) p
      rw [hnil]
      exact ⟨by rw [List.foldl_nil, h3, hhcrc]; rfl, h1, h2, by rw [List.foldl_nil, h4, hloss]⟩

theorem foldl_meetBound_unlocked {p : Nat} {d : Die} (h : ctLocked d p = false) (bs : List (Nat × Bound)) :
    bs.foldl (fun d x => meetBound d p x.2) d = d := by
  induction bs with
  | nil => rfl
  | cons x bs ih => rw [List.foldl_cons, meetBound_unlocked h, ih]

theorem meetLine_lost {p : Nat} (hp : p < 3) {l : LineBits} {d : Die} (hl : ctLocked d p = true) (hf : (tportH d p).fails < 3)
    (hlen : ((bounds l).take (3 - (tportH d p).fails)).length + (tportH d p).fails = 3)
    (hbad : ∀ x ∈ (bounds l).take (3 - (tportH d p).fails), x.2 ≠ .good) :
    LockLost p (((bounds l).take (3 - (tportH d p).fails)).filter fun x => x.2 == .bad).length d (meetLine d p l) := by
  have hlost := lockLost_foldl hp hbad hl hf hlen
  have hsplit : meetLine d p l = ((bounds l).drop (3 - (tportH d p).fails)).foldl (fun d x => meetBound d p x.2)
      (((bounds l).take (3 - (tportH d p).fails)).foldl (fun d x => meetBound d p x.2) d) := by
    rw [← List.foldl_append, List.take_append_drop, meetLine]
  rw [hsplit, foldl_meetBound_unlocked (by rw [ctLocked, hlost.lock, Bool.and_false])]
  exact hlost

theorem ends_trunkLockLoss {s : State} {p : Fin 3} {l : LineBits} (hl : ctLocked s.die p.val = true) (hf : (tportH s.die p.val).fails < 3) :
    let meets := (bounds l).take (3 - (tportH s.die p.val).fails)
    (meets.length + (tportH s.die p.val).fails = 3 → (∀ x ∈ meets, x.2 ≠ .good) →
      ends (.trunkLockLoss p l) s fun t =>
        getReg t.die (Reg.CTR_P_CNT_HCRC p.val) = BitVec.ofNat 32 (min ((getReg s.die (Reg.CTR_P_CNT_HCRC p.val)).toNat +
          (meets.filter fun x => x.2 == .bad).length) (2 ^ 32 - 1)) ∧
        flag t.die (Reg.CTR_P_STAT_LOCK p.val) = false ∧ flag t.die (Reg.CTR_P_STAT_PEERIDLE p.val) = false ∧
        getReg t.die (Reg.CTR_P_CNT_LOCKLOSS p.val) =
          BitVec.ofNat 32 (satInc 32 (getReg s.die (Reg.CTR_P_CNT_LOCKLOSS p.val)).toNat) ∧ keepsBut [.regs, .trk] s t) ∧
    ((∀ x ∈ bounds l, x.2 = .good) → ends (.trunkLockLoss p l) s (keepsBut [.trk] s)) := by
  refine ⟨fun hlen hbad => ends_of_onDie (f := (meetLine · p.val l)) rfl ?_,
    fun hgood => ends_of_onDie (f := (meetLine · p.val l)) rfl (keepsBut_command (keeps_meetLine_good p.isLt hgood _))⟩
  obtain ⟨h1, h2, h3, h4⟩ := meetLine_lost (d := found s) p.isLt hl hf hlen hbad
  refine ⟨?_, ?_, ?_, ?_, keepsBut_command (heard_meetLine p.isLt _ l).parts⟩
  · rw [getReg_irqSettle]
    refine BitVec.eq_of_toNat_eq (h1.trans ?_)
    rw [BitVec.toNat_ofNat]
    exact (Nat.mod_eq_of_lt (by omega)).symm
  · rw [flag_irqSettle, h2]
  · rw [flag_irqSettle, h3]
  · rw [getReg_irqSettle]
    exact h4

/-! Link delay (R255, R256). -/

theorem bytesAt_length (l : LineBits) (n : Nat) : ∀ h p, (bytesAt l n h p).length = n := by
  induction n with
  | zero => exact fun _ _ => rfl
  | succ n ih => exact fun h p => congrArg Nat.succ (ih _ _)

theorem areaAt_length (l : LineBits) (p : Nat) : (areaAt l p).length = 56 := bytesAt_length l 56 _ _

/-- What an IDLE block leaves of a port: the register of its state, and its echoes and delays. -/
structure DelayNoted (p : Nat) (c d : Die) : Prop where
  idle : flag d (Reg.CTR_P_STAT_PEERIDLE p) = flag c (Reg.CTR_P_STAT_PEERIDLE p)
  trk : d.trk = c.trk

theorem DelayNoted.trans {p : Nat} {c d e : Die} (h : DelayNoted p c d) (h' : DelayNoted p d e) : DelayNoted p c e :=
  ⟨h'.idle.trans h.idle, h'.trk.trans h.trk⟩

/-- The path delays of the nodes are stored. -/
def putPds (ps : List (Nat × Nat)) (d : Die) : Die := ps.foldl (fun d x => setFld d (Reg.CTR_NODE_PD x.1) (rhu x.2 256).toNat) d

/-- The registers of the node table, and those above it. -/
def pdReg (off : Nat) : Prop := 0xE100 ≤ off

theorem pdReg_pd (n : Nat) : pdReg (Reg.CTR_NODE_PD n).off := by
  simp only [pdReg, Reg.CTR_NODE_PD, Reg.CTR_NODE]
  omega

theorem leaves_putPds (ps : List (Nat × Nat)) (d : Die) : Leaves pdReg d (putPds ps d) := by
  unfold putPds
  refine Leaves.foldl (fun e x _ off hoff => ?_) d
  exact getReg_setFld_ne e _ _ fun h => hoff (h ▸ pdReg_pd x.1)

theorem keeps_putPds (ps : List (Nat × Nat)) (d : Die) : Keeps [.regs] d (putPds ps d) :=
  Keeps.foldl (fun e x => (keeps_setFld _ _ (by simp) _ _).2 (.refl _ e)) ps d

theorem putPd_eq (d : Die) : putPd d = putPds (pathsFrom (linkTable d) (measDly d) (nodeId d)) d := rfl

theorem delayNoted_putPd (d : Die) {p : Nat} (hp : p < 3) : DelayNoted p d (putPd d) := by
  rw [putPd_eq]
  refine ⟨flag_of_leaves (leaves_putPds _ d) _ ?_, keeps_putPds _ d .trk (by simp)⟩
  simp only [pdReg, Reg.CTR_P_STAT_PEERIDLE, Reg.CTR_P_STAT]
  omega

/-- The mean of the delays, and whether it is far from the declared delay. -/
def delayPut (d : Die) (p : Nat) : Die :=
  let l := (tportH d p).delays
  let mean := rhu (l.foldl (· + ·) 0) (2 * (l.length : Nat))
  let d := putReg d (Reg.CTR_P_LINKDLY p) (BitVec.ofNat 32 (wrap 32 mean))
  let decl := fld d (Reg.CTR_P_CFG_DELAY p)
  if 5120 < (mean - 256 * (decl : Nat)).natAbs ∧ flag d (Reg.CTR_P_STAT_DLYERR p) = false then
    logEvt (setFlag d (Reg.CTR_P_STAT_DLYERR p)) 6 1 1 p (wrap 32 mean) decl
  else d

theorem delayNoted_delayPut (d : Die) (p : Nat) : DelayNoted p d (delayPut d p) := by
  unfold delayPut
  extract_lets l mean d1 decl
  have hne : (Reg.CTR_P_STAT_PEERIDLE p).off ≠ Reg.CTR_P_LINKDLY p := by
    simp only [Reg.CTR_P_STAT_PEERIDLE, Reg.CTR_P_STAT, Reg.CTR_P_LINKDLY]
    omega
  have h1 : DelayNoted p d d1 := ⟨flag_congr (getReg_putReg_ne _ _ hne), rfl⟩
  split
  · have htold := told_logEvt (setFlag d1 (Reg.CTR_P_STAT_DLYERR p)) 6 1 1 p (wrap 32 mean) decl
    refine h1.trans ⟨?_, htold.parts .trk (by simp)⟩
    rw [htold.flag (f := Reg.CTR_P_STAT_PEERIDLE p) (by simp only [Reg.CTR_P_STAT_PEERIDLE, Reg.CTR_P_STAT]; omega), flag, setFlag,
      fld_setFld_below _ (Reg.CTR_P_STAT_PEERIDLE p) (Reg.CTR_P_STAT_DLYERR p) _ rfl (show 1 + 1 ≤ 2 by decide) (show 2 + 1 ≤ 32 by decide), flag]
  · exact h1

/-- The echo of an IDLE block with a good CRC. -/
def idleEcho (d : Die) (p : Nat) (b : List Byte) (t4 : Nat) : Die :=
  updTport (setFlag d (Reg.CTR_P_STAT_PEERIDLE p)) p fun t => { t with echoT1 := leAt b 4 8, echoT2 := t4 % 2 ^ 64 }

/-- The delay that an IDLE block measures. -/
def delayOf (b : List Byte) (t4 : Nat) : Int :=
  sext 64 (wrap 64 ((t4 : Int) - leAt b 12 8)) - sext 64 (wrap 64 ((leAt b 4 8 : Int) - leAt b 20 8))

theorem idleArea_sound {b : List Byte} (hlen : b.length = 56) (hcrc : leAt b 52 4 = crc32 (b.take 52)) (d : Die) (p t4 : Nat) :
    idleArea d p b t4 = if leAt b 12 8 = 0 then idleEcho d p b t4 else
      putPd (delayPut (updTport (idleEcho d p b t4) p fun t => { t with delays := (delayOf b t4 :: t.delays).take 64 }) p) := by
  unfold idleArea
  rw [if_neg (by simp [hlen, hcrc])]
  rfl

theorem idleArea_spec {p : Nat} (hp : p < 3) {b : List Byte} (hlen : b.length = 56) (hcrc : leAt b 52 4 = crc32 (b.take 52)) (d : Die) (t4 : Nat) :
    let e := idleArea d p b t4
    (tportH e p).echoT1 = leAt b 4 8 ∧ (tportH e p).echoT2 = t4 % 2 ^ 64 ∧ flag e (Reg.CTR_P_STAT_PEERIDLE p) = true ∧
    (leAt b 12 8 = 0 → (tportH e p).delays = (tportH d p).delays) ∧ (leAt b 12 8 ≠ 0 → (tportH e p).delays.head? = some (delayOf b t4)) := by
  extract_lets e
  have hidle : flag (idleEcho d p b t4) (Reg.CTR_P_STAT_PEERIDLE p) = true :=
    flag_setFlag_same d (Reg.CTR_P_STAT_PEERIDLE p) (show 1 + 1 ≤ 32 by decide) rfl
  have hecho : tportH (idleEcho d p b t4) p = { tportH d p with echoT1 := leAt b 4 8, echoT2 := t4 % 2 ^ 64 } := tportH_updTport_same _ hp _
  have he : e = _ := idleArea_sound hlen hcrc d p t4
  clear_value e
  subst he
  by_cases h0 : leAt b 12 8 = 0
  · rw [if_pos h0, hecho]
    exact ⟨rfl, rfl, hidle, fun _ => rfl, fun h => absurd h0 h⟩
  · rw [if_neg h0]
    have hput := (delayNoted_delayPut (updTport (idleEcho d p b t4) p fun t => { t with delays := (delayOf b t4 :: t.delays).take 64 }) p).trans
      (delayNoted_putPd _ hp)
    rw [trk_tportH hput.trk, tportH_updTport_same _ hp, hecho]
    exact ⟨rfl, rfl, hput.idle.trans hidle, fun h => absurd h h0, fun _ => rfl⟩

theorem ends_idleBlock {s : State} {p : Fin 3} {l : LineBits} {ns : Nat} {fr : Fin 256} {x : Nat × Bound} {xs : List (Nat × Bound)}
    (hl : ctLocked s.die p.val = true) (hbs : bounds l = x :: xs) (hgood : ∀ y ∈ bounds l, y.2 = .good) (hhead : headerAt l x.1 % 8 = 0)
    (hcrc : leAt (areaAt l x.1) 52 4 = crc32 ((areaAt l x.1).take 52)) :
    ends (.idleBlockReceived p l ns fr) s fun t => (tportH t.die p.val).echoT1 = leAt (areaAt l x.1) 4 8 ∧
      (tportH t.die p.val).echoT2 = (256 * ns + fr.val) % 2 ^ 64 ∧ flag t.die (Reg.CTR_P_STAT_PEERIDLE p.val) = true ∧
      (leAt (areaAt l x.1) 12 8 = 0 → (tportH t.die p.val).delays = (tportH s.die p.val).delays) ∧
      (leAt (areaAt l x.1) 12 8 ≠ 0 → (tportH t.die p.val).delays.head? = some (delayOf (areaAt l x.1) (256 * ns + fr.val))) := by
  have hfrom : (fromGood l).head? = some x := by
    have hx : x.2 = .good := hgood x (by simp [hbs])
    simp [fromGood, hbs, hx]
  have hline := heard_meetLine_good p.isLt hgood (found s)
  have hlock : ctLocked (meetLine (found s) p.val l) p.val = true := (ctLocked_congr hline.pwr (hline.regs _ not_false)).trans hl
  have hblock : idleBlock (found s) p.val l (256 * ns + fr.val) =
      idleArea (meetLine (found s) p.val l) p.val (areaAt l x.1) (256 * ns + fr.val) := by
    unfold idleBlock
    rw [if_neg (by rw [show ctLocked (found s) p.val = true from hl]; simp), hfrom]
    exact if_pos (by rw [hlock, hhead]; rfl)
  obtain ⟨h1, h2, h3, h4, h5⟩ := idleArea_spec p.isLt (areaAt_length l x.1) hcrc (meetLine (found s) p.val l) (256 * ns + fr.val)
  rw [← hblock] at h1 h2 h3 h4 h5
  refine ends_of_onDie (f := (idleBlock · p.val l (256 * ns + fr.val))) rfl ?_
  generalize idleBlock (found s) p.val l (256 * ns + fr.val) = e at h1 h2 h3 h4 h5
  change (tportH (irqSettle s.die e) p.val).echoT1 = _ ∧ (tportH (irqSettle s.die e) p.val).echoT2 = _ ∧
    flag (irqSettle s.die e) _ = true ∧ (_ → (tportH (irqSettle s.die e) p.val).delays = _) ∧
    (_ → (tportH (irqSettle s.die e) p.val).delays.head? = _)
  rw [tportH_irqSettle, flag_irqSettle]
  refine ⟨h1, h2, h3, fun h => (h4 h).trans ?_, h5⟩
  rw [hline.port]
  rfl

end Sys2Proof.Machine
end

section
/-! PROOFS. What a trunk port sends, and frames that are sent on, refused or taken (R257, R258, R265, R276, R277). -/

namespace Sys2Proof.Machine

open Sys2Proof

/-! A frame goes out of a port (R252, R258). -/

/-- What a frame that goes out of ports leaves: every register but the count of frames skipped, and the trunk but for its ports. -/
structure Sent (c d : Die) : Prop where
  regs : Leaves (· = Reg.CTR_CNT 4) c d
  parts : Keeps [.regs, .trk, .fresh] c d
  trk : d.trk = { c.trk with ports := d.trk.ports }

theorem Sent.refl (d : Die) : Sent d d := ⟨.refl _ d, .refl _ d, rfl⟩

theorem Sent.trans {c d e : Die} (h : Sent c d) (h' : Sent d e) : Sent c e :=
  ⟨h.regs.trans h'.regs, h.parts.trans h'.parts, by rw [h'.trk, h.trk]⟩

/-- Port `p` may send a frame with its word at an instant. -/
structure Sends (d : Die) (p at_ : Nat) : Prop where
  on : ctOn d p = true
  used : flag d (Reg.CTR_P_CFG_USED p) = true
  closed : flag d (Reg.CTR_P_CFG_OPEN p) = false
  free : (tportH d p).busyUntil + blockTime ≤ 5 * at_

theorem not_skipCount (p : Nat) : ¬ Reg.CTR_P_CFG p = Reg.CTR_CNT 4 := by
  simp only [Reg.CTR_P_CFG, Reg.CTR_CNT]
  omega

theorem Sends.of_sent {c d : Die} {p at_ : Nat} (h : Sends c p at_) (hs : Sent c d) (hport : tportH d p = tportH c p) : Sends d p at_ := by
  refine ⟨?_, ?_, ?_, by rw [hport]; exact h.free⟩
  · rw [ctOn, powered, hs.parts .pwr (by simp)]
    exact h.on
  · rw [flag_of_leaves hs.regs (Reg.CTR_P_CFG_USED p) (not_skipCount p), h.used]
  · rw [flag_of_leaves hs.regs (Reg.CTR_P_CFG_OPEN p) (not_skipCount p), h.closed]

/-- What a port has sent: a frame, with its word at an instant. -/
structure PortSent (p at_ : Nat) (blocks : List (List Byte)) (d : Die) : Prop where
  out : ∃ o, (tportH d p).out = some o ∧ o.at_ = at_ ∧ o.blocks = blocks
  busy : (tportH d p).busyUntil = 5 * at_ + blockTime * blocks.length

theorem PortSent.of_port {p at_ : Nat} {blocks : List (List Byte)} {c d : Die} (h : PortSent p at_ blocks c) (hport : tportH d p = tportH c p) :
    PortSent p at_ blocks d := ⟨by rw [hport]; exact h.out, by rw [hport]; exact h.busy⟩

theorem trk_draw (d : Die) : (draw d).2.trk = d.trk := rfl

theorem sent_draw (d : Die) : Sent d (draw d).2 := ⟨.of_regs rfl, (keeps_fresh _ _ (by simp) _).2 (.refl _ d), rfl⟩

theorem sent_updTport (d : Die) (p : Nat) (f : TPort → TPort) : Sent d (updTport d p f) :=
  ⟨.of_regs rfl, (keeps_updTport _ _ (by simp) _ _).2 (.refl _ d), rfl⟩

theorem putOut_frame (d : Die) (p at_ : Nat) (blocks : List (List Byte)) : Sent d (putOut d p at_ blocks) ∧
    ∀ q, q ≠ p → tportH (putOut d p at_ blocks) q = tportH d q := by
  unfold putOut
  extract_lets t n fill r h idle x
  split
  · exact ⟨.refl d, fun _ _ => rfl⟩
  split
  · exact ⟨⟨(leaves_incReg (p := (· = Reg.CTR_CNT 4)) _ _ rfl).2 (.refl _ d), (keeps_incReg _ _ (by simp) _).2 (.refl _ d), rfl⟩, fun _ _ => rfl⟩
  · exact ⟨(sent_draw d).trans (sent_updTport r.2 p _), fun q hq => tportH_updTport_ne r.2 hq _⟩

theorem putOut_sends {d : Die} {p at_ : Nat} (hp : p < 3) (hs : Sends d p at_) (blocks : List (List Byte)) :
    PortSent p at_ blocks (putOut d p at_ blocks) := by
  obtain ⟨hon, hused, hclosed, hfree⟩ := hs
  unfold putOut
  extract_lets t n fill r h idle x
  have hlate : ¬ 5 * at_ < t.busyUntil + blockTime := Nat.not_lt.2 hfree
  rw [if_neg (by rw [hon, hused, hclosed]; decide), if_neg hlate]
  constructor
  · rw [tportH_updTport_same r.2 hp]
    exact ⟨_, rfl, rfl, rfl⟩
  · rw [tportH_updTport_same r.2 hp]

/-- A frame goes out of ports one after the other. -/
theorem putOuts_frame {at_ : Nat} {blocks : List (List Byte)} (l : List Nat) (d : Die) :
    Sent d (l.foldl (fun d q => putOut d q at_ blocks) d) ∧
    ∀ q, q ∉ l → tportH (l.foldl (fun d q => putOut d q at_ blocks) d) q = tportH d q := by
  induction l generalizing d with
  | nil => exact ⟨.refl d, fun _ _ => rfl⟩
  | cons p l ih =>
    obtain ⟨hsent, hothers⟩ := ih (putOut d p at_ blocks)
    obtain ⟨hsent', hothers'⟩ := putOut_frame d p at_ blocks
    refine ⟨hsent'.trans hsent, fun q hq => ?_⟩
    rw [List.mem_cons, not_or] at hq
    exact (hothers q hq.2).trans (hothers' q hq.1)

theorem putOuts_sends {at_ : Nat} {blocks : List (List Byte)} {l : List Nat} (hl : l.Nodup) {d : Die} {q : Nat} (hq : q < 3) (hmem : q ∈ l)
    (hs : Sends d q at_) : PortSent q at_ blocks (l.foldl (fun d q => putOut d q at_ blocks) d) := by
  obtain ⟨l1, l2, rfl⟩ := List.append_of_mem hmem
  have hpair := List.nodup_append.1 hl
  obtain ⟨-, htail, hdisj⟩ := hpair
  have h1 : q ∉ l1 := fun h => hdisj q h q (by simp) rfl
  have h2 : q ∉ l2 := (List.nodup_cons.1 htail).1
  rw [List.foldl_append, List.foldl_cons]
  obtain ⟨hsent, hothers⟩ := putOuts_frame (at_ := at_) (blocks := blocks) l1 d
  have hown := putOut_sends hq (hs.of_sent hsent (hothers q h1)) blocks
  exact hown.of_port ((putOuts_frame l2 _).2 q h2)

/-! Forwarding (R257). -/

theorem forwardFrame_passed {d : Die} {f : TrunkFrame} (h : framePass (meetFrame d f) f = true) : forwardFrame d f =
    ((upto 3).filter (· != f.port.val)).foldl (fun d q => putOut d q (f.rx + 320 * 256) (blocksOf f)) (meetFrame d f) := by
  unfold forwardFrame
  exact if_neg (by rw [h]; decide)

theorem forwardFrame_barred {d : Die} {f : TrunkFrame} (h : framePass (meetFrame d f) f = false) : forwardFrame d f = meetFrame d f := by
  unfold forwardFrame
  exact if_pos (by rw [h]; rfl)

theorem blocksOf_length (f : TrunkFrame) : (blocksOf f).length = f.blocks.length := List.length_map ..

theorem ends_forward {s : State} {q : Fin 3} {f : TrunkFrame} (hq : f.port ≠ q) (ha : arrives s f) (hon : ctOn s.die q.val = true)
    (hused : flag s.die (Reg.CTR_P_CFG_USED q.val) = true) (hclosed : flag s.die (Reg.CTR_P_CFG_OPEN q.val) = false)
    (hfree : (tportH s.die q.val).busyUntil + blockTime ≤ 5 * (f.rx + 320 * 256)) :
    ends (.trunkFrameForward f.port f.line f.rx) s fun t =>
      (∃ o, (tportH t.die q.val).out = some o ∧ o.at_ = f.rx + 320 * 256 ∧ o.blocks = blocksOf f) ∧
      (tportH t.die q.val).busyUntil = 5 * (f.rx + 320 * 256) + blockTime * f.blocks.length ∧
      (tportH t.die f.port.val).out = (tportH s.die f.port.val).out ∧ keepsBut [.regs, .trk, .fresh] s t := by
  have harr := arriving_of_arrives ha
  have hh := harr.heard
  have hne : q.val ≠ f.port.val := fun h => hq (Fin.ext h.symm)
  have hcfg : ¬ devReg (Reg.CTR_P_CFG q.val) := not_devReg (Or.inr (by simp only [Reg.CTR_P_CFG]; omega))
  have hs : Sends (meetFrame (found s) f) q.val (f.rx + 320 * 256) := by
    refine ⟨?_, ?_, ?_, ?_⟩
    · rw [ctOn, powered, hh.pwr]
      exact hon
    · rw [hh.flag (Reg.CTR_P_CFG_USED q.val) hcfg]
      exact hused
    · rw [hh.flag (Reg.CTR_P_CFG_OPEN q.val) hcfg]
      exact hclosed
    · rw [hh.others q.val hne]
      exact hfree
  have hmem : q.val ∈ (upto 3).filter (· != f.port.val) := List.mem_filter.2 ⟨mem_upto.2 q.isLt, by simpa using hne⟩
  have hself : f.port.val ∉ (upto 3).filter (· != f.port.val) := fun h => by simpa using (List.mem_filter.1 h).2
  have hsent := putOuts_sends (blocks := blocksOf f) ((nodup_upto 3).filter _) q.isLt hmem hs
  obtain ⟨hframe, hothers⟩ := putOuts_frame (at_ := f.rx + 320 * 256) (blocks := blocksOf f) ((upto 3).filter (· != f.port.val))
    (meetFrame (found s) f)
  have hin := hothers f.port.val hself
  have hkeep : Keeps [.regs, .trk, .fresh] (found s) (forwardFrame (found s) f) := by
    rw [forwardFrame_passed harr.framePass]
    exact (hh.parts.mono (by simp)).trans hframe.parts
  rw [← forwardFrame_passed harr.framePass] at hsent hin
  refine ends_of_onDie (f := (forwardFrame · f)) rfl ⟨?_, ?_, ?_, keepsBut_command hkeep⟩
  · rw [tportH_irqSettle]
    exact hsent.out
  · rw [tportH_irqSettle, hsent.busy, blocksOf_length]
  · rw [tportH_irqSettle, hin, hh.port]
    rfl

theorem ends_notForwarded {s : State} {q : Fin 3} {f : TrunkFrame} (hq : f.port ≠ q) (hwin : windowPass s.die f = false)
    (hpass : framePass s.die f = false) : ends (.trunkFrameForward f.port f.line f.rx) s fun t =>
      tportH t.die q.val = tportH s.die q.val ∧ keepsBut [.regs, .trk] s t := by
  obtain ⟨hh, hbar⟩ := heard_meetFrame (found s) f
  have hmeet := forwardFrame_barred (hbar hwin hpass)
  have hkeep : Keeps [.regs, .trk] (found s) (forwardFrame (found s) f) := by
    rw [hmeet]
    exact hh.parts
  have hport : tportH (forwardFrame (found s) f) q.val = tportH s.die q.val := by
    rw [hmeet]
    exact hh.others q.val fun h => hq (Fin.ext h.symm)
  refine ends_of_onDie (f := (forwardFrame · f)) rfl ⟨?_, keepsBut_command hkeep⟩
  rw [tportH_irqSettle]
  exact hport

/-! Frames that a check refuses (R265). -/

/-- A frame of a kind other than PM whose checks fail is counted, and nothing else. -/
theorem ends_refused {i : Instr} {s : State} {f : TrunkFrame} {g : Die → Die} {kind sender : Nat} (hi : exec i s = onDie g s)
    (harr : arrives s f) (hsound : frameSound s.die f = false)
    (hg : (acceptFrame (found s) f kind sender).2 = false → g (found s) = (acceptFrame (found s) f kind sender).1) : ends i s fun t =>
      getReg t.die (Reg.CTR_CNT 3) = BitVec.ofNat 32 (satInc 32 (getReg s.die (Reg.CTR_CNT 3)).toNat) ∧
      regsBut (fun o => o = Reg.CTR_CNT 0 ∨ o = Reg.CTR_CNT 1 ∨ o = Reg.CTR_CNT 3) s t ∧ keepsBut [.regs, .trk] s t := by
  have ha := arriving_of_arrives harr
  have hrefuse := ha.refuse kind sender hsound
  have hh := ha.heard
  have hdie : g (found s) = incReg (meetFrame (found s) f) (Reg.CTR_CNT 3) := by
    rw [hg (by rw [hrefuse]), hrefuse]
  have hcount : getReg (meetFrame (found s) f) (Reg.CTR_CNT 3) = getReg s.die (Reg.CTR_CNT 3) :=
    hh.regs _ (not_devReg (Or.inr (by decide)))
  refine ends_of_onDie hi ?_
  rw [hdie]
  refine ⟨?_, regsBut_command ?_, keepsBut_command ((keeps_incReg _ _ (by simp) _).2 hh.parts)⟩
  · rw [getReg_irqSettle, getReg_incReg_same, hcount]
  · refine Leaves.trans (hh.regs.mono fun off h => ?_) ((leaves_incReg _ _ (Or.inr (Or.inr rfl))).2 (.refl _ _))
    obtain h | h := h
    · exact Or.inl h
    · exact Or.inr (Or.inl h)

theorem ends_refusedFrames {s : State} {f : TrunkFrame} (harr : arrives s f) (hsound : frameSound s.die f = false) :
    let counted (t : State) : Prop := getReg t.die (Reg.CTR_CNT 3) =
        BitVec.ofNat 32 (satInc 32 (getReg s.die (Reg.CTR_CNT 3)).toNat) ∧
      regsBut (fun o => o = Reg.CTR_CNT 0 ∨ o = Reg.CTR_CNT 1 ∨ o = Reg.CTR_CNT 3) s t ∧ keepsBut [.regs, .trk] s t
    ends (.msFrameReceived f) s counted ∧ ends (.ttFrameReceived f) s counted ∧ ends (.stFrameReceived f) s counted ∧
    ends (.hreqFrameReceived f) s counted ∧ ends (.hrspFrameReceived f) s counted := by
  refine ⟨ends_refused (g := (msFrame · f)) (kind := 2) (sender := slOwner (found s) f.slot.val) rfl harr hsound fun h => ?_,
    ends_refused (g := (ttFrame · f)) (kind := 3) (sender := slOwner (found s) f.slot.val) rfl harr hsound fun h => ?_,
    ends_refused (g := (stFrame s.dog · f)) (kind := 1) (sender := slOwner (found s) f.slot.val) rfl harr hsound fun h => ?_,
    ends_refused (g := (hreqFrame s.dog · f)) (kind := 4) (sender := 0) rfl harr hsound fun h => ?_,
    ends_refused (g := (hrspFrame s.dog · f)) (kind := 5) (sender := hrspOwner (found s) f) rfl harr hsound fun h => ?_⟩
  · exact if_pos (by rw [h]; rfl)
  · exact if_pos (by rw [h]; rfl)
  · exact if_pos (by rw [h]; rfl)
  · exact if_pos (by rw [h]; rfl)
  · exact if_pos (by rw [h]; rfl)

/-! Master samples (R276). -/

theorem addSample_first {d : Die} (h : d.mst.samples = []) (x : Sample) :
    (addSample d x).mst.samples = [{ x with got := d.tb.gt }] ∧ flag (addSample d x) Reg.MST_STAT_SRCOK = true := by
  unfold addSample
  extract_lets y newest d1 d2 d3
  have hnew : newest = none := by
    simp only [newest, h, List.head?_nil, Option.map_none]
  rw [if_neg (by rw [h]; simp), hnew, if_neg (by simp)]
  refine ⟨?_, flag_setFlag_same _ Reg.MST_STAT_SRCOK (by decide) rfl⟩
  change (y :: d.mst.samples).take 32 = _
  rw [h]
  rfl

theorem fullBeat_congr {c d : Die} (h : d.tb.k = c.tb.k) (bn : Nat) : fullBeat d bn = fullBeat c bn := by rw [fullBeat, h, fullBeat]

theorem ends_masterSample {s : State} {f : TrunkFrame} (hs : arrivesSound s f 2 (slOwner s.die f.slot.val)) (hsrc : fld s.die Reg.MST_CFG_SRC = 6)
    (hid : fld s.die Reg.MST_CFG_SRCID = f.src.val) (hnone : s.die.mst.samples = []) :
    ends (.msFrameReceived f) s fun t => t.die.mst.samples = [⟨fullBeat s.die (leAt f.payload 4 4),
      sext 64 (leAt f.payload 8 8), sext 64 (leAt f.payload 16 8), sext 64 (leAt f.payload 24 8),
      max s.die.tb.gt (checkedGt f)⟩] ∧ flag t.die Reg.MST_STAT_SRCOK = true := by
  obtain ⟨harr, hsound, hkind, hsender, hver⟩ := hs
  have ha := arriving_of_arrives harr
  have hh := ha.heard
  have haccept := ha.accept (kind := 2) (sender := slOwner (found s) f.slot.val) hsound hkind hsender hver
  have hsrc' : mstSrc (meetFrame (found s) f) = 6 := (hh.fld_of_dev Reg.MST_CFG_SRC (Or.inl (by decide))).trans hsrc
  have hid' : fld (meetFrame (found s) f) Reg.MST_CFG_SRCID = f.src.val := (hh.fld_of_dev Reg.MST_CFG_SRCID (Or.inl (by decide))).trans hid
  obtain ⟨hgt, hk, -⟩ := toGt_tb (meetFrame (found s) f) (checkedGt f)
  rw [hh.tb] at hgt hk
  have hmst : (toGt (meetFrame (found s) f) (checkedGt f)).mst.samples = [] := by
    rw [keeps_toGt _ _ .mst (by simp), hh.parts .mst (by simp)]
    exact hnone
  have hdie : msFrame (found s) f = addSample (toGt (meetFrame (found s) f) (checkedGt f))
      ⟨fullBeat (toGt (meetFrame (found s) f) (checkedGt f)) (leAt f.payload 4 4), sext 64 (leAt f.payload 8 8), sext 64 (leAt f.payload 16 8),
        sext 64 (leAt f.payload 24 8), (toGt (meetFrame (found s) f) (checkedGt f)).tb.gt⟩ := by
    unfold msFrame
    rw [haccept]
    exact if_neg (by rw [hsrc', hid']; simp)
  obtain ⟨hsample, hok⟩ := addSample_first hmst ⟨fullBeat (toGt (meetFrame (found s) f) (checkedGt f)) (leAt f.payload 4 4),
    sext 64 (leAt f.payload 8 8), sext 64 (leAt f.payload 16 8), sext 64 (leAt f.payload 24 8), (toGt (meetFrame (found s) f) (checkedGt f)).tb.gt⟩
  rw [← hdie] at hsample hok
  refine ends_of_onDie (f := (msFrame · f)) rfl ⟨?_, ?_⟩
  · rw [keeps_irqSettle [] s.die (msFrame (found s) f) .mst (by simp), hsample, fullBeat_congr hk, hgt]
    rfl
  · rw [flag_irqSettle, hok]

/-! Trunk triggers (R277). -/

/-- What the trigger of a trunk frame at a channel rests on. -/
structure TtKept (c : Nat) (x d : Die) : Prop where
  src : getReg d (Reg.CAP_CH_SRC c) = getReg x (Reg.CAP_CH_SRC c)
  win : getReg d (Reg.CAP_CH_WIN c) = getReg x (Reg.CAP_CH_WIN c)
  marks : d.cap.marks = x.cap.marks
  next : d.cap.next = x.cap.next

theorem TtKept.trans {c : Nat} {x d e : Die} (h : TtKept c x d) (h' : TtKept c d e) : TtKept c x e :=
  ⟨h'.src.trans h.src, h'.win.trans h.win, h'.marks.trans h.marks, h'.next.trans h.next⟩

theorem steady_win {b : Nat} : steadyReg (Reg.CAP_CH_WIN b) := fun c _ h => by
  simp only [trigReg, Reg.CAP_CH_WIN, Reg.CAP_CH_STAT, Reg.CAP_CH_WRSEQ, Reg.CAP_CH_CNT_IGN, Reg.CAP_CH_OVF_GT, Reg.CTR_CNT] at h
  omega

theorem ttKept_of_pulsed {x d : Die} (h : Pulsed x d) (c : Nat) : TtKept c x d := ⟨h.regs _ steady_src, h.regs _ steady_win, h.marks, h.next⟩

theorem ttKept_late (d : Die) (c b : Nat) : TtKept c d (incReg d (Reg.CAP_CH_CNT_TLATE b)) := by
  refine ⟨getReg_incReg_ne _ _ ?_, getReg_incReg_ne _ _ ?_, rfl, rfl⟩
  · simp only [Reg.CAP_CH_SRC, Reg.CAP_CH_CNT_TLATE]
    omega
  · simp only [Reg.CAP_CH_WIN, Reg.CAP_CH_CNT_TLATE]
    omega

theorem oldestSample_congr {x d : Die} (hmarks : d.cap.marks = x.cap.marks) (hnext : d.cap.next = x.cap.next) (n : Nat) :
    oldestSample d n = oldestSample x n := by
  rw [oldestSample, markH, hmarks, hnext, oldestSample, markH]

theorem aside_late (d : Die) {c b : Nat} (hbc : b ≠ c) : Aside c d (incReg d (Reg.CAP_CH_CNT_TLATE b)) := by
  refine ⟨fun off hoff => getReg_incReg_ne _ _ fun h => ?_, rfl⟩
  simp only [chanBlock, Reg.CAP_CH_CNT_TLATE] at hoff h
  omega

theorem Turned.late {x d : Die} {c t it : Nat} (h : Turned x c t it d) {b : Nat} (hbc : b ≠ c) :
    Turned x c t it (incReg d (Reg.CAP_CH_CNT_TLATE b)) := by
  obtain h | h := h
  · exact .inl (h.trans (aside_late d hbc))
  · exact .inr (h.settled (aside_late d hbc).settled)

/-- A trigger that no pulse of the part itself brings to the channel. -/
theorem Turned.trigger_trunk {x d : Die} {c t it : Nat} (h : Turned x c t it d) (hc : c < 16) (hr : channelReady x c it)
    (hsrc : fld d (Reg.CAP_CH_SRC_TSRC c) ≠ 3) {b : Nat} (hb : b < 16) :
    Turned x c t it (Machine.trigger d b t it) ∧ (b = c → Acquires x c t it (Machine.trigger d b t it)) := by
  have hstart : Turned x c t it (Machine.triggerChan d b t it) := h.triggerChan hc hr fun _ => ⟨rfl, rfl⟩
  have hpulsed := pulsed_triggerChan d hb t it
  refine ⟨(ownPulses_induct (x := d) (P := Turned x c t it) (fun e b' _ _ hb' he => he.triggerChan hc hr fun hbc => ?_) 4 d hpulsed hstart).2,
    fun hbc => ?_⟩
  · exact absurd (hbc ▸ hb') hsrc
  · subst hbc
    exact (ownPulses_induct (x := d) (P := Acquires x b t it) (fun e b' _ _ _ he => he.triggerChan b' _ _) 4 d hpulsed (h.own hc hr)).2

theorem Acquires.trigger {x d : Die} {c t it : Nat} (h : Acquires x c t it d) {b : Nat} (hb : b < 16) (t' it' : Nat) :
    Acquires x c t it (Machine.trigger d b t' it') :=
  (ownPulses_induct (x := d) (P := Acquires x c t it) (fun _ b' _ _ _ he => he.triggerChan b' _ _) 4 d (pulsed_triggerChan d hb t' it')
    (h.triggerChan b t' it')).2

/-- A trunk trigger meets one channel. -/
def ttChan (n t : Nat) (d : Die) (c : Nat) : Die :=
  if fld d (Reg.CAP_CH_SRC_TSRC c) == 4 && fld d (Reg.CAP_CH_SRC_TSEL c) == n then
    if (cdiv t 50 : Int) - winPre d c < oldestSample d (fld d (Reg.CAP_CH_SRC_MKSEL c)) then incReg d (Reg.CAP_CH_CNT_TLATE c)
    else trigger d c t (cdiv t 50)
  else d

theorem ttArrive_eq (d : Die) (n t : Nat) : ttArrive d n t = (upto 16).foldl (ttChan n t) d := rfl

/-- Channel `c` takes the trunk trigger: it listens to the line, and its window is not older than the marks. -/
structure TtTaken (d : Die) (n t c : Nat) : Prop where
  src : fld d (Reg.CAP_CH_SRC_TSRC c) = 4
  sel : fld d (Reg.CAP_CH_SRC_TSEL c) = n
  late : ¬ (cdiv t 50 : Int) - winPre d c < oldestSample d (fld d (Reg.CAP_CH_SRC_MKSEL c))

theorem TtTaken.of_kept {x d : Die} {n t c : Nat} (h : TtTaken x n t c) (hk : TtKept c x d) : TtTaken d n t c := by
  have hf : ∀ f : Fld, f.off = Reg.CAP_CH_SRC c → fld d f = fld x f := fun f hoff => fld_congr (hoff ▸ hk.src)
  refine ⟨(hf (Reg.CAP_CH_SRC_TSRC c) rfl).trans h.src, (hf (Reg.CAP_CH_SRC_TSEL c) rfl).trans h.sel, ?_⟩
  rw [winPre, fld_congr (f := Reg.CAP_CH_WIN_PRE c) hk.win, oldestSample_congr hk.marks hk.next, hf (Reg.CAP_CH_SRC_MKSEL c) rfl]
  exact h.late

theorem ttChan_taken {d : Die} {n t c : Nat} (h : TtTaken d n t c) : ttChan n t d c = trigger d c t (cdiv t 50) := by
  unfold ttChan
  rw [if_pos (by rw [h.src, h.sel]; simp), if_neg h.late]

theorem acquires_ttArrive {x : Die} {n t c : Nat} (hc : c < 16) (htaken : TtTaken x n t c) (hr : channelReady x c (cdiv t 50)) :
    Acquires x c t (cdiv t 50) (ttArrive x n t) := by
  have hsrc : ∀ e, TtKept c x e → fld e (Reg.CAP_CH_SRC_TSRC c) ≠ 3 := fun e hk h => by
    rw [(htaken.of_kept hk).src] at h
    exact absurd h (by decide)
  have hkept : ∀ e b, b < 16 → TtKept c x e → TtKept c x (ttChan n t e b) := fun e b hb hk => by
    unfold ttChan
    split
    · split
      · exact hk.trans (ttKept_late e c b)
      · exact hk.trans (ttKept_of_pulsed (pulsed_trigger e hb t _) c)
    · exact hk
  have hturned : ∀ e b, b < 16 → TtKept c x e → Turned x c t (cdiv t 50) e → Turned x c t (cdiv t 50) (ttChan n t e b) := fun e b hb hk h => by
    by_cases hbc : b = c
    · rw [hbc, ttChan_taken (htaken.of_kept hk)]
      exact (h.trigger_trunk hc hr (hsrc e hk) hc).1
    · unfold ttChan
      split
      · split
        · exact h.late hbc
        · exact (h.trigger_trunk hc hr (hsrc e hk) hb).1
      · exact h
  have hstays : ∀ e b, b < 16 → TtKept c x e → Acquires x c t (cdiv t 50) e → Acquires x c t (cdiv t 50) (ttChan n t e b) :=
      fun e b hb hk h => by
    by_cases hbc : b = c
    · rw [hbc, ttChan_taken (htaken.of_kept hk)]
      exact h.trigger hc t _
    · unfold ttChan
      split
      · split
        · exact h.settled (aside_late e hbc).settled
        · exact h.trigger hb t _
      · exact h
  exact (foldl_reaches (f := ttChan n t) (l := upto 16) (I := fun e => TtKept c x e ∧ Turned x c t (cdiv t 50) e)
    (P := fun e => TtKept c x e ∧ Acquires x c t (cdiv t 50) e) (mem_upto.2 hc)
    (fun e b hb h => ⟨hkept e b (mem_upto.1 hb) h.1, hturned e b (mem_upto.1 hb) h.1 h.2⟩)
    (fun e b hb h => ⟨hkept e b (mem_upto.1 hb) h.1, hstays e b (mem_upto.1 hb) h.1 h.2⟩)
    (fun e h => ⟨hkept e c hc h.1, by
      rw [ttChan_taken (htaken.of_kept h.1)]
      exact (h.2.trigger_trunk hc hr (hsrc e h.1) hc).2 rfl⟩) ⟨⟨rfl, rfl, rfl, rfl⟩, .inl (.refl c x)⟩).2

theorem ends_trunkTrigger {s : State} {f : TrunkFrame} {c : Nat} (hc : c < 16) (hs : arrivesSound s f 3 (slOwner s.die f.slot.val))
    (hone : leAt f.payload 1 1 = 1) (hsrc : fld s.die (Reg.CAP_CH_SRC_TSRC c) = 4)
    (hsel : fld s.die (Reg.CAP_CH_SRC_TSEL c) = leAt f.payload 4 1 % 8)
    (hold : oldestSample s.die (fld s.die (Reg.CAP_CH_SRC_MKSEL c)) ≤ (cdiv (leAt f.payload 5 8) 50 : Nat) - (winPre s.die c : Int))
    (hr : channelReady s.die c (cdiv (leAt f.payload 5 8) 50)) : ends (.ttFrameReceived f) s fun t =>
      acquiring s t c (leAt f.payload 5 8) (cdiv (leAt f.payload 5 8) 50) := by
  obtain ⟨harr, hsound, hkind, hsender, hver⟩ := hs
  have ha := arriving_of_arrives harr
  have hh := ha.heard
  have haccept := ha.accept (kind := 3) (sender := slOwner (found s) f.slot.val) hsound hkind hsender hver
  have hdie : ttFrame (found s) f = ttArrive (meetFrame (found s) f) (leAt f.payload 4 1 % 8) (leAt f.payload 5 8) := by
    unfold ttFrame
    rw [haccept, if_neg (by simp), hone, show upto (min 5 1) = [0] from rfl, List.foldl_cons, List.foldl_nil, Nat.mul_zero]
  have hcap : (meetFrame (found s) f).cap = s.die.cap := hh.parts .cap (by simp)
  have hreg : ∀ off, 0xE048 ≤ off → getReg (meetFrame (found s) f) off = getReg s.die off := fun off h => hh.regs off (not_devReg (Or.inr h))
  have hblock : ∀ off, chanBlock c off → 0xE048 ≤ off := fun off h => by
    simp only [chanBlock] at h
    omega
  have hkept : TtKept c s.die (meetFrame (found s) f) :=
    ⟨hreg _ (hblock _ (chanBlock_words c).2.2.2.2.2.2.2.2.2.2), hreg _ (hblock _ (chanBlock_words c).2.2.2.2.2.2.2.2.2.1), by rw [hcap], by rw [hcap]⟩
  have haside : Aside c s.die (meetFrame (found s) f) := ⟨fun off h => hreg off (hblock off h), by rw [chanH, hcap, chanH]⟩
  have htaken : TtTaken s.die (leAt f.payload 4 1 % 8) (leAt f.payload 5 8) c := ⟨hsrc, hsel, Int.not_lt.2 hold⟩
  have hacq := acquires_ttArrive hc (htaken.of_kept hkept) (haside.ready hr)
  rw [← hdie] at hacq
  exact ends_of_onDie (f := (ttFrame · f)) rfl (acquiring_of_acquires (hacq.from haside))

/-- Settles O37: by what reception leaves of a port, and by what a port sends. -/
theorem trunkPortsAndFrames : Obligations.TrunkPortsAndFrames := by
  unfold Obligations.TrunkPortsAndFrames
  exact ⟨fun s p l hon hlock => ends_trunkLock hon hlock, fun s p l hl hf => ends_trunkLockLoss hl hf,
    fun s p l ns fr x xs hl hbs hgood hhead hcrc => ends_idleBlock hl hbs hgood hhead hcrc,
    fun s q f hq => ⟨fun ha hon hused hclosed hfree => ends_forward hq ha hon hused hclosed hfree,
      fun hwin hpass => ends_notForwarded hq hwin hpass⟩,
    fun s f ha hsound => ends_refusedFrames ha hsound,
    fun s f hs hsrc hid hnone => ends_masterSample hs hsrc hid hnone,
    fun s f c hc hs hone hsrc hsel hold hr => ends_trunkTrigger hc hs hone hsrc hsel hold hr⟩

end Sys2Proof.Machine
end

section
/-! PROOFS. The lead's transactions with its members: what waits, posted writes, reads and dead letters (R278 to R286). -/

namespace Sys2Proof.Machine

open Sys2Proof

theorem memberH_updMember (d : Die) (n : Nat) (f : Member → Member) : memberH (updMember d n f) n = f (memberH d n) := sget_sput_same _ _ _ _

theorem memberH_of_trk {c d : Die} (h : d.trk = c.trk) (n : Nat) : memberH d n = memberH c n := by rw [memberH, h, memberH]

theorem memberH_irqSettle (c d : Die) (n : Nat) : memberH (irqSettle c d) n = memberH d n := memberH_of_trk (trk_irqSettle c d) n

/-! What waits for its turn (R280, R339). -/

theorem drain_empty {d : Die} (h : d.trk.held = []) (g : Dog) : drain g d = d := by
  rw [drain, h]
  rfl

theorem reqWaits_holdReqs (d : Die) (rs : List HostReq) (x : HostReq) : reqWaits (holdReqs d rs) x = reqWaits d x := by
  cases x <;> rfl

theorem trk_holdReqs {d : Die} (h : d.trk.held = []) (rs : List HostReq) : (holdReqs d rs).trk = { d.trk with held := rs } := by
  unfold holdReqs
  simp only [h, List.nil_append]

/-- An access that comes with nothing before it waits, or takes its effect. -/
theorem drain_one {d : Die} (h : d.trk.held = []) (g : Dog) (x : HostReq) :
    drain g (holdReqs d [x]) = if reqWaits d x then holdReqs d [x] else takeReq g d x := by
  have hheld : (holdReqs d [x]).trk.held = [x] := by
    change d.trk.held ++ [x] = [x]
    rw [h]
    rfl
  have htaken : updTrk (holdReqs d [x]) (fun t => { t with held := [] }) = d := by
    change { d with trk := { d.trk with held := [] } } = d
    rw [← h]
  have hnone : drainHeld g 0 (takeReq g d x) = takeReq g d x := rfl
  rw [drain, hheld]
  change drainHeld g (0 + 1) (holdReqs d [x]) = _
  rw [drainHeld]
  simp only [hheld, reqWaits_holdReqs, htaken, hnone]

/-! Posted writes (R280, R285). -/

theorem postedWrite_up {d : Die} (hup : bar2Up d = true) (hheld : d.trk.held = []) (g : Dog) (n off be v : Nat) :
    postedWrite g d n off be v = if reqWaits d (.write n off be v) then holdReqs d [.write n off be v] else takeReq g d (.write n off be v) := by
  rw [postedWrite, if_pos hup, drain_one hheld]

section Writes

variable {s : State} {n : Fin 64} {off : BitVec 20} {be : BitVec 4} {v : Word}

theorem postedWrite_member (hup : bar2Up (found s) = true) (hn : n.val ≠ 0) (hbe : be ≠ 0) (hheld : s.die.trk.held = [])
    (hread : s.die.trk.read = none) (hcredit : creditOut s.die = false) :
    postedWrite s.dog (found s) n.val off.toNat be.toNat v.toNat = acceptPosted (found s) n.val (off.toNat + 2 ^ 20 * be.toNat) v.toNat := by
  have hwaits : reqWaits (found s) (.write n.val off.toNat be.toNat v.toNat) = false := by
    change (s.die.trk.read.isSome || creditOut s.die || (n.val == 0 && switching (found s) off.toNat)) = false
    rw [hread, hcredit, beq_false_of_ne hn]
    rfl
  have hbe' : be.toNat ≠ 0 := fun h => hbe (BitVec.eq_of_toNat_eq h)
  rw [postedWrite_up (d := found s) hup hheld, hwaits, if_neg (by decide), takeReq, if_neg hn, if_neg hbe']

theorem ends_writeQueued (hup : bar2Up (found s) = true) (hn : n.val ≠ 0) (hbe : be ≠ 0) (hmem : (memberNodes s.die).contains n.val = true)
    (hheld : s.die.trk.held = []) (hread : s.die.trk.read = none) (hcredit : creditOut s.die = false)
    (hlost : (memberH s.die n.val).lost = false) : ends (.bar2PostedWrite n off be v) s fun t =>
      (memberH t.die n.val).writes = (memberH s.die n.val).writes ++
        [⟨(memberH s.die n.val).next, off.toNat + 2 ^ 20 * be.toNat, v.toNat, fld s.die Reg.CTR_WTAG_TAG, none, false⟩] ∧
      (memberH t.die n.val).next = ((memberH s.die n.val).next + 1) % 65536 ∧ t.die.trk.held = [] ∧ keepsBut [.trk] s t := by
  have hdie : postedWrite s.dog (found s) n.val off.toNat be.toNat v.toNat = updMember (found s) n.val fun m =>
      { m with writes := m.writes ++ [⟨m.next, off.toNat + 2 ^ 20 * be.toNat, v.toNat, fld s.die Reg.CTR_WTAG_TAG, none, false⟩],
               next := (m.next + 1) % 65536 } := by
    rw [postedWrite_member hup hn hbe hheld hread hcredit, acceptPosted, if_neg]
    · rfl
    · rw [show memberNodes (found s) = memberNodes s.die from rfl, hmem, show memberH (found s) n.val = memberH s.die n.val from rfl, hlost]
      decide
  refine ends_of_onDie (f := fun d => postedWrite s.dog d n.val off.toNat be.toNat v.toNat) rfl ?_
  rw [hdie]
  refine ⟨?_, ?_, ?_, keepsBut_command ((keeps_updTrk _ _ (by simp) _).2 (.refl _ _))⟩
  · rw [memberH_irqSettle, memberH_updMember]
    rfl
  · rw [memberH_irqSettle, memberH_updMember]
    rfl
  · rw [trk_irqSettle]
    exact hheld

/-- What a dead letter that finds room leaves: one record more, and DL. -/
structure DeadLetters (k : Nat) (c d : Die) : Prop where
  trk : d.trk = { c.trk with dlq := d.trk.dlq }
  count : d.trk.dlq.length = c.trk.dlq.length + k
  regs : Leaves (· = Reg.CTR_STAT) c d
  parts : Keeps [.regs, .trk] c d

theorem deadLetter_room {d : Die} (h : d.trk.dlq.length < 256) (reason tag m addr data : Nat) :
    DeadLetters 1 d (deadLetter d reason tag m addr data) ∧ flag (deadLetter d reason tag m addr data) Reg.CTR_STAT_DL = true := by
  unfold deadLetter
  extract_lets e
  rw [if_neg (Nat.not_le.2 h)]
  refine ⟨⟨rfl, ?_, (leaves_setFlag (p := (· = Reg.CTR_STAT)) _ _ (f := Reg.CTR_STAT_DL) rfl).2 (.of_regs rfl),
    (keeps_setFlag _ _ (by simp) _).2 ((keeps_updTrk _ _ (by simp) _).2 (.refl _ d))⟩, flag_setFlag_same _ Reg.CTR_STAT_DL (by decide) rfl⟩
  change (d.trk.dlq ++ [_]).length = _
  rw [List.length_append]
  rfl

theorem ends_writeDead (hup : bar2Up (found s) = true) (hn : n.val ≠ 0) (hbe : be ≠ 0)
    (hheld : s.die.trk.held = []) (hread : s.die.trk.read = none) (hcredit : creditOut s.die = false)
    (hlost : (memberH s.die n.val).lost = true) (hroom : s.die.trk.dlq.length < 256) : ends (.bar2PostedWrite n off be v) s fun t =>
      t.die.trk.dlq.length = s.die.trk.dlq.length + 1 ∧ flag t.die Reg.CTR_STAT_DL = true ∧
      regsBut (· = Reg.CTR_STAT) s t ∧ keepsBut [.regs, .trk] s t := by
  have hdie : postedWrite s.dog (found s) n.val off.toNat be.toNat v.toNat =
      deadLetter (found s) 0xFF (fld (found s) Reg.CTR_WTAG_TAG) n.val (off.toNat + 2 ^ 20 * be.toNat) v.toNat := by
    rw [postedWrite_member hup hn hbe hheld hread hcredit, acceptPosted, if_pos]
    rw [show memberH (found s) n.val = memberH s.die n.val from rfl, hlost, Bool.or_true]
  obtain ⟨hdl, hflag⟩ := deadLetter_room (d := found s) hroom 0xFF (fld (found s) Reg.CTR_WTAG_TAG) n.val
    (off.toNat + 2 ^ 20 * be.toNat) v.toNat
  rw [← hdie] at hdl hflag
  refine ends_of_onDie (f := fun d => postedWrite s.dog d n.val off.toNat be.toNat v.toNat) rfl
    ⟨?_, ?_, regsBut_command hdl.regs, keepsBut_command hdl.parts⟩
  · rw [trk_irqSettle]
    exact hdl.count
  · rw [flag_irqSettle, hflag]

theorem ends_writeHeld (hup : bar2Up (found s) = true) (hwait : creditOut s.die = true ∨ s.die.trk.read.isSome = true)
    (hheld : s.die.trk.held = []) : ends (.bar2PostedWrite n off be v) s fun t =>
      t.die.trk = { s.die.trk with held := [.write n.val off.toNat be.toNat v.toNat] } ∧ keepsBut [.trk] s t := by
  have hwaits : reqWaits (found s) (.write n.val off.toNat be.toNat v.toNat) = true := by
    change (s.die.trk.read.isSome || creditOut s.die || (n.val == 0 && switching (found s) off.toNat)) = true
    obtain h | h := hwait
    · rw [h, Bool.or_true, Bool.true_or]
    · rw [h, Bool.true_or, Bool.true_or]
  have hdie := postedWrite_up (d := found s) hup hheld s.dog n.val off.toNat be.toNat v.toNat
  rw [hwaits, if_pos rfl] at hdie
  refine ends_of_onDie (f := fun d => postedWrite s.dog d n.val off.toNat be.toNat v.toNat) rfl ?_
  rw [hdie]
  refine ⟨?_, keepsBut_command ((keeps_holdReqs _ _ (by simp) _).2 (.refl _ _))⟩
  rw [trk_irqSettle, trk_holdReqs (d := found s) hheld]
  rfl

end Writes

/-! Reads of a member (R278, R280, R283, R284). -/

section Reads

variable {s : State} {n : Fin 64} {off : BitVec 20} {be : BitVec 4}

theorem bar2Read_member {d : Die} (hup : bar2Up d = true) (hn : n.val ≠ 0) (hheld : d.trk.held = []) (g : Dog) :
    bar2ReadReq g d n.val off.toNat be.toNat = if d.trk.read.isSome then holdReqs (noData d) [.member n.val off.toNat be.toNat]
      else startRead (noData d) n.val off.toNat be.toNat := by
  have hup' : ¬ (!bar2Up d) = true := by
    rw [hup]
    decide
  rw [bar2ReadReq, if_neg hup', if_neg hn, drain_one (d := noData d) hheld]
  rfl

theorem giveData_read (d : Die) (o : Nat) (w : Word) : (giveData (noData d) o [w]).host.rdData = [w] := rfl

theorem ends_readNone (hup : bar2Up (found s) = true) (hn : n.val ≠ 0) (hheld : s.die.trk.held = [])
    (hmem : (memberNodes s.die).contains n.val = false) (hread : s.die.trk.read = none) : ends (.bar2Read n off be) s fun t =>
      t.die.host.rdData = [0] ∧ keepsBut [.host] s t := by
  have hdie : bar2ReadReq s.dog (found s) n.val off.toNat be.toNat = giveData (noData (found s)) off.toNat [0] := by
    rw [bar2Read_member (d := found s) hup hn hheld, if_neg (by rw [show (found s).trk.read = s.die.trk.read from rfl, hread]; decide), startRead,
      if_pos (by rw [show memberNodes (noData (found s)) = memberNodes s.die from rfl, hmem]; rfl)]
  refine ends_of_onDie (f := fun d => bar2ReadReq s.dog d n.val off.toNat be.toNat) rfl ?_
  rw [hdie]
  exact ⟨(rdData_irqSettle ..).trans (giveData_read ..), keepsBut_command ((keeps_noData _).trans (keeps_giveData _ _ _))⟩

theorem ends_readStarted (hup : bar2Up (found s) = true) (hn : n.val ≠ 0) (hheld : s.die.trk.held = [])
    (hmem : (memberNodes s.die).contains n.val = true) (hread : s.die.trk.read = none) : ends (.bar2Read n off be) s fun t =>
      (∃ rid, t.die.trk.read =
        some (n.val, (memberH s.die n.val).next, rid, off.toNat + 2 ^ 20 * be.toNat, s.die.tb.gt)) ∧
      t.die.host.rdData = [] ∧ keepsBut [.trk, .host] s t := by
  have hdie : bar2ReadReq s.dog (found s) n.val off.toNat be.toNat = updTrk (noData (found s)) fun t =>
      { t with read := some (n.val, (memberH s.die n.val).next, (s.die.trk.rid + 1) % 65536, off.toNat + 2 ^ 20 * be.toNat, s.die.tb.gt),
               rid := (s.die.trk.rid + 1) % 65536 } := by
    rw [bar2Read_member (d := found s) hup hn hheld, if_neg (by rw [show (found s).trk.read = s.die.trk.read from rfl, hread]; decide), startRead,
      if_neg (by rw [show memberNodes (noData (found s)) = memberNodes s.die from rfl, hmem]; decide)]
    rfl
  refine ends_of_onDie (f := fun d => bar2ReadReq s.dog d n.val off.toNat be.toNat) rfl ?_
  rw [hdie]
  refine ⟨⟨(s.die.trk.rid + 1) % 65536, ?_⟩, (rdData_irqSettle ..).trans rfl,
    keepsBut_command ((keeps_updTrk _ _ (by simp) _).2 ((keeps_noData _).mono (by simp)))⟩
  rw [trk_irqSettle]
  rfl

theorem ends_readHeld (hup : bar2Up (found s) = true) (hn : n.val ≠ 0) (hheld : s.die.trk.held = [])
    (hread : s.die.trk.read.isSome = true) : ends (.bar2Read n off be) s fun t => t.die.host.rdData = [] ∧
      t.die.trk = { s.die.trk with held := [.member n.val off.toNat be.toNat] } ∧ keepsBut [.trk, .host] s t := by
  have hdie := bar2Read_member (d := found s) (off := off) (be := be) hup hn hheld s.dog
  rw [if_pos (show (found s).trk.read.isSome = true from hread)] at hdie
  refine ends_of_onDie (f := fun d => bar2ReadReq s.dog d n.val off.toNat be.toNat) rfl ?_
  rw [hdie]
  refine ⟨(rdData_irqSettle ..).trans rfl, ?_, keepsBut_command ((keeps_holdReqs _ _ (by simp) _).2 ((keeps_noData _).mono (by simp)))⟩
  rw [trk_irqSettle, trk_holdReqs (d := noData (found s)) hheld]
  rfl

/-- The pending read of a member ends with nothing that waits. -/
theorem readDone_spec {d : Die} (hheld : d.trk.held = []) (g : Dog) (v : Nat) :
    (readDone g d v).trk = { d.trk with read := none } ∧ (readDone g d v).host.rdData = [BitVec.ofNat 32 v] ∧ (readDone g d v).regs = d.regs ∧
    (readDone g d v).tb = d.tb ∧ Keeps [.trk, .host] d (readDone g d v) := by
  have hdone : readDone g d v = giveData (updTrk (noData d) fun t => { t with read := none }) 0 [BitVec.ofNat 32 v] :=
    drain_empty (d := giveData (updTrk (noData d) fun t => { t with read := none }) 0 [BitVec.ofNat 32 v]) hheld g
  rw [hdone]
  exact ⟨rfl, rfl, rfl, rfl, ((keeps_updTrk _ _ (by simp) _).2 ((keeps_noData d).mono (by simp))).trans ((keeps_giveData _ _ _).mono (by simp))⟩

/-- A read that timed out is noted. -/
def timeoutNoted (d : Die) (n addr : Nat) : Die := logEvt (incReg (setFlag d Reg.CTR_STAT_RDTO) (Reg.CTR_CNT 10)) 6 2 1 n addr 0

theorem timeoutNoted_spec (d : Die) (n addr : Nat) : (timeoutNoted d n addr).trk = d.trk ∧
    flag (timeoutNoted d n addr) Reg.CTR_STAT_RDTO = true ∧ (timeoutNoted d n addr).tb = d.tb ∧
    Keeps [.regs, .lgb] d (timeoutNoted d n addr) := by
  unfold timeoutNoted
  have hset : flag (incReg (setFlag d Reg.CTR_STAT_RDTO) (Reg.CTR_CNT 10)) Reg.CTR_STAT_RDTO = true := by
    rw [flag_congr (f := Reg.CTR_STAT_RDTO) (getReg_incReg_ne _ _ (by decide))]
    exact flag_setFlag_same _ Reg.CTR_STAT_RDTO (by decide) rfl
  have hkeep : Keeps [.regs, .lgb] d (incReg (setFlag d Reg.CTR_STAT_RDTO) (Reg.CTR_CNT 10)) := by simp
  generalize incReg (setFlag d Reg.CTR_STAT_RDTO) (Reg.CTR_CNT 10) = e at hset hkeep
  have htold := told_logEvt e 6 2 1 n addr 0
  exact ⟨(htold.parts .trk (by simp)).trans (hkeep .trk (by simp)), (htold.flag (f := Reg.CTR_STAT_RDTO) (by decide)).trans hset,
    (htold.parts .tb (by simp)).trans (hkeep .tb (by simp)), (keeps_logEvt _ _ (by simp) (by simp) ..).2 hkeep⟩

theorem ends_readTimeout {s : State} {n p r a g : Nat} (hread : s.die.trk.read = some (n, p, r, a, g)) (hheld : s.die.trk.held = []) :
    ends .memberReadTimeout s fun t => t.die.trk.read = none ∧ t.die.host.rdData = [0xFFFFFFFF] ∧
      flag t.die Reg.CTR_STAT_RDTO = true ∧ t.die.tb.gt = max s.die.tb.gt (g + 40000) ∧
      keepsBut [.regs, .tb, .trk, .host, .lgb] s t := by
  have hdie : readTimeout s.dog (found s) = readDone s.dog (timeoutNoted (toGt (found s) (g + 40000)) n a) 0xFFFFFFFF := by
    unfold readTimeout
    rw [show (found s).trk.read = s.die.trk.read from rfl, hread]
    rfl
  obtain ⟨htrk, hflag, hgt, hkeep⟩ := timeoutNoted_spec (toGt (found s) (g + 40000)) n a
  have htrk0 : (toGt (found s) (g + 40000)).trk = s.die.trk := keeps_toGt (found s) _ .trk (by simp)
  obtain ⟨htrk', hdata, hregs, htb, hkeep'⟩ := readDone_spec (d := timeoutNoted (toGt (found s) (g + 40000)) n a) (by rw [htrk, htrk0, hheld]) s.dog 0xFFFFFFFF
  rw [← hdie] at htrk' hdata hregs htb hkeep'
  refine ends_of_onDie (f := fun d => readTimeout s.dog d) rfl ⟨?_, (rdData_irqSettle ..).trans hdata, ?_, ?_,
    keepsBut_command ((((keeps_toGt (found s) _).mono (by simp)).trans (hkeep.mono (by simp))).trans (hkeep'.mono (by simp)))⟩
  · rw [trk_irqSettle, htrk']
  · rw [flag_irqSettle, flag_congr (f := Reg.CTR_STAT_RDTO) (c := timeoutNoted (toGt (found s) (g + 40000)) n a) (by rw [getReg, hregs, getReg])]
    exact hflag
  · rw [keeps_irqSettle [] s.die (readTimeout s.dog (found s)) .tb (by simp), htb, hgt, (toGt_tb _ _).1]
    rfl

end Reads

/-! A lost member and its dead letters (R285, R286). -/

theorem DeadLetters.trans {j k : Nat} {c d e : Die} (h : DeadLetters j c d) (h' : DeadLetters k d e) : DeadLetters (j + k) c e :=
  ⟨by rw [h'.trk, h.trk], by rw [h'.count, h.count, Nat.add_assoc], h.regs.trans h'.regs, h.parts.trans h'.parts⟩

theorem DeadLetters.held {k : Nat} {c d : Die} (h : DeadLetters k c d) : d.trk.held = c.trk.held := by rw [h.trk]

theorem DeadLetters.member {k : Nat} {c d : Die} (h : DeadLetters k c d) (n : Nat) : memberH d n = memberH c n := by
  rw [memberH, h.trk, memberH]

/-- The dead letter of a write to a lost member. -/
def deadWrite (n : Nat) (d : Die) (w : MWrite) : Die := deadLetter d (if w.tried then 0xFE else 0xFF) w.tag n w.addr w.data

theorem deadWrites_room (n : Nat) (ws : List MWrite) {d : Die} (h : d.trk.dlq.length + ws.length ≤ 256) :
    DeadLetters ws.length d (ws.foldl (deadWrite n) d) := by
  induction ws generalizing d with
  | nil => exact ⟨rfl, rfl, .refl _ d, .refl _ d⟩
  | cons w ws ih =>
    rw [List.length_cons] at h
    obtain ⟨hone, -⟩ := deadLetter_room (d := d) (by omega) (if w.tried then 0xFE else 0xFF) w.tag n w.addr w.data
    have hrest := ih (d := deadWrite n d w) (by rw [deadWrite, hone.count]; omega)
    rw [List.foldl_cons, List.length_cons, Nat.add_comm]
    exact hone.trans hrest

/-- The lead notes that a member is lost. -/
def lossNoted (d : Die) (n : Nat) : Die :=
  updMember (logEvt (setFld d (Reg.CTR_NODE_SEEN n) 0) 6 3 2 n 0 0) n fun m => { m with lost := true, writes := [] }

theorem memberLoss_due {d : Die} {n : Nat} (hlead : isLead d = true) (hmem : (memberNodes d).contains n = true)
    (hlost : (memberH d n).lost = false) (hquiet : 4 ≤ (memberH d n).quiet) (g : Dog) :
    memberLoss g d n = drain g ((memberH d n).writes.foldl (deadWrite n) (lossNoted d n)) := by
  unfold memberLoss
  extract_lets m d1 d2
  have hm : m = memberH d n := rfl
  rw [if_neg]
  · rfl
  · rw [hlead, hmem, hm, hlost, decide_eq_false (Nat.not_lt.2 hquiet)]
    decide

theorem lossNoted_spec (d : Die) (n : Nat) : (memberH (lossNoted d n) n).lost = true ∧ (memberH (lossNoted d n) n).writes = [] ∧
    (lossNoted d n).trk.dlq = d.trk.dlq ∧ (lossNoted d n).trk.held = d.trk.held ∧ flag (lossNoted d n) (Reg.CTR_NODE_SEEN n) = false ∧
    Keeps [.regs, .trk, .lgb] d (lossNoted d n) := by
  have hoff : 0xC000 ≤ (Reg.CTR_NODE_SEEN n).off := by
    simp only [Reg.CTR_NODE_SEEN, Reg.CTR_NODE]
    omega
  have hseen : flag (setFld d (Reg.CTR_NODE_SEEN n) 0) (Reg.CTR_NODE_SEEN n) = false := by
    rw [flag, fld_setFld_same _ (Reg.CTR_NODE_SEEN n) _ (show 4 + 1 ≤ 32 by decide)]
    rfl
  have hkeep : Keeps [.regs, .lgb] d (setFld d (Reg.CTR_NODE_SEEN n) 0) := by simp
  unfold lossNoted
  generalize setFld d (Reg.CTR_NODE_SEEN n) 0 = e at hseen hkeep
  have htold := told_logEvt e 6 3 2 n 0 0
  have hkeep' : Keeps [.regs, .lgb] d (logEvt e 6 3 2 n 0 0) := (keeps_logEvt _ _ (by simp) (by simp) ..).2 hkeep
  have hseen' := (htold.flag hoff).trans hseen
  generalize logEvt e 6 3 2 n 0 0 = x at hkeep' hseen'
  have htrk : x.trk = d.trk := hkeep' .trk (by simp)
  rw [memberH_updMember]
  exact ⟨rfl, rfl, show x.trk.dlq = d.trk.dlq by rw [htrk], show x.trk.held = d.trk.held by rw [htrk], hseen', (keeps_updTrk _ _ (by simp) _).2 (hkeep'.mono (by simp))⟩

theorem memberLoss_room {d : Die} {n : Nat} (hlead : isLead d = true) (hmem : (memberNodes d).contains n = true)
    (hlost : (memberH d n).lost = false) (hquiet : 4 ≤ (memberH d n).quiet) (hheld : d.trk.held = [])
    (hroom : d.trk.dlq.length + (memberH d n).writes.length ≤ 256) (g : Dog) :
    DeadLetters (memberH d n).writes.length (lossNoted d n) (memberLoss g d n) := by
  obtain ⟨-, -, hdlq, hheld', -, -⟩ := lossNoted_spec d n
  rw [memberLoss_due hlead hmem hlost hquiet g]
  have hdead := deadWrites_room n (memberH d n).writes (d := lossNoted d n) (by rw [hdlq]; exact hroom)
  generalize (memberH d n).writes.foldl (deadWrite n) (lossNoted d n) = e at hdead
  have hnone : e.trk.held = [] := hdead.held.trans (hheld'.trans hheld)
  rw [drain_empty hnone]
  exact hdead

theorem ends_memberLost {s : State} {n : Fin 64} (hlead : isLead s.die = true) (hmem : (memberNodes s.die).contains n.val = true)
    (hlost : (memberH s.die n.val).lost = false) (hquiet : 4 ≤ (memberH s.die n.val).quiet) (hheld : s.die.trk.held = [])
    (hroom : s.die.trk.dlq.length + (memberH s.die n.val).writes.length ≤ 256) : ends (.memberLost n) s fun t =>
      (memberH t.die n.val).lost = true ∧ (memberH t.die n.val).writes = [] ∧
      t.die.trk.dlq.length = s.die.trk.dlq.length + (memberH s.die n.val).writes.length ∧
      flag t.die (Reg.CTR_NODE_SEEN n.val) = false ∧ keepsBut [.regs, .trk, .lgb] s t := by
  obtain ⟨hl, hw, hdlq, hheld', hseen, hkeep⟩ := lossNoted_spec (found s) n.val
  have hdead : DeadLetters (memberH s.die n.val).writes.length (lossNoted (found s) n.val) (memberLoss s.dog (found s) n.val) :=
    memberLoss_room (d := found s) hlead hmem hlost hquiet hheld hroom s.dog
  refine ends_of_onDie (f := fun d => memberLoss s.dog d n.val) rfl ⟨?_, ?_, ?_, ?_,
    keepsBut_command (hkeep.trans (hdead.parts.mono (by simp)))⟩
  · rw [memberH_irqSettle, hdead.member, hl]
  · rw [memberH_irqSettle, hdead.member, hw]
  · rw [trk_irqSettle, hdead.count, hdlq]
    rfl
  · rw [flag_irqSettle, flag_of_leaves hdead.regs, hseen]
    simp only [Reg.CTR_NODE_SEEN, Reg.CTR_NODE, Reg.CTR_STAT]
    omega

theorem deadLetter_row : (findReg (Reg.CTR_DLQ_W 3)).map (fun x => regDomain x.1 x.2) = some none ∧ isLow (Reg.CTR_DLQ_W 3) = false := by
  decide +kernel

theorem regAt_deadLetter (d : Die) : ∃ x, regAt d false (Reg.CTR_DLQ_W 3) = some x := by
  have hrow := deadLetter_row.1
  simp only [Option.map_eq_some_iff] at hrow
  obtain ⟨x, hfind, hdom⟩ := hrow
  refine ⟨x, ?_⟩
  simp only [regAt, hfind, regAnswers, hdom]
  rw [if_pos]
  simp [Reg.CTR_DLQ_W, Reg.CTR_WTAG]

theorem readSide_deadLetter (g : Dog) (d : Die) :
    readSide g d false (Reg.CTR_DLQ_W 3) = updTrk d fun t => { t with dlq := t.dlq.drop 1 } := by
  obtain ⟨x, hat⟩ := regAt_deadLetter d
  rw [readSide_some hat, sideSnap, deadLetter_row.2, if_neg (by decide), sideEdge, if_neg (by simp [Reg.CTR_DLQ_W, Reg.BEAT_NUM]), sideHead,
    if_pos rfl]

theorem ends_deadLetterPop {s : State} (hup : hostUp (found s) = true) (hw : readsWait (found s) = false)
    (hsw : switching (found s) (Reg.CTR_DLQ_W 3) = false) : ends .deadLetterPop s fun t =>
      t.die.trk = { s.die.trk with dlq := s.die.trk.dlq.drop 1 } ∧ keepsBut [.snap, .trk, .host] s t := by
  refine ends_busRead (i := .deadLetterPop) (off := Reg.CTR_DLQ_W 3) rfl hup hw (by rw [anySwitching_one, hsw]) (by decide) fun v _ => ?_
  rw [readSide_deadLetter]
  refine ⟨?_, keepsBut_command ?_⟩
  · rw [trk_irqSettle]
    rfl
  · exact ((keeps_updTrk _ _ (by simp) _).2 ((keeps_noData _).mono (by simp))).trans ((keeps_giveData _ _ _).mono (by simp))

end Sys2Proof.Machine
end

section
/-! PROOFS. The frames of the cluster that arrive: status, requests and responses (R282, R283, R285). -/

namespace Sys2Proof.Machine

open Sys2Proof

theorem leAt_drop (bs : List Byte) (k i n : Nat) : leAt (bs.drop k) i n = leAt bs (k + i) n := by
  rw [leAt, List.drop_drop, leAt]

theorem leAt_take {bs : List Byte} {m i n : Nat} (h : i + n ≤ m) : leAt (bs.take m) i n = leAt bs i n := by
  rw [leAt, List.drop_take, List.take_take, Nat.min_eq_left (by omega), leAt]

/-- A frame that the checks accept, of one kind from one sender. -/
structure Accepts (d : Die) (f : TrunkFrame) (kind sender : Nat) : Prop where
  accept : acceptFrame d f kind sender = (meetFrame d f, true)
  heard : Heard devReg f.port.val d (meetFrame d f)
  room : 56 ≤ f.payload.length

theorem payload_of_sound {d : Die} {f : TrunkFrame} (h : frameSound d f = true) : 56 ≤ f.payload.length := by
  unfold frameSound at h
  simp only [Bool.and_eq_true, bne_iff_ne, ne_eq, beq_iff_eq] at h
  obtain ⟨⟨⟨-, hn⟩, hlen⟩, -⟩ := h
  omega

theorem accepts_of_sound {s : State} {f : TrunkFrame} {kind sender : Nat} (h : arrivesSound s f kind sender) :
    Accepts (found s) f kind sender := by
  obtain ⟨harr, hsound, hkind, hsender, hver⟩ := h
  have ha := arriving_of_arrives harr
  exact ⟨ha.accept hsound hkind hsender hver, ha.heard, payload_of_sound hsound⟩

theorem Heard.isLead {r : Nat → Prop} {p : Nat} {c d : Die} (h : Heard r p c d) : Machine.isLead d = Machine.isLead c := by
  rw [Machine.isLead, isCluster, h.parts .straps (by simp), Machine.isLead, isCluster]

theorem Heard.held {r : Nat → Prop} {p : Nat} {c d : Die} (h : Heard r p c d) : d.trk.held = c.trk.held := by rw [h.trk]

theorem Heard.read {r : Nat → Prop} {p : Nat} {c d : Die} (h : Heard r p c d) : d.trk.read = c.trk.read := by rw [h.trk]

/-! Status frames (R282, R283, R285). -/

/-- What the report of a member's next number leaves: the nodes seen, and what is kept of the member but for its writes. -/
structure Confirmed (n : Nat) (c d : Die) : Prop where
  regs : Leaves (· = Reg.CTR_CNT 11) c d
  seen : d.trk.seenNow = c.trk.seenNow
  member : memberH d n = { memberH c n with writes := (memberH d n).writes }

/-- The writes of a member after its report. -/
def confirmPut (d : Die) (n : Nat) (ws : List MWrite) (again : Bool) : Die :=
  let d := updMember d n fun m => { m with writes := ws }
  if again then incReg d (Reg.CTR_CNT 11) else d

theorem confirmPut_spec (d : Die) (n : Nat) (ws : List MWrite) (again : Bool) :
    Confirmed n d (confirmPut d n ws again) ∧ (confirmPut d n ws again).trk.held = d.trk.held := by
  have hmember : memberH (confirmPut d n ws again) n = { memberH d n with writes := ws } := by
    cases again <;> exact memberH_updMember d n fun m => { m with writes := ws }
  refine ⟨⟨?_, ?_, by rw [hmember]⟩, ?_⟩
  · cases again
    · exact .of_regs rfl
    · exact (leaves_incReg (p := (· = Reg.CTR_CNT 11)) _ _ rfl).2 (.of_regs rfl)
  · cases again <;> rfl
  · cases again <;> rfl

theorem confirmed_confirm {d : Die} (h : d.trk.held = []) (g : Dog) (n wnext slotAt : Nat) : Confirmed n d (confirm g d n wnext slotAt) := by
  unfold confirm
  extract_lets m judged left again d1
  split
  · exact ⟨.refl _ d, rfl, rfl⟩
  obtain ⟨hput, hheld⟩ := confirmPut_spec d n (left.map fun w => if again w then { w with sent := none } else w) (left.any again)
  have hdrain : drain g (confirmPut d n (left.map fun w => if again w then { w with sent := none } else w) (left.any again)) =
    confirmPut d n (left.map fun w => if again w then { w with sent := none } else w) (left.any again) := drain_empty (hheld.trans h) g
  change Confirmed n d (drain g (confirmPut d n (left.map fun w => if again w then { w with sent := none } else w) (left.any again)))
  rw [hdrain]
  exact hput

/-- A status frame is noted: its minor version, and its sender as seen. -/
def statusNoted (d : Die) (n minor : Nat) : Die :=
  updTrk (setFld d (Reg.CTR_NODE_MINOR n) (minor % 16)) fun t =>
    { t with seenNow := if t.seenNow.contains n then t.seenNow else t.seenNow ++ [n] }

theorem memberNodes_of_sched {c d : Die} (h : ∀ n, flag d (Reg.CTR_NODE_SCHED n) = flag c (Reg.CTR_NODE_SCHED n)) :
    memberNodes d = memberNodes c := by
  rw [memberNodes, ctNodes, memberNodes, ctNodes]
  simp only [h]

theorem statusNoted_spec (d : Die) (n minor : Nat) : fld (statusNoted d n minor) (Reg.CTR_NODE_MINOR n) = minor % 16 ∧
    (statusNoted d n minor).trk.seenNow.contains n = true ∧ memberNodes (statusNoted d n minor) = memberNodes d ∧
    (statusNoted d n minor).trk.held = d.trk.held ∧ isLead (statusNoted d n minor) = isLead d := by
  refine ⟨?_, ?_, memberNodes_of_sched fun m => ?_, rfl, rfl⟩
  · refine (fld_setFld_same d (Reg.CTR_NODE_MINOR n) _ (show 8 + 4 ≤ 32 by decide)).trans ?_
    exact Nat.mod_mod _ _
  · change (if d.trk.seenNow.contains n then d.trk.seenNow else d.trk.seenNow ++ [n]).contains n = true
    split
    · assumption
    · simp
  · by_cases hmn : m = n
    · rw [hmn, flag]
      exact congrArg (· == 1) (fld_setFld_below d (Reg.CTR_NODE_SCHED n) (Reg.CTR_NODE_MINOR n) _ rfl (show 0 + 1 ≤ 8 by decide)
        (show 8 + 4 ≤ 32 by decide))
    · refine flag_setFld_ne d _ _ _ ?_
      simp only [Reg.CTR_NODE_SCHED, Reg.CTR_NODE_MINOR, Reg.CTR_NODE]
      omega

/-- What a status frame leaves of its sender. -/
structure StatusTaken (n minor : Nat) (d : Die) : Prop where
  seen : d.trk.seenNow.contains n = true
  minor : fld d (Reg.CTR_NODE_MINOR n) = minor % 16

/-- What the lead keeps of a member that it hears of. -/
def memberCalm (d : Die) (n pend : Nat) : Die :=
  updMember d n fun m => { m with quiet := 0, lost := false, resetDue := m.resetDue || (memberH d n).lost, pend := pend }

/-- The lead hears of a member. -/
def memberHeard (g : Dog) (d : Die) (n pend wnext : Nat) (f : TrunkFrame) : Die :=
  confirm g (memberCalm d n pend) n wnext (sentAt (memberCalm d n pend) f)

theorem memberHeard_spec {d : Die} {n minor : Nat} (h : StatusTaken n minor d) (hheld : d.trk.held = []) (g : Dog) (pend wnext : Nat) (f : TrunkFrame) :
    StatusTaken n minor (memberHeard g d n pend wnext f) ∧ (memberH (memberHeard g d n pend wnext f) n).quiet = 0 ∧
    (memberH (memberHeard g d n pend wnext f) n).lost = false := by
  have hcalm : memberH (memberCalm d n pend) n =
      { memberH d n with quiet := 0, lost := false, resetDue := (memberH d n).resetDue || (memberH d n).lost, pend := pend } :=
    memberH_updMember d n fun m => { m with quiet := 0, lost := false, resetDue := m.resetDue || (memberH d n).lost, pend := pend }
  have hconf := confirmed_confirm (d := memberCalm d n pend) hheld g n wnext (sentAt (memberCalm d n pend) f)
  have hmember := hconf.member
  rw [hcalm] at hmember
  have hoff : ¬ (Reg.CTR_NODE_MINOR n).off = Reg.CTR_CNT 11 := by
    simp only [Reg.CTR_NODE_MINOR, Reg.CTR_NODE, Reg.CTR_CNT]
    omega
  refine ⟨⟨?_, (fld_of_leaves hconf.regs _ hoff).trans h.minor⟩, (congrArg Member.quiet hmember).trans rfl,
    (congrArg Member.lost hmember).trans rfl⟩
  exact (congrArg (·.contains n) hconf.seen).trans h.seen

theorem stFrame_accepted {d e : Die} {f : TrunkFrame} (h : acceptFrame d f 1 (slOwner d f.slot.val) = (e, true)) (g : Dog) :
    stFrame g d f = if !isLead (statusNoted e f.src.val (leAt f.payload 0 1)) ||
        !(memberNodes (statusNoted e f.src.val (leAt f.payload 0 1))).contains f.src.val then statusNoted e f.src.val (leAt f.payload 0 1)
      else memberHeard g (statusNoted e f.src.val (leAt f.payload 0 1)) f.src.val (leAt f.payload 6 2) (leAt f.payload 4 2) f := by
  unfold stFrame memberHeard memberCalm statusNoted
  rw [h]
  dsimp only
  rw [if_neg (by decide)]

theorem ends_statusFrame {s : State} {f : TrunkFrame} (hs : arrivesSound s f 1 (slOwner s.die f.slot.val)) (hheld : s.die.trk.held = []) :
    ends (.stFrameReceived f) s fun t => t.die.trk.seenNow.contains f.src.val = true ∧
      fld t.die (Reg.CTR_NODE_MINOR f.src.val) = leAt f.payload 0 1 % 16 ∧
      (isLead s.die = true → (memberNodes s.die).contains f.src.val = true →
        (memberH t.die f.src.val).quiet = 0 ∧ (memberH t.die f.src.val).lost = false) := by
  obtain ⟨haccept, hh, -⟩ := accepts_of_sound hs
  have hnodes : memberNodes (meetFrame (found s) f) = memberNodes s.die :=
    memberNodes_of_sched fun n => hh.flag_of_dev _ (Or.inr (by simp only [Reg.CTR_NODE_SCHED, Reg.CTR_NODE]; omega))
  obtain ⟨hminor, hseen, hnodes', hheld', hlead⟩ := statusNoted_spec (meetFrame (found s) f) f.src.val (leAt f.payload 0 1)
  have hdie := stFrame_accepted haccept s.dog
  rw [hlead, hnodes', hnodes, hh.isLead, show isLead (found s) = isLead s.die from rfl] at hdie
  have htaken : StatusTaken f.src.val (leAt f.payload 0 1) (statusNoted (meetFrame (found s) f) f.src.val (leAt f.payload 0 1)) := ⟨hseen, hminor⟩
  have hnone : (statusNoted (meetFrame (found s) f) f.src.val (leAt f.payload 0 1)).trk.held = [] := hheld'.trans (hh.held.trans hheld)
  generalize statusNoted (meetFrame (found s) f) f.src.val (leAt f.payload 0 1) = e at hdie htaken hnone
  obtain ⟨hheard, hquiet, hlost⟩ := memberHeard_spec htaken hnone s.dog (leAt f.payload 6 2) (leAt f.payload 4 2) f
  have key : StatusTaken f.src.val (leAt f.payload 0 1) (stFrame s.dog (found s) f) ∧
      (isLead s.die = true → (memberNodes s.die).contains f.src.val = true →
        (memberH (stFrame s.dog (found s) f) f.src.val).quiet = 0 ∧ (memberH (stFrame s.dog (found s) f) f.src.val).lost = false) := by
    rw [hdie]
    split
    case isTrue hno =>
      refine ⟨htaken, fun hl hm => ?_⟩
      rw [hl, hm] at hno
      exact absurd hno (by decide)
    case isFalse => exact ⟨hheard, fun _ _ => ⟨hquiet, hlost⟩⟩
  refine ends_of_onDie (f := fun d => stFrame s.dog d f) rfl ⟨?_, ?_, fun hl hm => ?_⟩
  · rw [trk_irqSettle]
    exact key.1.seen
  · rw [fld_irqSettle]
    exact key.1.minor
  · rw [memberH_irqSettle]
    exact key.2 hl hm

/-! Requests at a member (R282). -/

theorem recLen_end {b : List Byte} (h : leAt b 0 1 = 0) : recLen b = 0 := by
  rw [recLen, h]
  rfl

theorem recLen_data {b : List Byte} (h : leAt b 0 1 = 0x83) : recLen b = 12 := by
  rw [recLen, h]
  rfl

theorem hreqWalk_end {b : List Byte} (h : leAt b 0 1 = 0) (g : Dog) (fuel : Nat) (d : Die) : hreqWalk g fuel b d = d := by
  have hlen := recLen_end h
  cases fuel with
  | zero => rfl
  | succ n =>
    unfold hreqWalk
    exact if_pos (Or.inl hlen)

theorem ends_requestNone {s : State} {f : TrunkFrame} (hs : arrivesSound s f 4 0) (hmember : isMember s.die = true)
    (hnone : leAt f.payload 4 1 = 0) : ends (.hreqFrameReceived f) s fun t => t.die.trk.hreqNode = leAt f.payload 1 1 ∧
      t.die.trk.wnext = s.die.trk.wnext ∧ keepsBut [.regs, .trk] s t := by
  obtain ⟨haccept, hh, hroom⟩ := accepts_of_sound hs
  have htype : leAt ((f.payload.take (f.payload.length - 4)).drop 4) 0 1 = 0 := by
    rw [leAt_drop, leAt_take (by omega), hnone]
  have hnode : leAt (f.payload.take (f.payload.length - 4)) 1 1 = leAt f.payload 1 1 := leAt_take (by omega)
  have hdie : hreqFrame s.dog (found s) f = noteHreq (updTrk (meetFrame (found s) f) fun t => { t with hreqAt := sentAt (meetFrame (found s) f) f })
      (sentAt (meetFrame (found s) f) f) (leAt f.payload 1 1) := by
    unfold hreqFrame
    rw [haccept]
    dsimp only
    rw [if_neg (by rw [show isMember (found s) = true from hmember]; decide), hreqWalk_end htype, hnode]
  refine ends_of_onDie (f := fun d => hreqFrame s.dog d f) rfl ?_
  rw [hdie]
  refine ⟨?_, ?_, keepsBut_command ((keeps_updTrk _ _ (by simp) _).2 ((keeps_updTrk _ _ (by simp) _).2 hh.parts))⟩
  · rw [trk_irqSettle]
    rfl
  · rw [trk_irqSettle]
    exact (congrArg Trunk.wnext hh.trk).trans rfl

/-! Responses at the lead (R283). -/

theorem hrspWalk_end {b : List Byte} (h : leAt b 0 1 = 0) (g : Dog) (n slotAt fuel : Nat) (d : Die) : hrspWalk g n slotAt fuel b d = d := by
  have hlen := recLen_end h
  cases fuel with
  | zero => rfl
  | succ k =>
    unfold hrspWalk
    exact if_pos (Or.inl hlen)

theorem hrspRecord_data {d : Die} {n p a at_ : Nat} {b : List Byte} (htype : leAt b 0 1 = 0x83)
    (hread : d.trk.read = some (n, p, leAt b 2 2, a, at_)) (g : Dog) (slotAt : Nat) :
    hrspRecord g d n slotAt b = readDone g d (leAt b 8 4) := by
  simp [hrspRecord, htype, hread]

/-- A response that holds the answer of a read and nothing after it. -/
theorem hrspWalk_data {d : Die} {n p a at_ : Nat} {b : List Byte} (htype : leAt b 0 1 = 0x83) (hlen : 12 ≤ b.length) (hend : leAt b 12 1 = 0)
    (hread : d.trk.read = some (n, p, leAt b 2 2, a, at_)) (g : Dog) (slotAt fuel : Nat) :
    hrspWalk g n slotAt (fuel + 1) b d = readDone g d (leAt b 8 4) := by
  have hrec := recLen_data htype
  have hdata : hrspRecord g d n slotAt (b.take 12) = readDone g d (leAt b 8 4) := by
    rw [hrspRecord_data (p := p) (a := a) (at_ := at_), leAt_take (by decide)]
    · rw [leAt_take (by decide), htype]
    · rw [leAt_take (by decide), hread]
  rw [hrspWalk]
  rw [hrec, if_neg (by omega), hdata]
  exact hrspWalk_end (by rw [leAt_drop, hend]) ..

theorem ends_readAnswered {s : State} {f : TrunkFrame} {m p a g : Nat} (hs : arrivesSound s f 5 (hrspOwner s.die f)) (hlead : isLead s.die = true)
    (hread : s.die.trk.read = some (m, p, leAt f.payload 6 2, a, g)) (hm : m = f.src.val) (hheld : s.die.trk.held = [])
    (htype : leAt f.payload 4 1 = 0x83) (hend : leAt f.payload 16 1 = 0) : ends (.hrspFrameReceived f) s fun t =>
      t.die.trk.read = none ∧ t.die.host.rdData = [BitVec.ofNat 32 (leAt f.payload 12 4)] := by
  obtain ⟨haccept, hh, hroom⟩ := accepts_of_sound hs
  have hat : ∀ i n, 4 + i + n ≤ 52 → leAt ((f.payload.take (f.payload.length - 4)).drop 4) i n = leAt f.payload (4 + i) n := fun i n h => by
    rw [leAt_drop, leAt_take (by omega)]
  have hlen : 12 ≤ ((f.payload.take (f.payload.length - 4)).drop 4).length := by
    rw [List.length_drop, List.length_take]
    omega
  have hread' : (meetFrame (found s) f).trk.read = some (f.src.val, p, leAt ((f.payload.take (f.payload.length - 4)).drop 4) 2 2, a, g) := by
    rw [hh.read, hat 2 2 (by decide), ← hm]
    exact hread
  have hdie : hrspFrame s.dog (found s) f = readDone s.dog (meetFrame (found s) f) (leAt f.payload 12 4) := by
    unfold hrspFrame
    rw [show hrspOwner (found s) f = hrspOwner s.die f from rfl, haccept]
    dsimp only
    rw [if_neg (by rw [show isLead (found s) = true from hlead]; decide),
      hrspWalk_data (p := p) (a := a) (at_ := g) (by rw [hat 0 1 (by decide), htype]) hlen (by rw [hat 12 1 (by decide), hend]) hread',
      hat 8 4 (by decide)]
  obtain ⟨htrk, hdata, -⟩ := readDone_spec (d := meetFrame (found s) f) (hh.held.trans hheld) s.dog (leAt f.payload 12 4)
  rw [← hdie] at htrk hdata
  refine ends_of_onDie (f := fun d => hrspFrame s.dog d f) rfl ⟨?_, (rdData_irqSettle ..).trans hdata⟩
  rw [trk_irqSettle, htrk]

/-- Settles O39: by what waits, by the letters of lost writes, and by the records of accepted frames. -/
theorem clusterTransactions : Obligations.ClusterTransactions := by
  unfold Obligations.ClusterTransactions
  exact ⟨fun s n off be v hup hn hbe hmem hheld hread hcredit =>
      ⟨fun hlost => ends_writeQueued hup hn hbe hmem hheld hread hcredit hlost,
        fun hlost hroom => ends_writeDead hup hn hbe hheld hread hcredit hlost hroom⟩,
    fun s n off be v hup hwait hheld => ends_writeHeld hup hwait hheld,
    fun s n off be hup hn hheld => ⟨fun hmem hread => ends_readNone hup hn hheld hmem hread,
      fun hmem hread => ends_readStarted hup hn hheld hmem hread, fun hread => ends_readHeld hup hn hheld hread⟩,
    fun s n p r a g hread hheld => ends_readTimeout hread hheld,
    fun s n hlead hmem hlost hquiet hheld hroom => ends_memberLost hlead hmem hlost hquiet hheld hroom,
    fun s hup _ hw hsw => ends_deadLetterPop hup hw hsw,
    fun s f hs hheld => ends_statusFrame hs hheld,
    fun s f hs hmember hnone => ends_requestNone hs hmember hnone,
    fun s f m p a g hs hlead hread hm hheld htype hend => ends_readAnswered hs hlead hread hm hheld htype hend⟩

end Sys2Proof.Machine
end

section
/-! PROOFS. The commands of the mailbox: a step never takes a command back (R347). -/

namespace Sys2Proof.Machine

open Sys2Proof

/-- The same command, perhaps further on: once done it stays as it is. -/
structure CmdOn (x y : Cmd) : Prop where
  ticket : y.ticket = x.ticket
  op : y.op = x.op
  user : y.user = x.user
  q : y.q = x.q
  words : y.words = x.words
  started : x.started = true → y.started = true
  done : x.done = true → y = x

theorem CmdOn.refl (x : Cmd) : CmdOn x x := ⟨rfl, rfl, rfl, rfl, rfl, id, fun _ => rfl⟩

theorem CmdOn.trans {x y z : Cmd} (h : CmdOn x y) (h' : CmdOn y z) : CmdOn x z where
  ticket := h'.ticket.trans h.ticket
  op := h'.op.trans h.op
  user := h'.user.trans h.user
  q := h'.q.trans h.q
  words := h'.words.trans h.words
  started hx := h'.started (h.started hx)
  done hx := by
    obtain rfl := h.done hx
    exact h'.done hx

/-- Every command of `c` is there in `d`, in its place, perhaps further on. -/
def CmdsOn (c d : Die) : Prop := ∃ f : Cmd → Cmd, d.host.cmds = c.host.cmds.map f ∧ ∀ x, CmdOn x (f x)

theorem CmdsOn.of_eq {c d : Die} (h : d.host.cmds = c.host.cmds) : CmdsOn c d := ⟨id, by rw [h, List.map_id], CmdOn.refl⟩

theorem CmdsOn.refl (d : Die) : CmdsOn d d := .of_eq rfl

theorem CmdsOn.trans {c d e : Die} (h : CmdsOn c d) (h' : CmdsOn d e) : CmdsOn c e := by
  obtain ⟨f, hf, hon⟩ := h
  obtain ⟨g, hg, hon'⟩ := h'
  exact ⟨g ∘ f, by rw [hg, hf, List.map_map], fun x => (hon x).trans (hon' (f x))⟩

theorem CmdsOn.mem {c d : Die} (h : CmdsOn c d) {x : Cmd} (hx : x ∈ c.host.cmds) : ∃ y ∈ d.host.cmds, CmdOn x y := by
  obtain ⟨f, hf, hon⟩ := h
  exact ⟨f x, by rw [hf]; exact List.mem_map_of_mem hx, hon x⟩

/-- What is done is there unchanged. -/
theorem CmdsOn.mem_done {c d : Die} (h : CmdsOn c d) {x : Cmd} (hx : x ∈ c.host.cmds) (hdone : x.done = true) : x ∈ d.host.cmds := by
  obtain ⟨y, hy, hon⟩ := h.mem hx
  rwa [hon.done hdone] at hy

theorem cmds_of_keeps {ps : List Part} {c d : Die} (h : Keeps ps c d) (hh : .host ∉ ps) : d.host.cmds = c.host.cmds := by
  have hstill : d.host.still = c.host.still := h .host hh
  show d.host.still.cmds = c.host.still.cmds
  rw [hstill]

theorem CmdsOn.of_keeps {ps : List Part} {c d : Die} (h : Keeps ps c d) (hh : .host ∉ ps) : CmdsOn c d := .of_eq (cmds_of_keeps h hh)

theorem cmds_irqSettle (c d : Die) : (irqSettle c d).host.cmds = d.host.cmds := cmds_of_keeps (keeps_irqSettle [] c d) (by simp)

theorem cmdsOn_updCmds (d : Die) {p : Cmd → Bool} {f : Cmd → Cmd} (h : ∀ x, p x = true → CmdOn x (f x)) : CmdsOn d (updCmds d p f) := by
  refine ⟨fun x => if p x then f x else x, rfl, fun x => ?_⟩
  dsimp only
  split
  next hp => exact h x hp
  next => exact .refl x

theorem cmdsOn_complete (d : Die) (ticket status r0 r1 : Nat) : CmdsOn d (complete d ticket status r0 r1) := by
  unfold complete
  split
  · exact .refl d
  · refine cmdsOn_updCmds d fun x hx => ⟨rfl, rfl, rfl, rfl, rfl, fun _ => rfl, fun hdone => ?_⟩
    simp [hdone] at hx

theorem CmdsOn.foldl {β : Type} {f : Die → β → Die} (h : ∀ d x, CmdsOn d (f d x)) (l : List β) (d : Die) : CmdsOn d (l.foldl f d) := by
  induction l generalizing d with
  | nil => exact .refl d
  | cons x l ih => exact (h d x).trans (ih _)

/-! NOP (R348). -/

/-- One command looked at for the completion of NOPs; the list holds those before it. -/
def nopStep (r : Die × List Cmd) (c : Cmd) : Die × List Cmd :=
  if c.op == 1 && !c.done && r.2.all fun x => x.done || x.q != c.q then (complete r.1 c.ticket 0 0 0, r.2 ++ [{ c with done := true }])
  else (r.1, r.2 ++ [c])

theorem settleNops_eq (d : Die) : settleNops d = (d.host.cmds.foldl nopStep (d, [])).1 := rfl

theorem cmdsOn_nopSteps (l : List Cmd) (r : Die × List Cmd) : CmdsOn r.1 (l.foldl nopStep r).1 := by
  induction l generalizing r with
  | nil => exact .refl _
  | cons c l ih =>
    refine .trans ?_ (ih (nopStep r c))
    unfold nopStep
    split
    · exact cmdsOn_complete _ _ _ _ _
    · exact .refl _

theorem cmdsOn_settleNops (d : Die) : CmdsOn d (settleNops d) := cmdsOn_nopSteps d.host.cmds (d, [])

/-- Where every NOP is done, nothing is left to do. -/
theorem nopSteps_done (l : List Cmd) (h : ∀ c ∈ l, c.op = 1 → c.done = true) (r : Die × List Cmd) : (l.foldl nopStep r).1 = r.1 := by
  induction l generalizing r with
  | nil => rfl
  | cons c l ih =>
    rw [List.foldl_cons, ih fun x hx => h x (by simp [hx])]
    unfold nopStep
    by_cases hop : c.op = 1
    · simp [h c (by simp) hop]
    · simp [hop]

theorem settleNops_done {d : Die} (h : ∀ c ∈ d.host.cmds, c.op = 1 → c.done = true) : settleNops d = d := nopSteps_done _ h _

theorem keeps_nopSteps (l : List Cmd) (r : Die × List Cmd) : Keeps [.host] r.1 (l.foldl nopStep r).1 := by
  induction l generalizing r with
  | nil => exact .refl _ _
  | cons c l ih =>
    refine .trans ?_ (ih (nopStep r c))
    unfold nopStep
    split <;> simp

theorem keeps_settleNops (d : Die) : Keeps [.host] d (settleNops d) := keeps_nopSteps d.host.cmds (d, [])

/-! What each step of a Parcel command does to the commands (R372, R373). -/

theorem keeps_sessionClose (d : Die) : Keeps [.regs, .boot] d (sessionClose d) := by
  unfold sessionClose
  simp

theorem cmdsOn_sessionClose (d : Die) : CmdsOn d (sessionClose d) := .of_keeps (keeps_sessionClose d) (by simp)

theorem cmdsOn_parcelEnd (d : Die) (ticket status code r1 : Nat) : CmdsOn d (parcelEnd d ticket status code r1) := by
  unfold parcelEnd
  extract_lets coded d'
  have h : CmdsOn d d' := cmdsOn_complete ..
  split
  · exact h
  · exact h.trans (cmdsOn_sessionClose d')

theorem cmdsOn_supplyCut (d : Die) (ticket : Nat) : CmdsOn d (supplyCut d ticket) := by
  unfold supplyCut
  extract_lets d'
  refine .trans (d := parcelEnd d' ticket 0xE 0xF 0) ?_ (.of_keeps (ps := [.regs, .lgb]) (by simp) (by simp))
  exact .trans (d := d') (.refl d) (cmdsOn_parcelEnd ..)

theorem cmdsOn_vinSettle (d : Die) : CmdsOn d (vinSettle d) := by
  unfold vinSettle
  extract_lets warn
  split
  · exact .refl d
  · split
    · split
      · unfold vinCrosses
        extract_lets d1 d2 d3
        have h3 : CmdsOn d d3 := by
          refine .of_keeps (ps := [.regs, .pwr, .lgb]) ?_ (by simp)
          unfold d3
          split <;> simp [d2, d1]
        split
        · exact h3.trans (cmdsOn_supplyCut d3 _)
        · exact h3
      · exact .refl d
    · split
      · exact .of_keeps (ps := [.regs, .pwr]) (by simp) (by simp)
      · exact .refl d

theorem keeps_flashGo (d : Die) (ops : List FlashOp) (fl : FlashRun) : Keeps [.boot] d (flashGo d ops fl) := by
  unfold flashGo
  simp

theorem cmdsOn_flashDo (d : Die) (c : Cmd) (ops : List FlashOp) (fl : FlashRun) {done : Die → Die} (h : ∀ e, CmdsOn e (done e)) :
    CmdsOn d (flashDo d c ops fl done) := by
  unfold flashDo
  split
  · exact cmdsOn_parcelEnd ..
  · extract_lets d'
    have hgo : CmdsOn d d' := .of_keeps (keeps_flashGo d _ fl) (by simp)
    split
    · exact hgo.trans (h d')
    · exact hgo.trans (cmdsOn_parcelEnd ..)
    · exact hgo

theorem keeps_putBootErr (d : Die) (r : Refused) (bank : Nat) : Keeps [.regs] d (putBootErr d r bank) := by
  unfold putBootErr
  simp

/-! The load of a Parcel (R370, R371). -/

theorem keeps_parcelDefaults (d : Die) : Keeps [.regs, .held] d (parcelDefaults d) := by
  unfold parcelDefaults
  intro p hp
  cases p <;> simp_all [Part.same]

theorem keeps_putNodes (d : Die) (l : List SegDecl) : Keeps [.regs, .nodes, .segs] d (putNodes d l) := by
  unfold putNodes
  refine .trans (d := { d with nodes := [] }) (by simp) (Keeps.foldl (fun e x => ?_) l _)
  extract_lets seg d1 d2
  have h1 : Keeps [.regs, .nodes, .segs] e d1 := by simp [d1]
  refine h1.trans ((keeps_setFld _ _ (by simp) _ _).2 (Keeps.foldl (fun e y => ?_) _ d1))
  extract_lets d3 d4
  have h4 : Keeps [.regs, .nodes, .segs] e d4 := by simp [d4, d3]
  exact h4.trans (Keeps.foldl (fun e a => by simp) _ d4)

theorem keeps_putPd (d : Die) : Keeps [.regs] d (putPd d) := keeps_putPds _ d

theorem keeps_putTrunk (d : Die) (b : List Byte) : Keeps [.regs, .trk] d (putTrunk d b) := by
  unfold putTrunk
  extract_lets nl nn me links d1 d2 d3 port d4 d5 d6 d7
  have h2 : Keeps [.regs, .trk] d d2 := by simp [d2, d1]
  have h3 : Keeps [.regs, .trk] d2 d3 := Keeps.foldl (fun e x => by simp) _ d2
  have hport : ∀ e p peer l, Keeps [.regs, .trk] e (port e p peer l) := fun e p peer l => by simp [port]
  have h4 : Keeps [.regs, .trk] d3 d4 := Keeps.foldl (fun e l => by
    have h := hport e
    split
    · split <;> simp [h]
    · split
      · split <;> simp [h]
      · exact .refl _ e) _ d3
  have h5 : Keeps [.regs, .trk] d4 d5 := Keeps.foldl (fun e x => by simp) _ d4
  have h6 : Keeps [.regs, .trk] d5 d6 := Keeps.foldl (fun e x => by simp) _ d5
  have h7 : Keeps [.regs, .trk] d6 d7 := Keeps.foldl (fun e x => by simp) _ d6
  refine (((((h2.trans h3).trans h4).trans h5).trans h6).trans h7).trans ?_
  exact .trans (d := putReg d7 Reg.CTR_HASH (BitVec.ofNat 32 (crc32 b))) (by simp) ((keeps_putPd _).mono (by simp))

/-- The image brings its values, before they are judged; nothing of the host's changes. -/
def candidateParts : List Part := [.regs, .held, .boot, .mem, .knl, .nodes, .segs, .trk]

theorem keeps_candidate (d : Die) (img : List Byte) : Keeps candidateParts d (candidate d img) := by
  unfold candidate
  extract_lets es rs code d1 d2 d3 mem d4 d5 d6 d7 d8 d9
  have h1 : Keeps candidateParts d d1 := by
    have hbeat : Keeps [.regs, .held] d (beatDefaults (parcelDefaults d) code) := (keeps_parcelDefaults d).trans (by
      unfold beatDefaults beatFixed
      simp)
    exact (hbeat.trans (Keeps.foldl keeps_applyRec rs _)).mono (by simp [candidateParts])
  have h2 : Keeps candidateParts d1 d2 := by simp [d2, beatFixed, candidateParts]
  have h3 : Keeps candidateParts d2 d3 := (keeps_updBoot _ _ (by simp [candidateParts]) _).2 (.refl _ d2)
  have h4 : Keeps candidateParts d3 d4 := (keeps_mem _ _ (by simp [candidateParts]) _).2 (.refl _ d3)
  have h5 : Keeps candidateParts d4 d5 := (keeps_updKnl _ _ (by simp [candidateParts]) _).2 (.refl _ d4)
  have h6 : Keeps candidateParts d5 d6 := (keeps_putNodes d5 _).mono (by simp [candidateParts])
  have h7 : Keeps candidateParts d6 d7 := by
    unfold d7
    split
    · exact (keeps_putTrunk d6 _).mono (by simp [candidateParts])
    · exact .refl _ d6
  have h8 : Keeps candidateParts d7 d8 := (keeps_updBoot _ _ (by simp [candidateParts]) _).2 (.refl _ d7)
  have h9 : Keeps candidateParts d8 d9 := Keeps.foldl (fun e x => (keeps_putReg _ _ (by simp [candidateParts]) _ _).2 (.refl _ e)) _ d8
  exact ((((((((h1.trans h2).trans h3).trans h4).trans h5).trans h6).trans h7).trans h8).trans h9).trans
    ((keeps_updBoot _ _ (by simp [candidateParts]) _).2 (.refl _ d9))

/-- A check that stands before others has passed where the whole has. -/
theorem ok_of_bind {ε α β : Type} {x : Except ε α} {f : α → Except ε β} {b : β} (h : x >>= f = .ok b) : ∃ a, f a = .ok b := by
  cases x with
  | ok a => exact ⟨a, h⟩
  | error e => exact nomatch h

/-- An image that passes every check configures the part as the candidate does. -/
theorem judgeImage_ok {d c : Die} {img : List Byte} {crc : Nat} (h : judgeImage d img crc = .ok c) : c = candidate d img := by
  unfold judgeImage at h
  obtain ⟨-, h⟩ := ok_of_bind h
  obtain ⟨-, h⟩ := ok_of_bind h
  obtain ⟨-, h⟩ := ok_of_bind h
  obtain ⟨-, h⟩ := ok_of_bind h
  obtain ⟨-, h⟩ := ok_of_bind h
  obtain ⟨-, h⟩ := ok_of_bind h
  obtain ⟨-, h⟩ := ok_of_bind h
  obtain ⟨-, h⟩ := ok_of_bind h
  obtain ⟨-, h⟩ := ok_of_bind h
  obtain ⟨-, h⟩ := ok_of_bind h
  exact (Except.ok.inj h).symm

theorem keeps_declaredIn (d : Die) (lock : Bool) : Keeps [.regs, .pwr, .gear] d (declaredIn d lock) := by
  unfold declaredIn
  extract_lets d1 d2 d3
  have h1 : Keeps [.regs, .pwr, .gear] d d1 := by
    unfold d1
    split <;> simp
  have h3 : Keeps [.regs, .pwr, .gear] d1 d3 := by simp [d3, d2]
  refine (h1.trans h3).trans (.trans (d := updPwr d3 fun p => { p with dom := (declaredDoms d3).foldl setBit 0 }) (by simp) ?_)
  exact Keeps.foldl (fun e a => (keeps_updGear _ _ (by simp) _ _).2 (.refl _ e)) _ _

theorem keeps_runsNow (d : Die) : Keeps [.regs] d (runsNow d) := by
  unfold runsNow
  rw [keeps_setFlag _ _ (by simp), keeps_setFlag _ _ (by simp)]
  exact Keeps.foldl (fun e g => Keeps.foldl (fun e n => (keeps_setFld _ _ (by simp) _ _).2 (.refl _ e)) _ e) _ d

theorem keeps_canReq (d : Die) (n req : Nat) : Keeps [.regs, .can] d (canReq d n req) := by
  have hall : Keeps [.regs, .can] d (canEndAll d n 2) := keeps_canEndAll d n 2
  unfold canReq
  extract_lets st mode
  split
  · split
    · exact .refl _ d
    · simpa [canSetState] using hall
  · split
    · split <;> simp [canSetState]
    · split <;> simp

theorem keeps_networksUp (d : Die) : Keeps [.regs, .can, .segs, .trk] d (networksUp d) := by
  unfold networksUp
  extract_lets d'
  have hcan : Keeps [.regs, .can, .segs, .trk] d (canStart d) := Keeps.foldl (fun e n => by
    split
    · exact (keeps_canReq e n _).mono (by simp)
    · exact .refl _ e) _ d
  have hsegs : Keeps [.regs, .can, .segs, .trk] (canStart d) d' := Keeps.foldl (fun e s => by simp) _ _
  refine (hcan.trans hsegs).trans ?_
  split
  · simp [enterListen, trunkUp]
  · exact .refl _ d'

theorem cmdsOn_loadDone (c : Die) (gen bank : Nat) (hostDl lock : Bool) (min : Nat) : CmdsOn c (loadDone c gen bank hostDl lock min) := by
  rw [loadDone_eq]
  have h1 : CmdsOn c (parcelTaken c gen bank hostDl min) := by
    unfold parcelTaken
    extract_lets d1 d2 d3
    have h3 : CmdsOn c d3 := .of_keeps (ps := [.regs]) (by simp [d3, d2, d1]) (by simp)
    exact (h3.trans (.of_keeps (ps := [.boot]) ((keeps_updBoot _ _ (by simp) _).2 (.refl _ d3)) (by simp))).trans (cmdsOn_vinSettle _)
  generalize parcelTaken c gen bank hostDl min = d1 at h1
  have h2 : CmdsOn d1 (declaredIn d1 lock) := .of_keeps (keeps_declaredIn d1 lock) (by simp)
  generalize declaredIn d1 lock = d2 at h2
  have h3 : CmdsOn d2 (runsNow d2) := .of_keeps (keeps_runsNow d2) (by simp)
  generalize runsNow d2 = d3 at h3
  have h4 : CmdsOn d3 (networksUp d3) := .of_keeps (keeps_networksUp d3) (by simp)
  generalize networksUp d3 = d4 at h4
  exact (((h1.trans h2).trans h3).trans h4).trans (.of_keeps (finished_spec d4 gen).2.1 (by simp))

theorem cmdsOn_loadImage {d x : Die} {img : List Byte} {crc gen bank : Nat} {hostDl : Bool}
    (h : loadImage d img crc gen bank hostDl = .ok x) : CmdsOn d x := by
  unfold loadImage at h
  split at h
  · exact nomatch h
  next c hjudge =>
    obtain rfl := Except.ok.inj h
    obtain rfl := judgeImage_ok hjudge
    exact (CmdsOn.of_keeps (keeps_candidate d img) (by simp [candidateParts])).trans (cmdsOn_loadDone ..)

/-! The commands of the serial queues (R347). -/

theorem cmdsOn_parcelBegin (d : Die) (c : Cmd) (fl : FlashRun) : CmdsOn d (parcelBegin d c fl) := by
  unfold parcelBegin
  split
  · exact cmdsOn_supplyCut ..
  · split
    · exact .trans (d := updBoot d fun b => { b with buffer := [] }) (.refl d) (cmdsOn_complete ..)
    · extract_lets d' a gen rec_
      have h : CmdsOn d d' := .of_keeps (ps := [.boot]) (by unfold d'; split <;> simp) (by simp)
      exact h.trans (cmdsOn_flashDo _ _ _ _ fun e => cmdsOn_complete ..)

theorem keeps_noteWritten (d : Die) (off n : Nat) : Keeps [.boot] d (noteWritten d off n) := by simp [noteWritten]

theorem cmdsOn_parcelData (d : Die) (c : Cmd) (fl : FlashRun) : CmdsOn d (parcelData d c fl) := by
  unfold parcelData
  extract_lets off bs
  split
  · exact cmdsOn_supplyCut ..
  · split
    · exact .trans (.of_keeps (ps := [.boot]) (by simp [noteWritten]) (by simp)) (cmdsOn_complete ..)
    · exact cmdsOn_flashDo _ _ _ _ fun e => .trans (.of_keeps (keeps_noteWritten e _ _) (by simp)) (cmdsOn_complete ..)

theorem cmdsOn_refused (d : Die) (r : Refused) (t st code r1 : Nat) : CmdsOn d (parcelEnd (putBootErr d r 0) t st code r1) :=
  .trans (.of_keeps (keeps_putBootErr d r 0) (by simp)) (cmdsOn_parcelEnd ..)

theorem cmdsOn_closed (d : Die) (t st r0 r1 : Nat) : CmdsOn d (sessionClose (complete d t st r0 r1)) :=
  .trans (cmdsOn_complete ..) (cmdsOn_sessionClose _)

theorem cmdsOn_parcelCommit (d : Die) (c : Cmd) (fl : FlashRun) : CmdsOn d (parcelCommit d c fl) := by
  unfold parcelCommit
  extract_lets host bank img scrc
  split
  · exact cmdsOn_supplyCut ..
  · split
    · split
      next x hx => exact (cmdsOn_loadImage hx).trans (cmdsOn_closed ..)
      next => exact cmdsOn_refused ..
    · split
      · exact cmdsOn_parcelEnd ..
      · split
        · exact cmdsOn_refused ..
        · exact cmdsOn_flashDo _ _ _ _ fun e => cmdsOn_closed ..

theorem keeps_proofStart (d : Die) (seg ticket : Nat) : Keeps [.regs, .pwr, .segs] d (proofStart d seg ticket) := by
  simp [proofStart, proofPhase, tailPower]

theorem cmdsOn_fuseArmRun (d : Die) (c : Cmd) : CmdsOn d (fuseArmRun d c) := by
  unfold fuseArmRun
  extract_lets r code d'
  have h : CmdsOn d d' := .of_eq rfl
  exact h.trans (cmdsOn_complete ..)

/-- A command of a serial queue is marked as started. -/
def markStarted (d : Die) (ticket : Nat) : Die := updCmds d (fun x => x.ticket == ticket && !x.done) fun x => { x with started := true }

theorem cmdsOn_markStarted (d : Die) (ticket : Nat) : CmdsOn d (markStarted d ticket) :=
  cmdsOn_updCmds d fun x hx => ⟨rfl, rfl, rfl, rfl, rfl, fun _ => rfl, fun hdone => by simp [hdone] at hx⟩

/-- What the command that starts does, when it may still run. -/
def serialRun (d : Die) (c : Cmd) (fl : FlashRun) : Die :=
  match c.op with
  | 0x20 => parcelBegin d c fl
  | 0x21 => parcelData d c fl
  | 0x22 => parcelCommit d c fl
  | 0x23 => parcelAbort d c
  | 0x40 => proofStart d (nth c.words 1) c.ticket
  | 0x41 => fuseArmRun d c
  | 0x42 => updBoot d fun b => { b with burnTicket := c.ticket }
  | _ => d

theorem runSerial_ok {d : Die} {c : Cmd} (h : stillOk (markStarted d c.ticket) c = true) (fl : FlashRun) :
    runSerial d c fl = serialRun (markStarted d c.ticket) c fl := by
  unfold runSerial
  exact if_neg (by simpa [markStarted] using h)

theorem cmdsOn_serialRun (d : Die) (c : Cmd) (fl : FlashRun) : CmdsOn d (serialRun d c fl) := by
  unfold serialRun
  split
  · exact cmdsOn_parcelBegin ..
  · exact cmdsOn_parcelData ..
  · exact cmdsOn_parcelCommit ..
  · exact cmdsOn_closed ..
  · exact .of_keeps (keeps_proofStart d _ _) (by simp)
  · exact cmdsOn_fuseArmRun ..
  · exact .of_keeps (ps := [.boot]) (by simp) (by simp)
  · exact .refl d

theorem cmdsOn_runSerial (d : Die) (c : Cmd) (fl : FlashRun) : CmdsOn (markStarted d c.ticket) (runSerial d c fl) := by
  by_cases h : stillOk (markStarted d c.ticket) c = true
  · rw [runSerial_ok h]
    exact cmdsOn_serialRun ..
  · unfold runSerial
    extract_lets d' d''
    rw [if_pos (by simpa [markStarted, d'] using h)]
    have hend : CmdsOn d' d'' := cmdsOn_complete ..
    split
    · exact hend.trans (cmdsOn_sessionClose d'')
    · exact hend

end Sys2Proof.Machine
end

section
/-! PROOFS. The events of the mailbox (R347, R353 to R357, R394, R413). -/

namespace Sys2Proof.Machine

open Sys2Proof

/-! The next command of a serial queue (R347). -/

theorem startNext_some {d : Die} {q : Nat} {c : Cmd} (hq : q % 2 = 1) (hc : serialNext (settleNops d) q = some c) (fl : FlashRun) :
    startNext d q fl = settleNops (runSerial (settleNops d) c fl) := by
  unfold startNext
  rw [if_neg (by omega)]
  simp only [hc]

theorem serialNext_unstarted {d : Die} {q : Nat} {c : Cmd} (hc : d.host.cmds.find? (fun x => x.q == q && !x.done) = some c)
    (hs : c.started = false) : serialNext d q = some c := by
  unfold serialNext
  simp [hc, hs]

/-- A command that starts is marked, and stays so. -/
theorem startNext_marks {d : Die} {q : Nat} {c : Cmd} (hq : q % 2 = 1) (hc : serialNext (settleNops d) q = some c) (fl : FlashRun)
    (hmem : c ∈ (settleNops d).host.cmds) (hdone : c.done = false) :
    ∃ x ∈ (startNext d q fl).host.cmds, CmdOn { c with started := true } x := by
  have hmark : { c with started := true } ∈ (markStarted (settleNops d) c.ticket).host.cmds :=
    List.mem_map.2 ⟨c, hmem, by simp [hdone]⟩
  rw [startNext_some hq hc]
  exact ((cmdsOn_runSerial _ c fl).trans (cmdsOn_settleNops _)).mem hmark

theorem ends_commandStart {s : State} {q : Fin 4} {fl : FlashRun} {c : Cmd} (hq : q.val % 2 = 1) (hnop : ∀ x ∈ s.die.host.cmds, x.op ≠ 1)
    (hc : s.die.host.cmds.find? (fun x => x.q == q.val && !x.done) = some c) (hs : c.started = false) :
    ends (.commandStart q fl) s fun t => ∃ x ∈ t.die.host.cmds, x.ticket = c.ticket ∧ x.op = c.op ∧ x.started = true := by
  have hsettle : settleNops (found s) = found s := settleNops_done (d := found s) fun x hx hop => absurd hop (hnop x hx)
  have hnext : serialNext (settleNops (found s)) q.val = some c := by
    rw [hsettle]
    exact serialNext_unstarted (d := found s) hc hs
  have hdone : c.done = false := by
    have := List.find?_some hc
    simp only [Bool.and_eq_true, Bool.not_eq_true'] at this
    exact this.2
  have hmem : c ∈ (settleNops (found s)).host.cmds := by
    rw [hsettle]
    exact List.mem_of_find?_eq_some hc
  obtain ⟨x, hx, hon⟩ := startNext_marks hq hnext fl hmem hdone
  refine ends_of_onDie (f := (startNext · q.val fl)) rfl ⟨x, ?_, hon.ticket, hon.op, hon.started rfl⟩
  rw [cmds_irqSettle]
  exact hx

/-! Where a completion goes (R352 to R355). -/

theorem keeps_irqSend (ps : List Part) (d : Die) (vs : List Nat) : Keeps ps d (irqSend d vs) := by
  obtain ⟨m, w, h⟩ := irqSend_eq d vs
  rw [h]
  exact fun p _ => same_withIrq p d m w d.host.holdEnd d.host.holdPend

theorem keeps_cmplMsg (ps : List Part) (d : Die) : Keeps ps d (cmplMsg d) := by
  obtain ⟨m, w, e, p, h⟩ := cmplMsg_eq d
  rw [h]
  exact fun q _ => same_withIrq q d m w e p

theorem keeps_cmplIrq (d : Die) : Keeps [.regs] d (cmplIrq d) := by
  unfold cmplIrq
  extract_lets shown d'
  have h : Keeps [.regs] d d' := (keeps_irqSet d d (by simp) 0).2 (.refl _ d)
  split
  · exact h
  · exact h.trans (keeps_cmplMsg _ d')

theorem getReg_cmplIrq (d : Die) (off : Nat) : getReg (cmplIrq d) off = getReg (irqSet d 0) off := by
  have h : getReg (cmplMsg (irqSet d 0)) off = getReg (irqSet d 0) off := by
    rw [getReg, keeps_cmplMsg [] _ .regs (by simp), getReg]
  unfold cmplIrq
  extract_lets shown d'
  split
  · rfl
  · exact h

theorem cmplIrq_sets (d : Die) : bitOf (getReg (cmplIrq d) Reg.HST_IRQ_STAT).toNat 0 = true := by
  rw [getReg_cmplIrq]
  exact bitOf_irqSet_same d (by decide)

theorem keeps_noteArm (d : Die) (c : Cmd) : Keeps [.boot] d (noteArm d c) := by
  unfold noteArm
  split <;> simp

/-- An entry goes to the completion FIFO. -/
def fifoPut (d : Die) (e : List Nat) : Die := updHost d fun h => { h with fifo := h.fifo ++ [withPhase e true] }

/-- The command of an entry leaves the mailbox. -/
def entryGone (d : Die) (c : Cmd) (ring : Bool) : Die := updHost d fun h =>
  { h with cmds := h.cmds.filter fun x => x.ticket != c.ticket, delivered := h.delivered ++ [(c.ticket, c.q, ring)] }

/-- What follows an entry: the arm it may start, and its interrupt. -/
def entryTold (d : Die) (c : Cmd) : Die := cmplIrq (noteArm d c)

theorem keeps_entryTold (d : Die) (c : Cmd) : Keeps [.regs, .boot] d (entryTold d c) :=
  ((keeps_noteArm d c).mono (by simp)).trans ((keeps_cmplIrq _).mono (by simp))

theorem entryTold_sets (d : Die) (c : Cmd) : bitOf (getReg (entryTold d c) Reg.HST_IRQ_STAT).toNat 0 = true := cmplIrq_sets _

theorem getReg_entryTold (d : Die) (c : Cmd) {off : Nat} (h : off ≠ Reg.HST_IRQ_STAT) : getReg (entryTold d c) off = getReg d off := by
  rw [entryTold, getReg_cmplIrq, irqSet, getReg_putReg_ne _ _ h, getReg, keeps_noteArm d c .regs (by simp), getReg]

section Entries

variable {d : Die} {c : Cmd} (hnop : ∀ x ∈ d.host.cmds, x.op = 1 → x.done = true) (hc : cmplReady d = some c) (hm : isMember d = false)

include hnop hc hm

theorem writeCompletion_fifo (hen : flag d Reg.HST_CRING_CTL_EN = false) (hroom : d.host.fifo.length < 256) :
    writeCompletion d = entryTold (entryGone (fifoPut d (cmplEntry c)) c false) c := by
  unfold writeCompletion
  rw [settleNops_done hnop]
  simp only [hc, hm, hen, hroom]
  rfl

theorem writeCompletion_ring (hroom : ringRoom d = true) :
    writeCompletion d = entryTold (entryGone (ringPut d (cmplEntry c)) c true) c := by
  have hen : flag d Reg.HST_CRING_CTL_EN = true := by
    unfold ringRoom at hroom
    simp only [Bool.and_eq_true] at hroom
    exact hroom.1.1
  unfold writeCompletion
  rw [settleNops_done hnop]
  simp only [hc, hm, hen, hroom]
  rfl

end Entries

/-- What the interrupts never touch of the host port stands with its part. -/
theorem host_of_keeps {α : Type} (f : HostSt → α) {ps : List Part} {c d : Die} (h : Keeps ps c d) (hh : .host ∉ ps)
    (hf : ∀ x : HostSt, f x.still = f x) : f d.host = f c.host := by
  have hstill : d.host.still = c.host.still := h .host hh
  rw [← hf d.host, hstill, hf]

theorem ends_completionFifo {s : State} {c : Cmd} (hnop : ∀ x ∈ s.die.host.cmds, x.op = 1 → x.done = true) (hc : cmplReady s.die = some c)
    (hm : isMember s.die = false) (hen : flag s.die Reg.HST_CRING_CTL_EN = false) (hroom : s.die.host.fifo.length < 256) :
    ends .completionWrite s fun t => t.die.host.fifo = s.die.host.fifo ++ [withPhase (cmplEntry c) true] ∧
      t.die.host.cmds = s.die.host.cmds.filter (fun x => x.ticket != c.ticket) ∧
      t.die.host.delivered = s.die.host.delivered ++ [(c.ticket, c.q, false)] ∧
      bitOf (getReg t.die Reg.HST_IRQ_STAT).toNat 0 = true ∧ keepsBut [.regs, .host, .boot] s t := by
  have hw := writeCompletion_fifo (d := found s) hnop hc hm hen hroom
  have hk : Keeps [.regs, .boot] _ (irqSettle s.die (writeCompletion (found s))) :=
    (hw ▸ keeps_entryTold (entryGone (fifoPut (found s) (cmplEntry c)) c false) c).trans (keeps_irqSettle _ _ _)
  refine ends_of_onDie (f := writeCompletion) rfl ⟨host_of_keeps (·.fifo) hk (by simp) fun _ => rfl, cmds_of_keeps hk (by simp),
    host_of_keeps (·.delivered) hk (by simp) fun _ => rfl, ?_,
    keepsBut_command ?_⟩
  · rw [getReg_irqSettle, hw]
    exact entryTold_sets _ c
  · rw [hw]
    refine .trans ?_ ((keeps_entryTold _ c).mono (by simp))
    simp [entryGone, fifoPut]

theorem ends_completionRing {s : State} {c : Cmd} (hnop : ∀ x ∈ s.die.host.cmds, x.op = 1 → x.done = true) (hc : cmplReady s.die = some c)
    (hm : isMember s.die = false) (hroom : ringRoom s.die = true) (hsize : fld s.die Reg.HST_CRING_SIZE_SIZE ≠ 0) :
    ends .completionWrite s fun t =>
      let n := fld s.die Reg.HST_CRING_TAIL_TAIL
      let size := fld s.die Reg.HST_CRING_SIZE_SIZE
      let base := (getReg s.die Reg.HST_CRING_BASE).toNat + 2 ^ 32 * (getReg s.die (Reg.HST_CRING_BASE + 4)).toNat
      sget [] t.die.host.ring (base + n % size * 16) = withPhase (cmplEntry c) (n / size % 2 == 0) ∧
      (∀ a, a ≠ base + n % size * 16 → sget [] t.die.host.ring a = sget [] s.die.host.ring a) ∧
      fld t.die Reg.HST_CRING_TAIL_TAIL = (n + 1) % 65536 ∧ t.die.host.fifo = s.die.host.fifo ∧
      bitOf (getReg t.die Reg.HST_IRQ_STAT).toNat 0 = true := by
  have hw := writeCompletion_ring (d := found s) hnop hc hm hroom
  have hk : Keeps [.regs, .boot] _ (irqSettle s.die (writeCompletion (found s))) :=
    (hw ▸ keeps_entryTold (entryGone (ringPut (found s) (cmplEntry c)) c true) c).trans (keeps_irqSettle _ _ _)
  refine ends_of_onDie (f := writeCompletion) rfl ?_
  intro n size base
  have hfifo : (irqSettle s.die (writeCompletion (found s))).host.fifo =
      (entryGone (ringPut (found s) (cmplEntry c)) c true).host.fifo := host_of_keeps (·.fifo) hk (by simp) fun _ => rfl
  have hmax : max 1 size = size := Nat.max_eq_right (Nat.one_le_iff_ne_zero.2 hsize)
  have hring : (irqSettle s.die (writeCompletion (found s))).host.ring =
      sput [] s.die.host.ring (base + n % size * 16) (withPhase (cmplEntry c) (n / size % 2 == 0)) := by
    refine (host_of_keeps (·.ring) hk (by simp) fun _ => rfl).trans ?_
    show sput [] s.die.host.ring (base + n % max 1 size * 16) (withPhase (cmplEntry c) (n / max 1 size % 2 == 0)) = _
    rw [hmax]
  refine ⟨?_, fun a ha => ?_, ?_, hfifo, ?_⟩
  · rw [hring, sget_sput_same]
  · rw [hring, sget_sput_ne _ _ _ _ ha]
  · rw [fld_irqSettle, hw, fld_congr (getReg_entryTold _ c (off := Reg.HST_CRING_TAIL) (by decide))]
    exact fld_setFld_same _ Reg.HST_CRING_TAIL_TAIL (n + 1) (by decide)
  · rw [getReg_irqSettle, hw]
    exact entryTold_sets _ c

/-! The end of a hold-off (R356, R357). -/

theorem irqPend_of_keeps {ps : List Part} {c d : Die} (h : Keeps ps c d) (hr : .regs ∉ ps) (hcan : .can ∉ ps) : irqPend d = irqPend c := by
  have hregs : d.regs = c.regs := h .regs hr
  have hc : d.can = c.can := h .can hcan
  simp only [irqPend, irqStat, canIrq, flag, fld, getReg, canH, hregs, hc]

theorem pcieLive_of_keeps {ps : List Part} {c d : Die} (h : Keeps ps c d) (hs : .straps ∉ ps) (hp : .pwr ∉ ps) (hh : .host ∉ ps) :
    pcieLive d = pcieLive c := by
  have hstraps : d.straps = c.straps := h .straps hs
  have hpwr : d.pwr = c.pwr := h .pwr hp
  have hstill : d.host.still = c.host.still := h .host hh
  show ((d.straps.toNat % 4 < 2) && powered d 57 && !d.host.still.pmD3 && !d.host.still.perst) = _
  rw [hstill, hstraps, powered, hpwr]
  rfl

theorem signals_of_keeps {ps : List Part} {c d : Die} (h : Keeps ps c d) (hh : .host ∉ ps) :
    d.host.msixEn = c.host.msixEn ∧ d.host.msiEn = c.host.msiEn ∧ d.host.msixMask = c.host.msixMask ∧
      d.host.intxDis = c.host.intxDis ∧ d.host.bme = c.host.bme := by
  exact ⟨host_of_keeps (·.msixEn) h hh fun _ => rfl, host_of_keeps (·.msiEn) h hh fun _ => rfl,
    host_of_keeps (·.msixMask) h hh fun _ => rfl, host_of_keeps (·.intxDis) h hh fun _ => rfl, host_of_keeps (·.bme) h hh fun _ => rfl⟩

section HoldOff

variable {c d : Die} (h : Keeps [.tb] c d)

include h

theorem intaOn_of_keeps : intaOn d = intaOn c := by
  obtain ⟨hx, hi, -, hd, -⟩ := signals_of_keeps h (by simp)
  simp only [intaOn, pcieLive_of_keeps h (by simp) (by simp) (by simp), hx, hi, hd]

theorem pcieOn_of_keeps : pcieOn d = pcieOn c := by
  obtain ⟨-, -, -, -, hb⟩ := signals_of_keeps h (by simp)
  simp only [pcieOn, pcieLive_of_keeps h (by simp) (by simp) (by simp), hb]

theorem cmplCan_of_keeps : cmplCan d = cmplCan c := by
  obtain ⟨hx, hi, -, -, -⟩ := signals_of_keeps h (by simp)
  have hregs : d.regs = c.regs := h .regs (by simp)
  simp only [cmplCan, intaOn_of_keeps h, pcieOn_of_keeps h, hx, hi, fld, getReg, hregs]

/-- With no bit newly pending, and the way interrupts are signalled the same, settling them shows a change of INTA alone. -/
theorem irqSettle_calm : irqSettle c d = if intaLevel d = intaLevel c ∨ !pcieLive d then d
    else updHost d fun h => { h with irqMsgs := h.irqMsgs ++ [if intaLevel d then 17 else 18] } := by
  have hcmpl : cmplSettle c d = d := by
    unfold cmplSettle
    extract_lets p enabled
    have hp : p = bitOf (irqPend c) 0 := by
      unfold p
      rw [irqPend_of_keeps h (by simp) (by simp)]
    have hen : enabled = false := by
      unfold enabled
      rw [hp]
      cases bitOf (irqPend c) 0 <;> rfl
    rw [if_neg (by simp [hen, intaOn_of_keeps h])]
  unfold irqSettle
  rw [if_pos (irqPend_of_keeps h (by simp) (by simp))]
  simp only [hcmpl]

end HoldOff

/-- A CMPL message, when no hold-off runs, is sent and starts one. -/
theorem cmplMsg_free {d : Die} (h : d.host.holdEnd = none) : (cmplMsg d).host.holdEnd =
    (if fld d Reg.HST_IRQ_HOLDOFF_HOLDOFF = 0 then none else some (d.tb.gt + 1000 * fld d Reg.HST_IRQ_HOLDOFF_HOLDOFF)) ∧
    (cmplMsg d).host.irqMsgs = (irqSend d [0]).host.irqMsgs ∧ (cmplMsg d).host.holdPend = d.host.holdPend := by
  obtain ⟨m, w, hs⟩ := irqSend_eq d [0]
  have hm : cmplMsg d = updHost (irqSend d [0]) fun h => { h with holdEnd :=
      (if fld d Reg.HST_IRQ_HOLDOFF_HOLDOFF = 0 then none else some (d.tb.gt + 1000 * fld d Reg.HST_IRQ_HOLDOFF_HOLDOFF)) } := by
    unfold cmplMsg
    rw [if_neg (by simp [h])]
  refine ⟨by rw [hm]; rfl, by rw [hm]; rfl, ?_⟩
  rw [hm, hs]
  rfl

theorem irqSend_msix {d : Die} (hon : pcieOn d = true) (hen : d.host.msixEn = true) (hmask : d.host.msixMask = false) :
    0 ∈ (irqSend d [0]).host.irqMsgs := by
  unfold irqSend
  simp [hon, hen, hmask, updHost]

theorem irqSend_msi {d : Die} (hon : pcieOn d = true) (hx : d.host.msixEn = false) (hen : d.host.msiEn = true) :
    16 ∈ (irqSend d [0]).host.irqMsgs := by
  unfold irqSend
  by_cases hc : 16 ∈ d.host.irqMsgs <;> simp [hon, hx, hen, hc, updHost]

theorem host_toGt (d : Die) (t : Nat) : (toGt d t).host = d.host := by
  unfold toGt
  split <;> rfl

/-- The hold-off has run out at `t`. -/
def holdoffOver (d : Die) (t : Nat) : Die := updHost (toGt d t) fun h => { h with holdEnd := none, holdPend := false }

theorem keeps_holdoffOver (d : Die) (t : Nat) : Keeps [.tb] d (holdoffOver d t) :=
  (keeps_toGt d t).trans fun p _ => same_withIrq p _ _ _ none false

theorem holdoffEnd_some {d : Die} {t : Nat} (h : d.host.holdEnd = some t) : holdoffEnd d =
    if d.host.holdPend && cmplCan (holdoffOver d t) then cmplMsg (holdoffOver d t) else holdoffOver d t := by
  unfold holdoffEnd
  simp only [h]
  rw [host_toGt]
  rfl

theorem irqSettle_holds {c d : Die} (h : Keeps [.tb] c d) : (irqSettle c d).host.holdEnd = d.host.holdEnd ∧
    (irqSettle c d).host.holdPend = d.host.holdPend ∧ ∀ m ∈ d.host.irqMsgs, m ∈ (irqSettle c d).host.irqMsgs := by
  rw [irqSettle_calm h]
  split
  · exact ⟨rfl, rfl, fun m hm => hm⟩
  · exact ⟨rfl, rfl, fun m hm => List.mem_append_left _ hm⟩

/-- With INTA, a pending CMPL whose hold-off has run out asserts it. -/
theorem irqSettle_inta {c d : Die} (h : Keeps [.tb] c d) (hon : intaOn c = true) (hpend : irqPend c = 1) (hold : c.host.holdPend = true)
    (hfree : d.host.holdPend = false) : 17 ∈ (irqSettle c d).host.irqMsgs := by
  have hlive : pcieLive d = true := by
    rw [pcieLive_of_keeps h (by simp) (by simp) (by simp)]
    unfold intaOn at hon
    simp only [Bool.and_eq_true] at hon
    exact hon.1.1.1
  have hbefore : intaLevel c = false := by
    unfold intaLevel
    rw [hpend, hold]
    cases intaOn c <;> rfl
  have hafter : intaLevel d = true := by
    unfold intaLevel
    rw [irqPend_of_keeps h (by simp) (by simp), intaOn_of_keeps h, hon, hpend, hfree]
    rfl
  rw [irqSettle_calm h, if_neg (by simp [hbefore, hafter, hlive])]
  exact List.mem_append_right _ (by simp [hafter])

theorem cmplCan_pcieOn {d : Die} (h : cmplCan d = true) (hm : d.host.msixEn = true ∨ d.host.msiEn = true) : pcieOn d = true := by
  unfold cmplCan at h
  rw [if_pos (by simpa using hm)] at h
  simp only [Bool.and_eq_true] at h
  exact h.2

theorem cmplCan_intaOn {d : Die} (h : cmplCan d = true) (hx : d.host.msixEn = false) (hi : d.host.msiEn = false) : intaOn d = true := by
  unfold cmplCan at h
  rw [if_neg (by simp [hx, hi])] at h
  simp only [Bool.and_eq_true] at h
  exact h.2

theorem ends_holdoffEnd {s : State} {e : Nat} (he : s.die.host.holdEnd = some e) : ends .irqHoldoffEnd s fun t =>
    t.die.tb.gt = max s.die.tb.gt e ∧ t.die.host.holdPend = false ∧
    (s.die.host.holdPend = true → cmplCan s.die = true →
      t.die.host.holdEnd = (if fld s.die Reg.HST_IRQ_HOLDOFF_HOLDOFF = 0 then none
        else some (max s.die.tb.gt e + 1000 * fld s.die Reg.HST_IRQ_HOLDOFF_HOLDOFF)) ∧
      (s.die.host.msixEn = true → s.die.host.msixMask = false → 0 ∈ t.die.host.irqMsgs) ∧
      (s.die.host.msixEn = false → s.die.host.msiEn = true → 16 ∈ t.die.host.irqMsgs) ∧
      (s.die.host.msixEn = false → s.die.host.msiEn = false → irqPend s.die = 1 → 17 ∈ t.die.host.irqMsgs)) ∧
    (s.die.host.holdPend = false → t.die.host.holdEnd = none) := by
  have hover : Keeps [.tb] s.die (holdoffOver (found s) e) := (keeps_found _ s).trans (keeps_holdoffOver _ e)
  have hend := holdoffEnd_some (d := found s) he
  have hgt : (holdoffOver (found s) e).tb.gt = max s.die.tb.gt e := (toGt_tb (found s) e).1
  have hfree : (holdoffOver (found s) e).host.holdEnd = none ∧ (holdoffOver (found s) e).host.holdPend = false := ⟨rfl, rfl⟩
  generalize holdoffOver (found s) e = x at hover hend hgt hfree
  obtain ⟨hnone, hnot⟩ := hfree
  obtain ⟨hsent, hmsgs, hpend⟩ := cmplMsg_free hnone
  have hmsg : Keeps [.tb] s.die (cmplMsg x) := hover.trans (keeps_cmplMsg _ x)
  have hall : ∃ y, holdoffEnd (found s) = y ∧ Keeps [.tb] s.die y ∧ y.tb.gt = max s.die.tb.gt e ∧ y.host.holdPend = false := by
    refine ⟨_, rfl, ?_⟩
    rw [hend]
    split
    · exact ⟨hmsg, by rw [keeps_cmplMsg [] x .tb (by simp), hgt], hpend.trans hnot⟩
    · exact ⟨hover, hgt, hnot⟩
  obtain ⟨y, hy, hky, hgty, hny⟩ := hall
  obtain ⟨hset, hsetp, hmore⟩ := irqSettle_holds hky
  refine ends_of_onDie (f := holdoffEnd) rfl ?_
  rw [hy]
  refine ⟨?_, hsetp.trans hny, fun hp hcan => ?_, fun hp => ?_⟩
  · show (irqSettle s.die y).tb.gt = _
    rw [keeps_irqSettle [] s.die y .tb (by simp), hgty]
  · have hym : y = cmplMsg x := by
      rw [← hy, hend, if_pos (by rw [cmplCan_of_keeps hover, hcan]; exact Bool.and_eq_true_iff.2 ⟨hp, rfl⟩)]
    obtain ⟨hx, hi, hmask, -, -⟩ := signals_of_keeps hover (by simp)
    have hregs : x.regs = s.die.regs := hover .regs (by simp)
    refine ⟨?_, fun h1 h2 => hmore _ ?_, fun h1 h2 => hmore _ ?_, fun h1 h2 h3 =>
      irqSettle_inta hky (cmplCan_intaOn hcan h1 h2) h3 hp hny⟩
    · refine hset.trans ?_
      rw [hym, hsent, hgt, fld_congr (f := Reg.HST_IRQ_HOLDOFF_HOLDOFF) (c := s.die) (by rw [getReg, hregs, getReg])]
    · rw [hym, hmsgs]
      exact irqSend_msix ((pcieOn_of_keeps hover).trans (cmplCan_pcieOn hcan (.inl h1))) (hx.trans h1) (hmask.trans h2)
    · rw [hym, hmsgs]
      exact irqSend_msi ((pcieOn_of_keeps hover).trans (cmplCan_pcieOn hcan (.inr h2))) (hx.trans h1) (hi.trans h2)
  · have hyx : y = x := by
      rw [← hy, hend, if_neg (by rw [show (found s).host.holdPend = false from hp]; simp)]
    exact hset.trans (hyx ▸ hnone)

/-! PERST (R375, R394). -/

/-- With the PCIe link go the ring, what waits on it, and the configuration. -/
def linkGone (d : Die) : Die :=
  updHost (updTrk (setFld d Reg.HST_CRING_CTL_EN 0) fun t => { t with held := [] }) fun h =>
    { h with cfg := [], bme := false, pmD3 := false, msiEn := false, msixEn := false, msixMask := false, msixWait := [],
             intxDis := false, perst := true, delivered := h.delivered.filter fun x => !x.2.2 }

theorem ends_perstLow (s : State) : ends (.perst true) s fun t => flag t.die Reg.HST_CRING_CTL_EN = false ∧ t.die.host.cfg = [] ∧
    t.die.host.bme = false ∧ t.die.host.perst = true ∧ t.die.trk.held = [] ∧ regsBut (· = Reg.HST_CRING_CTL) s t ∧
    keepsBut [.regs, .trk, .host] s t := by
  have hk : Keeps [] (linkGone (found s)) (irqSettle s.die (linkGone (found s))) := keeps_irqSettle _ _ _
  refine ends_of_onDie (f := linkGone) (i := .perst true) rfl ⟨?_, host_of_keeps (·.cfg) hk (by simp) fun _ => rfl,
    host_of_keeps (·.bme) hk (by simp) fun _ => rfl, host_of_keeps (·.perst) hk (by simp) fun _ => rfl, ?_,
    regsBut_command fun off hoff => getReg_setFld_ne (found s) Reg.HST_CRING_CTL_EN 0 hoff, keepsBut_command (by simp [linkGone])⟩
  · rw [flag_irqSettle]
    exact flag_putFlag_same (found s) Reg.HST_CRING_CTL_EN false (by decide) rfl
  · exact congrArg Trunk.held (trk_irqSettle _ _)

/-- The link may train: configuration requests are answered from here on. -/
def linkBack (d : Die) : Die := updHost d fun h => { h with perst := false, cfgReady := max 20000000 (d.tb.gt + 1000000) }

theorem ends_perstHigh {s : State} (h : s.die.host.perst = true) : ends (.perst false) s fun t => t.die.host.perst = false ∧
    t.die.host.cfgReady = max 20000000 (s.die.tb.gt + 1000000) ∧ keepsBut [.host] s t := by
  have hk : Keeps [] (linkBack (found s)) (irqSettle s.die (linkBack (found s))) := keeps_irqSettle _ _ _
  have hpin : perstPin (found s) false = linkBack (found s) := by
    unfold perstPin
    rw [if_neg (by simp), if_pos (show (found s).host.perst = true from h)]
    rfl
  refine ends_of_onDie (f := (perstPin · false)) rfl ?_
  rw [hpin]
  have hready : (irqSettle s.die (linkBack (found s))).host.cfgReady = (linkBack (found s)).host.cfgReady :=
    host_of_keeps (·.cfgReady) hk (by simp) fun _ => rfl
  exact ⟨host_of_keeps (·.perst) hk (by simp) fun _ => rfl, hready.trans rfl,
    keepsBut_command (by simp [linkBack])⟩

/-! The fuse (R413). -/

/-- The burn has ended, and the fuse is blown or as it was. -/
def burnNoted (d : Die) (blown : Bool) : Die :=
  updBoot (complete d d.boot.burnTicket (if blown then 0 else 1) 0 0) fun b => { b with burnTicket := 0, blown := b.blown || blown }

theorem burnNoted_boot (d : Die) (blown : Bool) : (burnNoted d blown).boot.blown = (d.boot.blown || blown) ∧
    (burnNoted d blown).boot.burnTicket = 0 := by
  have h : (complete d d.boot.burnTicket (if blown then 0 else 1) 0 0).boot = d.boot :=
    (told_complete d d.boot.burnTicket (if blown then 0 else 1) 0 0).parts .boot (by simp)
  exact ⟨by rw [burnNoted]; show ((complete _ _ _ _ _).boot.blown || blown) = _; rw [h], rfl⟩

theorem burnDone_eq {d : Die} (h : d.boot.burnTicket ≠ 0) (blown : Bool) : burnDone d blown =
    logEvt (if blown then setFlag (debugDetach (burnNoted d blown)) Reg.LOG_DBG_DBGOFF else burnNoted d blown) 0 7 1 1
      (if blown then 0 else 1) 0 := by
  unfold burnDone burnNoted
  simp only [if_neg h]

theorem not_logReg_dbg : ¬ logReg Reg.LOG_DBG := by
  unfold logReg
  decide

theorem ends_burned {s : State} (h : s.die.boot.burnTicket ≠ 0) : ends (.fuseBurnDone true) s fun t => t.die.boot.blown = true ∧
    t.die.boot.burnTicket = 0 ∧ flag t.die Reg.LOG_DBG_DBGOFF = true ∧ flag t.die Reg.LOG_DBG_ATTACHED = false := by
  obtain ⟨hblown, hticket⟩ := burnNoted_boot (found s) true
  have hdone := burnDone_eq (d := found s) h true
  rw [if_pos rfl, if_pos rfl] at hdone
  generalize burnNoted (found s) true = x at hblown hticket hdone
  have htold := told_logEvt (setFlag (debugDetach x) Reg.LOG_DBG_DBGOFF) 0 7 1 1 0 0
  rw [← hdone] at htold
  have hboot : (irqSettle s.die (burnDone (found s) true)).boot = x.boot :=
    (keeps_irqSettle [] s.die _ .boot (by simp)).trans (htold.parts .boot (by simp))
  refine ends_of_onDie (f := (burnDone · true)) rfl ⟨?_, (congrArg Boot.burnTicket hboot).trans hticket, ?_, ?_⟩
  · refine (congrArg Boot.blown hboot).trans (hblown.trans ?_)
    simp
  · rw [flag_irqSettle, flag_of_leaves htold.regs _ not_logReg_dbg]
    exact flag_setFlag_same _ Reg.LOG_DBG_DBGOFF (by decide) rfl
  · rw [flag_irqSettle, flag_of_leaves htold.regs _ not_logReg_dbg]
    rw [flag, show fld (setFlag (debugDetach x) Reg.LOG_DBG_DBGOFF) Reg.LOG_DBG_ATTACHED = fld (debugDetach x) Reg.LOG_DBG_ATTACHED from
      fld_setFld_above _ _ _ _ rfl (by decide) (by decide), ← flag]
    exact flag_putFlag_same x Reg.LOG_DBG_ATTACHED false (by decide) rfl

theorem ends_notBurned {s : State} (h : s.die.boot.burnTicket ≠ 0) : ends (.fuseBurnDone false) s fun t =>
    t.die.boot.blown = s.die.boot.blown ∧ t.die.boot.burnTicket = 0 := by
  obtain ⟨hblown, hticket⟩ := burnNoted_boot (found s) false
  have hdone := burnDone_eq (d := found s) h false
  rw [if_neg nofun, if_neg nofun] at hdone
  generalize burnNoted (found s) false = x at hblown hticket hdone
  have htold := told_logEvt x 0 7 1 1 1 0
  rw [← hdone] at htold
  have hboot : (irqSettle s.die (burnDone (found s) false)).boot = x.boot :=
    (keeps_irqSettle [] s.die _ .boot (by simp)).trans (htold.parts .boot (by simp))
  refine ends_of_onDie (f := (burnDone · false)) rfl ⟨?_, (congrArg Boot.burnTicket hboot).trans hticket⟩
  refine (congrArg Boot.blown hboot).trans (hblown.trans ?_)
  exact Bool.or_false _

theorem ends_armExpiry {s : State} {e : Nat} (he : s.die.boot.armUntil = some e) : ends .fuseArmExpiry s fun t =>
    flag t.die Reg.LOG_DBG_ARMED = false ∧ t.die.boot.armCode = 0 ∧ t.die.boot.armUntil = none ∧
    t.die.tb.gt = max s.die.tb.gt e ∧ regsBut (· = Reg.LOG_DBG) s t ∧ keepsBut [.regs, .tb, .boot] s t := by
  have hexp : armExpiry (found s) = fuseVoid (toGt (found s) e) := by
    have hb : (found s).boot.armUntil = some e := he
    unfold armExpiry
    simp only [hb]
  have hgt := (toGt_tb (found s) e).1
  have hregs : ∀ off, getReg (toGt (found s) e) off = getReg (found s) off := getReg_toGt _ _
  have hk := keeps_toGt (found s) e
  refine ends_of_onDie (f := armExpiry) rfl ?_
  rw [hexp]
  generalize toGt (found s) e = x at hgt hregs hk
  have hboot : (irqSettle s.die (fuseVoid x)).boot = (fuseVoid x).boot := keeps_irqSettle [] s.die _ .boot (by simp)
  refine ⟨?_, congrArg Boot.armCode hboot, congrArg Boot.armUntil hboot, ?_, regsBut_command fun off hoff => ?_, keepsBut_command ?_⟩
  · rw [flag_irqSettle]
    exact flag_putFlag_same x Reg.LOG_DBG_ARMED false (by decide) rfl
  · refine (congrArg Timebase.gt (keeps_irqSettle [] s.die (fuseVoid x) .tb (by simp))).trans ?_
    exact hgt
  · exact (getReg_setFld_ne x Reg.LOG_DBG_ARMED 0 hoff).trans (hregs off)
  · exact (hk.mono (by simp)).trans (by simp [fuseVoid])

/-- Settles O27, event by event: no step of a serial queue takes a command back, and an entry goes where the ring's enable says. -/
theorem mailboxEvents : Obligations.MailboxEvents := by
  unfold Obligations.MailboxEvents
  exact ⟨fun s q fl c hq hnop hc hs => ends_commandStart hq hnop hc hs,
    fun s c hnop hc hm hen hroom => ends_completionFifo hnop hc hm hen hroom,
    fun s c hnop hc hm hroom hsize => ends_completionRing hnop hc hm hroom hsize,
    fun s e he => ends_holdoffEnd he, ends_perstLow, fun s h => ends_perstHigh h,
    fun s h => ⟨ends_burned h, ends_notBurned h⟩, fun s e he => ends_armExpiry he⟩

end Sys2Proof.Machine
end

section
/-! PROOFS. A command of a serial queue is accepted and starts (R344 to R348). -/

namespace Sys2Proof.Machine

open Sys2Proof

/-! The descriptor as the mailbox holds it (R344). -/

/-- A descriptor word goes to its register. -/
def descPut (d : Die) (x : Nat × Nat) : Die := putReg d (Reg.HST_CMD_DESC (x.2 % 16)) (BitVec.ofNat 32 x.1)

theorem mailed_eq (s : State) (ws : List Nat) : mailed s ws = ws.zipIdx.foldl descPut (found s) := rfl

theorem descPut_ne (d : Die) {w n j : Nat} (hn : n < 16) (hne : n ≠ j) :
    getReg (descPut d (w, n)) (Reg.HST_CMD_DESC j) = getReg d (Reg.HST_CMD_DESC j) := by
  refine getReg_putReg_ne _ _ ?_
  show 0xC0000 + j * 4 ≠ 0xC0000 + n % 16 * 4
  omega

theorem getReg_descPuts_before (ws : List Nat) {n j : Nat} (d : Die) (hj : j < n) (hn : n + ws.length ≤ 16) :
    getReg ((ws.zipIdx n).foldl descPut d) (Reg.HST_CMD_DESC j) = getReg d (Reg.HST_CMD_DESC j) := by
  induction ws generalizing n d with
  | nil => rfl
  | cons w ws ih =>
    rw [List.length_cons] at hn
    rw [List.zipIdx_cons, List.foldl_cons, ih _ (by omega) (by omega), descPut_ne _ (by omega) (by omega)]

theorem getReg_descPuts (ws : List Nat) {n i : Nat} (d : Die) (hi : i < ws.length) (hn : n + ws.length ≤ 16) :
    getReg ((ws.zipIdx n).foldl descPut d) (Reg.HST_CMD_DESC (n + i)) = BitVec.ofNat 32 ws[i] := by
  induction ws generalizing n d i with
  | nil => exact absurd hi (Nat.not_lt_zero i)
  | cons w ws ih =>
    rw [List.length_cons] at hn
    rw [List.zipIdx_cons, List.foldl_cons]
    cases i with
    | zero =>
      rw [Nat.add_zero, getReg_descPuts_before ws _ (by omega) (by omega), descPut]
      dsimp only
      rw [Nat.mod_eq_of_lt (by omega : n < 16), Nat.add_zero, getReg_putReg_same]
      rfl
    | succ i =>
      rw [List.length_cons] at hi
      have h := ih (n := n + 1) (i := i) (descPut d (w, n)) (by omega) (by omega)
      rw [show n + (i + 1) = n + 1 + i by omega, h]
      rfl

/-- A descriptor reads back as it was written. -/
theorem descWords_mailed (s : State) {ws : List Nat} (hlen : ws.length ≤ 16) (hw : ∀ w ∈ ws, w < 2 ^ 32) :
    (descWords (mailed s ws)).take ws.length = ws := by
  have hlen' : (descWords (mailed s ws)).length = 16 := by simp [descWords, upto]
  refine List.ext_getElem (by rw [List.length_take, hlen', Nat.min_eq_left hlen]) fun i h1 h2 => ?_
  have hreg := getReg_descPuts ws (n := 0) (i := i) (found s) h2 (by omega)
  rw [Nat.zero_add] at hreg
  simp only [List.getElem_take, descWords, upto, List.getElem_map, List.getElem_range, mailed_eq, hreg, BitVec.toNat_ofNat]
  exact Nat.mod_eq_of_lt (hw _ (List.getElem_mem h2))

theorem nth_take_zero (l : List Nat) (n : Nat) : nth (l.take (n + 1)) 0 = nth l 0 := by
  cases l <;> rfl

/-- The mailbox and the register that holds NEXT. -/
def mailReg (off : Nat) : Prop := off = Reg.HST_STAT ∨ 0xC0000 ≤ off

theorem leaves_mailed (s : State) (ws : List Nat) : Leaves (0xC0000 ≤ ·) (found s) (mailed s ws) := by
  rw [mailed_eq]
  refine Leaves.foldl (fun e x _ off hoff => ?_) (found s)
  refine getReg_putReg_ne _ _ ?_
  show off ≠ 0xC0000 + x.2 % 16 * 4
  omega

theorem keeps_mailed (s : State) (ws : List Nat) : Keeps [.regs] (found s) (mailed s ws) :=
  Keeps.foldl (fun e x => (keeps_putReg _ _ (by simp) _ _).2 (.refl _ e)) ws.zipIdx (found s)

/-! The ticket and its entry (R345, R346). -/

/-- A descriptor of a serial queue as an outstanding command. -/
def serialCmd (k op : Nat) (user : BitVec 16) (ws : List Nat) (q : Nat) : Cmd :=
  { ticket := k, op := op, user := user.toNat, q := q, words := descOf op user ws, started := false, done := false, status := 0,
    r0 := 0, r1 := 0 }

/-- NEXT moves on to `n`, CMD_RESULT shows `v`, and the command is outstanding. -/
def ticketPut (d : Die) (n : Nat) (v : Word) (c : Cmd) : Die :=
  updHost (putReg (setFld d Reg.HST_STAT_NEXT n) Reg.HST_CMD_RESULT v) fun h => { h with cmds := h.cmds ++ [c] }

/-- The ticket after `k`. -/
def ticketAfter (k : Nat) : Nat := if k = 0xFFFF then 1 else k + 1

/-- A command takes its ticket. -/
def ticketTaken (d : Die) (c : Cmd) : Die := ticketPut d (ticketAfter c.ticket) (BitVec.ofNat 32 (c.ticket + 2 ^ 24)) c

/-- What the acceptance itself does: a session opens, or the arm is void. -/
def opener (op : Nat) (w : List Nat) (d : Die) : Die :=
  if op = 0x20 then sessionOpen d w else if op = 0x41 ∨ op = 0x42 then fuseVoid d else d

/-- Word 0 of a descriptor reads back as its opcode, length and USER. -/
theorem descOf_head {op n : Nat} (user : BitVec 16) (hop : op < 256) (hn : n < 16) :
    op + 256 * (4 * (1 + n)) + 65536 * user.toNat < 2 ^ 32 ∧ (op + 256 * (4 * (1 + n)) + 65536 * user.toNat) % 256 = op ∧
    bitsOf (op + 256 * (4 * (1 + n)) + 65536 * user.toNat) 8 8 = 4 * (1 + n) ∧
    (op + 256 * (4 * (1 + n)) + 65536 * user.toNat) / 65536 = user.toNat := by
  have hu : user.toNat < 65536 := user.isLt
  rw [bitsOf_eq]
  omega

section Descriptor

variable {s : State} {op : Nat} {user : BitVec 16} {ws : List Nat} (hop : op < 256) (hlen : ws.length < 16) (hw : ∀ w ∈ ws, w < 2 ^ 32)

include hop hlen hw

/-- What CMD_GO reads of the descriptor: its word 0, and its words. -/
theorem descOf_read : nth (descWords (mailed s (descOf op user ws))) 0 = op + 256 * (4 * (1 + ws.length)) + 65536 * user.toNat ∧
    (descWords (mailed s (descOf op user ws))).take (4 * (1 + ws.length) / 4) = descOf op user ws := by
  obtain ⟨hlt, -, -, -⟩ := descOf_head user hop hlen
  have hback := descWords_mailed s (ws := descOf op user ws) (by simp only [descOf, List.length_cons]; omega) (by
    intro w hmem
    obtain rfl | hmem := List.mem_cons.1 hmem
    · exact hlt
    · exact hw w hmem)
  rw [show (descOf op user ws).length = ws.length + 1 by simp only [descOf, List.length_cons]] at hback
  refine ⟨?_, ?_⟩
  · rw [← nth_take_zero _ ws.length, hback, descOf, nth, List.getD_cons_zero]
  · rw [Nat.mul_div_cancel_left _ (by decide), Nat.add_comm, hback]

/-- A command that no check of R345 rejects meets its conditions. -/
theorem judged_ok (ht : takes s (descOf op user ws)) : cmdOk (mailed s (descOf op user ws)) op (descOf op user ws) = true := by
  obtain ⟨-, hop', hlen', -⟩ := descOf_head user hop hlen
  obtain ⟨hhead, hcut⟩ := descOf_read (s := s) (user := user) hop hlen hw
  obtain ⟨-, hjudge⟩ := ht
  generalize mailed s (descOf op user ws) = d at *
  unfold judgeCmd at hjudge
  simp only [hhead, hop', hlen', hcut] at hjudge
  by_contra hbad
  rw [Bool.not_eq_true] at hbad
  repeat' split at hjudge
  all_goals simp_all

theorem submit_serial {q : Nat} (ht : takes s (descOf op user ws)) (hq : cmdQueue op (nth (descOf op user ws) 1) = q) (hodd : q % 2 = 1) :
    submit (mailed s (descOf op user ws)) (descWords (mailed s (descOf op user ws))) =
      settleNops (opener op (descOf op user ws)
        (ticketTaken (mailed s (descOf op user ws)) (serialCmd (nextTicket s) op user ws q))) := by
  obtain ⟨-, hop', hlen', huser⟩ := descOf_head user hop hlen
  obtain ⟨hhead, hcut⟩ := descOf_read (s := s) (user := user) hop hlen hw
  have hnext : fld (mailed s (descOf op user ws)) Reg.HST_STAT_NEXT = nextTicket s :=
    fld_of_leaves (leaves_mailed s _) Reg.HST_STAT_NEXT (by decide)
  obtain ⟨-, hjudge⟩ := ht
  generalize mailed s (descOf op user ws) = d at *
  unfold submit
  rw [if_neg (by simp [hjudge])]
  simp only [hhead, hop', hlen', hcut, huser, hnext, hq]
  have hnow : (q == 0 || q == 2) = false := by
    simp only [Bool.or_eq_false_iff, beq_eq_false_iff_ne]
    omega
  simp only [hnow]
  rw [if_neg nofun]
  unfold opener ticketTaken ticketPut ticketAfter serialCmd
  rfl

end Descriptor

/-! The entry of one command among the commands of the mailbox. -/

/-- The command is in the mailbox, and no other has its ticket. -/
structure Holds (d : Die) (c : Cmd) : Prop where
  mem : c ∈ d.host.cmds
  only : ∀ y ∈ d.host.cmds, y.ticket = c.ticket → y = c

theorem Holds.of_eq {d e : Die} {c : Cmd} (h : Holds d c) (he : e.host.cmds = d.host.cmds) : Holds e c := by
  obtain ⟨hmem, honly⟩ := h
  rw [← he] at hmem honly
  exact ⟨hmem, honly⟩

theorem Holds.of_keeps {ps : List Part} {d e : Die} {c : Cmd} (h : Holds d c) (hk : Keeps ps d e) (hh : .host ∉ ps) : Holds e c :=
  h.of_eq (cmds_of_keeps hk hh)

theorem Holds.updCmds {d : Die} {c : Cmd} (h : Holds d c) {p : Cmd → Bool} {f : Cmd → Cmd} (hf : ∀ x, (f x).ticket = x.ticket) :
    Holds (updCmds d p f) (if p c then f c else c) := by
  have hticket : ∀ x, (if p x then f x else x).ticket = x.ticket := fun x => by
    split
    · exact hf x
    · rfl
  refine ⟨List.mem_map.2 ⟨c, h.mem, rfl⟩, fun y hy hyc => ?_⟩
  obtain ⟨x, hx, rfl⟩ := List.mem_map.1 hy
  obtain rfl := h.only x hx (by rw [← hticket x, hyc, hticket])
  rfl

theorem Holds.markStarted {d : Die} {c : Cmd} (h : Holds d c) (hdone : c.done = false) :
    Holds (markStarted d c.ticket) { c with started := true } := by
  have hm := h.updCmds (p := fun x => x.ticket == c.ticket && !x.done) (f := fun x => { x with started := true }) fun _ => rfl
  rwa [if_pos (by simp [hdone])] at hm

/-- A command as it is once it has finished. -/
def Cmd.ended (c : Cmd) (status r0 r1 : Nat) : Cmd := { c with started := true, done := true, status := status, r0 := r0, r1 := r1 }

theorem Holds.complete {d : Die} {c : Cmd} (h : Holds d c) (hdone : c.done = false) (hk : c.ticket ≠ 0) (status r0 r1 : Nat) :
    Holds (complete d c.ticket status r0 r1) (c.ended status r0 r1) := by
  have hm := h.updCmds (p := fun x => x.ticket == c.ticket && !x.done)
    (f := fun x => { x with started := true, done := true, status := status, r0 := r0, r1 := r1 }) fun _ => rfl
  rw [if_pos (by simp [hdone])] at hm
  unfold Machine.complete
  rw [if_neg hk]
  exact hm

/-- The end of a command that is done, or of another, leaves the entry. -/
theorem Holds.complete_other {d : Die} {c : Cmd} (h : Holds d c) {t : Nat} (ht : t ≠ c.ticket ∨ c.done = true) (status r0 r1 : Nat) :
    Holds (Machine.complete d t status r0 r1) c := by
  have hm := h.updCmds (p := fun x => x.ticket == t && !x.done)
    (f := fun x => { x with started := true, done := true, status := status, r0 := r0, r1 := r1 }) fun _ => rfl
  rw [if_neg (by
    obtain ht | hd := ht
    · simp [Ne.symm ht]
    · simp [hd])] at hm
  unfold Machine.complete
  split
  · exact h
  · exact hm

theorem holds_nopSteps {c : Cmd} (l : List Cmd) (hl : ∀ y ∈ l, y.op = 1 → y.ticket ≠ c.ticket) (r : Die × List Cmd) (h : Holds r.1 c) :
    Holds (l.foldl nopStep r).1 c := by
  induction l generalizing r with
  | nil => exact h
  | cons y l ih =>
    refine ih (fun z hz => hl z (by simp [hz])) (nopStep r y) ?_
    unfold nopStep
    split
    next hnop =>
      have hop : y.op = 1 := by
        simp only [Bool.and_eq_true, beq_iff_eq] at hnop
        exact hnop.1.1
      exact h.complete_other (.inl (hl y (by simp) hop)) 0 0 0
    next => exact h

theorem Holds.settleNops {d : Die} {c : Cmd} (h : Holds d c) (hop : c.op ≠ 1) : Holds (settleNops d) c :=
  holds_nopSteps d.host.cmds (fun y hy hy1 ht => hop (h.only y hy ht ▸ hy1)) (d, []) h

/-! The command starts (R347). -/

theorem find_of_only {α : Type} {l : List α} {p : α → Bool} {a : α} (ha : a ∈ l) (hp : p a = true) (honly : ∀ x ∈ l, p x = true → x = a) :
    l.find? p = some a := by
  obtain ⟨x, hx⟩ := Option.isSome_iff_exists.1 (List.find?_isSome.2 ⟨a, ha, hp⟩)
  rw [hx, honly x (List.mem_of_find?_eq_some hx) (List.find?_some hx)]

/-- With nothing of its queue before it, the new command is the next of its queue. -/
theorem serialNext_new {s : State} {b x : Die} {c : Cmd} (hcmds : b.host.cmds = s.die.host.cmds ++ [c]) (hfree : queueFree s c.q)
    (hon : CmdsOn b x) (h : Holds x c) (hdone : c.done = false) (hs : c.started = false) : serialNext x c.q = some c := by
  refine serialNext_unstarted (find_of_only h.mem (by simp [hdone]) fun y hy hp => ?_) hs
  simp only [Bool.and_eq_true, beq_iff_eq, Bool.not_eq_true'] at hp
  obtain ⟨hq, hnot⟩ := hp
  obtain ⟨f, hf, hon⟩ := hon
  rw [hf, hcmds] at hy
  obtain ⟨y0, hy0, rfl⟩ := List.mem_map.1 hy
  obtain hold | hnew := List.mem_append.1 hy0
  · have hd : y0.done = true := hfree y0 hold ((hon y0).q ▸ hq)
    rw [(hon y0).done hd] at hnot
    rw [hd] at hnot
    exact nomatch hnot
  · obtain rfl := List.mem_singleton.1 hnew
    exact h.only _ (by rw [hf, hcmds]; exact hy) (hon y0).ticket

theorem leaves_setFld_both {p : Nat → Prop} {c d : Die} (h : Leaves p c d) {f : Fld} (hf : ¬ p f.off) (v : Nat) :
    Leaves p (setFld c f v) (setFld d f v) := by
  intro off hoff
  by_cases he : off = f.off
  · subst he
    rw [setFld, setFld, getReg_putReg_same, getReg_putReg_same, h f.off hf]
  · rw [getReg_setFld_ne _ _ _ he, getReg_setFld_ne _ _ _ he, h off hoff]

theorem leaves_opener {c d : Die} (h : Leaves mailReg c d) (op : Nat) (w : List Nat) : Leaves mailReg (opener op w c) (opener op w d) := by
  unfold opener
  split
  · exact leaves_setFld_both h (f := Reg.GLB_BOOT_STAT_SESSION) (by unfold mailReg; decide) 1
  · split
    · exact leaves_setFld_both h (f := Reg.LOG_DBG_ARMED) (by unfold mailReg; decide) 0
    · exact h

theorem keeps_opener (op : Nat) (w : List Nat) (d : Die) : Keeps [.regs, .boot] d (opener op w d) := by
  unfold opener
  split
  · simp [sessionOpen]
  · split <;> simp [fuseVoid]

theorem boot_opener {c d : Die} (h : d.boot = c.boot) (op : Nat) (w : List Nat) : (opener op w d).boot = (opener op w c).boot := by
  unfold opener sessionOpen fuseVoid
  split
  · exact congrArg (fun b : Boot => { b with len := nth w 1, crc := nth w 2, written := [] }) h
  · split
    · exact congrArg (fun b : Boot => { b with armCode := 0, armTicket := 0, armUntil := none }) h
    · exact h

/-- The part as a command of a serial queue finds it when it starts in the command that brings it. -/
structure Starting (s : State) (c : Cmd) (m : Die) : Prop where
  holds : Holds m { c with started := true }
  result : getReg m Reg.HST_CMD_RESULT = BitVec.ofNat 32 (c.ticket + 2 ^ 24)
  next : fld m Reg.HST_STAT_NEXT = ticketAfter c.ticket
  leaves : Leaves mailReg (opener c.op c.words (found s)) m
  boot : m.boot = (opener c.op c.words (found s)).boot
  keeps : Keeps [.regs, .host, .boot] s.die m

/-- The part once the command has its ticket and has done what its acceptance does. -/
def takenIn (s : State) (c : Cmd) : Die := opener c.op c.words (ticketTaken (mailed s c.words) c)

theorem cmds_ticketPut (d : Die) (n : Nat) (v : Word) (c : Cmd) : (ticketPut d n v c).host.cmds = d.host.cmds ++ [c] := rfl

theorem cmds_takenIn (s : State) (c : Cmd) : (takenIn s c).host.cmds = s.die.host.cmds ++ [c] := by
  have h : (mailed s c.words).host.cmds = s.die.host.cmds := cmds_of_keeps (keeps_mailed s c.words) (by simp)
  rw [takenIn, cmds_of_keeps (keeps_opener c.op c.words _) (by simp), ticketTaken, cmds_ticketPut, h]

theorem leaves_ticketPut (d : Die) (n : Nat) (v : Word) (c : Cmd) : Leaves mailReg d (ticketPut d n v c) :=
  (leaves_updHost _ _ _).2 ((leaves_putReg (p := mailReg) _ _ (by unfold mailReg; decide) _).2
    ((leaves_setFld (p := mailReg) _ _ (f := Reg.HST_STAT_NEXT) (by unfold mailReg; decide) _).2 (.refl _ d)))

theorem leaves_takenIn (s : State) (c : Cmd) : Leaves mailReg (opener c.op c.words (found s)) (takenIn s c) :=
  leaves_opener (((leaves_mailed s c.words).mono fun _ => .inr).trans (leaves_ticketPut _ _ _ c)) c.op c.words

theorem boot_ticketPut (d : Die) (n : Nat) (v : Word) (c : Cmd) : (ticketPut d n v c).boot = d.boot := by
  have h : Keeps [.regs, .host] d (ticketPut d n v c) := by simp [ticketPut]
  exact h .boot (by simp)

theorem boot_takenIn (s : State) (c : Cmd) : (takenIn s c).boot = (opener c.op c.words (found s)).boot := by
  refine boot_opener ?_ c.op c.words
  have h : (mailed s c.words).boot = (found s).boot := keeps_mailed s c.words .boot (by simp)
  rw [ticketTaken]
  exact (boot_ticketPut _ _ _ c).trans h

theorem keeps_takenIn (s : State) (c : Cmd) : Keeps [.regs, .host, .boot] s.die (takenIn s c) := by
  have h : Keeps [.regs, .host, .boot] (mailed s c.words) (ticketTaken (mailed s c.words) c) := by simp [ticketTaken, ticketPut]
  exact (((keeps_found _ s).trans ((keeps_mailed s c.words).mono (by simp))).trans h).trans ((keeps_opener c.op c.words _).mono (by simp))

theorem getReg_opener (op : Nat) (w : List Nat) (d : Die) {off : Nat} (h1 : off ≠ Reg.GLB_BOOT_STAT) (h2 : off ≠ Reg.LOG_DBG) :
    getReg (opener op w d) off = getReg d off := by
  unfold opener
  split
  · exact getReg_setFld_ne d Reg.GLB_BOOT_STAT_SESSION 1 h1
  · split
    · exact getReg_setFld_ne d Reg.LOG_DBG_ARMED 0 h2
    · rfl

theorem result_ticketPut (d : Die) (n : Nat) (v : Word) (c : Cmd) : getReg (ticketPut d n v c) Reg.HST_CMD_RESULT = v := by
  rw [ticketPut, getReg_updHost, getReg_putReg_same]

theorem next_ticketPut (d : Die) (n : Nat) (v : Word) (c : Cmd) : fld (ticketPut d n v c) Reg.HST_STAT_NEXT = n % 2 ^ 16 := by
  rw [ticketPut, fld_congr (getReg_updHost _ _ _), fld_putReg_ne _ Reg.HST_STAT_NEXT v (by decide),
    fld_setFld_same d Reg.HST_STAT_NEXT n (by decide)]
  rfl

theorem result_takenIn (s : State) (c : Cmd) : getReg (takenIn s c) Reg.HST_CMD_RESULT = BitVec.ofNat 32 (c.ticket + 2 ^ 24) := by
  rw [takenIn, getReg_opener _ _ _ (by decide) (by decide), ticketTaken, result_ticketPut]

theorem ticketAfter_lt {k : Nat} (h : k < 2 ^ 16) : ticketAfter k < 2 ^ 16 := by
  unfold ticketAfter
  split <;> omega

theorem next_takenIn {s : State} {c : Cmd} (hlt : c.ticket < 2 ^ 16) : fld (takenIn s c) Reg.HST_STAT_NEXT = ticketAfter c.ticket := by
  rw [takenIn, fld_congr (getReg_opener _ _ _ (by decide) (by decide)), ticketTaken, next_ticketPut, Nat.mod_eq_of_lt (ticketAfter_lt hlt)]

theorem holds_takenIn {s : State} {c : Cmd} (hk : c.ticket = nextTicket s) (hnew : ∀ x ∈ s.die.host.cmds, x.ticket ≠ nextTicket s) :
    Holds (takenIn s c) c := by
  refine ⟨by rw [cmds_takenIn]; simp, fun y hy hyc => ?_⟩
  rw [cmds_takenIn] at hy
  obtain hold | hlast := List.mem_append.1 hy
  · exact absurd (hyc.trans hk) (hnew y hold)
  · exact List.mem_singleton.1 hlast

/-- The command as it starts: the NOPs before it are settled, and it is marked. -/
def startedIn (s : State) (c : Cmd) : Die := markStarted (settleNops (settleNops (takenIn s c))) c.ticket

theorem nextTicket_lt (s : State) : nextTicket s < 2 ^ 16 := bitsOf_lt _ _ _

theorem starting (s : State) (c : Cmd) (hc : c.started = false ∧ c.done = false ∧ c.op ≠ 1) (hk : c.ticket = nextTicket s)
    (hnew : ∀ x ∈ s.die.host.cmds, x.ticket ≠ nextTicket s) : Starting s c (startedIn s c) := by
  obtain ⟨-, hdone, hop⟩ := hc
  have hkeep : Keeps [.host] (takenIn s c) (startedIn s c) :=
    ((keeps_settleNops _).trans (keeps_settleNops _)).trans ((keeps_updCmds _ _ (by simp) _ _).2 (.refl _ _))
  have hregs : (startedIn s c).regs = (takenIn s c).regs := hkeep .regs (by simp)
  have hreg : ∀ off, getReg (startedIn s c) off = getReg (takenIn s c) off := fun off => by rw [getReg, hregs, getReg]
  have hlt : c.ticket < 2 ^ 16 := hk ▸ nextTicket_lt s
  exact {
    holds := (((holds_takenIn hk hnew).settleNops hop).settleNops hop).markStarted hdone
    result := (hreg _).trans (result_takenIn s c)
    next := (fld_congr (hreg _)).trans (next_takenIn hlt)
    leaves := fun off hoff => (hreg off).trans (leaves_takenIn s c off hoff)
    boot := (hkeep .boot (by simp)).trans (boot_takenIn s c)
    keeps := (keeps_takenIn s c).trans (hkeep.mono (by simp)) }

/-- A command of a serial queue that is accepted, with nothing of its queue before it, runs at once. -/
theorem sendSerial_runs {s : State} {op : Nat} {user : BitVec 16} {ws : List Nat} {q : Nat} (ht : takes s (descOf op user ws))
    (hop : op < 256) (hlen : ws.length < 16) (hw : ∀ w ∈ ws, w < 2 ^ 32) (hq : cmdQueue op (nth (descOf op user ws) 1) = q) (hodd : q % 2 = 1)
    (hnop : op ≠ 1) (hfree : queueFree s q) (hnew : ∀ x ∈ s.die.host.cmds, x.ticket ≠ nextTicket s)
    (hstill : ∀ m, Starting s (serialCmd (nextTicket s) op user ws q) m → stillOk m (serialCmd (nextTicket s) op user ws q) = true)
    (fl : FlashRun) : ∃ m, Starting s (serialCmd (nextTicket s) op user ws q) m ∧
      sendSerial (found s) (descOf op user ws) q fl = settleNops (serialRun m (serialCmd (nextTicket s) op user ws q) fl) := by
  have hsubmit := submit_serial hop hlen hw ht hq hodd
  obtain ⟨htakes, -⟩ := ht
  obtain ⟨c, hc⟩ : ∃ c, c = serialCmd (nextTicket s) op user ws q := ⟨_, rfl⟩
  have hflags : c.started = false ∧ c.done = false ∧ c.op ≠ 1 := by
    subst hc
    exact ⟨rfl, rfl, hnop⟩
  have hticket : c.ticket = nextTicket s := by rw [hc]; rfl
  have hcq : c.q = q := by rw [hc]; rfl
  have hx : submit (mailed s (descOf op user ws)) (descWords (mailed s (descOf op user ws))) = settleNops (takenIn s c) := by
    rw [hsubmit, hc]
    rfl
  rw [← hc] at hstill ⊢
  have hstart := starting s c hflags hticket hnew
  obtain ⟨hs, hdone, hop1⟩ := hflags
  have hholds := (holds_takenIn hticket hnew).settleNops hop1
  have hon := cmdsOn_settleNops (takenIn s c)
  have hnext : serialNext (settleNops (takenIn s c)) q = some c :=
    hcq ▸ serialNext_new (cmds_takenIn s c) (hcq ▸ hfree) hon hholds hdone hs
  have hnext' : serialNext (settleNops (settleNops (takenIn s c))) q = some c :=
    hcq ▸ serialNext_new (cmds_takenIn s c) (hcq ▸ hfree) (hon.trans (cmdsOn_settleNops _)) (hholds.settleNops hop1) hdone hs
  have hmoved : fld (settleNops (takenIn s c)) Reg.HST_STAT_NEXT ≠ nextTicket s := by
    have hreg : (settleNops (takenIn s c)).regs = (takenIn s c).regs := keeps_settleNops _ .regs (by simp)
    rw [fld_congr (f := Reg.HST_STAT_NEXT) (c := takenIn s c) (by rw [getReg, hreg, getReg]), next_takenIn (hticket ▸ nextTicket_lt s), hticket,
      ticketAfter]
    split <;> omega
  refine ⟨startedIn s c, hstart, ?_⟩
  have hsend : send (found s) (descOf op user ws) = settleNops (takenIn s c) := by
    unfold hostTakes at htakes
    rw [Bool.and_eq_true, Bool.not_eq_true'] at htakes
    unfold send
    rw [if_neg (by rw [htakes.1]; simp), if_neg (by rw [htakes.2]; simp)]
    exact hx
  unfold sendSerial
  dsimp only
  rw [hsend, if_pos, startNext_some hodd hnext', runSerial_ok (hstill _ hstart)]
  · rfl
  · rw [hnext]
    have hk0 : fld (found s) Reg.HST_STAT_NEXT = nextTicket s := rfl
    rw [hk0]
    simp [hmoved, hticket]

/-! The conditions of a command still hold when it starts at once (R347). -/

/-- The registers that no condition of a fuse command looks at. -/
def armReg (off : Nat) : Prop := mailReg off ∨ off = Reg.LOG_DBG

theorem not_armReg {off : Nat} (h1 : off ≠ Reg.HST_STAT) (h2 : off < 0xC0000) (h3 : off ≠ Reg.LOG_DBG) : ¬ armReg off := by
  unfold armReg mailReg
  omega

theorem any_congr {α : Type} {l : List α} {p q : α → Bool} (h : ∀ x ∈ l, p x = q x) : l.any p = l.any q := by
  rw [Bool.eq_iff_iff, List.any_eq_true, List.any_eq_true]
  exact exists_congr fun x => and_congr_right fun hx => by rw [h x hx]

theorem axState_of_leaves {c d : Die} (h : Leaves armReg c d) {a : Nat} (ha : a < 128) : axState d a = axState c a := by
  refine fld_of_leaves h (Reg.AX_STAT_STATE a) (not_armReg ?_ ?_ ?_)
  all_goals simp only [Reg.AX_STAT_STATE, Reg.AX_STAT, Reg.HST_STAT, Reg.LOG_DBG]
  all_goals omega

theorem fuseOk_of_leaves {c d : Die} (h : Leaves armReg c d) (hb : d.boot.blown = c.boot.blown) : fuseOk d = fuseOk c := by
  have hmoving : anyMoving d = anyMoving c :=
    any_congr fun a ha => by rw [axState_of_leaves h (mem_upto.1 ha)]
  rw [fuseOk, fuseOk, hb, hmoving, flag_of_leaves h Reg.GLB_BOOT_STAT_SESSION (not_armReg (by decide) (by decide) (by decide)),
    flag_of_leaves h Reg.PWR_STAT_VWARN (not_armReg (by decide) (by decide) (by decide))]

theorem not_mailReg {off : Nat} (h1 : off ≠ Reg.HST_STAT) (h2 : off < 0xC0000) : ¬ mailReg off := by
  unfold mailReg
  omega

theorem hostDownload_of_keeps {ps : List Part} {c d : Die} (h : Keeps ps c d) (hs : .straps ∉ ps) : hostDownload d = hostDownload c := by
  have hstraps : d.straps = c.straps := h .straps hs
  simp only [hostDownload, hasHost, isMember, isCluster, isLead, hstraps]

theorem scanned_of_keeps {ps : List Part} {c d : Die} (h : Keeps ps c d) (hs : .straps ∉ ps) (ht : .tap ∉ ps) : scanned d = scanned c := by
  have hstraps : d.straps = c.straps := h .straps hs
  have htap : d.tap = c.tap := h .tap ht
  simp only [scanned, proofMode, hstraps, htap]

theorem parcelCmdOk_of_leaves {c d : Die} (h : Leaves mailReg c d) (hk : Keeps [.regs, .host] c d) (op : Nat) (w : List Nat) :
    parcelCmdOk d op w = parcelCmdOk c op w := by
  have hboot : d.boot = c.boot := hk .boot (by simp)
  simp only [parcelCmdOk, hboot, hostDownload_of_keeps hk (by simp),
    flag_of_leaves h Reg.GLB_BOOT_STAT_SESSION (not_mailReg (by decide) (by decide))]

theorem proofOk_of_leaves {c d : Die} (h : Leaves mailReg c d) (hk : Keeps [.regs, .host] c d) {seg : Nat} (hseg : seg < 4) :
    proofOk d seg = proofOk c seg := by
  have hpwr : d.pwr = c.pwr := hk .pwr (by simp)
  have hax : ∀ a, a < 128 → ∀ f : Fld, f.off = Reg.AX_CFG a → fld d f = fld c f := fun a ha f hf =>
    fld_of_leaves h f (by rw [hf]; refine not_mailReg ?_ ?_ <;> simp only [Reg.AX_CFG, Reg.HST_STAT] <;> omega)
  have hdecl : declAxes d = declAxes c := List.filter_congr fun a ha => by rw [axDecl, flag, hax a (mem_upto.1 ha) _ rfl, ← flag, ← axDecl]
  have hseg' : ∀ f : Fld, f.off = Reg.LSH_RCFG seg ∨ f.off = Reg.LSH_PATH seg → fld d f = fld c f := fun f hf =>
    fld_of_leaves h f (by
      obtain hf | hf := hf
      all_goals rw [hf]
      all_goals refine not_mailReg ?_ ?_
      all_goals simp only [Reg.LSH_RCFG, Reg.LSH_PATH, Reg.HST_STAT]
      all_goals omega)
  have hany : ((declAxes d).any fun a => fld d (Reg.AX_CFG_SEG a) == seg && (axState d a == 2 || axState d a == 3)) =
      (declAxes c).any fun a => fld c (Reg.AX_CFG_SEG a) == seg && (axState c a == 2 || axState c a == 3) := by
    rw [hdecl]
    refine any_congr fun a ha => ?_
    have ha' := (mem_declAxes.1 ha).1
    rw [hax a ha' _ rfl, axState_of_leaves (h.mono fun _ => .inl) ha']
  rw [proofOk, proofOk, hany, powered, hpwr, redund, flag, hseg' _ (.inl rfl), pathState, hseg' _ (.inr rfl)]
  rfl

end Sys2Proof.Machine
end

section
/-! PROOFS. O26: the commands of the configuration and maintenance queues (R246, R372 to R374, R413). -/

namespace Sys2Proof.Machine

open Sys2Proof

/-! How a command of a serial queue ends. -/

/-- The state after a command of a serial queue that left the die as `r`. -/
def serialEnd (s : State) (r : Die) : State := { s with die := irqSettle s.die (settleNops r) }

theorem keeps_serialEnd (s : State) (r : Die) : Keeps [.host] r (serialEnd s r).die := (keeps_settleNops r).trans (keeps_irqSettle _ _ _)

theorem getReg_serialEnd (s : State) (r : Die) (off : Nat) : getReg (serialEnd s r).die off = getReg r off := by
  rw [getReg, keeps_serialEnd s r .regs (by simp), getReg]

theorem flag_serialEnd (s : State) (r : Die) (f : Fld) : flag (serialEnd s r).die f = flag r f := flag_congr (getReg_serialEnd s r _)

theorem boot_serialEnd (s : State) (r : Die) : (serialEnd s r).die.boot = r.boot := keeps_serialEnd s r .boot (by simp)

theorem Holds.serialEnd {r : Die} {y : Cmd} (h : Holds r y) (hop : y.op ≠ 1) (s : State) : Holds (serialEnd s r).die y :=
  (h.settleNops hop).of_keeps (keeps_irqSettle [] _ _) (by simp)

/-- The entry is that of the command accepted. -/
structure Entry (s : State) (op : Nat) (user : BitVec 16) (q : Nat) (y : Cmd) : Prop where
  ticket : y.ticket = nextTicket s
  op : y.op = op
  user : y.user = user.toNat
  q : y.q = q

theorem Entry.ended {s : State} {op : Nat} {user : BitVec 16} {q : Nat} {y : Cmd} (h : Entry s op user q y) (st r0 r1 : Nat) :
    Entry s op user q (y.ended st r0 r1) := ⟨h.ticket, h.op, h.user, h.q⟩

/-- The registers that show the ticket. -/
def ticketReg (off : Nat) : Prop := off = Reg.HST_CMD_RESULT ∨ off = Reg.HST_STAT

theorem ticketed_serial {s : State} {op : Nat} {user : BitVec 16} {q : Nat} {c m r y} (hm : Starting s c m) (hc : c.ticket = nextTicket s)
    (hr : Leaves (fun off => ¬ ticketReg off) m r) (h : Holds r y) (he : Entry s op user q y) (hop : op ≠ 1) :
    ticketed s (serialEnd s r) op user q := by
  have hreg : ∀ off, ticketReg off → getReg (serialEnd s r).die off = getReg m off := fun off hoff =>
    (getReg_serialEnd s r off).trans (hr off (not_not_intro hoff))
  refine ⟨?_, ?_, y, (h.serialEnd (he.op ▸ hop) s).mem, he.ticket, he.op, he.user, he.q⟩
  · rw [hreg _ (.inl rfl), hm.result, hc]
  · rw [nextTicket, fld_congr (f := Reg.HST_STAT_NEXT) (hreg _ (.inr rfl)), hm.next, hc]
    rfl

theorem done_serial {s : State} {op : Nat} {user : BitVec 16} {q : Nat} {r y} (h : Holds r y) (he : Entry s op user q y) (hop : op ≠ 1)
    (hd : y.done = true) {p : Nat → Prop} (hp : p y.status) : doneWith s (serialEnd s r) op p :=
  ⟨y, (h.serialEnd (he.op ▸ hop) s).mem, he.ticket, he.op, hd, hp⟩

theorem serialRun_begin {c : Cmd} (h : c.op = 0x20) (d : Die) (fl : FlashRun) : serialRun d c fl = parcelBegin d c fl := by
  simp only [serialRun, h]

theorem serialRun_data {c : Cmd} (h : c.op = 0x21) (d : Die) (fl : FlashRun) : serialRun d c fl = parcelData d c fl := by
  simp only [serialRun, h]

theorem serialRun_commit {c : Cmd} (h : c.op = 0x22) (d : Die) (fl : FlashRun) : serialRun d c fl = parcelCommit d c fl := by
  simp only [serialRun, h]

theorem serialRun_abort {c : Cmd} (h : c.op = 0x23) (d : Die) (fl : FlashRun) : serialRun d c fl = parcelAbort d c := by
  simp only [serialRun, h]

theorem serialRun_proof {c : Cmd} (h : c.op = 0x40) (d : Die) (fl : FlashRun) : serialRun d c fl = proofStart d (nth c.words 1) c.ticket := by
  simp only [serialRun, h]

theorem serialRun_arm {c : Cmd} (h : c.op = 0x41) (d : Die) (fl : FlashRun) : serialRun d c fl = fuseArmRun d c := by
  simp only [serialRun, h]

theorem serialRun_burn {c : Cmd} (h : c.op = 0x42) (d : Die) (fl : FlashRun) :
    serialRun d c fl = updBoot d fun b => { b with burnTicket := c.ticket } := by
  simp only [serialRun, h]

/-! The end of a Parcel command (R348, R372, R373). -/

section ParcelEnd

variable {d : Die} {c : Cmd} (h : Holds d c) (hdone : c.done = false) (hk : c.ticket ≠ 0)

/-- The check code shown in RESULT0: only BEGIN and COMMIT have one. -/
def codeOf (c : Cmd) (code : Nat) : Nat := if c.op = 0x20 ∨ c.op = 0x22 then code else 0

include h in
theorem parcelEnd_eq {st : Nat} (hst : st ≠ 0) (code r1 : Nat) :
    parcelEnd d c.ticket st code r1 = sessionClose (complete d c.ticket st (codeOf c code) r1) := by
  have hcoded : (d.host.cmds.any fun x => x.ticket == c.ticket && (x.op == 0x20 || x.op == 0x22)) = true ↔ c.op = 0x20 ∨ c.op = 0x22 := by
    rw [List.any_eq_true]
    constructor
    · rintro ⟨x, hx, hp⟩
      simp only [Bool.and_eq_true, beq_iff_eq, Bool.or_eq_true] at hp
      rw [h.only x hx hp.1] at hp
      exact hp.2
    · exact fun hop => ⟨c, h.mem, by simpa using hop⟩
  unfold parcelEnd codeOf
  simp only [hcoded, if_neg hst]

theorem session_sessionClose (d : Die) : flag (sessionClose d) Reg.GLB_BOOT_STAT_SESSION = false :=
  flag_putFlag_same d Reg.GLB_BOOT_STAT_SESSION false (by decide) rfl

include h hdone hk in
theorem holds_parcelEnd {st : Nat} (hst : st ≠ 0) (code r1 : Nat) :
    Holds (parcelEnd d c.ticket st code r1) (c.ended st (codeOf c code) r1) := by
  rw [parcelEnd_eq h hst]
  exact (h.complete hdone hk st _ r1).of_keeps (keeps_sessionClose _) (by simp)

include h in
theorem session_parcelEnd {st : Nat} (hst : st ≠ 0) (code r1 : Nat) :
    flag (parcelEnd d c.ticket st code r1) Reg.GLB_BOOT_STAT_SESSION = false := by
  rw [parcelEnd_eq h hst]
  exact session_sessionClose _

include h hdone hk in
theorem supplyCut_spec : Holds (supplyCut d c.ticket) (c.ended 0xE (codeOf c 0xF) 0) ∧
    flag (supplyCut d c.ticket) Reg.GLB_BOOT_STAT_SESSION = false ∧ flag (supplyCut d c.ticket) Reg.GLB_BOOT_STAT_SUPPLYCUT = true := by
  have h' : Holds (updBoot d fun b => { b with flashOps := b.flashOps.take 1 }) c := h.of_keeps (ps := [.boot]) (by simp) (by simp)
  have hheld := holds_parcelEnd h' hdone hk (st := 0xE) (by decide) 0xF 0
  have hsess := session_parcelEnd h' (st := 0xE) (by decide) 0xF 0
  have heq : supplyCut d c.ticket = logEvt (setFlag (parcelEnd (updBoot d fun b => { b with flashOps := b.flashOps.take 1 })
    c.ticket 0xE 0xF 0) Reg.GLB_BOOT_STAT_SUPPLYCUT) 0 4 1 0 0 0 := rfl
  rw [heq]
  generalize parcelEnd _ c.ticket 0xE 0xF 0 = e at hheld hsess
  have htold := told_logEvt (setFlag e Reg.GLB_BOOT_STAT_SUPPLYCUT) 0 4 1 0 0 0
  have hnot : ¬ logReg Reg.GLB_BOOT_STAT := by
    unfold logReg
    decide
  refine ⟨hheld.of_keeps (ps := [.regs, .lgb]) (by simp) (by simp), ?_, ?_⟩
  · rw [flag_of_leaves htold.regs Reg.GLB_BOOT_STAT_SESSION hnot, flag, setFlag,
      fld_setFld_below _ Reg.GLB_BOOT_STAT_SESSION Reg.GLB_BOOT_STAT_SUPPLYCUT _ rfl (by decide) (by decide), ← flag]
    exact hsess
  · rw [flag_of_leaves htold.regs Reg.GLB_BOOT_STAT_SUPPLYCUT hnot]
    exact flag_setFlag_same e Reg.GLB_BOOT_STAT_SUPPLYCUT (by decide) rfl

end ParcelEnd

/-! What the flash does for a command (R373). -/

section Flash

variable {d : Die} {c : Cmd} {ops : List FlashOp} {fl : FlashRun} {done : Die → Die}

theorem flashDo_good (hs : scanned d = false) (hc : c.started = false) (h : fl.ending = .good) :
    flashDo d c ops fl done = done (flashGo d ops fl) := by
  unfold flashDo
  rw [if_neg (by simp [hs]), if_neg (by simp [hc])]
  simp only [h]

theorem flashDo_fault (hs : scanned d = false) (hc : c.started = false) (h : fl.ending = .fault) :
    flashDo d c ops fl done = parcelEnd (flashGo d ops fl) c.ticket 1 0xE 0 := by
  unfold flashDo
  rw [if_neg (by simp [hs]), if_neg (by simp [hc])]
  simp only [h]

theorem flashDo_running (hs : scanned d = false) (hc : c.started = false) (h : fl.ending = .running) :
    flashDo d c ops fl done = flashGo d ops fl := by
  unfold flashDo
  rw [if_neg (by simp [hs]), if_neg (by simp [hc])]
  simp only [h]

theorem flashDo_scanned (hs : scanned d = true) : flashDo d c ops fl done = parcelEnd d c.ticket 1 0xE 0 := by
  unfold flashDo
  rw [if_pos hs]

end Flash

/-! From the acceptance to the end. -/

theorem ends_serial {i : Instr} {s : State} {op : Nat} {user : BitVec 16} {ws : List Nat} {q : Nat} {fl : FlashRun} {P : State → Prop}
    (hi : exec i s = onDie (sendSerial · (descOf op user ws) q fl) s) (ht : takes s (descOf op user ws)) (hop : op < 256)
    (hlen : ws.length < 16) (hw : ∀ w ∈ ws, w < 2 ^ 32) (hq : cmdQueue op (nth (descOf op user ws) 1) = q) (hodd : q % 2 = 1)
    (hnop : op ≠ 1) (hfree : queueFree s q) (hnew : ∀ x ∈ s.die.host.cmds, x.ticket ≠ nextTicket s)
    (hstill : ∀ m, Starting s (serialCmd (nextTicket s) op user ws q) m → stillOk m (serialCmd (nextTicket s) op user ws q) = true)
    (h : ∀ m, Starting s (serialCmd (nextTicket s) op user ws q) m →
      P (serialEnd s (serialRun m (serialCmd (nextTicket s) op user ws q) fl))) : ends i s P := by
  obtain ⟨m, hm, hrun⟩ := sendSerial_runs ht hop hlen hw hq hodd hnop hfree hnew hstill fl
  have hend := h m hm
  rw [serialEnd, ← hrun] at hend
  exact ends_of_onDie hi hend

section Begun

variable {s : State} {c : Cmd} {m : Die} (hm : Starting s c m)

include hm

theorem Starting.flag_of_ne {f : Fld} (h1 : ¬ mailReg f.off) (h2 : f.off ≠ Reg.GLB_BOOT_STAT) (h3 : f.off ≠ Reg.LOG_DBG) : flag m f = flag s.die f :=
  flag_congr ((hm.leaves f.off h1).trans (getReg_opener _ _ _ h2 h3))

theorem Starting.vwarn : flag m Reg.PWR_STAT_VWARN = flag s.die Reg.PWR_STAT_VWARN :=
  hm.flag_of_ne (not_mailReg (by decide) (by decide)) (by decide) (by decide)

theorem Starting.host : hostDownload m = hostDownload s.die := hostDownload_of_keeps hm.keeps (by simp)

theorem Starting.scanned : Machine.scanned m = Machine.scanned s.die := scanned_of_keeps hm.keeps (by simp) (by simp)

/-- Where the acceptance does nothing of its own, the part is as the check of the descriptor found it. -/
theorem Starting.alike (hop : c.op ≠ 0x20 ∧ c.op ≠ 0x41 ∧ c.op ≠ 0x42) : Leaves mailReg (found s) m ∧ m.boot = s.die.boot := by
  obtain ⟨h1, h2, h3⟩ := hop
  have hopen : ∀ d, opener c.op c.words d = d := fun d => by
    unfold opener
    rw [if_neg h1, if_neg (by simp [h2, h3])]
  exact ⟨hopen (found s) ▸ hm.leaves, by rw [hm.boot, hopen]; rfl⟩

/-- What was judged of the descriptor holds when the command starts. -/
theorem Starting.judged (hop : c.op ≠ 0x20 ∧ c.op ≠ 0x41 ∧ c.op ≠ 0x42) : Leaves mailReg (mailed s c.words) m ∧
    Keeps [.regs, .host] (mailed s c.words) m := by
  obtain ⟨hl, hb⟩ := hm.alike hop
  have hmail := leaves_mailed s c.words
  have hback : Leaves mailReg (mailed s c.words) (found s) := fun off hoff => (hmail off fun hbig => hoff (.inr hbig)).symm
  refine ⟨hback.trans hl, ?_⟩
  have h1 : Keeps [.regs] (mailed s c.words) (found s) := fun p hp => same_symm (keeps_mailed s c.words p hp)
  refine (h1.mono (by simp)).trans fun p hp => ?_
  by_cases hboot : p = .boot
  · subst hboot
    exact hb
  · have hk : Keeps [.regs, .host, .boot] (found s) m := (Keeps.trans (fun p hp => same_symm (keeps_found _ s p hp)) hm.keeps)
    exact hk p (by simpa [hboot] using hp)

end Begun

end Sys2Proof.Machine
end

section
/-! PROOFS. O26: PARCEL_BEGIN and PARCEL_DATA (R372 to R374). -/

namespace Sys2Proof.Machine

open Sys2Proof

/-- An entry that has started. -/
def Cmd.on (c : Cmd) : Cmd := { c with started := true }

theorem Starting.holdsOn {s : State} {c : Cmd} {m : Die} (h : Starting s c m) : Holds m c.on := h.holds

theorem entry_serialCmd (s : State) (op : Nat) (user : BitVec 16) (ws : List Nat) (q : Nat) :
    Entry s op user q (serialCmd (nextTicket s) op user ws q).on := ⟨rfl, rfl, rfl, rfl⟩

/-- The flash and the session's own notes change; the session is the same. -/
structure SameSession (d e : Die) : Prop where
  keeps : Keeps [.boot] d e
  len : e.boot.len = d.boot.len
  crc : e.boot.crc = d.boot.crc
  written : e.boot.written = d.boot.written

theorem SameSession.trans {d e x : Die} (h : SameSession d e) (h' : SameSession e x) : SameSession d x :=
  ⟨h.keeps.trans h'.keeps, h'.len.trans h.len, h'.crc.trans h.crc, h'.written.trans h.written⟩

theorem sameSession_flashGo (d : Die) (ops : List FlashOp) (fl : FlashRun) : SameSession d (flashGo d ops fl) :=
  ⟨keeps_flashGo d ops fl, rfl, rfl, rfl⟩

theorem leaves_of_regs_kept {ps : List Part} {c d : Die} (h : Keeps ps c d) (hr : .regs ∉ ps) (p : Nat → Prop) : Leaves p c d :=
  fun off _ => by rw [getReg, h .regs hr, getReg]

/-! PARCEL_BEGIN. -/

section Begin

variable {d : Die} {c : Cmd} {fl : FlashRun}

theorem parcelBegin_warn (h : flag d Reg.PWR_STAT_VWARN = true) : parcelBegin d c fl = supplyCut d c.ticket := by
  unfold parcelBegin
  rw [if_pos h]

theorem parcelBegin_host (hw : flag d Reg.PWR_STAT_VWARN = false) (hh : hostDownload d = true) :
    ∃ e, parcelBegin d c fl = complete e c.ticket 0 0 0 ∧ SameSession d e := by
  refine ⟨updBoot d fun b => { b with buffer := [] }, ?_, by simp, rfl, rfl, rfl⟩
  unfold parcelBegin
  rw [if_neg (by simp [hw]), if_pos hh]

/-- What PARCEL_BEGIN has the flash do. -/
theorem parcelBegin_flash (hw : flag d Reg.PWR_STAT_VWARN = false) (hh : hostDownload d = false) :
    ∃ e ops, parcelBegin d c fl = flashDo e c ops fl (fun d => complete d c.ticket 0 0 0) ∧ SameSession d e := by
  unfold parcelBegin
  rw [if_neg (by simp [hw]), if_neg (by simp [hh])]
  extract_lets e a gen rec_
  refine ⟨e, _, rfl, ?_⟩
  unfold e
  split
  · exact ⟨.refl _ d, rfl, rfl, rfl⟩
  · exact ⟨by simp, rfl, rfl, rfl⟩

theorem scanned_of_session {d e : Die} (h : SameSession d e) : scanned e = scanned d := scanned_of_keeps h.keeps (by simp) (by simp)

theorem parcelBegin_calm (hw : flag d Reg.PWR_STAT_VWARN = false) (hc : c.started = false)
    (hcalm : fl.ending = .good ∧ scanned d = false ∨ hostDownload d = true) :
    ∃ e, parcelBegin d c fl = complete e c.ticket 0 0 0 ∧ SameSession d e := by
  by_cases hh : hostDownload d = true
  · exact parcelBegin_host hw hh
  · obtain ⟨hgood, hs⟩ := hcalm.resolve_right hh
    obtain ⟨e, ops, heq, he⟩ := parcelBegin_flash (c := c) (fl := fl) hw (Bool.not_eq_true _ ▸ hh)
    rw [flashDo_good ((scanned_of_session he).trans hs) hc hgood] at heq
    exact ⟨_, heq, he.trans (sameSession_flashGo e ops fl)⟩

theorem parcelBegin_fault (hw : flag d Reg.PWR_STAT_VWARN = false) (hh : hostDownload d = false) (hc : c.started = false)
    (hs : scanned d = false) (hend : fl.ending = .fault) : ∃ e, parcelBegin d c fl = parcelEnd e c.ticket 1 0xE 0 ∧ SameSession d e := by
  obtain ⟨e, ops, heq, he⟩ := parcelBegin_flash (c := c) (fl := fl) hw hh
  rw [flashDo_fault ((scanned_of_session he).trans hs) hc hend] at heq
  exact ⟨_, heq, he.trans (sameSession_flashGo e ops fl)⟩

theorem parcelBegin_running (hw : flag d Reg.PWR_STAT_VWARN = false) (hh : hostDownload d = false) (hc : c.started = false)
    (hs : scanned d = false) (hend : fl.ending = .running) : SameSession d (parcelBegin d c fl) := by
  obtain ⟨e, ops, heq, he⟩ := parcelBegin_flash (c := c) (fl := fl) hw hh
  rw [flashDo_running ((scanned_of_session he).trans hs) hc hend] at heq
  rw [heq]
  exact he.trans (sameSession_flashGo e ops fl)

end Begin

theorem boot_complete (d : Die) (t st r0 r1 : Nat) : (complete d t st r0 r1).boot = d.boot := (told_complete d t st r0 r1).parts .boot (by simp)

theorem leaves_completed {d e : Die} (h : SameSession d e) (t st r0 r1 : Nat) (p : Nat → Prop) : Leaves p d (complete e t st r0 r1) :=
  (leaves_complete _ _ _ _ _ _).2 (leaves_of_regs_kept h.keeps (by simp) p)

theorem ends_parcelBegin {s : State} {user : BitVec 16} {fl : FlashRun} (len crc : Word) (ht : takes s (descOf 0x20 user [len.toNat, crc.toNat]))
    (hk : nextTicket s ≠ 0) (hfree : queueFree s 1) (hnew : ∀ x ∈ s.die.host.cmds, x.ticket ≠ nextTicket s) :
    ends (.parcelBegin len crc user fl) s fun t =>
      (flag s.die Reg.PWR_STAT_VWARN = false ∧ (fl.ending = .good ∧ scanned s.die = false ∨ hostDownload s.die = true) →
        ticketed s t 0x20 user 1 ∧ flag t.die Reg.GLB_BOOT_STAT_SESSION = true ∧ t.die.boot.len = len.toNat ∧
        t.die.boot.crc = crc.toNat ∧ t.die.boot.written = [] ∧ doneWith s t 0x20 (· = 0)) ∧
      (flag s.die Reg.PWR_STAT_VWARN = false ∧ hostDownload s.die = false ∧ scanned s.die = false ∧ fl.ending = .fault →
        flag t.die Reg.GLB_BOOT_STAT_SESSION = false ∧
        ∃ c ∈ t.die.host.cmds, c.ticket = nextTicket s ∧ c.done = true ∧ c.status = 1 ∧ c.r0 = 0xE) ∧
      (flag s.die Reg.PWR_STAT_VWARN = false ∧ hostDownload s.die = false ∧ scanned s.die = false ∧ fl.ending = .running →
        ticketed s t 0x20 user 1 ∧ flag t.die Reg.GLB_BOOT_STAT_SESSION = true ∧
        ∃ c ∈ t.die.host.cmds, c.ticket = nextTicket s ∧ c.started = true ∧ c.done = false) ∧
      (flag s.die Reg.PWR_STAT_VWARN = true → flag t.die Reg.GLB_BOOT_STAT_SESSION = false ∧
        flag t.die Reg.GLB_BOOT_STAT_SUPPLYCUT = true ∧ doneWith s t 0x20 (· = 0xE)) := by
  have hsess : ∀ m, Starting s (serialCmd (nextTicket s) 0x20 user [len.toNat, crc.toNat] 1) m → flag m Reg.GLB_BOOT_STAT_SESSION = true :=
    fun m hm => (flag_congr (hm.leaves Reg.GLB_BOOT_STAT (not_mailReg (by decide) (by decide)))).trans
      (flag_setFlag_same (found s) Reg.GLB_BOOT_STAT_SESSION (by decide) rfl)
  refine ends_serial (P := _) rfl ht (by decide) (by simp) (by simp [len.isLt, crc.isLt]) rfl (by decide) (by decide) hfree hnew hsess
    fun m hm => ?_
  have hentry := entry_serialCmd s 0x20 user [len.toNat, crc.toNat] 1
  have hs := hsess m hm
  have hlen : m.boot.len = len.toNat := congrArg Boot.len hm.boot
  have hcrc : m.boot.crc = crc.toNat := congrArg Boot.crc hm.boot
  have hwritten : m.boot.written = [] := congrArg Boot.written hm.boot
  have hwarn := hm.vwarn
  have hhost := hm.host
  have hscan := hm.scanned
  have hheld := hm.holdsOn
  have hticket : (serialCmd (nextTicket s) 0x20 user [len.toNat, crc.toNat] 1).on.ticket = nextTicket s := rfl
  rw [serialRun_begin rfl]
  generalize hcdef : serialCmd (nextTicket s) 0x20 user [len.toNat, crc.toNat] 1 = c at hm hentry hheld hticket ⊢
  have hcs : c.started = false := by rw [← hcdef]; rfl
  have hcd : c.on.done = false := by rw [← hcdef]; rfl
  have hcode : codeOf c.on 0xE = 0xE := by rw [← hcdef]; rfl
  have hck : c.on.ticket ≠ 0 := hticket ▸ hk
  refine ⟨fun ⟨hw, hcalm⟩ => ?_, fun ⟨hw, hh, hsc, hend⟩ => ?_, fun ⟨hw, hh, hsc, hend⟩ => ?_, fun hw => ?_⟩
  · obtain ⟨e, he, hsame⟩ := parcelBegin_calm (c := c) (fl := fl) (hwarn.trans hw) hcs (by rwa [hscan, hhost])
    have hdone := (hheld.of_keeps hsame.keeps (by simp)).complete hcd hck 0 0 0
    have hleaves := leaves_completed hsame c.ticket 0 0 0
    rw [he]
    refine ⟨ticketed_serial hm hticket (hleaves _) hdone (hentry.ended 0 0 0) (by decide), ?_, ?_, ?_, ?_,
      done_serial hdone (hentry.ended 0 0 0) (by decide) rfl rfl⟩
    · rw [flag_serialEnd, flag_of_leaves (hleaves fun _ => False) _ not_false]
      exact hs
    · rw [boot_serialEnd, boot_complete, hsame.len, hlen]
    · rw [boot_serialEnd, boot_complete, hsame.crc, hcrc]
    · rw [boot_serialEnd, boot_complete, hsame.written, hwritten]
  · obtain ⟨e, he, hsame⟩ := parcelBegin_fault (c := c) (fl := fl) (hwarn.trans hw) (hhost.trans hh) hcs (hscan.trans hsc) hend
    have hheld' := hheld.of_keeps hsame.keeps (by simp)
    have hdone := holds_parcelEnd hheld' hcd hck (st := 1) (by decide) 0xE 0
    rw [he]
    refine ⟨(flag_serialEnd _ _ _).trans (session_parcelEnd hheld' (by decide) _ _), _,
      (hdone.serialEnd (hentry.op ▸ by decide) s).mem, hticket, rfl, rfl, hcode⟩
  · have hsame := parcelBegin_running (c := c) (fl := fl) (hwarn.trans hw) (hhost.trans hh) hcs (hscan.trans hsc) hend
    have hheld' := hheld.of_keeps hsame.keeps (by simp)
    have hleaves := leaves_of_regs_kept hsame.keeps (by simp)
    refine ⟨ticketed_serial hm hticket (hleaves _) hheld' hentry (by decide), ?_, _,
      (hheld'.serialEnd (hentry.op ▸ by decide) s).mem, hticket, rfl, hcd⟩
    rw [flag_serialEnd, flag_of_leaves (hleaves fun _ => False) _ not_false]
    exact hs
  · obtain ⟨hdone, hclosed, hcut⟩ := supplyCut_spec hheld hcd hck
    rw [parcelBegin_warn (hwarn.trans hw)]
    exact ⟨(flag_serialEnd _ _ _).trans hclosed, (flag_serialEnd _ _ _).trans hcut,
      done_serial hdone (hentry.ended _ _ _) (by decide) rfl rfl⟩

/-! PARCEL_DATA. -/

/-- The bytes of the words of a PARCEL_DATA. -/
def dataBytes (c : Cmd) : List Byte := (c.words.drop 2).flatMap (leBytes 4)

section Data

variable {d : Die} {c : Cmd} {fl : FlashRun}

theorem parcelData_host (hw : flag d Reg.PWR_STAT_VWARN = false) (hh : hostDownload d = true) :
    ∃ e, parcelData d c fl = complete e c.ticket 0 0 0 ∧ Keeps [.boot] d e ∧ e.boot.flash = d.boot.flash ∧
      e.boot.written = d.boot.written ++ [(nth c.words 1, (dataBytes c).length)] := by
  refine ⟨updBoot (noteWritten d (nth c.words 1) (dataBytes c).length) fun b =>
    { b with buffer := flashProgram b.buffer (nth c.words 1) (dataBytes c) }, ?_, by simp [noteWritten], rfl, rfl⟩
  unfold parcelData
  rw [if_neg (by simp [hw]), if_pos hh]
  rfl

theorem parcelData_flash (hw : flag d Reg.PWR_STAT_VWARN = false) (hh : hostDownload d = false) :
    ∃ ops, parcelData d c fl =
      flashDo d c ops fl fun d => complete (noteWritten d (nth c.words 1) (dataBytes c).length) c.ticket 0 0 0 := by
  unfold parcelData
  rw [if_neg (by simp [hw]), if_neg (by simp [hh])]
  exact ⟨_, rfl⟩

theorem parcelData_good (hw : flag d Reg.PWR_STAT_VWARN = false) (hh : hostDownload d = false) (hc : c.started = false)
    (hs : scanned d = false) (hend : fl.ending = .good) :
    ∃ e, parcelData d c fl = complete e c.ticket 0 0 0 ∧ Keeps [.boot] d e ∧ e.boot.buffer = d.boot.buffer ∧
      e.boot.written = d.boot.written ++ [(nth c.words 1, (dataBytes c).length)] := by
  obtain ⟨ops, heq⟩ := parcelData_flash (c := c) (fl := fl) hw hh
  rw [flashDo_good hs hc hend] at heq
  exact ⟨_, heq, (keeps_flashGo d ops fl).trans (by simp [noteWritten]), rfl, rfl⟩

theorem parcelData_fault (hw : flag d Reg.PWR_STAT_VWARN = false) (hh : hostDownload d = false) (hc : c.started = false)
    (hs : scanned d = false) (hend : fl.ending = .fault) : ∃ e, parcelData d c fl = parcelEnd e c.ticket 1 0xE 0 ∧ SameSession d e := by
  obtain ⟨ops, heq⟩ := parcelData_flash (c := c) (fl := fl) hw hh
  rw [flashDo_fault hs hc hend] at heq
  exact ⟨_, heq, sameSession_flashGo d ops fl⟩

theorem parcelData_running (hw : flag d Reg.PWR_STAT_VWARN = false) (hh : hostDownload d = false) (hc : c.started = false)
    (hs : scanned d = false) (hend : fl.ending = .running) : SameSession d (parcelData d c fl) := by
  obtain ⟨ops, heq⟩ := parcelData_flash (c := c) (fl := fl) hw hh
  rw [flashDo_running hs hc hend] at heq
  rw [heq]
  exact sameSession_flashGo d ops fl

end Data

/-- A Parcel command that was judged may run when it starts at once. -/
theorem stillOk_parcel {s : State} {op : Nat} {user : BitVec 16} {ws : List Nat} (hop : op = 0x21 ∨ op = 0x22 ∨ op = 0x23)
    (hlen : ws.length < 16) (hw : ∀ w ∈ ws, w < 2 ^ 32) (ht : takes s (descOf op user ws)) {m : Die}
    (hm : Starting s (serialCmd (nextTicket s) op user ws 1) m) : stillOk m (serialCmd (nextTicket s) op user ws 1) = true := by
  have hok := judged_ok (by omega) hlen hw ht
  obtain ⟨hl, hk⟩ := hm.judged (by simp only [serialCmd]; omega)
  have hcond := parcelCmdOk_of_leaves hl hk op (descOf op user ws)
  have hstill : parcelCmdOk (mailed s (descOf op user ws)) op (descOf op user ws) = true := by
    obtain rfl | rfl | rfl := hop
    all_goals simpa [cmdOk] using hok
  obtain rfl | rfl | rfl := hop
  all_goals exact hcond.trans hstill

/-- Four bytes for each word. -/
theorem length_words (l : List Nat) : (l.flatMap (leBytes 4)).length = 4 * l.length := by
  have h4 : ∀ n, (leBytes 4 n).length = 4 := fun n => by simp [leBytes]
  induction l with
  | nil => rfl
  | cons x l ih =>
    rw [List.flatMap_cons, List.length_append, ih, h4, List.length_cons]
    omega

theorem dataBytes_length (k op : Nat) (user : BitVec 16) (off : Word) (ws : List Word) :
    (dataBytes (serialCmd k op user (off.toNat :: ws.map (·.toNat)) 1)).length = 4 * ws.length := by
  have h : dataBytes (serialCmd k op user (off.toNat :: ws.map (·.toNat)) 1) = (ws.map (·.toNat)).flatMap (leBytes 4) := rfl
  rw [h, length_words, List.length_map]

theorem ends_parcelData {s : State} {user : BitVec 16} {fl : FlashRun} (off : Word) (ws : List Word)
    (ht : takes s (descOf 0x21 user (off.toNat :: ws.map (·.toNat)))) (hwf : ws.length ≤ 14)
    (hk : nextTicket s ≠ 0) (hfree : queueFree s 1) (hnew : ∀ x ∈ s.die.host.cmds, x.ticket ≠ nextTicket s) :
    ends (.parcelData off ws user fl) s fun t =>
      (flag s.die Reg.PWR_STAT_VWARN = false ∧ hostDownload s.die = false ∧ scanned s.die = false ∧ fl.ending = .fault →
        flag t.die Reg.GLB_BOOT_STAT_SESSION = false ∧
        ∃ c ∈ t.die.host.cmds, c.ticket = nextTicket s ∧ c.done = true ∧ c.status = 1 ∧ c.r0 = 0) ∧
      (flag s.die Reg.PWR_STAT_VWARN = false ∧ hostDownload s.die = false ∧ scanned s.die = false ∧ fl.ending = .running →
        t.die.boot.written = s.die.boot.written ∧
        ∃ c ∈ t.die.host.cmds, c.ticket = nextTicket s ∧ c.started = true ∧ c.done = false) ∧
      (flag s.die Reg.PWR_STAT_VWARN = false ∧ (fl.ending = .good ∧ scanned s.die = false ∨ hostDownload s.die = true) →
        ticketed s t 0x21 user 1 ∧ t.die.boot.written = s.die.boot.written ++ [(off.toNat, 4 * ws.length)] ∧
        (hostDownload s.die = true → t.die.boot.flash = s.die.boot.flash) ∧
        (hostDownload s.die = false → t.die.boot.buffer = s.die.boot.buffer) ∧ doneWith s t 0x21 (· = 0)) := by
  have hlen : (off.toNat :: ws.map (·.toNat)).length < 16 := by
    rw [List.length_cons, List.length_map]
    omega
  have hw : ∀ w ∈ off.toNat :: ws.map (·.toNat), w < 2 ^ 32 := by
    intro w hmem
    obtain rfl | hmem := List.mem_cons.1 hmem
    · exact off.isLt
    · obtain ⟨x, -, rfl⟩ := List.mem_map.1 hmem
      exact x.isLt
  refine ends_serial (P := _) rfl ht (by decide) hlen hw rfl (by decide) (by decide) hfree hnew
    (fun m hm => stillOk_parcel (.inl rfl) hlen hw ht hm) fun m hm => ?_
  have hentry := entry_serialCmd s 0x21 user (off.toNat :: ws.map (·.toNat)) 1
  have hbytes := dataBytes_length (nextTicket s) 0x21 user off ws
  have hboot := (hm.alike (by simp only [serialCmd]; decide)).2
  have hwarn := hm.vwarn
  have hhost := hm.host
  have hscan := hm.scanned
  have hheld := hm.holdsOn
  have hticket : (serialCmd (nextTicket s) 0x21 user (off.toNat :: ws.map (·.toNat)) 1).on.ticket = nextTicket s := rfl
  have hoff : nth (serialCmd (nextTicket s) 0x21 user (off.toNat :: ws.map (·.toNat)) 1).words 1 = off.toNat := rfl
  rw [serialRun_data rfl]
  generalize hcdef : serialCmd (nextTicket s) 0x21 user (off.toNat :: ws.map (·.toNat)) 1 = c at hm hentry hheld hticket hbytes hoff ⊢
  have hcs : c.started = false := by rw [← hcdef]; rfl
  have hcd : c.on.done = false := by rw [← hcdef]; rfl
  have hcode : codeOf c.on 0xE = 0 := by rw [← hcdef]; rfl
  have hck : c.on.ticket ≠ 0 := hticket ▸ hk
  have hgood : ∀ e, Keeps [.boot] m e → e.boot.written = m.boot.written ++ [(nth c.words 1, (dataBytes c).length)] →
      ticketed s (serialEnd s (complete e c.ticket 0 0 0)) 0x21 user 1 ∧
      (serialEnd s (complete e c.ticket 0 0 0)).die.boot.written = s.die.boot.written ++ [(off.toNat, 4 * ws.length)] ∧
      doneWith s (serialEnd s (complete e c.ticket 0 0 0)) 0x21 (· = 0) := fun e hke hwr => by
    have hdone := (hheld.of_keeps hke (by simp)).complete hcd hck 0 0 0
    refine ⟨ticketed_serial hm hticket ((leaves_complete _ _ _ _ _ _).2 (leaves_of_regs_kept hke (by simp) _)) hdone
      (hentry.ended 0 0 0) (by decide), ?_, done_serial hdone (hentry.ended 0 0 0) (by decide) rfl rfl⟩
    rw [boot_serialEnd, boot_complete, hwr, hboot, hoff, hbytes]
  refine ⟨fun ⟨hw, hh, hsc, hend⟩ => ?_, fun ⟨hw, hh, hsc, hend⟩ => ?_, fun ⟨hw, hcalm⟩ => ?_⟩
  · obtain ⟨e, he, hsame⟩ := parcelData_fault (c := c) (fl := fl) (hwarn.trans hw) (hhost.trans hh) hcs (hscan.trans hsc) hend
    have hheld' := hheld.of_keeps hsame.keeps (by simp)
    have hdone := holds_parcelEnd hheld' hcd hck (st := 1) (by decide) 0xE 0
    rw [he]
    exact ⟨(flag_serialEnd _ _ _).trans (session_parcelEnd hheld' (by decide) _ _), _,
      (hdone.serialEnd (hentry.op ▸ by decide) s).mem, hticket, rfl, rfl, hcode⟩
  · have hsame := parcelData_running (c := c) (fl := fl) (hwarn.trans hw) (hhost.trans hh) hcs (hscan.trans hsc) hend
    exact ⟨by rw [boot_serialEnd, hsame.written, hboot], _,
      ((hheld.of_keeps hsame.keeps (by simp)).serialEnd (hentry.op ▸ by decide) s).mem, hticket, rfl, hcd⟩
  · by_cases hh : hostDownload s.die = true
    · obtain ⟨e, he, hke, hfl, hwr⟩ := parcelData_host (c := c) (fl := fl) (hwarn.trans hw) (hhost.trans hh)
      obtain ⟨h1, h2, h3⟩ := hgood e hke hwr
      rw [he]
      refine ⟨h1, h2, fun _ => ?_, fun hno => absurd (hh.symm.trans hno) nofun, h3⟩
      rw [boot_serialEnd, boot_complete, hfl, hboot]
    · obtain ⟨hend, hsc⟩ := hcalm.resolve_right hh
      obtain ⟨e, he, hke, hbuf, hwr⟩ := parcelData_good (c := c) (fl := fl) (hwarn.trans hw)
        (hhost.trans (Bool.not_eq_true _ ▸ hh)) hcs (hscan.trans hsc) hend
      obtain ⟨h1, h2, h3⟩ := hgood e hke hwr
      rw [he]
      refine ⟨h1, h2, fun hyes => absurd hyes hh, fun _ => ?_, h3⟩
      rw [boot_serialEnd, boot_complete, hbuf, hboot]

end Sys2Proof.Machine
end

section
/-! PROOFS. O26: PARCEL_COMMIT and PARCEL_ABORT (R370 to R374). -/

namespace Sys2Proof.Machine

open Sys2Proof

/-! What a load leaves of the command that brought it. -/

/-- The entry is as it was, or VIN below VWARN has ended it SUPPLY. -/
def Survives (c : Cmd) (d : Die) : Prop := ∃ y, Holds d y ∧ (y = c ∨ ∃ r0, y = c.ended 0xE r0 0)

theorem Survives.of_keeps {ps : List Part} {c : Cmd} {d e : Die} (h : Survives c d) (hk : Keeps ps d e) (hh : .host ∉ ps) : Survives c e := by
  obtain ⟨y, hy, hor⟩ := h
  exact ⟨y, hy.of_keeps hk hh, hor⟩

theorem holds_parcelEnd_other {d : Die} {c : Cmd} (h : Holds d c) {t : Nat} (ht : t ≠ c.ticket) (st code r1 : Nat) :
    Holds (parcelEnd d t st code r1) c := by
  unfold parcelEnd
  extract_lets coded d'
  have h' : Holds d' c := h.complete_other (.inl ht) st _ r1
  split
  · exact h'
  · exact h'.of_keeps (keeps_sessionClose d') (by simp)

theorem survives_supplyCut {d : Die} {c : Cmd} (h : Holds d c) (hdone : c.done = false) (hk : c.ticket ≠ 0) (t : Nat) :
    Survives c (supplyCut d t) := by
  by_cases ht : t = c.ticket
  · exact ht ▸ ⟨_, (supplyCut_spec h hdone hk).1, .inr ⟨_, rfl⟩⟩
  · have h' : Holds (updBoot d fun b => { b with flashOps := b.flashOps.take 1 }) c := h.of_keeps (ps := [.boot]) (by simp) (by simp)
    have hended := holds_parcelEnd_other h' ht 0xE 0xF 0
    refine ⟨c, ?_, .inl rfl⟩
    unfold supplyCut
    exact hended.of_keeps (ps := [.regs, .lgb]) (by simp) (by simp)

theorem survives_vinSettle {d : Die} {c : Cmd} (h : Holds d c) (hdone : c.done = false) (hk : c.ticket ≠ 0) : Survives c (vinSettle d) := by
  have hsame : Survives c d := ⟨c, h, .inl rfl⟩
  unfold vinSettle
  extract_lets warn
  split
  · exact hsame
  · split
    · split
      · unfold vinCrosses
        extract_lets d1 d2 d3
        have h3 : Holds d3 c := by
          refine h.of_keeps (ps := [.regs, .pwr, .lgb]) ?_ (by simp)
          unfold d3
          split <;> simp [d2, d1]
        split
        · exact survives_supplyCut h3 hdone hk _
        · exact ⟨c, h3, .inl rfl⟩
      · exact hsame
    · split
      · exact hsame.of_keeps (ps := [.regs, .pwr]) (by simp) (by simp)
      · exact hsame

theorem survives_loadDone {d : Die} {c : Cmd} (h : Holds d c) (hdone : c.done = false) (hk : c.ticket ≠ 0) (gen bank : Nat)
    (hostDl lock : Bool) (min : Nat) : Survives c (loadDone d gen bank hostDl lock min) := by
  rw [loadDone_eq]
  have h1 : Survives c (parcelTaken d gen bank hostDl min) := by
    unfold parcelTaken
    extract_lets d1 d2 d3
    have h3 : Holds d3 c := h.of_keeps (ps := [.regs]) (by simp [d3, d2, d1]) (by simp)
    exact survives_vinSettle (h3.of_keeps (ps := [.boot]) ((keeps_updBoot _ _ (by simp) _).2 (.refl _ d3)) (by simp)) hdone hk
  generalize parcelTaken d gen bank hostDl min = d1 at h1
  have h2 := h1.of_keeps (keeps_declaredIn d1 lock) (by simp)
  generalize declaredIn d1 lock = d2 at h2
  have h3 := h2.of_keeps (keeps_runsNow d2) (by simp)
  generalize runsNow d2 = d3 at h3
  have h4 := h3.of_keeps (keeps_networksUp d3) (by simp)
  generalize networksUp d3 = d4 at h4
  exact h4.of_keeps (finished_spec d4 gen).2.1 (by simp)

theorem survives_loadImage {d x : Die} {c : Cmd} (h : Holds d c) (hdone : c.done = false) (hk : c.ticket ≠ 0) {img : List Byte}
    {crc gen bank : Nat} {hostDl : Bool} (hx : loadImage d img crc gen bank hostDl = .ok x) : Survives c x := by
  unfold loadImage at hx
  split at hx
  · exact nomatch hx
  next y hjudge =>
    obtain rfl := Except.ok.inj hx
    obtain rfl := judgeImage_ok hjudge
    exact survives_loadDone (h.of_keeps (keeps_candidate d img) (by simp [candidateParts])) hdone hk _ _ _ _ _

/-! PARCEL_COMMIT. -/

/-- The session is closed and the command done, with one of the statuses of a commit. -/
def CommitDone (c : Cmd) (d : Die) : Prop := flag d Reg.GLB_BOOT_STAT_SESSION = false ∧
  ∃ y, Holds d y ∧ y.done = true ∧ y.ticket = c.ticket ∧ y.op = c.op ∧ (y.status = 0 ∨ y.status = 1 ∨ y.status = 0xD ∨ y.status = 0xE)

section Commit

variable {d : Die} {c : Cmd} {fl : FlashRun}

theorem commitDone_closed {e : Die} (h : Survives c e) (hdone : c.done = false) (hk : c.ticket ≠ 0) (r1 : Nat) :
    CommitDone c (sessionClose (complete e c.ticket 0 0 r1)) := by
  refine ⟨session_sessionClose _, ?_⟩
  obtain ⟨y, hy, rfl | ⟨r0, rfl⟩⟩ := h
  · exact ⟨_, (hy.complete hdone hk 0 0 r1).of_keeps (keeps_sessionClose _) (by simp), rfl, rfl, rfl, .inl rfl⟩
  · exact ⟨_, (hy.complete_other (t := c.ticket) (.inr rfl) 0 0 r1).of_keeps (keeps_sessionClose _) (by simp), rfl, rfl, rfl,
      .inr (.inr (.inr rfl))⟩

theorem commitDone_failed {e : Die} (h : Holds e c) (hdone : c.done = false) (hk : c.ticket ≠ 0) {st : Nat} (hst : st = 1 ∨ st = 0xD)
    (code r1 : Nat) : CommitDone c (parcelEnd e c.ticket st code r1) := by
  have hne : st ≠ 0 := by omega
  exact ⟨session_parcelEnd h hne code r1, _, holds_parcelEnd h hdone hk hne code r1, rfl, rfl, rfl, by
    obtain rfl | rfl := hst
    · exact .inr (.inl rfl)
    · exact .inr (.inr (.inl rfl))⟩

theorem commitDone_refused {e : Die} (h : Holds e c) (hdone : c.done = false) (hk : c.ticket ≠ 0) (r : Refused) (code : Nat) :
    CommitDone c (parcelEnd (putBootErr e r 0) c.ticket 0xD code 0) :=
  commitDone_failed (h.of_keeps (keeps_putBootErr e r 0) (by simp)) hdone hk (.inr rfl) code 0

/-- A commit that the flash does not keep waiting ends. -/
theorem commitDone_parcelCommit (h : Holds d c.on) (hdone : c.done = false) (hs : c.started = false) (hk : c.ticket ≠ 0)
    (hend : fl.ending ≠ .running ∨ hostDownload d = true ∨ flag d Reg.PWR_STAT_VWARN = true) : CommitDone c.on (parcelCommit d c fl) := by
  unfold parcelCommit
  extract_lets host bank img scrc
  split
  next hwarn =>
    obtain ⟨hheld, hclosed, -⟩ := supplyCut_spec h hdone hk
    exact ⟨hclosed, _, hheld, rfl, rfl, rfl, .inr (.inr (.inr rfl))⟩
  next hwarn =>
    split
    next hhost =>
      split
      next x hx => exact commitDone_closed (survives_loadImage h hdone hk hx) hdone hk scrc
      next e he => exact commitDone_refused h hdone hk e _
    next hhost =>
      split
      next hscan => exact commitDone_failed h hdone hk (.inl rfl) _ _
      next hscan =>
        split
        next e he => exact commitDone_refused h hdone hk e _
        next x hx =>
          rw [Bool.not_eq_true] at hscan
          cases hfl : fl.ending with
          | good =>
            rw [flashDo_good hscan hs hfl]
            exact commitDone_closed ⟨_, h.of_keeps (keeps_flashGo d _ fl) (by simp), .inl rfl⟩ hdone hk scrc
          | fault =>
            rw [flashDo_fault hscan hs hfl]
            exact commitDone_failed (h.of_keeps (keeps_flashGo d _ fl) (by simp)) hdone hk (.inl rfl) _ _
          | running => exact absurd hfl (hend.resolve_right fun hor => hor.elim hhost hwarn)

end Commit

theorem ends_parcelCommit {s : State} {user : BitVec 16} {fl : FlashRun} (ht : takes s (descOf 0x22 user [])) (hk : nextTicket s ≠ 0)
    (hfree : queueFree s 1) (hnew : ∀ x ∈ s.die.host.cmds, x.ticket ≠ nextTicket s) :
    ends (.parcelCommit user fl) s fun t =>
      ((fl.ending ≠ .running ∨ hostDownload s.die = true ∨ flag s.die Reg.PWR_STAT_VWARN = true) →
        flag t.die Reg.GLB_BOOT_STAT_SESSION = false ∧ doneWith s t 0x22 fun x => x = 0 ∨ x = 1 ∨ x = 0xD ∨ x = 0xE) ∧
      ∃ c ∈ t.die.host.cmds, c.ticket = nextTicket s ∧ c.op = 0x22 ∧ (c.done = true ∨ c.started = true) := by
  refine ends_serial (P := _) rfl ht (by decide) (by simp) (by simp) rfl (by decide) (by decide) hfree hnew
    (fun m hm => stillOk_parcel (.inr (.inl rfl)) (by simp) (by simp) ht hm) fun m hm => ?_
  have hticket : (serialCmd (nextTicket s) 0x22 user [] 1).on.ticket = nextTicket s := rfl
  have hop : (serialCmd (nextTicket s) 0x22 user [] 1).on.op = 0x22 := rfl
  have hflags : (serialCmd (nextTicket s) 0x22 user [] 1).done = false ∧ (serialCmd (nextTicket s) 0x22 user [] 1).started = false := ⟨rfl, rfl⟩
  generalize serialCmd (nextTicket s) 0x22 user [] 1 = c at hm hticket hop hflags ⊢
  obtain ⟨hdone, hs⟩ := hflags
  refine ⟨fun hend => ?_, ?_⟩
  · have hcommit := commitDone_parcelCommit (fl := fl) hm.holdsOn hdone hs (hticket ▸ hk) (by rwa [hm.host, hm.vwarn])
    rw [serialRun_commit (c := c) hop]
    obtain ⟨hclosed, y, hy, hyd, hyt, hyo, hys⟩ := hcommit
    exact ⟨(flag_serialEnd _ _ _).trans hclosed, y, (hy.serialEnd (by rw [hyo, hop]; decide) s).mem, hyt.trans hticket, hyo.trans hop, hyd, hys⟩
  · obtain ⟨y, hy, hon⟩ := ((cmdsOn_serialRun m c fl).trans (cmdsOn_settleNops _)).mem hm.holdsOn.mem
    refine ⟨y, ?_, hon.ticket.trans hticket, hon.op.trans hop, .inr (hon.started rfl)⟩
    exact (cmds_irqSettle _ _).symm ▸ hy

/-! PARCEL_ABORT. -/

theorem ends_parcelAbort {s : State} {user : BitVec 16} (ht : takes s (descOf 0x23 user [])) (hk : nextTicket s ≠ 0)
    (hfree : queueFree s 1) (hnew : ∀ x ∈ s.die.host.cmds, x.ticket ≠ nextTicket s) :
    ends (.parcelAbort user) s fun t => ticketed s t 0x23 user 1 ∧
      flag t.die Reg.GLB_BOOT_STAT_SESSION = false ∧ t.die.boot.written = [] ∧ t.die.boot.flash = s.die.boot.flash ∧
      doneWith s t 0x23 (· = 0) := by
  refine ends_serial (P := _) rfl ht (by decide) (by simp) (by simp) rfl (by decide) (by decide) hfree hnew
    (fun m hm => stillOk_parcel (.inr (.inr rfl)) (by simp) (by simp) ht hm) fun m hm => ?_
  have hentry := entry_serialCmd s 0x23 user [] 1
  have hboot := (hm.alike (by simp only [serialCmd]; decide)).2
  have hticket : (serialCmd (nextTicket s) 0x23 user [] 1).on.ticket = nextTicket s := rfl
  have hdone : (serialCmd (nextTicket s) 0x23 user [] 1).on.done = false := rfl
  rw [serialRun_abort rfl]
  generalize serialCmd (nextTicket s) 0x23 user [] 1 = c at hm hentry hticket hdone ⊢
  have hheld := (hm.holdsOn.complete hdone (hticket ▸ hk) 0 0 0).of_keeps (keeps_sessionClose _) (by simp)
  have hleaves : Leaves (fun off => ¬ ticketReg off) m (parcelAbort m c) :=
    (leaves_updBoot _ _ _).2 ((leaves_setFld (p := fun off => ¬ ticketReg off) _ _ (f := Reg.GLB_BOOT_STAT_SESSION)
      (by unfold ticketReg; decide) 0).2 ((leaves_complete _ _ _ _ _ _).2 (.refl _ m)))
  have hflash : (parcelAbort m c).boot.flash = m.boot.flash := by
    rw [← boot_complete m c.ticket 0 0 0]
    rfl
  refine ⟨ticketed_serial hm hticket hleaves hheld (hentry.ended 0 0 0) (by decide), (flag_serialEnd _ _ _).trans (session_sessionClose _),
    by rw [boot_serialEnd]; rfl, ?_, done_serial hheld (hentry.ended 0 0 0) (by decide) rfl rfl⟩
  rw [boot_serialEnd, hflash, hboot]

end Sys2Proof.Machine
end

section
/-! PROOFS. O26: LEASH_PROOF and the fuse commands (R246, R413), and the obligation. -/

namespace Sys2Proof.Machine

open Sys2Proof

theorem bv_lt {n : Nat} (x : BitVec n) (h : n ≤ 32) : x.toNat < 2 ^ 32 := lt_of_lt_of_le x.isLt (Nat.pow_le_pow_right (by decide) h)

/-! LEASH_PROOF. -/

theorem proofStart_spec (d : Die) {seg : Nat} (hseg : seg < 4) (k : Nat) : Leaves (fun off => ¬ ticketReg off) d (proofStart d seg k) ∧
    pathState (proofStart d seg k) seg = 5 ∧ (segH (proofStart d seg k) seg).proof = 1 ∧
    (segH (proofStart d seg k) seg).proofTicket = k := by
  have hnot : ∀ off, 0xC000 ≤ off → off < 0xC0000 → ¬ ticketReg off := fun off h1 h2 => by
    simp only [ticketReg, Reg.HST_CMD_RESULT, Reg.HST_STAT]
    omega
  have hps : ¬ ticketReg (Reg.LSH_PSTAT (2 * seg + 1)) := hnot _ (by simp only [Reg.LSH_PSTAT]; omega) (by simp only [Reg.LSH_PSTAT]; omega)
  have hpa : ¬ ticketReg (Reg.LSH_PATH seg) := hnot _ (by simp only [Reg.LSH_PATH]; omega) (by simp only [Reg.LSH_PATH]; omega)
  have hpr : ¬ ticketReg (Reg.LSH_PROOF seg) := hnot _ (by simp only [Reg.LSH_PROOF]; omega) (by simp only [Reg.LSH_PROOF]; omega)
  have hne : Reg.LSH_PATH seg ≠ Reg.LSH_PROOF seg := by
    simp only [Reg.LSH_PATH, Reg.LSH_PROOF]
    omega
  unfold proofStart
  extract_lets v d1 d2
  have h1 : Leaves (fun off => ¬ ticketReg off) d d1 :=
    (leaves_setFld (p := fun off => ¬ ticketReg off) _ _ (f := Reg.LSH_PATH_STATE seg) hpa 5).2
      ((leaves_putFlag (p := fun off => ¬ ticketReg off) _ _ (f := Reg.LSH_PSTAT_TXON (2 * seg + 1)) hps true).2
        ((leaves_updPwr _ _ _).2 (.refl _ d)))
  have h2 : Leaves (fun off => ¬ ticketReg off) d1 d2 :=
    (leaves_setFld (p := fun off => ¬ ticketReg off) _ _ (f := Reg.LSH_PROOF_VALID seg) hpr v).2
      ((leaves_putReg (p := fun off => ¬ ticketReg off) _ _ hpr 0).2 (.refl _ d1))
  have hpath : pathState d2 seg = 5 := by
    have hd2 : getReg d2 (Reg.LSH_PATH seg) = getReg d1 (Reg.LSH_PATH seg) := by
      unfold d2
      rw [getReg_setFld_ne _ (Reg.LSH_PROOF_VALID seg) v hne, getReg_putReg_ne _ _ hne]
    exact (fld_congr (f := Reg.LSH_PATH_STATE seg) hd2).trans (pathState_setFld _ seg (v := 5) (by decide))
  clear_value d2
  refine ⟨(h1.trans h2).trans (.of_regs rfl), hpath, ?_, ?_⟩
  · rw [proofPhase, segH_updSeg_same _ _ _ hseg]
  · rw [proofPhase, segH_updSeg_same _ _ _ hseg, segH_updSeg_same _ _ _ hseg]

theorem ends_leashProof {s : State} {user : BitVec 16} (seg : Fin 4) (ht : takes s (descOf 0x40 user [seg.val]))
    (hfree : queueFree s 3) (hnew : ∀ x ∈ s.die.host.cmds, x.ticket ≠ nextTicket s) :
    ends (.leashProof seg user) s fun t => ticketed s t 0x40 user 3 ∧
      pathState t.die seg.val = 5 ∧ (segH t.die seg.val).proof = 1 ∧ (segH t.die seg.val).proofTicket = nextTicket s := by
  have hw : ∀ w ∈ [seg.val], w < 2 ^ 32 := by
    have := seg.isLt
    simp only [List.mem_singleton, forall_eq]
    omega
  refine ends_serial (P := _) (fl := flashWell) rfl ht (by decide) (by simp) hw rfl (by decide) (by decide) hfree hnew (fun m hm => ?_)
    fun m hm => ?_
  · have hok := judged_ok (by decide) (by simp) hw ht
    obtain ⟨hl, hk⟩ := hm.judged (by simp only [serialCmd]; decide)
    have hproof : proofOk (mailed s (descOf 0x40 user [seg.val])) seg.val = true := by
      simp only [cmdOk] at hok
      split at hok
      · exact nomatch hok
      · exact (Bool.and_eq_true_iff.1 hok).2
    exact (proofOk_of_leaves hl hk seg.isLt).trans hproof
  · have hentry := entry_serialCmd s 0x40 user [seg.val] 3
    have hticket : (serialCmd (nextTicket s) 0x40 user [seg.val] 3).on.ticket = nextTicket s := rfl
    have hword : nth (serialCmd (nextTicket s) 0x40 user [seg.val] 3).words 1 = seg.val := rfl
    rw [serialRun_proof rfl, hword]
    generalize serialCmd (nextTicket s) 0x40 user [seg.val] 3 = c at hm hentry hticket ⊢
    obtain ⟨hl, hpath, hphase, hproof⟩ := proofStart_spec m seg.isLt c.ticket
    have hheld := hm.holdsOn.of_keeps (keeps_proofStart m seg.val c.ticket) (by simp)
    have hsegs : ∀ n, segH (serialEnd s (proofStart m seg.val c.ticket)).die n = segH (proofStart m seg.val c.ticket) n := fun n => by
      rw [segH, keeps_serialEnd s _ .segs (by simp), segH]
    refine ⟨ticketed_serial hm hticket hl hheld hentry (by decide), ?_, by rw [hsegs, hphase], by rw [hsegs, hproof]; exact hticket⟩
    exact (fld_congr (f := Reg.LSH_PATH_STATE seg.val) (getReg_serialEnd s _ _)).trans hpath

/-! The fuse commands. -/

/-- A fuse command that was judged may run when it starts at once. -/
theorem stillOk_fuse {s : State} {op : Nat} {user : BitVec 16} {ws : List Nat} (hop : op = 0x41 ∨ op = 0x42)
    (hok : fuseOk (mailed s (descOf op user ws)) = true) {m : Die}
    (hm : Starting s (serialCmd (nextTicket s) op user ws 3) m) : stillOk m (serialCmd (nextTicket s) op user ws 3) = true := by
  have hopen : opener op (descOf op user ws) (found s) = fuseVoid (found s) := by
    unfold opener
    rw [if_neg (by omega), if_pos hop]
  have hvoid : Leaves armReg (found s) (fuseVoid (found s)) :=
    (leaves_updBoot _ _ _).2 ((leaves_setFld (p := armReg) _ _ (f := Reg.LOG_DBG_ARMED) (.inr rfl) 0).2 (.refl _ _))
  have hstart : Leaves armReg (fuseVoid (found s)) m := (hopen ▸ hm.leaves : Leaves mailReg (fuseVoid (found s)) m).mono fun _ => .inl
  have hmail : Leaves armReg (mailed s (descOf op user ws)) (found s) := fun off hoff =>
    (leaves_mailed s _ off fun hbig => hoff (.inl (.inr hbig))).symm
  have hboot : (mailed s (descOf op user ws)).boot = (found s).boot := keeps_mailed s _ .boot (by simp)
  have hblown : m.boot.blown = (mailed s (descOf op user ws)).boot.blown := by
    rw [hm.boot, hboot]
    exact (congrArg (·.boot.blown) hopen).trans rfl
  have h := (fuseOk_of_leaves ((hmail.trans hvoid).trans hstart) hblown).trans hok
  obtain rfl | rfl := hop
  all_goals exact h

theorem fuseOk_arm {s : State} {user : BitVec 16} {f : Nat} (hok : cmdOk (mailed s (descOf 0x41 user [f])) 0x41 (descOf 0x41 user [f]) = true) :
    fuseOk (mailed s (descOf 0x41 user [f])) = true := by
  simp only [cmdOk] at hok
  split at hok
  · exact nomatch hok
  · exact (Bool.and_eq_true_iff.1 hok).2

theorem fuseOk_burn {s : State} {user : BitVec 16} {f code : Nat}
    (hok : cmdOk (mailed s (descOf 0x42 user [f, code])) 0x42 (descOf 0x42 user [f, code]) = true) :
    fuseOk (mailed s (descOf 0x42 user [f, code])) = true ∧ code = s.die.boot.armCode := by
  have hboot : (mailed s (descOf 0x42 user [f, code])).boot = (found s).boot := keeps_mailed s _ .boot (by simp)
  simp only [cmdOk] at hok
  split at hok
  · exact nomatch hok
  · simp only [Bool.and_eq_true, beq_iff_eq] at hok
    obtain ⟨⟨⟨-, hfuse⟩, -⟩, hcode⟩ := hok
    rw [hboot] at hcode
    exact ⟨hfuse, hcode⟩

/-- FUSE_ARM draws a code that is not zero and answers with it. -/
theorem fuseArmRun_spec (d : Die) (c : Cmd) : ∃ e code, fuseArmRun d c = complete e c.ticket 0 code 0 ∧ code ≠ 0 ∧ e.boot.armCode = code ∧
    e.boot.blown = d.boot.blown ∧ flag e Reg.LOG_DBG_ARMED = true ∧ e.host = d.host ∧ Leaves (fun off => ¬ ticketReg off) d e := by
  refine ⟨_, _, rfl, Nat.succ_ne_zero _, rfl, rfl, ?_, rfl, ?_⟩
  · exact flag_setFlag_same (draw d).2 Reg.LOG_DBG_ARMED (by decide) rfl
  · exact (leaves_updBoot _ _ _).2 ((leaves_setFlag (p := fun off => ¬ ticketReg off) _ _ (f := Reg.LOG_DBG_ARMED)
      (by unfold ticketReg; decide)).2 (.of_regs rfl))

theorem ends_fuseArm {s : State} {user : BitVec 16} (f : BitVec 8) (ht : takes s (descOf 0x41 user [f.toNat])) (hk : nextTicket s ≠ 0)
    (hfree : queueFree s 3) (hnew : ∀ x ∈ s.die.host.cmds, x.ticket ≠ nextTicket s) :
    ends (.fuseArm f user) s fun t => ticketed s t 0x41 user 3 ∧
      flag t.die Reg.LOG_DBG_ARMED = true ∧ t.die.boot.armCode ≠ 0 ∧ t.die.boot.blown = s.die.boot.blown ∧
      ∃ c ∈ t.die.host.cmds, c.ticket = nextTicket s ∧ c.done = true ∧ c.status = 0 ∧ c.r0 = t.die.boot.armCode := by
  have hw : ∀ w ∈ [f.toNat], w < 2 ^ 32 := fun w hmem => List.mem_singleton.1 hmem ▸ bv_lt f (by decide)
  refine ends_serial (P := _) (fl := flashWell) rfl ht (by decide) (by simp) hw rfl (by decide) (by decide) hfree hnew
    (fun m hm => stillOk_fuse (.inl rfl) (fuseOk_arm (judged_ok (by decide) (by simp) hw ht)) hm) fun m hm => ?_
  have hentry := entry_serialCmd s 0x41 user [f.toNat] 3
  have hticket : (serialCmd (nextTicket s) 0x41 user [f.toNat] 3).on.ticket = nextTicket s := rfl
  have hdone : (serialCmd (nextTicket s) 0x41 user [f.toNat] 3).on.done = false := rfl
  have hblown : m.boot.blown = s.die.boot.blown := (congrArg Boot.blown hm.boot).trans rfl
  rw [serialRun_arm rfl]
  generalize serialCmd (nextTicket s) 0x41 user [f.toNat] 3 = c at hm hentry hticket hdone ⊢
  obtain ⟨e, code, heq, hcode, harm, hbl, hflag, hhost, hleaves⟩ := fuseArmRun_spec m c
  have hheld := (hm.holdsOn.of_eq (congrArg HostSt.cmds hhost)).complete hdone (hticket ▸ hk) 0 code 0
  have hall : Leaves (fun off => ¬ ticketReg off) m (complete e c.ticket 0 code 0) := (leaves_complete _ _ _ _ _ _).2 hleaves
  have hboot : (serialEnd s (complete e c.ticket 0 code 0)).die.boot = e.boot := by rw [boot_serialEnd, boot_complete]
  rw [heq]
  refine ⟨ticketed_serial hm hticket hall hheld (hentry.ended 0 code 0) (by decide), ?_, ?_, ?_, _,
    (hheld.serialEnd (hentry.op ▸ by decide) s).mem, hticket, rfl, rfl, ?_⟩
  · rw [flag_serialEnd, flag_of_leaves ((leaves_complete (p := fun _ => False) e e _ _ _ _).2 (.refl _ e)) _ not_false]
    exact hflag
  · rw [hboot, harm]
    exact hcode
  · rw [hboot, hbl, hblown]
  · rw [hboot, harm]
    rfl

theorem ends_fuseBurn {s : State} {user : BitVec 16} (f : BitVec 8) (code : Word) (ht : takes s (descOf 0x42 user [f.toNat, code.toNat]))
    (hfree : queueFree s 3) (hnew : ∀ x ∈ s.die.host.cmds, x.ticket ≠ nextTicket s) :
    ends (.fuseBurn f code user) s fun t => ticketed s t 0x42 user 3 ∧ t.die.boot.burnTicket = nextTicket s ∧ t.die.boot.armCode = 0 ∧
      flag t.die Reg.LOG_DBG_ARMED = false ∧ code.toNat = s.die.boot.armCode := by
  have hw : ∀ w ∈ [f.toNat, code.toNat], w < 2 ^ 32 := fun w hmem => by
    obtain rfl | hmem := List.mem_cons.1 hmem
    · exact bv_lt f (by decide)
    · exact List.mem_singleton.1 hmem ▸ bv_lt code (by decide)
  obtain ⟨hfuse, hcode⟩ := fuseOk_burn (judged_ok (by decide) (by simp) hw ht)
  refine ends_serial (P := _) (fl := flashWell) rfl ht (by decide) (by simp) hw rfl (by decide) (by decide) hfree hnew
    (fun m hm => stillOk_fuse (.inr rfl) hfuse hm) fun m hm => ?_
  have hentry := entry_serialCmd s 0x42 user [f.toNat, code.toNat] 3
  have hticket : (serialCmd (nextTicket s) 0x42 user [f.toNat, code.toNat] 3).on.ticket = nextTicket s := rfl
  have harm : m.boot.armCode = 0 := congrArg Boot.armCode hm.boot
  have hflag : flag m Reg.LOG_DBG_ARMED = false :=
    (flag_congr (hm.leaves Reg.LOG_DBG (not_mailReg (by decide) (by decide)))).trans
      (flag_putFlag_same (found s) Reg.LOG_DBG_ARMED false (by decide) rfl)
  rw [serialRun_burn rfl]
  generalize serialCmd (nextTicket s) 0x42 user [f.toNat, code.toNat] 3 = c at hm hentry hticket ⊢
  have hheld : Holds (updBoot m fun b => { b with burnTicket := c.ticket }) c.on := hm.holdsOn.of_keeps (ps := [.boot]) (by simp) (by simp)
  refine ⟨ticketed_serial hm hticket ((leaves_updBoot _ _ _).2 (.refl _ m)) hheld hentry (by decide), ?_, ?_, ?_, hcode⟩
  · rw [boot_serialEnd]
    exact hticket
  · rw [boot_serialEnd]
    exact harm
  · rw [flag_serialEnd]
    exact hflag

/-- Settles O26: an accepted command starts at once, its entry followed through the step that its opcode takes. -/
theorem serialCommands : Obligations.SerialCommands := by
  unfold Obligations.SerialCommands
  intro s user fl k run warn calm flash
  exact ⟨fun len crc ht _ hk hfree hnew => ends_parcelBegin len crc ht hk hfree hnew,
    fun off ws ht hwf hk hfree hnew => ends_parcelData off ws ht (of_decide_eq_true hwf) hk hfree hnew,
    fun ht _ hk hfree hnew => ends_parcelCommit ht hk hfree hnew, fun ht _ hk hfree hnew => ends_parcelAbort ht hk hfree hnew,
    fun seg ht _ _ hfree hnew => ends_leashProof seg ht hfree hnew, fun f ht _ hk hfree hnew => ends_fuseArm f ht hk hfree hnew,
    fun f code ht _ _ hfree hnew => ends_fuseBurn f code ht hfree hnew⟩

end Sys2Proof.Machine
end
